-- ==== Sys2Proof/Word.lean ====
section
/-!
DEFINITION. The plainest words of the model: bytes, blocks of media data, register fields and the access codes of R17.
-/

namespace Sys2Proof

/-- One byte. -/
abbrev Byte := BitVec 8

/-- One logical block of user data, 4 KiB (R44). -/
abbrev Block := BitVec 32768

/-- An actuator number (R1). -/
abbrev Act := Fin 4

/-- A head of an actuator (R1). -/
abbrev LHead := Fin 10

/-- A head in the global numbering (R12). -/
abbrev GHead := Fin 40

/-- A recording zone of a head (R51). -/
abbrev RZone := Fin 64

namespace Machine

/-- A field of a register: block id (R15), target selector (R14), byte offset, lowest bit, width, reset value.
Offsets from 0x10000 up name engine state that the spec describes but gives no address. -/
structure Fld where
  blk  : Nat
  inst : Nat
  off  : Nat
  lo   : Nat
  w    : Nat
  rst  : Nat
deriving DecidableEq, Repr

/-- Access codes of R17. -/
inductive Acc where
  | ro | rw | wo | w1c | w1s
deriving DecidableEq, Repr

/-- One row of a register table: offset, stride and count of the register, and the field in it. -/
structure RegRow where
  off    : Nat
  stride : Nat
  cnt    : Nat
  lo     : Nat
  w      : Nat
  rst    : Nat
  acc    : Acc
deriving DecidableEq, Repr

end Machine

end Sys2Proof
end

