-- ==== Sys2Proof/Syntax.lean ====
section
/-!
DEFINITION. The commands of the block and the types of their operands. A command is an operation, a register write, a
protocol frame or an event; its operands are what it carries and what the world outside the block contributes to it:
samples, measured values, outcomes of decoders, contents of frames.
-/

namespace Sys2Proof

/-- The classes of the defect detector (R75). -/
inductive DefectClass where
  | asperity | dropout | instability
deriving DecidableEq, Repr

/-- A Barker microword as the store holds it: four quarters and the stored parity bits (R123, R124). As an operand: the bits
of the word at the sequencer's address that have flipped in the store since it was loaded. -/
structure BarkerWord where
  q0  : BitVec 32
  q1  : BitVec 32
  q2  : BitVec 32
  q3  : BitVec 32
  par : BitVec 4
deriving DecidableEq, Repr

/-- What a sequencer meets in the cycle of a word: servo cells from the address mark, channel bits from the start of the
data region (R127), and the cause of an abandoning event that falls in the same cycle, 0 for none (R133). -/
structure BarkerNow where
  cell : Nat
  bit  : Nat
  ab   : Fin 16
deriving DecidableEq, Repr

/-- What a Barker routine is for (R128, R132). -/
inductive RoutineKind where
  | job
  | headSwitch
  | writeValues
  | measurement
deriving DecidableEq, Repr

/-- What a servo wedge reads as (R36, R142 to R148): the cells around the predicted address mark as the demodulator slices them,
the timebase at the first of them, the four burst amplitudes, and the head skew that firmware measures with this wedge, if it does
(R159). -/
structure WedgeRead where
  cells : List Bool
  start : BitVec 32
  a     : Nat
  b     : Nat
  c     : Nat
  d     : Nat
  hskew : Option (BitVec 16)
deriving DecidableEq, Repr

/-- A Trapeze microword as the store holds it: five slices and the stored parity bits (R164, R165). As an operand: the bits of the
word that have flipped in the store since it was loaded. -/
structure TrzWord where
  s0  : BitVec 32
  s1  : BitVec 32
  s2  : BitVec 32
  s3  : BitVec 32
  s4  : BitVec 32
  par : BitVec 5
deriving DecidableEq, Repr

/-- What Carousel observes in a PWM period (R199): the timebase of the servo's stamps at the PWM centre; the resolver's demodulated
sine and cosine where a measurement is new, with its age at the centre in counts of that timebase; the flux observer's angle in
1/65,536 electrical revolution, where it has one, with its age, and the observer's speed in 0.001 r/min. The observer's inner
structure is not in the spec. -/
structure PwmObs where
  now   : BitVec 32
  res   : Option (Int × Int × Nat)
  bemf  : Option (BitVec 16 × Nat)
  speed : Nat
deriving DecidableEq, Repr

/-- A frame of the die-to-die link (R22). What the model's own state gives the frame (demands, duties, mode, heartbeat
counts, supplies, status, start requests) is not an operand; what Strongman measures is: phase currents, VCM currents, VCM terminal
voltages in mV, the message slot, and whether the phase currents are a new PWM-centre sample. -/
inductive LinkFrame where
  | toStrongman (crcOk : Bool)
  | toController (crcOk : Bool) (phases vcms volts : List Int) (msg : BitVec 32) (pwmNew : Bool)
deriving DecidableEq, Repr

/-- What names a command in flight: controller, queue, command identifier. -/
structure CmdId where
  cntlid : Nat
  qid    : Nat
  cid    : Nat
deriving DecidableEq, Repr

/-- What a command takes in the Turnstile, as its submission queue entry shows it (R294). -/
inductive Scope where
  | lba (nsid lo n : Nat) (write : Bool)
  | key (nsid : Nat) (key : List Byte) (write : Bool)
  | keys (nsid : Nat)
  | mem (lo n : Nat) (write : Bool)
  | append (nsid lba n : Nat)
  | zone (nsid lba : Nat)
  | whole (nsid : Nat)
  | rangeSet (id : Nat)
deriving DecidableEq, Repr

/-- A command waiting at the front of a submission queue: its identity, the namespace it names, its scopes, and the
logical blocks it brings to staging. -/
structure Waiting where
  id     : CmdId
  nsid   : Nat
  scopes : List Scope
  blocks : Nat
deriving DecidableEq, Repr


/-- What the port sees of a connection at its Connect (R319): transport, 1 TCP or 2 RoCEv2, address of the host, digests
requested, in-capsule size used; `disc` that it names the discovery subsystem of R313. -/
structure ConnData where
  disc    : Bool
  tr      : Nat
  addr    : BitVec 128
  digests : BitVec 2
  inCap   : BitVec 16
deriving DecidableEq, Repr


/-- A source range of a Memory Copy (R290): bytes of Subsystem Local Memory, or blocks of a storage namespace. -/
inductive CopySrc where
  | mem (off len : Nat)
  | lba (nsid lba nlb : Nat)
deriving DecidableEq, Repr

/-- An entry of the discovery controller's log with what authentication and the peer hello gave (R340): whether its NQN
carries the prefix of R313, its address, whether it authenticated, group identifier, serial number, epoch, largest k, m
and fragment code. -/
structure Found where
  lamcel : Bool
  addr   : List Byte
  authOk : Bool
  gid    : List Byte
  serial : List Byte
  epoch  : Nat
  kMax   : Nat
  mMax   : Nat
  fMax   : Nat
deriving DecidableEq, Repr


/-- A Casgus request of a mailbox, named by its tag (R357). -/
structure ReqId where
  mb  : Fin 64
  tag : BitVec 16
deriving DecidableEq, Repr



/-- What stands outside the block when a register is written that starts a check or an action (R123, R152, R164, R224,
R230, R322, R349, R453): a clock on SerDes reference B, the service defaults pass their check, the resolver tracks, the CRC
of each sequencer's store and of Trapeze's store pass, the current of the test pulse, Tj has been steady for 60 s, an
unload request meets an actuator within 1 ms of ACQUIRE; and the bits of the register that the hardware sets in the cycle of
the write (R18), for each word a request writes, in their order, by instance. -/
structure World where
  refB       : Bool
  defaultsOk : Bool
  resOk      : Bool
  seqCrc     : BitVec 4
  trzCrc     : Bool
  pulse      : Nat
  steady     : Bool
  soon       : BitVec 4
  hw         : List (List (BitVec 32))
deriving DecidableEq, Repr



/-- What an ageing run measured (R457): items that could not run with the cause; GB written by the head; laser threshold
and slope, overwrite, touchdown power, milliactuator stroke of a head, or drag current, AVS voltage and refresh ratios of
the device, none where not measured; SNR per zone in 0.01 dB; friction points by actuator; for each trim register its
offset, the code it needs, the element at fault, the code of the spare, and whether it failed its own test or its trace
limit; which reference ratios moved by more than 0.2 % (pairs 0-1, 0-2, 1-2), the three ratios as numbers, and whether the
clock ratio moved by more than 50 ppm. -/
structure AgeResult where
  skipped  : List (Nat × Nat)
  gbw      : Nat
  items    : List (Option Nat)
  snr      : List (Option Int)
  friction : List (Nat × List Nat)
  trims    : List (Nat × Nat × Nat × Nat × Bool)
  moved    : Bool × Bool × Bool
  ratios   : List Nat
  clock    : Bool
deriving DecidableEq, Repr

/-- How tracing ended (R453): a missing reference and its value, or the clock error in parts per 10^9, the three
references in µV, Tj in 0.1 °C, and the code of each trim register by offset. -/
inductive TraceResult where
  | missing (ref value : Nat)
  | traced (ppb : Int) (vref : List Nat) (tj : Int) (codes : List (Nat × Nat))
deriving DecidableEq, Repr


/-- The commands of the block, one constructor per row of the opcode table, in its order. -/
inductive Instr where
  /-- POWER_ON_RESET: VIN5 becomes valid after being invalid; the power-cycle count advances and the start order runs from step 1. (R481) -/
  | powerOnReset
  /-- VIN5_LOSS: VIN5 falls below 3.8 V; the Caravan island and all VIN5-held state are lost. (R21) -/
  | vin5Loss
  /-- RAIL_LOSS_RESET: A switched rail leaves its range for 10 µs while enabled; Caravan lowers every enable and restarts from step 2. (R481) -/
  | railLossReset
  /-- FIRMWARE_RESET: Firmware takes a durable point, unloads, stops the spindle, then resets the controller die once Carousel reports STOPPED. (R483) -/
  | firmwareReset
  /-- RINGMASTER_RESTART: A poisoned firmware data page or a third INTERNAL status within 1 h restarts the controller die from step 3. (R481) -/
  | ringmasterRestart
  /-- DIE_LINK_FRAME: A die-to-die link frame arrives every 2 µs and its demands, samples and status are applied. (R22) -/
  | dieLinkFrame (f : LinkFrame)
  /-- HEARTBEAT_ADVANCE: Each die advances its transmitted heartbeat count every 1 ms. (R24) -/
  | heartbeatAdvance
  /-- HEARTBEAT_MISS: No good frame with the advanced count arrives within 1.1 ms, or a further 1.0 ms passes; a miss is counted. (R233) -/
  | heartbeatMiss (atStrongman : Bool)
  /-- XTAL_FAIL: No XTAL_AON edge within 4 ms; Caravan counts seconds from the RC and sets the sticky crystal-failure flag. (R29) -/
  | xtalFail (n : BitVec 32)
  /-- XTAL_RECOVER: After 1,024 consecutive good crystal periods Caravan returns to the crystal. (R29) -/
  | xtalRecover
  /-- READ_OP_START: A read operation starts on a channel and loads the adaptation entry of its head and zone. (R70) -/
  | readOpStart (a : Act)
  /-- PREAMBLE_ACQUIRE: At a sector preamble the channel acquires timing and gain and runs the lock test. (R66) -/
  | preambleAcquire (a : Act) (sidx : Fin 256) (lock : Option (Fin 8)) (adapt : List (Fin 26 × Int))
  /-- ACQUISITION_FAILURE: A sector not locked by bit 152 becomes an erasure and sets ACQ_FAIL. (R67) -/
  | acquisitionFailure (a : Act)
  /-- SYNC_FRAMING: The SM1 and SM2 searches end and the channel frames, re-frames or erases the sector. (R80) -/
  | syncFraming (a : Act) (sm1 sm2 : List (Int × Nat))
  /-- FSM_SEARCH: After a wedge the fragment sync mark is searched and the rest of the sector is re-framed or left on prediction. (R81) -/
  | fsmSearch (a : Act) (fsm : List (Int × Nat))
  /-- DEFECT_SPAN: The defect detector flags a TA, dropout or instability span and mutes or zeros its LLRs. (R75) -/
  | defectSpan (a : Act) (cls : DefectClass) (r0 r1 : Bool) (start len : Nat)
  /-- SECTOR_SAMPLES_DONE: The channel takes a sector's last sample; a sector over SECT_LIM zero-LLR bits is erased without decoding. (R77) -/
  | sectorSamplesDone (a : Act) (samples : List (BitVec 6 × BitVec 6))
  /-- LDPC_CONVERGE: The LDPC decode of a sector converges or reaches its iteration limit and the sector is checked. (R73) -/
  | ldpcConverge (a : Act) (word : Option (List Bool))
  /-- LDPC_WINDOW_END: The first sample of the second following sector arrives and the first-pass decode of a sector stops. (R73) -/
  | ldpcWindowEnd (a : Act)
  /-- RETRY_RUNG: A re-read or buffer decode of a retry rung ends; the sector leaves the ladder or moves to the next rung. (R85) -/
  | retryRung (a : Act) (recovered : Bool)
  /-- RETRY_TIME_LIMIT: TIME_MS expires in rungs 1 to 4; the ladder continues at rung 5. (R86) -/
  | retryTimeLimit (a : Act)
  /-- OUTER_CODE_REBUILD: The rung-5 track read ends and the outer code rebuilds the erased sectors or declares the track uncorrectable. (R83) -/
  | outerCodeRebuild (a : Act) (reads : List (Option (List Bool)))
  /-- CHN_ENABLE: CHN_CTL.EN 0→1 runs the channel consistency check. (R92) -/
  | chnEnable (a : Act)
  /-- RD_ABORT: Writing RD_ABORT ends the current read at the next sector boundary. (R90) -/
  | rdAbort (a : Act)
  /-- REPLAY_HOLD: Writing CHN_REPLAY.HOLD freezes or releases the replay buffer and holds the actuator's queue. (R82) -/
  | replayHold (a : Act) (v : Bool)
  /-- COUNTER_CLEAR: Writing CLR to a counter zeros COUNT and SAT, counting events of the same cycle after the clear. (R91) -/
  | counterClear (blk inst off n : Nat)
  /-- LANYARD_GATE_FRAME: Spotlight sends a gate-on or gate-off frame that the preamp applies 20 ns after its last bit. (R95) -/
  | lanyardGateFrame (a : Act) (code : BitVec 8)
  /-- LANYARD_REG_WRITE: A Lanyard register-write frame completes with accepted, CRC-error or no status. (R95) -/
  | lanyardRegWrite (a : Act) (hsel : Fin 16) (addr : Fin 2048) (data : BitVec 16) (err : BitVec 40) (ret : Option (BitVec 4))
  /-- LANYARD_REG_READ: A Lanyard register-read frame completes with returned data and CRC. (R95) -/
  | lanyardRegRead (a : Act) (hsel : Fin 16) (addr : Fin 2048) (err : BitVec 24) (ret : Option (BitVec 16 × BitVec 8))
  /-- SPT_ENABLE: SPT_CTL.EN 0→1 runs the check and starts Lanyard enumeration. (R100) -/
  | sptEnable (a : Act)
  /-- ENUMERATION_COMPLETE: Enumeration of a port ends and sets ENUM_DONE. (R100) -/
  | enumerationComplete (a : Act) (paId paCap : BitVec 16) (loads : List (List Nat)) (flex : Nat)
  /-- PREAMP_FAULT: PA_FLT_N falls; Spotlight ends the write, reads PA_STATUS and acts on each flag. (R111) -/
  | preampFault (a : Act) (status : BitVec 16) (stays latch : Bool)
  /-- WR_INH: Writing SPT_CTL.WR_INH inhibits writes after the write in progress completes. (R109) -/
  | wrInh (a : Act) (v : Bool)
  /-- HDWP_CLEAR: Writing 1 to an SPT_HDWP bit re-enables writes on that head. (R119) -/
  | hdwpClear (a : Act) (mask hw : BitVec 10)
  /-- PREHEAT_DONE: TFH_PRE wedges have passed at write heater power; the write may begin. (R112) -/
  | preheatDone (a : Act)
  /-- TOUCHDOWN_GO: Writing TFH_TD.GO starts a touchdown on the named head, or is refused as busy or not started. (R113) -/
  | touchdownGo (h : GHead)
  /-- TOUCHDOWN_DWELL_END: A touchdown dwell ends; the step is judged for contact and the heater steps on or the run ends. (R113) -/
  | touchdownDwellEnd (energy offTrack : Nat)
  /-- TOUCHDOWN_ABORT: Writing TFH_TD.ABORT sets the heater to 0 and ends the touchdown as ABORTED. (R113) -/
  | touchdownAbort
  /-- LOAD_MEASURE_GO: Writing SPT_MEAS.GO starts a load measurement of the given kind, or is refused. (R114) -/
  | loadMeasureGo (a : Act) (kind : Fin 8) (l : LHead)
  /-- LOAD_MEASURE_DONE: A load measurement completes; results are stored and out-of-limit values write-disable heads. (R114) -/
  | loadMeasureDone (a : Act) (res0 res1 : BitVec 32)
  /-- TFH_ENABLE: TFH_CTL.EN 0→1 loads the Tightrope tables and checks the heads of enumerated actuators. (R121) -/
  | tfhEnable
  /-- SEQ_ENABLE: SEQ_CTL.EN 0→1 loads and checks the control store, then runs the sequencer consistency check. (R139) -/
  | seqEnable (a : Act) (crcPass : Bool)
  /-- ROUTINE_START: The Juggler starts a Barker routine by id with a job descriptor and commit record. (R128) -/
  | routineStart (a : Act) (id : Fin 64) (flip : BarkerWord) (kind : RoutineKind)
  /-- BARKER_NOP: Barker NOP performs only its gate and signal actions. (R125) -/
  | barkerNop (a : Act) (flip : BarkerWord) (now : BarkerNow)
  /-- BARKER_JMP: Barker JMP continues at TARGET. (R125) -/
  | barkerJmp (a : Act) (flip : BarkerWord) (now : BarkerNow)
  /-- BARKER_BR: Barker BR continues at TARGET if COND holds. (R125) -/
  | barkerBr (a : Act) (flip : BarkerWord) (now : BarkerNow)
  /-- BARKER_CALL: Barker CALL pushes the next address and jumps. (R125) -/
  | barkerCall (a : Act) (flip : BarkerWord) (now : BarkerNow)
  /-- BARKER_RET: Barker RET pops and continues there. (R125) -/
  | barkerRet (a : Act) (flip : BarkerWord) (now : BarkerNow)
  /-- BARKER_WAIT: Barker WAIT stalls on a condition with a timeout. (R127) -/
  | barkerWait (a : Act) (flip : BarkerWord) (now : BarkerNow)
  /-- BARKER_LOAD: Barker LOAD sets an accumulator from IMM. (R125) -/
  | barkerLoad (a : Act) (flip : BarkerWord) (now : BarkerNow)
  /-- BARKER_ADD: Barker ADD sums accumulators and IMM modulo 2^24. (R125) -/
  | barkerAdd (a : Act) (flip : BarkerWord) (now : BarkerNow)
  /-- BARKER_END: Barker END ends the routine and returns to IDLE. (R125) -/
  | barkerEnd (a : Act) (flip : BarkerWord) (now : BarkerNow)
  /-- BARKER_WAIT_MET: The condition of a Barker WAIT becomes true and execution continues. (R127) -/
  | barkerWaitMet (a : Act) (now : BarkerNow)
  /-- BARKER_WAIT_TIMEOUT: A Barker WAIT times out, counts a miss and branches or abandons. (R127) -/
  | barkerWaitTimeout (a : Act) (now : BarkerNow)
  /-- JOB_RESTART: The Juggler restarts an abandoned job from its commit record. (R131) -/
  | jobRestart (a : Act)
  /-- SEQ_MCHK_RECOVERY: Firmware clears and sets SEQ_CTL.EN to reload the store and releases the queue. (R135) -/
  | seqMchkRecovery (a : Act) (crcPass : Bool)
  /-- SEQ_SCRUB_PASS: The idle sequencer reads its store every 10 s; a parity error reloads the store. (R136) -/
  | seqScrubPass (a : Act) (flips : List (Fin 4096 × BarkerWord)) (reloaded : Bool)
  /-- SERVO_WEDGE: A servo wedge passes: SAM detected and stamped, index, track and bursts decoded, sample posted. (R142) -/
  | servoWedge (a : Act) (w : WedgeRead)
  /-- SAM_PREDICTED: No SAM is found in the window; the wedge is demodulated at predicted timing and marked bad. (R143) -/
  | samPredicted (a : Act) (w : WedgeRead)
  /-- SEEK_START: A new target or large offset change moves the actuator into SEEK. (R152) -/
  | seekStart (a : Act) (track : BitVec 24)
  /-- SEEK_TIMEOUT: A seek not in FOLLOW within SEEK_TO wedges is a seek error and is re-issued once. (R153) -/
  | seekTimeout (a : Act)
  /-- LOAD_REQUEST: A load request starts LOADING when granted, or is refused or deferred. (R155) -/
  | loadRequest (a : Act)
  /-- LOAD_DEFERRED_START: A load waiting for the 100 ms spacing starts LOADING. (R155) -/
  | loadDeferredStart (a : Act)
  /-- LOADING_OFF_RAMP: The velocity loop reports the heads off the ramp and the actuator enters ACQUIRE. (R152) -/
  | loadingOffRamp (a : Act)
  /-- ACQUIRE_TIMEOUT: No first lock within ACQ_TO is a load failure and the heads unload. (R152) -/
  | acquireTimeout (a : Act)
  /-- HOLD_RELOCK_TIMEOUT: No relock in HOLD within ACQ_TO unloads the heads. (R152) -/
  | holdRelockTimeout (a : Act)
  /-- LOAD_RETRY: 1 s after a load failure the load is tried again, up to three failures. (R155) -/
  | loadRetry (a : Act)
  /-- UNLOAD_REQUEST: An unload request moves the actuator to UNLOADING. (R152) -/
  | unloadRequest (a : Act) (soon : Bool)
  /-- HEADS_ON_RAMP: The heads reach the ramp and the actuator becomes UNLOADED. (R152) -/
  | headsOnRamp (a : Act)
  /-- MA_STROKE_MEASURE: Firmware measures milliactuator stroke and takes it out of use if off by more than 25 %. (R154) -/
  | maStrokeMeasure (a : Act) (measured : BitVec 16)
  /-- MEDIA_WEDGE_MISSING: A nominal wedge period passes without a posting to Carousel. (R158) -/
  | mediaWedgeMissing
  /-- SRV_ENABLE: SRV_CTL.EN 0→1 runs the servo check and enters UNLOADED. (R162) -/
  | srvEnable (a : Act)
  /-- SRV_OFS_WRITE: Writing SRV_OFS sets the track offset at the next wedge or is refused out of range. (R161) -/
  | srvOfsWrite (a : Act) (v : BitVec 16)
  /-- TRZ_ENABLE: TRZ_CTL.EN 0→1 loads the store and tables, then runs the Trapeze check. (R194) -/
  | trzEnable (crcPass : Bool)
  /-- TRZ_NOP: Trapeze NOP does nothing. (R166) -/
  | trzNop (flip : TrzWord)
  /-- TRZ_JMP: Trapeze JMP continues at TARGET. (R166) -/
  | trzJmp (flip : TrzWord)
  /-- TRZ_BR: Trapeze BR branches if COND holds. (R166) -/
  | trzBr (flip : TrzWord)
  /-- TRZ_CALL: Trapeze CALL pushes and jumps. (R166) -/
  | trzCall (flip : TrzWord)
  /-- TRZ_RET: Trapeze RET pops and continues. (R166) -/
  | trzRet (flip : TrzWord)
  /-- TRZ_WAIT: Trapeze WAIT stalls on condition 0x6 or 0x7. (R167) -/
  | trzWait (flip : TrzWord)
  /-- TRZ_LD: Trapeze LD writes IMM to an operand. (R166) -/
  | trzLd (flip : TrzWord)
  /-- TRZ_MOV: Trapeze MOV copies an operand. (R166) -/
  | trzMov (flip : TrzWord)
  /-- TRZ_ADD: Trapeze ADD adds with saturation. (R166) -/
  | trzAdd (flip : TrzWord)
  /-- TRZ_SUB: Trapeze SUB subtracts with saturation. (R166) -/
  | trzSub (flip : TrzWord)
  /-- TRZ_MUL: Trapeze MUL loads the accumulator with a product. (R166) -/
  | trzMul (flip : TrzWord)
  /-- TRZ_MAC: Trapeze MAC accumulates a product. (R166) -/
  | trzMac (flip : TrzWord)
  /-- TRZ_ACCOUT: Trapeze ACCOUT shifts, rounds and saturates the accumulator into an operand. (R166) -/
  | trzAccout (flip : TrzWord)
  /-- TRZ_CLRACC: Trapeze CLRACC clears the accumulator. (R166) -/
  | trzClracc (flip : TrzWord)
  /-- TRZ_MIN: Trapeze MIN writes the smaller operand. (R166) -/
  | trzMin (flip : TrzWord)
  /-- TRZ_MAX: Trapeze MAX writes the larger operand. (R166) -/
  | trzMax (flip : TrzWord)
  /-- TRZ_LUT: Trapeze LUT starts an interpolated feed-forward lookup. (R166) -/
  | trzLut (flip : TrzWord)
  /-- TRZ_CMP: Trapeze CMP sets N and Z flags. (R166) -/
  | trzCmp (flip : TrzWord)
  /-- TRZ_END: Trapeze END ends the routine. (R166) -/
  | trzEnd (flip : TrzWord)
  /-- TRZ_WAIT_MET: The condition of a Trapeze WAIT becomes true. (R167) -/
  | trzWaitMet
  /-- TRZ_WAIT_TIMEOUT: A Trapeze WAIT times out and branches or abandons as a miss. (R167) -/
  | trzWaitTimeout
  /-- LUT_READY: A feed-forward lookup completes and its result is ready. (R166) -/
  | lutReady
  /-- LOOP_DISPATCH: A triggered loop is dispatched by earliest deadline and its routine runs. (R173) -/
  | loopDispatch (whole : Bool)
  /-- LOOP_DEADLINE_MISS: A loop not committed by its deadline is abandoned and counted as a miss. (R181) -/
  | loopDeadlineMiss (n : Fin 64)
  /-- TRZ_SCRUB_ERROR: The Trapeze scrub finds a parity error and starts rewriting the word from the image. (R190) -/
  | trzScrubError (addr : Fin 8192) (flip : TrzWord)
  /-- TRZ_SCRUB_REWRITE_DONE: The scrubbed word has been rewritten and stalled fetches continue. (R190) -/
  | trzScrubRewriteDone
  /-- TRZ_MCHK_RELOAD: Firmware reloads Trapeze by clearing and setting EN; three checks in 24 h take it out of service. (R191) -/
  | trzMchkReload (crcPass : Bool)
  /-- CRL_ENABLE: CRL_CTL.EN 0→1 runs the spindle check and enters STOPPED or COAST. (R224) -/
  | crlEnable (resOk : Bool)
  /-- SP_OVR: Writing CRL_CTL.SP_OVR and SP_REQ overrides the curve with a set point. (R213) -/
  | spOvr (ovr : Bool) (req : Fin 4)
  /-- PWM_PERIOD: Each 16 µs period Carousel propagates its angle trackers and computes the next duties. (R196) -/
  | pwmPeriod (o : PwmObs)
  /-- SENSE_PULSE: A SENSE voltage pulse is applied and its peak current recorded; after six the sector is chosen. (R210) -/
  | sensePulse (peak : BitVec 16)
  /-- ALIGN_END: ALIGN_MS elapses and Carousel enters RAMP. (R206) -/
  | alignEnd
  /-- START_ATTEMPT_FAIL: No lock by 600 r/min or the 3 s deadline fails the start attempt and enters SHORT. (R211) -/
  | startAttemptFail (top : Nat)
  /-- SHORT_TIMER_END: 2 s of SHORT after a failed attempt end; the next attempt or FAULT follows. (R206) -/
  | shortTimerEnd
  /-- ZERO_CROSSING: A terminal-voltage zero crossing is timed in CATCH or SHORT. (R208) -/
  | zeroCrossing (interval : Nat) (sector : Fin 6)
  /-- SHORT_QUIET_END: 1 s without a zero crossing in SHORT; Carousel enters STOPPED. (R217) -/
  | shortQuietEnd
  /-- CATCH_TIMEOUT: A catch not successful within 50 ms fails and Carousel shorts or coasts. (R208) -/
  | catchTimeout (peak : BitVec 16)
  /-- CATCH_RETRY: In COAST above 1,500 r/min Carousel retries CATCH every 1 s. (R208) -/
  | catchRetry (peak : BitVec 16)
  /-- SETPOINT_APPLY: A waiting set-point change is applied once the track write completes. (R214) -/
  | setpointApply
  /-- OV_RECOVERY: VIN12 below 13.2 V for 100 ms after a trip; Carousel enters CATCH. (R219) -/
  | ovRecovery
  /-- SUPPLY_SAMPLE: Strongman samples VIN12 and VIN5 every 10 µs and tests every threshold. (R228) -/
  | supplySample (vin12 vin5 : BitVec 16)
  /-- CHOPPER_FAIL: Chopper on for 5 µs with sense below 200 mA is a fault; the zero vector replaces regeneration. (R229) -/
  | chopperFail (current : Nat)
  /-- SPINDLE_OVERCURRENT: A phase above 5.0 A turns all six transistors off and coasts. (R227) -/
  | spindleOvercurrent (current : Nat)
  /-- VCM_OVERCURRENT: VCM current above 2.2 A for 2 µs opens the H-bridge for 100 µs. (R227) -/
  | vcmOvercurrent (a : Act) (current : Nat)
  /-- VCM_TRIP_REOPEN: After 100 µs the tripped actuator is retracted at RET_PARK_I, or left off with VCM_OFF. (R227) -/
  | vcmTripReopen (a : Act)
  /-- MA_CURRENT_LIMIT: The milliactuator held at 20 mA for 100 µs is forced to 0 V and MA_OFF set. (R227) -/
  | maCurrentLimit (a : Act)
  /-- MA_OFF_CLEAR: Writing 1 to STM_STAT.MA_OFF re-enables the milliactuator output. (R242) -/
  | maOffClear (mask hw : BitVec 4)
  /-- STOP_WIRE_ASSERT: The stop wire sets every laser latch and retracts every loaded actuator within 1 µs. (R231) -/
  | stopWireAssert (cause : Fin 5)
  /-- RETRACT_PARKED: Velocity below 0.1 × RET_VEL for 2 ms at RET_IMAX marks the heads parked. (R236) -/
  | retractParked (a : Act)
  /-- RETRACT_PARK_HOLD_END: 20 ms of parking current end, the bridge opens and completion is reported. (R236) -/
  | retractParkHoldEnd (a : Act)
  /-- RETRACT_TIMEOUT: Heads not parked by RET_TO; Strongman pushes a further 100 ms. (R236) -/
  | retractTimeout (a : Act)
  /-- RETRACT_PUSH_END: The 100 ms push after a retract timeout ends and the bridge opens. (R236) -/
  | retractPushEnd (a : Act)
  /-- START_REQUEST: The controller die requests a spindle start or head load in a frame message; Strongman grants or not. (R232) -/
  | startRequest (a : Option Act)
  /-- AUTONOMOUS_BRAKE: In the autonomous sequence the BEMF speed falls below 1,500 r/min and Strongman short-brakes. (R233) -/
  | autonomousBrake
  /-- STM_RESUME: Writing STM_CTL.RESUME leaves the autonomous state once 16 good heartbeats have arrived. (R234) -/
  | stmResume
  /-- STM_ENABLE: STM_CTL.EN 0→1 checks the supervision record, test-pulses the chopper and takes the record. (R243) -/
  | stmEnable (pulse : Nat)
  /-- SAFETY_MONITOR_TICK: Strongman's main logic gives the safety monitor its 50 µs tick. (R239) -/
  | safetyMonitorTick
  /-- SAFETY_MONITOR_TAKEOVER: No tick for 200 µs; the monitor sets latches, opens the spindle bridge and pushes VCMs to the ramps. (R239) -/
  | safetyMonitorTakeover (age : Nat)
  /-- SM_OVERVOLTAGE: The safety monitor's own comparator enforces the 15.2 V trip. (R239) -/
  | smOvervoltage
  /-- WINDING_MEASURE_GO: Writing STM_MEAS.GO starts a winding measurement, or is refused. (R240) -/
  | windingMeasureGo (kind : Fin 4) (a : Act)
  /-- WINDING_MEASURE_DONE: A winding measurement completes and its result is stored or marked invalid. (R240) -/
  | windingMeasureDone (value : Nat)
  /-- MMG_ENABLE: MMG_CTL.EN 0→1 runs the check and then recovery. (R277) -/
  | mmgEnable
  /-- FMT_COMMIT: MMG_CTL.FMT_COMMIT 0→1 checks the format record and lays out bands and conventional regions. (R55) -/
  | fmtCommit
  /-- DURABLE_POINT_STANDS: A durable-point record has been written on one system-track copy and the point stands. (R254) -/
  | durablePointStands (a : Act) (copy : Fin 3)
  /-- DURABLE_TIMER: DUR_MS elapses during write activity and a durable point is taken. (R255) -/
  | durableTimer
  /-- ALTERATION_DEMAND: The media manager takes a Tailor demand and marks, swaps or queues affected zones and bands. (R263) -/
  | alterationDemand (h : GHead) (z : RZone) (dc : Fin 6) (hours : BitVec 32)
  /-- RELAY_STEP: A step of an Alteration re-lay completes and its journal record is written. (R265) -/
  | relayStep (a : Act) (bad : List Nat) (ok : Bool)
  /-- RECLAIM_STEP: A step of a band reclaim completes and its journal record is written. (R267) -/
  | reclaimStep (a : Act) (ok share : Bool)
  /-- OVERWRITE_STEP: A background erase overwrite finishes 16 bands or tracks and writes a SAN record. (R273) -/
  | overwriteStep (a : Act) (ok share : Bool)
  /-- CONNECT: A Fabrics Connect creates a controller or is refused. (R280) -/
  | connect (cid : BitVec 16) (qid cntlid : BitVec 16) (entries : Nat) (noFlow : Bool) (kato : BitVec 32) (hostId : BitVec 128) (hostNqn : List Byte) (member : Bool) (conn : ConnData)
  /-- DISCONNECT: A Disconnect tears down the controller. (R303) -/
  | disconnect (c : BitVec 16)
  /-- CONTROLLER_RESET: A controller reset tears down one controller without resetting hardware. (R303) -/
  | controllerReset (c : BitVec 16)
  /-- KATO_EXPIRY: A controller's keep-alive timer expires and it is torn down. (R303) -/
  | katoExpiry (c : BitVec 16)
  /-- NVME_IDENTIFY: NVMe Identify returns controller or namespace data. (R284) -/
  | nvmeIdentify (id : CmdId) (cns csi : BitVec 8) (nsid : BitVec 32)
  /-- GET_LOG_PAGE: Get Log Page returns a supported log page. (R286) -/
  | getLogPage (id : CmdId) (lid : BitVec 8) (nsid : BitVec 32)
  /-- GET_FEATURES: Get Features returns a supported feature value. (R286) -/
  | getFeatures (id : CmdId) (fid : BitVec 8) (nsid dw11 : BitVec 32)
  /-- ARBITRATION: Set Features Arbitration; round robin only. (R286) -/
  | arbitration (id : CmdId) (ab : BitVec 3)
  /-- POWER_MANAGEMENT: Set Features Power Management writes the device budget from power state n. (R286) -/
  | powerManagement (id : CmdId) (ps : BitVec 5)
  /-- TEMPERATURE_THRESHOLD: Set Features Temperature Threshold for a selected sensor. (R286) -/
  | temperatureThreshold (id : CmdId) (tmpsel : BitVec 4) (under : Bool) (kelvin : BitVec 16)
  /-- VOLATILE_WRITE_CACHE: Set Features Volatile Write Cache; disabling makes every write FUA. (R253) -/
  | volatileWriteCache (id : CmdId) (wce : Bool)
  /-- NUMBER_OF_QUEUES: Set Features Number of Queues grants queue pairs from the pool. (R281) -/
  | numberOfQueues (id : CmdId) (nsq ncq : BitVec 16)
  /-- ASYNCHRONOUS_EVENT_CONFIGURATION: Set Features Asynchronous Event Configuration selects notices. (R286) -/
  | asynchronousEventConfiguration (id : CmdId) (v : BitVec 32)
  /-- KEEP_ALIVE_TIMER: Set Features Keep Alive Timer sets or disables KATO. (R304) -/
  | keepAliveTimer (id : CmdId) (kato : BitVec 32)
  /-- HOST_IDENTIFIER: Set Features Host Identifier, 128-bit only. (R286) -/
  | hostIdentifier (id : CmdId) (exhid : Bool) (v : BitVec 128)
  /-- LATENCY_BUDGET: Set Features C0h writes the device or namespace latency budget. (R386) -/
  | latencyBudget (id : CmdId) (nsid us : BitVec 32)
  /-- ABORT: Abort ends a queued or stalled command, otherwise reports it not aborted. (R303) -/
  | abort (id : CmdId) (sqid cid : BitVec 16) (inQueue : Bool)
  /-- ASYNCHRONOUS_EVENT_REQUEST: An Asynchronous Event Request is held until a notice is due. (R284) -/
  | asynchronousEventRequest (id : CmdId)
  /-- NAMESPACE_CREATE: Namespace Management create makes a storage namespace or fails. (R288) -/
  | namespaceCreate (id : CmdId) (csi : BitVec 8) (nsze ncap : BitVec 64) (lbaf pi : BitVec 8)
  /-- NAMESPACE_DELETE: Namespace Management delete drains, takes a durable point and frees the namespace. (R289) -/
  | namespaceDelete (id : CmdId) (nsid : BitVec 32)
  /-- NAMESPACE_ATTACHMENT: Namespace Attachment attaches or detaches a namespace to controllers. (R288) -/
  | namespaceAttachment (id : CmdId) (nsid : BitVec 32) (attach : Bool) (ctrls : List (BitVec 16))
  /-- FIRMWARE_IMAGE_DOWNLOAD: NVMe Firmware Image Download writes the inactive slot under R420. (R285) -/
  | firmwareImageDownload (id : CmdId) (ofs : BitVec 32) (data : List Byte) (ok : Bool)
  /-- FIRMWARE_COMMIT: NVMe Firmware Commit verifies and selects a slot under R421. (R285) -/
  | firmwareCommit (id : CmdId) (action slot : BitVec 3) (ok : Bool)
  /-- DEVICE_SELF_TEST: Device Self-test starts a short or extended test. (R291) -/
  | deviceSelfTest (id : CmdId) (ext : Bool) (nsid : BitVec 32)
  /-- SELF_TEST_ABORT: Device Self-test code Fh aborts the running test. (R291) -/
  | selfTestAbort (id : CmdId)
  /-- SELF_TEST_SEGMENT: A self-test segment completes and the next runs or the result is logged. (R291) -/
  | selfTestSegment (ok : Bool) (nsid : BitVec 32) (lba : BitVec 64)
  /-- KEEP_ALIVE: Keep Alive restarts the controller's keep-alive timer. (R304) -/
  | keepAlive (id : CmdId)
  /-- FORMAT_NVM: Format NVM empties the named namespaces with the chosen erase. (R273) -/
  | formatNvm (id : CmdId) (nsid : BitVec 32) (lbaf pi ses : BitVec 4)
  /-- SANITIZE_CRYPTO_ERASE: Sanitize Crypto Erase replaces every storage namespace key. (R328) -/
  | sanitizeCryptoErase (id : CmdId)
  /-- SANITIZE_BLOCK_ERASE: Sanitize Block Erase empties every namespace and overwrites the whole media in background. (R274) -/
  | sanitizeBlockErase (id : CmdId)
  /-- UNSUPPORTED_OPCODE: An unsupported admin or I/O opcode fails with Invalid Command Opcode. (R285) -/
  | unsupportedOpcode (id : CmdId)
  /-- CASGUS_SEND: Admin 0xC0 transfers a Casgus request to a host mailbox for acceptance. (R354) -/
  | casgusSend (id : CmdId) (raw : List Byte)
  /-- CASGUS_RECEIVE: Admin 0xC1 returns a ready response, an empty header, or is held waiting. (R355) -/
  | casgusReceive (id : CmdId) (len : BitVec 32) (wait : Bool) (limit : BitVec 32)
  /-- RECEIVE_WAIT_EXPIRY: A held receive's wait limit expires and it completes with an empty header. (R355) -/
  | receiveWaitExpiry (id : CmdId)
  /-- READ: Read transfers logical blocks from staging or media. (R290) -/
  | read (id : CmdId) (nsid : BitVec 32) (lba : BitVec 64) (nlb : BitVec 16) (limited : Bool)
  /-- WRITE: Write stages data and completes, or waits for a durable point with FUA. (R253) -/
  | write (id : CmdId) (nsid : BitVec 32) (lba : BitVec 64) (data : List Block) (fua : Bool)
  /-- FLUSH: Flush starts durable points and completes when they stand. (R254) -/
  | flush (id : CmdId) (nsid : BitVec 32)
  /-- WRITE_ZEROES: Write Zeroes on an NVM namespace. (R290) -/
  | writeZeroes (id : CmdId) (nsid : BitVec 32) (lba : BitVec 64) (nlb : BitVec 16) (fua : Bool)
  /-- DATASET_MANAGEMENT: Dataset Management Deallocate on an NVM namespace. (R290) -/
  | datasetManagement (id : CmdId) (nsid : BitVec 32) (deallocate : Bool) (ranges : List (BitVec 64 × BitVec 32))
  /-- VERIFY: Verify reads with the full retry ladder and transfers no data. (R290) -/
  | verify (id : CmdId) (nsid : BitVec 32) (lba : BitVec 64) (nlb : BitVec 16)
  /-- ZONE_APPEND: Zone Append writes at the write pointer taken at admission and returns the LBA. (R294) -/
  | zoneAppend (id : CmdId) (nsid : BitVec 32) (zslba : BitVec 64) (data : List Block) (fua : Bool)
  /-- ZONE_RESET: Zone Management Send Reset empties a zone, swapping its bands if marked. (R263) -/
  | zoneReset (id : CmdId) (nsid : BitVec 32) (slba : BitVec 64) (all : Bool)
  /-- ZONE_FINISH: Zone Management Send Finish closes the band short and records it FULL. (R256) -/
  | zoneFinish (id : CmdId) (nsid : BitVec 32) (slba : BitVec 64) (all : Bool)
  /-- ZONE_OPEN: Zone Management Send Open, limited by active zones per actuator. (R249) -/
  | zoneOpen (id : CmdId) (nsid : BitVec 32) (slba : BitVec 64) (all : Bool)
  /-- ZONE_CLOSE: Zone Management Send Close. (R249) -/
  | zoneClose (id : CmdId) (nsid : BitVec 32) (slba : BitVec 64) (all : Bool)
  /-- SET_ZONE_DESCRIPTOR_EXTENSION: Zone Management Send Set Zone Descriptor Extension fails with Invalid Field. (R250) -/
  | setZoneDescriptorExtension (id : CmdId) (nsid : BitVec 32) (slba : BitVec 64)
  /-- ZONE_MANAGEMENT_RECEIVE: Zone Management Receive reports zones and their descriptor extensions. (R250) -/
  | zoneManagementReceive (id : CmdId) (nsid : BitVec 32) (slba : BitVec 64) (ext : Bool)
  /-- STORE: Key Value Store writes a value log-structured and replaces the key's entry. (R331) -/
  | store (id : CmdId) (nsid : BitVec 32) (key value : List Byte) (ifExists ifNew fua : Bool)
  /-- RETRIEVE: Key Value Retrieve returns a value, decoding protected stripes when needed. (R344) -/
  | retrieve (id : CmdId) (nsid : BitVec 32) (key : List Byte)
  /-- KV_DELETE: Key Value Delete removes a key, or an object and its parts. (R333) -/
  | kvDelete (id : CmdId) (nsid : BitVec 32) (key : List Byte)
  /-- EXIST: Key Value Exist tests a key. (R294) -/
  | exist (id : CmdId) (nsid : BitVec 32) (key : List Byte)
  /-- LIST: Key Value List returns keys in ascending order. (R332) -/
  | list (id : CmdId) (nsid : BitVec 32) (first : List Byte)
  /-- LOAD_PROGRAM: Load Program verifies a BPF image into a program slot. (R334) -/
  | loadProgram (id : CmdId) (nsid : BitVec 32) (slot ptype : BitVec 8) (image : List (BitVec 64))
  /-- PROGRAM_ACTIVATION_MANAGEMENT: Program Activation Management activates or deactivates a program. (R334) -/
  | programActivationManagement (id : CmdId) (nsid : BitVec 32) (slot : BitVec 8) (activate : Bool)
  /-- EXECUTE_PROGRAM: Execute Program runs an activated program on its core. (R335) -/
  | executeProgram (id : CmdId) (nsid : BitVec 32) (slot rset : BitVec 8) (dw12 dw13 dw14 dw15 : BitVec 32)
  /-- HELPER_COPY: Program helper copy moves bytes within the ranges. (R336) -/
  | helperCopy (core : Fin 8)
  /-- HELPER_ZCOMP: Program helper zcomp compresses range to range. (R336) -/
  | helperZcomp (core : Fin 8)
  /-- HELPER_ZDECOMP: Program helper zdecomp decompresses range to range. (R336) -/
  | helperZdecomp (core : Fin 8)
  /-- HELPER_SHA256: Program helper sha256 digests a range. (R336) -/
  | helperSha256 (core : Fin 8)
  /-- HELPER_CRC32C: Program helper crc32c computes a CRC of a range. (R336) -/
  | helperCrc32c (core : Fin 8)
  /-- HELPER_OPSEC: Program helper opsec returns operating seconds. (R336) -/
  | helperOpsec (core : Fin 8)
  /-- MEMORY_RANGE_SET_MANAGEMENT: Memory Range Set Management defines or deletes a memory range set. (R335) -/
  | memoryRangeSetManagement (id : CmdId) (nsid : BitVec 32) (create : Bool) (rset : BitVec 16) (ranges : List (BitVec 64 × BitVec 64))
  /-- MEMORY_COPY: Memory Copy copies source ranges into Subsystem Local Memory. (R290) -/
  | memoryCopy (id : CmdId) (nsid : BitVec 32) (dst : BitVec 64) (srcs : List CopySrc)
  /-- MEMORY_READ: Memory Read returns Subsystem Local Memory data. (R290) -/
  | memoryRead (id : CmdId) (nsid : BitVec 32) (off : BitVec 64) (len : BitVec 32)
  /-- MEMORY_WRITE: Memory Write stores data into Subsystem Local Memory. (R290) -/
  | memoryWrite (id : CmdId) (nsid : BitVec 32) (off : BitVec 64) (data : List Byte)
  /-- INTAKE_VISIT: Intake visits the next queue in round robin and takes up to 8 commands, or pauses. (R292) -/
  | intakeVisit (waiting : List Waiting) (full : Bool)
  /-- TURNSTILE_RELEASE: A stalled command's blocker releases its entries and the command proceeds. (R296) -/
  | turnstileRelease (id : CmdId)
  /-- JUGGLER_PICK: An actuator becomes free and the Juggler issues the aged or lowest-cost operation. (R299) -/
  | jugglerPick (a : Act) (w : BitVec 16)
  /-- CMD_ENABLE: CMD_CTL.EN 0→1 runs the command-engine check. (R307) -/
  | cmdEnable
  /-- FETCH_HOLD: Writing CMD_CTL.FETCH_HOLD pauses or resumes intake. (R292) -/
  | fetchHold (v : Bool)
  /-- HIWAT_CLR: Writing CMD_TS.HIWAT_CLR sets HIWAT to USED. (R306) -/
  | hiwatClr
  /-- FAB_ENABLE: FAB_CTL.EN 0→1 checks the network record, measures reach and starts negotiation. (R322) -/
  | fabEnable (refB : Bool)
  /-- PORT_DIS: Writing FAB_CTL.PORT_DIS holds a port's link down. (R321) -/
  | portDis (v : BitVec 2)
  /-- LINK_UP: A port's link trains up; loss is estimated and addresses probed. (R310) -/
  | linkUp (p : Fin 2) (fec : Fin 4) (abilities : BitVec 32) (lanes : List (Nat × Nat)) (dup : List Nat)
  /-- LINK_DOWN: A port's link goes down; the failover timer starts. (R316) -/
  | linkDown (p : Fin 2) (cause : BitVec 8)
  /-- FAILOVER: A link down for FO_MS is declared failed and the other port takes its addresses. (R316) -/
  | failover (p : Fin 2) (dup : List Nat)
  /-- ADDRESS_ANNOUNCE: A gratuitous ARP or unsolicited Neighbour Advertisement is repeated 1 s apart. (R316) -/
  | addressAnnounce (p : Fin 2)
  /-- FAILBACK: The failed port's link has been up 10 s and its addresses move back. (R317) -/
  | failback (p : Fin 2)
  /-- DHCP_LEASE_LOST: A lost DHCP lease removes its address from service and discovery. (R315) -/
  | dhcpLeaseLost (p : Fin 2) (addr : BitVec 128)
  /-- LLDP_RECEIVE: LLDP and DCBX from the partner are recorded; PFC mismatch is flagged. (R319) -/
  | lldpReceive (p : Fin 2) (chassis portId : BitVec 64) (pfc : BitVec 8)
  /-- SIGNAL_DETECT_WAKE: A lane silent for 100 ms then signalling for 1 ms wakes the device from listen. (R318) -/
  | signalDetectWake
  /-- TRU_ENABLE: TRU_CTL.EN 0→1 checks and starts Mbako and program execution. (R349) -/
  | truEnable (defaultsOk : Bool)
  /-- PWK_ACT: PWK_CTL.ACT 0→1 creates the fragment namespace, registers and starts discovery. (R339) -/
  | pwkAct
  /-- DISCOVERY_POLL: Every 30 s the discovery log is read and candidates authenticated. (R340) -/
  | discoveryPoll (log : List Found)
  /-- DISCOVERY_LOG_PAGE_CHANGE: A Discovery Log Page Change notice makes the device read the discovery log. (R340) -/
  | discoveryLogPageChange (log : List Found)
  /-- CANDIDATE_AUTH_RETRY: 10 min after failed authentication a candidate is retried. (R340) -/
  | candidateAuthRetry (x : Found)
  /-- PEER_TIMEOUT: A member's KATO expires and the leader gathers the loss. (R341) -/
  | peerTimeout (sn : List Byte)
  /-- EPOCH_PROPOSE: EPOCH_HOLD ends and the leader proposes epoch e + 1. (R341) -/
  | epochPropose
  /-- PROPOSAL_RECEIVE: A member stores a proposal durably and acknowledges at most one per epoch. (R341) -/
  | proposalReceive (e : BitVec 32) (ms : List (List Byte))
  /-- PROPOSAL_ACK_RECEIVE: The leader counts an acknowledgement; at K the epoch commits. (R341) -/
  | proposalAckReceive (e : BitVec 32) (sn : List Byte)
  /-- EPOCH_COMMIT_RECEIVE: A member receives the commit and installs the new membership. (R341) -/
  | epochCommitReceive (e : BitVec 32)
  /-- PROPOSAL_VOID: No commit within 2 × PEER_TMO voids a stored proposal. (R341) -/
  | proposalVoid
  /-- EPOCH_REPROPOSE: After a random 1–5 s a failed proposer proposes again. (R341) -/
  | epochRepropose
  /-- FRAGMENT_STORE_ACK: A holder acknowledges a fragment Store or fails it and is replaced. (R343) -/
  | fragmentStoreAck (no : Nat) (frag : Fin 32) (ok : Bool)
  /-- FRAGMENT_TIMEOUT: A fragment not arrived within 2 s is replaced by parity and decoded. (R344) -/
  | fragmentTimeout (no : Nat) (frag : Fin 32) (bad mismatch : Bool)
  /-- REBUILD_FRAGMENT: A coordinator rebuilds a lost fragment and stores it on a new holder. (R345) -/
  | rebuildFragment (ok : Bool)
  /-- NVME_MI_REQUEST: An NVMe-MI C0h message carries a Casgus request to mailbox 9. (R356) -/
  | nvmeMiRequest (raw : List Byte)
  /-- NVME_MI_RECEIVE: An NVMe-MI C1h message returns a ready response without waiting. (R356) -/
  | nvmeMiReceive (len : BitVec 32)
  /-- MCTP_EID_REASSIGN: The enclosure's MCTP endpoint id changes and mailbox 9 is released and reissued. (R352) -/
  | mctpEidReassign (eid : BitVec 16)
  /-- REQUEST_START: An accepted Casgus request starts in acceptance order and its token is checked. (R361) -/
  | requestStart (rq : ReqId)
  /-- REQUEST_COMPLETE: A request completes and its response is queued, firing response-ready. (R359) -/
  | requestComplete (rq : ReqId)
  /-- REQUEST_TIMEOUT: A request reaches its bound and completes with TIMEOUT. (R374) -/
  | requestTimeout (rq : ReqId)
  /-- SOURCE_EDGE: A notification source level rises and its bank bit changes state. (R364) -/
  | sourceEdge
  /-- GPIO_INPUT_CHANGE: A GPIO input changes after 1 µs of deglitch and drives its source level. (R367) -/
  | gpioInputChange (pin : Fin 16) (level : Bool)
  /-- CLP_CLAIM_WRITE: Writing CLP_CLAIM moves PENDING bits of the own bank to ACTIVE. (R364) -/
  | clpClaimWrite (sender bank : Fin 64) (hi : Bool) (v : BitVec 32)
  /-- CLP_DONE_WRITE: Writing CLP_DONE returns ACTIVE bits to IDLE or PENDING by level. (R364) -/
  | clpDoneWrite (sender bank : Fin 64) (hi : Bool) (v : BitVec 32)
  /-- CLP_SRC_WRITE: A diagnostic write to a source entry retargets or enables it, or is refused. (R368) -/
  | clpSrcWrite (src : Fin 512) (v : BitVec 32) (hw : Bool)
  /-- IDENTIFY: Casgus IDENTIFY returns serial, build and firmware versions. (R378) -/
  | identify (rq : ReqId)
  /-- GET_NONCE: GET_NONCE issues a 60 s nonce bound to the mailbox. (R358) -/
  | getNonce (rq : ReqId) (nonce : BitVec 256)
  /-- INVENTORY: INVENTORY returns an inventory record. (R379) -/
  | inventory (rq : ReqId)
  /-- COUNTERS: COUNTERS returns operating seconds, power cycles and flags. (R378) -/
  | counters (rq : ReqId)
  /-- CLEAR_XTAL: CLEAR_XTAL clears the crystal-failure flag. (R378) -/
  | clearXtal (rq : ReqId)
  /-- OPTION_READ: OPTION_READ returns bytes of the option area in force. (R378) -/
  | optionRead (rq : ReqId)
  /-- OPTION_WRITE: OPTION_WRITE forms a new image and writes both copies in turn. (R416) -/
  | optionWrite (rq : ReqId) (ok1 ok2 : Bool)
  /-- ENABLE: ENABLE sets or clears an enable bit per instance, running checks on 0→1. (R381) -/
  | enable (rq : ReqId) (w : World)
  /-- ENABLE_STATE: ENABLE_STATE returns every checked enable and its latched reason. (R378) -/
  | enableState (rq : ReqId)
  /-- KEY_REGISTER: KEY_REGISTER stores or replaces the operator's public key. (R377) -/
  | keyRegister (rq : ReqId) (ok1 ok2 : Bool)
  /-- SET_BUDGET: SET_BUDGET stores a device or namespace budget and returns the effect. (R387) -/
  | setBudget (rq : ReqId)
  /-- GET_BUDGET: GET_BUDGET returns the stored and effective budgets. (R387) -/
  | getBudget (rq : ReqId)
  /-- SPIN_SLOT: SPIN_SLOT sets the spin-start mode, delay and current. (R388) -/
  | spinSlot (rq : ReqId)
  /-- SPIN_STATUS: SPIN_STATUS returns spin permission state. (R388) -/
  | spinStatus (rq : ReqId)
  /-- THERMAL_READ: THERMAL_READ returns the five sensor records. (R378) -/
  | thermalRead (rq : ReqId)
  /-- CLEAR_SUSPECT: CLEAR_SUSPECT clears sensor suspect marks. (R378) -/
  | clearSuspect (rq : ReqId)
  /-- TRIM_READ: TRIM_READ returns a block's trim registers. (R378) -/
  | trimRead (rq : ReqId)
  /-- TRIM_WRITE: TRIM_WRITE applies a trim image in one step at the update point. (R451) -/
  | trimWrite (rq : ReqId)
  /-- TABLE_READ: TABLE_READ returns calibration entries. (R378) -/
  | tableRead (rq : ReqId)
  /-- TABLE_WRITE: TABLE_WRITE replaces whole calibration entries after CRC checks. (R378) -/
  | tableWrite (rq : ReqId)
  /-- TAILOR_SAVE: TAILOR_SAVE copies loaded or written trims and tables into the Tailor store. (R451) -/
  | tailorSave (rq : ReqId) (ok : Bool)
  /-- CERT_READ: CERT_READ returns the trace certificate. (R454) -/
  | certRead (rq : ReqId)
  /-- AGEING_READ: AGEING_READ returns a head's newest ageing record. (R458) -/
  | ageingRead (rq : ReqId)
  /-- MARGIN_READ: MARGIN_READ returns predicted hours per zone and pending demands. (R460) -/
  | marginRead (rq : ReqId)
  /-- MEASURE_NOW: MEASURE_NOW makes the named heads' ageing measurements due at once. (R456) -/
  | measureNow (rq : ReqId)
  /-- PBL_READ: PBL_READ returns Playbill records from a sequence number. (R476) -/
  | pblRead (rq : ReqId)
  /-- PBL_STATUS: PBL_STATUS returns ring sequence range and flags. (R476) -/
  | pblStatus (rq : ReqId)
  /-- PBL_CLEAR: PBL_CLEAR writes the CLEARED record and starts the background erase. (R477) -/
  | pblClear (rq : ReqId) (ok : Bool)
  /-- FW_DOWNLOAD: FW_DOWNLOAD opens or continues a session writing the inactive slot. (R420) -/
  | fwDownload (rq : ReqId) (ok : Bool)
  /-- FW_COMMIT: FW_COMMIT authenticates the inactive slot, programs a trial word and optionally resets. (R421) -/
  | fwCommit (rq : ReqId) (ok : Bool)
  /-- FW_STATUS: FW_STATUS reports slot versions and states. (R420) -/
  | fwStatus (rq : ReqId)
  /-- FLASH_STATUS: FLASH_STATUS reports per-bank counts and erase-incomplete tags. (R408) -/
  | flashStatus (rq : ReqId)
  /-- PLACEMENT_SET: PLACEMENT_SET sets the actuator mask for later namespaces. (R247) -/
  | placementSet (rq : ReqId)
  /-- PLACEMENT_GET: PLACEMENT_GET returns the placement mask. (R378) -/
  | placementGet (rq : ReqId)
  /-- BAND_INFO: BAND_INFO returns a band's state and owner. (R378) -/
  | bandInfo (rq : ReqId)
  /-- POOL_INFO: POOL_INFO returns free, held and spare bands per actuator. (R378) -/
  | poolInfo (rq : ReqId)
  /-- ALT_QUEUE: ALT_QUEUE returns queued Alteration demands. (R378) -/
  | altQueue (rq : ReqId)
  /-- DEFAULTS_SET: DEFAULTS_SET sets the service defaults for later namespaces. (R326) -/
  | defaultsSet (rq : ReqId)
  /-- DEFAULTS_GET: DEFAULTS_GET returns the service defaults. (R378) -/
  | defaultsGet (rq : ReqId)
  /-- GROUP_SET: GROUP_SET writes the peer-group record while ACT is 0. (R338) -/
  | groupSet (rq : ReqId)
  /-- GROUP_STATUS: GROUP_STATUS returns epoch, leader and members. (R378) -/
  | groupStatus (rq : ReqId)
  /-- PEER_HELLO: PEER_HELLO exchanges group identity and capabilities with a member. (R340) -/
  | peerHello (rq : ReqId)
  /-- ADOPT: ADOPT starts rebuilding a lost coordinator's index by coordinator-prefix List. (R342) -/
  | adopt (rq : ReqId)
  /-- REG_READ: REG_READ returns diagnostic register values. (R383) -/
  | regRead (rq : ReqId)
  /-- REG_WRITE: REG_WRITE validates and runs diagnostic write entries in order. (R383) -/
  | regWrite (rq : ReqId) (w : World)
  /-- REG_READ_BLOCK: REG_READ_BLOCK returns a block of words. (R383) -/
  | regReadBlock (rq : ReqId)
  /-- REG_WRITE_BLOCK: REG_WRITE_BLOCK writes a block of words with a token. (R383) -/
  | regWriteBlock (rq : ReqId) (w : World)
  /-- REGISTER_WRITE: A write to a register without a row of its own acts under its access codes. (R17) -/
  | registerWrite (sender : Fin 64) (blk : Fin 256) (inst : Fin 40) (off : Fin 65536) (v : BitVec 32) (w : World)
  /-- SHADOW_COMMIT: Group or broadcast shadow writes commit at the next address mark of each addressed actuator. (R385) -/
  | shadowCommit (a : Act) (hw : List (List (BitVec 32)))
  /-- SRC_ROUTE: SRC_ROUTE retargets or enables a notification source. (R369) -/
  | srcRoute (rq : ReqId)
  /-- SRC_READ: SRC_READ returns a source entry. (R378) -/
  | srcRead (rq : ReqId)
  /-- DOORBELL: DOORBELL fires bit 1 of an agent's bank. (R363) -/
  | doorbell (rq : ReqId)
  /-- SOFT_SOURCE: SOFT_SOURCE sets or clears a software source level. (R367) -/
  | softSource (rq : ReqId)
  /-- BANK_CLAIM: BANK_CLAIM claims bits of the sender's own bank. (R364) -/
  | bankClaim (rq : ReqId)
  /-- BANK_DONE: BANK_DONE completes bits of the sender's own bank. (R364) -/
  | bankDone (rq : ReqId)
  /-- HBM_TRAINING_DONE: HBM training of a stack ends, passing or retraining up to three times. (R392) -/
  | hbmTrainingDone (k : Fin 2) (ok : Bool) (channel : BitVec 8)
  /-- HBM_RATE_WRITE: Writing HBM_CTL.RATE sets the shared rate and starts a switch. (R391) -/
  | hbmRateWrite (rate : Fin 4)
  /-- HBM_RATE_SWITCH_DONE: A rate switch completes within 20 µs and waiting requests resume. (R393) -/
  | hbmRateSwitchDone
  /-- HBM_CORRECTED_ERROR: An HBM access corrects a symbol and writes the data back. (R395) -/
  | hbmCorrectedError (k : Fin 2)
  /-- HBM_UNCORRECTABLE: An HBM access finds uncorrectable data, poisons it and acts by partition. (R395) -/
  | hbmUncorrectable (k : Fin 2) (adr : BitVec 35) (cls : Fin 16) (blocks : List (Nat × Nat)) (a : Act) (entry : Nat × List Byte × Nat)
  /-- HBM_PATROL_SCRUB: Patrol scrub reads the next 64-byte block, correcting it and counting passes. (R396) -/
  | hbmPatrolScrub (k : Fin 2) (corrected : Bool)
  /-- SELF_REFRESH_EXIT: A Pocket miss takes HBM out of self-refresh. (R397) -/
  | selfRefreshExit
  /-- POCKET_UNCORRECTABLE: Pocket finds uncorrectable data; a dirty line is written back poisoned. (R398) -/
  | pocketUncorrectable (set : Fin 32768) (way : Fin 16)
  /-- PKT_ENABLE: PKT_CTL.EN 0→1 checks and clears every tag. (R402) -/
  | pktEnable
  /-- PKT_DISABLE: Clearing PKT_CTL.EN starts a full clean. (R402) -/
  | pktDisable
  /-- PKT_CLEAN_DONE: The last write-back of the disable clean is accepted and Pocket is off. (R402) -/
  | pktCleanDone (duration : BitVec 32)
  /-- PKT_INVALIDATE: Range operation INVALIDATE discards lines in range. (R401) -/
  | pktInvalidate
  /-- PKT_CLEAN: Range operation CLEAN writes back dirty lines in range. (R401) -/
  | pktClean
  /-- PKT_CLEAN_INVALIDATE: Range operation CLEAN_INVALIDATE writes back and invalidates lines in range. (R401) -/
  | pktCleanInvalidate
  /-- PKT_RANGE_DONE: A range operation's last write-back is accepted and RNG_DONE set. (R401) -/
  | pktRangeDone
  /-- PKT_LFSR_SEED: Writing PKT_LFSR seeds the victim LFSR. (R400) -/
  | pktLfsrSeed (v : BitVec 32)
  /-- FLASH_READ: A Wardrobe read is served, suspending and resuming a running operation. (R410) -/
  | flashRead (addr : BitVec 32) (n : BitVec 16) (ran : Nat)
  /-- FLASH_PROGRAM: A Wardrobe page program starts in a bank. (R409) -/
  | flashProgram (addr : BitVec 32) (data : List Byte) (ran : Nat)
  /-- FLASH_ERASE: A Wardrobe block erase starts in a bank. (R409) -/
  | flashErase (blk : BitVec 16)
  /-- FLASH_PROGRAM_DONE: A program ends and verifies or fails with PROG_FAIL. (R409) -/
  | flashProgramDone (b : Fin 4) (ok : Bool)
  /-- FLASH_ERASE_DONE: An erase ends and verifies or fails with ERASE_FAIL. (R409) -/
  | flashEraseDone (b : Fin 4) (ok : Bool)
  /-- FLASH_SUSPEND_DUE: A waiting request suspends an operation once MIN_RUN_US has passed. (R410) -/
  | flashSuspendDue (b : Fin 4)
  /-- WDB_HOLD: Writing WDB_CTL.HOLD suspends or resumes a bank's program and erase. (R411) -/
  | wdbHold (m : BitVec 4)
  /-- DOWNLOAD_SESSION_TIMEOUT: 60 s without a download from the holder ends the session. (R420) -/
  | downloadSessionTimeout
  /-- SNT_ENABLE: SNT_CTL.EN 0→1 checks T1 and starts the watchdog. (R422) -/
  | sntEnable
  /-- SNT_KICK: A write to SNT_KICK with the key restarts stage 1; other values count bad kicks. (R422) -/
  | sntKick (v : BitVec 16)
  /-- STAGE1: T1 after the last kick, stage 1 is reached and notified. (R422) -/
  | stage1 (ctx : BitVec 8)
  /-- STAGE2: 2 s after stage 1 the stop wire is asserted, Wardrobe abandoned and the controller reset. (R422) -/
  | stage2
  /-- OPSEC_TICK: The operating-seconds counter advances once per second. (R429) -/
  | opsecTick
  /-- IDLE_TIMER: Idle for IDLE_MS; a raised budget is presented and demand ends. (R434) -/
  | idleTimer
  /-- WAKE_HOLD_EXPIRY: WAKE_HOLD_S after I/O-ready following a PS5 wake, demand ends. (R434) -/
  | wakeHoldExpiry (long : Bool)
  /-- PS_ENTRY_STEP: A step of entry to a deeper power state completes and the next starts. (R436) -/
  | psEntryStep
  /-- SS_CS_WAKE: SS_CS_N low for 1 µs wakes the device from PS5. (R430) -/
  | ssCsWake
  /-- SIDEBAND_WAKE: A sideband start condition with the device address wakes it from PS5. (R430) -/
  | sidebandWake
  /-- SENSOR_SAMPLE: Parasol samples a sensor, cross-checks it and applies threshold levels. (R440) -/
  | sensorSample (sensor : Fin 5) (raw : BitVec 16)
  /-- THERMAL_RESTART: 60 s after shutdown with the die released, Caravan restarts from step 2. (R439) -/
  | thermalRestart
  /-- THROTTLE_STEP_UP: Every 500 ms at throttle level the die's ladder steps up. (R442) -/
  | throttleStepUp (die : Fin 4)
  /-- THROTTLE_STEP_DOWN: After 2 s at or below release the ladder steps down. (R442) -/
  | throttleStepDown (die : Fin 4)
  /-- THROTTLE_ALTERNATE: At controller step 10 the held actuator set changes every 10 s. (R442) -/
  | throttleAlternate
  /-- FABRIC_PAUSE_WINDOW: At step 9 fabric receive is held for 500 µs of every 1 ms. (R442) -/
  | fabricPauseWindow
  /-- AGEING_DUE: A head or device ageing measurement falls due by hours or TB written. (R456) -/
  | ageingDue (h : Fin 256) (byTb : Bool)
  /-- AGEING_MEASURE_DONE: An ageing measurement completes, updates the working copy and writes a record. (R457) -/
  | ageingMeasureDone (h : Fin 256) (r : AgeResult)
  /-- VERIFY_DUE: VERIFY_H after a re-plan step the verification measurement falls due. (R461) -/
  | verifyDue (h : GHead) (z : RZone)
  /-- AGEING_OVERDUE: A measurement outstanding 100 h after falling due is counted overdue. (R456) -/
  | ageingOverdue (h : Fin 256)
  /-- TRACE: Writing TLR_CTL.TRACE starts factory tracing against the external references. (R453) -/
  | trace (steady : Bool)
  /-- TRACE_DONE: Tracing ends, trims and writes the certificate, or fails. (R453) -/
  | traceDone (r : TraceResult)
  /-- EVENT_DESCRIPTOR: The Playbill front-end accepts a descriptor, folding it or opening a new record. (R470) -/
  | eventDescriptor
  /-- RECORD_CLOSE_TIMER: CLOSE_S after opening, the open record closes into the buffer. (R471) -/
  | recordCloseTimer
  /-- RING_PROGRAM_DONE: A ring page program is read back and its records leave the buffer. (R473) -/
  | ringProgramDone (ok : Bool)
  /-- RING_BLOCK_ERASE_DONE: A ring block erase ends, retried or passed over on failure. (R474) -/
  | ringBlockEraseDone (ok : Bool)
  /-- CLEAR_ERASE_DONE: A background erase of a ring block after a clear completes. (R477) -/
  | clearEraseDone (ok : Bool)
  /-- SPIN_PERMISSION: Every spin condition holds and the spindle start proceeds. (R488) -/
  | spinPermission
  /-- SPIN_HOLD_N_CHANGE: SPIN_HOLD_N changes level, holding or allowing spin-up. (R488) -/
  | spinHoldNChange (level : Bool)
  /-- SPIN_BACKOFF_END: The AUTO back-off ends. (R489) -/
  | spinBackoffEnd
  /-- SPIN_DELAY_END: The AFTER delay ends. (R388) -/
  | spinDelayEnd
  /-- SAG_WAIT_END: 5 s plus back-off after a sag, SP_OVR clears and spin permission is sought again. (R490) -/
  | sagWaitEnd
  /-- IO_READY: Step 10 ends for every actuator; the device is I/O-ready and resumes operations. (R491) -/
  | ioReady (sysBad : List Act) (keyBad journalBad : List (BitVec 32)) (trialOk : Bool)
  /-- START_LATE: 40 s after step 6 without I/O-ready, code 0x14 is written. (R492) -/
  | startLate
  /-- SPI_WRITE_FRAME: A Sideshow SPI write frame writes whole words at consecutive offsets. (R498) -/
  | spiWriteFrame (raw : List Byte) (hw : List (BitVec 32))
  /-- SPI_READ_FRAME: A Sideshow SPI read frame returns bytes from consecutive offsets. (R498) -/
  | spiReadFrame (off : BitVec 16) (n : BitVec 17)
  /-- SDS_GO: Writing SDS_CTL.GO submits the window request for acceptance. (R500) -/
  | sdsGo
  /-- SDS_ACK: Writing SDS_CTL.ACK releases the response and returns the port to IDLE. (R500) -/
  | sdsAck
  /-- SDS_CLAIM: Writing SDS_CLAIM claims bank 8 bits. (R501) -/
  | sdsClaim (hi : Bool) (v : BitVec 32)
  /-- SDS_DONE: Writing SDS_DONE completes bank 8 bits. (R501) -/
  | sdsDone (hi : Bool) (v : BitVec 32)
  /-- PREAMP_WRITE_HOLD_END: 100 ms after a preamp over-temperature, VIN5-low or CRC-limit fault, the port's write hold ends, or continues until the flag reads 0. (R111) -/
  | preampWriteHoldEnd (a : Act) (flagClear : Bool)
  /-- AUTONOMOUS_SEQUENCE_END: Strongman's short braking brings the spindle to rest and the autonomous sequence ends, so a held RESUME can take effect. (R234) -/
  | autonomousSequenceEnd
  /-- SAFETY_MONITOR_PUSH_END: RET_TO after a safety-monitor takeover, the monitor ends its push at RET_PARK_I and opens every VCM bridge. (R239) -/
  | safetyMonitorPushEnd
  /-- STRONGMAN_LOGIC_POWER_LOSS: VIN5 and the VIN12 net are both below 3.0 V; Strongman's logic loses power, STM_PLOSS reads 0 and supervision state and safety-monitor takeover are reset. (R238) -/
  | strongmanLogicPowerLoss
  /-- NEGOTIATION_FAILURE: Clause 73 auto-negotiation ends without the selected mode; the link stays down and AN_FAIL is set with code 0x14. (R309) -/
  | negotiationFailure (p : Fin 2) (abilities : BitVec 32)
  /-- TRANSPORT_CONNECTION_FAILURE: A TCP or RoCEv2 connection fails at transport level, for example retries exhausted, and its queue is treated as disconnected while the controller waits for KATO. (R312) -/
  | transportConnectionFailure (c qid : BitVec 16)
  /-- DHCP_LEASE_ACQUIRED: A DHCPv4, DHCPv6 or SLAAC address is obtained and, once probed, enters service and the discovery log. (R315) -/
  | dhcpLeaseAcquired (p : Fin 2) (v6 : Bool) (addr : BitVec 128) (conflict : Bool)
  /-- PWR_EN_STEP: 2.0 ms after the previous enable, or 1.0 ms when lowering, or on the VDD_CORE regulator's acknowledgement, Caravan drives the next PWR_EN. (R431) -/
  | pwrEnStep
deriving DecidableEq, Repr

end Sys2Proof
end

