-- ==== Sys2Proof/Decode.lean ====
section
/-!
DEFINITION. Commands spelt as words. The opcode table gives no row any bits, so no word spells a command.
-/

namespace Sys2Proof

/-- The command a word of `nbits` bits spells by the opcode table's fields: none, as no row has a field. -/
def decodeTableWord (_nbits _w : Nat) : Option Instr := none

end Sys2Proof
end

