-- ==== Sys2Proof/Config.lean ====
section
/-!
DEFINITION. What the spec leaves open and what stands outside the block: constants without a body. Nothing in Lean can
evaluate one, so a statement about one holds whatever it is.
-/

namespace Sys2Proof.Config

/-- A value the spec leaves open, drawn afresh: the argument is the state's counter of free values. -/
opaque freeValue : Nat → Nat

/-- The number a register or a recorder entry shows for a cause the spec names in words only; the argument is the
model's own index of the cause. -/
opaque causeCode : Nat → Nat

/-- ECDSA P-384 verification of a signature over a message with a public key (R358, R418); the algorithm is outside
the spec. -/
opaque ecdsaVerify : List Nat → List Nat → List Nat → Bool

/-- SHA-384 of a byte string (R418); the algorithm is outside the spec. -/
opaque sha384 : List Nat → List Nat

/-- SHA-256 of a byte string (R336, R340); the algorithm is outside the spec. -/
opaque sha256 : List Nat → List Nat

/-- Where the extents of a conventional namespace begin among the slots drawn for it on an actuator; arguments: NSID, actuator.
"An extent may sit in any slot of any band of its home actuator" (R251). -/
opaque extentShift : Nat → Nat → Nat

/-- A user byte of a track the device writes for itself, whose layout the spec does not give: system tracks, map checkpoints, the
pattern of a re-lay's verification (R252, R254, R265); arguments: track, its generation, sector, byte. -/
opaque sysByte : Nat → Nat → Nat → Nat → BitVec 8

/-- The 4 KiB piece of an HBM partition that holds an item; arguments: partition, the item's key (R394). -/
opaque hbmPlace : Nat → Nat → Nat

/-- A signal between two samples; arguments: the four samples around the point, the fraction of a bit in 1/64. The spec gives no
interpolation (R72). -/
opaque between : List Int → Nat → Int

/-- Equaliser output in 1/4,096 sample for a target value of 1/64: the target's amplitude, which the spec does not give (R72). -/
opaque unitLevel : Int

/-- Magnitude of an LLR for a reliability of the detector; the spec gives its width alone (R72). -/
opaque llrMagnitude : Nat → Nat

/-- XTS decryption of one data unit; arguments: key generation, tweak, the unit's bytes (R326, R327). -/
opaque xtsOpen : Nat → Nat → List Byte → List Byte

/-- Bytes of a map or index entry in HBM; arguments: partition, key, version, offset (R32). -/
opaque hbmByte : Nat → Nat → Nat → Nat → BitVec 8

/-- Whether a quotient that is not exact is rounded up, where the spec gives no rounding; arguments: dividend, divisor. Sums of
Q3.28 products, whose rounding belongs to the loop's microcode, the decay of a handover offset, Q1.14 feed-forward, interpolations,
learning steps, voltages and angles (R156, R165, R172, R176, R184 to R186, R196 to R199). -/
opaque roundsUp : Int → Nat → Bool

/-- Gains of an angle tracker on its angle and on its speed, in 1/65,536; argument: the source. The spec says "second-order" and
gives no gains (R199). -/
opaque trackGain : Nat → Int

/-- The same on the speed. -/
opaque trackRate : Nat → Int

/-- Which way a position exactly halfway between two units is rounded; the spec says "round" only (R146). -/
opaque roundUp : Int → Bool

/-- The sub-track offset, in 1/2,048 track, when a burst pair needed by R146 sums to zero; arguments: A, B, C, D. -/
opaque burstRatio : Nat → Nat → Nat → Nat → Int

/-- What a 16-bit signed register shows of a value outside its range (R146, R161). -/
opaque outOfRange16 : Int → Nat

/-- The entry word of the routine that runs a law; argument: the loop's `LAW`. The microcode is not in the spec (R164). -/
opaque loopEntry : Nat → Nat

/-- The input code (R174) behind a shared operand address from 256 on, or 0x60 + g for the result of group g; the spec gives no
map (R165). -/
opaque sharedInput : Nat → Nat

/-- A byte of a half of the Tailor store; arguments: its generation, the offset in the half. The spec gives its layout no offsets
(R452). -/
opaque tlrByte : Nat → Nat → Byte

/-- A byte of an erase-incomplete block; arguments: byte address, erases counted. Its content is undefined (R408). -/
opaque eraseJunk : Nat → Nat → Byte

/-- The bits a program cut short did clear; arguments: the counter of free values, byte address (R408). -/
opaque progJunk : Nat → Nat → Byte

/-- The public key of a key class that Lamcel's firmware signatures verify with (R9, R418). -/
opaque lamcelKey : Nat → List Nat

/-- The part's key class: 0 production, 1 engineering sample (R9). -/
opaque partClass : Nat

/-- The victim LFSR after one step; the spec gives its polynomial and not the direction of its shift (R400). -/
opaque lfsrNext : Nat → Nat

/-- The serial number, by byte (R313, R340, R378); the part holds it, the spec gives no value. -/
opaque serialByte : Nat → Byte

/-- Which of the actuators of its namespace a key's value lies on; arguments: NSID, key number (R331: "the placement of
R247", which numbers zones and not keys). -/
opaque kvPlace : Nat → Nat → Nat

/-- Zstandard compression at a level (R325, R332, R336); the format is outside the spec. -/
opaque zstdPack : Nat → List Nat → List Nat

/-- Zstandard decompression; none for a frame that is not valid or has a window above 8 MiB (R325). -/
opaque zstdUnpack : List Nat → Option (List Nat)

/-- Address a program sees as the top of its stack, in its core's scratch (R324, R335). -/
opaque stackTop : Nat

/-- Address of the table of ranges in the scratch (R335). -/
opaque rangeTable : Nat

/-- A byte of a program's stack that nothing has written; arguments: counter of free values, offset. -/
opaque stackByte : Nat → Nat → Byte

/-- A quarter or slice of a word of a control store, as a firmware image holds it; arguments: the image's bytes, block id, word
address, quarter or slice. Neither the image's layout nor the microcode is in the spec (R5, R123, R164). -/
opaque storeWord : List (Nat × Byte) → Nat → Nat → Nat → Nat

/-- Word at which a sequencer's idle loop begins in the microcode of a firmware image; the spec gives no address (R124, R125). -/
opaque idleLoop : List (Nat × Byte) → Nat

/-- A 6-bit sample of a frozen replay buffer; arguments: channel, how often it has been frozen, page, offset (R82). -/
opaque replaySample : Nat → Nat → Nat → Nat → BitVec 6

/-- A response payload whose fields the spec names without their sizes; arguments: opcode, the fields in their order. -/
opaque payload : Nat → List Nat → List Byte

/-- The 32-bit words of an inventory item whose values the spec names without their words; arguments: item, the values. -/
opaque invWords : Nat → List Nat → List Nat

/-- A byte of a fixed-size field beyond the content the spec gives it; the argument is the model's own index of the
field. -/
opaque padByte : Nat → Byte

/-- The part's stepping (R378). -/
opaque stepping : Nat

/-- Bits 7 to 1 of `SAMPLE_CLASS` (R9, R378). -/
opaque sampleBits : Nat

/-- Byte of the `DATA` of a Playbill record; arguments: block, code, values in the order of the code's table, offset. The
spec gives no sizes (R467). -/
opaque recData : Nat → Nat → List Nat → Nat → Byte

/-- Group identifier, serial number, epoch, largest k, m and fragment code of a peer hello, or none where it is none
(R340). -/
opaque helloRead : List Byte → Option (List Byte × List Byte × Nat × Nat × Nat × Nat)

/-- The payload of a peer hello with those fields (R340). -/
opaque helloForm : List Byte → List Byte → Nat → Nat → Nat → Nat → List Byte

/-- Coefficients of the Cauchy generator matrix of Patchwork; arguments: k, m, parity fragment, data fragment. "Parity
fragment j of a stripe depends only on k, m, j and the data fragments" (R325). -/
opaque cauchy : Nat → Nat → Nat → Nat → Nat

/-- XTS encryption of one data unit; arguments: key generation, tweak, the unit's bytes (R326, R327). AES and the keys are
outside the spec. -/
opaque xts : Nat → Nat → List Byte → List Byte

/-- First column of the circulant that gives a parity block from an information block; arguments: parity block 0 to 56,
information block 0 to 512. The parity-check matrix is part of the signed firmware image (R42). -/
opaque ldpcCirc : Nat → Nat → BitVec 512

/-- Back-EMF velocity of an actuator in 0.01 mm/s; arguments: VCM terminal voltage as the message slot gives it, VCM current in
0.1 mA, VCM resistance in mΩ. The spec gives neither the slot's unit nor the motor constant (R155, R174). -/
opaque bemfVel : Int → Int → Nat → Int

/-- Current demand of Strongman's retract law in 0.1 mA, before its limit; arguments: velocity and target velocity in 0.01 mm/s. "It
regulates v at `RET_VEL`" (R236); the spec gives no law. -/
opaque retractLaw : Int → Int → Int

/-- Reader bias of a head in mV as `PA_RBIAS` takes it; arguments: actuator, local head. The spec gives no value (R97,
R100). -/
opaque readerBias : Nat → Nat → Nat

/-- A byte of `PARAM` of a journal record; arguments: `TYPE`, the values, offset. The spec names its contents and gives no layout
(R268). -/
opaque jParam : Nat → List Nat → Nat → Byte

end Sys2Proof.Config
end

