-- ==== Sys2Proof/Machine/RegMap.lean ====
section
/-!
DEFINITION. Every field of every register table of the spec, one definition per field, and the same tables
as data for an access by address (R14, R17). A field carries its block id (R15), target selector, byte offset, lowest bit,
width and reset value. A counter (R91) is named once, by its COUNT field; the mask registers of the event registers
stand in the tables only.
-/

namespace Sys2Proof.Machine

/-- `TFH_CTL` +0x000 [0] `EN`, RW, reset 0x0 (R120). -/
abbrev R.TFH_CTL_EN : Fld := ⟨0x13, 0, 0x0, 0, 1, 0x0⟩

/-- `TFH_CHK` +0x004 [15:0] `REASON`, RO, reset 0x0 (R120). -/
abbrev R.TFH_CHK_REASON : Fld := ⟨0x13, 0, 0x4, 0, 16, 0x0⟩

/-- `TFH_TD` +0x008 [5:0] `TD_HEAD`, RW, reset 0x0 (R120). -/
abbrev R.TFH_TD_TD_HEAD : Fld := ⟨0x13, 0, 0x8, 0, 6, 0x0⟩

/-- `TFH_TD` +0x008 [30] `ABORT`, WO, reset 0x0 (R120). -/
abbrev R.TFH_TD_ABORT : Fld := ⟨0x13, 0, 0x8, 30, 1, 0x0⟩

/-- `TFH_TD` +0x008 [31] `GO`, WO, reset 0x0 (R120). -/
abbrev R.TFH_TD_GO : Fld := ⟨0x13, 0, 0x8, 31, 1, 0x0⟩

/-- `TFH_TD_RES` +0x00C [11:0] `TD_PWR`, RO, reset 0x0 (R120). -/
abbrev R.TFH_TD_RES_TD_PWR : Fld := ⟨0x13, 0, 0xC, 0, 12, 0x0⟩

/-- `TFH_TD_RES` +0x00C [13:12] `RESULT`, RO, reset 0x0 (R120). -/
abbrev R.TFH_TD_RES_RESULT : Fld := ⟨0x13, 0, 0xC, 12, 2, 0x0⟩

/-- `TFH_TD_RES` +0x00C [14] `BUSY`, RO, reset 0x0 (R120). -/
abbrev R.TFH_TD_RES_BUSY : Fld := ⟨0x13, 0, 0xC, 14, 1, 0x0⟩

/-- `TFH_EVT` +0x010 [0] `TD_DONE`, W1C, reset 0x0 (R120). -/
abbrev R.TFH_EVT_TD_DONE : Fld := ⟨0x13, 0, 0x10, 0, 1, 0x0⟩

/-- `TFH_EVT` +0x010 [1] `HTR_CLAMP`, W1C, reset 0x0 (R120). -/
abbrev R.TFH_EVT_HTR_CLAMP : Fld := ⟨0x13, 0, 0x10, 1, 1, 0x0⟩

/-- `TFH_EVT` +0x010 [2] `CNT_SAT`, W1C, reset 0x0 (R120). -/
abbrev R.TFH_EVT_CNT_SAT : Fld := ⟨0x13, 0, 0x10, 2, 1, 0x0⟩

/-- `SEQ_CTL` +0x000 [0] `EN`, RW, reset 0x0 (R138). -/
abbrev R.SEQ_CTL_EN (a : Nat) : Fld := ⟨0x0D, a, 0x0, 0, 1, 0x0⟩

/-- `SEQ_CTL` +0x000 [1] `SCRUB_EN`, RW, reset 0x1 (R138). -/
abbrev R.SEQ_CTL_SCRUB_EN (a : Nat) : Fld := ⟨0x0D, a, 0x0, 1, 1, 0x1⟩

/-- `SEQ_CHK` +0x004 [15:0] `REASON`, RO, reset 0x0 (R138). -/
abbrev R.SEQ_CHK_REASON (a : Nat) : Fld := ⟨0x0D, a, 0x4, 0, 16, 0x0⟩

/-- `SEQ_STAT` +0x008 [2:0] `STATE`, RO, reset 0x0 (R138). -/
abbrev R.SEQ_STAT_STATE (a : Nat) : Fld := ⟨0x0D, a, 0x8, 0, 3, 0x0⟩

/-- `SEQ_STAT` +0x008 [3] `NR`, RO, reset 0x0 (R138). -/
abbrev R.SEQ_STAT_NR (a : Nat) : Fld := ⟨0x0D, a, 0x8, 3, 1, 0x0⟩

/-- `SEQ_STAT` +0x008 [9:4] `ROUTINE`, RO, reset 0x0 (R138). -/
abbrev R.SEQ_STAT_ROUTINE (a : Nat) : Fld := ⟨0x0D, a, 0x8, 4, 6, 0x0⟩

/-- `SEQ_STAT` +0x008 [23:12] `PC`, RO, reset 0x0 (R138). -/
abbrev R.SEQ_STAT_PC (a : Nat) : Fld := ⟨0x0D, a, 0x8, 12, 12, 0x0⟩

/-- `SEQ_STAT` +0x008 [31:24] `GATES`, RO, reset 0x0 (R138). -/
abbrev R.SEQ_STAT_GATES (a : Nat) : Fld := ⟨0x0D, a, 0x8, 24, 8, 0x0⟩

/-- `SEQ_EVT` +0x00C [0] `MCHK`, W1C, reset 0x0 (R138). -/
abbrev R.SEQ_EVT_MCHK (a : Nat) : Fld := ⟨0x0D, a, 0xC, 0, 1, 0x0⟩

/-- `SEQ_EVT` +0x00C [1] `ABANDON`, W1C, reset 0x0 (R138). -/
abbrev R.SEQ_EVT_ABANDON (a : Nat) : Fld := ⟨0x0D, a, 0xC, 1, 1, 0x0⟩

/-- `SEQ_EVT` +0x00C [2] `MISS`, W1C, reset 0x0 (R138). -/
abbrev R.SEQ_EVT_MISS (a : Nat) : Fld := ⟨0x0D, a, 0xC, 2, 1, 0x0⟩

/-- `SEQ_EVT` +0x00C [3] `RESTART_LIM`, W1C, reset 0x0 (R138). -/
abbrev R.SEQ_EVT_RESTART_LIM (a : Nat) : Fld := ⟨0x0D, a, 0xC, 3, 1, 0x0⟩

/-- `SEQ_EVT` +0x00C [4] `SCRUB_ERR`, W1C, reset 0x0 (R138). -/
abbrev R.SEQ_EVT_SCRUB_ERR (a : Nat) : Fld := ⟨0x0D, a, 0xC, 4, 1, 0x0⟩

/-- `SEQ_EVT` +0x00C [5] `CNT_SAT`, W1C, reset 0x0 (R138). -/
abbrev R.SEQ_EVT_CNT_SAT (a : Nat) : Fld := ⟨0x0D, a, 0xC, 5, 1, 0x0⟩

/-- `SEQ_MCK0` +0x014 [11:0] `ADDR`, RO, reset 0x0 (R138). -/
abbrev R.SEQ_MCK0_ADDR (a : Nat) : Fld := ⟨0x0D, a, 0x14, 0, 12, 0x0⟩

/-- `SEQ_MCK0` +0x014 [15:12] `QMASK`, RO, reset 0x0 (R138). -/
abbrev R.SEQ_MCK0_QMASK (a : Nat) : Fld := ⟨0x0D, a, 0x14, 12, 4, 0x0⟩

/-- `SEQ_MCK0` +0x014 [18:16] `CAUSE`, RO, reset 0x0 (R138). -/
abbrev R.SEQ_MCK0_CAUSE (a : Nat) : Fld := ⟨0x0D, a, 0x14, 16, 3, 0x0⟩

/-- `SEQ_MCK0` +0x014 [24:19] `ROUTINE`, RO, reset 0x0 (R138). -/
abbrev R.SEQ_MCK0_ROUTINE (a : Nat) : Fld := ⟨0x0D, a, 0x14, 19, 6, 0x0⟩

/-- `SEQ_MCK1` +0x018 [7:0] `GATES`, RO, reset 0x0 (R138). -/
abbrev R.SEQ_MCK1_GATES (a : Nat) : Fld := ⟨0x0D, a, 0x18, 0, 8, 0x0⟩

/-- `SEQ_MCK1` +0x018 [11:8] `ABCAUSE`, RO, reset 0x0 (R138). -/
abbrev R.SEQ_MCK1_ABCAUSE (a : Nat) : Fld := ⟨0x0D, a, 0x18, 8, 4, 0x0⟩

/-- `SEQ_COMMIT` +0x01C [23:0] `TRACK`, RO, reset 0x0 (R138). -/
abbrev R.SEQ_COMMIT_TRACK (a : Nat) : Fld := ⟨0x0D, a, 0x1C, 0, 24, 0x0⟩

/-- `SEQ_COMMIT` +0x01C [31:24] `SIDX`, RO, reset 0x0 (R138). -/
abbrev R.SEQ_COMMIT_SIDX (a : Nat) : Fld := ⟨0x0D, a, 0x1C, 24, 8, 0x0⟩

/-- `SEQ_CS_ADDR` +0x080 [11:0] `ADDR`, RW, reset 0x0 (R138). -/
abbrev R.SEQ_CS_ADDR_ADDR (a : Nat) : Fld := ⟨0x0D, a, 0x80, 0, 12, 0x0⟩

/-- `SEQ_CS_Q` +0x084 [31:0] `DATA`, RO, reset 0x0 (R138). -/
abbrev R.SEQ_CS_Q_DATA (a : Nat) (i : Nat) : Fld := ⟨0x0D, a, 0x84 + 0x4 * i, 0, 32, 0x0⟩

/-- `SEQ_CS_PAR` +0x094 [3:0] `PAR`, RO, reset 0x0 (R138). -/
abbrev R.SEQ_CS_PAR_PAR (a : Nat) : Fld := ⟨0x0D, a, 0x94, 0, 4, 0x0⟩

/-- `SRV_CTL` +0x000 [0] `EN`, RW, reset 0x0 (R161). -/
abbrev R.SRV_CTL_EN (a : Nat) : Fld := ⟨0x0E, a, 0x0, 0, 1, 0x0⟩

/-- `SRV_CTL` +0x000 [1] `RRO_EN`, RW, reset 0x1 (R161). -/
abbrev R.SRV_CTL_RRO_EN (a : Nat) : Fld := ⟨0x0E, a, 0x0, 1, 1, 0x1⟩

/-- `SRV_CTL` +0x000 [2] `PRED_EN`, RW, reset 0x1 (R161). -/
abbrev R.SRV_CTL_PRED_EN (a : Nat) : Fld := ⟨0x0E, a, 0x0, 2, 1, 0x1⟩

/-- `SRV_CTL` +0x000 [3] `MA_EN`, RW, reset 0x1 (R161). -/
abbrev R.SRV_CTL_MA_EN (a : Nat) : Fld := ⟨0x0E, a, 0x0, 3, 1, 0x1⟩

/-- `SRV_CTL` +0x000 [4] `FF_MATE_EN`, RW, reset 0x1 (R161). -/
abbrev R.SRV_CTL_FF_MATE_EN (a : Nat) : Fld := ⟨0x0E, a, 0x0, 4, 1, 0x1⟩

/-- `SRV_CHK` +0x004 [15:0] `REASON`, RO, reset 0x0 (R161). -/
abbrev R.SRV_CHK_REASON (a : Nat) : Fld := ⟨0x0E, a, 0x4, 0, 16, 0x0⟩

/-- `SRV_STAT` +0x008 [3:0] `STATE`, RO, reset 0x0 (R161). -/
abbrev R.SRV_STAT_STATE (a : Nat) : Fld := ⟨0x0E, a, 0x8, 0, 4, 0x0⟩

/-- `SRV_STAT` +0x008 [4] `LOCK`, RO, reset 0x0 (R161). -/
abbrev R.SRV_STAT_LOCK (a : Nat) : Fld := ⟨0x0E, a, 0x8, 4, 1, 0x0⟩

/-- `SRV_STAT` +0x008 [5] `WP`, RO, reset 0x0 (R161). -/
abbrev R.SRV_STAT_WP (a : Nat) : Fld := ⟨0x0E, a, 0x8, 5, 1, 0x0⟩

/-- `SRV_STAT` +0x008 [9:6] `HEAD`, RO, reset 0x0 (R161). -/
abbrev R.SRV_STAT_HEAD (a : Nat) : Fld := ⟨0x0E, a, 0x8, 6, 4, 0x0⟩

/-- `SRV_STAT` +0x008 [10] `MA_OFF`, RO, reset 0x0 (R161). -/
abbrev R.SRV_STAT_MA_OFF (a : Nat) : Fld := ⟨0x0E, a, 0x8, 10, 1, 0x0⟩

/-- `SRV_STAT` +0x008 [11] `FEED_SRC`, RO, reset 0x0 (R161). -/
abbrev R.SRV_STAT_FEED_SRC (a : Nat) : Fld := ⟨0x0E, a, 0x8, 11, 1, 0x0⟩

/-- `SRV_EVT` +0x00C [0] `LOCK_LOST`, W1C, reset 0x0 (R161). -/
abbrev R.SRV_EVT_LOCK_LOST (a : Nat) : Fld := ⟨0x0E, a, 0xC, 0, 1, 0x0⟩

/-- `SRV_EVT` +0x00C [1] `SEEK_ERR`, W1C, reset 0x0 (R161). -/
abbrev R.SRV_EVT_SEEK_ERR (a : Nat) : Fld := ⟨0x0E, a, 0xC, 1, 1, 0x0⟩

/-- `SRV_EVT` +0x00C [2] `LOAD_FAIL`, W1C, reset 0x0 (R161). -/
abbrev R.SRV_EVT_LOAD_FAIL (a : Nat) : Fld := ⟨0x0E, a, 0xC, 2, 1, 0x0⟩

/-- `SRV_EVT` +0x00C [3] `IDX_SLIP`, W1C, reset 0x0 (R161). -/
abbrev R.SRV_EVT_IDX_SLIP (a : Nat) : Fld := ⟨0x0E, a, 0xC, 3, 1, 0x0⟩

/-- `SRV_EVT` +0x00C [4] `WI`, W1C, reset 0x0 (R161). -/
abbrev R.SRV_EVT_WI (a : Nat) : Fld := ⟨0x0E, a, 0xC, 4, 1, 0x0⟩

/-- `SRV_EVT` +0x00C [5] `MA_OFF`, W1C, reset 0x0 (R161). -/
abbrev R.SRV_EVT_MA_OFF (a : Nat) : Fld := ⟨0x0E, a, 0xC, 5, 1, 0x0⟩

/-- `SRV_EVT` +0x00C [6] `LOAD_DONE`, W1C, reset 0x0 (R161). -/
abbrev R.SRV_EVT_LOAD_DONE (a : Nat) : Fld := ⟨0x0E, a, 0xC, 6, 1, 0x0⟩

/-- `SRV_EVT` +0x00C [7] `UNLOAD_DONE`, W1C, reset 0x0 (R161). -/
abbrev R.SRV_EVT_UNLOAD_DONE (a : Nat) : Fld := ⟨0x0E, a, 0xC, 7, 1, 0x0⟩

/-- `SRV_EVT` +0x00C [8] `CNT_SAT`, W1C, reset 0x0 (R161). -/
abbrev R.SRV_EVT_CNT_SAT (a : Nat) : Fld := ⟨0x0E, a, 0xC, 8, 1, 0x0⟩

/-- `SRV_TGT` +0x014 [23:0] `TRACK`, RO, reset 0x0 (R161). -/
abbrev R.SRV_TGT_TRACK (a : Nat) : Fld := ⟨0x0E, a, 0x14, 0, 24, 0x0⟩

/-- `SRV_OFS` +0x018 [15:0] `OFS`, RW, reset 0x0 (R161). -/
abbrev R.SRV_OFS_OFS (a : Nat) : Fld := ⟨0x0E, a, 0x18, 0, 16, 0x0⟩

/-- `SRV_POS` +0x01C [23:0] `TRACK`, RO, reset 0x0 (R161). -/
abbrev R.SRV_POS_TRACK (a : Nat) : Fld := ⟨0x0E, a, 0x1C, 0, 24, 0x0⟩

/-- `SRV_PES` +0x020 [15:0] `PES`, RO, reset 0x0 (R161). -/
abbrev R.SRV_PES_PES (a : Nat) : Fld := ⟨0x0E, a, 0x20, 0, 16, 0x0⟩

/-- `SRV_PES` +0x020 [31:16] `RRO`, RO, reset 0x0 (R161). -/
abbrev R.SRV_PES_RRO (a : Nat) : Fld := ⟨0x0E, a, 0x20, 16, 16, 0x0⟩

/-- `SRV_SAM` +0x024 [1:0] `SAM_HD`, RW, reset 0x1 (R161). -/
abbrev R.SRV_SAM_SAM_HD (a : Nat) : Fld := ⟨0x0E, a, 0x24, 0, 2, 0x1⟩

/-- `SRV_SAM` +0x024 [13:8] `SAM_WIN`, RW, reset 0x8 (R161). -/
abbrev R.SRV_SAM_SAM_WIN (a : Nat) : Fld := ⟨0x0E, a, 0x24, 8, 6, 0x8⟩

/-- `SRV_SAM` +0x024 [19:16] `LOST_LIM`, RW, reset 0x4 (R161). -/
abbrev R.SRV_SAM_LOST_LIM (a : Nat) : Fld := ⟨0x0E, a, 0x24, 16, 4, 0x4⟩

/-- `SRV_SAM` +0x024 [31:24] `AMP_MIN`, RW, reset 0x80 (R161). -/
abbrev R.SRV_SAM_AMP_MIN (a : Nat) : Fld := ⟨0x0E, a, 0x24, 24, 8, 0x80⟩

/-- `SRV_WI` +0x028 [9:0] `WI_THR`, RW, reset 0xCD (R161). -/
abbrev R.SRV_WI_WI_THR (a : Nat) : Fld := ⟨0x0E, a, 0x28, 0, 10, 0xCD⟩

/-- `SRV_WI` +0x028 [15:12] `WI_GOOD`, RW, reset 0x3 (R161). -/
abbrev R.SRV_WI_WI_GOOD (a : Nat) : Fld := ⟨0x0E, a, 0x28, 12, 4, 0x3⟩

/-- `SRV_WI` +0x028 [25:16] `RD_THR`, RW, reset 0x199 (R161). -/
abbrev R.SRV_WI_RD_THR (a : Nat) : Fld := ⟨0x0E, a, 0x28, 16, 10, 0x199⟩

/-- `SRV_WI` +0x028 [31:28] `SET_CNT`, RW, reset 0x4 (R161). -/
abbrev R.SRV_WI_SET_CNT (a : Nat) : Fld := ⟨0x0E, a, 0x28, 28, 4, 0x4⟩

/-- `SRV_SEEK` +0x02C [15:0] `SEEK_TO`, RW, reset 0x7D0 (R161). -/
abbrev R.SRV_SEEK_SEEK_TO (a : Nat) : Fld := ⟨0x0E, a, 0x2C, 0, 16, 0x7D0⟩

/-- `SRV_SEEK` +0x02C [23:16] `GRAY_WIN`, RW, reset 0x10 (R161). -/
abbrev R.SRV_SEEK_GRAY_WIN (a : Nat) : Fld := ⟨0x0E, a, 0x2C, 16, 8, 0x10⟩

/-- `SRV_SEEK` +0x02C [31:24] `MA_SEEK`, RW, reset 0x40 (R161). -/
abbrev R.SRV_SEEK_MA_SEEK (a : Nat) : Fld := ⟨0x0E, a, 0x2C, 24, 8, 0x40⟩

/-- `SRV_LOAD` +0x030 [7:0] `LD_VEL`, RW, reset 0x64 (R161). -/
abbrev R.SRV_LOAD_LD_VEL (a : Nat) : Fld := ⟨0x0E, a, 0x30, 0, 8, 0x64⟩

/-- `SRV_LOAD` +0x030 [15:8] `UNLD_VEL`, RW, reset 0x96 (R161). -/
abbrev R.SRV_LOAD_UNLD_VEL (a : Nat) : Fld := ⟨0x0E, a, 0x30, 8, 8, 0x96⟩

/-- `SRV_LOAD` +0x030 [23:16] `ACQ_TO`, RW, reset 0xC8 (R161). -/
abbrev R.SRV_LOAD_ACQ_TO (a : Nat) : Fld := ⟨0x0E, a, 0x30, 16, 8, 0xC8⟩

/-- `SRV_MATE` +0x034 [15:0] `KFF`, RW, reset 0x0 (R161). -/
abbrev R.SRV_MATE_KFF (a : Nat) : Fld := ⟨0x0E, a, 0x34, 0, 16, 0x0⟩

/-- `SRV_MATE` +0x034 [23:16] `WR_IMAX`, RW, reset 0x28 (R161). -/
abbrev R.SRV_MATE_WR_IMAX (a : Nat) : Fld := ⟨0x0E, a, 0x34, 16, 8, 0x28⟩

/-- `SRV_FEED` +0x038 [31:0] `STAMP`, RO, reset 0x0 (R161). -/
abbrev R.SRV_FEED_STAMP (a : Nat) : Fld := ⟨0x0E, a, 0x38, 0, 32, 0x0⟩

/-- `SRV_HEADA` +0x100 [15:0] `HSKEW`, RW, reset 0x0 (R161). -/
abbrev R.SRV_HEADA_HSKEW (a : Nat) (i : Nat) : Fld := ⟨0x0E, a, 0x100 + 0x8 * i, 0, 16, 0x0⟩

/-- `SRV_HEADA` +0x100 [31:16] `MA_GAIN`, RW, reset 0x0 (R161). -/
abbrev R.SRV_HEADA_MA_GAIN (a : Nat) (i : Nat) : Fld := ⟨0x0E, a, 0x100 + 0x8 * i, 16, 16, 0x0⟩

/-- `SRV_HEADB` +0x104 [15:0] `KN`, RW, reset 0x1000 (R161). -/
abbrev R.SRV_HEADB_KN (a : Nat) (i : Nat) : Fld := ⟨0x0E, a, 0x104 + 0x8 * i, 0, 16, 0x1000⟩

/-- `SRV_HEADB` +0x104 [31:16] `KQ`, RW, reset 0x1000 (R161). -/
abbrev R.SRV_HEADB_KQ (a : Nat) (i : Nat) : Fld := ⟨0x0E, a, 0x104 + 0x8 * i, 16, 16, 0x1000⟩

/-- `TRZ_CTL` +0x000 [0] `EN`, RW, reset 0x0 (R193). -/
abbrev R.TRZ_CTL_EN : Fld := ⟨0x0F, 0, 0x0, 0, 1, 0x0⟩

/-- `TRZ_CTL` +0x000 [1] `SCRUB_EN`, RW, reset 0x1 (R193). -/
abbrev R.TRZ_CTL_SCRUB_EN : Fld := ⟨0x0F, 0, 0x0, 1, 1, 0x1⟩

/-- `TRZ_CTL` +0x000 [2] `LRN_VCM_EN`, RW, reset 0x1 (R193). -/
abbrev R.TRZ_CTL_LRN_VCM_EN : Fld := ⟨0x0F, 0, 0x0, 2, 1, 0x1⟩

/-- `TRZ_CTL` +0x000 [3] `LRN_COG_EN`, RW, reset 0x1 (R193). -/
abbrev R.TRZ_CTL_LRN_COG_EN : Fld := ⟨0x0F, 0, 0x0, 3, 1, 0x1⟩

/-- `TRZ_CHK` +0x004 [15:0] `REASON`, RO, reset 0x0 (R193). -/
abbrev R.TRZ_CHK_REASON : Fld := ⟨0x0F, 0, 0x4, 0, 16, 0x0⟩

/-- `TRZ_STAT` +0x008 [1:0] `STATE`, RO, reset 0x0 (R193). -/
abbrev R.TRZ_STAT_STATE : Fld := ⟨0x0F, 0, 0x8, 0, 2, 0x0⟩

/-- `TRZ_STAT` +0x008 [7:2] `LOOP`, RO, reset 0x0 (R193). -/
abbrev R.TRZ_STAT_LOOP : Fld := ⟨0x0F, 0, 0x8, 2, 6, 0x0⟩

/-- `TRZ_STAT` +0x008 [8] `BUSY`, RO, reset 0x0 (R193). -/
abbrev R.TRZ_STAT_BUSY : Fld := ⟨0x0F, 0, 0x8, 8, 1, 0x0⟩

/-- `TRZ_STAT` +0x008 [23:16] `UTIL`, RO, reset 0x0 (R193). -/
abbrev R.TRZ_STAT_UTIL : Fld := ⟨0x0F, 0, 0x8, 16, 8, 0x0⟩

/-- `TRZ_EVT` +0x00C [0] `MCHK`, W1C, reset 0x0 (R193). -/
abbrev R.TRZ_EVT_MCHK : Fld := ⟨0x0F, 0, 0xC, 0, 1, 0x0⟩

/-- `TRZ_EVT` +0x00C [1] `MISS`, W1C, reset 0x0 (R193). -/
abbrev R.TRZ_EVT_MISS : Fld := ⟨0x0F, 0, 0xC, 1, 1, 0x0⟩

/-- `TRZ_EVT` +0x00C [2] `FE`, W1C, reset 0x0 (R193). -/
abbrev R.TRZ_EVT_FE : Fld := ⟨0x0F, 0, 0xC, 2, 1, 0x0⟩

/-- `TRZ_EVT` +0x00C [3] `LOOP_FAULT`, W1C, reset 0x0 (R193). -/
abbrev R.TRZ_EVT_LOOP_FAULT : Fld := ⟨0x0F, 0, 0xC, 3, 1, 0x0⟩

/-- `TRZ_EVT` +0x00C [4] `SCRUB_FIX`, W1C, reset 0x0 (R193). -/
abbrev R.TRZ_EVT_SCRUB_FIX : Fld := ⟨0x0F, 0, 0xC, 4, 1, 0x0⟩

/-- `TRZ_EVT` +0x00C [5] `TBL_CLAMP`, W1C, reset 0x0 (R193). -/
abbrev R.TRZ_EVT_TBL_CLAMP : Fld := ⟨0x0F, 0, 0xC, 5, 1, 0x0⟩

/-- `TRZ_EVT` +0x00C [6] `CNT_SAT`, W1C, reset 0x0 (R193). -/
abbrev R.TRZ_EVT_CNT_SAT : Fld := ⟨0x0F, 0, 0xC, 6, 1, 0x0⟩

/-- `TRZ_MISS` +0x018 [31:0] `MISS`, W1C, reset 0x0 (R193). -/
abbrev R.TRZ_MISS_MISS (i : Nat) : Fld := ⟨0x0F, 0, 0x18 + 0x4 * i, 0, 32, 0x0⟩

/-- `TRZ_FE` +0x020 [31:0] `FE`, W1C, reset 0x0 (R193). -/
abbrev R.TRZ_FE_FE (i : Nat) : Fld := ⟨0x0F, 0, 0x20 + 0x4 * i, 0, 32, 0x0⟩

/-- `TRZ_MCK0` +0x028 [12:0] `ADDR`, RO, reset 0x0 (R193). -/
abbrev R.TRZ_MCK0_ADDR : Fld := ⟨0x0F, 0, 0x28, 0, 13, 0x0⟩

/-- `TRZ_MCK0` +0x028 [17:13] `SMASK`, RO, reset 0x0 (R193). -/
abbrev R.TRZ_MCK0_SMASK : Fld := ⟨0x0F, 0, 0x28, 13, 5, 0x0⟩

/-- `TRZ_MCK0` +0x028 [20:18] `CAUSE`, RO, reset 0x0 (R193). -/
abbrev R.TRZ_MCK0_CAUSE : Fld := ⟨0x0F, 0, 0x28, 18, 3, 0x0⟩

/-- `TRZ_MCK0` +0x028 [26:21] `LOOP`, RO, reset 0x0 (R193). -/
abbrev R.TRZ_MCK0_LOOP : Fld := ⟨0x0F, 0, 0x28, 21, 6, 0x0⟩

/-- `TRZ_LRN` +0x030 [3:0] `LRN_SH`, RW, reset 0x6 (R193). -/
abbrev R.TRZ_LRN_LRN_SH : Fld := ⟨0x0F, 0, 0x30, 0, 4, 0x6⟩

/-- `TRZ_LRN` +0x030 [15:8] `LRN_MAX`, RW, reset 0xA (R193). -/
abbrev R.TRZ_LRN_LRN_MAX : Fld := ⟨0x0F, 0, 0x30, 8, 8, 0xA⟩

/-- `TRZ_LRN` +0x030 [31:16] `DEV_MAX`, RW, reset 0x1F4 (R193). -/
abbrev R.TRZ_LRN_DEV_MAX : Fld := ⟨0x0F, 0, 0x30, 16, 16, 0x1F4⟩

/-- `TRZ_DIST` +0x034 [3:0] `DIST`, RO, reset 0x0 (R193). -/
abbrev R.TRZ_DIST_DIST : Fld := ⟨0x0F, 0, 0x34, 0, 4, 0x0⟩

/-- `TRZ_CS_ADDR` +0x080 [12:0] `ADDR`, RW, reset 0x0 (R193). -/
abbrev R.TRZ_CS_ADDR_ADDR : Fld := ⟨0x0F, 0, 0x80, 0, 13, 0x0⟩

/-- `TRZ_CS_S` +0x084 [31:0] `DATA`, RO, reset 0x0 (R193). -/
abbrev R.TRZ_CS_S_DATA (i : Nat) : Fld := ⟨0x0F, 0, 0x84 + 0x4 * i, 0, 32, 0x0⟩

/-- `TRZ_CS_PAR` +0x098 [4:0] `PAR`, RO, reset 0x0 (R193). -/
abbrev R.TRZ_CS_PAR_PAR : Fld := ⟨0x0F, 0, 0x98, 0, 5, 0x0⟩

/-- `CRL_CTL` +0x000 [0] `EN`, RW, reset 0x0 (R223). -/
abbrev R.CRL_CTL_EN : Fld := ⟨0x10, 0, 0x0, 0, 1, 0x0⟩

/-- `CRL_CTL` +0x000 [1] `REGEN_EN`, RW, reset 0x1 (R223). -/
abbrev R.CRL_CTL_REGEN_EN : Fld := ⟨0x10, 0, 0x0, 1, 1, 0x1⟩

/-- `CRL_CTL` +0x000 [2] `SP_OVR`, RW, reset 0x0 (R223). -/
abbrev R.CRL_CTL_SP_OVR : Fld := ⟨0x10, 0, 0x0, 2, 1, 0x0⟩

/-- `CRL_CTL` +0x000 [4:3] `SP_REQ`, RW, reset 0x0 (R223). -/
abbrev R.CRL_CTL_SP_REQ : Fld := ⟨0x10, 0, 0x0, 3, 2, 0x0⟩

/-- `CRL_CHK` +0x004 [15:0] `REASON`, RO, reset 0x0 (R223). -/
abbrev R.CRL_CHK_REASON : Fld := ⟨0x10, 0, 0x4, 0, 16, 0x0⟩

/-- `CRL_STAT` +0x008 [3:0] `STATE`, RO, reset 0x0 (R223). -/
abbrev R.CRL_STAT_STATE : Fld := ⟨0x10, 0, 0x8, 0, 4, 0x0⟩

/-- `CRL_STAT` +0x008 [5:4] `SRC`, RO, reset 0x0 (R223). -/
abbrev R.CRL_STAT_SRC : Fld := ⟨0x10, 0, 0x8, 4, 2, 0x0⟩

/-- `CRL_STAT` +0x008 [6] `MECH_VALID`, RO, reset 0x0 (R223). -/
abbrev R.CRL_STAT_MECH_VALID : Fld := ⟨0x10, 0, 0x8, 6, 1, 0x0⟩

/-- `CRL_STAT` +0x008 [7] `AT_SP`, RO, reset 0x0 (R223). -/
abbrev R.CRL_STAT_AT_SP : Fld := ⟨0x10, 0, 0x8, 7, 1, 0x0⟩

/-- `CRL_STAT` +0x008 [9:8] `SP`, RO, reset 0x0 (R223). -/
abbrev R.CRL_STAT_SP : Fld := ⟨0x10, 0, 0x8, 8, 2, 0x0⟩

/-- `CRL_STAT` +0x008 [12:10] `ATTEMPT`, RO, reset 0x0 (R223). -/
abbrev R.CRL_STAT_ATTEMPT : Fld := ⟨0x10, 0, 0x8, 10, 3, 0x0⟩

/-- `CRL_STAT` +0x008 [13] `REGEN_BLK`, RO, reset 0x0 (R223). -/
abbrev R.CRL_STAT_REGEN_BLK : Fld := ⟨0x10, 0, 0x8, 13, 1, 0x0⟩

/-- `CRL_STAT` +0x008 [14] `MEDIA_OK`, RO, reset 0x0 (R223). -/
abbrev R.CRL_STAT_MEDIA_OK : Fld := ⟨0x10, 0, 0x8, 14, 1, 0x0⟩

/-- `CRL_STAT` +0x008 [15] `RES_OK`, RO, reset 0x0 (R223). -/
abbrev R.CRL_STAT_RES_OK : Fld := ⟨0x10, 0, 0x8, 15, 1, 0x0⟩

/-- `CRL_STAT` +0x008 [16] `BEMF_OK`, RO, reset 0x0 (R223). -/
abbrev R.CRL_STAT_BEMF_OK : Fld := ⟨0x10, 0, 0x8, 16, 1, 0x0⟩

/-- `CRL_EVT` +0x00C [0] `SRC_SWITCH`, W1C, reset 0x0 (R223). -/
abbrev R.CRL_EVT_SRC_SWITCH : Fld := ⟨0x10, 0, 0xC, 0, 1, 0x0⟩

/-- `CRL_EVT` +0x00C [1] `SRC_LOSS_ALL`, W1C, reset 0x0 (R223). -/
abbrev R.CRL_EVT_SRC_LOSS_ALL : Fld := ⟨0x10, 0, 0xC, 1, 1, 0x0⟩

/-- `CRL_EVT` +0x00C [2] `START_RETRY`, W1C, reset 0x0 (R223). -/
abbrev R.CRL_EVT_START_RETRY : Fld := ⟨0x10, 0, 0xC, 2, 1, 0x0⟩

/-- `CRL_EVT` +0x00C [3] `START_FAIL`, W1C, reset 0x0 (R223). -/
abbrev R.CRL_EVT_START_FAIL : Fld := ⟨0x10, 0, 0xC, 3, 1, 0x0⟩

/-- `CRL_EVT` +0x00C [4] `CATCH_FAIL`, W1C, reset 0x0 (R223). -/
abbrev R.CRL_EVT_CATCH_FAIL : Fld := ⟨0x10, 0, 0xC, 4, 1, 0x0⟩

/-- `CRL_EVT` +0x00C [5] `CHOP_FAULT`, W1C, reset 0x0 (R223). -/
abbrev R.CRL_EVT_CHOP_FAULT : Fld := ⟨0x10, 0, 0xC, 5, 1, 0x0⟩

/-- `CRL_EVT` +0x00C [6] `OV_TRIP`, W1C, reset 0x0 (R223). -/
abbrev R.CRL_EVT_OV_TRIP : Fld := ⟨0x10, 0, 0xC, 6, 1, 0x0⟩

/-- `CRL_EVT` +0x00C [7] `ENC_SHIFT`, W1C, reset 0x0 (R223). -/
abbrev R.CRL_EVT_ENC_SHIFT : Fld := ⟨0x10, 0, 0xC, 7, 1, 0x0⟩

/-- `CRL_EVT` +0x00C [8] `SP_REACHED`, W1C, reset 0x0 (R223). -/
abbrev R.CRL_EVT_SP_REACHED : Fld := ⟨0x10, 0, 0xC, 8, 1, 0x0⟩

/-- `CRL_EVT` +0x00C [9] `CNT_SAT`, W1C, reset 0x0 (R223). -/
abbrev R.CRL_EVT_CNT_SAT : Fld := ⟨0x10, 0, 0xC, 9, 1, 0x0⟩

/-- `CRL_SPEED` +0x014 [31:0] `SPEED`, RO, reset 0x0 (R223). -/
abbrev R.CRL_SPEED_SPEED : Fld := ⟨0x10, 0, 0x14, 0, 32, 0x0⟩

/-- `CRL_ANGLE` +0x018 [15:0] `ELEC`, RO, reset 0x0 (R223). -/
abbrev R.CRL_ANGLE_ELEC : Fld := ⟨0x10, 0, 0x18, 0, 16, 0x0⟩

/-- `CRL_ANGLE` +0x018 [31:16] `MECH`, RO, reset 0x0 (R223). -/
abbrev R.CRL_ANGLE_MECH : Fld := ⟨0x10, 0, 0x18, 16, 16, 0x0⟩

/-- `CRL_RESID` +0x01C [7:0] `R_MEDIA`, RO, reset 0x0 (R223). -/
abbrev R.CRL_RESID_R_MEDIA : Fld := ⟨0x10, 0, 0x1C, 0, 8, 0x0⟩

/-- `CRL_RESID` +0x01C [15:8] `R_RES`, RO, reset 0x0 (R223). -/
abbrev R.CRL_RESID_R_RES : Fld := ⟨0x10, 0, 0x1C, 8, 8, 0x0⟩

/-- `CRL_RESID` +0x01C [23:16] `R_BEMF`, RO, reset 0x0 (R223). -/
abbrev R.CRL_RESID_R_BEMF : Fld := ⟨0x10, 0, 0x1C, 16, 8, 0x0⟩

/-- `CRL_PWM` +0x020 [4:0] `DEADTIME`, RW, reset 0x8 (R223). -/
abbrev R.CRL_PWM_DEADTIME : Fld := ⟨0x10, 0, 0x20, 0, 5, 0x8⟩

/-- `STM_CTL` +0x000 [0] `EN`, RW, reset 0x0 (R242). -/
abbrev R.STM_CTL_EN : Fld := ⟨0x11, 0, 0x0, 0, 1, 0x0⟩

/-- `STM_CTL` +0x000 [1] `RESUME`, WO, reset 0x0 (R242). -/
abbrev R.STM_CTL_RESUME : Fld := ⟨0x11, 0, 0x0, 1, 1, 0x0⟩

/-- `STM_CHK` +0x004 [15:0] `REASON`, RO, reset 0x0 (R242). -/
abbrev R.STM_CHK_REASON : Fld := ⟨0x11, 0, 0x4, 0, 16, 0x0⟩

/-- `STM_STAT` +0x008 [0] `GRANT`, RO, reset 0x0 (R242). -/
abbrev R.STM_STAT_GRANT : Fld := ⟨0x11, 0, 0x8, 0, 1, 0x0⟩

/-- `STM_STAT` +0x008 [1] `HB_OK`, RO, reset 0x0 (R242). -/
abbrev R.STM_STAT_HB_OK : Fld := ⟨0x11, 0, 0x8, 1, 1, 0x0⟩

/-- `STM_STAT` +0x008 [2] `AUTON`, RO, reset 0x0 (R242). -/
abbrev R.STM_STAT_AUTON : Fld := ⟨0x11, 0, 0x8, 2, 1, 0x0⟩

/-- `STM_STAT` +0x008 [6:3] `LATCH`, RO, reset 0x0 (R242). -/
abbrev R.STM_STAT_LATCH : Fld := ⟨0x11, 0, 0x8, 3, 4, 0x0⟩

/-- `STM_STAT` +0x008 [10:7] `RETRACT`, RO, reset 0x0 (R242). -/
abbrev R.STM_STAT_RETRACT : Fld := ⟨0x11, 0, 0x8, 7, 4, 0x0⟩

/-- `STM_STAT` +0x008 [11] `CHOP_ON`, RO, reset 0x0 (R242). -/
abbrev R.STM_STAT_CHOP_ON : Fld := ⟨0x11, 0, 0x8, 11, 1, 0x0⟩

/-- `STM_STAT` +0x008 [12] `CHOP_FLT`, RO, reset 0x0 (R242). -/
abbrev R.STM_STAT_CHOP_FLT : Fld := ⟨0x11, 0, 0x8, 12, 1, 0x0⟩

/-- `STM_STAT` +0x008 [13] `PF12`, RO, reset 0x0 (R242). -/
abbrev R.STM_STAT_PF12 : Fld := ⟨0x11, 0, 0x8, 13, 1, 0x0⟩

/-- `STM_STAT` +0x008 [14] `PF5`, RO, reset 0x0 (R242). -/
abbrev R.STM_STAT_PF5 : Fld := ⟨0x11, 0, 0x8, 14, 1, 0x0⟩

/-- `STM_STAT` +0x008 [15] `SM_ACTIVE`, RO, reset 0x0 (R242). -/
abbrev R.STM_STAT_SM_ACTIVE : Fld := ⟨0x11, 0, 0x8, 15, 1, 0x0⟩

/-- `STM_STAT` +0x008 [16] `NO_REGEN`, RO, reset 0x0 (R242). -/
abbrev R.STM_STAT_NO_REGEN : Fld := ⟨0x11, 0, 0x8, 16, 1, 0x0⟩

/-- `STM_STAT` +0x008 [20:17] `VCM_OFF`, RO, reset 0x0 (R242). -/
abbrev R.STM_STAT_VCM_OFF : Fld := ⟨0x11, 0, 0x8, 17, 4, 0x0⟩

/-- `STM_STAT` +0x008 [24:21] `MA_OFF`, W1C, reset 0x0 (R242). -/
abbrev R.STM_STAT_MA_OFF : Fld := ⟨0x11, 0, 0x8, 21, 4, 0x0⟩

/-- `STM_STAT` +0x008 [25] `SAG`, RO, reset 0x0 (R242). -/
abbrev R.STM_STAT_SAG : Fld := ⟨0x11, 0, 0x8, 25, 1, 0x0⟩

/-- `STM_EVT` +0x00C [0] `HB_LOSS`, W1C, reset 0x0 (R242). -/
abbrev R.STM_EVT_HB_LOSS : Fld := ⟨0x11, 0, 0xC, 0, 1, 0x0⟩

/-- `STM_EVT` +0x00C [1] `PF`, W1C, reset 0x0 (R242). -/
abbrev R.STM_EVT_PF : Fld := ⟨0x11, 0, 0xC, 1, 1, 0x0⟩

/-- `STM_EVT` +0x00C [2] `RET_DONE`, W1C, reset 0x0 (R242). -/
abbrev R.STM_EVT_RET_DONE : Fld := ⟨0x11, 0, 0xC, 2, 1, 0x0⟩

/-- `STM_EVT` +0x00C [3] `RET_TO_EVT`, W1C, reset 0x0 (R242). -/
abbrev R.STM_EVT_RET_TO_EVT : Fld := ⟨0x11, 0, 0xC, 3, 1, 0x0⟩

/-- `STM_EVT` +0x00C [4] `OC`, W1C, reset 0x0 (R242). -/
abbrev R.STM_EVT_OC : Fld := ⟨0x11, 0, 0xC, 4, 1, 0x0⟩

/-- `STM_EVT` +0x00C [5] `CHOP_FAULT`, W1C, reset 0x0 (R242). -/
abbrev R.STM_EVT_CHOP_FAULT : Fld := ⟨0x11, 0, 0xC, 5, 1, 0x0⟩

/-- `STM_EVT` +0x00C [6] `OV_TRIP`, W1C, reset 0x0 (R242). -/
abbrev R.STM_EVT_OV_TRIP : Fld := ⟨0x11, 0, 0xC, 6, 1, 0x0⟩

/-- `STM_EVT` +0x00C [7] `SM_TAKEOVER`, W1C, reset 0x0 (R242). -/
abbrev R.STM_EVT_SM_TAKEOVER : Fld := ⟨0x11, 0, 0xC, 7, 1, 0x0⟩

/-- `STM_EVT` +0x00C [8] `SUP_WARN`, W1C, reset 0x0 (R242). -/
abbrev R.STM_EVT_SUP_WARN : Fld := ⟨0x11, 0, 0xC, 8, 1, 0x0⟩

/-- `STM_EVT` +0x00C [9] `MEAS_DONE`, W1C, reset 0x0 (R242). -/
abbrev R.STM_EVT_MEAS_DONE : Fld := ⟨0x11, 0, 0xC, 9, 1, 0x0⟩

/-- `STM_EVT` +0x00C [10] `MEAS_OOR`, W1C, reset 0x0 (R242). -/
abbrev R.STM_EVT_MEAS_OOR : Fld := ⟨0x11, 0, 0xC, 10, 1, 0x0⟩

/-- `STM_EVT` +0x00C [11] `CNT_SAT`, W1C, reset 0x0 (R242). -/
abbrev R.STM_EVT_CNT_SAT : Fld := ⟨0x11, 0, 0xC, 11, 1, 0x0⟩

/-- `STM_VIN` +0x014 [15:0] `VIN12`, RO, reset 0x0 (R242). -/
abbrev R.STM_VIN_VIN12 : Fld := ⟨0x11, 0, 0x14, 0, 16, 0x0⟩

/-- `STM_VIN` +0x014 [31:16] `VIN5`, RO, reset 0x0 (R242). -/
abbrev R.STM_VIN_VIN5 : Fld := ⟨0x11, 0, 0x14, 16, 16, 0x0⟩

/-- `STM_PLOSS` +0x01C [0] `PL_VALID`, RO, reset 0x0 (R242). -/
abbrev R.STM_PLOSS_PL_VALID : Fld := ⟨0x11, 0, 0x1C, 0, 1, 0x0⟩

/-- `STM_PLOSS` +0x01C [2:1] `PL_CAUSE`, RO, reset 0x0 (R242). -/
abbrev R.STM_PLOSS_PL_CAUSE : Fld := ⟨0x11, 0, 0x1C, 1, 2, 0x0⟩

/-- `STM_PLOSS` +0x01C [6:3] `PL_PARKED`, RO, reset 0x0 (R242). -/
abbrev R.STM_PLOSS_PL_PARKED : Fld := ⟨0x11, 0, 0x1C, 3, 4, 0x0⟩

/-- `STM_PLOSS` +0x01C [10:7] `PL_TO`, RO, reset 0x0 (R242). -/
abbrev R.STM_PLOSS_PL_TO : Fld := ⟨0x11, 0, 0x1C, 7, 4, 0x0⟩

/-- `STM_PLOSS` +0x01C [31:16] `PL_SPEED`, RO, reset 0x0 (R242). -/
abbrev R.STM_PLOSS_PL_SPEED : Fld := ⟨0x11, 0, 0x1C, 16, 16, 0x0⟩

/-- `STM_MEAS` +0x020 [1:0] `KIND`, RW, reset 0x0 (R242). -/
abbrev R.STM_MEAS_KIND : Fld := ⟨0x11, 0, 0x20, 0, 2, 0x0⟩

/-- `STM_MEAS` +0x020 [3:2] `ACT`, RW, reset 0x0 (R242). -/
abbrev R.STM_MEAS_ACT : Fld := ⟨0x11, 0, 0x20, 2, 2, 0x0⟩

/-- `STM_MEAS` +0x020 [31] `GO`, WO, reset 0x0 (R242). -/
abbrev R.STM_MEAS_GO : Fld := ⟨0x11, 0, 0x20, 31, 1, 0x0⟩

/-- `STM_WIND` +0x024 [15:0] `R_SPN`, RO, reset 0x0 (R242). -/
abbrev R.STM_WIND_R_SPN : Fld := ⟨0x11, 0, 0x24, 0, 16, 0x0⟩

/-- `STM_WIND` +0x024 [31:16] `L_SPN`, RO, reset 0x0 (R242). -/
abbrev R.STM_WIND_L_SPN : Fld := ⟨0x11, 0, 0x24, 16, 16, 0x0⟩

/-- `STM_VCMR` +0x028 [15:0] `R_VCM`, RO, reset 0x0 (R242). -/
abbrev R.STM_VCMR_R_VCM (i : Nat) : Fld := ⟨0x11, 0, 0x28 + 0x4 * i, 0, 16, 0x0⟩

/-- `STM_VCMR` +0x028 [16] `VALID`, RO, reset 0x0 (R242). -/
abbrev R.STM_VCMR_VALID (i : Nat) : Fld := ⟨0x11, 0, 0x28 + 0x4 * i, 16, 1, 0x0⟩

/-- `MMG_CTL` +0x000 [0] `EN`, RW, reset 0x0 (R276). -/
abbrev R.MMG_CTL_EN : Fld := ⟨0x0B, 0, 0x0, 0, 1, 0x0⟩

/-- `MMG_CTL` +0x000 [1] `FMT_COMMIT`, RW, reset 0x0 (R276). -/
abbrev R.MMG_CTL_FMT_COMMIT : Fld := ⟨0x0B, 0, 0x0, 1, 1, 0x0⟩

/-- `MMG_CTL` +0x000 [2] `RECL_EN`, RW, reset 0x1 (R276). -/
abbrev R.MMG_CTL_RECL_EN : Fld := ⟨0x0B, 0, 0x0, 2, 1, 0x1⟩

/-- `MMG_CTL` +0x000 [3] `ALT_EN`, RW, reset 0x1 (R276). -/
abbrev R.MMG_CTL_ALT_EN : Fld := ⟨0x0B, 0, 0x0, 3, 1, 0x1⟩

/-- `MMG_CHK` +0x004 [15:0] `REASON`, RO, reset 0x0 (R276). -/
abbrev R.MMG_CHK_REASON : Fld := ⟨0x0B, 0, 0x4, 0, 16, 0x0⟩

/-- `MMG_STAT` +0x008 [3:0] `ACT_OK`, RO, reset 0x0 (R276). -/
abbrev R.MMG_STAT_ACT_OK : Fld := ⟨0x0B, 0, 0x8, 0, 4, 0x0⟩

/-- `MMG_STAT` +0x008 [7:4] `RECL_BUSY`, RO, reset 0x0 (R276). -/
abbrev R.MMG_STAT_RECL_BUSY : Fld := ⟨0x0B, 0, 0x8, 4, 4, 0x0⟩

/-- `MMG_STAT` +0x008 [11:8] `ALT_BUSY`, RO, reset 0x0 (R276). -/
abbrev R.MMG_STAT_ALT_BUSY : Fld := ⟨0x0B, 0, 0x8, 8, 4, 0x0⟩

/-- `MMG_STAT` +0x008 [12] `REPLAY`, RO, reset 0x0 (R276). -/
abbrev R.MMG_STAT_REPLAY : Fld := ⟨0x0B, 0, 0x8, 12, 1, 0x0⟩

/-- `MMG_STAT` +0x008 [13] `SPARE_LOW`, RO, reset 0x0 (R276). -/
abbrev R.MMG_STAT_SPARE_LOW : Fld := ⟨0x0B, 0, 0x8, 13, 1, 0x0⟩

/-- `MMG_EVT` +0x00C [0] `AT_RISK`, W1C, reset 0x0 (R276). -/
abbrev R.MMG_EVT_AT_RISK : Fld := ⟨0x0B, 0, 0xC, 0, 1, 0x0⟩

/-- `MMG_EVT` +0x00C [1] `OFFLINE`, W1C, reset 0x0 (R276). -/
abbrev R.MMG_EVT_OFFLINE : Fld := ⟨0x0B, 0, 0xC, 1, 1, 0x0⟩

/-- `MMG_EVT` +0x00C [2] `RECL_DONE`, W1C, reset 0x0 (R276). -/
abbrev R.MMG_EVT_RECL_DONE : Fld := ⟨0x0B, 0, 0xC, 2, 1, 0x0⟩

/-- `MMG_EVT` +0x00C [3] `RECL_FAIL`, W1C, reset 0x0 (R276). -/
abbrev R.MMG_EVT_RECL_FAIL : Fld := ⟨0x0B, 0, 0xC, 3, 1, 0x0⟩

/-- `MMG_EVT` +0x00C [4] `ALT_DONE`, W1C, reset 0x0 (R276). -/
abbrev R.MMG_EVT_ALT_DONE : Fld := ⟨0x0B, 0, 0xC, 4, 1, 0x0⟩

/-- `MMG_EVT` +0x00C [5] `SPARE_LOW`, W1C, reset 0x0 (R276). -/
abbrev R.MMG_EVT_SPARE_LOW : Fld := ⟨0x0B, 0, 0xC, 5, 1, 0x0⟩

/-- `MMG_EVT` +0x00C [6] `ACT_LOST`, W1C, reset 0x0 (R276). -/
abbrev R.MMG_EVT_ACT_LOST : Fld := ⟨0x0B, 0, 0xC, 6, 1, 0x0⟩

/-- `MMG_EVT` +0x00C [7] `JOURNAL_ERR`, W1C, reset 0x0 (R276). -/
abbrev R.MMG_EVT_JOURNAL_ERR : Fld := ⟨0x0B, 0, 0xC, 7, 1, 0x0⟩

/-- `MMG_EVT` +0x00C [8] `CNT_SAT`, W1C, reset 0x0 (R276). -/
abbrev R.MMG_EVT_CNT_SAT : Fld := ⟨0x0B, 0, 0xC, 8, 1, 0x0⟩

/-- `MMG_CFG` +0x014 [7:0] `RECL_SHARE`, RW, reset 0xF (R276). -/
abbrev R.MMG_CFG_RECL_SHARE : Fld := ⟨0x0B, 0, 0x14, 0, 8, 0xF⟩

/-- `MMG_CFG` +0x014 [23:8] `DUR_MS`, RW, reset 0x0 (R276). -/
abbrev R.MMG_CFG_DUR_MS : Fld := ⟨0x0B, 0, 0x14, 8, 16, 0x0⟩

/-- `MMG_CFG` +0x014 [31:24] `SPARE_THR`, RW, reset 0xA (R276). -/
abbrev R.MMG_CFG_SPARE_THR : Fld := ⟨0x0B, 0, 0x14, 24, 8, 0xA⟩

/-- `MMG_POOL` +0x020 [19:0] `FREE`, RO, reset 0x0 (R276). -/
abbrev R.MMG_POOL_FREE (i : Nat) : Fld := ⟨0x0B, 0, 0x20 + 0x4 * i, 0, 20, 0x0⟩

/-- `MMG_HELD` +0x030 [19:0] `HELD`, RO, reset 0x0 (R276). -/
abbrev R.MMG_HELD_HELD (i : Nat) : Fld := ⟨0x0B, 0, 0x30 + 0x4 * i, 0, 20, 0x0⟩

/-- `CMD_CTL` +0x000 [0] `EN`, RW, reset 0x0 (R306). -/
abbrev R.CMD_CTL_EN : Fld := ⟨0x02, 0, 0x0, 0, 1, 0x0⟩

/-- `CMD_CTL` +0x000 [1] `FETCH_HOLD`, RW, reset 0x0 (R306). -/
abbrev R.CMD_CTL_FETCH_HOLD : Fld := ⟨0x02, 0, 0x0, 1, 1, 0x0⟩

/-- `CMD_CHK` +0x004 [15:0] `REASON`, RO, reset 0x0 (R306). -/
abbrev R.CMD_CHK_REASON : Fld := ⟨0x02, 0, 0x4, 0, 16, 0x0⟩

/-- `CMD_STAT` +0x008 [8:0] `CTRLS`, RO, reset 0x0 (R306). -/
abbrev R.CMD_STAT_CTRLS : Fld := ⟨0x02, 0, 0x8, 0, 9, 0x0⟩

/-- `CMD_STAT` +0x008 [9] `PAUSED`, RO, reset 0x0 (R306). -/
abbrev R.CMD_STAT_PAUSED : Fld := ⟨0x02, 0, 0x8, 9, 1, 0x0⟩

/-- `CMD_STAT` +0x008 [14:10] `PAUSE_WHY`, RO, reset 0x0 (R306). -/
abbrev R.CMD_STAT_PAUSE_WHY : Fld := ⟨0x02, 0, 0x8, 10, 5, 0x0⟩

/-- `CMD_EVT` +0x00C [0] `TS_FULL`, W1C, reset 0x0 (R306). -/
abbrev R.CMD_EVT_TS_FULL : Fld := ⟨0x02, 0, 0xC, 0, 1, 0x0⟩

/-- `CMD_EVT` +0x00C [1] `INFL_FULL`, W1C, reset 0x0 (R306). -/
abbrev R.CMD_EVT_INFL_FULL : Fld := ⟨0x02, 0, 0xC, 1, 1, 0x0⟩

/-- `CMD_EVT` +0x00C [2] `KATO_EXP`, W1C, reset 0x0 (R306). -/
abbrev R.CMD_EVT_KATO_EXP : Fld := ⟨0x02, 0, 0xC, 2, 1, 0x0⟩

/-- `CMD_EVT` +0x00C [3] `AGE_PICK`, W1C, reset 0x0 (R306). -/
abbrev R.CMD_EVT_AGE_PICK : Fld := ⟨0x02, 0, 0xC, 3, 1, 0x0⟩

/-- `CMD_EVT` +0x00C [4] `CNT_SAT`, W1C, reset 0x0 (R306). -/
abbrev R.CMD_EVT_CNT_SAT : Fld := ⟨0x02, 0, 0xC, 4, 1, 0x0⟩

/-- `CMD_TS` +0x014 [14:0] `USED`, RO, reset 0x0 (R306). -/
abbrev R.CMD_TS_USED : Fld := ⟨0x02, 0, 0x14, 0, 15, 0x0⟩

/-- `CMD_TS` +0x014 [30:16] `HIWAT`, RO, reset 0x0 (R306). -/
abbrev R.CMD_TS_HIWAT : Fld := ⟨0x02, 0, 0x14, 16, 15, 0x0⟩

/-- `CMD_TS` +0x014 [31] `HIWAT_CLR`, WO, reset 0x0 (R306). -/
abbrev R.CMD_TS_HIWAT_CLR : Fld := ⟨0x02, 0, 0x14, 31, 1, 0x0⟩

/-- `CMD_INFL` +0x018 [17:0] `USED`, RO, reset 0x0 (R306). -/
abbrev R.CMD_INFL_USED : Fld := ⟨0x02, 0, 0x18, 0, 18, 0x0⟩

/-- `CMD_JUG` +0x01C [15:0] `AGE_MS`, RW, reset 0x7D0 (R306). -/
abbrev R.CMD_JUG_AGE_MS : Fld := ⟨0x02, 0, 0x1C, 0, 16, 0x7D0⟩

/-- `CMD_JUG` +0x01C [23:16] `SEEK_MARGIN`, RW, reset 0x4 (R306). -/
abbrev R.CMD_JUG_SEEK_MARGIN : Fld := ⟨0x02, 0, 0x1C, 16, 8, 0x4⟩

/-- `CMD_JQ` +0x020 [11:0] `DEPTH`, RO, reset 0x0 (R306). -/
abbrev R.CMD_JQ_DEPTH (i : Nat) : Fld := ⟨0x02, 0, 0x20 + 0x4 * i, 0, 12, 0x0⟩

/-- `CMD_JQ` +0x020 [12] `HELD`, RO, reset 0x0 (R306). -/
abbrev R.CMD_JQ_HELD (i : Nat) : Fld := ⟨0x02, 0, 0x20 + 0x4 * i, 12, 1, 0x0⟩

/-- `CMD_JQ` +0x020 [15:13] `WHY`, RO, reset 0x0 (R306). -/
abbrev R.CMD_JQ_WHY (i : Nat) : Fld := ⟨0x02, 0, 0x20 + 0x4 * i, 13, 3, 0x0⟩

/-- `FAB_CTL` +0x000 [0] `EN`, RW, reset 0x0 (R321). -/
abbrev R.FAB_CTL_EN : Fld := ⟨0x01, 0, 0x0, 0, 1, 0x0⟩

/-- `FAB_CTL` +0x000 [2:1] `PORT_DIS`, RW, reset 0x0 (R321). -/
abbrev R.FAB_CTL_PORT_DIS : Fld := ⟨0x01, 0, 0x0, 1, 2, 0x0⟩

/-- `FAB_CHK` +0x004 [15:0] `REASON`, RO, reset 0x0 (R321). -/
abbrev R.FAB_CHK_REASON : Fld := ⟨0x01, 0, 0x4, 0, 16, 0x0⟩

/-- `FAB_STAT` +0x008 [1:0] `LINK`, RO, reset 0x0 (R321). -/
abbrev R.FAB_STAT_LINK : Fld := ⟨0x01, 0, 0x8, 0, 2, 0x0⟩

/-- `FAB_STAT` +0x008 [3:2] `AN_FAIL`, RO, reset 0x0 (R321). -/
abbrev R.FAB_STAT_AN_FAIL : Fld := ⟨0x01, 0, 0x8, 2, 2, 0x0⟩

/-- `FAB_STAT` +0x008 [5:4] `TAKEN`, RO, reset 0x0 (R321). -/
abbrev R.FAB_STAT_TAKEN : Fld := ⟨0x01, 0, 0x8, 4, 2, 0x0⟩

/-- `FAB_STAT` +0x008 [7:6] `MODE`, RO, reset 0x0 (R321). -/
abbrev R.FAB_STAT_MODE : Fld := ⟨0x01, 0, 0x8, 6, 2, 0x0⟩

/-- `FAB_STAT` +0x008 [11:8] `FEC`, RO, reset 0x0 (R321). -/
abbrev R.FAB_STAT_FEC : Fld := ⟨0x01, 0, 0x8, 8, 4, 0x0⟩

/-- `FAB_STAT` +0x008 [12] `LISTEN`, RO, reset 0x0 (R321). -/
abbrev R.FAB_STAT_LISTEN : Fld := ⟨0x01, 0, 0x8, 12, 1, 0x0⟩

/-- `FAB_STAT` +0x008 [13] `PFC_MISMATCH`, RO, reset 0x0 (R321). -/
abbrev R.FAB_STAT_PFC_MISMATCH : Fld := ⟨0x01, 0, 0x8, 13, 1, 0x0⟩

/-- `FAB_EVT` +0x00C [0] `LINK_UP`, W1C, reset 0x0 (R321). -/
abbrev R.FAB_EVT_LINK_UP : Fld := ⟨0x01, 0, 0xC, 0, 1, 0x0⟩

/-- `FAB_EVT` +0x00C [1] `LINK_DOWN`, W1C, reset 0x0 (R321). -/
abbrev R.FAB_EVT_LINK_DOWN : Fld := ⟨0x01, 0, 0xC, 1, 1, 0x0⟩

/-- `FAB_EVT` +0x00C [2] `FAILOVER`, W1C, reset 0x0 (R321). -/
abbrev R.FAB_EVT_FAILOVER : Fld := ⟨0x01, 0, 0xC, 2, 1, 0x0⟩

/-- `FAB_EVT` +0x00C [3] `FAILBACK`, W1C, reset 0x0 (R321). -/
abbrev R.FAB_EVT_FAILBACK : Fld := ⟨0x01, 0, 0xC, 3, 1, 0x0⟩

/-- `FAB_EVT` +0x00C [4] `LOSS_HIGH`, W1C, reset 0x0 (R321). -/
abbrev R.FAB_EVT_LOSS_HIGH : Fld := ⟨0x01, 0, 0xC, 4, 1, 0x0⟩

/-- `FAB_EVT` +0x00C [5] `WAKE`, W1C, reset 0x0 (R321). -/
abbrev R.FAB_EVT_WAKE : Fld := ⟨0x01, 0, 0xC, 5, 1, 0x0⟩

/-- `FAB_EVT` +0x00C [6] `ADDR_CONFLICT`, W1C, reset 0x0 (R321). -/
abbrev R.FAB_EVT_ADDR_CONFLICT : Fld := ⟨0x01, 0, 0xC, 6, 1, 0x0⟩

/-- `FAB_EVT` +0x00C [7] `CNT_SAT`, W1C, reset 0x0 (R321). -/
abbrev R.FAB_EVT_CNT_SAT : Fld := ⟨0x01, 0, 0xC, 7, 1, 0x0⟩

/-- `FAB_LANE` +0x020 [9:0] `LOSS`, RO, reset 0x0 (R321). -/
abbrev R.FAB_LANE_LOSS (i : Nat) : Fld := ⟨0x01, 0, 0x20 + 0x4 * i, 0, 10, 0x0⟩

/-- `FAB_LANE` +0x020 [21:10] `REACH`, RO, reset 0x0 (R321). -/
abbrev R.FAB_LANE_REACH (i : Nat) : Fld := ⟨0x01, 0, 0x20 + 0x4 * i, 10, 12, 0x0⟩

/-- `FAB_LANE` +0x020 [22] `VALID`, RO, reset 0x0 (R321). -/
abbrev R.FAB_LANE_VALID (i : Nat) : Fld := ⟨0x01, 0, 0x20 + 0x4 * i, 22, 1, 0x0⟩

/-- `TRU_CTL` +0x000 [0] `EN`, RW, reset 0x0 (R348). -/
abbrev R.TRU_CTL_EN : Fld := ⟨0x06, 0, 0x0, 0, 1, 0x0⟩

/-- `TRU_CHK` +0x004 [15:0] `REASON`, RO, reset 0x0 (R348). -/
abbrev R.TRU_CHK_REASON : Fld := ⟨0x06, 0, 0x4, 0, 16, 0x0⟩

/-- `TRU_STAT` +0x008 [7:0] `PROG_RUN`, RO, reset 0x0 (R348). -/
abbrev R.TRU_STAT_PROG_RUN : Fld := ⟨0x06, 0, 0x8, 0, 8, 0x0⟩

/-- `TRU_STAT` +0x008 [15:8] `IDX_PCT`, RO, reset 0x0 (R348). -/
abbrev R.TRU_STAT_IDX_PCT : Fld := ⟨0x06, 0, 0x8, 8, 8, 0x0⟩

/-- `TRU_EVT` +0x00C [0] `ABORT`, W1C, reset 0x0 (R348). -/
abbrev R.TRU_EVT_ABORT : Fld := ⟨0x06, 0, 0xC, 0, 1, 0x0⟩

/-- `TRU_EVT` +0x00C [1] `ICRC`, W1C, reset 0x0 (R348). -/
abbrev R.TRU_EVT_ICRC : Fld := ⟨0x06, 0, 0xC, 1, 1, 0x0⟩

/-- `TRU_EVT` +0x00C [2] `IDX_90`, W1C, reset 0x0 (R348). -/
abbrev R.TRU_EVT_IDX_90 : Fld := ⟨0x06, 0, 0xC, 2, 1, 0x0⟩

/-- `TRU_EVT` +0x00C [3] `CNT_SAT`, W1C, reset 0x0 (R348). -/
abbrev R.TRU_EVT_CNT_SAT : Fld := ⟨0x06, 0, 0xC, 3, 1, 0x0⟩

/-- `PWK_CTL` +0x000 [0] `ACT`, RW, reset 0x0 (R348). -/
abbrev R.PWK_CTL_ACT : Fld := ⟨0x07, 0, 0x0, 0, 1, 0x0⟩

/-- `PWK_CHK` +0x004 [15:0] `REASON`, RO, reset 0x0 (R348). -/
abbrev R.PWK_CHK_REASON : Fld := ⟨0x07, 0, 0x4, 0, 16, 0x0⟩

/-- `PWK_STAT` +0x008 [5:0] `MEMBERS`, RO, reset 0x0 (R348). -/
abbrev R.PWK_STAT_MEMBERS : Fld := ⟨0x07, 0, 0x8, 0, 6, 0x0⟩

/-- `PWK_STAT` +0x008 [6] `LEADER`, RO, reset 0x0 (R348). -/
abbrev R.PWK_STAT_LEADER : Fld := ⟨0x07, 0, 0x8, 6, 1, 0x0⟩

/-- `PWK_STAT` +0x008 [7] `THIN`, RO, reset 0x0 (R348). -/
abbrev R.PWK_STAT_THIN : Fld := ⟨0x07, 0, 0x8, 7, 1, 0x0⟩

/-- `PWK_STAT` +0x008 [8] `PROPOSING`, RO, reset 0x0 (R348). -/
abbrev R.PWK_STAT_PROPOSING : Fld := ⟨0x07, 0, 0x8, 8, 1, 0x0⟩

/-- `PWK_EVT` +0x00C [0] `EPOCH`, W1C, reset 0x0 (R348). -/
abbrev R.PWK_EVT_EPOCH : Fld := ⟨0x07, 0, 0xC, 0, 1, 0x0⟩

/-- `PWK_EVT` +0x00C [1] `LOST`, W1C, reset 0x0 (R348). -/
abbrev R.PWK_EVT_LOST : Fld := ⟨0x07, 0, 0xC, 1, 1, 0x0⟩

/-- `PWK_EVT` +0x00C [2] `JOINED`, W1C, reset 0x0 (R348). -/
abbrev R.PWK_EVT_JOINED : Fld := ⟨0x07, 0, 0xC, 2, 1, 0x0⟩

/-- `PWK_EVT` +0x00C [3] `UNAVAIL`, W1C, reset 0x0 (R348). -/
abbrev R.PWK_EVT_UNAVAIL : Fld := ⟨0x07, 0, 0xC, 3, 1, 0x0⟩

/-- `PWK_EVT` +0x00C [4] `RB_DONE`, W1C, reset 0x0 (R348). -/
abbrev R.PWK_EVT_RB_DONE : Fld := ⟨0x07, 0, 0xC, 4, 1, 0x0⟩

/-- `PWK_EVT` +0x00C [5] `AUTH_FAIL`, W1C, reset 0x0 (R348). -/
abbrev R.PWK_EVT_AUTH_FAIL : Fld := ⟨0x07, 0, 0xC, 5, 1, 0x0⟩

/-- `PWK_EVT` +0x00C [6] `CNT_SAT`, W1C, reset 0x0 (R348). -/
abbrev R.PWK_EVT_CNT_SAT : Fld := ⟨0x07, 0, 0xC, 6, 1, 0x0⟩

/-- `PWK_EPOCH` +0x014 [31:0] `EPOCH`, RO, reset 0x0 (R348). -/
abbrev R.PWK_EPOCH_EPOCH : Fld := ⟨0x07, 0, 0x14, 0, 32, 0x0⟩

/-- `PWK_DEGR` +0x018 [31:0] `DEGR`, RO, reset 0x0 (R348). -/
abbrev R.PWK_DEGR_DEGR : Fld := ⟨0x07, 0, 0x18, 0, 32, 0x0⟩

/-- `PWK_UNAV` +0x01C [31:0] `UNAV`, RO, reset 0x0 (R348). -/
abbrev R.PWK_UNAV_UNAV : Fld := ⟨0x07, 0, 0x1C, 0, 32, 0x0⟩

/-- `CLOAK_STAT` +0x008 [10:0] `KEYS`, RO, reset 0x0 (R348). -/
abbrev R.CLOAK_STAT_KEYS : Fld := ⟨0x08, 0, 0x8, 0, 11, 0x0⟩

/-- `TKB_STAT` +0x008 [5:0] `HOST_MB`, RO, reset 0x0 (R370). -/
abbrev R.TKB_STAT_HOST_MB : Fld := ⟨0x03, 0, 0x8, 0, 6, 0x0⟩

/-- `TKB_MB` +0x100 [4:0] `OUTST`, RO, reset 0x0 (R370). -/
abbrev R.TKB_MB_OUTST (i : Nat) : Fld := ⟨0x03, 0, 0x100 + 0x4 * i, 0, 5, 0x0⟩

/-- `TKB_MB` +0x100 [9:5] `READY`, RO, reset 0x0 (R370). -/
abbrev R.TKB_MB_READY (i : Nat) : Fld := ⟨0x03, 0, 0x100 + 0x4 * i, 5, 5, 0x0⟩

/-- `TKB_MB` +0x100 [11:10] `OWNER`, RO, reset 0x0 (R370). -/
abbrev R.TKB_MB_OWNER (i : Nat) : Fld := ⟨0x03, 0, 0x100 + 0x4 * i, 10, 2, 0x0⟩

/-- `TKB_MB` +0x100 [12] `DRAIN`, RO, reset 0x0 (R370). -/
abbrev R.TKB_MB_DRAIN (i : Nat) : Fld := ⟨0x03, 0, 0x100 + 0x4 * i, 12, 1, 0x0⟩

/-- `TKB_MB` +0x100 [31:16] `ID`, RO, reset 0x0 (R370). -/
abbrev R.TKB_MB_ID (i : Nat) : Fld := ⟨0x03, 0, 0x100 + 0x4 * i, 16, 16, 0x0⟩

/-- `CLP_SRC` +0x1000 [5:0] `AGENT`, RW, reset 0x0 (R371). -/
abbrev R.CLP_SRC_AGENT (i : Nat) : Fld := ⟨0x04, 0, 0x1000 + 0x4 * i, 0, 6, 0x0⟩

/-- `CLP_SRC` +0x1000 [13:8] `BIT`, RW, reset 0x8 (R371). -/
abbrev R.CLP_SRC_BIT (i : Nat) : Fld := ⟨0x04, 0, 0x1000 + 0x4 * i, 8, 6, 0x8⟩

/-- `CLP_SRC` +0x1000 [16] `EN`, RW, reset 0x0 (R371). -/
abbrev R.CLP_SRC_EN (i : Nat) : Fld := ⟨0x04, 0, 0x1000 + 0x4 * i, 16, 1, 0x0⟩

/-- `CLP_SRC` +0x1000 [17] `LEVEL`, RO, reset 0x0 (R371). -/
abbrev R.CLP_SRC_LEVEL (i : Nat) : Fld := ⟨0x04, 0, 0x1000 + 0x4 * i, 17, 1, 0x0⟩

/-- `CLP_SRC` +0x1000 [18] `MERGED`, W1C, reset 0x0 (R371). -/
abbrev R.CLP_SRC_MERGED (i : Nat) : Fld := ⟨0x04, 0, 0x1000 + 0x4 * i, 18, 1, 0x0⟩

/-- `CLP_PEND_LO` +0x4000 [31:0] `PEND`, RO, reset 0x0 (R371). -/
abbrev R.CLP_PEND_LO_PEND (i : Nat) : Fld := ⟨0x04, 0, 0x4000 + 0x20 * i, 0, 32, 0x0⟩

/-- `CLP_PEND_HI` +0x4004 [31:0] `PEND`, RO, reset 0x0 (R371). -/
abbrev R.CLP_PEND_HI_PEND (i : Nat) : Fld := ⟨0x04, 0, 0x4004 + 0x20 * i, 0, 32, 0x0⟩

/-- `CLP_ACT_LO` +0x4008 [31:0] `ACT`, RO, reset 0x0 (R371). -/
abbrev R.CLP_ACT_LO_ACT (i : Nat) : Fld := ⟨0x04, 0, 0x4008 + 0x20 * i, 0, 32, 0x0⟩

/-- `CLP_ACT_HI` +0x400C [31:0] `ACT`, RO, reset 0x0 (R371). -/
abbrev R.CLP_ACT_HI_ACT (i : Nat) : Fld := ⟨0x04, 0, 0x400C + 0x20 * i, 0, 32, 0x0⟩

/-- `CLP_CLAIM_LO` +0x4010 [31:0] `CLAIM`, WO, reset 0x0 (R371). -/
abbrev R.CLP_CLAIM_LO_CLAIM (i : Nat) : Fld := ⟨0x04, 0, 0x4010 + 0x20 * i, 0, 32, 0x0⟩

/-- `CLP_CLAIM_HI` +0x4014 [31:0] `CLAIM`, WO, reset 0x0 (R371). -/
abbrev R.CLP_CLAIM_HI_CLAIM (i : Nat) : Fld := ⟨0x04, 0, 0x4014 + 0x20 * i, 0, 32, 0x0⟩

/-- `CLP_DONE_LO` +0x4018 [31:0] `DONE`, WO, reset 0x0 (R371). -/
abbrev R.CLP_DONE_LO_DONE (i : Nat) : Fld := ⟨0x04, 0, 0x4018 + 0x20 * i, 0, 32, 0x0⟩

/-- `CLP_DONE_HI` +0x401C [31:0] `DONE`, WO, reset 0x0 (R371). -/
abbrev R.CLP_DONE_HI_DONE (i : Nat) : Fld := ⟨0x04, 0, 0x401C + 0x20 * i, 0, 32, 0x0⟩

/-- `HBM_CTL` +0x000 [1:0] `RATE`, RW, reset 0x1 (R404). -/
abbrev R.HBM_CTL_RATE (a : Nat) : Fld := ⟨0x09, a, 0x0, 0, 2, 0x1⟩

/-- `HBM_CTL` +0x000 [2] `SCRUB_EN`, RW, reset 0x1 (R404). -/
abbrev R.HBM_CTL_SCRUB_EN (a : Nat) : Fld := ⟨0x09, a, 0x0, 2, 1, 0x1⟩

/-- `HBM_STAT` +0x008 [0] `TRAINED`, RO, reset 0x0 (R404). -/
abbrev R.HBM_STAT_TRAINED (a : Nat) : Fld := ⟨0x09, a, 0x8, 0, 1, 0x0⟩

/-- `HBM_STAT` +0x008 [1] `SREF`, RO, reset 0x0 (R404). -/
abbrev R.HBM_STAT_SREF (a : Nat) : Fld := ⟨0x09, a, 0x8, 1, 1, 0x0⟩

/-- `HBM_STAT` +0x008 [2] `OFF`, RO, reset 0x0 (R404). -/
abbrev R.HBM_STAT_OFF (a : Nat) : Fld := ⟨0x09, a, 0x8, 2, 1, 0x0⟩

/-- `HBM_STAT` +0x008 [4:3] `RATE_EFF`, RO, reset 0x0 (R404). -/
abbrev R.HBM_STAT_RATE_EFF (a : Nat) : Fld := ⟨0x09, a, 0x8, 3, 2, 0x0⟩

/-- `HBM_EVT` +0x00C [0] `CE`, W1C, reset 0x0 (R404). -/
abbrev R.HBM_EVT_CE (a : Nat) : Fld := ⟨0x09, a, 0xC, 0, 1, 0x0⟩

/-- `HBM_EVT` +0x00C [1] `UE`, W1C, reset 0x0 (R404). -/
abbrev R.HBM_EVT_UE (a : Nat) : Fld := ⟨0x09, a, 0xC, 1, 1, 0x0⟩

/-- `HBM_EVT` +0x00C [2] `TRAIN_FAIL`, W1C, reset 0x0 (R404). -/
abbrev R.HBM_EVT_TRAIN_FAIL (a : Nat) : Fld := ⟨0x09, a, 0xC, 2, 1, 0x0⟩

/-- `HBM_EVT` +0x00C [3] `SCRUB_DONE`, W1C, reset 0x0 (R404). -/
abbrev R.HBM_EVT_SCRUB_DONE (a : Nat) : Fld := ⟨0x09, a, 0xC, 3, 1, 0x0⟩

/-- `HBM_EVT` +0x00C [4] `RATE_CHG`, W1C, reset 0x0 (R404). -/
abbrev R.HBM_EVT_RATE_CHG (a : Nat) : Fld := ⟨0x09, a, 0xC, 4, 1, 0x0⟩

/-- `HBM_EVT` +0x00C [5] `CNT_SAT`, W1C, reset 0x0 (R404). -/
abbrev R.HBM_EVT_CNT_SAT (a : Nat) : Fld := ⟨0x09, a, 0xC, 5, 1, 0x0⟩

/-- `HBM_SCRUB` +0x014 [7:0] `PERIOD_H`, RW, reset 0x18 (R404). -/
abbrev R.HBM_SCRUB_PERIOD_H (a : Nat) : Fld := ⟨0x09, a, 0x14, 0, 8, 0x18⟩

/-- `HBM_UE_ADDR` +0x018 [28:0] `BLOCK`, RO, reset 0x0 (R404). -/
abbrev R.HBM_UE_ADDR_BLOCK (a : Nat) : Fld := ⟨0x09, a, 0x18, 0, 29, 0x0⟩

/-- `HBM_UE_ADDR` +0x018 [31:29] `PART`, RO, reset 0x0 (R404). -/
abbrev R.HBM_UE_ADDR_PART (a : Nat) : Fld := ⟨0x09, a, 0x18, 29, 3, 0x0⟩

/-- `PKT_CTL` +0x000 [0] `EN`, RW, reset 0x0 (R405). -/
abbrev R.PKT_CTL_EN : Fld := ⟨0x0A, 0, 0x0, 0, 1, 0x0⟩

/-- `PKT_CHK` +0x004 [15:0] `REASON`, RO, reset 0x0 (R405). -/
abbrev R.PKT_CHK_REASON : Fld := ⟨0x0A, 0, 0x4, 0, 16, 0x0⟩

/-- `PKT_STAT` +0x008 [0] `BUSY`, RO, reset 0x0 (R405). -/
abbrev R.PKT_STAT_BUSY : Fld := ⟨0x0A, 0, 0x8, 0, 1, 0x0⟩

/-- `PKT_STAT` +0x008 [1] `RNG_BUSY`, RO, reset 0x0 (R405). -/
abbrev R.PKT_STAT_RNG_BUSY : Fld := ⟨0x0A, 0, 0x8, 1, 1, 0x0⟩

/-- `PKT_EVT` +0x00C [0] `CLEAN_DONE`, W1C, reset 0x0 (R405). -/
abbrev R.PKT_EVT_CLEAN_DONE : Fld := ⟨0x0A, 0, 0xC, 0, 1, 0x0⟩

/-- `PKT_EVT` +0x00C [1] `RNG_DONE`, W1C, reset 0x0 (R405). -/
abbrev R.PKT_EVT_RNG_DONE : Fld := ⟨0x0A, 0, 0xC, 1, 1, 0x0⟩

/-- `PKT_EVT` +0x00C [2] `RNG_REFUSED`, W1C, reset 0x0 (R405). -/
abbrev R.PKT_EVT_RNG_REFUSED : Fld := ⟨0x0A, 0, 0xC, 2, 1, 0x0⟩

/-- `PKT_EVT` +0x00C [3] `CE`, W1C, reset 0x0 (R405). -/
abbrev R.PKT_EVT_CE : Fld := ⟨0x0A, 0, 0xC, 3, 1, 0x0⟩

/-- `PKT_EVT` +0x00C [4] `UE`, W1C, reset 0x0 (R405). -/
abbrev R.PKT_EVT_UE : Fld := ⟨0x0A, 0, 0xC, 4, 1, 0x0⟩

/-- `PKT_EVT` +0x00C [5] `CNT_SAT`, W1C, reset 0x0 (R405). -/
abbrev R.PKT_EVT_CNT_SAT : Fld := ⟨0x0A, 0, 0xC, 5, 1, 0x0⟩

/-- `PKT_LFSR` +0x014 [31:0] `LFSR`, RW, reset 0x1 (R405). -/
abbrev R.PKT_LFSR_LFSR : Fld := ⟨0x0A, 0, 0x14, 0, 32, 0x1⟩

/-- `PKT_DIRTY` +0x018 [19:0] `DIRTY`, RO, reset 0x0 (R405). -/
abbrev R.PKT_DIRTY_DIRTY : Fld := ⟨0x0A, 0, 0x18, 0, 20, 0x0⟩

/-- `PKT_RNG_BASE` +0x020 [27:0] `LINE`, RW, reset 0x0 (R405). -/
abbrev R.PKT_RNG_BASE_LINE : Fld := ⟨0x0A, 0, 0x20, 0, 28, 0x0⟩

/-- `PKT_RNG_LEN` +0x024 [28:0] `LINES`, RW, reset 0x0 (R405). -/
abbrev R.PKT_RNG_LEN_LINES : Fld := ⟨0x0A, 0, 0x24, 0, 29, 0x0⟩

/-- `PKT_RNG_CMD` +0x028 [1:0] `OP`, RW, reset 0x0 (R405). -/
abbrev R.PKT_RNG_CMD_OP : Fld := ⟨0x0A, 0, 0x28, 0, 2, 0x0⟩

/-- `PKT_RNG_CMD` +0x028 [31] `GO`, WO, reset 0x0 (R405). -/
abbrev R.PKT_RNG_CMD_GO : Fld := ⟨0x0A, 0, 0x28, 31, 1, 0x0⟩

/-- `PKT_CLS` +0x100 [15:0] `WAYS`, RW, reset 0xFFFF (R405). -/
abbrev R.PKT_CLS_WAYS (i : Nat) : Fld := ⟨0x0A, 0, 0x100 + 0x4 * i, 0, 16, 0xFFFF⟩

/-- `PKT_CLS` +0x100 [16] `NOALLOC`, RW, reset 0x0 (R405). -/
abbrev R.PKT_CLS_NOALLOC (i : Nat) : Fld := ⟨0x0A, 0, 0x100 + 0x4 * i, 16, 1, 0x0⟩

/-- `WDB_CTL` +0x000 [0] `AUTO_SUSP`, RW, reset 0x1 (R425). -/
abbrev R.WDB_CTL_AUTO_SUSP : Fld := ⟨0x14, 0, 0x0, 0, 1, 0x1⟩

/-- `WDB_CTL` +0x000 [4:1] `HOLD`, RW, reset 0x0 (R425). -/
abbrev R.WDB_CTL_HOLD : Fld := ⟨0x14, 0, 0x0, 1, 4, 0x0⟩

/-- `WDB_STAT` +0x008 [3:0] `BUSY`, RO, reset 0x0 (R425). -/
abbrev R.WDB_STAT_BUSY : Fld := ⟨0x14, 0, 0x8, 0, 4, 0x0⟩

/-- `WDB_STAT` +0x008 [7:4] `SUSP`, RO, reset 0x0 (R425). -/
abbrev R.WDB_STAT_SUSP : Fld := ⟨0x14, 0, 0x8, 4, 4, 0x0⟩

/-- `WDB_STAT` +0x008 [8] `SUSP_HIT`, W1C, reset 0x0 (R425). -/
abbrev R.WDB_STAT_SUSP_HIT : Fld := ⟨0x14, 0, 0x8, 8, 1, 0x0⟩

/-- `WDB_EVT` +0x00C [0] `SUSP_HIT`, W1C, reset 0x0 (R425). -/
abbrev R.WDB_EVT_SUSP_HIT : Fld := ⟨0x14, 0, 0xC, 0, 1, 0x0⟩

/-- `WDB_EVT` +0x00C [1] `PROG_FAIL`, W1C, reset 0x0 (R425). -/
abbrev R.WDB_EVT_PROG_FAIL : Fld := ⟨0x14, 0, 0xC, 1, 1, 0x0⟩

/-- `WDB_EVT` +0x00C [2] `ERASE_FAIL`, W1C, reset 0x0 (R425). -/
abbrev R.WDB_EVT_ERASE_FAIL : Fld := ⟨0x14, 0, 0xC, 2, 1, 0x0⟩

/-- `WDB_EVT` +0x00C [3] `REFUSED`, W1C, reset 0x0 (R425). -/
abbrev R.WDB_EVT_REFUSED : Fld := ⟨0x14, 0, 0xC, 3, 1, 0x0⟩

/-- `WDB_EVT` +0x00C [4] `ABANDON`, W1C, reset 0x0 (R425). -/
abbrev R.WDB_EVT_ABANDON : Fld := ⟨0x14, 0, 0xC, 4, 1, 0x0⟩

/-- `WDB_EVT` +0x00C [5] `CNT_SAT`, W1C, reset 0x0 (R425). -/
abbrev R.WDB_EVT_CNT_SAT : Fld := ⟨0x14, 0, 0xC, 5, 1, 0x0⟩

/-- `WDB_CFG` +0x014 [9:0] `MIN_RUN_US`, RW, reset 0x64 (R425). -/
abbrev R.WDB_CFG_MIN_RUN_US : Fld := ⟨0x14, 0, 0x14, 0, 10, 0x64⟩

/-- `WDB_BANK` +0x020 [1:0] `OP`, RO, reset 0x0 (R425). -/
abbrev R.WDB_BANK_OP (i : Nat) : Fld := ⟨0x14, 0, 0x20 + 0x4 * i, 0, 2, 0x0⟩

/-- `WDB_BANK` +0x020 [2] `SUSPENDED`, RO, reset 0x0 (R425). -/
abbrev R.WDB_BANK_SUSPENDED (i : Nat) : Fld := ⟨0x14, 0, 0x20 + 0x4 * i, 2, 1, 0x0⟩

/-- `WDB_BANK` +0x020 [12:3] `BLOCK`, RO, reset 0x0 (R425). -/
abbrev R.WDB_BANK_BLOCK (i : Nat) : Fld := ⟨0x14, 0, 0x20 + 0x4 * i, 3, 10, 0x0⟩

/-- `WDB_BANK` +0x020 [31:16] `SUSP_CNT`, RO, reset 0x0 (R425). -/
abbrev R.WDB_BANK_SUSP_CNT (i : Nat) : Fld := ⟨0x14, 0, 0x20 + 0x4 * i, 16, 16, 0x0⟩

/-- `SNT_CTL` +0x000 [0] `EN`, RW, reset 0x0 (R426). -/
abbrev R.SNT_CTL_EN : Fld := ⟨0x15, 0, 0x0, 0, 1, 0x0⟩

/-- `SNT_CHK` +0x004 [15:0] `REASON`, RO, reset 0x0 (R426). -/
abbrev R.SNT_CHK_REASON : Fld := ⟨0x15, 0, 0x4, 0, 16, 0x0⟩

/-- `SNT_STAT` +0x008 [1:0] `STAGE`, RO, reset 0x0 (R426). -/
abbrev R.SNT_STAT_STAGE : Fld := ⟨0x15, 0, 0x8, 0, 2, 0x0⟩

/-- `SNT_STAT` +0x008 [31:16] `REMAIN`, RO, reset 0x0 (R426). -/
abbrev R.SNT_STAT_REMAIN : Fld := ⟨0x15, 0, 0x8, 16, 16, 0x0⟩

/-- `SNT_EVT` +0x00C [0] `STAGE1`, W1C, reset 0x0 (R426). -/
abbrev R.SNT_EVT_STAGE1 : Fld := ⟨0x15, 0, 0xC, 0, 1, 0x0⟩

/-- `SNT_EVT` +0x00C [1] `LAST_RESET`, W1C, reset 0x0 (R426). -/
abbrev R.SNT_EVT_LAST_RESET : Fld := ⟨0x15, 0, 0xC, 1, 1, 0x0⟩

/-- `SNT_EVT` +0x00C [2] `BAD_KICK`, W1C, reset 0x0 (R426). -/
abbrev R.SNT_EVT_BAD_KICK : Fld := ⟨0x15, 0, 0xC, 2, 1, 0x0⟩

/-- `SNT_EVT` +0x00C [3] `CNT_SAT`, W1C, reset 0x0 (R426). -/
abbrev R.SNT_EVT_CNT_SAT : Fld := ⟨0x15, 0, 0xC, 3, 1, 0x0⟩

/-- `SNT_CFG` +0x014 [9:0] `T1`, RW, reset 0x64 (R426). -/
abbrev R.SNT_CFG_T1 : Fld := ⟨0x15, 0, 0x14, 0, 10, 0x64⟩

/-- `SNT_KICK` +0x018 [15:0] `KEY`, WO, reset 0x0 (R426). -/
abbrev R.SNT_KICK_KEY : Fld := ⟨0x15, 0, 0x18, 0, 16, 0x0⟩

/-- `CVN_CFG` +0x000 [15:0] `IDLE_MS`, RW, reset 0x64 (R445). -/
abbrev R.CVN_CFG_IDLE_MS : Fld := ⟨0x16, 0, 0x0, 0, 16, 0x64⟩

/-- `CVN_CFG` +0x000 [23:16] `WAKE_HOLD_S`, RW, reset 0x3C (R445). -/
abbrev R.CVN_CFG_WAKE_HOLD_S : Fld := ⟨0x16, 0, 0x0, 16, 8, 0x3C⟩

/-- `CVN_DEMAND` +0x004 [31:0] `DEMAND_US`, RW, reset 0x4C4B40 (R445). -/
abbrev R.CVN_DEMAND_DEMAND_US : Fld := ⟨0x16, 0, 0x4, 0, 32, 0x4C4B40⟩

/-- `CVN_STAT` +0x008 [2:0] `PS`, RO, reset 0x0 (R445). -/
abbrev R.CVN_STAT_PS : Fld := ⟨0x16, 0, 0x8, 0, 3, 0x0⟩

/-- `CVN_STAT` +0x008 [5:3] `PS_TGT`, RO, reset 0x0 (R445). -/
abbrev R.CVN_STAT_PS_TGT : Fld := ⟨0x16, 0, 0x8, 3, 3, 0x0⟩

/-- `CVN_STAT` +0x008 [6] `BUD_MISS`, RO, reset 0x0 (R445). -/
abbrev R.CVN_STAT_BUD_MISS : Fld := ⟨0x16, 0, 0x8, 6, 1, 0x0⟩

/-- `CVN_STAT` +0x008 [7] `DEMAND`, RO, reset 0x0 (R445). -/
abbrev R.CVN_STAT_DEMAND : Fld := ⟨0x16, 0, 0x8, 7, 1, 0x0⟩

/-- `CVN_STAT` +0x008 [13:8] `PWR_EN`, RO, reset 0x0 (R445). -/
abbrev R.CVN_STAT_PWR_EN : Fld := ⟨0x16, 0, 0x8, 8, 6, 0x0⟩

/-- `CVN_STAT` +0x008 [14] `TRIAL_STARTED`, RO, reset 0x0 (R445). -/
abbrev R.CVN_STAT_TRIAL_STARTED : Fld := ⟨0x16, 0, 0x8, 14, 1, 0x0⟩

/-- `CVN_STAT` +0x008 [15] `XTAL_FAIL`, RO, reset 0x0 (R445). -/
abbrev R.CVN_STAT_XTAL_FAIL : Fld := ⟨0x16, 0, 0x8, 15, 1, 0x0⟩

/-- `CVN_STAT` +0x008 [16] `OPSEC_SAT`, RO, reset 0x0 (R445). -/
abbrev R.CVN_STAT_OPSEC_SAT : Fld := ⟨0x16, 0, 0x8, 16, 1, 0x0⟩

/-- `CVN_STAT` +0x008 [17] `PCYC_SAT`, RO, reset 0x0 (R445). -/
abbrev R.CVN_STAT_PCYC_SAT : Fld := ⟨0x16, 0, 0x8, 17, 1, 0x0⟩

/-- `CVN_STAT` +0x008 [20:18] `WAKE_CAUSE`, RO, reset 0x0 (R445). -/
abbrev R.CVN_STAT_WAKE_CAUSE : Fld := ⟨0x16, 0, 0x8, 18, 3, 0x0⟩

/-- `CVN_EVT` +0x00C [0] `PS_CHG`, W1C, reset 0x0 (R445). -/
abbrev R.CVN_EVT_PS_CHG : Fld := ⟨0x16, 0, 0xC, 0, 1, 0x0⟩

/-- `CVN_EVT` +0x00C [1] `BUD_CHG`, W1C, reset 0x0 (R445). -/
abbrev R.CVN_EVT_BUD_CHG : Fld := ⟨0x16, 0, 0xC, 1, 1, 0x0⟩

/-- `CVN_EVT` +0x00C [2] `BUD_MISS`, W1C, reset 0x0 (R445). -/
abbrev R.CVN_EVT_BUD_MISS : Fld := ⟨0x16, 0, 0xC, 2, 1, 0x0⟩

/-- `CVN_EVT` +0x00C [3] `WAKE`, W1C, reset 0x0 (R445). -/
abbrev R.CVN_EVT_WAKE : Fld := ⟨0x16, 0, 0xC, 3, 1, 0x0⟩

/-- `CVN_EVT` +0x00C [4] `XTAL_FAIL`, W1C, reset 0x0 (R445). -/
abbrev R.CVN_EVT_XTAL_FAIL : Fld := ⟨0x16, 0, 0xC, 4, 1, 0x0⟩

/-- `CVN_EVT` +0x00C [5] `CNT_SAT`, W1C, reset 0x0 (R445). -/
abbrev R.CVN_EVT_CNT_SAT : Fld := ⟨0x16, 0, 0xC, 5, 1, 0x0⟩

/-- `CVN_BUD_DEV` +0x014 [31:0] `DEV_US`, RO, reset 0x0 (R445). -/
abbrev R.CVN_BUD_DEV_DEV_US : Fld := ⟨0x16, 0, 0x14, 0, 32, 0x0⟩

/-- `CVN_BUD_EFF` +0x018 [31:0] `EFF_US`, RO, reset 0x0 (R445). -/
abbrev R.CVN_BUD_EFF_EFF_US : Fld := ⟨0x16, 0, 0x18, 0, 32, 0x0⟩

/-- `CVN_BUD_PRES` +0x01C [31:0] `PRES_US`, RO, reset 0x0 (R445). -/
abbrev R.CVN_BUD_PRES_PRES_US : Fld := ⟨0x16, 0, 0x1C, 0, 32, 0x0⟩

/-- `CVN_OPSEC` +0x020 [31:0] `SECONDS`, RO, reset 0x0 (R445). -/
abbrev R.CVN_OPSEC_SECONDS : Fld := ⟨0x16, 0, 0x20, 0, 32, 0x0⟩

/-- `CVN_PCYC` +0x024 [31:0] `CYCLES`, RO, reset 0x0 (R445). -/
abbrev R.CVN_PCYC_CYCLES : Fld := ⟨0x16, 0, 0x24, 0, 32, 0x0⟩

/-- `PSL_CTL` +0x000 [0] `XCHK_EN`, RW, reset 0x1 (R446). -/
abbrev R.PSL_CTL_XCHK_EN : Fld := ⟨0x17, 0, 0x0, 0, 1, 0x1⟩

/-- `PSL_STAT` +0x008 [9:0] `LEVEL`, RO, reset 0x0 (R446). -/
abbrev R.PSL_STAT_LEVEL : Fld := ⟨0x17, 0, 0x8, 0, 10, 0x0⟩

/-- `PSL_STAT` +0x008 [14:10] `SUSPECT`, RO, reset 0x0 (R446). -/
abbrev R.PSL_STAT_SUSPECT : Fld := ⟨0x17, 0, 0x8, 10, 5, 0x0⟩

/-- `PSL_STAT` +0x008 [19:16] `STEP_CTL`, RO, reset 0x0 (R446). -/
abbrev R.PSL_STAT_STEP_CTL : Fld := ⟨0x17, 0, 0x8, 16, 4, 0x0⟩

/-- `PSL_STAT` +0x008 [22:20] `STEP_STM`, RO, reset 0x0 (R446). -/
abbrev R.PSL_STAT_STEP_STM : Fld := ⟨0x17, 0, 0x8, 20, 3, 0x0⟩

/-- `PSL_STAT` +0x008 [23] `FDEFER`, RO, reset 0x0 (R446). -/
abbrev R.PSL_STAT_FDEFER : Fld := ⟨0x17, 0, 0x8, 23, 1, 0x0⟩

/-- `PSL_STAT` +0x008 [25:24] `STEP_HBM`, RO, reset 0x0 (R446). -/
abbrev R.PSL_STAT_STEP_HBM : Fld := ⟨0x17, 0, 0x8, 24, 2, 0x0⟩

/-- `PSL_EVT` +0x00C [0] `WARN`, W1C, reset 0x0 (R446). -/
abbrev R.PSL_EVT_WARN : Fld := ⟨0x17, 0, 0xC, 0, 1, 0x0⟩

/-- `PSL_EVT` +0x00C [1] `THROTTLE`, W1C, reset 0x0 (R446). -/
abbrev R.PSL_EVT_THROTTLE : Fld := ⟨0x17, 0, 0xC, 1, 1, 0x0⟩

/-- `PSL_EVT` +0x00C [2] `SHUTDOWN`, W1C, reset 0x0 (R446). -/
abbrev R.PSL_EVT_SHUTDOWN : Fld := ⟨0x17, 0, 0xC, 2, 1, 0x0⟩

/-- `PSL_EVT` +0x00C [3] `SUSPECT`, W1C, reset 0x0 (R446). -/
abbrev R.PSL_EVT_SUSPECT : Fld := ⟨0x17, 0, 0xC, 3, 1, 0x0⟩

/-- `PSL_EVT` +0x00C [4] `RELEASE`, W1C, reset 0x0 (R446). -/
abbrev R.PSL_EVT_RELEASE : Fld := ⟨0x17, 0, 0xC, 4, 1, 0x0⟩

/-- `PSL_EVT` +0x00C [5] `CNT_SAT`, W1C, reset 0x0 (R446). -/
abbrev R.PSL_EVT_CNT_SAT : Fld := ⟨0x17, 0, 0xC, 5, 1, 0x0⟩

/-- `PSL_EXT` +0x018 [15:0] `SPN_LIM`, RO, reset 0xFFFF (R446). -/
abbrev R.PSL_EXT_SPN_LIM : Fld := ⟨0x17, 0, 0x18, 0, 16, 0xFFFF⟩

/-- `PSL_EXT` +0x018 [31:16] `VCM_LIM`, RO, reset 0xFFFF (R446). -/
abbrev R.PSL_EXT_VCM_LIM : Fld := ⟨0x17, 0, 0x18, 16, 16, 0xFFFF⟩

/-- `PSL_TEMP` +0x020 [15:0] `RAW`, RO, reset 0x0 (R446). -/
abbrev R.PSL_TEMP_RAW (i : Nat) : Fld := ⟨0x17, 0, 0x20 + 0x4 * i, 0, 16, 0x0⟩

/-- `PSL_TEMP` +0x020 [31:16] `USED`, RO, reset 0x0 (R446). -/
abbrev R.PSL_TEMP_USED (i : Nat) : Fld := ⟨0x17, 0, 0x20 + 0x4 * i, 16, 16, 0x0⟩

/-- `TLR_CTL` +0x000 [0] `AGE_EN`, RW, reset 0x1 (R465). -/
abbrev R.TLR_CTL_AGE_EN : Fld := ⟨0x18, 0, 0x0, 0, 1, 0x1⟩

/-- `TLR_CTL` +0x000 [1] `PLAN_EN`, RW, reset 0x1 (R465). -/
abbrev R.TLR_CTL_PLAN_EN : Fld := ⟨0x18, 0, 0x0, 1, 1, 0x1⟩

/-- `TLR_CTL` +0x000 [31] `TRACE`, WO, reset 0x0 (R465). -/
abbrev R.TLR_CTL_TRACE : Fld := ⟨0x18, 0, 0x0, 31, 1, 0x0⟩

/-- `TLR_STAT` +0x008 [0] `TRACING`, RO, reset 0x0 (R465). -/
abbrev R.TLR_STAT_TRACING : Fld := ⟨0x18, 0, 0x8, 0, 1, 0x0⟩

/-- `TLR_STAT` +0x008 [1] `MEASURING`, RO, reset 0x0 (R465). -/
abbrev R.TLR_STAT_MEASURING : Fld := ⟨0x18, 0, 0x8, 1, 1, 0x0⟩

/-- `TLR_STAT` +0x008 [4:2] `VREF_BAD`, RO, reset 0x0 (R465). -/
abbrev R.TLR_STAT_VREF_BAD : Fld := ⟨0x18, 0, 0x8, 2, 3, 0x0⟩

/-- `TLR_STAT` +0x008 [5] `EOL`, RO, reset 0x0 (R465). -/
abbrev R.TLR_STAT_EOL : Fld := ⟨0x18, 0, 0x8, 5, 1, 0x0⟩

/-- `TLR_STAT` +0x008 [31:6] `DEGRADED`, RO, reset 0x0 (R465). -/
abbrev R.TLR_STAT_DEGRADED : Fld := ⟨0x18, 0, 0x8, 6, 26, 0x0⟩

/-- `TLR_EVT` +0x00C [0] `SPARE_USED`, W1C, reset 0x0 (R465). -/
abbrev R.TLR_EVT_SPARE_USED : Fld := ⟨0x18, 0, 0xC, 0, 1, 0x0⟩

/-- `TLR_EVT` +0x00C [1] `TRACE_FAIL`, W1C, reset 0x0 (R465). -/
abbrev R.TLR_EVT_TRACE_FAIL : Fld := ⟨0x18, 0, 0xC, 1, 1, 0x0⟩

/-- `TLR_EVT` +0x00C [2] `REPLAN`, W1C, reset 0x0 (R465). -/
abbrev R.TLR_EVT_REPLAN : Fld := ⟨0x18, 0, 0xC, 2, 1, 0x0⟩

/-- `TLR_EVT` +0x00C [3] `DRIFT`, W1C, reset 0x0 (R465). -/
abbrev R.TLR_EVT_DRIFT : Fld := ⟨0x18, 0, 0xC, 3, 1, 0x0⟩

/-- `TLR_EVT` +0x00C [4] `CNT_SAT`, W1C, reset 0x0 (R465). -/
abbrev R.TLR_EVT_CNT_SAT : Fld := ⟨0x18, 0, 0xC, 4, 1, 0x0⟩

/-- `TLR_STATION` +0x020 [31:0] `ID`, RW, reset 0x0 (R465). -/
abbrev R.TLR_STATION_ID (i : Nat) : Fld := ⟨0x18, 0, 0x20 + 0x4 * i, 0, 32, 0x0⟩

/-- `PBL_STAT` +0x008 [0] `OPEN`, RO, reset 0x0 (R480). -/
abbrev R.PBL_STAT_OPEN : Fld := ⟨0x19, 0, 0x8, 0, 1, 0x0⟩

/-- `PBL_STAT` +0x008 [7:1] `BUFD`, RO, reset 0x0 (R480). -/
abbrev R.PBL_STAT_BUFD : Fld := ⟨0x19, 0, 0x8, 1, 7, 0x0⟩

/-- `PBL_STAT` +0x008 [8] `CLEARING`, RO, reset 0x0 (R480). -/
abbrev R.PBL_STAT_CLEARING : Fld := ⟨0x19, 0, 0x8, 8, 1, 0x0⟩

/-- `PBL_STAT` +0x008 [9] `FLASH_WAIT`, RO, reset 0x0 (R480). -/
abbrev R.PBL_STAT_FLASH_WAIT : Fld := ⟨0x19, 0, 0x8, 9, 1, 0x0⟩

/-- `PBL_EVT` +0x00C [0] `OVERFLOW`, W1C, reset 0x0 (R480). -/
abbrev R.PBL_EVT_OVERFLOW : Fld := ⟨0x19, 0, 0xC, 0, 1, 0x0⟩

/-- `PBL_EVT` +0x00C [1] `SLOT_BAD`, W1C, reset 0x0 (R480). -/
abbrev R.PBL_EVT_SLOT_BAD : Fld := ⟨0x19, 0, 0xC, 1, 1, 0x0⟩

/-- `PBL_EVT` +0x00C [2] `CLEARED`, W1C, reset 0x0 (R480). -/
abbrev R.PBL_EVT_CLEARED : Fld := ⟨0x19, 0, 0xC, 2, 1, 0x0⟩

/-- `PBL_EVT` +0x00C [3] `REP_SAT`, W1C, reset 0x0 (R480). -/
abbrev R.PBL_EVT_REP_SAT : Fld := ⟨0x19, 0, 0xC, 3, 1, 0x0⟩

/-- `PBL_EVT` +0x00C [4] `CNT_SAT`, W1C, reset 0x0 (R480). -/
abbrev R.PBL_EVT_CNT_SAT : Fld := ⟨0x19, 0, 0xC, 4, 1, 0x0⟩

/-- `PBL_NEWEST` +0x014 [31:0] `SEQ`, RO, reset 0x0 (R480). -/
abbrev R.PBL_NEWEST_SEQ : Fld := ⟨0x19, 0, 0x14, 0, 32, 0x0⟩

/-- `PBL_OLDEST` +0x018 [31:0] `SEQ`, RO, reset 0x0 (R480). -/
abbrev R.PBL_OLDEST_SEQ : Fld := ⟨0x19, 0, 0x18, 0, 32, 0x0⟩

/-- `PBL_HELD` +0x01C [18:0] `COUNT`, RO, reset 0x0 (R480). -/
abbrev R.PBL_HELD_COUNT : Fld := ⟨0x19, 0, 0x1C, 0, 19, 0x0⟩

/-- `PBL_CFG` +0x020 [5:0] `CLOSE_S`, RW, reset 0xA (R480). -/
abbrev R.PBL_CFG_CLOSE_S : Fld := ⟨0x19, 0, 0x20, 0, 6, 0xA⟩

/-- `RMC_STAT` +0x008 [3:0] `STEP`, RO, reset 0x0 (R496). -/
abbrev R.RMC_STAT_STEP : Fld := ⟨0x05, 0, 0x8, 0, 4, 0x0⟩

/-- `RMC_STAT` +0x008 [4] `IO_READY`, RO, reset 0x0 (R496). -/
abbrev R.RMC_STAT_IO_READY : Fld := ⟨0x05, 0, 0x8, 4, 1, 0x0⟩

/-- `RMC_STAT` +0x008 [7:5] `PERM`, RO, reset 0x0 (R496). -/
abbrev R.RMC_STAT_PERM : Fld := ⟨0x05, 0, 0x8, 5, 3, 0x0⟩

/-- `RMC_STAT` +0x008 [11:8] `ACT_OUT`, RO, reset 0x0 (R496). -/
abbrev R.RMC_STAT_ACT_OUT : Fld := ⟨0x05, 0, 0x8, 8, 4, 0x0⟩

/-- `RMC_EVT` +0x00C [0] `IO_READY`, W1C, reset 0x0 (R496). -/
abbrev R.RMC_EVT_IO_READY : Fld := ⟨0x05, 0, 0xC, 0, 1, 0x0⟩

/-- `RMC_EVT` +0x00C [1] `SAG_ABORT`, W1C, reset 0x0 (R496). -/
abbrev R.RMC_EVT_SAG_ABORT : Fld := ⟨0x05, 0, 0xC, 1, 1, 0x0⟩

/-- `RMC_EVT` +0x00C [2] `START_LATE`, W1C, reset 0x0 (R496). -/
abbrev R.RMC_EVT_START_LATE : Fld := ⟨0x05, 0, 0xC, 2, 1, 0x0⟩

/-- `RMC_EVT` +0x00C [3] `CNT_SAT`, W1C, reset 0x0 (R496). -/
abbrev R.RMC_EVT_CNT_SAT : Fld := ⟨0x05, 0, 0xC, 3, 1, 0x0⟩

/-- `RMC_CAUSE` +0x014 [2:0] `SRC`, RO, reset 0x0 (R496). -/
abbrev R.RMC_CAUSE_SRC : Fld := ⟨0x05, 0, 0x14, 0, 3, 0x0⟩

/-- `RMC_ACHK_LO` +0x018 [15:0] `ACT0`, RO, reset 0x0 (R496). -/
abbrev R.RMC_ACHK_LO_ACT0 : Fld := ⟨0x05, 0, 0x18, 0, 16, 0x0⟩

/-- `RMC_ACHK_LO` +0x018 [31:16] `ACT1`, RO, reset 0x0 (R496). -/
abbrev R.RMC_ACHK_LO_ACT1 : Fld := ⟨0x05, 0, 0x18, 16, 16, 0x0⟩

/-- `RMC_ACHK_HI` +0x01C [15:0] `ACT2`, RO, reset 0x0 (R496). -/
abbrev R.RMC_ACHK_HI_ACT2 : Fld := ⟨0x05, 0, 0x1C, 0, 16, 0x0⟩

/-- `RMC_ACHK_HI` +0x01C [31:16] `ACT3`, RO, reset 0x0 (R496). -/
abbrev R.RMC_ACHK_HI_ACT3 : Fld := ⟨0x05, 0, 0x1C, 16, 16, 0x0⟩

/-- `RMC_T` +0x080 [31:0] `MS`, RO, reset 0x0 (R496). -/
abbrev R.RMC_T_MS (i : Nat) : Fld := ⟨0x05, 0, 0x80 + 0x4 * i, 0, 32, 0x0⟩

/-- `SDS_CTL` +0x000 [0] `GO`, WO, reset 0x0 (R505). -/
abbrev R.SDS_CTL_GO : Fld := ⟨0x1A, 0, 0x0, 0, 1, 0x0⟩

/-- `SDS_CTL` +0x000 [1] `ACK`, WO, reset 0x0 (R505). -/
abbrev R.SDS_CTL_ACK : Fld := ⟨0x1A, 0, 0x0, 1, 1, 0x0⟩

/-- `SDS_CTL` +0x000 [2] `ATTN_EN`, RW, reset 0x1 (R505). -/
abbrev R.SDS_CTL_ATTN_EN : Fld := ⟨0x1A, 0, 0x0, 2, 1, 0x1⟩

/-- `SDS_STAT` +0x008 [1:0] `STATE`, RO, reset 0x0 (R505). -/
abbrev R.SDS_STAT_STATE : Fld := ⟨0x1A, 0, 0x8, 0, 2, 0x0⟩

/-- `SDS_STAT` +0x008 [2] `PEND`, RO, reset 0x0 (R505). -/
abbrev R.SDS_STAT_PEND : Fld := ⟨0x1A, 0, 0x8, 2, 1, 0x0⟩

/-- `SDS_STAT` +0x008 [31:16] `ACC_STATUS`, RO, reset 0x0 (R505). -/
abbrev R.SDS_STAT_ACC_STATUS : Fld := ⟨0x1A, 0, 0x8, 16, 16, 0x0⟩

/-- `SDS_EVT` +0x00C [0] `PROTO`, W1C, reset 0x0 (R505). -/
abbrev R.SDS_EVT_PROTO : Fld := ⟨0x1A, 0, 0xC, 0, 1, 0x0⟩

/-- `SDS_EVT` +0x00C [1] `CNT_SAT`, W1C, reset 0x0 (R505). -/
abbrev R.SDS_EVT_CNT_SAT : Fld := ⟨0x1A, 0, 0xC, 1, 1, 0x0⟩

/-- `SDS_ID` +0x014 [15:0] `DEV`, RO, reset 0x9700 (R505). -/
abbrev R.SDS_ID_DEV : Fld := ⟨0x1A, 0, 0x14, 0, 16, 0x9700⟩

/-- `SDS_ID` +0x014 [23:16] `LEVEL`, RO, reset 0x1 (R505). -/
abbrev R.SDS_ID_LEVEL : Fld := ⟨0x1A, 0, 0x14, 16, 8, 0x1⟩

/-- `SDS_ID` +0x014 [24] `ROM`, RO, reset 0x1 (R505). -/
abbrev R.SDS_ID_ROM : Fld := ⟨0x1A, 0, 0x14, 24, 1, 0x1⟩

/-- `SDS_LEN` +0x018 [16:0] `LEN`, RW, reset 0x0 (R505). -/
abbrev R.SDS_LEN_LEN : Fld := ⟨0x1A, 0, 0x18, 0, 17, 0x0⟩

/-- `SDS_RLEN` +0x01C [16:0] `RLEN`, RO, reset 0x0 (R505). -/
abbrev R.SDS_RLEN_RLEN : Fld := ⟨0x1A, 0, 0x1C, 0, 17, 0x0⟩

/-- `SDS_PEND_LO` +0x020 [31:0] `PEND`, RO, reset 0x0 (R505). -/
abbrev R.SDS_PEND_LO_PEND : Fld := ⟨0x1A, 0, 0x20, 0, 32, 0x0⟩

/-- `SDS_PEND_HI` +0x024 [31:0] `PEND`, RO, reset 0x0 (R505). -/
abbrev R.SDS_PEND_HI_PEND : Fld := ⟨0x1A, 0, 0x24, 0, 32, 0x0⟩

/-- `SDS_CLAIM_LO` +0x028 [31:0] `CLAIM`, WO, reset 0x0 (R505). -/
abbrev R.SDS_CLAIM_LO_CLAIM : Fld := ⟨0x1A, 0, 0x28, 0, 32, 0x0⟩

/-- `SDS_CLAIM_HI` +0x02C [31:0] `CLAIM`, WO, reset 0x0 (R505). -/
abbrev R.SDS_CLAIM_HI_CLAIM : Fld := ⟨0x1A, 0, 0x2C, 0, 32, 0x0⟩

/-- `SDS_DONE_LO` +0x030 [31:0] `DONE`, WO, reset 0x0 (R505). -/
abbrev R.SDS_DONE_LO_DONE : Fld := ⟨0x1A, 0, 0x30, 0, 32, 0x0⟩

/-- `SDS_DONE_HI` +0x034 [31:0] `DONE`, WO, reset 0x0 (R505). -/
abbrev R.SDS_DONE_HI_DONE : Fld := ⟨0x1A, 0, 0x34, 0, 32, 0x0⟩

/-- `CHN_CTL` +0x000 [0] `EN`, RW, reset 0x0 (R90). -/
abbrev R.CHN_CTL_EN (a : Nat) : Fld := ⟨0x0C, a, 0x0, 0, 1, 0x0⟩

/-- `CHN_CTL` +0x000 [1] `RD_ABORT`, WO, reset 0x0 (R90). -/
abbrev R.CHN_CTL_RD_ABORT (a : Nat) : Fld := ⟨0x0C, a, 0x0, 1, 1, 0x0⟩

/-- `CHN_CTL` +0x000 [3:2] `READER_SEL`, RW, reset 0x0 (R90). -/
abbrev R.CHN_CTL_READER_SEL (a : Nat) : Fld := ⟨0x0C, a, 0x0, 2, 2, 0x0⟩

/-- `CHN_CTL` +0x000 [4] `LMS_EN`, RW, reset 0x1 (R90). -/
abbrev R.CHN_CTL_LMS_EN (a : Nat) : Fld := ⟨0x0C, a, 0x0, 4, 1, 0x1⟩

/-- `CHN_CTL` +0x000 [5] `DD_EN`, RW, reset 0x1 (R90). -/
abbrev R.CHN_CTL_DD_EN (a : Nat) : Fld := ⟨0x0C, a, 0x0, 5, 1, 0x1⟩

/-- `CHN_CHK` +0x004 [15:0] `REASON`, RO, reset 0x0 (R90). -/
abbrev R.CHN_CHK_REASON (a : Nat) : Fld := ⟨0x0C, a, 0x4, 0, 16, 0x0⟩

/-- `CHN_STAT` +0x008 [0] `ACTIVE`, RO, reset 0x0 (R90). -/
abbrev R.CHN_STAT_ACTIVE (a : Nat) : Fld := ⟨0x0C, a, 0x8, 0, 1, 0x0⟩

/-- `CHN_STAT` +0x008 [1] `LOCK`, RO, reset 0x0 (R90). -/
abbrev R.CHN_STAT_LOCK (a : Nat) : Fld := ⟨0x0C, a, 0x8, 1, 1, 0x0⟩

/-- `CHN_STAT` +0x008 [4:2] `RUNG`, RO, reset 0x0 (R90). -/
abbrev R.CHN_STAT_RUNG (a : Nat) : Fld := ⟨0x0C, a, 0x8, 2, 3, 0x0⟩

/-- `CHN_STAT` +0x008 [5] `REPLAY_BUSY`, RO, reset 0x0 (R90). -/
abbrev R.CHN_STAT_REPLAY_BUSY (a : Nat) : Fld := ⟨0x0C, a, 0x8, 5, 1, 0x0⟩

/-- `CHN_EVT` +0x00C [0] `SM1_MISS`, W1C, reset 0x0 (R90). -/
abbrev R.CHN_EVT_SM1_MISS (a : Nat) : Fld := ⟨0x0C, a, 0xC, 0, 1, 0x0⟩

/-- `CHN_EVT` +0x00C [1] `SM2_REFRAME`, W1C, reset 0x0 (R90). -/
abbrev R.CHN_EVT_SM2_REFRAME (a : Nat) : Fld := ⟨0x0C, a, 0xC, 1, 1, 0x0⟩

/-- `CHN_EVT` +0x00C [2] `SYNC_FAIL`, W1C, reset 0x0 (R90). -/
abbrev R.CHN_EVT_SYNC_FAIL (a : Nat) : Fld := ⟨0x0C, a, 0xC, 2, 1, 0x0⟩

/-- `CHN_EVT` +0x00C [3] `ACQ_FAIL`, W1C, reset 0x0 (R90). -/
abbrev R.CHN_EVT_ACQ_FAIL (a : Nat) : Fld := ⟨0x0C, a, 0xC, 3, 1, 0x0⟩

/-- `CHN_EVT` +0x00C [4] `LDPC_FAIL`, W1C, reset 0x0 (R90). -/
abbrev R.CHN_EVT_LDPC_FAIL (a : Nat) : Fld := ⟨0x0C, a, 0xC, 4, 1, 0x0⟩

/-- `CHN_EVT` +0x00C [5] `OC_UNVERIFIED`, W1C, reset 0x0 (R90). -/
abbrev R.CHN_EVT_OC_UNVERIFIED (a : Nat) : Fld := ⟨0x0C, a, 0xC, 5, 1, 0x0⟩

/-- `CHN_EVT` +0x00C [6] `OC_FAIL`, W1C, reset 0x0 (R90). -/
abbrev R.CHN_EVT_OC_FAIL (a : Nat) : Fld := ⟨0x0C, a, 0xC, 6, 1, 0x0⟩

/-- `CHN_EVT` +0x00C [7] `TBL_CRC`, W1C, reset 0x0 (R90). -/
abbrev R.CHN_EVT_TBL_CRC (a : Nat) : Fld := ⟨0x0C, a, 0xC, 7, 1, 0x0⟩

/-- `CHN_EVT` +0x00C [8] `LMS_CLAMP`, W1C, reset 0x0 (R90). -/
abbrev R.CHN_EVT_LMS_CLAMP (a : Nat) : Fld := ⟨0x0C, a, 0xC, 8, 1, 0x0⟩

/-- `CHN_EVT` +0x00C [9] `DD_TA`, W1C, reset 0x0 (R90). -/
abbrev R.CHN_EVT_DD_TA (a : Nat) : Fld := ⟨0x0C, a, 0xC, 9, 1, 0x0⟩

/-- `CHN_EVT` +0x00C [10] `DD_DROP`, W1C, reset 0x0 (R90). -/
abbrev R.CHN_EVT_DD_DROP (a : Nat) : Fld := ⟨0x0C, a, 0xC, 10, 1, 0x0⟩

/-- `CHN_EVT` +0x00C [11] `DD_INST`, W1C, reset 0x0 (R90). -/
abbrev R.CHN_EVT_DD_INST (a : Nat) : Fld := ⟨0x0C, a, 0xC, 11, 1, 0x0⟩

/-- `CHN_EVT` +0x00C [12] `CNT_SAT`, W1C, reset 0x0 (R90). -/
abbrev R.CHN_EVT_CNT_SAT (a : Nat) : Fld := ⟨0x0C, a, 0xC, 12, 1, 0x0⟩

/-- `CHN_SYNC` +0x014 [2:0] `SM1_HD`, RW, reset 0x3 (R90). -/
abbrev R.CHN_SYNC_SM1_HD (a : Nat) : Fld := ⟨0x0C, a, 0x14, 0, 3, 0x3⟩

/-- `CHN_SYNC` +0x014 [6:4] `SM2_HD`, RW, reset 0x3 (R90). -/
abbrev R.CHN_SYNC_SM2_HD (a : Nat) : Fld := ⟨0x0C, a, 0x14, 4, 3, 0x3⟩

/-- `CHN_SYNC` +0x014 [10:8] `FSM_HD`, RW, reset 0x2 (R90). -/
abbrev R.CHN_SYNC_FSM_HD (a : Nat) : Fld := ⟨0x0C, a, 0x14, 8, 3, 0x2⟩

/-- `CHN_SYNC` +0x014 [23:16] `SM1_WIN`, RW, reset 0x18 (R90). -/
abbrev R.CHN_SYNC_SM1_WIN (a : Nat) : Fld := ⟨0x0C, a, 0x14, 16, 8, 0x18⟩

/-- `CHN_LDPC` +0x018 [5:0] `IT_OTF`, RW, reset 0xA (R90). -/
abbrev R.CHN_LDPC_IT_OTF (a : Nat) : Fld := ⟨0x0C, a, 0x18, 0, 6, 0xA⟩

/-- `CHN_LDPC` +0x018 [13:8] `IT_RETRY`, RW, reset 0x1E (R90). -/
abbrev R.CHN_LDPC_IT_RETRY (a : Nat) : Fld := ⟨0x0C, a, 0x18, 8, 6, 0x1E⟩

/-- `CHN_LDPC` +0x018 [18:16] `GLOBAL_RETRY`, RW, reset 0x4 (R90). -/
abbrev R.CHN_LDPC_GLOBAL_RETRY (a : Nat) : Fld := ⟨0x0C, a, 0x18, 16, 3, 0x4⟩

/-- `CHN_DD` +0x01C [7:0] `TA_THR`, RW, reset 0x28 (R90). -/
abbrev R.CHN_DD_TA_THR (a : Nat) : Fld := ⟨0x0C, a, 0x1C, 0, 8, 0x28⟩

/-- `CHN_DD` +0x01C [15:8] `DROP_THR`, RW, reset 0x80 (R90). -/
abbrev R.CHN_DD_DROP_THR (a : Nat) : Fld := ⟨0x0C, a, 0x1C, 8, 8, 0x80⟩

/-- `CHN_DD` +0x01C [23:16] `DROP_LEN`, RW, reset 0x20 (R90). -/
abbrev R.CHN_DD_DROP_LEN (a : Nat) : Fld := ⟨0x0C, a, 0x1C, 16, 8, 0x20⟩

/-- `CHN_DD` +0x01C [31:24] `INST_THR`, RW, reset 0x40 (R90). -/
abbrev R.CHN_DD_INST_THR (a : Nat) : Fld := ⟨0x0C, a, 0x1C, 24, 8, 0x40⟩

/-- `CHN_DD2` +0x020 [15:0] `SECT_LIM`, RW, reset 0x2EE0 (R90). -/
abbrev R.CHN_DD2_SECT_LIM (a : Nat) : Fld := ⟨0x0C, a, 0x20, 0, 16, 0x2EE0⟩

/-- `CHN_DD2` +0x020 [23:16] `DD_PAD`, RW, reset 0x10 (R90). -/
abbrev R.CHN_DD2_DD_PAD (a : Nat) : Fld := ⟨0x0C, a, 0x20, 16, 8, 0x10⟩

/-- `CHN_RETRY` +0x024 [15:0] `TIME_MS`, RW, reset 0x7D0 (R90). -/
abbrev R.CHN_RETRY_TIME_MS (a : Nat) : Fld := ⟨0x0C, a, 0x24, 0, 16, 0x7D0⟩

/-- `CHN_RETRY` +0x024 [21:16] `RUNG_EN`, RW, reset 0x3F (R90). -/
abbrev R.CHN_RETRY_RUNG_EN (a : Nat) : Fld := ⟨0x0C, a, 0x24, 16, 6, 0x3F⟩

/-- `CHN_RETRY` +0x024 [27:24] `AVG_REVS`, RW, reset 0x8 (R90). -/
abbrev R.CHN_RETRY_AVG_REVS (a : Nat) : Fld := ⟨0x0C, a, 0x24, 24, 4, 0x8⟩

/-- `CHN_LASTF0` +0x030 [23:0] `TRACK`, RO, reset 0x0 (R90). -/
abbrev R.CHN_LASTF0_TRACK (a : Nat) : Fld := ⟨0x0C, a, 0x30, 0, 24, 0x0⟩

/-- `CHN_LASTF0` +0x030 [31:24] `SIDX`, RO, reset 0x0 (R90). -/
abbrev R.CHN_LASTF0_SIDX (a : Nat) : Fld := ⟨0x0C, a, 0x30, 24, 8, 0x0⟩

/-- `CHN_LASTF1` +0x034 [3:0] `LHEAD`, RO, reset 0x0 (R90). -/
abbrev R.CHN_LASTF1_LHEAD (a : Nat) : Fld := ⟨0x0C, a, 0x34, 0, 4, 0x0⟩

/-- `CHN_LASTF1` +0x034 [9:4] `ZONE`, RO, reset 0x0 (R90). -/
abbrev R.CHN_LASTF1_ZONE (a : Nat) : Fld := ⟨0x0C, a, 0x34, 4, 6, 0x0⟩

/-- `CHN_LASTF1` +0x034 [12:10] `DCLS`, RO, reset 0x0 (R90). -/
abbrev R.CHN_LASTF1_DCLS (a : Nat) : Fld := ⟨0x0C, a, 0x34, 10, 3, 0x0⟩

/-- `CHN_LASTF1` +0x034 [15:13] `RUNG`, RO, reset 0x0 (R90). -/
abbrev R.CHN_LASTF1_RUNG (a : Nat) : Fld := ⟨0x0C, a, 0x34, 13, 3, 0x0⟩

/-- `CHN_LASTF1` +0x034 [19:16] `CAUSE`, RO, reset 0x0 (R90). -/
abbrev R.CHN_LASTF1_CAUSE (a : Nat) : Fld := ⟨0x0C, a, 0x34, 16, 4, 0x0⟩

/-- `CHN_REPLAY` +0x080 [0] `HOLD`, RW, reset 0x0 (R90). -/
abbrev R.CHN_REPLAY_HOLD (a : Nat) : Fld := ⟨0x0C, a, 0x80, 0, 1, 0x0⟩

/-- `CHN_REPLAY_PAGE` +0x084 [7:0] `PAGE`, RW, reset 0x0 (R90). -/
abbrev R.CHN_REPLAY_PAGE_PAGE (a : Nat) : Fld := ⟨0x0C, a, 0x84, 0, 8, 0x0⟩

/-- `SPT_CTL` +0x000 [0] `EN`, RW, reset 0x0 (R119). -/
abbrev R.SPT_CTL_EN (a : Nat) : Fld := ⟨0x12, a, 0x0, 0, 1, 0x0⟩

/-- `SPT_CTL` +0x000 [1] `WR_INH`, RW, reset 0x0 (R119). -/
abbrev R.SPT_CTL_WR_INH (a : Nat) : Fld := ⟨0x12, a, 0x0, 1, 1, 0x0⟩

/-- `SPT_CHK` +0x004 [15:0] `REASON`, RO, reset 0x0 (R119). -/
abbrev R.SPT_CHK_REASON (a : Nat) : Fld := ⟨0x12, a, 0x4, 0, 16, 0x0⟩

/-- `SPT_STAT` +0x008 [0] `ENUM_DONE`, RO, reset 0x0 (R119). -/
abbrev R.SPT_STAT_ENUM_DONE (a : Nat) : Fld := ⟨0x12, a, 0x8, 0, 1, 0x0⟩

/-- `SPT_STAT` +0x008 [1] `WG`, RO, reset 0x0 (R119). -/
abbrev R.SPT_STAT_WG (a : Nat) : Fld := ⟨0x12, a, 0x8, 1, 1, 0x0⟩

/-- `SPT_STAT` +0x008 [2] `AG_REQ`, RO, reset 0x0 (R119). -/
abbrev R.SPT_STAT_AG_REQ (a : Nat) : Fld := ⟨0x12, a, 0x8, 2, 1, 0x0⟩

/-- `SPT_STAT` +0x008 [3] `LATCH`, RO, reset 0x0 (R119). -/
abbrev R.SPT_STAT_LATCH (a : Nat) : Fld := ⟨0x12, a, 0x8, 3, 1, 0x0⟩

/-- `SPT_STAT` +0x008 [4] `PA_FLT`, RO, reset 0x0 (R119). -/
abbrev R.SPT_STAT_PA_FLT (a : Nat) : Fld := ⟨0x12, a, 0x8, 4, 1, 0x0⟩

/-- `SPT_STAT` +0x008 [8:5] `SEL_HEAD`, RO, reset 0x0 (R119). -/
abbrev R.SPT_STAT_SEL_HEAD (a : Nat) : Fld := ⟨0x12, a, 0x8, 5, 4, 0x0⟩

/-- `SPT_STAT` +0x008 [9] `MEAS_BUSY`, RO, reset 0x0 (R119). -/
abbrev R.SPT_STAT_MEAS_BUSY (a : Nat) : Fld := ⟨0x12, a, 0x8, 9, 1, 0x0⟩

/-- `SPT_EVT` +0x00C [0] `PA_FAULT`, W1C, reset 0x0 (R119). -/
abbrev R.SPT_EVT_PA_FAULT (a : Nat) : Fld := ⟨0x12, a, 0xC, 0, 1, 0x0⟩

/-- `SPT_EVT` +0x00C [1] `LY_FAIL`, W1C, reset 0x0 (R119). -/
abbrev R.SPT_EVT_LY_FAIL (a : Nat) : Fld := ⟨0x12, a, 0xC, 1, 1, 0x0⟩

/-- `SPT_EVT` +0x00C [2] `WR_ABORT`, W1C, reset 0x0 (R119). -/
abbrev R.SPT_EVT_WR_ABORT (a : Nat) : Fld := ⟨0x12, a, 0xC, 2, 1, 0x0⟩

/-- `SPT_EVT` +0x00C [3] `LATCH_ABORT`, W1C, reset 0x0 (R119). -/
abbrev R.SPT_EVT_LATCH_ABORT (a : Nat) : Fld := ⟨0x12, a, 0xC, 3, 1, 0x0⟩

/-- `SPT_EVT` +0x00C [4] `LAS_CLAMP`, W1C, reset 0x0 (R119). -/
abbrev R.SPT_EVT_LAS_CLAMP (a : Nat) : Fld := ⟨0x12, a, 0xC, 4, 1, 0x0⟩

/-- `SPT_EVT` +0x00C [5] `MEAS_DONE`, W1C, reset 0x0 (R119). -/
abbrev R.SPT_EVT_MEAS_DONE (a : Nat) : Fld := ⟨0x12, a, 0xC, 5, 1, 0x0⟩

/-- `SPT_EVT` +0x00C [6] `MEAS_OOR`, W1C, reset 0x0 (R119). -/
abbrev R.SPT_EVT_MEAS_OOR (a : Nat) : Fld := ⟨0x12, a, 0xC, 6, 1, 0x0⟩

/-- `SPT_EVT` +0x00C [7] `ENUM_FAIL`, W1C, reset 0x0 (R119). -/
abbrev R.SPT_EVT_ENUM_FAIL (a : Nat) : Fld := ⟨0x12, a, 0xC, 7, 1, 0x0⟩

/-- `SPT_EVT` +0x00C [8] `CNT_SAT`, W1C, reset 0x0 (R119). -/
abbrev R.SPT_EVT_CNT_SAT (a : Nat) : Fld := ⟨0x12, a, 0xC, 8, 1, 0x0⟩

/-- `SPT_AG` +0x014 [7:0] `AG_LEAD`, RW, reset 0x28 (R119). -/
abbrev R.SPT_AG_AG_LEAD (a : Nat) : Fld := ⟨0x12, a, 0x14, 0, 8, 0x28⟩

/-- `SPT_AG` +0x014 [15:8] `AG_LAG`, RW, reset 0x14 (R119). -/
abbrev R.SPT_AG_AG_LAG (a : Nat) : Fld := ⟨0x12, a, 0x14, 8, 8, 0x14⟩

/-- `SPT_AG` +0x014 [23:16] `WG_ADV`, RW, reset 0x3C (R119). -/
abbrev R.SPT_AG_WG_ADV (a : Nat) : Fld := ⟨0x12, a, 0x14, 16, 8, 0x3C⟩

/-- `SPT_WD` +0x018 [3:0] `SWING`, RW, reset 0x8 (R119). -/
abbrev R.SPT_WD_SWING (a : Nat) : Fld := ⟨0x12, a, 0x18, 0, 4, 0x8⟩

/-- `SPT_WD` +0x018 [6:4] `DEEMPH`, RW, reset 0x0 (R119). -/
abbrev R.SPT_WD_DEEMPH (a : Nat) : Fld := ⟨0x12, a, 0x18, 4, 3, 0x0⟩

/-- `SPT_WD` +0x018 [7] `AUTO`, RW, reset 0x1 (R119). -/
abbrev R.SPT_WD_AUTO (a : Nat) : Fld := ⟨0x12, a, 0x18, 7, 1, 0x1⟩

/-- `SPT_MEAS` +0x020 [3:0] `LHEAD`, RW, reset 0x0 (R119). -/
abbrev R.SPT_MEAS_LHEAD (a : Nat) : Fld := ⟨0x12, a, 0x20, 0, 4, 0x0⟩

/-- `SPT_MEAS` +0x020 [6:4] `KIND`, RW, reset 0x0 (R119). -/
abbrev R.SPT_MEAS_KIND (a : Nat) : Fld := ⟨0x12, a, 0x20, 4, 3, 0x0⟩

/-- `SPT_MEAS` +0x020 [31] `GO`, WO, reset 0x0 (R119). -/
abbrev R.SPT_MEAS_GO (a : Nat) : Fld := ⟨0x12, a, 0x20, 31, 1, 0x0⟩

/-- `SPT_MEAS_RES0` +0x024 [31:0] `RES`, RO, reset 0x0 (R119). -/
abbrev R.SPT_MEAS_RES0_RES (a : Nat) : Fld := ⟨0x12, a, 0x24, 0, 32, 0x0⟩

/-- `SPT_MEAS_RES1` +0x028 [31:0] `RES`, RO, reset 0x0 (R119). -/
abbrev R.SPT_MEAS_RES1_RES (a : Nat) : Fld := ⟨0x12, a, 0x28, 0, 32, 0x0⟩

/-- `SPT_PAFLT` +0x02C [15:0] `PASTAT`, RO, reset 0x0 (R119). -/
abbrev R.SPT_PAFLT_PASTAT (a : Nat) : Fld := ⟨0x12, a, 0x2C, 0, 16, 0x0⟩

/-- `SPT_PAFLT` +0x02C [19:16] `FHEAD`, RO, reset 0x0 (R119). -/
abbrev R.SPT_PAFLT_FHEAD (a : Nat) : Fld := ⟨0x12, a, 0x2C, 16, 4, 0x0⟩

/-- `SPT_HDWP` +0x030 [9:0] `WP`, W1C, reset 0x0 (R119). -/
abbrev R.SPT_HDWP_WP (a : Nat) : Fld := ⟨0x12, a, 0x30, 0, 10, 0x0⟩

/-- `CHN_CNT_SM1MISS` +0x040: the counter, [15:0] `COUNT` (layout R91). -/
abbrev R.CHN_CNT_SM1MISS (a : Nat) : Fld := ⟨0x0C, a, 0x40, 0, 16, 0x0⟩

/-- `CHN_CNT_REFRAME` +0x044: the counter, [15:0] `COUNT` (layout R91). -/
abbrev R.CHN_CNT_REFRAME (a : Nat) : Fld := ⟨0x0C, a, 0x44, 0, 16, 0x0⟩

/-- `CHN_CNT_SECTERAS` +0x048: the counter, [15:0] `COUNT` (layout R91). -/
abbrev R.CHN_CNT_SECTERAS (a : Nat) : Fld := ⟨0x0C, a, 0x48, 0, 16, 0x0⟩

/-- `CHN_CNT_LDPCFAIL` +0x04C: the counter, [15:0] `COUNT` (layout R91). -/
abbrev R.CHN_CNT_LDPCFAIL (a : Nat) : Fld := ⟨0x0C, a, 0x4C, 0, 16, 0x0⟩

/-- `CHN_CNT_OCREB` +0x050: the counter, [15:0] `COUNT` (layout R91). -/
abbrev R.CHN_CNT_OCREB (a : Nat) : Fld := ⟨0x0C, a, 0x50, 0, 16, 0x0⟩

/-- `CHN_CNT_URE` +0x054: the counter, [15:0] `COUNT` (layout R91). -/
abbrev R.CHN_CNT_URE (a : Nat) : Fld := ⟨0x0C, a, 0x54, 0, 16, 0x0⟩

/-- `CHN_CNT_LMSCLAMP` +0x058: the counter, [15:0] `COUNT` (layout R91). -/
abbrev R.CHN_CNT_LMSCLAMP (a : Nat) : Fld := ⟨0x0C, a, 0x58, 0, 16, 0x0⟩

/-- `CHN_CNT_TBLFB` +0x05C: the counter, [15:0] `COUNT` (layout R91). -/
abbrev R.CHN_CNT_TBLFB (a : Nat) : Fld := ⟨0x0C, a, 0x5C, 0, 16, 0x0⟩

/-- `SPT_CNT_LYCRC` +0x040: the counter, [15:0] `COUNT` (layout R91). -/
abbrev R.SPT_CNT_LYCRC (a : Nat) : Fld := ⟨0x12, a, 0x40, 0, 16, 0x0⟩

/-- `SPT_CNT_PAFLT` +0x044: the counter, [15:0] `COUNT` (layout R91). -/
abbrev R.SPT_CNT_PAFLT (a : Nat) : Fld := ⟨0x12, a, 0x44, 0, 16, 0x0⟩

/-- `SPT_CNT_WRABORT` +0x048: the counter, [15:0] `COUNT` (layout R91). -/
abbrev R.SPT_CNT_WRABORT (a : Nat) : Fld := ⟨0x12, a, 0x48, 0, 16, 0x0⟩

/-- `SPT_CNT_LASCLAMP` +0x04C: the counter, [15:0] `COUNT` (layout R91). -/
abbrev R.SPT_CNT_LASCLAMP (a : Nat) : Fld := ⟨0x12, a, 0x4C, 0, 16, 0x0⟩

/-- `TFH_CNT_TD` +0x040: the counter, [15:0] `COUNT` (layout R91). -/
abbrev R.TFH_CNT_TD : Fld := ⟨0x13, 0, 0x40, 0, 16, 0x0⟩

/-- `SEQ_CNT_RESTART` +0x040: the counter, [15:0] `COUNT` (layout R91). -/
abbrev R.SEQ_CNT_RESTART (a : Nat) : Fld := ⟨0x0D, a, 0x40, 0, 16, 0x0⟩

/-- `SEQ_CNT_MISS` +0x044: the counter, [15:0] `COUNT` (layout R91). -/
abbrev R.SEQ_CNT_MISS (a : Nat) : Fld := ⟨0x0D, a, 0x44, 0, 16, 0x0⟩

/-- `SEQ_CNT_MCHK` +0x048: the counter, [15:0] `COUNT` (layout R91). -/
abbrev R.SEQ_CNT_MCHK (a : Nat) : Fld := ⟨0x0D, a, 0x48, 0, 16, 0x0⟩

/-- `SEQ_CNT_NRDEFER` +0x04C: the counter, [15:0] `COUNT` (layout R91). -/
abbrev R.SEQ_CNT_NRDEFER (a : Nat) : Fld := ⟨0x0D, a, 0x4C, 0, 16, 0x0⟩

/-- `SEQ_CNT_SCRUB` +0x050: the counter, [15:0] `COUNT` (layout R91). -/
abbrev R.SEQ_CNT_SCRUB (a : Nat) : Fld := ⟨0x0D, a, 0x50, 0, 16, 0x0⟩

/-- `SRV_CNT_SAMMISS` +0x040: the counter, [15:0] `COUNT` (layout R91). -/
abbrev R.SRV_CNT_SAMMISS (a : Nat) : Fld := ⟨0x0E, a, 0x40, 0, 16, 0x0⟩

/-- `SRV_CNT_IDXERR` +0x044: the counter, [15:0] `COUNT` (layout R91). -/
abbrev R.SRV_CNT_IDXERR (a : Nat) : Fld := ⟨0x0E, a, 0x44, 0, 16, 0x0⟩

/-- `SRV_CNT_GRAYERR` +0x048: the counter, [15:0] `COUNT` (layout R91). -/
abbrev R.SRV_CNT_GRAYERR (a : Nat) : Fld := ⟨0x0E, a, 0x48, 0, 16, 0x0⟩

/-- `SRV_CNT_BURSTERR` +0x04C: the counter, [15:0] `COUNT` (layout R91). -/
abbrev R.SRV_CNT_BURSTERR (a : Nat) : Fld := ⟨0x0E, a, 0x4C, 0, 16, 0x0⟩

/-- `SRV_CNT_RROPAR` +0x050: the counter, [15:0] `COUNT` (layout R91). -/
abbrev R.SRV_CNT_RROPAR (a : Nat) : Fld := ⟨0x0E, a, 0x50, 0, 16, 0x0⟩

/-- `SRV_CNT_WI` +0x054: the counter, [15:0] `COUNT` (layout R91). -/
abbrev R.SRV_CNT_WI (a : Nat) : Fld := ⟨0x0E, a, 0x54, 0, 16, 0x0⟩

/-- `SRV_CNT_SEEKERR` +0x058: the counter, [15:0] `COUNT` (layout R91). -/
abbrev R.SRV_CNT_SEEKERR (a : Nat) : Fld := ⟨0x0E, a, 0x58, 0, 16, 0x0⟩

/-- `SRV_CNT_LOCKLOSS` +0x05C: the counter, [15:0] `COUNT` (layout R91). -/
abbrev R.SRV_CNT_LOCKLOSS (a : Nat) : Fld := ⟨0x0E, a, 0x5C, 0, 16, 0x0⟩

/-- `TRZ_CNT_MCHK` +0x040: the counter, [15:0] `COUNT` (layout R91). -/
abbrev R.TRZ_CNT_MCHK : Fld := ⟨0x0F, 0, 0x40, 0, 16, 0x0⟩

/-- `TRZ_CNT_SCRUB` +0x044: the counter, [15:0] `COUNT` (layout R91). -/
abbrev R.TRZ_CNT_SCRUB : Fld := ⟨0x0F, 0, 0x44, 0, 16, 0x0⟩

/-- `CRL_CNT_SRCSW` +0x040: the counter, [15:0] `COUNT` (layout R91). -/
abbrev R.CRL_CNT_SRCSW : Fld := ⟨0x10, 0, 0x40, 0, 16, 0x0⟩

/-- `CRL_CNT_LOSS` +0x044: the counter, [15:0] `COUNT` (layout R91). -/
abbrev R.CRL_CNT_LOSS : Fld := ⟨0x10, 0, 0x44, 0, 16, 0x0⟩

/-- `CRL_CNT_START` +0x048: the counter, [15:0] `COUNT` (layout R91). -/
abbrev R.CRL_CNT_START : Fld := ⟨0x10, 0, 0x48, 0, 16, 0x0⟩

/-- `CRL_CNT_KICK` +0x04C: the counter, [15:0] `COUNT` (layout R91). -/
abbrev R.CRL_CNT_KICK : Fld := ⟨0x10, 0, 0x4C, 0, 16, 0x0⟩

/-- `CRL_CNT_OV` +0x050: the counter, [15:0] `COUNT` (layout R91). -/
abbrev R.CRL_CNT_OV : Fld := ⟨0x10, 0, 0x50, 0, 16, 0x0⟩

/-- `STM_CNT_LINKERR` +0x040: the counter, [15:0] `COUNT` (layout R91). -/
abbrev R.STM_CNT_LINKERR : Fld := ⟨0x11, 0, 0x40, 0, 16, 0x0⟩

/-- `STM_CNT_HBMISS` +0x044: the counter, [15:0] `COUNT` (layout R91). -/
abbrev R.STM_CNT_HBMISS : Fld := ⟨0x11, 0, 0x44, 0, 16, 0x0⟩

/-- `STM_CNT_RETRACT` +0x048: the counter, [15:0] `COUNT` (layout R91). -/
abbrev R.STM_CNT_RETRACT : Fld := ⟨0x11, 0, 0x48, 0, 16, 0x0⟩

/-- `STM_CNT_CHOP` +0x04C: the counter, [15:0] `COUNT` (layout R91). -/
abbrev R.STM_CNT_CHOP : Fld := ⟨0x11, 0, 0x4C, 0, 16, 0x0⟩

/-- `STM_CNT_OC` +0x050: the counter, [15:0] `COUNT` (layout R91). -/
abbrev R.STM_CNT_OC : Fld := ⟨0x11, 0, 0x50, 0, 16, 0x0⟩

/-- `MMG_CNT_RECL` +0x040: the counter, [15:0] `COUNT` (layout R91). -/
abbrev R.MMG_CNT_RECL : Fld := ⟨0x0B, 0, 0x40, 0, 16, 0x0⟩

/-- `MMG_CNT_ALT` +0x044: the counter, [15:0] `COUNT` (layout R91). -/
abbrev R.MMG_CNT_ALT : Fld := ⟨0x0B, 0, 0x44, 0, 16, 0x0⟩

/-- `MMG_CNT_OFFLINE` +0x048: the counter, [15:0] `COUNT` (layout R91). -/
abbrev R.MMG_CNT_OFFLINE : Fld := ⟨0x0B, 0, 0x48, 0, 16, 0x0⟩

/-- `MMG_CNT_DEFECT` +0x04C: the counter, [15:0] `COUNT` (layout R91). -/
abbrev R.MMG_CNT_DEFECT : Fld := ⟨0x0B, 0, 0x4C, 0, 16, 0x0⟩

/-- `MMG_CNT_DURABLE` +0x050: the counter, [15:0] `COUNT` (layout R91). -/
abbrev R.MMG_CNT_DURABLE : Fld := ⟨0x0B, 0, 0x50, 0, 16, 0x0⟩

/-- `MMG_CNT_RESUME` +0x054: the counter, [15:0] `COUNT` (layout R91). -/
abbrev R.MMG_CNT_RESUME : Fld := ⟨0x0B, 0, 0x54, 0, 16, 0x0⟩

/-- `CMD_CNT_TSSTALL` +0x040: the counter, [15:0] `COUNT` (layout R91). -/
abbrev R.CMD_CNT_TSSTALL : Fld := ⟨0x02, 0, 0x40, 0, 16, 0x0⟩

/-- `CMD_CNT_PAUSE` +0x044: the counter, [15:0] `COUNT` (layout R91). -/
abbrev R.CMD_CNT_PAUSE : Fld := ⟨0x02, 0, 0x44, 0, 16, 0x0⟩

/-- `CMD_CNT_AGEPICK` +0x048: the counter, [15:0] `COUNT` (layout R91). -/
abbrev R.CMD_CNT_AGEPICK : Fld := ⟨0x02, 0, 0x48, 0, 16, 0x0⟩

/-- `CMD_CNT_KATO` +0x04C: the counter, [15:0] `COUNT` (layout R91). -/
abbrev R.CMD_CNT_KATO : Fld := ⟨0x02, 0, 0x4C, 0, 16, 0x0⟩

/-- `CMD_CNT_ABORT` +0x050: the counter, [15:0] `COUNT` (layout R91). -/
abbrev R.CMD_CNT_ABORT : Fld := ⟨0x02, 0, 0x50, 0, 16, 0x0⟩

/-- `FAB_CNT_LINKDN` +0x040: the counter, [15:0] `COUNT` (layout R91). -/
abbrev R.FAB_CNT_LINKDN : Fld := ⟨0x01, 0, 0x40, 0, 16, 0x0⟩

/-- `FAB_CNT_FAILOVER` +0x044: the counter, [15:0] `COUNT` (layout R91). -/
abbrev R.FAB_CNT_FAILOVER : Fld := ⟨0x01, 0, 0x44, 0, 16, 0x0⟩

/-- `FAB_CNT_FECUNC` +0x048: the counter, [15:0] `COUNT` (layout R91). -/
abbrev R.FAB_CNT_FECUNC : Fld := ⟨0x01, 0, 0x48, 0, 16, 0x0⟩

/-- `FAB_CNT_ICRC` +0x04C: the counter, [15:0] `COUNT` (layout R91). -/
abbrev R.FAB_CNT_ICRC : Fld := ⟨0x01, 0, 0x4C, 0, 16, 0x0⟩

/-- `FAB_CNT_DIGEST` +0x050: the counter, [15:0] `COUNT` (layout R91). -/
abbrev R.FAB_CNT_DIGEST : Fld := ⟨0x01, 0, 0x50, 0, 16, 0x0⟩

/-- `FAB_CNT_WAKE` +0x054: the counter, [15:0] `COUNT` (layout R91). -/
abbrev R.FAB_CNT_WAKE : Fld := ⟨0x01, 0, 0x54, 0, 16, 0x0⟩

/-- `TRU_CNT_ABORT` +0x040: the counter, [15:0] `COUNT` (layout R91). -/
abbrev R.TRU_CNT_ABORT : Fld := ⟨0x06, 0, 0x40, 0, 16, 0x0⟩

/-- `TRU_CNT_ICRC` +0x044: the counter, [15:0] `COUNT` (layout R91). -/
abbrev R.TRU_CNT_ICRC : Fld := ⟨0x06, 0, 0x44, 0, 16, 0x0⟩

/-- `PWK_CNT_REBUILD` +0x040: the counter, [15:0] `COUNT` (layout R91). -/
abbrev R.PWK_CNT_REBUILD : Fld := ⟨0x07, 0, 0x40, 0, 16, 0x0⟩

/-- `PWK_CNT_DEGRD` +0x044: the counter, [15:0] `COUNT` (layout R91). -/
abbrev R.PWK_CNT_DEGRD : Fld := ⟨0x07, 0, 0x44, 0, 16, 0x0⟩

/-- `PWK_CNT_EPOCH` +0x048: the counter, [15:0] `COUNT` (layout R91). -/
abbrev R.PWK_CNT_EPOCH : Fld := ⟨0x07, 0, 0x48, 0, 16, 0x0⟩

/-- `CLOAK_CNT_ERASE` +0x040: the counter, [15:0] `COUNT` (layout R91). -/
abbrev R.CLOAK_CNT_ERASE : Fld := ⟨0x08, 0, 0x40, 0, 16, 0x0⟩

/-- `CLOAK_CNT_UNWRAP` +0x044: the counter, [15:0] `COUNT` (layout R91). -/
abbrev R.CLOAK_CNT_UNWRAP : Fld := ⟨0x08, 0, 0x44, 0, 16, 0x0⟩

/-- `TKB_CNT_REFUSE` +0x040: the counter, [15:0] `COUNT` (layout R91). -/
abbrev R.TKB_CNT_REFUSE : Fld := ⟨0x03, 0, 0x40, 0, 16, 0x0⟩

/-- `TKB_CNT_AUTHFAIL` +0x044: the counter, [15:0] `COUNT` (layout R91). -/
abbrev R.TKB_CNT_AUTHFAIL : Fld := ⟨0x03, 0, 0x44, 0, 16, 0x0⟩

/-- `CLP_CNT_MERGE` +0x040: the counter, [15:0] `COUNT` (layout R91). -/
abbrev R.CLP_CNT_MERGE : Fld := ⟨0x04, 0, 0x40, 0, 16, 0x0⟩

/-- `CLP_CNT_REFIRE` +0x044: the counter, [15:0] `COUNT` (layout R91). -/
abbrev R.CLP_CNT_REFIRE : Fld := ⟨0x04, 0, 0x44, 0, 16, 0x0⟩

/-- `HBM_CNT_CE` +0x040: the counter, [15:0] `COUNT` (layout R91). -/
abbrev R.HBM_CNT_CE (a : Nat) : Fld := ⟨0x09, a, 0x40, 0, 16, 0x0⟩

/-- `HBM_CNT_UE` +0x044: the counter, [15:0] `COUNT` (layout R91). -/
abbrev R.HBM_CNT_UE (a : Nat) : Fld := ⟨0x09, a, 0x44, 0, 16, 0x0⟩

/-- `HBM_CNT_SCRUBFIX` +0x048: the counter, [15:0] `COUNT` (layout R91). -/
abbrev R.HBM_CNT_SCRUBFIX (a : Nat) : Fld := ⟨0x09, a, 0x48, 0, 16, 0x0⟩

/-- `HBM_CNT_RETRAIN` +0x04C: the counter, [15:0] `COUNT` (layout R91). -/
abbrev R.HBM_CNT_RETRAIN (a : Nat) : Fld := ⟨0x09, a, 0x4C, 0, 16, 0x0⟩

/-- `PKT_CNT_CE` +0x040: the counter, [15:0] `COUNT` (layout R91). -/
abbrev R.PKT_CNT_CE : Fld := ⟨0x0A, 0, 0x40, 0, 16, 0x0⟩

/-- `PKT_CNT_UE` +0x044: the counter, [15:0] `COUNT` (layout R91). -/
abbrev R.PKT_CNT_UE : Fld := ⟨0x0A, 0, 0x44, 0, 16, 0x0⟩

/-- `WDB_CNT_PROGFAIL` +0x040: the counter, [15:0] `COUNT` (layout R91). -/
abbrev R.WDB_CNT_PROGFAIL : Fld := ⟨0x14, 0, 0x40, 0, 16, 0x0⟩

/-- `WDB_CNT_ERASEFAIL` +0x044: the counter, [15:0] `COUNT` (layout R91). -/
abbrev R.WDB_CNT_ERASEFAIL : Fld := ⟨0x14, 0, 0x44, 0, 16, 0x0⟩

/-- `WDB_CNT_SUSPHIT` +0x048: the counter, [15:0] `COUNT` (layout R91). -/
abbrev R.WDB_CNT_SUSPHIT : Fld := ⟨0x14, 0, 0x48, 0, 16, 0x0⟩

/-- `WDB_CNT_ABANDON` +0x04C: the counter, [15:0] `COUNT` (layout R91). -/
abbrev R.WDB_CNT_ABANDON : Fld := ⟨0x14, 0, 0x4C, 0, 16, 0x0⟩

/-- `SNT_CNT_STAGE1` +0x040: the counter, [15:0] `COUNT` (layout R91). -/
abbrev R.SNT_CNT_STAGE1 : Fld := ⟨0x15, 0, 0x40, 0, 16, 0x0⟩

/-- `SNT_CNT_STAGE2` +0x044: the counter, [15:0] `COUNT` (layout R91). -/
abbrev R.SNT_CNT_STAGE2 : Fld := ⟨0x15, 0, 0x44, 0, 16, 0x0⟩

/-- `SNT_CNT_BADKICK` +0x048: the counter, [15:0] `COUNT` (layout R91). -/
abbrev R.SNT_CNT_BADKICK : Fld := ⟨0x15, 0, 0x48, 0, 16, 0x0⟩

/-- `CVN_CNT_WAKE` +0x040: the counter, [15:0] `COUNT` (layout R91). -/
abbrev R.CVN_CNT_WAKE : Fld := ⟨0x16, 0, 0x40, 0, 16, 0x0⟩

/-- `CVN_CNT_PS5` +0x044: the counter, [15:0] `COUNT` (layout R91). -/
abbrev R.CVN_CNT_PS5 : Fld := ⟨0x16, 0, 0x44, 0, 16, 0x0⟩

/-- `PSL_CNT_THROT` +0x040: the counter, [15:0] `COUNT` (layout R91). -/
abbrev R.PSL_CNT_THROT : Fld := ⟨0x17, 0, 0x40, 0, 16, 0x0⟩

/-- `PSL_CNT_SUSPECT` +0x044: the counter, [15:0] `COUNT` (layout R91). -/
abbrev R.PSL_CNT_SUSPECT : Fld := ⟨0x17, 0, 0x44, 0, 16, 0x0⟩

/-- `PSL_CNT_SHUT` +0x048: the counter, [15:0] `COUNT` (layout R91). -/
abbrev R.PSL_CNT_SHUT : Fld := ⟨0x17, 0, 0x48, 0, 16, 0x0⟩

/-- `TLR_CNT_OVERDUE` +0x040: the counter, [15:0] `COUNT` (layout R91). -/
abbrev R.TLR_CNT_OVERDUE : Fld := ⟨0x18, 0, 0x40, 0, 16, 0x0⟩

/-- `TLR_CNT_SPARE` +0x044: the counter, [15:0] `COUNT` (layout R91). -/
abbrev R.TLR_CNT_SPARE : Fld := ⟨0x18, 0, 0x44, 0, 16, 0x0⟩

/-- `TLR_CNT_REPLAN` +0x048: the counter, [15:0] `COUNT` (layout R91). -/
abbrev R.TLR_CNT_REPLAN : Fld := ⟨0x18, 0, 0x48, 0, 16, 0x0⟩

/-- `PBL_CNT_LOST` +0x040: the counter, [15:0] `COUNT` (layout R91). -/
abbrev R.PBL_CNT_LOST : Fld := ⟨0x19, 0, 0x40, 0, 16, 0x0⟩

/-- `PBL_CNT_SLOTBAD` +0x044: the counter, [15:0] `COUNT` (layout R91). -/
abbrev R.PBL_CNT_SLOTBAD : Fld := ⟨0x19, 0, 0x44, 0, 16, 0x0⟩

/-- `PBL_CNT_CLEAR` +0x048: the counter, [15:0] `COUNT` (layout R91). -/
abbrev R.PBL_CNT_CLEAR : Fld := ⟨0x19, 0, 0x48, 0, 16, 0x0⟩

/-- `RMC_CNT_LINKERR` +0x040: the counter, [15:0] `COUNT` (layout R91). -/
abbrev R.RMC_CNT_LINKERR : Fld := ⟨0x05, 0, 0x40, 0, 16, 0x0⟩

/-- `RMC_CNT_SAG` +0x044: the counter, [15:0] `COUNT` (layout R91). -/
abbrev R.RMC_CNT_SAG : Fld := ⟨0x05, 0, 0x44, 0, 16, 0x0⟩

/-- `RMC_CNT_START` +0x048: the counter, [15:0] `COUNT` (layout R91). -/
abbrev R.RMC_CNT_START : Fld := ⟨0x05, 0, 0x48, 0, 16, 0x0⟩

/-- `SDS_CNT_PROTO` +0x040: the counter, [15:0] `COUNT` (layout R91). -/
abbrev R.SDS_CNT_PROTO : Fld := ⟨0x1A, 0, 0x40, 0, 16, 0x0⟩

/-- `TRZ_CNT_MISS` +0x200: the counter, [15:0] `COUNT` (layout R91). -/
abbrev R.TRZ_CNT_MISS (i : Nat) : Fld := ⟨0x0F, 0, 0x200 + 0x4 * i, 0, 16, 0x0⟩

/-- `TRZ_CNT_FE` +0x300: the counter, [15:0] `COUNT` (layout R91). -/
abbrev R.TRZ_CNT_FE (i : Nat) : Fld := ⟨0x0F, 0, 0x300 + 0x4 * i, 0, 16, 0x0⟩

/-- `TLR_ADC0` +0x2000 [11:0] `CODE`, RW, reset 0x800 (R465). -/
abbrev R.TLR_ADC0_CODE (i : Nat) : Fld := ⟨0x18, 0, 0x2000 + 0x4 * i, 0, 12, 0x800⟩

/-- `TLR_ADC0` +0x2000 [12] `SPARE_EN`, RW, reset 0x0 (R465). -/
abbrev R.TLR_ADC0_SPARE_EN (i : Nat) : Fld := ⟨0x18, 0, 0x2000 + 0x4 * i, 12, 1, 0x0⟩

/-- `TLR_ADC0` +0x2000 [15:13] `SPARE`, RW, reset 0x0 (R465). -/
abbrev R.TLR_ADC0_SPARE (i : Nat) : Fld := ⟨0x18, 0, 0x2000 + 0x4 * i, 13, 3, 0x0⟩

/-- `TLR_ADC0` +0x2000 [21:16] `SUBST`, RW, reset 0x0 (R465). -/
abbrev R.TLR_ADC0_SUBST (i : Nat) : Fld := ⟨0x18, 0, 0x2000 + 0x4 * i, 16, 6, 0x0⟩

/-- `TLR_LADDER0` +0x2020 [11:0] `CODE`, RW, reset 0x20 (R465). -/
abbrev R.TLR_LADDER0_CODE (i : Nat) : Fld := ⟨0x18, 0, 0x2020 + 0x4 * i, 0, 12, 0x20⟩

/-- `TLR_LADDER0` +0x2020 [12] `SPARE_EN`, RW, reset 0x0 (R465). -/
abbrev R.TLR_LADDER0_SPARE_EN (i : Nat) : Fld := ⟨0x18, 0, 0x2020 + 0x4 * i, 12, 1, 0x0⟩

/-- `TLR_LADDER0` +0x2020 [15:13] `SPARE`, RW, reset 0x0 (R465). -/
abbrev R.TLR_LADDER0_SPARE (i : Nat) : Fld := ⟨0x18, 0, 0x2020 + 0x4 * i, 13, 3, 0x0⟩

/-- `TLR_LADDER0` +0x2020 [21:16] `SUBST`, RW, reset 0x0 (R465). -/
abbrev R.TLR_LADDER0_SUBST (i : Nat) : Fld := ⟨0x18, 0, 0x2020 + 0x4 * i, 16, 6, 0x0⟩

/-- `TLR_WPLL0` +0x2028 [11:0] `CODE`, RW, reset 0x402 (R465). -/
abbrev R.TLR_WPLL0_CODE : Fld := ⟨0x18, 0, 0x2028, 0, 12, 0x402⟩

/-- `TLR_WPLL0` +0x2028 [12] `SPARE_EN`, RW, reset 0x0 (R465). -/
abbrev R.TLR_WPLL0_SPARE_EN : Fld := ⟨0x18, 0, 0x2028, 12, 1, 0x0⟩

/-- `TLR_WPLL0` +0x2028 [15:13] `SPARE`, RW, reset 0x0 (R465). -/
abbrev R.TLR_WPLL0_SPARE : Fld := ⟨0x18, 0, 0x2028, 13, 3, 0x0⟩

/-- `TLR_WPLL0` +0x2028 [21:16] `SUBST`, RW, reset 0x0 (R465). -/
abbrev R.TLR_WPLL0_SUBST : Fld := ⟨0x18, 0, 0x2028, 16, 6, 0x0⟩

/-- `TLR_WD0` +0x2100 [11:0] `CODE`, RW, reset 0x800 (R465). -/
abbrev R.TLR_WD0_CODE (i : Nat) : Fld := ⟨0x18, 0, 0x2100 + 0x4 * i, 0, 12, 0x800⟩

/-- `TLR_WD0` +0x2100 [12] `SPARE_EN`, RW, reset 0x0 (R465). -/
abbrev R.TLR_WD0_SPARE_EN (i : Nat) : Fld := ⟨0x18, 0, 0x2100 + 0x4 * i, 12, 1, 0x0⟩

/-- `TLR_WD0` +0x2100 [15:13] `SPARE`, RW, reset 0x0 (R465). -/
abbrev R.TLR_WD0_SPARE (i : Nat) : Fld := ⟨0x18, 0, 0x2100 + 0x4 * i, 13, 3, 0x0⟩

/-- `TLR_WD0` +0x2100 [21:16] `SUBST`, RW, reset 0x0 (R465). -/
abbrev R.TLR_WD0_SUBST (i : Nat) : Fld := ⟨0x18, 0, 0x2100 + 0x4 * i, 16, 6, 0x0⟩

/-- `TLR_ADC1` +0x2040 [11:0] `CODE`, RW, reset 0x800 (R465). -/
abbrev R.TLR_ADC1_CODE (i : Nat) : Fld := ⟨0x18, 0, 0x2040 + 0x4 * i, 0, 12, 0x800⟩

/-- `TLR_ADC1` +0x2040 [12] `SPARE_EN`, RW, reset 0x0 (R465). -/
abbrev R.TLR_ADC1_SPARE_EN (i : Nat) : Fld := ⟨0x18, 0, 0x2040 + 0x4 * i, 12, 1, 0x0⟩

/-- `TLR_ADC1` +0x2040 [15:13] `SPARE`, RW, reset 0x0 (R465). -/
abbrev R.TLR_ADC1_SPARE (i : Nat) : Fld := ⟨0x18, 0, 0x2040 + 0x4 * i, 13, 3, 0x0⟩

/-- `TLR_ADC1` +0x2040 [21:16] `SUBST`, RW, reset 0x0 (R465). -/
abbrev R.TLR_ADC1_SUBST (i : Nat) : Fld := ⟨0x18, 0, 0x2040 + 0x4 * i, 16, 6, 0x0⟩

/-- `TLR_LADDER1` +0x2060 [11:0] `CODE`, RW, reset 0x20 (R465). -/
abbrev R.TLR_LADDER1_CODE (i : Nat) : Fld := ⟨0x18, 0, 0x2060 + 0x4 * i, 0, 12, 0x20⟩

/-- `TLR_LADDER1` +0x2060 [12] `SPARE_EN`, RW, reset 0x0 (R465). -/
abbrev R.TLR_LADDER1_SPARE_EN (i : Nat) : Fld := ⟨0x18, 0, 0x2060 + 0x4 * i, 12, 1, 0x0⟩

/-- `TLR_LADDER1` +0x2060 [15:13] `SPARE`, RW, reset 0x0 (R465). -/
abbrev R.TLR_LADDER1_SPARE (i : Nat) : Fld := ⟨0x18, 0, 0x2060 + 0x4 * i, 13, 3, 0x0⟩

/-- `TLR_LADDER1` +0x2060 [21:16] `SUBST`, RW, reset 0x0 (R465). -/
abbrev R.TLR_LADDER1_SUBST (i : Nat) : Fld := ⟨0x18, 0, 0x2060 + 0x4 * i, 16, 6, 0x0⟩

/-- `TLR_WPLL1` +0x2068 [11:0] `CODE`, RW, reset 0x402 (R465). -/
abbrev R.TLR_WPLL1_CODE : Fld := ⟨0x18, 0, 0x2068, 0, 12, 0x402⟩

/-- `TLR_WPLL1` +0x2068 [12] `SPARE_EN`, RW, reset 0x0 (R465). -/
abbrev R.TLR_WPLL1_SPARE_EN : Fld := ⟨0x18, 0, 0x2068, 12, 1, 0x0⟩

/-- `TLR_WPLL1` +0x2068 [15:13] `SPARE`, RW, reset 0x0 (R465). -/
abbrev R.TLR_WPLL1_SPARE : Fld := ⟨0x18, 0, 0x2068, 13, 3, 0x0⟩

/-- `TLR_WPLL1` +0x2068 [21:16] `SUBST`, RW, reset 0x0 (R465). -/
abbrev R.TLR_WPLL1_SUBST : Fld := ⟨0x18, 0, 0x2068, 16, 6, 0x0⟩

/-- `TLR_WD1` +0x2110 [11:0] `CODE`, RW, reset 0x800 (R465). -/
abbrev R.TLR_WD1_CODE (i : Nat) : Fld := ⟨0x18, 0, 0x2110 + 0x4 * i, 0, 12, 0x800⟩

/-- `TLR_WD1` +0x2110 [12] `SPARE_EN`, RW, reset 0x0 (R465). -/
abbrev R.TLR_WD1_SPARE_EN (i : Nat) : Fld := ⟨0x18, 0, 0x2110 + 0x4 * i, 12, 1, 0x0⟩

/-- `TLR_WD1` +0x2110 [15:13] `SPARE`, RW, reset 0x0 (R465). -/
abbrev R.TLR_WD1_SPARE (i : Nat) : Fld := ⟨0x18, 0, 0x2110 + 0x4 * i, 13, 3, 0x0⟩

/-- `TLR_WD1` +0x2110 [21:16] `SUBST`, RW, reset 0x0 (R465). -/
abbrev R.TLR_WD1_SUBST (i : Nat) : Fld := ⟨0x18, 0, 0x2110 + 0x4 * i, 16, 6, 0x0⟩

/-- `TLR_ADC2` +0x2080 [11:0] `CODE`, RW, reset 0x800 (R465). -/
abbrev R.TLR_ADC2_CODE (i : Nat) : Fld := ⟨0x18, 0, 0x2080 + 0x4 * i, 0, 12, 0x800⟩

/-- `TLR_ADC2` +0x2080 [12] `SPARE_EN`, RW, reset 0x0 (R465). -/
abbrev R.TLR_ADC2_SPARE_EN (i : Nat) : Fld := ⟨0x18, 0, 0x2080 + 0x4 * i, 12, 1, 0x0⟩

/-- `TLR_ADC2` +0x2080 [15:13] `SPARE`, RW, reset 0x0 (R465). -/
abbrev R.TLR_ADC2_SPARE (i : Nat) : Fld := ⟨0x18, 0, 0x2080 + 0x4 * i, 13, 3, 0x0⟩

/-- `TLR_ADC2` +0x2080 [21:16] `SUBST`, RW, reset 0x0 (R465). -/
abbrev R.TLR_ADC2_SUBST (i : Nat) : Fld := ⟨0x18, 0, 0x2080 + 0x4 * i, 16, 6, 0x0⟩

/-- `TLR_LADDER2` +0x20A0 [11:0] `CODE`, RW, reset 0x20 (R465). -/
abbrev R.TLR_LADDER2_CODE (i : Nat) : Fld := ⟨0x18, 0, 0x20A0 + 0x4 * i, 0, 12, 0x20⟩

/-- `TLR_LADDER2` +0x20A0 [12] `SPARE_EN`, RW, reset 0x0 (R465). -/
abbrev R.TLR_LADDER2_SPARE_EN (i : Nat) : Fld := ⟨0x18, 0, 0x20A0 + 0x4 * i, 12, 1, 0x0⟩

/-- `TLR_LADDER2` +0x20A0 [15:13] `SPARE`, RW, reset 0x0 (R465). -/
abbrev R.TLR_LADDER2_SPARE (i : Nat) : Fld := ⟨0x18, 0, 0x20A0 + 0x4 * i, 13, 3, 0x0⟩

/-- `TLR_LADDER2` +0x20A0 [21:16] `SUBST`, RW, reset 0x0 (R465). -/
abbrev R.TLR_LADDER2_SUBST (i : Nat) : Fld := ⟨0x18, 0, 0x20A0 + 0x4 * i, 16, 6, 0x0⟩

/-- `TLR_WPLL2` +0x20A8 [11:0] `CODE`, RW, reset 0x402 (R465). -/
abbrev R.TLR_WPLL2_CODE : Fld := ⟨0x18, 0, 0x20A8, 0, 12, 0x402⟩

/-- `TLR_WPLL2` +0x20A8 [12] `SPARE_EN`, RW, reset 0x0 (R465). -/
abbrev R.TLR_WPLL2_SPARE_EN : Fld := ⟨0x18, 0, 0x20A8, 12, 1, 0x0⟩

/-- `TLR_WPLL2` +0x20A8 [15:13] `SPARE`, RW, reset 0x0 (R465). -/
abbrev R.TLR_WPLL2_SPARE : Fld := ⟨0x18, 0, 0x20A8, 13, 3, 0x0⟩

/-- `TLR_WPLL2` +0x20A8 [21:16] `SUBST`, RW, reset 0x0 (R465). -/
abbrev R.TLR_WPLL2_SUBST : Fld := ⟨0x18, 0, 0x20A8, 16, 6, 0x0⟩

/-- `TLR_WD2` +0x2120 [11:0] `CODE`, RW, reset 0x800 (R465). -/
abbrev R.TLR_WD2_CODE (i : Nat) : Fld := ⟨0x18, 0, 0x2120 + 0x4 * i, 0, 12, 0x800⟩

/-- `TLR_WD2` +0x2120 [12] `SPARE_EN`, RW, reset 0x0 (R465). -/
abbrev R.TLR_WD2_SPARE_EN (i : Nat) : Fld := ⟨0x18, 0, 0x2120 + 0x4 * i, 12, 1, 0x0⟩

/-- `TLR_WD2` +0x2120 [15:13] `SPARE`, RW, reset 0x0 (R465). -/
abbrev R.TLR_WD2_SPARE (i : Nat) : Fld := ⟨0x18, 0, 0x2120 + 0x4 * i, 13, 3, 0x0⟩

/-- `TLR_WD2` +0x2120 [21:16] `SUBST`, RW, reset 0x0 (R465). -/
abbrev R.TLR_WD2_SUBST (i : Nat) : Fld := ⟨0x18, 0, 0x2120 + 0x4 * i, 16, 6, 0x0⟩

/-- `TLR_ADC3` +0x20C0 [11:0] `CODE`, RW, reset 0x800 (R465). -/
abbrev R.TLR_ADC3_CODE (i : Nat) : Fld := ⟨0x18, 0, 0x20C0 + 0x4 * i, 0, 12, 0x800⟩

/-- `TLR_ADC3` +0x20C0 [12] `SPARE_EN`, RW, reset 0x0 (R465). -/
abbrev R.TLR_ADC3_SPARE_EN (i : Nat) : Fld := ⟨0x18, 0, 0x20C0 + 0x4 * i, 12, 1, 0x0⟩

/-- `TLR_ADC3` +0x20C0 [15:13] `SPARE`, RW, reset 0x0 (R465). -/
abbrev R.TLR_ADC3_SPARE (i : Nat) : Fld := ⟨0x18, 0, 0x20C0 + 0x4 * i, 13, 3, 0x0⟩

/-- `TLR_ADC3` +0x20C0 [21:16] `SUBST`, RW, reset 0x0 (R465). -/
abbrev R.TLR_ADC3_SUBST (i : Nat) : Fld := ⟨0x18, 0, 0x20C0 + 0x4 * i, 16, 6, 0x0⟩

/-- `TLR_LADDER3` +0x20E0 [11:0] `CODE`, RW, reset 0x20 (R465). -/
abbrev R.TLR_LADDER3_CODE (i : Nat) : Fld := ⟨0x18, 0, 0x20E0 + 0x4 * i, 0, 12, 0x20⟩

/-- `TLR_LADDER3` +0x20E0 [12] `SPARE_EN`, RW, reset 0x0 (R465). -/
abbrev R.TLR_LADDER3_SPARE_EN (i : Nat) : Fld := ⟨0x18, 0, 0x20E0 + 0x4 * i, 12, 1, 0x0⟩

/-- `TLR_LADDER3` +0x20E0 [15:13] `SPARE`, RW, reset 0x0 (R465). -/
abbrev R.TLR_LADDER3_SPARE (i : Nat) : Fld := ⟨0x18, 0, 0x20E0 + 0x4 * i, 13, 3, 0x0⟩

/-- `TLR_LADDER3` +0x20E0 [21:16] `SUBST`, RW, reset 0x0 (R465). -/
abbrev R.TLR_LADDER3_SUBST (i : Nat) : Fld := ⟨0x18, 0, 0x20E0 + 0x4 * i, 16, 6, 0x0⟩

/-- `TLR_WPLL3` +0x20E8 [11:0] `CODE`, RW, reset 0x402 (R465). -/
abbrev R.TLR_WPLL3_CODE : Fld := ⟨0x18, 0, 0x20E8, 0, 12, 0x402⟩

/-- `TLR_WPLL3` +0x20E8 [12] `SPARE_EN`, RW, reset 0x0 (R465). -/
abbrev R.TLR_WPLL3_SPARE_EN : Fld := ⟨0x18, 0, 0x20E8, 12, 1, 0x0⟩

/-- `TLR_WPLL3` +0x20E8 [15:13] `SPARE`, RW, reset 0x0 (R465). -/
abbrev R.TLR_WPLL3_SPARE : Fld := ⟨0x18, 0, 0x20E8, 13, 3, 0x0⟩

/-- `TLR_WPLL3` +0x20E8 [21:16] `SUBST`, RW, reset 0x0 (R465). -/
abbrev R.TLR_WPLL3_SUBST : Fld := ⟨0x18, 0, 0x20E8, 16, 6, 0x0⟩

/-- `TLR_WD3` +0x2130 [11:0] `CODE`, RW, reset 0x800 (R465). -/
abbrev R.TLR_WD3_CODE (i : Nat) : Fld := ⟨0x18, 0, 0x2130 + 0x4 * i, 0, 12, 0x800⟩

/-- `TLR_WD3` +0x2130 [12] `SPARE_EN`, RW, reset 0x0 (R465). -/
abbrev R.TLR_WD3_SPARE_EN (i : Nat) : Fld := ⟨0x18, 0, 0x2130 + 0x4 * i, 12, 1, 0x0⟩

/-- `TLR_WD3` +0x2130 [15:13] `SPARE`, RW, reset 0x0 (R465). -/
abbrev R.TLR_WD3_SPARE (i : Nat) : Fld := ⟨0x18, 0, 0x2130 + 0x4 * i, 13, 3, 0x0⟩

/-- `TLR_WD3` +0x2130 [21:16] `SUBST`, RW, reset 0x0 (R465). -/
abbrev R.TLR_WD3_SUBST (i : Nat) : Fld := ⟨0x18, 0, 0x2130 + 0x4 * i, 16, 6, 0x0⟩

/-- `TLR_ISNS` +0x2200 [11:0] `CODE`, RW, reset 0x800 (R465). -/
abbrev R.TLR_ISNS_CODE (i : Nat) : Fld := ⟨0x18, 0, 0x2200 + 0x4 * i, 0, 12, 0x800⟩

/-- `TLR_ISNS` +0x2200 [12] `SPARE_EN`, RW, reset 0x0 (R465). -/
abbrev R.TLR_ISNS_SPARE_EN (i : Nat) : Fld := ⟨0x18, 0, 0x2200 + 0x4 * i, 12, 1, 0x0⟩

/-- `TLR_ISNS` +0x2200 [15:13] `SPARE`, RW, reset 0x0 (R465). -/
abbrev R.TLR_ISNS_SPARE (i : Nat) : Fld := ⟨0x18, 0, 0x2200 + 0x4 * i, 13, 3, 0x0⟩

/-- `TLR_ISNS` +0x2200 [21:16] `SUBST`, RW, reset 0x0 (R465). -/
abbrev R.TLR_ISNS_SUBST (i : Nat) : Fld := ⟨0x18, 0, 0x2200 + 0x4 * i, 16, 6, 0x0⟩

/-- `TLR_IVCM` +0x220C [11:0] `CODE`, RW, reset 0x800 (R465). -/
abbrev R.TLR_IVCM_CODE (i : Nat) : Fld := ⟨0x18, 0, 0x220C + 0x4 * i, 0, 12, 0x800⟩

/-- `TLR_IVCM` +0x220C [12] `SPARE_EN`, RW, reset 0x0 (R465). -/
abbrev R.TLR_IVCM_SPARE_EN (i : Nat) : Fld := ⟨0x18, 0, 0x220C + 0x4 * i, 12, 1, 0x0⟩

/-- `TLR_IVCM` +0x220C [15:13] `SPARE`, RW, reset 0x0 (R465). -/
abbrev R.TLR_IVCM_SPARE (i : Nat) : Fld := ⟨0x18, 0, 0x220C + 0x4 * i, 13, 3, 0x0⟩

/-- `TLR_IVCM` +0x220C [21:16] `SUBST`, RW, reset 0x0 (R465). -/
abbrev R.TLR_IVCM_SUBST (i : Nat) : Fld := ⟨0x18, 0, 0x220C + 0x4 * i, 16, 6, 0x0⟩

/-- `TLR_SUPREF` +0x221C [11:0] `CODE`, RW, reset 0x20 (R465). -/
abbrev R.TLR_SUPREF_CODE : Fld := ⟨0x18, 0, 0x221C, 0, 12, 0x20⟩

/-- `TLR_SUPREF` +0x221C [12] `SPARE_EN`, RW, reset 0x0 (R465). -/
abbrev R.TLR_SUPREF_SPARE_EN : Fld := ⟨0x18, 0, 0x221C, 12, 1, 0x0⟩

/-- `TLR_SUPREF` +0x221C [15:13] `SPARE`, RW, reset 0x0 (R465). -/
abbrev R.TLR_SUPREF_SPARE : Fld := ⟨0x18, 0, 0x221C, 13, 3, 0x0⟩

/-- `TLR_SUPREF` +0x221C [21:16] `SUBST`, RW, reset 0x0 (R465). -/
abbrev R.TLR_SUPREF_SUBST : Fld := ⟨0x18, 0, 0x221C, 16, 6, 0x0⟩

/-- `TLR_PLL` +0x2240 [11:0] `CODE`, RW, reset 0x402 (R465). -/
abbrev R.TLR_PLL_CODE (i : Nat) : Fld := ⟨0x18, 0, 0x2240 + 0x4 * i, 0, 12, 0x402⟩

/-- `TLR_PLL` +0x2240 [12] `SPARE_EN`, RW, reset 0x0 (R465). -/
abbrev R.TLR_PLL_SPARE_EN (i : Nat) : Fld := ⟨0x18, 0, 0x2240 + 0x4 * i, 12, 1, 0x0⟩

/-- `TLR_PLL` +0x2240 [15:13] `SPARE`, RW, reset 0x0 (R465). -/
abbrev R.TLR_PLL_SPARE (i : Nat) : Fld := ⟨0x18, 0, 0x2240 + 0x4 * i, 13, 3, 0x0⟩

/-- `TLR_PLL` +0x2240 [21:16] `SUBST`, RW, reset 0x0 (R465). -/
abbrev R.TLR_PLL_SUBST (i : Nat) : Fld := ⟨0x18, 0, 0x2240 + 0x4 * i, 16, 6, 0x0⟩

/-- `TLR_SDPLL` +0x2254 [11:0] `CODE`, RW, reset 0x402 (R465). -/
abbrev R.TLR_SDPLL_CODE (i : Nat) : Fld := ⟨0x18, 0, 0x2254 + 0x4 * i, 0, 12, 0x402⟩

/-- `TLR_SDPLL` +0x2254 [12] `SPARE_EN`, RW, reset 0x0 (R465). -/
abbrev R.TLR_SDPLL_SPARE_EN (i : Nat) : Fld := ⟨0x18, 0, 0x2254 + 0x4 * i, 12, 1, 0x0⟩

/-- `TLR_SDPLL` +0x2254 [15:13] `SPARE`, RW, reset 0x0 (R465). -/
abbrev R.TLR_SDPLL_SPARE (i : Nat) : Fld := ⟨0x18, 0, 0x2254 + 0x4 * i, 13, 3, 0x0⟩

/-- `TLR_SDPLL` +0x2254 [21:16] `SUBST`, RW, reset 0x0 (R465). -/
abbrev R.TLR_SDPLL_SUBST (i : Nat) : Fld := ⟨0x18, 0, 0x2254 + 0x4 * i, 16, 6, 0x0⟩

/-- `TLR_DIODE` +0x2280 [11:0] `CODE`, RW, reset 0x20 (R465). -/
abbrev R.TLR_DIODE_CODE (i : Nat) : Fld := ⟨0x18, 0, 0x2280 + 0x4 * i, 0, 12, 0x20⟩

/-- `TLR_DIODE` +0x2280 [12] `SPARE_EN`, RW, reset 0x0 (R465). -/
abbrev R.TLR_DIODE_SPARE_EN (i : Nat) : Fld := ⟨0x18, 0, 0x2280 + 0x4 * i, 12, 1, 0x0⟩

/-- `TLR_DIODE` +0x2280 [15:13] `SPARE`, RW, reset 0x0 (R465). -/
abbrev R.TLR_DIODE_SPARE (i : Nat) : Fld := ⟨0x18, 0, 0x2280 + 0x4 * i, 13, 3, 0x0⟩

/-- `TLR_DIODE` +0x2280 [21:16] `SUBST`, RW, reset 0x0 (R465). -/
abbrev R.TLR_DIODE_SUBST (i : Nat) : Fld := ⟨0x18, 0, 0x2280 + 0x4 * i, 16, 6, 0x0⟩


/-- Rows of the `TFH` register table (R120), part 0. -/
def regRowsTFH0 : List RegRow :=
  [ ⟨0x0, 0x0, 1, 0, 1, 0x0, .rw⟩,
    ⟨0x4, 0x0, 1, 0, 16, 0x0, .ro⟩,
    ⟨0x8, 0x0, 1, 0, 6, 0x0, .rw⟩,
    ⟨0x8, 0x0, 1, 30, 1, 0x0, .wo⟩,
    ⟨0x8, 0x0, 1, 31, 1, 0x0, .wo⟩,
    ⟨0xC, 0x0, 1, 0, 12, 0x0, .ro⟩,
    ⟨0xC, 0x0, 1, 12, 2, 0x0, .ro⟩,
    ⟨0xC, 0x0, 1, 14, 1, 0x0, .ro⟩,
    ⟨0x10, 0x0, 1, 0, 1, 0x0, .w1c⟩,
    ⟨0x10, 0x0, 1, 1, 1, 0x0, .w1c⟩,
    ⟨0x10, 0x0, 1, 2, 1, 0x0, .w1c⟩,
    ⟨0x40, 0x0, 1, 0, 16, 0x0, .ro⟩,
    ⟨0x40, 0x0, 1, 16, 1, 0x0, .ro⟩,
    ⟨0x40, 0x0, 1, 31, 1, 0x0, .wo⟩,
    ⟨0x14, 0x0, 1, 0, 1, 0x0, .rw⟩,
    ⟨0x14, 0x0, 1, 1, 1, 0x0, .rw⟩,
    ⟨0x14, 0x0, 1, 2, 1, 0x0, .rw⟩ ]

/-- Rows of the `SEQ` register table (R138), part 0. -/
def regRowsSEQ0 : List RegRow :=
  [ ⟨0x0, 0x0, 1, 0, 1, 0x0, .rw⟩,
    ⟨0x0, 0x0, 1, 1, 1, 0x1, .rw⟩,
    ⟨0x4, 0x0, 1, 0, 16, 0x0, .ro⟩,
    ⟨0x8, 0x0, 1, 0, 3, 0x0, .ro⟩,
    ⟨0x8, 0x0, 1, 3, 1, 0x0, .ro⟩,
    ⟨0x8, 0x0, 1, 4, 6, 0x0, .ro⟩,
    ⟨0x8, 0x0, 1, 12, 12, 0x0, .ro⟩,
    ⟨0x8, 0x0, 1, 24, 8, 0x0, .ro⟩,
    ⟨0xC, 0x0, 1, 0, 1, 0x0, .w1c⟩,
    ⟨0xC, 0x0, 1, 1, 1, 0x0, .w1c⟩,
    ⟨0xC, 0x0, 1, 2, 1, 0x0, .w1c⟩,
    ⟨0xC, 0x0, 1, 3, 1, 0x0, .w1c⟩,
    ⟨0xC, 0x0, 1, 4, 1, 0x0, .w1c⟩,
    ⟨0xC, 0x0, 1, 5, 1, 0x0, .w1c⟩,
    ⟨0x14, 0x0, 1, 0, 12, 0x0, .ro⟩,
    ⟨0x14, 0x0, 1, 12, 4, 0x0, .ro⟩,
    ⟨0x14, 0x0, 1, 16, 3, 0x0, .ro⟩,
    ⟨0x14, 0x0, 1, 19, 6, 0x0, .ro⟩,
    ⟨0x18, 0x0, 1, 0, 8, 0x0, .ro⟩,
    ⟨0x18, 0x0, 1, 8, 4, 0x0, .ro⟩,
    ⟨0x1C, 0x0, 1, 0, 24, 0x0, .ro⟩,
    ⟨0x1C, 0x0, 1, 24, 8, 0x0, .ro⟩,
    ⟨0x80, 0x0, 1, 0, 12, 0x0, .rw⟩,
    ⟨0x84, 0x4, 4, 0, 32, 0x0, .ro⟩ ]

/-- Rows of the `SEQ` register table (R138), part 1. -/
def regRowsSEQ1 : List RegRow :=
  [ ⟨0x94, 0x0, 1, 0, 4, 0x0, .ro⟩,
    ⟨0x40, 0x0, 1, 0, 16, 0x0, .ro⟩,
    ⟨0x40, 0x0, 1, 16, 1, 0x0, .ro⟩,
    ⟨0x40, 0x0, 1, 31, 1, 0x0, .wo⟩,
    ⟨0x44, 0x0, 1, 0, 16, 0x0, .ro⟩,
    ⟨0x44, 0x0, 1, 16, 1, 0x0, .ro⟩,
    ⟨0x44, 0x0, 1, 31, 1, 0x0, .wo⟩,
    ⟨0x48, 0x0, 1, 0, 16, 0x0, .ro⟩,
    ⟨0x48, 0x0, 1, 16, 1, 0x0, .ro⟩,
    ⟨0x48, 0x0, 1, 31, 1, 0x0, .wo⟩,
    ⟨0x4C, 0x0, 1, 0, 16, 0x0, .ro⟩,
    ⟨0x4C, 0x0, 1, 16, 1, 0x0, .ro⟩,
    ⟨0x4C, 0x0, 1, 31, 1, 0x0, .wo⟩,
    ⟨0x50, 0x0, 1, 0, 16, 0x0, .ro⟩,
    ⟨0x50, 0x0, 1, 16, 1, 0x0, .ro⟩,
    ⟨0x50, 0x0, 1, 31, 1, 0x0, .wo⟩,
    ⟨0x10, 0x0, 1, 0, 1, 0x0, .rw⟩,
    ⟨0x10, 0x0, 1, 1, 1, 0x0, .rw⟩,
    ⟨0x10, 0x0, 1, 2, 1, 0x0, .rw⟩,
    ⟨0x10, 0x0, 1, 3, 1, 0x0, .rw⟩,
    ⟨0x10, 0x0, 1, 4, 1, 0x0, .rw⟩,
    ⟨0x10, 0x0, 1, 5, 1, 0x0, .rw⟩ ]

/-- Rows of the `SRV` register table (R161), part 0. -/
def regRowsSRV0 : List RegRow :=
  [ ⟨0x0, 0x0, 1, 0, 1, 0x0, .rw⟩,
    ⟨0x0, 0x0, 1, 1, 1, 0x1, .rw⟩,
    ⟨0x0, 0x0, 1, 2, 1, 0x1, .rw⟩,
    ⟨0x0, 0x0, 1, 3, 1, 0x1, .rw⟩,
    ⟨0x0, 0x0, 1, 4, 1, 0x1, .rw⟩,
    ⟨0x4, 0x0, 1, 0, 16, 0x0, .ro⟩,
    ⟨0x8, 0x0, 1, 0, 4, 0x0, .ro⟩,
    ⟨0x8, 0x0, 1, 4, 1, 0x0, .ro⟩,
    ⟨0x8, 0x0, 1, 5, 1, 0x0, .ro⟩,
    ⟨0x8, 0x0, 1, 6, 4, 0x0, .ro⟩,
    ⟨0x8, 0x0, 1, 10, 1, 0x0, .ro⟩,
    ⟨0x8, 0x0, 1, 11, 1, 0x0, .ro⟩,
    ⟨0xC, 0x0, 1, 0, 1, 0x0, .w1c⟩,
    ⟨0xC, 0x0, 1, 1, 1, 0x0, .w1c⟩,
    ⟨0xC, 0x0, 1, 2, 1, 0x0, .w1c⟩,
    ⟨0xC, 0x0, 1, 3, 1, 0x0, .w1c⟩,
    ⟨0xC, 0x0, 1, 4, 1, 0x0, .w1c⟩,
    ⟨0xC, 0x0, 1, 5, 1, 0x0, .w1c⟩,
    ⟨0xC, 0x0, 1, 6, 1, 0x0, .w1c⟩,
    ⟨0xC, 0x0, 1, 7, 1, 0x0, .w1c⟩,
    ⟨0xC, 0x0, 1, 8, 1, 0x0, .w1c⟩,
    ⟨0x14, 0x0, 1, 0, 24, 0x0, .ro⟩,
    ⟨0x18, 0x0, 1, 0, 16, 0x0, .rw⟩,
    ⟨0x1C, 0x0, 1, 0, 24, 0x0, .ro⟩ ]

/-- Rows of the `SRV` register table (R161), part 1. -/
def regRowsSRV1 : List RegRow :=
  [ ⟨0x20, 0x0, 1, 0, 16, 0x0, .ro⟩,
    ⟨0x20, 0x0, 1, 16, 16, 0x0, .ro⟩,
    ⟨0x24, 0x0, 1, 0, 2, 0x1, .rw⟩,
    ⟨0x24, 0x0, 1, 8, 6, 0x8, .rw⟩,
    ⟨0x24, 0x0, 1, 16, 4, 0x4, .rw⟩,
    ⟨0x24, 0x0, 1, 24, 8, 0x80, .rw⟩,
    ⟨0x28, 0x0, 1, 0, 10, 0xCD, .rw⟩,
    ⟨0x28, 0x0, 1, 12, 4, 0x3, .rw⟩,
    ⟨0x28, 0x0, 1, 16, 10, 0x199, .rw⟩,
    ⟨0x28, 0x0, 1, 28, 4, 0x4, .rw⟩,
    ⟨0x2C, 0x0, 1, 0, 16, 0x7D0, .rw⟩,
    ⟨0x2C, 0x0, 1, 16, 8, 0x10, .rw⟩,
    ⟨0x2C, 0x0, 1, 24, 8, 0x40, .rw⟩,
    ⟨0x30, 0x0, 1, 0, 8, 0x64, .rw⟩,
    ⟨0x30, 0x0, 1, 8, 8, 0x96, .rw⟩,
    ⟨0x30, 0x0, 1, 16, 8, 0xC8, .rw⟩,
    ⟨0x34, 0x0, 1, 0, 16, 0x0, .rw⟩,
    ⟨0x34, 0x0, 1, 16, 8, 0x28, .rw⟩,
    ⟨0x38, 0x0, 1, 0, 32, 0x0, .ro⟩,
    ⟨0x100, 0x8, 10, 0, 16, 0x0, .rw⟩,
    ⟨0x100, 0x8, 10, 16, 16, 0x0, .rw⟩,
    ⟨0x104, 0x8, 10, 0, 16, 0x1000, .rw⟩,
    ⟨0x104, 0x8, 10, 16, 16, 0x1000, .rw⟩,
    ⟨0x40, 0x0, 1, 0, 16, 0x0, .ro⟩ ]

/-- Rows of the `SRV` register table (R161), part 2. -/
def regRowsSRV2 : List RegRow :=
  [ ⟨0x40, 0x0, 1, 16, 1, 0x0, .ro⟩,
    ⟨0x40, 0x0, 1, 31, 1, 0x0, .wo⟩,
    ⟨0x44, 0x0, 1, 0, 16, 0x0, .ro⟩,
    ⟨0x44, 0x0, 1, 16, 1, 0x0, .ro⟩,
    ⟨0x44, 0x0, 1, 31, 1, 0x0, .wo⟩,
    ⟨0x48, 0x0, 1, 0, 16, 0x0, .ro⟩,
    ⟨0x48, 0x0, 1, 16, 1, 0x0, .ro⟩,
    ⟨0x48, 0x0, 1, 31, 1, 0x0, .wo⟩,
    ⟨0x4C, 0x0, 1, 0, 16, 0x0, .ro⟩,
    ⟨0x4C, 0x0, 1, 16, 1, 0x0, .ro⟩,
    ⟨0x4C, 0x0, 1, 31, 1, 0x0, .wo⟩,
    ⟨0x50, 0x0, 1, 0, 16, 0x0, .ro⟩,
    ⟨0x50, 0x0, 1, 16, 1, 0x0, .ro⟩,
    ⟨0x50, 0x0, 1, 31, 1, 0x0, .wo⟩,
    ⟨0x54, 0x0, 1, 0, 16, 0x0, .ro⟩,
    ⟨0x54, 0x0, 1, 16, 1, 0x0, .ro⟩,
    ⟨0x54, 0x0, 1, 31, 1, 0x0, .wo⟩,
    ⟨0x58, 0x0, 1, 0, 16, 0x0, .ro⟩,
    ⟨0x58, 0x0, 1, 16, 1, 0x0, .ro⟩,
    ⟨0x58, 0x0, 1, 31, 1, 0x0, .wo⟩,
    ⟨0x5C, 0x0, 1, 0, 16, 0x0, .ro⟩,
    ⟨0x5C, 0x0, 1, 16, 1, 0x0, .ro⟩,
    ⟨0x5C, 0x0, 1, 31, 1, 0x0, .wo⟩,
    ⟨0x10, 0x0, 1, 0, 1, 0x0, .rw⟩ ]

/-- Rows of the `SRV` register table (R161), part 3. -/
def regRowsSRV3 : List RegRow :=
  [ ⟨0x10, 0x0, 1, 1, 1, 0x0, .rw⟩,
    ⟨0x10, 0x0, 1, 2, 1, 0x0, .rw⟩,
    ⟨0x10, 0x0, 1, 3, 1, 0x0, .rw⟩,
    ⟨0x10, 0x0, 1, 4, 1, 0x0, .rw⟩,
    ⟨0x10, 0x0, 1, 5, 1, 0x0, .rw⟩,
    ⟨0x10, 0x0, 1, 6, 1, 0x0, .rw⟩,
    ⟨0x10, 0x0, 1, 7, 1, 0x0, .rw⟩,
    ⟨0x10, 0x0, 1, 8, 1, 0x0, .rw⟩ ]

/-- Rows of the `TRZ` register table (R193), part 0. -/
def regRowsTRZ0 : List RegRow :=
  [ ⟨0x0, 0x0, 1, 0, 1, 0x0, .rw⟩,
    ⟨0x0, 0x0, 1, 1, 1, 0x1, .rw⟩,
    ⟨0x0, 0x0, 1, 2, 1, 0x1, .rw⟩,
    ⟨0x0, 0x0, 1, 3, 1, 0x1, .rw⟩,
    ⟨0x4, 0x0, 1, 0, 16, 0x0, .ro⟩,
    ⟨0x8, 0x0, 1, 0, 2, 0x0, .ro⟩,
    ⟨0x8, 0x0, 1, 2, 6, 0x0, .ro⟩,
    ⟨0x8, 0x0, 1, 8, 1, 0x0, .ro⟩,
    ⟨0x8, 0x0, 1, 16, 8, 0x0, .ro⟩,
    ⟨0xC, 0x0, 1, 0, 1, 0x0, .w1c⟩,
    ⟨0xC, 0x0, 1, 1, 1, 0x0, .w1c⟩,
    ⟨0xC, 0x0, 1, 2, 1, 0x0, .w1c⟩,
    ⟨0xC, 0x0, 1, 3, 1, 0x0, .w1c⟩,
    ⟨0xC, 0x0, 1, 4, 1, 0x0, .w1c⟩,
    ⟨0xC, 0x0, 1, 5, 1, 0x0, .w1c⟩,
    ⟨0xC, 0x0, 1, 6, 1, 0x0, .w1c⟩,
    ⟨0x18, 0x4, 2, 0, 32, 0x0, .w1c⟩,
    ⟨0x20, 0x4, 2, 0, 32, 0x0, .w1c⟩,
    ⟨0x28, 0x0, 1, 0, 13, 0x0, .ro⟩,
    ⟨0x28, 0x0, 1, 13, 5, 0x0, .ro⟩,
    ⟨0x28, 0x0, 1, 18, 3, 0x0, .ro⟩,
    ⟨0x28, 0x0, 1, 21, 6, 0x0, .ro⟩,
    ⟨0x30, 0x0, 1, 0, 4, 0x6, .rw⟩,
    ⟨0x30, 0x0, 1, 8, 8, 0xA, .rw⟩ ]

/-- Rows of the `TRZ` register table (R193), part 1. -/
def regRowsTRZ1 : List RegRow :=
  [ ⟨0x30, 0x0, 1, 16, 16, 0x1F4, .rw⟩,
    ⟨0x34, 0x0, 1, 0, 4, 0x0, .ro⟩,
    ⟨0x80, 0x0, 1, 0, 13, 0x0, .rw⟩,
    ⟨0x84, 0x4, 5, 0, 32, 0x0, .ro⟩,
    ⟨0x98, 0x0, 1, 0, 5, 0x0, .ro⟩,
    ⟨0x40, 0x0, 1, 0, 16, 0x0, .ro⟩,
    ⟨0x40, 0x0, 1, 16, 1, 0x0, .ro⟩,
    ⟨0x40, 0x0, 1, 31, 1, 0x0, .wo⟩,
    ⟨0x44, 0x0, 1, 0, 16, 0x0, .ro⟩,
    ⟨0x44, 0x0, 1, 16, 1, 0x0, .ro⟩,
    ⟨0x44, 0x0, 1, 31, 1, 0x0, .wo⟩,
    ⟨0x200, 0x4, 64, 0, 16, 0x0, .ro⟩,
    ⟨0x200, 0x4, 64, 16, 1, 0x0, .ro⟩,
    ⟨0x200, 0x4, 64, 31, 1, 0x0, .wo⟩,
    ⟨0x300, 0x4, 64, 0, 16, 0x0, .ro⟩,
    ⟨0x300, 0x4, 64, 16, 1, 0x0, .ro⟩,
    ⟨0x300, 0x4, 64, 31, 1, 0x0, .wo⟩,
    ⟨0x10, 0x0, 1, 0, 1, 0x0, .rw⟩,
    ⟨0x10, 0x0, 1, 1, 1, 0x0, .rw⟩,
    ⟨0x10, 0x0, 1, 2, 1, 0x0, .rw⟩,
    ⟨0x10, 0x0, 1, 3, 1, 0x0, .rw⟩,
    ⟨0x10, 0x0, 1, 4, 1, 0x0, .rw⟩,
    ⟨0x10, 0x0, 1, 5, 1, 0x0, .rw⟩,
    ⟨0x10, 0x0, 1, 6, 1, 0x0, .rw⟩ ]

/-- Rows of the `CRL` register table (R223), part 0. -/
def regRowsCRL0 : List RegRow :=
  [ ⟨0x0, 0x0, 1, 0, 1, 0x0, .rw⟩,
    ⟨0x0, 0x0, 1, 1, 1, 0x1, .rw⟩,
    ⟨0x0, 0x0, 1, 2, 1, 0x0, .rw⟩,
    ⟨0x0, 0x0, 1, 3, 2, 0x0, .rw⟩,
    ⟨0x4, 0x0, 1, 0, 16, 0x0, .ro⟩,
    ⟨0x8, 0x0, 1, 0, 4, 0x0, .ro⟩,
    ⟨0x8, 0x0, 1, 4, 2, 0x0, .ro⟩,
    ⟨0x8, 0x0, 1, 6, 1, 0x0, .ro⟩,
    ⟨0x8, 0x0, 1, 7, 1, 0x0, .ro⟩,
    ⟨0x8, 0x0, 1, 8, 2, 0x0, .ro⟩,
    ⟨0x8, 0x0, 1, 10, 3, 0x0, .ro⟩,
    ⟨0x8, 0x0, 1, 13, 1, 0x0, .ro⟩,
    ⟨0x8, 0x0, 1, 14, 1, 0x0, .ro⟩,
    ⟨0x8, 0x0, 1, 15, 1, 0x0, .ro⟩,
    ⟨0x8, 0x0, 1, 16, 1, 0x0, .ro⟩,
    ⟨0xC, 0x0, 1, 0, 1, 0x0, .w1c⟩,
    ⟨0xC, 0x0, 1, 1, 1, 0x0, .w1c⟩,
    ⟨0xC, 0x0, 1, 2, 1, 0x0, .w1c⟩,
    ⟨0xC, 0x0, 1, 3, 1, 0x0, .w1c⟩,
    ⟨0xC, 0x0, 1, 4, 1, 0x0, .w1c⟩,
    ⟨0xC, 0x0, 1, 5, 1, 0x0, .w1c⟩,
    ⟨0xC, 0x0, 1, 6, 1, 0x0, .w1c⟩,
    ⟨0xC, 0x0, 1, 7, 1, 0x0, .w1c⟩,
    ⟨0xC, 0x0, 1, 8, 1, 0x0, .w1c⟩ ]

/-- Rows of the `CRL` register table (R223), part 1. -/
def regRowsCRL1 : List RegRow :=
  [ ⟨0xC, 0x0, 1, 9, 1, 0x0, .w1c⟩,
    ⟨0x14, 0x0, 1, 0, 32, 0x0, .ro⟩,
    ⟨0x18, 0x0, 1, 0, 16, 0x0, .ro⟩,
    ⟨0x18, 0x0, 1, 16, 16, 0x0, .ro⟩,
    ⟨0x1C, 0x0, 1, 0, 8, 0x0, .ro⟩,
    ⟨0x1C, 0x0, 1, 8, 8, 0x0, .ro⟩,
    ⟨0x1C, 0x0, 1, 16, 8, 0x0, .ro⟩,
    ⟨0x20, 0x0, 1, 0, 5, 0x8, .rw⟩,
    ⟨0x40, 0x0, 1, 0, 16, 0x0, .ro⟩,
    ⟨0x40, 0x0, 1, 16, 1, 0x0, .ro⟩,
    ⟨0x40, 0x0, 1, 31, 1, 0x0, .wo⟩,
    ⟨0x44, 0x0, 1, 0, 16, 0x0, .ro⟩,
    ⟨0x44, 0x0, 1, 16, 1, 0x0, .ro⟩,
    ⟨0x44, 0x0, 1, 31, 1, 0x0, .wo⟩,
    ⟨0x48, 0x0, 1, 0, 16, 0x0, .ro⟩,
    ⟨0x48, 0x0, 1, 16, 1, 0x0, .ro⟩,
    ⟨0x48, 0x0, 1, 31, 1, 0x0, .wo⟩,
    ⟨0x4C, 0x0, 1, 0, 16, 0x0, .ro⟩,
    ⟨0x4C, 0x0, 1, 16, 1, 0x0, .ro⟩,
    ⟨0x4C, 0x0, 1, 31, 1, 0x0, .wo⟩,
    ⟨0x50, 0x0, 1, 0, 16, 0x0, .ro⟩,
    ⟨0x50, 0x0, 1, 16, 1, 0x0, .ro⟩,
    ⟨0x50, 0x0, 1, 31, 1, 0x0, .wo⟩,
    ⟨0x10, 0x0, 1, 0, 1, 0x0, .rw⟩ ]

/-- Rows of the `CRL` register table (R223), part 2. -/
def regRowsCRL2 : List RegRow :=
  [ ⟨0x10, 0x0, 1, 1, 1, 0x0, .rw⟩,
    ⟨0x10, 0x0, 1, 2, 1, 0x0, .rw⟩,
    ⟨0x10, 0x0, 1, 3, 1, 0x0, .rw⟩,
    ⟨0x10, 0x0, 1, 4, 1, 0x0, .rw⟩,
    ⟨0x10, 0x0, 1, 5, 1, 0x0, .rw⟩,
    ⟨0x10, 0x0, 1, 6, 1, 0x0, .rw⟩,
    ⟨0x10, 0x0, 1, 7, 1, 0x0, .rw⟩,
    ⟨0x10, 0x0, 1, 8, 1, 0x0, .rw⟩,
    ⟨0x10, 0x0, 1, 9, 1, 0x0, .rw⟩ ]

/-- Rows of the `STM` register table (R242), part 0. -/
def regRowsSTM0 : List RegRow :=
  [ ⟨0x0, 0x0, 1, 0, 1, 0x0, .rw⟩,
    ⟨0x0, 0x0, 1, 1, 1, 0x0, .wo⟩,
    ⟨0x4, 0x0, 1, 0, 16, 0x0, .ro⟩,
    ⟨0x8, 0x0, 1, 0, 1, 0x0, .ro⟩,
    ⟨0x8, 0x0, 1, 1, 1, 0x0, .ro⟩,
    ⟨0x8, 0x0, 1, 2, 1, 0x0, .ro⟩,
    ⟨0x8, 0x0, 1, 3, 4, 0x0, .ro⟩,
    ⟨0x8, 0x0, 1, 7, 4, 0x0, .ro⟩,
    ⟨0x8, 0x0, 1, 11, 1, 0x0, .ro⟩,
    ⟨0x8, 0x0, 1, 12, 1, 0x0, .ro⟩,
    ⟨0x8, 0x0, 1, 13, 1, 0x0, .ro⟩,
    ⟨0x8, 0x0, 1, 14, 1, 0x0, .ro⟩,
    ⟨0x8, 0x0, 1, 15, 1, 0x0, .ro⟩,
    ⟨0x8, 0x0, 1, 16, 1, 0x0, .ro⟩,
    ⟨0x8, 0x0, 1, 17, 4, 0x0, .ro⟩,
    ⟨0x8, 0x0, 1, 21, 4, 0x0, .w1c⟩,
    ⟨0x8, 0x0, 1, 25, 1, 0x0, .ro⟩,
    ⟨0xC, 0x0, 1, 0, 1, 0x0, .w1c⟩,
    ⟨0xC, 0x0, 1, 1, 1, 0x0, .w1c⟩,
    ⟨0xC, 0x0, 1, 2, 1, 0x0, .w1c⟩,
    ⟨0xC, 0x0, 1, 3, 1, 0x0, .w1c⟩,
    ⟨0xC, 0x0, 1, 4, 1, 0x0, .w1c⟩,
    ⟨0xC, 0x0, 1, 5, 1, 0x0, .w1c⟩,
    ⟨0xC, 0x0, 1, 6, 1, 0x0, .w1c⟩ ]

/-- Rows of the `STM` register table (R242), part 1. -/
def regRowsSTM1 : List RegRow :=
  [ ⟨0xC, 0x0, 1, 7, 1, 0x0, .w1c⟩,
    ⟨0xC, 0x0, 1, 8, 1, 0x0, .w1c⟩,
    ⟨0xC, 0x0, 1, 9, 1, 0x0, .w1c⟩,
    ⟨0xC, 0x0, 1, 10, 1, 0x0, .w1c⟩,
    ⟨0xC, 0x0, 1, 11, 1, 0x0, .w1c⟩,
    ⟨0x14, 0x0, 1, 0, 16, 0x0, .ro⟩,
    ⟨0x14, 0x0, 1, 16, 16, 0x0, .ro⟩,
    ⟨0x1C, 0x0, 1, 0, 1, 0x0, .ro⟩,
    ⟨0x1C, 0x0, 1, 1, 2, 0x0, .ro⟩,
    ⟨0x1C, 0x0, 1, 3, 4, 0x0, .ro⟩,
    ⟨0x1C, 0x0, 1, 7, 4, 0x0, .ro⟩,
    ⟨0x1C, 0x0, 1, 16, 16, 0x0, .ro⟩,
    ⟨0x20, 0x0, 1, 0, 2, 0x0, .rw⟩,
    ⟨0x20, 0x0, 1, 2, 2, 0x0, .rw⟩,
    ⟨0x20, 0x0, 1, 31, 1, 0x0, .wo⟩,
    ⟨0x24, 0x0, 1, 0, 16, 0x0, .ro⟩,
    ⟨0x24, 0x0, 1, 16, 16, 0x0, .ro⟩,
    ⟨0x28, 0x4, 4, 0, 16, 0x0, .ro⟩,
    ⟨0x28, 0x4, 4, 16, 1, 0x0, .ro⟩,
    ⟨0x40, 0x0, 1, 0, 16, 0x0, .ro⟩,
    ⟨0x40, 0x0, 1, 16, 1, 0x0, .ro⟩,
    ⟨0x40, 0x0, 1, 31, 1, 0x0, .wo⟩,
    ⟨0x44, 0x0, 1, 0, 16, 0x0, .ro⟩,
    ⟨0x44, 0x0, 1, 16, 1, 0x0, .ro⟩ ]

/-- Rows of the `STM` register table (R242), part 2. -/
def regRowsSTM2 : List RegRow :=
  [ ⟨0x44, 0x0, 1, 31, 1, 0x0, .wo⟩,
    ⟨0x48, 0x0, 1, 0, 16, 0x0, .ro⟩,
    ⟨0x48, 0x0, 1, 16, 1, 0x0, .ro⟩,
    ⟨0x48, 0x0, 1, 31, 1, 0x0, .wo⟩,
    ⟨0x4C, 0x0, 1, 0, 16, 0x0, .ro⟩,
    ⟨0x4C, 0x0, 1, 16, 1, 0x0, .ro⟩,
    ⟨0x4C, 0x0, 1, 31, 1, 0x0, .wo⟩,
    ⟨0x50, 0x0, 1, 0, 16, 0x0, .ro⟩,
    ⟨0x50, 0x0, 1, 16, 1, 0x0, .ro⟩,
    ⟨0x50, 0x0, 1, 31, 1, 0x0, .wo⟩,
    ⟨0x10, 0x0, 1, 0, 1, 0x0, .rw⟩,
    ⟨0x10, 0x0, 1, 1, 1, 0x0, .rw⟩,
    ⟨0x10, 0x0, 1, 2, 1, 0x0, .rw⟩,
    ⟨0x10, 0x0, 1, 3, 1, 0x0, .rw⟩,
    ⟨0x10, 0x0, 1, 4, 1, 0x0, .rw⟩,
    ⟨0x10, 0x0, 1, 5, 1, 0x0, .rw⟩,
    ⟨0x10, 0x0, 1, 6, 1, 0x0, .rw⟩,
    ⟨0x10, 0x0, 1, 7, 1, 0x0, .rw⟩,
    ⟨0x10, 0x0, 1, 8, 1, 0x0, .rw⟩,
    ⟨0x10, 0x0, 1, 9, 1, 0x0, .rw⟩,
    ⟨0x10, 0x0, 1, 10, 1, 0x0, .rw⟩,
    ⟨0x10, 0x0, 1, 11, 1, 0x0, .rw⟩ ]

/-- Rows of the `MMG` register table (R276), part 0. -/
def regRowsMMG0 : List RegRow :=
  [ ⟨0x0, 0x0, 1, 0, 1, 0x0, .rw⟩,
    ⟨0x0, 0x0, 1, 1, 1, 0x0, .rw⟩,
    ⟨0x0, 0x0, 1, 2, 1, 0x1, .rw⟩,
    ⟨0x0, 0x0, 1, 3, 1, 0x1, .rw⟩,
    ⟨0x4, 0x0, 1, 0, 16, 0x0, .ro⟩,
    ⟨0x8, 0x0, 1, 0, 4, 0x0, .ro⟩,
    ⟨0x8, 0x0, 1, 4, 4, 0x0, .ro⟩,
    ⟨0x8, 0x0, 1, 8, 4, 0x0, .ro⟩,
    ⟨0x8, 0x0, 1, 12, 1, 0x0, .ro⟩,
    ⟨0x8, 0x0, 1, 13, 1, 0x0, .ro⟩,
    ⟨0xC, 0x0, 1, 0, 1, 0x0, .w1c⟩,
    ⟨0xC, 0x0, 1, 1, 1, 0x0, .w1c⟩,
    ⟨0xC, 0x0, 1, 2, 1, 0x0, .w1c⟩,
    ⟨0xC, 0x0, 1, 3, 1, 0x0, .w1c⟩,
    ⟨0xC, 0x0, 1, 4, 1, 0x0, .w1c⟩,
    ⟨0xC, 0x0, 1, 5, 1, 0x0, .w1c⟩,
    ⟨0xC, 0x0, 1, 6, 1, 0x0, .w1c⟩,
    ⟨0xC, 0x0, 1, 7, 1, 0x0, .w1c⟩,
    ⟨0xC, 0x0, 1, 8, 1, 0x0, .w1c⟩,
    ⟨0x14, 0x0, 1, 0, 8, 0xF, .rw⟩,
    ⟨0x14, 0x0, 1, 8, 16, 0x0, .rw⟩,
    ⟨0x14, 0x0, 1, 24, 8, 0xA, .rw⟩,
    ⟨0x20, 0x4, 4, 0, 20, 0x0, .ro⟩,
    ⟨0x30, 0x4, 4, 0, 20, 0x0, .ro⟩ ]

/-- Rows of the `MMG` register table (R276), part 1. -/
def regRowsMMG1 : List RegRow :=
  [ ⟨0x40, 0x0, 1, 0, 16, 0x0, .ro⟩,
    ⟨0x40, 0x0, 1, 16, 1, 0x0, .ro⟩,
    ⟨0x40, 0x0, 1, 31, 1, 0x0, .wo⟩,
    ⟨0x44, 0x0, 1, 0, 16, 0x0, .ro⟩,
    ⟨0x44, 0x0, 1, 16, 1, 0x0, .ro⟩,
    ⟨0x44, 0x0, 1, 31, 1, 0x0, .wo⟩,
    ⟨0x48, 0x0, 1, 0, 16, 0x0, .ro⟩,
    ⟨0x48, 0x0, 1, 16, 1, 0x0, .ro⟩,
    ⟨0x48, 0x0, 1, 31, 1, 0x0, .wo⟩,
    ⟨0x4C, 0x0, 1, 0, 16, 0x0, .ro⟩,
    ⟨0x4C, 0x0, 1, 16, 1, 0x0, .ro⟩,
    ⟨0x4C, 0x0, 1, 31, 1, 0x0, .wo⟩,
    ⟨0x50, 0x0, 1, 0, 16, 0x0, .ro⟩,
    ⟨0x50, 0x0, 1, 16, 1, 0x0, .ro⟩,
    ⟨0x50, 0x0, 1, 31, 1, 0x0, .wo⟩,
    ⟨0x54, 0x0, 1, 0, 16, 0x0, .ro⟩,
    ⟨0x54, 0x0, 1, 16, 1, 0x0, .ro⟩,
    ⟨0x54, 0x0, 1, 31, 1, 0x0, .wo⟩,
    ⟨0x10, 0x0, 1, 0, 1, 0x0, .rw⟩,
    ⟨0x10, 0x0, 1, 1, 1, 0x0, .rw⟩,
    ⟨0x10, 0x0, 1, 2, 1, 0x0, .rw⟩,
    ⟨0x10, 0x0, 1, 3, 1, 0x0, .rw⟩,
    ⟨0x10, 0x0, 1, 4, 1, 0x0, .rw⟩,
    ⟨0x10, 0x0, 1, 5, 1, 0x0, .rw⟩ ]

/-- Rows of the `MMG` register table (R276), part 2. -/
def regRowsMMG2 : List RegRow :=
  [ ⟨0x10, 0x0, 1, 6, 1, 0x0, .rw⟩,
    ⟨0x10, 0x0, 1, 7, 1, 0x0, .rw⟩,
    ⟨0x10, 0x0, 1, 8, 1, 0x0, .rw⟩ ]

/-- Rows of the `CMD` register table (R306), part 0. -/
def regRowsCMD0 : List RegRow :=
  [ ⟨0x0, 0x0, 1, 0, 1, 0x0, .rw⟩,
    ⟨0x0, 0x0, 1, 1, 1, 0x0, .rw⟩,
    ⟨0x4, 0x0, 1, 0, 16, 0x0, .ro⟩,
    ⟨0x8, 0x0, 1, 0, 9, 0x0, .ro⟩,
    ⟨0x8, 0x0, 1, 9, 1, 0x0, .ro⟩,
    ⟨0x8, 0x0, 1, 10, 5, 0x0, .ro⟩,
    ⟨0xC, 0x0, 1, 0, 1, 0x0, .w1c⟩,
    ⟨0xC, 0x0, 1, 1, 1, 0x0, .w1c⟩,
    ⟨0xC, 0x0, 1, 2, 1, 0x0, .w1c⟩,
    ⟨0xC, 0x0, 1, 3, 1, 0x0, .w1c⟩,
    ⟨0xC, 0x0, 1, 4, 1, 0x0, .w1c⟩,
    ⟨0x14, 0x0, 1, 0, 15, 0x0, .ro⟩,
    ⟨0x14, 0x0, 1, 16, 15, 0x0, .ro⟩,
    ⟨0x14, 0x0, 1, 31, 1, 0x0, .wo⟩,
    ⟨0x18, 0x0, 1, 0, 18, 0x0, .ro⟩,
    ⟨0x1C, 0x0, 1, 0, 16, 0x7D0, .rw⟩,
    ⟨0x1C, 0x0, 1, 16, 8, 0x4, .rw⟩,
    ⟨0x20, 0x4, 4, 0, 12, 0x0, .ro⟩,
    ⟨0x20, 0x4, 4, 12, 1, 0x0, .ro⟩,
    ⟨0x20, 0x4, 4, 13, 3, 0x0, .ro⟩,
    ⟨0x40, 0x0, 1, 0, 16, 0x0, .ro⟩,
    ⟨0x40, 0x0, 1, 16, 1, 0x0, .ro⟩,
    ⟨0x40, 0x0, 1, 31, 1, 0x0, .wo⟩,
    ⟨0x44, 0x0, 1, 0, 16, 0x0, .ro⟩ ]

/-- Rows of the `CMD` register table (R306), part 1. -/
def regRowsCMD1 : List RegRow :=
  [ ⟨0x44, 0x0, 1, 16, 1, 0x0, .ro⟩,
    ⟨0x44, 0x0, 1, 31, 1, 0x0, .wo⟩,
    ⟨0x48, 0x0, 1, 0, 16, 0x0, .ro⟩,
    ⟨0x48, 0x0, 1, 16, 1, 0x0, .ro⟩,
    ⟨0x48, 0x0, 1, 31, 1, 0x0, .wo⟩,
    ⟨0x4C, 0x0, 1, 0, 16, 0x0, .ro⟩,
    ⟨0x4C, 0x0, 1, 16, 1, 0x0, .ro⟩,
    ⟨0x4C, 0x0, 1, 31, 1, 0x0, .wo⟩,
    ⟨0x50, 0x0, 1, 0, 16, 0x0, .ro⟩,
    ⟨0x50, 0x0, 1, 16, 1, 0x0, .ro⟩,
    ⟨0x50, 0x0, 1, 31, 1, 0x0, .wo⟩,
    ⟨0x10, 0x0, 1, 0, 1, 0x0, .rw⟩,
    ⟨0x10, 0x0, 1, 1, 1, 0x0, .rw⟩,
    ⟨0x10, 0x0, 1, 2, 1, 0x0, .rw⟩,
    ⟨0x10, 0x0, 1, 3, 1, 0x0, .rw⟩,
    ⟨0x10, 0x0, 1, 4, 1, 0x0, .rw⟩ ]

/-- Rows of the `FAB` register table (R321), part 0. -/
def regRowsFAB0 : List RegRow :=
  [ ⟨0x0, 0x0, 1, 0, 1, 0x0, .rw⟩,
    ⟨0x0, 0x0, 1, 1, 2, 0x0, .rw⟩,
    ⟨0x4, 0x0, 1, 0, 16, 0x0, .ro⟩,
    ⟨0x8, 0x0, 1, 0, 2, 0x0, .ro⟩,
    ⟨0x8, 0x0, 1, 2, 2, 0x0, .ro⟩,
    ⟨0x8, 0x0, 1, 4, 2, 0x0, .ro⟩,
    ⟨0x8, 0x0, 1, 6, 2, 0x0, .ro⟩,
    ⟨0x8, 0x0, 1, 8, 4, 0x0, .ro⟩,
    ⟨0x8, 0x0, 1, 12, 1, 0x0, .ro⟩,
    ⟨0x8, 0x0, 1, 13, 1, 0x0, .ro⟩,
    ⟨0xC, 0x0, 1, 0, 1, 0x0, .w1c⟩,
    ⟨0xC, 0x0, 1, 1, 1, 0x0, .w1c⟩,
    ⟨0xC, 0x0, 1, 2, 1, 0x0, .w1c⟩,
    ⟨0xC, 0x0, 1, 3, 1, 0x0, .w1c⟩,
    ⟨0xC, 0x0, 1, 4, 1, 0x0, .w1c⟩,
    ⟨0xC, 0x0, 1, 5, 1, 0x0, .w1c⟩,
    ⟨0xC, 0x0, 1, 6, 1, 0x0, .w1c⟩,
    ⟨0xC, 0x0, 1, 7, 1, 0x0, .w1c⟩,
    ⟨0x20, 0x4, 4, 0, 10, 0x0, .ro⟩,
    ⟨0x20, 0x4, 4, 10, 12, 0x0, .ro⟩,
    ⟨0x20, 0x4, 4, 22, 1, 0x0, .ro⟩,
    ⟨0x40, 0x0, 1, 0, 16, 0x0, .ro⟩,
    ⟨0x40, 0x0, 1, 16, 1, 0x0, .ro⟩,
    ⟨0x40, 0x0, 1, 31, 1, 0x0, .wo⟩ ]

/-- Rows of the `FAB` register table (R321), part 1. -/
def regRowsFAB1 : List RegRow :=
  [ ⟨0x44, 0x0, 1, 0, 16, 0x0, .ro⟩,
    ⟨0x44, 0x0, 1, 16, 1, 0x0, .ro⟩,
    ⟨0x44, 0x0, 1, 31, 1, 0x0, .wo⟩,
    ⟨0x48, 0x0, 1, 0, 16, 0x0, .ro⟩,
    ⟨0x48, 0x0, 1, 16, 1, 0x0, .ro⟩,
    ⟨0x48, 0x0, 1, 31, 1, 0x0, .wo⟩,
    ⟨0x4C, 0x0, 1, 0, 16, 0x0, .ro⟩,
    ⟨0x4C, 0x0, 1, 16, 1, 0x0, .ro⟩,
    ⟨0x4C, 0x0, 1, 31, 1, 0x0, .wo⟩,
    ⟨0x50, 0x0, 1, 0, 16, 0x0, .ro⟩,
    ⟨0x50, 0x0, 1, 16, 1, 0x0, .ro⟩,
    ⟨0x50, 0x0, 1, 31, 1, 0x0, .wo⟩,
    ⟨0x54, 0x0, 1, 0, 16, 0x0, .ro⟩,
    ⟨0x54, 0x0, 1, 16, 1, 0x0, .ro⟩,
    ⟨0x54, 0x0, 1, 31, 1, 0x0, .wo⟩,
    ⟨0x10, 0x0, 1, 0, 1, 0x0, .rw⟩,
    ⟨0x10, 0x0, 1, 1, 1, 0x0, .rw⟩,
    ⟨0x10, 0x0, 1, 2, 1, 0x0, .rw⟩,
    ⟨0x10, 0x0, 1, 3, 1, 0x0, .rw⟩,
    ⟨0x10, 0x0, 1, 4, 1, 0x0, .rw⟩,
    ⟨0x10, 0x0, 1, 5, 1, 0x0, .rw⟩,
    ⟨0x10, 0x0, 1, 6, 1, 0x0, .rw⟩,
    ⟨0x10, 0x0, 1, 7, 1, 0x0, .rw⟩ ]

/-- Rows of the `TRU` register table (R348), part 0. -/
def regRowsTRU0 : List RegRow :=
  [ ⟨0x0, 0x0, 1, 0, 1, 0x0, .rw⟩,
    ⟨0x4, 0x0, 1, 0, 16, 0x0, .ro⟩,
    ⟨0x8, 0x0, 1, 0, 8, 0x0, .ro⟩,
    ⟨0x8, 0x0, 1, 8, 8, 0x0, .ro⟩,
    ⟨0xC, 0x0, 1, 0, 1, 0x0, .w1c⟩,
    ⟨0xC, 0x0, 1, 1, 1, 0x0, .w1c⟩,
    ⟨0xC, 0x0, 1, 2, 1, 0x0, .w1c⟩,
    ⟨0xC, 0x0, 1, 3, 1, 0x0, .w1c⟩,
    ⟨0x40, 0x0, 1, 0, 16, 0x0, .ro⟩,
    ⟨0x40, 0x0, 1, 16, 1, 0x0, .ro⟩,
    ⟨0x40, 0x0, 1, 31, 1, 0x0, .wo⟩,
    ⟨0x44, 0x0, 1, 0, 16, 0x0, .ro⟩,
    ⟨0x44, 0x0, 1, 16, 1, 0x0, .ro⟩,
    ⟨0x44, 0x0, 1, 31, 1, 0x0, .wo⟩,
    ⟨0x10, 0x0, 1, 0, 1, 0x0, .rw⟩,
    ⟨0x10, 0x0, 1, 1, 1, 0x0, .rw⟩,
    ⟨0x10, 0x0, 1, 2, 1, 0x0, .rw⟩,
    ⟨0x10, 0x0, 1, 3, 1, 0x0, .rw⟩ ]

/-- Rows of the `PWK` register table (R348), part 0. -/
def regRowsPWK0 : List RegRow :=
  [ ⟨0x0, 0x0, 1, 0, 1, 0x0, .rw⟩,
    ⟨0x4, 0x0, 1, 0, 16, 0x0, .ro⟩,
    ⟨0x8, 0x0, 1, 0, 6, 0x0, .ro⟩,
    ⟨0x8, 0x0, 1, 6, 1, 0x0, .ro⟩,
    ⟨0x8, 0x0, 1, 7, 1, 0x0, .ro⟩,
    ⟨0x8, 0x0, 1, 8, 1, 0x0, .ro⟩,
    ⟨0xC, 0x0, 1, 0, 1, 0x0, .w1c⟩,
    ⟨0xC, 0x0, 1, 1, 1, 0x0, .w1c⟩,
    ⟨0xC, 0x0, 1, 2, 1, 0x0, .w1c⟩,
    ⟨0xC, 0x0, 1, 3, 1, 0x0, .w1c⟩,
    ⟨0xC, 0x0, 1, 4, 1, 0x0, .w1c⟩,
    ⟨0xC, 0x0, 1, 5, 1, 0x0, .w1c⟩,
    ⟨0xC, 0x0, 1, 6, 1, 0x0, .w1c⟩,
    ⟨0x14, 0x0, 1, 0, 32, 0x0, .ro⟩,
    ⟨0x18, 0x0, 1, 0, 32, 0x0, .ro⟩,
    ⟨0x1C, 0x0, 1, 0, 32, 0x0, .ro⟩,
    ⟨0x40, 0x0, 1, 0, 16, 0x0, .ro⟩,
    ⟨0x40, 0x0, 1, 16, 1, 0x0, .ro⟩,
    ⟨0x40, 0x0, 1, 31, 1, 0x0, .wo⟩,
    ⟨0x44, 0x0, 1, 0, 16, 0x0, .ro⟩,
    ⟨0x44, 0x0, 1, 16, 1, 0x0, .ro⟩,
    ⟨0x44, 0x0, 1, 31, 1, 0x0, .wo⟩,
    ⟨0x48, 0x0, 1, 0, 16, 0x0, .ro⟩,
    ⟨0x48, 0x0, 1, 16, 1, 0x0, .ro⟩ ]

/-- Rows of the `PWK` register table (R348), part 1. -/
def regRowsPWK1 : List RegRow :=
  [ ⟨0x48, 0x0, 1, 31, 1, 0x0, .wo⟩,
    ⟨0x10, 0x0, 1, 0, 1, 0x0, .rw⟩,
    ⟨0x10, 0x0, 1, 1, 1, 0x0, .rw⟩,
    ⟨0x10, 0x0, 1, 2, 1, 0x0, .rw⟩,
    ⟨0x10, 0x0, 1, 3, 1, 0x0, .rw⟩,
    ⟨0x10, 0x0, 1, 4, 1, 0x0, .rw⟩,
    ⟨0x10, 0x0, 1, 5, 1, 0x0, .rw⟩,
    ⟨0x10, 0x0, 1, 6, 1, 0x0, .rw⟩ ]

/-- Rows of the `CLOAK` register table (R348), part 0. -/
def regRowsCLOAK0 : List RegRow :=
  [ ⟨0x8, 0x0, 1, 0, 11, 0x0, .ro⟩,
    ⟨0x40, 0x0, 1, 0, 16, 0x0, .ro⟩,
    ⟨0x40, 0x0, 1, 16, 1, 0x0, .ro⟩,
    ⟨0x40, 0x0, 1, 31, 1, 0x0, .wo⟩,
    ⟨0x44, 0x0, 1, 0, 16, 0x0, .ro⟩,
    ⟨0x44, 0x0, 1, 16, 1, 0x0, .ro⟩,
    ⟨0x44, 0x0, 1, 31, 1, 0x0, .wo⟩ ]

/-- Rows of the `TKB` register table (R370), part 0. -/
def regRowsTKB0 : List RegRow :=
  [ ⟨0x8, 0x0, 1, 0, 6, 0x0, .ro⟩,
    ⟨0x100, 0x4, 64, 0, 5, 0x0, .ro⟩,
    ⟨0x100, 0x4, 64, 5, 5, 0x0, .ro⟩,
    ⟨0x100, 0x4, 64, 10, 2, 0x0, .ro⟩,
    ⟨0x100, 0x4, 64, 12, 1, 0x0, .ro⟩,
    ⟨0x100, 0x4, 64, 16, 16, 0x0, .ro⟩,
    ⟨0x40, 0x0, 1, 0, 16, 0x0, .ro⟩,
    ⟨0x40, 0x0, 1, 16, 1, 0x0, .ro⟩,
    ⟨0x40, 0x0, 1, 31, 1, 0x0, .wo⟩,
    ⟨0x44, 0x0, 1, 0, 16, 0x0, .ro⟩,
    ⟨0x44, 0x0, 1, 16, 1, 0x0, .ro⟩,
    ⟨0x44, 0x0, 1, 31, 1, 0x0, .wo⟩ ]

/-- Rows of the `CLP` register table (R371), part 0. -/
def regRowsCLP0 : List RegRow :=
  [ ⟨0x1000, 0x4, 512, 0, 6, 0x0, .rw⟩,
    ⟨0x1000, 0x4, 512, 8, 6, 0x8, .rw⟩,
    ⟨0x1000, 0x4, 512, 16, 1, 0x0, .rw⟩,
    ⟨0x1000, 0x4, 512, 17, 1, 0x0, .ro⟩,
    ⟨0x1000, 0x4, 512, 18, 1, 0x0, .w1c⟩,
    ⟨0x4000, 0x20, 64, 0, 32, 0x0, .ro⟩,
    ⟨0x4004, 0x20, 64, 0, 32, 0x0, .ro⟩,
    ⟨0x4008, 0x20, 64, 0, 32, 0x0, .ro⟩,
    ⟨0x400C, 0x20, 64, 0, 32, 0x0, .ro⟩,
    ⟨0x4010, 0x20, 64, 0, 32, 0x0, .wo⟩,
    ⟨0x4014, 0x20, 64, 0, 32, 0x0, .wo⟩,
    ⟨0x4018, 0x20, 64, 0, 32, 0x0, .wo⟩,
    ⟨0x401C, 0x20, 64, 0, 32, 0x0, .wo⟩,
    ⟨0x40, 0x0, 1, 0, 16, 0x0, .ro⟩,
    ⟨0x40, 0x0, 1, 16, 1, 0x0, .ro⟩,
    ⟨0x40, 0x0, 1, 31, 1, 0x0, .wo⟩,
    ⟨0x44, 0x0, 1, 0, 16, 0x0, .ro⟩,
    ⟨0x44, 0x0, 1, 16, 1, 0x0, .ro⟩,
    ⟨0x44, 0x0, 1, 31, 1, 0x0, .wo⟩ ]

/-- Rows of the `HBM` register table (R404), part 0. -/
def regRowsHBM0 : List RegRow :=
  [ ⟨0x0, 0x0, 1, 0, 2, 0x1, .rw⟩,
    ⟨0x0, 0x0, 1, 2, 1, 0x1, .rw⟩,
    ⟨0x8, 0x0, 1, 0, 1, 0x0, .ro⟩,
    ⟨0x8, 0x0, 1, 1, 1, 0x0, .ro⟩,
    ⟨0x8, 0x0, 1, 2, 1, 0x0, .ro⟩,
    ⟨0x8, 0x0, 1, 3, 2, 0x0, .ro⟩,
    ⟨0xC, 0x0, 1, 0, 1, 0x0, .w1c⟩,
    ⟨0xC, 0x0, 1, 1, 1, 0x0, .w1c⟩,
    ⟨0xC, 0x0, 1, 2, 1, 0x0, .w1c⟩,
    ⟨0xC, 0x0, 1, 3, 1, 0x0, .w1c⟩,
    ⟨0xC, 0x0, 1, 4, 1, 0x0, .w1c⟩,
    ⟨0xC, 0x0, 1, 5, 1, 0x0, .w1c⟩,
    ⟨0x14, 0x0, 1, 0, 8, 0x18, .rw⟩,
    ⟨0x18, 0x0, 1, 0, 29, 0x0, .ro⟩,
    ⟨0x18, 0x0, 1, 29, 3, 0x0, .ro⟩,
    ⟨0x40, 0x0, 1, 0, 16, 0x0, .ro⟩,
    ⟨0x40, 0x0, 1, 16, 1, 0x0, .ro⟩,
    ⟨0x40, 0x0, 1, 31, 1, 0x0, .wo⟩,
    ⟨0x44, 0x0, 1, 0, 16, 0x0, .ro⟩,
    ⟨0x44, 0x0, 1, 16, 1, 0x0, .ro⟩,
    ⟨0x44, 0x0, 1, 31, 1, 0x0, .wo⟩,
    ⟨0x48, 0x0, 1, 0, 16, 0x0, .ro⟩,
    ⟨0x48, 0x0, 1, 16, 1, 0x0, .ro⟩,
    ⟨0x48, 0x0, 1, 31, 1, 0x0, .wo⟩ ]

/-- Rows of the `HBM` register table (R404), part 1. -/
def regRowsHBM1 : List RegRow :=
  [ ⟨0x4C, 0x0, 1, 0, 16, 0x0, .ro⟩,
    ⟨0x4C, 0x0, 1, 16, 1, 0x0, .ro⟩,
    ⟨0x4C, 0x0, 1, 31, 1, 0x0, .wo⟩,
    ⟨0x10, 0x0, 1, 0, 1, 0x0, .rw⟩,
    ⟨0x10, 0x0, 1, 1, 1, 0x0, .rw⟩,
    ⟨0x10, 0x0, 1, 2, 1, 0x0, .rw⟩,
    ⟨0x10, 0x0, 1, 3, 1, 0x0, .rw⟩,
    ⟨0x10, 0x0, 1, 4, 1, 0x0, .rw⟩,
    ⟨0x10, 0x0, 1, 5, 1, 0x0, .rw⟩ ]

/-- Rows of the `PKT` register table (R405), part 0. -/
def regRowsPKT0 : List RegRow :=
  [ ⟨0x0, 0x0, 1, 0, 1, 0x0, .rw⟩,
    ⟨0x4, 0x0, 1, 0, 16, 0x0, .ro⟩,
    ⟨0x8, 0x0, 1, 0, 1, 0x0, .ro⟩,
    ⟨0x8, 0x0, 1, 1, 1, 0x0, .ro⟩,
    ⟨0xC, 0x0, 1, 0, 1, 0x0, .w1c⟩,
    ⟨0xC, 0x0, 1, 1, 1, 0x0, .w1c⟩,
    ⟨0xC, 0x0, 1, 2, 1, 0x0, .w1c⟩,
    ⟨0xC, 0x0, 1, 3, 1, 0x0, .w1c⟩,
    ⟨0xC, 0x0, 1, 4, 1, 0x0, .w1c⟩,
    ⟨0xC, 0x0, 1, 5, 1, 0x0, .w1c⟩,
    ⟨0x14, 0x0, 1, 0, 32, 0x1, .rw⟩,
    ⟨0x18, 0x0, 1, 0, 20, 0x0, .ro⟩,
    ⟨0x20, 0x0, 1, 0, 28, 0x0, .rw⟩,
    ⟨0x24, 0x0, 1, 0, 29, 0x0, .rw⟩,
    ⟨0x28, 0x0, 1, 0, 2, 0x0, .rw⟩,
    ⟨0x28, 0x0, 1, 31, 1, 0x0, .wo⟩,
    ⟨0x100, 0x4, 16, 0, 16, 0xFFFF, .rw⟩,
    ⟨0x100, 0x4, 16, 16, 1, 0x0, .rw⟩,
    ⟨0x40, 0x0, 1, 0, 16, 0x0, .ro⟩,
    ⟨0x40, 0x0, 1, 16, 1, 0x0, .ro⟩,
    ⟨0x40, 0x0, 1, 31, 1, 0x0, .wo⟩,
    ⟨0x44, 0x0, 1, 0, 16, 0x0, .ro⟩,
    ⟨0x44, 0x0, 1, 16, 1, 0x0, .ro⟩,
    ⟨0x44, 0x0, 1, 31, 1, 0x0, .wo⟩ ]

/-- Rows of the `PKT` register table (R405), part 1. -/
def regRowsPKT1 : List RegRow :=
  [ ⟨0x10, 0x0, 1, 0, 1, 0x0, .rw⟩,
    ⟨0x10, 0x0, 1, 1, 1, 0x0, .rw⟩,
    ⟨0x10, 0x0, 1, 2, 1, 0x0, .rw⟩,
    ⟨0x10, 0x0, 1, 3, 1, 0x0, .rw⟩,
    ⟨0x10, 0x0, 1, 4, 1, 0x0, .rw⟩,
    ⟨0x10, 0x0, 1, 5, 1, 0x0, .rw⟩ ]

/-- Rows of the `WDB` register table (R425), part 0. -/
def regRowsWDB0 : List RegRow :=
  [ ⟨0x0, 0x0, 1, 0, 1, 0x1, .rw⟩,
    ⟨0x0, 0x0, 1, 1, 4, 0x0, .rw⟩,
    ⟨0x8, 0x0, 1, 0, 4, 0x0, .ro⟩,
    ⟨0x8, 0x0, 1, 4, 4, 0x0, .ro⟩,
    ⟨0x8, 0x0, 1, 8, 1, 0x0, .w1c⟩,
    ⟨0xC, 0x0, 1, 0, 1, 0x0, .w1c⟩,
    ⟨0xC, 0x0, 1, 1, 1, 0x0, .w1c⟩,
    ⟨0xC, 0x0, 1, 2, 1, 0x0, .w1c⟩,
    ⟨0xC, 0x0, 1, 3, 1, 0x0, .w1c⟩,
    ⟨0xC, 0x0, 1, 4, 1, 0x0, .w1c⟩,
    ⟨0xC, 0x0, 1, 5, 1, 0x0, .w1c⟩,
    ⟨0x14, 0x0, 1, 0, 10, 0x64, .rw⟩,
    ⟨0x20, 0x4, 4, 0, 2, 0x0, .ro⟩,
    ⟨0x20, 0x4, 4, 2, 1, 0x0, .ro⟩,
    ⟨0x20, 0x4, 4, 3, 10, 0x0, .ro⟩,
    ⟨0x20, 0x4, 4, 16, 16, 0x0, .ro⟩,
    ⟨0x40, 0x0, 1, 0, 16, 0x0, .ro⟩,
    ⟨0x40, 0x0, 1, 16, 1, 0x0, .ro⟩,
    ⟨0x40, 0x0, 1, 31, 1, 0x0, .wo⟩,
    ⟨0x44, 0x0, 1, 0, 16, 0x0, .ro⟩,
    ⟨0x44, 0x0, 1, 16, 1, 0x0, .ro⟩,
    ⟨0x44, 0x0, 1, 31, 1, 0x0, .wo⟩,
    ⟨0x48, 0x0, 1, 0, 16, 0x0, .ro⟩,
    ⟨0x48, 0x0, 1, 16, 1, 0x0, .ro⟩ ]

/-- Rows of the `WDB` register table (R425), part 1. -/
def regRowsWDB1 : List RegRow :=
  [ ⟨0x48, 0x0, 1, 31, 1, 0x0, .wo⟩,
    ⟨0x4C, 0x0, 1, 0, 16, 0x0, .ro⟩,
    ⟨0x4C, 0x0, 1, 16, 1, 0x0, .ro⟩,
    ⟨0x4C, 0x0, 1, 31, 1, 0x0, .wo⟩,
    ⟨0x10, 0x0, 1, 0, 1, 0x0, .rw⟩,
    ⟨0x10, 0x0, 1, 1, 1, 0x0, .rw⟩,
    ⟨0x10, 0x0, 1, 2, 1, 0x0, .rw⟩,
    ⟨0x10, 0x0, 1, 3, 1, 0x0, .rw⟩,
    ⟨0x10, 0x0, 1, 4, 1, 0x0, .rw⟩,
    ⟨0x10, 0x0, 1, 5, 1, 0x0, .rw⟩ ]

/-- Rows of the `SNT` register table (R426), part 0. -/
def regRowsSNT0 : List RegRow :=
  [ ⟨0x0, 0x0, 1, 0, 1, 0x0, .rw⟩,
    ⟨0x4, 0x0, 1, 0, 16, 0x0, .ro⟩,
    ⟨0x8, 0x0, 1, 0, 2, 0x0, .ro⟩,
    ⟨0x8, 0x0, 1, 16, 16, 0x0, .ro⟩,
    ⟨0xC, 0x0, 1, 0, 1, 0x0, .w1c⟩,
    ⟨0xC, 0x0, 1, 1, 1, 0x0, .w1c⟩,
    ⟨0xC, 0x0, 1, 2, 1, 0x0, .w1c⟩,
    ⟨0xC, 0x0, 1, 3, 1, 0x0, .w1c⟩,
    ⟨0x14, 0x0, 1, 0, 10, 0x64, .rw⟩,
    ⟨0x18, 0x0, 1, 0, 16, 0x0, .wo⟩,
    ⟨0x40, 0x0, 1, 0, 16, 0x0, .ro⟩,
    ⟨0x40, 0x0, 1, 16, 1, 0x0, .ro⟩,
    ⟨0x40, 0x0, 1, 31, 1, 0x0, .wo⟩,
    ⟨0x44, 0x0, 1, 0, 16, 0x0, .ro⟩,
    ⟨0x44, 0x0, 1, 16, 1, 0x0, .ro⟩,
    ⟨0x44, 0x0, 1, 31, 1, 0x0, .wo⟩,
    ⟨0x48, 0x0, 1, 0, 16, 0x0, .ro⟩,
    ⟨0x48, 0x0, 1, 16, 1, 0x0, .ro⟩,
    ⟨0x48, 0x0, 1, 31, 1, 0x0, .wo⟩,
    ⟨0x10, 0x0, 1, 0, 1, 0x0, .rw⟩,
    ⟨0x10, 0x0, 1, 1, 1, 0x0, .rw⟩,
    ⟨0x10, 0x0, 1, 2, 1, 0x0, .rw⟩,
    ⟨0x10, 0x0, 1, 3, 1, 0x0, .rw⟩ ]

/-- Rows of the `CVN` register table (R445), part 0. -/
def regRowsCVN0 : List RegRow :=
  [ ⟨0x0, 0x0, 1, 0, 16, 0x64, .rw⟩,
    ⟨0x0, 0x0, 1, 16, 8, 0x3C, .rw⟩,
    ⟨0x4, 0x0, 1, 0, 32, 0x4C4B40, .rw⟩,
    ⟨0x8, 0x0, 1, 0, 3, 0x0, .ro⟩,
    ⟨0x8, 0x0, 1, 3, 3, 0x0, .ro⟩,
    ⟨0x8, 0x0, 1, 6, 1, 0x0, .ro⟩,
    ⟨0x8, 0x0, 1, 7, 1, 0x0, .ro⟩,
    ⟨0x8, 0x0, 1, 8, 6, 0x0, .ro⟩,
    ⟨0x8, 0x0, 1, 14, 1, 0x0, .ro⟩,
    ⟨0x8, 0x0, 1, 15, 1, 0x0, .ro⟩,
    ⟨0x8, 0x0, 1, 16, 1, 0x0, .ro⟩,
    ⟨0x8, 0x0, 1, 17, 1, 0x0, .ro⟩,
    ⟨0x8, 0x0, 1, 18, 3, 0x0, .ro⟩,
    ⟨0xC, 0x0, 1, 0, 1, 0x0, .w1c⟩,
    ⟨0xC, 0x0, 1, 1, 1, 0x0, .w1c⟩,
    ⟨0xC, 0x0, 1, 2, 1, 0x0, .w1c⟩,
    ⟨0xC, 0x0, 1, 3, 1, 0x0, .w1c⟩,
    ⟨0xC, 0x0, 1, 4, 1, 0x0, .w1c⟩,
    ⟨0xC, 0x0, 1, 5, 1, 0x0, .w1c⟩,
    ⟨0x14, 0x0, 1, 0, 32, 0x0, .ro⟩,
    ⟨0x18, 0x0, 1, 0, 32, 0x0, .ro⟩,
    ⟨0x1C, 0x0, 1, 0, 32, 0x0, .ro⟩,
    ⟨0x20, 0x0, 1, 0, 32, 0x0, .ro⟩,
    ⟨0x24, 0x0, 1, 0, 32, 0x0, .ro⟩ ]

/-- Rows of the `CVN` register table (R445), part 1. -/
def regRowsCVN1 : List RegRow :=
  [ ⟨0x40, 0x0, 1, 0, 16, 0x0, .ro⟩,
    ⟨0x40, 0x0, 1, 16, 1, 0x0, .ro⟩,
    ⟨0x40, 0x0, 1, 31, 1, 0x0, .wo⟩,
    ⟨0x44, 0x0, 1, 0, 16, 0x0, .ro⟩,
    ⟨0x44, 0x0, 1, 16, 1, 0x0, .ro⟩,
    ⟨0x44, 0x0, 1, 31, 1, 0x0, .wo⟩,
    ⟨0x10, 0x0, 1, 0, 1, 0x0, .rw⟩,
    ⟨0x10, 0x0, 1, 1, 1, 0x0, .rw⟩,
    ⟨0x10, 0x0, 1, 2, 1, 0x0, .rw⟩,
    ⟨0x10, 0x0, 1, 3, 1, 0x0, .rw⟩,
    ⟨0x10, 0x0, 1, 4, 1, 0x0, .rw⟩,
    ⟨0x10, 0x0, 1, 5, 1, 0x0, .rw⟩ ]

/-- Rows of the `PSL` register table (R446), part 0. -/
def regRowsPSL0 : List RegRow :=
  [ ⟨0x0, 0x0, 1, 0, 1, 0x1, .rw⟩,
    ⟨0x8, 0x0, 1, 0, 10, 0x0, .ro⟩,
    ⟨0x8, 0x0, 1, 10, 5, 0x0, .ro⟩,
    ⟨0x8, 0x0, 1, 16, 4, 0x0, .ro⟩,
    ⟨0x8, 0x0, 1, 20, 3, 0x0, .ro⟩,
    ⟨0x8, 0x0, 1, 23, 1, 0x0, .ro⟩,
    ⟨0x8, 0x0, 1, 24, 2, 0x0, .ro⟩,
    ⟨0xC, 0x0, 1, 0, 1, 0x0, .w1c⟩,
    ⟨0xC, 0x0, 1, 1, 1, 0x0, .w1c⟩,
    ⟨0xC, 0x0, 1, 2, 1, 0x0, .w1c⟩,
    ⟨0xC, 0x0, 1, 3, 1, 0x0, .w1c⟩,
    ⟨0xC, 0x0, 1, 4, 1, 0x0, .w1c⟩,
    ⟨0xC, 0x0, 1, 5, 1, 0x0, .w1c⟩,
    ⟨0x18, 0x0, 1, 0, 16, 0xFFFF, .ro⟩,
    ⟨0x18, 0x0, 1, 16, 16, 0xFFFF, .ro⟩,
    ⟨0x20, 0x4, 5, 0, 16, 0x0, .ro⟩,
    ⟨0x20, 0x4, 5, 16, 16, 0x0, .ro⟩,
    ⟨0x40, 0x0, 1, 0, 16, 0x0, .ro⟩,
    ⟨0x40, 0x0, 1, 16, 1, 0x0, .ro⟩,
    ⟨0x40, 0x0, 1, 31, 1, 0x0, .wo⟩,
    ⟨0x44, 0x0, 1, 0, 16, 0x0, .ro⟩,
    ⟨0x44, 0x0, 1, 16, 1, 0x0, .ro⟩,
    ⟨0x44, 0x0, 1, 31, 1, 0x0, .wo⟩,
    ⟨0x48, 0x0, 1, 0, 16, 0x0, .ro⟩ ]

/-- Rows of the `PSL` register table (R446), part 1. -/
def regRowsPSL1 : List RegRow :=
  [ ⟨0x48, 0x0, 1, 16, 1, 0x0, .ro⟩,
    ⟨0x48, 0x0, 1, 31, 1, 0x0, .wo⟩,
    ⟨0x10, 0x0, 1, 0, 1, 0x0, .rw⟩,
    ⟨0x10, 0x0, 1, 1, 1, 0x0, .rw⟩,
    ⟨0x10, 0x0, 1, 2, 1, 0x0, .rw⟩,
    ⟨0x10, 0x0, 1, 3, 1, 0x0, .rw⟩,
    ⟨0x10, 0x0, 1, 4, 1, 0x0, .rw⟩,
    ⟨0x10, 0x0, 1, 5, 1, 0x0, .rw⟩ ]

/-- Rows of the `TLR` register table (R465), part 0. -/
def regRowsTLR0 : List RegRow :=
  [ ⟨0x0, 0x0, 1, 0, 1, 0x1, .rw⟩,
    ⟨0x0, 0x0, 1, 1, 1, 0x1, .rw⟩,
    ⟨0x0, 0x0, 1, 31, 1, 0x0, .wo⟩,
    ⟨0x8, 0x0, 1, 0, 1, 0x0, .ro⟩,
    ⟨0x8, 0x0, 1, 1, 1, 0x0, .ro⟩,
    ⟨0x8, 0x0, 1, 2, 3, 0x0, .ro⟩,
    ⟨0x8, 0x0, 1, 5, 1, 0x0, .ro⟩,
    ⟨0x8, 0x0, 1, 6, 26, 0x0, .ro⟩,
    ⟨0xC, 0x0, 1, 0, 1, 0x0, .w1c⟩,
    ⟨0xC, 0x0, 1, 1, 1, 0x0, .w1c⟩,
    ⟨0xC, 0x0, 1, 2, 1, 0x0, .w1c⟩,
    ⟨0xC, 0x0, 1, 3, 1, 0x0, .w1c⟩,
    ⟨0xC, 0x0, 1, 4, 1, 0x0, .w1c⟩,
    ⟨0x20, 0x4, 4, 0, 32, 0x0, .rw⟩,
    ⟨0x40, 0x0, 1, 0, 16, 0x0, .ro⟩,
    ⟨0x40, 0x0, 1, 16, 1, 0x0, .ro⟩,
    ⟨0x40, 0x0, 1, 31, 1, 0x0, .wo⟩,
    ⟨0x44, 0x0, 1, 0, 16, 0x0, .ro⟩,
    ⟨0x44, 0x0, 1, 16, 1, 0x0, .ro⟩,
    ⟨0x44, 0x0, 1, 31, 1, 0x0, .wo⟩,
    ⟨0x48, 0x0, 1, 0, 16, 0x0, .ro⟩,
    ⟨0x48, 0x0, 1, 16, 1, 0x0, .ro⟩,
    ⟨0x48, 0x0, 1, 31, 1, 0x0, .wo⟩,
    ⟨0x10, 0x0, 1, 0, 1, 0x0, .rw⟩ ]

/-- Rows of the `TLR` register table (R465), part 1. -/
def regRowsTLR1 : List RegRow :=
  [ ⟨0x10, 0x0, 1, 1, 1, 0x0, .rw⟩,
    ⟨0x10, 0x0, 1, 2, 1, 0x0, .rw⟩,
    ⟨0x10, 0x0, 1, 3, 1, 0x0, .rw⟩,
    ⟨0x10, 0x0, 1, 4, 1, 0x0, .rw⟩,
    ⟨0x2000, 0x4, 8, 0, 12, 0x800, .rw⟩,
    ⟨0x2000, 0x4, 8, 12, 1, 0x0, .rw⟩,
    ⟨0x2000, 0x4, 8, 13, 3, 0x0, .rw⟩,
    ⟨0x2000, 0x4, 8, 16, 6, 0x0, .rw⟩,
    ⟨0x2020, 0x4, 2, 0, 12, 0x20, .rw⟩,
    ⟨0x2020, 0x4, 2, 12, 1, 0x0, .rw⟩,
    ⟨0x2020, 0x4, 2, 13, 3, 0x0, .rw⟩,
    ⟨0x2020, 0x4, 2, 16, 6, 0x0, .rw⟩,
    ⟨0x2028, 0x0, 1, 0, 12, 0x402, .rw⟩,
    ⟨0x2028, 0x0, 1, 12, 1, 0x0, .rw⟩,
    ⟨0x2028, 0x0, 1, 13, 3, 0x0, .rw⟩,
    ⟨0x2028, 0x0, 1, 16, 6, 0x0, .rw⟩,
    ⟨0x2100, 0x4, 2, 0, 12, 0x800, .rw⟩,
    ⟨0x2100, 0x4, 2, 12, 1, 0x0, .rw⟩,
    ⟨0x2100, 0x4, 2, 13, 3, 0x0, .rw⟩,
    ⟨0x2100, 0x4, 2, 16, 6, 0x0, .rw⟩,
    ⟨0x2040, 0x4, 8, 0, 12, 0x800, .rw⟩,
    ⟨0x2040, 0x4, 8, 12, 1, 0x0, .rw⟩,
    ⟨0x2040, 0x4, 8, 13, 3, 0x0, .rw⟩,
    ⟨0x2040, 0x4, 8, 16, 6, 0x0, .rw⟩ ]

/-- Rows of the `TLR` register table (R465), part 2. -/
def regRowsTLR2 : List RegRow :=
  [ ⟨0x2060, 0x4, 2, 0, 12, 0x20, .rw⟩,
    ⟨0x2060, 0x4, 2, 12, 1, 0x0, .rw⟩,
    ⟨0x2060, 0x4, 2, 13, 3, 0x0, .rw⟩,
    ⟨0x2060, 0x4, 2, 16, 6, 0x0, .rw⟩,
    ⟨0x2068, 0x0, 1, 0, 12, 0x402, .rw⟩,
    ⟨0x2068, 0x0, 1, 12, 1, 0x0, .rw⟩,
    ⟨0x2068, 0x0, 1, 13, 3, 0x0, .rw⟩,
    ⟨0x2068, 0x0, 1, 16, 6, 0x0, .rw⟩,
    ⟨0x2110, 0x4, 2, 0, 12, 0x800, .rw⟩,
    ⟨0x2110, 0x4, 2, 12, 1, 0x0, .rw⟩,
    ⟨0x2110, 0x4, 2, 13, 3, 0x0, .rw⟩,
    ⟨0x2110, 0x4, 2, 16, 6, 0x0, .rw⟩,
    ⟨0x2080, 0x4, 8, 0, 12, 0x800, .rw⟩,
    ⟨0x2080, 0x4, 8, 12, 1, 0x0, .rw⟩,
    ⟨0x2080, 0x4, 8, 13, 3, 0x0, .rw⟩,
    ⟨0x2080, 0x4, 8, 16, 6, 0x0, .rw⟩,
    ⟨0x20A0, 0x4, 2, 0, 12, 0x20, .rw⟩,
    ⟨0x20A0, 0x4, 2, 12, 1, 0x0, .rw⟩,
    ⟨0x20A0, 0x4, 2, 13, 3, 0x0, .rw⟩,
    ⟨0x20A0, 0x4, 2, 16, 6, 0x0, .rw⟩,
    ⟨0x20A8, 0x0, 1, 0, 12, 0x402, .rw⟩,
    ⟨0x20A8, 0x0, 1, 12, 1, 0x0, .rw⟩,
    ⟨0x20A8, 0x0, 1, 13, 3, 0x0, .rw⟩,
    ⟨0x20A8, 0x0, 1, 16, 6, 0x0, .rw⟩ ]

/-- Rows of the `TLR` register table (R465), part 3. -/
def regRowsTLR3 : List RegRow :=
  [ ⟨0x2120, 0x4, 2, 0, 12, 0x800, .rw⟩,
    ⟨0x2120, 0x4, 2, 12, 1, 0x0, .rw⟩,
    ⟨0x2120, 0x4, 2, 13, 3, 0x0, .rw⟩,
    ⟨0x2120, 0x4, 2, 16, 6, 0x0, .rw⟩,
    ⟨0x20C0, 0x4, 8, 0, 12, 0x800, .rw⟩,
    ⟨0x20C0, 0x4, 8, 12, 1, 0x0, .rw⟩,
    ⟨0x20C0, 0x4, 8, 13, 3, 0x0, .rw⟩,
    ⟨0x20C0, 0x4, 8, 16, 6, 0x0, .rw⟩,
    ⟨0x20E0, 0x4, 2, 0, 12, 0x20, .rw⟩,
    ⟨0x20E0, 0x4, 2, 12, 1, 0x0, .rw⟩,
    ⟨0x20E0, 0x4, 2, 13, 3, 0x0, .rw⟩,
    ⟨0x20E0, 0x4, 2, 16, 6, 0x0, .rw⟩,
    ⟨0x20E8, 0x0, 1, 0, 12, 0x402, .rw⟩,
    ⟨0x20E8, 0x0, 1, 12, 1, 0x0, .rw⟩,
    ⟨0x20E8, 0x0, 1, 13, 3, 0x0, .rw⟩,
    ⟨0x20E8, 0x0, 1, 16, 6, 0x0, .rw⟩,
    ⟨0x2130, 0x4, 2, 0, 12, 0x800, .rw⟩,
    ⟨0x2130, 0x4, 2, 12, 1, 0x0, .rw⟩,
    ⟨0x2130, 0x4, 2, 13, 3, 0x0, .rw⟩,
    ⟨0x2130, 0x4, 2, 16, 6, 0x0, .rw⟩,
    ⟨0x2200, 0x4, 3, 0, 12, 0x800, .rw⟩,
    ⟨0x2200, 0x4, 3, 12, 1, 0x0, .rw⟩,
    ⟨0x2200, 0x4, 3, 13, 3, 0x0, .rw⟩,
    ⟨0x2200, 0x4, 3, 16, 6, 0x0, .rw⟩ ]

/-- Rows of the `TLR` register table (R465), part 4. -/
def regRowsTLR4 : List RegRow :=
  [ ⟨0x220C, 0x4, 4, 0, 12, 0x800, .rw⟩,
    ⟨0x220C, 0x4, 4, 12, 1, 0x0, .rw⟩,
    ⟨0x220C, 0x4, 4, 13, 3, 0x0, .rw⟩,
    ⟨0x220C, 0x4, 4, 16, 6, 0x0, .rw⟩,
    ⟨0x221C, 0x0, 1, 0, 12, 0x20, .rw⟩,
    ⟨0x221C, 0x0, 1, 12, 1, 0x0, .rw⟩,
    ⟨0x221C, 0x0, 1, 13, 3, 0x0, .rw⟩,
    ⟨0x221C, 0x0, 1, 16, 6, 0x0, .rw⟩,
    ⟨0x2240, 0x4, 5, 0, 12, 0x402, .rw⟩,
    ⟨0x2240, 0x4, 5, 12, 1, 0x0, .rw⟩,
    ⟨0x2240, 0x4, 5, 13, 3, 0x0, .rw⟩,
    ⟨0x2240, 0x4, 5, 16, 6, 0x0, .rw⟩,
    ⟨0x2254, 0x4, 2, 0, 12, 0x402, .rw⟩,
    ⟨0x2254, 0x4, 2, 12, 1, 0x0, .rw⟩,
    ⟨0x2254, 0x4, 2, 13, 3, 0x0, .rw⟩,
    ⟨0x2254, 0x4, 2, 16, 6, 0x0, .rw⟩,
    ⟨0x2280, 0x4, 3, 0, 12, 0x20, .rw⟩,
    ⟨0x2280, 0x4, 3, 12, 1, 0x0, .rw⟩,
    ⟨0x2280, 0x4, 3, 13, 3, 0x0, .rw⟩,
    ⟨0x2280, 0x4, 3, 16, 6, 0x0, .rw⟩ ]

/-- Rows of the `PBL` register table (R480), part 0. -/
def regRowsPBL0 : List RegRow :=
  [ ⟨0x8, 0x0, 1, 0, 1, 0x0, .ro⟩,
    ⟨0x8, 0x0, 1, 1, 7, 0x0, .ro⟩,
    ⟨0x8, 0x0, 1, 8, 1, 0x0, .ro⟩,
    ⟨0x8, 0x0, 1, 9, 1, 0x0, .ro⟩,
    ⟨0xC, 0x0, 1, 0, 1, 0x0, .w1c⟩,
    ⟨0xC, 0x0, 1, 1, 1, 0x0, .w1c⟩,
    ⟨0xC, 0x0, 1, 2, 1, 0x0, .w1c⟩,
    ⟨0xC, 0x0, 1, 3, 1, 0x0, .w1c⟩,
    ⟨0xC, 0x0, 1, 4, 1, 0x0, .w1c⟩,
    ⟨0x14, 0x0, 1, 0, 32, 0x0, .ro⟩,
    ⟨0x18, 0x0, 1, 0, 32, 0x0, .ro⟩,
    ⟨0x1C, 0x0, 1, 0, 19, 0x0, .ro⟩,
    ⟨0x20, 0x0, 1, 0, 6, 0xA, .rw⟩,
    ⟨0x40, 0x0, 1, 0, 16, 0x0, .ro⟩,
    ⟨0x40, 0x0, 1, 16, 1, 0x0, .ro⟩,
    ⟨0x40, 0x0, 1, 31, 1, 0x0, .wo⟩,
    ⟨0x44, 0x0, 1, 0, 16, 0x0, .ro⟩,
    ⟨0x44, 0x0, 1, 16, 1, 0x0, .ro⟩,
    ⟨0x44, 0x0, 1, 31, 1, 0x0, .wo⟩,
    ⟨0x48, 0x0, 1, 0, 16, 0x0, .ro⟩,
    ⟨0x48, 0x0, 1, 16, 1, 0x0, .ro⟩,
    ⟨0x48, 0x0, 1, 31, 1, 0x0, .wo⟩,
    ⟨0x10, 0x0, 1, 0, 1, 0x0, .rw⟩,
    ⟨0x10, 0x0, 1, 1, 1, 0x0, .rw⟩ ]

/-- Rows of the `PBL` register table (R480), part 1. -/
def regRowsPBL1 : List RegRow :=
  [ ⟨0x10, 0x0, 1, 2, 1, 0x0, .rw⟩,
    ⟨0x10, 0x0, 1, 3, 1, 0x0, .rw⟩,
    ⟨0x10, 0x0, 1, 4, 1, 0x0, .rw⟩ ]

/-- Rows of the `RMC` register table (R496), part 0. -/
def regRowsRMC0 : List RegRow :=
  [ ⟨0x8, 0x0, 1, 0, 4, 0x0, .ro⟩,
    ⟨0x8, 0x0, 1, 4, 1, 0x0, .ro⟩,
    ⟨0x8, 0x0, 1, 5, 3, 0x0, .ro⟩,
    ⟨0x8, 0x0, 1, 8, 4, 0x0, .ro⟩,
    ⟨0xC, 0x0, 1, 0, 1, 0x0, .w1c⟩,
    ⟨0xC, 0x0, 1, 1, 1, 0x0, .w1c⟩,
    ⟨0xC, 0x0, 1, 2, 1, 0x0, .w1c⟩,
    ⟨0xC, 0x0, 1, 3, 1, 0x0, .w1c⟩,
    ⟨0x14, 0x0, 1, 0, 3, 0x0, .ro⟩,
    ⟨0x18, 0x0, 1, 0, 16, 0x0, .ro⟩,
    ⟨0x18, 0x0, 1, 16, 16, 0x0, .ro⟩,
    ⟨0x1C, 0x0, 1, 0, 16, 0x0, .ro⟩,
    ⟨0x1C, 0x0, 1, 16, 16, 0x0, .ro⟩,
    ⟨0x80, 0x4, 12, 0, 32, 0x0, .ro⟩,
    ⟨0x40, 0x0, 1, 0, 16, 0x0, .ro⟩,
    ⟨0x40, 0x0, 1, 16, 1, 0x0, .ro⟩,
    ⟨0x40, 0x0, 1, 31, 1, 0x0, .wo⟩,
    ⟨0x44, 0x0, 1, 0, 16, 0x0, .ro⟩,
    ⟨0x44, 0x0, 1, 16, 1, 0x0, .ro⟩,
    ⟨0x44, 0x0, 1, 31, 1, 0x0, .wo⟩,
    ⟨0x48, 0x0, 1, 0, 16, 0x0, .ro⟩,
    ⟨0x48, 0x0, 1, 16, 1, 0x0, .ro⟩,
    ⟨0x48, 0x0, 1, 31, 1, 0x0, .wo⟩,
    ⟨0x10, 0x0, 1, 0, 1, 0x0, .rw⟩ ]

/-- Rows of the `RMC` register table (R496), part 1. -/
def regRowsRMC1 : List RegRow :=
  [ ⟨0x10, 0x0, 1, 1, 1, 0x0, .rw⟩,
    ⟨0x10, 0x0, 1, 2, 1, 0x0, .rw⟩,
    ⟨0x10, 0x0, 1, 3, 1, 0x0, .rw⟩ ]

/-- Rows of the `SDS` register table (R505), part 0. -/
def regRowsSDS0 : List RegRow :=
  [ ⟨0x0, 0x0, 1, 0, 1, 0x0, .wo⟩,
    ⟨0x0, 0x0, 1, 1, 1, 0x0, .wo⟩,
    ⟨0x0, 0x0, 1, 2, 1, 0x1, .rw⟩,
    ⟨0x8, 0x0, 1, 0, 2, 0x0, .ro⟩,
    ⟨0x8, 0x0, 1, 2, 1, 0x0, .ro⟩,
    ⟨0x8, 0x0, 1, 16, 16, 0x0, .ro⟩,
    ⟨0xC, 0x0, 1, 0, 1, 0x0, .w1c⟩,
    ⟨0xC, 0x0, 1, 1, 1, 0x0, .w1c⟩,
    ⟨0x14, 0x0, 1, 0, 16, 0x9700, .ro⟩,
    ⟨0x14, 0x0, 1, 16, 8, 0x1, .ro⟩,
    ⟨0x14, 0x0, 1, 24, 1, 0x1, .ro⟩,
    ⟨0x18, 0x0, 1, 0, 17, 0x0, .rw⟩,
    ⟨0x1C, 0x0, 1, 0, 17, 0x0, .ro⟩,
    ⟨0x20, 0x0, 1, 0, 32, 0x0, .ro⟩,
    ⟨0x24, 0x0, 1, 0, 32, 0x0, .ro⟩,
    ⟨0x28, 0x0, 1, 0, 32, 0x0, .wo⟩,
    ⟨0x2C, 0x0, 1, 0, 32, 0x0, .wo⟩,
    ⟨0x30, 0x0, 1, 0, 32, 0x0, .wo⟩,
    ⟨0x34, 0x0, 1, 0, 32, 0x0, .wo⟩,
    ⟨0x40, 0x0, 1, 0, 16, 0x0, .ro⟩,
    ⟨0x40, 0x0, 1, 16, 1, 0x0, .ro⟩,
    ⟨0x40, 0x0, 1, 31, 1, 0x0, .wo⟩,
    ⟨0x10, 0x0, 1, 0, 1, 0x0, .rw⟩,
    ⟨0x10, 0x0, 1, 1, 1, 0x0, .rw⟩ ]

/-- Rows of the `CHN` register table (R90), part 0. -/
def regRowsCHN0 : List RegRow :=
  [ ⟨0x0, 0x0, 1, 0, 1, 0x0, .rw⟩,
    ⟨0x0, 0x0, 1, 1, 1, 0x0, .wo⟩,
    ⟨0x0, 0x0, 1, 2, 2, 0x0, .rw⟩,
    ⟨0x0, 0x0, 1, 4, 1, 0x1, .rw⟩,
    ⟨0x0, 0x0, 1, 5, 1, 0x1, .rw⟩,
    ⟨0x4, 0x0, 1, 0, 16, 0x0, .ro⟩,
    ⟨0x8, 0x0, 1, 0, 1, 0x0, .ro⟩,
    ⟨0x8, 0x0, 1, 1, 1, 0x0, .ro⟩,
    ⟨0x8, 0x0, 1, 2, 3, 0x0, .ro⟩,
    ⟨0x8, 0x0, 1, 5, 1, 0x0, .ro⟩,
    ⟨0xC, 0x0, 1, 0, 1, 0x0, .w1c⟩,
    ⟨0xC, 0x0, 1, 1, 1, 0x0, .w1c⟩,
    ⟨0xC, 0x0, 1, 2, 1, 0x0, .w1c⟩,
    ⟨0xC, 0x0, 1, 3, 1, 0x0, .w1c⟩,
    ⟨0xC, 0x0, 1, 4, 1, 0x0, .w1c⟩,
    ⟨0xC, 0x0, 1, 5, 1, 0x0, .w1c⟩,
    ⟨0xC, 0x0, 1, 6, 1, 0x0, .w1c⟩,
    ⟨0xC, 0x0, 1, 7, 1, 0x0, .w1c⟩,
    ⟨0xC, 0x0, 1, 8, 1, 0x0, .w1c⟩,
    ⟨0xC, 0x0, 1, 9, 1, 0x0, .w1c⟩,
    ⟨0xC, 0x0, 1, 10, 1, 0x0, .w1c⟩,
    ⟨0xC, 0x0, 1, 11, 1, 0x0, .w1c⟩,
    ⟨0xC, 0x0, 1, 12, 1, 0x0, .w1c⟩,
    ⟨0x14, 0x0, 1, 0, 3, 0x3, .rw⟩ ]

/-- Rows of the `CHN` register table (R90), part 1. -/
def regRowsCHN1 : List RegRow :=
  [ ⟨0x14, 0x0, 1, 4, 3, 0x3, .rw⟩,
    ⟨0x14, 0x0, 1, 8, 3, 0x2, .rw⟩,
    ⟨0x14, 0x0, 1, 16, 8, 0x18, .rw⟩,
    ⟨0x18, 0x0, 1, 0, 6, 0xA, .rw⟩,
    ⟨0x18, 0x0, 1, 8, 6, 0x1E, .rw⟩,
    ⟨0x18, 0x0, 1, 16, 3, 0x4, .rw⟩,
    ⟨0x1C, 0x0, 1, 0, 8, 0x28, .rw⟩,
    ⟨0x1C, 0x0, 1, 8, 8, 0x80, .rw⟩,
    ⟨0x1C, 0x0, 1, 16, 8, 0x20, .rw⟩,
    ⟨0x1C, 0x0, 1, 24, 8, 0x40, .rw⟩,
    ⟨0x20, 0x0, 1, 0, 16, 0x2EE0, .rw⟩,
    ⟨0x20, 0x0, 1, 16, 8, 0x10, .rw⟩,
    ⟨0x24, 0x0, 1, 0, 16, 0x7D0, .rw⟩,
    ⟨0x24, 0x0, 1, 16, 6, 0x3F, .rw⟩,
    ⟨0x24, 0x0, 1, 24, 4, 0x8, .rw⟩,
    ⟨0x30, 0x0, 1, 0, 24, 0x0, .ro⟩,
    ⟨0x30, 0x0, 1, 24, 8, 0x0, .ro⟩,
    ⟨0x34, 0x0, 1, 0, 4, 0x0, .ro⟩,
    ⟨0x34, 0x0, 1, 4, 6, 0x0, .ro⟩,
    ⟨0x34, 0x0, 1, 10, 3, 0x0, .ro⟩,
    ⟨0x34, 0x0, 1, 13, 3, 0x0, .ro⟩,
    ⟨0x34, 0x0, 1, 16, 4, 0x0, .ro⟩,
    ⟨0x80, 0x0, 1, 0, 1, 0x0, .rw⟩,
    ⟨0x84, 0x0, 1, 0, 8, 0x0, .rw⟩ ]

/-- Rows of the `CHN` register table (R90), part 2. -/
def regRowsCHN2 : List RegRow :=
  [ ⟨0x40, 0x0, 1, 0, 16, 0x0, .ro⟩,
    ⟨0x40, 0x0, 1, 16, 1, 0x0, .ro⟩,
    ⟨0x40, 0x0, 1, 31, 1, 0x0, .wo⟩,
    ⟨0x44, 0x0, 1, 0, 16, 0x0, .ro⟩,
    ⟨0x44, 0x0, 1, 16, 1, 0x0, .ro⟩,
    ⟨0x44, 0x0, 1, 31, 1, 0x0, .wo⟩,
    ⟨0x48, 0x0, 1, 0, 16, 0x0, .ro⟩,
    ⟨0x48, 0x0, 1, 16, 1, 0x0, .ro⟩,
    ⟨0x48, 0x0, 1, 31, 1, 0x0, .wo⟩,
    ⟨0x4C, 0x0, 1, 0, 16, 0x0, .ro⟩,
    ⟨0x4C, 0x0, 1, 16, 1, 0x0, .ro⟩,
    ⟨0x4C, 0x0, 1, 31, 1, 0x0, .wo⟩,
    ⟨0x50, 0x0, 1, 0, 16, 0x0, .ro⟩,
    ⟨0x50, 0x0, 1, 16, 1, 0x0, .ro⟩,
    ⟨0x50, 0x0, 1, 31, 1, 0x0, .wo⟩,
    ⟨0x54, 0x0, 1, 0, 16, 0x0, .ro⟩,
    ⟨0x54, 0x0, 1, 16, 1, 0x0, .ro⟩,
    ⟨0x54, 0x0, 1, 31, 1, 0x0, .wo⟩,
    ⟨0x58, 0x0, 1, 0, 16, 0x0, .ro⟩,
    ⟨0x58, 0x0, 1, 16, 1, 0x0, .ro⟩,
    ⟨0x58, 0x0, 1, 31, 1, 0x0, .wo⟩,
    ⟨0x5C, 0x0, 1, 0, 16, 0x0, .ro⟩,
    ⟨0x5C, 0x0, 1, 16, 1, 0x0, .ro⟩,
    ⟨0x5C, 0x0, 1, 31, 1, 0x0, .wo⟩ ]

/-- Rows of the `CHN` register table (R90), part 3. -/
def regRowsCHN3 : List RegRow :=
  [ ⟨0x10, 0x0, 1, 0, 1, 0x0, .rw⟩,
    ⟨0x10, 0x0, 1, 1, 1, 0x0, .rw⟩,
    ⟨0x10, 0x0, 1, 2, 1, 0x0, .rw⟩,
    ⟨0x10, 0x0, 1, 3, 1, 0x0, .rw⟩,
    ⟨0x10, 0x0, 1, 4, 1, 0x0, .rw⟩,
    ⟨0x10, 0x0, 1, 5, 1, 0x0, .rw⟩,
    ⟨0x10, 0x0, 1, 6, 1, 0x0, .rw⟩,
    ⟨0x10, 0x0, 1, 7, 1, 0x0, .rw⟩,
    ⟨0x10, 0x0, 1, 8, 1, 0x0, .rw⟩,
    ⟨0x10, 0x0, 1, 9, 1, 0x0, .rw⟩,
    ⟨0x10, 0x0, 1, 10, 1, 0x0, .rw⟩,
    ⟨0x10, 0x0, 1, 11, 1, 0x0, .rw⟩,
    ⟨0x10, 0x0, 1, 12, 1, 0x0, .rw⟩ ]

/-- Rows of the `SPT` register table (R119), part 0. -/
def regRowsSPT0 : List RegRow :=
  [ ⟨0x0, 0x0, 1, 0, 1, 0x0, .rw⟩,
    ⟨0x0, 0x0, 1, 1, 1, 0x0, .rw⟩,
    ⟨0x4, 0x0, 1, 0, 16, 0x0, .ro⟩,
    ⟨0x8, 0x0, 1, 0, 1, 0x0, .ro⟩,
    ⟨0x8, 0x0, 1, 1, 1, 0x0, .ro⟩,
    ⟨0x8, 0x0, 1, 2, 1, 0x0, .ro⟩,
    ⟨0x8, 0x0, 1, 3, 1, 0x0, .ro⟩,
    ⟨0x8, 0x0, 1, 4, 1, 0x0, .ro⟩,
    ⟨0x8, 0x0, 1, 5, 4, 0x0, .ro⟩,
    ⟨0x8, 0x0, 1, 9, 1, 0x0, .ro⟩,
    ⟨0xC, 0x0, 1, 0, 1, 0x0, .w1c⟩,
    ⟨0xC, 0x0, 1, 1, 1, 0x0, .w1c⟩,
    ⟨0xC, 0x0, 1, 2, 1, 0x0, .w1c⟩,
    ⟨0xC, 0x0, 1, 3, 1, 0x0, .w1c⟩,
    ⟨0xC, 0x0, 1, 4, 1, 0x0, .w1c⟩,
    ⟨0xC, 0x0, 1, 5, 1, 0x0, .w1c⟩,
    ⟨0xC, 0x0, 1, 6, 1, 0x0, .w1c⟩,
    ⟨0xC, 0x0, 1, 7, 1, 0x0, .w1c⟩,
    ⟨0xC, 0x0, 1, 8, 1, 0x0, .w1c⟩,
    ⟨0x14, 0x0, 1, 0, 8, 0x28, .rw⟩,
    ⟨0x14, 0x0, 1, 8, 8, 0x14, .rw⟩,
    ⟨0x14, 0x0, 1, 16, 8, 0x3C, .rw⟩,
    ⟨0x18, 0x0, 1, 0, 4, 0x8, .rw⟩,
    ⟨0x18, 0x0, 1, 4, 3, 0x0, .rw⟩ ]

/-- Rows of the `SPT` register table (R119), part 1. -/
def regRowsSPT1 : List RegRow :=
  [ ⟨0x18, 0x0, 1, 7, 1, 0x1, .rw⟩,
    ⟨0x20, 0x0, 1, 0, 4, 0x0, .rw⟩,
    ⟨0x20, 0x0, 1, 4, 3, 0x0, .rw⟩,
    ⟨0x20, 0x0, 1, 31, 1, 0x0, .wo⟩,
    ⟨0x24, 0x0, 1, 0, 32, 0x0, .ro⟩,
    ⟨0x28, 0x0, 1, 0, 32, 0x0, .ro⟩,
    ⟨0x2C, 0x0, 1, 0, 16, 0x0, .ro⟩,
    ⟨0x2C, 0x0, 1, 16, 4, 0x0, .ro⟩,
    ⟨0x30, 0x0, 1, 0, 10, 0x0, .w1c⟩,
    ⟨0x40, 0x0, 1, 0, 16, 0x0, .ro⟩,
    ⟨0x40, 0x0, 1, 16, 1, 0x0, .ro⟩,
    ⟨0x40, 0x0, 1, 31, 1, 0x0, .wo⟩,
    ⟨0x44, 0x0, 1, 0, 16, 0x0, .ro⟩,
    ⟨0x44, 0x0, 1, 16, 1, 0x0, .ro⟩,
    ⟨0x44, 0x0, 1, 31, 1, 0x0, .wo⟩,
    ⟨0x48, 0x0, 1, 0, 16, 0x0, .ro⟩,
    ⟨0x48, 0x0, 1, 16, 1, 0x0, .ro⟩,
    ⟨0x48, 0x0, 1, 31, 1, 0x0, .wo⟩,
    ⟨0x4C, 0x0, 1, 0, 16, 0x0, .ro⟩,
    ⟨0x4C, 0x0, 1, 16, 1, 0x0, .ro⟩,
    ⟨0x4C, 0x0, 1, 31, 1, 0x0, .wo⟩,
    ⟨0x10, 0x0, 1, 0, 1, 0x0, .rw⟩,
    ⟨0x10, 0x0, 1, 1, 1, 0x0, .rw⟩,
    ⟨0x10, 0x0, 1, 2, 1, 0x0, .rw⟩ ]

/-- Rows of the `SPT` register table (R119), part 2. -/
def regRowsSPT2 : List RegRow :=
  [ ⟨0x10, 0x0, 1, 3, 1, 0x0, .rw⟩,
    ⟨0x10, 0x0, 1, 4, 1, 0x0, .rw⟩,
    ⟨0x10, 0x0, 1, 5, 1, 0x0, .rw⟩,
    ⟨0x10, 0x0, 1, 6, 1, 0x0, .rw⟩,
    ⟨0x10, 0x0, 1, 7, 1, 0x0, .rw⟩,
    ⟨0x10, 0x0, 1, 8, 1, 0x0, .rw⟩ ]

/-- The register table of a block, by block id (R15); empty for a reserved id. -/
def regRows (blk : Nat) : List RegRow :=
  match blk with
  | 0x01 => regRowsFAB0 ++ regRowsFAB1
  | 0x02 => regRowsCMD0 ++ regRowsCMD1
  | 0x03 => regRowsTKB0
  | 0x04 => regRowsCLP0
  | 0x05 => regRowsRMC0 ++ regRowsRMC1
  | 0x06 => regRowsTRU0
  | 0x07 => regRowsPWK0 ++ regRowsPWK1
  | 0x08 => regRowsCLOAK0
  | 0x09 => regRowsHBM0 ++ regRowsHBM1
  | 0x0A => regRowsPKT0 ++ regRowsPKT1
  | 0x0B => regRowsMMG0 ++ regRowsMMG1 ++ regRowsMMG2
  | 0x0C => regRowsCHN0 ++ regRowsCHN1 ++ regRowsCHN2 ++ regRowsCHN3
  | 0x0D => regRowsSEQ0 ++ regRowsSEQ1
  | 0x0E => regRowsSRV0 ++ regRowsSRV1 ++ regRowsSRV2 ++ regRowsSRV3
  | 0x0F => regRowsTRZ0 ++ regRowsTRZ1
  | 0x10 => regRowsCRL0 ++ regRowsCRL1 ++ regRowsCRL2
  | 0x11 => regRowsSTM0 ++ regRowsSTM1 ++ regRowsSTM2
  | 0x12 => regRowsSPT0 ++ regRowsSPT1 ++ regRowsSPT2
  | 0x13 => regRowsTFH0
  | 0x14 => regRowsWDB0 ++ regRowsWDB1
  | 0x15 => regRowsSNT0
  | 0x16 => regRowsCVN0 ++ regRowsCVN1
  | 0x17 => regRowsPSL0 ++ regRowsPSL1
  | 0x18 => regRowsTLR0 ++ regRowsTLR1 ++ regRowsTLR2 ++ regRowsTLR3 ++ regRowsTLR4
  | 0x19 => regRowsPBL0 ++ regRowsPBL1
  | 0x1A => regRowsSDS0
  | _ => []

/-- Bit of a block's event register that says a counter saturated (R91), where the block has one. -/
def cntSatBit (blk : Nat) : Option Nat :=
  match blk with
  | 0x01 => some 7
  | 0x02 => some 4
  | 0x05 => some 3
  | 0x06 => some 3
  | 0x07 => some 6
  | 0x09 => some 5
  | 0x0A => some 5
  | 0x0B => some 8
  | 0x0C => some 12
  | 0x0D => some 5
  | 0x0E => some 8
  | 0x0F => some 6
  | 0x10 => some 9
  | 0x11 => some 11
  | 0x12 => some 8
  | 0x13 => some 2
  | 0x14 => some 5
  | 0x15 => some 3
  | 0x16 => some 5
  | 0x17 => some 5
  | 0x18 => some 4
  | 0x19 => some 4
  | 0x1A => some 1
  | _ => none

end Sys2Proof.Machine
end

