-- ==== Sys2Proof/Machine/State.lean ====
section
/-!
DEFINITION. The machine's state as plain data, the reasons a step can stop, and the state after reset.

Registers and scalar engine state live in one map `flds`, keyed by the field descriptors of `Machine/RegMap.lean` and
`Machine/Vars.lean`; a field not listed holds the reset value its descriptor carries. Tables that have byte offsets in a
block's window live in `win`. The other fields are the records, queues and arrays the spec gives each subsystem.
-/

namespace Sys2Proof.Machine

/-! ## Records of the event recorder, the notification controller and the actuators -/

/-- A descriptor a block posts to the event recorder (R470). `data` lists the values in the order of the code's table. -/
structure Desc where
  blk  : Nat
  code : Nat
  sev  : Nat
  inst : Nat
  data : List Nat
deriving DecidableEq, Repr

/-- A record of the event recorder (R467), open, buffered or in the ring. -/
structure Rec where
  seq       : Nat
  opsec     : Nat
  pcyc      : Nat
  desc      : Desc
  repSat    : Bool
  lost      : Bool
  opsecSat  : Bool
  pcycSat   : Bool
  rcTime    : Bool
  reps      : Nat
  lostCnt   : Nat
  lastOpsec : Nat
deriving DecidableEq, Repr

/-- What a media operation of an actuator is for (R298). -/
inductive JobKind where
  | read
  | write
  | durable
  | reclaim
  | relay
  | overwrite
  | calibrate
  | verify
deriving DecidableEq, Repr

/-- A media operation in an actuator's queue (R298): a read run on one track, a track write, or a background step. `k` is the
number of data sectors a whole track of the zone and class has, `kd` the number this track has (R50), `tgen` the generation
a write gives it (R44). -/
structure Job where
  id      : Nat
  kind    : JobKind
  cmd     : Option Nat
  lhead   : Nat
  zone    : Nat
  track   : Nat
  dcls    : Nat
  first   : Nat
  count   : Nat
  mPar    : Nat
  nsid    : Nat
  lba     : Nat
  nlb     : Nat
  wedge   : Nat
  bornMs  : Nat
  limited : Bool
  prot    : Bool
  k       : Nat
  kd      : Nat
  tgen    : Nat
  deriving DecidableEq, Repr

/-- A sector inside the channel on a first pass (R73 to R81): whether its SM1 was missed, so that codeword bits 0 to 4,095 enter as
erasures, whether it was re-framed (R80); its flagged spans as first bit, bit after the last, and 0 for zeroed LLRs or 1 plus the
reader muted (R76); the shift of each fragment sync mark (R81); the LLRs of its codeword bits (R72). -/
structure Sect where
  sidx    : Nat
  ta      : Bool
  frame   : Int
  eras    : Bool
  cause   : Nat
  noSm1   : Bool
  reframe : Bool
  spans   : List (Nat × Nat × Nat)
  fsm     : List Int
  llr     : List Int
deriving DecidableEq, Repr

/-- The read operation of one channel: entry in use, adapted values, sectors of the first pass, retry ladder. `loaded` is the
local head and zone whose entry was loaded last, `base` its values, `flags` its flags, `ctle` its two CTLE codes as in use
(R70, R71, R85), `ctle0` the codes of the entry; these outlast the operation. `done` is the status with which a read waits for its
last commit point (R129). `fixed` holds the user bytes of the sectors rung 5 rebuilt (R83). -/
structure ReadOp where
  active  : Bool
  job     : Option Job
  zone    : Nat
  single  : Bool
  adapt   : List Int
  cur     : Option Sect
  dec     : List Sect
  known   : Nat
  failed  : List (Nat × Nat)
  todo    : List (Nat × Nat)
  later   : List (Nat × Nat)
  step    : Nat
  timeUp  : Bool
  abort   : Bool
  loaded  : Option (Nat × Nat)
  base    : List Int
  flags   : Nat
  ctle    : List Nat
  ctle0   : List Nat
  done    : Option (Nat × Nat)
  fixed   : List (Nat × List Byte)
deriving DecidableEq, Repr

/-- No read operation. -/
def ReadOp.idle : ReadOp :=
  ⟨false, none, 0, false, [], none, [], 0, [], [], [], 0, false, false, none, [], 0, [], [], none, []⟩

/-- The running state of one sequencer beyond its registers: accumulators, return stack, job, restarts; what the routine is
for, failed sectors already committed (R131), whether no word has run yet (R133), the job started last. -/
structure SeqRun where
  acc      : List Nat
  stack    : List Nat
  job      : Option Job
  routine  : Nat
  nr       : Bool
  returned : Option Job
  restarts : Nat
  mchkAt   : List (Nat × Nat)
  kind     : RoutineKind
  kept     : List (Nat × Nat)
  fresh    : Bool
  lastId   : Option Nat
deriving DecidableEq, Repr

/-- A sequencer with no job. -/
def SeqRun.idle : SeqRun := ⟨List.replicate 16 0, [], none, 0, false, none, 0, [], .job, [], false, none⟩

/-! ## Commands in flight, controllers, namespaces -/

/-- A Turnstile entry (R294): a scope `[lo, hi)` of a namespace (logical blocks, key numbers or memory bytes) and whether
it is a write entry. -/
structure TsEnt where
  nsid  : Nat
  lo    : Nat
  hi    : Nat
  write : Bool
deriving DecidableEq, Repr

/-- Data a completion or a response carries. -/
inductive Payload where
  | none
  | blocks (l : List Block)
  | bytes (l : List Byte)
  | fields (l : List Nat)
  | recs (l : List Rec)
deriving DecidableEq, Repr

/-- A completion sent to a host: status code type, status code, Do Not Retry, Dword 0, data. -/
structure Cqe where
  id   : CmdId
  sct  : Nat
  sc   : Nat
  dnr  : Bool
  dw0  : Nat
  data : Payload
deriving DecidableEq, Repr

/-- What a command in flight does when nothing is left to wait for, besides its completion; a delete keeps how many
commands it waited for and the millisecond it was taken, a Memory Copy its destination and its sources as namespace,
first block or byte, and length. -/
inductive CmdFin where
  | plain
  | zoneReset (nsid : Nat) (zones : List Nat)
  | zoneFinish (nsid : Nat) (zones : List Nat)
  | delete (nsids : List Nat) (drained ms : Nat)
  | copy (dst : Nat) (srcs : List (Nat × Nat × Nat))
deriving DecidableEq, Repr

/-- A command in flight (R292): admission number, the namespace it names, its Turnstile entries, whether it is stalled,
whether its work has begun, media operations still to end, the status gathered so far, the blocks it returns when it ends
or the data it returns, the durable points it waits for as (actuator, write order), what it does at its end, the blocks that the
outer code rebuilt for it, by `lbaKey` (R83). -/
structure Cmd where
  id      : CmdId
  no      : Nat
  nsid    : Nat
  ents    : List TsEnt
  stalled : Bool
  begun   : Bool
  parts   : Nat
  sct     : Nat
  sc      : Nat
  dw0     : Nat
  range   : Option (Nat × Nat × Nat)
  data    : Payload
  points  : List (Nat × Nat)
  fin     : CmdFin
  fixed   : List (Nat × Block)
deriving DecidableEq, Repr

/-- A controller (R280 to R286). `pairs` are the I/O queue pairs it holds, `aers` the Asynchronous Event Requests held,
`notices` those due and not yet reported, `temps` its temperature thresholds, `member` that its host has authenticated as
a peer-group member (R339), `conn` the connection data of its Connect (R319), `lostq` the queues whose connection failed
(R312). -/
structure Ctrl where
  hostId  : Nat
  hostNqn : List Byte
  pairs   : Nat
  noqSet  : Bool
  kato    : Nat
  aen     : Nat
  aers    : List CmdId
  notices : List Nat
  temps   : List (Nat × Nat)
  changed : List Nat
  changedZones : List Nat
  member  : Bool
  conn    : List Nat
  lostq   : List Nat
  disc    : Bool
deriving DecidableEq, Repr

/-- A storage namespace (R287 to R289). `key` is the generation of its encryption key, `keyOk` that the key unwrapped
(R329); `comp`, `prot` and `obj` are the service defaults it was created under (R332, R333, R339); `bands` are the bands drawn
for its extents or its values (R251, R331); `frag` marks the fragment
namespace of a peer group (R339); `del` is the admission number of the command that deletes it; `klog` is where the values of
a Key Value namespace go on: actuator, band, next granule. -/
structure Ns where
  csi    : Nat
  nsze   : Nat
  mask   : Nat
  enc    : Bool
  comp   : Bool
  prot   : Bool
  obj    : Bool
  frag   : Bool
  bands  : List Nat
  key    : Nat
  keyOk  : Bool
  att    : List Nat
  budget : Nat
  erase  : Bool
  del    : Option Nat
  klog   : List (Nat × Nat × Nat)
deriving DecidableEq, Repr

/-- A zone of a zoned namespace: state code, write pointer as an offset in the zone, the write pointer of its last durable
point (R258), flags and class of R250. -/
structure Zone where
  st      : Nat
  wp      : Nat
  dwp     : Nat
  atRisk  : Bool
  weak    : Bool
  reloc   : Bool
  nextDc  : Option Nat
  dcls    : Nat
  risk    : Nat
  weakTrk : Nat
  altCnt  : Nat
  bands   : List Nat
deriving DecidableEq, Repr

/-- An address of a port (R314 to R317): the port it belongs to, the address, IPv6, from DHCP or SLAAC, in service, the port
that holds it. -/
structure NetAddr where
  port   : Nat
  addr   : Nat
  v6     : Bool
  dyn    : Bool
  ok     : Bool
  holder : Nat
deriving DecidableEq, Repr

/-- States of a band (R246). -/
inductive BandSt where
  | free | open_ | full | assigned | retired | defect
deriving DecidableEq, Repr

/-- A band of the media map (R245, R246): state, class, first track, tracks written, held under R266, write sequence
(R44), slack tracks that joined it (R57). -/
structure Band where
  st    : BandSt
  zone  : Nat
  dcls  : Nat
  first : Nat
  done  : Nat
  held  : Bool
  bseq  : Nat
  slack : Nat
deriving DecidableEq, Repr

/-- A block written and not yet in a band or released: its data, its place in completion order, whether its track is on the
media, whether a durable point covers it as part of a landed tail (R254), whether its own actuator's point has stood while
another part of its write waits for another actuator's (R257). -/
structure Vol where
  blk    : Block
  seq    : Nat
  landed : Bool
  tail   : Bool
  half   : Bool
deriving DecidableEq, Repr

/-- A track of the media cache's log (R252): its place on the circle, the writes it was planned under (R254), 0 planned, 1
written, 2 under a durable-point record, its long sectors by namespace and first block. -/
structure CTrack where
  pos   : Nat
  bound : Nat
  st    : Nat
  secs  : List (Nat × Nat)
deriving DecidableEq, Repr

/-- A durable-point record of the system tracks (R254): its number, the media cache's log head, and for each OPEN band its
id, tracks written and the long sectors of its landed tail. -/
structure DurRec where
  no    : Nat
  head  : Nat
  bands : List (Nat × Nat × Nat)
deriving DecidableEq, Repr

/-- A journal record of the media manager (R268). -/
structure JRec where
  jseq  : Nat
  opid  : Nat
  typ   : Nat
  step  : Nat
  act   : Nat
  opsec : Nat
  param : List Nat
deriving DecidableEq, Repr

/-- A multi-step operation of the media manager: band reclaim (type 1), re-lay (2) or overwrite (3) (R265, R267, R273).
`step` is the last step whose record stands, `fails` how often the next one has failed; `todo` are the bands (0, id) and the
conventional tracks (1, number in the region) that an overwrite writes, or the bands a re-lay holds, whose tracks `nsid` counts. -/
structure MOp where
  opid   : Nat
  typ    : Nat
  act    : Nat
  step   : Nat
  fails  : Nat
  src    : Nat
  dst    : Nat
  cause  : Nat
  dcls   : Nat
  copied : Nat
  left   : Nat
  nsid   : Nat
  paused : Bool
  todo   : List (Nat × Nat)
deriving DecidableEq, Repr

/-- A demand of Tailor that waits while `ALT_EN` is 0 (R266): head, recording zone, new class, predicted hours. -/
structure Demand where
  head  : Nat
  zone  : Nat
  dcls  : Nat
  risk  : Nat
deriving DecidableEq, Repr

/-- A Device Self-test in progress (R291): extended, namespace, segment running, whether one failed, what failed first, what the
servo counters showed when segment 3 began. -/
structure SelfTest where
  ext    : Bool
  nsid   : Nat
  seg    : Nat
  failed : Nat
  failNs : Nat
  failLba : Nat
  marks   : Nat
  by_    : CmdId
deriving DecidableEq, Repr

/-- What Trapeze keeps of one loop beyond its descriptor and parameter block (R169 to R183): the absolute deadline of the
instance that is due, its trigger time, whether its sample is good, whether its routine has been dispatched, triggers
counted for `DIV`, whether the loop has run since it became active, consecutive misses, the start of its following-error
timer, write permission it withholds, whether its reference is parameter word 0 for this trigger. -/
structure Loop where
  due    : Option Nat
  trig   : Nat
  good   : Bool
  run    : Bool
  divc   : Nat
  ran    : Bool
  misses : Nat
  feT    : Option Nat
  inh    : Bool
  ref0   : Bool
deriving DecidableEq, Repr

/-- A loop at its enable. -/
def Loop.idle : Loop := ⟨none, 0, false, false, 0, false, 0, none, false, false⟩

/-! ## Wardrobe (R407 to R412) -/

/-- The status record of a block (R408): erases counted, and whether the block is erase-incomplete. -/
structure BlkRec where
  erases : Nat
  bad    : Bool
deriving DecidableEq, Repr

/-- A program or erase in a bank: global block, byte address and data of a program, suspended, suspends counted. -/
structure FlashOp where
  erase : Bool
  blk   : Nat
  addr  : Nat
  data  : List Byte
  susp  : Bool
  cnt   : Nat
deriving DecidableEq, Repr

/-- A request that waits for its bank (R410). -/
inductive FlashReq where
  | read (addr n : Nat)
  | prog (addr : Nat) (data : List Byte)
  | erase (blk : Nat)
deriving DecidableEq, Repr


/-! ## Mailboxes (R351 to R362) -/

/-- A Casgus request from its acceptance until its response has been read (R359): mailbox, place in the acceptance order,
header fields, payload, response limit of its transport (R375), whether it has started, whether its response is formed and
what it is, whether the response will be discarded (R352), its place among the ready responses, instances whose shadow
writes it waits for (R385). -/
structure Req where
  mb      : Nat
  no      : Nat
  op      : Nat
  flags   : Nat
  tag     : Nat
  nonce   : List Byte
  body    : List Byte
  limit   : Nat
  run     : Bool
  done    : Bool
  status  : Nat
  reason  : Nat
  rsp     : List Byte
  discard : Bool
  ready   : Option Nat
  waits   : List (Nat × Nat)
deriving DecidableEq, Repr

/-- A nonce issued and not used: mailbox, bytes, millisecond of its issue (R358). -/
structure Nonce where
  mb : Nat
  n  : List Byte
  ms : Nat
deriving DecidableEq, Repr

/-- A line of Pocket (R398): tag, dirty, and the 128 bytes of a dirty line. -/
structure Line where
  tag   : Nat
  dirty : Bool
  data  : List Byte
deriving DecidableEq, Repr


/-! ## Services (R330 to R345) -/

/-- An index entry of the object service with its value (R330): value as stored by the host, generation, length on media,
protected, committed object's part count, part, stripe, offset in it, whether the entry fails its
CRC, its place `LOC` of an unprotected value, compressed, in a pack stripe, committed object. -/
structure KvEnt where
  val    : List Byte
  gen    : Nat
  slen   : Nat
  prot   : Bool
  nparts : Nat
  part   : Bool
  stripe : Option Nat
  sofs   : Nat
  bad    : Bool
  loc    : Option Nat
  comp   : Bool
  pack   : Bool
  comm   : Bool
deriving DecidableEq, Repr

/-- A change of an index entry not yet under a durable point (R331): namespace, key number, the new entry or none for a
delete, place in completion order, actuator. -/
structure KvOp where
  nsid : Nat
  key  : Nat
  ent  : Option KvEnt
  seq  : Nat
  act  : Nat
deriving DecidableEq, Repr

/-- A program slot of a compute namespace (R334): the image's instructions, and whether it is activated. -/
structure Prog where
  code   : List Nat
  active : Bool
deriving DecidableEq, Repr

/-- A program run (R335 to R337): its command, slot, registers, next instruction, bytes written to the stack and the
counter of free values its other bytes come from, frames of local calls (return address, saved r6 to r9), instructions
left, memory ranges, and the helper it waits for. -/
structure Run where
  cmd    : Nat
  slot   : Nat
  regs   : List Nat
  pc     : Nat
  stack  : List (Nat × Option Byte)
  seed   : Nat
  calls  : List (Nat × List Nat)
  left   : Nat
  ranges : List (Nat × Nat)
  helper : Option Nat
deriving DecidableEq, Repr

/-- A member of the peer group or a candidate (R340, R341): serial number, controller that authenticated, largest k, m and
fragment code it supports, whether it is heard, its epoch. -/
structure Peer where
  serial : List Byte
  cntlid : Nat
  kMax   : Nat
  mMax   : Nat
  fMax   : Nat
  heard  : Bool
  epoch  : Nat
deriving DecidableEq, Repr

/-- A proposal of a membership (R341): epoch, member serials, acknowledgements counted by the proposer, whether this drive
proposed it, whether it is stored and acknowledged here. -/
structure Proposal where
  epoch   : Nat
  members : List (List Byte)
  acks    : List (List Byte)
  mine    : Bool
  stored  : Bool
deriving DecidableEq, Repr

/-- A fragment of a stripe (R342 to R345): holder's serial, 0 sent, 1 acknowledged, 3 refused by every member that could
take it, whether it fails its checks, the place of this drive's own. -/
structure Frag where
  holder : List Byte
  st     : Nat
  bad    : Bool
  loc    : Option Nat
deriving DecidableEq, Repr

/-- A stripe this drive coordinates (R342): number, namespace, first key, data length, fragment size, epoch at placement,
fragments, admission numbers of the Flush commands that wait for its acknowledgement, whether it is sealed, whether it is a
pack stripe, its data as stored: ciphertext of an encrypted namespace (R327). -/
structure Stripe where
  no     : Nat
  nsid   : Nat
  key    : Nat
  len    : Nat
  f      : Nat
  epoch  : Nat
  frags  : List Frag
  waits  : List Nat
  sealed : Bool
  pack   : Bool
  data   : List Byte
deriving DecidableEq, Repr



/-! ## Tailor (R448 to R462) -/

/-- An ageing record (R458): sequence number, operating seconds, head or 255, cause, items measured, GB written, the five
head or device items, highest erase count of a device record, margin per zone as stored, class per zone. -/
structure AgeRec where
  aseq  : Nat
  opsec : Nat
  head  : Nat
  cause : Nat
  flags : Nat
  gbw   : Nat
  items : List Nat
  wear  : Nat
  mgn   : List Nat
  zdc   : List Nat
deriving DecidableEq, Repr



/-! ## Catalogue (R382 to R385) -/

/-- A request whose action waits for another command: its place in the acceptance order, what stands outside the block for
its enables, instances or entries still to do, whether the first of them has begun and waits, results of the instances
done: instance, `STATE`, reason, status. -/
structure Work where
  no      : Nat
  w       : World
  todo    : List Nat
  waiting : Bool
  acc     : List (Nat × Nat × Nat × Nat)
deriving DecidableEq, Repr

/-- A shadow write: the request it belongs to, the mailbox, the actuator whose address mark commits it, block, instance,
offset, value (R385). -/
structure Shadow where
  no   : Nat
  mb   : Nat
  act  : Nat
  blk  : Nat
  inst : Nat
  off  : Nat
  val  : Nat
deriving DecidableEq, Repr


/-! ## The media (R41 to R50) -/

/-- The metadata of a long sector (R44): `lba0` none stands for all ones. -/
structure SMeta where
  head   : Nat
  parity : Bool
  dcls   : Nat
  track  : Nat
  sidx   : Nat
  ndata  : Nat
  npar   : Nat
  lba0   : Option Nat
  nsid   : Nat
  tgen   : Nat
  bseq   : Nat
  bcrc   : List Nat
deriving DecidableEq, Repr

/-- A track as it stands on the media (R41 to R50): where it starts, its zone and class, how many data sectors it was
planned for and how many it carries, parity sectors, metadata of each sector, stored user bytes of the data sectors. -/
structure MTrack where
  wedge : Nat
  zone  : Nat
  dcls  : Nat
  k     : Nat
  kd    : Nat
  m     : Nat
  tgen  : Nat
  metas : List SMeta
  data  : List (List Byte)
deriving DecidableEq, Repr


/-! ## Outcomes -/

/-- Why the machine stops. Every reason is safe: the hardware's own behaviour there is not given. -/
inductive Fault where
  /-- An internal flash operation names an address outside the 256 MiB of the four banks (R407). Raised by the Wardrobe
  meanings; safe. -/
  | noSuchFlash
deriving DecidableEq, Repr

/-- Why a command has no meaning here. -/
inductive Refusal where
  /-- The command has no meaning in this model yet; raised by the dispatcher alone; safe. -/
  | notModelled (mnemonic : String)
deriving DecidableEq, Repr

/-- The state of the block. -/
structure State where
  /-- Registers and scalar engine state: fields that differ from their reset value, in the order of `Fld.before`. -/
  flds : List (Fld × Nat)
  /-- Byte tables in the blocks' windows, keyed by `winKey`; an unlisted byte reads 0. -/
  win : List (Nat × Byte)
  /-- The model's own counter of free values drawn (no state of the spec). -/
  free : Nat
  /-- Sources whose level rose and whose edge waits for its bank, oldest first (R364). -/
  edges : List Nat
  /-- Descriptors posted and not yet accepted by the event recorder, oldest first (R470). -/
  inbox : List Desc
  /-- Read operation of each channel (R70 to R89). -/
  chn : List (Nat × ReadOp)
  /-- Running state of each sequencer (R124 to R135). -/
  seqs : List (Nat × SeqRun)
  /-- Control store of each sequencer, by word address; an empty list before the first load (R123). -/
  bstore : List (Nat × List BarkerWord)
  /-- Transitions of the fragment last sent on `WD` of each actuator, in 1/64 bit from its first bit (R102, R103). -/
  wd : List (Nat × List Int)
  /-- Tracks as they stand on the media, by `trkKey` (R41 to R50). -/
  media : List (Nat × Option MTrack)
  /-- Media cache of each actuator: its circular log, oldest track first (R252). -/
  mcache : List (Nat × List CTrack)
  /-- Durable-point records on the two copies of each actuator's system tracks, by 2 × actuator + copy (R254). -/
  sysrec : List (Nat × Option DurRec)
  /-- Preamp registers as written over Lanyard, keyed by `paKey` (R97). -/
  pa : List (Nat × Nat)
  /-- The Juggler's queue of each actuator, oldest first (R298). -/
  jq : List (Nat × List Job)
  /-- The media operation each actuator is running (R299). -/
  jact : List (Nat × Option Job)
  /-- Number of the next media operation. -/
  jobNo : Nat
  /-- The option area in force (R413 to R415), by offset. -/
  opt : List (Nat × Byte)
  /-- The format record in effect since the last commit (R53, R55), by offset in the record. -/
  fmt : List (Nat × Byte)
  /-- Commands in flight, in admission order (R292, R294). -/
  cmds : List Cmd
  /-- Admission number of the next command. -/
  cmdNo : Nat
  /-- Completions sent to the hosts, oldest first. -/
  cqs : List Cqe
  /-- Controllers by CNTLID (R280). -/
  ctrls : List (Nat × Option Ctrl)
  /-- Round robin of intake: (controller, queue) in the order of their next visits (R283). -/
  visit : List (Nat × Nat)
  /-- Storage namespaces by NSID (R287). -/
  nss : List (Nat × Option Ns)
  /-- Zones that are not in their first state, by `zoneKey` (R250). -/
  zones : List (Nat × Option Zone)
  /-- Bands that differ from the layout of the zone-format commit, by band id (R245). -/
  bands : List (Nat × Option Band)
  /-- Blocks written and not under a durable point, by `lbaKey`: in staging, or on a track beyond the point (R253, R258). -/
  vol : List (Nat × Option Vol)
  /-- Blocks under a durable point, by `lbaKey`; an unlisted block reads as zeros (R254, R290). -/
  dur : List (Nat × Block)
  /-- Completion order of writes (R254). -/
  wseq : Nat
  /-- Durable points begun on each actuator and not yet standing, oldest first; each is the write order it covers (R254). -/
  points : List (Nat × List Nat)
  /-- Operations of the media manager in progress (R265, R267, R273). -/
  mops : List MOp
  /-- Next operation id (R268). -/
  opid : Nat
  /-- Journal records in the ring, oldest first (R268). -/
  journal : List JRec
  /-- Next journal sequence number (R268). -/
  jseq : Nat
  /-- Alteration demands queued (R266). -/
  demands : List Demand
  /-- The Device Self-test in progress (R291). -/
  test : Option SelfTest
  /-- Device Self-test results, newest first (R291). -/
  testLog : List (List Nat)
  /-- The Tailor working copy, by the window addresses its values are loaded to (R451, R464). -/
  tstore : List (Nat × Byte)
  /-- Reads passed to Patchwork at rung 6 (R85). -/
  rung6 : List Job
  /-- Burst sums of the last 64 good wedges of each actuator's head, newest first (R147). -/
  amps : List (Nat × List Nat)
  /-- Timebase at the address marks of the last 17 wedges of each actuator, detected or predicted, newest first (R141, R142). -/
  sams : List (Nat × List Nat)
  /-- Trapeze loops by number (R169 to R183) -/
  loops : List (Nat × Loop)
  /-- Trapeze's return stack (R166) -/
  tstk : List Nat
  /-- Shadow of the running routine, words 0 to 127 (R168) -/
  tshd : List (Nat × Int)
  /-- Shared operand words a routine has written, by operand address (R165) -/
  tshr : List (Nat × Int)
  /-- Words of Trapeze's control store that are being rewritten, oldest first (R190) -/
  tscrub : List Nat
  /-- Trapeze's control store by word address; empty before the first load (R164) -/
  cstore : List TrzWord
  /-- Trapeze machine checks: operating second and word address (R191) -/
  tmchk : List (Nat × Nat)
  /-- Cogging learning run: sum and count of each bin (R186) -/
  cog : List (Nat × (Int × Nat))
  /-- The spindle record in effect since the last enable (R221) -/
  spn : List (Nat × Byte)
  /-- The supervision record Strongman has taken (R235) -/
  sup : List (Nat × Byte)
  /-- Wardrobe's array by byte address (R407); an unlisted byte is erased and reads 0xFF. -/
  flash : List (Nat × Byte)
  /-- Status records of the blocks by global block number (R408). -/
  blks : List (Nat × BlkRec)
  /-- Operations of each bank, the executing or last suspended one first (R410). -/
  fops : List (Nat × List FlashOp)
  /-- Requests waiting for each bank, oldest first (R410). -/
  fwait : List (Nat × List FlashReq)
  /-- Data of the last read served. -/
  fread : List Byte
  /-- Pages of the inactive slot whose downloaded data has not reached flash, by page address (R420). -/
  fwPend : List Nat
  /-- Blocks of the inactive slot erased or asked to be in this download session (R420). -/
  fwErased : List Nat
  /-- The open record of the event recorder (R470). -/
  popen : Option Rec
  /-- Closed records in the front-end's buffer, oldest first (R473). -/
  pbuf : List Rec
  /-- Records in the ring by slot (R474); a slot that holds no good record is not listed. -/
  ring : List (Nat × Option Rec)
  /-- Slots of the ring whose program failed, with the sequence number they were to hold (R475). -/
  ringBad : List (Nat × Nat)
  /-- Error Information log: failed completions, newest first in each controller (R286). -/
  errlog : List Cqe
  /-- Memory range sets: base and length of each range (R335). -/
  rsets : List (Nat × List (Nat × Nat))
  /-- Outstanding Casgus requests, in acceptance order (R359, R361). -/
  reqs : List Req
  /-- Place of the next request in the acceptance order (R361). -/
  reqNo : Nat
  /-- Place of the next response in its queue (R361). -/
  rspNo : Nat
  /-- Nonces issued and not used (R358). -/
  nonces : List Nonce
  /-- Receives held by mailbox, with the buffer length (R355). -/
  held : List (Nat × (CmdId × Nat))
  /-- Replies sent over NVMe-MI, oldest first: Dword 0 and data (R356). -/
  miOut : List (Nat × List Byte)
  /-- Valid lines of Pocket by set × 16 + way (R398). -/
  pkt : List (Nat × Option Line)
  /-- HBM by address, as far as the commands reach it: the Subsystem Local Memory partition (R394); an unlisted byte is 0. -/
  hbm : List (Nat × Byte)
  /-- Poisoned 64-byte blocks of that partition, by address / 64 (R395). -/
  poison : List Nat
  /-- Logical blocks marked unrecoverable in the media map, by `lbaKey` (R395). -/
  lost : List Nat
  /-- Index changes not under a durable point, oldest first (R331). -/
  kvLog : List KvOp
  /-- Index entries under a durable point, by namespace × 2^128 + key number (R330, R331). -/
  kvDur : List (Nat × Option KvEnt)
  /-- Program slots by core × 16 + slot (R334). -/
  progs : List (Nat × Option Prog)
  /-- The program run of each core (R335). -/
  progRuns : List (Nat × Option Run)
  /-- The peer-group record by offset (R338). -/
  group : List (Nat × Byte)
  /-- Members of the committed epoch (R341). -/
  members : List Peer
  /-- Candidates admitted and not yet members (R340, R341). -/
  cands : List Peer
  /-- Candidates whose authentication failed, waiting for their retry (R340). -/
  authFail : List (List Byte)
  /-- The open proposal (R341). -/
  proposal : Option Proposal
  /-- Stripes this drive coordinates (R342). -/
  stripes : List Stripe
  /-- Next stripe number (R342). -/
  stripeNo : Nat
  /-- Addresses of the ports (R314 to R317). -/
  addrs : List NetAddr
  /-- Partner data of each port, in the order R319 names them (R319, R379). -/
  partner : List (Nat × List Nat)
  /-- Lost coordinators whose index is being rebuilt here (R342, R378). -/
  peerAdopt : List (List Byte)
  /-- Measured loads of the heads by global head × 8 + kind, 7 for the laser slope (R114, R379). -/
  loads : List (Nat × Nat)
  /-- The image of the slot the running firmware was booted from, as the HBM firmware partition holds it, by offset (R5, R123, R394). -/
  fwImg : List (Nat × Byte)
  /-- The newest half of the Tailor store: tables by the window addresses they are loaded to (R452). -/
  tsave : List (Nat × Byte)
  /-- The same for trim registers and `SRV_HEAD`: those that differ from their reset value (R452). -/
  tregs : List (Fld × Nat)
  /-- `ENC_OFS` as the Tailor store holds it, once the spindle's own measurement replaced it (R203, R452). -/
  tenc : Option Nat
  /-- Expected sensor offsets of the Tailor store in 0.5 °C, signed 16-bit, by (neighbour × 8 + sensor) × 8 + power state (R441). -/
  senseOffs : List (Nat × Nat)
  /-- The ageing record ring, oldest first (R452, R458). -/
  ages : List AgeRec
  /-- Ageing measurements due: head or 255 for the device, cause (R456, R458). -/
  dues : List (Nat × Nat)
  /-- Verification measurements scheduled: head × 64 + zone, operating second (R461). -/
  verifs : List (Nat × Nat)
  /-- First ageing sequence number of the fit, by head × 64 + zone (R460). -/
  fitFrom : List (Nat × Nat)
  /-- Last fitted slope as a fraction of 0.01 dB per second, by head × 64 + zone (R460). -/
  slopes : List (Nat × (Int × Int))
  /-- Class of the last demand plus 1, by head × 64 + zone (R461). -/
  asked : List (Nat × Nat)
  /-- Trace certificate and its history, newest first, five at most (R453, R454). -/
  certs : List (List Byte)
  /-- Requests that wait inside their action for another command (R382, R383). -/
  works : List Work
  /-- Class a demand has asked of an area, by head × 64 + recording zone; 0: none (R263, R266). -/
  altered : List (Nat × Nat)
  /-- Extent slots marked weak, by band × 256 + slot (R259). -/
  weakSlots : List Nat
  /-- Shadow writes that wait for an address mark, oldest first (R385). -/
  shadow : List Shadow
  /-- Data bytes of the last Sideshow read frame; none: MISO stayed high (R498). -/
  miso : Option (List Byte)
  /-- Commands waiting, first in first out. -/
  pending : List Instr
deriving DecidableEq, Repr

/-- The state right after reset: every register and every item of engine state at its reset value (R19), nothing stored
anywhere, no command waiting. -/
def State.reset : State where
  flds := []
  win := []
  free := 0
  edges := []
  inbox := []
  chn := []
  seqs := []
  bstore := []
  wd := []
  media := []
  mcache := []
  sysrec := []
  pa := []
  jq := []
  jact := []
  jobNo := 0
  opt := []
  fmt := []
  cmds := []
  cmdNo := 0
  cqs := []
  ctrls := []
  visit := []
  nss := []
  zones := []
  bands := []
  vol := []
  dur := []
  wseq := 0
  points := []
  mops := []
  opid := 0
  journal := []
  jseq := 0
  demands := []
  test := none
  testLog := []
  tstore := []
  rung6 := []
  amps := []
  sams := []
  loops := []
  tstk := []
  tshd := []
  tshr := []
  tscrub := []
  cstore := []
  tmchk := []
  cog := []
  spn := []
  sup := []
  flash := []
  blks := []
  fops := []
  fwait := []
  fread := []
  fwPend := []
  fwErased := []
  popen := none
  pbuf := []
  ring := []
  ringBad := []
  errlog := []
  rsets := []
  reqs := []
  reqNo := 0
  rspNo := 0
  nonces := []
  held := []
  miOut := []
  pkt := []
  hbm := []
  poison := []
  lost := []
  kvLog := []
  kvDur := []
  progs := []
  progRuns := []
  group := []
  members := []
  cands := []
  authFail := []
  proposal := none
  stripes := []
  stripeNo := 0
  addrs := []
  partner := []
  peerAdopt := []
  loads := []
  fwImg := []
  tsave := []
  tregs := []
  tenc := none
  senseOffs := []
  ages := []
  dues := []
  verifs := []
  fitFrom := []
  slopes := []
  asked := []
  certs := []
  works := []
  altered := []
  weakSlots := []
  shadow := []
  miso := none
  pending := []

end Sys2Proof.Machine
end

