-- ==== Sys2Proof/Machine/Vars.lean ====
section
/-!
DEFINITION. Engine state the spec describes without giving it a register: modes, timers' counts, latched facts. One
definition per item, held in the same field map as the registers (offsets from 0x10000, an array of items 2^28 apart). The block id is that of the
block it belongs to, so a reset of the block clears it; 0x40 holds what only loss of VIN5 clears, 0x41 what nothing
clears, 0x42 what a restart of the resident firmware clears.
-/

namespace Sys2Proof.Machine

/-- Bit of the preamble at which the lock test passed (R66, R67) -/
abbrev V.chnAcqBit (a : Nat) : Fld := ⟨0x0C, a, 0x10000, 0, 8, 0⟩

/-- Sectors of the track flagged by TA in this pass (R93) -/
abbrev V.chnTaCount (a : Nat) : Fld := ⟨0x0C, a, 0x20000, 0, 8, 0⟩

/-- RD_ABORT pending for the next sector boundary (R90) -/
abbrev V.chnAgg (a : Nat) : Fld := ⟨0x0C, a, 0x30000, 0, 1, 0⟩

/-- Lanyard port failed; cleared by clearing and setting EN (R99) -/
abbrev V.sptPortFail (a : Nat) : Fld := ⟨0x12, a, 0x40000, 0, 1, 0⟩

/-- Attempts of the Lanyard transaction in progress (R99) -/
abbrev V.sptTry (a : Nat) : Fld := ⟨0x12, a, 0x50000, 0, 3, 0⟩

/-- Every head of the port held from writing (R111 bits 8 to 10) -/
abbrev V.sptHold (a : Nat) : Fld := ⟨0x12, a, 0x60000, 0, 1, 0⟩

/-- The 100 ms of that hold are over; the flag is awaited (R111) -/
abbrev V.sptHold100 (a : Nat) : Fld := ⟨0x12, a, 0x70000, 0, 1, 0⟩

/-- Measured flex length, 0.1 mm (R100, R104) -/
abbrev V.sptFlexL (a : Nat) : Fld := ⟨0x12, a, 0x80000, 0, 32, 0⟩

/-- Kind of the measurement in progress or waiting (R114) -/
abbrev V.sptMeasKind (a : Nat) : Fld := ⟨0x12, a, 0xA0000, 0, 3, 0⟩

/-- A measurement waits for the write operation to finish (R114) -/
abbrev V.sptMeasWait (a : Nat) : Fld := ⟨0x12, a, 0xB0000, 0, 1, 0⟩

/-- The laser of the selected head is biased (R105) -/
abbrev V.sptLbias (a : Nat) : Fld := ⟨0x12, a, 0xC0000, 0, 1, 0⟩

/-- Enumeration of the port runs (R100) -/
abbrev V.sptEnumBusy (a : Nat) : Fld := ⟨0x12, a, 0xD0000, 0, 1, 0⟩

/-- Heater power of the touchdown step (R113) -/
abbrev V.tdP : Fld := ⟨0x13, 0, 0xE0000, 0, 16, 0⟩

/-- Touchdown step number (R113) -/
abbrev V.tdStep : Fld := ⟨0x13, 0, 0xF0000, 0, 16, 0⟩

/-- Sum of TDS over the first four steps (R113) -/
abbrev V.tdSum : Fld := ⟨0x13, 0, 0x100000, 0, 40, 0⟩

/-- Consecutive contact steps (R113) -/
abbrev V.tdHits : Fld := ⟨0x13, 0, 0x110000, 0, 2, 0⟩

/-- A touchdown waits for the write operation to finish (R113) -/
abbrev V.tdWait : Fld := ⟨0x13, 0, 0x120000, 0, 1, 0⟩

/-- Pre-heat of actuator i: wedges left before the write may begin (R112) -/
abbrev V.tfhPre (i : Nat) : Fld := ⟨0x13, 0, 0x130000 + 0x10000000 * i, 0, 7, 0⟩

/-- Pre-heat of actuator i complete (R112, R127) -/
abbrev V.tfhPreDone (i : Nat) : Fld := ⟨0x13, 0, 0x140000 + 0x10000000 * i, 0, 1, 0⟩

/-- Write heater power requested on actuator i (R126) -/
abbrev V.tfhHtw (i : Nat) : Fld := ⟨0x13, 0, 0x150000 + 0x10000000 * i, 0, 1, 0⟩

/-- Global head i passed the checks of R121 -/
abbrev V.tfhPassed (i : Nat) : Fld := ⟨0x13, 0, 0x160000 + 0x10000000 * i, 0, 1, 0⟩

/-- Exit handler of the NR routine running (R128, R132) -/
abbrev V.seqExit (a : Nat) : Fld := ⟨0x0D, a, 0x170000, 0, 12, 0⟩

/-- Abandon cause deferred in an NR routine, 0 none (R132) -/
abbrev V.seqPend (a : Nat) : Fld := ⟨0x0D, a, 0x180000, 0, 4, 0⟩

/-- WW turned on since routine entry (R127) -/
abbrev V.seqWw (a : Nat) : Fld := ⟨0x0D, a, 0x190000, 0, 1, 0⟩

/-- Condition of the WAIT in progress (R127) -/
abbrev V.seqWaitCond (a : Nat) : Fld := ⟨0x0D, a, 0x1A0000, 0, 4, 0⟩

/-- Compare value of the WAIT in progress (R127) -/
abbrev V.seqWaitImm (a : Nat) : Fld := ⟨0x0D, a, 0x1B0000, 0, 24, 0⟩

/-- Timeout branch address of the WAIT (R127) -/
abbrev V.seqWaitTgt (a : Nat) : Fld := ⟨0x0D, a, 0x1C0000, 0, 12, 0⟩

/-- TO_BR of the WAIT (R127) -/
abbrev V.seqWaitBr (a : Nat) : Fld := ⟨0x0D, a, 0x1D0000, 0, 1, 0⟩

/-- Bit position a WW turn-on named (R126) -/
abbrev V.seqWwFirst (a : Nat) : Fld := ⟨0x0D, a, 0x1E0000, 0, 24, 0⟩

/-- Bit position a WW turn-off named (R126) -/
abbrev V.seqWwLast (a : Nat) : Fld := ⟨0x0D, a, 0x1F0000, 0, 24, 0⟩

/-- SM1 prediction sent to the channel (R124 SMP) -/
abbrev V.seqSm1 (a : Nat) : Fld := ⟨0x0D, a, 0x200000, 0, 24, 0⟩

/-- Write data comes from the parity generator (R124 PARSRC) -/
abbrev V.seqPar (a : Nat) : Fld := ⟨0x0D, a, 0x210000, 0, 1, 0⟩

/-- New jobs held while the store reloads (R136) -/
abbrev V.seqHeld (a : Nat) : Fld := ⟨0x0D, a, 0x220000, 0, 1, 0⟩

/-- Sequencer i out of service until the next power cycle (R135) -/
abbrev V.seqOos (i : Nat) : Fld := ⟨0x40, 0, 0x230000 + 0x10000000 * i, 0, 1, 0⟩

/-- Last abandon cause (R140) -/
abbrev V.seqLast (a : Nat) : Fld := ⟨0x0D, a, 0x240000, 0, 4, 0⟩

/-- Descriptors lost from the queue (R137) -/
abbrev V.seqLost (a : Nat) : Fld := ⟨0x0D, a, 0x250000, 0, 16, 0⟩

/-- The channel reported the SM1/SM2 outcome (R127) -/
abbrev V.seqSmOut (a : Nat) : Fld := ⟨0x0D, a, 0x260000, 0, 1, 0⟩

/-- The channel reported the FSM outcome (R127) -/
abbrev V.seqFsmOut (a : Nat) : Fld := ⟨0x0D, a, 0x270000, 0, 1, 0⟩

/-- The channel took the last sample (R127) -/
abbrev V.seqSampOut (a : Nat) : Fld := ⟨0x0D, a, 0x280000, 0, 1, 0⟩

/-- The sector decode result is available (R127) -/
abbrev V.seqDecOut (a : Nat) : Fld := ⟨0x0D, a, 0x290000, 0, 1, 0⟩

/-- Wedge index in use (R144) -/
abbrev V.srvIdx (a : Nat) : Fld := ⟨0x0E, a, 0x2A0000, 0, 12, 0⟩

/-- Consecutive wedges advancing from a differing index (R144) -/
abbrev V.srvSlip (a : Nat) : Fld := ⟨0x0E, a, 0x2B0000, 0, 2, 0⟩

/-- Last differing index read (R144) -/
abbrev V.srvSlipIdx (a : Nat) : Fld := ⟨0x0E, a, 0x2C0000, 0, 12, 0⟩

/-- pes of the previous sample, signed (R149) -/
abbrev V.srvPes1 (a : Nat) : Fld := ⟨0x0E, a, 0x2D0000, 0, 32, 0⟩

/-- pes of the sample before it, signed (R149) -/
abbrev V.srvPes2 (a : Nat) : Fld := ⟨0x0E, a, 0x2E0000, 0, 32, 0⟩

/-- The previous sample was good (R149) -/
abbrev V.srvGood1 (a : Nat) : Fld := ⟨0x0E, a, 0x2F0000, 0, 1, 0⟩

/-- Latest wedge: SAM detected, index valid, track valid and equal to the target (R149) -/
abbrev V.srvHdrOk (a : Nat) : Fld := ⟨0x0E, a, 0x300000, 0, 1, 0⟩

/-- Consecutive good wedges towards lock, up to 3 (R152) -/
abbrev V.srvGoodRun (a : Nat) : Fld := ⟨0x0E, a, 0x310000, 0, 4, 0⟩

/-- Consecutive bad wedges (R152) -/
abbrev V.srvBadRun (a : Nat) : Fld := ⟨0x0E, a, 0x320000, 0, 5, 0⟩

/-- Consecutive wedges within RD_THR in SETTLE (R152) -/
abbrev V.srvSetRun (a : Nat) : Fld := ⟨0x0E, a, 0x330000, 0, 5, 0⟩

/-- Consecutive wedges within WI_THR in FOLLOW (R152) -/
abbrev V.srvWrRun (a : Nat) : Fld := ⟨0x0E, a, 0x340000, 0, 5, 0⟩

/-- Write-settle count complete (R152) -/
abbrev V.srvWrSet (a : Nat) : Fld := ⟨0x0E, a, 0x350000, 0, 1, 0⟩

/-- Wedges still held off after a withdrawal (R150) -/
abbrev V.srvWiHold (a : Nat) : Fld := ⟨0x0E, a, 0x360000, 0, 5, 0⟩

/-- Wedges since the seek started (R153) -/
abbrev V.srvSeekW (a : Nat) : Fld := ⟨0x0E, a, 0x370000, 0, 17, 0⟩

/-- Attempt of the seek: 0 the first, 1 re-issued, 2 no seek in progress (R153) -/
abbrev V.srvSeekTry (a : Nat) : Fld := ⟨0x0E, a, 0x380000, 0, 2, 0⟩

/-- Track at the start of the seek (R163) -/
abbrev V.srvSeekFrom (a : Nat) : Fld := ⟨0x0E, a, 0x390000, 0, 24, 0⟩

/-- Seek errors counted towards three within a second (R153) -/
abbrev V.srvSeekErr (a : Nat) : Fld := ⟨0x0E, a, 0x3A0000, 0, 2, 0⟩

/-- Millisecond of the last seek error (R153) -/
abbrev V.srvSeekT (a : Nat) : Fld := ⟨0x0E, a, 0x3B0000, 0, 32, 0⟩

/-- A reload follows the unload (R153, R155) -/
abbrev V.srvReload (a : Nat) : Fld := ⟨0x0E, a, 0x3C0000, 0, 1, 0⟩

/-- Consecutive load failures (R155) -/
abbrev V.srvLoadFails (a : Nat) : Fld := ⟨0x0E, a, 0x3D0000, 0, 2, 0⟩

/-- Load requests refused until EN is cleared and set (R155) -/
abbrev V.srvNoLoad (a : Nat) : Fld := ⟨0x0E, a, 0x3E0000, 0, 1, 0⟩

/-- A load request waits for the 100 ms spacing (R155) -/
abbrev V.srvLoadReq (a : Nat) : Fld := ⟨0x0E, a, 0x3F0000, 0, 1, 0⟩

/-- A head switch is in progress (R157) -/
abbrev V.srvHsw (a : Nat) : Fld := ⟨0x0E, a, 0x400000, 0, 1, 0⟩

/-- An SRV_OFS write waits for the next wedge (R161) -/
abbrev V.srvOfsPend (a : Nat) : Fld := ⟨0x0E, a, 0x410000, 0, 1, 0⟩

/-- The value that write carries (R161) -/
abbrev V.srvOfsNext (a : Nat) : Fld := ⟨0x0E, a, 0x420000, 0, 16, 0⟩

/-- The offset in effect (R161) -/
abbrev V.srvOfsNow (a : Nat) : Fld := ⟨0x0E, a, 0x430000, 0, 16, 0⟩

/-- Sub-track part of the last position (R146) -/
abbrev V.srvPosSub (a : Nat) : Fld := ⟨0x0E, a, 0x440000, 0, 11, 0⟩

/-- Estimated velocity, 1/2,048 track per wedge, signed (R145) -/
abbrev V.srvVel (a : Nat) : Fld := ⟨0x0E, a, 0x450000, 0, 32, 0⟩

/-- Deadline miss or following error flagged since the last wedge (R149) -/
abbrev V.srvMiss (a : Nat) : Fld := ⟨0x0E, a, 0x460000, 0, 1, 0⟩

/-- Milliactuator stroke measured since the load (R154) -/
abbrev V.srvMaMeas (a : Nat) : Fld := ⟨0x0E, a, 0x470000, 0, 1, 0⟩


/-- Unload requested while LOADING completes its move (R160) -/
abbrev V.srvUnlReq (a : Nat) : Fld := ⟨0x0E, a, 0x490000, 0, 1, 0⟩

/-- Millisecond of the last load start plus one, 0 none (R155) -/
abbrev V.loadLastMs : Fld := ⟨0x0E, 0, 0x4A0000, 0, 33, 0⟩

/-- HSKEW of global head i measured (R159) -/
abbrev V.srvHskewMeas (i : Nat) : Fld := ⟨0x0E, 0, 0x4B0000 + 0x10000000 * i, 0, 1, 0⟩

/-- Milliseconds counted by HEARTBEAT_ADVANCE (R24) -/
abbrev V.msNow : Fld := ⟨0x42, 0, 0x4C0000, 0, 32, 0⟩

/-- Causes for which the controller die asserts the stop wire: Trapeze machine check, STOP action, heartbeat loss, Safety Net, thermal shutdown (R25, R231) -/
abbrev V.stopWire : Fld := ⟨0x42, 0, 0x4D0000, 0, 5, 0⟩

/-- Strongman's power-fail wire (R228) -/
abbrev V.pfWire : Fld := ⟨0x11, 0, 0x4E0000, 0, 1, 0⟩

/-- VIN5 valid (R21) -/
abbrev V.vin5ok : Fld := ⟨0x41, 0, 0x4F0000, 0, 1, 0⟩

/-- Conventional data tracks on each head of actuator i laid out at the commit (R60) -/
abbrev V.mmgDataHead (i : Nat) : Fld := ⟨0x41, 0, 0x500000 + 0x10000000 * i, 0, 22, 0⟩


/-- Millisecond of the last durable point by DUR_MS (R255) -/
abbrev V.mmgDurMs : Fld := ⟨0x0B, 0, 0x520000, 0, 32, 0⟩

/-- Code 0x10 written and USED not yet below 12,288 (R308) -/
abbrev V.mmgTsWarn : Fld := ⟨0x02, 0, 0x530000, 0, 1, 0⟩

/-- Code 0x12 written and USED not yet below 98,304 (R308) -/
abbrev V.cmdInflWarn : Fld := ⟨0x02, 0, 0x540000, 0, 1, 0⟩

/-- Volatile write cache disabled: every write behaves as FUA (R253) -/
abbrev V.vwcOff : Fld := ⟨0x42, 0, 0x550000, 0, 1, 0⟩

/-- Sanitize: 0 never, 1 in progress, 2 succeeded, 3 failed (R274) -/
abbrev V.sanState : Fld := ⟨0x41, 0, 0x560000, 0, 2, 0⟩

/-- Spare bands of actuator i at the zone-format commit (R246) -/
abbrev V.mmgSpare0 (i : Nat) : Fld := ⟨0x41, 0, 0x570000 + 0x10000000 * i, 0, 20, 0⟩

/-- Conventional writes homed on actuator i fail with Write Fault (R260) -/
abbrev V.mmgWrFault (i : Nat) : Fld := ⟨0x41, 0, 0x580000 + 0x10000000 * i, 0, 1, 0⟩


/-- Trapeze out of service until the next power cycle (R191) -/
abbrev V.trzOos : Fld := ⟨0x40, 0, 0x5A0000, 0, 1, 0⟩

/-- Units committed since the routine's entry (R129) -/
abbrev V.seqUnits (a : Nat) : Fld := ⟨0x0D, a, 0x5C0000, 0, 8, 0⟩

/-- Speed within 0.1 % of the set point for one revolution (R149) -/
abbrev V.crlSp01 : Fld := ⟨0x10, 0, 0x5D0000, 0, 1, 0⟩

/-- Speed within 0.5 % of a non-zero set point (R155) -/
abbrev V.crlSp05 : Fld := ⟨0x10, 0, 0x5E0000, 0, 1, 0⟩

/-- pes of the latest sample, signed (R148) -/
abbrev V.srvPes0 (a : Nat) : Fld := ⟨0x0E, a, 0x5F0000, 0, 32, 0⟩

/-- The latest sample was good (R148) -/
abbrev V.srvGood0 (a : Nat) : Fld := ⟨0x0E, a, 0x600000, 0, 1, 0⟩

/-- The latest sample was good and within WI_THR (R150) -/
abbrev V.srvSmpOk (a : Nat) : Fld := ⟨0x0E, a, 0x610000, 0, 1, 0⟩

/-- Wedges since a rung-2 offset was applied (R153) -/
abbrev V.srvOfsW (a : Nat) : Fld := ⟨0x0E, a, 0x620000, 0, 6, 0⟩

/-- Strongman's grant of a head load of actuator i (R232) -/
abbrev V.stmLoadGrant (i : Nat) : Fld := ⟨0x11, 0, 0x630000 + 0x10000000 * i, 0, 1, 0⟩

/-- Stamp of the last posting (R158) -/
abbrev V.crlMedStamp : Fld := ⟨0x10, 0, 0x640000, 0, 32, 0⟩

/-- Wedge index of the last posting (R158) -/
abbrev V.crlMedIdx : Fld := ⟨0x10, 0, 0x650000, 0, 12, 0⟩

/-- Rotor angle of the last posting, 1/65,536 revolution (R158) -/
abbrev V.crlMedAng : Fld := ⟨0x10, 0, 0x660000, 0, 16, 0⟩

/-- Consecutive nominal wedge periods without a posting (R158, R200) -/
abbrev V.crlMedMiss : Fld := ⟨0x10, 0, 0x670000, 0, 8, 8⟩

/-- Consecutive postings since the last missing wedge (R200) -/
abbrev V.crlMedRun : Fld := ⟨0x10, 0, 0x680000, 0, 8, 0⟩

/-- A wake is in progress (R430, R493) -/
abbrev V.cvnWaking : Fld := ⟨0x40, 0, 0x690000, 0, 1, 0⟩

/-- Time of Trapeze in ns, advanced by every link frame (R22, R181) -/
abbrev V.trzNow : Fld := ⟨0x0F, 0, 0x6A0000, 0, 48, 0⟩

/-- Value at destination i, signed (R174) -/
abbrev V.trzDest (i : Nat) : Fld := ⟨0x0F, 0, 0x6B0000 + 0x10000000 * i, 0, 32, 0⟩

/-- Loop that last owned destination i, plus one; 0 none (R172) -/
abbrev V.trzOwner (i : Nat) : Fld := ⟨0x0F, 0, 0x6C0000 + 0x10000000 * i, 0, 7, 0⟩

/-- Word address of the running routine (R165) -/
abbrev V.trzPc : Fld := ⟨0x0F, 0, 0x6D0000, 0, 13, 0⟩

/-- ACC, signed (R165) -/
abbrev V.trzAcc : Fld := ⟨0x0F, 0, 0x6E0000, 0, 64, 0⟩

/-- N flag (R166) -/
abbrev V.trzN : Fld := ⟨0x0F, 0, 0x6F0000, 0, 1, 0⟩

/-- Z flag (R166) -/
abbrev V.trzZ : Fld := ⟨0x0F, 0, 0x700000, 0, 1, 0⟩

/-- A saturation has occurred since entry (R167) -/
abbrev V.trzSatd : Fld := ⟨0x0F, 0, 0x710000, 0, 1, 0⟩

/-- The LUT result is ready (R167) -/
abbrev V.trzLutRdy : Fld := ⟨0x0F, 0, 0x720000, 0, 1, 0⟩

/-- Argument of the lookup in progress, signed (R166) -/
abbrev V.trzLutA : Fld := ⟨0x0F, 0, 0x730000, 0, 32, 0⟩

/-- Destination of the lookup in progress (R166) -/
abbrev V.trzLutDst : Fld := ⟨0x0F, 0, 0x740000, 0, 10, 0⟩

/-- A lookup is in progress (R166) -/
abbrev V.trzLutBusy : Fld := ⟨0x0F, 0, 0x750000, 0, 1, 0⟩

/-- The outgoing link-frame buffer is free (R167) -/
abbrev V.trzLinkFree : Fld := ⟨0x0F, 0, 0x760000, 0, 1, 1⟩

/-- The routine stalls in a WAIT (R167) -/
abbrev V.trzWait : Fld := ⟨0x0F, 0, 0x770000, 0, 1, 0⟩

/-- Condition of that WAIT (R167) -/
abbrev V.trzWaitC : Fld := ⟨0x0F, 0, 0x780000, 0, 4, 0⟩

/-- TO_BR of that WAIT (R167) -/
abbrev V.trzWaitBr : Fld := ⟨0x0F, 0, 0x790000, 0, 1, 0⟩

/-- Branch target of that WAIT (R167) -/
abbrev V.trzWaitTgt : Fld := ⟨0x0F, 0, 0x7A0000, 0, 13, 0⟩

/-- Good FOLLOW wedges in actuator i's learning run (R186) -/
abbrev V.lrnCnt (i : Nat) : Fld := ⟨0x0F, 0, 0x7C0000 + 0x10000000 * i, 0, 9, 0⟩

/-- Sum of the VCM outputs of that run less their feed-forward, signed (R186) -/
abbrev V.lrnSum (i : Nat) : Fld := ⟨0x0F, 0, 0x7D0000 + 0x10000000 * i, 0, 48, 0⟩

/-- Track of that run (R186) -/
abbrev V.lrnTrk (i : Nat) : Fld := ⟨0x0F, 0, 0x7E0000 + 0x10000000 * i, 0, 24, 0⟩

/-- Revolutions of the cogging learning run (R186) -/
abbrev V.cogRev : Fld := ⟨0x0F, 0, 0x7F0000, 0, 7, 0⟩

/-- Bin of the last cogging sample (R186) -/
abbrev V.cogLast : Fld := ⟨0x0F, 0, 0x800000, 0, 10, 0⟩

/-- INHIBIT withholds write permission from actuator i (R183) -/
abbrev V.trzInh (i : Nat) : Fld := ⟨0x0F, 0, 0x810000 + 0x10000000 * i, 0, 1, 0⟩

/-- PWM periods since the regulation state was entered (R206) -/
abbrev V.crlPer : Fld := ⟨0x10, 0, 0x820000, 0, 32, 0⟩

/-- PWM periods since SENSE was entered (R206) -/
abbrev V.crlTacc : Fld := ⟨0x10, 0, 0x830000, 0, 32, 0⟩

/-- Consecutive periods source i had a residual over 15 degrees (R200) -/
abbrev V.crlBad (i : Nat) : Fld := ⟨0x10, 0, 0x840000 + 0x10000000 * i, 0, 3, 0⟩

/-- Consecutive periods source i met its condition with a residual of at most 5 degrees (R200) -/
abbrev V.crlGood (i : Nat) : Fld := ⟨0x10, 0, 0x850000 + 0x10000000 * i, 0, 7, 0⟩

/-- Source it moves to (R202) -/
abbrev V.crlSlewTo : Fld := ⟨0x10, 0, 0x870000, 0, 2, 0⟩

/-- Consecutive periods of BEMF lock in RAMP (R206) -/
abbrev V.crlLock : Fld := ⟨0x10, 0, 0x880000, 0, 6, 0⟩

/-- SENSE pulses taken (R210) -/
abbrev V.crlPulse : Fld := ⟨0x10, 0, 0x890000, 0, 3, 0⟩

/-- Peak current of SENSE pulse i (R210) -/
abbrev V.crlPeak (i : Nat) : Fld := ⟨0x10, 0, 0x8A0000 + 0x10000000 * i, 0, 16, 0⟩

/-- Sector k of this attempt's SENSE (R210) -/
abbrev V.crlSector : Fld := ⟨0x10, 0, 0x8B0000, 0, 3, 0⟩

/-- Align sector of this attempt (R211) -/
abbrev V.crlAlign : Fld := ⟨0x10, 0, 0x8C0000, 0, 3, 0⟩

/-- SHORT follows a failed attempt (R206) -/
abbrev V.crlFailed : Fld := ⟨0x10, 0, 0x8D0000, 0, 1, 0⟩

/-- Set point 0 ended the start: SHORT for 2 s, then STOPPED (R220) -/
abbrev V.crlStopAtt : Fld := ⟨0x10, 0, 0x8E0000, 0, 1, 0⟩

/-- Highest speed of attempt i (R225) -/
abbrev V.crlTop (i : Nat) : Fld := ⟨0x10, 0, 0x8F0000 + 0x10000000 * i, 0, 32, 0⟩

/-- Align sector of attempt i (R225) -/
abbrev V.crlTopSec (i : Nat) : Fld := ⟨0x10, 0, 0x900000 + 0x10000000 * i, 0, 3, 0⟩

/-- A terminal-voltage zero crossing came in SHORT and the quiet second runs from it (R206) -/
abbrev V.crlQuiet : Fld := ⟨0x10, 0, 0x910000, 0, 1, 0⟩

/-- Consecutive good zero crossings in CATCH (R208) -/
abbrev V.crlZc : Fld := ⟨0x10, 0, 0x920000, 0, 4, 0⟩

/-- Interval of the last crossing, 10 ns units (R208) -/
abbrev V.crlZcLast : Fld := ⟨0x10, 0, 0x930000, 0, 32, 0⟩

/-- Failed catches since the source was lost (R208) -/
abbrev V.crlCatchN : Fld := ⟨0x10, 0, 0x940000, 0, 4, 0⟩

/-- After the tenth failed catch: coast, then short-brake (R208) -/
abbrev V.crlCatchDown : Fld := ⟨0x10, 0, 0x950000, 0, 1, 0⟩

/-- Millisecond of the last loss of every source (R225) -/
abbrev V.crlLossMs : Fld := ⟨0x10, 0, 0x960000, 0, 32, 0⟩

/-- Set point that waits to be applied (R214) -/
abbrev V.crlSpNext : Fld := ⟨0x10, 0, 0x970000, 0, 2, 0⟩

/-- A set-point change waits (R214) -/
abbrev V.crlSpWait : Fld := ⟨0x10, 0, 0x980000, 0, 1, 0⟩

/-- COAST after a trip above 15.2 V: CATCH waits for VIN12 (R219) -/
abbrev V.crlOvWait : Fld := ⟨0x10, 0, 0x990000, 0, 1, 0⟩

/-- SHORT after a chopper fault (R219) -/
abbrev V.crlChop : Fld := ⟨0x10, 0, 0x9A0000, 0, 1, 0⟩

/-- ENC_OFS in use (R203) -/
abbrev V.crlOfs : Fld := ⟨0x10, 0, 0x9B0000, 0, 16, 0⟩

/-- PWM periods of the AT_SP and ENC_SHIFT windows (R203, R214) -/
abbrev V.crlRevIn : Fld := ⟨0x10, 0, 0x9C0000, 0, 16, 0⟩

/-- Sum over that revolution of MEDIA minus BEMF, signed (R203) -/
abbrev V.crlDiff : Fld := ⟨0x10, 0, 0x9D0000, 0, 48, 0⟩

/-- Last committed output of loop 20 (R216) -/
abbrev V.crlKick : Fld := ⟨0x10, 0, 0x9E0000, 0, 1, 0⟩

/-- R207 waits for the end of chopper-fault braking (R220) -/
abbrev V.crlLossPend : Fld := ⟨0x10, 0, 0x9F0000, 0, 1, 0⟩

/-- Duty code of phase i (R196) -/
abbrev V.crlDuty (i : Nat) : Fld := ⟨0x10, 0, 0xA00000 + 0x10000000 * i, 0, 16, 0⟩

/-- Spindle mode sent: 0 coast, 1 drive, 2 regenerative brake, 3 short brake (R22, R205) -/
abbrev V.crlMode : Fld := ⟨0x10, 0, 0xA10000, 0, 2, 0⟩

/-- Offset of shunt sample i, signed (R198) -/
abbrev V.crlOff (i : Nat) : Fld := ⟨0x10, 0, 0xA20000 + 0x10000000 * i, 0, 16, 0⟩

/-- d-axis current, 0.1 mA, signed (R198) -/
abbrev V.spnId : Fld := ⟨0x10, 0, 0xA30000, 0, 32, 0⟩

/-- q-axis current, 0.1 mA, signed (R198) -/
abbrev V.spnIq : Fld := ⟨0x10, 0, 0xA40000, 0, 32, 0⟩

/-- Angle still to slew, 1/65,536 electrical revolution, signed (R202) -/
abbrev V.crlRem : Fld := ⟨0x10, 0, 0xA50000, 0, 32, 0⟩

/-- COAST leads to CATCH when the grant is present (R207, R220) -/
abbrev V.crlWantCatch : Fld := ⟨0x10, 0, 0xA60000, 0, 1, 0⟩

/-- Periods averaged for the shunt offsets in STOPPED (R198) -/
abbrev V.crlOffN : Fld := ⟨0x10, 0, 0xA70000, 0, 7, 0⟩

/-- Sum of shunt sample i over them, signed (R198) -/
abbrev V.crlOffSum (i : Nat) : Fld := ⟨0x10, 0, 0xA80000 + 0x10000000 * i, 0, 32, 0⟩

/-- Periods of the MEDIA against BEMF comparison (R203) -/
abbrev V.crlDiffN : Fld := ⟨0x10, 0, 0xA90000, 0, 17, 0⟩

/-- Spin permission stands (R210, R488) -/
abbrev V.crlPerm : Fld := ⟨0x10, 0, 0xAA0000, 0, 1, 0⟩

/-- Phase current i of the last good frame, signed (R22) -/
abbrev V.phCur (i : Nat) : Fld := ⟨0x10, 0, 0xAB0000 + 0x10000000 * i, 0, 16, 0⟩

/-- VCM current of actuator i of the last good frame, signed (R22) -/
abbrev V.vcmCur (i : Nat) : Fld := ⟨0x10, 0, 0xAC0000 + 0x10000000 * i, 0, 16, 0⟩

/-- Back-EMF velocity of actuator i, 0.01 mm/s, signed (R155, R174) -/
abbrev V.bemfVel (i : Nat) : Fld := ⟨0x10, 0, 0xAD0000 + 0x10000000 * i, 0, 32, 0⟩

/-- VIN12 sample of the last good frame (R22) -/
abbrev V.linkV12 : Fld := ⟨0x10, 0, 0xAE0000, 0, 16, 0⟩

/-- VIN5 sample of the last good frame (R22) -/
abbrev V.linkV5 : Fld := ⟨0x10, 0, 0xAF0000, 0, 16, 0⟩

/-- Frame sequence number of direction i (R22) -/
abbrev V.linkSeq (i : Nat) : Fld := ⟨0x42, 0, 0xB00000 + 0x10000000 * i, 0, 8, 0⟩

/-- Heartbeat count the controller die sends (R24) -/
abbrev V.hbTx : Fld := ⟨0x42, 0, 0xB10000, 0, 4, 0⟩

/-- Strongman's heartbeat count last received (R24) -/
abbrev V.hbRx : Fld := ⟨0x42, 0, 0xB20000, 0, 4, 0⟩

/-- Consecutive misses of Strongman's heartbeat (R233) -/
abbrev V.hbMiss : Fld := ⟨0x42, 0, 0xB30000, 0, 2, 0⟩

/-- Heartbeat count Strongman sends (R24) -/
abbrev V.stmHbTx : Fld := ⟨0x11, 0, 0xB40000, 0, 4, 0⟩

/-- Controller heartbeat count last received (R24) -/
abbrev V.stmHbRx : Fld := ⟨0x11, 0, 0xB50000, 0, 4, 0⟩

/-- Consecutive misses of the controller's heartbeat (R233) -/
abbrev V.stmHbMiss : Fld := ⟨0x11, 0, 0xB60000, 0, 2, 0⟩

/-- Consecutive good heartbeats (R234) -/
abbrev V.stmHbGood : Fld := ⟨0x11, 0, 0xB70000, 0, 5, 0⟩

/-- A supervision record has been taken (R235) -/
abbrev V.stmTaken : Fld := ⟨0x11, 0, 0xB80000, 0, 1, 0⟩

/-- VCM current demand applied to actuator i, 0.1 mA, signed (R22, R226) -/
abbrev V.stmVcm (i : Nat) : Fld := ⟨0x11, 0, 0xB90000 + 0x10000000 * i, 0, 16, 0⟩

/-- Milliactuator voltage demand applied to actuator i, 1 mV, signed (R22, R226) -/
abbrev V.stmMa (i : Nat) : Fld := ⟨0x11, 0, 0xBA0000 + 0x10000000 * i, 0, 16, 0⟩

/-- Duty of phase i applied (R22) -/
abbrev V.stmDuty (i : Nat) : Fld := ⟨0x11, 0, 0xBB0000 + 0x10000000 * i, 0, 16, 0⟩

/-- Spindle mode applied (R22) -/
abbrev V.stmMode : Fld := ⟨0x11, 0, 0xBC0000, 0, 2, 0⟩

/-- Consecutive samples beyond threshold i (R228) -/
abbrev V.stmRun (i : Nat) : Fld := ⟨0x11, 0, 0xBD0000 + 0x10000000 * i, 0, 2, 0⟩

/-- VIN12 latched at the last start grant (R228) -/
abbrev V.stmSagRef : Fld := ⟨0x11, 0, 0xBE0000, 0, 16, 0⟩

/-- A spindle trip is pending (R227) -/
abbrev V.stmOcPend : Fld := ⟨0x11, 0, 0xBF0000, 0, 1, 0⟩

/-- Consecutive coast frames since that trip (R227) -/
abbrev V.stmCoastN : Fld := ⟨0x11, 0, 0xC00000, 0, 5, 0⟩

/-- The VCM bridge of actuator i is open after a trip (R227) -/
abbrev V.stmVcmTrip (i : Nat) : Fld := ⟨0x11, 0, 0xC10000 + 0x10000000 * i, 0, 1, 0⟩

/-- Retract of actuator i: 1 moving, 2 parking current, 3 push after the timeout (R236) -/
abbrev V.stmRetPh (i : Nat) : Fld := ⟨0x11, 0, 0xC20000 + 0x10000000 * i, 0, 2, 0⟩

/-- That retract is limited to RET_PARK_I (R227) -/
abbrev V.stmRetPark (i : Nat) : Fld := ⟨0x11, 0, 0xC30000 + 0x10000000 * i, 0, 1, 0⟩

/-- Autonomous sequence: 1 retract and coast, 2 short brake (R233) -/
abbrev V.stmSeq : Fld := ⟨0x11, 0, 0xC40000, 0, 2, 0⟩

/-- RESUME is held (R234, R241) -/
abbrev V.stmResume : Fld := ⟨0x11, 0, 0xC50000, 0, 1, 0⟩

/-- A power-loss sequence runs (R237) -/
abbrev V.stmPl : Fld := ⟨0x11, 0, 0xC60000, 0, 1, 0⟩

/-- No grant until the controller die requests one after its next start (R237) -/
abbrev V.stmPlReq : Fld := ⟨0x11, 0, 0xC70000, 0, 2, 0⟩

/-- The zero vector overrides regenerative braking (R219) -/
abbrev V.stmZero : Fld := ⟨0x11, 0, 0xC80000, 0, 1, 0⟩

/-- The bridge is off after a trip above 15.2 V (R219) -/
abbrev V.stmOv : Fld := ⟨0x11, 0, 0xC90000, 0, 1, 0⟩

/-- A winding measurement runs (R240) -/
abbrev V.stmMeasBusy : Fld := ⟨0x11, 0, 0xCA0000, 0, 1, 0⟩

/-- Its kind (R240) -/
abbrev V.stmMeasK : Fld := ⟨0x11, 0, 0xCB0000, 0, 2, 0⟩

/-- Its actuator (R240) -/
abbrev V.stmMeasA : Fld := ⟨0x11, 0, 0xCC0000, 0, 2, 0⟩

/-- The safety monitor pushes every VCM to its ramp (R239) -/
abbrev V.smPush : Fld := ⟨0x11, 0, 0xCD0000, 0, 1, 0⟩

/-- The safety monitor saw a tick within 200 µs (R239) -/
abbrev V.smTick : Fld := ⟨0x11, 0, 0xCE0000, 0, 1, 0⟩

/-- Strongman's fault wire (R239) -/
abbrev V.faultWire : Fld := ⟨0x11, 0, 0xCF0000, 0, 1, 0⟩

/-- Die i (0 controller, 1 Strongman, 2 HBM, 3 flash) is at its throttle level (R442) -/
abbrev V.pslAtThrot (i : Nat) : Fld := ⟨0x17, 0, 0xD00000 + 0x10000000 * i, 0, 1, 0⟩

/-- Actuator i has its heads off the ramp, as Strongman knows it (R231, R236) -/
abbrev V.stmLoaded (i : Nat) : Fld := ⟨0x11, 0, 0xD10000 + 0x10000000 * i, 0, 1, 0⟩

/-- The spindle turns, as Strongman's back-EMF speed shows (R233) -/
abbrev V.stmSpin : Fld := ⟨0x11, 0, 0xD20000, 0, 1, 0⟩

/-- Resident firmware runs (R484) -/
abbrev V.fwUp : Fld := ⟨0x42, 0, 0xD30000, 0, 1, 0⟩

/-- Millisecond at which the entry step of the start began (R496) -/
abbrev V.startMs : Fld := ⟨0x42, 0, 0xD40000, 0, 32, 0⟩

/-- Both system-track copies of actuator i were found unreadable in this start (R277, R486) -/
abbrev V.mmgSysBad (i : Nat) : Fld := ⟨0x0B, 0, 0xD50000 + 0x10000000 * i, 0, 1, 0⟩

/-- State of slot i in FW_STATUS: 0 no download, 1 WRITING, 2 WRITTEN, 3 FAILED (R420) -/
abbrev V.fwSlotSt (i : Nat) : Fld := ⟨0x41, 0, 0xD60000 + 0x10000000 * i, 0, 2, 0⟩

/-- Slot i has authenticated at this boot or at a later commit and has not been written since (R378) -/
abbrev V.fwVer (i : Nat) : Fld := ⟨0x42, 0, 0xD70000 + 0x10000000 * i, 0, 1, 0⟩

/-- A download session is open (R420) -/
abbrev V.fwOpen : Fld := ⟨0x42, 0, 0xD80000, 0, 1, 0⟩

/-- Mailbox that holds it; 64 for NVMe (R390, R420) -/
abbrev V.fwHold : Fld := ⟨0x42, 0, 0xD90000, 0, 7, 0⟩

/-- FLEN of the session's header (R420) -/
abbrev V.fwLen : Fld := ⟨0x42, 0, 0xDA0000, 0, 27, 0⟩

/-- Bytes of the session received (R420) -/
abbrev V.fwGot : Fld := ⟨0x41, 0, 0xDB0000, 0, 27, 0⟩

/-- A commit has succeeded since the last reset (R420) -/
abbrev V.fwDone : Fld := ⟨0x42, 0, 0xDC0000, 0, 1, 0⟩

/-- Verification result of the last commit: 0 passed, 1 FMAGIC or FLEN, 2 FCLASS, 3 signature, 4 digest, 5 SVN (R421) -/
abbrev V.fwCause : Fld := ⟨0x41, 0, 0xDD0000, 0, 4, 0⟩

/-- Slot the running firmware was booted from; while boot ROM serves, the slot selected at this boot (R420) -/
abbrev V.fwSlot : Fld := ⟨0x42, 0, 0xDE0000, 0, 1, 0⟩

/-- Boot ROM serves mailbox 8 alone (R353) -/
abbrev V.romServe : Fld := ⟨0x42, 0, 0xDF0000, 0, 1, 0⟩

/-- A valid option area is in force (R415) -/
abbrev V.optValid : Fld := ⟨0x42, 0, 0xE00000, 0, 1, 0⟩

/-- Copy that holds the image in force (R415, R416) -/
abbrev V.optCopy : Fld := ⟨0x42, 0, 0xE10000, 0, 1, 0⟩

/-- The other copy was invalid or older at the load (R415) -/
abbrev V.optRepair : Fld := ⟨0x42, 0, 0xE20000, 0, 1, 0⟩

/-- T1 in effect since the last kick (R422) -/
abbrev V.sntT1 : Fld := ⟨0x15, 0, 0xE30000, 0, 10, 0⟩

/-- Millisecond of the last kick or of stage 1 (R426) -/
abbrev V.sntMs : Fld := ⟨0x15, 0, 0xE40000, 0, 32, 0⟩

/-- The reset under way is a stage-2 reset (R422, R426) -/
abbrev V.sntLast : Fld := ⟨0x41, 0, 0xE50000, 0, 1, 0⟩

/-- Erase-incomplete blocks re-erased at this start (R423) -/
abbrev V.reerased : Fld := ⟨0x42, 0, 0xE60000, 0, 16, 0⟩

/-- Firmware reset: 1 requested, 2 taking the durable point, 3 stopping the drive (R483) -/
abbrev V.fwRst : Fld := ⟨0x42, 0, 0xE70000, 0, 2, 0⟩

/-- The running firmware was booted on trial (R421) -/
abbrev V.fwTrial : Fld := ⟨0x42, 0, 0xE80000, 0, 1, 0⟩

/-- Erases of bank i (R378) -/
abbrev V.wdbErased (i : Nat) : Fld := ⟨0x41, 0, 0xE90000 + 0x10000000 * i, 0, 32, 0⟩

/-- Programs of bank i (R378) -/
abbrev V.wdbProgs (i : Nat) : Fld := ⟨0x41, 0, 0xEA0000 + 0x10000000 * i, 0, 32, 0⟩

/-- Suspends of bank i (R378) -/
abbrev V.wdbSusps (i : Nat) : Fld := ⟨0x41, 0, 0xEB0000 + 0x10000000 * i, 0, 32, 0⟩

/-- Next sequence number (R468) -/
abbrev V.pbSeq : Fld := ⟨0x41, 0, 0xEC0000, 0, 32, 0⟩

/-- Next slot of the ring (R474) -/
abbrev V.pbSlot : Fld := ⟨0x41, 0, 0xED0000, 0, 18, 0⟩

/-- The block of that slot must be erased first (R474) -/
abbrev V.pbErase : Fld := ⟨0x41, 0, 0xEE0000, 0, 1, 1⟩

/-- Failed attempts of that erase (R474) -/
abbrev V.pbTry : Fld := ⟨0x41, 0, 0xEF0000, 0, 2, 0⟩

/-- Descriptors dropped since the last record opened, saturating (R467, R473) -/
abbrev V.pbDrop : Fld := ⟨0x40, 0, 0xF00000, 0, 8, 0⟩

/-- A close of the open record is held by the full buffer (R473) -/
abbrev V.pbHeld : Fld := ⟨0x40, 0, 0xF10000, 0, 1, 0⟩

/-- A CLEARED record is in the ring (R477) -/
abbrev V.pbFloorV : Fld := ⟨0x41, 0, 0xF20000, 0, 1, 0⟩

/-- Sequence number of the newest CLEARED record (R477) -/
abbrev V.pbFloor : Fld := ⟨0x41, 0, 0xF30000, 0, 32, 0⟩

/-- Ring blocks the background erase has still to erase (R477) -/
abbrev V.pbClr : Fld := ⟨0x41, 0, 0xF40000, 0, 8, 0⟩

/-- Next block it erases (R477) -/
abbrev V.pbClrBlk : Fld := ⟨0x41, 0, 0xF50000, 0, 8, 0⟩

/-- Records lost since the last clear (R476) -/
abbrev V.pbLostF : Fld := ⟨0x41, 0, 0xF60000, 0, 1, 0⟩

/-- A failed slot found since the last clear (R476) -/
abbrev V.pbBadF : Fld := ⟨0x41, 0, 0xF70000, 0, 1, 0⟩

/-- The ring has wrapped since the last clear (R476) -/
abbrev V.pbWrapF : Fld := ⟨0x41, 0, 0xF80000, 0, 1, 0⟩

/-- Caravan counts seconds from the RC (R29) -/
abbrev V.cvnRc : Fld := ⟨0x40, 0, 0xF90000, 0, 1, 0⟩

/-- Bits 0 to 31 of bank i in ACTIVE+PENDING (R363) -/
abbrev V.clpAgLo (i : Nat) : Fld := ⟨0x04, 0, 0xFA0000 + 0x10000000 * i, 0, 32, 0⟩

/-- Bits 32 to 63 of bank i in ACTIVE+PENDING (R363) -/
abbrev V.clpAgHi (i : Nat) : Fld := ⟨0x04, 0, 0xFB0000 + 0x10000000 * i, 0, 32, 0⟩

/-- Levels of the software sources (R367) -/
abbrev V.softSrc : Fld := ⟨0x04, 0, 0xFC0000, 0, 16, 0⟩

/-- Levels of the GPIO inputs after deglitch (R367) -/
abbrev V.gpio : Fld := ⟨0x40, 0, 0xFD0000, 0, 16, 0⟩

/-- Endpoint id that mailbox 9 is issued or reissued to (R352, R370) -/
abbrev V.mctpEid : Fld := ⟨0x03, 0, 0xFE0000, 0, 16, 0⟩

/-- Step of R436 in progress on the way to PS_TGT, 0 none (R436) -/
abbrev V.psStep : Fld := ⟨0x40, 0, 0xFF0000, 0, 3, 0⟩

/-- PWR_EN sequence: 0 none, 1 raising, 2 lowering for PS5, 3 lowering before a restart, 4 lowering after a thermal shutdown (R431, R436, R439, R481) -/
abbrev V.pwrSeq : Fld := ⟨0x40, 0, 0x1000000, 0, 3, 0⟩

/-- Demand holds for WAKE_HOLD_S after I/O-ready (R434) -/
abbrev V.wakeHold : Fld := ⟨0x40, 0, 0x1010000, 0, 1, 0⟩

/-- Off after a thermal shutdown, waiting for the restart (R439) -/
abbrev V.pslOff : Fld := ⟨0x40, 0, 0x1020000, 0, 1, 0⟩

/-- The wake in progress is from PS5 (R430, R493) -/
abbrev V.wake5 : Fld := ⟨0x40, 0, 0x1030000, 0, 1, 0⟩

/-- Retrainings of stack i in this training (R392) -/
abbrev V.hbmTry (i : Nat) : Fld := ⟨0x09, 0, 0x1040000 + 0x10000000 * i, 0, 2, 0⟩

/-- A rate switch is in progress (R393) -/
abbrev V.hbmSw : Fld := ⟨0x09, 0, 0x1050000, 0, 1, 0⟩

/-- It follows a Parasol limit (R393) -/
abbrev V.hbmSwPsl : Fld := ⟨0x09, 0, 0x1060000, 0, 1, 0⟩

/-- Corrections of the scrub pass of stack i (R396) -/
abbrev V.hbmFix (i : Nat) : Fld := ⟨0x09, 0, 0x1070000 + 0x10000000 * i, 0, 32, 0⟩

/-- Blocks of stack i read in the scrub pass (R396) -/
abbrev V.hbmPos (i : Nat) : Fld := ⟨0x09, 0, 0x1080000 + 0x10000000 * i, 0, 28, 0⟩

/-- Dirty lines when the disable clean began (R402) -/
abbrev V.pktWb : Fld := ⟨0x0A, 0, 0x1090000, 0, 20, 0⟩


/-- Placement mask for namespaces created later; actuators above the build's count do not exist (R247, R378) -/
abbrev V.placeMask : Fld := ⟨0x41, 0, 0x10B0000, 0, 4, 15⟩

/-- Service defaults for namespaces created later: encrypt, compress, protect, object mode (R326, R378) -/
abbrev V.svcDef : Fld := ⟨0x42, 0, 0x10C0000, 0, 4, 1⟩

/-- Bound of the last durable point of actuator a that stood, for changes that wait for their stripes (R331, R343) -/
abbrev V.kvBound (a : Nat) : Fld := ⟨0x06, a, 0x10D0000, 0, 64, 0⟩

/-- Committed epoch as the system tracks hold it (R341) -/
abbrev V.pwkEpoch : Fld := ⟨0x41, 0, 0x10E0000, 0, 32, 0⟩

/-- Last epoch number acknowledged or proposed, written durably (R341) -/
abbrev V.pwkAcked : Fld := ⟨0x41, 0, 0x10F0000, 0, 32, 0⟩

/-- Fragments rebuilt since the rebuild queue was last empty (R345) -/
abbrev V.rbCount : Fld := ⟨0x07, 0, 0x1100000, 0, 32, 0⟩

/-- Millisecond at which the rebuild queue filled (R345) -/
abbrev V.rbStart : Fld := ⟨0x07, 0, 0x1110000, 0, 48, 0⟩

/-- Stripes unavailable as last recorded (R344) -/
abbrev V.pwkUnav : Fld := ⟨0x07, 0, 0x1120000, 0, 32, 0⟩

/-- The actuator's part of the media map is being reloaded (R395) -/
abbrev V.mapReload (a : Nat) : Fld := ⟨0x0B, a, 0x1130000, 0, 1, 0⟩

/-- Operating seconds when the link of port a came up (R323) -/
abbrev V.fabUp (a : Nat) : Fld := ⟨0x01, a, 0x1140000, 0, 32, 0⟩

/-- Announcements of the addresses of port a still to be sent (R316) -/
abbrev V.fabAnn (a : Nat) : Fld := ⟨0x01, a, 0x1150000, 0, 2, 0⟩

/-- Failback of port a is pending although it holds its addresses (R320) -/
abbrev V.fabBack (a : Nat) : Fld := ⟨0x01, a, 0x1160000, 0, 1, 0⟩

/-- Lowest VIN12 since the start (R228, R379) -/
abbrev V.vin12Lo : Fld := ⟨0x11, 0, 0x1170000, 0, 16, 65535⟩

/-- Highest VIN12 since the start (R228, R379) -/
abbrev V.vin12Hi : Fld := ⟨0x11, 0, 0x1180000, 0, 16, 0⟩

/-- Lowest VIN5 since the start (R228, R379) -/
abbrev V.vin5Lo : Fld := ⟨0x11, 0, 0x1190000, 0, 16, 65535⟩

/-- Highest VIN5 since the start (R228, R379) -/
abbrev V.vin5Hi : Fld := ⟨0x11, 0, 0x11A0000, 0, 16, 0⟩

/-- Sequence number of the next ageing record (R458) -/
abbrev V.tlrAseq : Fld := ⟨0x41, 0, 0x11B0000, 0, 32, 0⟩

/-- Generation of the newest valid half of the Tailor store (R452) -/
abbrev V.tlrGen : Fld := ⟨0x41, 0, 0x11C0000, 0, 32, 0⟩

/-- The other half of the Tailor store was cut short by a reset (R452) -/
abbrev V.tlrCut : Fld := ⟨0x41, 0, 0x11D0000, 0, 1, 0⟩

/-- Spin-slot mode: 0 AUTO, 1 NOW, 2 AFTER, 3 HOLD (R388) -/
abbrev V.spinMode : Fld := ⟨0x42, 0, 0x11E0000, 0, 2, 0⟩

/-- SPIN_HOLD_N is low (R488, R510) -/
abbrev V.spinLow : Fld := ⟨0x40, 0, 0x11F0000, 0, 1, 0⟩

/-- Delay or back-off: 0 not begun, 1 running, 2 over (R488) -/
abbrev V.spinSt : Fld := ⟨0x42, 0, 0x1200000, 0, 2, 0⟩

/-- Millisecond at which it began (R388) -/
abbrev V.spinFrom : Fld := ⟨0x42, 0, 0x1210000, 0, 32, 0⟩

/-- Its length in ms (R388, R489) -/
abbrev V.spinLen : Fld := ⟨0x42, 0, 0x1220000, 0, 32, 0⟩

/-- Attempt number of the spin-up (R489, R490) -/
abbrev V.spinTry : Fld := ⟨0x42, 0, 0x1230000, 0, 8, 0⟩

/-- The wait after a sag abort runs (R490) -/
abbrev V.sagWait : Fld := ⟨0x42, 0, 0x1240000, 0, 1, 0⟩

/-- IMAX_MA for the next spin-up, 0 none (R388) -/
abbrev V.imaxMa : Fld := ⟨0x42, 0, 0x1250000, 0, 16, 0⟩

/-- Lowest VIN12 sample since the last start grant (R497) -/
abbrev V.sagLow : Fld := ⟨0x11, 0, 0x1260000, 0, 16, 0⟩

/-- 40 s have passed since step 6 of this start (R492, R495) -/
abbrev V.startLate : Fld := ⟨0x42, 0, 0x1270000, 0, 1, 0⟩

/-- Wardrobe operation the stage-2 abandon ended, plus one: block x 4 + operation (R427) -/
abbrev V.sntAb : Fld := ⟨0x41, 0, 0x1280000, 0, 32, 0⟩

/-- Cause of a wake that waits for the entry to PS5 to complete, 0 none (R320, R444) -/
abbrev V.wakePend : Fld := ⟨0x40, 0, 0x1290000, 0, 3, 0⟩

/-- Operating second of the thermal shutdown (R447) -/
abbrev V.pslOffSec : Fld := ⟨0x17, 0, 0x12A0000, 0, 32, 0⟩

/-- Sensor that shut the device down (R447) -/
abbrev V.pslSensor : Fld := ⟨0x17, 0, 0x12B0000, 0, 3, 0⟩

/-- Operating second at which the throttling of die i began (R447) -/
abbrev V.pslThr (i : Nat) : Fld := ⟨0x17, 0, 0x12C0000 + 0x10000000 * i, 0, 32, 0⟩

/-- Consecutive samples in which sensor i disagreed (R441) -/
abbrev V.pslDis (i : Nat) : Fld := ⟨0x17, 0, 0x12D0000 + 0x10000000 * i, 0, 2, 0⟩

/-- Throttling of die i has begun and not ended (R442) -/
abbrev V.pslThrOn (i : Nat) : Fld := ⟨0x17, 0, 0x12E0000 + 0x10000000 * i, 0, 1, 0⟩

/-- Actuators held at step 10: 0 the odd-numbered, 1 the even-numbered (R442) -/
abbrev V.thSet : Fld := ⟨0x17, 0, 0x12F0000, 0, 1, 0⟩

/-- Fabric receive is held: PFC pause and closed TCP window (R442) -/
abbrev V.fabPause : Fld := ⟨0x01, 0, 0x1300000, 0, 1, 0⟩

/-- Head the touchdown runs on (R113) -/
abbrev V.tdH : Fld := ⟨0x13, 0, 0x1310000, 0, 6, 0⟩

/-- The waiting measurement of port a was refused when the write operation ended (R114) -/
abbrev V.sptMeasRef (a : Nat) : Fld := ⟨0x12, a, 0x1320000, 0, 1, 0⟩

/-- `PA_CAP` as read at the enumeration of port a (R100, R378) -/
abbrev V.sptCap (a : Nat) : Fld := ⟨0x12, a, 0x1330000, 0, 16, 0⟩

/-- Times the replay buffer of channel a has been frozen (R82) -/
abbrev V.replayGen (a : Nat) : Fld := ⟨0x0C, a, 0x1340000, 0, 32, 0⟩

/-- The sequencer stalls in a WAIT (R127) -/
abbrev V.seqStall (a : Nat) : Fld := ⟨0x0D, a, 0x1350000, 0, 1, 0⟩

/-- Timeout unit of that WAIT; 3 for none (R124, R127) -/
abbrev V.seqWaitUnit (a : Nat) : Fld := ⟨0x0D, a, 0x1360000, 0, 2, 0⟩

/-- A committed track whose end the Juggler has not been told (R124, R129) -/
abbrev V.seqDone (a : Nat) : Fld := ⟨0x0D, a, 0x1370000, 0, 1, 0⟩

/-- Bit of the data region at which PAD was turned on (R126) -/
abbrev V.seqPadAt (a : Nat) : Fld := ⟨0x0D, a, 0x1380000, 0, 24, 0⟩

/-- A servo address mark has been detected or predicted and no condition 0x2 has taken it (R127, R143) -/
abbrev V.srvSamOut (a : Nat) : Fld := ⟨0x0E, a, 0x1390000, 0, 1, 0⟩

/-- Header of the last register transaction of the port (R95, R122) -/
abbrev V.sptHdr (a : Nat) : Fld := ⟨0x12, a, 0x13A0000, 0, 16, 0⟩

/-- Write current in effect since the last write-gate-on (R96, R97) -/
abbrev V.sptIw (a : Nat) : Fld := ⟨0x12, a, 0x13B0000, 0, 16, 0⟩

/-- Overshoot in effect since the last write-gate-on (R96, R97) -/
abbrev V.sptOs (a : Nat) : Fld := ⟨0x12, a, 0x13C0000, 0, 16, 0⟩

/-- Precompensation of the track for a transition one bit after the last (R103, R108) -/
abbrev V.sptPc1 (a : Nat) : Fld := ⟨0x12, a, 0x13D0000, 0, 8, 0⟩

/-- Precompensation of the track for a transition two bits after the last (R103, R108) -/
abbrev V.sptPc2 (a : Nat) : Fld := ⟨0x12, a, 0x13E0000, 0, 8, 0⟩

/-- Local head whose laser is biased (R105) -/
abbrev V.sptLbHead (a : Nat) : Fld := ⟨0x12, a, 0x13F0000, 0, 4, 0⟩

/-- Head of the measurement in progress or waiting (R114) -/
abbrev V.sptMeasHead (a : Nat) : Fld := ⟨0x12, a, 0x1400000, 0, 4, 0⟩

/-- Link frames since the write gate opened (R96) -/
abbrev V.sptWgT (a : Nat) : Fld := ⟨0x12, a, 0x1410000, 0, 8, 0⟩

/-- Write clock of the track being written in bit/s (R63, R102) -/
abbrev V.chnWclk (a : Nat) : Fld := ⟨0x0C, a, 0x1420000, 0, 40, 0⟩

/-- A head switch was refused and stays refused until FOLLOW (R157) -/
abbrev V.srvHswRef (a : Nat) : Fld := ⟨0x0E, a, 0x1430000, 0, 1, 0⟩

/-- Difference of the two heads' HSKEW in a head switch, signed (R157) -/
abbrev V.srvHswD (a : Nat) : Fld := ⟨0x0E, a, 0x1440000, 0, 16, 0⟩

/-- Track of the last good position (R171) -/
abbrev V.srvGoodTrk (a : Nat) : Fld := ⟨0x0E, a, 0x1450000, 0, 24, 0⟩

/-- Result of competition group i as it was last resolved, signed (R168, R179) -/
abbrev V.trzGrp (i : Nat) : Fld := ⟨0x0F, 0, 0x1460000 + 0x10000000 * i, 0, 32, 0⟩

/-- A deadline miss or following error marked the actuator between the last two wedges (R149) -/
abbrev V.srvMissP (a : Nat) : Fld := ⟨0x0E, a, 0x1470000, 0, 1, 0⟩

/-- Millisecond of the seek error before the last (R153) -/
abbrev V.srvSeekT2 (a : Nat) : Fld := ⟨0x0E, a, 0x1480000, 0, 32, 0⟩

/-- Actuator that started a load last (R155) -/
abbrev V.loadLastAct : Fld := ⟨0x0E, 0, 0x1490000, 0, 2, 0⟩

/-- Causes of the bad wedges since the last good one (R163) -/
abbrev V.srvBadWhy (a : Nat) : Fld := ⟨0x0E, a, 0x14A0000, 0, 4, 0⟩

/-- A seek waits for the mate's write gate to close (R156) -/
abbrev V.srvSeekPend (a : Nat) : Fld := ⟨0x0E, a, 0x14B0000, 0, 1, 0⟩

/-- An unload waits for the mate's write gate to close (R156) -/
abbrev V.srvUnlWait (a : Nat) : Fld := ⟨0x0E, a, 0x14C0000, 0, 1, 0⟩

/-- The WAIT in progress has a timeout (R165) -/
abbrev V.trzWaitTo : Fld := ⟨0x0F, 0, 0x14D0000, 0, 1, 0⟩

/-- Table i was replaced and waits for the next trigger of a loop that uses it: parameter blocks 0 to 63, feed-forward tables
64 to 67, cogging table 68 (R187) -/
abbrev V.trzTblPend (i : Nat) : Fld := ⟨0x0F, 0, 0x14E0000 + 0x10000000 * i, 0, 1, 0⟩

/-- VCM current demand of actuator a in the latest link frame sent (R156, R184) -/
abbrev V.vcmSent (i : Nat) : Fld := ⟨0x0F, 0, 0x14F0000 + 0x10000000 * i, 0, 32, 0⟩

/-- Spindle mode received and not yet in effect (R22) -/
abbrev V.stmModeNx : Fld := ⟨0x11, 0, 0x1500000, 0, 2, 0⟩

/-- Duty of phase i received and not yet in effect (R22) -/
abbrev V.stmDutyNx (i : Nat) : Fld := ⟨0x11, 0, 0x1510000 + 0x10000000 * i, 0, 16, 0⟩

/-- Status word of the last good frame from Strongman (R22) -/
abbrev V.linkStat : Fld := ⟨0x05, 0, 0x1520000, 0, 32, 0⟩

/-- Message slot of the last good frame from Strongman (R22) -/
abbrev V.linkMsg : Fld := ⟨0x05, 0, 0x1530000, 0, 32, 0⟩

/-- Target of the seek that waits for the mate's write gate (R156) -/
abbrev V.srvSeekNx (a : Nat) : Fld := ⟨0x0E, a, 0x1540000, 0, 24, 0⟩

/-- Place of the next track of actuator a's media cache (R252) -/
abbrev V.mcHead (i : Nat) : Fld := ⟨0x41, 0, 0x1550000 + 0x10000000 * i, 0, 24, 0⟩

/-- The heater returns to its idle power at the next wedge of actuator i (R112, R113) -/
abbrev V.tfhIdle (i : Nat) : Fld := ⟨0x13, 0, 0x1560000 + 0x10000000 * i, 0, 1, 0⟩

/-- Heads of actuator i write-disabled for the rest of the operation by an invalid Tightrope head entry (R118) -/
abbrev V.tfhNoWr (i : Nat) : Fld := ⟨0x13, 0, 0x1570000 + 0x10000000 * i, 0, 10, 0⟩

/-- Bit of the data region at which PARSRC came on (R124) -/
abbrev V.seqParAt (a : Nat) : Fld := ⟨0x0D, a, 0x1580000, 0, 24, 0⟩

/-- Wedge index at which PARSRC came on (R124) -/
abbrev V.seqParIx (a : Nat) : Fld := ⟨0x0D, a, 0x1590000, 0, 12, 0⟩

/-- Wedges of the stroke measurement that runs: 1 to 32 at +4 V, 33 to 64 at −4 V, 65 both held (R154) -/
abbrev V.srvMaStep (a : Nat) : Fld := ⟨0x0E, a, 0x15A0000, 0, 7, 0⟩

/-- The stroke has been measured in the ageing run that is due (R154, R457) -/
abbrev V.srvMaAge (a : Nat) : Fld := ⟨0x0E, a, 0x15B0000, 0, 1, 0⟩

/-- A rung-2 offset has been applied and read settle not yet reached (R153) -/
abbrev V.srvOfsRun (a : Nat) : Fld := ⟨0x0E, a, 0x15C0000, 0, 1, 0⟩

/-- Loops that have been triggered since a shared table of Trapeze was replaced (R187) -/
abbrev V.trzTook (i : Nat) : Fld := ⟨0x0F, 0, 0x15D0000 + 0x10000000 * i, 0, 64, 0⟩

/-- VIN12 budget in force, in 0.1 mA: the limiter's reference (R180, R215, R489) -/
abbrev V.vinBud : Fld := ⟨0x10, 0, 0x15E0000, 0, 17, 0⟩

/-- Bin in which a cogging run started (R186) -/
abbrev V.cogFrom : Fld := ⟨0x0F, 0, 0x15F0000, 0, 10, 0⟩

/-- A machine check of Trapeze has coasted the spindle (R206, R220) -/
abbrev V.crlMchk : Fld := ⟨0x10, 0, 0x1600000, 0, 1, 0⟩

/-- Angle of the tracker of source i in 1/2^32 electrical revolution (R199) -/
abbrev V.trkAng (i : Nat) : Fld := ⟨0x10, 0, 0x1610000 + 0x10000000 * i, 0, 32, 0⟩

/-- Speed of the tracker of source i in 1/2^32 electrical revolution per PWM period, signed (R199) -/
abbrev V.trkSpd (i : Nat) : Fld := ⟨0x10, 0, 0x1620000 + 0x10000000 * i, 0, 32, 0⟩

/-- Residual of source i in 1/2^32 electrical revolution, signed (R199) -/
abbrev V.trkRes (i : Nat) : Fld := ⟨0x10, 0, 0x1630000 + 0x10000000 * i, 0, 32, 0⟩

/-- A posting has arrived since the last PWM centre (R199) -/
abbrev V.crlMedNew : Fld := ⟨0x10, 0, 0x1640000, 0, 1, 0⟩

/-- Electrical angle in use at the last PWM centre in 1/2^32 revolution (R196, R202) -/
abbrev V.crlAng : Fld := ⟨0x10, 0, 0x1650000, 0, 32, 0⟩

/-- Electrical revolution of the mechanical one (R204) -/
abbrev V.crlRevN : Fld := ⟨0x10, 0, 0x1660000, 0, 4, 0⟩

/-- Angle the duties formed last are rotated with, in 1/2^32 revolution (R196) -/
abbrev V.crlAngNx : Fld := ⟨0x10, 0, 0x1670000, 0, 32, 0⟩

/-- Angle of the duties in effect (R198) -/
abbrev V.crlAngIn : Fld := ⟨0x10, 0, 0x1680000, 0, 32, 0⟩

/-- Squared amplitude of the resolver measured last (R199) -/
abbrev V.crlResAmp : Fld := ⟨0x10, 0, 0x1690000, 0, 64, 0⟩

/-- The same at the enable (R199) -/
abbrev V.crlResAmp0 : Fld := ⟨0x10, 0, 0x16A0000, 0, 64, 0⟩

/-- CATCH is tried again a second after it failed (R208) -/
abbrev V.crlRetry : Fld := ⟨0x10, 0, 0x16B0000, 0, 1, 0⟩

/-- The speed shown comes from a source or from the terminal voltages (R206, R208) -/
abbrev V.crlSpdOk : Fld := ⟨0x10, 0, 0x16C0000, 0, 1, 0⟩

/-- Source lost during a chopper fault's braking (R220, R225) -/
abbrev V.crlLossSrc : Fld := ⟨0x10, 0, 0x16D0000, 0, 2, 0⟩

/-- Sector of the last zero crossing (R208) -/
abbrev V.crlZcSec : Fld := ⟨0x10, 0, 0x16E0000, 0, 3, 0⟩

/-- The spindle winding has been measured for the next start (R240) -/
abbrev V.measSpn : Fld := ⟨0x10, 0, 0x16F0000, 0, 1, 0⟩

/-- Duty of leg i in effect (R196, R198) -/
abbrev V.crlDutyIn (i : Nat) : Fld := ⟨0x10, 0, 0x1710000 + 0x10000000 * i, 0, 16, 0⟩

/-- A VCM demand of the last frame was beyond the limit (R226) -/
abbrev V.stmLimV : Fld := ⟨0x11, 0, 0x1720000, 0, 1, 0⟩

/-- A milliactuator demand of the last frame was beyond the limit (R226). -/
abbrev V.stmLimM : Fld := ⟨0x11, 0, 0x1730000, 0, 1, 0⟩

/-- Requests in the message slot of the next frame: spindle start, then a head load per actuator (R22, R232) -/
abbrev V.reqSlot : Fld := ⟨0x10, 0, 0x1740000, 0, 5, 0⟩

/-- Winding measurements firmware is to take: kinds 1 and 2, then kind 3 per actuator (R240) -/
abbrev V.measQ : Fld := ⟨0x10, 0, 0x1750000, 0, 6, 0⟩

/-- The spindle spins up since the last start (R228) -/
abbrev V.spinUp : Fld := ⟨0x11, 0, 0x1760000, 0, 1, 0⟩

/-- Message slot of the last good frame to Strongman (R22) -/
abbrev V.stmReqSeen : Fld := ⟨0x11, 0, 0x1770000, 0, 32, 0⟩

/-- Power-cycle count at the last handshake (R238) -/
abbrev V.pcycSeen : Fld := ⟨0x41, 0, 0x1780000, 0, 32, 0⟩

/-- VCM resistance of an actuator measured for its next load (R240) -/
abbrev V.measFresh (a : Nat) : Fld := ⟨0x10, a, 0x1790000, 0, 1, 0⟩

/-- A head load is requested once the measurement is taken (R240) -/
abbrev V.reqWait (a : Nat) : Fld := ⟨0x10, a, 0x17A0000, 0, 1, 0⟩

/-- Velocity of Strongman's retract in 0.01 mm/s, signed (R236) -/
abbrev V.stmRetVel (i : Nat) : Fld := ⟨0x11, 0, 0x17B0000 + 0x10000000 * i, 0, 32, 0⟩

/-- Frames in a row in which a retract stood still at its current limit, to 1,000 (R236) -/
abbrev V.stmParkN (i : Nat) : Fld := ⟨0x11, 0, 0x17C0000 + 0x10000000 * i, 0, 10, 0⟩

/-- Next system track of a copy; i is 2a + copy (R252) -/
abbrev V.sysPos (i : Nat) : Fld := ⟨0x41, 0, 0x17D0000 + 0x10000000 * i, 0, 4, 0⟩

/-- First block re-erased at this start (R423) -/
abbrev V.reFirst : Fld := ⟨0x42, 0, 0x17E0000, 0, 12, 0⟩

/-- The stack has been trained at 6.4 Gbit/s (R391, R392) -/
abbrev V.hbmTop (i : Nat) : Fld := ⟨0x09, 0, 0x17F0000 + 0x10000000 * i, 0, 1, 0⟩

end Sys2Proof.Machine
end

