-- ==== Sys2Proof/Machine/Ops.lean ====
section
/-!
DEFINITION. The named operations over the state: sorted tables, fields, byte tables, events, counters, recorder
descriptors and free values. Everything a command does to the state is built from these.
-/

namespace Sys2Proof.Machine

/-! ## Sorted tables -/

/-- The value a table holds for a key; `d` gives what an unlisted key holds. -/
def Tab.get {κ β : Type} [DecidableEq κ] (d : κ → β) : List (κ × β) → κ → β
  | [], k => d k
  | e :: m, k => if e.1 = k then e.2 else Tab.get d m k

/-- A table without a key. -/
def Tab.erase {κ β : Type} [DecidableEq κ] (m : List (κ × β)) (k : κ) : List (κ × β) :=
  m.filter fun e => decide (e.1 ≠ k)

/-- A table with a key set, kept in the order `before`. -/
def Tab.insert {κ β : Type} [DecidableEq κ] (before : κ → κ → Bool) (k : κ) (v : β) :
    List (κ × β) → List (κ × β)
  | [] => [(k, v)]
  | e :: m =>
    if e.1 = k then (k, v) :: m
    else if before k e.1 then (k, v) :: e :: m
    else e :: Tab.insert before k v m

/-- A table with a key set; a key set to its unlisted value is not listed, so equal tables are equal lists. -/
def Tab.put {κ β : Type} [DecidableEq κ] [DecidableEq β] (before : κ → κ → Bool) (d : κ → β)
    (m : List (κ × β)) (k : κ) (v : β) : List (κ × β) :=
  if v = d k then Tab.erase m k else Tab.insert before k v m

/-- The canonical form of a table: keys strictly rising, no entry equal to what an unlisted key holds. -/
def Tab.wf {κ β : Type} [DecidableEq β] (before : κ → κ → Bool) (d : κ → β) : List (κ × β) → Bool
  | [] => true
  | e :: m => m.all (fun f => before e.1 f.1) && decide (e.2 ≠ d e.1) && Tab.wf before d m

/-- Order of numeric keys. -/
def natBefore (a b : Nat) : Bool := decide (a < b)

/-- Order of fields: block, instance, offset, bit, then width and reset value. -/
def Fld.before (a b : Fld) : Bool :=
  decide (a.blk < b.blk ∨ a.blk = b.blk ∧ (a.inst < b.inst ∨ a.inst = b.inst ∧
    (a.off < b.off ∨ a.off = b.off ∧ (a.lo < b.lo ∨ a.lo = b.lo ∧
      (a.w < b.w ∨ a.w = b.w ∧ a.rst < b.rst)))))

/-- A numeric-keyed table of records with one default record. -/
def Tab.at {β : Type} (d : β) (m : List (Nat × β)) (k : Nat) : β := Tab.get (fun _ => d) m k

/-- Sets one entry of such a table. -/
def Tab.set {β : Type} [DecidableEq β] (d : β) (m : List (Nat × β)) (k : Nat) (v : β) :
    List (Nat × β) :=
  Tab.put natBefore (fun _ => d) m k v

/-! ## Signed fields and other small arithmetic -/

/-- A `w`-bit two's-complement value read as an integer. -/
def toSigned (w v : Nat) : Int := if v < 2 ^ (w - 1) then (v : Int) else (v : Int) - (2 ^ w : Nat)

/-- An integer as a `w`-bit two's-complement value, wrapping. -/
def ofSigned (w : Nat) (i : Int) : Nat := (i % ((2 ^ w : Nat) : Int)).toNat

/-- An integer held within two limits. -/
def clampI (lo hi i : Int) : Int := if i < lo then lo else if hi < i then hi else i

/-- Division rounded up. -/
def ceilDiv (a b : Nat) : Nat := (a + b - 1) / b

/-- Bit `i` of a number. -/
def bitOf (v i : Nat) : Bool := v.testBit i

/-- 1 for true, 0 for false. -/
def b2n (b : Bool) : Nat := if b then 1 else 0

/-- Little-endian number made of bytes, lowest address first. -/
def leNat : List Byte → Nat
  | [] => 0
  | b :: bs => b.toNat + 256 * leNat bs

/-- The `n` little-endian bytes of a number. -/
def leBytes : Nat → Nat → List Byte
  | 0, _ => []
  | n + 1, v => BitVec.ofNat 8 v :: leBytes n (v / 256)

/-- One bit step of CRC-32C, reflected polynomial 0x82F63B78. -/
def crcBit (c : BitVec 32) : BitVec 32 :=
  if c.getLsbD 0 then (c >>> 1) ^^^ 0x82F63B78#32 else c >>> 1

/-- One byte step of CRC-32C. -/
def crcByte (c : BitVec 32) (b : Byte) : BitVec 32 :=
  crcBit (crcBit (crcBit (crcBit (crcBit (crcBit (crcBit (crcBit (c ^^^ b.zeroExtend 32))))))))

/-- CRC-32C of a byte string (initial value and final complement all ones; the polynomial's bit order and these two are
PRESUMED, log entry 4: the spec names the code only). -/
def crc32c (bs : List Byte) : Nat := ((bs.foldl crcByte 0xFFFFFFFF#32) ^^^ 0xFFFFFFFF#32).toNat

/-! ## Fields -/

/-- What a field holds. -/
def State.get (s : State) (k : Fld) : Nat := Tab.get Fld.rst s.flds k

/-- Writes a field; the value is cut to the field's width. -/
def State.put (s : State) (k : Fld) (v : Nat) : State :=
  { s with flds := Tab.put Fld.before Fld.rst s.flds k (v % 2 ^ k.w) }

/-- A field is not zero. -/
def State.on (s : State) (k : Fld) : Bool := decide (s.get k ≠ 0)

/-- Writes a truth value to a field. -/
def State.putB (s : State) (k : Fld) (b : Bool) : State := s.put k (b2n b)

/-- A field read as a signed value of its own width. -/
def State.getI (s : State) (k : Fld) : Int := toSigned k.w (s.get k)

/-- Writes a signed value to a field. -/
def State.putI (s : State) (k : Fld) (i : Int) : State := s.put k (ofSigned k.w i)

/-- Writes several fields in order. -/
def State.puts (s : State) : List (Fld × Nat) → State
  | [] => s
  | e :: l => (s.put e.1 e.2).puts l

/-- Applies a change only when a condition holds. -/
def State.when (s : State) (c : Bool) (f : State → State) : State := if c then f s else s

/-- Applies a change for each member of a list, in order. -/
def State.forAll {α : Type} (s : State) : List α → (α → State → State) → State
  | [], _ => s
  | x :: xs, f => (f x s).forAll xs f

/-- Adds to a field, wrapping at its width. -/
def State.bump (s : State) (k : Fld) (n : Nat) : State := s.put k (s.get k + n)

/-- Returns every field of a block to its reset value. -/
def State.resetBlk (s : State) (blk : Nat) : State :=
  { s with flds := s.flds.filter fun e => decide (e.1.blk ≠ blk) }

/-- Returns every field of one instance of a block to its reset value. -/
def State.resetInst (s : State) (blk inst : Nat) : State :=
  { s with flds := s.flds.filter fun e => decide (¬(e.1.blk = blk ∧ e.1.inst = inst)) }

/-! ## Byte tables -/

/-- Key of a byte in a block's window: block, target selector, offset (R14). -/
def winKey (blk sel off : Nat) : Nat := (blk * 256 + sel) * 65536 + off

/-- Byte of a block's window. -/
def State.byte (s : State) (blk sel off : Nat) : Byte := Tab.at 0 s.win (winKey blk sel off)

/-- `n` bytes of a block's window from an offset. -/
def State.bytes (s : State) (blk sel off n : Nat) : List Byte :=
  (List.range n).map fun i => s.byte blk sel (off + i)

/-- Little-endian number of `n` bytes in a block's window. -/
def State.le (s : State) (blk sel off n : Nat) : Nat := leNat (s.bytes blk sel off n)

/-- Writes bytes into a table keyed by address. -/
def putBytes (m : List (Nat × Byte)) (at_ : Nat) : List Byte → List (Nat × Byte)
  | [] => m
  | b :: bs => putBytes (Tab.set 0 m at_ b) (at_ + 1) bs

/-- Reads `n` bytes of a table keyed by address. -/
def getBytes (m : List (Nat × Byte)) (at_ n : Nat) : List Byte :=
  (List.range n).map fun i => Tab.at 0 m (at_ + i)

/-- Writes bytes into a block's window. -/
def State.putWin (s : State) (blk sel off : Nat) (bs : List Byte) : State :=
  { s with win := putBytes s.win (winKey blk sel off) bs }

/-- The last four bytes of an entry hold the CRC-32C of the bytes before them. -/
def crcOk (bs : List Byte) : Bool :=
  let n := bs.length - 4
  decide (crc32c (bs.take n) = leNat (bs.drop n))

/-- A field of the option area in force, little-endian (R413). -/
def State.optLe (s : State) (off n : Nat) : Nat := leNat (getBytes s.opt off n)

/-- A field of the format record, little-endian (R53): of the record in effect since the commit, or of the option area's
while no commit is in effect. -/
def State.fmtLe (s : State) (off n : Nat) : Nat :=
  if s.on R.MMG_CTL_FMT_COMMIT then leNat (getBytes s.fmt off n) else s.optLe (0x1000 + off) n

/-! ## Events, counters, recorder descriptors, free values -/

/-- Offset of a block's event register; the mask register follows it (R90, R120). -/
def evtOff (blk : Nat) : Nat := if blk = 0x13 then 0x10 else 0x0C

/-- Bit `b` of a block instance's event register. -/
def evtBit (blk inst b : Nat) : Fld := ⟨blk, inst, evtOff blk, b, 1, 0⟩

/-- The same bit of the mask register. -/
def evtMask (blk inst b : Nat) : Fld := ⟨blk, inst, evtOff blk + 4, b, 1, 0⟩

/-- The level of a block instance's source: an event bit is set and unmasked (R367). -/
def State.srcLevel (s : State) (blk inst : Nat) : Bool :=
  (List.range 16).any fun b => s.on (evtBit blk inst b) && s.on (evtMask blk inst b)

/-- Latches an edge of a source; SOURCE_EDGE applies it to its bank (R364, log entry 6). -/
def State.edge (s : State) (src : Nat) : State := { s with edges := s.edges ++ [src] }

/-- Changes fields of one block instance and latches the edge of its source if its level rises by it (R364). -/
def State.watch (s : State) (blk inst : Nat) (f : State → State) : State :=
  let t := f s
  if !s.srcLevel blk inst && t.srcLevel blk inst then t.edge (16 * blk + inst) else t

/-- Sets an event bit (R90). -/
def State.evt (s : State) (k : Fld) : State := s.watch k.blk k.inst fun t => t.put k 1

/-- Posts a descriptor to the event recorder (R470); EVENT_DESCRIPTOR accepts it (log entry 7). -/
def State.post (s : State) (blk code sev inst : Nat) (data : List Nat) : State :=
  { s with inbox := s.inbox ++ [⟨blk, code, sev, inst, data⟩] }

/-- Severities of R467. -/
def info : Nat := 0
/-- WARNING of R467. -/
def warning : Nat := 1
/-- ERROR of R467. -/
def error : Nat := 2
/-- `INST` when a code has none (R467). -/
def noInst : Nat := 0xFF

/-- Counts `n` events in a counter, its value and its sticky flag: it holds at 65,535, where it sets SAT and the block's
CNT_SAT event (R91). -/
def State.countUp (s : State) (k : Fld) (n : Nat) : State :=
  let sat : Fld := { k with lo := 16, w := 1 }
  let v := s.get k + n
  if v < 65535 then s.put k v
  else
    (s.put k 65535).when (!s.on sat) fun t =>
      match cntSatBit k.blk with
      | some b => (t.put sat 1).evt (evtBit k.blk k.inst b)
      | none => t.put sat 1

/-- Counting `n` events makes a counter reach 65,535. -/
def State.saturates (s : State) (k : Fld) (n : Nat) : Bool :=
  decide (65535 ≤ s.get k + n) && !s.on { k with lo := 16, w := 1 }

/-- Counts `n` events in a counter; at saturation the block's code 0x30 is written (R91, R479). -/
def State.countN (s : State) (k : Fld) (n : Nat) : State :=
  (s.countUp k n).when (s.saturates k n) fun t => t.post k.blk 0x30 info k.inst [k.off]

/-- Counts one event. -/
def State.count (s : State) (k : Fld) : State := s.countN k 1

/-- Posts a descriptor through the sequencer's 16-entry queue; a full queue counts it as lost, and the next one carries
the count (R137). -/
def State.seqPost (s : State) (a code sev : Nat) (data : List Nat) : State :=
  if 16 ≤ (s.inbox.filter fun d => decide (d.blk = 0x0D ∧ d.inst = a)).length then s.bump (V.seqLost a) 1
  else
    let n := s.get (V.seqLost a)
    (s.post 0x0D code sev a (data ++ if n = 0 then [] else [n])).put (V.seqLost a) 0

/-- Counts `n` events in a counter of a sequencer, whose code 0x30 goes through its queue (R91, R137, R140). -/
def State.seqCountN (s : State) (k : Fld) (n : Nat) : State :=
  (s.countUp k n).when (s.saturates k n) fun t => t.seqPost k.inst 0x30 info [k.off]

/-- Counts one event of a sequencer. -/
def State.seqCount (s : State) (k : Fld) : State := s.seqCountN k 1

/-- Clears a counter, counting the `n` events of the same cycle after the clear (R91). -/
def State.counterClear (s : State) (k : Fld) (n : Nat) : State :=
  let t := (s.put k 0).put { k with lo := 16, w := 1 } 0
  if k.blk = 0x0D then t.seqCountN k n else t.countN k n

/-- The free value drawn next. -/
def State.freeVal (s : State) : Nat := Config.freeValue s.free

/-- Marks the free value as drawn. -/
def State.drew (s : State) : State := { s with free := s.free + 1 }

/-- The seconds of service counted by Caravan (R429). -/
def State.opsec (s : State) : Nat := s.get R.CVN_OPSEC_SECONDS

/-! ## Records of the actuators -/

/-- The read operation of a channel. -/
def State.rop (s : State) (a : Nat) : ReadOp := Tab.at .idle s.chn a
/-- Replaces it. -/
def State.setRop (s : State) (a : Nat) (r : ReadOp) : State := { s with chn := Tab.set .idle s.chn a r }
/-- The running state of a sequencer. -/
def State.seqr (s : State) (a : Nat) : SeqRun := Tab.at .idle s.seqs a
/-- Replaces it. -/
def State.setSeqr (s : State) (a : Nat) (r : SeqRun) : State := { s with seqs := Tab.set .idle s.seqs a r }
/-- The Juggler's queue of an actuator. -/
def State.jugq (s : State) (a : Nat) : List Job := Tab.at [] s.jq a
/-- Replaces it, and shows its length in `CMD_JQ` (R306); operations beyond the queue's 2,048 are those whose commands the
engine keeps (R298). -/
def State.setJugq (s : State) (a : Nat) (q : List Job) : State :=
  ({ s with jq := Tab.set [] s.jq a q }).put (R.CMD_JQ_DEPTH a) (Nat.min 2048 q.length)
/-- The media operation an actuator runs. -/
def State.jobOf (s : State) (a : Nat) : Option Job := Tab.at none s.jact a
/-- Replaces it. -/
def State.setJob (s : State) (a : Nat) (j : Option Job) : State := { s with jact := Tab.set none s.jact a j }
/-- Appends a media operation, numbered, at the end of an actuator's queue. -/
def State.addJob (s : State) (a : Nat) (j : Job) : State :=
  ({ s with jobNo := s.jobNo + 1 }).setJugq a
    (s.jugq a ++ [{ j with id := s.jobNo, bornMs := s.get V.msNow }])
/-- Key of a preamp register: port, head select, address (R95). -/
def paKey (a hsel addr : Nat) : Nat := (a * 16 + hsel) * 2048 + addr
/-- A preamp register as last written. -/
def State.paGet (s : State) (a hsel addr : Nat) : Nat := Tab.at 0 s.pa (paKey a hsel addr)
/-- A preamp register as the preamp holds it from now on. -/
def State.paSet (s : State) (a hsel addr v : Nat) : State :=
  { s with pa := Tab.set 0 s.pa (paKey a hsel addr) (v % 65536) }
/-- Writes a preamp register by a register transaction, whose header is kept as the port's last (R95, R122). -/
def State.paPut (s : State) (a hsel addr v : Nat) : State :=
  (s.paSet a hsel addr v).put (V.sptHdr a) (hsel * 2048 + addr)
/-- A word of a sequencer's control store; all zeros before the first load (R123, R138). -/
def State.bword (s : State) (a addr : Nat) : BarkerWord := (Tab.at [] s.bstore a).getD addr ⟨0, 0, 0, 0, 0⟩
/-- Replaces a sequencer's control store. -/
def State.setBstore (s : State) (a : Nat) (l : List BarkerWord) : State := { s with bstore := Tab.set [] s.bstore a l }

/-- Sets or clears bit `a` of a mask field. -/
def State.setBit (s : State) (f : Fld) (a : Nat) (b : Bool) : State :=
  let v := s.get f
  if bitOf v a = b then s else s.put f (if b then v + 2 ^ a else v - 2 ^ a)

/-! ## The build and format records -/

/-- `NACT`: how many actuators the build has (R414). -/
def State.nact (s : State) : Nat := s.optLe 0x40 1
/-- `NHPA`: heads per actuator (R414). -/
def State.nhpa (s : State) : Nat := s.optLe 0x41 1
/-- `MATE[a]` as the build record holds it (R414). -/
def State.mateByte (s : State) (a : Nat) : Nat := s.optLe (0x42 + a) 1
/-- The declared pivot mate of an actuator (R27). -/
def State.mate (s : State) (a : Nat) : Option Nat :=
  if s.mateByte a < 4 then some (s.mateByte a) else none
/-- Global head number of a local head (R12). -/
def State.ghead (s : State) (a l : Nat) : Nat := a * s.nhpa + l
/-- `FMT_W` in effect (R53). -/
def State.fmtW (s : State) : Nat := s.fmtLe 0 2
/-- `FMT_C` in effect (R53). -/
def State.fmtC (s : State) : Nat := s.fmtLe 2 2
/-- `FMT_SKEW` in effect (R53). -/
def State.fmtSkew (s : State) : Nat := s.fmtLe 4 2
/-- Zone entry of a global head and zone in effect (R54). -/
def State.zoneEnt (s : State) (h z : Nat) : Nat := s.fmtLe (0x20 + h * 0x210 + z * 8) 8
/-- `VALID` of a zone entry. -/
def zeValid (e : Nat) : Bool := bitOf e 48
/-- `RATE0` of a zone entry. -/
def zeRate0 (e : Nat) : Nat := e / 2 ^ 24 % 2 ^ 13
/-- `OC_M` of a zone entry. -/
def zeOcM (e : Nat) : Nat := e / 2 ^ 37 % 16
/-- `GUARD` of a zone entry. -/
def zeGuard (e : Nat) : Nat := e / 2 ^ 41 % 16
/-- `DC_INIT` of a zone entry. -/
def zeDcInit (e : Nat) : Nat := e / 2 ^ 45 % 8
/-- `START_TRK` of a zone entry. -/
def zeStart (e : Nat) : Nat := e % 2 ^ 24
/-- Zones the format record in effect declares for a global head (R54). -/
def State.zonesOf (s : State) (h : Nat) : List Nat :=
  (List.range 64).filter fun z => zeValid (s.zoneEnt h z)
/-- scale(dc) of R52, in millionths. -/
def scaleDc (dc : Nat) : Nat :=
  match dc with
  | 0 => 1000000 | 1 => 950000 | 2 => 902500 | 3 => 857375 | 4 => 814506 | 5 => 773781 | _ => 0
/-- Channel bits in one data region (R40). -/
def regionBits (w c rate0 dc : Nat) : Nat :=
  rate0 * 1000000 * scaleDc dc * (c - 304) / (1000000 * (c * w * 120))
/-- Long sectors per track (R47). -/
def sectorsPerTrack (w c rate0 dc : Nat) : Nat := w * (regionBits w c rate0 dc - 88) / 292352

/-! ## Quotients whose rounding the spec leaves open -/

/-- A quotient as an integer: exact where it is one, otherwise the integer below or above it, as `Config.roundsUp` says. -/
def roundFree (n : Int) (d : Nat) : Int :=
  n / (d : Int) + if n % (d : Int) ≠ 0 ∧ Config.roundsUp n d then 1 else 0

/-- A value divided by 2 to the power of `k` (R156, R165, R172, R176). -/
def roundShift (x : Int) (k : Nat) : Int := roundFree x (2 ^ k)

/-- The point between two table points at the fraction `n` / `d` (R184, R185). -/
def lerp (a b : Int) (n d : Nat) : Int := roundFree (a * d + (b - a) * n) d

/-- A learning step: the mean of a run times a weight, shifted right (R186). -/
def learnStep (sum : Int) (cnt wn wd sh : Nat) : Int := roundFree (sum * wn) (cnt * wd * 2 ^ sh)

/-- Integer square root of a number below 2^128, rounded down: its bits from the highest, tried one after another. -/
def isqrt (n : Nat) : Nat := (List.range 64).foldl (fun r i => if (r + 2 ^ (63 - i)) ^ 2 ≤ n then r + 2 ^ (63 - i) else r) 0

/-- The first `k` terms of an alternating series in 1/2^60, term by term: the sum so far, the term, the index of the next. -/
def seriesQ60 (x2 : Int) : Nat → Int → Int → Nat → Int
  | 0, acc, _, _ => acc
  | k + 1, acc, term, i => seriesQ60 x2 k (acc + term) (-(term * x2 / 2 ^ 60) / ((i * (i + 1) : Nat) : Int)) (i + 2)

/-- Cosine in 1/2^60 of an angle of 1/(3 × 2^32) turn, by its series over at most half a turn; its error is below 2^-50 (R196,
R198; DESIGN CHOICE, log entry 80). -/
def cosQ60 (g : Int) : Int :=
  let r := (g % 12884901888).toNat
  let y : Int := Nat.min r (12884901888 - r)
  let x := y * 7244019458077122842 / 12884901888
  seriesQ60 (x * x / 2 ^ 60) 20 0 (2 ^ 60) 1

/-- Sine in 1/2^60 of the same. -/
def sinQ60 (g : Int) : Int := cosQ60 (g - 3221225472)

/-- The angle of a vector within the first quarter turn, in 1/65,536 turn rounded down: its 14 bits from the highest, tried one after
another (R199; DESIGN CHOICE, log entry 80). -/
def atanQuarter (s c : Nat) : Nat :=
  (List.range 14).foldl (fun (a : Nat) i =>
    let b : Nat := a + 2 ^ (13 - i)
    let g : Int := (b : Int) * 196608
    if (c : Int) * sinQ60 g ≤ s * cosQ60 g then b else a) 0

/-- The angle of a sine and a cosine in 1/65,536 turn (R199). -/
def atan2 (s c : Int) : Nat :=
  let m := atanQuarter
  (if 0 ≤ s ∧ 0 < c then m s.natAbs c.natAbs
    else if 0 < s then 16384 + m c.natAbs s.natAbs
    else if c < 0 then 32768 + m s.natAbs c.natAbs
    else 49152 + m c.natAbs s.natAbs) % 65536

end Sys2Proof.Machine
end

