-- ==== Sys2Proof/Machine/Coding.lean ====
section
/-!
DEFINITION. What stands on the media bit by bit (chapter "The disk as the UL9700 sees it", R36 to R48): the fields of a
servo wedge, sector metadata, randomising, the LDPC codeword, the outer code, the layout of sectors around wedges, and the
transitions the channel sends with write precompensation (R102, R103).
-/

namespace Sys2Proof.Machine

/-! ## Bits and bytes -/

/-- The `n` bits of a number, most significant first (R37, R42). -/
def natBits (n v : Nat) : List Bool := (List.range n).map fun i => v.testBit (n - 1 - i)

/-- A number of bits, most significant first. -/
def bitsNat (l : List Bool) : Nat := l.foldl (fun v b => 2 * v + b2n b) 0

/-- The bits of bytes, each most significant first (R42). -/
def bitsOf (l : List Byte) : List Bool := l.flatMap fun b => natBits 8 b.toNat

/-- The `n` bytes of a bit string. -/
def bytesOf : Nat → List Bool → List Byte
  | 0, _ => []
  | n + 1, l => BitVec.ofNat 8 (bitsNat (l.take 8)) :: bytesOf n (l.drop 8)

/-- `n` bits of the 2T tone, `1100` repeated (R36, R41). Each field starts the tone anew (DESIGN CHOICE, log entry 54). -/
def tone (n : Nat) : List Bool := (List.range n).map fun i => decide (i % 4 < 2)

/-- How many bits of two patterns differ. -/
def hamming (x y : List Bool) : Nat := (List.zipWith xor x y).count true

/-! ## The servo wedge (R36, R37, R39) -/

/-- A bit as a dibit: 0 as cells 10, 1 as cells 01 (R37). -/
def dibit (b : Bool) : List Bool := [!b, b]

/-- The bits of a dibit field; none where the two cells are no dibit (R37). -/
def dibits : Nat → List Bool → List (Option Bool)
  | 0, _ => []
  | n + 1, l => (match l with
      | true :: false :: _ => some false
      | false :: true :: _ => some true
      | _ => none) :: dibits n (l.drop 2)

/-- A dibit field as a number, a cell pair that is no dibit read by its second cell. -/
def dibitNat (n : Nat) (l : List Bool) : Nat :=
  bitsNat ((List.range n).map fun i => l.getD (2 * i + 1) false)

/-- The servo address mark, `0x0F4B` in 16 cells (R36). -/
def samCells : List Bool := natBits 16 0x0F4B

/-- The RRO sync, `1001` (R36). -/
def rroSync : List Bool := natBits 4 9

/-- Cells from the first cell of the address mark to the first cell of the index, the track number, burst A, the RRO sync
and the RRO field (R36). -/
def cellIndex : Nat := 16
/-- Track number. -/
def cellTrack : Nat := 40
/-- Burst A. -/
def cellBursts : Nat := 84
/-- RRO sync. -/
def cellRroSync : Nat := 180
/-- RRO field. -/
def cellRro : Nat := 184

/-- Even parity of the bits of a number that a list names (R36, R39). -/
def evenPar (v : Nat) (l : List Nat) : Bool := l.foldl (fun p i => xor p (bitOf v i)) false

/-- The 12 bits of the index field of a wedge (R36). -/
def indexBits (n : Nat) : List Bool :=
  natBits 10 n ++ [evenPar n [9, 7, 5, 3, 1], evenPar n [8, 6, 4, 2, 0]]

/-- The binary-reflected Gray code of a number (R37). -/
def grayOf (t : Nat) : Nat := t ^^^ t / 2

/-- The written cells of a wedge from its address mark to the end of the RRO field; the four bursts are amplitudes and
stand as 24 cells of tone each (R36). -/
def wedgeCells (index track : Nat) (rro : Nat) : List Bool :=
  samCells ++ (indexBits index).flatMap dibit ++ (natBits 22 (grayOf track)).flatMap dibit ++ tone 96 ++ rroSync ++
    (natBits 12 rro).flatMap dibit

/-- The whole wedge: guards are not written and stand as zeros (R36). -/
def wedgeField (index track rro : Nat) : List Bool :=
  List.replicate 24 false ++ tone 48 ++ wedgeCells index track rro ++ List.replicate 24 false

/-! ## Sector metadata (R44, R45) -/

/-- Metadata bytes 0 to 59 (R44). -/
def SMeta.body (m : SMeta) : List Byte :=
  leBytes 1 m.head ++ leBytes 1 (16 + 8 * b2n m.parity + m.dcls) ++ leBytes 3 m.track ++ leBytes 1 m.sidx ++
    leBytes 1 m.ndata ++ leBytes 1 m.npar ++ leBytes 8 (m.lba0.getD 0xFFFFFFFFFFFFFFFF) ++ leBytes 4 m.nsid ++
    leBytes 4 m.tgen ++ leBytes 4 m.bseq ++ (List.range 8).flatMap fun i => leBytes 4 (m.bcrc.getD i 0)

/-- The 64 metadata bytes, `MCRC` last (R44). -/
def SMeta.bytes (m : SMeta) : List Byte := m.body ++ leBytes 4 (crc32c m.body)

/-- `BCRC[0..7]` of the 32,768 user bytes of a sector as stored (R44, R45). -/
def blockCrcs (user : List Byte) : List Nat :=
  (List.range 8).map fun i => crc32c ((user.drop (4096 * i)).take 4096)

/-- Metadata bytes pass `MCRC` and name the address expected (R45). -/
def metaOk (m : List Byte) (track head sidx : Nat) : Bool :=
  crcOk m && decide (leNat (m.take 1) = head ∧ leNat ((m.drop 2).take 3) = track ∧ leNat ((m.drop 5).take 1) = sidx)

/-- Every `BCRC` agrees with the user bytes; a parity sector carries none (R44, R45, R73). -/
def bcrcOk (user m : List Byte) : Bool :=
  bitOf (leNat ((m.drop 1).take 1)) 3 ||
    decide (blockCrcs user = (List.range 8).map fun i => leNat ((m.drop (28 + 4 * i)).take 4))

/-! ## Ciphertext (R327) -/

/-- The tweak of a granule of a Key Value value: bytes 0 to 7 of SHA-256 of the key, as a little-endian number, xor the
granule's index (R327; the byte order is PRESUMED, log entry 57). -/
def kvTweak (key : List Byte) (granule : Nat) : Nat :=
  leNat (((Config.sha256 (key.map (·.toNat))).take 8).map fun x => BitVec.ofNat 8 x) ^^^ granule

/-- The bytes of a value as stored: 4 KiB data units, each under its own tweak; the last one filled up with zeros (R327, log
entry 57). -/
def kvCipher (gen : Nat) (key : List Byte) (v : List Byte) : List Byte :=
  (List.range (ceilDiv v.length 4096)).flatMap fun i =>
    let u := (v.drop (4096 * i)).take 4096
    Config.xts gen (kvTweak key i) (u ++ List.replicate (4096 - u.length) 0)

/-! ## Randomising (R43) -/

/-- One step of the generator x^31 + x^28 + 1: the register shifts by one and stage 31 xor stage 28 enters (PRESUMED, log
entry 54). -/
def prbsNext (r : BitVec 31) : BitVec 31 := (r <<< 1) ||| BitVec.ofNat 31 (b2n (xor (r.getLsbD 30) (r.getLsbD 27)))

/-- `n` bits of the generator from a register value; stage 31 is sent (log entry 54). -/
def prbs : Nat → BitVec 31 → List Bool
  | 0, _ => []
  | n + 1, r => r.getLsbD 30 :: prbs n (prbsNext r)

/-- The seed of a sector (R43). -/
def prbsSeed (track head sidx : Nat) : BitVec 31 :=
  BitVec.ofNat 31 ((track ^^^ head * 262144 ^^^ sidx * 256) &&& 0x7FFFFFFF ||| 1)

/-- Bits XORed with the generator of an address: randomises and takes the randomising away (R43). -/
def randomise (seed : BitVec 31) (l : List Bool) : List Bool := List.zipWith xor l (prbs l.length seed)

/-! ## The LDPC codeword (R42) -/

/-- A 512-bit block times a circulant given by its first column. -/
def circMul (c u : BitVec 512) : BitVec 512 :=
  (List.range 512).foldl (fun v t => if u.getLsbD t then v ^^^ c.rotateLeft t else v) 0

/-- Block `j` of 512 bits, its first bit the lowest. -/
def cwBlock (l : List Bool) (j : Nat) : BitVec 512 :=
  BitVec.ofNat 512 (bitsNat ((l.drop (512 * j)).take 512).reverse)

/-- The 29,184 parity bits of 513 blocks of information bits: parity block i is the sum over the blocks j of circulant
(i, j) times block j. The circulants follow from the parity-check matrix of the firmware image (R42, log entry 55). -/
def ldpcParity (info : List Bool) : List Bool :=
  (List.range 57).flatMap fun i =>
    let p := (List.range 513).foldl (fun v j => v ^^^ circMul (Config.ldpcCirc i j) (cwBlock info j)) 0
    (List.range 512).map fun t => p.getLsbD t

/-- Information bits of a codeword (R42). -/
def cwInfo : Nat := 262656

/-- Every parity check of a codeword is satisfied: it has converged (R42, R73). -/
def cwOk (w : List Bool) : Bool := decide (w.length = 291840 ∧ w.drop cwInfo = ldpcParity (w.take cwInfo))

/-- The codeword of a sector: user and metadata bytes randomised under the sector's own address, then parity (R42, R43). -/
def sectorCw (seed : BitVec 31) (user m : List Byte) : List Bool :=
  let info := randomise seed (bitsOf (user ++ m))
  info ++ ldpcParity info

/-- The 32,832 bytes a codeword holds for the address expected of it (R43). -/
def cwBytes (seed : BitVec 31) (w : List Bool) : List Byte := bytesOf 32832 (randomise seed (w.take cwInfo))

/-- Cause of a failed sector as R90 numbers it: 4 where its decode did not converge, 5 where a check failed, 0 for none
(R45, R73, R78). -/
def cwCause (track head sidx : Nat) (w : List Bool) : Nat :=
  if !cwOk w then 4
  else
    let b := cwBytes (prbsSeed track head sidx) w
    if metaOk (b.drop 32768) track head sidx && bcrcOk (b.take 32768) (b.drop 32768) then 0 else 5

/-! ## The outer code (R48, R83, R84) -/

/-- Multiplication by x in GF(2^8) with x^8 + x^4 + x^3 + x^2 + 1. -/
def gfDouble (a : Nat) : Nat := if 128 ≤ a then (2 * a) ^^^ 0x11D else 2 * a

/-- Product in GF(2^8). -/
def gfMul (a b : Nat) : Nat :=
  ((List.range 8).foldl (fun (p : Nat × Nat) i => (if bitOf b i then p.1 ^^^ p.2 else p.1, gfDouble p.2)) (0, a)).1

/-- A power in GF(2^8). -/
def gfPow (a : Nat) : Nat → Nat
  | 0 => 1
  | n + 1 => gfMul a (gfPow a n)

/-- The inverse of a number that is not zero. -/
def gfInv (a : Nat) : Nat := gfPow a 254

/-- The generator polynomial, the product of (x − α^i) for i below m, highest power first (R48). -/
def rsGen (m : Nat) : List Nat :=
  (List.range m).foldl (fun g i => List.zipWith (· ^^^ ·) (g ++ [0]) (0 :: g.map (gfMul (gfPow 2 i)))) [1]

/-- The m parity symbols of a column's data symbols, sector 0 first (R48). -/
def rsParity (m : Nat) (data : List Nat) : List Nat :=
  data.foldl (fun r d =>
    let f := r.headD 0 ^^^ d
    List.zipWith (· ^^^ ·) (r.drop 1 ++ [0]) ((rsGen m).drop 1 |>.map (gfMul f))) (List.replicate m 0)

/-- The syndromes of a column, its value at α^i for i below m (R48). -/
def rsSyn (m : Nat) (c : List Nat) : List Nat :=
  (List.range m).map fun i => c.foldl (fun v x => gfMul v (gfPow 2 i) ^^^ x) 0

/-- The symbols at the erased positions of a column (R48, R83): each from the first syndromes and the locators of the
others. -/
def rsFix (m : Nat) (er : List Nat) (c : List Nat) : List Nat :=
  let c0 := c.mapIdx fun i x => if er.contains i then 0 else x
  let s := rsSyn m c0
  let loc := er.map fun p => gfPow 2 (c.length - 1 - p)
  let om := (loc.foldl (fun p x => List.zipWith (· ^^^ ·) (p ++ [0]) (0 :: p.map (gfMul x))) [1])
  let omega := (List.range er.length).map fun d =>
    (List.range (d + 1)).foldl (fun v i => v ^^^ gfMul (s.getD i 0) (om.getD (d - i) 0)) 0
  let val (x : Nat) : Nat :=
    let y := gfInv x
    let num := omega.foldr (fun c v => c ^^^ gfMul v y) 0
    let den := loc.foldl (fun v z => if z = x then v else gfMul v (1 ^^^ gfMul z y)) 1
    gfMul num (gfInv den)
  c.mapIdx fun i x => match er.findIdx? (· = i) with
    | some k => val (loc.getD k 1)
    | none => x

/-- Every syndrome of a column is zero; after a rebuild those beyond the erasures are the surplus ones (R83). -/
def rsOk (m : Nat) (c : List Nat) : Bool := (rsSyn m c).all (· = 0)

/-- Column `j` of a track's sectors given by their user bytes. -/
def column (secs : List (List Byte)) (j : Nat) : List Nat := secs.map fun u => (u.getD j 0).toNat

/-- The parity sectors of a track of data sectors; positions beyond a short track's data count as zeros (R48, R50). -/
def paritySectors (m k : Nat) (data : List (List Byte)) : List (List Byte) :=
  (List.range m).map fun p => (List.range 32768).map fun j =>
    BitVec.ofNat 8 ((rsParity m (column data j ++ List.replicate (k - data.length) 0)).getD p 0)

/-- The sectors of a track after a rebuild of the erased ones, by columns; none where more than m are erased or a surplus
syndrome is not zero (R83). `secs` are all n positions, zeros where a short track has none (R84). -/
def ocRebuild (m : Nat) (er : List Nat) (secs : List (List Byte)) : Option (List (List Byte)) :=
  if m < er.length then none
  else
    let cols := (List.range 32768).map fun j => rsFix m er (column secs j)
    if er.length < m ∧ !cols.all (rsOk m) then none
    else some ((List.range secs.length).map fun i => cols.map fun c => BitVec.ofNat 8 (c.getD i 0))

/-! ## Layout around wedges (R41, R46) -/

/-- What a stretch of channel bits of a track holds. -/
inductive FieldKind where
  | preamble | sm1 | codeword (from_ : Nat) | sm2 | postamble | pad | header
deriving DecidableEq, Repr

/-- A stretch of a data region: region, first bit, length, sector, content. -/
structure Piece where
  region : Nat
  bit    : Nat
  len    : Nat
  sidx   : Nat
  kind   : FieldKind
deriving DecidableEq, Repr

/-- The place the layout has reached: region, bit in it, pieces so far. -/
structure LayPos where
  region : Nat
  bit    : Nat
  out    : List Piece
deriving DecidableEq, Repr

/-- Writes one stretch that fits in the region. -/
def LayPos.add (p : LayPos) (len sidx : Nat) (k : FieldKind) : LayPos :=
  if len = 0 then p else ⟨p.region, p.bit + len, p.out ++ [⟨p.region, p.bit, len, sidx, k⟩]⟩

/-- Goes to the first bit of the next region. -/
def LayPos.next (p : LayPos) : LayPos := ⟨p.region + 1, 0, p.out⟩

/-- Codeword bits, split at each wedge with a fragment header after it (R46 rule 1). -/
def LayPos.cw (b sidx : Nat) : Nat → LayPos → Nat → Nat → LayPos
  | 0, p, _, _ => p
  | fuel + 1, p, from_, len =>
    let room := b - p.bit
    if len ≤ room then p.add len sidx (.codeword from_)
    else LayPos.cw b sidx fuel (((p.add room sidx (.codeword from_)).next).add 88 sidx .header) (from_ + room) (len - room)

/-- One sector in regions of `b` bits (R41, R46 rules 1 to 4). -/
def LayPos.sector (b : Nat) (p : LayPos) (sidx : Nat) : LayPos :=
  let p := if b - p.bit < 200 then (p.add (b - p.bit) sidx .pad).next else p
  let p := (p.add 160 sidx .preamble).add 40 sidx .sm1
  let p := LayPos.cw b sidx 4096 p 0 4096
  let p := if b - p.bit < 40 then ((p.add (b - p.bit) sidx .pad).next).add 88 sidx .header else p
  let p := p.add 40 sidx .sm2
  let p := LayPos.cw b sidx 4096 p 4096 287744
  p.add (Nat.min 32 (b - p.bit)) sidx .postamble

/-- The layout of a track of `n` sectors in regions of `b` bits, from the start of the track (R46). -/
def layTrack (b n : Nat) : List Piece :=
  ((List.range n).foldl (fun (p : LayPos) i => p.sector b i) ⟨0, 0, []⟩).out

/-- Channel bits between SM1's first bit and SM2's first bit: 4,136 and what R46 places between the two marks (R79). -/
def sm2After (ps : List Piece) (sidx : Nat) : Nat :=
  4136 + ((ps.filter fun q => decide (q.sidx = sidx ∧ (q.kind = .pad ∨ q.kind = .header)) &&
    (ps.takeWhile fun r => !decide (r.sidx = sidx ∧ r.kind = .sm2)).contains q &&
    (ps.dropWhile fun r => !decide (r.sidx = sidx ∧ r.kind = .sm1)).contains q).map (·.len)).foldl (· + ·) 0

/-- The bits of a stretch, given the codeword of its sector (R41, R46). -/
def pieceBits (cw : Nat → List Bool) (q : Piece) : List Bool :=
  match q.kind with
  | .preamble => tone q.len
  | .sm1 => natBits 40 0x3D16AF2C9B
  | .sm2 => natBits 40 0xC2E950D364
  | .codeword f => ((cw q.sidx).drop f).take q.len
  | .postamble => tone q.len
  | .pad => tone q.len
  | .header => tone 64 ++ natBits 24 0x5AC6E3

/-- The channel bits of one data region of a track: the layout's stretches one after the other (R46). -/
def regionWd (cw : Nat → List Bool) (ps : List Piece) (region : Nat) : List Bool :=
  (ps.filter fun q => decide (q.region = region)).flatMap (pieceBits cw)

/-! ## Transitions and precompensation (R102, R103) -/

/-- The places of the transitions of an NRZ bit string: where a bit differs from the one before it; the line is low before
the first (log entry 54). -/
def transitions (l : List Bool) : List Nat :=
  (List.range l.length).filter fun i => l.getD i false != (if i = 0 then false else l.getD (i - 1) false)

/-- The instants of transitions in 1/64 bit: one shifts earlier by `pc1` when the previous transition lies one bit before
it, by `pc2` when it lies two bits before it (R103). -/
def precomp (pc1 pc2 : Nat) (ts : List Nat) : List Int :=
  ts.map fun (i : Nat) =>
    let early : Nat := if 1 ≤ i ∧ ts.contains (i - 1) then pc1 else if 2 ≤ i ∧ ts.contains (i - 2) then pc2 else 0
    64 * (i : Int) - (early : Int)

/-! ## A written track -/

/-- User bytes of every sector the track carries, parity last (R48, R50). -/
def MTrack.user (x : MTrack) : List (List Byte) := x.data ++ paritySectors x.m x.k x.data

/-- The codeword that goes out for a sector of the track while its user bytes come from the outer-code parity generator, or from the
track's data (R124): the generator gives parity sector i − k', its first one where there is none (log entry 76). -/
def MTrack.cwFrom (x : MTrack) (par : Bool) (i : Nat) : List Bool :=
  match x.metas[i]? with
  | some m =>
    let u := if par then (paritySectors x.m x.k x.data).getD (i - x.kd) (List.replicate 32768 0) else x.data.getD i (List.replicate 32768 0)
    sectorCw (prbsSeed m.track m.head m.sidx) u m.bytes
  | none => []

/-- The codeword of a sector of the track (R42, R43, R44). -/
def MTrack.cw (x : MTrack) (i : Nat) : List Bool :=
  match x.metas[i]? with
  | some m => sectorCw (prbsSeed m.track m.head m.sidx) (x.user.getD i []) m.bytes
  | none => []

end Sys2Proof.Machine
end

