-- ==== Sys2Proof/Machine/Detector.lean ====
section
/-!
DEFINITION. From samples to soft decisions (R64, R72, R75 to R77): the two-dimensional equaliser, the delay of reader 1, the
monic target, and the 16-state soft-output Viterbi detector with data-dependent noise prediction.
-/

namespace Sys2Proof.Machine

/-! ## Flagged spans (R75 to R77) -/

/-- Codeword bits of a sector (R42). -/
def cwLen : Nat := 291840

/-- A flagged span, widened by `pad` bits on both sides and held within the codeword: first bit, bit after the last. -/
def widened (start len pad : Nat) : Nat × Nat := (start - pad, Nat.min cwLen (start + len + pad))

/-- Bits that at least one of the spans covers. -/
def covered (l : List (Nat × Nat)) : Nat :=
  (l.insertionSort fun x y => x.1 ≤ y.1).foldl
    (fun (p : Nat × Nat) x => if p.1 < x.2 then (x.2, p.2 + (x.2 - Nat.max p.1 x.1)) else p) (0, 0) |>.2

/-- Bits of a sector whose LLR is zero under R76. -/
def Sect.zeroLlr (x : Sect) : Nat := covered ((x.spans.filter fun p => decide (p.2.2 = 0)).map fun p => (p.1, p.2.1))

/-- A codeword bit lies in a span of a kind: 0 zero LLR, 1 reader 0 muted, 2 reader 1 muted (R76). -/
def Sect.inSpan (x : Sect) (k i : Nat) : Bool := x.spans.any fun p => decide (p.2.2 = k ∧ p.1 ≤ i ∧ i < p.2.1)

/-! ## Samples of a sector's codeword (R46, R80, R81) -/

/-- The codeword bits of a sector's stretches in order, each as its place among the sector's bits and its fragment: the
fragment number advances at each fragment header. -/
def cwPlaces : List Piece → Nat → Nat → List (Nat × Nat)
  | [], _, _ => []
  | q :: l, at_, frag =>
    (match q.kind with
     | .codeword _ => (List.range q.len).map fun i => (at_ + i, frag)
     | _ => []) ++ cwPlaces l (at_ + q.len) (match q.kind with | .header => frag + 1 | _ => frag)

/-- A sample, 0 outside those taken. -/
def sampleAt (l : List Int) (i : Int) : Int := if i < 0 then 0 else l.getD i.toNat 0

/-- Shift of a fragment's framing: the frame of the sync marks and the shifts its fragment sync marks added (R80, R81). -/
def Sect.shift (x : Sect) (frag : Nat) : Int := (x.fsm.take frag).foldl (· + ·) x.frame

/-- One reader's samples at the codeword bits, as framed. -/
def Sect.framed (x : Sect) (ps : List Piece) (l : List Int) : List Int :=
  (cwPlaces (ps.filter fun q => decide (q.sidx = x.sidx)) 0 0).map fun p => sampleAt l (p.1 + x.shift p.2)

/-! ## Equaliser (R64, R72) -/

/-- A signal delayed by `d` / 64 bit (R69, R72): by whole bits it moves; between bits its value is interpolated, which the spec
leaves open (log entry 73). -/
def delayed (d : Int) (x : List Int) (n : Nat) : Int :=
  let i : Int := (n : Int) - d / 64
  if d % 64 = 0 then sampleAt x i
  else Config.between [sampleAt x (i - 2), sampleAt x (i - 1), sampleAt x i, sampleAt x (i + 1)] (d % 64).toNat

/-- A 10-tap FIR at bit `n`. -/
def fir (taps : List Int) (x : Nat → Int) (n : Nat) : Int :=
  (taps.mapIdx fun k c => if k ≤ n then c * x (n - k) else 0).foldl (· + ·) 0

/-- Gains of the two equaliser branches: the unused reader's branch is zero and the other's doubled (R64). -/
def branchGain (use0 use1 : Bool) : Int × Int := if use0 && use1 then (1, 1) else if use0 then (2, 0) else if use1 then (0, 2) else (0, 0)

/-- Equaliser output at codeword bit `n` in 1/64 sample: both branches, reader 1 delayed by `DSKEW`; a reader muted over a span
drops out there (R64, R72, R76). -/
def equalised (t0 t1 : List Int) (skew : Int) (use0 use1 : Bool) (x : Sect) (s0 s1 : List Int) (n : Nat) : Int :=
  let g := branchGain (use0 && !x.inSpan 1 n) (use1 && !x.inSpan 2 n)
  g.1 * fir t0 (sampleAt s0 ·) n + g.2 * fir t1 (delayed skew s1) n

/-! ## Detector (R72) -/

/-- A survivor of the detector: its metric, the last two errors of its path, its bits newest first, and each bit's
reliability, 0 while no other path has differed in it. -/
structure Surv where
  m   : Nat
  e1  : Int
  e2  : Int
  b   : List Bool
  rel : List Nat
deriving DecidableEq, Repr

/-- A bit as the signal level +1 or −1. -/
def level (b : Bool) : Int := if b then 1 else -1

/-- The noiseless equaliser output of the newest five bits under the monic target g0 = 1, g1 to g4 in 1/64 (R69, R72). -/
def targetOut (g : List Int) (bits : List Bool) : Int :=
  Config.unitLevel * ((64 :: g).mapIdx fun i c => c * level (bits.getD i false)).foldl (· + ·) 0

/-- The noise prediction's context: the newest three bits (log entry 73). -/
def context (bits : List Bool) : Nat := b2n (bits.getD 0 false) + 2 * b2n (bits.getD 1 false) + 4 * b2n (bits.getD 2 false)

/-- A survivor extended by a bit: the error against the target less its prediction from the path's last two errors enters the
metric squared (R69, R72). -/
def Surv.extend (g npf : List Int) (y : Int) (v : Surv) (bit : Bool) : Surv :=
  let bits := bit :: v.b
  let e := y - targetOut g bits
  let c := context bits
  let d := 128 * e - npf.getD (2 * c) 0 * v.e1 - npf.getD (2 * c + 1) 0 * v.e2
  ⟨v.m + d.natAbs * d.natAbs, e, v.e1, bits, 0 :: v.rel⟩

/-- Of two paths that meet, the better one stays; where their bits differ its reliability is at most the difference of their
metrics. A tie keeps the first. -/
def Surv.merge (x y : Surv) : Surv :=
  let w := if x.m ≤ y.m then x else y
  let l := if x.m ≤ y.m then y else x
  let d := l.m - w.m
  { w with rel := (w.b.zip l.b).zip (w.rel.zip l.rel) |>.map fun q =>
      if q.1.1 != q.1.2 then (if q.2.1 = 0 then d + 1 else Nat.min q.2.1 (d + 1)) else q.2.1 }

/-- One step of the 16-state trellis; state i holds the newest four bits, the newest lowest. -/
def trellis (g npf : List Int) (vs : List Surv) (y : Int) : List Surv :=
  (List.range 16).map fun i =>
    let bit := bitOf i 0
    let from_ (old : Nat) : Surv := (vs.getD (i / 2 + 8 * old) ⟨0, 0, 0, [], []⟩).extend g npf y bit
    (from_ 0).merge (from_ 1)

/-- The 16 survivors before a sector's first bit. -/
def trellis0 : List Surv := (List.range 16).map fun i => ⟨0, 0, 0, (List.range 4).map (bitOf i), List.replicate 4 0⟩

/-- Detector output: one LLR of 6 bits for each equalised value, positive for a 1; a bit's magnitude follows from the
reliability of the best path by the detector's own scale, which the spec leaves open (log entry 73). -/
def detect (g npf : List Int) (ys : List Int) : List Int :=
  match (ys.foldl (trellis g npf) trellis0).foldl (fun (b : Option Surv) v => match b with
      | some w => if v.m < w.m then some v else some w
      | none => some v) none with
  | some v => (((v.b.zip v.rel).take ys.length).map fun p =>
      level p.1 * (1 + (Config.llrMagnitude p.2 % 31 : Nat))).reverse
  | none => []

/-- The LLRs of a sector's codeword bits; those of a zeroed span are zero and enter the decoder as erasures, so do bits 0 to
4,095 of a sector without its SM1 (R72, R76, R80). -/
def Sect.llrs (x : Sect) (ps : List Piece) (t0 t1 g npf : List Int) (skew : Int) (use0 use1 : Bool)
    (samples : List (BitVec 6 × BitVec 6)) : List Int :=
  if samples.isEmpty then []
  else
    let s0 := x.framed ps (samples.map (·.1.toInt))
    let s1 := x.framed ps (samples.map (·.2.toInt))
    (detect g npf ((List.range s0.length).map (equalised t0 t1 skew use0 use1 x s0 s1))).mapIdx fun i v =>
      if x.inSpan 0 i || (x.noSm1 && decide (i < 4096)) then 0 else v

/-- Hard decisions of LLRs; none where one is an erasure. -/
def hardBits (l : List Int) : Option (List Bool) := if l.any (· = 0) then none else some (l.map fun v => decide (0 < v))

/-- The codeword a decode ends with: the detector's own decisions where they satisfy every parity check, else what the
iterations converged to, if they did (R73). -/
def Sect.decoded (x : Sect) (word : Option (List Bool)) : Option (List Bool) :=
  match hardBits x.llr with
  | some w => if cwOk w then some w else word
  | none => word

end Sys2Proof.Machine
end

