-- ==== Sys2Proof/Machine/Actuator.lean ====
section
/-!
DEFINITION. What several blocks do to one actuator: ending a write early (R109, R110), abandoning a sequencer routine
(R130, R132), withdrawing write permission (R150), stopping the retry ladder (R88), aborting a touchdown (R113), heater
power (R112), and the servo state changes every unload shares (R152).
-/

namespace Sys2Proof.Machine

/-! ## State codes -/

/-- Codes of `SEQ_STAT.STATE` (R138). -/
def seqOFF : Nat := 0
/-- IDLE. -/
def seqIDLE : Nat := 1
/-- RUN. -/
def seqRUN : Nat := 2
/-- WAIT. -/
def seqWAIT : Nat := 3
/-- EXIT. -/
def seqEXIT : Nat := 4
/-- MCHK. -/
def seqMCHK : Nat := 5

/-- Codes of `SRV_STAT.STATE` (R151). -/
def srvOFF : Nat := 0
/-- UNLOADED. -/
def srvUNLOADED : Nat := 1
/-- LOADING. -/
def srvLOADING : Nat := 2
/-- ACQUIRE. -/
def srvACQUIRE : Nat := 3
/-- SEEK. -/
def srvSEEK : Nat := 4
/-- SETTLE. -/
def srvSETTLE : Nat := 5
/-- FOLLOW. -/
def srvFOLLOW : Nat := 6
/-- HOLD. -/
def srvHOLD : Nat := 7
/-- UNLOADING. -/
def srvUNLOADING : Nat := 8

/-- The model's index of each cause that abandons a routine (R109, R130); registers show `Config.causeCode` of it. -/
def abPaFault : Nat := 1
/-- Servo write inhibit. -/
def abServo : Nat := 2
/-- Stop wire. -/
def abStop : Nat := 3
/-- Power-fail wire. -/
def abPowerFail : Nat := 4
/-- Laser-off latch. -/
def abLatch : Nat := 5
/-- Head unload. -/
def abUnload : Nat := 6
/-- Lanyard port failure. -/
def abPort : Nat := 7
/-- `RD_ABORT`. -/
def abRdAbort : Nat := 8
/-- Command abort. -/
def abCommand : Nat := 9
/-- WAIT timeout. -/
def abTimeout : Nat := 10
/-- Late event. -/
def abLate : Nat := 11
/-- `WR_INH`. -/
def abInhibit : Nat := 12
/-- A machine check of the sequencer: the cause a restart after recovery names (R135, R140). -/
def abMchk : Nat := 15
/-- A touchdown refused as not started. -/
def abNotStarted : Nat := 13
/-- `TFH_TD.ABORT`. -/
def abTdAbort : Nat := 14

/-- The servo state of an actuator. -/
def State.srvSt (s : State) (a : Nat) : Nat := s.get (R.SRV_STAT_STATE a)

/-- The heads of an actuator are off the ramp (R151). -/
def State.loaded (s : State) (a : Nat) : Bool :=
  decide (srvLOADING ≤ s.srvSt a ∧ s.srvSt a ≤ srvUNLOADING)

/-- The heads are over the media in a state whose samples count (R158). -/
def State.onTrack (s : State) (a : Nat) : Bool :=
  decide (srvSEEK ≤ s.srvSt a ∧ s.srvSt a ≤ srvFOLLOW)

/-- The sequencer runs a routine. -/
def State.seqBusy (s : State) (a : Nat) : Bool :=
  decide (seqRUN ≤ s.get (R.SEQ_STAT_STATE a) ∧ s.get (R.SEQ_STAT_STATE a) ≤ seqEXIT)

/-- A job writes a track, of a band or of the media cache (R252). -/
def Job.writes (j : Job) : Bool := decide (j.kind = .write ∨ j.kind = .durable)

/-- The sequencer runs a write job: a write is in progress on the actuator (R109). -/
def State.writing (s : State) (a : Nat) : Bool :=
  s.seqBusy a && match (s.seqr a).job with
    | some j => j.writes
    | none => false

/-! ## Heater power (R112) -/

/-- Value of a Tightrope head entry field of a global head (R117). -/
def State.tfhField (s : State) (h off n : Nat) : Nat := s.le 0x13 h (0x1000 + off) n

/-- A Tightrope head entry is valid and in range, its touchdown fields apart (R117, R118). -/
def State.tfhHeadOk (s : State) (h : Nat) : Bool :=
  bitOf (s.tfhField h 0xB 1) 0 && crcOk (s.bytes 0x13 h 0x1000 32) && decide (s.tfhField h 0 2 ≤ 4095)
    && decide (s.tfhField h 0xB 1 < 2) && decide (s.le 0x13 h 0x100C 16 = 0) && decide (1 ≤ s.tfhField h 0xA 1 ∧ s.tfhField h 0xA 1 ≤ 64)

/-- A Tightrope zone entry passes its CRC (R117). -/
def State.tfhZoneOk (s : State) (h z : Nat) : Bool := crcOk (s.bytes 0x13 h (0x1100 + z * 8) 8)

/-- Writes a heater power to the preamp, clamped to `HTR_MAX`; a clamp is recorded (R112). -/
def State.setHeater (s : State) (a l z p : Nat) : State :=
  let mx := s.tfhField (s.ghead a l) 0 2
  if mx < p then
    ((s.paPut a l 0x14 mx).evt R.TFH_EVT_HTR_CLAMP).post 0x13 0x13 warning (s.ghead a l)
      [s.ghead a l, z, p]
  else s.paPut a l 0x14 p

/-- A head entry that cannot be used sets the heater to 0 and write-disables the head for the rest of the operation; it is recorded
with the power that was asked for (R118). -/
def State.heaterBad (s : State) (a l z p : Nat) : State :=
  let h := s.ghead a l
  ((s.paPut a l 0x14 0).put (V.tfhNoWr a) (s.get (V.tfhNoWr a) ||| 2 ^ l)).post 0x13 0x13 warning h [h, z, p]

/-- Heater power of a zone for reading or writing, or `HTR_IDLE` where the entry cannot be used (R112, R118); a head that
has not passed the checks of R121 is not driven. -/
def State.driveHeater (s : State) (a l z : Nat) (write : Bool) : State :=
  let h := s.ghead a l
  let s := s.put (V.tfhIdle a) 0
  if !s.on (V.tfhPassed h) then s.paPut a l 0x14 0
  else if !s.tfhHeadOk h then s.heaterBad a l z (s.le 0x13 h (0x1100 + z * 8 + if write then 2 else 0) 2)
  else if !s.tfhZoneOk h z then
    (s.setHeater a l z (s.tfhField h 2 2)).post 0x13 0x13 warning h [h, z, s.tfhField h 2 2]
  else s.setHeater a l z (s.le 0x13 h (0x1100 + z * 8 + if write then 2 else 0) 2)

/-- Idle heater power of the selected head while the heads are loaded, 0 otherwise (R112). Where its entry cannot be used no zone is
in use, and code 0x13 carries zone 0 (DESIGN CHOICE, log entry 74). -/
def State.idleHeater (s : State) (a : Nat) : State :=
  let s := s.put (V.tfhIdle a) 0
  let l := s.get (R.SRV_STAT_HEAD a)
  let h := s.ghead a l
  if !s.loaded a || !s.on (V.tfhPassed h) then s.paPut a l 0x14 0
  else if !s.tfhHeadOk h then s.heaterBad a l 0 (s.tfhField h 2 2)
  else s.setHeater a l 0 (s.tfhField h 2 2)

/-- The bias of a laser head goes when its write operation ends (R105). -/
def State.biasOff (s : State) (a : Nat) : State :=
  s.when (s.on (V.sptLbias a)) fun t => (t.paPut a (t.get (V.sptLbHead a)) 0x12 0).put (V.sptLbias a) 0

/-- A media operation of an actuator ends: the laser bias goes, write heater power is no longer asked for, and the heater
returns to its idle power (R105, R112). -/
def State.opEnded (s : State) (a : Nat) : State :=
  ((s.biasOff a).puts [(V.tfhHtw a, 0), (V.tfhPreDone a, 0), (V.tfhNoWr a, 0)]).idleHeater a

/-! ## Ending a write, abandoning a routine -/

/-- Steps 1 to 3 of R110, with code 0x11 when the laser-off latch is the cause (R122). -/
def State.writeAbort (s : State) (a : Nat) (latch : Bool) : State :=
  ((((s.put (R.SPT_STAT_AG_REQ a) 0).put (R.SPT_STAT_WG a) 0).evt (R.SPT_EVT_WR_ABORT a)).count
    (R.SPT_CNT_WRABORT a)).when latch fun t =>
      (t.evt (R.SPT_EVT_LATCH_ABORT a)).post 0x12 0x11 warning a
        [a, t.get (R.SPT_STAT_SEL_HEAD a), t.get (R.SRV_TGT_TRACK a)]

/-- The off-track position of a step of rung 2, in 1/2,048 track (R85). -/
def rung2Ofs (step : Nat) : Int := [64, -64, 128, -128, 192, -192].getD step 0

/-- Sets the servo offset for rung 2 and takes it away for every other rung (R85, R161). -/
def State.rungOfs (s : State) (a rung step : Nat) : State :=
  let v := ofSigned 16 (if rung = 2 then rung2Ofs step else 0)
  if s.get (R.SRV_OFS_OFS a) = v then s
  else s.puts [(R.SRV_OFS_OFS a, v), (V.srvOfsPend a, 1), (V.srvOfsNext a, v)]

/-- The read operation of a channel ends without its remaining sectors, and with it the off-track position of rung 2; the entry
loaded last and its working set stay (R70, R71, R85). -/
def State.dropRead (s : State) (a : Nat) : State :=
  let r := s.rop a
  (((((s.when (decide (s.get (R.CHN_STAT_RUNG a) = 2)) fun t => t.rungOfs a 0 0).setRop a { ReadOp.idle with
      zone := r.zone, single := r.single, adapt := r.adapt, loaded := r.loaded, base := r.base, flags := r.flags,
      ctle := r.ctle, ctle0 := r.ctle0 }).put (R.CHN_STAT_ACTIVE a) 0).put (R.CHN_STAT_RUNG a) 0).put
    (R.CHN_STAT_LOCK a) 0).put (R.CHN_STAT_REPLAY_BUSY a) 0

/-- The sequencer returns to IDLE, where it runs its idle loop (R125, R130). -/
def State.toIdle (s : State) (a : Nat) : State :=
  s.puts [(R.SEQ_STAT_STATE a, seqIDLE), (R.SEQ_STAT_PC a, Config.idleLoop s.fwImg % 4096)]

/-- The routine stops where it is: every gate goes off, the read operation ends, and the job returns with its commit record
(R130), sectors committed as failed with it (R131). -/
def State.stopRoutine (s : State) (a : Nat) : State :=
  let r := s.seqr a
  let kept := r.kept ++ match r.job with
    | some j => (s.rop a).failed.filter fun x => decide (x.1 < j.first + s.get (V.seqUnits a) ∧ x ∉ r.kept)
    | none => []
  ((((s.setSeqr a { r with job := none, returned := if r.job = none then r.returned else r.job, kept := kept }).puts
    [(R.SEQ_STAT_GATES a, 0), (R.SPT_STAT_AG_REQ a, 0), (R.SPT_STAT_WG a, 0), (R.SRV_STAT_WP a, 0),
      (V.seqStall a, 0)]).dropRead a)).opEnded a

/-- An abandoning event reaches the sequencer: a restartable routine is abandoned, every gate goes off and the job
returns (R130); in an NR routine the event waits for an
instruction boundary (R132). -/
def State.abandon (s : State) (a cause : Nat) : State :=
  let st := s.get (R.SEQ_STAT_STATE a)
  if st = seqRUN ∨ st = seqWAIT then
    if s.on (R.SEQ_STAT_NR a) then
      (s.put (V.seqPend a) cause).seqCount (R.SEQ_CNT_NRDEFER a)
    else
      (((s.stopRoutine a).toIdle a).put (V.seqLast a) cause).evt (R.SEQ_EVT_ABANDON a)
  else s

/-- An event of R109 on actuator `a`: a write in progress, or a gate still open, ends by R110, and the routine is abandoned
(R130). -/
def State.endWrite (s : State) (a cause : Nat) (latch : Bool) : State :=
  (s.when (s.writing a || s.on (R.SPT_STAT_WG a)) fun t => t.writeAbort a latch).abandon a cause

/-- The model's index of each cause that withdraws write permission (R149, R150); code 0x16 shows `Config.causeCode` of it:
a servo state other than FOLLOW. -/
def wiState : Nat := 20
/-- A bad wedge. -/
def wiBad : Nat := 21
/-- The position error beyond `WI_THR`. -/
def wiPes : Nat := 22
/-- The predicted position error beyond it. -/
def wiPred : Nat := 23
/-- A servo address mark missed. -/
def wiMiss : Nat := 24
/-- The spindle not at set point 0 or 1. -/
def wiSpeed : Nat := 25
/-- An offset or a target that was written. -/
def wiTarget : Nat := 26
/-- A loop that withholds permission. -/
def wiLoop : Nat := 27
/-- A track other than the target. -/
def wiTrack : Nat := 28

/-- Permission goes (R150): it is held off until `WI_GOOD` wedges have been good; a withdrawal with the gate open sets WI, is
counted and writes code 0x16. -/
def State.permOff (s : State) (a why : Nat) : State :=
  let open_ := s.on (R.SPT_STAT_WG a)
  ((s.put (R.SRV_STAT_WP a) 0).put (V.srvWiHold a) (s.get (R.SRV_WI_WI_GOOD a))).when open_ fun t =>
    ((t.evt (R.SRV_EVT_WI a)).count (R.SRV_CNT_WI a)).post 0x0E 0x16 info a
      [t.get (R.SRV_STAT_HEAD a), t.get (R.SRV_TGT_TRACK a), t.get (R.SRV_PES_PES a),
        Config.causeCode why]

/-- Withdrawal of write permission (R150) for a cause; the write ends by R110 and R130. -/
def State.withdraw (s : State) (a why : Nat) : State :=
  if s.on (R.SRV_STAT_WP a) then (s.permOff a why).endWrite a abServo false else s

/-- Withdrawal of write permission by the routine or the operation that itself moves the head (R150, R157): a write in progress ends
as above, and a routine that writes nothing, the head switch above all, is not abandoned for what it does itself (DEDUCED, log entry
67). -/
def State.withdrawMove (s : State) (a : Nat) : State :=
  if s.writing a || s.on (R.SPT_STAT_WG a) then s.withdraw a wiTarget
  else s.when (s.on (R.SRV_STAT_WP a)) fun t => t.permOff a wiTarget

/-- The actuator of a global head. -/
def State.actOf (s : State) (h : Nat) : Nat := if s.nhpa = 0 then 0 else h / s.nhpa

/-- The local number of a global head on its actuator. -/
def State.localHead (s : State) (h : Nat) : Nat := if s.nhpa = 0 then 0 else h % s.nhpa

/-- Parasol holds the actuator: step 10 of the controller's ladder (R301, R442). -/
def State.thermHeld (s : State) (a : Nat) : Bool :=
  decide (s.get R.PSL_STAT_STEP_CTL = 10 ∧ a % 2 + s.get V.thSet = 1)

/-- A hold of the queue ends; Parasol's remains (R87, R113, R114, R301). -/
def State.releaseHold (s : State) (a : Nat) : State :=
  let h := s.thermHeld a
  (s.putB (R.CMD_JQ_HELD a) h).put (R.CMD_JQ_WHY a) (if h then 3 else 0)

/-- The ladder stops when the heads unload: the read is queued again, its hold ends, and it starts anew after the heads
reload (R87, R88); the sequencer has nothing to restart. -/
def State.ladderRestart (s : State) (a : Nat) : State :=
  let r := s.rop a
  if r.active ∧ 1 ≤ s.get (R.CHN_STAT_RUNG a) ∧ s.get (R.CHN_STAT_RUNG a) ≤ 5 then
    let t := (s.setSeqr a { s.seqr a with job := none, returned := none, kept := [] }).dropRead a
    match r.job with
    | some j => ((t.setJugq a (j :: t.jugq a)).setJob a none).when (decide (t.get (R.CMD_JQ_WHY a) = 1)) fun u => u.releaseHold a
    | none => t
  else s

/-- Parasol's holds follow its step and the set it holds (R442). -/
def State.showTherm (s : State) : State :=
  s.forAll (List.range 4) fun a t =>
    if t.get (R.CMD_JQ_WHY a) = 0 ∨ t.get (R.CMD_JQ_WHY a) = 3 then t.releaseHold a else t

/-- The touchdown ends as ABORTED: heater 0, code 0x12, queues released (R113). -/
def State.tdAbort (s : State) (cause : Nat) : State :=
  if s.on R.TFH_TD_RES_BUSY then
    let h := s.get V.tdH
    let a := s.actOf h
    ((((((s.paPut a (s.localHead h) 0x14 0).puts
      [(R.TFH_TD_RES_BUSY, 0), (R.TFH_TD_RES_RESULT, 3), (V.tdWait, 0), (V.tfhIdle a, 1)]).evt R.TFH_EVT_TD_DONE).post
        0x13 0x12 warning h [h, Config.causeCode cause]).releaseHold a)).put (V.tdHits) 0
  else s

/-- The same, when the touchdown runs on a head of actuator `a`. -/
def State.tdAbortOn (s : State) (a cause : Nat) : State :=
  s.when (decide (s.actOf (s.get V.tdH) = a)) fun t => t.tdAbort cause

/-! ## Servo state changes shared by every unload -/

/-- The lowest-numbered actuator in SEEK, SETTLE or FOLLOW without a head switch in progress is the feed source
(R158). -/
def State.feedSource (s : State) : Option Nat :=
  (List.range 4).find? fun a => s.onTrack a && !s.on (V.srvHsw a)

/-- Shows the feed source in `SRV_STAT.FEED_SRC`. -/
def State.refreshFeed (s : State) : State :=
  let f := s.feedSource
  s.forAll (List.range 4) fun a t => t.putB (R.SRV_STAT_FEED_SRC a) (decide (f = some a))

/-- Enters a servo state and clears the runs that are judged within one state; a run of bad wedges goes on (R152). -/
def State.setSrv (s : State) (a st : Nat) : State :=
  ((s.put (R.SRV_STAT_STATE a) st).puts
    [(V.srvSetRun a, 0), (V.srvWrRun a, 0), (V.srvWrSet a, 0), (V.srvGoodRun a, 0)]).refreshFeed

/-- The write gate of actuator `b` is open, or its sequencer has turned WW on (R156, R160). -/
def State.gateOpen (s : State) (b : Nat) : Bool := s.on (R.SPT_STAT_WG b) || bitOf (s.get (R.SEQ_STAT_GATES b)) 0

/-- The mate's write gate makes this actuator's seeks, loads and unloads wait: `WR_IMAX` of the writing actuator is 0
(R156). -/
def State.mateHolds (s : State) (a : Nat) : Bool :=
  match s.mate a with
  | some b => s.gateOpen b && decide (s.get (R.SRV_MATE_WR_IMAX b) = 0)
  | none => false

/-- The servo of an actuator goes to a head and a track (R157): permission is withdrawn (R150), the head left has its heater off
(R112), the difference of the two heads' `HSKEW` shifts the prediction of the next address mark, the new head's burst mean starts
afresh, SETTLE within one track, SEEK otherwise. A seek that the mate's write gate holds waits on the new head's present track
(R156). -/
def State.goTrack (s : State) (a l track : Nat) : State :=
  let at_ := s.get (R.SRV_POS_TRACK a)
  let near := decide (track ≤ at_ + 1 ∧ at_ ≤ track + 1)
  let wait := !near && s.mateHolds a
  let old := s.get (R.SRV_STAT_HEAD a)
  let d := s.get (R.SRV_HEADA_HSKEW a l) + 65536 - s.get (R.SRV_HEADA_HSKEW a old)
  let t := (s.withdrawMove a).when (decide (old ≠ l)) fun t =>
    { ((t.paPut a old 0x14 0).paPut a 0xF 0x004 l).puts [(V.srvHsw a, 1), (V.srvHswD a, d)] with amps := Tab.set [] t.amps a [] }
  let t := t.puts [(R.SPT_STAT_SEL_HEAD a, l), (R.SRV_STAT_HEAD a, l), (R.SRV_TGT_TRACK a, if wait then at_ else track),
    (V.srvSeekW a, 0), (V.srvSeekTry a, 0), (V.srvSeekFrom a, at_), (V.srvSeekPend a, b2n wait), (V.srvSeekNx a, track)]
  (t.setSrv a (if near || wait then srvSETTLE else srvSEEK)).idleHeater a

/-- An unload of actuator `a` begins (R152): the ladder stops (R88), writes end before it, a touchdown aborts (R113). -/
def State.toUnloading (s : State) (a : Nat) : State :=
  (((((((s.ladderRestart a).endWrite a abUnload false).tdAbortOn a abUnload).withdraw a wiState).put
    (R.SRV_STAT_LOCK a) 0).put (R.SRV_STAT_WP a) 0).puts [(V.srvHsw a, 0), (V.srvSeekPend a, 0), (V.srvUnlWait a, 0),
    (V.srvMaStep a, 0), (V.srvOfsRun a, 0)]).setSrv a srvUNLOADING

/-- An unload that the servo decides on; it waits while the mate's write gate holds unloads (R156). -/
def State.unloadNow (s : State) (a : Nat) : State := if s.mateHolds a then s.put (V.srvUnlWait a) 1 else s.toUnloading a

/-- The heads of actuator `a` reach the ramp (R152): heater 0 (R112), UNLOAD_DONE. -/
def State.toUnloaded (s : State) (a : Nat) : State :=
  ((((s.puts [(R.SRV_STAT_LOCK a, 0), (V.stmLoaded a, 0), (V.srvUnlWait a, 0)]).put (V.srvUnlReq a) 0).paPut a (s.get (R.SRV_STAT_HEAD a)) 0x14 0).evt
    (R.SRV_EVT_UNLOAD_DONE a)).setSrv a srvUNLOADED

/-- An unload request (R152, R156): any of states 3 to 7 goes to UNLOADING. In LOADING the heads return directly, unless
ACQUIRE would follow within 1 ms (`soon`): then the move off the ramp completes first. No load failure is counted
(R160). -/
def State.unloadRequest (s : State) (a : Nat) (soon : Bool) : State :=
  if srvACQUIRE ≤ s.srvSt a ∧ s.srvSt a ≤ srvHOLD then
    s.unloadNow a
  else if s.srvSt a = srvLOADING then
    if soon then s.put (V.srvUnlReq a) 1 else s.unloadNow a
  else s.put (V.srvLoadReq a) 0

/-! ## The reported power state -/

/-- An operation resumes (R272). -/
def State.resumeOp1 (s : State) (o : MOp) : State :=
  (s.count R.MMG_CNT_RESUME).post 0x0B 0x17 info noInst [o.opid, o.typ, o.step]

/-- Background operations that a deeper power state paused go on (R272, R436). -/
def State.unpause (s : State) : State :=
  { s.forAll (s.mops.filter fun o => o.paused && decide (o.typ ≠ 1 ∨ o.step ≠ 0)) fun o t => t.resumeOp1 o with
    mops := s.mops.map fun (m : MOp) => { m with paused := false } }

/-- Changes the reported power state: PS_CHG, source 0x1C4, code 0x10; with PS0 the background operations resume (R436,
R447, R493). -/
def State.setPs (s : State) (n : Nat) : State :=
  let o := s.get R.CVN_STAT_PS
  if o = n then s
  else ((((s.when (decide (n = 0)) fun t => t.unpause).put R.CVN_STAT_PS n).evt
      R.CVN_EVT_PS_CHG).edge 0x1C4).post 0x16 0x10 info noInst
    [o, n, s.get R.CVN_BUD_EFF_EFF_US, s.get R.CVN_BUD_PRES_PRES_US]

/-! ## What keeps an actuator from writing -/

/-- The write gate of an actuator is held: a failed port (R99), an inhibit (R109), the hold of a preamp fault (R111). -/
def State.gateHeld (s : State) (a : Nat) : Bool :=
  s.on (V.sptPortFail a) || s.on (R.SPT_CTL_WR_INH a) || s.on (V.sptHold a)

/-- No new write begins on an actuator: its gate is held, the power-fail wire is high (R109), or a touchdown runs on its declared pivot
mate (R113). -/
def State.wrHeld (s : State) (a : Nat) : Bool :=
  s.gateHeld a || s.on V.pfWire || (s.on R.TFH_TD_RES_BUSY && decide (s.mate a = some (s.actOf (s.get V.tdH))))

/-- A local head is write-disabled, until cleared (R111, R119) or for the operation in progress (R118). -/
def State.headNoWr (s : State) (a l : Nat) : Bool := bitOf (s.get (R.SPT_HDWP_WP a)) l || bitOf (s.get (V.tfhNoWr a)) l

/-! ## The status word of the last frame (R22) -/

/-- A bit of the status word of the last good frame from Strongman, laid out as `State.statusWord` lays it out. -/
def State.seen (s : State) (i : Nat) : Bool := bitOf (s.get V.linkStat) i

/-- The spindle grant as the controller die knows it (R232). -/
def State.grantSeen (s : State) : Bool := s.seen 20

/-- The grant of a load as the controller die knows it (R232). -/
def State.loadGrantSeen (s : State) (a : Nat) : Bool := s.seen (21 + a)

/-- A Strongman retract of an actuator as the controller die knows it (R160). -/
def State.retractSeen (s : State) (a : Nat) : Bool := s.seen (4 + a)

end Sys2Proof.Machine
end

