-- ==== Sys2Proof/Machine/Pocket.lean ====
section
/-!
DEFINITION. The lines of the system cache and the accesses that pass through it (R398 to R402).
-/

namespace Sys2Proof.Machine

/-! ## Pocket: lines (R398 to R400) -/

/-- Set of a line number (address / 128). -/
def pktSet (line : Nat) : Nat := (line % 32768) ^^^ (line / 32768)

/-- The line number a line of a set holds. -/
def lineNo (set tag : Nat) : Nat := tag * 32768 + (set ^^^ tag)

/-- A line of Pocket. -/
def State.pline (s : State) (set way : Nat) : Option Line := Tab.at none s.pkt (set * 16 + way)

/-- Shows the dirty lines (R405). -/
def State.showPkt (s : State) : State :=
  s.put R.PKT_DIRTY_DIRTY (s.pkt.filter fun e => match e.2 with | some l => l.dirty | none => false).length

/-- Replaces a line. -/
def State.setLine (s : State) (set way : Nat) (l : Option Line) : State :=
  { s with pkt := Tab.set none s.pkt (set * 16 + way) l }

/-- The way that holds a line number. -/
def State.wayOf (s : State) (line : Nat) : Option Nat :=
  (List.range 16).find? fun w => match s.pline (pktSet line) w with
    | some l => decide (lineNo (pktSet line) l.tag = line)
    | none => false

/-- First HBM address of the Subsystem Local Memory partition (R394). -/
def slmBase : Nat := 0x600000000

/-- 64-byte blocks rewritten whole are poisoned no more (R395). -/
def State.unpoison (s : State) (adr n : Nat) : State :=
  { s with poison := s.poison.filter fun b => decide (¬(adr ≤ b * 64 ∧ b * 64 + 64 ≤ adr + n)) }

/-- Writes bytes to HBM; with `PWR_EN[5]` low it holds nothing (R30). -/
def State.hbmWrite (s : State) (adr : Nat) (bs : List Byte) : State :=
  if bitOf (s.get R.CVN_STAT_PWR_EN) 5 then { s with hbm := putBytes s.hbm adr bs }.unpoison adr bs.length else s

/-- The 128 bytes of a line as HBM holds them. -/
def State.hbmLine (s : State) (line : Nat) : List Byte := getBytes s.hbm (line * 128) 128

/-- A dirty line is written back; it stays, clean. -/
def State.writeBack (s : State) (set way : Nat) : State :=
  match s.pline set way with
  | some l => if l.dirty then (s.hbmWrite (lineNo set l.tag * 128) l.data).setLine set way (some { l with dirty := false, data := [] }) else s
  | none => s

/-- The victim way of an allocation for a class, and the LFSR stepped (R400); none where the class has no way. -/
def State.victim (s : State) (c set : Nat) : State × Option Nat :=
  let ways := (List.range 16).filter fun w => bitOf (s.get (R.PKT_CLS_WAYS c)) w
  let t := s.put R.PKT_LFSR_LFSR (Config.lfsrNext (s.get R.PKT_LFSR_LFSR))
  match ways.find? fun w => (s.pline set w).isNone with
  | some w => (t, some w)
  | none => (t, ways[t.get R.PKT_LFSR_LFSR % 65536 % ways.length]?)

/-- Pocket allocates: it is enabled and no disable clean runs (R402). -/
def State.pktAlloc (s : State) (c : Nat) : Bool :=
  s.on R.PKT_CTL_EN && !s.on R.PKT_STAT_BUSY && !s.on (R.PKT_CLS_NOALLOC c) && s.on (R.PKT_CLS_WAYS c)

/-- HBM leaves self-refresh (R397). -/
def State.srefOff (s : State) : State := s.puts [(R.HBM_STAT_SREF 0, 0), (R.HBM_STAT_SREF 1, 0)]

/-- One access of a class to one line, which leaves self-refresh where it misses: `w` gives the offset in the line and the bytes of a write (R398 to R402). -/
def State.pktAccess (s : State) (c line : Nat) (w : Option (Nat × List Byte)) : State :=
  let set := pktSet line
  let merge (old : List Byte) (x : Nat × List Byte) : List Byte := old.take x.1 ++ x.2 ++ old.drop (x.1 + x.2.length)
  match s.wayOf line with
  | some way =>
    match w, s.pline set way with
    | some x, some l =>
      let d := merge (if l.dirty then l.data else s.hbmLine line) x
      if s.on R.PKT_STAT_BUSY then (s.hbmWrite (line * 128) d).setLine set way (some { l with dirty := false, data := [] })
      else s.setLine set way (some { l with dirty := true, data := d })
    | _, _ => s
  | none =>
    let s := s.when (s.on (R.HBM_STAT_SREF 0)) State.srefOff
    if !s.pktAlloc c then
      (match w with
       | some x => s.hbmWrite (line * 128 + x.1) x.2
       | none => s)
    else
      let v := s.victim c set
      match v.2 with
      | none => s
      | some way =>
        let t := v.1.writeBack set way
        match w with
        | some x => t.setLine set way (some ⟨line / 32768, true, merge (t.hbmLine line) x⟩)
        | none => t.setLine set way (some ⟨line / 32768, false, []⟩)

/-- The lines `[adr, adr + n)` touches, each with the offset in the line and the part of the data that falls in it. -/
def lineParts (adr : Nat) (bs : List Byte) : List (Nat × Nat × List Byte) :=
  let lo := adr / 128
  let hi := (adr + bs.length + 127) / 128
  (List.range (hi - lo)).map fun i =>
    let l := lo + i
    let a := Nat.max adr (l * 128)
    (l, a % 128, (bs.drop (a - adr)).take (Nat.min (adr + bs.length) ((l + 1) * 128) - a))

/-- A class writes bytes through Pocket. -/
def State.memPut (s : State) (c adr : Nat) (bs : List Byte) : State :=
  ((s.forAll (lineParts adr bs) fun p t => t.pktAccess c p.1 (some p.2)).unpoison adr bs.length).showPkt

/-- A class reads through Pocket: the allocations it makes. -/
def State.memTouch (s : State) (c adr n : Nat) : State :=
  (s.forAll ((List.range ((adr + n + 127) / 128 - adr / 128)).map (· + adr / 128)) fun l t => t.pktAccess c l none).showPkt

/-- Base and size in bytes of an HBM partition (R394). -/
def hbmPart (p : Nat) : Nat × Nat :=
  [(0, 0x300000000), (0x300000000, 0x100000000), (0x400000000, 0x200000000), (0x600000000, 0x180000000)].getD p
    (0x780000000, 0x80000000)

/-- The HBM address of an item of a partition; the place inside the partition is a free value (log entry 37). -/
def hbmAdr (p key : Nat) : Nat := (hbmPart p).1 + Config.hbmPlace p key % ((hbmPart p).2 / 4096) * 4096

/-- A requester's class reads an item of a partition (R32, R399). -/
def State.partRead (s : State) (c p key n : Nat) : State := s.memTouch c (hbmAdr p key) n

/-- A requester's class writes an item of a partition (R32, R399). -/
def State.partWrite (s : State) (c p key : Nat) (bs : List Byte) : State := s.memPut c (hbmAdr p key) bs

/-- Pages of the firmware partition that a class writes, from a page number on: the image a boot copies (class 14), the data of a
download (R32, R394, R399, R420, R484). -/
def State.fwPages (s : State) (c page : Nat) (bs : List Byte) : State :=
  s.forAll (List.range ((bs.length + 4095) / 4096)) fun i t => t.partWrite c 4 (page + i) ((bs.drop (4096 * i)).take 4096)

/-- Ringmaster reads a store image in the firmware partition to load it (class 3; R5, R32, R399); `k` tells the images apart. -/
def State.imageRead (s : State) (k n : Nat) : State := s.partRead 3 4 (0x100000 + k) n

/-- Patchwork moves the stored bytes of a stripe through the staging partition (class 5; R32, R343, R399). -/
def State.patchWrite (s : State) (no : Nat) (bs : List Byte) : State := s.partWrite 5 0 (2 ^ 100 + no) bs
/-- Patchwork reads the stored bytes of a stripe (class 5). -/
def State.patchRead (s : State) (no n : Nat) : State := s.partRead 5 0 (2 ^ 100 + no) n

/-- A map or index entry of 64 bytes; its bytes are free values. -/
def hbmEntry (p key ver : Nat) : List Byte := (List.range 64).map fun i => Config.hbmByte p key ver i

/-- A byte as a read through Pocket returns it. -/
def State.memByte (s : State) (adr : Nat) : Byte :=
  match s.wayOf (adr / 128) with
  | some w =>
    (match s.pline (pktSet (adr / 128)) w with
     | some l => if l.dirty then l.data.getD (adr % 128) 0 else Tab.at 0 s.hbm adr
     | none => Tab.at 0 s.hbm adr)
  | none => Tab.at 0 s.hbm adr

/-- Bytes read through Pocket. -/
def State.memGet (s : State) (adr n : Nat) : List Byte := (List.range n).map fun i => s.memByte (adr + i)

/-- A range holds poisoned bytes. -/
def State.memBad (s : State) (adr n : Nat) : Bool := s.poison.any fun b => decide (b * 64 < adr + n ∧ adr < b * 64 + 64)

end Sys2Proof.Machine
end

