-- ==== Sys2Proof/Machine/Wardrobe.lean ====
section
/-!
DEFINITION. The Wardrobe array and the operations of its banks (R407 to R412): what every writer of the flash shares.
-/

namespace Sys2Proof.Machine

/-! ## Wardrobe block records (R408) -/

/-- Status record of a block. -/
def State.blkRec (s : State) (g : Nat) : BlkRec := Tab.at ⟨0, false⟩ s.blks g

/-- Replaces it. -/
def State.setBlk (s : State) (g : Nat) (r : BlkRec) : State := { s with blks := Tab.set ⟨0, false⟩ s.blks g r }

/-! ## The array (R407, R408) -/

/-- Bytes in the four banks. -/
def flashSize : Nat := 268435456

/-- First block of the Tailor store's halves, and of its ageing record ring (R452). -/
def tlrBlk : Nat := 3328
/-- The ageing record ring. -/
def ageBlk : Nat := 3456

/-- Generation a half of the Tailor store holds; 0 for one never saved: saves go to the halves in turn (R451, R452). -/
def State.halfGen (s : State) (h : Nat) : Nat :=
  let g := s.get V.tlrGen
  if g % 2 = h then g else g - 1

/-- A byte of the array; the content of an erase-incomplete block is undefined, and the spec gives a half of the Tailor store
no byte layout (log entry 94). -/
def State.fbyte (s : State) (a : Nat) : Byte :=
  let g := a / 65536
  let r := s.blkRec g
  if r.bad then Config.eraseJunk a r.erases
  else if tlrBlk ≤ g ∧ g < ageBlk ∧ s.on V.tlrCut ∧ (g - tlrBlk) / 64 = (s.get V.tlrGen + 1) % 2 then Config.eraseJunk a r.erases
  else if tlrBlk ≤ g ∧ g < ageBlk ∧ s.halfGen ((g - tlrBlk) / 64) ≠ 0 then Config.tlrByte (s.halfGen ((g - tlrBlk) / 64)) (a % 4194304)
  else Tab.at 0xFF s.flash a

/-- Bytes of the array. -/
def State.fbytes (s : State) (a n : Nat) : List Byte := (List.range n).map fun i => s.fbyte (a + i)

/-- A little-endian number in the array. -/
def State.fle (s : State) (a n : Nat) : Nat := leNat (s.fbytes a n)

/-- Byte address of a slot. -/
def slotAddr (k : Nat) : Nat := (k + 1) * 67108864

/-- Programs bytes: a program can only clear bits (R408). -/
def progBytes (m : List (Nat × Byte)) (a : Nat) : List Byte → List (Nat × Byte)
  | [] => m
  | b :: bs => progBytes (Tab.put natBefore (fun _ => 0xFF) m a (Tab.at 0xFF m a &&& b)) (a + 1) bs

/-- A program that has verified. -/
def State.progNow (s : State) (a : Nat) (bs : List Byte) : State :=
  { s with flash := progBytes s.flash a bs }

/-- A program cut short (R408): a bit to be cleared reads 0 or 1, a bit to be left at 1 reads 1. -/
def State.progCut (s : State) (a : Nat) (bs : List Byte) : State :=
  (s.progNow a (bs.zipIdx.map fun p => p.1 ||| Config.progJunk s.free (a + p.2))).drew

/-- An erase that has verified. -/
def State.eraseNow (s : State) (g : Nat) : State :=
  ({ s with flash := s.flash.filter fun e => decide (e.1 / 65536 ≠ g) }.setBlk g ⟨(s.blkRec g).erases + 1, false⟩).bump
    (V.wdbErased (g / 1024)) 1

/-- Code 0x11 of block 0x14, and the event and counter of the kind of operation (R409). -/
def State.flashFailed (s : State) (erase : Bool) (g : Nat) : State :=
  let t := if erase then (s.evt R.WDB_EVT_ERASE_FAIL).count R.WDB_CNT_ERASEFAIL
    else (s.evt R.WDB_EVT_PROG_FAIL).count R.WDB_CNT_PROGFAIL
  t.post 0x14 0x11 error noInst [g / 1024, g % 1024, if erase then 2 else 1, (s.blkRec g).erases]

/-! ## Operations of a bank (R409 to R412) -/

/-- Operations of a bank. -/
def State.bankOps (s : State) (b : Nat) : List FlashOp := Tab.at [] s.fops b

/-- Replaces them, and shows the first (R425). -/
def State.setOps (s : State) (b : Nat) (l : List FlashOp) : State :=
  let t := ({ s with fops := Tab.set [] s.fops b l }.setBit R.WDB_STAT_BUSY b (!l.isEmpty)).setBit R.WDB_STAT_SUSP b
    (l.any (·.susp))
  match l with
  | [] => t.puts [(R.WDB_BANK_OP b, 0), (R.WDB_BANK_SUSPENDED b, 0)]
  | o :: _ => t.puts [(R.WDB_BANK_OP b, if o.erase then 2 else 1), (R.WDB_BANK_SUSPENDED b, b2n o.susp),
      (R.WDB_BANK_BLOCK b, o.blk % 1024), (R.WDB_BANK_SUSP_CNT b, o.cnt)]

/-- Suspends the operation executing in a bank. -/
def State.suspendOp (s : State) (b : Nat) : State :=
  match s.bankOps b with
  | o :: l => if o.susp then s
      else (s.bump (V.wdbSusps b) 1).setOps b ({ o with susp := true, cnt := Nat.min 65535 (o.cnt + 1) } :: l)
  | [] => s

/-- Resumes the last suspended operation of a bank, unless the bank is held (R411). -/
def State.resumeOp (s : State) (b : Nat) : State :=
  if bitOf (s.get R.WDB_CTL_HOLD) b then s
  else match s.bankOps b with
    | o :: l => s.setOps b ({ o with susp := false } :: l)
    | [] => s

/-- Serves a read: bytes of a block under suspended erase, and of a page under suspended program, read 0xFF (R412). -/
def State.serveRead (s : State) (a n : Nat) : State :=
  let ops := s.bankOps (a / 67108864)
  let hit (x : Nat) : Bool := ops.any fun o => if o.erase then decide (x / 65536 = o.blk) else decide (x / 256 = o.addr / 256)
  let any := (List.range n).any fun i => hit (a + i)
  { (s.when any fun t => ((t.put R.WDB_STAT_SUSP_HIT 1).evt R.WDB_EVT_SUSP_HIT).count R.WDB_CNT_SUSPHIT) with
    fread := (List.range n).map fun i => if hit (a + i) then 0xFF else s.fbyte (a + i) }

/-- Starts a program. -/
def State.startProg (s : State) (a : Nat) (bs : List Byte) : State :=
  let b := a / 67108864
  (s.bump (V.wdbProgs b) 1).setOps b (⟨false, a / 65536, a, bs, false, 0⟩ :: s.bankOps b)

/-- Starts an erase: its block is erase-incomplete until it ends well (R408). -/
def State.startErase (s : State) (g : Nat) : State :=
  (s.setBlk g { s.blkRec g with bad := true }).setOps (g / 1024) (⟨true, g, g * 65536, [], false, 0⟩ :: s.bankOps (g / 1024))

/-- Requests waiting for a bank. -/
def State.bankWait (s : State) (b : Nat) : List FlashReq := Tab.at [] s.fwait b
/-- Replaces them. -/
def State.setWait (s : State) (b : Nat) (l : List FlashReq) : State := { s with fwait := Tab.set [] s.fwait b l }
/-- A request waits. -/
def State.waitFor (s : State) (b : Nat) (r : FlashReq) : State := s.setWait b (s.bankWait b ++ [r])

/-- A bank without an operation serves what waits for it, in order; a held bank starts nothing (R411). -/
def State.pump : Nat → Nat → State → State
  | 0, _, s => s
  | n + 1, b, s =>
    if !(s.bankOps b).isEmpty then s
    else match s.bankWait b with
      | [] => s
      | .read a k :: l => State.pump n b ((s.setWait b l).serveRead a k)
      | .prog a d :: l => if bitOf (s.get R.WDB_CTL_HOLD) b then s else (s.setWait b l).startProg a d
      | .erase g :: l => if bitOf (s.get R.WDB_CTL_HOLD) b then s else (s.setWait b l).startErase g

/-- After an operation has ended: the suspended one below resumes, or the bank serves what waits. -/
def State.bankNext (s : State) (b : Nat) : State := (s.resumeOp b).pump ((s.bankWait b).length + 1) b

/-- A block is under suspended erase. -/
def State.underErase (s : State) (g : Nat) : Bool := (s.bankOps (g / 1024)).any fun o => o.erase && o.susp && decide (o.blk = g)

/-- The operation executing in a bank may be suspended for a request now (R410). -/
def State.maySuspend (s : State) (ran : Nat) : Bool := s.on R.WDB_CTL_AUTO_SUSP && decide (s.get R.WDB_CFG_MIN_RUN_US ≤ ran)

/-- The flash die is supplied: `PWR_EN[0]` (R30). -/
def State.flashOn (s : State) : Bool := bitOf (s.get R.CVN_STAT_PWR_EN) 0

/-- A program request reaches its bank. -/
def State.reqProg (s : State) (a : Nat) (d : List Byte) (ran : Nat) : State :=
  let b := a / 67108864
  if s.underErase (a / 65536) then s.evt R.WDB_EVT_REFUSED
  else if bitOf (s.get R.WDB_CTL_HOLD) b then s.waitFor b (.prog a d)
  else match s.bankOps b with
    | [] => s.startProg a d
    | o :: _ => if o.erase && decide (o.blk ≠ a / 65536) && s.maySuspend ran then (s.suspendOp b).startProg a d
        else s.waitFor b (.prog a d)

/-- An erase request reaches its bank. -/
def State.reqErase (s : State) (g : Nat) : State :=
  if (s.bankOps (g / 1024)).isEmpty && !bitOf (s.get R.WDB_CTL_HOLD) (g / 1024) then s.startErase g
  else s.waitFor (g / 1024) (.erase g)

end Sys2Proof.Machine
end

