-- ==== Sys2Proof/Machine/Recorder.lean ====
section
/-!
DEFINITION. The event recorder (chapter "Playbill event recorder", R467 to R480): from descriptor to record, the buffer, the
ring in Wardrobe bank 3, clearing.
-/

namespace Sys2Proof.Machine

/-! ## What a reader receives (R475, R476) -/

/-- A sequence number is newer than another (R468). -/
def seqNewer (a b : Nat) : Bool :=
  decide (0 < (a + 4294967296 - b) % 4294967296 ∧ (a + 4294967296 - b) % 4294967296 < 2147483648)

/-- A record as its 64 bytes (R467). -/
def Rec.bytes (r : Rec) (open_ : Bool) : List Byte :=
  let fl := b2n r.repSat + 2 * b2n r.lost + 4 * b2n r.opsecSat + 8 * b2n r.pcycSat + 16 * b2n r.rcTime + 32 * b2n open_
  let b := leBytes 4 r.seq ++ leBytes 4 r.opsec ++ leBytes 4 r.pcyc ++ leBytes 1 r.desc.blk ++ leBytes 1 r.desc.code ++
    leBytes 1 r.desc.sev ++ leBytes 1 fl ++ leBytes 2 r.reps ++ leBytes 1 r.desc.inst ++ leBytes 1 r.lostCnt ++
    leBytes 4 r.lastOpsec ++ (List.range 36).map (Config.recData r.desc.blk r.desc.code r.desc.data)
  b ++ leBytes 4 (crc32c b)

/-- Of two good records with the same number, the one in the later slot counts (R475). -/
def laterRecs : List Rec → List Rec
  | [] => []
  | r :: l => if l.any fun x => decide (x.seq = r.seq) then laterRecs l else r :: laterRecs l

/-- Good records of the ring, oldest first, at or above the floor of the newest clear (R477). -/
def State.ringRecs (s : State) : List Rec :=
  let cur := s.get V.pbSlot
  let l := s.ring.filter (fun e => decide (cur ≤ e.1)) ++ s.ring.filter (fun e => decide (e.1 < cur))
  (laterRecs (l.filterMap (·.2))).filter fun r => !s.on V.pbFloorV || !seqNewer (s.get V.pbFloor) r.seq

/-- Every record a reader can receive, oldest first: ring, buffer, open record. -/
def State.records (s : State) : List Rec := s.ringRecs ++ s.pbuf ++ s.popen.toList

/-! ## The ring in bank 3 (R407, R473, R474) -/

/-- First block of the ring. -/
def ringBlk : Nat := 3072

/-- A block of the ring. -/
def inRing (g : Nat) : Bool := decide (ringBlk ≤ g ∧ g < ringBlk + 256)

/-- Byte address of a ring slot. -/
def slotByte (p : Nat) : Nat := 201326592 + 64 * p

/-- The front-end may program: `PWR_EN[0]` is high and bank 3 is not held. -/
def State.ringReady (s : State) : Bool := bitOf (s.get R.CVN_STAT_PWR_EN) 0 && !bitOf (s.get R.WDB_CTL_HOLD) 3

/-- An erase of a ring block is executing, suspended or waiting in bank 3. -/
def State.ringErasing (s : State) : Bool :=
  (s.bankOps 3).any (fun o => o.erase && inRing o.blk) || (s.bankWait 3).any fun r => match r with
    | .erase g => inRing g
    | _ => false

/-- A program of the ring is executing, suspended or waiting in bank 3. -/
def State.ringProging (s : State) : Bool :=
  (s.bankOps 3).any (fun o => !o.erase && inRing o.blk) || (s.bankWait 3).any fun r => match r with
    | .prog a _ => inRing (a / 65536)
    | _ => false

/-- Records of the buffer that the next page program takes. -/
def State.pageTake (s : State) : Nat := Nat.min (4 - s.get V.pbSlot % 4) s.pbuf.length

/-- What the front-end asks of bank 3 next: the erase of the block a record waits for, the next page of records, or the
background erase of a clear (R473, R474, R477). -/
def State.ringGo (s : State) : State :=
  if !s.ringReady then s
  else if !s.pbuf.isEmpty ∧ s.on V.pbErase then
    (if s.ringErasing then s else s.reqErase (ringBlk + s.get V.pbSlot / 1024))
  else if !s.pbuf.isEmpty ∧ !s.ringProging then
    s.reqProg (slotByte (s.get V.pbSlot)) ((s.pbuf.take s.pageTake).flatMap fun r => r.bytes false) 0
  else if s.pbuf.isEmpty ∧ s.on V.pbClr ∧ !s.ringErasing then s.reqErase (ringBlk + s.get V.pbClrBlk)
  else s

/-- The front-end goes on with the ring, and shows its state in its registers (R480). -/
def State.showPbl (s : State) : State :=
  let s := s.ringGo
  let rs := s.records
  let waits := bitOf (s.get R.WDB_CTL_HOLD) 3 || !bitOf (s.get R.CVN_STAT_PWR_EN) 0
  s.puts [(R.PBL_STAT_OPEN, b2n s.popen.isSome), (R.PBL_STAT_BUFD, s.pbuf.length), (R.PBL_STAT_CLEARING, b2n (s.on V.pbClr)),
    (R.PBL_STAT_FLASH_WAIT, b2n (waits && !s.pbuf.isEmpty)), (R.PBL_NEWEST_SEQ, (rs.getLast?.map (·.seq)).getD 0),
    (R.PBL_OLDEST_SEQ, (rs.head?.map (·.seq)).getD 0), (R.PBL_HELD_COUNT, s.ringRecs.length)]

/-! ## From descriptor to record (R470 to R473) -/

/-- The open record closes into the buffer; while the buffer is full the close is held (R471, R473). -/
def State.closeRec (s : State) : State :=
  match s.popen with
  | none => s
  | some r =>
    if 64 ≤ s.pbuf.length then s.put V.pbHeld 1
    else ({ s with pbuf := s.pbuf ++ [r], popen := none }.put V.pbHeld 0).showPbl

/-- A record opens for a descriptor; sources 0x1C0 and 0x1C1 fire (R472). -/
def State.openRec (s : State) (d : Desc) : State :=
  let n := s.get V.pbDrop
  let r : Rec :=
    { seq := s.get V.pbSeq, opsec := s.opsec, pcyc := s.get R.CVN_PCYC_CYCLES, desc := d, repSat := false, lost := decide (n ≠ 0),
      opsecSat := s.on R.CVN_STAT_OPSEC_SAT, pcycSat := s.on R.CVN_STAT_PCYC_SAT, rcTime := s.on V.cvnRc, reps := 1, lostCnt := n,
      lastOpsec := s.opsec }
  let t := { s with popen := some r }.puts [(V.pbSeq, s.get V.pbSeq + 1), (V.pbDrop, 0), (V.pbHeld, 0)]
  ((t.when (decide (warning ≤ d.sev)) fun u => u.edge 0x1C0).when (decide (error ≤ d.sev)) fun u => u.edge 0x1C1).showPbl

/-- A descriptor is dropped. -/
def State.dropDesc (s : State) : State :=
  ((s.puts [(V.pbDrop, Nat.min 255 (s.get V.pbDrop + 1)), (V.pbLostF, 1)]).count R.PBL_CNT_LOST).evt R.PBL_EVT_OVERFLOW

/-- The front-end accepts a descriptor: folds it, opens a record for it, or drops it. -/
def State.acceptDesc (s : State) (d : Desc) : State :=
  match s.popen with
  | none => s.openRec d
  | some r =>
    if r.desc = d ∧ s.get V.pbDrop = 0 ∧ !s.on V.pbHeld then
      if r.reps = 65535 then ({ s with popen := some { r with repSat := true } }).evt R.PBL_EVT_REP_SAT
      else { s with popen := some { r with reps := r.reps + 1, lastOpsec := s.opsec } }
    else if 64 ≤ s.pbuf.length then s.dropDesc
    else s.closeRec.openRec d

/-- EVENT_DESCRIPTOR: the oldest descriptor posted reaches the front-end. -/
def eventDescriptor (s : State) : State :=
  match s.inbox with
  | [] => s
  | d :: l => ({ s with inbox := l }).acceptDesc d

/-- RECORD_CLOSE_TIMER: `CLOSE_S` seconds after the open record opened. -/
def recordCloseTimer (s : State) : State := s.closeRec

/-! ## The end of a ring operation (R473 to R475) -/

/-- The ring's next slot moves on; entering a block calls for its erase. -/
def State.slotOn (s : State) (n : Nat) : State :=
  let p := s.get V.pbSlot + n
  (s.puts [(V.pbSlot, p % 262144)]).when (decide (p % 1024 = 0)) fun t =>
    (t.puts [(V.pbErase, 1), (V.pbTry, 0)]).when (decide (262144 ≤ p)) fun u => u.put V.pbWrapF 1

/-- The page of `n` records at the next slot is in the ring, and its records leave the buffer; a held close then takes place. -/
def State.ringTook (s : State) (n : Nat) : State :=
  let p := s.get V.pbSlot
  let t := { s with ring := (s.pbuf.take n).zipIdx.foldl (fun m (x : Rec × Nat) => Tab.set none m (p + x.2) (some x.1)) s.ring, pbuf := s.pbuf.drop n }
  let t := t.slotOn n
  t.when (t.on V.pbHeld) fun u => u.closeRec

/-- The page of `n` records at the next slot did not verify or was cut short: a slot holds its record where its bytes are
right, and has failed otherwise; the records stay in the buffer for the next free slots (R475). -/
def State.ringMissed (s : State) (n : Nat) : State :=
  let p := s.get V.pbSlot
  let good (x : Rec × Nat) : Bool := decide (s.fbytes (slotByte (p + x.2)) 64 = x.1.bytes false)
  let l := (s.pbuf.take n).zipIdx
  ({ s with ring := (l.filter good).foldl (fun m x => Tab.set none m (p + x.2) (some x.1)) s.ring,
            ringBad := s.ringBad ++ (l.filter fun x => !good x).map fun x => (p + x.2, x.1.seq) } : State).slotOn n

/-- The slots of a ring block hold nothing. -/
def State.emptyRingBlk (s : State) (b : Nat) : State :=
  { s with ring := s.ring.filter (fun e => decide (e.1 / 1024 ≠ b)), ringBad := s.ringBad.filter fun e => decide (e.1 / 1024 ≠ b) }

/-- A clear has done with its next block (R477). -/
def State.clearNext (s : State) (b : Nat) : State :=
  s.when (s.on V.pbClr && decide (s.get V.pbClrBlk = b)) fun t => t.puts [(V.pbClr, t.get V.pbClr - 1), (V.pbClrBlk, (b + 1) % 256)]

/-- A ring block has been erased: the erase its records or a clear wait for is done. -/
def State.ringErased (s : State) (b : Nat) : State :=
  ((s.emptyRingBlk b).clearNext b).when (s.on V.pbErase && decide (s.get V.pbSlot / 1024 = b)) fun t =>
    t.puts [(V.pbErase, 0), (V.pbTry, 0)]

/-- A ring block's erase failed: three attempts for the block the records wait for, which is then passed over for this pass;
a clear tries its block again. -/
def State.ringUnerased (s : State) (b : Nat) : State :=
  let t := s.emptyRingBlk b
  if t.on V.pbErase ∧ t.get V.pbSlot / 1024 = b then
    (if t.get V.pbTry = 2 then (t.clearNext b).slotOn 1024 else t.put V.pbTry (t.get V.pbTry + 1))
  else t

/-- The operation executing in bank 3, where it is one of the ring. -/
def State.ringTop (s : State) : Option FlashOp :=
  match s.bankOps 3 with
  | o :: _ => if inRing o.blk && !o.susp then some o else none
  | [] => none

/-- Records in the page program of an operation: those at the front of the buffer, at the next slot; none for a program that
is not the front-end's own. -/
def State.ringPage (s : State) (o : FlashOp) : Nat :=
  let n := o.data.length / 64
  if o.addr = slotByte (s.get V.pbSlot) ∧ o.data = (s.pbuf.take n).flatMap (fun r => r.bytes false) then n else 0

/-- The slots of the ring that a program not the front-end's own reaches hold a record only where its bytes still stand
(R475). -/
def State.ringSpoilt (s : State) (o : FlashOp) : State :=
  { s with ring := s.ring.filter fun e => match e.2 with
      | some r => decide (slotByte e.1 + 64 ≤ o.addr ∨ o.addr + o.data.length ≤ slotByte e.1) || decide (s.fbytes (slotByte e.1) 64 = r.bytes false)
      | none => true }

/-- The executing program of the ring ends; one that fails its verification is reported (R409). -/
def State.ringProgEnd (s : State) (o : FlashOp) (ok : Bool) : State :=
  let n := s.ringPage o
  let t := (if ok then s.progNow o.addr o.data else (s.progCut o.addr o.data).flashFailed false o.blk).setOps 3 (s.bankOps 3).tail
  let t := if n = 0 then t.ringSpoilt o else if ok then t.ringTook n else t.ringMissed n
  (t.bankNext 3).showPbl

/-- The executing erase of a ring block ends. -/
def State.ringEraseEnd (s : State) (o : FlashOp) (ok : Bool) : State :=
  let t := (if ok then s.eraseNow o.blk
    else (s.setBlk o.blk ⟨(s.blkRec o.blk).erases + 1, true⟩).flashFailed true o.blk).setOps 3 (s.bankOps 3).tail
  let t := if ok then t.ringErased (o.blk - ringBlk) else t.ringUnerased (o.blk - ringBlk)
  (t.bankNext 3).showPbl

/-- RING_PROGRAM_DONE: a page program is read back. -/
def ringProgramDone (ok : Bool) (s : State) : State :=
  match s.ringTop with
  | some o => if o.erase ∨ s.ringPage o = 0 then s else s.ringProgEnd o ok
  | none => s

/-- RING_BLOCK_ERASE_DONE: the erase of the block that records wait for. -/
def ringBlockEraseDone (ok : Bool) (s : State) : State :=
  match s.ringTop with
  | some o => if o.erase ∧ s.on V.pbErase ∧ o.blk = ringBlk + s.get V.pbSlot / 1024 then s.ringEraseEnd o ok else s
  | none => s

/-! ## Clearing (R477) -/

/-- Programs every buffered record, whole pages first; a block they enter is erased. -/
def State.drainBuf : Nat → State → State
  | 0, s => s
  | n + 1, s =>
    if s.pbuf.isEmpty then s
    else
      let b := s.get V.pbSlot / 1024
      let t := s.when (s.on V.pbErase) fun t => (t.eraseNow (ringBlk + b)).ringErased b
      let k := t.pageTake
      State.drainBuf n ((t.progNow (slotByte (t.get V.pbSlot)) ((t.pbuf.take k).flatMap fun r => r.bytes false)).ringTook k)

/-- The front-end takes its operations of bank 3 back, to do them again. -/
def State.ringRecall (s : State) : State :=
  let t := s.setOps 3 ((s.bankOps 3).filter fun o => !inRing o.blk)
  t.setWait 3 ((t.bankWait 3).filter fun r => match r with
    | .read _ _ => true
    | .prog a _ => !inRing (a / 65536)
    | .erase g => !inRing g)

/-- `PBL_CLEAR` from a mailbox whose owner has an identity; `ok` tells whether the next block's erase and the program of the
CLEARED record verified. -/
def State.pblClear (s : State) (mb id : Nat) (ok : Bool) : State × Nat :=
  if s.on V.pbClr then (s, 0x000F)
  else
    let t := (s.closeRec.drainBuf 32).ringRecall
    let gone := t.records
    let b := if t.on V.pbErase then t.get V.pbSlot / 1024 else (t.get V.pbSlot / 1024 + 1) % 256
    let g := ringBlk + b
    if !ok then
      ((((((t.setBlk g ⟨(t.blkRec g).erases + 1, true⟩).flashFailed true g).emptyRingBlk b).bankNext 3).showPbl), 0x0012)
    else
      let d : Desc := ⟨0x19, 0x10, info, noInst,
        [mb, id, (gone.head?.map (·.seq)).getD 0, (gone.getLast?.map (·.seq)).getD 0, gone.length]⟩
      let u := ((t.emptyRingBlk b).eraseNow g).put V.pbDrop 0
      let seq := u.get V.pbSeq
      let r : Rec :=
        { seq := seq, opsec := u.opsec, pcyc := u.get R.CVN_PCYC_CYCLES, desc := d, repSat := false, lost := false,
          opsecSat := u.on R.CVN_STAT_OPSEC_SAT, pcycSat := u.on R.CVN_STAT_PCYC_SAT, rcTime := u.on V.cvnRc, reps := 1, lostCnt := 0,
          lastOpsec := u.opsec }
      let u := u.progNow (slotByte (b * 1024)) (r.bytes false)
      let u := { u with ring := Tab.set none u.ring (b * 1024) (some r) }.puts
        [(V.pbSeq, seq + 1), (V.pbSlot, b * 1024 + 1), (V.pbErase, 0), (V.pbTry, 0), (V.pbFloorV, 1), (V.pbFloor, seq), (V.pbClr, 255),
         (V.pbClrBlk, (b + 1) % 256), (V.pbLostF, 0), (V.pbBadF, 0), (V.pbWrapF, 0)]
      ((((u.count R.PBL_CNT_CLEAR).evt R.PBL_EVT_CLEARED).bankNext 3).showPbl, 0)

/-- CLEAR_ERASE_DONE: the background erase of a ring block ends; one that fails is tried again. -/
def clearEraseDone (ok : Bool) (s : State) : State :=
  match s.ringTop with
  | some o => if o.erase ∧ s.on V.pbClr ∧ o.blk = ringBlk + s.get V.pbClrBlk then s.ringEraseEnd o ok else s
  | none => s

/-! ## Start scan and reading (R468, R475, R476) -/

/-- The front-end scans the ring at a start: the sequence resumes at one past the newest record, and failed slots are counted
and recorded (R468, R475). -/
def State.pblScan (s : State) : State :=
  let n := s.ringBad.length
  let s := s.put V.pbSeq (match s.records.getLast? with
    | some r => r.seq + 1
    | none => 0)
  (s.when (decide (n ≠ 0)) fun t =>
    (((t.countN R.PBL_CNT_SLOTBAD n).evt R.PBL_EVT_SLOT_BAD).put V.pbBadF 1).post 0x19 0x11 warning noInst
      [n, (s.ringBad.head?.map (·.2)).getD 0]).showPbl

/-- Records from a sequence number on; `none` when it is older than every record held (R476). -/
def State.pblFrom (s : State) (seq n : Nat) : Option (List Rec) :=
  match s.records.head? with
  | none => some []
  | some o => if seqNewer o.seq seq then none else some ((s.records.filter fun r => !seqNewer seq r.seq).take n)

/-- Flags word of `PBL_STATUS` (R476). -/
def State.pblFlags (s : State) : Nat :=
  b2n (s.on V.pbClr) + 2 * s.get V.pbLostF + 4 * s.get V.pbBadF + 8 * s.get V.pbWrapF

/-! ## Commands -/

/-- Meaning of EVENT_DESCRIPTOR (R470). -/
def execEventDescriptor (s : State) : Host.Outcome State Fault Refusal :=
  .next (eventDescriptor s)

/-- Meaning of RECORD_CLOSE_TIMER (R471). -/
def execRecordCloseTimer (s : State) : Host.Outcome State Fault Refusal :=
  .next (recordCloseTimer s)

/-- Meaning of RING_PROGRAM_DONE (R473). -/
def execRingProgramDone (ok : Bool) (s : State) : Host.Outcome State Fault Refusal :=
  .next (ringProgramDone ok s)

/-- Meaning of RING_BLOCK_ERASE_DONE (R474). -/
def execRingBlockEraseDone (ok : Bool) (s : State) : Host.Outcome State Fault Refusal :=
  .next (ringBlockEraseDone ok s)

/-- Meaning of CLEAR_ERASE_DONE (R477). -/
def execClearEraseDone (ok : Bool) (s : State) : Host.Outcome State Fault Refusal :=
  .next (clearEraseDone ok s)

end Sys2Proof.Machine
end

