-- ==== Sys2Proof/Machine/Stripe.lean ====
section
/-!
DEFINITION. The peer group and the stripes this drive coordinates: placement, acknowledgement, what is whole, degraded or
unavailable (R338, R341 to R345).
-/

namespace Sys2Proof.Machine

/-- Big-endian number made of bytes. -/
def beNat (l : List Byte) : Nat := l.foldl (fun n b => n * 256 + b.toNat) 0

/-! ## Group record and members (R338, R341) -/

/-- A field of the group record, little-endian. -/
def State.pgrp (s : State) (off n : Nat) : Nat := leNat (getBytes s.group off n)
/-- `K`. -/
def State.grpK (s : State) : Nat := s.pgrp 0x10 1
/-- `M`. -/
def State.grpM (s : State) : Nat := s.pgrp 0x11 1
/-- Largest fragment, bytes. -/
def State.fragMax (s : State) : Nat := 65536 * 2 ^ s.pgrp 0x13 1

/-- This drive's serial number. -/
def serial : List Byte := (List.range 20).map Config.serialByte

/-- A serial belongs to a member of the committed epoch. -/
def State.isMember (s : State) (x : List Byte) : Bool := s.members.any fun p => decide (p.serial = x)

/-- Inserts a member so that scores fall. -/
def insertRank (f : List Byte → Nat) (x : List Byte) : List (List Byte) → List (List Byte)
  | [] => [x]
  | y :: l => if f y < f x then x :: y :: l else y :: insertRank f x l

/-- Members in rank for a stripe: by the first 8 bytes of SHA-256(GID ‖ stripe number ‖ serial), descending (R342; the
stripe number is hashed as its 8 little-endian bytes, log entry 45). -/
def State.ranked (s : State) (no : Nat) : List (List Byte) :=
  let score (x : List Byte) : Nat :=
    beNat (((Config.sha256 ((getBytes s.group 0 16 ++ leBytes 8 no ++ x).map (·.toNat))).take 8).map (BitVec.ofNat 8))
  (s.members.map (·.serial)).foldl (fun l x => insertRank score x l) []

/-- The highest-ranking member that holds no fragment of a stripe. -/
def State.spareHolder (s : State) (x : Stripe) : Option (List Byte) :=
  (s.ranked x.no).find? fun m => !(x.frags.any fun f => decide (f.holder = m))

/-! ## Stripes (R342 to R345) -/

/-- F: the smallest multiple of 4 KiB not below data / K (R342). -/
def fragSize (len k : Nat) : Nat := if k = 0 then 0 else 4096 * ceilDiv len (k * 4096)

/-- Seals a stripe: fragment i goes to the member that ranks i-th; this drive keeps its own at once (R342). -/
def State.sealStripe (s : State) (x : Stripe) : Stripe :=
  { x with
    sealed := true
    f := fragSize x.len s.grpK
    epoch := s.get V.pwkEpoch
    frags := ((s.ranked x.no).take (s.grpK + s.grpM)).map fun m => ⟨m, b2n (decide (m = serial)), false, none⟩ }

/-- Every holder of a stripe has acknowledged. -/
def Stripe.acked (x : Stripe) : Bool := x.sealed && x.frags.all fun f => decide (f.st = 1)

/-- Fragments that can be read: their holders are members, and they pass their checks (R344). -/
def State.avail (s : State) (x : Stripe) : Nat :=
  (x.frags.filter fun f => decide (f.st = 1) && !f.bad && s.isMember f.holder).length

/-- A stripe whose data has left staging reads from its fragments; it is unavailable below `K` (R344). -/
def State.unavailable (s : State) (x : Stripe) : Bool := x.acked && decide (s.avail x < s.grpK)

/-- A stripe is degraded (R344). -/
def State.degraded (s : State) (x : Stripe) : Bool :=
  x.acked && decide (s.grpK ≤ s.avail x ∧ s.avail x < s.grpK + s.grpM)

/-- A stripe waits for rebuild: it has a fragment on a drive that is no member, and can be decoded (R345). -/
def State.rebuildable (s : State) (x : Stripe) : Bool :=
  s.degraded x && x.frags.any fun f => !s.isMember f.holder

/-- Shows degraded and unavailable stripes, and records those that became unavailable (R344, R348). -/
def State.showStripes (s : State) : State :=
  let d := (s.stripes.filter s.degraded).length
  let u := (s.stripes.filter s.unavailable).length
  let t := s.puts [(R.PWK_DEGR_DEGR, Nat.min d 0xFFFFFFFF), (R.PWK_UNAV_UNAV, Nat.min u 0xFFFFFFFF), (V.pwkUnav, u)]
  t.when (decide (s.get V.pwkUnav < u)) fun v => (v.evt R.PWK_EVT_UNAVAIL).post 0x07 0x13 error noInst [u, v.get V.pwkEpoch]

/-- Changes a stripe. -/
def State.updStripe (s : State) (no : Nat) (f : Stripe → Stripe) : State :=
  { s with stripes := s.stripes.map fun (x : Stripe) => if x.no = no then f x else x }

/-- Seals every pack stripe that is open (R342). -/
def State.sealPacks (s : State) : State :=
  if s.stripes.any fun x => !x.sealed then
    { s with stripes := s.stripes.map fun (x : Stripe) => if x.sealed then x else s.sealStripe x }.showStripes
  else s

/-- A change of the index may become durable: its value stands in no stripe, or in stripes whose holders have
acknowledged (R343). -/
def State.opCovered (s : State) (o : KvOp) : Bool :=
  match o.ent with
  | none => true
  | some e => match e.stripe with
    | none => true
    | some n => s.stripes.all fun x => x.acked || !(decide (x.no = n) || decide (x.nsid = o.nsid ∧ x.key = o.key ∧ n ≤ x.no))

/-- An entry's value stands in a stripe. -/
def KvEnt.inStripe (nsid key : Nat) (e : Option KvEnt) (x : Stripe) : Bool :=
  match e.bind (·.stripe) with
  | none => false
  | some n => decide (x.no = n) || (!x.pack && decide (x.nsid = nsid ∧ x.key = key ∧ n ≤ x.no))

/-- Stripes in which no value stands any more leave: the fragments of a deleted or replaced value are deleted (R347). -/
def State.gcStripes (s : State) : State :=
  { s with stripes := s.stripes.filter fun (x : Stripe) => !x.sealed ||
      s.kvDur.any (fun e => KvEnt.inStripe (e.1 / 2 ^ 128) (e.1 % 2 ^ 128) e.2 x) ||
      s.kvLog.any (fun o => KvEnt.inStripe o.nsid o.key o.ent x) }.showStripes

/-- Index changes of an actuator covered by a durable point become durable, and with a change the older ones of its key
(R331, R343). -/
def State.kvDurable (s : State) (a bound : Nat) : State :=
  let hit (o : KvOp) : Bool := decide (o.act = a ∧ o.seq < bound) && s.opCovered o
  let late (o : KvOp) : Bool := s.kvLog.any fun h => hit h && decide (h.nsid = o.nsid ∧ h.key = o.key ∧ o.seq < h.seq)
  { s with kvDur := (s.kvLog.filter hit).foldl (fun m (o : KvOp) => Tab.set none m (o.nsid * 2 ^ 128 + o.key) o.ent) s.kvDur,
           kvLog := s.kvLog.filter fun o => !hit o && !late o }.gcStripes.put (V.kvBound a) bound

end Sys2Proof.Machine
end

