-- ==== Sys2Proof/Machine/Layout.lean ====
section
/-!
DEFINITION. Where data lies: band layout (R56, R57, R60), the conventional region (R61, R252), placement of zones and extents
(R247, R251), the media operations that reach a block, and what a durable point writes into the media cache (R254).
-/

namespace Sys2Proof.Machine

/-! ## Layout of the zone-format commit -/

/-- Last data servo track of a global head in effect (R53). -/
def State.maxTrk (s : State) (h : Nat) : Nat := s.fmtLe (0x10 + h * 0x210) 4

/-- `FMT_CONV` in effect (R53). -/
def State.fmtConv (s : State) : Nat := s.fmtLe 8 4

/-- `FMT_PC` in effect (R53). -/
def State.fmtPc (s : State) : Nat := s.fmtLe 6 1

/-- Last track of a zone (R54). -/
def State.zoneEnd (s : State) (h z : Nat) : Nat :=
  match (s.zonesOf h).find? fun y => decide (z < y) with
  | some y => zeStart (s.zoneEnt h y) - 1
  | none => s.maxTrk h

/-- Data sectors per track, k, of a zone entry at a class (R47). -/
def State.kOf (s : State) (e dc : Nat) : Nat := sectorsPerTrack s.fmtW s.fmtC (zeRate0 e) dc - zeOcM e

/-- Data tracks of a band (R56). -/
def bandData (k : Nat) : Nat := if k = 0 then 0 else ceilDiv 8192 k

/-- Whole bands of `per` tracks laid in tracks `lo` to `hi` around a conventional region `[c0, c1)` (R57): how many lie
before the region, and how many from its end on. -/
def bandsAround (per lo hi c0 c1 : Nat) : Nat × Nat :=
  if per = 0 then (0, 0)
  else if c1 ≤ lo ∨ hi < c0 ∨ c1 ≤ c0 then ((hi + 1 - lo) / per, 0)
  else ((c0 - lo) / per, (hi + 1 - Nat.max c1 lo) / per)

/-- Bands of a zone of a head with `n` conventional tracks on the head: before and after the region (R57). -/
def State.zoneBands (s : State) (h z n : Nat) : Nat × Nat :=
  let e := s.zoneEnt h z
  bandsAround (bandData (s.kOf e (zeDcInit e)) + zeGuard e) (zeStart e) (s.zoneEnd h z) s.fmtConv
    (s.fmtConv + s.fmtPc * n)

/-- Bands of a head at DC0 or at its first classes (R59, R60). -/
def State.headBands (s : State) (h n : Nat) : Nat :=
  ((s.zonesOf h).map fun z => (s.zoneBands h z n).1 + (s.zoneBands h z n).2).foldl (· + ·) 0

/-- Bands of a head counted at DC0, for the sizing of the conventional region (R60). -/
def State.headBandsDc0 (s : State) (h n : Nat) : Nat :=
  ((s.zonesOf h).map fun z =>
    let e := s.zoneEnt h z
    let p := bandsAround (bandData (s.kOf e 0) + zeGuard e) (zeStart e) (s.zoneEnd h z) s.fmtConv
      (s.fmtConv + s.fmtPc * n)
    p.1 + p.2).foldl (· + ·) 0

/-- Heads of an actuator, globally numbered. -/
def State.headsOf (s : State) (a : Nat) : List Nat := (List.range s.nhpa).map fun l => s.ghead a l

/-- Spare bands of a head (R59). -/
def State.spareBands (s : State) (formatted : Nat) : Nat := ceilDiv (formatted * s.fmtLe 7 1) 1000

/-- The zone a servo track lies in. -/
def State.zoneAt (s : State) (h t : Nat) : Nat :=
  ((s.zonesOf h).filter fun z => decide (zeStart (s.zoneEnt h z) ≤ t)).getLast?.getD 0

/-- Of the first `n` conventional tracks of a head, those that lie in a zone (R60). -/
def State.convIn (s : State) (h z n : Nat) : Nat :=
  let upTo (t : Nat) : Nat := Nat.min n (ceilDiv (t - s.fmtConv) s.fmtPc)
  upTo (s.zoneEnd h z + 1) - upTo (zeStart (s.zoneEnt h z))

/-- User bytes of `n` conventional tracks of a head, each with the outer code of its own zone at DC0 (R60, R61). -/
def State.convBytes (s : State) (h n : Nat) : Nat :=
  ((s.zonesOf h).map fun z => s.convIn h z n * s.kOf (s.zoneEnt h z) 0 * 32768).foldl (· + ·) 0

/-- The conventional region of an actuator with `n` tracks per head holds at least 1.5 % of its addressable shingled
capacity at DC0 (R60). -/
def State.convEnough (s : State) (a n : Nat) : Bool :=
  let bands := ((s.headsOf a).map fun h =>
    let b := s.headBandsDc0 h n
    b - s.spareBands b).foldl (· + ·) 0
  let conv := ((s.headsOf a).map fun h => s.convBytes h n).foldl (· + ·) 0
  decide (15 * bands * 268435456 ≤ 1000 * conv)

/-- The smallest size in `[lo, hi]` for which a monotone condition holds, by halving. -/
def leastBy (p : Nat → Bool) : Nat → Nat → Nat → Nat
  | 0, _, hi => hi
  | n + 1, lo, hi =>
    if hi ≤ lo then hi
    else if p ((lo + hi) / 2) then leastBy p n lo ((lo + hi) / 2)
    else leastBy p n ((lo + hi) / 2 + 1) hi

/-- N of R60 for an actuator: conventional data tracks on each of its heads. -/
def State.convTracks (s : State) (a : Nat) : Nat := leastBy (s.convEnough a) 24 1 4194304

/-- Conventional data tracks laid out on each head of an actuator. -/
def State.convN (s : State) (a : Nat) : Nat := s.get (V.mmgDataHead a)

/-- The band of an index on a head as the commit laid it out (R57, R245). -/
def State.layBand (s : State) (h idx : Nat) : Band :=
  let n := s.convN (s.actOf h)
  let rec go (idx : Nat) : List Nat → Band
    | [] => ⟨.retired, 0, 0, 0, 0, false, 0, 0⟩
    | z :: zs =>
      let e := s.zoneEnt h z
      let per := bandData (s.kOf e (zeDcInit e)) + zeGuard e
      let b := s.zoneBands h z n
      if idx < b.1 then ⟨.free, z, zeDcInit e, zeStart e + per * idx, 0, false, 0, 0⟩
      else if idx < b.1 + b.2 then
        ⟨.free, z, zeDcInit e, Nat.max (s.fmtConv + s.fmtPc * n) (zeStart e) + per * (idx - b.1), 0, false, 0, 0⟩
      else go (idx - (b.1 + b.2)) zs
  go idx (s.zonesOf h)

/-- A storage namespace. -/
def State.ns (s : State) (n : Nat) : Option Ns := Tab.at none s.nss n

/-- A band by id (R245). -/
def State.band (s : State) (id : Nat) : Band :=
  match Tab.at none s.bands id with
  | some b => b
  | none => s.layBand (id / 1048576) (id % 1048576)

/-- Bands of a head at the commit (R245). -/
def State.bandCount (s : State) (h : Nat) : Nat := s.headBands h (s.convN (s.actOf h))

/-- The actuator a band lies on. -/
def State.bandAct (s : State) (id : Nat) : Nat := s.actOf (id / 1048576)

/-- Key of the recording zone a band lies in. -/
def State.areaKey (s : State) (id : Nat) : Nat := id / 1048576 * 64 + (s.band id).zone

/-- The class a demand has asked of the recording zone a band lies in, 0 for none (R263). -/
def State.areaClass (s : State) (id : Nat) : Nat := Tab.at 0 s.altered (s.areaKey id)

/-- A band as it becomes FREE: held when it stays below the class asked of its recording zone (R263, R266). -/
def State.freed (s : State) (id : Nat) : Band :=
  { s.band id with st := .free, done := 0, held := decide ((s.band id).dcls < s.areaClass id) }

/-- FREE bands of a head at a class, not held; none on a write-disabled head (R248, R261). -/
def State.freeBands (s : State) (h dc : Nat) : List Nat :=
  if bitOf (s.get (R.SPT_HDWP_WP (s.actOf h))) (s.localHead h) then []
  else ((List.range (s.bandCount h)).map fun i => h * 1048576 + i).filter fun id =>
    decide ((s.band id).st = .free) && !(s.band id).held && decide ((s.band id).dcls = dc)

/-- Free bands of a head at every class, the lowest class first. -/
def State.freeOn (s : State) (h : Nat) : List Nat := (List.range 6).flatMap fun dc => s.freeBands h dc

/-- Free bands of a head beyond its spare bands, which are never addressable (R59). -/
def State.addressable (s : State) (h : Nat) : Nat := (s.freeOn h).length - s.spareBands (s.bandCount h)

/-- Data tracks of an actuator as the commit laid them out, the system tracks apart (R56, R57, R274). -/
def State.layTracks (s : State) (a : Nat) : Nat :=
  ((s.headsOf a).map fun h => ((s.zonesOf h).map fun z =>
    let e := s.zoneEnt h z
    let b := s.zoneBands h z (s.convN a)
    (b.1 + b.2) * bandData (s.kOf e (zeDcInit e))).foldl (· + ·) 0).foldl (· + ·) 0 + s.convN a * s.nhpa - 16 * Nat.min 2 s.nhpa

/-! ## Placement -/

/-- Key of a logical block: namespace and LBA. -/
def lbaKey (nsid lba : Nat) : Nat := nsid * 18446744073709551616 + lba

/-- Key of a zone. -/
def zoneKey (nsid z : Nat) : Nat := nsid * 4294967296 + z

/-- Actuators of a placement mask, ascending (R247). -/
def maskActs (m : Nat) : List Nat := (List.range 4).filter fun a => bitOf m a

/-- The actuator of a zone or extent number (R247, R251). -/
def placeAct (mask i : Nat) : Nat :=
  let l := maskActs mask
  l.getD (if l.length = 0 then 0 else i % l.length) 0

/-- Zone states of the Zoned Namespace command set. -/
def zEmpty : Nat := 1
/-- Implicitly opened. -/
def zImp : Nat := 2
/-- Explicitly opened. -/
def zExp : Nat := 3
/-- Closed. -/
def zClosed : Nat := 4
/-- Read Only. -/
def zRo : Nat := 0xD
/-- Full. -/
def zFull : Nat := 0xE
/-- Offline. -/
def zOff : Nat := 0xF

/-- A zone that no namespace has laid out. -/
def noZone : Zone := ⟨zEmpty, 0, 0, false, false, false, none, 0, 0xFFFFFFFF, 0, 0, []⟩

/-- A zone. -/
def State.zone (s : State) (nsid z : Nat) : Zone :=
  (Tab.at none s.zones (zoneKey nsid z)).getD noZone

/-- Changes a zone. -/
def State.setZone (s : State) (nsid z : Nat) (x : Zone) : State :=
  { s with zones := Tab.set none s.zones (zoneKey nsid z) (some x) }

/-- The actuator a logical block lies on (R247, R251). The block of a Key Value namespace is a granule, numbered by its place
`LOC`: band × 2^16 + granule (R330, R331). -/
def State.lbaAct (s : State) (nsid lba : Nat) : Nat :=
  match s.ns nsid with
  | some n => if n.csi = 1 then s.bandAct (lba / 65536) else placeAct n.mask (if n.csi = 2 then lba / 262144 else lba / 256)
  | none => 0

/-- Band and block offset in it of a logical block (R248, R251, R330). The extents of a conventional namespace homed on an actuator
take its slots in turn from a free one on, each its own. -/
def State.lbaBand (s : State) (nsid lba : Nat) : Nat × Nat :=
  match s.ns nsid with
  | some n =>
    if n.csi = 2 then ((s.zone nsid (lba / 262144)).bands.getD (lba % 262144 / 65536) 0, lba % 65536)
    else if n.csi = 1 then (lba / 65536, lba % 65536)
    else
      let a := placeAct n.mask (lba / 256)
      let l := n.bands.filter fun b => decide (s.bandAct b = a)
      let slot := (lba / 256 / (maskActs n.mask).length + Config.extentShift nsid a) % (256 * l.length)
      (l.getD (slot / 256) 0, slot % 256 * 256 + lba % 256)
  | none => (0, 0)

/-- A namespace that holds data of protected values: fragments of stripes (R85, R339, R342). -/
def State.protNs (s : State) (nsid : Nat) : Bool :=
  match s.ns nsid with
  | some n => n.frag && decide (n.csi = 1)
  | none => false

/-- Key of a track on the media: global head and servo track. -/
def trkKey (h t : Nat) : Nat := h * 16777216 + t

/-- A track as it stands on the media. -/
def State.mtrack (s : State) (h t : Nat) : Option MTrack := Tab.at none s.media (trkKey h t)

/-- Generation of a track as last written, 0 for a track never written (R44). -/
def State.tgenOf (s : State) (h t : Nat) : Nat := ((s.mtrack h t).map (·.tgen)).getD 0

/-- A band drawn for the extents of a conventional namespace (R251). -/
def State.convBand (s : State) (id : Nat) : Bool := s.nss.any fun e => match e.2 with
  | some n => decide (n.csi = 0) && n.bands.contains id
  | none => false

/-! ## The conventional region (R252, log entry 71) -/

/-- Heads of an actuator that hold system tracks. -/
def State.sysHeads (s : State) : Nat := Nat.min 2 s.nhpa

/-- Tracks of the map checkpoint area of an actuator: 2 % of the region's tracks, rounded up. -/
def State.ckptTracks (s : State) (a : Nat) : Nat := ceilDiv (2 * (s.convN a * s.nhpa)) 100

/-- Tracks of the media cache of an actuator. -/
def State.cacheTracks (s : State) (a : Nat) : Nat := s.convN a * s.nhpa - 16 * s.sysHeads - s.ckptTracks a

/-- Local head and number on it of the track `r` of the region beyond the system tracks, counted across the heads. -/
def State.regionTrack (s : State) (r : Nat) : Nat × Nat :=
  let u := s.nhpa - s.sysHeads
  if r < 16 * u then (s.sysHeads + r % u, r / u) else ((r - 16 * u) % s.nhpa, 16 + (r - 16 * u) / s.nhpa)

/-- The media cache of an actuator: its circular log, oldest track first. -/
def State.clog (s : State) (a : Nat) : List CTrack := Tab.at [] s.mcache a

/-- Replaces it. -/
def State.setClog (s : State) (a : Nat) (l : List CTrack) : State := { s with mcache := Tab.set [] s.mcache a l }

/-- The write of a conventional track, whole: a media operation without its number (R49, R61, R252). `p` gives its local head and
its number on the head, `pos` its place in the cache's log. It is recorded at density class 0 in every zone, the class at which
R60 counts its capacity (DESIGN CHOICE, log entry 61). -/
def State.convJob (s : State) (a : Nat) (p : Nat × Nat) (pos : Nat) : Job :=
  let h := s.ghead a p.1
  let t := s.fmtConv + s.fmtPc * p.2
  let e := s.zoneEnt h (s.zoneAt h t)
  let k := Nat.max 1 (s.kOf e 0)
  { id := 0, kind := .durable, cmd := none, lhead := p.1, zone := s.zoneAt h t, track := t, dcls := 0, first := 0,
    count := k + zeOcM e, mPar := zeOcM e, nsid := 0, lba := pos, nlb := 0,
    wedge := if s.fmtW = 0 then 0 else t * s.fmtSkew % s.fmtW, bornMs := 0, limited := false, prot := false, k := k, kd := k,
    tgen := (s.tgenOf h t + 1) % 4294967296 }

/-- The write of the cache track at a place of the log. -/
def State.cacheJob (s : State) (a pos : Nat) : Job := s.convJob a (s.regionTrack (s.ckptTracks a + pos)) pos

/-! ## Media operations (R298) -/

/-- Data sectors per track of a band. -/
def State.bandK (s : State) (id : Nat) : Nat := Nat.max 1 (s.kOf (s.zoneEnt (id / 1048576) (s.band id).zone) (s.band id).dcls)

/-- Data track `t` of a band: a media operation without what it moves (R248). A read finds as many data sectors as the track
was closed with (R50); a write gives it the next generation (R44). -/
def State.bandJob (s : State) (kind : JobKind) (id t : Nat) : Job :=
  let b := s.band id
  let h := id / 1048576
  let e := s.zoneEnt h b.zone
  let k := s.bandK id
  let w := decide (kind = .write) || decide (kind = .durable)
  { id := 0, kind := kind, cmd := none, lhead := s.localHead h, zone := b.zone, track := b.first + t,
    dcls := b.dcls, first := 0, count := 1, mPar := zeOcM e, nsid := 0, lba := 0, nlb := 1,
    wedge := if s.fmtW = 0 then 0 else (b.first + t) * s.fmtSkew % s.fmtW, bornMs := 0, limited := false,
    prot := false, k := k,
    kd := if w then k else ((s.mtrack h (b.first + t)).map (·.kd)).getD k,
    tgen := if w then (s.tgenOf h (b.first + t) + 1) % 4294967296 else 0 }

/-- The data track that holds a logical block: a media operation without its command. -/
def State.trackJob (s : State) (kind : JobKind) (nsid lba : Nat) : Job :=
  let p := s.lbaBand nsid lba
  let k := s.bandK p.1
  { s.bandJob kind p.1 (p.2 / 8 / k) with first := p.2 / 8 % k, nsid := nsid, lba := lba, prot := s.protNs nsid }

/-- The logical block that an offset of a band holds; none where no namespace has one there (R248, R251, R331). -/
def State.bandBlock (s : State) (id off : Nat) : Option (Nat × Nat) :=
  match s.zones.findSome? fun e => e.2.bind fun z =>
    if z.bands.contains id then some (e.1 / 4294967296, e.1 % 4294967296 * 262144 + 65536 * z.bands.idxOf id + off) else none with
  | some p => some p
  | none => s.nss.findSome? fun e => e.2.bind fun n =>
    if !n.bands.contains id then none
    else if n.csi = 1 then some (e.1, id * 65536 + off)
    else ((List.range (n.nsze / 256)).find? fun x => decide (s.lbaBand e.1 (256 * x) = (id, off / 256 * 256))).map fun x =>
      (e.1, 256 * x + off % 256)

/-- The place in the media cache of the long sector that holds a block of a conventional namespace: the newest track
written that holds it, and where in it (R252). -/
def State.cachePlace (s : State) (nsid lba : Nat) : Option (CTrack × Nat) :=
  let x := (nsid, lba - lba % 8)
  if ((s.ns nsid).map (·.csi)) = some 0 then
    (((s.clog (s.lbaAct nsid lba)).filter fun t => decide (t.st ≠ 0) && t.secs.contains x).getLast?).map fun t => (t, t.secs.idxOf x)
  else none

/-- The read of a long sector in the media cache. -/
def State.cacheRead (s : State) (kind : JobKind) (nsid lba : Nat) (p : CTrack × Nat) : Job :=
  let a := s.lbaAct nsid lba
  let j := s.cacheJob a p.1.pos
  { j with kind := kind, first := p.2, count := 1, nsid := nsid, lba := lba, nlb := 1,
           kd := ((s.mtrack (s.ghead a j.lhead) j.track).map (·.kd)).getD j.k, prot := s.protNs nsid }

/-- Splits a run of logical blocks into media operations, one per actuator and track (R298). -/
def State.runs (s : State) (kind : JobKind) (cmd : Option Nat) (limited : Bool) :
    Nat → Nat → Nat → Nat → List (Nat × Job)
  | 0, _, _, _ => []
  | fuel + 1, nsid, lba, nlb =>
    if nlb = 0 then []
    else match s.cachePlace nsid lba with
    | some p =>
      let n := Nat.max 1 (Nat.min nlb (8 - lba % 8))
      (s.lbaAct nsid lba, { s.cacheRead kind nsid lba p with cmd := cmd, limited := limited, nlb := n }) ::
        State.runs s kind cmd limited fuel nsid (lba + n) (nlb - n)
    | none =>
      let j := s.trackJob kind nsid lba
      let p := s.lbaBand nsid lba
      let k := s.bandK p.1
      let unit := match s.ns nsid with
        | some n => if n.csi = 0 then 256 - lba % 256 else 65536 - p.2
        | none => 1
      let n := Nat.max 1 (Nat.min nlb (Nat.min unit (8 * k - p.2 % (8 * k))))
      (s.lbaAct nsid lba,
        { j with cmd := cmd, limited := limited, nlb := n, count := (p.2 % 8 + n + 7) / 8 }) ::
        State.runs s kind cmd limited fuel nsid (lba + n) (nlb - n)

/-! ## Staged data -/

/-- A logical block as a read returns it: the newest write, then durable data, then zeros (R253, R290). -/
def State.block (s : State) (nsid lba : Nat) : Block :=
  match Tab.at none s.vol (lbaKey nsid lba) with
  | some v => v.blk
  | none => Tab.at 0 s.dur (lbaKey nsid lba)

/-- The blocks of a range. -/
def State.blocks (s : State) (nsid lba n : Nat) : List Block :=
  (List.range n).map fun i => s.block nsid (lba + i)

/-- A block stands in the staging partition. -/
def State.staged (s : State) (nsid lba : Nat) : Bool :=
  match Tab.at none s.vol (lbaKey nsid lba) with
  | some v => !v.landed
  | none => false

/-- Blocks in the staging partition. -/
def State.stagedCount (s : State) : Nat :=
  (s.vol.filter fun e => match e.2 with | some v => !v.landed | none => false).length

/-- A zone state counts as active (R249). -/
def zActive (st : Nat) : Bool := decide (st = zImp ∨ st = zExp ∨ st = zClosed)

/-- Blocks of the staging partition that are taken: those staged, and of the 24 MiB that each active zone reserves what it does not
use (R249). -/
def State.stagingTaken (s : State) : Nat :=
  s.stagedCount + (s.zones.map fun e => match e.2 with
    | some z =>
      let lo := lbaKey (e.1 / 4294967296) (e.1 % 4294967296 * 262144)
      if zActive z.st then 6144 - (s.vol.filter fun v => decide (lo ≤ v.1 ∧ v.1 < lo + 262144) && (match v.2 with
        | some x => !x.landed
        | none => false)).length
      else 0
    | none => 0).foldl (· + ·) 0

/-- An actuator's queue, or the operation it runs, holds a track write of a block. -/
def State.queuedWrite (s : State) (a nsid lba : Nat) : Bool :=
  (s.jugq a ++ (s.jobOf a).toList).any fun j =>
    decide (j.kind = .write ∧ j.nsid = nsid ∧ j.lba ≤ lba ∧ lba < j.lba + j.nlb)

/-- The long sector a key's block lies in: namespace and first block. -/
def secOf (key : Nat) : Nat × Nat :=
  (key / 18446744073709551616, key % 18446744073709551616 - key % 8)

/-- A staged block, not under a landed tail, that a durable point of its actuator still has to write: no cache track
planned after its write holds it. -/
def State.needsLanding (s : State) (a : Nat) (e : Nat × Option Vol) : Bool :=
  match e.2 with
  | some v => !v.landed && !v.tail && decide (s.lbaAct (e.1 / 18446744073709551616) (e.1 % 18446744073709551616) = a) &&
      !s.queuedWrite a (e.1 / 18446744073709551616) (e.1 % 18446744073709551616) &&
      !((s.clog a).any fun t => t.secs.contains (secOf e.1) && decide (v.seq < t.bound))
  | none => false

/-- Two keys lie in the same data track of a band. -/
def State.sameTrack (s : State) (x y : Nat) : Bool :=
  let f (k : Nat) : Nat × Nat :=
    let j := s.trackJob .read (k / 18446744073709551616) (k % 18446744073709551616)
    (j.lhead, j.track)
  decide (x / 18446744073709551616 = y / 18446744073709551616) && decide (f x = f y)

/-- The long sectors a durable point of an actuator writes into the media cache: those with covered data of conventional
namespaces, and the whole tail of each OPEN band with new data (R254). -/
def State.toLand (s : State) (a : Nat) : List (Nat × Nat) :=
  let new := s.vol.filter (s.needsLanding a)
  let zoned (k : Nat) : Bool := decide ((s.ns (k / 18446744073709551616)).map (·.csi) ≠ some 0)
  let tail := s.vol.filter fun e => match e.2 with
    | some v => !v.landed && zoned e.1 && new.any fun x => s.sameTrack x.1 e.1
    | none => false
  ((new ++ tail).map fun e => secOf e.1).eraseDups

/-- Plans cache tracks for long sectors, each the next track of the circular log, as long as the log has a free one, and
queues their writes. A track on a head that may not write is passed over (R111). -/
def State.planCache (a : Nat) : Nat → List (Nat × Nat) → State → State
  | 0, _, s => s
  | n + 1, l, s =>
    if l = [] ∨ s.cacheTracks a ≤ (s.clog a).length then s
    else
      let pos := s.get (V.mcHead a)
      let j := s.cacheJob a pos
      if s.headNoWr a j.lhead then
        State.planCache a n l ((s.setClog a (s.clog a ++ [⟨pos, s.wseq, 2, []⟩])).put (V.mcHead a) ((pos + 1) % s.cacheTracks a))
      else State.planCache a n (l.drop j.k)
        (((s.setClog a (s.clog a ++ [⟨pos, s.wseq, 0, l.take j.k⟩])).put (V.mcHead a) ((pos + 1) % s.cacheTracks a)).addJob a j)

/-- Steps 2 and 3 of a durable point are queued (R254, R298). -/
def State.planPoint (s : State) (a : Nat) : State := s.planCache a (s.cacheTracks a) (s.toLand a)

/-- Steps 1 to 3 of a durable point have ended: every covered block stands in a track, or in a cache track written since
(R254). -/
def State.pointReady (s : State) (a bound : Nat) : Bool :=
  s.vol.all fun e => match e.2 with
    | some v => v.landed || v.tail || !decide (v.seq < bound) ||
        !decide (s.lbaAct (e.1 / 18446744073709551616) (e.1 % 18446744073709551616) = a) ||
        (s.clog a).any fun t => decide (t.st ≠ 0) && t.secs.contains (secOf e.1) && decide (v.seq < t.bound)
    | none => true

end Sys2Proof.Machine
end

