-- ==== Sys2Proof/Machine/Objects.lean ====
section
/-!
DEFINITION. What enters the staging partition (R32, R253): blocks, the values of Key Value namespaces with their places on
the media (R327, R330, R331), and this drive's fragments of stripes (R342).
-/

namespace Sys2Proof.Machine

/-! ## Bands -/

/-- Changes a band; its actuator's free pool and held count follow (R246, R266, R276). A band that is opened takes the next
band write sequence (R44, log entry 56). -/
def State.setBand (s : State) (id : Nat) (b : Band) : State :=
  let o := s.band id
  let a := s.bandAct id
  let b := if b.st = .open_ ∧ o.st ≠ .open_ then { b with bseq := (o.bseq + 1) % 4294967296 } else b
  let inPool (x : Band) : Bool := decide (x.st = .free) && !x.held
  let t := { s with bands := Tab.set none s.bands id (some b) }
  let t := t.put (R.MMG_POOL_FREE a) (s.get (R.MMG_POOL_FREE a) + b2n (inPool b) - b2n (inPool o))
  t.put (R.MMG_HELD_HELD a) (s.get (R.MMG_HELD_HELD a) + b2n b.held - b2n o.held)

/-! ## Staging -/

/-- The bytes of a logical block as stored: ciphertext under its LBA for an encrypted namespace; the granules
of a value are ciphertext already (R45, R327). -/
def State.storedBytes (s : State) (nsid lba : Nat) (b : Block) : List Byte :=
  match s.ns nsid with
  | some n => if n.enc ∧ n.csi ≠ 1 then Config.xts n.key lba (leBytes 4096 b.toNat) else leBytes 4096 b.toNat
  | none => leBytes 4096 b.toNat

/-- The logical block that stored bytes hold (R327). -/
def State.openBytes (s : State) (nsid lba : Nat) (bs : List Byte) : Block :=
  let plain := match s.ns nsid with
    | some n => if n.enc ∧ n.csi ≠ 1 then Config.xtsOpen n.key lba bs else bs
    | none => bs
  BitVec.ofNat 32768 (leNat plain)

/-- The class that moves data of a namespace: Cloak's for an encrypted one, else the one given (R32, R399). -/
def State.dataClass (s : State) (nsid c : Nat) : Nat := if ((s.ns nsid).map (·.enc)).getD false then 6 else c

/-- Stages one block of a write of the number given, through Pocket; it is no longer marked unrecoverable (R32, R253,
R395). -/
def State.stageAs (s : State) (seq nsid lba : Nat) (b : Block) : State :=
  { s with vol := Tab.set none s.vol (lbaKey nsid lba) (some ⟨b, seq, false, false, false⟩),
           lost := s.lost.filter fun k => decide (k ≠ lbaKey nsid lba) }.partWrite (s.dataClass nsid 0) 0 (lbaKey nsid lba)
    (s.storedBytes nsid lba b)

/-- Stages one block of the next write. -/
def State.stage (s : State) (nsid lba : Nat) (b : Block) : State := s.stageAs s.wseq nsid lba b

/-- Stages a run of blocks as one write (R257). -/
def State.stageAll (s : State) (nsid lba : Nat) : List Block → State
  | [] => { s with wseq := s.wseq + 1 }
  | b :: bs => (s.stage nsid lba b).stageAll nsid (lba + 1) bs

/-- The data track of a band that holds a block, from its first block on: a write of `kd` data sectors and `n` blocks (R49,
R50). -/
def State.trackWrite (s : State) (nsid lba kd n : Nat) : Job :=
  let j := s.trackJob .write nsid lba
  { j with lba := lba - (s.lbaBand nsid lba).2 % (8 * j.k), nlb := n, first := 0, count := kd + j.mPar, kd := kd }

/-- Queues the next track write of a zoned or value band when a whole track of it is staged (R298); the band's last data track is
written whole too, its positions beyond the band's data as fill (R49, R56). Conventional writes go to the media cache (R252). -/
def State.trackDue (s : State) (nsid lba : Nat) : State :=
  let j := s.trackJob .write nsid lba
  let p := s.lbaBand nsid lba
  let start := lba - p.2 % (8 * j.k)
  let n := Nat.min (8 * j.k) (65536 - (p.2 - p.2 % (8 * j.k)))
  if ((s.ns nsid).map (·.csi)) ≠ some 0 ∧ !s.queuedWrite (s.lbaAct nsid lba) nsid start ∧
      ((List.range n).all fun i => s.staged nsid (start + i)) = true then
    s.addJob (s.lbaAct nsid lba) (s.trackWrite nsid lba j.k n)
  else s

/-- Queues the track writes that staged blocks of a run complete (R298). -/
def State.dueRun (s : State) (nsid lba n : Nat) : State :=
  s.forAll (s.runs .write none false (n + 1) nsid lba n) fun p u => u.trackDue p.2.nsid p.2.lba

/-! ## The index (R330 to R333) -/

/-- The number of index entries the partition holds. -/
def idxMax : Nat := 134217728

/-- The entry of a key as commands see it: the newest change, else the durable one; an entry that fails its CRC is absent
(R330). -/
def State.kvEnt (s : State) (nsid key : Nat) : Option KvEnt :=
  let e := match (s.kvLog.filter fun o => decide (o.nsid = nsid ∧ o.key = key)).getLast? with
    | some o => o.ent
    | none => Tab.at none s.kvDur (nsid * 2 ^ 128 + key)
  e.filter fun x => !x.bad

/-- Keys that hold an entry in a namespace, ascending. -/
def State.kvKeys (s : State) (nsid : Nat) : List Nat :=
  let all := (s.kvDur.filterMap fun e => if e.1 / 2 ^ 128 = nsid then some (e.1 % 2 ^ 128) else none) ++
    (s.kvLog.filterMap fun o => if o.nsid = nsid then some o.key else none)
  (all.filter fun k => (s.kvEnt nsid k).isSome).foldl
    (fun l k => if l.contains k then l else l.takeWhile (fun x => decide (x < k)) ++ k :: l.dropWhile fun x => decide (x < k)) []

/-- Entries in use over all Key Value namespaces. -/
def State.idxCount (s : State) : Nat :=
  s.nss.foldl (fun n e => match e.2 with
    | some x => if x.csi = 1 then n + (s.kvKeys e.1).length else n
    | none => n) 0

/-- Shows the index in use; passing 90 % is an event (R348, R350). `old` is what was in use before. -/
def State.showIdx (s : State) (old : Nat) : State :=
  let n := s.idxCount
  (s.put R.TRU_STAT_IDX_PCT (n * 100 / idxMax)).when (decide (10 * old ≤ 9 * idxMax ∧ 9 * idxMax < 10 * n)) fun t =>
    (t.evt R.TRU_EVT_IDX_90).post 0x06 0x13 warning noInst [n]

/-- Actuator of a key's value (R331). -/
def State.kvAct (n : Ns) (nsid key : Nat) : Nat :=
  let l := maskActs n.mask
  l.getD (if l.length = 0 then 0 else Config.kvPlace nsid key % l.length) 0

/-- The 64 bytes of an entry in the KV index partition (R330); a committed object's `VLEN` is that of its commit value. A deleted entry
is zeros, not valid (log entry 27). -/
def kvEntBytes (nsid key : Nat) (e : Option KvEnt) : List Byte :=
  match e with
  | none => List.replicate 64 0
  | some x =>
    let flags := 1 + 2 * b2n x.comp + 4 * b2n x.prot + 8 * b2n x.pack + 16 * b2n x.part + 32 * b2n x.comm
    let b := (leBytes 16 key).reverse ++ leBytes 4 nsid ++ leBytes 4 (if x.comm then 2 else x.val.length) ++ leBytes 4 x.slen ++
      leBytes 4 x.gen ++ leBytes 8 (if x.prot then x.stripe.getD 0 else x.loc.getD 0) ++ leBytes 4 x.sofs ++ leBytes 2 flags ++
      leBytes 2 x.nparts ++ List.replicate 12 0
    b ++ leBytes 4 (crc32c b)

/-- Logs a change of an entry on an actuator, as part of the write of the number given; the index in HBM is written (R32, R330,
R331). -/
def State.kvSetOn (s : State) (seq a nsid key : Nat) (e : Option KvEnt) : State :=
  let old := s.idxCount
  (({ s with kvLog := s.kvLog ++ [(⟨nsid, key, e, seq, a⟩ : KvOp)] }).showIdx old).partWrite 13 2
    (nsid * 2 ^ 128 + key) (kvEntBytes nsid key e)

/-- Logs a change of an entry on the actuator of its key. -/
def State.kvSetAs (s : State) (seq : Nat) (n : Ns) (nsid key : Nat) (e : Option KvEnt) : State :=
  s.kvSetOn seq (State.kvAct n nsid key) nsid key e

/-- Logs a change of an entry (R331). -/
def State.kvSet (s : State) (n : Ns) (nsid key : Nat) (e : Option KvEnt) : State :=
  { s with wseq := s.wseq + 1 }.kvSetAs s.wseq n nsid key e

/-! ## Values (R327, R331, R332) -/

/-- A key of 1 to 16 bytes, padded with zeros (R294). -/
def padKey (k : List Byte) : List Byte := (k ++ List.replicate 16 0).take 16

/-- A key as a number: all 16 bytes, padded with zeros (R294); numbers order as unsigned bytes do (R332). -/
def keyNum (k : List Byte) : Nat := beNat ((k ++ List.replicate 16 0).take 16)

/-- What is stored of a value: compressed where that saves at least one granule (R332). -/
def kvPayload (n : Ns) (v : List Byte) : List Byte :=
  let p := (Config.zstdPack 1 (v.map (·.toNat))).map (BitVec.ofNat 8)
  if n.comp ∧ 8192 ≤ v.length ∧ ceilDiv p.length 4096 < ceilDiv v.length 4096 then p else v

/-- Length on media of a value (R332). -/
def mediaLen (n : Ns) (v : List Byte) : Nat := (kvPayload n v).length

/-- The granules of a payload as stored, under the namespace's key (R327); the last one is filled with zeros. -/
def kvStored (n : Ns) (key v : List Byte) : List Byte :=
  if n.enc then kvCipher n.key (padKey key) v else v ++ List.replicate (4096 * ceilDiv v.length 4096 - v.length) 0

/-- A granule as a block. -/
def granule (bs : List Byte) (i : Nat) : Block := BitVec.ofNat 32768 (leNat ((bs.drop (4096 * i)).take 4096))

/-- The place the next value of `g` granules of a namespace takes on an actuator: behind the last one in the band its log
fills, or at the start of a new band of the free pool beyond the spare bands; none when there is no band (R59, R331, log
entry 72). -/
def State.kvAlloc (s : State) (nsid a g : Nat) : Option (State × Nat) :=
  match s.ns nsid with
  | none => none
  | some n =>
    let put (t : State) (b o : Nat) (bs : List Nat) : State × Nat :=
      ({ t with nss := Tab.set none t.nss nsid (some { n with bands := bs, klog := (a, b, o + g) :: n.klog.filter fun e => decide (e.2.1 ≠ b) }) },
        b * 65536 + o)
    let free := (s.headsOf a).flatMap fun h => (s.freeOn h).take (s.addressable h)
    match n.klog.find? fun e => decide (e.1 = a ∧ e.2.2 + g ≤ 65536) with
    | some e => some (put s e.2.1 e.2.2 n.bands)
    | none => (free[s.freeVal % free.length]?).map fun b => put (s.drew.setBand b { s.band b with st := .assigned, done := 0 }) b 0 (n.bands ++ [b])

/-- Stages the granules of stored bytes at a place, as part of the write of the number given; whole tracks are queued. -/
def State.stageGranules (s : State) (seq nsid loc : Nat) (bs : List Byte) : State :=
  (s.forAll (List.range (ceilDiv bs.length 4096)) fun i t => t.stageAs seq nsid (loc + i) (granule bs i)).dueRun nsid loc
    (ceilDiv bs.length 4096)

/-- Stages stored bytes where the log of a namespace has room, with their place; no bytes need none, and where no band is
left they stay without one. -/
def State.kvPlaceValue (s : State) (seq nsid a : Nat) (bs : List Byte) : State × Option Nat :=
  if bs = [] then (s, none)
  else match s.kvAlloc nsid a (ceilDiv bs.length 4096) with
    | some x => (x.1.stageGranules seq nsid x.2 bs, some x.2)
    | none => (s, none)

/-! ## This drive's fragments (R342) -/

/-- A data fragment, or a parity fragment of the Cauchy code, of a stripe's data (R325, R342). -/
def fragData (k m f : Nat) (data : List Byte) (i : Nat) : List Byte :=
  let d := data ++ List.replicate (k * f - data.length) 0
  if i < k then (d.drop (i * f)).take f
  else (List.range f).map fun c => BitVec.ofNat 8 ((List.range k).foldl
    (fun x q => x ^^^ gfMul (Config.cauchy k m (i - k) q % 256) (d.getD (q * f + c) 0).toNat) 0)

/-- The header of a fragment and the fragment (R342); the order of the rule with no gaps is DESIGN CHOICE (log entry 72). -/
def State.fragValue (s : State) (x : Stripe) (i : Nat) : List Byte :=
  let d := fragData s.grpK s.grpM x.f x.data i
  let h := getBytes s.group 0 16 ++ leBytes 4 x.epoch ++ leBytes 1 s.grpK ++ leBytes 1 s.grpM ++ leBytes 1 i ++ leBytes 4 x.f ++
    leBytes 4 x.len ++ leBytes 4 x.nsid ++ leBytes 16 x.key ++ leBytes 4 (crc32c d)
  h ++ List.replicate (64 - h.length) 0 ++ d

/-- The key of a fragment (R342). -/
def fragKey (coord : List Byte) (no i : Nat) : List Byte :=
  leBytes 4 (crc32c coord) ++ leBytes 8 no ++ leBytes 1 i ++ [0, 0, 0]

/-- The fragment namespace (R339). -/
def State.fragNsid (s : State) : Option (Nat × Ns) :=
  s.nss.findSome? fun e => e.2.bind fun n => if n.frag then some (e.1, n) else none

/-- Stores a fragment of a stripe in this drive's own fragment namespace. -/
def State.keepFrag (s : State) (x : Stripe) (i : Nat) : State :=
  match s.fragNsid with
  | none => s
  | some (nsid, n) =>
    let key := keyNum (fragKey serial x.no i)
    let v := s.fragValue x i
    let seq := s.wseq - 1
    let r := s.kvPlaceValue seq nsid (State.kvAct n nsid key) (kvStored n [] v)
    ((r.1.kvSetAs seq n nsid key (some ⟨v, 1, v.length, false, 0, false, none, 0, false, r.2, false, false, false⟩)).updStripe x.no fun y =>
      { y with frags := y.frags.set i { y.frags.getD i ⟨serial, 1, false, none⟩ with loc := r.2 } })

/-- The fragment of a stripe that stands at a granule of this drive's fragment namespace. -/
def State.fragAt (s : State) (nsid loc : Nat) : Option (Stripe × Nat) :=
  if s.protNs nsid then s.stripes.findSome? fun x => (x.frags.zipIdx.find? fun p => match p.1.loc with
    | some l => decide (l ≤ loc ∧ loc < l + ceilDiv (x.f + 64) 4096)
    | none => false).map fun p => (x, p.2)
  else none

/-- Sealed stripes keep the fragment that falls to this drive; fragments of stripes that are gone are deleted (R342,
R347). -/
def State.tidyFrags (s : State) : State :=
  let todo := s.stripes.flatMap fun x => (x.frags.zipIdx.filter fun p =>
    x.sealed && decide (p.1.holder = serial ∧ p.1.st = 1 ∧ p.1.loc = none ∧ x.f ≠ 0)).map fun p => (x, p.2)
  let t := s.forAll todo fun p t => t.keepFrag p.1 p.2
  match t.fragNsid with
  | none => t
  | some (nsid, n) =>
    let gone := (t.kvKeys nsid).filter fun k =>
      decide (k / 2 ^ 96 = keyNum (fragKey serial 0 0) / 2 ^ 96) &&
        !(t.stripes.any fun x => (List.range x.frags.length).any fun i => decide (keyNum (fragKey serial x.no i) = k))
    t.forAll gone fun k u => u.kvSetAs (u.wseq - 1) n nsid k none

end Sys2Proof.Machine
end

