-- ==== Sys2Proof/Machine/Nvme.lean ====
section
/-!
DEFINITION. Commands in flight, the Turnstile (R294 to R297), completions and notices: what every NVMe command shares.
Status codes other than R89's are those of the NVMe specifications R279 names (PRESUMED, log entry 9).
-/

namespace Sys2Proof.Machine

/-- An NVMe status: status code type, status code. -/
abbrev Stat := Nat × Nat

/-- Successful Completion. -/
def stOk : Stat := (0, 0)
/-- Invalid Command Opcode. -/
def stOpcode : Stat := (0, 0x01)
/-- Invalid Field in Command. -/
def stField : Stat := (0, 0x02)
/-- Command Abort Requested. -/
def stAborted : Stat := (0, 0x07)
/-- Invalid Namespace or Format. -/
def stNs : Stat := (0, 0x0B)
/-- Command Sequence Error. -/
def stSeq : Stat := (0, 0x0C)
/-- Sanitize Failed. -/
def stSanFail : Stat := (0, 0x1C)
/-- Sanitize In Progress. -/
def stSanBusy : Stat := (0, 0x1D)
/-- LBA Out of Range. -/
def stLba : Stat := (0, 0x80)
/-- Capacity Exceeded. -/
def stCap : Stat := (0, 0x81)
/-- Namespace Not Ready. -/
def stNotReady : Stat := (0, 0x82)
/-- Format In Progress. -/
def stFormat : Stat := (0, 0x84)
/-- Invalid Value Size. -/
def stKvSize : Stat := (0, 0x85)
/-- Invalid Key Size. -/
def stKeySize : Stat := (0, 0x86)
/-- Key Does Not Exist. -/
def stKeyNone : Stat := (0, 0x87)
/-- Unrecovered Error of the Key Value set. -/
def stKvUnrec : Stat := (0, 0x88)
/-- Key Exists. -/
def stKeyExists : Stat := (0, 0x89)
/-- Invalid Firmware Slot. -/
def stFwSlot : Stat := (1, 0x06)
/-- Invalid Firmware Image. -/
def stFwImage : Stat := (1, 0x07)
/-- Invalid Format. -/
def stInvFmt : Stat := (1, 0x0A)
/-- Feature Identifier Not Saveable. -/
def stNotSave : Stat := (1, 0x0D)
/-- Feature Not Changeable. -/
def stNotChg : Stat := (1, 0x0E)
/-- Namespace Insufficient Capacity. -/
def stNsCap : Stat := (1, 0x15)
/-- Namespace Identifier Unavailable. -/
def stNsId : Stat := (1, 0x16)
/-- Namespace Already Attached. -/
def stNsAtt : Stat := (1, 0x18)
/-- Namespace Not Attached. -/
def stNsNotAtt : Stat := (1, 0x1A)
/-- Device Self-test in Progress. -/
def stTest : Stat := (1, 0x1D)
/-- Connect Controller Busy. -/
def stBusy : Stat := (1, 0x81)
/-- Connect Invalid Parameters. -/
def stConnect : Stat := (1, 0x82)
/-- Write Fault. -/
def stWrFault : Stat := (2, 0x80)
/-- Unrecovered Read Error (R89). -/
def stUre : Stat := (2, 0x81)
/-- Zone Boundary Error. -/
def stZBound : Stat := (1, 0xB8)
/-- Zone Is Full. -/
def stZFull : Stat := (1, 0xB9)
/-- Zone Is Read Only. -/
def stZRo : Stat := (1, 0xBA)
/-- Zone Is Offline. -/
def stZOff : Stat := (1, 0xBB)
/-- Zone Invalid Write. -/
def stZWrite : Stat := (1, 0xBC)
/-- Too Many Active Zones (R249). -/
def stZActive : Stat := (1, 0xBD)
/-- Invalid Zone State Transition. -/
def stZTrans : Stat := (1, 0xBF)

/-! ## Turnstile -/

/-- Two entries overlap, and one of them is a write (R296). -/
def TsEnt.clash (x y : TsEnt) : Bool :=
  decide (x.nsid = y.nsid ∧ x.lo < y.hi ∧ y.lo < x.hi) && (x.write || y.write)

/-- An entry set clashes with an earlier admitted command's (R296). -/
def entsClash (xs ys : List TsEnt) : Bool := xs.any fun x => ys.any fun y => x.clash y

/-- Entries in use (R295). -/
def tsUsed (l : List Cmd) : Nat := (l.map fun c => c.ents.length).foldl (· + ·) 0

/-- Shows the commands in flight and the Turnstile entries in use (R306). -/
def State.showCmds (s : State) : State :=
  let u := tsUsed s.cmds
  (s.puts [(R.CMD_TS_USED, u), (R.CMD_INFL_USED, s.cmds.length),
    (R.CMD_TS_HIWAT, if s.get R.CMD_TS_HIWAT < u then u else s.get R.CMD_TS_HIWAT)]).puts
    [(V.mmgTsWarn, if u < 12288 then 0 else s.get V.mmgTsWarn),
     (V.cmdInflWarn, if s.cmds.length < 98304 then 0 else s.get V.cmdInflWarn)]

/-- A command in flight by its identity. -/
def State.cmdOf (s : State) (i : CmdId) : Option Cmd := s.cmds.find? fun c => decide (c.id = i)

/-- A command in flight by its admission number. -/
def State.cmdNoOf (s : State) (n : Nat) : Option Cmd := s.cmds.find? fun c => decide (c.no = n)

/-- Changes one command's record. -/
def State.updCmd (s : State) (n : Nat) (f : Cmd → Cmd) : State :=
  { s with cmds := s.cmds.map fun c => if c.no = n then f c else c }

/-- Takes a command in flight and gives it its entries together, stalled behind an earlier one it clashes with (R295,
R296). `st` is the status its admission already settles and `dw0` the value it returns. -/
def State.enlist (s : State) (i : CmdId) (nsid : Nat) (ents : List TsEnt) (st : Stat) (dw0 : Nat) : State :=
  let w := s.cmds.any fun c => entsClash ents c.ents
  (({ s with cmds := s.cmds ++ [Cmd.mk i s.cmdNo nsid ents w false 0 st.1 st.2 dw0 none .none [] .plain []],
             cmdNo := s.cmdNo + 1 }).when w fun t => t.count R.CMD_CNT_TSSTALL).showCmds

/-- A stalled command no longer clashes with any command admitted before it (R296). -/
def State.canRun (s : State) (c : Cmd) : Bool :=
  !(s.cmds.any fun d => decide (d.no < c.no) && entsClash c.ents d.ents)

/-! ## Controllers, notices and completions -/

/-- A controller. -/
def State.ctrl (s : State) (c : Nat) : Option Ctrl := Tab.at none s.ctrls c
/-- Sets or removes a controller, and shows how many exist (R306). -/
def State.setCtrl (s : State) (c : Nat) (x : Option Ctrl) : State :=
  let t := { s with ctrls := Tab.set none s.ctrls c x }
  t.put R.CMD_STAT_CTRLS t.ctrls.length

/-- Sends a completion, unless its controller or its queue's connection is gone (R303, R312); a failure enters the error log, which keeps the newest 64
of each controller (R286). -/
def State.sendCqe (s : State) (q : Cqe) : State :=
  match s.ctrl q.id.cntlid with
  | some x =>
    if x.lostq.contains q.id.qid then s else
    let mine := s.errlog.filter fun e => decide (e.id.cntlid = q.id.cntlid)
    let rest := s.errlog.filter fun e => decide (e.id.cntlid ≠ q.id.cntlid)
    { s with cqs := s.cqs ++ [q],
             errlog := if q.sct = 0 ∧ q.sc = 0 then s.errlog else rest ++ (q :: mine).take 64 }
  | none => s

/-- Sets or removes a namespace. -/
def State.setNs (s : State) (n : Nat) (x : Option Ns) : State := { s with nss := Tab.set none s.nss n x }

/-- Begins a durable point on an actuator: it covers every write completed before, what it writes into the media cache is
queued, and pack stripes are sealed (R254, R342). -/
def State.beginPoint (s : State) (a : Nat) : State :=
  let t := s.sealPacks.tidyFrags
  { t with points := Tab.set [] t.points a (Tab.at [] t.points a ++ [t.wseq]) }.planPoint a

/-- A delete whose namespace has no other command in flight takes the durable points of its actuators (R289). -/
def State.drainDeletes (s : State) : State :=
  s.forAll s.cmds fun c t =>
    match c.fin with
    | .delete ns _ _ =>
      if c.parts = 1 ∧ !(t.cmds.any fun d => ns.contains d.nsid && decide (d.no ≠ c.no)) then
        let acts := (List.range 4).filter fun a => ns.any fun n => bitOf (((t.ns n).map (·.mask)).getD 0) a
        let pts := acts.map fun a => (a, t.wseq)
        (t.forAll acts fun a u => u.beginPoint a).updCmd c.no fun d => { d with parts := 0, points := pts }
      else t
    | _ => t

/-- A command in flight ends: its record and entries go, and its completion is sent (R297, R302). -/
def State.complete (s : State) (i : CmdId) (st : Stat) (dw0 : Nat) (data : Payload) : State :=
  ((({ s with cmds := s.cmds.filter fun c => decide (c.id ≠ i) }).sendCqe
    ⟨i, st.1, st.2, decide (st ≠ stOk ∧ st ≠ stNotReady), dw0, data⟩).drainDeletes).showCmds

/-- A command held by the engine is no longer counted as in flight (R434: the device must be able to be idle). -/
def State.unflight (s : State) (id : CmdId) : State := { s with cmds := s.cmds.filter fun c => decide (c.id ≠ id) }.showCmds

/-- Completes a command that took no part in the Turnstile. -/
def State.answer (s : State) (i : CmdId) (st : Stat) : State := s.complete i st 0 .none

/-- A notice is due on a controller: a held Asynchronous Event Request completes with it in Dword 0, or it waits for
one (R284). -/
def State.notice (s : State) (c n : Nat) : State :=
  match s.ctrl c with
  | none => s
  | some x =>
    match x.aers with
    | [] => s.setCtrl c (some { x with notices := x.notices ++ [n] })
    | i :: rest => (s.setCtrl c (some { x with aers := rest })).complete i stOk n .none

/-- A notice is due on every controller of a list whose configuration enables it. -/
def State.noticeAll (s : State) (cs : List Nat) (bit n : Nat) : State :=
  s.forAll cs fun c t =>
    match t.ctrl c with
    | some x => if bitOf x.aen bit then t.notice c n else t
    | none => t

/-- CNTLIDs in existence. -/
def State.ctrlIds (s : State) : List Nat := s.ctrls.map (·.1)

/-- Asynchronous event values (NVMe Base 2.1, PRESUMED): Namespace Attribute Changed, Firmware Activation Starting, Zone
Descriptor Changed, Discovery Log Page Change, SMART spare, SMART temperature. -/
def aenNs : Nat := 0x040002
/-- Firmware Activation Starting. -/
def aenFw : Nat := 0x030102
/-- Zone Descriptor Changed. -/
def aenZone : Nat := 0xBFEF02
/-- Discovery Log Page Change. -/
def aenDisc : Nat := 0x70F002
/-- Spare below threshold. -/
def aenSpare : Nat := 0x020201
/-- Temperature threshold. -/
def aenTemp : Nat := 0x020101

end Sys2Proof.Machine
end

