-- ==== Sys2Proof/Machine/Media.lean ====
section
/-!
DEFINITION. When data is durable: staging, the media cache and durable points (R252 to R258), media operations and their
ends, the journal (R268 to R272), actuator availability (R262), band reclaim's start (R267).
-/

namespace Sys2Proof.Machine

/-- Changes a zone by the device's own act: it joins the Changed Zone List, and the notice is raised (R250). -/
def State.devZone (s : State) (nsid z : Nat) (x : Zone) : State :=
  match s.ns nsid with
  | none => s.setZone nsid z x
  | some n =>
    let t := (s.setZone nsid z x).forAll n.att fun c t =>
      match t.ctrl c with
      | some y => t.setCtrl c (some { y with changedZones := zoneKey nsid z :: y.changedZones })
      | none => t
    t.noticeAll n.att 27 aenZone

/-! ## Data -/

/-- Makes a range read as zeros, durably once the map holds it. -/
def State.zeroRange (s : State) (nsid lba n : Nat) : State :=
  { s with vol := s.vol.filter fun e => decide (¬(lbaKey nsid lba ≤ e.1 ∧ e.1 < lbaKey nsid (lba + n))),
           dur := s.dur.filter fun e => decide (¬(lbaKey nsid lba ≤ e.1 ∧ e.1 < lbaKey nsid (lba + n))) }

/-- Discards every block of a namespace, staged or durable (R273). -/
def State.dropNs (s : State) (nsid : Nat) : State :=
  { s with vol := s.vol.filter fun e => decide (e.1 / 18446744073709551616 ≠ nsid),
           dur := s.dur.filter (fun e => decide (e.1 / 18446744073709551616 ≠ nsid)),
           lost := s.lost.filter (fun k => decide (k / 18446744073709551616 ≠ nsid)),
           mcache := s.mcache.map fun e => (e.1, e.2.map fun t =>
             { t with secs := t.secs.filter fun x => decide (x.1 ≠ nsid) }) }

/-- A track write is complete: the staging copies of its blocks are released (R32). -/
def State.land (s : State) (nsid lba n : Nat) : State :=
  { s with vol := s.vol.map fun e =>
      if lbaKey nsid lba ≤ e.1 ∧ e.1 < lbaKey nsid (lba + n) then
        (e.1, e.2.map fun v => { v with landed := true })
      else e }

/-- The user bytes of a long sector, its eight blocks as stored: a conventional write that covers part of it is merged with
the current data of the other blocks (R44, R252). -/
def State.longUser (s : State) (x : Nat × Nat) : List Byte :=
  (List.range 8).flatMap fun q => s.storedBytes x.1 (x.2 + q) (s.block x.1 (x.2 + q))

/-- A track with the user bytes `data` as a write puts it on the media, whole: its long sectors, fill sectors where there is none,
and the m parity sectors after them, each with its metadata (R44, R48, R49, R50, R56, R61). -/
def State.imageOf (s : State) (a : Nat) (j : Job) (bseq : Nat) (secs : List (Option (Nat × Nat))) (data : List (List Byte)) : MTrack :=
  let h := s.ghead a j.lhead
  let sec (i : Nat) : Option (Nat × Nat) := if i < j.kd then secs.getD i none else none
  let metaOf (i : Nat) : SMeta :=
    ⟨h, decide (j.kd ≤ i), j.dcls, j.track, i, j.kd, j.mPar, (sec i).map (·.2), ((sec i).map (·.1)).getD 0, j.tgen, bseq,
      if i < j.kd then blockCrcs (data.getD i []) else List.replicate 8 0⟩
  ⟨j.wedge, j.zone, j.dcls, j.k, j.kd, j.mPar, j.tgen, (List.range (j.kd + j.mPar)).map metaOf, data⟩

/-- The image of a track of host data. The user bytes of a fill sector are zeros, and `LBA0` of a long sector of a Key Value
namespace is its granule's number in the band plus 65,536 times the band (DESIGN CHOICE, log entry 56: the spec gives neither). -/
def State.trackImage (s : State) (a : Nat) (j : Job) (bseq : Nat) (secs : List (Option (Nat × Nat))) : MTrack :=
  s.imageOf a j bseq secs ((List.range j.kd).map fun i => match secs.getD i none with
    | some x => s.longUser x
    | none => List.replicate 32768 0)

/-- A track whose user bytes are the device's own, no long sector of a namespace among them. -/
def State.ownImage (s : State) (a : Nat) (j : Job) (bseq : Nat) : MTrack :=
  s.imageOf a j bseq [] ((List.range j.kd).map fun i => (List.range 32768).map fun b =>
    Config.sysByte (trkKey (s.ghead a j.lhead) j.track) j.tgen i b)

/-- A track stands on the media. -/
def State.putTrack (s : State) (a : Nat) (j : Job) (x : MTrack) : State :=
  { s with media := Tab.set none s.media (trkKey (s.ghead a j.lhead) j.track) (some x) }

/-- The map checkpoint area of an actuator is written whole, a full copy of its part of the map (R252). -/
def State.checkpoint (s : State) (a : Nat) : State :=
  s.forAll (List.range (s.ckptTracks a)) fun r t =>
    let j := t.convJob a (t.regionTrack r) 0
    t.putTrack a j (t.ownImage a j 0)

/-- A record goes to a copy of the system tracks: the next of its 16 tracks is written whole, as a conventional track (R61, R252).
When they have been gone through, a checkpoint is written (DESIGN CHOICE, log entry 71). -/
def State.sysRecord (s : State) (a c : Nat) : State :=
  if s.sysHeads ≤ c then s
  else
    let n := s.get (V.sysPos (2 * a + c))
    let j := s.convJob a (c, n) 0
    let t := (s.putTrack a j (s.ownImage a j 0)).put (V.sysPos (2 * a + c)) ((n + 1) % 16)
    t.when (decide (c = 0 ∧ n = 15)) fun u => u.checkpoint a

/-- A map-log entry goes to both copies of an actuator's system tracks (R252, R267, R273). -/
def State.mapLog (s : State) (a : Nat) : State := (s.sysRecord a 0).sysRecord a 1

/-- The long sectors of a track write. -/
def Job.secs (j : Job) : List (Option (Nat × Nat)) := (List.range (ceilDiv j.nlb 8)).map fun i => some (j.nsid, j.lba + 8 * i)

/-- The long sectors data track `t` of a band holds. -/
def State.bandSecs (s : State) (id t : Nat) : List (Option (Nat × Nat)) :=
  (List.range (s.bandK id)).map fun i =>
    if 8 * (t * s.bandK id + i) < 65536 then s.bandBlock id (8 * (t * s.bandK id + i)) else none

/-- The planned cache track of a write. -/
def State.planned (s : State) (a pos : Nat) : Option CTrack := (s.clog a).find? fun t => decide (t.st = 0 ∧ t.pos = pos)

/-- `BSEQ` of the next track of a band: the write sequence of the band as its first track opens it (R44, R246). -/
def State.nextBseq (s : State) (id : Nat) : Nat :=
  let b := s.band id
  if b.st = .open_ then b.bseq else (b.bseq + 1) % 4294967296

/-- The track a write puts on the media: a planned cache track, or a track of a band. A cache track belongs to no band and carries
`BSEQ` 0 (DESIGN CHOICE, log entry 56: the spec gives it none). -/
def State.jobImage (s : State) (a : Nat) (j : Job) : MTrack :=
  if j.kind = .durable then s.trackImage a j 0 (((s.planned a j.lba).map fun c => c.secs.map some).getD [])
  else s.trackImage a j (s.nextBseq (s.lbaBand j.nsid j.lba).1) j.secs

/-- The long sectors of a cache track's write have landed: staged conventional blocks are released; a landed tail stays
staged until its track is written (R32, R254). -/
def State.landCache (s : State) (a : Nat) (c : CTrack) : State :=
  let hit (e : Nat × Option Vol) : Bool := c.secs.contains (secOf e.1) && decide ((s.ns (secOf e.1).1).map (·.csi) = some 0)
  { s with vol := s.vol.map fun e =>
      if hit e then (e.1, e.2.map fun (v : Vol) => if v.seq < c.bound then { v with landed := true } else v) else e }.setClog a
    ((s.clog a).map fun (t : CTrack) => if t.st = 0 ∧ t.pos = c.pos then { t with st := 1 } else t)

/-- A band's next track stands on the media: the band is OPEN, or FULL with its last track (R246, R248). -/
def State.bandWritten (s : State) (j : Job) : State :=
  let id := (s.lbaBand j.nsid j.lba).1
  let t := if (s.band id).st = .assigned then s.setBand id { s.band id with st := .open_ } else s
  let b := t.band id
  if b.st = .open_ then
    let d := Nat.max b.done (j.track + 1 - b.first)
    t.setBand id { b with done := d, st := if bandData j.k ≤ d ∨ j.kd < j.k then .full else .open_ }
  else t

/-- Staged data of a write is read through Pocket by its channel (R32). -/
def State.readStaged (s : State) (a : Nat) (j : Job) : State :=
  s.forAll (List.range j.nlb) fun i t => t.partRead (8 + a) 0 (lbaKey j.nsid (j.lba + i)) 4096

/-- A track write stands on the media, and the map takes it (R32, R252). -/
def State.writeTrack (s : State) (a : Nat) (j : Job) : State :=
  let key := trkKey (s.ghead a j.lhead) j.track
  let t := if j.kind = .durable then
      match s.planned a j.lba with
      | some c => { s with media := Tab.set none s.media key (some (s.jobImage a j)) }.landCache a c
      | none => s
    else
      let u := s.bandWritten j
      { u with media := Tab.set none u.media key (some (s.jobImage a j)) }.readStaged a j
  t.partWrite 12 1 key (hbmEntry 1 key j.tgen)

/-- The bands of a zone as recovery truncates them: a band ends with the last whole track under a durable point (R258). -/
def State.truncBand (s : State) (z : Zone) (j : Nat) (b : Band) : Band :=
  let k := s.bandK (z.bands.getD j 0)
  let d := Nat.min 65536 (z.dwp - 65536 * j)
  if b.st = .open_ ∨ (b.st = .full ∧ d < 65536) then
    { b with done := d / (8 * k), st := if d < 8 * k then .assigned else .open_ }
  else b

/-- What recovery leaves of an actuator's media cache: the tracks of the recorded log (R258). -/
def State.replayCache (s : State) (a : Nat) : State :=
  match (s.clog a).find? fun t => decide (t.st ≠ 2) with
  | some t => (s.setClog a ((s.clog a).filter fun u => decide (u.st = 2))).put (V.mcHead a) t.pos
  | none => s

/-- The durable-point record recovery takes of an actuator: the newer of its two copies (R258, R275). -/
def State.newerRec (s : State) (a : Nat) : Option DurRec :=
  match Tab.at none s.sysrec (2 * a), Tab.at none s.sysrec (2 * a + 1) with
  | some x, some y => some (if x.no < y.no then y else x)
  | some x, none => some x
  | none, y => y

/-- What an actuator's durable-point record says of a band: its tracks and the long sectors of its landed tail (R254). -/
def State.recorded (s : State) (id : Nat) : Option (Nat × Nat) :=
  (s.newerRec (s.bandAct id)).bind fun r => (r.bands.find? fun e => decide (e.1 = id)).map (·.2)

/-- Granules of a band that a Key Value namespace's recorded tracks, durable values and landed tails reach to. -/
def State.kvEnd (s : State) (nsid id : Nat) : Nat :=
  let vals := s.kvDur.filterMap fun e => match e.2.bind fun x => x.loc.map fun l => (l, x.slen) with
    | some p => if e.1 / 2 ^ 128 = nsid ∧ p.1 / 65536 = id then some (p.1 % 65536 + ceilDiv p.2 4096) else none
    | none => none
  let tails := s.vol.filterMap fun e =>
    if e.1 / 18446744073709551616 = nsid ∧ e.1 % 18446744073709551616 / 65536 = id then some (e.1 % 65536 + 1) else none
  (vals ++ tails).foldl Nat.max (8 * s.bandK id * ((s.recorded id).map (·.1)).getD 0)

/-- Recovery of a Key Value namespace: its bands end where the durable points say, and those without durable values return
to the free pool (R258, R331). -/
def State.rewindKv (s : State) (nsid : Nat) : State :=
  match s.ns nsid with
  | some n =>
    if n.csi = 1 then
      let keep := n.bands.filter fun b => decide (s.kvEnd nsid b ≠ 0)
      let cut (b : Nat) : Band := match s.recorded b with
        | some r => { s.band b with done := r.1, st := if r.1 = 0 then .assigned else .open_ }
        | none => if n.bands.contains b && !keep.contains b then s.freed b else s.band b
      let log := (keep.filter fun b => decide ((cut b).st ≠ .full)).map fun b => (s.bandAct b, b, s.kvEnd nsid b)
      let t := s.forAll n.bands fun b t => t.setBand b (cut b)
      { t with nss := Tab.set none t.nss nsid (some { n with bands := keep, klog := log }) }
    else s
  | none => s

/-- What a reset or a power loss leaves of the data: everything beyond the durable points is gone, OPEN bands are truncated,
landed tails are reloaded into staging, the cache's log ends at the recorded head, and the write pointer of a zone equals its
durable point (R257, R258). -/
def State.loseVolatile (s : State) : State :=
  let s := s.forAll (List.range 4) fun a t => t.replayCache a
  let cut := s.zones.flatMap fun e => match e.2 with
    | some z => (List.range z.bands.length).map fun j => (z.bands.getD j 0, s.truncBand z j (s.band (z.bands.getD j 0)))
    | none => []
  let t : State :=
    { s with vol := s.vol.filter (fun e => match e.2 with | some v => v.tail | none => false), points := [],
             bands := cut.foldl (fun m p => if (Tab.at none s.bands p.1).isSome then Tab.set none m p.1 (some p.2) else m) s.bands,
             zones := s.zones.map fun e => (e.1, e.2.map fun z =>
               { z with wp := z.dwp,
                        st := if z.st = zImp ∨ z.st = zExp ∨ z.st = zClosed ∨ (z.st = zFull ∧ z.dwp < 262144) then
                              (if z.dwp = 0 then zEmpty else zClosed) else z.st }) }
  t.forAll (t.nss.map (·.1)) fun n u => u.rewindKv n

/-- The log of a media cache with the long sectors of recorded tracks that a newer recorded track does not hold and `live`
accepts; whole tracks without one leave at its old end. -/
def trimLog (live : Nat × Nat → Bool) : List CTrack → List CTrack
  | [] => []
  | t :: l =>
    (if t.st = 2 then
      { t with secs := t.secs.filter fun x => live x && !(l.any fun u => decide (u.st = 2) && u.secs.contains x) }
     else t) :: trimLog live l

/-- Long sectors of the media cache that a newer one replaces, whose band track a durable point has recorded, or whose namespace is
gone leave, and so do tracks that hold none at the log's old end (R252, R255). -/
def State.trimCache (s : State) (a : Nat) : State :=
  let live (x : Nat × Nat) : Bool := match s.ns x.1 with
    | some n => decide (n.csi = 0) || s.vol.any fun e => decide (secOf e.1 = x) && e.2.isSome
    | none => false
  s.setClog a ((trimLog live (s.clog a)).dropWhile fun t => decide (t.st = 2) && t.secs.isEmpty)

/-- The record of a durable point is written to a copy of the system tracks (R254). -/
def State.recordCopy (s : State) (a c : Nat) (r : DurRec) : State :=
  if s.sysHeads ≤ c then s else { s with sysrec := Tab.set none s.sysrec (2 * a + c) (some r) }.sysRecord a c

/-- The copy of the system tracks with the older record takes the newer one, when the point already stands on the other (R254). -/
def State.levelCopies (s : State) (a : Nat) : State :=
  match s.newerRec a with
  | some r => s.forAll (List.range 2) fun c t =>
      if Tab.at none t.sysrec (2 * a + c) = some r then t else t.recordCopy a c r
  | none => s

/-- Step 4 of a durable point: its record goes to the system tracks, at first to one copy (`copy` 0 or 1), with which the point
stands, or to both (2), and the media cache's log is recorded up to it (R254). -/
def State.recordPoint (s : State) (a bound copy : Nat) : State :=
  let s := s.setClog a ((s.clog a).map fun t => if t.st = 1 ∧ t.bound ≤ bound then { t with st := 2 } else t)
  let open_ := s.bands.filterMap fun e => match e.2 with
    | some b =>
      let tail := ((s.clog a).flatMap (·.secs)).countP fun x => decide ((s.lbaBand x.1 x.2).1 = e.1)
      let late := s.vol.filterMap fun v => match v.2 with
        | some x =>
          let p := s.lbaBand (v.1 / 18446744073709551616) (v.1 % 18446744073709551616)
          if x.landed ∧ p.1 = e.1 then some (p.2 / (8 * s.bandK e.1)) else none
        | none => none
      if s.bandAct e.1 = a ∧ (b.st = .open_ ∨ (b.st = .assigned ∧ tail ≠ 0)) then some (e.1, late.foldl Nat.min b.done, tail) else none
    | none => none
  let head := ((s.clog a).find? fun t => decide (t.st ≠ 2)).map (·.pos)
  let r : DurRec := ⟨((s.newerRec a).map (·.no)).getD 0 + 1, head.getD (s.get (V.mcHead a)), open_⟩
  ((s.when (copy ≠ 1 || decide (s.sysHeads = 1)) fun t => t.recordCopy a 0 r).when (decide (copy ≠ 0)) fun t => t.recordCopy a 1 r).trimCache a

/-- An entry of staging lies under a durable point of an actuator. -/
def State.underPoint (s : State) (a bound : Nat) (e : Nat × Option Vol) : Bool :=
  match e.2 with
  | some v => decide (v.seq < bound) && decide (s.lbaAct (e.1 / 18446744073709551616) (e.1 % 18446744073709551616) = a)
  | none => false

/-- No part of a write waits for another actuator's point: each is under this one, or under one that has stood (R257). -/
def State.whole (s : State) (a bound seq : Nat) : Bool :=
  s.vol.all fun e => match e.2 with
    | some v => decide (v.seq ≠ seq) || s.underPoint a bound e || v.half || v.tail
    | none => true

/-- Every covered block of an actuator becomes durable; a covered block of zeros is not listed. A landed tail stays staged
until its track is written (R254, R258). A write that reaches two actuators becomes durable with the later of their points, so that a
reset leaves it entirely old or entirely new (R257). -/
def State.makeDurable (s : State) (a bound : Nat) : State :=
  let keeps (e : Nat × Option Vol) : Bool := match e.2 with
    | some v => !v.landed && decide ((s.ns (e.1 / 18446744073709551616)).map (·.csi) ≠ some 0)
    | none => false
  let covered (e : Nat × Option Vol) : Bool := match e.2 with
    | some v => (s.underPoint a bound e || v.half) && s.whole a bound v.seq
    | none => false
  { s with dur := (s.vol.filter covered).foldl (fun m e => match e.2 with
                    | some v => Tab.set 0 m e.1 v.blk
                    | none => m) s.dur,
           vol := (s.vol.filter fun e => !covered e || keeps e).map fun e =>
             if covered e then (e.1, e.2.map fun v => { v with tail := true, half := false })
             else if s.underPoint a bound e then (e.1, e.2.map fun v => { v with half := true }) else e,
           zones := s.zones.map fun e => (e.1, e.2.map fun z =>
             let lo := lbaKey (e.1 / 4294967296) (e.1 % 4294967296 * 262144)
             { z with dwp := (s.vol.filter covered).foldl (fun m v =>
                 if lo ≤ v.1 ∧ v.1 < lo + 262144 then Nat.max m (v.1 - lo + 1) else m) z.dwp }) }

/-- Points begun on an actuator. -/
def State.pointsOf (s : State) (a : Nat) : List Nat := Tab.at [] s.points a

/-! ## Zones in use -/

/-- Active zones of an actuator over all namespaces (R249). -/
def State.activeOn (s : State) (a : Nat) : Nat :=
  (s.zones.filter fun e => match e.2 with
    | some z => zActive z.st && decide (s.lbaAct (e.1 / 4294967296) (e.1 % 4294967296 * 262144) = a)
    | none => false).length

/-! ## Actuator availability (R262) -/

/-- An actuator is unavailable. -/
def State.actDown (s : State) (a : Nat) : Bool :=
  s.on (V.seqOos a) || s.on (V.srvNoLoad a) || s.on V.trzOos || s.on (V.mapReload a) ||
    bitOf (s.get R.STM_STAT_VCM_OFF) a

/-- The operations in progress on an actuator resume when it returns (R272, R275). -/
def State.resumeOps (s : State) (a : Nat) : State :=
  s.forAll (s.mops.filter fun o => decide (o.act = a ∧ (o.typ ≠ 1 ∨ o.step ≠ 0))) fun o t => t.resumeOp1 o

/-- Shows availability, and records an actuator that became unavailable (R262, R278). The cause is a block id and the
code that block recorded. -/
def State.refreshAct (s : State) (a cblk ccode : Nat) : State :=
  let m := s.get R.MMG_STAT_ACT_OK
  if s.actDown a then
    if bitOf m a then
      (((s.put R.MMG_STAT_ACT_OK (m - 2 ^ a)).evt R.MMG_EVT_ACT_LOST).post 0x0B 0x16 error noInst
        [a, cblk, ccode]).puts [(R.CMD_JQ_HELD a, 1), (R.CMD_JQ_WHY a, 5)]
    else s
  else if s.on R.MMG_CTL_EN && decide (a < s.nact) && !bitOf m a then
    (s.put R.MMG_STAT_ACT_OK (m + 2 ^ a)).when (decide (s.get (R.CMD_JQ_WHY a) = 5)) fun t => (t.releaseHold a).resumeOps a
  else s

/-! ## Journal (R268 to R272) -/

/-- Byte address of a record's page in the ring: blocks 4 to 131 of bank 0 (R268, R407). -/
def jAddr (n : Nat) : Nat := 262144 + 256 * (n % 32768)

/-- The page of a record: its 64 bytes, then 0xFF (R268). -/
def JRec.page (r : JRec) : List Byte :=
  let b := leBytes 4 r.jseq ++ leBytes 4 r.opid ++ leBytes 1 r.typ ++ leBytes 1 r.step ++ leBytes 1 r.act ++ [0] ++ leBytes 4 r.opsec ++
    (List.range 40).map (fun i => Config.jParam r.typ r.param i) ++ leBytes 4 0
  b ++ leBytes 4 (crc32c b) ++ List.replicate 192 0xFF

/-- A record exists: its page reads as it was programmed (R269). -/
def State.jThere (s : State) (r : JRec) : Bool := decide (s.fbytes (jAddr r.jseq) 256 = r.page)

/-- Programs a record at the head of the ring (R268). -/
def State.jput (s : State) (r : JRec) : State :=
  let r := { r with jseq := s.jseq }
  ({ s with journal := s.journal ++ [r], jseq := (s.jseq + 1) % 4294967296 } : State).when s.flashOn fun t =>
    t.reqProg (jAddr r.jseq) r.page 0

/-- The ring comes to a new block: the next one is made ready. The newest record of each unfinished operation that only that block
holds is programmed again at the head of the ring, and then the block is erased (R270; DESIGN CHOICE, log entry 85: the moment). -/
def State.jReady (s : State) : State :=
  let here (x : JRec) : Bool := decide (x.jseq % 32768 / 256 = (s.jseq / 256 + 1) % 128)
  let live (x : JRec) : Bool := here x && (s.mops.any fun m => decide (m.opid = x.opid)) &&
    !(s.journal.any fun y => decide (y.opid = x.opid) && seqNewer y.jseq x.jseq)
  if !s.journal.any here then s
  else
    let t := s.forAll (s.journal.filter live) fun x u => u.jput x
    ({ t with journal := t.journal.filter fun x => !here x } : State).when s.flashOn fun u =>
      u.reqErase (4 + (s.jseq / 256 + 1) % 128)

/-- Programs the journal record of a step of an operation (R268, R270). -/
def State.jrec (s : State) (o : MOp) (step : Nat) : State :=
  (s.when (decide (s.jseq % 256 = 0)) fun t => t.jReady).jput
    ⟨0, o.opid, o.typ, step, o.act, s.opsec, [o.src, o.dst, o.dcls, o.copied, o.cause, o.left, o.nsid]⟩

/-- Replaces an operation's record. -/
def State.setOp (s : State) (o : MOp) : State :=
  { s with mops := s.mops.map fun m => if m.opid = o.opid then o else m }

/-- The operations in progress of an actuator shown in `MMG_STAT`: a queued reclaim has not begun (R276). -/
def State.showOps (s : State) (a : Nat) : State :=
  let rb (ty : Nat) : Bool := s.mops.any fun m => decide (m.act = a ∧ m.typ = ty ∧ m.step ≠ 0)
  (s.setBit R.MMG_STAT_RECL_BUSY a (rb 1)).setBit R.MMG_STAT_ALT_BUSY a (rb 2)

/-- Ends an operation. -/
def State.endOp (s : State) (o : MOp) : State :=
  { s with mops := s.mops.filter fun m => decide (m.opid ≠ o.opid) }.showOps o.act

/-- Adds an operation, numbered (R268). -/
def State.addOp (s : State) (o : MOp) : State :=
  { s with mops := s.mops ++ [{ o with opid := s.opid }], opid := (s.opid + 1) % 4294967296 }

/-- Begins an operation: it is numbered, shown in `MMG_STAT`, and its first record is written (R268). -/
def State.beginOp (s : State) (o : MOp) : State :=
  ((s.addOp o).showOps o.act).jrec { o with opid := s.opid } o.step

/-- Zones a band belongs to, as keys. -/
def State.zonesOfBand (s : State) (id : Nat) : List Nat :=
  s.zones.filterMap fun e => e.2.bind fun z => if z.bands.contains id then some e.1 else none

/-- A band of a zone waits for reclaim or is being reclaimed. -/
def State.reclZone (s : State) (z : Zone) : Bool := s.mops.any fun o => decide (o.typ = 1) && z.bands.contains o.src

/-- `RELOC` of the zones of a band follows the reclaims of their bands (R250). -/
def State.showReloc (s : State) (id : Nat) : State :=
  s.forAll (s.zonesOfBand id) fun k t =>
    let z := t.zone (k / 4294967296) (k % 4294967296)
    if z.reloc = t.reclZone z then t else t.devZone (k / 4294967296) (k % 4294967296) { z with reloc := t.reclZone z }

/-! ## Re-lay (R265, R266) -/

/-- The bands of a surface that have not lost their tracks, in track order. -/
def State.surface (s : State) (h : Nat) : List Nat :=
  ((List.range (s.bandCount h)).map fun i => h * 1048576 + i).filter fun i => decide ((s.band i).st ≠ .retired)

/-- The maximal run of FREE bands around a band on its head and recording zone, at two classes; the conventional region
parts the bands before it from those after it (R57, R265). -/
def State.runAround (s : State) (id dcOld dcNew : Nat) : List Nat :=
  let h := id / 1048576
  let o := s.band id
  let ok (i : Nat) : Bool :=
    let b := s.band i
    decide (b.st = .free ∧ b.zone = o.zone ∧ (b.dcls = dcOld ∨ b.dcls = dcNew) ∧ (b.first < s.fmtConv ↔ o.first < s.fmtConv))
  let l := s.surface h
  ((l.filter fun i => decide (i < id)).reverse.takeWhile ok).reverse ++ (l.filter fun i => decide (id ≤ i)).takeWhile ok

/-- Tracks a run of bands covers, the slack that joined them among them (R57). -/
def State.runTracks (s : State) (l : List Nat) : Nat :=
  (l.map fun id =>
    let b := s.band id
    let e := s.zoneEnt (id / 1048576) b.zone
    bandData (s.kOf e b.dcls) + zeGuard e + b.slack).foldl (· + ·) 0

/-- The bands of the run a re-lay holds. -/
def MOp.run (o : MOp) : List Nat := o.todo.map (·.2)

/-- The class a held band waits for: what a demand has asked of its recording zone, above its own at least (R263, R266). -/
def State.nextClass (s : State) (id : Nat) : Nat := Nat.max (s.areaClass id) ((s.band id).dcls + 1)

/-- Bands of the new class that the run around a band yields, 0 unless that is one more at least than it holds (R265). -/
def State.relayYield (s : State) (id : Nat) : Nat :=
  let dc := s.nextClass id
  let run := s.runAround id (s.band id).dcls dc
  let e := s.zoneEnt (id / 1048576) (s.band id).zone
  let per := bandData (s.kOf e dc) + zeGuard e
  let n := Nat.min run.length (s.runTracks run / per)
  if 5 < dc ∨ per = 0 ∨ n ≤ (run.filter fun i => decide ((s.band i).dcls = dc)).length then 0 else n

/-- Begins the re-lay of the run around a released band; one re-lay on an actuator at once (R265, R267). Record ALT/1 and the hold. -/
def State.tryRelay (s : State) (id : Nat) : State :=
  let n := s.relayYield id
  if 0 < n ∧ !bitOf (s.get R.MMG_STAT_ALT_BUSY) (s.bandAct id) ∧ s.on R.MMG_CTL_ALT_EN then
    let dc := s.nextClass id
    let run := s.runAround id (s.band id).dcls dc
    let t := s.forAll run fun i t => t.setBand i { t.band i with held := true }
    t.beginOp ⟨0, 2, s.bandAct id, 1, 0, run.headD id, run.length, (s.band id).dcls, dc, 0, n, s.runTracks run, false, run.map fun i => (0, i)⟩
  else s

/-- The re-lay of another run of held bands of an actuator begins, if one can be re-laid (R265, R266). -/
def State.relayNext (s : State) (a : Nat) : State :=
  match s.bands.find? fun e => match e.2 with
    | some b => decide (b.st = .free) && b.held && decide (s.bandAct e.1 = a) && decide (0 < s.relayYield e.1)
    | none => false with
  | some e => s.tryRelay e.1
  | none => s

/-- A band becomes FREE; below the class asked of its recording zone it is held until a run can be re-laid (R263, R266). -/
def State.freeBand (s : State) (id : Nat) : State :=
  let t := ({ s with weakSlots := s.weakSlots.filter fun x => decide (x / 256 ≠ id) } : State).setBand id (s.freed id)
  t.when (s.freed id).held fun u => u.tryRelay id

/-- The bands of a re-lay that ends early are held no more, but for those below the class asked of their recording zone. -/
def State.unhold (s : State) (o : MOp) : State :=
  s.forAll o.run fun i t => if (t.band i).st = .free then t.setBand i (t.freed i) else t

/-- The source of a band reclaim is released: DEFECT after a failed write, else FREE (R267). -/
def State.releaseSrc (s : State) (o : MOp) : State :=
  if o.cause = 2 then s.setBand o.src { s.band o.src with st := .defect }
  else if o.cause = 3 then (s.setBand o.src { s.freed o.src with held := true }).tryRelay o.src
  else s.freeBand o.src

/-- Writes ABANDONED for an operation and releases its target (R272, R275). After the switch the target holds the data and the source
is what is released. -/
def State.abandonOp (s : State) (o : MOp) : State :=
  let t := ((s.jrec o 0xFE).endOp o).when (decide (o.typ = 1)) fun t => t.showReloc o.src
  if o.typ = 2 then t.unhold o
  else if o.typ = 3 ∨ o.step = 0 then t
  else if o.step = 4 then t.releaseSrc o
  else t.freeBand o.dst

/-- The other bands of the zone a band belongs to. -/
def State.zoneMates (s : State) (id : Nat) : List Nat :=
  match s.zones.findSome? fun e => e.2.bind fun z => if z.bands.contains id then some z.bands else none with
  | some l => l.filter fun b => decide (b ≠ id)
  | none => []

/-- The FREE bands a reclaim may draw: of the source's actuator and the class required, on heads with which a zone's bands stay on
different heads, or with fewer than four heads as evenly spread over the available ones as can be (R58, R248, R267). -/
def State.targets (s : State) (src dcls : Nat) : List Nat :=
  let a := s.bandAct src
  let mates := (s.zoneMates src).map (· / 1048576)
  let hs := (s.headsOf a).filter fun h => !(s.freeBands h dcls).isEmpty
  let least := (hs.map fun h => mates.count h).foldl Nat.min 4
  (hs.filter fun h => mates = [] || decide (mates.count h = if 4 ≤ s.nhpa then 0 else least)).flatMap fun h => s.freeBands h dcls

/-- The target of a reclaim, drawn by a free value; none when no band qualifies. -/
def State.pickTarget (s : State) (src dcls : Nat) : Option Nat :=
  let l := s.targets src dcls
  l[s.freeVal % l.length]?

/-- A band may be moved now: one of a zone with a weak track only while the zone is Full or Closed (R259). -/
def State.reclMay (s : State) (o : MOp) : Bool :=
  decide (o.cause ≠ 1) || (s.zonesOfBand o.src).all fun k =>
    let st := (s.zone (k / 4294967296) (k % 4294967296)).st
    decide (st = zFull ∨ st = zClosed)

/-- Available Spare of an actuator, in per cent (R246). -/
def State.availSpare (s : State) (a : Nat) : Nat :=
  let owed := (s.mops.filter fun o => decide (o.act = a ∧ o.typ = 1 ∧ o.step = 0)).length
  let b := s.get (V.mmgSpare0 a)
  if b = 0 then 100 else Nat.min 100 ((s.get (R.MMG_POOL_FREE a) - owed) * 100 / b)

/-- The lowest Available Spare of the build's actuators. -/
def State.spareNow (s : State) : Nat := ((List.range s.nact).map s.availSpare).foldl Nat.min 100

/-- A reclaim of a band that no zone owns waits on an actuator for a target band (R264). -/
def State.starved (s : State) (a : Nat) : Bool :=
  !(s.mops.any fun o => decide (o.act = a ∧ o.typ = 1 ∧ o.step ≠ 0)) && s.mops.any fun o =>
    decide (o.act = a ∧ o.typ = 1) && (s.zonesOfBand o.src).isEmpty && (s.targets o.src o.dcls).isEmpty

/-- `SPARE_LOW` is set while Available Spare is below its threshold, or a reclaim waits for a target (R246, R264, R276, R278). -/
def State.checkSpare (s : State) : State :=
  match (List.range s.nact).find? fun a => decide (s.availSpare a < s.get R.MMG_CFG_SPARE_THR) || s.starved a with
  | some a =>
    s.when (!s.on R.MMG_STAT_SPARE_LOW) fun t =>
      let t := ((t.put R.MMG_STAT_SPARE_LOW 1).evt R.MMG_EVT_SPARE_LOW).post 0x0B 0x15 warning noInst
        [a, t.get (R.MMG_POOL_FREE a), t.get (R.MMG_HELD_HELD a)]
      t.noticeAll t.ctrlIds 0 aenSpare
  | none => s.put R.MMG_STAT_SPARE_LOW 0

/-- The oldest reclaim that waits on an actuator begins when none runs there: its target leaves the free pool, and RCL/1 is
written; `left` keeps the writes completed until then (R259, R267). -/
def State.reclaimNext (s : State) (a : Nat) : State :=
  if !s.on R.MMG_CTL_RECL_EN || s.mops.any fun o => decide (o.act = a ∧ o.typ = 1 ∧ o.step ≠ 0) then s
  else match s.mops.find? fun o => decide (o.act = a ∧ o.typ = 1) && s.reclMay o with
    | none => s
    | some o =>
      match s.pickTarget o.src o.dcls with
      | none => s.checkSpare
      | some dst =>
        let o' := { o with step := 1, dst := dst, copied := 0, fails := 0, left := s.wseq }
        (((s.drew.setBand dst { s.band dst with st := .assigned }).setOp o').showOps a).jrec o' 1

/-- Queues a band for reclaim, once (R259 to R263, R267). -/
def State.reclaim (s : State) (src cause dcls : Nat) : State :=
  if s.mops.any fun o => decide (o.typ = 1 ∧ o.src = src) then s
  else ((s.addOp ⟨0, 1, s.bandAct src, 0, 0, src, 0, cause, dcls, 0, 0, 0, false, []⟩).showReloc src).reclaimNext (s.bandAct src)

/-- Cleaning: the band of the oldest conventional extent in the media cache is reclaimed, which moves its extents out of the
cache (R252). -/
def State.clean (s : State) (a : Nat) : State :=
  if !s.on R.MMG_CTL_RECL_EN || s.mops.any fun o => decide (o.act = a ∧ o.typ = 1) then s
  else match ((s.clog a).flatMap fun t => if t.st = 2 then t.secs else []).find? fun x =>
      decide ((s.ns x.1).map (·.csi) = some 0) with
    | some x =>
      let id := (s.lbaBand x.1 x.2).1
      s.reclaim id 4 (s.band id).dcls
    | none => s

/-- Extents that a reclaim switches leave the media cache, unless they were written again after it began (R267). -/
def State.cleanSwitch (s : State) (o : MOp) : State :=
  (s.setClog o.act ((s.clog o.act).map fun t =>
    if t.bound ≤ o.left then
      { t with secs := t.secs.filter fun x =>
          decide ((s.ns x.1).map (·.csi) ≠ some 0 ∨ (s.lbaBand x.1 x.2).1 ≠ o.src) }
    else t)).trimCache o.act

/-! ## Ends of media operations -/

/-- The bytes of a source of a Memory Copy. -/
def State.copyBytes (s : State) (x : Nat × Nat × Nat) : List Byte :=
  if x.1 = 1024 then s.memGet (slmBase + x.2.1) x.2.2
  else (s.blocks x.1 x.2.1 x.2.2).flatMap fun b => leBytes 4096 b.toNat

/-- A source of a Memory Copy is read through Pocket, by Cloak's class where its namespace is encrypted (R32, R399). -/
def State.copyRead (s : State) (x : Nat × Nat × Nat) : State :=
  if x.1 = 1024 then s.memTouch 2 (slmBase + x.2.1) x.2.2
  else s.forAll (List.range x.2.2) fun i t => t.partRead (t.dataClass x.1 2) 0 (lbaKey x.1 (x.2.1 + i)) 4096

/-- A Memory Copy moves its sources, one after the other, to its destination in Subsystem Local Memory (R290); class 2. -/
def State.copyDone (s : State) (c : Cmd) : State :=
  match c.fin with
  | .copy dst srcs =>
    let t := s.forAll srcs fun x u => u.copyRead x
    t.memPut 2 (slmBase + dst) (srcs.flatMap t.copyBytes)
  | _ => s

/-- The fabric reads the data of a command that completes, through Pocket: Cloak's class for an encrypted namespace (R32,
R399). -/
def State.sendData (s : State) (c : Cmd) : State :=
  match c.range with
  | some r => s.forAll (List.range r.2.2) fun i t => t.partRead (t.dataClass r.1 1) 0 (lbaKey r.1 (r.2.1 + i)) 4096
  | none => s

/-- The blocks a read returns: those the outer code rebuilt for it as rebuilt, the others as the map has them (R83, R290). -/
def State.readBlocks (s : State) (c : Cmd) (r : Nat × Nat × Nat) : List Block :=
  (s.blocks r.1 r.2.1 r.2.2).mapIdx fun i b => ((c.fixed.find? fun f => decide (f.1 = lbaKey r.1 (r.2.1 + i))).map (·.2)).getD b

/-- One media operation of a command has ended: the command completes with its last one (R302). -/
def State.cmdPart (s : State) (n : Nat) (st : Stat) : State :=
  match s.cmdNoOf n with
  | none => s
  | some c =>
    let c' : Cmd :=
      { c with
        parts := c.parts - 1
        sct := if c.sct = 0 ∧ c.sc = 0 then st.1 else c.sct
        sc := if c.sct = 0 ∧ c.sc = 0 then st.2 else c.sc }
    if c'.parts = 0 ∧ c'.points = [] then
      (s.when (decide (c'.sct = 0 ∧ c'.sc = 0)) fun u => (u.copyDone c).sendData c).complete c.id (c'.sct, c'.sc) c.dw0
        (if c'.sct = 0 ∧ c'.sc = 0 then
          (match c.data, c.range with
           | .none, some r => .blocks (s.readBlocks c r)
           | d, _ => d)
         else .none)
    else s.updCmd n fun _ => c'

/-- The actuator's media operation ends and the actuator is free. -/
def State.endJob (s : State) (a : Nat) (st : Stat) : State :=
  match s.jobOf a with
  | none => s
  | some j =>
    let t := (s.setJob a none).when (decide (s.get (R.CMD_JQ_WHY a) = 1)) fun t => t.releaseHold a
    match j.cmd with
    | some n => t.cmdPart n st
    | none => t

/-- A media operation that failed before it was issued ends its command's part. -/
def State.failQueued (s : State) (j : Job) (st : Stat) : State :=
  match j.cmd with
  | some n => s.cmdPart n st
  | none => s

/-- A weak track: `WEAK` on its zone, or its extent slot marked; code 0x19; its band queued for reclaim into the same class (R259). -/
def State.weakTrack (s : State) (a : Nat) (j : Job) (rung : Nat) : State :=
  let t := s.post 0x0B 0x19 warning noInst [s.ghead a j.lhead, j.track, rung]
  let p := t.lbaBand j.nsid j.lba
  match t.ns j.nsid with
  | none => t
  | some n =>
    if n.csi = 2 then
      let zi := j.lba / 262144
      let z := t.zone j.nsid zi
      (t.devZone j.nsid zi { z with weak := true, weakTrk := Nat.min 65535 (z.weakTrk + 1) }).reclaim p.1 1 z.dcls
    else
      let slot := p.1 * 256 + p.2 / 256
      (t.when (decide (n.csi = 0) && !t.weakSlots.contains slot) fun u => { u with weakSlots := u.weakSlots ++ [slot] }).reclaim p.1 1
        (t.band p.1).dcls

/-- Points of an actuator that wait for room in the media cache queue their writes again (R252, R254). -/
def State.planAgain (s : State) (a : Nat) : State := if s.pointsOf a = [] then s else s.planPoint a

/-- A write job returned as failed (R260): the band becomes DEFECT through a reclaim, or its zone Read Only when no band
can be taken. A cache track that cannot be written is left out of the log, and its long sectors are planned again; with no FREE band
left to clean the cache into, writes to the actuator's extents fail from then on. -/
def State.writeFailed (s : State) (a : Nat) (j : Job) : State :=
  let p := s.lbaBand j.nsid j.lba
  if j.kind = .durable then
    let t := (s.setClog a ((s.clog a).map fun t => if t.st = 0 ∧ t.pos = j.lba then { t with st := 2, secs := [] } else t)).planPoint a
    t.when (decide (t.cacheTracks a ≤ (t.clog a).length) && (t.headsOf a).all fun h => (t.freeOn h).isEmpty) fun u =>
      (u.put (V.mmgWrFault a) 1).post 0x0B 0x1A error noInst [0, 0, 0]
  else if (s.pickTarget p.1 (s.band p.1).dcls).isNone then
    match s.ns j.nsid with
    | none => s
    | some n =>
      if n.csi = 2 then
        let zi := j.lba / 262144
        let z := s.zone j.nsid zi
        ((s.devZone j.nsid zi { z with st := zRo, wp := Nat.min z.wp (j.lba % 262144) }).zeroRange j.nsid j.lba
          (262144 - j.lba % 262144)).post 0x0B 0x1A error noInst [j.nsid, zi, p.1]
      else (s.put (V.mmgWrFault a) 1).post 0x0B 0x1A error noInst [j.nsid, 0, p.1]
  else ((s.reclaim p.1 2 (s.band p.1).dcls).count R.MMG_CNT_DEFECT).addJob a j

/-- Zone Finish closes the track the write pointer stands in short: the remaining data is written as k' data sectors and the
parity after them (R50, R256). -/
def State.closeShort (s : State) (nsid z : Nat) : State :=
  let lba := z * 262144 + (s.zone nsid z).wp
  let j := s.trackJob .write nsid (lba - 1)
  let n := lba - (s.trackWrite nsid (lba - 1) 1 1).lba
  if (s.zone nsid z).wp = 0 ∨ 8 * j.k ≤ n ∨ (s.zone nsid z).wp % 65536 = 0 ∨ s.queuedWrite (s.lbaAct nsid lba) nsid (lba - 1) then s
  else s.addJob (s.lbaAct nsid (lba - 1)) (s.trackWrite nsid (lba - 1) (ceilDiv n 8) n)

/-- After a band has taken another's place its queued writes are those of the new tracks (R260). -/
def State.requeue (s : State) (a dst : Nat) : State :=
  let mine (n lba : Nat) : Bool := decide ((s.lbaBand n lba).1 = dst)
  let t := s.setJugq a ((s.jugq a).filter fun j => !(decide (j.kind = .write) && mine j.nsid j.lba))
  let ks := (s.vol.filter fun e => (match e.2 with | some v => !v.landed | none => false) &&
    mine (e.1 / 18446744073709551616) (e.1 % 18446744073709551616)).map (·.1)
  t.forAll ks fun k u => u.trackDue (k / 18446744073709551616) (k % 18446744073709551616)

end Sys2Proof.Machine
end

