-- ==== Sys2Proof/Machine/Channel.lean ====
section
/-!
DEFINITION. The read channels (chapter "Read channel and detection", R62 to R93): adaptation entries, framing, defects,
the first pass, the retry ladder and the outer-code rebuild.
-/

namespace Sys2Proof.Machine

/-! ## Consistency checks, shared by every enable (R382) -/

/-- A 0→1 transition of an enable bit: the lowest reason that holds is latched and the bit stays 0; otherwise the bit
is set and `pass` runs. Writing 1 to a bit that is 1 does nothing. The number is the reason, 0 for none (R382). -/
def State.enable (s : State) (en chk : Fld) (conds : List (Bool × Nat)) (pass : State → State) : State × Nat :=
  if s.on en then (s, 0)
  else match conds.find? (·.1) with
    | some c => ((s.put en 0).put chk c.2, c.2)
    | none => (pass (s.put en 1), 0)

/-- Loads a stretch of a block's window from the Tailor store (R69, R117). -/
def State.loadWin (s : State) (blk sel off n : Nat) : State :=
  let lo := winKey blk sel off
  { s with win := s.win.filter (fun e => decide (e.1 < lo)) ++
      s.tstore.filter (fun e => decide (lo ≤ e.1 ∧ e.1 < lo + n)) ++ s.win.filter (fun e => decide (lo + n ≤ e.1)) }

/-- A value lies between two limits. -/
def inR (lo hi v : Nat) : Bool := decide (lo ≤ v ∧ v ≤ hi)

/-! ## Adaptation entries (R69, R70) -/

/-- Offset of an adaptation entry. -/
def adaptOff (l z : Nat) : Nat := 0x4000 + (l * 64 + z) * 64

/-- An entry has `VALID` and passes its CRC. -/
def State.adaptOk (s : State) (a l z : Nat) : Bool :=
  bitOf (s.le 0x0C a (adaptOff l z + 0x3B) 1) 0 && crcOk (s.bytes 0x0C a (adaptOff l z) 64)

/-- The zones tried for a zone whose entry cannot be used: z − 1, z + 1, z − 2, and so on (R70). -/
def nearZones (z : Nat) : List Nat :=
  ((List.range 63).flatMap fun d =>
    (if d + 1 ≤ z then [z - (d + 1)] else []) ++ (if z + d + 1 < 64 then [z + d + 1] else []))

/-- The entry a read of local head `l` and zone `z` uses; none when the head has no valid entry (R70). -/
def State.entryFor (s : State) (a l z : Nat) : Option Nat :=
  (z :: nearZones z).find? fun y => s.adaptOk a l y

/-- Byte offsets of the 26 values that LMS adapts: gain, DC offset, asymmetry, the taps of both readers (R71). -/
def adaptFields : List Nat := [0, 1, 2, 3, 4, 5] ++ (List.range 20).map (· + 0x0C)

/-- The adapted working set at a load: the entry's own values (R71); the two gains are unsigned. -/
def State.entryVals (s : State) (a l z : Nat) : List Int :=
  adaptFields.map fun o =>
    if o < 2 then (s.le 0x0C a (adaptOff l z + o) 1 : Int)
    else toSigned 8 (s.le 0x0C a (adaptOff l z + o) 1)

/-- The two CTLE codes of an entry (R69). -/
def State.entryCtle (s : State) (a l z : Nat) : List Nat :=
  [s.le 0x0C a (adaptOff l z + 6) 1, s.le 0x0C a (adaptOff l z + 7) 1]

/-- Loads the entry of a read operation; a fallback sets TBL_CRC, is counted and writes code 0x10 (R70, R93). The zone
number 64 stands for a head without any valid entry, and for a zone whose entry marks both readers unusable (R65). The
reader flags are those of the entry that is loaded, a fallback entry's own included: which entry's flags count there the spec
leaves open (DESIGN CHOICE, log entry 58). -/
def State.loadEntry (s : State) (a : Nat) : State :=
  let r := s.rop a
  match r.job with
  | none => s
  | some j =>
    match s.entryFor a j.lhead j.zone with
    | none => s.setRop a { r with zone := 64, adapt := [], base := [], ctle := [], ctle0 := [], flags := 0, loaded := none }
    | some y =>
      let fl := s.le 0x0C a (adaptOff j.lhead y + 0x3B) 1
      let v := s.entryVals a j.lhead y
      let t := s.setRop a { r with zone := if bitOf fl 1 && bitOf fl 2 then 64 else y, adapt := v, base := v, flags := fl,
                                   ctle := s.entryCtle a j.lhead y, ctle0 := s.entryCtle a j.lhead y, loaded := some (j.lhead, j.zone),
                                   single := s.on (R.CHN_CTL_READER_SEL a) || bitOf fl 1 || bitOf fl 2 }
      t.when (decide (y ≠ j.zone)) fun t =>
        ((t.evt (R.CHN_EVT_TBL_CRC a)).count (R.CHN_CNT_TBLFB a)).post 0x0C 0x10 warning a [j.lhead, j.zone, y]

/-! ## Ends of a read operation -/

/-- Logical block address of the first block of a sector of a read (R44, R93). -/
def Job.sectorLba (j : Job) (sidx : Nat) : Nat := j.lba - j.lba % 8 + 8 * sidx - 8 * j.first

/-- The stored bytes of the blocks of a read that rung 5 rebuilt, by block address (R83). -/
def Job.rebuilt (j : Job) (fixed : List (Nat × List Byte)) : List (Nat × List Byte) :=
  fixed.flatMap fun f => (List.range 8).map fun q => (j.sectorLba f.1 + q, (f.2.drop (4096 * q)).take 4096)

/-- The channel writes the data of a read into staging, through Pocket; the sectors that rung 5 rebuilt are returned as rebuilt
(R32, R83). -/
def State.readData (s : State) (a : Nat) (st : Stat) : State :=
  match s.jobOf a with
  | some j =>
    if st = stOk ∧ j.kind = .read then
      let fx := j.rebuilt (s.rop a).fixed
      let t := s.forAll (List.range j.nlb) fun i t =>
        t.partWrite (8 + a) 0 (lbaKey j.nsid (j.lba + i))
          (((fx.find? fun f => decide (f.1 = j.lba + i)).map (·.2)).getD (t.storedBytes j.nsid (j.lba + i) (t.block j.nsid (j.lba + i))))
      match j.cmd with
      | some n => t.updCmd n fun c =>
          { c with fixed := c.fixed ++ fx.map fun f => (lbaKey j.nsid f.1, t.openBytes j.nsid f.1 f.2) }
      | none => t
    else s
  | none => s

/-- The read operation ends: its data is in staging, the channel is idle, the heater returns to its idle power (R112) and
the actuator's media operation ends. -/
def State.readEnds (s : State) (a : Nat) (st : Stat) : State := (((s.readData a st).dropRead a).opEnded a).endJob a st

/-- The sequencer has been given the read of the channel and has not executed the commit point of each sector of its first pass. -/
def State.uncommitted (s : State) (a : Nat) : Bool :=
  match (s.rop a).job with
  | some i => decide ((s.seqr a).lastId = some i.id ∧ s.get (V.seqUnits a) < i.count ∧ s.get (R.CHN_STAT_RUNG a) = 0)
  | none => false

/-- The outcome of a read is known. It is reported once its sequencer routine has passed the commit point of every sector:
nothing before a commit point is reported as done (R129). -/
def State.finishRead (s : State) (a : Nat) (st : Stat) : State :=
  if s.uncommitted a && decide (st ≠ stAborted) then s.setRop a { s.rop a with done := some st }
  else s.readEnds a st

/-- Shows a sector in `CHN_LASTF0` and `CHN_LASTF1` (R90). -/
def State.lastFail (s : State) (a : Nat) (j : Job) (x : Nat × Nat) (rung : Nat) : State :=
  s.puts [(R.CHN_LASTF0_TRACK a, j.track), (R.CHN_LASTF0_SIDX a, x.1), (R.CHN_LASTF1_LHEAD a, j.lhead),
    (R.CHN_LASTF1_ZONE a, j.zone), (R.CHN_LASTF1_DCLS a, j.dcls), (R.CHN_LASTF1_RUNG a, rung),
    (R.CHN_LASTF1_CAUSE a, x.2)]

/-- The two words of the last failure, as recorded. -/
def State.lastWords (s : State) (a : Nat) : List Nat :=
  [s.get (R.CHN_LASTF0_TRACK a) + s.get (R.CHN_LASTF0_SIDX a) * 16777216,
   s.get (R.CHN_LASTF1_LHEAD a) + s.get (R.CHN_LASTF1_ZONE a) * 16 + s.get (R.CHN_LASTF1_DCLS a) * 1024 +
     s.get (R.CHN_LASTF1_RUNG a) * 8192 + s.get (R.CHN_LASTF1_CAUSE a) * 65536]

/-- Sectors left unrecovered after rung 5: passed to rung 6 when they hold a protected value and rung 6 is enabled,
otherwise the command completes with Unrecovered Read Error (R85, R89). The actuator is released (R87). -/
def State.endLadder (s : State) (a : Nat) (j : Job) (xs : List (Nat × Nat)) (rung : Nat) : State :=
  if j.prot && bitOf (s.get (R.CHN_RETRY_RUNG_EN a)) 5 then
    let t := s.forAll xs fun x t =>
      let u := t.lastFail a j x 6
      u.post 0x0C 0x20 info a (u.lastWords a ++ [j.nsid])
    let t := (((t.dropRead a).opEnded a).put (R.CHN_STAT_RUNG a) 6).setJob a none
    ({ t with rung6 := t.rung6 ++ [j] }).when (decide (t.get (R.CMD_JQ_WHY a) = 1)) fun t => t.releaseHold a
  else
    let t := s.forAll xs fun x t =>
      let u := (t.lastFail a j x rung).count (R.CHN_CNT_URE a)
      u.post 0x0C 0x21 error a (u.lastWords a ++ [j.sectorLba x.1])
    t.finishRead a stUre

/-! ## The retry ladder (R85 to R87) -/

/-- Re-reads and decodes of a rung (R85). -/
def State.rungSteps (s : State) (a rung : Nat) : Nat :=
  match rung with
  | 1 => 4
  | 2 => 6
  | 3 => 4
  | 4 => if s.get (R.CHN_RETRY_AVG_REVS a) = 0 then 16 else s.get (R.CHN_RETRY_AVG_REVS a)
  | _ => 1

/-- A rung runs (R85, R86): enabled, not skipped for Limited Retry, for a head read from one reader, or for time. -/
def State.rungOn (s : State) (a rung : Nat) : Bool :=
  let r := s.rop a
  let lim := match r.job with | some j => j.limited | none => false
  bitOf (s.get (R.CHN_RETRY_RUNG_EN a)) (rung - 1) &&
    match rung with
    | 1 => !r.timeUp
    | 2 => !r.timeUp && !lim
    | 3 => !r.timeUp && !r.single
    | 4 => !r.timeUp && !lim
    | _ => true

/-- The next rung from 1 to 5 that runs after one. -/
def State.nextRung (s : State) (a rung : Nat) : Option Nat :=
  ([1, 2, 3, 4, 5].filter fun r => decide (rung < r)).find? fun r => s.rungOn a r

/-- The alternate sets of rung 1 (R85): A, gain +1.0 dB; B, gain −1.0 dB; C, `ASYM` doubled and `DCOFF` zero; D, CTLE boost
+2.0 dB. A code at the end of its range stays there (DESIGN CHOICE, log entry 58). -/
def rung1Set (step : Nat) (v : List Int) (c : List Nat) : List Int × List Nat :=
  match step with
  | 0 => (v.mapIdx fun i x => if i < 2 then clampI 0 255 (x + 8) else x, c)
  | 1 => (v.mapIdx fun i x => if i < 2 then clampI 0 255 (x - 8) else x, c)
  | 2 => (v.mapIdx fun i x => if 4 ≤ i ∧ i < 6 then clampI (-128) 127 (2 * x) else if 2 ≤ i ∧ i < 4 then 0 else x, c)
  | _ => (v, c.map fun x => x / 32 * 32 + Nat.min 31 (x % 32 + 4))

/-- A step of a rung starts: in rung 1 from the entry changed by the step's alternate set, in rung 2 at its off-track
position; the decodes of rung 3 after its re-read run from the replay buffer (R85, R90). -/
def State.rungStep (s : State) (a rung step : Nat) : State :=
  let t := s.when (decide (rung = 1)) fun t =>
    let r := t.rop a
    let x := rung1Set step r.base r.ctle0
    t.setRop a { r with adapt := x.1, ctle := x.2 }
  (t.rungOfs a rung step).put (R.CHN_STAT_REPLAY_BUSY a) (b2n (decide (rung = 3 ∧ 1 ≤ step)))

/-- Moves to the rung after `rung` with the sectors that remain, or ends the ladder, whose highest rung was `top` (R85). -/
def State.enterRung (s : State) (a rung top : Nat) (left : List (Nat × Nat)) : State :=
  let r := s.rop a
  match r.job with
  | none => s
  | some j =>
    if left = [] then (s.rungOfs a 0 0).finishRead a stOk
    else match s.nextRung a rung with
      | none => (s.rungOfs a 0 0).endLadder a j left top
      | some n =>
        ((((s.setRop a { r with todo := left, later := [], step := 0 }).puts
          [(R.CHN_STAT_RUNG a, n), (R.CMD_JQ_HELD a, 1), (R.CMD_JQ_WHY a, 1)]).loadEntry a).rungStep a n 0)

/-- The first pass has ended: the read completes, or its failed sectors enter the ladder (R85). -/
def State.passEnd (s : State) (a : Nat) : State :=
  let r := s.rop a
  match r.job with
  | none => s
  | some j =>
    if r.known < j.count then s
    else if r.abort then s.finishRead a stAborted
    else s.enterRung a 0 0 r.failed

/-- The outcome of a sector's first pass is known; a failed one is counted (R73, R78, R91). -/
def State.sectorKnown (s : State) (a : Nat) (x : Sect) (cause : Nat) : State :=
  let r := s.rop a
  let t := s.setRop a { r with known := r.known + 1,
                               failed := if cause = 0 then r.failed else r.failed ++ [(x.sidx, cause)] }
  (((t.puts [(V.seqDecOut a, 1), (R.CHN_STAT_REPLAY_BUSY a, b2n (r.dec.any (·.reframe)))]).when (decide (cause ≠ 0)) fun t => t.count (R.CHN_CNT_SECTERAS a))).passEnd a

/-! ## Meanings -/

/-- READ_OP_START: the channel takes the media operation its actuator runs and loads the entry where head or zone change;
otherwise the working set goes on (R70, R71). A held replay buffer refuses it (R82), so do a failed port (R99) and heads that
are not over the media (R88). Sectors committed as failed before a restart stay failed, and a restart that has no sector left to read
goes on where the first pass ended (R131). -/
def readOpStart (a : Act) (s : State) : State :=
  match s.jobOf a with
  | none => s
  | some j =>
    if !s.on (R.CHN_CTL_EN a) || s.on (R.CHN_REPLAY_HOLD a) || j.writes ||
        s.on (V.sptPortFail a) || decide (s.srvSt a ≠ srvFOLLOW) then s
    else
      let r := s.rop a
      let t := (s.setRop a { r with
          active := true, job := some j, failed := (s.seqr a).kept,
          single := s.on (R.CHN_CTL_READER_SEL a) || bitOf r.flags 1 || bitOf r.flags 2 }).biasOff a |>.puts
        [(V.tfhHtw a, 0), (V.tfhPreDone a, 0), (R.CHN_STAT_ACTIVE a, 1), (R.CHN_STAT_RUNG a, 0), (R.CHN_STAT_LOCK a, 0), (V.chnTaCount a, 0), (V.chnAgg a, 0)]
      let t := (t.when (decide (r.loaded ≠ some (j.lhead, j.zone))) fun u => u.loadEntry a).driveHeater a j.lhead j.zone false
      if j.count = 0 then t.passEnd a else t

/-- Clamps each adapted value to 16 LSB from the entry as loaded; a clamp sets LMS_CLAMP and is counted (R71). -/
def lmsApply (a : Act) (s : State) : List (Fin 26 × Int) → State
  | [] => s
  | (i, v) :: rest =>
    let r := s.rop a
    let e := r.base.getD i 0
    let c := clampI (e - 16) (e + 16) v
    lmsApply a ((s.setRop a { r with adapt := r.adapt.set i c }).when (decide (c ≠ v)) fun t =>
      (t.evt (R.CHN_EVT_LMS_CLAMP a)).count (R.CHN_CNT_LMSCLAMP a)) rest

/-- A gate of the sequencer is on (R126). -/
def State.gateOn (s : State) (a g : Nat) : Bool := bitOf (s.get (R.SEQ_STAT_GATES a)) g

/-- PREAMBLE_ACQUIRE: while the read gate is on (R126), the lock test first passes at bit 96 + 8 × `lock`, or not at all (R66, R67); LMS moves the
working set (R71). -/
def preambleAcquire (a : Act) (sidx : Fin 256) (lock : Option (Fin 8)) (adapt : List (Fin 26 × Int))
    (s : State) : State :=
  let r := s.rop a
  if !r.active || !s.gateOn a 1 then s
  else
    let t := s.setRop a { r with cur := some ⟨sidx, false, 0, false, 0, false, false, [], [], []⟩ }
    match (if r.zone = 64 then none else lock) with
    | some k =>
      lmsApply a (t.puts [(R.CHN_STAT_LOCK a, 1), (V.chnAcqBit a, 96 + 8 * k.val)])
        (if s.on (R.CHN_CTL_LMS_EN a) then adapt else [])
    | none => t.put (R.CHN_STAT_LOCK a) 0

/-- ACQUISITION_FAILURE: a sector not locked by bit 152 is an erasure for this pass (R67). -/
def acquisitionFailure (a : Act) (s : State) : State :=
  let r := s.rop a
  match r.cur with
  | none => s
  | some x =>
    if s.on (R.CHN_STAT_LOCK a) then s
    else (s.setRop a { r with cur := some { x with eras := true, cause := 1 } }).evt (R.CHN_EVT_ACQ_FAIL a)

/-- The accepted match of a sync-mark search: within the window and the distance limit, lowest distance first, then the
earliest (R79). -/
def bestMark (win hd : Nat) (l : List (Int × Nat)) : Option (Int × Nat) :=
  let ok := l.filter fun m => decide (-(win : Int) ≤ m.1 ∧ m.1 ≤ (win : Int) ∧ m.2 ≤ hd)
  ok.foldl (fun b m => match b with
    | none => some m
    | some x => if m.2 < x.2 ∨ m.2 = x.2 ∧ m.1 < x.1 then some m else some x) none

/-- SYNC_FRAMING: the SM1 and SM2 searches end (R79, R80). Each match is an offset from its prediction and a Hamming
distance. Of several SM2 matches in the window the one of R79's SM1 rule counts, lowest distance first, then the earliest: R79 gives
SM2 no rule of its own (DESIGN CHOICE, log entry 58). No search runs while the SM1 window is closed (R126). -/
def syncFraming (a : Act) (sm1 sm2 : List (Int × Nat)) (s : State) : State :=
  let r := s.rop a
  match r.cur with
  | none => s
  | some x =>
    if !s.gateOn a 2 then s
    else
    let s := s.put (V.seqSmOut a) 1
    let f1 := bestMark (s.get (R.CHN_SYNC_SM1_WIN a)) (s.get (R.CHN_SYNC_SM1_HD a)) sm1
    let f2 := bestMark 8 (s.get (R.CHN_SYNC_SM2_HD a)) sm2
    match f1, f2 with
    | some p, some q =>
      if q.1 = 0 ∨ p.2 < q.2 then s.setRop a { r with cur := some { x with frame := p.1 } }
      else ((s.setRop a { r with cur := some { x with frame := p.1 + q.1, reframe := true } }).evt
        (R.CHN_EVT_SM2_REFRAME a)).count (R.CHN_CNT_REFRAME a)
    | some p, none => s.setRop a { r with cur := some { x with frame := p.1 } }
    | none, some q =>
      ((s.setRop a { r with cur := some { x with frame := q.1, noSm1 := true } }).evt
        (R.CHN_EVT_SM1_MISS a)).count (R.CHN_CNT_SM1MISS a)
    | none, none =>
      (s.setRop a { r with cur := some { x with eras := true, cause := if x.eras then x.cause else 2 } }).evt
        (R.CHN_EVT_SYNC_FAIL a)

/-- FSM_SEARCH: a match at offset k re-frames the rest of the sector; a missed mark leaves it on the prediction; either
is counted (R81). Of several matches in the window the one of R79's rule counts, lowest distance first, then the earliest:
R81 gives no rule of its own (DESIGN CHOICE, log entry 58). No search runs while the FSM window is closed (R126). -/
def fsmSearch (a : Act) (fsm : List (Int × Nat)) (s : State) : State :=
  let r := s.rop a
  match r.cur with
  | none => s
  | some x =>
    if !s.gateOn a 3 then s
    else
    let s := s.put (V.seqFsmOut a) 1
    match bestMark 8 (s.get (R.CHN_SYNC_FSM_HD a)) fsm with
    | some q =>
      let t := s.setRop a { r with cur := some { x with fsm := x.fsm ++ [q.1] } }
      if q.1 = 0 then t else (t.evt (R.CHN_EVT_SM2_REFRAME a)).count (R.CHN_CNT_REFRAME a)
    | none => (s.setRop a { r with cur := some { x with fsm := x.fsm ++ [0] } }).count (R.CHN_CNT_REFRAME a)

/-- DEFECT_SPAN: a flagged span, from codeword bit `start` on, widened on both sides, mutes its reader or zeros its LLRs (R75, R76, R93).
Code 0x31 is
written at the sector whose flag makes the count m + 1, with that count: when in the pass it is written the spec leaves open
(DESIGN CHOICE, log entry 58). -/
def defectSpan (a : Act) (cls : DefectClass) (r0 r1 : Bool) (start len : Nat) (s : State) : State :=
  let r := s.rop a
  match r.cur with
  | none => s
  | some x =>
    if !s.on (R.CHN_CTL_DD_EN a) || (!r0 && !r1) then s
    else
      let w := widened start len (s.get (R.CHN_DD2_DD_PAD a))
      let zero := decide (cls = .dropout) || (r0 && r1) || r.single
      let newTa := decide (cls = .asperity) && !x.ta
      let t := (s.setRop a { r with cur := some { x with spans := x.spans ++ [(w.1, w.2, if zero then 0 else if r0 then 1 else 2)],
                                                         ta := x.ta || newTa } }).evt
        (match cls with
         | .asperity => R.CHN_EVT_DD_TA a
         | .dropout => R.CHN_EVT_DD_DROP a
         | .instability => R.CHN_EVT_DD_INST a)
      let t := t.when newTa fun t => t.bump (V.chnTaCount a) 1
      match r.job with
      | some j => t.when (newTa && decide (t.get (V.chnTaCount a) = j.mPar + 1)) fun t =>
          t.post 0x0C 0x31 warning a [j.track, s.ghead a j.lhead, t.get (V.chnTaCount a)]
      | none => t

/-- The layout of the track a read is on (R40, R46). -/
def State.readLayout (s : State) (a : Nat) (j : Job) : List Piece :=
  layTrack (regionBits s.fmtW s.fmtC (zeRate0 (s.zoneEnt (s.ghead a j.lhead) j.zone)) j.dcls) (j.kd + j.mPar)

/-- A signed byte of the entry a read has loaded. -/
def State.entryI8 (s : State) (a o : Nat) : Int :=
  toSigned 8 (s.le 0x0C a (adaptOff ((((s.rop a).loaded).map (·.1)).getD 0) (s.rop a).zone + o) 1)

/-- The readers in use, 0 and 1: `READER_SEL`, unless the entry in use marks one unusable (R64, R65). -/
def State.readersOf (s : State) (a : Nat) : Bool × Bool :=
  let f := (s.rop a).flags
  let sel := s.get (R.CHN_CTL_READER_SEL a)
  if bitOf f 1 || bitOf f 2 then (!bitOf f 2, !bitOf f 1) else (decide (sel ≠ 2), decide (sel ≠ 1))

/-- A sector with the LLRs that equaliser and detector make of its samples, with the working set in use (R69, R71, R72). -/
def State.withLlrs (s : State) (a : Nat) (x : Sect) (samples : List (BitVec 6 × BitVec 6)) : Sect :=
  match (s.rop a).job with
  | none => x
  | some j =>
    let v := (s.rop a).adapt
    let use := s.readersOf a
    let skew := toSigned 16 (s.le 0x0C a (adaptOff (((s.rop a).loaded.map (·.1)).getD 0) (s.rop a).zone + 8) 2)
    let target := (List.range 4).map fun i => s.entryI8 a (0x20 + i)
    let npf := (List.range 16).map fun i => s.entryI8 a (0x24 + i)
    let l := x.llrs (s.readLayout a j) ((v.drop 6).take 10) (v.drop 16) target npf skew use.1 use.2 samples
    { x with llr := l }

/-- SECTOR_SAMPLES_DONE: the sector's last sample is taken; `samples` are those of both readers at its bits, from its preamble on. The
detector makes its LLRs of them (R72); over `SECT_LIM` zero LLRs it is an erasure without decoding (R77). A pending RD_ABORT ends the
read at this boundary (R90). -/
def sectorSamplesDone (a : Act) (samples : List (BitVec 6 × BitVec 6)) (s : State) : State :=
  let r := s.rop a
  match r.cur with
  | none => s
  | some x =>
    let t := (s.setRop a { r with cur := none }).put (V.seqSampOut a) 1
    if s.on (V.chnAgg a) then (t.put (V.chnAgg a) 0).finishRead a stAborted
    else if x.eras then t.sectorKnown a x x.cause
    else if s.get (R.CHN_DD2_SECT_LIM a) < x.zeroLlr then t.sectorKnown a x 3
    else (t.setRop a { t.rop a with dec := r.dec ++ [s.withLlrs a x samples] }).when x.reframe fun u => u.put (R.CHN_STAT_REPLAY_BUSY a) 1

/-- Why a decoded sector of a read fails, 0 for none: its codeword does not satisfy every parity check, or its bytes fail
`MCRC`, the address or a `BCRC` (R45, R73); `none` is a decode that stopped before it had a codeword. -/
def State.decodeCause (s : State) (a : Nat) (sidx : Nat) (word : Option (List Bool)) : Nat :=
  match word, (s.rop a).job with
  | some w, some j => cwCause j.track (s.ghead a j.lhead) sidx w
  | _, _ => 4

/-- LDPC_CONVERGE: the oldest sector in the decoder converges or reaches its limit with the codeword given, and is checked
(R42 to R45, R73). -/
def ldpcConverge (a : Act) (word : Option (List Bool)) (s : State) : State :=
  let r := s.rop a
  match r.dec with
  | [] => s
  | x :: rest =>
    let c := s.decodeCause a x.sidx (x.decoded word)
    let t := s.setRop a { r with dec := rest }
    if c = 0 then t.sectorKnown a x 0
    else ((t.evt (R.CHN_EVT_LDPC_FAIL a)).count (R.CHN_CNT_LDPCFAIL a)).sectorKnown a x c

/-- LDPC_WINDOW_END: the first sample of the second following sector stops the oldest first-pass decode (R73). -/
def ldpcWindowEnd (a : Act) (s : State) : State :=
  let r := s.rop a
  match r.dec with
  | [] => s
  | x :: rest =>
    (((s.setRop a { r with dec := rest }).evt (R.CHN_EVT_LDPC_FAIL a)).count (R.CHN_CNT_LDPCFAIL a)).sectorKnown a x 4

/-- RETRY_RUNG: a re-read or buffer decode of rung 1 to 4 ends; the sector leaves the ladder, takes the rung's next
step, or waits for the next rung (R85, R259). A head that cannot be read recovers none (R65, R70). -/
def retryRung (a : Act) (recovered : Bool) (s : State) : State :=
  let r := s.rop a
  let n := s.get (R.CHN_STAT_RUNG a)
  if n = 0 ∨ 5 ≤ n then s
  else match r.job, r.todo with
    | some j, x :: rest =>
      if recovered && decide (r.zone ≠ 64) then
        let t := (s.setRop a { r with todo := rest, step := 0 }).when (decide (n = 4)) fun t => t.weakTrack a j n
        if rest = [] then t.enterRung a n n r.later else t.rungStep a n 0
      else if r.step + 1 < s.rungSteps a n then
        (s.setRop a { r with step := r.step + 1 }).rungStep a n (r.step + 1)
      else
        let t := s.setRop a { r with todo := rest, step := 0, later := r.later ++ [x] }
        if rest = [] then t.enterRung a n n (r.later ++ [x]) else t.rungStep a n 0
    | _, _ => s

/-- RETRY_TIME_LIMIT: `TIME_MS` expires in rungs 1 to 4; code 0x23, and the ladder goes on at rung 5 (R86). -/
def retryTimeLimit (a : Act) (s : State) : State :=
  let r := s.rop a
  let n := s.get (R.CHN_STAT_RUNG a)
  if n = 0 ∨ 5 ≤ n then s
  else
    let left := r.todo ++ r.later
    ((s.setRop a { r with timeUp := true }).post 0x0C 0x23 error a [n, left.length]).enterRung a 4 n left

/-- Sectors of a track that a rung-5 read gives as erasures: those without a codeword and those whose codeword fails a check
(R78). Sector `i` of the reads is data sector i of the track, or its parity sector after the data sectors (R50). -/
def State.erasedOf (s : State) (a : Nat) (reads : List (Option (List Bool))) : List Nat :=
  (List.range reads.length).filter fun i => decide (s.decodeCause a i (reads.getD i none) ≠ 0)

/-- The user bytes of every position of a track's outer codeword, from a rung-5 read: the positions a short track does not
have are zeros (R84). -/
def State.ocSectors (s : State) (a : Nat) (j : Job) (reads : List (Option (List Bool))) : List (List Byte) :=
  let user (i : Nat) : List Byte := match reads.getD i none with
    | some w => (cwBytes (prbsSeed j.track (s.ghead a j.lhead) i) w).take 32768
    | none => []
  (List.range j.kd).map user ++ List.replicate (j.k - j.kd) [] ++ (List.range j.mPar).map fun i => user (j.kd + i)

/-- OUTER_CODE_REBUILD: the track read of rung 5 ends with each sector's codeword as decoded, data sectors first (R83, R84,
R89). A sector that this read gives as trusted has left the ladder, whatever becomes of the others (R85). -/
def outerCodeRebuild (a : Act) (reads : List (Option (List Bool))) (s : State) : State :=
  let r := s.rop a
  if s.get (R.CHN_STAT_RUNG a) ≠ 5 then s
  else match r.job with
    | none => s
    | some j =>
      let reads := if r.zone = 64 then List.replicate (j.kd + j.mPar) none else reads
    let erased := s.erasedOf a reads
      let f := erased.length
      let pos := erased.map fun i => if i < j.kd then i else i + (j.k - j.kd)
      match ocRebuild j.mPar pos (s.ocSectors a j reads) with
      | none =>
        let left := r.todo.filter fun x => erased.contains x.1
        let t := (s.evt (R.CHN_EVT_OC_FAIL a)).when (decide (left.length < r.todo.length)) fun t => t.weakTrack a j 5
        let t := t.forAll (r.todo.filter fun x => !erased.contains x.1) fun x t => t.lastFail a j x 5
        if left = [] then t.finishRead a stOk else t.endLadder a j left 5
      | some secs =>
        let t := ((s.countN (R.CHN_CNT_OCREB a) f).when (decide (f = j.mPar)) fun t =>
          (t.evt (R.CHN_EVT_OC_UNVERIFIED a)).post 0x0C 0x22 warning a [j.track, s.ghead a j.lhead, f])
        let t := t.forAll r.todo fun x t => t.lastFail a j x 5
        let t := t.setRop a { t.rop a with
          fixed := (erased.filter fun i => decide (i < j.kd)).map fun i => (i, secs.getD i []) }
        (t.weakTrack a j 5).finishRead a stOk

/-- Every declared zone of every head of an actuator, as local head and zone. -/
def State.declared (s : State) (a : Nat) : List (Nat × Nat) :=
  (List.range s.nhpa).flatMap fun l => (s.zonesOf (s.ghead a l)).map fun z => (l, z)

/-- The conditions of R92, in order of their codes. -/
def State.chnReasons (s : State) (a : Nat) : List (Bool × Nat) :=
  let av := s.get (R.CHN_RETRY_AVG_REVS a)
  [ (decide (s.nact ≤ a), 0x0C01),
    ((s.declared a).any fun p => !s.adaptOk a p.1 p.2, 0x0C02),
    (!s.on R.MMG_CTL_FMT_COMMIT, 0x0C03),
    (decide (s.get (R.CHN_CTL_READER_SEL a) = 3), 0x0C04),
    (!s.on (R.SPT_STAT_ENUM_DONE a), 0x0C05),
    (!(inR 0 6 (s.get (R.CHN_SYNC_SM1_HD a)) && inR 0 6 (s.get (R.CHN_SYNC_SM2_HD a)) &&
       inR 0 4 (s.get (R.CHN_SYNC_FSM_HD a)) && inR 8 64 (s.get (R.CHN_SYNC_SM1_WIN a))), 0x0C06),
    (!(inR 1 30 (s.get (R.CHN_LDPC_IT_OTF a)) && inR 1 60 (s.get (R.CHN_LDPC_IT_RETRY a)) &&
       inR 1 6 (s.get (R.CHN_LDPC_GLOBAL_RETRY a)) && inR 8 127 (s.get (R.CHN_DD_TA_THR a)) &&
       inR 32 224 (s.get (R.CHN_DD_DROP_THR a)) && inR 8 255 (s.get (R.CHN_DD_DROP_LEN a)) &&
       inR 24 255 (s.get (R.CHN_DD_INST_THR a)) && inR 1024 24000 (s.get (R.CHN_DD2_SECT_LIM a)) &&
       inR 0 128 (s.get (R.CHN_DD2_DD_PAD a)) && inR 10 60000 (s.get (R.CHN_RETRY_TIME_MS a)) &&
       decide (av ≠ 1)), 0x0C07),
    ((s.declared a).any fun p =>
      let fl := s.le 0x0C a (adaptOff p.1 p.2 + 0x3B) 1
      bitOf fl 1 && bitOf fl 2, 0x0C08) ]

/-- `CHN_CTL.EN` 0→1: the table is loaded from the Tailor store, then R92 is checked (R69, R92); the next read loads its
entry. -/
def State.chnEnable (s : State) (a : Nat) : State × Nat :=
  if s.on (R.CHN_CTL_EN a) then (s, 0)
  else
    let t := if a < s.nact then s.loadWin 0x0C a 0x4000 0xA000 else s
    t.enable (R.CHN_CTL_EN a) (R.CHN_CHK_REASON a) (t.chnReasons a) fun u => u.setRop a { u.rop a with loaded := none }

/-- CHN_ENABLE. -/
def chnEnableCmd (a : Act) (s : State) : State := (s.chnEnable a).1

/-- RD_ABORT: the current read ends at the next sector boundary, its unfinished sectors as aborted (R90); the routine is
abandoned and does not come back (R90, R130). Between sectors, the boundary is now. -/
def rdAbort (a : Act) (s : State) : State :=
  let r := s.rop a
  if !r.active then s
  else
    let st := s.get (R.SEQ_STAT_STATE a)
    let t := if (st = seqRUN ∨ st = seqWAIT) ∧ s.on (R.SEQ_STAT_NR a) then s.abandon a abRdAbort
      else (((s.abandon a abRdAbort).setSeqr a { (s.abandon a abRdAbort).seqr a with returned := none }).setRop a r).puts [(R.CHN_STAT_ACTIVE a, 1),
        (R.CHN_STAT_RUNG a, s.get (R.CHN_STAT_RUNG a)), (R.CHN_STAT_LOCK a, s.get (R.CHN_STAT_LOCK a))]
    match r.cur with
    | some _ => t.put (V.chnAgg a) 1
    | none => (t.rungOfs a 0 0).finishRead a stAborted

/-- REPLAY_HOLD: `CHN_REPLAY.HOLD` freezes or releases the buffer (R82); an instance held in reset takes no write (R26). -/
def replayHold (a : Act) (v : Bool) (s : State) : State :=
  if s.nact ≤ a then s
  else (s.putB (R.CHN_REPLAY_HOLD a) v).when (v && !s.on (R.CHN_REPLAY_HOLD a)) fun t => t.bump (V.replayGen a) 1

/-- An address names a counter of R91's layout. -/
def isCounter (blk off : Nat) : Bool :=
  (regRows blk).any fun r => decide (r.lo = 16 ∧ r.w = 1 ∧ r.acc = .ro ∧ r.off ≤ off ∧
    off < r.off + (Nat.max 1 (r.stride * r.cnt)) ∧ (off - r.off) % (Nat.max 4 r.stride) = 0) &&
  (regRows blk).any fun q => decide (q.off = r.off ∧ q.lo = 31 ∧ q.acc = .wo)

/-- COUNTER_CLEAR: `CLR` zeros a counter; the `n` events of the same cycle are counted after it (R91). -/
def counterClear (blk inst off n : Nat) (s : State) : State :=
  if isCounter blk off then s.counterClear ⟨blk, inst, off, 0, 16, 0⟩ n else s

/-! ## Commands -/

/-- Meaning of READ_OP_START (R70). -/
def execReadOpStart (a : Act) (s : State) : Host.Outcome State Fault Refusal :=
  .next (readOpStart a s)

/-- Meaning of PREAMBLE_ACQUIRE (R66). -/
def execPreambleAcquire (a : Act) (sidx : Fin 256) (lock : Option (Fin 8)) (adapt : List (Fin 26 × Int)) (s : State) : Host.Outcome State Fault Refusal :=
  .next (preambleAcquire a sidx lock adapt s)

/-- Meaning of ACQUISITION_FAILURE (R67). -/
def execAcquisitionFailure (a : Act) (s : State) : Host.Outcome State Fault Refusal :=
  .next (acquisitionFailure a s)

/-- Meaning of SYNC_FRAMING (R80). -/
def execSyncFraming (a : Act) (sm1 sm2 : List (Int × Nat)) (s : State) : Host.Outcome State Fault Refusal :=
  .next (syncFraming a sm1 sm2 s)

/-- Meaning of FSM_SEARCH (R81). -/
def execFsmSearch (a : Act) (fsm : List (Int × Nat)) (s : State) : Host.Outcome State Fault Refusal :=
  .next (fsmSearch a fsm s)

/-- Meaning of DEFECT_SPAN (R75). -/
def execDefectSpan (a : Act) (cls : DefectClass) (r0 r1 : Bool) (start len : Nat) (s : State) : Host.Outcome State Fault Refusal :=
  .next (defectSpan a cls r0 r1 start len s)

/-- Meaning of SECTOR_SAMPLES_DONE (R77). -/
def execSectorSamplesDone (a : Act) (samples : List (BitVec 6 × BitVec 6)) (s : State) : Host.Outcome State Fault Refusal :=
  .next (sectorSamplesDone a samples s)

/-- Meaning of LDPC_CONVERGE (R73). -/
def execLdpcConverge (a : Act) (word : Option (List Bool)) (s : State) : Host.Outcome State Fault Refusal :=
  .next (ldpcConverge a word s)

/-- Meaning of LDPC_WINDOW_END (R73). -/
def execLdpcWindowEnd (a : Act) (s : State) : Host.Outcome State Fault Refusal :=
  .next (ldpcWindowEnd a s)

/-- Meaning of RETRY_RUNG (R85). -/
def execRetryRung (a : Act) (recovered : Bool) (s : State) : Host.Outcome State Fault Refusal :=
  .next (retryRung a recovered s)

/-- Meaning of RETRY_TIME_LIMIT (R86). -/
def execRetryTimeLimit (a : Act) (s : State) : Host.Outcome State Fault Refusal :=
  .next (retryTimeLimit a s)

/-- Meaning of OUTER_CODE_REBUILD (R83). -/
def execOuterCodeRebuild (a : Act) (reads : List (Option (List Bool))) (s : State) : Host.Outcome State Fault Refusal :=
  .next (outerCodeRebuild a reads s)

/-- Meaning of CHN_ENABLE (R92). -/
def execChnEnable (a : Act) (s : State) : Host.Outcome State Fault Refusal :=
  .next (chnEnableCmd a s)

/-- Meaning of RD_ABORT (R90). -/
def execRdAbort (a : Act) (s : State) : Host.Outcome State Fault Refusal :=
  .next (rdAbort a s)

/-- Meaning of REPLAY_HOLD (R82). -/
def execReplayHold (a : Act) (v : Bool) (s : State) : Host.Outcome State Fault Refusal :=
  .next (replayHold a v s)

/-- Meaning of COUNTER_CLEAR (R91). -/
def execCounterClear (blk inst off n : Nat) (s : State) : Host.Outcome State Fault Refusal :=
  .next (counterClear blk inst off n s)

end Sys2Proof.Machine
end

