-- ==== Sys2Proof/Machine/Spotlight.lean ====
section
/-!
DEFINITION. The head interface, the preamp bus, the energy assist and the fly height (chapter "Write path, energy assist
and fly height", R94 to R122).
-/

namespace Sys2Proof.Machine

/-! ## Entries (R115, R116) -/

/-- A field of a Spotlight head entry. -/
def State.headEnt (s : State) (a l off n : Nat) : Nat := s.le 0x12 a (0x1000 + l * 64 + off) n

/-- A Spotlight head entry is valid: `VALID`, its CRC, every field in range (R115, R118). The table of R115 gives the range
of `LAS_BIAS` for every entry, whatever `ASSIST` holds (log entry 14). -/
def State.headEntOk (s : State) (a l : Nat) : Bool :=
  let f := s.headEnt a l
  bitOf (f 1 1) 0 && decide (f 1 1 < 4) && crcOk (s.bytes 0x12 a (0x1000 + l * 64) 64) && inR 0 2 (f 0 1) &&
    inR 50 3000 (f 2 2) && inR 50 3000 (f 4 2) && inR 100 3000 (f 6 2) && inR 100 3000 (f 8 2) &&
    inR 200 4000 (f 0xA 2) && inR 200 4000 (f 0xC 2) && inR 0 5000 (f 0xE 2) && inR 10 2000 (f 0x10 2) &&
    inR 0 600 (f 0x12 2) && decide (f 0x14 2 * 10 < f 0xE 2) && decide (f 0x16 38 = 0)

/-- A field of a Spotlight write entry. -/
def State.writeEnt (s : State) (a l z off n : Nat) : Nat := s.le 0x12 a (0x2000 + (l * 64 + z) * 32 + off) n

/-- A Spotlight write entry is valid (R116, R118). -/
def State.writeEntOk (s : State) (a l z : Nat) : Bool :=
  let f := s.writeEnt a l z
  decide (f 5 1 = 1) && crcOk (s.bytes 0x12 a (0x2000 + (l * 64 + z) * 32) 32) && inR 0 127 (f 0 1) &&
    inR 0 127 (f 1 1) && inR 0 31 (f 2 1) && inR 0 16 (f 3 1) && inR 0 16 (f 4 1) && inR 0 2000 (f 6 2) && decide (f 0x10 12 = 0)

/-- Sets a local head's write-disabled bit (R111, R119). Its OPEN bands are moved by reclaim (R261). -/
def State.writeDisable (s : State) (a l : Nat) : State :=
  let t := s.put (R.SPT_HDWP_WP a) (s.get (R.SPT_HDWP_WP a) ||| 2 ^ l)
  let open_ := t.bands.filter fun e => match e.2 with
    | some b => decide (b.st = .open_ ∧ e.1 / 1048576 = s.ghead a l)
    | none => false
  t.forAll open_ fun e u => u.reclaim e.1 2 (u.band e.1).dcls

/-- Firmware marks a reader unusable in every adaptation entry of a head and renews each entry's CRC (R65, R111). -/
def State.markReader (s : State) (a l rdr : Nat) : State :=
  s.forAll (List.range 64) fun z t =>
    let o := adaptOff l z
    let fl := t.le 0x0C a (o + 0x3B) 1
    let u := t.putWin 0x0C a (o + 0x3B) (leBytes 1 (fl ||| (if rdr = 0 then 4 else 2)))
    u.putWin 0x0C a (o + 0x3C) (leBytes 4 (crc32c (u.bytes 0x0C a o 60)))

/-! ## Write values of a track (R105, R108, R118) -/

/-- The peak laser current of R105 in 0.1 mA, rounded to nearest with ties up. -/
def laserPeak (ith slope tgt : Nat) (adj : Int) : Nat :=
  let num : Int := (ith * slope : Nat) + 1000 * ((tgt : Int) + 5 * adj)
  ((2 * num + 10 * slope) / (20 * slope)).toNat

/-- Writes `PA_LPEAK`, clamped to `LAS_MAX` (R105). -/
def State.setPeak (s : State) (a l i : Nat) : State :=
  let mx := s.headEnt a l 0x12 2
  if mx < i then
    (((s.paPut a l 0x13 mx).evt (R.SPT_EVT_LAS_CLAMP a)).count (R.SPT_CNT_LASCLAMP a)).post 0x12 0x12 warning a
      [s.ghead a l, i, mx]
  else s.paPut a l 0x13 i

/-- Channel rate of a media operation in bit/s at the spindle's present speed (R52, R63). -/
def State.chnRate (s : State) (a : Nat) (j : Job) : Nat :=
  zeRate0 (s.zoneEnt (s.ghead a j.lhead) j.zone) * scaleDc j.dcls * s.get R.CRL_SPEED_SPEED / 7200000

/-- Takes the write entry of a track at its start: write current, overshoot, precompensation, bias and peak current, with
the write clock (R102, R105, R108). An invalid entry write-disables the head and is recorded (R118); its code 0x15 carries kind 0 and
the zone as the value, which R122 leaves open (DESIGN CHOICE, log entry 74). -/
def State.loadWriteValues (s : State) (a : Nat) (j : Job) : State :=
  let l := j.lhead
  if !s.headEntOk a l || !s.writeEntOk a l j.zone then
    (s.writeDisable a l).post 0x12 0x15 warning a [s.ghead a l, 0, j.zone]
  else
    let f := s.writeEnt a l j.zone
    let t := ((s.paPut a l 0x10 (f 0 1)).paPut a l 0x11 (f 1 1 + f 2 1 * 128)).puts
      [(V.sptPc1 a, f 3 1), (V.sptPc2 a, f 4 1), (V.chnWclk a, s.chnRate a j)]
    match s.headEnt a l 0 1 with
    | 1 => ((t.paPut a l 0x12 (s.headEnt a l 0x14 2)).puts [(V.sptLbias a, 1), (V.sptLbHead a, l)]).setPeak a l
        (laserPeak (s.headEnt a l 0xE 2) (s.headEnt a l 0x10 2) (f 6 2) (toSigned 8 (f (8 + j.dcls) 1)))
    | 2 => (t.paPut a l 0x12 0).setPeak a l (f 0xE 2)
    | _ => t

/-! ## Lanyard (R94 to R99) -/

/-- CRC-8 of a frame's bits: x^8 + x^2 + x + 1, initial value 0 (R95). -/
def crc8 (l : List Bool) : BitVec 8 :=
  l.foldl (fun c b => if xor (c.getLsbD 7) b then (c <<< 1) ^^^ 0x07#8 else c <<< 1) 0#8

/-- Header of a register transaction: read, `HSEL`, address (R95). -/
def lyHeader (read : Bool) (hsel addr : Nat) : Nat := 32768 * b2n read + hsel % 16 * 2048 + addr % 2048

/-- The 40 bits of a register write as Spotlight sends them (R95). -/
def lyFrame (hsel addr data : Nat) : List Bool :=
  let b := natBits 16 (lyHeader false hsel addr) ++ natBits 16 data
  b ++ natBits 8 (crc8 b).toNat

/-- The 24 bits of a register read as Spotlight sends them (R95). -/
def lyReadFrame (hsel addr : Nat) : List Bool :=
  let b := natBits 16 (lyHeader true hsel addr)
  b ++ natBits 8 (crc8 b).toNat

/-- Addresses the preamp only reads out (R97). -/
def paReadOnly (addr : Nat) : Bool := [0x000, 0x001, 0x002, 0x005, 0x019, 0x01A].contains addr

/-- Width of a writable preamp register (R97); the two laser currents and the measurement select, to which R97 gives no
width, keep 16 bits. -/
def paWidth (addr : Nat) : Nat :=
  match addr with
  | 0x004 => 4 | 0x010 => 7 | 0x011 => 12 | 0x014 => 12 | _ => 16

/-- `PA_FLT_N` of a port is low while a fault flag stands (log entry 59); `SPT_STAT.PA_FLT` shows it (R119). -/
def State.showPaFlt (s : State) (a : Nat) : State := s.putB (R.SPT_STAT_PA_FLT a) (decide (s.paGet a 0xF 0x002 ≠ 0))

/-- What a write of a register does in the preamp (R97): common registers at `HSEL` 0xF, the others for heads 0 to 9. -/
def State.preampWrite (s : State) (a hsel addr data : Nat) : State :=
  if (addr < 0x010 ∧ hsel ≠ 0xF) ∨ (0x010 ≤ addr ∧ 9 < hsel) ∨ 0x020 ≤ addr ∨ paReadOnly addr then s
  else if addr = 0x003 then
    (s.paSet a 0xF 0x002 (s.paGet a 0xF 0x002 - (s.paGet a 0xF 0x002 &&& data))).showPaFlt a
  else
    (s.paSet a hsel addr (data % 2 ^ paWidth addr)).when (decide (addr = 0x004)) fun t =>
      t.put (R.SPT_STAT_SEL_HEAD a) data

/-- The port has failed (R99); code 0x13 carries the header of its last transaction (R122). -/
def State.portFail (s : State) (a : Nat) : State :=
  (((s.evt (R.SPT_EVT_LY_FAIL a)).endWrite a abPort false).puts [(V.sptPortFail a, 1), (V.sptTry a, 0)]).post
    0x12 0x13 error a [a, s.get (V.sptHdr a)]

/-- A register transaction failed: it is counted and repeated up to three times, and the fourth failure fails the port
(R99). -/
def State.lanyardFail (s : State) (a : Nat) : State :=
  let t := s.count (R.SPT_CNT_LYCRC a)
  if 3 ≤ s.get (V.sptTry a) then t.portFail a else t.bump (V.sptTry a) 1


/-- The write gate of an actuator may open (R99, R109, R111, R118): its port works, the power-fail wire is low, its gate is not
held and the selected head is not write-disabled. A touchdown of the mate holds writes to come, not one in progress (R113). -/
def State.gateMay (s : State) (a : Nat) : Bool :=
  s.on (R.SPT_CTL_EN a) && bitOf (s.get (R.SEQ_STAT_GATES a)) 0 && !s.on V.pfWire && !s.gateHeld a &&
    !s.headNoWr a (s.get (R.SPT_STAT_SEL_HEAD a))

/-- LANYARD_GATE_FRAME: code 0x5A opens the write gate, 0xA5 closes it, any other code is ignored (R95, R96). The gate
opens only in a write window (R109); write current and overshoot as last written come into effect (R97); the assist-gate
request goes with it (R106, R107). A permission given at a wedge whose own sample, posted once the fragment has begun, was bad
or off track is withdrawn with the gate open (R150, log entry 12). -/
def lanyardGateFrame (a : Act) (code : BitVec 8) (s : State) : State :=
  if code = 0x5A#8 then
    if s.gateMay a then
      let l := s.get (R.SPT_STAT_SEL_HEAD a)
      let t := s.puts [(R.SPT_STAT_WG a, 1), (R.SPT_STAT_AG_REQ a, 1), (V.sptIw a, s.paGet a l 0x10),
        (V.sptOs a, s.paGet a l 0x11), (V.sptWgT a, 0)]
      t.when (!t.on (V.srvSmpOk a)) fun u => u.withdraw a (if u.on (V.srvGood0 a) then wiPes else wiBad)
    else s
  else if code = 0xA5#8 then s.puts [(R.SPT_STAT_WG a, 0), (R.SPT_STAT_AG_REQ a, 0)]
  else s

/-- LANYARD_REG_WRITE: the preamp judges the frame as it receives it, the line's errors included, and answers 1010
(accepted) or 0101 (CRC error, not applied), again with the line's errors, or nothing; Spotlight takes any answer but 1010
as a failed attempt (R95, R97, R99). A write takes effect when its accepted status is returned, and not without one (R96). -/
def lanyardRegWrite (a : Act) (hsel : Fin 16) (addr : Fin 2048) (data : BitVec 16) (err : BitVec 40)
    (ret : Option (BitVec 4)) (s : State) : State :=
  if !s.on (R.SPT_CTL_EN a) || s.on (V.sptPortFail a) then s
  else
    let s := s.put (V.sptHdr a) (lyHeader false hsel addr)
    let rx := List.zipWith xor (lyFrame hsel addr data.toNat) (natBits 40 err.toNat)
    let ok := decide (crc8 (rx.take 32) = BitVec.ofNat 8 (bitsNat (rx.drop 32)))
    let t := s.when (ok && ret.isSome) fun t =>
      t.preampWrite a (bitsNat ((rx.drop 1).take 4)) (bitsNat ((rx.drop 5).take 11)) (bitsNat ((rx.drop 16).take 16))
    if ret.map (fun e => (if ok then 0xA#4 else 0x5#4) ^^^ e) = some 0xA#4 then t.put (V.sptTry a) 0 else t.lanyardFail a

/-- LANYARD_REG_READ: the preamp judges header and CRC as it receives them, the line's errors included; then the data and the CRC-8
that come back; nothing, or data that fails its CRC, is a failed attempt (R95, R99). A preamp that receives a header with a wrong
CRC returns nothing: R95 gives a status for a write alone (DESIGN CHOICE, log entry 59). A register the preamp owns is kept as
read (R97). -/
def lanyardRegRead (a : Act) (hsel : Fin 16) (addr : Fin 2048) (err : BitVec 24) (ret : Option (BitVec 16 × BitVec 8))
    (s : State) : State :=
  if !s.on (R.SPT_CTL_EN a) || s.on (V.sptPortFail a) then s
  else
    let s := s.put (V.sptHdr a) (lyHeader true hsel addr)
    let rx := List.zipWith xor (lyReadFrame hsel addr) (natBits 24 err.toNat)
    match (if crc8 (rx.take 16) = BitVec.ofNat 8 (bitsNat (rx.drop 16)) then ret else none) with
    | none => s.lanyardFail a
    | some r =>
      if crc8 (natBits 16 r.1.toNat) = r.2 then
        (s.put (V.sptTry a) 0).when (paReadOnly addr) fun t => (t.paSet a hsel addr r.1.toNat).showPaFlt a
      else s.lanyardFail a

/-! ## Enable and enumeration (R100, R101, R121) -/

/-- `AG_LEAD` and `AG_LAG` within 16 servo cells at 7,200 r/min, and `WG_ADV` 60 (R106, R107). -/
def State.agOk (s : State) (a : Nat) : Bool :=
  let rate := s.fmtC * s.fmtW * 120
  decide (s.get (R.SPT_AG_AG_LEAD a) * rate ≤ 16000000000 ∧ s.get (R.SPT_AG_AG_LAG a) * rate ≤ 16000000000 ∧
    s.get (R.SPT_AG_WG_ADV a) = 60)

/-- `SPT_CTL.EN` 0→1: tables loaded, checks of R121 that need no enumeration, then enumeration starts (R100, R117). -/
def State.sptEnable (s : State) (a : Nat) : State × Nat :=
  if s.on (R.SPT_CTL_EN a) then (s, 0)
  else
    let t := if a < s.nact then s.loadWin 0x12 a 0x1000 0x6000 else s
    t.enable (R.SPT_CTL_EN a) (R.SPT_CHK_REASON a)
      [ (decide (s.nact ≤ a), 0x1201),
        ((List.range t.nhpa).any fun l => !t.headEntOk a l, 0x1204),
        ((t.declared a).any fun p => !t.writeEntOk a p.1 p.2, 0x1205),
        (!t.agOk a, 0x1206) ]
      fun u => u.puts [(V.sptEnumBusy a, 1), (V.sptPortFail a, 0), (V.sptTry a, 0), (R.SPT_STAT_ENUM_DONE a, 0)]

/-- SPT_ENABLE. -/
def sptEnableCmd (a : Act) (s : State) : State := (s.sptEnable a).1

/-- Keeps a measured load for the inventory (R114, R379). -/
def State.setLoad (s : State) (h k v : Nat) : State := { s with loads := Tab.set 0 s.loads (h * 8 + k) v }

/-- A measured resistance outside its limits (R114): recorded; a writer or heater write-disables the head, a reader is
marked unusable. -/
def State.judgeLoad (s : State) (a l kind v : Nat) : State :=
  let f := s.headEnt a l
  let bad := match kind with
    | 1 => decide (v < f 2 2 * 10 ∨ f 4 2 * 10 < v)
    | 2 => decide (v < f 2 2 * 10 ∨ f 4 2 * 10 < v)
    | 3 => decide (v < f 6 2 ∨ f 8 2 < v)
    | 4 => decide (v < f 0xA 2 ∨ f 0xC 2 < v)
    | _ => false
  if bad then
    let t := (s.evt (R.SPT_EVT_MEAS_OOR a)).post 0x12 0x15 warning a [s.ghead a l, kind, v]
    if kind = 1 then t.markReader a l 0 else if kind = 2 then t.markReader a l 1 else t.writeDisable a l
  else s

/-- De-emphasis codes for a flex length in 0.1 mm, steps of 0.5 dB (R104). -/
def deemph (l : Nat) : Nat := if l ≤ 400 then 0 else if l ≤ 800 then 4 else 7

/-- ENUMERATION_COMPLETE: the preamp's identity and capability, the resistances of each head in the order of kinds 1 to
4, and the flex length in 0.1 mm (R100, R101, R104). Every head gets its reader biases; its laser bias stays 0 until a write
selects the head (R105). -/
def enumerationComplete (a : Act) (paId paCap : BitVec 16) (loads : List (List Nat)) (flex : Nat) (s : State) : State :=
  if !s.on (V.sptEnumBusy a) then s
  else
    let t := s.puts [(V.sptEnumBusy a, 0), (V.sptCap a, paCap.toNat)]
    let cap := paCap.toNat
    let why :=
      if paId.toNat / 256 ≠ 1 ∨ cap % 16 ≠ s.nhpa then 0x1202
      else if (List.range s.nhpa).any fun l => decide (s.headEnt a l 0 1 ≠ cap / 16 % 4) then 0x1203
      else if 1200 < flex ∧ s.on (R.SPT_WD_AUTO a) then 0x1207
      else 0
    if why = 0 then
      let t := t.forAll (List.range s.nhpa) fun l t =>
        let t := t.forAll [1, 2, 3, 4] fun k t =>
          let v := (loads.getD l []).getD (k - 1) 0
          (t.setLoad (t.ghead a l) k v).judgeLoad a l k v
        (((t.paPut a l 0x15 (Config.readerBias a l)).paPut a l 0x12 0).paPut a l 0x14 0).paPut a l 0x13 0
      (t.when (s.on (R.SPT_WD_AUTO a)) fun t => t.put (R.SPT_WD_DEEMPH a) (deemph flex)).puts
        [(V.sptFlexL a, flex), (R.SPT_STAT_ENUM_DONE a, 1)]
    else
      (t.puts [(R.SPT_CTL_EN a, 0), (R.SPT_CHK_REASON a, why)]).when (decide (why ≠ 0x1207)) fun t =>
        (t.evt (R.SPT_EVT_ENUM_FAIL a)).post 0x12 0x14 error a [a, paId.toNat, cap]

/-! ## Faults and inhibits (R109, R111, R119) -/

/-- PREAMP_FAULT: `PA_FLT_N` falls with the `PA_STATUS` read; `stays` says it stays low after the flags are cleared, `latch`
that the laser-off latch arrives together with it: then both flags are set and both records written (R110, R111). An
instance held in reset sees nothing (R26). -/
def preampFault (a : Act) (status : BitVec 16) (stays latch : Bool) (s : State) : State :=
  if s.nact ≤ a then s
  else
  let l := s.get (R.SPT_STAT_SEL_HEAD a)
  let b (i : Nat) : Bool := status.getLsbD i
  let t := (((s.when latch fun t => t.put (R.SPT_STAT_LATCH a) 1).endWrite a abPaFault latch).tdAbortOn a abPaFault).puts
    [(R.SPT_PAFLT_PASTAT a, status.toNat), (R.SPT_PAFLT_FHEAD a, l)]
  let t := (t.evt (R.SPT_EVT_PA_FAULT a)).count (R.SPT_CNT_PAFLT a)
  let t := t.when (b 3) fun t => t.paPut a l 0x13 0
  let t := t.when (b 5) fun t => (t.paPut a l 0x14 0).put (V.tfhIdle a) 0
  let t := t.when (b 0 || b 1 || b 2 || b 3 || b 4 || b 5 || b 11) fun t => t.writeDisable a l
  let t := t.when (b 6) fun t => t.markReader a l 0
  let t := t.when (b 7) fun t => t.markReader a l 1
  let t := t.when (b 8 || b 9 || b 10) fun t => t.puts [(V.sptHold a, 1), (V.sptHold100 a, 0)]
  let t := t.put (V.sptHdr a) (lyHeader false 0xF 0x003)
  let t := ((t.paSet a 0xF 0x002 (if stays then status.toNat else 0)).showPaFlt a).putB (R.SPT_STAT_PA_FLT a) stays
  let t := t.post 0x12 0x10 error a [status.toNat + l * 65536, a]
  t.when stays fun t => t.portFail a

/-- PREAMP_WRITE_HOLD_END: the 100 ms hold is over; the port stays held until the flag reads 0 (R111). -/
def preampWriteHoldEnd (a : Act) (flagClear : Bool) (s : State) : State :=
  if flagClear then
    ((s.puts [(V.sptHold a, 0), (V.sptHold100 a, 0)]).paSet a 0xF 0x002
      (s.paGet a 0xF 0x002 - (s.paGet a 0xF 0x002 &&& 0x700))).showPaFlt a
  else s.when (s.on (V.sptHold a)) fun t => t.put (V.sptHold100 a) 1

/-- WR_INH: 1 ends a write in progress, once the register's write has completed, and inhibits writes (R109, R110; DEDUCED, log entry
75); an instance held in reset takes no write (R26). -/
def wrInh (a : Act) (v : Bool) (s : State) : State :=
  if s.nact ≤ a then s
  else (s.putB (R.SPT_CTL_WR_INH a) v).when (v && !s.on (R.SPT_CTL_WR_INH a)) fun t => t.endWrite a abInhibit false

/-- HDWP_CLEAR: 1 to a bit re-enables writes on that head (R119); a bit that the hardware sets in the same cycle stays set (R18). An
instance held in reset takes no write (R26). -/
def hdwpClear (a : Act) (mask hw : BitVec 10) (s : State) : State :=
  if s.nact ≤ a then s
  else s.put (R.SPT_HDWP_WP a) (s.get (R.SPT_HDWP_WP a) - (s.get (R.SPT_HDWP_WP a) &&& mask.toNat) ||| hw.toNat)

/-- PREHEAT_DONE: the wedges of `TFH_PRE` have passed at write heater power (R112). -/
def preheatDone (a : Act) (s : State) : State :=
  s.when (s.on (V.tfhHtw a)) fun t => t.puts [(V.tfhPreDone a, 1), (V.tfhPre a, 0)]

/-! ## Touchdown (R113) -/

/-- The queue of an actuator is held for a touchdown or a measurement (R113, R114, R301). -/
def State.holdQueue (s : State) (a : Nat) : State := s.puts [(R.CMD_JQ_HELD a, 1), (R.CMD_JQ_WHY a, 2)]

/-- Centre track of a zone of a head (R113). -/
def State.zoneCentre (s : State) (h z : Nat) : Nat := (zeStart (s.zoneEnt h z) + s.zoneEnd h z) / 2

/-- Heater power of a touchdown step, clamped to `HTR_MAX` (R112); a head that has not passed the checks of R121 is not driven, and
one whose entry has become invalid has its heater at 0 (R118). -/
def State.tdHeater (s : State) (a h p : Nat) : State :=
  let l := s.localHead h
  if !s.on (V.tfhPassed h) then s.paPut a l 0x14 0
  else if !s.tfhHeadOk h then s.heaterBad a l (s.tfhField h 9 1) p
  else s.setHeater a l (s.tfhField h 9 1) p

/-- The first step of a touchdown, on the calibration track: the centre track of `TD_ZONE` (R113). -/
def State.tdBegin (s : State) (a : Nat) : State :=
  let h := s.get V.tdH
  let p := s.tfhField h 4 2
  ((s.puts [(V.tdP, p), (V.tdStep, 1), (V.tdSum, 0), (V.tdHits, 0), (V.tdWait, 0)]).goTrack a (s.localHead h)
    (s.zoneCentre h (s.tfhField h 9 1))).tdHeater a h p

/-- The heads of an actuator are unloaded, on the ramps (R114). -/
def State.ramped (s : State) (a : Nat) : Bool :=
  decide (s.srvSt a = srvUNLOADED ∨ s.srvSt a = srvOFF) && !s.on (V.stmLoaded a)

/-- A write operation of actuator `a` has ended: what waited for it starts (R113, R114). -/
def State.writeOpEnded (s : State) (a : Nat) : State :=
  let t := s.when (s.on V.tdWait && decide (s.actOf (s.get V.tdH) = a)) fun t => t.tdBegin a
  t.when (t.on (V.sptMeasWait a)) fun t =>
    let ok := decide (t.get (V.sptMeasKind a) ≠ 5) || t.ramped a
    if ok then t.puts [(V.sptMeasWait a, 0), (R.SPT_STAT_MEAS_BUSY a, 1)]
    else (t.puts [(V.sptMeasWait a, 0), (V.sptMeasRef a, 1)]).releaseHold a

/-- `TFH_TD.GO` on a head: started, or refused as busy (0x000F) or not started (0x000A) (R113); `TD_HEAD` stores the head in every
case (R17). A start sets `TD_PWR` to 0, which NO_CONTACT leaves there: R113 gives the result's power for CONTACT and a refusal only
(DESIGN CHOICE, log entry 74). -/
def State.tdGo (s : State) (h : Nat) : State × Nat :=
  let a := s.actOf h
  let s := s.put R.TFH_TD_TD_HEAD h
  if s.on R.TFH_TD_RES_BUSY then (s, 0x000F)
  else
    let t := s.put V.tdH h
    if !(decide (srvACQUIRE ≤ s.srvSt a ∧ s.srvSt a ≤ srvHOLD)) || !s.on R.CRL_STAT_AT_SP then
      (((t.puts [(R.TFH_TD_RES_RESULT, 3), (R.TFH_TD_RES_TD_PWR, 0)]).evt R.TFH_EVT_TD_DONE).post 0x13 0x12 warning h
        [h, Config.causeCode abNotStarted], 0x000A)
    else
      let t := (t.puts [(R.TFH_TD_RES_BUSY, 1), (R.TFH_TD_RES_RESULT, 0), (R.TFH_TD_RES_TD_PWR, 0)]).holdQueue a
      (if s.writing a then t.put V.tdWait 1 else t.tdBegin a, 0)

/-- TOUCHDOWN_GO. -/
def touchdownGo (h : GHead) (s : State) : State := (s.tdGo h).1

/-- A touchdown ends with a result; the heater goes to 0, with its idle power due at the next wedge (R112), and the queue is released
(R113). -/
def State.tdEnd (s : State) (a h res pwr : Nat) : State :=
  (((s.paPut a (s.localHead h) 0x14 0).puts [(R.TFH_TD_RES_BUSY, 0), (R.TFH_TD_RES_RESULT, res),
    (R.TFH_TD_RES_TD_PWR, pwr), (V.tfhIdle a, 1)]).evt R.TFH_EVT_TD_DONE).releaseHold a

/-- TOUCHDOWN_DWELL_END: the energy over the dwell and the servo's off-track count judge the step (R113). -/
def touchdownDwellEnd (energy offTrack : Nat) (s : State) : State :=
  if !s.on R.TFH_TD_RES_BUSY || s.on V.tdWait then s
  else
    let h := s.get V.tdH
    let a := s.actOf h
    let n := s.get V.tdStep
    let p := s.get V.tdP
    let st := s.tfhField h 6 1
    let sum := if n ≤ 4 then s.get V.tdSum + energy else s.get V.tdSum
    let contact := decide (4 < n) && (decide (sum * s.tfhField h 8 1 < 64 * energy) || decide (0 < offTrack))
    let hits := if contact then s.get V.tdHits + 1 else 0
    if hits = 2 then
      ((s.tdEnd a h 1 (p - st)).count R.TFH_CNT_TD).post 0x13 0x10 info h [h, p - st]
    else if s.tfhField h 0 2 < p + st then
      (s.tdEnd a h 2 0).post 0x13 0x11 warning h [h, p]
    else
      (s.puts [(V.tdP, p + st), (V.tdStep, n + 1), (V.tdSum, sum), (V.tdHits, hits)]).tdHeater a h (p + st)

/-- TOUCHDOWN_ABORT. -/
def touchdownAbort (s : State) : State := s.tdAbort abTdAbort

/-! ## Load measurements (R114) -/

/-- `SPT_MEAS.GO`: started, or refused: a kind of 0 or 7 with 0x0009, busy with 0x000F, a condition with 0x000A (R114, R119). `LHEAD`
and `KIND` store what is written in every case (R17); an instance held in reset takes no write (R26). -/
def State.measGo (s : State) (a kind l : Nat) : State × Nat :=
  if s.nact ≤ a then (s, 0)
  else
  let s := s.puts [(R.SPT_MEAS_LHEAD a, l), (R.SPT_MEAS_KIND a, kind)]
  if s.on (R.SPT_STAT_MEAS_BUSY a) || s.on (V.sptMeasWait a) then (s, 0x000F)
  else if kind = 0 ∨ 7 ≤ kind then (s, 0x0009)
  else
    let t := s.puts [(V.sptMeasKind a, kind), (V.sptMeasHead a, l)]
    if s.writing a then ((t.puts [(V.sptMeasWait a, 1), (V.sptMeasRef a, 0)]).holdQueue a, 0)
    else if kind = 5 ∧ !s.ramped a then (s, 0x000A)
    else ((t.put (R.SPT_STAT_MEAS_BUSY a) 1).holdQueue a, 0)

/-- LOAD_MEASURE_GO. -/
def loadMeasureGo (a : Act) (kind : Fin 8) (l : LHead) (s : State) : State := (s.measGo a kind l).1

/-- LOAD_MEASURE_DONE: results stored and judged (R114). -/
def loadMeasureDone (a : Act) (res0 res1 : BitVec 32) (s : State) : State :=
  if !s.on (R.SPT_STAT_MEAS_BUSY a) then s
  else
    let l := s.get (V.sptMeasHead a)
    let k := s.get (V.sptMeasKind a)
    let s := s.setLoad (s.ghead a l) k res0.toNat
    let s := s.when (decide (k = 5)) fun u => u.setLoad (u.ghead a l) 7 res1.toNat
    let s := s.when (decide (k = 6)) fun u => u.put (V.sptFlexL a) res0.toNat
    let t := ((s.puts [(R.SPT_STAT_MEAS_BUSY a, 0), (R.SPT_MEAS_RES0_RES a, res0.toNat),
      (R.SPT_MEAS_RES1_RES a, res1.toNat)]).evt (R.SPT_EVT_MEAS_DONE a)).releaseHold a
    (t.judgeLoad a l k res0.toNat).when (decide (k = 4)) fun t => t.idleHeater a

/-! ## Tightrope enable (R117, R121) -/

/-- Heads a check of R121 finds wrong, by reason. -/
def State.tfhBad (s : State) (hs : List Nat) : List (Bool × Nat) :=
  let f := s.tfhField
  let zs (h : Nat) : List Nat := s.zonesOf h
  [ (hs.any fun h => !s.tfhHeadOk h || (zs h).any fun z => !s.tfhZoneOk h z, 0x1301),
    (hs.any fun h => decide (f h 0 2 < f h 2 2 ∨ f h 0 2 < f h 4 2) || (zs h).any fun z =>
      decide (f h 0 2 < s.le 0x13 h (0x1100 + z * 8) 2 ∨ f h 0 2 < s.le 0x13 h (0x1102 + z * 8) 2), 0x1302),
    (hs.any fun h => !(inR 1 40 (f h 6 1) && inR 1 8 (f h 7 1) && inR 20 255 (f h 8 1) && (zs h).contains (f h 9 1)),
      0x1304) ]

/-- Marks heads as having passed, so that Tightrope drives their heaters (R121). -/
def State.tfhPass (s : State) (hs : List Nat) : State := s.forAll hs fun h t => t.put (V.tfhPassed h) 1

/-- Heads of the actuators whose Spotlight has enumerated (R121). -/
def State.enumHeads (s : State) : List Nat :=
  ((List.range 4).filter fun a => s.on (R.SPT_STAT_ENUM_DONE a)).flatMap fun a => s.headsOf a

/-- `TFH_CTL.EN` 0→1: entries of every head loaded, heads of enumerated actuators checked (R117, R121). -/
def State.tfhEnable (s : State) : State × Nat :=
  if s.on R.TFH_CTL_EN then (s, 0)
  else
    let t := s.forAll ((List.range s.nact).flatMap fun a => s.headsOf a) fun h t => t.loadWin 0x13 h 0x1000 0x300
    let hs := t.enumHeads
    let b := t.tfhBad hs
    t.enable R.TFH_CTL_EN R.TFH_CHK_REASON (b.take 2 ++ [(decide (hs = []), 0x1303)] ++ b.drop 2)
      fun u => u.tfhPass hs

/-- TFH_ENABLE. -/
def tfhEnableCmd (s : State) : State := s.tfhEnable.1

/-! ## Commands -/

/-- Meaning of LANYARD_GATE_FRAME (R95). -/
def execLanyardGateFrame (a : Act) (code : BitVec 8) (s : State) : Host.Outcome State Fault Refusal :=
  .next (lanyardGateFrame a code s)

/-- Meaning of LANYARD_REG_WRITE (R95). -/
def execLanyardRegWrite (a : Act) (hsel : Fin 16) (addr : Fin 2048) (data : BitVec 16) (err : BitVec 40) (ret : Option (BitVec 4)) (s : State) : Host.Outcome State Fault Refusal :=
  .next (lanyardRegWrite a hsel addr data err ret s)

/-- Meaning of LANYARD_REG_READ (R95). -/
def execLanyardRegRead (a : Act) (hsel : Fin 16) (addr : Fin 2048) (err : BitVec 24) (ret : Option (BitVec 16 × BitVec 8)) (s : State) : Host.Outcome State Fault Refusal :=
  .next (lanyardRegRead a hsel addr err ret s)

/-- Meaning of SPT_ENABLE (R100). -/
def execSptEnable (a : Act) (s : State) : Host.Outcome State Fault Refusal :=
  .next (sptEnableCmd a s)

/-- Meaning of PREAMP_FAULT (R111). -/
def execPreampFault (a : Act) (status : BitVec 16) (stays latch : Bool) (s : State) : Host.Outcome State Fault Refusal :=
  .next (preampFault a status stays latch s)

/-- Meaning of WR_INH (R109). -/
def execWrInh (a : Act) (v : Bool) (s : State) : Host.Outcome State Fault Refusal :=
  .next (wrInh a v s)

/-- Meaning of HDWP_CLEAR (R119). -/
def execHdwpClear (a : Act) (mask hw : BitVec 10) (s : State) : Host.Outcome State Fault Refusal :=
  .next (hdwpClear a mask hw s)

/-- Meaning of PREHEAT_DONE (R112). -/
def execPreheatDone (a : Act) (s : State) : Host.Outcome State Fault Refusal :=
  .next (preheatDone a s)

/-- Meaning of TOUCHDOWN_GO (R113). -/
def execTouchdownGo (h : GHead) (s : State) : Host.Outcome State Fault Refusal :=
  .next (touchdownGo h s)

/-- Meaning of TOUCHDOWN_DWELL_END (R113). -/
def execTouchdownDwellEnd (energy offTrack : Nat) (s : State) : Host.Outcome State Fault Refusal :=
  .next (touchdownDwellEnd energy offTrack s)

/-- Meaning of TOUCHDOWN_ABORT (R113). -/
def execTouchdownAbort (s : State) : Host.Outcome State Fault Refusal :=
  .next (touchdownAbort s)

/-- Meaning of LOAD_MEASURE_GO (R114). -/
def execLoadMeasureGo (a : Act) (kind : Fin 8) (l : LHead) (s : State) : Host.Outcome State Fault Refusal :=
  .next (loadMeasureGo a kind l s)

/-- Meaning of LOAD_MEASURE_DONE (R114). -/
def execLoadMeasureDone (a : Act) (res0 res1 : BitVec 32) (s : State) : Host.Outcome State Fault Refusal :=
  .next (loadMeasureDone a res0 res1 s)

/-- Meaning of TFH_ENABLE (R121). -/
def execTfhEnable (s : State) : Host.Outcome State Fault Refusal :=
  .next (tfhEnableCmd s)

/-- Meaning of PREAMP_WRITE_HOLD_END (R111). -/
def execPreampWriteHoldEnd (a : Act) (flagClear : Bool) (s : State) : Host.Outcome State Fault Refusal :=
  .next (preampWriteHoldEnd a flagClear s)

end Sys2Proof.Machine
end

