-- ==== Sys2Proof/Machine/Barker.lean ====
section
/-!
DEFINITION. The sector sequencers (chapter "Barker sector sequencers", R123 to R140): microwords, waits, commit points,
abandonment and restart, machine checks.
-/

namespace Sys2Proof.Machine

/-! ## Microword fields (R124) -/

/-- Bits `lo` to `lo + n - 1` of a quarter. -/
def qBits (q : BitVec 32) (lo n : Nat) : Nat := q.toNat / 2 ^ lo % 2 ^ n

/-- `OP`. -/
def bwOp (w : BarkerWord) : Nat := qBits w.q0 28 4
/-- `TARGET`. -/
def bwTarget (w : BarkerWord) : Nat := qBits w.q0 16 12
/-- `COND`. -/
def bwCond (w : BarkerWord) : Nat := qBits w.q0 12 4
/-- `CMT`. -/
def bwCmt (w : BarkerWord) : Bool := w.q0.getLsbD 11
/-- `DST`. -/
def bwDst (w : BarkerWord) : Nat := qBits w.q0 4 4
/-- `SRC`. -/
def bwSrc (w : BarkerWord) : Nat := qBits w.q0 0 4
/-- Action of gate `g`. -/
def bwGate (w : BarkerWord) (g : Nat) : Nat := qBits w.q1 (2 * g) 2
/-- `SMP`. -/
def bwSmp (w : BarkerWord) : Bool := w.q1.getLsbD 16
/-- `PARSRC`. -/
def bwParsrc (w : BarkerWord) : Bool := w.q1.getLsbD 17
/-- `SIG`. -/
def bwSig (w : BarkerWord) : Bool := w.q1.getLsbD 18
/-- `IMM` [23:0]. -/
def bwImm (w : BarkerWord) : Nat := qBits w.q2 0 24
/-- `TO_UNIT`. -/
def bwUnit (w : BarkerWord) : Nat := qBits w.q3 16 2
/-- `TO_BR`. -/
def bwToBr (w : BarkerWord) : Bool := w.q3.getLsbD 18

/-- Parity of a quarter's bits. -/
def parityOf (q : BitVec 32) : Bool := (List.range 32).foldl (fun p i => xor p (q.getLsbD i)) false

/-- Quarters whose even parity fails, as a mask (R123, R134). -/
def bwParityMask (w : BarkerWord) : Nat :=
  b2n (xor (parityOf w.q0) (w.par.getLsbD 0)) + 2 * b2n (xor (parityOf w.q1) (w.par.getLsbD 1)) +
    4 * b2n (xor (parityOf w.q2) (w.par.getLsbD 2)) + 8 * b2n (xor (parityOf w.q3) (w.par.getLsbD 3))

/-- A reserved bit of the word is 1. -/
def bwReserved (w : BarkerWord) : Bool :=
  decide (qBits w.q0 8 3 ≠ 0 ∨ qBits w.q1 19 13 ≠ 0 ∨ qBits w.q3 19 13 ≠ 0)

/-- Cause of a machine check at fetch, 0 for none: 1 parity, 2 opcode, 3 condition or gate code, 4 reserved bit, 7
timeout unit (R127, R134, R138); `idle` says that the idle loop runs. The condition field is judged where the opcode uses
it. -/
def bwCheck (idle : Bool) (w : BarkerWord) : Nat :=
  if bwParityMask w ≠ 0 then 1
  else if 8 < bwOp w then 2
  else if (bwOp w = 2 ∨ bwOp w = 5) ∧ 0xC < bwCond w then 3
  else if (List.range 8).any fun g => decide (bwGate w g = 3) then 3
  else if bwReserved w then 4
  else if bwOp w = 5 ∧ bwUnit w = 3 ∧ (bwCond w ≠ 0xA ∨ !idle) then 7
  else 0

/-! ## The control store (R123) -/

/-- A word with the four even-parity bits of its quarters (R123). -/
def withParity (q0 q1 q2 q3 : BitVec 32) : BarkerWord :=
  ⟨q0, q1, q2, q3, BitVec.ofNat 4 (b2n (parityOf q0) + 2 * b2n (parityOf q1) + 4 * b2n (parityOf q2) + 8 * b2n (parityOf q3))⟩

/-- The store as the authenticated firmware image gives it (R5, R123). -/
def storeImage (img : List (Nat × Byte)) : List BarkerWord :=
  (List.range 4096).map fun i =>
    let q (n : Nat) : BitVec 32 := BitVec.ofNat 32 (Config.storeWord img 0x0D i n)
    withParity (q 0) (q 1) (q 2) (q 3)

/-- Bits of a word flipped. -/
def flipWord (w f : BarkerWord) : BarkerWord :=
  ⟨w.q0 ^^^ f.q0, w.q1 ^^^ f.q1, w.q2 ^^^ f.q2, w.q3 ^^^ f.q3, w.par ^^^ f.par⟩

/-- Bits of a stored word have flipped since it was loaded; the store keeps them (R134, R136). -/
def State.upset (s : State) (a addr : Nat) (f : BarkerWord) : State :=
  if f = ⟨0, 0, 0, 0, 0⟩ then s
  else s.setBstore a ((Tab.at [] s.bstore a).set addr (flipWord (s.bword a addr) f))

/-! ## Machine checks, posts, restarts -/

/-- `SEQ_COMMIT` as a word. -/
def State.seqCommit (s : State) (a : Nat) : Nat :=
  s.get (R.SEQ_COMMIT_TRACK a) + s.get (R.SEQ_COMMIT_SIDX a) * 16777216

/-- The third machine check within 24 operating hours takes the instance out of service until the next power cycle, and the
actuator with it (R135). -/
def State.seqRetire (s : State) (a : Nat) : State :=
  let recent := (s.seqr a).mchkAt.filter fun m => decide (s.opsec < m.1 + 86400)
  if 3 ≤ recent.length ∧ !s.on (V.seqOos a) then
    ((s.put (V.seqOos a) 1).seqPost a 0x15 error ((recent.drop (recent.length - 3)).map (·.2))).refreshAct a 0x0D 0x15
  else s

/-- A machine check: gates off, state MCHK, cause latched with the gates and the abandon cause that coincides, counted,
recorded, queue held (R133, R134). The job returns, to restart after recovery, which counts (R131, R135). The number that `ABCAUSE`
shows for a cause is free but not 0 (R138). -/
def State.seqMchk (s : State) (a cause qmask ab : Nat) : State :=
  let g := s.get (R.SEQ_STAT_GATES a)
  let pc := s.get (R.SEQ_STAT_PC a)
  let rt := s.get (R.SEQ_STAT_ROUTINE a)
  let why := if ab ≠ 0 then ab else s.get (V.seqPend a)
  let abc := if why = 0 then 0 else 1 + Config.causeCode why % 15
  let t := (s.when (s.writing a || s.on (R.SPT_STAT_WG a)) fun t => t.writeAbort a false).stopRoutine a
  let r := t.seqr a
  let t := (t.setSeqr a { r with mchkAt := r.mchkAt ++ [(s.opsec, pc)], fresh := false }).puts
    [(R.SEQ_STAT_STATE a, seqMCHK), (R.SEQ_MCK0_ADDR a, pc), (R.SEQ_MCK0_QMASK a, qmask), (R.SEQ_MCK0_CAUSE a, cause),
     (R.SEQ_MCK0_ROUTINE a, rt), (R.SEQ_MCK1_GATES a, g), (R.SEQ_MCK1_ABCAUSE a, abc),
     (V.seqPend a, 0), (V.seqLast a, abMchk), (R.CMD_JQ_HELD a, 1), (R.CMD_JQ_WHY a, 4)]
  ((t.evt (R.SEQ_EVT_MCHK a)).seqCount (R.SEQ_CNT_MCHK a)).seqPost a 0x10 error
    [pc + qmask * 4096 + cause * 65536 + rt * 524288, g + abc * 256, s.seqCommit a] |>.seqRetire a

/-- A miss, by timeout or late event (R127). -/
def State.seqMiss (s : State) (a cond imm : Nat) : State :=
  ((s.evt (R.SEQ_EVT_MISS a)).seqCount (R.SEQ_CNT_MISS a)).seqPost a 0x11 warning
    [s.get (R.SEQ_STAT_ROUTINE a), s.get (R.SEQ_STAT_PC a), cond, imm]

/-! ## Conditions (R127, R149) -/

/-- The servo's conditions for write permission at wedge n (R149): what the wedge's header fields gave, and the samples of
wedges n − 1 and n − 2 (log entry 12). The wedge's own sample is judged by R150, when it is posted. -/
def State.wpHolds (s : State) (a : Nat) : Bool :=
  let thr : Int := s.get (R.SRV_WI_WI_THR a)
  let p1 := s.getI (V.srvPes1 a)
  let p2 := s.getI (V.srvPes2 a)
  decide (s.srvSt a = srvFOLLOW) && s.on (V.srvWrSet a) && s.on (V.srvHdrOk a) && s.on (V.srvGood1 a) &&
    decide (p1 ≤ thr ∧ -thr ≤ p1) &&
    (!s.on (R.SRV_CTL_PRED_EN a) || decide (2 * p1 - p2 ≤ thr ∧ -thr ≤ 2 * p1 - p2)) &&
    decide (s.get (R.SRV_OFS_OFS a) = 0) && !s.on (V.srvMissP a) && !s.on (V.srvMiss a) && !s.on (V.trzInh a) &&
    s.on V.crlSp01 &&
    !s.on (V.srvWiHold a)

/-- A condition of R127 holds now. -/
def State.condHolds (s : State) (a cond imm : Nat) (now : BarkerNow) : Bool :=
  match cond with
  | 0x0 => decide (imm ≤ now.cell)
  | 0x1 => decide (imm ≤ now.bit)
  | 0x2 => s.on (V.srvSamOut a)
  | 0x3 => decide (s.get (V.srvIdx a) = imm)
  | 0x4 => s.on (V.seqSmOut a)
  | 0x5 => s.on (V.seqFsmOut a)
  | 0x6 => s.on (V.seqSampOut a)
  | 0x7 => s.on (V.seqDecOut a)
  | 0x8 => !s.on (V.sptTry a)
  | 0x9 => s.wpHolds a
  | 0xA => match s.jobOf a with | some _ => true | none => false
  | 0xB => s.on (V.tfhPreDone a)
  | 0xC => !s.on (R.SPT_STAT_LATCH a)
  | _ => false

/-- What evaluating a condition that holds does: condition 0x9 grants write permission (R149). A report of the channel
(0x4 to 0x7) and an address mark (0x2) stay true until a BR or a WAIT has taken them: how long they stay true the spec leaves
open (DESIGN CHOICE, log entry 60). -/
def State.condTaken (s : State) (a cond : Nat) : State :=
  match cond with
  | 0x2 => s.put (V.srvSamOut a) 0
  | 0x4 => s.put (V.seqSmOut a) 0
  | 0x5 => s.put (V.seqFsmOut a) 0
  | 0x6 => s.put (V.seqSampOut a) 0
  | 0x7 => s.put (V.seqDecOut a) 0
  | 0x9 => s.put (R.SRV_STAT_WP a) 1
  | _ => s

/-! ## Word execution -/

/-- A write job is running, or WW has been turned on since the routine's entry (R127). -/
def State.writeRoutine (s : State) (a : Nat) : Bool := s.on (V.seqWw a) || s.writing a

/-- Time to the first bit a WW turn-on names is under 100 ns at the channel's rate (R63, R126). -/
def State.wwLate (s : State) (a imm bit : Nat) : Bool :=
  match s.jobOf a with
  | none => false
  | some j =>
    let rate := zeRate0 (s.zoneEnt (s.ghead a j.lhead) j.zone) * scaleDc j.dcls * s.get R.CRL_SPEED_SPEED
    decide ((imm - bit) * 10 * 1000000 * 7200000 < rate)

/-- The channel sends a fragment of a track, bits `first` to `last - 1` of the data region that follows the wedge: the
layout's bits, those of sectors from where PARSRC came on from the parity generator (R124), the pad pattern from where PAD was turned
on, their transitions shifted by the track's precompensation (R46, R102, R103, R126). -/
def State.sendWd (s : State) (a : Nat) (j : Job) (first last : Nat) (pad : Bool) : State :=
  let x := s.jobImage a j
  let b := regionBits s.fmtW s.fmtC (zeRate0 (s.zoneEnt (s.ghead a j.lhead) j.zone)) j.dcls
  let region := if s.fmtW = 0 then 0 else (s.get (V.srvIdx a) + s.fmtW - j.wedge) % s.fmtW
  let ps := layTrack b (j.kd + j.mPar)
  let from_ := if s.get (V.seqParIx a) = s.get (V.srvIdx a) then s.get (V.seqParAt a) else 0
  let par (i : Nat) : Bool := s.on (V.seqPar a) &&
    ps.any fun q => decide (q.region = region ∧ q.sidx = i ∧ from_ ≤ q.bit) && (match q.kind with | .codeword _ => true | _ => false)
  let l := ((regionWd (fun i => x.cwFrom (par i) i) ps region).drop first).take (last - first)
  let at_ := s.get (V.seqPadAt a)
  let l := if pad ∧ first ≤ at_ ∧ at_ < last then l.take (at_ - first) ++ tone (last - at_) else l
  { s with wd := Tab.set [] s.wd a (precomp (s.get (V.sptPc1 a)) (s.get (V.sptPc2 a)) (transitions l)) }

/-- The servo side of a head switch (R157): the actuator goes to the job's target on the new surface. -/
def State.headSwitch (s : State) (a : Nat) (j : Job) : State := s.goTrack a j.lhead j.track

/-- A head switch runs with the word given: a non-restartable head-switch routine has HSW on outside a data region, over the
media with lock, and the job names another head or track (R132, R157). -/
def State.switchDue (s : State) (a cell : Nat) (j : Job) : Bool :=
  let r := s.seqr a
  s.on (R.SEQ_STAT_NR a) && decide (r.kind = .headSwitch) && s.gateOn a 6 && decide (cell < 232) && s.onTrack a &&
    decide (s.get (R.SRV_STAT_HEAD a) ≠ j.lhead ∨ s.get (R.SRV_TGT_TRACK a) ≠ j.track)

/-- The gates after a word's actions; no data gate is on while SVW is (R126). -/
def gatesAfter (g : Nat) (w : BarkerWord) : Nat :=
  let n := (List.range 8).foldl (fun v i =>
    if bwGate w i = 1 then v ||| 2 ^ i else if bwGate w i = 2 ∧ bitOf v i then v - 2 ^ i else v) g
  if bitOf n 5 then n &&& 0xE0 else n

/-- Turns gates on and off (R126): WW carries the bit positions and its turn-off sends the fragment, PAD marks where the pad
begins, HTW asks for write heater power (R112), HSW permits the head switch (R157). -/
def State.gateActs (s : State) (a : Nat) (w : BarkerWord) (now : BarkerNow) : State :=
  let g := s.get (R.SEQ_STAT_GATES a)
  let g' := gatesAfter g w
  let rise (i : Nat) : Bool := !bitOf g i && bitOf g' i
  let fall (i : Nat) : Bool := bitOf g i && !bitOf g' i
  let t := s.put (R.SEQ_STAT_GATES a) g'
  let t := t.when (decide (bwGate w 0 = 1) && bitOf g' 0) fun t => t.puts [(V.seqWw a, 1), (V.seqWwFirst a, bwImm w)]
  let t := t.when (decide (bwGate w 0 = 2)) fun t => t.put (V.seqWwLast a) (bwImm w)
  let t := t.when (rise 4) fun t => t.put (V.seqPadAt a) now.bit
  match s.jobOf a with
  | none => t
  | some j =>
    let t := t.when (decide (bwGate w 0 = 2) && fall 0) fun t => t.sendWd a j (t.get (V.seqWwFirst a)) (bwImm w) (bitOf g 4)
    let t := t.when (rise 7) fun t =>
      (t.driveHeater a j.lhead j.zone true).puts [(V.tfhHtw a, 1), (V.tfhPreDone a, 0),
        (V.tfhPre a, t.tfhField (t.ghead a j.lhead) 0xA 1)]
    let t := t.when (fall 7) fun t => (t.puts [(V.tfhHtw a, 0), (V.tfhPreDone a, 0)]).idleHeater a
    t.when (t.switchDue a now.cell j) fun t => t.headSwitch a j

/-- A commit point: the unit goes into `SEQ_COMMIT`. A track stands on the media from here on and its blocks have landed; on
a head that has been write-disabled meanwhile nothing was written, and the write has failed (R118, R129, R32). -/
def State.commit (s : State) (a : Nat) : State :=
  let r := s.seqr a
  match r.job with
  | none => s
  | some j =>
    let t := s.setSeqr a { r with restarts := 0 }
    if j.writes then
      if s.headNoWr a j.lhead then
        ((((t.setSeqr a { (t.seqr a) with job := none }).setJob a none).writeFailed a j).opEnded a).writeOpEnded a
      else
        ((t.puts [(R.SEQ_COMMIT_TRACK a, j.track), (R.SEQ_COMMIT_SIDX a, 0xFF), (V.seqDone a, 1)]).writeTrack a j).land
          j.nsid j.lba j.nlb
    else
      (t.puts [(R.SEQ_COMMIT_TRACK a, j.track), (R.SEQ_COMMIT_SIDX a, j.first + s.get (V.seqUnits a))]).bump
        (V.seqUnits a) 1

/-- A track of a write operation has been written: the operation goes on where the queue holds the next track of the same head and
zone, with heater and bias as they are; otherwise it ends (R105, R112). -/
def State.trackEnded (s : State) (a : Nat) (j : Option Job) : State :=
  let goesOn : Bool := match j with
    | some j => (s.jugq a).any fun i => i.writes && decide (i.lhead = j.lhead ∧ i.zone = j.zone ∧ i.track = j.track + 1)
    | none => false
  if goesOn then s else s.opEnded a

/-- A unit is reported to the Juggler, by SIG or at the routine's end: a committed track ends its media operation, a read
whose last commit point has executed ends with its outcome (R124, R129). A unit reported does not come back (R133). -/
def State.unitDone (s : State) (a : Nat) : State :=
  if s.on (V.seqDone a) then
    ((((s.put (V.seqDone a) 0).setSeqr a { (s.seqr a) with job := none }).endJob a stOk).trackEnded a (s.seqr a).job).writeOpEnded a
  else match (s.rop a).done with
    | some st =>
      if s.uncommitted a then s else (s.setSeqr a { (s.seqr a) with job := none, returned := none }).readEnds a st
    | none => s

/-- Gate, SMP, PARSRC, commit and SIG actions of a word as it starts executing (R125, R129). -/
def State.wordActs (s : State) (a : Nat) (w : BarkerWord) (now : BarkerNow) : State :=
  let t := s.gateActs a w now
  let t := t.when (bwSmp w) fun t => t.put (V.seqSm1 a) ((s.seqr a).acc.getD (bwSrc w) 0)
  let t := t.when (bwParsrc w && !t.on (V.seqPar a)) fun t => t.puts [(V.seqParAt a, now.bit), (V.seqParIx a, t.get (V.srvIdx a))]
  let t := t.putB (V.seqPar a) (bwParsrc w)
  let t := t.when (bwCmt w) fun t => t.commit a
  t.when (bwSig w) fun t => t.unitDone a

/-- An instruction boundary: an abandon deferred in an NR routine takes effect at the exit handler (R132). -/
def State.seqBoundary (s : State) (a : Nat) : State :=
  if s.on (R.SEQ_STAT_NR a) && s.on (V.seqPend a) && decide (s.get (R.SEQ_STAT_STATE a) = seqRUN) then
    s.puts [(R.SEQ_STAT_PC a, s.get (V.seqExit a)), (R.SEQ_STAT_STATE a, seqEXIT), (V.seqLast a, s.get (V.seqPend a)),
      (V.seqPend a, 0)]
  else s

/-- A job whose command has been aborted does not come back: a read ends as aborted (R90, R130). -/
def State.jobAborted (s : State) (a : Nat) : State :=
  match (s.seqr a).returned with
  | some j => if j.writes then s else (s.setSeqr a { s.seqr a with returned := none }).endJob a stAborted
  | none => s

/-- What follows a word, or reaches a stalled WAIT: an abandoning event of the same cycle acts after it, the laser-off latch with its own
flag and record (R110, R130, R133), then the instruction boundary is reached. -/
def State.afterWord (s : State) (a : Nat) (now : BarkerNow) : State :=
  (s.when (decide (now.ab ≠ 0)) fun t =>
    ((t.unitDone a).endWrite a now.ab (decide (now.ab.val = abLatch))).when (decide (now.ab.val = abCommand ∨ now.ab.val = abRdAbort)) fun u =>
      u.jobAborted a).seqBoundary a

/-- Continues at a word address. -/
def State.seqGo (s : State) (a pc : Nat) : State := s.put (R.SEQ_STAT_PC a) pc

/-- The address of the next word. -/
def State.seqNext (s : State) (a : Nat) : Nat := (s.get (R.SEQ_STAT_PC a) + 1) % 4096

/-- The sequencer executes words: it runs a routine, its exit handler or its idle loop, and no WAIT stalls it. -/
def State.seqFetches (s : State) (a : Nat) : Bool :=
  let st := s.get (R.SEQ_STAT_STATE a)
  decide (st = seqIDLE ∨ st = seqRUN ∨ st = seqEXIT) && !s.on (V.seqStall a)

/-- A timeout or a late event without a branch: the routine is abandoned; where there is none to abandon, in the idle loop
and in an exit handler, the next word runs (R127, R130, R132). -/
def State.missed (s : State) (a cause next : Nat) : State :=
  if s.get (R.SEQ_STAT_STATE a) = seqRUN then s.endWrite a cause false else s.seqGo a next

/-- One microword: the store's word at the program counter, with the bits that have flipped in it, is fetched. A machine check
at fetch stops the sequencer; a word of another opcode is not this command's; a late WW turn-on is a late event; otherwise
the word's actions take effect and its opcode runs (R125, R126, R134). -/
def State.barker (s : State) (a opc : Nat) (f : BarkerWord) (now : BarkerNow) (op : BarkerWord → State → State) : State :=
  if !s.seqFetches a then s
  else
    let u := s.upset a (s.get (R.SEQ_STAT_PC a)) f
    let w := u.bword a (s.get (R.SEQ_STAT_PC a))
    let c := bwCheck (decide (s.get (R.SEQ_STAT_STATE a) = seqIDLE)) w
    if c ≠ 0 then u.seqMchk a c (bwParityMask w) now.ab
    else if bwOp w ≠ opc then s
    else
      let u := u.setSeqr a { u.seqr a with fresh := false }
      if bwGate w 0 = 1 ∧ u.wwLate a (bwImm w) now.bit then
        ((u.seqMiss a (bwCond w) (bwImm w)).missed a abLate (s.seqNext a)).afterWord a now
      else (op w (u.wordActs a w now)).afterWord a now

/-- BARKER_NOP. -/
def barkerNop (a : Act) (f : BarkerWord) (now : BarkerNow) (s : State) : State :=
  s.barker a 0 f now fun _ t => t.seqGo a (s.seqNext a)

/-- BARKER_JMP. -/
def barkerJmp (a : Act) (f : BarkerWord) (now : BarkerNow) (s : State) : State :=
  s.barker a 1 f now fun w t => t.seqGo a (bwTarget w)

/-- BARKER_BR: the condition is judged now. -/
def barkerBr (a : Act) (f : BarkerWord) (now : BarkerNow) (s : State) : State :=
  s.barker a 2 f now fun w t =>
    if t.condHolds a (bwCond w) (bwImm w) now then (t.condTaken a (bwCond w)).seqGo a (bwTarget w)
    else t.seqGo a (s.seqNext a)

/-- BARKER_CALL: the stack is 8 deep; an overflow is a machine check. -/
def barkerCall (a : Act) (f : BarkerWord) (now : BarkerNow) (s : State) : State :=
  s.barker a 3 f now fun w t =>
    let r := t.seqr a
    if 8 ≤ r.stack.length then t.seqMchk a 5 0 now.ab
    else (t.setSeqr a { r with stack := s.seqNext a :: r.stack }).seqGo a (bwTarget w)

/-- BARKER_RET: an underflow is a machine check. -/
def barkerRet (a : Act) (f : BarkerWord) (now : BarkerNow) (s : State) : State :=
  s.barker a 4 f now fun _ t =>
    let r := t.seqr a
    match r.stack with
    | [] => t.seqMchk a 5 0 now.ab
    | pc :: rest => (t.setSeqr a { r with stack := rest }).seqGo a pc

/-- BARKER_WAIT: a compare value already passed is a late event, which abandons a write routine whatever TO_BR holds;
a condition that holds lets the next word run; otherwise the sequencer stalls (R127). -/
def barkerWait (a : Act) (f : BarkerWord) (now : BarkerNow) (s : State) : State :=
  s.barker a 5 f now fun w t =>
    let c := bwCond w
    let late := decide ((c = 0 ∧ bwImm w < now.cell) ∨ (c = 1 ∧ bwImm w < now.bit))
    if late then
      let t := t.seqMiss a c (bwImm w)
      if t.writeRoutine a || !bwToBr w then t.missed a abLate (s.seqNext a) else t.seqGo a (bwTarget w)
    else if t.condHolds a c (bwImm w) now then (t.condTaken a c).seqGo a (s.seqNext a)
    else
      (t.puts [(V.seqWaitCond a, c), (V.seqWaitImm a, bwImm w), (V.seqWaitTgt a, bwTarget w),
        (V.seqWaitBr a, b2n (bwToBr w)), (V.seqWaitUnit a, bwUnit w), (V.seqStall a, 1)]).when
          (decide (t.get (R.SEQ_STAT_STATE a) = seqRUN)) fun u => u.put (R.SEQ_STAT_STATE a) seqWAIT

/-- Writes an accumulator. -/
def State.setAcc (s : State) (a d v : Nat) : State :=
  let r := s.seqr a
  s.setSeqr a { r with acc := r.acc.set d (v % 16777216) }

/-- BARKER_LOAD. -/
def barkerLoad (a : Act) (f : BarkerWord) (now : BarkerNow) (s : State) : State :=
  s.barker a 6 f now fun w t => (t.setAcc a (bwDst w) (bwImm w)).seqGo a (s.seqNext a)

/-- BARKER_ADD. -/
def barkerAdd (a : Act) (f : BarkerWord) (now : BarkerNow) (s : State) : State :=
  s.barker a 7 f now fun w t =>
    let r := t.seqr a
    (t.setAcc a (bwDst w) (r.acc.getD (bwDst w) 0 + r.acc.getD (bwSrc w) 0 + bwImm w)).seqGo a (s.seqNext a)

/-- The routine of a job ends: a unit committed and not yet reported is reported; a media operation that neither the channel
nor a commit point ends, ends here. -/
def State.routineEnds (s : State) (a : Nat) : State :=
  let r := s.seqr a
  let u := s.unitDone a
  let v := u.setSeqr a { u.seqr a with job := none, stack := [] }
  match r.job with
  | some j => if r.kind ≠ .job ∨ j.kind = .read ∨ j.writes ∨ j.kind = .verify then v else v.endJob a stOk
  | none => v

/-- BARKER_END: the routine ends; an exit handler's END returns the abandoned job (R125, R132). -/
def barkerEnd (a : Act) (f : BarkerWord) (now : BarkerNow) (s : State) : State :=
  s.barker a 8 f now fun _ t =>
    let r := t.seqr a
    let ex := decide (t.get (R.SEQ_STAT_STATE a) = seqEXIT)
    let u := (t.toIdle a).puts [(R.SEQ_STAT_NR a, 0), (V.seqPend a, 0), (V.seqWw a, 0)]
    if ex then
      ((u.setSeqr a { r with job := none, returned := r.job, stack := [] }).evt (R.SEQ_EVT_ABANDON a)).when
        (decide (t.get (V.seqLast a) = abCommand ∨ t.get (V.seqLast a) = abRdAbort)) fun v => v.jobAborted a
    else u.routineEnds a

/-- The WAIT in progress ends and the next word runs. -/
def State.waitEnds (s : State) (a : Nat) (pc : Nat) : State :=
  ((s.put (V.seqStall a) 0).when (decide (s.get (R.SEQ_STAT_STATE a) = seqWAIT)) fun t =>
    t.put (R.SEQ_STAT_STATE a) seqRUN).seqGo a pc

/-- BARKER_WAIT_MET: the condition of the WAIT in progress holds and the next word runs (R127, R149); while it does not hold, an
abandoning event reaches the stalled routine (R130, R132). -/
def barkerWaitMet (a : Act) (now : BarkerNow) (s : State) : State :=
  let c := s.get (V.seqWaitCond a)
  if s.on (V.seqStall a) ∧ s.condHolds a c (s.get (V.seqWaitImm a)) now then
    ((s.condTaken a c).waitEnds a (s.seqNext a)).afterWord a now
  else if s.on (V.seqStall a) then s.afterWord a now
  else s

/-- BARKER_WAIT_TIMEOUT: a condition that holds in the same cycle wins; otherwise a miss, and the routine branches or is
abandoned as TO_BR selects. A WAIT of unit 3 has no timeout (R124, R127, R132). -/
def barkerWaitTimeout (a : Act) (now : BarkerNow) (s : State) : State :=
  let c := s.get (V.seqWaitCond a)
  if !s.on (V.seqStall a) || decide (s.get (V.seqWaitUnit a) = 3) then s
  else if s.condHolds a c (s.get (V.seqWaitImm a)) now then barkerWaitMet a now s
  else
    let t := s.seqMiss a c (s.get (V.seqWaitImm a))
    if s.on (V.seqWaitBr a) then (t.waitEnds a (s.get (V.seqWaitTgt a))).afterWord a now
    else ((t.waitEnds a (s.get (R.SEQ_STAT_PC a))).missed a abTimeout (s.seqNext a)).afterWord a now

/-! ## Routines and jobs (R128, R131, R157) -/

/-- A job may run on its actuator: its port works (R99), and for a write nothing holds writes (R109, R111, R113). -/
def State.jobMay (s : State) (a : Nat) (j : Job) : Bool :=
  !s.on (V.sptPortFail a) && !(j.writes && s.wrHeld a)

/-- The values of a track are loaded at its start where the routine writes one (R105, R108). -/
def State.trackStart (s : State) (a : Nat) (j : Job) (kind : RoutineKind) : State :=
  match kind with
  | .writeValues => s.loadWriteValues a j
  | .job => s.when j.writes fun u => u.loadWriteValues a j
  | .headSwitch => s
  | .measurement => s

/-- A routine is entered, for a job or for a load measurement (R128, R132): its word of the routine table gives the entry, the NR mark and the exit handler; a
word that fails its parity or is not VALID is a machine check. Accumulators and stack are clear at entry (R124). -/
def State.enterRoutine (s : State) (a id : Nat) (j : Option Job) (kind : RoutineKind) : State :=
  let e := s.bword a id
  let s := (s.setSeqr a { s.seqr a with
      acc := List.replicate 16 0, stack := [], nr := e.q0.getLsbD 12, returned := none, fresh := true }).puts
    [(R.SEQ_STAT_ROUTINE a, id), (R.SEQ_STAT_PC a, id), (V.seqStall a, 0), (V.seqUnits a, 0), (V.seqPend a, 0), (V.seqWw a, 0)]
  if bwParityMask e ≠ 0 then s.seqMchk a 1 (bwParityMask e) 0
  else if !e.q0.getLsbD 13 then s.seqMchk a 6 0 0
  else
    (s.puts [(R.SEQ_STAT_STATE a, seqRUN), (R.SEQ_STAT_NR a, b2n (e.q0.getLsbD 12)), (R.SEQ_STAT_PC a, qBits e.q0 0 12),
      (V.seqExit a, qBits e.q2 0 12)]).forAll j.toList fun j t => t.trackStart a j kind

/-- ROUTINE_START: routine `id` starts with its word of the routine table and the actuator's media operation (R128). A head
switch requested in HOLD, ACQUIRE or an unloaded state is refused, and stays refused until the actuator reaches FOLLOW
(R157). A load measurement in progress runs as a routine of its own, with no job (R114, R132). -/
def routineStart (a : Act) (id : Fin 64) (flip : BarkerWord) (kind : RoutineKind) (s : State) : State :=
  if s.get (R.SEQ_STAT_STATE a) ≠ seqIDLE ∨ s.on (V.seqHeld a) ∨ (s.seqr a).returned.isSome then s
  else match s.jobOf a with
    | none =>
      if kind = .measurement ∧ s.on (R.SPT_STAT_MEAS_BUSY a) then
        let s := s.upset a id flip
        (s.setSeqr a { s.seqr a with job := none, routine := id.val, restarts := 0, kind := kind, kept := [] }).enterRoutine a id none
          kind
      else s
    | some j =>
      if !s.jobMay a j then s
      else if kind = .headSwitch ∧ (!s.onTrack a ∨ (s.on (V.srvHswRef a) ∧ s.srvSt a ≠ srvFOLLOW)) then
        s.put (V.srvHswRef a) 1
      else
        let s := s.upset a id flip
        let r := s.seqr a
        let new := decide (r.lastId ≠ some j.id)
        let s := s.setSeqr a { r with
          job := some j, routine := id.val, restarts := if new then 0 else r.restarts, kind := kind,
          kept := if new then [] else r.kept, lastId := some j.id }
        s.enterRoutine a id (some j) kind

/-- A job as it restarts from its commit record: a read at its first uncommitted sector, a write whole, one generation later
(R131). -/
def restartJob (j : Job) (units : Nat) : Job :=
  if j.writes then { j with tgen := (j.tgen + 1) % 4294967296 }
  else if units = 0 then j
  else { j with first := j.first + units, count := j.count - units, lba := j.lba - j.lba % 8 + 8 * units,
                nlb := j.nlb - (8 * units - j.lba % 8) }

/-- JOB_RESTART: an abandoned job starts again at its routine's entry, from its commit record; the ninth start from one
record is refused and the job fails (R131, R260). A job whose unit was committed before the abandon is reported. A job abandoned before its first word ran counts no restart (R133). -/
def jobRestart (a : Act) (s : State) : State :=
  let r := s.seqr a
  match r.returned with
  | none => s
  | some j =>
    if s.get (R.SEQ_STAT_STATE a) ≠ seqIDLE ∨ s.on (V.seqHeld a) ∨ !s.jobMay a j then s
    else if s.on (V.seqDone a) then (s.setSeqr a { r with returned := none }).unitDone a
    else if 8 ≤ r.restarts then
      let t := ((s.setSeqr a { r with returned := none, restarts := 0, kept := [] }).evt (R.SEQ_EVT_RESTART_LIM a)).seqPost a
        0x13 error [r.routine, s.seqCommit a, Config.causeCode (s.get (V.seqLast a))]
      if j.writes then (t.setJob a none).writeFailed a j else t.endJob a (0, 0x06)
    else
      let j' := restartJob j (s.get (V.seqUnits a))
      let t := (s.setSeqr a { r with returned := none, job := some j', restarts := r.restarts + b2n !r.fresh }).setJob a
        (some j')
      let t := (t.when (!r.fresh) fun u => u.seqCount (R.SEQ_CNT_RESTART a)).seqPost a 0x12 info
        [r.routine, Config.causeCode (s.get (V.seqLast a)), s.seqCommit a]
      t.enterRoutine a r.routine (some j') r.kind

/-! ## Enable, recovery, scrub (R123, R135, R136, R139) -/

/-- `SEQ_CTL.EN` 0→1: the store is loaded, its CRC judged, then R139 (R123). -/
def State.seqEnable (s : State) (a : Nat) (crcPass : Bool) : State × Nat :=
  if s.on (R.SEQ_CTL_EN a) then (s, 0)
  else
    (if a < s.nact then (s.setBstore a (storeImage s.fwImg)).imageRead a 81920 else s).enable (R.SEQ_CTL_EN a) (R.SEQ_CHK_REASON a)
      [ (decide (s.nact ≤ a), 0x0D01), (!crcPass, 0x0D02), (!s.on R.MMG_CTL_FMT_COMMIT, 0x0D03),
        (!s.on (R.SPT_STAT_ENUM_DONE a), 0x0D04), (s.on (V.seqOos a), 0x0D05) ]
      fun t => (t.toIdle a).puts [(R.SEQ_STAT_GATES a, 0), (R.SEQ_STAT_NR a, 0), (V.seqStall a, 0),
        (V.seqHeld a, 0)]

/-- SEQ_ENABLE. -/
def seqEnableCmd (a : Act) (crcPass : Bool) (s : State) : State := (s.seqEnable a crcPass).1

/-- Clearing `SEQ_CTL.EN`: OFF, gates off. -/
def State.seqDisable (s : State) (a : Nat) : State :=
  s.puts [(R.SEQ_CTL_EN a, 0), (R.SEQ_STAT_STATE a, seqOFF), (R.SEQ_STAT_GATES a, 0), (R.SEQ_STAT_NR a, 0), (V.seqStall a, 0)]

/-- SEQ_MCHK_RECOVERY: firmware clears and sets `SEQ_CTL.EN`, so that the store is reloaded, and releases the queue where the
enable passes (R135). A queue that a machine check holds is released too where the host has cycled `EN` itself. -/
def seqMchkRecovery (a : Act) (crcPass : Bool) (s : State) : State :=
  let t := if s.get (R.SEQ_STAT_STATE a) = seqMCHK then ((s.seqDisable a).seqEnable a crcPass).1 else s
  t.when (t.on (R.SEQ_CTL_EN a) && decide (t.get (R.CMD_JQ_WHY a) = 4)) fun u => u.releaseHold a

/-- SEQ_SCRUB_PASS: an idle sequencer reads its whole store, where the bits given have flipped since the last pass; a parity
error holds new jobs until the store has been reloaded, at once or with a later pass (R136). -/
def seqScrubPass (a : Act) (flips : List (Fin 4096 × BarkerWord)) (reloaded : Bool) (s : State) : State :=
  if !s.on (R.SEQ_CTL_SCRUB_EN a) || s.get (R.SEQ_STAT_STATE a) ≠ seqIDLE then s
  else
    let t := s.forAll flips fun f t => t.upset a f.1 f.2
    let bad := (List.range (Tab.at [] t.bstore a).length).filter fun i => decide (bwParityMask (t.bword a i) ≠ 0)
    let u := t.forAll bad fun i u =>
      ((u.evt (R.SEQ_EVT_SCRUB_ERR a)).seqCount (R.SEQ_CNT_SCRUB a)).seqPost a 0x14 warning [i, bwParityMask (t.bword a i)]
    if bad = [] then u
    else if reloaded then ((u.setBstore a (storeImage u.fwImg)).imageRead a 81920).put (V.seqHeld a) 0
    else u.put (V.seqHeld a) 1

/-! ## Commands -/

/-- Meaning of SEQ_ENABLE (R139). -/
def execSeqEnable (a : Act) (crcPass : Bool) (s : State) : Host.Outcome State Fault Refusal :=
  .next (seqEnableCmd a crcPass s)

/-- Meaning of ROUTINE_START (R128). -/
def execRoutineStart (a : Act) (id : Fin 64) (flip : BarkerWord) (kind : RoutineKind) (s : State) : Host.Outcome State Fault Refusal :=
  .next (routineStart a id flip kind s)

/-- Meaning of BARKER_NOP (R125). -/
def execBarkerNop (a : Act) (flip : BarkerWord) (now : BarkerNow) (s : State) : Host.Outcome State Fault Refusal :=
  .next (barkerNop a flip now s)

/-- Meaning of BARKER_JMP (R125). -/
def execBarkerJmp (a : Act) (flip : BarkerWord) (now : BarkerNow) (s : State) : Host.Outcome State Fault Refusal :=
  .next (barkerJmp a flip now s)

/-- Meaning of BARKER_BR (R125). -/
def execBarkerBr (a : Act) (flip : BarkerWord) (now : BarkerNow) (s : State) : Host.Outcome State Fault Refusal :=
  .next (barkerBr a flip now s)

/-- Meaning of BARKER_CALL (R125). -/
def execBarkerCall (a : Act) (flip : BarkerWord) (now : BarkerNow) (s : State) : Host.Outcome State Fault Refusal :=
  .next (barkerCall a flip now s)

/-- Meaning of BARKER_RET (R125). -/
def execBarkerRet (a : Act) (flip : BarkerWord) (now : BarkerNow) (s : State) : Host.Outcome State Fault Refusal :=
  .next (barkerRet a flip now s)

/-- Meaning of BARKER_WAIT (R127). -/
def execBarkerWait (a : Act) (flip : BarkerWord) (now : BarkerNow) (s : State) : Host.Outcome State Fault Refusal :=
  .next (barkerWait a flip now s)

/-- Meaning of BARKER_LOAD (R125). -/
def execBarkerLoad (a : Act) (flip : BarkerWord) (now : BarkerNow) (s : State) : Host.Outcome State Fault Refusal :=
  .next (barkerLoad a flip now s)

/-- Meaning of BARKER_ADD (R125). -/
def execBarkerAdd (a : Act) (flip : BarkerWord) (now : BarkerNow) (s : State) : Host.Outcome State Fault Refusal :=
  .next (barkerAdd a flip now s)

/-- Meaning of BARKER_END (R125). -/
def execBarkerEnd (a : Act) (flip : BarkerWord) (now : BarkerNow) (s : State) : Host.Outcome State Fault Refusal :=
  .next (barkerEnd a flip now s)

/-- Meaning of BARKER_WAIT_MET (R127). -/
def execBarkerWaitMet (a : Act) (now : BarkerNow) (s : State) : Host.Outcome State Fault Refusal :=
  .next (barkerWaitMet a now s)

/-- Meaning of BARKER_WAIT_TIMEOUT (R127). -/
def execBarkerWaitTimeout (a : Act) (now : BarkerNow) (s : State) : Host.Outcome State Fault Refusal :=
  .next (barkerWaitTimeout a now s)

/-- Meaning of JOB_RESTART (R131). -/
def execJobRestart (a : Act) (s : State) : Host.Outcome State Fault Refusal :=
  .next (jobRestart a s)

/-- Meaning of SEQ_MCHK_RECOVERY (R135). -/
def execSeqMchkRecovery (a : Act) (crcPass : Bool) (s : State) : Host.Outcome State Fault Refusal :=
  .next (seqMchkRecovery a crcPass s)

/-- Meaning of SEQ_SCRUB_PASS (R136). -/
def execSeqScrubPass (a : Act) (flips : List (Fin 4096 × BarkerWord)) (reloaded : Bool) (s : State) : Host.Outcome State Fault Refusal :=
  .next (seqScrubPass a flips reloaded s)

end Sys2Proof.Machine
end

