-- ==== Sys2Proof/Machine/Motion.lean ====
section
/-!
DEFINITION. What moves the heads and the spindle together: Carousel's regulation state (R205 to R207), Strongman's
latches, retracts and grants (R231, R232, R236), the stop wire, and Trapeze's loops: triggers, misses, commits and what
follows from them (R168 to R186).
-/

namespace Sys2Proof.Machine

/-! ## Carousel (R205) -/

/-- Codes of `CRL_STAT.STATE`. -/
def crlOFF : Nat := 0
/-- STOPPED. -/
def crlSTOPPED : Nat := 1
/-- SENSE. -/
def crlSENSE : Nat := 2
/-- ALIGN. -/
def crlALIGN : Nat := 3
/-- RAMP. -/
def crlRAMP : Nat := 4
/-- DRIVE. -/
def crlDRIVE : Nat := 5
/-- KICK. -/
def crlKICK : Nat := 6
/-- GLIDE. -/
def crlGLIDE : Nat := 7
/-- COAST. -/
def crlCOAST : Nat := 8
/-- CATCH. -/
def crlCATCH : Nat := 9
/-- REGEN. -/
def crlREGEN : Nat := 10
/-- SHORT. -/
def crlSHORT : Nat := 11
/-- FAULT. -/
def crlFAULT : Nat := 12

/-- Carousel's regulation state. -/
def State.crlSt (s : State) : Nat := s.get R.CRL_STAT_STATE

/-- A field of the spindle record in effect (R221). -/
def State.spnLe (s : State) (off n : Nat) : Nat := leNat (getBytes s.spn off n)

/-- Set points in r/min (R213). -/
def spRpm (c : Nat) : Nat := if c = 1 then 3600 else if c = 2 then 5400 else if c = 3 then 7200 else 0

/-- Spindle mode of a regulation state: 0 coast, 1 drive, 2 regenerative brake, 3 short brake (R205). -/
def crlModeOf (st : Nat) : Nat := if 2 ≤ st ∧ st ≤ 6 then 1 else if st = 10 then 2 else if st = 11 then 3 else 0

/-- Offset of a word of a loop's parameter block (R175). -/
def pwOff (n k : Nat) : Nat := 0x8000 + n * 0x200 + 4 * k

/-- A word of a loop's parameter block. -/
def State.pw (s : State) (n k : Nat) : Int := toSigned 32 (s.le 0x0F 0 (pwOff n k) 4)

/-- Sets a word of a loop's parameter block. -/
def State.setPw (s : State) (n k : Nat) (v : Int) : State := s.putWin 0x0F 0 (pwOff n k) (leBytes 4 (ofSigned 32 v))

/-- The references of the speed loop and of the coast-and-kick loop in DRIVE (R205, R216). -/
def State.driveRefs (s : State) : State :=
  let sp := spRpm (s.get R.CRL_STAT_SP) * 1000
  let band : Int := ((sp * s.spnLe 0x16 1 / 1000 : Nat) : Int)
  (((((s.setPw 18 0 sp).setPw 20 0 sp).setPw 20 4 band).setPw 20 5 band).setPw 20 6 1).setPw 20 7 0

/-- Enters a regulation state: the mode sent and the references written with it (R205); a start from rest and a catch
clear `MECH_VALID`, and where the spindle is at rest or the block off no source gives one (R204). -/
def State.crlTo (s : State) (st : Nat) : State :=
  let t := s.puts [(R.CRL_STAT_STATE, st), (V.crlPer, 0), (V.crlMode, crlModeOf st), (V.crlLock, 0), (V.crlZc, 0),
    (V.crlQuiet, 0)]
  let t := if st = crlSTOPPED then t.put V.stmSpin 0
    else if st = crlSENSE ∨ st = crlDRIVE ∨ st = crlCOAST ∨ st = crlCATCH then t.put V.stmSpin 1 else t
  let t := t.when (decide (st = crlOFF ∨ st = crlSTOPPED ∨ st = crlSENSE ∨ st = crlCATCH)) fun t => t.put R.CRL_STAT_MECH_VALID 0
  let t := t.when (decide (st = crlCATCH ∨ st = crlSHORT ∨ st = crlDRIVE)) fun t => t.puts [(V.crlMchk, 0), (V.crlRetry, 0)]
  let sp := spRpm (s.get R.CRL_STAT_SP) * 1000
  if st = crlALIGN then t.setPw 16 0 (10 * s.spnLe 0x08 2)
  else if st = crlRAMP then t.setPw 16 0 (10 * s.spnLe 0x0A 2)
  else if st = crlDRIVE then (t.setPw 16 0 0).driveRefs
  else if st = crlKICK then (t.setPw 16 0 0).setPw 18 0 ((sp * (1000 + 2 * s.spnLe 0x16 1) / 1000 : Nat) : Int)
  else t

/-- What coasts Carousel from any state but OFF, STOPPED and FAULT (R206); CATCH follows once the grant is present
(R207, R220). -/
def State.crlCoast (s : State) : State :=
  let st := s.crlSt
  if st = crlOFF ∨ st = crlSTOPPED ∨ st = crlFAULT then s
  else (if st = crlCOAST then s else s.crlTo crlCOAST).puts [(V.crlWantCatch, 1), (V.crlRetry, 0)]

/-- An unload request to every actuator that is not UNLOADED. -/
def State.unloadAll (s : State) : State :=
  s.forAll (List.range 4) fun a t => if srvUNLOADED < t.srvSt a then t.unloadRequest a false else t

/-- The speed has left ±0.1 % of the set point, or has stayed within it for one revolution (R149, R150, R214). -/
def State.setAtSp (s : State) (b : Bool) : State :=
  let t := (s.putB V.crlSp01 b).putB R.CRL_STAT_AT_SP b
  if b ∧ !s.on R.CRL_STAT_AT_SP then t.evt R.CRL_EVT_SP_REACHED
  else if !b ∧ s.on V.crlSp01 then t.forAll (List.range 4) fun a u => u.withdraw a wiSpeed
  else t

/-! ## Strongman: latches, retracts, grants -/

/-- A field of the supervision record that Strongman has taken (R235). -/
def State.supLe (s : State) (off n : Nat) : Nat := leNat (getBytes s.sup off n)

/-- Strongman sets the laser-off latch of an actuator; the controller die learns it from the status word of the next good
link frame (R25, R109). -/
def State.stmLatch (s : State) (a : Nat) : State := s.setBit R.STM_STAT_LATCH a true

/-- Ball `AG[a]`: the assist-gate request, gated by Strongman's laser-off latch (R25). -/
def State.agBall (s : State) (a : Nat) : Bool := s.on (R.SPT_STAT_AG_REQ a) && !bitOf (s.get R.STM_STAT_LATCH) a

/-- The laser-off latch of an actuator as the status word of a link frame shows it; where it has been set a write in progress
ends (R109, R119). -/
def State.latchSeen (s : State) (a : Nat) : State :=
  let l := bitOf (s.get R.STM_STAT_LATCH) a
  (s.putB (R.SPT_STAT_LATCH a) l).when (l && !s.on (R.SPT_STAT_LATCH a)) fun t => t.endWrite a abLatch true

/-- Sets every laser-off latch. -/
def State.stmLatchAll (s : State) : State := s.forAll (List.range 4) fun a t => t.stmLatch a

/-- Strongman begins its own retract of an actuator whose heads are loaded (R236); nothing is due before a supervision
record has been taken (R235). A bridge that stays open after trips moves nothing (R227), and once the safety monitor has taken over
its push wins (R241). -/
def State.stmRetract (s : State) (a : Nat) (park : Bool) : State :=
  if s.on (V.stmLoaded a) && s.on V.stmTaken && !bitOf (s.get R.STM_STAT_RETRACT) a && !bitOf (s.get R.STM_STAT_VCM_OFF) a &&
      !s.on R.STM_STAT_SM_ACTIVE then
    ((s.setBit R.STM_STAT_RETRACT a true).puts [(V.stmRetPh a, 1), (V.stmRetPark a, b2n park), (V.stmParkN a, 0)]).count
      R.STM_CNT_RETRACT
  else s

/-- Retracts every actuator whose heads are loaded. -/
def State.stmRetractAll (s : State) : State := s.forAll (List.range 4) fun a t => t.stmRetract a false

/-- The supplies are within 10.8 to 13.2 V and 4.5 to 5.5 V: sampled, and no two consecutive samples beyond one threshold
(R228). -/
def State.supplyOk (s : State) : Bool :=
  decide (s.get R.STM_VIN_VIN12 ≠ 0) && [0, 5, 10, 11].all fun i => decide (s.get (V.stmRun i) < 2)

/-- The conditions of R232 that a grant in force keeps needing. -/
def State.grantHolds (s : State) : Bool :=
  decide (s.get V.stopWire = 0) && !s.on R.STM_STAT_AUTON && s.supplyOk && !s.on V.stmOcPend &&
    !((List.range 4).any fun a => s.on (V.stmVcmTrip a)) && !s.on R.STM_STAT_SM_ACTIVE && !s.on (V.pslAtThrot 1)

/-- The conditions of R232 for a new grant of any start. -/
def State.startOk (s : State) : Bool := s.grantHolds && s.on R.STM_CTL_EN && s.on R.STM_STAT_HB_OK

/-- Some grant is in force. -/
def State.anyGrant (s : State) : Bool := s.on R.STM_STAT_GRANT || (List.range 4).any fun a => s.on (V.stmLoadGrant a)

/-- The grants are withdrawn: Strongman coasts the spindle, retracts every loaded actuator and sets the latches (R232); a power-loss
sequence keeps the bridge in the mode it gave it (R237). -/
def State.dropGrants (s : State) : State :=
  if s.anyGrant then
    let t := s.puts [(R.STM_STAT_GRANT, 0), (V.stmLoadGrant 0, 0), (V.stmLoadGrant 1, 0), (V.stmLoadGrant 2, 0),
      (V.stmLoadGrant 3, 0), (V.stmMode, if s.on V.stmPl then s.get V.stmMode else 0)]
    t.stmRetractAll.stmLatchAll
  else s

/-- The grants end when a condition of theirs fails. -/
def State.checkGrant (s : State) : State := if s.grantHolds then s else s.dropGrants

/-- The stop wire is asserted for a cause (bit of `V.stopWire`): writes end, every latch is set, every loaded actuator
retracts, the spindle coasts, and no grant stays (R109, R220, R231, R232). -/
def State.stopAssert (s : State) (bit : Nat) : State :=
  let t := (s.setBit V.stopWire bit true).forAll (List.range 4) fun a t =>
    (t.when (t.on (V.stmLoaded a)) fun u => u.ladderRestart a).endWrite a abStop false
  t.stmLatchAll.stmRetractAll.crlCoast.dropGrants

/-! ## Steps of a start (R484, R496) -/

/-- A step of the start ends: its time is shown and the next one is in progress. -/
def State.stepEnd (s : State) (k : Nat) : State :=
  if s.get R.RMC_STAT_STEP = k then
    s.puts [(R.RMC_T_MS (k - 1), s.get V.msNow - s.get V.startMs), (R.RMC_STAT_STEP, if k = 12 then 0 else k + 1)]
  else s

/-! ## Trapeze loops: descriptors (R169) -/

/-- A field of a loop's descriptor. -/
def State.ldsc (s : State) (n off sz : Nat) : Nat := s.le 0x0F 0 (0x1000 + n * 0x20 + off) sz
/-- `VALID`. -/
def State.lpValid (s : State) (n : Nat) : Bool := bitOf (s.ldsc n 0x11 1) 0
/-- `LAW`. -/
def State.lpLaw (s : State) (n : Nat) : Nat := s.ldsc n 0 1
/-- Kind of `TRIG`: 0 WEDGE, 1 PWM, 2 CHAIN. -/
def State.lpKind (s : State) (n : Nat) : Nat := s.ldsc n 1 1 % 4
/-- Actuator of a loop. -/
def State.lpAct (s : State) (n : Nat) : Nat := s.ldsc n 1 1 / 4 % 4
/-- The loop is a spindle loop. -/
def State.lpSpin (s : State) (n : Nat) : Bool := bitOf (s.ldsc n 1 1) 4
/-- Group number. -/
def State.lpGrp (s : State) (n : Nat) : Nat := s.ldsc n 6 1 % 16
/-- `MEMBER`. -/
def State.lpMember (s : State) (n : Nat) : Bool := bitOf (s.ldsc n 6 1) 4
/-- `TRACK`. -/
def State.lpTrack (s : State) (n : Nat) : Bool := bitOf (s.ldsc n 6 1) 5
/-- `CONSUMER`. -/
def State.lpConsumer (s : State) (n : Nat) : Bool := bitOf (s.ldsc n 6 1) 6
/-- `OUT_SEL`. -/
def State.lpOut (s : State) (n : Nat) : Nat := s.ldsc n 9 1

/-- What is kept of a loop. -/
def State.loop (s : State) (n : Nat) : Loop := Tab.at .idle s.loops n
/-- Replaces it. -/
def State.setLoop (s : State) (n : Nat) (l : Loop) : State := { s with loops := Tab.set .idle s.loops n l }

/-- Codes of `TRZ_STAT.STATE` (R193). -/
def trzOFF : Nat := 0
/-- RUN. -/
def trzRUN : Nat := 1
/-- MCHK. -/
def trzMCHK : Nat := 2
/-- Out of service. -/
def trzOUT : Nat := 3

/-- The milliactuator of an actuator is driven: it is in use, in SETTLE and FOLLOW, and in SEEK once fewer than `MA_SEEK` tracks
remain (R154). -/
def State.maDriven (s : State) (a : Nat) : Bool :=
  s.on (R.SRV_CTL_MA_EN a) && !s.on (R.SRV_STAT_MA_OFF a) &&
    decide (s.srvSt a = srvSETTLE ∨ s.srvSt a = srvFOLLOW ∨ (s.srvSt a = srvSEEK ∧
      ((s.get (R.SRV_POS_TRACK a) : Int) - s.get (R.SRV_TGT_TRACK a)).natAbs < s.get (R.SRV_SEEK_MA_SEEK a)))

/-- A loop runs in the present state of its actuator or of Carousel; one that drives a milliactuator while that is driven
(R154, R171). -/
def State.lpActive (s : State) (n : Nat) : Bool :=
  s.lpValid n && decide (s.lpLaw n ≠ 0) &&
    bitOf (s.ldsc n 0xA 2) (if s.lpSpin n then s.crlSt else s.srvSt (s.lpAct n)) &&
    (decide (s.lpOut n < 4 ∨ 8 ≤ s.lpOut n) || s.maDriven (s.lpOut n - 4))

/-! ## Misses and actions (R181, R183) -/

/-- The actuators an action of a loop concerns. -/
def State.lpActs (s : State) (n : Nat) : List Nat := if s.lpSpin n then List.range 4 else [s.lpAct n]

/-- A deadline miss or following error marks the loop's actuator until its next wedge, and write permission goes (R149,
R181). -/
def State.lpMark (s : State) (n : Nat) : State :=
  if s.lpSpin n then s
  else
    let a := s.lpAct n
    ((s.setBit R.TRZ_DIST_DIST a true).put (V.srvMiss a) 1).withdraw a wiLoop

/-- The action of `FE_ACT` or `MISS_ACT` (R183): the code of a following error or loop fault is written with it. -/
def State.lpDo (s : State) (n act : Nat) (err : Int) (fe : Bool) (timer : Nat) : State :=
  let d := ofSigned 32 err
  if act = 0 then s.when fe fun t => t.post 0x0F 0x13 warning noInst [n, d, timer]
  else if act = 1 then
    let t := (s.setLoop n { s.loop n with inh := true }).forAll (s.lpActs n) fun a t =>
      (t.put (V.trzInh a) 1).withdraw a wiLoop
    t.when fe fun t => t.post 0x0F 0x13 warning noInst [n, d, timer]
  else
    let t := s.post 0x0F 0x14 error noInst [n, d, act]
    if act = 2 then t.forAll (s.lpActs n) fun a t => t.unloadRequest a false
    else t.stopAssert 1

/-- Ends the running routine if it is loop `n`'s. -/
def State.lpStop (s : State) (n : Nat) : State :=
  if s.on R.TRZ_STAT_BUSY ∧ s.get R.TRZ_STAT_LOOP = n then s.puts [(R.TRZ_STAT_BUSY, 0), (V.trzWait, 0), (V.trzLutBusy, 0)]
  else s

/-- The reference of the VIN12 input-current limiter, loop 19 of the shipped set: the budget in force, in 0.1 mA (R180, R215). -/
def State.setVinBudget (s : State) (b : Nat) : State := (s.put V.vinBud b).setPw 19 0 (b : Int)

/-- A run of a loop is left out: a learning run of its actuator starts again (R186). -/
def State.runBroken (s : State) (n : Nat) : State :=
  s.when (!s.lpSpin n && decide (s.lpOut n = s.lpAct n)) fun t => t.put (V.lrnCnt (t.lpAct n)) 0

/-- A deadline miss (R181): the instance is abandoned, its destination and states stay. -/
def State.lpMiss (s : State) (n : Nat) : State :=
  let l := s.loop n
  let lim := s.ldsc n 0x10 1 / 16
  let word := n / 32
  let k := l.misses + 1
  let t := ((s.setLoop n { l with due := none, run := false, misses := k }).lpStop n).setBit (R.TRZ_MISS_MISS word) (n % 32) true
  let t := ((t.count (R.TRZ_CNT_MISS n)).evt R.TRZ_EVT_MISS).post 0x0F 0x11 warning noInst [n, l.trig, s.get V.trzPc]
  let t := (t.lpMark n).runBroken n
  if k = lim then
    let act := s.ldsc n 0x10 1 / 4 % 4
    ((t.evt R.TRZ_EVT_LOOP_FAULT).post 0x0F 0x12 error noInst [n, act]).lpDo n act 0 false 0
  else t

/-! ## Tables that wait for a trigger (R187) -/

/-- Copies a stretch of a block's window from one selector's bytes to another's. -/
def State.copyWin (s : State) (blk src dst off n : Nat) : State :=
  let from_ := winKey blk src off
  let to_ := winKey blk dst off
  { s with win := s.win.filter (fun e => decide (e.1 < to_)) ++
      ((s.win.filter fun e => decide (from_ ≤ e.1 ∧ e.1 < from_ + n)).map fun e => (e.1 - from_ + to_, e.2)) ++
      s.win.filter (fun e => decide (to_ + n ≤ e.1)) }

/-- Offset and length of table `i`, as `V.trzTblPend` numbers them, in the stretches that a replacement takes: parameter blocks, whose
committed words stay (R175), feed-forward tables, the cogging table, descriptors, group entries. -/
def trzTable (i : Nat) : List (Nat × Nat) :=
  if i < 64 then [(0x8000 + i * 0x200, 384), (0x8000 + i * 0x200 + 488, 24)]
  else if i < 68 then [(0x4000 + (i - 64) * 0x400, 0x400)]
  else if i = 68 then [(0x5000, 0x800)]
  else if i < 133 then [(0x1000 + (i - 69) * 0x20, 0x20)]
  else [(0x1800 + (i - 133) * 0x10, 0x10)]

/-- The tables a loop uses, its descriptor first. -/
def State.lpTables (s : State) (n : Nat) : List Nat :=
  let f := s.ldsc n 0x11 1
  (69 + n) :: n :: ((if bitOf f 1 then [64 + s.lpAct n] else []) ++ (if bitOf f 2 then [68] else []) ++
    if s.lpMember n || s.lpConsumer n then [133 + s.lpGrp n] else [])

/-- A replacement of table `i`, which stands under selector 2 of Trapeze's window, takes its place. -/
def State.swapTable (s : State) (i : Nat) : State :=
  (s.forAll (trzTable i) fun x v => v.copyWin 0x0F 2 0 x.1 x.2).puts [(V.trzTblPend i, 0), (V.trzTook i, 0)]

/-- A loop that is triggered takes the replacement of table `i`: it uses the new table from now on, and once every valid loop that uses
the table has been triggered the new one takes the old one's place (R187). -/
def State.takeTable (s : State) (n i : Nat) : State :=
  if !s.on (V.trzTblPend i) then s
  else
    let t := s.put (V.trzTook i) (s.get (V.trzTook i) ||| 2 ^ n)
    t.when ((List.range 64).all fun m => !t.lpValid m || !(t.lpTables m).contains i || bitOf (t.get (V.trzTook i)) m) fun u => u.swapTable i

/-- Replacements that wait take effect, whole, as a loop that uses them is triggered (R187); its descriptor decides what else it
uses. -/
def State.takeTables (s : State) (n : Nat) : State :=
  let t := s.takeTable n (69 + n)
  t.forAll (t.lpTables n) fun i u => u.takeTable n i

/-- The tables as a loop sees them: the replacements it has been triggered with, and those no loop has taken yet as they were
(R187). -/
def State.lpView (s : State) (n : Nat) : State :=
  s.forAll (s.lpTables n) fun i t =>
    t.when (t.on (V.trzTblPend i) && bitOf (t.get (V.trzTook i)) n) fun u =>
      u.forAll (trzTable i) fun x v => v.copyWin 0x0F 2 0 x.1 x.2

/-! ## Triggers (R170) -/

/-- The loops chained to a loop (R170). -/
def State.chained (s : State) (n : Nat) : List Nat :=
  (List.range 64).filter fun m => s.lpValid m && decide (s.lpKind m = 2 ∧ s.ldsc m 2 1 = n)

/-- An active loop owns a destination. -/
def State.owned (s : State) (d : Nat) : Bool := (List.range 64).any fun n => s.lpActive n && decide (s.lpOut n = d)

/-- A destination that no active loop owns has no former owner any more (R171, R172). -/
def State.dropOwners (s : State) : State :=
  s.forAll (List.range 18) fun d t => t.when (t.on (V.trzOwner d) && !t.owned d) fun u => u.put (V.trzOwner d) 0

/-- A trigger of a loop at time `t0` with its sample good or bad. `DIV` counts it whether the loop is active or not. A
gated-off loop's trigger passes to the loops chained to it, whose reference is then parameter word 0. An instance whose
sample is bad is held: nothing runs, nothing is missed, and the loops chained to it are not triggered, for it commits nothing (R170,
R182, R192). -/
def State.lpTrigger (s : State) : Nat → Nat → Nat → Bool → Bool → State
  | 0, _, _, _, _ => s
  | fuel + 1, n, t0, good, ref0 =>
    if !s.lpValid n then s
    else
      let s := s.takeTables n
      let c := s.loop n
      let div := Nat.max 1 (s.ldsc n 3 1)
      let k := (c.divc + 1) % div
      if !s.lpActive n then
        (s.setLoop n { c with ran := false, due := none, run := false, divc := k }).forAll (s.chained n) fun m t =>
          t.lpTrigger fuel m t0 good true
      else
        let t := s.setLoop n { c with divc := k }
        if k ≠ 0 then t
        else
          let t := if c.due.isSome then t.lpMiss n else t
          if !good ∧ !s.lpSpin n then t
          else
            t.setLoop n { t.loop n with due := some (t0 + s.ldsc n 4 2), trig := t0, good := good, run := false, ref0 := ref0 }

/-- Triggers every loop of a kind for which a condition holds. -/
def State.trzTrigger (s : State) (kind : Nat) (p : Nat → Bool) (good : Bool) : State :=
  if s.get R.TRZ_STAT_STATE = trzRUN then
    s.dropOwners.forAll ((List.range 64).filter fun n => s.lpValid n && decide (s.lpKind n = kind) && p n) fun n t =>
      t.lpTrigger 64 n (s.get V.trzNow) good false
  else s

/-- The posting of a position sample by `SRV[a]` (R148, R170). A bad one ends a learning run of the actuator (R186). -/
def State.trzWedge (s : State) (a : Nat) (good : Bool) : State :=
  (s.when (!good) fun t => t.put (V.lrnCnt a) 0).trzTrigger 0 (fun n => !s.lpSpin n && decide (s.lpAct n = a)) good

end Sys2Proof.Machine
end

