-- ==== Sys2Proof/Machine/Servo.lean ====
section
/-!
DEFINITION. The servo demodulators and head positioning (chapter "Servo demodulation and head positioning", R141 to
R163): wedges, position samples, states, loads and unloads.
-/

namespace Sys2Proof.Machine

/-! ## Decoding a wedge -/

/-- Cells of the address mark read wrong at a place (R142). -/
def samDist (cells : List Bool) (at_ : Nat) : Nat := hamming samCells ((cells.drop at_).take 16)

/-- Of two places that match, the one that wins: the lowest distance, then the nearer to the prediction (R142); of two as near,
the earlier (DESIGN CHOICE, log entry 62). -/
def samBetter (cells : List Bool) (centre : Int) (x y : Nat) : Nat :=
  let dx := ((x : Int) - centre).natAbs
  let dy := ((y : Int) - centre).natAbs
  if samDist cells x < samDist cells y then x
  else if samDist cells y < samDist cells x then y
  else if dy < dx then y else x

/-- The address mark's place: of the places within a window around the prediction whose distance is within the limit, the one
that wins (R142). -/
def samFind (cells : List Bool) (centre : Int) (win hd : Nat) : Option Nat :=
  ((List.range (cells.length - 15)).filter fun (p : Nat) =>
      decide (((p : Int) - centre).natAbs ≤ win ∧ samDist cells p ≤ hd)).foldl
    (fun best p => some (match best with
      | some x => samBetter cells centre x p
      | none => p)) none

/-- The wedge number of an index field, when both of its parity bits pass and it is below W (R36, R144). -/
def indexRead (w : Nat) (v : Nat) : Option Nat :=
  let n := v / 4
  if evenPar n [9, 7, 5, 3, 1] = bitOf v 1 ∧ evenPar n [8, 6, 4, 2, 0] = bitOf v 0 ∧ n < w then some n else none

/-- Gray code to number, most significant bit first (R37). -/
def grayNat (l : List Bool) : Nat :=
  (l.foldl (fun (p : Nat × Bool) g => let b := xor p.2 g; (2 * p.1 + b2n b, b)) (0, false)).1

/-- Distance between two naturals. -/
def dist (x y : Nat) : Nat := if x ≤ y then y - x else x - y

/-- The track number of the dibits: one erased bit takes the candidate nearer the prediction, two or more make it
invalid (R145). -/
def trackRead (pred : Nat) (g : List (Option Bool)) : Option Nat :=
  let er := (g.filter Option.isNone).length
  let v (b : Bool) : Nat := grayNat (g.map fun x => x.getD b)
  if er = 0 then some (v false)
  else if er = 1 then some (if dist (v false) pred ≤ dist (v true) pred then v false else v true)
  else none

/-- Division rounded to nearest; a tie goes as `Config.roundUp` says (R146). -/
def roundDiv (n : Int) (d : Nat) : Int :=
  let q := n / (d : Int)
  let r := n - q * d
  if 2 * r < d then q else if (d : Int) < 2 * r then q + 1 else if Config.roundUp q then q + 1 else q

/-- The offset of the head from the decoded track's centreline, in 1/2,048 track (R146). -/
def burstOffset (t a b c d kn kq : Nat) : Int :=
  let sg : Int := if t % 2 = 0 then 1 else -1
  let n : Int := sg * ((b : Int) - a)
  let q : Int := sg * ((d : Int) - c)
  if a + b = 0 then Config.burstRatio a b c d
  else if 2 * n ≤ ((a + b : Nat) : Int) ∧ -((a + b : Nat) : Int) ≤ 2 * n then roundDiv (n * kn) (4 * (a + b))
  else if c + d = 0 then Config.burstRatio a b c d
  else roundDiv ((if 0 < n then 1 else -1) * 4096 * ((c + d : Nat) : Int) + q * kq) (4 * (c + d))

/-- The RRO correction in 1/2,048 track; none when its parity fails (R39). -/
def rroRead (v : Nat) : Option Int :=
  if evenPar v [11, 10, 9, 8, 7, 6, 5, 4, 3, 2, 1] = bitOf v 0 then some (toSigned 11 (v / 2))
  else none

/-- A signed value as a 16-bit register shows it. -/
def reg16 (i : Int) : Nat := if -32768 ≤ i ∧ i ≤ 32767 then ofSigned 16 i else Config.outOfRange16 i

/-- Burst sums kept of an actuator's head. -/
def State.ampsOf (s : State) (a : Nat) : List Nat := Tab.at [] s.amps a

/-- The burst sum is within its limits of the running mean; the first sum after a restart is accepted (R147). -/
def State.ampOk (s : State) (a sum : Nat) : Bool :=
  let l := s.ampsOf a
  let tot := l.foldl (· + ·) 0
  decide (l = []) || decide (s.get (R.SRV_SAM_AMP_MIN a) * tot ≤ sum * l.length * 256 ∧ sum * l.length ≤ 2 * tot)

/-- The track the state predicts for the next wedge, and the window around it; none while nothing is predicted (R145). How the
velocity is estimated the rule leaves open: here it is the difference of the last two positions at a good wedge, and the track
predicted from it is rounded down (DESIGN CHOICE, log entry 63). -/
def State.predTrack (s : State) (a : Nat) : Nat × Option Nat :=
  let st := s.srvSt a
  let prev : Int := s.get (R.SRV_POS_TRACK a) * 2048 + s.get (V.srvPosSub a)
  if st = srvFOLLOW ∨ st = srvSETTLE then
    (((s.get (R.SRV_TGT_TRACK a) : Int) + (s.getI (V.srvOfsNow a)).tdiv 2048).toNat, some 1)
  else if st = srvSEEK then
    (((prev + s.getI (V.srvVel a)) / 2048).toNat, some (s.get (R.SRV_SEEK_GRAY_WIN a)))
  else (s.get (R.SRV_POS_TRACK a), none)

/-! ## What follows from a wedge -/

/-- First lock, or relock from HOLD: SEEK towards the target, where a seek that lock was lost in resumes (R152). It waits while the
mate's write gate holds seeks (R156). The first lock after a load sets LOAD_DONE and ends
a wake once no actuator is still loading (R493). -/
def State.locked (s : State) (a : Nat) : State :=
  let first := decide (s.srvSt a = srvACQUIRE)
  let new := first || decide (s.get (V.srvSeekTry a) = 2)
  let t := (s.when new fun t =>
    t.puts [(V.srvSeekW a, 0), (V.srvSeekTry a, 0), (V.srvSeekFrom a, s.get (R.SRV_POS_TRACK a))]).setSrv a srvSEEK
  let t := t.when first fun t => (t.put (V.srvLoadFails a) 0).evt (R.SRV_EVT_LOAD_DONE a)
  let t := t.when (first && (List.range t.nact).all fun b => t.onTrack b || t.actDown b || !t.on (R.SRV_CTL_EN b)) fun t =>
    t.stepEnd 9
  let t := t.when (first && s.on (V.srvUnlReq a)) fun t => (t.put (V.srvUnlReq a) 0).unloadNow a
  t.when (first && t.on V.cvnWaking && decide (t.get R.CVN_STAT_PS ≠ 5) && (List.range 4).all fun b =>
    decide (t.nact ≤ b) || t.onTrack b || t.actDown b) fun t => (t.put V.cvnWaking 0).setPs 0

/-- Loss of lock: HOLD (R152). Code 0x10 gives the causes of all the bad wedges of the run as a mask: 1 the address mark missed,
2 the index, 4 the track number, 8 the bursts. Which bit stands for which cause is the model's own (DESIGN CHOICE, log entry
64). -/
def State.lockLost (s : State) (a causes : Nat) : State :=
  let t := s.withdraw a wiBad
  (((t.setSrv a srvHOLD).evt (R.SRV_EVT_LOCK_LOST a)).count (R.SRV_CNT_LOCKLOSS a)).post 0x0E 0x10 warning a
    [s.get (R.SRV_STAT_HEAD a), s.get (R.SRV_TGT_TRACK a), s.get (R.SRV_PES_PES a), causes]

/-- FOLLOW is reached: no seek is in progress any more, and a head switch is no longer refused (R152, R153, R157). -/
def State.toFollow (s : State) (a : Nat) : State :=
  (s.puts [(V.srvSeekTry a, 2), (V.srvSeekW a, 0), (V.srvHswRef a, 0), (V.srvOfsRun a, 0)]).setSrv a srvFOLLOW

/-- The servo state after a wedge whose sample is good or not, with its position error (R152). -/
def State.srvStep (s : State) (a : Nat) (good : Bool) (pes : Int) (causes : Nat) : State :=
  let st := s.srvSt a
  let mag := pes.natAbs
  let badRun := if good then 0 else Nat.min 31 (s.get (V.srvBadRun a) + 1)
  let goodRun := if good then Nat.min 3 (s.get (V.srvGoodRun a) + 1) else 0
  let why := (if good then 0 else s.get (V.srvBadWhy a)) ||| causes
  let w := if s.get (V.srvSeekTry a) = 2 ∨ st = srvACQUIRE then s.get (V.srvSeekW a)
    else Nat.min 131071 (s.get (V.srvSeekW a) + 1)
  let t := s.puts [(V.srvBadRun a, badRun), (V.srvGoodRun a, goodRun), (V.srvBadWhy a, why), (V.srvSeekW a, w)]
  if st = srvACQUIRE ∨ st = srvHOLD then
    if goodRun = 3 ∧ !s.mateHolds a then t.locked a else t
  else if s.get (R.SRV_SAM_LOST_LIM a) ≤ badRun then t.lockLost a why
  else
    if st = srvSEEK then
      if good ∧ mag < 2048 then t.setSrv a srvSETTLE else t
    else if st = srvSETTLE then
      let n := if good ∧ mag ≤ s.get (R.SRV_WI_RD_THR a) then s.get (V.srvSetRun a) + 1 else 0
      let t := t.put (V.srvSetRun a) n
      if s.get (R.SRV_WI_SET_CNT a) ≤ n then t.toFollow a else t
    else
      let n := if good ∧ mag ≤ s.get (R.SRV_WI_WI_THR a) then Nat.min 31 (s.get (V.srvWrRun a) + 1) else 0
      (t.put (V.srvWrRun a) n).when (decide (s.get (R.SRV_WI_SET_CNT a) ≤ n)) fun t => t.put (V.srvWrSet a) 1

/-- An `SRV_OFS` value takes effect at the wedge; in FOLLOW the actuator settles again (R152, R161). -/
def State.ofsAtWedge (s : State) (a : Nat) : State :=
  if s.on (V.srvOfsPend a) then
    let old := s.getI (V.srvOfsNow a)
    let new := toSigned 16 (s.get (V.srvOfsNext a))
    let t := s.puts [(V.srvOfsPend a, 0), (V.srvOfsNow a, s.get (V.srvOfsNext a)), (V.srvOfsW a, 0),
      (V.srvOfsRun a, b2n (decide (new ≠ 0 ∧ old ≠ new)))]
    if s.srvSt a = srvFOLLOW ∧ old ≠ new then
      (t.withdraw a wiTarget).setSrv a (if (new - old).natAbs ≤ 2048 then srvSETTLE else srvSEEK)
    else t
  else s

/-- A seek error, with its start track and the wedges elapsed: counted, recorded, its time remembered with that of the one before;
`V.srvSeekErr` is then how many of the last three fall within 1 s (R153, R163). -/
def State.seekError (s : State) (a start wedges : Nat) : State :=
  let now := s.get V.msNow
  let n := s.get (V.srvSeekErr a)
  let n1 := decide (1 ≤ n ∧ now < s.get (V.srvSeekT a) + 1000)
  let n2 := n1 && decide (2 ≤ n ∧ now < s.get (V.srvSeekT2 a) + 1000)
  ((((s.evt (R.SRV_EVT_SEEK_ERR a)).count (R.SRV_CNT_SEEKERR a)).post 0x0E 0x11 warning a
    [s.get (R.SRV_STAT_HEAD a), start, s.get (R.SRV_TGT_TRACK a), wedges])).puts
    [(V.srvSeekErr a, 1 + b2n n1 + b2n n2), (V.srvSeekT2 a, s.get (V.srvSeekT a)), (V.srvSeekT a, now)]

/-- Three seek errors within 1 s: unload and reload (R153). -/
def State.seekLimit (s : State) (a : Nat) : State :=
  s.when (decide (s.get (V.srvSeekErr a) = 3)) fun t =>
    (t.puts [(V.srvSeekErr a, 0), (V.srvReload a, 1)]).unloadNow a

/-- A rung-2 offset without read settle within 20 wedges of its being applied, whatever the states passed through, is a seek error,
and its re-read is skipped (R153). Its start track is the present one, from which it was to settle. -/
def State.rung2Late (s : State) (a : Nat) : State :=
  if s.get (R.CHN_STAT_RUNG a) = 2 ∧ s.on (V.srvOfsRun a) then
    let n := s.get (V.srvOfsW a) + 1
    if 20 < n then (((s.puts [(V.srvOfsW a, 0), (V.srvOfsRun a, 0)]).seekError a (s.get (R.SRV_POS_TRACK a)) n).seekLimit a).when
        (decide (s.get (R.CHN_STAT_RUNG a) = 2)) fun t =>
          if h : a < 4 then retryRung ⟨a, h⟩ false t else t
    else s.put (V.srvOfsW a) n
  else s

/-- The index of a wedge is judged against the prediction (R144): the index used, whether it is valid. After a load the
prediction is the index of before the unload plus 1, for the rule names no other: the first wedges then count IDXERR and adopt a
slip (DEDUCED, log entry 65). -/
def State.indexStep (s : State) (a : Nat) (x : Nat) : State × Bool :=
  let w := s.fmtW
  let p := if w = 0 then 0 else (s.get (V.srvIdx a) + 1) % w
  match indexRead w x with
  | none => ((s.puts [(V.srvIdx a, p), (V.srvSlip a, 0)]).count (R.SRV_CNT_IDXERR a), false)
  | some v =>
    if v = p then (s.puts [(V.srvIdx a, v), (V.srvSlip a, 0)], true)
    else
      let n := if 0 < s.get (V.srvSlip a) ∧ v = (s.get (V.srvSlipIdx a) + 1) % w then s.get (V.srvSlip a) + 1 else 1
      let t := (s.puts [(V.srvIdx a, p), (V.srvSlip a, n), (V.srvSlipIdx a, v)]).count (R.SRV_CNT_IDXERR a)
      if n = 3 then
        ((((t.puts [(V.srvIdx a, v), (V.srvSlip a, 0)]).evt (R.SRV_EVT_IDX_SLIP a)).post 0x0E 0x14 warning a
          [s.get (R.SRV_STAT_HEAD a), p, v]), false)
      else (t, false)

/-- The heater follows the operation at a wedge: write power counts its pre-heat wedges, and after a touchdown the idle power
returns (R112). -/
def State.heaterAtWedge (s : State) (a : Nat) : State :=
  (s.when (s.on (V.tfhHtw a) && decide (0 < s.get (V.tfhPre a))) fun t => t.put (V.tfhPre a) (t.get (V.tfhPre a) - 1)).when
    (s.on (V.tfhIdle a)) fun t => t.idleHeater a

/-- Another actuator follows on a head already measured; global head 0 is the reference itself (R159). -/
def State.hskewRef (s : State) (a : Nat) : Bool :=
  (List.range 4).any fun b =>
    let h := s.ghead b (s.get (R.SRV_STAT_HEAD b))
    decide (b ≠ a ∧ s.srvSt b = srvFOLLOW) && (decide (h = 0) || s.on (V.srvHskewMeas h))

/-- A head skew re-measured while the head and an already measured head are in FOLLOW together is written when it changed by
more than 16 LSB (R159). -/
def State.hskewUpdate (s : State) (a : Nat) (m : Option (BitVec 16)) : State :=
  match m with
  | none => s
  | some v =>
    if ¬(s.srvSt a = srvFOLLOW ∧ s.hskewRef a) then s else
    let l := s.get (R.SRV_STAT_HEAD a)
    let d := toSigned 16 ((v.toNat + 65536 - s.get (R.SRV_HEADA_HSKEW a l)) % 65536)
    let t := s.put (V.srvHskewMeas (s.ghead a l)) 1
    if 16 < d.natAbs then t.put (R.SRV_HEADA_HSKEW a l) v.toNat else t

/-- A seek to a track begins: an actuator over the media with lock enters SEEK (R152). -/
def State.seekTo (s : State) (a track : Nat) : State :=
  let t := s.put (R.SRV_TGT_TRACK a) track
  if s.onTrack a then
    ((t.withdraw a wiTarget).puts [(V.srvSeekW a, 0), (V.srvSeekTry a, 0),
      (V.srvSeekFrom a, s.get (R.SRV_POS_TRACK a))]).setSrv a srvSEEK
  else t

/-- The period of a wedge in counts of the timebase (R141): the mean over the last 16 wedges, over as many as there are before that,
rounded down (DESIGN CHOICE, log entry 77), and the nominal one, 60 s over W and the spindle speed, before the second wedge. -/
def State.wedgePeriod (s : State) (a : Nat) : Nat :=
  match Tab.at [] s.sams a with
  | x :: y :: l => ((x + 4294967296 - (y :: l).getLastD y) % 4294967296) / (l.length + 1)
  | _ => 96000000000000 / (s.fmtW * s.get R.CRL_SPEED_SPEED)

/-- The shift of the wedges while a head switch is in progress: the difference of the two heads' `HSKEW` in counts (R157). -/
def State.skewShift (s : State) (a : Nat) : Int :=
  if s.on (V.srvHsw a) then s.getI (V.srvHswD a) * ((s.fmtW * s.wedgePeriod a : Nat) : Int) / 65536 else 0

/-- The timebase at which the next address mark is predicted: one period after the last wedge's (R141, R157); none before the first
one after a load. -/
def State.samNext (s : State) (a : Nat) : Option Nat :=
  (Tab.at [] s.sams a).head?.map fun x => ((((x + s.wedgePeriod a : Nat) : Int) + s.skewShift a) % 4294967296).toNat

/-- Where the next address mark is predicted among the cells, counted from the first of them at `FMT_C` cells a period (R141). -/
def State.samCentre (s : State) (a : Nat) (w : WedgeRead) : Int :=
  match s.samNext a with
  | some x => toSigned 32 ((x + 4294967296 - w.start.toNat) % 4294967296) * (s.fmtC : Int) / (s.wedgePeriod a : Int)
  | none => 0

/-- The half-window of the search (R142): twice as wide for the first wedge after a head switch (R157), the whole slot in HOLD
(R152), and in ACQUIRE until a good wedge gives a spacing to predict from, which the rule leaves open (DESIGN CHOICE, log entry
62). -/
def State.samWin (s : State) (a : Nat) : Nat :=
  if s.srvSt a = srvHOLD ∨ (s.srvSt a = srvACQUIRE ∧ s.get (V.srvGoodRun a) = 0) then s.fmtC
  else if s.on (V.srvHsw a) then 2 * s.get (R.SRV_SAM_SAM_WIN a) else s.get (R.SRV_SAM_SAM_WIN a)

/-- The timebase at a place among the cells, in whole counts (R141, R142). -/
def State.samStamp (s : State) (a : Nat) (w : WedgeRead) (at_ : Nat) : Nat :=
  (w.start.toNat + at_ * s.wedgePeriod a / Nat.max 1 s.fmtC) % 4294967296

/-- A wedge joins the measured ones, its mark found at a place or predicted (R141, R143). A head switch shifts those kept to the new
head (R157). A mark found outside the ordinary window, in the wide search of ACQUIRE or HOLD, starts the measurement afresh (DESIGN
CHOICE, log entry 77). -/
def State.keepSam (s : State) (a : Nat) (w : WedgeRead) (found : Option Nat) : State :=
  let old := (Tab.at [] s.sams a).map fun x => (((x : Int) + s.skewShift a) % 4294967296).toNat
  let new : List Nat := match found, s.samNext a with
    | some p, none => [s.samStamp a w p]
    | some p, some _ =>
      if ((p : Int) - s.samCentre a w).natAbs ≤ 2 * s.get (R.SRV_SAM_SAM_WIN a) then (s.samStamp a w p :: old).take 17
      else [s.samStamp a w p]
    | none, some x => (x :: old).take 17
    | none, none => old
  { s with sams := Tab.set [] s.sams a new }

/-- The track number of the dibits of a wedge, within its window around the prediction (R145). -/
def State.wedgeTrack (s : State) (a : Nat) (g : List (Option Bool)) : Option Nat :=
  let p := s.predTrack a
  match trackRead p.1 g, p.2 with
  | some v, some n => if dist v p.1 ≤ n then some v else none
  | some v, none => some v
  | none, _ => none

/-- The mate's write gate has closed: an unload or a seek that waited for it is performed (R156). -/
def State.afterMate (s : State) (a : Nat) : State :=
  if s.mateHolds a then s
  else if s.on (V.srvUnlWait a) then s.toUnloading a
  else if s.on (V.srvSeekPend a) then (s.put (V.srvSeekPend a) 0).seekTo a (s.get (V.srvSeekNx a))
  else s

/-- The stroke measurement at a wedge (R154): on the first head to reach FOLLOW after a load, and while an ageing run of the selected
head is being taken, +4 V for 32 wedges and then −4 V for 32; the order of the signs is the model's (DESIGN CHOICE, log entry 78).
Leaving FOLLOW ends it, to begin anew. -/
def State.maWedge (s : State) (a : Nat) : State :=
  let n := s.get (V.srvMaStep a)
  let h := s.ghead a (s.get (R.SRV_STAT_HEAD a))
  let aged := s.on R.TLR_STAT_MEASURING && s.dues.any fun d => decide (d.1 = h)
  if s.srvSt a ≠ srvFOLLOW ∨ !s.on (R.SRV_CTL_MA_EN a) ∨ s.on (R.SRV_STAT_MA_OFF a) then s.put (V.srvMaStep a) 0
  else if 0 < n then s.put (V.srvMaStep a) (Nat.min 65 (n + 1))
  else if !s.on (V.srvMaMeas a) || (aged && !s.on (V.srvMaAge a)) then s.put (V.srvMaStep a) 1
  else s

/-- The header fields of a wedge have been read: the history that the grant looks at moves on by one wedge, and a permission whose
conditions no longer hold is withdrawn (R149, R150). -/
def State.wedgeHeader (s : State) (a : Nat) (sam idxOk : Bool) (trk : Option Nat) : State :=
  let onTgt := decide (trk = some (s.get (R.SRV_TGT_TRACK a)))
  let t := s.puts [(V.srvSamOut a, 1), (V.srvMissP a, s.get (V.srvMiss a)), (V.srvMiss a, 0),
    (V.srvHdrOk a, b2n (sam && idxOk && onTgt)),
    (V.srvPes2 a, s.get (V.srvPes1 a)), (V.srvPes1 a, s.get (V.srvPes0 a)), (V.srvGood1 a, s.get (V.srvGood0 a))]
  t.when (!t.wpHolds a) fun u =>
    u.withdraw a (if !sam then wiMiss else if !idxOk then wiBad else if !onTgt then wiTrack else wiPred)

/-- The position of a wedge in 1/2,048 track on the track in use (R146). -/
def State.wedgePos (s : State) (a t : Nat) (w : WedgeRead) (corr : Int) : Int :=
  let l := s.get (R.SRV_STAT_HEAD a)
  t * 2048 + burstOffset t w.a w.b w.c w.d (s.get (R.SRV_HEADB_KN a l)) (s.get (R.SRV_HEADB_KQ a l)) + corr

/-- The sample of a wedge is posted to Trapeze (R148), and permission is withdrawn and held off by what it says (R150). -/
def State.postSample (s : State) (a : Nat) (good ampOk : Bool) (pos corr : Int) : State :=
  let pes := pos - (s.get (R.SRV_TGT_TRACK a) * 2048 + s.getI (V.srvOfsNow a))
  let prev : Int := s.get (R.SRV_POS_TRACK a) * 2048 + s.get (V.srvPosSub a)
  let thr : Int := s.get (R.SRV_WI_WI_THR a)
  let inThr := good && decide (pes ≤ thr ∧ -thr ≤ pes)
  let held := s.on (V.srvWiHold a)
  let s := s.puts [(R.SRV_STAT_LOCK a, b2n good), (V.srvGood0 a, b2n good), (V.srvSmpOk a, b2n inThr)]
  let s := s.when ampOk fun u => (u.puts [(R.SRV_POS_TRACK a, (pos / 2048).toNat), (V.srvPosSub a, (pos % 2048).toNat),
    (R.SRV_PES_PES a, reg16 pes), (R.SRV_PES_RRO a, ofSigned 16 corr)]).putI (V.srvPes0 a) pes
  let s := s.when good fun u => (u.putI (V.srvVel a) (pos - prev)).put (V.srvGoodTrk a) (pos / 2048).toNat
  let s := (s.setBit R.TRZ_DIST_DIST a false).trzWedge a good
  let s := s.when (!inThr) fun u => u.withdraw a (if good then wiPes else wiBad)
  s.when held fun u => u.put (V.srvWiHold a) (if inThr then u.get (V.srvWiHold a) - 1 else u.get (R.SRV_WI_WI_GOOD a))

/-- The posting of a detected, good wedge of the feed source to Carousel (R158). The resolution and the rounding of the rotor angle
the rule leaves open: it is rounded down to 1/65,536 revolution (DESIGN CHOICE, log entry 66). -/
def State.postFeed (s : State) (a : Nat) : State :=
  let l := s.get (R.SRV_STAT_HEAD a)
  s.puts [(V.crlMedStamp, s.get (R.SRV_FEED_STAMP a)), (V.crlMedIdx, s.get (V.srvIdx a)),
    (V.crlMedAng, (s.get (V.srvIdx a) * 65536 / Nat.max 1 s.fmtW + s.get (R.SRV_HEADA_HSKEW a l)) % 65536),
    (V.crlMedMiss, 0), (V.crlMedRun, Nat.min 255 (s.get V.crlMedRun + 1)), (V.crlMedNew, 1)]

/-- A wedge of a loaded actuator, its address mark found at a place among the cells or predicted (R142 to R150, R152, R158). A
head switch is no longer in progress once a wedge of the new head has passed, detected or predicted: when it ends the rules leave
open (DESIGN CHOICE, log entry 67). Nothing is said of an RRO sync other than 1001, nor of a cell pair of the RRO field that is no
dibit: the field stands at its distance from the address mark whatever its sync reads, and of such a pair the second cell counts and
the parity judges (DESIGN CHOICE, log entry 62). -/
def State.wedge (s : State) (a : Nat) (w : WedgeRead) (found : Option Nat) : State :=
  if ¬(srvACQUIRE ≤ s.srvSt a ∧ s.srvSt a ≤ srvHOLD) then s
  else
    let at_ := found.getD (s.samCentre a w).toNat
    let sam := found.isSome
    let s := (s.ofsAtWedge a).heaterAtWedge a
    let s := if sam then s.put (R.SRV_FEED_STAMP a) (s.samStamp a w at_) else s.count (R.SRV_CNT_SAMMISS a)
    let s := ((s.keepSam a w found).put (V.srvHsw a) 0).refreshFeed
    let r := s.indexStep a (dibitNat 12 (w.cells.drop (at_ + cellIndex)))
    let s := r.1
    let trk := s.wedgeTrack a (dibits 22 (w.cells.drop (at_ + cellTrack)))
    let s := s.when trk.isNone fun t => t.count (R.SRV_CNT_GRAYERR a)
    let t := trk.getD (s.predTrack a).1
    let sum := w.a + w.b + w.c + w.d
    let ampOk := s.ampOk a sum
    let s := s.when (!ampOk) fun t => t.count (R.SRV_CNT_BURSTERR a)
    let good := sam && r.2 && trk.isSome && ampOk
    let s := s.when good fun u => { u with amps := Tab.set [] u.amps a ((sum :: u.ampsOf a).take 64) }
    let rro := rroRead (dibitNat 12 (w.cells.drop (at_ + cellRro)))
    let s := s.when rro.isNone fun t => t.count (R.SRV_CNT_RROPAR a)
    let corr := if s.on (R.SRV_CTL_RRO_EN a) then rro.getD 0 else 0
    let pos := s.wedgePos a t w corr
    let pes := pos - (s.get (R.SRV_TGT_TRACK a) * 2048 + s.getI (V.srvOfsNow a))
    let s := (s.wedgeHeader a sam r.2 trk).postSample a good ampOk pos corr
    let s := s.when (good && decide (s.feedSource = some a)) fun u => u.postFeed a
    let s := s.hskewUpdate a w.hskew
    ((((s.srvStep a good pes (b2n (!sam) + 2 * b2n (!r.2) + 4 * b2n trk.isNone + 8 * b2n (!ampOk))).rung2Late a)).afterMate a).maWedge a

/-! ## Meanings -/

/-- SERVO_WEDGE: the address mark is searched in its window (R142); a wedge without one is a predicted one (R143). -/
def servoWedge (a : Act) (w : WedgeRead) (s : State) : State :=
  s.wedge a w (samFind w.cells (s.samCentre a w) (s.samWin a) (s.get (R.SRV_SAM_SAM_HD a)))

/-- SAM_PREDICTED: no address mark; the wedge is demodulated at predicted timing and is bad (R143). -/
def samPredicted (a : Act) (w : WedgeRead) (s : State) : State := s.wedge a w none

/-- SEEK_START: the Juggler's new target (R26, R152); on an actuator over the media it waits while the mate's write gate holds
seeks (R156). -/
def seekStart (a : Act) (track : BitVec 24) (s : State) : State :=
  if s.nact ≤ a then s
  else if s.onTrack a && s.mateHolds a then s.puts [(V.srvSeekPend a, 1), (V.srvSeekNx a, track.toNat)]
  else (s.put (V.srvSeekPend a) 0).seekTo a track.toNat

/-- The job of an actuator whose seek failed twice returns to the Juggler as failed (R153). -/
def State.seekFailed (s : State) (a : Nat) : State :=
  match s.jobOf a with
  | some j => if j.writes then (s.setJob a none).writeFailed a j else s.endJob a (0, 0x06)
  | none => s

/-- SEEK_TIMEOUT: not in FOLLOW within `SEEK_TO` wedges. The first attempt is re-issued once from the current position, the second
fails the job (R153). In HOLD the seek that is re-issued resumes at relock (R152); one that the mate's write gate holds waits
(R156). -/
def seekTimeout (a : Act) (s : State) : State :=
  if (s.onTrack a || decide (s.srvSt a = srvHOLD)) ∧ s.get (V.srvSeekTry a) < 2 ∧
      s.get (R.SRV_SEEK_SEEK_TO a) ≤ s.get (V.srvSeekW a) then
    let t := s.seekError a (s.get (V.srvSeekFrom a)) (s.get (V.srvSeekW a))
    let t := if s.get (V.srvSeekTry a) = 0 then
        let u := t.puts [(V.srvSeekW a, 0), (V.srvSeekTry a, 1), (V.srvSeekFrom a, s.get (R.SRV_POS_TRACK a))]
        if s.srvSt a = srvHOLD then u
        else if s.mateHolds a then u.puts [(V.srvSeekPend a, 1), (V.srvSeekNx a, s.get (R.SRV_TGT_TRACK a))]
        else u.setSrv a srvSEEK
      else (t.puts [(V.srvSeekW a, 0), (V.srvSeekTry a, 2)]).seekFailed a
    t.seekLimit a
  else s

/-- A load request is not refused for another reason than the spindle's speed: UNLOADED, not barred after failures, granted, and
no Strongman retract reported (R155, R160). -/
def State.loadAsked (s : State) (a : Nat) : Bool :=
  decide (s.srvSt a = srvUNLOADED) && !s.on (V.srvNoLoad a) && s.loadGrantSeen a && !s.retractSeen a

/-- A load may start now, the spacing of loads apart (R155, R160). -/
def State.loadOk (s : State) (a : Nat) : Bool := s.loadAsked a && s.on V.crlSp05

/-- No other actuator started a load in the preceding 100 ms (R155), and the mate's write gate does not hold loads (R156). -/
def State.loadSpaced (s : State) (a : Nat) : Bool :=
  decide (s.get V.loadLastMs = 0 ∨ s.get V.loadLastAct = a ∨ s.get V.loadLastMs + 99 ≤ s.get V.msNow) && !s.mateHolds a

/-- Step 8 of a start ends when every actuator has started LOADING, those out of service apart (R484). -/
def State.loadsBegun (s : State) : State :=
  if (List.range s.nact).all fun b => decide (srvLOADING ≤ s.srvSt b) || s.actDown b || !s.on (R.SRV_CTL_EN b) then s.stepEnd 8 else s

/-- LOADING begins; the milliactuator is in use again (R154, R155). -/
def State.loadBegin (s : State) (a : Nat) : State :=
  (s.puts [(V.srvLoadReq a, 0), (V.srvReload a, 0), (V.srvUnlReq a, 0), (V.loadLastMs, s.get V.msNow + 1), (V.loadLastAct, a),
    (R.SRV_STAT_MA_OFF a, 0), (V.srvMaMeas a, 0), (V.srvMaStep a, 0), (V.measFresh a, 0), (V.stmLoaded a, 1)]).setSrv a srvLOADING |>.loadsBegun

/-- LOAD_REQUEST: refused unless its conditions hold; one that comes too soon after another load waits (R155). In KICK or
GLIDE Carousel enters DRIVE first, and the load waits for the speed (R206, R220). -/
def loadRequest (a : Act) (s : State) : State :=
  if !s.loadAsked a then s
  else if s.crlSt = crlKICK ∨ s.crlSt = crlGLIDE then (s.crlTo crlDRIVE).put (V.srvLoadReq a) 1
  else if !s.loadOk a then s
  else if s.loadSpaced a then s.loadBegin a
  else s.put (V.srvLoadReq a) 1

/-- LOAD_DEFERRED_START: the 100 ms are over and the mate's write gate does not hold loads (R155, R156). -/
def loadDeferredStart (a : Act) (s : State) : State :=
  if s.on (V.srvLoadReq a) && s.loadOk a && s.loadSpaced a then s.loadBegin a else s

/-- LOADING_OFF_RAMP: ACQUIRE; the grant of the load is withdrawn as its move completes (R152, R232). -/
def loadingOffRamp (a : Act) (s : State) : State :=
  if s.srvSt a = srvLOADING then
    let t := ((s.put (V.stmLoadGrant a) 0).setSrv a srvACQUIRE)
    let t := { t with amps := Tab.set [] t.amps a [], sams := Tab.set [] t.sams a [] }
    if s.on (V.srvUnlReq a) then (t.put (V.srvUnlReq a) 0).unloadNow a else t.idleHeater a
  else s

/-- ACQUIRE_TIMEOUT: a load failure; after the third in a row the actuator stays unloaded (R152, R155, R262). Code 0x13 gives each
attempt's cause as the code of the state it timed out in, which is the model's own numbering (DESIGN CHOICE, log entry 64). -/
def acquireTimeout (a : Act) (s : State) : State :=
  if s.srvSt a ≠ srvACQUIRE then s
  else
    let n := s.get (V.srvLoadFails a) + 1
    let t := (s.put (V.srvLoadFails a) n).unloadNow a
    if 3 ≤ n then
      ((((t.put (V.srvNoLoad a) 1).evt (R.SRV_EVT_LOAD_FAIL a)).post 0x0E 0x13 error a
        [srvACQUIRE, srvACQUIRE, srvACQUIRE])).refreshAct a 0x0E 0x13
    else t.post 0x0E 0x12 warning a [n, srvACQUIRE]

/-- HOLD_RELOCK_TIMEOUT: no relock within `ACQ_TO`; the heads unload (R152). -/
def holdRelockTimeout (a : Act) (s : State) : State :=
  if s.srvSt a = srvHOLD then s.unloadNow a else s

/-- LOAD_RETRY: the load is tried again after a failure, or after the unload of R153 (R155). -/
def loadRetry (a : Act) (s : State) : State :=
  if s.on (V.srvLoadFails a) || s.on (V.srvReload a) then loadRequest a s else s

/-- UNLOAD_REQUEST. -/
def unloadRequestCmd (a : Act) (soon : Bool) (s : State) : State := s.unloadRequest a soon

/-- HEADS_ON_RAMP (R152). -/
def headsOnRamp (a : Act) (s : State) : State :=
  if s.srvSt a = srvUNLOADING then s.toUnloaded a else s

/-- A measured stroke off by more than 25 % of `MA_GAIN` takes the milliactuator out of use until the next load (R154). -/
def State.maJudge (s : State) (a l measured : Nat) : State :=
  let g := s.get (R.SRV_HEADA_MA_GAIN a l)
  if g < 4 * dist measured g then
    (((s.puts [(R.SRV_STAT_MA_OFF a, 1), (V.srvMaStep a, 0)]).evt (R.SRV_EVT_MA_OFF a)).post 0x0E 0x15 warning a [l, g, measured])
  else s

/-- MA_STROKE_MEASURE: the result of a measurement whose two steps have been held (R154). That of an ageing run is applied with the
run's other results. -/
def maStrokeMeasure (a : Act) (measured : BitVec 16) (s : State) : State :=
  if s.srvSt a ≠ srvFOLLOW ∨ s.get (V.srvMaStep a) ≠ 65 then s
  else (s.puts [(V.srvMaStep a, 0), (V.srvMaAge a, b2n (s.on (V.srvMaMeas a))), (V.srvMaMeas a, 1)]).maJudge a
    (s.get (R.SRV_STAT_HEAD a)) measured.toNat

/-- The conditions of R162, in order of their codes. -/
def State.srvReasons (s : State) (a : Nat) : List (Bool × Nat) :=
  let g := s.get
  let heads := List.range 10
  [ (decide (s.nact ≤ a), 0x0E01),
    (!s.on R.MMG_CTL_FMT_COMMIT, 0x0E02),
    (!s.on (R.SPT_STAT_ENUM_DONE a), 0x0E03),
    (!(inR 2 32 (g (R.SRV_SAM_SAM_WIN a)) && inR 2 8 (g (R.SRV_SAM_LOST_LIM a)) && inR 64 224 (g (R.SRV_SAM_AMP_MIN a)) &&
       inR 20 1023 (g (R.SRV_WI_WI_THR a)) && inR 1 15 (g (R.SRV_WI_WI_GOOD a)) && inR 20 1023 (g (R.SRV_WI_RD_THR a)) &&
       inR 1 15 (g (R.SRV_WI_SET_CNT a)) && inR 100 65535 (g (R.SRV_SEEK_SEEK_TO a)) &&
       inR 1 255 (g (R.SRV_SEEK_GRAY_WIN a)) && inR 20 255 (g (R.SRV_LOAD_LD_VEL a)) &&
       inR 20 255 (g (R.SRV_LOAD_UNLD_VEL a)) && inR 20 255 (g (R.SRV_LOAD_ACQ_TO a)) &&
       inR 0 180 (g (R.SRV_MATE_WR_IMAX a)) && heads.all fun l =>
         inR 2048 8191 (g (R.SRV_HEADB_KN a l)) && inR 2048 8191 (g (R.SRV_HEADB_KQ a l))), 0x0E04),
    (decide (g (R.SRV_MATE_KFF a) ≠ 0) && (s.mate a).isNone, 0x0E05),
    (s.on (R.SRV_CTL_MA_EN a) && (List.range s.nhpa).any fun l => decide (g (R.SRV_HEADA_MA_GAIN a l) = 0), 0x0E06) ]

/-- `SRV_CTL.EN` 0→1: R162, then UNLOADED (R152). -/
def State.srvEnable (s : State) (a : Nat) : State × Nat :=
  s.enable (R.SRV_CTL_EN a) (R.SRV_CHK_REASON a) (s.srvReasons a) fun t => t.setSrv a srvUNLOADED

/-- SRV_ENABLE. -/
def srvEnableCmd (a : Act) (s : State) : State := (s.srvEnable a).1

/-- Clearing `SRV_CTL.EN`: OFF; a later enable may load again (R155, R162). -/
def State.srvDisable (s : State) (a : Nat) : State :=
  ((s.withdraw a wiState).puts [(R.SRV_CTL_EN a, 0), (V.srvNoLoad a, 0), (V.srvLoadFails a, 0), (R.SRV_STAT_LOCK a, 0),
    (V.srvSeekPend a, 0), (V.srvUnlWait a, 0), (V.srvLoadReq a, 0), (V.srvReload a, 0), (V.srvMaStep a, 0)]).setSrv a srvOFF |>.refreshAct a 0x0E 0x13

/-- A write of `SRV_OFS`: within −512 to +512 it takes effect at the next wedge; outside it gives 0x0009 and leaves the
register (R161). An instance held in reset takes nothing (R26). -/
def State.ofsWrite (s : State) (a v : Nat) : State × Nat :=
  let i := toSigned 16 (v % 65536)
  if s.nact ≤ a then (s, 0)
  else if -512 ≤ i ∧ i ≤ 512 then
    ((s.puts [(R.SRV_OFS_OFS a, v), (V.srvOfsPend a, 1), (V.srvOfsNext a, v)]).when (decide (i ≠ 0)) fun t => t.withdraw a wiTarget, 0)
  else (s, 0x0009)

/-- SRV_OFS_WRITE. -/
def srvOfsWriteCmd (a : Act) (v : BitVec 16) (s : State) : State := (s.ofsWrite a v.toNat).1

/-! ## Commands -/

/-- Meaning of SERVO_WEDGE (R142). -/
def execServoWedge (a : Act) (w : WedgeRead) (s : State) : Host.Outcome State Fault Refusal :=
  .next (servoWedge a w s)

/-- Meaning of SAM_PREDICTED (R143). -/
def execSamPredicted (a : Act) (w : WedgeRead) (s : State) : Host.Outcome State Fault Refusal :=
  .next (samPredicted a w s)

/-- Meaning of SEEK_START (R152). -/
def execSeekStart (a : Act) (track : BitVec 24) (s : State) : Host.Outcome State Fault Refusal :=
  .next (seekStart a track s)

/-- Meaning of SEEK_TIMEOUT (R153). -/
def execSeekTimeout (a : Act) (s : State) : Host.Outcome State Fault Refusal :=
  .next (seekTimeout a s)

/-- Meaning of LOAD_REQUEST (R155). -/
def execLoadRequest (a : Act) (s : State) : Host.Outcome State Fault Refusal :=
  .next (loadRequest a s)

/-- Meaning of LOAD_DEFERRED_START (R155). -/
def execLoadDeferredStart (a : Act) (s : State) : Host.Outcome State Fault Refusal :=
  .next (loadDeferredStart a s)

/-- Meaning of LOADING_OFF_RAMP (R152). -/
def execLoadingOffRamp (a : Act) (s : State) : Host.Outcome State Fault Refusal :=
  .next (loadingOffRamp a s)

/-- Meaning of ACQUIRE_TIMEOUT (R152). -/
def execAcquireTimeout (a : Act) (s : State) : Host.Outcome State Fault Refusal :=
  .next (acquireTimeout a s)

/-- Meaning of HOLD_RELOCK_TIMEOUT (R152). -/
def execHoldRelockTimeout (a : Act) (s : State) : Host.Outcome State Fault Refusal :=
  .next (holdRelockTimeout a s)

/-- Meaning of LOAD_RETRY (R155). -/
def execLoadRetry (a : Act) (s : State) : Host.Outcome State Fault Refusal :=
  .next (loadRetry a s)

/-- Meaning of UNLOAD_REQUEST (R152). -/
def execUnloadRequest (a : Act) (soon : Bool) (s : State) : Host.Outcome State Fault Refusal :=
  .next (unloadRequestCmd a soon s)

/-- Meaning of MA_STROKE_MEASURE (R154). -/
def execMaStrokeMeasure (a : Act) (measured : BitVec 16) (s : State) : Host.Outcome State Fault Refusal :=
  .next (maStrokeMeasure a measured s)

/-- Meaning of SRV_ENABLE (R162). -/
def execSrvEnable (a : Act) (s : State) : Host.Outcome State Fault Refusal :=
  .next (srvEnableCmd a s)

/-- Meaning of SRV_OFS_WRITE (R161). -/
def execSrvOfsWrite (a : Act) (v : BitVec 16) (s : State) : Host.Outcome State Fault Refusal :=
  .next (srvOfsWriteCmd a v s)

end Sys2Proof.Machine
end

