-- ==== Sys2Proof/Machine/Trapeze.lean ====
section
/-!
DEFINITION. The closed-loop control engine (chapter "Trapeze closed-loop control engine", R164 to R195): inputs, laws,
competition groups, feed-forward, commits, microwords, machine checks, enable.
-/

namespace Sys2Proof.Machine

/-! ## Inputs and destinations (R171, R174) -/

/-- Largest `MAX_TRK` of an actuator's heads (R184). -/
def State.trackMax (s : State) (a : Nat) : Nat := ((s.headsOf a).map s.maxTrk).foldl Nat.max 0

/-- A signed 16-bit value of a byte table in Trapeze's window. -/
def State.trz16 (s : State) (off : Nat) : Int := toSigned 16 (s.le 0x0F 0 off 2)

/-- Offset of point `i` of an actuator's feed-forward table (R184). -/
def ffOff (a i : Nat) : Nat := 0x4000 + a * 0x400 + 4 * i

/-- Point and fraction of a track in an actuator's table: i, numerator and denominator of f (R184). -/
def State.ffPoint (s : State) (a track : Nat) : Nat × Nat × Nat :=
  let m := Nat.max 1 (s.trackMax a)
  let x := Nat.min track m * 255
  let i := Nat.min (x / m) 254
  (i, x - i * m, m)

/-- Bias of a track (R184). -/
def State.ffBias (s : State) (a track : Nat) : Int :=
  let p := s.ffPoint a track
  lerp (s.trz16 (ffOff a p.1)) (s.trz16 (ffOff a (p.1 + 1))) p.2.1 p.2.2

/-- Friction of a track, of its lower point (R184 interpolates the bias only). -/
def State.ffFric (s : State) (a track : Nat) : Int := (s.le 0x0F 0 (ffOff a (s.ffPoint a track).1 + 2) 2 : Int)

/-- Cogging term of the rotor's mechanical angle (R185). -/
def State.ffCog (s : State) : Int :=
  let g := s.get R.CRL_ANGLE_MECH
  lerp (s.trz16 (0x5000 + 2 * (g / 64))) (s.trz16 (0x5000 + 2 * ((g / 64 + 1) % 1024))) (g % 64) 64

/-- A phase current, its offset taken off; a leg whose low side was on for less than 1.2 µs in that period, the dead time taken off
(R197), is minus the sum of the others (R198). -/
def State.phase (s : State) (i : Nat) : Int :=
  let raw (j : Nat) : Int := s.getI (V.phCur j) - s.getI (V.crlOff j)
  if (65536 - s.get (V.crlDutyIn i)) * 16000 < (1200 + 25 * s.get R.CRL_PWM_DEADTIME) * 65536 then -(raw ((i + 1) % 3)) - raw ((i + 2) % 3) else raw i

/-- Σ duty × phase current plus Σ|VCM current|: the VIN12 input current (R174). -/
def State.inputCurrent (s : State) : Int :=
  roundFree (((List.range 3).map fun i => (s.get (V.crlDutyIn i) : Int) * s.phase i).foldl (· + ·) 0) 65536 +
    ((List.range 4).map fun a => ((s.getI (V.vcmCur a)).natAbs : Int)).foldl (· + ·) 0

/-- An input of a loop by its code (R174). -/
def State.trzIn (s : State) (c : Nat) : Int :=
  let a := c % 4
  if c < 0x04 then s.getI (V.srvPes0 a)
  else if c < 0x08 then
    if s.srvSt a = srvLOADING ∨ s.srvSt a = srvUNLOADING then s.getI (V.bemfVel a) else s.getI (V.srvVel a)
  else if c < 0x0C then s.getI (V.vcmCur a)
  else if c < 0x10 then
    if s.srvSt a = srvLOADING then (100 * s.get (R.SRV_LOAD_LD_VEL a) : Nat)
    else if s.srvSt a = srvUNLOADING then (100 * s.get (R.SRV_LOAD_UNLD_VEL a) : Nat) else 0
  else if c = 0x10 then (s.get R.CRL_SPEED_SPEED : Int)
  else if c = 0x11 then s.getI V.spnId
  else if c = 0x12 then s.getI V.spnIq
  else if c = 0x13 then s.inputCurrent
  else if c = 0x14 then (s.get V.linkV12 : Int)
  else if 0x20 ≤ c ∧ c < 0x60 then s.pw (c - 0x20) 120
  else 0

/-- What a destination without an active loop carries: a VCM the bias at its last good position, any other 0 (R171). -/
def State.unowned (s : State) (d : Nat) : Int := if d < 4 then s.ffBias d (s.get (V.srvGoodTrk d)) else 0

/-- What a destination carries: the demand committed last while an active loop owns it, and after a gap in which none did nothing of
before the gap until that loop's first commit (R171). -/
def State.destVal (s : State) (d : Nat) : Int :=
  if s.owned d ∧ s.on (V.trzOwner d) ∧ s.get R.TRZ_STAT_STATE = trzRUN then s.getI (V.trzDest d)
  else s.unowned d

/-- What a milliactuator's destination carries: the step of a stroke measurement while one runs (R154), its loop's output
otherwise. -/
def State.maDemand (s : State) (a : Nat) : Int :=
  let n := s.get (V.srvMaStep a)
  if 1 ≤ n ∧ n ≤ 32 then 4000 else if 33 ≤ n ∧ n ≤ 64 then -4000 else s.destVal (4 + a)

/-! ## Groups (R179) -/

/-- A field of a group's entry. -/
def State.grp (s : State) (g off sz : Nat) : Nat := s.le 0x0F 0 (0x1800 + g * 0x10 + off) sz

/-- The mate-write clamp of R156 for an actuator: the mate's write gate is open, from its WW turn-on (R160), and the actuator
seeks, loads or unloads. -/
def State.mateClamp (s : State) (a : Nat) : Option Int :=
  match s.mate a with
  | some m =>
    if s.gateOpen m ∧ (s.srvSt a = srvSEEK ∨ s.srvSt a = srvLOADING ∨ s.srvSt a = srvUNLOADING) then
      some ((100 * s.get (R.SRV_MATE_WR_IMAX m) : Nat) : Int)
    else none
  | none => none

/-- The loops of a group with a role. -/
def State.grpLoops (s : State) (g : Nat) (role : Nat → Bool) : List Nat :=
  (List.range 64).filter fun n => s.lpValid n && decide (s.lpGrp n = g) && role n

/-- The group result: the lowest of LIMIT, each selected EXT value and each member's committed output, negative outputs
taken as 0. -/
def State.grpResult (s : State) (g : Nat) : Int :=
  let ext := s.grp g 1 1
  let cons := s.grpLoops g s.lpConsumer
  let spin := cons.any s.lpSpin
  let lim : Int := (s.grp g 2 2 : Int)
  let a := (cons.map s.lpAct).getD 0 0
  let psl : List Int := if bitOf ext 0 then
      [((if spin then s.get R.PSL_EXT_SPN_LIM else s.get R.PSL_EXT_VCM_LIM) : Int)] else []
  let mate : List Int := if bitOf ext 1 then (s.mateClamp a).toList else []
  let mem := (s.grpLoops g s.lpMember).map fun n => max 0 (s.pw n 120)
  (psl ++ mate ++ mem).foldl min lim

/-- `GKIND` of a group. -/
def State.grpKind (s : State) (g : Nat) : Nat := s.grp g 0 1

/-- The group result as a loop sees it: its consumer resolves the group at its own commit, any other loop sees what was resolved
last (R168, R179). -/
def State.grpSeen (s : State) (n : Nat) : Int :=
  if s.lpConsumer n then s.grpResult (s.lpGrp n) else s.getI (V.trzGrp (s.lpGrp n))

/-- The competition groups of the shipped image (R180): kind, `EXT` and `LIMIT`. The rule gives group 0 no `LIMIT`; its largest value
rations nothing (DESIGN CHOICE, log entry 79). Groups 5 to 15 are off. -/
def shippedGroup (g : Nat) : Nat × Nat × Nat :=
  if g = 0 then (1, 1, 65535) else if g < 5 then (2, 3, 18000) else (0, 0, 0)

/-- A shipped group as the 16 bytes of its entry (R179). -/
def shippedEntry (g : Nat) : List Byte :=
  let x := shippedGroup g
  let b := leBytes 1 x.1 ++ leBytes 1 x.2.1 ++ leBytes 2 x.2.2 ++ leBytes 8 0
  b ++ leBytes 4 (crc32c b)

/-- The shipped groups stand where the Tailor store holds no entry of a group that a valid loop names, for the shipped image is
what a store is filled with (R180; DESIGN CHOICE, log entry 79). -/
def State.shipGroups (s : State) : State :=
  s.forAll (List.range 16) fun g t =>
    let k := winKey 0x0F 0 (0x1800 + g * 0x10)
    let blank := t.tstore.all fun e => !decide (k ≤ e.1 ∧ e.1 < k + 16)
    let named := (List.range 64).any fun n => t.lpValid n && decide (t.lpGrp n = g) && (t.lpMember n || t.lpConsumer n)
    t.when (blank && named) fun u => u.putWin 0x0F 0 (0x1800 + g * 0x10) (shippedEntry g)

/-! ## Laws (R176 to R178) -/

/-- Sign of an integer. -/
def sgn (i : Int) : Int := if i < 0 then -1 else if 0 < i then 1 else 0

/-- A quotient rounded to nearest, ties away from zero. -/
def roundAway (n : Int) (d : Nat) : Int := sgn n * ((2 * n.natAbs + d) / (2 * d) : Nat)

/-- The reference of a loop (R169, R179, R185). -/
def State.lpRef (s : State) (n : Nat) : Int :=
  let c := s.ldsc n 0x12 1
  let r := if (s.loop n).ref0 ∨ c = 0xFF then s.pw n 0
    else if c = 0xFE then s.grpSeen n else s.trzIn c
  if bitOf (s.ldsc n 0x11 1) 2 ∧ s.on R.CRL_STAT_MECH_VALID then r + s.ffCog else r

/-- The input of a loop. -/
def State.lpIn (s : State) (n : Nat) : Int := s.trzIn (s.ldsc n 8 1)

/-- The feed-forward terms of a loop; the mate's demand is that of the latest link frame sent (R156, R184). -/
def State.lpFf (s : State) (n : Nat) : Int :=
  let f := s.ldsc n 0x11 1
  let a := s.lpAct n
  let trk := s.get (R.SRV_POS_TRACK a)
  let vcm := if bitOf f 1 then
      s.ffBias a trk + (if s.srvSt a = srvSEEK then sgn (s.lpRef n) * s.ffFric a trk else 0) else 0
  let mate := if bitOf f 3 && s.on (R.SRV_CTL_FF_MATE_EN a) then
      match s.mate a with
      | some m => roundShift (toSigned 16 (s.get (R.SRV_MATE_KFF a)) * s.getI (V.vcmSent m)) 14
      | none => 0 else 0
  vcm + mate

/-- One section of the biquad form after another: output and new states (R176). -/
def State.biquad (s : State) (n : Nat) : Nat → Nat → Int → Int × List (Nat × Int)
  | 0, _, x => (x, [])
  | k + 1, i, x =>
    let w (j : Nat) : Int := s.pw n (4 + 5 * i + j)
    let s1 := s.pw n (96 + 2 * i)
    let s2 := s.pw n (97 + 2 * i)
    let y := roundShift (w 0 * x + s1 * 2 ^ 28) 28
    let r := State.biquad s n k (i + 1) y
    (r.1, (96 + 2 * i, roundShift (w 1 * x - w 3 * y + s2 * 2 ^ 28) 28) ::
      (97 + 2 * i, roundShift (w 2 * x - w 4 * y) 28) :: r.2)

/-- The state-space form: output and new states (R176). -/
def State.stateSpace (s : State) (n : Nat) (e : Int) : Int × List (Nat × Int) :=
  let m := s.ldsc n 7 1
  let x (i : Nat) : Int := s.pw n (96 + i)
  let sum (f : Nat → Int) : Int := ((List.range m).map f).foldl (· + ·) 0
  let y := roundShift (sum (fun j => s.pw n (4 + m * m + m + j) * x j) + s.pw n (4 + m * m + 2 * m) * e) 28
  (y, (List.range m).map fun i =>
    (96 + i, roundShift (sum (fun j => s.pw n (4 + m * i + j) * x j) + s.pw n (4 + m * m + i) * e) 28))

/-- The output of a TABLE (R178). -/
def State.tableOut (s : State) (n : Nat) (x : Int) : Int :=
  let k := (s.pw n 4).toNat
  let px (i : Nat) : Int := s.pw n (8 + 2 * i)
  let py (i : Nat) : Int := s.pw n (9 + 2 * i)
  if x ≤ px 0 then py 0
  else match (List.range (k - 1)).find? fun i => decide (x < px (i + 1)) with
    | none => py (k - 1)
    | some i =>
      let w := Nat.max 1 (px (i + 1) - px i).toNat
      roundAway (py i * w + (py (i + 1) - py i) * (x - px i)) w

/-- The handover offset of this run (R172): it starts when the destination passes to the loop, and decays after. -/
def State.lpHo (s : State) (n : Nat) (u0 : Int) : Int :=
  let sh := (s.pw n 3).toNat
  let d := s.lpOut n
  let o := s.get (V.trzOwner d)
  if sh = 0 ∨ 0x20 ≤ d then 0
  else if o = n + 1 ∧ (s.loop n).ran then s.pw n 121 - roundShift (s.pw n 121) sh
  else s.destVal d - u0

/-- The limits of a LINEAR loop's output: a member that TRACKs is held under the group result, the consumer of a CLAMP group
within it (R176). -/
def State.lpLimits (s : State) (n : Nat) : Int × Int :=
  let g := s.grpSeen n
  let hi := s.pw n 2
  let hi := if s.lpMember n ∧ s.lpTrack n ∧ g < hi then g else hi
  if s.lpConsumer n && decide (s.grpKind (s.lpGrp n) = 2) then (max (s.pw n 1) (-g), min hi g) else (s.pw n 1, hi)

/-- An output within a LINEAR loop's limits; the consumer of a CLAMP group within its result, whatever its law (R176 to R179). -/
def State.lpClamp (s : State) (n : Nat) (u : Int) : Int :=
  if s.lpLaw n = 1 ∨ s.lpLaw n = 2 then min (max u (s.lpLimits n).1) (s.lpLimits n).2
  else if s.lpConsumer n && decide (s.grpKind (s.lpGrp n) = 2) then clampI (-(s.grpSeen n)) (s.grpSeen n) u
  else u

/-- One run of a loop's law: output, new states, handover offset. -/
def State.lawStep (s : State) (n : Nat) : Int × List (Nat × Int) × Int :=
  let law := s.lpLaw n
  let r := s.lpRef n
  let x := s.lpIn n
  if law = 1 ∨ law = 2 then
    let e := r - x
    let p := if law = 1 then s.biquad n (s.ldsc n 7 1) 0 e else s.stateSpace n e
    let u0 := p.1 + s.lpFf n
    let ho := s.lpHo n u0
    let u := u0 + ho
    let out := s.lpClamp n u
    (out, if out ≠ u ∧ sgn e = sgn (u - out) then [] else p.2, ho)
  else if law = 3 then
    let st := s.pw n 96
    let dw := s.pw n 97
    let on := decide (st = 0 ∧ x < r - s.pw n 4 ∧ s.pw n 9 ≤ dw)
    let off := decide (st ≠ 0 ∧ r + s.pw n 5 < x ∧ s.pw n 8 ≤ dw)
    let st' : Int := if on then 1 else if off then 0 else st
    let dw' := if on || off then 0 else dw
    let u0 := if st' ≠ 0 then s.pw n 6 else s.pw n 7
    let ho := s.lpHo n u0
    (s.lpClamp n (u0 + ho), [(96, st'), (97, min (dw' + 1) 65535)], ho)
  else
    let u0 := s.tableOut n x
    let ho := s.lpHo n u0
    (s.lpClamp n (u0 + ho), [], ho)

/-! ## Learning (R186) -/

/-- A learning change of one 16-bit point, held to `LRN_MAX` a step and to `DEV_MAX` of the value last loaded from the Tailor
store, which stands under selector 1 of Trapeze's window. A replacement that the loop which learns has taken, and another loop has
not yet, is what it learns on (R187). -/
def State.learnPoint (s : State) (table pt off : Nat) (step : Int) : State :=
  let old := if s.on (V.trzTblPend (64 + table)) then toSigned 16 (s.le 0x0F 2 off 2) else s.trz16 off
  let base := toSigned 16 (s.le 0x0F 1 off 2)
  let mx : Int := s.get R.TRZ_LRN_LRN_MAX
  let dv : Int := s.get R.TRZ_LRN_DEV_MAX
  let st := clampI (-mx) mx step
  let v := clampI (base - dv) (base + dv) (old + st)
  let t := (s.putWin 0x0F 0 off (leBytes 2 (ofSigned 16 v))).when (s.on (V.trzTblPend (64 + table))) fun u =>
    u.putWin 0x0F 2 off (leBytes 2 (ofSigned 16 v))
  if st ≠ step ∨ v ≠ old + st then
    (t.evt R.TRZ_EVT_TBL_CLAMP).post 0x0F 0x16 warning noInst [table, pt, ofSigned 32 step]
  else t

/-- VCM bias learning at a commit of the VCM loop of an actuator. -/
def State.learnVcm (s : State) (n : Nat) (out : Int) : State :=
  let a := s.lpAct n
  if s.lpSpin n ∨ s.lpOut n ≠ a then s
  else if !s.on R.TRZ_CTL_LRN_VCM_EN ∨ s.srvSt a ≠ srvFOLLOW then s.put (V.lrnCnt a) 0
  else
    let trk := s.get (R.SRV_POS_TRACK a)
    let keep := decide (s.get (V.lrnCnt a) ≠ 0 ∧ s.get (V.lrnTrk a) = trk)
    let c := if keep then s.get (V.lrnCnt a) + 1 else 1
    let sum := (if keep then s.getI (V.lrnSum a) else 0) + (out - (s.lpView n).lpFf n)
    let t := (s.puts [(V.lrnCnt a, c), (V.lrnTrk a, trk)]).putI (V.lrnSum a) sum
    if c = 256 then
      let p := s.ffPoint a trk
      let sh := s.get R.TRZ_LRN_LRN_SH
      ((t.put (V.lrnCnt a) 0).learnPoint a p.1 (ffOff a p.1)
        (learnStep sum 256 (p.2.2 - p.2.1) p.2.2 sh)).learnPoint a (p.1 + 1) (ffOff a (p.1 + 1))
        (learnStep sum 256 p.2.1 p.2.2 sh)
    else t

/-- Cogging learning at a commit of the speed loop, loop 18 of the shipped set: a run is 64 whole revolutions, counted from the bin it
starts in, which `V.cogLast` is counted from too. -/
def State.learnCog (s : State) (n : Nat) (out : Int) : State :=
  if n ≠ 18 then s
  else if !(s.on R.TRZ_CTL_LRN_COG_EN && s.on V.crlSp01 && s.on R.CRL_STAT_MECH_VALID) then
    { s with cog := [] }.put V.cogRev 0
  else
    let b := s.get R.CRL_ANGLE_MECH / 64
    let o : Int × Nat := Tab.at (0, 0) s.cog b
    let t := { s with cog := Tab.set (0, 0) s.cog b (o.1 + out, o.2 + 1) }
    let from_ := if s.cog = [] then b else s.get V.cogFrom
    let p := (b + 1024 - from_) % 1024
    let rev := if s.cog = [] then 0 else s.get V.cogRev + b2n (decide (p < s.get V.cogLast))
    if rev < 64 then t.puts [(V.cogRev, rev), (V.cogLast, p), (V.cogFrom, from_)]
    else
      let tot : Int := (t.cog.map fun e => e.2.1).foldl (· + ·) 0
      let cnt : Nat := (t.cog.map fun e => e.2.2).foldl (· + ·) 0
      let u := t.forAll t.cog fun e u => u.learnPoint 4 e.1 (0x5000 + 2 * e.1)
        (learnStep (e.2.1 * cnt - tot * e.2.2) (e.2.2 * cnt) 1 1 (s.get R.TRZ_LRN_LRN_SH))
      { u with cog := [] }.put V.cogRev 0

/-! ## Commit (R168), supervisor (R183) -/

/-- Write permission withheld by INHIBIT follows the loops that still withhold it. -/
def State.refreshInh (s : State) : State :=
  s.forAll (List.range 4) fun a t =>
    t.putB (V.trzInh a) ((List.range 64).any fun n => (t.loop n).inh && (t.lpSpin n || decide (t.lpAct n = a)))

/-- The following-error supervisor at a commit. -/
def State.supervise (s : State) (n : Nat) (err : Int) : State :=
  let l := s.loop n
  let now := s.get V.trzNow
  let thr := s.ldsc n 0xC 2
  if thr = 0 ∨ err.natAbs ≤ thr then
    if l.feT.isSome ∨ l.inh then (s.setLoop n { l with feT := none, inh := false }).refreshInh else s
  else
    match l.feT with
    | none => s.setLoop n { l with feT := some now }
    | some t0 =>
      if now < t0 + 1000 * s.ldsc n 0xE 2 then s
      else
        let t := (((s.setLoop n { l with feT := some now }).setBit (R.TRZ_FE_FE (n / 32)) (n % 32) true).count
          (R.TRZ_CNT_FE n)).evt R.TRZ_EVT_FE
        (t.lpMark n).lpDo n (s.ldsc n 0x10 1 % 4) err true ((now - t0) / 1000)

/-- Writes words of a loop's parameter block. -/
def State.setPws (s : State) (n : Nat) : List (Nat × Int) → State
  | [] => s
  | e :: l => (s.setPw n e.1 e.2).setPws n l

/-- The commit of a loop: its group resolved where it is the consumer, states, output, destination; then the supervisor, learning
and the chained loops. -/
def State.lpCommit (s : State) (n : Nat) (out : Int) (sts : List (Nat × Int)) (ho : Int) : State :=
  let v := s.lpView n
  let err := v.lpRef n - v.lpIn n
  let l := s.loop n
  let d := s.lpOut n
  let t := s.when (s.lpConsumer n) fun t => t.putI (V.trzGrp (s.lpGrp n)) (v.grpResult (s.lpGrp n))
  let t := ((t.setPws n sts).setPw n 120 out).setPw n 121 ho
  let t := if d < 0x20 then (t.puts [(V.trzOwner d, n + 1), (V.trzLinkFree, 0)]).putI (V.trzDest d) out else t
  let t := t.setLoop n { l with due := none, run := false, ran := true, misses := 0 }
  let t := ((t.supervise n err).learnVcm n out).learnCog n out
  t.forAll (s.chained n) fun m u => u.lpTrigger 64 m l.trig l.good false

/-! ## Dispatch (R173) -/

/-- The instance that is due and not yet dispatched with the earliest absolute deadline, ties to the lower number; a loop gated
off meanwhile does not run (R171). -/
def State.lpNext (s : State) : Option Nat :=
  let c := (List.range 64).filter fun n => (s.loop n).due.isSome && !(s.loop n).run && s.lpActive n
  c.foldl (fun b n => match b with
    | none => some n
    | some m => if (s.loop n).due.getD 0 < (s.loop m).due.getD 0 then some n else some m) none

/-- LOOP_DISPATCH: the loop's routine runs. `whole`: to its end in this step, its law evaluated and committed; otherwise
it is entered, and its microwords follow as commands of their own. `UTIL`, the share of busy cycles, is a free value: which
cycles were busy the microcode decides (R164, R193). -/
def loopDispatch (whole : Bool) (s : State) : State :=
  if s.get R.TRZ_STAT_STATE ≠ trzRUN ∨ s.on R.TRZ_STAT_BUSY then s
  else match s.lpNext with
    | none => s
    | some n =>
      let l := s.loop n
      let t := ((s.puts [(R.TRZ_STAT_LOOP, n), (R.TRZ_STAT_UTIL, s.freeVal % 101)]).drew).setLoop n { l with run := true }
      if whole then
        let r := (s.lpView n).lawStep n
        t.lpCommit n r.1 r.2.1 r.2.2
      else
        { t with tstk := [], tshd := (List.range 25).map fun i => (96 + i, s.pw n (96 + i)) }.puts
          [(R.TRZ_STAT_BUSY, 1), (V.trzAcc, 0), (V.trzN, 0), (V.trzZ, 0), (V.trzSatd, 0), (V.trzLutRdy, 0),
           (V.trzLutBusy, 0), (V.trzWait, 0), (V.trzPc, Config.loopEntry (s.lpLaw n))]

/-- The instance of a loop is not committed in time: a miss, or nothing where the loop has been gated off meanwhile (R171, R181). -/
def State.lpLate (s : State) (n : Nat) : State :=
  if s.lpActive n then s.lpMiss n
  else (s.setLoop n { s.loop n with due := none, run := false, ran := false }).lpStop n

/-- LOOP_DEADLINE_MISS: an instance not committed by its deadline; a commit in the same cycle stands (R181, R192). A loop gated
off meanwhile does not miss, and a WAIT after the commit word ends with the deadline (R167, R171). -/
def loopDeadlineMiss (n : Fin 64) (s : State) : State :=
  if s.get R.TRZ_STAT_STATE ≠ trzRUN then s
  else if (s.loop n).due.isSome then s.lpLate n
  else if s.on V.trzWait then s.lpStop n
  else s

/-! ## Microwords (R165) -/

/-- Bits of a slice. -/
def slBits (q : BitVec 32) (lo n : Nat) : Nat := q.toNat / 2 ^ lo % 2 ^ n
/-- `OP`. -/
def twOp (w : TrzWord) : Nat := slBits w.s0 27 5
/-- `CMT`. -/
def twCmt (w : TrzWord) : Bool := w.s0.getLsbD 26
/-- `TARGET`. -/
def twTarget (w : TrzWord) : Nat := slBits w.s0 13 13
/-- `COND`. -/
def twCond (w : TrzWord) : Nat := slBits w.s0 9 4
/-- `SRCA`. -/
def twA (w : TrzWord) : Nat := slBits w.s1 20 10
/-- `SRCB`. -/
def twB (w : TrzWord) : Nat := slBits w.s1 10 10
/-- `DST`. -/
def twDst (w : TrzWord) : Nat := slBits w.s1 0 10
/-- `TO_VAL`. -/
def twToVal (w : TrzWord) : Nat := slBits w.s3 0 16
/-- `TO_BR`. -/
def twToBr (w : TrzWord) : Bool := w.s3.getLsbD 16

/-- Slices whose even parity fails. -/
def twParityMask (w : TrzWord) : Nat :=
  let p (q : BitVec 32) (i : Nat) : Nat := b2n (xor (parityOf q) (w.par.getLsbD i))
  p w.s0 0 + 2 * p w.s1 1 + 4 * p w.s2 2 + 8 * p w.s3 3 + 16 * p w.s4 4

/-- Cause of a machine check at fetch, 0 for none (R191, R193). -/
def twCheck (w : TrzWord) : Nat :=
  if twParityMask w ≠ 0 then 1
  else if 0x12 < twOp w then 2
  else if (twOp w = 2 ∨ twOp w = 5) ∧ 7 < twCond w then 3
  else if slBits w.s0 0 9 ≠ 0 ∨ slBits w.s1 30 2 ≠ 0 ∨ slBits w.s3 17 15 ≠ 0 ∨ slBits w.s4 8 24 ≠ 0 then 4
  else if twOp w = 5 ∧ twCond w < 6 then 5
  else 0

/-! ## The control store (R164) -/

/-- A word with the even-parity bits of its slices (R164). -/
def trzParity (s0 s1 s2 s3 s4 : BitVec 32) : TrzWord :=
  ⟨s0, s1, s2, s3, s4, BitVec.ofNat 5 (b2n (parityOf s0) + 2 * b2n (parityOf s1) + 4 * b2n (parityOf s2) + 8 * b2n (parityOf s3) +
    16 * b2n (parityOf s4))⟩

/-- A word of the store as the authenticated firmware image gives it (R5, R164). -/
def trzImageWord (img : List (Nat × Byte)) (i : Nat) : TrzWord :=
  let q (n : Nat) : BitVec 32 := BitVec.ofNat 32 (Config.storeWord img 0x0F i n)
  trzParity (q 0) (q 1) (q 2) (q 3) (q 4)

/-- The store as loaded. -/
def trzImage (img : List (Nat × Byte)) : List TrzWord := (List.range 8192).map (trzImageWord img)

/-- A word of the control store; all zeros before the first load (R164, R193). -/
def State.tword (s : State) (addr : Nat) : TrzWord := s.cstore.getD addr ⟨0, 0, 0, 0, 0, 0⟩

/-- Bits of a stored word have flipped since it was loaded; the store keeps them (R190, R191). -/
def State.trzUpset (s : State) (addr : Nat) (f : TrzWord) : State :=
  if f = ⟨0, 0, 0, 0, 0, 0⟩ then s
  else
    let w := s.tword addr
    { s with cstore := s.cstore.set addr ⟨w.s0 ^^^ f.s0, w.s1 ^^^ f.s1, w.s2 ^^^ f.s2, w.s3 ^^^ f.s3, w.s4 ^^^ f.s4, w.par ^^^ f.par⟩ }

/-- `TRZ_MCK0` as a word. -/
def State.mck0 (s : State) : Nat :=
  s.get R.TRZ_MCK0_ADDR + s.get R.TRZ_MCK0_SMASK * 2 ^ 13 + s.get R.TRZ_MCK0_CAUSE * 2 ^ 18 + s.get R.TRZ_MCK0_LOOP * 2 ^ 21

/-- The third machine check within 24 operating hours takes Trapeze out of service until the next power cycle, and the actuators
with it (R191, R262). -/
def State.trzRetire (s : State) : State :=
  let recent := s.tmchk.filter fun m => decide (s.opsec < m.1 + 86400)
  if 3 ≤ recent.length ∧ !s.on V.trzOos then
    ((s.puts [(V.trzOos, 1), (R.TRZ_STAT_STATE, trzOUT)]).post 0x0F 0x17 error noInst
      ((recent.drop (recent.length - 3)).map (·.2))).forAll (List.range 4) fun a u => u.refreshAct a 0x0F 0x17
  else s

/-- A machine check (R191). -/
def State.trzMchk (s : State) (cause smask : Nat) : State :=
  let n := s.get R.TRZ_STAT_LOOP
  let t := s.puts [(R.TRZ_MCK0_ADDR, s.get V.trzPc), (R.TRZ_MCK0_SMASK, smask), (R.TRZ_MCK0_CAUSE, cause), (R.TRZ_MCK0_LOOP, n),
    (R.TRZ_STAT_STATE, trzMCHK), (R.TRZ_STAT_BUSY, 0), (V.trzWait, 0),
    (V.trzDest 4, 0), (V.trzDest 5, 0), (V.trzDest 6, 0), (V.trzDest 7, 0)]
  let t := { t with loops := [], tmchk := t.tmchk ++ [(s.opsec, s.get V.trzPc)] }
  let t := ((t.crlCoast).put V.crlMchk 1).stopAssert 0
  ((t.evt R.TRZ_EVT_MCHK).count R.TRZ_CNT_MCHK).post 0x0F 0x10 error noInst
    [t.mck0, trzMCHK + n * 4 + t.get R.TRZ_STAT_UTIL * 65536] |>.trzRetire

/-- What a shared operand address reads that no word has written: an input or a group result (R165, R174). -/
def State.sharedVal (s : State) (a : Nat) : Int :=
  let c := Config.sharedInput a
  if 0x60 ≤ c ∧ c < 0x70 then s.getI (V.trzGrp (c - 0x60)) else s.trzIn c

/-- What an operand address reads (R165). -/
def State.opnd (s : State) (n a : Nat) : Int :=
  if a < 128 then s.pw n a
  else if a < 256 then Tab.at 0 s.tshd (a - 128)
  else
    let v := Tab.at 4294967296 s.tshr a
    if v = 4294967296 then s.sharedVal a else v

/-- Writes an operand address; committed states, output and handover offset are read-only (R175). Shared
operands are kept beside a value no 32-bit word has, 2^32, which stands for nothing written. -/
def State.setOpnd (s : State) (n a : Nat) (v : Int) : State :=
  if a < 128 then (if 96 ≤ a ∧ a ≤ 121 then s else s.setPw n a v)
  else if a < 256 then { s with tshd := Tab.set 0 s.tshd (a - 128) (toSigned 32 (ofSigned 32 v)) }
  else { s with tshr := Tab.set 4294967296 s.tshr a (toSigned 32 (ofSigned 32 v)) }

/-- A saturating 32-bit result; a saturation is remembered (R167). -/
def State.sat32 (s : State) (v : Int) : State × Int :=
  let c := clampI (-2147483648) 2147483647 v
  (if c = v then s else s.put V.trzSatd 1, c)

/-- A condition of R167. -/
def State.trzCond (s : State) (c : Nat) : Bool :=
  match c with
  | 0 => true
  | 1 => s.on V.trzN
  | 2 => s.on V.trzZ
  | 3 => s.on V.trzSatd
  | 4 => (s.loop (s.get R.TRZ_STAT_LOOP)).good
  | 5 => !(s.loop (s.get R.TRZ_STAT_LOOP)).ran
  | 6 => s.on V.trzLutRdy
  | 7 => s.on V.trzLinkFree
  | _ => false

/-- The address of the next word. -/
def State.trzNextPc (s : State) : Nat := (s.get V.trzPc + 1) % 8192

/-- The copy of a commit word: the shadow's states and its output, to which the handover offset is added (R168, R172). -/
def State.trzCopy (s : State) (n : Nat) : State :=
  let v := s.lpView n
  let u := Tab.at 0 s.tshd 120
  let ho := v.lpHo n u
  s.lpCommit n (v.lpClamp n (u + ho)) ((List.range 24).map fun i => (96 + i, Tab.at 0 s.tshd (96 + i))) ho

/-- One microword of the running routine: the store's word at the program counter, with the bits that have flipped in it, is
fetched. A machine check at fetch stops the engine; a word of another opcode is not this command's; otherwise the opcode runs,
then the copy of a commit word (R165, R168, R191). A word under scrub rewrite is not fetched (R190). -/
def State.trzWord (s : State) (opc : Nat) (f : TrzWord) (op : Nat → TrzWord → State → State) : State :=
  let n := s.get R.TRZ_STAT_LOOP
  if s.get R.TRZ_STAT_STATE ≠ trzRUN ∨ !s.on R.TRZ_STAT_BUSY ∨ s.on V.trzWait ∨ s.get V.trzPc ∈ s.tscrub then s
  else
    let u := s.trzUpset (s.get V.trzPc) f
    let w := u.tword (s.get V.trzPc)
    if twCheck w ≠ 0 then u.trzMchk (twCheck w) (twParityMask w)
    else if twOp w ≠ opc then s
    else
      let t := op n w (u.put V.trzPc s.trzNextPc)
      if twCmt w ∧ t.get R.TRZ_STAT_STATE = trzRUN then t.trzCopy n else t

/-- TRZ_NOP. -/
def trzNop (f : TrzWord) (s : State) : State := s.trzWord 0 f fun _ _ t => t
/-- TRZ_JMP. -/
def trzJmp (f : TrzWord) (s : State) : State := s.trzWord 1 f fun _ w t => t.put V.trzPc (twTarget w)
/-- TRZ_BR. -/
def trzBr (f : TrzWord) (s : State) : State :=
  s.trzWord 2 f fun _ w t => if t.trzCond (twCond w) then t.put V.trzPc (twTarget w) else t
/-- TRZ_CALL: the stack is 4 deep; an overflow is a machine check (R191). -/
def trzCall (f : TrzWord) (s : State) : State :=
  s.trzWord 3 f fun _ w t =>
    if 4 ≤ t.tstk.length then (t.put V.trzPc (s.get V.trzPc)).trzMchk 6 0
    else { t with tstk := t.get V.trzPc :: t.tstk }.put V.trzPc (twTarget w)
/-- TRZ_RET: an underflow is a machine check. -/
def trzRet (f : TrzWord) (s : State) : State :=
  s.trzWord 4 f fun _ _ t =>
    match t.tstk with
    | [] => (t.put V.trzPc (s.get V.trzPc)).trzMchk 6 0
    | pc :: r => { t with tstk := r }.put V.trzPc pc
/-- TRZ_WAIT: the routine stalls unless the condition holds (R167). -/
def trzWait (f : TrzWord) (s : State) : State :=
  s.trzWord 5 f fun _ w t =>
    if t.trzCond (twCond w) then t
    else t.puts [(V.trzWait, 1), (V.trzWaitC, twCond w), (V.trzWaitBr, b2n (twToBr w)), (V.trzWaitTgt, twTarget w),
      (V.trzWaitTo, b2n (decide (twToVal w ≠ 0)))]
/-- TRZ_LD. -/
def trzLd (f : TrzWord) (s : State) : State :=
  s.trzWord 6 f fun n w t => t.setOpnd n (twDst w) (toSigned 32 w.s2.toNat)
/-- TRZ_MOV. -/
def trzMov (f : TrzWord) (s : State) : State := s.trzWord 7 f fun n w t => t.setOpnd n (twDst w) (t.opnd n (twA w))
/-- TRZ_ADD. -/
def trzAdd (f : TrzWord) (s : State) : State :=
  s.trzWord 8 f fun n w t => let r := t.sat32 (t.opnd n (twA w) + t.opnd n (twB w)); r.1.setOpnd n (twDst w) r.2
/-- TRZ_SUB. -/
def trzSub (f : TrzWord) (s : State) : State :=
  s.trzWord 9 f fun n w t => let r := t.sat32 (t.opnd n (twA w) - t.opnd n (twB w)); r.1.setOpnd n (twDst w) r.2
/-- TRZ_MUL. -/
def trzMul (f : TrzWord) (s : State) : State :=
  s.trzWord 10 f fun n w t => t.putI V.trzAcc (t.opnd n (twA w) * t.opnd n (twB w))
/-- TRZ_MAC. -/
def trzMac (f : TrzWord) (s : State) : State :=
  s.trzWord 11 f fun n w t => t.putI V.trzAcc (t.getI V.trzAcc + t.opnd n (twA w) * t.opnd n (twB w))

/-- `ACC` shifted right; rounded to nearest, ties away from zero, when asked (R165). -/
def accShift (v : Int) (sh : Nat) (rnd : Bool) : Int := if rnd then roundAway v (2 ^ sh) else v / ((2 ^ sh : Nat) : Int)

/-- TRZ_ACCOUT: saturating or wrapping to 32 bits. -/
def trzAccout (f : TrzWord) (s : State) : State :=
  s.trzWord 12 f fun n w t =>
    let v := accShift (t.getI V.trzAcc) (slBits w.s4 0 6) (w.s4.getLsbD 7)
    let r := if w.s4.getLsbD 6 then t.sat32 v else (t, toSigned 32 (ofSigned 32 v))
    r.1.setOpnd n (twDst w) r.2
/-- TRZ_CLRACC. -/
def trzClracc (f : TrzWord) (s : State) : State := s.trzWord 13 f fun _ _ t => t.put V.trzAcc 0
/-- TRZ_MIN. -/
def trzMin (f : TrzWord) (s : State) : State :=
  s.trzWord 14 f fun n w t => t.setOpnd n (twDst w) (min (t.opnd n (twA w)) (t.opnd n (twB w)))
/-- TRZ_MAX. -/
def trzMax (f : TrzWord) (s : State) : State :=
  s.trzWord 15 f fun n w t => t.setOpnd n (twDst w) (max (t.opnd n (twA w)) (t.opnd n (twB w)))
/-- TRZ_LUT: the lookup starts. -/
def trzLut (f : TrzWord) (s : State) : State :=
  s.trzWord 16 f fun n w t =>
    (t.puts [(V.trzLutRdy, 0), (V.trzLutBusy, 1), (V.trzLutDst, twDst w)]).putI V.trzLutA (t.opnd n (twA w))
/-- TRZ_CMP. -/
def trzCmp (f : TrzWord) (s : State) : State :=
  s.trzWord 17 f fun n w t =>
    let d := t.opnd n (twA w) - t.opnd n (twB w)
    (t.putB V.trzN (decide (d < 0))).putB V.trzZ (decide (d = 0))
/-- TRZ_END: the routine ends. -/
def trzEnd (f : TrzWord) (s : State) : State := s.trzWord 18 f fun _ _ t => t.put R.TRZ_STAT_BUSY 0

/-- TRZ_WAIT_MET. -/
def trzWaitMet (s : State) : State :=
  if s.on V.trzWait ∧ s.trzCond (s.get V.trzWaitC) then s.put V.trzWait 0 else s

/-- TRZ_WAIT_TIMEOUT: the routine branches, or is abandoned as a miss; a condition that holds in the same cycle wins
(R167). A WAIT whose `TO_VAL` is 0 has no timeout (R165). -/
def trzWaitTimeout (s : State) : State :=
  if !s.on V.trzWait || !s.on V.trzWaitTo then s
  else if s.trzCond (s.get V.trzWaitC) then s.put V.trzWait 0
  else if s.on V.trzWaitBr then s.puts [(V.trzWait, 0), (V.trzPc, s.get V.trzWaitTgt)]
  else s.lpLate (s.get R.TRZ_STAT_LOOP)

/-- LUT_READY: the interpolated value stands in the destination the `LUT` word named. -/
def lutReady (s : State) : State :=
  if !s.on V.trzLutBusy then s
  else
    let n := s.get R.TRZ_STAT_LOOP
    let x := (s.getI V.trzLutA).toNat
    let s' := s.lpView n
    let v := if s.lpSpin n then
        lerp (s'.trz16 (0x5000 + 2 * (x / 64 % 1024))) (s'.trz16 (0x5000 + 2 * ((x / 64 + 1) % 1024))) (x % 64) 64
      else s'.ffBias (s.lpAct n) x
    (s.puts [(V.trzLutBusy, 0), (V.trzLutRdy, 1)]).setOpnd n (s.get V.trzLutDst) v

/-! ## Scrub (R190) -/

/-- TRZ_SCRUB_ERROR: the scrub reads a word in which bits have flipped; a slice whose parity fails starts the rewrite. The rule
gives `SCRUB_EN` and idle cycles; that only an engine in RUN scrubs, for only then is its store loaded and fetched, is the
model's choice (DESIGN CHOICE, log entry 61). -/
def trzScrubError (addr : Fin 8192) (f : TrzWord) (s : State) : State :=
  if s.get R.TRZ_STAT_STATE = trzRUN ∧ s.on R.TRZ_CTL_SCRUB_EN then
    let t := s.trzUpset addr f
    let m := twParityMask (t.tword addr)
    if m = 0 ∨ addr.val ∈ s.tscrub then t
    else ((({ t with tscrub := t.tscrub ++ [addr.val] } : State).count R.TRZ_CNT_SCRUB).evt R.TRZ_EVT_SCRUB_FIX).post 0x0F 0x15 info noInst [addr.val, m]
  else s

/-- TRZ_SCRUB_REWRITE_DONE: the word whose rewrite began first stands as in the image again. -/
def trzScrubRewriteDone (s : State) : State :=
  match s.tscrub with
  | [] => s
  | k :: l => { s with cstore := s.cstore.set k (trzImageWord s.fwImg k), tscrub := l }.imageRead 4 24

/-! ## Enable (R188, R189, R194) -/

/-- A valid descriptor's fields are within their ranges and its CRC passes. -/
def State.lpFieldsOk (s : State) (n : Nat) : Bool :=
  let d := s.ldsc n
  let inOk (c : Nat) : Bool := decide (c ≤ 0x14 ∨ 0x20 ≤ c ∧ c < 0x60)
  crcOk (s.bytes 0x0F 0 (0x1000 + n * 0x20) 32) && inR 0 4 (d 0 1) && decide (d 1 1 < 32) && inR 0 2 (s.lpKind n) &&
    inR 0 63 (d 2 1) && inR 1 16 (d 3 1) && inR 200 (if s.lpKind n = 1 then 4000 else 6000) (d 4 2) && decide (d 6 1 < 128) &&
    (decide (d 0 1 ≠ 1) || inR 1 6 (d 7 1)) && (decide (d 0 1 ≠ 2) || inR 1 8 (d 7 1)) && inOk (d 8 1) &&
    decide (d 9 1 < 8 ∨ d 9 1 = 0x10 ∨ d 9 1 = 0x11 ∨ d 9 1 = 0x20) && inR 1 65535 (d 0xE 2) && inR 1 15 (d 0x10 1 / 16) &&
    decide (d 0x11 1 < 16) && (decide (0xFE ≤ d 0x12 1) || inOk (d 0x12 1)) && decide (d 0x13 8 = 0 ∧ d 0x1B 1 = 0)

/-- A loop's parameter block passes R194's test. -/
def State.lpParamsOk (s : State) (n : Nat) : Bool :=
  let k := s.pw n 4
  decide (s.pw n 1 ≤ s.pw n 2 ∧ 0 ≤ s.pw n 3 ∧ s.pw n 3 ≤ 15) &&
    (decide (s.lpLaw n ≠ 4) || (decide (2 ≤ k ∧ k ≤ 44) &&
      (List.range (k.toNat - 1)).all fun i => decide (s.pw n (8 + 2 * i) < s.pw n (10 + 2 * i))))

/-- A group's entry passes R194's test. -/
def State.grpOk (s : State) (g : Nat) : Bool :=
  let cons := s.grpLoops g s.lpConsumer
  decide (s.grpKind g = 0) || (crcOk (s.bytes 0x0F 0 (0x1800 + g * 0x10) 16) && decide (s.grpKind g ≤ 2) && decide (cons.length = 1) &&
    !(bitOf (s.grp g 1 1) 1 && cons.any s.lpSpin))

/-- A chain of predecessors from a loop comes to a loop that is not a CHAIN loop. -/
def State.chainEnds (s : State) : Nat → Nat → Bool
  | 0, _ => false
  | k + 1, n => decide (s.lpKind n ≠ 2) || (s.lpValid (s.ldsc n 2 1) && State.chainEnds s k (s.ldsc n 2 1))

/-- A CHAIN loop's predecessor is valid, belongs to the same actuator or to the spindle alike, and closes no cycle. -/
def State.chainOk (s : State) (n : Nat) : Bool :=
  let p := s.ldsc n 2 1
  decide (s.lpKind n ≠ 2) || (s.lpValid p && decide (s.lpSpin p = s.lpSpin n) && (s.lpSpin n || decide (s.lpAct p = s.lpAct n)) && s.chainEnds 65 n)

/-- Smallest k with n at most 2^k. -/
def log2Up (n : Nat) : Nat := if n ≤ 1 then 0 else Nat.log2 (n - 1) + 1

/-- Worst-case cost of a loop in cycles (R188). -/
def State.lpCost (s : State) (n : Nat) : Nat :=
  let m := s.ldsc n 7 1
  let f := s.ldsc n 0x11 1
  let g := s.lpGrp n
  let ext := s.grp g 1 1
  12 + (if s.lpLaw n = 1 then 12 + 10 * m else if s.lpLaw n = 2 then 24 + m * m + 3 * m else if s.lpLaw n = 3 then 20
    else if s.lpLaw n = 4 then 28 + 4 * log2Up (s.pw n 4).toNat else 0) + 16 * b2n (bitOf f 1) + 16 * b2n (bitOf f 2) +
    8 * b2n (bitOf f 3) + (if s.lpConsumer n then
      6 * ((s.grpLoops g s.lpMember).length + 1 + b2n (bitOf ext 0) + b2n (bitOf ext 1)) else 0)

/-- The timing test of R189. -/
def State.timingOk (s : State) : Bool :=
  let ls := (List.range 64).filter s.lpValid
  let dl (n : Nat) : Nat := s.ldsc n 4 2
  let sum (l : List Nat) : Nat := l.foldl (· + ·) 0
  let one (i : Nat) : Bool :=
    decide (100 * (sum ((ls.filter fun j => decide (dl j ≤ dl i)).map s.lpCost) +
      ((ls.filter fun j => decide (dl i < dl j)).map s.lpCost).foldl Nat.max 0) ≤ 64 * dl i)
  let share (p : Bool) : Nat := sum ((ls.filter fun n => decide (s.lpKind n = 1) == p).map fun n =>
    s.lpCost n * (720720 / Nat.max 1 (s.ldsc n 3 1)))
  ls.all one && decide (share true * 3125 + share false * 6 * s.fmtW ≤ 720720 * 32000000)

/-- The actuators a loop names: its trigger's, and those of its input, destination and reference codes (R169, R174). -/
def State.lpNames (s : State) (n : Nat) : List Nat :=
  let r := s.ldsc n 0x12 1
  (if s.lpSpin n then [] else [s.lpAct n]) ++ ((if s.ldsc n 8 1 < 0x10 then [s.ldsc n 8 1] else []) ++
    (if s.lpOut n < 8 then [s.lpOut n] else []) ++ (if r < 0x10 then [r] else [])).map (· % 4)

/-- Two loops can be active at once: in a state both masks name, or, where their states are those of different actuators or of
one and the spindle, in any state each (R194). -/
def State.lpMeet (s : State) (n m : Nat) : Bool :=
  let x := s.ldsc n 0xA 2
  let y := s.ldsc m 0xA 2
  decide (s.lpLaw n ≠ 0 ∧ s.lpLaw m ≠ 0) &&
    if s.lpSpin n = s.lpSpin m ∧ (s.lpSpin n = true ∨ s.lpAct n = s.lpAct m) then decide (x &&& y ≠ 0)
    else decide (x ≠ 0 ∧ y ≠ 0)

/-- The conditions of R194, in order of their codes. -/
def State.trzReasons (s : State) (crcPass : Bool) : List (Bool × Nat) :=
  let ls := (List.range 64).filter s.lpValid
  [ (!crcPass, 0x0F01),
    (ls.any fun n => !s.lpFieldsOk n, 0x0F02),
    (ls.any fun n => !s.lpParamsOk n, 0x0F03),
    ((List.range 16).any fun g => !s.grpOk g, 0x0F04),
    (ls.any fun n => (s.lpNames n).any fun a => decide (s.nact ≤ a), 0x0F05),
    (ls.any fun n => !s.chainOk n, 0x0F06),
    (ls.any fun n => ls.any fun m => decide (n < m ∧ s.lpOut n = s.lpOut m ∧ s.lpOut n ≠ 0x20) && s.lpMeet n m, 0x0F07),
    (ls.any fun n => bitOf (s.ldsc n 0x11 1) 3 && (s.lpSpin n || (s.mate (s.lpAct n)).isNone), 0x0F08),
    (!s.timingOk, 0x0F09),
    (s.on V.trzOos, 0x0F0A) ]

/-- Clears the committed words of every parameter block. -/
def State.clearStates (s : State) : State :=
  { s with win := s.win.filter fun e => decide (¬(winKey 0x0F 0 0x8000 ≤ e.1 ∧ e.1 < winKey 0x0F 0 0x8000 + 0x8000 ∧
      384 ≤ e.1 % 512 ∧ e.1 % 512 < 488)) }

/-- The tables of Trapeze are loaded from the Tailor store (R164); the feed-forward tables as loaded are kept under selector 1 of
the window, for learning is limited by them (R186). -/
def State.trzLoad (s : State) : State :=
  let t := ((((s.loadWin 0x0F 0 0x1000 0x800).loadWin 0x0F 0 0x1800 0x100).loadWin 0x0F 0 0x4000 0x1000).loadWin 0x0F 0
    0x5000 0x800).loadWin 0x0F 0 0x8000 0x8000
  t.copyWin 0x0F 0 1 0x4000 0x1800

/-- What an enable loads before its check (R164): the store from the authenticated image, the tables from the Tailor store, with the
shipped groups; the limiter's reference is the budget in force (R180). -/
def State.trzFill (s : State) : State :=
  let t := (({ s with cstore := trzImage s.fwImg } : State).imageRead 4 196608).trzLoad.shipGroups
  t.when (t.on R.CRL_CTL_EN) fun u => u.setVinBudget (u.get V.vinBud)

/-- `TRZ_CTL.EN` 0→1: the store and the tables are loaded, then R194 is judged (R164). The values Trapeze was loaded with
stay in its window when the check refuses. Each group stands resolved at the enable, before its consumer's first commit (DESIGN
CHOICE, log entry 69). -/
def State.trzEnable (s : State) (crcPass : Bool) : State × Nat :=
  if s.on R.TRZ_CTL_EN then (s, 0)
  else
    let t := s.trzFill
    t.enable R.TRZ_CTL_EN R.TRZ_CHK_REASON (t.trzReasons crcPass) fun u =>
      ({ u.clearStates with loops := [], tstk := [], tshd := [], tshr := [], tscrub := [], cog := [] }.puts
        ([(R.TRZ_STAT_STATE, trzRUN), (R.TRZ_STAT_BUSY, 0), (V.trzWait, 0)] ++
          (List.range 18).map (fun d => (V.trzOwner d, 0)) ++ (List.range 149).map (fun i => (V.trzTblPend i, 0)) ++
          (List.range 149).map fun i => (V.trzTook i, 0))).refreshInh
      |>.setBit V.stopWire 0 false |>.setBit V.stopWire 1 false |>.forAll (List.range 16) fun g v =>
        v.putI (V.trzGrp g) (v.grpResult g)

/-- TRZ_ENABLE. -/
def trzEnableCmd (crcPass : Bool) (s : State) : State := (s.trzEnable crcPass).1

/-- Clearing `TRZ_CTL.EN`: OFF, or out of service as before; no loop runs. -/
def State.trzDisable (s : State) : State :=
  { s with loops := [] }.puts [(R.TRZ_CTL_EN, 0), (R.TRZ_STAT_STATE, if s.on V.trzOos then trzOUT else trzOFF), (R.TRZ_STAT_BUSY, 0), (V.trzWait, 0)] |>.refreshInh

/-- TRZ_MCHK_RELOAD: firmware clears and sets `EN` after a machine check; the enable refuses where Trapeze is out of service
(R191). -/
def trzMchkReload (crcPass : Bool) (s : State) : State :=
  if s.get R.TRZ_STAT_STATE = trzMCHK ∨ s.get R.TRZ_STAT_STATE = trzOUT then (s.trzDisable.trzEnable crcPass).1 else s

/-! ## Commands -/

/-- Meaning of TRZ_ENABLE (R194). -/
def execTrzEnable (crcPass : Bool) (s : State) : Host.Outcome State Fault Refusal :=
  .next (trzEnableCmd crcPass s)

/-- Meaning of TRZ_NOP (R166). -/
def execTrzNop (flip : TrzWord) (s : State) : Host.Outcome State Fault Refusal :=
  .next (trzNop flip s)

/-- Meaning of TRZ_JMP (R166). -/
def execTrzJmp (flip : TrzWord) (s : State) : Host.Outcome State Fault Refusal :=
  .next (trzJmp flip s)

/-- Meaning of TRZ_BR (R166). -/
def execTrzBr (flip : TrzWord) (s : State) : Host.Outcome State Fault Refusal :=
  .next (trzBr flip s)

/-- Meaning of TRZ_CALL (R166). -/
def execTrzCall (flip : TrzWord) (s : State) : Host.Outcome State Fault Refusal :=
  .next (trzCall flip s)

/-- Meaning of TRZ_RET (R166). -/
def execTrzRet (flip : TrzWord) (s : State) : Host.Outcome State Fault Refusal :=
  .next (trzRet flip s)

/-- Meaning of TRZ_WAIT (R167). -/
def execTrzWait (flip : TrzWord) (s : State) : Host.Outcome State Fault Refusal :=
  .next (trzWait flip s)

/-- Meaning of TRZ_LD (R166). -/
def execTrzLd (flip : TrzWord) (s : State) : Host.Outcome State Fault Refusal :=
  .next (trzLd flip s)

/-- Meaning of TRZ_MOV (R166). -/
def execTrzMov (flip : TrzWord) (s : State) : Host.Outcome State Fault Refusal :=
  .next (trzMov flip s)

/-- Meaning of TRZ_ADD (R166). -/
def execTrzAdd (flip : TrzWord) (s : State) : Host.Outcome State Fault Refusal :=
  .next (trzAdd flip s)

/-- Meaning of TRZ_SUB (R166). -/
def execTrzSub (flip : TrzWord) (s : State) : Host.Outcome State Fault Refusal :=
  .next (trzSub flip s)

/-- Meaning of TRZ_MUL (R166). -/
def execTrzMul (flip : TrzWord) (s : State) : Host.Outcome State Fault Refusal :=
  .next (trzMul flip s)

/-- Meaning of TRZ_MAC (R166). -/
def execTrzMac (flip : TrzWord) (s : State) : Host.Outcome State Fault Refusal :=
  .next (trzMac flip s)

/-- Meaning of TRZ_ACCOUT (R166). -/
def execTrzAccout (flip : TrzWord) (s : State) : Host.Outcome State Fault Refusal :=
  .next (trzAccout flip s)

/-- Meaning of TRZ_CLRACC (R166). -/
def execTrzClracc (flip : TrzWord) (s : State) : Host.Outcome State Fault Refusal :=
  .next (trzClracc flip s)

/-- Meaning of TRZ_MIN (R166). -/
def execTrzMin (flip : TrzWord) (s : State) : Host.Outcome State Fault Refusal :=
  .next (trzMin flip s)

/-- Meaning of TRZ_MAX (R166). -/
def execTrzMax (flip : TrzWord) (s : State) : Host.Outcome State Fault Refusal :=
  .next (trzMax flip s)

/-- Meaning of TRZ_LUT (R166). -/
def execTrzLut (flip : TrzWord) (s : State) : Host.Outcome State Fault Refusal :=
  .next (trzLut flip s)

/-- Meaning of TRZ_CMP (R166). -/
def execTrzCmp (flip : TrzWord) (s : State) : Host.Outcome State Fault Refusal :=
  .next (trzCmp flip s)

/-- Meaning of TRZ_END (R166). -/
def execTrzEnd (flip : TrzWord) (s : State) : Host.Outcome State Fault Refusal :=
  .next (trzEnd flip s)

/-- Meaning of TRZ_WAIT_MET (R167). -/
def execTrzWaitMet (s : State) : Host.Outcome State Fault Refusal :=
  .next (trzWaitMet s)

/-- Meaning of TRZ_WAIT_TIMEOUT (R167). -/
def execTrzWaitTimeout (s : State) : Host.Outcome State Fault Refusal :=
  .next (trzWaitTimeout s)

/-- Meaning of LUT_READY (R166). -/
def execLutReady (s : State) : Host.Outcome State Fault Refusal :=
  .next (lutReady s)

/-- Meaning of LOOP_DISPATCH (R173). -/
def execLoopDispatch (whole : Bool) (s : State) : Host.Outcome State Fault Refusal :=
  .next (loopDispatch whole s)

/-- Meaning of LOOP_DEADLINE_MISS (R181). -/
def execLoopDeadlineMiss (n : Fin 64) (s : State) : Host.Outcome State Fault Refusal :=
  .next (loopDeadlineMiss n s)

/-- Meaning of TRZ_SCRUB_ERROR (R190). -/
def execTrzScrubError (addr : Fin 8192) (flip : TrzWord) (s : State) : Host.Outcome State Fault Refusal :=
  .next (trzScrubError addr flip s)

/-- Meaning of TRZ_SCRUB_REWRITE_DONE (R190). -/
def execTrzScrubRewriteDone (s : State) : Host.Outcome State Fault Refusal :=
  .next (trzScrubRewriteDone s)

/-- Meaning of TRZ_MCHK_RELOAD (R191). -/
def execTrzMchkReload (crcPass : Bool) (s : State) : Host.Outcome State Fault Refusal :=
  .next (trzMchkReload crcPass s)

end Sys2Proof.Machine
end

