-- ==== Sys2Proof/Machine/Carousel.lean ====
section
/-!
DEFINITION. The spindle controller (chapter "Carousel spindle control", R196 to R225): angle sources, modulation,
regulation states, starts and catches, the set point, the spindle record.
-/

namespace Sys2Proof.Machine

/-! ## Set point (R213, R214) -/

/-- Used points of the curve in effect: budget and set-point code (R221, R222). -/
def State.curve (s : State) : List (Nat × Nat) :=
  ((List.range 16).map fun i => (s.spnLe (0x20 + 8 * i) 4, s.spnLe (0x24 + 8 * i) 1)).takeWhile fun p => decide (p.2 ≠ 0xFF)

/-- The set point the presented budget asks for, from the one in force (R213, R434). -/
def State.wantSp (s : State) (sp : Nat) : Nat :=
  if s.on R.CRL_CTL_SP_OVR then s.get R.CRL_CTL_SP_REQ
  else
    let b := s.get R.CVN_BUD_PRES_PRES_US
    let c := s.curve
    let pick (hy : Nat → Nat) : Nat :=
      ((c.zipIdx.filter fun p => decide (p.1.1 + hy p.2 ≤ b)).getLast?.map fun p => p.1.2).getD sp
    let req := pick fun _ => 0
    let rel := pick fun j => if j = 0 then 0 else s.spnLe 0x18 2 * 1000
    if sp < req then req else if rel < sp then rel else sp

/-- All actuators are UNLOADED. -/
def State.allUnloaded (s : State) : Bool := (List.range 4).all fun a => decide (s.srvSt a ≤ srvUNLOADED)

/-- Some actuator has its heads loaded. -/
def State.anyLoaded (s : State) : Bool := (List.range 4).any fun a => s.loaded a

/-- A start from rest may proceed: grant, spin permission, a set point, the shunt offsets taken, the winding measured (R198, R206,
R210, R240). During the spin-up the resistance of every actuator to be loaded is measured (R240). -/
def State.tryStart (s : State) : State :=
  if s.crlSt = crlSTOPPED ∧ s.get R.CRL_STAT_SP ≠ 0 ∧ s.grantSeen ∧ s.on V.crlPerm ∧ s.get V.crlOffN = 64 ∧ s.on V.measSpn then
    let s := (s.puts [(V.measSpn, 0), (V.spinUp, 1)]).forAll (List.range s.nact) fun a t =>
      t.when (!t.on (V.stmLoaded a) && t.on (R.SRV_CTL_EN a)) fun u => u.setBit V.measQ (2 + a) true
    if s.on R.CRL_STAT_RES_OK then ((s.crlTo crlDRIVE).puts [(R.CRL_STAT_SRC, 2), (V.crlOffN, 0), (V.crlSpdOk, 1)])
    else (s.crlTo crlSENSE).puts [(R.CRL_STAT_ATTEMPT, 1), (R.CRL_STAT_SRC, 0), (V.crlPulse, 0), (V.crlTacc, 0), (V.crlFailed, 0),
      (V.crlStopAtt, 0), (V.crlOffN, 0)]
  else s

/-- A set point comes into force (R214, R220). -/
def State.applySp (s : State) (n : Nat) : State :=
  let t := (s.puts [(R.CRL_STAT_SP, n), (V.crlSpWait, 0), (V.crlRevIn, 0)]).setAtSp false
  let st := s.crlSt
  let t := if n = 0 then t.unloadAll else t
  if st = crlKICK ∨ st = crlGLIDE then t.crlTo crlDRIVE
  else if st = crlDRIVE then t.driveRefs
  else if n = 0 ∧ (st = crlSENSE ∨ st = crlALIGN ∨ st = crlRAMP) then (t.crlTo crlSHORT).put V.crlStopAtt 1
  else if n = 0 ∧ st = crlSHORT ∧ s.on V.crlFailed then t.put V.crlStopAtt 1
  else t.tryStart

/-- A change cannot be applied yet: a track write is in progress, or a source loss, a catch or a start attempt comes
first, the SHORT between two attempts among it (R214, R220). -/
def State.spHeld (s : State) (n : Nat) : Bool :=
  let st := s.crlSt
  (List.range 4).any (fun a => s.writing a) || decide (st = crlCATCH) || decide (st = crlCOAST ∧ s.on V.crlWantCatch) ||
    decide (n ≠ 0 ∧ (st = crlSENSE ∨ st = crlALIGN ∨ st = crlRAMP)) || (decide (n ≠ 0 ∧ st = crlSHORT) && s.on V.crlFailed)

/-- The set point is re-evaluated (R213). -/
def State.evalSp (s : State) : State :=
  if s.crlSt = crlOFF then s
  else
    let cur := if s.on V.crlSpWait then s.get V.crlSpNext else s.get R.CRL_STAT_SP
    let n := s.wantSp cur
    if n = s.get R.CRL_STAT_SP then s.put V.crlSpWait 0
    else if s.spHeld n then s.puts [(V.crlSpWait, 1), (V.crlSpNext, n)]
    else s.applySp n

/-- SP_OVR. -/
def spOvr (ovr : Bool) (req : Fin 4) (s : State) : State :=
  (s.puts [(R.CRL_CTL_SP_OVR, b2n ovr), (R.CRL_CTL_SP_REQ, req.val)]).evalSp

/-- SETPOINT_APPLY. -/
def setpointApply (s : State) : State :=
  if s.on V.crlSpWait && !s.spHeld (s.get V.crlSpNext) then s.applySp (s.get V.crlSpNext) else s

/-! ## Angle sources (R199 to R204) -/

/-- `*_OK` of a source. -/
def srcOkFld (i : Nat) : Fld := if i = 1 then R.CRL_STAT_MEDIA_OK else if i = 2 then R.CRL_STAT_RES_OK else R.CRL_STAT_BEMF_OK
/-- Residual register of a source. -/
def srcResFld (i : Nat) : Fld := if i = 1 then R.CRL_RESID_R_MEDIA else if i = 2 then R.CRL_RESID_R_RES else R.CRL_RESID_R_BEMF
/-- Pole pairs of the record in effect. -/
def State.polePairs (s : State) : Nat := Nat.max 1 (s.spnLe 0 2)

/-- MEDIA's latest measurement, unwrapped, in 1/2^32 electrical revolution (R199): the rotor angle of the posting and `ENC_OFS`, times
the pole pairs. -/
def State.mediaTotal (s : State) : Nat := s.polePairs * ((s.get V.crlMedAng + s.get V.crlOfs) % 65536) * 65536

/-- `RES_PP` of the record in effect. -/
def State.resPP (s : State) : Nat := Nat.max 1 (s.spnLe 0x17 1 / 2 % 8)

/-- RESOLVER's measurement, unwrapped, in 1/2^32 electrical revolution (R199). -/
def State.resTotal (s : State) (x : Int × Int × Nat) : Nat := (s.polePairs / s.resPP * atan2 x.1 x.2.1 + s.spnLe 0x1A 2) * 65536

/-- The new measurement of a source in a period, unwrapped, with its age in counts of the timebase; none where there is no new one
(R199). -/
def State.srcMeas (s : State) (o : PwmObs) (i : Nat) : Option (Nat × Nat) :=
  if i = 1 then
    if s.on V.crlMedNew then some (s.mediaTotal, (o.now.toNat + 4294967296 - s.get V.crlMedStamp) % 4294967296) else none
  else if i = 2 then o.res.map fun x => (s.resTotal x, x.2.2)
  else o.bemf.map fun x => (x.1.toNat * 65536, x.2)

/-- A measurement propagated to the PWM centre with a tracker's speed: 25,600 counts are a period (R199). -/
def State.propagated (s : State) (i : Nat) (m : Nat × Nat) : Int := m.1 + roundFree (s.getI (V.trkSpd i) * m.2) 25600

/-- The second-order tracker of a source at a PWM centre (R199): its angle moves on with its speed, and a new measurement gives the
residual, by which angle and speed are corrected; without one the residual stays. -/
def State.track (s : State) (o : PwmObs) (i : Nat) : State :=
  let p := (s.get (V.trkAng i) : Int) + s.getI (V.trkSpd i)
  match s.srcMeas o i with
  | none => s.put (V.trkAng i) (p % 4294967296).toNat
  | some m =>
    let r := toSigned 32 ((s.propagated i m - p) % 4294967296).toNat
    if r = 0 then s.puts [(V.trkAng i, (p % 4294967296).toNat), (V.trkRes i, 0)]
    else ((s.put (V.trkAng i) ((p + roundFree (Config.trackGain i * r) 65536) % 4294967296).toNat).putI (V.trkSpd i)
      (s.getI (V.trkSpd i) + roundFree (Config.trackRate i * r) 65536)).putI (V.trkRes i) r

/-- Speed of a tracker in 0.001 r/min (R199). -/
def State.trackSpeed (s : State) (i : Nat) : Nat := (roundFree (s.getI (V.trkSpd i) * 3750000000) (s.polePairs * 4294967296)).toNat

/-- A source's own condition (R199): a posting within the last 8 nominal wedge periods; a resolver declared, its squared amplitude
within 50 to 150 % of that at the enable; 300 r/min. -/
def State.srcCond (s : State) (o : PwmObs) (i : Nat) : Bool :=
  if i = 1 then decide (s.get V.crlMedMiss < 8)
  else if i = 2 then
    let x := s.get V.crlResAmp
    let y := s.get V.crlResAmp0
    bitOf (s.spnLe 0x17 1) 0 && decide (0 < y ∧ y ≤ 2 * x ∧ 2 * x ≤ 3 * y)
  else decide (300000 ≤ o.speed)

/-- Validity of a source after a period (R200): lost at more than 15° in 4 consecutive periods or when its condition fails, valid again
after 64 periods of at most 5°. -/
def State.srcStep (s : State) (o : PwmObs) (i : Nat) : State :=
  let s := s.track o i
  let r := (s.getI (V.trkRes i)).natAbs * 360
  let c := s.srcCond o i
  let bad := if 15 * 4294967296 < r then Nat.min 7 (s.get (V.crlBad i) + 1) else 0
  let good := if c ∧ r ≤ 5 * 4294967296 then Nat.min 64 (s.get (V.crlGood i) + 1) else 0
  let ok := if s.on (srcOkFld i) then c && decide (bad < 4) else decide (good = 64)
  let d := roundFree (s.getI (V.trkRes i) * 720) 4294967296
  (s.puts [(V.crlBad i, bad), (V.crlGood i, good), (srcOkFld i, b2n ok)]).putI (srcResFld i) (clampI (-128) 127 d)

/-- The highest-priority valid source, 0 for none. -/
def State.bestSrc (s : State) : Nat :=
  if s.on R.CRL_STAT_MEDIA_OK then 1 else if s.on R.CRL_STAT_RES_OK then 2 else if s.on R.CRL_STAT_BEMF_OK then 3 else 0

/-- The last valid source is lost (R207); a chopper fault's braking goes on first (R220), and a glide needs no unload
(R216). -/
def State.srcLossAll (s : State) (last : Nat) : State :=
  if s.on V.crlChop then s.puts [(V.crlLossPend, 1), (V.crlLossSrc, last), (R.CRL_STAT_SRC, 0), (R.CRL_STAT_MECH_VALID, 0)]
  else
    let glide := decide (s.crlSt = crlGLIDE)
    let t := (s.puts [(R.CRL_STAT_SRC, 0), (R.CRL_STAT_MECH_VALID, 0), (V.crlSlewTo, 0), (V.crlSpdOk, 0), (V.crlLossMs, s.get V.msNow),
      (V.crlCatchN, 0), (V.crlCatchDown, 0)]).crlCoast
    let t := ((t.evt R.CRL_EVT_SRC_LOSS_ALL).count R.CRL_CNT_LOSS).post 0x10 0x11 error noInst
      [last, s.get R.CRL_SPEED_SPEED, s.get R.CRL_RESID_R_MEDIA + 256 * s.get R.CRL_RESID_R_RES + 65536 * s.get R.CRL_RESID_R_BEMF]
    if glide then t else t.unloadAll

/-- States that track an angle source in use (R205). -/
def crlTracks (st : Nat) : Bool := decide (crlDRIVE ≤ st ∧ st ≤ crlCOAST ∨ st = crlREGEN)

/-- A source goes out of use: the best one left takes its place at once, with the event, the count and code 0x10 (R201), or every
source is lost (R207). -/
def State.srcLost (s : State) (src : Nat) : State :=
  let b := s.bestSrc
  if b = 0 then s.srcLossAll src
  else
    (((s.puts [(R.CRL_STAT_SRC, b), (V.crlSlewTo, 0)]).evt R.CRL_EVT_SRC_SWITCH).count R.CRL_CNT_SRCSW).post 0x10 0x10 warning
      noInst [src, b, b2n (decide (4 ≤ s.get (V.crlBad src))), s.get (srcResFld src), s.get R.CRL_SPEED_SPEED]

/-- A period of a slew from the source in use to a better one (R202): the angle used has come `V.crlRem` from the old source's, and the
difference that is left to the new one's at this centre shrinks by at most 1°; below 1° after the step the new source is in use. -/
def State.slewStep (s : State) (src b : Nat) : State :=
  let acc := if s.get V.crlSlewTo = b then s.getI V.crlRem else 0
  let d := toSigned 32 (((s.get (V.trkAng b) : Int) - s.get (V.trkAng src) - acc) % 4294967296).toNat
  let st := clampI (-11930464) 11930464 d
  if (d - st).natAbs * 360 < 4294967296 then s.puts [(R.CRL_STAT_SRC, b), (V.crlSlewTo, 0)]
  else (s.put V.crlSlewTo b).putI V.crlRem (acc + st)

/-- The source in use after a period (R201, R202); a glide runs on BEMF (R216). -/
def State.srcUse (s : State) : State :=
  let src := s.get R.CRL_STAT_SRC
  let to_ := s.get V.crlSlewTo
  if !crlTracks s.crlSt && decide (s.crlSt ≠ crlSHORT) then s
  else if s.crlSt = crlGLIDE then
    if s.on R.CRL_STAT_BEMF_OK then s.puts [(R.CRL_STAT_SRC, 3), (V.crlSlewTo, 0)] else s.srcLossAll src
  else if src = 0 then
    -- nothing in use: a source that has become valid is taken (R206, R219)
    s.when (decide (s.bestSrc ≠ 0)) fun t => t.put R.CRL_STAT_SRC s.bestSrc
  else if !s.on (srcOkFld src) then s.srcLost src
  else if to_ ≠ 0 ∧ !s.on (srcOkFld to_) then s.put V.crlSlewTo 0
  else if s.bestSrc < src then s.slewStep src s.bestSrc
  else s

/-- The number of the electrical revolution within the mechanical one (R204): from a new measurement of the source in use where that
gives the mechanical angle, and by counting revolutions otherwise. -/
def State.revNumber (s : State) (o : PwmObs) (src ang : Nat) : Nat :=
  let pp := s.polePairs
  let near (t : Int) : Nat := (((t - ang + 2147483648) / 4294967296) % pp).toNat
  let d := toSigned 32 ((ang + 4294967296 - s.get V.crlAng) % 4294967296)
  let counted := (((s.get V.crlRevN : Int) + ((s.get V.crlAng : Int) + d) / 4294967296) % pp).toNat
  match s.srcMeas o src with
  | some m => if src = 1 ∨ (src = 2 ∧ s.resPP = 1) then near (s.propagated src m) else counted
  | none => counted

/-- Angle, speed and `MECH_VALID` shown after a period (R199, R204). The mechanical angle counts from where the electrical one of
MEDIA is 0 (DEDUCED, log entry 66). While no source is left in a chopper fault's braking the observer gives the speed (R219, R220). -/
def State.srcShow (s : State) (o : PwmObs) : State :=
  let src := s.get R.CRL_STAT_SRC
  if src = 0 then s.when (s.on V.crlLossPend) fun t => t.put R.CRL_SPEED_SPEED o.speed
  else
    let ang := (((s.get (V.trkAng src) : Int) + if s.get V.crlSlewTo ≠ 0 then s.getI V.crlRem else 0) % 4294967296).toNat
    let n := s.revNumber o src ang
    let mv := decide (src = 1 ∨ src = 2 ∧ s.resPP = 1)
    (s.puts [(V.crlAng, ang), (V.crlRevN, n), (R.CRL_ANGLE_ELEC, ang / 65536),
      (R.CRL_ANGLE_MECH, (n * 65536 + ang / 65536) / s.polePairs), (R.CRL_SPEED_SPEED, s.trackSpeed src), (V.crlSpdOk, 1)]).when mv
      fun t => t.put R.CRL_STAT_MECH_VALID 1

/-- PWM periods of one revolution at a speed in 0.001 r/min. -/
def revPeriods (v : Nat) : Nat := if v = 0 then 131071 else ceilDiv 3750000000 v

/-- The comparison of MEDIA and BEMF over a revolution (R203): the observer's mean angle gives the new `ENC_OFS`. -/
def State.encShift (s : State) : State :=
  if !(s.on R.CRL_STAT_MEDIA_OK && s.on R.CRL_STAT_BEMF_OK) then s.puts [(V.crlDiffN, 0), (V.crlDiff, 0)]
  else
    let d := s.getI V.crlDiff + toSigned 16 ((s.get (V.trkAng 3) / 65536 + 65536 - s.get (V.trkAng 1) / 65536) % 65536)
    let n := s.get V.crlDiffN + 1
    if n < revPeriods (s.get R.CRL_SPEED_SPEED) then (s.put V.crlDiffN n).putI V.crlDiff d
    else
      let t := s.puts [(V.crlDiffN, 0), (V.crlDiff, 0)]
      if n * 65536 < d.natAbs * 36 then
        let old := s.get V.crlOfs
        let new := ((old : Int) + roundFree d (n * s.polePairs)) % 65536
        (({ t with tenc := some new.toNat }.put V.crlOfs new.toNat).evt R.CRL_EVT_ENC_SHIFT).post 0x10 0x16 warning noInst [old, new.toNat]
      else t

/-! ## Currents and duties (R196 to R198) -/

/-- The phase x of 120° and the axis of an angle in 1/2^32 revolution, as `cosQ60` takes them. -/
def legAngle (g : Int) (i : Nat) : Int := 3 * g - 4294967296 * i

/-- The d-axis and q-axis currents of a sample, rotated with the angle used for its period, scaled to keep the amplitude (R198). -/
def State.park (s : State) : State :=
  let g : Int := s.get V.crlAngIn
  let sum (f : Int → Int) : Int := ((List.range 3).map fun i => s.phase i * f (legAngle g i)).foldl (· + ·) 0
  (s.putI V.spnId (roundFree (2 * sum cosQ60) (3 * 2 ^ 60))).putI V.spnIq (roundFree (-2 * sum sinQ60) (3 * 2 ^ 60))

/-- The electrical angle predicted for the next PWM centre, in 1/2^32 revolution: that of the source, of the align sector or of the
ramp (R196, R205, R210). -/
def State.nextAngle (s : State) : Int :=
  let pp := s.polePairs
  let st := s.crlSt
  let al : Int := ((s.get V.crlAlign * 2 + 11) % 12 * 4294967296 / 12 : Nat)
  let a := if st = crlALIGN then al
    else if st = crlRAMP then
      let n := s.get V.crlPer + 1
      al + roundFree ((s.spnLe 0xC 2 * pp * n * n * 16777216 * 65536 : Nat) : Int) 120000000000000
    else (s.get V.crlAng : Int) + s.getI (V.trkSpd (s.get R.CRL_STAT_SRC))
  a % 4294967296

/-- A component of a voltage vector whose squared length is `l2`, scaled to the length `lim`; it keeps the angle (R197). -/
def shorten (x : Int) (lim l2 : Nat) : Int :=
  let q := x.natAbs * x.natAbs * (lim * lim)
  let r := isqrt (q / l2)
  sgn x * ((r : Int) + if r * r * l2 ≠ q ∧ Config.roundsUp x lim then 1 else 0)

/-- Duty codes of the committed voltages at an angle (R196, R197). -/
def State.duties (s : State) (ang : Int) : List Nat :=
  let vin := Nat.max 1 (s.get V.linkV12)
  let lim := vin * (6800 - 25 * s.get R.CRL_PWM_DEADTIME) / 12000
  let d0 := s.destVal 0x10
  let q0 := s.destVal 0x11
  let l2 := d0.natAbs * d0.natAbs + q0.natAbs * q0.natAbs
  let vd := if lim * lim < l2 then shorten d0 lim l2 else d0
  let vq := if lim * lim < l2 then shorten q0 lim l2 else q0
  let v (i : Nat) : Int := vd * cosQ60 (legAngle ang i) - vq * sinQ60 (legAngle ang i)
  let mx := max (v 0) (max (v 1) (v 2))
  let mn := min (v 0) (min (v 1) (v 2))
  (List.range 3).map fun i => (clampI 0 65535 (32768 + roundFree (65536 * (2 * v i - mx - mn)) (2 * vin * 2 ^ 60))).toNat

/-- The legs of a SENSE pulse whose high side is on, as a mask: the voltage vectors of 0°, 180°, 60°, 240°, 120° and 300°
(R210). -/
def senseLegs (j : Nat) : Nat := [1, 6, 3, 4, 2, 5].getD j 0

/-- Duty codes of a period of SENSE: six pulses of `SNS_US` µs, 500 µs apart from the entry, the high sides of a pulse's legs on while
it lasts (R210). What a pulse's amplitude is the rule leaves open: the whole of VIN12 (DESIGN CHOICE, log entry 81). -/
def State.senseDuties (s : State) : List Nat :=
  let t := 16 * s.get V.crlPer
  let j := t / 500
  let part (j : Nat) : Nat := Nat.min (t + 16) (500 * j + s.spnLe 0x10 2) - Nat.max t (500 * j)
  let j := if part j = 0 ∧ part (j + 1) ≠ 0 then j + 1 else j
  (List.range 3).map fun i => if j < 6 ∧ bitOf (senseLegs j) i then Nat.min 65535 (4096 * part j) else 0

/-- Duties of the next period: of the voltage vector in ALIGN to KICK, of the pulses in SENSE, the zero-vector fraction in REGEN, whose
adjustment to `BRK_I` the spec leaves to Carousel (R217), none otherwise. Those formed before are in effect from now on, with the
angle they were rotated with (R22, R198). -/
def State.modulate (s : State) : State :=
  let st := s.crlSt
  let ang := s.nextAngle
  let t := s.puts [(V.crlDutyIn 0, s.get (V.crlDuty 0)), (V.crlDutyIn 1, s.get (V.crlDuty 1)), (V.crlDutyIn 2, s.get (V.crlDuty 2)),
    (V.crlAngIn, s.get V.crlAngNx), (V.crlAngNx, ang.toNat)]
  let set (u : State) (l : List Nat) : State := u.puts [(V.crlDuty 0, l.getD 0 0), (V.crlDuty 1, l.getD 1 0), (V.crlDuty 2, l.getD 2 0)]
  if st = crlSENSE then set t s.senseDuties
  else if crlALIGN ≤ st ∧ st ≤ crlKICK then set t (s.duties ang)
  else if st = crlREGEN then set t.drew [s.freeVal]
  else set t []

/-! ## Regulation states at a period (R206) -/

/-- Means of slowing down (R206, R217). -/
def State.brake (s : State) : State :=
  s.crlTo (if s.on R.CRL_CTL_REGEN_EN && !s.on R.CRL_STAT_REGEN_BLK then crlREGEN else crlCOAST)

/-- Speed of the ramp in 0.001 r/min (R210). -/
def State.rampSpeed (s : State) : Nat := s.spnLe 0xC 2 * s.get V.crlPer * 16 / 1000

/-- The transitions judged in every PWM period. -/
def State.crlStep (s : State) (o : PwmObs) : State :=
  let st := s.crlSt
  let v := s.get R.CRL_SPEED_SPEED
  let sp := spRpm (s.get R.CRL_STAT_SP) * 1000
  if st = crlSTOPPED then s.tryStart
  else if st = crlRAMP then
    let r := s.rampSpeed
    let ok := decide ((s.getI (V.trkRes 3)).natAbs * 360 ≤ 10 * 4294967296 ∧ 9 * r ≤ 10 * o.speed ∧ 10 * o.speed ≤ 11 * r ∧ 0 < r)
    let n := if ok then s.get V.crlLock + 1 else 0
    if n = 32 then (s.puts [(R.CRL_STAT_BEMF_OK, 1), (R.CRL_STAT_SRC, 3), (V.crlFailed, 0)]).crlTo crlDRIVE
    else s.put V.crlLock n
  else if st = crlDRIVE then
    if sp = 0 then (if s.allUnloaded then s.brake else s)
    else if 1005 * sp < 1000 * v then s.brake
    else if s.on R.CRL_STAT_AT_SP && s.allUnloaded && bitOf (s.spnLe 0x1C 1) (s.get R.CRL_STAT_SP) then
      ((s.put V.crlKick 1).crlTo crlKICK).count R.CRL_CNT_KICK
    else s
  else if st = crlKICK ∨ st = crlGLIDE then
    let on := decide (s.pw 20 120 ≠ 0)
    if on && !s.on V.crlKick then ((s.put V.crlKick 1).crlTo crlKICK).count R.CRL_CNT_KICK
    else if !on && s.on V.crlKick then (s.put V.crlKick 0).crlTo crlGLIDE
    else s
  else if st = crlREGEN then
    if sp ≠ 0 ∧ 1000 * v ≤ 1005 * sp then s.crlTo crlDRIVE
    else if sp = 0 ∧ v < 1500000 then s.crlTo crlSHORT else s
  else if st = crlCOAST then
    if s.on V.crlOvWait then s
    else if sp = 0 ∧ v < 1500000 ∧ s.on V.crlSpdOk then (s.puts [(V.crlWantCatch, 0), (V.crlCatchDown, 0)]).crlTo crlSHORT
    else if s.on V.crlWantCatch then
      if s.on V.crlCatchDown || s.on V.crlRetry || !s.grantSeen then s
      else if s.on V.crlMchk && decide (s.get R.TRZ_STAT_STATE ≠ trzRUN) then s
      else if s.on V.crlMchk && s.on V.crlSpdOk && decide (v < 300000) then (s.put V.crlWantCatch 0).crlTo crlSHORT
      else (s.puts [(V.crlWantCatch, 0), (R.CRL_STAT_SRC, 0)]).crlTo crlCATCH
    else if sp ≠ 0 ∧ 1000 * v ≤ 1005 * sp ∧ s.bestSrc ≠ 0 then s.crlTo crlDRIVE
    else s
  else if st = crlSHORT ∧ s.on V.crlChop then
    if (sp ≠ 0 ∧ 1000 * v ≤ 1005 * sp) ∨ v < 1500000 then
      if s.on V.crlLossPend then (s.puts [(V.crlChop, 0), (V.crlLossPend, 0)]).srcLossAll (s.get V.crlLossSrc)
      else if sp ≠ 0 ∧ 1000 * v ≤ 1005 * sp then (s.put V.crlChop 0).crlTo crlDRIVE
      else s.put V.crlChop 0
    else s
  else s

/-- A spin-up is over: the attempt number and `IMAX_MA` are done with, and the limiter takes `VIN12_BUD` again (R388,
R489). -/
def State.spinUpDone (s : State) : State :=
  (s.puts [(V.spinTry, 0), (V.imaxMa, 0)]).setVinBudget (10 * s.spnLe 0x14 2)

/-- Whether the speed is at the set point (R149, R155, R214). -/
def State.speedFlags (s : State) : State :=
  let v := s.get R.CRL_SPEED_SPEED
  let sp := spRpm (s.get R.CRL_STAT_SP) * 1000
  let within (m : Nat) : Bool := decide (sp ≠ 0 ∧ (1000 - m) * sp ≤ 1000 * v ∧ 1000 * v ≤ (1000 + m) * sp)
  let n := if within 1 then Nat.min 65535 (s.get V.crlRevIn + 1) else 0
  let s := if within 5 then ((s.stepEnd 7).put V.spinUp 0).when (!s.on V.crlSp05) State.spinUpDone else s
  let t := ((s.put V.crlRevIn n).putB V.crlSp05 (within 5)).setAtSp (decide (within 1 = true ∧ revPeriods v ≤ n))
  if t.anyLoaded && decide (v < 3240000) && decide (s.crlSt ≠ crlOFF) then t.unloadAll else t

/-- Shunt offsets in STOPPED (R198). -/
def State.shuntOffsets (s : State) : State :=
  if s.crlSt ≠ crlSTOPPED ∨ s.get V.crlOffN = 64 then s
  else
    let n := s.get V.crlOffN + 1
    (s.put V.crlOffN n).forAll (List.range 3) fun i t =>
      let sum := (if n = 1 then 0 else t.getI (V.crlOffSum i)) + t.getI (V.phCur i)
      let t := t.putI (V.crlOffSum i) sum
      if n = 64 then t.putI (V.crlOff i) (roundShift sum 6) else t

/-- `BRK_FIT` of the record taken. -/
def State.brkFit (s : State) : Bool := s.on V.stmTaken && bitOf (s.supLe 0x11 1) 0

/-- A PWM period starts at Strongman: the spindle mode and the duties last received come into force, within its limits (R22, R226,
R231, R241); where Strongman itself has taken the spindle, its own mode stands. -/
def State.applyPwm (s : State) : State :=
  let m := s.get V.stmModeNx
  let m := if m = 2 ∧ !s.brkFit then 0 else m
  let held := s.on R.STM_STAT_AUTON || s.on V.stmPl || s.on V.stmOv || s.on R.STM_STAT_SM_ACTIVE || s.on V.stmOcPend ||
    (decide (m = 1) && !s.on R.STM_STAT_GRANT)
  if held then s
  else s.puts [(V.stmMode, if s.on V.stmZero ∧ m = 2 then 3 else m), (V.stmDuty 0, s.get (V.stmDutyNx 0)),
    (V.stmDuty 1, s.get (V.stmDutyNx 1)), (V.stmDuty 2, s.get (V.stmDutyNx 2))]

/-- What Carousel does in a period (R196 to R207). -/
def State.crlPeriod (s : State) (o : PwmObs) : State :=
  if s.crlSt = crlOFF then s
  else
    let t := s.puts [(V.crlPer, Nat.min 4294967294 (s.get V.crlPer + 1)), (V.crlTacc, Nat.min 4294967294 (s.get V.crlTacc + 1))]
    let t := ((t.srcStep o 1).srcStep o 2).srcStep o 3
    let t := ((t.srcUse.srcShow o).put V.crlMedNew 0).encShift
    (((t.shuntOffsets).speedFlags).crlStep o).modulate

/-- The resolver's squared amplitude, as measured last (R199). -/
def State.resAmp (s : State) (o : PwmObs) : State :=
  match o.res with
  | some x => s.put V.crlResAmp (x.1.natAbs * x.1.natAbs + x.2.1.natAbs * x.2.1.natAbs)
  | none => s

/-- PWM_PERIOD: Strongman's demands of the last frame come into force, and Carousel computes the next (R22, R196). -/
def pwmPeriod (o : PwmObs) (s : State) : State := (s.applyPwm.resAmp o).crlPeriod o

/-- MEDIA_WEDGE_MISSING: the eighth in a row loses MEDIA (R158, R200); what takes its place is decided in the PWM period that
follows (R201). -/
def mediaWedgeMissing (s : State) : State :=
  let n := Nat.min 255 (s.get V.crlMedMiss + 1)
  (s.puts [(V.crlMedMiss, n), (V.crlMedRun, 0)]).when (decide (8 ≤ n)) fun t => t.puts [(R.CRL_STAT_MEDIA_OK, 0), (V.crlGood 1, 0)]

/-! ## Start from rest (R210 to R212) -/

/-- Sectors of the six SENSE pulses, in their order. -/
def senseOrder : List Nat := [0, 3, 1, 4, 2, 5]

/-- SENSE_PULSE: the sixth pulse names the sector, and ALIGN begins at the attempt's own (R210, R211). -/
def sensePulse (peak : BitVec 16) (s : State) : State :=
  if s.crlSt ≠ crlSENSE then s
  else
    let i := s.get V.crlPulse
    let t := s.puts [(V.crlPeak i, peak.toNat), (V.crlPulse, i + 1)]
    if i < 5 then t
    else
      let ps := (List.range 6).map fun j => t.get (V.crlPeak j)
      let mx := ps.foldl Nat.max 0
      let mn := ps.foldl Nat.min mx
      let k := if (mx - mn) * 100 < 3 * mx ∨ mx = mn then 0 else senseOrder.getD (ps.findIdx fun p => decide (p = mx)) 0
      let n := s.get R.CRL_STAT_ATTEMPT
      let al := (k + if n = 2 then 3 else if n = 3 then 1 else if n = 4 then 5 else 0) % 6
      (t.puts [(V.crlSector, k), (V.crlAlign, al), (V.crlPulse, 0), (V.crlTopSec n, al)]).crlTo crlALIGN

/-- ALIGN_END. -/
def alignEnd (s : State) : State := if s.crlSt = crlALIGN then s.crlTo crlRAMP else s

/-- START_ATTEMPT_FAIL: no lock by 600 r/min or by the deadline (R206, R211). -/
def startAttemptFail (top : Nat) (s : State) : State :=
  if s.crlSt ≠ crlRAMP then s
  else
    let n := s.get R.CRL_STAT_ATTEMPT
    ((((s.puts [(V.crlFailed, 1), (V.crlTop n, top)]).crlTo crlSHORT).evt R.CRL_EVT_START_RETRY).count R.CRL_CNT_START).post 0x10
      0x14 warning noInst [n, s.get V.crlAlign, top]

/-- The end of the 2 s of SHORT after an attempt (R206, R220). -/
def State.shortTimer (s : State) : State :=
  if s.crlSt ≠ crlSHORT then s
  else if s.on V.crlStopAtt then (s.puts [(V.crlStopAtt, 0), (V.crlFailed, 0), (R.CRL_STAT_ATTEMPT, 0)]).crlTo crlSTOPPED
  else if !s.on V.crlFailed then s
  else if s.get R.CRL_STAT_ATTEMPT < 5 then
    (s.puts [(V.crlFailed, 0), (R.CRL_STAT_ATTEMPT, s.get R.CRL_STAT_ATTEMPT + 1), (V.crlPulse, 0), (V.crlTacc, 0),
      (R.CRL_STAT_SRC, 0)]).crlTo crlSENSE
  else
    (((s.put V.crlFailed 0).crlTo crlFAULT).evt R.CRL_EVT_START_FAIL).post 0x10 0x15 error noInst
      ((List.range 5).flatMap fun i => [s.get (V.crlTopSec (i + 1)), s.get (V.crlTop (i + 1))])

/-- The end of 1 s without a zero crossing in SHORT: the spindle is at rest (R206, R217). -/
def State.shortQuiet (s : State) : State :=
  if s.crlSt = crlSHORT ∧ !s.on V.crlFailed ∧ !s.on V.crlStopAtt then
    ((s.puts [(R.CRL_SPEED_SPEED, 0), (V.crlSpdOk, 1), (R.CRL_STAT_SRC, 0), (R.CRL_STAT_ATTEMPT, 0), (V.crlChop, 0), (V.crlOffN, 0)]).setAtSp false).crlTo
      crlSTOPPED
  else s

/-! ## Flying restart (R208) -/

/-- The crossings seed the observer's angle and speed (R208): a crossing of sector k stands at k × 60°, for the rules number the
crossings nowhere (DESIGN CHOICE, log entry 82), and six of them make an electrical revolution. -/
def State.seedBemf (s : State) (interval sector : Nat) : State :=
  (s.puts [(V.trkAng 3, sector * 4294967296 / 6), (V.trkRes 3, 0), (V.crlBad 3, 0)]).putI (V.trkSpd 3)
    ((16000 * 4294967296 / Nat.max 1 (6 * interval) : Nat) : Int)

/-- ZERO_CROSSING: twelve forward crossings whose intervals, in ns, agree within 10 % end CATCH in DRIVE; in SHORT the quiet second
starts again. -/
def zeroCrossing (interval : Nat) (sector : Fin 6) (s : State) : State :=
  if s.crlSt = crlSHORT then s.puts [(V.crlPer, 0), (V.crlQuiet, 1)]
  else if s.crlSt ≠ crlCATCH then s
  else
    let l := s.get V.crlZcLast
    let forward := decide (s.get V.crlZc = 0 ∨ sector.val = (s.get V.crlZcSec + 1) % 6)
    let ok := forward && (decide (s.get V.crlZc ≤ 1) || decide (9 * l ≤ 10 * interval ∧ 10 * interval ≤ 11 * l))
    let n := if ok then s.get V.crlZc + 1 else 1
    let t := s.puts [(V.crlZc, n), (V.crlZcLast, interval), (V.crlZcSec, sector.val)]
    if n = 12 then
      let v := 1000000000000 / Nat.max 1 (s.spnLe 0 2 * interval)
      (((t.seedBemf interval sector.val).puts [(R.CRL_STAT_SRC, 3), (R.CRL_STAT_BEMF_OK, 1), (R.CRL_SPEED_SPEED, v), (V.crlSpdOk, 1),
        (V.crlCatchN, 0), (V.spinUp, 1)]).crlTo crlDRIVE).post 0x10 0x12 info noInst [v, s.get V.msNow - s.get V.crlLossMs]
    else t

/-- Speed in 0.001 r/min of a peak terminal voltage in mV (R208). -/
def State.peakSpeed (s : State) (peak : Nat) : Nat := peak * 1000000 / Nat.max 1 (s.spnLe 2 2)

/-- CATCH_TIMEOUT: 50 ms without success (R208). -/
def catchTimeout (peak : BitVec 16) (s : State) : State :=
  if s.crlSt ≠ crlCATCH then s
  else
    let v := s.peakSpeed peak.toNat
    let n := s.get V.crlCatchN + 1
    let t := (s.puts [(V.crlCatchN, n), (R.CRL_SPEED_SPEED, v), (V.crlSpdOk, 1)]).evt R.CRL_EVT_CATCH_FAIL
    let t := t.when (decide (n = 10)) fun u => u.post 0x10 0x13 error noInst [v]
    if v < 1500000 then (t.put V.crlCatchN 0).crlTo crlSHORT
    else ((t.when (decide (n = 10)) fun u => u.put V.crlCatchDown 1).crlTo crlCOAST).puts [(V.crlWantCatch, 1), (V.crlRetry, 1)]

/-- CATCH_RETRY: in COAST above 1,500 r/min CATCH is tried again every second; after the tenth failure Carousel only
waits for the speed to fall below 1,500 r/min and short-brakes (R208). -/
def catchRetry (peak : BitVec 16) (s : State) : State :=
  if s.crlSt ≠ crlCOAST ∨ !s.on V.crlWantCatch ∨ s.on V.crlOvWait then s
  else
    let v := s.peakSpeed peak.toNat
    let t := s.puts [(R.CRL_SPEED_SPEED, v), (V.crlSpdOk, 1)]
    if v < 1500000 then (t.puts [(V.crlWantCatch, 0), (V.crlCatchDown, 0), (V.crlCatchN, 0)]).crlTo crlSHORT
    else if s.on V.crlCatchDown || !s.grantSeen then t
    else (t.puts [(V.crlWantCatch, 0), (R.CRL_STAT_SRC, 0)]).crlTo crlCATCH

/-! ## Supply events (R219) -/

/-- Strongman reports that the zero vector has taken the place of regeneration (R219): Carousel enters SHORT where it brakes with
it. -/
def State.crlChopFault (s : State) : State :=
  let t := (s.put R.CRL_STAT_REGEN_BLK 1).evt R.CRL_EVT_CHOP_FAULT
  let t := t.post 0x10 0x17 error noInst [s.get R.STM_VIN_VIN12, s.get R.CRL_SPEED_SPEED]
  if s.crlSt = crlREGEN then (t.crlTo crlSHORT).put V.crlChop 1 else t

/-- Strongman reports the trip above 15.2 V. -/
def State.crlOvTrip (s : State) : State :=
  let t := ((s.evt R.CRL_EVT_OV_TRIP).count R.CRL_CNT_OV).post 0x10 0x18 error noInst
    [s.get R.STM_VIN_VIN12, s.get R.CRL_SPEED_SPEED, s.crlSt]
  let st := s.crlSt
  if st = crlOFF ∨ st = crlSTOPPED ∨ st = crlFAULT then t
  else (t.crlCoast.put V.crlOvWait 1).unloadAll

/-- OV_RECOVERY: VIN12 below 13.2 V for 100 ms. -/
def ovRecovery (s : State) : State :=
  if s.crlSt = crlCOAST ∧ s.on V.crlOvWait then (s.puts [(V.crlOvWait, 0), (V.crlWantCatch, 0), (R.CRL_STAT_SRC, 0)]).crlTo crlCATCH
  else s

/-! ## Enable (R221, R222, R224) -/

/-- A field of the spindle record in Carousel's window. -/
def State.spnW (s : State) (off n : Nat) : Nat := s.le 0x10 0 (0x100 + off) n

/-- The spindle record passes its CRC and its ranges (R221). -/
def State.spnOk (s : State) : Bool :=
  let f := s.spnW
  crcOk (s.bytes 0x10 0 0x100 192) && inR 1 12 (f 0 2) && inR 100 1428 (f 2 2) && inR 50 500 (f 4 2) && inR 50 3000 (f 8 2) &&
    inR 50 3000 (f 0xA 2) && inR 50 2000 (f 0xC 2) && inR 10 1000 (f 0xE 2) && inR 4 100 (f 0x10 2) && inR 100 3000 (f 0x12 2) &&
    inR 500 6000 (f 0x14 2) && inR 1 20 (f 0x16 1) && decide (f 0x17 1 < 16) &&
    (!bitOf (f 0x17 1) 0 || inR 1 4 (f 0x17 1 / 2 % 8)) && inR 0 60000 (f 0x18 2) && decide (f 0x1C 1 % 2 = 0 ∧ f 0x1C 1 ≤ 0xE) &&
    decide (f 0x1D 3 = 0) && ((List.range 16).all fun i =>
      decide ((f (0x24 + 8 * i) 1 ≤ 3 ∨ f (0x24 + 8 * i) 1 = 0xFF) ∧ f (0x25 + 8 * i) 3 = 0)) && decide (f 0xA0 28 = 0)

/-- The curve is valid (R222). -/
def State.curveOk (s : State) : Bool :=
  let b (i : Nat) : Nat := s.spnW (0x20 + 8 * i) 4
  let c (i : Nat) : Nat := s.spnW (0x24 + 8 * i) 1
  let n := ((List.range 16).filter fun i => decide (c i ≠ 0xFF)).length
  decide (1 ≤ n) && ((List.range n).all fun i => decide (c i ≠ 0xFF)) && decide (b 0 = 0 ∧ c 0 ≠ 0) &&
    (List.range (n - 1)).all fun i => decide (b i < b (i + 1) ∧ c (i + 1) ≤ c i)

/-- The conditions of R224, in order of their codes; π is taken to six digits in R218's reactance, which needs a valid winding
measurement. -/
def State.crlReasons (s : State) (resOk : Bool) : List (Bool × Nat) :=
  let f := s.spnW
  let r := s.get R.STM_WIND_R_SPN
  let l := s.get R.STM_WIND_L_SPN
  let e := f 2 2 * 756
  let x := 791681 * f 0 2 * l
  [ (!s.spnOk, 0x1001),
    (!s.curveOk, 0x1002),
    (decide (10800000 ≤ f 2 2 * 7560), 0x1003),
    (decide (2900 * f 0xC 2 < f 0xE 2 * f 0xC 2 + 600000), 0x1004),
    (decide (r ≠ 0 ∧ l ≠ 0 ∧ 48 * (r * r * 1000000000000 + x * x) < e * e * 100000000), 0x1005),
    (decide (r = 0 ∨ l = 0), 0x1006),
    (bitOf (f 0x17 1) 0 && (!resOk || decide (f 0 2 % Nat.max 1 (f 0x17 1 / 2 % 8) ≠ 0)), 0x1007),
    (decide (s.get R.TRZ_STAT_STATE ≠ trzRUN) || (List.range 5).any (fun i => !s.lpValid (16 + i)), 0x1008) ]

/-- `CRL_CTL.EN` 0→1: R224, then STOPPED, or COAST of a spindle that turns (R206). The limiter takes its
budget (R215). -/
def State.crlEnable (s : State) (resOk : Bool) : State × Nat :=
  let atRest := !s.on V.stmSpin
  s.enable R.CRL_CTL_EN R.CRL_CHK_REASON (s.crlReasons resOk) fun t =>
    let t := { t with spn := putBytes [] 0 (t.bytes 0x10 0 0x100 192) }
    let t := t.puts [(V.crlOfs, t.tenc.getD (t.spnW 6 2)), (R.CRL_STAT_REGEN_BLK, 0), (R.CRL_STAT_ATTEMPT, 0), (V.crlOffN, 0), (V.crlChop, 0),
      (V.crlOvWait, 0), (V.crlWantCatch, b2n (!atRest)), (V.crlSpdOk, b2n atRest), (V.crlRetry, 0), (V.crlCatchDown, 0), (V.crlCatchN, 0),
      (V.crlMchk, 0), (V.crlResAmp0, t.get V.crlResAmp)]
    ((t.setVinBudget (10 * t.spnW 0x14 2)).crlTo (if atRest then crlSTOPPED else crlCOAST)).evalSp

/-- CRL_ENABLE. -/
def crlEnableCmd (resOk : Bool) (s : State) : State := (s.crlEnable resOk).1

/-- Clearing `CRL_CTL.EN`: OFF. -/
def State.crlDisable (s : State) : State :=
  ((s.puts [(R.CRL_CTL_EN, 0), (R.CRL_STAT_SRC, 0), (V.crlSp05, 0), (V.crlSpdOk, 0)]).setAtSp false).crlTo crlOFF

/-! ## Commands -/

/-- Meaning of MEDIA_WEDGE_MISSING (R158). -/
def execMediaWedgeMissing (s : State) : Host.Outcome State Fault Refusal :=
  .next (mediaWedgeMissing s)

/-- Meaning of CRL_ENABLE (R224). -/
def execCrlEnable (resOk : Bool) (s : State) : Host.Outcome State Fault Refusal :=
  .next (crlEnableCmd resOk s)

/-- Meaning of SP_OVR (R213). -/
def execSpOvr (ovr : Bool) (req : Fin 4) (s : State) : Host.Outcome State Fault Refusal :=
  .next (spOvr ovr req s)

/-- Meaning of PWM_PERIOD (R196). -/
def execPwmPeriod (o : PwmObs) (s : State) : Host.Outcome State Fault Refusal :=
  .next (pwmPeriod o s)

/-- Meaning of SENSE_PULSE (R210). -/
def execSensePulse (peak : BitVec 16) (s : State) : Host.Outcome State Fault Refusal :=
  .next (sensePulse peak s)

/-- Meaning of ALIGN_END (R206). -/
def execAlignEnd (s : State) : Host.Outcome State Fault Refusal :=
  .next (alignEnd s)

/-- Meaning of START_ATTEMPT_FAIL (R211). -/
def execStartAttemptFail (top : Nat) (s : State) : Host.Outcome State Fault Refusal :=
  .next (startAttemptFail top s)

/-- Meaning of ZERO_CROSSING (R208). -/
def execZeroCrossing (interval : Nat) (sector : Fin 6) (s : State) : Host.Outcome State Fault Refusal :=
  .next (zeroCrossing interval sector s)

/-- Meaning of CATCH_TIMEOUT (R208). -/
def execCatchTimeout (peak : BitVec 16) (s : State) : Host.Outcome State Fault Refusal :=
  .next (catchTimeout peak s)

/-- Meaning of CATCH_RETRY (R208). -/
def execCatchRetry (peak : BitVec 16) (s : State) : Host.Outcome State Fault Refusal :=
  .next (catchRetry peak s)

/-- Meaning of SETPOINT_APPLY (R214). -/
def execSetpointApply (s : State) : Host.Outcome State Fault Refusal :=
  .next (setpointApply s)

/-- Meaning of OV_RECOVERY (R219). -/
def execOvRecovery (s : State) : Host.Outcome State Fault Refusal :=
  .next (ovRecovery s)

end Sys2Proof.Machine
end

