-- ==== Sys2Proof/Machine/Strongman.lean ====
section
/-!
DEFINITION. The power and supervision die (chapter "Strongman power stage and supervision", R226 to R244) and the link
between the dies (R22 to R25): frames, heartbeats, supplies, trips, retracts, grants, the safety monitor, winding
measurements.
-/

namespace Sys2Proof.Machine

/-! ## Retracts (R236, R237) -/

/-- The power-loss sequence ends with its last retract: the outcome stands in `STM_PLOSS` (R237, R238). -/
def State.plCheck (s : State) : State :=
  if s.on V.stmPl ∧ s.get R.STM_STAT_RETRACT = 0 then
    s.puts [(V.stmPl, 0), (R.STM_PLOSS_PL_VALID, 1), (R.STM_PLOSS_PL_SPEED, s.get R.CRL_SPEED_SPEED / 1000), (V.stmMode, 0)]
  else s

/-- A retract ends: the bridge opens and completion is reported, which the controller die learns from the status word (R152, R236). -/
def State.retractEnd (s : State) (a : Nat) : State :=
  (((s.setBit R.STM_STAT_RETRACT a false).puts [(V.stmRetPh a, 0), (V.stmRetPark a, 0), (V.stmParkN a, 0), (V.stmVcm a, 0),
    (V.stmLoaded a, 0)]).evt R.STM_EVT_RET_DONE).plCheck

/-- Sign of the current that moves an actuator towards its ramp (R235): positive current moves towards the inner diameter, as the
offset of R146 counts; the spec gives the VCM no sign (DESIGN CHOICE, log entry 83). -/
def State.rampDir (s : State) (a : Nat) : Int := if bitOf (s.supLe 0x10 1) a then -1 else 1

/-- Parking and fallback current towards the ramp, in 0.1 mA (R235, R236). -/
def State.parkCurrent (s : State) (a : Nat) : Int := s.rampDir a * (10 * s.supLe 0x04 2 : Nat)

/-- Velocity of an actuator in 0.01 mm/s by its back-EMF: terminal voltage in mV, current in 0.1 mA, the resistance measured
(R236). -/
def State.retractVel (s : State) (a : Nat) (volt cur : Int) : Int :=
  roundFree ((volt * 10000 - cur * s.get (R.STM_VCMR_R_VCM a)) * 10) (Nat.max 1 (s.supLe (0x08 + 2 * a) 2))

/-- Strongman's own retract drives an actuator's VCM (R236): it regulates the velocity at `RET_VEL` towards the ramp with the current
limited to `RET_IMAX`, after a trip to `RET_PARK_I` (R227); parked, or past its time, it holds `RET_PARK_I`. Frames in which the heads
stand still at the limit are counted. -/
def State.retractDrive (s : State) (a : Nat) (volt cur : Int) : State :=
  let ph := s.get (V.stmRetPh a)
  if ph = 0 ∨ s.on (V.stmVcmTrip a) ∨ s.on R.STM_STAT_SM_ACTIVE then s
  else if ph = 1 then
    let v := s.retractVel a volt cur
    let lim : Int := (10 * if s.on (V.stmRetPark a) then s.supLe 0x04 2 else s.supLe 0x02 2 : Nat)
    let i := clampI (-lim) lim (Config.retractLaw v (s.rampDir a * (100 * s.supLe 0x00 2 : Nat)))
    let still := decide (v.natAbs < 10 * s.supLe 0x00 2 ∧ (i.natAbs : Int) = lim)
    ((s.putI (V.stmRetVel a) v).putI (V.stmVcm a) i).put (V.stmParkN a) (if still then Nat.min 1000 (s.get (V.stmParkN a) + 1) else 0)
  else s.putI (V.stmVcm a) (s.parkCurrent a)

/-- RETRACT_PARKED: 2 ms, 1,000 frames, below a tenth of `RET_VEL` at the current limit (R236). -/
def retractParked (a : Act) (s : State) : State :=
  if s.get (V.stmRetPh a) = 1 ∧ s.get (V.stmParkN a) = 1000 then
    ((s.put (V.stmRetPh a) 2).putI (V.stmVcm a) (s.parkCurrent a)).when (s.on V.stmPl) fun t => t.setBit R.STM_PLOSS_PL_PARKED a true
  else s

/-- RETRACT_PARK_HOLD_END. -/
def retractParkHoldEnd (a : Act) (s : State) : State := if s.get (V.stmRetPh a) = 2 then s.retractEnd a else s

/-- RETRACT_TIMEOUT: not parked by `RET_TO`; Strongman pushes at `RET_PARK_I` (R236). -/
def retractTimeout (a : Act) (s : State) : State :=
  if s.get (V.stmRetPh a) = 1 then
    let t := (((s.put (V.stmRetPh a) 3).putI (V.stmVcm a) (s.parkCurrent a)).evt R.STM_EVT_RET_TO_EVT).post 0x11 0x17 error noInst
      [a.val, s.get (V.stmRetVel a)]
    t.when (s.on V.stmPl) fun t => t.setBit R.STM_PLOSS_PL_TO a true
  else s

/-- RETRACT_PUSH_END. -/
def retractPushEnd (a : Act) (s : State) : State := if s.get (V.stmRetPh a) = 3 then s.retractEnd a else s

/-- STOP_WIRE_ASSERT: the controller die asserts the wire for a cause. -/
def stopWireAssert (cause : Fin 5) (s : State) : State := s.stopAssert cause.val

/-! ## Power fail and supplies (R228, R237) -/

/-- Power-fail levels in force (R228, R235). -/
def State.vin12Pf (s : State) : Nat := if s.on V.stmTaken then s.supLe 0x14 2 else 9500
/-- The same for VIN5. -/
def State.vin5Pf (s : State) : Nat := if s.on V.stmTaken then s.supLe 0x16 2 else 4200
/-- A power fail on one supply (R237): the power-fail wire rises, writes end, latches are set, the spindle feeds VIN12 or
coasts, loaded actuators retract; a heartbeat-loss sequence is superseded (R241). A rectifier that runs stays on when VIN5 fails too.
Before a record has been taken, and once the safety monitor has taken over, the bridge is open (R235, R241). No grant is given until
the controller die has started anew and requested one. -/
def State.powerFail (s : State) (v12 : Bool) : State :=
  let f := if v12 then R.STM_STAT_PF12 else R.STM_STAT_PF5
  if s.on f then s
  else
    let c := s.get R.STM_PLOSS_PL_CAUSE
    let c := if s.on V.stmPl then c ||| (if v12 then 1 else 2) else if v12 then 1 else 2
    let fresh := !s.on V.stmPl
    let s := s.closeRec
    let t := (s.puts [(f, 1), (V.pfWire, 1), (V.stmPl, 1), (V.stmPlReq, 1), (V.stmSeq, 0), (R.STM_PLOSS_PL_CAUSE, c)]).evt R.STM_EVT_PF
    let t := if fresh then t.puts [(R.STM_PLOSS_PL_VALID, 0), (R.STM_PLOSS_PL_PARKED, 0), (R.STM_PLOSS_PL_TO, 0)] else t
    let t := t.forAll (List.range 4) fun a u => u.endWrite a abPowerFail false
    let rect := (v12 || (s.on V.stmPl && decide (s.get V.stmMode = 2))) && s.on V.stmTaken && !s.on R.STM_STAT_SM_ACTIVE && !s.on V.stmOv
    let t := (t.put V.stmMode (if rect then 2 else 0)).stmLatchAll
    ((t.stmRetractAll).dropGrants).plCheck

/-- The trip above 15.2 V: six transistors off, every latch set; the controller die learns it from the status word (R219). -/
def State.ovTrip (s : State) : State :=
  if s.on V.stmOv then s
  else ((s.puts [(V.stmOv, 1), (V.stmMode, 0)]).evt R.STM_EVT_OV_TRIP).stmLatchAll

/-- Counts consecutive samples beyond a threshold, to three. -/
def State.beyond (s : State) (i : Nat) (b : Bool) : State :=
  s.put (V.stmRun i) (if b then Nat.min 3 (s.get (V.stmRun i) + 1) else 0)

/-- The spindle spins up: a start is under way and the speed has not yet been within 0.5 % of the set point (R228, R490). -/
def State.spinningUp (s : State) : Bool :=
  let st := s.crlSt
  decide (crlSENSE ≤ st ∧ st ≤ crlDRIVE) && s.on V.spinUp && s.on R.STM_STAT_GRANT

/-- The AUTO back-off of an attempt, in ms (R489). -/
def State.backoff (s : State) (n : Nat) : Nat :=
  crc32c (serial ++ leBytes 4 (s.get R.CVN_PCYC_CYCLES) ++ leBytes 1 n) % 2001

/-- A VIN12 sag aborts the spin-up: set point 0 through `SP_OVR`, then 5 s and a new back-off (R490). -/
def State.sagAbort (s : State) : State :=
  let n := s.get V.spinTry
  let t := ((s.puts [(R.CRL_CTL_SP_OVR, 1), (R.CRL_CTL_SP_REQ, 0), (V.sagWait, 1), (V.spinTry, n + 1), (V.crlPerm, 0), (V.spinSt, 0),
    (V.spinFrom, s.get V.msNow), (V.spinLen, 5000 + s.backoff ((n + 1) % 256))]).count R.RMC_CNT_SAG).evt R.RMC_EVT_SAG_ABORT
  (t.post 0x05 0x13 warning noInst [n, s.get V.stmSagRef, s.get V.sagLow, s.get R.CRL_SPEED_SPEED]).evalSp

/-- SUPPLY_SAMPLE: every threshold of R228; a threshold is crossed at its second consecutive sample beyond it, the sag at
its third. Runs 0 and 10 are the warnings of VIN12, low and high, 5 and 11 those of VIN5, 1 and 6 power fail, 2 to 4 the levels of
R219, 7 VIN5 above 5.8 V, 8 the sag, 9 VIN12 below 13.5 V. The zero vector takes the place of regeneration above 14.5 V once the
chopper has failed (R219). -/
def supplySample (vin12 vin5 : BitVec 16) (s : State) : State :=
  let v := vin12.toNat
  let w := vin5.toNat
  let sag := s.spinningUp && decide (100 * v < 95 * s.get V.stmSagRef)
  let lo (k : Fld) (x : Nat) : Fld × Nat := (k, Nat.min (s.get k) x)
  let hi (k : Fld) (x : Nat) : Fld × Nat := (k, Nat.max (s.get k) x)
  let t := s.puts [(R.STM_VIN_VIN12, v), (R.STM_VIN_VIN5, w), lo V.vin12Lo v, hi V.vin12Hi v, lo V.vin5Lo w, hi V.vin5Hi w,
    lo V.sagLow v]
  let t := t.beyond 0 (decide (v < 10800)) |>.beyond 10 (decide (13200 < v)) |>.beyond 11 (decide (5500 < w)) |>.beyond 1 (decide (v < s.vin12Pf)) |>.beyond 2 (decide (13800 < v))
    |>.beyond 3 (decide (14500 < v)) |>.beyond 4 (decide (15200 < v)) |>.beyond 5 (decide (w < 4500))
    |>.beyond 6 (decide (w < s.vin5Pf)) |>.beyond 7 (decide (5800 < w)) |>.beyond 8 sag |>.beyond 9 (decide (v < 13500))
  let now (i n : Nat) : Bool := decide (t.get (V.stmRun i) = n ∧ s.get (V.stmRun i) ≠ n)
  let t := t.when (now 0 2 || now 10 2) fun u => (u.evt R.STM_EVT_SUP_WARN).post 0x11 0x16 warning noInst [0, v]
  let t := t.when (now 5 2 || now 11 2) fun u => (u.evt R.STM_EVT_SUP_WARN).post 0x11 0x16 warning noInst [1, w]
  let t := t.when (now 2 2 && t.brkFit) fun u => u.put R.STM_STAT_CHOP_ON 1
  let t := t.when (now 9 2) fun u => u.put R.STM_STAT_CHOP_ON 0
  let t := t.when (now 3 2 && t.on R.STM_STAT_CHOP_FLT) fun u => u.put V.stmZero 1
  let t := t.when (now 4 2) fun u => u.ovTrip
  let t := t.when (now 8 3) fun u => u.put R.STM_STAT_SAG 1
  let t := t.when (now 1 2) fun u => u.powerFail true
  let t := t.when (now 6 2) fun u => u.powerFail false
  let t := t.when (now 7 2) fun u => u.stmLatchAll.powerFail false
  let t := t.when (!t.on V.stmPl && decide (t.get (V.stmRun 1) = 0)) fun u => u.put R.STM_STAT_PF12 0
  let t := t.when (!t.on V.stmPl && decide (t.get (V.stmRun 6) = 0 ∧ t.get (V.stmRun 7) = 0)) fun u => u.put R.STM_STAT_PF5 0
  let t := t.putB V.pfWire (t.on R.STM_STAT_PF12 || t.on R.STM_STAT_PF5)
  t.when (!t.supplyOk) fun u => u.checkGrant

/-! ## Trips (R227, R229, R239) -/

/-- CHOPPER_FAIL: the chopper is on and its current sense reads below 200 mA (R229); above 14.5 V the zero vector takes the place of
regeneration (R219). -/
def chopperFail (current : Nat) (s : State) : State :=
  if s.on R.STM_STAT_CHOP_ON ∧ current < 200 then
    let t := ((s.put R.STM_STAT_CHOP_FLT 1).count R.STM_CNT_CHOP).evt R.STM_EVT_CHOP_FAULT
    (t.post 0x11 0x14 error noInst [s.get R.STM_VIN_VIN12, current]).when (decide (2 ≤ s.get (V.stmRun 3))) fun u => u.put V.stmZero 1
  else s

/-- A trip of R227: event, code 0x13. -/
def State.ocTrip (s : State) (stage inst current : Nat) : State :=
  (s.evt R.STM_EVT_OC).post 0x11 0x13 error noInst [stage, inst, current]

/-- SPINDLE_OVERCURRENT: six transistors off, coast; counted and reported in the status word (R227). -/
def spindleOvercurrent (current : Nat) (s : State) : State :=
  (((s.ocTrip 0 0 current).count R.STM_CNT_OC).puts [(V.stmOcPend, 1), (V.stmCoastN, 0), (V.stmMode, 0)]).checkGrant

/-- VCM_OVERCURRENT: the bridge opens for 100 µs, and a grant does not outlast a pending trip (R227, R232). -/
def vcmOvercurrent (a : Act) (current : Nat) (s : State) : State :=
  ((s.ocTrip 1 a current).puts [(V.stmVcmTrip a, 1), (V.stmVcm a, 0)]).checkGrant

/-- VCM_TRIP_REOPEN: a retract at `RET_PARK_I`; the bridge stays open when that retract has tripped. -/
def vcmTripReopen (a : Act) (s : State) : State :=
  if !s.on (V.stmVcmTrip a) then s
  else
    let t := s.put (V.stmVcmTrip a) 0
    if bitOf (s.get R.STM_STAT_RETRACT) a then
      if s.on (V.stmRetPark a) then
        (((t.setBit R.STM_STAT_VCM_OFF a true).setBit R.STM_STAT_RETRACT a false).puts
          [(V.stmRetPh a, 0), (V.stmRetPark a, 0)]).plCheck.refreshAct a 0x11 0x13
      else t.puts [(V.stmRetPark a, 1), (V.stmRetPh a, 1), (V.stmParkN a, 0)]
    else t.stmRetract a true

/-- MA_CURRENT_LIMIT: output 0 V, `MA_OFF`; firmware clears `SRV_CTL.MA_EN`. -/
def maCurrentLimit (a : Act) (s : State) : State :=
  ((s.ocTrip 2 a 20).setBit R.STM_STAT_MA_OFF a true).puts [(V.stmMa a, 0), (R.SRV_CTL_MA_EN a, 0)]

/-- Clears `MA_OFF` bits; those that the hardware sets in the same cycle stay set (R18). -/
def State.maClear (s : State) (mask hw : Nat) : State :=
  s.put R.STM_STAT_MA_OFF ((s.get R.STM_STAT_MA_OFF &&& (15 - mask % 16)) ||| hw % 16)

/-- MA_OFF_CLEAR. -/
def maOffClear (mask hw : BitVec 4) (s : State) : State := s.maClear mask.toNat hw.toNat

/-- SM_OVERVOLTAGE: the monitor's own comparator trips above 15.2 V. -/
def smOvervoltage (s : State) : State := s.ovTrip

/-! ## Heartbeats and the autonomous state (R24, R233, R234) -/

/-- `RESUME` takes effect when the sequence has ended and 16 consecutive heartbeats have been good. -/
def State.tryResume (s : State) : State :=
  if s.on V.stmResume ∧ s.on R.STM_STAT_AUTON ∧ s.get V.stmSeq = 0 ∧ s.get R.STM_STAT_RETRACT = 0 ∧ s.get V.stmHbGood = 16 then
    (s.puts [(R.STM_STAT_AUTON, 0), (V.stmResume, 0)]).setBit V.stopWire 2 false
  else s

/-- STM_RESUME. -/
def stmResume (s : State) : State := (s.put V.stmResume 1).tryResume

/-- Entry to the autonomous state at the third miss (R233). A power-loss sequence, or the safety monitor's push, is not disturbed
(R241). -/
def State.autonomous (s : State) : State :=
  if s.on R.STM_STAT_AUTON then s
  else
    let loaded := (List.range 4).filter fun a => s.on (V.stmLoaded a)
    let rest := !s.on V.stmSpin && loaded.isEmpty
    let keep := s.on V.stmPl || s.on R.STM_STAT_SM_ACTIVE
    let t := ((s.puts [(R.STM_STAT_AUTON, 1), (V.stmResume, 0), (V.stmHbGood, 0), (V.stmMode, if keep then s.get V.stmMode else 0)]).evt
      R.STM_EVT_HB_LOSS).stmLatchAll
    if rest then (t.post 0x11 0x1A info noInst [s.get V.stmHbRx]).dropGrants
    else
      let t := (t.stmRetractAll.dropGrants).put V.stmSeq (if keep then 0 else 1)
      t.post 0x11 0x10 error noInst
        [s.get V.stmHbRx, s.get R.CRL_SPEED_SPEED, (loaded.map fun a => 2 ^ a).foldl (· + ·) 0]

/-- HEARTBEAT_MISS, at Strongman or at the controller die. -/
def heartbeatMiss (atStrongman : Bool) (s : State) : State :=
  if atStrongman then
    let n := Nat.min 3 (s.get V.stmHbMiss + 1)
    let t := (s.puts [(V.stmHbMiss, n), (V.stmHbGood, 0), (R.STM_STAT_HB_OK, 0)]).count R.STM_CNT_HBMISS
    if n = 3 then t.autonomous else t
  else
    let n := Nat.min 3 (s.get V.hbMiss + 1)
    let t := s.put V.hbMiss n
    if n = 3 ∧ s.get V.hbMiss ≠ 3 then
      ((t.stopAssert 2).crlCoast).post 0x11 0x19 error noInst [s.get V.hbRx]
    else t

/-- HEARTBEAT_ADVANCE: every 1 ms; the controller die sends a heartbeat while its firmware runs (R24, R483). -/
def heartbeatAdvance (s : State) : State :=
  let t := (s.bump V.stmHbTx 1).bump V.msNow 1
  t.when (s.on V.fwUp) fun u => u.bump V.hbTx 1

/-- AUTONOMOUS_BRAKE: below 1,500 r/min the sequence short-brakes. -/
def autonomousBrake (s : State) : State :=
  if s.get V.stmSeq = 1 ∧ !s.on R.STM_STAT_SM_ACTIVE ∧ !s.on V.stmPl then s.puts [(V.stmSeq, 2), (V.stmMode, 3)] else s

/-- AUTONOMOUS_SEQUENCE_END: the spindle is at rest. -/
def autonomousSequenceEnd (s : State) : State :=
  if s.get V.stmSeq = 2 then
    (s.puts [(V.stmSeq, 0), (V.stmMode, 0), (V.stmSpin, 0), (R.CRL_SPEED_SPEED, 0)]).tryResume
  else s

/-! ## Grants and latches (R232) -/

/-- The conditions of R232 of a head load, the latch apart. -/
def State.loadGrantOk (s : State) (a : Nat) : Bool :=
  s.startOk && !bitOf (s.get R.STM_STAT_VCM_OFF) a && s.on (R.STM_VCMR_VALID a)

/-- START_REQUEST: the controller die requests a spindle start, from STOPPED, CATCH or COAST towards a catch, or a head load, in the
message slot of its next frame (R22, R232). A load is requested once the VCM resistance has been measured for it, where the heads
are parked (R240). A request stays in the slot until a good frame has carried it (DESIGN CHOICE, log entry 70). -/
def startRequest (a : Option Act) (s : State) : State :=
  match a with
  | none =>
    if s.crlSt = crlSTOPPED ∨ s.crlSt = crlCATCH ∨ s.crlSt = crlCOAST then s.setBit V.reqSlot 0 true else s
  | some a =>
    if s.on (V.measFresh a) || s.on (V.stmLoaded a) then s.setBit V.reqSlot (1 + a) true
    else (s.setBit V.measQ (2 + a) true).put (V.reqWait a) 1

/-- Strongman gives the spindle grant where every condition holds, and keeps VIN12 of that moment (R228, R232). -/
def State.giveSpin (s : State) : State :=
  if s.startOk && !s.on V.stmPl && !s.on V.stmPlReq then
    s.puts [(R.STM_STAT_GRANT, 1), (V.stmSagRef, s.get R.STM_VIN_VIN12), (V.sagLow, s.get R.STM_VIN_VIN12), (R.STM_STAT_SAG, 0),
      (V.stmOv, 0), (V.stmZero, 0)]
  else s

/-- Strongman gives the grant of a head load where every condition holds (R232). -/
def State.giveLoad (s : State) (a : Nat) : State :=
  s.when (s.loadGrantOk a && !bitOf (s.get R.STM_STAT_LATCH) a && !s.on V.stmPl && !s.on V.stmPlReq) fun t => t.put (V.stmLoadGrant a) 1

/-- Strongman takes the message slot of a good frame: after a power loss the first request that follows the controller die's next
start lifts the bar on grants (R232, R237); each request is granted or discarded (R241). -/
def State.takeRequests (s : State) : State :=
  let q := s.get V.reqSlot
  let s := s.puts [(V.stmReqSeen, q), (V.reqSlot, 0)]
  let s := s.when (decide (q ≠ 0 ∧ s.get V.stmPlReq = 2) && !s.on V.stmPl) fun t => t.put V.stmPlReq 0
  (s.when (bitOf q 0) State.giveSpin).forAll (List.range 4) fun a t => t.when (bitOf q (1 + a)) fun u => u.giveLoad a

/-- The laser-off latches clear at the first frame in which their conditions hold; the controller die learns it from the status word
(R119, R232). -/
def State.clearLatches (s : State) : State :=
  s.forAll (List.range 4) fun a t =>
    if bitOf (t.get R.STM_STAT_LATCH) a && t.loadGrantOk a && !bitOf (t.get R.STM_STAT_RETRACT) a && !t.on V.stmPl &&
        !t.on V.stmPlReq then
      t.setBit R.STM_STAT_LATCH a false
    else t

/-! ## The link (R22 to R24) -/

/-- A frame leaves with the VCM demands of the moment, which the feed-forward to a mate looks at (R156). -/
def State.frameSent (s : State) : State :=
  s.forAll (List.range 4) fun a t => t.putI (V.vcmSent a) (clampI (-32768) 32767 (s.destVal a))

/-- Strongman takes the demands of a good frame: VCM and milliactuator demands on receipt, within its limits, which it flags (R226), and
not against a stopping action of its own, the safety monitor's push among them (R231, R239, R241); spindle mode and duties wait for
the next PWM period (R22). -/
def State.applyDemands (s : State) : State :=
  let t := s.puts [(V.stmModeNx, s.get V.crlMode), (V.stmDutyNx 0, s.get (V.crlDuty 0)), (V.stmDutyNx 1, s.get (V.crlDuty 1)),
    (V.stmDutyNx 2, s.get (V.crlDuty 2)), (V.stmLimV, 0), (V.stmLimM, 0)]
  t.forAll (List.range 4) fun a t =>
    let t := if bitOf (t.get R.STM_STAT_RETRACT) a || bitOf (t.get R.STM_STAT_VCM_OFF) a || t.on (V.stmVcmTrip a) ||
        t.on R.STM_STAT_SM_ACTIVE then t
      else (t.putI (V.stmVcm a) (clampI (-18000) 18000 (t.destVal a))).when (decide (18000 < (t.destVal a).natAbs)) fun u => u.put V.stmLimV 1
    if bitOf (t.get R.STM_STAT_MA_OFF) a then t
    else (t.putI (V.stmMa a) (clampI (-18000) 18000 (t.maDemand a))).when (decide (18000 < (t.maDemand a).natAbs)) fun u => u.put V.stmLimM 1

/-- A good frame with the advanced count: the heartbeat is healthy. -/
def State.goodBeat (s : State) : State :=
  if s.get V.hbTx ≠ s.get V.stmHbRx then
    (s.puts [(V.stmHbRx, s.get V.hbTx), (V.stmHbMiss, 0), (R.STM_STAT_HB_OK, 1), (V.stmHbGood, Nat.min 16 (s.get V.stmHbGood + 1))]).tryResume
  else s

/-- Writes signed values to fields numbered from 0. -/
def State.putInts (s : State) (f : Nat → Fld) (l : List Int) : State :=
  s.forAll l.zipIdx fun p t => t.putI (f p.2) p.1

/-- The status word of a frame to the controller die: latches, retracts, open bridges, milliactuators off, supplies below their
power-fail levels, chopper on, zero vector after a chopper fault, grants, spindle trip, autonomous state, safety monitor, sag, trip
above 15.2 V, limit flags. The spec names the kinds of its content and no layout; this one is the model's own (DESIGN CHOICE, log
entry 70). -/
def State.statusWord (s : State) : Nat :=
  s.get R.STM_STAT_LATCH + 2 ^ 4 * s.get R.STM_STAT_RETRACT + 2 ^ 8 * s.get R.STM_STAT_VCM_OFF + 2 ^ 12 * s.get R.STM_STAT_MA_OFF +
    2 ^ 16 * s.get R.STM_STAT_PF12 + 2 ^ 17 * s.get R.STM_STAT_PF5 + 2 ^ 18 * s.get R.STM_STAT_CHOP_ON + 2 ^ 19 * s.get V.stmZero +
    2 ^ 20 * s.get R.STM_STAT_GRANT + 2 ^ 21 * s.get (V.stmLoadGrant 0) + 2 ^ 22 * s.get (V.stmLoadGrant 1) +
    2 ^ 23 * s.get (V.stmLoadGrant 2) + 2 ^ 24 * s.get (V.stmLoadGrant 3) + 2 ^ 25 * s.get V.stmOcPend + 2 ^ 26 * s.get R.STM_STAT_AUTON +
    2 ^ 27 * s.get R.STM_STAT_SM_ACTIVE + 2 ^ 28 * s.get R.STM_STAT_SAG + 2 ^ 29 * s.get V.stmOv + 2 ^ 30 * s.get V.stmLimV +
    2 ^ 31 * s.get V.stmLimM

/-- The controller die learns that a Strongman retract has begun, and the ladder of a read stops (R88), or that it has ended, and the
servo state becomes UNLOADED (R152). A retract that ended for the bridge stays open has parked nothing (R227). -/
def State.retractNews (s : State) (old new a : Nat) : State :=
  let was := bitOf old (4 + a)
  let is := bitOf new (4 + a)
  if is && !was then s.ladderRestart a
  else if was && !is && !bitOf new (8 + a) && decide (s.srvSt a ≠ srvOFF) then
    (((s.ladderRestart a).tdAbortOn a abUnload).withdraw a wiState).toUnloaded a
  else s

/-- What the controller die does on the status word of a good frame, by what has changed in it: latches (R109, R119), retracts (R152,
R160), the grant gone, a trip or a takeover, which coast (R220, R227), the zero vector after a chopper fault and the trip above 15.2 V
(R219), a sag (R490). The stop wire of a STOP action is released when its retracts have ended. -/
def State.statusNews (s : State) (new : Nat) : State :=
  let old := s.get V.linkStat
  let rise (i : Nat) : Bool := bitOf new i && !bitOf old i
  let t := (s.put V.linkStat new).forAll (List.range 4) fun a u => (u.latchSeen a).retractNews old new a
  let t := t.when (decide (old / 16 % 16 ≠ 0 ∧ new / 16 % 16 = 0)) fun u => u.setBit V.stopWire 1 false
  let t := t.when ((bitOf old 20 && !bitOf new 20) || rise 25 || rise 27) fun u => u.crlCoast
  let t := t.when (rise 19) fun u => u.crlChopFault
  let t := t.when (rise 29) fun u => u.crlOvTrip
  t.when (rise 28) fun u => u.sagAbort

/-- The message slot of a frame to the controller die: while an actuator loads or unloads, every fourth frame carries its VCM
terminal voltage, from which Trapeze computes its velocity (R155). Actuator `a` has the frames whose sequence number is `a` modulo
4 (DESIGN CHOICE, log entry 70). -/
def State.takeMessage (s : State) (msg : BitVec 32) : State :=
  let a := s.get (V.linkSeq 1) % 4
  (s.put V.linkMsg msg.toNat).when (decide (s.srvSt a = srvLOADING ∨ s.srvSt a = srvUNLOADING)) fun t =>
    t.putI (V.bemfVel a) (Config.bemfVel (toSigned 32 msg.toNat) (t.getI (V.vcmCur a)) (t.get (R.STM_VCMR_R_VCM a)))

/-- The condition of a measurement's kind (R240). -/
def State.measCond (s : State) (kind a : Nat) : Bool :=
  if kind = 3 then !s.on (V.stmLoaded a) else !s.on V.stmSpin && s.on R.STM_STAT_GRANT

/-- A winding measurement starts. -/
def State.measStart (s : State) (kind a : Nat) : State :=
  s.puts [(R.STM_MEAS_KIND, kind), (R.STM_MEAS_ACT, a), (V.stmMeasBusy, 1), (V.stmMeasK, kind), (V.stmMeasA, a)]

/-- Kind and actuator of entry `k` of firmware's list of measurements. -/
def measEntry (k : Nat) : Nat × Nat := if k < 2 then (k + 1, 0) else (3, k - 2)

/-- Resident firmware takes the next measurement of its list whose condition holds (R240); a start from STOPPED that only waits for
one puts kinds 1 and 2 on it. -/
def State.measNext (s : State) : State :=
  let want := decide (s.crlSt = crlSTOPPED ∧ s.get R.CRL_STAT_SP ≠ 0) && s.grantSeen && s.on V.crlPerm && !s.on V.measSpn &&
    decide (s.get V.measQ % 4 = 0) && !(s.on V.stmMeasBusy && decide (s.get V.stmMeasK ≤ 2))
  let s := s.when want fun t => t.put V.measQ (t.get V.measQ ||| 3)
  if s.on V.stmMeasBusy then s
  else match (List.range 6).find? fun k => bitOf (s.get V.measQ) k && s.measCond (measEntry k).1 (measEntry k).2 with
    | some k => (s.setBit V.measQ k false).measStart (measEntry k).1 (measEntry k).2
    | none => s

/-- The Strongman handshake of a start: firmware records the outcome of the last power-loss retract, or that it is unknown where the
power-cycle count has advanced since the last handshake (R238, R484). -/
def State.handshake (s : State) : State :=
  if s.get R.RMC_STAT_STEP ≠ 5 then s
  else
    let n := s.get R.CVN_PCYC_CYCLES
    let w := s.get R.STM_PLOSS_PL_VALID + 2 * s.get R.STM_PLOSS_PL_CAUSE + 8 * s.get R.STM_PLOSS_PL_PARKED +
      128 * s.get R.STM_PLOSS_PL_TO + 65536 * s.get R.STM_PLOSS_PL_SPEED
    let t := if s.on R.STM_PLOSS_PL_VALID then s.post 0x11 0x11 warning noInst [w]
      else s.when (decide (s.get V.pcycSeen < n)) fun t => t.post 0x11 0x12 warning noInst [n]
    (t.put V.pcycSeen n).stepEnd 5

/-- A write gate open for 20 frames, 40 µs, without a gate-off frame: the preamp ends the write and sets its gate-timeout fault
(R96, R111). -/
def State.gateTimers (s : State) : State :=
  s.forAll (List.range 4) fun a t =>
    if !t.on (R.SPT_STAT_WG a) then t
    else if t.get (V.sptWgT a) < 19 then t.bump (V.sptWgT a) 1
    else preampFault ⟨a % 4, Nat.mod_lt a (by decide)⟩ 0x800 false false t

/-- DIE_LINK_FRAME: one frame, in one direction. A frame whose CRC fails is discarded and counted (R23). -/
def dieLinkFrame (f : LinkFrame) (s : State) : State :=
  match f with
  | .toStrongman crcOk =>
    let t := ((s.bump (V.linkSeq 0) 1).put V.trzLinkFree 1).dropOwners.frameSent
    if !crcOk then t.count R.STM_CNT_LINKERR
    else
      let t := t.goodBeat
      let n := if s.get V.crlMode = 0 then Nat.min 16 (s.get V.stmCoastN + 1) else 0
      let t := t.put V.stmCoastN n
      let t := if n = 16 then t.put V.stmOcPend 0 else t
      (t.applyDemands.clearLatches.takeRequests).when (t.on R.STM_STAT_HB_OK) State.handshake
  | .toController crcOk phases vcms volts msg pwmNew =>
    let t := ((s.bump (V.linkSeq 1) 1).bump V.trzNow 2000).gateTimers
    let t := t.forAll (List.range 4) fun a u => u.retractDrive a (volts.getD a 0) (vcms.getD a 0)
    if !crcOk then t.count R.RMC_CNT_LINKERR
    else
      let t := ((t.putInts V.phCur (phases.take 3)).putInts V.vcmCur (vcms.take 4)).takeMessage msg
      let t := t.puts [(V.linkV12, s.get R.STM_VIN_VIN12), (V.linkV5, s.get R.STM_VIN_VIN5)]
      let t := (t.statusNews s.statusWord).measNext
      let t := t.forAll (List.range 4) fun a u => u.afterMate a
      let t := if s.get V.stmHbTx ≠ s.get V.hbRx then t.puts [(V.hbRx, s.get V.stmHbTx), (V.hbMiss, 0)] else t
      if pwmNew then t.park.trzTrigger 1 (fun _ => true) true else t

/-! ## Safety monitor (R239) -/

/-- SAFETY_MONITOR_TICK. -/
def safetyMonitorTick (s : State) : State := s.put V.smTick 1

/-- SAFETY_MONITOR_TAKEOVER: latches, spindle bridge open, a push of every VCM to its ramp at `RET_PARK_I` where a record gives it and
open bridges otherwise (R235, R239), the fault wire; no grant stays. It wins over a retract and over every sequence (R241). -/
def safetyMonitorTakeover (age : Nat) (s : State) : State :=
  if s.on R.STM_STAT_SM_ACTIVE then s
  else
    let t := ((s.puts [(R.STM_STAT_SM_ACTIVE, 1), (V.smTick, 0), (V.faultWire, 1), (V.stmMode, 0), (V.smPush, b2n (s.on V.stmTaken))]).evt
      R.STM_EVT_SM_TAKEOVER).stmLatchAll
    let t := t.forAll (List.range 4) fun a u => u.putI (V.stmVcm a) (if s.on V.stmTaken then s.parkCurrent a else 0)
    (t.post 0x11 0x15 error noInst [age, s.get R.STM_VIN_VIN12, s.get R.STM_VIN_VIN5]).puts [(R.STM_STAT_GRANT, 0),
      (V.stmLoadGrant 0, 0), (V.stmLoadGrant 1, 0), (V.stmLoadGrant 2, 0), (V.stmLoadGrant 3, 0), (V.stmSeq, 0)]

/-- SAFETY_MONITOR_PUSH_END: every VCM bridge opens (R239); a retract that the push took the place of ends with it. -/
def safetyMonitorPushEnd (s : State) : State :=
  if s.on V.smPush then
    (s.put V.smPush 0).forAll (List.range 4) fun a t =>
      if bitOf (t.get R.STM_STAT_RETRACT) a then t.retractEnd a else t.put (V.stmVcm a) 0
  else s

/-! ## Winding measurements (R240) -/

/-- `STM_MEAS.GO`: 0, or the status that stops a diagnostic entry (R240). Kind 0 is refused with a general error. -/
def State.measGo11 (s : State) (kind a : Nat) : State × Nat :=
  if kind = 0 then (s, 0x0009)
  else if s.on V.stmMeasBusy then (s, 0x000F)
  else if !s.measCond kind a then (s, 0x000A)
  else (s.measStart kind a, 0)

/-- WINDING_MEASURE_GO. -/
def windingMeasureGo (kind : Fin 4) (a : Act) (s : State) : State := (s.measGo11 kind a).1

/-- A measurement has ended: what waited for it goes on, a load's request leaves, the next one of firmware's list starts, and a start
that lacked nothing else proceeds (R240). -/
def State.measEnded (s : State) (k a : Nat) : State :=
  let t := if k = 3 then
      let u := s.put (V.measFresh a) 1
      u.when (u.on (V.reqWait a)) fun v => (v.put (V.reqWait a) 0).setBit V.reqSlot (1 + a) true
    else s.when (decide (k = 2 ∧ s.crlSt = crlSTOPPED)) fun u => u.put V.measSpn 1
  t.measNext.tryStart

/-- WINDING_MEASURE_DONE: the value in mΩ, µH or mΩ; one outside its range leaves a valid value in place. -/
def windingMeasureDone (value : Nat) (s : State) : State :=
  if !s.on V.stmMeasBusy then s
  else
    let k := s.get V.stmMeasK
    let a := s.get V.stmMeasA
    let t := (s.put V.stmMeasBusy 0).evt R.STM_EVT_MEAS_DONE
    let ok := if k = 1 then inR 500 20000 value else if k = 2 then inR 50 20000 value else inR 2000 30000 value
    let t := if ok then
        if k = 1 then t.put R.STM_WIND_R_SPN value
        else if k = 2 then t.put R.STM_WIND_L_SPN value
        else t.puts [(R.STM_VCMR_R_VCM a, value), (R.STM_VCMR_VALID a, 1)]
      else (t.evt R.STM_EVT_MEAS_OOR).post 0x11 0x18 warning noInst [k, a, value]
    t.measEnded k a

/-! ## Enable and power (R235, R238, R243) -/

/-- A field of the supervision record of the option area in force. -/
def State.supO (s : State) (off n : Nat) : Nat := s.optLe (0x1C0 + off) n

/-- The supervision record passes its CRC and its ranges (R235). -/
def State.supOk (s : State) : Bool :=
  let f := s.supO
  crcOk (getBytes s.opt 0x1C0 32) && inR 20 255 (f 0 2) && inR 100 1800 (f 2 2) && inR 20 1000 (f 4 2) && inR 50 1000 (f 6 2) &&
    ((List.range 4).all fun a => inR 10 2000 (f (8 + 2 * a) 2)) && inR 0 15 (f 0x10 1) && inR 0 1 (f 0x11 1) &&
    inR 51 1000 (f 0x12 2) && inR 8500 10500 (f 0x14 2) && inR 4000 4400 (f 0x16 2) && decide (f 0x18 4 = 0)

/-- The conditions of R243, in order of their codes; `pulse` is the test pulse's current in mA. -/
def State.stmReasons (s : State) (pulse : Nat) : List (Bool × Nat) :=
  let fit := bitOf (s.supO 0x11 1) 0
  [ (!s.supOk, 0x1101),
    (fit && decide (pulse < 200), 0x1102),
    (decide (s.supO 0x12 2 * 3000 < 152000 ∨ 138000 < s.supO 0x12 2 * s.optLe 0x112 2), 0x1103),
    (!s.supplyOk, 0x1104),
    (!s.on R.STM_STAT_HB_OK || s.on R.STM_STAT_AUTON, 0x1105),
    (s.on R.STM_STAT_SM_ACTIVE, 0x1106) ]

/-- `STM_CTL.EN` 0→1: R243; a pass takes the record, and lets the loads of an actuator whose bridge was left off be
requested again (R227, R235). With the spindle at rest firmware measures its winding, for which it requests the spindle grant: kinds 1
and 2 need "bridge granted" (R240; DEDUCED, log entry 84). -/
def State.stmEnable (s : State) (pulse : Nat) : State × Nat :=
  s.enable R.STM_CTL_EN R.STM_CHK_REASON (s.stmReasons pulse) fun t =>
    let t := { t with sup := putBytes [] 0 (getBytes t.opt 0x1C0 32) }
    let t := t.puts [(V.stmTaken, 1), (R.STM_STAT_NO_REGEN, b2n (!bitOf (t.supO 0x11 1) 0)), (R.STM_STAT_VCM_OFF, 0),
      (R.STM_STAT_CHOP_FLT, 0), (V.stmZero, 0)]
    let t := t.when (!t.on V.stmSpin) fun u => u.puts [(V.measQ, u.get V.measQ ||| 3), (V.reqSlot, u.get V.reqSlot ||| 1)]
    t.forAll (List.range 4) fun a u => u.refreshAct a 0x11 0x13

/-- STM_ENABLE. -/
def stmEnableCmd (pulse : Nat) (s : State) : State := (s.stmEnable pulse).1

/-- Clearing `STM_CTL.EN` withdraws no grant in force (R232). -/
def State.stmDisable (s : State) : State := s.put R.STM_CTL_EN 0

/-- STRONGMAN_LOGIC_POWER_LOSS: registers and supervision state take their reset values, `STM_PLOSS` reads 0 (R238,
R239, R482). -/
def strongmanLogicPowerLoss (s : State) : State := { (s.resetBlk 0x11) with sup := [] }

/-! ## Commands -/

/-- Meaning of DIE_LINK_FRAME (R22). -/
def execDieLinkFrame (f : LinkFrame) (s : State) : Host.Outcome State Fault Refusal :=
  .next (dieLinkFrame f s)

/-- Meaning of HEARTBEAT_ADVANCE (R24). -/
def execHeartbeatAdvance (s : State) : Host.Outcome State Fault Refusal :=
  .next (heartbeatAdvance s)

/-- Meaning of HEARTBEAT_MISS (R233). -/
def execHeartbeatMiss (atStrongman : Bool) (s : State) : Host.Outcome State Fault Refusal :=
  .next (heartbeatMiss atStrongman s)

/-- Meaning of SUPPLY_SAMPLE (R228). -/
def execSupplySample (vin12 vin5 : BitVec 16) (s : State) : Host.Outcome State Fault Refusal :=
  .next (supplySample vin12 vin5 s)

/-- Meaning of CHOPPER_FAIL (R229). -/
def execChopperFail (current : Nat) (s : State) : Host.Outcome State Fault Refusal :=
  .next (chopperFail current s)

/-- Meaning of SPINDLE_OVERCURRENT (R227). -/
def execSpindleOvercurrent (current : Nat) (s : State) : Host.Outcome State Fault Refusal :=
  .next (spindleOvercurrent current s)

/-- Meaning of VCM_OVERCURRENT (R227). -/
def execVcmOvercurrent (a : Act) (current : Nat) (s : State) : Host.Outcome State Fault Refusal :=
  .next (vcmOvercurrent a current s)

/-- Meaning of VCM_TRIP_REOPEN (R227). -/
def execVcmTripReopen (a : Act) (s : State) : Host.Outcome State Fault Refusal :=
  .next (vcmTripReopen a s)

/-- Meaning of MA_CURRENT_LIMIT (R227). -/
def execMaCurrentLimit (a : Act) (s : State) : Host.Outcome State Fault Refusal :=
  .next (maCurrentLimit a s)

/-- Meaning of MA_OFF_CLEAR (R242). -/
def execMaOffClear (mask hw : BitVec 4) (s : State) : Host.Outcome State Fault Refusal :=
  .next (maOffClear mask hw s)

/-- Meaning of STOP_WIRE_ASSERT (R231). -/
def execStopWireAssert (cause : Fin 5) (s : State) : Host.Outcome State Fault Refusal :=
  .next (stopWireAssert cause s)

/-- Meaning of RETRACT_PARKED (R236). -/
def execRetractParked (a : Act) (s : State) : Host.Outcome State Fault Refusal :=
  .next (retractParked a s)

/-- Meaning of RETRACT_PARK_HOLD_END (R236). -/
def execRetractParkHoldEnd (a : Act) (s : State) : Host.Outcome State Fault Refusal :=
  .next (retractParkHoldEnd a s)

/-- Meaning of RETRACT_TIMEOUT (R236). -/
def execRetractTimeout (a : Act) (s : State) : Host.Outcome State Fault Refusal :=
  .next (retractTimeout a s)

/-- Meaning of RETRACT_PUSH_END (R236). -/
def execRetractPushEnd (a : Act) (s : State) : Host.Outcome State Fault Refusal :=
  .next (retractPushEnd a s)

/-- Meaning of START_REQUEST (R232). -/
def execStartRequest (a : Option Act) (s : State) : Host.Outcome State Fault Refusal :=
  .next (startRequest a s)

/-- Meaning of AUTONOMOUS_BRAKE (R233). -/
def execAutonomousBrake (s : State) : Host.Outcome State Fault Refusal :=
  .next (autonomousBrake s)

/-- Meaning of STM_RESUME (R234). -/
def execStmResume (s : State) : Host.Outcome State Fault Refusal :=
  .next (stmResume s)

/-- Meaning of STM_ENABLE (R243). -/
def execStmEnable (pulse : Nat) (s : State) : Host.Outcome State Fault Refusal :=
  .next (stmEnableCmd pulse s)

/-- Meaning of SAFETY_MONITOR_TICK (R239). -/
def execSafetyMonitorTick (s : State) : Host.Outcome State Fault Refusal :=
  .next (safetyMonitorTick s)

/-- Meaning of SAFETY_MONITOR_TAKEOVER (R239). -/
def execSafetyMonitorTakeover (age : Nat) (s : State) : Host.Outcome State Fault Refusal :=
  .next (safetyMonitorTakeover age s)

/-- Meaning of SM_OVERVOLTAGE (R239). -/
def execSmOvervoltage (s : State) : Host.Outcome State Fault Refusal :=
  .next (smOvervoltage s)

/-- Meaning of WINDING_MEASURE_GO (R240). -/
def execWindingMeasureGo (kind : Fin 4) (a : Act) (s : State) : Host.Outcome State Fault Refusal :=
  .next (windingMeasureGo kind a s)

/-- Meaning of WINDING_MEASURE_DONE (R240). -/
def execWindingMeasureDone (value : Nat) (s : State) : Host.Outcome State Fault Refusal :=
  .next (windingMeasureDone value s)

/-- Meaning of AUTONOMOUS_SEQUENCE_END (R234). -/
def execAutonomousSequenceEnd (s : State) : Host.Outcome State Fault Refusal :=
  .next (autonomousSequenceEnd s)

/-- Meaning of SAFETY_MONITOR_PUSH_END (R239). -/
def execSafetyMonitorPushEnd (s : State) : Host.Outcome State Fault Refusal :=
  .next (safetyMonitorPushEnd s)

/-- Meaning of STRONGMAN_LOGIC_POWER_LOSS (R238). -/
def execStrongmanLogicPowerLoss (s : State) : Host.Outcome State Fault Refusal :=
  .next (strongmanLogicPowerLoss s)

end Sys2Proof.Machine
end

