-- ==== Sys2Proof/Machine/Manager.lean ====
section
/-!
DEFINITION. The media manager (chapter "Zones, bands and media management", R245 to R278): zone-format commit, durable
points, Alteration, band reclaim, overwrites. Where the spec leaves a band to the media manager's choice, a free value
chooses among the bands that qualify (R58, R263, R267).
-/

namespace Sys2Proof.Machine

/-! ## Zone-format commit (R53 to R60, R277) -/

/-- Zone entries of a head that carry `VALID`, in the option area's record. -/
def State.validZones (s : State) (h : Nat) : List Nat := s.zonesOf h

/-- Every head of the build. -/
def State.allHeads (s : State) : List Nat := List.range (s.nact * s.nhpa)

/-- R35 holds. -/
def State.r35 (s : State) : Bool :=
  inR 480 720 s.fmtW && inR 1600 4096 s.fmtC && decide (s.fmtC * s.fmtW * 120 ≤ 300000000)

/-- `NZONES` of a head. -/
def State.nzones (s : State) (h : Nat) : Nat := s.fmtLe (0x14 + h * 0x210) 1

/-- The tracks of a head rise as R55 asks. -/
def State.tracksOk (s : State) (h : Nat) : Bool :=
  let st := (s.validZones h).map fun z => zeStart (s.zoneEnt h z)
  decide (s.maxTrk h ≤ 4194303) && ((st.zip (st.drop 1)).all fun p => decide (p.1 < p.2)) && st.all fun t => decide (t < s.maxTrk h)

/-- The fields of a zone entry are within R54. -/
def zeOk (e : Nat) : Bool := inR 500 6400 (zeRate0 e) && inR 2 8 (zeOcM e) && inR 1 8 (zeGuard e) && inR 0 5 (zeDcInit e)

/-- The conditions of FMT_COMMIT, in order of their codes; the computed ones are judged only on a record in range. -/
def State.fmtReasons (s : State) : List (Bool × Nat) :=
  let hs := s.allHeads
  let ents (h : Nat) : List Nat := (s.validZones h).map (s.zoneEnt h)
  let c1 := !s.r35
  let c3 := hs.any fun h => !inR 1 64 (s.nzones h) || decide ((s.validZones h).length ≠ s.nzones h)
  let c5 := hs.any fun h => !s.tracksOk h
  let cC := !(inR 1 4 s.fmtPc && inR 0 50 (s.fmtLe 7 1) && inR 0 4194303 s.fmtConv && hs.all fun h => (ents h).all zeOk)
  let ok := !(c1 || c3 || c5 || cC)
  [ (c1, 0x0B01),
    (decide (s.fmtW ≤ s.fmtSkew), 0x0B02),
    (c3, 0x0B03),
    (hs.any fun h => decide ((ents h).head?.map zeStart ≠ some 0), 0x0B04),
    (c5, 0x0B05),
    (ok && hs.any fun h => (ents h).any fun e => decide (255 < sectorsPerTrack s.fmtW s.fmtC (zeRate0 e) 0), 0x0B06),
    (ok && hs.any fun h => (ents h).any fun e => decide (sectorsPerTrack s.fmtW s.fmtC (zeRate0 e) 5 < 8 + zeOcM e), 0x0B07),
    (ok && hs.any fun h => decide (s.maxTrk h + 1 < s.fmtConv + s.fmtPc * s.convTracks (s.actOf h)), 0x0B08),
    (cC, 0x0B0C) ]

/-- The layout of the commit: the record in effect, the conventional region, the free pools (R57 to R60). Bands keep their
states when the record is the one they were laid out under. -/
def State.layOut (s : State) : State :=
  let rec_ := putBytes [] 0 (getBytes s.opt 0x1000 21136)
  let t := if rec_ = s.fmt then s else { s with fmt := rec_, bands := [], altered := [], weakSlots := [] }
  let t := t.forAll (List.range t.nact) fun a u => u.put (V.mmgDataHead a) (u.convTracks a)
  t.forAll (List.range t.nact) fun a u =>
    let hs := u.headsOf a
    let total := (hs.map u.bandCount).foldl (· + ·) 0
    let gone := (u.bands.filter fun e => match e.2 with
      | some b => decide (u.bandAct e.1 = a) && !(decide (b.st = .free) && !b.held)
      | none => false).length
    let held := (u.bands.filter fun e => match e.2 with
      | some b => decide (u.bandAct e.1 = a) && b.held
      | none => false).length
    u.puts [(R.MMG_POOL_FREE a, total - gone), (R.MMG_HELD_HELD a, held),
      (V.mmgSpare0 a, (hs.map fun h => u.spareBands (u.bandCount h)).foldl (· + ·) 0)]

/-- `MMG_CTL.FMT_COMMIT` 0→1. -/
def State.fmtCommit (s : State) : State × Nat :=
  s.enable R.MMG_CTL_FMT_COMMIT R.MMG_CHK_REASON s.fmtReasons fun t => t.layOut

/-- FMT_COMMIT. -/
def fmtCommitCmd (s : State) : State := s.fmtCommit.1

/-- Clearing FMT_COMMIT: refused with a general error while any namespace exists (R276). -/
def State.fmtUncommit (s : State) : State × Nat :=
  if s.nss.isEmpty then (s.put R.MMG_CTL_FMT_COMMIT 0, 0) else (s, 0x000A)

/-- The fields of `MMG_CFG` are within their ranges. -/
def State.mmgCfgOk (s : State) : Bool :=
  let d := s.get R.MMG_CFG_DUR_MS
  inR 1 200 (s.get R.MMG_CFG_RECL_SHARE) && (decide (d = 0) || inR 100 60000 d) && inR 1 50 (s.get R.MMG_CFG_SPARE_THR)

/-- `MMG_CTL.EN` 0→1: R277, then recovery under R258. What recovery leaves of the data was settled by the reset that lost
the rest; until I/O-ready it is shown as running (R486). -/
def State.mmgEnable (s : State) : State × Nat :=
  s.enable R.MMG_CTL_EN R.MMG_CHK_REASON
    [ (!s.on R.MMG_CTL_FMT_COMMIT, 0x0B09),
      ((List.range 4).any fun a => s.on (V.mmgSysBad a), 0x0B0A),
      (!s.mmgCfgOk, 0x0B0B) ]
    fun t => (t.putB R.MMG_STAT_REPLAY (!t.on R.RMC_STAT_IO_READY)).forAll (List.range 4) fun a u => u.refreshAct a 0 0

/-- MMG_ENABLE. -/
def mmgEnableCmd (s : State) : State := s.mmgEnable.1

/-- Clearing `MMG_CTL.EN`. -/
def State.mmgDisable (s : State) : State := s.puts [(R.MMG_CTL_EN, 0), (R.MMG_STAT_ACT_OK, 0), (R.MMG_STAT_REPLAY, 0)]

/-! ## Durable points (R254, R255) -/

/-- Actuators that hold data beyond their durable points. -/
def State.dirtyActs (s : State) : List Nat :=
  (List.range 4).filter fun a => s.kvLog.any (fun o => decide (o.act = a)) || s.vol.any fun e =>
    !((e.2.map (·.tail)).getD false) && decide (s.lbaAct (e.1 / 18446744073709551616) (e.1 % 18446744073709551616) = a)

/-- DURABLE_TIMER: `DUR_MS` elapses during write activity. -/
def durableTimer (s : State) : State :=
  if s.get R.MMG_CFG_DUR_MS = 0 ∨ !s.on R.MMG_CTL_EN then s
  else (s.put V.mmgDurMs (s.get V.msNow)).forAll s.dirtyActs fun a t => t.beginPoint a

/-! ## Bands that qualify -/

/-- A list by falling weight; equals keep their order. -/
def fallingBy (f : Nat → Nat) : List Nat → List Nat
  | [] => []
  | x :: l => (fallingBy f l).takeWhile (fun y => decide (f x < f y)) ++ x :: (fallingBy f l).dropWhile fun y => decide (f x < f y)

/-- Four bands of a class on an actuator that satisfy R58; none when there are not four. The heads with the most bands left are used,
so that zone after zone strands none it need not, a free value orders heads with equally many and chooses the bands. With `new` they
become addressable, and a head gives none of its spare bands (R59, R247). -/
def State.fourBands (s : State) (a dc : Nat) (new : Bool) : Option (List Nat) :=
  let may (h : Nat) : List Nat := (s.freeBands h dc).take (if new then s.addressable h else 1048576)
  let k := s.freeVal
  let turn := (s.headsOf a).drop (k % Nat.max 1 s.nhpa) ++ (s.headsOf a).take (k % Nat.max 1 s.nhpa)
  let hs := fallingBy (fun h => (may h).length) (turn.filter fun h => !(may h).isEmpty)
  if 4 ≤ s.nhpa then
    if hs.length < 4 then none
    else some ((hs.take 4).map fun h => (may h).getD (k % (may h).length) 0)
  else
    let all := hs.flatMap fun h => (may h).zipIdx.map fun p => (p.2, p.1)
    let byTurn := (List.range all.length).flatMap fun i => (all.filter fun p => decide (p.1 = i)).map (·.2)
    if byTurn.length < 4 then none else some (byTurn.take 4)

/-! ## Steps of a re-lay (R265) -/

/-- Fails a step of an operation: abandoned after the eighth time (R272). -/
def State.opFail (s : State) (o : MOp) : State :=
  if 8 ≤ o.fails + 1 then
    ((((s.setOp { o with fails := o.fails + 1 }).abandonOp o).evt R.MMG_EVT_RECL_FAIL).post 0x0B 0x14 error noInst
      [o.opid, o.typ, o.step + 1, o.cause]).reclaimNext o.act
  else s.setOp { o with fails := o.fails + 1 }

/-- The operation of a type on an actuator, one that has begun before one that waits. -/
def State.opOn (s : State) (a typ : Nat) : Option MOp :=
  let mine (o : MOp) : Bool := decide (o.act = a ∧ o.typ = typ) && !o.paused
  (s.mops.find? fun o => mine o && decide (o.step ≠ 0)).or (s.mops.find? mine)

/-- An actuator takes the device's own media operations: its port works (R99), and with `w` nothing holds writes (R109, R111). -/
def State.mediaMay (s : State) (a : Nat) (w : Bool) : Bool := !s.actDown a && !s.on (V.sptPortFail a) && !(w && s.wrHeld a)

/-- The write of track `t` of the tracks from a band's first on, at a class. -/
def State.layJob (s : State) (id dcls t : Nat) : Job :=
  let h := id / 1048576
  let e := s.zoneEnt h (s.band id).zone
  let k := Nat.max 1 (s.kOf e dcls)
  { s.bandJob .write id t with dcls := dcls, k := k, kd := k, count := k + zeOcM e }

/-- RELAY_STEP: verify (ALT/3), map (ALT/4) and release (ALT/END); `bad` names the new bands that fail verification, for which the
first data track of each was written with a pattern. The operation's `cause` is the old class. An actuator that is unavailable, or whose port or writes are held, pauses the
operation (R99, R111, R275). -/
def relayStep (a : Act) (bad : List Nat) (ok : Bool) (s : State) : State :=
  match s.opOn a 2 with
  | none => s
  | some o =>
    let e := s.zoneEnt (o.src / 1048576) (s.band o.src).zone
    let per := bandData (s.kOf e o.dcls) + zeGuard e
    if !s.mediaMay a true ∨ !s.on R.MMG_CTL_ALT_EN then s
    else if !ok then s.opFail o
    else if o.step = 1 then
      let o' := { o with step := 3, fails := 0, copied := ((bad.map fun i => 2 ^ i).foldl (· ||| ·) 0) }
      let t := s.forAll (List.range o.left) fun i t =>
        let j := t.layJob o.src o.dcls (per * i)
        t.putTrack a j (t.ownImage a j (t.band o.src).bseq)
      (t.setOp o').jrec o' 3
    else if o.step = 3 then
      let z := (s.band o.src).zone
      let first := (s.band o.src).first
      let t := s.forAll o.run.zipIdx fun p t =>
        let q := (t.band p.1).bseq
        if p.2 < o.left then
          t.setBand p.1 ⟨if bitOf o.copied p.2 then .defect else .free, z, o.dcls, first + per * p.2, 0, !bitOf o.copied p.2, q,
            if p.2 + 1 = o.left then o.nsid - per * o.left else 0⟩
        else t.setBand p.1 ⟨.retired, z, o.dcls, first, 0, false, q, 0⟩
      let o' := { o with step := 4, fails := 0 }
      ((t.countN R.MMG_CNT_DEFECT ((List.range o.left).filter (bitOf o.copied)).length).setOp o').jrec o' 4
    else
      let t := (s.jrec o 0xFF).endOp o
      let t := t.forAll (o.run.take o.left) fun i t => if (t.band i).st = .free then t.setBand i (t.freed i) else t
      ((((t.evt R.MMG_EVT_ALT_DONE).count R.MMG_CNT_ALT).post 0x0B 0x11 info noInst
        [o.src / 1048576, (t.band o.src).first, o.dst, o.left, o.dcls]).relayNext a).checkSpare

/-! ## Swaps and demands (R263, R264) -/

/-- Releases a band at its old class: held until a run can be re-laid (R263, R266). -/
def State.releaseOld (s : State) (id : Nat) : State := (s.setBand id { s.freed id with held := true }).tryRelay id

/-- Swaps the bands of an empty zone for four of its next class, or takes it Offline (R263, R264). -/
def State.swapZone (s : State) (nsid zi : Nat) : State :=
  let z := s.zone nsid zi
  match z.nextDc with
  | none => s
  | some dc =>
    let a := s.lbaAct nsid (zi * 262144)
    match s.fourBands a dc false with
    | some l =>
      let t := s.drew.forAll l fun id t => t.setBand id { t.band id with st := .assigned, done := 0 }
      let t := t.devZone nsid zi { z with bands := l, dcls := dc, nextDc := none, atRisk := false, risk := 0xFFFFFFFF, weak := false,
                                          altCnt := Nat.min 255 (z.altCnt + 1) }
      (t.forAll z.bands fun id t => t.releaseOld id).checkSpare
    | none =>
      let t := s.devZone nsid zi { z with st := zOff, atRisk := false, nextDc := none, risk := 0xFFFFFFFF, bands := [] }
      let t := t.forAll z.bands fun id t => t.releaseOld id
      ((t.evt R.MMG_EVT_OFFLINE).count R.MMG_CNT_OFFLINE).post 0x0B 0x12 warning noInst [nsid, zi, a]

/-- The marked zones of a namespace that have become Empty with it swap their bands as after a Zone Reset (R263, R273). -/
def State.swapMarked (s : State) (nsid : Nat) : State :=
  s.forAll ((s.zones.filter fun e => decide (e.1 / 4294967296 = nsid)).map fun e => e.1 % 4294967296) fun zi t =>
    if (t.zone nsid zi).st = zEmpty then t.swapZone nsid zi else t

/-- Zones of every zoned namespace. -/
def State.allZones (s : State) : List (Nat × Nat) :=
  s.nss.flatMap fun e => match e.2 with
    | some n => if n.csi = 2 then (List.range (n.nsze / 262144)).map fun i => (e.1, i) else []
    | none => []

/-- FREE bands of a recording zone of a head below a class. -/
def State.freeBelow (s : State) (h z dc : Nat) : List Nat :=
  (s.surface h).filter fun id => decide ((s.band id).st = .free ∧ (s.band id).zone = z ∧ (s.band id).dcls < dc)

/-- A demand is carried out: zones marked, empty ones swapped, FREE bands of the old class held, conventional bands queued for reclaim. -/
def State.demand (s : State) (d : Demand) : State :=
  let old := d.dcls - 1
  let k := d.head * 64 + d.zone
  let s := { s with altered := Tab.set 0 s.altered k (Nat.max (Tab.at 0 s.altered k) d.dcls) }
  let hit (id : Nat) (t : State) : Bool :=
    decide (id / 1048576 = d.head ∧ (t.band id).zone = d.zone ∧ (t.band id).dcls = old)
  let zs := s.allZones.filter fun p => (s.zone p.1 p.2).bands.any (fun id => hit id s) && decide ((s.zone p.1 p.2).st ≠ zOff)
  let t := s.forAll zs fun p t =>
    let z := t.zone p.1 p.2
    t.devZone p.1 p.2 { z with atRisk := true, nextDc := some d.dcls, risk := d.risk }
  let t := (t.evt R.MMG_EVT_AT_RISK).post 0x0B 0x10 warning noInst [d.head, d.zone, old, d.dcls, zs.length]
  let t := t.forAll zs fun p t => if (t.zone p.1 p.2).st = zEmpty then t.swapZone p.1 p.2 else t
  let t := t.forAll (t.freeBelow d.head d.zone d.dcls) fun id t => if (t.band id).held then t else t.freeBand id
  let conv := (t.bands.filter fun e => match e.2 with
    | some b => (decide (b.st = .full) || (decide (b.st = .assigned) && t.convBand e.1)) && hit e.1 t && !(t.allZones.any fun p => (t.zone p.1 p.2).bands.contains e.1)
    | none => false).map (·.1)
  (t.forAll conv fun id t => t.reclaim id 3 d.dcls).checkSpare

/-- ALTERATION_DEMAND: queued while `ALT_EN` is 0 (R266). -/
def alterationDemand (h : GHead) (z : RZone) (dc : Fin 6) (hours : BitVec 32) (s : State) : State :=
  let d : Demand := ⟨h.val, z.val, dc.val, hours.toNat⟩
  if s.on R.MMG_CTL_ALT_EN then s.demand d else { s with demands := s.demands ++ [d] }

/-- Setting `ALT_EN` carries out the demands that waited, and held bands are looked at again (R266). -/
def State.altResume (s : State) : State :=
  let ds := s.demands
  ({ s with demands := [] }.forAll ds fun d t => t.demand d).forAll (List.range 4) fun a t => t.relayNext a

/-! ## Band reclaim (R267) -/

/-- The values whose granules stand in a band, newest and durable, as place and length in granules, by place. -/
def State.bandValues (s : State) (nsid id : Nat) : List (Nat × Nat) :=
  let of (x : Option KvEnt) : Option (Nat × Nat) := match x.bind fun e => e.loc.map fun l => (l, ceilDiv e.slen 4096) with
    | some p => if p.1 / 65536 = id then some p else none
    | none => none
  ((s.kvDur.filterMap fun e => if e.1 / 2 ^ 128 = nsid then of e.2 else none) ++
    (s.kvLog.filterMap fun o => if o.nsid = nsid then of o.ent else none)).foldl (fun l p => if l.contains p then l
      else l.takeWhile (fun q => decide (q.1 < p.1)) ++ p :: l.dropWhile fun q => decide (q.1 < p.1)) []

/-- The values of a band as their copies stand in another, one behind the other: old place, new place, granules. -/
def kvMoves (dst : Nat) (l : List (Nat × Nat)) : List (Nat × Nat × Nat) :=
  (l.foldl (fun (r : Nat × List (Nat × Nat × Nat)) p => (r.1 + p.2, r.2 ++ [(p.1, dst * 65536 + r.1, p.2)])) (0, [])).2

/-- Where the granule of a place stands after moves. -/
def movedTo (m : List (Nat × Nat × Nat)) (l : Nat) : Nat :=
  match m.find? fun x => decide (x.1 ≤ l ∧ l < x.1 + x.2.2) with
  | some x => x.2.1 + (l - x.1)
  | none => l

/-- Step 4 for a band of a Key Value namespace: its values stand one behind the other in the copy, whose end goes on as the
namespace's log; granules short of a whole track stay staged (R267, R331, log entry 72). -/
def State.switchKv (s : State) (nsid src dst : Nat) : State :=
  match s.ns nsid with
  | none => s
  | some n =>
    let m := kvMoves dst (s.bandValues nsid src)
    let total := (m.map fun x => x.2.2).foldl (· + ·) 0
    let done := total / (8 * s.bandK dst)
    let mine (k : Nat) : Bool := decide (k / 18446744073709551616 = nsid ∧ k % 18446744073709551616 / 65536 = src)
    let gs := m.flatMap fun x => (List.range x.2.2).map fun i => (lbaKey nsid (x.1 + i), lbaKey nsid (x.2.1 + i))
    let kept (g : Nat × Nat) : Option Vol := match Tab.at none s.vol g.1 with
      | some v => some v
      | none => if g.2 % 65536 < 8 * s.bandK dst * done then none else some ⟨Tab.at 0 s.dur g.1, 0, false, true, false⟩
    let ent (x : KvEnt) : KvEnt := { x with loc := x.loc.map (movedTo m) }
    let t : State :=
      { s with dur := gs.foldl (fun d g => Tab.set 0 d g.2 (Tab.at 0 s.dur g.1)) (s.dur.filter fun e => !mine e.1),
               vol := gs.foldl (fun d g => match kept g with
                 | some v => Tab.set none d g.2 (some v)
                 | none => d) (s.vol.filter fun e => !mine e.1),
               lost := s.lost.map fun k => if mine k then lbaKey nsid (movedTo m (k % 18446744073709551616)) else k,
               kvDur := s.kvDur.map (fun e => if e.1 / 2 ^ 128 = nsid then (e.1, e.2.map ent) else e),
               kvLog := s.kvLog.map (fun o => if o.nsid = nsid then { o with ent := o.ent.map ent } else o),
               stripes := if n.frag then s.stripes.map fun x => { x with frags := x.frags.map fun f => { f with loc := f.loc.map (movedTo m) } }
                 else s.stripes,
               nss := Tab.set none s.nss nsid (some { n with
                 bands := (n.bands.map fun b => if b = src then dst else b).filter fun b => decide (b ≠ dst ∨ total ≠ 0),
                 klog := (if total = 0 ∨ 65536 ≤ total then [] else [(s.bandAct dst, dst, total)]) ++ n.klog.filter fun e => decide (e.2.1 ≠ src) }) }
    (t.setJugq (s.bandAct src) ((s.jugq (s.bandAct src)).filter fun j =>
      !(decide (j.kind = .write) && mine (lbaKey j.nsid j.lba)))).setBand dst { s.band dst with
        done := done, st := if total = 0 then .free else if 65536 ≤ total then .full else if done = 0 then .assigned else .open_ }

/-- The copy of a band takes its place in every zone and namespace that names it (step 4); the weak track is gone with the source, and
`RELOC` falls with the last reclaim of the zone's bands (R250). -/
def State.switchBand (s : State) (src dst : Nat) : State :=
  let s := s.forAll (s.nss.filterMap fun e => e.2.bind fun n => if n.csi = 1 ∧ n.bands.contains src = true then some e.1 else none)
    fun n t => t.switchKv n src dst
  let t := s.forAll (s.allZones.filter fun p => (s.zone p.1 p.2).bands.contains src) fun p t =>
    let z := t.zone p.1 p.2
    let bs := z.bands.map fun b => if b = src then dst else b
    t.devZone p.1 p.2 { z with bands := bs, reloc := t.reclZone { z with bands := bs }, weak := false }
  { t with weakSlots := t.weakSlots.filter fun x => decide (x / 256 ≠ src),
           nss := t.nss.map fun e => (e.1, e.2.map fun n =>
             { n with bands := n.bands.map fun b => if b = src then dst else b }) }

/-- A new target for a reclaim whose target failed verification. -/
def State.retarget (s : State) (o : MOp) : State :=
  let t := (s.setBand o.dst { s.band o.dst with st := .defect }).count R.MMG_CNT_DEFECT
  ((t.setOp { o with step := 0, copied := 0, fails := 0 }).reclaimNext o.act).checkSpare

/-- A target that cannot be written any more returns to the pool, and the copy restarts at step 1 with a new one (R275). -/
def State.dropTarget (s : State) (o : MOp) : State :=
  ((s.freeBand o.dst).setOp { o with step := 0, copied := 0, fails := 0 }).reclaimNext o.act

/-- The long sectors a band holds: those of the tracks written to it, 8,192 at most (R50, R56). -/
def State.heldSecs (s : State) (id : Nat) : Nat :=
  Nat.min 8192 (((List.range (s.band id).done).map fun t => (s.bandJob .read id t).kd).foldl (· + ·) 0)

/-- What a copy of a band comes to: the tracks written, and the state of the target. The slots of a conventional band are copied whole,
written or not (R251, R267); an OPEN band's data short of a whole track goes on as a landed tail (log entry 72). -/
def State.copyEnd (s : State) (src dst : Nat) : Nat × BandSt :=
  let k := s.bandK dst
  let n := s.heldSecs src
  if s.convBand src then (bandData k, .full)
  else if (s.band src).st = .full then (ceilDiv n k, .full)
  else (n / k, if n / k = 0 then .assigned else .open_)

/-- Target tracks from `lo` to `hi` are written in order, each with the long sectors of the source that fall to it (R267). -/
def State.copyTracks (s : State) (src dst lo hi : Nat) : State :=
  s.forAll ((List.range hi).drop lo) fun i t =>
    let j := { t.layJob dst (t.band dst).dcls i with nlb := 0 }
    let secs := (List.range j.k).map fun q => if 8 * (i * j.k + q) < 65536 then t.bandBlock src (8 * (i * j.k + q)) else none
    t.putTrack (t.bandAct dst) j (t.trackImage (t.bandAct dst) j (t.nextBseq dst) secs)

/-- Data of an OPEN band that its copy's whole tracks do not hold stands in staging again, as covered data (R254, R267). -/
def State.restage (s : State) (id lo hi : Nat) : State :=
  s.forAll ((List.range (8 * hi)).drop (8 * lo)) fun off t => match t.bandBlock id off with
    | some x =>
      if (Tab.at none t.vol (lbaKey x.1 x.2)).isSome then t
      else { t with vol := Tab.set none t.vol (lbaKey x.1 x.2) (some ⟨Tab.at 0 t.dur (lbaKey x.1 x.2), 0, false, true, false⟩) }
    | none => t

/-- The band of a Key Value namespace, whose copy holds its values one behind the other. -/
def State.kvBand (s : State) (id : Nat) : Bool := s.nss.any fun e => match e.2 with
  | some n => decide (n.csi = 1) && n.bands.contains id
  | none => false

/-- The tracks of a Key Value band that has taken another's place stand on the media (R41 to R50). -/
def State.copyKv (s : State) (id : Nat) : State :=
  s.forAll (List.range (s.band id).done) fun i t =>
    let j := t.layJob id (t.band id).dcls i
    t.putTrack (t.bandAct id) j (t.trackImage (t.bandAct id) j (t.band id).bseq (t.bandSecs id i))

/-- A band belongs to a zone or a namespace. -/
def State.inUse (s : State) (id : Nat) : Bool := !(s.zonesOfBand id).isEmpty || s.convBand id || s.kvBand id

/-- Step 4: the target takes the source's place, with one map-log entry; run again, it changes nothing (R267). -/
def State.switchOp (s : State) (o : MOp) : State :=
  if !s.inUse o.src then s else
  let e := s.copyEnd o.src o.dst
  let n := s.heldSecs o.src
  let kv := s.kvBand o.src
  let t := s.setBand o.dst { s.band o.dst with st := e.2, done := e.1 }
  let t := (t.cleanSwitch o).switchBand o.src o.dst
  let t := if kv then t.copyKv o.dst else t.when (decide (e.2 ≠ .full)) fun u => u.restage o.dst (e.1 * u.bandK o.dst) n
  ((t.requeue o.act o.dst).planAgain o.act).mapLog o.act

/-- Band reclaim may take media time: within the share of R267, or with no host work queued; cleaning only once the cache is more than
90 % full (R252, R267). -/
def State.reclaimTime (s : State) (a : Nat) (o : MOp) (share : Bool) : Bool :=
  share || ((s.jugq a).isEmpty && (decide (o.cause ≠ 4) || decide (9 * s.cacheTracks a < 10 * (s.clog a).length)))

/-- RECLAIM_STEP: copy in runs of 16 tracks, verify, switch, release; `share` tells that the actuator's share has time left. The
operation waits while its actuator is unavailable or its port or writes are held (R99, R111, R275). -/
def reclaimStep (a : Act) (ok share : Bool) (s : State) : State :=
  match s.opOn a 1 with
  | none => s
  | some o =>
    let total := (s.copyEnd o.src o.dst).1
    if !s.mediaMay a (decide (o.step ≤ 2)) ∨ !s.on R.MMG_CTL_RECL_EN ∨ !s.reclMay o ∨ !s.reclaimTime a o share then s
    else if o.step = 0 then s.reclaimNext a
    else if o.step ≤ 3 ∧ s.headNoWr a (s.localHead (o.dst / 1048576)) then s.dropTarget o
    else if !ok then (if o.step = 2 ∧ total ≤ o.copied then s.retarget o else s.opFail o)
    else if o.step = 1 ∨ (o.step = 2 ∧ o.copied < total) then
      let o' := { o with step := 2, copied := Nat.min total (o.copied + 16), fails := 0 }
      let t := if s.kvBand o.src then s else s.copyTracks o.src o.dst o.copied o'.copied
      (t.setOp o').jrec o' 2
    else if o.step = 2 then
      let o' := { o with step := 3, fails := 0 }
      (s.setOp o').jrec o' 3
    else if o.step = 3 then
      let o' := { o with step := 4, fails := 0 }
      ((s.switchOp o).setOp o').jrec o' 4
    else
      let t := ((s.jrec o 0xFF).endOp o).releaseSrc o
      let t := if t.convBand o.dst ∧ (t.band o.dst).dcls < t.areaClass o.dst then t.reclaim o.dst 3 (t.areaClass o.dst) else t
      let began := ((s.journal.find? fun r => decide (r.opid = o.opid)).map (·.opsec)).getD s.opsec
      (((((t.evt R.MMG_EVT_RECL_DONE).count R.MMG_CNT_RECL).post 0x0B 0x13 info noInst
        [o.opid, o.src, o.dst, o.cause, s.opsec - began]).reclaimNext a).clean a).checkSpare

/-! ## Overwrites (R273, R274) -/

/-- The overwrite of a namespace, or of the whole media (`nsid` 0), has ended on every actuator. -/
def State.overwriteDone (s : State) (nsid : Nat) : State :=
  if s.mops.any fun o => decide (o.typ = 3 ∧ o.nsid = nsid) then s
  else if nsid = 0 then
    (if s.get V.sanState = 1 then ((s.forAll (List.range s.nact) fun a t => (t.checkpoint a).mapLog a).forAll (s.nss.map (·.1)) fun n t => t.swapMarked n).put V.sanState 2
     else s)
  else
    let t := match s.ns nsid with
      | some n => (s.setNs nsid (some { n with erase := false })).swapMarked nsid
      | none => s
    -- a Format NVM waits for the overwrite of every namespace it named
    t.forAll (t.cmds.filter fun c => c.ents.any (fun e => decide (e.nsid = nsid)) && decide (c.parts ≠ 0)) fun c u =>
      u.cmdPart c.no stOk

/-- The heads an item of an overwrite lies on: of a band, or of a conventional track. -/
def State.unitHead (s : State) (u : Nat × Nat) : Nat :=
  if u.1 = 0 then s.localHead (u.2 / 1048576) else (s.regionTrack u.2).1

/-- Writes an item of an overwrite whole with the fill pattern: every data track of a band at its class, or a conventional track, where
long sectors of other namespaces in a cache track are kept (R273, R274, log entry 56). -/
def State.fillUnit (s : State) (a : Nat) (u : Nat × Nat) : State :=
  if u.1 = 0 then
    s.forAll (List.range (bandData (s.bandK u.2))) fun i t =>
      let j := t.layJob u.2 (t.band u.2).dcls i
      t.putTrack a j (t.trackImage a j (t.band u.2).bseq [])
  else
    let j := s.convJob a (s.regionTrack u.2) (u.2 - s.ckptTracks a)
    let secs := if u.2 < s.ckptTracks a then [] else
      (((s.clog a).find? fun t => decide (t.st ≠ 0 ∧ t.pos = u.2 - s.ckptTracks a)).map fun t => t.secs.map some).getD []
    s.putTrack a j (s.trackImage a j 0 secs)

/-- OVERWRITE_STEP: 16 bands or conventional tracks more, with a SAN record; a band that has left its namespace returns to the free pool (R273), and a track that cannot be
written fails a sanitize (R274). The
overwrite of a namespace takes the share of R267 while host work is queued (`share`: there is time left), and waits while its
actuator is unavailable; a port or writes that are held let either wait (R99, R109, R111). -/
def overwriteStep (a : Act) (ok share : Bool) (s : State) : State :=
  match s.opOn a 3 with
  | none => s
  | some o =>
    let now := (o.todo.drop o.copied).take 16
    let cannot := !ok || s.actDown a || now.any fun u => bitOf (s.get (R.SPT_HDWP_WP a)) (s.unitHead u)
    if o.nsid = 0 ∧ cannot then
      { s with mops := s.mops.filter fun m => decide (¬(m.typ = 3 ∧ m.nsid = 0)) }.put V.sanState 3
    else if !s.mediaMay a true ∨ (o.nsid ≠ 0 ∧ !share ∧ !(s.jugq a).isEmpty) then s
    else if cannot then s.opFail o
    else
      let t := s.forAll now fun u t => t.fillUnit a u
      let t := if o.nsid = 0 then t else t.forAll now fun u t => if u.1 = 0 ∧ !t.inUse u.2 then t.freeBand u.2 else t
      let o' := { o with copied := o.copied + now.length, left := o.left - now.length, step := o.step + 1, fails := 0 }
      if o.todo.length ≤ o'.copied then ((t.jrec o' 0xFF).endOp o').overwriteDone o.nsid
      else (t.setOp o').jrec o' (o'.step % 0xFE)

/-! ## Resumption (R271, R272) -/

/-- The newest good record of an operation decides where it goes on (R271, R272). -/
def State.fromRecord (s : State) (o : MOp) : Option MOp :=
  (s.journal.filter fun r => decide (r.opid = o.opid)).getLast?.map fun r =>
    { o with step := r.step, src := r.param.getD 0 o.src, dst := r.param.getD 1 o.dst, dcls := r.param.getD 2 o.dcls,
             copied := r.param.getD 3 o.copied, cause := r.param.getD 4 o.cause, left := r.param.getD 5 o.left }

/-- An operation is set back to its newest good record. Without any it has not begun: a re-lay is dropped, a reclaim waits again, its
target free, an overwrite starts anew (R269, R272). -/
def State.setBack (s : State) (o : MOp) : State :=
  match s.fromRecord o with
  | some o' => s.setOp o'
  | none =>
    if o.typ = 2 then (s.endOp o).unhold o
    else if o.typ = 3 then s.setOp { o with step := 0, copied := 0, left := o.todo.length, fails := 0 }
    else if o.step = 0 then s
    else ((s.freeBand o.dst).setOp { o with step := 0, copied := 0, fails := 0 }).showOps o.act

/-- The scan of the journal at recovery: a record whose page was not programmed to its end does not exist (R258, R269). -/
def State.scanJournal (s : State) : State :=
  let t := { s with journal := s.journal.filter s.jThere }
  t.forAll t.mops fun o u => u.setBack o

/-- At I/O-ready the operations without an end resume. -/
def State.resumeAll (s : State) : State :=
  ({ s with mops := s.mops.map fun (m : MOp) => { m with paused := false } } : State).forAll (List.range 4) fun a t => t.resumeOps a

/-- The scan of the journal finds a record that cannot be read, or that disagrees with another of its operation: the error is
shown and recorded, and the operation resumes from its newest good record (R271). -/
def State.journalError (s : State) (jseq : Nat) : State :=
  match s.journal.find? fun r => decide (r.jseq = jseq) with
  | none => s
  | some r =>
    let t := { s with journal := s.journal.filter fun x => decide (x.jseq ≠ jseq) }
    let t := (t.evt R.MMG_EVT_JOURNAL_ERR).post 0x0B 0x18 error noInst [jseq % 32768 / 256, jseq]
    match t.mops.find? fun o => decide (o.opid = r.opid) with
    | none => t
    | some o => t.setBack o

/-! ## Commands -/

/-- Meaning of MMG_ENABLE (R277). -/
def execMmgEnable (s : State) : Host.Outcome State Fault Refusal :=
  .next (mmgEnableCmd s)

/-- Meaning of FMT_COMMIT (R55). -/
def execFmtCommit (s : State) : Host.Outcome State Fault Refusal :=
  .next (fmtCommitCmd s)

/-- Meaning of DURABLE_TIMER (R255). -/
def execDurableTimer (s : State) : Host.Outcome State Fault Refusal :=
  .next (durableTimer s)

/-- Meaning of ALTERATION_DEMAND (R263). -/
def execAlterationDemand (h : GHead) (z : RZone) (dc : Fin 6) (hours : BitVec 32) (s : State) : Host.Outcome State Fault Refusal :=
  .next (alterationDemand h z dc hours s)

/-- Meaning of RELAY_STEP (R265). -/
def execRelayStep (a : Act) (bad : List Nat) (ok : Bool) (s : State) : Host.Outcome State Fault Refusal :=
  .next (relayStep a bad ok s)

/-- Meaning of RECLAIM_STEP (R267). -/
def execReclaimStep (a : Act) (ok share : Bool) (s : State) : Host.Outcome State Fault Refusal :=
  .next (reclaimStep a ok share s)

/-- Meaning of OVERWRITE_STEP (R273). -/
def execOverwriteStep (a : Act) (ok share : Bool) (s : State) : Host.Outcome State Fault Refusal :=
  .next (overwriteStep a ok share s)

end Sys2Proof.Machine
end

