-- ==== Sys2Proof/Machine/Flash.lean ====
section
/-!
DEFINITION. Wardrobe flash, the option area, the firmware slots and Safety Net (chapter "Wardrobe flash, firmware slots and
Safety Net", R407 to R427).
-/

namespace Sys2Proof.Machine

/-! ## Requests (R409 to R412) -/

/-- FLASH_READ; without its supply the die answers nothing. `ran` is how long the executing operation has run since its last resume, in µs. -/
def flashRead (addr : BitVec 32) (n : BitVec 16) (ran : Nat) (s : State) : Host.Outcome State Fault Refusal :=
  let a := addr.toNat
  let b := a / 67108864
  if flashSize < a + n.toNat ∨ flashSize ≤ a then .fault .noSuchFlash
  else if !s.flashOn then .next { s with fread := [] }
  else match s.bankOps b with
    | [] => .next (s.serveRead a n.toNat)
    | o :: _ =>
      if o.susp then .next (s.serveRead a n.toNat)
      else if s.maySuspend ran then .next (((s.suspendOp b).serveRead a n.toNat).resumeOp b)
      else .next (s.waitFor b (.read a n.toNat))

/-- FLASH_PROGRAM of a page or part of a page. -/
def flashProgram (addr : BitVec 32) (data : List Byte) (ran : Nat) (s : State) : Host.Outcome State Fault Refusal :=
  if flashSize ≤ addr.toNat then .fault .noSuchFlash
  else if !s.flashOn then .next s
  else .next (s.reqProg addr.toNat (data.take (256 - addr.toNat % 256)) ran)

/-- FLASH_ERASE of a block. -/
def flashErase (blk : BitVec 16) (s : State) : Host.Outcome State Fault Refusal :=
  let g := blk.toNat
  if 4096 ≤ g then .fault .noSuchFlash
  else if !s.flashOn then .next s
  else .next (s.reqErase g)

/-- Slot a byte address lies in. -/
def slotOfAddr (a : Nat) : Option Nat :=
  if 67108864 ≤ a ∧ a < 67108864 + 50331648 then some 0 else if 134217728 ≤ a ∧ a < 134217728 + 50331648 then some 1 else none

/-- A page of a download has reached flash; with the last one the slot shows WRITTEN (R420). -/
def State.fwPage (s : State) (a : Nat) : State :=
  let l := s.fwPend.filter fun p => decide (p ≠ a / 256)
  if l = s.fwPend then s
  else
    let t := { s with fwPend := l }
    match slotOfAddr a with
    | some k => if l = [] ∧ t.get (V.fwSlotSt k) = 1 ∧ t.on V.fwOpen then t.put (V.fwSlotSt k) 2 else t
    | none => t

/-- The programs and erases of a slot that wait for its bank are given up. -/
def State.fwDrop (s : State) (k : Nat) : State :=
  s.setWait (k + 1) ((s.bankWait (k + 1)).filter fun r => match r with
    | .read _ _ => true
    | .prog a _ => decide (slotOfAddr a ≠ some k)
    | .erase g => decide (slotOfAddr (g * 65536) ≠ some k))

/-- A download failed in flash: the slot is FAILED and the session ends (R420). -/
def State.fwFail (s : State) (a : Nat) : State :=
  match slotOfAddr a with
  | some k => if s.get (V.fwSlotSt k) = 1 then { s.fwDrop k with fwPend := [] }.puts [(V.fwSlotSt k, 3), (V.fwOpen, 0)] else s
  | none => s

/-- FLASH_PROGRAM_DONE: the executing program of a bank ends. -/
def flashProgramDone (b : Fin 4) (ok : Bool) (s : State) : State :=
  match s.bankOps b with
  | o :: l =>
    if o.erase ∨ o.susp then s
    else if b = 3 ∧ inRing o.blk then s.ringProgEnd o ok
    else
      let t := (if ok then (s.progNow o.addr o.data).fwPage o.addr
        else ((s.progCut o.addr o.data).flashFailed false o.blk).fwFail o.addr).setOps b l
      t.bankNext b
  | [] => s

/-- FLASH_ERASE_DONE: the executing erase of a bank ends; one that fails leaves its block erase-incomplete (R408). -/
def flashEraseDone (b : Fin 4) (ok : Bool) (s : State) : State :=
  match s.bankOps b with
  | o :: l =>
    if !o.erase ∨ o.susp then s
    else if b = 3 ∧ inRing o.blk then s.ringEraseEnd o ok
    else
      let t := (if ok then s.eraseNow o.blk
        else ((s.setBlk o.blk ⟨(s.blkRec o.blk).erases + 1, true⟩).flashFailed true o.blk).fwFail o.addr).setOps b l
      t.bankNext b
  | [] => s

/-- FLASH_SUSPEND_DUE: the executing operation has run for `MIN_RUN_US`, and the oldest waiting request suspends it. -/
def flashSuspendDue (b : Fin 4) (s : State) : State :=
  match s.bankOps b, s.bankWait b with
  | o :: _, r :: l =>
    if o.susp ∨ !s.on R.WDB_CTL_AUTO_SUSP then s
    else match r with
      | .read a n => (((s.setWait b l).suspendOp b).serveRead a n).resumeOp b
      | .prog a d => if o.erase ∧ o.blk ≠ a / 65536 then ((s.setWait b l).suspendOp b).startProg a d else s
      | .erase _ => s
  | _, _ => s

/-- Writes `HOLD`: a held bank's operation is suspended, a released bank's resumes (R411). -/
def State.setHold (s : State) (m : Nat) : State :=
  let old := s.get R.WDB_CTL_HOLD
  ((s.put R.WDB_CTL_HOLD m).forAll (List.range 4) fun b t =>
    if bitOf m b && !bitOf old b then t.suspendOp b
    else if !bitOf m b && bitOf old b then t.bankNext b
    else t) |>.showPbl

/-- WDB_HOLD. -/
def wdbHold (m : BitVec 4) (s : State) : State := s.setHold m.toNat

/-- Every operation is cut short, by an abandon or by a reset (R408, R422): a program leaves its page undefined, an erase
its block erase-incomplete; nothing waits any more. -/
def State.flashCut (s : State) : State :=
  let ops := (List.range 4).flatMap fun b => s.bankOps b
  let t := s.forAll ops fun o t =>
    if o.erase then t
    else
      let u := t.progCut o.addr o.data
      if !inRing o.blk then u else if s.ringPage o = 0 then u.ringSpoilt o else u.ringMissed (s.ringPage o)
  { t with fops := [], fwait := [], fread := [] }

/-! ## The option area (R413 to R416) -/

/-- Byte address of an option-area copy. -/
def optAddr (c : Nat) : Nat := (2 + c) * 65536

/-- `OMAGIC` of a copy is correct. -/
def State.optMagic (s : State) (c : Nat) : Bool := decide (s.fle (optAddr c) 4 = 0x4154504F)

/-- A copy is valid (R413). -/
def State.optCopyOk (s : State) (c : Nat) : Bool :=
  !(s.blkRec (2 + c)).bad && s.optMagic c && decide (s.fle (optAddr c + 4) 2 = 1) && crcOk (s.fbytes (optAddr c) 65536)

/-- A 32-bit generation is newer, wrap-aware. -/
def newer32 (a b : Nat) : Bool := decide (0 < (a + 4294967296 - b) % 4294967296 ∧ (a + 4294967296 - b) % 4294967296 < 2147483648)

/-- The copy boot ROM loads (R415). -/
def State.optPick (s : State) : Option Nat :=
  if s.optCopyOk 0 then
    if s.optCopyOk 1 && newer32 (s.fle (optAddr 1 + 8) 4) (s.fle (optAddr 0 + 8) 4) then some 1 else some 0
  else if s.optCopyOk 1 then some 1 else none

/-- A byte string as a table from offset 0. -/
def imgTab (bs : List Byte) : List (Nat × Byte) := putBytes [] 0 bs

/-- The image in force as bytes. -/
def State.optImage (s : State) : List Byte := getBytes s.opt 0 65536

/-- Boot ROM loads the option area (R415). -/
def State.loadOpt (s : State) : State :=
  match s.optPick with
  | some c =>
    let same := s.optCopyOk (1 - c) && decide (s.fle (optAddr (1 - c) + 8) 4 = s.fle (optAddr c + 8) 4)
    { s with opt := imgTab (s.fbytes (optAddr c) 65536) }.puts [(V.optValid, 1), (V.optCopy, c), (V.optRepair, b2n !same)]
  | none =>
    ({ s with opt := [] }.puts [(V.optValid, 0), (V.optCopy, 0), (V.optRepair, 0)]).post 0x14 0x13 error noInst
      [s.fle (optAddr 0 + 0xFFFC) 4, s.fle (optAddr 1 + 0xFFFC) 4]

/-- The spindle record in Carousel's window follows the option area (R221). -/
def State.refreshSpn (s : State) : State := s.putWin 0x10 0 0x100 (getBytes s.opt 0x100 192)

/-- Writes a copy: an erase and 256 page programs, which verify or leave the copy undefined within the bounds of a program
(R408, R409). -/
def State.optWriteCopy (s : State) (c : Nat) (img : List Byte) (ok : Bool) : State :=
  if ok then (s.eraseNow (2 + c)).progNow (optAddr c) img
  else ((s.eraseNow (2 + c)).progCut (optAddr c) img).flashFailed false (2 + c)

/-- Resident firmware rewrites the other copy after start-up (R415). -/
def State.optRepairDo (s : State) : State :=
  if s.on V.optRepair then
    let c := 1 - s.get V.optCopy
    let g := s.fle (optAddr c + 8) 4
    ((s.optWriteCopy c s.optImage true).put V.optRepair 0).post 0x14 0x12 warning noInst [c, g, s.optLe 8 4]
  else s

/-- The copy boot ROM forms images from while no valid option area is in force: the newer one with a correct `OMAGIC`
(R503). -/
def State.optBase (s : State) : Option Nat :=
  if s.optMagic 0 && s.optMagic 1 then
    some (if newer32 (s.fle (optAddr 1 + 8) 4) (s.fle (optAddr 0 + 8) 4) then 1 else 0)
  else if s.optMagic 0 then some 0
  else if s.optMagic 1 then some 1
  else none

/-- The bytes of the option area in force, or of that copy, or 0xFF where there is none (R503). -/
def State.optBytes (s : State) : List Byte :=
  if s.on V.optValid then s.optImage
  else match s.optBase with
    | some c => s.fbytes (optAddr c) 65536
    | none => List.replicate 65536 0xFF

/-- A new image of a generation: bytes replaced, header and CRC written by the device (R416). -/
def optForm (base : List Byte) (gen off : Nat) (data : List Byte) : List Byte :=
  let body := (base.take off ++ data ++ base.drop (off + data.length)).take 65532
  let hdr := leBytes 4 0x4154504F ++ leBytes 2 1 ++ leBytes 2 0 ++ leBytes 4 gen ++ List.replicate 52 0
  let img := hdr ++ body.drop 64
  img ++ leBytes 4 (crc32c img)

/-- An image is in force, and a copy holds it (R416). -/
def State.optInForce (s : State) (c : Nat) (img : List Byte) : State :=
  { s with opt := imgTab img }.puts [(V.optValid, 1), (V.optCopy, c)]

/-- `OPTION_WRITE`: both copies in turn; `okA` and `okB` tell whether the first and the second copy verified. The new image
is in force once the first has. -/
def State.optWrite (s : State) (off : Nat) (data : List Byte) (ok1 ok2 : Bool) : State × Nat :=
  if off < 0x40 ∨ 0xFFFC < off + data.length ∨ data = [] then (s, 0x0009)
  else
    let rom := !s.on V.optValid
    let first := if rom then (match s.optBase with
      | some c => 1 - c
      | none => 0) else 1 - s.get V.optCopy
    let gen := if rom then 1 else (leNat ((s.optImage.drop 8).take 4) + 1) % 4294967296
    let img := optForm s.optBytes gen off data
    let t := s.optWriteCopy first img ok1
    if !ok1 then (t.put V.optRepair (b2n !rom), 0x0012)
    else
      let u := (t.optInForce first img).optWriteCopy (1 - first) img ok2
      let u := if off < 0x1C0 ∧ 0x100 < off + data.length then u.refreshSpn else u
      if ok2 then (u.put V.optRepair 0, 0) else (u.put V.optRepair 1, 0x0012)

/-! ## Selector logs (R419) -/

/-- Words of a log up to the last that is not 0xFFFF_FFFF. -/
def State.logUsed (s : State) (l : Nat) : Nat :=
  match (s.flash.filter fun e => decide (e.1 / 65536 = l)).getLast? with
  | some e => e.1 % 65536 / 4 + 1
  | none => 0

/-- Epoch and code of a valid selector word. -/
def selOf (w : Nat) : Option (Nat × Nat) :=
  let e := w / 16777216
  let sc := w % 256
  if w / 65536 % 256 = 255 - e ∧ w / 256 % 256 = 255 - sc ∧ sc < 4 then some (e, sc) else none

/-- Last valid word of a log that is not erase-incomplete. -/
def State.logLast (s : State) (l : Nat) : Option (Nat × Nat) :=
  if (s.blkRec l).bad then none
  else (List.range (s.logUsed l)).reverse.findSome? fun i => selOf (s.fle (l * 65536 + 4 * i) 4)

/-- The log that decides, with its newest valid word. -/
def State.selNewest (s : State) : Option (Nat × Nat × Nat) :=
  match s.logLast 0, s.logLast 1 with
  | some a, some b => if 0 < (b.1 + 256 - a.1) % 256 ∧ (b.1 + 256 - a.1) % 256 < 128 then some (1, b) else some (0, a)
  | some a, none => some (0, a)
  | none, some b => some (1, b)
  | none, none => none

/-- The code in force: slot A when no word is valid. -/
def State.selCode (s : State) : Nat := match s.selNewest with
  | some x => x.2.2
  | none => 0

/-- A selector word. -/
def selWord (e code : Nat) : Nat := e * 16777216 + (255 - e) * 65536 + (255 - code) * 256 + code

/-- Programs a selector word, which verifies or not; its place is used either way (R408, R409, R419). -/
def State.progSel (s : State) (code : Nat) (ok : Bool) : State :=
  let prog (t : State) (a : Nat) (w : List Byte) : State :=
    if ok then t.progNow a w else (t.progCut a w).flashFailed false (a / 65536)
  let p := match s.selNewest with
    | some x => (x.1, x.2.1)
    | none => (0, 0)
  let used := s.logUsed p.1
  if used < 16384 then prog s (p.1 * 65536 + 4 * used) (leBytes 4 (selWord p.2 code))
  else prog (s.eraseNow (1 - p.1)) ((1 - p.1) * 65536) (leBytes 4 (selWord ((p.2 + 1) % 256) code))

/-! ## Slots (R417, R418, R420, R421) -/

/-- What a slot header fails, by the codes of `V.fwCause`: 0 when it passes the checks of R420. -/
def hdrCause (h : List Byte) : Nat :=
  let f (o n : Nat) : Nat := leNat ((h.drop o).take n)
  let nums (o n : Nat) : List Nat := ((h.drop o).take n).map (·.toNat)
  if f 0 4 ≠ 0x57464C55 ∨ f 8 4 < 256 ∨ 46137344 < f 8 4 ∨ f 8 4 % 256 ≠ 0 then 1
  else if f 4 1 ≠ Config.partClass then 2
  else if !Config.ecdsaVerify (Config.lamcelKey Config.partClass) (Config.sha384 (nums 0 0x50)) (nums 0x50 96) then 3
  else 0

/-- What a slot fails at authentication (R418). -/
def State.slotCause (s : State) (k : Nat) : Nat :=
  let h := s.fbytes (slotAddr k) 0x100
  let c := hdrCause h
  if c ≠ 0 then c
  else if Config.sha384 ((s.fbytes (slotAddr k + 0x1000) (leNat ((h.drop 8).take 4))).map (·.toNat)) =
      ((h.drop 0x20).take 48).map (·.toNat) then 0
  else 4

/-- `SVN` of a slot. -/
def State.slotSvn (s : State) (k : Nat) : Nat := s.fle (slotAddr k + 0xC) 4

/-- `FVER` of a slot. -/
def State.slotVer (s : State) (k : Nat) : List Byte := s.fbytes (slotAddr k + 0x10) 16

/-- The inactive slot (R420). -/
def State.inactive (s : State) : Nat := 1 - s.get V.fwSlot

/-- Resident firmware's background write of a download (R420): each block is erased before the session's first program into
it, and each page programmed, as the slot's bank comes to it. -/
def State.fwBack (s : State) (k a : Nat) (data : List Byte) : State :=
  let reqs (g : Nat) (d : List (Nat × List Byte)) : List FlashReq :=
    (if s.fwErased.contains g then [] else [.erase g]) ++ d.map fun p => .prog p.1 p.2
  let pages := (List.range (ceilDiv data.length 256)).map fun i => (a + 256 * i, (data.drop (256 * i)).take 256)
  let blks := (pages.map fun p => p.1 / 65536).eraseDups
  let new := blks.flatMap fun g => reqs g (pages.filter fun p => decide (p.1 / 65536 = g))
  let t := { s with fwErased := s.fwErased ++ blks.filter fun g => !s.fwErased.contains g }
  (t.setWait (k + 1) (t.bankWait (k + 1) ++ new)).pump ((t.bankWait (k + 1)).length + 1) (k + 1)

/-- Takes the pages of a download request into slot `k` at byte offset `ofs` (R420, R503). -/
def State.fwTake (s : State) (k holder ofs : Nat) (data : List Byte) (ok : Bool) : State × Nat :=
  let a := slotAddr k + ofs
  let pages := (List.range (ceilDiv data.length 256)).map fun i => a / 256 + i
  let t := s.puts [(V.fwHold, holder), (V.fwVer k, 0)]
  let t := t.put V.fwGot (Nat.max (t.get V.fwGot) (ofs + data.length))
  if t.on V.romServe then
    if ok then (((t.progNow a data).put (V.fwSlotSt k) 2), 0)
    else ((((t.progCut a data).flashFailed false (a / 65536)).puts [(V.fwSlotSt k, 3), (V.fwOpen, 0)]), 0x0012)
  else (({ t with fwPend := (t.fwPend.filter fun p => decide (p ∉ pages)) ++ pages }.put (V.fwSlotSt k) 1).fwBack k a data, 0)

/-- The first request of a download opens it; boot ROM erases each block before its first program (R420, R503). -/
def State.fwOpening (s : State) (k len : Nat) : State :=
  let t := { s.fwDrop k with fwPend := [], fwErased := [] }.puts [(V.fwOpen, 1), (V.fwLen, len), (V.fwGot, 0), (V.fwSlotSt k, 1)]
  if t.on V.romServe then t.forAll (List.range (ceilDiv (0x1000 + len) 65536)) fun i u => u.eraseNow (slotAddr k / 65536 + i)
  else t

/-- Starts every step of a download by its status: 0, or the general error of R420; `holder` is the mailbox, 64 for NVMe.
While boot ROM serves, the data is programmed before the response (R503); `ok` tells whether it verified. -/
def State.fwDownload (s : State) (holder ofs : Nat) (data : List Byte) (ok : Bool) : State × Nat :=
  let k := s.inactive
  if s.on V.fwDone then (s, 0x000A)
  else if ofs % 256 ≠ 0 then (s, 0x0009)
  else if s.on V.fwOpen ∧ s.get V.fwHold ≠ holder then (s, 0x000F)
  else if ofs = 0 then
    if data.length < 4096 ∨ hdrCause data ≠ 0 then (s, 0x0009)
    else
      let len := leNat ((data.drop 8).take 4)
      if 0x1000 + len < data.length then (s, 0x0009) else (s.fwOpening k len).fwTake k holder ofs data ok
  else if !s.on V.fwOpen then (s, 0x000A)
  else if 0x1000 + s.get V.fwLen < ofs + data.length then (s, 0x0009)
  else s.fwTake k holder ofs data ok

/-- A step of a download; its data is held in the HBM firmware partition before the response, written there by the class of the
requester that took it in, but for boot ROM, which programs it (R32, R399, R420, R503). -/
def State.fwDownHeld (s : State) (c holder ofs : Nat) (data : List Byte) (ok : Bool) : State × Nat :=
  let r := s.fwDownload holder ofs data ok
  (r.1.when (decide (r.2 = 0) && !s.on V.romServe) fun t => t.fwPages c (0x200000 + ofs / 4096) data, r.2)

/-- `FW_COMMIT` (R421): the inactive slot is authenticated and one selector word programmed; `sel` is false where only a
verification is asked for, `ok` tells whether the word verified. -/
def State.fwCommit (s : State) (action : Nat) (sel ok : Bool) : State × Nat :=
  let k := s.inactive
  if s.get (V.fwSlotSt k) = 1 then (s, 0x000F)
  else
    let c := s.slotCause k
    let floor := if s.on V.romServe then
        ((List.range 2).filter fun i => s.on (V.fwVer i)).foldl (fun m i => Nat.max m (s.slotSvn i)) 0
      else s.slotSvn (s.get V.fwSlot)
    let c := if c = 0 ∧ s.slotSvn k < floor then 5 else c
    let t := s.puts [(V.fwCause, c), (V.fwOpen, 0)]
    if c ≠ 0 then (t, 0x000A)
    else
      let t := t.put (V.fwVer k) 1
      if !sel then (t, 0)
      else
        let again := decide (s.selCode = 2 + k)
        if !again ∧ !ok then (t.progSel (2 + k) false, 0x0012)
        else
          let u := (if again then t else t.progSel (2 + k) true).puts [(V.fwDone, 1), (V.fwRst, if action = 1 then 1 else t.get V.fwRst)]
          (u.post 0x14 0x15 info noInst ([k] ++ (s.slotVer k).map (·.toNat) ++ [s.slotSvn k, action]), 0)

/-- DOWNLOAD_SESSION_TIMEOUT: 60 s without a download from the holder; the slot shows WRITING (R420). -/
def downloadSessionTimeout (s : State) : State :=
  if s.on V.fwOpen then s.puts [(V.fwOpen, 0), (V.fwSlotSt s.inactive, 1)] else s

/-- Resident firmware confirms a trial at I/O-ready: the word without trial, then `TRIAL_STARTED` is cleared; `ok` tells
whether one of three words verified (R421). -/
def State.confirmTrial (s : State) (ok : Bool) : State :=
  if !s.on V.fwTrial then s
  else if ok then (s.progSel (s.get V.fwSlot) true).puts [(R.CVN_STAT_TRIAL_STARTED, 0), (V.fwTrial, 0)]
  else s.forAll (List.range 3) fun _ t => t.progSel (t.get V.fwSlot) false

/-! ## Safety Net (R422) -/

/-- `SNT_CTL.EN` 0→1. -/
def State.sntEnable (s : State) : State × Nat :=
  let t1 := s.get R.SNT_CFG_T1
  s.enable R.SNT_CTL_EN R.SNT_CHK_REASON [(!inR 5 600 t1, 0x1501)]
    fun t => t.puts [(R.SNT_STAT_STAGE, 1), (V.sntT1, t1), (V.sntMs, t.get V.msNow), (R.SNT_STAT_REMAIN, t1 * 10)]

/-- SNT_ENABLE. -/
def sntEnableCmd (s : State) : State := s.sntEnable.1

/-- A write to `SNT_KICK`. -/
def State.sntKick (s : State) (v : Nat) : State :=
  if v ≠ 0xC35A then (s.evt R.SNT_EVT_BAD_KICK).count R.SNT_CNT_BADKICK
  else if s.get R.SNT_STAT_STAGE = 0 then s
  else
    let t1 := s.get R.SNT_CFG_T1
    s.puts [(R.SNT_STAT_STAGE, 1), (V.sntT1, t1), (V.sntMs, s.get V.msNow), (R.SNT_STAT_REMAIN, t1 * 10)]

/-- SNT_KICK. -/
def sntKickCmd (v : BitVec 16) (s : State) : State := s.sntKick v.toNat

/-- Time to the next stage in 10 ms, as `SNT_STAT.REMAIN` shows it when read. -/
def State.sntRemain (s : State) : Nat :=
  let gone := (s.get V.msNow - s.get V.sntMs) / 10
  if s.get R.SNT_STAT_STAGE = 1 then s.get V.sntT1 * 10 - gone
  else if s.get R.SNT_STAT_STAGE = 2 then 200 - gone else 0

/-- STAGE1: `T1` after the last kick; `ctx` is the Ringmaster context that reported last. -/
def stage1 (ctx : BitVec 8) (s : State) : State :=
  if s.get R.SNT_STAT_STAGE ≠ 1 then s
  else
    (((s.puts [(R.SNT_STAT_STAGE, 2), (V.sntMs, s.get V.msNow), (R.SNT_STAT_REMAIN, 200)]).evt R.SNT_EVT_STAGE1).count
      R.SNT_CNT_STAGE1).post 0x15 0x10 warning noInst [s.get V.sntT1, ctx.toNat]

/-! ## Commands -/

/-- Meaning of FLASH_READ (R410). -/
def execFlashRead (addr : BitVec 32) (n : BitVec 16) (ran : Nat) (s : State) : Host.Outcome State Fault Refusal :=
  flashRead addr n ran s

/-- Meaning of FLASH_PROGRAM (R409). -/
def execFlashProgram (addr : BitVec 32) (data : List Byte) (ran : Nat) (s : State) : Host.Outcome State Fault Refusal :=
  flashProgram addr data ran s

/-- Meaning of FLASH_ERASE (R409). -/
def execFlashErase (blk : BitVec 16) (s : State) : Host.Outcome State Fault Refusal :=
  flashErase blk s

/-- Meaning of FLASH_PROGRAM_DONE (R409). -/
def execFlashProgramDone (b : Fin 4) (ok : Bool) (s : State) : Host.Outcome State Fault Refusal :=
  .next (flashProgramDone b ok s)

/-- Meaning of FLASH_ERASE_DONE (R409). -/
def execFlashEraseDone (b : Fin 4) (ok : Bool) (s : State) : Host.Outcome State Fault Refusal :=
  .next (flashEraseDone b ok s)

/-- Meaning of FLASH_SUSPEND_DUE (R410). -/
def execFlashSuspendDue (b : Fin 4) (s : State) : Host.Outcome State Fault Refusal :=
  .next (flashSuspendDue b s)

/-- Meaning of WDB_HOLD (R411). -/
def execWdbHold (m : BitVec 4) (s : State) : Host.Outcome State Fault Refusal :=
  .next (wdbHold m s)

/-- Meaning of DOWNLOAD_SESSION_TIMEOUT (R420). -/
def execDownloadSessionTimeout (s : State) : Host.Outcome State Fault Refusal :=
  .next (downloadSessionTimeout s)

/-- Meaning of SNT_ENABLE (R422). -/
def execSntEnable (s : State) : Host.Outcome State Fault Refusal :=
  .next (sntEnableCmd s)

/-- Meaning of SNT_KICK (R422). -/
def execSntKick (v : BitVec 16) (s : State) : Host.Outcome State Fault Refusal :=
  .next (sntKickCmd v s)

/-- Meaning of STAGE1 (R422). -/
def execStage1 (ctx : BitVec 8) (s : State) : Host.Outcome State Fault Refusal :=
  .next (stage1 ctx s)

end Sys2Proof.Machine
end

