-- ==== Sys2Proof/Machine/Budget.lean ====
section
/-!
DEFINITION. Latency budgets, demand, the target power state and what a command's arrival does to them (R433 to R437, R493).
-/

namespace Sys2Proof.Machine

/-- Budget of no limit. -/
def noBudget : Nat := 0xFFFFFFFF

/-- The effective budget: the lowest of the device budget and the budgets of namespaces attached to a controller (R433). -/
def State.effBudget (s : State) : Nat :=
  s.nss.foldl (fun m e => match e.2 with
    | some n => if n.att = [] then m else Nat.min m n.budget
    | none => m) (s.get R.CVN_BUD_DEV_DEV_US)

/-- The device is idle; while an overwrite runs it is not (R273, R274, R434). -/
def State.idle (s : State) : Bool :=
  s.cmds.isEmpty && (List.range 4).all (fun a => (s.jugq a).isEmpty && (s.jobOf a).isNone && (s.pointsOf a).isEmpty) &&
    s.on R.RMC_STAT_IO_READY && !s.on V.cvnWaking && s.test.isNone &&
    !s.mops.any fun o => decide (o.typ = 3)

/-- Worst-case wake of a power state, µs (R432). -/
def psWake (n : Nat) : Nat := [0, 2000, 600000, 6000000, 25000000, 30000000].getD n 0

/-- Target state of an idle device (R435). -/
def State.psTarget (s : State) : Nat :=
  let sp := s.get R.CRL_STAT_SP
  let b := s.get R.CVN_BUD_PRES_PRES_US
  if sp = 3 then (if b < 2000 then 0 else if b < 600000 then 1 else 2)
  else if sp = 0 then (if b < 30000000 then 4 else 5)
  else 3

/-- `BUD_MISS` follows the reported and the target state (R437). -/
def State.checkMiss (s : State) : State :=
  let eff := s.get R.CVN_BUD_EFF_EFF_US
  let m := decide (eff < psWake (s.get R.CVN_STAT_PS) ∨ eff < psWake (s.get R.CVN_STAT_PS_TGT))
  let t := s.putB R.CVN_STAT_BUD_MISS m
  if m ∧ !s.on R.CVN_STAT_BUD_MISS then
    (t.evt R.CVN_EVT_BUD_MISS).post 0x16 0x11 warning noInst [s.get R.CVN_STAT_PS, eff, s.get R.CRL_STAT_SP]
  else t

/-- The budget presented to Carousel, which applies it (R213, R434). -/
def State.present (s : State) (v : Nat) : State :=
  if s.get R.CVN_BUD_PRES_PRES_US = v then s else (s.put R.CVN_BUD_PRES_PRES_US v).evalSp

/-- The device leaves a deeper state: PS1 at once, PS2 to PS4 by a wake (R493). An entry in progress ends; background
operations resume with PS0 (R436). -/
def State.leavePs (s : State) : State :=
  let t := s.puts [(R.CVN_STAT_PS_TGT, 0), (V.psStep, 0)]
  let n := s.get R.CVN_STAT_PS
  if n ≤ 1 then (t.setPs 0).unpause
  else if n = 5 then t
  else t.put V.cvnWaking 1

/-- The target state of an idle device is brought into force: a deeper one starts its entry, a shallower one a wake. -/
def State.follow (s : State) : State :=
  if !s.idle then s.checkMiss
  else
    let n := s.psTarget
    let c := s.get R.CVN_STAT_PS
    (if n < c then s.leavePs
     else if n = c then s.puts [(R.CVN_STAT_PS_TGT, n), (V.psStep, 0)]
     else if s.get R.CVN_STAT_PS_TGT = n ∧ s.on V.psStep then s
     else s.puts [(R.CVN_STAT_PS_TGT, n), (V.psStep, 1)]).checkMiss

/-- The effective budget is worked out again: a lower one is presented at once, a higher one when the device has been idle
(R433, R434). -/
def State.budgetChanged (s : State) : State :=
  let e := s.effBudget
  if e = s.get R.CVN_BUD_EFF_EFF_US then s.checkMiss
  else
    let t := ((s.put R.CVN_BUD_EFF_EFF_US e).evt R.CVN_EVT_BUD_CHG).edge 0x1C4
    let want := if t.on R.CVN_STAT_DEMAND then Nat.min e (t.get R.CVN_DEMAND_DEMAND_US) else e
    (if want < t.get R.CVN_BUD_PRES_PRES_US then t.present want else t).follow

/-- Writes the stored budget of the device or of a namespace; false where the scope names no namespace (R386, R387). -/
def State.setBudget (s : State) (scope v : Nat) : State × Bool :=
  if scope = 0xFFFFFFFF then ((s.put R.CVN_BUD_DEV_DEV_US v).budgetChanged, true)
  else match s.ns scope with
    | some n => ((s.setNs scope (some { n with budget := v })).budgetChanged, true)
    | none => (s, false)

/-- A command arrives: it ends an entry or starts a wake, and where the presented budget yields set point 0, demand begins
(R434, R436, R493). -/
def State.arrive (s : State) : State :=
  let t := if s.get R.CVN_STAT_PS ≠ 0 ∨ s.on V.psStep then s.leavePs else s.put R.CVN_STAT_PS_TGT 0
  let zero := decide (t.wantSp (t.get R.CRL_STAT_SP) = 0)
  if zero ∧ !t.on R.CVN_STAT_DEMAND ∧ !t.on R.CRL_CTL_SP_OVR then
    ((t.put R.CVN_STAT_DEMAND 1).present (Nat.min (t.get R.CVN_BUD_EFF_EFF_US) (t.get R.CVN_DEMAND_DEMAND_US))).checkMiss
  else t.checkMiss

end Sys2Proof.Machine
end

