-- ==== Sys2Proof/Machine/Intake.lean ====
section
/-!
DEFINITION. Intake of commands and their admission to the Turnstile (R283, R292 to R297).
-/

namespace Sys2Proof.Machine

/-! ## Scopes (R294) -/

/-- Blocks of a zone (R248). -/
def zoneSize : Nat := 262144

/-- NSID of the Subsystem Local Memory namespace (R287). -/
def memNsid : Nat := 1024

/-- Where the next append to a zone goes, as an offset in the zone: behind the appends admitted after a reset of the zone
that is still in flight, else at the write pointer (R294, R305). -/
def State.appendAt (s : State) (nsid z : Nat) : Nat :=
  match (s.cmds.filter fun c => match c.fin with
      | .zoneReset n zs => decide (n = nsid) && zs.contains z
      | _ => false).getLast? with
  | none => (s.zone nsid z).wp
  | some r =>
    let mine := (s.cmds.filter fun c => decide (r.no < c.no)).flatMap fun c =>
      c.ents.filter fun e => decide (e.nsid = nsid ∧ z * zoneSize ≤ e.lo ∧ e.hi ≤ (z + 1) * zoneSize ∧ e.hi - e.lo < zoneSize)
    mine.foldl (fun m e => Nat.max m (e.hi - z * zoneSize)) 0

/-- The entries of one scope (R294). -/
def State.scopeEnts (s : State) : Scope → List TsEnt
  | .lba n lo k w => [⟨n, lo, lo + k, w⟩]
  | .key n k w => [⟨n, keyNum k, keyNum k + 1, w⟩]
  | .keys n => [⟨n, 0, 2 ^ 128, false⟩]
  | .mem lo k w => [⟨memNsid, lo, lo + k, w⟩]
  | .append n lba k =>
    let z := lba / zoneSize
    [⟨n, z * zoneSize + s.appendAt n z, z * zoneSize + s.appendAt n z + k, true⟩]
  | .zone n lba => [⟨n, lba / zoneSize * zoneSize, (lba / zoneSize + 1) * zoneSize, true⟩]
  | .whole n => [⟨n, 0, 2 ^ 128, true⟩]
  | .rangeSet i => (Tab.at [] s.rsets i).map fun r => ⟨memNsid, r.1, r.1 + r.2, true⟩

/-- Whether a zone takes `n` more blocks at its append position; otherwise the status (R249, R250, R294). -/
def State.appendStat (s : State) (nsid lba n : Nat) : Stat :=
  match s.ns nsid with
  | none => stNs
  | some ns =>
    let z := lba / zoneSize
    let zo := s.zone nsid z
    let at_ := s.appendAt nsid z
    let again := at_ ≠ zo.wp
    if ns.csi ≠ 2 then stOpcode
    else if lba % zoneSize ≠ 0 ∨ n = 0 ∨ 256 < n then stField
    else if ns.nsze ≤ lba then stLba
    else if zo.st = zRo then stZRo
    else if zo.st = zOff then stZOff
    else if zo.st = zFull ∧ !again then stZFull
    else if zoneSize < at_ + n then stZBound
    else if zo.st = zEmpty ∧ 64 ≤ s.activeOn (placeAct ns.mask z) then stZActive
    else stOk

/-- Advances the write pointer of a zone by an append of `n` blocks at its admission; an empty zone opens implicitly, and a
zone filled becomes FULL (R249, R294). -/
def State.appendMove (s : State) (nsid lba n : Nat) : State :=
  let z := lba / zoneSize
  let zo := s.zone nsid z
  if s.appendAt nsid z ≠ zo.wp then s
  else
    let wp := zo.wp + n
    s.setZone nsid z { zo with wp := wp, st := if wp = zoneSize then zFull else if zo.st = zExp then zExp else zImp }

/-! ## Intake (R283, R292, R295) -/

/-- Blocks the staging partition holds: 12 GiB (R32). -/
def stagingBlocks : Nat := 3145728

/-- Causes that keep intake from taking a command of `need` entries and `blocks` blocks, in the bit order of `PAUSE_WHY`;
`full` tells whether Pocket or Cloak cannot accept it (R292). -/
def State.pauseWhy (s : State) (need blocks : Nat) (full : Bool) : Nat :=
  b2n (decide (131072 ≤ s.cmds.length)) + 2 * b2n (decide (16384 < tsUsed s.cmds + need))
    + 4 * b2n (decide (stagingBlocks < s.stagingTaken + blocks)) + 8 * b2n full + 16 * b2n (s.on R.CMD_CTL_FETCH_HOLD)

/-- Age, in admissions, of the oldest stalled command. -/
def State.oldestStall (s : State) : Nat :=
  match s.cmds.find? (·.stalled) with
  | some c => s.cmdNo - c.no
  | none => 0

/-- Intake pauses for the causes given, or runs when there are none; a pause counts once when it begins (R292, R308). -/
def State.showPause (s : State) (why : Nat) : State :=
  let t := s.puts [(R.CMD_STAT_PAUSE_WHY, why), (R.CMD_STAT_PAUSED, b2n (decide (why ≠ 0)))]
  let t := t.when (decide (why ≠ 0) && !s.on R.CMD_STAT_PAUSED) fun u => u.count R.CMD_CNT_PAUSE
  let t := t.when (bitOf why 1 && !bitOf (s.get R.CMD_STAT_PAUSE_WHY) 1) fun u =>
    (u.evt R.CMD_EVT_TS_FULL).when (!u.on V.mmgTsWarn) fun v =>
      (v.put V.mmgTsWarn 1).post 0x02 0x10 warning noInst [tsUsed v.cmds, v.ctrls.length, v.oldestStall]
  t.when (bitOf why 0 && !bitOf (s.get R.CMD_STAT_PAUSE_WHY) 0) fun u =>
    (u.evt R.CMD_EVT_INFL_FULL).when (!u.on V.cmdInflWarn) fun v =>
      (v.put V.cmdInflWarn 1).post 0x02 0x12 warning noInst
        (v.cmds.length :: (List.range 4).map fun a => v.get (R.CMD_JQ_DEPTH a))

/-- Takes one command from its submission queue, or pauses: it ends a power state other than PS0 (R434), its entries are taken together, and an append takes and
advances the write pointer (R292 to R295). -/
def State.tryTake (s : State) (w : Waiting) (full : Bool) : State × Bool :=
  let s := s.arrive
  let ents := w.scopes.flatMap s.scopeEnts
  let why := s.pauseWhy ents.length w.blocks full
  if why ≠ 0 then (s.showPause why, false)
  else
    let t := s.showPause 0
    match w.scopes with
    | [.append n lba k] =>
      let st := s.appendStat n lba k
      let z := lba / zoneSize
      let u := t.enlist w.id w.nsid (if st = stOk then ents else []) st (z * zoneSize + s.appendAt n z)
      (u.when (decide (st = stOk)) fun v => v.appendMove n lba k, true)
    | _ => (t.enlist w.id w.nsid ents stOk 0, true)

/-- Begins the work of a command in flight that is not stalled and has not begun. -/
def State.beginCmd (s : State) (id : CmdId) (f : Cmd → State → State) : State :=
  match s.cmdOf id with
  | some c => if c.stalled ∨ c.begun then s else f { c with begun := true } (s.updCmd c.no fun d => { d with begun := true })
  | none => s

/-- A command of a host: taken from its queue if it is still there, and begun when it is not stalled. Only an existing
controller has queues. -/
def State.taking (s : State) (w : Waiting) (f : Cmd → State → State) : State :=
  match s.cmdOf w.id with
  | some _ => s.beginCmd w.id f
  | none =>
    match s.ctrl w.id.cntlid with
    | none => s
    | some _ =>
      let t := s.tryTake w false
      if t.2 then t.1.beginCmd w.id f else t.1

/-- A command that takes no Turnstile entry. -/
def State.admin (s : State) (id : CmdId) (f : Cmd → State → State) : State := s.taking ⟨id, 0, [], 0⟩ f

end Sys2Proof.Machine
end

