-- ==== Sys2Proof/Machine/Calliope.lean ====
section
/-!
DEFINITION. Mailboxes and notification (chapter "Ticket Booth mailboxes and Calliope notification", R351 to R372): banks,
the source table, acceptance, ordering, authorization, responses, the NVMe and NVMe-MI transports.
-/

namespace Sys2Proof.Machine

/-! ## Banks (R363 to R366) -/

/-- Bit `b` of a 64-bit pair of registers of a bank. -/
def State.bankBit (s : State) (lo hi : Nat → Fld) (n b : Nat) : Bool :=
  if b < 32 then bitOf (s.get (lo n)) b else bitOf (s.get (hi n)) (b - 32)

/-- Sets it. -/
def State.setBankBit (s : State) (lo hi : Nat → Fld) (n b : Nat) (v : Bool) : State :=
  if b < 32 then s.setBit (lo n) b v else s.setBit (hi n) (b - 32) v

/-- State of a bank's bit: 0 IDLE, 1 PENDING, 2 ACTIVE, 3 ACTIVE+PENDING (R363). -/
def State.bankSt (s : State) (n b : Nat) : Nat :=
  if s.bankBit R.CLP_PEND_LO_PEND R.CLP_PEND_HI_PEND n b then 1
  else if s.bankBit V.clpAgLo V.clpAgHi n b then 3
  else if s.bankBit R.CLP_ACT_LO_ACT R.CLP_ACT_HI_ACT n b then 2
  else 0

/-- Sets it; `PEND` shows PENDING, `ACT` shows ACTIVE and ACTIVE+PENDING (R365). -/
def State.setBankSt (s : State) (n b st : Nat) : State :=
  let t := ((s.setBankBit R.CLP_PEND_LO_PEND R.CLP_PEND_HI_PEND n b (decide (st = 1))).setBankBit
    R.CLP_ACT_LO_ACT R.CLP_ACT_HI_ACT n b (decide (2 ≤ st))).setBankBit V.clpAgLo V.clpAgHi n b (decide (st = 3))
  t.when (decide (n = 8)) fun u => u.puts [(R.SDS_PEND_LO_PEND, u.get (R.CLP_PEND_LO_PEND 8)),
    (R.SDS_PEND_HI_PEND, u.get (R.CLP_PEND_HI_PEND 8)),
    (R.SDS_STAT_PEND, b2n (decide (u.get (R.CLP_PEND_LO_PEND 8) ≠ 0 ∨ u.get (R.CLP_PEND_HI_PEND 8) ≠ 0)))]

/-- A bank holds a PENDING bit. -/
def State.bankPending (s : State) (n : Nat) : Bool :=
  s.on (R.CLP_PEND_LO_PEND n) || s.on (R.CLP_PEND_HI_PEND n)

/-- An empty header (R355). -/
def emptyHdr : List Byte := List.replicate 64 0

/-- The receive a controller holds ends with an empty header. -/
def State.endHeld (s : State) (c dw0 : Nat) : State :=
  match s.held.find? fun e => decide (e.1 = c) with
  | none => s
  | some e => ({ s with held := s.held.filter fun x => decide (x.1 ≠ c) }).complete e.2.1 stOk dw0 (.bytes emptyHdr)

/-- A bit of a bank became PENDING: a receive its agent holds completes with bit 30 set (R355). -/
def State.wakeHeld (s : State) (n : Nat) : State :=
  if s.get (R.TKB_MB_OWNER n) = 3 then s.endHeld (s.get (R.TKB_MB_ID n)) 0x40000000 else s

/-- A bit becomes PENDING. -/
def State.toPending (s : State) (n b : Nat) : State := (s.setBankSt n b 1).wakeHeld n

/-- A source fires at a bit of a bank; `src` names a shared source (R364). -/
def State.fire (s : State) (n b : Nat) (src : Option Nat) : State :=
  let merge (t : State) : State := (match src with
    | some i => t.put (R.CLP_SRC_MERGED i) 1
    | none => t).count R.CLP_CNT_MERGE
  match s.bankSt n b with
  | 0 => s.toPending n b
  | 1 => merge s
  | 2 => s.setBankSt n b 3
  | _ => merge s

/-- The level of a shared source (R367). -/
def State.srcLevelOf (s : State) (i : Nat) : Bool :=
  if i < 16 then bitOf (s.get V.softSrc) i
  else if i < 0x1B0 then s.srcLevel (i / 16) (i % 16)
  else if i < 0x1C0 then bitOf (s.get V.gpio) (i - 0x1B0)
  else false

/-- The enabled source that targets a bit (R368: at most one does). -/
def State.srcOf (s : State) (n b : Nat) : Option Nat :=
  (List.range 512).find? fun i => s.on (R.CLP_SRC_EN i) && decide (s.get (R.CLP_SRC_AGENT i) = n ∧ s.get (R.CLP_SRC_BIT i) = b)

/-- CLAIM written with a bit. -/
def State.claimBit (s : State) (n b : Nat) : State := if s.bankSt n b = 1 then s.setBankSt n b 2 else s

/-- DONE written with a bit, at the level its source has (R364). -/
def State.doneBit (s : State) (n b : Nat) : State :=
  let high := decide (8 ≤ b) && (match s.srcOf n b with
    | some i => s.srcLevelOf i
    | none => false)
  match s.bankSt n b with
  | 2 => if high then (s.toPending n b).count R.CLP_CNT_REFIRE else s.setBankSt n b 0
  | 3 => s.toPending n b
  | _ => s

/-- Claims the bits of a mask of a bank's words `[from, from + 32)`. -/
def State.claimMask (s : State) (n from_ mask : Nat) : State :=
  s.forAll ((List.range 32).filter (bitOf mask)) fun i t => t.claimBit n (from_ + i)

/-- Completes them. -/
def State.doneMask (s : State) (n from_ mask : Nat) : State :=
  s.forAll ((List.range 32).filter (bitOf mask)) fun i t => t.doneBit n (from_ + i)

/-- A write to `CLP_CLAIM`, accepted from the bank's own agent alone (R371). -/
def State.clpClaim (s : State) (sender bank : Nat) (hi : Bool) (v : Nat) : State × Nat :=
  if sender ≠ bank then (s, 0x0009) else (s.claimMask bank (if hi then 32 else 0) v, 0)

/-- A write to `CLP_DONE`. -/
def State.clpDone (s : State) (sender bank : Nat) (hi : Bool) (v : Nat) : State × Nat :=
  if sender ≠ bank then (s, 0x0009) else (s.doneMask bank (if hi then 32 else 0) v, 0)

/-- CLP_CLAIM_WRITE. -/
def clpClaimWriteCmd (sender bank : Fin 64) (hi : Bool) (v : BitVec 32) (s : State) : State :=
  (s.clpClaim sender bank hi v.toNat).1

/-- CLP_DONE_WRITE. -/
def clpDoneWriteCmd (sender bank : Fin 64) (hi : Bool) (v : BitVec 32) (s : State) : State :=
  (s.clpDone sender bank hi v.toNat).1

/-- SOURCE_EDGE: the oldest latched edge reaches its bank; a disabled source ignores it (R364, R368). -/
def sourceEdge (s : State) : State :=
  match s.edges with
  | [] => s
  | i :: l =>
    let t := { s with edges := l }
    if t.on (R.CLP_SRC_EN i) then t.fire (t.get (R.CLP_SRC_AGENT i)) (t.get (R.CLP_SRC_BIT i)) (some i) else t

/-- GPIO_INPUT_CHANGE: the pin's level after deglitch; a rise is an edge of its source (R367). -/
def gpioInputChange (pin : Fin 16) (level : Bool) (s : State) : State :=
  let old := bitOf (s.get V.gpio) pin
  (s.setBit V.gpio pin level).when (level && !old) fun t => t.edge (0x1B0 + pin)

/-- Sets the level of a software source (R367). -/
def State.softSource (s : State) (i : Nat) (level : Bool) : State :=
  let old := bitOf (s.get V.softSrc) i
  (s.setBit V.softSrc i level).when (level && !old) fun t => t.edge i

/-! ## The source table (R367 to R369) -/

/-- Writes a source's entry: its status, and the state it leaves. -/
def State.srcWrite (s : State) (i agent bit : Nat) (en token : Bool) : State × Nat :=
  let oa := s.get (R.CLP_SRC_AGENT i)
  let ob := s.get (R.CLP_SRC_BIT i)
  let moved := decide (agent ≠ oa ∨ bit ≠ ob)
  let clash := en && (List.range 512).any fun j => decide (j ≠ i ∧ s.get (R.CLP_SRC_AGENT j) = agent ∧
    s.get (R.CLP_SRC_BIT j) = bit) && s.on (R.CLP_SRC_EN j)
  if bit < 8 ∨ clash then (s, 0x0009)
  else if moved ∧ s.bankSt oa ob ≠ 0 then (s, 0x000A)
  else
    ((s.puts [(R.CLP_SRC_AGENT i, agent), (R.CLP_SRC_BIT i, bit), (R.CLP_SRC_EN i, b2n en)]).when (moved && token) fun t =>
      t.post 0x04 0x10 info noInst [i, oa, ob, agent, bit], 0)

/-- A diagnostic write to a source entry: it always carries a token; `MERGED` is cleared by writing 1, unless the hardware sets
it in the same cycle (`hw`; R18, R369, R384). -/
def State.clpSrcWrite (s : State) (i v : Nat) (hw : Bool) : State × Nat :=
  let r := s.srcWrite i (v % 64) (v / 256 % 64) (bitOf v 16) true
  if r.2 = 0 ∧ bitOf v 18 then (r.1.putB (R.CLP_SRC_MERGED i) hw, 0) else r

/-- CLP_SRC_WRITE. -/
def clpSrcWriteCmd (src : Fin 512) (v : BitVec 32) (hw : Bool) (s : State) : State := (s.clpSrcWrite src v.toNat hw).1

/-- A source entry as it reads (R371). -/
def State.srcEntry (s : State) (i : Nat) : Nat :=
  s.get (R.CLP_SRC_AGENT i) + 256 * s.get (R.CLP_SRC_BIT i) + 65536 * s.get (R.CLP_SRC_EN i)
    + 131072 * b2n (s.srcLevelOf i) + 262144 * s.get (R.CLP_SRC_MERGED i)

/-- An agent is torn down: its bank is cleared, and the sources that target it return to their reset entries (R369). -/
def State.agentDown (s : State) (n : Nat) : State :=
  let pend := s.get (R.CLP_PEND_LO_PEND n) + 4294967296 * s.get (R.CLP_PEND_HI_PEND n)
  let act := s.get (R.CLP_ACT_LO_ACT n) + 4294967296 * s.get (R.CLP_ACT_HI_ACT n)
  let t := s.when (decide (pend ≠ 0 ∨ act ≠ 0)) fun t => t.post 0x04 0x11 warning noInst [n, pend, act]
  let t := t.forAll ((List.range 512).filter fun i => decide (t.get (R.CLP_SRC_AGENT i) = n)) fun i u =>
    u.puts [(R.CLP_SRC_AGENT i, 0), (R.CLP_SRC_BIT i, 8), (R.CLP_SRC_EN i, 0), (R.CLP_SRC_MERGED i, 0)]
  t.puts [(R.CLP_PEND_LO_PEND n, 0), (R.CLP_PEND_HI_PEND n, 0), (R.CLP_ACT_LO_ACT n, 0), (R.CLP_ACT_HI_ACT n, 0),
    (V.clpAgLo n, 0), (V.clpAgHi n, 0)]

/-! ## Mailboxes (R351 to R353, R359) -/

/-- Outstanding requests of a mailbox (R359). -/
def State.outst (s : State) (n : Nat) : List Req := s.reqs.filter fun r => decide (r.mb = n)

/-- Shows a mailbox's counts (R370). -/
def State.showMb (s : State) (n : Nat) : State :=
  let l := s.outst n
  s.puts [(R.TKB_MB_OUTST n, l.length), (R.TKB_MB_READY n, (l.filter fun r => r.ready.isSome).length),
    (R.TKB_STAT_HOST_MB, ((List.range 64).filter fun m => decide (s.get (R.TKB_MB_OWNER m) = 3)).length)]

/-- A mailbox is served: mailbox 8 always, by boot ROM or firmware; the others while resident firmware runs; a mailbox
whose owner is gone takes no request (R352, R353). -/
def State.mbServed (s : State) (n : Nat) : Bool :=
  (s.on V.fwUp || decide (n = 8)) && decide (s.get (R.TKB_MB_OWNER n) ≠ 0) && !s.on (R.TKB_MB_DRAIN n)

/-- The mailbox a controller holds. -/
def State.mbOf (s : State) (c : Nat) : Option Nat :=
  ((List.range 54).map (· + 10)).find? fun n =>
    decide (s.get (R.TKB_MB_OWNER n) = 3 ∧ s.get (R.TKB_MB_ID n) = c) && !s.on (R.TKB_MB_DRAIN n)

/-- The lowest free host mailbox (R352). -/
def State.mbFree (s : State) : Option Nat :=
  ((List.range 54).map (· + 10)).find? fun n => decide (s.get (R.TKB_MB_OWNER n) = 0)

/-- A draining mailbox with nothing outstanding becomes free; mailbox 9 is reissued to the new endpoint (R352). -/
def State.mbSettle (s : State) (n : Nat) : State :=
  let t := if s.on (R.TKB_MB_DRAIN n) ∧ s.outst n = [] then
      s.puts [(R.TKB_MB_DRAIN n, 0), (R.TKB_MB_OWNER n, if n = 9 then 2 else 0),
        (R.TKB_MB_ID n, if n = 9 then s.get V.mctpEid else 0)]
    else s
  t.showMb n

/-- The owner of a mailbox is gone (R352): responses not read are discarded, requests that run do so to completion, its
nonces are void, its agent is torn down. -/
def State.mbRelease (s : State) (n : Nat) : State :=
  let k := (s.outst n).length
  let t := s.when (decide (k ≠ 0)) fun t => t.post 0x03 0x11 info noInst [n, t.get (R.TKB_MB_ID n), k]
  let t := { t with reqs := (t.reqs.filter fun (r : Req) => decide (¬(r.mb = n ∧ r.ready.isSome))).map fun (r : Req) =>
                      if r.mb = n then { r with discard := true } else r,
                    nonces := t.nonces.filter fun x => decide (x.mb ≠ n) }
  ((t.agentDown n).put (R.TKB_MB_DRAIN n) 1).mbSettle n

/-- MCTP_EID_REASSIGN: mailbox 9 is released and reissued to the new endpoint (R352). -/
def mctpEidReassign (eid : BitVec 16) (s : State) : State := (s.put V.mctpEid eid.toNat).mbRelease 9

/-! ## Acceptance (R357 to R360) -/

/-- A little-endian field of a byte string. -/
def fieldAt (b : List Byte) (off n : Nat) : Nat := leNat ((b.drop off).take n)

/-- What the envelope of a request fails, in the order of R360, up to the payload's check; `own` is the sender's mailbox
and `lim` the transport's payload limit. Fields the header fixes at 0 count as reserved. -/
def hdrStatus (own lim : Nat) (b : List Byte) : Nat :=
  let f := fieldAt b
  if b.length < 64 then 0x0001
  else if crc32c (b.take 60) ≠ f 0x3C 4 ∨ f 0x0F 1 ≠ 1 ∨ f 2 2 % 2 = 1 ∨ f 2 2 / 8 ≠ 0 ∨ f 6 2 ≠ 0 ∨ f 0xC 2 ≠ 0 ∨
      f 0x30 8 ≠ 0 ∨ (f 2 2 / 2 % 2 = 0 ∧ f 0x10 32 ≠ 0) ∨ ¬(f 0xE 1 = 0xFF ∨ f 0xE 1 = own) then 0x0001
  else if lim < f 8 4 ∨ f 8 4 ≠ b.length - 64 ∨ (f 2 2 / 2 % 2 = 1 ∧ f 8 4 < 96) then 0x0002
  else if f 0x38 4 ≠ (if f 8 4 = 0 then 0 else crc32c (b.drop 64)) then 0x0003
  else 0

/-- The acceptance status of a request of a mailbox, none where the sender has and can get none (R360). -/
def State.accStatus (s : State) (mb : Option Nat) (lim : Nat) (b : List Byte) : Nat :=
  let st := hdrStatus (mb.getD 0xFFFF) lim b
  if st ≠ 0 then st
  else match mb with
    | none => 0x0006
    | some n =>
      if (s.outst n).any fun r => decide (r.tag = fieldAt b 4 2) then 0x0004
      else if (if n = 8 then 1 else 16) ≤ (s.outst n).length then 0x0005
      else if 10 ≤ n ∧ s.on V.fwUp ∧ s.get (R.TKB_MB_OWNER n) = 0 then 0
      else if s.mbServed n then 0 else 0x0006

/-- Accepts a request or refuses it: the status, and the state it leaves (R359). -/
def State.accept (s : State) (mb : Option Nat) (lim rlim : Nat) (b : List Byte) : State × Nat :=
  let st := s.accStatus mb lim b
  if st ≠ 0 then (s.count R.TKB_CNT_REFUSE, st)
  else
    let n := mb.getD 0
    let r : Req := ⟨n, s.reqNo, fieldAt b 0 2, fieldAt b 2 2, fieldAt b 4 2, (b.drop 16).take 32, b.drop 64, rlim, false, false,
      0, 0, [], false, none, []⟩
    (({ s with reqs := s.reqs ++ [r], reqNo := s.reqNo + 1 }).showMb n, 0)

/-- CASGUS_SEND: a host controller acquires its mailbox with its first accepted request (R352, R354). -/
def casgusSend (id : CmdId) (raw : List Byte) (s : State) : State :=
  s.admin id fun _ t =>
    let own := t.mbOf id.cntlid
    let mb := if own.isSome then own else t.mbFree
    let r := t.accept mb 65536 65536 raw
    let u := if r.2 = 0 ∧ own = none then
        let n := mb.getD 0
        (r.1.puts [(R.TKB_MB_OWNER n, 3), (R.TKB_MB_ID n, id.cntlid)]).showMb n
      else r.1
    u.complete id stOk (r.2 + 65536 * fieldAt raw 4 2) .none

/-- NVME_MI_REQUEST: the enclosure controller's request, at most 4,096 bytes of payload (R356). -/
def nvmeMiRequest (raw : List Byte) (s : State) : State :=
  let r := s.accept (some 9) 4096 4096 raw
  { r.1 with miOut := r.1.miOut ++ [(r.2 + 65536 * fieldAt raw 4 2, [])] }

/-! ## Responses (R355, R357, R359) -/

/-- A response: header and payload (R357). -/
def Req.bytes (r : Req) : List Byte :=
  let h := leBytes 2 r.op ++ leBytes 2 (r.flags / 2 * 2 + 1) ++ leBytes 2 r.tag ++ leBytes 2 r.status ++
    leBytes 4 r.rsp.length ++ leBytes 2 (if r.status = 0x4000 then r.reason else 0) ++ leBytes 1 r.mb ++ leBytes 1 1 ++
    List.replicate 40 0 ++ leBytes 4 (if r.rsp = [] then 0 else crc32c r.rsp)
  h ++ leBytes 4 (crc32c h) ++ r.rsp

/-- The oldest ready response of a mailbox. -/
def State.firstReady (s : State) (n : Nat) : Option Req :=
  (s.outst n).foldl (fun m r => match r.ready, m with
    | none, _ => m
    | some _, none => some r
    | some k, some x => if k < x.ready.getD 0 then some r else m) none

/-- A response has been read and leaves its queue: its tag may be used again (R359, R361). -/
def State.dropReq (s : State) (r : Req) : State :=
  ({ s with reqs := s.reqs.filter fun x => decide (x.no ≠ r.no) }).mbSettle r.mb

/-- What a receive with a buffer of `len` bytes finds ready: the state it leaves, Dword 0 and the data (R355). -/
def State.takeReady (s : State) (n len : Nat) : Option (State × Nat × List Byte) :=
  match s.firstReady n with
  | none => none
  | some r =>
    let b := r.bytes
    if b.length ≤ len then some (s.dropReq r, b.length, b) else some (s, b.length + 2147483648, [])

/-- The same for the mailbox of a controller. -/
def State.takeFor (s : State) (cntlid len : Nat) : Option (State × Nat × List Byte) :=
  match s.mbOf cntlid with
  | some n => s.takeReady n len
  | none => none

/-- CASGUS_RECEIVE. -/
def casgusReceive (id : CmdId) (len : BitVec 32) (wait : Bool) (limit : BitVec 32) (s : State) : State :=
  s.admin id fun _ t =>
    if len.toNat < 64 ∨ 60000 < limit.toNat then t.answer id stField
    else
      let t := t.endHeld id.cntlid 0
      match t.takeFor id.cntlid len.toNat with
      | some x => x.1.complete id stOk x.2.1 (.bytes x.2.2)
      | none =>
        if !wait then t.complete id stOk 0 (.bytes emptyHdr)
        else if (t.mbOf id.cntlid).any fun n => t.bankPending n then t.complete id stOk 0x40000000 (.bytes emptyHdr)
        else ({ t with held := t.held ++ [(id.cntlid, (id, len.toNat))] }).unflight id

/-- RECEIVE_WAIT_EXPIRY. -/
def receiveWaitExpiry (id : CmdId) (s : State) : State :=
  if s.held.any fun e => decide (e.2.1 = id) then s.endHeld id.cntlid 0 else s

/-- NVME_MI_RECEIVE: never waits (R356). -/
def nvmeMiReceive (len : BitVec 32) (s : State) : State :=
  match s.takeReady 9 len.toNat with
  | some x => { x.1 with miOut := x.1.miOut ++ [x.2] }
  | none => { s with miOut := s.miOut ++ [(0, emptyHdr)] }

/-- The response of mailbox 8 is placed in the window (R500). -/
def State.sdsPlace (s : State) (b : List Byte) : State :=
  (s.putWin 0x1A 0 0x8000 b).puts [(R.SDS_RLEN_RLEN, b.length), (R.SDS_STAT_STATE, 2)]

/-- REQUEST_COMPLETE: the response joins the queue of its mailbox, or is discarded; a held receive takes it at once; the
response-ready bit fires (R352, R355, R361, R363). -/
def requestComplete (rq : ReqId) (s : State) : State :=
  match s.reqs.find? fun r => decide (r.mb = rq.mb.val ∧ r.tag = rq.tag.toNat ∧ r.done = true ∧ r.ready = none ∧ r.waits = []) with
  | none => s
  | some r =>
    if r.discard then s.dropReq r
    else
      let t := ({ s with reqs := s.reqs.map fun (x : Req) => if x.no = r.no then { x with ready := some s.rspNo } else x,
                         rspNo := s.rspNo + 1 }).showMb r.mb
      let t := t.when (decide (r.mb = 8)) fun u => u.sdsPlace r.bytes
      let c := t.get (R.TKB_MB_ID r.mb)
      let t := match t.held.find? fun e => decide (e.1 = c ∧ t.get (R.TKB_MB_OWNER r.mb) = 3) with
        | some e =>
          match t.takeReady r.mb e.2.2 with
          | some x => ({ x.1 with held := x.1.held.filter fun y => decide (y.1 ≠ c) }).complete e.2.1 stOk x.2.1 (.bytes x.2.2)
          | none => t
        | none => t
      t.fire r.mb 0 none

/-! ## Start, ordering, authorization (R358, R361, R362, R376) -/

/-- Opcodes of the catalogue (R378). -/
def casgusOps : List Nat :=
  [0x0100, 0x0101, 0x0102, 0x0103, 0x0104, 0x0200, 0x0201, 0x0202, 0x0203, 0x0204, 0x0300, 0x0301, 0x0302, 0x0303, 0x0400,
   0x0401, 0x0500, 0x0501, 0x0502, 0x0503, 0x0504, 0x0505, 0x0600, 0x0601, 0x0602, 0x0700, 0x0701, 0x0702, 0x0800, 0x0801,
   0x0802, 0x0803, 0x0900, 0x0901, 0x0902, 0x0903, 0x0904, 0x0A00, 0x0A01, 0x0A02, 0x0A03, 0x0A04, 0x0A05, 0x0B00, 0x0B01,
   0x0B02, 0x0B03, 0x0C00, 0x0C01, 0x0C02, 0x0C03, 0x0C04, 0x0C05]

/-- Opcodes boot ROM serves (R503). -/
def romOps : List Nat :=
  [0x0100, 0x0101, 0x0103, 0x0200, 0x0201, 0x0204, 0x0700, 0x0701, 0x0800, 0x0801, 0x0802, 0x0803]

/-- Opcodes that always need a token (R378, R384). -/
def tokenOps : List Nat :=
  [0x0104, 0x0201, 0x0202, 0x0401, 0x0501, 0x0503, 0x0504, 0x0602, 0x0702, 0x0800, 0x0801, 0x0A00, 0x0A02, 0x0A05, 0x0B03]

/-- The request carries a token. -/
def Req.auth (r : Req) : Bool := bitOf r.flags 1

/-- The payload after the token (R376). -/
def Req.args (r : Req) : List Byte := if r.auth then r.body.drop 96 else r.body

/-- A key is registered (R377). -/
def State.keyReg (s : State) : Bool := s.on V.optValid && decide (s.optLe 0x200 1 = 1)

/-- The operator's key: the 97 bytes of `OPKEY`. -/
def State.opKey (s : State) : List Nat := (getBytes s.opt 0x204 97).map (·.toNat)

/-- State-changing requests of mailbox 8 are accepted without a token while no key is registered (R504). -/
def State.sdsFree (s : State) (r : Req) : Bool :=
  decide (r.mb = 8 ∧ (r.op = 0x0201 ∨ r.op = 0x0800 ∨ r.op = 0x0801)) && !s.keyReg

/-- The entries of a `REG_WRITE`: address, value, group mask (R383). -/
def wrEntries (b : List Byte) : List (Nat × Nat × Nat) :=
  (List.range (fieldAt b 0 2)).map fun i => (fieldAt b (8 + 16 * i) 4, fieldAt b (12 + 16 * i) 4, fieldAt b (16 + 16 * i) 8)

/-- A diagnostic address: block, selector, offset (R14). -/
def adrOf (a : Nat) : Nat × Nat × Nat := (a / 16777216, a / 65536 % 256, a % 65536)

/-- An entry of `REG_WRITE` that needs no token (R384). -/
def entryFree (mb : Nat) (e : Nat × Nat × Nat) : Bool :=
  let a := adrOf e.1
  let bankOwn := a.1 = 0x04 ∧ (0x4000 + mb * 0x20 + 0x10 ≤ a.2.2 ∧ a.2.2 < 0x4000 + mb * 0x20 + 0x20)
  decide (a.2.1 ≠ 0xE0 ∧ a.2.1 ≠ 0xFF) &&
    (decide bankOwn ||
      ((regRows a.1).any fun r => decide (r.off = a.2.2 ∧ (a.2.2 = evtOff a.1 ∨ a.2.2 = evtOff a.1 + 4))) &&
        decide (a.1 ≠ 0x03 ∧ a.1 ≠ 0x04 ∧ a.1 ≠ 0x08))

/-- The request needs a token (R369, R376, R377, R384, R388, R504). -/
def State.needsToken (s : State) (r : Req) : Bool :=
  if s.sdsFree r then false
  else if r.op ∈ tokenOps then true
  else if r.op = 0x0204 then s.keyReg || !(r.mb = 8 || r.mb = 9)
  else if r.op = 0x0302 then !(r.mb = 8 || r.mb = 9)
  else if r.op = 0x0B01 then !((wrEntries r.args).all (entryFree r.mb))
  else if r.op = 0x0C00 then
    let ag := s.get (R.CLP_SRC_AGENT (fieldAt r.args 0 2 % 512))
    !(ag = r.mb || ag = 0)
  else false

/-- Judges the token of a request that starts: 0, or what fails: 1 no token, 2 no key, 3 the nonce, 4 the signature. A
nonce is used up by the first request that carries it (R358, R362). -/
def State.judge (s : State) (r : Req) : State × Nat :=
  if !r.auth then (s, b2n (s.needsToken r))
  else match s.nonces.find? fun x => decide (x.n = r.nonce) with
    | none => (s, 3)
    | some x =>
      let t := { s with nonces := s.nonces.filter fun y => decide (y.n ≠ r.nonce) }
      if x.mb ≠ r.mb ∨ 60000 < t.get V.msNow - x.ms then (t, 3)
      else if !t.keyReg then (t, 2)
      else if Config.ecdsaVerify t.opKey (r.nonce.map (·.toNat)) ((r.body.take 96).map (·.toNat)) then (t, 0)
      else (t, 4)

/-- Blocks a request acts on (R361; which opcode acts on which block is DEDUCED from the catalogue). -/
def Req.blocks (r : Req) : List Nat :=
  let b := fieldAt r.args 0 1
  if r.op = 0x0202 then (if b = 5 then [0x05, 0x12, 0x13, 0x0E, 0x0D, 0x0C] else [b])
  else if r.op / 256 = 1 then [0x16]
  else if r.op / 256 = 2 ∨ r.op / 256 = 8 then [0x14]
  else if r.op = 0x0300 ∨ r.op = 0x0301 then [0x16]
  else if r.op / 256 = 3 then [0x05]
  else if r.op / 256 = 4 then [0x17]
  else if r.op = 0x0500 ∨ r.op = 0x0501 then [b]
  else if r.op = 0x0502 ∨ r.op = 0x0503 then [fieldAt r.args 3 1]
  else if r.op / 256 = 5 ∨ r.op / 256 = 6 then [0x18]
  else if r.op / 256 = 7 then [0x19]
  else if r.op / 256 = 9 then [0x0B]
  else if r.op / 256 = 0xA then [0x06, 0x07]
  else if r.op = 0x0B00 then (List.range (fieldAt r.args 0 2)).map fun i => (adrOf (fieldAt r.args (4 + 4 * i) 4)).1
  else if r.op = 0x0B01 then (wrEntries r.args).map fun e => (adrOf e.1).1
  else if r.op = 0x0B02 ∨ r.op = 0x0B03 then [(adrOf (fieldAt r.args 0 4)).1]
  else if r.op / 256 = 0xC then [0x04]
  else []

/-- An accepted request may start: none accepted before it and not completed acts on one of its blocks, nor is it kept
back by `ORDERED` in its mailbox (R361). -/
def State.mayStart (s : State) (r : Req) : Bool :=
  s.reqs.all fun q => decide (r.no ≤ q.no) || q.ready.isSome ||
    (!(q.blocks.any r.blocks.contains) && !(decide (q.mb = r.mb) && (bitOf q.flags 2 || bitOf r.flags 2)))

/-- Changes a request. -/
def State.updReq (s : State) (no : Nat) (f : Req → Req) : State :=
  { s with reqs := s.reqs.map fun (r : Req) => if r.no = no then f r else r }

/-- A response: status, reason, payload. -/
abbrev Rsp := Nat × Nat × List Byte

/-- Forms the response of a request. -/
def State.respond (s : State) (no : Nat) (x : Rsp) : State :=
  s.updReq no fun r => { r with done := true, status := x.1, reason := x.2.1, rsp := x.2.2 }

/-- The opcode is `serving`: by boot ROM 1, by firmware 2. -/
def State.serving (s : State) : Nat := if s.on V.fwUp then 2 else 1

/-- REQUEST_START: the token is judged, then the opcode (R360, R362, R503, R504). -/
def requestStart (rq : ReqId) (s : State) : State :=
  match s.reqs.find? fun r => decide (r.mb = rq.mb.val ∧ r.tag = rq.tag.toNat ∧ r.run = false) with
  | none => s
  | some r =>
    if !s.mayStart r then s
    else
      let t := s.updReq r.no fun x => { x with run := true }
      let j := t.judge r
      if j.2 ≠ 0 then
        ((j.1.count R.TKB_CNT_AUTHFAIL).post 0x03 0x10 warning noInst [r.mb, r.op, Config.causeCode (100 + j.2)]).respond r.no
          (0x0007, 0, [])
      else if r.op ∉ casgusOps then j.1.respond r.no (0x0008, 0, [])
      else if !s.on V.fwUp ∧ r.op ∉ romOps then j.1.respond r.no (0x0010, 0, [])
      else j.1.when (t.sdsFree r && !r.auth) fun u =>
        u.post 0x1A 0x11 warning noInst [r.op, fieldAt r.args 0 4, u.serving]

/-- REQUEST_TIMEOUT: effects already had stand (R374). -/
def requestTimeout (rq : ReqId) (s : State) : State :=
  match s.reqs.find? fun r => decide (r.mb = rq.mb.val ∧ r.tag = rq.tag.toNat ∧ r.run = true ∧ r.ready = none ∧
      (r.done = false ∨ r.waits ≠ [])) with
  | none => s
  | some r => ({ s with works := s.works.filter fun (w : Work) => decide (w.no ≠ r.no) }.updReq r.no fun x => { x with waits := [] }).respond
      r.no (0x0013, 0, [])

/-- The action of an opcode on a started request whose response is not formed: its effect and its response. A response
above the transport's limit gives 0x0009, and then the request has no effect (R375). -/
def State.serve (s : State) (rq : ReqId) (op : Nat) (f : Req → List Byte → State → State × Rsp) : State :=
  match s.reqs.find? fun r => decide (r.mb = rq.mb.val ∧ r.tag = rq.tag.toNat ∧ r.run = true ∧ r.done = false ∧ r.op = op) with
  | none => s
  | some r =>
    let x := f r r.args s
    if r.limit < x.2.2.2.length then s.respond r.no (0x0009, 0, []) else x.1.respond r.no x.2

/-- A response with a status alone. -/
def rsp (st : Nat) : Rsp := (st, 0, [])
/-- A response `OK` with a payload. -/
def rspOk (b : List Byte) : Rsp := (0, 0, b)

/-! ## Commands -/

/-- Meaning of CASGUS_SEND (R354). -/
def execCasgusSend (id : CmdId) (raw : List Byte) (s : State) : Host.Outcome State Fault Refusal :=
  .next (casgusSend id raw s)

/-- Meaning of CASGUS_RECEIVE (R355). -/
def execCasgusReceive (id : CmdId) (len : BitVec 32) (wait : Bool) (limit : BitVec 32) (s : State) : Host.Outcome State Fault Refusal :=
  .next (casgusReceive id len wait limit s)

/-- Meaning of RECEIVE_WAIT_EXPIRY (R355). -/
def execReceiveWaitExpiry (id : CmdId) (s : State) : Host.Outcome State Fault Refusal :=
  .next (receiveWaitExpiry id s)

/-- Meaning of NVME_MI_REQUEST (R356). -/
def execNvmeMiRequest (raw : List Byte) (s : State) : Host.Outcome State Fault Refusal :=
  .next (nvmeMiRequest raw s)

/-- Meaning of NVME_MI_RECEIVE (R356). -/
def execNvmeMiReceive (len : BitVec 32) (s : State) : Host.Outcome State Fault Refusal :=
  .next (nvmeMiReceive len s)

/-- Meaning of MCTP_EID_REASSIGN (R352). -/
def execMctpEidReassign (eid : BitVec 16) (s : State) : Host.Outcome State Fault Refusal :=
  .next (mctpEidReassign eid s)

/-- Meaning of REQUEST_START (R361). -/
def execRequestStart (rq : ReqId) (s : State) : Host.Outcome State Fault Refusal :=
  .next (requestStart rq s)

/-- Meaning of REQUEST_TIMEOUT (R374). -/
def execRequestTimeout (rq : ReqId) (s : State) : Host.Outcome State Fault Refusal :=
  .next (requestTimeout rq s)

/-- Meaning of SOURCE_EDGE (R364). -/
def execSourceEdge (s : State) : Host.Outcome State Fault Refusal :=
  .next (sourceEdge s)

/-- Meaning of GPIO_INPUT_CHANGE (R367). -/
def execGpioInputChange (pin : Fin 16) (level : Bool) (s : State) : Host.Outcome State Fault Refusal :=
  .next (gpioInputChange pin level s)

/-- Meaning of CLP_CLAIM_WRITE (R364). -/
def execClpClaimWrite (sender bank : Fin 64) (hi : Bool) (v : BitVec 32) (s : State) : Host.Outcome State Fault Refusal :=
  .next (clpClaimWriteCmd sender bank hi v s)

/-- Meaning of CLP_DONE_WRITE (R364). -/
def execClpDoneWrite (sender bank : Fin 64) (hi : Bool) (v : BitVec 32) (s : State) : Host.Outcome State Fault Refusal :=
  .next (clpDoneWriteCmd sender bank hi v s)

/-- Meaning of CLP_SRC_WRITE (R368). -/
def execClpSrcWrite (src : Fin 512) (v : BitVec 32) (hw : Bool) (s : State) : Host.Outcome State Fault Refusal :=
  .next (clpSrcWriteCmd src v hw s)

end Sys2Proof.Machine
end

