-- ==== Sys2Proof/Machine/Memory.lean ====
section
/-!
DEFINITION. HBM and the system cache (chapter "HBM and the Pocket system cache", R391 to R406).
-/

namespace Sys2Proof.Machine

/-! ## Rates and training (R391 to R393) -/

/-- The limit Parasol sets on the HBM rate, as a rate code (R391, R442). -/
def State.rateLimit (s : State) : Nat :=
  let c := s.get R.PSL_STAT_STEP_CTL
  let h := s.get R.PSL_STAT_STEP_HBM
  Nat.min (if c < 5 then 3 else if c = 5 then 1 else 0) (if h = 0 then 3 else if h = 1 then 1 else 0)

/-- The rate that is to be in force: the lower of `RATE` and Parasol's limit; 6.4 Gbit/s only where both stacks have been trained
at it (R391; DEDUCED, log entry 95). -/
def State.rateWant (s : State) : Nat :=
  let r := Nat.min (s.get (R.HBM_CTL_RATE 0)) s.rateLimit
  if r = 3 ∧ !(s.on (V.hbmTop 0) && s.on (V.hbmTop 1)) then 2 else r

/-- A switch starts when the rate to be in force differs from the one that is (R393). -/
def State.rateCheck (s : State) (psl : Bool) : State :=
  if s.rateWant ≠ s.get (R.HBM_STAT_RATE_EFF 0) ∧ s.on (R.HBM_STAT_TRAINED 0) ∧ s.on (R.HBM_STAT_TRAINED 1) then
    s.puts [(V.hbmSw, 1), (V.hbmSwPsl, b2n psl)]
  else s

/-- Writes `RATE`, the one field of both stacks (R391). -/
def State.setRate (s : State) (rate : Nat) : State :=
  (s.puts [(R.HBM_CTL_RATE 0, rate), (R.HBM_CTL_RATE 1, rate)]).rateCheck false

/-- HBM_RATE_WRITE. -/
def hbmRateWriteCmd (rate : Fin 4) (s : State) : State := s.setRate rate

/-- HBM_RATE_SWITCH_DONE. -/
def hbmRateSwitchDone (s : State) : State :=
  if !s.on V.hbmSw then s
  else
    let old := s.get (R.HBM_STAT_RATE_EFF 0)
    let n := s.rateWant
    let t := s.puts [(V.hbmSw, 0), (R.HBM_STAT_RATE_EFF 0, n), (R.HBM_STAT_RATE_EFF 1, n)]
    (((t.evt (R.HBM_EVT_RATE_CHG 0)).evt (R.HBM_EVT_RATE_CHG 1)).post 0x09 0x13 info noInst
      [old, n, Config.causeCode (110 + s.get V.hbmSwPsl)]).rateCheck (s.on V.hbmSwPsl)

/-- HBM_TRAINING_DONE: a stack that fails is retrained up to three times (R392). -/
def hbmTrainingDone (k : Fin 2) (ok : Bool) (channel : BitVec 8) (s : State) : State :=
  if s.on (R.HBM_STAT_TRAINED k) ∨ s.on (R.HBM_STAT_OFF k) then s
  else if ok then
    let t := s.puts [(R.HBM_STAT_TRAINED k, 1), (V.hbmTry k, 0), (V.hbmTop k, b2n (decide (s.get (R.HBM_CTL_RATE 0) = 3)))]
    (t.put (R.HBM_STAT_RATE_EFF k) t.rateWant).when (t.on (R.HBM_STAT_TRAINED (1 - k))) fun u => u.put (R.HBM_STAT_RATE_EFF (1 - k)) t.rateWant
  else if s.get (V.hbmTry k) < 3 then (s.bump (V.hbmTry k) 1).count (R.HBM_CNT_RETRAIN k)
  else (s.evt (R.HBM_EVT_TRAIN_FAIL k)).post 0x09 0x12 error k [k, s.get (R.HBM_CTL_RATE 0), channel.toNat]

/-! ## ECC and scrub (R395 to R397) -/

/-- HBM_CORRECTED_ERROR: the corrected data is written back. -/
def hbmCorrectedError (k : Fin 2) (s : State) : State := (s.evt (R.HBM_EVT_CE k)).count (R.HBM_CNT_CE k)

/-- 64-byte blocks of a stack. -/
def stackBlocks : Nat := 268435456

/-- HBM_PATROL_SCRUB: the next 64-byte block; a completed pass shows and reports its corrections (R396). -/
def hbmPatrolScrub (k : Fin 2) (corrected : Bool) (s : State) : State :=
  if !s.on (R.HBM_CTL_SCRUB_EN k) ∨ s.on (R.HBM_STAT_OFF k) then s
  else
    let t := s.when corrected fun t =>
      (((t.bump (V.hbmFix k) 1).count (R.HBM_CNT_SCRUBFIX k)).evt (R.HBM_EVT_CE k)).count (R.HBM_CNT_CE k)
    if t.get (V.hbmPos k) + 1 < stackBlocks then t.bump (V.hbmPos k) 1
    else
      let n := t.get (V.hbmFix k)
      ((t.puts [(V.hbmPos k, 0), (V.hbmFix k, 0)]).evt (R.HBM_EVT_SCRUB_DONE k)).when (decide (n ≠ 0)) fun u =>
        u.post 0x09 0x10 info k [k, n]

/-- SELF_REFRESH_EXIT: the first request that misses Pocket, or a wake (R397, R493). -/
def selfRefreshExit (s : State) : State := s.srefOff

/-! ## Range operations (R401) -/

/-- A line lies in the range of the range registers. -/
def State.inRange (s : State) (line : Nat) : Bool :=
  decide (s.get R.PKT_RNG_BASE_LINE ≤ line ∧ line < s.get R.PKT_RNG_BASE_LINE + s.get R.PKT_RNG_LEN_LINES)

/-- Every line of Pocket with its key split. -/
def State.lines (s : State) : List (Nat × Nat × Line) :=
  s.pkt.filterMap fun e => e.2.map fun l => (e.1 / 16, e.1 % 16, l)

/-- A `GO` with an operation; the number is the status (R401). -/
def State.pktRange (s : State) (op : Nat) : State × Nat :=
  let s := s.put R.PKT_RNG_CMD_OP op
  if op = 0 ∨ s.get R.PKT_RNG_LEN_LINES = 0 then (s, 0x0009)
  else if s.on R.PKT_STAT_RNG_BUSY ∨ s.on R.PKT_STAT_BUSY ∨ !s.on R.PKT_CTL_EN then (s.evt R.PKT_EVT_RNG_REFUSED, 0)
  else
    let hit := s.lines.filter fun x => s.inRange (lineNo x.1 x.2.2.tag)
    let t := s.forAll hit fun x u =>
      if op = 1 then u.setLine x.1 x.2.1 none
      else if op = 2 then u.writeBack x.1 x.2.1
      else (u.writeBack x.1 x.2.1).setLine x.1 x.2.1 none
    ((t.put R.PKT_STAT_RNG_BUSY 1).showPkt, 0)

/-- PKT_INVALIDATE. -/
def pktInvalidate (s : State) : State := (s.pktRange 1).1
/-- PKT_CLEAN. -/
def pktClean (s : State) : State := (s.pktRange 2).1
/-- PKT_CLEAN_INVALIDATE. -/
def pktCleanInvalidate (s : State) : State := (s.pktRange 3).1

/-! ## Enable and disable (R402, R403) -/

/-- `PKT_CTL.EN` 0→1. -/
def State.pktEnable (s : State) : State × Nat :=
  if s.on R.PKT_STAT_BUSY then (s, 0)
  else s.enable R.PKT_CTL_EN R.PKT_CHK_REASON
    [(!(s.on (R.HBM_STAT_TRAINED 0) && s.on (R.HBM_STAT_TRAINED 1)), 0x0A01),
     ((List.range 16).any fun c => !s.on (R.PKT_CLS_WAYS c), 0x0A02)]
    fun t => { t with pkt := [] }.showPkt

/-- PKT_ENABLE. -/
def pktEnableCmd (s : State) : State := s.pktEnable.1

/-- `PKT_CTL.EN` 1→0: a full clean, after a range operation that runs. -/
def State.pktDisable (s : State) : State :=
  if !s.on R.PKT_CTL_EN ∨ s.on R.PKT_STAT_BUSY then s
  else s.puts [(R.PKT_STAT_BUSY, 1), (V.pktWb, s.get R.PKT_DIRTY_DIRTY)]

/-- PKT_DISABLE. -/
def pktDisableCmd (s : State) : State := s.pktDisable

/-- Writes every dirty line back. -/
def State.cleanAll (s : State) : State := (s.forAll s.lines fun x u => u.writeBack x.1 x.2.1).showPkt

/-- PKT_CLEAN_DONE: the last write-back of the disable clean has been accepted; `duration` in µs. -/
def pktCleanDone (duration : BitVec 32) (s : State) : State :=
  if !s.on R.PKT_STAT_BUSY ∨ s.on R.PKT_STAT_RNG_BUSY then s
  else
    let t := { s.cleanAll with pkt := [] }.showPkt
    ((t.puts [(R.PKT_CTL_EN, 0), (R.PKT_STAT_BUSY, 0)]).evt R.PKT_EVT_CLEAN_DONE).post 0x0A 0x11 info noInst
      [s.get V.pktWb, duration.toNat]

/-- PKT_RANGE_DONE. -/
def pktRangeDone (s : State) : State :=
  if !s.on R.PKT_STAT_RNG_BUSY then s else (s.put R.PKT_STAT_RNG_BUSY 0).evt R.PKT_EVT_RNG_DONE

/-- PKT_LFSR_SEED: a write of 0 is ignored (R400). -/
def pktLfsrSeed (v : BitVec 32) (s : State) : State := if v.toNat = 0 then s else s.put R.PKT_LFSR_LFSR v.toNat

/-- POCKET_UNCORRECTABLE: a tag or data error that cannot be corrected; dirty data is written back poisoned, after a tag
error too (R398). -/
def pocketUncorrectable (set : Fin 32768) (way : Fin 16) (s : State) : State :=
  match s.pline set way with
  | none => s
  | some l =>
    let adr := lineNo set l.tag * 128
    let t := ((s.evt R.PKT_EVT_UE).count R.PKT_CNT_UE).post 0x0A 0x10 error noInst [set, way, adr]
    if l.dirty then
      let u := (t.writeBack set way).setLine set way none
      { u with poison := u.poison ++ [adr / 64, adr / 64 + 1] }.showPkt
    else (t.setLine set way none).showPkt

/-! ## Commands -/

/-- Meaning of HBM_TRAINING_DONE (R392). -/
def execHbmTrainingDone (k : Fin 2) (ok : Bool) (channel : BitVec 8) (s : State) : Host.Outcome State Fault Refusal :=
  .next (hbmTrainingDone k ok channel s)

/-- Meaning of HBM_RATE_WRITE (R391). -/
def execHbmRateWrite (rate : Fin 4) (s : State) : Host.Outcome State Fault Refusal :=
  .next (hbmRateWriteCmd rate s)

/-- Meaning of HBM_RATE_SWITCH_DONE (R393). -/
def execHbmRateSwitchDone (s : State) : Host.Outcome State Fault Refusal :=
  .next (hbmRateSwitchDone s)

/-- Meaning of HBM_CORRECTED_ERROR (R395). -/
def execHbmCorrectedError (k : Fin 2) (s : State) : Host.Outcome State Fault Refusal :=
  .next (hbmCorrectedError k s)

/-- Meaning of HBM_PATROL_SCRUB (R396). -/
def execHbmPatrolScrub (k : Fin 2) (corrected : Bool) (s : State) : Host.Outcome State Fault Refusal :=
  .next (hbmPatrolScrub k corrected s)

/-- Meaning of SELF_REFRESH_EXIT (R397). -/
def execSelfRefreshExit (s : State) : Host.Outcome State Fault Refusal :=
  .next (selfRefreshExit s)

/-- Meaning of POCKET_UNCORRECTABLE (R398). -/
def execPocketUncorrectable (set : Fin 32768) (way : Fin 16) (s : State) : Host.Outcome State Fault Refusal :=
  .next (pocketUncorrectable set way s)

/-- Meaning of PKT_ENABLE (R402). -/
def execPktEnable (s : State) : Host.Outcome State Fault Refusal :=
  .next (pktEnableCmd s)

/-- Meaning of PKT_DISABLE (R402). -/
def execPktDisable (s : State) : Host.Outcome State Fault Refusal :=
  .next (pktDisableCmd s)

/-- Meaning of PKT_CLEAN_DONE (R402). -/
def execPktCleanDone (duration : BitVec 32) (s : State) : Host.Outcome State Fault Refusal :=
  .next (pktCleanDone duration s)

/-- Meaning of PKT_INVALIDATE (R401). -/
def execPktInvalidate (s : State) : Host.Outcome State Fault Refusal :=
  .next (pktInvalidate s)

/-- Meaning of PKT_CLEAN (R401). -/
def execPktClean (s : State) : Host.Outcome State Fault Refusal :=
  .next (pktClean s)

/-- Meaning of PKT_CLEAN_INVALIDATE (R401). -/
def execPktCleanInvalidate (s : State) : Host.Outcome State Fault Refusal :=
  .next (pktCleanInvalidate s)

/-- Meaning of PKT_RANGE_DONE (R401). -/
def execPktRangeDone (s : State) : Host.Outcome State Fault Refusal :=
  .next (pktRangeDone s)

/-- Meaning of PKT_LFSR_SEED (R400). -/
def execPktLfsrSeed (v : BitVec 32) (s : State) : Host.Outcome State Fault Refusal :=
  .next (pktLfsrSeed v s)

end Sys2Proof.Machine
end

