-- ==== Sys2Proof/Machine/Command.lean ====
section
/-!
DEFINITION. The command engine (chapter "Command engine and queueing", R279 to R308): controllers, admin commands, namespaces,
the I/O commands of the NVM and Zoned Namespace sets, self-test, intake, the Juggler.
-/

namespace Sys2Proof.Machine

/-! ## Controllers (R280 to R282, R303, R304) -/

/-- A keep-alive timeout in ms that is accepted: 0, or 1 s to 3,600 s (R304). -/
def katoOk (ms : Nat) : Bool := decide (ms = 0 ∨ 1000 ≤ ms ∧ ms ≤ 3600000)

/-- The timeout in the timer's 1 s steps. -/
def katoSec (ms : Nat) : Nat := ceilDiv ms 1000

/-- Queue pairs that controllers hold, of the pool of 8,192 (R281). -/
def State.pairsUsed (s : State) : Nat :=
  s.ctrls.foldl (fun n e => n + (match e.2 with | some c => c.pairs | none => 0)) 0

/-- The answer to a Connect, which no controller need exist for. -/
def State.connectReply (s : State) (qid cid : Nat) (st : Stat) (dw0 : Nat) : State :=
  { s with cqs := s.cqs ++ [⟨⟨0xFFFF, qid, cid⟩, st.1, st.2, decide (st ≠ stOk), dw0, .none⟩] }

/-- The 32-bit words of an address, most significant first. -/
def addrWords (a : Nat) : List Nat := [a / 2 ^ 96, a / 2 ^ 64 % 2 ^ 32, a / 2 ^ 32 % 2 ^ 32, a % 2 ^ 32]

/-- The discovery log of R313: one entry for each address in service and each transport the network record enables (`NFLAGS`
[0] RoCEv2, [1] TCP): port, transport 1 TCP or 2 RoCEv2, address family 1 IPv4 or 2 IPv6, service 4420, the address. -/
def State.discLog (s : State) : List Nat :=
  (s.addrs.filter fun x => x.ok).flatMap fun x =>
    ([(1, 1), (0, 2)].filter fun b => bitOf (beNat (getBytes s.opt 0x87 1)) b.1).flatMap fun b =>
      [x.holder, b.2, 1 + b2n x.v6, 4420] ++ addrWords x.addr

/-- CONNECT (R280 to R282, R304, R306, R313). A controller of the discovery subsystem has an admin queue alone (log entry 33). -/
def connect (cid qid cntlid : BitVec 16) (entries : Nat) (noFlow : Bool) (kato : BitVec 32) (hostId : BitVec 128)
    (hostNqn : List Byte) (member : Bool) (conn : ConnData) (s : State) : State :=
  let no (st : Stat) : State := s.connectReply qid.toNat cid.toNat st 0
  if !s.on R.CMD_CTL_EN then no stBusy
  else if qid.toNat = 0 then
    if cntlid.toNat ≠ 0xFFFF ∨ 256 ≤ s.ctrls.length ∨ 8192 ≤ s.pairsUsed then no stBusy
    else if noFlow ∨ !inR 2 32 entries then no stConnect
    else if !katoOk kato.toNat then no stField
    else
      match ((List.range 256).map (· + 1)).find? fun c => (s.ctrl c).isNone with
      | none => no stBusy
      | some c =>
        let x : Ctrl := ⟨hostId.toNat, hostNqn, b2n (!conn.disc), conn.disc, katoSec kato.toNat, 0, [], [], [], [], [], member,
          [conn.tr] ++ addrWords conn.addr.toNat ++ [entries, conn.digests.toNat, conn.inCap.toNat, kato.toNat], [], conn.disc⟩
        let nss := s.nss.map fun (e : Nat × Option Ns) => (e.1, e.2.map fun n => if n.frag ∧ member then { n with att := n.att ++ [c] } else n)
        ({ s with visit := s.visit ++ [(c, 0)], nss := nss }.setCtrl c (some x)).connectReply 0 cid.toNat stOk c
  else
    match s.ctrl cntlid.toNat with
    | none => no stConnect
    | some x =>
      if noFlow ∨ !inR 2 4096 entries ∨ x.pairs < qid.toNat then no stConnect
      else (s.setCtrl cntlid.toNat (some { x with lostq := x.lostq.filter fun q => decide (q ≠ qid.toNat) })).connectReply qid.toNat
        cid.toNat stOk cntlid.toNat

/-- Logs a self-test result (R291). -/
def State.endTest (s : State) (code : Nat) : State :=
  match s.test with
  | none => s
  | some t =>
    let f := t.failed = 4
    { s with test := none,
             testLog := ([code, if t.ext then 2 else 1, if code = 7 then t.failed else 0, if f then t.failNs else 0,
               if f then t.failLba else 0, if f then 0x281 else 0, s.opsec / 3600] :: s.testLog).take 20 }

/-- A controller is torn down (R303, R352): its commands without work under way are dropped, the others run to their end
with their completions discarded. The number is the commands discarded. -/
def State.tearDown (s : State) (c : Nat) : State × Nat :=
  match s.ctrl c with
  | none => (s, 0)
  | some _ =>
    let mine := s.cmds.filter fun d => decide (d.id.cntlid = c)
    let keep (d : Cmd) : Bool := d.begun && (decide (d.parts ≠ 0) || !d.points.isEmpty)
    let t := { s with cmds := s.cmds.filter (fun d => decide (d.id.cntlid ≠ c) || keep d),
                      visit := s.visit.filter (fun v => decide (v.1 ≠ c)),
                      held := s.held.filter (fun h => decide (h.1 ≠ c)),
                      errlog := s.errlog.filter (fun e => decide (e.id.cntlid ≠ c)),
                      nss := s.nss.map fun (e : Nat × Option Ns) => (e.1, e.2.map fun (n : Ns) => { n with att := n.att.filter fun x => decide (x ≠ c) }) }
    let mb := t.mbOf c
    let t := (t.setCtrl c none).drainDeletes.showCmds
    let t := match mb with
      | some n => t.mbRelease n
      | none => t
    (t.budgetChanged, mine.length)

/-- DISCONNECT. -/
def disconnect (c : BitVec 16) (s : State) : State := (s.tearDown c.toNat).1

/-- CONTROLLER_RESET: a self-test that the controller started is aborted with it (R291). -/
def controllerReset (c : BitVec 16) (s : State) : State :=
  let s := if s.test.any fun t => decide (t.by_.cntlid = c.toNat) then s.endTest 2 else s
  (s.tearDown c.toNat).1

/-- KATO_EXPIRY. -/
def katoExpiry (c : BitVec 16) (s : State) : State :=
  match s.ctrl c.toNat with
  | none => s
  | some x =>
    if x.kato = 0 then s
    else
      let r := s.tearDown c.toNat
      ((r.1.count R.CMD_CNT_KATO).evt R.CMD_EVT_KATO_EXP).post 0x02 0x11 info noInst [c.toNat, x.hostId, r.2]

/-- KEEP_ALIVE: the timer restarts (R304); time is no state of the model beyond KATO_EXPIRY. -/
def keepAlive (id : CmdId) (s : State) : State := s.admin id fun _ t => t.answer id stOk

/-- Changes the controller of a command and completes it. -/
def State.withCtrl (s : State) (id : CmdId) (f : Ctrl → Ctrl) : State :=
  match s.ctrl id.cntlid with
  | some x => (s.setCtrl id.cntlid (some (f x))).answer id stOk
  | none => s

/-! ## Identify, logs, features (R284, R286) -/

/-- EDSTT in minutes (R291): one revolution plus skew for each data track of the actuator with the most data tracks, at
7,200 r/min, rounded up, plus 2. -/
def State.edstt (s : State) : Nat :=
  let tracks := ((List.range s.nact).map fun a => ((s.headsOf a).map fun h => s.maxTrk h + 1).foldl (· + ·) 0).foldl Nat.max 0
  if s.fmtW = 0 then 2 else ceilDiv (tracks * (s.fmtW + s.fmtSkew)) (7200 * s.fmtW) + 2

/-- Identify Controller, in the order of R284, then CNTRLTYPE, CNTLID, EDSTT and the free bands of each actuator. -/
def State.idCtrl (s : State) (c : Nat) : List Nat :=
  [9, 4096, 0x66, 0x44, 516, 1, 0, 7, 15, 0x001E, 0x009C, 0, 0x07, 0x3, 1024, 1024, 5, 10, 1, 63, 63, c, s.edstt] ++
    (List.range 4).map fun a => s.get (R.MMG_POOL_FREE a)

/-- Identify of a storage namespace: NSZE, NCAP, block size, NAWUN, NAWUPF, command set, and for a zoned one the zone size,
MAR, MOR, descriptor extension units and ZASL (R249, R250, R257, R288, R290). -/
def Ns.ident (n : Ns) : List Nat :=
  let c := (maskActs n.mask).length
  [n.nsze, n.nsze, 4096, 63, 63, n.csi] ++ if n.csi = 2 then [zoneSize, 64 * c - 1, 64 * c - 1, 1, 8] else []

/-- NSIDs attached to a controller, ascending: storage, then the nine fixed namespaces (R287). -/
def State.activeNs (s : State) (c : Nat) : List Nat :=
  (s.nss.filterMap fun e => match e.2 with
    | some n => if n.att.contains c then some e.1 else none
    | none => none) ++ (List.range 9).map (· + 1016)

/-- Track A of the start has ended: HBM is trained (R485, R487). -/
def State.trackA (s : State) : Bool := s.on (R.HBM_STAT_TRAINED 0) && s.on (R.HBM_STAT_TRAINED 1) && s.on V.fwUp

/-- NVME_IDENTIFY: CNS 00h, 05h and 11h a namespace, 01h and 06h the controller, 02h and 10h namespace lists, 12h and 13h
controller lists (numbers of NVMe Base 2.1, log entry 9). -/
def nvmeIdentify (id : CmdId) (cns csi : BitVec 8) (nsid : BitVec 32) (s : State) : State :=
  s.admin id fun _ t =>
    let n := nsid.toNat
    let k := cns.toNat
    let out (l : List Nat) : State := t.complete id stOk 0 (.fields l)
    if k = 1 then out (t.idCtrl id.cntlid)
    else if k = 6 then (if csi.toNat ≤ 4 then out (t.idCtrl id.cntlid) else t.answer id stField)
    else if k = 2 then out ((t.activeNs id.cntlid).filter fun x => decide (n < x))
    else if k = 0x10 then out ((t.nss.map (fun (e : Nat × Option Ns) => e.1) ++ (List.range 9).map (· + 1016)).filter fun x => decide (n < x))
    else if k = 0x13 then out t.ctrlIds
    else if k = 0 ∨ k = 5 ∨ k = 0x11 ∨ k = 0x12 then
      if n = 0 ∨ 1024 < n then t.answer id stNs
      else if 1016 ≤ n then
        (if !t.trackA then t.answer id stNotReady
         else if k = 0x12 then out t.ctrlIds
         else out (if n = 1024 then [6442450944] else [16]))
      else if !t.on R.RMC_STAT_IO_READY then t.answer id stNotReady
      else match t.ns n with
        | none => out []
        | some x =>
          if k = 0x12 then out x.att
          else if k ≠ 0x11 ∧ !x.att.contains id.cntlid then out []
          else if k = 5 ∧ x.csi ≠ csi.toNat then t.answer id stField
          else out x.ident
    else t.answer id stField

/-- Temperatures used by Parasol, sensors 0 to 4, in 0.1 °C, signed (R441). -/
def State.tempUsed (s : State) (i : Nat) : Int := s.getI (R.PSL_TEMP_USED i)

/-- The Composite Temperature (R438). -/
def State.tempComposite (s : State) : Int := ((List.range 5).map s.tempUsed).foldl (fun (m x : Int) => if m < x then x else m) (-32768)

/-- SMART / Health Information: critical warnings, composite and five temperatures in 0.1 °C + 32,768, Available Spare and
its threshold, power cycles, operating hours, error log entries (R246, R286, R429, R438). -/
def State.smart (s : State) : List Nat :=
  [s.get R.MMG_STAT_SPARE_LOW, (s.tempComposite + 32768).toNat] ++ (List.range 5).map (fun i => (s.tempUsed i + 32768).toNat) ++
    [s.spareNow, s.get R.MMG_CFG_SPARE_THR, s.get R.CVN_PCYC_CYCLES, s.opsec / 3600, s.errlog.length]

/-- Admin and I/O opcodes supported (R285, R290; numbers of the NVMe specifications, log entry 9). -/
def opcodesSupported : List Nat :=
  [0x02, 0x06, 0x08, 0x09, 0x0A, 0x0C, 0x0D, 0x10, 0x11, 0x14, 0x15, 0x18, 0x7F, 0x80, 0x84, 0xC0, 0xC1]

/-- Data tracks of items of an overwrite. -/
def State.unitTracks (s : State) (l : List (Nat × Nat)) : Nat :=
  (l.map fun u => if u.1 = 0 then bandData (s.bandK u.2) else 1).foldl (· + ·) 0

/-- Progress of a sanitize in 1/65,536: the fraction of tracks written on the actuator with the most tracks left (R274). -/
def State.sanProgress (s : State) : Nat :=
  let l := (s.mops.filter fun o => decide (o.typ = 3 ∧ o.nsid = 0)).map fun o => (s.unitTracks (o.todo.drop o.copied), s.unitTracks o.todo)
  let m := l.foldl (fun (m p : Nat × Nat) => if m.1 < p.1 then p else m) (0, 0)
  if m.2 = 0 then 65535 else (m.2 - m.1) * 65536 / m.2

/-- Estimated Time For Block Erase in s: one revolution plus skew for each data track of the actuator with the most (R274). -/
def State.sanTime (s : State) : Nat :=
  let tracks := ((List.range s.nact).map s.layTracks).foldl Nat.max 0
  if s.fmtW = 0 then 0 else ceilDiv (tracks * (s.fmtW + s.fmtSkew)) (120 * s.fmtW)

/-- GET_LOG_PAGE (R286), and on a controller of the discovery subsystem the Discovery Log Page, 70h (R313). -/
def getLogPage (id : CmdId) (lid : BitVec 8) (nsid : BitVec 32) (s : State) : State :=
  s.admin id fun _ t =>
    let k := lid.toNat
    let out (u : State) (l : List Nat) : State := u.complete id stOk 0 (.fields l)
    if k = 0x01 then out t ((t.errlog.filter fun e => decide (e.id.cntlid = id.cntlid)).flatMap fun e => [e.id.qid, e.id.cid, e.sct, e.sc])
    else if k = 0x02 then out t t.smart
    else if k = 0x03 then
      let v (i : Nat) : List Nat := if t.on (V.fwVer i) then (t.slotVer i).map (·.toNat) else List.replicate 16 0
      out t ([t.get V.fwSlot + 1, t.selCode % 2 + 1] ++ v 0 ++ v 1)
    else if k = 0x04 then
      match t.ctrl id.cntlid with
      | some x => out (t.setCtrl id.cntlid (some { x with changed := [], notices := x.notices.filter fun n => decide (n ≠ aenNs) })) x.changed
      | none => t
    else if k = 0x05 then out t opcodesSupported
    else if k = 0x06 then
      out t ((match t.test with | some x => [if x.ext then 2 else 1, x.seg] | none => [0, 0]) ++ t.testLog.flatMap (·))
    else if k = 0x81 then
      out t [t.get V.sanState, t.sanProgress, t.sanTime]
    else if k = 0x07 then
      let r := t.records
      t.complete id stOk 0 (.recs (r.drop (r.length - 512)))
    else if k = 0xBF then
      match t.ctrl id.cntlid with
      | some x =>
        let mine := x.changedZones.filter fun z => decide (z / 4294967296 = nsid.toNat)
        out (t.setCtrl id.cntlid (some { x with changedZones := x.changedZones.filter fun z => decide (z / 4294967296 ≠ nsid.toNat) }))
          (mine.map (· % 4294967296))
      | none => t
    else if k = 0x70 then
      match t.ctrl id.cntlid with
      | some x =>
        if x.disc then
          out (t.setCtrl id.cntlid (some { x with notices := x.notices.filter fun n => decide (n ≠ aenDisc) })) t.discLog
        else t.answer id stField
      | none => t
    else t.answer id stField

/-- GET_FEATURES (R286). -/
def getFeatures (id : CmdId) (fid : BitVec 8) (nsid dw11 : BitVec 32) (s : State) : State :=
  s.admin id fun _ t =>
    match t.ctrl id.cntlid with
    | none => t
    | some x =>
      let k := fid.toNat
      let out (v : Nat) : State := t.complete id stOk v .none
      if k = 0x01 then out 3
      else if k = 0x02 then out (t.get R.CVN_STAT_PS)
      else if k = 0x04 then
        let sel := dw11.toNat / 65536 % 64
        if 5 < sel % 16 then t.answer id stField
        else out (((x.temps.find? fun e => decide (e.1 = sel)).map (·.2)).getD (if sel < 16 then 65535 else 0))
      else if k = 0x06 then out (b2n (!t.on V.vwcOff))
      else if k = 0x07 then out ((x.pairs - 1) * 65537)
      else if k = 0x0B then out x.aen
      else if k = 0x0F then out (x.kato * 1000)
      else if k = 0x81 then t.complete id stOk 0 (.fields [x.hostId])
      else if k = 0xC0 then
        if nsid.toNat = 0xFFFFFFFF then out (t.get R.CVN_BUD_DEV_DEV_US)
        else match t.ns nsid.toNat with
          | some n => out n.budget
          | none => t.answer id stNs
      else t.answer id stField

/-- ARBITRATION: Arbitration Burst 3 is read-only. -/
def arbitration (id : CmdId) (ab : BitVec 3) (s : State) : State :=
  s.admin id fun _ t => t.answer id (if ab.toNat = 3 then stOk else stNotChg)

/-- POWER_MANAGEMENT: power state n writes the device budget (R286, R433). -/
def powerManagement (id : CmdId) (ps : BitVec 5) (s : State) : State :=
  s.admin id fun _ t =>
    if 5 < ps.toNat then t.answer id stField else (t.setBudget 0xFFFFFFFF (psWake ps.toNat)).1.answer id stOk

/-- TEMPERATURE_THRESHOLD. -/
def temperatureThreshold (id : CmdId) (tmpsel : BitVec 4) (under : Bool) (kelvin : BitVec 16) (s : State) : State :=
  s.admin id fun _ t =>
    if 5 < tmpsel.toNat then t.answer id stField
    else
      let k := tmpsel.toNat + 16 * b2n under
      t.withCtrl id fun x => { x with temps := (k, kelvin.toNat) :: x.temps.filter fun e => decide (e.1 ≠ k) }

/-- VOLATILE_WRITE_CACHE (R253). -/
def volatileWriteCache (id : CmdId) (wce : Bool) (s : State) : State :=
  s.admin id fun _ t => (t.put V.vwcOff (b2n (!wce))).answer id stOk

/-- NUMBER_OF_QUEUES (R281). -/
def numberOfQueues (id : CmdId) (nsq ncq : BitVec 16) (s : State) : State :=
  s.admin id fun _ t =>
    match t.ctrl id.cntlid with
    | none => t
    | some x =>
      if x.noqSet then t.answer id stSeq
      else
        let want := Nat.min nsq.toNat ncq.toNat + 1
        let g := Nat.min want (Nat.min 128 (x.pairs + (8192 - t.pairsUsed)))
        (t.setCtrl id.cntlid (some { x with pairs := g, noqSet := true })).complete id stOk ((g - 1) * 65537) .none

/-- ASYNCHRONOUS_EVENT_CONFIGURATION. -/
def asyncConfig (id : CmdId) (v : BitVec 32) (s : State) : State :=
  s.admin id fun _ t => t.withCtrl id fun x => { x with aen := v.toNat }

/-- KEEP_ALIVE_TIMER (R304). -/
def keepAliveTimer (id : CmdId) (kato : BitVec 32) (s : State) : State :=
  s.admin id fun _ t =>
    if katoOk kato.toNat then t.withCtrl id fun x => { x with kato := katoSec kato.toNat } else t.answer id stField

/-- HOST_IDENTIFIER: 128-bit only. -/
def hostIdentifier (id : CmdId) (exhid : Bool) (v : BitVec 128) (s : State) : State :=
  s.admin id fun _ t => if exhid then t.withCtrl id fun x => { x with hostId := v.toNat } else t.answer id stField

/-- LATENCY_BUDGET: Set Features C0h (R286, R386). -/
def latencyBudget (id : CmdId) (nsid us : BitVec 32) (s : State) : State :=
  s.admin id fun _ t =>
    let r := t.setBudget nsid.toNat us.toNat
    r.1.answer id (if r.2 then stOk else stNs)

/-- Asynchronous Event Request Limit Exceeded (log entry 9). -/
def stAerLimit : Stat := (1, 0x05)

/-- ASYNCHRONOUS_EVENT_REQUEST: held until a notice is due; 16 at most (R284). -/
def asyncRequest (id : CmdId) (s : State) : State :=
  s.admin id fun _ t =>
    match t.ctrl id.cntlid with
    | none => t
    | some x =>
      match x.notices with
      | n :: l => (t.setCtrl id.cntlid (some { x with notices := l })).complete id stOk n .none
      | [] => if 16 ≤ x.aers.length then t.answer id stAerLimit
          else (t.setCtrl id.cntlid (some { x with aers := x.aers ++ [id] })).unflight id

/-- ABORT: a command still in its submission queue, or stalled, is aborted; any other is reported as not aborted (R303).
A held receive is not acted on (R355). -/
def abortCmd (id : CmdId) (sqid cid : BitVec 16) (inQueue : Bool) (s : State) : State :=
  s.admin id fun _ t =>
    let v : CmdId := ⟨id.cntlid, sqid.toNat, cid.toNat⟩
    match t.cmdOf v with
    | some c =>
      if c.stalled then ((t.complete v stAborted 0 .none).count R.CMD_CNT_ABORT).complete id stOk 0 .none
      else t.complete id stOk 1 .none
    | none =>
      if inQueue ∧ !(t.held.any fun h => decide (h.2.1 = v)) ∧ v ≠ id then
        ((t.complete v stAborted 0 .none).count R.CMD_CNT_ABORT).complete id stOk 0 .none
      else t.complete id stOk 1 .none

/-- UNSUPPORTED_OPCODE (R285). -/
def unsupportedOpcode (id : CmdId) (s : State) : State := s.admin id fun _ t => t.answer id stOpcode

/-! ## Namespaces (R287 to R289) -/

/-- The placement mask in force, within the build's actuators (R247). -/
def State.placeNow (s : State) : Nat := s.get V.placeMask % 2 ^ s.nact

/-- Zones or extents of a namespace that fall to an actuator. -/
def fallTo (mask n a : Nat) : Nat := ((List.range n).filter fun i => decide (placeAct mask i = a)).length

/-- Lays out one zone on four bands of the lowest class that supplies them; none when no class does (R58, R247). -/
def State.layZone (s : State) (nsid mask i : Nat) : Option State :=
  let a := placeAct mask i
  match (List.range 6).findSome? fun dc => (s.fourBands a dc true).map fun l => (dc, l) with
  | none => none
  | some (dc, l) =>
    let t := s.drew.forAll l fun id t => t.setBand id { t.band id with st := .assigned, done := 0 }
    some (t.setZone nsid i ⟨zEmpty, 0, 0, false, false, false, none, dc, 0xFFFFFFFF, 0, 0, l⟩)

/-- Lays out zones `i` onward. -/
def State.layZones (nsid mask : Nat) : List Nat → State → Option State
  | [], s => some s
  | i :: l, s => match s.layZone nsid mask i with
    | some t => State.layZones nsid mask l t
    | none => none

/-- Bands of an actuator that a new namespace can take: the free bands of each head beyond its spare bands (R59, R247). -/
def State.grantable (s : State) (a : Nat) : List Nat := (s.headsOf a).flatMap fun h => (s.freeOn h).take (s.addressable h)

/-- Draws `n` bands for the extents of an actuator, from its free bands in order of their ids. -/
def State.drawBands (s : State) (a n : Nat) : Option (State × List Nat) :=
  let free := s.grantable a
  if free.length < n then none
  else some (s.forAll (free.take n) fun id t => t.setBand id { t.band id with st := .assigned, done := 0 }, free.take n)

/-- Draws bands on several actuators, as many on each as it needs. -/
def State.drawAll (need : Nat → Nat) : List Nat → State → Option (State × List Nat)
  | [], s => some (s, [])
  | a :: l, s => match s.drawBands a (need a) with
    | none => none
    | some x => (State.drawAll need l x.1).map fun y => (y.1, x.2 ++ y.2)

/-- Entries of the index that Key Value namespaces hold or have reserved, of 134,217,728 (R288, R330). -/
def State.idxUsed (s : State) : Nat :=
  s.nss.foldl (fun m e => match e.2 with
    | some n => if n.csi = 1 then m + Nat.max 1048576 (s.kvDur.filter fun k => decide (k.1 / 2 ^ 128 = e.1)).length else m
    | none => m) 0

/-- Creates a namespace; the status, and the state with its number (R247, R251, R288, R326). -/
def State.makeNs (s : State) (csi nsze : Nat) (frag : Bool) (nsid : Nat) : State × Stat :=
  let mask := s.placeNow
  let d := s.get V.svcDef
  let kv := decide (csi = 1)
  let n : Ns := ⟨csi, nsze, mask, bitOf d 0 && !frag, bitOf d 1 && kv && !frag, bitOf d 2 && kv && !frag, bitOf d 3 && kv && !frag,
    frag, [], 0, true, [], noBudget, false, none, []⟩
  let units := if csi = 2 then nsze / zoneSize else nsze / 256
  let need (a : Nat) : Nat := if csi = 2 then 4 * fallTo mask units a else ceilDiv (fallTo mask units a) 256
  let short := (maskActs mask).any fun a => decide ((s.grantable a).length < need a)
  let done (t : State) (n : Ns) : State × Stat :=
    (((t.setNs nsid (some n)).when n.enc fun u => u.bump R.CLOAK_STAT_KEYS 1).post 0x02 0x13 info noInst [nsid, csi, nsze, mask], stOk)
  if csi = 1 then
    if 134217728 < s.idxUsed + 1048576 then (s, stNsCap) else done s n
  else if mask = 0 ∨ short then (s, stNsCap)
  else if csi = 2 then
    match State.layZones nsid mask (List.range units) (s.setNs nsid (some n)) with
    | some t => done t n
    | none => (s, stNsCap)
  else
    match State.drawAll need (maskActs mask) s with
    | some x => done x.1 { n with bands := x.2 }
    | none => (s, stNsCap)

/-- The lowest free storage NSID. -/
def State.freeNsid (s : State) : Option Nat := ((List.range 1015).map (· + 1)).find? fun n => (s.ns n).isNone

/-- NAMESPACE_CREATE. -/
def namespaceCreate (id : CmdId) (csi : BitVec 8) (nsze ncap : BitVec 64) (lbaf pi : BitVec 8) (s : State) : State :=
  s.admin id fun _ t =>
    let k := csi.toNat
    let z := nsze.toNat
    if !t.on R.RMC_STAT_IO_READY then t.answer id stNotReady
    else if 2 < k ∨ lbaf.toNat ≠ 0 ∨ pi.toNat ≠ 0 then t.answer id stInvFmt
    else if z ≠ ncap.toNat ∨ (k = 2 ∧ (z % zoneSize ≠ 0 ∨ z = 0)) ∨ (k = 0 ∧ (z % 256 ≠ 0 ∨ z = 0)) then t.answer id stField
    else match t.freeNsid with
      | none => t.answer id stNsId
      | some n =>
        let r := t.makeNs k z false n
        if r.2 = stOk then r.1.complete id stOk n .none else t.answer id r.2

/-- A Changed Namespace List notice to controllers (R289). -/
def State.nsChanged (s : State) (cs : List Nat) (nsid : Nat) : State :=
  (s.forAll cs fun c t => match t.ctrl c with
    | some x => t.setCtrl c (some { x with changed := nsid :: x.changed.filter fun n => decide (n ≠ nsid) })
    | none => t).noticeAll cs 8 aenNs

/-- The bands a namespace holds: its zones' and its extents'. -/
def State.nsBands (s : State) (nsid : Nat) : List Nat :=
  (s.zones.flatMap fun e => if e.1 / 4294967296 = nsid then ((e.2.map (·.bands)).getD []) else []) ++
    ((s.ns nsid).map (·.bands)).getD []

/-- Every operation on the bands of a namespace writes ABANDONED (R275). -/
def State.abandonNs (s : State) (nsid : Nat) : State :=
  let bs := s.nsBands nsid
  let t := s.forAll (s.mops.filter fun o => decide (o.typ ≠ 3) && (bs.contains o.src || bs.contains o.dst)) fun o t => t.abandonOp o
  t.forAll (List.range 4) fun a u => u.reclaimNext a

/-- Index entries of a namespace leave. -/
def State.dropKv (s : State) (nsid : Nat) : State :=
  { s with kvLog := s.kvLog.filter (fun o => decide (o.nsid ≠ nsid)),
           kvDur := s.kvDur.filter (fun e => decide (e.1 / 2 ^ 128 ≠ nsid)),
           stripes := s.stripes.filter fun x => decide (x.nsid ≠ nsid) }

/-- A namespace is deleted: steps 3 to 5 of R289. -/
def State.removeNs (s : State) (nsid drained ms : Nat) : State :=
  match s.ns nsid with
  | none => s
  | some n =>
    let t := (s.abandonNs nsid).forAll (s.nsBands nsid) fun b t => t.freeBand b
    let t := (t.dropNs nsid).dropKv nsid
    let t := { t with zones := t.zones.filter fun e => decide (e.1 / 4294967296 ≠ nsid) }
    let t := (t.setNs nsid none).when n.enc fun u => u.put R.CLOAK_STAT_KEYS (u.get R.CLOAK_STAT_KEYS - 1)
    let t := if t.test.any fun x => decide (x.nsid = nsid) then t.endTest 3 else t
    ((t.post 0x02 0x14 info noInst [nsid, drained, t.get V.msNow - ms]).nsChanged n.att nsid).budgetChanged

/-- NAMESPACE_DELETE: new commands fail from here on, those in flight complete, then the durable points are taken (R289). -/
def namespaceDelete (id : CmdId) (nsid : BitVec 32) (s : State) : State :=
  s.admin id fun c t =>
    let all := decide (nsid.toNat = 0xFFFFFFFF)
    let l := (t.nss.filterMap fun e => match e.2 with
      | some n => if n.del.isNone ∧ (all ∨ e.1 = nsid.toNat) then some e.1 else none
      | none => none)
    if !t.on R.RMC_STAT_IO_READY then t.answer id stNotReady
    else if l = [] ∧ !all then t.answer id stNs
    else if l = [] then t.answer id stOk
    else
      let n := (t.cmds.filter fun d => l.contains d.nsid).length
      let t := t.forAll l fun k u => match u.ns k with
        | some x => u.setNs k (some { x with del := some c.no })
        | none => u
      (t.updCmd c.no fun d => { d with parts := 1, fin := .delete l n (t.get V.msNow) }).drainDeletes

/-- NAMESPACE_ATTACHMENT: the fragment namespace takes only controllers authenticated as members (R288, R339). -/
def namespaceAttachment (id : CmdId) (nsid : BitVec 32) (attach : Bool) (ctrls : List (BitVec 16)) (s : State) : State :=
  s.admin id fun _ t =>
    let cs := ctrls.map (·.toNat)
    if !t.on R.RMC_STAT_IO_READY then t.answer id stNotReady
    else match t.ns nsid.toNat with
      | none => t.answer id stNs
      | some n =>
        if n.del.isSome then t.answer id stNs
        else if cs.any fun c => (t.ctrl c).isNone then t.answer id stField
        else if attach ∧ cs.any n.att.contains then t.answer id stNsAtt
        else if !attach ∧ cs.any fun c => !n.att.contains c then t.answer id stNsNotAtt
        else if attach ∧ n.frag ∧ cs.any fun c => !(((t.ctrl c).map (·.member)).getD false) then t.answer id stField
        else
          let att := if attach then n.att ++ cs else n.att.filter fun c => !cs.contains c
          (((t.setNs nsid.toNat (some { n with att := att })).nsChanged cs nsid.toNat).budgetChanged).answer id stOk

/-! ## Firmware and self-test (R285, R291) -/

/-- NVMe status of a Casgus status of the firmware commands. -/
def fwStat (n : Nat) : Stat :=
  if n = 0 then stOk else if n = 0x0009 then stField else if n = 0x000A ∨ n = 0x000F then stSeq else stFwImage

/-- FIRMWARE_IMAGE_DOWNLOAD. -/
def firmwareImageDownload (id : CmdId) (ofs : BitVec 32) (data : List Byte) (ok : Bool) (s : State) : State :=
  s.admin id fun _ t =>
    let r := t.fwDownHeld 0 64 ofs.toNat data ok
    r.1.answer id (fwStat r.2)

/-- FIRMWARE_COMMIT: 000b verifies, 001b and 010b verify and select for the next reset, 011b is refused (R285). -/
def firmwareCommit (id : CmdId) (action slot : BitVec 3) (ok : Bool) (s : State) : State :=
  s.admin id fun _ t =>
    if 2 < action.toNat then t.answer id stField
    else if slot.toNat ≠ 0 ∧ slot.toNat ≠ t.inactive + 1 then t.answer id stFwSlot
    else
      let r := t.fwCommit 0 (decide (action.toNat ≠ 0)) ok
      r.1.answer id (if r.2 = 0x000A then stFwImage else fwStat r.2)

/-- DEVICE_SELF_TEST (R291). -/
def deviceSelfTest (id : CmdId) (ext : Bool) (nsid : BitVec 32) (s : State) : State :=
  s.admin id fun _ t =>
    let n := nsid.toNat
    if t.test.isSome then t.answer id stTest
    else if n ≠ 0 ∧ n ≠ 0xFFFFFFFF ∧ (t.ns n).isNone then t.answer id stNs
    else ({ t with test := some ⟨ext, if n = 0xFFFFFFFF then 0 else n, 1, 0, 0, 0, 0, id⟩ }).answer id stOk

/-- SELF_TEST_ABORT: code Fh. -/
def selfTestAbort (id : CmdId) (s : State) : State := s.admin id fun _ t => (t.endTest 1).answer id stOk

/-- Segment 1: every checked enable is 1 or has its refusal latched, no sensor is at shutdown or suspect, Strongman has no
pending trip, no `VCM_OFF` and no takeover (R291, R380). -/
def State.healthy (s : State) : Bool :=
  let one (p : Fld × Fld) : Bool := s.on p.1 || s.on p.2
  [(R.FAB_CTL_EN, R.FAB_CHK_REASON), (R.CMD_CTL_EN, R.CMD_CHK_REASON), (R.TRU_CTL_EN, R.TRU_CHK_REASON),
   (R.PWK_CTL_ACT, R.PWK_CHK_REASON), (R.PKT_CTL_EN, R.PKT_CHK_REASON), (R.MMG_CTL_EN, R.MMG_CHK_REASON),
   (R.MMG_CTL_FMT_COMMIT, R.MMG_CHK_REASON), (R.TRZ_CTL_EN, R.TRZ_CHK_REASON), (R.CRL_CTL_EN, R.CRL_CHK_REASON),
   (R.STM_CTL_EN, R.STM_CHK_REASON), (R.TFH_CTL_EN, R.TFH_CHK_REASON), (R.SNT_CTL_EN, R.SNT_CHK_REASON)].all one &&
  (List.range s.nact).all (fun a => [(R.CHN_CTL_EN a, R.CHN_CHK_REASON a), (R.SEQ_CTL_EN a, R.SEQ_CHK_REASON a),
    (R.SRV_CTL_EN a, R.SRV_CHK_REASON a), (R.SPT_CTL_EN a, R.SPT_CHK_REASON a)].all one) &&
  (List.range 5).all (fun i => decide (s.get R.PSL_STAT_LEVEL / 4 ^ i % 4 ≠ 3)) && !s.on R.PSL_STAT_SUSPECT &&
  !s.on V.stmOcPend && !s.on R.STM_STAT_VCM_OFF && !s.on R.STM_STAT_SM_ACTIVE

/-- `SRV_CNT_SEEKERR` and `SRV_CNT_LOCKLOSS` of every actuator, added up (R291). -/
def State.servoMarks (s : State) : Nat :=
  ((List.range 4).map fun a => s.get (R.SRV_CNT_SEEKERR a) + s.get (R.SRV_CNT_LOCKLOSS a)).foldl (· + ·) 0

/-- SELF_TEST_SEGMENT: the segment in progress ends; segment 1 is judged from the state, segment 3 by the servo counters too, the others
by what the media and memory gave (`ok`, and the first failing block of segment 4). Segment 2 cleans Pocket (R291). -/
def selfTestSegment (ok : Bool) (nsid : BitVec 32) (lba : BitVec 64) (s : State) : State :=
  match s.test with
  | none => s
  | some t =>
    let pass := if t.seg = 1 then s.healthy else if t.seg = 3 then ok && decide (t.marks = s.servoMarks) else ok
    let t' := if pass ∨ t.failed ≠ 0 then t else { t with failed := t.seg, failNs := nsid.toNat, failLba := lba.toNat }
    let s := s.when (decide (t.seg = 2) && s.on R.PKT_CTL_EN) fun u => u.cleanAll
    if t.seg < 4 then { s with test := some { t' with seg := t.seg + 1, marks := if t.seg = 2 then s.servoMarks else t.marks } }
    else { s with test := some t' }.endTest (if t'.failed = 0 then 0 else 7)

/-! ## Format and Sanitize (R273, R274, R328) -/

/-- The bands of a Key Value namespace return to the free pool (R273); with `keep` they stay out of it until they are overwritten. -/
def State.freeKv (s : State) (nsid : Nat) (keep : Bool) : State :=
  match s.ns nsid with
  | some n =>
    if n.csi = 1 then
      (s.forAll n.bands fun b u => if keep && decide ((u.band b).done ≠ 0) then u.setBand b { u.band b with st := .assigned, done := 0 }
        else u.freeBand b).setNs nsid (some { n with bands := [], klog := [] })
    else if n.csi = 0 then s.forAll n.bands fun b u => u.setBand b { u.band b with st := .assigned, done := 0 }
    else s
  | none => s

/-- A namespace is emptied (R273 step 3): zones Empty, keys absent, blocks zeros; its bands hold nothing, and the space a host sees
stays backed by them (DESIGN CHOICE, log entry 86). -/
def State.emptyNs (s : State) (nsid : Nat) (keep : Bool) : State :=
  let t := (((s.abandonNs nsid).dropNs nsid).dropKv nsid).freeKv nsid keep
  t.forAll (t.zones.filter fun e => decide (e.1 / 4294967296 = nsid)) fun e u => match e.2 with
    | some z => if z.st = zOff then u
        else (u.forAll z.bands fun b v => v.setBand b { v.band b with st := .assigned, done := 0 }).setZone nsid (e.1 % 4294967296)
          { z with st := zEmpty, wp := 0, dwp := 0, weak := false, reloc := false, weakTrk := 0 }
    | none => u

/-- Crypto erase of a namespace: a new key, and the condition of R329 is cleared (R328). -/
def State.newKey (s : State) (nsid cmd : Nat) : State :=
  match s.ns nsid with
  | some n => ((s.setNs nsid (some { n with key := n.key + 1, keyOk := true })).count R.CLOAK_CNT_ERASE).post 0x08 0x10 info noInst [nsid, cmd]
  | none => s

/-- Starts the overwrite of a namespace (or of the whole media, 0) on the actuators that hold items of it, as `units` names them; the
number says whether any does. -/
def State.beginOverwrite (s : State) (nsid : Nat) (units : Nat → List (Nat × Nat)) : State × Nat :=
  let acts := (List.range 4).filter fun a => !(units a).isEmpty
  (s.forAll acts fun a t => t.beginOp ⟨0, 3, a, 0, 0, 0, 0, 0, 0, 0, (units a).length, nsid, false, units a⟩,
   if acts = [] then 0 else 1)

/-- Bands that held data of a namespace and media-cache tracks that held its extents, on an actuator (R273). -/
def State.nsUnits (s : State) (nsid a : Nat) : List (Nat × Nat) :=
  ((s.nsBands nsid).filter fun b => decide (s.bandAct b = a) && decide ((s.band b).done ≠ 0 ∨ (s.band b).st = .full)).map (fun b => (0, b)) ++
    ((s.clog a).filter fun t => t.secs.any fun x => decide (x.1 = nsid)).map fun t => (1, s.ckptTracks a + t.pos)

/-- Every band of an actuator that has not lost its tracks, and every conventional track but the system tracks (R274). -/
def State.allUnits (s : State) (a : Nat) : List (Nat × Nat) :=
  if s.nact ≤ a then []
  else ((s.headsOf a).flatMap fun h => (s.surface h).map fun b => (0, b)) ++
    (List.range (s.ckptTracks a + s.cacheTracks a)).map fun r => (1, r)

/-- Actuators that hold data of a namespace: their system tracks record it empty (R273 step 3). -/
def State.logEmpty (s : State) (nsid : Nat) : State :=
  let acts := ((s.nsBands nsid).map s.bandAct).eraseDups
  s.forAll acts fun a t => t.mapLog a

/-- Storage namespaces a command names. -/
def State.nsNamed (s : State) (nsid : Nat) : List Nat :=
  s.nss.filterMap fun e => if nsid = 0xFFFFFFFF ∨ e.1 = nsid then some e.1 else none

/-- FORMAT_NVM (R273). -/
def formatNvm (id : CmdId) (nsid : BitVec 32) (lbaf pi ses : BitVec 4) (s : State) : State :=
  let l := s.nsNamed nsid.toNat
  s.taking ⟨id, 0, l.map .whole, 0⟩ fun c t =>
    let enc (n : Nat) : Bool := ((t.ns n).map (·.enc)).getD false
    if lbaf.toNat ≠ 0 ∨ pi.toNat ≠ 0 then t.answer id stInvFmt
    else if 2 < ses.toNat then t.answer id stField
    else if nsid.toNat ≠ 0xFFFFFFFF ∧ 1015 < nsid.toNat then t.answer id stNs
    else if !t.on R.RMC_STAT_IO_READY then t.answer id stNotReady
    else if t.get V.sanState = 1 then t.answer id stSanBusy
    else if nsid.toNat ≠ 0xFFFFFFFF ∧ (l = [] ∨ l.any fun n => ((t.ns n).bind (·.del)).isSome) then t.answer id stNs
    else if ses.toNat = 2 ∧ l.any fun n => !enc n then t.answer id stInvFmt
    else
      let t := if t.test.isSome then t.endTest 4 else t
      let t := t.forAll l fun n u =>
        let l := (List.range 4).map (u.nsUnits n)
        let wipe := decide (ses.toNat = 1) && !enc n
        let u := (u.logEmpty n).emptyNs n wipe
        let u := if wipe then u else u.swapMarked n
        if ses.toNat = 0 then u
        else if enc n then u.newKey n 0x80
        else
          let r := u.beginOverwrite n fun a => l.getD a []
          if r.2 = 0 then r.1
          else match r.1.ns n with
            | some x => (r.1.setNs n (some { x with erase := true })).updCmd c.no fun d => { d with parts := d.parts + 1 }
            | none => r.1
      match t.cmdNoOf c.no with
      | some d => if d.parts = 0 then t.answer id stOk else t
      | none => t

/-- SANITIZE_CRYPTO_ERASE: every storage namespace (R328). -/
def sanitizeCryptoErase (id : CmdId) (s : State) : State :=
  let l := s.nsNamed 0xFFFFFFFF
  s.taking ⟨id, 0, l.map .whole, 0⟩ fun _ t =>
    if !t.on R.RMC_STAT_IO_READY then t.answer id stNotReady
    else if t.get V.sanState = 1 then t.answer id stSanBusy
    else
      let t := if t.test.isSome then t.endTest 4 else t
      ((t.forAll l fun n u => ((u.emptyNs n false).swapMarked n).newKey n 0x84).put V.sanState 2).answer id stOk

/-- The Subsystem Local Memory partition and every program slot are cleared (R274). -/
def State.wipeSlm (s : State) : State :=
  let out (x : Nat) : Bool := !decide (slmBase ≤ x ∧ x < slmBase + 0x180000000)
  { s with hbm := s.hbm.filter fun c => out c.1,
           pkt := s.pkt.filter fun e => match e.2 with
             | some l => out (lineNo (e.1 / 16) l.tag * 128)
             | none => false,
           poison := s.poison.filter fun b => out (b * 64), progs := [], progRuns := [] }

/-- SANITIZE_BLOCK_ERASE (R274): completes once step 2 is recorded; the overwrite of the whole media goes on. -/
def sanitizeBlockErase (id : CmdId) (s : State) : State :=
  let l := s.nsNamed 0xFFFFFFFF
  s.taking ⟨id, 0, l.map .whole, 0⟩ fun _ t =>
    if !t.on R.RMC_STAT_IO_READY then t.answer id stNotReady
    else if t.get V.sanState = 1 then t.answer id stSanBusy
    else
      let t := if t.test.isSome then t.endTest 4 else t
      let t := t.forAll (t.mops.filter fun o => decide (o.typ ≠ 3)) fun o u => u.abandonOp o
      let t := t.wipeSlm.showPkt
      let t := t.forAll l fun n u =>
        let u := u.emptyNs n false
        if ((u.ns n).map (·.enc)).getD false then u.newKey n 0x84 else u
      let t := t.forAll (List.range t.nact) fun a u => u.mapLog a
      let r := t.beginOverwrite 0 t.allUnits
      (r.1.put V.sanState (if r.2 = 0 then 2 else 1)).answer id stOk

/-! ## I/O commands (R253, R290, R294, R302) -/

/-- A command on a storage namespace of one of the command sets given, or the status it fails with (R262, R273, R274, R287,
R289, R290, R329). -/
def State.onNs (s : State) (c : Cmd) (nsid : Nat) (sets : List Nat) (f : Ns → State → State) : State :=
  if 1016 ≤ nsid ∧ nsid ≤ 1024 then s.answer c.id stOpcode
  else if !s.on R.RMC_STAT_IO_READY then s.answer c.id stNotReady
  else match s.ns nsid with
    | none => s.answer c.id stNs
    | some n =>
      if n.del.any fun d => decide (d < c.no) then s.answer c.id stNs
      else if !n.att.contains c.id.cntlid then s.answer c.id stField
      else if s.get V.sanState = 1 then s.answer c.id stSanBusy
      else if s.get V.sanState = 3 then s.answer c.id stSanFail
      else if n.erase then s.answer c.id stFormat
      else if !n.keyOk then
        ({ s with cmds := s.cmds.filter fun d => decide (d.id ≠ c.id) }.sendCqe ⟨c.id, 0, 0x82, true, 0, .none⟩).drainDeletes.showCmds
      else if !sets.contains n.csi then s.answer c.id stOpcode
      else f n s

/-- Actuators a range of blocks lies on. -/
def State.rangeActs (s : State) (nsid lba n : Nat) : List Nat := ((List.range n).map fun i => s.lbaAct nsid (lba + i)).eraseDups

/-- The status of a range of blocks: transfer size, end of the namespace, actuators (R262, R290). -/
def State.rangeStat (s : State) (n : Ns) (nsid lba k : Nat) : Stat :=
  if k = 0 ∨ 512 < k then stField
  else if n.nsze < lba + k then stLba
  else if (s.rangeActs nsid lba k).any s.actDown then stNotReady
  else stOk

/-- The status of a read of zones: none Offline, no boundary crossed (R264; ZNS 1.2). -/
def State.zoneReadStat (s : State) (n : Ns) (nsid lba k : Nat) : Stat :=
  if n.csi ≠ 2 then stOk
  else if lba / zoneSize ≠ (lba + k - 1) / zoneSize then stZBound
  else if (s.zone nsid (lba / zoneSize)).st = zOff then stZOff
  else stOk

/-- First status that is a failure. -/
def firstStat : List Stat → Stat
  | [] => stOk
  | x :: l => if x = stOk then firstStat l else x

/-- A block of a range is marked unrecoverable (R395). -/
def State.anyLost (s : State) (nsid lba k : Nat) : Bool := (List.range k).any fun i => s.lost.contains (lbaKey nsid (lba + i))

/-- Queues media operations of a command, each found through the map in HBM (R32, R298). -/
def State.queueJobs (s : State) (c : Cmd) (js : List (Nat × Job)) : State :=
  (s.updCmd c.no fun d => { d with parts := js.length }).forAll js fun p t =>
    (t.partRead 12 1 (trkKey (t.ghead p.1 p.2.lhead) p.2.track) 64).addJob p.1 p.2

/-- Queues the media operations of a read of a range (R298). -/
def State.readJobs (s : State) (c : Cmd) (kind : JobKind) (nsid lba k : Nat) (limited : Bool) : State :=
  s.queueJobs c (s.runs kind (some c.no) limited (k + 1) nsid lba k)

/-- READ: from staging at once when all of the range stands there, otherwise through the Juggler (R32, R298, R302). -/
def readCmd (id : CmdId) (nsid : BitVec 32) (lba : BitVec 64) (nlb : BitVec 16) (limited : Bool) (s : State) : State :=
  let n := nsid.toNat
  let a := lba.toNat
  let k := nlb.toNat + 1
  s.taking ⟨id, n, [.lba n a k false], 0⟩ fun c t => t.onNs c n [0, 2] fun ns t =>
    let st := firstStat [t.rangeStat ns n a k, t.zoneReadStat ns n a k]
    if st ≠ stOk then t.answer id st
    else if t.anyLost n a k then t.answer id stUre
    else if (List.range k).all fun i => t.staged n (a + i) then
      (t.sendData { c with range := some (n, a, k) }).complete id stOk 0 (.blocks (t.blocks n a k))
    else (t.updCmd c.no fun d => { d with range := some (n, a, k) }).readJobs c .read n a k limited

/-- VERIFY: the full retry ladder, no data (R290). -/
def verifyCmd (id : CmdId) (nsid : BitVec 32) (lba : BitVec 64) (nlb : BitVec 16) (s : State) : State :=
  let n := nsid.toNat
  let a := lba.toNat
  let k := nlb.toNat + 1
  s.taking ⟨id, n, [.lba n a k false], 0⟩ fun c t => t.onNs c n [0, 2] fun ns t =>
    let st := firstStat [t.rangeStat ns n a k, t.zoneReadStat ns n a k]
    if st ≠ stOk then t.answer id st
    else if t.anyLost n a k then t.answer id stUre
    else if (List.range k).all fun i => t.staged n (a + i) then t.answer id stOk
    else t.readJobs c .verify n a k false

/-- A write whose data is staged completes, or waits for the durable points of its actuators with Force Unit Access or a
disabled cache (R253, R302). -/
def State.finishWrite (s : State) (c : Cmd) (acts : List Nat) (fua : Bool) (dw0 : Nat) : State :=
  if fua ∨ s.on V.vwcOff then
    let pts := acts.map fun a => (a, s.wseq)
    (s.forAll acts fun a t => t.beginPoint a).updCmd c.no fun d => { d with points := pts, dw0 := dw0 }
  else s.complete c.id stOk dw0 .none

/-- Stages data, queues the tracks it completes, and begins the durable point of a zone that became FULL (R253, R255, R298). -/
def State.takeData (s : State) (nsid lba : Nat) (data : List Block) : State :=
  let t := s.stageAll nsid lba data
  let t := t.dueRun nsid lba data.length
  match t.ns nsid with
  | some n =>
    if n.csi = 2 ∧ (t.zone nsid (lba / zoneSize)).st = zFull then t.beginPoint (t.lbaAct nsid lba) else t
  | none => t

/-- The status of a write to a zone at an offset, and the zone it leaves (R249; ZNS 1.2). -/
def State.zoneWrite (s : State) (n : Ns) (nsid lba k : Nat) : Stat × State :=
  let zi := lba / zoneSize
  let z := s.zone nsid zi
  let o := lba % zoneSize
  if n.csi ≠ 2 then (stOk, s)
  else if zoneSize < o + k then (stZBound, s)
  else if z.st = zRo then (stZRo, s)
  else if z.st = zOff then (stZOff, s)
  else if z.st = zFull then (stZFull, s)
  else if o ≠ z.wp then (stZWrite, s)
  else if z.st = zEmpty ∧ 64 ≤ s.activeOn (placeAct n.mask zi) then (stZActive, s)
  else (stOk, s.setZone nsid zi { z with wp := o + k, st := if o + k = zoneSize then zFull else if z.st = zExp then zExp else zImp })

/-- A write of data to a range; an extent homed on an actuator that could take no band for a failed write takes none (R260). -/
def State.writeRange (s : State) (c : Cmd) (nsid lba : Nat) (data : List Block) (sets : List Nat) (fua : Bool) : State :=
  s.onNs c nsid sets fun ns t =>
    let k := data.length
    let st := t.rangeStat ns nsid lba k
    if st ≠ stOk then t.answer c.id st
    else if ns.csi = 0 ∧ (t.rangeActs nsid lba k).any fun a => t.on (V.mmgWrFault a) then t.answer c.id stWrFault
    else
      let z := t.zoneWrite ns nsid lba k
      if z.1 ≠ stOk then t.answer c.id z.1
      else (z.2.takeData nsid lba data).finishWrite c (t.rangeActs nsid lba k) fua 0

/-- WRITE. -/
def writeCmd (id : CmdId) (nsid : BitVec 32) (lba : BitVec 64) (data : List Block) (fua : Bool) (s : State) : State :=
  s.taking ⟨id, nsid.toNat, [.lba nsid.toNat lba.toNat data.length true], data.length⟩ fun c t =>
    t.writeRange c nsid.toNat lba.toNat data [0, 2] fua

/-- WRITE_ZEROES: NVM namespaces only (R290). -/
def writeZeroes (id : CmdId) (nsid : BitVec 32) (lba : BitVec 64) (nlb : BitVec 16) (fua : Bool) (s : State) : State :=
  let k := nlb.toNat + 1
  s.taking ⟨id, nsid.toNat, [.lba nsid.toNat lba.toNat k true], k⟩ fun c t =>
    t.writeRange c nsid.toNat lba.toNat (List.replicate k 0) [0] fua

/-- DATASET_MANAGEMENT: Deallocate on an NVM namespace; other attributes have no effect (R290). -/
def datasetManagement (id : CmdId) (nsid : BitVec 32) (deallocate : Bool) (ranges : List (BitVec 64 × BitVec 32)) (s : State) : State :=
  let n := nsid.toNat
  let rs := ranges.map fun r => (r.1.toNat, r.2.toNat)
  s.taking ⟨id, n, if deallocate then rs.map fun r => .lba n r.1 r.2 true else [], 0⟩ fun c t => t.onNs c n [0] fun ns t =>
    if rs = [] ∨ 256 < rs.length then t.answer id stField
    else if rs.any fun r => decide (ns.nsze < r.1 + r.2) then t.answer id stLba
    else if !deallocate then t.answer id stOk
    else if rs.any fun r => (t.rangeActs n r.1 r.2).any t.actDown then t.answer id stNotReady
    else (t.forAll rs fun r u => u.stageAll n r.1 (List.replicate r.2 0)).answer id stOk

/-- ZONE_APPEND: placed where its admission put it (R294). -/
def zoneAppend (id : CmdId) (nsid : BitVec 32) (zslba : BitVec 64) (data : List Block) (fua : Bool) (s : State) : State :=
  let n := nsid.toNat
  s.taking ⟨id, n, [.append n zslba.toNat data.length], data.length⟩ fun c t => t.onNs c n [2] fun _ t =>
    if c.sct ≠ 0 ∨ c.sc ≠ 0 then t.complete id (c.sct, c.sc) 0 .none
    else if t.actDown (t.lbaAct n zslba.toNat) then t.answer id stNotReady
    else (t.takeData n c.dw0 data).finishWrite c [t.lbaAct n zslba.toNat] fua c.dw0

/-! ## Zone Management (R249, R256, R263) -/

/-- Zones a Zone Management Send names: one, or with Select All those in one of the states given. -/
def State.zonesNamed (s : State) (nsid slba : Nat) (all : Bool) (sts : List Nat) : List Nat :=
  match s.ns nsid with
  | none => []
  | some n => if all then (List.range (n.nsze / zoneSize)).filter fun z => sts.contains (s.zone nsid z).st else [slba / zoneSize]

/-- A Zone Management Send on a zoned namespace: `ok` gives the states from which it acts. -/
def State.zoneSend (s : State) (id : CmdId) (nsid slba : Nat) (all : Bool) (ok sel : List Nat) (f : Cmd → List Nat → State → State) : State :=
  s.taking ⟨id, nsid, [if all then .whole nsid else .zone nsid slba], 0⟩ fun c t => t.onNs c nsid [2] fun n t =>
    if !all ∧ slba % zoneSize ≠ 0 then t.answer id stField
    else if !all ∧ n.nsze ≤ slba then t.answer id stLba
    else
      let zs := t.zonesNamed nsid slba all sel
      if zs.any fun z => t.actDown (placeAct n.mask z) then t.answer id stNotReady
      else if !all ∧ !ok.contains (t.zone nsid (slba / zoneSize)).st then t.answer id stZTrans
      else f c zs t

/-- Waits for the durable points of the actuators of zones, then acts (R255, R302). -/
def State.zoneWait (s : State) (c : Cmd) (nsid : Nat) (zs : List Nat) (fin : CmdFin) : State :=
  let acts := (zs.map fun z => s.lbaAct nsid (z * zoneSize)).eraseDups
  if acts = [] then s.answer c.id stOk
  else
    let pts := acts.map fun a => (a, s.wseq)
    (s.forAll acts fun a t => t.beginPoint a).updCmd c.no fun d => { d with points := pts, fin := fin }

/-- ZONE_RESET: takes the durable points first (R302). -/
def zoneReset (id : CmdId) (nsid : BitVec 32) (slba : BitVec 64) (all : Bool) (s : State) : State :=
  s.zoneSend id nsid.toNat slba.toNat all [zEmpty, zImp, zExp, zClosed, zFull] [zImp, zExp, zClosed, zFull] fun c zs t =>
    t.zoneWait c nsid.toNat zs (.zoneReset nsid.toNat zs)

/-- ZONE_FINISH: the remaining data goes out as short tracks, and the durable points are taken first (R50, R255, R256). -/
def zoneFinish (id : CmdId) (nsid : BitVec 32) (slba : BitVec 64) (all : Bool) (s : State) : State :=
  s.zoneSend id nsid.toNat slba.toNat all [zEmpty, zImp, zExp, zClosed, zFull] [zImp, zExp, zClosed] fun c zs t =>
    (t.forAll zs fun z u => u.closeShort nsid.toNat z).zoneWait c nsid.toNat zs (.zoneFinish nsid.toNat zs)

/-- ZONE_OPEN: at most 64 active zones of an actuator (R249). -/
def zoneOpen (id : CmdId) (nsid : BitVec 32) (slba : BitVec 64) (all : Bool) (s : State) : State :=
  s.zoneSend id nsid.toNat slba.toNat all [zEmpty, zImp, zExp, zClosed] [zClosed] fun _ zs t =>
    let n := nsid.toNat
    if zs.any fun z => decide ((t.zone n z).st = zEmpty ∧ 64 ≤ t.activeOn (t.lbaAct n (z * zoneSize))) then t.answer id stZActive
    else (t.forAll zs fun z u => u.setZone n z { u.zone n z with st := zExp }).answer id stOk

/-- ZONE_CLOSE: at most 64 active zones of an actuator (R249). -/
def zoneClose (id : CmdId) (nsid : BitVec 32) (slba : BitVec 64) (all : Bool) (s : State) : State :=
  s.zoneSend id nsid.toNat slba.toNat all [zImp, zExp, zClosed] [zImp, zExp] fun _ zs t =>
    (t.forAll zs fun z u => u.setZone nsid.toNat z { u.zone nsid.toNat z with st := zClosed }).answer id stOk

/-- SET_ZONE_DESCRIPTOR_EXTENSION: fails with Invalid Field in Command (R250). -/
def setZoneDescriptorExtension (id : CmdId) (nsid : BitVec 32) (slba : BitVec 64) (s : State) : State :=
  s.zoneSend id nsid.toNat slba.toNat false [zEmpty, zImp, zExp, zClosed, zRo, zFull, zOff] [] fun _ _ t => t.answer id stField

/-- The 64 bytes of a zone's descriptor extension (R250). -/
def State.zoneExt (s : State) (nsid z : Nat) : List Byte :=
  let x := s.zone nsid z
  let four (l : List Nat) : List Nat := (List.range 4).map fun i => l.getD i 0
  leBytes 1 (s.lbaAct nsid (z * zoneSize)) ++ leBytes 1 x.dcls ++ leBytes 1 (b2n x.atRisk + 2 * b2n x.weak + 4 * b2n x.reloc) ++
    leBytes 1 (x.nextDc.getD 0xFF) ++ (four (x.bands.map (· / 1048576))).flatMap (leBytes 1) ++ (four x.bands).flatMap (leBytes 4) ++
    leBytes 4 x.risk ++ leBytes 2 x.weakTrk ++ leBytes 1 x.altCnt ++ List.replicate 33 0

/-- A zone's descriptor: number, state, capacity, write pointer, Zone Attributes (Zone Descriptor Extension Valid, bit 7, always
set), and with `ext` the extension of R250. -/
def State.zoneDesc (s : State) (nsid z : Nat) (ext : Bool) : List Nat :=
  let x := s.zone nsid z
  [z, x.st, zoneSize, z * zoneSize + x.wp, 0x80] ++
    if ext then (s.zoneExt nsid z).map (·.toNat) else []

/-- ZONE_MANAGEMENT_RECEIVE: zones from the one given on. -/
def zoneManagementReceive (id : CmdId) (nsid : BitVec 32) (slba : BitVec 64) (ext : Bool) (s : State) : State :=
  s.taking ⟨id, nsid.toNat, [], 0⟩ fun c t => t.onNs c nsid.toNat [2] fun n t =>
    if n.nsze ≤ slba.toNat then t.answer id stLba
    else
      let zs := (List.range (n.nsze / zoneSize)).drop (slba.toNat / zoneSize)
      t.complete id stOk 0 (.fields (zs.flatMap fun z => t.zoneDesc nsid.toNat z ext))

/-! ## Ends of durable points (R254, R302) -/

/-- A zone is reset: its data is gone, operations on its bands are abandoned, and a marked zone swaps its bands (R263,
R275). Appends admitted behind the reset keep their places. -/
def State.resetZone (s : State) (nsid z : Nat) : State :=
  let x := s.zone nsid z
  if x.st = zOff ∨ x.st = zRo then s
  else
    let at_ := s.appendAt nsid z
    let t := s.zeroRange nsid (z * zoneSize) zoneSize
    let t := { t with lost := t.lost.filter fun k => decide (¬(lbaKey nsid (z * zoneSize) ≤ k ∧ k < lbaKey nsid ((z + 1) * zoneSize))) }
    let t := t.forAll (t.mops.filter fun o => decide (o.typ = 1) && (x.bands.contains o.src)) fun o u => u.abandonOp o
    let t := t.reclaimNext (s.lbaAct nsid (z * zoneSize))
    let t := t.forAll x.bands fun b u => u.setBand b { u.band b with st := .assigned, done := 0 }
    let t := t.setZone nsid z { x with st := if at_ = 0 then zEmpty else if at_ = zoneSize then zFull else zImp, wp := at_, dwp := 0,
                                       weak := false, reloc := false, weakTrk := 0 }
    if x.nextDc.isSome then t.swapZone nsid z else t

/-- A zone is finished: the remaining data stands as a short track, its band is FULL, and what was not written reads as
zeros (R256). -/
def State.finishZone (s : State) (nsid z : Nat) : State :=
  let x := s.zone nsid z
  if x.st = zOff ∨ x.st = zRo ∨ x.st = zFull then s
  else
    let t := s.forAll (x.bands.take (ceilDiv x.wp 65536)) fun b u => u.setBand b { u.band b with st := .full }
    t.setZone nsid z { x with st := zFull, wp := zoneSize, dwp := zoneSize }

/-- What a command does once nothing is left to wait for, and its completion. -/
def State.finish (s : State) (c : Cmd) : State :=
  let t := match c.fin with
    | .plain => s
    | .zoneReset n zs => s.forAll zs fun z u => u.resetZone n z
    | .zoneFinish n zs => s.forAll zs fun z u => u.finishZone n z
    | .delete ns d ms => s.forAll ns fun n u => u.removeNs n d ms
    | .copy _ _ => s.copyDone c
  t.complete c.id (c.sct, c.sc) c.dw0 .none

/-- A durable point of an actuator has stood: commands that waited for it and for nothing else end (R253, R254). -/
def State.pointDone (s : State) (a bound : Nat) : State :=
  s.forAll (s.cmds.filter fun c => c.points.any fun p => decide (p = (a, bound))) fun c t =>
    let c' : Cmd := { c with points := c.points.filter fun p => decide (p ≠ (a, bound)) }
    if c'.points = [] ∧ c'.parts = 0 then t.finish c' else t.updCmd c.no fun d => { d with points := c'.points }

/-- DURABLE_POINT_STANDS: the oldest point of the actuator, once every track it needs is written, with its record on one copy of the
system tracks (`copy` 0 or 1) or on both (2); with no such point the other copy takes the record of the last one. Cleaning goes on
with what is now recorded (R252, R254). -/
def durablePointStands (a : Act) (copy : Fin 3) (s : State) : State :=
  match s.pointsOf a with
  | [] => s.levelCopies a
  | b :: rest =>
    if s.pointReady a b then
      let t := { s with points := Tab.set [] s.points a rest }
      let t := (((t.makeDurable a b).recordPoint a b copy).kvDurable a b).count R.MMG_CNT_DURABLE
      ((t.planAgain a).clean a).pointDone a b
    else s.levelCopies a

/-! ## Intake and the Turnstile (R283, R292 to R297, R306) -/

/-- Takes commands from one queue until one cannot be taken; false when intake paused. -/
def State.takeList (full : Bool) : List Waiting → State → State × Bool
  | [], s => (s, true)
  | w :: l, s =>
    let r := s.tryTake w full
    if r.2 then State.takeList full l r.1 else (r.1, false)

/-- INTAKE_VISIT: the next queue in round robin, up to 8 commands; while intake pauses, the queue stays the next one. -/
def intakeVisit (waiting : List Waiting) (full : Bool) (s : State) : State :=
  match s.visit with
  | [] => s
  | (c, q) :: rest =>
    match s.ctrl c with
    | none => { s with visit := rest }
    | some x =>
      let l := (waiting.filter fun w => decide (w.id.cntlid = c ∧ w.id.qid = q) && (s.cmdOf w.id).isNone).take 8
      if s.pauseWhy 0 0 full ≠ 0 then s.showPause (s.pauseWhy 0 0 full)
      else
        let r := State.takeList full l s
        if r.2 then { r.1.showPause 0 with visit := rest ++ [(c, if q < x.pairs then q + 1 else 0)] } else r.1

/-- TURNSTILE_RELEASE: a stalled command that no longer clashes proceeds (R296, R297). -/
def turnstileRelease (id : CmdId) (s : State) : State :=
  match s.cmdOf id with
  | some c => if c.stalled && s.canRun c then s.updCmd c.no fun d => { d with stalled := false } else s
  | none => s

/-- Writes `FETCH_HOLD`: intake pauses, or resumes when nothing else holds it. -/
def State.setFetchHold (s : State) (v : Bool) : State :=
  let t := s.putB R.CMD_CTL_FETCH_HOLD v
  t.showPause (t.pauseWhy 0 0 false)

/-- FETCH_HOLD. -/
def fetchHold (v : Bool) (s : State) : State := s.setFetchHold v

/-- HIWAT_CLR. -/
def hiwatClr (s : State) : State := s.put R.CMD_TS_HIWAT (s.get R.CMD_TS_USED)

/-! ## The Juggler (R298 to R301) -/

/-- Point of a seek profile: servo tracks, units of 16 µs (R300). -/
def State.seekPoint (s : State) (a i : Nat) : Nat × Nat :=
  let v := s.le 0x02 0 (0x1000 + a * 0x80 + 4 * i) 4
  (v % 2 ^ 22, v / 2 ^ 22)

/-- Seek time for a distance as a fraction of µs: the profile interpolated between its points (R300). -/
def State.seekTime (s : State) (a d : Nat) : Nat × Nat :=
  let p := (List.range 32).map (s.seekPoint a)
  match (List.range 31).find? fun i => decide ((p.getD i (0, 0)).1 ≤ d ∧ d ≤ (p.getD (i + 1) (0, 0)).1) with
  | some i =>
    let x := p.getD i (0, 0)
    let y := p.getD (i + 1) (0, 0)
    (16 * (x.2 * (y.1 - d) + y.2 * (d - x.1)), y.1 - x.1)
  | none => (16 * (if d < (p.getD 0 (0, 0)).1 then (p.getD 0 (0, 0)).2 else (p.getD 31 (0, 0)).2), 1)

/-- The wedge before an operation: a track write starts at its track's wedge, a read at the wedge before its first sector
(R49, R299). -/
def State.startWedge (s : State) (a : Nat) (j : Job) : Nat :=
  let e := s.zoneEnt (s.ghead a j.lhead) j.zone
  let bits := regionBits s.fmtW s.fmtC (zeRate0 e) j.dcls - 88
  let skip := if j.kind = .write ∨ j.kind = .durable ∨ bits = 0 then 0 else j.first * 292352 / bits
  if s.fmtW = 0 then 0 else (j.wedge + skip) % s.fmtW

/-- Cost of an operation at a wedge, in wedges (R299); the wedge period is that of the set point in force. -/
def State.opCost (s : State) (a w : Nat) (j : Job) : Nat :=
  let cur := s.get (R.SRV_POS_TRACK a)
  let d := if cur ≤ j.track then j.track - cur else cur - j.track
  let t := s.seekTime a d
  let rate := spRpm (s.get R.CRL_STAT_SP) * s.fmtW
  let seek := ceilDiv (t.1 * rate) (Nat.max 1 (t.2 * 60000000)) + s.get R.CMD_JUG_SEEK_MARGIN +
    (if j.lhead = s.get (R.SRV_STAT_HEAD a) then 0 else 2)
  let n := Nat.max 1 s.fmtW
  let ready := (w + seek) % n
  seek + (s.startWedge a j + n - ready) % n

/-- Every band of a zone before the one that a block lies in is written to its end (R248). -/
def State.zoneInOrder (s : State) (nsid lba : Nat) : Bool :=
  match s.ns nsid with
  | some n => decide (n.csi ≠ 2) || ((s.zone nsid (lba / 262144)).bands.take (lba % 262144 / 65536)).all fun b => decide ((s.band b).st = .full)
  | none => true

/-- An operation is eligible: of the track writes of one band only the first (R298), none of a band behind another of its zone that is
not FULL, so that one is OPEN at a time (R248), and none of a band that is being moved after a failed write (R260). -/
def eligible (s : State) (q : List Job) (j : Job) : Bool :=
  let band (x : Job) : Nat := (s.lbaBand x.nsid x.lba).1
  !(decide (j.kind = .write) && ((q.any fun x => decide (x.kind = .write ∧ x.id < j.id) && decide (band x = band j)) ||
    !s.zoneInOrder j.nsid j.lba ||
    s.mops.any fun o => decide (o.typ = 1 ∧ o.cause = 2 ∧ o.src = band j)))

/-- The operation the Juggler chooses: the oldest that has waited longer than `AGE_MS`, or the cheapest, age breaking a
tie; whether it is an age pick (R299). An operation its port cannot run is left (R99, R109, R111). -/
def State.jugglerChoice (s : State) (a w : Nat) : Option (Job × Bool) :=
  let q := (s.jugq a).take 2048
  let el := q.filter fun j => eligible s q j && s.jobMay a j
  let old := el.filter fun j => decide (s.get R.CMD_JUG_AGE_MS < s.get V.msNow - j.bornMs)
  let older (x y : Job) : Bool := decide (x.bornMs < y.bornMs ∨ x.bornMs = y.bornMs ∧ x.id < y.id)
  match old with
  | j :: l => some (l.foldl (fun m x => if older x m then x else m) j, true)
  | [] =>
    match el with
    | [] => none
    | j :: l => some (l.foldl (fun m x =>
        if s.opCost a w x < s.opCost a w m ∨ (s.opCost a w x = s.opCost a w m ∧ older x m = true) then x else m) j, false)

/-- JUGGLER_PICK: an actuator that is free and not held takes its next operation; one to be restarted goes before every
other (R82, R299, R301, R305). -/
def jugglerPick (a : Act) (w : BitVec 16) (s : State) : State :=
  if s.on (R.CMD_JQ_HELD a) ∨ s.on (R.CMD_JQ_WHY a) ∨ s.on (R.CHN_REPLAY_HOLD a) ∨ (s.jobOf a).isSome ∨ (s.seqr a).returned.isSome ∨ s.actDown a ∨
      s.get (R.SEQ_STAT_STATE a) = seqMCHK then s
  else match s.jugglerChoice a w.toNat with
    | none => s
    | some (j, aged) =>
      let t := (s.setJugq a ((s.jugq a).filter fun x => decide (x.id ≠ j.id))).setJob a (some j)
      t.when aged fun u => (u.count R.CMD_CNT_AGEPICK).evt R.CMD_EVT_AGE_PICK

/-! ## Enable (R307) -/

/-- A seek profile breaks R300. -/
def State.profileBad (s : State) (a : Nat) : Bool :=
  (List.range 32).any fun i => decide ((s.seekPoint a i).2 = 0) || (decide (i < 31) && decide ((s.seekPoint a (i + 1)).1 ≤ (s.seekPoint a i).1))

/-- `CMD_CTL.EN` 0→1. -/
def State.cmdEnable (s : State) : State × Nat :=
  s.enable R.CMD_CTL_EN R.CMD_CHK_REASON
    [(!s.on R.MMG_CTL_EN, 0x0201),
     (!(inR 50 60000 (s.get R.CMD_JUG_AGE_MS) && inR 0 32 (s.get R.CMD_JUG_SEEK_MARGIN)), 0x0202),
     ((List.range s.nact).any s.profileBad, 0x0203)]
    id

/-- CMD_ENABLE. -/
def cmdEnableCmd (s : State) : State := s.cmdEnable.1

/-! ## Commands -/

/-- Meaning of DURABLE_POINT_STANDS (R254). -/
def execDurablePointStands (a : Act) (copy : Fin 3) (s : State) : Host.Outcome State Fault Refusal :=
  .next (durablePointStands a copy s)

/-- Meaning of CONNECT (R280). -/
def execConnect (cid : BitVec 16) (qid cntlid : BitVec 16) (entries : Nat) (noFlow : Bool) (kato : BitVec 32) (hostId : BitVec 128) (hostNqn : List Byte) (member : Bool) (conn : ConnData) (s : State) : Host.Outcome State Fault Refusal :=
  .next (connect cid qid cntlid entries noFlow kato hostId hostNqn member conn s)

/-- Meaning of DISCONNECT (R303). -/
def execDisconnect (c : BitVec 16) (s : State) : Host.Outcome State Fault Refusal :=
  .next (disconnect c s)

/-- Meaning of CONTROLLER_RESET (R303). -/
def execControllerReset (c : BitVec 16) (s : State) : Host.Outcome State Fault Refusal :=
  .next (controllerReset c s)

/-- Meaning of KATO_EXPIRY (R303). -/
def execKatoExpiry (c : BitVec 16) (s : State) : Host.Outcome State Fault Refusal :=
  .next (katoExpiry c s)

/-- Meaning of NVME_IDENTIFY (R284). -/
def execNvmeIdentify (id : CmdId) (cns csi : BitVec 8) (nsid : BitVec 32) (s : State) : Host.Outcome State Fault Refusal :=
  .next (nvmeIdentify id cns csi nsid s)

/-- Meaning of GET_LOG_PAGE (R286). -/
def execGetLogPage (id : CmdId) (lid : BitVec 8) (nsid : BitVec 32) (s : State) : Host.Outcome State Fault Refusal :=
  .next (getLogPage id lid nsid s)

/-- Meaning of GET_FEATURES (R286). -/
def execGetFeatures (id : CmdId) (fid : BitVec 8) (nsid dw11 : BitVec 32) (s : State) : Host.Outcome State Fault Refusal :=
  .next (getFeatures id fid nsid dw11 s)

/-- Meaning of ARBITRATION (R286). -/
def execArbitration (id : CmdId) (ab : BitVec 3) (s : State) : Host.Outcome State Fault Refusal :=
  .next (arbitration id ab s)

/-- Meaning of POWER_MANAGEMENT (R286). -/
def execPowerManagement (id : CmdId) (ps : BitVec 5) (s : State) : Host.Outcome State Fault Refusal :=
  .next (powerManagement id ps s)

/-- Meaning of TEMPERATURE_THRESHOLD (R286). -/
def execTemperatureThreshold (id : CmdId) (tmpsel : BitVec 4) (under : Bool) (kelvin : BitVec 16) (s : State) : Host.Outcome State Fault Refusal :=
  .next (temperatureThreshold id tmpsel under kelvin s)

/-- Meaning of VOLATILE_WRITE_CACHE (R253). -/
def execVolatileWriteCache (id : CmdId) (wce : Bool) (s : State) : Host.Outcome State Fault Refusal :=
  .next (volatileWriteCache id wce s)

/-- Meaning of NUMBER_OF_QUEUES (R281). -/
def execNumberOfQueues (id : CmdId) (nsq ncq : BitVec 16) (s : State) : Host.Outcome State Fault Refusal :=
  .next (numberOfQueues id nsq ncq s)

/-- Meaning of ASYNCHRONOUS_EVENT_CONFIGURATION (R286). -/
def execAsynchronousEventConfiguration (id : CmdId) (v : BitVec 32) (s : State) : Host.Outcome State Fault Refusal :=
  .next (asyncConfig id v s)

/-- Meaning of KEEP_ALIVE_TIMER (R304). -/
def execKeepAliveTimer (id : CmdId) (kato : BitVec 32) (s : State) : Host.Outcome State Fault Refusal :=
  .next (keepAliveTimer id kato s)

/-- Meaning of HOST_IDENTIFIER (R286). -/
def execHostIdentifier (id : CmdId) (exhid : Bool) (v : BitVec 128) (s : State) : Host.Outcome State Fault Refusal :=
  .next (hostIdentifier id exhid v s)

/-- Meaning of LATENCY_BUDGET (R386). -/
def execLatencyBudget (id : CmdId) (nsid us : BitVec 32) (s : State) : Host.Outcome State Fault Refusal :=
  .next (latencyBudget id nsid us s)

/-- Meaning of ABORT (R303). -/
def execAbort (id : CmdId) (sqid cid : BitVec 16) (inQueue : Bool) (s : State) : Host.Outcome State Fault Refusal :=
  .next (abortCmd id sqid cid inQueue s)

/-- Meaning of ASYNCHRONOUS_EVENT_REQUEST (R284). -/
def execAsynchronousEventRequest (id : CmdId) (s : State) : Host.Outcome State Fault Refusal :=
  .next (asyncRequest id s)

/-- Meaning of NAMESPACE_CREATE (R288). -/
def execNamespaceCreate (id : CmdId) (csi : BitVec 8) (nsze ncap : BitVec 64) (lbaf pi : BitVec 8) (s : State) : Host.Outcome State Fault Refusal :=
  .next (namespaceCreate id csi nsze ncap lbaf pi s)

/-- Meaning of NAMESPACE_DELETE (R289). -/
def execNamespaceDelete (id : CmdId) (nsid : BitVec 32) (s : State) : Host.Outcome State Fault Refusal :=
  .next (namespaceDelete id nsid s)

/-- Meaning of NAMESPACE_ATTACHMENT (R288). -/
def execNamespaceAttachment (id : CmdId) (nsid : BitVec 32) (attach : Bool) (ctrls : List (BitVec 16)) (s : State) : Host.Outcome State Fault Refusal :=
  .next (namespaceAttachment id nsid attach ctrls s)

/-- Meaning of FIRMWARE_IMAGE_DOWNLOAD (R285). -/
def execFirmwareImageDownload (id : CmdId) (ofs : BitVec 32) (data : List Byte) (ok : Bool) (s : State) : Host.Outcome State Fault Refusal :=
  .next (firmwareImageDownload id ofs data ok s)

/-- Meaning of FIRMWARE_COMMIT (R285). -/
def execFirmwareCommit (id : CmdId) (action slot : BitVec 3) (ok : Bool) (s : State) : Host.Outcome State Fault Refusal :=
  .next (firmwareCommit id action slot ok s)

/-- Meaning of DEVICE_SELF_TEST (R291). -/
def execDeviceSelfTest (id : CmdId) (ext : Bool) (nsid : BitVec 32) (s : State) : Host.Outcome State Fault Refusal :=
  .next (deviceSelfTest id ext nsid s)

/-- Meaning of SELF_TEST_ABORT (R291). -/
def execSelfTestAbort (id : CmdId) (s : State) : Host.Outcome State Fault Refusal :=
  .next (selfTestAbort id s)

/-- Meaning of SELF_TEST_SEGMENT (R291). -/
def execSelfTestSegment (ok : Bool) (nsid : BitVec 32) (lba : BitVec 64) (s : State) : Host.Outcome State Fault Refusal :=
  .next (selfTestSegment ok nsid lba s)

/-- Meaning of KEEP_ALIVE (R304). -/
def execKeepAlive (id : CmdId) (s : State) : Host.Outcome State Fault Refusal :=
  .next (keepAlive id s)

/-- Meaning of FORMAT_NVM (R273). -/
def execFormatNvm (id : CmdId) (nsid : BitVec 32) (lbaf pi ses : BitVec 4) (s : State) : Host.Outcome State Fault Refusal :=
  .next (formatNvm id nsid lbaf pi ses s)

/-- Meaning of SANITIZE_CRYPTO_ERASE (R328). -/
def execSanitizeCryptoErase (id : CmdId) (s : State) : Host.Outcome State Fault Refusal :=
  .next (sanitizeCryptoErase id s)

/-- Meaning of SANITIZE_BLOCK_ERASE (R274). -/
def execSanitizeBlockErase (id : CmdId) (s : State) : Host.Outcome State Fault Refusal :=
  .next (sanitizeBlockErase id s)

/-- Meaning of UNSUPPORTED_OPCODE (R285). -/
def execUnsupportedOpcode (id : CmdId) (s : State) : Host.Outcome State Fault Refusal :=
  .next (unsupportedOpcode id s)

/-- Meaning of READ (R290). -/
def execRead (id : CmdId) (nsid : BitVec 32) (lba : BitVec 64) (nlb : BitVec 16) (limited : Bool) (s : State) : Host.Outcome State Fault Refusal :=
  .next (readCmd id nsid lba nlb limited s)

/-- Meaning of WRITE (R253). -/
def execWrite (id : CmdId) (nsid : BitVec 32) (lba : BitVec 64) (data : List Block) (fua : Bool) (s : State) : Host.Outcome State Fault Refusal :=
  .next (writeCmd id nsid lba data fua s)

/-- Meaning of WRITE_ZEROES (R290). -/
def execWriteZeroes (id : CmdId) (nsid : BitVec 32) (lba : BitVec 64) (nlb : BitVec 16) (fua : Bool) (s : State) : Host.Outcome State Fault Refusal :=
  .next (writeZeroes id nsid lba nlb fua s)

/-- Meaning of DATASET_MANAGEMENT (R290). -/
def execDatasetManagement (id : CmdId) (nsid : BitVec 32) (deallocate : Bool) (ranges : List (BitVec 64 × BitVec 32)) (s : State) : Host.Outcome State Fault Refusal :=
  .next (datasetManagement id nsid deallocate ranges s)

/-- Meaning of VERIFY (R290). -/
def execVerify (id : CmdId) (nsid : BitVec 32) (lba : BitVec 64) (nlb : BitVec 16) (s : State) : Host.Outcome State Fault Refusal :=
  .next (verifyCmd id nsid lba nlb s)

/-- Meaning of ZONE_APPEND (R294). -/
def execZoneAppend (id : CmdId) (nsid : BitVec 32) (zslba : BitVec 64) (data : List Block) (fua : Bool) (s : State) : Host.Outcome State Fault Refusal :=
  .next (zoneAppend id nsid zslba data fua s)

/-- Meaning of ZONE_RESET (R263). -/
def execZoneReset (id : CmdId) (nsid : BitVec 32) (slba : BitVec 64) (all : Bool) (s : State) : Host.Outcome State Fault Refusal :=
  .next (zoneReset id nsid slba all s)

/-- Meaning of ZONE_FINISH (R256). -/
def execZoneFinish (id : CmdId) (nsid : BitVec 32) (slba : BitVec 64) (all : Bool) (s : State) : Host.Outcome State Fault Refusal :=
  .next (zoneFinish id nsid slba all s)

/-- Meaning of ZONE_OPEN (R249). -/
def execZoneOpen (id : CmdId) (nsid : BitVec 32) (slba : BitVec 64) (all : Bool) (s : State) : Host.Outcome State Fault Refusal :=
  .next (zoneOpen id nsid slba all s)

/-- Meaning of ZONE_CLOSE (R249). -/
def execZoneClose (id : CmdId) (nsid : BitVec 32) (slba : BitVec 64) (all : Bool) (s : State) : Host.Outcome State Fault Refusal :=
  .next (zoneClose id nsid slba all s)

/-- Meaning of SET_ZONE_DESCRIPTOR_EXTENSION (R250). -/
def execSetZoneDescriptorExtension (id : CmdId) (nsid : BitVec 32) (slba : BitVec 64) (s : State) : Host.Outcome State Fault Refusal :=
  .next (setZoneDescriptorExtension id nsid slba s)

/-- Meaning of ZONE_MANAGEMENT_RECEIVE (R250). -/
def execZoneManagementReceive (id : CmdId) (nsid : BitVec 32) (slba : BitVec 64) (ext : Bool) (s : State) : Host.Outcome State Fault Refusal :=
  .next (zoneManagementReceive id nsid slba ext s)

/-- Meaning of INTAKE_VISIT (R292). -/
def execIntakeVisit (waiting : List Waiting) (full : Bool) (s : State) : Host.Outcome State Fault Refusal :=
  .next (intakeVisit waiting full s)

/-- Meaning of TURNSTILE_RELEASE (R296). -/
def execTurnstileRelease (id : CmdId) (s : State) : Host.Outcome State Fault Refusal :=
  .next (turnstileRelease id s)

/-- Meaning of JUGGLER_PICK (R299). -/
def execJugglerPick (a : Act) (w : BitVec 16) (s : State) : Host.Outcome State Fault Refusal :=
  .next (jugglerPick a w s)

/-- Meaning of CMD_ENABLE (R307). -/
def execCmdEnable (s : State) : Host.Outcome State Fault Refusal :=
  .next (cmdEnableCmd s)

/-- Meaning of FETCH_HOLD (R292). -/
def execFetchHold (v : Bool) (s : State) : Host.Outcome State Fault Refusal :=
  .next (fetchHold v s)

/-- Meaning of HIWAT_CLR (R306). -/
def execHiwatClr (s : State) : Host.Outcome State Fault Refusal :=
  .next (hiwatClr s)

end Sys2Proof.Machine
end

