-- ==== Sys2Proof/Machine/Bpf.lean ====
section
/-!
DEFINITION. Programs of the compute namespaces: the instruction set of RFC 9669 in the conformance groups of R334, its
verification at load, and a run up to its end or its next helper call (R334 to R337). Opcode numbers and the meaning of each
instruction are RFC 9669's (PRESUMED, log entry 46).
-/

namespace Sys2Proof.Machine

/-! ## Fields of an instruction -/

/-- Opcode byte. -/
def bOp (w : Nat) : Nat := w % 256
/-- Instruction class. -/
def bClass (w : Nat) : Nat := w % 8
/-- Operation of an ALU or jump instruction. -/
def bCode (w : Nat) : Nat := w / 16 % 16
/-- The second operand is a register. -/
def bX (w : Nat) : Bool := bitOf w 3
/-- Destination register. -/
def bDst (w : Nat) : Nat := w / 256 % 16
/-- Source register. -/
def bSrc (w : Nat) : Nat := w / 4096 % 16
/-- Offset, signed. -/
def bOff (w : Nat) : Int := toSigned 16 (w / 65536 % 65536)
/-- Immediate, signed. -/
def bImm (w : Nat) : Int := toSigned 32 (w / 4294967296 % 4294967296)
/-- Bytes of a load or store. -/
def bSize (w : Nat) : Nat := [4, 2, 1, 8].getD (w / 8 % 4) 1
/-- Mode of a load or store. -/
def bMode (w : Nat) : Nat := w / 32 % 8
/-- The first half of a 64-bit immediate load, which takes two words. -/
def bWide (w : Nat) : Bool := decide (bOp w = 0x18)

/-- An opcode, its selectors and its registers lie in the groups base32, base64, atomic32, atomic64, divmul32 and divmul64. -/
def bpfOk (w : Nat) : Bool :=
  let c := bClass w
  let off := bOff w
  let regs := decide (bDst w ≤ 10 ∧ bSrc w ≤ 10)
  let alu (wide : Bool) : Bool :=
    decide (bDst w ≠ 10) &&
    (match bCode w with
     | 3 | 9 => decide (off = 0 ∨ off = 1)
     | 8 => !bX w && decide (off = 0)
     | 11 => decide (off = 0) || (bX w && (decide (off = 8 ∨ off = 16) || (wide && decide (off = 32))))
     | 13 => decide (off = 0 ∧ (bImm w = 16 ∨ bImm w = 32 ∨ bImm w = 64)) && !(wide && bX w)
     | 14 | 15 => false
     | _ => decide (off = 0))
  regs &&
  (if c = 0 then bWide w && decide (bSrc w = 0 ∧ bDst w ≠ 10)
   else if c = 1 then (decide (bMode w = 3) || decide (bMode w = 4 ∧ bSize w ≠ 8)) && decide (bDst w ≠ 10)
   else if c = 2 then decide (bMode w = 3)
   else if c = 3 then decide (bMode w = 3) ||
     (decide (bMode w = 6 ∧ (bSize w = 4 ∨ bSize w = 8)) &&
       decide (bImm w ∈ [0x00, 0x01, 0x40, 0x41, 0x50, 0x51, 0xA0, 0xA1, 0xE1, 0xF1]))
   else if c = 4 then alu false
   else if c = 7 then alu true
   else if bCode w = 8 then decide (c = 5 ∧ bSrc w ≤ 1) && !bX w
   else if bCode w = 9 then decide (c = 5) && !bX w
   else if bCode w = 0 then !bX w
   else decide (bCode w < 14))

/-! ## Verification at load (R334) -/

/-- Instruction `i` of an image. -/
def codeAt (code : List Nat) (i : Nat) : Nat := code.getD i 0

/-- The second words of wide instructions. -/
def wideHalves (code : List Nat) : List Nat := ((List.range code.length).foldl (fun (m : Bool × List Nat) i =>
    if m.1 then (false, m.2) else if bWide (codeAt code i) then (true, (i + 1) :: m.2) else (false, m.2)) (false, [])).2

/-- Where a jump or a local call lands, relative to the next instruction. -/
def jumpOf (w : Nat) : Option Int :=
  let c := bClass w
  if c ≠ 5 ∧ c ≠ 6 then none
  else if bCode w = 9 then none
  else if bCode w = 8 then (if bSrc w = 1 then some (bImm w) else none)
  else if bCode w = 0 ∧ c = 6 then some (bImm w)
  else some (bOff w)

/-- A target inside the image and outside its wide instructions. -/
def targetOk (code : List Nat) (halves : List Nat) (i : Nat) : Bool :=
  match jumpOf (codeAt code i) with
  | none => true
  | some d =>
    let t : Int := i + 1 + d
    decide (0 ≤ t ∧ t < code.length) && !halves.contains t.toNat

/-- Local calls made from one function. -/
def isCall (w : Nat) : Bool := decide (bClass w = 5 ∧ bCode w = 8 ∧ bSrc w = 1)

/-- Where control can go from an instruction inside its function. -/
def flowFrom (code : List Nat) (i : Nat) : List Nat :=
  let w := codeAt code i
  if bClass w = 5 ∧ bCode w = 9 then []
  else
    let nextI := if bWide w then i + 2 else i + 1
    match jumpOf w with
    | some d =>
      let t := ((i : Int) + 1 + d).toNat
      if isCall w then [nextI] else if bCode w = 0 then [t] else [nextI, t]
    | none => [nextI]

/-- Instructions reached from a front, within `fuel` rounds. -/
def reach (code : List Nat) : Nat → List Nat → List Nat → List Nat
  | 0, seen, _ => seen
  | n + 1, seen, front =>
    let new := ((front.flatMap (flowFrom code)).eraseDups).filter fun i => decide (i < code.length) && !seen.contains i
    if new = [] then seen else reach code n (seen ++ new) new

/-- Entry points of the functions that a function calls. -/
def calleesOf (code : List Nat) (entry : Nat) : List Nat :=
  ((reach code code.length [entry] [entry]).filter fun i => isCall (codeAt code i)).map fun (i : Nat) =>
    ((i : Int) + 1 + bImm (codeAt code i)).toNat

/-- Functions at local call depth `n`. -/
def callLevel (code : List Nat) : Nat → List Nat
  | 0 => [0]
  | n + 1 => ((callLevel code n).flatMap (calleesOf code)).eraseDups

/-- An image passes the verification of R334. -/
def verifyImage (code : List Nat) : Bool :=
  let halves := wideHalves code
  let first := (List.range code.length).filter fun i => !halves.contains i
  decide (1 ≤ code.length ∧ code.length ≤ 65536) &&
  first.all (fun i => bpfOk (codeAt code i) && (!bWide (codeAt code i) || decide (i + 1 < code.length))) &&
  halves.all (fun i => decide (codeAt code i % 4294967296 = 0)) &&
  first.all (targetOk code halves) &&
  first.all (fun i =>
    let w := codeAt code i
    !(decide (bClass w = 5 ∧ bCode w = 8 ∧ bSrc w = 0)) || decide (1 ≤ bImm w ∧ bImm w ≤ 6)) &&
  decide (callLevel code 9 = [])

/-! ## Arithmetic -/

/-- 2^64. -/
def two64 : Nat := 18446744073709551616

/-- Division as RFC 9669 has it: by zero 0; signed truncating, the one overflow wraps. -/
def bDiv (w : Nat) (sgn : Bool) (a b : Nat) : Nat :=
  if b = 0 then 0 else if sgn then ofSigned w (Int.tdiv (toSigned w a) (toSigned w b)) else a / b

/-- Modulo: by zero the dividend. -/
def bMod (w : Nat) (sgn : Bool) (a b : Nat) : Nat :=
  if b = 0 then a else if sgn then ofSigned w (Int.tmod (toSigned w a) (toSigned w b)) else a % b

/-- One arithmetic operation on `w`-bit values; `off` selects its signed or sign-extending form. -/
def bAlu (w code : Nat) (off : Int) (a b : Nat) : Nat :=
  let m := 2 ^ w
  let sh := b % w
  match code with
  | 0 => (a + b) % m
  | 1 => (a + m - b) % m
  | 2 => a * b % m
  | 3 => bDiv w (decide (off = 1)) a b
  | 4 => a ||| b
  | 5 => a &&& b
  | 6 => a * 2 ^ sh % m
  | 7 => a / 2 ^ sh
  | 8 => (m - a) % m
  | 9 => bMod w (decide (off = 1)) a b
  | 10 => a ^^^ b
  | 11 => if off = 0 then b else ofSigned w (toSigned off.toNat (b % 2 ^ off.toNat))
  | _ => ofSigned w (toSigned w a / (2 ^ sh : Nat))

/-- A value with its low `n` bytes in reverse order. -/
def byteSwap (n v : Nat) : Nat := leNat (leBytes n v).reverse

/-- A jump condition on `w`-bit values. -/
def bCond (w code a b : Nat) : Bool :=
  let x := toSigned w a
  let y := toSigned w b
  match code with
  | 0 => true
  | 1 => decide (a = b)
  | 2 => decide (b < a)
  | 3 => decide (b ≤ a)
  | 4 => decide (a &&& b ≠ 0)
  | 5 => decide (a ≠ b)
  | 6 => decide (y < x)
  | 7 => decide (y ≤ x)
  | 10 => decide (a < b)
  | 11 => decide (a ≤ b)
  | 12 => decide (x < y)
  | _ => decide (x ≤ y)

/-! ## Memory of a program (R335) -/

/-- First byte address a program sees of a memory range: its HBM address (R394; the spec names no other address of it,
log entry 46). -/
def rangeAddr (r : Nat × Nat) : Nat := slmBase + r.1

/-- An access lies in one of the ranges. -/
def inRanges (rs : List (Nat × Nat)) (adr n : Nat) : Bool :=
  rs.any fun r => decide (rangeAddr r ≤ adr ∧ adr + n ≤ rangeAddr r + r.2)

/-- Offset of an access in the 512-byte stack. -/
def stackOff (adr n : Nat) : Option Nat :=
  if Config.stackTop ≤ adr + 512 ∧ adr + n ≤ Config.stackTop then some (adr + 512 - Config.stackTop) else none

/-- The table of ranges: base and length of each, 8 little-endian bytes each. -/
def Run.table (r : Run) : List Byte := r.ranges.flatMap fun x => leBytes 8 (rangeAddr x) ++ leBytes 8 x.2

/-- A byte of the stack. -/
def Run.stackAt (r : Run) (i : Nat) : Byte := (Tab.at none r.stack i).getD (Config.stackByte r.seed i)

/-- Bytes a program loads, or none outside the stack, the ranges and their table. -/
def State.runLoad (s : State) (r : Run) (adr n : Nat) : Option (List Byte) :=
  if inRanges r.ranges adr n then some (s.memGet adr n)
  else match stackOff adr n with
    | some o => some ((List.range n).map fun i => r.stackAt (o + i))
    | none =>
      if Config.rangeTable ≤ adr ∧ adr + n ≤ Config.rangeTable + r.table.length then
        some ((r.table.drop (adr - Config.rangeTable)).take n)
      else none

/-- A store of a program, or none outside the stack and the ranges; class 4. -/
def State.runStore (s : State) (r : Run) (adr : Nat) (bs : List Byte) : Option (State × Run) :=
  if inRanges r.ranges adr bs.length then some (s.memPut 4 adr bs, r)
  else match stackOff adr bs.length with
    | some o => some (s, { r with stack := (List.range bs.length).foldl (fun m i => Tab.set none m (o + i) (bs[i]?)) r.stack })
    | none => none

/-! ## One instruction -/

/-- Register of a run. -/
def Run.reg (r : Run) (i : Nat) : Nat := r.regs.getD i 0
/-- Writes a register. -/
def Run.setReg (r : Run) (i v : Nat) : Run := { r with regs := r.regs.set i (v % two64) }
/-- Goes to an instruction. -/
def Run.goto (r : Run) (pc : Int) : Run := { r with pc := pc.toNat }

/-- How a run ends or pauses: it goes on, it waits for a helper, it has exited, it is aborted for a cause (1 access, 2 call
depth, 3 budget), it has loaded poisoned data. -/
inductive RunEnd where
  | on | helper | exit_ | abort (cause : Nat) | poison
deriving DecidableEq, Repr

/-- The value an atomic operation stores; `f` is the operation without its fetch bit. -/
def atomicVal (f old src r0 : Nat) : Nat :=
  match f with
  | 0x00 => old + src
  | 0x40 => old ||| src
  | 0x50 => old &&& src
  | 0xA0 => old ^^^ src
  | 0xE0 => src
  | _ => if old = r0 then src else old

/-- A load or store (classes LD, LDX, ST, STX). -/
def State.runMem (s : State) (code : List Nat) (r : Run) (w : Nat) : State × Run × RunEnd :=
  let n := bSize w
  let nx := r.goto (r.pc + 1)
  match bClass w with
  | 0 => (s, (r.setReg (bDst w) (w / 4294967296 + (codeAt code (r.pc + 1) / 4294967296) * 4294967296)).goto (r.pc + 2), .on)
  | 1 =>
    let adr := ((r.reg (bSrc w) + two64 : Int) + bOff w).toNat % two64
    (match s.runLoad r adr n with
     | none => (s, r, .abort 1)
     | some bs =>
       if inRanges r.ranges adr n && s.memBad adr n then (s, r, .poison)
       else
         let v := leNat bs
         let v := if bMode w = 4 then ofSigned 64 (toSigned (8 * n) v) else v
         (if inRanges r.ranges adr n then s.memTouch 4 adr n else s, nx.setReg (bDst w) v, .on))
  | _ =>
    let adr := ((r.reg (bDst w) + two64 : Int) + bOff w).toNat % two64
    if bClass w = 3 ∧ bMode w = 6 then
      (match s.runLoad r adr n with
       | none => (s, r, .abort 1)
       | some bs =>
         if inRanges r.ranges adr n && s.memBad adr n then (s, r, .poison)
         else
           let old := leNat bs
           let m := 2 ^ (8 * n)
           let f := (bImm w).toNat / 2 * 2
           let x := atomicVal f old (r.reg (bSrc w) % m) (r.reg 0 % m) % m
           match s.runStore r adr (leBytes n x) with
           | none => (s, r, .abort 1)
           | some p =>
             let q := p.2.goto (r.pc + 1)
             (p.1, if (bImm w).toNat % 2 = 0 then q else if f = 0xF0 then q.setReg 0 old else q.setReg (bSrc w) old, .on))
    else
      let v := if bClass w = 2 then ofSigned 64 (bImm w) else r.reg (bSrc w)
      (match s.runStore r adr (leBytes n v) with
       | none => (s, r, .abort 1)
       | some p => (p.1, p.2.goto (r.pc + 1), .on))

/-- An arithmetic instruction (classes ALU, ALU64). -/
def Run.alu (r : Run) (w : Nat) : Run :=
  let nx := r.goto (r.pc + 1)
  let d := bDst w
  let width := if bClass w = 7 then 64 else 32
  let m := 2 ^ width
  if bCode w = 13 then
    let n := (bImm w).toNat / 8
    let low := r.reg d % 2 ^ (8 * n)
    nx.setReg d (if bClass w = 7 ∨ bX w then byteSwap n low else low)
  else
    let b := if bX w then r.reg (bSrc w) % m else ofSigned width (bImm w)
    nx.setReg d (bAlu width (bCode w) (bOff w) (r.reg d % m) b)

/-- A jump, call or exit (classes JMP, JMP32). The frame pointer keeps its value across local calls, which share the one
stack (log entry 46). -/
def Run.jump (r : Run) (w : Nat) : Run × RunEnd :=
  let nx := r.goto (r.pc + 1)
  if bCode w = 9 then
    match r.calls with
    | [] => (r, .exit_)
    | c :: l => ({ r with pc := c.1, calls := l, regs := r.regs.take 6 ++ c.2 ++ r.regs.drop 10 }, .on)
  else if bCode w = 8 then
    if bSrc w = 0 then ({ nx with helper := some (bImm w).toNat }, .helper)
    else if 8 ≤ r.calls.length then (r, .abort 2)
    else ({ r with calls := (r.pc + 1, (r.regs.drop 6).take 4) :: r.calls }.goto (r.pc + 1 + bImm w), .on)
  else
    let width := if bClass w = 5 then 64 else 32
    let m := 2 ^ width
    let b := if bX w then r.reg (bSrc w) % m else ofSigned width (bImm w)
    let d := if bCode w = 0 ∧ bClass w = 6 then bImm w else bOff w
    (if bCond width (bCode w) (r.reg (bDst w) % m) b then r.goto (r.pc + 1 + d) else nx, .on)

/-- Executes one instruction; a fetch outside the image is an access out of range. -/
def State.runOne (s : State) (code : List Nat) (r : Run) : State × Run × RunEnd :=
  if code.length ≤ r.pc then (s, r, .abort 1)
  else
    let w := codeAt code r.pc
    let c := bClass w
    if c = 4 ∨ c = 7 then (s, r.alu w, .on)
    else if c = 5 ∨ c = 6 then (s, r.jump w)
    else s.runMem code r w

/-- Executes until the run ends, waits for a helper, or has used its budget (R337). -/
def State.runFor (code : List Nat) : Nat → State → Run → State × Run × RunEnd
  | 0, s, r => (s, { r with left := 0 }, .abort 3)
  | n + 1, s, r =>
    match s.runOne code r with
    | (t, q, .on) => State.runFor code n t q
    | (t, q, e) => (t, { q with left := n }, e)

end Sys2Proof.Machine
end

