-- ==== Sys2Proof/Machine/Services.lean ====
section
/-!
DEFINITION. Troupe services (chapter "Troupe services: objects, programs and Patchwork", R324 to R350): Flush, the Key Value
command set, programs and Subsystem Local Memory, the peer group.
-/

namespace Sys2Proof.Machine

/-- Kind of an object key: 1 part, 2 commit, 0 neither (R333). -/
def objKind (k : List Byte) : Nat :=
  let p := padKey k
  let kind := (p.getD 15 0).toNat
  if p.getD 14 0 ≠ 0 ∨ 4096 ≤ fieldAt p 12 2 ∨ (kind ≠ 1 ∧ kind ≠ 2) then 0 else kind

/-- Key of part `i` of the object a key belongs to. -/
def partKey (k : List Byte) (i : Nat) : List Byte := (padKey k).take 12 ++ leBytes 2 i ++ [0, 1]

/-- The commit keys under which a part key could be joined: part number field 0 to 4,095 of the same object. -/
def commitsOf (s : State) (nsid : Nat) (k : List Byte) : List KvEnt :=
  ((s.kvKeys nsid).filter fun x => decide (x / 2 ^ 32 = keyNum k / 2 ^ 32 ∧ x % 256 = 2)).filterMap (s.kvEnt nsid)

/-! ## Protected values (R342 to R344) -/

/-- Opens a pack stripe for stored bytes, or finds the open one with room; its number and the offset in it (R342). -/
def State.packInto (s : State) (nsid key : Nat) (bs : List Byte) : State × Nat × Nat :=
  let cap := s.grpK * 65536
  let len := bs.length
  let fresh (t : State) : State × Nat × Nat :=
    let x : Stripe := ⟨t.stripeNo, nsid, key, len, 0, 0, [], [], false, true, bs⟩
    let x := if cap ≤ len then t.sealStripe x else x
    ({ t with stripes := t.stripes ++ [x], stripeNo := t.stripeNo + 1 }.patchWrite t.stripeNo bs, t.stripeNo, 0)
  match s.stripes.find? fun x => !x.sealed && decide (x.nsid = nsid) with
  | some x =>
    if x.len + len ≤ cap then
      ((s.updStripe x.no fun y =>
        let z := { y with len := y.len + len, data := y.data ++ bs }
        if z.len = cap then s.sealStripe z else z).patchWrite x.no bs, x.no, x.len)
    else fresh (s.updStripe x.no s.sealStripe)
  | none => fresh s

/-- Cuts stored bytes into stripes of their own; the number of the first. -/
def State.ownStripes (s : State) (nsid key : Nat) (bs : List Byte) : State × Nat :=
  let big := s.grpK * s.fragMax
  let n := if big = 0 then 1 else ceilDiv bs.length big
  let xs := (List.range n).map fun i =>
    let d := if big = 0 then bs else (bs.drop (i * big)).take big
    s.sealStripe ⟨s.stripeNo + i, nsid, key, d.length, 0, 0, [], [], false, false, d⟩
  (({ s with stripes := s.stripes ++ xs, stripeNo := s.stripeNo + n }.forAll xs fun x t => t.patchWrite x.no x.data).showStripes, s.stripeNo)

/-- Stripes that hold the value of an entry, from the one it begins in on. -/
def State.entStripes (s : State) (nsid : Nat) (e : KvEnt) : List Stripe :=
  match e.stripe.bind fun n => s.stripes.find? fun x => decide (x.no = n) with
  | none => []
  | some x =>
    let big := s.grpK * s.fragMax
    let cnt := if big = 0 then 1 else ceilDiv (e.sofs + 4096 * ceilDiv e.slen 4096) big
    if x.pack then [x] else s.stripes.filter fun y => decide (y.no = x.no) || decide (y.nsid = nsid ∧ y.key = x.key ∧ x.no ≤ y.no ∧ y.no < x.no + cnt)

/-- A data fragment of a stripe cannot be read: a parity fragment replaces it (R344). -/
def State.decodes (s : State) (x : Stripe) : Bool :=
  x.acked && (x.frags.take s.grpK).any fun f => decide (f.st ≠ 1) || f.bad || !s.isMember f.holder

/-- The peer group is active with too few members for a stripe, or not active (R343). -/
def State.thin (s : State) : Bool := !s.on R.PWK_CTL_ACT || decide (s.members.length < s.grpK + s.grpM)

/-! ## Key Value commands (R290, R330 to R333, R344) -/

/-- A Key Value command on a key: the service runs, the namespace is there, and the key is one the namespace takes; its entry
is looked up in the index in HBM (R32, R330). -/
def State.onKey (s : State) (c : Cmd) (nsid : Nat) (key : List Byte) (f : Ns → State → State) : State :=
  s.onNs c nsid [1] fun n t =>
    if !t.on R.TRU_CTL_EN then t.answer c.id stNotReady
    else if key = [] ∨ 16 < key.length ∨ (n.obj = true ∧ objKind key = 0) then t.answer c.id stField
    else f n (t.partRead 13 2 (nsid * 2 ^ 128 + keyNum key) 64)

/-- The commit of an object of `n` parts (R333): its length, its length on media and its bytes as stored, or none where parts
are missing or short. -/
def State.joinParts (s : State) (ns : Ns) (nsid : Nat) (key : List Byte) (n : Nat) : Option (Nat × Nat × List Byte) :=
  let ps := (List.range n).map fun i => s.kvEnt nsid (keyNum (partKey key i))
  if 4096 < n ∨ ps.any (·.isNone) then none
  else
    let es := ps.filterMap id
    if (es.take (n - 1)).any fun e => decide (e.val.length ≠ 2097152) then none
    else some (es.foldl (fun m e => m + e.val.length) 0, es.foldl (fun m e => m + e.slen) 0,
      es.zipIdx.flatMap fun p => kvStored ns (partKey key p.2) (kvPayload ns p.1.val))

/-- Live granules of a band of a Key Value namespace (R331). -/
def State.kvLive (s : State) (nsid id : Nat) : Nat :=
  ((s.kvKeys nsid).filterMap fun k => (s.kvEnt nsid k).bind fun e => match e.loc with
    | some l => if l / 65536 = id then some (ceilDiv e.slen 4096) else none
    | none => none).foldl (· + ·) 0

/-- Bands of Key Value namespaces whose live granules have fallen below half their capacity are queued for reclaim (R331);
`was` is the state before. Cause 5 is the model's (log entry 27). -/
def State.kvShrink (s was : State) : State :=
  s.forAll (s.nss.flatMap fun e => match e.2 with
    | some n => if n.csi = 1 then n.bands.map fun b => (e.1, b) else []
    | none => []) fun p t =>
    t.when (decide (65536 ≤ 2 * was.kvLive p.1 p.2 ∧ 2 * t.kvLive p.1 p.2 < 65536)) fun u => u.reclaim p.2 5 (u.band p.2).dcls

/-- What a change of the index leaves to do: stripes without a value leave, fragments follow them, bands shrink. -/
def State.kvTidy (s was : State) : State := (s.gcStripes.tidyFrags).kvShrink was

/-- STORE (R331 to R333, R343). -/
def storeCmd (id : CmdId) (nsid : BitVec 32) (key value : List Byte) (ifExists ifNew fua : Bool) (s : State) : State :=
  let n := nsid.toNat
  let k := keyNum key
  s.taking ⟨id, n, [.key n key true], ceilDiv value.length 4096⟩ fun c t => t.onKey c n key fun ns t =>
    let old := t.kvEnt n k
    let kind := if ns.obj then objKind key else 0
    let gen := (match old with | some e => e.gen + 1 | none => 1) % 4294967296
    let a := State.kvAct ns n k
    let stored := kvStored ns key (kvPayload ns value)
    let prot := ns.prot && decide (kind = 0)
    let done (u : State) : State := (u.kvTidy t).finishWrite c [a] fua 0
    if 2097152 < value.length then t.answer id stField
    else if kind = 1 ∧ (commitsOf t n key).any fun e => decide (fieldAt (padKey key) 12 2 < e.nparts) then t.answer id stField
    else if t.actDown a then t.answer id stNotReady
    else if ifExists ∧ old = none then t.answer id stKeyNone
    else if ifNew ∧ old ≠ none then t.answer id stKeyExists
    else if old = none ∧ idxMax ≤ t.idxCount then t.answer id stField
    else if ns.prot ∧ t.thin then
      ((t.put R.PWK_STAT_THIN 1).post 0x07 0x16 warning noInst [t.members.length]).answer id stNotReady
    else if kind = 2 then
      if value.length ≠ 2 then t.answer id stField
      else match t.joinParts ns n key (leNat value) with
        | none => t.answer id stField
        | some l =>
          let r := if ns.prot then t.ownStripes n k l.2.2 else (t, 0)
          let e : KvEnt := ⟨leBytes 8 l.1, gen, if ns.prot then l.2.2.length else l.2.1, ns.prot, leNat value, false,
            if ns.prot then some r.2 else none, 0, false, none, false, false, true⟩
          let big := t.grpK * t.fragMax
          let u := ({ r.1 with wseq := r.1.wseq + 1 } : State).kvSetOn r.1.wseq a n k (some e)
          let x := (if ns.prot then List.range (leNat value) else []).foldl (fun (v : State × Nat) i =>
            match v.1.kvEnt n (keyNum (partKey key i)) with
            | some p =>
              let q := { p with prot := true, loc := none, stripe := some (if big = 0 then r.2 else r.2 + v.2 / big),
                                sofs := if big = 0 then v.2 else v.2 % big }
              (v.1.kvSetOn r.1.wseq a n (keyNum (partKey key i)) (some q), v.2 + 4096 * ceilDiv p.slen 4096)
            | none => v) (u, 0)
          done x.1
    else if !prot ∧ stored ≠ [] ∧ (t.kvAlloc n a (ceilDiv stored.length 4096)).isNone then t.answer id stCap
    else
      let l := mediaLen ns value
      let ent (stripe : Option Nat) (ofs : Nat) (loc : Option Nat) : Option KvEnt :=
        some ⟨value, gen, l, prot, 0, decide (kind = 1), stripe, ofs, false, loc, decide (l < value.length), prot && decide (l < 65536), false⟩
      if !prot then
        let x := t.kvPlaceValue t.wseq n a stored
        done (x.1.kvSet ns n k (ent none 0 x.2))
      else if 65536 ≤ l then
        let x := t.ownStripes n k stored
        done (x.1.kvSet ns n k (ent (some x.2) 0 none))
      else
        let x := t.packInto n k stored
        done (x.1.kvSet ns n k (ent (some x.2.1) x.2.2 none))

/-- The media operations that read granules of a value or a fragment; none of those that still stand in staging. -/
def State.granuleJobs (s : State) (c : Cmd) (nsid : Nat) (loc : Option Nat) (g : Nat) : List (Nat × Job) :=
  match loc with
  | some l => if (List.range g).all fun i => s.staged nsid (l + i) then [] else s.runs .read (some c.no) false (g + 1) nsid l g
  | none => []

/-- The media operations that read this drive's data fragments of stripes; data still in staging needs none (R344). -/
def State.fragJobs (s : State) (c : Cmd) (xs : List Stripe) : List (Nat × Job) :=
  match s.fragNsid with
  | none => []
  | some (nsid, _) => xs.flatMap fun x =>
    if x.acked then (x.frags.take s.grpK).flatMap fun f =>
      if f.holder = serial then s.granuleJobs c nsid f.loc (ceilDiv (x.f + 64) 4096) else []
    else []

/-- RETRIEVE: an unprotected value comes from staging or through the Juggler from its place on the media; a protected one
from staging, or from its data fragments, this drive's own through the Juggler, and where these are short or on an
unavailable actuator from parity; a commit key's is its object's length, of the index (R32, R262, R298, R333, R344). -/
def retrieveCmd (id : CmdId) (nsid : BitVec 32) (key : List Byte) (s : State) : State :=
  let n := nsid.toNat
  let k := keyNum key
  s.taking ⟨id, n, [.key n key false], 0⟩ fun c t => t.onKey c n key fun ns t =>
    match t.kvEnt n k with
    | none => t.answer id stKeyNone
    | some e =>
      let out (u : State) : State := u.complete id stOk e.val.length (.bytes e.val)
      let wait (u : State) (js : List (Nat × Job)) : State :=
        (u.updCmd c.no fun d => { d with dw0 := e.val.length, data := .bytes e.val }).queueJobs c js
      let xs := t.entStripes n e
      let down := t.actDown (State.kvAct ns n k)
      if e.comm then out t
      else if xs = [] then
        let g := ceilDiv e.slen 4096
        let js := t.granuleJobs c n e.loc g
        let r := e.loc.map fun l => (n, l, g)
        if down then t.answer id stNotReady
        else if e.loc.any fun l => t.anyLost n l g then t.answer id stUre
        else if js = [] then out (t.sendData { c with range := r })
        else wait (t.updCmd c.no fun d => { d with range := r }) js
      else if xs.any t.unavailable then t.showStripes.answer id stUre
      else
        let js := t.fragJobs c xs
        if xs.any t.decodes ∨ down ∨ js.any fun p => t.actDown p.1 then
          out ((t.forAll xs fun x u => u.patchRead x.no x.len).count R.PWK_CNT_DEGRD)
        else if js = [] then out t
        else wait t js

/-- KV_DELETE: of a commit key, the object and every one of its parts (R333). -/
def kvDelete (id : CmdId) (nsid : BitVec 32) (key : List Byte) (s : State) : State :=
  let n := nsid.toNat
  let k := keyNum key
  s.taking ⟨id, n, [.key n key true], 0⟩ fun c t => t.onKey c n key fun ns t =>
    match t.kvEnt n k with
    | none => t.answer id stKeyNone
    | some e =>
      if t.actDown (State.kvAct ns n k) then t.answer id stNotReady
      else
        let ks := if ns.obj ∧ objKind key = 2 then (List.range e.nparts).map fun i => keyNum (partKey key i) else []
        let a := State.kvAct ns n k
        (((k :: ks).foldl (fun (u : State) x => u.kvSetOn t.wseq a n x none) { t with wseq := t.wseq + 1 }).kvTidy t).finishWrite c [a] false 0

/-- EXIST. -/
def existCmd (id : CmdId) (nsid : BitVec 32) (key : List Byte) (s : State) : State :=
  let n := nsid.toNat
  s.taking ⟨id, n, [.key n key false], 0⟩ fun c t => t.onKey c n key fun _ t =>
    t.answer id (if (t.kvEnt n (keyNum key)).isSome then stOk else stKeyNone)

/-- LIST: keys from the one given on, in ascending unsigned byte order (R332). -/
def listCmd (id : CmdId) (nsid : BitVec 32) (first : List Byte) (s : State) : State :=
  let n := nsid.toNat
  s.taking ⟨id, n, [.keys n], 0⟩ fun c t => t.onNs c n [1] fun _ t =>
    if !t.on R.TRU_CTL_EN then t.answer id stNotReady
    else if 16 < first.length then t.answer id stField
    else t.complete id stOk 0 (.fields ((t.kvKeys n).filter fun k => decide (keyNum first ≤ k)))

/-! ## Flush (R254, R255, R302, R343) -/

/-- Actuators that hold data of a namespace not under a durable point. -/
def State.dirtyOf (s : State) (nsid : Nat) : List Nat :=
  let v := (s.vol.filterMap fun e => if e.1 / 18446744073709551616 = nsid ∧ e.2.isSome then some (s.lbaAct nsid (e.1 % 18446744073709551616)) else none)
  let k := s.kvLog.filterMap fun o => if o.nsid = nsid then some o.act else none
  (List.range 4).filter fun a => (v ++ k).contains a

/-- Flush of namespaces: the points of their actuators begin, pack stripes are sealed, and it waits for both and for the
holders of stripes not yet acknowledged. -/
def State.flushNs (s : State) (c : Cmd) (ns : List Nat) : State :=
  let acts := (List.range 4).filter fun a => ns.any fun n => (s.dirtyOf n).contains a
  if acts.any s.actDown then s.answer c.id stWrFault
  else
    let pts := acts.map fun a => (a, s.wseq)
    let t := s.forAll acts fun a u => u.beginPoint a
    let mine := t.stripes.filter fun x => ns.contains x.nsid && !x.acked
    if mine.any fun x => x.frags.any fun f => decide (f.st = 3) then t.answer c.id stWrFault
    else if mine = [] ∧ pts = [] then t.answer c.id stOk
    else
      { t with stripes := t.stripes.map fun (x : Stripe) => if ns.contains x.nsid && !x.acked then { x with waits := x.waits ++ [c.no] } else x }.updCmd
        c.no fun d => { d with parts := mine.length, points := pts }

/-- FLUSH; NSID FFFF_FFFFh covers every namespace (R254). -/
def flushCmd (id : CmdId) (nsid : BitVec 32) (s : State) : State :=
  let n := nsid.toNat
  s.taking ⟨id, n, [], 0⟩ fun c t =>
    if n = 0xFFFFFFFF then
      if !t.on R.RMC_STAT_IO_READY then t.answer id stNotReady
      else if t.get V.sanState = 1 then t.answer id stSanBusy
      else t.flushNs c (t.nsNamed n)
    else t.onNs c n [0, 1, 2] fun _ u => u.flushNs c [n]

/-! ## Programs (R334 to R337) -/

/-- A command on a compute namespace, which exists from the end of track A (R287). -/
def State.onCore (s : State) (c : Cmd) (nsid : Nat) (f : Nat → State → State) : State :=
  if nsid < 1016 ∨ 1024 ≤ nsid then s.answer c.id (if (s.ns nsid).isSome ∨ nsid = 1024 then stOpcode else stNs)
  else if !s.trackA ∨ !s.on R.TRU_CTL_EN then s.answer c.id stNotReady
  else f (nsid - 1016) s

/-- A program slot. -/
def State.prog (s : State) (core slot : Nat) : Option Prog := Tab.at none s.progs (core * 16 + slot)

/-- LOAD_PROGRAM. -/
def loadProgram (id : CmdId) (nsid : BitVec 32) (slot ptype : BitVec 8) (image : List (BitVec 64)) (s : State) : State :=
  s.admin id fun c t => t.onCore c nsid.toNat fun core t =>
    let code := image.map (·.toNat)
    if 16 ≤ slot.toNat ∨ ptype.toNat ≠ 0x80 ∨ !verifyImage code then t.answer id stField
    else
      ({ t with progs := Tab.set none t.progs (core * 16 + slot.toNat) (some ⟨code, false⟩) }.post 0x06 0x11 info noInst
        [core, slot.toNat, code.length]).answer id stOk

/-- PROGRAM_ACTIVATION_MANAGEMENT. -/
def programActivation (id : CmdId) (nsid : BitVec 32) (slot : BitVec 8) (activate : Bool) (s : State) : State :=
  s.admin id fun c t => t.onCore c nsid.toNat fun core t =>
    match (if 16 ≤ slot.toNat then none else t.prog core slot.toNat) with
    | none => t.answer id stField
    | some p =>
      ({ t with progs := Tab.set none t.progs (core * 16 + slot.toNat) (some { p with active := activate }) }.when activate fun u =>
        u.post 0x06 0x11 info noInst [core, slot.toNat, p.code.length]).answer id stOk

/-- Program Aborted (R337). -/
def stProgAbort : Stat := (1, 0xC0)

/-- A run's outcome is applied: it waits for a helper, or its command ends (R335, R337, R395). -/
def State.runOut (core : Nat) (x : State × Run × RunEnd) : State :=
  let s := x.1
  let r := x.2.1
  let bits := s.get R.TRU_STAT_PROG_RUN
  match x.2.2 with
  | .on | .helper =>
    { s with progRuns := Tab.set none s.progRuns core (some r) }.put R.TRU_STAT_PROG_RUN (if bitOf bits core then bits else bits + 2 ^ core)
  | e =>
    let t := { s with progRuns := Tab.set none s.progRuns core none }.put R.TRU_STAT_PROG_RUN (if bitOf bits core then bits - 2 ^ core else bits)
    match t.cmdNoOf r.cmd, e with
    | some c, .exit_ => t.complete c.id stOk (r.reg 0) .none
    | some c, .poison => t.answer c.id stUre
    | some c, .abort cause =>
      (((t.count R.TRU_CNT_ABORT).evt R.TRU_EVT_ABORT).post 0x06 0x10 warning noInst [core, r.slot, cause, r.pc]).complete c.id stProgAbort cause .none
    | _, _ => t

/-- A run goes on until it ends or calls a helper. -/
def State.runOn (s : State) (core : Nat) (r : Run) : State :=
  match s.prog core r.slot with
  | some p => State.runOut core (State.runFor p.code r.left s { r with helper := none })
  | none => State.runOut core (s, r, .abort 1)

/-- EXECUTE_PROGRAM: one at a time on a core, in admission order (R335). r0, r5 to r9 beyond those the command sets, and the
stack, start undefined. -/
def executeProgram (id : CmdId) (nsid : BitVec 32) (slot rset : BitVec 8) (dw12 dw13 dw14 dw15 : BitVec 32) (s : State) : State :=
  let n := nsid.toNat
  s.taking ⟨id, n, if rset.toNat = 0 then [] else [.rangeSet rset.toNat], 0⟩ fun c t => t.onCore c n fun core t =>
    let rs := if rset.toNat = 0 then some [] else (t.rsets.find? fun e => decide (e.1 = rset.toNat)).map (·.2)
    if (Tab.at none t.progRuns core).isSome ∨ t.cmds.any fun d => decide (d.nsid = n ∧ d.no < c.no) then
      t.updCmd c.no fun d => { d with begun := false }
    else match (if 16 ≤ slot.toNat then none else t.prog core slot.toNat), rs with
      | some p, some rs =>
        if !p.active then t.answer id stField
        else
          let junk (i : Nat) : Nat := Config.freeValue (t.free + i) % two64
          let regs : List Nat := [junk 0, rs.length, Config.rangeTable % two64, dw13.toNat, dw14.toNat, dw15.toNat, junk 1, junk 2, junk 3, junk 4,
            Config.stackTop % two64]
          let left := if dw12.toNat = 0 then 10000000000 else dw12.toNat * 1048576
          { t with free := t.free + 6 }.runOn core ⟨c.no, slot.toNat, regs, 0, [], t.free + 5, [], left, rs, none⟩
      | _, _ => t.answer id stField

/-- A range of a helper, in the ranges of the run and free of poison. -/
def Run.range (r : Run) (adr n : Nat) : Bool := inRanges r.ranges adr n

/-- A negative result; which one is left open. -/
def State.negative (s : State) : Nat := 2 ^ 63 + s.freeVal % 2 ^ 63

/-- A helper of a run that waits for it: its result goes to r0 and the run goes on. r1 to r5 hold nothing defined
afterwards (RFC 9669). -/
def State.helperDo (s : State) (core n : Nat) (f : Run → State → State × Option Nat) : State :=
  match Tab.at none s.progRuns core with
  | none => s
  | some r =>
    if r.helper ≠ some n then s
    else
      let x := f r s
      let t := x.1
      let v := x.2.getD t.negative
      let junk := (List.range 5).map fun i => Config.freeValue (t.free + 1 + i) % two64
      { t with free := t.free + 6 }.runOn core { r with regs := v % two64 :: junk ++ r.regs.drop 6 }

/-- Writes the output of a helper, if it fits. -/
def State.helperOut (s : State) (r : Run) (dst room : Nat) (out : List Byte) : State × Option Nat :=
  if out.length ≤ room ∧ r.range dst out.length then (s.memPut 4 dst out, some out.length) else (s, none)

/-- HELPER_COPY: r1 destination, r2 source, r3 length (order of arguments: log entry 46). -/
def helperCopy (core : Fin 8) (s : State) : State :=
  s.helperDo core 1 fun r t =>
    if r.range (r.reg 2) (r.reg 3) ∧ !t.memBad (r.reg 2) (r.reg 3) then
      let bs := t.memGet (r.reg 2) (r.reg 3)
      let u := (t.memTouch 4 (r.reg 2) (r.reg 3)).helperOut r (r.reg 1) (r.reg 3) bs
      (u.1, u.2.map fun _ => 0)
    else (t, none)

/-- HELPER_ZCOMP: r1 destination, r2 its room, r3 source, r4 its length, r5 level 1 to 3; the length is returned. -/
def helperZcomp (core : Fin 8) (s : State) : State :=
  s.helperDo core 2 fun r t =>
    if r.range (r.reg 3) (r.reg 4) ∧ !t.memBad (r.reg 3) (r.reg 4) ∧ inR 1 3 (r.reg 5) then
      (t.memTouch 7 (r.reg 3) (r.reg 4)).helperOut r (r.reg 1) (r.reg 2) ((Config.zstdPack (r.reg 5) ((t.memGet (r.reg 3) (r.reg 4)).map (·.toNat))).map (BitVec.ofNat 8))
    else (t, none)

/-- HELPER_ZDECOMP: the same without a level. -/
def helperZdecomp (core : Fin 8) (s : State) : State :=
  s.helperDo core 3 fun r t =>
    if r.range (r.reg 3) (r.reg 4) ∧ !t.memBad (r.reg 3) (r.reg 4) then
      match Config.zstdUnpack ((t.memGet (r.reg 3) (r.reg 4)).map (·.toNat)) with
      | some out => (t.memTouch 7 (r.reg 3) (r.reg 4)).helperOut r (r.reg 1) (r.reg 2) (out.map (BitVec.ofNat 8))
      | none => (t, none)
    else (t, none)

/-- HELPER_SHA256: r1 source, r2 length, r3 where the 32 bytes go. -/
def helperSha256 (core : Fin 8) (s : State) : State :=
  s.helperDo core 4 fun r t =>
    if r.range (r.reg 1) (r.reg 2) ∧ !t.memBad (r.reg 1) (r.reg 2) then
      let d := ((Config.sha256 ((t.memGet (r.reg 1) (r.reg 2)).map fun (b : Byte) => b.toNat)).map (fun (x : Nat) => (BitVec.ofNat 8 x : Byte)) ++ List.replicate 32 0).take 32
      let u := (t.memTouch 4 (r.reg 1) (r.reg 2)).helperOut r (r.reg 3) 32 d
      (u.1, u.2.map fun _ => 0)
    else (t, none)

/-- HELPER_CRC32C: r1 source, r2 length; the CRC is returned. -/
def helperCrc32c (core : Fin 8) (s : State) : State :=
  s.helperDo core 5 fun r t =>
    if r.range (r.reg 1) (r.reg 2) ∧ !t.memBad (r.reg 1) (r.reg 2) then
      (t.memTouch 4 (r.reg 1) (r.reg 2), some (crc32c (t.memGet (r.reg 1) (r.reg 2)))) else (t, none)

/-- HELPER_OPSEC. -/
def helperOpsec (core : Fin 8) (s : State) : State := s.helperDo core 6 fun _ t => (t, some t.opsec)

/-! ## Subsystem Local Memory (R290, R335, R394) -/

/-- Bytes of the memory namespace. -/
def memSize : Nat := 6442450944

/-- A command on the memory namespace. -/
def State.onMem (s : State) (c : Cmd) (nsid : Nat) (f : State → State) : State :=
  if nsid ≠ memNsid then s.answer c.id (if (s.ns nsid).isSome ∨ inR 1016 1023 nsid then stOpcode else stNs)
  else if !s.trackA then s.answer c.id stNotReady
  else f s

/-- MEMORY_RANGE_SET_MANAGEMENT: a create returns the lowest free number from 1 to 256. -/
def memoryRangeSet (id : CmdId) (nsid : BitVec 32) (create : Bool) (rset : BitVec 16) (ranges : List (BitVec 64 × BitVec 64)) (s : State) : State :=
  s.admin id fun c t => t.onCore c nsid.toNat fun _ t =>
    let rs := ranges.map fun r => (r.1.toNat, r.2.toNat)
    if create then
      if rs = [] ∨ 16 < rs.length ∨ rs.any fun r => decide (r.1 % 4096 ≠ 0 ∨ r.2 % 4096 ≠ 0 ∨ r.2 = 0 ∨ memSize < r.1 + r.2) then t.answer id stField
      else match ((List.range 256).map (· + 1)).find? fun i => !(t.rsets.any fun e => decide (e.1 = i)) with
        | none => t.answer id stField
        | some i => { t with rsets := Tab.set [] t.rsets i rs }.complete id stOk i .none
    else if t.rsets.any fun e => decide (e.1 = rset.toNat) then { t with rsets := Tab.set [] t.rsets rset.toNat [] }.answer id stOk
    else t.answer id stField

/-- MEMORY_READ: the fabric sends the data (class 1, R399). -/
def memoryRead (id : CmdId) (nsid : BitVec 32) (off : BitVec 64) (len : BitVec 32) (s : State) : State :=
  let a := off.toNat
  let n := len.toNat
  s.taking ⟨id, nsid.toNat, [.mem a n false], 0⟩ fun c t => t.onMem c nsid.toNat fun t =>
    if n = 0 ∨ 2097152 < n ∨ memSize < a + n then t.answer id stField
    else if t.memBad (slmBase + a) n then t.answer id stUre
    else (t.memTouch 1 (slmBase + a) n).complete id stOk 0 (.bytes (t.memGet (slmBase + a) n))

/-- MEMORY_WRITE: the fabric receives the data (class 0, R399). -/
def memoryWrite (id : CmdId) (nsid : BitVec 32) (off : BitVec 64) (data : List Byte) (s : State) : State :=
  let a := off.toNat
  let n := data.length
  s.taking ⟨id, nsid.toNat, [.mem a n true], 0⟩ fun c t => t.onMem c nsid.toNat fun t =>
    if n = 0 ∨ 2097152 < n ∨ memSize < a + n then t.answer id stField
    else (t.memPut 0 (slmBase + a) data).answer id stOk

/-- Source of a Memory Copy as namespace, first byte or block, length; and its length in bytes. -/
def srcOf : CopySrc → Nat × Nat × Nat
  | .mem o n => (memNsid, o, n)
  | .lba n l k => (n, l, k)

/-- Bytes of a source. -/
def srcLen (x : Nat × Nat × Nat) : Nat := if x.1 = memNsid then x.2.2 else x.2.2 * 4096

/-- The status of a source of a Memory Copy. -/
def State.srcStat (s : State) (c : Cmd) (x : Nat × Nat × Nat) : Stat :=
  if x.1 = memNsid then
    if x.2.2 = 0 ∨ memSize < x.2.1 + x.2.2 then stField else if s.memBad (slmBase + x.2.1) x.2.2 then stUre else stOk
  else if !s.on R.RMC_STAT_IO_READY then stNotReady
  else match s.ns x.1 with
    | none => stNs
    | some n =>
      if n.del.any fun d => decide (d < c.no) then stNs
      else if !n.att.contains c.id.cntlid ∨ n.csi = 1 then stField
      else if s.get V.sanState = 1 then stSanBusy
      else if s.get V.sanState = 3 then stSanFail
      else if n.erase then stFormat
      else if !n.keyOk then stNotReady
      else firstStat [s.rangeStat n x.1 x.2.1 x.2.2, s.zoneReadStat n x.1 x.2.1 x.2.2, if s.anyLost x.1 x.2.1 x.2.2 then stUre else stOk]

/-- MEMORY_COPY: up to 16 sources; blocks that do not stand in staging are read from the media first; class 2. -/
def memoryCopy (id : CmdId) (nsid : BitVec 32) (dst : BitVec 64) (srcs : List CopySrc) (s : State) : State :=
  let d := dst.toNat
  let xs := srcs.map srcOf
  let n := (xs.map srcLen).foldl (· + ·) 0
  let scope (x : Nat × Nat × Nat) : Scope := if x.1 = memNsid then .mem x.2.1 x.2.2 false else .lba x.1 x.2.1 x.2.2 false
  s.taking ⟨id, nsid.toNat, xs.map scope ++ [.mem d n true], 0⟩ fun c t => t.onMem c nsid.toNat fun t =>
    let st := firstStat (xs.map (t.srcStat c))
    if xs = [] ∨ 16 < xs.length ∨ memSize < d + n then t.answer id stField
    else if st ≠ stOk then t.answer id st
    else
      let far := xs.filter fun x => decide (x.1 ≠ memNsid) && !(List.range x.2.2).all fun i => t.staged x.1 (x.2.1 + i)
      let js := far.flatMap fun x => t.runs .read (some c.no) false (x.2.2 + 1) x.1 x.2.1 x.2.2
      let u := t.updCmd c.no fun e => { e with parts := js.length, fin := .copy d xs }
      if js = [] then (u.copyDone { c with fin := .copy d xs }).answer id stOk
      else u.queueJobs c js

/-! ## Enable (R349) -/

/-- `TRU_CTL.EN` 0→1; `defaultsOk`: the service defaults pass their check. -/
def State.truEnable (s : State) (defaultsOk : Bool) : State × Nat :=
  s.enable R.TRU_CTL_EN R.TRU_CHK_REASON [(!s.on R.CMD_CTL_EN, 0x0601), (!defaultsOk, 0x0602)] id

/-- TRU_ENABLE. -/
def truEnableCmd (defaultsOk : Bool) (s : State) : State := (s.truEnable defaultsOk).1

/-! ## Membership (R338 to R341) -/

/-- Epoch `a` is newer than `b`, wrap-aware. -/
def epochNewer (a b : Nat) : Bool := decide (a ≠ b ∧ (a + 4294967296 - b) % 4294967296 < 2147483648)

/-- This drive leads: of the members it hears, itself among them, it has the lowest serial. -/
def State.leads (s : State) : Bool :=
  s.on R.PWK_CTL_ACT && s.isMember serial &&
    s.members.all fun p => !p.heard || decide (p.serial = serial) || decide (beNat serial < beNat p.serial)

/-- Shows the membership. -/
def State.showGroup (s : State) : State :=
  (s.puts [(R.PWK_STAT_MEMBERS, s.members.length), (R.PWK_STAT_LEADER, b2n s.leads), (R.PWK_STAT_THIN, b2n s.thin),
    (R.PWK_STAT_PROPOSING, b2n s.proposal.isSome), (R.PWK_EPOCH_EPOCH, s.get V.pwkEpoch)]).showStripes

/-- The group record fails `GCRC`, or a field is outside its range. -/
def State.groupBad (s : State) : Bool :=
  let b := getBytes s.group 0 128
  !crcOk b || (b.take 16).all (fun x => decide (x = 0)) ||
    !(inR 4 28 s.grpK && inR 2 4 s.grpM && decide (s.pgrp 0x12 1 ≤ 32) && inR 0 4 (s.pgrp 0x13 1) && inR 5 600 (s.pgrp 0x14 2) &&
      inR 1 60 (s.pgrp 0x16 2) && inR 10 500 (s.pgrp 0x18 2) && inR 1 2 (s.pgrp 0x1A 1) && decide (s.pgrp 0x1B 1 = 0) &&
      decide (1 ≤ s.pgrp 0x2C 4) && decide (s.pgrp 0x60 28 = 0))

/-- A transport is enabled in the network record: 1 TCP, 2 RoCEv2 (R314, R338). -/
def State.transportOn (s : State) (tr : Nat) : Bool := bitOf (s.optLe 0x87 1) (if tr = 1 then 1 else 0)

/-- The highest free storage NSID. -/
def State.highNsid (s : State) : Option Nat := ((List.range 1015).map fun i => 1015 - i).find? fun n => (s.ns n).isNone

/-- The fragment namespace exists from an earlier activation, or can be created; the state with it. -/
def State.fragNs (s : State) : Option State :=
  if s.nss.any fun e => (e.2.map (·.frag)).getD false then some s
  else s.highNsid.bind fun n =>
    let r := s.makeNs 1 (s.pgrp 0x2C 4 * 1073741824) true n
    let att := s.ctrlIds.filter fun c => ((s.ctrl c).map (·.member)).getD false
    if r.2 = stOk then (r.1.ns n).map fun x => r.1.setNs n (some { x with att := att }) else none

/-- `PWK_CTL.ACT` 0→1 (R339, R349). The first membership is this drive alone, in epoch 0 (log entry 47). -/
def State.pwkAct (s : State) : State × Nat :=
  s.enable R.PWK_CTL_ACT R.PWK_CHK_REASON
    [(!s.on R.TRU_CTL_EN, 0x0701), (s.groupBad, 0x0702),
     (decide (32 < s.grpK + s.grpM ∨ s.pgrp 0x12 1 < s.grpK + s.grpM), 0x0703),
     (s.fragNs.isNone, 0x0704), (!s.on R.FAB_CTL_EN || !s.transportOn (s.pgrp 0x1A 1), 0x0705)]
    fun t =>
      let u := t.fragNs.getD t
      let me : Peer := ⟨serial, 0, 32, 8, 4, true, u.get V.pwkEpoch⟩
      { u with members := if u.isMember serial then u.members else [me] }.showGroup

/-- PWK_ACT. -/
def pwkActCmd (s : State) : State := s.pwkAct.1

/-- A protected namespace exists. -/
def State.anyProt (s : State) : Bool := s.nss.any fun e => (e.2.map (·.prot)).getD false

/-- Clearing `ACT`; false where it is refused (R339). -/
def State.pwkClear (s : State) : State × Bool :=
  if s.anyProt then (s, false) else ({ s with cands := [], authFail := [], proposal := none }.put R.PWK_CTL_ACT 0 |>.showGroup, true)

/-- One entry of the discovery log (R340): a member heard again, a candidate admitted, or one that failed. -/
def State.discover (s : State) (x : Found) : State :=
  if !x.lamcel ∨ x.serial = serial ∨ s.authFail.contains x.addr then s
  else if !x.authOk then
    if s.isMember x.serial then s
    else ({ s with authFail := s.authFail ++ [x.addr] }.evt R.PWK_EVT_AUTH_FAIL).post 0x07 0x17 error noInst [beNat x.addr]
  else if s.isMember x.serial then
    { s with members := s.members.map fun (p : Peer) => if p.serial = x.serial then { p with heard := true, epoch := x.epoch } else p }.showGroup
  else if x.gid ≠ getBytes s.group 0 16 ∨ x.kMax < s.grpK ∨ x.mMax < s.grpM ∨ x.fMax < s.pgrp 0x13 1 then s
  else if s.cands.any fun p => decide (p.serial = x.serial) then s
  else { s with cands := s.cands ++ [⟨x.serial, 0, x.kMax, x.mMax, x.fMax, true, x.epoch⟩] }

/-- DISCOVERY_POLL. -/
def discoveryPoll (log : List Found) (s : State) : State :=
  if s.on R.PWK_CTL_ACT then (s.forAll log fun x t => t.discover x).stepEnd 12 else s

/-- DISCOVERY_LOG_PAGE_CHANGE: the device reads the log. -/
def discoveryChange (log : List Found) (s : State) : State := if s.on R.PWK_CTL_ACT then s.forAll log fun x t => t.discover x else s

/-- CANDIDATE_AUTH_RETRY: 10 min after it failed. -/
def candidateRetry (x : Found) (s : State) : State :=
  if s.on R.PWK_CTL_ACT ∧ s.authFail.contains x.addr then
    { s with authFail := s.authFail.filter fun a => decide (a ≠ x.addr) }.discover x
  else s

/-- PEER_TIMEOUT: a member, or a candidate, is silent for `PEER_TMO`. -/
def peerTimeout (sn : List Byte) (s : State) : State :=
  let t := { s with cands := s.cands.filter fun p => decide (p.serial ≠ sn) }
  match t.members.find? fun p => decide (p.serial = sn) && p.heard && decide (sn ≠ serial) with
  | none => t
  | some p =>
    (({ t with members := t.members.map fun (q : Peer) => if q.serial = sn then { q with heard := false } else q }.evt
      R.PWK_EVT_LOST).post 0x07 0x11 warning noInst [beNat sn, p.epoch]).showGroup

/-- The next unused epoch number. -/
def State.nextEpoch (s : State) : Nat :=
  let a := s.get V.pwkEpoch
  let b := s.get V.pwkAcked
  ((if epochNewer b a then b else a) + 1) % 4294967296

/-- The membership the leader would propose: the members it hears and the candidates, at most `NMAX`. -/
def State.wantMembers (s : State) : List (List Byte) :=
  (((s.members.filter fun p => p.heard || decide (p.serial = serial)) ++ s.cands).map (·.serial)).take (s.pgrp 0x12 1)

/-- Opens a proposal of this drive, which it acknowledges itself. -/
def State.propose (s : State) (ms : List (List Byte)) : State :=
  let e := s.nextEpoch
  { s with proposal := some ⟨e, ms, [serial], true, true⟩ }.put V.pwkAcked e |>.showGroup

/-- A drive this one hears has a later committed epoch: that one prevails, and its leader proposes the union (R341). -/
def State.outranked (s : State) : Bool :=
  (s.members ++ s.cands).any fun p => p.heard && decide (p.serial ≠ serial) && epochNewer p.epoch (s.get V.pwkEpoch)

/-- EPOCH_PROPOSE: `EPOCH_HOLD` after the first change. -/
def epochPropose (s : State) : State :=
  if s.leads ∧ !s.outranked ∧ s.proposal = none ∧ s.wantMembers ≠ s.members.map (·.serial) then s.propose s.wantMembers else s

/-- EPOCH_REPROPOSE: the proposer failed to collect the acknowledgements. -/
def epochRepropose (s : State) : State :=
  match s.proposal with
  | some p => if p.mine ∧ s.leads ∧ !s.outranked then s.propose s.wantMembers else s
  | none => s

/-- PROPOSAL_RECEIVE: stored durably and acknowledged, at most one for each epoch number. -/
def proposalReceive (e : BitVec 32) (ms : List (List Byte)) (s : State) : State :=
  if s.on R.PWK_CTL_ACT ∧ epochNewer e.toNat (s.get V.pwkEpoch) ∧ epochNewer e.toNat (s.get V.pwkAcked) then
    { s with proposal := some ⟨e.toNat, ms, [], false, true⟩ }.put V.pwkAcked e.toNat |>.showGroup
  else s

/-- A fragment is placed anew: on the next member in rank that holds none of its stripe, else it is refused (R343). -/
def State.replaceFrag (s : State) (no i : Nat) : State :=
  match s.stripes.find? fun x => decide (x.no = no) with
  | none => s
  | some x =>
    let f : Frag := match s.spareHolder x with
      | some m => ⟨m, b2n (decide (m = serial)), false, none⟩
      | none => { x.frags.getD i ⟨[], 3, false, none⟩ with st := 3 }
    s.updStripe no fun y => { y with frags := y.frags.set i f }

/-- A stripe all of whose holders have acknowledged, or one of whose fragments no member takes, lets the Flush commands go
that wait for it; changes of the index it held back become durable where their point has stood (R343). -/
def State.settleStripe (s : State) (no : Nat) : State :=
  match s.stripes.find? fun x => decide (x.no = no) with
  | none => s
  | some x =>
    let stuck := x.frags.any fun f => decide (f.st = 3)
    if !x.acked ∧ !stuck then s
    else
      let t := (s.updStripe no fun y => { y with waits := [] }).when x.acked fun u =>
        u.forAll (List.range 4) fun a v => v.kvDurable a (v.get (V.kvBound a))
      (t.forAll x.waits fun n u => u.cmdPart n (if stuck then stWrFault else stOk)).showStripes

/-- An epoch commits (R341, R345, R347). -/
def State.commitEpoch (s : State) (e : Nat) (ms : List (List Byte)) : State :=
  let was := s.members.map (·.serial)
  let added := ms.filter fun m => !was.contains m
  let removed := was.filter fun m => !ms.contains m
  let peer (m : List Byte) : Peer := ((s.members ++ s.cands).find? fun p => decide (p.serial = m)).getD ⟨m, 0, 32, 8, 4, true, e⟩
  let t := { s with members := ms.map fun m => { peer m with epoch := e, heard := true }, proposal := none,
                    cands := s.cands.filter fun p => !ms.contains p.serial }
  let t := (((t.put V.pwkEpoch e).count R.PWK_CNT_EPOCH).evt R.PWK_EVT_EPOCH).post 0x07 0x10 info noInst
    [e, ms.length, added.length, removed.length]
  let t := t.forAll added fun m u => (u.evt R.PWK_EVT_JOINED).post 0x07 0x12 info noInst [beNat m]
  let flight := t.stripes.flatMap fun x => ((List.range x.frags.length).filter fun i =>
    let f := x.frags.getD i ⟨[], 1, false, none⟩
    decide (f.st = 0) && !t.isMember f.holder).map fun i => (x.no, i)
  let t := t.forAll flight fun p u => (u.replaceFrag p.1 p.2).settleStripe p.1
  let t := t.when (t.stripes.any t.rebuildable && !s.stripes.any s.rebuildable) fun u =>
    u.puts [(V.rbCount, 0), (V.rbStart, u.get V.msNow)]
  t.showGroup

/-- PROPOSAL_ACK_RECEIVE: at `K` acknowledgements from the new list, the leader's own included, the epoch commits. -/
def proposalAck (e : BitVec 32) (sn : List Byte) (s : State) : State :=
  match s.proposal with
  | none => s
  | some p =>
    if !p.mine ∨ p.epoch ≠ e.toNat ∨ p.acks.contains sn then s
    else
      let acks := p.acks ++ [sn]
      if s.grpK ≤ (p.members.filter acks.contains).length then s.commitEpoch p.epoch p.members
      else { s with proposal := some { p with acks := acks } }

/-- EPOCH_COMMIT_RECEIVE: the stored proposal of that number takes effect. -/
def epochCommitReceive (e : BitVec 32) (s : State) : State :=
  match s.proposal with
  | some p => if !p.mine ∧ p.epoch = e.toNat then s.commitEpoch p.epoch p.members else s
  | none => s

/-- PROPOSAL_VOID: no commit within 2 × `PEER_TMO`. -/
def proposalVoid (s : State) : State :=
  match s.proposal with
  | some p => if p.mine then s else { s with proposal := none }.showGroup
  | none => s

/-! ## Fragments (R343 to R345) -/

/-- FRAGMENT_STORE_ACK: the holder has stored and flushed the fragment, or fails it and is replaced. -/
def fragmentAck (no : Nat) (i : Fin 32) (ok : Bool) (s : State) : State :=
  match s.stripes.find? fun x => decide (x.no = no) with
  | none => s
  | some x =>
    match x.frags[i.val]? with
    | none => s
    | some f =>
      if f.st ≠ 0 then s
      else if ok then
        ((s.patchRead no x.len).updStripe no fun y => { y with frags := y.frags.set i { f with st := 1 } }).settleStripe no
      else (s.replaceFrag no i).settleStripe no

/-- Reads that rung 6 took over from the media because of a fragment of a stripe (R85). -/
def State.rung6Of (s : State) (no i : Nat) : List Job :=
  s.rung6.filter fun j => match s.fragAt j.nsid j.lba with
    | some y => decide (y.1.no = no ∧ y.2 = i)
    | none => false

/-- A read that rung 6 passed on ends: a recovered sector is reported as a weak track, and the channel shows no rung once its last one
has ended (R89, R90). -/
def State.rung6Ends (s : State) (j : Job) (ok : Bool) : State :=
  let a := s.lbaAct j.nsid j.lba
  let t := s.when ok fun t => t.weakTrack a j 6
  (t.when (decide (t.get (R.CHN_STAT_RUNG a) = 6) && !(t.rung6.any fun i => decide (t.lbaAct i.nsid i.lba = a))) fun t =>
    t.put (R.CHN_STAT_RUNG a) 0).failQueued j (if ok then stOk else stUre)

/-- FRAGMENT_TIMEOUT: a fragment is missing, late, or fails its header (`mismatch`) or data CRC (`bad`) in a read; a parity
fragment replaces it and Patchwork decodes; a failed local copy is stored again. Reads that rung 6 passed on for the fragment
end with it (R85, R344). -/
def fragmentTimeout (no : Nat) (i : Fin 32) (bad mismatch : Bool) (s : State) : State :=
  match s.stripes.find? fun x => decide (x.no = no) with
  | none => s
  | some x =>
    match x.frags[i.val]? with
    | none => s
    | some f =>
      let t := s.when mismatch fun u => u.post 0x07 0x15 error noInst [beNat f.holder, no]
      let u := if bad ∨ mismatch then t.updStripe no fun y => { y with frags := y.frags.set i { f with bad := true } } else t
      let left := (x.frags.zipIdx.filter fun p => decide (p.2 ≠ i.val ∧ p.1.st = 1) && !p.1.bad && s.isMember p.1.holder).length
      let js := s.rung6Of no i
      let u := { u with rung6 := u.rung6.filter fun j => !js.contains j }
      let v := if s.grpK ≤ left then
        let w := ((u.patchRead no x.len).count R.PWK_CNT_DEGRD).updStripe no fun y =>
          if f.holder = serial then { y with frags := y.frags.set i { f with bad := false, loc := if bad ∨ mismatch ∨ js ≠ [] then none else f.loc } } else y
        w.tidyFrags.showStripes
      else u.showStripes
      v.forAll js fun j w => w.rung6Ends j (decide (s.grpK ≤ left))

/-- The stripe that is rebuilt next: fewest fragments available, then the lowest number. -/
def State.nextRebuild (s : State) : Option Stripe :=
  (s.stripes.filter s.rebuildable).foldl (fun m x => match m with
    | none => some x
    | some y => if s.avail x < s.avail y ∨ (s.avail x = s.avail y ∧ x.no < y.no) then some x else m) none

/-- REBUILD_FRAGMENT: one lost fragment is decoded and stored on the highest-ranking member that holds nothing of its
stripe; the stripe map follows once that Store is acknowledged, `ok` (R345). -/
def rebuildFragment (ok : Bool) (s : State) : State :=
  match s.nextRebuild with
  | none => s
  | some x =>
    match s.spareHolder x, (List.range x.frags.length).find? fun i => !s.isMember (x.frags.getD i ⟨serial, 1, false, none⟩).holder with
    | some m, some i =>
      if !ok then s
      else
        let t := ((((s.patchRead x.no x.len).updStripe x.no fun y => { y with frags := y.frags.set i ⟨m, 1, false, none⟩ }).count R.PWK_CNT_REBUILD).bump V.rbCount 1).tidyFrags.showStripes
        if t.stripes.any t.rebuildable then t
        else ((t.evt R.PWK_EVT_RB_DONE).post 0x07 0x14 info noInst [t.get V.rbCount, t.get V.msNow - t.get V.rbStart]).put V.rbCount 0
    | _, _ => s

/-! ## Uncorrectable HBM data (R395) -/

/-- An index entry fails its CRC: its key reads as absent (R330). -/
def State.failEntry (s : State) (nsid key idx : Nat) : State :=
  let bad (e : KvEnt) : KvEnt := { e with bad := true }
  let t := { s with kvLog := s.kvLog.map (fun (o : KvOp) => if o.nsid = nsid ∧ o.key = key then { o with ent := o.ent.map bad } else o),
                    kvDur := s.kvDur.map fun (e : Nat × Option KvEnt) => if e.1 = nsid * 2 ^ 128 + key then (e.1, e.2.map bad) else e }
  ((t.count R.TRU_CNT_ICRC).evt R.TRU_EVT_ICRC).post 0x06 0x12 error noInst [nsid, idx]

/-- A logical block overlaps poisoned bytes of staging: it is marked unrecoverable and its media copy is zeros. -/
def State.loseBlock (s : State) (x : Nat × Nat) : State :=
  if s.staged x.1 x.2 then
    let t := s.stage x.1 x.2 0
    { t with lost := t.lost ++ [lbaKey x.1 x.2] }
  else s

/-- A poisoned page of the HBM firmware partition that holds a page of the image of the running slot is copied again from the slot
(R395). -/
def State.imageAgain (s : State) (adr : Nat) : State :=
  let lo := slotAddr (s.get V.fwSlot) + 0x1000
  let n := s.fle (slotAddr (s.get V.fwSlot) + 8) 4
  if s.on V.fwUp then
    match (List.range (ceilDiv n 4096)).find? fun i => decide (hbmAdr 4 i = adr / 4096 * 4096) with
    | some i => s.fwPages 14 i (s.fbytes (lo + 4096 * i) (Nat.min 4096 (n - 4096 * i)))
    | none => s
  else s

/-- HBM_UNCORRECTABLE: the HBM address, the requester class, and what the partition holds there: the logical blocks of a
staging address, the actuator of a map address, the namespace, key and number of an index entry (R394, R395). Poison in a data area of
the firmware restarts Ringmaster, by RINGMASTER_RESTART. -/
def hbmUncorrectable (k : Fin 2) (adr : BitVec 35) (cls : Fin 16) (blocks : List (Nat × Nat)) (a : Act) (entry : Nat × List Byte × Nat)
    (s : State) : State :=
  let b := adr.toNat / 64
  let gib := adr.toNat / 1073741824
  let part := if gib < 12 then 0 else if gib < 16 then 1 else if gib < 24 then 2 else if gib < 30 then 3 else 4
  let t := ((s.evt (R.HBM_EVT_UE k)).count (R.HBM_CNT_UE k)).puts [(R.HBM_UE_ADDR_BLOCK k, b), (R.HBM_UE_ADDR_PART k, part)]
  let t := t.post 0x09 0x11 error k [b + part * 536870912, cls]
  if part = 0 then t.forAll blocks fun x u => u.loseBlock x
  else if part = 1 then
    (((t.put (V.mapReload a) 1).refreshAct a 0x09 0x11).put (V.mapReload a) 0).refreshAct a 0x09 0x11
  else if part = 2 then t.failEntry entry.1 (keyNum entry.2.1) entry.2.2
  else if part = 3 then { t with poison := t.poison.filter (fun x => decide (x ≠ b)) ++ [b] }
  else t.imageAgain adr.toNat

/-! ## Commands -/

/-- Meaning of FLUSH (R254). -/
def execFlush (id : CmdId) (nsid : BitVec 32) (s : State) : Host.Outcome State Fault Refusal :=
  .next (flushCmd id nsid s)

/-- Meaning of STORE (R331). -/
def execStore (id : CmdId) (nsid : BitVec 32) (key value : List Byte) (ifExists ifNew fua : Bool) (s : State) : Host.Outcome State Fault Refusal :=
  .next (storeCmd id nsid key value ifExists ifNew fua s)

/-- Meaning of RETRIEVE (R344). -/
def execRetrieve (id : CmdId) (nsid : BitVec 32) (key : List Byte) (s : State) : Host.Outcome State Fault Refusal :=
  .next (retrieveCmd id nsid key s)

/-- Meaning of KV_DELETE (R333). -/
def execKvDelete (id : CmdId) (nsid : BitVec 32) (key : List Byte) (s : State) : Host.Outcome State Fault Refusal :=
  .next (kvDelete id nsid key s)

/-- Meaning of EXIST (R294). -/
def execExist (id : CmdId) (nsid : BitVec 32) (key : List Byte) (s : State) : Host.Outcome State Fault Refusal :=
  .next (existCmd id nsid key s)

/-- Meaning of LIST (R332). -/
def execList (id : CmdId) (nsid : BitVec 32) (first : List Byte) (s : State) : Host.Outcome State Fault Refusal :=
  .next (listCmd id nsid first s)

/-- Meaning of LOAD_PROGRAM (R334). -/
def execLoadProgram (id : CmdId) (nsid : BitVec 32) (slot ptype : BitVec 8) (image : List (BitVec 64)) (s : State) : Host.Outcome State Fault Refusal :=
  .next (loadProgram id nsid slot ptype image s)

/-- Meaning of PROGRAM_ACTIVATION_MANAGEMENT (R334). -/
def execProgramActivationManagement (id : CmdId) (nsid : BitVec 32) (slot : BitVec 8) (activate : Bool) (s : State) : Host.Outcome State Fault Refusal :=
  .next (programActivation id nsid slot activate s)

/-- Meaning of EXECUTE_PROGRAM (R335). -/
def execExecuteProgram (id : CmdId) (nsid : BitVec 32) (slot rset : BitVec 8) (dw12 dw13 dw14 dw15 : BitVec 32) (s : State) : Host.Outcome State Fault Refusal :=
  .next (executeProgram id nsid slot rset dw12 dw13 dw14 dw15 s)

/-- Meaning of HELPER_COPY (R336). -/
def execHelperCopy (core : Fin 8) (s : State) : Host.Outcome State Fault Refusal :=
  .next (helperCopy core s)

/-- Meaning of HELPER_ZCOMP (R336). -/
def execHelperZcomp (core : Fin 8) (s : State) : Host.Outcome State Fault Refusal :=
  .next (helperZcomp core s)

/-- Meaning of HELPER_ZDECOMP (R336). -/
def execHelperZdecomp (core : Fin 8) (s : State) : Host.Outcome State Fault Refusal :=
  .next (helperZdecomp core s)

/-- Meaning of HELPER_SHA256 (R336). -/
def execHelperSha256 (core : Fin 8) (s : State) : Host.Outcome State Fault Refusal :=
  .next (helperSha256 core s)

/-- Meaning of HELPER_CRC32C (R336). -/
def execHelperCrc32c (core : Fin 8) (s : State) : Host.Outcome State Fault Refusal :=
  .next (helperCrc32c core s)

/-- Meaning of HELPER_OPSEC (R336). -/
def execHelperOpsec (core : Fin 8) (s : State) : Host.Outcome State Fault Refusal :=
  .next (helperOpsec core s)

/-- Meaning of MEMORY_RANGE_SET_MANAGEMENT (R335). -/
def execMemoryRangeSetManagement (id : CmdId) (nsid : BitVec 32) (create : Bool) (rset : BitVec 16) (ranges : List (BitVec 64 × BitVec 64)) (s : State) : Host.Outcome State Fault Refusal :=
  .next (memoryRangeSet id nsid create rset ranges s)

/-- Meaning of MEMORY_COPY (R290). -/
def execMemoryCopy (id : CmdId) (nsid : BitVec 32) (dst : BitVec 64) (srcs : List CopySrc) (s : State) : Host.Outcome State Fault Refusal :=
  .next (memoryCopy id nsid dst srcs s)

/-- Meaning of MEMORY_READ (R290). -/
def execMemoryRead (id : CmdId) (nsid : BitVec 32) (off : BitVec 64) (len : BitVec 32) (s : State) : Host.Outcome State Fault Refusal :=
  .next (memoryRead id nsid off len s)

/-- Meaning of MEMORY_WRITE (R290). -/
def execMemoryWrite (id : CmdId) (nsid : BitVec 32) (off : BitVec 64) (data : List Byte) (s : State) : Host.Outcome State Fault Refusal :=
  .next (memoryWrite id nsid off data s)

/-- Meaning of TRU_ENABLE (R349). -/
def execTruEnable (defaultsOk : Bool) (s : State) : Host.Outcome State Fault Refusal :=
  .next (truEnableCmd defaultsOk s)

/-- Meaning of PWK_ACT (R339). -/
def execPwkAct (s : State) : Host.Outcome State Fault Refusal :=
  .next (pwkActCmd s)

/-- Meaning of DISCOVERY_POLL (R340). -/
def execDiscoveryPoll (log : List Found) (s : State) : Host.Outcome State Fault Refusal :=
  .next (discoveryPoll log s)

/-- Meaning of DISCOVERY_LOG_PAGE_CHANGE (R340). -/
def execDiscoveryLogPageChange (log : List Found) (s : State) : Host.Outcome State Fault Refusal :=
  .next (discoveryChange log s)

/-- Meaning of CANDIDATE_AUTH_RETRY (R340). -/
def execCandidateAuthRetry (x : Found) (s : State) : Host.Outcome State Fault Refusal :=
  .next (candidateRetry x s)

/-- Meaning of PEER_TIMEOUT (R341). -/
def execPeerTimeout (sn : List Byte) (s : State) : Host.Outcome State Fault Refusal :=
  .next (peerTimeout sn s)

/-- Meaning of EPOCH_PROPOSE (R341). -/
def execEpochPropose (s : State) : Host.Outcome State Fault Refusal :=
  .next (epochPropose s)

/-- Meaning of PROPOSAL_RECEIVE (R341). -/
def execProposalReceive (e : BitVec 32) (ms : List (List Byte)) (s : State) : Host.Outcome State Fault Refusal :=
  .next (proposalReceive e ms s)

/-- Meaning of PROPOSAL_ACK_RECEIVE (R341). -/
def execProposalAckReceive (e : BitVec 32) (sn : List Byte) (s : State) : Host.Outcome State Fault Refusal :=
  .next (proposalAck e sn s)

/-- Meaning of EPOCH_COMMIT_RECEIVE (R341). -/
def execEpochCommitReceive (e : BitVec 32) (s : State) : Host.Outcome State Fault Refusal :=
  .next (epochCommitReceive e s)

/-- Meaning of PROPOSAL_VOID (R341). -/
def execProposalVoid (s : State) : Host.Outcome State Fault Refusal :=
  .next (proposalVoid s)

/-- Meaning of EPOCH_REPROPOSE (R341). -/
def execEpochRepropose (s : State) : Host.Outcome State Fault Refusal :=
  .next (epochRepropose s)

/-- Meaning of FRAGMENT_STORE_ACK (R343). -/
def execFragmentStoreAck (no : Nat) (frag : Fin 32) (ok : Bool) (s : State) : Host.Outcome State Fault Refusal :=
  .next (fragmentAck no frag ok s)

/-- Meaning of FRAGMENT_TIMEOUT (R344). -/
def execFragmentTimeout (no : Nat) (frag : Fin 32) (bad mismatch : Bool) (s : State) : Host.Outcome State Fault Refusal :=
  .next (fragmentTimeout no frag bad mismatch s)

/-- Meaning of REBUILD_FRAGMENT (R345). -/
def execRebuildFragment (ok : Bool) (s : State) : Host.Outcome State Fault Refusal :=
  .next (rebuildFragment ok s)

/-- Meaning of HBM_UNCORRECTABLE (R395). -/
def execHbmUncorrectable (k : Fin 2) (adr : BitVec 35) (cls : Fin 16) (blocks : List (Nat × Nat)) (a : Act) (entry : Nat × List Byte × Nat) (s : State) : Host.Outcome State Fault Refusal :=
  .next (hbmUncorrectable k adr cls blocks a entry s)

end Sys2Proof.Machine
end

