-- ==== Sys2Proof/Machine/Fabric.lean ====
section
/-!
DEFINITION. The fabric port (chapter "Fabric port", R309 to R323): links, addresses, failover, partner data.
-/

namespace Sys2Proof.Machine

/-! ## The network record (R314) -/

/-- A field of the network record of the option area, big-endian. -/
def State.net (s : State) (off n : Nat) : Nat := beNat (getBytes s.opt (0x80 + off) n)
/-- `PMODE`. -/
def State.pmode (s : State) : Nat := s.net 0x06 1
/-- A bit of `NFLAGS`. -/
def State.nflag (s : State) (i : Nat) : Bool := bitOf (s.net 0x07 1) i

/-- The record fails `NCRC`, or a field is outside its range. -/
def State.netBad (s : State) : Bool :=
  decide (crc32c (getBytes s.opt 0x80 0x7C) ≠ s.net 0x7C 4) ||
  !(!bitOf (s.net 0 1) 0 && decide (s.pmode ≤ 3) && !s.nflag 6 && !s.nflag 7 && inR 1 31 (s.net 0x10 1) && inR 8 128 (s.net 0x11 1) &&
    !bitOf (s.net 0x12 2) 15 && decide (s.net 0x48 1 ≤ 63) && decide (s.net 0x49 1 ≤ 7) && decide (s.net 0x4A 1 ≤ 2) &&
    decide (s.net 0x4B 1 = 0) && inR 50 5000 (s.net 0x4C 2) && inR 100 250 (s.net 0x4E 2) && decide (s.net 0x50 44 = 0))

/-- Static IPv4 address of a port, 0 for none. -/
def State.ip4 (s : State) (p : Nat) : Nat := s.net (0x08 + 4 * p) 4
/-- Static IPv6 address of a port, 0 for none. -/
def State.ip6 (s : State) (p : Nat) : Nat := s.net (0x18 + 16 * p) 16

/-- Ports of a mode (R309). -/
def State.hasPort (s : State) (p : Nat) : Bool := decide (p = 0 ∨ s.get R.FAB_STAT_MODE ≠ 1)

/-- Lanes of a port in a mode (R309). -/
def portLanes (mode p : Nat) : List Nat :=
  if mode = 0 then [2 * p, 2 * p + 1] else if mode = 1 then (if p = 0 then [0, 1, 2, 3] else []) else [2 * p]

/-- A Discovery Log Page Change notice to every connected discovery host (R313). -/
def State.discChanged (s : State) : State :=
  s.noticeAll (s.ctrlIds.filter fun c => match s.ctrl c with | some x => x.disc | none => false) 31 aenDisc

/-! ## Enable (R322) -/

/-- `FAB_CTL.EN` 0→1; `refB`: SerDes reference B shows a clock. -/
def State.fabEnable (s : State) (refB : Bool) : State × Nat :=
  let same (x y : Nat) : Bool := decide (x = y ∧ x ≠ 0)
  s.enable R.FAB_CTL_EN R.FAB_CHK_REASON
    [(s.netBad, 0x0101), (decide (s.pmode = 1) && !refB, 0x0102), (!s.nflag 0 && !s.nflag 1, 0x0103),
     (decide (s.ip4 0 = 0 ∧ s.ip4 1 = 0 ∧ s.ip6 0 = 0 ∧ s.ip6 1 = 0) && !s.nflag 2 && !s.nflag 3 && !s.nflag 4, 0x0104),
     (same (s.ip4 0) (s.ip4 1) || same (s.ip6 0) (s.ip6 1), 0x0105), (!s.on R.CMD_CTL_EN, 0x0106)]
    fun t => t.puts [(R.FAB_STAT_MODE, t.pmode), (R.FAB_STAT_AN_FAIL, 0), (R.FAB_STAT_LISTEN, 0)]

/-- FAB_ENABLE. -/
def fabEnableCmd (refB : Bool) (s : State) : State := (s.fabEnable refB).1

/-! ## Links (R310, R311, R316) -/

/-- Link of a port is up. -/
def State.linkUp (s : State) (p : Nat) : Bool := bitOf (s.get R.FAB_STAT_LINK) p

/-- Sets or clears bit `p` of a two-bit field. -/
def State.portBit (s : State) (k : Fld) (p : Nat) (v : Bool) : State :=
  let x := s.get k
  s.put k (if bitOf x p = v then x else if v then x + 2 ^ p else x - 2 ^ p)

/-- The link of a port goes down, for a cause. -/
def State.linkDown (s : State) (p cause : Nat) : State :=
  if !s.linkUp p then s
  else
    ((((s.portBit R.FAB_STAT_LINK p false).count R.FAB_CNT_LINKDN).evt R.FAB_EVT_LINK_DOWN).post 0x01 0x10 warning noInst
      [p, cause, s.opsec - s.get (V.fabUp p)])

/-- LINK_DOWN. -/
def linkDownCmd (p : Fin 2) (cause : BitVec 8) (s : State) : State := s.linkDown p cause.toNat

/-- Writes `PORT_DIS`: the link of a port held down goes down. -/
def State.setPortDis (s : State) (v : Nat) : State :=
  (s.put R.FAB_CTL_PORT_DIS v).forAll ((List.range 2).filter (bitOf v)) fun p t => t.linkDown p (Config.causeCode 120)

/-- PORT_DIS. -/
def portDis (v : BitVec 2) (s : State) : State := s.setPortDis v.toNat

/-- Reach of a lane: `VP` × t / 2 in mm for a time in steps of 5 ps (R310); its rounding is not given. -/
def State.reachMm (s : State) (t : Nat) : Nat :=
  let x := s.net 0x4E 2 * t
  Nat.min 4095 (x / 400 + (if x % 400 ≠ 0 ∧ Config.roundUp x then 1 else 0))

/-- An address is probed: in service, or a duplicate (R315). -/
def State.probe (s : State) (p addr : Nat) (v6 dyn conflict : Bool) : State :=
  let old := s.addrs.filter fun x => decide (¬(x.port = p ∧ x.addr = addr ∧ x.v6 = v6))
  let holder := if bitOf (s.get R.FAB_STAT_TAKEN) p then 1 - p else p
  let t := { s with addrs := old ++ [⟨p, addr, v6, dyn, !conflict, holder⟩] }
  if conflict then (t.evt R.FAB_EVT_ADDR_CONFLICT).post 0x01 0x15 error noInst [p, addr] else t

/-- LINK_UP: the FEC negotiated, the partner's abilities, for each lane of the port the estimated loss in 0.1 dB and the time
to the first reflection, and the addresses found duplicate (R310, R311, R315). Its lanes need `PWR_EN[3]` (R30). -/
def linkUpCmd (p : Fin 2) (fec : Fin 4) (abilities : BitVec 32) (lanes : List (Nat × Nat)) (dup : List Nat) (s : State) : State :=
  if !bitOf (s.get R.CVN_STAT_PWR_EN) 3 ∨ !s.on R.FAB_CTL_EN ∨ !s.hasPort p ∨ bitOf (s.get R.FAB_CTL_PORT_DIS) p ∨ s.linkUp p then s
  else
    let mode := s.get R.FAB_STAT_MODE
    let f := s.get R.FAB_STAT_FEC
    let fec' := if p.val = 0 then f / 4 * 4 + fec else f % 4 + 4 * fec
    let t := ((s.portBit R.FAB_STAT_LINK p true).portBit R.FAB_STAT_AN_FAIL p false).puts [(R.FAB_STAT_FEC, fec'), (V.fabUp p, s.opsec)]
    let t := t.evt R.FAB_EVT_LINK_UP
    let t := t.forAll ((portLanes mode p).zip lanes) fun l u =>
      let reach := u.reachMm l.2.2
      let v := u.puts [(R.FAB_LANE_LOSS l.1, l.2.1), (R.FAB_LANE_REACH l.1, reach), (R.FAB_LANE_VALID l.1, 1)]
      if (if mode = 3 then 350 else 300) < l.2.1 then
        (v.evt R.FAB_EVT_LOSS_HIGH).post 0x01 0x13 warning noInst [l.1, l.2.1, reach]
      else v
    let t := { t with partner := Tab.set [] t.partner p ([mode, fec.val, abilities.toNat] ++ (Tab.at [] t.partner p).drop 3) }
    let stat := [(t.ip4 p, false), (t.ip6 p, true)].filter fun x => decide (x.1 ≠ 0)
    let lease := (t.addrs.filter fun x => x.dyn && decide (x.port = p.val)).map fun x => (x.addr, x.v6)
    let t := t.forAll stat fun x u => u.probe p x.1 x.2 false (dup.contains x.1)
    (t.forAll lease fun x u => u.probe p x.1 x.2 true (dup.contains x.1)).discChanged

/-- NEGOTIATION_FAILURE (R309). -/
def negotiationFailure (p : Fin 2) (abilities : BitVec 32) (s : State) : State :=
  if !s.on R.FAB_CTL_EN ∨ !s.hasPort p ∨ s.linkUp p then s
  else (s.portBit R.FAB_STAT_AN_FAIL p true).post 0x01 0x14 error noInst [p, abilities.toNat]

/-! ## Addresses and failover (R315 to R317, R320) -/

/-- DHCP_LEASE_ACQUIRED. -/
def dhcpAcquired (p : Fin 2) (v6 : Bool) (addr : BitVec 128) (conflict : Bool) (s : State) : State :=
  if !s.linkUp p ∨ !(if v6 then s.nflag 3 || s.nflag 4 else s.nflag 2) then s
  else (s.probe p addr.toNat v6 true conflict).discChanged

/-- DHCP_LEASE_LOST. -/
def dhcpLost (p : Fin 2) (addr : BitVec 128) (s : State) : State :=
  if s.addrs.any fun x => x.dyn && decide (x.port = p.val ∧ x.addr = addr.toNat) then
    { s with addrs := s.addrs.filter fun x => !(x.dyn && decide (x.port = p.val ∧ x.addr = addr.toNat)) }.discChanged
  else s

/-- FAILOVER: `dup` are addresses found in conflict as they are taken over; they are not announced. -/
def failover (p : Fin 2) (dup : List Nat) (s : State) : State :=
  let q := 1 - p.val
  if !s.on R.FAB_CTL_EN ∨ !s.nflag 5 ∨ s.get R.FAB_STAT_MODE = 1 ∨ s.linkUp p ∨ !s.linkUp q ∨ bitOf (s.get R.FAB_STAT_TAKEN) p then s
  else
    let bad := s.addrs.filter fun x => decide (x.holder = p.val) && dup.contains x.addr && x.ok
    let moved := s.addrs.filter fun x => decide (x.holder = p.val) && x.ok && !dup.contains x.addr
    let back := bitOf (s.get R.FAB_STAT_TAKEN) q
    let t := { s with addrs := s.addrs.map fun (x : NetAddr) => if x.holder = p.val then { x with holder := q, ok := x.ok && !dup.contains x.addr } else x }
    let t := (((t.portBit R.FAB_STAT_TAKEN p true).portBit R.FAB_STAT_TAKEN q false).puts [(V.fabAnn p, 2)]).when back fun u => u.put (V.fabBack q) 1
    let t := t.forAll bad fun x u => (u.evt R.FAB_EVT_ADDR_CONFLICT).post 0x01 0x15 error noInst [x.port, x.addr]
    (((t.evt R.FAB_EVT_FAILOVER).count R.FAB_CNT_FAILOVER).post 0x01 0x11 warning noInst [p, moved.length]).discChanged

/-- ADDRESS_ANNOUNCE: three announcements in all, 1 s apart; the first is sent with the move. -/
def addressAnnounce (p : Fin 2) (s : State) : State := s.put (V.fabAnn p) (s.get (V.fabAnn p) - 1)

/-- FAILBACK: the link of the failed port has been up for 10 s. -/
def failback (p : Fin 2) (s : State) : State :=
  if !s.linkUp p ∨ !(bitOf (s.get R.FAB_STAT_TAKEN) p || s.on (V.fabBack p)) then s
  else
    let t := { s with addrs := s.addrs.map fun (x : NetAddr) => if x.port = p.val then { x with holder := p } else x }
    ((((t.portBit R.FAB_STAT_TAKEN p false).puts [(V.fabAnn p, 2), (V.fabBack p, 0)]).evt R.FAB_EVT_FAILBACK).post 0x01 0x12 info noInst [p]).discChanged

/-! ## Partners and connections (R312, R318, R319) -/

/-- LLDP_RECEIVE: chassis and port identifiers as numbers, and the priorities on which the partner enables PFC. -/
def lldpReceive (p : Fin 2) (chassis portId : BitVec 64) (pfc : BitVec 8) (s : State) : State :=
  if !s.linkUp p then s
  else
    let head := (Tab.at [] s.partner p ++ [0, 0, 0]).take 3
    let t := { s with partner := Tab.set [] s.partner p (head ++ [chassis.toNat / 2 ^ 32, chassis.toNat % 2 ^ 32, portId.toNat / 2 ^ 32,
      portId.toNat % 2 ^ 32, pfc.toNat]) }
    t.when (t.nflag 0 && !bitOf pfc.toNat (t.net 0x49 1)) fun u => u.put R.FAB_STAT_PFC_MISMATCH 1

/-- TRANSPORT_CONNECTION_FAILURE: the queue's commands without work under way are dropped, the others run to their end with
their completions discarded; the controller remains (R303, R312). -/
def transportFailure (c qid : BitVec 16) (s : State) : State :=
  match s.ctrl c.toNat with
  | none => s
  | some x =>
    let mine (i : CmdId) : Bool := decide (i.cntlid = c.toNat ∧ i.qid = qid.toNat)
    let keep (d : Cmd) : Bool := !mine d.id || (d.begun && (decide (d.parts ≠ 0) || !d.points.isEmpty))
    ({ s with cmds := s.cmds.filter keep, held := s.held.filter fun h => !mine h.2.1 }.setCtrl c.toNat
      (some { x with lostq := x.lostq ++ [qid.toNat], aers := if qid.toNat = 0 then [] else x.aers })).drainDeletes.showCmds

/-- The port ends every connection, each as a Disconnect, and enters the listen state (R318). -/
def State.listen (s : State) : State :=
  (s.forAll s.ctrlIds fun c t => (t.tearDown c).1).puts
    [(R.FAB_STAT_LINK, 0), (R.FAB_STAT_LISTEN, 1), (R.FAB_STAT_TAKEN, 0)]

/-- `FAB_CTL.EN` 1→0: the links go down. -/
def State.fabDisable (s : State) : State :=
  ((s.linkDown 0 (Config.causeCode 121)).linkDown 1 (Config.causeCode 121)).put R.FAB_CTL_EN 0

/-! ## Commands -/

/-- Meaning of FAB_ENABLE (R322). -/
def execFabEnable (refB : Bool) (s : State) : Host.Outcome State Fault Refusal :=
  .next (fabEnableCmd refB s)

/-- Meaning of PORT_DIS (R321). -/
def execPortDis (v : BitVec 2) (s : State) : Host.Outcome State Fault Refusal :=
  .next (portDis v s)

/-- Meaning of LINK_UP (R310). -/
def execLinkUp (p : Fin 2) (fec : Fin 4) (abilities : BitVec 32) (lanes : List (Nat × Nat)) (dup : List Nat) (s : State) : Host.Outcome State Fault Refusal :=
  .next (linkUpCmd p fec abilities lanes dup s)

/-- Meaning of LINK_DOWN (R316). -/
def execLinkDown (p : Fin 2) (cause : BitVec 8) (s : State) : Host.Outcome State Fault Refusal :=
  .next (linkDownCmd p cause s)

/-- Meaning of FAILOVER (R316). -/
def execFailover (p : Fin 2) (dup : List Nat) (s : State) : Host.Outcome State Fault Refusal :=
  .next (failover p dup s)

/-- Meaning of ADDRESS_ANNOUNCE (R316). -/
def execAddressAnnounce (p : Fin 2) (s : State) : Host.Outcome State Fault Refusal :=
  .next (addressAnnounce p s)

/-- Meaning of FAILBACK (R317). -/
def execFailback (p : Fin 2) (s : State) : Host.Outcome State Fault Refusal :=
  .next (failback p s)

/-- Meaning of DHCP_LEASE_LOST (R315). -/
def execDhcpLeaseLost (p : Fin 2) (addr : BitVec 128) (s : State) : Host.Outcome State Fault Refusal :=
  .next (dhcpLost p addr s)

/-- Meaning of LLDP_RECEIVE (R319). -/
def execLldpReceive (p : Fin 2) (chassis portId : BitVec 64) (pfc : BitVec 8) (s : State) : Host.Outcome State Fault Refusal :=
  .next (lldpReceive p chassis portId pfc s)

/-- Meaning of NEGOTIATION_FAILURE (R309). -/
def execNegotiationFailure (p : Fin 2) (abilities : BitVec 32) (s : State) : Host.Outcome State Fault Refusal :=
  .next (negotiationFailure p abilities s)

/-- Meaning of TRANSPORT_CONNECTION_FAILURE (R312). -/
def execTransportConnectionFailure (c qid : BitVec 16) (s : State) : Host.Outcome State Fault Refusal :=
  .next (transportFailure c qid s)

/-- Meaning of DHCP_LEASE_ACQUIRED (R315). -/
def execDhcpLeaseAcquired (p : Fin 2) (v6 : Bool) (addr : BitVec 128) (conflict : Bool) (s : State) : Host.Outcome State Fault Refusal :=
  .next (dhcpAcquired p v6 addr conflict s)

end Sys2Proof.Machine
end

