-- ==== Sys2Proof/Machine/Tailor.lean ====
section
/-!
DEFINITION. Calibration and ageing (chapter "Tailor calibration and ageing", R448 to R466): trims and spares, the Tailor
store, tracing, ageing measurements, margin and re-planning.
-/

namespace Sys2Proof.Machine

/-! ## Trim registers (R448, R449) -/

/-- Kind of the `CODE` of a trim register: 0 fine code, 1 ladder tap, 2 oscillator bank and capacitor code. -/
def trimKind (off : Nat) : Nat :=
  if off < 0x2100 then (if off % 64 < 0x20 then 0 else if off % 64 < 0x28 then 1 else 2)
  else if off = 0x221C then 1
  else if off < 0x2240 then 0
  else if off < 0x2280 then 2
  else 1

/-- `CODE` of a trim register. -/
def trimCode (off : Nat) : Fld :=
  ⟨0x18, 0, off, 0, 12, if trimKind off = 0 then 0x800 else if trimKind off = 1 then 0x20 else 0x402⟩
/-- `SPARE_EN`. -/
def trimSpareEn (off : Nat) : Fld := ⟨0x18, 0, off, 12, 1, 0⟩
/-- `SPARE`. -/
def trimSpare (off : Nat) : Fld := ⟨0x18, 0, off, 13, 3, 0⟩
/-- `SUBST`. -/
def trimSubst (off : Nat) : Fld := ⟨0x18, 0, off, 16, 6, 0⟩

/-- Owning block and instance of a trim register. -/
def trimOwner (off : Nat) : Nat × Nat :=
  if off < 0x2100 then (0x0C, (off - 0x2000) / 64)
  else if off < 0x2200 then (0x12, (off - 0x2100) / 16)
  else if off < 0x2240 then (0x11, 0)
  else if off < 0x2254 then ([0x05, 0x06, 0x0F, 0x01, 0x09].getD ((off - 0x2240) / 4) 0, 0)
  else if off < 0x2280 then (0x01, 0)
  else (0x17, 0)

/-- Offsets of every trim register, ascending. -/
def trimOffs : List Nat :=
  ((List.range 4).flatMap fun a => (List.range 11).map fun i => 0x2000 + a * 64 + 4 * i) ++
  ((List.range 4).flatMap fun a => [0x2100 + a * 16, 0x2104 + a * 16]) ++
  (List.range 8).map (fun i => 0x2200 + 4 * i) ++ (List.range 7).map (fun i => 0x2240 + 4 * i) ++
  (List.range 3).map fun i => 0x2280 + 4 * i

/-- A code an element cannot have: it has failed (R450). -/
def codeFails (off code : Nat) : Bool :=
  match trimKind off with
  | 0 => decide (code < 0x100 ∨ 0xF00 < code)
  | 1 => decide (code = 0 ∨ 63 ≤ code)
  | _ => decide (code / 8 = 0 ∨ 511 ≤ code / 8)

/-- Registers of the spares an element may be replaced by: the four of its comparator group, the two of its driver, or its
own. -/
def spareRegs (off : Nat) : List Nat :=
  if trimKind off ≠ 0 then []
  else if off < 0x2100 then (List.range 4).map fun i => off / 16 * 16 + 4 * i
  else if off < 0x2200 then (List.range 2).map fun i => off / 16 * 16 + 4 * i
  else [off]

/-- Number of the spare a register stands for: the path 2 of a sensor, else its place in its group. -/
def spareNo (off : Nat) : Nat := if 0x2200 ≤ off then 2 else off % 16 / 4

/-! ## The store (R451, R452) -/

/-- A register whose working value the store keeps. -/
def storedReg (k : Fld) : Bool :=
  decide (k.blk = 0x18 ∧ 0x2000 ≤ k.off ∧ k.off < 0x2300) || decide (k.blk = 0x0E ∧ 0x100 ≤ k.off ∧ k.off < 0x150)

/-- First block of the half a save writes (R452). -/
def State.nextHalf (s : State) : Nat := tlrBlk + 64 * ((s.get V.tlrGen + 1) % 2)

/-- A save erases the 64 blocks of its half. -/
def State.halfErased (s : State) : State := s.forAll (List.range 64) fun i t => t.eraseNow (s.nextHalf + i)

/-- A save that fails in flash: the half under way is not valid (R409, R452). -/
def State.tlrFail (s : State) : State := (s.halfErased.put V.tlrCut 1).flashFailed false s.nextHalf

/-- A save: the working copy becomes the newest half, whose 64 blocks are erased and programmed (R451, R452). -/
def State.tlrSave (s : State) : State :=
  let s := s.halfErased
  { s with tsave := s.tstore, tregs := s.flds.filter fun e => storedReg e.1 }.puts [(V.tlrGen, s.get V.tlrGen + 1), (V.tlrCut, 0)]

/-- Firmware loads the store at a start; a half cut short is passed over for the other and recorded (R451, R452). -/
def State.tlrLoad (s : State) : State :=
  let t := { s with tstore := s.tsave }.puts s.tregs
  if t.on V.tlrCut then
    (t.put V.tlrCut 0).post 0x18 0x13 warning noInst [(t.get V.tlrGen + 1) % 2, t.get V.tlrGen, t.get V.tlrGen + 1]
  else t

/-- Writes bytes of a table to its window and to the working copy. -/
def State.putTable (s : State) (blk sel off : Nat) (bs : List Byte) : State :=
  { s with win := putBytes s.win (winKey blk sel off) bs, tstore := putBytes s.tstore (winKey blk sel off) bs }

/-- Changes fields of an entry whose last four bytes are its CRC, and renews it. -/
def State.putEntry (s : State) (blk sel off n : Nat) (fs : List (Nat × List Byte)) : State :=
  let b := fs.foldl (fun (b : List Byte) f => b.take f.1 ++ f.2 ++ b.drop (f.1 + f.2.length)) (s.bytes blk sel off n)
  let body := b.take (n - 4)
  s.putTable blk sel off (body ++ leBytes 4 (crc32c body))

/-! ## Policy (R459) -/

/-- A field of the policy record. -/
def State.pol (s : State) (off n : Nat) : Nat := s.le 0x18 0 (0x1000 + off) n

/-- The policy record passes its CRC and its ranges. -/
def State.polOk (s : State) : Bool :=
  crcOk (s.bytes 0x18 0 0x1000 32) && (List.range 6).all (fun i => decide (s.pol (2 * i) 2 ≤ 4000)) && decide (s.pol 0x0C 2 ≤ 500) &&
    inR 1 50 (s.pol 0x0E 2) && decide (s.pol 0x10 2 ≤ 2000) && inR 1 40 (s.pol 0x12 1) && inR 1 255 (s.pol 0x13 1) &&
    inR 3 16 (s.pol 0x14 1) && inR 1 200 (s.pol 0x15 1) && inR 1 2048 (s.pol 0x16 2) && decide (s.pol 0x18 4 = 0)

/-! ## Drift and substitution (R450, R455) -/

/-- The traced `CODE` of a trim register, from the certificate (R454). -/
def State.traced (s : State) (off : Nat) : Option Nat :=
  match s.certs with
  | [] => none
  | c :: _ =>
    ((List.range (fieldAt c 0x2A 2)).find? fun i => decide (fieldAt c (0x2C + 4 * i) 2 = off)).map fun i => fieldAt c (0x2E + 4 * i) 2

/-- Marks a block degraded. -/
def State.degrade (s : State) (blk : Nat) : State :=
  s.put R.TLR_STAT_DEGRADED (s.get R.TLR_STAT_DEGRADED ||| 2 ^ (blk - 1))

/-- An element has failed: the next free spare or bank replaces it, or the best code is kept and its block marked. -/
def State.substitute (s : State) (off code elem spareCode : Nat) : State :=
  let used (t : State) (o n : Nat) : State :=
    (((t.count R.TLR_CNT_SPARE).evt R.TLR_EVT_SPARE_USED).post 0x18 0x11 info noInst [o, elem, n])
  let none_ : State :=
    ((s.put (trimCode off) code).degrade (trimOwner off).1).post 0x18 0x12 error noInst [off, (trimOwner off).1]
  if trimKind off = 2 then
    let bank := s.get (trimCode off) % 8
    if bank < 5 then used (s.put (trimCode off) (spareCode / 8 * 8 + bank + 1)) off (bank + 1) else none_
  else match (spareRegs off).find? fun o => !s.on (trimSpareEn o) with
    | some o => used (s.puts [(trimCode o, spareCode), (trimSpareEn o, 1), (trimSpare o, spareNo o), (trimSubst o, elem)]) o (spareNo o)
    | none => none_

/-- A re-trimmed register: applied, and reported when it moved beyond `DRIFT_LIM`; a failed element is replaced. -/
def State.retrim (s : State) (x : Nat × Nat × Nat × Nat × Bool) : State :=
  let off := x.1
  let code := x.2.1
  if !trimOffs.contains off then s
  else if codeFails off code || x.2.2.2.2 then s.substitute off code x.2.2.1 x.2.2.2.1
  else
    let t := s.put (trimCode off) code
    match s.traced off with
    | some c =>
      t.when (decide (s.pol 0x16 2 < (code - c) + (c - code))) fun u =>
        (u.evt R.TLR_EVT_DRIFT).post 0x18 0x10 warning noInst [off, c, code]
    | none => t

/-- The references are judged (R455): one that moved against both others is outvoted; when all disagree pairwise, all three
are shown. -/
def State.judgeRefs (s : State) (r : AgeResult) : State :=
  let m01 := r.moved.1
  let m02 := r.moved.2.1
  let m12 := r.moved.2.2
  let bad := b2n (m01 && m02) + 2 * b2n (m01 && m12) + 4 * b2n (m02 && m12)
  let t := if bad = 0 then s else s.put R.TLR_STAT_VREF_BAD bad
  t.when (decide (bad ≠ 0) || r.clock) fun u => u.post 0x18 0x14 warning noInst (bad :: r.ratios)

/-! ## Margin (R458 to R460) -/

/-- Class of a head's zone: the lowest of its bands, the one with the largest number; the zone's initial class where it has
no band (log entry 50). -/
def State.zoneDcls (s : State) (h z : Nat) : Nat :=
  let l := s.bands.filterMap fun e => match e.2 with
    | some b => if e.1 / 1048576 = h ∧ b.zone = z ∧ b.st ≠ .retired then some b.dcls else none
    | none => none
  match l with
  | [] => zeDcInit (s.zoneEnt h z)
  | _ => l.foldl Nat.max 0

/-- A margin as a record stores it. -/
def mgnWord (m : Option Int) : Nat :=
  match m with
  | some v => ofSigned 16 v
  | none => 0x8000

/-- Records of the fit: time and margin, newest `FIT_N` since the last change. -/
def State.fitPoints (s : State) (h z : Nat) : List (Int × Int) :=
  let l := (s.ages.filter fun r => decide (r.head = h ∧ Tab.at 0 s.fitFrom (h * 64 + z) ≤ r.aseq ∧ r.mgn.getD z 0x8000 ≠ 0x8000)).map
    fun r => ((r.opsec : Int), toSigned 16 (r.mgn.getD z 0x8000))
  l.drop (l.length - s.pol 0x14 1)

/-- Sum of a list. -/
def sumI (l : List Int) : Int := l.foldl (· + ·) 0

/-- The slope of the fit as a fraction with a positive denominator: least squares through 3 or more records, else the lower
of the last fitted slope and 0. -/
def State.slope (s : State) (h z : Nat) : Int × Int :=
  let p := s.fitPoints h z
  let n : Int := p.length
  let sx := sumI (p.map (·.1))
  let den := n * sumI (p.map fun q => q.1 * q.1) - sx * sx
  if 3 ≤ p.length ∧ 0 < den then (n * sumI (p.map fun q => q.1 * q.2) - sx * sumI (p.map (·.2)), den)
  else
    let l := Tab.at (0, 1) s.slopes (h * 64 + z)
    if l.1 < 0 then l else (0, 1)

/-- H: predicted hours to the margin target, rounded down; all ones when the margin does not fall or nothing is measured. -/
def State.hours (s : State) (h z : Nat) : Nat :=
  let p := s.fitPoints h z
  let n : Int := p.length
  let k := s.slope h z
  let tgt : Int := s.pol 0x0C 2
  if p = [] then 0xFFFFFFFF
  else
    -- fitted margin now less the target, times n and the slope's denominator
    let above := sumI (p.map (·.2)) * k.2 + k.1 * (n * s.opsec - sumI (p.map (·.1))) - tgt * n * k.2
    if above < 0 then 0
    else if 0 ≤ k.1 then 0xFFFFFFFF
    else Nat.min 0xFFFFFFFF (above / (n * (-k.1) * 3600)).toNat

/-! ## Re-planning (R461, R462) -/

/-- The fit of a zone restarts with the next record. -/
def State.restartFit (s : State) (h z : Nat) : State := { s with fitFrom := Tab.set 0 s.fitFrom (h * 64 + z) (s.get V.tlrAseq) }

/-- Records a step and schedules its verification; firmware saves. -/
def State.tookStep (s : State) (h z step hrs new : Nat) : State :=
  let t := (((s.count R.TLR_CNT_REPLAN).evt R.TLR_EVT_REPLAN).post 0x18 0x18 info noInst [h, z, step, hrs, new])
  { t with verifs := t.verifs ++ [(h * 64 + z, t.opsec + 3600 * t.pol 0x15 1)] }.tlrSave

/-- One zone is judged: the first step that has room is taken. -/
def State.replan (s : State) (h z : Nat) : State :=
  let a := s.actOf h
  let l := h - a * s.nhpa
  let dc := s.zoneDcls h z
  let hrs := s.hours h z
  if 2000 ≤ hrs then s
  else
    let e := s.writeEnt a l z
    let off := 0x2000 + (l * 64 + z) * 32
    let adj := toSigned 8 (e (8 + dc) 1)
    let tgt := e 6 2 + s.pol 0x0E 2
    let laser := decide (s.headEnt a l 0 1 = 1 ∧ (tgt : Int) + 5 * adj ≤ s.pol 0x10 2 ∧ tgt ≤ 2000 ∧
      laserPeak (s.headEnt a l 0xE 2) (s.headEnt a l 0x10 2) tgt adj ≤ s.headEnt a l 0x12 2)
    let zo := 0x1100 + z * 8
    let rd := s.le 0x13 h zo 2 + s.pol 0x12 1
    let wr := s.le 0x13 h (zo + 2) 2 + s.pol 0x12 1
    let mx := s.le 0x13 h 0x1000 2
    if laser then ((s.putEntry 0x12 a off 32 [(6, leBytes 2 tgt)]).restartFit h z).tookStep h z 1 hrs tgt
    else if wr + s.pol 0x13 1 ≤ mx ∧ rd ≤ mx then
      ((s.putEntry 0x13 h zo 8 [(0, leBytes 2 rd), (2, leBytes 2 wr)]).restartFit h z).tookStep h z 2 hrs wr
    else if dc < 5 then
      if Tab.at 0 s.asked (h * 64 + z) = dc + 2 then s
      else
        let d : Demand := ⟨h, z, dc + 1, hrs⟩
        let t := { s with asked := Tab.set 0 s.asked (h * 64 + z) (dc + 2) }
        let t := if t.on R.MMG_CTL_ALT_EN then t.demand d else { t with demands := t.demands ++ [d] }
        t.tookStep h z 3 hrs (dc + 1)
    else if hrs = 0 ∧ !bitOf (s.get (R.SPT_HDWP_WP a)) l then
      ((s.writeDisable a l).put R.TLR_STAT_EOL 1).post 0x18 0x19 error noInst
        [h, z, mgnWord ((s.fitPoints h z).getLast?.map (·.2))]
    else s

/-! ## Measurements (R456 to R458) -/

/-- The newest record of a head. -/
def State.newest (s : State) (h : Nat) : Option AgeRec := (s.ages.filter fun r => decide (r.head = h)).getLast?

/-- `MEASURING` follows what is due: a measurement runs on a drive in PS0 with no host work queued (log entry 51). -/
def State.showMeas (s : State) : State :=
  s.putB R.TLR_STAT_MEASURING (!s.dues.isEmpty && decide (s.get R.CVN_STAT_PS = 0) && (List.range 4).all fun a => (s.jugq a).isEmpty)

/-- Makes a measurement due; a verification takes the place of another cause (R464). -/
def State.due (s : State) (h cause : Nat) : State :=
  if s.dues.any fun d => decide (d.1 = h) then
    (if cause = 4 then { s with dues := s.dues.map fun (d : Nat × Nat) => if d.1 = h then (h, 4) else d } else s).showMeas
  else { s with dues := s.dues ++ [(h, cause)] }.showMeas

/-- AGEING_DUE: by hours, 100 after the last record, or by 1 TB written since (R456). 255 names the device. -/
def ageingDue (h : Fin 256) (byTb : Bool) (s : State) : State :=
  let late := match s.newest h with
    | some r => decide (r.opsec + 360000 ≤ s.opsec)
    | none => true
  if !s.on R.TLR_CTL_AGE_EN ∨ !(h.val = 255 ∨ h.val < s.nact * s.nhpa) ∨ (!byTb ∧ !late) ∨ (byTb ∧ h.val = 255) then s
  else s.due h (if byTb then 2 else 1)

/-- VERIFY_DUE: `VERIFY_H` after a re-plan step (R461). -/
def verifyDue (h : GHead) (z : RZone) (s : State) : State :=
  if s.verifs.any fun v => decide (v.1 = h.val * 64 + z.val ∧ v.2 ≤ s.opsec) then
    { s with verifs := s.verifs.filter fun v => decide (v.1 ≠ h.val * 64 + z.val) }.due h 4
  else s

/-- AGEING_OVERDUE: outstanding 100 h after falling due. -/
def ageingOverdue (h : Fin 256) (s : State) : State :=
  if s.dues.any fun d => decide (d.1 = h.val) then s.count R.TLR_CNT_OVERDUE else s

/-- An ageing limit is passed (R457). -/
def State.limit (s : State) (bad : Bool) (item inst v : Nat) : State := s.when bad fun t => t.post 0x18 0x16 warning noInst [item, inst, v]

/-- First record of the device, or of a head since the last trace, with an item measured. -/
def State.firstWith (s : State) (h item since : Nat) : Option AgeRec :=
  s.ages.find? fun r => decide (r.head = h ∧ since ≤ r.opsec) && bitOf r.flags item

/-- Applies what a head's run measured (R457); the stroke is judged against the `MA_GAIN` in force before it takes its place
(R154). -/
def State.applyHead (s : State) (h : Nat) (it : List (Option Nat)) : State :=
  let a := s.actOf h
  let l := h - a * s.nhpa
  let get (i : Nat) : Option Nat := (it.getD i none)
  let t := match get 0, get 1 with
    | some i, some sl => s.putEntry 0x12 a (0x1000 + l * 64) 64 [(0xE, leBytes 2 i), (0x10, leBytes 2 sl)]
    | _, _ => s
  let t := match get 3, (s.ages.filter fun r => decide (r.head = h) && bitOf r.flags 3).getLast? with
    | some p, some r =>
      let old := r.items.getD 3 0
      let mx := s.le 0x13 h 0x1000 2
      let sh (v : Nat) : List Byte := leBytes 2 (clampI 0 mx ((v : Int) + p - old)).toNat
      t.forAll (s.zonesOf h) fun z u =>
        let o := 0x1100 + z * 8
        u.putEntry 0x13 h o 8 [(0, sh (u.le 0x13 h o 2)), (2, sh (u.le 0x13 h (o + 2) 2))]
    | _, _ => t
  match get 4 with
  | some g => (((t.when (t.on (R.SRV_CTL_MA_EN a)) fun u => u.maJudge a l g).put (V.srvMaAge a) 0)).put (R.SRV_HEADA_MA_GAIN a l) g
  | none => t

/-- Judges and applies what a device run measured (R455, R457). -/
def State.applyDevice (s : State) (r : AgeResult) : State :=
  let get (i : Nat) : Option Nat := r.items.getD i none
  let first (i k : Nat) : Option Nat := (s.firstWith 255 i 0).map fun f => f.items.getD k 0
  let t := match get 0, first 5 0 with
    | some v, some f => s.limit (decide (5 * f ≤ 4 * v)) 5 noInst v
    | _, _ => s
  let t := match get 1, first 9 1 with
    | some v, some f => t.limit (decide (f + 30 ≤ v)) 9 noInst v
    | _, _ => t
  let t := t.forAll (List.range 2) fun k u => match get (2 + k) with
    | some v => u.limit (decide (v < 200)) 8 k v
    | none => u
  let worst := t.blks.foldl (fun m e => Nat.max m e.2.erases) 0
  let t := t.limit (decide (80000 < worst)) 7 noInst worst
  let t := t.forAll r.friction fun f u => u.forAll f.2.zipIdx fun p v =>
    v.putTable 0x0F 0 (0x4000 + f.1 * 0x400 + 4 * p.2 + 2) (leBytes 2 p.1)
  (t.forAll r.trims fun x u => u.retrim x).judgeRefs r

/-- A record as its 256 bytes (R458). -/
def AgeRec.bytes (r : AgeRec) : List Byte :=
  let it (i : Nat) : List Byte := leBytes 2 (r.items.getD i 0)
  let head := leBytes 4 r.aseq ++ leBytes 4 r.opsec ++ leBytes 1 r.head ++ leBytes 1 r.cause ++ leBytes 2 r.flags ++ leBytes 4 r.gbw
  let body := if r.head = 255 then it 0 ++ it 1 ++ it 2 ++ it 3 ++ [0, 0] ++ leBytes 4 r.wear ++ [0, 0]
    else it 0 ++ it 1 ++ it 2 ++ it 3 ++ it 4 ++ List.replicate 6 0
  let z := ((List.range 64).flatMap fun i => leBytes 2 (r.mgn.getD i 0x8000)) ++ ((List.range 64).flatMap fun i => leBytes 1 (r.zdc.getD i 0)) ++
    List.replicate 28 0
  let b := head ++ body ++ z
  b ++ leBytes 4 (crc32c b)

/-- Adds a record to the ring of 32,768 slots; entering a block erases it, with the 256 oldest records (R407, R452). -/
def State.addAge (s : State) (r : AgeRec) : State :=
  let p := r.aseq % 32768
  let g := ageBlk + p / 256
  let t := if p % 256 = 0 then { s with ages := s.ages.filter fun x => decide (r.aseq ≤ x.aseq + 32512) }.eraseNow g else s
  { t with ages := t.ages ++ [r] }.progNow (g * 65536 + 256 * (p % 256)) r.bytes

/-- AGEING_MEASURE_DONE: the run of a head or the device that is due ends (R456 to R461). -/
def ageingDone (h : Fin 256) (r : AgeResult) (s : State) : State :=
  match s.dues.find? fun d => decide (d.1 = h.val) with
  | none => s
  | some d =>
    let s := { s with dues := s.dues.filter fun x => decide (x.1 ≠ h.val) }
    let dev := decide (h.val = 255)
    let zdc := if dev then [] else (List.range 64).map (s.zoneDcls h)
    let mgn := if dev then [] else (List.range 64).map fun z =>
      mgnWord ((r.snr.getD z none).map fun v => v - s.pol (2 * zdc.getD z 0) 2)
    let has (i : Nat) : Bool := (r.items.getD i none).isSome
    let flags := if dev then 2 ^ 5 * b2n (has 0) + 2 ^ 6 * b2n (!r.friction.isEmpty) + 2 ^ 7 + 2 ^ 8 * b2n (has 2 || has 3) +
        2 ^ 9 * b2n (has 1) + 2 ^ 10
      else b2n (has 0) + 2 * b2n (r.snr.any (·.isSome)) + 4 * b2n (has 2) + 8 * b2n (has 3) + 16 * b2n (has 4)
    let worst := s.blks.foldl (fun m e => Nat.max m e.2.erases) 0
    let rec_ : AgeRec := ⟨s.get V.tlrAseq, s.opsec, h, d.2, flags, r.gbw, (List.range 5).map (fun i => (r.items.getD i none).getD 0),
      if dev then worst else 0, mgn, zdc⟩
    let t := if dev then s.applyDevice r else s.applyHead h r.items
    let t := if dev then t else match (s.firstWith h 2 ((s.certs.map fun c => fieldAt c 4 4).headD 0)), r.items.getD 2 none with
      | some f, some v => t.limit (decide (v + 30 ≤ f.items.getD 2 0)) 2 h v
      | _, _ => t
    let t := t.forAll r.skipped fun x u => u.post 0x18 0x17 info noInst [x.1, h, x.2]
    let t := (t.addAge rec_).bump V.tlrAseq 1
    -- a zone whose bands have reached the class demanded starts its fit anew
    let t := t.forAll (if dev then [] else List.range 64) fun z u =>
      if Tab.at 0 u.asked (h * 64 + z) ≠ 0 ∧ Tab.at 0 u.asked (h * 64 + z) ≤ u.zoneDcls h z + 1 then
        { u with asked := Tab.set 0 u.asked (h * 64 + z) 0, fitFrom := Tab.set 0 u.fitFrom (h * 64 + z) rec_.aseq }
      else u
    let t := (t.tlrSave).showMeas
    if dev ∨ !t.polOk then t
    else
      let seen := (List.range 64).filter fun z => (r.snr.getD z none).isSome
      let t := t.forAll seen fun z u =>
        if 3 ≤ (u.fitPoints h z).length then { u with slopes := Tab.set (0, 1) u.slopes (h * 64 + z) (u.slope h z) } else u
      if t.on R.TLR_CTL_PLAN_EN then t.forAll seen fun z u => u.replan h z else t

/-! ## Tracing (R453, R454) -/

/-- Writing `TLR_CTL.TRACE`; `steady`: Tj has changed by less than 1 °C over the last 60 s. The number is the status. -/
def State.traceGo (s : State) (steady : Bool) : State × Nat :=
  if s.on R.TLR_STAT_TRACING ∨ s.on R.TLR_STAT_MEASURING then (s, 0x000F)
  else if !s.allUnloaded ∨ crlSTOPPED < s.crlSt ∨ !steady then (s, 0x000A)
  else (s.put R.TLR_STAT_TRACING 1, 0)

/-- TRACE. -/
def traceCmd (steady : Bool) (s : State) : State := (s.traceGo steady).1

/-- The certificate (R454). -/
def State.certOf (s : State) (ppb : Int) (vref : List Nat) (tj : Int) (codes : List (Nat × Nat)) : List Byte :=
  let b := [0x54, 0x52, 0x43, 0x45] ++ leBytes 4 s.opsec ++ ((List.range 4).flatMap fun i => leBytes 4 (s.get (R.TLR_STATION_ID i))) ++
    leBytes 4 (ofSigned 32 ppb) ++ ((List.range 3).flatMap fun i => leBytes 4 (vref.getD i 0)) ++ leBytes 2 (ofSigned 16 tj) ++
    leBytes 2 codes.length ++ codes.flatMap fun c => leBytes 2 c.1 ++ leBytes 2 c.2
  b ++ (((Config.sha384 (b.map fun (x : Byte) => x.toNat)).map (fun (x : Nat) => (BitVec.ofNat 8 x : Byte)) ++ List.replicate 48 0).take 48)

/-- TRACE_DONE: the registers are trimmed and the certificate written and saved, or nothing changes. -/
def traceDone (r : TraceResult) (s : State) : State :=
  if !s.on R.TLR_STAT_TRACING then s
  else
    let t := s.put R.TLR_STAT_TRACING 0
    match r with
    | .missing ref v => (t.evt R.TLR_EVT_TRACE_FAIL).post 0x18 0x15 error noInst [ref, v]
    | .traced ppb vref tj codes =>
      let cs := codes.filter fun c => trimOffs.contains c.1
      let u := t.forAll cs fun c v => v.put (trimCode c.1) c.2
      { u with certs := (u.certOf ppb vref tj cs :: u.certs).take 5 }.tlrSave

/-! ## Commands -/

/-- Meaning of AGEING_DUE (R456). -/
def execAgeingDue (h : Fin 256) (byTb : Bool) (s : State) : Host.Outcome State Fault Refusal :=
  .next (ageingDue h byTb s)

/-- Meaning of AGEING_MEASURE_DONE (R457). -/
def execAgeingMeasureDone (h : Fin 256) (r : AgeResult) (s : State) : Host.Outcome State Fault Refusal :=
  .next (ageingDone h r s)

/-- Meaning of VERIFY_DUE (R461). -/
def execVerifyDue (h : GHead) (z : RZone) (s : State) : Host.Outcome State Fault Refusal :=
  .next (verifyDue h z s)

/-- Meaning of AGEING_OVERDUE (R456). -/
def execAgeingOverdue (h : Fin 256) (s : State) : Host.Outcome State Fault Refusal :=
  .next (ageingOverdue h s)

/-- Meaning of TRACE (R453). -/
def execTrace (steady : Bool) (s : State) : Host.Outcome State Fault Refusal :=
  .next (traceCmd steady s)

/-- Meaning of TRACE_DONE (R453). -/
def execTraceDone (r : TraceResult) (s : State) : Host.Outcome State Fault Refusal :=
  .next (traceDone r s)

end Sys2Proof.Machine
end

