-- ==== Sys2Proof/Machine/Reset.lean ====
section
/-!
DEFINITION. Resets, the start order, spin permission and I/O-ready (chapter "Start-up, reset and recovery", R481 to R497), the
crystal of Caravan (R29) and the sequencing of the switched supplies (R431).
-/

namespace Sys2Proof.Machine

/-! ## Register words -/

/-- A 32-bit register of a block instance as its table has it: every field at its place. -/
def State.word (s : State) (blk inst off : Nat) : Nat :=
  (((regRows blk).filter fun r => decide (r.off ≤ off ∧ (off = r.off ∨ (r.stride ≠ 0 ∧ (off - r.off) % r.stride = 0 ∧
    (off - r.off) / r.stride < r.cnt)))).map fun r => s.get ⟨blk, inst, off, r.lo, r.w, r.rst⟩ * 2 ^ r.lo).foldl (· + ·) 0

/-! ## Spin permission (R488 to R490) -/

/-- `PERM` of `SPIN_STATUS` (R388, R488, R490). -/
def State.permNow (s : State) : Nat :=
  let st := s.crlSt
  let mode := s.get V.spinMode
  if s.on V.sagWait then (if mode = 3 then 2 else 5)
  else if st = crlOFF ∨ st = crlSTOPPED then
    if s.on V.crlPerm then 4 else if s.get R.CRL_STAT_SP = 0 then 0 else if s.on V.spinLow then 1 else if mode = 3 then 2 else 3
  else if s.on V.crlSp05 then 6
  else if st = crlFAULT ∨ s.get R.CRL_STAT_SP = 0 then 0 else 4

/-- `REMAIN_MS` of `SPIN_STATUS`: what is left of a delay, a back-off or the wait after a sag. -/
def State.spinRemain (s : State) : Nat :=
  let p := s.permNow
  if (p = 3 ∧ s.get V.spinSt = 1) ∨ p = 5 then s.get V.spinLen - (s.get V.msNow - s.get V.spinFrom) else 0

/-- VIN12 budget of the spin-up, mA: `IMAX_MA` or `VIN12_BUD`, less from the second attempt on (R388, R490). -/
def State.spinBudget (s : State) : Nat :=
  let b := if s.on V.imaxMa then s.get V.imaxMa else s.spnLe 0x14 2
  let n := s.get V.spinTry
  if n = 0 then b else b * Nat.max (8 - n) 4 / 8

/-- Every condition of R488 holds: the start proceeds when Strongman grants it, and step 6 ends. -/
def State.spinGo (s : State) : State :=
  if s.grantSeen then
    let t := (s.put V.crlPerm 1).setVinBudget (10 * s.spinBudget)
    ((t.when (decide (s.get V.spinMode = 0)) fun u => u.put V.spinSt 0).stepEnd 6).tryStart
  else s

/-- Tests the conditions of R488 in order, for a start that waits in STOPPED; an AUTO back-off begins when the conditions
before it hold (R489). -/
def State.spinCheck (s : State) : State :=
  let mode := s.get V.spinMode
  if s.crlSt ≠ crlSTOPPED ∨ s.get R.CRL_STAT_SP = 0 ∨ s.on V.sagWait ∨ s.on V.spinLow ∨ s.on V.crlPerm then s
  else if mode = 3 then s
  else if mode = 1 ∨ s.get V.spinSt = 2 then s.spinGo
  else if mode = 0 ∧ s.get V.spinSt = 0 then
    s.puts [(V.spinSt, 1), (V.spinFrom, s.get V.msNow), (V.spinLen, s.backoff (s.get V.spinTry))]
  else s

/-- SPIN_PERMISSION. -/
def spinPermission (s : State) : State := s.spinCheck

/-- SPIN_HOLD_N_CHANGE: the level that has stood for 1 ms; a fall leaves a spin-up unchanged (R388, R495). -/
def spinHoldChange (level : Bool) (s : State) : State := (s.putB V.spinLow (!level)).spinCheck

/-- SPIN_BACKOFF_END. -/
def spinBackoffEnd (s : State) : State :=
  if s.get V.spinMode = 0 ∧ s.get V.spinSt = 1 then (s.put V.spinSt 2).spinCheck else s

/-- SPIN_DELAY_END. -/
def spinDelayEnd (s : State) : State :=
  if s.get V.spinMode = 2 ∧ s.get V.spinSt = 1 then (s.put V.spinSt 2).spinCheck else s

/-- SAG_WAIT_END: `SP_OVR` clears, and step 6 is entered again with the back-off over. -/
def sagWaitEnd (s : State) : State :=
  if s.on V.sagWait then ((s.puts [(V.sagWait, 0), (R.CRL_CTL_SP_OVR, 0), (V.spinSt, 2)]).evalSp).spinCheck else s

/-! ## What a reset leaves (R428, R482, R494) -/

/-- Fields that a reset of the controller die leaves: Strongman's, Caravan's and Parasol's registers, `SNT_CNT_STAGE2`, and
what stands in always-on, flash or media state. -/
def keptFld (k : Fld) : Bool :=
  [0x11, 0x16, 0x17, 0x40, 0x41].contains k.blk || decide (k.blk = 0x15 ∧ k.off = 0x44)

/-- The registers and windows after a reset of the controller die. -/
def State.clearRegs (s : State) : State :=
  { s with flds := s.flds.filter fun e => keptFld e.1,
           win := s.win.filter fun e => [0x11, 0x16, 0x17].contains (e.1 / 16777216) }

/-- The stripes a reset leaves: those whose holders have acknowledged; a fragment of this drive whose index entry was not
durable is stored again (R258, R347). -/
def State.looseFrags (s : State) : List Stripe :=
  let kept (no i : Nat) : Bool := s.fragNsid.any fun n => (Tab.at none s.kvDur (n.1 * 2 ^ 128 + keyNum (fragKey serial no i))).isSome
  (s.stripes.filter Stripe.acked).map fun x =>
    { x with frags := x.frags.zipIdx.map fun p => if kept x.no p.2 then p.1 else { p.1 with loc := none } }

/-- What the controller die and its HBM hold is lost; media, Wardrobe and the always-on domain keep theirs. DESIGN CHOICE: the
operating hours of machine checks (R135, R191) are among it (assumption 68). -/
def State.clearRam (s : State) : State :=
  { s with bstore := [], cstore := [], fwImg := [], wd := [], edges := [], chn := [], seqs := [], jq := [], jact := [], cmds := [], ctrls := [], visit := [], rung6 := [], amps := [], sams := [],
           loops := [], tstk := [], tshd := [], tshr := [], tscrub := [], tmchk := [], cog := [], spn := [], fwPend := [], fwErased := [], errlog := [],
           rsets := [], reqs := [], nonces := [], held := [], pkt := [], hbm := [], poison := [], kvLog := [], progs := [],
           progRuns := [], cands := [], authFail := [], addrs := [], partner := [], tstore := [], works := [], shadow := [],
           stripes := s.looseFrags,
           kvDur := s.kvDur.map fun (e : Nat × Option KvEnt) => (e.1, e.2.map fun (x : KvEnt) => { x with bad := false }),
           nss := s.nss.map fun (e : Nat × Option Ns) => (e.1, e.2.map fun (x : Ns) => { x with att := [] }) }

/-- A reset ends the state held: PS0, but for a wake from PS5 (R436). -/
def State.resetPs (s : State) (src : Nat) : State :=
  if src = 7 then s.puts [(R.CVN_STAT_PS_TGT, 0), (V.psStep, 0)]
  else (s.puts [(R.CVN_STAT_PS_TGT, 0), (V.psStep, 0), (V.cvnWaking, 0), (V.wake5, 0)]).setPs 0

/-- The controller die loses what it holds: operations are cut short and registers return to their reset values. The
heartbeat goes on from the count Strongman last received, so that only an advance counts (R24). -/
def State.dieLost (s : State) : State :=
  let k := s.inactive
  let t := s.when (s.on V.fwOpen) fun t => t.put (V.fwSlotSt k) 1
  ((((t.endTest 2).flashCut).loseVolatile).clearRegs.clearRam).put V.hbTx (s.get V.stmHbRx)

/-- A reset of the controller die (R481 to R483): the die loses what it holds, and the start begins at a step. Its heartbeat ends with
it, so Strongman enters its autonomous state at the third miss (R233). -/
def State.dieReset (s : State) (src step : Nat) : State :=
  let t := (s.dieLost).puts
    [(R.RMC_CAUSE_SRC, src), (R.RMC_STAT_STEP, step), (V.vin12Lo, 65535), (V.vin12Hi, 0), (V.vin5Lo, 65535), (V.vin5Hi, 0)]
  ((t.count R.RMC_CNT_START).resetPs src).budgetChanged.showTherm

/-! ## Boot (R415, R418, R419, R421 to R423, R485) -/

/-- Boot ROM erases every erase-incomplete block (R423). -/
def State.reErase (s : State) : State :=
  let busy (g : Nat) : Bool := (s.bankOps (g / 1024)).any fun o => o.erase && decide (o.blk = g)
  let l := (s.blks.filter fun e => e.2.bad && !busy e.1).map (·.1)
  (s.forAll l fun g t =>
    let u := (t.eraseNow g).count R.WDB_CNT_ABANDON
    if inRing g then u.ringErased (g - ringBlk) else u).puts [(V.reerased, l.length), (V.reFirst, l.headD 0)]

/-- Firmware reports what boot ROM erased again, once (R423). -/
def State.tellReErase (s : State) : State :=
  s.when (s.on V.reerased) fun t =>
    (t.post 0x14 0x10 warning noInst [t.get V.reFirst / 1024, t.get V.reFirst % 1024, t.get V.reerased]).put V.reerased 0

/-- Mailboxes of firmware and of the transports (R351, R370). -/
def State.openBoxes (s : State) : State :=
  ((s.forAll (List.range 8) fun n t => t.put (R.TKB_MB_OWNER n) 1).puts [(R.TKB_MB_OWNER 8, 2), (R.TKB_MB_OWNER 9, 2),
    (R.TKB_MB_ID 9, s.get V.mctpEid)])

/-- Boot ROM starts no firmware and serves mailbox 8 alone (R353, R415, R421). -/
def State.romOnly (s : State) (slot : Nat) : State := s.puts [(V.romServe, 1), (V.fwSlot, slot)]

/-- The signed image of a slot goes to the HBM firmware partition, by the Wardrobe loader's class (R5, R32, R123, R399, R484). -/
def State.loadImage (s : State) (slot : Nat) : State :=
  let lo := slotAddr slot + 0x1000
  let n := s.fle (slotAddr slot + 8) 4
  ({ s with fwImg := (s.flash.filter fun e => decide (lo ≤ e.1 ∧ e.1 < lo + n)).map fun e => (e.1 - lo, e.2) } : State).fwPages 14 0 (s.fbytes lo n)

/-- Resident firmware of a slot runs: step 5 begins (R484); it is the start that a grant after a power loss waits for (R237). -/
def State.runFw (s : State) (slot : Nat) : State :=
  let t := ((s.loadImage slot).puts [(V.stmPlReq, if s.on V.stmPlReq then 2 else 0), (V.fwUp, 1), (V.romServe, 0), (V.fwSlot, slot), (V.fwVer slot, 1), (R.SDS_ID_ROM, 0)]).stepEnd 4
  let t := (((t.sntKick 0xC35A).refreshSpn.tlrLoad.tellReErase).setRate (t.optLe 0x46 1)).showPbl
  t.when (t.on V.sntLast) fun u =>
    ((u.put V.sntLast 0).evt R.SNT_EVT_LAST_RESET).post 0x15 0x11 error noInst [u.get R.SNT_CNT_STAGE2, u.get V.sntAb]

/-- Boot ROM boots the other slot, after a failed trial or a failed authentication, or serves alone (R421). -/
def State.bootOther (s : State) (slot cause : Nat) : State :=
  let o := 1 - slot
  let t := s.put R.CVN_STAT_TRIAL_STARTED 0
  if s.slotCause o = 0 then
    ((t.progSel o true).runFw o).post 0x14 0x14 error noInst ([slot, cause] ++ (s.slotVer slot).map fun (b : Byte) => b.toNat)
  else t.romOnly slot

/-- Slot selection and authentication (R418, R419, R421); cause 15 of code 0x14 stands for a failed trial. -/
def State.bootSlot (s : State) : State :=
  let c := s.selCode
  let k := c % 2
  if 2 ≤ c ∧ s.on R.CVN_STAT_TRIAL_STARTED then s.bootOther k (Config.causeCode 15)
  else
    let v := s.slotCause k
    if v = 0 then
      (s.when (decide (2 ≤ c)) fun t => t.puts [(R.CVN_STAT_TRIAL_STARTED, 1), (V.fwTrial, 1)]).runFw k
    else s.bootOther k v

/-- Steps 3 and 4 of a start (R484): boot ROM loads the option area, sets Safety Net going and boots a slot. -/
def State.boot (s : State) : State :=
  let t := (s.reErase.loadOpt.openBoxes).pblScan
  if t.on V.optValid then
    ((t.put R.SNT_CFG_T1 (t.optLe 0x48 2)).sntEnable.1.stepEnd 3).bootSlot
  else t.sntEnable.1.romOnly (t.selCode % 2)

/-- A reset that enters the start at step 3. -/
def State.restart3 (s : State) (src : Nat) : State := (s.dieReset src 3).boot

/-- A reset that enters the start at step 2: supplies that are up are lowered first (R481). -/
def State.restart2 (s : State) (src : Nat) : State :=
  let t := s.dieReset src 2
  t.put V.pwrSeq (if t.get R.CVN_STAT_PWR_EN = 0 then 1 else 3)

/-- Supplies on, counted from `PWR_EN[0]` (R31). -/
def State.pwrUp (s : State) : Nat := ((List.range 6).filter fun i => bitOf (s.get R.CVN_STAT_PWR_EN) i).length

/-- The device leaves PS5 by a wake (R430, R434, R493). -/
def State.wakeFrom5 (s : State) (cause : Nat) : State :=
  let t := ((s.puts [(R.CVN_STAT_WAKE_CAUSE, cause), (V.wake5, 1), (V.cvnWaking, 1), (V.wakePend, 0), (R.CVN_STAT_DEMAND, 1)]).evt
    R.CVN_EVT_WAKE).count R.CVN_CNT_WAKE
  let t := (t.post 0x16 0x12 info noInst [cause]).restart2 7
  let t := t.present (Nat.min (t.get R.CVN_BUD_EFF_EFF_US) (t.get R.CVN_DEMAND_DEMAND_US))
  if cause = 1 then ((t.evt R.FAB_EVT_WAKE).count R.FAB_CNT_WAKE).post 0x01 0x16 info noInst [] else t

/-- Every actuator is parked, as Strongman knows it (R439). -/
def State.allParked (s : State) : Bool :=
  decide (s.get R.STM_STAT_RETRACT = 0) && (List.range 4).all fun a => !s.on (V.stmLoaded a)

/-- HBM loses its supply (R30, R436). -/
def State.dropHbm (s : State) : State :=
  { s with hbm := [], poison := [] }.puts
    [(R.HBM_STAT_TRAINED 0, 0), (R.HBM_STAT_TRAINED 1, 0), (R.HBM_STAT_OFF 0, 1), (R.HBM_STAT_OFF 1, 1)]

/-- The Pocket arrays, the scratch of the cores and the control stores lose their supply (R30). -/
def State.dropSram (s : State) : State :=
  { s with pkt := [], progRuns := [], bstore := [], cstore := [] }.showPkt

/-- An enable has fallen: its domain loses what it holds, staged data with the HBM and the links with the SerDes (R30). A reset that lowers the supplies has lost it before. -/
def State.domainOff (s : State) (i : Nat) : State :=
  if i = 5 then s.dropHbm.loseVolatile
  else if i = 3 then (s.linkDown 0 (Config.causeCode 122)).linkDown 1 (Config.causeCode 122)
  else if i = 2 then s.dieLost else if i = 1 then s.dropSram else if i = 0 then s.flashCut else s

/-- PWR_EN_STEP: the next enable rises or falls; what follows the last one depends on why (R431, R436, R439, R481). -/
def pwrEnStep (s : State) : State :=
  let n := s.pwrUp
  let q := if s.on V.pslOff && s.on R.CVN_STAT_PWR_EN && s.allParked then 4 else if s.on V.pslOff then 0 else s.get V.pwrSeq
  if q = 0 ∨ !s.on V.vin5ok then s
  else if q = 1 then
    let t := (s.put R.CVN_STAT_PWR_EN (2 ^ Nat.min 6 (n + 1) - 1)).showPbl
    if n + 1 < 6 then t else ((t.put V.pwrSeq 0).stepEnd 2).boot
  else
    let t := (s.puts [(R.CVN_STAT_PWR_EN, 2 ^ (n - 1) - 1), (V.pwrSeq, q)]).showPbl
    let t := t.when (decide (q ≠ 3) || decide (n = 1)) fun u => u.domainOff (n - 1)
    if 1 < n then t
    else if q = 3 then t.put V.pwrSeq 1
    else
      let t := t.put V.pwrSeq 0
      if q = 4 then t
      else
        let u := (t.count R.CVN_CNT_PS5).setPs 5
        if u.on V.wakePend then u.wakeFrom5 (u.get V.wakePend) else u.checkMiss

/-! ## Reset sources (R481) -/

/-- Counters that no loss of VIN5 clears (R429). -/
def keptCvn (k : Fld) : Bool :=
  [R.CVN_OPSEC_SECONDS, R.CVN_PCYC_CYCLES, R.CVN_STAT_OPSEC_SAT, R.CVN_STAT_PCYC_SAT].contains k

/-- What VIN5 held is lost: Caravan's and Parasol's registers, `SNT_CNT_STAGE2`, budgets, recorder buffer (R428, R445, R473). -/
def State.loseVin5 (s : State) : State :=
  { s with flds := s.flds.filter fun e => keptCvn e.1 || [0x11, 0x41].contains e.1.blk,
           win := s.win.filter fun e => decide (e.1 / 16777216 = 0x11),
           inbox := [], popen := none, pbuf := [],
           nss := s.nss.map fun (e : Nat × Option Ns) => (e.1, e.2.map fun (x : Ns) => { x with budget := noBudget }) }

/-- VIN5_LOSS: VIN5 falls below 3.8 V (R21). -/
def vin5Loss (s : State) : State :=
  if !s.on V.vin5ok then s else ((s.dieReset 1 0).loseVin5).puts [(V.vin5ok, 0), (V.sntLast, 0)]

/-- POWER_ON_RESET: the power-cycle count advances, and Caravan starts (R29, R429, R431, R484). -/
def powerOnReset (s : State) : State :=
  if s.on V.vin5ok then s
  else
    let n := Nat.min 4294967295 (s.get R.CVN_PCYC_CYCLES + 1)
    let t := (s.loseVin5.put V.vin5ok 1).put R.CVN_PCYC_CYCLES n
    let t := t.when (decide (n = 4294967295) && !t.on R.CVN_STAT_PCYC_SAT) fun u =>
      (u.put R.CVN_STAT_PCYC_SAT 1).post 0x16 0x14 error noInst [1]
    ((t.dieReset 1 1).stepEnd 1).put V.pwrSeq 1

/-- RAIL_LOSS_RESET: a switched supply left its range while enabled. -/
def railLossReset (s : State) : State :=
  if !s.on V.vin5ok ∨ s.get R.CVN_STAT_PWR_EN = 0 then s else s.restart2 2

/-- RINGMASTER_RESTART. -/
def ringmasterRestart (s : State) : State :=
  if !s.on V.vin5ok ∨ !s.on V.fwUp then s else s.restart3 5

/-- What a stage-2 abandon ends, as `V.sntAb` keeps it. -/
def State.abandoned (s : State) : Nat :=
  match (List.range 4).flatMap fun b => s.bankOps b with
  | [] => 0
  | o :: _ => 1 + 4 * o.blk + (if o.erase then 2 else 1)

/-- STAGE2: 2 s after stage 1 without a kick: the stop wire, the abandon, the reset (R422). -/
def stage2 (s : State) : State :=
  if s.get R.SNT_STAT_STAGE ≠ 2 then s
  else
    (((s.stopAssert 3).count R.SNT_CNT_STAGE2).puts [(V.sntLast, 1), (V.sntAb, s.abandoned)]).restart3 3

/-- Carousel is at rest: STOPPED, or with no start under way. -/
def State.atRest (s : State) : Bool :=
  decide (s.crlSt = crlSTOPPED ∨ s.crlSt = crlOFF ∨ s.crlSt = crlFAULT)

/-- A firmware reset goes on (R483, R495): `V.fwRst` 1 requested, 2 the durable point is taken, 3 heads unload and the
spindle stops; each phase follows when the one before it has ended. -/
def State.fwAdvance (s : State) : State :=
  let s := if s.get V.fwRst = 1 ∧ (s.on R.RMC_STAT_IO_READY ∨ s.on V.startLate) then
      (s.forAll s.dirtyActs fun a t => t.beginPoint a).put V.fwRst 2
    else s
  let s := if s.get V.fwRst = 2 ∧ (List.range 4).all (fun a => (s.pointsOf a).isEmpty) then
      (s.unloadAll.puts [(V.fwRst, 3), (R.CRL_CTL_SP_OVR, 1), (R.CRL_CTL_SP_REQ, 0)]).evalSp
    else s
  if s.get V.fwRst = 3 ∧ s.atRest then s.restart3 4 else s

/-- FIRMWARE_RESET. -/
def firmwareReset (s : State) : State := s.fwAdvance

/-- A Carousel that has come to STOPPED needs permission for its next start (R488). -/
def State.stopped (s : State) : State :=
  (s.when (decide (s.crlSt = crlSTOPPED)) fun t => t.put V.crlPerm 0).fwAdvance

/-- SHORT_TIMER_END: the 2 s of SHORT after an attempt end (R206). -/
def shortTimerEnd (s : State) : State := s.shortTimer.stopped

/-- SHORT_QUIET_END: 1 s without a zero crossing in SHORT (R206, R217). -/
def shortQuietEnd (s : State) : State := s.shortQuiet.stopped

/-! ## I/O-ready (R487, R491, R492) -/

/-- Step 10 has ended for an actuator: locked, or unavailable. -/
def State.actSettled (s : State) (a : Nat) : Bool := s.onTrack a || s.actDown a || !s.on (R.SRV_CTL_EN a)

/-- Actuators of the build unavailable at I/O-ready, as a mask. -/
def State.actsOut (s : State) : Nat :=
  (((List.range s.nact).filter fun a => s.actDown a || !s.on (R.SRV_CTL_EN a)).map fun a => 2 ^ a).foldl (· + ·) 0

/-- IO_READY: step 10 ends. `sysBad` names actuators whose system tracks are unreadable in both copies (R258, R277), `keyBad`
namespaces whose key failed its unwrap in both copies (R329), `journalBad` the journal records that cannot be read or disagree
with another of their operation (R271), `trialOk` that one of three confirming words verified (R421). -/
def ioReady (sysBad : List Act) (keyBad journalBad : List (BitVec 32)) (trialOk : Bool) (s : State) : State :=
  if !s.on V.fwUp ∨ s.on R.RMC_STAT_IO_READY ∨ !(List.range s.nact).all s.actSettled then s
  else
    let t := s.forAll sysBad fun a u => u.put (V.mmgSysBad a) 1
    let t := t.forAll keyBad fun n u => match u.ns n.toNat with
      | some x => ((u.setNs n.toNat (some { x with keyOk := false })).count R.CLOAK_CNT_UNWRAP).post 0x08 0x11 error noInst [n.toNat]
      | none => u
    let ms := t.get V.msNow - t.get V.startMs
    let out := t.actsOut
    let t := t.puts [(R.RMC_T_MS 9, ms), (R.RMC_T_MS 10, ms), (R.RMC_STAT_STEP, if t.on R.PWK_CTL_ACT then 12 else 0),
      (R.RMC_STAT_IO_READY, 1), (R.RMC_STAT_ACT_OUT, out), (R.MMG_STAT_REPLAY, 0)]
    let t := (t.evt R.RMC_EVT_IO_READY).noticeAll t.ctrlIds 8 aenNs
    let t := t.post 0x05 0x11 info noInst
      ([t.get R.RMC_CAUSE_SRC] ++ ((List.range 12).map fun i => t.get (R.RMC_T_MS i)) ++ [out])
    let t := ((t.scanJournal.forAll journalBad fun n u => u.journalError n.toNat).resumeAll.confirmTrial trialOk).optRepairDo
    let t := if t.on V.wake5 then (t.puts [(V.wake5, 0), (V.cvnWaking, 0), (V.wakeHold, 1)]).setPs 0 else t
    t.checkMiss.fwAdvance

/-- START_LATE: 40 s after step 6 ended without I/O-ready; once in a start. -/
def startLate (s : State) : State :=
  if !s.on V.fwUp ∨ s.on R.RMC_STAT_IO_READY ∨ s.on V.startLate ∨ s.get R.RMC_STAT_STEP < 7 then s
  else
    (((s.put V.startLate 1).evt R.RMC_EVT_START_LATE).post 0x05 0x14 warning noInst
      [s.get R.RMC_STAT_STEP, s.permNow, s.word 0x10 0 0x008]).fwAdvance

/-! ## The crystal (R29) -/

/-- XTAL_FAIL: no edge of `XTAL_AON` within 4 ms; `n` is the RC's count then. -/
def xtalFail (n : BitVec 32) (s : State) : State :=
  if s.on V.cvnRc then s
  else
    ((s.puts [(V.cvnRc, 1), (R.CVN_STAT_XTAL_FAIL, 1)]).evt R.CVN_EVT_XTAL_FAIL).post 0x16 0x13 warning noInst [n.toNat]

/-- XTAL_RECOVER: 1,024 good periods; the flag stays. -/
def xtalRecover (s : State) : State := s.put V.cvnRc 0

/-! ## Commands -/

/-- Meaning of POWER_ON_RESET (R481). -/
def execPowerOnReset (s : State) : Host.Outcome State Fault Refusal :=
  .next (powerOnReset s)

/-- Meaning of VIN5_LOSS (R21). -/
def execVin5Loss (s : State) : Host.Outcome State Fault Refusal :=
  .next (vin5Loss s)

/-- Meaning of RAIL_LOSS_RESET (R481). -/
def execRailLossReset (s : State) : Host.Outcome State Fault Refusal :=
  .next (railLossReset s)

/-- Meaning of FIRMWARE_RESET (R483). -/
def execFirmwareReset (s : State) : Host.Outcome State Fault Refusal :=
  .next (firmwareReset s)

/-- Meaning of RINGMASTER_RESTART (R481). -/
def execRingmasterRestart (s : State) : Host.Outcome State Fault Refusal :=
  .next (ringmasterRestart s)

/-- Meaning of XTAL_FAIL (R29). -/
def execXtalFail (n : BitVec 32) (s : State) : Host.Outcome State Fault Refusal :=
  .next (xtalFail n s)

/-- Meaning of XTAL_RECOVER (R29). -/
def execXtalRecover (s : State) : Host.Outcome State Fault Refusal :=
  .next (xtalRecover s)

/-- Meaning of SHORT_TIMER_END (R206). -/
def execShortTimerEnd (s : State) : Host.Outcome State Fault Refusal :=
  .next (shortTimerEnd s)

/-- Meaning of SHORT_QUIET_END (R217). -/
def execShortQuietEnd (s : State) : Host.Outcome State Fault Refusal :=
  .next (shortQuietEnd s)

/-- Meaning of STAGE2 (R422). -/
def execStage2 (s : State) : Host.Outcome State Fault Refusal :=
  .next (stage2 s)

/-- Meaning of SPIN_PERMISSION (R488). -/
def execSpinPermission (s : State) : Host.Outcome State Fault Refusal :=
  .next (spinPermission s)

/-- Meaning of SPIN_HOLD_N_CHANGE (R488). -/
def execSpinHoldNChange (level : Bool) (s : State) : Host.Outcome State Fault Refusal :=
  .next (spinHoldChange level s)

/-- Meaning of SPIN_BACKOFF_END (R489). -/
def execSpinBackoffEnd (s : State) : Host.Outcome State Fault Refusal :=
  .next (spinBackoffEnd s)

/-- Meaning of SPIN_DELAY_END (R388). -/
def execSpinDelayEnd (s : State) : Host.Outcome State Fault Refusal :=
  .next (spinDelayEnd s)

/-- Meaning of SAG_WAIT_END (R490). -/
def execSagWaitEnd (s : State) : Host.Outcome State Fault Refusal :=
  .next (sagWaitEnd s)

/-- Meaning of IO_READY (R491). -/
def execIoReady (sysBad : List Act) (keyBad journalBad : List (BitVec 32)) (trialOk : Bool) (s : State) : Host.Outcome State Fault Refusal :=
  .next (ioReady sysBad keyBad journalBad trialOk s)

/-- Meaning of START_LATE (R492). -/
def execStartLate (s : State) : Host.Outcome State Fault Refusal :=
  .next (startLate s)

/-- Meaning of PWR_EN_STEP (R431). -/
def execPwrEnStep (s : State) : Host.Outcome State Fault Refusal :=
  .next (pwrEnStep s)

end Sys2Proof.Machine
end

