-- ==== Sys2Proof/Machine/Power.lean ====
section
/-!
DEFINITION. Power states and thermal control (chapter "Power states, latency budget and Parasol thermal control", R428 to R447).
-/

namespace Sys2Proof.Machine

/-! ## Counters and wakes (R429, R430) -/

/-- OPSEC_TICK. -/
def opsecTick (s : State) : State :=
  if !s.on V.vin5ok then s
  else
    let n := Nat.min 4294967295 (s.opsec + 1)
    let t := s.put R.CVN_OPSEC_SECONDS n
    t.when (decide (n = 4294967295) && !t.on R.CVN_STAT_OPSEC_SAT) fun u =>
      (u.put R.CVN_STAT_OPSEC_SAT 1).post 0x16 0x14 error noInst [0]

/-- A wake source in PS5, or during the entry to it, which completes first (R320, R430, R444). -/
def State.wakeBy (s : State) (cause : Nat) : State :=
  if s.get R.CVN_STAT_PS = 5 ∧ !s.on V.cvnWaking ∧ !s.on V.pslOff then s.wakeFrom5 cause
  else if s.get R.CVN_STAT_PS_TGT = 5 ∧ s.on V.psStep ∧ !s.on V.wakePend then s.put V.wakePend cause
  else s

/-- SIGNAL_DETECT_WAKE. -/
def signalDetectWake (s : State) : State := s.wakeBy 1
/-- SS_CS_WAKE. -/
def ssCsWake (s : State) : State := s.wakeBy 2
/-- SIDEBAND_WAKE. -/
def sidebandWake (s : State) : State := s.wakeBy 3

/-! ## Idle (R434 to R436) -/

/-- The device has been idle for `IDLE_MS`: demand ends, a raised budget is presented, the target state follows. -/
def State.idled (s : State) : State :=
  if !s.idle then s
  else
    let t := if s.on V.wakeHold then s else s.put R.CVN_STAT_DEMAND 0
    let e := t.get R.CVN_BUD_EFF_EFF_US
    (t.present (if t.on R.CVN_STAT_DEMAND then Nat.min e (t.get R.CVN_DEMAND_DEMAND_US) else e)).follow

/-- IDLE_TIMER. -/
def idleTimer (s : State) : State := s.idled

/-- WAKE_HOLD_EXPIRY; `long`: the device has been idle for `IDLE_MS` then. -/
def wakeHoldExpiry (long : Bool) (s : State) : State := (s.put V.wakeHold 0).when long State.idled

/-- The step of an entry after step `n` that its target needs, none at the end (R436). -/
def psNext (tgt n : Nat) : Option Nat :=
  ([(1, 5), (2, 2), (3, 2), (4, 4)].find? fun (p : Nat × Nat) => decide (n < p.1 ∧ p.2 ≤ tgt)).map (·.1)

/-- What begins with a step of an entry. -/
def State.psBegin (s : State) (tgt n : Nat) : State :=
  let t := s.put V.psStep n
  if n = 1 then t.forAll t.dirtyActs fun a u => u.beginPoint a
  else if n = 2 then { t with mops := t.mops.map fun (o : MOp) => { o with paused := true } }
  else if n = 3 then t.unloadAll
  else if tgt = 4 then t.cleanAll.puts [(R.HBM_STAT_SREF 0, 1), (R.HBM_STAT_SREF 1, 1)]
  else
    let u := { t.cleanAll with pkt := [] }.showPkt
    (u.dropHbm.put R.PKT_CTL_EN 0).listen.puts [(V.fwUp, 0), (V.pwrSeq, 2)]

/-- A step of an entry has ended: the durable point stands, every actuator is unloaded and, where the target needs it, the
spindle is stopped; the end of step 4 to PS5 is the last enable's. -/
def State.psEnded (s : State) (tgt n : Nat) : Bool :=
  if n = 1 then tgt < 5 || (List.range 4).all (fun a => (s.pointsOf a).isEmpty)
  else if n = 3 then s.allUnloaded && (tgt < 4 || s.atRest)
  else n ≠ 4 || tgt = 4

/-- PS_ENTRY_STEP: the step in progress ends and the next one begins; after the last the target is reported. `follow` starts
an entry at step 1 with nothing begun. -/
def psEntryStep (s : State) : State :=
  let tgt := s.get R.CVN_STAT_PS_TGT
  let n := s.get V.psStep
  if n = 0 ∨ s.on V.pslOff then s
  else if n = 1 ∧ tgt = 5 ∧ s.dirtyActs ≠ [] ∧ (List.range 4).all (fun a => (s.pointsOf a).isEmpty) then s.psBegin 5 1
  else if !s.psEnded tgt n then s
  else match psNext tgt n with
    | some k => s.psBegin tgt k
    | none => (s.put V.psStep 0).setPs tgt |>.checkMiss

/-! ## Sensors (R438 to R441) -/

/-- Die of a sensor: 0 controller, 1 Strongman, 2 HBM, 3 flash. -/
def dieOf (i : Nat) : Nat := [0, 1, 3, 2, 2].getD i 0
/-- Sensors of a die. -/
def sensorsOf (d : Nat) : List Nat := (List.range 5).filter fun i => decide (dieOf i = d)

/-- Thresholds of a sensor in 0.1 °C: warning, its release, throttle, its release, shutdown, its release; the flash die has no
shutdown. -/
def thrOf (i : Nat) : Int × Int × Int × Int × Option (Int × Int) :=
  match i with
  | 0 => (1000, 960, 1080, 1040, some (1180, 1000))
  | 1 => (1250, 1200, 1350, 1300, some (1500, 1250))
  | 2 => (950, 910, 1000, 960, none)
  | _ => (900, 860, 950, 910, some (1050, 900))

/-- Neighbours of a sensor (R441). -/
def neighbours (i : Nat) : List Nat :=
  match i with
  | 0 => [1, 2, 3, 4] | 1 => [0] | 2 => [0] | 3 => [0, 4] | _ => [0, 3]

/-- HBM is switched off: sensors 3 and 4 are not sampled. -/
def State.hbmOff (s : State) : Bool := !bitOf (s.get R.CVN_STAT_PWR_EN) 5

/-- The expected offset of sensor i above neighbour j in the power state held, 0.1 °C. -/
def State.offs (s : State) (j i : Nat) : Int :=
  5 * toSigned 16 (Tab.at 0 s.senseOffs ((j * 8 + i) * 8 + s.get R.CVN_STAT_PS))

/-- The temperature of a sensor as measured, or as modelled while HBM is off. -/
def State.tj (s : State) (i : Nat) : Int :=
  if 3 ≤ i ∧ s.hbmOff then s.getI (R.PSL_TEMP_RAW 0) + s.offs 0 i else s.getI (R.PSL_TEMP_RAW i)

/-- Predictions for a sensor, each with the neighbour it comes from. -/
def State.predictions (s : State) (i : Nat) : List (Nat × Int) := (neighbours i).map fun j => (j, s.tj j + s.offs j i)

/-- Sorted insertion. -/
def insI (x : Int) : List Int → List Int
  | [] => [x]
  | y :: l => if x ≤ y then x :: y :: l else y :: insI x l

/-- Twice the median; of two values, or of four, twice the mean of the middle two. -/
def median2 (l : List Int) : Int :=
  let m := l.foldr insI []
  m.getD ((m.length - 1) / 2) 0 + m.getD (m.length / 2) 0

/-- Suspect mark of a sensor. -/
def State.suspect (s : State) (i : Nat) : Bool := bitOf (s.get R.PSL_STAT_SUSPECT) i

/-- The value used of a sensor (R441). -/
def State.usedNow (s : State) (i : Nat) : Int :=
  if s.suspect i then
    match ((s.predictions i).filter fun p => !s.suspect p.1).map (·.2) with
    | [] => (thrOf i).2.2.1
    | x :: l => l.foldl max x + 60
  else s.tj i

/-- The cross-check of a sample. -/
def State.crossCheck (s : State) (i : Nat) : State :=
  if !s.on R.PSL_CTL_XCHK_EN ∨ s.suspect i ∨ (3 ≤ i ∧ s.hbmOff) then s
  else
    let ps := s.predictions i
    let far := decide (160 < (2 * s.tj i - median2 (ps.map (·.2))).natAbs)
    let n := if far then s.get (V.pslDis i) + 1 else 0
    if n < 3 then s.put (V.pslDis i) n
    else
      ((((s.put (V.pslDis i) 0).setBit R.PSL_STAT_SUSPECT i true).evt R.PSL_EVT_SUSPECT).count R.PSL_CNT_SUSPECT).post 0x17 0x14 warning
        noInst ([i, s.get (R.PSL_TEMP_RAW i)] ++ ps.map fun p => ofSigned 16 p.2)

/-- The level of a sensor: 0 normal, 1 warning, 2 throttle, 3 shutdown. -/
def State.level (s : State) (i : Nat) : Nat := s.get R.PSL_STAT_LEVEL / 4 ^ i % 4

/-- The level a used value gives from the level held. -/
def nextLevel (i old : Nat) (u : Int) : Nat :=
  let t := thrOf i
  let off := match t.2.2.2.2 with
    | some x => decide (x.1 ≤ u) || (decide (old = 3) && decide (x.2 ≤ u))
    | none => false
  if off then 3
  else if t.2.2.1 ≤ u ∨ (2 ≤ old ∧ t.2.2.2.1 < u) then 2
  else if t.1 ≤ u ∨ (1 ≤ old ∧ t.2.1 < u) then 1
  else 0

/-- A die is at its throttle level. -/
def State.dieHot (s : State) (d : Nat) : Bool := (sensorsOf d).any fun i => decide (2 ≤ s.level i)

/-- Highest value used on a die. -/
def State.dieUsed (s : State) (d : Nat) : Int := ((sensorsOf d).map s.tempUsed).foldl max (-32768)

/-! ## Throttling (R442) -/

/-- Step field of a die's ladder. -/
def stepFld (d : Nat) : Fld :=
  if d = 0 then R.PSL_STAT_STEP_CTL else if d = 1 then R.PSL_STAT_STEP_STM else if d = 2 then R.PSL_STAT_STEP_HBM else R.PSL_STAT_FDEFER
/-- Last step of a die's ladder. -/
def stepMax (d : Nat) : Nat := [10, 4, 2, 1].getD d 0

/-- Source 0x1C3 fires, and the event is counted. -/
def State.throtEvent (s : State) : State := (s.edge 0x1C3).count R.PSL_CNT_THROT

/-- The actions of a die's step come into force. -/
def State.throtAct (s : State) (d : Nat) : State :=
  let k := s.get (stepFld d)
  if d = 0 then ((s.rateCheck true).showTherm).when (decide (k < 9)) fun t => t.put V.fabPause 0
  else if d = 1 then
    if k = 0 then s.puts [(R.PSL_EXT_SPN_LIM, 0xFFFF), (R.PSL_EXT_VCM_LIM, 0xFFFF)]
    else s.puts [(R.PSL_EXT_SPN_LIM, 10 * s.spnLe 0x14 2 * (8 - k) / 8), (R.PSL_EXT_VCM_LIM, 18000 * (8 - k) / 8)]
  else if d = 2 then s.rateCheck true
  else s.setHold (if k = 0 then 0 else 15)

/-- Throttling of a die ends when the die has left its level and its ladder stands at 0. -/
def State.throtEnd (s : State) (d : Nat) : State :=
  if s.on (V.pslThrOn d) && !s.dieHot d && decide (s.get (stepFld d) = 0) then
    ((s.put (V.pslThrOn d) 0).throtEvent).post 0x17 0x12 info noInst [d, s.opsec - s.get (V.pslThr d)]
  else s

/-- THROTTLE_STEP_UP. -/
def throttleStepUp (die : Fin 4) (s : State) : State :=
  let k := s.get (stepFld die)
  if !s.dieHot die ∨ stepMax die ≤ k then s
  else
    let t := (s.put (stepFld die) (k + 1)).throtAct die
    (t.throtEvent.evt R.PSL_EVT_THROTTLE).post 0x17 0x11 warning noInst [die, k + 1, ofSigned 16 (s.dieUsed die)]

/-- THROTTLE_STEP_DOWN; a step up that is due with it wins (R444). -/
def throttleStepDown (die : Fin 4) (s : State) : State :=
  let k := s.get (stepFld die)
  if s.dieHot die ∨ k = 0 then s else ((s.put (stepFld die) (k - 1)).throtAct die).throtEnd die

/-- THROTTLE_ALTERNATE: the other set of actuators is held. -/
def throttleAlternate (s : State) : State :=
  if s.get R.PSL_STAT_STEP_CTL = 10 then (s.put V.thSet (1 - s.get V.thSet)).showTherm else s

/-- FABRIC_PAUSE_WINDOW: a window of 500 µs begins or ends. -/
def fabricPauseWindow (s : State) : State :=
  if 9 ≤ s.get R.PSL_STAT_STEP_CTL then s.put V.fabPause (1 - s.get V.fabPause) else s.put V.fabPause 0

/-! ## Samples and shutdown (R439, R440) -/

/-- A temperature has crossed a threshold a controller set: its notice is due where its configuration asks for it (R286). -/
def State.tempNotices (s t : State) (i : Nat) : State :=
  let past (u : State) (e : Nat × Nat) : Bool :=
    let v := if e.1 % 16 = 0 then u.tempComposite else u.tempUsed (e.1 % 16 - 1)
    if e.1 < 16 then decide (10 * ((e.2 : Int) - 273) ≤ v) else decide (v ≤ 10 * ((e.2 : Int) - 273))
  t.forAll t.ctrls fun x u =>
    match x.2 with
    | some c =>
      if bitOf c.aen 1 && c.temps.any fun e => (decide (e.1 % 16 = 0) || decide (e.1 % 16 = i + 1)) && past t e && !past s e then
        u.notice x.1 aenTemp
      else u
    | none => u

/-- Thermal shutdown: stop wire, coast, and the supplies lowered once every actuator is parked; it wins over an entry or a
wake (R439, R444). -/
def State.thermalOff (s : State) (i : Nat) : State :=
  let t := ((s.puts [(V.pslOff, 1), (V.pslOffSec, s.opsec), (V.pslSensor, i), (V.psStep, 0), (V.wakePend, 0)]).evt
    R.PSL_EVT_SHUTDOWN).count R.PSL_CNT_SHUT
  (t.post 0x17 0x13 error noInst [i, s.get (R.PSL_TEMP_USED i), s.get R.CVN_STAT_PS]).stopAssert 4

/-- SENSOR_SAMPLE. -/
def sensorSample (i : Fin 5) (raw : BitVec 16) (s : State) : State :=
  let t := if 3 ≤ i.val ∧ s.hbmOff then s else s.put (R.PSL_TEMP_RAW i) raw.toNat
  let t := t.crossCheck i
  let u := t.usedNow i
  let t := t.putI (R.PSL_TEMP_USED i) u
  let old := s.level i
  let new := nextLevel i old u
  let d := dieOf i
  let t := t.put R.PSL_STAT_LEVEL (t.get R.PSL_STAT_LEVEL - old * 4 ^ i.val + new * 4 ^ i.val)
  let t := t.putB (V.pslAtThrot d) (t.dieHot d)
  let w := ofSigned 16 u
  let t := t.when (decide (old < 1 ∧ 1 ≤ new)) fun v => ((v.evt R.PSL_EVT_WARN).edge 0x1C2).post 0x17 0x10 warning noInst [i, w]
  let t := t.when (decide (new < old)) fun v => v.evt R.PSL_EVT_RELEASE
  let t := t.when (t.dieHot d && !t.on (V.pslThrOn d)) fun v =>
    ((v.puts [(V.pslThrOn d, 1), (V.pslThr d, v.opsec)]).throtEvent.evt R.PSL_EVT_THROTTLE).post 0x17 0x11 warning noInst [d, v.get (stepFld d), w]
  let t := t.throtEnd d
  let t := t.when (decide (d = 1) && t.dieHot 1) fun v => v.checkGrant
  let t := State.tempNotices s t i
  t.when (decide (new = 3) && !t.on V.pslOff) fun v => v.thermalOff i

/-- THERMAL_RESTART: 60 s after the supplies went off, with every die below its release. -/
def thermalRestart (s : State) : State :=
  if !s.on V.pslOff ∨ s.on R.CVN_STAT_PWR_EN ∨ (List.range 5).any (fun i => decide (s.level i = 3)) then s
  else
    ((s.puts [(V.pslOff, 0), (R.CVN_STAT_WAKE_CAUSE, 4)]).post 0x17 0x15 info noInst
      [s.get V.pslSensor, s.opsec - s.get V.pslOffSec]).restart2 6

/-- Clears suspect marks; the cross-check resumes with the next sample (R378). -/
def State.clearSuspect (s : State) (mask : Nat) : State :=
  s.forAll ((List.range 5).filter (bitOf mask)) fun i t => (t.setBit R.PSL_STAT_SUSPECT i false).put (V.pslDis i) 0

/-! ## Commands -/

/-- Meaning of SIGNAL_DETECT_WAKE (R318). -/
def execSignalDetectWake (s : State) : Host.Outcome State Fault Refusal :=
  .next (signalDetectWake s)

/-- Meaning of OPSEC_TICK (R429). -/
def execOpsecTick (s : State) : Host.Outcome State Fault Refusal :=
  .next (opsecTick s)

/-- Meaning of IDLE_TIMER (R434). -/
def execIdleTimer (s : State) : Host.Outcome State Fault Refusal :=
  .next (idleTimer s)

/-- Meaning of WAKE_HOLD_EXPIRY (R434). -/
def execWakeHoldExpiry (long : Bool) (s : State) : Host.Outcome State Fault Refusal :=
  .next (wakeHoldExpiry long s)

/-- Meaning of PS_ENTRY_STEP (R436). -/
def execPsEntryStep (s : State) : Host.Outcome State Fault Refusal :=
  .next (psEntryStep s)

/-- Meaning of SS_CS_WAKE (R430). -/
def execSsCsWake (s : State) : Host.Outcome State Fault Refusal :=
  .next (ssCsWake s)

/-- Meaning of SIDEBAND_WAKE (R430). -/
def execSidebandWake (s : State) : Host.Outcome State Fault Refusal :=
  .next (sidebandWake s)

/-- Meaning of SENSOR_SAMPLE (R440). -/
def execSensorSample (sensor : Fin 5) (raw : BitVec 16) (s : State) : Host.Outcome State Fault Refusal :=
  .next (sensorSample sensor raw s)

/-- Meaning of THERMAL_RESTART (R439). -/
def execThermalRestart (s : State) : Host.Outcome State Fault Refusal :=
  .next (thermalRestart s)

/-- Meaning of THROTTLE_STEP_UP (R442). -/
def execThrottleStepUp (die : Fin 4) (s : State) : Host.Outcome State Fault Refusal :=
  .next (throttleStepUp die s)

/-- Meaning of THROTTLE_STEP_DOWN (R442). -/
def execThrottleStepDown (die : Fin 4) (s : State) : Host.Outcome State Fault Refusal :=
  .next (throttleStepDown die s)

/-- Meaning of THROTTLE_ALTERNATE (R442). -/
def execThrottleAlternate (s : State) : Host.Outcome State Fault Refusal :=
  .next (throttleAlternate s)

/-- Meaning of FABRIC_PAUSE_WINDOW (R442). -/
def execFabricPauseWindow (s : State) : Host.Outcome State Fault Refusal :=
  .next (fabricPauseWindow s)

end Sys2Proof.Machine
end

