-- ==== Sys2Proof/Machine/Registers.lean ====
section
/-!
DEFINITION. Registers by address (R14 to R18, R383 to R385), the checked enables (R380 to R382) and the requests that act on
them: `ENABLE`, diagnostic access, shadow writes.
-/

namespace Sys2Proof.Machine

/-! ## Addresses -/

/-- Instances that a block's target selectors name (R385). -/
def selCount (blk : Nat) : Nat :=
  if blk = 0x0C ∨ blk = 0x0D ∨ blk = 0x0E ∨ blk = 0x12 then 4 else if blk = 0x13 then 40 else if blk = 0x09 then 2 else 1

/-- The blocks of R15; every other id is reserved (R16). -/
def blkKnown (blk : Nat) : Bool := decide (1 ≤ blk ∧ blk ≤ 0x1A)

/-- Windows of a block that hold tables: offset and size. -/
def windows (blk : Nat) : List (Nat × Nat) :=
  match blk with
  | 0x02 => [(0x1000, 0x200)]
  | 0x0C => [(0x4000, 0xA000), (0xE000, 0x2000)]
  | 0x0F => [(0x1000, 0x800), (0x1800, 0x100), (0x4000, 0x1000), (0x5000, 0x800), (0x8000, 0x8000)]
  | 0x10 => [(0x100, 0xC0)]
  | 0x12 => [(0x1000, 0x280), (0x2000, 0x5000)]
  | 0x13 => [(0x1000, 0x20), (0x1100, 0x200)]
  | 0x18 => [(0x1000, 0x20)]
  | _ => []

/-- An offset lies in a window of its block. -/
def inWindow (blk off : Nat) : Bool := (windows blk).any fun w => decide (w.1 ≤ off ∧ off < w.1 + w.2)

/-- A row of a register table covers an offset. -/
def RegRow.covers (r : RegRow) (off : Nat) : Bool :=
  decide (r.off ≤ off ∧ (off = r.off ∨ (r.stride ≠ 0 ∧ (off - r.off) % r.stride = 0 ∧ (off - r.off) / r.stride < r.cnt)))

/-- The manual documents a word at an offset of a block (R7). -/
def offKnown (blk off : Nat) : Bool :=
  decide (off % 4 = 0) && (inWindow blk off || (regRows blk).any fun r => r.covers off)

/-- Tightrope's registers are the same whichever head is named (R120). -/
def regInst (blk inst : Nat) : Nat := if blk = 0x13 then 0 else inst

/-- An instance held in reset (R26). -/
def State.heldInst (s : State) (blk inst : Nat) : Bool :=
  decide ((blk = 0x0C ∨ blk = 0x0D ∨ blk = 0x0E ∨ blk = 0x12) ∧ s.nact ≤ inst)

/-- An actuator number. -/
def actFin (i : Nat) : Act := ⟨i % 4, Nat.mod_lt i (by decide)⟩

/-! ## Reading -/

/-- A word as a unicast diagnostic read returns it (R17, R383). -/
def State.regRead (s : State) (blk inst off : Nat) : Nat :=
  if blk = 0x04 ∧ 0x1000 ≤ off ∧ off < 0x1800 then s.srcEntry ((off - 0x1000) / 4)
  else if blk = 0x05 ∧ off = 0x08 then
    s.word 5 0 8 - 32 * s.get R.RMC_STAT_PERM + 32 * s.permNow
  else if blk = 0x0D ∧ 0x84 ≤ off ∧ off ≤ 0x94 then
    let w := s.bword inst (s.get (R.SEQ_CS_ADDR_ADDR inst))
    [w.q0.toNat, w.q1.toNat, w.q2.toNat, w.q3.toNat, w.par.toNat].getD ((off - 0x84) / 4) 0
  else if blk = 0x0F ∧ 0x84 ≤ off ∧ off ≤ 0x98 then
    let w := s.tword (s.get R.TRZ_CS_ADDR_ADDR)
    [w.s0.toNat, w.s1.toNat, w.s2.toNat, w.s3.toNat, w.s4.toNat, w.par.toNat].getD ((off - 0x84) / 4) 0
  else if blk = 0x15 ∧ off = 0x08 then s.get R.SNT_STAT_STAGE + 65536 * s.sntRemain
  else if blk = 0x0C ∧ 0xE000 ≤ off then
    (if s.on (R.CHN_REPLAY_HOLD inst) then
      leNat ((List.range 4).map fun i => (Config.replaySample inst (s.get (V.replayGen inst)) (s.get (R.CHN_REPLAY_PAGE_PAGE inst))
        (off - 0xE000 + i)).signExtend 8)
     else 0)
  else if inWindow blk off then s.le blk inst off 4
  else s.word blk (regInst blk inst) off

/-! ## The checked enables (R380 to R382, R389) -/

/-- What a write or an enable comes to: done, stopped with a status and a reason, or waiting for an action. -/
inductive WRes where
  | ok
  | stop (st reason : Nat)
  | wait
deriving DecidableEq, Repr

/-- Checked enable bits in the order of R380: block, selector, instances. -/
def checkedEnables : List (Nat × Nat × Nat) :=
  [(0x01, 0, 1), (0x02, 0, 1), (0x05, 0, 4), (0x06, 0, 1), (0x07, 0, 1), (0x0A, 0, 1), (0x0B, 0, 1), (0x0B, 1, 1), (0x0C, 0, 4),
   (0x0D, 0, 4), (0x0E, 0, 4), (0x12, 0, 4), (0x0F, 0, 1), (0x10, 0, 1), (0x11, 0, 1), (0x13, 0, 1), (0x15, 0, 1)]

/-- The field of an enable bit, the actuator's apart. -/
def enFld (blk sel i : Nat) : Fld := ⟨blk, if selCount blk = 4 then i else 0, 0, sel, 1, 0⟩

/-- The actuator's bit reads 1 only while all five are 1 (R382). -/
def State.actEnabled (s : State) (a : Nat) : Bool :=
  s.on (R.SPT_CTL_EN a) && s.on R.TFH_CTL_EN && s.on (R.SRV_CTL_EN a) && s.on (R.SEQ_CTL_EN a) && s.on (R.CHN_CTL_EN a)

/-- An enable bit as it reads. -/
def State.enOn (s : State) (blk sel i : Nat) : Bool := if blk = 0x05 then s.actEnabled i else s.on (enFld blk sel i)

/-- The reason latched for an actuator (R496). -/
def achk (a : Nat) : Fld :=
  match a with
  | 0 => R.RMC_ACHK_LO_ACT0
  | 1 => R.RMC_ACHK_LO_ACT1
  | 2 => R.RMC_ACHK_HI_ACT2
  | _ => R.RMC_ACHK_HI_ACT3

/-- The reason latched for an instance (R382, R496). -/
def State.chkOf (s : State) (blk i : Nat) : Nat :=
  if blk = 0x05 then s.get (achk i) else s.get ⟨blk, if selCount blk = 4 then i else 0, 4, 0, 16, 0⟩

/-- An enable's reason as a result. -/
def enRes (x : State × Nat) : State × WRes := (x.1, if x.2 = 0 then .ok else .stop 0x4000 x.2)

/-- The actuator enable stops with a reason, which is latched (R382). -/
def State.actRefuse (s : State) (a reason : Nat) : State × WRes := (s.put (achk a) reason, .stop 0x4000 reason)

/-- A mate declaration of the build record breaks R27. -/
def State.matesBad (s : State) : Bool :=
  (List.range 4).any fun a =>
    let m := s.mateByte a
    decide (4 ≤ m ∧ m ≠ 0xFF) || (decide (m < 4) && decide (m = a ∨ m / 2 ≠ a / 2 ∨ s.mateByte m ≠ a))

/-- The actuator enable from its second step on (R382). -/
def State.actEn2 (s : State) (w : World) (a : Nat) : State × WRes :=
  if !s.on (R.SPT_CTL_EN a) then s.actRefuse a (s.get (R.SPT_CHK_REASON a))
  else
    let hs := s.headsOf a
    let t := if s.on R.TFH_CTL_EN then
        (match (s.tfhBad hs).find? (·.1) with
         | some c => (s.put R.TFH_CHK_REASON c.2, c.2)
         | none => (s.tfhPass hs, 0))
      else s.tfhEnable
    if t.2 ≠ 0 then t.1.actRefuse a t.2
    else
      let v := t.1.srvEnable a
      if v.2 ≠ 0 then v.1.actRefuse a v.2
      else
        let q := v.1.seqEnable a (w.seqCrc.getLsbD a)
        if q.2 ≠ 0 then q.1.actRefuse a q.2
        else
          let c := q.1.chnEnable a
          if c.2 ≠ 0 then c.1.actRefuse a c.2 else (c.1, .ok)

/-- The actuator enable: its own reasons, then Spotlight, whose enumeration the rest waits for (R382, R389). -/
def State.actEn (s : State) (w : World) (a : Nat) : State × WRes :=
  if s.actEnabled a then (s, .ok)
  else if !inR 1 4 s.nact || !inR 1 10 s.nhpa || !inR 480 720 (s.optLe 0x1000 2) then s.actRefuse a 0x0501
  else if s.matesBad then s.actRefuse a 0x0502
  else if s.nact ≤ a then s.actRefuse a 0x0503
  else
    let r := s.sptEnable a
    if r.2 ≠ 0 then r.1.actRefuse a r.2
    else if r.1.on (V.sptEnumBusy a) then (r.1, .wait)
    else r.1.actEn2 w a

/-- Clearing `SPT_CTL.EN`. -/
def State.sptDisable (s : State) (a : Nat) : State :=
  s.puts [(R.SPT_CTL_EN a, 0), (R.SPT_STAT_ENUM_DONE a, 0), (V.sptEnumBusy a, 0)]

/-- Clearing `TFH_CTL.EN`: no heater is driven. -/
def State.tfhDisable (s : State) : State :=
  (s.put R.TFH_CTL_EN 0).forAll (List.range 40) fun h t => t.put (V.tfhPassed h) 0

/-- The four bits of an actuator are cleared in reverse order; Tightrope stays enabled while another actuator is (R382). -/
def State.actClear (s : State) (a : Nat) : State :=
  let t := (((s.put (R.CHN_CTL_EN a) 0).seqDisable a).srvDisable a).sptDisable a
  if (List.range 4).any fun b => decide (b ≠ a) && t.actEnabled b then t else t.tfhDisable

/-- Clearing the actuator enable: an unload request, and the bits once the heads are on the ramp (R152, R382). -/
def State.actDis (s : State) (w : World) (a : Nat) : State × WRes :=
  let t := s.unloadRequest a (w.soon.getLsbD a)
  if t.srvSt a ≤ srvUNLOADED then (t.actClear a, .ok) else (t, .wait)

/-- Sets an enable bit of an instance (R382). -/
def State.enSet (s : State) (w : World) (blk sel i : Nat) : State × WRes :=
  match blk with
  | 0x01 => enRes (s.fabEnable w.refB)
  | 0x02 => enRes s.cmdEnable
  | 0x05 => s.actEn w i
  | 0x06 => enRes (s.truEnable w.defaultsOk)
  | 0x07 => enRes s.pwkAct
  | 0x0A => enRes s.pktEnable
  | 0x0B => enRes (if sel = 0 then s.mmgEnable else s.fmtCommit)
  | 0x0C => enRes (s.chnEnable i)
  | 0x0D => enRes (s.seqEnable i (w.seqCrc.getLsbD i))
  | 0x0E => enRes (s.srvEnable i)
  | 0x0F => enRes (s.trzEnable w.trzCrc)
  | 0x10 => enRes (s.crlEnable w.resOk)
  | 0x11 => enRes (s.stmEnable w.pulse)
  | 0x12 =>
    let r := s.sptEnable i
    if r.2 = 0 ∧ !s.on (R.SPT_CTL_EN i) ∧ r.1.on (V.sptEnumBusy i) then (r.1, .wait) else enRes r
  | 0x13 => enRes s.tfhEnable
  | 0x15 => enRes s.sntEnable
  | _ => (s, .stop 0x0009 0)

/-- Clears an enable bit of an instance; a write of 0 is never checked (R276, R339, R382, R422). -/
def State.enClear (s : State) (w : World) (blk sel i : Nat) : State × WRes :=
  match blk with
  | 0x01 => (s.fabDisable, .ok)
  | 0x05 => s.actDis w i
  | 0x07 =>
    let r := s.pwkClear
    (r.1, if r.2 then .ok else .stop 0x000A 0)
  | 0x0A => (s.pktDisable, .ok)
  | 0x0B =>
    if sel = 0 then (s.mmgDisable, .ok)
    else
      let r := s.fmtUncommit
      (r.1, if r.2 = 0 then .ok else .stop r.2 0)
  | 0x0D => (s.seqDisable i, .ok)
  | 0x0E => (s.srvDisable i, .ok)
  | 0x0F => (s.trzDisable, .ok)
  | 0x10 => (s.crlDisable, .ok)
  | 0x11 => (s.stmDisable, .ok)
  | 0x12 => (s.sptDisable i, .ok)
  | 0x13 => (s.tfhDisable, .ok)
  | 0x15 => (s, .ok)
  | _ => (s.put (enFld blk sel i) 0, .ok)

/-- Writes an enable bit: a value it already has changes nothing (R382). -/
def State.enWrite (s : State) (w : World) (blk sel i : Nat) (v : Bool) : State × WRes :=
  if v then (if s.enOn blk sel i then (s, .ok) else s.enSet w blk sel i)
  else if s.enOn blk sel i || decide (blk = 0x05) then s.enClear w blk sel i else (s, .ok)

/-- The action an enable waits for has ended. -/
def State.enReady (s : State) (blk i : Nat) (v : Bool) : Bool :=
  if v then !s.on (V.sptEnumBusy i) else !decide (blk = 0x05) || decide (s.srvSt i ≤ srvUNLOADED)

/-- What follows that action: a refusal found by enumeration, or the rest of the actuator enable (R382). -/
def State.enResume (s : State) (w : World) (blk i : Nat) (v : Bool) : State × WRes :=
  if blk = 0x05 then (if v then s.actEn2 w i else (s.actClear i, .ok))
  else if v && !s.on (R.SPT_CTL_EN i) then (s, .stop 0x4000 (s.get (R.SPT_CHK_REASON i)))
  else (s, .ok)

/-! ## Writing (R17, R18, R383) -/

/-- Nothing outside the block contributes to a write. -/
def noWorld : World := ⟨false, false, false, 0, false, 0, false, 0, []⟩

/-- A field takes its part of a written word under its access code (R17); an event bit that the hardware sets in the same cycle
(`hw`) remains set (R18). -/
def State.putField (s : State) (blk inst off v hw : Nat) (r : RegRow) : State :=
  let f : Fld := ⟨blk, inst, off, r.lo, r.w, r.rst⟩
  let x := v / 2 ^ r.lo % 2 ^ r.w
  match r.acc with
  | .rw => s.put f x
  | .w1c => s.put f ((s.get f - (s.get f &&& x)) ||| hw / 2 ^ r.lo % 2 ^ r.w)
  | .w1s => s.put f (s.get f ||| x)
  | _ => s

/-- The fields of a written word, those at the bits `skip` apart. -/
def State.putWord (s : State) (blk inst off v hw : Nat) (skip : List Nat) : State :=
  s.watch blk inst fun t =>
    t.forAll ((regRows blk).filter fun r => r.covers off && !skip.contains r.lo) fun r u => u.putField blk inst off v hw r

/-- The committed states, output and handover offset of a loop's parameter block, which are read-only (R175). -/
def committedWord (off : Nat) : Bool := decide (0x8000 ≤ off ∧ 384 ≤ off % 512 ∧ off % 512 < 488)

/-- A status as a result. -/
def stRes (x : State × Nat) : State × WRes := (x.1, if x.2 = 0 then .ok else .stop x.2 0)

/-- A unicast write of a word (R7, R17, R26, R383); `mb` is the sender's mailbox. -/
def State.regWrite (s : State) (mb : Nat) (w : World) (blk inst off v : Nat) : State × WRes :=
  let i := regInst blk inst
  let a := actFin i
  let hw := ((w.hw.headD []).getD inst 0).toNat
  let ctl (skip : List Nat) : State := s.putWord blk i off v hw (0 :: skip)
  let en (t : State) : State × WRes := t.enWrite w blk 0 i (bitOf v 0)
  if blk = 0x1A ∨ !offKnown blk off then (s, .stop 0x000B 0)
  else if s.heldInst blk inst then
    (if off = 0 ∧ bitOf v 0 then s.enSet w blk 0 inst else (s, .ok))
  else if isCounter blk off then
    ((if bitOf v 31 then s.counterClear ⟨blk, i, off, 0, 16, 0⟩ 0 else s), .ok)
  else if inWindow blk off then
    (if (blk = 0x0C ∧ 0xE000 ≤ off) ∨ (blk = 0x0F ∧ committedWord off = true) then (s, .ok)
     else if blk = 0x10 then (s.putWin blk inst off (leBytes 4 v), .ok)
     else (s.putTable blk inst off (leBytes 4 v), .ok))
  else match blk, off with
    | 0x01, 0 => en ((ctl [1]).setPortDis (v / 2 % 4))
    | 0x02, 0 => en ((ctl [1]).setFetchHold (bitOf v 1))
    | 0x02, 0x14 => ((if bitOf v 31 then hiwatClr s else s), .ok)
    | 0x09, 0 => ((ctl []).setRate (v % 4), .ok)
    | 0x09, 0x14 => if inR 1 168 (v % 256) then (s.putWord blk i off v hw [], .ok) else (s, .stop 0x0009 0)
    | 0x0A, 0x14 => ((if v % 4294967296 = 0 then s else s.put R.PKT_LFSR_LFSR v), .ok)
    | 0x0A, 0x28 => if bitOf v 31 then stRes (s.pktRange (v % 4)) else (s.put R.PKT_RNG_CMD_OP v, .ok)
    | 0x0B, 0 =>
      let rise := bitOf v 3 && !s.on R.MMG_CTL_ALT_EN
      let t := (ctl [1]).when rise State.altResume
      let fmt (u : State) : State × WRes := u.enWrite w 0x0B 1 0 (bitOf v 1)
      if bitOf v 1 then
        (match fmt t with
         | (u, .ok) => en u
         | x => x)
      else
        (match en t with
         | (u, .ok) => fmt u
         | x => x)
    | 0x0B, 0x14 => ((s.putWord blk i off v hw []).checkSpare, .ok)
    | 0x0C, 0 =>
      en ((ctl (if v / 4 % 4 = 3 && s.on (R.CHN_CTL_EN i) then [2] else [])).when (bitOf v 1) fun t => rdAbort a t)
    | 0x0C, 0x80 => (replayHold a (bitOf v 0) s, .ok)
    | 0x0E, 0x18 => stRes (s.ofsWrite i (v % 65536))
    | 0x10, 0 => en (spOvr (bitOf v 2) ⟨v / 8 % 4, Nat.mod_lt _ (by decide)⟩ (ctl [2, 3]))
    | 0x11, 0 => en ((ctl []).when (bitOf v 1) stmResume)
    | 0x11, 0x08 => (s.maClear (v / 2097152 % 16) (hw / 2097152), .ok)
    | 0x11, 0x20 =>
      let t := s.putWord blk i off v hw []
      if bitOf v 31 then stRes (t.measGo11 (v % 4) (v / 4 % 4)) else (t, .ok)
    | 0x12, 0 => en (wrInh a (bitOf v 1) (ctl [1]))
    | 0x12, 0x20 =>
      if bitOf v 31 then
        let r := s.measGo i (v / 16 % 8) (v % 16)
        if r.2 = 0 ∧ r.1.on (V.sptMeasWait i) then (r.1, .wait) else stRes r
      else (s.putWord blk i off v hw [], .ok)
    | 0x12, 0x30 =>
      (hdwpClear a (BitVec.ofNat 10 v) (BitVec.ofNat 10 hw) s, .ok)
    | 0x13, 0x08 =>
      let t := (s.putWord blk i off v hw []).when (bitOf v 30) touchdownAbort
      if bitOf v 31 then stRes (t.tdGo (v % 64)) else (t, .ok)
    | 0x14, 0 => ((ctl [1]).putB R.WDB_CTL_AUTO_SUSP (bitOf v 0) |>.setHold (v / 2 % 16), .ok)
    | 0x14, 0x14 => if inR 10 1000 (v % 1024) then (s.putWord blk i off v hw [], .ok) else (s, .stop 0x0009 0)
    | 0x15, 0x18 => (s.sntKick (v % 65536), .ok)
    | 0x18, 0 =>
      let t := s.putWord blk i off v hw []
      if bitOf v 31 then stRes (t.traceGo w.steady) else (t, .ok)
    | 0x19, 0x20 => if inR 1 60 (v % 64) then (s.putWord blk i off v hw [], .ok) else (s, .stop 0x0009 0)
    | 0x04, _ =>
      if off < 0x1000 then (s.putWord blk i off v hw [], .ok)
      else if off < 0x1800 then stRes (s.clpSrcWrite ((off - 0x1000) / 4) v (bitOf hw 18))
      else
        let n := (off - 0x4000) / 32
        let r := off % 32
        if r = 0x10 ∨ r = 0x14 then stRes (s.clpClaim mb n (decide (r = 0x14)) v)
        else if r = 0x18 ∨ r = 0x1C then stRes (s.clpDone mb n (decide (r = 0x1C)) v)
        else (s, .ok)
    | _, 0 =>
      if checkedEnables.any fun e => decide (e.1 = blk ∧ blk ≠ 0x05) then en (ctl []) else (s.putWord blk i off v hw [], .ok)
    | _, _ => (s.putWord blk i off v hw [], .ok)

/-- An entry that waits may go on: an enumeration or a measurement has begun or ended. -/
def State.wrReady (s : State) (blk inst off : Nat) : Bool :=
  if off = 0 then s.enReady blk inst true else !s.on (V.sptMeasWait inst)

/-- What the entry that waited comes to (R114, R382). -/
def State.wrResume (s : State) (w : World) (blk inst off : Nat) : State × WRes :=
  if off = 0 then s.enResume w blk inst true
  else if s.on (V.sptMeasRef inst) then (s, .stop 0x000A 0) else (s, .ok)

/-! ## Group and broadcast writes (R385) -/

/-- The actuator whose address mark commits a group write to an instance; none where it commits when the entry runs. -/
def State.commitAct (s : State) (blk inst : Nat) : Option Nat :=
  if blk = 0x0C ∨ blk = 0x0D ∨ blk = 0x0E ∨ blk = 0x12 then some inst
  else if blk = 0x13 then some (s.actOf inst)
  else none

/-- A servo state with no wedges. -/
def State.noWedge (s : State) (a : Nat) : Bool :=
  decide (s.srvSt a ≤ srvLOADING ∨ s.srvSt a = srvUNLOADING)

/-- Instances that a selector and a mask name. -/
def groupInsts (blk sel mask : Nat) : List Nat :=
  if sel = 0xFF then List.range (selCount blk)
  else if sel = 0xE0 then (List.range (selCount blk)).filter (bitOf mask)
  else [sel]

/-- Writes one instance of a group: at once, or into its shadow. -/
def State.shadowWrite (s : State) (no mb : Nat) (w : World) (blk inst off v : Nat) : State × WRes :=
  match s.commitAct blk inst with
  | none => s.regWrite mb w blk inst off v
  | some a =>
    if s.noWedge a then s.regWrite mb w blk inst off v
    else ({ s with shadow := s.shadow ++ [⟨no, mb, a, blk, inst, off, v⟩] }, .ok)

/-- Writes the instances of a group in order, to the first that stops. -/
def State.groupWrite (s : State) (no mb : Nat) (w : World) (blk off v : Nat) : List Nat → State × WRes
  | [] => (s, .ok)
  | i :: l =>
    match s.shadowWrite no mb w blk i off v with
    | (t, .stop st r) => (t, .stop st r)
    | (t, _) => t.groupWrite no mb w blk off v l

/-- Runs one entry of a diagnostic write (R383). -/
def State.runEntry (s : State) (no mb : Nat) (w : World) (e : Nat × Nat × Nat) : State × WRes :=
  let a := adrOf e.1
  if a.2.1 = 0xE0 ∨ a.2.1 = 0xFF then
    if a.1 = 0x1A ∨ !offKnown a.1 a.2.2 then (s, .stop 0x000B 0)
    else
      let is_ := groupInsts a.1 a.2.1 e.2.2
      s.groupWrite no mb w a.1 a.2.2 e.2.1 (if a.1 = 0x13 ∧ a.2.2 < 0x1000 then is_.take 1 else is_)
  else s.regWrite mb w a.1 a.2.1 a.2.2 e.2.1

/-- What validation finds wrong with an address and a mask; `wr` for a write of a value (R16, R383, R385). -/
def State.entryBad (s : State) (wr : Bool) (e : Nat × Nat × Nat) : Nat :=
  let a := adrOf e.1
  let n := selCount a.1
  let group := decide (a.2.1 = 0xE0 ∨ a.2.1 = 0xFF)
  if !blkKnown a.1 then 0x000B
  else if group ∧ !wr then 0x000C
  else if (a.2.1 = 0xE0 ∧ (n = 1 ∨ e.2.2 = 0 ∨ 2 ^ n ≤ e.2.2)) ∨ (!group ∧ n ≤ a.2.1) then 0x000D
  else if a.2.1 ≠ 0xE0 ∧ e.2.2 ≠ 0 then 0x0009
  else if group && decide (a.2.2 = 0) && checkedEnables.any fun c => decide (c.1 = a.1 ∧ a.1 ≠ 0x05) && bitOf e.2.1 c.2.1 &&
      (groupInsts a.1 a.2.1 e.2.2).any fun i => !s.enOn a.1 c.2.1 i then 0x000E
  else 0

/-! ## Requests that act on them -/

/-- A request of an opcode that has started, whose action has not begun. -/
def State.onReq (s : State) (rq : ReqId) (op : Nat) (f : Req → State → State) : State :=
  match s.reqs.find? fun r => decide (r.mb = rq.mb.val ∧ r.tag = rq.tag.toNat ∧ r.run = true ∧ r.done = false ∧ r.op = op) with
  | none => s
  | some r => if s.works.any fun k => decide (k.no = r.no) then s else f r s

/-- Keeps what is left of a request's action, or drops it. -/
def State.setWork (s : State) (k : Work) : State :=
  let l := s.works.filter fun (x : Work) => decide (x.no ≠ k.no)
  { s with works := if k.todo = [] then l else l ++ [k] }

/-- A response is formed; the request still waits for the shadows it left (R385). -/
def State.respondW (s : State) (no : Nat) (x : Rsp) : State :=
  let w := ((List.range 4).filter fun a => s.shadow.any fun h => decide (h.no = no ∧ h.act = a)).map fun a => (0, a)
  (s.respond no x).updReq no fun (r : Req) => { r with waits := w }

/-- The response of an `ENABLE` (R381). -/
def enAnswer (acc : List (Nat × Nat × Nat × Nat)) : Rsp :=
  let body := (List.range 4).flatMap fun i => match acc.find? fun e => decide (e.1 = i) with
    | some e => [BitVec.ofNat 8 e.2.1, 0] ++ leBytes 2 e.2.2.1
    | none => [0, 0, 0, 0]
  let reasons := (acc.map fun e => e.2.2.1).filter fun x => decide (x ≠ 0)
  match reasons with
  | [] => ((acc.find? fun e => decide (e.2.2.2 ≠ 0)).elim 0 fun e => e.2.2.2, 0, body)
  | x :: l => (0x4000, l.foldl Nat.min x, body)

/-- The result of one instance of an `ENABLE`: its `STATE`, reason and status. -/
def State.enResult (s : State) (blk sel i : Nat) (r : WRes) : Nat × Nat × Nat × Nat :=
  let now := if s.enOn blk sel i then 1 else 2
  match r with
  | .stop st reason => if st = 0x4000 then (i, 3, reason, st) else (i, now, 0, st)
  | _ => (i, now, 0, 0)

/-- Works on the instances of an `ENABLE` in ascending order, each on its own (R381). -/
def State.enStep (s : State) (blk sel : Nat) (v first : Bool) (k : Work) : State × Work :=
  k.todo.foldl (fun (x : State × Work) i =>
    if !first && !x.1.enReady blk i v then (x.1, { x.2 with todo := x.2.todo ++ [i] })
    else
      let r := if first then x.1.enWrite k.w blk sel i v else x.1.enResume k.w blk i v
      match r.2 with
      | .wait => (r.1, { x.2 with todo := x.2.todo ++ [i] })
      | res => (r.1, { x.2 with acc := x.2.acc ++ [r.1.enResult blk sel i res] }))
    (s, { k with todo := [] })

/-- Goes on with an `ENABLE`, and forms its response when no instance waits. -/
def State.enGo (s : State) (r : Req) (first : Bool) (k : Work) : State :=
  let f (o : Nat) : Nat := fieldAt r.args o 1
  let x := s.enStep (f 0) (f 1) (decide (f 2 = 1)) first k
  let t := x.1.setWork x.2
  if x.2.todo = [] then t.respond r.no (enAnswer x.2.acc) else t

/-- ENABLE (R380 to R382). -/
def enableCmd (rq : ReqId) (w : World) (s : State) : State :=
  s.onReq rq 0x0202 fun r t =>
    let b := r.args
    let blk := fieldAt b 0 1
    let mask := fieldAt b 4 4
    match checkedEnables.find? fun c => decide (c.1 = blk ∧ c.2.1 = fieldAt b 1 1) with
    | none => t.respond r.no (rsp 0x0009)
    | some c =>
      if b.length ≠ 8 ∨ 1 < fieldAt b 2 1 ∨ fieldAt b 3 1 ≠ 0 then t.respond r.no (rsp 0x0009)
      else if mask = 0 ∨ 2 ^ c.2.2 ≤ mask then t.respond r.no (rsp 0x000D)
      else t.enGo r true ⟨r.no, w, (List.range c.2.2).filter (bitOf mask), true, []⟩

/-- ENABLE_STATE: 17 entries of 12 bytes (R378, R380). -/
def enableState (rq : ReqId) (s : State) : State :=
  s.serve rq 0x0203 fun _ _ t =>
    let entry (c : Nat × Nat × Nat) : List Byte :=
      let bits := ((List.range c.2.2).map fun i => b2n (t.enOn c.1 c.2.1 i) * 2 ^ i).foldl (· + ·) 0
      leBytes 1 c.1 ++ leBytes 1 c.2.1 ++ leBytes 1 bits ++ [0] ++
        (List.range 4).flatMap fun i => leBytes 2 (if i < c.2.2 then t.chkOf c.1 i else 0)
    (t, rspOk (checkedEnables.flatMap entry))

/-- Entries of a diagnostic write (R383). -/
def Req.entries (r : Req) : List (Nat × Nat × Nat) :=
  if r.op = 0x0B01 then wrEntries r.args
  else (List.range (fieldAt r.args 4 4 / 4)).map fun i => (fieldAt r.args 0 4 + 4 * i, fieldAt r.args (8 + 4 * i) 4, 0)

/-- The response of a diagnostic write of which `k` entries ran. -/
def State.wrDone (s : State) (r : Req) (k st reason : Nat) : State :=
  s.respondW r.no (st, reason, if r.op = 0x0B01 then leBytes 2 k ++ leBytes 2 (if st = 0 then 0xFFFF else k) else [])

/-- Runs the entries of a diagnostic write from a list of their places on. -/
def State.wrGo (s : State) (r : Req) (w : World) : List Nat → State
  | [] => s.wrDone r r.entries.length 0 0
  | k :: l =>
    match s.runEntry r.no r.mb { w with hw := w.hw.drop k } (r.entries.getD k (0, 0, 0)) with
    | (t, .ok) => t.wrGo r w l
    | (t, .stop st reason) => t.wrDone r k st reason
    | (t, .wait) => t.setWork ⟨r.no, w, k :: l, true, []⟩

/-- A diagnostic write: validated as a whole, then run (R383). -/
def State.wrBegin (s : State) (r : Req) (w : World) : State :=
  match (r.entries.map (s.entryBad true)).find? fun x => decide (x ≠ 0) with
  | some st => s.wrDone r 0 st 0
  | none => s.wrGo r w (List.range r.entries.length)

/-- REG_WRITE. -/
def regWriteCmd (rq : ReqId) (w : World) (s : State) : State :=
  s.onReq rq 0x0B01 fun r t =>
    let b := r.args
    let n := fieldAt b 0 2
    if b.length ≠ 8 + 16 * n ∨ !inR 1 1024 n ∨ fieldAt b 2 6 ≠ 0 ∨ r.entries.any fun e => decide (2 ^ 40 ≤ e.2.2) then
      t.respond r.no (rsp 0x0009)
    else t.wrBegin r w

/-- REG_WRITE_BLOCK; `ADDR` is unicast, and it is validated with no word to write too (R16). -/
def regWriteBlock (rq : ReqId) (w : World) (s : State) : State :=
  s.onReq rq 0x0B03 fun r t =>
    let b := r.args
    let n := fieldAt b 4 4
    let sel := (adrOf (fieldAt b 0 4)).2.1
    if b.length ≠ 8 + n ∨ b.length < 8 ∨ n % 4 ≠ 0 ∨ 65536 < fieldAt b 0 4 % 65536 + n then t.respond r.no (rsp 0x0009)
    else if sel = 0xE0 ∨ sel = 0xFF then t.respond r.no (rsp 0x000D)
    else if t.entryBad true (fieldAt b 0 4, 0, 0) ≠ 0 then t.wrDone r 0 (t.entryBad true (fieldAt b 0 4, 0, 0)) 0
    else t.wrBegin r w

/-- Reads the words at addresses, or the status of the first that cannot be read (R383). -/
def State.readAll (s : State) (l : List Nat) : Rsp :=
  match (l.map fun x => s.entryBad false (x, 0, 0)).find? fun x => decide (x ≠ 0) with
  | some st => rsp st
  | none =>
    if l.all fun x => offKnown (adrOf x).1 (adrOf x).2.2 then
      rspOk (l.flatMap fun x => leBytes 4 (s.regRead (adrOf x).1 (adrOf x).2.1 (adrOf x).2.2))
    else rsp 0x000B

/-- REG_READ. -/
def regReadCmd (rq : ReqId) (s : State) : State :=
  s.serve rq 0x0B00 fun _ b t =>
    let n := fieldAt b 0 2
    if b.length ≠ 4 + 4 * n ∨ !inR 1 1024 n ∨ fieldAt b 2 2 ≠ 0 then (t, rsp 0x0009)
    else (t, t.readAll ((List.range n).map fun i => fieldAt b (4 + 4 * i) 4))

/-- REG_READ_BLOCK: `ADDR` is validated with no word to read too (R16). -/
def regReadBlock (rq : ReqId) (s : State) : State :=
  s.serve rq 0x0B02 fun r b t =>
    let n := fieldAt b 4 4
    if b.length ≠ 8 ∨ n % 4 ≠ 0 ∨ 65536 < fieldAt b 0 4 % 65536 + n ∨ r.limit < n then (t, rsp 0x0009)
    else if t.entryBad false (fieldAt b 0 4, 0, 0) ≠ 0 then (t, rsp (t.entryBad false (fieldAt b 0 4, 0, 0)))
    else (t, t.readAll ((List.range (n / 4)).map fun i => fieldAt b 0 4 + 4 * i))

/-- REGISTER_WRITE: a write to a register acts under its access codes (R17); with `PWR_EN[2]` low no sender on the die acts
(R30). -/
def registerWrite (sender : Fin 64) (blk : Fin 256) (inst : Fin 40) (off : Fin 65536) (v : BitVec 32) (w : World) (s : State) : State :=
  if bitOf (s.get R.CVN_STAT_PWR_EN) 2 then (s.regWrite sender w blk inst off v.toNat).1 else s

/-- Commits one shadow; a rule that refuses it gives its status to the request (R383, R385). -/
def State.commitOne (s : State) (hw : List (BitVec 32)) (h : Shadow) : State :=
  match s.regWrite h.mb { noWorld with hw := [hw] } h.blk h.inst h.off h.val with
  | (t, .stop st reason) =>
    t.updReq h.no fun (r : Req) => if r.status = 0 ∧ r.done then { r with status := st, reason := reason } else r
  | (t, _) => t

/-- SHADOW_COMMIT: the next address mark of an actuator, or its entry into a state without wedges, commits its shadows
(R385); `hw` gives for each of them the event bits that the hardware sets in the same cycle, by instance (R18). -/
def shadowCommit (a : Act) (hw : List (List (BitVec 32))) (s : State) : State :=
  let mine := s.shadow.filter fun h => decide (h.act = a.val)
  let t := ({ s with shadow := s.shadow.filter fun h => decide (h.act ≠ a.val) }).forAll mine.zipIdx fun h u => u.commitOne (hw.getD h.2 []) h.1
  { t with reqs := t.reqs.map fun (r : Req) => { r with waits := r.waits.filter fun x => decide (x.2 ≠ a.val) } }

/-! ## Requests that wait inside their action -/

/-- Goes on with a request that waits, as far as it can. -/
def State.workOn (s : State) (k : Work) : State :=
  match s.reqs.find? fun r => decide (r.no = k.no) with
  | none => s.setWork { k with todo := [] }
  | some r =>
    if r.op = 0x0202 then s.enGo r false k
    else match k.todo with
      | [] => s
      | i :: l =>
        let a := adrOf (r.entries.getD i (0, 0, 0)).1
        if s.wrReady a.1 a.2.1 a.2.2 then
          let x := s.wrResume k.w a.1 a.2.1 a.2.2
          let t := x.1.setWork { k with todo := [] }
          match x.2 with
          | .stop st reason => t.wrDone r i st reason
          | _ => t.wrGo r k.w l
        else s

/-- Goes on with every request that waits. -/
def State.workAll (s : State) : State := s.forAll s.works fun k t => t.workOn k

/-- ENUMERATION_COMPLETE: the enumeration's end, and the enables that wait for it (R100, R382). -/
def enumerationEnd (a : Act) (paId paCap : BitVec 16) (loads : List (List Nat)) (flex : Nat) (s : State) : State :=
  (enumerationComplete a paId paCap loads flex s).workAll

/-- HEADS_ON_RAMP: the unload's end, and the actuator enable whose clearing waits for it (R152, R382). -/
def headsOnRampEnd (a : Act) (s : State) : State := (headsOnRamp a s).workAll

/-- REQUEST_COMPLETE: a request that still waits goes on; its response is queued once it is formed (R352, R355, R361). -/
def requestEnd (rq : ReqId) (s : State) : State := requestComplete rq s.workAll

/-! ## Commands -/

/-- Meaning of ENUMERATION_COMPLETE (R100). -/
def execEnumerationComplete (a : Act) (paId paCap : BitVec 16) (loads : List (List Nat)) (flex : Nat) (s : State) : Host.Outcome State Fault Refusal :=
  .next (enumerationEnd a paId paCap loads flex s)

/-- Meaning of HEADS_ON_RAMP (R152). -/
def execHeadsOnRamp (a : Act) (s : State) : Host.Outcome State Fault Refusal :=
  .next (headsOnRampEnd a s)

/-- Meaning of REQUEST_COMPLETE (R359). -/
def execRequestComplete (rq : ReqId) (s : State) : Host.Outcome State Fault Refusal :=
  .next (requestEnd rq s)

/-- Meaning of ENABLE (R381). -/
def execEnable (rq : ReqId) (w : World) (s : State) : Host.Outcome State Fault Refusal :=
  .next (enableCmd rq w s)

/-- Meaning of ENABLE_STATE (R378). -/
def execEnableState (rq : ReqId) (s : State) : Host.Outcome State Fault Refusal :=
  .next (enableState rq s)

/-- Meaning of REG_READ (R383). -/
def execRegRead (rq : ReqId) (s : State) : Host.Outcome State Fault Refusal :=
  .next (regReadCmd rq s)

/-- Meaning of REG_WRITE (R383). -/
def execRegWrite (rq : ReqId) (w : World) (s : State) : Host.Outcome State Fault Refusal :=
  .next (regWriteCmd rq w s)

/-- Meaning of REG_READ_BLOCK (R383). -/
def execRegReadBlock (rq : ReqId) (s : State) : Host.Outcome State Fault Refusal :=
  .next (regReadBlock rq s)

/-- Meaning of REG_WRITE_BLOCK (R383). -/
def execRegWriteBlock (rq : ReqId) (w : World) (s : State) : Host.Outcome State Fault Refusal :=
  .next (regWriteBlock rq w s)

/-- Meaning of REGISTER_WRITE (R17). -/
def execRegisterWrite (sender : Fin 64) (blk : Fin 256) (inst : Fin 40) (off : Fin 65536) (v : BitVec 32) (w : World) (s : State) : Host.Outcome State Fault Refusal :=
  .next (registerWrite sender blk inst off v w s)

/-- Meaning of SHADOW_COMMIT (R385). -/
def execShadowCommit (a : Act) (hw : List (List (BitVec 32))) (s : State) : Host.Outcome State Fault Refusal :=
  .next (shadowCommit a hw s)

end Sys2Proof.Machine
end

