-- ==== Sys2Proof/Machine/Catalogue.lean ====
section
/-!
DEFINITION. The Casgus command catalogue (chapter "Casgus command catalogue and reason codes", R373 to R390), apart from the
opcodes of `Machine/Registers.lean`. Every opcode acts on a started request whose response is not formed.
-/

namespace Sys2Proof.Machine

/-- A handler whose payload has a fixed length: another length gives 0x0009 (R373). -/
def sized (n : Nat) (b : List Byte) (s : State) (f : State → State × Rsp) : State × Rsp :=
  if b.length = n then f s else (s, rsp 0x0009)

/-- A change with a status alone. -/
def stRsp (x : State × Nat) : State × Rsp := (x.1, rsp x.2)

/-- Bytes padded to a length. -/
def padTo (n k : Nat) (b : List Byte) : List Byte := b ++ List.replicate (n - b.length) (Config.padByte k)

/-! ## Identity, counters (R378) -/

/-- Version of a slot in `IDENTIFY` and `FW_STATUS` (R378). -/
def State.shownVer (s : State) (k : Nat) : List Byte := if s.on (V.fwVer k) then s.slotVer k else List.replicate 16 0

/-- `nqn.2031-04.com.lamcel:ul9700:` (R313). -/
def nqnPrefix : List Byte :=
  [0x6E, 0x71, 0x6E, 0x2E, 0x32, 0x30, 0x33, 0x31, 0x2D, 0x30, 0x34, 0x2E, 0x63, 0x6F, 0x6D, 0x2E, 0x6C, 0x61, 0x6D, 0x63, 0x65, 0x6C,
   0x3A, 0x75, 0x6C, 0x39, 0x37, 0x30, 0x30, 0x3A]

/-- `UL9700-QH32` (R8). -/
def orderCode : List Byte := [0x55, 0x4C, 0x39, 0x37, 0x30, 0x30, 0x2D, 0x51, 0x48, 0x33, 0x32]

/-- IDENTIFY. -/
def identifyCmd (rq : ReqId) (s : State) : State :=
  s.serve rq 0x0100 fun _ b t => sized 0 b t fun t =>
    (t, rspOk (serial ++ padTo 16 0 orderCode ++ leBytes 2 Config.stepping ++
      leBytes 1 (Config.sampleBits % 128 * 2 + Config.partClass % 2) ++ leBytes 1 t.nact ++ leBytes 1 t.nhpa ++
      leBytes 1 (t.get (V.sptCap 0) / 16 % 4) ++ leBytes 2 t.fmtW ++ leBytes 1 (t.get V.fwSlot) ++ t.shownVer 0 ++ t.shownVer 1 ++
      nqnPrefix ++ serial ++ List.replicate 14 0))

/-- GET_NONCE: a new nonce voids an unused one of the mailbox (R358). -/
def getNonce (rq : ReqId) (nonce : BitVec 256) (s : State) : State :=
  s.serve rq 0x0101 fun r b t => sized 0 b t fun t =>
    let n := leBytes 32 nonce.toNat
    ({ t with nonces := (t.nonces.filter fun x => decide (x.mb ≠ r.mb)) ++ [⟨r.mb, n, t.get V.msNow⟩] }, rspOk (n ++ leBytes 4 60000))

/-- COUNTERS. -/
def countersCmd (rq : ReqId) (s : State) : State :=
  s.serve rq 0x0103 fun _ b t => sized 0 b t fun t =>
    (t, rspOk (leBytes 4 t.opsec ++ leBytes 4 (t.get R.CVN_PCYC_CYCLES) ++
      leBytes 4 (t.get R.CVN_STAT_OPSEC_SAT + 2 * t.get R.CVN_STAT_PCYC_SAT + 4 * t.get R.CVN_STAT_XTAL_FAIL)))

/-- CLEAR_XTAL: the sticky flag alone (R29). -/
def clearXtal (rq : ReqId) (s : State) : State :=
  s.serve rq 0x0104 fun _ b t => sized 0 b t fun t => (t.put R.CVN_STAT_XTAL_FAIL 0, rsp 0)

/-! ## Inventory (R379) -/

/-- Servo tracks of a head that no band can use, as the commit laid the bands out (R56, R57). -/
def State.formatLoss (s : State) (h : Nat) : Nat :=
  let n := s.convN (s.actOf h)
  let c0 := s.fmtConv
  let c1 := s.fmtConv + s.fmtPc * n
  ((s.zonesOf h).map fun z =>
    let e := s.zoneEnt h z
    let lo := zeStart e
    let hi := s.zoneEnd h z + 1
    let b := s.zoneBands h z n
    hi - lo - (Nat.min hi c1 - Nat.max lo c0) - (b.1 + b.2) * (bandData (s.kOf e (zeDcInit e)) + zeGuard e)).foldl (· + ·) 0

/-- An inventory item: whether it is valid, and its words; none where the instance does not exist. -/
def State.item (s : State) (k i : Nat) : Option (Bool × List Nat) :=
  let heads := s.nact * s.nhpa
  let loads (h : Nat) : List Nat := [1, 2, 3, 4, 5, 7].map fun j => Tab.at 0 s.loads (h * 8 + j)
  match k with
  | 1 => if i ≠ 0 then none else
      some (decide (s.get V.vin12Lo ≤ s.get V.vin12Hi), [s.get R.STM_VIN_VIN12, s.get V.vin12Lo, s.get V.vin12Hi, s.get R.STM_VIN_VIN5,
        s.get V.vin5Lo, s.get V.vin5Hi])
  | 2 => if i ≠ 0 then none else
      some (s.on R.STM_WIND_R_SPN && s.on R.STM_WIND_L_SPN, [s.get R.STM_WIND_R_SPN, s.get R.STM_WIND_L_SPN])
  | 3 => if s.nact ≤ i then none else some (s.on (R.STM_VCMR_VALID i), [s.get (R.STM_VCMR_R_VCM i)])
  | 4 => if heads ≤ i then none else some ((loads i).any fun x => decide (x ≠ 0), loads i)
  | 5 => if s.nact ≤ i then none else some (s.on (V.sptFlexL i), [s.get (V.sptFlexL i)])
  | 6 => if 4 ≤ i then none else some (s.on (R.FAB_LANE_VALID i), [s.get (R.FAB_LANE_LOSS i), s.get (R.FAB_LANE_REACH i)])
  | 7 => if 2 ≤ i then none else
      let l := Tab.at [] s.partner i
      some (!l.isEmpty, Config.invWords 7 l)
  | 8 => (s.ctrl i).map fun c => (true, Config.invWords 8 (c.hostNqn.map (fun (x : Byte) => x.toNat) ++ [c.hostId] ++ c.conn))
  | 9 => (s.members[i]?).map fun (p : Peer) => (true, Config.invWords 9 (p.serial.map (fun (x : Byte) => x.toNat) ++ [p.kMax, p.mMax, p.fMax]))
  | 10 => if heads ≤ i then none else
      if s.on R.MMG_CTL_FMT_COMMIT then some (true, [s.formatLoss i]) else some (false, [0])
  | _ => none

/-- INVENTORY. -/
def inventoryCmd (rq : ReqId) (s : State) : State :=
  s.serve rq 0x0102 fun _ b t => sized 4 b t fun t =>
    let k := fieldAt b 0 2
    if k = 0 ∨ 10 < k then (t, rsp 0x0009)
    else match t.item k (fieldAt b 2 2) with
      | none => (t, rsp 0x0011)
      | some x => (t, rspOk (b ++ [BitVec.ofNat 8 (b2n x.1), 0, 0, 0] ++ x.2.flatMap (leBytes 4)))

/-! ## Option area and key (R377, R416, R503) -/

/-- OPTION_READ. -/
def optionRead (rq : ReqId) (s : State) : State :=
  s.serve rq 0x0200 fun r b t => sized 8 b t fun t =>
    let o := fieldAt b 0 4
    let n := fieldAt b 4 4
    if 65536 < o + n ∨ r.limit < n then (t, rsp 0x0009) else (t, rspOk ((t.optBytes.drop o).take n))

/-- OPTION_WRITE; `ok1` and `ok2` tell whether the first and the second copy verified. -/
def optionWrite (rq : ReqId) (ok1 ok2 : Bool) (s : State) : State :=
  s.serve rq 0x0201 fun _ b t =>
    if b.length < 8 ∨ b.length ≠ 8 + fieldAt b 4 4 then (t, rsp 0x0009)
    else stRsp (t.optWrite (fieldAt b 0 4) (b.drop 8) ok1 ok2)

/-- KEY_REGISTER: once a key is registered, the new one must have signed the nonce as well. -/
def keyRegister (rq : ReqId) (ok1 ok2 : Bool) (s : State) : State :=
  s.serve rq 0x0204 fun r b t =>
    let key := b.take 97
    let nums (l : List Byte) : List Nat := l.map fun (x : Byte) => x.toNat
    if ¬(b.length = 193 ∨ (b.length = 97 ∧ !t.keyReg)) ∨ fieldAt b 0 1 ≠ 4 then (t, rsp 0x0009)
    else if t.keyReg ∧ !Config.ecdsaVerify (nums key) (nums r.nonce) (nums (b.drop 97)) then (t, rsp 0x0007)
    else
      let x := t.optWrite 0x200 ([1, 0, 0, 0] ++ key ++ List.replicate 27 0) ok1 ok2
      if x.2 ≠ 0 then stRsp x
      else (x.1.post 0x05 0x10 info noInst ((Config.sha384 (nums key)).take 8), rsp 0)

/-! ## Budget and spin slot (R386 to R388) -/

/-- The stored budget of a scope. -/
def State.storedBudget (s : State) (scope : Nat) : Option Nat :=
  if scope = 0xFFFFFFFF then some (s.get R.CVN_BUD_DEV_DEV_US) else (s.ns scope).map (·.budget)

/-- The response of `SET_BUDGET` and `GET_BUDGET`. -/
def State.budgetRsp (s : State) (scope : Nat) : Rsp :=
  match s.storedBudget scope with
  | none => rsp 0x0011
  | some v => rspOk (leBytes 4 v ++ leBytes 4 (s.get R.CVN_BUD_EFF_EFF_US) ++ leBytes 1 (s.get R.CVN_STAT_PS_TGT) ++
      leBytes 1 (s.get R.CRL_STAT_SP) ++ leBytes 1 (s.wantSp (s.get R.CRL_STAT_SP)) ++ List.replicate 5 0)

/-- SET_BUDGET. -/
def setBudgetCmd (rq : ReqId) (s : State) : State :=
  s.serve rq 0x0300 fun _ b t => sized 8 b t fun t =>
    let sc := fieldAt b 0 4
    let x := t.setBudget sc (fieldAt b 4 4)
    (x.1, x.1.budgetRsp sc)

/-- GET_BUDGET. -/
def getBudgetCmd (rq : ReqId) (s : State) : State :=
  s.serve rq 0x0301 fun _ b t => sized 4 b t fun t => (t, t.budgetRsp (fieldAt b 0 4))

/-- The response of `SPIN_SLOT` and `SPIN_STATUS`. -/
def State.spinRsp (s : State) : Rsp :=
  rspOk (leBytes 1 s.permNow ++ leBytes 1 (s.get V.spinMode) ++ leBytes 1 (s.get V.spinTry) ++ [0] ++ leBytes 4 s.spinRemain)

/-- SPIN_SLOT. -/
def spinSlot (rq : ReqId) (s : State) : State :=
  s.serve rq 0x0302 fun _ b t => sized 16 b t fun t =>
    let m := fieldAt b 0 1
    let d := fieldAt b 4 4
    let i := fieldAt b 8 2
    if 3 < m ∨ fieldAt b 1 3 ≠ 0 ∨ 600000 < d ∨ !(decide (i = 0) || inR 500 6000 i) ∨ fieldAt b 10 6 ≠ 0 then (t, rsp 0x0009)
    else
      let u := (t.puts [(V.spinMode, m), (V.spinSt, if m = 2 then 1 else 0), (V.spinFrom, t.get V.msNow),
        (V.spinLen, if m = 2 then d else 0), (V.imaxMa, i)]).spinCheck
      (u, u.spinRsp)

/-- SPIN_STATUS. -/
def spinStatus (rq : ReqId) (s : State) : State :=
  s.serve rq 0x0303 fun _ b t => sized 0 b t fun t => (t, t.spinRsp)

/-! ## Temperatures (R378) -/

/-- THERMAL_READ: five records. -/
def thermalRead (rq : ReqId) (s : State) : State :=
  s.serve rq 0x0400 fun _ b t => sized 0 b t fun t =>
    (t, rspOk ((List.range 5).flatMap fun i => leBytes 2 (t.get (R.PSL_TEMP_USED i)) ++ leBytes 1 (t.level i) ++
      leBytes 1 (b2n (t.suspect i)) ++ leBytes 1 (t.get (stepFld (dieOf i))) ++ [0, 0, 0]))

/-- CLEAR_SUSPECT. -/
def clearSuspectCmd (rq : ReqId) (s : State) : State :=
  s.serve rq 0x0401 fun _ b t => sized 1 b t fun t =>
    if 32 ≤ fieldAt b 0 1 then (t, rsp 0x0009) else (t.clearSuspect (fieldAt b 0 1), rsp 0)

/-! ## Trims and tables (R378, R448 to R451) -/

/-- Trim registers of a block and instance. -/
def trimsOf (blk inst : Nat) : List Nat := trimOffs.filter fun o => decide (trimOwner o = (blk, inst))

/-- TRIM_READ. -/
def trimRead (rq : ReqId) (s : State) : State :=
  s.serve rq 0x0500 fun _ b t => sized 2 b t fun t =>
    match trimsOf (fieldAt b 0 1) (fieldAt b 1 1) with
    | [] => (t, rsp 0x000D)
    | l => (t, rspOk (leBytes 2 l.length ++ l.flatMap fun o => leBytes 2 o ++ leBytes 4 (t.word 0x18 0 o)))

/-- A field re-trim of a block runs: it is part of the device's ageing measurement (R451, R455). -/
def State.retrimming (s : State) (l : List Nat) : Bool :=
  s.on R.TLR_STAT_MEASURING && decide (s.dues.head?.map (·.1) = some 255) && l.any fun o => decide (trimKind o = 0)

/-- Writes a trim image at the update point of its block (R385, R451). -/
def State.trimPut (s : State) (r : Req) (blk inst : Nat) (img : List (Nat × Nat)) : State :=
  match s.commitAct blk inst with
  | some a =>
    if s.noWedge a then s.forAll img fun e t => t.putWord 0x18 0 e.1 e.2 0 []
    else { s with shadow := s.shadow ++ img.map fun e => ⟨r.no, r.mb, a, 0x18, 0, e.1, e.2⟩ }
  | none => s.forAll img fun e t => t.putWord 0x18 0 e.1 e.2 0 []

/-- TRIM_WRITE: the image as `TRIM_READ` returns it; the response waits for the commit (R385). -/
def trimWrite (rq : ReqId) (s : State) : State :=
  s.onReq rq 0x0501 fun r t =>
    let b := r.args
    let n := fieldAt b 0 2
    let img := (List.range n).map fun i => (fieldAt b (2 + 6 * i) 2, fieldAt b (4 + 6 * i) 4)
    let o := trimOwner (fieldAt b 2 2)
    let l := trimsOf o.1 o.2
    if b.length ≠ 2 + 6 * n ∨ n = 0 ∨ img.map (·.1) ≠ l ∨ img.any (fun e => decide (2 ^ 22 ≤ e.2)) then t.respond r.no (rsp 0x0009)
    else if t.retrimming l then t.respond r.no (rsp 0x000F)
    else (t.trimPut r o.1 o.2 img).respondW r.no (rsp 0)

/-- Tables: block, offset, entry size, entries, whether an entry carries a CRC (R378). -/
def tables : List (Nat × Nat × Nat × Nat × Bool) :=
  [(0x02, 0x1000, 0x80, 4, false), (0x0C, 0x4000, 64, 640, true), (0x0F, 0x1000, 32, 64, true), (0x0F, 0x1800, 16, 16, true),
   (0x0F, 0x4000, 0x400, 4, false), (0x0F, 0x5000, 2048, 1, false), (0x0F, 0x8000, 512, 64, false), (0x12, 0x1000, 64, 10, true),
   (0x12, 0x2000, 32, 640, true), (0x13, 0x1000, 32, 1, true), (0x13, 0x1100, 8, 64, true), (0x18, 0x1000, 32, 1, true)]

/-- The table that holds a stretch of a window. -/
def tableAt (blk off n : Nat) : Option (Nat × Nat × Nat × Nat × Bool) :=
  tables.find? fun x => decide (x.1 = blk ∧ x.2.1 ≤ off ∧ off + n ≤ x.2.1 + x.2.2.1 * x.2.2.2.1)

/-- TABLE_READ. -/
def tableRead (rq : ReqId) (s : State) : State :=
  s.serve rq 0x0502 fun r b t => sized 8 b t fun t =>
    let a := adrOf (fieldAt b 0 4)
    let n := fieldAt b 4 4
    match tableAt a.1 a.2.2 n with
    | none => (t, rsp 0x0009)
    | some _ =>
      if r.limit < n then (t, rsp 0x0009)
      else if selCount a.1 ≤ a.2.1 then (t, rsp 0x000D)
      else (t, rspOk (t.bytes a.1 a.2.1 a.2.2 n))

/-- Learning runs in progress start again (R187). -/
def State.relearn (s : State) : State :=
  { s with cog := [] }.puts ((V.cogRev, 0) :: (List.range 4).map fun a => (V.lrnCnt a, 0))

/-- The number of a table of Trapeze that is replaced whole, as `V.trzTblPend` numbers them (R187). -/
def tableNo (base off : Nat) : Option Nat :=
  if base = 0x8000 then some ((off - 0x8000) / 512) else if base = 0x4000 then some (64 + (off - 0x4000) / 0x400)
  else if base = 0x5000 then some 68 else if base = 0x1000 then some (69 + (off - 0x1000) / 0x20)
  else if base = 0x1800 then some (133 + (off - 0x1800) / 0x10) else none

/-- A valid loop uses a table of Trapeze. -/
def State.tableUsed (s : State) (i : Nat) : Bool := (List.range 64).any fun n => s.lpValid n && (s.lpTables n).contains i

/-- A replacement of a table of a running Trapeze: the working copy holds it at once, the window from the next trigger of each
loop that uses it on (R187); where no valid loop uses it, at once. A piece of a table that already waits joins it. -/
def State.stageTable (s : State) (i off : Nat) (e : List Byte) : State :=
  let s := if s.on (V.trzTblPend i) then s else s.forAll (trzTable i) fun x v => v.copyWin 0x0F 0 2 x.1 x.2
  let t := { s with win := putBytes s.win (winKey 0x0F 2 off) e, tstore := putBytes s.tstore (winKey 0x0F 0 off) e }.puts
    [(V.trzTblPend i, 1), (V.trzTook i, 0)]
  t.when (!t.tableUsed i) fun u => u.swapTable i

/-- Writes an entry of a table, and what follows from it (R175, R187, R460). -/
def State.putTableEntry (s : State) (blk sel base off : Nat) (e : List Byte) : State :=
  let e := if blk = 0x0F ∧ base = 0x8000 then e.take 384 ++ s.bytes blk sel (off + 384) 104 ++ e.drop 488 else e
  let t := match tableNo base off with
    | some i => if blk = 0x0F ∧ s.get R.TRZ_STAT_STATE = trzRUN then s.stageTable i off e else s.putTable blk sel off e
    | none => s.putTable blk sel off e
  if blk = 0x0F then t.relearn
  else if blk = 0x12 ∧ base = 0x2000 then
    t.restartFit (t.ghead sel ((off - base) / 2048)) ((off - base) / 32 % 64)
  else if blk = 0x13 ∧ base = 0x1100 then t.restartFit sel ((off - base) / 8)
  else t

/-- TABLE_WRITE: whole entries, each with its CRC where it has one. -/
def tableWrite (rq : ReqId) (s : State) : State :=
  s.serve rq 0x0503 fun _ b t =>
    let a := adrOf (fieldAt b 0 4)
    let n := fieldAt b 4 4
    if b.length < 8 ∨ b.length ≠ 8 + n ∨ n = 0 then (t, rsp 0x0009)
    else match tableAt a.1 a.2.2 n with
      | none => (t, rsp 0x0009)
      | some x =>
        let sz := x.2.2.1
        let es := (List.range (n / sz)).map fun i => (a.2.2 + sz * i, (b.drop (8 + sz * i)).take sz)
        if selCount a.1 ≤ a.2.1 then (t, rsp 0x000D)
        else if (a.2.2 - x.2.1) % sz ≠ 0 ∨ n % sz ≠ 0 ∨ (x.2.2.2.2 ∧ es.any fun e => !crcOk e.2) then (t, rsp 0x0009)
        else (t.forAll es fun e u => u.putTableEntry a.1 a.2.1 x.2.1 e.1 e.2, rsp 0)

/-- TAILOR_SAVE; `ok`: the new half was programmed and verified. A half cut short is passed over at the next start (R452). -/
def tailorSave (rq : ReqId) (ok : Bool) (s : State) : State :=
  s.serve rq 0x0504 fun _ b t => sized 0 b t fun t => if ok then (t.tlrSave, rsp 0) else (t.tlrFail, rsp 0x0012)

/-- CERT_READ. -/
def certRead (rq : ReqId) (s : State) : State :=
  s.serve rq 0x0505 fun _ b t => sized 0 b t fun t => match t.certs with
    | [] => (t, rsp 0x0011)
    | c :: _ => (t, rspOk c)

/-! ## Ageing (R456 to R460) -/

/-- AGEING_READ. -/
def ageingRead (rq : ReqId) (s : State) : State :=
  s.serve rq 0x0600 fun _ b t => sized 1 b t fun t => match t.newest (fieldAt b 0 1) with
    | none => (t, rsp 0x0011)
    | some x => (t, rspOk x.bytes)

/-- MARGIN_READ: predicted hours of each zone, and the demands of the head that wait. -/
def marginRead (rq : ReqId) (s : State) : State :=
  s.serve rq 0x0601 fun _ b t => sized 1 b t fun t =>
    let h := fieldAt b 0 1
    if t.nact * t.nhpa ≤ h then (t, rsp 0x0011)
    else (t, rspOk (Config.payload 0x0601 ((List.range 64).map (t.hours h) ++
      ((t.demands.filter fun d => decide (d.head = h)).flatMap fun d => [d.zone, d.dcls, d.risk]))))

/-- MEASURE_NOW. -/
def measureNow (rq : ReqId) (s : State) : State :=
  s.serve rq 0x0602 fun _ b t => sized 5 b t fun t =>
    let m := fieldAt b 0 5
    if 2 ^ (t.nact * t.nhpa) ≤ m then (t, rsp 0x000D)
    else (t.forAll ((List.range (t.nact * t.nhpa)).filter (bitOf m)) fun h u => u.due h 3, rsp 0)

/-! ## Recorder (R476, R477) -/

/-- PBL_READ: as many whole records as fit (R375). -/
def pblRead (rq : ReqId) (s : State) : State :=
  s.serve rq 0x0700 fun r b t => sized 6 b t fun t =>
    let n := fieldAt b 4 2
    if !inR 1 1023 n then (t, rsp 0x0009)
    else match t.pblFrom (fieldAt b 0 4) (Nat.min n (r.limit / 64)) with
      | none => (t, rsp 0x0011)
      | some l => (t, rspOk (l.flatMap fun x => x.bytes (decide (t.popen = some x))))

/-- PBL_STATUS. -/
def pblStatus (rq : ReqId) (s : State) : State :=
  s.serve rq 0x0701 fun _ b t => sized 0 b t fun t =>
    (t, rspOk (leBytes 4 (t.get R.PBL_OLDEST_SEQ) ++ leBytes 4 (t.get R.PBL_NEWEST_SEQ) ++ leBytes 4 (t.get R.PBL_HELD_COUNT) ++
      leBytes 4 t.pblFlags))

/-- PBL_CLEAR; `ok`: the erase and the CLEARED record verified. -/
def pblClearCmd (rq : ReqId) (ok : Bool) (s : State) : State :=
  s.serve rq 0x0702 fun r b t => sized 0 b t fun t => stRsp (t.pblClear r.mb (t.get (R.TKB_MB_ID r.mb)) ok)

/-! ## Firmware and flash (R390, R420, R421) -/

/-- FW_DOWNLOAD; `ok`: what boot ROM programmed verified (R503). -/
def fwDownloadCmd (rq : ReqId) (ok : Bool) (s : State) : State :=
  s.serve rq 0x0800 fun r b t => if b.length < 5 then (t, rsp 0x0009) else
    stRsp (t.fwDownHeld 15 r.mb (fieldAt b 0 4) (b.drop 4) ok)

/-- FW_COMMIT; `ok`: the selector word verified. -/
def fwCommitCmd (rq : ReqId) (ok : Bool) (s : State) : State :=
  s.serve rq 0x0801 fun _ b t => sized 1 b t fun t =>
    if 1 < fieldAt b 0 1 then (t, rsp 0x0009) else stRsp (t.fwCommit (fieldAt b 0 1) true ok)

/-- FW_STATUS: versions, active and selected slot, state of each slot, bytes written, verification result. -/
def fwStatus (rq : ReqId) (s : State) : State :=
  s.serve rq 0x0802 fun _ b t => sized 0 b t fun t =>
    (t, rspOk (Config.payload 0x0802 ((t.shownVer 0 ++ t.shownVer 1).map (fun (x : Byte) => x.toNat) ++
      [t.get V.fwSlot, t.selCode, t.get (V.fwSlotSt 0), t.get (V.fwSlotSt 1), t.get V.fwGot - 256 * t.fwPend.length, t.get V.fwCause])))

/-- FLASH_STATUS: programs, erases, suspends and erase-incomplete blocks of each bank. -/
def flashStatus (rq : ReqId) (s : State) : State :=
  s.serve rq 0x0803 fun _ b t => sized 0 b t fun t =>
    (t, rspOk (Config.payload 0x0803 ((List.range 4).flatMap fun i =>
      let bad := (t.blks.filter fun e => decide (e.1 / 1024 = i) && e.2.bad).map (·.1 % 1024)
      [t.get (V.wdbProgs i), t.get (V.wdbErased i), t.get (V.wdbSusps i), bad.length] ++ bad)))

/-! ## Media (R246, R247, R276) -/

/-- PLACEMENT_SET. -/
def placementSet (rq : ReqId) (s : State) : State :=
  s.serve rq 0x0900 fun _ b t => sized 1 b t fun t =>
    let m := fieldAt b 0 1
    if m = 0 ∨ 2 ^ t.nact ≤ m then (t, rsp 0x0009) else (t.put V.placeMask m, rsp 0)

/-- PLACEMENT_GET; by default every actuator of the build. -/
def placementGet (rq : ReqId) (s : State) : State :=
  s.serve rq 0x0901 fun _ b t => sized 0 b t fun t => (t, rspOk (leBytes 1 (t.get V.placeMask % 2 ^ t.nact)))

/-- What a band belongs to: nothing, a zone or an extent slot, with its namespace and zone. -/
def State.bandOwner (s : State) (id : Nat) : List Nat :=
  match s.zones.find? fun e => (e.2.map fun z => z.bands.contains id).getD false with
  | some e => [1, e.1 / 4294967296, e.1 % 4294967296]
  | none => match s.nss.find? fun e => (e.2.map fun n => n.bands.contains id).getD false with
    | some e => [2, e.1, 0]
    | none => [0, 0, 0]

/-- Place of a band's state in the table of R246. -/
def bandStNo (b : BandSt) : Nat :=
  match b with
  | .free => 0 | .open_ => 1 | .full => 2 | .assigned => 3 | .retired => 4 | .defect => 5

/-- BAND_INFO. -/
def bandInfo (rq : ReqId) (s : State) : State :=
  s.serve rq 0x0902 fun _ b t => sized 4 b t fun t =>
    let id := fieldAt b 0 4
    let h := id / 1048576
    if !t.on R.MMG_CTL_FMT_COMMIT ∨ t.nact * t.nhpa ≤ h ∨ (t.bandCount h ≤ id % 1048576 ∧ Tab.at none t.bands id = none) then
      (t, rsp 0x0011)
    else
      let x := t.band id
      (t, rspOk (Config.payload 0x0902 ([bandStNo x.st, x.dcls, x.first] ++ t.bandOwner id)))

/-- POOL_INFO: free, held and spare bands of each actuator of the build. -/
def poolInfo (rq : ReqId) (s : State) : State :=
  s.serve rq 0x0903 fun _ b t => sized 0 b t fun t =>
    (t, rspOk ((List.range t.nact).flatMap fun a => leBytes 4 (t.get (R.MMG_POOL_FREE a)) ++ leBytes 4 (t.get (R.MMG_HELD_HELD a)) ++
      leBytes 4 (t.get (V.mmgSpare0 a))))

/-- ALT_QUEUE. -/
def altQueue (rq : ReqId) (s : State) : State :=
  s.serve rq 0x0904 fun _ b t => sized 0 b t fun t =>
    (t, rspOk (t.demands.flatMap fun d => leBytes 4 d.head ++ leBytes 4 d.zone ++ leBytes 4 d.dcls))

/-! ## Services and peers (R326, R338 to R342) -/

/-- DEFAULTS_SET. -/
def defaultsSet (rq : ReqId) (s : State) : State :=
  s.serve rq 0x0A00 fun _ b t => sized 4 b t fun t =>
    if 16 ≤ fieldAt b 0 4 then (t, rsp 0x0009) else (t.put V.svcDef (fieldAt b 0 4), rsp 0)

/-- DEFAULTS_GET. -/
def defaultsGet (rq : ReqId) (s : State) : State :=
  s.serve rq 0x0A01 fun _ b t => sized 0 b t fun t => (t, rspOk (leBytes 4 (t.get V.svcDef)))

/-- GROUP_SET: stored while `ACT` is 0, judged at the activation (R349, R378). -/
def groupSet (rq : ReqId) (s : State) : State :=
  s.serve rq 0x0A02 fun _ b t => sized 128 b t fun t =>
    if t.on R.PWK_CTL_ACT then (t, rsp 0x000A) else ({ t with group := putBytes [] 0 b }, rsp 0)

/-- The leader: of the members heard, the one with the lowest serial number (R341). -/
def State.leaderSerial (s : State) : List Byte :=
  match (s.members.filter fun p => p.heard || decide (p.serial = serial)).map (fun (p : Peer) => p.serial) with
  | [] => List.replicate 20 (Config.padByte 1)
  | x :: l => l.foldl (fun m y => if beNat y < beNat m then y else m) x

/-- GROUP_STATUS. -/
def groupStatus (rq : ReqId) (s : State) : State :=
  s.serve rq 0x0A03 fun _ b t => sized 0 b t fun t =>
    (t, rspOk (leBytes 4 (t.get V.pwkEpoch) ++ t.leaderSerial ++ leBytes 1 t.members.length ++ t.members.flatMap fun p => p.serial))

/-- The sender of a mailbox has authenticated as a member of the group (R339). -/
def State.fromMember (s : State) (mb : Nat) : Bool :=
  decide (s.get (R.TKB_MB_OWNER mb) = 3) && ((s.ctrl (s.get (R.TKB_MB_ID mb))).map (·.member)).getD false

/-- PEER_HELLO: a member's identity and capabilities are noted, and this drive's own answered (R340). -/
def peerHello (rq : ReqId) (s : State) : State :=
  s.serve rq 0x0A04 fun r b t =>
    if !t.fromMember r.mb then (t, rsp 0x0007)
    else match Config.helloRead b with
      | none => (t, rsp 0x0009)
      | some x =>
        let same := decide (x.1 = getBytes t.group 0 16)
        let upd (p : Peer) : Peer :=
          if p.serial = x.2.1 then
            { p with epoch := x.2.2.1, kMax := x.2.2.2.1, mMax := x.2.2.2.2.1, fMax := x.2.2.2.2.2, heard := true,
                     cntlid := t.get (R.TKB_MB_ID r.mb) }
          else p
        let u := if same then State.showGroup { t with members := t.members.map upd } else t
        (u, rspOk (Config.helloForm (getBytes t.group 0 16) serial (t.get V.pwkEpoch) 28 4 4))

/-- ADOPT: the rebuild of a lost coordinator's index starts (R342). -/
def adoptCmd (rq : ReqId) (s : State) : State :=
  s.serve rq 0x0A05 fun _ b t => sized 20 b t fun t =>
    if !t.on R.PWK_CTL_ACT then (t, rsp 0x000A)
    else if t.peerAdopt.contains b then (t, rsp 0x000F)
    else ({ t with peerAdopt := t.peerAdopt ++ [b] }, rsp 0)

/-! ## Notification (R363 to R369) -/

/-- SRC_ROUTE; a host agent names its own agent alone (R369). -/
def srcRoute (rq : ReqId) (s : State) : State :=
  s.serve rq 0x0C00 fun r b t => sized 8 b t fun t =>
    let i := fieldAt b 0 2
    let ag := fieldAt b 2 1
    if 512 ≤ i ∨ 64 ≤ ag ∨ 64 ≤ fieldAt b 3 1 ∨ 1 < fieldAt b 4 1 ∨ fieldAt b 5 3 ≠ 0 ∨ (10 ≤ r.mb ∧ ag ≠ r.mb) then (t, rsp 0x0009)
    else stRsp (t.srcWrite i ag (fieldAt b 3 1) (decide (fieldAt b 4 1 = 1)) r.auth)

/-- SRC_READ. -/
def srcRead (rq : ReqId) (s : State) : State :=
  s.serve rq 0x0C01 fun _ b t => sized 2 b t fun t =>
    if 512 ≤ fieldAt b 0 2 then (t, rsp 0x0009) else (t, rspOk (leBytes 4 (t.srcEntry (fieldAt b 0 2))))

/-- DOORBELL. -/
def doorbellCmd (rq : ReqId) (s : State) : State :=
  s.serve rq 0x0C02 fun _ b t => sized 1 b t fun t =>
    if 64 ≤ fieldAt b 0 1 then (t, rsp 0x0009) else (t.fire (fieldAt b 0 1) 1 none, rsp 0)

/-- SOFT_SOURCE. -/
def softSourceCmd (rq : ReqId) (s : State) : State :=
  s.serve rq 0x0C03 fun _ b t => sized 2 b t fun t =>
    if 16 ≤ fieldAt b 0 1 ∨ 1 < fieldAt b 1 1 then (t, rsp 0x0009)
    else (t.softSource (fieldAt b 0 1) (decide (fieldAt b 1 1 = 1)), rsp 0)

/-- BANK_CLAIM. -/
def bankClaim (rq : ReqId) (s : State) : State :=
  s.serve rq 0x0C04 fun r b t => sized 8 b t fun t =>
    ((t.claimMask r.mb 0 (fieldAt b 0 4)).claimMask r.mb 32 (fieldAt b 4 4), rsp 0)

/-- BANK_DONE. -/
def bankDone (rq : ReqId) (s : State) : State :=
  s.serve rq 0x0C05 fun r b t => sized 8 b t fun t =>
    ((t.doneMask r.mb 0 (fieldAt b 0 4)).doneMask r.mb 32 (fieldAt b 4 4), rsp 0)

/-! ## Commands -/

/-- Meaning of IDENTIFY (R378). -/
def execIdentify (rq : ReqId) (s : State) : Host.Outcome State Fault Refusal :=
  .next (identifyCmd rq s)

/-- Meaning of GET_NONCE (R358). -/
def execGetNonce (rq : ReqId) (nonce : BitVec 256) (s : State) : Host.Outcome State Fault Refusal :=
  .next (getNonce rq nonce s)

/-- Meaning of INVENTORY (R379). -/
def execInventory (rq : ReqId) (s : State) : Host.Outcome State Fault Refusal :=
  .next (inventoryCmd rq s)

/-- Meaning of COUNTERS (R378). -/
def execCounters (rq : ReqId) (s : State) : Host.Outcome State Fault Refusal :=
  .next (countersCmd rq s)

/-- Meaning of CLEAR_XTAL (R378). -/
def execClearXtal (rq : ReqId) (s : State) : Host.Outcome State Fault Refusal :=
  .next (clearXtal rq s)

/-- Meaning of OPTION_READ (R378). -/
def execOptionRead (rq : ReqId) (s : State) : Host.Outcome State Fault Refusal :=
  .next (optionRead rq s)

/-- Meaning of OPTION_WRITE (R416). -/
def execOptionWrite (rq : ReqId) (ok1 ok2 : Bool) (s : State) : Host.Outcome State Fault Refusal :=
  .next (optionWrite rq ok1 ok2 s)

/-- Meaning of KEY_REGISTER (R377). -/
def execKeyRegister (rq : ReqId) (ok1 ok2 : Bool) (s : State) : Host.Outcome State Fault Refusal :=
  .next (keyRegister rq ok1 ok2 s)

/-- Meaning of SET_BUDGET (R387). -/
def execSetBudget (rq : ReqId) (s : State) : Host.Outcome State Fault Refusal :=
  .next (setBudgetCmd rq s)

/-- Meaning of GET_BUDGET (R387). -/
def execGetBudget (rq : ReqId) (s : State) : Host.Outcome State Fault Refusal :=
  .next (getBudgetCmd rq s)

/-- Meaning of SPIN_SLOT (R388). -/
def execSpinSlot (rq : ReqId) (s : State) : Host.Outcome State Fault Refusal :=
  .next (spinSlot rq s)

/-- Meaning of SPIN_STATUS (R388). -/
def execSpinStatus (rq : ReqId) (s : State) : Host.Outcome State Fault Refusal :=
  .next (spinStatus rq s)

/-- Meaning of THERMAL_READ (R378). -/
def execThermalRead (rq : ReqId) (s : State) : Host.Outcome State Fault Refusal :=
  .next (thermalRead rq s)

/-- Meaning of CLEAR_SUSPECT (R378). -/
def execClearSuspect (rq : ReqId) (s : State) : Host.Outcome State Fault Refusal :=
  .next (clearSuspectCmd rq s)

/-- Meaning of TRIM_READ (R378). -/
def execTrimRead (rq : ReqId) (s : State) : Host.Outcome State Fault Refusal :=
  .next (trimRead rq s)

/-- Meaning of TRIM_WRITE (R451). -/
def execTrimWrite (rq : ReqId) (s : State) : Host.Outcome State Fault Refusal :=
  .next (trimWrite rq s)

/-- Meaning of TABLE_READ (R378). -/
def execTableRead (rq : ReqId) (s : State) : Host.Outcome State Fault Refusal :=
  .next (tableRead rq s)

/-- Meaning of TABLE_WRITE (R378). -/
def execTableWrite (rq : ReqId) (s : State) : Host.Outcome State Fault Refusal :=
  .next (tableWrite rq s)

/-- Meaning of TAILOR_SAVE (R451). -/
def execTailorSave (rq : ReqId) (ok : Bool) (s : State) : Host.Outcome State Fault Refusal :=
  .next (tailorSave rq ok s)

/-- Meaning of CERT_READ (R454). -/
def execCertRead (rq : ReqId) (s : State) : Host.Outcome State Fault Refusal :=
  .next (certRead rq s)

/-- Meaning of AGEING_READ (R458). -/
def execAgeingRead (rq : ReqId) (s : State) : Host.Outcome State Fault Refusal :=
  .next (ageingRead rq s)

/-- Meaning of MARGIN_READ (R460). -/
def execMarginRead (rq : ReqId) (s : State) : Host.Outcome State Fault Refusal :=
  .next (marginRead rq s)

/-- Meaning of MEASURE_NOW (R456). -/
def execMeasureNow (rq : ReqId) (s : State) : Host.Outcome State Fault Refusal :=
  .next (measureNow rq s)

/-- Meaning of PBL_READ (R476). -/
def execPblRead (rq : ReqId) (s : State) : Host.Outcome State Fault Refusal :=
  .next (pblRead rq s)

/-- Meaning of PBL_STATUS (R476). -/
def execPblStatus (rq : ReqId) (s : State) : Host.Outcome State Fault Refusal :=
  .next (pblStatus rq s)

/-- Meaning of PBL_CLEAR (R477). -/
def execPblClear (rq : ReqId) (ok : Bool) (s : State) : Host.Outcome State Fault Refusal :=
  .next (pblClearCmd rq ok s)

/-- Meaning of FW_DOWNLOAD (R420). -/
def execFwDownload (rq : ReqId) (ok : Bool) (s : State) : Host.Outcome State Fault Refusal :=
  .next (fwDownloadCmd rq ok s)

/-- Meaning of FW_COMMIT (R421). -/
def execFwCommit (rq : ReqId) (ok : Bool) (s : State) : Host.Outcome State Fault Refusal :=
  .next (fwCommitCmd rq ok s)

/-- Meaning of FW_STATUS (R420). -/
def execFwStatus (rq : ReqId) (s : State) : Host.Outcome State Fault Refusal :=
  .next (fwStatus rq s)

/-- Meaning of FLASH_STATUS (R408). -/
def execFlashStatus (rq : ReqId) (s : State) : Host.Outcome State Fault Refusal :=
  .next (flashStatus rq s)

/-- Meaning of PLACEMENT_SET (R247). -/
def execPlacementSet (rq : ReqId) (s : State) : Host.Outcome State Fault Refusal :=
  .next (placementSet rq s)

/-- Meaning of PLACEMENT_GET (R378). -/
def execPlacementGet (rq : ReqId) (s : State) : Host.Outcome State Fault Refusal :=
  .next (placementGet rq s)

/-- Meaning of BAND_INFO (R378). -/
def execBandInfo (rq : ReqId) (s : State) : Host.Outcome State Fault Refusal :=
  .next (bandInfo rq s)

/-- Meaning of POOL_INFO (R378). -/
def execPoolInfo (rq : ReqId) (s : State) : Host.Outcome State Fault Refusal :=
  .next (poolInfo rq s)

/-- Meaning of ALT_QUEUE (R378). -/
def execAltQueue (rq : ReqId) (s : State) : Host.Outcome State Fault Refusal :=
  .next (altQueue rq s)

/-- Meaning of DEFAULTS_SET (R326). -/
def execDefaultsSet (rq : ReqId) (s : State) : Host.Outcome State Fault Refusal :=
  .next (defaultsSet rq s)

/-- Meaning of DEFAULTS_GET (R378). -/
def execDefaultsGet (rq : ReqId) (s : State) : Host.Outcome State Fault Refusal :=
  .next (defaultsGet rq s)

/-- Meaning of GROUP_SET (R338). -/
def execGroupSet (rq : ReqId) (s : State) : Host.Outcome State Fault Refusal :=
  .next (groupSet rq s)

/-- Meaning of GROUP_STATUS (R378). -/
def execGroupStatus (rq : ReqId) (s : State) : Host.Outcome State Fault Refusal :=
  .next (groupStatus rq s)

/-- Meaning of PEER_HELLO (R340). -/
def execPeerHello (rq : ReqId) (s : State) : Host.Outcome State Fault Refusal :=
  .next (peerHello rq s)

/-- Meaning of ADOPT (R342). -/
def execAdopt (rq : ReqId) (s : State) : Host.Outcome State Fault Refusal :=
  .next (adoptCmd rq s)

/-- Meaning of SRC_ROUTE (R369). -/
def execSrcRoute (rq : ReqId) (s : State) : Host.Outcome State Fault Refusal :=
  .next (srcRoute rq s)

/-- Meaning of SRC_READ (R378). -/
def execSrcRead (rq : ReqId) (s : State) : Host.Outcome State Fault Refusal :=
  .next (srcRead rq s)

/-- Meaning of DOORBELL (R363). -/
def execDoorbell (rq : ReqId) (s : State) : Host.Outcome State Fault Refusal :=
  .next (doorbellCmd rq s)

/-- Meaning of SOFT_SOURCE (R367). -/
def execSoftSource (rq : ReqId) (s : State) : Host.Outcome State Fault Refusal :=
  .next (softSourceCmd rq s)

/-- Meaning of BANK_CLAIM (R364). -/
def execBankClaim (rq : ReqId) (s : State) : Host.Outcome State Fault Refusal :=
  .next (bankClaim rq s)

/-- Meaning of BANK_DONE (R364). -/
def execBankDone (rq : ReqId) (s : State) : Host.Outcome State Fault Refusal :=
  .next (bankDone rq s)

end Sys2Proof.Machine
end

