-- ==== Sys2Proof/Machine/Sideshow.lean ====
section
/-!
DEFINITION. The task-register port (chapter "Sideshow task-register port", R498 to R506): SPI frames, the window, one
request at a time.
-/

namespace Sys2Proof.Machine

/-- A frame is ignored before step 3 of the start order, and in PS5, where it wakes the device (R498). -/
def State.sdsDeaf (s : State) : Bool :=
  decide (s.get R.CVN_STAT_PS = 5) || decide (inR 1 2 (s.get R.RMC_STAT_STEP) = true) || !bitOf (s.get R.CVN_STAT_PWR_EN) 2

/-- A protocol error at the port (R502). -/
def State.sdsProto (s : State) (off : Nat) : State :=
  ((s.evt R.SDS_EVT_PROTO).count R.SDS_CNT_PROTO).post 0x1A 0x10 warning noInst [s.get R.SDS_STAT_STATE, off]

/-- `GO`: the request in the window is accepted or refused (R500). -/
def State.sdsGo (s : State) : State :=
  if s.on R.SDS_STAT_STATE then s.sdsProto 0
  else
    let raw := s.bytes 0x1A 0 0x8000 (Nat.min 32768 (s.get R.SDS_LEN_LEN))
    let r := (s.put R.SDS_STAT_STATE 1).accept (some 8) 32704 32704 raw
    if r.2 = 0 then r.1 else r.1.puts [(R.SDS_STAT_STATE, 3), (R.SDS_STAT_ACC_STATUS, r.2)]

/-- `ACK`: the response leaves the mailbox, or a refusal is taken note of (R500). -/
def State.sdsAck (s : State) : State :=
  match s.get R.SDS_STAT_STATE with
  | 2 => (s.forAll (s.outst 8) fun r t => t.when r.ready.isSome fun u => u.dropReq r).put R.SDS_STAT_STATE 0
  | 3 => s.puts [(R.SDS_STAT_STATE, 0), (R.SDS_STAT_ACC_STATUS, 0)]
  | _ => s.sdsProto 0

/-- A whole word written at an aligned offset; `hw` are the event bits the hardware sets in the same cycle (R18, R498, R502,
R505). -/
def State.sdsWord (s : State) (off v hw : Nat) : State :=
  if 0x8000 ≤ off then
    (if s.get R.SDS_STAT_STATE = 1 ∨ s.get R.SDS_STAT_STATE = 2 then s.sdsProto off else s.putWin 0x1A 0 off (leBytes 4 v))
  else if off = 0 then
    let t := s.put R.SDS_CTL_ATTN_EN (v / 4)
    let t := t.when (bitOf v 1) State.sdsAck
    t.when (bitOf v 0) State.sdsGo
  else if off = 0x28 ∨ off = 0x2C then s.claimMask 8 (if off = 0x2C then 32 else 0) v
  else if off = 0x30 ∨ off = 0x34 then s.doneMask 8 (if off = 0x34 then 32 else 0) v
  else if isCounter 0x1A off then (if bitOf v 31 then s.counterClear ⟨0x1A, 0, off, 0, 16, 0⟩ 0 else s)
  else s.putWord 0x1A 0 off v hw []

/-- The whole words of a run of data bytes from an offset; a word left incomplete is discarded. -/
def State.sdsWords (s : State) (hw : List (BitVec 32)) (off : Nat) : List Byte → State
  | b0 :: b1 :: b2 :: b3 :: l =>
    (s.sdsWord off (leNat [b0, b1, b2, b3]) (hw.headD 0).toNat).sdsWords hw.tail (off + 4) l
  | _ => s

/-- SPI_WRITE_FRAME: the bytes of a frame, and for each of its words the event bits set in the same cycle. Bytes beyond offset 0xFFFF reach nothing. -/
def spiWriteFrame (raw : List Byte) (hw : List (BitVec 32)) (s : State) : State :=
  if s.sdsDeaf ∨ fieldAt raw 0 1 ≠ 2 ∨ raw.length < 4 then s
  else
    let off := 256 * fieldAt raw 1 1 + fieldAt raw 2 1
    let skip := (4 - off % 4) % 4
    s.sdsWords hw (off + skip) (((raw.drop 3).take (65536 - off)).drop skip)

/-- A byte as a read frame returns it (R498, R502, R505). -/
def State.sdsByte (s : State) (off : Nat) : Byte :=
  if 0x8000 ≤ off then (if s.get R.SDS_STAT_STATE = 1 then 0 else s.byte 0x1A 0 off)
  else if (regRows 0x1A).any fun r => r.covers (off - off % 4) then
    BitVec.ofNat 8 (s.word 0x1A 0 (off - off % 4) / 256 ^ (off % 4))
  else 0

/-- SPI_READ_FRAME: the data bytes of a frame that reads from an offset; the turnaround byte is undefined. -/
def spiReadFrame (off : BitVec 16) (n : BitVec 17) (s : State) : State :=
  if s.sdsDeaf then { s with miso := none }
  else { s with miso := some ((List.range (Nat.min n.toNat (65536 - off.toNat))).map fun i => s.sdsByte (off.toNat + i)) }

/-- `SS_ATTN_N` is low (R501). -/
def State.attnLow (s : State) : Bool :=
  s.on R.SDS_CTL_ATTN_EN && (decide (2 ≤ s.get R.SDS_STAT_STATE) || s.bankPending 8)

/-- `ALERT_N` is low in SMBus mode: bank 9 holds a PENDING bit or a response of mailbox 9 is ready (R351). -/
def State.alertLow (s : State) : Bool := s.bankPending 9 || s.reqs.any fun r => decide (r.mb = 9) && r.ready.isSome

/-- `FAULT_N` is low: the safety monitor has taken over, a thermal shutdown is in force, or boot ROM serves alone (R510). -/
def State.faultLow (s : State) : Bool := s.on R.STM_STAT_SM_ACTIVE || s.on V.pslOff || s.on V.romServe

/-- `ACT_LED_N` is low: an actuator runs a media operation (R510). -/
def State.ledLow (s : State) : Bool := s.jact.any fun e => e.2.isSome

/-- SDS_GO. -/
def sdsGoCmd (s : State) : State := s.sdsGo
/-- SDS_ACK. -/
def sdsAckCmd (s : State) : State := s.sdsAck
/-- SDS_CLAIM. -/
def sdsClaim (hi : Bool) (v : BitVec 32) (s : State) : State := s.claimMask 8 (if hi then 32 else 0) v.toNat
/-- SDS_DONE. -/
def sdsDone (hi : Bool) (v : BitVec 32) (s : State) : State := s.doneMask 8 (if hi then 32 else 0) v.toNat

/-! ## Commands -/

/-- Meaning of SPI_WRITE_FRAME (R498). -/
def execSpiWriteFrame (raw : List Byte) (hw : List (BitVec 32)) (s : State) : Host.Outcome State Fault Refusal :=
  .next (spiWriteFrame raw hw s)

/-- Meaning of SPI_READ_FRAME (R498). -/
def execSpiReadFrame (off : BitVec 16) (n : BitVec 17) (s : State) : Host.Outcome State Fault Refusal :=
  .next (spiReadFrame off n s)

/-- Meaning of SDS_GO (R500). -/
def execSdsGo (s : State) : Host.Outcome State Fault Refusal :=
  .next (sdsGoCmd s)

/-- Meaning of SDS_ACK (R500). -/
def execSdsAck (s : State) : Host.Outcome State Fault Refusal :=
  .next (sdsAckCmd s)

/-- Meaning of SDS_CLAIM (R501). -/
def execSdsClaim (hi : Bool) (v : BitVec 32) (s : State) : Host.Outcome State Fault Refusal :=
  .next (sdsClaim hi v s)

/-- Meaning of SDS_DONE (R501). -/
def execSdsDone (hi : Bool) (v : BitVec 32) (s : State) : Host.Outcome State Fault Refusal :=
  .next (sdsDone hi v s)

end Sys2Proof.Machine
end

