-- ==== Sys2Proof/Machine/Dispatch.lean ====
section
/-!
DEFINITION. Which meaning each command has: one arm per row of the opcode table.
-/

namespace Sys2Proof.Machine

/-- The meaning of a command on everything but the queue. -/
def exec (i : Instr) (s : State) : Host.Outcome State Fault Refusal :=
  match i with
  | .powerOnReset => Sys2Proof.Machine.execPowerOnReset s
  | .vin5Loss => Sys2Proof.Machine.execVin5Loss s
  | .railLossReset => Sys2Proof.Machine.execRailLossReset s
  | .firmwareReset => Sys2Proof.Machine.execFirmwareReset s
  | .ringmasterRestart => Sys2Proof.Machine.execRingmasterRestart s
  | .dieLinkFrame f => Sys2Proof.Machine.execDieLinkFrame f s
  | .heartbeatAdvance => Sys2Proof.Machine.execHeartbeatAdvance s
  | .heartbeatMiss atStrongman => Sys2Proof.Machine.execHeartbeatMiss atStrongman s
  | .xtalFail n => Sys2Proof.Machine.execXtalFail n s
  | .xtalRecover => Sys2Proof.Machine.execXtalRecover s
  | .readOpStart a => Sys2Proof.Machine.execReadOpStart a s
  | .preambleAcquire a sidx lock adapt => Sys2Proof.Machine.execPreambleAcquire a sidx lock adapt s
  | .acquisitionFailure a => Sys2Proof.Machine.execAcquisitionFailure a s
  | .syncFraming a sm1 sm2 => Sys2Proof.Machine.execSyncFraming a sm1 sm2 s
  | .fsmSearch a fsm => Sys2Proof.Machine.execFsmSearch a fsm s
  | .defectSpan a cls r0 r1 start len => Sys2Proof.Machine.execDefectSpan a cls r0 r1 start len s
  | .sectorSamplesDone a samples => Sys2Proof.Machine.execSectorSamplesDone a samples s
  | .ldpcConverge a word => Sys2Proof.Machine.execLdpcConverge a word s
  | .ldpcWindowEnd a => Sys2Proof.Machine.execLdpcWindowEnd a s
  | .retryRung a recovered => Sys2Proof.Machine.execRetryRung a recovered s
  | .retryTimeLimit a => Sys2Proof.Machine.execRetryTimeLimit a s
  | .outerCodeRebuild a reads => Sys2Proof.Machine.execOuterCodeRebuild a reads s
  | .chnEnable a => Sys2Proof.Machine.execChnEnable a s
  | .rdAbort a => Sys2Proof.Machine.execRdAbort a s
  | .replayHold a v => Sys2Proof.Machine.execReplayHold a v s
  | .counterClear blk inst off n => Sys2Proof.Machine.execCounterClear blk inst off n s
  | .lanyardGateFrame a code => Sys2Proof.Machine.execLanyardGateFrame a code s
  | .lanyardRegWrite a hsel addr data err ret => Sys2Proof.Machine.execLanyardRegWrite a hsel addr data err ret s
  | .lanyardRegRead a hsel addr err ret => Sys2Proof.Machine.execLanyardRegRead a hsel addr err ret s
  | .sptEnable a => Sys2Proof.Machine.execSptEnable a s
  | .enumerationComplete a paId paCap loads flex => Sys2Proof.Machine.execEnumerationComplete a paId paCap loads flex s
  | .preampFault a status stays latch => Sys2Proof.Machine.execPreampFault a status stays latch s
  | .wrInh a v => Sys2Proof.Machine.execWrInh a v s
  | .hdwpClear a mask hw => Sys2Proof.Machine.execHdwpClear a mask hw s
  | .preheatDone a => Sys2Proof.Machine.execPreheatDone a s
  | .touchdownGo h => Sys2Proof.Machine.execTouchdownGo h s
  | .touchdownDwellEnd energy offTrack => Sys2Proof.Machine.execTouchdownDwellEnd energy offTrack s
  | .touchdownAbort => Sys2Proof.Machine.execTouchdownAbort s
  | .loadMeasureGo a kind l => Sys2Proof.Machine.execLoadMeasureGo a kind l s
  | .loadMeasureDone a res0 res1 => Sys2Proof.Machine.execLoadMeasureDone a res0 res1 s
  | .tfhEnable => Sys2Proof.Machine.execTfhEnable s
  | .seqEnable a crcPass => Sys2Proof.Machine.execSeqEnable a crcPass s
  | .routineStart a id flip kind => Sys2Proof.Machine.execRoutineStart a id flip kind s
  | .barkerNop a flip now => Sys2Proof.Machine.execBarkerNop a flip now s
  | .barkerJmp a flip now => Sys2Proof.Machine.execBarkerJmp a flip now s
  | .barkerBr a flip now => Sys2Proof.Machine.execBarkerBr a flip now s
  | .barkerCall a flip now => Sys2Proof.Machine.execBarkerCall a flip now s
  | .barkerRet a flip now => Sys2Proof.Machine.execBarkerRet a flip now s
  | .barkerWait a flip now => Sys2Proof.Machine.execBarkerWait a flip now s
  | .barkerLoad a flip now => Sys2Proof.Machine.execBarkerLoad a flip now s
  | .barkerAdd a flip now => Sys2Proof.Machine.execBarkerAdd a flip now s
  | .barkerEnd a flip now => Sys2Proof.Machine.execBarkerEnd a flip now s
  | .barkerWaitMet a now => Sys2Proof.Machine.execBarkerWaitMet a now s
  | .barkerWaitTimeout a now => Sys2Proof.Machine.execBarkerWaitTimeout a now s
  | .jobRestart a => Sys2Proof.Machine.execJobRestart a s
  | .seqMchkRecovery a crcPass => Sys2Proof.Machine.execSeqMchkRecovery a crcPass s
  | .seqScrubPass a flips reloaded => Sys2Proof.Machine.execSeqScrubPass a flips reloaded s
  | .servoWedge a w => Sys2Proof.Machine.execServoWedge a w s
  | .samPredicted a w => Sys2Proof.Machine.execSamPredicted a w s
  | .seekStart a track => Sys2Proof.Machine.execSeekStart a track s
  | .seekTimeout a => Sys2Proof.Machine.execSeekTimeout a s
  | .loadRequest a => Sys2Proof.Machine.execLoadRequest a s
  | .loadDeferredStart a => Sys2Proof.Machine.execLoadDeferredStart a s
  | .loadingOffRamp a => Sys2Proof.Machine.execLoadingOffRamp a s
  | .acquireTimeout a => Sys2Proof.Machine.execAcquireTimeout a s
  | .holdRelockTimeout a => Sys2Proof.Machine.execHoldRelockTimeout a s
  | .loadRetry a => Sys2Proof.Machine.execLoadRetry a s
  | .unloadRequest a soon => Sys2Proof.Machine.execUnloadRequest a soon s
  | .headsOnRamp a => Sys2Proof.Machine.execHeadsOnRamp a s
  | .maStrokeMeasure a measured => Sys2Proof.Machine.execMaStrokeMeasure a measured s
  | .mediaWedgeMissing => Sys2Proof.Machine.execMediaWedgeMissing s
  | .srvEnable a => Sys2Proof.Machine.execSrvEnable a s
  | .srvOfsWrite a v => Sys2Proof.Machine.execSrvOfsWrite a v s
  | .trzEnable crcPass => Sys2Proof.Machine.execTrzEnable crcPass s
  | .trzNop flip => Sys2Proof.Machine.execTrzNop flip s
  | .trzJmp flip => Sys2Proof.Machine.execTrzJmp flip s
  | .trzBr flip => Sys2Proof.Machine.execTrzBr flip s
  | .trzCall flip => Sys2Proof.Machine.execTrzCall flip s
  | .trzRet flip => Sys2Proof.Machine.execTrzRet flip s
  | .trzWait flip => Sys2Proof.Machine.execTrzWait flip s
  | .trzLd flip => Sys2Proof.Machine.execTrzLd flip s
  | .trzMov flip => Sys2Proof.Machine.execTrzMov flip s
  | .trzAdd flip => Sys2Proof.Machine.execTrzAdd flip s
  | .trzSub flip => Sys2Proof.Machine.execTrzSub flip s
  | .trzMul flip => Sys2Proof.Machine.execTrzMul flip s
  | .trzMac flip => Sys2Proof.Machine.execTrzMac flip s
  | .trzAccout flip => Sys2Proof.Machine.execTrzAccout flip s
  | .trzClracc flip => Sys2Proof.Machine.execTrzClracc flip s
  | .trzMin flip => Sys2Proof.Machine.execTrzMin flip s
  | .trzMax flip => Sys2Proof.Machine.execTrzMax flip s
  | .trzLut flip => Sys2Proof.Machine.execTrzLut flip s
  | .trzCmp flip => Sys2Proof.Machine.execTrzCmp flip s
  | .trzEnd flip => Sys2Proof.Machine.execTrzEnd flip s
  | .trzWaitMet => Sys2Proof.Machine.execTrzWaitMet s
  | .trzWaitTimeout => Sys2Proof.Machine.execTrzWaitTimeout s
  | .lutReady => Sys2Proof.Machine.execLutReady s
  | .loopDispatch whole => Sys2Proof.Machine.execLoopDispatch whole s
  | .loopDeadlineMiss n => Sys2Proof.Machine.execLoopDeadlineMiss n s
  | .trzScrubError addr flip => Sys2Proof.Machine.execTrzScrubError addr flip s
  | .trzScrubRewriteDone => Sys2Proof.Machine.execTrzScrubRewriteDone s
  | .trzMchkReload crcPass => Sys2Proof.Machine.execTrzMchkReload crcPass s
  | .crlEnable resOk => Sys2Proof.Machine.execCrlEnable resOk s
  | .spOvr ovr req => Sys2Proof.Machine.execSpOvr ovr req s
  | .pwmPeriod o => Sys2Proof.Machine.execPwmPeriod o s
  | .sensePulse peak => Sys2Proof.Machine.execSensePulse peak s
  | .alignEnd => Sys2Proof.Machine.execAlignEnd s
  | .startAttemptFail top => Sys2Proof.Machine.execStartAttemptFail top s
  | .shortTimerEnd => Sys2Proof.Machine.execShortTimerEnd s
  | .zeroCrossing interval sector => Sys2Proof.Machine.execZeroCrossing interval sector s
  | .shortQuietEnd => Sys2Proof.Machine.execShortQuietEnd s
  | .catchTimeout peak => Sys2Proof.Machine.execCatchTimeout peak s
  | .catchRetry peak => Sys2Proof.Machine.execCatchRetry peak s
  | .setpointApply => Sys2Proof.Machine.execSetpointApply s
  | .ovRecovery => Sys2Proof.Machine.execOvRecovery s
  | .supplySample vin12 vin5 => Sys2Proof.Machine.execSupplySample vin12 vin5 s
  | .chopperFail current => Sys2Proof.Machine.execChopperFail current s
  | .spindleOvercurrent current => Sys2Proof.Machine.execSpindleOvercurrent current s
  | .vcmOvercurrent a current => Sys2Proof.Machine.execVcmOvercurrent a current s
  | .vcmTripReopen a => Sys2Proof.Machine.execVcmTripReopen a s
  | .maCurrentLimit a => Sys2Proof.Machine.execMaCurrentLimit a s
  | .maOffClear mask hw => Sys2Proof.Machine.execMaOffClear mask hw s
  | .stopWireAssert cause => Sys2Proof.Machine.execStopWireAssert cause s
  | .retractParked a => Sys2Proof.Machine.execRetractParked a s
  | .retractParkHoldEnd a => Sys2Proof.Machine.execRetractParkHoldEnd a s
  | .retractTimeout a => Sys2Proof.Machine.execRetractTimeout a s
  | .retractPushEnd a => Sys2Proof.Machine.execRetractPushEnd a s
  | .startRequest a => Sys2Proof.Machine.execStartRequest a s
  | .autonomousBrake => Sys2Proof.Machine.execAutonomousBrake s
  | .stmResume => Sys2Proof.Machine.execStmResume s
  | .stmEnable pulse => Sys2Proof.Machine.execStmEnable pulse s
  | .safetyMonitorTick => Sys2Proof.Machine.execSafetyMonitorTick s
  | .safetyMonitorTakeover age => Sys2Proof.Machine.execSafetyMonitorTakeover age s
  | .smOvervoltage => Sys2Proof.Machine.execSmOvervoltage s
  | .windingMeasureGo kind a => Sys2Proof.Machine.execWindingMeasureGo kind a s
  | .windingMeasureDone value => Sys2Proof.Machine.execWindingMeasureDone value s
  | .mmgEnable => Sys2Proof.Machine.execMmgEnable s
  | .fmtCommit => Sys2Proof.Machine.execFmtCommit s
  | .durablePointStands a copy => Sys2Proof.Machine.execDurablePointStands a copy s
  | .durableTimer => Sys2Proof.Machine.execDurableTimer s
  | .alterationDemand h z dc hours => Sys2Proof.Machine.execAlterationDemand h z dc hours s
  | .relayStep a bad ok => Sys2Proof.Machine.execRelayStep a bad ok s
  | .reclaimStep a ok share => Sys2Proof.Machine.execReclaimStep a ok share s
  | .overwriteStep a ok share => Sys2Proof.Machine.execOverwriteStep a ok share s
  | .connect cid qid cntlid entries noFlow kato hostId hostNqn member conn => Sys2Proof.Machine.execConnect cid qid cntlid entries noFlow kato hostId hostNqn member conn s
  | .disconnect c => Sys2Proof.Machine.execDisconnect c s
  | .controllerReset c => Sys2Proof.Machine.execControllerReset c s
  | .katoExpiry c => Sys2Proof.Machine.execKatoExpiry c s
  | .nvmeIdentify id cns csi nsid => Sys2Proof.Machine.execNvmeIdentify id cns csi nsid s
  | .getLogPage id lid nsid => Sys2Proof.Machine.execGetLogPage id lid nsid s
  | .getFeatures id fid nsid dw11 => Sys2Proof.Machine.execGetFeatures id fid nsid dw11 s
  | .arbitration id ab => Sys2Proof.Machine.execArbitration id ab s
  | .powerManagement id ps => Sys2Proof.Machine.execPowerManagement id ps s
  | .temperatureThreshold id tmpsel under kelvin => Sys2Proof.Machine.execTemperatureThreshold id tmpsel under kelvin s
  | .volatileWriteCache id wce => Sys2Proof.Machine.execVolatileWriteCache id wce s
  | .numberOfQueues id nsq ncq => Sys2Proof.Machine.execNumberOfQueues id nsq ncq s
  | .asynchronousEventConfiguration id v => Sys2Proof.Machine.execAsynchronousEventConfiguration id v s
  | .keepAliveTimer id kato => Sys2Proof.Machine.execKeepAliveTimer id kato s
  | .hostIdentifier id exhid v => Sys2Proof.Machine.execHostIdentifier id exhid v s
  | .latencyBudget id nsid us => Sys2Proof.Machine.execLatencyBudget id nsid us s
  | .abort id sqid cid inQueue => Sys2Proof.Machine.execAbort id sqid cid inQueue s
  | .asynchronousEventRequest id => Sys2Proof.Machine.execAsynchronousEventRequest id s
  | .namespaceCreate id csi nsze ncap lbaf pi => Sys2Proof.Machine.execNamespaceCreate id csi nsze ncap lbaf pi s
  | .namespaceDelete id nsid => Sys2Proof.Machine.execNamespaceDelete id nsid s
  | .namespaceAttachment id nsid attach ctrls => Sys2Proof.Machine.execNamespaceAttachment id nsid attach ctrls s
  | .firmwareImageDownload id ofs data ok => Sys2Proof.Machine.execFirmwareImageDownload id ofs data ok s
  | .firmwareCommit id action slot ok => Sys2Proof.Machine.execFirmwareCommit id action slot ok s
  | .deviceSelfTest id ext nsid => Sys2Proof.Machine.execDeviceSelfTest id ext nsid s
  | .selfTestAbort id => Sys2Proof.Machine.execSelfTestAbort id s
  | .selfTestSegment ok nsid lba => Sys2Proof.Machine.execSelfTestSegment ok nsid lba s
  | .keepAlive id => Sys2Proof.Machine.execKeepAlive id s
  | .formatNvm id nsid lbaf pi ses => Sys2Proof.Machine.execFormatNvm id nsid lbaf pi ses s
  | .sanitizeCryptoErase id => Sys2Proof.Machine.execSanitizeCryptoErase id s
  | .sanitizeBlockErase id => Sys2Proof.Machine.execSanitizeBlockErase id s
  | .unsupportedOpcode id => Sys2Proof.Machine.execUnsupportedOpcode id s
  | .casgusSend id raw => Sys2Proof.Machine.execCasgusSend id raw s
  | .casgusReceive id len wait limit => Sys2Proof.Machine.execCasgusReceive id len wait limit s
  | .receiveWaitExpiry id => Sys2Proof.Machine.execReceiveWaitExpiry id s
  | .read id nsid lba nlb limited => Sys2Proof.Machine.execRead id nsid lba nlb limited s
  | .write id nsid lba data fua => Sys2Proof.Machine.execWrite id nsid lba data fua s
  | .flush id nsid => Sys2Proof.Machine.execFlush id nsid s
  | .writeZeroes id nsid lba nlb fua => Sys2Proof.Machine.execWriteZeroes id nsid lba nlb fua s
  | .datasetManagement id nsid deallocate ranges => Sys2Proof.Machine.execDatasetManagement id nsid deallocate ranges s
  | .verify id nsid lba nlb => Sys2Proof.Machine.execVerify id nsid lba nlb s
  | .zoneAppend id nsid zslba data fua => Sys2Proof.Machine.execZoneAppend id nsid zslba data fua s
  | .zoneReset id nsid slba all => Sys2Proof.Machine.execZoneReset id nsid slba all s
  | .zoneFinish id nsid slba all => Sys2Proof.Machine.execZoneFinish id nsid slba all s
  | .zoneOpen id nsid slba all => Sys2Proof.Machine.execZoneOpen id nsid slba all s
  | .zoneClose id nsid slba all => Sys2Proof.Machine.execZoneClose id nsid slba all s
  | .setZoneDescriptorExtension id nsid slba => Sys2Proof.Machine.execSetZoneDescriptorExtension id nsid slba s
  | .zoneManagementReceive id nsid slba ext => Sys2Proof.Machine.execZoneManagementReceive id nsid slba ext s
  | .store id nsid key value ifExists ifNew fua => Sys2Proof.Machine.execStore id nsid key value ifExists ifNew fua s
  | .retrieve id nsid key => Sys2Proof.Machine.execRetrieve id nsid key s
  | .kvDelete id nsid key => Sys2Proof.Machine.execKvDelete id nsid key s
  | .exist id nsid key => Sys2Proof.Machine.execExist id nsid key s
  | .list id nsid first => Sys2Proof.Machine.execList id nsid first s
  | .loadProgram id nsid slot ptype image => Sys2Proof.Machine.execLoadProgram id nsid slot ptype image s
  | .programActivationManagement id nsid slot activate => Sys2Proof.Machine.execProgramActivationManagement id nsid slot activate s
  | .executeProgram id nsid slot rset dw12 dw13 dw14 dw15 => Sys2Proof.Machine.execExecuteProgram id nsid slot rset dw12 dw13 dw14 dw15 s
  | .helperCopy core => Sys2Proof.Machine.execHelperCopy core s
  | .helperZcomp core => Sys2Proof.Machine.execHelperZcomp core s
  | .helperZdecomp core => Sys2Proof.Machine.execHelperZdecomp core s
  | .helperSha256 core => Sys2Proof.Machine.execHelperSha256 core s
  | .helperCrc32c core => Sys2Proof.Machine.execHelperCrc32c core s
  | .helperOpsec core => Sys2Proof.Machine.execHelperOpsec core s
  | .memoryRangeSetManagement id nsid create rset ranges => Sys2Proof.Machine.execMemoryRangeSetManagement id nsid create rset ranges s
  | .memoryCopy id nsid dst srcs => Sys2Proof.Machine.execMemoryCopy id nsid dst srcs s
  | .memoryRead id nsid off len => Sys2Proof.Machine.execMemoryRead id nsid off len s
  | .memoryWrite id nsid off data => Sys2Proof.Machine.execMemoryWrite id nsid off data s
  | .intakeVisit waiting full => Sys2Proof.Machine.execIntakeVisit waiting full s
  | .turnstileRelease id => Sys2Proof.Machine.execTurnstileRelease id s
  | .jugglerPick a w => Sys2Proof.Machine.execJugglerPick a w s
  | .cmdEnable => Sys2Proof.Machine.execCmdEnable s
  | .fetchHold v => Sys2Proof.Machine.execFetchHold v s
  | .hiwatClr => Sys2Proof.Machine.execHiwatClr s
  | .fabEnable refB => Sys2Proof.Machine.execFabEnable refB s
  | .portDis v => Sys2Proof.Machine.execPortDis v s
  | .linkUp p fec abilities lanes dup => Sys2Proof.Machine.execLinkUp p fec abilities lanes dup s
  | .linkDown p cause => Sys2Proof.Machine.execLinkDown p cause s
  | .failover p dup => Sys2Proof.Machine.execFailover p dup s
  | .addressAnnounce p => Sys2Proof.Machine.execAddressAnnounce p s
  | .failback p => Sys2Proof.Machine.execFailback p s
  | .dhcpLeaseLost p addr => Sys2Proof.Machine.execDhcpLeaseLost p addr s
  | .lldpReceive p chassis portId pfc => Sys2Proof.Machine.execLldpReceive p chassis portId pfc s
  | .signalDetectWake => Sys2Proof.Machine.execSignalDetectWake s
  | .truEnable defaultsOk => Sys2Proof.Machine.execTruEnable defaultsOk s
  | .pwkAct => Sys2Proof.Machine.execPwkAct s
  | .discoveryPoll log => Sys2Proof.Machine.execDiscoveryPoll log s
  | .discoveryLogPageChange log => Sys2Proof.Machine.execDiscoveryLogPageChange log s
  | .candidateAuthRetry x => Sys2Proof.Machine.execCandidateAuthRetry x s
  | .peerTimeout sn => Sys2Proof.Machine.execPeerTimeout sn s
  | .epochPropose => Sys2Proof.Machine.execEpochPropose s
  | .proposalReceive e ms => Sys2Proof.Machine.execProposalReceive e ms s
  | .proposalAckReceive e sn => Sys2Proof.Machine.execProposalAckReceive e sn s
  | .epochCommitReceive e => Sys2Proof.Machine.execEpochCommitReceive e s
  | .proposalVoid => Sys2Proof.Machine.execProposalVoid s
  | .epochRepropose => Sys2Proof.Machine.execEpochRepropose s
  | .fragmentStoreAck no frag ok => Sys2Proof.Machine.execFragmentStoreAck no frag ok s
  | .fragmentTimeout no frag bad mismatch => Sys2Proof.Machine.execFragmentTimeout no frag bad mismatch s
  | .rebuildFragment ok => Sys2Proof.Machine.execRebuildFragment ok s
  | .nvmeMiRequest raw => Sys2Proof.Machine.execNvmeMiRequest raw s
  | .nvmeMiReceive len => Sys2Proof.Machine.execNvmeMiReceive len s
  | .mctpEidReassign eid => Sys2Proof.Machine.execMctpEidReassign eid s
  | .requestStart rq => Sys2Proof.Machine.execRequestStart rq s
  | .requestComplete rq => Sys2Proof.Machine.execRequestComplete rq s
  | .requestTimeout rq => Sys2Proof.Machine.execRequestTimeout rq s
  | .sourceEdge => Sys2Proof.Machine.execSourceEdge s
  | .gpioInputChange pin level => Sys2Proof.Machine.execGpioInputChange pin level s
  | .clpClaimWrite sender bank hi v => Sys2Proof.Machine.execClpClaimWrite sender bank hi v s
  | .clpDoneWrite sender bank hi v => Sys2Proof.Machine.execClpDoneWrite sender bank hi v s
  | .clpSrcWrite src v hw => Sys2Proof.Machine.execClpSrcWrite src v hw s
  | .identify rq => Sys2Proof.Machine.execIdentify rq s
  | .getNonce rq nonce => Sys2Proof.Machine.execGetNonce rq nonce s
  | .inventory rq => Sys2Proof.Machine.execInventory rq s
  | .counters rq => Sys2Proof.Machine.execCounters rq s
  | .clearXtal rq => Sys2Proof.Machine.execClearXtal rq s
  | .optionRead rq => Sys2Proof.Machine.execOptionRead rq s
  | .optionWrite rq ok1 ok2 => Sys2Proof.Machine.execOptionWrite rq ok1 ok2 s
  | .enable rq w => Sys2Proof.Machine.execEnable rq w s
  | .enableState rq => Sys2Proof.Machine.execEnableState rq s
  | .keyRegister rq ok1 ok2 => Sys2Proof.Machine.execKeyRegister rq ok1 ok2 s
  | .setBudget rq => Sys2Proof.Machine.execSetBudget rq s
  | .getBudget rq => Sys2Proof.Machine.execGetBudget rq s
  | .spinSlot rq => Sys2Proof.Machine.execSpinSlot rq s
  | .spinStatus rq => Sys2Proof.Machine.execSpinStatus rq s
  | .thermalRead rq => Sys2Proof.Machine.execThermalRead rq s
  | .clearSuspect rq => Sys2Proof.Machine.execClearSuspect rq s
  | .trimRead rq => Sys2Proof.Machine.execTrimRead rq s
  | .trimWrite rq => Sys2Proof.Machine.execTrimWrite rq s
  | .tableRead rq => Sys2Proof.Machine.execTableRead rq s
  | .tableWrite rq => Sys2Proof.Machine.execTableWrite rq s
  | .tailorSave rq ok => Sys2Proof.Machine.execTailorSave rq ok s
  | .certRead rq => Sys2Proof.Machine.execCertRead rq s
  | .ageingRead rq => Sys2Proof.Machine.execAgeingRead rq s
  | .marginRead rq => Sys2Proof.Machine.execMarginRead rq s
  | .measureNow rq => Sys2Proof.Machine.execMeasureNow rq s
  | .pblRead rq => Sys2Proof.Machine.execPblRead rq s
  | .pblStatus rq => Sys2Proof.Machine.execPblStatus rq s
  | .pblClear rq ok => Sys2Proof.Machine.execPblClear rq ok s
  | .fwDownload rq ok => Sys2Proof.Machine.execFwDownload rq ok s
  | .fwCommit rq ok => Sys2Proof.Machine.execFwCommit rq ok s
  | .fwStatus rq => Sys2Proof.Machine.execFwStatus rq s
  | .flashStatus rq => Sys2Proof.Machine.execFlashStatus rq s
  | .placementSet rq => Sys2Proof.Machine.execPlacementSet rq s
  | .placementGet rq => Sys2Proof.Machine.execPlacementGet rq s
  | .bandInfo rq => Sys2Proof.Machine.execBandInfo rq s
  | .poolInfo rq => Sys2Proof.Machine.execPoolInfo rq s
  | .altQueue rq => Sys2Proof.Machine.execAltQueue rq s
  | .defaultsSet rq => Sys2Proof.Machine.execDefaultsSet rq s
  | .defaultsGet rq => Sys2Proof.Machine.execDefaultsGet rq s
  | .groupSet rq => Sys2Proof.Machine.execGroupSet rq s
  | .groupStatus rq => Sys2Proof.Machine.execGroupStatus rq s
  | .peerHello rq => Sys2Proof.Machine.execPeerHello rq s
  | .adopt rq => Sys2Proof.Machine.execAdopt rq s
  | .regRead rq => Sys2Proof.Machine.execRegRead rq s
  | .regWrite rq w => Sys2Proof.Machine.execRegWrite rq w s
  | .regReadBlock rq => Sys2Proof.Machine.execRegReadBlock rq s
  | .regWriteBlock rq w => Sys2Proof.Machine.execRegWriteBlock rq w s
  | .registerWrite sender blk inst off v w => Sys2Proof.Machine.execRegisterWrite sender blk inst off v w s
  | .shadowCommit a hw => Sys2Proof.Machine.execShadowCommit a hw s
  | .srcRoute rq => Sys2Proof.Machine.execSrcRoute rq s
  | .srcRead rq => Sys2Proof.Machine.execSrcRead rq s
  | .doorbell rq => Sys2Proof.Machine.execDoorbell rq s
  | .softSource rq => Sys2Proof.Machine.execSoftSource rq s
  | .bankClaim rq => Sys2Proof.Machine.execBankClaim rq s
  | .bankDone rq => Sys2Proof.Machine.execBankDone rq s
  | .hbmTrainingDone k ok channel => Sys2Proof.Machine.execHbmTrainingDone k ok channel s
  | .hbmRateWrite rate => Sys2Proof.Machine.execHbmRateWrite rate s
  | .hbmRateSwitchDone => Sys2Proof.Machine.execHbmRateSwitchDone s
  | .hbmCorrectedError k => Sys2Proof.Machine.execHbmCorrectedError k s
  | .hbmUncorrectable k adr cls blocks a entry => Sys2Proof.Machine.execHbmUncorrectable k adr cls blocks a entry s
  | .hbmPatrolScrub k corrected => Sys2Proof.Machine.execHbmPatrolScrub k corrected s
  | .selfRefreshExit => Sys2Proof.Machine.execSelfRefreshExit s
  | .pocketUncorrectable set way => Sys2Proof.Machine.execPocketUncorrectable set way s
  | .pktEnable => Sys2Proof.Machine.execPktEnable s
  | .pktDisable => Sys2Proof.Machine.execPktDisable s
  | .pktCleanDone duration => Sys2Proof.Machine.execPktCleanDone duration s
  | .pktInvalidate => Sys2Proof.Machine.execPktInvalidate s
  | .pktClean => Sys2Proof.Machine.execPktClean s
  | .pktCleanInvalidate => Sys2Proof.Machine.execPktCleanInvalidate s
  | .pktRangeDone => Sys2Proof.Machine.execPktRangeDone s
  | .pktLfsrSeed v => Sys2Proof.Machine.execPktLfsrSeed v s
  | .flashRead addr n ran => Sys2Proof.Machine.execFlashRead addr n ran s
  | .flashProgram addr data ran => Sys2Proof.Machine.execFlashProgram addr data ran s
  | .flashErase blk => Sys2Proof.Machine.execFlashErase blk s
  | .flashProgramDone b ok => Sys2Proof.Machine.execFlashProgramDone b ok s
  | .flashEraseDone b ok => Sys2Proof.Machine.execFlashEraseDone b ok s
  | .flashSuspendDue b => Sys2Proof.Machine.execFlashSuspendDue b s
  | .wdbHold m => Sys2Proof.Machine.execWdbHold m s
  | .downloadSessionTimeout => Sys2Proof.Machine.execDownloadSessionTimeout s
  | .sntEnable => Sys2Proof.Machine.execSntEnable s
  | .sntKick v => Sys2Proof.Machine.execSntKick v s
  | .stage1 ctx => Sys2Proof.Machine.execStage1 ctx s
  | .stage2 => Sys2Proof.Machine.execStage2 s
  | .opsecTick => Sys2Proof.Machine.execOpsecTick s
  | .idleTimer => Sys2Proof.Machine.execIdleTimer s
  | .wakeHoldExpiry long => Sys2Proof.Machine.execWakeHoldExpiry long s
  | .psEntryStep => Sys2Proof.Machine.execPsEntryStep s
  | .ssCsWake => Sys2Proof.Machine.execSsCsWake s
  | .sidebandWake => Sys2Proof.Machine.execSidebandWake s
  | .sensorSample sensor raw => Sys2Proof.Machine.execSensorSample sensor raw s
  | .thermalRestart => Sys2Proof.Machine.execThermalRestart s
  | .throttleStepUp die => Sys2Proof.Machine.execThrottleStepUp die s
  | .throttleStepDown die => Sys2Proof.Machine.execThrottleStepDown die s
  | .throttleAlternate => Sys2Proof.Machine.execThrottleAlternate s
  | .fabricPauseWindow => Sys2Proof.Machine.execFabricPauseWindow s
  | .ageingDue h byTb => Sys2Proof.Machine.execAgeingDue h byTb s
  | .ageingMeasureDone h r => Sys2Proof.Machine.execAgeingMeasureDone h r s
  | .verifyDue h z => Sys2Proof.Machine.execVerifyDue h z s
  | .ageingOverdue h => Sys2Proof.Machine.execAgeingOverdue h s
  | .trace steady => Sys2Proof.Machine.execTrace steady s
  | .traceDone r => Sys2Proof.Machine.execTraceDone r s
  | .eventDescriptor => Sys2Proof.Machine.execEventDescriptor s
  | .recordCloseTimer => Sys2Proof.Machine.execRecordCloseTimer s
  | .ringProgramDone ok => Sys2Proof.Machine.execRingProgramDone ok s
  | .ringBlockEraseDone ok => Sys2Proof.Machine.execRingBlockEraseDone ok s
  | .clearEraseDone ok => Sys2Proof.Machine.execClearEraseDone ok s
  | .spinPermission => Sys2Proof.Machine.execSpinPermission s
  | .spinHoldNChange level => Sys2Proof.Machine.execSpinHoldNChange level s
  | .spinBackoffEnd => Sys2Proof.Machine.execSpinBackoffEnd s
  | .spinDelayEnd => Sys2Proof.Machine.execSpinDelayEnd s
  | .sagWaitEnd => Sys2Proof.Machine.execSagWaitEnd s
  | .ioReady sysBad keyBad journalBad trialOk => Sys2Proof.Machine.execIoReady sysBad keyBad journalBad trialOk s
  | .startLate => Sys2Proof.Machine.execStartLate s
  | .spiWriteFrame raw hw => Sys2Proof.Machine.execSpiWriteFrame raw hw s
  | .spiReadFrame off n => Sys2Proof.Machine.execSpiReadFrame off n s
  | .sdsGo => Sys2Proof.Machine.execSdsGo s
  | .sdsAck => Sys2Proof.Machine.execSdsAck s
  | .sdsClaim hi v => Sys2Proof.Machine.execSdsClaim hi v s
  | .sdsDone hi v => Sys2Proof.Machine.execSdsDone hi v s
  | .preampWriteHoldEnd a flagClear => Sys2Proof.Machine.execPreampWriteHoldEnd a flagClear s
  | .autonomousSequenceEnd => Sys2Proof.Machine.execAutonomousSequenceEnd s
  | .safetyMonitorPushEnd => Sys2Proof.Machine.execSafetyMonitorPushEnd s
  | .strongmanLogicPowerLoss => Sys2Proof.Machine.execStrongmanLogicPowerLoss s
  | .negotiationFailure p abilities => Sys2Proof.Machine.execNegotiationFailure p abilities s
  | .transportConnectionFailure c qid => Sys2Proof.Machine.execTransportConnectionFailure c qid s
  | .dhcpLeaseAcquired p v6 addr conflict => Sys2Proof.Machine.execDhcpLeaseAcquired p v6 addr conflict s
  | .pwrEnStep => Sys2Proof.Machine.execPwrEnStep s

end Sys2Proof.Machine
end

