-- ==== Sys2Proof/Safety.lean ====
section
/-!
DEFINITION. What every reachable state is expected to hold: its tables are in canonical form and its registers hold values
of their width. A run in which no step faults or is refused is a safe run.
-/

namespace Sys2Proof.Machine

/-- A byte table keyed by address lists rising addresses and no byte equal to what an unlisted address reads as. -/
def bytesOk (d : Byte) (m : List (Nat × Byte)) : Bool := Tab.wf natBefore (fun _ => d) m

/-- The fields: listed in order, none at its reset value, each value within the width of its field. -/
def State.fieldsOk (s : State) : Bool :=
  Tab.wf Fld.before Fld.rst s.flds && s.flds.all fun e => decide (e.2 < 2 ^ e.1.w)

/-- The state's memories and fields are in canonical form: the blocks' windows, the option area, the Tailor store and its
working copy, flash, HBM, and the logical blocks under a durable point. -/
def State.canon (s : State) : Bool :=
  s.fieldsOk && bytesOk 0 s.win && bytesOk 0 s.opt && bytesOk 0 s.tstore && bytesOk 0 s.tsave && bytesOk 0xFF s.flash &&
    bytesOk 0 s.hbm && Tab.wf natBefore (fun _ => (0 : Block)) s.dur

/-- The sequencer of actuator `a` runs the word at its program counter, with the bits `f` flipped in it: the word is `w`, its
opcode `opc`, no check of R134 fails, a WW turn-on is in time, no abandoning event comes in its cycle and none is deferred. `v`
is the state after the word's gate, commit and signal actions (R125). -/
abbrev State.barkerRuns (s : State) (a : Nat) (opc : Nat) (f : BarkerWord) (now : BarkerNow) (w : BarkerWord) (v : State) : Prop :=
  s.seqFetches a = true ∧ w = (s.upset a (s.get (R.SEQ_STAT_PC a)) f).bword a (s.get (R.SEQ_STAT_PC a)) ∧
    bwCheck (decide (s.get (R.SEQ_STAT_STATE a) = seqIDLE)) w = 0 ∧ bwOp w = opc ∧
    (bwGate w 0 = 1 → s.wwLate a (bwImm w) now.bit = false) ∧ now.ab = 0 ∧ s.get (V.seqPend a) = 0 ∧
    v = ((s.upset a (s.get (R.SEQ_STAT_PC a)) f).setSeqr a { s.seqr a with fresh := false }).wordActs a w now

/-- Trapeze runs the word at its program counter, with the bits `f` flipped in it: the word is `w`, its opcode `opc`, no check of
R191 fails. `u` is the state with the flipped bits in the store. -/
abbrev State.trzRuns (s : State) (opc : Nat) (f w : TrzWord) (u : State) : Prop :=
  s.get R.TRZ_STAT_STATE = trzRUN ∧ s.get R.TRZ_STAT_BUSY = 1 ∧ s.get V.trzWait = 0 ∧ !s.tscrub.contains (s.get V.trzPc) ∧
    u = s.trzUpset (s.get V.trzPc) f ∧ w = u.tword (s.get V.trzPc) ∧ twCheck w = 0 ∧ twOp w = opc

/-- `t` differs from `s` in register fields, latched edges and posted descriptors alone: every table, queue, buffer and
memory is as it was. -/
def State.regsOnly (s t : State) : Prop := t = { s with flds := t.flds, edges := t.edges, inbox := t.inbox }

/-- The parts of a state beside its register fields, each named as `State` names it. -/
inductive Part where
  | win | free | edges | inbox | chn | seqs | bstore | wd | media | mcache | sysrec | pa | jq | jact | jobNo
  | opt | fmt | cmds | cmdNo | cqs | ctrls | visit | nss | zones | bands | vol | dur | wseq | points | mops
  | opid | journal | jseq | demands | test | testLog | tstore | rung6 | amps | sams | loops | tstk | tshd
  | tshr | tscrub | cstore | tmchk | cog | spn | sup | flash | blks | fops | fwait | fread | fwPend | fwErased
  | popen | pbuf | ring | ringBad | errlog | rsets | reqs | reqNo | rspNo | nonces | held | miOut | pkt | hbm
  | poison | lost | kvLog | kvDur | progs | progRuns | group | members | cands | authFail | proposal | stripes
  | stripeNo | addrs | partner | peerAdopt | loads | fwImg | tsave | tregs | tenc | senseOffs | ages | dues
  | verifs | fitFrom | slopes | asked | certs | works | altered | weakSlots | shadow | miso | pending
  deriving DecidableEq, Repr

/-- A part is the same in two states. -/
def Part.same : Part → State → State → Prop
  | .win, s, t => t.win = s.win
  | .free, s, t => t.free = s.free
  | .edges, s, t => t.edges = s.edges
  | .inbox, s, t => t.inbox = s.inbox
  | .chn, s, t => t.chn = s.chn
  | .seqs, s, t => t.seqs = s.seqs
  | .bstore, s, t => t.bstore = s.bstore
  | .wd, s, t => t.wd = s.wd
  | .media, s, t => t.media = s.media
  | .mcache, s, t => t.mcache = s.mcache
  | .sysrec, s, t => t.sysrec = s.sysrec
  | .pa, s, t => t.pa = s.pa
  | .jq, s, t => t.jq = s.jq
  | .jact, s, t => t.jact = s.jact
  | .jobNo, s, t => t.jobNo = s.jobNo
  | .opt, s, t => t.opt = s.opt
  | .fmt, s, t => t.fmt = s.fmt
  | .cmds, s, t => t.cmds = s.cmds
  | .cmdNo, s, t => t.cmdNo = s.cmdNo
  | .cqs, s, t => t.cqs = s.cqs
  | .ctrls, s, t => t.ctrls = s.ctrls
  | .visit, s, t => t.visit = s.visit
  | .nss, s, t => t.nss = s.nss
  | .zones, s, t => t.zones = s.zones
  | .bands, s, t => t.bands = s.bands
  | .vol, s, t => t.vol = s.vol
  | .dur, s, t => t.dur = s.dur
  | .wseq, s, t => t.wseq = s.wseq
  | .points, s, t => t.points = s.points
  | .mops, s, t => t.mops = s.mops
  | .opid, s, t => t.opid = s.opid
  | .journal, s, t => t.journal = s.journal
  | .jseq, s, t => t.jseq = s.jseq
  | .demands, s, t => t.demands = s.demands
  | .test, s, t => t.test = s.test
  | .testLog, s, t => t.testLog = s.testLog
  | .tstore, s, t => t.tstore = s.tstore
  | .rung6, s, t => t.rung6 = s.rung6
  | .amps, s, t => t.amps = s.amps
  | .sams, s, t => t.sams = s.sams
  | .loops, s, t => t.loops = s.loops
  | .tstk, s, t => t.tstk = s.tstk
  | .tshd, s, t => t.tshd = s.tshd
  | .tshr, s, t => t.tshr = s.tshr
  | .tscrub, s, t => t.tscrub = s.tscrub
  | .cstore, s, t => t.cstore = s.cstore
  | .tmchk, s, t => t.tmchk = s.tmchk
  | .cog, s, t => t.cog = s.cog
  | .spn, s, t => t.spn = s.spn
  | .sup, s, t => t.sup = s.sup
  | .flash, s, t => t.flash = s.flash
  | .blks, s, t => t.blks = s.blks
  | .fops, s, t => t.fops = s.fops
  | .fwait, s, t => t.fwait = s.fwait
  | .fread, s, t => t.fread = s.fread
  | .fwPend, s, t => t.fwPend = s.fwPend
  | .fwErased, s, t => t.fwErased = s.fwErased
  | .popen, s, t => t.popen = s.popen
  | .pbuf, s, t => t.pbuf = s.pbuf
  | .ring, s, t => t.ring = s.ring
  | .ringBad, s, t => t.ringBad = s.ringBad
  | .errlog, s, t => t.errlog = s.errlog
  | .rsets, s, t => t.rsets = s.rsets
  | .reqs, s, t => t.reqs = s.reqs
  | .reqNo, s, t => t.reqNo = s.reqNo
  | .rspNo, s, t => t.rspNo = s.rspNo
  | .nonces, s, t => t.nonces = s.nonces
  | .held, s, t => t.held = s.held
  | .miOut, s, t => t.miOut = s.miOut
  | .pkt, s, t => t.pkt = s.pkt
  | .hbm, s, t => t.hbm = s.hbm
  | .poison, s, t => t.poison = s.poison
  | .lost, s, t => t.lost = s.lost
  | .kvLog, s, t => t.kvLog = s.kvLog
  | .kvDur, s, t => t.kvDur = s.kvDur
  | .progs, s, t => t.progs = s.progs
  | .progRuns, s, t => t.progRuns = s.progRuns
  | .group, s, t => t.group = s.group
  | .members, s, t => t.members = s.members
  | .cands, s, t => t.cands = s.cands
  | .authFail, s, t => t.authFail = s.authFail
  | .proposal, s, t => t.proposal = s.proposal
  | .stripes, s, t => t.stripes = s.stripes
  | .stripeNo, s, t => t.stripeNo = s.stripeNo
  | .addrs, s, t => t.addrs = s.addrs
  | .partner, s, t => t.partner = s.partner
  | .peerAdopt, s, t => t.peerAdopt = s.peerAdopt
  | .loads, s, t => t.loads = s.loads
  | .fwImg, s, t => t.fwImg = s.fwImg
  | .tsave, s, t => t.tsave = s.tsave
  | .tregs, s, t => t.tregs = s.tregs
  | .tenc, s, t => t.tenc = s.tenc
  | .senseOffs, s, t => t.senseOffs = s.senseOffs
  | .ages, s, t => t.ages = s.ages
  | .dues, s, t => t.dues = s.dues
  | .verifs, s, t => t.verifs = s.verifs
  | .fitFrom, s, t => t.fitFrom = s.fitFrom
  | .slopes, s, t => t.slopes = s.slopes
  | .asked, s, t => t.asked = s.asked
  | .certs, s, t => t.certs = s.certs
  | .works, s, t => t.works = s.works
  | .altered, s, t => t.altered = s.altered
  | .weakSlots, s, t => t.weakSlots = s.weakSlots
  | .shadow, s, t => t.shadow = s.shadow
  | .miso, s, t => t.miso = s.miso
  | .pending, s, t => t.pending = s.pending

/-- What an operation may change: the register word at an offset of a block, in every instance; the words of an array at an
offset, with its stride; all registers of a block; a part of the state; every register. -/
inductive Key where
  | w (b off : Nat)
  | a (b off stride : Nat)
  | b (b : Nat)
  | p (p : Part)
  | all

/-- A key names the register word of a field. -/
def Key.has : Key → Fld → Prop
  | .w x off, k => k.blk = x ∧ k.off = off
  | .a x off st, k => k.blk = x ∧ ∃ i, k.off = off + st * i
  | .b x, k => k.blk = x
  | .p _, _ => False
  | .all, _ => True

/-- The register word that holds a field, in every instance. -/
def Key.of (f : Fld) : Key := .w f.blk f.off

/-- The words of an array of registers that hold a field. -/
def Key.each (f : Nat → Fld) : Key := .a (f 0).blk (f 0).off ((f 1).off - (f 0).off)

/-- A frame: every register field and every part of the state outside a list of keys is in `t` as in `s`. -/
structure Out (l : List Key) (s t : State) : Prop where
  get : ∀ k : Fld, (∀ n ∈ l, ¬n.has k) → t.get k = s.get k
  part : ∀ p : Part, Key.p p ∉ l → p.same s t

/-! ## States and tests that the statements name -/

/-- Every head's Tightrope entries loaded from the store (R117). -/
def State.tfhLoaded (s : State) : State :=
  s.forAll ((List.range s.nact).flatMap fun a => s.headsOf a) fun h t => t.loadWin 0x13 h 0x1000 0x300

/-- Trapeze's windows loaded from the store (R164). -/
def State.trzLoaded (s : State) : State :=
  ((((s.loadWin 0x0F 0 0x1000 0x800).loadWin 0x0F 0 0x1800 0x100).loadWin 0x0F 0 0x4000 0x1000).loadWin 0x0F 0 0x5000 0x800).loadWin
    0x0F 0 0x8000 0x8000

/-- The request an identity names whose action has not ended (R361). -/
def State.started (s : State) (rq : ReqId) (op : Nat) : Option Req :=
  s.reqs.find? fun r => decide (r.mb = rq.mb.val ∧ r.tag = rq.tag.toNat ∧ r.run = true ∧ r.done = false ∧ r.op = op)

/-- The requests once one has its response. -/
def State.answered (s : State) (no st reason : Nat) (b : List Byte) : List Req :=
  s.reqs.map fun r => if r.no = no then { r with done := true, status := st, reason := reason, rsp := b } else r

/-- A new command whose controller and queue stand, which intake takes now and which no earlier command stalls (R283, R296). -/
def State.takes (s : State) (id : CmdId) (scopes : List Scope) (blocks : Nat) : Bool :=
  let ents := scopes.flatMap s.arrive.scopeEnts
  (s.cmdOf id).isNone && (match s.ctrl id.cntlid with
    | some x => !x.lostq.contains id.qid
    | none => false) &&
  decide (s.arrive.pauseWhy ents.length blocks false = 0) && !(s.cmds.any fun c => entsClash ents c.ents)

/-- The state in which a taken command begins. -/
def State.took (s : State) (id : CmdId) (ns : Nat) (scopes : List Scope) : State :=
  ((s.arrive.showPause 0).enlist id ns (scopes.flatMap s.arrive.scopeEnts) stOk 0).updCmd s.cmdNo fun d => { d with begun := true }

/-- The command as intake leaves it once taken (R296, R302). -/
def State.takenCmd (s : State) (id : CmdId) (nsid : Nat) (scopes : List Scope) : Cmd :=
  ⟨id, s.cmdNo, nsid, scopes.flatMap s.arrive.scopeEnts, false, true, 0, 0, 0, 0, none, .none, [], .plain, []⟩

/-- The namespace a command on storage finds, where none of the tests of R287 to R290 turns it away. -/
def State.readyNs (s : State) (id : CmdId) (no nsid : Nat) (sets : List Nat) : Option Ns :=
  (s.ns nsid).filter fun n => (decide (nsid < 1016) || decide (1024 < nsid)) && s.on R.RMC_STAT_IO_READY &&
    !(n.del.any fun d => decide (d < no)) && n.att.contains id.cntlid && !decide (s.get V.sanState = 1) &&
    !decide (s.get V.sanState = 3) && !n.erase && n.keyOk && sets.contains n.csi

/-- A helper's result goes to r0, r1 to r5 are left open, and the run goes on (R335). -/
def State.helped (t : State) (core : Nat) (r : Run) (v : Option Nat) : State :=
  ({ t with free := t.free + 6 } : State).runOn core
    { r with regs := v.getD t.negative % two64 :: (List.range 5).map (fun i => Config.freeValue (t.free + 1 + i) % two64) ++ r.regs.drop 6 }

/-! ## Keys that several frames share -/

/-- What `listCmd` may change. -/
def listCmdKeys : List Key :=
  [.of R.CMD_STAT_CTRLS, .of R.CMD_EVT_TS_FULL, .of R.CMD_TS_USED, .of R.CMD_INFL_USED, .each R.CMD_JQ_DEPTH,
   .of R.CMD_CNT_TSSTALL, .of R.CMD_CNT_PAUSE, .of V.mmgTsWarn, .of V.cmdInflWarn, .of R.TRU_STAT_PROG_RUN,
   .of R.TRU_EVT_ABORT, .of R.PWK_EVT_EPOCH, .of R.PWK_DEGR_DEGR, .of R.PWK_UNAV_UNAV, .of V.pwkUnav,
   .of (R.HBM_STAT_TRAINED 0), .of R.PKT_LFSR_LFSR, .of R.PKT_DIRTY_DIRTY, .of R.MMG_EVT_AT_RISK,
   .each R.MMG_POOL_FREE, .each R.MMG_HELD_HELD, .of R.MMG_CNT_RESUME, .of (R.CHN_STAT_ACTIVE 0),
   .of (R.SEQ_STAT_STATE 0), .of (R.SEQ_EVT_MCHK 0), .of (R.SEQ_CNT_NRDEFER 0), .of (V.seqPend 0),
   .of (V.seqLast 0), .of (V.seqLost 0), .of (V.seqStall 0), .of (R.SRV_STAT_STATE 0), .of (R.SRV_EVT_LOCK_LOST 0),
   .of (R.SRV_OFS_OFS 0), .of (R.SRV_CNT_WI 0), .of (V.srvGoodRun 0), .of (V.srvSetRun 0), .of (V.srvWrRun 0),
   .of (V.srvWrSet 0), .of (V.srvWiHold 0), .of (V.srvLoadReq 0), .of (V.srvHsw 0), .of (V.srvOfsPend 0),
   .of (V.srvOfsNext 0), .of (V.srvUnlReq 0), .of (V.srvSeekPend 0), .of (V.srvUnlWait 0), .of (V.srvMaStep 0),
   .of (V.srvOfsRun 0), .of R.CRL_STAT_STATE, .of R.CRL_EVT_SRC_SWITCH, .of V.crlSp01, .of V.crlPer, .of V.crlTacc,
   .of V.crlLock, .of V.crlPulse, .of V.crlFailed, .of V.crlStopAtt, .of V.crlQuiet, .of V.crlZc, .of V.crlSpNext,
   .of V.crlSpWait, .of V.crlRevIn, .of V.crlMode, .of V.crlOffN, .of V.crlMchk, .of V.crlRetry, .of V.crlSpdOk,
   .of V.measSpn, .of V.measQ, .of V.stmSpin, .of V.spinUp, .of (R.SPT_STAT_ENUM_DONE 0),
   .of (R.SPT_EVT_PA_FAULT 0), .of (R.SPT_CNT_WRABORT 0), .of (V.sptLbias 0), .of (V.sptHdr 0),
   .of R.TFH_TD_RES_TD_PWR, .of R.TFH_EVT_TD_DONE, .of V.tdHits, .of V.tdWait, .each V.tfhPreDone, .each V.tfhHtw,
   .each V.tfhIdle, .each V.tfhNoWr, .of R.CVN_STAT_PS, .of R.CVN_EVT_PS_CHG, .of R.CVN_BUD_PRES_PRES_US,
   .of V.cvnWaking, .of V.psStep, .each V.mcHead, .p .win, .p .free, .p .edges, .p .inbox, .p .chn, .p .seqs,
   .p .mcache, .p .pa, .p .jq, .p .jact, .p .jobNo, .p .cmds, .p .cmdNo, .p .cqs, .p .nss, .p .zones, .p .bands,
   .p .vol, .p .points, .p .mops, .p .errlog, .p .pkt, .p .hbm, .p .poison, .p .lost, .p .kvLog, .p .stripes]

/-- What `State.lpMiss` may change. -/
def lpMissKeys : List Key :=
  [.each R.CMD_JQ_DEPTH, .of (R.CHN_STAT_ACTIVE 0), .of (R.SEQ_STAT_STATE 0), .of (R.SEQ_EVT_MCHK 0),
   .of (R.SEQ_CNT_NRDEFER 0), .of (V.seqPend 0), .of (V.seqLast 0), .of (V.seqLost 0), .of (V.seqStall 0),
   .of (R.SRV_STAT_STATE 0), .of (R.SRV_EVT_LOCK_LOST 0), .of (R.SRV_OFS_OFS 0), .of (R.SRV_CNT_WI 0),
   .of (V.srvGoodRun 0), .of (V.srvSetRun 0), .of (V.srvWrRun 0), .of (V.srvWrSet 0), .of (V.srvWiHold 0),
   .of (V.srvLoadReq 0), .of (V.srvHsw 0), .of (V.srvOfsPend 0), .of (V.srvOfsNext 0), .of (V.srvMiss 0),
   .of (V.srvUnlReq 0), .of (V.srvSeekPend 0), .of (V.srvUnlWait 0), .of (V.srvMaStep 0), .of (V.srvOfsRun 0),
   .of R.TRZ_STAT_STATE, .of R.TRZ_EVT_MCHK, .each R.TRZ_MISS_MISS, .of R.TRZ_DIST_DIST, .each R.TRZ_CNT_MISS,
   .of V.trzLutBusy, .of V.trzWait, .each V.lrnCnt, .each V.trzInh, .of R.CRL_STAT_STATE, .of V.crlPer,
   .of V.crlLock, .of V.crlQuiet, .of V.crlZc, .of V.crlMode, .of V.crlWantCatch, .of V.crlMchk, .of V.crlRetry,
   .of R.STM_STAT_GRANT, .of R.STM_EVT_HB_LOSS, .of R.STM_CNT_RETRACT, .each V.stmLoadGrant, .of V.stmMode,
   .each V.stmRetPh, .each V.stmRetPark, .of V.stmSpin, .each V.stmParkN, .of (R.SPT_STAT_ENUM_DONE 0),
   .of (R.SPT_EVT_PA_FAULT 0), .of (R.SPT_CNT_WRABORT 0), .of (V.sptLbias 0), .of (V.sptHdr 0),
   .of R.TFH_TD_RES_TD_PWR, .of R.TFH_EVT_TD_DONE, .of V.tdHits, .of V.tdWait, .each V.tfhPreDone, .each V.tfhHtw,
   .each V.tfhIdle, .each V.tfhNoWr, .of V.stopWire, .p .win, .p .edges, .p .inbox, .p .chn, .p .seqs, .p .pa,
   .p .jq, .p .jact, .p .loops]

/-- What `ssCsWake` may change. -/
def ssCsWakeKeys : List Key :=
  [.all, .p .win, .p .free, .p .edges, .p .inbox, .p .chn, .p .seqs, .p .bstore, .p .wd, .p .mcache, .p .pa, .p .jq,
   .p .jact, .p .cmds, .p .ctrls, .p .visit, .p .nss, .p .zones, .p .bands, .p .vol, .p .points, .p .mops, .p .test,
   .p .testLog, .p .tstore, .p .rung6, .p .amps, .p .sams, .p .loops, .p .tstk, .p .tshd, .p .tshr, .p .tscrub,
   .p .cstore, .p .tmchk, .p .cog, .p .spn, .p .flash, .p .fops, .p .fwait, .p .fread, .p .fwPend, .p .fwErased,
   .p .ring, .p .ringBad, .p .errlog, .p .rsets, .p .reqs, .p .nonces, .p .held, .p .pkt, .p .hbm, .p .poison,
   .p .kvLog, .p .kvDur, .p .progs, .p .progRuns, .p .cands, .p .authFail, .p .stripes, .p .addrs, .p .partner,
   .p .fwImg, .p .works, .p .shadow]

/-- What `State.onNs` may change. -/
def onNsKeys : List Key :=
  [.of R.CMD_TS_USED, .of R.CMD_INFL_USED, .each R.CMD_JQ_DEPTH, .of V.mmgTsWarn, .of V.cmdInflWarn,
   .of R.TRU_STAT_PROG_RUN, .of R.TRU_EVT_ABORT, .of R.PWK_EVT_EPOCH, .of R.PWK_DEGR_DEGR, .of R.PWK_UNAV_UNAV,
   .of V.pwkUnav, .of (R.HBM_STAT_TRAINED 0), .of R.PKT_LFSR_LFSR, .of R.PKT_DIRTY_DIRTY, .each R.MMG_POOL_FREE,
   .each R.MMG_HELD_HELD, .each V.mcHead, .p .free, .p .edges, .p .inbox, .p .mcache, .p .jq, .p .jobNo, .p .cmds,
   .p .cqs, .p .nss, .p .bands, .p .vol, .p .points, .p .errlog, .p .pkt, .p .hbm, .p .poison, .p .lost, .p .kvLog,
   .p .stripes]

/-- What `State.applySp` may change. -/
def applySpKeys : List Key :=
  [.each R.CMD_JQ_DEPTH, .of (R.CHN_STAT_ACTIVE 0), .of (R.SEQ_STAT_STATE 0), .of (R.SEQ_EVT_MCHK 0),
   .of (R.SEQ_CNT_NRDEFER 0), .of (V.seqPend 0), .of (V.seqLast 0), .of (V.seqLost 0), .of (V.seqStall 0),
   .of (R.SRV_STAT_STATE 0), .of (R.SRV_EVT_LOCK_LOST 0), .of (R.SRV_OFS_OFS 0), .of (R.SRV_CNT_WI 0),
   .of (V.srvGoodRun 0), .of (V.srvSetRun 0), .of (V.srvWrRun 0), .of (V.srvWrSet 0), .of (V.srvWiHold 0),
   .of (V.srvLoadReq 0), .of (V.srvHsw 0), .of (V.srvOfsPend 0), .of (V.srvOfsNext 0), .of (V.srvUnlReq 0),
   .of (V.srvSeekPend 0), .of (V.srvUnlWait 0), .of (V.srvMaStep 0), .of (V.srvOfsRun 0), .of R.CRL_STAT_STATE,
   .of R.CRL_EVT_SRC_SWITCH, .of V.crlSp01, .of V.crlPer, .of V.crlTacc, .of V.crlLock, .of V.crlPulse,
   .of V.crlFailed, .of V.crlStopAtt, .of V.crlQuiet, .of V.crlZc, .of V.crlSpWait, .of V.crlRevIn, .of V.crlMode,
   .of V.crlOffN, .of V.crlMchk, .of V.crlRetry, .of V.crlSpdOk, .of V.measSpn, .of V.measQ, .of V.stmSpin,
   .of V.spinUp, .of (R.SPT_STAT_ENUM_DONE 0), .of (R.SPT_EVT_PA_FAULT 0), .of (R.SPT_CNT_WRABORT 0),
   .of (V.sptLbias 0), .of (V.sptHdr 0), .of R.TFH_TD_RES_TD_PWR, .of R.TFH_EVT_TD_DONE, .of V.tdHits, .of V.tdWait,
   .each V.tfhPreDone, .each V.tfhHtw, .each V.tfhIdle, .each V.tfhNoWr, .p .win, .p .edges, .p .inbox, .p .chn,
   .p .seqs, .p .pa, .p .jq, .p .jact]

/-- What `State.endWrite` may change. -/
def endWriteKeys : List Key :=
  [.of (R.CHN_STAT_ACTIVE 0), .of (R.SEQ_STAT_STATE 0), .of (R.SEQ_EVT_MCHK 0), .of (R.SEQ_CNT_NRDEFER 0),
   .of (V.seqPend 0), .of (V.seqLast 0), .of (V.seqLost 0), .of (V.seqStall 0), .of (R.SRV_STAT_STATE 0),
   .of (R.SRV_OFS_OFS 0), .of (V.srvOfsPend 0), .of (V.srvOfsNext 0), .of (R.SPT_STAT_ENUM_DONE 0),
   .of (R.SPT_EVT_PA_FAULT 0), .of (R.SPT_CNT_WRABORT 0), .of (V.sptLbias 0), .of (V.sptHdr 0),
   .of R.TFH_EVT_TD_DONE, .each V.tfhPreDone, .each V.tfhHtw, .each V.tfhIdle, .each V.tfhNoWr, .p .edges,
   .p .inbox, .p .chn, .p .seqs, .p .pa]

/-- What `registerWrite` may change. -/
def registerWriteKeys : List Key :=
  [.all, .p .win, .p .free, .p .edges, .p .inbox, .p .chn, .p .seqs, .p .bstore, .p .mcache, .p .pa, .p .jq,
   .p .jact, .p .jobNo, .p .fmt, .p .cmds, .p .cqs, .p .ctrls, .p .nss, .p .zones, .p .bands, .p .vol, .p .points,
   .p .mops, .p .opid, .p .journal, .p .jseq, .p .demands, .p .tstore, .p .amps, .p .loops, .p .tstk, .p .tshd,
   .p .tshr, .p .tscrub, .p .cstore, .p .cog, .p .spn, .p .sup, .p .blks, .p .fops, .p .fwait, .p .fread,
   .p .errlog, .p .held, .p .pkt, .p .hbm, .p .poison, .p .lost, .p .kvLog, .p .members, .p .cands, .p .authFail,
   .p .proposal, .p .stripes, .p .altered, .p .weakSlots]

/-- What `barkerNop` may change. -/
def barkerNopKeys : List Key :=
  [.of R.CMD_STAT_CTRLS, .of R.CMD_TS_USED, .of R.CMD_INFL_USED, .each R.CMD_JQ_DEPTH, .of V.mmgTsWarn,
   .of V.cmdInflWarn, .of R.TRU_STAT_PROG_RUN, .of R.TRU_EVT_ABORT, .of R.PWK_EVT_EPOCH, .of R.PWK_DEGR_DEGR,
   .of R.PWK_UNAV_UNAV, .of V.pwkUnav, .of (R.HBM_STAT_TRAINED 0), .of R.PKT_LFSR_LFSR, .of R.PKT_DIRTY_DIRTY,
   .of R.MMG_STAT_ACT_OK, .of R.MMG_EVT_AT_RISK, .each R.MMG_POOL_FREE, .each R.MMG_HELD_HELD, .of R.MMG_CNT_DEFECT,
   .of R.MMG_CNT_RESUME, .of (R.CHN_STAT_ACTIVE 0), .of (R.SEQ_STAT_STATE 0), .of (R.SEQ_EVT_MCHK 0),
   .of (R.SEQ_MCK0_ADDR 0), .of (R.SEQ_MCK1_GATES 0), .of (R.SEQ_COMMIT_TRACK 0), .of (R.SEQ_CNT_MISS 0),
   .of (R.SEQ_CNT_MCHK 0), .of (R.SEQ_CNT_NRDEFER 0), .of (V.seqPend 0), .of (V.seqWw 0), .of (V.seqWwFirst 0),
   .of (V.seqWwLast 0), .of (V.seqSm1 0), .of (V.seqPar 0), .of (V.seqLast 0), .of (V.seqLost 0),
   .of (V.seqUnits 0), .of (V.seqStall 0), .of (V.seqDone 0), .of (V.seqPadAt 0), .of (V.seqParAt 0),
   .of (V.seqParIx 0), .of (R.SRV_STAT_STATE 0), .of (R.SRV_EVT_LOCK_LOST 0), .of (R.SRV_TGT_TRACK 0),
   .of (R.SRV_OFS_OFS 0), .of (R.SRV_CNT_WI 0), .of (V.srvGoodRun 0), .of (V.srvSetRun 0), .of (V.srvWrRun 0),
   .of (V.srvWrSet 0), .of (V.srvWiHold 0), .of (V.srvSeekW 0), .of (V.srvSeekTry 0), .of (V.srvSeekFrom 0),
   .of (V.srvHsw 0), .of (V.srvOfsPend 0), .of (V.srvOfsNext 0), .of (V.srvHswD 0), .of (V.srvSeekPend 0),
   .of (V.srvSeekNx 0), .of (R.SPT_STAT_ENUM_DONE 0), .of (R.SPT_EVT_PA_FAULT 0), .of (R.SPT_CNT_WRABORT 0),
   .of (V.sptMeasWait 0), .of (V.sptLbias 0), .of (V.sptMeasRef 0), .of (V.sptHdr 0), .of R.TFH_EVT_TD_DONE,
   .of V.tdP, .of V.tdStep, .of V.tdSum, .of V.tdHits, .of V.tdWait, .each V.tfhPre, .each V.tfhPreDone,
   .each V.tfhHtw, .each V.tfhIdle, .each V.tfhNoWr, .of R.WDB_STAT_BUSY, .of R.WDB_EVT_SUSP_HIT,
   .each R.WDB_BANK_OP, .each V.seqOos, .each V.mmgWrFault, .each V.wdbProgs, .each V.wdbSusps, .each V.mcHead,
   .p .free, .p .edges, .p .inbox, .p .chn, .p .seqs, .p .bstore, .p .wd, .p .media, .p .mcache, .p .pa, .p .jq,
   .p .jact, .p .jobNo, .p .cmds, .p .cqs, .p .ctrls, .p .nss, .p .zones, .p .bands, .p .vol, .p .dur, .p .points,
   .p .mops, .p .opid, .p .journal, .p .jseq, .p .amps, .p .blks, .p .fops, .p .fwait, .p .errlog, .p .pkt, .p .hbm,
   .p .poison, .p .lost, .p .kvLog, .p .stripes]

/-- What `trzBr` may change. -/
def trzBrKeys : List Key :=
  [.each R.CMD_JQ_DEPTH, .of R.MMG_STAT_ACT_OK, .of R.MMG_EVT_AT_RISK, .of R.MMG_CNT_RESUME,
   .of (R.CHN_STAT_ACTIVE 0), .of (R.SEQ_STAT_STATE 0), .of (R.SEQ_EVT_MCHK 0), .of (R.SEQ_CNT_NRDEFER 0),
   .of (V.seqPend 0), .of (V.seqLast 0), .of (V.seqLost 0), .of (V.seqStall 0), .of (R.SRV_STAT_STATE 0),
   .of (R.SRV_EVT_LOCK_LOST 0), .of (R.SRV_OFS_OFS 0), .of (R.SRV_CNT_WI 0), .of (V.srvGoodRun 0),
   .of (V.srvSetRun 0), .of (V.srvWrRun 0), .of (V.srvWrSet 0), .of (V.srvWiHold 0), .of (V.srvLoadReq 0),
   .of (V.srvHsw 0), .of (V.srvOfsPend 0), .of (V.srvOfsNext 0), .of (V.srvMiss 0), .of (V.srvUnlReq 0),
   .of (V.srvSeekPend 0), .of (V.srvUnlWait 0), .of (V.srvMaStep 0), .of (V.srvOfsRun 0), .of R.TRZ_STAT_STATE,
   .of R.TRZ_EVT_MCHK, .each R.TRZ_MISS_MISS, .each R.TRZ_FE_FE, .of R.TRZ_MCK0_ADDR, .of R.TRZ_DIST_DIST,
   .of R.TRZ_CNT_MCHK, .each R.TRZ_CNT_MISS, .each R.TRZ_CNT_FE, .each V.trzDest, .each V.trzOwner, .of V.trzPc,
   .of V.trzLutBusy, .of V.trzLinkFree, .of V.trzWait, .each V.lrnCnt, .each V.lrnSum, .each V.lrnTrk, .of V.cogRev,
   .of V.cogLast, .each V.trzInh, .each V.trzGrp, .each V.trzTblPend, .each V.trzTook, .of V.cogFrom,
   .of R.CRL_STAT_STATE, .of V.crlPer, .of V.crlLock, .of V.crlQuiet, .of V.crlZc, .of V.crlMode,
   .of V.crlWantCatch, .of V.crlMchk, .of V.crlRetry, .of R.STM_STAT_GRANT, .of R.STM_EVT_HB_LOSS,
   .of R.STM_CNT_RETRACT, .each V.stmLoadGrant, .of V.stmMode, .each V.stmRetPh, .each V.stmRetPark, .of V.stmSpin,
   .each V.stmParkN, .of (R.SPT_STAT_ENUM_DONE 0), .of (R.SPT_EVT_PA_FAULT 0), .of (R.SPT_CNT_WRABORT 0),
   .of (V.sptLbias 0), .of (V.sptHdr 0), .of R.TFH_TD_RES_TD_PWR, .of R.TFH_EVT_TD_DONE, .of V.tdHits, .of V.tdWait,
   .each V.tfhPreDone, .each V.tfhHtw, .each V.tfhIdle, .each V.tfhNoWr, .of V.trzOos, .of V.stopWire, .p .win,
   .p .edges, .p .inbox, .p .chn, .p .seqs, .p .pa, .p .jq, .p .jact, .p .loops, .p .cstore, .p .tmchk, .p .cog]

/-- What `alignEnd` may change. -/
def alignEndKeys : List Key :=
  [.of R.CRL_STAT_STATE, .of V.crlPer, .of V.crlLock, .of V.crlQuiet, .of V.crlZc, .of V.crlMode, .of V.crlMchk,
   .of V.crlRetry, .of V.stmSpin, .p .win]

/-- What `State.memPut` may change. -/
def memPutKeys : List Key :=
  [.of (R.HBM_STAT_TRAINED 0), .of R.PKT_LFSR_LFSR, .of R.PKT_DIRTY_DIRTY, .p .pkt, .p .hbm, .p .poison]

/-- What `State.opFail` may change. -/
def opFailKeys : List Key :=
  [.of R.CMD_STAT_CTRLS, .of R.CMD_TS_USED, .of R.CMD_INFL_USED, .each R.CMD_JQ_DEPTH, .of V.mmgTsWarn,
   .of V.cmdInflWarn, .of R.TRU_STAT_PROG_RUN, .of R.TRU_EVT_ABORT, .of R.PWK_EVT_EPOCH, .of R.PWK_DEGR_DEGR,
   .of R.PWK_UNAV_UNAV, .of V.pwkUnav, .of (R.HBM_STAT_TRAINED 0), .of R.PKT_LFSR_LFSR, .of R.PKT_DIRTY_DIRTY,
   .of R.MMG_STAT_ACT_OK, .of R.MMG_EVT_AT_RISK, .each R.MMG_POOL_FREE, .each R.MMG_HELD_HELD, .of R.WDB_STAT_BUSY,
   .of R.WDB_EVT_SUSP_HIT, .each R.WDB_BANK_OP, .each V.wdbProgs, .each V.wdbSusps, .each V.mcHead, .p .free,
   .p .edges, .p .inbox, .p .mcache, .p .jq, .p .jobNo, .p .cmds, .p .cqs, .p .ctrls, .p .nss, .p .zones, .p .bands,
   .p .vol, .p .points, .p .mops, .p .opid, .p .journal, .p .jseq, .p .blks, .p .fops, .p .fwait, .p .errlog,
   .p .pkt, .p .hbm, .p .poison, .p .lost, .p .kvLog, .p .stripes, .p .weakSlots]

/-- What `State.toUnloading` may change. -/
def toUnloadingKeys : List Key :=
  [.each R.CMD_JQ_DEPTH, .of (R.CHN_STAT_ACTIVE 0), .of (R.SEQ_STAT_STATE 0), .of (R.SEQ_EVT_MCHK 0),
   .of (R.SEQ_CNT_NRDEFER 0), .of (V.seqPend 0), .of (V.seqLast 0), .of (V.seqLost 0), .of (V.seqStall 0),
   .of (R.SRV_STAT_STATE 0), .of (R.SRV_EVT_LOCK_LOST 0), .of (R.SRV_OFS_OFS 0), .of (R.SRV_CNT_WI 0),
   .of (V.srvGoodRun 0), .of (V.srvSetRun 0), .of (V.srvWrRun 0), .of (V.srvWrSet 0), .of (V.srvWiHold 0),
   .of (V.srvHsw 0), .of (V.srvOfsPend 0), .of (V.srvOfsNext 0), .of (V.srvSeekPend 0), .of (V.srvUnlWait 0),
   .of (V.srvMaStep 0), .of (V.srvOfsRun 0), .of (R.SPT_STAT_ENUM_DONE 0), .of (R.SPT_EVT_PA_FAULT 0),
   .of (R.SPT_CNT_WRABORT 0), .of (V.sptLbias 0), .of (V.sptHdr 0), .of R.TFH_TD_RES_TD_PWR, .of R.TFH_EVT_TD_DONE,
   .of V.tdHits, .of V.tdWait, .each V.tfhPreDone, .each V.tfhHtw, .each V.tfhIdle, .each V.tfhNoWr, .p .edges,
   .p .inbox, .p .chn, .p .seqs, .p .pa, .p .jq, .p .jact]

/-- What `State.showStripes` may change. -/
def showStripesKeys : List Key :=
  [.of R.PWK_EVT_EPOCH, .of R.PWK_DEGR_DEGR, .of R.PWK_UNAV_UNAV, .of V.pwkUnav, .p .edges, .p .inbox]

/-- What `State.setBankSt` may change. -/
def setBankStKeys : List Key :=
  [.each R.CLP_PEND_LO_PEND, .each R.CLP_PEND_HI_PEND, .each R.CLP_ACT_LO_ACT, .each R.CLP_ACT_HI_ACT,
   .each V.clpAgLo, .each V.clpAgHi, .of R.SDS_STAT_STATE, .of R.SDS_PEND_LO_PEND, .of R.SDS_PEND_HI_PEND]

/-- What `State.passEnd` may change. -/
def passEndKeys : List Key :=
  [.of R.CMD_TS_USED, .of R.CMD_INFL_USED, .each R.CMD_JQ_DEPTH, .of V.mmgTsWarn, .of V.cmdInflWarn,
   .of R.TRU_STAT_PROG_RUN, .of R.TRU_EVT_ABORT, .of R.PWK_EVT_EPOCH, .of R.PWK_DEGR_DEGR, .of R.PWK_UNAV_UNAV,
   .of V.pwkUnav, .of (R.HBM_STAT_TRAINED 0), .of R.PKT_LFSR_LFSR, .of R.PKT_DIRTY_DIRTY, .each R.MMG_POOL_FREE,
   .each R.MMG_HELD_HELD, .of (R.CHN_STAT_ACTIVE 0), .of (R.CHN_EVT_SM1_MISS 0), .of (R.CHN_LASTF0_TRACK 0),
   .of (R.CHN_LASTF1_LHEAD 0), .of (R.CHN_CNT_URE 0), .of (R.CHN_CNT_TBLFB 0), .of (R.SRV_OFS_OFS 0),
   .of (V.srvOfsPend 0), .of (V.srvOfsNext 0), .of (V.sptLbias 0), .of (V.sptHdr 0), .of R.TFH_EVT_TD_DONE,
   .each V.tfhPreDone, .each V.tfhHtw, .each V.tfhIdle, .each V.tfhNoWr, .each V.mcHead, .p .free, .p .edges,
   .p .inbox, .p .chn, .p .mcache, .p .pa, .p .jq, .p .jact, .p .jobNo, .p .cmds, .p .cqs, .p .nss, .p .bands,
   .p .vol, .p .points, .p .rung6, .p .errlog, .p .pkt, .p .hbm, .p .poison, .p .lost, .p .kvLog, .p .stripes]

/-- What `State.pump` may change. -/
def pumpKeys : List Key :=
  [.of R.WDB_STAT_BUSY, .of R.WDB_EVT_SUSP_HIT, .each R.WDB_BANK_OP, .of R.WDB_CNT_SUSPHIT, .each V.wdbProgs,
   .p .edges, .p .inbox, .p .blks, .p .fops, .p .fwait, .p .fread]

/-- What `transportFailure` may change. -/
def transportFailureKeys : List Key :=
  [.of R.CMD_STAT_CTRLS, .of R.CMD_TS_USED, .of R.CMD_INFL_USED, .each R.CMD_JQ_DEPTH, .of V.mmgTsWarn,
   .of V.cmdInflWarn, .of R.TRU_STAT_PROG_RUN, .of R.TRU_EVT_ABORT, .of R.PWK_EVT_EPOCH, .of R.PWK_DEGR_DEGR,
   .of R.PWK_UNAV_UNAV, .of V.pwkUnav, .of (R.HBM_STAT_TRAINED 0), .of R.PKT_LFSR_LFSR, .of R.PKT_DIRTY_DIRTY,
   .each R.MMG_POOL_FREE, .each R.MMG_HELD_HELD, .each V.mcHead, .p .free, .p .edges, .p .inbox, .p .mcache, .p .jq,
   .p .jobNo, .p .cmds, .p .ctrls, .p .nss, .p .bands, .p .vol, .p .points, .p .held, .p .pkt, .p .hbm, .p .poison,
   .p .lost, .p .kvLog, .p .stripes]

/-- What `spinDelayEnd` may change. -/
def spinDelayEndKeys : List Key :=
  [.of R.RMC_STAT_STEP, .each R.RMC_T_MS, .of R.CRL_STAT_STATE, .of V.crlPer, .of V.crlTacc, .of V.crlLock,
   .of V.crlPulse, .of V.crlFailed, .of V.crlStopAtt, .of V.crlQuiet, .of V.crlZc, .of V.crlMode, .of V.crlOffN,
   .of V.crlPerm, .of V.vinBud, .of V.crlMchk, .of V.crlRetry, .of V.crlSpdOk, .of V.measSpn, .of V.measQ,
   .of V.stmSpin, .of V.spinUp, .of V.spinSt, .of V.spinFrom, .of V.spinLen, .p .win]

/-- What `State.setSrv` may change. -/
def setSrvKeys : List Key :=
  [.of (R.SRV_STAT_STATE 0), .of (V.srvGoodRun 0), .of (V.srvSetRun 0), .of (V.srvWrRun 0), .of (V.srvWrSet 0)]

/-- What `State.optWriteCopy` may change. -/
def optWriteCopyKeys : List Key :=
  [.of R.WDB_EVT_SUSP_HIT, .of R.WDB_CNT_PROGFAIL, .of R.WDB_CNT_ERASEFAIL, .each V.wdbErased, .p .free, .p .edges,
   .p .inbox, .p .flash, .p .blks]

/-- What `State.tdAbort` may change. -/
def tdAbortKeys : List Key :=
  [.each R.CMD_JQ_DEPTH, .of (V.sptHdr 0), .of R.TFH_TD_RES_TD_PWR, .of R.TFH_EVT_TD_DONE, .of V.tdHits,
   .of V.tdWait, .each V.tfhIdle, .p .edges, .p .inbox, .p .pa]

/-- What `State.follow` may change. -/
def followKeys : List Key :=
  [.of R.MMG_EVT_AT_RISK, .of R.MMG_CNT_RESUME, .of R.CVN_STAT_PS, .of R.CVN_EVT_PS_CHG, .of V.cvnWaking,
   .of V.psStep, .p .edges, .p .inbox, .p .mops]

/-- What `State.closeRec` may change. -/
def closeRecKeys : List Key :=
  [.of R.WDB_STAT_BUSY, .of R.WDB_EVT_SUSP_HIT, .each R.WDB_BANK_OP, .of R.PBL_STAT_OPEN, .of R.PBL_NEWEST_SEQ,
   .of R.PBL_OLDEST_SEQ, .of R.PBL_HELD_COUNT, .of V.pbHeld, .each V.wdbProgs, .each V.wdbSusps, .p .edges,
   .p .blks, .p .fops, .p .fwait, .p .popen, .p .pbuf]

/-- What `State.refreshAct` may change. -/
def refreshActKeys : List Key :=
  [.each R.CMD_JQ_DEPTH, .of R.MMG_STAT_ACT_OK, .of R.MMG_EVT_AT_RISK, .of R.MMG_CNT_RESUME, .p .edges, .p .inbox]

/-- What `State.emptyNs` may change. -/
def emptyNsKeys : List Key :=
  [.of R.CMD_STAT_CTRLS, .of R.CMD_TS_USED, .of R.CMD_INFL_USED, .each R.CMD_JQ_DEPTH, .of V.mmgTsWarn,
   .of V.cmdInflWarn, .of R.TRU_STAT_PROG_RUN, .of R.TRU_EVT_ABORT, .of R.PWK_EVT_EPOCH, .of R.PWK_DEGR_DEGR,
   .of R.PWK_UNAV_UNAV, .of V.pwkUnav, .of (R.HBM_STAT_TRAINED 0), .of R.PKT_LFSR_LFSR, .of R.PKT_DIRTY_DIRTY,
   .of R.MMG_STAT_ACT_OK, .of R.MMG_EVT_AT_RISK, .each R.MMG_POOL_FREE, .each R.MMG_HELD_HELD, .of R.WDB_STAT_BUSY,
   .of R.WDB_EVT_SUSP_HIT, .each R.WDB_BANK_OP, .each V.wdbProgs, .each V.wdbSusps, .each V.mcHead, .p .free,
   .p .edges, .p .inbox, .p .mcache, .p .jq, .p .jobNo, .p .cmds, .p .cqs, .p .ctrls, .p .nss, .p .zones, .p .bands,
   .p .vol, .p .dur, .p .points, .p .mops, .p .opid, .p .journal, .p .jseq, .p .blks, .p .fops, .p .fwait,
   .p .errlog, .p .pkt, .p .hbm, .p .poison, .p .lost, .p .kvLog, .p .kvDur, .p .stripes, .p .weakSlots]

/-- What `State.stmRetract` may change. -/
def stmRetractKeys : List Key :=
  [.of R.STM_STAT_GRANT, .of R.STM_EVT_HB_LOSS, .of R.STM_CNT_RETRACT, .each V.stmRetPh, .each V.stmRetPark,
   .each V.stmParkN, .p .edges, .p .inbox]

/-- What `pktClean` may change. -/
def pktCleanKeys : List Key :=
  [.of R.PKT_STAT_BUSY, .of R.PKT_EVT_CLEAN_DONE, .of R.PKT_DIRTY_DIRTY, .of R.PKT_RNG_CMD_OP, .p .edges, .p .pkt,
   .p .hbm, .p .poison]

/-- What `trzEnableCmd` may change. -/
def trzEnableCmdKeys : List Key :=
  [.of (R.HBM_STAT_TRAINED 0), .of R.PKT_LFSR_LFSR, .of R.PKT_DIRTY_DIRTY, .of R.TRZ_CTL_EN, .of R.TRZ_CHK_REASON,
   .of R.TRZ_STAT_STATE, .each V.trzOwner, .of V.trzWait, .each V.trzInh, .each V.trzGrp, .each V.trzTblPend,
   .each V.trzTook, .of V.vinBud, .of V.stopWire, .p .win, .p .loops, .p .tstk, .p .tshd, .p .tshr, .p .tscrub,
   .p .cstore, .p .cog, .p .pkt, .p .hbm, .p .poison]

/-- A step completes: neither a fault nor a refusal. -/
def State.completes (s : State) : Bool :=
  match step s with
  | .next _ => true
  | .fault _ => false
  | .refused _ => false

end Sys2Proof.Machine
end

