-- ==== Sys2Proof/Certificates/Slice0/Obligations.lean ====
section
/-!
DEFINITION. The statements about the block. A completion statement says under which conditions on the state and the operands
a command answers a next state, and what that state holds; a frame statement says what a command leaves unchanged.
-/

open Sys2Proof Sys2Proof.Machine

/-- A step takes the command at the front of the queue and runs it with the rest of the queue; on an empty queue the block idles
(log entry 1: the idle step is the model's choice). -/
def Obligations.StepRunsFront : Prop :=
  (∀ (c : Instr) (l : List Instr) (s : State), step { s with pending := c :: l } = exec c { s with pending := l }) ∧
  (∀ s : State, s.pending = [] → step s = .next s)

/-- Right after reset: registers at the values of the register tables, nothing listed in any memory, no command waiting. -/
def Obligations.ResetLeavesResetValues : Prop :=
  State.reset.get (R.CHN_CTL_EN 0) = 0 ∧ State.reset.get (R.SPT_CTL_EN 1) = 0 ∧ State.reset.get (R.SEQ_STAT_STATE 2) = seqOFF ∧
    State.reset.get (R.SRV_STAT_STATE 3) = srvOFF ∧ State.reset.get R.TRZ_CTL_EN = 0 ∧ State.reset.get R.CRL_STAT_STATE = crlOFF ∧
    State.reset.get R.STM_CTL_EN = 0 ∧ State.reset.get R.MMG_CTL_EN = 0 ∧ State.reset.get R.CMD_CTL_EN = 0 ∧
    State.reset.get R.CVN_OPSEC_SECONDS = 0 ∧ State.reset.get R.CVN_PCYC_CYCLES = 0 ∧ State.reset.get R.PBL_STAT_OPEN = 0 ∧
    State.reset.flash = [] ∧ State.reset.hbm = [] ∧ State.reset.win = [] ∧ State.reset.cmds = [] ∧ State.reset.reqs = [] ∧
    State.reset.pending = []

/-- The state after reset is canonical. -/
def Obligations.ResetIsCanonical : Prop :=
  State.reset.canon = true

/-- A step from a canonical state leads to a canonical state. -/
def Obligations.StepKeepsCanonicalForm : Prop :=
  ∀ s t : State, s.canon = true → step s = .next t → t.canon = true

/-- A step takes the front command off the queue and no command changes the rest. -/
def Obligations.QueueIsFirstInFirstOut : Prop :=
  ∀ (c : Instr) (l : List Instr) (s t : State), s.pending = c :: l → step s = .next t → t.pending = l

/-- A command answers a next state, except a flash command that names an address beyond the 256 MiB of the four banks. -/
def Obligations.OnlyAbsentFlashStops : Prop :=
  (∀ (c : Instr) (s : State), (∃ t, exec c s = .next t) ∨
    (exec c s = .fault .noSuchFlash ∧ ((∃ (a : BitVec 32) (n : BitVec 16) (r : Nat), c = .flashRead a n r ∧
        (flashSize < a.toNat + n.toNat ∨ flashSize ≤ a.toNat)) ∨
      (∃ (a : BitVec 32) (d : List Byte) (r : Nat), c = .flashProgram a d r ∧ flashSize ≤ a.toNat) ∨
      ∃ b : BitVec 16, c = .flashErase b ∧ 4096 ≤ b.toNat))) ∧
  (∀ (a : BitVec 32) (n : BitVec 16) (r : Nat) (s : State), flashSize ≤ a.toNat → exec (.flashRead a n r) s = .fault .noSuchFlash) ∧
  (∀ (a : BitVec 32) (d : List Byte) (r : Nat) (s : State), flashSize ≤ a.toNat → exec (.flashProgram a d r) s = .fault .noSuchFlash) ∧
  (∀ (b : BitVec 16) (s : State), 4096 ≤ b.toNat → exec (.flashErase b) s = .fault .noSuchFlash)

/-- R67: the lock test, its repeats at bits 96 to 152 of the preamble,
and the failure to lock by bit 152. A lock at its k-th test is at bit 96 + 8k, k from 0 to 7. -/
def Obligations.LockTestRepeats : Prop :=
  -- PREAMBLE_ACQUIRE (R66, R67)
  (∀ (a : Act) (sidx : Fin 256) (k : Fin 8) (ad : List (Fin 26 × Int)) (s : State), (s.rop a).active = true → bitOf
    (s.get (R.SEQ_STAT_GATES a)) 1 = true → (s.rop a).zone ≠ 64 → ∃ t, exec (.preambleAcquire a sidx (some k) ad) s =
    .next t ∧ t.get (R.CHN_STAT_LOCK a) = 1 ∧ t.get (V.chnAcqBit a) = 96 + 8 * k.val) ∧
  (∀ (a : Act) (sidx : Fin 256) (ad : List (Fin 26 × Int)) (s : State), (s.rop a).active = true → bitOf (s.get
    (R.SEQ_STAT_GATES a)) 1 = true → ∃ t, exec (.preambleAcquire a sidx none ad) s = .next t ∧ t.get (R.CHN_STAT_LOCK a)
    = 0 ∧ (t.rop a).cur = some ⟨sidx, false, 0, false, 0, false, false, [], [], []⟩) ∧
  -- ACQUISITION_FAILURE (R67)
  (∀ (a : Act) (x : Sect) (s : State), (s.rop a).cur = some x → s.get (R.CHN_STAT_LOCK a) = 0 → ∃ t, exec
    (.acquisitionFailure a) s = .next t ∧ (t.rop a).cur = some { x with eras := true, cause := 1 } ∧ t.get
    (R.CHN_EVT_ACQ_FAIL a) = 1)

/-- R91: a counter of a channel at +0x040 to +0x05C is 16 bits wide, holds at 65,535, sets its sticky SAT bit there,
and starts afresh after a clear, with the events of the clearing cycle counted. -/
def Obligations.CountersSaturateAndClear : Prop :=
  ∀ (a : Act) (j : Fin 8) (n : Nat) (s : State) (c sat : Fld), c = ⟨0x0C, a, 0x40 + 4 * j, 0, 16, 0⟩ →
    sat = ⟨0x0C, a, 0x40 + 4 * j, 16, 1, 0⟩ → s.canon = true →
    (s.countN c n).get c = Nat.min (s.get c + n) 65535 ∧
    (s.countN c n).get sat = (if s.get c + n < 65535 then s.get sat else 1) ∧
    ∃ t, exec (.counterClear 0x0C a (0x40 + 4 * j) n) s = .next t ∧ t.get c = Nat.min n 65535 ∧
      t.get sat = (if n < 65535 then 0 else 1)

/-- R472: sources 0x1C0 (severity WARNING or higher) and 0x1C1 (ERROR or higher) fire when a record opens; a repeat does not
fire them. A source fires by one edge latched. -/
def Obligations.RecordOpeningFiresSources : Prop :=
  ∀ (d : Desc) (l : List Desc) (s : State), s.inbox = d :: l →
    ∃ t, exec .eventDescriptor s = .next t ∧
      ((s.popen = none ∨ ∃ r, s.popen = some r ∧ r.desc ≠ d ∧ s.pbuf.length < 64) →
        t.edges.count 0x1C0 = s.edges.count 0x1C0 + (if warning ≤ d.sev then 1 else 0) ∧
        t.edges.count 0x1C1 = s.edges.count 0x1C1 + (if error ≤ d.sev then 1 else 0)) ∧
      (∀ r, s.popen = some r → r.desc = d → s.get V.pbDrop = 0 → s.get V.pbHeld = 0 →
        t.edges.count 0x1C0 = s.edges.count 0x1C0 ∧ t.edges.count 0x1C1 = s.edges.count 0x1C1)

/-- R16: a diagnostic read or write that names a reserved block id answers an error status and changes nothing but the request;
a block access of no word too, by its address. -/
def Obligations.ReservedBlockRefused : Prop :=
  (∀ (rq : ReqId) (w : World) (r : Req) (e : Nat × Nat × Nat) (s : State), s.started rq 0x0B01 = some r →
    (∀ k ∈ s.works, k.no ≠ r.no) → e ∈ r.entries → blkKnown (adrOf e.1).1 = false →
    ∃ t, exec (.regWrite rq w) s = .next t ∧ Out [.p .reqs] s t ∧ ∀ x ∈ t.reqs, x.no = r.no → x.done = true ∧ x.status ≠ 0) ∧
  (∀ (rq : ReqId) (w : World) (r : Req) (e : Nat × Nat × Nat) (s : State), s.started rq 0x0B03 = some r →
    (∀ k ∈ s.works, k.no ≠ r.no) → e ∈ r.entries → blkKnown (adrOf e.1).1 = false →
    ∃ t, exec (.regWriteBlock rq w) s = .next t ∧ Out [.p .reqs] s t ∧ ∀ x ∈ t.reqs, x.no = r.no → x.done = true ∧ x.status ≠ 0) ∧
  (∀ (rq : ReqId) (r : Req) (i : Nat) (s : State), s.started rq 0x0B00 = some r → i < fieldAt r.args 0 2 →
    blkKnown (adrOf (fieldAt r.args (4 + 4 * i) 4)).1 = false →
    ∃ t, exec (.regRead rq) s = .next t ∧ Out [.p .reqs] s t ∧ ∀ x ∈ t.reqs, x.no = r.no → x.done = true ∧ x.status ≠ 0) ∧
  (∀ (rq : ReqId) (r : Req) (i : Nat) (s : State), s.started rq 0x0B02 = some r → i < fieldAt r.args 4 4 / 4 →
    blkKnown (adrOf (fieldAt r.args 0 4 + 4 * i)).1 = false →
    ∃ t, exec (.regReadBlock rq) s = .next t ∧ Out [.p .reqs] s t ∧ ∀ x ∈ t.reqs, x.no = r.no → x.done = true ∧ x.status ≠ 0) ∧
  (∀ (rq : ReqId) (w : World) (r : Req) (s : State), s.started rq 0x0B03 = some r → (∀ k ∈ s.works, k.no ≠ r.no) →
    blkKnown (adrOf (fieldAt r.args 0 4)).1 = false →
    ∃ t, exec (.regWriteBlock rq w) s = .next t ∧ Out [.p .reqs] s t ∧ ∀ x ∈ t.reqs, x.no = r.no → x.done = true ∧ x.status ≠ 0) ∧
  (∀ (rq : ReqId) (r : Req) (s : State), s.started rq 0x0B02 = some r → blkKnown (adrOf (fieldAt r.args 0 4)).1 = false →
    ∃ t, exec (.regReadBlock rq) s = .next t ∧ Out [.p .reqs] s t ∧ ∀ x ∈ t.reqs, x.no = r.no → x.done = true ∧ x.status ≠ 0)

/-- Read channel commands complete with the effect the rules of the channel give them: for each,
under conditions on the state and the operands alone, a next state and what it holds of the sector under decode,
its erasure causes, the recovery rung and the channel event and lock bits. -/
def Obligations.ReadChannelCommandsComplete : Prop :=
  -- READ_OP_START (R70)
  (∀ (a : Act) (j : Job) (s : State), s.jobOf a = some j → j.kind ≠ .write → j.kind ≠ .durable → s.get (R.CHN_CTL_EN a)
    = 1 → s.get (R.CHN_REPLAY_HOLD a) = 0 → s.get (V.sptPortFail a) = 0 → srvACQUIRE ≤ s.srvSt a → s.srvSt a ≤ srvHOLD →
    ∃ t, exec (.readOpStart a) s = .next t ∧ (t.rop a).active = true ∧ (t.rop a).job = some j ∧ t.get (R.CHN_STAT_ACTIVE
    a) = 1 ∧ t.get (R.CHN_STAT_RUNG a) = 0 ∧ t.get (R.CHN_STAT_LOCK a) = 0) ∧
  -- SYNC_FRAMING (R80)
  (∀ (a : Act) (x : Sect) (sm1 sm2 : List (Int × Nat)) (p q : Int × Nat) (s : State), (s.rop a).cur = some x → bitOf
    (s.get (R.SEQ_STAT_GATES a)) 2 = true → bestMark (s.get (R.CHN_SYNC_SM1_WIN a)) (s.get (R.CHN_SYNC_SM1_HD a)) sm1 =
    some p → bestMark 8 (s.get (R.CHN_SYNC_SM2_HD a)) sm2 = some q → ∃ t, exec (.syncFraming a sm1 sm2) s = .next t ∧
    (t.rop a).cur = some (if q.1 = 0 ∨ p.2 < q.2 then { x with frame := p.1 } else
    { x with frame := p.1 + q.1, reframe := true })) ∧
  (∀ (a : Act) (x : Sect) (sm1 sm2 : List (Int × Nat)) (s : State), (s.rop a).cur = some x → bitOf (s.get
    (R.SEQ_STAT_GATES a)) 2 = true → bestMark (s.get (R.CHN_SYNC_SM1_WIN a)) (s.get (R.CHN_SYNC_SM1_HD a)) sm1 = none →
    bestMark 8 (s.get (R.CHN_SYNC_SM2_HD a)) sm2 = none → ∃ t, exec (.syncFraming a sm1 sm2) s = .next t ∧ (t.rop a).cur
    = some { x with eras := true, cause := if x.eras then x.cause else 2 } ∧ t.get (R.CHN_EVT_SYNC_FAIL a) = 1) ∧
  -- FSM_SEARCH (R81)
  (∀ (a : Act) (x : Sect) (fsm : List (Int × Nat)) (q : Int × Nat) (s : State), (s.rop a).cur = some x → bitOf (s.get
    (R.SEQ_STAT_GATES a)) 3 = true → bestMark 8 (s.get (R.CHN_SYNC_FSM_HD a)) fsm = some q → ∃ t, exec (.fsmSearch a
    fsm) s = .next t ∧ (t.rop a).cur = some { x with fsm := x.fsm ++ [q.1] }) ∧
  -- DEFECT_SPAN (R75)
  (∀ (a : Act) (x : Sect) (r0 r1 : Bool) (start len : Nat) (s : State), (s.rop a).cur = some x → s.get (R.CHN_CTL_DD_EN
    a) = 1 → (r0 || r1) = true → ∃ t, exec (.defectSpan a .dropout r0 r1 start len) s = .next t ∧ (t.rop a).cur = some
    { x with spans := x.spans ++ [(start - s.get (R.CHN_DD2_DD_PAD a), Nat.min cwLen (start + len + s.get (R.CHN_DD2_DD_PAD a)), 0)] }
    ∧ t.get (R.CHN_EVT_DD_DROP a) = 1) ∧
  -- SECTOR_SAMPLES_DONE (R77)
  (∀ (a : Act) (x : Sect) (l : List (BitVec 6 × BitVec 6)) (s : State), (s.rop a).cur = some x → s.get (V.chnAgg a) = 0
    → x.eras = false → x.zeroLlr ≤ s.get (R.CHN_DD2_SECT_LIM a) → ∃ t, exec (.sectorSamplesDone a l) s = .next t ∧
    (t.rop a).cur = none ∧ (t.rop a).dec = (s.rop a).dec ++ [s.withLlrs a x l] ∧ t.get (V.seqSampOut a) = 1) ∧
  -- LDPC_CONVERGE (R73)
  (∀ (a : Act) (x : Sect) (rest : List Sect) (j : Job) (w : List Bool) (s : State), (s.rop a).dec = x :: rest → (s.rop
    a).job = some j → (s.rop a).known + 1 < j.count → ∃ t, exec (.ldpcConverge a (some w)) s = .next t ∧ (t.rop a).dec =
    rest ∧ (t.rop a).known = (s.rop a).known + 1 ∧ (t.rop a).failed = if cwCause j.track (s.ghead a j.lhead) x.sidx w =
    0 then (s.rop a).failed else (s.rop a).failed ++ [(x.sidx, cwCause j.track (s.ghead a j.lhead) x.sidx w)]) ∧
  (∀ (a : Act) (x : Sect) (rest : List Sect) (j : Job) (s : State), (s.rop a).dec = x :: rest → (s.rop a).job = some j →
    (s.rop a).known + 1 < j.count → ∃ t, exec (.ldpcConverge a none) s = .next t ∧ (t.rop a).dec = rest ∧ (t.rop
    a).failed = (s.rop a).failed ++ [(x.sidx, 4)] ∧ t.get (R.CHN_EVT_LDPC_FAIL a) = 1) ∧
  -- LDPC_WINDOW_END (R73)
  (∀ (a : Act) (x : Sect) (rest : List Sect) (j : Job) (s : State), (s.rop a).dec = x :: rest → (s.rop a).job = some j →
    (s.rop a).known + 1 < j.count → ∃ t, exec (.ldpcWindowEnd a) s = .next t ∧ (t.rop a).dec = rest ∧ (t.rop a).failed =
    (s.rop a).failed ++ [(x.sidx, 4)] ∧ t.get (R.CHN_EVT_LDPC_FAIL a) = 1) ∧
  -- RETRY_RUNG (R85)
  (∀ (a : Act) (j : Job) (x y : Nat × Nat) (rest : List (Nat × Nat)) (s : State), 1 ≤ s.get (R.CHN_STAT_RUNG a) → s.get
    (R.CHN_STAT_RUNG a) ≤ 3 → (s.rop a).job = some j → (s.rop a).todo = x :: y :: rest → ∃ t, exec (.retryRung a true) s
    = .next t ∧ (t.rop a).todo = y :: rest ∧ (t.rop a).step = 0) ∧
  (∀ (a : Act) (j : Job) (x : Nat × Nat) (rest : List (Nat × Nat)) (s : State), 1 ≤ s.get (R.CHN_STAT_RUNG a) → s.get
    (R.CHN_STAT_RUNG a) ≤ 4 → (s.rop a).job = some j → (s.rop a).todo = x :: rest → (s.rop a).step + 1 < s.rungSteps a
    (s.get (R.CHN_STAT_RUNG a)) → ∃ t, exec (.retryRung a false) s = .next t ∧ (t.rop a).todo = x :: rest ∧ (t.rop
    a).step = (s.rop a).step + 1) ∧
  -- RETRY_TIME_LIMIT (R86)
  (∀ (a : Act) (j : Job) (s : State), 1 ≤ s.get (R.CHN_STAT_RUNG a) → s.get (R.CHN_STAT_RUNG a) ≤ 4 → (s.rop a).job =
    some j → (s.rop a).todo ≠ [] → bitOf (s.get (R.CHN_RETRY_RUNG_EN a)) 4 = true → ∃ t, exec (.retryTimeLimit a) s =
    .next t ∧ t.get (R.CHN_STAT_RUNG a) = 5 ∧ t.get (R.CMD_JQ_WHY a) = 1) ∧
  -- OUTER_CODE_REBUILD (R83)
  (∀ (a : Act) (j : Job) (l : List (Option (List Bool))) (s : State), s.get (R.CHN_STAT_RUNG a) = 5 → (s.rop a).job =
    some j → (s.erasedOf a l).length = j.mPar → ∃ t, exec (.outerCodeRebuild a l) s = .next t ∧ t.get
    (R.CHN_EVT_OC_UNVERIFIED a) = 1) ∧
  -- CHN_ENABLE (R92)
  (∀ (a : Act) (s : State), s.get (R.CHN_CTL_EN a) = 0 → a.val < s.nact → ((s.loadWin 0x0C a 0x4000 0xA000).chnReasons
    a).find? (·.1) = none → ∃ t, exec (.chnEnable a) s = .next t ∧ t.get (R.CHN_CTL_EN a) = 1) ∧
  -- RD_ABORT (R90)
  (∀ (a : Act) (x : Sect) (s : State), (s.rop a).active = true → (s.rop a).cur = some x → ∃ t, exec (.rdAbort a) s =
    .next t ∧ t.get (V.chnAgg a) = 1) ∧
  -- REPLAY_HOLD (R82)
  (∀ (a : Act) (v : Bool) (s : State), a.val < s.nact → ∃ t, exec (.replayHold a v) s = .next t ∧ t.get
    (R.CHN_REPLAY_HOLD a) = b2n v) ∧
  -- COUNTER_CLEAR (R91)
  (∀ (blk inst off n : Nat) (s : State), isCounter blk off = true → n < 65535 → ∃ t, exec (.counterClear blk inst off n)
    s = .next t ∧ t.get ⟨blk, inst, off, 0, 16, 0⟩ = n ∧ t.get ⟨blk, inst, off, 16, 1, 0⟩ = 0)

/-- Lanyard, preamp and head commands complete: for each, under conditions on the state and the operands alone,
a next state and what it holds of the port state, fault and check bits, powers,
clearances and measurement results of Spotlight and Tightrope. -/
def Obligations.SpotlightCommandsComplete : Prop :=
  -- LANYARD_GATE_FRAME (R95)
  (∀ (a : Act) (s : State), s.gateMay a = true → s.get (V.srvSmpOk a) = 1 → ∃ t, exec (.lanyardGateFrame a 0x5A#8) s =
    .next t ∧ t.get (R.SPT_STAT_WG a) = 1 ∧ t.get (R.SPT_STAT_AG_REQ a) = 1 ∧ t.get (V.sptIw a) = s.paGet a (s.get
    (R.SPT_STAT_SEL_HEAD a)) 0x10 % 128) ∧
  (∀ (a : Act) (s : State), ∃ t, exec (.lanyardGateFrame a 0xA5#8) s = .next t ∧ t.get (R.SPT_STAT_WG a) = 0 ∧ t.get
    (R.SPT_STAT_AG_REQ a) = 0) ∧
  -- LANYARD_REG_WRITE (R95)
  (∀ (a : Act) (hsel : Fin 16) (addr : Fin 2048) (data : BitVec 16) (s : State), s.get (R.SPT_CTL_EN a) = 1 → s.get
    (V.sptPortFail a) = 0 → paReadOnly addr = false → addr.val ≠ 3 → (addr.val < 0x10 ∧ hsel.val = 15 ∨ 0x10 ≤ addr.val
    ∧ addr.val < 0x20 ∧ hsel.val < 10) → ∃ t, exec (.lanyardRegWrite a hsel addr data 0 (some 0)) s = .next t ∧ t.paGet
    a hsel addr = data.toNat % 2 ^ paWidth addr ∧ t.get (V.sptTry a) = 0 ∧ t.get (V.sptHdr a) = lyHeader false hsel
    addr) ∧
  (∀ (a : Act) (hsel : Fin 16) (addr : Fin 2048) (data : BitVec 16) (e : BitVec 40) (s : State), s.get (R.SPT_CTL_EN a)
    = 1 → s.get (V.sptPortFail a) = 0 → s.get (V.sptTry a) < 3 → ∃ t, exec (.lanyardRegWrite a hsel addr data e none) s
    = .next t ∧ t.get (V.sptTry a) = s.get (V.sptTry a) + 1) ∧
  -- LANYARD_REG_READ (R95)
  (∀ (a : Act) (hsel : Fin 16) (addr : Fin 2048) (data : BitVec 16) (s : State), s.get (R.SPT_CTL_EN a) = 1 → s.get
    (V.sptPortFail a) = 0 → ∃ t, exec (.lanyardRegRead a hsel addr 0 (some (data, crc8 (natBits 16 data.toNat)))) s =
    .next t ∧ (paReadOnly addr = true → t.paGet a hsel addr = data.toNat) ∧ t.get (V.sptTry a) = 0) ∧
  -- SPT_ENABLE (R100)
  (∀ (a : Act) (s : State), s.get (R.SPT_CTL_EN a) = 0 → a.val < s.nact → (List.range (s.loadWin 0x12 a 0x1000
    0x6000).nhpa).any (fun l => !(s.loadWin 0x12 a 0x1000 0x6000).headEntOk a l) = false → ((s.loadWin 0x12 a 0x1000
    0x6000).declared a).any (fun p => !(s.loadWin 0x12 a 0x1000 0x6000).writeEntOk a p.1 p.2) = false → (s.loadWin 0x12
    a 0x1000 0x6000).agOk a = true → ∃ t, exec (.sptEnable a) s = .next t ∧ t.get (R.SPT_CTL_EN a) = 1 ∧ t.get
    (R.SPT_STAT_ENUM_DONE a) = 0) ∧
  -- PREAMP_FAULT (R111)
  (∀ (a : Act) (st : BitVec 16) (stays latch : Bool) (s : State), a.val < s.nact → ∃ t, exec (.preampFault a st stays
    latch) s = .next t ∧ t.get (R.SPT_PAFLT_PASTAT a) = st.toNat ∧ t.get (R.SPT_PAFLT_FHEAD a) = s.get
    (R.SPT_STAT_SEL_HEAD a) % 16 ∧ t.get (R.SPT_STAT_PA_FLT a) = b2n stays) ∧
  -- PREAMP_WRITE_HOLD_END (R111)
  (∀ (a : Act) (s : State), ∃ t, exec (.preampWriteHoldEnd a true) s = .next t ∧ t.get (V.sptHold a) = 0 ∧ t.get
    (V.sptHold100 a) = 0) ∧
  (∀ (a : Act) (s : State), s.get (V.sptHold a) = 1 → ∃ t, exec (.preampWriteHoldEnd a false) s = .next t ∧ t.get
    (V.sptHold100 a) = 1 ∧ t.get (V.sptHold a) = 1) ∧
  -- WR_INH (R109)
  (∀ (a : Act) (v : Bool) (s : State), a.val < s.nact → ∃ t, exec (.wrInh a v) s = .next t ∧ t.get (R.SPT_CTL_WR_INH a)
    = b2n v ∧ (v = true → s.get (R.SPT_CTL_WR_INH a) = 0 → s.writing a = true → t.get (R.SPT_EVT_WR_ABORT a) = 1 ∧ t.get
    (R.SPT_STAT_WG a) = 0)) ∧
  -- HDWP_CLEAR (R119)
  (∀ (a : Act) (m hw : BitVec 10) (i : Fin 10) (s : State), a.val < s.nact → ∃ t, exec (.hdwpClear a m hw) s = .next t ∧
    bitOf (t.get (R.SPT_HDWP_WP a)) i = ((bitOf (s.get (R.SPT_HDWP_WP a)) i && !m.getLsbD i) || hw.getLsbD i)) ∧
  -- PREHEAT_DONE (R112)
  (∀ (a : Act) (s : State), s.get (V.tfhHtw a) = 1 → ∃ t, exec (.preheatDone a) s = .next t ∧ t.get (V.tfhPreDone a) = 1
    ∧ t.get (V.tfhPre a) = 0) ∧
  -- TOUCHDOWN_GO (R113)
  (∀ (h : GHead) (s : State), s.get R.TFH_TD_RES_BUSY = 0 → srvACQUIRE ≤ s.srvSt (s.actOf h) → s.srvSt (s.actOf h) ≤
    srvHOLD → s.get R.CRL_STAT_AT_SP = 1 → s.writing (s.actOf h) = false → ∃ t, exec (.touchdownGo h) s = .next t ∧
    t.get R.TFH_TD_RES_BUSY = 1 ∧ t.get R.TFH_TD_TD_HEAD = h ∧ t.get V.tdStep = 1 ∧ t.get (R.CMD_JQ_HELD (s.actOf h)) =
    1 ∧ t.get (R.CMD_JQ_WHY (s.actOf h)) = 2) ∧
  -- TOUCHDOWN_DWELL_END (R113)
  (∀ (e o : Nat) (s : State), s.get R.TFH_TD_RES_BUSY = 1 → s.get V.tdWait = 0 → s.get V.tdStep ≤ 4 → s.get V.tdP +
    s.tfhField (s.get V.tdH) 6 1 ≤ s.tfhField (s.get V.tdH) 0 2 → s.get V.tdP + s.tfhField (s.get V.tdH) 6 1 < 4096 → ∃
    t, exec (.touchdownDwellEnd e o) s = .next t ∧ t.get V.tdP = s.get V.tdP + s.tfhField (s.get V.tdH) 6 1 ∧ t.get
    V.tdStep = s.get V.tdStep + 1 ∧ t.get V.tdHits = 0 ∧ t.get R.TFH_TD_RES_BUSY = 1) ∧
  (∀ (e o : Nat) (s : State), s.get R.TFH_TD_RES_BUSY = 1 → s.get V.tdWait = 0 → 4 < s.get V.tdStep → s.get V.tdHits = 1
    → 0 < o → ∃ t, exec (.touchdownDwellEnd e o) s = .next t ∧ t.get R.TFH_TD_RES_BUSY = 0 ∧ t.get R.TFH_TD_RES_RESULT =
    1 ∧ t.get R.TFH_TD_RES_TD_PWR = (s.get V.tdP - s.tfhField (s.get V.tdH) 6 1) % 4096) ∧
  -- TOUCHDOWN_ABORT (R113)
  (∀ (s : State), s.get R.TFH_TD_RES_BUSY = 1 → ∃ t, exec (.touchdownAbort) s = .next t ∧ t.get R.TFH_TD_RES_BUSY = 0) ∧
  -- LOAD_MEASURE_GO (R114)
  (∀ (a : Act) (k : Fin 8) (l : LHead) (s : State), a.val < s.nact → s.get (R.SPT_STAT_MEAS_BUSY a) = 0 → s.get
    (V.sptMeasWait a) = 0 → 1 ≤ k.val → k.val < 7 → k.val ≠ 5 → s.writing a = false → ∃ t, exec (.loadMeasureGo a k l) s
    = .next t ∧ t.get (R.SPT_STAT_MEAS_BUSY a) = 1 ∧ t.get (R.SPT_MEAS_KIND a) = k ∧ t.get (R.SPT_MEAS_LHEAD a) = l ∧
    t.get (R.CMD_JQ_HELD a) = 1) ∧
  -- LOAD_MEASURE_DONE (R114)
  (∀ (a : Act) (r0 r1 : BitVec 32) (s : State), s.get (R.SPT_STAT_MEAS_BUSY a) = 1 → ∃ t, exec (.loadMeasureDone a r0
    r1) s = .next t ∧ t.get (R.SPT_STAT_MEAS_BUSY a) = 0 ∧ t.get (R.SPT_MEAS_RES0_RES a) = r0.toNat ∧ t.get
    (R.SPT_MEAS_RES1_RES a) = r1.toNat) ∧
  -- TFH_ENABLE (R121)
  (∀ (s : State), s.get R.TFH_CTL_EN = 0 → s.tfhLoaded.enumHeads ≠ [] → (s.tfhLoaded.tfhBad s.tfhLoaded.enumHeads).find?
    (·.1) = none → ∃ t, exec (.tfhEnable) s = .next t ∧ t.get R.TFH_CTL_EN = 1)

/-- Every Barker word and sequencer command completes: for each, under conditions on the state and the operands alone,
a next state and what it holds of the sequencer program counter, counters, stack, waits, state and job results. -/
def Obligations.SequencerCommandsComplete : Prop :=
  -- BARKER_NOP (R125)
  (∀ (a : Act) (f w : BarkerWord) (now : BarkerNow) (s v : State), s.barkerRuns a 0 f now w v → ∃ t, exec (.barkerNop a
    f now) s = .next t ∧ t.get (R.SEQ_STAT_PC a) = (s.get (R.SEQ_STAT_PC a) + 1) % 4096 ∧ t.get (R.SEQ_STAT_GATES a) =
    gatesAfter (s.get (R.SEQ_STAT_GATES a)) w % 256) ∧
  -- BARKER_JMP (R125)
  (∀ (a : Act) (f w : BarkerWord) (now : BarkerNow) (s v : State), s.barkerRuns a 1 f now w v → ∃ t, exec (.barkerJmp a
    f now) s = .next t ∧ t.get (R.SEQ_STAT_PC a) = bwTarget w) ∧
  -- BARKER_BR (R125)
  (∀ (a : Act) (f w : BarkerWord) (now : BarkerNow) (s v : State), s.barkerRuns a 2 f now w v → v.condHolds a (bwCond w)
    (bwImm w) now = true → ∃ t, exec (.barkerBr a f now) s = .next t ∧ t.get (R.SEQ_STAT_PC a) = bwTarget w) ∧
  (∀ (a : Act) (f w : BarkerWord) (now : BarkerNow) (s v : State), s.barkerRuns a 2 f now w v → v.condHolds a (bwCond w)
    (bwImm w) now = false → ∃ t, exec (.barkerBr a f now) s = .next t ∧ t.get (R.SEQ_STAT_PC a) = (s.get (R.SEQ_STAT_PC
    a) + 1) % 4096) ∧
  -- BARKER_CALL (R125)
  (∀ (a : Act) (f w : BarkerWord) (now : BarkerNow) (s v : State), s.barkerRuns a 3 f now w v → (s.seqr a).stack.length
    < 8 → ∃ t, exec (.barkerCall a f now) s = .next t ∧ t.get (R.SEQ_STAT_PC a) = bwTarget w ∧ (t.seqr a).stack = (s.get
    (R.SEQ_STAT_PC a) + 1) % 4096 :: (s.seqr a).stack) ∧
  -- BARKER_RET (R125)
  (∀ (a : Act) (f w : BarkerWord) (now : BarkerNow) (pc : Nat) (rest : List Nat) (s v : State), s.barkerRuns a 4 f now w
    v → (s.seqr a).stack = pc :: rest → pc < 4096 → ∃ t, exec (.barkerRet a f now) s = .next t ∧ t.get (R.SEQ_STAT_PC a)
    = pc ∧ (t.seqr a).stack = rest) ∧
  -- BARKER_WAIT (R127)
  (∀ (a : Act) (f w : BarkerWord) (now : BarkerNow) (s v : State), s.barkerRuns a 5 f now w v → ¬((bwCond w = 0 ∧ bwImm
    w < now.cell) ∨ (bwCond w = 1 ∧ bwImm w < now.bit)) → v.condHolds a (bwCond w) (bwImm w) now = true → ∃ t, exec
    (.barkerWait a f now) s = .next t ∧ t.get (R.SEQ_STAT_PC a) = (s.get (R.SEQ_STAT_PC a) + 1) % 4096) ∧
  (∀ (a : Act) (f w : BarkerWord) (now : BarkerNow) (s v : State), s.barkerRuns a 5 f now w v → ¬((bwCond w = 0 ∧ bwImm
    w < now.cell) ∨ (bwCond w = 1 ∧ bwImm w < now.bit)) → v.condHolds a (bwCond w) (bwImm w) now = false → s.get
    (R.SEQ_STAT_STATE a) = seqRUN → ∃ t, exec (.barkerWait a f now) s = .next t ∧ t.get (R.SEQ_STAT_STATE a) = seqWAIT ∧
    t.get (V.seqStall a) = 1 ∧ t.get (V.seqWaitCond a) = bwCond w ∧ t.get (V.seqWaitImm a) = bwImm w ∧ t.get
    (V.seqWaitUnit a) = bwUnit w) ∧
  -- BARKER_LOAD (R125)
  (∀ (a : Act) (f w : BarkerWord) (now : BarkerNow) (s v : State), s.barkerRuns a 6 f now w v → ∃ t, exec (.barkerLoad a
    f now) s = .next t ∧ (t.seqr a).acc = (s.seqr a).acc.set (bwDst w) (bwImm w) ∧ t.get (R.SEQ_STAT_PC a) = (s.get
    (R.SEQ_STAT_PC a) + 1) % 4096) ∧
  -- BARKER_ADD (R125)
  (∀ (a : Act) (f w : BarkerWord) (now : BarkerNow) (s v : State), s.barkerRuns a 7 f now w v → ∃ t, exec (.barkerAdd a
    f now) s = .next t ∧ (t.seqr a).acc = (s.seqr a).acc.set (bwDst w) (((s.seqr a).acc.getD (bwDst w) 0 + (s.seqr
    a).acc.getD (bwSrc w) 0 + bwImm w) % 16777216) ∧ t.get (R.SEQ_STAT_PC a) = (s.get (R.SEQ_STAT_PC a) + 1) % 4096) ∧
  -- BARKER_END (R125)
  (∀ (a : Act) (f w : BarkerWord) (now : BarkerNow) (s v : State), s.barkerRuns a 8 f now w v → s.get (R.SEQ_STAT_STATE
    a) = seqRUN → ∃ t, exec (.barkerEnd a f now) s = .next t ∧ t.get (R.SEQ_STAT_STATE a) = seqIDLE ∧ (t.seqr a).job =
    none ∧ (t.seqr a).stack = []) ∧
  (∀ (a : Act) (f w : BarkerWord) (now : BarkerNow) (s v : State), s.barkerRuns a 8 f now w v → s.get (R.SEQ_STAT_STATE
    a) = seqEXIT → ∃ t, exec (.barkerEnd a f now) s = .next t ∧ t.get (R.SEQ_STAT_STATE a) = seqIDLE ∧ (t.seqr
    a).returned = (v.seqr a).job ∧ t.get (R.SEQ_EVT_ABANDON a) = 1) ∧
  -- BARKER_WAIT_MET (R127)
  (∀ (a : Act) (now : BarkerNow) (s : State), s.get (R.SEQ_STAT_STATE a) = seqWAIT → s.get (V.seqStall a) = 1 →
    s.condHolds a (s.get (V.seqWaitCond a)) (s.get (V.seqWaitImm a)) now = true → s.get (V.seqPend a) = 0 → now.ab = 0 →
    ∃ t, exec (.barkerWaitMet a now) s = .next t ∧ t.get (R.SEQ_STAT_STATE a) = seqRUN ∧ t.get (V.seqStall a) = 0 ∧
    t.get (R.SEQ_STAT_PC a) = (s.get (R.SEQ_STAT_PC a) + 1) % 4096) ∧
  -- BARKER_WAIT_TIMEOUT (R127)
  (∀ (a : Act) (now : BarkerNow) (s : State), s.get (R.SEQ_STAT_STATE a) = seqWAIT → s.get (V.seqStall a) = 1 → s.get
    (V.seqWaitUnit a) ≠ 3 → s.condHolds a (s.get (V.seqWaitCond a)) (s.get (V.seqWaitImm a)) now = false → s.get
    (V.seqWaitBr a) = 1 → s.get (V.seqPend a) = 0 → now.ab = 0 → ∃ t, exec (.barkerWaitTimeout a now) s = .next t ∧
    t.get (R.SEQ_STAT_STATE a) = seqRUN ∧ t.get (R.SEQ_STAT_PC a) = s.get (V.seqWaitTgt a) % 4096 ∧ t.get
    (R.SEQ_EVT_MISS a) = 1) ∧
  (∀ (a : Act) (now : BarkerNow) (s : State), s.get (R.SEQ_STAT_STATE a) = seqWAIT → s.get (V.seqStall a) = 1 → s.get
    (V.seqWaitUnit a) ≠ 3 → s.condHolds a (s.get (V.seqWaitCond a)) (s.get (V.seqWaitImm a)) now = true → s.get
    (V.seqPend a) = 0 → now.ab = 0 → ∃ t, exec (.barkerWaitTimeout a now) s = .next t ∧ t.get (R.SEQ_STAT_STATE a) =
    seqRUN ∧ t.get (R.SEQ_STAT_PC a) = (s.get (R.SEQ_STAT_PC a) + 1) % 4096) ∧
  -- SEQ_ENABLE (R139)
  (∀ (a : Act) (s : State), s.get (R.SEQ_CTL_EN a) = 0 → a.val < s.nact → s.get R.MMG_CTL_FMT_COMMIT = 1 → s.get
    (R.SPT_STAT_ENUM_DONE a) = 1 → s.get (V.seqOos a) = 0 → ∃ t, exec (.seqEnable a true) s = .next t ∧ t.get
    (R.SEQ_CTL_EN a) = 1 ∧ t.get (R.SEQ_STAT_STATE a) = seqIDLE ∧ t.get (R.SEQ_STAT_GATES a) = 0 ∧ Tab.at [] t.bstore a
    = storeImage s.fwImg) ∧
  (∀ (a : Act) (s : State), s.get (R.SEQ_CTL_EN a) = 0 → a.val < s.nact → ∃ t, exec (.seqEnable a false) s = .next t ∧
    t.get (R.SEQ_CTL_EN a) = 0 ∧ t.get (R.SEQ_CHK_REASON a) = 0x0D02) ∧
  -- ROUTINE_START (R128)
  (∀ (a : Act) (id : Fin 64) (f e : BarkerWord) (j : Job) (k : RoutineKind) (s : State), s.get (R.SEQ_STAT_STATE a) =
    seqIDLE → s.get (V.seqHeld a) = 0 → (s.seqr a).returned = none → s.jobOf a = some j → s.jobMay a j = true → k ≠
    .headSwitch → e = (s.upset a id f).bword a id → bwParityMask e = 0 → e.q0.getLsbD 13 = true → ∃ t, exec
    (.routineStart a id f k) s = .next t ∧ t.get (R.SEQ_STAT_STATE a) = seqRUN ∧ t.get (R.SEQ_STAT_ROUTINE a) = id ∧
    t.get (R.SEQ_STAT_PC a) = qBits e.q0 0 12 ∧ (t.seqr a).job = some j ∧ (t.seqr a).acc = List.replicate 16 0) ∧
  -- JOB_RESTART (R131)
  (∀ (a : Act) (j : Job) (e : BarkerWord) (s : State), (s.seqr a).returned = some j → s.get (R.SEQ_STAT_STATE a) =
    seqIDLE → s.get (V.seqHeld a) = 0 → s.jobMay a j = true → s.get (V.seqDone a) = 0 → (s.seqr a).restarts < 8 → e =
    s.bword a (s.seqr a).routine → bwParityMask e = 0 → e.q0.getLsbD 13 = true → ∃ t, exec (.jobRestart a) s = .next t ∧
    t.get (R.SEQ_STAT_STATE a) = seqRUN ∧ t.get (R.SEQ_STAT_PC a) = qBits e.q0 0 12 ∧ (t.seqr a).job = some (restartJob
    j (s.get (V.seqUnits a))) ∧ (t.seqr a).restarts = (s.seqr a).restarts + b2n (!(s.seqr a).fresh)) ∧
  -- SEQ_MCHK_RECOVERY (R135)
  (∀ (a : Act) (s : State), s.get (R.SEQ_STAT_STATE a) = seqMCHK → a.val < s.nact → s.get R.MMG_CTL_FMT_COMMIT = 1 →
    s.get (R.SPT_STAT_ENUM_DONE a) = 1 → s.get (V.seqOos a) = 1 → ∃ t, exec (.seqMchkRecovery a true) s = .next t ∧
    t.get (R.SEQ_CTL_EN a) = 0 ∧ t.get (R.SEQ_STAT_STATE a) = seqOFF ∧ t.get (R.SEQ_CHK_REASON a) = 0x0D05) ∧
  (∀ (a : Act) (s : State), s.get (R.SEQ_STAT_STATE a) = seqMCHK → a.val < s.nact → s.get R.MMG_CTL_FMT_COMMIT = 1 →
    s.get (R.SPT_STAT_ENUM_DONE a) = 1 → s.get (V.seqOos a) = 0 → ∃ t, exec (.seqMchkRecovery a true) s = .next t ∧
    t.get (R.SEQ_CTL_EN a) = 1 ∧ t.get (R.SEQ_STAT_STATE a) = seqIDLE ∧ Tab.at [] t.bstore a = storeImage s.fwImg) ∧
  -- SEQ_SCRUB_PASS (R136)
  (∀ (a : Act) (l : List (Fin 4096 × BarkerWord)) (b : Bool) (ad : Nat) (s u : State), s.get (R.SEQ_CTL_SCRUB_EN a) = 1
    → s.get (R.SEQ_STAT_STATE a) = seqIDLE → u = s.forAll l (fun f t => t.upset a f.1 f.2) → ad < (Tab.at [] u.bstore
    a).length → bwParityMask (u.bword a ad) ≠ 0 → ∃ t, exec (.seqScrubPass a l b) s = .next t ∧ t.get
    (R.SEQ_EVT_SCRUB_ERR a) = 1 ∧ t.get (V.seqHeld a) = b2n (!b) ∧ (b = true → Tab.at [] t.bstore a = storeImage
    s.fwImg))

/-- Servo wedge, seek, load and unload commands complete: for each, under conditions on the state and the operands alone,
a next state and what it holds of the servo state, position, PES, write inhibit and load status. -/
def Obligations.ServoCommandsComplete : Prop :=
  -- SERVO_WEDGE (R142)
  (∀ (a : Act) (w : WedgeRead) (p : Nat) (s : State), srvACQUIRE ≤ s.srvSt a → s.srvSt a ≤ srvHOLD → samFind w.cells
    (s.samCentre a w) (s.samWin a) (s.get (R.SRV_SAM_SAM_HD a)) = some p → ∃ t, exec (.servoWedge a w) s = .next t ∧
    t.get (R.SRV_FEED_STAMP a) = s.samStamp a w p ∧ t.get (V.srvPes2 a) = s.get (V.srvPes1 a) ∧ t.get (V.srvGood1 a) =
    s.get (V.srvGood0 a)) ∧
  -- SAM_PREDICTED (R143)
  (∀ (a : Act) (w : WedgeRead) (s : State), srvACQUIRE ≤ s.srvSt a → s.srvSt a ≤ srvHOLD → ∃ t, exec (.samPredicted a w)
    s = .next t ∧ t.get (V.srvGood0 a) = 0 ∧ t.get (V.srvHdrOk a) = 0 ∧ t.get (V.srvSmpOk a) = 0 ∧ t.get (V.srvPes2 a) =
    s.get (V.srvPes1 a)) ∧
  -- SEEK_START (R152)
  (∀ (a : Act) (track : BitVec 24) (s : State), a.val < s.nact → s.onTrack a = true → s.mateHolds a = false → ∃ t, exec
    (.seekStart a track) s = .next t ∧ t.get (R.SRV_STAT_STATE a) = srvSEEK ∧ t.get (R.SRV_TGT_TRACK a) = track.toNat ∧
    t.get (V.srvSeekW a) = 0) ∧
  -- SEEK_TIMEOUT (R153)
  (∀ (a : Act) (s : State), s.srvSt a = srvSETTLE → s.get (R.SRV_SEEK_SEEK_TO a) ≤ s.get (V.srvSeekW a) → s.get
    (V.srvSeekTry a) = 0 → s.get (V.srvSeekErr a) = 0 → ∃ t, exec (.seekTimeout a) s = .next t ∧ t.get (R.SRV_STAT_STATE
    a) = srvSEEK ∧ t.get (V.srvSeekTry a) = 1 ∧ t.get (V.srvSeekErr a) = 1) ∧
  -- MA_STROKE_MEASURE (R154)
  (∀ (a : Act) (m : BitVec 16) (s : State), s.srvSt a = srvFOLLOW → s.get (V.srvMaStep a) = 65 → s.get
    (R.SRV_HEADA_MA_GAIN a (s.get (R.SRV_STAT_HEAD a))) < 4 * Sys2Proof.Machine.dist m.toNat (s.get (R.SRV_HEADA_MA_GAIN
    a (s.get (R.SRV_STAT_HEAD a)))) → ∃ t, exec (.maStrokeMeasure a m) s = .next t ∧ t.get (V.srvMaMeas a) = 1 ∧ t.get
    (R.SRV_STAT_MA_OFF a) = 1 ∧ t.get (R.SRV_EVT_MA_OFF a) = 1) ∧
  -- SRV_ENABLE (R162)
  (∀ (a : Act) (s : State), s.get (R.SRV_CTL_EN a) = 0 → (s.srvReasons a).find? (·.1) = none → ∃ t, exec (.srvEnable a)
    s = .next t ∧ t.get (R.SRV_CTL_EN a) = 1 ∧ t.get (R.SRV_STAT_STATE a) = srvUNLOADED) ∧
  -- SRV_OFS_WRITE (R161)
  (∀ (a : Act) (v : BitVec 16) (s : State), a.val < s.nact → -512 ≤ v.toInt → v.toInt ≤ 512 → s.get (R.SRV_STAT_WP a) =
    0 → ∃ t, exec (.srvOfsWrite a v) s = .next t ∧ t.get (R.SRV_OFS_OFS a) = v.toNat ∧ t.get (V.srvOfsNext a) = v.toNat
    ∧ t.get (V.srvOfsPend a) = 1) ∧
  -- LOAD_REQUEST (R155)
  (∀ (a : Act) (s : State), s.crlSt ≠ crlKICK → s.crlSt ≠ crlGLIDE → s.loadOk a = true → s.loadSpaced a = true → ∃ t,
    exec (.loadRequest a) s = .next t ∧ t.get (R.SRV_STAT_STATE a) = srvLOADING ∧ t.get (V.stmLoaded a) = 1 ∧ t.get
    (R.SRV_STAT_MA_OFF a) = 0) ∧
  (∀ (a : Act) (s : State), s.crlSt ≠ crlKICK → s.crlSt ≠ crlGLIDE → s.loadOk a = true → s.loadSpaced a = false → ∃ t,
    exec (.loadRequest a) s = .next t ∧ t.get (V.srvLoadReq a) = 1 ∧ t.get (R.SRV_STAT_STATE a) = s.get
    (R.SRV_STAT_STATE a)) ∧
  -- LOAD_DEFERRED_START (R155)
  (∀ (a : Act) (s : State), s.get (V.srvLoadReq a) = 1 → s.loadOk a = true → s.loadSpaced a = true → ∃ t, exec
    (.loadDeferredStart a) s = .next t ∧ t.get (R.SRV_STAT_STATE a) = srvLOADING ∧ t.get (V.stmLoaded a) = 1 ∧ t.get
    (V.srvLoadReq a) = 0) ∧
  -- LOADING_OFF_RAMP (R152)
  (∀ (a : Act) (s : State), s.srvSt a = srvLOADING → s.get (V.srvUnlReq a) = 0 → ∃ t, exec (.loadingOffRamp a) s = .next
    t ∧ t.get (R.SRV_STAT_STATE a) = srvACQUIRE ∧ t.get (V.stmLoadGrant a) = 0) ∧
  -- ACQUIRE_TIMEOUT (R152)
  (∀ (a : Act) (s : State), s.srvSt a = srvACQUIRE → 2 ≤ s.get (V.srvLoadFails a) → ∃ t, exec (.acquireTimeout a) s =
    .next t ∧ t.get (V.srvNoLoad a) = 1) ∧
  (∀ (a : Act) (s : State), s.srvSt a = srvACQUIRE → s.get (V.srvLoadFails a) < 2 → ∃ t, exec (.acquireTimeout a) s =
    .next t ∧ t.get (R.SRV_STAT_STATE a) = srvUNLOADING ∧ t.get (V.srvLoadFails a) = s.get (V.srvLoadFails a) + 1) ∧
  -- HOLD_RELOCK_TIMEOUT (R152)
  (∀ (a : Act) (s : State), s.srvSt a = srvHOLD → ∃ t, exec (.holdRelockTimeout a) s = .next t ∧ t.get (R.SRV_STAT_STATE
    a) = srvUNLOADING) ∧
  -- LOAD_RETRY (R155)
  (∀ (a : Act) (s : State), s.get (V.srvReload a) = 1 → s.crlSt ≠ crlKICK → s.crlSt ≠ crlGLIDE → s.loadOk a = true →
    s.loadSpaced a = true → ∃ t, exec (.loadRetry a) s = .next t ∧ t.get (R.SRV_STAT_STATE a) = srvLOADING ∧ t.get
    (V.srvReload a) = 0) ∧
  -- UNLOAD_REQUEST (R152)
  (∀ (a : Act) (b : Bool) (s : State), srvACQUIRE ≤ s.srvSt a → s.srvSt a ≤ srvHOLD → s.mateHolds a = false → ∃ t, exec
    (.unloadRequest a b) s = .next t ∧ t.get (R.SRV_STAT_STATE a) = srvUNLOADING) ∧
  (∀ (a : Act) (s : State), s.srvSt a = srvLOADING → ∃ t, exec (.unloadRequest a true) s = .next t ∧ t.get (V.srvUnlReq
    a) = 1)

/-- Every Trapeze microword completes: for each, under conditions on the state and the operands alone,
a next state and what it holds of the loop accumulator, shared operands, table reads and program position. -/
def Obligations.TrapezeMicrowordsComplete : Prop :=
  -- TRZ_NOP (R166)
  (∀ (f w : TrzWord) (s u : State), s.trzRuns 0 f w u → twCmt w = false → ∃ t, exec (.trzNop f) s = .next t ∧ t.get
    V.trzPc = (s.get V.trzPc + 1) % 8192) ∧
  -- TRZ_JMP (R166)
  (∀ (f w : TrzWord) (s u : State), s.trzRuns 1 f w u → twCmt w = false → ∃ t, exec (.trzJmp f) s = .next t ∧ t.get
    V.trzPc = twTarget w) ∧
  -- TRZ_BR (R166)
  (∀ (f w : TrzWord) (s u : State), s.trzRuns 2 f w u → twCmt w = false → (u.put V.trzPc s.trzNextPc).trzCond (twCond w)
    = true → ∃ t, exec (.trzBr f) s = .next t ∧ t.get V.trzPc = twTarget w) ∧
  (∀ (f w : TrzWord) (s u : State), s.trzRuns 2 f w u → twCmt w = false → (u.put V.trzPc s.trzNextPc).trzCond (twCond w)
    = false → ∃ t, exec (.trzBr f) s = .next t ∧ t.get V.trzPc = (s.get V.trzPc + 1) % 8192) ∧
  -- TRZ_CALL (R166)
  (∀ (f w : TrzWord) (s u : State), s.trzRuns 3 f w u → twCmt w = false → s.tstk.length < 4 → ∃ t, exec (.trzCall f) s =
    .next t ∧ t.get V.trzPc = twTarget w ∧ t.tstk = (s.get V.trzPc + 1) % 8192 :: s.tstk) ∧
  -- TRZ_RET (R166)
  (∀ (f w : TrzWord) (pc : Nat) (r : List Nat) (s u : State), s.trzRuns 4 f w u → twCmt w = false → s.tstk = pc :: r →
    pc < 8192 → ∃ t, exec (.trzRet f) s = .next t ∧ t.get V.trzPc = pc ∧ t.tstk = r) ∧
  -- TRZ_WAIT (R167)
  (∀ (f w : TrzWord) (s u : State), s.trzRuns 5 f w u → twCmt w = false → (u.put V.trzPc s.trzNextPc).trzCond (twCond w)
    = true → ∃ t, exec (.trzWait f) s = .next t ∧ t.get V.trzPc = (s.get V.trzPc + 1) % 8192 ∧ t.get V.trzWait = 0) ∧
  (∀ (f w : TrzWord) (s u : State), s.trzRuns 5 f w u → twCmt w = false → (u.put V.trzPc s.trzNextPc).trzCond (twCond w)
    = false → ∃ t, exec (.trzWait f) s = .next t ∧ t.get V.trzPc = (s.get V.trzPc + 1) % 8192 ∧ t.get V.trzWait = 1 ∧
    t.get V.trzWaitC = twCond w ∧ t.get V.trzWaitTo = b2n (decide (twToVal w ≠ 0))) ∧
  -- TRZ_LD (R166)
  (∀ (f w : TrzWord) (s u : State), s.trzRuns 6 f w u → twCmt w = false → 128 ≤ twDst w → ∃ t, exec (.trzLd f) s = .next
    t ∧ t.opnd (s.get R.TRZ_STAT_LOOP) (twDst w) = toSigned 32 (ofSigned 32 (toSigned 32 w.s2.toNat)) ∧ t.get V.trzPc =
    (s.get V.trzPc + 1) % 8192) ∧
  -- TRZ_MOV (R166)
  (∀ (f w : TrzWord) (s u : State), s.trzRuns 7 f w u → twCmt w = false → 128 ≤ twDst w → ∃ t, exec (.trzMov f) s =
    .next t ∧ t.opnd (s.get R.TRZ_STAT_LOOP) (twDst w) = toSigned 32 (ofSigned 32 (s.opnd (s.get R.TRZ_STAT_LOOP) (twA
    w))) ∧ t.get V.trzPc = (s.get V.trzPc + 1) % 8192) ∧
  -- TRZ_ADD (R166)
  (∀ (f w : TrzWord) (s u : State), s.trzRuns 8 f w u → twCmt w = false → 128 ≤ twDst w → ∃ t, exec (.trzAdd f) s =
    .next t ∧ t.opnd (s.get R.TRZ_STAT_LOOP) (twDst w) = toSigned 32 (ofSigned 32 (clampI (-2147483648) 2147483647
    (s.opnd (s.get R.TRZ_STAT_LOOP) (twA w) + s.opnd (s.get R.TRZ_STAT_LOOP) (twB w)))) ∧ t.get V.trzPc = (s.get V.trzPc
    + 1) % 8192) ∧
  -- TRZ_SUB (R166)
  (∀ (f w : TrzWord) (s u : State), s.trzRuns 9 f w u → twCmt w = false → 128 ≤ twDst w → ∃ t, exec (.trzSub f) s =
    .next t ∧ t.opnd (s.get R.TRZ_STAT_LOOP) (twDst w) = toSigned 32 (ofSigned 32 (clampI (-2147483648) 2147483647
    (s.opnd (s.get R.TRZ_STAT_LOOP) (twA w) - s.opnd (s.get R.TRZ_STAT_LOOP) (twB w)))) ∧ t.get V.trzPc = (s.get V.trzPc
    + 1) % 8192) ∧
  -- TRZ_MIN (R166)
  (∀ (f w : TrzWord) (s u : State), s.trzRuns 14 f w u → twCmt w = false → 128 ≤ twDst w → ∃ t, exec (.trzMin f) s =
    .next t ∧ t.opnd (s.get R.TRZ_STAT_LOOP) (twDst w) = toSigned 32 (ofSigned 32 (min (s.opnd (s.get R.TRZ_STAT_LOOP)
    (twA w)) (s.opnd (s.get R.TRZ_STAT_LOOP) (twB w)))) ∧ t.get V.trzPc = (s.get V.trzPc + 1) % 8192) ∧
  -- TRZ_MAX (R166)
  (∀ (f w : TrzWord) (s u : State), s.trzRuns 15 f w u → twCmt w = false → 128 ≤ twDst w → ∃ t, exec (.trzMax f) s =
    .next t ∧ t.opnd (s.get R.TRZ_STAT_LOOP) (twDst w) = toSigned 32 (ofSigned 32 (max (s.opnd (s.get R.TRZ_STAT_LOOP)
    (twA w)) (s.opnd (s.get R.TRZ_STAT_LOOP) (twB w)))) ∧ t.get V.trzPc = (s.get V.trzPc + 1) % 8192) ∧
  -- TRZ_MUL (R166)
  (∀ (f w : TrzWord) (s u : State), s.trzRuns 10 f w u → twCmt w = false → ∃ t, exec (.trzMul f) s = .next t ∧ t.get
    V.trzAcc = ofSigned 64 (s.opnd (s.get R.TRZ_STAT_LOOP) (twA w) * s.opnd (s.get R.TRZ_STAT_LOOP) (twB w)) % 2 ^ 64 ∧
    t.get V.trzPc = (s.get V.trzPc + 1) % 8192) ∧
  -- TRZ_MAC (R166)
  (∀ (f w : TrzWord) (s u : State), s.trzRuns 11 f w u → twCmt w = false → ∃ t, exec (.trzMac f) s = .next t ∧ t.get
    V.trzAcc = ofSigned 64 (toSigned 64 (s.get V.trzAcc) + s.opnd (s.get R.TRZ_STAT_LOOP) (twA w) * s.opnd (s.get
    R.TRZ_STAT_LOOP) (twB w)) % 2 ^ 64 ∧ t.get V.trzPc = (s.get V.trzPc + 1) % 8192) ∧
  -- TRZ_ACCOUT (R166)
  (∀ (f w : TrzWord) (s u : State), s.trzRuns 12 f w u → twCmt w = false → 128 ≤ twDst w → w.s4.getLsbD 6 = true → ∃ t,
    exec (.trzAccout f) s = .next t ∧ t.opnd (s.get R.TRZ_STAT_LOOP) (twDst w) = toSigned 32 (ofSigned 32 (clampI
    (-2147483648) 2147483647 (accShift (toSigned 64 (s.get V.trzAcc)) (slBits w.s4 0 6) (w.s4.getLsbD 7)))) ∧ t.get
    V.trzPc = (s.get V.trzPc + 1) % 8192) ∧
  (∀ (f w : TrzWord) (s u : State), s.trzRuns 12 f w u → twCmt w = false → 128 ≤ twDst w → w.s4.getLsbD 6 = false → ∃ t,
    exec (.trzAccout f) s = .next t ∧ t.opnd (s.get R.TRZ_STAT_LOOP) (twDst w) = toSigned 32 (ofSigned 32 (toSigned 32
    (ofSigned 32 (accShift (toSigned 64 (s.get V.trzAcc)) (slBits w.s4 0 6) (w.s4.getLsbD 7))))) ∧ t.get V.trzPc =
    (s.get V.trzPc + 1) % 8192) ∧
  -- TRZ_CLRACC (R166)
  (∀ (f w : TrzWord) (s u : State), s.trzRuns 13 f w u → twCmt w = false → ∃ t, exec (.trzClracc f) s = .next t ∧ t.get
    V.trzAcc = 0 ∧ t.get V.trzPc = (s.get V.trzPc + 1) % 8192) ∧
  -- TRZ_LUT (R166)
  (∀ (f w : TrzWord) (s u : State), s.trzRuns 16 f w u → twCmt w = false → ∃ t, exec (.trzLut f) s = .next t ∧ t.get
    V.trzLutBusy = 1 ∧ t.get V.trzLutRdy = 0 ∧ t.get V.trzLutDst = twDst w ∧ t.get V.trzPc = (s.get V.trzPc + 1) % 8192)
    ∧
  -- TRZ_CMP (R166)
  (∀ (f w : TrzWord) (s u : State), s.trzRuns 17 f w u → twCmt w = false → ∃ t, exec (.trzCmp f) s = .next t ∧ t.get
    V.trzN = b2n (decide (s.opnd (s.get R.TRZ_STAT_LOOP) (twA w) - s.opnd (s.get R.TRZ_STAT_LOOP) (twB w) < 0)) ∧ t.get
    V.trzZ = b2n (decide (s.opnd (s.get R.TRZ_STAT_LOOP) (twA w) - s.opnd (s.get R.TRZ_STAT_LOOP) (twB w) = 0)) ∧ t.get
    V.trzPc = (s.get V.trzPc + 1) % 8192) ∧
  -- TRZ_END (R166)
  (∀ (f w : TrzWord) (s u : State), s.trzRuns 18 f w u → twCmt w = false → ∃ t, exec (.trzEnd f) s = .next t ∧ t.get
    R.TRZ_STAT_BUSY = 0)

/-- Trapeze loop commands complete: for each, under conditions on the state and the operands alone,
a next state and what it holds of loop dispatch, misses, adaptive runout and the engine state. -/
def Obligations.TrapezeLoopCommandsComplete : Prop :=
  -- TRZ_WAIT_MET (R167)
  (∀ (s : State), s.get V.trzWait = 1 → s.trzCond (s.get V.trzWaitC) = true → ∃ t, exec (.trzWaitMet) s = .next t ∧
    t.get V.trzWait = 0) ∧
  -- TRZ_WAIT_TIMEOUT (R167)
  (∀ (s : State), s.get V.trzWait = 1 → s.trzCond (s.get V.trzWaitC) = false → s.get V.trzWaitTo = 1 → s.get V.trzWaitBr
    = 1 → ∃ t, exec (.trzWaitTimeout) s = .next t ∧ t.get V.trzWait = 0 ∧ t.get V.trzPc = s.get V.trzWaitTgt % 8192) ∧
  -- LUT_READY (R166)
  (∀ (s : State), s.get V.trzLutBusy = 1 → ∃ t, exec (.lutReady) s = .next t ∧ t.get V.trzLutBusy = 0 ∧ t.get
    V.trzLutRdy = 1) ∧
  -- LOOP_DISPATCH (R173)
  (∀ (n : Nat) (s : State), s.get R.TRZ_STAT_STATE = trzRUN → s.get R.TRZ_STAT_BUSY = 0 → s.lpNext = some n → n < 64 → ∃
    t, exec (.loopDispatch false) s = .next t ∧ t.get R.TRZ_STAT_BUSY = 1 ∧ t.get R.TRZ_STAT_LOOP = n ∧ t.get V.trzPc =
    Config.loopEntry (s.lpLaw n) % 8192 ∧ t.get V.trzAcc = 0 ∧ t.tstk = []) ∧
  (∀ (n : Nat) (s : State), s.get R.TRZ_STAT_STATE = trzRUN → s.get R.TRZ_STAT_BUSY = 0 → s.lpNext = some n → n < 64 →
    s.lpOut n < 18 → ∃ t, exec (.loopDispatch true) s = .next t ∧ t.get (V.trzDest (s.lpOut n)) = ofSigned 32 (s.lawStep
    n).1 ∧ t.get (V.trzOwner (s.lpOut n)) = n + 1) ∧
  -- LOOP_DEADLINE_MISS (R181)
  (∀ (n : Fin 64) (s : State), s.get R.TRZ_STAT_STATE = trzRUN → (s.loop n).due.isSome = true → s.lpActive n = true →
    (s.loop n).misses + 1 ≠ s.ldsc n 0x10 1 / 16 → ∃ t, exec (.loopDeadlineMiss n) s = .next t ∧ t.get R.TRZ_EVT_MISS =
    1) ∧
  -- TRZ_SCRUB_ERROR (R190)
  (∀ (ad : Fin 8192) (f : TrzWord) (s : State), s.get R.TRZ_STAT_STATE = trzRUN → s.get R.TRZ_CTL_SCRUB_EN = 1 →
    twParityMask ((s.trzUpset ad f).tword ad) ≠ 0 → ad.val ∉ s.tscrub → ∃ t, exec (.trzScrubError ad f) s = .next t ∧
    t.tscrub = s.tscrub ++ [ad.val] ∧ t.get R.TRZ_EVT_SCRUB_FIX = 1 ∧ t.cstore = (s.trzUpset ad f).cstore) ∧
  -- TRZ_SCRUB_REWRITE_DONE (R190)
  (∀ (k : Nat) (l : List Nat) (s : State), s.tscrub = k :: l → ∃ t, exec (.trzScrubRewriteDone) s = .next t ∧ t.tscrub =
    l ∧ t.cstore = s.cstore.set k (trzImageWord s.fwImg k)) ∧
  -- TRZ_ENABLE (R194)
  (∀ (p : Bool) (s : State), s.get R.TRZ_CTL_EN = 0 → (s.trzFill.trzReasons p).find? (·.1) = none → ∃ t, exec
    (.trzEnable p) s = .next t ∧ t.get R.TRZ_CTL_EN = 1 ∧ t.get R.TRZ_STAT_STATE = trzRUN ∧ t.cstore = trzImage s.fwImg
    ∧ t.tscrub = []) ∧
  -- TRZ_MCHK_RELOAD (R191)
  (∀ (p : Bool) (s : State), s.get R.TRZ_STAT_STATE = trzMCHK → (s.trzDisable.trzFill.trzReasons p).find? (·.1) = none →
    ∃ t, exec (.trzMchkReload p) s = .next t ∧ t.get R.TRZ_STAT_STATE = trzRUN ∧ t.get R.TRZ_CTL_EN = 1 ∧ t.get
    R.TRZ_STAT_BUSY = 0 ∧ t.cstore = trzImage s.fwImg) ∧
  (∀ (p : Bool) (s : State), s.get R.TRZ_STAT_STATE = trzOUT → s.get V.trzOos = 1 → (s.trzDisable.trzFill.trzReasons
    p).find? (·.1) = some (true, 0x0F0A) → ∃ t, exec (.trzMchkReload p) s = .next t ∧ t.get R.TRZ_STAT_STATE = trzOUT ∧
    t.get R.TRZ_CTL_EN = 0 ∧ t.get R.TRZ_CHK_REASON = 0x0F0A)

/-- Carousel spindle commands complete: for each, under conditions on the state and the operands alone,
a next state and what it holds of the spindle state, target speed, drive mode, trips and their events. -/
def Obligations.SpindleCommandsComplete : Prop :=
  -- MEDIA_WEDGE_MISSING (R158)
  (∀ (s : State), ∃ t, exec (.mediaWedgeMissing) s = .next t ∧ t.get V.crlMedMiss = Nat.min 255 (s.get V.crlMedMiss + 1)
    % 256 ∧ t.get V.crlMedRun = 0 ∧ (7 ≤ s.get V.crlMedMiss → t.get R.CRL_STAT_MEDIA_OK = 0)) ∧
  -- CRL_ENABLE (R224)
  (∀ (ok : Bool) (s : State), s.get R.CRL_CTL_EN = 0 → (s.crlReasons ok).find? (·.1) = none → ∃ t, exec (.crlEnable ok)
    s = .next t ∧ t.get R.CRL_CTL_EN = 1 ∧ t.spn = putBytes [] 0 (s.bytes 0x10 0 0x100 192)) ∧
  -- SP_OVR (R213)
  (∀ (b : Bool) (req : Fin 4) (s : State), ∃ t, exec (.spOvr b req) s = .next t ∧ t.get R.CRL_CTL_SP_OVR = b2n b ∧ t.get
    R.CRL_CTL_SP_REQ = req) ∧
  -- PWM_PERIOD (R196)
  (∀ (o : PwmObs) (s : State), s.crlSt ≠ crlOFF → ∃ t, exec (.pwmPeriod o) s = .next t ∧ t.get R.CRL_RESID_R_MEDIA =
    ofSigned 8 (clampI (-128) 127 (roundFree ((s.track o 1).getI (V.trkRes 1) * 720) 4294967296)) % 256 ∧ t.get
    R.CRL_RESID_R_RES = ofSigned 8 (clampI (-128) 127 (roundFree ((s.track o 2).getI (V.trkRes 2) * 720) 4294967296)) %
    256 ∧ t.get R.CRL_RESID_R_BEMF = ofSigned 8 (clampI (-128) 127 (roundFree ((s.track o 3).getI (V.trkRes 3) * 720)
    4294967296)) % 256) ∧
  -- SENSE_PULSE (R210)
  (∀ (p : BitVec 16) (s : State), s.crlSt = crlSENSE → s.get V.crlPulse < 5 → ∃ t, exec (.sensePulse p) s = .next t ∧
    t.get V.crlPulse = s.get V.crlPulse + 1 ∧ t.get (V.crlPeak (s.get V.crlPulse)) = p.toNat) ∧
  (∀ (p : BitVec 16) (s : State), s.crlSt = crlSENSE → s.get V.crlPulse = 5 → ∃ t, exec (.sensePulse p) s = .next t ∧
    t.get R.CRL_STAT_STATE = crlALIGN) ∧
  -- ALIGN_END (R206)
  (∀ (s : State), s.crlSt = crlALIGN → ∃ t, exec (.alignEnd) s = .next t ∧ t.get R.CRL_STAT_STATE = crlRAMP) ∧
  -- START_ATTEMPT_FAIL (R211)
  (∀ (top : Nat) (s : State), s.crlSt = crlRAMP → ∃ t, exec (.startAttemptFail top) s = .next t ∧ t.get R.CRL_STAT_STATE
    = crlSHORT ∧ t.get V.crlFailed = 1 ∧ t.get R.CRL_EVT_START_RETRY = 1) ∧
  -- ZERO_CROSSING (R208)
  (∀ (i : Nat) (q : Fin 6) (s : State), s.crlSt = crlSHORT → ∃ t, exec (.zeroCrossing i q) s = .next t ∧ t.get V.crlPer
    = 0 ∧ t.get V.crlQuiet = 1) ∧
  (∀ (i : Nat) (q : Fin 6) (s : State), s.crlSt = crlCATCH → s.get V.crlZc = 11 → q.val = (s.get V.crlZcSec + 1) % 6 → 9
    * s.get V.crlZcLast ≤ 10 * i → 10 * i ≤ 11 * s.get V.crlZcLast → ∃ t, exec (.zeroCrossing i q) s = .next t ∧ t.get
    R.CRL_STAT_STATE = crlDRIVE) ∧
  -- CATCH_TIMEOUT (R208)
  (∀ (p : BitVec 16) (s : State), s.crlSt = crlCATCH → s.peakSpeed p.toNat < 1500000 → ∃ t, exec (.catchTimeout p) s =
    .next t ∧ t.get R.CRL_STAT_STATE = crlSHORT) ∧
  -- CATCH_RETRY (R208)
  (∀ (p : BitVec 16) (s : State), s.crlSt = crlCOAST → s.get V.crlWantCatch = 1 → s.get V.crlOvWait = 0 → 1500000 ≤
    s.peakSpeed p.toNat → s.get V.crlCatchDown = 0 → s.grantSeen = true → ∃ t, exec (.catchRetry p) s = .next t ∧ t.get
    R.CRL_STAT_STATE = crlCATCH) ∧
  -- SETPOINT_APPLY (R214)
  (∀ (n : Nat) (s : State), s.get V.crlSpWait = 1 → s.get V.crlSpNext = n → s.spHeld n = false → s.crlSt = crlDRIVE →
    s.get V.crlSp01 = 0 → n ≠ 0 → n < 4 → ∃ t, exec (.setpointApply) s = .next t ∧ t.get R.CRL_STAT_SP = n ∧ t.get
    V.crlSpWait = 0 ∧ t.get R.CRL_STAT_AT_SP = 0) ∧
  -- OV_RECOVERY (R219)
  (∀ (s : State), s.crlSt = crlCOAST → s.get V.crlOvWait = 1 → ∃ t, exec (.ovRecovery) s = .next t ∧ t.get
    R.CRL_STAT_STATE = crlCATCH)

/-- Die link and supply commands of Strongman complete: for each, under conditions on the state and the operands alone,
a next state and what it holds of the link, supply, fault, temperature and measurement registers. -/
def Obligations.LinkAndSupplyCommandsComplete : Prop :=
  -- DIE_LINK_FRAME (R22)
  (∀ (s : State), s.get V.hbTx ≠ s.get V.stmHbRx → ∃ t, exec (.dieLinkFrame (.toStrongman true)) s = .next t ∧ t.get
    V.trzLinkFree = 1 ∧ t.get V.stmHbRx = s.get V.hbTx % 16 ∧ t.get V.stmHbMiss = 0) ∧
  (∀ (s : State), bitOf (s.get V.reqSlot) 0 = true → s.startOk = true → s.get V.stmPl = 0 → s.get V.stmPlReq = 0 → ∃ t,
    exec (.dieLinkFrame (.toStrongman true)) s = .next t ∧ t.get R.STM_STAT_GRANT = 1 ∧ t.get V.stmSagRef = s.get
    R.STM_VIN_VIN12 % 65536 ∧ t.get V.reqSlot = 0) ∧
  (∀ (s : State), ∃ t, exec (.dieLinkFrame (.toStrongman false)) s = .next t ∧ t.get V.trzLinkFree = 1 ∧ t.get
    (V.linkSeq 0) = (s.get (V.linkSeq 0) + 1) % 256) ∧
  (∀ (p v u : List Int) (m : BitVec 32) (n : Bool) (s : State), ∃ t, exec (.dieLinkFrame (.toController true p v u m n))
    s = .next t ∧ t.get V.linkV12 = s.get R.STM_VIN_VIN12 % 65536 ∧ t.get V.linkV5 = s.get R.STM_VIN_VIN5 % 65536 ∧
    t.get V.linkStat = s.statusWord % 4294967296) ∧
  (∀ (p v u : List Int) (m : BitVec 32) (n : Bool) (s : State), ∃ t, exec (.dieLinkFrame (.toController false p v u m
    n)) s = .next t ∧ t.get (V.linkSeq 1) = (s.get (V.linkSeq 1) + 1) % 256) ∧
  -- HEARTBEAT_ADVANCE (R24)
  (∀ (s : State), ∃ t, exec (.heartbeatAdvance) s = .next t ∧ t.get V.stmHbTx = (s.get V.stmHbTx + 1) % 16) ∧
  -- HEARTBEAT_MISS (R233)
  (∀ (s : State), s.get V.stmHbMiss < 2 → ∃ t, exec (.heartbeatMiss true) s = .next t ∧ t.get V.stmHbMiss = s.get
    V.stmHbMiss + 1 ∧ t.get R.STM_STAT_HB_OK = 0 ∧ t.get V.stmHbGood = 0) ∧
  (∀ (s : State), s.get V.stmHbMiss = 2 → s.get R.STM_STAT_AUTON = 0 → s.get R.STM_STAT_SM_ACTIVE = 0 → s.get V.stmSpin
    = 1 → s.get V.stmPl = 0 → ∃ t, exec (.heartbeatMiss true) s = .next t ∧ t.get V.stmSeq = 1 ∧ t.get V.stmHbMiss = 3)
    ∧
  (∀ (s : State), s.get V.hbMiss < 2 → ∃ t, exec (.heartbeatMiss false) s = .next t ∧ t.get V.hbMiss = s.get V.hbMiss +
    1) ∧
  -- SUPPLY_SAMPLE (R228)
  (∀ (v w : BitVec 16) (s : State), ∃ t, exec (.supplySample v w) s = .next t ∧ t.get R.STM_VIN_VIN12 = v.toNat ∧ t.get
    R.STM_VIN_VIN5 = w.toNat) ∧
  -- CHOPPER_FAIL (R229)
  (∀ (c : Nat) (s : State), s.get R.STM_STAT_CHOP_ON = 1 → c < 200 → ∃ t, exec (.chopperFail c) s = .next t ∧ t.get
    R.STM_STAT_CHOP_FLT = 1 ∧ (2 ≤ s.get (V.stmRun 3) → t.get V.stmZero = 1)) ∧
  -- SPINDLE_OVERCURRENT (R227)
  (∀ (c : Nat) (s : State), ∃ t, exec (.spindleOvercurrent c) s = .next t ∧ t.get V.stmOcPend = 1) ∧
  -- VCM_OVERCURRENT (R227)
  (∀ (a : Act) (c : Nat) (s : State), ∃ t, exec (.vcmOvercurrent a c) s = .next t ∧ t.get (V.stmVcmTrip a) = 1 ∧ t.get
    (V.stmVcm a) = 0) ∧
  -- MA_CURRENT_LIMIT (R227)
  (∀ (a : Act) (s : State), ∃ t, exec (.maCurrentLimit a) s = .next t ∧ t.get (V.stmMa a) = 0 ∧ t.get (R.SRV_CTL_MA_EN
    a) = 0) ∧
  -- MA_OFF_CLEAR (R242)
  (∀ (m hw : BitVec 4) (i : Fin 4) (s : State), ∃ t, exec (.maOffClear m hw) s = .next t ∧ bitOf (t.get
    R.STM_STAT_MA_OFF) i = ((bitOf (s.get R.STM_STAT_MA_OFF) i && !m.getLsbD i) || hw.getLsbD i)) ∧
  -- SM_OVERVOLTAGE (R239)
  (∀ (s : State), s.get V.stmOv = 0 → ∃ t, exec (.smOvervoltage) s = .next t ∧ t.get V.stmOv = 1) ∧
  -- WINDING_MEASURE_GO (R240)
  (∀ (k : Fin 4) (a : Act) (s : State), k.val ≠ 0 → s.get V.stmMeasBusy = 0 → s.measCond k a = true → ∃ t, exec
    (.windingMeasureGo k a) s = .next t ∧ t.get V.stmMeasBusy = 1 ∧ t.get R.STM_MEAS_KIND = k ∧ t.get R.STM_MEAS_ACT =
    a) ∧
  -- WINDING_MEASURE_DONE (R240)
  (∀ (v : Nat) (s : State), s.get V.stmMeasBusy = 1 → s.get V.stmMeasK = 1 → 500 ≤ v → v ≤ 20000 → ∃ t, exec
    (.windingMeasureDone v) s = .next t ∧ t.get R.STM_WIND_R_SPN = v ∧ (s.get V.measQ = 0 → s.crlSt ≠ crlSTOPPED → t.get
    V.stmMeasBusy = 0) ∧ t.get R.STM_EVT_MEAS_DONE = 1) ∧
  (∀ (v : Nat) (s : State), s.get V.stmMeasBusy = 1 → s.get V.stmMeasK = 1 → 20000 < v → ∃ t, exec (.windingMeasureDone
    v) s = .next t ∧ t.get R.STM_WIND_R_SPN = s.get R.STM_WIND_R_SPN ∧ t.get R.STM_EVT_MEAS_OOR = 1) ∧
  -- STM_ENABLE (R243)
  (∀ (p : Nat) (s : State), s.get R.STM_CTL_EN = 0 → (s.stmReasons p).find? (·.1) = none → ∃ t, exec (.stmEnable p) s =
    .next t ∧ t.get R.STM_CTL_EN = 1 ∧ t.get V.stmTaken = 1 ∧ t.sup = putBytes [] 0 (getBytes s.opt 0x1C0 32))

/-- Autonomous retract and supply grant commands of Strongman complete: for each,
under conditions on the state and the operands alone, a next state and what it holds of the retract phase,
the grants and the requests of the other dies. -/
def Obligations.RetractAndGrantCommandsComplete : Prop :=
  -- VCM_TRIP_REOPEN (R227)
  (∀ (a : Act) (s : State), s.get (V.stmVcmTrip a) = 1 → bitOf (s.get R.STM_STAT_RETRACT) a = false → s.get (V.stmLoaded
    a) = 1 → s.get V.stmTaken = 1 → bitOf (s.get R.STM_STAT_VCM_OFF) a = false → s.get R.STM_STAT_SM_ACTIVE = 0 → ∃ t,
    exec (.vcmTripReopen a) s = .next t ∧ t.get (V.stmVcmTrip a) = 0 ∧ t.get (V.stmRetPh a) = 1 ∧ t.get (V.stmRetPark a)
    = 1) ∧
  (∀ (a : Act) (s : State), s.get (V.stmVcmTrip a) = 1 → bitOf (s.get R.STM_STAT_RETRACT) a = true → s.get (V.stmRetPark
    a) = 1 → ∃ t, exec (.vcmTripReopen a) s = .next t ∧ t.get (V.stmVcmTrip a) = 0 ∧ t.get (V.stmRetPh a) = 0 ∧ t.get
    (V.stmRetPark a) = 0) ∧
  -- STOP_WIRE_ASSERT (R231)
  (∀ (c : Fin 5) (s : State), bitOf (s.get V.stopWire) c = false → ∃ t, exec (.stopWireAssert c) s = .next t ∧ t.get
    V.stopWire = (s.get V.stopWire + 2 ^ c.val) % 32) ∧
  -- RETRACT_PARKED (R236)
  (∀ (a : Act) (s : State), s.get (V.stmRetPh a) = 1 → s.get (V.stmParkN a) = 1000 → ∃ t, exec (.retractParked a) s =
    .next t ∧ t.get (V.stmRetPh a) = 2) ∧
  -- RETRACT_PARK_HOLD_END (R236)
  (∀ (a : Act) (s : State), s.get (V.stmRetPh a) = 2 → ∃ t, exec (.retractParkHoldEnd a) s = .next t ∧ t.get (V.stmRetPh
    a) = 0 ∧ t.get (V.stmRetPark a) = 0 ∧ t.get (V.stmLoaded a) = 0) ∧
  -- RETRACT_TIMEOUT (R236)
  (∀ (a : Act) (s : State), s.get (V.stmRetPh a) = 1 → ∃ t, exec (.retractTimeout a) s = .next t ∧ t.get (V.stmRetPh a)
    = 3 ∧ t.get R.STM_EVT_RET_TO_EVT = 1) ∧
  -- RETRACT_PUSH_END (R236)
  (∀ (a : Act) (s : State), s.get (V.stmRetPh a) = 3 → ∃ t, exec (.retractPushEnd a) s = .next t ∧ t.get (V.stmRetPh a)
    = 0 ∧ t.get (V.stmLoaded a) = 0) ∧
  -- START_REQUEST (R232)
  (∀ (s : State), s.crlSt = crlSTOPPED ∨ s.crlSt = crlCATCH ∨ s.crlSt = crlCOAST → ∃ t, exec (.startRequest none) s =
    .next t ∧ bitOf (t.get V.reqSlot) 0 = true) ∧
  (∀ (a : Act) (s : State), s.get (V.measFresh a) = 1 → ∃ t, exec (.startRequest (some a)) s = .next t ∧ bitOf (t.get
    V.reqSlot) (1 + a) = true) ∧
  (∀ (a : Act) (s : State), s.get (V.measFresh a) = 0 → s.get (V.stmLoaded a) = 0 → ∃ t, exec (.startRequest (some a)) s
    = .next t ∧ t.get (V.reqWait a) = 1 ∧ bitOf (t.get V.measQ) (2 + a) = true) ∧
  -- AUTONOMOUS_BRAKE (R233)
  (∀ (s : State), s.get V.stmSeq = 1 → s.get R.STM_STAT_SM_ACTIVE = 0 → s.get V.stmPl = 0 → ∃ t, exec (.autonomousBrake)
    s = .next t ∧ t.get V.stmSeq = 2 ∧ t.get V.stmMode = 3) ∧
  -- STM_RESUME (R234)
  (∀ (s : State), s.get R.STM_STAT_AUTON = 1 → s.get V.stmSeq = 0 → s.get R.STM_STAT_RETRACT = 0 → s.get V.stmHbGood =
    16 → ∃ t, exec (.stmResume) s = .next t ∧ t.get R.STM_STAT_AUTON = 0 ∧ t.get V.stmResume = 0) ∧
  -- SAFETY_MONITOR_TICK (R239)
  (∀ (s : State), ∃ t, exec (.safetyMonitorTick) s = .next t ∧ t.get V.smTick = 1) ∧
  -- SAFETY_MONITOR_TAKEOVER (R239)
  (∀ (n : Nat) (s : State), s.get R.STM_STAT_SM_ACTIVE = 0 → ∃ t, exec (.safetyMonitorTakeover n) s = .next t ∧ t.get
    V.faultWire = 1 ∧ t.get (V.stmLoadGrant 0) = 0 ∧ t.get R.STM_STAT_GRANT = 0 ∧ t.get V.smPush = b2n (s.on V.stmTaken)
    ∧ (s.get V.stmTaken = 0 → ∀ a : Act, t.get (V.stmVcm a) = 0)) ∧
  -- SAFETY_MONITOR_PUSH_END (R239)
  (∀ (s : State), s.get V.smPush = 1 → ∃ t, exec (.safetyMonitorPushEnd) s = .next t ∧ t.get V.smPush = 0 ∧ ∀ a : Act,
    t.get (V.stmVcm a) = 0) ∧
  -- AUTONOMOUS_SEQUENCE_END (R234)
  (∀ (s : State), s.get V.stmSeq = 2 → ∃ t, exec (.autonomousSequenceEnd) s = .next t ∧ t.get V.stmSeq = 0 ∧ t.get
    V.stmMode = 0 ∧ t.get V.stmSpin = 0) ∧
  -- STRONGMAN_LOGIC_POWER_LOSS (R238)
  (∀ (s : State), ∃ t, exec (.strongmanLogicPowerLoss) s = .next t ∧ t.sup = [] ∧ ∀ k : Fld, k.blk = 0x11 → t.get k =
    k.rst)

/-- Media management commands complete: for each, under conditions on the state and the operands alone,
a next state and what it holds of the enables, zones, bands, operations and the journal of Menagerie. -/
def Obligations.MediaManagementCommandsComplete : Prop :=
  -- MMG_ENABLE (R277)
  (∀ (s : State), s.get R.MMG_CTL_EN = 0 → s.get R.MMG_CTL_FMT_COMMIT = 1 → ((List.range 4).any fun a => s.on
    (V.mmgSysBad a)) = false → s.mmgCfgOk = true → ∃ t, exec (.mmgEnable) s = .next t ∧ t.get R.MMG_CTL_EN = 1) ∧
  -- FMT_COMMIT (R55)
  (∀ (s : State), s.get R.MMG_CTL_FMT_COMMIT = 0 → s.fmtReasons.find? (·.1) = none → ∃ t, exec (.fmtCommit) s = .next t
    ∧ t.get R.MMG_CTL_FMT_COMMIT = 1) ∧
  -- DURABLE_TIMER (R255)
  (∀ (s : State), s.get R.MMG_CFG_DUR_MS ≠ 0 → s.get R.MMG_CTL_EN = 1 → ∃ t, exec (.durableTimer) s = .next t ∧ t.get
    V.mmgDurMs = s.get V.msNow % 4294967296) ∧
  -- ALTERATION_DEMAND (R263)
  (∀ (h : GHead) (z : RZone) (dc : Fin 6) (hr : BitVec 32) (s : State), s.get R.MMG_CTL_ALT_EN = 0 → ∃ t, exec
    (.alterationDemand h z dc hr) s = .next t ∧ t.demands = s.demands ++ [⟨h, z, dc, hr.toNat⟩]) ∧
  (∀ (h : GHead) (z : RZone) (dc : Fin 6) (hr : BitVec 32) (p : Nat × Nat) (s : State), s.get R.MMG_CTL_ALT_EN = 1 →
    s.bands = [] → ((s.allZones.filter fun q => (s.zone q.1 q.2).bands.any (fun id => decide (id / 1048576 = h.val ∧
    (s.band id).zone = z.val ∧ (s.band id).dcls = dc.val - 1)) && decide ((s.zone q.1 q.2).st ≠ zOff)) = [p]) → (s.zone
    p.1 p.2).st ≠ zEmpty → ∃ t, exec (.alterationDemand h z dc hr) s = .next t ∧ (t.zone p.1 p.2).atRisk = true ∧
    (t.zone p.1 p.2).nextDc = some dc.val ∧ (t.zone p.1 p.2).risk = hr.toNat) ∧
  -- RELAY_STEP (R265)
  (∀ (a : Act) (bad : List Nat) (o : MOp) (s : State), s.opOn a 2 = some o → s.mediaMay a true = true → s.get
    R.MMG_CTL_ALT_EN = 1 → o.step = 1 → ∃ t, exec (.relayStep a bad true) s = .next t ∧ ((t.journal.getLast?.map fun r
    => (r.opid, r.step)) = some (o.opid, 3)) ∧ t.jseq = (s.jseq + 1) % 4294967296) ∧
  -- RECLAIM_STEP (R267)
  (∀ (a : Act) (o : MOp) (s : State), s.opOn a 1 = some o → s.mediaMay a true = true → s.get R.MMG_CTL_RECL_EN = 1 →
    s.reclMay o = true → s.headNoWr a (s.localHead (o.dst / 1048576)) = false → o.step = 1 → ∃ t, exec (.reclaimStep a
    true true) s = .next t ∧ ((t.journal.getLast?.map fun r => (r.opid, r.step)) = some (o.opid, 2)) ∧ t.jseq = (s.jseq
    + 1) % 4294967296) ∧
  -- OVERWRITE_STEP (R273)
  (∀ (a : Act) (o : MOp) (s : State), s.opOn a 3 = some o → s.mediaMay a true = true → ((o.todo.drop o.copied).all fun u
    => !bitOf (s.get (R.SPT_HDWP_WP a)) (s.unitHead u)) = true → o.copied + 16 < o.todo.length → o.nsid = 0 → ∃ t, exec
    (.overwriteStep a true true) s = .next t ∧ ((t.journal.getLast?.map fun r => (r.opid, r.step)) = some (o.opid,
    (o.step + 1) % 0xFE)) ∧ (t.mops = s.mops.map fun m => if m.opid = o.opid then
    { o with copied := o.copied + 16, left := o.left - 16, step := o.step + 1, fails := 0 } else m))

/-- Wardrobe flash and Safety Net commands complete: for each, under conditions on the state and the operands alone,
a next state and what it holds of the executing and waiting flash operations, block states and watchdog counters. -/
def Obligations.FlashAndWatchdogCommandsComplete : Prop :=
  -- FLASH_READ (R410)
  (∀ (ad : BitVec 32) (n : BitVec 16) (r : Nat) (s : State), ad.toNat < 268435456 → ad.toNat + n.toNat ≤ 268435456 →
    s.bankOps (ad.toNat / 67108864) = [] → bitOf (s.get R.CVN_STAT_PWR_EN) 0 = true → ∃ t, exec (.flashRead ad n r) s =
    .next t ∧ t.fread = s.fbytes ad.toNat n.toNat) ∧
  -- FLASH_PROGRAM (R409)
  (∀ (ad : BitVec 32) (d : List Byte) (r : Nat) (s : State), ad.toNat < 268435456 → s.bankOps (ad.toNat / 67108864) = []
    → bitOf (s.get R.WDB_CTL_HOLD) (ad.toNat / 67108864) = false → bitOf (s.get R.CVN_STAT_PWR_EN) 0 = true → ∃ t, exec
    (.flashProgram ad d r) s = .next t ∧ t.bankOps (ad.toNat / 67108864) = [⟨false, ad.toNat / 65536, ad.toNat, d.take
    (256 - ad.toNat % 256), false, 0⟩]) ∧
  -- FLASH_ERASE (R409)
  (∀ (g : BitVec 16) (s : State), g.toNat < 4096 → s.bankOps (g.toNat / 1024) = [] → bitOf (s.get R.WDB_CTL_HOLD)
    (g.toNat / 1024) = false → bitOf (s.get R.CVN_STAT_PWR_EN) 0 = true → ∃ t, exec (.flashErase g) s = .next t ∧
    t.bankOps (g.toNat / 1024) = [⟨true, g.toNat, g.toNat * 65536, [], false, 0⟩]) ∧
  -- FLASH_PROGRAM_DONE (R409)
  (∀ (b : Fin 4) (o : FlashOp) (l : List FlashOp) (s : State), s.bankOps b = o :: l → o.erase = false → o.susp = false →
    ∃ t, exec (.flashProgramDone b true) s = .next t ∧ t.flash = progBytes s.flash o.addr o.data) ∧
  -- FLASH_ERASE_DONE (R409)
  (∀ (b : Fin 4) (o : FlashOp) (l : List FlashOp) (s : State), s.bankOps b = o :: l → o.erase = true → o.susp = false →
    ∃ t, exec (.flashEraseDone b true) s = .next t ∧ t.flash = s.flash.filter fun e => decide (e.1 / 65536 ≠ o.blk)) ∧
  -- FLASH_SUSPEND_DUE (R410)
  (∀ (b : Fin 4) (o : FlashOp) (ops : List FlashOp) (a n : Nat) (l : List FlashReq) (s : State), s.bankOps b = o :: ops
    → s.bankWait b = .read a n :: l → o.susp = false → s.get R.WDB_CTL_AUTO_SUSP = 1 → ∃ t, exec (.flashSuspendDue b) s
    = .next t ∧ t.bankWait b = l ∧ t.fread.length = n) ∧
  -- WDB_HOLD (R411)
  (∀ (m : BitVec 4) (s : State), ∃ t, exec (.wdbHold m) s = .next t ∧ t.get R.WDB_CTL_HOLD = m.toNat) ∧
  -- DOWNLOAD_SESSION_TIMEOUT (R420)
  (∀ (s : State), s.get V.fwOpen = 1 → ∃ t, exec (.downloadSessionTimeout) s = .next t ∧ t.get V.fwOpen = 0 ∧ t.get
    (V.fwSlotSt s.inactive) = 1) ∧
  -- SNT_ENABLE (R422)
  (∀ (s : State), s.get R.SNT_CTL_EN = 0 → 5 ≤ s.get R.SNT_CFG_T1 → s.get R.SNT_CFG_T1 ≤ 600 → ∃ t, exec (.sntEnable) s
    = .next t ∧ t.get R.SNT_CTL_EN = 1 ∧ t.get R.SNT_STAT_STAGE = 1 ∧ t.get V.sntT1 = s.get R.SNT_CFG_T1 ∧ t.get
    R.SNT_STAT_REMAIN = s.get R.SNT_CFG_T1 * 10) ∧
  -- SNT_KICK (R422)
  (∀ (s : State), s.get R.SNT_STAT_STAGE ≠ 0 → s.get R.SNT_CFG_T1 ≤ 600 → ∃ t, exec (.sntKick 0xC35A#16) s = .next t ∧
    t.get R.SNT_STAT_STAGE = 1 ∧ t.get V.sntT1 = s.get R.SNT_CFG_T1 ∧ t.get R.SNT_STAT_REMAIN = s.get R.SNT_CFG_T1 * 10)
    ∧
  (∀ (v : BitVec 16) (s : State), v ≠ 0xC35A#16 → ∃ t, exec (.sntKick v) s = .next t ∧ t.get R.SNT_EVT_BAD_KICK = 1 ∧
    t.get R.SNT_STAT_STAGE = s.get R.SNT_STAT_STAGE) ∧
  -- STAGE1 (R422)
  (∀ (c : BitVec 8) (s : State), s.get R.SNT_STAT_STAGE = 1 → ∃ t, exec (.stage1 c) s = .next t ∧ t.get R.SNT_STAT_STAGE
    = 2 ∧ t.get R.SNT_STAT_REMAIN = 200 ∧ t.get R.SNT_EVT_STAGE1 = 1)

/-- Mailbox, doorbell and interrupt commands of Calliope complete: for each,
under conditions on the state and the operands alone, a next state and what it holds of mailbox claims, requests,
responses, pending and active interrupt bits. -/
def Obligations.CalliopeCommandsComplete : Prop :=
  -- MCTP_EID_REASSIGN (R352)
  (∀ (eid : BitVec 16) (s : State), ∃ t, exec (.mctpEidReassign eid) s = .next t ∧ t.get V.mctpEid = eid.toNat) ∧
  -- CASGUS_SEND (R354)
  (∀ (id : CmdId) (raw : List Byte) (n : Nat) (s : State), s.takes id [] 0 = true → s.mbOf id.cntlid = some n →
    s.accStatus (some n) 65536 raw = 0 → ∃ t, exec (.casgusSend id raw) s = .next t ∧ t.cqs = s.cqs ++ [⟨id, 0, 0,
    false, 65536 * fieldAt raw 4 2, .none⟩] ∧ t.reqs = s.reqs ++ [⟨n, s.reqNo, fieldAt raw 0 2, fieldAt raw 2 2, fieldAt
    raw 4 2, (raw.drop 16).take 32, raw.drop 64, 65536, false, false, 0, 0, [], false, none, []⟩]) ∧
  (∀ (id : CmdId) (raw : List Byte) (n : Nat) (s : State), s.takes id [] 0 = true → s.mbOf id.cntlid = none → s.mbFree =
    some n → s.accStatus (some n) 65536 raw = 0 → ∃ t, exec (.casgusSend id raw) s = .next t ∧ t.cqs = s.cqs ++ [⟨id, 0,
    0, false, 65536 * fieldAt raw 4 2, .none⟩] ∧ t.reqs = s.reqs ++ [⟨n, s.reqNo, fieldAt raw 0 2, fieldAt raw 2 2,
    fieldAt raw 4 2, (raw.drop 16).take 32, raw.drop 64, 65536, false, false, 0, 0, [], false, none, []⟩] ∧ t.get
    (R.TKB_MB_OWNER n) = 3 ∧ t.get (R.TKB_MB_ID n) = id.cntlid % 65536) ∧
  -- CASGUS_RECEIVE (R355)
  (∀ (id : CmdId) (len limit : BitVec 32) (w : Bool) (s : State), s.takes id [] 0 = true → 64 ≤ len.toNat → limit.toNat
    ≤ 60000 → s.held = [] → s.takeFor id.cntlid len.toNat = none → w = false → ∃ t, exec (.casgusReceive id len w limit)
    s = .next t ∧ t.cqs = s.cqs ++ [⟨id, 0, 0, false, 0, .bytes (List.replicate 64 0)⟩] ∧ t.reqs = s.reqs) ∧
  (∀ (id : CmdId) (len limit : BitVec 32) (w : Bool) (n : Nat) (r : Req) (s : State), s.takes id [] 0 = true → 64 ≤
    len.toNat → limit.toNat ≤ 60000 → s.held = [] → s.mbOf id.cntlid = some n → s.firstReady n = some r → r.bytes.length
    ≤ len.toNat → ∃ t, exec (.casgusReceive id len w limit) s = .next t ∧ t.cqs = s.cqs ++ [⟨id, 0, 0, false,
    r.bytes.length, .bytes r.bytes⟩] ∧ (t.reqs = s.reqs.filter fun x => decide (x.no ≠ r.no))) ∧
  -- RECEIVE_WAIT_EXPIRY (R355)
  (∀ (id : CmdId) (x : Ctrl) (b : Nat) (s : State), s.held = [(id.cntlid, (id, b))] → s.ctrl id.cntlid = some x →
    x.lostq.contains id.qid = false → ∃ t, exec (.receiveWaitExpiry id) s = .next t ∧ t.cqs = s.cqs ++ [⟨id, 0, 0,
    false, 0, .bytes (List.replicate 64 0)⟩] ∧ t.held = []) ∧
  -- NVME_MI_REQUEST (R356)
  (∀ (raw : List Byte) (s : State), s.accStatus (some 9) 4096 raw = 0 → ∃ t, exec (.nvmeMiRequest raw) s = .next t ∧
    t.miOut = s.miOut ++ [(65536 * fieldAt raw 4 2, [])] ∧ t.reqs = s.reqs ++ [⟨9, s.reqNo, fieldAt raw 0 2, fieldAt raw
    2 2, fieldAt raw 4 2, (raw.drop 16).take 32, raw.drop 64, 4096, false, false, 0, 0, [], false, none, []⟩]) ∧
  -- NVME_MI_RECEIVE (R356)
  (∀ (len : BitVec 32) (s : State), s.takeReady 9 len.toNat = none → ∃ t, exec (.nvmeMiReceive len) s = .next t ∧
    t.miOut = s.miOut ++ [(0, List.replicate 64 0)] ∧ t.reqs = s.reqs) ∧
  (∀ (len : BitVec 32) (r : Req) (s : State), s.firstReady 9 = some r → r.bytes.length ≤ len.toNat → ∃ t, exec
    (.nvmeMiReceive len) s = .next t ∧ t.miOut = s.miOut ++ [(r.bytes.length, r.bytes)] ∧ (t.reqs = s.reqs.filter fun x
    => decide (x.no ≠ r.no))) ∧
  -- REQUEST_START (R361)
  (∀ (rq : ReqId) (r : Req) (s : State), s.reqs = [r] → (r.mb = rq.mb.val ∧ r.tag = rq.tag.toNat ∧ r.run = false) →
    bitOf r.flags 1 = false → s.needsToken r = false → r.op ∈ casgusOps → s.get V.fwUp = 1 → ∃ t, exec (.requestStart
    rq) s = .next t ∧ t.reqs = [{ r with run := true }]) ∧
  -- REQUEST_TIMEOUT (R374)
  (∀ (rq : ReqId) (r : Req) (s : State), s.reqs = [r] → (r.mb = rq.mb.val ∧ r.tag = rq.tag.toNat ∧ r.run = true ∧
    r.ready = none ∧ r.done = false) → ∃ t, exec (.requestTimeout rq) s = .next t ∧ t.reqs =
    [{ r with waits := [], done := true, status := 0x13, reason := 0, rsp := [] }] ∧ (t.works = s.works.filter fun w =>
    decide (w.no ≠ r.no))) ∧
  -- SOURCE_EDGE (R364)
  (∀ (i : Nat) (l : List Nat) (s : State), s.edges = i :: l → s.get (R.CLP_SRC_EN i) = 0 → ∃ t, exec (.sourceEdge) s =
    .next t ∧ t.edges = l ∧ t.get (R.CLP_SRC_MERGED i) = s.get (R.CLP_SRC_MERGED i)) ∧
  (∀ (i : Nat) (l : List Nat) (s : State), s.edges = i :: l → s.get (R.CLP_SRC_EN i) = 1 → s.get (R.CLP_SRC_AGENT i) <
    64 → s.get (R.CLP_SRC_BIT i) < 64 → s.bankSt (s.get (R.CLP_SRC_AGENT i)) (s.get (R.CLP_SRC_BIT i)) = 2 → ∃ t, exec
    (.sourceEdge) s = .next t ∧ t.edges = l ∧ t.bankSt (s.get (R.CLP_SRC_AGENT i)) (s.get (R.CLP_SRC_BIT i)) = 3) ∧
  -- GPIO_INPUT_CHANGE (R367)
  (∀ (pin : Fin 16) (level : Bool) (s : State), ∃ t, exec (.gpioInputChange pin level) s = .next t ∧ bitOf (t.get
    V.gpio) pin = level) ∧
  -- CLP_SRC_WRITE (R368)
  (∀ (src : Fin 512) (v : BitVec 32) (hw : Bool) (s : State), 8 ≤ v.toNat / 256 % 64 → bitOf v.toNat 16 = false → bitOf
    v.toNat 18 = false → s.bankSt (s.get (R.CLP_SRC_AGENT src)) (s.get (R.CLP_SRC_BIT src)) = 0 → ∃ t, exec
    (.clpSrcWrite src v hw) s = .next t ∧ t.get (R.CLP_SRC_AGENT src) = v.toNat % 64 ∧ t.get (R.CLP_SRC_BIT src) =
    v.toNat / 256 % 64 ∧ t.get (R.CLP_SRC_EN src) = 0) ∧
  -- CLP_CLAIM_WRITE (R364)
  (∀ (n : Fin 64) (i : Fin 32) (s : State), s.bankSt n i = 1 → ∃ t, exec (.clpClaimWrite n n false (BitVec.ofNat 32 (2 ^
    i.val))) s = .next t ∧ t.bankSt n i = 2) ∧
  -- CLP_DONE_WRITE (R364)
  (∀ (n : Fin 64) (i : Fin 32) (s : State), s.bankSt n i = 2 → s.srcOf n i = none → ∃ t, exec (.clpDoneWrite n n false
    (BitVec.ofNat 32 (2 ^ i.val))) s = .next t ∧ t.bankSt n i = 0)

/-- HBM and Pocket commands complete: for each, under conditions on the state and the operands alone,
a next state and what it holds of stack training, rates, error counters, cache lines and range operations. -/
def Obligations.MemoryCommandsComplete : Prop :=
  -- HBM_TRAINING_DONE (R392)
  (∀ (k : Fin 2) (c : BitVec 8) (s : State), s.get (R.HBM_STAT_TRAINED k) = 0 → s.get (R.HBM_STAT_OFF k) = 0 → ∃ t, exec
    (.hbmTrainingDone k true c) s = .next t ∧ t.get (R.HBM_STAT_TRAINED k) = 1 ∧ t.get (R.HBM_STAT_RATE_EFF k) =
    s.rateWant % 4) ∧
  (∀ (k : Fin 2) (c : BitVec 8) (s : State), s.get (R.HBM_STAT_TRAINED k) = 0 → s.get (R.HBM_STAT_OFF k) = 0 → s.get
    (V.hbmTry k) < 3 → ∃ t, exec (.hbmTrainingDone k false c) s = .next t ∧ t.get (R.HBM_STAT_TRAINED k) = 0 ∧ t.get
    (V.hbmTry k) = s.get (V.hbmTry k) + 1) ∧
  -- HBM_RATE_WRITE (R391)
  (∀ (rate : Fin 4) (s : State), ∃ t, exec (.hbmRateWrite rate) s = .next t ∧ t.get (R.HBM_CTL_RATE 0) = rate ∧ t.get
    (R.HBM_CTL_RATE 1) = rate) ∧
  -- HBM_RATE_SWITCH_DONE (R393)
  (∀ (s : State), s.get V.hbmSw = 1 → ∃ t, exec (.hbmRateSwitchDone) s = .next t ∧ t.get (R.HBM_STAT_RATE_EFF 0) =
    s.rateWant % 4 ∧ t.get (R.HBM_STAT_RATE_EFF 1) = s.rateWant % 4 ∧ t.get (R.HBM_EVT_RATE_CHG 0) = 1) ∧
  -- HBM_CORRECTED_ERROR (R395)
  (∀ (k : Fin 2) (s : State), ∃ t, exec (.hbmCorrectedError k) s = .next t ∧ t.get (R.HBM_CNT_CE k) = Nat.min (s.get
    (R.HBM_CNT_CE k) + 1) 65535) ∧
  -- HBM_PATROL_SCRUB (R396)
  (∀ (k : Fin 2) (s : State), s.get (R.HBM_CTL_SCRUB_EN k) = 1 → s.get (R.HBM_STAT_OFF k) = 0 → s.get (V.hbmPos k) + 1 <
    268435456 → ∃ t, exec (.hbmPatrolScrub k false) s = .next t ∧ t.get (V.hbmPos k) = s.get (V.hbmPos k) + 1) ∧
  -- SELF_REFRESH_EXIT (R397)
  (∀ (s : State), ∃ t, exec (.selfRefreshExit) s = .next t ∧ t.get (R.HBM_STAT_SREF 0) = 0 ∧ t.get (R.HBM_STAT_SREF 1) =
    0) ∧
  -- POCKET_UNCORRECTABLE (R398)
  (∀ (a : Fin 32768) (b : Fin 16) (l : Line) (s : State), s.pline a b = some l → l.dirty = true → ∃ t, exec
    (.pocketUncorrectable a b) s = .next t ∧ t.pline a b = none ∧ lineNo a l.tag * 128 / 64 ∈ t.poison ∧ lineNo a l.tag
    * 128 / 64 + 1 ∈ t.poison ∧ t.hbm = putBytes s.hbm (lineNo a l.tag * 128) l.data) ∧
  -- PKT_ENABLE (R402)
  (∀ (s : State), s.get R.PKT_STAT_BUSY = 0 → s.get R.PKT_CTL_EN = 0 → s.get (R.HBM_STAT_TRAINED 0) = 1 → s.get
    (R.HBM_STAT_TRAINED 1) = 1 → ((List.range 16).any fun c => !s.on (R.PKT_CLS_WAYS c)) = false → ∃ t, exec
    (.pktEnable) s = .next t ∧ t.get R.PKT_CTL_EN = 1 ∧ t.pkt = []) ∧
  -- PKT_DISABLE (R402)
  (∀ (s : State), s.get R.PKT_STAT_BUSY = 0 → s.get R.PKT_CTL_EN = 1 → ∃ t, exec (.pktDisable) s = .next t ∧ t.get
    R.PKT_STAT_BUSY = 1 ∧ t.get R.PKT_CTL_EN = 1) ∧
  -- PKT_CLEAN_DONE (R402)
  (∀ (d : BitVec 32) (s : State), s.get R.PKT_STAT_BUSY = 1 → s.get R.PKT_STAT_RNG_BUSY = 0 → ∃ t, exec (.pktCleanDone
    d) s = .next t ∧ t.get R.PKT_STAT_BUSY = 0 ∧ t.get R.PKT_CTL_EN = 0 ∧ t.pkt = [] ∧ t.get R.PKT_EVT_CLEAN_DONE = 1) ∧
  -- PKT_INVALIDATE (R401)
  (∀ (s : State), s.get R.PKT_RNG_LEN_LINES ≠ 0 → s.get R.PKT_STAT_RNG_BUSY = 0 → s.get R.PKT_STAT_BUSY = 0 → s.get
    R.PKT_CTL_EN = 1 → ∃ t, exec (.pktInvalidate) s = .next t ∧ t.get R.PKT_STAT_RNG_BUSY = 1 ∧ t.get R.PKT_RNG_CMD_OP =
    1) ∧
  -- PKT_CLEAN (R401)
  (∀ (s : State), s.get R.PKT_RNG_LEN_LINES ≠ 0 → s.get R.PKT_STAT_RNG_BUSY = 0 → s.get R.PKT_STAT_BUSY = 0 → s.get
    R.PKT_CTL_EN = 1 → ∃ t, exec (.pktClean) s = .next t ∧ t.get R.PKT_STAT_RNG_BUSY = 1 ∧ t.get R.PKT_RNG_CMD_OP = 2) ∧
  -- PKT_CLEAN_INVALIDATE (R401)
  (∀ (s : State), s.get R.PKT_RNG_LEN_LINES ≠ 0 → s.get R.PKT_STAT_RNG_BUSY = 0 → s.get R.PKT_STAT_BUSY = 0 → s.get
    R.PKT_CTL_EN = 1 → ∃ t, exec (.pktCleanInvalidate) s = .next t ∧ t.get R.PKT_STAT_RNG_BUSY = 1 ∧ t.get
    R.PKT_RNG_CMD_OP = 3) ∧
  -- PKT_INVALIDATE (R401)
  (∀ (a b : Nat) (l : Line) (s : State), s.get R.PKT_RNG_LEN_LINES ≠ 0 → s.get R.PKT_STAT_RNG_BUSY = 0 → s.get
    R.PKT_STAT_BUSY = 0 → s.get R.PKT_CTL_EN = 1 → s.lines = [(a, b, l)] → s.inRange (lineNo a l.tag) = true → s.pline a
    b = some l → l.dirty = true → ∃ t, exec (.pktInvalidate) s = .next t ∧ t.pline a b = none ∧ t.hbm = s.hbm) ∧
  -- PKT_CLEAN (R401)
  (∀ (a b : Nat) (l : Line) (s : State), s.get R.PKT_RNG_LEN_LINES ≠ 0 → s.get R.PKT_STAT_RNG_BUSY = 0 → s.get
    R.PKT_STAT_BUSY = 0 → s.get R.PKT_CTL_EN = 1 → s.lines = [(a, b, l)] → s.inRange (lineNo a l.tag) = true → s.pline a
    b = some l → l.dirty = true → ∃ t, exec (.pktClean) s = .next t ∧ t.pline a b = some
    { l with dirty := false, data := [] } ∧ t.hbm = putBytes s.hbm (lineNo a l.tag * 128) l.data) ∧
  -- PKT_CLEAN_INVALIDATE (R401)
  (∀ (a b : Nat) (l : Line) (s : State), s.get R.PKT_RNG_LEN_LINES ≠ 0 → s.get R.PKT_STAT_RNG_BUSY = 0 → s.get
    R.PKT_STAT_BUSY = 0 → s.get R.PKT_CTL_EN = 1 → s.lines = [(a, b, l)] → s.inRange (lineNo a l.tag) = true → s.pline a
    b = some l → l.dirty = true → ∃ t, exec (.pktCleanInvalidate) s = .next t ∧ t.pline a b = none ∧ t.hbm = putBytes
    s.hbm (lineNo a l.tag * 128) l.data) ∧
  -- PKT_RANGE_DONE (R401)
  (∀ (s : State), s.get R.PKT_STAT_RNG_BUSY = 1 → ∃ t, exec (.pktRangeDone) s = .next t ∧ t.get R.PKT_STAT_RNG_BUSY = 0
    ∧ t.get R.PKT_EVT_RNG_DONE = 1) ∧
  -- PKT_LFSR_SEED (R400)
  (∀ (v : BitVec 32) (s : State), v ≠ 0 → ∃ t, exec (.pktLfsrSeed v) s = .next t ∧ t.get R.PKT_LFSR_LFSR = v.toNat)

/-- Fabric port commands complete: for each, under conditions on the state and the operands alone,
a next state and what it holds of links, priority pauses, connections, failover and address assignment. -/
def Obligations.FabricCommandsComplete : Prop :=
  -- FAB_ENABLE (R322)
  (∀ (refB : Bool) (s : State), s.get R.FAB_CTL_EN = 0 → s.netBad = false → (s.pmode ≠ 1 ∨ refB = true) → (s.nflag 0 =
    true ∨ s.nflag 1 = true) → s.ip4 0 ≠ 0 → s.ip4 0 ≠ s.ip4 1 → (s.ip6 0 = 0 ∨ s.ip6 0 ≠ s.ip6 1) → s.get R.CMD_CTL_EN
    = 1 → ∃ t, exec (.fabEnable refB) s = .next t ∧ t.get R.FAB_CTL_EN = 1 ∧ t.get R.FAB_STAT_MODE = s.pmode % 4) ∧
  -- PORT_DIS (R321)
  (∀ (v : BitVec 2) (s : State), ∃ t, exec (.portDis v) s = .next t ∧ t.get R.FAB_CTL_PORT_DIS = v.toNat) ∧
  -- LINK_DOWN (R316)
  (∀ (p : Fin 2) (c : BitVec 8) (s : State), ∃ t, exec (.linkDown p c) s = .next t ∧ t.linkUp p = false) ∧
  (∀ (p : Fin 2) (c : BitVec 8) (s : State), s.linkUp p = true → ∃ t, exec (.linkDown p c) s = .next t ∧
    t.inbox.getLast? = some ⟨1, 0x10, warning, noInst, [p, c.toNat, s.opsec - s.get (V.fabUp p)]⟩) ∧
  -- LINK_UP (R310)
  (∀ (p : Fin 2) (fec : Fin 4) (ab : BitVec 32) (lanes : List (Nat × Nat)) (dup : List Nat) (s : State), bitOf (s.get
    R.CVN_STAT_PWR_EN) 3 = true → s.get R.FAB_CTL_EN = 1 → s.hasPort p = true → bitOf (s.get R.FAB_CTL_PORT_DIS) p =
    false → s.linkUp p = false → ∃ t, exec (.linkUp p fec ab lanes dup) s = .next t ∧ t.linkUp p = true ∧ (Tab.at []
    t.partner p).take 3 = [s.get R.FAB_STAT_MODE, fec, ab.toNat]) ∧
  -- NEGOTIATION_FAILURE (R309)
  (∀ (p : Fin 2) (ab : BitVec 32) (s : State), s.get R.FAB_CTL_EN = 1 → s.hasPort p = true → s.linkUp p = false → ∃ t,
    exec (.negotiationFailure p ab) s = .next t ∧ bitOf (t.get R.FAB_STAT_AN_FAIL) p = true ∧ t.inbox = s.inbox ++ [⟨1,
    0x14, error, noInst, [p, ab.toNat]⟩]) ∧
  -- DHCP_LEASE_ACQUIRED (R315)
  (∀ (p : Fin 2) (v6 : Bool) (addr : BitVec 128) (s : State), s.linkUp p = true → (if v6 then s.nflag 3 || s.nflag 4
    else s.nflag 2) = true → ∃ t, exec (.dhcpLeaseAcquired p v6 addr false) s = .next t ∧ t.addrs = (s.addrs.filter fun
    x => decide (¬(x.port = p.val ∧ x.addr = addr.toNat ∧ x.v6 = v6))) ++ [⟨p, addr.toNat, v6, true, true, if bitOf
    (s.get R.FAB_STAT_TAKEN) p then 1 - p else p⟩]) ∧
  -- DHCP_LEASE_LOST (R315)
  (∀ (p : Fin 2) (addr : BitVec 128) (s : State), ((s.addrs.any fun x => x.dyn && decide (x.port = p.val ∧ x.addr =
    addr.toNat)) = true) → ∃ t, exec (.dhcpLeaseLost p addr) s = .next t ∧ t.addrs = s.addrs.filter fun x => !(x.dyn &&
    decide (x.port = p.val ∧ x.addr = addr.toNat))) ∧
  -- FAILOVER (R316)
  (∀ (p : Fin 2) (s : State), s.get R.FAB_CTL_EN = 1 → s.nflag 5 = true → s.get R.FAB_STAT_MODE ≠ 1 → s.linkUp p = false
    → s.linkUp (1 - p.val) = true → bitOf (s.get R.FAB_STAT_TAKEN) p = false → ∃ t, exec (.failover p []) s = .next t ∧
    (t.addrs = s.addrs.map fun x => if x.holder = p.val then { x with holder := 1 - p.val } else x) ∧ bitOf (t.get
    R.FAB_STAT_TAKEN) p = true) ∧
  -- ADDRESS_ANNOUNCE (R316)
  (∀ (p : Fin 2) (s : State), ∃ t, exec (.addressAnnounce p) s = .next t ∧ t.get (V.fabAnn p) = (s.get (V.fabAnn p) - 1)
    % 4) ∧
  -- FAILBACK (R317)
  (∀ (p : Fin 2) (s : State), s.linkUp p = true → bitOf (s.get R.FAB_STAT_TAKEN) p = true → ∃ t, exec (.failback p) s =
    .next t ∧ (t.addrs = s.addrs.map fun x => if x.port = p.val then { x with holder := p } else x) ∧ bitOf (t.get
    R.FAB_STAT_TAKEN) p = false) ∧
  -- LLDP_RECEIVE (R319)
  (∀ (p : Fin 2) (c i : BitVec 64) (pfc : BitVec 8) (s : State), s.linkUp p = true → ∃ t, exec (.lldpReceive p c i pfc)
    s = .next t ∧ (Tab.at [] t.partner p).drop 3 = [c.toNat / 2 ^ 32, c.toNat % 2 ^ 32, i.toNat / 2 ^ 32, i.toNat % 2 ^
    32, pfc.toNat]) ∧
  -- TRANSPORT_CONNECTION_FAILURE (R312)
  (∀ (c q : BitVec 16) (x : Ctrl) (s : State), s.ctrl c.toNat = some x → ∃ t, exec (.transportConnectionFailure c q) s =
    .next t ∧ t.ctrl c.toNat = some { x with lostq := x.lostq ++ [q.toNat], aers := if q.toNat = 0 then [] else x.aers }
    ∧ (t.held = s.held.filter fun h => !decide (h.2.1.cntlid = c.toNat ∧ h.2.1.qid = q.toNat)))

/-- Tailor calibration and ageing commands complete: for each, under conditions on the state and the operands alone,
a next state and what it holds of measurements due, ageing records, verification and the Tailor store. -/
def Obligations.TailorCommandsComplete : Prop :=
  -- AGEING_DUE (R456)
  (∀ (h : Fin 256) (s : State), s.get R.TLR_CTL_AGE_EN = 1 → (h.val = 255 ∨ h.val < s.nact * s.nhpa) → s.newest h = none
    → (s.dues.any fun d => decide (d.1 = h.val)) = false → ∃ t, exec (.ageingDue h false) s = .next t ∧ t.dues = s.dues
    ++ [(h.val, 1)]) ∧
  (∀ (h : Fin 256) (s : State), s.get R.TLR_CTL_AGE_EN = 1 → h.val < s.nact * s.nhpa → h.val ≠ 255 → (s.dues.any fun d
    => decide (d.1 = h.val)) = false → ∃ t, exec (.ageingDue h true) s = .next t ∧ t.dues = s.dues ++ [(h.val, 2)]) ∧
  -- VERIFY_DUE (R461)
  (∀ (h : GHead) (z : RZone) (s : State), ((s.verifs.any fun v => decide (v.1 = h.val * 64 + z.val ∧ v.2 ≤ s.opsec)) =
    true) → (s.dues.any fun d => decide (d.1 = h.val)) = false → ∃ t, exec (.verifyDue h z) s = .next t ∧ t.dues =
    s.dues ++ [(h.val, 4)] ∧ (t.verifs = s.verifs.filter fun v => decide (v.1 ≠ h.val * 64 + z.val))) ∧
  -- AGEING_OVERDUE (R456)
  (∀ (h : Fin 256) (s : State), (s.dues.any fun d => decide (d.1 = h.val)) = true → ∃ t, exec (.ageingOverdue h) s =
    .next t ∧ t.get R.TLR_CNT_OVERDUE = Nat.min (s.get R.TLR_CNT_OVERDUE + 1) 65535) ∧
  -- AGEING_MEASURE_DONE (R457)
  (∀ (h : Fin 256) (r : AgeResult) (d : Nat × Nat) (s : State), (s.dues.find? fun d => decide (d.1 = h.val)) = some d →
    ∃ t, exec (.ageingMeasureDone h r) s = .next t ∧ ((t.ages.getLast?.map fun q => (q.head, q.cause, q.opsec)) = some
    (h.val, d.2, s.opsec)) ∧ (t.dues = s.dues.filter fun x => decide (x.1 ≠ h.val))) ∧
  -- TRACE (R453)
  (∀ (s : State), s.get R.TLR_STAT_TRACING = 0 → s.get R.TLR_STAT_MEASURING = 0 → s.allUnloaded = true → s.crlSt ≤
    crlSTOPPED → ∃ t, exec (.trace true) s = .next t ∧ t.get R.TLR_STAT_TRACING = 1) ∧
  -- TRACE_DONE (R453)
  (∀ (ref : Nat) (v : Nat) (s : State), s.get R.TLR_STAT_TRACING = 1 → ∃ t, exec (.traceDone (.missing ref v)) s = .next
    t ∧ t.get R.TLR_STAT_TRACING = 0 ∧ t.get R.TLR_EVT_TRACE_FAIL = 1 ∧ t.certs = s.certs) ∧
  (∀ (ppb : Int) (vref : List Nat) (tj : Int) (s : State), s.get R.TLR_STAT_TRACING = 1 → ∃ t, exec (.traceDone (.traced
    ppb vref tj [])) s = .next t ∧ t.get R.TLR_STAT_TRACING = 0 ∧ t.certs = ((s.put R.TLR_STAT_TRACING 0).certOf ppb
    vref tj [] :: s.certs).take 5)

/-- Sideshow port commands complete: for each, under conditions on the state and the operands alone,
a next state and what it holds of the SPI frame state, the mailbox window and the attention output. -/
def Obligations.SideshowCommandsComplete : Prop :=
  -- SPI_WRITE_FRAME (R498)
  (∀ (hi lo b0 b1 b2 b3 : Byte) (hw : List (BitVec 32)) (s : State), s.sdsDeaf = false → s.get R.SDS_STAT_STATE = 0 →
    128 ≤ hi.toNat → lo.toNat % 4 = 0 → ∃ t, exec (.spiWriteFrame [2, hi, lo, b0, b1, b2, b3] hw) s = .next t ∧ t.win =
    putBytes s.win (winKey 0x1A 0 (256 * hi.toNat + lo.toNat)) (leBytes 4 (leNat [b0, b1, b2, b3]))) ∧
  -- SPI_READ_FRAME (R498)
  (∀ (off : BitVec 16) (n : BitVec 17) (s : State), s.sdsDeaf = false → ∃ t, exec (.spiReadFrame off n) s = .next t ∧
    t.miso = some ((List.range (Nat.min n.toNat (65536 - off.toNat))).map fun i => s.sdsByte (off.toNat + i))) ∧
  (∀ (off : BitVec 16) (n : BitVec 17) (s : State), s.sdsDeaf = true → ∃ t, exec (.spiReadFrame off n) s = .next t ∧
    t.miso = none) ∧
  -- SDS_GO (R500)
  (∀ (s : State), s.get R.SDS_STAT_STATE = 0 → s.accStatus (some 8) 32704 (s.bytes 0x1A 0 0x8000 (Nat.min 32768 (s.get
    R.SDS_LEN_LEN))) = 0 → ∃ t, exec (.sdsGo) s = .next t ∧ t.get R.SDS_STAT_STATE = 1 ∧ t.reqNo = s.reqNo + 1 ∧
    ((t.reqs.getLast?.map fun r => (r.mb, r.no, r.body)) = some (8, s.reqNo, (s.bytes 0x1A 0 0x8000 (Nat.min 32768
    (s.get R.SDS_LEN_LEN))).drop 64))) ∧
  -- SDS_ACK (R500)
  (∀ (s : State), s.get R.SDS_STAT_STATE = 3 → ∃ t, exec (.sdsAck) s = .next t ∧ t.get R.SDS_STAT_STATE = 0 ∧ t.get
    R.SDS_STAT_ACC_STATUS = 0) ∧
  (∀ (r : Req) (n : Nat) (s : State), s.get R.SDS_STAT_STATE = 2 → s.outst 8 = [r] → r.ready = some n → ∃ t, exec
    (.sdsAck) s = .next t ∧ t.get R.SDS_STAT_STATE = 0 ∧ (t.reqs = s.reqs.filter fun x => decide (x.no ≠ r.no))) ∧
  -- SDS_CLAIM (R501)
  (∀ (i : Fin 32) (s : State), s.bankSt 8 i = 1 → ∃ t, exec (.sdsClaim false (BitVec.ofNat 32 (2 ^ i.val))) s = .next t
    ∧ t.bankSt 8 i = 2) ∧
  -- SDS_DONE (R501)
  (∀ (i : Fin 32) (s : State), s.bankSt 8 i = 2 → s.srcOf 8 i = none → ∃ t, exec (.sdsDone false (BitVec.ofNat 32 (2 ^
    i.val))) s = .next t ∧ t.bankSt 8 i = 0)

/-- Playbill event recorder commands complete: for each, under conditions on the state and the operands alone,
a next state and what it holds of the open record, the record buffer and the ring. -/
def Obligations.EventRecorderCommandsComplete : Prop :=
  -- EVENT_DESCRIPTOR (R470)
  (∀ (d : Desc) (l : List Desc) (s : State), s.inbox = d :: l → s.popen = none → ∃ t, exec (.eventDescriptor) s = .next
    t ∧ t.inbox = l ∧ ((t.popen.map fun r => (r.desc, r.seq, r.reps, r.lostCnt)) = some (d, s.get V.pbSeq, 1, s.get
    V.pbDrop)) ∧ t.get V.pbSeq = (s.get V.pbSeq + 1) % 4294967296) ∧
  (∀ (d : Desc) (l : List Desc) (r : Rec) (s : State), s.inbox = d :: l → s.popen = some r → r.desc = d → s.get V.pbDrop
    = 0 → s.get V.pbHeld = 0 → r.reps < 65535 → ∃ t, exec (.eventDescriptor) s = .next t ∧ t.inbox = l ∧ t.popen = some
    { r with reps := r.reps + 1, lastOpsec := s.opsec }) ∧
  (∀ (d : Desc) (l : List Desc) (r : Rec) (s : State), s.inbox = d :: l → s.popen = some r → r.desc ≠ d → 64 ≤
    s.pbuf.length → ∃ t, exec (.eventDescriptor) s = .next t ∧ t.popen = some r ∧ t.get V.pbDrop = Nat.min 255 (s.get
    V.pbDrop + 1) % 256) ∧
  -- RECORD_CLOSE_TIMER (R471)
  (∀ (r : Rec) (s : State), s.popen = some r → s.pbuf.length < 64 → ∃ t, exec (.recordCloseTimer) s = .next t ∧ t.popen
    = none ∧ t.pbuf = s.pbuf ++ [r]) ∧
  -- RING_PROGRAM_DONE (R473)
  (∀ (o : FlashOp) (n : Nat) (s : State), s.ringTop = some o → o.erase = false → n = s.ringPage o → n ≠ 0 → s.get
    V.pbHeld = 0 → ∃ t, exec (.ringProgramDone true) s = .next t ∧ t.pbuf = s.pbuf.drop n ∧ t.get V.pbSlot = (s.get
    V.pbSlot + n) % 262144 ∧ t.flash = progBytes s.flash o.addr o.data) ∧
  -- RING_BLOCK_ERASE_DONE (R474)
  (∀ (o : FlashOp) (s : State), s.ringTop = some o → o.erase = true → s.get V.pbErase = 1 → o.blk = 3072 + s.get
    V.pbSlot / 1024 → ∃ t, exec (.ringBlockEraseDone true) s = .next t ∧ t.get V.pbErase = 0 ∧ (t.ring = s.ring.filter
    fun e => decide (e.1 / 1024 ≠ s.get V.pbSlot / 1024)) ∧ (t.flash = s.flash.filter fun e => decide (e.1 / 65536 ≠
    o.blk)) ∧ t.blkRec o.blk = ⟨(s.blkRec o.blk).erases + 1, false⟩) ∧
  -- CLEAR_ERASE_DONE (R477)
  (∀ (o : FlashOp) (s : State), s.ringTop = some o → o.erase = true → s.get V.pbClr ≠ 0 → o.blk = 3072 + s.get
    V.pbClrBlk → ∃ t, exec (.clearEraseDone true) s = .next t ∧ t.get V.pbClr = (s.get V.pbClr - 1) % 256 ∧ t.get
    V.pbClrBlk = (s.get V.pbClrBlk + 1) % 256 ∧ (t.ring = s.ring.filter fun e => decide (e.1 / 1024 ≠ s.get V.pbClrBlk))
    ∧ (t.flash = s.flash.filter fun e => decide (e.1 / 65536 ≠ o.blk)))

/-- Power state and thermal commands complete: for each, under conditions on the state and the operands alone,
a next state and what it holds of power state steps, wakes, Caravan counters, die temperatures and throttling. -/
def Obligations.PowerStateCommandsComplete : Prop :=
  -- SIGNAL_DETECT_WAKE (R318)
  (∀ (s : State), s.get R.CVN_STAT_PS = 5 → s.get V.cvnWaking = 0 → s.get V.pslOff = 0 → ∃ t, exec (.signalDetectWake) s
    = .next t ∧ t.get R.RMC_CAUSE_SRC = 7 ∧ t.get R.RMC_STAT_STEP = 2 ∧ t.cmds = []) ∧
  (∀ (s : State), s.get R.CVN_STAT_PS ≠ 5 → s.get R.CVN_STAT_PS_TGT = 5 → s.get V.psStep ≠ 0 → s.get V.wakePend = 0 → ∃
    t, exec (.signalDetectWake) s = .next t ∧ t.get V.wakePend = 1 ∧ t.get R.CVN_STAT_PS = s.get R.CVN_STAT_PS) ∧
  -- SS_CS_WAKE (R430)
  (∀ (s : State), s.get R.CVN_STAT_PS = 5 → s.get V.cvnWaking = 0 → s.get V.pslOff = 0 → ∃ t, exec (.ssCsWake) s = .next
    t ∧ t.get R.RMC_CAUSE_SRC = 7 ∧ t.get R.RMC_STAT_STEP = 2 ∧ t.cmds = []) ∧
  (∀ (s : State), s.get R.CVN_STAT_PS ≠ 5 → s.get R.CVN_STAT_PS_TGT = 5 → s.get V.psStep ≠ 0 → s.get V.wakePend = 0 → ∃
    t, exec (.ssCsWake) s = .next t ∧ t.get V.wakePend = 2 ∧ t.get R.CVN_STAT_PS = s.get R.CVN_STAT_PS) ∧
  -- SIDEBAND_WAKE (R430)
  (∀ (s : State), s.get R.CVN_STAT_PS = 5 → s.get V.cvnWaking = 0 → s.get V.pslOff = 0 → ∃ t, exec (.sidebandWake) s =
    .next t ∧ t.get R.RMC_CAUSE_SRC = 7 ∧ t.get R.RMC_STAT_STEP = 2 ∧ t.cmds = []) ∧
  (∀ (s : State), s.get R.CVN_STAT_PS ≠ 5 → s.get R.CVN_STAT_PS_TGT = 5 → s.get V.psStep ≠ 0 → s.get V.wakePend = 0 → ∃
    t, exec (.sidebandWake) s = .next t ∧ t.get V.wakePend = 3 ∧ t.get R.CVN_STAT_PS = s.get R.CVN_STAT_PS) ∧
  -- OPSEC_TICK (R429)
  (∀ (s : State), s.get V.vin5ok = 1 → ∃ t, exec (.opsecTick) s = .next t ∧ t.get R.CVN_OPSEC_SECONDS = Nat.min
    4294967295 (s.get R.CVN_OPSEC_SECONDS + 1)) ∧
  -- IDLE_TIMER (R434)
  (∀ (s : State), s.idle = true → s.get V.wakeHold = 0 → ∃ t, exec (.idleTimer) s = .next t ∧ t.get
    R.CVN_BUD_PRES_PRES_US % 4294967296 = s.get R.CVN_BUD_EFF_EFF_US % 4294967296) ∧
  -- WAKE_HOLD_EXPIRY (R434)
  (∀ (s : State), ∃ t, exec (.wakeHoldExpiry false) s = .next t ∧ t.get V.wakeHold = 0) ∧
  -- PS_ENTRY_STEP (R436)
  (∀ (s : State), s.get R.CVN_STAT_PS_TGT = 2 → s.get V.psStep = 1 → s.get V.pslOff = 0 → ∃ t, exec (.psEntryStep) s =
    .next t ∧ t.get V.psStep = 2 ∧ (t.mops = s.mops.map fun o => { o with paused := true })) ∧
  (∀ (s : State), s.get R.CVN_STAT_PS_TGT = 2 → s.get V.psStep = 3 → s.get V.pslOff = 0 → s.allUnloaded = true → ∃ t,
    exec (.psEntryStep) s = .next t ∧ t.get V.psStep = 0 ∧ t.get R.CVN_STAT_PS = 2) ∧
  -- SENSOR_SAMPLE (R440)
  (∀ (i : Fin 5) (raw : BitVec 16) (s : State), i.val < 3 → ∃ t, exec (.sensorSample i raw) s = .next t ∧ t.get
    (R.PSL_TEMP_RAW i) = raw.toNat) ∧
  -- THERMAL_RESTART (R439)
  (∀ (s : State), s.get V.pslOff = 1 → s.get R.CVN_STAT_PWR_EN = 0 → ((List.range 5).any fun i => decide (s.level i =
    3)) = false → ∃ t, exec (.thermalRestart) s = .next t ∧ t.get R.RMC_CAUSE_SRC = 6 ∧ t.get R.RMC_STAT_STEP = 2 ∧
    t.cmds = []) ∧
  -- THROTTLE_STEP_UP (R442)
  (∀ (d : Fin 4) (s : State), s.dieHot d = true → s.get (stepFld d) < stepMax d → ∃ t, exec (.throttleStepUp d) s =
    .next t ∧ t.get (stepFld d) = s.get (stepFld d) + 1) ∧
  -- THROTTLE_STEP_DOWN (R442)
  (∀ (d : Fin 4) (s : State), s.dieHot d = false → s.get (stepFld d) ≠ 0 → ∃ t, exec (.throttleStepDown d) s = .next t ∧
    t.get (stepFld d) = (s.get (stepFld d) - 1) % 2 ^ (stepFld d).w) ∧
  -- THROTTLE_ALTERNATE (R442)
  (∀ (s : State), s.get R.PSL_STAT_STEP_CTL = 10 → ∃ t, exec (.throttleAlternate) s = .next t ∧ t.get V.thSet = (1 -
    s.get V.thSet) % 2) ∧
  -- FABRIC_PAUSE_WINDOW (R442)
  (∀ (s : State), 9 ≤ s.get R.PSL_STAT_STEP_CTL → ∃ t, exec (.fabricPauseWindow) s = .next t ∧ t.get V.fabPause = (1 -
    s.get V.fabPause) % 2)

/-- Reset, start and spindle start commands complete: for each, under conditions on the state and the operands alone,
a next state and what it holds of the reset causes, the start step, permissions and attempts. -/
def Obligations.ResetAndStartCommandsComplete : Prop :=
  -- POWER_ON_RESET (R481)
  (∀ (s : State), s.get V.vin5ok = 0 → ∃ t, exec (.powerOnReset) s = .next t ∧ t.get V.vin5ok = 1 ∧ t.get
    R.RMC_CAUSE_SRC = 1 ∧ t.get V.pwrSeq = 1 ∧ t.cmds = [] ∧ t.reqs = [] ∧ t.ctrls = []) ∧
  -- VIN5_LOSS (R21)
  (∀ (s : State), s.get V.vin5ok = 1 → ∃ t, exec (.vin5Loss) s = .next t ∧ t.get V.vin5ok = 0 ∧ t.inbox = [] ∧ t.popen =
    none ∧ t.pbuf = [] ∧ t.cmds = [] ∧ t.reqs = [] ∧ t.ctrls = []) ∧
  -- RAIL_LOSS_RESET (R481)
  (∀ (s : State), s.get V.vin5ok = 1 → s.get R.CVN_STAT_PWR_EN ≠ 0 → ∃ t, exec (.railLossReset) s = .next t ∧ t.get
    R.RMC_CAUSE_SRC = 2 ∧ t.get R.RMC_STAT_STEP = 2 ∧ t.cmds = [] ∧ t.reqs = [] ∧ t.ctrls = []) ∧
  -- RINGMASTER_RESTART (R481)
  (∀ (s : State), s.get V.vin5ok = 1 → s.get V.fwUp = 1 → ∃ t, exec (.ringmasterRestart) s = .next t ∧ t.cmds = [] ∧
    t.reqs = [] ∧ t.ctrls = []) ∧
  -- FIRMWARE_RESET (R483)
  (∀ (s : State), s.get V.fwRst = 3 → s.atRest = true → ∃ t, exec (.firmwareReset) s = .next t ∧ t.cmds = [] ∧ t.reqs =
    [] ∧ t.ctrls = []) ∧
  -- STAGE2 (R422)
  (∀ (s : State), s.get R.SNT_STAT_STAGE = 2 → ∃ t, exec (.stage2) s = .next t ∧ t.cmds = [] ∧ t.reqs = [] ∧ t.ctrls =
    []) ∧
  -- PWR_EN_STEP (R431)
  (∀ (s : State), s.get V.pslOff = 0 → s.get V.vin5ok = 1 → s.get V.pwrSeq = 1 → s.pwrUp < 5 → ∃ t, exec (.pwrEnStep) s
    = .next t ∧ t.get R.CVN_STAT_PWR_EN = 2 ^ (s.pwrUp + 1) - 1) ∧
  -- XTAL_FAIL (R29)
  (∀ (n : BitVec 32) (s : State), s.get V.cvnRc = 0 → ∃ t, exec (.xtalFail n) s = .next t ∧ t.get V.cvnRc = 1 ∧ t.get
    R.CVN_STAT_XTAL_FAIL = 1 ∧ t.get R.CVN_EVT_XTAL_FAIL = 1) ∧
  -- XTAL_RECOVER (R29)
  (∀ (s : State), ∃ t, exec (.xtalRecover) s = .next t ∧ t.get V.cvnRc = 0) ∧
  -- IO_READY (R491)
  (∀ (s : State), s.get V.fwUp = 1 → s.get R.RMC_STAT_IO_READY = 0 → ((List.range s.nact).all s.actSettled) = true →
    s.get V.fwRst = 0 → s.get V.wake5 = 0 → ∃ t, exec (.ioReady [] [] [] false) s = .next t ∧ t.get R.RMC_STAT_IO_READY
    = 1 ∧ t.get R.RMC_EVT_IO_READY = 1 ∧ t.get R.RMC_STAT_ACT_OUT = s.actsOut % 16) ∧
  -- START_LATE (R492)
  (∀ (s : State), s.get V.fwUp = 1 → s.get R.RMC_STAT_IO_READY = 0 → s.get V.startLate = 0 → 7 ≤ s.get R.RMC_STAT_STEP →
    s.get V.fwRst = 0 → ∃ t, exec (.startLate) s = .next t ∧ t.get V.startLate = 1 ∧ t.get R.RMC_EVT_START_LATE = 1) ∧
  -- SHORT_TIMER_END (R206)
  (∀ (s : State), s.crlSt = crlSHORT → s.get V.crlStopAtt = 1 → s.get V.fwRst = 0 → ∃ t, exec (.shortTimerEnd) s = .next
    t ∧ t.get R.CRL_STAT_STATE = crlSTOPPED ∧ t.get V.crlStopAtt = 0 ∧ t.get V.crlPerm = 0) ∧
  -- SHORT_QUIET_END (R217)
  (∀ (s : State), s.crlSt = crlSHORT → s.get V.crlStopAtt = 0 → s.get V.crlFailed = 0 → s.get V.fwRst = 0 → ∃ t, exec
    (.shortQuietEnd) s = .next t ∧ t.get R.CRL_STAT_STATE = crlSTOPPED ∧ t.get R.CRL_SPEED_SPEED = 0 ∧ t.get V.crlPerm =
    0) ∧
  -- SPIN_PERMISSION (R488)
  (∀ (s : State), s.crlSt = crlSTOPPED → s.get R.CRL_STAT_SP ≠ 0 → s.get V.sagWait = 0 → s.get V.spinLow = 0 → s.get
    V.crlPerm = 0 → s.get V.spinMode = 0 → s.get V.spinSt = 0 → ∃ t, exec (.spinPermission) s = .next t ∧ t.get V.spinSt
    = 1 ∧ t.get V.spinFrom = s.get V.msNow % 4294967296 ∧ t.get V.spinLen = s.backoff (s.get V.spinTry) % 4294967296) ∧
  (∀ (s : State), s.crlSt = crlSTOPPED → s.get R.CRL_STAT_SP ≠ 0 → s.get V.sagWait = 0 → s.get V.spinLow = 0 → s.get
    V.crlPerm = 0 → s.get V.spinMode = 1 → s.grantSeen = true → ∃ t, exec (.spinPermission) s = .next t ∧ t.get
    V.crlPerm = 1) ∧
  -- SPIN_HOLD_N_CHANGE (R488)
  (∀ (b : Bool) (s : State), ∃ t, exec (.spinHoldNChange b) s = .next t ∧ t.get V.spinLow = b2n (!b)) ∧
  -- SPIN_BACKOFF_END (R489)
  (∀ (s : State), s.get V.spinMode = 0 → s.get V.spinSt = 1 → s.grantSeen = false → ∃ t, exec (.spinBackoffEnd) s =
    .next t ∧ t.get V.spinSt = 2) ∧
  -- SPIN_DELAY_END (R388)
  (∀ (s : State), s.get V.spinMode = 2 → s.get V.spinSt = 1 → s.grantSeen = false → ∃ t, exec (.spinDelayEnd) s = .next
    t ∧ t.get V.spinSt = 2) ∧
  -- SAG_WAIT_END (R490)
  (∀ (s : State), s.get V.sagWait = 1 → ∃ t, exec (.sagWaitEnd) s = .next t ∧ t.get V.sagWait = 0)

/-- Register accesses and diagnostic requests complete: for each, under conditions on the state and the operands alone,
a next state and what it holds of register values, responses and their statuses. -/
def Obligations.RegisterCommandsComplete : Prop :=
  -- ENUMERATION_COMPLETE (R100)
  (∀ (a : Act) (id cap : BitVec 16) (loads : List (List Nat)) (flex : Nat) (s : State), s.works = [] → s.get
    (V.sptEnumBusy a) = 1 → id.toNat / 256 = 1 → cap.toNat % 16 = s.nhpa → ((List.range s.nhpa).any fun l => decide
    (s.headEnt a l 0 1 ≠ cap.toNat / 16 % 4)) = false → flex ≤ 1200 → ∃ t, exec (.enumerationComplete a id cap loads
    flex) s = .next t ∧ t.get (R.SPT_STAT_ENUM_DONE a) = 1) ∧
  -- HEADS_ON_RAMP (R152)
  (∀ (a : Act) (s : State), s.works = [] → s.srvSt a = srvUNLOADING → ∃ t, exec (.headsOnRamp a) s = .next t ∧ t.srvSt a
    = srvUNLOADED) ∧
  -- REQUEST_COMPLETE (R359)
  (∀ (rq : ReqId) (r : Req) (s : State), s.works = [] → ((s.reqs.find? fun r => decide (r.mb = rq.mb.val ∧ r.tag =
    rq.tag.toNat ∧ r.done = true ∧ r.ready = none ∧ r.waits = [])) = some r) → r.discard = false → s.held = [] → r.mb ≠
    8 → ∃ t, exec (.requestComplete rq) s = .next t ∧ (t.reqs = s.reqs.map fun x => if x.no = r.no then
    { x with ready := some s.rspNo } else x) ∧ t.rspNo = s.rspNo + 1) ∧
  -- REGISTER_WRITE (R17)
  (∀ (m : Fin 64) (b : Fin 256) (i : Fin 40) (o : Fin 65536) (v : BitVec 32) (w : World) (s : State), offKnown b o =
    false ∨ bitOf (s.get R.CVN_STAT_PWR_EN) 2 = false → ∃ t, exec (.registerWrite m b i o v w) s = .next t ∧ t = s) ∧
  (∀ (m : Fin 64) (v : BitVec 32) (w : World) (s : State), bitOf (s.get R.CVN_STAT_PWR_EN) 2 = true → ∃ t, exec
    (.registerWrite m 0x17 0 0 v w) s = .next t ∧ t.get R.PSL_CTL_XCHK_EN = b2n (bitOf v.toNat 0)) ∧
  (∀ (m : Fin 64) (v : BitVec 32) (w : World) (s : State), v ≠ 0 → bitOf (s.get R.CVN_STAT_PWR_EN) 2 = true → ∃ t, exec
    (.registerWrite m 0x0A 0 0x14 v w) s = .next t ∧ t.get R.PKT_LFSR_LFSR = v.toNat) ∧
  (∀ (m : Fin 64) (v : BitVec 32) (w : World) (s : State), bitOf (s.get R.CVN_STAT_PWR_EN) 2 = true → ∃ t, exec
    (.registerWrite m 0x18 0 0x1008 v w) s = .next t ∧ t.win = putBytes s.win (winKey 0x18 0 0x1008) (leBytes 4 v.toNat)
    ∧ t.tstore = putBytes s.tstore (winKey 0x18 0 0x1008) (leBytes 4 v.toNat)) ∧
  -- SHADOW_COMMIT (R385)
  (∀ (a : Act) (no mb i v : Nat) (hw : List (List (BitVec 32))) (s : State), i < 40 → s.shadow = [⟨no, mb, a, 0x13, i,
    0x1100, v⟩] → ∃ t, exec (.shadowCommit a hw) s = .next t ∧ t.shadow = [] ∧ t.win = putBytes s.win (winKey 0x13 i
    0x1100) (leBytes 4 v) ∧ (t.reqs = s.reqs.map fun r =>
    { r with waits := r.waits.filter fun x => decide (x.2 ≠ a.val) })) ∧
  -- ENABLE (R381)
  (∀ (rq : ReqId) (w : World) (r : Req) (s : State), s.started rq 0x0202 = some r → s.works = [] → r.args = [0x15, 0, 1,
    0, 1, 0, 0, 0] → s.get R.SNT_CTL_EN = 0 → (5 ≤ s.get R.SNT_CFG_T1 ∧ s.get R.SNT_CFG_T1 ≤ 600) → ∃ t, exec (.enable
    rq w) s = .next t ∧ t.get R.SNT_CTL_EN = 1 ∧ t.reqs = s.answered r.no 0 0 [1, 0, 0, 0, 0, 0, 0, 0, 0, 0, 0, 0, 0, 0,
    0, 0]) ∧
  -- ENABLE_STATE (R378)
  (∀ (rq : ReqId) (r : Req) (s : State), s.started rq 0x0203 = some r → 204 ≤ r.limit → ∃ t, exec (.enableState rq) s =
    .next t ∧ ∃ b, b.length = 204 ∧ t.reqs = s.answered r.no 0 0 b) ∧
  -- REG_READ (R383)
  (∀ (rq : ReqId) (r : Req) (n : Nat) (s : State), s.started rq 0x0B00 = some r → (1 ≤ n ∧ n ≤ 1024) → r.args.length = 4
    + 4 * n → fieldAt r.args 0 2 = n → fieldAt r.args 2 2 = 0 → 4 * n ≤ r.limit → (∀ i < n, s.entryBad false (fieldAt
    r.args (4 + 4 * i) 4, 0, 0) = 0 ∧ offKnown (adrOf (fieldAt r.args (4 + 4 * i) 4)).1 (adrOf (fieldAt r.args (4 + 4 *
    i) 4)).2.2 = true) → ∃ t, exec (.regRead rq) s = .next t ∧ t.reqs = s.answered r.no 0 0 ((List.range n).flatMap fun
    i => leBytes 4 (s.regRead (adrOf (fieldAt r.args (4 + 4 * i) 4)).1 (adrOf (fieldAt r.args (4 + 4 * i) 4)).2.1 (adrOf
    (fieldAt r.args (4 + 4 * i) 4)).2.2))) ∧
  -- REG_READ_BLOCK (R383)
  (∀ (rq : ReqId) (r : Req) (n : Nat) (s : State), s.started rq 0x0B02 = some r → r.args.length = 8 → fieldAt r.args 4 4
    = 4 * n → fieldAt r.args 0 4 % 65536 + 4 * n ≤ 65536 → 4 * n ≤ r.limit → (∀ i < n, s.entryBad false (fieldAt r.args
    0 4 + 4 * i, 0, 0) = 0 ∧ offKnown (adrOf (fieldAt r.args 0 4 + 4 * i)).1 (adrOf (fieldAt r.args 0 4 + 4 * i)).2.2 =
    true) → ∃ t, exec (.regReadBlock rq) s = .next t ∧ t.reqs = s.answered r.no 0 0 ((List.range n).flatMap fun i =>
    leBytes 4 (s.regRead (adrOf (fieldAt r.args 0 4 + 4 * i)).1 (adrOf (fieldAt r.args 0 4 + 4 * i)).2.1 (adrOf (fieldAt
    r.args 0 4 + 4 * i)).2.2))) ∧
  -- REG_WRITE (R383)
  (∀ (rq : ReqId) (w : World) (r : Req) (v : Byte) (s : State), s.started rq 0x0B01 = some r → s.works = [] → s.shadow =
    [] → r.op = 0x0B01 → r.args = [1, 0, 0, 0, 0, 0, 0, 0, 0, 0, 0, 0x17, v, 0, 0, 0, 0, 0, 0, 0, 0, 0, 0, 0] → ∃ t,
    exec (.regWrite rq w) s = .next t ∧ t.get R.PSL_CTL_XCHK_EN = v.toNat % 2 ∧ (t.reqs = s.reqs.map fun x => if x.no =
    r.no then { x with done := true, status := 0, reason := 0, rsp := [1, 0, 0xFF, 0xFF], waits := [] } else x)) ∧
  -- REG_WRITE_BLOCK (R383)
  (∀ (rq : ReqId) (w : World) (r : Req) (v : Byte) (s : State), s.started rq 0x0B03 = some r → s.works = [] → s.shadow =
    [] → r.op = 0x0B03 → r.args = [0, 0, 0, 0x17, 4, 0, 0, 0, v, 0, 0, 0] → ∃ t, exec (.regWriteBlock rq w) s = .next t
    ∧ t.get R.PSL_CTL_XCHK_EN = v.toNat % 2 ∧ (t.reqs = s.reqs.map fun x => if x.no = r.no then
    { x with done := true, status := 0, reason := 0, rsp := [], waits := [] } else x))

/-- Identity and policy requests complete: for each, under conditions on the state and the operands alone,
a next state and what it holds of the payloads of the responses and the policy stores. -/
def Obligations.IdentityAndPolicyRequestsComplete : Prop :=
  -- IDENTIFY (R378)
  (∀ (rq : ReqId) (r : Req) (s : State), s.started rq 0x0100 = some r → r.args.length = 0 → (serial ++ padTo 16 0
    orderCode ++ leBytes 2 Config.stepping ++ leBytes 1 (Config.sampleBits % 128 * 2 + Config.partClass % 2) ++ leBytes
    1 s.nact ++ leBytes 1 s.nhpa ++ leBytes 1 (s.get (V.sptCap 0) / 16 % 4) ++ leBytes 2 s.fmtW ++ leBytes 1 (s.get
    V.fwSlot) ++ s.shownVer 0 ++ s.shownVer 1 ++ nqnPrefix ++ serial ++ List.replicate 14 0).length ≤ r.limit → ∃ t,
    exec (.identify rq) s = .next t ∧ t = (s).respond r.no (0, 0, serial ++ padTo 16 0 orderCode ++ leBytes 2
    Config.stepping ++ leBytes 1 (Config.sampleBits % 128 * 2 + Config.partClass % 2) ++ leBytes 1 s.nact ++ leBytes 1
    s.nhpa ++ leBytes 1 (s.get (V.sptCap 0) / 16 % 4) ++ leBytes 2 s.fmtW ++ leBytes 1 (s.get V.fwSlot) ++ s.shownVer 0
    ++ s.shownVer 1 ++ nqnPrefix ++ serial ++ List.replicate 14 0)) ∧
  -- GET_NONCE (R358)
  (∀ (rq : ReqId) (nonce : BitVec 256) (r : Req) (s : State), s.started rq 0x0101 = some r → r.args.length = 0 →
    (leBytes 32 nonce.toNat ++ leBytes 4 60000).length ≤ r.limit → ∃ t, exec (.getNonce rq nonce) s = .next t ∧ t =
    ({ s with nonces := (s.nonces.filter fun (x : Nonce) => decide (x.mb ≠ r.mb)) ++ [Nonce.mk r.mb (leBytes 32 nonce.toNat) (s.get V.msNow)] }).respond
    r.no (0, 0, leBytes 32 nonce.toNat ++ leBytes 4 60000)) ∧
  -- INVENTORY (R379)
  (∀ (rq : ReqId) (x : Bool × List Nat) (r : Req) (s : State), s.started rq 0x0102 = some r → r.args.length = 4 → (1 ≤
    fieldAt r.args 0 2 ∧ fieldAt r.args 0 2 ≤ 10) → s.item (fieldAt r.args 0 2) (fieldAt r.args 2 2) = some x → (r.args
    ++ [BitVec.ofNat 8 (b2n x.1), 0, 0, 0] ++ x.2.flatMap (leBytes 4)).length ≤ r.limit → ∃ t, exec (.inventory rq) s =
    .next t ∧ t = (s).respond r.no (0, 0, r.args ++ [BitVec.ofNat 8 (b2n x.1), 0, 0, 0] ++ x.2.flatMap (leBytes 4))) ∧
  -- COUNTERS (R378)
  (∀ (rq : ReqId) (r : Req) (s : State), s.started rq 0x0103 = some r → r.args.length = 0 → (leBytes 4 s.opsec ++
    leBytes 4 (s.get R.CVN_PCYC_CYCLES) ++ leBytes 4 (s.get R.CVN_STAT_OPSEC_SAT + 2 * s.get R.CVN_STAT_PCYC_SAT + 4 *
    s.get R.CVN_STAT_XTAL_FAIL)).length ≤ r.limit → ∃ t, exec (.counters rq) s = .next t ∧ t = (s).respond r.no (0, 0,
    leBytes 4 s.opsec ++ leBytes 4 (s.get R.CVN_PCYC_CYCLES) ++ leBytes 4 (s.get R.CVN_STAT_OPSEC_SAT + 2 * s.get
    R.CVN_STAT_PCYC_SAT + 4 * s.get R.CVN_STAT_XTAL_FAIL))) ∧
  -- CLEAR_XTAL (R378)
  (∀ (rq : ReqId) (r : Req) (s : State), s.started rq 0x0104 = some r → r.args.length = 0 → ∃ t, exec (.clearXtal rq) s
    = .next t ∧ t = (s.put R.CVN_STAT_XTAL_FAIL 0).respond r.no (0, 0, [])) ∧
  -- OPTION_READ (R378)
  (∀ (rq : ReqId) (r : Req) (s : State), s.started rq 0x0200 = some r → r.args.length = 8 → fieldAt r.args 0 4 + fieldAt
    r.args 4 4 ≤ 65536 → fieldAt r.args 4 4 ≤ r.limit → 0 ≤ r.limit → ∃ t, exec (.optionRead rq) s = .next t ∧ t =
    (s).respond r.no (0, 0, (s.optBytes.drop (fieldAt r.args 0 4)).take (fieldAt r.args 4 4))) ∧
  -- OPTION_WRITE (R416)
  (∀ (rq : ReqId) (ok1 ok2 : Bool) (r : Req) (s : State), s.started rq 0x0201 = some r → 8 ≤ r.args.length →
    r.args.length = 8 + fieldAt r.args 4 4 → ∃ t, exec (.optionWrite rq ok1 ok2) s = .next t ∧ t = ((s.optWrite (fieldAt
    r.args 0 4) (r.args.drop 8) ok1 ok2).1).respond r.no ((s.optWrite (fieldAt r.args 0 4) (r.args.drop 8) ok1 ok2).2,
    0, [])) ∧
  -- KEY_REGISTER (R377)
  (∀ (rq : ReqId) (ok1 ok2 : Bool) (r : Req) (s : State), s.started rq 0x0204 = some r → r.args.length = 97 → s.keyReg =
    false → fieldAt r.args 0 1 = 4 → (s.optWrite 0x200 ([1, 0, 0, 0] ++ r.args ++ List.replicate 27 0) ok1 ok2).2 = 0 →
    ∃ t, exec (.keyRegister rq ok1 ok2) s = .next t ∧ t = ((s.optWrite 0x200 ([1, 0, 0, 0] ++ r.args ++ List.replicate
    27 0) ok1 ok2).1.post 0x05 0x10 info noInst ((Config.sha384 (r.args.map fun (x : Byte) => x.toNat)).take 8)).respond
    r.no (0, 0, [])) ∧
  -- SET_BUDGET (R387)
  (∀ (rq : ReqId) (r : Req) (s : State), s.started rq 0x0300 = some r → r.args.length = 8 → 16 ≤ r.limit → ∃ t, exec
    (.setBudget rq) s = .next t ∧ t = (s.setBudget (fieldAt r.args 0 4) (fieldAt r.args 4 4)).1.respond r.no
    ((s.setBudget (fieldAt r.args 0 4) (fieldAt r.args 4 4)).1.budgetRsp (fieldAt r.args 0 4))) ∧
  -- GET_BUDGET (R387)
  (∀ (rq : ReqId) (r : Req) (s : State), s.started rq 0x0301 = some r → r.args.length = 4 → 16 ≤ r.limit → ∃ t, exec
    (.getBudget rq) s = .next t ∧ t = s.respond r.no (s.budgetRsp (fieldAt r.args 0 4))) ∧
  -- SPIN_SLOT (R388)
  (∀ (rq : ReqId) (r : Req) (s : State), s.started rq 0x0302 = some r → r.args.length = 16 → fieldAt r.args 0 1 ≤ 3 →
    fieldAt r.args 1 3 = 0 → fieldAt r.args 4 4 ≤ 600000 → (fieldAt r.args 8 2 = 0 ∨ 500 ≤ fieldAt r.args 8 2 ∧ fieldAt
    r.args 8 2 ≤ 6000) → fieldAt r.args 10 6 = 0 → 8 ≤ r.limit → ∃ t, exec (.spinSlot rq) s = .next t ∧ t = ((s.puts
    [(V.spinMode, fieldAt r.args 0 1), (V.spinSt, if fieldAt r.args 0 1 = 2 then 1 else 0), (V.spinFrom, s.get V.msNow),
    (V.spinLen, if fieldAt r.args 0 1 = 2 then fieldAt r.args 4 4 else 0), (V.imaxMa, fieldAt r.args 8
    2)]).spinCheck).respond r.no (0, 0, leBytes 1 (s.puts [(V.spinMode, fieldAt r.args 0 1), (V.spinSt, if fieldAt
    r.args 0 1 = 2 then 1 else 0), (V.spinFrom, s.get V.msNow), (V.spinLen, if fieldAt r.args 0 1 = 2 then fieldAt
    r.args 4 4 else 0), (V.imaxMa, fieldAt r.args 8 2)]).spinCheck.permNow ++ leBytes 1 ((s.puts [(V.spinMode, fieldAt
    r.args 0 1), (V.spinSt, if fieldAt r.args 0 1 = 2 then 1 else 0), (V.spinFrom, s.get V.msNow), (V.spinLen, if
    fieldAt r.args 0 1 = 2 then fieldAt r.args 4 4 else 0), (V.imaxMa, fieldAt r.args 8 2)]).spinCheck.get V.spinMode)
    ++ leBytes 1 ((s.puts [(V.spinMode, fieldAt r.args 0 1), (V.spinSt, if fieldAt r.args 0 1 = 2 then 1 else 0),
    (V.spinFrom, s.get V.msNow), (V.spinLen, if fieldAt r.args 0 1 = 2 then fieldAt r.args 4 4 else 0), (V.imaxMa,
    fieldAt r.args 8 2)]).spinCheck.get V.spinTry) ++ [0] ++ leBytes 4 (s.puts [(V.spinMode, fieldAt r.args 0 1),
    (V.spinSt, if fieldAt r.args 0 1 = 2 then 1 else 0), (V.spinFrom, s.get V.msNow), (V.spinLen, if fieldAt r.args 0 1
    = 2 then fieldAt r.args 4 4 else 0), (V.imaxMa, fieldAt r.args 8 2)]).spinCheck.spinRemain)) ∧
  -- SPIN_STATUS (R388)
  (∀ (rq : ReqId) (r : Req) (s : State), s.started rq 0x0303 = some r → r.args.length = 0 → (leBytes 1 s.permNow ++
    leBytes 1 (s.get V.spinMode) ++ leBytes 1 (s.get V.spinTry) ++ [0] ++ leBytes 4 s.spinRemain).length ≤ r.limit → ∃
    t, exec (.spinStatus rq) s = .next t ∧ t = (s).respond r.no (0, 0, leBytes 1 s.permNow ++ leBytes 1 (s.get
    V.spinMode) ++ leBytes 1 (s.get V.spinTry) ++ [0] ++ leBytes 4 s.spinRemain)) ∧
  -- PLACEMENT_SET (R247)
  (∀ (rq : ReqId) (r : Req) (s : State), s.started rq 0x0900 = some r → r.args.length = 1 → (1 ≤ fieldAt r.args 0 1 ∧
    fieldAt r.args 0 1 < 2 ^ s.nact) → ∃ t, exec (.placementSet rq) s = .next t ∧ t = (s.put V.placeMask (fieldAt r.args
    0 1)).respond r.no (0, 0, [])) ∧
  -- PLACEMENT_GET (R378)
  (∀ (rq : ReqId) (r : Req) (s : State), s.started rq 0x0901 = some r → r.args.length = 0 → (leBytes 1 (s.get
    V.placeMask % 2 ^ s.nact)).length ≤ r.limit → ∃ t, exec (.placementGet rq) s = .next t ∧ t = (s).respond r.no (0, 0,
    leBytes 1 (s.get V.placeMask % 2 ^ s.nact))) ∧
  -- DEFAULTS_SET (R326)
  (∀ (rq : ReqId) (r : Req) (s : State), s.started rq 0x0A00 = some r → r.args.length = 4 → fieldAt r.args 0 4 < 16 → ∃
    t, exec (.defaultsSet rq) s = .next t ∧ t = (s.put V.svcDef (fieldAt r.args 0 4)).respond r.no (0, 0, [])) ∧
  -- DEFAULTS_GET (R378)
  (∀ (rq : ReqId) (r : Req) (s : State), s.started rq 0x0A01 = some r → r.args.length = 0 → (leBytes 4 (s.get
    V.svcDef)).length ≤ r.limit → ∃ t, exec (.defaultsGet rq) s = .next t ∧ t = (s).respond r.no (0, 0, leBytes 4 (s.get
    V.svcDef)))

/-- Thermal, ageing and trim requests complete: for each, under conditions on the state and the operands alone,
a next state and what it holds of the payloads of the responses and the trim registers. -/
def Obligations.ThermalAndTrimRequestsComplete : Prop :=
  -- THERMAL_READ (R378)
  (∀ (rq : ReqId) (r : Req) (s : State), s.started rq 0x0400 = some r → r.args.length = 0 → ((List.range 5).flatMap fun
    i => leBytes 2 (s.get (R.PSL_TEMP_USED i)) ++ leBytes 1 (s.level i) ++ leBytes 1 (b2n (s.suspect i)) ++ leBytes 1
    (s.get (stepFld (dieOf i))) ++ [0, 0, 0]).length ≤ r.limit → ∃ t, exec (.thermalRead rq) s = .next t ∧ t =
    (s).respond r.no (0, 0, (List.range 5).flatMap fun i => leBytes 2 (s.get (R.PSL_TEMP_USED i)) ++ leBytes 1 (s.level
    i) ++ leBytes 1 (b2n (s.suspect i)) ++ leBytes 1 (s.get (stepFld (dieOf i))) ++ [0, 0, 0])) ∧
  -- CLEAR_SUSPECT (R378)
  (∀ (rq : ReqId) (r : Req) (s : State), s.started rq 0x0401 = some r → r.args.length = 1 → fieldAt r.args 0 1 < 32 → ∃
    t, exec (.clearSuspect rq) s = .next t ∧ t = (s.clearSuspect (fieldAt r.args 0 1)).respond r.no (0, 0, [])) ∧
  -- TRIM_READ (R378)
  (∀ (rq : ReqId) (r : Req) (s : State), s.started rq 0x0500 = some r → r.args.length = 2 → trimsOf (fieldAt r.args 0 1)
    (fieldAt r.args 1 1) ≠ [] → (leBytes 2 (trimsOf (fieldAt r.args 0 1) (fieldAt r.args 1 1)).length ++ (trimsOf
    (fieldAt r.args 0 1) (fieldAt r.args 1 1)).flatMap fun o => leBytes 2 o ++ leBytes 4 (s.word 0x18 0 o)).length ≤
    r.limit → ∃ t, exec (.trimRead rq) s = .next t ∧ t = (s).respond r.no (0, 0, leBytes 2 (trimsOf (fieldAt r.args 0 1)
    (fieldAt r.args 1 1)).length ++ (trimsOf (fieldAt r.args 0 1) (fieldAt r.args 1 1)).flatMap fun o => leBytes 2 o ++
    leBytes 4 (s.word 0x18 0 o))) ∧
  -- TRIM_WRITE (R451)
  (∀ (rq : ReqId) (r : Req) (img : List (Nat × Nat)) (s : State), s.started rq 0x0501 = some r → s.works = [] → img =
    (List.range (fieldAt r.args 0 2)).map (fun i => (fieldAt r.args (2 + 6 * i) 2, fieldAt r.args (4 + 6 * i) 4)) →
    r.args.length = 2 + 6 * fieldAt r.args 0 2 → 1 ≤ fieldAt r.args 0 2 → img.map (·.1) = trimsOf (trimOwner (fieldAt
    r.args 2 2)).1 (trimOwner (fieldAt r.args 2 2)).2 → img.any (fun e => decide (2 ^ 22 ≤ e.2)) = false → s.retrimming
    (trimsOf (trimOwner (fieldAt r.args 2 2)).1 (trimOwner (fieldAt r.args 2 2)).2) = false → ∃ t, exec (.trimWrite rq)
    s = .next t ∧ t = (s.trimPut r (trimOwner (fieldAt r.args 2 2)).1 (trimOwner (fieldAt r.args 2 2)).2 img).respondW
    r.no (0, 0, [])) ∧
  -- TABLE_READ (R378)
  (∀ (rq : ReqId) (r : Req) (s : State), s.started rq 0x0502 = some r → r.args.length = 8 → tableAt (adrOf (fieldAt
    r.args 0 4)).1 (adrOf (fieldAt r.args 0 4)).2.2 (fieldAt r.args 4 4) ≠ none → (adrOf (fieldAt r.args 0 4)).2.1 <
    selCount (adrOf (fieldAt r.args 0 4)).1 → fieldAt r.args 4 4 ≤ r.limit → 0 ≤ r.limit → ∃ t, exec (.tableRead rq) s =
    .next t ∧ t = (s).respond r.no (0, 0, s.bytes (adrOf (fieldAt r.args 0 4)).1 (adrOf (fieldAt r.args 0 4)).2.1 (adrOf
    (fieldAt r.args 0 4)).2.2 (fieldAt r.args 4 4))) ∧
  -- TABLE_WRITE (R378)
  (∀ (rq : ReqId) (x : Nat × Nat × Nat × Nat × Bool) (r : Req) (s : State), s.started rq 0x0503 = some r → 8 ≤
    r.args.length → r.args.length = 8 + fieldAt r.args 4 4 → 1 ≤ fieldAt r.args 4 4 → tableAt (adrOf (fieldAt r.args 0
    4)).1 (adrOf (fieldAt r.args 0 4)).2.2 (fieldAt r.args 4 4) = some x → (adrOf (fieldAt r.args 0 4)).2.1 < selCount
    (adrOf (fieldAt r.args 0 4)).1 → (((adrOf (fieldAt r.args 0 4)).2.2 - x.2.1) % x.2.2.1 = 0 ∧ fieldAt r.args 4 4 %
    x.2.2.1 = 0) → (x.2.2.2.2 = true → (((List.range (fieldAt r.args 4 4 / x.2.2.1)).map fun i => ((adrOf (fieldAt
    r.args 0 4)).2.2 + x.2.2.1 * i, (r.args.drop (8 + x.2.2.1 * i)).take x.2.2.1)).any fun e => !crcOk e.2) = false) → ∃
    t, exec (.tableWrite rq) s = .next t ∧ t = (s.forAll ((List.range (fieldAt r.args 4 4 / x.2.2.1)).map fun i =>
    ((adrOf (fieldAt r.args 0 4)).2.2 + x.2.2.1 * i, (r.args.drop (8 + x.2.2.1 * i)).take x.2.2.1)) fun e u =>
    u.putTableEntry (adrOf (fieldAt r.args 0 4)).1 (adrOf (fieldAt r.args 0 4)).2.1 x.2.1 e.1 e.2).respond r.no (0, 0,
    [])) ∧
  -- TAILOR_SAVE (R451)
  (∀ (rq : ReqId) (r : Req) (s : State), s.started rq 0x0504 = some r → r.args.length = 0 → ∃ t, exec (.tailorSave rq
    true) s = .next t ∧ t = (s.tlrSave).respond r.no (0, 0, [])) ∧
  -- CERT_READ (R454)
  (∀ (rq : ReqId) (c : List Byte) (l : List (List Byte)) (r : Req) (s : State), s.started rq 0x0505 = some r →
    r.args.length = 0 → s.certs = c :: l → (c).length ≤ r.limit → ∃ t, exec (.certRead rq) s = .next t ∧ t = (s).respond
    r.no (0, 0, c)) ∧
  -- AGEING_READ (R458)
  (∀ (rq : ReqId) (x : AgeRec) (r : Req) (s : State), s.started rq 0x0600 = some r → r.args.length = 1 → s.newest
    (fieldAt r.args 0 1) = some x → (x.bytes).length ≤ r.limit → ∃ t, exec (.ageingRead rq) s = .next t ∧ t =
    (s).respond r.no (0, 0, x.bytes)) ∧
  -- MARGIN_READ (R460)
  (∀ (rq : ReqId) (r : Req) (s : State), s.started rq 0x0601 = some r → r.args.length = 1 → fieldAt r.args 0 1 < s.nact
    * s.nhpa → (Config.payload 0x0601 ((List.range 64).map (s.hours (fieldAt r.args 0 1)) ++ ((s.demands.filter fun d =>
    decide (d.head = fieldAt r.args 0 1)).flatMap fun d => [d.zone, d.dcls, d.risk]))).length ≤ r.limit → ∃ t, exec
    (.marginRead rq) s = .next t ∧ t = (s).respond r.no (0, 0, Config.payload 0x0601 ((List.range 64).map (s.hours
    (fieldAt r.args 0 1)) ++ ((s.demands.filter fun d => decide (d.head = fieldAt r.args 0 1)).flatMap fun d => [d.zone,
    d.dcls, d.risk])))) ∧
  -- MEASURE_NOW (R456)
  (∀ (rq : ReqId) (r : Req) (s : State), s.started rq 0x0602 = some r → r.args.length = 5 → fieldAt r.args 0 5 < 2 ^
    (s.nact * s.nhpa) → ∃ t, exec (.measureNow rq) s = .next t ∧ t = (s.forAll ((List.range (s.nact * s.nhpa)).filter
    (bitOf (fieldAt r.args 0 5))) fun h u => u.due h 3).respond r.no (0, 0, []))

/-- Recorder, firmware, placement, group and interrupt requests complete: for each,
under conditions on the state and the operands alone, a next state and what it holds of the payloads of the responses,
the ring, placement masks, group record and interrupt sources. -/
def Obligations.RecorderPlacementAndInterruptRequestsComplete : Prop :=
  -- PBL_READ (R476)
  (∀ (rq : ReqId) (l : List Rec) (r : Req) (s : State), s.started rq 0x0700 = some r → r.args.length = 6 → (1 ≤ fieldAt
    r.args 4 2 ∧ fieldAt r.args 4 2 ≤ 1023) → s.pblFrom (fieldAt r.args 0 4) (Nat.min (fieldAt r.args 4 2) (r.limit /
    64)) = some l → (l.flatMap fun x => x.bytes (decide (s.popen = some x))).length ≤ r.limit → ∃ t, exec (.pblRead rq)
    s = .next t ∧ t = (s).respond r.no (0, 0, l.flatMap fun x => x.bytes (decide (s.popen = some x)))) ∧
  -- PBL_STATUS (R476)
  (∀ (rq : ReqId) (r : Req) (s : State), s.started rq 0x0701 = some r → r.args.length = 0 → (leBytes 4 (s.get
    R.PBL_OLDEST_SEQ) ++ leBytes 4 (s.get R.PBL_NEWEST_SEQ) ++ leBytes 4 (s.get R.PBL_HELD_COUNT) ++ leBytes 4
    s.pblFlags).length ≤ r.limit → ∃ t, exec (.pblStatus rq) s = .next t ∧ t = (s).respond r.no (0, 0, leBytes 4 (s.get
    R.PBL_OLDEST_SEQ) ++ leBytes 4 (s.get R.PBL_NEWEST_SEQ) ++ leBytes 4 (s.get R.PBL_HELD_COUNT) ++ leBytes 4
    s.pblFlags)) ∧
  -- PBL_CLEAR (R477)
  (∀ (rq : ReqId) (ok : Bool) (r : Req) (s : State), s.started rq 0x0702 = some r → r.args.length = 0 → ∃ t, exec
    (.pblClear rq ok) s = .next t ∧ t = ((s.pblClear r.mb (s.get (R.TKB_MB_ID r.mb)) ok).1).respond r.no ((s.pblClear
    r.mb (s.get (R.TKB_MB_ID r.mb)) ok).2, 0, [])) ∧
  -- FW_DOWNLOAD (R420)
  (∀ (rq : ReqId) (ok : Bool) (r : Req) (s : State), s.started rq 0x0800 = some r → 5 ≤ r.args.length → ∃ t, exec
    (.fwDownload rq ok) s = .next t ∧ t = ((s.fwDownload r.mb (fieldAt r.args 0 4) (r.args.drop 4) ok).1).respond r.no
    ((s.fwDownload r.mb (fieldAt r.args 0 4) (r.args.drop 4) ok).2, 0, [])) ∧
  -- FW_COMMIT (R421)
  (∀ (rq : ReqId) (ok : Bool) (r : Req) (s : State), s.started rq 0x0801 = some r → r.args.length = 1 → fieldAt r.args 0
    1 ≤ 1 → ∃ t, exec (.fwCommit rq ok) s = .next t ∧ t = ((s.fwCommit (fieldAt r.args 0 1) true ok).1).respond r.no
    ((s.fwCommit (fieldAt r.args 0 1) true ok).2, 0, [])) ∧
  -- FW_STATUS (R420)
  (∀ (rq : ReqId) (r : Req) (s : State), s.started rq 0x0802 = some r → r.args.length = 0 → (Config.payload 0x0802
    ((s.shownVer 0 ++ s.shownVer 1).map (fun (x : Byte) => x.toNat) ++ [s.get V.fwSlot, s.selCode, s.get (V.fwSlotSt 0),
    s.get (V.fwSlotSt 1), s.get V.fwGot, s.get V.fwCause])).length ≤ r.limit → ∃ t, exec (.fwStatus rq) s = .next t ∧ t
    = (s).respond r.no (0, 0, Config.payload 0x0802 ((s.shownVer 0 ++ s.shownVer 1).map (fun (x : Byte) => x.toNat) ++
    [s.get V.fwSlot, s.selCode, s.get (V.fwSlotSt 0), s.get (V.fwSlotSt 1), s.get V.fwGot, s.get V.fwCause]))) ∧
  -- FLASH_STATUS (R408)
  (∀ (rq : ReqId) (r : Req) (s : State), s.started rq 0x0803 = some r → r.args.length = 0 → (Config.payload 0x0803
    ((List.range 4).flatMap fun i => [s.get (V.wdbProgs i), s.get (V.wdbErased i), s.get (V.wdbSusps i), ((s.blks.filter
    fun e => decide (e.1 / 1024 = i) && e.2.bad).map (·.1 % 1024)).length] ++ ((s.blks.filter fun e => decide (e.1 /
    1024 = i) && e.2.bad).map (·.1 % 1024)))).length ≤ r.limit → ∃ t, exec (.flashStatus rq) s = .next t ∧ t =
    (s).respond r.no (0, 0, Config.payload 0x0803 ((List.range 4).flatMap fun i => [s.get (V.wdbProgs i), s.get
    (V.wdbErased i), s.get (V.wdbSusps i), ((s.blks.filter fun e => decide (e.1 / 1024 = i) && e.2.bad).map (·.1 %
    1024)).length] ++ ((s.blks.filter fun e => decide (e.1 / 1024 = i) && e.2.bad).map (·.1 % 1024))))) ∧
  -- BAND_INFO (R378)
  (∀ (rq : ReqId) (r : Req) (s : State), s.started rq 0x0902 = some r → r.args.length = 4 → s.get R.MMG_CTL_FMT_COMMIT =
    1 → fieldAt r.args 0 4 / 1048576 < s.nact * s.nhpa → (fieldAt r.args 0 4 % 1048576 < s.bandCount (fieldAt r.args 0 4
    / 1048576) ∨ Tab.at none s.bands (fieldAt r.args 0 4) ≠ none) → (Config.payload 0x0902 ([bandStNo (s.band (fieldAt
    r.args 0 4)).st, (s.band (fieldAt r.args 0 4)).dcls, (s.band (fieldAt r.args 0 4)).first] ++ s.bandOwner (fieldAt
    r.args 0 4))).length ≤ r.limit → ∃ t, exec (.bandInfo rq) s = .next t ∧ t = (s).respond r.no (0, 0, Config.payload
    0x0902 ([bandStNo (s.band (fieldAt r.args 0 4)).st, (s.band (fieldAt r.args 0 4)).dcls, (s.band (fieldAt r.args 0
    4)).first] ++ s.bandOwner (fieldAt r.args 0 4)))) ∧
  -- POOL_INFO (R378)
  (∀ (rq : ReqId) (r : Req) (s : State), s.started rq 0x0903 = some r → r.args.length = 0 → ((List.range s.nact).flatMap
    fun a => leBytes 4 (s.get (R.MMG_POOL_FREE a)) ++ leBytes 4 (s.get (R.MMG_HELD_HELD a)) ++ leBytes 4 (s.get
    (V.mmgSpare0 a))).length ≤ r.limit → ∃ t, exec (.poolInfo rq) s = .next t ∧ t = (s).respond r.no (0, 0, (List.range
    s.nact).flatMap fun a => leBytes 4 (s.get (R.MMG_POOL_FREE a)) ++ leBytes 4 (s.get (R.MMG_HELD_HELD a)) ++ leBytes 4
    (s.get (V.mmgSpare0 a)))) ∧
  -- ALT_QUEUE (R378)
  (∀ (rq : ReqId) (r : Req) (s : State), s.started rq 0x0904 = some r → r.args.length = 0 → (s.demands.flatMap fun d =>
    leBytes 4 d.head ++ leBytes 4 d.zone ++ leBytes 4 d.dcls).length ≤ r.limit → ∃ t, exec (.altQueue rq) s = .next t ∧
    t = (s).respond r.no (0, 0, s.demands.flatMap fun d => leBytes 4 d.head ++ leBytes 4 d.zone ++ leBytes 4 d.dcls)) ∧
  -- GROUP_SET (R338)
  (∀ (rq : ReqId) (r : Req) (s : State), s.started rq 0x0A02 = some r → r.args.length = 128 → s.get R.PWK_CTL_ACT = 0 →
    ∃ t, exec (.groupSet rq) s = .next t ∧ t = ({ s with group := putBytes [] 0 r.args }).respond r.no (0, 0, [])) ∧
  -- GROUP_STATUS (R378)
  (∀ (rq : ReqId) (r : Req) (s : State), s.started rq 0x0A03 = some r → r.args.length = 0 → (leBytes 4 (s.get
    V.pwkEpoch) ++ s.leaderSerial ++ leBytes 1 s.members.length ++ s.members.flatMap fun p => p.serial).length ≤ r.limit
    → ∃ t, exec (.groupStatus rq) s = .next t ∧ t = (s).respond r.no (0, 0, leBytes 4 (s.get V.pwkEpoch) ++
    s.leaderSerial ++ leBytes 1 s.members.length ++ s.members.flatMap fun p => p.serial)) ∧
  -- PEER_HELLO (R340)
  (∀ (rq : ReqId) (r : Req) (s : State), s.started rq 0x0A04 = some r → s.fromMember r.mb = true → (Config.helloForm
    (getBytes s.group 0 16) serial (s.get V.pwkEpoch) 28 4 4).length ≤ r.limit → ∃ t, exec (.peerHello rq) s = .next t ∧
    (Config.helloRead r.args = none → t = s.respond r.no (0x0009, 0, [])) ∧ (∀ x, Config.helloRead r.args = some x → x.1
    ≠ getBytes s.group 0 16 → t = s.respond r.no (0, 0, Config.helloForm (getBytes s.group 0 16) serial (s.get
    V.pwkEpoch) 28 4 4)) ∧ ((∀ x, Config.helloRead r.args = some x → x.1 = getBytes s.group 0 16 → t = (State.showGroup
    { s with members := s.members.map fun p => if p.serial = x.2.1 then { p with epoch := x.2.2.1, kMax := x.2.2.2.1, mMax := x.2.2.2.2.1, fMax := x.2.2.2.2.2, heard := true, cntlid := s.get (R.TKB_MB_ID r.mb) } else p }).respond
    r.no (0, 0, Config.helloForm (getBytes s.group 0 16) serial (s.get V.pwkEpoch) 28 4 4)))) ∧
  -- ADOPT (R342)
  (∀ (rq : ReqId) (r : Req) (s : State), s.started rq 0x0A05 = some r → r.args.length = 20 → s.get R.PWK_CTL_ACT = 1 →
    s.peerAdopt.contains r.args = false → ∃ t, exec (.adopt rq) s = .next t ∧ t =
    ({ s with peerAdopt := s.peerAdopt ++ [r.args] }).respond r.no (0, 0, [])) ∧
  -- SRC_ROUTE (R369)
  (∀ (rq : ReqId) (r : Req) (s : State), s.started rq 0x0C00 = some r → r.args.length = 8 → fieldAt r.args 0 2 < 512 →
    fieldAt r.args 2 1 < 64 → fieldAt r.args 3 1 < 64 → fieldAt r.args 4 1 ≤ 1 → fieldAt r.args 5 3 = 0 → (10 ≤ r.mb →
    fieldAt r.args 2 1 = r.mb) → ∃ t, exec (.srcRoute rq) s = .next t ∧ t = ((s.srcWrite (fieldAt r.args 0 2) (fieldAt
    r.args 2 1) (fieldAt r.args 3 1) (decide (fieldAt r.args 4 1 = 1)) r.auth).1).respond r.no ((s.srcWrite (fieldAt
    r.args 0 2) (fieldAt r.args 2 1) (fieldAt r.args 3 1) (decide (fieldAt r.args 4 1 = 1)) r.auth).2, 0, [])) ∧
  -- SRC_READ (R378)
  (∀ (rq : ReqId) (r : Req) (s : State), s.started rq 0x0C01 = some r → r.args.length = 2 → fieldAt r.args 0 2 < 512 →
    (leBytes 4 (s.srcEntry (fieldAt r.args 0 2))).length ≤ r.limit → ∃ t, exec (.srcRead rq) s = .next t ∧ t =
    (s).respond r.no (0, 0, leBytes 4 (s.srcEntry (fieldAt r.args 0 2)))) ∧
  -- DOORBELL (R363)
  (∀ (rq : ReqId) (r : Req) (s : State), s.started rq 0x0C02 = some r → r.args.length = 1 → fieldAt r.args 0 1 < 64 → ∃
    t, exec (.doorbell rq) s = .next t ∧ t = (s.fire (fieldAt r.args 0 1) 1 none).respond r.no (0, 0, [])) ∧
  -- SOFT_SOURCE (R367)
  (∀ (rq : ReqId) (r : Req) (s : State), s.started rq 0x0C03 = some r → r.args.length = 2 → fieldAt r.args 0 1 < 16 →
    fieldAt r.args 1 1 ≤ 1 → ∃ t, exec (.softSource rq) s = .next t ∧ t = (s.softSource (fieldAt r.args 0 1) (decide
    (fieldAt r.args 1 1 = 1))).respond r.no (0, 0, [])) ∧
  -- BANK_CLAIM (R364)
  (∀ (rq : ReqId) (r : Req) (s : State), s.started rq 0x0C04 = some r → r.args.length = 8 → ∃ t, exec (.bankClaim rq) s
    = .next t ∧ t = ((s.claimMask r.mb 0 (fieldAt r.args 0 4)).claimMask r.mb 32 (fieldAt r.args 4 4)).respond r.no (0,
    0, [])) ∧
  -- BANK_DONE (R364)
  (∀ (rq : ReqId) (r : Req) (s : State), s.started rq 0x0C05 = some r → r.args.length = 8 → ∃ t, exec (.bankDone rq) s =
    .next t ∧ t = ((s.doneMask r.mb 0 (fieldAt r.args 0 4)).doneMask r.mb 32 (fieldAt r.args 4 4)).respond r.no (0, 0,
    []))

/-- Key Value and peer group commands complete: for each, under conditions on the state and the operands alone,
a next state and what it holds of the Key Value log, stripes, membership and fragments. -/
def Obligations.KeyValueAndPeerGroupCommandsComplete : Prop :=
  -- FLUSH (R254)
  (∀ (id : CmdId) (nsid : BitVec 32) (ns : Ns) (u : State) (s : State), s.takes id [] 0 = true → u = s.took id
    nsid.toNat [] → nsid.toNat ≠ 0xFFFFFFFF → u.readyNs id s.cmdNo nsid.toNat [0, 1, 2] = some ns → (u.dirtyOf
    nsid.toNat).any u.actDown = false → ∃ t, exec (.flush id nsid) s = .next t ∧ t = u.flushNs (s.takenCmd id nsid.toNat
    []) [nsid.toNat]) ∧
  -- STORE (R331)
  (∀ (id : CmdId) (nsid : BitVec 32) (key value : List Byte) (ifExists ifNew fua : Bool) (ns : Ns) (u v : State) (a :
    Nat) (bs : List Byte) (s : State), s.takes id [.key nsid.toNat key true] (ceilDiv value.length 4096) = true → u =
    s.took id nsid.toNat [.key nsid.toNat key true] → u.readyNs id s.cmdNo nsid.toNat [1] = some ns → u.get R.TRU_CTL_EN
    = 1 → (1 ≤ key.length ∧ key.length ≤ 16) → ns.obj = false → ns.prot = false → value.length ≤ 2097152 → v =
    u.partRead 13 2 (nsid.toNat * 2 ^ 128 + keyNum key) 64 → a = State.kvAct ns nsid.toNat (keyNum key) → bs = kvStored
    ns key (kvPayload ns value) → v.actDown a = false → (ifExists = true → v.kvEnt nsid.toNat (keyNum key) ≠ none) →
    (ifNew = true → v.kvEnt nsid.toNat (keyNum key) = none) → v.idxCount < idxMax → (bs ≠ [] → v.kvAlloc nsid.toNat a
    (ceilDiv bs.length 4096) ≠ none) → ∃ t, exec (.store id nsid key value ifExists ifNew fua) s = .next t ∧ t =
    (((v.kvPlaceValue v.wseq nsid.toNat a bs).1.kvSet ns nsid.toNat (keyNum key) (some ⟨value, (match v.kvEnt nsid.toNat
    (keyNum key) with | some e => e.gen + 1 | none => 1) % 4294967296, mediaLen ns value, false, 0, false, none, 0,
    false, (v.kvPlaceValue v.wseq nsid.toNat a bs).2, decide (mediaLen ns value < value.length), false, false⟩)).kvTidy
    v).finishWrite (s.takenCmd id nsid.toNat [.key nsid.toNat key true]) [a] fua 0) ∧
  -- RETRIEVE (R344)
  (∀ (id : CmdId) (nsid : BitVec 32) (key : List Byte) (ns : Ns) (e : KvEnt) (u v : State) (s : State), s.takes id [.key
    nsid.toNat key false] 0 = true → u = s.took id nsid.toNat [.key nsid.toNat key false] → u.readyNs id s.cmdNo
    nsid.toNat [1] = some ns → u.get R.TRU_CTL_EN = 1 → (1 ≤ key.length ∧ key.length ≤ 16) → (ns.obj = true → objKind
    key ≠ 0) → v = u.partRead 13 2 (nsid.toNat * 2 ^ 128 + keyNum key) 64 → v.kvEnt nsid.toNat (keyNum key) = some e →
    e.comm = true → ∃ t, exec (.retrieve id nsid key) s = .next t ∧ t = v.complete id stOk e.val.length (.bytes e.val))
    ∧
  (∀ (id : CmdId) (nsid : BitVec 32) (key : List Byte) (ns : Ns) (e : KvEnt) (u v : State) (c : Cmd) (js : List (Nat ×
    Job)) (s : State), s.takes id [.key nsid.toNat key false] 0 = true → u = s.took id nsid.toNat [.key nsid.toNat key
    false] → u.readyNs id s.cmdNo nsid.toNat [1] = some ns → u.get R.TRU_CTL_EN = 1 → (1 ≤ key.length ∧ key.length ≤ 16)
    → (ns.obj = true → objKind key ≠ 0) → v = u.partRead 13 2 (nsid.toNat * 2 ^ 128 + keyNum key) 64 → v.kvEnt
    nsid.toNat (keyNum key) = some e → e.comm = false → v.entStripes nsid.toNat e = [] → v.actDown (State.kvAct ns
    nsid.toNat (keyNum key)) = false → (e.loc.any fun l => v.anyLost nsid.toNat l (ceilDiv e.slen 4096)) = false → c =
    s.takenCmd id nsid.toNat [.key nsid.toNat key false] → js = v.granuleJobs c nsid.toNat e.loc (ceilDiv e.slen 4096) →
    js = [] → ∃ t, exec (.retrieve id nsid key) s = .next t ∧ t = (v.sendData
    { c with range := e.loc.map (fun l => (nsid.toNat, l, ceilDiv e.slen 4096)) }).complete id stOk e.val.length (.bytes
    e.val)) ∧
  (∀ (id : CmdId) (nsid : BitVec 32) (key : List Byte) (ns : Ns) (e : KvEnt) (u v : State) (c : Cmd) (js : List (Nat ×
    Job)) (s : State), s.takes id [.key nsid.toNat key false] 0 = true → u = s.took id nsid.toNat [.key nsid.toNat key
    false] → u.readyNs id s.cmdNo nsid.toNat [1] = some ns → u.get R.TRU_CTL_EN = 1 → (1 ≤ key.length ∧ key.length ≤ 16)
    → (ns.obj = true → objKind key ≠ 0) → v = u.partRead 13 2 (nsid.toNat * 2 ^ 128 + keyNum key) 64 → v.kvEnt
    nsid.toNat (keyNum key) = some e → e.comm = false → v.entStripes nsid.toNat e = [] → v.actDown (State.kvAct ns
    nsid.toNat (keyNum key)) = false → (e.loc.any fun l => v.anyLost nsid.toNat l (ceilDiv e.slen 4096)) = false → c =
    s.takenCmd id nsid.toNat [.key nsid.toNat key false] → js = v.granuleJobs c nsid.toNat e.loc (ceilDiv e.slen 4096) →
    js ≠ [] → ∃ t, exec (.retrieve id nsid key) s = .next t ∧ t = ((v.updCmd c.no fun d =>
    { d with range := e.loc.map (fun l => (nsid.toNat, l, ceilDiv e.slen 4096)) }).updCmd c.no fun d =>
    { d with dw0 := e.val.length, data := .bytes e.val }).queueJobs c js) ∧
  -- KV_DELETE (R333)
  (∀ (id : CmdId) (nsid : BitVec 32) (key : List Byte) (ns : Ns) (e : KvEnt) (u v : State) (a : Nat) (s : State),
    s.takes id [.key nsid.toNat key true] 0 = true → u = s.took id nsid.toNat [.key nsid.toNat key true] → u.readyNs id
    s.cmdNo nsid.toNat [1] = some ns → u.get R.TRU_CTL_EN = 1 → (1 ≤ key.length ∧ key.length ≤ 16) → (ns.obj = true →
    objKind key ≠ 0) → v = u.partRead 13 2 (nsid.toNat * 2 ^ 128 + keyNum key) 64 → v.kvEnt nsid.toNat (keyNum key) =
    some e → a = State.kvAct ns nsid.toNat (keyNum key) → v.actDown a = false → ∃ t, exec (.kvDelete id nsid key) s =
    .next t ∧ t = (((keyNum key :: (if ns.obj = true ∧ objKind key = 2 then (List.range e.nparts).map (fun i => keyNum
    (partKey key i)) else [])).foldl (fun (w : State) x => w.kvSetOn v.wseq a nsid.toNat x none)
    { v with wseq := v.wseq + 1 }).kvTidy v).finishWrite (s.takenCmd id nsid.toNat [.key nsid.toNat key true]) [a] false
    0) ∧
  -- EXIST (R294)
  (∀ (id : CmdId) (nsid : BitVec 32) (key : List Byte) (ns : Ns) (u v : State) (s : State), s.takes id [.key nsid.toNat
    key false] 0 = true → u = s.took id nsid.toNat [.key nsid.toNat key false] → u.readyNs id s.cmdNo nsid.toNat [1] =
    some ns → u.get R.TRU_CTL_EN = 1 → (1 ≤ key.length ∧ key.length ≤ 16) → (ns.obj = true → objKind key ≠ 0) → v =
    u.partRead 13 2 (nsid.toNat * 2 ^ 128 + keyNum key) 64 → ∃ t, exec (.exist id nsid key) s = .next t ∧ t = v.answer
    id (if (v.kvEnt nsid.toNat (keyNum key)).isSome then stOk else stKeyNone)) ∧
  -- LIST (R332)
  (∀ (id : CmdId) (nsid : BitVec 32) (first : List Byte) (ns : Ns) (u : State) (s : State), s.takes id [.keys
    nsid.toNat] 0 = true → u = s.took id nsid.toNat [.keys nsid.toNat] → u.readyNs id s.cmdNo nsid.toNat [1] = some ns →
    u.get R.TRU_CTL_EN = 1 → first.length ≤ 16 → ∃ t, exec (.list id nsid first) s = .next t ∧ t = u.complete id stOk 0
    (.fields ((u.kvKeys nsid.toNat).filter fun k => decide (keyNum first ≤ k)))) ∧
  -- PWK_ACT (R339)
  (∀ (s : State), s.get R.TRU_CTL_EN = 1 → s.groupBad = false → (s.grpK + s.grpM ≤ 32 ∧ s.grpK + s.grpM ≤ s.pgrp 0x12 1)
    → s.nss.any (fun e => (e.2.map (·.frag)).getD false) = true → s.get R.FAB_CTL_EN = 1 → s.transportOn (s.pgrp 0x1A 1)
    = true → s.get R.PWK_CTL_ACT = 0 → ∃ t, exec (.pwkAct) s = .next t ∧ t.get R.PWK_CTL_ACT = 1) ∧
  -- DISCOVERY_POLL (R340)
  (∀ (log : List Found) (s : State), s.get R.PWK_CTL_ACT = 1 → ∃ t, exec (.discoveryPoll log) s = .next t ∧ t =
    (s.forAll log (fun x v => v.discover x)).stepEnd 12) ∧
  -- DISCOVERY_LOG_PAGE_CHANGE (R340)
  (∀ (log : List Found) (s : State), s.get R.PWK_CTL_ACT = 1 → ∃ t, exec (.discoveryLogPageChange log) s = .next t ∧ t =
    s.forAll log (fun x v => v.discover x)) ∧
  (∀ (x : Found) (s : State), s.get R.PWK_CTL_ACT = 1 → x.lamcel = true → x.serial ≠ serial → s.authFail.contains x.addr
    = false → x.authOk = true → s.isMember x.serial = false → x.gid = getBytes s.group 0 16 → s.grpK ≤ x.kMax → s.grpM ≤
    x.mMax → s.pgrp 0x13 1 ≤ x.fMax → s.cands.any (fun p => decide (p.serial = x.serial)) = false → ∃ t, exec
    (.discoveryLogPageChange [x]) s = .next t ∧ t.cands = s.cands ++ [⟨x.serial, 0, x.kMax, x.mMax, x.fMax, true,
    x.epoch⟩]) ∧
  -- CANDIDATE_AUTH_RETRY (R340)
  (∀ (x : Found) (s : State), s.get R.PWK_CTL_ACT = 1 → s.authFail.contains x.addr = true → ∃ t, exec
    (.candidateAuthRetry x) s = .next t ∧ t = State.discover
    { s with authFail := s.authFail.filter (fun a => decide (a ≠ x.addr)) } x) ∧
  -- PEER_TIMEOUT (R341)
  (∀ (sn : List Byte) (p : Peer) (s : State), (s.members.find? fun p => decide (p.serial = sn) && p.heard && decide (sn
    ≠ serial)) = some p → ∃ t, exec (.peerTimeout sn) s = .next t ∧ (t.members = s.members.map (fun (q : Peer) => if
    q.serial = sn then { q with heard := false } else q)) ∧ (t.cands = s.cands.filter (fun p => decide (p.serial ≠
    sn)))) ∧
  -- EPOCH_PROPOSE (R341)
  (∀ (s : State), s.leads = true → s.proposal = none → s.wantMembers ≠ s.members.map (·.serial) → ∃ t, exec
    (.epochPropose) s = .next t ∧ t.proposal = some ⟨s.nextEpoch, s.wantMembers, [serial], true, true⟩) ∧
  -- EPOCH_REPROPOSE (R341)
  (∀ (p : Proposal) (s : State), s.leads = true → s.proposal = some p → p.mine = true → ∃ t, exec (.epochRepropose) s =
    .next t ∧ t.proposal = some ⟨s.nextEpoch, s.wantMembers, [serial], true, true⟩) ∧
  -- PROPOSAL_RECEIVE (R341)
  (∀ (e : BitVec 32) (ms : List (List Byte)) (s : State), s.get R.PWK_CTL_ACT = 1 → epochNewer e.toNat (s.get
    V.pwkEpoch) = true → epochNewer e.toNat (s.get V.pwkAcked) = true → ∃ t, exec (.proposalReceive e ms) s = .next t ∧
    t.proposal = some ⟨e.toNat, ms, [], false, true⟩) ∧
  -- PROPOSAL_ACK_RECEIVE (R341)
  (∀ (e : BitVec 32) (sn : List Byte) (p : Proposal) (s : State), s.proposal = some p → p.mine = true → p.epoch =
    e.toNat → p.acks.contains sn = false → ∃ t, exec (.proposalAckReceive e sn) s = .next t ∧ (s.grpK ≤
    (p.members.filter (p.acks ++ [sn]).contains).length → t = s.commitEpoch p.epoch p.members) ∧ ((p.members.filter
    (p.acks ++ [sn]).contains).length < s.grpK → t = { s with proposal := some { p with acks := p.acks ++ [sn] } })) ∧
  -- EPOCH_COMMIT_RECEIVE (R341)
  (∀ (e : BitVec 32) (p : Proposal) (s : State), s.proposal = some p → p.mine = false → p.epoch = e.toNat → s.stripes =
    [] → ∃ t, exec (.epochCommitReceive e) s = .next t ∧ (t.members.map (fun q => q.serial) = p.members) ∧ t.proposal =
    none ∧ t.get V.pwkEpoch = e.toNat) ∧
  -- PROPOSAL_VOID (R341)
  (∀ (p : Proposal) (s : State), s.proposal = some p → p.mine = false → ∃ t, exec (.proposalVoid) s = .next t ∧
    t.proposal = none) ∧
  -- FRAGMENT_STORE_ACK (R343)
  (∀ (no : Nat) (i : Fin 32) (ok : Bool) (x : Stripe) (f : Frag) (s : State), (s.stripes.find? fun y => decide (y.no =
    no)) = some x → x.frags[i.val]? = some f → f.st = 0 → ∃ t, exec (.fragmentStoreAck no i ok) s = .next t ∧ t = (if ok
    then (s.patchRead no x.len).updStripe no (fun y => { y with frags := y.frags.set i.val { f with st := 1 } }) else
    s.replaceFrag no i.val).settleStripe no) ∧
  -- FRAGMENT_TIMEOUT (R344)
  (∀ (no : Nat) (i : Fin 32) (x : Stripe) (f g : Frag) (js : List Job) (s : State), (s.stripes.find? fun y => decide
    (y.no = no)) = some x → x.frags[i.val]? = some f → (s.grpK ≤ (x.frags.zipIdx.filter fun p => decide (p.2 ≠ i.val ∧
    p.1.st = 1) && !p.1.bad && s.isMember p.1.holder).length) → js = s.rung6Of no i → g =
    { f with bad := false, loc := if js = [] then f.loc else none } → ∃ t, exec (.fragmentTimeout no i false false) s =
    .next t ∧ t = (((((({ s with rung6 := s.rung6.filter fun j => !js.contains j } : State).patchRead no x.len).count
    R.PWK_CNT_DEGRD).updStripe no (fun y => if f.holder = serial then { y with frags := y.frags.set i.val g } else
    y)).tidyFrags.showStripes).forAll js fun j w => w.rung6Ends j true)) ∧
  -- REBUILD_FRAGMENT (R345)
  (∀ (x : Stripe) (m : List Byte) (i : Nat) (s : State), s.nextRebuild = some x → s.spareHolder x = some m → (List.range
    x.frags.length).find? (fun i => !s.isMember (x.frags.getD i ⟨serial, 1, false, none⟩).holder) = some i → ∃ t, exec
    (.rebuildFragment true) s = .next t ∧ t.stripes = s.stripes.map (fun y => if y.no = x.no then
    { y with frags := y.frags.set i ⟨m, 1, false, none⟩ } else y))

/-- Compute program commands and helper calls complete: for each, under conditions on the state and the operands alone,
a next state and what it holds of programs, their runs, memory range sets and helper results. -/
def Obligations.ComputeCommandsComplete : Prop :=
  -- LOAD_PROGRAM (R334)
  (∀ (id : CmdId) (nsid : BitVec 32) (slot ptype : BitVec 8) (image : List (BitVec 64)) (u : State) (s : State), s.takes
    id [] 0 = true → u = s.took id 0 [] → (1016 ≤ nsid.toNat ∧ nsid.toNat < 1024) → u.trackA = true → u.get R.TRU_CTL_EN
    = 1 → slot.toNat < 16 → ptype = 0x80 → verifyImage (image.map (·.toNat)) = true → ∃ t, exec (.loadProgram id nsid
    slot ptype image) s = .next t ∧ t = (State.post
    { u with progs := Tab.set none u.progs ((nsid.toNat - 1016) * 16 + slot.toNat) (some ⟨image.map (·.toNat), false⟩) }
    0x06 0x11 info noInst [nsid.toNat - 1016, slot.toNat, image.length]).answer id stOk) ∧
  -- PROGRAM_ACTIVATION_MANAGEMENT (R334)
  (∀ (id : CmdId) (nsid : BitVec 32) (slot : BitVec 8) (activate : Bool) (p : Prog) (u : State) (s : State), s.takes id
    [] 0 = true → u = s.took id 0 [] → (1016 ≤ nsid.toNat ∧ nsid.toNat < 1024) → u.trackA = true → u.get R.TRU_CTL_EN =
    1 → slot.toNat < 16 → u.prog (nsid.toNat - 1016) slot.toNat = some p → ∃ t, exec (.programActivationManagement id
    nsid slot activate) s = .next t ∧ t = (State.when
    { u with progs := Tab.set none u.progs ((nsid.toNat - 1016) * 16 + slot.toNat) (some { p with active := activate }) }
    activate (fun v => v.post 0x06 0x11 info noInst [nsid.toNat - 1016, slot.toNat, p.code.length])).answer id stOk) ∧
  -- EXECUTE_PROGRAM (R335)
  (∀ (id : CmdId) (nsid : BitVec 32) (slot rset : BitVec 8) (dw12 dw13 dw14 dw15 : BitVec 32) (p : Prog) (u : State) (s
    : State), s.takes id [] 0 = true → u = s.took id nsid.toNat [] → (1016 ≤ nsid.toNat ∧ nsid.toNat < 1024) → u.trackA
    = true → u.get R.TRU_CTL_EN = 1 → slot.toNat < 16 → rset = 0 → u.prog (nsid.toNat - 1016) slot.toNat = some p →
    p.active = true → (Tab.at none u.progRuns (nsid.toNat - 1016)).isSome = false → (u.cmds.any (fun d => decide (d.nsid
    = nsid.toNat ∧ d.no < s.cmdNo)) = false) → ∃ t, exec (.executeProgram id nsid slot rset dw12 dw13 dw14 dw15) s =
    .next t ∧ t = State.runOn { u with free := u.free + 6 } (nsid.toNat - 1016) ⟨s.cmdNo, slot.toNat, [Config.freeValue
    (u.free + 0) % two64, 0, Config.rangeTable % two64, dw13.toNat, dw14.toNat, dw15.toNat, Config.freeValue (u.free +
    1) % two64, Config.freeValue (u.free + 2) % two64, Config.freeValue (u.free + 3) % two64, Config.freeValue (u.free +
    4) % two64, Config.stackTop % two64], 0, [], u.free + 5, [], (if dw12.toNat = 0 then 10000000000 else dw12.toNat *
    1048576), [], none⟩) ∧
  -- MEMORY_RANGE_SET_MANAGEMENT (R335)
  (∀ (id : CmdId) (nsid : BitVec 32) (rset : BitVec 16) (ranges : List (BitVec 64 × BitVec 64)) (i : Nat) (u : State) (s
    : State), s.takes id [] 0 = true → u = s.took id 0 [] → (1016 ≤ nsid.toNat ∧ nsid.toNat < 1024) → u.trackA = true →
    u.get R.TRU_CTL_EN = 1 → (1 ≤ ranges.length ∧ ranges.length ≤ 16) → (∀ r ∈ ranges, r.1.toNat % 4096 = 0 ∧ r.2.toNat
    % 4096 = 0 ∧ r.2.toNat ≠ 0 ∧ r.1.toNat + r.2.toNat ≤ memSize) → ((List.range 256).map (· + 1)).find? (fun i =>
    !(u.rsets.any fun e => decide (e.1 = i))) = some i → ∃ t, exec (.memoryRangeSetManagement id nsid true rset ranges)
    s = .next t ∧ t = State.complete
    { u with rsets := Tab.set [] u.rsets i (ranges.map (fun r => (r.1.toNat, r.2.toNat))) } id stOk i .none) ∧
  (∀ (id : CmdId) (nsid : BitVec 32) (rset : BitVec 16) (u : State) (s : State), s.takes id [] 0 = true → u = s.took id
    0 [] → (1016 ≤ nsid.toNat ∧ nsid.toNat < 1024) → u.trackA = true → u.get R.TRU_CTL_EN = 1 → u.rsets.any (fun e =>
    decide (e.1 = rset.toNat)) = true → ∃ t, exec (.memoryRangeSetManagement id nsid false rset []) s = .next t ∧ t =
    State.answer { u with rsets := Tab.set [] u.rsets rset.toNat [] } id stOk) ∧
  -- MEMORY_READ (R290)
  (∀ (id : CmdId) (nsid : BitVec 32) (off : BitVec 64) (len : BitVec 32) (u : State) (s : State), s.takes id [.mem
    off.toNat len.toNat false] 0 = true → u = s.took id nsid.toNat [.mem off.toNat len.toNat false] → nsid = 1024 →
    u.trackA = true → (1 ≤ len.toNat ∧ len.toNat ≤ 2097152) → off.toNat + len.toNat ≤ memSize → u.memBad (slmBase +
    off.toNat) len.toNat = false → ∃ t, exec (.memoryRead id nsid off len) s = .next t ∧ t = (u.memTouch 0 (slmBase +
    off.toNat) len.toNat).complete id stOk 0 (.bytes (u.memGet (slmBase + off.toNat) len.toNat))) ∧
  -- MEMORY_WRITE (R290)
  (∀ (id : CmdId) (nsid : BitVec 32) (off : BitVec 64) (data : List Byte) (u : State) (s : State), s.takes id [.mem
    off.toNat data.length true] 0 = true → u = s.took id nsid.toNat [.mem off.toNat data.length true] → nsid = 1024 →
    u.trackA = true → (1 ≤ data.length ∧ data.length ≤ 2097152) → off.toNat + data.length ≤ memSize → ∃ t, exec
    (.memoryWrite id nsid off data) s = .next t ∧ t = (u.memPut 1 (slmBase + off.toNat) data).answer id stOk) ∧
  -- MEMORY_COPY (R290)
  (∀ (id : CmdId) (nsid : BitVec 32) (dst src : BitVec 64) (n : Nat) (u : State) (s : State), s.takes id [.mem src.toNat
    n false, .mem dst.toNat n true] 0 = true → u = s.took id nsid.toNat [.mem src.toNat n false, .mem dst.toNat n true]
    → nsid = 1024 → u.trackA = true → 1 ≤ n → dst.toNat + n ≤ memSize → src.toNat + n ≤ memSize → u.memBad (slmBase +
    src.toNat) n = false → ∃ t, exec (.memoryCopy id nsid dst [.mem src.toNat n]) s = .next t ∧ t = ((u.updCmd s.cmdNo
    fun e => { e with parts := 0, fin := .copy dst.toNat [(1024, src.toNat, n)] }).copyDone
    { s.takenCmd id nsid.toNat [.mem src.toNat n false, .mem dst.toNat n true] with fin := .copy dst.toNat [(1024, src.toNat, n)] }).answer
    id stOk) ∧
  -- TRU_ENABLE (R349)
  (∀ (defaultsOk : Bool) (s : State), s.get R.CMD_CTL_EN = 1 → defaultsOk = true → s.get R.TRU_CTL_EN = 0 → ∃ t, exec
    (.truEnable defaultsOk) s = .next t ∧ t.get R.TRU_CTL_EN = 1) ∧
  -- HBM_UNCORRECTABLE (R395)
  (∀ (k : Fin 2) (adr : BitVec 35) (cls : Fin 16) (a : Act) (s : State), adr.toNat / 1073741824 = 24 → ∃ t, exec
    (.hbmUncorrectable k adr cls [] a (0, [], 0)) s = .next t ∧ t.get (R.HBM_UE_ADDR_BLOCK k) = adr.toNat / 64 %
    536870912 ∧ (t.poison = s.poison.filter (fun x => decide (x ≠ adr.toNat / 64)) ++ [adr.toNat / 64])) ∧
  -- HELPER_COPY (R336)
  (∀ (core : Fin 8) (r : Run) (s : State), Tab.at none s.progRuns core = some r → r.helper = some 1 → r.range (r.reg 2)
    (r.reg 3) = true → s.memBad (r.reg 2) (r.reg 3) = false → ∃ t, exec (.helperCopy core) s = .next t ∧ t =
    State.helped ((s.memTouch 4 (r.reg 2) (r.reg 3)).helperOut r (r.reg 1) (r.reg 3) (s.memGet (r.reg 2) (r.reg 3))).1
    core r (((s.memTouch 4 (r.reg 2) (r.reg 3)).helperOut r (r.reg 1) (r.reg 3) (s.memGet (r.reg 2) (r.reg 3))).2.map
    fun _ => 0)) ∧
  -- HELPER_ZCOMP (R336)
  (∀ (core : Fin 8) (r : Run) (s : State), Tab.at none s.progRuns core = some r → r.helper = some 2 → r.range (r.reg 3)
    (r.reg 4) = true → s.memBad (r.reg 3) (r.reg 4) = false → (1 ≤ r.reg 5 ∧ r.reg 5 ≤ 3) → ∃ t, exec (.helperZcomp
    core) s = .next t ∧ t = State.helped ((s.memTouch 7 (r.reg 3) (r.reg 4)).helperOut r (r.reg 1) (r.reg 2)
    ((Config.zstdPack (r.reg 5) ((s.memGet (r.reg 3) (r.reg 4)).map fun (b : Byte) => b.toNat)).map (BitVec.ofNat 8))).1
    core r ((s.memTouch 7 (r.reg 3) (r.reg 4)).helperOut r (r.reg 1) (r.reg 2) ((Config.zstdPack (r.reg 5) ((s.memGet
    (r.reg 3) (r.reg 4)).map fun (b : Byte) => b.toNat)).map (BitVec.ofNat 8))).2) ∧
  -- HELPER_ZDECOMP (R336)
  (∀ (core : Fin 8) (r : Run) (s : State), Tab.at none s.progRuns core = some r → r.helper = some 3 → r.range (r.reg 3)
    (r.reg 4) = true → s.memBad (r.reg 3) (r.reg 4) = false → ∃ t, exec (.helperZdecomp core) s = .next t ∧ ((∀ out,
    Config.zstdUnpack ((s.memGet (r.reg 3) (r.reg 4)).map fun (b : Byte) => b.toNat) = some out → t = State.helped
    ((s.memTouch 7 (r.reg 3) (r.reg 4)).helperOut r (r.reg 1) (r.reg 2) (out.map (BitVec.ofNat 8))).1 core r
    ((s.memTouch 7 (r.reg 3) (r.reg 4)).helperOut r (r.reg 1) (r.reg 2) (out.map (BitVec.ofNat 8))).2)) ∧
    ((Config.zstdUnpack ((s.memGet (r.reg 3) (r.reg 4)).map fun (b : Byte) => b.toNat) = none → t = s.helped core r
    none))) ∧
  -- HELPER_SHA256 (R336)
  (∀ (core : Fin 8) (r : Run) (s : State), Tab.at none s.progRuns core = some r → r.helper = some 4 → r.range (r.reg 1)
    (r.reg 2) = true → s.memBad (r.reg 1) (r.reg 2) = false → ∃ t, exec (.helperSha256 core) s = .next t ∧ t =
    State.helped ((s.memTouch 4 (r.reg 1) (r.reg 2)).helperOut r (r.reg 3) 32 (((Config.sha256 ((s.memGet (r.reg 1)
    (r.reg 2)).map fun (b : Byte) => b.toNat)).map (fun (x : Nat) => (BitVec.ofNat 8 x : Byte)) ++ List.replicate 32
    0).take 32)).1 core r (((s.memTouch 4 (r.reg 1) (r.reg 2)).helperOut r (r.reg 3) 32 (((Config.sha256 ((s.memGet
    (r.reg 1) (r.reg 2)).map fun (b : Byte) => b.toNat)).map (fun (x : Nat) => (BitVec.ofNat 8 x : Byte)) ++
    List.replicate 32 0).take 32)).2.map fun _ => 0)) ∧
  -- HELPER_CRC32C (R336)
  (∀ (core : Fin 8) (r : Run) (s : State), Tab.at none s.progRuns core = some r → r.helper = some 5 → r.range (r.reg 1)
    (r.reg 2) = true → s.memBad (r.reg 1) (r.reg 2) = false → ∃ t, exec (.helperCrc32c core) s = .next t ∧ t =
    (s.memTouch 4 (r.reg 1) (r.reg 2)).helped core r (some (crc32c (s.memGet (r.reg 1) (r.reg 2))))) ∧
  -- HELPER_OPSEC (R336)
  (∀ (core : Fin 8) (r : Run) (s : State), Tab.at none s.progRuns core = some r → r.helper = some 6 → ∃ t, exec
    (.helperOpsec core) s = .next t ∧ t = s.helped core r (some s.opsec))

/-- Connection, property and intake commands complete: for each, under conditions on the state and the operands alone,
a next state and what it holds of controllers, queues, completions and commands in flight. -/
def Obligations.ConnectionAndIntakeCommandsComplete : Prop :=
  -- DURABLE_POINT_STANDS (R254)
  (∀ (a : Act) (copy : Fin 3) (b : Nat) (rest : List Nat) (s : State), s.pointsOf a = b :: rest → s.pointReady a b =
    true → ∃ t, exec (.durablePointStands a copy) s = .next t ∧ t = ((((((State.makeDurable
    { s with points := Tab.set [] s.points a rest } a b).recordPoint a b copy).kvDurable a b).count
    R.MMG_CNT_DURABLE).planAgain a).clean a).pointDone a b) ∧
  -- CONNECT (R280)
  (∀ (cid kk : BitVec 16) (entries : Nat) (kato : BitVec 32) (hostId : BitVec 128) (hostNqn : List Byte) (member : Bool)
    (conn : ConnData) (c : Nat) (s : State), kk = 0xFFFF → s.get R.CMD_CTL_EN = 1 → s.ctrls.length < 256 → s.pairsUsed <
    8192 → (2 ≤ entries ∧ entries ≤ 32) → katoOk kato.toNat = true → ((List.range 256).map (· + 1)).find? (fun c =>
    (s.ctrl c).isNone) = some c → ∃ t, exec (.connect cid 0 kk entries false kato hostId hostNqn member conn) s = .next
    t ∧ t.cqs = s.cqs ++ [⟨⟨0xFFFF, 0, cid.toNat⟩, 0, 0, false, c, .none⟩] ∧ t.ctrls = Tab.set none s.ctrls c (some
    ⟨hostId.toNat, hostNqn, b2n (!conn.disc), conn.disc, katoSec kato.toNat, 0, [], [], [], [], [], member, [conn.tr] ++
    addrWords conn.addr.toNat ++ [entries, conn.digests.toNat, conn.inCap.toNat, kato.toNat], [], conn.disc⟩) ∧ t.visit
    = s.visit ++ [(c, 0)]) ∧
  (∀ (cid qid cntlid : BitVec 16) (entries : Nat) (kato : BitVec 32) (hostId : BitVec 128) (hostNqn : List Byte) (member
    : Bool) (conn : ConnData) (x : Ctrl) (s : State), s.get R.CMD_CTL_EN = 1 → qid.toNat ≠ 0 → s.ctrl cntlid.toNat =
    some x → (2 ≤ entries ∧ entries ≤ 4096) → qid.toNat ≤ x.pairs → ∃ t, exec (.connect cid qid cntlid entries false
    kato hostId hostNqn member conn) s = .next t ∧ t.cqs = s.cqs ++ [⟨⟨0xFFFF, qid.toNat, cid.toNat⟩, 0, 0, false,
    cntlid.toNat, .none⟩] ∧ (t.ctrls = Tab.set none s.ctrls cntlid.toNat (some
    { x with lostq := x.lostq.filter (fun q => decide (q ≠ qid.toNat)) }))) ∧
  -- DISCONNECT (R303)
  (∀ (c : BitVec 16) (x : Ctrl) (s : State), s.ctrl c.toNat = some x → ∃ t, exec (.disconnect c) s = .next t ∧ t.ctrl
    c.toNat = none) ∧
  -- CONTROLLER_RESET (R303)
  (∀ (c : BitVec 16) (x : Ctrl) (s : State), s.ctrl c.toNat = some x → s.test = none → ∃ t, exec (.controllerReset c) s
    = .next t ∧ t.ctrl c.toNat = none) ∧
  -- KATO_EXPIRY (R303)
  (∀ (c : BitVec 16) (x : Ctrl) (s : State), s.ctrl c.toNat = some x → x.kato ≠ 0 → ∃ t, exec (.katoExpiry c) s = .next
    t ∧ t.ctrl c.toNat = none ∧ t.get R.CMD_EVT_KATO_EXP = 1) ∧
  -- KEEP_ALIVE (R304)
  (∀ (id : CmdId) (u : State) (s : State), s.takes id [] 0 = true → u = s.took id 0 [] → ∃ t, exec (.keepAlive id) s =
    .next t ∧ t = u.answer id stOk) ∧
  -- ABORT (R303)
  (∀ (id : CmdId) (sqid cid : BitVec 16) (inQueue : Bool) (c : Cmd) (u : State) (s : State), s.takes id [] 0 = true → u
    = s.took id 0 [] → u.cmdOf ⟨id.cntlid, sqid.toNat, cid.toNat⟩ = some c → c.stalled = true → ∃ t, exec (.abort id
    sqid cid inQueue) s = .next t ∧ t = ((u.complete ⟨id.cntlid, sqid.toNat, cid.toNat⟩ stAborted 0 .none).count
    R.CMD_CNT_ABORT).complete id stOk 0 .none) ∧
  (∀ (id : CmdId) (sqid cid : BitVec 16) (inQueue : Bool) (c : Cmd) (u : State) (s : State), s.takes id [] 0 = true → u
    = s.took id 0 [] → u.cmdOf ⟨id.cntlid, sqid.toNat, cid.toNat⟩ = some c → c.stalled = false → ∃ t, exec (.abort id
    sqid cid inQueue) s = .next t ∧ t = u.complete id stOk 1 .none) ∧
  -- ASYNCHRONOUS_EVENT_REQUEST (R284)
  (∀ (id : CmdId) (x : Ctrl) (u : State) (s : State), s.takes id [] 0 = true → u = s.took id 0 [] → u.ctrl id.cntlid =
    some x → x.notices = [] → x.aers.length < 16 → ∃ t, exec (.asynchronousEventRequest id) s = .next t ∧ t = (u.setCtrl
    id.cntlid (some { x with aers := x.aers ++ [id] })).unflight id) ∧
  (∀ (id : CmdId) (x : Ctrl) (n : Nat) (l : List Nat) (u : State) (s : State), s.takes id [] 0 = true → u = s.took id 0
    [] → u.ctrl id.cntlid = some x → x.notices = n :: l → ∃ t, exec (.asynchronousEventRequest id) s = .next t ∧ t =
    (u.setCtrl id.cntlid (some { x with notices := l })).complete id stOk n .none) ∧
  -- UNSUPPORTED_OPCODE (R285)
  (∀ (id : CmdId) (u : State) (s : State), s.takes id [] 0 = true → u = s.took id 0 [] → ∃ t, exec (.unsupportedOpcode
    id) s = .next t ∧ t = u.answer id stOpcode) ∧
  -- INTAKE_VISIT (R292)
  (∀ (waiting : List Waiting) (full : Bool) (c q : Nat) (rest : List (Nat × Nat)) (x : Ctrl) (v : State) (s : State),
    s.visit = (c, q) :: rest → s.ctrl c = some x → s.pauseWhy 0 0 full = 0 → (State.takeList full ((waiting.filter fun w
    => decide (w.id.cntlid = c ∧ w.id.qid = q) && (s.cmdOf w.id).isNone).take 8) s = (v, true)) → ∃ t, exec
    (.intakeVisit waiting full) s = .next t ∧ t =
    { v.showPause 0 with visit := rest ++ [(c, if q < x.pairs then q + 1 else 0)] }) ∧
  -- TURNSTILE_RELEASE (R296)
  (∀ (id : CmdId) (c : Cmd) (s : State), s.cmdOf id = some c → c.stalled = true → s.canRun c = true → ∃ t, exec
    (.turnstileRelease id) s = .next t ∧ t = s.updCmd c.no (fun d => { d with stalled := false })) ∧
  -- JUGGLER_PICK (R299)
  (∀ (a : Act) (w : BitVec 16) (j : Job) (aged : Bool) (s : State), s.get (R.CMD_JQ_HELD a) = 0 → s.get (R.CMD_JQ_WHY a)
    = 0 → s.get (R.CHN_REPLAY_HOLD a) = 0 → s.jobOf a = none → (s.seqr a).returned = none → s.actDown a = false → s.get
    (R.SEQ_STAT_STATE a) ≠ seqMCHK → s.jugglerChoice a w.toNat = some (j, aged) → ∃ t, exec (.jugglerPick a w) s = .next
    t ∧ t.jobOf a = some j ∧ (t.jugq a = (s.jugq a).filter (fun x => decide (x.id ≠ j.id)))) ∧
  -- CMD_ENABLE (R307)
  (∀ (s : State), s.get R.MMG_CTL_EN = 1 → (50 ≤ s.get R.CMD_JUG_AGE_MS ∧ s.get R.CMD_JUG_AGE_MS ≤ 60000) → s.get
    R.CMD_JUG_SEEK_MARGIN ≤ 32 → (List.range s.nact).any s.profileBad = false → s.get R.CMD_CTL_EN = 0 → ∃ t, exec
    (.cmdEnable) s = .next t ∧ t.get R.CMD_CTL_EN = 1) ∧
  -- FETCH_HOLD (R292)
  (∀ (v : Bool) (s : State), ∃ t, exec (.fetchHold v) s = .next t ∧ t.get R.CMD_CTL_FETCH_HOLD = b2n v) ∧
  -- HIWAT_CLR (R306)
  (∀ (s : State), ∃ t, exec (.hiwatClr) s = .next t ∧ t = s.put R.CMD_TS_HIWAT (s.get R.CMD_TS_USED))

/-- Identify, log page, feature and self-test commands complete: for each,
under conditions on the state and the operands alone,
a next state and what it holds of the completion entry and the feature value or log page it carries. -/
def Obligations.AdminCommandsComplete : Prop :=
  -- NVME_IDENTIFY (R284)
  (∀ (id : CmdId) (csi : BitVec 8) (nsid : BitVec 32) (u : State) (s : State), s.takes id [] 0 = true → u = s.took id 0
    [] → ∃ t, exec (.nvmeIdentify id 1 csi nsid) s = .next t ∧ t = u.complete id stOk 0 (.fields (u.idCtrl id.cntlid)))
    ∧
  (∀ (id : CmdId) (csi : BitVec 8) (nsid : BitVec 32) (u : State) (s : State), s.takes id [] 0 = true → u = s.took id 0
    [] → ∃ t, exec (.nvmeIdentify id 2 csi nsid) s = .next t ∧ t = u.complete id stOk 0 (.fields ((u.activeNs
    id.cntlid).filter fun x => decide (nsid.toNat < x)))) ∧
  (∀ (id : CmdId) (csi : BitVec 8) (nsid : BitVec 32) (x : Ns) (u : State) (s : State), s.takes id [] 0 = true → u =
    s.took id 0 [] → (1 ≤ nsid.toNat ∧ nsid.toNat < 1016) → u.get R.RMC_STAT_IO_READY = 1 → u.ns nsid.toNat = some x →
    x.att.contains id.cntlid = true → ∃ t, exec (.nvmeIdentify id 0 csi nsid) s = .next t ∧ t = u.complete id stOk 0
    (.fields x.ident)) ∧
  -- GET_LOG_PAGE (R286)
  (∀ (id : CmdId) (nsid : BitVec 32) (u : State) (s : State), s.takes id [] 0 = true → u = s.took id 0 [] → ∃ t, exec
    (.getLogPage id 2 nsid) s = .next t ∧ t = u.complete id stOk 0 (.fields u.smart)) ∧
  (∀ (id : CmdId) (nsid : BitVec 32) (u : State) (s : State), s.takes id [] 0 = true → u = s.took id 0 [] → ∃ t, exec
    (.getLogPage id 7 nsid) s = .next t ∧ t = u.complete id stOk 0 (.recs (u.records.drop (u.records.length - 512)))) ∧
  (∀ (id : CmdId) (nsid : BitVec 32) (x : Ctrl) (u : State) (s : State), s.takes id [] 0 = true → u = s.took id 0 [] →
    u.ctrl id.cntlid = some x → ∃ t, exec (.getLogPage id 4 nsid) s = .next t ∧ t = (u.setCtrl id.cntlid (some
    { x with changed := [], notices := x.notices.filter (fun n => decide (n ≠ aenNs)) })).complete id stOk 0 (.fields
    x.changed)) ∧
  -- GET_FEATURES (R286)
  (∀ (id : CmdId) (nsid dw11 : BitVec 32) (x : Ctrl) (u : State) (s : State), s.takes id [] 0 = true → u = s.took id 0
    [] → u.ctrl id.cntlid = some x → ∃ t, exec (.getFeatures id 7 nsid dw11) s = .next t ∧ t = u.complete id stOk
    ((x.pairs - 1) * 65537) .none) ∧
  (∀ (id : CmdId) (nsid dw11 : BitVec 32) (x : Ctrl) (u : State) (s : State), s.takes id [] 0 = true → u = s.took id 0
    [] → u.ctrl id.cntlid = some x → ∃ t, exec (.getFeatures id 2 nsid dw11) s = .next t ∧ t = u.complete id stOk (u.get
    R.CVN_STAT_PS) .none) ∧
  -- ARBITRATION (R286)
  (∀ (id : CmdId) (u : State) (s : State), s.takes id [] 0 = true → u = s.took id 0 [] → ∃ t, exec (.arbitration id 3) s
    = .next t ∧ t = u.answer id stOk) ∧
  -- POWER_MANAGEMENT (R286)
  (∀ (id : CmdId) (ps : BitVec 5) (u : State) (s : State), s.takes id [] 0 = true → u = s.took id 0 [] → ps.toNat ≤ 5 →
    ∃ t, exec (.powerManagement id ps) s = .next t ∧ t = (u.setBudget 0xFFFFFFFF (psWake ps.toNat)).1.answer id stOk) ∧
  -- TEMPERATURE_THRESHOLD (R286)
  (∀ (id : CmdId) (tmpsel : BitVec 4) (under : Bool) (kelvin : BitVec 16) (x : Ctrl) (u : State) (s : State), s.takes id
    [] 0 = true → u = s.took id 0 [] → tmpsel.toNat ≤ 5 → u.ctrl id.cntlid = some x → ∃ t, exec (.temperatureThreshold
    id tmpsel under kelvin) s = .next t ∧ t = (u.setCtrl id.cntlid (some
    { x with temps := (tmpsel.toNat + 16 * b2n under, kelvin.toNat) :: x.temps.filter (fun e => decide (e.1 ≠ tmpsel.toNat + 16 * b2n under)) })).answer
    id stOk) ∧
  -- VOLATILE_WRITE_CACHE (R253)
  (∀ (id : CmdId) (wce : Bool) (u : State) (s : State), s.takes id [] 0 = true → u = s.took id 0 [] → ∃ t, exec
    (.volatileWriteCache id wce) s = .next t ∧ t = (u.put V.vwcOff (b2n (!wce))).answer id stOk) ∧
  -- NUMBER_OF_QUEUES (R281)
  (∀ (id : CmdId) (nsq ncq : BitVec 16) (x : Ctrl) (g : Nat) (u : State) (s : State), s.takes id [] 0 = true → u =
    s.took id 0 [] → u.ctrl id.cntlid = some x → x.noqSet = false → g = Nat.min (Nat.min nsq.toNat ncq.toNat + 1)
    (Nat.min 128 (x.pairs + (8192 - u.pairsUsed))) → ∃ t, exec (.numberOfQueues id nsq ncq) s = .next t ∧ t = (u.setCtrl
    id.cntlid (some { x with pairs := g, noqSet := true })).complete id stOk ((g - 1) * 65537) .none) ∧
  -- ASYNCHRONOUS_EVENT_CONFIGURATION (R286)
  (∀ (id : CmdId) (v : BitVec 32) (x : Ctrl) (u : State) (s : State), s.takes id [] 0 = true → u = s.took id 0 [] →
    u.ctrl id.cntlid = some x → ∃ t, exec (.asynchronousEventConfiguration id v) s = .next t ∧ t = (u.setCtrl id.cntlid
    (some { x with aen := v.toNat })).answer id stOk) ∧
  -- KEEP_ALIVE_TIMER (R304)
  (∀ (id : CmdId) (kato : BitVec 32) (x : Ctrl) (u : State) (s : State), s.takes id [] 0 = true → u = s.took id 0 [] →
    katoOk kato.toNat = true → u.ctrl id.cntlid = some x → ∃ t, exec (.keepAliveTimer id kato) s = .next t ∧ t =
    (u.setCtrl id.cntlid (some { x with kato := katoSec kato.toNat })).answer id stOk) ∧
  -- HOST_IDENTIFIER (R286)
  (∀ (id : CmdId) (v : BitVec 128) (x : Ctrl) (u : State) (s : State), s.takes id [] 0 = true → u = s.took id 0 [] →
    u.ctrl id.cntlid = some x → ∃ t, exec (.hostIdentifier id true v) s = .next t ∧ t = (u.setCtrl id.cntlid (some
    { x with hostId := v.toNat })).answer id stOk) ∧
  -- LATENCY_BUDGET (R386)
  (∀ (id : CmdId) (nsid us : BitVec 32) (u : State) (s : State), s.takes id [] 0 = true → u = s.took id 0 [] → ∃ t, exec
    (.latencyBudget id nsid us) s = .next t ∧ t = (u.setBudget nsid.toNat us.toNat).1.answer id (if (u.setBudget
    nsid.toNat us.toNat).2 then stOk else stNs))

/-- Namespace, format, sanitize and firmware commands complete: for each,
under conditions on the state and the operands alone, a next state and what it holds of namespaces, their attachment,
the volatile and durable blocks and the completions. -/
def Obligations.NamespaceCommandsComplete : Prop :=
  -- NAMESPACE_CREATE (R288)
  (∀ (id : CmdId) (csi : BitVec 8) (nsze : BitVec 64) (n : Nat) (u : State) (s : State), s.takes id [] 0 = true → u =
    s.took id 0 [] → u.get R.RMC_STAT_IO_READY = 1 → csi.toNat ≤ 2 → (csi.toNat ≠ 1 → nsze.toNat ≠ 0) → (csi.toNat = 2 →
    nsze.toNat % zoneSize = 0) → (csi.toNat = 0 → nsze.toNat % 256 = 0) → u.freeNsid = some n → (u.makeNs csi.toNat
    nsze.toNat false n).2 = stOk → ∃ t, exec (.namespaceCreate id csi nsze nsze 0 0) s = .next t ∧ t = (u.makeNs
    csi.toNat nsze.toNat false n).1.complete id stOk n .none) ∧
  -- NAMESPACE_DELETE (R289)
  (∀ (id : CmdId) (nsid : BitVec 32) (l : List Nat) (v : State) (u : State) (s : State), s.takes id [] 0 = true → u =
    s.took id 0 [] → u.get R.RMC_STAT_IO_READY = 1 → nsid.toNat ≠ 0xFFFFFFFF → (l = u.nss.filterMap (fun e => match e.2
    with | some n => if n.del.isNone ∧ e.1 = nsid.toNat then some e.1 else none | none => none)) → l ≠ [] → v = u.forAll
    l (fun k v => match v.ns k with | some x => v.setNs k (some { x with del := some s.cmdNo }) | none => v) → ∃ t, exec
    (.namespaceDelete id nsid) s = .next t ∧ t = (v.updCmd s.cmdNo fun d =>
    { d with parts := 1, fin := .delete l (u.cmds.filter fun d => l.contains d.nsid).length (v.get V.msNow) }).drainDeletes)
    ∧
  -- NAMESPACE_ATTACHMENT (R288)
  (∀ (id : CmdId) (nsid : BitVec 32) (ctrls : List (BitVec 16)) (n : Ns) (u : State) (s : State), s.takes id [] 0 = true
    → u = s.took id 0 [] → u.get R.RMC_STAT_IO_READY = 1 → u.ns nsid.toNat = some n → n.del = none → n.frag = false →
    (ctrls.map (·.toNat)).any (fun c => (u.ctrl c).isNone) = false → (ctrls.map (·.toNat)).any n.att.contains = false →
    ∃ t, exec (.namespaceAttachment id nsid true ctrls) s = .next t ∧ t = (((u.setNs nsid.toNat (some
    { n with att := n.att ++ ctrls.map (·.toNat) })).nsChanged (ctrls.map (·.toNat)) nsid.toNat).budgetChanged).answer
    id stOk) ∧
  (∀ (id : CmdId) (nsid : BitVec 32) (ctrls : List (BitVec 16)) (n : Ns) (u : State) (s : State), s.takes id [] 0 = true
    → u = s.took id 0 [] → u.get R.RMC_STAT_IO_READY = 1 → u.ns nsid.toNat = some n → n.del = none → (ctrls.map
    (·.toNat)).any (fun c => (u.ctrl c).isNone) = false → (ctrls.map (·.toNat)).any (fun c => !n.att.contains c) = false
    → ∃ t, exec (.namespaceAttachment id nsid false ctrls) s = .next t ∧ t = (((u.setNs nsid.toNat (some
    { n with att := n.att.filter (fun c => !(ctrls.map (·.toNat)).contains c) })).nsChanged (ctrls.map (·.toNat))
    nsid.toNat).budgetChanged).answer id stOk) ∧
  -- FIRMWARE_IMAGE_DOWNLOAD (R285)
  (∀ (id : CmdId) (ofs : BitVec 32) (data : List Byte) (ok : Bool) (u : State) (s : State), s.takes id [] 0 = true → u =
    s.took id 0 [] → ∃ t, exec (.firmwareImageDownload id ofs data ok) s = .next t ∧ t = (u.fwDownHeld 0 64 ofs.toNat
    data ok).1.answer id (fwStat (u.fwDownHeld 0 64 ofs.toNat data ok).2)) ∧
  -- FIRMWARE_COMMIT (R285)
  (∀ (id : CmdId) (action slot : BitVec 3) (ok : Bool) (u : State) (s : State), s.takes id [] 0 = true → u = s.took id 0
    [] → action.toNat ≤ 2 → (slot.toNat = 0 ∨ slot.toNat = u.inactive + 1) → ∃ t, exec (.firmwareCommit id action slot
    ok) s = .next t ∧ t = (u.fwCommit 0 (decide (action.toNat ≠ 0)) ok).1.answer id (if (u.fwCommit 0 (decide
    (action.toNat ≠ 0)) ok).2 = 0x000A then stFwImage else fwStat (u.fwCommit 0 (decide (action.toNat ≠ 0)) ok).2)) ∧
  -- DEVICE_SELF_TEST (R291)
  (∀ (id : CmdId) (ext : Bool) (nsid : BitVec 32) (u : State) (s : State), s.takes id [] 0 = true → u = s.took id 0 [] →
    u.test = none → (nsid.toNat = 0 ∨ nsid.toNat = 0xFFFFFFFF ∨ (u.ns nsid.toNat).isSome = true) → ∃ t, exec
    (.deviceSelfTest id ext nsid) s = .next t ∧ t = State.answer
    { u with test := some ⟨ext, (if nsid.toNat = 0xFFFFFFFF then 0 else nsid.toNat), 1, 0, 0, 0, 0, id⟩ } id stOk) ∧
  -- SELF_TEST_ABORT (R291)
  (∀ (id : CmdId) (u : State) (s : State), s.takes id [] 0 = true → u = s.took id 0 [] → ∃ t, exec (.selfTestAbort id) s
    = .next t ∧ t = (u.endTest 1).answer id stOk) ∧
  -- SELF_TEST_SEGMENT (R291)
  (∀ (nsid : BitVec 32) (lba : BitVec 64) (x : SelfTest) (v : State) (s : State), s.test = some x → x.seg = 2 → v =
    s.when (s.on R.PKT_CTL_EN) (fun u => u.cleanAll) → ∃ t, exec (.selfTestSegment true nsid lba) s = .next t ∧ t =
    { v with test := some { x with seg := 3, marks := v.servoMarks } }) ∧
  (∀ (nsid : BitVec 32) (lba : BitVec 64) (x : SelfTest) (s : State), s.test = some x → x.seg = 3 → x.marks =
    s.servoMarks → ∃ t, exec (.selfTestSegment true nsid lba) s = .next t ∧ t =
    { s with test := some { x with seg := 4 } }) ∧
  -- FORMAT_NVM (R273)
  (∀ (id : CmdId) (nsid : BitVec 32) (d : Cmd) (u : State) (s : State), s.takes id ((s.nsNamed nsid.toNat).map
    Scope.whole) 0 = true → u = s.took id 0 ((s.nsNamed nsid.toNat).map Scope.whole) → (nsid.toNat = 0xFFFFFFFF ∨
    (nsid.toNat ≤ 1015 ∧ s.nsNamed nsid.toNat ≠ [])) → u.get R.RMC_STAT_IO_READY = 1 → u.get V.sanState ≠ 1 →
    (nsid.toNat ≠ 0xFFFFFFFF → (s.nsNamed nsid.toNat).any (fun n => ((u.ns n).bind (·.del)).isSome) = false) → u.test =
    none → (u.forAll (s.nsNamed nsid.toNat) fun n v => ((v.logEmpty n).emptyNs n false).swapMarked n).cmdNoOf s.cmdNo =
    some d → d.parts = 0 → ∃ t, exec (.formatNvm id nsid 0 0 0) s = .next t ∧ t = (u.forAll (s.nsNamed nsid.toNat) fun n
    v => ((v.logEmpty n).emptyNs n false).swapMarked n).answer id stOk) ∧
  -- SANITIZE_CRYPTO_ERASE (R328)
  (∀ (id : CmdId) (u : State) (s : State), s.takes id ((s.nsNamed 0xFFFFFFFF).map Scope.whole) 0 = true → u = s.took id
    0 ((s.nsNamed 0xFFFFFFFF).map Scope.whole) → u.get R.RMC_STAT_IO_READY = 1 → u.get V.sanState ≠ 1 → u.test = none →
    ∃ t, exec (.sanitizeCryptoErase id) s = .next t ∧ t = ((u.forAll (s.nsNamed 0xFFFFFFFF) fun n v => ((v.emptyNs n
    false).swapMarked n).newKey n 0x84).put V.sanState 2).answer id stOk) ∧
  -- SANITIZE_BLOCK_ERASE (R274)
  (∀ (id : CmdId) (v w : State) (u : State) (s : State), s.takes id ((s.nsNamed 0xFFFFFFFF).map Scope.whole) 0 = true →
    u = s.took id 0 ((s.nsNamed 0xFFFFFFFF).map Scope.whole) → u.get R.RMC_STAT_IO_READY = 1 → u.get V.sanState ≠ 1 →
    u.test = none → v = State.forAll ((u.forAll (u.mops.filter fun o => decide (o.typ ≠ 3)) fun o v => v.abandonOp
    o).wipeSlm.showPkt) (s.nsNamed 0xFFFFFFFF) (fun n v => if (((v.emptyNs n false).ns n).map (·.enc)).getD false then
    (v.emptyNs n false).newKey n 0x84 else v.emptyNs n false) → w = v.forAll (List.range v.nact) (fun a u => u.mapLog a)
    → ∃ t, exec (.sanitizeBlockErase id) s = .next t ∧ t = ((w.beginOverwrite 0 w.allUnits).1.put V.sanState (if
    (w.beginOverwrite 0 w.allUnits).2 = 0 then 2 else 1)).answer id stOk)

/-- Read, write and zone commands complete: for each, under conditions on the state and the operands alone,
a next state and what it holds of staged blocks, media jobs, zone states and the completions. -/
def Obligations.ReadWriteAndZoneCommandsComplete : Prop :=
  -- READ (R290)
  (∀ (id : CmdId) (nsid : BitVec 32) (lba : BitVec 64) (nlb : BitVec 16) (limited : Bool) (ns : Ns) (u : State) (s :
    State), s.takes id [.lba nsid.toNat lba.toNat (nlb.toNat + 1) false] 0 = true → u = s.took id nsid.toNat [.lba
    nsid.toNat lba.toNat (nlb.toNat + 1) false] → u.readyNs id s.cmdNo nsid.toNat [0, 2] = some ns → firstStat
    [u.rangeStat ns nsid.toNat lba.toNat (nlb.toNat + 1), u.zoneReadStat ns nsid.toNat lba.toNat (nlb.toNat + 1)] = stOk
    → u.anyLost nsid.toNat lba.toNat (nlb.toNat + 1) = false → ((List.range (nlb.toNat + 1)).all fun i => u.staged
    nsid.toNat (lba.toNat + i)) = true → ∃ t, exec (.read id nsid lba nlb limited) s = .next t ∧ t = (u.sendData
    { s.takenCmd id nsid.toNat [.lba nsid.toNat lba.toNat (nlb.toNat + 1) false] with range := some (nsid.toNat, lba.toNat, nlb.toNat + 1) }).complete
    id stOk 0 (.blocks (u.blocks nsid.toNat lba.toNat (nlb.toNat + 1)))) ∧
  (∀ (id : CmdId) (nsid : BitVec 32) (lba : BitVec 64) (nlb : BitVec 16) (limited : Bool) (ns : Ns) (u : State) (s :
    State), s.takes id [.lba nsid.toNat lba.toNat (nlb.toNat + 1) false] 0 = true → u = s.took id nsid.toNat [.lba
    nsid.toNat lba.toNat (nlb.toNat + 1) false] → u.readyNs id s.cmdNo nsid.toNat [0, 2] = some ns → firstStat
    [u.rangeStat ns nsid.toNat lba.toNat (nlb.toNat + 1), u.zoneReadStat ns nsid.toNat lba.toNat (nlb.toNat + 1)] = stOk
    → u.anyLost nsid.toNat lba.toNat (nlb.toNat + 1) = false → ((List.range (nlb.toNat + 1)).all fun i => u.staged
    nsid.toNat (lba.toNat + i)) = false → ∃ t, exec (.read id nsid lba nlb limited) s = .next t ∧ t = (u.updCmd s.cmdNo
    fun d => { d with range := some (nsid.toNat, lba.toNat, nlb.toNat + 1) }).readJobs (s.takenCmd id nsid.toNat [.lba
    nsid.toNat lba.toNat (nlb.toNat + 1) false]) .read nsid.toNat lba.toNat (nlb.toNat + 1) limited) ∧
  -- VERIFY (R290)
  (∀ (id : CmdId) (nsid : BitVec 32) (lba : BitVec 64) (nlb : BitVec 16) (ns : Ns) (u : State) (s : State), s.takes id
    [.lba nsid.toNat lba.toNat (nlb.toNat + 1) false] 0 = true → u = s.took id nsid.toNat [.lba nsid.toNat lba.toNat
    (nlb.toNat + 1) false] → u.readyNs id s.cmdNo nsid.toNat [0, 2] = some ns → firstStat [u.rangeStat ns nsid.toNat
    lba.toNat (nlb.toNat + 1), u.zoneReadStat ns nsid.toNat lba.toNat (nlb.toNat + 1)] = stOk → u.anyLost nsid.toNat
    lba.toNat (nlb.toNat + 1) = false → ((List.range (nlb.toNat + 1)).all fun i => u.staged nsid.toNat (lba.toNat + i))
    = true → ∃ t, exec (.verify id nsid lba nlb) s = .next t ∧ t = u.answer id stOk) ∧
  (∀ (id : CmdId) (nsid : BitVec 32) (lba : BitVec 64) (nlb : BitVec 16) (ns : Ns) (u : State) (s : State), s.takes id
    [.lba nsid.toNat lba.toNat (nlb.toNat + 1) false] 0 = true → u = s.took id nsid.toNat [.lba nsid.toNat lba.toNat
    (nlb.toNat + 1) false] → u.readyNs id s.cmdNo nsid.toNat [0, 2] = some ns → firstStat [u.rangeStat ns nsid.toNat
    lba.toNat (nlb.toNat + 1), u.zoneReadStat ns nsid.toNat lba.toNat (nlb.toNat + 1)] = stOk → u.anyLost nsid.toNat
    lba.toNat (nlb.toNat + 1) = false → ((List.range (nlb.toNat + 1)).all fun i => u.staged nsid.toNat (lba.toNat + i))
    = false → ∃ t, exec (.verify id nsid lba nlb) s = .next t ∧ t = u.readJobs (s.takenCmd id nsid.toNat [.lba
    nsid.toNat lba.toNat (nlb.toNat + 1) false]) .verify nsid.toNat lba.toNat (nlb.toNat + 1) false) ∧
  -- WRITE (R253)
  (∀ (id : CmdId) (nsid : BitVec 32) (lba : BitVec 64) (data : List Block) (fua : Bool) (ns : Ns) (u : State) (s :
    State), s.takes id [.lba nsid.toNat lba.toNat data.length true] data.length = true → u = s.took id nsid.toNat [.lba
    nsid.toNat lba.toNat data.length true] → u.readyNs id s.cmdNo nsid.toNat [0, 2] = some ns → u.rangeStat ns
    nsid.toNat lba.toNat data.length = stOk → (u.zoneWrite ns nsid.toNat lba.toNat data.length).1 = stOk → (ns.csi = 0 →
    ((u.rangeActs nsid.toNat lba.toNat data.length).any fun a => u.on (V.mmgWrFault a)) = false) → ∃ t, exec (.write id
    nsid lba data fua) s = .next t ∧ t = ((u.zoneWrite ns nsid.toNat lba.toNat data.length).2.takeData nsid.toNat
    lba.toNat data).finishWrite (s.takenCmd id nsid.toNat [.lba nsid.toNat lba.toNat data.length true]) (u.rangeActs
    nsid.toNat lba.toNat data.length) fua 0) ∧
  -- WRITE_ZEROES (R290)
  (∀ (id : CmdId) (nsid : BitVec 32) (lba : BitVec 64) (nlb : BitVec 16) (fua : Bool) (ns : Ns) (u : State) (s : State),
    s.takes id [.lba nsid.toNat lba.toNat (nlb.toNat + 1) true] (nlb.toNat + 1) = true → u = s.took id nsid.toNat [.lba
    nsid.toNat lba.toNat (nlb.toNat + 1) true] → u.readyNs id s.cmdNo nsid.toNat [0] = some ns → u.rangeStat ns
    nsid.toNat lba.toNat (nlb.toNat + 1) = stOk → ns.csi = 0 → ((u.rangeActs nsid.toNat lba.toNat (nlb.toNat + 1)).any
    fun a => u.on (V.mmgWrFault a)) = false → ∃ t, exec (.writeZeroes id nsid lba nlb fua) s = .next t ∧ t = (u.takeData
    nsid.toNat lba.toNat (List.replicate (nlb.toNat + 1) 0)).finishWrite (s.takenCmd id nsid.toNat [.lba nsid.toNat
    lba.toNat (nlb.toNat + 1) true]) (u.rangeActs nsid.toNat lba.toNat (nlb.toNat + 1)) fua 0) ∧
  -- DATASET_MANAGEMENT (R290)
  (∀ (id : CmdId) (nsid : BitVec 32) (ranges : List (BitVec 64 × BitVec 32)) (ns : Ns) (u : State) (s : State), s.takes
    id (ranges.map (fun r => Scope.lba nsid.toNat r.1.toNat r.2.toNat true)) 0 = true → u = s.took id nsid.toNat
    (ranges.map (fun r => Scope.lba nsid.toNat r.1.toNat r.2.toNat true)) → u.readyNs id s.cmdNo nsid.toNat [0] = some
    ns → (1 ≤ ranges.length ∧ ranges.length ≤ 256) → (∀ r ∈ ranges, r.1.toNat + r.2.toNat ≤ ns.nsze) → (∀ r ∈ ranges,
    (u.rangeActs nsid.toNat r.1.toNat r.2.toNat).any u.actDown = false) → ∃ t, exec (.datasetManagement id nsid true
    ranges) s = .next t ∧ t = (u.forAll (ranges.map fun r => (r.1.toNat, r.2.toNat)) fun r v => v.stageAll nsid.toNat
    r.1 (List.replicate r.2 0)).answer id stOk) ∧
  -- ZONE_APPEND (R294)
  (∀ (id : CmdId) (nsid : BitVec 32) (zslba : BitVec 64) (data : List Block) (fua : Bool) (ns : Ns) (c : Cmd) (u :
    State) (s : State), s.cmdOf id = some c → c.id = id → c.stalled = false → c.begun = false → u = s.updCmd c.no (fun d
    => { d with begun := true }) → u.readyNs id c.no nsid.toNat [2] = some ns → (c.sct = 0 ∧ c.sc = 0) → u.actDown
    (u.lbaAct nsid.toNat zslba.toNat) = false → ∃ t, exec (.zoneAppend id nsid zslba data fua) s = .next t ∧ t =
    (u.takeData nsid.toNat c.dw0 data).finishWrite { c with begun := true } [u.lbaAct nsid.toNat zslba.toNat] fua c.dw0)
    ∧
  -- ZONE_RESET (R263)
  (∀ (id : CmdId) (nsid : BitVec 32) (slba : BitVec 64) (ns : Ns) (u : State) (s : State), s.takes id [.zone nsid.toNat
    slba.toNat] 0 = true → u = s.took id nsid.toNat [.zone nsid.toNat slba.toNat] → u.readyNs id s.cmdNo nsid.toNat [2]
    = some ns → slba.toNat % zoneSize = 0 → slba.toNat < ns.nsze → u.actDown (placeAct ns.mask (slba.toNat / zoneSize))
    = false → [zEmpty, zImp, zExp, zClosed, zFull].contains (u.zone nsid.toNat (slba.toNat / zoneSize)).st = true → ∃ t,
    exec (.zoneReset id nsid slba false) s = .next t ∧ t = u.zoneWait (s.takenCmd id nsid.toNat [.zone nsid.toNat
    slba.toNat]) nsid.toNat [slba.toNat / zoneSize] (.zoneReset nsid.toNat [slba.toNat / zoneSize])) ∧
  -- ZONE_FINISH (R256)
  (∀ (id : CmdId) (nsid : BitVec 32) (slba : BitVec 64) (ns : Ns) (u : State) (s : State), s.takes id [.zone nsid.toNat
    slba.toNat] 0 = true → u = s.took id nsid.toNat [.zone nsid.toNat slba.toNat] → u.readyNs id s.cmdNo nsid.toNat [2]
    = some ns → slba.toNat % zoneSize = 0 → slba.toNat < ns.nsze → u.actDown (placeAct ns.mask (slba.toNat / zoneSize))
    = false → [zEmpty, zImp, zExp, zClosed, zFull].contains (u.zone nsid.toNat (slba.toNat / zoneSize)).st = true → ∃ t,
    exec (.zoneFinish id nsid slba false) s = .next t ∧ t = u.zoneWait (s.takenCmd id nsid.toNat [.zone nsid.toNat
    slba.toNat]) nsid.toNat [slba.toNat / zoneSize] (.zoneFinish nsid.toNat [slba.toNat / zoneSize])) ∧
  -- ZONE_OPEN (R249)
  (∀ (id : CmdId) (nsid : BitVec 32) (slba : BitVec 64) (ns : Ns) (u : State) (s : State), s.takes id [.zone nsid.toNat
    slba.toNat] 0 = true → u = s.took id nsid.toNat [.zone nsid.toNat slba.toNat] → u.readyNs id s.cmdNo nsid.toNat [2]
    = some ns → slba.toNat % zoneSize = 0 → slba.toNat < ns.nsze → u.actDown (placeAct ns.mask (slba.toNat / zoneSize))
    = false → [zEmpty, zImp, zExp, zClosed].contains (u.zone nsid.toNat (slba.toNat / zoneSize)).st = true → ((u.zone
    nsid.toNat (slba.toNat / zoneSize)).st = zEmpty → u.activeOn (u.lbaAct nsid.toNat ((slba.toNat / zoneSize) *
    zoneSize)) < 64) → ∃ t, exec (.zoneOpen id nsid slba false) s = .next t ∧ t = (u.setZone nsid.toNat (slba.toNat /
    zoneSize) { u.zone nsid.toNat (slba.toNat / zoneSize) with st := zExp }).answer id stOk) ∧
  -- ZONE_CLOSE (R249)
  (∀ (id : CmdId) (nsid : BitVec 32) (slba : BitVec 64) (ns : Ns) (u : State) (s : State), s.takes id [.zone nsid.toNat
    slba.toNat] 0 = true → u = s.took id nsid.toNat [.zone nsid.toNat slba.toNat] → u.readyNs id s.cmdNo nsid.toNat [2]
    = some ns → slba.toNat % zoneSize = 0 → slba.toNat < ns.nsze → u.actDown (placeAct ns.mask (slba.toNat / zoneSize))
    = false → [zImp, zExp, zClosed].contains (u.zone nsid.toNat (slba.toNat / zoneSize)).st = true → ∃ t, exec
    (.zoneClose id nsid slba false) s = .next t ∧ t = (u.setZone nsid.toNat (slba.toNat / zoneSize)
    { u.zone nsid.toNat (slba.toNat / zoneSize) with st := zClosed }).answer id stOk) ∧
  -- SET_ZONE_DESCRIPTOR_EXTENSION (R250)
  (∀ (id : CmdId) (nsid : BitVec 32) (slba : BitVec 64) (ns : Ns) (u : State) (s : State), s.takes id [.zone nsid.toNat
    slba.toNat] 0 = true → u = s.took id nsid.toNat [.zone nsid.toNat slba.toNat] → u.readyNs id s.cmdNo nsid.toNat [2]
    = some ns → slba.toNat % zoneSize = 0 → slba.toNat < ns.nsze → u.actDown (placeAct ns.mask (slba.toNat / zoneSize))
    = false → [zEmpty, zImp, zExp, zClosed, zRo, zFull, zOff].contains (u.zone nsid.toNat (slba.toNat / zoneSize)).st =
    true → ∃ t, exec (.setZoneDescriptorExtension id nsid slba) s = .next t ∧ t = u.answer id stField) ∧
  -- ZONE_MANAGEMENT_RECEIVE (R250)
  (∀ (id : CmdId) (nsid : BitVec 32) (slba : BitVec 64) (ext : Bool) (ns : Ns) (u : State) (s : State), s.takes id [] 0
    = true → u = s.took id nsid.toNat [] → u.readyNs id s.cmdNo nsid.toNat [2] = some ns → slba.toNat < ns.nsze → ∃ t,
    exec (.zoneManagementReceive id nsid slba ext) s = .next t ∧ t = u.complete id stOk 0 (.fields (((List.range
    (ns.nsze / zoneSize)).drop (slba.toNat / zoneSize)).flatMap fun z => u.zoneDesc nsid.toNat z ext)))

/-- The frame of each read channel command: outside the keys named,
every register field and every part of the state is as before. -/
def Obligations.ReadChannelCommandsFrame : Prop :=
  (∀ (a : Act) (s t : State), exec (.readOpStart a) s = .next t →
    Out (passEndKeys ++ [Key.of (V.chnTaCount 0), .of (V.chnAgg 0)]) s t) ∧
  (∀ (a : Act) (sidx : Fin 256) (lock : Option (Fin 8)) (adapt : List (Fin 26 × Int)) (s t : State),
    exec (.preambleAcquire a sidx lock adapt) s = .next t →
    Out ([Key.of (R.CHN_STAT_ACTIVE 0), .of (R.CHN_EVT_SM1_MISS 0), .of (R.CHN_CNT_LMSCLAMP 0), .of (V.chnAcqBit 0),
    .p .edges, .p .inbox, .p .chn]) s t) ∧
  (∀ (a : Act) (s t : State), exec (.acquisitionFailure a) s = .next t →
    Out ([Key.of (R.CHN_EVT_SM1_MISS 0), .p .edges, .p .chn]) s t) ∧
  (∀ (a : Act) (sm1 sm2 : List (Int × Nat)) (s t : State), exec (.syncFraming a sm1 sm2) s = .next t →
    Out ([Key.of (R.CHN_EVT_SM1_MISS 0), .of (R.CHN_CNT_SM1MISS 0), .of (R.CHN_CNT_REFRAME 0), .of (V.seqSmOut 0),
    .p .edges, .p .inbox, .p .chn]) s t) ∧
  (∀ (a : Act) (fsm : List (Int × Nat)) (s t : State), exec (.fsmSearch a fsm) s = .next t →
    Out ([Key.of (R.CHN_EVT_SM1_MISS 0), .of (R.CHN_CNT_REFRAME 0), .of (V.seqFsmOut 0), .p .edges, .p .inbox,
    .p .chn]) s t) ∧
  (∀ (a : Act) (cls : DefectClass) (r0 r1 : Bool) (start len : Nat) (s t : State),
    exec (.defectSpan a cls r0 r1 start len) s = .next t →
    Out ([Key.of (R.CHN_EVT_SM1_MISS 0), .of (V.chnTaCount 0), .p .edges, .p .inbox, .p .chn]) s t) ∧
  (∀ (a : Act) (samples : List (BitVec 6 × BitVec 6)) (s t : State), exec (.sectorSamplesDone a samples) s = .next t →
    Out (passEndKeys ++ [Key.of (R.CHN_CNT_SECTERAS 0), .of (V.chnAgg 0), .of (V.seqSampOut 0),
    .of (V.seqDecOut 0)]) s t) ∧
  (∀ (a : Act) (word : Option (List Bool)) (s t : State), exec (.ldpcConverge a word) s = .next t →
    Out (passEndKeys ++ [Key.of (R.CHN_CNT_SECTERAS 0), .of (R.CHN_CNT_LDPCFAIL 0), .of (V.seqDecOut 0)]) s t) ∧
  (∀ (a : Act) (s t : State), exec (.ldpcWindowEnd a) s = .next t →
    Out (passEndKeys ++ [Key.of (R.CHN_CNT_SECTERAS 0), .of (R.CHN_CNT_LDPCFAIL 0), .of (V.seqDecOut 0)]) s t) ∧
  (∀ (a : Act) (recovered : Bool) (s t : State), exec (.retryRung a recovered) s = .next t →
    Out (opFailKeys ++ passEndKeys) s t) ∧
  (∀ (a : Act) (s t : State), exec (.retryTimeLimit a) s = .next t → Out passEndKeys s t) ∧
  (∀ (a : Act) (reads : List (Option (List Bool))) (s t : State), exec (.outerCodeRebuild a reads) s = .next t →
    Out (opFailKeys ++ [Key.of (R.CHN_STAT_ACTIVE 0), .of (R.CHN_EVT_SM1_MISS 0), .of (R.CHN_LASTF0_TRACK 0),
    .of (R.CHN_LASTF1_LHEAD 0), .of (R.CHN_CNT_OCREB 0), .of (R.CHN_CNT_URE 0), .of (R.SRV_OFS_OFS 0),
    .of (V.srvOfsPend 0), .of (V.srvOfsNext 0), .of (V.sptLbias 0), .of (V.sptHdr 0), .of R.TFH_EVT_TD_DONE,
    .each V.tfhPreDone, .each V.tfhHtw, .each V.tfhIdle, .each V.tfhNoWr, .p .chn, .p .pa, .p .jact,
    .p .rung6]) s t) ∧
  (∀ (a : Act) (s t : State), exec (.chnEnable a) s = .next t →
    Out ([Key.of (R.CHN_CTL_EN 0), .of (R.CHN_CHK_REASON 0), .p .win, .p .chn]) s t) ∧
  (∀ (a : Act) (s t : State), exec (.rdAbort a) s = .next t →
    Out (onNsKeys ++ [Key.of (R.CHN_STAT_ACTIVE 0), .of (V.chnAgg 0), .of (R.SEQ_STAT_STATE 0),
    .of (R.SEQ_EVT_MCHK 0), .of (R.SEQ_CNT_NRDEFER 0), .of (V.seqPend 0), .of (V.seqLast 0), .of (V.seqLost 0),
    .of (V.seqStall 0), .of (R.SRV_STAT_STATE 0), .of (R.SRV_OFS_OFS 0), .of (V.srvOfsPend 0), .of (V.srvOfsNext 0),
    .of (R.SPT_STAT_ENUM_DONE 0), .of (V.sptLbias 0), .of (V.sptHdr 0), .of R.TFH_EVT_TD_DONE, .each V.tfhPreDone,
    .each V.tfhHtw, .each V.tfhIdle, .each V.tfhNoWr, .p .chn, .p .seqs, .p .pa, .p .jact]) s t) ∧
  (∀ (a : Act) (v : Bool) (s t : State), exec (.replayHold a v) s = .next t →
    Out ([Key.of (R.CHN_REPLAY_HOLD 0), .of (V.replayGen 0)]) s t) ∧
  (∀ (blk inst off n : Nat) (s t : State), exec (.counterClear blk inst off n) s = .next t →
    Out ([Key.all, .p .edges, .p .inbox]) s t)

/-- The frame of each Lanyard, preamp and head command: outside the keys named,
every register field and every part of the state is as before. -/
def Obligations.LanyardPreampHeadCommandsFrame : Prop :=
  (∀ (a : Act) (code : BitVec 8) (s t : State), exec (.lanyardGateFrame a code) s = .next t →
    Out (endWriteKeys ++ [Key.of (R.SRV_EVT_LOCK_LOST 0), .of (R.SRV_CNT_WI 0), .of (V.srvWiHold 0),
    .of (V.sptIw 0), .of (V.sptOs 0), .of (V.sptWgT 0)]) s t) ∧
  (∀ (a : Act) (hsel : Fin 16) (addr : Fin 2048) (data : BitVec 16) (err : BitVec 40) (ret : Option (BitVec 4)) (s t : State),
    exec (.lanyardRegWrite a hsel addr data err ret) s = .next t →
    Out (endWriteKeys ++ [Key.of (R.SPT_CNT_LYCRC 0), .of (V.sptPortFail 0), .of (V.sptTry 0)]) s t) ∧
  (∀ (a : Act) (hsel : Fin 16) (addr : Fin 2048) (err : BitVec 24) (ret : Option (BitVec 16 × BitVec 8)) (s t : State),
    exec (.lanyardRegRead a hsel addr err ret) s = .next t →
    Out (endWriteKeys ++ [Key.of (R.SPT_CNT_LYCRC 0), .of (V.sptPortFail 0), .of (V.sptTry 0)]) s t) ∧
  (∀ (a : Act) (s t : State), exec (.sptEnable a) s = .next t →
    Out ([Key.of (R.SPT_CTL_EN 0), .of (R.SPT_CHK_REASON 0), .of (R.SPT_STAT_ENUM_DONE 0), .of (V.sptPortFail 0),
    .of (V.sptTry 0), .of (V.sptEnumBusy 0), .p .win]) s t) ∧
  (∀ (a : Act) (status : BitVec 16) (stays latch : Bool) (s t : State),
    exec (.preampFault a status stays latch) s = .next t →
    Out (onNsKeys ++ endWriteKeys ++ [Key.of R.CMD_STAT_CTRLS, .of R.MMG_STAT_ACT_OK, .of R.MMG_EVT_AT_RISK,
    .of (R.SPT_PAFLT_PASTAT 0), .of (R.SPT_HDWP_WP 0), .of (R.SPT_CNT_PAFLT 0), .of (V.sptPortFail 0),
    .of (V.sptTry 0), .of (V.sptHold 0), .of (V.sptHold100 0), .of R.TFH_TD_RES_TD_PWR, .of V.tdHits, .of V.tdWait,
    .of R.WDB_STAT_BUSY, .of R.WDB_EVT_SUSP_HIT, .each R.WDB_BANK_OP, .each V.wdbProgs, .each V.wdbSusps, .p .win,
    .p .ctrls, .p .zones, .p .mops, .p .opid, .p .journal, .p .jseq, .p .blks, .p .fops, .p .fwait]) s t) ∧
  (∀ (a : Act) (v : Bool) (s t : State), exec (.wrInh a v) s = .next t →
    Out (endWriteKeys ++ [Key.of (R.SPT_CTL_EN 0)]) s t) ∧
  (∀ (a : Act) (mask hw : BitVec 10) (s t : State), exec (.hdwpClear a mask hw) s = .next t →
    Out ([Key.of (R.SPT_HDWP_WP 0)]) s t) ∧
  (∀ (a : Act) (s t : State), exec (.preheatDone a) s = .next t → Out ([Key.each V.tfhPre, .each V.tfhPreDone]) s t) ∧
  (∀ (h : GHead) (s t : State), exec (.touchdownGo h) s = .next t →
    Out (endWriteKeys ++ [Key.each R.CMD_JQ_DEPTH, .of (R.SRV_EVT_LOCK_LOST 0), .of (R.SRV_TGT_TRACK 0),
    .of (R.SRV_CNT_WI 0), .of (V.srvGoodRun 0), .of (V.srvSetRun 0), .of (V.srvWrRun 0), .of (V.srvWrSet 0),
    .of (V.srvWiHold 0), .of (V.srvSeekW 0), .of (V.srvSeekTry 0), .of (V.srvSeekFrom 0), .of (V.srvHsw 0),
    .of (V.srvHswD 0), .of (V.srvSeekPend 0), .of (V.srvSeekNx 0), .of R.TFH_TD_TD_HEAD, .of R.TFH_TD_RES_TD_PWR,
    .of V.tdP, .of V.tdStep, .of V.tdSum, .of V.tdHits, .of V.tdWait, .of V.tdH, .p .amps]) s t) ∧
  (∀ (energy offTrack : Nat) (s t : State), exec (.touchdownDwellEnd energy offTrack) s = .next t →
    Out ([Key.each R.CMD_JQ_DEPTH, .of (V.sptHdr 0), .of R.TFH_TD_RES_TD_PWR, .of R.TFH_EVT_TD_DONE,
    .of R.TFH_CNT_TD, .of V.tdP, .of V.tdStep, .of V.tdSum, .of V.tdHits, .each V.tfhIdle, .each V.tfhNoWr,
    .p .edges, .p .inbox, .p .pa]) s t) ∧
  (∀ (s t : State), exec .touchdownAbort s = .next t → Out tdAbortKeys s t) ∧
  (∀ (a : Act) (kind : Fin 8) (l : LHead) (s t : State), exec (.loadMeasureGo a kind l) s = .next t →
    Out ([Key.each R.CMD_JQ_DEPTH, .of (R.SPT_STAT_ENUM_DONE 0), .of (R.SPT_MEAS_LHEAD 0), .of (V.sptMeasKind 0),
    .of (V.sptMeasWait 0), .of (V.sptMeasRef 0), .of (V.sptMeasHead 0)]) s t) ∧
  (∀ (a : Act) (res0 res1 : BitVec 32) (s t : State), exec (.loadMeasureDone a res0 res1) s = .next t →
    Out (onNsKeys ++ [Key.of R.CMD_STAT_CTRLS, .of R.MMG_STAT_ACT_OK, .of R.MMG_EVT_AT_RISK,
    .of (R.SPT_STAT_ENUM_DONE 0), .of (R.SPT_EVT_PA_FAULT 0), .of (R.SPT_MEAS_RES0_RES 0),
    .of (R.SPT_MEAS_RES1_RES 0), .of (R.SPT_HDWP_WP 0), .of (V.sptFlexL 0), .of (V.sptHdr 0), .of R.TFH_EVT_TD_DONE,
    .each V.tfhIdle, .each V.tfhNoWr, .of R.WDB_STAT_BUSY, .of R.WDB_EVT_SUSP_HIT, .each R.WDB_BANK_OP,
    .each V.wdbProgs, .each V.wdbSusps, .p .win, .p .pa, .p .ctrls, .p .zones, .p .mops, .p .opid, .p .journal,
    .p .jseq, .p .blks, .p .fops, .p .fwait, .p .loads]) s t) ∧
  (∀ (s t : State), exec .tfhEnable s = .next t →
    Out ([Key.of R.TFH_CTL_EN, .of R.TFH_CHK_REASON, .each V.tfhPassed, .p .win]) s t) ∧
  (∀ (a : Act) (flagClear : Bool) (s t : State), exec (.preampWriteHoldEnd a flagClear) s = .next t →
    Out ([Key.of (R.SPT_STAT_ENUM_DONE 0), .of (V.sptHold 0), .of (V.sptHold100 0), .p .pa]) s t)

/-- The frame of each sequencer command: outside the keys named,
every register field and every part of the state is as before. -/
def Obligations.SequencerCommandsFrame : Prop :=
  (∀ (a : Act) (crcPass : Bool) (s t : State), exec (.seqEnable a crcPass) s = .next t →
    Out (memPutKeys ++ [Key.of (R.SEQ_CTL_EN 0), .of (R.SEQ_CHK_REASON 0), .of (R.SEQ_STAT_STATE 0),
    .of (V.seqHeld 0), .of (V.seqStall 0), .p .bstore]) s t) ∧
  (∀ (a : Act) (id : Fin 64) (flip : BarkerWord) (kind : RoutineKind) (s t : State),
    exec (.routineStart a id flip kind) s = .next t →
    Out (onNsKeys ++ [Key.of R.CMD_STAT_CTRLS, .of R.MMG_STAT_ACT_OK, .of R.MMG_EVT_AT_RISK, .of R.MMG_CNT_RESUME,
    .of (R.CHN_STAT_ACTIVE 0), .of (V.chnWclk 0), .of (R.SEQ_STAT_STATE 0), .of (R.SEQ_EVT_MCHK 0),
    .of (R.SEQ_MCK0_ADDR 0), .of (R.SEQ_MCK1_GATES 0), .of (R.SEQ_CNT_MCHK 0), .of (V.seqExit 0), .of (V.seqPend 0),
    .of (V.seqWw 0), .of (V.seqLast 0), .of (V.seqLost 0), .of (V.seqUnits 0), .of (V.seqStall 0),
    .of (R.SRV_STAT_STATE 0), .of (R.SRV_OFS_OFS 0), .of (V.srvOfsPend 0), .of (V.srvOfsNext 0),
    .of (V.srvHswRef 0), .of (R.SPT_STAT_ENUM_DONE 0), .of (R.SPT_EVT_PA_FAULT 0), .of (R.SPT_HDWP_WP 0),
    .of (R.SPT_CNT_WRABORT 0), .of (R.SPT_CNT_LASCLAMP 0), .of (V.sptLbias 0), .of (V.sptHdr 0), .of (V.sptPc1 0),
    .of (V.sptPc2 0), .of (V.sptLbHead 0), .of R.TFH_EVT_TD_DONE, .each V.tfhPreDone, .each V.tfhHtw,
    .each V.tfhIdle, .each V.tfhNoWr, .of R.WDB_STAT_BUSY, .of R.WDB_EVT_SUSP_HIT, .each R.WDB_BANK_OP,
    .each V.seqOos, .each V.wdbProgs, .each V.wdbSusps, .p .chn, .p .seqs, .p .bstore, .p .pa, .p .ctrls, .p .zones,
    .p .mops, .p .opid, .p .journal, .p .jseq, .p .blks, .p .fops, .p .fwait]) s t) ∧
  (∀ (a : Act) (flip : BarkerWord) (now : BarkerNow) (s t : State), exec (.barkerNop a flip now) s = .next t →
    Out barkerNopKeys s t) ∧
  (∀ (a : Act) (flip : BarkerWord) (now : BarkerNow) (s t : State), exec (.barkerJmp a flip now) s = .next t →
    Out barkerNopKeys s t) ∧
  (∀ (a : Act) (flip : BarkerWord) (now : BarkerNow) (s t : State), exec (.barkerBr a flip now) s = .next t →
    Out (barkerNopKeys ++ [Key.of (V.seqSmOut 0), .of (V.seqFsmOut 0), .of (V.seqSampOut 0), .of (V.seqDecOut 0),
    .of (V.srvSamOut 0)]) s t) ∧
  (∀ (a : Act) (flip : BarkerWord) (now : BarkerNow) (s t : State), exec (.barkerCall a flip now) s = .next t →
    Out barkerNopKeys s t) ∧
  (∀ (a : Act) (flip : BarkerWord) (now : BarkerNow) (s t : State), exec (.barkerRet a flip now) s = .next t →
    Out barkerNopKeys s t) ∧
  (∀ (a : Act) (flip : BarkerWord) (now : BarkerNow) (s t : State), exec (.barkerWait a flip now) s = .next t →
    Out (barkerNopKeys ++ [Key.of (V.seqWaitCond 0), .of (V.seqWaitImm 0), .of (V.seqWaitTgt 0),
    .of (V.seqWaitBr 0), .of (V.seqSmOut 0), .of (V.seqFsmOut 0), .of (V.seqSampOut 0), .of (V.seqDecOut 0),
    .of (V.seqWaitUnit 0), .of (V.srvSamOut 0)]) s t) ∧
  (∀ (a : Act) (flip : BarkerWord) (now : BarkerNow) (s t : State), exec (.barkerLoad a flip now) s = .next t →
    Out barkerNopKeys s t) ∧
  (∀ (a : Act) (flip : BarkerWord) (now : BarkerNow) (s t : State), exec (.barkerAdd a flip now) s = .next t →
    Out barkerNopKeys s t) ∧
  (∀ (a : Act) (flip : BarkerWord) (now : BarkerNow) (s t : State), exec (.barkerEnd a flip now) s = .next t →
    Out barkerNopKeys s t) ∧
  (∀ (a : Act) (now : BarkerNow) (s t : State), exec (.barkerWaitMet a now) s = .next t →
    Out (onNsKeys ++ endWriteKeys ++ [Key.of (V.seqSmOut 0), .of (V.seqFsmOut 0), .of (V.seqSampOut 0),
    .of (V.seqDecOut 0), .of (V.seqDone 0), .of (R.SRV_EVT_LOCK_LOST 0), .of (R.SRV_TGT_TRACK 0),
    .of (R.SRV_CNT_WI 0), .of (V.srvGoodRun 0), .of (V.srvSetRun 0), .of (V.srvWrRun 0), .of (V.srvWrSet 0),
    .of (V.srvWiHold 0), .of (V.srvSeekW 0), .of (V.srvSeekTry 0), .of (V.srvSeekFrom 0), .of (V.srvHsw 0),
    .of (V.srvSamOut 0), .of (V.srvHswD 0), .of (V.srvSeekPend 0), .of (V.srvSeekNx 0), .of (V.sptMeasWait 0),
    .of (V.sptMeasRef 0), .of V.tdP, .of V.tdStep, .of V.tdSum, .of V.tdHits, .of V.tdWait, .p .jact,
    .p .amps]) s t) ∧
  (∀ (a : Act) (now : BarkerNow) (s t : State), exec (.barkerWaitTimeout a now) s = .next t →
    Out (onNsKeys ++ endWriteKeys ++ [Key.of (R.SEQ_CNT_MISS 0), .of (V.seqSmOut 0), .of (V.seqFsmOut 0),
    .of (V.seqSampOut 0), .of (V.seqDecOut 0), .of (V.seqDone 0), .of (R.SRV_EVT_LOCK_LOST 0),
    .of (R.SRV_TGT_TRACK 0), .of (R.SRV_CNT_WI 0), .of (V.srvGoodRun 0), .of (V.srvSetRun 0), .of (V.srvWrRun 0),
    .of (V.srvWrSet 0), .of (V.srvWiHold 0), .of (V.srvSeekW 0), .of (V.srvSeekTry 0), .of (V.srvSeekFrom 0),
    .of (V.srvHsw 0), .of (V.srvSamOut 0), .of (V.srvHswD 0), .of (V.srvSeekPend 0), .of (V.srvSeekNx 0),
    .of (V.sptMeasWait 0), .of (V.sptMeasRef 0), .of V.tdP, .of V.tdStep, .of V.tdSum, .of V.tdHits, .of V.tdWait,
    .p .jact, .p .amps]) s t) ∧
  (∀ (a : Act) (s t : State), exec (.jobRestart a) s = .next t →
    Out (onNsKeys ++ endWriteKeys ++ [Key.of R.CMD_STAT_CTRLS, .of R.MMG_STAT_ACT_OK, .of R.MMG_EVT_AT_RISK,
    .of R.MMG_CNT_DEFECT, .of R.MMG_CNT_RESUME, .of (V.chnWclk 0), .of (R.SEQ_MCK0_ADDR 0),
    .of (R.SEQ_MCK1_GATES 0), .of (R.SEQ_CNT_RESTART 0), .of (R.SEQ_CNT_MCHK 0), .of (V.seqExit 0), .of (V.seqWw 0),
    .of (V.seqUnits 0), .of (V.seqDone 0), .of (R.SRV_EVT_LOCK_LOST 0), .of (R.SRV_TGT_TRACK 0),
    .of (R.SRV_CNT_WI 0), .of (V.srvGoodRun 0), .of (V.srvSetRun 0), .of (V.srvWrRun 0), .of (V.srvWrSet 0),
    .of (V.srvWiHold 0), .of (V.srvSeekW 0), .of (V.srvSeekTry 0), .of (V.srvSeekFrom 0), .of (V.srvHsw 0),
    .of (V.srvHswD 0), .of (V.srvSeekPend 0), .of (V.srvSeekNx 0), .of (R.SPT_HDWP_WP 0),
    .of (R.SPT_CNT_LASCLAMP 0), .of (V.sptMeasWait 0), .of (V.sptMeasRef 0), .of (V.sptPc1 0), .of (V.sptPc2 0),
    .of (V.sptLbHead 0), .of V.tdP, .of V.tdStep, .of V.tdSum, .of V.tdHits, .of V.tdWait, .of R.WDB_STAT_BUSY,
    .of R.WDB_EVT_SUSP_HIT, .each R.WDB_BANK_OP, .each V.seqOos, .each V.mmgWrFault, .each V.wdbProgs,
    .each V.wdbSusps, .p .jact, .p .ctrls, .p .zones, .p .dur, .p .mops, .p .opid, .p .journal, .p .jseq, .p .amps,
    .p .blks, .p .fops, .p .fwait]) s t) ∧
  (∀ (a : Act) (crcPass : Bool) (s t : State), exec (.seqMchkRecovery a crcPass) s = .next t →
    Out (memPutKeys ++ [Key.each R.CMD_JQ_DEPTH, .of (R.SEQ_CTL_EN 0), .of (R.SEQ_CHK_REASON 0),
    .of (R.SEQ_STAT_STATE 0), .of (V.seqHeld 0), .of (V.seqStall 0), .p .bstore]) s t) ∧
  (∀ (a : Act) (flips : List (Fin 4096 × BarkerWord)) (reloaded : Bool) (s t : State),
    exec (.seqScrubPass a flips reloaded) s = .next t →
    Out (memPutKeys ++ [Key.of (R.SEQ_EVT_MCHK 0), .of (R.SEQ_CNT_SCRUB 0), .of (V.seqHeld 0), .of (V.seqLost 0),
    .p .edges, .p .inbox, .p .bstore]) s t)

/-- The frame of each servo command: outside the keys named, every register field and every part of the state is as before. -/
def Obligations.ServoCommandsFrame : Prop :=
  (∀ (a : Act) (w : WedgeRead) (s t : State), exec (.servoWedge a w) s = .next t →
    Out (lpMissKeys ++ opFailKeys ++ passEndKeys ++ [Key.of R.RMC_STAT_STEP, .each R.RMC_T_MS, .of R.MMG_CNT_RESUME,
    .of (R.SRV_TGT_TRACK 0), .of (R.SRV_POS_TRACK 0), .of (R.SRV_PES_PES 0), .of (R.SRV_FEED_STAMP 0),
    .of (R.SRV_CNT_SAMMISS 0), .of (R.SRV_CNT_IDXERR 0), .of (R.SRV_CNT_GRAYERR 0), .of (R.SRV_CNT_BURSTERR 0),
    .of (R.SRV_CNT_RROPAR 0), .of (R.SRV_CNT_SEEKERR 0), .of (R.SRV_CNT_LOCKLOSS 0), .each (R.SRV_HEADA_HSKEW 0),
    .of (V.srvIdx 0), .of (V.srvSlip 0), .of (V.srvSlipIdx 0), .of (V.srvPes1 0), .of (V.srvPes2 0),
    .of (V.srvGood1 0), .of (V.srvHdrOk 0), .of (V.srvBadRun 0), .of (V.srvSeekW 0), .of (V.srvSeekTry 0),
    .of (V.srvSeekFrom 0), .of (V.srvSeekErr 0), .of (V.srvSeekT 0), .of (V.srvReload 0), .of (V.srvLoadFails 0),
    .of (V.srvOfsNow 0), .of (V.srvPosSub 0), .of (V.srvVel 0), .each V.srvHskewMeas, .of (V.srvPes0 0),
    .of (V.srvGood0 0), .of (V.srvSmpOk 0), .of (V.srvOfsW 0), .of (V.srvSamOut 0), .of (V.srvHswRef 0),
    .of (V.srvGoodTrk 0), .of (V.srvMissP 0), .of (V.srvSeekT2 0), .of (V.srvBadWhy 0), .each V.trzOwner,
    .each V.trzTblPend, .each V.trzTook, .of V.crlMedStamp, .of V.crlMedIdx, .of V.crlMedAng, .of V.crlMedMiss,
    .of V.crlMedRun, .of V.crlMedNew, .each V.tfhPre, .of R.CVN_STAT_PS, .of R.CVN_EVT_PS_CHG, .of V.cvnWaking,
    .p .amps, .p .sams]) s t) ∧
  (∀ (a : Act) (w : WedgeRead) (s t : State), exec (.samPredicted a w) s = .next t →
    Out (lpMissKeys ++ opFailKeys ++ passEndKeys ++ [Key.of R.RMC_STAT_STEP, .each R.RMC_T_MS, .of R.MMG_CNT_RESUME,
    .of (R.SRV_TGT_TRACK 0), .of (R.SRV_POS_TRACK 0), .of (R.SRV_PES_PES 0), .of (R.SRV_FEED_STAMP 0),
    .of (R.SRV_CNT_SAMMISS 0), .of (R.SRV_CNT_IDXERR 0), .of (R.SRV_CNT_GRAYERR 0), .of (R.SRV_CNT_BURSTERR 0),
    .of (R.SRV_CNT_RROPAR 0), .of (R.SRV_CNT_SEEKERR 0), .of (R.SRV_CNT_LOCKLOSS 0), .each (R.SRV_HEADA_HSKEW 0),
    .of (V.srvIdx 0), .of (V.srvSlip 0), .of (V.srvSlipIdx 0), .of (V.srvPes1 0), .of (V.srvPes2 0),
    .of (V.srvGood1 0), .of (V.srvHdrOk 0), .of (V.srvBadRun 0), .of (V.srvSeekW 0), .of (V.srvSeekTry 0),
    .of (V.srvSeekFrom 0), .of (V.srvSeekErr 0), .of (V.srvSeekT 0), .of (V.srvReload 0), .of (V.srvLoadFails 0),
    .of (V.srvOfsNow 0), .of (V.srvPosSub 0), .of (V.srvVel 0), .each V.srvHskewMeas, .of (V.srvPes0 0),
    .of (V.srvGood0 0), .of (V.srvSmpOk 0), .of (V.srvOfsW 0), .of (V.srvSamOut 0), .of (V.srvHswRef 0),
    .of (V.srvGoodTrk 0), .of (V.srvMissP 0), .of (V.srvSeekT2 0), .of (V.srvBadWhy 0), .each V.trzOwner,
    .each V.trzTblPend, .each V.trzTook, .of V.crlMedStamp, .of V.crlMedIdx, .of V.crlMedAng, .of V.crlMedMiss,
    .of V.crlMedRun, .of V.crlMedNew, .each V.tfhPre, .of R.CVN_STAT_PS, .of R.CVN_EVT_PS_CHG, .of V.cvnWaking,
    .p .amps, .p .sams]) s t) ∧
  (∀ (a : Act) (track : BitVec 24) (s t : State), exec (.seekStart a track) s = .next t →
    Out (endWriteKeys ++ [Key.of (R.SRV_EVT_LOCK_LOST 0), .of (R.SRV_TGT_TRACK 0), .of (R.SRV_CNT_WI 0),
    .of (V.srvGoodRun 0), .of (V.srvSetRun 0), .of (V.srvWrRun 0), .of (V.srvWrSet 0), .of (V.srvWiHold 0),
    .of (V.srvSeekW 0), .of (V.srvSeekTry 0), .of (V.srvSeekFrom 0), .of (V.srvSeekPend 0),
    .of (V.srvSeekNx 0)]) s t) ∧
  (∀ (a : Act) (s t : State), exec (.seekTimeout a) s = .next t →
    Out (onNsKeys ++ toUnloadingKeys ++ [Key.of R.CMD_STAT_CTRLS, .of R.MMG_STAT_ACT_OK, .of R.MMG_EVT_AT_RISK,
    .of R.MMG_CNT_DEFECT, .of (R.SRV_CNT_SEEKERR 0), .of (V.srvSeekW 0), .of (V.srvSeekTry 0),
    .of (V.srvSeekFrom 0), .of (V.srvSeekErr 0), .of (V.srvSeekT 0), .of (V.srvReload 0), .of (V.srvSeekT2 0),
    .of (V.srvSeekNx 0), .of R.WDB_STAT_BUSY, .of R.WDB_EVT_SUSP_HIT, .each R.WDB_BANK_OP, .each V.mmgWrFault,
    .each V.wdbProgs, .each V.wdbSusps, .p .ctrls, .p .zones, .p .dur, .p .mops, .p .opid, .p .journal, .p .jseq,
    .p .blks, .p .fops, .p .fwait]) s t) ∧
  (∀ (a : Act) (s t : State), exec (.loadRequest a) s = .next t →
    Out (alignEndKeys ++ setSrvKeys ++ [Key.of R.RMC_STAT_STEP, .each R.RMC_T_MS, .of (V.srvReload 0),
    .of (V.srvLoadReq 0), .of (V.srvMaMeas 0), .of (V.srvUnlReq 0), .of V.loadLastMs, .of V.loadLastAct,
    .of (V.srvMaStep 0), .of (V.measFresh 0), .each V.stmLoaded]) s t) ∧
  (∀ (a : Act) (s t : State), exec (.loadDeferredStart a) s = .next t →
    Out (setSrvKeys ++ [Key.of R.RMC_STAT_STEP, .each R.RMC_T_MS, .of (V.srvReload 0), .of (V.srvLoadReq 0),
    .of (V.srvMaMeas 0), .of (V.srvUnlReq 0), .of V.loadLastMs, .of V.loadLastAct, .of (V.srvMaStep 0),
    .of (V.measFresh 0), .each V.stmLoaded]) s t) ∧
  (∀ (a : Act) (s t : State), exec (.loadingOffRamp a) s = .next t →
    Out (toUnloadingKeys ++ [Key.of (V.srvUnlReq 0), .each V.stmLoadGrant, .p .amps, .p .sams]) s t) ∧
  (∀ (a : Act) (s t : State), exec (.acquireTimeout a) s = .next t →
    Out (toUnloadingKeys ++ [Key.of R.MMG_STAT_ACT_OK, .of R.MMG_EVT_AT_RISK, .of R.MMG_CNT_RESUME,
    .of (V.srvLoadFails 0), .of (V.srvNoLoad 0)]) s t) ∧
  (∀ (a : Act) (s t : State), exec (.holdRelockTimeout a) s = .next t → Out toUnloadingKeys s t) ∧
  (∀ (a : Act) (s t : State), exec (.loadRetry a) s = .next t →
    Out (alignEndKeys ++ setSrvKeys ++ [Key.of R.RMC_STAT_STEP, .each R.RMC_T_MS, .of (V.srvReload 0),
    .of (V.srvLoadReq 0), .of (V.srvMaMeas 0), .of (V.srvUnlReq 0), .of V.loadLastMs, .of V.loadLastAct,
    .of (V.srvMaStep 0), .of (V.measFresh 0), .each V.stmLoaded]) s t) ∧
  (∀ (a : Act) (soon : Bool) (s t : State), exec (.unloadRequest a soon) s = .next t →
    Out (toUnloadingKeys ++ [Key.of (V.srvLoadReq 0), .of (V.srvUnlReq 0)]) s t) ∧
  (∀ (a : Act) (measured : BitVec 16) (s t : State), exec (.maStrokeMeasure a measured) s = .next t →
    Out ([Key.of (R.SRV_STAT_STATE 0), .of (R.SRV_EVT_LOCK_LOST 0), .of (V.srvMaMeas 0), .of (V.srvMaStep 0),
    .of (V.srvMaAge 0), .p .edges, .p .inbox]) s t) ∧
  (∀ (a : Act) (s t : State), exec (.srvEnable a) s = .next t →
    Out (setSrvKeys ++ [Key.of (R.SRV_CTL_EN 0), .of (R.SRV_CHK_REASON 0)]) s t) ∧
  (∀ (a : Act) (v : BitVec 16) (s t : State), exec (.srvOfsWrite a v) s = .next t →
    Out (endWriteKeys ++ [Key.of (R.SRV_EVT_LOCK_LOST 0), .of (R.SRV_CNT_WI 0), .of (V.srvWiHold 0)]) s t)

/-- The frame of each Trapeze command: outside the keys named, every register field and every part of the state is as before. -/
def Obligations.TrapezeCommandsFrame : Prop :=
  (∀ (crcPass : Bool) (s t : State), exec (.trzEnable crcPass) s = .next t → Out trzEnableCmdKeys s t) ∧
  (∀ (flip : TrzWord) (s t : State), exec (.trzNop flip) s = .next t → Out trzBrKeys s t) ∧
  (∀ (flip : TrzWord) (s t : State), exec (.trzJmp flip) s = .next t → Out trzBrKeys s t) ∧
  (∀ (flip : TrzWord) (s t : State), exec (.trzBr flip) s = .next t → Out trzBrKeys s t) ∧
  (∀ (flip : TrzWord) (s t : State), exec (.trzCall flip) s = .next t → Out (trzBrKeys ++ [Key.p .tstk]) s t) ∧
  (∀ (flip : TrzWord) (s t : State), exec (.trzRet flip) s = .next t → Out (trzBrKeys ++ [Key.p .tstk]) s t) ∧
  (∀ (flip : TrzWord) (s t : State), exec (.trzWait flip) s = .next t →
    Out (trzBrKeys ++ [Key.of V.trzWaitC, .of V.trzWaitBr, .of V.trzWaitTgt, .of V.trzWaitTo]) s t) ∧
  (∀ (flip : TrzWord) (s t : State), exec (.trzLd flip) s = .next t → Out (trzBrKeys ++ [Key.p .tshd, .p .tshr]) s t) ∧
  (∀ (flip : TrzWord) (s t : State), exec (.trzMov flip) s = .next t → Out (trzBrKeys ++ [Key.p .tshd, .p .tshr]) s t) ∧
  (∀ (flip : TrzWord) (s t : State), exec (.trzAdd flip) s = .next t →
    Out (trzBrKeys ++ [Key.of V.trzSatd, .p .tshd, .p .tshr]) s t) ∧
  (∀ (flip : TrzWord) (s t : State), exec (.trzSub flip) s = .next t →
    Out (trzBrKeys ++ [Key.of V.trzSatd, .p .tshd, .p .tshr]) s t) ∧
  (∀ (flip : TrzWord) (s t : State), exec (.trzMul flip) s = .next t → Out (trzBrKeys ++ [Key.of V.trzAcc]) s t) ∧
  (∀ (flip : TrzWord) (s t : State), exec (.trzMac flip) s = .next t → Out (trzBrKeys ++ [Key.of V.trzAcc]) s t) ∧
  (∀ (flip : TrzWord) (s t : State), exec (.trzAccout flip) s = .next t →
    Out (trzBrKeys ++ [Key.of V.trzSatd, .p .tshd, .p .tshr]) s t) ∧
  (∀ (flip : TrzWord) (s t : State), exec (.trzClracc flip) s = .next t → Out (trzBrKeys ++ [Key.of V.trzAcc]) s t) ∧
  (∀ (flip : TrzWord) (s t : State), exec (.trzMin flip) s = .next t → Out (trzBrKeys ++ [Key.p .tshd, .p .tshr]) s t) ∧
  (∀ (flip : TrzWord) (s t : State), exec (.trzMax flip) s = .next t → Out (trzBrKeys ++ [Key.p .tshd, .p .tshr]) s t) ∧
  (∀ (flip : TrzWord) (s t : State), exec (.trzLut flip) s = .next t →
    Out (trzBrKeys ++ [Key.of V.trzLutRdy, .of V.trzLutA, .of V.trzLutDst]) s t) ∧
  (∀ (flip : TrzWord) (s t : State), exec (.trzCmp flip) s = .next t →
    Out (trzBrKeys ++ [Key.of V.trzN, .of V.trzZ]) s t) ∧
  (∀ (flip : TrzWord) (s t : State), exec (.trzEnd flip) s = .next t → Out trzBrKeys s t) ∧
  (∀ (s t : State), exec .trzWaitMet s = .next t → Out ([Key.of V.trzWait]) s t) ∧
  (∀ (s t : State), exec .trzWaitTimeout s = .next t → Out (lpMissKeys ++ [Key.of V.trzPc]) s t) ∧
  (∀ (s t : State), exec .lutReady s = .next t →
    Out ([Key.of V.trzLutRdy, .of V.trzLutBusy, .p .win, .p .tshd, .p .tshr]) s t) ∧
  (∀ (whole : Bool) (s t : State), exec (.loopDispatch whole) s = .next t →
    Out (lpMissKeys ++ [Key.each R.TRZ_FE_FE, .each R.TRZ_CNT_FE, .each V.trzDest, .each V.trzOwner, .of V.trzPc,
    .of V.trzAcc, .of V.trzN, .of V.trzZ, .of V.trzSatd, .of V.trzLutRdy, .of V.trzLinkFree, .each V.lrnSum,
    .each V.lrnTrk, .of V.cogRev, .of V.cogLast, .each V.trzGrp, .each V.trzTblPend, .each V.trzTook, .of V.cogFrom,
    .p .free, .p .tstk, .p .tshd, .p .cog]) s t) ∧
  (∀ (n : Fin 64) (s t : State), exec (.loopDeadlineMiss n) s = .next t → Out lpMissKeys s t) ∧
  (∀ (addr : Fin 8192) (flip : TrzWord) (s t : State), exec (.trzScrubError addr flip) s = .next t →
    Out ([Key.of R.TRZ_EVT_MCHK, .of R.TRZ_CNT_SCRUB, .p .edges, .p .inbox, .p .tscrub, .p .cstore]) s t) ∧
  (∀ (s t : State), exec .trzScrubRewriteDone s = .next t → Out (memPutKeys ++ [Key.p .tscrub, .p .cstore]) s t) ∧
  (∀ (crcPass : Bool) (s t : State), exec (.trzMchkReload crcPass) s = .next t → Out trzEnableCmdKeys s t)

/-- The frame of each spindle command: outside the keys named, every register field and every part of the state is as before. -/
def Obligations.SpindleCommandsFrame : Prop :=
  (∀ (s t : State), exec .mediaWedgeMissing s = .next t →
    Out ([Key.of R.CRL_STAT_STATE, .of V.crlMedMiss, .of V.crlMedRun, .each V.crlGood]) s t) ∧
  (∀ (resOk : Bool) (s t : State), exec (.crlEnable resOk) s = .next t →
    Out (applySpKeys ++ [Key.of R.CRL_CTL_EN, .of R.CRL_CHK_REASON, .of V.crlCatchN, .of V.crlCatchDown,
    .of V.crlSpNext, .of V.crlOvWait, .of V.crlChop, .of V.crlOfs, .of V.crlWantCatch, .of V.vinBud,
    .of V.crlResAmp0, .p .spn]) s t) ∧
  (∀ (ovr : Bool) (req : Fin 4) (s t : State), exec (.spOvr ovr req) s = .next t →
    Out (applySpKeys ++ [Key.of R.CRL_CTL_EN, .of V.crlSpNext]) s t) ∧
  (∀ (o : PwmObs) (s t : State), exec (.pwmPeriod o) s = .next t →
    Out (alignEndKeys ++ toUnloadingKeys ++ [Key.of R.RMC_STAT_STEP, .each R.RMC_T_MS, .of (V.srvLoadReq 0),
    .of (V.srvUnlReq 0), .of R.CRL_EVT_SRC_SWITCH, .of R.CRL_SPEED_SPEED, .of R.CRL_ANGLE_ELEC,
    .of R.CRL_RESID_R_MEDIA, .of R.CRL_CNT_SRCSW, .of R.CRL_CNT_LOSS, .of R.CRL_CNT_KICK, .of V.crlSp01,
    .of V.crlSp05, .of V.crlTacc, .each V.crlBad, .each V.crlGood, .of V.crlSlewTo, .of V.crlPulse, .of V.crlFailed,
    .of V.crlStopAtt, .of V.crlCatchN, .of V.crlCatchDown, .of V.crlLossMs, .of V.crlChop, .of V.crlOfs,
    .of V.crlRevIn, .of V.crlDiff, .of V.crlKick, .of V.crlLossPend, .each V.crlDuty, .each V.crlOff, .of V.crlRem,
    .of V.crlWantCatch, .of V.crlOffN, .each V.crlOffSum, .of V.crlDiffN, .of V.vinBud, .each V.trkAng,
    .each V.trkSpd, .each V.trkRes, .of V.crlMedNew, .of V.crlAng, .of V.crlRevN, .of V.crlAngNx, .of V.crlAngIn,
    .of V.crlResAmp, .of V.crlSpdOk, .of V.crlLossSrc, .of V.measSpn, .each V.crlDutyIn, .of V.measQ,
    .each V.stmDuty, .of V.stmMode, .of V.spinUp, .of V.spinTry, .of V.imaxMa, .p .free, .p .tenc]) s t) ∧
  (∀ (peak : BitVec 16) (s t : State), exec (.sensePulse peak) s = .next t →
    Out (alignEndKeys ++ [Key.of V.crlPulse, .each V.crlPeak, .of V.crlSector, .of V.crlAlign,
    .each V.crlTopSec]) s t) ∧
  (∀ (s t : State), exec .alignEnd s = .next t → Out alignEndKeys s t) ∧
  (∀ (top : Nat) (s t : State), exec (.startAttemptFail top) s = .next t →
    Out (alignEndKeys ++ [Key.of R.CRL_EVT_SRC_SWITCH, .of R.CRL_CNT_START, .of V.crlFailed, .each V.crlTop,
    .p .edges, .p .inbox]) s t) ∧
  (∀ (interval : Nat) (sector : Fin 6) (s t : State), exec (.zeroCrossing interval sector) s = .next t →
    Out (alignEndKeys ++ [Key.of R.CRL_SPEED_SPEED, .each V.crlBad, .of V.crlZcLast, .of V.crlCatchN,
    .each V.trkAng, .each V.trkSpd, .each V.trkRes, .of V.crlSpdOk, .of V.crlZcSec, .of V.spinUp, .p .inbox]) s t) ∧
  (∀ (peak : BitVec 16) (s t : State), exec (.catchTimeout peak) s = .next t →
    Out (alignEndKeys ++ [Key.of R.CRL_EVT_SRC_SWITCH, .of R.CRL_SPEED_SPEED, .of V.crlCatchN, .of V.crlCatchDown,
    .of V.crlWantCatch, .of V.crlSpdOk, .p .edges, .p .inbox]) s t) ∧
  (∀ (peak : BitVec 16) (s t : State), exec (.catchRetry peak) s = .next t →
    Out (alignEndKeys ++ [Key.of R.CRL_SPEED_SPEED, .of V.crlCatchN, .of V.crlCatchDown, .of V.crlWantCatch,
    .of V.crlSpdOk]) s t) ∧
  (∀ (s t : State), exec .setpointApply s = .next t → Out applySpKeys s t) ∧
  (∀ (s t : State), exec .ovRecovery s = .next t → Out (alignEndKeys ++ [Key.of V.crlOvWait, .of V.crlWantCatch]) s t)

/-- The frame of each Strongman command: outside the keys named,
every register field and every part of the state is as before. -/
def Obligations.StrongmanCommandsFrame : Prop :=
  (∀ (f : LinkFrame) (s t : State), exec (.dieLinkFrame f) s = .next t →
    Out (lpMissKeys ++ onNsKeys ++ applySpKeys ++ [Key.of R.CMD_STAT_CTRLS, .of R.RMC_STAT_STEP,
    .of R.RMC_EVT_IO_READY, .of R.RMC_CNT_LINKERR, .of R.RMC_CNT_SAG, .each R.RMC_T_MS, .of V.linkStat,
    .of V.linkMsg, .of R.MMG_STAT_ACT_OK, .of R.MMG_EVT_AT_RISK, .of (R.SRV_TGT_TRACK 0), .of (V.srvSeekW 0),
    .of (V.srvSeekTry 0), .of (V.srvSeekFrom 0), .of V.trzNow, .each V.trzOwner, .of V.trzLinkFree,
    .each V.trzTblPend, .each V.vcmSent, .each V.trzTook, .of R.CRL_CTL_EN, .of R.CRL_CNT_OV, .of V.crlSpNext,
    .of V.crlOvWait, .of V.crlChop, .of V.spnId, .of V.spnIq, .of V.crlPerm, .each V.phCur, .each V.vcmCur,
    .each V.bemfVel, .of V.linkV12, .of V.linkV5, .of V.reqSlot, .of R.STM_MEAS_KIND, .of R.STM_CNT_LINKERR,
    .of V.stmHbRx, .of V.stmHbMiss, .of V.stmHbGood, .each V.stmVcm, .each V.stmMa, .of V.stmSagRef,
    .of V.stmOcPend, .of V.stmCoastN, .of V.stmResume, .of V.stmPlReq, .of V.stmZero, .of V.stmOv,
    .of V.stmMeasBusy, .of V.stmMeasK, .of V.stmMeasA, .each V.stmLoaded, .of V.sagLow, .of V.stmModeNx,
    .each V.stmDutyNx, .of V.stmLimV, .of V.stmLimM, .of V.stmReqSeen, .each V.stmRetVel,
    .of (R.SPT_PAFLT_PASTAT 0), .of (R.SPT_HDWP_WP 0), .of (R.SPT_CNT_PAFLT 0), .of (V.sptPortFail 0),
    .of (V.sptTry 0), .of (V.sptHold 0), .of (V.sptHold100 0), .of (V.sptWgT 0), .of R.WDB_STAT_BUSY,
    .of R.WDB_EVT_SUSP_HIT, .each R.WDB_BANK_OP, .each V.wdbProgs, .each V.wdbSusps, .of V.pcycSeen,
    .each V.linkSeq, .of V.hbRx, .of V.hbMiss, .of V.spinSt, .of V.spinFrom, .of V.spinLen, .of V.spinTry,
    .of V.sagWait, .p .ctrls, .p .zones, .p .mops, .p .opid, .p .journal, .p .jseq, .p .blks, .p .fops,
    .p .fwait]) s t) ∧
  (∀ (s t : State), exec .heartbeatAdvance s = .next t → Out ([Key.of V.stmHbTx, .of V.msNow, .of V.hbTx]) s t) ∧
  (∀ (atStrongman : Bool) (s t : State), exec (.heartbeatMiss atStrongman) s = .next t →
    Out (endWriteKeys ++ alignEndKeys ++ stmRetractKeys ++ [Key.each R.CMD_JQ_DEPTH, .of V.crlWantCatch,
    .of R.STM_CNT_HBMISS, .each V.stmLoadGrant, .of V.stmHbMiss, .of V.stmHbGood, .of V.stmMode, .of V.stmSeq,
    .of V.stmResume, .of V.stopWire, .of V.hbMiss, .p .jq, .p .jact]) s t) ∧
  (∀ (vin12 vin5 : BitVec 16) (s t : State), exec (.supplySample vin12 vin5) s = .next t →
    Out (endWriteKeys ++ closeRecKeys ++ stmRetractKeys ++ [Key.of R.STM_VIN_VIN12, .of R.STM_PLOSS_PL_VALID,
    .of V.pfWire, .each V.stmLoadGrant, .of V.stmMode, .each V.stmRun, .of V.stmSeq, .of V.stmPl, .of V.stmPlReq,
    .of V.stmZero, .of V.stmOv, .of V.vin12Lo, .of V.vin12Hi, .of V.vin5Lo, .of V.vin5Hi, .of V.sagLow]) s t) ∧
  (∀ (current : Nat) (s t : State), exec (.chopperFail current) s = .next t →
    Out ([Key.of R.STM_STAT_GRANT, .of R.STM_EVT_HB_LOSS, .of R.STM_CNT_CHOP, .of V.stmZero, .p .edges,
    .p .inbox]) s t) ∧
  (∀ (current : Nat) (s t : State), exec (.spindleOvercurrent current) s = .next t →
    Out (stmRetractKeys ++ [Key.of R.STM_CNT_OC, .each V.stmLoadGrant, .of V.stmMode, .of V.stmOcPend,
    .of V.stmCoastN]) s t) ∧
  (∀ (a : Act) (current : Nat) (s t : State), exec (.vcmOvercurrent a current) s = .next t →
    Out (stmRetractKeys ++ [Key.each V.stmLoadGrant, .each V.stmVcm, .of V.stmMode, .each V.stmVcmTrip]) s t) ∧
  (∀ (a : Act) (s t : State), exec (.vcmTripReopen a) s = .next t →
    Out (stmRetractKeys ++ [Key.each R.CMD_JQ_DEPTH, .of R.MMG_STAT_ACT_OK, .of R.MMG_EVT_AT_RISK,
    .of R.MMG_CNT_RESUME, .of R.STM_PLOSS_PL_VALID, .of V.stmMode, .each V.stmVcmTrip, .of V.stmPl]) s t) ∧
  (∀ (a : Act) (s t : State), exec (.maCurrentLimit a) s = .next t →
    Out ([Key.of (R.SRV_CTL_EN 0), .of R.STM_STAT_GRANT, .of R.STM_EVT_HB_LOSS, .each V.stmMa, .p .edges,
    .p .inbox]) s t) ∧
  (∀ (mask hw : BitVec 4) (s t : State), exec (.maOffClear mask hw) s = .next t → Out ([Key.of R.STM_STAT_GRANT]) s t) ∧
  (∀ (cause : Fin 5) (s t : State), exec (.stopWireAssert cause) s = .next t →
    Out (endWriteKeys ++ alignEndKeys ++ stmRetractKeys ++ [Key.each R.CMD_JQ_DEPTH, .of V.crlWantCatch,
    .each V.stmLoadGrant, .of V.stmMode, .of V.stopWire, .p .jq, .p .jact]) s t) ∧
  (∀ (a : Act) (s t : State), exec (.retractParked a) s = .next t →
    Out ([Key.of R.STM_PLOSS_PL_VALID, .each V.stmVcm, .each V.stmRetPh]) s t) ∧
  (∀ (a : Act) (s t : State), exec (.retractParkHoldEnd a) s = .next t →
    Out ([Key.of R.STM_STAT_GRANT, .of R.STM_EVT_HB_LOSS, .of R.STM_PLOSS_PL_VALID, .each V.stmVcm, .of V.stmMode,
    .each V.stmRetPh, .each V.stmRetPark, .of V.stmPl, .each V.stmLoaded, .each V.stmParkN, .p .edges]) s t) ∧
  (∀ (a : Act) (s t : State), exec (.retractTimeout a) s = .next t →
    Out ([Key.of R.STM_EVT_HB_LOSS, .of R.STM_PLOSS_PL_VALID, .each V.stmVcm, .each V.stmRetPh, .p .edges,
    .p .inbox]) s t) ∧
  (∀ (a : Act) (s t : State), exec (.retractPushEnd a) s = .next t →
    Out ([Key.of R.STM_STAT_GRANT, .of R.STM_EVT_HB_LOSS, .of R.STM_PLOSS_PL_VALID, .each V.stmVcm, .of V.stmMode,
    .each V.stmRetPh, .each V.stmRetPark, .of V.stmPl, .each V.stmLoaded, .each V.stmParkN, .p .edges]) s t) ∧
  (∀ (a : Option Act) (s t : State), exec (.startRequest a) s = .next t →
    Out ([Key.of V.reqSlot, .of V.measQ, .of (V.reqWait 0)]) s t) ∧
  (∀ (s t : State), exec .autonomousBrake s = .next t → Out ([Key.of V.stmMode, .of V.stmSeq]) s t) ∧
  (∀ (s t : State), exec .stmResume s = .next t →
    Out ([Key.of R.STM_STAT_GRANT, .of V.stmResume, .of V.stopWire]) s t) ∧
  (∀ (pulse : Nat) (s t : State), exec (.stmEnable pulse) s = .next t →
    Out (refreshActKeys ++ [Key.of V.reqSlot, .of V.measQ, .of R.STM_CTL_EN, .of R.STM_CHK_REASON,
    .of R.STM_STAT_GRANT, .of V.stmTaken, .of V.stmZero, .p .sup]) s t) ∧
  (∀ (s t : State), exec .safetyMonitorTick s = .next t → Out ([Key.of V.smTick]) s t) ∧
  (∀ (age : Nat) (s t : State), exec (.safetyMonitorTakeover age) s = .next t →
    Out ([Key.of R.STM_STAT_GRANT, .of R.STM_EVT_HB_LOSS, .each V.stmLoadGrant, .each V.stmVcm, .of V.stmMode,
    .of V.stmSeq, .of V.smPush, .of V.smTick, .of V.faultWire, .p .edges, .p .inbox]) s t) ∧
  (∀ (s t : State), exec .smOvervoltage s = .next t →
    Out ([Key.of R.STM_STAT_GRANT, .of R.STM_EVT_HB_LOSS, .of V.stmMode, .of V.stmOv, .p .edges]) s t) ∧
  (∀ (kind : Fin 4) (a : Act) (s t : State), exec (.windingMeasureGo kind a) s = .next t →
    Out ([Key.of R.STM_MEAS_KIND, .of V.stmMeasBusy, .of V.stmMeasK, .of V.stmMeasA]) s t) ∧
  (∀ (value : Nat) (s t : State), exec (.windingMeasureDone value) s = .next t →
    Out (alignEndKeys ++ [Key.of V.crlTacc, .of V.crlPulse, .of V.crlFailed, .of V.crlStopAtt, .of V.crlOffN,
    .of V.crlSpdOk, .of V.measSpn, .of V.reqSlot, .of V.measQ, .of (V.measFresh 0), .of (V.reqWait 0),
    .of R.STM_EVT_HB_LOSS, .of R.STM_MEAS_KIND, .of R.STM_WIND_R_SPN, .each R.STM_VCMR_R_VCM, .of V.stmMeasBusy,
    .of V.stmMeasK, .of V.stmMeasA, .of V.spinUp, .p .edges, .p .inbox]) s t) ∧
  (∀ (s t : State), exec .autonomousSequenceEnd s = .next t →
    Out ([Key.of R.CRL_SPEED_SPEED, .of R.STM_STAT_GRANT, .of V.stmMode, .of V.stmSeq, .of V.stmResume,
    .of V.stmSpin, .of V.stopWire]) s t) ∧
  (∀ (s t : State), exec .safetyMonitorPushEnd s = .next t →
    Out ([Key.of R.STM_STAT_GRANT, .of R.STM_EVT_HB_LOSS, .of R.STM_PLOSS_PL_VALID, .each V.stmVcm, .of V.stmMode,
    .each V.stmRetPh, .each V.stmRetPark, .of V.stmPl, .of V.smPush, .each V.stmLoaded, .each V.stmParkN,
    .p .edges]) s t) ∧
  (∀ (s t : State), exec .strongmanLogicPowerLoss s = .next t → Out ([Key.b 17, .p .sup]) s t)

/-- The frame of each media management command: outside the keys named,
every register field and every part of the state is as before. -/
def Obligations.MediaManagementCommandsFrame : Prop :=
  (∀ (s t : State), exec .mmgEnable s = .next t →
    Out (refreshActKeys ++ [Key.of R.MMG_CTL_EN, .of R.MMG_CHK_REASON]) s t) ∧
  (∀ (s t : State), exec .fmtCommit s = .next t →
    Out ([Key.of R.MMG_CTL_EN, .of R.MMG_CHK_REASON, .each R.MMG_POOL_FREE, .each R.MMG_HELD_HELD,
    .each V.mmgDataHead, .each V.mmgSpare0, .p .fmt, .p .bands, .p .altered, .p .weakSlots]) s t) ∧
  (∀ (s t : State), exec .durableTimer s = .next t →
    Out (memPutKeys ++ showStripesKeys ++ [Key.each R.CMD_JQ_DEPTH, .of R.TRU_STAT_PROG_RUN, .of R.TRU_EVT_ABORT,
    .each R.MMG_POOL_FREE, .each R.MMG_HELD_HELD, .of V.mmgDurMs, .each V.mcHead, .p .free, .p .mcache, .p .jq,
    .p .jobNo, .p .nss, .p .bands, .p .vol, .p .points, .p .lost, .p .kvLog, .p .stripes]) s t) ∧
  (∀ (h : GHead) (z : RZone) (dc : Fin 6) (hours : BitVec 32) (s t : State),
    exec (.alterationDemand h z dc hours) s = .next t →
    Out (opFailKeys ++ [Key.of R.MMG_CNT_OFFLINE, .p .demands, .p .altered]) s t) ∧
  (∀ (a : Act) (bad : List Nat) (ok : Bool) (s t : State), exec (.relayStep a bad ok) s = .next t →
    Out (opFailKeys ++ [Key.of R.MMG_CNT_ALT, .of R.MMG_CNT_DEFECT, .p .media]) s t) ∧
  (∀ (a : Act) (ok share : Bool) (s t : State), exec (.reclaimStep a ok share) s = .next t →
    Out (emptyNsKeys ++ [Key.of R.MMG_CNT_RECL, .of R.MMG_CNT_DEFECT, .each V.sysPos, .p .media]) s t) ∧
  (∀ (a : Act) (ok share : Bool) (s t : State), exec (.overwriteStep a ok share) s = .next t →
    Out (opFailKeys ++ [Key.of R.MMG_CNT_OFFLINE, .of V.sanState, .each V.sysPos, .p .media]) s t)

/-- The frame of each flash and watchdog command: outside the keys named,
every register field and every part of the state is as before. -/
def Obligations.FlashWatchdogCommandsFrame : Prop :=
  (∀ (addr : BitVec 32) (n : BitVec 16) (ran : Nat) (s t : State), exec (.flashRead addr n ran) s = .next t →
    Out ([Key.of R.WDB_STAT_BUSY, .of R.WDB_EVT_SUSP_HIT, .each R.WDB_BANK_OP, .of R.WDB_CNT_SUSPHIT,
    .each V.wdbSusps, .p .edges, .p .inbox, .p .fops, .p .fwait, .p .fread]) s t) ∧
  (∀ (addr : BitVec 32) (data : List Byte) (ran : Nat) (s t : State), exec (.flashProgram addr data ran) s = .next t →
    Out ([Key.of R.WDB_STAT_BUSY, .of R.WDB_EVT_SUSP_HIT, .each R.WDB_BANK_OP, .each V.wdbProgs, .each V.wdbSusps,
    .p .edges, .p .fops, .p .fwait]) s t) ∧
  (∀ (blk : BitVec 16) (s t : State), exec (.flashErase blk) s = .next t →
    Out ([Key.of R.WDB_STAT_BUSY, .each R.WDB_BANK_OP, .p .blks, .p .fops, .p .fwait]) s t) ∧
  (∀ (b : Fin 4) (ok : Bool) (s t : State), exec (.flashProgramDone b ok) s = .next t →
    Out (closeRecKeys ++ [Key.of R.WDB_CNT_PROGFAIL, .of R.WDB_CNT_ERASEFAIL, .of R.WDB_CNT_SUSPHIT,
    .each V.fwSlotSt, .of V.pbSlot, .of V.pbErase, .of V.pbTry, .of V.pbWrapF, .of V.fwOpen, .p .free, .p .inbox,
    .p .flash, .p .fread, .p .fwPend, .p .ring, .p .ringBad]) s t) ∧
  (∀ (b : Fin 4) (ok : Bool) (s t : State), exec (.flashEraseDone b ok) s = .next t →
    Out (pumpKeys ++ [Key.of R.WDB_CNT_PROGFAIL, .of R.WDB_CNT_ERASEFAIL, .of R.PBL_STAT_OPEN, .of R.PBL_NEWEST_SEQ,
    .of R.PBL_OLDEST_SEQ, .of R.PBL_HELD_COUNT, .each V.fwSlotSt, .each V.wdbErased, .each V.wdbSusps, .of V.pbSlot,
    .of V.pbErase, .of V.pbTry, .of V.pbClr, .of V.pbClrBlk, .of V.pbWrapF, .of V.fwOpen, .p .flash, .p .fwPend,
    .p .ring, .p .ringBad]) s t) ∧
  (∀ (b : Fin 4) (s t : State), exec (.flashSuspendDue b) s = .next t →
    Out ([Key.of R.WDB_STAT_BUSY, .of R.WDB_EVT_SUSP_HIT, .each R.WDB_BANK_OP, .of R.WDB_CNT_SUSPHIT,
    .each V.wdbProgs, .each V.wdbSusps, .p .edges, .p .inbox, .p .fops, .p .fwait, .p .fread]) s t) ∧
  (∀ (m : BitVec 4) (s t : State), exec (.wdbHold m) s = .next t →
    Out (pumpKeys ++ [Key.of R.WDB_CTL_AUTO_SUSP, .of R.PBL_STAT_OPEN, .of R.PBL_NEWEST_SEQ, .of R.PBL_OLDEST_SEQ,
    .of R.PBL_HELD_COUNT, .each V.wdbSusps]) s t) ∧
  (∀ (s t : State), exec .downloadSessionTimeout s = .next t → Out ([Key.each V.fwSlotSt, .of V.fwOpen]) s t) ∧
  (∀ (s t : State), exec .sntEnable s = .next t →
    Out ([Key.of R.SNT_CTL_EN, .of R.SNT_CHK_REASON, .of R.SNT_STAT_STAGE, .of V.sntT1, .of V.sntMs]) s t) ∧
  (∀ (v : BitVec 16) (s t : State), exec (.sntKick v) s = .next t →
    Out ([Key.of R.SNT_STAT_STAGE, .of R.SNT_EVT_STAGE1, .of R.SNT_CNT_BADKICK, .of V.sntT1, .of V.sntMs, .p .edges,
    .p .inbox]) s t) ∧
  (∀ (ctx : BitVec 8) (s t : State), exec (.stage1 ctx) s = .next t →
    Out ([Key.of R.SNT_STAT_STAGE, .of R.SNT_EVT_STAGE1, .of R.SNT_CNT_STAGE1, .of V.sntMs, .p .edges,
    .p .inbox]) s t)

/-- The frame of each mailbox and interrupt command: outside the keys named,
every register field and every part of the state is as before. -/
def Obligations.MailboxInterruptCommandsFrame : Prop :=
  (∀ (id : CmdId) (raw : List Byte) (s t : State), exec (.casgusSend id raw) s = .next t →
    Out (listCmdKeys ++ [Key.of R.TKB_STAT_HOST_MB, .w 0x03 0xC, .of R.TKB_CNT_REFUSE, .each R.TKB_MB_OUTST,
    .p .reqs, .p .reqNo]) s t) ∧
  (∀ (id : CmdId) (len : BitVec 32) (wait : Bool) (limit : BitVec 32) (s t : State),
    exec (.casgusReceive id len wait limit) s = .next t →
    Out (listCmdKeys ++ [Key.of R.TKB_STAT_HOST_MB, .each R.TKB_MB_OUTST, .p .reqs, .p .held]) s t) ∧
  (∀ (id : CmdId) (s t : State), exec (.receiveWaitExpiry id) s = .next t → Out (onNsKeys ++ [Key.p .held]) s t) ∧
  (∀ (raw : List Byte) (s t : State), exec (.nvmeMiRequest raw) s = .next t →
    Out ([Key.of R.TKB_STAT_HOST_MB, .w 0x03 0xC, .of R.TKB_CNT_REFUSE, .each R.TKB_MB_OUTST, .p .edges, .p .inbox,
    .p .reqs, .p .reqNo, .p .miOut]) s t) ∧
  (∀ (len : BitVec 32) (s t : State), exec (.nvmeMiReceive len) s = .next t →
    Out ([Key.of R.TKB_STAT_HOST_MB, .each R.TKB_MB_OUTST, .p .reqs, .p .miOut]) s t) ∧
  (∀ (eid : BitVec 16) (s t : State), exec (.mctpEidReassign eid) s = .next t →
    Out ([Key.of R.TKB_STAT_HOST_MB, .each R.TKB_MB_OUTST, .of V.mctpEid, .each R.CLP_SRC_AGENT,
    .each R.CLP_PEND_LO_PEND, .each R.CLP_PEND_HI_PEND, .each R.CLP_ACT_LO_ACT, .each R.CLP_ACT_HI_ACT,
    .each V.clpAgLo, .each V.clpAgHi, .p .inbox, .p .reqs, .p .nonces]) s t) ∧
  (∀ (rq : ReqId) (s t : State), exec (.requestStart rq) s = .next t →
    Out ([Key.w 0x03 0xC, .of R.TKB_CNT_AUTHFAIL, .p .edges, .p .inbox, .p .reqs, .p .nonces]) s t) ∧
  (∀ (rq : ReqId) (s t : State), exec (.requestTimeout rq) s = .next t → Out ([Key.p .reqs, .p .works]) s t) ∧
  (∀ (s t : State), exec .sourceEdge s = .next t →
    Out (onNsKeys ++ setBankStKeys ++ [Key.w 0x04 0xC, .of R.CLP_CNT_MERGE, .each R.CLP_SRC_AGENT, .p .held]) s t) ∧
  (∀ (pin : Fin 16) (level : Bool) (s t : State), exec (.gpioInputChange pin level) s = .next t →
    Out ([Key.of V.gpio, .p .edges]) s t) ∧
  (∀ (sender bank : Fin 64) (hi : Bool) (v : BitVec 32) (s t : State),
    exec (.clpClaimWrite sender bank hi v) s = .next t → Out setBankStKeys s t) ∧
  (∀ (sender bank : Fin 64) (hi : Bool) (v : BitVec 32) (s t : State),
    exec (.clpDoneWrite sender bank hi v) s = .next t →
    Out (onNsKeys ++ setBankStKeys ++ [Key.w 0x04 0xC, .of R.CLP_CNT_REFIRE, .p .held]) s t) ∧
  (∀ (src : Fin 512) (v : BitVec 32) (hw : Bool) (s t : State), exec (.clpSrcWrite src v hw) s = .next t →
    Out ([Key.each R.CLP_SRC_AGENT, .p .inbox]) s t)

/-- The frame of each HBM and Pocket command: outside the keys named,
every register field and every part of the state is as before. -/
def Obligations.HBMPocketCommandsFrame : Prop :=
  (∀ (k : Fin 2) (ok : Bool) (channel : BitVec 8) (s t : State), exec (.hbmTrainingDone k ok channel) s = .next t →
    Out ([Key.of (R.HBM_STAT_TRAINED 0), .of (R.HBM_EVT_CE 0), .of (R.HBM_CNT_RETRAIN 0), .each V.hbmTry,
    .each V.hbmTop, .p .edges, .p .inbox]) s t) ∧
  (∀ (rate : Fin 4) (s t : State), exec (.hbmRateWrite rate) s = .next t →
    Out ([Key.of (R.HBM_CTL_RATE 0), .of V.hbmSw, .of V.hbmSwPsl]) s t) ∧
  (∀ (s t : State), exec .hbmRateSwitchDone s = .next t →
    Out ([Key.of (R.HBM_STAT_TRAINED 0), .of (R.HBM_EVT_CE 0), .of V.hbmSw, .of V.hbmSwPsl, .p .edges,
    .p .inbox]) s t) ∧
  (∀ (k : Fin 2) (s t : State), exec (.hbmCorrectedError k) s = .next t →
    Out ([Key.of (R.HBM_EVT_CE 0), .of (R.HBM_CNT_CE 0), .p .edges, .p .inbox]) s t) ∧
  (∀ (k : Fin 2) (corrected : Bool) (s t : State), exec (.hbmPatrolScrub k corrected) s = .next t →
    Out ([Key.of (R.HBM_EVT_CE 0), .of (R.HBM_CNT_CE 0), .of (R.HBM_CNT_SCRUBFIX 0), .each V.hbmFix, .each V.hbmPos,
    .p .edges, .p .inbox]) s t) ∧
  (∀ (s t : State), exec .selfRefreshExit s = .next t → Out ([Key.of (R.HBM_STAT_TRAINED 0)]) s t) ∧
  (∀ (set : Fin 32768) (way : Fin 16) (s t : State), exec (.pocketUncorrectable set way) s = .next t →
    Out ([Key.of R.PKT_EVT_CLEAN_DONE, .of R.PKT_DIRTY_DIRTY, .of R.PKT_CNT_UE, .p .edges, .p .inbox, .p .pkt,
    .p .hbm, .p .poison]) s t) ∧
  (∀ (s t : State), exec .pktEnable s = .next t →
    Out ([Key.of R.PKT_CTL_EN, .of R.PKT_CHK_REASON, .of R.PKT_DIRTY_DIRTY, .p .pkt]) s t) ∧
  (∀ (s t : State), exec .pktDisable s = .next t → Out ([Key.of R.PKT_STAT_BUSY, .of V.pktWb]) s t) ∧
  (∀ (duration : BitVec 32) (s t : State), exec (.pktCleanDone duration) s = .next t →
    Out ([Key.of R.PKT_CTL_EN, .of R.PKT_STAT_BUSY, .of R.PKT_EVT_CLEAN_DONE, .of R.PKT_DIRTY_DIRTY, .p .edges,
    .p .inbox, .p .pkt, .p .hbm, .p .poison]) s t) ∧
  (∀ (s t : State), exec .pktInvalidate s = .next t → Out pktCleanKeys s t) ∧
  (∀ (s t : State), exec .pktClean s = .next t → Out pktCleanKeys s t) ∧
  (∀ (s t : State), exec .pktCleanInvalidate s = .next t → Out pktCleanKeys s t) ∧
  (∀ (s t : State), exec .pktRangeDone s = .next t →
    Out ([Key.of R.PKT_STAT_BUSY, .of R.PKT_EVT_CLEAN_DONE, .p .edges]) s t) ∧
  (∀ (v : BitVec 32) (s t : State), exec (.pktLfsrSeed v) s = .next t → Out ([Key.of R.PKT_LFSR_LFSR]) s t)

/-- The frame of each fabric port command: outside the keys named,
every register field and every part of the state is as before. -/
def Obligations.FabricPortCommandsFrame : Prop :=
  (∀ (refB : Bool) (s t : State), exec (.fabEnable refB) s = .next t →
    Out ([Key.of R.FAB_CTL_EN, .of R.FAB_CHK_REASON, .of R.FAB_STAT_LINK]) s t) ∧
  (∀ (v : BitVec 2) (s t : State), exec (.portDis v) s = .next t →
    Out ([Key.of R.FAB_CTL_EN, .of R.FAB_STAT_LINK, .of R.FAB_EVT_LINK_UP, .of R.FAB_CNT_LINKDN, .p .edges,
    .p .inbox]) s t) ∧
  (∀ (p : Fin 2) (fec : Fin 4) (abilities : BitVec 32) (lanes : List (Nat × Nat)) (dup : List Nat) (s t : State),
    exec (.linkUp p fec abilities lanes dup) s = .next t →
    Out (onNsKeys ++ [Key.of R.FAB_STAT_LINK, .of R.FAB_EVT_LINK_UP, .each R.FAB_LANE_LOSS, .of (V.fabUp 0),
    .of R.CMD_STAT_CTRLS, .p .ctrls, .p .addrs, .p .partner]) s t) ∧
  (∀ (p : Fin 2) (cause : BitVec 8) (s t : State), exec (.linkDown p cause) s = .next t →
    Out ([Key.of R.FAB_STAT_LINK, .of R.FAB_EVT_LINK_UP, .of R.FAB_CNT_LINKDN, .p .edges, .p .inbox]) s t) ∧
  (∀ (p : Fin 2) (dup : List Nat) (s t : State), exec (.failover p dup) s = .next t →
    Out (onNsKeys ++ [Key.of R.FAB_STAT_LINK, .of R.FAB_EVT_LINK_UP, .of R.FAB_CNT_FAILOVER, .of (V.fabAnn 0),
    .of (V.fabBack 0), .of R.CMD_STAT_CTRLS, .p .ctrls, .p .addrs]) s t) ∧
  (∀ (p : Fin 2) (s t : State), exec (.addressAnnounce p) s = .next t → Out ([Key.of (V.fabAnn 0)]) s t) ∧
  (∀ (p : Fin 2) (s t : State), exec (.failback p) s = .next t →
    Out (onNsKeys ++ [Key.of R.FAB_STAT_LINK, .of R.FAB_EVT_LINK_UP, .of (V.fabAnn 0), .of (V.fabBack 0),
    .of R.CMD_STAT_CTRLS, .p .ctrls, .p .addrs]) s t) ∧
  (∀ (p : Fin 2) (addr : BitVec 128) (s t : State), exec (.dhcpLeaseLost p addr) s = .next t →
    Out (onNsKeys ++ [Key.of R.CMD_STAT_CTRLS, .p .ctrls, .p .addrs]) s t) ∧
  (∀ (p : Fin 2) (chassis portId : BitVec 64) (pfc : BitVec 8) (s t : State),
    exec (.lldpReceive p chassis portId pfc) s = .next t → Out ([Key.of R.FAB_STAT_LINK, .p .partner]) s t) ∧
  (∀ (p : Fin 2) (abilities : BitVec 32) (s t : State), exec (.negotiationFailure p abilities) s = .next t →
    Out ([Key.of R.FAB_STAT_LINK, .p .inbox]) s t) ∧
  (∀ (c qid : BitVec 16) (s t : State), exec (.transportConnectionFailure c qid) s = .next t →
    Out transportFailureKeys s t) ∧
  (∀ (p : Fin 2) (v6 : Bool) (addr : BitVec 128) (conflict : Bool) (s t : State),
    exec (.dhcpLeaseAcquired p v6 addr conflict) s = .next t →
    Out (onNsKeys ++ [Key.of R.FAB_EVT_LINK_UP, .of R.CMD_STAT_CTRLS, .p .ctrls, .p .addrs]) s t)

/-- The frame of each Tailor command: outside the keys named, every register field and every part of the state is as before. -/
def Obligations.TailorCommandsFrame : Prop :=
  (∀ (h : Fin 256) (byTb : Bool) (s t : State), exec (.ageingDue h byTb) s = .next t →
    Out ([Key.of R.TLR_STAT_TRACING, .p .dues]) s t) ∧
  (∀ (h : Fin 256) (r : AgeResult) (s t : State), exec (.ageingMeasureDone h r) s = .next t →
    Out (opFailKeys ++ [Key.of R.MMG_CNT_OFFLINE, .of (R.SRV_STAT_STATE 0), .of (R.SRV_EVT_LOCK_LOST 0),
    .each (R.SRV_HEADA_HSKEW 0), .of (V.srvMaStep 0), .of (V.srvMaAge 0), .of (R.SPT_HDWP_WP 0), .b 24,
    .each V.wdbErased, .of V.tlrAseq, .of V.tlrGen, .of V.tlrCut, .p .win, .p .demands, .p .tstore, .p .flash,
    .p .tsave, .p .tregs, .p .ages, .p .dues, .p .verifs, .p .fitFrom, .p .slopes, .p .asked, .p .altered]) s t) ∧
  (∀ (h : GHead) (z : RZone) (s t : State), exec (.verifyDue h z) s = .next t →
    Out ([Key.of R.TLR_STAT_TRACING, .p .dues, .p .verifs]) s t) ∧
  (∀ (h : Fin 256) (s t : State), exec (.ageingOverdue h) s = .next t →
    Out ([Key.of R.TLR_EVT_SPARE_USED, .of R.TLR_CNT_OVERDUE, .p .edges, .p .inbox]) s t) ∧
  (∀ (steady : Bool) (s t : State), exec (.trace steady) s = .next t → Out ([Key.of R.TLR_STAT_TRACING]) s t) ∧
  (∀ (r : TraceResult) (s t : State), exec (.traceDone r) s = .next t →
    Out ([Key.b 24, .each V.wdbErased, .of V.tlrGen, .of V.tlrCut, .p .edges, .p .inbox, .p .flash, .p .blks,
    .p .tsave, .p .tregs, .p .certs]) s t)

/-- The frame of each Sideshow command: outside the keys named,
every register field and every part of the state is as before. -/
def Obligations.SideshowCommandsFrame : Prop :=
  (∀ (raw : List Byte) (hw : List (BitVec 32)) (s t : State), exec (.spiWriteFrame raw hw) s = .next t →
    Out (onNsKeys ++ [Key.all, .p .win, .p .reqs, .p .reqNo, .p .held]) s t) ∧
  (∀ (off : BitVec 16) (n : BitVec 17) (s t : State), exec (.spiReadFrame off n) s = .next t →
    Out ([Key.p .miso]) s t) ∧
  (∀ (s t : State), exec .sdsGo s = .next t →
    Out ([Key.of R.TKB_STAT_HOST_MB, .w 0x03 0xC, .of R.TKB_CNT_REFUSE, .each R.TKB_MB_OUTST, .of R.SDS_STAT_STATE,
    .of R.SDS_EVT_PROTO, .of R.SDS_CNT_PROTO, .p .edges, .p .inbox, .p .reqs, .p .reqNo]) s t) ∧
  (∀ (s t : State), exec .sdsAck s = .next t →
    Out ([Key.of R.TKB_STAT_HOST_MB, .each R.TKB_MB_OUTST, .of R.SDS_STAT_STATE, .of R.SDS_EVT_PROTO,
    .of R.SDS_CNT_PROTO, .p .edges, .p .inbox, .p .reqs]) s t) ∧
  (∀ (hi : Bool) (v : BitVec 32) (s t : State), exec (.sdsClaim hi v) s = .next t → Out setBankStKeys s t) ∧
  (∀ (hi : Bool) (v : BitVec 32) (s t : State), exec (.sdsDone hi v) s = .next t →
    Out (onNsKeys ++ setBankStKeys ++ [Key.w 0x04 0xC, .of R.CLP_CNT_REFIRE, .p .held]) s t)

/-- The frame of each event recorder command: outside the keys named,
every register field and every part of the state is as before. -/
def Obligations.EventRecorderCommandsFrame : Prop :=
  (∀ (s t : State), exec .eventDescriptor s = .next t →
    Out (closeRecKeys ++ [Key.of R.PBL_EVT_OVERFLOW, .of R.PBL_CNT_LOST, .of V.pbDrop, .of V.pbSeq, .of V.pbLostF,
    .p .inbox]) s t) ∧
  (∀ (s t : State), exec .recordCloseTimer s = .next t → Out closeRecKeys s t) ∧
  (∀ (ok : Bool) (s t : State), exec (.ringProgramDone ok) s = .next t →
    Out (closeRecKeys ++ [Key.of R.WDB_CNT_PROGFAIL, .of R.WDB_CNT_ERASEFAIL, .of R.WDB_CNT_SUSPHIT, .of V.pbSlot,
    .of V.pbErase, .of V.pbTry, .of V.pbWrapF, .p .free, .p .inbox, .p .flash, .p .fread, .p .ring,
    .p .ringBad]) s t) ∧
  (∀ (ok : Bool) (s t : State), exec (.ringBlockEraseDone ok) s = .next t →
    Out (pumpKeys ++ [Key.of R.WDB_CNT_PROGFAIL, .of R.WDB_CNT_ERASEFAIL, .of R.PBL_STAT_OPEN, .of R.PBL_NEWEST_SEQ,
    .of R.PBL_OLDEST_SEQ, .of R.PBL_HELD_COUNT, .each V.wdbErased, .each V.wdbSusps, .of V.pbSlot, .of V.pbErase,
    .of V.pbTry, .of V.pbClr, .of V.pbClrBlk, .of V.pbWrapF, .p .flash, .p .ring, .p .ringBad]) s t) ∧
  (∀ (ok : Bool) (s t : State), exec (.clearEraseDone ok) s = .next t →
    Out (pumpKeys ++ [Key.of R.WDB_CNT_PROGFAIL, .of R.WDB_CNT_ERASEFAIL, .of R.PBL_STAT_OPEN, .of R.PBL_NEWEST_SEQ,
    .of R.PBL_OLDEST_SEQ, .of R.PBL_HELD_COUNT, .each V.wdbErased, .each V.wdbSusps, .of V.pbSlot, .of V.pbErase,
    .of V.pbTry, .of V.pbClr, .of V.pbClrBlk, .of V.pbWrapF, .p .flash, .p .ring, .p .ringBad]) s t)

/-- The frame of each power state and thermal command: outside the keys named,
every register field and every part of the state is as before. -/
def Obligations.PowerStateThermalCommandsFrame : Prop :=
  (∀ (s t : State), exec .signalDetectWake s = .next t → Out (ssCsWakeKeys ++ trzBrKeys) s t) ∧
  (∀ (s t : State), exec .opsecTick s = .next t →
    Out ([Key.of R.CVN_STAT_PS, .of R.CVN_OPSEC_SECONDS, .p .inbox]) s t) ∧
  (∀ (s t : State), exec .idleTimer s = .next t →
    Out (applySpKeys ++ followKeys ++ [Key.of V.crlSpNext, .of R.CVN_BUD_PRES_PRES_US]) s t) ∧
  (∀ (long : Bool) (s t : State), exec (.wakeHoldExpiry long) s = .next t →
    Out (applySpKeys ++ followKeys ++ [Key.of V.crlSpNext, .of R.CVN_BUD_PRES_PRES_US, .of V.wakeHold]) s t) ∧
  (∀ (s t : State), exec .psEntryStep s = .next t →
    Out (applySpKeys ++ transportFailureKeys ++ followKeys ++ [Key.of R.FAB_STAT_LINK, .of R.TKB_STAT_HOST_MB,
    .each R.TKB_MB_OUTST, .each R.CLP_SRC_AGENT, .each R.CLP_PEND_LO_PEND, .each R.CLP_PEND_HI_PEND,
    .each R.CLP_ACT_LO_ACT, .each R.CLP_ACT_HI_ACT, .each V.clpAgLo, .each V.clpAgHi, .of R.PKT_CTL_EN,
    .of V.crlSpNext, .of R.CVN_BUD_EFF_EFF_US, .of R.CVN_BUD_PRES_PRES_US, .of V.pwrSeq, .of V.fwUp, .p .visit,
    .p .errlog, .p .reqs, .p .nonces]) s t) ∧
  (∀ (s t : State), exec .ssCsWake s = .next t → Out (ssCsWakeKeys ++ trzBrKeys) s t) ∧
  (∀ (s t : State), exec .sidebandWake s = .next t → Out (ssCsWakeKeys ++ trzBrKeys) s t) ∧
  (∀ (sensor : Fin 5) (raw : BitVec 16) (s t : State), exec (.sensorSample sensor raw) s = .next t →
    Out (onNsKeys ++ endWriteKeys ++ alignEndKeys ++ stmRetractKeys ++ [Key.of R.CMD_STAT_CTRLS, .of V.crlWantCatch,
    .each V.stmLoadGrant, .of V.stmMode, .of R.PSL_STAT_LEVEL, .of R.PSL_EVT_WARN, .each R.PSL_TEMP_RAW,
    .of R.PSL_CNT_THROT, .of R.PSL_CNT_SUSPECT, .of R.PSL_CNT_SHUT, .each V.pslAtThrot, .of V.pslOffSec,
    .of V.pslSensor, .each V.pslThr, .each V.pslDis, .each V.pslThrOn, .of V.psStep, .of V.pslOff, .of V.wakePend,
    .of V.stopWire, .p .jact, .p .ctrls]) s t) ∧
  (∀ (s t : State), exec .thermalRestart s = .next t → Out (ssCsWakeKeys ++ trzBrKeys) s t) ∧
  (∀ (die : Fin 4) (s t : State), exec (.throttleStepUp die) s = .next t →
    Out (pumpKeys ++ [Key.of V.fabPause, .each R.CMD_JQ_DEPTH, .of V.hbmSw, .of V.hbmSwPsl, .of R.WDB_CTL_AUTO_SUSP,
    .of R.PSL_STAT_LEVEL, .of R.PSL_EVT_WARN, .of R.PSL_EXT_SPN_LIM, .of R.PSL_CNT_THROT, .of R.PBL_STAT_OPEN,
    .of R.PBL_NEWEST_SEQ, .of R.PBL_OLDEST_SEQ, .of R.PBL_HELD_COUNT, .each V.wdbSusps]) s t) ∧
  (∀ (die : Fin 4) (s t : State), exec (.throttleStepDown die) s = .next t →
    Out (pumpKeys ++ [Key.of V.fabPause, .each R.CMD_JQ_DEPTH, .of V.hbmSw, .of V.hbmSwPsl, .of R.WDB_CTL_AUTO_SUSP,
    .of R.PSL_STAT_LEVEL, .of R.PSL_EVT_WARN, .of R.PSL_EXT_SPN_LIM, .of R.PSL_CNT_THROT, .each V.pslThrOn,
    .of R.PBL_STAT_OPEN, .of R.PBL_NEWEST_SEQ, .of R.PBL_OLDEST_SEQ, .of R.PBL_HELD_COUNT, .each V.wdbSusps]) s t) ∧
  (∀ (s t : State), exec .throttleAlternate s = .next t → Out ([Key.each R.CMD_JQ_DEPTH, .of V.thSet]) s t) ∧
  (∀ (s t : State), exec .fabricPauseWindow s = .next t → Out ([Key.of V.fabPause]) s t)

/-- The frame of each reset and start command: outside the keys named,
every register field and every part of the state is as before. -/
def Obligations.ResetStartCommandsFrame : Prop :=
  (∀ (s t : State), exec .powerOnReset s = .next t → Out (ssCsWakeKeys ++ trzBrKeys ++ [Key.p .popen, .p .pbuf]) s t) ∧
  (∀ (s t : State), exec .vin5Loss s = .next t → Out (ssCsWakeKeys ++ trzBrKeys ++ [Key.p .popen, .p .pbuf]) s t) ∧
  (∀ (s t : State), exec .railLossReset s = .next t → Out (ssCsWakeKeys ++ trzBrKeys) s t) ∧
  (∀ (s t : State), exec .firmwareReset s = .next t →
    Out (ssCsWakeKeys ++ trzBrKeys ++ [Key.p .jobNo, .p .opt, .p .blks, .p .lost]) s t) ∧
  (∀ (s t : State), exec .ringmasterRestart s = .next t →
    Out (ssCsWakeKeys ++ trzBrKeys ++ [Key.p .opt, .p .blks]) s t) ∧
  (∀ (n : BitVec 32) (s t : State), exec (.xtalFail n) s = .next t →
    Out ([Key.of R.CVN_STAT_PS, .of R.CVN_EVT_PS_CHG, .of V.cvnRc, .p .edges, .p .inbox]) s t) ∧
  (∀ (s t : State), exec .xtalRecover s = .next t → Out ([Key.of V.cvnRc]) s t) ∧
  (∀ (s t : State), exec .shortTimerEnd s = .next t →
    Out (ssCsWakeKeys ++ trzBrKeys ++ [Key.p .jobNo, .p .opt, .p .blks, .p .lost]) s t) ∧
  (∀ (s t : State), exec .shortQuietEnd s = .next t →
    Out (ssCsWakeKeys ++ trzBrKeys ++ [Key.p .jobNo, .p .opt, .p .blks, .p .lost]) s t) ∧
  (∀ (s t : State), exec .stage2 s = .next t → Out (ssCsWakeKeys ++ trzBrKeys ++ [Key.p .opt, .p .blks]) s t) ∧
  (∀ (s t : State), exec .spinPermission s = .next t → Out spinDelayEndKeys s t) ∧
  (∀ (level : Bool) (s t : State), exec (.spinHoldNChange level) s = .next t →
    Out (spinDelayEndKeys ++ [Key.of V.spinLow]) s t) ∧
  (∀ (s t : State), exec .spinBackoffEnd s = .next t → Out spinDelayEndKeys s t) ∧
  (∀ (s t : State), exec .spinDelayEnd s = .next t → Out spinDelayEndKeys s t) ∧
  (∀ (s t : State), exec .sagWaitEnd s = .next t →
    Out (applySpKeys ++ spinDelayEndKeys ++ [Key.of R.CRL_CTL_EN, .of V.crlSpNext, .of V.sagWait]) s t) ∧
  (∀ (sysBad : List Act) (keyBad journalBad : List (BitVec 32)) (trialOk : Bool) (s t : State),
    exec (.ioReady sysBad keyBad journalBad trialOk) s = .next t →
    Out (ssCsWakeKeys ++ trzBrKeys ++ opFailKeys ++ [Key.p .opt]) s t) ∧
  (∀ (s t : State), exec .startLate s = .next t →
    Out (ssCsWakeKeys ++ trzBrKeys ++ [Key.p .jobNo, .p .opt, .p .blks, .p .lost]) s t) ∧
  (∀ (s t : State), exec .pwrEnStep s = .next t → Out (ssCsWakeKeys ++ trzBrKeys ++ [Key.p .opt, .p .blks]) s t)

/-- The frame of each register access command: outside the keys named,
every register field and every part of the state is as before. -/
def Obligations.RegisterAccessCommandsFrame : Prop :=
  (∀ (a : Act) (paId paCap : BitVec 16) (loads : List (List Nat)) (flex : Nat) (s t : State),
    exec (.enumerationComplete a paId paCap loads flex) s = .next t →
    Out (lpMissKeys ++ registerWriteKeys ++ [Key.p .reqs, .p .loads, .p .works, .p .shadow]) s t) ∧
  (∀ (a : Act) (s t : State), exec (.headsOnRamp a) s = .next t →
    Out (lpMissKeys ++ registerWriteKeys ++ [Key.p .reqs, .p .works, .p .shadow]) s t) ∧
  (∀ (rq : ReqId) (s t : State), exec (.requestComplete rq) s = .next t →
    Out (lpMissKeys ++ registerWriteKeys ++ [Key.p .reqs, .p .rspNo, .p .works, .p .shadow]) s t) ∧
  (∀ (rq : ReqId) (w : World) (s t : State), exec (.enable rq w) s = .next t →
    Out (lpMissKeys ++ trzEnableCmdKeys ++ [Key.all, .p .free, .p .bstore, .p .fmt, .p .nss, .p .zones, .p .bands,
    .p .spn, .p .sup, .p .reqs, .p .members, .p .cands, .p .authFail, .p .proposal, .p .works, .p .altered,
    .p .weakSlots]) s t) ∧
  (∀ (rq : ReqId) (s t : State), exec (.enableState rq) s = .next t → Out ([Key.p .reqs]) s t) ∧
  (∀ (rq : ReqId) (s t : State), exec (.regRead rq) s = .next t → Out ([Key.p .reqs]) s t) ∧
  (∀ (rq : ReqId) (w : World) (s t : State), exec (.regWrite rq w) s = .next t →
    Out (lpMissKeys ++ registerWriteKeys ++ [Key.p .reqs, .p .works, .p .shadow]) s t) ∧
  (∀ (rq : ReqId) (s t : State), exec (.regReadBlock rq) s = .next t → Out ([Key.p .reqs]) s t) ∧
  (∀ (rq : ReqId) (w : World) (s t : State), exec (.regWriteBlock rq w) s = .next t →
    Out (lpMissKeys ++ registerWriteKeys ++ [Key.p .reqs, .p .works, .p .shadow]) s t) ∧
  (∀ (sender : Fin 64) (blk : Fin 256) (inst : Fin 40) (off : Fin 65536) (v : BitVec 32) (w : World) (s t : State),
    exec (.registerWrite sender blk inst off v w) s = .next t → Out (lpMissKeys ++ registerWriteKeys) s t) ∧
  (∀ (a : Act) (hw : List (List (BitVec 32))) (s t : State), exec (.shadowCommit a hw) s = .next t →
    Out (lpMissKeys ++ registerWriteKeys ++ [Key.p .reqs, .p .shadow]) s t)

/-- The frame of each Casgus request command: outside the keys named,
every register field and every part of the state is as before. -/
def Obligations.CasgusRequestCommandsFrame : Prop :=
  (∀ (rq : ReqId) (s t : State), exec (.identify rq) s = .next t → Out ([Key.p .reqs]) s t) ∧
  (∀ (rq : ReqId) (nonce : BitVec 256) (s t : State), exec (.getNonce rq nonce) s = .next t →
    Out ([Key.p .reqs, .p .nonces]) s t) ∧
  (∀ (rq : ReqId) (s t : State), exec (.inventory rq) s = .next t → Out ([Key.p .reqs]) s t) ∧
  (∀ (rq : ReqId) (s t : State), exec (.counters rq) s = .next t → Out ([Key.p .reqs]) s t) ∧
  (∀ (rq : ReqId) (s t : State), exec (.clearXtal rq) s = .next t → Out ([Key.of R.CVN_STAT_PS, .p .reqs]) s t) ∧
  (∀ (rq : ReqId) (s t : State), exec (.optionRead rq) s = .next t → Out ([Key.p .reqs]) s t) ∧
  (∀ (rq : ReqId) (ok1 ok2 : Bool) (s t : State), exec (.optionWrite rq ok1 ok2) s = .next t →
    Out (optWriteCopyKeys ++ [Key.of V.optValid, .of V.optCopy, .of V.optRepair, .p .win, .p .opt, .p .reqs]) s t) ∧
  (∀ (rq : ReqId) (ok1 ok2 : Bool) (s t : State), exec (.keyRegister rq ok1 ok2) s = .next t →
    Out (optWriteCopyKeys ++ [Key.of V.optValid, .of V.optCopy, .of V.optRepair, .p .win, .p .opt, .p .reqs]) s t) ∧
  (∀ (rq : ReqId) (s t : State), exec (.setBudget rq) s = .next t →
    Out (applySpKeys ++ followKeys ++ [Key.of V.crlSpNext, .of R.CVN_BUD_DEV_DEV_US, .of R.CVN_BUD_EFF_EFF_US,
    .of R.CVN_BUD_PRES_PRES_US, .p .nss, .p .reqs]) s t) ∧
  (∀ (rq : ReqId) (s t : State), exec (.getBudget rq) s = .next t → Out ([Key.p .reqs]) s t) ∧
  (∀ (rq : ReqId) (s t : State), exec (.spinSlot rq) s = .next t →
    Out (spinDelayEndKeys ++ [Key.of V.spinMode, .of V.imaxMa, .p .reqs]) s t) ∧
  (∀ (rq : ReqId) (s t : State), exec (.spinStatus rq) s = .next t → Out ([Key.p .reqs]) s t) ∧
  (∀ (rq : ReqId) (s t : State), exec (.thermalRead rq) s = .next t → Out ([Key.p .reqs]) s t) ∧
  (∀ (rq : ReqId) (s t : State), exec (.clearSuspect rq) s = .next t →
    Out ([Key.of R.PSL_STAT_LEVEL, .each V.pslDis, .p .reqs]) s t) ∧
  (∀ (rq : ReqId) (s t : State), exec (.trimRead rq) s = .next t → Out ([Key.p .reqs]) s t) ∧
  (∀ (rq : ReqId) (s t : State), exec (.trimWrite rq) s = .next t →
    Out ([Key.all, .p .edges, .p .reqs, .p .shadow]) s t) ∧
  (∀ (rq : ReqId) (s t : State), exec (.tableRead rq) s = .next t → Out ([Key.p .reqs]) s t) ∧
  (∀ (rq : ReqId) (s t : State), exec (.tableWrite rq) s = .next t →
    Out ([Key.each V.lrnCnt, .of V.cogRev, .each V.trzTblPend, .each V.trzTook, .p .win, .p .tstore, .p .cog,
    .p .reqs, .p .fitFrom]) s t) ∧
  (∀ (rq : ReqId) (ok : Bool) (s t : State), exec (.tailorSave rq ok) s = .next t →
    Out ([Key.of R.WDB_EVT_SUSP_HIT, .of R.WDB_CNT_PROGFAIL, .of R.WDB_CNT_ERASEFAIL, .each V.wdbErased,
    .of V.tlrGen, .of V.tlrCut, .p .edges, .p .inbox, .p .flash, .p .blks, .p .reqs, .p .tsave, .p .tregs]) s t) ∧
  (∀ (rq : ReqId) (s t : State), exec (.certRead rq) s = .next t → Out ([Key.p .reqs]) s t) ∧
  (∀ (rq : ReqId) (s t : State), exec (.ageingRead rq) s = .next t → Out ([Key.p .reqs]) s t) ∧
  (∀ (rq : ReqId) (s t : State), exec (.marginRead rq) s = .next t → Out ([Key.p .reqs]) s t) ∧
  (∀ (rq : ReqId) (s t : State), exec (.measureNow rq) s = .next t →
    Out ([Key.of R.TLR_STAT_TRACING, .p .reqs, .p .dues]) s t) ∧
  (∀ (rq : ReqId) (s t : State), exec (.pblRead rq) s = .next t → Out ([Key.p .reqs]) s t) ∧
  (∀ (rq : ReqId) (s t : State), exec (.pblStatus rq) s = .next t → Out ([Key.p .reqs]) s t) ∧
  (∀ (rq : ReqId) (ok : Bool) (s t : State), exec (.pblClear rq ok) s = .next t →
    Out (closeRecKeys ++ [Key.of R.WDB_CNT_PROGFAIL, .of R.WDB_CNT_ERASEFAIL, .of R.WDB_CNT_SUSPHIT,
    .of R.PBL_EVT_OVERFLOW, .of R.PBL_CNT_CLEAR, .of V.pbDrop, .each V.wdbErased, .of V.pbSeq, .of V.pbSlot,
    .of V.pbErase, .of V.pbTry, .of V.pbFloorV, .of V.pbFloor, .of V.pbClr, .of V.pbClrBlk, .of V.pbLostF,
    .of V.pbBadF, .of V.pbWrapF, .p .inbox, .p .flash, .p .fread, .p .ring, .p .ringBad, .p .reqs]) s t) ∧
  (∀ (rq : ReqId) (ok : Bool) (s t : State), exec (.fwDownload rq ok) s = .next t →
    Out (memPutKeys ++ pumpKeys ++ optWriteCopyKeys ++ [Key.each V.fwSlotSt, .of V.fwGot, .each V.fwVer,
    .of V.fwOpen, .of V.fwHold, .of V.fwLen, .p .fwPend, .p .fwErased, .p .reqs]) s t) ∧
  (∀ (rq : ReqId) (ok : Bool) (s t : State), exec (.fwCommit rq ok) s = .next t →
    Out (optWriteCopyKeys ++ [Key.of V.fwCause, .each V.fwVer, .of V.fwOpen, .of V.fwDone, .of V.fwRst,
    .p .reqs]) s t) ∧
  (∀ (rq : ReqId) (s t : State), exec (.fwStatus rq) s = .next t → Out ([Key.p .reqs]) s t) ∧
  (∀ (rq : ReqId) (s t : State), exec (.flashStatus rq) s = .next t → Out ([Key.p .reqs]) s t) ∧
  (∀ (rq : ReqId) (s t : State), exec (.placementSet rq) s = .next t → Out ([Key.of V.placeMask, .p .reqs]) s t) ∧
  (∀ (rq : ReqId) (s t : State), exec (.placementGet rq) s = .next t → Out ([Key.p .reqs]) s t) ∧
  (∀ (rq : ReqId) (s t : State), exec (.bandInfo rq) s = .next t → Out ([Key.p .reqs]) s t) ∧
  (∀ (rq : ReqId) (s t : State), exec (.poolInfo rq) s = .next t → Out ([Key.p .reqs]) s t) ∧
  (∀ (rq : ReqId) (s t : State), exec (.altQueue rq) s = .next t → Out ([Key.p .reqs]) s t) ∧
  (∀ (rq : ReqId) (s t : State), exec (.defaultsSet rq) s = .next t → Out ([Key.of V.svcDef, .p .reqs]) s t) ∧
  (∀ (rq : ReqId) (s t : State), exec (.defaultsGet rq) s = .next t → Out ([Key.p .reqs]) s t) ∧
  (∀ (rq : ReqId) (s t : State), exec (.groupSet rq) s = .next t → Out ([Key.p .reqs, .p .group]) s t) ∧
  (∀ (rq : ReqId) (s t : State), exec (.groupStatus rq) s = .next t → Out ([Key.p .reqs]) s t) ∧
  (∀ (rq : ReqId) (s t : State), exec (.peerHello rq) s = .next t →
    Out (showStripesKeys ++ [Key.of R.PWK_STAT_MEMBERS, .of R.PWK_EPOCH_EPOCH, .p .reqs, .p .members]) s t) ∧
  (∀ (rq : ReqId) (s t : State), exec (.adopt rq) s = .next t → Out ([Key.p .reqs, .p .peerAdopt]) s t) ∧
  (∀ (rq : ReqId) (s t : State), exec (.srcRoute rq) s = .next t →
    Out ([Key.each R.CLP_SRC_AGENT, .p .inbox, .p .reqs]) s t) ∧
  (∀ (rq : ReqId) (s t : State), exec (.srcRead rq) s = .next t → Out ([Key.p .reqs]) s t) ∧
  (∀ (rq : ReqId) (s t : State), exec (.doorbell rq) s = .next t →
    Out (onNsKeys ++ setBankStKeys ++ [Key.w 0x04 0xC, .of R.CLP_CNT_MERGE, .each R.CLP_SRC_AGENT, .p .reqs,
    .p .held]) s t) ∧
  (∀ (rq : ReqId) (s t : State), exec (.softSource rq) s = .next t →
    Out ([Key.of V.softSrc, .p .edges, .p .reqs]) s t) ∧
  (∀ (rq : ReqId) (s t : State), exec (.bankClaim rq) s = .next t → Out (setBankStKeys ++ [Key.p .reqs]) s t) ∧
  (∀ (rq : ReqId) (s t : State), exec (.bankDone rq) s = .next t →
    Out (onNsKeys ++ setBankStKeys ++ [Key.w 0x04 0xC, .of R.CLP_CNT_REFIRE, .p .reqs, .p .held]) s t)

/-- The frame of each Key Value, compute and peer group command: outside the keys named,
every register field and every part of the state is as before. -/
def Obligations.KeyValueComputePeerGroupCommandsFrame : Prop :=
  (∀ (id : CmdId) (nsid : BitVec 32) (s t : State), exec (.flush id nsid) s = .next t → Out listCmdKeys s t) ∧
  (∀ (id : CmdId) (nsid : BitVec 32) (key value : List Byte) (ifExists ifNew fua : Bool) (s t : State),
    exec (.store id nsid key value ifExists ifNew fua) s = .next t →
    Out (listCmdKeys ++ [Key.of R.PWK_STAT_MEMBERS, .of R.MMG_STAT_ACT_OK, .of R.WDB_STAT_BUSY,
    .of R.WDB_EVT_SUSP_HIT, .each R.WDB_BANK_OP, .each V.wdbProgs, .each V.wdbSusps, .p .ctrls, .p .wseq, .p .opid,
    .p .journal, .p .jseq, .p .blks, .p .fops, .p .fwait, .p .stripeNo]) s t) ∧
  (∀ (id : CmdId) (nsid : BitVec 32) (key : List Byte) (s t : State), exec (.retrieve id nsid key) s = .next t →
    Out (listCmdKeys ++ [Key.of R.PWK_CNT_DEGRD]) s t) ∧
  (∀ (id : CmdId) (nsid : BitVec 32) (key : List Byte) (s t : State), exec (.kvDelete id nsid key) s = .next t →
    Out (listCmdKeys ++ [Key.of R.MMG_STAT_ACT_OK, .of R.WDB_STAT_BUSY, .of R.WDB_EVT_SUSP_HIT, .each R.WDB_BANK_OP,
    .each V.wdbProgs, .each V.wdbSusps, .p .ctrls, .p .wseq, .p .opid, .p .journal, .p .jseq, .p .blks, .p .fops,
    .p .fwait]) s t) ∧
  (∀ (id : CmdId) (nsid : BitVec 32) (key : List Byte) (s t : State), exec (.exist id nsid key) s = .next t →
    Out listCmdKeys s t) ∧
  (∀ (id : CmdId) (nsid : BitVec 32) (first : List Byte) (s t : State), exec (.list id nsid first) s = .next t →
    Out listCmdKeys s t) ∧
  (∀ (id : CmdId) (nsid : BitVec 32) (slot ptype : BitVec 8) (image : List (BitVec 64)) (s t : State),
    exec (.loadProgram id nsid slot ptype image) s = .next t → Out (listCmdKeys ++ [Key.p .progs]) s t) ∧
  (∀ (id : CmdId) (nsid : BitVec 32) (slot : BitVec 8) (activate : Bool) (s t : State),
    exec (.programActivationManagement id nsid slot activate) s = .next t → Out (listCmdKeys ++ [Key.p .progs]) s t) ∧
  (∀ (id : CmdId) (nsid : BitVec 32) (slot rset : BitVec 8) (dw12 dw13 dw14 dw15 : BitVec 32) (s t : State),
    exec (.executeProgram id nsid slot rset dw12 dw13 dw14 dw15) s = .next t →
    Out (listCmdKeys ++ [Key.of R.TRU_CNT_ABORT, .p .progRuns]) s t) ∧
  (∀ (core : Fin 8) (s t : State), exec (.helperCopy core) s = .next t →
    Out (onNsKeys ++ [Key.of R.TRU_CNT_ABORT, .p .progRuns]) s t) ∧
  (∀ (core : Fin 8) (s t : State), exec (.helperZcomp core) s = .next t →
    Out (onNsKeys ++ [Key.of R.TRU_CNT_ABORT, .p .progRuns]) s t) ∧
  (∀ (core : Fin 8) (s t : State), exec (.helperZdecomp core) s = .next t →
    Out (onNsKeys ++ [Key.of R.TRU_CNT_ABORT, .p .progRuns]) s t) ∧
  (∀ (core : Fin 8) (s t : State), exec (.helperSha256 core) s = .next t →
    Out (onNsKeys ++ [Key.of R.TRU_CNT_ABORT, .p .progRuns]) s t) ∧
  (∀ (core : Fin 8) (s t : State), exec (.helperCrc32c core) s = .next t →
    Out (onNsKeys ++ [Key.of R.TRU_CNT_ABORT, .p .progRuns]) s t) ∧
  (∀ (core : Fin 8) (s t : State), exec (.helperOpsec core) s = .next t →
    Out (onNsKeys ++ [Key.of R.TRU_CNT_ABORT, .p .progRuns]) s t) ∧
  (∀ (id : CmdId) (nsid : BitVec 32) (create : Bool) (rset : BitVec 16) (ranges : List (BitVec 64 × BitVec 64)) (s t : State),
    exec (.memoryRangeSetManagement id nsid create rset ranges) s = .next t → Out (listCmdKeys ++ [Key.p .rsets]) s t) ∧
  (∀ (id : CmdId) (nsid : BitVec 32) (dst : BitVec 64) (srcs : List CopySrc) (s t : State),
    exec (.memoryCopy id nsid dst srcs) s = .next t → Out listCmdKeys s t) ∧
  (∀ (id : CmdId) (nsid : BitVec 32) (off : BitVec 64) (len : BitVec 32) (s t : State),
    exec (.memoryRead id nsid off len) s = .next t → Out listCmdKeys s t) ∧
  (∀ (id : CmdId) (nsid : BitVec 32) (off : BitVec 64) (data : List Byte) (s t : State),
    exec (.memoryWrite id nsid off data) s = .next t → Out listCmdKeys s t) ∧
  (∀ (defaultsOk : Bool) (s t : State), exec (.truEnable defaultsOk) s = .next t →
    Out ([Key.of R.TRU_CTL_EN, .of R.TRU_CHK_REASON]) s t) ∧
  (∀ (s t : State), exec .pwkAct s = .next t →
    Out (showStripesKeys ++ [Key.of R.PWK_CTL_ACT, .of R.PWK_CHK_REASON, .of R.PWK_STAT_MEMBERS,
    .of R.PWK_EPOCH_EPOCH, .of R.CLOAK_STAT_KEYS, .each R.MMG_POOL_FREE, .each R.MMG_HELD_HELD, .p .free, .p .nss,
    .p .zones, .p .bands, .p .members]) s t) ∧
  (∀ (log : List Found) (s t : State), exec (.discoveryPoll log) s = .next t →
    Out (showStripesKeys ++ [Key.of R.RMC_STAT_STEP, .each R.RMC_T_MS, .of R.PWK_STAT_MEMBERS,
    .of R.PWK_EPOCH_EPOCH, .p .members, .p .cands, .p .authFail]) s t) ∧
  (∀ (log : List Found) (s t : State), exec (.discoveryLogPageChange log) s = .next t →
    Out (showStripesKeys ++ [Key.of R.PWK_STAT_MEMBERS, .of R.PWK_EPOCH_EPOCH, .p .members, .p .cands,
    .p .authFail]) s t) ∧
  (∀ (x : Found) (s t : State), exec (.candidateAuthRetry x) s = .next t →
    Out (showStripesKeys ++ [Key.of R.PWK_STAT_MEMBERS, .of R.PWK_EPOCH_EPOCH, .p .members, .p .cands,
    .p .authFail]) s t) ∧
  (∀ (sn : List Byte) (s t : State), exec (.peerTimeout sn) s = .next t →
    Out (showStripesKeys ++ [Key.of R.PWK_STAT_MEMBERS, .of R.PWK_EPOCH_EPOCH, .p .members, .p .cands]) s t) ∧
  (∀ (s t : State), exec .epochPropose s = .next t →
    Out (showStripesKeys ++ [Key.of R.PWK_STAT_MEMBERS, .of R.PWK_EPOCH_EPOCH, .of V.pwkAcked, .p .proposal]) s t) ∧
  (∀ (e : BitVec 32) (ms : List (List Byte)) (s t : State), exec (.proposalReceive e ms) s = .next t →
    Out (showStripesKeys ++ [Key.of R.PWK_STAT_MEMBERS, .of R.PWK_EPOCH_EPOCH, .of V.pwkAcked, .p .proposal]) s t) ∧
  (∀ (e : BitVec 32) (sn : List Byte) (s t : State), exec (.proposalAckReceive e sn) s = .next t →
    Out (onNsKeys ++ [Key.of (V.kvBound 0), .of R.PWK_STAT_MEMBERS, .of R.PWK_EPOCH_EPOCH, .of R.PWK_CNT_EPOCH,
    .of V.rbCount, .of V.rbStart, .of V.pwkEpoch, .p .kvDur, .p .members, .p .cands, .p .proposal]) s t) ∧
  (∀ (e : BitVec 32) (s t : State), exec (.epochCommitReceive e) s = .next t →
    Out (onNsKeys ++ [Key.of (V.kvBound 0), .of R.PWK_STAT_MEMBERS, .of R.PWK_EPOCH_EPOCH, .of R.PWK_CNT_EPOCH,
    .of V.rbCount, .of V.rbStart, .of V.pwkEpoch, .p .kvDur, .p .members, .p .cands, .p .proposal]) s t) ∧
  (∀ (s t : State), exec .proposalVoid s = .next t →
    Out (showStripesKeys ++ [Key.of R.PWK_STAT_MEMBERS, .of R.PWK_EPOCH_EPOCH, .p .proposal]) s t) ∧
  (∀ (s t : State), exec .epochRepropose s = .next t →
    Out (showStripesKeys ++ [Key.of R.PWK_STAT_MEMBERS, .of R.PWK_EPOCH_EPOCH, .of V.pwkAcked, .p .proposal]) s t) ∧
  (∀ (no : Nat) (frag : Fin 32) (ok : Bool) (s t : State), exec (.fragmentStoreAck no frag ok) s = .next t →
    Out (onNsKeys ++ [Key.of (V.kvBound 0), .p .kvDur]) s t) ∧
  (∀ (no : Nat) (frag : Fin 32) (bad mismatch : Bool) (s t : State),
    exec (.fragmentTimeout no frag bad mismatch) s = .next t →
    Out (opFailKeys ++ [Key.of R.PWK_CNT_DEGRD, .of (R.CHN_STAT_ACTIVE 0), .p .rung6]) s t) ∧
  (∀ (ok : Bool) (s t : State), exec (.rebuildFragment ok) s = .next t →
    Out (memPutKeys ++ showStripesKeys ++ [Key.each R.CMD_JQ_DEPTH, .of R.TRU_STAT_PROG_RUN, .of R.TRU_EVT_ABORT,
    .of R.PWK_CNT_REBUILD, .of V.rbCount, .each R.MMG_POOL_FREE, .each R.MMG_HELD_HELD, .p .free, .p .jq, .p .jobNo,
    .p .nss, .p .bands, .p .vol, .p .lost, .p .kvLog, .p .stripes]) s t) ∧
  (∀ (k : Fin 2) (adr : BitVec 35) (cls : Fin 16) (blocks : List (Nat × Nat)) (a : Act) (entry : Nat × List Byte × Nat) (s t : State),
    exec (.hbmUncorrectable k adr cls blocks a entry) s = .next t →
    Out (memPutKeys ++ refreshActKeys ++ [Key.of R.TRU_EVT_ABORT, .of R.TRU_CNT_ICRC, .of (R.HBM_EVT_CE 0),
    .of (R.HBM_UE_ADDR_BLOCK 0), .of (R.HBM_CNT_UE 0), .of (V.mapReload 0), .p .vol, .p .lost, .p .kvLog,
    .p .kvDur]) s t)

/-- The frame of each host command command: outside the keys named,
every register field and every part of the state is as before. -/
def Obligations.HostCommandCommandsFrame : Prop :=
  (∀ (a : Act) (copy : Fin 3) (s t : State), exec (.durablePointStands a copy) s = .next t →
    Out (applySpKeys ++ followKeys ++ emptyNsKeys ++ [Key.of (V.kvBound 0), .of R.CLOAK_STAT_KEYS,
    .of R.MMG_CNT_OFFLINE, .of R.MMG_CNT_DURABLE, .of V.crlSpNext, .of R.CVN_BUD_EFF_EFF_US,
    .of R.CVN_BUD_PRES_PRES_US, .each V.sysPos, .p .media, .p .sysrec, .p .test, .p .testLog]) s t) ∧
  (∀ (cid qid cntlid : BitVec 16) (entries : Nat) (noFlow : Bool) (kato : BitVec 32) (hostId : BitVec 128) (hostNqn : List Byte) (member : Bool) (conn : ConnData) (s t : State),
    exec (.connect cid qid cntlid entries noFlow kato hostId hostNqn member conn) s = .next t →
    Out ([Key.of R.CMD_STAT_CTRLS, .p .cqs, .p .ctrls, .p .visit, .p .nss]) s t) ∧
  (∀ (c : BitVec 16) (s t : State), exec (.disconnect c) s = .next t →
    Out (applySpKeys ++ transportFailureKeys ++ followKeys ++ [Key.of R.TKB_STAT_HOST_MB, .each R.TKB_MB_OUTST,
    .each R.CLP_SRC_AGENT, .each R.CLP_PEND_LO_PEND, .each R.CLP_PEND_HI_PEND, .each R.CLP_ACT_LO_ACT,
    .each R.CLP_ACT_HI_ACT, .each V.clpAgLo, .each V.clpAgHi, .of V.crlSpNext, .of R.CVN_BUD_EFF_EFF_US,
    .of R.CVN_BUD_PRES_PRES_US, .p .visit, .p .errlog, .p .reqs, .p .nonces]) s t) ∧
  (∀ (c : BitVec 16) (s t : State), exec (.controllerReset c) s = .next t →
    Out (applySpKeys ++ transportFailureKeys ++ followKeys ++ [Key.of R.TKB_STAT_HOST_MB, .each R.TKB_MB_OUTST,
    .each R.CLP_SRC_AGENT, .each R.CLP_PEND_LO_PEND, .each R.CLP_PEND_HI_PEND, .each R.CLP_ACT_LO_ACT,
    .each R.CLP_ACT_HI_ACT, .each V.clpAgLo, .each V.clpAgHi, .of V.crlSpNext, .of R.CVN_BUD_EFF_EFF_US,
    .of R.CVN_BUD_PRES_PRES_US, .p .visit, .p .test, .p .testLog, .p .errlog, .p .reqs, .p .nonces]) s t) ∧
  (∀ (c : BitVec 16) (s t : State), exec (.katoExpiry c) s = .next t →
    Out (applySpKeys ++ transportFailureKeys ++ followKeys ++ [Key.of R.CMD_EVT_TS_FULL, .of R.CMD_CNT_KATO,
    .of R.TKB_STAT_HOST_MB, .each R.TKB_MB_OUTST, .each R.CLP_SRC_AGENT, .each R.CLP_PEND_LO_PEND,
    .each R.CLP_PEND_HI_PEND, .each R.CLP_ACT_LO_ACT, .each R.CLP_ACT_HI_ACT, .each V.clpAgLo, .each V.clpAgHi,
    .of V.crlSpNext, .of R.CVN_BUD_EFF_EFF_US, .of R.CVN_BUD_PRES_PRES_US, .p .visit, .p .errlog, .p .reqs,
    .p .nonces]) s t) ∧
  (∀ (id : CmdId) (cns csi : BitVec 8) (nsid : BitVec 32) (s t : State),
    exec (.nvmeIdentify id cns csi nsid) s = .next t → Out listCmdKeys s t) ∧
  (∀ (id : CmdId) (lid : BitVec 8) (nsid : BitVec 32) (s t : State), exec (.getLogPage id lid nsid) s = .next t →
    Out (listCmdKeys ++ [Key.p .ctrls]) s t) ∧
  (∀ (id : CmdId) (fid : BitVec 8) (nsid dw11 : BitVec 32) (s t : State),
    exec (.getFeatures id fid nsid dw11) s = .next t → Out listCmdKeys s t) ∧
  (∀ (id : CmdId) (ab : BitVec 3) (s t : State), exec (.arbitration id ab) s = .next t → Out listCmdKeys s t) ∧
  (∀ (id : CmdId) (ps : BitVec 5) (s t : State), exec (.powerManagement id ps) s = .next t →
    Out (listCmdKeys ++ [Key.of R.CVN_BUD_DEV_DEV_US, .of R.CVN_BUD_EFF_EFF_US]) s t) ∧
  (∀ (id : CmdId) (tmpsel : BitVec 4) (under : Bool) (kelvin : BitVec 16) (s t : State),
    exec (.temperatureThreshold id tmpsel under kelvin) s = .next t → Out (listCmdKeys ++ [Key.p .ctrls]) s t) ∧
  (∀ (id : CmdId) (wce : Bool) (s t : State), exec (.volatileWriteCache id wce) s = .next t →
    Out (listCmdKeys ++ [Key.of V.vwcOff]) s t) ∧
  (∀ (id : CmdId) (nsq ncq : BitVec 16) (s t : State), exec (.numberOfQueues id nsq ncq) s = .next t →
    Out (listCmdKeys ++ [Key.p .ctrls]) s t) ∧
  (∀ (id : CmdId) (v : BitVec 32) (s t : State), exec (.asynchronousEventConfiguration id v) s = .next t →
    Out (listCmdKeys ++ [Key.p .ctrls]) s t) ∧
  (∀ (id : CmdId) (kato : BitVec 32) (s t : State), exec (.keepAliveTimer id kato) s = .next t →
    Out (listCmdKeys ++ [Key.p .ctrls]) s t) ∧
  (∀ (id : CmdId) (exhid : Bool) (v : BitVec 128) (s t : State), exec (.hostIdentifier id exhid v) s = .next t →
    Out (listCmdKeys ++ [Key.p .ctrls]) s t) ∧
  (∀ (id : CmdId) (nsid us : BitVec 32) (s t : State), exec (.latencyBudget id nsid us) s = .next t →
    Out (listCmdKeys ++ [Key.of R.CVN_BUD_DEV_DEV_US, .of R.CVN_BUD_EFF_EFF_US]) s t) ∧
  (∀ (id : CmdId) (sqid cid : BitVec 16) (inQueue : Bool) (s t : State),
    exec (.abort id sqid cid inQueue) s = .next t → Out (listCmdKeys ++ [Key.of R.CMD_CNT_ABORT]) s t) ∧
  (∀ (id : CmdId) (s t : State), exec (.asynchronousEventRequest id) s = .next t →
    Out (listCmdKeys ++ [Key.p .ctrls]) s t) ∧
  (∀ (id : CmdId) (csi : BitVec 8) (nsze ncap : BitVec 64) (lbaf pi : BitVec 8) (s t : State),
    exec (.namespaceCreate id csi nsze ncap lbaf pi) s = .next t →
    Out (listCmdKeys ++ [Key.of R.CLOAK_STAT_KEYS]) s t) ∧
  (∀ (id : CmdId) (nsid : BitVec 32) (s t : State), exec (.namespaceDelete id nsid) s = .next t → Out listCmdKeys s t) ∧
  (∀ (id : CmdId) (nsid : BitVec 32) (attach : Bool) (ctrls : List (BitVec 16)) (s t : State),
    exec (.namespaceAttachment id nsid attach ctrls) s = .next t →
    Out (listCmdKeys ++ [Key.of R.CVN_BUD_EFF_EFF_US, .p .ctrls]) s t) ∧
  (∀ (id : CmdId) (ofs : BitVec 32) (data : List Byte) (ok : Bool) (s t : State),
    exec (.firmwareImageDownload id ofs data ok) s = .next t →
    Out (listCmdKeys ++ pumpKeys ++ [Key.of R.WDB_CNT_PROGFAIL, .of R.WDB_CNT_ERASEFAIL, .each V.fwSlotSt,
    .of V.fwGot, .each V.wdbErased, .each V.fwVer, .of V.fwOpen, .of V.fwHold, .of V.fwLen, .p .flash, .p .fwPend,
    .p .fwErased]) s t) ∧
  (∀ (id : CmdId) (action slot : BitVec 3) (ok : Bool) (s t : State),
    exec (.firmwareCommit id action slot ok) s = .next t →
    Out (listCmdKeys ++ optWriteCopyKeys ++ [Key.of V.fwCause, .each V.fwVer, .of V.fwOpen, .of V.fwDone,
    .of V.fwRst]) s t) ∧
  (∀ (id : CmdId) (ext : Bool) (nsid : BitVec 32) (s t : State), exec (.deviceSelfTest id ext nsid) s = .next t →
    Out (listCmdKeys ++ [Key.p .test]) s t) ∧
  (∀ (id : CmdId) (s t : State), exec (.selfTestAbort id) s = .next t →
    Out (listCmdKeys ++ [Key.p .test, .p .testLog]) s t) ∧
  (∀ (ok : Bool) (nsid : BitVec 32) (lba : BitVec 64) (s t : State), exec (.selfTestSegment ok nsid lba) s = .next t →
    Out ([Key.of R.PKT_DIRTY_DIRTY, .p .test, .p .testLog, .p .pkt, .p .hbm, .p .poison]) s t) ∧
  (∀ (id : CmdId) (s t : State), exec (.keepAlive id) s = .next t → Out listCmdKeys s t) ∧
  (∀ (id : CmdId) (nsid : BitVec 32) (lbaf pi ses : BitVec 4) (s t : State),
    exec (.formatNvm id nsid lbaf pi ses) s = .next t →
    Out (listCmdKeys ++ emptyNsKeys ++ [Key.w 0x08 0xC, .of R.CLOAK_CNT_ERASE, .of R.MMG_CNT_OFFLINE,
    .each V.sysPos, .p .media, .p .test, .p .testLog]) s t) ∧
  (∀ (id : CmdId) (s t : State), exec (.sanitizeCryptoErase id) s = .next t →
    Out (listCmdKeys ++ emptyNsKeys ++ [Key.w 0x08 0xC, .of R.CLOAK_CNT_ERASE, .of R.MMG_CNT_OFFLINE,
    .of V.sanState, .p .test, .p .testLog]) s t) ∧
  (∀ (id : CmdId) (s t : State), exec (.sanitizeBlockErase id) s = .next t →
    Out (listCmdKeys ++ emptyNsKeys ++ [Key.w 0x08 0xC, .of R.CLOAK_CNT_ERASE, .of V.sanState, .each V.sysPos,
    .p .media, .p .test, .p .testLog, .p .progs, .p .progRuns]) s t) ∧
  (∀ (id : CmdId) (s t : State), exec (.unsupportedOpcode id) s = .next t → Out listCmdKeys s t) ∧
  (∀ (id : CmdId) (nsid : BitVec 32) (lba : BitVec 64) (nlb : BitVec 16) (limited : Bool) (s t : State),
    exec (.read id nsid lba nlb limited) s = .next t → Out listCmdKeys s t) ∧
  (∀ (id : CmdId) (nsid : BitVec 32) (lba : BitVec 64) (data : List Block) (fua : Bool) (s t : State),
    exec (.write id nsid lba data fua) s = .next t → Out (listCmdKeys ++ [Key.p .wseq]) s t) ∧
  (∀ (id : CmdId) (nsid : BitVec 32) (lba : BitVec 64) (nlb : BitVec 16) (fua : Bool) (s t : State),
    exec (.writeZeroes id nsid lba nlb fua) s = .next t → Out (listCmdKeys ++ [Key.p .wseq]) s t) ∧
  (∀ (id : CmdId) (nsid : BitVec 32) (deallocate : Bool) (ranges : List (BitVec 64 × BitVec 32)) (s t : State),
    exec (.datasetManagement id nsid deallocate ranges) s = .next t → Out (listCmdKeys ++ [Key.p .wseq]) s t) ∧
  (∀ (id : CmdId) (nsid : BitVec 32) (lba : BitVec 64) (nlb : BitVec 16) (s t : State),
    exec (.verify id nsid lba nlb) s = .next t → Out listCmdKeys s t) ∧
  (∀ (id : CmdId) (nsid : BitVec 32) (zslba : BitVec 64) (data : List Block) (fua : Bool) (s t : State),
    exec (.zoneAppend id nsid zslba data fua) s = .next t → Out (listCmdKeys ++ [Key.p .wseq]) s t) ∧
  (∀ (id : CmdId) (nsid : BitVec 32) (slba : BitVec 64) (all : Bool) (s t : State),
    exec (.zoneReset id nsid slba all) s = .next t → Out listCmdKeys s t) ∧
  (∀ (id : CmdId) (nsid : BitVec 32) (slba : BitVec 64) (all : Bool) (s t : State),
    exec (.zoneFinish id nsid slba all) s = .next t → Out listCmdKeys s t) ∧
  (∀ (id : CmdId) (nsid : BitVec 32) (slba : BitVec 64) (all : Bool) (s t : State),
    exec (.zoneOpen id nsid slba all) s = .next t → Out listCmdKeys s t) ∧
  (∀ (id : CmdId) (nsid : BitVec 32) (slba : BitVec 64) (all : Bool) (s t : State),
    exec (.zoneClose id nsid slba all) s = .next t → Out listCmdKeys s t) ∧
  (∀ (id : CmdId) (nsid : BitVec 32) (slba : BitVec 64) (s t : State),
    exec (.setZoneDescriptorExtension id nsid slba) s = .next t → Out listCmdKeys s t) ∧
  (∀ (id : CmdId) (nsid : BitVec 32) (slba : BitVec 64) (ext : Bool) (s t : State),
    exec (.zoneManagementReceive id nsid slba ext) s = .next t → Out listCmdKeys s t) ∧
  (∀ (waiting : List Waiting) (full : Bool) (s t : State), exec (.intakeVisit waiting full) s = .next t →
    Out (applySpKeys ++ followKeys ++ [Key.of R.CMD_STAT_CTRLS, .of R.CMD_EVT_TS_FULL, .of R.CMD_TS_USED,
    .of R.CMD_INFL_USED, .of R.CMD_CNT_TSSTALL, .of R.CMD_CNT_PAUSE, .of V.mmgTsWarn, .of V.cmdInflWarn,
    .of V.crlSpNext, .of R.CVN_BUD_PRES_PRES_US, .p .cmds, .p .cmdNo, .p .visit, .p .zones]) s t) ∧
  (∀ (id : CmdId) (s t : State), exec (.turnstileRelease id) s = .next t → Out ([Key.p .cmds]) s t) ∧
  (∀ (a : Act) (w : BitVec 16) (s t : State), exec (.jugglerPick a w) s = .next t →
    Out ([Key.of R.CMD_EVT_TS_FULL, .each R.CMD_JQ_DEPTH, .of R.CMD_CNT_AGEPICK, .p .edges, .p .inbox, .p .jq,
    .p .jact]) s t) ∧
  (∀ (s t : State), exec .cmdEnable s = .next t → Out ([Key.of R.CMD_CTL_EN, .of R.CMD_CHK_REASON]) s t) ∧
  (∀ (v : Bool) (s t : State), exec (.fetchHold v) s = .next t →
    Out ([Key.of R.CMD_CTL_EN, .of R.CMD_STAT_CTRLS, .of R.CMD_EVT_TS_FULL, .of R.CMD_CNT_PAUSE, .of V.mmgTsWarn,
    .of V.cmdInflWarn, .p .edges, .p .inbox]) s t) ∧
  (∀ (s t : State), exec .hiwatClr s = .next t → Out ([Key.of R.CMD_TS_USED]) s t)
end

