-- ==== Sys2Proof/Laws/Tab.lean ====
section
/-!
SUPPORT. Laws of the sorted tables and of the fields kept in one: a read after a write, and the canonical form.
-/

namespace Sys2Proof.Machine

section
variable {κ β : Type} [DecidableEq κ] [DecidableEq β]

omit [DecidableEq β] in
theorem Tab.get_erase_same (d : κ → β) (m : List (κ × β)) (k : κ) : Tab.get d (Tab.erase m k) k = d k := by
  induction m with
  | nil => rfl
  | cons e m ih =>
    by_cases h : e.1 = k
    · simpa [Tab.erase, h] using ih
    · simpa [Tab.erase, h, Tab.get] using ih

omit [DecidableEq β] in
theorem Tab.get_erase_other (d : κ → β) (m : List (κ × β)) {k j : κ} (hj : j ≠ k) :
    Tab.get d (Tab.erase m k) j = Tab.get d m j := by
  induction m with
  | nil => rfl
  | cons e m ih =>
    by_cases h : e.1 = k
    · have : e.1 ≠ j := fun x => hj (x.symm.trans h)
      simpa [Tab.erase, h, Tab.get, this, hj.symm] using ih
    · have ih' : Tab.get d (List.filter (fun e => !decide (e.1 = k)) m) j = Tab.get d m j := by
        simpa [Tab.erase] using ih
      simp [Tab.erase, h, Tab.get, ih']

omit [DecidableEq β] in
theorem Tab.get_insert_same (b : κ → κ → Bool) (d : κ → β) (m : List (κ × β)) (k : κ) (v : β) :
    Tab.get d (Tab.insert b k v m) k = v := by
  induction m with
  | nil => simp [Tab.insert, Tab.get]
  | cons e m ih =>
    unfold Tab.insert
    split
    · simp [Tab.get]
    · split
      · simp [Tab.get]
      · rename_i h _
        simp [Tab.get, h, ih]

omit [DecidableEq β] in
theorem Tab.get_insert_other (b : κ → κ → Bool) (d : κ → β) (m : List (κ × β)) {k j : κ} (v : β) (hj : j ≠ k) :
    Tab.get d (Tab.insert b k v m) j = Tab.get d m j := by
  induction m with
  | nil => simp [Tab.insert, Tab.get, hj.symm]
  | cons e m ih =>
    unfold Tab.insert
    split
    · rename_i h
      simp [Tab.get, h, hj.symm]
    · split
      · simp [Tab.get, hj.symm]
      · simp [Tab.get, ih]

/-- A key that has been set reads what it was set to. -/
@[simp] theorem Tab.get_put_same (b : κ → κ → Bool) (d : κ → β) (m : List (κ × β)) (k : κ) (v : β) :
    Tab.get d (Tab.put b d m k v) k = v := by
  unfold Tab.put
  split
  · rename_i h
    rw [Tab.get_erase_same, h]
  · exact Tab.get_insert_same b d m k v

/-- Setting a key leaves every other key alone. -/
theorem Tab.get_put_other (b : κ → κ → Bool) (d : κ → β) (m : List (κ × β)) {k j : κ} (v : β) (hj : j ≠ k) :
    Tab.get d (Tab.put b d m k v) j = Tab.get d m j := by
  unfold Tab.put
  split
  · exact Tab.get_erase_other d m hj
  · exact Tab.get_insert_other b d m v hj

/-! ## The canonical form -/

omit [DecidableEq κ] in
theorem Tab.wf_cons (b : κ → κ → Bool) (d : κ → β) (e : κ × β) (m : List (κ × β)) :
    Tab.wf b d (e :: m) = true ↔ (∀ f ∈ m, b e.1 f.1 = true) ∧ e.2 ≠ d e.1 ∧ Tab.wf b d m = true := by
  simp [Tab.wf, and_assoc]

omit [DecidableEq κ] in
/-- A part of a table in canonical form is in canonical form. -/
theorem Tab.wf_filter (b : κ → κ → Bool) (d : κ → β) (p : κ × β → Bool) (m : List (κ × β)) (h : Tab.wf b d m = true) :
    Tab.wf b d (m.filter p) = true := by
  induction m with
  | nil => rfl
  | cons e m ih =>
    rw [Tab.wf_cons] at h
    by_cases hp : p e = true
    · rw [List.filter_cons_of_pos hp, Tab.wf_cons]
      exact ⟨fun f hf => h.1 f (List.mem_filter.mp hf).1, h.2.1, ih h.2.2⟩
    · rw [List.filter_cons_of_neg hp]
      exact ih h.2.2

omit [DecidableEq β] in
theorem Tab.mem_insert (b : κ → κ → Bool) (k : κ) (v : β) (m : List (κ × β)) {f : κ × β}
    (h : f ∈ Tab.insert b k v m) : f = (k, v) ∨ f ∈ m := by
  induction m with
  | nil => left; simpa [Tab.insert] using h
  | cons e m ih =>
    unfold Tab.insert at h
    split at h
    · rcases List.mem_cons.mp h with h | h
      · exact .inl h
      · exact .inr (List.mem_cons_of_mem _ h)
    · split at h
      · rcases List.mem_cons.mp h with h | h
        · exact .inl h
        · exact .inr h
      · rcases List.mem_cons.mp h with h | h
        · exact .inr (h ▸ List.mem_cons_self)
        · rcases ih h with h | h
          · exact .inl h
          · exact .inr (List.mem_cons_of_mem _ h)

theorem Tab.wf_insert (b : κ → κ → Bool) (d : κ → β) (trans : ∀ x y z, b x y = true → b y z = true → b x z = true)
    (total : ∀ x y, x ≠ y → b x y = false → b y x = true) (m : List (κ × β)) (k : κ) (v : β) (hv : v ≠ d k)
    (h : Tab.wf b d m = true) : Tab.wf b d (Tab.insert b k v m) = true := by
  induction m with
  | nil => simp [Tab.insert, Tab.wf, hv]
  | cons e m ih =>
    rw [Tab.wf_cons] at h
    unfold Tab.insert
    split
    · rename_i he
      rw [Tab.wf_cons]
      exact ⟨fun f hf => he ▸ h.1 f hf, hv, h.2.2⟩
    · split
      · rename_i he hb
        rw [Tab.wf_cons, Tab.wf_cons]
        refine ⟨fun f hf => ?_, hv, h⟩
        rcases List.mem_cons.mp hf with hf | hf
        · exact hf ▸ hb
        · exact trans _ _ _ hb (h.1 f hf)
      · rename_i he hb
        rw [Tab.wf_cons]
        refine ⟨fun f hf => ?_, h.2.1, ih h.2.2⟩
        rcases Tab.mem_insert b k v m hf with hf | hf
        · subst hf
          exact total _ _ (fun x => he x.symm) (by simpa using hb)
        · exact h.1 f hf

/-- Setting a key keeps the canonical form. -/
theorem Tab.wf_put (b : κ → κ → Bool) (d : κ → β) (trans : ∀ x y z, b x y = true → b y z = true → b x z = true)
    (total : ∀ x y, x ≠ y → b x y = false → b y x = true) (m : List (κ × β)) (k : κ) (v : β)
    (h : Tab.wf b d m = true) : Tab.wf b d (Tab.put b d m k v) = true := by
  unfold Tab.put
  split
  · exact Tab.wf_filter b d _ m h
  · rename_i hv
    exact Tab.wf_insert b d trans total m k v hv h

omit [DecidableEq κ] in
theorem Tab.wf_append (b : κ → κ → Bool) (d : κ → β) (m n : List (κ × β)) (hm : Tab.wf b d m = true)
    (hn : Tab.wf b d n = true) (hmn : ∀ e ∈ m, ∀ f ∈ n, b e.1 f.1 = true) : Tab.wf b d (m ++ n) = true := by
  induction m with
  | nil => simpa using hn
  | cons e m ih =>
    rw [Tab.wf_cons] at hm
    rw [List.cons_append, Tab.wf_cons]
    refine ⟨fun f hf => ?_, hm.2.1, ih hm.2.2 fun e' he' => hmn e' (List.mem_cons_of_mem _ he')⟩
    rcases List.mem_append.mp hf with hf | hf
    · exact hm.1 f hf
    · exact hmn e List.mem_cons_self f hf

end

/-! ## The two orders -/

theorem natBefore_trans (x y z : Nat) (h : natBefore x y = true) (g : natBefore y z = true) : natBefore x z = true := by
  simp only [natBefore, decide_eq_true_eq] at *
  omega

theorem natBefore_total (x y : Nat) (h : x ≠ y) (g : natBefore x y = false) : natBefore y x = true := by
  simp only [natBefore, decide_eq_true_eq, decide_eq_false_iff_not] at *
  omega

theorem Fld.before_trans (x y z : Fld) (h : Fld.before x y = true) (g : Fld.before y z = true) : Fld.before x z = true := by
  simp only [Fld.before, decide_eq_true_eq] at *
  omega

theorem Fld.before_total (x y : Fld) (h : x ≠ y) (g : Fld.before x y = false) : Fld.before y x = true := by
  obtain ⟨a, b, c, d, e, f⟩ := x
  obtain ⟨a', b', c', d', e', f'⟩ := y
  simp only [Fld.before, decide_eq_true_eq, decide_eq_false_iff_not, ne_eq, Fld.mk.injEq] at *
  omega

/-! ## Byte tables -/

theorem bytesOk_put (d : Byte) (m : List (Nat × Byte)) (k : Nat) (v : Byte) (h : bytesOk d m = true) :
    bytesOk d (Tab.put natBefore (fun _ => d) m k v) = true :=
  Tab.wf_put _ _ natBefore_trans natBefore_total m k v h

theorem bytesOk_putBytes (l : List Byte) : ∀ (m : List (Nat × Byte)) (k : Nat), bytesOk 0 m = true →
    bytesOk 0 (putBytes m k l) = true := by
  induction l with
  | nil => intro m k h; exact h
  | cons b bs ih => intro m k h; exact ih _ _ (bytesOk_put 0 m k b h)

theorem bytesOk_filter (d : Byte) (m : List (Nat × Byte)) (p : Nat × Byte → Bool) (h : bytesOk d m = true) :
    bytesOk d (m.filter p) = true := Tab.wf_filter _ _ p m h

/-! ## Reads and writes of fields -/

/-- A field reads what was written to it, cut to its width. -/
@[simp] theorem State.get_put_same (s : State) (k : Fld) (v : Nat) : (s.put k v).get k = v % 2 ^ k.w := by
  simp [State.get, State.put]

/-- Writing a field leaves every other field alone. -/
theorem State.get_put_other (s : State) {k j : Fld} (v : Nat) (h : j ≠ k) : (s.put k v).get j = s.get j := by
  simp only [State.get, State.put]
  exact Tab.get_put_other _ _ _ _ h

/-- One field read after another is written. -/
theorem State.get_put (s : State) (k j : Fld) (v : Nat) :
    (s.put k v).get j = if j = k then v % 2 ^ k.w else s.get j := by
  by_cases h : j = k
  · subst h; simp
  · simp [h, State.get_put_other s v h]

/-- At reset every field holds the value its register table gives. -/
@[simp] theorem State.get_reset (k : Fld) : State.reset.get k = k.rst := rfl

/-- Writing a field keeps the fields in canonical form. -/
theorem State.fieldsOk_put (s : State) (k : Fld) (v : Nat) (h : s.fieldsOk = true) : (s.put k v).fieldsOk = true := by
  simp only [State.fieldsOk, Bool.and_eq_true, List.all_eq_true, decide_eq_true_eq] at h ⊢
  refine ⟨Tab.wf_put _ _ Fld.before_trans Fld.before_total _ _ _ h.1, fun e he => ?_⟩
  simp only [State.put, Tab.put] at he
  split at he
  · exact h.2 e (List.mem_filter.mp he).1
  · rcases Tab.mem_insert _ _ _ _ he with he | he
    · subst he
      exact Nat.mod_lt _ (Nat.two_pow_pos _)
    · exact h.2 e he

/-- A part of the fields is in canonical form. -/
theorem State.fieldsOk_filter (s t : State) (p : Fld × Nat → Bool) (ht : t.flds = s.flds.filter p)
    (h : s.fieldsOk = true) : t.fieldsOk = true := by
  simp only [State.fieldsOk, Bool.and_eq_true, List.all_eq_true, decide_eq_true_eq, ht] at h ⊢
  exact ⟨Tab.wf_filter _ _ _ _ h.1, fun e he => h.2 e (List.mem_filter.mp he).1⟩

end Sys2Proof.Machine
end

