-- ==== Sys2Proof/Laws/Kept.lean ====
section
/-!
SUPPORT. What every operation of the machine keeps: the queue of waiting commands as it is, and the canonical form of the
state's memories and fields. One rule per shape of a definition.
-/

namespace Sys2Proof.Machine

set_option Elab.async false
set_option linter.unusedTactic false
set_option linter.unreachableTactic false
set_option linter.unusedVariables false

/-- `t` has the queue of `s`, and is in canonical form if `s` is. -/
def Kept (s t : State) : Prop := t.pending = s.pending ∧ (s.canon = true → t.canon = true)

theorem Kept.refl (s : State) : Kept s s := ⟨rfl, id⟩

theorem Kept.trans {s t u : State} (h : Kept s t) (g : Kept t u) : Kept s u :=
  ⟨g.1.trans h.1, fun x => g.2 (h.2 x)⟩

/-- An update that touches neither the queue nor a table of the canonical form. -/
theorem Kept.mk {s t : State}
    {x_free : Nat}
    {x_edges : List Nat}
    {x_inbox : List Desc}
    {x_chn : List (Nat × ReadOp)}
    {x_seqs : List (Nat × SeqRun)}
    {x_bstore : List (Nat × List BarkerWord)}
    {x_wd : List (Nat × List Int)}
    {x_media : List (Nat × Option MTrack)}
    {x_mcache : List (Nat × List CTrack)}
    {x_sysrec : List (Nat × Option DurRec)}
    {x_pa : List (Nat × Nat)}
    {x_jq : List (Nat × List Job)}
    {x_jact : List (Nat × Option Job)}
    {x_jobNo : Nat}
    {x_fmt : List (Nat × Byte)}
    {x_cmds : List Cmd}
    {x_cmdNo : Nat}
    {x_cqs : List Cqe}
    {x_ctrls : List (Nat × Option Ctrl)}
    {x_visit : List (Nat × Nat)}
    {x_nss : List (Nat × Option Ns)}
    {x_zones : List (Nat × Option Zone)}
    {x_bands : List (Nat × Option Band)}
    {x_vol : List (Nat × Option Vol)}
    {x_wseq : Nat}
    {x_points : List (Nat × List Nat)}
    {x_mops : List MOp}
    {x_opid : Nat}
    {x_journal : List JRec}
    {x_jseq : Nat}
    {x_demands : List Demand}
    {x_test : Option SelfTest}
    {x_testLog : List (List Nat)}
    {x_rung6 : List Job}
    {x_amps : List (Nat × List Nat)}
    {x_sams : List (Nat × List Nat)}
    {x_loops : List (Nat × Loop)}
    {x_tstk : List Nat}
    {x_tshd : List (Nat × Int)}
    {x_tshr : List (Nat × Int)}
    {x_tscrub : List Nat}
    {x_cstore : List TrzWord}
    {x_tmchk : List (Nat × Nat)}
    {x_cog : List (Nat × (Int × Nat))}
    {x_spn : List (Nat × Byte)}
    {x_sup : List (Nat × Byte)}
    {x_blks : List (Nat × BlkRec)}
    {x_fops : List (Nat × List FlashOp)}
    {x_fwait : List (Nat × List FlashReq)}
    {x_fread : List Byte}
    {x_fwPend : List Nat}
    {x_fwErased : List Nat}
    {x_popen : Option Rec}
    {x_pbuf : List Rec}
    {x_ring : List (Nat × Option Rec)}
    {x_ringBad : List (Nat × Nat)}
    {x_errlog : List Cqe}
    {x_rsets : List (Nat × List (Nat × Nat))}
    {x_reqs : List Req}
    {x_reqNo : Nat}
    {x_rspNo : Nat}
    {x_nonces : List Nonce}
    {x_held : List (Nat × (CmdId × Nat))}
    {x_miOut : List (Nat × List Byte)}
    {x_pkt : List (Nat × Option Line)}
    {x_poison : List Nat}
    {x_lost : List Nat}
    {x_kvLog : List KvOp}
    {x_kvDur : List (Nat × Option KvEnt)}
    {x_progs : List (Nat × Option Prog)}
    {x_progRuns : List (Nat × Option Run)}
    {x_group : List (Nat × Byte)}
    {x_members : List Peer}
    {x_cands : List Peer}
    {x_authFail : List (List Byte)}
    {x_proposal : Option Proposal}
    {x_stripes : List Stripe}
    {x_stripeNo : Nat}
    {x_addrs : List NetAddr}
    {x_partner : List (Nat × List Nat)}
    {x_peerAdopt : List (List Byte)}
    {x_loads : List (Nat × Nat)}
    {x_fwImg : List (Nat × Byte)}
    {x_tregs : List (Fld × Nat)}
    {x_tenc : Option Nat}
    {x_senseOffs : List (Nat × Nat)}
    {x_ages : List AgeRec}
    {x_dues : List (Nat × Nat)}
    {x_verifs : List (Nat × Nat)}
    {x_fitFrom : List (Nat × Nat)}
    {x_slopes : List (Nat × (Int × Int))}
    {x_asked : List (Nat × Nat)}
    {x_certs : List (List Byte)}
    {x_works : List Work}
    {x_altered : List (Nat × Nat)}
    {x_weakSlots : List Nat}
    {x_shadow : List Shadow}
    {x_miso : Option (List Byte)} :
    (Kept s (State.mk t.flds t.win x_free x_edges x_inbox x_chn x_seqs x_bstore x_wd x_media x_mcache x_sysrec x_pa
      x_jq x_jact x_jobNo t.opt x_fmt x_cmds x_cmdNo x_cqs x_ctrls x_visit x_nss x_zones x_bands x_vol t.dur x_wseq
      x_points x_mops x_opid x_journal x_jseq x_demands x_test x_testLog t.tstore x_rung6 x_amps x_sams x_loops x_tstk
      x_tshd x_tshr x_tscrub x_cstore x_tmchk x_cog x_spn x_sup t.flash x_blks x_fops x_fwait x_fread x_fwPend
      x_fwErased x_popen x_pbuf x_ring x_ringBad x_errlog x_rsets x_reqs x_reqNo x_rspNo x_nonces x_held x_miOut x_pkt
      t.hbm x_poison x_lost x_kvLog x_kvDur x_progs x_progRuns x_group x_members x_cands x_authFail x_proposal
      x_stripes x_stripeNo x_addrs x_partner x_peerAdopt x_loads x_fwImg t.tsave x_tregs x_tenc x_senseOffs x_ages
      x_dues x_verifs x_fitFrom x_slopes x_asked x_certs x_works x_altered x_weakSlots x_shadow x_miso t.pending)) ↔ Kept s t := ⟨fun h => ⟨h.1, h.2⟩, fun h => ⟨h.1, h.2⟩⟩

theorem Kept.ite {s t u : State} {p : Prop} [Decidable p] (h : Kept s t) (g : Kept s u) : Kept s (if p then t else u) := by
  split
  · exact h
  · exact g

theorem Kept.when {s t : State} (c : Bool) (f : State → State) (h : Kept s t) (hf : ∀ u, Kept s u → Kept s (f u)) :
    Kept s (t.when c f) := by
  unfold State.when
  split
  · exact hf t h
  · exact h

theorem Kept.forAll {α : Type} {s : State} (f : α → State → State) (hf : ∀ x u, Kept s u → Kept s (f x u)) (l : List α) :
    ∀ t, Kept s t → Kept s (t.forAll l f) := by
  induction l with
  | nil => intro t h; exact h
  | cons x xs ih => intro t h; exact ih _ (hf x t h)

theorem Kept.foldl {α : Type} {s : State} (f : State → α → State) (hf : ∀ u x, Kept s u → Kept s (f u x)) (l : List α) :
    ∀ t, Kept s t → Kept s (l.foldl f t) := by
  induction l with
  | nil => intro t h; exact h
  | cons x xs ih => intro t h; exact ih _ (hf t x h)

/-- The same over a pair whose first part is the state. -/
theorem Kept.foldlFst {α β : Type} {s : State} (f : State × β → α → State × β)
    (hf : ∀ x y, Kept s x.1 → Kept s (f x y).1) (l : List α) : ∀ x : State × β, Kept s x.1 → Kept s (l.foldl f x).1 := by
  induction l with
  | nil => intro x h; exact h
  | cons y ys ih => intro x h; exact ih _ (hf x y h)

/-- The state of a pair known by its parts. -/
theorem Kept.of_eq {α : Type} {s u : State} {r : α} {x : State × α} (e : x = (u, r)) (h : Kept s x.1) : Kept s u := by
  subst e
  exact h

/-- The parts of the canonical form. -/
theorem State.canon_iff (s : State) : s.canon = true ↔
    s.fieldsOk = true ∧ bytesOk 0 s.win = true ∧ bytesOk 0 s.opt = true ∧ bytesOk 0 s.tstore = true ∧
      bytesOk 0 s.tsave = true ∧ bytesOk 0xFF s.flash = true ∧ bytesOk 0 s.hbm = true ∧
      Tab.wf natBefore (fun _ => (0 : Block)) s.dur = true := by
  simp [State.canon, and_assoc]

theorem Kept.put {s t : State} (k : Fld) (v : Nat) (h : Kept s t) : Kept s (t.put k v) :=
  h.trans ⟨rfl, fun x => by
    rw [State.canon_iff] at x ⊢
    exact ⟨State.fieldsOk_put t k v x.1, x.2⟩⟩

/-! ## Updates of a table of the canonical form -/

theorem Kept.setWin {s t : State} {m : List (Nat × Byte)} (h : Kept s t)
    (hm : bytesOk 0 t.win = true → bytesOk 0 m = true) : Kept s { t with win := m } :=
  h.trans ⟨rfl, fun x => by
    rw [State.canon_iff] at x ⊢
    obtain ⟨x0, x1, x2, x3, x4, x5, x6, x7⟩ := x
    exact ⟨x0, hm x1, x2, x3, x4, x5, x6, x7⟩⟩

theorem Kept.setOpt {s t : State} {m : List (Nat × Byte)} (h : Kept s t)
    (hm : bytesOk 0 t.opt = true → bytesOk 0 m = true) : Kept s { t with opt := m } :=
  h.trans ⟨rfl, fun x => by
    rw [State.canon_iff] at x ⊢
    obtain ⟨x0, x1, x2, x3, x4, x5, x6, x7⟩ := x
    exact ⟨x0, x1, hm x2, x3, x4, x5, x6, x7⟩⟩

theorem Kept.setTstore {s t : State} {m : List (Nat × Byte)} (h : Kept s t)
    (hm : bytesOk 0 t.tstore = true → bytesOk 0 m = true) : Kept s { t with tstore := m } :=
  h.trans ⟨rfl, fun x => by
    rw [State.canon_iff] at x ⊢
    obtain ⟨x0, x1, x2, x3, x4, x5, x6, x7⟩ := x
    exact ⟨x0, x1, x2, hm x3, x4, x5, x6, x7⟩⟩

theorem Kept.setTsave {s t : State} {m : List (Nat × Byte)} (h : Kept s t)
    (hm : bytesOk 0 t.tsave = true → bytesOk 0 m = true) : Kept s { t with tsave := m } :=
  h.trans ⟨rfl, fun x => by
    rw [State.canon_iff] at x ⊢
    obtain ⟨x0, x1, x2, x3, x4, x5, x6, x7⟩ := x
    exact ⟨x0, x1, x2, x3, hm x4, x5, x6, x7⟩⟩

theorem Kept.setFlash {s t : State} {m : List (Nat × Byte)} (h : Kept s t)
    (hm : bytesOk 0xFF t.flash = true → bytesOk 0xFF m = true) : Kept s { t with flash := m } :=
  h.trans ⟨rfl, fun x => by
    rw [State.canon_iff] at x ⊢
    obtain ⟨x0, x1, x2, x3, x4, x5, x6, x7⟩ := x
    exact ⟨x0, x1, x2, x3, x4, hm x5, x6, x7⟩⟩

theorem Kept.setHbm {s t : State} {m : List (Nat × Byte)} (h : Kept s t)
    (hm : bytesOk 0 t.hbm = true → bytesOk 0 m = true) : Kept s { t with hbm := m } :=
  h.trans ⟨rfl, fun x => by
    rw [State.canon_iff] at x ⊢
    obtain ⟨x0, x1, x2, x3, x4, x5, x6, x7⟩ := x
    exact ⟨x0, x1, x2, x3, x4, x5, hm x6, x7⟩⟩

theorem Kept.setDur {s t : State} {m : List (Nat × Block)} (h : Kept s t)
    (hm : Tab.wf natBefore (fun _ => (0 : Block)) t.dur = true → Tab.wf natBefore (fun _ => (0 : Block)) m = true) :
    Kept s { t with dur := m } :=
  h.trans ⟨rfl, fun x => by
    rw [State.canon_iff] at x ⊢
    obtain ⟨x0, x1, x2, x3, x4, x5, x6, x7⟩ := x
    exact ⟨x0, x1, x2, x3, x4, x5, x6, hm x7⟩⟩

end Sys2Proof.Machine
end

