-- ==== Sys2Proof/Laws/KeptOps.lean ====
section
/-!
SUPPORT. Every operation of `Machine/Ops.lean` keeps what `Kept` names.
-/

namespace Sys2Proof.Machine

set_option Elab.async false
set_option linter.unusedTactic false
set_option linter.unreachableTactic false
set_option linter.unusedVariables false

theorem State.putB_kept {s₀ : State} {s : State} (k : Fld) (b : Bool) (hK : Kept s₀ s) :
    Kept s₀ (State.putB s k b) := by
  unfold State.putB
  repeat' first
    | with_reducible assumption | with_reducible apply Kept.put | intro _ | with_reducible apply Kept.ite | split
    | dsimp only [id_eq] | simp only [Kept.mk] | (rename_i e; with_reducible refine Kept.of_eq e ?_)

theorem State.putI_kept {s₀ : State} {s : State} (k : Fld) (i : Int) (hK : Kept s₀ s) :
    Kept s₀ (State.putI s k i) := by
  unfold State.putI
  repeat' first
    | with_reducible assumption | with_reducible apply Kept.put | intro _ | with_reducible apply Kept.ite | split
    | dsimp only [id_eq] | simp only [Kept.mk] | (rename_i e; with_reducible refine Kept.of_eq e ?_)

theorem State.puts_kept {s₀ : State} (l : List (Fld × Nat)) : ∀ {s : State}, Kept s₀ s → Kept s₀ (State.puts s l) := by
  induction l with
  | nil => intro s h; exact h
  | cons e l ih => intro s h; exact ih (Kept.put _ _ h)

theorem State.bump_kept {s₀ : State} {s : State} (k : Fld) (n : Nat) (hK : Kept s₀ s) :
    Kept s₀ (State.bump s k n) := by
  unfold State.bump
  repeat' first
    | with_reducible assumption | with_reducible apply Kept.put | intro _ | with_reducible apply Kept.ite | split
    | dsimp only [id_eq] | simp only [Kept.mk] | (rename_i e; with_reducible refine Kept.of_eq e ?_)

theorem State.resetBlk_kept {s₀ : State} {s : State} (blk : Nat) (h : Kept s₀ s) : Kept s₀ (State.resetBlk s blk) :=
  h.trans ⟨rfl, fun x => by
    rw [State.canon_iff] at x ⊢
    exact ⟨State.fieldsOk_filter s _ _ rfl x.1, x.2⟩⟩

theorem State.resetInst_kept {s₀ : State} {s : State} (blk inst : Nat) (h : Kept s₀ s) :
    Kept s₀ (State.resetInst s blk inst) :=
  h.trans ⟨rfl, fun x => by
    rw [State.canon_iff] at x ⊢
    exact ⟨State.fieldsOk_filter s _ _ rfl x.1, x.2⟩⟩

theorem State.putWin_kept {s₀ : State} {s : State} (blk sel off : Nat) (bs : List Byte) (h : Kept s₀ s) :
    Kept s₀ (State.putWin s blk sel off bs) :=
  h.trans ⟨rfl, fun x => by
    rw [State.canon_iff] at x ⊢
    exact ⟨x.1, bytesOk_putBytes bs _ _ x.2.1, x.2.2⟩⟩

theorem State.edge_kept {s₀ : State} {s : State} (src : Nat) (hK : Kept s₀ s) :
    Kept s₀ (State.edge s src) := by
  unfold State.edge
  repeat' first
    | with_reducible assumption | intro _ | with_reducible apply Kept.ite | split | dsimp only [id_eq]
    | simp only [Kept.mk] | (rename_i e; with_reducible refine Kept.of_eq e ?_)

theorem State.watch_kept {s₀ : State} {s : State} (blk : Nat) (inst : Nat) (f : State → State) (hK : Kept s₀ s) (hK_f : ∀ u, Kept s₀ u → Kept s₀ (f u)) :
    Kept s₀ (State.watch s blk inst f) := by
  unfold State.watch
  repeat' first
    | with_reducible assumption | with_reducible apply State.edge_kept | with_reducible apply hK_f | intro _
    | with_reducible apply Kept.ite | split | dsimp only [id_eq] | simp only [Kept.mk]
    | (rename_i e; with_reducible refine Kept.of_eq e ?_)

theorem State.evt_kept {s₀ : State} {s : State} (k : Fld) (hK : Kept s₀ s) :
    Kept s₀ (State.evt s k) := by
  unfold State.evt
  repeat' first
    | with_reducible assumption | with_reducible apply State.watch_kept | with_reducible apply Kept.put | intro _
    | with_reducible apply Kept.ite | split | dsimp only [id_eq] | simp only [Kept.mk]
    | (rename_i e; with_reducible refine Kept.of_eq e ?_)

theorem State.post_kept {s₀ : State} {s : State} (blk : Nat) (code : Nat) (sev : Nat) (inst : Nat) (data : List Nat) (hK : Kept s₀ s) :
    Kept s₀ (State.post s blk code sev inst data) := by
  unfold State.post
  repeat' first
    | with_reducible assumption | intro _ | with_reducible apply Kept.ite | split | dsimp only [id_eq]
    | simp only [Kept.mk] | (rename_i e; with_reducible refine Kept.of_eq e ?_)

theorem State.countUp_kept {s₀ : State} {s : State} (k : Fld) (n : Nat) (hK : Kept s₀ s) :
    Kept s₀ (State.countUp s k n) := by
  unfold State.countUp
  repeat' first
    | with_reducible assumption | with_reducible apply Kept.put | with_reducible apply Kept.when
    | with_reducible apply State.evt_kept | intro _ | with_reducible apply Kept.ite | split | dsimp only [id_eq]
    | simp only [Kept.mk] | (rename_i e; with_reducible refine Kept.of_eq e ?_)

theorem State.countN_kept {s₀ : State} {s : State} (k : Fld) (n : Nat) (hK : Kept s₀ s) :
    Kept s₀ (State.countN s k n) := by
  unfold State.countN
  repeat' first
    | with_reducible assumption | with_reducible apply Kept.when | with_reducible apply State.countUp_kept
    | with_reducible apply State.post_kept | intro _ | with_reducible apply Kept.ite | split | dsimp only [id_eq]
    | simp only [Kept.mk] | (rename_i e; with_reducible refine Kept.of_eq e ?_)

theorem State.count_kept {s₀ : State} {s : State} (k : Fld) (hK : Kept s₀ s) :
    Kept s₀ (State.count s k) := by
  unfold State.count
  repeat' first
    | with_reducible assumption | with_reducible apply State.countN_kept | intro _ | with_reducible apply Kept.ite
    | split | dsimp only [id_eq] | simp only [Kept.mk] | (rename_i e; with_reducible refine Kept.of_eq e ?_)

theorem State.seqPost_kept {s₀ : State} {s : State} (a : Nat) (code : Nat) (sev : Nat) (data : List Nat) (hK : Kept s₀ s) :
    Kept s₀ (State.seqPost s a code sev data) := by
  unfold State.seqPost
  repeat' first
    | with_reducible assumption | with_reducible apply State.bump_kept | with_reducible apply Kept.put
    | with_reducible apply State.post_kept | intro _ | with_reducible apply Kept.ite | split | dsimp only [id_eq]
    | simp only [Kept.mk] | (rename_i e; with_reducible refine Kept.of_eq e ?_)

theorem State.seqCountN_kept {s₀ : State} {s : State} (k : Fld) (n : Nat) (hK : Kept s₀ s) :
    Kept s₀ (State.seqCountN s k n) := by
  unfold State.seqCountN
  repeat' first
    | with_reducible assumption | with_reducible apply Kept.when | with_reducible apply State.countUp_kept
    | with_reducible apply State.seqPost_kept | intro _ | with_reducible apply Kept.ite | split | dsimp only [id_eq]
    | simp only [Kept.mk] | (rename_i e; with_reducible refine Kept.of_eq e ?_)

theorem State.seqCount_kept {s₀ : State} {s : State} (k : Fld) (hK : Kept s₀ s) :
    Kept s₀ (State.seqCount s k) := by
  unfold State.seqCount
  repeat' first
    | with_reducible assumption | with_reducible apply State.seqCountN_kept | intro _ | with_reducible apply Kept.ite
    | split | dsimp only [id_eq] | simp only [Kept.mk] | (rename_i e; with_reducible refine Kept.of_eq e ?_)

theorem State.counterClear_kept {s₀ : State} {s : State} (k : Fld) (n : Nat) (hK : Kept s₀ s) :
    Kept s₀ (State.counterClear s k n) := by
  unfold State.counterClear
  repeat' first
    | with_reducible assumption | with_reducible apply Kept.put | with_reducible apply State.seqCountN_kept
    | with_reducible apply State.countN_kept | intro _ | with_reducible apply Kept.ite | split | dsimp only [id_eq]
    | simp only [Kept.mk] | (rename_i e; with_reducible refine Kept.of_eq e ?_)

theorem State.drew_kept {s₀ : State} {s : State} (hK : Kept s₀ s) :
    Kept s₀ (State.drew s) := by
  unfold State.drew
  repeat' first
    | with_reducible assumption | intro _ | with_reducible apply Kept.ite | split | dsimp only [id_eq]
    | simp only [Kept.mk] | (rename_i e; with_reducible refine Kept.of_eq e ?_)

theorem State.setRop_kept {s₀ : State} {s : State} (a : Nat) (r : ReadOp) (hK : Kept s₀ s) :
    Kept s₀ (State.setRop s a r) := by
  unfold State.setRop
  repeat' first
    | with_reducible assumption | intro _ | with_reducible apply Kept.ite | split | dsimp only [id_eq]
    | simp only [Kept.mk] | (rename_i e; with_reducible refine Kept.of_eq e ?_)

theorem State.setSeqr_kept {s₀ : State} {s : State} (a : Nat) (r : SeqRun) (hK : Kept s₀ s) :
    Kept s₀ (State.setSeqr s a r) := by
  unfold State.setSeqr
  repeat' first
    | with_reducible assumption | intro _ | with_reducible apply Kept.ite | split | dsimp only [id_eq]
    | simp only [Kept.mk] | (rename_i e; with_reducible refine Kept.of_eq e ?_)

theorem State.setJugq_kept {s₀ : State} {s : State} (a : Nat) (q : List Job) (hK : Kept s₀ s) :
    Kept s₀ (State.setJugq s a q) := by
  unfold State.setJugq
  repeat' first
    | with_reducible assumption | with_reducible apply Kept.put | intro _ | with_reducible apply Kept.ite | split
    | dsimp only [id_eq] | simp only [Kept.mk] | (rename_i e; with_reducible refine Kept.of_eq e ?_)

theorem State.setJob_kept {s₀ : State} {s : State} (a : Nat) (j : Option Job) (hK : Kept s₀ s) :
    Kept s₀ (State.setJob s a j) := by
  unfold State.setJob
  repeat' first
    | with_reducible assumption | intro _ | with_reducible apply Kept.ite | split | dsimp only [id_eq]
    | simp only [Kept.mk] | (rename_i e; with_reducible refine Kept.of_eq e ?_)

theorem State.addJob_kept {s₀ : State} {s : State} (a : Nat) (j : Job) (hK : Kept s₀ s) :
    Kept s₀ (State.addJob s a j) := by
  unfold State.addJob
  repeat' first
    | with_reducible assumption | with_reducible apply State.setJugq_kept | intro _ | with_reducible apply Kept.ite
    | split | dsimp only [id_eq] | simp only [Kept.mk] | (rename_i e; with_reducible refine Kept.of_eq e ?_)

theorem State.paSet_kept {s₀ : State} {s : State} (a : Nat) (hsel : Nat) (addr : Nat) (v : Nat) (hK : Kept s₀ s) :
    Kept s₀ (State.paSet s a hsel addr v) := by
  unfold State.paSet
  repeat' first
    | with_reducible assumption | intro _ | with_reducible apply Kept.ite | split | dsimp only [id_eq]
    | simp only [Kept.mk] | (rename_i e; with_reducible refine Kept.of_eq e ?_)

theorem State.paPut_kept {s₀ : State} {s : State} (a : Nat) (hsel : Nat) (addr : Nat) (v : Nat) (hK : Kept s₀ s) :
    Kept s₀ (State.paPut s a hsel addr v) := by
  unfold State.paPut
  repeat' first
    | with_reducible assumption | with_reducible apply Kept.put | with_reducible apply State.paSet_kept | intro _
    | with_reducible apply Kept.ite | split | dsimp only [id_eq] | simp only [Kept.mk]
    | (rename_i e; with_reducible refine Kept.of_eq e ?_)

theorem State.setBstore_kept {s₀ : State} {s : State} (a : Nat) (l : List BarkerWord) (hK : Kept s₀ s) :
    Kept s₀ (State.setBstore s a l) := by
  unfold State.setBstore
  repeat' first
    | with_reducible assumption | intro _ | with_reducible apply Kept.ite | split | dsimp only [id_eq]
    | simp only [Kept.mk] | (rename_i e; with_reducible refine Kept.of_eq e ?_)

theorem State.setBit_kept {s₀ : State} {s : State} (f : Fld) (a : Nat) (b : Bool) (hK : Kept s₀ s) :
    Kept s₀ (State.setBit s f a b) := by
  unfold State.setBit
  repeat' first
    | with_reducible assumption | with_reducible apply Kept.put | intro _ | with_reducible apply Kept.ite | split
    | dsimp only [id_eq] | simp only [Kept.mk] | (rename_i e; with_reducible refine Kept.of_eq e ?_)

end Sys2Proof.Machine
end

