-- ==== Sys2Proof/Laws/KeptActuator.lean ====
section
/-!
SUPPORT. Every operation of `Machine/Actuator.lean` keeps what `Kept` names.
-/

namespace Sys2Proof.Machine

set_option Elab.async false
set_option linter.unusedTactic false
set_option linter.unreachableTactic false
set_option linter.unusedVariables false

theorem State.setHeater_kept {s₀ : State} {s : State} (a : Nat) (l : Nat) (z : Nat) (p : Nat) (hK : Kept s₀ s) :
    Kept s₀ (State.setHeater s a l z p) := by
  unfold State.setHeater
  repeat' first
    | with_reducible assumption | with_reducible apply State.post_kept | with_reducible apply State.evt_kept
    | with_reducible apply State.paPut_kept | intro _ | with_reducible apply Kept.ite | split | dsimp only [id_eq]
    | simp only [Kept.mk] | (rename_i e; with_reducible refine Kept.of_eq e ?_)

theorem State.heaterBad_kept {s₀ : State} {s : State} (a : Nat) (l : Nat) (z : Nat) (p : Nat) (hK : Kept s₀ s) :
    Kept s₀ (State.heaterBad s a l z p) := by
  unfold State.heaterBad
  repeat' first
    | with_reducible assumption | with_reducible apply State.post_kept | with_reducible apply Kept.put
    | with_reducible apply State.paPut_kept | intro _ | with_reducible apply Kept.ite | split | dsimp only [id_eq]
    | simp only [Kept.mk] | (rename_i e; with_reducible refine Kept.of_eq e ?_)

theorem State.driveHeater_kept {s₀ : State} {s : State} (a : Nat) (l : Nat) (z : Nat) (write : Bool) (hK : Kept s₀ s) :
    Kept s₀ (State.driveHeater s a l z write) := by
  unfold State.driveHeater
  repeat' first
    | with_reducible assumption | with_reducible apply Kept.put | with_reducible apply State.paPut_kept
    | with_reducible apply State.heaterBad_kept | with_reducible apply State.post_kept
    | with_reducible apply State.setHeater_kept | intro _ | with_reducible apply Kept.ite | split
    | dsimp only [id_eq] | simp only [Kept.mk] | (rename_i e; with_reducible refine Kept.of_eq e ?_)

theorem State.idleHeater_kept {s₀ : State} {s : State} (a : Nat) (hK : Kept s₀ s) :
    Kept s₀ (State.idleHeater s a) := by
  unfold State.idleHeater
  repeat' first
    | with_reducible assumption | with_reducible apply Kept.put | with_reducible apply State.paPut_kept
    | with_reducible apply State.heaterBad_kept | with_reducible apply State.setHeater_kept | intro _
    | with_reducible apply Kept.ite | split | dsimp only [id_eq] | simp only [Kept.mk]
    | (rename_i e; with_reducible refine Kept.of_eq e ?_)

theorem State.biasOff_kept {s₀ : State} {s : State} (a : Nat) (hK : Kept s₀ s) :
    Kept s₀ (State.biasOff s a) := by
  unfold State.biasOff
  repeat' first
    | with_reducible assumption | with_reducible apply Kept.when | with_reducible apply Kept.put
    | with_reducible apply State.paPut_kept | intro _ | with_reducible apply Kept.ite | split | dsimp only [id_eq]
    | simp only [Kept.mk] | (rename_i e; with_reducible refine Kept.of_eq e ?_)

theorem State.opEnded_kept {s₀ : State} {s : State} (a : Nat) (hK : Kept s₀ s) :
    Kept s₀ (State.opEnded s a) := by
  unfold State.opEnded
  repeat' first
    | with_reducible assumption | with_reducible apply State.idleHeater_kept | with_reducible apply State.puts_kept
    | with_reducible apply State.biasOff_kept | intro _ | with_reducible apply Kept.ite | split | dsimp only [id_eq]
    | simp only [Kept.mk] | (rename_i e; with_reducible refine Kept.of_eq e ?_)

theorem State.writeAbort_kept {s₀ : State} {s : State} (a : Nat) (latch : Bool) (hK : Kept s₀ s) :
    Kept s₀ (State.writeAbort s a latch) := by
  unfold State.writeAbort
  repeat' first
    | with_reducible assumption | with_reducible apply Kept.when | with_reducible apply State.count_kept
    | with_reducible apply State.evt_kept | with_reducible apply Kept.put | with_reducible apply State.post_kept
    | intro _ | with_reducible apply Kept.ite | split | dsimp only [id_eq] | simp only [Kept.mk]
    | (rename_i e; with_reducible refine Kept.of_eq e ?_)

theorem State.rungOfs_kept {s₀ : State} {s : State} (a : Nat) (rung : Nat) (step : Nat) (hK : Kept s₀ s) :
    Kept s₀ (State.rungOfs s a rung step) := by
  unfold State.rungOfs
  repeat' first
    | with_reducible assumption | with_reducible apply State.puts_kept | intro _ | with_reducible apply Kept.ite
    | split | dsimp only [id_eq] | simp only [Kept.mk] | (rename_i e; with_reducible refine Kept.of_eq e ?_)

theorem State.dropRead_kept {s₀ : State} {s : State} (a : Nat) (hK : Kept s₀ s) :
    Kept s₀ (State.dropRead s a) := by
  unfold State.dropRead
  repeat' first
    | with_reducible assumption | with_reducible apply Kept.put | with_reducible apply State.setRop_kept
    | with_reducible apply Kept.when | with_reducible apply State.rungOfs_kept | intro _
    | with_reducible apply Kept.ite | split | dsimp only [id_eq] | simp only [Kept.mk]
    | (rename_i e; with_reducible refine Kept.of_eq e ?_)

theorem State.toIdle_kept {s₀ : State} {s : State} (a : Nat) (hK : Kept s₀ s) :
    Kept s₀ (State.toIdle s a) := by
  unfold State.toIdle
  repeat' first
    | with_reducible assumption | with_reducible apply State.puts_kept | intro _ | with_reducible apply Kept.ite
    | split | dsimp only [id_eq] | simp only [Kept.mk] | (rename_i e; with_reducible refine Kept.of_eq e ?_)

theorem State.stopRoutine_kept {s₀ : State} {s : State} (a : Nat) (hK : Kept s₀ s) :
    Kept s₀ (State.stopRoutine s a) := by
  unfold State.stopRoutine
  repeat' first
    | with_reducible assumption | with_reducible apply State.opEnded_kept | with_reducible apply State.dropRead_kept
    | with_reducible apply State.puts_kept | with_reducible apply State.setSeqr_kept | intro _
    | with_reducible apply Kept.ite | split | dsimp only [id_eq] | simp only [Kept.mk]
    | (rename_i e; with_reducible refine Kept.of_eq e ?_)

theorem State.abandon_kept {s₀ : State} {s : State} (a : Nat) (cause : Nat) (hK : Kept s₀ s) :
    Kept s₀ (State.abandon s a cause) := by
  unfold State.abandon
  repeat' first
    | with_reducible assumption | with_reducible apply State.seqCount_kept | with_reducible apply Kept.put
    | with_reducible apply State.evt_kept | with_reducible apply State.toIdle_kept
    | with_reducible apply State.stopRoutine_kept | intro _ | with_reducible apply Kept.ite | split
    | dsimp only [id_eq] | simp only [Kept.mk] | (rename_i e; with_reducible refine Kept.of_eq e ?_)

theorem State.endWrite_kept {s₀ : State} {s : State} (a : Nat) (cause : Nat) (latch : Bool) (hK : Kept s₀ s) :
    Kept s₀ (State.endWrite s a cause latch) := by
  unfold State.endWrite
  repeat' first
    | with_reducible assumption | with_reducible apply State.abandon_kept | with_reducible apply Kept.when
    | with_reducible apply State.writeAbort_kept | intro _ | with_reducible apply Kept.ite | split
    | dsimp only [id_eq] | simp only [Kept.mk] | (rename_i e; with_reducible refine Kept.of_eq e ?_)

theorem State.permOff_kept {s₀ : State} {s : State} (a : Nat) (why : Nat) (hK : Kept s₀ s) :
    Kept s₀ (State.permOff s a why) := by
  unfold State.permOff
  repeat' first
    | with_reducible assumption | with_reducible apply Kept.when | with_reducible apply Kept.put
    | with_reducible apply State.post_kept | with_reducible apply State.count_kept
    | with_reducible apply State.evt_kept | intro _ | with_reducible apply Kept.ite | split | dsimp only [id_eq]
    | simp only [Kept.mk] | (rename_i e; with_reducible refine Kept.of_eq e ?_)

theorem State.withdraw_kept {s₀ : State} {s : State} (a : Nat) (why : Nat) (hK : Kept s₀ s) :
    Kept s₀ (State.withdraw s a why) := by
  unfold State.withdraw
  repeat' first
    | with_reducible assumption | with_reducible apply State.endWrite_kept | with_reducible apply State.permOff_kept
    | intro _ | with_reducible apply Kept.ite | split | dsimp only [id_eq] | simp only [Kept.mk]
    | (rename_i e; with_reducible refine Kept.of_eq e ?_)

theorem State.withdrawMove_kept {s₀ : State} {s : State} (a : Nat) (hK : Kept s₀ s) :
    Kept s₀ (State.withdrawMove s a) := by
  unfold State.withdrawMove
  repeat' first
    | with_reducible assumption | with_reducible apply State.withdraw_kept | with_reducible apply Kept.when
    | with_reducible apply State.permOff_kept | intro _ | with_reducible apply Kept.ite | split | dsimp only [id_eq]
    | simp only [Kept.mk] | (rename_i e; with_reducible refine Kept.of_eq e ?_)

theorem State.releaseHold_kept {s₀ : State} {s : State} (a : Nat) (hK : Kept s₀ s) :
    Kept s₀ (State.releaseHold s a) := by
  unfold State.releaseHold
  repeat' first
    | with_reducible assumption | with_reducible apply Kept.put | with_reducible apply State.putB_kept | intro _
    | with_reducible apply Kept.ite | split | dsimp only [id_eq] | simp only [Kept.mk]
    | (rename_i e; with_reducible refine Kept.of_eq e ?_)

theorem State.ladderRestart_kept {s₀ : State} {s : State} (a : Nat) (hK : Kept s₀ s) :
    Kept s₀ (State.ladderRestart s a) := by
  unfold State.ladderRestart
  repeat' first
    | with_reducible assumption | with_reducible apply State.dropRead_kept | with_reducible apply State.setSeqr_kept
    | with_reducible apply Kept.when | with_reducible apply State.setJob_kept
    | with_reducible apply State.setJugq_kept | with_reducible apply State.releaseHold_kept | intro _
    | with_reducible apply Kept.ite | split | dsimp only [id_eq] | simp only [Kept.mk]
    | (rename_i e; with_reducible refine Kept.of_eq e ?_)

theorem State.showTherm_kept {s₀ : State} {s : State} (hK : Kept s₀ s) :
    Kept s₀ (State.showTherm s) := by
  unfold State.showTherm
  repeat' first
    | with_reducible assumption | with_reducible apply Kept.forAll | with_reducible apply State.releaseHold_kept
    | intro _ | with_reducible apply Kept.ite | split | dsimp only [id_eq] | simp only [Kept.mk]
    | (rename_i e; with_reducible refine Kept.of_eq e ?_)

theorem State.tdAbort_kept {s₀ : State} {s : State} (cause : Nat) (hK : Kept s₀ s) :
    Kept s₀ (State.tdAbort s cause) := by
  unfold State.tdAbort
  repeat' first
    | with_reducible assumption | with_reducible apply Kept.put | with_reducible apply State.releaseHold_kept
    | with_reducible apply State.post_kept | with_reducible apply State.evt_kept
    | with_reducible apply State.puts_kept | with_reducible apply State.paPut_kept | intro _
    | with_reducible apply Kept.ite | split | dsimp only [id_eq] | simp only [Kept.mk]
    | (rename_i e; with_reducible refine Kept.of_eq e ?_)

theorem State.tdAbortOn_kept {s₀ : State} {s : State} (a : Nat) (cause : Nat) (hK : Kept s₀ s) :
    Kept s₀ (State.tdAbortOn s a cause) := by
  unfold State.tdAbortOn
  repeat' first
    | with_reducible assumption | with_reducible apply Kept.when | with_reducible apply State.tdAbort_kept | intro _
    | with_reducible apply Kept.ite | split | dsimp only [id_eq] | simp only [Kept.mk]
    | (rename_i e; with_reducible refine Kept.of_eq e ?_)

theorem State.refreshFeed_kept {s₀ : State} {s : State} (hK : Kept s₀ s) :
    Kept s₀ (State.refreshFeed s) := by
  unfold State.refreshFeed
  repeat' first
    | with_reducible assumption | with_reducible apply Kept.forAll | with_reducible apply State.putB_kept | intro _
    | with_reducible apply Kept.ite | split | dsimp only [id_eq] | simp only [Kept.mk]
    | (rename_i e; with_reducible refine Kept.of_eq e ?_)

theorem State.setSrv_kept {s₀ : State} {s : State} (a : Nat) (st : Nat) (hK : Kept s₀ s) :
    Kept s₀ (State.setSrv s a st) := by
  unfold State.setSrv
  repeat' first
    | with_reducible assumption | with_reducible apply State.refreshFeed_kept | with_reducible apply State.puts_kept
    | with_reducible apply Kept.put | intro _ | with_reducible apply Kept.ite | split | dsimp only [id_eq]
    | simp only [Kept.mk] | (rename_i e; with_reducible refine Kept.of_eq e ?_)

theorem State.goTrack_kept {s₀ : State} {s : State} (a : Nat) (l : Nat) (track : Nat) (hK : Kept s₀ s) :
    Kept s₀ (State.goTrack s a l track) := by
  unfold State.goTrack
  repeat' first
    | with_reducible assumption | with_reducible apply Kept.when | with_reducible apply State.withdrawMove_kept
    | with_reducible apply State.puts_kept | with_reducible apply State.paPut_kept
    | with_reducible apply State.idleHeater_kept | with_reducible apply State.setSrv_kept | intro _
    | with_reducible apply Kept.ite | split | dsimp only [id_eq] | simp only [Kept.mk]
    | (rename_i e; with_reducible refine Kept.of_eq e ?_)

theorem State.toUnloading_kept {s₀ : State} {s : State} (a : Nat) (hK : Kept s₀ s) :
    Kept s₀ (State.toUnloading s a) := by
  unfold State.toUnloading
  repeat' first
    | with_reducible assumption | with_reducible apply State.setSrv_kept | with_reducible apply State.puts_kept
    | with_reducible apply Kept.put | with_reducible apply State.withdraw_kept
    | with_reducible apply State.tdAbortOn_kept | with_reducible apply State.endWrite_kept
    | with_reducible apply State.ladderRestart_kept | intro _ | with_reducible apply Kept.ite | split
    | dsimp only [id_eq] | simp only [Kept.mk] | (rename_i e; with_reducible refine Kept.of_eq e ?_)

theorem State.unloadNow_kept {s₀ : State} {s : State} (a : Nat) (hK : Kept s₀ s) :
    Kept s₀ (State.unloadNow s a) := by
  unfold State.unloadNow
  repeat' first
    | with_reducible assumption | with_reducible apply Kept.put | with_reducible apply State.toUnloading_kept
    | intro _ | with_reducible apply Kept.ite | split | dsimp only [id_eq] | simp only [Kept.mk]
    | (rename_i e; with_reducible refine Kept.of_eq e ?_)

theorem State.toUnloaded_kept {s₀ : State} {s : State} (a : Nat) (hK : Kept s₀ s) :
    Kept s₀ (State.toUnloaded s a) := by
  unfold State.toUnloaded
  repeat' first
    | with_reducible assumption | with_reducible apply State.setSrv_kept | with_reducible apply State.evt_kept
    | with_reducible apply State.paPut_kept | with_reducible apply Kept.put | with_reducible apply State.puts_kept
    | intro _ | with_reducible apply Kept.ite | split | dsimp only [id_eq] | simp only [Kept.mk]
    | (rename_i e; with_reducible refine Kept.of_eq e ?_)

theorem State.unloadRequest_kept {s₀ : State} {s : State} (a : Nat) (soon : Bool) (hK : Kept s₀ s) :
    Kept s₀ (State.unloadRequest s a soon) := by
  unfold State.unloadRequest
  repeat' first
    | with_reducible assumption | with_reducible apply State.unloadNow_kept | with_reducible apply Kept.put | intro _
    | with_reducible apply Kept.ite | split | dsimp only [id_eq] | simp only [Kept.mk]
    | (rename_i e; with_reducible refine Kept.of_eq e ?_)

theorem State.resumeOp1_kept {s₀ : State} {s : State} (o : MOp) (hK : Kept s₀ s) :
    Kept s₀ (State.resumeOp1 s o) := by
  unfold State.resumeOp1
  repeat' first
    | with_reducible assumption | with_reducible apply State.post_kept | with_reducible apply State.count_kept
    | intro _ | with_reducible apply Kept.ite | split | dsimp only [id_eq] | simp only [Kept.mk]
    | (rename_i e; with_reducible refine Kept.of_eq e ?_)

theorem State.unpause_kept {s₀ : State} {s : State} (hK : Kept s₀ s) :
    Kept s₀ (State.unpause s) := by
  unfold State.unpause
  repeat' first
    | with_reducible assumption | with_reducible apply Kept.forAll | with_reducible apply State.resumeOp1_kept
    | intro _ | with_reducible apply Kept.ite | split | dsimp only [id_eq] | simp only [Kept.mk]
    | (rename_i e; with_reducible refine Kept.of_eq e ?_)

theorem State.setPs_kept {s₀ : State} {s : State} (n : Nat) (hK : Kept s₀ s) :
    Kept s₀ (State.setPs s n) := by
  unfold State.setPs
  repeat' first
    | with_reducible assumption | with_reducible apply State.post_kept | with_reducible apply State.edge_kept
    | with_reducible apply State.evt_kept | with_reducible apply Kept.put | with_reducible apply Kept.when
    | with_reducible apply State.unpause_kept | intro _ | with_reducible apply Kept.ite | split | dsimp only [id_eq]
    | simp only [Kept.mk] | (rename_i e; with_reducible refine Kept.of_eq e ?_)

end Sys2Proof.Machine
end

