-- ==== Sys2Proof/Laws/KeptPocket.lean ====
section
/-!
SUPPORT. Every operation of `Machine/Pocket.lean` keeps what `Kept` names.
-/

namespace Sys2Proof.Machine

set_option Elab.async false
set_option linter.unusedTactic false
set_option linter.unreachableTactic false
set_option linter.unusedVariables false

theorem State.showPkt_kept {s₀ : State} {s : State} (hK : Kept s₀ s) :
    Kept s₀ (State.showPkt s) := by
  unfold State.showPkt
  repeat' first
    | with_reducible assumption | with_reducible apply Kept.put | intro _ | with_reducible apply Kept.ite | split
    | dsimp only [id_eq] | simp only [Kept.mk] | (rename_i e; with_reducible refine Kept.of_eq e ?_)

theorem State.setLine_kept {s₀ : State} {s : State} (set : Nat) (way : Nat) (l : Option Line) (hK : Kept s₀ s) :
    Kept s₀ (State.setLine s set way l) := by
  unfold State.setLine
  repeat' first
    | with_reducible assumption | intro _ | with_reducible apply Kept.ite | split | dsimp only [id_eq]
    | simp only [Kept.mk] | (rename_i e; with_reducible refine Kept.of_eq e ?_)

theorem State.unpoison_kept {s₀ : State} {s : State} (adr : Nat) (n : Nat) (hK : Kept s₀ s) :
    Kept s₀ (State.unpoison s adr n) := by
  unfold State.unpoison
  repeat' first
    | with_reducible assumption | intro _ | with_reducible apply Kept.ite | split | dsimp only [id_eq]
    | simp only [Kept.mk] | (rename_i e; with_reducible refine Kept.of_eq e ?_)

theorem State.hbmWrite_kept {s₀ s : State} (adr : Nat) (bs : List Byte) (h : Kept s₀ s) : Kept s₀ (State.hbmWrite s adr bs) := by
  unfold State.hbmWrite
  split
  · exact State.unpoison_kept _ _ (Kept.setHbm h (bytesOk_putBytes bs _ adr))
  · exact h

theorem State.writeBack_kept {s₀ : State} {s : State} (set : Nat) (way : Nat) (hK : Kept s₀ s) :
    Kept s₀ (State.writeBack s set way) := by
  unfold State.writeBack
  repeat' first
    | with_reducible assumption | with_reducible apply State.setLine_kept | with_reducible apply State.hbmWrite_kept
    | intro _ | with_reducible apply Kept.ite | split | dsimp only [id_eq] | simp only [Kept.mk]
    | (rename_i e; with_reducible refine Kept.of_eq e ?_)

theorem State.victim_kept {s₀ : State} {s : State} (c : Nat) (set : Nat) (hK : Kept s₀ s) :
    Kept s₀ (State.victim s c set).1 := by
  unfold State.victim
  repeat' first
    | with_reducible assumption | with_reducible apply Kept.put | intro _ | with_reducible apply Kept.ite | split
    | dsimp only [id_eq] | simp only [Kept.mk] | (rename_i e; with_reducible refine Kept.of_eq e ?_)

theorem State.srefOff_kept {s₀ : State} {s : State} (hK : Kept s₀ s) :
    Kept s₀ (State.srefOff s) := by
  unfold State.srefOff
  repeat' first
    | with_reducible assumption | with_reducible apply State.puts_kept | intro _ | with_reducible apply Kept.ite
    | split | dsimp only [id_eq] | simp only [Kept.mk] | (rename_i e; with_reducible refine Kept.of_eq e ?_)

theorem State.pktAccess_kept {s₀ : State} {s : State} (c : Nat) (line : Nat) (w : Option (Nat × List Byte)) (hK : Kept s₀ s) :
    Kept s₀ (State.pktAccess s c line w) := by
  unfold State.pktAccess
  repeat' first
    | with_reducible assumption | with_reducible apply State.setLine_kept | with_reducible apply State.hbmWrite_kept
    | with_reducible apply Kept.when | with_reducible apply State.srefOff_kept
    | with_reducible apply State.victim_kept | with_reducible apply State.writeBack_kept | intro _
    | with_reducible apply Kept.ite | split | dsimp only [id_eq] | simp only [Kept.mk]
    | (rename_i e; with_reducible refine Kept.of_eq e ?_)

theorem State.memPut_kept {s₀ : State} {s : State} (c : Nat) (adr : Nat) (bs : List Byte) (hK : Kept s₀ s) :
    Kept s₀ (State.memPut s c adr bs) := by
  unfold State.memPut
  repeat' first
    | with_reducible assumption | with_reducible apply State.showPkt_kept | with_reducible apply State.unpoison_kept
    | with_reducible apply Kept.forAll | with_reducible apply State.pktAccess_kept | intro _
    | with_reducible apply Kept.ite | split | dsimp only [id_eq] | simp only [Kept.mk]
    | (rename_i e; with_reducible refine Kept.of_eq e ?_)

theorem State.memTouch_kept {s₀ : State} {s : State} (c : Nat) (adr : Nat) (n : Nat) (hK : Kept s₀ s) :
    Kept s₀ (State.memTouch s c adr n) := by
  unfold State.memTouch
  repeat' first
    | with_reducible assumption | with_reducible apply State.showPkt_kept | with_reducible apply Kept.forAll
    | with_reducible apply State.pktAccess_kept | intro _ | with_reducible apply Kept.ite | split
    | dsimp only [id_eq] | simp only [Kept.mk] | (rename_i e; with_reducible refine Kept.of_eq e ?_)

theorem State.partRead_kept {s₀ : State} {s : State} (c : Nat) (p : Nat) (key : Nat) (n : Nat) (hK : Kept s₀ s) :
    Kept s₀ (State.partRead s c p key n) := by
  unfold State.partRead
  repeat' first
    | with_reducible assumption | with_reducible apply State.memTouch_kept | intro _ | with_reducible apply Kept.ite
    | split | dsimp only [id_eq] | simp only [Kept.mk] | (rename_i e; with_reducible refine Kept.of_eq e ?_)

theorem State.partWrite_kept {s₀ : State} {s : State} (c : Nat) (p : Nat) (key : Nat) (bs : List Byte) (hK : Kept s₀ s) :
    Kept s₀ (State.partWrite s c p key bs) := by
  unfold State.partWrite
  repeat' first
    | with_reducible assumption | with_reducible apply State.memPut_kept | intro _ | with_reducible apply Kept.ite
    | split | dsimp only [id_eq] | simp only [Kept.mk] | (rename_i e; with_reducible refine Kept.of_eq e ?_)

theorem State.fwPages_kept {s₀ : State} {s : State} (c : Nat) (page : Nat) (bs : List Byte) (hK : Kept s₀ s) :
    Kept s₀ (State.fwPages s c page bs) := by
  unfold State.fwPages
  repeat' first
    | with_reducible assumption | with_reducible apply Kept.forAll | with_reducible apply State.partWrite_kept
    | intro _ | with_reducible apply Kept.ite | split | dsimp only [id_eq] | simp only [Kept.mk]
    | (rename_i e; with_reducible refine Kept.of_eq e ?_)

theorem State.imageRead_kept {s₀ : State} {s : State} (k : Nat) (n : Nat) (hK : Kept s₀ s) :
    Kept s₀ (State.imageRead s k n) := by
  unfold State.imageRead
  repeat' first
    | with_reducible assumption | with_reducible apply State.partRead_kept | intro _ | with_reducible apply Kept.ite
    | split | dsimp only [id_eq] | simp only [Kept.mk] | (rename_i e; with_reducible refine Kept.of_eq e ?_)

theorem State.patchWrite_kept {s₀ : State} {s : State} (no : Nat) (bs : List Byte) (hK : Kept s₀ s) :
    Kept s₀ (State.patchWrite s no bs) := by
  unfold State.patchWrite
  repeat' first
    | with_reducible assumption | with_reducible apply State.partWrite_kept | intro _ | with_reducible apply Kept.ite
    | split | dsimp only [id_eq] | simp only [Kept.mk] | (rename_i e; with_reducible refine Kept.of_eq e ?_)

theorem State.patchRead_kept {s₀ : State} {s : State} (no : Nat) (n : Nat) (hK : Kept s₀ s) :
    Kept s₀ (State.patchRead s no n) := by
  unfold State.patchRead
  repeat' first
    | with_reducible assumption | with_reducible apply State.partRead_kept | intro _ | with_reducible apply Kept.ite
    | split | dsimp only [id_eq] | simp only [Kept.mk] | (rename_i e; with_reducible refine Kept.of_eq e ?_)

end Sys2Proof.Machine
end

