-- ==== Sys2Proof/Laws/KeptWardrobe.lean ====
section
/-!
SUPPORT. Every operation of `Machine/Wardrobe.lean` keeps what `Kept` names.
-/

namespace Sys2Proof.Machine

set_option Elab.async false
set_option linter.unusedTactic false
set_option linter.unreachableTactic false
set_option linter.unusedVariables false

theorem bytesOk_progBytes (l : List Byte) : ∀ (m : List (Nat × Byte)) (k : Nat), bytesOk 0xFF m = true →
    bytesOk 0xFF (progBytes m k l) = true := by
  induction l with
  | nil => intro m k h; exact h
  | cons b bs ih => intro m k h; exact ih _ _ (bytesOk_put 0xFF m k _ h)

theorem State.setBlk_kept {s₀ : State} {s : State} (g : Nat) (r : BlkRec) (hK : Kept s₀ s) :
    Kept s₀ (State.setBlk s g r) := by
  unfold State.setBlk
  repeat' first
    | with_reducible assumption | intro _ | with_reducible apply Kept.ite | split | dsimp only [id_eq]
    | simp only [Kept.mk] | (rename_i e; with_reducible refine Kept.of_eq e ?_)

theorem State.progNow_kept {s₀ s : State} (a : Nat) (bs : List Byte) (h : Kept s₀ s) : Kept s₀ (State.progNow s a bs) :=
  Kept.setFlash h (bytesOk_progBytes bs _ a)

theorem State.progCut_kept {s₀ : State} {s : State} (a : Nat) (bs : List Byte) (hK : Kept s₀ s) :
    Kept s₀ (State.progCut s a bs) := by
  unfold State.progCut
  repeat' first
    | with_reducible assumption | with_reducible apply State.drew_kept | with_reducible apply State.progNow_kept
    | intro _ | with_reducible apply Kept.ite | split | dsimp only [id_eq] | simp only [Kept.mk]
    | (rename_i e; with_reducible refine Kept.of_eq e ?_)

theorem State.eraseNow_kept {s₀ s : State} (g : Nat) (h : Kept s₀ s) : Kept s₀ (State.eraseNow s g) :=
  State.bump_kept _ _ (State.setBlk_kept _ _ (Kept.setFlash h (bytesOk_filter _ _ _)))

theorem State.flashFailed_kept {s₀ : State} {s : State} (erase : Bool) (g : Nat) (hK : Kept s₀ s) :
    Kept s₀ (State.flashFailed s erase g) := by
  unfold State.flashFailed
  repeat' first
    | with_reducible assumption | with_reducible apply State.count_kept | with_reducible apply State.evt_kept
    | with_reducible apply State.post_kept | intro _ | with_reducible apply Kept.ite | split | dsimp only [id_eq]
    | simp only [Kept.mk] | (rename_i e; with_reducible refine Kept.of_eq e ?_)

theorem State.setOps_kept {s₀ : State} {s : State} (b : Nat) (l : List FlashOp) (hK : Kept s₀ s) :
    Kept s₀ (State.setOps s b l) := by
  unfold State.setOps
  repeat' first
    | with_reducible assumption | with_reducible apply State.setBit_kept | with_reducible apply State.puts_kept
    | intro _ | with_reducible apply Kept.ite | split | dsimp only [id_eq] | simp only [Kept.mk]
    | (rename_i e; with_reducible refine Kept.of_eq e ?_)

theorem State.suspendOp_kept {s₀ : State} {s : State} (b : Nat) (hK : Kept s₀ s) :
    Kept s₀ (State.suspendOp s b) := by
  unfold State.suspendOp
  repeat' first
    | with_reducible assumption | with_reducible apply State.setOps_kept | with_reducible apply State.bump_kept
    | intro _ | with_reducible apply Kept.ite | split | dsimp only [id_eq] | simp only [Kept.mk]
    | (rename_i e; with_reducible refine Kept.of_eq e ?_)

theorem State.resumeOp_kept {s₀ : State} {s : State} (b : Nat) (hK : Kept s₀ s) :
    Kept s₀ (State.resumeOp s b) := by
  unfold State.resumeOp
  repeat' first
    | with_reducible assumption | with_reducible apply State.setOps_kept | intro _ | with_reducible apply Kept.ite
    | split | dsimp only [id_eq] | simp only [Kept.mk] | (rename_i e; with_reducible refine Kept.of_eq e ?_)

theorem State.serveRead_kept {s₀ : State} {s : State} (a : Nat) (n : Nat) (hK : Kept s₀ s) :
    Kept s₀ (State.serveRead s a n) := by
  unfold State.serveRead
  repeat' first
    | with_reducible assumption | with_reducible apply Kept.when | with_reducible apply State.count_kept
    | with_reducible apply State.evt_kept | with_reducible apply Kept.put | intro _ | with_reducible apply Kept.ite
    | split | dsimp only [id_eq] | simp only [Kept.mk] | (rename_i e; with_reducible refine Kept.of_eq e ?_)

theorem State.startProg_kept {s₀ : State} {s : State} (a : Nat) (bs : List Byte) (hK : Kept s₀ s) :
    Kept s₀ (State.startProg s a bs) := by
  unfold State.startProg
  repeat' first
    | with_reducible assumption | with_reducible apply State.setOps_kept | with_reducible apply State.bump_kept
    | intro _ | with_reducible apply Kept.ite | split | dsimp only [id_eq] | simp only [Kept.mk]
    | (rename_i e; with_reducible refine Kept.of_eq e ?_)

theorem State.startErase_kept {s₀ : State} {s : State} (g : Nat) (hK : Kept s₀ s) :
    Kept s₀ (State.startErase s g) := by
  unfold State.startErase
  repeat' first
    | with_reducible assumption | with_reducible apply State.setOps_kept | with_reducible apply State.setBlk_kept
    | intro _ | with_reducible apply Kept.ite | split | dsimp only [id_eq] | simp only [Kept.mk]
    | (rename_i e; with_reducible refine Kept.of_eq e ?_)

theorem State.setWait_kept {s₀ : State} {s : State} (b : Nat) (l : List FlashReq) (hK : Kept s₀ s) :
    Kept s₀ (State.setWait s b l) := by
  unfold State.setWait
  repeat' first
    | with_reducible assumption | intro _ | with_reducible apply Kept.ite | split | dsimp only [id_eq]
    | simp only [Kept.mk] | (rename_i e; with_reducible refine Kept.of_eq e ?_)

theorem State.waitFor_kept {s₀ : State} {s : State} (b : Nat) (r : FlashReq) (hK : Kept s₀ s) :
    Kept s₀ (State.waitFor s b r) := by
  unfold State.waitFor
  repeat' first
    | with_reducible assumption | with_reducible apply State.setWait_kept | intro _ | with_reducible apply Kept.ite
    | split | dsimp only [id_eq] | simp only [Kept.mk] | (rename_i e; with_reducible refine Kept.of_eq e ?_)

theorem State.pump_kept {s₀ : State} (n : Nat) : ∀ {s : State} (b : Nat), Kept s₀ s → Kept s₀ (State.pump n b s) := by
  induction n with
  | zero => intro s b h; exact h
  | succ n ih =>
    intro s b h
    unfold State.pump
    split
    · exact h
    · split
      · exact h
      · exact ih _ (State.serveRead_kept _ _ (State.setWait_kept _ _ h))
      · split
        · exact h
        · exact State.startProg_kept _ _ (State.setWait_kept _ _ h)
      · split
        · exact h
        · exact State.startErase_kept _ (State.setWait_kept _ _ h)

theorem State.bankNext_kept {s₀ : State} {s : State} (b : Nat) (hK : Kept s₀ s) :
    Kept s₀ (State.bankNext s b) := by
  unfold State.bankNext
  repeat' first
    | with_reducible assumption | with_reducible apply State.pump_kept | with_reducible apply State.resumeOp_kept
    | intro _ | with_reducible apply Kept.ite | split | dsimp only [id_eq] | simp only [Kept.mk]
    | (rename_i e; with_reducible refine Kept.of_eq e ?_)

theorem State.reqProg_kept {s₀ : State} {s : State} (a : Nat) (d : List Byte) (ran : Nat) (hK : Kept s₀ s) :
    Kept s₀ (State.reqProg s a d ran) := by
  unfold State.reqProg
  repeat' first
    | with_reducible assumption | with_reducible apply State.evt_kept | with_reducible apply State.waitFor_kept
    | with_reducible apply State.startProg_kept | with_reducible apply State.suspendOp_kept | intro _
    | with_reducible apply Kept.ite | split | dsimp only [id_eq] | simp only [Kept.mk]
    | (rename_i e; with_reducible refine Kept.of_eq e ?_)

theorem State.reqErase_kept {s₀ : State} {s : State} (g : Nat) (hK : Kept s₀ s) :
    Kept s₀ (State.reqErase s g) := by
  unfold State.reqErase
  repeat' first
    | with_reducible assumption | with_reducible apply State.startErase_kept
    | with_reducible apply State.waitFor_kept | intro _ | with_reducible apply Kept.ite | split | dsimp only [id_eq]
    | simp only [Kept.mk] | (rename_i e; with_reducible refine Kept.of_eq e ?_)

end Sys2Proof.Machine
end

