-- ==== Sys2Proof/Laws/KeptRecorder.lean ====
section
/-!
SUPPORT. Every operation of `Machine/Recorder.lean` keeps what `Kept` names.
-/

namespace Sys2Proof.Machine

set_option Elab.async false
set_option linter.unusedTactic false
set_option linter.unreachableTactic false
set_option linter.unusedVariables false

theorem State.ringGo_kept {s₀ : State} {s : State} (hK : Kept s₀ s) :
    Kept s₀ (State.ringGo s) := by
  unfold State.ringGo
  repeat' first
    | with_reducible assumption | with_reducible apply State.reqErase_kept | with_reducible apply State.reqProg_kept
    | intro _ | with_reducible apply Kept.ite | split | dsimp only [id_eq] | simp only [Kept.mk]
    | (rename_i e; with_reducible refine Kept.of_eq e ?_)

theorem State.showPbl_kept {s₀ : State} {s : State} (hK : Kept s₀ s) :
    Kept s₀ (State.showPbl s) := by
  unfold State.showPbl
  repeat' first
    | with_reducible assumption | with_reducible apply State.ringGo_kept | with_reducible apply State.puts_kept
    | intro _ | with_reducible apply Kept.ite | split | dsimp only [id_eq] | simp only [Kept.mk]
    | (rename_i e; with_reducible refine Kept.of_eq e ?_)

theorem State.closeRec_kept {s₀ : State} {s : State} (hK : Kept s₀ s) :
    Kept s₀ (State.closeRec s) := by
  unfold State.closeRec
  repeat' first
    | with_reducible assumption | with_reducible apply Kept.put | with_reducible apply State.showPbl_kept | intro _
    | with_reducible apply Kept.ite | split | dsimp only [id_eq] | simp only [Kept.mk]
    | (rename_i e; with_reducible refine Kept.of_eq e ?_)

theorem State.openRec_kept {s₀ : State} {s : State} (d : Desc) (hK : Kept s₀ s) :
    Kept s₀ (State.openRec s d) := by
  unfold State.openRec
  repeat' first
    | with_reducible assumption | with_reducible apply State.puts_kept | with_reducible apply State.showPbl_kept
    | with_reducible apply Kept.when | with_reducible apply State.edge_kept | intro _ | with_reducible apply Kept.ite
    | split | dsimp only [id_eq] | simp only [Kept.mk] | (rename_i e; with_reducible refine Kept.of_eq e ?_)

theorem State.dropDesc_kept {s₀ : State} {s : State} (hK : Kept s₀ s) :
    Kept s₀ (State.dropDesc s) := by
  unfold State.dropDesc
  repeat' first
    | with_reducible assumption | with_reducible apply State.evt_kept | with_reducible apply State.count_kept
    | with_reducible apply State.puts_kept | intro _ | with_reducible apply Kept.ite | split | dsimp only [id_eq]
    | simp only [Kept.mk] | (rename_i e; with_reducible refine Kept.of_eq e ?_)

theorem State.acceptDesc_kept {s₀ : State} {s : State} (d : Desc) (hK : Kept s₀ s) :
    Kept s₀ (State.acceptDesc s d) := by
  unfold State.acceptDesc
  repeat' first
    | with_reducible assumption | with_reducible apply State.openRec_kept | with_reducible apply State.evt_kept
    | with_reducible apply State.dropDesc_kept | with_reducible apply State.closeRec_kept | intro _
    | with_reducible apply Kept.ite | split | dsimp only [id_eq] | simp only [Kept.mk]
    | (rename_i e; with_reducible refine Kept.of_eq e ?_)

theorem eventDescriptor_kept {s₀ : State} {s : State} (hK : Kept s₀ s) :
    Kept s₀ (eventDescriptor s) := by
  unfold eventDescriptor
  repeat' first
    | with_reducible assumption | with_reducible apply State.acceptDesc_kept | intro _
    | with_reducible apply Kept.ite | split | dsimp only [id_eq] | simp only [Kept.mk]
    | (rename_i e; with_reducible refine Kept.of_eq e ?_)

theorem recordCloseTimer_kept {s₀ : State} {s : State} (hK : Kept s₀ s) :
    Kept s₀ (recordCloseTimer s) := by
  unfold recordCloseTimer
  repeat' first
    | with_reducible assumption | with_reducible apply State.closeRec_kept | intro _ | with_reducible apply Kept.ite
    | split | dsimp only [id_eq] | simp only [Kept.mk] | (rename_i e; with_reducible refine Kept.of_eq e ?_)

theorem State.slotOn_kept {s₀ : State} {s : State} (n : Nat) (hK : Kept s₀ s) :
    Kept s₀ (State.slotOn s n) := by
  unfold State.slotOn
  repeat' first
    | with_reducible assumption | with_reducible apply Kept.when | with_reducible apply State.puts_kept
    | with_reducible apply Kept.put | intro _ | with_reducible apply Kept.ite | split | dsimp only [id_eq]
    | simp only [Kept.mk] | (rename_i e; with_reducible refine Kept.of_eq e ?_)

theorem State.ringTook_kept {s₀ : State} {s : State} (n : Nat) (hK : Kept s₀ s) :
    Kept s₀ (State.ringTook s n) := by
  unfold State.ringTook
  repeat' first
    | with_reducible assumption | with_reducible apply State.slotOn_kept | with_reducible apply Kept.when
    | with_reducible apply State.closeRec_kept | with_reducible apply Kept.foldl | with_reducible apply Kept.foldlFst
    | intro _ | with_reducible apply Kept.ite | split | dsimp only [id_eq] | simp only [Kept.mk]
    | (rename_i e; with_reducible refine Kept.of_eq e ?_)

theorem State.ringMissed_kept {s₀ : State} {s : State} (n : Nat) (hK : Kept s₀ s) :
    Kept s₀ (State.ringMissed s n) := by
  unfold State.ringMissed
  repeat' first
    | with_reducible assumption | with_reducible apply State.slotOn_kept | with_reducible apply Kept.foldl
    | with_reducible apply Kept.foldlFst | intro _ | with_reducible apply Kept.ite | split | dsimp only [id_eq]
    | simp only [Kept.mk] | (rename_i e; with_reducible refine Kept.of_eq e ?_)

theorem State.emptyRingBlk_kept {s₀ : State} {s : State} (b : Nat) (hK : Kept s₀ s) :
    Kept s₀ (State.emptyRingBlk s b) := by
  unfold State.emptyRingBlk
  repeat' first
    | with_reducible assumption | intro _ | with_reducible apply Kept.ite | split | dsimp only [id_eq]
    | simp only [Kept.mk] | (rename_i e; with_reducible refine Kept.of_eq e ?_)

theorem State.clearNext_kept {s₀ : State} {s : State} (b : Nat) (hK : Kept s₀ s) :
    Kept s₀ (State.clearNext s b) := by
  unfold State.clearNext
  repeat' first
    | with_reducible assumption | with_reducible apply Kept.when | with_reducible apply State.puts_kept | intro _
    | with_reducible apply Kept.ite | split | dsimp only [id_eq] | simp only [Kept.mk]
    | (rename_i e; with_reducible refine Kept.of_eq e ?_)

theorem State.ringErased_kept {s₀ : State} {s : State} (b : Nat) (hK : Kept s₀ s) :
    Kept s₀ (State.ringErased s b) := by
  unfold State.ringErased
  repeat' first
    | with_reducible assumption | with_reducible apply Kept.when | with_reducible apply State.clearNext_kept
    | with_reducible apply State.emptyRingBlk_kept | with_reducible apply State.puts_kept | intro _
    | with_reducible apply Kept.ite | split | dsimp only [id_eq] | simp only [Kept.mk]
    | (rename_i e; with_reducible refine Kept.of_eq e ?_)

theorem State.ringUnerased_kept {s₀ : State} {s : State} (b : Nat) (hK : Kept s₀ s) :
    Kept s₀ (State.ringUnerased s b) := by
  unfold State.ringUnerased
  repeat' first
    | with_reducible assumption | with_reducible apply State.emptyRingBlk_kept
    | with_reducible apply State.slotOn_kept | with_reducible apply State.clearNext_kept
    | with_reducible apply Kept.put | intro _ | with_reducible apply Kept.ite | split | dsimp only [id_eq]
    | simp only [Kept.mk] | (rename_i e; with_reducible refine Kept.of_eq e ?_)

theorem State.ringSpoilt_kept {s₀ : State} {s : State} (o : FlashOp) (hK : Kept s₀ s) :
    Kept s₀ (State.ringSpoilt s o) := by
  unfold State.ringSpoilt
  repeat' first
    | with_reducible assumption | intro _ | with_reducible apply Kept.ite | split | dsimp only [id_eq]
    | simp only [Kept.mk] | (rename_i e; with_reducible refine Kept.of_eq e ?_)

theorem State.ringProgEnd_kept {s₀ : State} {s : State} (o : FlashOp) (ok : Bool) (hK : Kept s₀ s) :
    Kept s₀ (State.ringProgEnd s o ok) := by
  unfold State.ringProgEnd
  repeat' first
    | with_reducible assumption | with_reducible apply State.setOps_kept | with_reducible apply State.progNow_kept
    | with_reducible apply State.flashFailed_kept | with_reducible apply State.progCut_kept
    | with_reducible apply State.ringSpoilt_kept | with_reducible apply State.ringTook_kept
    | with_reducible apply State.ringMissed_kept | with_reducible apply State.showPbl_kept
    | with_reducible apply State.bankNext_kept | intro _ | with_reducible apply Kept.ite | split | dsimp only [id_eq]
    | simp only [Kept.mk] | (rename_i e; with_reducible refine Kept.of_eq e ?_)

theorem State.ringEraseEnd_kept {s₀ : State} {s : State} (o : FlashOp) (ok : Bool) (hK : Kept s₀ s) :
    Kept s₀ (State.ringEraseEnd s o ok) := by
  unfold State.ringEraseEnd
  repeat' first
    | with_reducible assumption | with_reducible apply State.setOps_kept | with_reducible apply State.eraseNow_kept
    | with_reducible apply State.flashFailed_kept | with_reducible apply State.setBlk_kept
    | with_reducible apply State.ringErased_kept | with_reducible apply State.ringUnerased_kept
    | with_reducible apply State.showPbl_kept | with_reducible apply State.bankNext_kept | intro _
    | with_reducible apply Kept.ite | split | dsimp only [id_eq] | simp only [Kept.mk]
    | (rename_i e; with_reducible refine Kept.of_eq e ?_)

theorem ringProgramDone_kept {s₀ : State} (ok : Bool) {s : State} (hK : Kept s₀ s) :
    Kept s₀ (ringProgramDone ok s) := by
  unfold ringProgramDone
  repeat' first
    | with_reducible assumption | with_reducible apply State.ringProgEnd_kept | intro _
    | with_reducible apply Kept.ite | split | dsimp only [id_eq] | simp only [Kept.mk]
    | (rename_i e; with_reducible refine Kept.of_eq e ?_)

theorem ringBlockEraseDone_kept {s₀ : State} (ok : Bool) {s : State} (hK : Kept s₀ s) :
    Kept s₀ (ringBlockEraseDone ok s) := by
  unfold ringBlockEraseDone
  repeat' first
    | with_reducible assumption | with_reducible apply State.ringEraseEnd_kept | intro _
    | with_reducible apply Kept.ite | split | dsimp only [id_eq] | simp only [Kept.mk]
    | (rename_i e; with_reducible refine Kept.of_eq e ?_)

theorem State.drainBuf_kept {s₀ : State} (n : Nat) : ∀ {s : State}, Kept s₀ s → Kept s₀ (State.drainBuf n s) := by
  induction n with
  | zero => intro s h; exact h
  | succ n ih =>
    intro s h
    unfold State.drainBuf
    split
    · exact h
    · exact ih (State.ringTook_kept _ (State.progNow_kept _ _ (Kept.when _ _ h fun u hu =>
        State.ringErased_kept _ (State.eraseNow_kept _ hu))))

theorem State.ringRecall_kept {s₀ : State} {s : State} (hK : Kept s₀ s) :
    Kept s₀ (State.ringRecall s) := by
  unfold State.ringRecall
  repeat' first
    | with_reducible assumption | with_reducible apply State.setOps_kept | with_reducible apply State.setWait_kept
    | intro _ | with_reducible apply Kept.ite | split | dsimp only [id_eq] | simp only [Kept.mk]
    | (rename_i e; with_reducible refine Kept.of_eq e ?_)

theorem State.pblClear_kept {s₀ : State} {s : State} (mb : Nat) (id : Nat) (ok : Bool) (hK : Kept s₀ s) :
    Kept s₀ (State.pblClear s mb id ok).1 := by
  unfold State.pblClear
  repeat' first
    | with_reducible assumption | with_reducible apply State.ringRecall_kept
    | with_reducible apply State.drainBuf_kept | with_reducible apply State.closeRec_kept
    | with_reducible apply State.showPbl_kept | with_reducible apply State.bankNext_kept
    | with_reducible apply State.emptyRingBlk_kept | with_reducible apply State.flashFailed_kept
    | with_reducible apply State.setBlk_kept | with_reducible apply Kept.put
    | with_reducible apply State.eraseNow_kept | with_reducible apply State.progNow_kept
    | with_reducible apply State.puts_kept | with_reducible apply State.evt_kept
    | with_reducible apply State.count_kept | intro _ | with_reducible apply Kept.ite | split | dsimp only [id_eq]
    | simp only [Kept.mk] | (rename_i e; with_reducible refine Kept.of_eq e ?_)

theorem clearEraseDone_kept {s₀ : State} (ok : Bool) {s : State} (hK : Kept s₀ s) :
    Kept s₀ (clearEraseDone ok s) := by
  unfold clearEraseDone
  repeat' first
    | with_reducible assumption | with_reducible apply State.ringEraseEnd_kept | intro _
    | with_reducible apply Kept.ite | split | dsimp only [id_eq] | simp only [Kept.mk]
    | (rename_i e; with_reducible refine Kept.of_eq e ?_)

theorem State.pblScan_kept {s₀ : State} {s : State} (hK : Kept s₀ s) :
    Kept s₀ (State.pblScan s) := by
  unfold State.pblScan
  repeat' first
    | with_reducible assumption | with_reducible apply Kept.put | with_reducible apply State.showPbl_kept
    | with_reducible apply Kept.when | with_reducible apply State.post_kept | with_reducible apply State.evt_kept
    | with_reducible apply State.countN_kept | intro _ | with_reducible apply Kept.ite | split | dsimp only [id_eq]
    | simp only [Kept.mk] | (rename_i e; with_reducible refine Kept.of_eq e ?_)

theorem execEventDescriptor_kept {s t : State} (h : execEventDescriptor s = .next t) : Kept s t := by
  have h := Host.Outcome.next.inj h; subst h; exact eventDescriptor_kept  (Kept.refl s)

theorem execRecordCloseTimer_kept {s t : State} (h : execRecordCloseTimer s = .next t) : Kept s t := by
  have h := Host.Outcome.next.inj h; subst h; exact recordCloseTimer_kept  (Kept.refl s)

theorem execRingProgramDone_kept (ok : Bool) {s t : State} (h : execRingProgramDone ok s = .next t) : Kept s t := by
  have h := Host.Outcome.next.inj h; subst h; exact ringProgramDone_kept _ (Kept.refl s)

theorem execRingBlockEraseDone_kept (ok : Bool) {s t : State} (h : execRingBlockEraseDone ok s = .next t) : Kept s t := by
  have h := Host.Outcome.next.inj h; subst h; exact ringBlockEraseDone_kept _ (Kept.refl s)

theorem execClearEraseDone_kept (ok : Bool) {s t : State} (h : execClearEraseDone ok s = .next t) : Kept s t := by
  have h := Host.Outcome.next.inj h; subst h; exact clearEraseDone_kept _ (Kept.refl s)

end Sys2Proof.Machine
end

