-- ==== Sys2Proof/Laws/KeptStripe.lean ====
section
/-!
SUPPORT. Every operation of `Machine/Stripe.lean` keeps what `Kept` names.
-/

namespace Sys2Proof.Machine

set_option Elab.async false
set_option linter.unusedTactic false
set_option linter.unreachableTactic false
set_option linter.unusedVariables false

theorem State.showStripes_kept {s₀ : State} {s : State} (hK : Kept s₀ s) :
    Kept s₀ (State.showStripes s) := by
  unfold State.showStripes
  repeat' first
    | with_reducible assumption | with_reducible apply State.puts_kept | with_reducible apply Kept.when
    | with_reducible apply State.post_kept | with_reducible apply State.evt_kept | intro _
    | with_reducible apply Kept.ite | split | dsimp only [id_eq] | simp only [Kept.mk]
    | (rename_i e; with_reducible refine Kept.of_eq e ?_)

theorem State.updStripe_kept {s₀ : State} {s : State} (no : Nat) (f : Stripe → Stripe) (hK : Kept s₀ s) :
    Kept s₀ (State.updStripe s no f) := by
  unfold State.updStripe
  repeat' first
    | with_reducible assumption | intro _ | with_reducible apply Kept.ite | split | dsimp only [id_eq]
    | simp only [Kept.mk] | (rename_i e; with_reducible refine Kept.of_eq e ?_)

theorem State.sealPacks_kept {s₀ : State} {s : State} (hK : Kept s₀ s) :
    Kept s₀ (State.sealPacks s) := by
  unfold State.sealPacks
  repeat' first
    | with_reducible assumption | with_reducible apply State.showStripes_kept | intro _
    | with_reducible apply Kept.ite | split | dsimp only [id_eq] | simp only [Kept.mk]
    | (rename_i e; with_reducible refine Kept.of_eq e ?_)

theorem State.gcStripes_kept {s₀ : State} {s : State} (hK : Kept s₀ s) :
    Kept s₀ (State.gcStripes s) := by
  unfold State.gcStripes
  repeat' first
    | with_reducible assumption | with_reducible apply State.showStripes_kept | intro _
    | with_reducible apply Kept.ite | split | dsimp only [id_eq] | simp only [Kept.mk]
    | (rename_i e; with_reducible refine Kept.of_eq e ?_)

theorem State.kvDurable_kept {s₀ : State} {s : State} (a : Nat) (bound : Nat) (hK : Kept s₀ s) :
    Kept s₀ (State.kvDurable s a bound) := by
  unfold State.kvDurable
  repeat' first
    | with_reducible assumption | with_reducible apply Kept.put | with_reducible apply State.gcStripes_kept
    | with_reducible apply Kept.foldl | with_reducible apply Kept.foldlFst | intro _ | with_reducible apply Kept.ite
    | split | dsimp only [id_eq] | simp only [Kept.mk] | (rename_i e; with_reducible refine Kept.of_eq e ?_)

end Sys2Proof.Machine
end

