-- ==== Sys2Proof/Laws/KeptLayout.lean ====
section
/-!
SUPPORT. Every operation of `Machine/Layout.lean` keeps what `Kept` names.
-/

namespace Sys2Proof.Machine

set_option Elab.async false
set_option linter.unusedTactic false
set_option linter.unreachableTactic false
set_option linter.unusedVariables false

theorem State.setZone_kept {s₀ : State} {s : State} (nsid : Nat) (z : Nat) (x : Zone) (hK : Kept s₀ s) :
    Kept s₀ (State.setZone s nsid z x) := by
  unfold State.setZone
  repeat' first
    | with_reducible assumption | intro _ | with_reducible apply Kept.ite | split | dsimp only [id_eq]
    | simp only [Kept.mk] | (rename_i e; with_reducible refine Kept.of_eq e ?_)

theorem State.setClog_kept {s₀ : State} {s : State} (a : Nat) (l : List CTrack) (hK : Kept s₀ s) :
    Kept s₀ (State.setClog s a l) := by
  unfold State.setClog
  repeat' first
    | with_reducible assumption | intro _ | with_reducible apply Kept.ite | split | dsimp only [id_eq]
    | simp only [Kept.mk] | (rename_i e; with_reducible refine Kept.of_eq e ?_)

theorem State.planCache_kept {s₀ : State} (a n : Nat) : ∀ (l : List (Nat × Nat)) {s : State}, Kept s₀ s →
    Kept s₀ (State.planCache a n l s) := by
  induction n with
  | zero => intro l s h; exact h
  | succ n ih =>
    intro l s h
    unfold State.planCache
    dsimp only
    split
    · exact h
    · split
      · exact ih _ (Kept.put _ _ (State.setClog_kept _ _ h))
      · exact ih _ (State.addJob_kept _ _ (Kept.put _ _ (State.setClog_kept _ _ h)))

theorem State.planPoint_kept {s₀ : State} {s : State} (a : Nat) (hK : Kept s₀ s) :
    Kept s₀ (State.planPoint s a) := by
  unfold State.planPoint
  repeat' first
    | with_reducible assumption | with_reducible apply State.planCache_kept | intro _ | with_reducible apply Kept.ite
    | split | dsimp only [id_eq] | simp only [Kept.mk] | (rename_i e; with_reducible refine Kept.of_eq e ?_)

end Sys2Proof.Machine
end

