-- ==== Sys2Proof/Laws/KeptObjects.lean ====
section
/-!
SUPPORT. Every operation of `Machine/Objects.lean` keeps what `Kept` names.
-/

namespace Sys2Proof.Machine

set_option Elab.async false
set_option linter.unusedTactic false
set_option linter.unreachableTactic false
set_option linter.unusedVariables false

theorem State.setBand_kept {s₀ : State} {s : State} (id : Nat) (b : Band) (hK : Kept s₀ s) :
    Kept s₀ (State.setBand s id b) := by
  unfold State.setBand
  repeat' first
    | with_reducible assumption | with_reducible apply Kept.put | intro _ | with_reducible apply Kept.ite | split
    | dsimp only [id_eq] | simp only [Kept.mk] | (rename_i e; with_reducible refine Kept.of_eq e ?_)

theorem State.stageAs_kept {s₀ : State} {s : State} (seq : Nat) (nsid : Nat) (lba : Nat) (b : Block) (hK : Kept s₀ s) :
    Kept s₀ (State.stageAs s seq nsid lba b) := by
  unfold State.stageAs
  repeat' first
    | with_reducible assumption | with_reducible apply State.partWrite_kept | intro _ | with_reducible apply Kept.ite
    | split | dsimp only [id_eq] | simp only [Kept.mk] | (rename_i e; with_reducible refine Kept.of_eq e ?_)

theorem State.stage_kept {s₀ : State} {s : State} (nsid : Nat) (lba : Nat) (b : Block) (hK : Kept s₀ s) :
    Kept s₀ (State.stage s nsid lba b) := by
  unfold State.stage
  repeat' first
    | with_reducible assumption | with_reducible apply State.stageAs_kept | intro _ | with_reducible apply Kept.ite
    | split | dsimp only [id_eq] | simp only [Kept.mk] | (rename_i e; with_reducible refine Kept.of_eq e ?_)

theorem State.stageAll_kept {s₀ : State} (nsid : Nat) (l : List Block) : ∀ {s : State} (lba : Nat), Kept s₀ s →
    Kept s₀ (State.stageAll s nsid lba l) := by
  induction l with
  | nil => intro s lba h; unfold State.stageAll; simpa only [Kept.mk] using h
  | cons b bs ih => intro s lba h; exact ih _ (State.stage_kept _ _ _ h)

theorem State.trackDue_kept {s₀ : State} {s : State} (nsid : Nat) (lba : Nat) (hK : Kept s₀ s) :
    Kept s₀ (State.trackDue s nsid lba) := by
  unfold State.trackDue
  repeat' first
    | with_reducible assumption | with_reducible apply State.addJob_kept | intro _ | with_reducible apply Kept.ite
    | split | dsimp only [id_eq] | simp only [Kept.mk] | (rename_i e; with_reducible refine Kept.of_eq e ?_)

theorem State.dueRun_kept {s₀ : State} {s : State} (nsid : Nat) (lba : Nat) (n : Nat) (hK : Kept s₀ s) :
    Kept s₀ (State.dueRun s nsid lba n) := by
  unfold State.dueRun
  repeat' first
    | with_reducible assumption | with_reducible apply Kept.forAll | with_reducible apply State.trackDue_kept
    | intro _ | with_reducible apply Kept.ite | split | dsimp only [id_eq] | simp only [Kept.mk]
    | (rename_i e; with_reducible refine Kept.of_eq e ?_)

theorem State.showIdx_kept {s₀ : State} {s : State} (old : Nat) (hK : Kept s₀ s) :
    Kept s₀ (State.showIdx s old) := by
  unfold State.showIdx
  repeat' first
    | with_reducible assumption | with_reducible apply Kept.when | with_reducible apply Kept.put
    | with_reducible apply State.post_kept | with_reducible apply State.evt_kept | intro _
    | with_reducible apply Kept.ite | split | dsimp only [id_eq] | simp only [Kept.mk]
    | (rename_i e; with_reducible refine Kept.of_eq e ?_)

theorem State.kvSetOn_kept {s₀ : State} {s : State} (seq : Nat) (a : Nat) (nsid : Nat) (key : Nat) (e : Option KvEnt) (hK : Kept s₀ s) :
    Kept s₀ (State.kvSetOn s seq a nsid key e) := by
  unfold State.kvSetOn
  repeat' first
    | with_reducible assumption | with_reducible apply State.partWrite_kept | with_reducible apply State.showIdx_kept
    | intro _ | with_reducible apply Kept.ite | split | dsimp only [id_eq] | simp only [Kept.mk]
    | (rename_i e; with_reducible refine Kept.of_eq e ?_)

theorem State.kvSetAs_kept {s₀ : State} {s : State} (seq : Nat) (n : Ns) (nsid : Nat) (key : Nat) (e : Option KvEnt) (hK : Kept s₀ s) :
    Kept s₀ (State.kvSetAs s seq n nsid key e) := by
  unfold State.kvSetAs
  repeat' first
    | with_reducible assumption | with_reducible apply State.kvSetOn_kept | intro _ | with_reducible apply Kept.ite
    | split | dsimp only [id_eq] | simp only [Kept.mk] | (rename_i e; with_reducible refine Kept.of_eq e ?_)

theorem State.kvSet_kept {s₀ : State} {s : State} (n : Ns) (nsid : Nat) (key : Nat) (e : Option KvEnt) (hK : Kept s₀ s) :
    Kept s₀ (State.kvSet s n nsid key e) := by
  unfold State.kvSet
  repeat' first
    | with_reducible assumption | with_reducible apply State.kvSetAs_kept | intro _ | with_reducible apply Kept.ite
    | split | dsimp only [id_eq] | simp only [Kept.mk] | (rename_i e; with_reducible refine Kept.of_eq e ?_)

theorem State.kvAlloc_kept {s₀ s : State} (nsid a g : Nat) (h : Kept s₀ s) {x : State × Nat}
    (e : State.kvAlloc s nsid a g = some x) : Kept s₀ x.1 := by
  unfold State.kvAlloc at e
  split at e
  · cases e
  · dsimp only at e
    split at e
    · cases e; exact h
    · obtain ⟨b, _, rfl⟩ := Option.map_eq_some_iff.mp e
      simp only [Kept.mk]
      exact State.setBand_kept _ _ (State.drew_kept h)

theorem State.stageGranules_kept {s₀ : State} {s : State} (seq : Nat) (nsid : Nat) (loc : Nat) (bs : List Byte) (hK : Kept s₀ s) :
    Kept s₀ (State.stageGranules s seq nsid loc bs) := by
  unfold State.stageGranules
  repeat' first
    | with_reducible assumption | with_reducible apply State.dueRun_kept | with_reducible apply Kept.forAll
    | with_reducible apply State.stageAs_kept | intro _ | with_reducible apply Kept.ite | split | dsimp only [id_eq]
    | simp only [Kept.mk] | (rename_i e; with_reducible refine Kept.of_eq e ?_)

theorem State.kvPlaceValue_kept {s₀ : State} {s : State} (seq : Nat) (nsid : Nat) (a : Nat) (bs : List Byte) (hK : Kept s₀ s) :
    Kept s₀ (State.kvPlaceValue s seq nsid a bs).1 := by
  unfold State.kvPlaceValue
  repeat' first
    | with_reducible assumption | (rename_i heq; with_reducible refine State.kvAlloc_kept _ _ _ ?_ heq)
    | with_reducible apply State.stageGranules_kept | intro _ | with_reducible apply Kept.ite | split
    | dsimp only [id_eq] | simp only [Kept.mk] | (rename_i e; with_reducible refine Kept.of_eq e ?_)

theorem State.keepFrag_kept {s₀ : State} {s : State} (x : Stripe) (i : Nat) (hK : Kept s₀ s) :
    Kept s₀ (State.keepFrag s x i) := by
  unfold State.keepFrag
  repeat' first
    | with_reducible assumption | with_reducible apply State.kvPlaceValue_kept
    | with_reducible apply State.updStripe_kept | with_reducible apply State.kvSetAs_kept | intro _
    | with_reducible apply Kept.ite | split | dsimp only [id_eq] | simp only [Kept.mk]
    | (rename_i e; with_reducible refine Kept.of_eq e ?_)

theorem State.tidyFrags_kept {s₀ : State} {s : State} (hK : Kept s₀ s) :
    Kept s₀ (State.tidyFrags s) := by
  unfold State.tidyFrags
  repeat' first
    | with_reducible assumption | with_reducible apply Kept.forAll | with_reducible apply State.keepFrag_kept
    | with_reducible apply State.kvSetAs_kept | intro _ | with_reducible apply Kept.ite | split | dsimp only [id_eq]
    | simp only [Kept.mk] | (rename_i e; with_reducible refine Kept.of_eq e ?_)

end Sys2Proof.Machine
end

