-- ==== Sys2Proof/Laws/KeptNvme.lean ====
section
/-!
SUPPORT. Every operation of `Machine/Nvme.lean` keeps what `Kept` names.
-/

namespace Sys2Proof.Machine

set_option Elab.async false
set_option linter.unusedTactic false
set_option linter.unreachableTactic false
set_option linter.unusedVariables false

theorem State.showCmds_kept {s₀ : State} {s : State} (hK : Kept s₀ s) :
    Kept s₀ (State.showCmds s) := by
  unfold State.showCmds
  repeat' first
    | with_reducible assumption | with_reducible apply State.puts_kept | intro _ | with_reducible apply Kept.ite
    | split | dsimp only [id_eq] | simp only [Kept.mk] | (rename_i e; with_reducible refine Kept.of_eq e ?_)

theorem State.updCmd_kept {s₀ : State} {s : State} (n : Nat) (f : Cmd → Cmd) (hK : Kept s₀ s) :
    Kept s₀ (State.updCmd s n f) := by
  unfold State.updCmd
  repeat' first
    | with_reducible assumption | intro _ | with_reducible apply Kept.ite | split | dsimp only [id_eq]
    | simp only [Kept.mk] | (rename_i e; with_reducible refine Kept.of_eq e ?_)

theorem State.enlist_kept {s₀ : State} {s : State} (i : CmdId) (nsid : Nat) (ents : List TsEnt) (st : Stat) (dw0 : Nat) (hK : Kept s₀ s) :
    Kept s₀ (State.enlist s i nsid ents st dw0) := by
  unfold State.enlist
  repeat' first
    | with_reducible assumption | with_reducible apply State.showCmds_kept | with_reducible apply Kept.when
    | with_reducible apply State.count_kept | intro _ | with_reducible apply Kept.ite | split | dsimp only [id_eq]
    | simp only [Kept.mk] | (rename_i e; with_reducible refine Kept.of_eq e ?_)

theorem State.setCtrl_kept {s₀ : State} {s : State} (c : Nat) (x : Option Ctrl) (hK : Kept s₀ s) :
    Kept s₀ (State.setCtrl s c x) := by
  unfold State.setCtrl
  repeat' first
    | with_reducible assumption | with_reducible apply Kept.put | intro _ | with_reducible apply Kept.ite | split
    | dsimp only [id_eq] | simp only [Kept.mk] | (rename_i e; with_reducible refine Kept.of_eq e ?_)

theorem State.sendCqe_kept {s₀ : State} {s : State} (q : Cqe) (hK : Kept s₀ s) :
    Kept s₀ (State.sendCqe s q) := by
  unfold State.sendCqe
  repeat' first
    | with_reducible assumption | intro _ | with_reducible apply Kept.ite | split | dsimp only [id_eq]
    | simp only [Kept.mk] | (rename_i e; with_reducible refine Kept.of_eq e ?_)

theorem State.setNs_kept {s₀ : State} {s : State} (n : Nat) (x : Option Ns) (hK : Kept s₀ s) :
    Kept s₀ (State.setNs s n x) := by
  unfold State.setNs
  repeat' first
    | with_reducible assumption | intro _ | with_reducible apply Kept.ite | split | dsimp only [id_eq]
    | simp only [Kept.mk] | (rename_i e; with_reducible refine Kept.of_eq e ?_)

theorem State.beginPoint_kept {s₀ : State} {s : State} (a : Nat) (hK : Kept s₀ s) :
    Kept s₀ (State.beginPoint s a) := by
  unfold State.beginPoint
  repeat' first
    | with_reducible assumption | with_reducible apply State.tidyFrags_kept
    | with_reducible apply State.sealPacks_kept | with_reducible apply State.planPoint_kept | intro _
    | with_reducible apply Kept.ite | split | dsimp only [id_eq] | simp only [Kept.mk]
    | (rename_i e; with_reducible refine Kept.of_eq e ?_)

theorem State.drainDeletes_kept {s₀ : State} {s : State} (hK : Kept s₀ s) :
    Kept s₀ (State.drainDeletes s) := by
  unfold State.drainDeletes
  repeat' first
    | with_reducible assumption | with_reducible apply Kept.forAll | with_reducible apply State.updCmd_kept
    | with_reducible apply State.beginPoint_kept | intro _ | with_reducible apply Kept.ite | split
    | dsimp only [id_eq] | simp only [Kept.mk] | (rename_i e; with_reducible refine Kept.of_eq e ?_)

theorem State.complete_kept {s₀ : State} {s : State} (i : CmdId) (st : Stat) (dw0 : Nat) (data : Payload) (hK : Kept s₀ s) :
    Kept s₀ (State.complete s i st dw0 data) := by
  unfold State.complete
  repeat' first
    | with_reducible assumption | with_reducible apply State.showCmds_kept
    | with_reducible apply State.drainDeletes_kept | with_reducible apply State.sendCqe_kept | intro _
    | with_reducible apply Kept.ite | split | dsimp only [id_eq] | simp only [Kept.mk]
    | (rename_i e; with_reducible refine Kept.of_eq e ?_)

theorem State.unflight_kept {s₀ : State} {s : State} (id : CmdId) (hK : Kept s₀ s) :
    Kept s₀ (State.unflight s id) := by
  unfold State.unflight
  repeat' first
    | with_reducible assumption | with_reducible apply State.showCmds_kept | intro _ | with_reducible apply Kept.ite
    | split | dsimp only [id_eq] | simp only [Kept.mk] | (rename_i e; with_reducible refine Kept.of_eq e ?_)

theorem State.answer_kept {s₀ : State} {s : State} (i : CmdId) (st : Stat) (hK : Kept s₀ s) :
    Kept s₀ (State.answer s i st) := by
  unfold State.answer
  repeat' first
    | with_reducible assumption | with_reducible apply State.complete_kept | intro _ | with_reducible apply Kept.ite
    | split | dsimp only [id_eq] | simp only [Kept.mk] | (rename_i e; with_reducible refine Kept.of_eq e ?_)

theorem State.notice_kept {s₀ : State} {s : State} (c : Nat) (n : Nat) (hK : Kept s₀ s) :
    Kept s₀ (State.notice s c n) := by
  unfold State.notice
  repeat' first
    | with_reducible assumption | with_reducible apply State.setCtrl_kept | with_reducible apply State.complete_kept
    | intro _ | with_reducible apply Kept.ite | split | dsimp only [id_eq] | simp only [Kept.mk]
    | (rename_i e; with_reducible refine Kept.of_eq e ?_)

theorem State.noticeAll_kept {s₀ : State} {s : State} (cs : List Nat) (bit : Nat) (n : Nat) (hK : Kept s₀ s) :
    Kept s₀ (State.noticeAll s cs bit n) := by
  unfold State.noticeAll
  repeat' first
    | with_reducible assumption | with_reducible apply Kept.forAll | with_reducible apply State.notice_kept | intro _
    | with_reducible apply Kept.ite | split | dsimp only [id_eq] | simp only [Kept.mk]
    | (rename_i e; with_reducible refine Kept.of_eq e ?_)

end Sys2Proof.Machine
end

