-- ==== Sys2Proof/Laws/KeptMedia.lean ====
section
/-!
SUPPORT. Every operation of `Machine/Media.lean` keeps what `Kept` names.
-/

namespace Sys2Proof.Machine

set_option Elab.async false
set_option linter.unusedTactic false
set_option linter.unreachableTactic false
set_option linter.unusedVariables false

theorem wf_foldl_vol (l : List (Nat × Option Vol)) : ∀ m : List (Nat × Block),
    Tab.wf natBefore (fun _ => (0 : Block)) m = true →
    Tab.wf natBefore (fun _ => (0 : Block)) (l.foldl (fun m e => match e.2 with
      | some v => Tab.set 0 m e.1 v.blk
      | none => m) m) = true := by
  induction l with
  | nil => intro m h; exact h
  | cons e l ih =>
    intro m h
    refine ih _ ?_
    dsimp only
    split
    · exact Tab.wf_put _ _ natBefore_trans natBefore_total m _ _ h
    · exact h

theorem State.devZone_kept {s₀ : State} {s : State} (nsid : Nat) (z : Nat) (x : Zone) (hK : Kept s₀ s) :
    Kept s₀ (State.devZone s nsid z x) := by
  unfold State.devZone
  repeat' first
    | with_reducible assumption | with_reducible apply State.setZone_kept | with_reducible apply Kept.forAll
    | with_reducible apply State.setCtrl_kept | with_reducible apply State.noticeAll_kept | intro _
    | with_reducible apply Kept.ite | split | dsimp only [id_eq] | simp only [Kept.mk]
    | (rename_i e; with_reducible refine Kept.of_eq e ?_)

theorem State.zeroRange_kept {s₀ s : State} (nsid lba n : Nat) (h : Kept s₀ s) : Kept s₀ (State.zeroRange s nsid lba n) :=
  h.trans ⟨rfl, fun x => by
    rw [State.canon_iff] at x ⊢
    obtain ⟨x0, x1, x2, x3, x4, x5, x6, x7⟩ := x
    exact ⟨x0, x1, x2, x3, x4, x5, x6, Tab.wf_filter _ _ _ _ x7⟩⟩

theorem State.dropNs_kept {s₀ s : State} (nsid : Nat) (h : Kept s₀ s) : Kept s₀ (State.dropNs s nsid) :=
  h.trans ⟨rfl, fun x => by
    rw [State.canon_iff] at x ⊢
    obtain ⟨x0, x1, x2, x3, x4, x5, x6, x7⟩ := x
    exact ⟨x0, x1, x2, x3, x4, x5, x6, Tab.wf_filter _ _ _ _ x7⟩⟩

theorem State.land_kept {s₀ : State} {s : State} (nsid : Nat) (lba : Nat) (n : Nat) (hK : Kept s₀ s) :
    Kept s₀ (State.land s nsid lba n) := by
  unfold State.land
  repeat' first
    | with_reducible assumption | intro _ | with_reducible apply Kept.ite | split | dsimp only [id_eq]
    | simp only [Kept.mk] | (rename_i e; with_reducible refine Kept.of_eq e ?_)

theorem State.putTrack_kept {s₀ : State} {s : State} (a : Nat) (j : Job) (x : MTrack) (hK : Kept s₀ s) :
    Kept s₀ (State.putTrack s a j x) := by
  unfold State.putTrack
  repeat' first
    | with_reducible assumption | intro _ | with_reducible apply Kept.ite | split | dsimp only [id_eq]
    | simp only [Kept.mk] | (rename_i e; with_reducible refine Kept.of_eq e ?_)

theorem State.checkpoint_kept {s₀ : State} {s : State} (a : Nat) (hK : Kept s₀ s) :
    Kept s₀ (State.checkpoint s a) := by
  unfold State.checkpoint
  repeat' first
    | with_reducible assumption | with_reducible apply Kept.forAll | with_reducible apply State.putTrack_kept
    | intro _ | with_reducible apply Kept.ite | split | dsimp only [id_eq] | simp only [Kept.mk]
    | (rename_i e; with_reducible refine Kept.of_eq e ?_)

theorem State.sysRecord_kept {s₀ : State} {s : State} (a : Nat) (c : Nat) (hK : Kept s₀ s) :
    Kept s₀ (State.sysRecord s a c) := by
  unfold State.sysRecord
  repeat' first
    | with_reducible assumption | with_reducible apply Kept.put | with_reducible apply State.putTrack_kept
    | with_reducible apply Kept.when | with_reducible apply State.checkpoint_kept | intro _
    | with_reducible apply Kept.ite | split | dsimp only [id_eq] | simp only [Kept.mk]
    | (rename_i e; with_reducible refine Kept.of_eq e ?_)

theorem State.mapLog_kept {s₀ : State} {s : State} (a : Nat) (hK : Kept s₀ s) :
    Kept s₀ (State.mapLog s a) := by
  unfold State.mapLog
  repeat' first
    | with_reducible assumption | with_reducible apply State.sysRecord_kept | intro _ | with_reducible apply Kept.ite
    | split | dsimp only [id_eq] | simp only [Kept.mk] | (rename_i e; with_reducible refine Kept.of_eq e ?_)

theorem State.landCache_kept {s₀ : State} {s : State} (a : Nat) (c : CTrack) (hK : Kept s₀ s) :
    Kept s₀ (State.landCache s a c) := by
  unfold State.landCache
  repeat' first
    | with_reducible assumption | with_reducible apply State.setClog_kept | intro _ | with_reducible apply Kept.ite
    | split | dsimp only [id_eq] | simp only [Kept.mk] | (rename_i e; with_reducible refine Kept.of_eq e ?_)

theorem State.bandWritten_kept {s₀ : State} {s : State} (j : Job) (hK : Kept s₀ s) :
    Kept s₀ (State.bandWritten s j) := by
  unfold State.bandWritten
  repeat' first
    | with_reducible assumption | with_reducible apply State.setBand_kept | intro _ | with_reducible apply Kept.ite
    | split | dsimp only [id_eq] | simp only [Kept.mk] | (rename_i e; with_reducible refine Kept.of_eq e ?_)

theorem State.readStaged_kept {s₀ : State} {s : State} (a : Nat) (j : Job) (hK : Kept s₀ s) :
    Kept s₀ (State.readStaged s a j) := by
  unfold State.readStaged
  repeat' first
    | with_reducible assumption | with_reducible apply Kept.forAll | with_reducible apply State.partRead_kept
    | intro _ | with_reducible apply Kept.ite | split | dsimp only [id_eq] | simp only [Kept.mk]
    | (rename_i e; with_reducible refine Kept.of_eq e ?_)

theorem State.writeTrack_kept {s₀ : State} {s : State} (a : Nat) (j : Job) (hK : Kept s₀ s) :
    Kept s₀ (State.writeTrack s a j) := by
  unfold State.writeTrack
  repeat' first
    | with_reducible assumption | with_reducible apply State.landCache_kept
    | with_reducible apply State.bandWritten_kept | with_reducible apply State.readStaged_kept
    | with_reducible apply State.partWrite_kept | intro _ | with_reducible apply Kept.ite | split
    | dsimp only [id_eq] | simp only [Kept.mk] | (rename_i e; with_reducible refine Kept.of_eq e ?_)

theorem State.replayCache_kept {s₀ : State} {s : State} (a : Nat) (hK : Kept s₀ s) :
    Kept s₀ (State.replayCache s a) := by
  unfold State.replayCache
  repeat' first
    | with_reducible assumption | with_reducible apply Kept.put | with_reducible apply State.setClog_kept | intro _
    | with_reducible apply Kept.ite | split | dsimp only [id_eq] | simp only [Kept.mk]
    | (rename_i e; with_reducible refine Kept.of_eq e ?_)

theorem State.rewindKv_kept {s₀ : State} {s : State} (nsid : Nat) (hK : Kept s₀ s) :
    Kept s₀ (State.rewindKv s nsid) := by
  unfold State.rewindKv
  repeat' first
    | with_reducible assumption | with_reducible apply Kept.forAll | with_reducible apply State.setBand_kept
    | intro _ | with_reducible apply Kept.ite | split | dsimp only [id_eq] | simp only [Kept.mk]
    | (rename_i e; with_reducible refine Kept.of_eq e ?_)

theorem State.loseVolatile_kept {s₀ : State} {s : State} (hK : Kept s₀ s) :
    Kept s₀ (State.loseVolatile s) := by
  unfold State.loseVolatile
  repeat' first
    | with_reducible assumption | with_reducible apply Kept.forAll | with_reducible apply State.replayCache_kept
    | with_reducible apply State.rewindKv_kept | with_reducible apply Kept.foldl | with_reducible apply Kept.foldlFst
    | intro _ | with_reducible apply Kept.ite | split | dsimp only [id_eq] | simp only [Kept.mk]
    | (rename_i e; with_reducible refine Kept.of_eq e ?_)

theorem State.trimCache_kept {s₀ : State} {s : State} (a : Nat) (hK : Kept s₀ s) :
    Kept s₀ (State.trimCache s a) := by
  unfold State.trimCache
  repeat' first
    | with_reducible assumption | with_reducible apply State.setClog_kept | intro _ | with_reducible apply Kept.ite
    | split | dsimp only [id_eq] | simp only [Kept.mk] | (rename_i e; with_reducible refine Kept.of_eq e ?_)

theorem State.recordCopy_kept {s₀ : State} {s : State} (a : Nat) (c : Nat) (r : DurRec) (hK : Kept s₀ s) :
    Kept s₀ (State.recordCopy s a c r) := by
  unfold State.recordCopy
  repeat' first
    | with_reducible assumption | with_reducible apply State.sysRecord_kept | intro _ | with_reducible apply Kept.ite
    | split | dsimp only [id_eq] | simp only [Kept.mk] | (rename_i e; with_reducible refine Kept.of_eq e ?_)

theorem State.levelCopies_kept {s₀ : State} {s : State} (a : Nat) (hK : Kept s₀ s) :
    Kept s₀ (State.levelCopies s a) := by
  unfold State.levelCopies
  repeat' first
    | with_reducible assumption | with_reducible apply Kept.forAll | with_reducible apply State.recordCopy_kept
    | intro _ | with_reducible apply Kept.ite | split | dsimp only [id_eq] | simp only [Kept.mk]
    | (rename_i e; with_reducible refine Kept.of_eq e ?_)

theorem State.recordPoint_kept {s₀ : State} {s : State} (a : Nat) (bound : Nat) (copy : Nat) (hK : Kept s₀ s) :
    Kept s₀ (State.recordPoint s a bound copy) := by
  unfold State.recordPoint
  repeat' first
    | with_reducible assumption | with_reducible apply State.setClog_kept | with_reducible apply State.trimCache_kept
    | with_reducible apply Kept.when | with_reducible apply State.recordCopy_kept | with_reducible apply Kept.foldl
    | with_reducible apply Kept.foldlFst | intro _ | with_reducible apply Kept.ite | split | dsimp only [id_eq]
    | simp only [Kept.mk] | (rename_i e; with_reducible refine Kept.of_eq e ?_)

theorem State.makeDurable_kept {s₀ s : State} (a bound : Nat) (h : Kept s₀ s) : Kept s₀ (State.makeDurable s a bound) :=
  h.trans ⟨rfl, fun x => by
    rw [State.canon_iff] at x ⊢
    obtain ⟨x0, x1, x2, x3, x4, x5, x6, x7⟩ := x
    exact ⟨x0, x1, x2, x3, x4, x5, x6, wf_foldl_vol _ _ x7⟩⟩

theorem State.resumeOps_kept {s₀ : State} {s : State} (a : Nat) (hK : Kept s₀ s) :
    Kept s₀ (State.resumeOps s a) := by
  unfold State.resumeOps
  repeat' first
    | with_reducible assumption | with_reducible apply Kept.forAll | with_reducible apply State.resumeOp1_kept
    | intro _ | with_reducible apply Kept.ite | split | dsimp only [id_eq] | simp only [Kept.mk]
    | (rename_i e; with_reducible refine Kept.of_eq e ?_)

theorem State.refreshAct_kept {s₀ : State} {s : State} (a : Nat) (cblk : Nat) (ccode : Nat) (hK : Kept s₀ s) :
    Kept s₀ (State.refreshAct s a cblk ccode) := by
  unfold State.refreshAct
  repeat' first
    | with_reducible assumption | with_reducible apply State.puts_kept | with_reducible apply State.post_kept
    | with_reducible apply State.evt_kept | with_reducible apply Kept.put | with_reducible apply Kept.when
    | with_reducible apply State.resumeOps_kept | with_reducible apply State.releaseHold_kept | intro _
    | with_reducible apply Kept.ite | split | dsimp only [id_eq] | simp only [Kept.mk]
    | (rename_i e; with_reducible refine Kept.of_eq e ?_)

theorem State.jput_kept {s₀ : State} {s : State} (r : JRec) (hK : Kept s₀ s) :
    Kept s₀ (State.jput s r) := by
  unfold State.jput
  repeat' first
    | with_reducible assumption | with_reducible apply Kept.when | with_reducible apply State.reqProg_kept | intro _
    | with_reducible apply Kept.ite | split | dsimp only [id_eq] | simp only [Kept.mk]
    | (rename_i e; with_reducible refine Kept.of_eq e ?_)

theorem State.jReady_kept {s₀ : State} {s : State} (hK : Kept s₀ s) :
    Kept s₀ (State.jReady s) := by
  unfold State.jReady
  repeat' first
    | with_reducible assumption | with_reducible apply Kept.forAll | with_reducible apply State.jput_kept
    | with_reducible apply Kept.when | with_reducible apply State.reqErase_kept | intro _
    | with_reducible apply Kept.ite | split | dsimp only [id_eq] | simp only [Kept.mk]
    | (rename_i e; with_reducible refine Kept.of_eq e ?_)

theorem State.jrec_kept {s₀ : State} {s : State} (o : MOp) (step : Nat) (hK : Kept s₀ s) :
    Kept s₀ (State.jrec s o step) := by
  unfold State.jrec
  repeat' first
    | with_reducible assumption | with_reducible apply State.jput_kept | with_reducible apply Kept.when
    | with_reducible apply State.jReady_kept | intro _ | with_reducible apply Kept.ite | split | dsimp only [id_eq]
    | simp only [Kept.mk] | (rename_i e; with_reducible refine Kept.of_eq e ?_)

theorem State.setOp_kept {s₀ : State} {s : State} (o : MOp) (hK : Kept s₀ s) :
    Kept s₀ (State.setOp s o) := by
  unfold State.setOp
  repeat' first
    | with_reducible assumption | intro _ | with_reducible apply Kept.ite | split | dsimp only [id_eq]
    | simp only [Kept.mk] | (rename_i e; with_reducible refine Kept.of_eq e ?_)

theorem State.showOps_kept {s₀ : State} {s : State} (a : Nat) (hK : Kept s₀ s) :
    Kept s₀ (State.showOps s a) := by
  unfold State.showOps
  repeat' first
    | with_reducible assumption | with_reducible apply State.setBit_kept | intro _ | with_reducible apply Kept.ite
    | split | dsimp only [id_eq] | simp only [Kept.mk] | (rename_i e; with_reducible refine Kept.of_eq e ?_)

theorem State.endOp_kept {s₀ : State} {s : State} (o : MOp) (hK : Kept s₀ s) :
    Kept s₀ (State.endOp s o) := by
  unfold State.endOp
  repeat' first
    | with_reducible assumption | with_reducible apply State.showOps_kept | intro _ | with_reducible apply Kept.ite
    | split | dsimp only [id_eq] | simp only [Kept.mk] | (rename_i e; with_reducible refine Kept.of_eq e ?_)

theorem State.addOp_kept {s₀ : State} {s : State} (o : MOp) (hK : Kept s₀ s) :
    Kept s₀ (State.addOp s o) := by
  unfold State.addOp
  repeat' first
    | with_reducible assumption | intro _ | with_reducible apply Kept.ite | split | dsimp only [id_eq]
    | simp only [Kept.mk] | (rename_i e; with_reducible refine Kept.of_eq e ?_)

theorem State.beginOp_kept {s₀ : State} {s : State} (o : MOp) (hK : Kept s₀ s) :
    Kept s₀ (State.beginOp s o) := by
  unfold State.beginOp
  repeat' first
    | with_reducible assumption | with_reducible apply State.jrec_kept | with_reducible apply State.showOps_kept
    | with_reducible apply State.addOp_kept | intro _ | with_reducible apply Kept.ite | split | dsimp only [id_eq]
    | simp only [Kept.mk] | (rename_i e; with_reducible refine Kept.of_eq e ?_)

theorem State.showReloc_kept {s₀ : State} {s : State} (id : Nat) (hK : Kept s₀ s) :
    Kept s₀ (State.showReloc s id) := by
  unfold State.showReloc
  repeat' first
    | with_reducible assumption | with_reducible apply Kept.forAll | with_reducible apply State.devZone_kept
    | intro _ | with_reducible apply Kept.ite | split | dsimp only [id_eq] | simp only [Kept.mk]
    | (rename_i e; with_reducible refine Kept.of_eq e ?_)

theorem State.tryRelay_kept {s₀ : State} {s : State} (id : Nat) (hK : Kept s₀ s) :
    Kept s₀ (State.tryRelay s id) := by
  unfold State.tryRelay
  repeat' first
    | with_reducible assumption | with_reducible apply Kept.forAll | with_reducible apply State.setBand_kept
    | with_reducible apply State.beginOp_kept | intro _ | with_reducible apply Kept.ite | split | dsimp only [id_eq]
    | simp only [Kept.mk] | (rename_i e; with_reducible refine Kept.of_eq e ?_)

theorem State.relayNext_kept {s₀ : State} {s : State} (a : Nat) (hK : Kept s₀ s) :
    Kept s₀ (State.relayNext s a) := by
  unfold State.relayNext
  repeat' first
    | with_reducible assumption | with_reducible apply State.tryRelay_kept | intro _ | with_reducible apply Kept.ite
    | split | dsimp only [id_eq] | simp only [Kept.mk] | (rename_i e; with_reducible refine Kept.of_eq e ?_)

theorem State.freeBand_kept {s₀ : State} {s : State} (id : Nat) (hK : Kept s₀ s) :
    Kept s₀ (State.freeBand s id) := by
  unfold State.freeBand
  repeat' first
    | with_reducible assumption | with_reducible apply State.setBand_kept | with_reducible apply Kept.when
    | with_reducible apply State.tryRelay_kept | intro _ | with_reducible apply Kept.ite | split | dsimp only [id_eq]
    | simp only [Kept.mk] | (rename_i e; with_reducible refine Kept.of_eq e ?_)

theorem State.unhold_kept {s₀ : State} {s : State} (o : MOp) (hK : Kept s₀ s) :
    Kept s₀ (State.unhold s o) := by
  unfold State.unhold
  repeat' first
    | with_reducible assumption | with_reducible apply Kept.forAll | with_reducible apply State.setBand_kept
    | intro _ | with_reducible apply Kept.ite | split | dsimp only [id_eq] | simp only [Kept.mk]
    | (rename_i e; with_reducible refine Kept.of_eq e ?_)

theorem State.releaseSrc_kept {s₀ : State} {s : State} (o : MOp) (hK : Kept s₀ s) :
    Kept s₀ (State.releaseSrc s o) := by
  unfold State.releaseSrc
  repeat' first
    | with_reducible assumption | with_reducible apply State.setBand_kept | with_reducible apply State.tryRelay_kept
    | with_reducible apply State.freeBand_kept | intro _ | with_reducible apply Kept.ite | split | dsimp only [id_eq]
    | simp only [Kept.mk] | (rename_i e; with_reducible refine Kept.of_eq e ?_)

theorem State.abandonOp_kept {s₀ : State} {s : State} (o : MOp) (hK : Kept s₀ s) :
    Kept s₀ (State.abandonOp s o) := by
  unfold State.abandonOp
  repeat' first
    | with_reducible assumption | with_reducible apply Kept.when | with_reducible apply State.endOp_kept
    | with_reducible apply State.jrec_kept | with_reducible apply State.showReloc_kept
    | with_reducible apply State.unhold_kept | with_reducible apply State.releaseSrc_kept
    | with_reducible apply State.freeBand_kept | intro _ | with_reducible apply Kept.ite | split | dsimp only [id_eq]
    | simp only [Kept.mk] | (rename_i e; with_reducible refine Kept.of_eq e ?_)

theorem State.checkSpare_kept {s₀ : State} {s : State} (hK : Kept s₀ s) :
    Kept s₀ (State.checkSpare s) := by
  unfold State.checkSpare
  repeat' first
    | with_reducible assumption | with_reducible apply Kept.when | with_reducible apply State.post_kept
    | with_reducible apply State.evt_kept | with_reducible apply Kept.put | with_reducible apply State.noticeAll_kept
    | intro _ | with_reducible apply Kept.ite | split | dsimp only [id_eq] | simp only [Kept.mk]
    | (rename_i e; with_reducible refine Kept.of_eq e ?_)

theorem State.reclaimNext_kept {s₀ : State} {s : State} (a : Nat) (hK : Kept s₀ s) :
    Kept s₀ (State.reclaimNext s a) := by
  unfold State.reclaimNext
  repeat' first
    | with_reducible assumption | with_reducible apply State.checkSpare_kept | with_reducible apply State.jrec_kept
    | with_reducible apply State.showOps_kept | with_reducible apply State.setOp_kept
    | with_reducible apply State.setBand_kept | with_reducible apply State.drew_kept | intro _
    | with_reducible apply Kept.ite | split | dsimp only [id_eq] | simp only [Kept.mk]
    | (rename_i e; with_reducible refine Kept.of_eq e ?_)

theorem State.reclaim_kept {s₀ : State} {s : State} (src : Nat) (cause : Nat) (dcls : Nat) (hK : Kept s₀ s) :
    Kept s₀ (State.reclaim s src cause dcls) := by
  unfold State.reclaim
  repeat' first
    | with_reducible assumption | with_reducible apply State.reclaimNext_kept
    | with_reducible apply State.showReloc_kept | with_reducible apply State.addOp_kept | intro _
    | with_reducible apply Kept.ite | split | dsimp only [id_eq] | simp only [Kept.mk]
    | (rename_i e; with_reducible refine Kept.of_eq e ?_)

theorem State.clean_kept {s₀ : State} {s : State} (a : Nat) (hK : Kept s₀ s) :
    Kept s₀ (State.clean s a) := by
  unfold State.clean
  repeat' first
    | with_reducible assumption | with_reducible apply State.reclaim_kept | intro _ | with_reducible apply Kept.ite
    | split | dsimp only [id_eq] | simp only [Kept.mk] | (rename_i e; with_reducible refine Kept.of_eq e ?_)

theorem State.cleanSwitch_kept {s₀ : State} {s : State} (o : MOp) (hK : Kept s₀ s) :
    Kept s₀ (State.cleanSwitch s o) := by
  unfold State.cleanSwitch
  repeat' first
    | with_reducible assumption | with_reducible apply State.trimCache_kept | with_reducible apply State.setClog_kept
    | intro _ | with_reducible apply Kept.ite | split | dsimp only [id_eq] | simp only [Kept.mk]
    | (rename_i e; with_reducible refine Kept.of_eq e ?_)

theorem State.copyRead_kept {s₀ : State} {s : State} (x : Nat × Nat × Nat) (hK : Kept s₀ s) :
    Kept s₀ (State.copyRead s x) := by
  unfold State.copyRead
  repeat' first
    | with_reducible assumption | with_reducible apply State.memTouch_kept | with_reducible apply Kept.forAll
    | with_reducible apply State.partRead_kept | intro _ | with_reducible apply Kept.ite | split | dsimp only [id_eq]
    | simp only [Kept.mk] | (rename_i e; with_reducible refine Kept.of_eq e ?_)

theorem State.copyDone_kept {s₀ : State} {s : State} (c : Cmd) (hK : Kept s₀ s) :
    Kept s₀ (State.copyDone s c) := by
  unfold State.copyDone
  repeat' first
    | with_reducible assumption | with_reducible apply Kept.forAll | with_reducible apply State.copyRead_kept
    | with_reducible apply State.memPut_kept | intro _ | with_reducible apply Kept.ite | split | dsimp only [id_eq]
    | simp only [Kept.mk] | (rename_i e; with_reducible refine Kept.of_eq e ?_)

theorem State.sendData_kept {s₀ : State} {s : State} (c : Cmd) (hK : Kept s₀ s) :
    Kept s₀ (State.sendData s c) := by
  unfold State.sendData
  repeat' first
    | with_reducible assumption | with_reducible apply Kept.forAll | with_reducible apply State.partRead_kept
    | intro _ | with_reducible apply Kept.ite | split | dsimp only [id_eq] | simp only [Kept.mk]
    | (rename_i e; with_reducible refine Kept.of_eq e ?_)

theorem State.cmdPart_kept {s₀ : State} {s : State} (n : Nat) (st : Stat) (hK : Kept s₀ s) :
    Kept s₀ (State.cmdPart s n st) := by
  unfold State.cmdPart
  repeat' first
    | with_reducible assumption | with_reducible apply State.complete_kept | with_reducible apply Kept.when
    | with_reducible apply State.sendData_kept | with_reducible apply State.copyDone_kept
    | with_reducible apply State.updCmd_kept | intro _ | with_reducible apply Kept.ite | split | dsimp only [id_eq]
    | simp only [Kept.mk] | (rename_i e; with_reducible refine Kept.of_eq e ?_)

theorem State.endJob_kept {s₀ : State} {s : State} (a : Nat) (st : Stat) (hK : Kept s₀ s) :
    Kept s₀ (State.endJob s a st) := by
  unfold State.endJob
  repeat' first
    | with_reducible assumption | with_reducible apply Kept.when | with_reducible apply State.setJob_kept
    | with_reducible apply State.releaseHold_kept | with_reducible apply State.cmdPart_kept | intro _
    | with_reducible apply Kept.ite | split | dsimp only [id_eq] | simp only [Kept.mk]
    | (rename_i e; with_reducible refine Kept.of_eq e ?_)

theorem State.failQueued_kept {s₀ : State} {s : State} (j : Job) (st : Stat) (hK : Kept s₀ s) :
    Kept s₀ (State.failQueued s j st) := by
  unfold State.failQueued
  repeat' first
    | with_reducible assumption | with_reducible apply State.cmdPart_kept | intro _ | with_reducible apply Kept.ite
    | split | dsimp only [id_eq] | simp only [Kept.mk] | (rename_i e; with_reducible refine Kept.of_eq e ?_)

theorem State.weakTrack_kept {s₀ : State} {s : State} (a : Nat) (j : Job) (rung : Nat) (hK : Kept s₀ s) :
    Kept s₀ (State.weakTrack s a j rung) := by
  unfold State.weakTrack
  repeat' first
    | with_reducible assumption | with_reducible apply State.post_kept | with_reducible apply State.reclaim_kept
    | with_reducible apply State.devZone_kept | with_reducible apply Kept.when | intro _
    | with_reducible apply Kept.ite | split | dsimp only [id_eq] | simp only [Kept.mk]
    | (rename_i e; with_reducible refine Kept.of_eq e ?_)

theorem State.planAgain_kept {s₀ : State} {s : State} (a : Nat) (hK : Kept s₀ s) :
    Kept s₀ (State.planAgain s a) := by
  unfold State.planAgain
  repeat' first
    | with_reducible assumption | with_reducible apply State.planPoint_kept | intro _ | with_reducible apply Kept.ite
    | split | dsimp only [id_eq] | simp only [Kept.mk] | (rename_i e; with_reducible refine Kept.of_eq e ?_)

theorem State.writeFailed_kept {s₀ : State} {s : State} (a : Nat) (j : Job) (hK : Kept s₀ s) :
    Kept s₀ (State.writeFailed s a j) := by
  unfold State.writeFailed
  repeat' first
    | with_reducible assumption | with_reducible apply State.planPoint_kept | with_reducible apply State.setClog_kept
    | with_reducible apply Kept.when | with_reducible apply State.post_kept | with_reducible apply Kept.put
    | with_reducible apply State.zeroRange_kept | with_reducible apply State.devZone_kept
    | with_reducible apply State.addJob_kept | with_reducible apply State.count_kept
    | with_reducible apply State.reclaim_kept | intro _ | with_reducible apply Kept.ite | split | dsimp only [id_eq]
    | simp only [Kept.mk] | (rename_i e; with_reducible refine Kept.of_eq e ?_)

theorem State.closeShort_kept {s₀ : State} {s : State} (nsid : Nat) (z : Nat) (hK : Kept s₀ s) :
    Kept s₀ (State.closeShort s nsid z) := by
  unfold State.closeShort
  repeat' first
    | with_reducible assumption | with_reducible apply State.addJob_kept | intro _ | with_reducible apply Kept.ite
    | split | dsimp only [id_eq] | simp only [Kept.mk] | (rename_i e; with_reducible refine Kept.of_eq e ?_)

theorem State.requeue_kept {s₀ : State} {s : State} (a : Nat) (dst : Nat) (hK : Kept s₀ s) :
    Kept s₀ (State.requeue s a dst) := by
  unfold State.requeue
  repeat' first
    | with_reducible assumption | with_reducible apply State.setJugq_kept | with_reducible apply Kept.forAll
    | with_reducible apply State.trackDue_kept | intro _ | with_reducible apply Kept.ite | split | dsimp only [id_eq]
    | simp only [Kept.mk] | (rename_i e; with_reducible refine Kept.of_eq e ?_)

end Sys2Proof.Machine
end

