-- ==== Sys2Proof/Laws/KeptChannel.lean ====
section
/-!
SUPPORT. Every operation of `Machine/Channel.lean` keeps what `Kept` names.
-/

namespace Sys2Proof.Machine

set_option Elab.async false
set_option linter.unusedTactic false
set_option linter.unreachableTactic false
set_option linter.unusedVariables false

/-- A stretch of one table put in the place of the same stretch of another. -/
theorem bytesOk_splice (lo n : Nat) (m st : List (Nat × Byte)) (hm : bytesOk 0 m = true) (hs : bytesOk 0 st = true) :
    bytesOk 0 (m.filter (fun e => decide (e.1 < lo)) ++ st.filter (fun e => decide (lo ≤ e.1 ∧ e.1 < lo + n)) ++
      m.filter (fun e => decide (lo + n ≤ e.1))) = true := by
  refine Tab.wf_append _ _ _ _ (Tab.wf_append _ _ _ _ (bytesOk_filter _ _ _ hm) (bytesOk_filter _ _ _ hs) ?_)
    (bytesOk_filter _ _ _ hm) ?_
  · intro e he f hf
    have h1 := (List.mem_filter.mp he).2
    have h2 := (List.mem_filter.mp hf).2
    simp only [natBefore, decide_eq_true_eq] at *
    omega
  · intro e he f hf
    have h2 := (List.mem_filter.mp hf).2
    simp only [natBefore, decide_eq_true_eq] at *
    rcases List.mem_append.mp he with he | he
    · have h1 := (List.mem_filter.mp he).2
      simp only [decide_eq_true_eq] at h1
      omega
    · have h1 := (List.mem_filter.mp he).2
      simp only [decide_eq_true_eq] at h1
      omega

theorem State.enable_kept {s₀ : State} {s : State} (en : Fld) (chk : Fld) (conds : List (Bool × Nat)) (pass : State → State) (hK : Kept s₀ s) (hK_pass : ∀ u, Kept s₀ u → Kept s₀ (pass u)) :
    Kept s₀ (State.enable s en chk conds pass).1 := by
  unfold State.enable
  repeat' first
    | with_reducible assumption | with_reducible apply Kept.put | with_reducible apply hK_pass | intro _
    | with_reducible apply Kept.ite | split | dsimp only [id_eq] | simp only [Kept.mk]
    | (rename_i e; with_reducible refine Kept.of_eq e ?_)

theorem State.loadWin_kept {s₀ s : State} (blk sel off n : Nat) (h : Kept s₀ s) : Kept s₀ (State.loadWin s blk sel off n) :=
  h.trans ⟨rfl, fun x => by
    rw [State.canon_iff] at x ⊢
    obtain ⟨x0, x1, x2, x3, x4, x5, x6, x7⟩ := x
    exact ⟨x0, bytesOk_splice _ _ _ _ x1 x3, x2, x3, x4, x5, x6, x7⟩⟩

theorem State.loadEntry_kept {s₀ : State} {s : State} (a : Nat) (hK : Kept s₀ s) :
    Kept s₀ (State.loadEntry s a) := by
  unfold State.loadEntry
  repeat' first
    | with_reducible assumption | with_reducible apply State.setRop_kept | with_reducible apply Kept.when
    | with_reducible apply State.post_kept | with_reducible apply State.count_kept
    | with_reducible apply State.evt_kept | intro _ | with_reducible apply Kept.ite | split | dsimp only [id_eq]
    | simp only [Kept.mk] | (rename_i e; with_reducible refine Kept.of_eq e ?_)

theorem State.readData_kept {s₀ : State} {s : State} (a : Nat) (st : Stat) (hK : Kept s₀ s) :
    Kept s₀ (State.readData s a st) := by
  unfold State.readData
  repeat' first
    | with_reducible assumption | with_reducible apply Kept.forAll | with_reducible apply State.partWrite_kept
    | with_reducible apply State.updCmd_kept | intro _ | with_reducible apply Kept.ite | split | dsimp only [id_eq]
    | simp only [Kept.mk] | (rename_i e; with_reducible refine Kept.of_eq e ?_)

theorem State.readEnds_kept {s₀ : State} {s : State} (a : Nat) (st : Stat) (hK : Kept s₀ s) :
    Kept s₀ (State.readEnds s a st) := by
  unfold State.readEnds
  repeat' first
    | with_reducible assumption | with_reducible apply State.endJob_kept | with_reducible apply State.opEnded_kept
    | with_reducible apply State.dropRead_kept | with_reducible apply State.readData_kept | intro _
    | with_reducible apply Kept.ite | split | dsimp only [id_eq] | simp only [Kept.mk]
    | (rename_i e; with_reducible refine Kept.of_eq e ?_)

theorem State.finishRead_kept {s₀ : State} {s : State} (a : Nat) (st : Stat) (hK : Kept s₀ s) :
    Kept s₀ (State.finishRead s a st) := by
  unfold State.finishRead
  repeat' first
    | with_reducible assumption | with_reducible apply State.setRop_kept | with_reducible apply State.readEnds_kept
    | intro _ | with_reducible apply Kept.ite | split | dsimp only [id_eq] | simp only [Kept.mk]
    | (rename_i e; with_reducible refine Kept.of_eq e ?_)

theorem State.lastFail_kept {s₀ : State} {s : State} (a : Nat) (j : Job) (x : Nat × Nat) (rung : Nat) (hK : Kept s₀ s) :
    Kept s₀ (State.lastFail s a j x rung) := by
  unfold State.lastFail
  repeat' first
    | with_reducible assumption | with_reducible apply State.puts_kept | intro _ | with_reducible apply Kept.ite
    | split | dsimp only [id_eq] | simp only [Kept.mk] | (rename_i e; with_reducible refine Kept.of_eq e ?_)

theorem State.endLadder_kept {s₀ : State} {s : State} (a : Nat) (j : Job) (xs : List (Nat × Nat)) (rung : Nat) (hK : Kept s₀ s) :
    Kept s₀ (State.endLadder s a j xs rung) := by
  unfold State.endLadder
  repeat' first
    | with_reducible assumption | with_reducible apply Kept.forAll | with_reducible apply State.lastFail_kept
    | with_reducible apply State.post_kept | with_reducible apply State.setJob_kept | with_reducible apply Kept.put
    | with_reducible apply State.opEnded_kept | with_reducible apply State.dropRead_kept
    | with_reducible apply Kept.when | with_reducible apply State.releaseHold_kept
    | with_reducible apply State.count_kept | with_reducible apply State.finishRead_kept | intro _
    | with_reducible apply Kept.ite | split | dsimp only [id_eq] | simp only [Kept.mk]
    | (rename_i e; with_reducible refine Kept.of_eq e ?_)

theorem State.rungStep_kept {s₀ : State} {s : State} (a : Nat) (rung : Nat) (step : Nat) (hK : Kept s₀ s) :
    Kept s₀ (State.rungStep s a rung step) := by
  unfold State.rungStep
  repeat' first
    | with_reducible assumption | with_reducible apply Kept.when | with_reducible apply State.setRop_kept
    | with_reducible apply Kept.put | with_reducible apply State.rungOfs_kept | intro _
    | with_reducible apply Kept.ite | split | dsimp only [id_eq] | simp only [Kept.mk]
    | (rename_i e; with_reducible refine Kept.of_eq e ?_)

theorem State.enterRung_kept {s₀ : State} {s : State} (a : Nat) (rung : Nat) (top : Nat) (left : List (Nat × Nat)) (hK : Kept s₀ s) :
    Kept s₀ (State.enterRung s a rung top left) := by
  unfold State.enterRung
  repeat' first
    | with_reducible assumption | with_reducible apply State.finishRead_kept
    | with_reducible apply State.rungOfs_kept | with_reducible apply State.endLadder_kept
    | with_reducible apply State.rungStep_kept | with_reducible apply State.loadEntry_kept
    | with_reducible apply State.puts_kept | with_reducible apply State.setRop_kept | intro _
    | with_reducible apply Kept.ite | split | dsimp only [id_eq] | simp only [Kept.mk]
    | (rename_i e; with_reducible refine Kept.of_eq e ?_)

theorem State.passEnd_kept {s₀ : State} {s : State} (a : Nat) (hK : Kept s₀ s) :
    Kept s₀ (State.passEnd s a) := by
  unfold State.passEnd
  repeat' first
    | with_reducible assumption | with_reducible apply State.finishRead_kept
    | with_reducible apply State.enterRung_kept | intro _ | with_reducible apply Kept.ite | split
    | dsimp only [id_eq] | simp only [Kept.mk] | (rename_i e; with_reducible refine Kept.of_eq e ?_)

theorem State.sectorKnown_kept {s₀ : State} {s : State} (a : Nat) (x : Sect) (cause : Nat) (hK : Kept s₀ s) :
    Kept s₀ (State.sectorKnown s a x cause) := by
  unfold State.sectorKnown
  repeat' first
    | with_reducible assumption | with_reducible apply State.setRop_kept | with_reducible apply State.passEnd_kept
    | with_reducible apply Kept.when | with_reducible apply State.puts_kept | with_reducible apply State.count_kept
    | intro _ | with_reducible apply Kept.ite | split | dsimp only [id_eq] | simp only [Kept.mk]
    | (rename_i e; with_reducible refine Kept.of_eq e ?_)

theorem readOpStart_kept {s₀ : State} (a : Act) {s : State} (hK : Kept s₀ s) :
    Kept s₀ (readOpStart a s) := by
  unfold readOpStart
  repeat' first
    | with_reducible assumption | with_reducible apply State.puts_kept | with_reducible apply State.biasOff_kept
    | with_reducible apply State.setRop_kept | with_reducible apply State.driveHeater_kept
    | with_reducible apply Kept.when | with_reducible apply State.loadEntry_kept
    | with_reducible apply State.passEnd_kept | intro _ | with_reducible apply Kept.ite | split | dsimp only [id_eq]
    | simp only [Kept.mk] | (rename_i e; with_reducible refine Kept.of_eq e ?_)

theorem lmsApply_kept {s₀ : State} (a : Act) (l : List (Fin 26 × Int)) : ∀ {s : State}, Kept s₀ s →
    Kept s₀ (lmsApply a s l) := by
  induction l with
  | nil => intro s h; exact h
  | cons e l ih =>
    intro s h
    obtain ⟨i, v⟩ := e
    exact ih (Kept.when _ _ (State.setRop_kept _ _ h) fun u hu => State.count_kept _ (State.evt_kept _ hu))

theorem preambleAcquire_kept {s₀ : State} (a : Act) (sidx : Fin 256) (lock : Option (Fin 8)) (adapt : List (Fin 26 × Int)) {s : State} (hK : Kept s₀ s) :
    Kept s₀ (preambleAcquire a sidx lock adapt s) := by
  unfold preambleAcquire
  repeat' first
    | with_reducible assumption | with_reducible apply State.setRop_kept | with_reducible apply lmsApply_kept
    | with_reducible apply State.puts_kept | with_reducible apply Kept.put | intro _ | with_reducible apply Kept.ite
    | split | dsimp only [id_eq] | simp only [Kept.mk] | (rename_i e; with_reducible refine Kept.of_eq e ?_)

theorem acquisitionFailure_kept {s₀ : State} (a : Act) {s : State} (hK : Kept s₀ s) :
    Kept s₀ (acquisitionFailure a s) := by
  unfold acquisitionFailure
  repeat' first
    | with_reducible assumption | with_reducible apply State.evt_kept | with_reducible apply State.setRop_kept
    | intro _ | with_reducible apply Kept.ite | split | dsimp only [id_eq] | simp only [Kept.mk]
    | (rename_i e; with_reducible refine Kept.of_eq e ?_)

theorem syncFraming_kept {s₀ : State} (a : Act) (sm1 : List (Int × Nat)) (sm2 : List (Int × Nat)) {s : State} (hK : Kept s₀ s) :
    Kept s₀ (syncFraming a sm1 sm2 s) := by
  unfold syncFraming
  repeat' first
    | with_reducible assumption | with_reducible apply Kept.put | with_reducible apply State.setRop_kept
    | with_reducible apply State.count_kept | with_reducible apply State.evt_kept | intro _
    | with_reducible apply Kept.ite | split | dsimp only [id_eq] | simp only [Kept.mk]
    | (rename_i e; with_reducible refine Kept.of_eq e ?_)

theorem fsmSearch_kept {s₀ : State} (a : Act) (fsm : List (Int × Nat)) {s : State} (hK : Kept s₀ s) :
    Kept s₀ (fsmSearch a fsm s) := by
  unfold fsmSearch
  repeat' first
    | with_reducible assumption | with_reducible apply Kept.put | with_reducible apply State.setRop_kept
    | with_reducible apply State.count_kept | with_reducible apply State.evt_kept | intro _
    | with_reducible apply Kept.ite | split | dsimp only [id_eq] | simp only [Kept.mk]
    | (rename_i e; with_reducible refine Kept.of_eq e ?_)

theorem defectSpan_kept {s₀ : State} (a : Act) (cls : DefectClass) (r0 : Bool) (r1 : Bool) (start : Nat) (len : Nat) {s : State} (hK : Kept s₀ s) :
    Kept s₀ (defectSpan a cls r0 r1 start len s) := by
  unfold defectSpan
  repeat' first
    | with_reducible assumption | with_reducible apply State.evt_kept | with_reducible apply State.setRop_kept
    | with_reducible apply Kept.when | with_reducible apply State.bump_kept | with_reducible apply State.post_kept
    | intro _ | with_reducible apply Kept.ite | split | dsimp only [id_eq] | simp only [Kept.mk]
    | (rename_i e; with_reducible refine Kept.of_eq e ?_)

theorem sectorSamplesDone_kept {s₀ : State} (a : Act) (samples : List (BitVec 6 × BitVec 6)) {s : State} (hK : Kept s₀ s) :
    Kept s₀ (sectorSamplesDone a samples s) := by
  unfold sectorSamplesDone
  repeat' first
    | with_reducible assumption | with_reducible apply Kept.put | with_reducible apply State.setRop_kept
    | with_reducible apply State.finishRead_kept | with_reducible apply State.sectorKnown_kept
    | with_reducible apply Kept.when | intro _ | with_reducible apply Kept.ite | split | dsimp only [id_eq]
    | simp only [Kept.mk] | (rename_i e; with_reducible refine Kept.of_eq e ?_)

theorem ldpcConverge_kept {s₀ : State} (a : Act) (word : Option (List Bool)) {s : State} (hK : Kept s₀ s) :
    Kept s₀ (ldpcConverge a word s) := by
  unfold ldpcConverge
  repeat' first
    | with_reducible assumption | with_reducible apply State.setRop_kept
    | with_reducible apply State.sectorKnown_kept | with_reducible apply State.count_kept
    | with_reducible apply State.evt_kept | intro _ | with_reducible apply Kept.ite | split | dsimp only [id_eq]
    | simp only [Kept.mk] | (rename_i e; with_reducible refine Kept.of_eq e ?_)

theorem ldpcWindowEnd_kept {s₀ : State} (a : Act) {s : State} (hK : Kept s₀ s) :
    Kept s₀ (ldpcWindowEnd a s) := by
  unfold ldpcWindowEnd
  repeat' first
    | with_reducible assumption | with_reducible apply State.sectorKnown_kept | with_reducible apply State.count_kept
    | with_reducible apply State.evt_kept | with_reducible apply State.setRop_kept | intro _
    | with_reducible apply Kept.ite | split | dsimp only [id_eq] | simp only [Kept.mk]
    | (rename_i e; with_reducible refine Kept.of_eq e ?_)

theorem retryRung_kept {s₀ : State} (a : Act) (recovered : Bool) {s : State} (hK : Kept s₀ s) :
    Kept s₀ (retryRung a recovered s) := by
  unfold retryRung
  repeat' first
    | with_reducible assumption | with_reducible apply Kept.when | with_reducible apply State.setRop_kept
    | with_reducible apply State.weakTrack_kept | with_reducible apply State.enterRung_kept
    | with_reducible apply State.rungStep_kept | intro _ | with_reducible apply Kept.ite | split | dsimp only [id_eq]
    | simp only [Kept.mk] | (rename_i e; with_reducible refine Kept.of_eq e ?_)

theorem retryTimeLimit_kept {s₀ : State} (a : Act) {s : State} (hK : Kept s₀ s) :
    Kept s₀ (retryTimeLimit a s) := by
  unfold retryTimeLimit
  repeat' first
    | with_reducible assumption | with_reducible apply State.enterRung_kept | with_reducible apply State.post_kept
    | with_reducible apply State.setRop_kept | intro _ | with_reducible apply Kept.ite | split | dsimp only [id_eq]
    | simp only [Kept.mk] | (rename_i e; with_reducible refine Kept.of_eq e ?_)

theorem outerCodeRebuild_kept {s₀ : State} (a : Act) (reads : List (Option (List Bool))) {s : State} (hK : Kept s₀ s) :
    Kept s₀ (outerCodeRebuild a reads s) := by
  unfold outerCodeRebuild
  repeat' first
    | with_reducible assumption | with_reducible apply Kept.when | with_reducible apply State.evt_kept
    | with_reducible apply State.weakTrack_kept | with_reducible apply Kept.forAll
    | with_reducible apply State.lastFail_kept | with_reducible apply State.finishRead_kept
    | with_reducible apply State.endLadder_kept | with_reducible apply State.countN_kept
    | with_reducible apply State.post_kept | with_reducible apply State.setRop_kept | intro _
    | with_reducible apply Kept.ite | split | dsimp only [id_eq] | simp only [Kept.mk]
    | (rename_i e; with_reducible refine Kept.of_eq e ?_)

theorem State.chnEnable_kept {s₀ : State} {s : State} (a : Nat) (hK : Kept s₀ s) :
    Kept s₀ (State.chnEnable s a).1 := by
  unfold State.chnEnable
  repeat' first
    | with_reducible assumption | with_reducible apply State.loadWin_kept | with_reducible apply State.enable_kept
    | with_reducible apply State.setRop_kept | intro _ | with_reducible apply Kept.ite | split | dsimp only [id_eq]
    | simp only [Kept.mk] | (rename_i e; with_reducible refine Kept.of_eq e ?_)

theorem chnEnableCmd_kept {s₀ : State} (a : Act) {s : State} (hK : Kept s₀ s) :
    Kept s₀ (chnEnableCmd a s) := by
  unfold chnEnableCmd
  repeat' first
    | with_reducible assumption | with_reducible apply State.chnEnable_kept | intro _ | with_reducible apply Kept.ite
    | split | dsimp only [id_eq] | simp only [Kept.mk] | (rename_i e; with_reducible refine Kept.of_eq e ?_)

theorem rdAbort_kept {s₀ : State} (a : Act) {s : State} (hK : Kept s₀ s) :
    Kept s₀ (rdAbort a s) := by
  unfold rdAbort
  repeat' first
    | with_reducible assumption | with_reducible apply State.abandon_kept | with_reducible apply State.puts_kept
    | with_reducible apply State.setRop_kept | with_reducible apply State.setSeqr_kept
    | with_reducible apply Kept.put | with_reducible apply State.finishRead_kept
    | with_reducible apply State.rungOfs_kept | intro _ | with_reducible apply Kept.ite | split | dsimp only [id_eq]
    | simp only [Kept.mk] | (rename_i e; with_reducible refine Kept.of_eq e ?_)

theorem replayHold_kept {s₀ : State} (a : Act) (v : Bool) {s : State} (hK : Kept s₀ s) :
    Kept s₀ (replayHold a v s) := by
  unfold replayHold
  repeat' first
    | with_reducible assumption | with_reducible apply Kept.when | with_reducible apply State.putB_kept
    | with_reducible apply State.bump_kept | intro _ | with_reducible apply Kept.ite | split | dsimp only [id_eq]
    | simp only [Kept.mk] | (rename_i e; with_reducible refine Kept.of_eq e ?_)

theorem counterClear_kept {s₀ : State} (blk : Nat) (inst : Nat) (off : Nat) (n : Nat) {s : State} (hK : Kept s₀ s) :
    Kept s₀ (counterClear blk inst off n s) := by
  unfold counterClear
  repeat' first
    | with_reducible assumption | with_reducible apply State.counterClear_kept | intro _
    | with_reducible apply Kept.ite | split | dsimp only [id_eq] | simp only [Kept.mk]
    | (rename_i e; with_reducible refine Kept.of_eq e ?_)

theorem execReadOpStart_kept (a : Act) {s t : State} (h : execReadOpStart a s = .next t) : Kept s t := by
  have h := Host.Outcome.next.inj h; subst h; exact readOpStart_kept _ (Kept.refl s)

theorem execPreambleAcquire_kept (a : Act) (sidx : Fin 256) (lock : Option (Fin 8)) (adapt : List (Fin 26 × Int)) {s t : State} (h : execPreambleAcquire a sidx lock adapt s = .next t) : Kept s t := by
  have h := Host.Outcome.next.inj h; subst h; exact preambleAcquire_kept _ _ _ _ (Kept.refl s)

theorem execAcquisitionFailure_kept (a : Act) {s t : State} (h : execAcquisitionFailure a s = .next t) : Kept s t := by
  have h := Host.Outcome.next.inj h; subst h; exact acquisitionFailure_kept _ (Kept.refl s)

theorem execSyncFraming_kept (a : Act) (sm1 : List (Int × Nat)) (sm2 : List (Int × Nat)) {s t : State} (h : execSyncFraming a sm1 sm2 s = .next t) : Kept s t := by
  have h := Host.Outcome.next.inj h; subst h; exact syncFraming_kept _ _ _ (Kept.refl s)

theorem execFsmSearch_kept (a : Act) (fsm : List (Int × Nat)) {s t : State} (h : execFsmSearch a fsm s = .next t) : Kept s t := by
  have h := Host.Outcome.next.inj h; subst h; exact fsmSearch_kept _ _ (Kept.refl s)

theorem execDefectSpan_kept (a : Act) (cls : DefectClass) (r0 : Bool) (r1 : Bool) (start : Nat) (len : Nat) {s t : State} (h : execDefectSpan a cls r0 r1 start len s = .next t) : Kept s t := by
  have h := Host.Outcome.next.inj h; subst h; exact defectSpan_kept _ _ _ _ _ _ (Kept.refl s)

theorem execSectorSamplesDone_kept (a : Act) (samples : List (BitVec 6 × BitVec 6)) {s t : State} (h : execSectorSamplesDone a samples s = .next t) : Kept s t := by
  have h := Host.Outcome.next.inj h; subst h; exact sectorSamplesDone_kept _ _ (Kept.refl s)

theorem execLdpcConverge_kept (a : Act) (word : Option (List Bool)) {s t : State} (h : execLdpcConverge a word s = .next t) : Kept s t := by
  have h := Host.Outcome.next.inj h; subst h; exact ldpcConverge_kept _ _ (Kept.refl s)

theorem execLdpcWindowEnd_kept (a : Act) {s t : State} (h : execLdpcWindowEnd a s = .next t) : Kept s t := by
  have h := Host.Outcome.next.inj h; subst h; exact ldpcWindowEnd_kept _ (Kept.refl s)

theorem execRetryRung_kept (a : Act) (recovered : Bool) {s t : State} (h : execRetryRung a recovered s = .next t) : Kept s t := by
  have h := Host.Outcome.next.inj h; subst h; exact retryRung_kept _ _ (Kept.refl s)

theorem execRetryTimeLimit_kept (a : Act) {s t : State} (h : execRetryTimeLimit a s = .next t) : Kept s t := by
  have h := Host.Outcome.next.inj h; subst h; exact retryTimeLimit_kept _ (Kept.refl s)

theorem execOuterCodeRebuild_kept (a : Act) (reads : List (Option (List Bool))) {s t : State} (h : execOuterCodeRebuild a reads s = .next t) : Kept s t := by
  have h := Host.Outcome.next.inj h; subst h; exact outerCodeRebuild_kept _ _ (Kept.refl s)

theorem execChnEnable_kept (a : Act) {s t : State} (h : execChnEnable a s = .next t) : Kept s t := by
  have h := Host.Outcome.next.inj h; subst h; exact chnEnableCmd_kept _ (Kept.refl s)

theorem execRdAbort_kept (a : Act) {s t : State} (h : execRdAbort a s = .next t) : Kept s t := by
  have h := Host.Outcome.next.inj h; subst h; exact rdAbort_kept _ (Kept.refl s)

theorem execReplayHold_kept (a : Act) (v : Bool) {s t : State} (h : execReplayHold a v s = .next t) : Kept s t := by
  have h := Host.Outcome.next.inj h; subst h; exact replayHold_kept _ _ (Kept.refl s)

theorem execCounterClear_kept (blk : Nat) (inst : Nat) (off : Nat) (n : Nat) {s t : State} (h : execCounterClear blk inst off n s = .next t) : Kept s t := by
  have h := Host.Outcome.next.inj h; subst h; exact counterClear_kept _ _ _ _ (Kept.refl s)

end Sys2Proof.Machine
end

