-- ==== Sys2Proof/Laws/KeptSpotlight.lean ====
section
/-!
SUPPORT. Every operation of `Machine/Spotlight.lean` keeps what `Kept` names.
-/

namespace Sys2Proof.Machine

set_option Elab.async false
set_option linter.unusedTactic false
set_option linter.unreachableTactic false
set_option linter.unusedVariables false

theorem State.writeDisable_kept {s₀ : State} {s : State} (a : Nat) (l : Nat) (hK : Kept s₀ s) :
    Kept s₀ (State.writeDisable s a l) := by
  unfold State.writeDisable
  repeat' first
    | with_reducible assumption | with_reducible apply Kept.put | with_reducible apply Kept.forAll
    | with_reducible apply State.reclaim_kept | intro _ | with_reducible apply Kept.ite | split | dsimp only [id_eq]
    | simp only [Kept.mk] | (rename_i e; with_reducible refine Kept.of_eq e ?_)

theorem State.markReader_kept {s₀ : State} {s : State} (a : Nat) (l : Nat) (rdr : Nat) (hK : Kept s₀ s) :
    Kept s₀ (State.markReader s a l rdr) := by
  unfold State.markReader
  repeat' first
    | with_reducible assumption | with_reducible apply Kept.forAll | with_reducible apply State.putWin_kept | intro _
    | with_reducible apply Kept.ite | split | dsimp only [id_eq] | simp only [Kept.mk]
    | (rename_i e; with_reducible refine Kept.of_eq e ?_)

theorem State.setPeak_kept {s₀ : State} {s : State} (a : Nat) (l : Nat) (i : Nat) (hK : Kept s₀ s) :
    Kept s₀ (State.setPeak s a l i) := by
  unfold State.setPeak
  repeat' first
    | with_reducible assumption | with_reducible apply State.post_kept | with_reducible apply State.count_kept
    | with_reducible apply State.evt_kept | with_reducible apply State.paPut_kept | intro _
    | with_reducible apply Kept.ite | split | dsimp only [id_eq] | simp only [Kept.mk]
    | (rename_i e; with_reducible refine Kept.of_eq e ?_)

theorem State.loadWriteValues_kept {s₀ : State} {s : State} (a : Nat) (j : Job) (hK : Kept s₀ s) :
    Kept s₀ (State.loadWriteValues s a j) := by
  unfold State.loadWriteValues
  repeat' first
    | with_reducible assumption | with_reducible apply State.post_kept | with_reducible apply State.writeDisable_kept
    | with_reducible apply State.puts_kept | with_reducible apply State.paPut_kept
    | with_reducible apply State.setPeak_kept | intro _ | with_reducible apply Kept.ite | split | dsimp only [id_eq]
    | simp only [Kept.mk] | (rename_i e; with_reducible refine Kept.of_eq e ?_)

theorem State.showPaFlt_kept {s₀ : State} {s : State} (a : Nat) (hK : Kept s₀ s) :
    Kept s₀ (State.showPaFlt s a) := by
  unfold State.showPaFlt
  repeat' first
    | with_reducible assumption | with_reducible apply State.putB_kept | intro _ | with_reducible apply Kept.ite
    | split | dsimp only [id_eq] | simp only [Kept.mk] | (rename_i e; with_reducible refine Kept.of_eq e ?_)

theorem State.preampWrite_kept {s₀ : State} {s : State} (a : Nat) (hsel : Nat) (addr : Nat) (data : Nat) (hK : Kept s₀ s) :
    Kept s₀ (State.preampWrite s a hsel addr data) := by
  unfold State.preampWrite
  repeat' first
    | with_reducible assumption | with_reducible apply State.showPaFlt_kept | with_reducible apply State.paSet_kept
    | with_reducible apply Kept.when | with_reducible apply Kept.put | intro _ | with_reducible apply Kept.ite
    | split | dsimp only [id_eq] | simp only [Kept.mk] | (rename_i e; with_reducible refine Kept.of_eq e ?_)

theorem State.portFail_kept {s₀ : State} {s : State} (a : Nat) (hK : Kept s₀ s) :
    Kept s₀ (State.portFail s a) := by
  unfold State.portFail
  repeat' first
    | with_reducible assumption | with_reducible apply State.post_kept | with_reducible apply State.puts_kept
    | with_reducible apply State.endWrite_kept | with_reducible apply State.evt_kept | intro _
    | with_reducible apply Kept.ite | split | dsimp only [id_eq] | simp only [Kept.mk]
    | (rename_i e; with_reducible refine Kept.of_eq e ?_)

theorem State.lanyardFail_kept {s₀ : State} {s : State} (a : Nat) (hK : Kept s₀ s) :
    Kept s₀ (State.lanyardFail s a) := by
  unfold State.lanyardFail
  repeat' first
    | with_reducible assumption | with_reducible apply State.count_kept | with_reducible apply State.portFail_kept
    | with_reducible apply State.bump_kept | intro _ | with_reducible apply Kept.ite | split | dsimp only [id_eq]
    | simp only [Kept.mk] | (rename_i e; with_reducible refine Kept.of_eq e ?_)

theorem lanyardGateFrame_kept {s₀ : State} (a : Act) (code : BitVec 8) {s : State} (hK : Kept s₀ s) :
    Kept s₀ (lanyardGateFrame a code s) := by
  unfold lanyardGateFrame
  repeat' first
    | with_reducible assumption | with_reducible apply State.puts_kept | with_reducible apply Kept.when
    | with_reducible apply State.withdraw_kept | intro _ | with_reducible apply Kept.ite | split | dsimp only [id_eq]
    | simp only [Kept.mk] | (rename_i e; with_reducible refine Kept.of_eq e ?_)

theorem lanyardRegWrite_kept {s₀ : State} (a : Act) (hsel : Fin 16) (addr : Fin 2048) (data : BitVec 16) (err : BitVec 40) (ret : Option (BitVec 4)) {s : State} (hK : Kept s₀ s) :
    Kept s₀ (lanyardRegWrite a hsel addr data err ret s) := by
  unfold lanyardRegWrite
  repeat' first
    | with_reducible assumption | with_reducible apply Kept.put | with_reducible apply Kept.when
    | with_reducible apply State.preampWrite_kept | with_reducible apply State.lanyardFail_kept | intro _
    | with_reducible apply Kept.ite | split | dsimp only [id_eq] | simp only [Kept.mk]
    | (rename_i e; with_reducible refine Kept.of_eq e ?_)

theorem lanyardRegRead_kept {s₀ : State} (a : Act) (hsel : Fin 16) (addr : Fin 2048) (err : BitVec 24) (ret : Option (BitVec 16 × BitVec 8)) {s : State} (hK : Kept s₀ s) :
    Kept s₀ (lanyardRegRead a hsel addr err ret s) := by
  unfold lanyardRegRead
  repeat' first
    | with_reducible assumption | with_reducible apply Kept.put | with_reducible apply State.lanyardFail_kept
    | with_reducible apply Kept.when | with_reducible apply State.showPaFlt_kept
    | with_reducible apply State.paSet_kept | intro _ | with_reducible apply Kept.ite | split | dsimp only [id_eq]
    | simp only [Kept.mk] | (rename_i e; with_reducible refine Kept.of_eq e ?_)

theorem State.sptEnable_kept {s₀ : State} {s : State} (a : Nat) (hK : Kept s₀ s) :
    Kept s₀ (State.sptEnable s a).1 := by
  unfold State.sptEnable
  repeat' first
    | with_reducible assumption | with_reducible apply State.loadWin_kept | with_reducible apply State.enable_kept
    | with_reducible apply State.puts_kept | intro _ | with_reducible apply Kept.ite | split | dsimp only [id_eq]
    | simp only [Kept.mk] | (rename_i e; with_reducible refine Kept.of_eq e ?_)

theorem sptEnableCmd_kept {s₀ : State} (a : Act) {s : State} (hK : Kept s₀ s) :
    Kept s₀ (sptEnableCmd a s) := by
  unfold sptEnableCmd
  repeat' first
    | with_reducible assumption | with_reducible apply State.sptEnable_kept | intro _ | with_reducible apply Kept.ite
    | split | dsimp only [id_eq] | simp only [Kept.mk] | (rename_i e; with_reducible refine Kept.of_eq e ?_)

theorem State.setLoad_kept {s₀ : State} {s : State} (h : Nat) (k : Nat) (v : Nat) (hK : Kept s₀ s) :
    Kept s₀ (State.setLoad s h k v) := by
  unfold State.setLoad
  repeat' first
    | with_reducible assumption | intro _ | with_reducible apply Kept.ite | split | dsimp only [id_eq]
    | simp only [Kept.mk] | (rename_i e; with_reducible refine Kept.of_eq e ?_)

theorem State.judgeLoad_kept {s₀ : State} {s : State} (a : Nat) (l : Nat) (kind : Nat) (v : Nat) (hK : Kept s₀ s) :
    Kept s₀ (State.judgeLoad s a l kind v) := by
  unfold State.judgeLoad
  repeat' first
    | with_reducible assumption | with_reducible apply State.post_kept | with_reducible apply State.evt_kept
    | with_reducible apply State.markReader_kept | with_reducible apply State.writeDisable_kept | intro _
    | with_reducible apply Kept.ite | split | dsimp only [id_eq] | simp only [Kept.mk]
    | (rename_i e; with_reducible refine Kept.of_eq e ?_)

theorem enumerationComplete_kept {s₀ : State} (a : Act) (paId : BitVec 16) (paCap : BitVec 16) (loads : List (List Nat)) (flex : Nat) {s : State} (hK : Kept s₀ s) :
    Kept s₀ (enumerationComplete a paId paCap loads flex s) := by
  unfold enumerationComplete
  repeat' first
    | with_reducible assumption | with_reducible apply State.puts_kept | with_reducible apply Kept.forAll
    | with_reducible apply State.judgeLoad_kept | with_reducible apply State.setLoad_kept
    | with_reducible apply State.paPut_kept | with_reducible apply Kept.when | with_reducible apply Kept.put
    | with_reducible apply State.post_kept | with_reducible apply State.evt_kept | intro _
    | with_reducible apply Kept.ite | split | dsimp only [id_eq] | simp only [Kept.mk]
    | (rename_i e; with_reducible refine Kept.of_eq e ?_)

theorem preampFault_kept {s₀ : State} (a : Act) (status : BitVec 16) (stays : Bool) (latch : Bool) {s : State} (hK : Kept s₀ s) :
    Kept s₀ (preampFault a status stays latch s) := by
  unfold preampFault
  repeat' first
    | with_reducible assumption | with_reducible apply State.puts_kept | with_reducible apply State.tdAbortOn_kept
    | with_reducible apply State.endWrite_kept | with_reducible apply Kept.when | with_reducible apply Kept.put
    | with_reducible apply State.count_kept | with_reducible apply State.evt_kept
    | with_reducible apply State.paPut_kept | with_reducible apply State.writeDisable_kept
    | with_reducible apply State.markReader_kept | with_reducible apply State.putB_kept
    | with_reducible apply State.showPaFlt_kept | with_reducible apply State.paSet_kept
    | with_reducible apply State.post_kept | with_reducible apply State.portFail_kept | intro _
    | with_reducible apply Kept.ite | split | dsimp only [id_eq] | simp only [Kept.mk]
    | (rename_i e; with_reducible refine Kept.of_eq e ?_)

theorem preampWriteHoldEnd_kept {s₀ : State} (a : Act) (flagClear : Bool) {s : State} (hK : Kept s₀ s) :
    Kept s₀ (preampWriteHoldEnd a flagClear s) := by
  unfold preampWriteHoldEnd
  repeat' first
    | with_reducible assumption | with_reducible apply State.showPaFlt_kept | with_reducible apply State.paSet_kept
    | with_reducible apply State.puts_kept | with_reducible apply Kept.when | with_reducible apply Kept.put | intro _
    | with_reducible apply Kept.ite | split | dsimp only [id_eq] | simp only [Kept.mk]
    | (rename_i e; with_reducible refine Kept.of_eq e ?_)

theorem wrInh_kept {s₀ : State} (a : Act) (v : Bool) {s : State} (hK : Kept s₀ s) :
    Kept s₀ (wrInh a v s) := by
  unfold wrInh
  repeat' first
    | with_reducible assumption | with_reducible apply Kept.when | with_reducible apply State.putB_kept
    | with_reducible apply State.endWrite_kept | intro _ | with_reducible apply Kept.ite | split | dsimp only [id_eq]
    | simp only [Kept.mk] | (rename_i e; with_reducible refine Kept.of_eq e ?_)

theorem hdwpClear_kept {s₀ : State} (a : Act) (mask : BitVec 10) (hw : BitVec 10) {s : State} (hK : Kept s₀ s) :
    Kept s₀ (hdwpClear a mask hw s) := by
  unfold hdwpClear
  repeat' first
    | with_reducible assumption | with_reducible apply Kept.put | intro _ | with_reducible apply Kept.ite | split
    | dsimp only [id_eq] | simp only [Kept.mk] | (rename_i e; with_reducible refine Kept.of_eq e ?_)

theorem preheatDone_kept {s₀ : State} (a : Act) {s : State} (hK : Kept s₀ s) :
    Kept s₀ (preheatDone a s) := by
  unfold preheatDone
  repeat' first
    | with_reducible assumption | with_reducible apply Kept.when | with_reducible apply State.puts_kept | intro _
    | with_reducible apply Kept.ite | split | dsimp only [id_eq] | simp only [Kept.mk]
    | (rename_i e; with_reducible refine Kept.of_eq e ?_)

theorem State.holdQueue_kept {s₀ : State} {s : State} (a : Nat) (hK : Kept s₀ s) :
    Kept s₀ (State.holdQueue s a) := by
  unfold State.holdQueue
  repeat' first
    | with_reducible assumption | with_reducible apply State.puts_kept | intro _ | with_reducible apply Kept.ite
    | split | dsimp only [id_eq] | simp only [Kept.mk] | (rename_i e; with_reducible refine Kept.of_eq e ?_)

theorem State.tdHeater_kept {s₀ : State} {s : State} (a : Nat) (h : Nat) (p : Nat) (hK : Kept s₀ s) :
    Kept s₀ (State.tdHeater s a h p) := by
  unfold State.tdHeater
  repeat' first
    | with_reducible assumption | with_reducible apply State.paPut_kept | with_reducible apply State.heaterBad_kept
    | with_reducible apply State.setHeater_kept | intro _ | with_reducible apply Kept.ite | split
    | dsimp only [id_eq] | simp only [Kept.mk] | (rename_i e; with_reducible refine Kept.of_eq e ?_)

theorem State.tdBegin_kept {s₀ : State} {s : State} (a : Nat) (hK : Kept s₀ s) :
    Kept s₀ (State.tdBegin s a) := by
  unfold State.tdBegin
  repeat' first
    | with_reducible assumption | with_reducible apply State.tdHeater_kept | with_reducible apply State.goTrack_kept
    | with_reducible apply State.puts_kept | intro _ | with_reducible apply Kept.ite | split | dsimp only [id_eq]
    | simp only [Kept.mk] | (rename_i e; with_reducible refine Kept.of_eq e ?_)

theorem State.writeOpEnded_kept {s₀ : State} {s : State} (a : Nat) (hK : Kept s₀ s) :
    Kept s₀ (State.writeOpEnded s a) := by
  unfold State.writeOpEnded
  repeat' first
    | with_reducible assumption | with_reducible apply Kept.when | with_reducible apply State.tdBegin_kept
    | with_reducible apply State.puts_kept | with_reducible apply State.releaseHold_kept | intro _
    | with_reducible apply Kept.ite | split | dsimp only [id_eq] | simp only [Kept.mk]
    | (rename_i e; with_reducible refine Kept.of_eq e ?_)

theorem State.tdGo_kept {s₀ : State} {s : State} (h : Nat) (hK : Kept s₀ s) :
    Kept s₀ (State.tdGo s h).1 := by
  unfold State.tdGo
  repeat' first
    | with_reducible assumption | with_reducible apply Kept.put | with_reducible apply State.post_kept
    | with_reducible apply State.evt_kept | with_reducible apply State.puts_kept
    | with_reducible apply State.holdQueue_kept | with_reducible apply State.tdBegin_kept | intro _
    | with_reducible apply Kept.ite | split | dsimp only [id_eq] | simp only [Kept.mk]
    | (rename_i e; with_reducible refine Kept.of_eq e ?_)

theorem touchdownGo_kept {s₀ : State} (h : GHead) {s : State} (hK : Kept s₀ s) :
    Kept s₀ (touchdownGo h s) := by
  unfold touchdownGo
  repeat' first
    | with_reducible assumption | with_reducible apply State.tdGo_kept | intro _ | with_reducible apply Kept.ite
    | split | dsimp only [id_eq] | simp only [Kept.mk] | (rename_i e; with_reducible refine Kept.of_eq e ?_)

theorem State.tdEnd_kept {s₀ : State} {s : State} (a : Nat) (h : Nat) (res : Nat) (pwr : Nat) (hK : Kept s₀ s) :
    Kept s₀ (State.tdEnd s a h res pwr) := by
  unfold State.tdEnd
  repeat' first
    | with_reducible assumption | with_reducible apply State.releaseHold_kept | with_reducible apply State.evt_kept
    | with_reducible apply State.puts_kept | with_reducible apply State.paPut_kept | intro _
    | with_reducible apply Kept.ite | split | dsimp only [id_eq] | simp only [Kept.mk]
    | (rename_i e; with_reducible refine Kept.of_eq e ?_)

theorem touchdownDwellEnd_kept {s₀ : State} (energy : Nat) (offTrack : Nat) {s : State} (hK : Kept s₀ s) :
    Kept s₀ (touchdownDwellEnd energy offTrack s) := by
  unfold touchdownDwellEnd
  repeat' first
    | with_reducible assumption | with_reducible apply State.post_kept | with_reducible apply State.count_kept
    | with_reducible apply State.tdEnd_kept | with_reducible apply State.tdHeater_kept
    | with_reducible apply State.puts_kept | intro _ | with_reducible apply Kept.ite | split | dsimp only [id_eq]
    | simp only [Kept.mk] | (rename_i e; with_reducible refine Kept.of_eq e ?_)

theorem touchdownAbort_kept {s₀ : State} {s : State} (hK : Kept s₀ s) :
    Kept s₀ (touchdownAbort s) := by
  unfold touchdownAbort
  repeat' first
    | with_reducible assumption | with_reducible apply State.tdAbort_kept | intro _ | with_reducible apply Kept.ite
    | split | dsimp only [id_eq] | simp only [Kept.mk] | (rename_i e; with_reducible refine Kept.of_eq e ?_)

theorem State.measGo_kept {s₀ : State} {s : State} (a : Nat) (kind : Nat) (l : Nat) (hK : Kept s₀ s) :
    Kept s₀ (State.measGo s a kind l).1 := by
  unfold State.measGo
  repeat' first
    | with_reducible assumption | with_reducible apply State.puts_kept | with_reducible apply State.holdQueue_kept
    | with_reducible apply Kept.put | intro _ | with_reducible apply Kept.ite | split | dsimp only [id_eq]
    | simp only [Kept.mk] | (rename_i e; with_reducible refine Kept.of_eq e ?_)

theorem loadMeasureGo_kept {s₀ : State} (a : Act) (kind : Fin 8) (l : LHead) {s : State} (hK : Kept s₀ s) :
    Kept s₀ (loadMeasureGo a kind l s) := by
  unfold loadMeasureGo
  repeat' first
    | with_reducible assumption | with_reducible apply State.measGo_kept | intro _ | with_reducible apply Kept.ite
    | split | dsimp only [id_eq] | simp only [Kept.mk] | (rename_i e; with_reducible refine Kept.of_eq e ?_)

theorem loadMeasureDone_kept {s₀ : State} (a : Act) (res0 : BitVec 32) (res1 : BitVec 32) {s : State} (hK : Kept s₀ s) :
    Kept s₀ (loadMeasureDone a res0 res1 s) := by
  unfold loadMeasureDone
  repeat' first
    | with_reducible assumption | with_reducible apply State.setLoad_kept | with_reducible apply Kept.when
    | with_reducible apply Kept.put | with_reducible apply State.releaseHold_kept
    | with_reducible apply State.evt_kept | with_reducible apply State.puts_kept
    | with_reducible apply State.judgeLoad_kept | with_reducible apply State.idleHeater_kept | intro _
    | with_reducible apply Kept.ite | split | dsimp only [id_eq] | simp only [Kept.mk]
    | (rename_i e; with_reducible refine Kept.of_eq e ?_)

theorem State.tfhPass_kept {s₀ : State} {s : State} (hs : List Nat) (hK : Kept s₀ s) :
    Kept s₀ (State.tfhPass s hs) := by
  unfold State.tfhPass
  repeat' first
    | with_reducible assumption | with_reducible apply Kept.forAll | with_reducible apply Kept.put | intro _
    | with_reducible apply Kept.ite | split | dsimp only [id_eq] | simp only [Kept.mk]
    | (rename_i e; with_reducible refine Kept.of_eq e ?_)

theorem State.tfhEnable_kept {s₀ : State} {s : State} (hK : Kept s₀ s) :
    Kept s₀ (State.tfhEnable s).1 := by
  unfold State.tfhEnable
  repeat' first
    | with_reducible assumption | with_reducible apply Kept.forAll | with_reducible apply State.loadWin_kept
    | with_reducible apply State.enable_kept | with_reducible apply State.tfhPass_kept | intro _
    | with_reducible apply Kept.ite | split | dsimp only [id_eq] | simp only [Kept.mk]
    | (rename_i e; with_reducible refine Kept.of_eq e ?_)

theorem tfhEnableCmd_kept {s₀ : State} {s : State} (hK : Kept s₀ s) :
    Kept s₀ (tfhEnableCmd s) := by
  unfold tfhEnableCmd
  repeat' first
    | with_reducible assumption | with_reducible apply State.tfhEnable_kept | intro _ | with_reducible apply Kept.ite
    | split | dsimp only [id_eq] | simp only [Kept.mk] | (rename_i e; with_reducible refine Kept.of_eq e ?_)

theorem execLanyardGateFrame_kept (a : Act) (code : BitVec 8) {s t : State} (h : execLanyardGateFrame a code s = .next t) : Kept s t := by
  have h := Host.Outcome.next.inj h; subst h; exact lanyardGateFrame_kept _ _ (Kept.refl s)

theorem execLanyardRegWrite_kept (a : Act) (hsel : Fin 16) (addr : Fin 2048) (data : BitVec 16) (err : BitVec 40) (ret : Option (BitVec 4)) {s t : State} (h : execLanyardRegWrite a hsel addr data err ret s = .next t) : Kept s t := by
  have h := Host.Outcome.next.inj h; subst h; exact lanyardRegWrite_kept _ _ _ _ _ _ (Kept.refl s)

theorem execLanyardRegRead_kept (a : Act) (hsel : Fin 16) (addr : Fin 2048) (err : BitVec 24) (ret : Option (BitVec 16 × BitVec 8)) {s t : State} (h : execLanyardRegRead a hsel addr err ret s = .next t) : Kept s t := by
  have h := Host.Outcome.next.inj h; subst h; exact lanyardRegRead_kept _ _ _ _ _ (Kept.refl s)

theorem execSptEnable_kept (a : Act) {s t : State} (h : execSptEnable a s = .next t) : Kept s t := by
  have h := Host.Outcome.next.inj h; subst h; exact sptEnableCmd_kept _ (Kept.refl s)

theorem execPreampFault_kept (a : Act) (status : BitVec 16) (stays : Bool) (latch : Bool) {s t : State} (h : execPreampFault a status stays latch s = .next t) : Kept s t := by
  have h := Host.Outcome.next.inj h; subst h; exact preampFault_kept _ _ _ _ (Kept.refl s)

theorem execWrInh_kept (a : Act) (v : Bool) {s t : State} (h : execWrInh a v s = .next t) : Kept s t := by
  have h := Host.Outcome.next.inj h; subst h; exact wrInh_kept _ _ (Kept.refl s)

theorem execHdwpClear_kept (a : Act) (mask : BitVec 10) (hw : BitVec 10) {s t : State} (h : execHdwpClear a mask hw s = .next t) : Kept s t := by
  have h := Host.Outcome.next.inj h; subst h; exact hdwpClear_kept _ _ _ (Kept.refl s)

theorem execPreheatDone_kept (a : Act) {s t : State} (h : execPreheatDone a s = .next t) : Kept s t := by
  have h := Host.Outcome.next.inj h; subst h; exact preheatDone_kept _ (Kept.refl s)

theorem execTouchdownGo_kept (h : GHead) {s t : State} (h : execTouchdownGo h s = .next t) : Kept s t := by
  have h := Host.Outcome.next.inj h; subst h; exact touchdownGo_kept _ (Kept.refl s)

theorem execTouchdownDwellEnd_kept (energy : Nat) (offTrack : Nat) {s t : State} (h : execTouchdownDwellEnd energy offTrack s = .next t) : Kept s t := by
  have h := Host.Outcome.next.inj h; subst h; exact touchdownDwellEnd_kept _ _ (Kept.refl s)

theorem execTouchdownAbort_kept {s t : State} (h : execTouchdownAbort s = .next t) : Kept s t := by
  have h := Host.Outcome.next.inj h; subst h; exact touchdownAbort_kept  (Kept.refl s)

theorem execLoadMeasureGo_kept (a : Act) (kind : Fin 8) (l : LHead) {s t : State} (h : execLoadMeasureGo a kind l s = .next t) : Kept s t := by
  have h := Host.Outcome.next.inj h; subst h; exact loadMeasureGo_kept _ _ _ (Kept.refl s)

theorem execLoadMeasureDone_kept (a : Act) (res0 : BitVec 32) (res1 : BitVec 32) {s t : State} (h : execLoadMeasureDone a res0 res1 s = .next t) : Kept s t := by
  have h := Host.Outcome.next.inj h; subst h; exact loadMeasureDone_kept _ _ _ (Kept.refl s)

theorem execTfhEnable_kept {s t : State} (h : execTfhEnable s = .next t) : Kept s t := by
  have h := Host.Outcome.next.inj h; subst h; exact tfhEnableCmd_kept  (Kept.refl s)

theorem execPreampWriteHoldEnd_kept (a : Act) (flagClear : Bool) {s t : State} (h : execPreampWriteHoldEnd a flagClear s = .next t) : Kept s t := by
  have h := Host.Outcome.next.inj h; subst h; exact preampWriteHoldEnd_kept _ _ (Kept.refl s)

end Sys2Proof.Machine
end

