-- ==== Sys2Proof/Laws/KeptBarker.lean ====
section
/-!
SUPPORT. Every operation of `Machine/Barker.lean` keeps what `Kept` names.
-/

namespace Sys2Proof.Machine

set_option Elab.async false
set_option linter.unusedTactic false
set_option linter.unreachableTactic false
set_option linter.unusedVariables false

theorem State.upset_kept {s₀ : State} {s : State} (a : Nat) (addr : Nat) (f : BarkerWord) (hK : Kept s₀ s) :
    Kept s₀ (State.upset s a addr f) := by
  unfold State.upset
  repeat' first
    | with_reducible assumption | with_reducible apply State.setBstore_kept | intro _ | with_reducible apply Kept.ite
    | split | dsimp only [id_eq] | simp only [Kept.mk] | (rename_i e; with_reducible refine Kept.of_eq e ?_)

theorem State.seqRetire_kept {s₀ : State} {s : State} (a : Nat) (hK : Kept s₀ s) :
    Kept s₀ (State.seqRetire s a) := by
  unfold State.seqRetire
  repeat' first
    | with_reducible assumption | with_reducible apply State.refreshAct_kept
    | with_reducible apply State.seqPost_kept | with_reducible apply Kept.put | intro _
    | with_reducible apply Kept.ite | split | dsimp only [id_eq] | simp only [Kept.mk]
    | (rename_i e; with_reducible refine Kept.of_eq e ?_)

theorem State.seqMchk_kept {s₀ : State} {s : State} (a : Nat) (cause : Nat) (qmask : Nat) (ab : Nat) (hK : Kept s₀ s) :
    Kept s₀ (State.seqMchk s a cause qmask ab) := by
  unfold State.seqMchk
  repeat' first
    | with_reducible assumption | with_reducible apply State.stopRoutine_kept | with_reducible apply Kept.when
    | with_reducible apply State.writeAbort_kept | with_reducible apply State.puts_kept
    | with_reducible apply State.setSeqr_kept | with_reducible apply State.seqRetire_kept
    | with_reducible apply State.seqPost_kept | with_reducible apply State.seqCount_kept
    | with_reducible apply State.evt_kept | intro _ | with_reducible apply Kept.ite | split | dsimp only [id_eq]
    | simp only [Kept.mk] | (rename_i e; with_reducible refine Kept.of_eq e ?_)

theorem State.seqMiss_kept {s₀ : State} {s : State} (a : Nat) (cond : Nat) (imm : Nat) (hK : Kept s₀ s) :
    Kept s₀ (State.seqMiss s a cond imm) := by
  unfold State.seqMiss
  repeat' first
    | with_reducible assumption | with_reducible apply State.seqPost_kept | with_reducible apply State.seqCount_kept
    | with_reducible apply State.evt_kept | intro _ | with_reducible apply Kept.ite | split | dsimp only [id_eq]
    | simp only [Kept.mk] | (rename_i e; with_reducible refine Kept.of_eq e ?_)

theorem State.condTaken_kept {s₀ : State} {s : State} (a : Nat) (cond : Nat) (hK : Kept s₀ s) :
    Kept s₀ (State.condTaken s a cond) := by
  unfold State.condTaken
  repeat' first
    | with_reducible assumption | with_reducible apply Kept.put | intro _ | with_reducible apply Kept.ite | split
    | dsimp only [id_eq] | simp only [Kept.mk] | (rename_i e; with_reducible refine Kept.of_eq e ?_)

theorem State.sendWd_kept {s₀ : State} {s : State} (a : Nat) (j : Job) (first : Nat) (last : Nat) (pad : Bool) (hK : Kept s₀ s) :
    Kept s₀ (State.sendWd s a j first last pad) := by
  unfold State.sendWd
  repeat' first
    | with_reducible assumption | intro _ | with_reducible apply Kept.ite | split | dsimp only [id_eq]
    | simp only [Kept.mk] | (rename_i e; with_reducible refine Kept.of_eq e ?_)

theorem State.headSwitch_kept {s₀ : State} {s : State} (a : Nat) (j : Job) (hK : Kept s₀ s) :
    Kept s₀ (State.headSwitch s a j) := by
  unfold State.headSwitch
  repeat' first
    | with_reducible assumption | with_reducible apply State.goTrack_kept | intro _ | with_reducible apply Kept.ite
    | split | dsimp only [id_eq] | simp only [Kept.mk] | (rename_i e; with_reducible refine Kept.of_eq e ?_)

theorem State.gateActs_kept {s₀ : State} {s : State} (a : Nat) (w : BarkerWord) (now : BarkerNow) (hK : Kept s₀ s) :
    Kept s₀ (State.gateActs s a w now) := by
  unfold State.gateActs
  repeat' first
    | with_reducible assumption | with_reducible apply Kept.put | with_reducible apply Kept.when
    | with_reducible apply State.puts_kept | with_reducible apply State.sendWd_kept
    | with_reducible apply State.driveHeater_kept | with_reducible apply State.idleHeater_kept
    | with_reducible apply State.headSwitch_kept | intro _ | with_reducible apply Kept.ite | split
    | dsimp only [id_eq] | simp only [Kept.mk] | (rename_i e; with_reducible refine Kept.of_eq e ?_)

theorem State.commit_kept {s₀ : State} {s : State} (a : Nat) (hK : Kept s₀ s) :
    Kept s₀ (State.commit s a) := by
  unfold State.commit
  repeat' first
    | with_reducible assumption | with_reducible apply State.setSeqr_kept
    | with_reducible apply State.writeOpEnded_kept | with_reducible apply State.opEnded_kept
    | with_reducible apply State.writeFailed_kept | with_reducible apply State.setJob_kept
    | with_reducible apply State.land_kept | with_reducible apply State.writeTrack_kept
    | with_reducible apply State.puts_kept | with_reducible apply State.bump_kept | intro _
    | with_reducible apply Kept.ite | split | dsimp only [id_eq] | simp only [Kept.mk]
    | (rename_i e; with_reducible refine Kept.of_eq e ?_)

theorem State.trackEnded_kept {s₀ : State} {s : State} (a : Nat) (j : Option Job) (hK : Kept s₀ s) :
    Kept s₀ (State.trackEnded s a j) := by
  unfold State.trackEnded
  repeat' first
    | with_reducible assumption | with_reducible apply State.opEnded_kept | intro _ | with_reducible apply Kept.ite
    | split | dsimp only [id_eq] | simp only [Kept.mk] | (rename_i e; with_reducible refine Kept.of_eq e ?_)

theorem State.unitDone_kept {s₀ : State} {s : State} (a : Nat) (hK : Kept s₀ s) :
    Kept s₀ (State.unitDone s a) := by
  unfold State.unitDone
  repeat' first
    | with_reducible assumption | with_reducible apply State.writeOpEnded_kept
    | with_reducible apply State.trackEnded_kept | with_reducible apply State.endJob_kept
    | with_reducible apply State.setSeqr_kept | with_reducible apply Kept.put
    | with_reducible apply State.readEnds_kept | intro _ | with_reducible apply Kept.ite | split | dsimp only [id_eq]
    | simp only [Kept.mk] | (rename_i e; with_reducible refine Kept.of_eq e ?_)

theorem State.wordActs_kept {s₀ : State} {s : State} (a : Nat) (w : BarkerWord) (now : BarkerNow) (hK : Kept s₀ s) :
    Kept s₀ (State.wordActs s a w now) := by
  unfold State.wordActs
  repeat' first
    | with_reducible assumption | with_reducible apply State.gateActs_kept | with_reducible apply Kept.when
    | with_reducible apply Kept.put | with_reducible apply State.puts_kept | with_reducible apply State.putB_kept
    | with_reducible apply State.commit_kept | with_reducible apply State.unitDone_kept | intro _
    | with_reducible apply Kept.ite | split | dsimp only [id_eq] | simp only [Kept.mk]
    | (rename_i e; with_reducible refine Kept.of_eq e ?_)

theorem State.seqBoundary_kept {s₀ : State} {s : State} (a : Nat) (hK : Kept s₀ s) :
    Kept s₀ (State.seqBoundary s a) := by
  unfold State.seqBoundary
  repeat' first
    | with_reducible assumption | with_reducible apply State.puts_kept | intro _ | with_reducible apply Kept.ite
    | split | dsimp only [id_eq] | simp only [Kept.mk] | (rename_i e; with_reducible refine Kept.of_eq e ?_)

theorem State.jobAborted_kept {s₀ : State} {s : State} (a : Nat) (hK : Kept s₀ s) :
    Kept s₀ (State.jobAborted s a) := by
  unfold State.jobAborted
  repeat' first
    | with_reducible assumption | with_reducible apply State.endJob_kept | with_reducible apply State.setSeqr_kept
    | intro _ | with_reducible apply Kept.ite | split | dsimp only [id_eq] | simp only [Kept.mk]
    | (rename_i e; with_reducible refine Kept.of_eq e ?_)

theorem State.afterWord_kept {s₀ : State} {s : State} (a : Nat) (now : BarkerNow) (hK : Kept s₀ s) :
    Kept s₀ (State.afterWord s a now) := by
  unfold State.afterWord
  repeat' first
    | with_reducible assumption | with_reducible apply State.seqBoundary_kept | with_reducible apply Kept.when
    | with_reducible apply State.endWrite_kept | with_reducible apply State.unitDone_kept
    | with_reducible apply State.jobAborted_kept | intro _ | with_reducible apply Kept.ite | split
    | dsimp only [id_eq] | simp only [Kept.mk] | (rename_i e; with_reducible refine Kept.of_eq e ?_)

theorem State.seqGo_kept {s₀ : State} {s : State} (a : Nat) (pc : Nat) (hK : Kept s₀ s) :
    Kept s₀ (State.seqGo s a pc) := by
  unfold State.seqGo
  repeat' first
    | with_reducible assumption | with_reducible apply Kept.put | intro _ | with_reducible apply Kept.ite | split
    | dsimp only [id_eq] | simp only [Kept.mk] | (rename_i e; with_reducible refine Kept.of_eq e ?_)

theorem State.missed_kept {s₀ : State} {s : State} (a : Nat) (cause : Nat) (next : Nat) (hK : Kept s₀ s) :
    Kept s₀ (State.missed s a cause next) := by
  unfold State.missed
  repeat' first
    | with_reducible assumption | with_reducible apply State.endWrite_kept | with_reducible apply State.seqGo_kept
    | intro _ | with_reducible apply Kept.ite | split | dsimp only [id_eq] | simp only [Kept.mk]
    | (rename_i e; with_reducible refine Kept.of_eq e ?_)

theorem State.barker_kept {s₀ : State} {s : State} (a : Nat) (opc : Nat) (f : BarkerWord) (now : BarkerNow) (op : BarkerWord → State → State) (hK : Kept s₀ s) (hK_op : ∀ x0 u, Kept s₀ u → Kept s₀ (op x0 u)) :
    Kept s₀ (State.barker s a opc f now op) := by
  unfold State.barker
  repeat' first
    | with_reducible assumption | with_reducible apply State.upset_kept | with_reducible apply State.seqMchk_kept
    | with_reducible apply State.setSeqr_kept | with_reducible apply State.afterWord_kept
    | with_reducible apply State.missed_kept | with_reducible apply State.seqMiss_kept
    | with_reducible apply State.wordActs_kept | with_reducible apply hK_op | intro _ | with_reducible apply Kept.ite
    | split | dsimp only [id_eq] | simp only [Kept.mk] | (rename_i e; with_reducible refine Kept.of_eq e ?_)

theorem barkerNop_kept {s₀ : State} (a : Act) (f : BarkerWord) (now : BarkerNow) {s : State} (hK : Kept s₀ s) :
    Kept s₀ (barkerNop a f now s) := by
  unfold barkerNop
  repeat' first
    | with_reducible assumption | with_reducible apply State.barker_kept | with_reducible apply State.seqGo_kept
    | intro _ | with_reducible apply Kept.ite | split | dsimp only [id_eq] | simp only [Kept.mk]
    | (rename_i e; with_reducible refine Kept.of_eq e ?_)

theorem barkerJmp_kept {s₀ : State} (a : Act) (f : BarkerWord) (now : BarkerNow) {s : State} (hK : Kept s₀ s) :
    Kept s₀ (barkerJmp a f now s) := by
  unfold barkerJmp
  repeat' first
    | with_reducible assumption | with_reducible apply State.barker_kept | with_reducible apply State.seqGo_kept
    | intro _ | with_reducible apply Kept.ite | split | dsimp only [id_eq] | simp only [Kept.mk]
    | (rename_i e; with_reducible refine Kept.of_eq e ?_)

theorem barkerBr_kept {s₀ : State} (a : Act) (f : BarkerWord) (now : BarkerNow) {s : State} (hK : Kept s₀ s) :
    Kept s₀ (barkerBr a f now s) := by
  unfold barkerBr
  repeat' first
    | with_reducible assumption | with_reducible apply State.barker_kept | with_reducible apply State.seqGo_kept
    | with_reducible apply State.condTaken_kept | intro _ | with_reducible apply Kept.ite | split
    | dsimp only [id_eq] | simp only [Kept.mk] | (rename_i e; with_reducible refine Kept.of_eq e ?_)

theorem barkerCall_kept {s₀ : State} (a : Act) (f : BarkerWord) (now : BarkerNow) {s : State} (hK : Kept s₀ s) :
    Kept s₀ (barkerCall a f now s) := by
  unfold barkerCall
  repeat' first
    | with_reducible assumption | with_reducible apply State.barker_kept | with_reducible apply State.seqMchk_kept
    | with_reducible apply State.seqGo_kept | with_reducible apply State.setSeqr_kept | intro _
    | with_reducible apply Kept.ite | split | dsimp only [id_eq] | simp only [Kept.mk]
    | (rename_i e; with_reducible refine Kept.of_eq e ?_)

theorem barkerRet_kept {s₀ : State} (a : Act) (f : BarkerWord) (now : BarkerNow) {s : State} (hK : Kept s₀ s) :
    Kept s₀ (barkerRet a f now s) := by
  unfold barkerRet
  repeat' first
    | with_reducible assumption | with_reducible apply State.barker_kept | with_reducible apply State.seqMchk_kept
    | with_reducible apply State.seqGo_kept | with_reducible apply State.setSeqr_kept | intro _
    | with_reducible apply Kept.ite | split | dsimp only [id_eq] | simp only [Kept.mk]
    | (rename_i e; with_reducible refine Kept.of_eq e ?_)

theorem barkerWait_kept {s₀ : State} (a : Act) (f : BarkerWord) (now : BarkerNow) {s : State} (hK : Kept s₀ s) :
    Kept s₀ (barkerWait a f now s) := by
  unfold barkerWait
  repeat' first
    | with_reducible assumption | with_reducible apply State.barker_kept | with_reducible apply State.seqMiss_kept
    | with_reducible apply State.missed_kept | with_reducible apply State.seqGo_kept
    | with_reducible apply State.condTaken_kept | with_reducible apply Kept.when
    | with_reducible apply State.puts_kept | with_reducible apply Kept.put | intro _ | with_reducible apply Kept.ite
    | split | dsimp only [id_eq] | simp only [Kept.mk] | (rename_i e; with_reducible refine Kept.of_eq e ?_)

theorem State.setAcc_kept {s₀ : State} {s : State} (a : Nat) (d : Nat) (v : Nat) (hK : Kept s₀ s) :
    Kept s₀ (State.setAcc s a d v) := by
  unfold State.setAcc
  repeat' first
    | with_reducible assumption | with_reducible apply State.setSeqr_kept | intro _ | with_reducible apply Kept.ite
    | split | dsimp only [id_eq] | simp only [Kept.mk] | (rename_i e; with_reducible refine Kept.of_eq e ?_)

theorem barkerLoad_kept {s₀ : State} (a : Act) (f : BarkerWord) (now : BarkerNow) {s : State} (hK : Kept s₀ s) :
    Kept s₀ (barkerLoad a f now s) := by
  unfold barkerLoad
  repeat' first
    | with_reducible assumption | with_reducible apply State.barker_kept | with_reducible apply State.seqGo_kept
    | with_reducible apply State.setAcc_kept | intro _ | with_reducible apply Kept.ite | split | dsimp only [id_eq]
    | simp only [Kept.mk] | (rename_i e; with_reducible refine Kept.of_eq e ?_)

theorem barkerAdd_kept {s₀ : State} (a : Act) (f : BarkerWord) (now : BarkerNow) {s : State} (hK : Kept s₀ s) :
    Kept s₀ (barkerAdd a f now s) := by
  unfold barkerAdd
  repeat' first
    | with_reducible assumption | with_reducible apply State.barker_kept | with_reducible apply State.seqGo_kept
    | with_reducible apply State.setAcc_kept | intro _ | with_reducible apply Kept.ite | split | dsimp only [id_eq]
    | simp only [Kept.mk] | (rename_i e; with_reducible refine Kept.of_eq e ?_)

theorem State.routineEnds_kept {s₀ : State} {s : State} (a : Nat) (hK : Kept s₀ s) :
    Kept s₀ (State.routineEnds s a) := by
  unfold State.routineEnds
  repeat' first
    | with_reducible assumption | with_reducible apply State.unitDone_kept | with_reducible apply State.setSeqr_kept
    | with_reducible apply State.endJob_kept | intro _ | with_reducible apply Kept.ite | split | dsimp only [id_eq]
    | simp only [Kept.mk] | (rename_i e; with_reducible refine Kept.of_eq e ?_)

theorem barkerEnd_kept {s₀ : State} (a : Act) (f : BarkerWord) (now : BarkerNow) {s : State} (hK : Kept s₀ s) :
    Kept s₀ (barkerEnd a f now s) := by
  unfold barkerEnd
  repeat' first
    | with_reducible assumption | with_reducible apply State.barker_kept | with_reducible apply State.puts_kept
    | with_reducible apply State.toIdle_kept | with_reducible apply Kept.when | with_reducible apply State.evt_kept
    | with_reducible apply State.setSeqr_kept | with_reducible apply State.jobAborted_kept
    | with_reducible apply State.routineEnds_kept | intro _ | with_reducible apply Kept.ite | split
    | dsimp only [id_eq] | simp only [Kept.mk] | (rename_i e; with_reducible refine Kept.of_eq e ?_)

theorem State.waitEnds_kept {s₀ : State} {s : State} (a : Nat) (pc : Nat) (hK : Kept s₀ s) :
    Kept s₀ (State.waitEnds s a pc) := by
  unfold State.waitEnds
  repeat' first
    | with_reducible assumption | with_reducible apply State.seqGo_kept | with_reducible apply Kept.when
    | with_reducible apply Kept.put | intro _ | with_reducible apply Kept.ite | split | dsimp only [id_eq]
    | simp only [Kept.mk] | (rename_i e; with_reducible refine Kept.of_eq e ?_)

theorem barkerWaitMet_kept {s₀ : State} (a : Act) (now : BarkerNow) {s : State} (hK : Kept s₀ s) :
    Kept s₀ (barkerWaitMet a now s) := by
  unfold barkerWaitMet
  repeat' first
    | with_reducible assumption | with_reducible apply State.afterWord_kept
    | with_reducible apply State.waitEnds_kept | with_reducible apply State.condTaken_kept | intro _
    | with_reducible apply Kept.ite | split | dsimp only [id_eq] | simp only [Kept.mk]
    | (rename_i e; with_reducible refine Kept.of_eq e ?_)

theorem barkerWaitTimeout_kept {s₀ : State} (a : Act) (now : BarkerNow) {s : State} (hK : Kept s₀ s) :
    Kept s₀ (barkerWaitTimeout a now s) := by
  unfold barkerWaitTimeout
  repeat' first
    | with_reducible assumption | with_reducible apply barkerWaitMet_kept | with_reducible apply State.seqMiss_kept
    | with_reducible apply State.afterWord_kept | with_reducible apply State.waitEnds_kept
    | with_reducible apply State.missed_kept | intro _ | with_reducible apply Kept.ite | split | dsimp only [id_eq]
    | simp only [Kept.mk] | (rename_i e; with_reducible refine Kept.of_eq e ?_)

theorem State.trackStart_kept {s₀ : State} {s : State} (a : Nat) (j : Job) (kind : RoutineKind) (hK : Kept s₀ s) :
    Kept s₀ (State.trackStart s a j kind) := by
  unfold State.trackStart
  repeat' first
    | with_reducible assumption | with_reducible apply State.loadWriteValues_kept | with_reducible apply Kept.when
    | intro _ | with_reducible apply Kept.ite | split | dsimp only [id_eq] | simp only [Kept.mk]
    | (rename_i e; with_reducible refine Kept.of_eq e ?_)

theorem State.enterRoutine_kept {s₀ : State} {s : State} (a : Nat) (id : Nat) (j : Option Job) (kind : RoutineKind) (hK : Kept s₀ s) :
    Kept s₀ (State.enterRoutine s a id j kind) := by
  unfold State.enterRoutine
  repeat' first
    | with_reducible assumption | with_reducible apply State.puts_kept | with_reducible apply State.setSeqr_kept
    | with_reducible apply State.seqMchk_kept | with_reducible apply Kept.forAll
    | with_reducible apply State.trackStart_kept | intro _ | with_reducible apply Kept.ite | split
    | dsimp only [id_eq] | simp only [Kept.mk] | (rename_i e; with_reducible refine Kept.of_eq e ?_)

theorem routineStart_kept {s₀ : State} (a : Act) (id : Fin 64) (flip : BarkerWord) (kind : RoutineKind) {s : State} (hK : Kept s₀ s) :
    Kept s₀ (routineStart a id flip kind s) := by
  unfold routineStart
  repeat' first
    | with_reducible assumption | with_reducible apply State.upset_kept
    | with_reducible apply State.enterRoutine_kept | with_reducible apply State.setSeqr_kept
    | with_reducible apply Kept.put | intro _ | with_reducible apply Kept.ite | split | dsimp only [id_eq]
    | simp only [Kept.mk] | (rename_i e; with_reducible refine Kept.of_eq e ?_)

theorem jobRestart_kept {s₀ : State} (a : Act) {s : State} (hK : Kept s₀ s) :
    Kept s₀ (jobRestart a s) := by
  unfold jobRestart
  repeat' first
    | with_reducible assumption | with_reducible apply State.unitDone_kept | with_reducible apply State.setSeqr_kept
    | with_reducible apply State.seqPost_kept | with_reducible apply State.evt_kept
    | with_reducible apply State.writeFailed_kept | with_reducible apply State.setJob_kept
    | with_reducible apply State.endJob_kept | with_reducible apply Kept.when
    | with_reducible apply State.seqCount_kept | with_reducible apply State.enterRoutine_kept | intro _
    | with_reducible apply Kept.ite | split | dsimp only [id_eq] | simp only [Kept.mk]
    | (rename_i e; with_reducible refine Kept.of_eq e ?_)

theorem State.seqEnable_kept {s₀ : State} {s : State} (a : Nat) (crcPass : Bool) (hK : Kept s₀ s) :
    Kept s₀ (State.seqEnable s a crcPass).1 := by
  unfold State.seqEnable
  repeat' first
    | with_reducible assumption | with_reducible apply State.enable_kept | with_reducible apply State.imageRead_kept
    | with_reducible apply State.setBstore_kept | with_reducible apply State.puts_kept
    | with_reducible apply State.toIdle_kept | intro _ | with_reducible apply Kept.ite | split | dsimp only [id_eq]
    | simp only [Kept.mk] | (rename_i e; with_reducible refine Kept.of_eq e ?_)

theorem seqEnableCmd_kept {s₀ : State} (a : Act) (crcPass : Bool) {s : State} (hK : Kept s₀ s) :
    Kept s₀ (seqEnableCmd a crcPass s) := by
  unfold seqEnableCmd
  repeat' first
    | with_reducible assumption | with_reducible apply State.seqEnable_kept | intro _ | with_reducible apply Kept.ite
    | split | dsimp only [id_eq] | simp only [Kept.mk] | (rename_i e; with_reducible refine Kept.of_eq e ?_)

theorem State.seqDisable_kept {s₀ : State} {s : State} (a : Nat) (hK : Kept s₀ s) :
    Kept s₀ (State.seqDisable s a) := by
  unfold State.seqDisable
  repeat' first
    | with_reducible assumption | with_reducible apply State.puts_kept | intro _ | with_reducible apply Kept.ite
    | split | dsimp only [id_eq] | simp only [Kept.mk] | (rename_i e; with_reducible refine Kept.of_eq e ?_)

theorem seqMchkRecovery_kept {s₀ : State} (a : Act) (crcPass : Bool) {s : State} (hK : Kept s₀ s) :
    Kept s₀ (seqMchkRecovery a crcPass s) := by
  unfold seqMchkRecovery
  repeat' first
    | with_reducible assumption | with_reducible apply State.seqEnable_kept
    | with_reducible apply State.seqDisable_kept | with_reducible apply Kept.when
    | with_reducible apply State.releaseHold_kept | intro _ | with_reducible apply Kept.ite | split
    | dsimp only [id_eq] | simp only [Kept.mk] | (rename_i e; with_reducible refine Kept.of_eq e ?_)

theorem seqScrubPass_kept {s₀ : State} (a : Act) (flips : List (Fin 4096 × BarkerWord)) (reloaded : Bool) {s : State} (hK : Kept s₀ s) :
    Kept s₀ (seqScrubPass a flips reloaded s) := by
  unfold seqScrubPass
  repeat' first
    | with_reducible assumption | with_reducible apply Kept.forAll | with_reducible apply State.upset_kept
    | with_reducible apply State.seqPost_kept | with_reducible apply State.seqCount_kept
    | with_reducible apply State.evt_kept | with_reducible apply Kept.put | with_reducible apply State.imageRead_kept
    | with_reducible apply State.setBstore_kept | intro _ | with_reducible apply Kept.ite | split
    | dsimp only [id_eq] | simp only [Kept.mk] | (rename_i e; with_reducible refine Kept.of_eq e ?_)

theorem execSeqEnable_kept (a : Act) (crcPass : Bool) {s t : State} (h : execSeqEnable a crcPass s = .next t) : Kept s t := by
  have h := Host.Outcome.next.inj h; subst h; exact seqEnableCmd_kept _ _ (Kept.refl s)

theorem execRoutineStart_kept (a : Act) (id : Fin 64) (flip : BarkerWord) (kind : RoutineKind) {s t : State} (h : execRoutineStart a id flip kind s = .next t) : Kept s t := by
  have h := Host.Outcome.next.inj h; subst h; exact routineStart_kept _ _ _ _ (Kept.refl s)

theorem execBarkerNop_kept (a : Act) (flip : BarkerWord) (now : BarkerNow) {s t : State} (h : execBarkerNop a flip now s = .next t) : Kept s t := by
  have h := Host.Outcome.next.inj h; subst h; exact barkerNop_kept _ _ _ (Kept.refl s)

theorem execBarkerJmp_kept (a : Act) (flip : BarkerWord) (now : BarkerNow) {s t : State} (h : execBarkerJmp a flip now s = .next t) : Kept s t := by
  have h := Host.Outcome.next.inj h; subst h; exact barkerJmp_kept _ _ _ (Kept.refl s)

theorem execBarkerBr_kept (a : Act) (flip : BarkerWord) (now : BarkerNow) {s t : State} (h : execBarkerBr a flip now s = .next t) : Kept s t := by
  have h := Host.Outcome.next.inj h; subst h; exact barkerBr_kept _ _ _ (Kept.refl s)

theorem execBarkerCall_kept (a : Act) (flip : BarkerWord) (now : BarkerNow) {s t : State} (h : execBarkerCall a flip now s = .next t) : Kept s t := by
  have h := Host.Outcome.next.inj h; subst h; exact barkerCall_kept _ _ _ (Kept.refl s)

theorem execBarkerRet_kept (a : Act) (flip : BarkerWord) (now : BarkerNow) {s t : State} (h : execBarkerRet a flip now s = .next t) : Kept s t := by
  have h := Host.Outcome.next.inj h; subst h; exact barkerRet_kept _ _ _ (Kept.refl s)

theorem execBarkerWait_kept (a : Act) (flip : BarkerWord) (now : BarkerNow) {s t : State} (h : execBarkerWait a flip now s = .next t) : Kept s t := by
  have h := Host.Outcome.next.inj h; subst h; exact barkerWait_kept _ _ _ (Kept.refl s)

theorem execBarkerLoad_kept (a : Act) (flip : BarkerWord) (now : BarkerNow) {s t : State} (h : execBarkerLoad a flip now s = .next t) : Kept s t := by
  have h := Host.Outcome.next.inj h; subst h; exact barkerLoad_kept _ _ _ (Kept.refl s)

theorem execBarkerAdd_kept (a : Act) (flip : BarkerWord) (now : BarkerNow) {s t : State} (h : execBarkerAdd a flip now s = .next t) : Kept s t := by
  have h := Host.Outcome.next.inj h; subst h; exact barkerAdd_kept _ _ _ (Kept.refl s)

theorem execBarkerEnd_kept (a : Act) (flip : BarkerWord) (now : BarkerNow) {s t : State} (h : execBarkerEnd a flip now s = .next t) : Kept s t := by
  have h := Host.Outcome.next.inj h; subst h; exact barkerEnd_kept _ _ _ (Kept.refl s)

theorem execBarkerWaitMet_kept (a : Act) (now : BarkerNow) {s t : State} (h : execBarkerWaitMet a now s = .next t) : Kept s t := by
  have h := Host.Outcome.next.inj h; subst h; exact barkerWaitMet_kept _ _ (Kept.refl s)

theorem execBarkerWaitTimeout_kept (a : Act) (now : BarkerNow) {s t : State} (h : execBarkerWaitTimeout a now s = .next t) : Kept s t := by
  have h := Host.Outcome.next.inj h; subst h; exact barkerWaitTimeout_kept _ _ (Kept.refl s)

theorem execJobRestart_kept (a : Act) {s t : State} (h : execJobRestart a s = .next t) : Kept s t := by
  have h := Host.Outcome.next.inj h; subst h; exact jobRestart_kept _ (Kept.refl s)

theorem execSeqMchkRecovery_kept (a : Act) (crcPass : Bool) {s t : State} (h : execSeqMchkRecovery a crcPass s = .next t) : Kept s t := by
  have h := Host.Outcome.next.inj h; subst h; exact seqMchkRecovery_kept _ _ (Kept.refl s)

theorem execSeqScrubPass_kept (a : Act) (flips : List (Fin 4096 × BarkerWord)) (reloaded : Bool) {s t : State} (h : execSeqScrubPass a flips reloaded s = .next t) : Kept s t := by
  have h := Host.Outcome.next.inj h; subst h; exact seqScrubPass_kept _ _ _ (Kept.refl s)

end Sys2Proof.Machine
end

