-- ==== Sys2Proof/Laws/KeptMotion.lean ====
section
/-!
SUPPORT. Every operation of `Machine/Motion.lean` keeps what `Kept` names.
-/

namespace Sys2Proof.Machine

set_option Elab.async false
set_option linter.unusedTactic false
set_option linter.unreachableTactic false
set_option linter.unusedVariables false

/-- A stretch of a byte table moved, in the place of another stretch of it. -/
theorem bytesOk_moved (a b n : Nat) (m : List (Nat × Byte)) (hm : bytesOk 0 m = true) :
    bytesOk 0 (m.filter (fun e => decide (e.1 < b)) ++
      ((m.filter fun e => decide (a ≤ e.1 ∧ e.1 < a + n)).map fun e => (e.1 - a + b, e.2)) ++
      m.filter (fun e => decide (b + n ≤ e.1))) = true := by
  have key : ∀ l : List (Nat × Byte), bytesOk 0 l = true →
      bytesOk 0 ((l.filter fun e => decide (a ≤ e.1 ∧ e.1 < a + n)).map fun e => (e.1 - a + b, e.2)) = true := by
    intro l hl
    have hf := bytesOk_filter 0 l (fun e => decide (a ≤ e.1 ∧ e.1 < a + n)) hl
    have hm : ∀ e ∈ l.filter (fun e => decide (a ≤ e.1 ∧ e.1 < a + n)), a ≤ e.1 := fun e he => by
      have := (List.mem_filter.mp he).2
      simp only [decide_eq_true_eq] at this
      exact this.1
    generalize l.filter (fun e => decide (a ≤ e.1 ∧ e.1 < a + n)) = q at hf hm
    induction q with
    | nil => rfl
    | cons e q ih =>
      unfold bytesOk at hf ih ⊢
      rw [Tab.wf_cons] at hf
      rw [List.map_cons, Tab.wf_cons]
      refine ⟨fun f hf' => ?_, hf.2.1, ih hf.2.2 fun e he => hm e (List.mem_cons_of_mem _ he)⟩
      obtain ⟨g, hg, rfl⟩ := List.mem_map.mp hf'
      have h1 := hf.1 g hg
      have h2 := hm e List.mem_cons_self
      simp only [natBefore, decide_eq_true_eq] at h1 ⊢
      omega
  refine Tab.wf_append _ _ _ _ (Tab.wf_append _ _ _ _ (bytesOk_filter _ _ _ hm) (key m hm) ?_) (bytesOk_filter _ _ _ hm) ?_
  · intro e he f hf
    have h1 := (List.mem_filter.mp he).2
    obtain ⟨g, hg, rfl⟩ := List.mem_map.mp hf
    simp only [natBefore, decide_eq_true_eq] at *
    omega
  · intro e he f hf
    have h2 := (List.mem_filter.mp hf).2
    simp only [natBefore, decide_eq_true_eq] at *
    rcases List.mem_append.mp he with he | he
    · have h1 := (List.mem_filter.mp he).2
      simp only [decide_eq_true_eq] at h1
      omega
    · obtain ⟨g, hg, rfl⟩ := List.mem_map.mp he
      have h1 := (List.mem_filter.mp hg).2
      simp only [decide_eq_true_eq] at h1
      dsimp only
      omega

theorem State.setPw_kept {s₀ : State} {s : State} (n : Nat) (k : Nat) (v : Int) (hK : Kept s₀ s) :
    Kept s₀ (State.setPw s n k v) := by
  unfold State.setPw
  repeat' first
    | with_reducible assumption | with_reducible apply State.putWin_kept | intro _ | with_reducible apply Kept.ite
    | split | dsimp only [id_eq] | simp only [Kept.mk] | (rename_i e; with_reducible refine Kept.of_eq e ?_)

theorem State.driveRefs_kept {s₀ : State} {s : State} (hK : Kept s₀ s) :
    Kept s₀ (State.driveRefs s) := by
  unfold State.driveRefs
  repeat' first
    | with_reducible assumption | with_reducible apply State.setPw_kept | intro _ | with_reducible apply Kept.ite
    | split | dsimp only [id_eq] | simp only [Kept.mk] | (rename_i e; with_reducible refine Kept.of_eq e ?_)

theorem State.crlTo_kept {s₀ : State} {s : State} (st : Nat) (hK : Kept s₀ s) :
    Kept s₀ (State.crlTo s st) := by
  unfold State.crlTo
  repeat' first
    | with_reducible assumption | with_reducible apply State.puts_kept | with_reducible apply Kept.put
    | with_reducible apply Kept.when | with_reducible apply State.setPw_kept
    | with_reducible apply State.driveRefs_kept | intro _ | with_reducible apply Kept.ite | split
    | dsimp only [id_eq] | simp only [Kept.mk] | (rename_i e; with_reducible refine Kept.of_eq e ?_)

theorem State.crlCoast_kept {s₀ : State} {s : State} (hK : Kept s₀ s) :
    Kept s₀ (State.crlCoast s) := by
  unfold State.crlCoast
  repeat' first
    | with_reducible assumption | with_reducible apply State.puts_kept | with_reducible apply State.crlTo_kept
    | intro _ | with_reducible apply Kept.ite | split | dsimp only [id_eq] | simp only [Kept.mk]
    | (rename_i e; with_reducible refine Kept.of_eq e ?_)

theorem State.unloadAll_kept {s₀ : State} {s : State} (hK : Kept s₀ s) :
    Kept s₀ (State.unloadAll s) := by
  unfold State.unloadAll
  repeat' first
    | with_reducible assumption | with_reducible apply Kept.forAll | with_reducible apply State.unloadRequest_kept
    | intro _ | with_reducible apply Kept.ite | split | dsimp only [id_eq] | simp only [Kept.mk]
    | (rename_i e; with_reducible refine Kept.of_eq e ?_)

theorem State.setAtSp_kept {s₀ : State} {s : State} (b : Bool) (hK : Kept s₀ s) :
    Kept s₀ (State.setAtSp s b) := by
  unfold State.setAtSp
  repeat' first
    | with_reducible assumption | with_reducible apply State.putB_kept | with_reducible apply State.evt_kept
    | with_reducible apply Kept.forAll | with_reducible apply State.withdraw_kept | intro _
    | with_reducible apply Kept.ite | split | dsimp only [id_eq] | simp only [Kept.mk]
    | (rename_i e; with_reducible refine Kept.of_eq e ?_)

theorem State.stmLatch_kept {s₀ : State} {s : State} (a : Nat) (hK : Kept s₀ s) :
    Kept s₀ (State.stmLatch s a) := by
  unfold State.stmLatch
  repeat' first
    | with_reducible assumption | with_reducible apply State.setBit_kept | intro _ | with_reducible apply Kept.ite
    | split | dsimp only [id_eq] | simp only [Kept.mk] | (rename_i e; with_reducible refine Kept.of_eq e ?_)

theorem State.latchSeen_kept {s₀ : State} {s : State} (a : Nat) (hK : Kept s₀ s) :
    Kept s₀ (State.latchSeen s a) := by
  unfold State.latchSeen
  repeat' first
    | with_reducible assumption | with_reducible apply Kept.when | with_reducible apply State.putB_kept
    | with_reducible apply State.endWrite_kept | intro _ | with_reducible apply Kept.ite | split | dsimp only [id_eq]
    | simp only [Kept.mk] | (rename_i e; with_reducible refine Kept.of_eq e ?_)

theorem State.stmLatchAll_kept {s₀ : State} {s : State} (hK : Kept s₀ s) :
    Kept s₀ (State.stmLatchAll s) := by
  unfold State.stmLatchAll
  repeat' first
    | with_reducible assumption | with_reducible apply Kept.forAll | with_reducible apply State.stmLatch_kept
    | intro _ | with_reducible apply Kept.ite | split | dsimp only [id_eq] | simp only [Kept.mk]
    | (rename_i e; with_reducible refine Kept.of_eq e ?_)

theorem State.stmRetract_kept {s₀ : State} {s : State} (a : Nat) (park : Bool) (hK : Kept s₀ s) :
    Kept s₀ (State.stmRetract s a park) := by
  unfold State.stmRetract
  repeat' first
    | with_reducible assumption | with_reducible apply State.count_kept | with_reducible apply State.puts_kept
    | with_reducible apply State.setBit_kept | intro _ | with_reducible apply Kept.ite | split | dsimp only [id_eq]
    | simp only [Kept.mk] | (rename_i e; with_reducible refine Kept.of_eq e ?_)

theorem State.stmRetractAll_kept {s₀ : State} {s : State} (hK : Kept s₀ s) :
    Kept s₀ (State.stmRetractAll s) := by
  unfold State.stmRetractAll
  repeat' first
    | with_reducible assumption | with_reducible apply Kept.forAll | with_reducible apply State.stmRetract_kept
    | intro _ | with_reducible apply Kept.ite | split | dsimp only [id_eq] | simp only [Kept.mk]
    | (rename_i e; with_reducible refine Kept.of_eq e ?_)

theorem State.dropGrants_kept {s₀ : State} {s : State} (hK : Kept s₀ s) :
    Kept s₀ (State.dropGrants s) := by
  unfold State.dropGrants
  repeat' first
    | with_reducible assumption | with_reducible apply State.puts_kept | with_reducible apply State.stmLatchAll_kept
    | with_reducible apply State.stmRetractAll_kept | intro _ | with_reducible apply Kept.ite | split
    | dsimp only [id_eq] | simp only [Kept.mk] | (rename_i e; with_reducible refine Kept.of_eq e ?_)

theorem State.checkGrant_kept {s₀ : State} {s : State} (hK : Kept s₀ s) :
    Kept s₀ (State.checkGrant s) := by
  unfold State.checkGrant
  repeat' first
    | with_reducible assumption | with_reducible apply State.dropGrants_kept | intro _
    | with_reducible apply Kept.ite | split | dsimp only [id_eq] | simp only [Kept.mk]
    | (rename_i e; with_reducible refine Kept.of_eq e ?_)

theorem State.stopAssert_kept {s₀ : State} {s : State} (bit : Nat) (hK : Kept s₀ s) :
    Kept s₀ (State.stopAssert s bit) := by
  unfold State.stopAssert
  repeat' first
    | with_reducible assumption | with_reducible apply Kept.forAll | with_reducible apply State.setBit_kept
    | with_reducible apply State.endWrite_kept | with_reducible apply Kept.when
    | with_reducible apply State.ladderRestart_kept | with_reducible apply State.dropGrants_kept
    | with_reducible apply State.crlCoast_kept | with_reducible apply State.stmRetractAll_kept
    | with_reducible apply State.stmLatchAll_kept | intro _ | with_reducible apply Kept.ite | split
    | dsimp only [id_eq] | simp only [Kept.mk] | (rename_i e; with_reducible refine Kept.of_eq e ?_)

theorem State.stepEnd_kept {s₀ : State} {s : State} (k : Nat) (hK : Kept s₀ s) :
    Kept s₀ (State.stepEnd s k) := by
  unfold State.stepEnd
  repeat' first
    | with_reducible assumption | with_reducible apply State.puts_kept | intro _ | with_reducible apply Kept.ite
    | split | dsimp only [id_eq] | simp only [Kept.mk] | (rename_i e; with_reducible refine Kept.of_eq e ?_)

theorem State.setLoop_kept {s₀ : State} {s : State} (n : Nat) (l : Loop) (hK : Kept s₀ s) :
    Kept s₀ (State.setLoop s n l) := by
  unfold State.setLoop
  repeat' first
    | with_reducible assumption | intro _ | with_reducible apply Kept.ite | split | dsimp only [id_eq]
    | simp only [Kept.mk] | (rename_i e; with_reducible refine Kept.of_eq e ?_)

theorem State.lpMark_kept {s₀ : State} {s : State} (n : Nat) (hK : Kept s₀ s) :
    Kept s₀ (State.lpMark s n) := by
  unfold State.lpMark
  repeat' first
    | with_reducible assumption | with_reducible apply State.withdraw_kept | with_reducible apply Kept.put
    | with_reducible apply State.setBit_kept | intro _ | with_reducible apply Kept.ite | split | dsimp only [id_eq]
    | simp only [Kept.mk] | (rename_i e; with_reducible refine Kept.of_eq e ?_)

theorem State.lpDo_kept {s₀ : State} {s : State} (n : Nat) (act : Nat) (err : Int) (fe : Bool) (timer : Nat) (hK : Kept s₀ s) :
    Kept s₀ (State.lpDo s n act err fe timer) := by
  unfold State.lpDo
  repeat' first
    | with_reducible assumption | with_reducible apply Kept.when | with_reducible apply State.post_kept
    | with_reducible apply Kept.forAll | with_reducible apply State.setLoop_kept
    | with_reducible apply State.withdraw_kept | with_reducible apply Kept.put
    | with_reducible apply State.unloadRequest_kept | with_reducible apply State.stopAssert_kept | intro _
    | with_reducible apply Kept.ite | split | dsimp only [id_eq] | simp only [Kept.mk]
    | (rename_i e; with_reducible refine Kept.of_eq e ?_)

theorem State.lpStop_kept {s₀ : State} {s : State} (n : Nat) (hK : Kept s₀ s) :
    Kept s₀ (State.lpStop s n) := by
  unfold State.lpStop
  repeat' first
    | with_reducible assumption | with_reducible apply State.puts_kept | intro _ | with_reducible apply Kept.ite
    | split | dsimp only [id_eq] | simp only [Kept.mk] | (rename_i e; with_reducible refine Kept.of_eq e ?_)

theorem State.setVinBudget_kept {s₀ : State} {s : State} (b : Nat) (hK : Kept s₀ s) :
    Kept s₀ (State.setVinBudget s b) := by
  unfold State.setVinBudget
  repeat' first
    | with_reducible assumption | with_reducible apply State.setPw_kept | with_reducible apply Kept.put | intro _
    | with_reducible apply Kept.ite | split | dsimp only [id_eq] | simp only [Kept.mk]
    | (rename_i e; with_reducible refine Kept.of_eq e ?_)

theorem State.runBroken_kept {s₀ : State} {s : State} (n : Nat) (hK : Kept s₀ s) :
    Kept s₀ (State.runBroken s n) := by
  unfold State.runBroken
  repeat' first
    | with_reducible assumption | with_reducible apply Kept.when | with_reducible apply Kept.put | intro _
    | with_reducible apply Kept.ite | split | dsimp only [id_eq] | simp only [Kept.mk]
    | (rename_i e; with_reducible refine Kept.of_eq e ?_)

theorem State.lpMiss_kept {s₀ : State} {s : State} (n : Nat) (hK : Kept s₀ s) :
    Kept s₀ (State.lpMiss s n) := by
  unfold State.lpMiss
  repeat' first
    | with_reducible assumption | with_reducible apply State.setBit_kept | with_reducible apply State.lpStop_kept
    | with_reducible apply State.setLoop_kept | with_reducible apply State.post_kept
    | with_reducible apply State.evt_kept | with_reducible apply State.count_kept
    | with_reducible apply State.runBroken_kept | with_reducible apply State.lpMark_kept
    | with_reducible apply State.lpDo_kept | intro _ | with_reducible apply Kept.ite | split | dsimp only [id_eq]
    | simp only [Kept.mk] | (rename_i e; with_reducible refine Kept.of_eq e ?_)

theorem State.copyWin_kept {s₀ s : State} (blk src dst off n : Nat) (h : Kept s₀ s) : Kept s₀ (State.copyWin s blk src dst off n) :=
  Kept.setWin h (bytesOk_moved _ _ _ _)

theorem State.swapTable_kept {s₀ : State} {s : State} (i : Nat) (hK : Kept s₀ s) :
    Kept s₀ (State.swapTable s i) := by
  unfold State.swapTable
  repeat' first
    | with_reducible assumption | with_reducible apply State.puts_kept | with_reducible apply Kept.forAll
    | with_reducible apply State.copyWin_kept | intro _ | with_reducible apply Kept.ite | split | dsimp only [id_eq]
    | simp only [Kept.mk] | (rename_i e; with_reducible refine Kept.of_eq e ?_)

theorem State.takeTable_kept {s₀ : State} {s : State} (n : Nat) (i : Nat) (hK : Kept s₀ s) :
    Kept s₀ (State.takeTable s n i) := by
  unfold State.takeTable
  repeat' first
    | with_reducible assumption | with_reducible apply Kept.put | with_reducible apply Kept.when
    | with_reducible apply State.swapTable_kept | intro _ | with_reducible apply Kept.ite | split
    | dsimp only [id_eq] | simp only [Kept.mk] | (rename_i e; with_reducible refine Kept.of_eq e ?_)

theorem State.takeTables_kept {s₀ : State} {s : State} (n : Nat) (hK : Kept s₀ s) :
    Kept s₀ (State.takeTables s n) := by
  unfold State.takeTables
  repeat' first
    | with_reducible assumption | with_reducible apply State.takeTable_kept | with_reducible apply Kept.forAll
    | intro _ | with_reducible apply Kept.ite | split | dsimp only [id_eq] | simp only [Kept.mk]
    | (rename_i e; with_reducible refine Kept.of_eq e ?_)

theorem State.lpView_kept {s₀ : State} {s : State} (n : Nat) (hK : Kept s₀ s) :
    Kept s₀ (State.lpView s n) := by
  unfold State.lpView
  repeat' first
    | with_reducible assumption | with_reducible apply Kept.forAll | with_reducible apply Kept.when
    | with_reducible apply State.copyWin_kept | intro _ | with_reducible apply Kept.ite | split | dsimp only [id_eq]
    | simp only [Kept.mk] | (rename_i e; with_reducible refine Kept.of_eq e ?_)

theorem State.dropOwners_kept {s₀ : State} {s : State} (hK : Kept s₀ s) :
    Kept s₀ (State.dropOwners s) := by
  unfold State.dropOwners
  repeat' first
    | with_reducible assumption | with_reducible apply Kept.forAll | with_reducible apply Kept.when
    | with_reducible apply Kept.put | intro _ | with_reducible apply Kept.ite | split | dsimp only [id_eq]
    | simp only [Kept.mk] | (rename_i e; with_reducible refine Kept.of_eq e ?_)

theorem State.lpTrigger_kept {s₀ : State} (fuel : Nat) : ∀ {s : State} (n t0 : Nat) (good ref0 : Bool), Kept s₀ s →
    Kept s₀ (State.lpTrigger s fuel n t0 good ref0) := by
  induction fuel with
  | zero => intro s n t0 good ref0 h; exact h
  | succ fuel ih =>
    intro s n t0 good ref0 h
    have h := State.takeTables_kept n h
    unfold State.lpTrigger
    dsimp only
    repeat' first
      | with_reducible assumption | with_reducible apply ih | with_reducible apply Kept.forAll
      | with_reducible apply State.setLoop_kept | with_reducible apply State.lpMiss_kept
      | with_reducible apply State.runBroken_kept | intro _ | with_reducible apply Kept.ite | split

theorem State.trzTrigger_kept {s₀ : State} {s : State} (kind : Nat) (p : Nat → Bool) (good : Bool) (hK : Kept s₀ s) :
    Kept s₀ (State.trzTrigger s kind p good) := by
  unfold State.trzTrigger
  repeat' first
    | with_reducible assumption | with_reducible apply Kept.forAll | with_reducible apply State.dropOwners_kept
    | with_reducible apply State.lpTrigger_kept | intro _ | with_reducible apply Kept.ite | split
    | dsimp only [id_eq] | simp only [Kept.mk] | (rename_i e; with_reducible refine Kept.of_eq e ?_)

theorem State.trzWedge_kept {s₀ : State} {s : State} (a : Nat) (good : Bool) (hK : Kept s₀ s) :
    Kept s₀ (State.trzWedge s a good) := by
  unfold State.trzWedge
  repeat' first
    | with_reducible assumption | with_reducible apply State.trzTrigger_kept | with_reducible apply Kept.when
    | with_reducible apply Kept.put | intro _ | with_reducible apply Kept.ite | split | dsimp only [id_eq]
    | simp only [Kept.mk] | (rename_i e; with_reducible refine Kept.of_eq e ?_)

end Sys2Proof.Machine
end

