-- ==== Sys2Proof/Laws/KeptServo.lean ====
section
/-!
SUPPORT. Every operation of `Machine/Servo.lean` keeps what `Kept` names.
-/

namespace Sys2Proof.Machine

set_option Elab.async false
set_option linter.unusedTactic false
set_option linter.unreachableTactic false
set_option linter.unusedVariables false

theorem State.locked_kept {s₀ : State} {s : State} (a : Nat) (hK : Kept s₀ s) :
    Kept s₀ (State.locked s a) := by
  unfold State.locked
  repeat' first
    | with_reducible assumption | with_reducible apply State.setSrv_kept | with_reducible apply Kept.when
    | with_reducible apply State.puts_kept | with_reducible apply State.evt_kept | with_reducible apply Kept.put
    | with_reducible apply State.stepEnd_kept | with_reducible apply State.unloadNow_kept
    | with_reducible apply State.setPs_kept | intro _ | with_reducible apply Kept.ite | split | dsimp only [id_eq]
    | simp only [Kept.mk] | (rename_i e; with_reducible refine Kept.of_eq e ?_)

theorem State.lockLost_kept {s₀ : State} {s : State} (a : Nat) (causes : Nat) (hK : Kept s₀ s) :
    Kept s₀ (State.lockLost s a causes) := by
  unfold State.lockLost
  repeat' first
    | with_reducible assumption | with_reducible apply State.withdraw_kept | with_reducible apply State.post_kept
    | with_reducible apply State.count_kept | with_reducible apply State.evt_kept
    | with_reducible apply State.setSrv_kept | intro _ | with_reducible apply Kept.ite | split | dsimp only [id_eq]
    | simp only [Kept.mk] | (rename_i e; with_reducible refine Kept.of_eq e ?_)

theorem State.toFollow_kept {s₀ : State} {s : State} (a : Nat) (hK : Kept s₀ s) :
    Kept s₀ (State.toFollow s a) := by
  unfold State.toFollow
  repeat' first
    | with_reducible assumption | with_reducible apply State.setSrv_kept | with_reducible apply State.puts_kept
    | intro _ | with_reducible apply Kept.ite | split | dsimp only [id_eq] | simp only [Kept.mk]
    | (rename_i e; with_reducible refine Kept.of_eq e ?_)

theorem State.srvStep_kept {s₀ : State} {s : State} (a : Nat) (good : Bool) (pes : Int) (causes : Nat) (hK : Kept s₀ s) :
    Kept s₀ (State.srvStep s a good pes causes) := by
  unfold State.srvStep
  repeat' first
    | with_reducible assumption | with_reducible apply State.puts_kept | with_reducible apply State.locked_kept
    | with_reducible apply State.lockLost_kept | with_reducible apply State.setSrv_kept
    | with_reducible apply Kept.put | with_reducible apply State.toFollow_kept | with_reducible apply Kept.when
    | intro _ | with_reducible apply Kept.ite | split | dsimp only [id_eq] | simp only [Kept.mk]
    | (rename_i e; with_reducible refine Kept.of_eq e ?_)

theorem State.ofsAtWedge_kept {s₀ : State} {s : State} (a : Nat) (hK : Kept s₀ s) :
    Kept s₀ (State.ofsAtWedge s a) := by
  unfold State.ofsAtWedge
  repeat' first
    | with_reducible assumption | with_reducible apply State.puts_kept | with_reducible apply State.setSrv_kept
    | with_reducible apply State.withdraw_kept | intro _ | with_reducible apply Kept.ite | split | dsimp only [id_eq]
    | simp only [Kept.mk] | (rename_i e; with_reducible refine Kept.of_eq e ?_)

theorem State.seekError_kept {s₀ : State} {s : State} (a : Nat) (start : Nat) (wedges : Nat) (hK : Kept s₀ s) :
    Kept s₀ (State.seekError s a start wedges) := by
  unfold State.seekError
  repeat' first
    | with_reducible assumption | with_reducible apply State.puts_kept | with_reducible apply State.post_kept
    | with_reducible apply State.count_kept | with_reducible apply State.evt_kept | intro _
    | with_reducible apply Kept.ite | split | dsimp only [id_eq] | simp only [Kept.mk]
    | (rename_i e; with_reducible refine Kept.of_eq e ?_)

theorem State.seekLimit_kept {s₀ : State} {s : State} (a : Nat) (hK : Kept s₀ s) :
    Kept s₀ (State.seekLimit s a) := by
  unfold State.seekLimit
  repeat' first
    | with_reducible assumption | with_reducible apply Kept.when | with_reducible apply State.unloadNow_kept
    | with_reducible apply State.puts_kept | intro _ | with_reducible apply Kept.ite | split | dsimp only [id_eq]
    | simp only [Kept.mk] | (rename_i e; with_reducible refine Kept.of_eq e ?_)

theorem State.rung2Late_kept {s₀ : State} {s : State} (a : Nat) (hK : Kept s₀ s) :
    Kept s₀ (State.rung2Late s a) := by
  unfold State.rung2Late
  repeat' first
    | with_reducible assumption | with_reducible apply Kept.when | with_reducible apply State.seekLimit_kept
    | with_reducible apply State.seekError_kept | with_reducible apply State.puts_kept
    | with_reducible apply retryRung_kept | with_reducible apply Kept.put | intro _ | with_reducible apply Kept.ite
    | split | dsimp only [id_eq] | simp only [Kept.mk] | (rename_i e; with_reducible refine Kept.of_eq e ?_)

theorem State.indexStep_kept {s₀ : State} {s : State} (a : Nat) (x : Nat) (hK : Kept s₀ s) :
    Kept s₀ (State.indexStep s a x).1 := by
  unfold State.indexStep
  repeat' first
    | with_reducible assumption | with_reducible apply State.count_kept | with_reducible apply State.puts_kept
    | with_reducible apply State.post_kept | with_reducible apply State.evt_kept | intro _
    | with_reducible apply Kept.ite | split | dsimp only [id_eq] | simp only [Kept.mk]
    | (rename_i e; with_reducible refine Kept.of_eq e ?_)

theorem State.heaterAtWedge_kept {s₀ : State} {s : State} (a : Nat) (hK : Kept s₀ s) :
    Kept s₀ (State.heaterAtWedge s a) := by
  unfold State.heaterAtWedge
  repeat' first
    | with_reducible assumption | with_reducible apply Kept.when | with_reducible apply Kept.put
    | with_reducible apply State.idleHeater_kept | intro _ | with_reducible apply Kept.ite | split
    | dsimp only [id_eq] | simp only [Kept.mk] | (rename_i e; with_reducible refine Kept.of_eq e ?_)

theorem State.hskewUpdate_kept {s₀ : State} {s : State} (a : Nat) (m : Option (BitVec 16)) (hK : Kept s₀ s) :
    Kept s₀ (State.hskewUpdate s a m) := by
  unfold State.hskewUpdate
  repeat' first
    | with_reducible assumption | with_reducible apply Kept.put | intro _ | with_reducible apply Kept.ite | split
    | dsimp only [id_eq] | simp only [Kept.mk] | (rename_i e; with_reducible refine Kept.of_eq e ?_)

theorem State.seekTo_kept {s₀ : State} {s : State} (a : Nat) (track : Nat) (hK : Kept s₀ s) :
    Kept s₀ (State.seekTo s a track) := by
  unfold State.seekTo
  repeat' first
    | with_reducible assumption | with_reducible apply Kept.put | with_reducible apply State.setSrv_kept
    | with_reducible apply State.puts_kept | with_reducible apply State.withdraw_kept | intro _
    | with_reducible apply Kept.ite | split | dsimp only [id_eq] | simp only [Kept.mk]
    | (rename_i e; with_reducible refine Kept.of_eq e ?_)

theorem State.keepSam_kept {s₀ : State} {s : State} (a : Nat) (w : WedgeRead) (found : Option Nat) (hK : Kept s₀ s) :
    Kept s₀ (State.keepSam s a w found) := by
  unfold State.keepSam
  repeat' first
    | with_reducible assumption | intro _ | with_reducible apply Kept.ite | split | dsimp only [id_eq]
    | simp only [Kept.mk] | (rename_i e; with_reducible refine Kept.of_eq e ?_)

theorem State.afterMate_kept {s₀ : State} {s : State} (a : Nat) (hK : Kept s₀ s) :
    Kept s₀ (State.afterMate s a) := by
  unfold State.afterMate
  repeat' first
    | with_reducible assumption | with_reducible apply State.toUnloading_kept
    | with_reducible apply State.seekTo_kept | with_reducible apply Kept.put | intro _
    | with_reducible apply Kept.ite | split | dsimp only [id_eq] | simp only [Kept.mk]
    | (rename_i e; with_reducible refine Kept.of_eq e ?_)

theorem State.maWedge_kept {s₀ : State} {s : State} (a : Nat) (hK : Kept s₀ s) :
    Kept s₀ (State.maWedge s a) := by
  unfold State.maWedge
  repeat' first
    | with_reducible assumption | with_reducible apply Kept.put | intro _ | with_reducible apply Kept.ite | split
    | dsimp only [id_eq] | simp only [Kept.mk] | (rename_i e; with_reducible refine Kept.of_eq e ?_)

theorem State.wedgeHeader_kept {s₀ : State} {s : State} (a : Nat) (sam : Bool) (idxOk : Bool) (trk : Option Nat) (hK : Kept s₀ s) :
    Kept s₀ (State.wedgeHeader s a sam idxOk trk) := by
  unfold State.wedgeHeader
  repeat' first
    | with_reducible assumption | with_reducible apply State.puts_kept | with_reducible apply Kept.when
    | with_reducible apply State.withdraw_kept | intro _ | with_reducible apply Kept.ite | split | dsimp only [id_eq]
    | simp only [Kept.mk] | (rename_i e; with_reducible refine Kept.of_eq e ?_)

theorem State.postSample_kept {s₀ : State} {s : State} (a : Nat) (good : Bool) (ampOk : Bool) (pos : Int) (corr : Int) (hK : Kept s₀ s) :
    Kept s₀ (State.postSample s a good ampOk pos corr) := by
  unfold State.postSample
  repeat' first
    | with_reducible assumption | with_reducible apply State.puts_kept | with_reducible apply Kept.when
    | with_reducible apply State.putI_kept | with_reducible apply Kept.put | with_reducible apply State.trzWedge_kept
    | with_reducible apply State.setBit_kept | with_reducible apply State.withdraw_kept | intro _
    | with_reducible apply Kept.ite | split | dsimp only [id_eq] | simp only [Kept.mk]
    | (rename_i e; with_reducible refine Kept.of_eq e ?_)

theorem State.postFeed_kept {s₀ : State} {s : State} (a : Nat) (hK : Kept s₀ s) :
    Kept s₀ (State.postFeed s a) := by
  unfold State.postFeed
  repeat' first
    | with_reducible assumption | with_reducible apply State.puts_kept | intro _ | with_reducible apply Kept.ite
    | split | dsimp only [id_eq] | simp only [Kept.mk] | (rename_i e; with_reducible refine Kept.of_eq e ?_)

theorem State.wedge_kept {s₀ : State} {s : State} (a : Nat) (w : WedgeRead) (found : Option Nat) (hK : Kept s₀ s) :
    Kept s₀ (State.wedge s a w found) := by
  unfold State.wedge
  repeat' first
    | with_reducible assumption | with_reducible apply State.heaterAtWedge_kept
    | with_reducible apply State.ofsAtWedge_kept | with_reducible apply Kept.put
    | with_reducible apply State.count_kept | with_reducible apply State.refreshFeed_kept
    | with_reducible apply State.keepSam_kept | with_reducible apply State.indexStep_kept
    | with_reducible apply Kept.when | with_reducible apply State.postSample_kept
    | with_reducible apply State.wedgeHeader_kept | with_reducible apply State.postFeed_kept
    | with_reducible apply State.hskewUpdate_kept | with_reducible apply State.maWedge_kept
    | with_reducible apply State.afterMate_kept | with_reducible apply State.rung2Late_kept
    | with_reducible apply State.srvStep_kept | intro _ | with_reducible apply Kept.ite | split | dsimp only [id_eq]
    | simp only [Kept.mk] | (rename_i e; with_reducible refine Kept.of_eq e ?_)

theorem servoWedge_kept {s₀ : State} (a : Act) (w : WedgeRead) {s : State} (hK : Kept s₀ s) :
    Kept s₀ (servoWedge a w s) := by
  unfold servoWedge
  repeat' first
    | with_reducible assumption | with_reducible apply State.wedge_kept | intro _ | with_reducible apply Kept.ite
    | split | dsimp only [id_eq] | simp only [Kept.mk] | (rename_i e; with_reducible refine Kept.of_eq e ?_)

theorem samPredicted_kept {s₀ : State} (a : Act) (w : WedgeRead) {s : State} (hK : Kept s₀ s) :
    Kept s₀ (samPredicted a w s) := by
  unfold samPredicted
  repeat' first
    | with_reducible assumption | with_reducible apply State.wedge_kept | intro _ | with_reducible apply Kept.ite
    | split | dsimp only [id_eq] | simp only [Kept.mk] | (rename_i e; with_reducible refine Kept.of_eq e ?_)

theorem seekStart_kept {s₀ : State} (a : Act) (track : BitVec 24) {s : State} (hK : Kept s₀ s) :
    Kept s₀ (seekStart a track s) := by
  unfold seekStart
  repeat' first
    | with_reducible assumption | with_reducible apply State.puts_kept | with_reducible apply State.seekTo_kept
    | with_reducible apply Kept.put | intro _ | with_reducible apply Kept.ite | split | dsimp only [id_eq]
    | simp only [Kept.mk] | (rename_i e; with_reducible refine Kept.of_eq e ?_)

theorem State.seekFailed_kept {s₀ : State} {s : State} (a : Nat) (hK : Kept s₀ s) :
    Kept s₀ (State.seekFailed s a) := by
  unfold State.seekFailed
  repeat' first
    | with_reducible assumption | with_reducible apply State.writeFailed_kept
    | with_reducible apply State.setJob_kept | with_reducible apply State.endJob_kept | intro _
    | with_reducible apply Kept.ite | split | dsimp only [id_eq] | simp only [Kept.mk]
    | (rename_i e; with_reducible refine Kept.of_eq e ?_)

theorem seekTimeout_kept {s₀ : State} (a : Act) {s : State} (hK : Kept s₀ s) :
    Kept s₀ (seekTimeout a s) := by
  unfold seekTimeout
  repeat' first
    | with_reducible assumption | with_reducible apply State.seekError_kept | with_reducible apply State.puts_kept
    | with_reducible apply State.setSrv_kept | with_reducible apply State.seekFailed_kept
    | with_reducible apply State.seekLimit_kept | intro _ | with_reducible apply Kept.ite | split
    | dsimp only [id_eq] | simp only [Kept.mk] | (rename_i e; with_reducible refine Kept.of_eq e ?_)

theorem State.loadsBegun_kept {s₀ : State} {s : State} (hK : Kept s₀ s) :
    Kept s₀ (State.loadsBegun s) := by
  unfold State.loadsBegun
  repeat' first
    | with_reducible assumption | with_reducible apply State.stepEnd_kept | intro _ | with_reducible apply Kept.ite
    | split | dsimp only [id_eq] | simp only [Kept.mk] | (rename_i e; with_reducible refine Kept.of_eq e ?_)

theorem State.loadBegin_kept {s₀ : State} {s : State} (a : Nat) (hK : Kept s₀ s) :
    Kept s₀ (State.loadBegin s a) := by
  unfold State.loadBegin
  repeat' first
    | with_reducible assumption | with_reducible apply State.loadsBegun_kept | with_reducible apply State.setSrv_kept
    | with_reducible apply State.puts_kept | intro _ | with_reducible apply Kept.ite | split | dsimp only [id_eq]
    | simp only [Kept.mk] | (rename_i e; with_reducible refine Kept.of_eq e ?_)

theorem loadRequest_kept {s₀ : State} (a : Act) {s : State} (hK : Kept s₀ s) :
    Kept s₀ (loadRequest a s) := by
  unfold loadRequest
  repeat' first
    | with_reducible assumption | with_reducible apply Kept.put | with_reducible apply State.crlTo_kept
    | with_reducible apply State.loadBegin_kept | intro _ | with_reducible apply Kept.ite | split
    | dsimp only [id_eq] | simp only [Kept.mk] | (rename_i e; with_reducible refine Kept.of_eq e ?_)

theorem loadDeferredStart_kept {s₀ : State} (a : Act) {s : State} (hK : Kept s₀ s) :
    Kept s₀ (loadDeferredStart a s) := by
  unfold loadDeferredStart
  repeat' first
    | with_reducible assumption | with_reducible apply State.loadBegin_kept | intro _ | with_reducible apply Kept.ite
    | split | dsimp only [id_eq] | simp only [Kept.mk] | (rename_i e; with_reducible refine Kept.of_eq e ?_)

theorem loadingOffRamp_kept {s₀ : State} (a : Act) {s : State} (hK : Kept s₀ s) :
    Kept s₀ (loadingOffRamp a s) := by
  unfold loadingOffRamp
  repeat' first
    | with_reducible assumption | with_reducible apply State.setSrv_kept | with_reducible apply Kept.put
    | with_reducible apply State.unloadNow_kept | with_reducible apply State.idleHeater_kept | intro _
    | with_reducible apply Kept.ite | split | dsimp only [id_eq] | simp only [Kept.mk]
    | (rename_i e; with_reducible refine Kept.of_eq e ?_)

theorem acquireTimeout_kept {s₀ : State} (a : Act) {s : State} (hK : Kept s₀ s) :
    Kept s₀ (acquireTimeout a s) := by
  unfold acquireTimeout
  repeat' first
    | with_reducible assumption | with_reducible apply State.unloadNow_kept | with_reducible apply Kept.put
    | with_reducible apply State.refreshAct_kept | with_reducible apply State.post_kept
    | with_reducible apply State.evt_kept | intro _ | with_reducible apply Kept.ite | split | dsimp only [id_eq]
    | simp only [Kept.mk] | (rename_i e; with_reducible refine Kept.of_eq e ?_)

theorem holdRelockTimeout_kept {s₀ : State} (a : Act) {s : State} (hK : Kept s₀ s) :
    Kept s₀ (holdRelockTimeout a s) := by
  unfold holdRelockTimeout
  repeat' first
    | with_reducible assumption | with_reducible apply State.unloadNow_kept | intro _ | with_reducible apply Kept.ite
    | split | dsimp only [id_eq] | simp only [Kept.mk] | (rename_i e; with_reducible refine Kept.of_eq e ?_)

theorem loadRetry_kept {s₀ : State} (a : Act) {s : State} (hK : Kept s₀ s) :
    Kept s₀ (loadRetry a s) := by
  unfold loadRetry
  repeat' first
    | with_reducible assumption | with_reducible apply loadRequest_kept | intro _ | with_reducible apply Kept.ite
    | split | dsimp only [id_eq] | simp only [Kept.mk] | (rename_i e; with_reducible refine Kept.of_eq e ?_)

theorem unloadRequestCmd_kept {s₀ : State} (a : Act) (soon : Bool) {s : State} (hK : Kept s₀ s) :
    Kept s₀ (unloadRequestCmd a soon s) := by
  unfold unloadRequestCmd
  repeat' first
    | with_reducible assumption | with_reducible apply State.unloadRequest_kept | intro _
    | with_reducible apply Kept.ite | split | dsimp only [id_eq] | simp only [Kept.mk]
    | (rename_i e; with_reducible refine Kept.of_eq e ?_)

theorem headsOnRamp_kept {s₀ : State} (a : Act) {s : State} (hK : Kept s₀ s) :
    Kept s₀ (headsOnRamp a s) := by
  unfold headsOnRamp
  repeat' first
    | with_reducible assumption | with_reducible apply State.toUnloaded_kept | intro _
    | with_reducible apply Kept.ite | split | dsimp only [id_eq] | simp only [Kept.mk]
    | (rename_i e; with_reducible refine Kept.of_eq e ?_)

theorem State.maJudge_kept {s₀ : State} {s : State} (a : Nat) (l : Nat) (measured : Nat) (hK : Kept s₀ s) :
    Kept s₀ (State.maJudge s a l measured) := by
  unfold State.maJudge
  repeat' first
    | with_reducible assumption | with_reducible apply State.post_kept | with_reducible apply State.evt_kept
    | with_reducible apply State.puts_kept | intro _ | with_reducible apply Kept.ite | split | dsimp only [id_eq]
    | simp only [Kept.mk] | (rename_i e; with_reducible refine Kept.of_eq e ?_)

theorem maStrokeMeasure_kept {s₀ : State} (a : Act) (measured : BitVec 16) {s : State} (hK : Kept s₀ s) :
    Kept s₀ (maStrokeMeasure a measured s) := by
  unfold maStrokeMeasure
  repeat' first
    | with_reducible assumption | with_reducible apply State.maJudge_kept | with_reducible apply State.puts_kept
    | intro _ | with_reducible apply Kept.ite | split | dsimp only [id_eq] | simp only [Kept.mk]
    | (rename_i e; with_reducible refine Kept.of_eq e ?_)

theorem State.srvEnable_kept {s₀ : State} {s : State} (a : Nat) (hK : Kept s₀ s) :
    Kept s₀ (State.srvEnable s a).1 := by
  unfold State.srvEnable
  repeat' first
    | with_reducible assumption | with_reducible apply State.enable_kept | with_reducible apply State.setSrv_kept
    | intro _ | with_reducible apply Kept.ite | split | dsimp only [id_eq] | simp only [Kept.mk]
    | (rename_i e; with_reducible refine Kept.of_eq e ?_)

theorem srvEnableCmd_kept {s₀ : State} (a : Act) {s : State} (hK : Kept s₀ s) :
    Kept s₀ (srvEnableCmd a s) := by
  unfold srvEnableCmd
  repeat' first
    | with_reducible assumption | with_reducible apply State.srvEnable_kept | intro _ | with_reducible apply Kept.ite
    | split | dsimp only [id_eq] | simp only [Kept.mk] | (rename_i e; with_reducible refine Kept.of_eq e ?_)

theorem State.srvDisable_kept {s₀ : State} {s : State} (a : Nat) (hK : Kept s₀ s) :
    Kept s₀ (State.srvDisable s a) := by
  unfold State.srvDisable
  repeat' first
    | with_reducible assumption | with_reducible apply State.refreshAct_kept | with_reducible apply State.setSrv_kept
    | with_reducible apply State.puts_kept | with_reducible apply State.withdraw_kept | intro _
    | with_reducible apply Kept.ite | split | dsimp only [id_eq] | simp only [Kept.mk]
    | (rename_i e; with_reducible refine Kept.of_eq e ?_)

theorem State.ofsWrite_kept {s₀ : State} {s : State} (a : Nat) (v : Nat) (hK : Kept s₀ s) :
    Kept s₀ (State.ofsWrite s a v).1 := by
  unfold State.ofsWrite
  repeat' first
    | with_reducible assumption | with_reducible apply Kept.when | with_reducible apply State.puts_kept
    | with_reducible apply State.withdraw_kept | intro _ | with_reducible apply Kept.ite | split | dsimp only [id_eq]
    | simp only [Kept.mk] | (rename_i e; with_reducible refine Kept.of_eq e ?_)

theorem srvOfsWriteCmd_kept {s₀ : State} (a : Act) (v : BitVec 16) {s : State} (hK : Kept s₀ s) :
    Kept s₀ (srvOfsWriteCmd a v s) := by
  unfold srvOfsWriteCmd
  repeat' first
    | with_reducible assumption | with_reducible apply State.ofsWrite_kept | intro _ | with_reducible apply Kept.ite
    | split | dsimp only [id_eq] | simp only [Kept.mk] | (rename_i e; with_reducible refine Kept.of_eq e ?_)

theorem execServoWedge_kept (a : Act) (w : WedgeRead) {s t : State} (h : execServoWedge a w s = .next t) : Kept s t := by
  have h := Host.Outcome.next.inj h; subst h; exact servoWedge_kept _ _ (Kept.refl s)

theorem execSamPredicted_kept (a : Act) (w : WedgeRead) {s t : State} (h : execSamPredicted a w s = .next t) : Kept s t := by
  have h := Host.Outcome.next.inj h; subst h; exact samPredicted_kept _ _ (Kept.refl s)

theorem execSeekStart_kept (a : Act) (track : BitVec 24) {s t : State} (h : execSeekStart a track s = .next t) : Kept s t := by
  have h := Host.Outcome.next.inj h; subst h; exact seekStart_kept _ _ (Kept.refl s)

theorem execSeekTimeout_kept (a : Act) {s t : State} (h : execSeekTimeout a s = .next t) : Kept s t := by
  have h := Host.Outcome.next.inj h; subst h; exact seekTimeout_kept _ (Kept.refl s)

theorem execLoadRequest_kept (a : Act) {s t : State} (h : execLoadRequest a s = .next t) : Kept s t := by
  have h := Host.Outcome.next.inj h; subst h; exact loadRequest_kept _ (Kept.refl s)

theorem execLoadDeferredStart_kept (a : Act) {s t : State} (h : execLoadDeferredStart a s = .next t) : Kept s t := by
  have h := Host.Outcome.next.inj h; subst h; exact loadDeferredStart_kept _ (Kept.refl s)

theorem execLoadingOffRamp_kept (a : Act) {s t : State} (h : execLoadingOffRamp a s = .next t) : Kept s t := by
  have h := Host.Outcome.next.inj h; subst h; exact loadingOffRamp_kept _ (Kept.refl s)

theorem execAcquireTimeout_kept (a : Act) {s t : State} (h : execAcquireTimeout a s = .next t) : Kept s t := by
  have h := Host.Outcome.next.inj h; subst h; exact acquireTimeout_kept _ (Kept.refl s)

theorem execHoldRelockTimeout_kept (a : Act) {s t : State} (h : execHoldRelockTimeout a s = .next t) : Kept s t := by
  have h := Host.Outcome.next.inj h; subst h; exact holdRelockTimeout_kept _ (Kept.refl s)

theorem execLoadRetry_kept (a : Act) {s t : State} (h : execLoadRetry a s = .next t) : Kept s t := by
  have h := Host.Outcome.next.inj h; subst h; exact loadRetry_kept _ (Kept.refl s)

theorem execUnloadRequest_kept (a : Act) (soon : Bool) {s t : State} (h : execUnloadRequest a soon s = .next t) : Kept s t := by
  have h := Host.Outcome.next.inj h; subst h; exact unloadRequestCmd_kept _ _ (Kept.refl s)

theorem execMaStrokeMeasure_kept (a : Act) (measured : BitVec 16) {s t : State} (h : execMaStrokeMeasure a measured s = .next t) : Kept s t := by
  have h := Host.Outcome.next.inj h; subst h; exact maStrokeMeasure_kept _ _ (Kept.refl s)

theorem execSrvEnable_kept (a : Act) {s t : State} (h : execSrvEnable a s = .next t) : Kept s t := by
  have h := Host.Outcome.next.inj h; subst h; exact srvEnableCmd_kept _ (Kept.refl s)

theorem execSrvOfsWrite_kept (a : Act) (v : BitVec 16) {s t : State} (h : execSrvOfsWrite a v s = .next t) : Kept s t := by
  have h := Host.Outcome.next.inj h; subst h; exact srvOfsWriteCmd_kept _ _ (Kept.refl s)

end Sys2Proof.Machine
end

