-- ==== Sys2Proof/Laws/KeptTrapeze.lean ====
section
/-!
SUPPORT. Every operation of `Machine/Trapeze.lean` keeps what `Kept` names.
-/

namespace Sys2Proof.Machine

set_option Elab.async false
set_option linter.unusedTactic false
set_option linter.unreachableTactic false
set_option linter.unusedVariables false

theorem State.shipGroups_kept {s₀ : State} {s : State} (hK : Kept s₀ s) :
    Kept s₀ (State.shipGroups s) := by
  unfold State.shipGroups
  repeat' first
    | with_reducible assumption | with_reducible apply Kept.forAll | with_reducible apply Kept.when
    | with_reducible apply State.putWin_kept | intro _ | with_reducible apply Kept.ite | split | dsimp only [id_eq]
    | simp only [Kept.mk] | (rename_i e; with_reducible refine Kept.of_eq e ?_)

theorem State.learnPoint_kept {s₀ : State} {s : State} (table : Nat) (pt : Nat) (off : Nat) (step : Int) (hK : Kept s₀ s) :
    Kept s₀ (State.learnPoint s table pt off step) := by
  unfold State.learnPoint
  repeat' first
    | with_reducible assumption | with_reducible apply Kept.when | with_reducible apply State.putWin_kept
    | with_reducible apply State.post_kept | with_reducible apply State.evt_kept | intro _
    | with_reducible apply Kept.ite | split | dsimp only [id_eq] | simp only [Kept.mk]
    | (rename_i e; with_reducible refine Kept.of_eq e ?_)

theorem State.learnVcm_kept {s₀ : State} {s : State} (n : Nat) (out : Int) (hK : Kept s₀ s) :
    Kept s₀ (State.learnVcm s n out) := by
  unfold State.learnVcm
  repeat' first
    | with_reducible assumption | with_reducible apply Kept.put | with_reducible apply State.lpView_kept
    | with_reducible apply State.putI_kept | with_reducible apply State.puts_kept
    | with_reducible apply State.learnPoint_kept | intro _ | with_reducible apply Kept.ite | split
    | dsimp only [id_eq] | simp only [Kept.mk] | (rename_i e; with_reducible refine Kept.of_eq e ?_)

theorem State.learnCog_kept {s₀ : State} {s : State} (n : Nat) (out : Int) (hK : Kept s₀ s) :
    Kept s₀ (State.learnCog s n out) := by
  unfold State.learnCog
  repeat' first
    | with_reducible assumption | with_reducible apply Kept.put | with_reducible apply State.puts_kept
    | with_reducible apply Kept.forAll | with_reducible apply State.learnPoint_kept | with_reducible apply Kept.foldl
    | with_reducible apply Kept.foldlFst | intro _ | with_reducible apply Kept.ite | split | dsimp only [id_eq]
    | simp only [Kept.mk] | (rename_i e; with_reducible refine Kept.of_eq e ?_)

theorem State.refreshInh_kept {s₀ : State} {s : State} (hK : Kept s₀ s) :
    Kept s₀ (State.refreshInh s) := by
  unfold State.refreshInh
  repeat' first
    | with_reducible assumption | with_reducible apply Kept.forAll | with_reducible apply State.putB_kept | intro _
    | with_reducible apply Kept.ite | split | dsimp only [id_eq] | simp only [Kept.mk]
    | (rename_i e; with_reducible refine Kept.of_eq e ?_)

theorem State.supervise_kept {s₀ : State} {s : State} (n : Nat) (err : Int) (hK : Kept s₀ s) :
    Kept s₀ (State.supervise s n err) := by
  unfold State.supervise
  repeat' first
    | with_reducible assumption | with_reducible apply State.refreshInh_kept
    | with_reducible apply State.setLoop_kept | with_reducible apply State.evt_kept
    | with_reducible apply State.count_kept | with_reducible apply State.setBit_kept
    | with_reducible apply State.lpDo_kept | with_reducible apply State.lpMark_kept | intro _
    | with_reducible apply Kept.ite | split | dsimp only [id_eq] | simp only [Kept.mk]
    | (rename_i e; with_reducible refine Kept.of_eq e ?_)

theorem State.setPws_kept {s₀ : State} (n : Nat) (l : List (Nat × Int)) : ∀ {s : State}, Kept s₀ s →
    Kept s₀ (State.setPws s n l) := by
  induction l with
  | nil => intro s h; exact h
  | cons e l ih => intro s h; exact ih (State.setPw_kept _ _ _ h)

theorem State.lpCommit_kept {s₀ : State} {s : State} (n : Nat) (out : Int) (sts : List (Nat × Int)) (ho : Int) (hK : Kept s₀ s) :
    Kept s₀ (State.lpCommit s n out sts ho) := by
  unfold State.lpCommit
  repeat' first
    | with_reducible assumption | with_reducible apply State.lpView_kept | with_reducible apply Kept.when
    | with_reducible apply State.putI_kept | with_reducible apply State.setPw_kept
    | with_reducible apply State.setPws_kept | with_reducible apply State.puts_kept
    | with_reducible apply State.setLoop_kept | with_reducible apply State.learnCog_kept
    | with_reducible apply State.learnVcm_kept | with_reducible apply State.supervise_kept
    | with_reducible apply Kept.forAll | with_reducible apply State.lpTrigger_kept | intro _
    | with_reducible apply Kept.ite | split | dsimp only [id_eq] | simp only [Kept.mk]
    | (rename_i e; with_reducible refine Kept.of_eq e ?_)

theorem loopDispatch_kept {s₀ : State} (whole : Bool) {s : State} (hK : Kept s₀ s) :
    Kept s₀ (loopDispatch whole s) := by
  unfold loopDispatch
  repeat' first
    | with_reducible assumption | with_reducible apply State.setLoop_kept | with_reducible apply State.drew_kept
    | with_reducible apply State.puts_kept | with_reducible apply State.lpView_kept
    | with_reducible apply State.lpCommit_kept | intro _ | with_reducible apply Kept.ite | split | dsimp only [id_eq]
    | simp only [Kept.mk] | (rename_i e; with_reducible refine Kept.of_eq e ?_)

theorem State.lpLate_kept {s₀ : State} {s : State} (n : Nat) (hK : Kept s₀ s) :
    Kept s₀ (State.lpLate s n) := by
  unfold State.lpLate
  repeat' first
    | with_reducible assumption | with_reducible apply State.lpMiss_kept | with_reducible apply State.lpStop_kept
    | with_reducible apply State.setLoop_kept | intro _ | with_reducible apply Kept.ite | split | dsimp only [id_eq]
    | simp only [Kept.mk] | (rename_i e; with_reducible refine Kept.of_eq e ?_)

theorem loopDeadlineMiss_kept {s₀ : State} (n : Fin 64) {s : State} (hK : Kept s₀ s) :
    Kept s₀ (loopDeadlineMiss n s) := by
  unfold loopDeadlineMiss
  repeat' first
    | with_reducible assumption | with_reducible apply State.lpLate_kept | with_reducible apply State.lpStop_kept
    | intro _ | with_reducible apply Kept.ite | split | dsimp only [id_eq] | simp only [Kept.mk]
    | (rename_i e; with_reducible refine Kept.of_eq e ?_)

theorem State.trzUpset_kept {s₀ : State} {s : State} (addr : Nat) (f : TrzWord) (hK : Kept s₀ s) :
    Kept s₀ (State.trzUpset s addr f) := by
  unfold State.trzUpset
  repeat' first
    | with_reducible assumption | intro _ | with_reducible apply Kept.ite | split | dsimp only [id_eq]
    | simp only [Kept.mk] | (rename_i e; with_reducible refine Kept.of_eq e ?_)

theorem State.trzRetire_kept {s₀ : State} {s : State} (hK : Kept s₀ s) :
    Kept s₀ (State.trzRetire s) := by
  unfold State.trzRetire
  repeat' first
    | with_reducible assumption | with_reducible apply Kept.forAll | with_reducible apply State.post_kept
    | with_reducible apply State.puts_kept | with_reducible apply State.refreshAct_kept | intro _
    | with_reducible apply Kept.ite | split | dsimp only [id_eq] | simp only [Kept.mk]
    | (rename_i e; with_reducible refine Kept.of_eq e ?_)

theorem State.trzMchk_kept {s₀ : State} {s : State} (cause : Nat) (smask : Nat) (hK : Kept s₀ s) :
    Kept s₀ (State.trzMchk s cause smask) := by
  unfold State.trzMchk
  repeat' first
    | with_reducible assumption | with_reducible apply State.puts_kept | with_reducible apply State.stopAssert_kept
    | with_reducible apply Kept.put | with_reducible apply State.crlCoast_kept
    | with_reducible apply State.trzRetire_kept | with_reducible apply State.post_kept
    | with_reducible apply State.count_kept | with_reducible apply State.evt_kept | intro _
    | with_reducible apply Kept.ite | split | dsimp only [id_eq] | simp only [Kept.mk]
    | (rename_i e; with_reducible refine Kept.of_eq e ?_)

theorem State.setOpnd_kept {s₀ : State} {s : State} (n : Nat) (a : Nat) (v : Int) (hK : Kept s₀ s) :
    Kept s₀ (State.setOpnd s n a v) := by
  unfold State.setOpnd
  repeat' first
    | with_reducible assumption | with_reducible apply State.setPw_kept | intro _ | with_reducible apply Kept.ite
    | split | dsimp only [id_eq] | simp only [Kept.mk] | (rename_i e; with_reducible refine Kept.of_eq e ?_)

theorem State.sat32_kept {s₀ : State} {s : State} (v : Int) (hK : Kept s₀ s) :
    Kept s₀ (State.sat32 s v).1 := by
  unfold State.sat32
  repeat' first
    | with_reducible assumption | with_reducible apply Kept.put | intro _ | with_reducible apply Kept.ite | split
    | dsimp only [id_eq] | simp only [Kept.mk] | (rename_i e; with_reducible refine Kept.of_eq e ?_)

theorem State.trzCopy_kept {s₀ : State} {s : State} (n : Nat) (hK : Kept s₀ s) :
    Kept s₀ (State.trzCopy s n) := by
  unfold State.trzCopy
  repeat' first
    | with_reducible assumption | with_reducible apply State.lpView_kept | with_reducible apply State.lpCommit_kept
    | intro _ | with_reducible apply Kept.ite | split | dsimp only [id_eq] | simp only [Kept.mk]
    | (rename_i e; with_reducible refine Kept.of_eq e ?_)

theorem State.trzWord_kept {s₀ : State} {s : State} (opc : Nat) (f : TrzWord) (op : Nat → TrzWord → State → State) (hK : Kept s₀ s) (hK_op : ∀ x0 x1 u, Kept s₀ u → Kept s₀ (op x0 x1 u)) :
    Kept s₀ (State.trzWord s opc f op) := by
  unfold State.trzWord
  repeat' first
    | with_reducible assumption | with_reducible apply State.trzUpset_kept | with_reducible apply State.trzMchk_kept
    | with_reducible apply Kept.put | with_reducible apply State.trzCopy_kept | with_reducible apply hK_op | intro _
    | with_reducible apply Kept.ite | split | dsimp only [id_eq] | simp only [Kept.mk]
    | (rename_i e; with_reducible refine Kept.of_eq e ?_)

theorem trzNop_kept {s₀ : State} (f : TrzWord) {s : State} (hK : Kept s₀ s) :
    Kept s₀ (trzNop f s) := by
  unfold trzNop
  repeat' first
    | with_reducible assumption | with_reducible apply State.trzWord_kept | intro _ | with_reducible apply Kept.ite
    | split | dsimp only [id_eq] | simp only [Kept.mk] | (rename_i e; with_reducible refine Kept.of_eq e ?_)

theorem trzJmp_kept {s₀ : State} (f : TrzWord) {s : State} (hK : Kept s₀ s) :
    Kept s₀ (trzJmp f s) := by
  unfold trzJmp
  repeat' first
    | with_reducible assumption | with_reducible apply State.trzWord_kept | with_reducible apply Kept.put | intro _
    | with_reducible apply Kept.ite | split | dsimp only [id_eq] | simp only [Kept.mk]
    | (rename_i e; with_reducible refine Kept.of_eq e ?_)

theorem trzBr_kept {s₀ : State} (f : TrzWord) {s : State} (hK : Kept s₀ s) :
    Kept s₀ (trzBr f s) := by
  unfold trzBr
  repeat' first
    | with_reducible assumption | with_reducible apply State.trzWord_kept | with_reducible apply Kept.put | intro _
    | with_reducible apply Kept.ite | split | dsimp only [id_eq] | simp only [Kept.mk]
    | (rename_i e; with_reducible refine Kept.of_eq e ?_)

theorem trzCall_kept {s₀ : State} (f : TrzWord) {s : State} (hK : Kept s₀ s) :
    Kept s₀ (trzCall f s) := by
  unfold trzCall
  repeat' first
    | with_reducible assumption | with_reducible apply State.trzWord_kept | with_reducible apply State.trzMchk_kept
    | with_reducible apply Kept.put | intro _ | with_reducible apply Kept.ite | split | dsimp only [id_eq]
    | simp only [Kept.mk] | (rename_i e; with_reducible refine Kept.of_eq e ?_)

theorem trzRet_kept {s₀ : State} (f : TrzWord) {s : State} (hK : Kept s₀ s) :
    Kept s₀ (trzRet f s) := by
  unfold trzRet
  repeat' first
    | with_reducible assumption | with_reducible apply State.trzWord_kept | with_reducible apply State.trzMchk_kept
    | with_reducible apply Kept.put | intro _ | with_reducible apply Kept.ite | split | dsimp only [id_eq]
    | simp only [Kept.mk] | (rename_i e; with_reducible refine Kept.of_eq e ?_)

theorem trzWait_kept {s₀ : State} (f : TrzWord) {s : State} (hK : Kept s₀ s) :
    Kept s₀ (trzWait f s) := by
  unfold trzWait
  repeat' first
    | with_reducible assumption | with_reducible apply State.trzWord_kept | with_reducible apply State.puts_kept
    | intro _ | with_reducible apply Kept.ite | split | dsimp only [id_eq] | simp only [Kept.mk]
    | (rename_i e; with_reducible refine Kept.of_eq e ?_)

theorem trzLd_kept {s₀ : State} (f : TrzWord) {s : State} (hK : Kept s₀ s) :
    Kept s₀ (trzLd f s) := by
  unfold trzLd
  repeat' first
    | with_reducible assumption | with_reducible apply State.trzWord_kept | with_reducible apply State.setOpnd_kept
    | intro _ | with_reducible apply Kept.ite | split | dsimp only [id_eq] | simp only [Kept.mk]
    | (rename_i e; with_reducible refine Kept.of_eq e ?_)

theorem trzMov_kept {s₀ : State} (f : TrzWord) {s : State} (hK : Kept s₀ s) :
    Kept s₀ (trzMov f s) := by
  unfold trzMov
  repeat' first
    | with_reducible assumption | with_reducible apply State.trzWord_kept | with_reducible apply State.setOpnd_kept
    | intro _ | with_reducible apply Kept.ite | split | dsimp only [id_eq] | simp only [Kept.mk]
    | (rename_i e; with_reducible refine Kept.of_eq e ?_)

theorem trzAdd_kept {s₀ : State} (f : TrzWord) {s : State} (hK : Kept s₀ s) :
    Kept s₀ (trzAdd f s) := by
  unfold trzAdd
  repeat' first
    | with_reducible assumption | with_reducible apply State.trzWord_kept | with_reducible apply State.sat32_kept
    | with_reducible apply State.setOpnd_kept | intro _ | with_reducible apply Kept.ite | split | dsimp only [id_eq]
    | simp only [Kept.mk] | (rename_i e; with_reducible refine Kept.of_eq e ?_)

theorem trzSub_kept {s₀ : State} (f : TrzWord) {s : State} (hK : Kept s₀ s) :
    Kept s₀ (trzSub f s) := by
  unfold trzSub
  repeat' first
    | with_reducible assumption | with_reducible apply State.trzWord_kept | with_reducible apply State.sat32_kept
    | with_reducible apply State.setOpnd_kept | intro _ | with_reducible apply Kept.ite | split | dsimp only [id_eq]
    | simp only [Kept.mk] | (rename_i e; with_reducible refine Kept.of_eq e ?_)

theorem trzMul_kept {s₀ : State} (f : TrzWord) {s : State} (hK : Kept s₀ s) :
    Kept s₀ (trzMul f s) := by
  unfold trzMul
  repeat' first
    | with_reducible assumption | with_reducible apply State.trzWord_kept | with_reducible apply State.putI_kept
    | intro _ | with_reducible apply Kept.ite | split | dsimp only [id_eq] | simp only [Kept.mk]
    | (rename_i e; with_reducible refine Kept.of_eq e ?_)

theorem trzMac_kept {s₀ : State} (f : TrzWord) {s : State} (hK : Kept s₀ s) :
    Kept s₀ (trzMac f s) := by
  unfold trzMac
  repeat' first
    | with_reducible assumption | with_reducible apply State.trzWord_kept | with_reducible apply State.putI_kept
    | intro _ | with_reducible apply Kept.ite | split | dsimp only [id_eq] | simp only [Kept.mk]
    | (rename_i e; with_reducible refine Kept.of_eq e ?_)

theorem trzAccout_kept {s₀ : State} (f : TrzWord) {s : State} (hK : Kept s₀ s) :
    Kept s₀ (trzAccout f s) := by
  unfold trzAccout
  repeat' first
    | with_reducible assumption | with_reducible apply State.trzWord_kept | with_reducible apply State.sat32_kept
    | with_reducible apply State.setOpnd_kept | intro _ | with_reducible apply Kept.ite | split | dsimp only [id_eq]
    | simp only [Kept.mk] | (rename_i e; with_reducible refine Kept.of_eq e ?_)

theorem trzClracc_kept {s₀ : State} (f : TrzWord) {s : State} (hK : Kept s₀ s) :
    Kept s₀ (trzClracc f s) := by
  unfold trzClracc
  repeat' first
    | with_reducible assumption | with_reducible apply State.trzWord_kept | with_reducible apply Kept.put | intro _
    | with_reducible apply Kept.ite | split | dsimp only [id_eq] | simp only [Kept.mk]
    | (rename_i e; with_reducible refine Kept.of_eq e ?_)

theorem trzMin_kept {s₀ : State} (f : TrzWord) {s : State} (hK : Kept s₀ s) :
    Kept s₀ (trzMin f s) := by
  unfold trzMin
  repeat' first
    | with_reducible assumption | with_reducible apply State.trzWord_kept | with_reducible apply State.setOpnd_kept
    | intro _ | with_reducible apply Kept.ite | split | dsimp only [id_eq] | simp only [Kept.mk]
    | (rename_i e; with_reducible refine Kept.of_eq e ?_)

theorem trzMax_kept {s₀ : State} (f : TrzWord) {s : State} (hK : Kept s₀ s) :
    Kept s₀ (trzMax f s) := by
  unfold trzMax
  repeat' first
    | with_reducible assumption | with_reducible apply State.trzWord_kept | with_reducible apply State.setOpnd_kept
    | intro _ | with_reducible apply Kept.ite | split | dsimp only [id_eq] | simp only [Kept.mk]
    | (rename_i e; with_reducible refine Kept.of_eq e ?_)

theorem trzLut_kept {s₀ : State} (f : TrzWord) {s : State} (hK : Kept s₀ s) :
    Kept s₀ (trzLut f s) := by
  unfold trzLut
  repeat' first
    | with_reducible assumption | with_reducible apply State.trzWord_kept | with_reducible apply State.putI_kept
    | with_reducible apply State.puts_kept | intro _ | with_reducible apply Kept.ite | split | dsimp only [id_eq]
    | simp only [Kept.mk] | (rename_i e; with_reducible refine Kept.of_eq e ?_)

theorem trzCmp_kept {s₀ : State} (f : TrzWord) {s : State} (hK : Kept s₀ s) :
    Kept s₀ (trzCmp f s) := by
  unfold trzCmp
  repeat' first
    | with_reducible assumption | with_reducible apply State.trzWord_kept | with_reducible apply State.putB_kept
    | intro _ | with_reducible apply Kept.ite | split | dsimp only [id_eq] | simp only [Kept.mk]
    | (rename_i e; with_reducible refine Kept.of_eq e ?_)

theorem trzEnd_kept {s₀ : State} (f : TrzWord) {s : State} (hK : Kept s₀ s) :
    Kept s₀ (trzEnd f s) := by
  unfold trzEnd
  repeat' first
    | with_reducible assumption | with_reducible apply State.trzWord_kept | with_reducible apply Kept.put | intro _
    | with_reducible apply Kept.ite | split | dsimp only [id_eq] | simp only [Kept.mk]
    | (rename_i e; with_reducible refine Kept.of_eq e ?_)

theorem trzWaitMet_kept {s₀ : State} {s : State} (hK : Kept s₀ s) :
    Kept s₀ (trzWaitMet s) := by
  unfold trzWaitMet
  repeat' first
    | with_reducible assumption | with_reducible apply Kept.put | intro _ | with_reducible apply Kept.ite | split
    | dsimp only [id_eq] | simp only [Kept.mk] | (rename_i e; with_reducible refine Kept.of_eq e ?_)

theorem trzWaitTimeout_kept {s₀ : State} {s : State} (hK : Kept s₀ s) :
    Kept s₀ (trzWaitTimeout s) := by
  unfold trzWaitTimeout
  repeat' first
    | with_reducible assumption | with_reducible apply Kept.put | with_reducible apply State.puts_kept
    | with_reducible apply State.lpLate_kept | intro _ | with_reducible apply Kept.ite | split | dsimp only [id_eq]
    | simp only [Kept.mk] | (rename_i e; with_reducible refine Kept.of_eq e ?_)

theorem lutReady_kept {s₀ : State} {s : State} (hK : Kept s₀ s) :
    Kept s₀ (lutReady s) := by
  unfold lutReady
  repeat' first
    | with_reducible assumption | with_reducible apply State.lpView_kept | with_reducible apply State.setOpnd_kept
    | with_reducible apply State.puts_kept | intro _ | with_reducible apply Kept.ite | split | dsimp only [id_eq]
    | simp only [Kept.mk] | (rename_i e; with_reducible refine Kept.of_eq e ?_)

theorem trzScrubError_kept {s₀ : State} (addr : Fin 8192) (f : TrzWord) {s : State} (hK : Kept s₀ s) :
    Kept s₀ (trzScrubError addr f s) := by
  unfold trzScrubError
  repeat' first
    | with_reducible assumption | with_reducible apply State.trzUpset_kept | with_reducible apply State.post_kept
    | with_reducible apply State.evt_kept | with_reducible apply State.count_kept | intro _
    | with_reducible apply Kept.ite | split | dsimp only [id_eq] | simp only [Kept.mk]
    | (rename_i e; with_reducible refine Kept.of_eq e ?_)

theorem trzScrubRewriteDone_kept {s₀ : State} {s : State} (hK : Kept s₀ s) :
    Kept s₀ (trzScrubRewriteDone s) := by
  unfold trzScrubRewriteDone
  repeat' first
    | with_reducible assumption | with_reducible apply State.imageRead_kept | intro _ | with_reducible apply Kept.ite
    | split | dsimp only [id_eq] | simp only [Kept.mk] | (rename_i e; with_reducible refine Kept.of_eq e ?_)

theorem State.clearStates_kept {s₀ s : State}  (h : Kept s₀ s) : Kept s₀ (State.clearStates s) :=
  h.trans ⟨rfl, fun x => by
    rw [State.canon_iff] at x ⊢
    obtain ⟨x0, x1, x2, x3, x4, x5, x6, x7⟩ := x
    exact ⟨x0, bytesOk_filter _ _ _ x1, x2, x3, x4, x5, x6, x7⟩⟩

theorem State.trzLoad_kept {s₀ : State} {s : State} (hK : Kept s₀ s) :
    Kept s₀ (State.trzLoad s) := by
  unfold State.trzLoad
  repeat' first
    | with_reducible assumption | with_reducible apply State.loadWin_kept | with_reducible apply State.copyWin_kept
    | intro _ | with_reducible apply Kept.ite | split | dsimp only [id_eq] | simp only [Kept.mk]
    | (rename_i e; with_reducible refine Kept.of_eq e ?_)

theorem State.trzFill_kept {s₀ : State} {s : State} (hK : Kept s₀ s) :
    Kept s₀ (State.trzFill s) := by
  unfold State.trzFill
  repeat' first
    | with_reducible assumption | with_reducible apply State.shipGroups_kept
    | with_reducible apply State.trzLoad_kept | with_reducible apply State.imageRead_kept
    | with_reducible apply Kept.when | with_reducible apply State.setVinBudget_kept | intro _
    | with_reducible apply Kept.ite | split | dsimp only [id_eq] | simp only [Kept.mk]
    | (rename_i e; with_reducible refine Kept.of_eq e ?_)

theorem State.trzEnable_kept {s₀ : State} {s : State} (crcPass : Bool) (hK : Kept s₀ s) :
    Kept s₀ (State.trzEnable s crcPass).1 := by
  unfold State.trzEnable
  repeat' first
    | with_reducible assumption | with_reducible apply State.trzFill_kept | with_reducible apply State.enable_kept
    | with_reducible apply Kept.forAll | with_reducible apply State.setBit_kept
    | with_reducible apply State.refreshInh_kept | with_reducible apply State.puts_kept
    | with_reducible apply State.clearStates_kept | with_reducible apply State.putI_kept | intro _
    | with_reducible apply Kept.ite | split | dsimp only [id_eq] | simp only [Kept.mk]
    | (rename_i e; with_reducible refine Kept.of_eq e ?_)

theorem trzEnableCmd_kept {s₀ : State} (crcPass : Bool) {s : State} (hK : Kept s₀ s) :
    Kept s₀ (trzEnableCmd crcPass s) := by
  unfold trzEnableCmd
  repeat' first
    | with_reducible assumption | with_reducible apply State.trzEnable_kept | intro _ | with_reducible apply Kept.ite
    | split | dsimp only [id_eq] | simp only [Kept.mk] | (rename_i e; with_reducible refine Kept.of_eq e ?_)

theorem State.trzDisable_kept {s₀ : State} {s : State} (hK : Kept s₀ s) :
    Kept s₀ (State.trzDisable s) := by
  unfold State.trzDisable
  repeat' first
    | with_reducible assumption | with_reducible apply State.refreshInh_kept | with_reducible apply State.puts_kept
    | intro _ | with_reducible apply Kept.ite | split | dsimp only [id_eq] | simp only [Kept.mk]
    | (rename_i e; with_reducible refine Kept.of_eq e ?_)

theorem trzMchkReload_kept {s₀ : State} (crcPass : Bool) {s : State} (hK : Kept s₀ s) :
    Kept s₀ (trzMchkReload crcPass s) := by
  unfold trzMchkReload
  repeat' first
    | with_reducible assumption | with_reducible apply State.trzEnable_kept
    | with_reducible apply State.trzDisable_kept | intro _ | with_reducible apply Kept.ite | split
    | dsimp only [id_eq] | simp only [Kept.mk] | (rename_i e; with_reducible refine Kept.of_eq e ?_)

theorem execTrzEnable_kept (crcPass : Bool) {s t : State} (h : execTrzEnable crcPass s = .next t) : Kept s t := by
  have h := Host.Outcome.next.inj h; subst h; exact trzEnableCmd_kept _ (Kept.refl s)

theorem execTrzNop_kept (flip : TrzWord) {s t : State} (h : execTrzNop flip s = .next t) : Kept s t := by
  have h := Host.Outcome.next.inj h; subst h; exact trzNop_kept _ (Kept.refl s)

theorem execTrzJmp_kept (flip : TrzWord) {s t : State} (h : execTrzJmp flip s = .next t) : Kept s t := by
  have h := Host.Outcome.next.inj h; subst h; exact trzJmp_kept _ (Kept.refl s)

theorem execTrzBr_kept (flip : TrzWord) {s t : State} (h : execTrzBr flip s = .next t) : Kept s t := by
  have h := Host.Outcome.next.inj h; subst h; exact trzBr_kept _ (Kept.refl s)

theorem execTrzCall_kept (flip : TrzWord) {s t : State} (h : execTrzCall flip s = .next t) : Kept s t := by
  have h := Host.Outcome.next.inj h; subst h; exact trzCall_kept _ (Kept.refl s)

theorem execTrzRet_kept (flip : TrzWord) {s t : State} (h : execTrzRet flip s = .next t) : Kept s t := by
  have h := Host.Outcome.next.inj h; subst h; exact trzRet_kept _ (Kept.refl s)

theorem execTrzWait_kept (flip : TrzWord) {s t : State} (h : execTrzWait flip s = .next t) : Kept s t := by
  have h := Host.Outcome.next.inj h; subst h; exact trzWait_kept _ (Kept.refl s)

theorem execTrzLd_kept (flip : TrzWord) {s t : State} (h : execTrzLd flip s = .next t) : Kept s t := by
  have h := Host.Outcome.next.inj h; subst h; exact trzLd_kept _ (Kept.refl s)

theorem execTrzMov_kept (flip : TrzWord) {s t : State} (h : execTrzMov flip s = .next t) : Kept s t := by
  have h := Host.Outcome.next.inj h; subst h; exact trzMov_kept _ (Kept.refl s)

theorem execTrzAdd_kept (flip : TrzWord) {s t : State} (h : execTrzAdd flip s = .next t) : Kept s t := by
  have h := Host.Outcome.next.inj h; subst h; exact trzAdd_kept _ (Kept.refl s)

theorem execTrzSub_kept (flip : TrzWord) {s t : State} (h : execTrzSub flip s = .next t) : Kept s t := by
  have h := Host.Outcome.next.inj h; subst h; exact trzSub_kept _ (Kept.refl s)

theorem execTrzMul_kept (flip : TrzWord) {s t : State} (h : execTrzMul flip s = .next t) : Kept s t := by
  have h := Host.Outcome.next.inj h; subst h; exact trzMul_kept _ (Kept.refl s)

theorem execTrzMac_kept (flip : TrzWord) {s t : State} (h : execTrzMac flip s = .next t) : Kept s t := by
  have h := Host.Outcome.next.inj h; subst h; exact trzMac_kept _ (Kept.refl s)

theorem execTrzAccout_kept (flip : TrzWord) {s t : State} (h : execTrzAccout flip s = .next t) : Kept s t := by
  have h := Host.Outcome.next.inj h; subst h; exact trzAccout_kept _ (Kept.refl s)

theorem execTrzClracc_kept (flip : TrzWord) {s t : State} (h : execTrzClracc flip s = .next t) : Kept s t := by
  have h := Host.Outcome.next.inj h; subst h; exact trzClracc_kept _ (Kept.refl s)

theorem execTrzMin_kept (flip : TrzWord) {s t : State} (h : execTrzMin flip s = .next t) : Kept s t := by
  have h := Host.Outcome.next.inj h; subst h; exact trzMin_kept _ (Kept.refl s)

theorem execTrzMax_kept (flip : TrzWord) {s t : State} (h : execTrzMax flip s = .next t) : Kept s t := by
  have h := Host.Outcome.next.inj h; subst h; exact trzMax_kept _ (Kept.refl s)

theorem execTrzLut_kept (flip : TrzWord) {s t : State} (h : execTrzLut flip s = .next t) : Kept s t := by
  have h := Host.Outcome.next.inj h; subst h; exact trzLut_kept _ (Kept.refl s)

theorem execTrzCmp_kept (flip : TrzWord) {s t : State} (h : execTrzCmp flip s = .next t) : Kept s t := by
  have h := Host.Outcome.next.inj h; subst h; exact trzCmp_kept _ (Kept.refl s)

theorem execTrzEnd_kept (flip : TrzWord) {s t : State} (h : execTrzEnd flip s = .next t) : Kept s t := by
  have h := Host.Outcome.next.inj h; subst h; exact trzEnd_kept _ (Kept.refl s)

theorem execTrzWaitMet_kept {s t : State} (h : execTrzWaitMet s = .next t) : Kept s t := by
  have h := Host.Outcome.next.inj h; subst h; exact trzWaitMet_kept  (Kept.refl s)

theorem execTrzWaitTimeout_kept {s t : State} (h : execTrzWaitTimeout s = .next t) : Kept s t := by
  have h := Host.Outcome.next.inj h; subst h; exact trzWaitTimeout_kept  (Kept.refl s)

theorem execLutReady_kept {s t : State} (h : execLutReady s = .next t) : Kept s t := by
  have h := Host.Outcome.next.inj h; subst h; exact lutReady_kept  (Kept.refl s)

theorem execLoopDispatch_kept (whole : Bool) {s t : State} (h : execLoopDispatch whole s = .next t) : Kept s t := by
  have h := Host.Outcome.next.inj h; subst h; exact loopDispatch_kept _ (Kept.refl s)

theorem execLoopDeadlineMiss_kept (n : Fin 64) {s t : State} (h : execLoopDeadlineMiss n s = .next t) : Kept s t := by
  have h := Host.Outcome.next.inj h; subst h; exact loopDeadlineMiss_kept _ (Kept.refl s)

theorem execTrzScrubError_kept (addr : Fin 8192) (flip : TrzWord) {s t : State} (h : execTrzScrubError addr flip s = .next t) : Kept s t := by
  have h := Host.Outcome.next.inj h; subst h; exact trzScrubError_kept _ _ (Kept.refl s)

theorem execTrzScrubRewriteDone_kept {s t : State} (h : execTrzScrubRewriteDone s = .next t) : Kept s t := by
  have h := Host.Outcome.next.inj h; subst h; exact trzScrubRewriteDone_kept  (Kept.refl s)

theorem execTrzMchkReload_kept (crcPass : Bool) {s t : State} (h : execTrzMchkReload crcPass s = .next t) : Kept s t := by
  have h := Host.Outcome.next.inj h; subst h; exact trzMchkReload_kept _ (Kept.refl s)

end Sys2Proof.Machine
end

