-- ==== Sys2Proof/Laws/KeptCarousel.lean ====
section
/-!
SUPPORT. Every operation of `Machine/Carousel.lean` keeps what `Kept` names.
-/

namespace Sys2Proof.Machine

set_option Elab.async false
set_option linter.unusedTactic false
set_option linter.unreachableTactic false
set_option linter.unusedVariables false

theorem State.tryStart_kept {s₀ : State} {s : State} (hK : Kept s₀ s) :
    Kept s₀ (State.tryStart s) := by
  unfold State.tryStart
  repeat' first
    | with_reducible assumption | with_reducible apply Kept.forAll | with_reducible apply State.puts_kept
    | with_reducible apply Kept.when | with_reducible apply State.setBit_kept | with_reducible apply State.crlTo_kept
    | intro _ | with_reducible apply Kept.ite | split | dsimp only [id_eq] | simp only [Kept.mk]
    | (rename_i e; with_reducible refine Kept.of_eq e ?_)

theorem State.applySp_kept {s₀ : State} {s : State} (n : Nat) (hK : Kept s₀ s) :
    Kept s₀ (State.applySp s n) := by
  unfold State.applySp
  repeat' first
    | with_reducible assumption | with_reducible apply State.setAtSp_kept | with_reducible apply State.puts_kept
    | with_reducible apply State.unloadAll_kept | with_reducible apply State.crlTo_kept
    | with_reducible apply State.driveRefs_kept | with_reducible apply Kept.put
    | with_reducible apply State.tryStart_kept | intro _ | with_reducible apply Kept.ite | split | dsimp only [id_eq]
    | simp only [Kept.mk] | (rename_i e; with_reducible refine Kept.of_eq e ?_)

theorem State.evalSp_kept {s₀ : State} {s : State} (hK : Kept s₀ s) :
    Kept s₀ (State.evalSp s) := by
  unfold State.evalSp
  repeat' first
    | with_reducible assumption | with_reducible apply Kept.put | with_reducible apply State.puts_kept
    | with_reducible apply State.applySp_kept | intro _ | with_reducible apply Kept.ite | split | dsimp only [id_eq]
    | simp only [Kept.mk] | (rename_i e; with_reducible refine Kept.of_eq e ?_)

theorem spOvr_kept {s₀ : State} (ovr : Bool) (req : Fin 4) {s : State} (hK : Kept s₀ s) :
    Kept s₀ (spOvr ovr req s) := by
  unfold spOvr
  repeat' first
    | with_reducible assumption | with_reducible apply State.evalSp_kept | with_reducible apply State.puts_kept
    | intro _ | with_reducible apply Kept.ite | split | dsimp only [id_eq] | simp only [Kept.mk]
    | (rename_i e; with_reducible refine Kept.of_eq e ?_)

theorem setpointApply_kept {s₀ : State} {s : State} (hK : Kept s₀ s) :
    Kept s₀ (setpointApply s) := by
  unfold setpointApply
  repeat' first
    | with_reducible assumption | with_reducible apply State.applySp_kept | intro _ | with_reducible apply Kept.ite
    | split | dsimp only [id_eq] | simp only [Kept.mk] | (rename_i e; with_reducible refine Kept.of_eq e ?_)

theorem State.track_kept {s₀ : State} {s : State} (o : PwmObs) (i : Nat) (hK : Kept s₀ s) :
    Kept s₀ (State.track s o i) := by
  unfold State.track
  repeat' first
    | with_reducible assumption | with_reducible apply Kept.put | with_reducible apply State.puts_kept
    | with_reducible apply State.putI_kept | intro _ | with_reducible apply Kept.ite | split | dsimp only [id_eq]
    | simp only [Kept.mk] | (rename_i e; with_reducible refine Kept.of_eq e ?_)

theorem State.srcStep_kept {s₀ : State} {s : State} (o : PwmObs) (i : Nat) (hK : Kept s₀ s) :
    Kept s₀ (State.srcStep s o i) := by
  unfold State.srcStep
  repeat' first
    | with_reducible assumption | with_reducible apply State.track_kept | with_reducible apply State.putI_kept
    | with_reducible apply State.puts_kept | intro _ | with_reducible apply Kept.ite | split | dsimp only [id_eq]
    | simp only [Kept.mk] | (rename_i e; with_reducible refine Kept.of_eq e ?_)

theorem State.srcLossAll_kept {s₀ : State} {s : State} (last : Nat) (hK : Kept s₀ s) :
    Kept s₀ (State.srcLossAll s last) := by
  unfold State.srcLossAll
  repeat' first
    | with_reducible assumption | with_reducible apply State.puts_kept | with_reducible apply State.crlCoast_kept
    | with_reducible apply State.post_kept | with_reducible apply State.count_kept
    | with_reducible apply State.evt_kept | with_reducible apply State.unloadAll_kept | intro _
    | with_reducible apply Kept.ite | split | dsimp only [id_eq] | simp only [Kept.mk]
    | (rename_i e; with_reducible refine Kept.of_eq e ?_)

theorem State.srcLost_kept {s₀ : State} {s : State} (src : Nat) (hK : Kept s₀ s) :
    Kept s₀ (State.srcLost s src) := by
  unfold State.srcLost
  repeat' first
    | with_reducible assumption | with_reducible apply State.srcLossAll_kept | with_reducible apply State.post_kept
    | with_reducible apply State.count_kept | with_reducible apply State.evt_kept
    | with_reducible apply State.puts_kept | intro _ | with_reducible apply Kept.ite | split | dsimp only [id_eq]
    | simp only [Kept.mk] | (rename_i e; with_reducible refine Kept.of_eq e ?_)

theorem State.slewStep_kept {s₀ : State} {s : State} (src : Nat) (b : Nat) (hK : Kept s₀ s) :
    Kept s₀ (State.slewStep s src b) := by
  unfold State.slewStep
  repeat' first
    | with_reducible assumption | with_reducible apply State.puts_kept | with_reducible apply State.putI_kept
    | with_reducible apply Kept.put | intro _ | with_reducible apply Kept.ite | split | dsimp only [id_eq]
    | simp only [Kept.mk] | (rename_i e; with_reducible refine Kept.of_eq e ?_)

theorem State.srcUse_kept {s₀ : State} {s : State} (hK : Kept s₀ s) :
    Kept s₀ (State.srcUse s) := by
  unfold State.srcUse
  repeat' first
    | with_reducible assumption | with_reducible apply State.puts_kept | with_reducible apply State.srcLossAll_kept
    | with_reducible apply Kept.when | with_reducible apply Kept.put | with_reducible apply State.srcLost_kept
    | with_reducible apply State.slewStep_kept | intro _ | with_reducible apply Kept.ite | split | dsimp only [id_eq]
    | simp only [Kept.mk] | (rename_i e; with_reducible refine Kept.of_eq e ?_)

theorem State.srcShow_kept {s₀ : State} {s : State} (o : PwmObs) (hK : Kept s₀ s) :
    Kept s₀ (State.srcShow s o) := by
  unfold State.srcShow
  repeat' first
    | with_reducible assumption | with_reducible apply Kept.when | with_reducible apply Kept.put
    | with_reducible apply State.puts_kept | intro _ | with_reducible apply Kept.ite | split | dsimp only [id_eq]
    | simp only [Kept.mk] | (rename_i e; with_reducible refine Kept.of_eq e ?_)

theorem State.encShift_kept {s₀ : State} {s : State} (hK : Kept s₀ s) :
    Kept s₀ (State.encShift s) := by
  unfold State.encShift
  repeat' first
    | with_reducible assumption | with_reducible apply State.puts_kept | with_reducible apply State.putI_kept
    | with_reducible apply Kept.put | with_reducible apply State.post_kept | with_reducible apply State.evt_kept
    | intro _ | with_reducible apply Kept.ite | split | dsimp only [id_eq] | simp only [Kept.mk]
    | (rename_i e; with_reducible refine Kept.of_eq e ?_)

theorem State.park_kept {s₀ : State} {s : State} (hK : Kept s₀ s) :
    Kept s₀ (State.park s) := by
  unfold State.park
  repeat' first
    | with_reducible assumption | with_reducible apply State.putI_kept | with_reducible apply Kept.foldl
    | with_reducible apply Kept.foldlFst | intro _ | with_reducible apply Kept.ite | split | dsimp only [id_eq]
    | simp only [Kept.mk] | (rename_i e; with_reducible refine Kept.of_eq e ?_)

theorem State.modulate_kept {s₀ : State} {s : State} (hK : Kept s₀ s) :
    Kept s₀ (State.modulate s) := by
  unfold State.modulate
  repeat' first
    | with_reducible assumption | with_reducible apply State.puts_kept | with_reducible apply State.drew_kept
    | intro _ | with_reducible apply Kept.ite | split | dsimp only [id_eq] | simp only [Kept.mk]
    | (rename_i e; with_reducible refine Kept.of_eq e ?_)

theorem State.brake_kept {s₀ : State} {s : State} (hK : Kept s₀ s) :
    Kept s₀ (State.brake s) := by
  unfold State.brake
  repeat' first
    | with_reducible assumption | with_reducible apply State.crlTo_kept | intro _ | with_reducible apply Kept.ite
    | split | dsimp only [id_eq] | simp only [Kept.mk] | (rename_i e; with_reducible refine Kept.of_eq e ?_)

theorem State.crlStep_kept {s₀ : State} {s : State} (o : PwmObs) (hK : Kept s₀ s) :
    Kept s₀ (State.crlStep s o) := by
  unfold State.crlStep
  repeat' first
    | with_reducible assumption | with_reducible apply State.tryStart_kept | with_reducible apply State.crlTo_kept
    | with_reducible apply State.puts_kept | with_reducible apply Kept.put | with_reducible apply State.brake_kept
    | with_reducible apply State.count_kept | with_reducible apply State.srcLossAll_kept | intro _
    | with_reducible apply Kept.ite | split | dsimp only [id_eq] | simp only [Kept.mk]
    | (rename_i e; with_reducible refine Kept.of_eq e ?_)

theorem State.spinUpDone_kept {s₀ : State} {s : State} (hK : Kept s₀ s) :
    Kept s₀ (State.spinUpDone s) := by
  unfold State.spinUpDone
  repeat' first
    | with_reducible assumption | with_reducible apply State.setVinBudget_kept | with_reducible apply State.puts_kept
    | intro _ | with_reducible apply Kept.ite | split | dsimp only [id_eq] | simp only [Kept.mk]
    | (rename_i e; with_reducible refine Kept.of_eq e ?_)

theorem State.speedFlags_kept {s₀ : State} {s : State} (hK : Kept s₀ s) :
    Kept s₀ (State.speedFlags s) := by
  unfold State.speedFlags
  repeat' first
    | with_reducible assumption | with_reducible apply Kept.when | with_reducible apply Kept.put
    | with_reducible apply State.stepEnd_kept | with_reducible apply State.spinUpDone_kept
    | with_reducible apply State.setAtSp_kept | with_reducible apply State.putB_kept
    | with_reducible apply State.unloadAll_kept | intro _ | with_reducible apply Kept.ite | split
    | dsimp only [id_eq] | simp only [Kept.mk] | (rename_i e; with_reducible refine Kept.of_eq e ?_)

theorem State.shuntOffsets_kept {s₀ : State} {s : State} (hK : Kept s₀ s) :
    Kept s₀ (State.shuntOffsets s) := by
  unfold State.shuntOffsets
  repeat' first
    | with_reducible assumption | with_reducible apply Kept.forAll | with_reducible apply Kept.put
    | with_reducible apply State.putI_kept | intro _ | with_reducible apply Kept.ite | split | dsimp only [id_eq]
    | simp only [Kept.mk] | (rename_i e; with_reducible refine Kept.of_eq e ?_)

theorem State.applyPwm_kept {s₀ : State} {s : State} (hK : Kept s₀ s) :
    Kept s₀ (State.applyPwm s) := by
  unfold State.applyPwm
  repeat' first
    | with_reducible assumption | with_reducible apply State.puts_kept | intro _ | with_reducible apply Kept.ite
    | split | dsimp only [id_eq] | simp only [Kept.mk] | (rename_i e; with_reducible refine Kept.of_eq e ?_)

theorem State.crlPeriod_kept {s₀ : State} {s : State} (o : PwmObs) (hK : Kept s₀ s) :
    Kept s₀ (State.crlPeriod s o) := by
  unfold State.crlPeriod
  repeat' first
    | with_reducible assumption | with_reducible apply State.puts_kept | with_reducible apply State.srcStep_kept
    | with_reducible apply State.encShift_kept | with_reducible apply Kept.put
    | with_reducible apply State.srcShow_kept | with_reducible apply State.srcUse_kept
    | with_reducible apply State.modulate_kept | with_reducible apply State.crlStep_kept
    | with_reducible apply State.speedFlags_kept | with_reducible apply State.shuntOffsets_kept | intro _
    | with_reducible apply Kept.ite | split | dsimp only [id_eq] | simp only [Kept.mk]
    | (rename_i e; with_reducible refine Kept.of_eq e ?_)

theorem State.resAmp_kept {s₀ : State} {s : State} (o : PwmObs) (hK : Kept s₀ s) :
    Kept s₀ (State.resAmp s o) := by
  unfold State.resAmp
  repeat' first
    | with_reducible assumption | with_reducible apply Kept.put | intro _ | with_reducible apply Kept.ite | split
    | dsimp only [id_eq] | simp only [Kept.mk] | (rename_i e; with_reducible refine Kept.of_eq e ?_)

theorem pwmPeriod_kept {s₀ : State} (o : PwmObs) {s : State} (hK : Kept s₀ s) :
    Kept s₀ (pwmPeriod o s) := by
  unfold pwmPeriod
  repeat' first
    | with_reducible assumption | with_reducible apply State.crlPeriod_kept | with_reducible apply State.resAmp_kept
    | with_reducible apply State.applyPwm_kept | intro _ | with_reducible apply Kept.ite | split | dsimp only [id_eq]
    | simp only [Kept.mk] | (rename_i e; with_reducible refine Kept.of_eq e ?_)

theorem mediaWedgeMissing_kept {s₀ : State} {s : State} (hK : Kept s₀ s) :
    Kept s₀ (mediaWedgeMissing s) := by
  unfold mediaWedgeMissing
  repeat' first
    | with_reducible assumption | with_reducible apply Kept.when | with_reducible apply State.puts_kept | intro _
    | with_reducible apply Kept.ite | split | dsimp only [id_eq] | simp only [Kept.mk]
    | (rename_i e; with_reducible refine Kept.of_eq e ?_)

theorem sensePulse_kept {s₀ : State} (peak : BitVec 16) {s : State} (hK : Kept s₀ s) :
    Kept s₀ (sensePulse peak s) := by
  unfold sensePulse
  repeat' first
    | with_reducible assumption | with_reducible apply State.puts_kept | with_reducible apply State.crlTo_kept
    | with_reducible apply Kept.foldl | with_reducible apply Kept.foldlFst | intro _ | with_reducible apply Kept.ite
    | split | dsimp only [id_eq] | simp only [Kept.mk] | (rename_i e; with_reducible refine Kept.of_eq e ?_)

theorem alignEnd_kept {s₀ : State} {s : State} (hK : Kept s₀ s) :
    Kept s₀ (alignEnd s) := by
  unfold alignEnd
  repeat' first
    | with_reducible assumption | with_reducible apply State.crlTo_kept | intro _ | with_reducible apply Kept.ite
    | split | dsimp only [id_eq] | simp only [Kept.mk] | (rename_i e; with_reducible refine Kept.of_eq e ?_)

theorem startAttemptFail_kept {s₀ : State} (top : Nat) {s : State} (hK : Kept s₀ s) :
    Kept s₀ (startAttemptFail top s) := by
  unfold startAttemptFail
  repeat' first
    | with_reducible assumption | with_reducible apply State.post_kept | with_reducible apply State.count_kept
    | with_reducible apply State.evt_kept | with_reducible apply State.crlTo_kept
    | with_reducible apply State.puts_kept | intro _ | with_reducible apply Kept.ite | split | dsimp only [id_eq]
    | simp only [Kept.mk] | (rename_i e; with_reducible refine Kept.of_eq e ?_)

theorem State.shortTimer_kept {s₀ : State} {s : State} (hK : Kept s₀ s) :
    Kept s₀ (State.shortTimer s) := by
  unfold State.shortTimer
  repeat' first
    | with_reducible assumption | with_reducible apply State.crlTo_kept | with_reducible apply State.puts_kept
    | with_reducible apply State.post_kept | with_reducible apply State.evt_kept | with_reducible apply Kept.put
    | intro _ | with_reducible apply Kept.ite | split | dsimp only [id_eq] | simp only [Kept.mk]
    | (rename_i e; with_reducible refine Kept.of_eq e ?_)

theorem State.shortQuiet_kept {s₀ : State} {s : State} (hK : Kept s₀ s) :
    Kept s₀ (State.shortQuiet s) := by
  unfold State.shortQuiet
  repeat' first
    | with_reducible assumption | with_reducible apply State.crlTo_kept | with_reducible apply State.setAtSp_kept
    | with_reducible apply State.puts_kept | intro _ | with_reducible apply Kept.ite | split | dsimp only [id_eq]
    | simp only [Kept.mk] | (rename_i e; with_reducible refine Kept.of_eq e ?_)

theorem State.seedBemf_kept {s₀ : State} {s : State} (interval : Nat) (sector : Nat) (hK : Kept s₀ s) :
    Kept s₀ (State.seedBemf s interval sector) := by
  unfold State.seedBemf
  repeat' first
    | with_reducible assumption | with_reducible apply State.putI_kept | with_reducible apply State.puts_kept
    | intro _ | with_reducible apply Kept.ite | split | dsimp only [id_eq] | simp only [Kept.mk]
    | (rename_i e; with_reducible refine Kept.of_eq e ?_)

theorem zeroCrossing_kept {s₀ : State} (interval : Nat) (sector : Fin 6) {s : State} (hK : Kept s₀ s) :
    Kept s₀ (zeroCrossing interval sector s) := by
  unfold zeroCrossing
  repeat' first
    | with_reducible assumption | with_reducible apply State.puts_kept | with_reducible apply State.post_kept
    | with_reducible apply State.crlTo_kept | with_reducible apply State.seedBemf_kept | intro _
    | with_reducible apply Kept.ite | split | dsimp only [id_eq] | simp only [Kept.mk]
    | (rename_i e; with_reducible refine Kept.of_eq e ?_)

theorem catchTimeout_kept {s₀ : State} (peak : BitVec 16) {s : State} (hK : Kept s₀ s) :
    Kept s₀ (catchTimeout peak s) := by
  unfold catchTimeout
  repeat' first
    | with_reducible assumption | with_reducible apply State.evt_kept | with_reducible apply State.puts_kept
    | with_reducible apply Kept.when | with_reducible apply State.post_kept | with_reducible apply State.crlTo_kept
    | with_reducible apply Kept.put | intro _ | with_reducible apply Kept.ite | split | dsimp only [id_eq]
    | simp only [Kept.mk] | (rename_i e; with_reducible refine Kept.of_eq e ?_)

theorem catchRetry_kept {s₀ : State} (peak : BitVec 16) {s : State} (hK : Kept s₀ s) :
    Kept s₀ (catchRetry peak s) := by
  unfold catchRetry
  repeat' first
    | with_reducible assumption | with_reducible apply State.puts_kept | with_reducible apply State.crlTo_kept
    | intro _ | with_reducible apply Kept.ite | split | dsimp only [id_eq] | simp only [Kept.mk]
    | (rename_i e; with_reducible refine Kept.of_eq e ?_)

theorem State.crlChopFault_kept {s₀ : State} {s : State} (hK : Kept s₀ s) :
    Kept s₀ (State.crlChopFault s) := by
  unfold State.crlChopFault
  repeat' first
    | with_reducible assumption | with_reducible apply State.evt_kept | with_reducible apply Kept.put
    | with_reducible apply State.post_kept | with_reducible apply State.crlTo_kept | intro _
    | with_reducible apply Kept.ite | split | dsimp only [id_eq] | simp only [Kept.mk]
    | (rename_i e; with_reducible refine Kept.of_eq e ?_)

theorem State.crlOvTrip_kept {s₀ : State} {s : State} (hK : Kept s₀ s) :
    Kept s₀ (State.crlOvTrip s) := by
  unfold State.crlOvTrip
  repeat' first
    | with_reducible assumption | with_reducible apply State.post_kept | with_reducible apply State.count_kept
    | with_reducible apply State.evt_kept | with_reducible apply State.unloadAll_kept | with_reducible apply Kept.put
    | with_reducible apply State.crlCoast_kept | intro _ | with_reducible apply Kept.ite | split | dsimp only [id_eq]
    | simp only [Kept.mk] | (rename_i e; with_reducible refine Kept.of_eq e ?_)

theorem ovRecovery_kept {s₀ : State} {s : State} (hK : Kept s₀ s) :
    Kept s₀ (ovRecovery s) := by
  unfold ovRecovery
  repeat' first
    | with_reducible assumption | with_reducible apply State.crlTo_kept | with_reducible apply State.puts_kept
    | intro _ | with_reducible apply Kept.ite | split | dsimp only [id_eq] | simp only [Kept.mk]
    | (rename_i e; with_reducible refine Kept.of_eq e ?_)

theorem State.crlEnable_kept {s₀ : State} {s : State} (resOk : Bool) (hK : Kept s₀ s) :
    Kept s₀ (State.crlEnable s resOk).1 := by
  unfold State.crlEnable
  repeat' first
    | with_reducible assumption | with_reducible apply State.enable_kept | with_reducible apply State.puts_kept
    | with_reducible apply State.evalSp_kept | with_reducible apply State.crlTo_kept
    | with_reducible apply State.setVinBudget_kept | intro _ | with_reducible apply Kept.ite | split
    | dsimp only [id_eq] | simp only [Kept.mk] | (rename_i e; with_reducible refine Kept.of_eq e ?_)

theorem crlEnableCmd_kept {s₀ : State} (resOk : Bool) {s : State} (hK : Kept s₀ s) :
    Kept s₀ (crlEnableCmd resOk s) := by
  unfold crlEnableCmd
  repeat' first
    | with_reducible assumption | with_reducible apply State.crlEnable_kept | intro _ | with_reducible apply Kept.ite
    | split | dsimp only [id_eq] | simp only [Kept.mk] | (rename_i e; with_reducible refine Kept.of_eq e ?_)

theorem State.crlDisable_kept {s₀ : State} {s : State} (hK : Kept s₀ s) :
    Kept s₀ (State.crlDisable s) := by
  unfold State.crlDisable
  repeat' first
    | with_reducible assumption | with_reducible apply State.crlTo_kept | with_reducible apply State.setAtSp_kept
    | with_reducible apply State.puts_kept | intro _ | with_reducible apply Kept.ite | split | dsimp only [id_eq]
    | simp only [Kept.mk] | (rename_i e; with_reducible refine Kept.of_eq e ?_)

theorem execMediaWedgeMissing_kept {s t : State} (h : execMediaWedgeMissing s = .next t) : Kept s t := by
  have h := Host.Outcome.next.inj h; subst h; exact mediaWedgeMissing_kept  (Kept.refl s)

theorem execCrlEnable_kept (resOk : Bool) {s t : State} (h : execCrlEnable resOk s = .next t) : Kept s t := by
  have h := Host.Outcome.next.inj h; subst h; exact crlEnableCmd_kept _ (Kept.refl s)

theorem execSpOvr_kept (ovr : Bool) (req : Fin 4) {s t : State} (h : execSpOvr ovr req s = .next t) : Kept s t := by
  have h := Host.Outcome.next.inj h; subst h; exact spOvr_kept _ _ (Kept.refl s)

theorem execPwmPeriod_kept (o : PwmObs) {s t : State} (h : execPwmPeriod o s = .next t) : Kept s t := by
  have h := Host.Outcome.next.inj h; subst h; exact pwmPeriod_kept _ (Kept.refl s)

theorem execSensePulse_kept (peak : BitVec 16) {s t : State} (h : execSensePulse peak s = .next t) : Kept s t := by
  have h := Host.Outcome.next.inj h; subst h; exact sensePulse_kept _ (Kept.refl s)

theorem execAlignEnd_kept {s t : State} (h : execAlignEnd s = .next t) : Kept s t := by
  have h := Host.Outcome.next.inj h; subst h; exact alignEnd_kept  (Kept.refl s)

theorem execStartAttemptFail_kept (top : Nat) {s t : State} (h : execStartAttemptFail top s = .next t) : Kept s t := by
  have h := Host.Outcome.next.inj h; subst h; exact startAttemptFail_kept _ (Kept.refl s)

theorem execZeroCrossing_kept (interval : Nat) (sector : Fin 6) {s t : State} (h : execZeroCrossing interval sector s = .next t) : Kept s t := by
  have h := Host.Outcome.next.inj h; subst h; exact zeroCrossing_kept _ _ (Kept.refl s)

theorem execCatchTimeout_kept (peak : BitVec 16) {s t : State} (h : execCatchTimeout peak s = .next t) : Kept s t := by
  have h := Host.Outcome.next.inj h; subst h; exact catchTimeout_kept _ (Kept.refl s)

theorem execCatchRetry_kept (peak : BitVec 16) {s t : State} (h : execCatchRetry peak s = .next t) : Kept s t := by
  have h := Host.Outcome.next.inj h; subst h; exact catchRetry_kept _ (Kept.refl s)

theorem execSetpointApply_kept {s t : State} (h : execSetpointApply s = .next t) : Kept s t := by
  have h := Host.Outcome.next.inj h; subst h; exact setpointApply_kept  (Kept.refl s)

theorem execOvRecovery_kept {s t : State} (h : execOvRecovery s = .next t) : Kept s t := by
  have h := Host.Outcome.next.inj h; subst h; exact ovRecovery_kept  (Kept.refl s)

end Sys2Proof.Machine
end

