-- ==== Sys2Proof/Laws/KeptStrongman.lean ====
section
/-!
SUPPORT. Every operation of `Machine/Strongman.lean` keeps what `Kept` names.
-/

namespace Sys2Proof.Machine

set_option Elab.async false
set_option linter.unusedTactic false
set_option linter.unreachableTactic false
set_option linter.unusedVariables false

theorem State.plCheck_kept {s₀ : State} {s : State} (hK : Kept s₀ s) :
    Kept s₀ (State.plCheck s) := by
  unfold State.plCheck
  repeat' first
    | with_reducible assumption | with_reducible apply State.puts_kept | intro _ | with_reducible apply Kept.ite
    | split | dsimp only [id_eq] | simp only [Kept.mk] | (rename_i e; with_reducible refine Kept.of_eq e ?_)

theorem State.retractEnd_kept {s₀ : State} {s : State} (a : Nat) (hK : Kept s₀ s) :
    Kept s₀ (State.retractEnd s a) := by
  unfold State.retractEnd
  repeat' first
    | with_reducible assumption | with_reducible apply State.plCheck_kept | with_reducible apply State.evt_kept
    | with_reducible apply State.puts_kept | with_reducible apply State.setBit_kept | intro _
    | with_reducible apply Kept.ite | split | dsimp only [id_eq] | simp only [Kept.mk]
    | (rename_i e; with_reducible refine Kept.of_eq e ?_)

theorem State.retractDrive_kept {s₀ : State} {s : State} (a : Nat) (volt : Int) (cur : Int) (hK : Kept s₀ s) :
    Kept s₀ (State.retractDrive s a volt cur) := by
  unfold State.retractDrive
  repeat' first
    | with_reducible assumption | with_reducible apply Kept.put | with_reducible apply State.putI_kept | intro _
    | with_reducible apply Kept.ite | split | dsimp only [id_eq] | simp only [Kept.mk]
    | (rename_i e; with_reducible refine Kept.of_eq e ?_)

theorem retractParked_kept {s₀ : State} (a : Act) {s : State} (hK : Kept s₀ s) :
    Kept s₀ (retractParked a s) := by
  unfold retractParked
  repeat' first
    | with_reducible assumption | with_reducible apply Kept.when | with_reducible apply State.putI_kept
    | with_reducible apply Kept.put | with_reducible apply State.setBit_kept | intro _
    | with_reducible apply Kept.ite | split | dsimp only [id_eq] | simp only [Kept.mk]
    | (rename_i e; with_reducible refine Kept.of_eq e ?_)

theorem retractParkHoldEnd_kept {s₀ : State} (a : Act) {s : State} (hK : Kept s₀ s) :
    Kept s₀ (retractParkHoldEnd a s) := by
  unfold retractParkHoldEnd
  repeat' first
    | with_reducible assumption | with_reducible apply State.retractEnd_kept | intro _
    | with_reducible apply Kept.ite | split | dsimp only [id_eq] | simp only [Kept.mk]
    | (rename_i e; with_reducible refine Kept.of_eq e ?_)

theorem retractTimeout_kept {s₀ : State} (a : Act) {s : State} (hK : Kept s₀ s) :
    Kept s₀ (retractTimeout a s) := by
  unfold retractTimeout
  repeat' first
    | with_reducible assumption | with_reducible apply State.post_kept | with_reducible apply State.evt_kept
    | with_reducible apply State.putI_kept | with_reducible apply Kept.put | with_reducible apply Kept.when
    | with_reducible apply State.setBit_kept | intro _ | with_reducible apply Kept.ite | split | dsimp only [id_eq]
    | simp only [Kept.mk] | (rename_i e; with_reducible refine Kept.of_eq e ?_)

theorem retractPushEnd_kept {s₀ : State} (a : Act) {s : State} (hK : Kept s₀ s) :
    Kept s₀ (retractPushEnd a s) := by
  unfold retractPushEnd
  repeat' first
    | with_reducible assumption | with_reducible apply State.retractEnd_kept | intro _
    | with_reducible apply Kept.ite | split | dsimp only [id_eq] | simp only [Kept.mk]
    | (rename_i e; with_reducible refine Kept.of_eq e ?_)

theorem stopWireAssert_kept {s₀ : State} (cause : Fin 5) {s : State} (hK : Kept s₀ s) :
    Kept s₀ (stopWireAssert cause s) := by
  unfold stopWireAssert
  repeat' first
    | with_reducible assumption | with_reducible apply State.stopAssert_kept | intro _
    | with_reducible apply Kept.ite | split | dsimp only [id_eq] | simp only [Kept.mk]
    | (rename_i e; with_reducible refine Kept.of_eq e ?_)

theorem State.powerFail_kept {s₀ : State} {s : State} (v12 : Bool) (hK : Kept s₀ s) :
    Kept s₀ (State.powerFail s v12) := by
  unfold State.powerFail
  repeat' first
    | with_reducible assumption | with_reducible apply State.closeRec_kept | with_reducible apply State.evt_kept
    | with_reducible apply State.puts_kept | with_reducible apply Kept.forAll
    | with_reducible apply State.endWrite_kept | with_reducible apply State.stmLatchAll_kept
    | with_reducible apply Kept.put | with_reducible apply State.plCheck_kept
    | with_reducible apply State.dropGrants_kept | with_reducible apply State.stmRetractAll_kept | intro _
    | with_reducible apply Kept.ite | split | dsimp only [id_eq] | simp only [Kept.mk]
    | (rename_i e; with_reducible refine Kept.of_eq e ?_)

theorem State.ovTrip_kept {s₀ : State} {s : State} (hK : Kept s₀ s) :
    Kept s₀ (State.ovTrip s) := by
  unfold State.ovTrip
  repeat' first
    | with_reducible assumption | with_reducible apply State.stmLatchAll_kept | with_reducible apply State.evt_kept
    | with_reducible apply State.puts_kept | intro _ | with_reducible apply Kept.ite | split | dsimp only [id_eq]
    | simp only [Kept.mk] | (rename_i e; with_reducible refine Kept.of_eq e ?_)

theorem State.beyond_kept {s₀ : State} {s : State} (i : Nat) (b : Bool) (hK : Kept s₀ s) :
    Kept s₀ (State.beyond s i b) := by
  unfold State.beyond
  repeat' first
    | with_reducible assumption | with_reducible apply Kept.put | intro _ | with_reducible apply Kept.ite | split
    | dsimp only [id_eq] | simp only [Kept.mk] | (rename_i e; with_reducible refine Kept.of_eq e ?_)

theorem State.sagAbort_kept {s₀ : State} {s : State} (hK : Kept s₀ s) :
    Kept s₀ (State.sagAbort s) := by
  unfold State.sagAbort
  repeat' first
    | with_reducible assumption | with_reducible apply State.evt_kept | with_reducible apply State.count_kept
    | with_reducible apply State.puts_kept | with_reducible apply State.evalSp_kept
    | with_reducible apply State.post_kept | intro _ | with_reducible apply Kept.ite | split | dsimp only [id_eq]
    | simp only [Kept.mk] | (rename_i e; with_reducible refine Kept.of_eq e ?_)

theorem supplySample_kept {s₀ : State} (vin12 : BitVec 16) (vin5 : BitVec 16) {s : State} (hK : Kept s₀ s) :
    Kept s₀ (supplySample vin12 vin5 s) := by
  unfold supplySample
  repeat' first
    | with_reducible assumption | with_reducible apply State.puts_kept | with_reducible apply State.beyond_kept
    | with_reducible apply Kept.when | with_reducible apply State.post_kept | with_reducible apply State.evt_kept
    | with_reducible apply Kept.put | with_reducible apply State.ovTrip_kept
    | with_reducible apply State.powerFail_kept | with_reducible apply State.stmLatchAll_kept
    | with_reducible apply State.putB_kept | with_reducible apply State.checkGrant_kept | intro _
    | with_reducible apply Kept.ite | split | dsimp only [id_eq] | simp only [Kept.mk]
    | (rename_i e; with_reducible refine Kept.of_eq e ?_)

theorem chopperFail_kept {s₀ : State} (current : Nat) {s : State} (hK : Kept s₀ s) :
    Kept s₀ (chopperFail current s) := by
  unfold chopperFail
  repeat' first
    | with_reducible assumption | with_reducible apply State.evt_kept | with_reducible apply State.count_kept
    | with_reducible apply Kept.put | with_reducible apply Kept.when | with_reducible apply State.post_kept | intro _
    | with_reducible apply Kept.ite | split | dsimp only [id_eq] | simp only [Kept.mk]
    | (rename_i e; with_reducible refine Kept.of_eq e ?_)

theorem State.ocTrip_kept {s₀ : State} {s : State} (stage : Nat) (inst : Nat) (current : Nat) (hK : Kept s₀ s) :
    Kept s₀ (State.ocTrip s stage inst current) := by
  unfold State.ocTrip
  repeat' first
    | with_reducible assumption | with_reducible apply State.post_kept | with_reducible apply State.evt_kept
    | intro _ | with_reducible apply Kept.ite | split | dsimp only [id_eq] | simp only [Kept.mk]
    | (rename_i e; with_reducible refine Kept.of_eq e ?_)

theorem spindleOvercurrent_kept {s₀ : State} (current : Nat) {s : State} (hK : Kept s₀ s) :
    Kept s₀ (spindleOvercurrent current s) := by
  unfold spindleOvercurrent
  repeat' first
    | with_reducible assumption | with_reducible apply State.checkGrant_kept | with_reducible apply State.puts_kept
    | with_reducible apply State.count_kept | with_reducible apply State.ocTrip_kept | intro _
    | with_reducible apply Kept.ite | split | dsimp only [id_eq] | simp only [Kept.mk]
    | (rename_i e; with_reducible refine Kept.of_eq e ?_)

theorem vcmOvercurrent_kept {s₀ : State} (a : Act) (current : Nat) {s : State} (hK : Kept s₀ s) :
    Kept s₀ (vcmOvercurrent a current s) := by
  unfold vcmOvercurrent
  repeat' first
    | with_reducible assumption | with_reducible apply State.checkGrant_kept | with_reducible apply State.puts_kept
    | with_reducible apply State.ocTrip_kept | intro _ | with_reducible apply Kept.ite | split | dsimp only [id_eq]
    | simp only [Kept.mk] | (rename_i e; with_reducible refine Kept.of_eq e ?_)

theorem vcmTripReopen_kept {s₀ : State} (a : Act) {s : State} (hK : Kept s₀ s) :
    Kept s₀ (vcmTripReopen a s) := by
  unfold vcmTripReopen
  repeat' first
    | with_reducible assumption | with_reducible apply Kept.put | with_reducible apply State.refreshAct_kept
    | with_reducible apply State.plCheck_kept | with_reducible apply State.puts_kept
    | with_reducible apply State.setBit_kept | with_reducible apply State.stmRetract_kept | intro _
    | with_reducible apply Kept.ite | split | dsimp only [id_eq] | simp only [Kept.mk]
    | (rename_i e; with_reducible refine Kept.of_eq e ?_)

theorem maCurrentLimit_kept {s₀ : State} (a : Act) {s : State} (hK : Kept s₀ s) :
    Kept s₀ (maCurrentLimit a s) := by
  unfold maCurrentLimit
  repeat' first
    | with_reducible assumption | with_reducible apply State.puts_kept | with_reducible apply State.setBit_kept
    | with_reducible apply State.ocTrip_kept | intro _ | with_reducible apply Kept.ite | split | dsimp only [id_eq]
    | simp only [Kept.mk] | (rename_i e; with_reducible refine Kept.of_eq e ?_)

theorem State.maClear_kept {s₀ : State} {s : State} (mask : Nat) (hw : Nat) (hK : Kept s₀ s) :
    Kept s₀ (State.maClear s mask hw) := by
  unfold State.maClear
  repeat' first
    | with_reducible assumption | with_reducible apply Kept.put | intro _ | with_reducible apply Kept.ite | split
    | dsimp only [id_eq] | simp only [Kept.mk] | (rename_i e; with_reducible refine Kept.of_eq e ?_)

theorem maOffClear_kept {s₀ : State} (mask : BitVec 4) (hw : BitVec 4) {s : State} (hK : Kept s₀ s) :
    Kept s₀ (maOffClear mask hw s) := by
  unfold maOffClear
  repeat' first
    | with_reducible assumption | with_reducible apply State.maClear_kept | intro _ | with_reducible apply Kept.ite
    | split | dsimp only [id_eq] | simp only [Kept.mk] | (rename_i e; with_reducible refine Kept.of_eq e ?_)

theorem smOvervoltage_kept {s₀ : State} {s : State} (hK : Kept s₀ s) :
    Kept s₀ (smOvervoltage s) := by
  unfold smOvervoltage
  repeat' first
    | with_reducible assumption | with_reducible apply State.ovTrip_kept | intro _ | with_reducible apply Kept.ite
    | split | dsimp only [id_eq] | simp only [Kept.mk] | (rename_i e; with_reducible refine Kept.of_eq e ?_)

theorem State.tryResume_kept {s₀ : State} {s : State} (hK : Kept s₀ s) :
    Kept s₀ (State.tryResume s) := by
  unfold State.tryResume
  repeat' first
    | with_reducible assumption | with_reducible apply State.setBit_kept | with_reducible apply State.puts_kept
    | intro _ | with_reducible apply Kept.ite | split | dsimp only [id_eq] | simp only [Kept.mk]
    | (rename_i e; with_reducible refine Kept.of_eq e ?_)

theorem stmResume_kept {s₀ : State} {s : State} (hK : Kept s₀ s) :
    Kept s₀ (stmResume s) := by
  unfold stmResume
  repeat' first
    | with_reducible assumption | with_reducible apply State.tryResume_kept | with_reducible apply Kept.put | intro _
    | with_reducible apply Kept.ite | split | dsimp only [id_eq] | simp only [Kept.mk]
    | (rename_i e; with_reducible refine Kept.of_eq e ?_)

theorem State.autonomous_kept {s₀ : State} {s : State} (hK : Kept s₀ s) :
    Kept s₀ (State.autonomous s) := by
  unfold State.autonomous
  repeat' first
    | with_reducible assumption | with_reducible apply State.stmLatchAll_kept | with_reducible apply State.evt_kept
    | with_reducible apply State.puts_kept | with_reducible apply State.dropGrants_kept
    | with_reducible apply State.post_kept | with_reducible apply Kept.put
    | with_reducible apply State.stmRetractAll_kept | with_reducible apply Kept.foldl
    | with_reducible apply Kept.foldlFst | intro _ | with_reducible apply Kept.ite | split | dsimp only [id_eq]
    | simp only [Kept.mk] | (rename_i e; with_reducible refine Kept.of_eq e ?_)

theorem heartbeatMiss_kept {s₀ : State} (atStrongman : Bool) {s : State} (hK : Kept s₀ s) :
    Kept s₀ (heartbeatMiss atStrongman s) := by
  unfold heartbeatMiss
  repeat' first
    | with_reducible assumption | with_reducible apply State.count_kept | with_reducible apply State.puts_kept
    | with_reducible apply State.autonomous_kept | with_reducible apply Kept.put
    | with_reducible apply State.post_kept | with_reducible apply State.crlCoast_kept
    | with_reducible apply State.stopAssert_kept | intro _ | with_reducible apply Kept.ite | split
    | dsimp only [id_eq] | simp only [Kept.mk] | (rename_i e; with_reducible refine Kept.of_eq e ?_)

theorem heartbeatAdvance_kept {s₀ : State} {s : State} (hK : Kept s₀ s) :
    Kept s₀ (heartbeatAdvance s) := by
  unfold heartbeatAdvance
  repeat' first
    | with_reducible assumption | with_reducible apply State.bump_kept | with_reducible apply Kept.when | intro _
    | with_reducible apply Kept.ite | split | dsimp only [id_eq] | simp only [Kept.mk]
    | (rename_i e; with_reducible refine Kept.of_eq e ?_)

theorem autonomousBrake_kept {s₀ : State} {s : State} (hK : Kept s₀ s) :
    Kept s₀ (autonomousBrake s) := by
  unfold autonomousBrake
  repeat' first
    | with_reducible assumption | with_reducible apply State.puts_kept | intro _ | with_reducible apply Kept.ite
    | split | dsimp only [id_eq] | simp only [Kept.mk] | (rename_i e; with_reducible refine Kept.of_eq e ?_)

theorem autonomousSequenceEnd_kept {s₀ : State} {s : State} (hK : Kept s₀ s) :
    Kept s₀ (autonomousSequenceEnd s) := by
  unfold autonomousSequenceEnd
  repeat' first
    | with_reducible assumption | with_reducible apply State.tryResume_kept | with_reducible apply State.puts_kept
    | intro _ | with_reducible apply Kept.ite | split | dsimp only [id_eq] | simp only [Kept.mk]
    | (rename_i e; with_reducible refine Kept.of_eq e ?_)

theorem startRequest_kept {s₀ : State} (a : Option Act) {s : State} (hK : Kept s₀ s) :
    Kept s₀ (startRequest a s) := by
  unfold startRequest
  repeat' first
    | with_reducible assumption | with_reducible apply State.setBit_kept | with_reducible apply Kept.put | intro _
    | with_reducible apply Kept.ite | split | dsimp only [id_eq] | simp only [Kept.mk]
    | (rename_i e; with_reducible refine Kept.of_eq e ?_)

theorem State.giveSpin_kept {s₀ : State} {s : State} (hK : Kept s₀ s) :
    Kept s₀ (State.giveSpin s) := by
  unfold State.giveSpin
  repeat' first
    | with_reducible assumption | with_reducible apply State.puts_kept | intro _ | with_reducible apply Kept.ite
    | split | dsimp only [id_eq] | simp only [Kept.mk] | (rename_i e; with_reducible refine Kept.of_eq e ?_)

theorem State.giveLoad_kept {s₀ : State} {s : State} (a : Nat) (hK : Kept s₀ s) :
    Kept s₀ (State.giveLoad s a) := by
  unfold State.giveLoad
  repeat' first
    | with_reducible assumption | with_reducible apply Kept.when | with_reducible apply Kept.put | intro _
    | with_reducible apply Kept.ite | split | dsimp only [id_eq] | simp only [Kept.mk]
    | (rename_i e; with_reducible refine Kept.of_eq e ?_)

theorem State.takeRequests_kept {s₀ : State} {s : State} (hK : Kept s₀ s) :
    Kept s₀ (State.takeRequests s) := by
  unfold State.takeRequests
  repeat' first
    | with_reducible assumption | with_reducible apply State.puts_kept | with_reducible apply Kept.when
    | with_reducible apply Kept.put | with_reducible apply Kept.forAll | with_reducible apply State.giveSpin_kept
    | with_reducible apply State.giveLoad_kept | intro _ | with_reducible apply Kept.ite | split | dsimp only [id_eq]
    | simp only [Kept.mk] | (rename_i e; with_reducible refine Kept.of_eq e ?_)

theorem State.clearLatches_kept {s₀ : State} {s : State} (hK : Kept s₀ s) :
    Kept s₀ (State.clearLatches s) := by
  unfold State.clearLatches
  repeat' first
    | with_reducible assumption | with_reducible apply Kept.forAll | with_reducible apply State.setBit_kept | intro _
    | with_reducible apply Kept.ite | split | dsimp only [id_eq] | simp only [Kept.mk]
    | (rename_i e; with_reducible refine Kept.of_eq e ?_)

theorem State.frameSent_kept {s₀ : State} {s : State} (hK : Kept s₀ s) :
    Kept s₀ (State.frameSent s) := by
  unfold State.frameSent
  repeat' first
    | with_reducible assumption | with_reducible apply Kept.forAll | with_reducible apply State.putI_kept | intro _
    | with_reducible apply Kept.ite | split | dsimp only [id_eq] | simp only [Kept.mk]
    | (rename_i e; with_reducible refine Kept.of_eq e ?_)

theorem State.applyDemands_kept {s₀ : State} {s : State} (hK : Kept s₀ s) :
    Kept s₀ (State.applyDemands s) := by
  unfold State.applyDemands
  repeat' first
    | with_reducible assumption | with_reducible apply State.puts_kept | with_reducible apply Kept.forAll
    | with_reducible apply Kept.when | with_reducible apply State.putI_kept | with_reducible apply Kept.put | intro _
    | with_reducible apply Kept.ite | split | dsimp only [id_eq] | simp only [Kept.mk]
    | (rename_i e; with_reducible refine Kept.of_eq e ?_)

theorem State.goodBeat_kept {s₀ : State} {s : State} (hK : Kept s₀ s) :
    Kept s₀ (State.goodBeat s) := by
  unfold State.goodBeat
  repeat' first
    | with_reducible assumption | with_reducible apply State.tryResume_kept | with_reducible apply State.puts_kept
    | intro _ | with_reducible apply Kept.ite | split | dsimp only [id_eq] | simp only [Kept.mk]
    | (rename_i e; with_reducible refine Kept.of_eq e ?_)

theorem State.putInts_kept {s₀ : State} {s : State} (f : Nat → Fld) (l : List Int) (hK : Kept s₀ s) :
    Kept s₀ (State.putInts s f l) := by
  unfold State.putInts
  repeat' first
    | with_reducible assumption | with_reducible apply Kept.forAll | with_reducible apply State.putI_kept | intro _
    | with_reducible apply Kept.ite | split | dsimp only [id_eq] | simp only [Kept.mk]
    | (rename_i e; with_reducible refine Kept.of_eq e ?_)

theorem State.retractNews_kept {s₀ : State} {s : State} (old : Nat) (new : Nat) (a : Nat) (hK : Kept s₀ s) :
    Kept s₀ (State.retractNews s old new a) := by
  unfold State.retractNews
  repeat' first
    | with_reducible assumption | with_reducible apply State.ladderRestart_kept
    | with_reducible apply State.toUnloaded_kept | with_reducible apply State.withdraw_kept
    | with_reducible apply State.tdAbortOn_kept | intro _ | with_reducible apply Kept.ite | split
    | dsimp only [id_eq] | simp only [Kept.mk] | (rename_i e; with_reducible refine Kept.of_eq e ?_)

theorem State.statusNews_kept {s₀ : State} {s : State} (new : Nat) (hK : Kept s₀ s) :
    Kept s₀ (State.statusNews s new) := by
  unfold State.statusNews
  repeat' first
    | with_reducible assumption | with_reducible apply Kept.forAll | with_reducible apply Kept.put
    | with_reducible apply State.retractNews_kept | with_reducible apply State.latchSeen_kept
    | with_reducible apply Kept.when | with_reducible apply State.setBit_kept
    | with_reducible apply State.crlCoast_kept | with_reducible apply State.crlChopFault_kept
    | with_reducible apply State.crlOvTrip_kept | with_reducible apply State.sagAbort_kept | intro _
    | with_reducible apply Kept.ite | split | dsimp only [id_eq] | simp only [Kept.mk]
    | (rename_i e; with_reducible refine Kept.of_eq e ?_)

theorem State.takeMessage_kept {s₀ : State} {s : State} (msg : BitVec 32) (hK : Kept s₀ s) :
    Kept s₀ (State.takeMessage s msg) := by
  unfold State.takeMessage
  repeat' first
    | with_reducible assumption | with_reducible apply Kept.when | with_reducible apply Kept.put
    | with_reducible apply State.putI_kept | intro _ | with_reducible apply Kept.ite | split | dsimp only [id_eq]
    | simp only [Kept.mk] | (rename_i e; with_reducible refine Kept.of_eq e ?_)

theorem State.measStart_kept {s₀ : State} {s : State} (kind : Nat) (a : Nat) (hK : Kept s₀ s) :
    Kept s₀ (State.measStart s kind a) := by
  unfold State.measStart
  repeat' first
    | with_reducible assumption | with_reducible apply State.puts_kept | intro _ | with_reducible apply Kept.ite
    | split | dsimp only [id_eq] | simp only [Kept.mk] | (rename_i e; with_reducible refine Kept.of_eq e ?_)

theorem State.measNext_kept {s₀ : State} {s : State} (hK : Kept s₀ s) :
    Kept s₀ (State.measNext s) := by
  unfold State.measNext
  repeat' first
    | with_reducible assumption | with_reducible apply Kept.when | with_reducible apply Kept.put
    | with_reducible apply State.measStart_kept | with_reducible apply State.setBit_kept | intro _
    | with_reducible apply Kept.ite | split | dsimp only [id_eq] | simp only [Kept.mk]
    | (rename_i e; with_reducible refine Kept.of_eq e ?_)

theorem State.handshake_kept {s₀ : State} {s : State} (hK : Kept s₀ s) :
    Kept s₀ (State.handshake s) := by
  unfold State.handshake
  repeat' first
    | with_reducible assumption | with_reducible apply State.post_kept | with_reducible apply Kept.when
    | with_reducible apply State.stepEnd_kept | with_reducible apply Kept.put | intro _
    | with_reducible apply Kept.ite | split | dsimp only [id_eq] | simp only [Kept.mk]
    | (rename_i e; with_reducible refine Kept.of_eq e ?_)

theorem State.gateTimers_kept {s₀ : State} {s : State} (hK : Kept s₀ s) :
    Kept s₀ (State.gateTimers s) := by
  unfold State.gateTimers
  repeat' first
    | with_reducible assumption | with_reducible apply Kept.forAll | with_reducible apply State.bump_kept
    | with_reducible apply preampFault_kept | intro _ | with_reducible apply Kept.ite | split | dsimp only [id_eq]
    | simp only [Kept.mk] | (rename_i e; with_reducible refine Kept.of_eq e ?_)

theorem dieLinkFrame_kept {s₀ : State} (f : LinkFrame) {s : State} (hK : Kept s₀ s) :
    Kept s₀ (dieLinkFrame f s) := by
  unfold dieLinkFrame
  repeat' first
    | with_reducible assumption | with_reducible apply State.frameSent_kept
    | with_reducible apply State.dropOwners_kept | with_reducible apply Kept.put
    | with_reducible apply State.bump_kept | with_reducible apply State.count_kept
    | with_reducible apply State.goodBeat_kept | with_reducible apply Kept.when
    | with_reducible apply State.takeRequests_kept | with_reducible apply State.clearLatches_kept
    | with_reducible apply State.applyDemands_kept | with_reducible apply State.handshake_kept
    | with_reducible apply State.gateTimers_kept | with_reducible apply Kept.forAll
    | with_reducible apply State.retractDrive_kept | with_reducible apply State.takeMessage_kept
    | with_reducible apply State.putInts_kept | with_reducible apply State.puts_kept
    | with_reducible apply State.measNext_kept | with_reducible apply State.statusNews_kept
    | with_reducible apply State.afterMate_kept | with_reducible apply State.trzTrigger_kept
    | with_reducible apply State.park_kept | intro _ | with_reducible apply Kept.ite | split | dsimp only [id_eq]
    | simp only [Kept.mk] | (rename_i e; with_reducible refine Kept.of_eq e ?_)

theorem safetyMonitorTick_kept {s₀ : State} {s : State} (hK : Kept s₀ s) :
    Kept s₀ (safetyMonitorTick s) := by
  unfold safetyMonitorTick
  repeat' first
    | with_reducible assumption | with_reducible apply Kept.put | intro _ | with_reducible apply Kept.ite | split
    | dsimp only [id_eq] | simp only [Kept.mk] | (rename_i e; with_reducible refine Kept.of_eq e ?_)

theorem safetyMonitorTakeover_kept {s₀ : State} (age : Nat) {s : State} (hK : Kept s₀ s) :
    Kept s₀ (safetyMonitorTakeover age s) := by
  unfold safetyMonitorTakeover
  repeat' first
    | with_reducible assumption | with_reducible apply State.stmLatchAll_kept | with_reducible apply State.evt_kept
    | with_reducible apply State.puts_kept | with_reducible apply Kept.forAll | with_reducible apply State.putI_kept
    | with_reducible apply State.post_kept | intro _ | with_reducible apply Kept.ite | split | dsimp only [id_eq]
    | simp only [Kept.mk] | (rename_i e; with_reducible refine Kept.of_eq e ?_)

theorem safetyMonitorPushEnd_kept {s₀ : State} {s : State} (hK : Kept s₀ s) :
    Kept s₀ (safetyMonitorPushEnd s) := by
  unfold safetyMonitorPushEnd
  repeat' first
    | with_reducible assumption | with_reducible apply Kept.forAll | with_reducible apply Kept.put
    | with_reducible apply State.retractEnd_kept | intro _ | with_reducible apply Kept.ite | split
    | dsimp only [id_eq] | simp only [Kept.mk] | (rename_i e; with_reducible refine Kept.of_eq e ?_)

theorem State.measGo11_kept {s₀ : State} {s : State} (kind : Nat) (a : Nat) (hK : Kept s₀ s) :
    Kept s₀ (State.measGo11 s kind a).1 := by
  unfold State.measGo11
  repeat' first
    | with_reducible assumption | with_reducible apply State.measStart_kept | intro _ | with_reducible apply Kept.ite
    | split | dsimp only [id_eq] | simp only [Kept.mk] | (rename_i e; with_reducible refine Kept.of_eq e ?_)

theorem windingMeasureGo_kept {s₀ : State} (kind : Fin 4) (a : Act) {s : State} (hK : Kept s₀ s) :
    Kept s₀ (windingMeasureGo kind a s) := by
  unfold windingMeasureGo
  repeat' first
    | with_reducible assumption | with_reducible apply State.measGo11_kept | intro _ | with_reducible apply Kept.ite
    | split | dsimp only [id_eq] | simp only [Kept.mk] | (rename_i e; with_reducible refine Kept.of_eq e ?_)

theorem State.measEnded_kept {s₀ : State} {s : State} (k : Nat) (a : Nat) (hK : Kept s₀ s) :
    Kept s₀ (State.measEnded s k a) := by
  unfold State.measEnded
  repeat' first
    | with_reducible assumption | with_reducible apply Kept.put | with_reducible apply Kept.when
    | with_reducible apply State.setBit_kept | with_reducible apply State.tryStart_kept
    | with_reducible apply State.measNext_kept | intro _ | with_reducible apply Kept.ite | split | dsimp only [id_eq]
    | simp only [Kept.mk] | (rename_i e; with_reducible refine Kept.of_eq e ?_)

theorem windingMeasureDone_kept {s₀ : State} (value : Nat) {s : State} (hK : Kept s₀ s) :
    Kept s₀ (windingMeasureDone value s) := by
  unfold windingMeasureDone
  repeat' first
    | with_reducible assumption | with_reducible apply State.evt_kept | with_reducible apply Kept.put
    | with_reducible apply State.puts_kept | with_reducible apply State.post_kept
    | with_reducible apply State.measEnded_kept | intro _ | with_reducible apply Kept.ite | split
    | dsimp only [id_eq] | simp only [Kept.mk] | (rename_i e; with_reducible refine Kept.of_eq e ?_)

theorem State.stmEnable_kept {s₀ : State} {s : State} (pulse : Nat) (hK : Kept s₀ s) :
    Kept s₀ (State.stmEnable s pulse).1 := by
  unfold State.stmEnable
  repeat' first
    | with_reducible assumption | with_reducible apply State.enable_kept | with_reducible apply State.puts_kept
    | with_reducible apply Kept.when | with_reducible apply Kept.forAll | with_reducible apply State.refreshAct_kept
    | intro _ | with_reducible apply Kept.ite | split | dsimp only [id_eq] | simp only [Kept.mk]
    | (rename_i e; with_reducible refine Kept.of_eq e ?_)

theorem stmEnableCmd_kept {s₀ : State} (pulse : Nat) {s : State} (hK : Kept s₀ s) :
    Kept s₀ (stmEnableCmd pulse s) := by
  unfold stmEnableCmd
  repeat' first
    | with_reducible assumption | with_reducible apply State.stmEnable_kept | intro _ | with_reducible apply Kept.ite
    | split | dsimp only [id_eq] | simp only [Kept.mk] | (rename_i e; with_reducible refine Kept.of_eq e ?_)

theorem State.stmDisable_kept {s₀ : State} {s : State} (hK : Kept s₀ s) :
    Kept s₀ (State.stmDisable s) := by
  unfold State.stmDisable
  repeat' first
    | with_reducible assumption | with_reducible apply Kept.put | intro _ | with_reducible apply Kept.ite | split
    | dsimp only [id_eq] | simp only [Kept.mk] | (rename_i e; with_reducible refine Kept.of_eq e ?_)

theorem strongmanLogicPowerLoss_kept {s₀ : State} {s : State} (hK : Kept s₀ s) :
    Kept s₀ (strongmanLogicPowerLoss s) := by
  unfold strongmanLogicPowerLoss
  repeat' first
    | with_reducible assumption | with_reducible apply State.resetBlk_kept | intro _ | with_reducible apply Kept.ite
    | split | dsimp only [id_eq] | simp only [Kept.mk] | (rename_i e; with_reducible refine Kept.of_eq e ?_)

theorem execDieLinkFrame_kept (f : LinkFrame) {s t : State} (h : execDieLinkFrame f s = .next t) : Kept s t := by
  have h := Host.Outcome.next.inj h; subst h; exact dieLinkFrame_kept _ (Kept.refl s)

theorem execHeartbeatAdvance_kept {s t : State} (h : execHeartbeatAdvance s = .next t) : Kept s t := by
  have h := Host.Outcome.next.inj h; subst h; exact heartbeatAdvance_kept  (Kept.refl s)

theorem execHeartbeatMiss_kept (atStrongman : Bool) {s t : State} (h : execHeartbeatMiss atStrongman s = .next t) : Kept s t := by
  have h := Host.Outcome.next.inj h; subst h; exact heartbeatMiss_kept _ (Kept.refl s)

theorem execSupplySample_kept (vin12 : BitVec 16) (vin5 : BitVec 16) {s t : State} (h : execSupplySample vin12 vin5 s = .next t) : Kept s t := by
  have h := Host.Outcome.next.inj h; subst h; exact supplySample_kept _ _ (Kept.refl s)

theorem execChopperFail_kept (current : Nat) {s t : State} (h : execChopperFail current s = .next t) : Kept s t := by
  have h := Host.Outcome.next.inj h; subst h; exact chopperFail_kept _ (Kept.refl s)

theorem execSpindleOvercurrent_kept (current : Nat) {s t : State} (h : execSpindleOvercurrent current s = .next t) : Kept s t := by
  have h := Host.Outcome.next.inj h; subst h; exact spindleOvercurrent_kept _ (Kept.refl s)

theorem execVcmOvercurrent_kept (a : Act) (current : Nat) {s t : State} (h : execVcmOvercurrent a current s = .next t) : Kept s t := by
  have h := Host.Outcome.next.inj h; subst h; exact vcmOvercurrent_kept _ _ (Kept.refl s)

theorem execVcmTripReopen_kept (a : Act) {s t : State} (h : execVcmTripReopen a s = .next t) : Kept s t := by
  have h := Host.Outcome.next.inj h; subst h; exact vcmTripReopen_kept _ (Kept.refl s)

theorem execMaCurrentLimit_kept (a : Act) {s t : State} (h : execMaCurrentLimit a s = .next t) : Kept s t := by
  have h := Host.Outcome.next.inj h; subst h; exact maCurrentLimit_kept _ (Kept.refl s)

theorem execMaOffClear_kept (mask : BitVec 4) (hw : BitVec 4) {s t : State} (h : execMaOffClear mask hw s = .next t) : Kept s t := by
  have h := Host.Outcome.next.inj h; subst h; exact maOffClear_kept _ _ (Kept.refl s)

theorem execStopWireAssert_kept (cause : Fin 5) {s t : State} (h : execStopWireAssert cause s = .next t) : Kept s t := by
  have h := Host.Outcome.next.inj h; subst h; exact stopWireAssert_kept _ (Kept.refl s)

theorem execRetractParked_kept (a : Act) {s t : State} (h : execRetractParked a s = .next t) : Kept s t := by
  have h := Host.Outcome.next.inj h; subst h; exact retractParked_kept _ (Kept.refl s)

theorem execRetractParkHoldEnd_kept (a : Act) {s t : State} (h : execRetractParkHoldEnd a s = .next t) : Kept s t := by
  have h := Host.Outcome.next.inj h; subst h; exact retractParkHoldEnd_kept _ (Kept.refl s)

theorem execRetractTimeout_kept (a : Act) {s t : State} (h : execRetractTimeout a s = .next t) : Kept s t := by
  have h := Host.Outcome.next.inj h; subst h; exact retractTimeout_kept _ (Kept.refl s)

theorem execRetractPushEnd_kept (a : Act) {s t : State} (h : execRetractPushEnd a s = .next t) : Kept s t := by
  have h := Host.Outcome.next.inj h; subst h; exact retractPushEnd_kept _ (Kept.refl s)

theorem execStartRequest_kept (a : Option Act) {s t : State} (h : execStartRequest a s = .next t) : Kept s t := by
  have h := Host.Outcome.next.inj h; subst h; exact startRequest_kept _ (Kept.refl s)

theorem execAutonomousBrake_kept {s t : State} (h : execAutonomousBrake s = .next t) : Kept s t := by
  have h := Host.Outcome.next.inj h; subst h; exact autonomousBrake_kept  (Kept.refl s)

theorem execStmResume_kept {s t : State} (h : execStmResume s = .next t) : Kept s t := by
  have h := Host.Outcome.next.inj h; subst h; exact stmResume_kept  (Kept.refl s)

theorem execStmEnable_kept (pulse : Nat) {s t : State} (h : execStmEnable pulse s = .next t) : Kept s t := by
  have h := Host.Outcome.next.inj h; subst h; exact stmEnableCmd_kept _ (Kept.refl s)

theorem execSafetyMonitorTick_kept {s t : State} (h : execSafetyMonitorTick s = .next t) : Kept s t := by
  have h := Host.Outcome.next.inj h; subst h; exact safetyMonitorTick_kept  (Kept.refl s)

theorem execSafetyMonitorTakeover_kept (age : Nat) {s t : State} (h : execSafetyMonitorTakeover age s = .next t) : Kept s t := by
  have h := Host.Outcome.next.inj h; subst h; exact safetyMonitorTakeover_kept _ (Kept.refl s)

theorem execSmOvervoltage_kept {s t : State} (h : execSmOvervoltage s = .next t) : Kept s t := by
  have h := Host.Outcome.next.inj h; subst h; exact smOvervoltage_kept  (Kept.refl s)

theorem execWindingMeasureGo_kept (kind : Fin 4) (a : Act) {s t : State} (h : execWindingMeasureGo kind a s = .next t) : Kept s t := by
  have h := Host.Outcome.next.inj h; subst h; exact windingMeasureGo_kept _ _ (Kept.refl s)

theorem execWindingMeasureDone_kept (value : Nat) {s t : State} (h : execWindingMeasureDone value s = .next t) : Kept s t := by
  have h := Host.Outcome.next.inj h; subst h; exact windingMeasureDone_kept _ (Kept.refl s)

theorem execAutonomousSequenceEnd_kept {s t : State} (h : execAutonomousSequenceEnd s = .next t) : Kept s t := by
  have h := Host.Outcome.next.inj h; subst h; exact autonomousSequenceEnd_kept  (Kept.refl s)

theorem execSafetyMonitorPushEnd_kept {s t : State} (h : execSafetyMonitorPushEnd s = .next t) : Kept s t := by
  have h := Host.Outcome.next.inj h; subst h; exact safetyMonitorPushEnd_kept  (Kept.refl s)

theorem execStrongmanLogicPowerLoss_kept {s t : State} (h : execStrongmanLogicPowerLoss s = .next t) : Kept s t := by
  have h := Host.Outcome.next.inj h; subst h; exact strongmanLogicPowerLoss_kept  (Kept.refl s)

end Sys2Proof.Machine
end

