-- ==== Sys2Proof/Laws/KeptManager.lean ====
section
/-!
SUPPORT. Every operation of `Machine/Manager.lean` keeps what `Kept` names.
-/

namespace Sys2Proof.Machine

set_option Elab.async false
set_option linter.unusedTactic false
set_option linter.unreachableTactic false
set_option linter.unusedVariables false

theorem takeFmt_kept {s₀ s : State} (r : List (Nat × Byte)) (hK : Kept s₀ s) :
    Kept s₀ (if r = s.fmt then s else { s with fmt := r, bands := [], altered := [], weakSlots := [] }) := by
  split
  · exact hK
  · simpa only [Kept.mk] using hK

/-- Blocks set one by one keep a table of blocks in canonical form. -/
theorem wf_foldl_set {α : Type} (l : List α) (k : α → Nat) (v : α → Block) : ∀ m : List (Nat × Block),
    Tab.wf natBefore (fun _ => (0 : Block)) m = true →
    Tab.wf natBefore (fun _ => (0 : Block)) (l.foldl (fun m e => Tab.set 0 m (k e) (v e)) m) = true := by
  induction l with
  | nil => intro m h; exact h
  | cons e l ih => intro m h; exact ih _ (Tab.wf_put _ _ natBefore_trans natBefore_total m _ _ h)

theorem State.layOut_kept {s₀ : State} {s : State} (hK : Kept s₀ s) : Kept s₀ (State.layOut s) :=
  Kept.forAll _ (fun _ _ hu => State.puts_kept _ hu) _ _ (Kept.forAll _ (fun _ _ hu => Kept.put _ _ hu) _ _ (takeFmt_kept _ hK))

theorem State.fmtCommit_kept {s₀ : State} {s : State} (hK : Kept s₀ s) :
    Kept s₀ (State.fmtCommit s).1 := by
  unfold State.fmtCommit
  repeat' first
    | with_reducible assumption | with_reducible apply State.enable_kept | with_reducible apply State.layOut_kept
    | intro _ | with_reducible apply Kept.ite | split | dsimp only [id_eq] | simp only [Kept.mk]
    | (rename_i e; with_reducible refine Kept.of_eq e ?_)

theorem fmtCommitCmd_kept {s₀ : State} {s : State} (hK : Kept s₀ s) :
    Kept s₀ (fmtCommitCmd s) := by
  unfold fmtCommitCmd
  repeat' first
    | with_reducible assumption | with_reducible apply State.fmtCommit_kept | intro _ | with_reducible apply Kept.ite
    | split | dsimp only [id_eq] | simp only [Kept.mk] | (rename_i e; with_reducible refine Kept.of_eq e ?_)

theorem State.fmtUncommit_kept {s₀ : State} {s : State} (hK : Kept s₀ s) :
    Kept s₀ (State.fmtUncommit s).1 := by
  unfold State.fmtUncommit
  repeat' first
    | with_reducible assumption | with_reducible apply Kept.put | intro _ | with_reducible apply Kept.ite | split
    | dsimp only [id_eq] | simp only [Kept.mk] | (rename_i e; with_reducible refine Kept.of_eq e ?_)

theorem State.mmgEnable_kept {s₀ : State} {s : State} (hK : Kept s₀ s) :
    Kept s₀ (State.mmgEnable s).1 := by
  unfold State.mmgEnable
  repeat' first
    | with_reducible assumption | with_reducible apply State.enable_kept | with_reducible apply Kept.forAll
    | with_reducible apply State.putB_kept | with_reducible apply State.refreshAct_kept | intro _
    | with_reducible apply Kept.ite | split | dsimp only [id_eq] | simp only [Kept.mk]
    | (rename_i e; with_reducible refine Kept.of_eq e ?_)

theorem mmgEnableCmd_kept {s₀ : State} {s : State} (hK : Kept s₀ s) :
    Kept s₀ (mmgEnableCmd s) := by
  unfold mmgEnableCmd
  repeat' first
    | with_reducible assumption | with_reducible apply State.mmgEnable_kept | intro _ | with_reducible apply Kept.ite
    | split | dsimp only [id_eq] | simp only [Kept.mk] | (rename_i e; with_reducible refine Kept.of_eq e ?_)

theorem State.mmgDisable_kept {s₀ : State} {s : State} (hK : Kept s₀ s) :
    Kept s₀ (State.mmgDisable s) := by
  unfold State.mmgDisable
  repeat' first
    | with_reducible assumption | with_reducible apply State.puts_kept | intro _ | with_reducible apply Kept.ite
    | split | dsimp only [id_eq] | simp only [Kept.mk] | (rename_i e; with_reducible refine Kept.of_eq e ?_)

theorem durableTimer_kept {s₀ : State} {s : State} (hK : Kept s₀ s) :
    Kept s₀ (durableTimer s) := by
  unfold durableTimer
  repeat' first
    | with_reducible assumption | with_reducible apply Kept.forAll | with_reducible apply Kept.put
    | with_reducible apply State.beginPoint_kept | intro _ | with_reducible apply Kept.ite | split
    | dsimp only [id_eq] | simp only [Kept.mk] | (rename_i e; with_reducible refine Kept.of_eq e ?_)

theorem State.opFail_kept {s₀ : State} {s : State} (o : MOp) (hK : Kept s₀ s) :
    Kept s₀ (State.opFail s o) := by
  unfold State.opFail
  repeat' first
    | with_reducible assumption | with_reducible apply State.reclaimNext_kept | with_reducible apply State.post_kept
    | with_reducible apply State.evt_kept | with_reducible apply State.abandonOp_kept
    | with_reducible apply State.setOp_kept | intro _ | with_reducible apply Kept.ite | split | dsimp only [id_eq]
    | simp only [Kept.mk] | (rename_i e; with_reducible refine Kept.of_eq e ?_)

theorem relayStep_kept {s₀ : State} (a : Act) (bad : List Nat) (ok : Bool) {s : State} (hK : Kept s₀ s) :
    Kept s₀ (relayStep a bad ok s) := by
  unfold relayStep
  repeat' first
    | with_reducible assumption | with_reducible apply State.opFail_kept | with_reducible apply Kept.forAll
    | with_reducible apply State.putTrack_kept | with_reducible apply State.jrec_kept
    | with_reducible apply State.setOp_kept | with_reducible apply State.setBand_kept
    | with_reducible apply State.countN_kept | with_reducible apply State.endOp_kept
    | with_reducible apply State.checkSpare_kept | with_reducible apply State.relayNext_kept
    | with_reducible apply State.post_kept | with_reducible apply State.count_kept
    | with_reducible apply State.evt_kept | with_reducible apply Kept.foldl | with_reducible apply Kept.foldlFst
    | intro _ | with_reducible apply Kept.ite | split | dsimp only [id_eq] | simp only [Kept.mk]
    | (rename_i e; with_reducible refine Kept.of_eq e ?_)

theorem State.releaseOld_kept {s₀ : State} {s : State} (id : Nat) (hK : Kept s₀ s) :
    Kept s₀ (State.releaseOld s id) := by
  unfold State.releaseOld
  repeat' first
    | with_reducible assumption | with_reducible apply State.tryRelay_kept | with_reducible apply State.setBand_kept
    | intro _ | with_reducible apply Kept.ite | split | dsimp only [id_eq] | simp only [Kept.mk]
    | (rename_i e; with_reducible refine Kept.of_eq e ?_)

theorem State.swapZone_kept {s₀ : State} {s : State} (nsid : Nat) (zi : Nat) (hK : Kept s₀ s) :
    Kept s₀ (State.swapZone s nsid zi) := by
  unfold State.swapZone
  repeat' first
    | with_reducible assumption | with_reducible apply Kept.forAll | with_reducible apply State.drew_kept
    | with_reducible apply State.setBand_kept | with_reducible apply State.devZone_kept
    | with_reducible apply State.checkSpare_kept | with_reducible apply State.releaseOld_kept
    | with_reducible apply State.post_kept | with_reducible apply State.count_kept
    | with_reducible apply State.evt_kept | intro _ | with_reducible apply Kept.ite | split | dsimp only [id_eq]
    | simp only [Kept.mk] | (rename_i e; with_reducible refine Kept.of_eq e ?_)

theorem State.swapMarked_kept {s₀ : State} {s : State} (nsid : Nat) (hK : Kept s₀ s) :
    Kept s₀ (State.swapMarked s nsid) := by
  unfold State.swapMarked
  repeat' first
    | with_reducible assumption | with_reducible apply Kept.forAll | with_reducible apply State.swapZone_kept
    | intro _ | with_reducible apply Kept.ite | split | dsimp only [id_eq] | simp only [Kept.mk]
    | (rename_i e; with_reducible refine Kept.of_eq e ?_)

theorem State.demand_kept {s₀ : State} {s : State} (d : Demand) (hK : Kept s₀ s) :
    Kept s₀ (State.demand s d) := by
  unfold State.demand
  repeat' first
    | with_reducible assumption | with_reducible apply Kept.forAll | with_reducible apply State.devZone_kept
    | with_reducible apply State.post_kept | with_reducible apply State.evt_kept
    | with_reducible apply State.swapZone_kept | with_reducible apply State.freeBand_kept
    | with_reducible apply State.checkSpare_kept | with_reducible apply State.reclaim_kept | intro _
    | with_reducible apply Kept.ite | split | dsimp only [id_eq] | simp only [Kept.mk]
    | (rename_i e; with_reducible refine Kept.of_eq e ?_)

theorem alterationDemand_kept {s₀ : State} (h : GHead) (z : RZone) (dc : Fin 6) (hours : BitVec 32) {s : State} (hK : Kept s₀ s) :
    Kept s₀ (alterationDemand h z dc hours s) := by
  unfold alterationDemand
  repeat' first
    | with_reducible assumption | with_reducible apply State.demand_kept | intro _ | with_reducible apply Kept.ite
    | split | dsimp only [id_eq] | simp only [Kept.mk] | (rename_i e; with_reducible refine Kept.of_eq e ?_)

theorem State.altResume_kept {s₀ : State} {s : State} (hK : Kept s₀ s) :
    Kept s₀ (State.altResume s) := by
  unfold State.altResume
  repeat' first
    | with_reducible assumption | with_reducible apply Kept.forAll | with_reducible apply State.demand_kept
    | with_reducible apply State.relayNext_kept | intro _ | with_reducible apply Kept.ite | split
    | dsimp only [id_eq] | simp only [Kept.mk] | (rename_i e; with_reducible refine Kept.of_eq e ?_)

theorem State.switchKv_kept {s₀ s : State} (nsid src dst : Nat) (h : Kept s₀ s) : Kept s₀ (State.switchKv s nsid src dst) := by
  unfold State.switchKv
  split
  · exact h
  · dsimp only
    refine State.setBand_kept _ _ (State.setJugq_kept _ _ (h.trans ⟨rfl, fun x => ?_⟩))
    rw [State.canon_iff] at x ⊢
    obtain ⟨x0, x1, x2, x3, x4, x5, x6, x7⟩ := x
    refine ⟨x0, x1, x2, x3, x4, x5, x6, ?_⟩
    exact wf_foldl_set _ _ _ _ (Tab.wf_filter _ _ _ _ x7)

theorem State.switchBand_kept {s₀ : State} {s : State} (src : Nat) (dst : Nat) (hK : Kept s₀ s) :
    Kept s₀ (State.switchBand s src dst) := by
  unfold State.switchBand
  repeat' first
    | with_reducible assumption | with_reducible apply Kept.forAll | with_reducible apply State.switchKv_kept
    | with_reducible apply State.devZone_kept | intro _ | with_reducible apply Kept.ite | split | dsimp only [id_eq]
    | simp only [Kept.mk] | (rename_i e; with_reducible refine Kept.of_eq e ?_)

theorem State.retarget_kept {s₀ : State} {s : State} (o : MOp) (hK : Kept s₀ s) :
    Kept s₀ (State.retarget s o) := by
  unfold State.retarget
  repeat' first
    | with_reducible assumption | with_reducible apply State.count_kept | with_reducible apply State.setBand_kept
    | with_reducible apply State.checkSpare_kept | with_reducible apply State.reclaimNext_kept
    | with_reducible apply State.setOp_kept | intro _ | with_reducible apply Kept.ite | split | dsimp only [id_eq]
    | simp only [Kept.mk] | (rename_i e; with_reducible refine Kept.of_eq e ?_)

theorem State.dropTarget_kept {s₀ : State} {s : State} (o : MOp) (hK : Kept s₀ s) :
    Kept s₀ (State.dropTarget s o) := by
  unfold State.dropTarget
  repeat' first
    | with_reducible assumption | with_reducible apply State.reclaimNext_kept | with_reducible apply State.setOp_kept
    | with_reducible apply State.freeBand_kept | intro _ | with_reducible apply Kept.ite | split | dsimp only [id_eq]
    | simp only [Kept.mk] | (rename_i e; with_reducible refine Kept.of_eq e ?_)

theorem State.copyTracks_kept {s₀ : State} {s : State} (src : Nat) (dst : Nat) (lo : Nat) (hi : Nat) (hK : Kept s₀ s) :
    Kept s₀ (State.copyTracks s src dst lo hi) := by
  unfold State.copyTracks
  repeat' first
    | with_reducible assumption | with_reducible apply Kept.forAll | with_reducible apply State.putTrack_kept
    | intro _ | with_reducible apply Kept.ite | split | dsimp only [id_eq] | simp only [Kept.mk]
    | (rename_i e; with_reducible refine Kept.of_eq e ?_)

theorem State.restage_kept {s₀ : State} {s : State} (id : Nat) (lo : Nat) (hi : Nat) (hK : Kept s₀ s) :
    Kept s₀ (State.restage s id lo hi) := by
  unfold State.restage
  repeat' first
    | with_reducible assumption | with_reducible apply Kept.forAll | intro _ | with_reducible apply Kept.ite | split
    | dsimp only [id_eq] | simp only [Kept.mk] | (rename_i e; with_reducible refine Kept.of_eq e ?_)

theorem State.copyKv_kept {s₀ : State} {s : State} (id : Nat) (hK : Kept s₀ s) :
    Kept s₀ (State.copyKv s id) := by
  unfold State.copyKv
  repeat' first
    | with_reducible assumption | with_reducible apply Kept.forAll | with_reducible apply State.putTrack_kept
    | intro _ | with_reducible apply Kept.ite | split | dsimp only [id_eq] | simp only [Kept.mk]
    | (rename_i e; with_reducible refine Kept.of_eq e ?_)

theorem State.switchOp_kept {s₀ : State} {s : State} (o : MOp) (hK : Kept s₀ s) :
    Kept s₀ (State.switchOp s o) := by
  unfold State.switchOp
  repeat' first
    | with_reducible assumption | with_reducible apply State.setBand_kept
    | with_reducible apply State.switchBand_kept | with_reducible apply State.cleanSwitch_kept
    | with_reducible apply State.copyKv_kept | with_reducible apply Kept.when
    | with_reducible apply State.restage_kept | with_reducible apply State.mapLog_kept
    | with_reducible apply State.planAgain_kept | with_reducible apply State.requeue_kept | intro _
    | with_reducible apply Kept.ite | split | dsimp only [id_eq] | simp only [Kept.mk]
    | (rename_i e; with_reducible refine Kept.of_eq e ?_)

theorem reclaimStep_kept {s₀ : State} (a : Act) (ok : Bool) (share : Bool) {s : State} (hK : Kept s₀ s) :
    Kept s₀ (reclaimStep a ok share s) := by
  unfold reclaimStep
  repeat' first
    | with_reducible assumption | with_reducible apply State.reclaimNext_kept
    | with_reducible apply State.dropTarget_kept | with_reducible apply State.retarget_kept
    | with_reducible apply State.opFail_kept | with_reducible apply State.copyTracks_kept
    | with_reducible apply State.jrec_kept | with_reducible apply State.setOp_kept
    | with_reducible apply State.switchOp_kept | with_reducible apply State.releaseSrc_kept
    | with_reducible apply State.endOp_kept | with_reducible apply State.reclaim_kept
    | with_reducible apply State.checkSpare_kept | with_reducible apply State.clean_kept
    | with_reducible apply State.post_kept | with_reducible apply State.count_kept
    | with_reducible apply State.evt_kept | intro _ | with_reducible apply Kept.ite | split | dsimp only [id_eq]
    | simp only [Kept.mk] | (rename_i e; with_reducible refine Kept.of_eq e ?_)

theorem State.overwriteDone_kept {s₀ : State} {s : State} (nsid : Nat) (hK : Kept s₀ s) :
    Kept s₀ (State.overwriteDone s nsid) := by
  unfold State.overwriteDone
  repeat' first
    | with_reducible assumption | with_reducible apply Kept.put | with_reducible apply Kept.forAll
    | with_reducible apply State.mapLog_kept | with_reducible apply State.checkpoint_kept
    | with_reducible apply State.swapMarked_kept | with_reducible apply State.setNs_kept
    | with_reducible apply State.cmdPart_kept | intro _ | with_reducible apply Kept.ite | split | dsimp only [id_eq]
    | simp only [Kept.mk] | (rename_i e; with_reducible refine Kept.of_eq e ?_)

theorem State.fillUnit_kept {s₀ : State} {s : State} (a : Nat) (u : Nat × Nat) (hK : Kept s₀ s) :
    Kept s₀ (State.fillUnit s a u) := by
  unfold State.fillUnit
  repeat' first
    | with_reducible assumption | with_reducible apply Kept.forAll | with_reducible apply State.putTrack_kept
    | intro _ | with_reducible apply Kept.ite | split | dsimp only [id_eq] | simp only [Kept.mk]
    | (rename_i e; with_reducible refine Kept.of_eq e ?_)

theorem overwriteStep_kept {s₀ : State} (a : Act) (ok : Bool) (share : Bool) {s : State} (hK : Kept s₀ s) :
    Kept s₀ (overwriteStep a ok share s) := by
  unfold overwriteStep
  repeat' first
    | with_reducible assumption | with_reducible apply Kept.put | with_reducible apply State.opFail_kept
    | with_reducible apply Kept.forAll | with_reducible apply State.fillUnit_kept
    | with_reducible apply State.freeBand_kept | with_reducible apply State.overwriteDone_kept
    | with_reducible apply State.endOp_kept | with_reducible apply State.jrec_kept
    | with_reducible apply State.setOp_kept | intro _ | with_reducible apply Kept.ite | split | dsimp only [id_eq]
    | simp only [Kept.mk] | (rename_i e; with_reducible refine Kept.of_eq e ?_)

theorem State.setBack_kept {s₀ : State} {s : State} (o : MOp) (hK : Kept s₀ s) :
    Kept s₀ (State.setBack s o) := by
  unfold State.setBack
  repeat' first
    | with_reducible assumption | with_reducible apply State.setOp_kept | with_reducible apply State.unhold_kept
    | with_reducible apply State.endOp_kept | with_reducible apply State.showOps_kept
    | with_reducible apply State.freeBand_kept | intro _ | with_reducible apply Kept.ite | split | dsimp only [id_eq]
    | simp only [Kept.mk] | (rename_i e; with_reducible refine Kept.of_eq e ?_)

theorem State.scanJournal_kept {s₀ : State} {s : State} (hK : Kept s₀ s) :
    Kept s₀ (State.scanJournal s) := by
  unfold State.scanJournal
  repeat' first
    | with_reducible assumption | with_reducible apply Kept.forAll | with_reducible apply State.setBack_kept
    | intro _ | with_reducible apply Kept.ite | split | dsimp only [id_eq] | simp only [Kept.mk]
    | (rename_i e; with_reducible refine Kept.of_eq e ?_)

theorem State.resumeAll_kept {s₀ : State} {s : State} (hK : Kept s₀ s) :
    Kept s₀ (State.resumeAll s) := by
  unfold State.resumeAll
  repeat' first
    | with_reducible assumption | with_reducible apply Kept.forAll | with_reducible apply State.resumeOps_kept
    | intro _ | with_reducible apply Kept.ite | split | dsimp only [id_eq] | simp only [Kept.mk]
    | (rename_i e; with_reducible refine Kept.of_eq e ?_)

theorem State.journalError_kept {s₀ : State} {s : State} (jseq : Nat) (hK : Kept s₀ s) :
    Kept s₀ (State.journalError s jseq) := by
  unfold State.journalError
  repeat' first
    | with_reducible assumption | with_reducible apply State.post_kept | with_reducible apply State.evt_kept
    | with_reducible apply State.setBack_kept | intro _ | with_reducible apply Kept.ite | split | dsimp only [id_eq]
    | simp only [Kept.mk] | (rename_i e; with_reducible refine Kept.of_eq e ?_)

theorem execMmgEnable_kept {s t : State} (h : execMmgEnable s = .next t) : Kept s t := by
  have h := Host.Outcome.next.inj h; subst h; exact mmgEnableCmd_kept  (Kept.refl s)

theorem execFmtCommit_kept {s t : State} (h : execFmtCommit s = .next t) : Kept s t := by
  have h := Host.Outcome.next.inj h; subst h; exact fmtCommitCmd_kept  (Kept.refl s)

theorem execDurableTimer_kept {s t : State} (h : execDurableTimer s = .next t) : Kept s t := by
  have h := Host.Outcome.next.inj h; subst h; exact durableTimer_kept  (Kept.refl s)

theorem execAlterationDemand_kept (h : GHead) (z : RZone) (dc : Fin 6) (hours : BitVec 32) {s t : State} (h : execAlterationDemand h z dc hours s = .next t) : Kept s t := by
  have h := Host.Outcome.next.inj h; subst h; exact alterationDemand_kept _ _ _ _ (Kept.refl s)

theorem execRelayStep_kept (a : Act) (bad : List Nat) (ok : Bool) {s t : State} (h : execRelayStep a bad ok s = .next t) : Kept s t := by
  have h := Host.Outcome.next.inj h; subst h; exact relayStep_kept _ _ _ (Kept.refl s)

theorem execReclaimStep_kept (a : Act) (ok : Bool) (share : Bool) {s t : State} (h : execReclaimStep a ok share s = .next t) : Kept s t := by
  have h := Host.Outcome.next.inj h; subst h; exact reclaimStep_kept _ _ _ (Kept.refl s)

theorem execOverwriteStep_kept (a : Act) (ok : Bool) (share : Bool) {s t : State} (h : execOverwriteStep a ok share s = .next t) : Kept s t := by
  have h := Host.Outcome.next.inj h; subst h; exact overwriteStep_kept _ _ _ (Kept.refl s)

end Sys2Proof.Machine
end

