-- ==== Sys2Proof/Laws/KeptFlash.lean ====
section
/-!
SUPPORT. Every operation of `Machine/Flash.lean` keeps what `Kept` names.
-/

namespace Sys2Proof.Machine

set_option Elab.async false
set_option linter.unusedTactic false
set_option linter.unreachableTactic false
set_option linter.unusedVariables false

theorem bytesOk_imgTab (l : List Byte) : bytesOk 0 (imgTab l) = true := bytesOk_putBytes l [] 0 rfl

theorem imgInForce_kept {s₀ s : State} (img : List Byte) (l : List (Fld × Nat)) (hK : Kept s₀ s) :
    Kept s₀ (State.puts { s with opt := imgTab img } l) :=
  State.puts_kept _ (Kept.setOpt hK fun _ => bytesOk_imgTab _)

theorem flashRead_kept (addr : BitVec 32) (n : BitVec 16) (ran : Nat) {s t : State} (h : flashRead addr n ran s = .next t) : Kept s t := by
  unfold flashRead at h
  dsimp only at h
  split at h
  · cases h
  · split at h
    · cases h; simp only [Kept.mk]; exact .refl _
    · split at h
      · cases h; exact State.serveRead_kept _ _ (.refl _)
      · split at h
        · cases h; exact State.serveRead_kept _ _ (.refl _)
        · split at h
          · cases h; exact State.resumeOp_kept _ (State.serveRead_kept _ _ (State.suspendOp_kept _ (.refl _)))
          · cases h; exact State.waitFor_kept _ _ (.refl _)

theorem flashProgram_kept (addr : BitVec 32) (data : List Byte) (ran : Nat) {s t : State} (h : flashProgram addr data ran s = .next t) : Kept s t := by
  unfold flashProgram at h
  split at h
  · cases h
  · split at h
    · cases h; exact .refl _
    · cases h; exact State.reqProg_kept _ _ _ (.refl _)

theorem flashErase_kept (blk : BitVec 16) {s t : State} (h : flashErase blk s = .next t) : Kept s t := by
  unfold flashErase at h
  dsimp only at h
  split at h
  · cases h
  · split at h
    · cases h; exact .refl _
    · cases h; exact State.reqErase_kept _ (.refl _)

theorem State.fwPage_kept {s₀ : State} {s : State} (a : Nat) (hK : Kept s₀ s) :
    Kept s₀ (State.fwPage s a) := by
  unfold State.fwPage
  repeat' first
    | with_reducible assumption | with_reducible apply Kept.put | intro _ | with_reducible apply Kept.ite | split
    | dsimp only [id_eq] | simp only [Kept.mk] | (rename_i e; with_reducible refine Kept.of_eq e ?_)

theorem State.fwDrop_kept {s₀ : State} {s : State} (k : Nat) (hK : Kept s₀ s) :
    Kept s₀ (State.fwDrop s k) := by
  unfold State.fwDrop
  repeat' first
    | with_reducible assumption | with_reducible apply State.setWait_kept | intro _ | with_reducible apply Kept.ite
    | split | dsimp only [id_eq] | simp only [Kept.mk] | (rename_i e; with_reducible refine Kept.of_eq e ?_)

theorem State.fwFail_kept {s₀ : State} {s : State} (a : Nat) (hK : Kept s₀ s) :
    Kept s₀ (State.fwFail s a) := by
  unfold State.fwFail
  repeat' first
    | with_reducible assumption | with_reducible apply State.puts_kept | with_reducible apply State.fwDrop_kept
    | intro _ | with_reducible apply Kept.ite | split | dsimp only [id_eq] | simp only [Kept.mk]
    | (rename_i e; with_reducible refine Kept.of_eq e ?_)

theorem flashProgramDone_kept {s₀ : State} (b : Fin 4) (ok : Bool) {s : State} (hK : Kept s₀ s) :
    Kept s₀ (flashProgramDone b ok s) := by
  unfold flashProgramDone
  repeat' first
    | with_reducible assumption | with_reducible apply State.ringProgEnd_kept
    | with_reducible apply State.setOps_kept | with_reducible apply State.fwPage_kept
    | with_reducible apply State.progNow_kept | with_reducible apply State.fwFail_kept
    | with_reducible apply State.flashFailed_kept | with_reducible apply State.progCut_kept
    | with_reducible apply State.bankNext_kept | intro _ | with_reducible apply Kept.ite | split | dsimp only [id_eq]
    | simp only [Kept.mk] | (rename_i e; with_reducible refine Kept.of_eq e ?_)

theorem flashEraseDone_kept {s₀ : State} (b : Fin 4) (ok : Bool) {s : State} (hK : Kept s₀ s) :
    Kept s₀ (flashEraseDone b ok s) := by
  unfold flashEraseDone
  repeat' first
    | with_reducible assumption | with_reducible apply State.ringEraseEnd_kept
    | with_reducible apply State.setOps_kept | with_reducible apply State.eraseNow_kept
    | with_reducible apply State.fwFail_kept | with_reducible apply State.flashFailed_kept
    | with_reducible apply State.setBlk_kept | with_reducible apply State.bankNext_kept | intro _
    | with_reducible apply Kept.ite | split | dsimp only [id_eq] | simp only [Kept.mk]
    | (rename_i e; with_reducible refine Kept.of_eq e ?_)

theorem flashSuspendDue_kept {s₀ : State} (b : Fin 4) {s : State} (hK : Kept s₀ s) :
    Kept s₀ (flashSuspendDue b s) := by
  unfold flashSuspendDue
  repeat' first
    | with_reducible assumption | with_reducible apply State.resumeOp_kept
    | with_reducible apply State.serveRead_kept | with_reducible apply State.suspendOp_kept
    | with_reducible apply State.setWait_kept | with_reducible apply State.startProg_kept | intro _
    | with_reducible apply Kept.ite | split | dsimp only [id_eq] | simp only [Kept.mk]
    | (rename_i e; with_reducible refine Kept.of_eq e ?_)

theorem State.setHold_kept {s₀ : State} {s : State} (m : Nat) (hK : Kept s₀ s) :
    Kept s₀ (State.setHold s m) := by
  unfold State.setHold
  repeat' first
    | with_reducible assumption | with_reducible apply State.showPbl_kept | with_reducible apply Kept.forAll
    | with_reducible apply Kept.put | with_reducible apply State.suspendOp_kept
    | with_reducible apply State.bankNext_kept | intro _ | with_reducible apply Kept.ite | split | dsimp only [id_eq]
    | simp only [Kept.mk] | (rename_i e; with_reducible refine Kept.of_eq e ?_)

theorem wdbHold_kept {s₀ : State} (m : BitVec 4) {s : State} (hK : Kept s₀ s) :
    Kept s₀ (wdbHold m s) := by
  unfold wdbHold
  repeat' first
    | with_reducible assumption | with_reducible apply State.setHold_kept | intro _ | with_reducible apply Kept.ite
    | split | dsimp only [id_eq] | simp only [Kept.mk] | (rename_i e; with_reducible refine Kept.of_eq e ?_)

theorem State.flashCut_kept {s₀ : State} {s : State} (hK : Kept s₀ s) :
    Kept s₀ (State.flashCut s) := by
  unfold State.flashCut
  repeat' first
    | with_reducible assumption | with_reducible apply Kept.forAll | with_reducible apply State.progCut_kept
    | with_reducible apply State.ringSpoilt_kept | with_reducible apply State.ringMissed_kept | intro _
    | with_reducible apply Kept.ite | split | dsimp only [id_eq] | simp only [Kept.mk]
    | (rename_i e; with_reducible refine Kept.of_eq e ?_)

theorem State.loadOpt_kept {s₀ : State} {s : State} (hK : Kept s₀ s) : Kept s₀ (State.loadOpt s) := by
  unfold State.loadOpt
  split
  · exact imgInForce_kept _ _ hK
  · exact State.post_kept _ _ _ _ _ (State.puts_kept _ (Kept.setOpt hK fun _ => rfl))

theorem State.refreshSpn_kept {s₀ : State} {s : State} (hK : Kept s₀ s) :
    Kept s₀ (State.refreshSpn s) := by
  unfold State.refreshSpn
  repeat' first
    | with_reducible assumption | with_reducible apply State.putWin_kept | intro _ | with_reducible apply Kept.ite
    | split | dsimp only [id_eq] | simp only [Kept.mk] | (rename_i e; with_reducible refine Kept.of_eq e ?_)

theorem State.optWriteCopy_kept {s₀ : State} {s : State} (c : Nat) (img : List Byte) (ok : Bool) (hK : Kept s₀ s) :
    Kept s₀ (State.optWriteCopy s c img ok) := by
  unfold State.optWriteCopy
  repeat' first
    | with_reducible assumption | with_reducible apply State.progNow_kept | with_reducible apply State.eraseNow_kept
    | with_reducible apply State.flashFailed_kept | with_reducible apply State.progCut_kept | intro _
    | with_reducible apply Kept.ite | split | dsimp only [id_eq] | simp only [Kept.mk]
    | (rename_i e; with_reducible refine Kept.of_eq e ?_)

theorem State.optRepairDo_kept {s₀ : State} {s : State} (hK : Kept s₀ s) :
    Kept s₀ (State.optRepairDo s) := by
  unfold State.optRepairDo
  repeat' first
    | with_reducible assumption | with_reducible apply State.post_kept | with_reducible apply Kept.put
    | with_reducible apply State.optWriteCopy_kept | intro _ | with_reducible apply Kept.ite | split
    | dsimp only [id_eq] | simp only [Kept.mk] | (rename_i e; with_reducible refine Kept.of_eq e ?_)

theorem State.optInForce_kept {s₀ s : State} (c : Nat) (img : List Byte) (hK : Kept s₀ s) :
    Kept s₀ (State.optInForce s c img) := imgInForce_kept img _ hK

theorem State.optWrite_kept {s₀ : State} {s : State} (off : Nat) (data : List Byte) (ok1 : Bool) (ok2 : Bool) (hK : Kept s₀ s) :
    Kept s₀ (State.optWrite s off data ok1 ok2).1 := by
  unfold State.optWrite
  repeat' first
    | with_reducible assumption | with_reducible apply State.optWriteCopy_kept | with_reducible apply Kept.put
    | with_reducible apply State.optInForce_kept | with_reducible apply State.refreshSpn_kept | intro _
    | with_reducible apply Kept.ite | split | dsimp only [id_eq] | simp only [Kept.mk]
    | (rename_i e; with_reducible refine Kept.of_eq e ?_)

theorem State.progSel_kept {s₀ : State} {s : State} (code : Nat) (ok : Bool) (hK : Kept s₀ s) :
    Kept s₀ (State.progSel s code ok) := by
  unfold State.progSel
  repeat' first
    | with_reducible assumption | with_reducible apply State.progNow_kept
    | with_reducible apply State.flashFailed_kept | with_reducible apply State.progCut_kept
    | with_reducible apply State.eraseNow_kept | intro _ | with_reducible apply Kept.ite | split | dsimp only [id_eq]
    | simp only [Kept.mk] | (rename_i e; with_reducible refine Kept.of_eq e ?_)

theorem State.fwBack_kept {s₀ : State} {s : State} (k : Nat) (a : Nat) (data : List Byte) (hK : Kept s₀ s) :
    Kept s₀ (State.fwBack s k a data) := by
  unfold State.fwBack
  repeat' first
    | with_reducible assumption | with_reducible apply State.pump_kept | with_reducible apply State.setWait_kept
    | intro _ | with_reducible apply Kept.ite | split | dsimp only [id_eq] | simp only [Kept.mk]
    | (rename_i e; with_reducible refine Kept.of_eq e ?_)

theorem State.fwTake_kept {s₀ : State} {s : State} (k : Nat) (holder : Nat) (ofs : Nat) (data : List Byte) (ok : Bool) (hK : Kept s₀ s) :
    Kept s₀ (State.fwTake s k holder ofs data ok).1 := by
  unfold State.fwTake
  repeat' first
    | with_reducible assumption | with_reducible apply State.puts_kept | with_reducible apply Kept.put
    | with_reducible apply State.progNow_kept | with_reducible apply State.flashFailed_kept
    | with_reducible apply State.progCut_kept | with_reducible apply State.fwBack_kept | intro _
    | with_reducible apply Kept.ite | split | dsimp only [id_eq] | simp only [Kept.mk]
    | (rename_i e; with_reducible refine Kept.of_eq e ?_)

theorem State.fwOpening_kept {s₀ : State} {s : State} (k : Nat) (len : Nat) (hK : Kept s₀ s) :
    Kept s₀ (State.fwOpening s k len) := by
  unfold State.fwOpening
  repeat' first
    | with_reducible assumption | with_reducible apply State.puts_kept | with_reducible apply State.fwDrop_kept
    | with_reducible apply Kept.forAll | with_reducible apply State.eraseNow_kept | intro _
    | with_reducible apply Kept.ite | split | dsimp only [id_eq] | simp only [Kept.mk]
    | (rename_i e; with_reducible refine Kept.of_eq e ?_)

theorem State.fwDownload_kept {s₀ : State} {s : State} (holder : Nat) (ofs : Nat) (data : List Byte) (ok : Bool) (hK : Kept s₀ s) :
    Kept s₀ (State.fwDownload s holder ofs data ok).1 := by
  unfold State.fwDownload
  repeat' first
    | with_reducible assumption | with_reducible apply State.fwTake_kept | with_reducible apply State.fwOpening_kept
    | intro _ | with_reducible apply Kept.ite | split | dsimp only [id_eq] | simp only [Kept.mk]
    | (rename_i e; with_reducible refine Kept.of_eq e ?_)

theorem State.fwDownHeld_kept {s₀ : State} {s : State} (c : Nat) (holder : Nat) (ofs : Nat) (data : List Byte) (ok : Bool) (hK : Kept s₀ s) :
    Kept s₀ (State.fwDownHeld s c holder ofs data ok).1 := by
  unfold State.fwDownHeld
  repeat' first
    | with_reducible assumption | with_reducible apply State.fwDownload_kept | with_reducible apply Kept.when
    | with_reducible apply State.fwPages_kept | intro _ | with_reducible apply Kept.ite | split | dsimp only [id_eq]
    | simp only [Kept.mk] | (rename_i e; with_reducible refine Kept.of_eq e ?_)

theorem State.fwCommit_kept {s₀ : State} {s : State} (action : Nat) (sel : Bool) (ok : Bool) (hK : Kept s₀ s) :
    Kept s₀ (State.fwCommit s action sel ok).1 := by
  unfold State.fwCommit
  repeat' first
    | with_reducible assumption | with_reducible apply State.puts_kept | with_reducible apply Kept.put
    | with_reducible apply State.progSel_kept | with_reducible apply State.post_kept
    | with_reducible apply Kept.foldl | with_reducible apply Kept.foldlFst | intro _ | with_reducible apply Kept.ite
    | split | dsimp only [id_eq] | simp only [Kept.mk] | (rename_i e; with_reducible refine Kept.of_eq e ?_)

theorem downloadSessionTimeout_kept {s₀ : State} {s : State} (hK : Kept s₀ s) :
    Kept s₀ (downloadSessionTimeout s) := by
  unfold downloadSessionTimeout
  repeat' first
    | with_reducible assumption | with_reducible apply State.puts_kept | intro _ | with_reducible apply Kept.ite
    | split | dsimp only [id_eq] | simp only [Kept.mk] | (rename_i e; with_reducible refine Kept.of_eq e ?_)

theorem State.confirmTrial_kept {s₀ : State} {s : State} (ok : Bool) (hK : Kept s₀ s) :
    Kept s₀ (State.confirmTrial s ok) := by
  unfold State.confirmTrial
  repeat' first
    | with_reducible assumption | with_reducible apply State.puts_kept | with_reducible apply State.progSel_kept
    | with_reducible apply Kept.forAll | intro _ | with_reducible apply Kept.ite | split | dsimp only [id_eq]
    | simp only [Kept.mk] | (rename_i e; with_reducible refine Kept.of_eq e ?_)

theorem State.sntEnable_kept {s₀ : State} {s : State} (hK : Kept s₀ s) :
    Kept s₀ (State.sntEnable s).1 := by
  unfold State.sntEnable
  repeat' first
    | with_reducible assumption | with_reducible apply State.enable_kept | with_reducible apply State.puts_kept
    | intro _ | with_reducible apply Kept.ite | split | dsimp only [id_eq] | simp only [Kept.mk]
    | (rename_i e; with_reducible refine Kept.of_eq e ?_)

theorem sntEnableCmd_kept {s₀ : State} {s : State} (hK : Kept s₀ s) :
    Kept s₀ (sntEnableCmd s) := by
  unfold sntEnableCmd
  repeat' first
    | with_reducible assumption | with_reducible apply State.sntEnable_kept | intro _ | with_reducible apply Kept.ite
    | split | dsimp only [id_eq] | simp only [Kept.mk] | (rename_i e; with_reducible refine Kept.of_eq e ?_)

theorem State.sntKick_kept {s₀ : State} {s : State} (v : Nat) (hK : Kept s₀ s) :
    Kept s₀ (State.sntKick s v) := by
  unfold State.sntKick
  repeat' first
    | with_reducible assumption | with_reducible apply State.count_kept | with_reducible apply State.evt_kept
    | with_reducible apply State.puts_kept | intro _ | with_reducible apply Kept.ite | split | dsimp only [id_eq]
    | simp only [Kept.mk] | (rename_i e; with_reducible refine Kept.of_eq e ?_)

theorem sntKickCmd_kept {s₀ : State} (v : BitVec 16) {s : State} (hK : Kept s₀ s) :
    Kept s₀ (sntKickCmd v s) := by
  unfold sntKickCmd
  repeat' first
    | with_reducible assumption | with_reducible apply State.sntKick_kept | intro _ | with_reducible apply Kept.ite
    | split | dsimp only [id_eq] | simp only [Kept.mk] | (rename_i e; with_reducible refine Kept.of_eq e ?_)

theorem stage1_kept {s₀ : State} (ctx : BitVec 8) {s : State} (hK : Kept s₀ s) :
    Kept s₀ (stage1 ctx s) := by
  unfold stage1
  repeat' first
    | with_reducible assumption | with_reducible apply State.post_kept | with_reducible apply State.count_kept
    | with_reducible apply State.evt_kept | with_reducible apply State.puts_kept | intro _
    | with_reducible apply Kept.ite | split | dsimp only [id_eq] | simp only [Kept.mk]
    | (rename_i e; with_reducible refine Kept.of_eq e ?_)

theorem execFlashRead_kept (addr : BitVec 32) (n : BitVec 16) (ran : Nat) {s t : State} (h : execFlashRead addr n ran s = .next t) : Kept s t := flashRead_kept addr n ran h

theorem execFlashProgram_kept (addr : BitVec 32) (data : List Byte) (ran : Nat) {s t : State} (h : execFlashProgram addr data ran s = .next t) : Kept s t := flashProgram_kept addr data ran h

theorem execFlashErase_kept (blk : BitVec 16) {s t : State} (h : execFlashErase blk s = .next t) : Kept s t := flashErase_kept blk h

theorem execFlashProgramDone_kept (b : Fin 4) (ok : Bool) {s t : State} (h : execFlashProgramDone b ok s = .next t) : Kept s t := by
  have h := Host.Outcome.next.inj h; subst h; exact flashProgramDone_kept _ _ (Kept.refl s)

theorem execFlashEraseDone_kept (b : Fin 4) (ok : Bool) {s t : State} (h : execFlashEraseDone b ok s = .next t) : Kept s t := by
  have h := Host.Outcome.next.inj h; subst h; exact flashEraseDone_kept _ _ (Kept.refl s)

theorem execFlashSuspendDue_kept (b : Fin 4) {s t : State} (h : execFlashSuspendDue b s = .next t) : Kept s t := by
  have h := Host.Outcome.next.inj h; subst h; exact flashSuspendDue_kept _ (Kept.refl s)

theorem execWdbHold_kept (m : BitVec 4) {s t : State} (h : execWdbHold m s = .next t) : Kept s t := by
  have h := Host.Outcome.next.inj h; subst h; exact wdbHold_kept _ (Kept.refl s)

theorem execDownloadSessionTimeout_kept {s t : State} (h : execDownloadSessionTimeout s = .next t) : Kept s t := by
  have h := Host.Outcome.next.inj h; subst h; exact downloadSessionTimeout_kept  (Kept.refl s)

theorem execSntEnable_kept {s t : State} (h : execSntEnable s = .next t) : Kept s t := by
  have h := Host.Outcome.next.inj h; subst h; exact sntEnableCmd_kept  (Kept.refl s)

theorem execSntKick_kept (v : BitVec 16) {s t : State} (h : execSntKick v s = .next t) : Kept s t := by
  have h := Host.Outcome.next.inj h; subst h; exact sntKickCmd_kept _ (Kept.refl s)

theorem execStage1_kept (ctx : BitVec 8) {s t : State} (h : execStage1 ctx s = .next t) : Kept s t := by
  have h := Host.Outcome.next.inj h; subst h; exact stage1_kept _ (Kept.refl s)

end Sys2Proof.Machine
end

