-- ==== Sys2Proof/Laws/KeptBudget.lean ====
section
/-!
SUPPORT. Every operation of `Machine/Budget.lean` keeps what `Kept` names.
-/

namespace Sys2Proof.Machine

set_option Elab.async false
set_option linter.unusedTactic false
set_option linter.unreachableTactic false
set_option linter.unusedVariables false

theorem State.checkMiss_kept {s₀ : State} {s : State} (hK : Kept s₀ s) :
    Kept s₀ (State.checkMiss s) := by
  unfold State.checkMiss
  repeat' first
    | with_reducible assumption | with_reducible apply State.putB_kept | with_reducible apply State.post_kept
    | with_reducible apply State.evt_kept | intro _ | with_reducible apply Kept.ite | split | dsimp only [id_eq]
    | simp only [Kept.mk] | (rename_i e; with_reducible refine Kept.of_eq e ?_)

theorem State.present_kept {s₀ : State} {s : State} (v : Nat) (hK : Kept s₀ s) :
    Kept s₀ (State.present s v) := by
  unfold State.present
  repeat' first
    | with_reducible assumption | with_reducible apply State.evalSp_kept | with_reducible apply Kept.put | intro _
    | with_reducible apply Kept.ite | split | dsimp only [id_eq] | simp only [Kept.mk]
    | (rename_i e; with_reducible refine Kept.of_eq e ?_)

theorem State.leavePs_kept {s₀ : State} {s : State} (hK : Kept s₀ s) :
    Kept s₀ (State.leavePs s) := by
  unfold State.leavePs
  repeat' first
    | with_reducible assumption | with_reducible apply State.puts_kept | with_reducible apply State.unpause_kept
    | with_reducible apply State.setPs_kept | with_reducible apply Kept.put | intro _ | with_reducible apply Kept.ite
    | split | dsimp only [id_eq] | simp only [Kept.mk] | (rename_i e; with_reducible refine Kept.of_eq e ?_)

theorem State.follow_kept {s₀ : State} {s : State} (hK : Kept s₀ s) :
    Kept s₀ (State.follow s) := by
  unfold State.follow
  repeat' first
    | with_reducible assumption | with_reducible apply State.checkMiss_kept | with_reducible apply State.leavePs_kept
    | with_reducible apply State.puts_kept | intro _ | with_reducible apply Kept.ite | split | dsimp only [id_eq]
    | simp only [Kept.mk] | (rename_i e; with_reducible refine Kept.of_eq e ?_)

theorem State.budgetChanged_kept {s₀ : State} {s : State} (hK : Kept s₀ s) :
    Kept s₀ (State.budgetChanged s) := by
  unfold State.budgetChanged
  repeat' first
    | with_reducible assumption | with_reducible apply State.checkMiss_kept | with_reducible apply State.edge_kept
    | with_reducible apply State.evt_kept | with_reducible apply Kept.put | with_reducible apply State.follow_kept
    | with_reducible apply State.present_kept | intro _ | with_reducible apply Kept.ite | split | dsimp only [id_eq]
    | simp only [Kept.mk] | (rename_i e; with_reducible refine Kept.of_eq e ?_)

theorem State.setBudget_kept {s₀ : State} {s : State} (scope : Nat) (v : Nat) (hK : Kept s₀ s) :
    Kept s₀ (State.setBudget s scope v).1 := by
  unfold State.setBudget
  repeat' first
    | with_reducible assumption | with_reducible apply State.budgetChanged_kept | with_reducible apply Kept.put
    | with_reducible apply State.setNs_kept | intro _ | with_reducible apply Kept.ite | split | dsimp only [id_eq]
    | simp only [Kept.mk] | (rename_i e; with_reducible refine Kept.of_eq e ?_)

theorem State.arrive_kept {s₀ : State} {s : State} (hK : Kept s₀ s) :
    Kept s₀ (State.arrive s) := by
  unfold State.arrive
  repeat' first
    | with_reducible assumption | with_reducible apply State.leavePs_kept | with_reducible apply Kept.put
    | with_reducible apply State.checkMiss_kept | with_reducible apply State.present_kept | intro _
    | with_reducible apply Kept.ite | split | dsimp only [id_eq] | simp only [Kept.mk]
    | (rename_i e; with_reducible refine Kept.of_eq e ?_)

end Sys2Proof.Machine
end

