-- ==== Sys2Proof/Laws/KeptIntake.lean ====
section
/-!
SUPPORT. Every operation of `Machine/Intake.lean` keeps what `Kept` names.
-/

namespace Sys2Proof.Machine

set_option Elab.async false
set_option linter.unusedTactic false
set_option linter.unreachableTactic false
set_option linter.unusedVariables false

theorem State.appendMove_kept {s₀ : State} {s : State} (nsid : Nat) (lba : Nat) (n : Nat) (hK : Kept s₀ s) :
    Kept s₀ (State.appendMove s nsid lba n) := by
  unfold State.appendMove
  repeat' first
    | with_reducible assumption | with_reducible apply State.setZone_kept | intro _ | with_reducible apply Kept.ite
    | split | dsimp only [id_eq] | simp only [Kept.mk] | (rename_i e; with_reducible refine Kept.of_eq e ?_)

theorem State.showPause_kept {s₀ : State} {s : State} (why : Nat) (hK : Kept s₀ s) :
    Kept s₀ (State.showPause s why) := by
  unfold State.showPause
  repeat' first
    | with_reducible assumption | with_reducible apply State.puts_kept | with_reducible apply Kept.when
    | with_reducible apply State.count_kept | with_reducible apply State.evt_kept
    | with_reducible apply State.post_kept | with_reducible apply Kept.put | intro _ | with_reducible apply Kept.ite
    | split | dsimp only [id_eq] | simp only [Kept.mk] | (rename_i e; with_reducible refine Kept.of_eq e ?_)

theorem State.tryTake_kept {s₀ : State} {s : State} (w : Waiting) (full : Bool) (hK : Kept s₀ s) :
    Kept s₀ (State.tryTake s w full).1 := by
  unfold State.tryTake
  repeat' first
    | with_reducible assumption | with_reducible apply State.arrive_kept | with_reducible apply State.showPause_kept
    | with_reducible apply State.enlist_kept | with_reducible apply Kept.when
    | with_reducible apply State.appendMove_kept | intro _ | with_reducible apply Kept.ite | split
    | dsimp only [id_eq] | simp only [Kept.mk] | (rename_i e; with_reducible refine Kept.of_eq e ?_)

theorem State.beginCmd_kept {s₀ : State} {s : State} (id : CmdId) (f : Cmd → State → State) (hK : Kept s₀ s) (hK_f : ∀ x0 u, Kept s₀ u → Kept s₀ (f x0 u)) :
    Kept s₀ (State.beginCmd s id f) := by
  unfold State.beginCmd
  repeat' first
    | with_reducible assumption | with_reducible apply State.updCmd_kept | with_reducible apply hK_f | intro _
    | with_reducible apply Kept.ite | split | dsimp only [id_eq] | simp only [Kept.mk]
    | (rename_i e; with_reducible refine Kept.of_eq e ?_)

theorem State.taking_kept {s₀ : State} {s : State} (w : Waiting) (f : Cmd → State → State) (hK : Kept s₀ s) (hK_f : ∀ x0 u, Kept s₀ u → Kept s₀ (f x0 u)) :
    Kept s₀ (State.taking s w f) := by
  unfold State.taking
  repeat' first
    | with_reducible assumption | with_reducible apply State.beginCmd_kept | with_reducible apply State.tryTake_kept
    | with_reducible apply hK_f | intro _ | with_reducible apply Kept.ite | split | dsimp only [id_eq]
    | simp only [Kept.mk] | (rename_i e; with_reducible refine Kept.of_eq e ?_)

theorem State.admin_kept {s₀ : State} {s : State} (id : CmdId) (f : Cmd → State → State) (hK : Kept s₀ s) (hK_f : ∀ x0 u, Kept s₀ u → Kept s₀ (f x0 u)) :
    Kept s₀ (State.admin s id f) := by
  unfold State.admin
  repeat' first
    | with_reducible assumption | with_reducible apply State.taking_kept | with_reducible apply hK_f | intro _
    | with_reducible apply Kept.ite | split | dsimp only [id_eq] | simp only [Kept.mk]
    | (rename_i e; with_reducible refine Kept.of_eq e ?_)

end Sys2Proof.Machine
end

