-- ==== Sys2Proof/Laws/KeptCalliope.lean ====
section
/-!
SUPPORT. Every operation of `Machine/Calliope.lean` keeps what `Kept` names.
-/

namespace Sys2Proof.Machine

set_option Elab.async false
set_option linter.unusedTactic false
set_option linter.unreachableTactic false
set_option linter.unusedVariables false

theorem State.setBankBit_kept {s₀ : State} {s : State} (lo : Nat → Fld) (hi : Nat → Fld) (n : Nat) (b : Nat) (v : Bool) (hK : Kept s₀ s) :
    Kept s₀ (State.setBankBit s lo hi n b v) := by
  unfold State.setBankBit
  repeat' first
    | with_reducible assumption | with_reducible apply State.setBit_kept | intro _ | with_reducible apply Kept.ite
    | split | dsimp only [id_eq] | simp only [Kept.mk] | (rename_i e; with_reducible refine Kept.of_eq e ?_)

theorem State.setBankSt_kept {s₀ : State} {s : State} (n : Nat) (b : Nat) (st : Nat) (hK : Kept s₀ s) :
    Kept s₀ (State.setBankSt s n b st) := by
  unfold State.setBankSt
  repeat' first
    | with_reducible assumption | with_reducible apply State.setBankBit_kept | with_reducible apply Kept.when
    | with_reducible apply State.puts_kept | intro _ | with_reducible apply Kept.ite | split | dsimp only [id_eq]
    | simp only [Kept.mk] | (rename_i e; with_reducible refine Kept.of_eq e ?_)

theorem State.endHeld_kept {s₀ : State} {s : State} (c : Nat) (dw0 : Nat) (hK : Kept s₀ s) :
    Kept s₀ (State.endHeld s c dw0) := by
  unfold State.endHeld
  repeat' first
    | with_reducible assumption | with_reducible apply State.complete_kept | intro _ | with_reducible apply Kept.ite
    | split | dsimp only [id_eq] | simp only [Kept.mk] | (rename_i e; with_reducible refine Kept.of_eq e ?_)

theorem State.wakeHeld_kept {s₀ : State} {s : State} (n : Nat) (hK : Kept s₀ s) :
    Kept s₀ (State.wakeHeld s n) := by
  unfold State.wakeHeld
  repeat' first
    | with_reducible assumption | with_reducible apply State.endHeld_kept | intro _ | with_reducible apply Kept.ite
    | split | dsimp only [id_eq] | simp only [Kept.mk] | (rename_i e; with_reducible refine Kept.of_eq e ?_)

theorem State.toPending_kept {s₀ : State} {s : State} (n : Nat) (b : Nat) (hK : Kept s₀ s) :
    Kept s₀ (State.toPending s n b) := by
  unfold State.toPending
  repeat' first
    | with_reducible assumption | with_reducible apply State.wakeHeld_kept
    | with_reducible apply State.setBankSt_kept | intro _ | with_reducible apply Kept.ite | split
    | dsimp only [id_eq] | simp only [Kept.mk] | (rename_i e; with_reducible refine Kept.of_eq e ?_)

theorem State.fire_kept {s₀ : State} {s : State} (n : Nat) (b : Nat) (src : Option Nat) (hK : Kept s₀ s) :
    Kept s₀ (State.fire s n b src) := by
  unfold State.fire
  repeat' first
    | with_reducible assumption | with_reducible apply State.count_kept | with_reducible apply Kept.put
    | with_reducible apply State.toPending_kept | with_reducible apply State.setBankSt_kept | intro _
    | with_reducible apply Kept.ite | split | dsimp only [id_eq] | simp only [Kept.mk]
    | (rename_i e; with_reducible refine Kept.of_eq e ?_)

theorem State.claimBit_kept {s₀ : State} {s : State} (n : Nat) (b : Nat) (hK : Kept s₀ s) :
    Kept s₀ (State.claimBit s n b) := by
  unfold State.claimBit
  repeat' first
    | with_reducible assumption | with_reducible apply State.setBankSt_kept | intro _ | with_reducible apply Kept.ite
    | split | dsimp only [id_eq] | simp only [Kept.mk] | (rename_i e; with_reducible refine Kept.of_eq e ?_)

theorem State.doneBit_kept {s₀ : State} {s : State} (n : Nat) (b : Nat) (hK : Kept s₀ s) :
    Kept s₀ (State.doneBit s n b) := by
  unfold State.doneBit
  repeat' first
    | with_reducible assumption | with_reducible apply State.count_kept | with_reducible apply State.toPending_kept
    | with_reducible apply State.setBankSt_kept | intro _ | with_reducible apply Kept.ite | split
    | dsimp only [id_eq] | simp only [Kept.mk] | (rename_i e; with_reducible refine Kept.of_eq e ?_)

theorem State.claimMask_kept {s₀ : State} {s : State} (n : Nat) (from_ : Nat) (mask : Nat) (hK : Kept s₀ s) :
    Kept s₀ (State.claimMask s n from_ mask) := by
  unfold State.claimMask
  repeat' first
    | with_reducible assumption | with_reducible apply Kept.forAll | with_reducible apply State.claimBit_kept
    | intro _ | with_reducible apply Kept.ite | split | dsimp only [id_eq] | simp only [Kept.mk]
    | (rename_i e; with_reducible refine Kept.of_eq e ?_)

theorem State.doneMask_kept {s₀ : State} {s : State} (n : Nat) (from_ : Nat) (mask : Nat) (hK : Kept s₀ s) :
    Kept s₀ (State.doneMask s n from_ mask) := by
  unfold State.doneMask
  repeat' first
    | with_reducible assumption | with_reducible apply Kept.forAll | with_reducible apply State.doneBit_kept
    | intro _ | with_reducible apply Kept.ite | split | dsimp only [id_eq] | simp only [Kept.mk]
    | (rename_i e; with_reducible refine Kept.of_eq e ?_)

theorem State.clpClaim_kept {s₀ : State} {s : State} (sender : Nat) (bank : Nat) (hi : Bool) (v : Nat) (hK : Kept s₀ s) :
    Kept s₀ (State.clpClaim s sender bank hi v).1 := by
  unfold State.clpClaim
  repeat' first
    | with_reducible assumption | with_reducible apply State.claimMask_kept | intro _ | with_reducible apply Kept.ite
    | split | dsimp only [id_eq] | simp only [Kept.mk] | (rename_i e; with_reducible refine Kept.of_eq e ?_)

theorem State.clpDone_kept {s₀ : State} {s : State} (sender : Nat) (bank : Nat) (hi : Bool) (v : Nat) (hK : Kept s₀ s) :
    Kept s₀ (State.clpDone s sender bank hi v).1 := by
  unfold State.clpDone
  repeat' first
    | with_reducible assumption | with_reducible apply State.doneMask_kept | intro _ | with_reducible apply Kept.ite
    | split | dsimp only [id_eq] | simp only [Kept.mk] | (rename_i e; with_reducible refine Kept.of_eq e ?_)

theorem clpClaimWriteCmd_kept {s₀ : State} (sender : Fin 64) (bank : Fin 64) (hi : Bool) (v : BitVec 32) {s : State} (hK : Kept s₀ s) :
    Kept s₀ (clpClaimWriteCmd sender bank hi v s) := by
  unfold clpClaimWriteCmd
  repeat' first
    | with_reducible assumption | with_reducible apply State.clpClaim_kept | intro _ | with_reducible apply Kept.ite
    | split | dsimp only [id_eq] | simp only [Kept.mk] | (rename_i e; with_reducible refine Kept.of_eq e ?_)

theorem clpDoneWriteCmd_kept {s₀ : State} (sender : Fin 64) (bank : Fin 64) (hi : Bool) (v : BitVec 32) {s : State} (hK : Kept s₀ s) :
    Kept s₀ (clpDoneWriteCmd sender bank hi v s) := by
  unfold clpDoneWriteCmd
  repeat' first
    | with_reducible assumption | with_reducible apply State.clpDone_kept | intro _ | with_reducible apply Kept.ite
    | split | dsimp only [id_eq] | simp only [Kept.mk] | (rename_i e; with_reducible refine Kept.of_eq e ?_)

theorem sourceEdge_kept {s₀ : State} {s : State} (hK : Kept s₀ s) :
    Kept s₀ (sourceEdge s) := by
  unfold sourceEdge
  repeat' first
    | with_reducible assumption | with_reducible apply State.fire_kept | intro _ | with_reducible apply Kept.ite
    | split | dsimp only [id_eq] | simp only [Kept.mk] | (rename_i e; with_reducible refine Kept.of_eq e ?_)

theorem gpioInputChange_kept {s₀ : State} (pin : Fin 16) (level : Bool) {s : State} (hK : Kept s₀ s) :
    Kept s₀ (gpioInputChange pin level s) := by
  unfold gpioInputChange
  repeat' first
    | with_reducible assumption | with_reducible apply Kept.when | with_reducible apply State.setBit_kept
    | with_reducible apply State.edge_kept | intro _ | with_reducible apply Kept.ite | split | dsimp only [id_eq]
    | simp only [Kept.mk] | (rename_i e; with_reducible refine Kept.of_eq e ?_)

theorem State.softSource_kept {s₀ : State} {s : State} (i : Nat) (level : Bool) (hK : Kept s₀ s) :
    Kept s₀ (State.softSource s i level) := by
  unfold State.softSource
  repeat' first
    | with_reducible assumption | with_reducible apply Kept.when | with_reducible apply State.setBit_kept
    | with_reducible apply State.edge_kept | intro _ | with_reducible apply Kept.ite | split | dsimp only [id_eq]
    | simp only [Kept.mk] | (rename_i e; with_reducible refine Kept.of_eq e ?_)

theorem State.srcWrite_kept {s₀ : State} {s : State} (i : Nat) (agent : Nat) (bit : Nat) (en : Bool) (token : Bool) (hK : Kept s₀ s) :
    Kept s₀ (State.srcWrite s i agent bit en token).1 := by
  unfold State.srcWrite
  repeat' first
    | with_reducible assumption | with_reducible apply Kept.when | with_reducible apply State.puts_kept
    | with_reducible apply State.post_kept | intro _ | with_reducible apply Kept.ite | split | dsimp only [id_eq]
    | simp only [Kept.mk] | (rename_i e; with_reducible refine Kept.of_eq e ?_)

theorem State.clpSrcWrite_kept {s₀ : State} {s : State} (i : Nat) (v : Nat) (hw : Bool) (hK : Kept s₀ s) :
    Kept s₀ (State.clpSrcWrite s i v hw).1 := by
  unfold State.clpSrcWrite
  repeat' first
    | with_reducible assumption | with_reducible apply State.srcWrite_kept | with_reducible apply State.putB_kept
    | intro _ | with_reducible apply Kept.ite | split | dsimp only [id_eq] | simp only [Kept.mk]
    | (rename_i e; with_reducible refine Kept.of_eq e ?_)

theorem clpSrcWriteCmd_kept {s₀ : State} (src : Fin 512) (v : BitVec 32) (hw : Bool) {s : State} (hK : Kept s₀ s) :
    Kept s₀ (clpSrcWriteCmd src v hw s) := by
  unfold clpSrcWriteCmd
  repeat' first
    | with_reducible assumption | with_reducible apply State.clpSrcWrite_kept | intro _
    | with_reducible apply Kept.ite | split | dsimp only [id_eq] | simp only [Kept.mk]
    | (rename_i e; with_reducible refine Kept.of_eq e ?_)

theorem State.agentDown_kept {s₀ : State} {s : State} (n : Nat) (hK : Kept s₀ s) :
    Kept s₀ (State.agentDown s n) := by
  unfold State.agentDown
  repeat' first
    | with_reducible assumption | with_reducible apply Kept.when | with_reducible apply State.post_kept
    | with_reducible apply Kept.forAll | with_reducible apply State.puts_kept | intro _
    | with_reducible apply Kept.ite | split | dsimp only [id_eq] | simp only [Kept.mk]
    | (rename_i e; with_reducible refine Kept.of_eq e ?_)

theorem State.showMb_kept {s₀ : State} {s : State} (n : Nat) (hK : Kept s₀ s) :
    Kept s₀ (State.showMb s n) := by
  unfold State.showMb
  repeat' first
    | with_reducible assumption | with_reducible apply State.puts_kept | intro _ | with_reducible apply Kept.ite
    | split | dsimp only [id_eq] | simp only [Kept.mk] | (rename_i e; with_reducible refine Kept.of_eq e ?_)

theorem State.mbSettle_kept {s₀ : State} {s : State} (n : Nat) (hK : Kept s₀ s) :
    Kept s₀ (State.mbSettle s n) := by
  unfold State.mbSettle
  repeat' first
    | with_reducible assumption | with_reducible apply State.puts_kept | with_reducible apply State.showMb_kept
    | intro _ | with_reducible apply Kept.ite | split | dsimp only [id_eq] | simp only [Kept.mk]
    | (rename_i e; with_reducible refine Kept.of_eq e ?_)

theorem State.mbRelease_kept {s₀ : State} {s : State} (n : Nat) (hK : Kept s₀ s) :
    Kept s₀ (State.mbRelease s n) := by
  unfold State.mbRelease
  repeat' first
    | with_reducible assumption | with_reducible apply Kept.when | with_reducible apply State.post_kept
    | with_reducible apply State.mbSettle_kept | with_reducible apply Kept.put
    | with_reducible apply State.agentDown_kept | intro _ | with_reducible apply Kept.ite | split
    | dsimp only [id_eq] | simp only [Kept.mk] | (rename_i e; with_reducible refine Kept.of_eq e ?_)

theorem mctpEidReassign_kept {s₀ : State} (eid : BitVec 16) {s : State} (hK : Kept s₀ s) :
    Kept s₀ (mctpEidReassign eid s) := by
  unfold mctpEidReassign
  repeat' first
    | with_reducible assumption | with_reducible apply State.mbRelease_kept | with_reducible apply Kept.put | intro _
    | with_reducible apply Kept.ite | split | dsimp only [id_eq] | simp only [Kept.mk]
    | (rename_i e; with_reducible refine Kept.of_eq e ?_)

theorem State.accept_kept {s₀ : State} {s : State} (mb : Option Nat) (lim : Nat) (rlim : Nat) (b : List Byte) (hK : Kept s₀ s) :
    Kept s₀ (State.accept s mb lim rlim b).1 := by
  unfold State.accept
  repeat' first
    | with_reducible assumption | with_reducible apply State.count_kept | with_reducible apply State.showMb_kept
    | intro _ | with_reducible apply Kept.ite | split | dsimp only [id_eq] | simp only [Kept.mk]
    | (rename_i e; with_reducible refine Kept.of_eq e ?_)

theorem casgusSend_kept {s₀ : State} (id : CmdId) (raw : List Byte) {s : State} (hK : Kept s₀ s) :
    Kept s₀ (casgusSend id raw s) := by
  unfold casgusSend
  repeat' first
    | with_reducible assumption | with_reducible apply State.admin_kept | with_reducible apply State.accept_kept
    | with_reducible apply State.showMb_kept | with_reducible apply State.puts_kept
    | with_reducible apply State.complete_kept | intro _ | with_reducible apply Kept.ite | split | dsimp only [id_eq]
    | simp only [Kept.mk] | (rename_i e; with_reducible refine Kept.of_eq e ?_)

theorem nvmeMiRequest_kept {s₀ : State} (raw : List Byte) {s : State} (hK : Kept s₀ s) :
    Kept s₀ (nvmeMiRequest raw s) := by
  unfold nvmeMiRequest
  repeat' first
    | with_reducible assumption | with_reducible apply State.accept_kept | intro _ | with_reducible apply Kept.ite
    | split | dsimp only [id_eq] | simp only [Kept.mk] | (rename_i e; with_reducible refine Kept.of_eq e ?_)

theorem State.dropReq_kept {s₀ : State} {s : State} (r : Req) (hK : Kept s₀ s) :
    Kept s₀ (State.dropReq s r) := by
  unfold State.dropReq
  repeat' first
    | with_reducible assumption | with_reducible apply State.mbSettle_kept | intro _ | with_reducible apply Kept.ite
    | split | dsimp only [id_eq] | simp only [Kept.mk] | (rename_i e; with_reducible refine Kept.of_eq e ?_)

theorem State.takeReady_kept {s₀ s : State} (n len : Nat) (h : Kept s₀ s) {x : State × Nat × List Byte}
    (e : State.takeReady s n len = some x) : Kept s₀ x.1 := by
  unfold State.takeReady at e
  split at e
  · cases e
  · dsimp only at e
    split at e
    · cases e; exact State.dropReq_kept _ h
    · cases e; exact h

theorem State.takeFor_kept {s₀ s : State} (cntlid len : Nat) (h : Kept s₀ s) {x : State × Nat × List Byte}
    (e : State.takeFor s cntlid len = some x) : Kept s₀ x.1 := by
  unfold State.takeFor at e
  split at e
  · exact State.takeReady_kept _ _ h e
  · cases e

theorem casgusReceive_kept {s₀ : State} (id : CmdId) (len : BitVec 32) (wait : Bool) (limit : BitVec 32) {s : State} (hK : Kept s₀ s) :
    Kept s₀ (casgusReceive id len wait limit s) := by
  unfold casgusReceive
  repeat' first
    | with_reducible assumption | with_reducible apply State.admin_kept | with_reducible apply State.answer_kept
    | with_reducible apply State.endHeld_kept | (rename_i heq; with_reducible refine State.takeFor_kept _ _ ?_ heq)
    | with_reducible apply State.complete_kept | with_reducible apply State.unflight_kept | intro _
    | with_reducible apply Kept.ite | split | dsimp only [id_eq] | simp only [Kept.mk]
    | (rename_i e; with_reducible refine Kept.of_eq e ?_)

theorem receiveWaitExpiry_kept {s₀ : State} (id : CmdId) {s : State} (hK : Kept s₀ s) :
    Kept s₀ (receiveWaitExpiry id s) := by
  unfold receiveWaitExpiry
  repeat' first
    | with_reducible assumption | with_reducible apply State.endHeld_kept | intro _ | with_reducible apply Kept.ite
    | split | dsimp only [id_eq] | simp only [Kept.mk] | (rename_i e; with_reducible refine Kept.of_eq e ?_)

theorem nvmeMiReceive_kept {s₀ : State} (len : BitVec 32) {s : State} (hK : Kept s₀ s) :
    Kept s₀ (nvmeMiReceive len s) := by
  unfold nvmeMiReceive
  repeat' first
    | with_reducible assumption | (rename_i heq; with_reducible refine State.takeReady_kept _ _ ?_ heq) | intro _
    | with_reducible apply Kept.ite | split | dsimp only [id_eq] | simp only [Kept.mk]
    | (rename_i e; with_reducible refine Kept.of_eq e ?_)

theorem State.sdsPlace_kept {s₀ : State} {s : State} (b : List Byte) (hK : Kept s₀ s) :
    Kept s₀ (State.sdsPlace s b) := by
  unfold State.sdsPlace
  repeat' first
    | with_reducible assumption | with_reducible apply State.puts_kept | with_reducible apply State.putWin_kept
    | intro _ | with_reducible apply Kept.ite | split | dsimp only [id_eq] | simp only [Kept.mk]
    | (rename_i e; with_reducible refine Kept.of_eq e ?_)

theorem requestComplete_kept {s₀ : State} (rq : ReqId) {s : State} (hK : Kept s₀ s) :
    Kept s₀ (requestComplete rq s) := by
  unfold requestComplete
  repeat' first
    | with_reducible assumption | with_reducible apply State.dropReq_kept | with_reducible apply State.showMb_kept
    | with_reducible apply Kept.when | with_reducible apply State.sdsPlace_kept
    | (rename_i heq; with_reducible refine State.takeReady_kept _ _ ?_ heq)
    | with_reducible apply State.complete_kept | with_reducible apply State.fire_kept | intro _
    | with_reducible apply Kept.ite | split | dsimp only [id_eq] | simp only [Kept.mk]
    | (rename_i e; with_reducible refine Kept.of_eq e ?_)

theorem State.judge_kept {s₀ : State} {s : State} (r : Req) (hK : Kept s₀ s) :
    Kept s₀ (State.judge s r).1 := by
  unfold State.judge
  repeat' first
    | with_reducible assumption | intro _ | with_reducible apply Kept.ite | split | dsimp only [id_eq]
    | simp only [Kept.mk] | (rename_i e; with_reducible refine Kept.of_eq e ?_)

theorem State.updReq_kept {s₀ : State} {s : State} (no : Nat) (f : Req → Req) (hK : Kept s₀ s) :
    Kept s₀ (State.updReq s no f) := by
  unfold State.updReq
  repeat' first
    | with_reducible assumption | intro _ | with_reducible apply Kept.ite | split | dsimp only [id_eq]
    | simp only [Kept.mk] | (rename_i e; with_reducible refine Kept.of_eq e ?_)

theorem State.respond_kept {s₀ : State} {s : State} (no : Nat) (x : Rsp) (hK : Kept s₀ s) :
    Kept s₀ (State.respond s no x) := by
  unfold State.respond
  repeat' first
    | with_reducible assumption | with_reducible apply State.updReq_kept | intro _ | with_reducible apply Kept.ite
    | split | dsimp only [id_eq] | simp only [Kept.mk] | (rename_i e; with_reducible refine Kept.of_eq e ?_)

theorem requestStart_kept {s₀ : State} (rq : ReqId) {s : State} (hK : Kept s₀ s) :
    Kept s₀ (requestStart rq s) := by
  unfold requestStart
  repeat' first
    | with_reducible assumption | with_reducible apply State.updReq_kept | with_reducible apply State.judge_kept
    | with_reducible apply State.respond_kept | with_reducible apply State.post_kept
    | with_reducible apply State.count_kept | with_reducible apply Kept.when | intro _
    | with_reducible apply Kept.ite | split | dsimp only [id_eq] | simp only [Kept.mk]
    | (rename_i e; with_reducible refine Kept.of_eq e ?_)

theorem requestTimeout_kept {s₀ : State} (rq : ReqId) {s : State} (hK : Kept s₀ s) :
    Kept s₀ (requestTimeout rq s) := by
  unfold requestTimeout
  repeat' first
    | with_reducible assumption | with_reducible apply State.respond_kept | with_reducible apply State.updReq_kept
    | intro _ | with_reducible apply Kept.ite | split | dsimp only [id_eq] | simp only [Kept.mk]
    | (rename_i e; with_reducible refine Kept.of_eq e ?_)

theorem State.serve_kept {s₀ : State} {s : State} (rq : ReqId) (op : Nat) (f : Req → List Byte → State → State × Rsp) (hK : Kept s₀ s) (hK_f : ∀ x0 x1 u, Kept s₀ u → Kept s₀ (f x0 x1 u).1) :
    Kept s₀ (State.serve s rq op f) := by
  unfold State.serve
  repeat' first
    | with_reducible assumption | with_reducible apply State.respond_kept | with_reducible apply hK_f | intro _
    | with_reducible apply Kept.ite | split | dsimp only [id_eq] | simp only [Kept.mk]
    | (rename_i e; with_reducible refine Kept.of_eq e ?_)

theorem execCasgusSend_kept (id : CmdId) (raw : List Byte) {s t : State} (h : execCasgusSend id raw s = .next t) : Kept s t := by
  have h := Host.Outcome.next.inj h; subst h; exact casgusSend_kept _ _ (Kept.refl s)

theorem execCasgusReceive_kept (id : CmdId) (len : BitVec 32) (wait : Bool) (limit : BitVec 32) {s t : State} (h : execCasgusReceive id len wait limit s = .next t) : Kept s t := by
  have h := Host.Outcome.next.inj h; subst h; exact casgusReceive_kept _ _ _ _ (Kept.refl s)

theorem execReceiveWaitExpiry_kept (id : CmdId) {s t : State} (h : execReceiveWaitExpiry id s = .next t) : Kept s t := by
  have h := Host.Outcome.next.inj h; subst h; exact receiveWaitExpiry_kept _ (Kept.refl s)

theorem execNvmeMiRequest_kept (raw : List Byte) {s t : State} (h : execNvmeMiRequest raw s = .next t) : Kept s t := by
  have h := Host.Outcome.next.inj h; subst h; exact nvmeMiRequest_kept _ (Kept.refl s)

theorem execNvmeMiReceive_kept (len : BitVec 32) {s t : State} (h : execNvmeMiReceive len s = .next t) : Kept s t := by
  have h := Host.Outcome.next.inj h; subst h; exact nvmeMiReceive_kept _ (Kept.refl s)

theorem execMctpEidReassign_kept (eid : BitVec 16) {s t : State} (h : execMctpEidReassign eid s = .next t) : Kept s t := by
  have h := Host.Outcome.next.inj h; subst h; exact mctpEidReassign_kept _ (Kept.refl s)

theorem execRequestStart_kept (rq : ReqId) {s t : State} (h : execRequestStart rq s = .next t) : Kept s t := by
  have h := Host.Outcome.next.inj h; subst h; exact requestStart_kept _ (Kept.refl s)

theorem execRequestTimeout_kept (rq : ReqId) {s t : State} (h : execRequestTimeout rq s = .next t) : Kept s t := by
  have h := Host.Outcome.next.inj h; subst h; exact requestTimeout_kept _ (Kept.refl s)

theorem execSourceEdge_kept {s t : State} (h : execSourceEdge s = .next t) : Kept s t := by
  have h := Host.Outcome.next.inj h; subst h; exact sourceEdge_kept  (Kept.refl s)

theorem execGpioInputChange_kept (pin : Fin 16) (level : Bool) {s t : State} (h : execGpioInputChange pin level s = .next t) : Kept s t := by
  have h := Host.Outcome.next.inj h; subst h; exact gpioInputChange_kept _ _ (Kept.refl s)

theorem execClpClaimWrite_kept (sender : Fin 64) (bank : Fin 64) (hi : Bool) (v : BitVec 32) {s t : State} (h : execClpClaimWrite sender bank hi v s = .next t) : Kept s t := by
  have h := Host.Outcome.next.inj h; subst h; exact clpClaimWriteCmd_kept _ _ _ _ (Kept.refl s)

theorem execClpDoneWrite_kept (sender : Fin 64) (bank : Fin 64) (hi : Bool) (v : BitVec 32) {s t : State} (h : execClpDoneWrite sender bank hi v s = .next t) : Kept s t := by
  have h := Host.Outcome.next.inj h; subst h; exact clpDoneWriteCmd_kept _ _ _ _ (Kept.refl s)

theorem execClpSrcWrite_kept (src : Fin 512) (v : BitVec 32) (hw : Bool) {s t : State} (h : execClpSrcWrite src v hw s = .next t) : Kept s t := by
  have h := Host.Outcome.next.inj h; subst h; exact clpSrcWriteCmd_kept _ _ _ (Kept.refl s)

end Sys2Proof.Machine
end

