-- ==== Sys2Proof/Laws/KeptMemory.lean ====
section
/-!
SUPPORT. Every operation of `Machine/Memory.lean` keeps what `Kept` names.
-/

namespace Sys2Proof.Machine

set_option Elab.async false
set_option linter.unusedTactic false
set_option linter.unreachableTactic false
set_option linter.unusedVariables false

theorem State.rateCheck_kept {s₀ : State} {s : State} (psl : Bool) (hK : Kept s₀ s) :
    Kept s₀ (State.rateCheck s psl) := by
  unfold State.rateCheck
  repeat' first
    | with_reducible assumption | with_reducible apply State.puts_kept | intro _ | with_reducible apply Kept.ite
    | split | dsimp only [id_eq] | simp only [Kept.mk] | (rename_i e; with_reducible refine Kept.of_eq e ?_)

theorem State.setRate_kept {s₀ : State} {s : State} (rate : Nat) (hK : Kept s₀ s) :
    Kept s₀ (State.setRate s rate) := by
  unfold State.setRate
  repeat' first
    | with_reducible assumption | with_reducible apply State.rateCheck_kept | with_reducible apply State.puts_kept
    | intro _ | with_reducible apply Kept.ite | split | dsimp only [id_eq] | simp only [Kept.mk]
    | (rename_i e; with_reducible refine Kept.of_eq e ?_)

theorem hbmRateWriteCmd_kept {s₀ : State} (rate : Fin 4) {s : State} (hK : Kept s₀ s) :
    Kept s₀ (hbmRateWriteCmd rate s) := by
  unfold hbmRateWriteCmd
  repeat' first
    | with_reducible assumption | with_reducible apply State.setRate_kept | intro _ | with_reducible apply Kept.ite
    | split | dsimp only [id_eq] | simp only [Kept.mk] | (rename_i e; with_reducible refine Kept.of_eq e ?_)

theorem hbmRateSwitchDone_kept {s₀ : State} {s : State} (hK : Kept s₀ s) :
    Kept s₀ (hbmRateSwitchDone s) := by
  unfold hbmRateSwitchDone
  repeat' first
    | with_reducible assumption | with_reducible apply State.puts_kept | with_reducible apply State.rateCheck_kept
    | with_reducible apply State.post_kept | with_reducible apply State.evt_kept | intro _
    | with_reducible apply Kept.ite | split | dsimp only [id_eq] | simp only [Kept.mk]
    | (rename_i e; with_reducible refine Kept.of_eq e ?_)

theorem hbmTrainingDone_kept {s₀ : State} (k : Fin 2) (ok : Bool) (channel : BitVec 8) {s : State} (hK : Kept s₀ s) :
    Kept s₀ (hbmTrainingDone k ok channel s) := by
  unfold hbmTrainingDone
  repeat' first
    | with_reducible assumption | with_reducible apply State.puts_kept | with_reducible apply Kept.when
    | with_reducible apply Kept.put | with_reducible apply State.count_kept | with_reducible apply State.bump_kept
    | with_reducible apply State.post_kept | with_reducible apply State.evt_kept | intro _
    | with_reducible apply Kept.ite | split | dsimp only [id_eq] | simp only [Kept.mk]
    | (rename_i e; with_reducible refine Kept.of_eq e ?_)

theorem hbmCorrectedError_kept {s₀ : State} (k : Fin 2) {s : State} (hK : Kept s₀ s) :
    Kept s₀ (hbmCorrectedError k s) := by
  unfold hbmCorrectedError
  repeat' first
    | with_reducible assumption | with_reducible apply State.count_kept | with_reducible apply State.evt_kept
    | intro _ | with_reducible apply Kept.ite | split | dsimp only [id_eq] | simp only [Kept.mk]
    | (rename_i e; with_reducible refine Kept.of_eq e ?_)

theorem hbmPatrolScrub_kept {s₀ : State} (k : Fin 2) (corrected : Bool) {s : State} (hK : Kept s₀ s) :
    Kept s₀ (hbmPatrolScrub k corrected s) := by
  unfold hbmPatrolScrub
  repeat' first
    | with_reducible assumption | with_reducible apply Kept.when | with_reducible apply State.count_kept
    | with_reducible apply State.evt_kept | with_reducible apply State.bump_kept
    | with_reducible apply State.puts_kept | with_reducible apply State.post_kept | intro _
    | with_reducible apply Kept.ite | split | dsimp only [id_eq] | simp only [Kept.mk]
    | (rename_i e; with_reducible refine Kept.of_eq e ?_)

theorem selfRefreshExit_kept {s₀ : State} {s : State} (hK : Kept s₀ s) :
    Kept s₀ (selfRefreshExit s) := by
  unfold selfRefreshExit
  repeat' first
    | with_reducible assumption | with_reducible apply State.srefOff_kept | intro _ | with_reducible apply Kept.ite
    | split | dsimp only [id_eq] | simp only [Kept.mk] | (rename_i e; with_reducible refine Kept.of_eq e ?_)

theorem State.pktRange_kept {s₀ : State} {s : State} (op : Nat) (hK : Kept s₀ s) :
    Kept s₀ (State.pktRange s op).1 := by
  unfold State.pktRange
  repeat' first
    | with_reducible assumption | with_reducible apply Kept.put | with_reducible apply State.evt_kept
    | with_reducible apply Kept.forAll | with_reducible apply State.setLine_kept
    | with_reducible apply State.writeBack_kept | with_reducible apply State.showPkt_kept | intro _
    | with_reducible apply Kept.ite | split | dsimp only [id_eq] | simp only [Kept.mk]
    | (rename_i e; with_reducible refine Kept.of_eq e ?_)

theorem pktInvalidate_kept {s₀ : State} {s : State} (hK : Kept s₀ s) :
    Kept s₀ (pktInvalidate s) := by
  unfold pktInvalidate
  repeat' first
    | with_reducible assumption | with_reducible apply State.pktRange_kept | intro _ | with_reducible apply Kept.ite
    | split | dsimp only [id_eq] | simp only [Kept.mk] | (rename_i e; with_reducible refine Kept.of_eq e ?_)

theorem pktClean_kept {s₀ : State} {s : State} (hK : Kept s₀ s) :
    Kept s₀ (pktClean s) := by
  unfold pktClean
  repeat' first
    | with_reducible assumption | with_reducible apply State.pktRange_kept | intro _ | with_reducible apply Kept.ite
    | split | dsimp only [id_eq] | simp only [Kept.mk] | (rename_i e; with_reducible refine Kept.of_eq e ?_)

theorem pktCleanInvalidate_kept {s₀ : State} {s : State} (hK : Kept s₀ s) :
    Kept s₀ (pktCleanInvalidate s) := by
  unfold pktCleanInvalidate
  repeat' first
    | with_reducible assumption | with_reducible apply State.pktRange_kept | intro _ | with_reducible apply Kept.ite
    | split | dsimp only [id_eq] | simp only [Kept.mk] | (rename_i e; with_reducible refine Kept.of_eq e ?_)

theorem State.pktEnable_kept {s₀ : State} {s : State} (hK : Kept s₀ s) :
    Kept s₀ (State.pktEnable s).1 := by
  unfold State.pktEnable
  repeat' first
    | with_reducible assumption | with_reducible apply State.enable_kept | with_reducible apply State.showPkt_kept
    | intro _ | with_reducible apply Kept.ite | split | dsimp only [id_eq] | simp only [Kept.mk]
    | (rename_i e; with_reducible refine Kept.of_eq e ?_)

theorem pktEnableCmd_kept {s₀ : State} {s : State} (hK : Kept s₀ s) :
    Kept s₀ (pktEnableCmd s) := by
  unfold pktEnableCmd
  repeat' first
    | with_reducible assumption | with_reducible apply State.pktEnable_kept | intro _ | with_reducible apply Kept.ite
    | split | dsimp only [id_eq] | simp only [Kept.mk] | (rename_i e; with_reducible refine Kept.of_eq e ?_)

theorem State.pktDisable_kept {s₀ : State} {s : State} (hK : Kept s₀ s) :
    Kept s₀ (State.pktDisable s) := by
  unfold State.pktDisable
  repeat' first
    | with_reducible assumption | with_reducible apply State.puts_kept | intro _ | with_reducible apply Kept.ite
    | split | dsimp only [id_eq] | simp only [Kept.mk] | (rename_i e; with_reducible refine Kept.of_eq e ?_)

theorem pktDisableCmd_kept {s₀ : State} {s : State} (hK : Kept s₀ s) :
    Kept s₀ (pktDisableCmd s) := by
  unfold pktDisableCmd
  repeat' first
    | with_reducible assumption | with_reducible apply State.pktDisable_kept | intro _
    | with_reducible apply Kept.ite | split | dsimp only [id_eq] | simp only [Kept.mk]
    | (rename_i e; with_reducible refine Kept.of_eq e ?_)

theorem State.cleanAll_kept {s₀ : State} {s : State} (hK : Kept s₀ s) :
    Kept s₀ (State.cleanAll s) := by
  unfold State.cleanAll
  repeat' first
    | with_reducible assumption | with_reducible apply State.showPkt_kept | with_reducible apply Kept.forAll
    | with_reducible apply State.writeBack_kept | intro _ | with_reducible apply Kept.ite | split
    | dsimp only [id_eq] | simp only [Kept.mk] | (rename_i e; with_reducible refine Kept.of_eq e ?_)

theorem pktCleanDone_kept {s₀ : State} (duration : BitVec 32) {s : State} (hK : Kept s₀ s) :
    Kept s₀ (pktCleanDone duration s) := by
  unfold pktCleanDone
  repeat' first
    | with_reducible assumption | with_reducible apply State.showPkt_kept | with_reducible apply State.cleanAll_kept
    | with_reducible apply State.post_kept | with_reducible apply State.evt_kept
    | with_reducible apply State.puts_kept | intro _ | with_reducible apply Kept.ite | split | dsimp only [id_eq]
    | simp only [Kept.mk] | (rename_i e; with_reducible refine Kept.of_eq e ?_)

theorem pktRangeDone_kept {s₀ : State} {s : State} (hK : Kept s₀ s) :
    Kept s₀ (pktRangeDone s) := by
  unfold pktRangeDone
  repeat' first
    | with_reducible assumption | with_reducible apply State.evt_kept | with_reducible apply Kept.put | intro _
    | with_reducible apply Kept.ite | split | dsimp only [id_eq] | simp only [Kept.mk]
    | (rename_i e; with_reducible refine Kept.of_eq e ?_)

theorem pktLfsrSeed_kept {s₀ : State} (v : BitVec 32) {s : State} (hK : Kept s₀ s) :
    Kept s₀ (pktLfsrSeed v s) := by
  unfold pktLfsrSeed
  repeat' first
    | with_reducible assumption | with_reducible apply Kept.put | intro _ | with_reducible apply Kept.ite | split
    | dsimp only [id_eq] | simp only [Kept.mk] | (rename_i e; with_reducible refine Kept.of_eq e ?_)

theorem pocketUncorrectable_kept {s₀ : State} (set : Fin 32768) (way : Fin 16) {s : State} (hK : Kept s₀ s) :
    Kept s₀ (pocketUncorrectable set way s) := by
  unfold pocketUncorrectable
  repeat' first
    | with_reducible assumption | with_reducible apply State.post_kept | with_reducible apply State.count_kept
    | with_reducible apply State.evt_kept | with_reducible apply State.setLine_kept
    | with_reducible apply State.writeBack_kept | with_reducible apply State.showPkt_kept | intro _
    | with_reducible apply Kept.ite | split | dsimp only [id_eq] | simp only [Kept.mk]
    | (rename_i e; with_reducible refine Kept.of_eq e ?_)

theorem execHbmTrainingDone_kept (k : Fin 2) (ok : Bool) (channel : BitVec 8) {s t : State} (h : execHbmTrainingDone k ok channel s = .next t) : Kept s t := by
  have h := Host.Outcome.next.inj h; subst h; exact hbmTrainingDone_kept _ _ _ (Kept.refl s)

theorem execHbmRateWrite_kept (rate : Fin 4) {s t : State} (h : execHbmRateWrite rate s = .next t) : Kept s t := by
  have h := Host.Outcome.next.inj h; subst h; exact hbmRateWriteCmd_kept _ (Kept.refl s)

theorem execHbmRateSwitchDone_kept {s t : State} (h : execHbmRateSwitchDone s = .next t) : Kept s t := by
  have h := Host.Outcome.next.inj h; subst h; exact hbmRateSwitchDone_kept  (Kept.refl s)

theorem execHbmCorrectedError_kept (k : Fin 2) {s t : State} (h : execHbmCorrectedError k s = .next t) : Kept s t := by
  have h := Host.Outcome.next.inj h; subst h; exact hbmCorrectedError_kept _ (Kept.refl s)

theorem execHbmPatrolScrub_kept (k : Fin 2) (corrected : Bool) {s t : State} (h : execHbmPatrolScrub k corrected s = .next t) : Kept s t := by
  have h := Host.Outcome.next.inj h; subst h; exact hbmPatrolScrub_kept _ _ (Kept.refl s)

theorem execSelfRefreshExit_kept {s t : State} (h : execSelfRefreshExit s = .next t) : Kept s t := by
  have h := Host.Outcome.next.inj h; subst h; exact selfRefreshExit_kept  (Kept.refl s)

theorem execPocketUncorrectable_kept (set : Fin 32768) (way : Fin 16) {s t : State} (h : execPocketUncorrectable set way s = .next t) : Kept s t := by
  have h := Host.Outcome.next.inj h; subst h; exact pocketUncorrectable_kept _ _ (Kept.refl s)

theorem execPktEnable_kept {s t : State} (h : execPktEnable s = .next t) : Kept s t := by
  have h := Host.Outcome.next.inj h; subst h; exact pktEnableCmd_kept  (Kept.refl s)

theorem execPktDisable_kept {s t : State} (h : execPktDisable s = .next t) : Kept s t := by
  have h := Host.Outcome.next.inj h; subst h; exact pktDisableCmd_kept  (Kept.refl s)

theorem execPktCleanDone_kept (duration : BitVec 32) {s t : State} (h : execPktCleanDone duration s = .next t) : Kept s t := by
  have h := Host.Outcome.next.inj h; subst h; exact pktCleanDone_kept _ (Kept.refl s)

theorem execPktInvalidate_kept {s t : State} (h : execPktInvalidate s = .next t) : Kept s t := by
  have h := Host.Outcome.next.inj h; subst h; exact pktInvalidate_kept  (Kept.refl s)

theorem execPktClean_kept {s t : State} (h : execPktClean s = .next t) : Kept s t := by
  have h := Host.Outcome.next.inj h; subst h; exact pktClean_kept  (Kept.refl s)

theorem execPktCleanInvalidate_kept {s t : State} (h : execPktCleanInvalidate s = .next t) : Kept s t := by
  have h := Host.Outcome.next.inj h; subst h; exact pktCleanInvalidate_kept  (Kept.refl s)

theorem execPktRangeDone_kept {s t : State} (h : execPktRangeDone s = .next t) : Kept s t := by
  have h := Host.Outcome.next.inj h; subst h; exact pktRangeDone_kept  (Kept.refl s)

theorem execPktLfsrSeed_kept (v : BitVec 32) {s t : State} (h : execPktLfsrSeed v s = .next t) : Kept s t := by
  have h := Host.Outcome.next.inj h; subst h; exact pktLfsrSeed_kept _ (Kept.refl s)

end Sys2Proof.Machine
end

