-- ==== Sys2Proof/Laws/KeptCommand.lean ====
section
/-!
SUPPORT. Every operation of `Machine/Command.lean` keeps what `Kept` names.
-/

namespace Sys2Proof.Machine

set_option Elab.async false
set_option linter.unusedTactic false
set_option linter.unreachableTactic false
set_option linter.unusedVariables false

theorem State.connectReply_kept {s₀ : State} {s : State} (qid : Nat) (cid : Nat) (st : Stat) (dw0 : Nat) (hK : Kept s₀ s) :
    Kept s₀ (State.connectReply s qid cid st dw0) := by
  unfold State.connectReply
  repeat' first
    | with_reducible assumption | intro _ | with_reducible apply Kept.ite | split | dsimp only [id_eq]
    | simp only [Kept.mk] | (rename_i e; with_reducible refine Kept.of_eq e ?_)

theorem connect_kept {s₀ : State} (cid : BitVec 16) (qid : BitVec 16) (cntlid : BitVec 16) (entries : Nat) (noFlow : Bool) (kato : BitVec 32) (hostId : BitVec 128) (hostNqn : List Byte) (member : Bool) (conn : ConnData) {s : State} (hK : Kept s₀ s) :
    Kept s₀ (connect cid qid cntlid entries noFlow kato hostId hostNqn member conn s) := by
  unfold connect
  repeat' first
    | with_reducible assumption | with_reducible apply State.connectReply_kept
    | with_reducible apply State.setCtrl_kept | intro _ | with_reducible apply Kept.ite | split | dsimp only [id_eq]
    | simp only [Kept.mk] | (rename_i e; with_reducible refine Kept.of_eq e ?_)

theorem State.endTest_kept {s₀ : State} {s : State} (code : Nat) (hK : Kept s₀ s) :
    Kept s₀ (State.endTest s code) := by
  unfold State.endTest
  repeat' first
    | with_reducible assumption | intro _ | with_reducible apply Kept.ite | split | dsimp only [id_eq]
    | simp only [Kept.mk] | (rename_i e; with_reducible refine Kept.of_eq e ?_)

theorem State.tearDown_kept {s₀ : State} {s : State} (c : Nat) (hK : Kept s₀ s) :
    Kept s₀ (State.tearDown s c).1 := by
  unfold State.tearDown
  repeat' first
    | with_reducible assumption | with_reducible apply State.showCmds_kept
    | with_reducible apply State.drainDeletes_kept | with_reducible apply State.setCtrl_kept
    | with_reducible apply State.mbRelease_kept | with_reducible apply State.budgetChanged_kept | intro _
    | with_reducible apply Kept.ite | split | dsimp only [id_eq] | simp only [Kept.mk]
    | (rename_i e; with_reducible refine Kept.of_eq e ?_)

theorem disconnect_kept {s₀ : State} (c : BitVec 16) {s : State} (hK : Kept s₀ s) :
    Kept s₀ (disconnect c s) := by
  unfold disconnect
  repeat' first
    | with_reducible assumption | with_reducible apply State.tearDown_kept | intro _ | with_reducible apply Kept.ite
    | split | dsimp only [id_eq] | simp only [Kept.mk] | (rename_i e; with_reducible refine Kept.of_eq e ?_)

theorem controllerReset_kept {s₀ : State} (c : BitVec 16) {s : State} (hK : Kept s₀ s) :
    Kept s₀ (controllerReset c s) := by
  unfold controllerReset
  repeat' first
    | with_reducible assumption | with_reducible apply State.endTest_kept | with_reducible apply State.tearDown_kept
    | intro _ | with_reducible apply Kept.ite | split | dsimp only [id_eq] | simp only [Kept.mk]
    | (rename_i e; with_reducible refine Kept.of_eq e ?_)

theorem katoExpiry_kept {s₀ : State} (c : BitVec 16) {s : State} (hK : Kept s₀ s) :
    Kept s₀ (katoExpiry c s) := by
  unfold katoExpiry
  repeat' first
    | with_reducible assumption | with_reducible apply State.tearDown_kept | with_reducible apply State.post_kept
    | with_reducible apply State.evt_kept | with_reducible apply State.count_kept | intro _
    | with_reducible apply Kept.ite | split | dsimp only [id_eq] | simp only [Kept.mk]
    | (rename_i e; with_reducible refine Kept.of_eq e ?_)

theorem keepAlive_kept {s₀ : State} (id : CmdId) {s : State} (hK : Kept s₀ s) :
    Kept s₀ (keepAlive id s) := by
  unfold keepAlive
  repeat' first
    | with_reducible assumption | with_reducible apply State.admin_kept | with_reducible apply State.answer_kept
    | intro _ | with_reducible apply Kept.ite | split | dsimp only [id_eq] | simp only [Kept.mk]
    | (rename_i e; with_reducible refine Kept.of_eq e ?_)

theorem State.withCtrl_kept {s₀ : State} {s : State} (id : CmdId) (f : Ctrl → Ctrl) (hK : Kept s₀ s) :
    Kept s₀ (State.withCtrl s id f) := by
  unfold State.withCtrl
  repeat' first
    | with_reducible assumption | with_reducible apply State.answer_kept | with_reducible apply State.setCtrl_kept
    | intro _ | with_reducible apply Kept.ite | split | dsimp only [id_eq] | simp only [Kept.mk]
    | (rename_i e; with_reducible refine Kept.of_eq e ?_)

theorem nvmeIdentify_kept {s₀ : State} (id : CmdId) (cns : BitVec 8) (csi : BitVec 8) (nsid : BitVec 32) {s : State} (hK : Kept s₀ s) :
    Kept s₀ (nvmeIdentify id cns csi nsid s) := by
  unfold nvmeIdentify
  repeat' first
    | with_reducible assumption | with_reducible apply State.admin_kept | with_reducible apply State.complete_kept
    | with_reducible apply State.answer_kept | intro _ | with_reducible apply Kept.ite | split | dsimp only [id_eq]
    | simp only [Kept.mk] | (rename_i e; with_reducible refine Kept.of_eq e ?_)

theorem getLogPage_kept {s₀ : State} (id : CmdId) (lid : BitVec 8) (nsid : BitVec 32) {s : State} (hK : Kept s₀ s) :
    Kept s₀ (getLogPage id lid nsid s) := by
  unfold getLogPage
  repeat' first
    | with_reducible assumption | with_reducible apply State.admin_kept | with_reducible apply State.complete_kept
    | with_reducible apply State.setCtrl_kept | with_reducible apply State.answer_kept | intro _
    | with_reducible apply Kept.ite | split | dsimp only [id_eq] | simp only [Kept.mk]
    | (rename_i e; with_reducible refine Kept.of_eq e ?_)

theorem getFeatures_kept {s₀ : State} (id : CmdId) (fid : BitVec 8) (nsid : BitVec 32) (dw11 : BitVec 32) {s : State} (hK : Kept s₀ s) :
    Kept s₀ (getFeatures id fid nsid dw11 s) := by
  unfold getFeatures
  repeat' first
    | with_reducible assumption | with_reducible apply State.admin_kept | with_reducible apply State.complete_kept
    | with_reducible apply State.answer_kept | intro _ | with_reducible apply Kept.ite | split | dsimp only [id_eq]
    | simp only [Kept.mk] | (rename_i e; with_reducible refine Kept.of_eq e ?_)

theorem arbitration_kept {s₀ : State} (id : CmdId) (ab : BitVec 3) {s : State} (hK : Kept s₀ s) :
    Kept s₀ (arbitration id ab s) := by
  unfold arbitration
  repeat' first
    | with_reducible assumption | with_reducible apply State.admin_kept | with_reducible apply State.answer_kept
    | intro _ | with_reducible apply Kept.ite | split | dsimp only [id_eq] | simp only [Kept.mk]
    | (rename_i e; with_reducible refine Kept.of_eq e ?_)

theorem powerManagement_kept {s₀ : State} (id : CmdId) (ps : BitVec 5) {s : State} (hK : Kept s₀ s) :
    Kept s₀ (powerManagement id ps s) := by
  unfold powerManagement
  repeat' first
    | with_reducible assumption | with_reducible apply State.admin_kept | with_reducible apply State.answer_kept
    | with_reducible apply State.setBudget_kept | intro _ | with_reducible apply Kept.ite | split
    | dsimp only [id_eq] | simp only [Kept.mk] | (rename_i e; with_reducible refine Kept.of_eq e ?_)

theorem temperatureThreshold_kept {s₀ : State} (id : CmdId) (tmpsel : BitVec 4) (under : Bool) (kelvin : BitVec 16) {s : State} (hK : Kept s₀ s) :
    Kept s₀ (temperatureThreshold id tmpsel under kelvin s) := by
  unfold temperatureThreshold
  repeat' first
    | with_reducible assumption | with_reducible apply State.admin_kept | with_reducible apply State.answer_kept
    | with_reducible apply State.withCtrl_kept | intro _ | with_reducible apply Kept.ite | split | dsimp only [id_eq]
    | simp only [Kept.mk] | (rename_i e; with_reducible refine Kept.of_eq e ?_)

theorem volatileWriteCache_kept {s₀ : State} (id : CmdId) (wce : Bool) {s : State} (hK : Kept s₀ s) :
    Kept s₀ (volatileWriteCache id wce s) := by
  unfold volatileWriteCache
  repeat' first
    | with_reducible assumption | with_reducible apply State.admin_kept | with_reducible apply State.answer_kept
    | with_reducible apply Kept.put | intro _ | with_reducible apply Kept.ite | split | dsimp only [id_eq]
    | simp only [Kept.mk] | (rename_i e; with_reducible refine Kept.of_eq e ?_)

theorem numberOfQueues_kept {s₀ : State} (id : CmdId) (nsq : BitVec 16) (ncq : BitVec 16) {s : State} (hK : Kept s₀ s) :
    Kept s₀ (numberOfQueues id nsq ncq s) := by
  unfold numberOfQueues
  repeat' first
    | with_reducible assumption | with_reducible apply State.admin_kept | with_reducible apply State.answer_kept
    | with_reducible apply State.complete_kept | with_reducible apply State.setCtrl_kept | intro _
    | with_reducible apply Kept.ite | split | dsimp only [id_eq] | simp only [Kept.mk]
    | (rename_i e; with_reducible refine Kept.of_eq e ?_)

theorem asyncConfig_kept {s₀ : State} (id : CmdId) (v : BitVec 32) {s : State} (hK : Kept s₀ s) :
    Kept s₀ (asyncConfig id v s) := by
  unfold asyncConfig
  repeat' first
    | with_reducible assumption | with_reducible apply State.admin_kept | with_reducible apply State.withCtrl_kept
    | intro _ | with_reducible apply Kept.ite | split | dsimp only [id_eq] | simp only [Kept.mk]
    | (rename_i e; with_reducible refine Kept.of_eq e ?_)

theorem keepAliveTimer_kept {s₀ : State} (id : CmdId) (kato : BitVec 32) {s : State} (hK : Kept s₀ s) :
    Kept s₀ (keepAliveTimer id kato s) := by
  unfold keepAliveTimer
  repeat' first
    | with_reducible assumption | with_reducible apply State.admin_kept | with_reducible apply State.withCtrl_kept
    | with_reducible apply State.answer_kept | intro _ | with_reducible apply Kept.ite | split | dsimp only [id_eq]
    | simp only [Kept.mk] | (rename_i e; with_reducible refine Kept.of_eq e ?_)

theorem hostIdentifier_kept {s₀ : State} (id : CmdId) (exhid : Bool) (v : BitVec 128) {s : State} (hK : Kept s₀ s) :
    Kept s₀ (hostIdentifier id exhid v s) := by
  unfold hostIdentifier
  repeat' first
    | with_reducible assumption | with_reducible apply State.admin_kept | with_reducible apply State.withCtrl_kept
    | with_reducible apply State.answer_kept | intro _ | with_reducible apply Kept.ite | split | dsimp only [id_eq]
    | simp only [Kept.mk] | (rename_i e; with_reducible refine Kept.of_eq e ?_)

theorem latencyBudget_kept {s₀ : State} (id : CmdId) (nsid : BitVec 32) (us : BitVec 32) {s : State} (hK : Kept s₀ s) :
    Kept s₀ (latencyBudget id nsid us s) := by
  unfold latencyBudget
  repeat' first
    | with_reducible assumption | with_reducible apply State.admin_kept | with_reducible apply State.setBudget_kept
    | with_reducible apply State.answer_kept | intro _ | with_reducible apply Kept.ite | split | dsimp only [id_eq]
    | simp only [Kept.mk] | (rename_i e; with_reducible refine Kept.of_eq e ?_)

theorem asyncRequest_kept {s₀ : State} (id : CmdId) {s : State} (hK : Kept s₀ s) :
    Kept s₀ (asyncRequest id s) := by
  unfold asyncRequest
  repeat' first
    | with_reducible assumption | with_reducible apply State.admin_kept | with_reducible apply State.complete_kept
    | with_reducible apply State.setCtrl_kept | with_reducible apply State.answer_kept
    | with_reducible apply State.unflight_kept | intro _ | with_reducible apply Kept.ite | split | dsimp only [id_eq]
    | simp only [Kept.mk] | (rename_i e; with_reducible refine Kept.of_eq e ?_)

theorem abortCmd_kept {s₀ : State} (id : CmdId) (sqid : BitVec 16) (cid : BitVec 16) (inQueue : Bool) {s : State} (hK : Kept s₀ s) :
    Kept s₀ (abortCmd id sqid cid inQueue s) := by
  unfold abortCmd
  repeat' first
    | with_reducible assumption | with_reducible apply State.admin_kept | with_reducible apply State.complete_kept
    | with_reducible apply State.count_kept | intro _ | with_reducible apply Kept.ite | split | dsimp only [id_eq]
    | simp only [Kept.mk] | (rename_i e; with_reducible refine Kept.of_eq e ?_)

theorem unsupportedOpcode_kept {s₀ : State} (id : CmdId) {s : State} (hK : Kept s₀ s) :
    Kept s₀ (unsupportedOpcode id s) := by
  unfold unsupportedOpcode
  repeat' first
    | with_reducible assumption | with_reducible apply State.admin_kept | with_reducible apply State.answer_kept
    | intro _ | with_reducible apply Kept.ite | split | dsimp only [id_eq] | simp only [Kept.mk]
    | (rename_i e; with_reducible refine Kept.of_eq e ?_)

theorem State.layZone_kept {s₀ s t : State} (nsid mask i : Nat) (h : Kept s₀ s) (e : State.layZone s nsid mask i = some t) :
    Kept s₀ t := by
  unfold State.layZone at e
  dsimp only at e
  split at e
  · cases e
  · cases e
    exact State.setZone_kept _ _ _ (Kept.forAll _ (fun x u hu => State.setBand_kept _ _ hu) _ _ (State.drew_kept h))

theorem State.layZones_kept {s₀ : State} (nsid mask : Nat) (l : List Nat) : ∀ {s t : State}, Kept s₀ s →
    State.layZones nsid mask l s = some t → Kept s₀ t := by
  induction l with
  | nil => intro s t h e; cases e; exact h
  | cons i l ih =>
    intro s t h e
    unfold State.layZones at e
    split at e
    · rename_i u hu
      exact ih (State.layZone_kept _ _ _ h hu) e
    · cases e

theorem State.drawBands_kept {s₀ s : State} (a n : Nat) (h : Kept s₀ s) {x : State × List Nat}
    (e : State.drawBands s a n = some x) : Kept s₀ x.1 := by
  unfold State.drawBands at e
  dsimp only at e
  split at e
  · cases e
  · cases e
    exact Kept.forAll _ (fun x u hu => State.setBand_kept _ _ hu) _ _ h

theorem State.drawAll_kept {s₀ : State} (need : Nat → Nat) (l : List Nat) : ∀ {s : State} {x : State × List Nat}, Kept s₀ s →
    State.drawAll need l s = some x → Kept s₀ x.1 := by
  induction l with
  | nil => intro s x h e; cases e; exact h
  | cons a l ih =>
    intro s x h e
    unfold State.drawAll at e
    split at e
    · cases e
    · rename_i z hz
      obtain ⟨y, hy, rfl⟩ := Option.map_eq_some_iff.mp e
      have hk := ih (State.drawBands_kept _ _ h hz) hy
      exact hk

theorem State.makeNs_kept {s₀ : State} {s : State} (csi : Nat) (nsze : Nat) (frag : Bool) (nsid : Nat) (hK : Kept s₀ s) :
    Kept s₀ (State.makeNs s csi nsze frag nsid).1 := by
  unfold State.makeNs
  repeat' first
    | with_reducible assumption | with_reducible apply State.post_kept | with_reducible apply Kept.when
    | with_reducible apply State.setNs_kept | with_reducible apply State.bump_kept
    | (rename_i heq; with_reducible refine State.layZones_kept _ _ _ ?_ heq)
    | (rename_i heq; with_reducible refine State.drawAll_kept _ _ ?_ heq) | intro _ | with_reducible apply Kept.ite
    | split | dsimp only [id_eq] | simp only [Kept.mk] | (rename_i e; with_reducible refine Kept.of_eq e ?_)

theorem namespaceCreate_kept {s₀ : State} (id : CmdId) (csi : BitVec 8) (nsze : BitVec 64) (ncap : BitVec 64) (lbaf : BitVec 8) (pi : BitVec 8) {s : State} (hK : Kept s₀ s) :
    Kept s₀ (namespaceCreate id csi nsze ncap lbaf pi s) := by
  unfold namespaceCreate
  repeat' first
    | with_reducible assumption | with_reducible apply State.admin_kept | with_reducible apply State.answer_kept
    | with_reducible apply State.makeNs_kept | with_reducible apply State.complete_kept | intro _
    | with_reducible apply Kept.ite | split | dsimp only [id_eq] | simp only [Kept.mk]
    | (rename_i e; with_reducible refine Kept.of_eq e ?_)

theorem State.nsChanged_kept {s₀ : State} {s : State} (cs : List Nat) (nsid : Nat) (hK : Kept s₀ s) :
    Kept s₀ (State.nsChanged s cs nsid) := by
  unfold State.nsChanged
  repeat' first
    | with_reducible assumption | with_reducible apply State.noticeAll_kept | with_reducible apply Kept.forAll
    | with_reducible apply State.setCtrl_kept | intro _ | with_reducible apply Kept.ite | split | dsimp only [id_eq]
    | simp only [Kept.mk] | (rename_i e; with_reducible refine Kept.of_eq e ?_)

theorem State.abandonNs_kept {s₀ : State} {s : State} (nsid : Nat) (hK : Kept s₀ s) :
    Kept s₀ (State.abandonNs s nsid) := by
  unfold State.abandonNs
  repeat' first
    | with_reducible assumption | with_reducible apply Kept.forAll | with_reducible apply State.abandonOp_kept
    | with_reducible apply State.reclaimNext_kept | intro _ | with_reducible apply Kept.ite | split
    | dsimp only [id_eq] | simp only [Kept.mk] | (rename_i e; with_reducible refine Kept.of_eq e ?_)

theorem State.dropKv_kept {s₀ : State} {s : State} (nsid : Nat) (hK : Kept s₀ s) :
    Kept s₀ (State.dropKv s nsid) := by
  unfold State.dropKv
  repeat' first
    | with_reducible assumption | intro _ | with_reducible apply Kept.ite | split | dsimp only [id_eq]
    | simp only [Kept.mk] | (rename_i e; with_reducible refine Kept.of_eq e ?_)

theorem State.removeNs_kept {s₀ : State} {s : State} (nsid : Nat) (drained : Nat) (ms : Nat) (hK : Kept s₀ s) :
    Kept s₀ (State.removeNs s nsid drained ms) := by
  unfold State.removeNs
  repeat' first
    | with_reducible assumption | with_reducible apply Kept.forAll | with_reducible apply State.abandonNs_kept
    | with_reducible apply State.freeBand_kept | with_reducible apply State.dropKv_kept
    | with_reducible apply State.dropNs_kept | with_reducible apply Kept.when | with_reducible apply State.setNs_kept
    | with_reducible apply Kept.put | with_reducible apply State.endTest_kept
    | with_reducible apply State.budgetChanged_kept | with_reducible apply State.nsChanged_kept
    | with_reducible apply State.post_kept | intro _ | with_reducible apply Kept.ite | split | dsimp only [id_eq]
    | simp only [Kept.mk] | (rename_i e; with_reducible refine Kept.of_eq e ?_)

theorem namespaceDelete_kept {s₀ : State} (id : CmdId) (nsid : BitVec 32) {s : State} (hK : Kept s₀ s) :
    Kept s₀ (namespaceDelete id nsid s) := by
  unfold namespaceDelete
  repeat' first
    | with_reducible assumption | with_reducible apply State.admin_kept | with_reducible apply State.answer_kept
    | with_reducible apply Kept.forAll | with_reducible apply State.setNs_kept
    | with_reducible apply State.drainDeletes_kept | with_reducible apply State.updCmd_kept | intro _
    | with_reducible apply Kept.ite | split | dsimp only [id_eq] | simp only [Kept.mk]
    | (rename_i e; with_reducible refine Kept.of_eq e ?_)

theorem namespaceAttachment_kept {s₀ : State} (id : CmdId) (nsid : BitVec 32) (attach : Bool) (ctrls : List (BitVec 16)) {s : State} (hK : Kept s₀ s) :
    Kept s₀ (namespaceAttachment id nsid attach ctrls s) := by
  unfold namespaceAttachment
  repeat' first
    | with_reducible assumption | with_reducible apply State.admin_kept | with_reducible apply State.answer_kept
    | with_reducible apply State.budgetChanged_kept | with_reducible apply State.nsChanged_kept
    | with_reducible apply State.setNs_kept | intro _ | with_reducible apply Kept.ite | split | dsimp only [id_eq]
    | simp only [Kept.mk] | (rename_i e; with_reducible refine Kept.of_eq e ?_)

theorem firmwareImageDownload_kept {s₀ : State} (id : CmdId) (ofs : BitVec 32) (data : List Byte) (ok : Bool) {s : State} (hK : Kept s₀ s) :
    Kept s₀ (firmwareImageDownload id ofs data ok s) := by
  unfold firmwareImageDownload
  repeat' first
    | with_reducible assumption | with_reducible apply State.admin_kept | with_reducible apply State.fwDownHeld_kept
    | with_reducible apply State.answer_kept | intro _ | with_reducible apply Kept.ite | split | dsimp only [id_eq]
    | simp only [Kept.mk] | (rename_i e; with_reducible refine Kept.of_eq e ?_)

theorem firmwareCommit_kept {s₀ : State} (id : CmdId) (action : BitVec 3) (slot : BitVec 3) (ok : Bool) {s : State} (hK : Kept s₀ s) :
    Kept s₀ (firmwareCommit id action slot ok s) := by
  unfold firmwareCommit
  repeat' first
    | with_reducible assumption | with_reducible apply State.admin_kept | with_reducible apply State.answer_kept
    | with_reducible apply State.fwCommit_kept | intro _ | with_reducible apply Kept.ite | split | dsimp only [id_eq]
    | simp only [Kept.mk] | (rename_i e; with_reducible refine Kept.of_eq e ?_)

theorem deviceSelfTest_kept {s₀ : State} (id : CmdId) (ext : Bool) (nsid : BitVec 32) {s : State} (hK : Kept s₀ s) :
    Kept s₀ (deviceSelfTest id ext nsid s) := by
  unfold deviceSelfTest
  repeat' first
    | with_reducible assumption | with_reducible apply State.admin_kept | with_reducible apply State.answer_kept
    | intro _ | with_reducible apply Kept.ite | split | dsimp only [id_eq] | simp only [Kept.mk]
    | (rename_i e; with_reducible refine Kept.of_eq e ?_)

theorem selfTestAbort_kept {s₀ : State} (id : CmdId) {s : State} (hK : Kept s₀ s) :
    Kept s₀ (selfTestAbort id s) := by
  unfold selfTestAbort
  repeat' first
    | with_reducible assumption | with_reducible apply State.admin_kept | with_reducible apply State.answer_kept
    | with_reducible apply State.endTest_kept | intro _ | with_reducible apply Kept.ite | split | dsimp only [id_eq]
    | simp only [Kept.mk] | (rename_i e; with_reducible refine Kept.of_eq e ?_)

theorem selfTestSegment_kept {s₀ : State} (ok : Bool) (nsid : BitVec 32) (lba : BitVec 64) {s : State} (hK : Kept s₀ s) :
    Kept s₀ (selfTestSegment ok nsid lba s) := by
  unfold selfTestSegment
  repeat' first
    | with_reducible assumption | with_reducible apply Kept.when | with_reducible apply State.cleanAll_kept
    | with_reducible apply State.endTest_kept | intro _ | with_reducible apply Kept.ite | split | dsimp only [id_eq]
    | simp only [Kept.mk] | (rename_i e; with_reducible refine Kept.of_eq e ?_)

theorem State.freeKv_kept {s₀ : State} {s : State} (nsid : Nat) (keep : Bool) (hK : Kept s₀ s) :
    Kept s₀ (State.freeKv s nsid keep) := by
  unfold State.freeKv
  repeat' first
    | with_reducible assumption | with_reducible apply State.setNs_kept | with_reducible apply Kept.forAll
    | with_reducible apply State.setBand_kept | with_reducible apply State.freeBand_kept | intro _
    | with_reducible apply Kept.ite | split | dsimp only [id_eq] | simp only [Kept.mk]
    | (rename_i e; with_reducible refine Kept.of_eq e ?_)

theorem State.emptyNs_kept {s₀ : State} {s : State} (nsid : Nat) (keep : Bool) (hK : Kept s₀ s) :
    Kept s₀ (State.emptyNs s nsid keep) := by
  unfold State.emptyNs
  repeat' first
    | with_reducible assumption | with_reducible apply State.freeKv_kept | with_reducible apply State.dropKv_kept
    | with_reducible apply State.dropNs_kept | with_reducible apply State.abandonNs_kept
    | with_reducible apply Kept.forAll | with_reducible apply State.setZone_kept
    | with_reducible apply State.setBand_kept | intro _ | with_reducible apply Kept.ite | split | dsimp only [id_eq]
    | simp only [Kept.mk] | (rename_i e; with_reducible refine Kept.of_eq e ?_)

theorem State.newKey_kept {s₀ : State} {s : State} (nsid : Nat) (cmd : Nat) (hK : Kept s₀ s) :
    Kept s₀ (State.newKey s nsid cmd) := by
  unfold State.newKey
  repeat' first
    | with_reducible assumption | with_reducible apply State.post_kept | with_reducible apply State.count_kept
    | with_reducible apply State.setNs_kept | intro _ | with_reducible apply Kept.ite | split | dsimp only [id_eq]
    | simp only [Kept.mk] | (rename_i e; with_reducible refine Kept.of_eq e ?_)

theorem State.beginOverwrite_kept {s₀ : State} {s : State} (nsid : Nat) (units : Nat → List (Nat × Nat)) (hK : Kept s₀ s) :
    Kept s₀ (State.beginOverwrite s nsid units).1 := by
  unfold State.beginOverwrite
  repeat' first
    | with_reducible assumption | with_reducible apply Kept.forAll | with_reducible apply State.beginOp_kept
    | intro _ | with_reducible apply Kept.ite | split | dsimp only [id_eq] | simp only [Kept.mk]
    | (rename_i e; with_reducible refine Kept.of_eq e ?_)

theorem State.logEmpty_kept {s₀ : State} {s : State} (nsid : Nat) (hK : Kept s₀ s) :
    Kept s₀ (State.logEmpty s nsid) := by
  unfold State.logEmpty
  repeat' first
    | with_reducible assumption | with_reducible apply Kept.forAll | with_reducible apply State.mapLog_kept | intro _
    | with_reducible apply Kept.ite | split | dsimp only [id_eq] | simp only [Kept.mk]
    | (rename_i e; with_reducible refine Kept.of_eq e ?_)

theorem formatNvm_kept {s₀ : State} (id : CmdId) (nsid : BitVec 32) (lbaf : BitVec 4) (pi : BitVec 4) (ses : BitVec 4) {s : State} (hK : Kept s₀ s) :
    Kept s₀ (formatNvm id nsid lbaf pi ses s) := by
  unfold formatNvm
  repeat' first
    | with_reducible assumption | with_reducible apply State.taking_kept | with_reducible apply State.answer_kept
    | with_reducible apply State.endTest_kept | with_reducible apply Kept.forAll
    | with_reducible apply State.emptyNs_kept | with_reducible apply State.logEmpty_kept
    | with_reducible apply State.swapMarked_kept | with_reducible apply State.newKey_kept
    | with_reducible apply State.beginOverwrite_kept | with_reducible apply State.updCmd_kept
    | with_reducible apply State.setNs_kept | intro _ | with_reducible apply Kept.ite | split | dsimp only [id_eq]
    | simp only [Kept.mk] | (rename_i e; with_reducible refine Kept.of_eq e ?_)

theorem sanitizeCryptoErase_kept {s₀ : State} (id : CmdId) {s : State} (hK : Kept s₀ s) :
    Kept s₀ (sanitizeCryptoErase id s) := by
  unfold sanitizeCryptoErase
  repeat' first
    | with_reducible assumption | with_reducible apply State.taking_kept | with_reducible apply State.answer_kept
    | with_reducible apply State.endTest_kept | with_reducible apply Kept.put | with_reducible apply Kept.forAll
    | with_reducible apply State.newKey_kept | with_reducible apply State.swapMarked_kept
    | with_reducible apply State.emptyNs_kept | intro _ | with_reducible apply Kept.ite | split | dsimp only [id_eq]
    | simp only [Kept.mk] | (rename_i e; with_reducible refine Kept.of_eq e ?_)

theorem State.wipeSlm_kept {s₀ s : State} (h : Kept s₀ s) : Kept s₀ (State.wipeSlm s) :=
  h.trans ⟨rfl, fun x => by
    rw [State.canon_iff] at x ⊢
    obtain ⟨x0, x1, x2, x3, x4, x5, x6, x7⟩ := x
    exact ⟨x0, x1, x2, x3, x4, x5, bytesOk_filter _ _ _ x6, x7⟩⟩

theorem sanitizeBlockErase_kept {s₀ : State} (id : CmdId) {s : State} (hK : Kept s₀ s) :
    Kept s₀ (sanitizeBlockErase id s) := by
  unfold sanitizeBlockErase
  repeat' first
    | with_reducible assumption | with_reducible apply State.taking_kept | with_reducible apply State.answer_kept
    | with_reducible apply State.endTest_kept | with_reducible apply Kept.forAll
    | with_reducible apply State.abandonOp_kept | with_reducible apply State.showPkt_kept
    | with_reducible apply State.wipeSlm_kept | with_reducible apply State.emptyNs_kept
    | with_reducible apply State.newKey_kept | with_reducible apply State.mapLog_kept
    | with_reducible apply State.beginOverwrite_kept | with_reducible apply Kept.put | intro _
    | with_reducible apply Kept.ite | split | dsimp only [id_eq] | simp only [Kept.mk]
    | (rename_i e; with_reducible refine Kept.of_eq e ?_)

theorem State.onNs_kept {s₀ : State} {s : State} (c : Cmd) (nsid : Nat) (sets : List Nat) (f : Ns → State → State) (hK : Kept s₀ s) (hK_f : ∀ x0 u, Kept s₀ u → Kept s₀ (f x0 u)) :
    Kept s₀ (State.onNs s c nsid sets f) := by
  unfold State.onNs
  repeat' first
    | with_reducible assumption | with_reducible apply State.answer_kept | with_reducible apply State.showCmds_kept
    | with_reducible apply State.drainDeletes_kept | with_reducible apply State.sendCqe_kept
    | with_reducible apply hK_f | intro _ | with_reducible apply Kept.ite | split | dsimp only [id_eq]
    | simp only [Kept.mk] | (rename_i e; with_reducible refine Kept.of_eq e ?_)

theorem State.queueJobs_kept {s₀ : State} {s : State} (c : Cmd) (js : List (Nat × Job)) (hK : Kept s₀ s) :
    Kept s₀ (State.queueJobs s c js) := by
  unfold State.queueJobs
  repeat' first
    | with_reducible assumption | with_reducible apply Kept.forAll | with_reducible apply State.updCmd_kept
    | with_reducible apply State.addJob_kept | with_reducible apply State.partRead_kept | intro _
    | with_reducible apply Kept.ite | split | dsimp only [id_eq] | simp only [Kept.mk]
    | (rename_i e; with_reducible refine Kept.of_eq e ?_)

theorem State.readJobs_kept {s₀ : State} {s : State} (c : Cmd) (kind : JobKind) (nsid : Nat) (lba : Nat) (k : Nat) (limited : Bool) (hK : Kept s₀ s) :
    Kept s₀ (State.readJobs s c kind nsid lba k limited) := by
  unfold State.readJobs
  repeat' first
    | with_reducible assumption | with_reducible apply State.queueJobs_kept | intro _ | with_reducible apply Kept.ite
    | split | dsimp only [id_eq] | simp only [Kept.mk] | (rename_i e; with_reducible refine Kept.of_eq e ?_)

theorem readCmd_kept {s₀ : State} (id : CmdId) (nsid : BitVec 32) (lba : BitVec 64) (nlb : BitVec 16) (limited : Bool) {s : State} (hK : Kept s₀ s) :
    Kept s₀ (readCmd id nsid lba nlb limited s) := by
  unfold readCmd
  repeat' first
    | with_reducible assumption | with_reducible apply State.taking_kept | with_reducible apply State.onNs_kept
    | with_reducible apply State.answer_kept | with_reducible apply State.complete_kept
    | with_reducible apply State.sendData_kept | with_reducible apply State.readJobs_kept
    | with_reducible apply State.updCmd_kept | intro _ | with_reducible apply Kept.ite | split | dsimp only [id_eq]
    | simp only [Kept.mk] | (rename_i e; with_reducible refine Kept.of_eq e ?_)

theorem verifyCmd_kept {s₀ : State} (id : CmdId) (nsid : BitVec 32) (lba : BitVec 64) (nlb : BitVec 16) {s : State} (hK : Kept s₀ s) :
    Kept s₀ (verifyCmd id nsid lba nlb s) := by
  unfold verifyCmd
  repeat' first
    | with_reducible assumption | with_reducible apply State.taking_kept | with_reducible apply State.onNs_kept
    | with_reducible apply State.answer_kept | with_reducible apply State.readJobs_kept | intro _
    | with_reducible apply Kept.ite | split | dsimp only [id_eq] | simp only [Kept.mk]
    | (rename_i e; with_reducible refine Kept.of_eq e ?_)

theorem State.finishWrite_kept {s₀ : State} {s : State} (c : Cmd) (acts : List Nat) (fua : Bool) (dw0 : Nat) (hK : Kept s₀ s) :
    Kept s₀ (State.finishWrite s c acts fua dw0) := by
  unfold State.finishWrite
  repeat' first
    | with_reducible assumption | with_reducible apply State.updCmd_kept | with_reducible apply Kept.forAll
    | with_reducible apply State.beginPoint_kept | with_reducible apply State.complete_kept | intro _
    | with_reducible apply Kept.ite | split | dsimp only [id_eq] | simp only [Kept.mk]
    | (rename_i e; with_reducible refine Kept.of_eq e ?_)

theorem State.takeData_kept {s₀ : State} {s : State} (nsid : Nat) (lba : Nat) (data : List Block) (hK : Kept s₀ s) :
    Kept s₀ (State.takeData s nsid lba data) := by
  unfold State.takeData
  repeat' first
    | with_reducible assumption | with_reducible apply State.stageAll_kept | with_reducible apply State.dueRun_kept
    | with_reducible apply State.beginPoint_kept | intro _ | with_reducible apply Kept.ite | split
    | dsimp only [id_eq] | simp only [Kept.mk] | (rename_i e; with_reducible refine Kept.of_eq e ?_)

theorem State.zoneWrite_kept {s₀ : State} {s : State} (n : Ns) (nsid : Nat) (lba : Nat) (k : Nat) (hK : Kept s₀ s) :
    Kept s₀ (State.zoneWrite s n nsid lba k).2 := by
  unfold State.zoneWrite
  repeat' first
    | with_reducible assumption | with_reducible apply State.setZone_kept | intro _ | with_reducible apply Kept.ite
    | split | dsimp only [id_eq] | simp only [Kept.mk] | (rename_i e; with_reducible refine Kept.of_eq e ?_)

theorem State.writeRange_kept {s₀ : State} {s : State} (c : Cmd) (nsid : Nat) (lba : Nat) (data : List Block) (sets : List Nat) (fua : Bool) (hK : Kept s₀ s) :
    Kept s₀ (State.writeRange s c nsid lba data sets fua) := by
  unfold State.writeRange
  repeat' first
    | with_reducible assumption | with_reducible apply State.onNs_kept | with_reducible apply State.answer_kept
    | with_reducible apply State.zoneWrite_kept | with_reducible apply State.finishWrite_kept
    | with_reducible apply State.takeData_kept | intro _ | with_reducible apply Kept.ite | split | dsimp only [id_eq]
    | simp only [Kept.mk] | (rename_i e; with_reducible refine Kept.of_eq e ?_)

theorem writeCmd_kept {s₀ : State} (id : CmdId) (nsid : BitVec 32) (lba : BitVec 64) (data : List Block) (fua : Bool) {s : State} (hK : Kept s₀ s) :
    Kept s₀ (writeCmd id nsid lba data fua s) := by
  unfold writeCmd
  repeat' first
    | with_reducible assumption | with_reducible apply State.taking_kept | with_reducible apply State.writeRange_kept
    | intro _ | with_reducible apply Kept.ite | split | dsimp only [id_eq] | simp only [Kept.mk]
    | (rename_i e; with_reducible refine Kept.of_eq e ?_)

theorem writeZeroes_kept {s₀ : State} (id : CmdId) (nsid : BitVec 32) (lba : BitVec 64) (nlb : BitVec 16) (fua : Bool) {s : State} (hK : Kept s₀ s) :
    Kept s₀ (writeZeroes id nsid lba nlb fua s) := by
  unfold writeZeroes
  repeat' first
    | with_reducible assumption | with_reducible apply State.taking_kept | with_reducible apply State.writeRange_kept
    | intro _ | with_reducible apply Kept.ite | split | dsimp only [id_eq] | simp only [Kept.mk]
    | (rename_i e; with_reducible refine Kept.of_eq e ?_)

theorem datasetManagement_kept {s₀ : State} (id : CmdId) (nsid : BitVec 32) (deallocate : Bool) (ranges : List (BitVec 64 × BitVec 32)) {s : State} (hK : Kept s₀ s) :
    Kept s₀ (datasetManagement id nsid deallocate ranges s) := by
  unfold datasetManagement
  repeat' first
    | with_reducible assumption | with_reducible apply State.taking_kept | with_reducible apply State.onNs_kept
    | with_reducible apply State.answer_kept | with_reducible apply Kept.forAll
    | with_reducible apply State.stageAll_kept | intro _ | with_reducible apply Kept.ite | split | dsimp only [id_eq]
    | simp only [Kept.mk] | (rename_i e; with_reducible refine Kept.of_eq e ?_)

theorem zoneAppend_kept {s₀ : State} (id : CmdId) (nsid : BitVec 32) (zslba : BitVec 64) (data : List Block) (fua : Bool) {s : State} (hK : Kept s₀ s) :
    Kept s₀ (zoneAppend id nsid zslba data fua s) := by
  unfold zoneAppend
  repeat' first
    | with_reducible assumption | with_reducible apply State.taking_kept | with_reducible apply State.onNs_kept
    | with_reducible apply State.complete_kept | with_reducible apply State.answer_kept
    | with_reducible apply State.finishWrite_kept | with_reducible apply State.takeData_kept | intro _
    | with_reducible apply Kept.ite | split | dsimp only [id_eq] | simp only [Kept.mk]
    | (rename_i e; with_reducible refine Kept.of_eq e ?_)

theorem State.zoneSend_kept {s₀ : State} {s : State} (id : CmdId) (nsid : Nat) (slba : Nat) (all : Bool) (ok : List Nat) (sel : List Nat) (f : Cmd → List Nat → State → State) (hK : Kept s₀ s) (hK_f : ∀ x0 x1 u, Kept s₀ u → Kept s₀ (f x0 x1 u)) :
    Kept s₀ (State.zoneSend s id nsid slba all ok sel f) := by
  unfold State.zoneSend
  repeat' first
    | with_reducible assumption | with_reducible apply State.taking_kept | with_reducible apply State.onNs_kept
    | with_reducible apply State.answer_kept | with_reducible apply hK_f | intro _ | with_reducible apply Kept.ite
    | split | dsimp only [id_eq] | simp only [Kept.mk] | (rename_i e; with_reducible refine Kept.of_eq e ?_)

theorem State.zoneWait_kept {s₀ : State} {s : State} (c : Cmd) (nsid : Nat) (zs : List Nat) (fin : CmdFin) (hK : Kept s₀ s) :
    Kept s₀ (State.zoneWait s c nsid zs fin) := by
  unfold State.zoneWait
  repeat' first
    | with_reducible assumption | with_reducible apply State.answer_kept | with_reducible apply State.updCmd_kept
    | with_reducible apply Kept.forAll | with_reducible apply State.beginPoint_kept | intro _
    | with_reducible apply Kept.ite | split | dsimp only [id_eq] | simp only [Kept.mk]
    | (rename_i e; with_reducible refine Kept.of_eq e ?_)

theorem zoneReset_kept {s₀ : State} (id : CmdId) (nsid : BitVec 32) (slba : BitVec 64) (all : Bool) {s : State} (hK : Kept s₀ s) :
    Kept s₀ (zoneReset id nsid slba all s) := by
  unfold zoneReset
  repeat' first
    | with_reducible assumption | with_reducible apply State.zoneSend_kept | with_reducible apply State.zoneWait_kept
    | intro _ | with_reducible apply Kept.ite | split | dsimp only [id_eq] | simp only [Kept.mk]
    | (rename_i e; with_reducible refine Kept.of_eq e ?_)

theorem zoneFinish_kept {s₀ : State} (id : CmdId) (nsid : BitVec 32) (slba : BitVec 64) (all : Bool) {s : State} (hK : Kept s₀ s) :
    Kept s₀ (zoneFinish id nsid slba all s) := by
  unfold zoneFinish
  repeat' first
    | with_reducible assumption | with_reducible apply State.zoneSend_kept | with_reducible apply State.zoneWait_kept
    | with_reducible apply Kept.forAll | with_reducible apply State.closeShort_kept | intro _
    | with_reducible apply Kept.ite | split | dsimp only [id_eq] | simp only [Kept.mk]
    | (rename_i e; with_reducible refine Kept.of_eq e ?_)

theorem zoneOpen_kept {s₀ : State} (id : CmdId) (nsid : BitVec 32) (slba : BitVec 64) (all : Bool) {s : State} (hK : Kept s₀ s) :
    Kept s₀ (zoneOpen id nsid slba all s) := by
  unfold zoneOpen
  repeat' first
    | with_reducible assumption | with_reducible apply State.zoneSend_kept | with_reducible apply State.answer_kept
    | with_reducible apply Kept.forAll | with_reducible apply State.setZone_kept | intro _
    | with_reducible apply Kept.ite | split | dsimp only [id_eq] | simp only [Kept.mk]
    | (rename_i e; with_reducible refine Kept.of_eq e ?_)

theorem zoneClose_kept {s₀ : State} (id : CmdId) (nsid : BitVec 32) (slba : BitVec 64) (all : Bool) {s : State} (hK : Kept s₀ s) :
    Kept s₀ (zoneClose id nsid slba all s) := by
  unfold zoneClose
  repeat' first
    | with_reducible assumption | with_reducible apply State.zoneSend_kept | with_reducible apply State.answer_kept
    | with_reducible apply Kept.forAll | with_reducible apply State.setZone_kept | intro _
    | with_reducible apply Kept.ite | split | dsimp only [id_eq] | simp only [Kept.mk]
    | (rename_i e; with_reducible refine Kept.of_eq e ?_)

theorem setZoneDescriptorExtension_kept {s₀ : State} (id : CmdId) (nsid : BitVec 32) (slba : BitVec 64) {s : State} (hK : Kept s₀ s) :
    Kept s₀ (setZoneDescriptorExtension id nsid slba s) := by
  unfold setZoneDescriptorExtension
  repeat' first
    | with_reducible assumption | with_reducible apply State.zoneSend_kept | with_reducible apply State.answer_kept
    | intro _ | with_reducible apply Kept.ite | split | dsimp only [id_eq] | simp only [Kept.mk]
    | (rename_i e; with_reducible refine Kept.of_eq e ?_)

theorem zoneManagementReceive_kept {s₀ : State} (id : CmdId) (nsid : BitVec 32) (slba : BitVec 64) (ext : Bool) {s : State} (hK : Kept s₀ s) :
    Kept s₀ (zoneManagementReceive id nsid slba ext s) := by
  unfold zoneManagementReceive
  repeat' first
    | with_reducible assumption | with_reducible apply State.taking_kept | with_reducible apply State.onNs_kept
    | with_reducible apply State.answer_kept | with_reducible apply State.complete_kept | intro _
    | with_reducible apply Kept.ite | split | dsimp only [id_eq] | simp only [Kept.mk]
    | (rename_i e; with_reducible refine Kept.of_eq e ?_)

theorem State.resetZone_kept {s₀ : State} {s : State} (nsid : Nat) (z : Nat) (hK : Kept s₀ s) :
    Kept s₀ (State.resetZone s nsid z) := by
  unfold State.resetZone
  repeat' first
    | with_reducible assumption | with_reducible apply State.zeroRange_kept | with_reducible apply Kept.forAll
    | with_reducible apply State.abandonOp_kept | with_reducible apply State.reclaimNext_kept
    | with_reducible apply State.setBand_kept | with_reducible apply State.setZone_kept
    | with_reducible apply State.swapZone_kept | intro _ | with_reducible apply Kept.ite | split | dsimp only [id_eq]
    | simp only [Kept.mk] | (rename_i e; with_reducible refine Kept.of_eq e ?_)

theorem State.finishZone_kept {s₀ : State} {s : State} (nsid : Nat) (z : Nat) (hK : Kept s₀ s) :
    Kept s₀ (State.finishZone s nsid z) := by
  unfold State.finishZone
  repeat' first
    | with_reducible assumption | with_reducible apply Kept.forAll | with_reducible apply State.setBand_kept
    | with_reducible apply State.setZone_kept | intro _ | with_reducible apply Kept.ite | split | dsimp only [id_eq]
    | simp only [Kept.mk] | (rename_i e; with_reducible refine Kept.of_eq e ?_)

theorem State.finish_kept {s₀ : State} {s : State} (c : Cmd) (hK : Kept s₀ s) :
    Kept s₀ (State.finish s c) := by
  unfold State.finish
  repeat' first
    | with_reducible assumption | with_reducible apply Kept.forAll | with_reducible apply State.resetZone_kept
    | with_reducible apply State.finishZone_kept | with_reducible apply State.removeNs_kept
    | with_reducible apply State.copyDone_kept | with_reducible apply State.complete_kept | intro _
    | with_reducible apply Kept.ite | split | dsimp only [id_eq] | simp only [Kept.mk]
    | (rename_i e; with_reducible refine Kept.of_eq e ?_)

theorem State.pointDone_kept {s₀ : State} {s : State} (a : Nat) (bound : Nat) (hK : Kept s₀ s) :
    Kept s₀ (State.pointDone s a bound) := by
  unfold State.pointDone
  repeat' first
    | with_reducible assumption | with_reducible apply Kept.forAll | with_reducible apply State.finish_kept
    | with_reducible apply State.updCmd_kept | intro _ | with_reducible apply Kept.ite | split | dsimp only [id_eq]
    | simp only [Kept.mk] | (rename_i e; with_reducible refine Kept.of_eq e ?_)

theorem durablePointStands_kept {s₀ : State} (a : Act) (copy : Fin 3) {s : State} (hK : Kept s₀ s) :
    Kept s₀ (durablePointStands a copy s) := by
  unfold durablePointStands
  repeat' first
    | with_reducible assumption | with_reducible apply State.levelCopies_kept | with_reducible apply State.count_kept
    | with_reducible apply State.kvDurable_kept | with_reducible apply State.recordPoint_kept
    | with_reducible apply State.makeDurable_kept | with_reducible apply State.pointDone_kept
    | with_reducible apply State.clean_kept | with_reducible apply State.planAgain_kept | intro _
    | with_reducible apply Kept.ite | split | dsimp only [id_eq] | simp only [Kept.mk]
    | (rename_i e; with_reducible refine Kept.of_eq e ?_)

theorem State.takeList_kept {s₀ : State} (full : Bool) (l : List Waiting) : ∀ {s : State}, Kept s₀ s →
    Kept s₀ (State.takeList full l s).1 := by
  induction l with
  | nil => intro s h; exact h
  | cons w l ih =>
    intro s h
    unfold State.takeList
    dsimp only
    split
    · exact ih (State.tryTake_kept _ _ h)
    · exact State.tryTake_kept _ _ h

theorem intakeVisit_kept {s₀ : State} (waiting : List Waiting) (full : Bool) {s : State} (hK : Kept s₀ s) :
    Kept s₀ (intakeVisit waiting full s) := by
  unfold intakeVisit
  repeat' first
    | with_reducible assumption | with_reducible apply State.showPause_kept
    | with_reducible apply State.takeList_kept | intro _ | with_reducible apply Kept.ite | split | dsimp only [id_eq]
    | simp only [Kept.mk] | (rename_i e; with_reducible refine Kept.of_eq e ?_)

theorem turnstileRelease_kept {s₀ : State} (id : CmdId) {s : State} (hK : Kept s₀ s) :
    Kept s₀ (turnstileRelease id s) := by
  unfold turnstileRelease
  repeat' first
    | with_reducible assumption | with_reducible apply State.updCmd_kept | intro _ | with_reducible apply Kept.ite
    | split | dsimp only [id_eq] | simp only [Kept.mk] | (rename_i e; with_reducible refine Kept.of_eq e ?_)

theorem State.setFetchHold_kept {s₀ : State} {s : State} (v : Bool) (hK : Kept s₀ s) :
    Kept s₀ (State.setFetchHold s v) := by
  unfold State.setFetchHold
  repeat' first
    | with_reducible assumption | with_reducible apply State.putB_kept | with_reducible apply State.showPause_kept
    | intro _ | with_reducible apply Kept.ite | split | dsimp only [id_eq] | simp only [Kept.mk]
    | (rename_i e; with_reducible refine Kept.of_eq e ?_)

theorem fetchHold_kept {s₀ : State} (v : Bool) {s : State} (hK : Kept s₀ s) :
    Kept s₀ (fetchHold v s) := by
  unfold fetchHold
  repeat' first
    | with_reducible assumption | with_reducible apply State.setFetchHold_kept | intro _
    | with_reducible apply Kept.ite | split | dsimp only [id_eq] | simp only [Kept.mk]
    | (rename_i e; with_reducible refine Kept.of_eq e ?_)

theorem hiwatClr_kept {s₀ : State} {s : State} (hK : Kept s₀ s) :
    Kept s₀ (hiwatClr s) := by
  unfold hiwatClr
  repeat' first
    | with_reducible assumption | with_reducible apply Kept.put | intro _ | with_reducible apply Kept.ite | split
    | dsimp only [id_eq] | simp only [Kept.mk] | (rename_i e; with_reducible refine Kept.of_eq e ?_)

theorem jugglerPick_kept {s₀ : State} (a : Act) (w : BitVec 16) {s : State} (hK : Kept s₀ s) :
    Kept s₀ (jugglerPick a w s) := by
  unfold jugglerPick
  repeat' first
    | with_reducible assumption | with_reducible apply State.setJob_kept | with_reducible apply State.setJugq_kept
    | with_reducible apply Kept.when | with_reducible apply State.evt_kept | with_reducible apply State.count_kept
    | intro _ | with_reducible apply Kept.ite | split | dsimp only [id_eq] | simp only [Kept.mk]
    | (rename_i e; with_reducible refine Kept.of_eq e ?_)

theorem State.cmdEnable_kept {s₀ : State} {s : State} (hK : Kept s₀ s) :
    Kept s₀ (State.cmdEnable s).1 := by
  unfold State.cmdEnable
  repeat' first
    | with_reducible assumption | with_reducible apply State.enable_kept | intro _ | with_reducible apply Kept.ite
    | split | dsimp only [id_eq] | simp only [Kept.mk] | (rename_i e; with_reducible refine Kept.of_eq e ?_)

theorem cmdEnableCmd_kept {s₀ : State} {s : State} (hK : Kept s₀ s) :
    Kept s₀ (cmdEnableCmd s) := by
  unfold cmdEnableCmd
  repeat' first
    | with_reducible assumption | with_reducible apply State.cmdEnable_kept | intro _ | with_reducible apply Kept.ite
    | split | dsimp only [id_eq] | simp only [Kept.mk] | (rename_i e; with_reducible refine Kept.of_eq e ?_)

theorem execDurablePointStands_kept (a : Act) (copy : Fin 3) {s t : State} (h : execDurablePointStands a copy s = .next t) : Kept s t := by
  have h := Host.Outcome.next.inj h; subst h; exact durablePointStands_kept _ _ (Kept.refl s)

theorem execConnect_kept (cid : BitVec 16) (qid : BitVec 16) (cntlid : BitVec 16) (entries : Nat) (noFlow : Bool) (kato : BitVec 32) (hostId : BitVec 128) (hostNqn : List Byte) (member : Bool) (conn : ConnData) {s t : State} (h : execConnect cid qid cntlid entries noFlow kato hostId hostNqn member conn s = .next t) : Kept s t := by
  have h := Host.Outcome.next.inj h; subst h; exact connect_kept _ _ _ _ _ _ _ _ _ _ (Kept.refl s)

theorem execDisconnect_kept (c : BitVec 16) {s t : State} (h : execDisconnect c s = .next t) : Kept s t := by
  have h := Host.Outcome.next.inj h; subst h; exact disconnect_kept _ (Kept.refl s)

theorem execControllerReset_kept (c : BitVec 16) {s t : State} (h : execControllerReset c s = .next t) : Kept s t := by
  have h := Host.Outcome.next.inj h; subst h; exact controllerReset_kept _ (Kept.refl s)

theorem execKatoExpiry_kept (c : BitVec 16) {s t : State} (h : execKatoExpiry c s = .next t) : Kept s t := by
  have h := Host.Outcome.next.inj h; subst h; exact katoExpiry_kept _ (Kept.refl s)

theorem execNvmeIdentify_kept (id : CmdId) (cns : BitVec 8) (csi : BitVec 8) (nsid : BitVec 32) {s t : State} (h : execNvmeIdentify id cns csi nsid s = .next t) : Kept s t := by
  have h := Host.Outcome.next.inj h; subst h; exact nvmeIdentify_kept _ _ _ _ (Kept.refl s)

theorem execGetLogPage_kept (id : CmdId) (lid : BitVec 8) (nsid : BitVec 32) {s t : State} (h : execGetLogPage id lid nsid s = .next t) : Kept s t := by
  have h := Host.Outcome.next.inj h; subst h; exact getLogPage_kept _ _ _ (Kept.refl s)

theorem execGetFeatures_kept (id : CmdId) (fid : BitVec 8) (nsid : BitVec 32) (dw11 : BitVec 32) {s t : State} (h : execGetFeatures id fid nsid dw11 s = .next t) : Kept s t := by
  have h := Host.Outcome.next.inj h; subst h; exact getFeatures_kept _ _ _ _ (Kept.refl s)

theorem execArbitration_kept (id : CmdId) (ab : BitVec 3) {s t : State} (h : execArbitration id ab s = .next t) : Kept s t := by
  have h := Host.Outcome.next.inj h; subst h; exact arbitration_kept _ _ (Kept.refl s)

theorem execPowerManagement_kept (id : CmdId) (ps : BitVec 5) {s t : State} (h : execPowerManagement id ps s = .next t) : Kept s t := by
  have h := Host.Outcome.next.inj h; subst h; exact powerManagement_kept _ _ (Kept.refl s)

theorem execTemperatureThreshold_kept (id : CmdId) (tmpsel : BitVec 4) (under : Bool) (kelvin : BitVec 16) {s t : State} (h : execTemperatureThreshold id tmpsel under kelvin s = .next t) : Kept s t := by
  have h := Host.Outcome.next.inj h; subst h; exact temperatureThreshold_kept _ _ _ _ (Kept.refl s)

theorem execVolatileWriteCache_kept (id : CmdId) (wce : Bool) {s t : State} (h : execVolatileWriteCache id wce s = .next t) : Kept s t := by
  have h := Host.Outcome.next.inj h; subst h; exact volatileWriteCache_kept _ _ (Kept.refl s)

theorem execNumberOfQueues_kept (id : CmdId) (nsq : BitVec 16) (ncq : BitVec 16) {s t : State} (h : execNumberOfQueues id nsq ncq s = .next t) : Kept s t := by
  have h := Host.Outcome.next.inj h; subst h; exact numberOfQueues_kept _ _ _ (Kept.refl s)

theorem execAsynchronousEventConfiguration_kept (id : CmdId) (v : BitVec 32) {s t : State} (h : execAsynchronousEventConfiguration id v s = .next t) : Kept s t := by
  have h := Host.Outcome.next.inj h; subst h; exact asyncConfig_kept _ _ (Kept.refl s)

theorem execKeepAliveTimer_kept (id : CmdId) (kato : BitVec 32) {s t : State} (h : execKeepAliveTimer id kato s = .next t) : Kept s t := by
  have h := Host.Outcome.next.inj h; subst h; exact keepAliveTimer_kept _ _ (Kept.refl s)

theorem execHostIdentifier_kept (id : CmdId) (exhid : Bool) (v : BitVec 128) {s t : State} (h : execHostIdentifier id exhid v s = .next t) : Kept s t := by
  have h := Host.Outcome.next.inj h; subst h; exact hostIdentifier_kept _ _ _ (Kept.refl s)

theorem execLatencyBudget_kept (id : CmdId) (nsid : BitVec 32) (us : BitVec 32) {s t : State} (h : execLatencyBudget id nsid us s = .next t) : Kept s t := by
  have h := Host.Outcome.next.inj h; subst h; exact latencyBudget_kept _ _ _ (Kept.refl s)

theorem execAbort_kept (id : CmdId) (sqid : BitVec 16) (cid : BitVec 16) (inQueue : Bool) {s t : State} (h : execAbort id sqid cid inQueue s = .next t) : Kept s t := by
  have h := Host.Outcome.next.inj h; subst h; exact abortCmd_kept _ _ _ _ (Kept.refl s)

theorem execAsynchronousEventRequest_kept (id : CmdId) {s t : State} (h : execAsynchronousEventRequest id s = .next t) : Kept s t := by
  have h := Host.Outcome.next.inj h; subst h; exact asyncRequest_kept _ (Kept.refl s)

theorem execNamespaceCreate_kept (id : CmdId) (csi : BitVec 8) (nsze : BitVec 64) (ncap : BitVec 64) (lbaf : BitVec 8) (pi : BitVec 8) {s t : State} (h : execNamespaceCreate id csi nsze ncap lbaf pi s = .next t) : Kept s t := by
  have h := Host.Outcome.next.inj h; subst h; exact namespaceCreate_kept _ _ _ _ _ _ (Kept.refl s)

theorem execNamespaceDelete_kept (id : CmdId) (nsid : BitVec 32) {s t : State} (h : execNamespaceDelete id nsid s = .next t) : Kept s t := by
  have h := Host.Outcome.next.inj h; subst h; exact namespaceDelete_kept _ _ (Kept.refl s)

theorem execNamespaceAttachment_kept (id : CmdId) (nsid : BitVec 32) (attach : Bool) (ctrls : List (BitVec 16)) {s t : State} (h : execNamespaceAttachment id nsid attach ctrls s = .next t) : Kept s t := by
  have h := Host.Outcome.next.inj h; subst h; exact namespaceAttachment_kept _ _ _ _ (Kept.refl s)

theorem execFirmwareImageDownload_kept (id : CmdId) (ofs : BitVec 32) (data : List Byte) (ok : Bool) {s t : State} (h : execFirmwareImageDownload id ofs data ok s = .next t) : Kept s t := by
  have h := Host.Outcome.next.inj h; subst h; exact firmwareImageDownload_kept _ _ _ _ (Kept.refl s)

theorem execFirmwareCommit_kept (id : CmdId) (action : BitVec 3) (slot : BitVec 3) (ok : Bool) {s t : State} (h : execFirmwareCommit id action slot ok s = .next t) : Kept s t := by
  have h := Host.Outcome.next.inj h; subst h; exact firmwareCommit_kept _ _ _ _ (Kept.refl s)

theorem execDeviceSelfTest_kept (id : CmdId) (ext : Bool) (nsid : BitVec 32) {s t : State} (h : execDeviceSelfTest id ext nsid s = .next t) : Kept s t := by
  have h := Host.Outcome.next.inj h; subst h; exact deviceSelfTest_kept _ _ _ (Kept.refl s)

theorem execSelfTestAbort_kept (id : CmdId) {s t : State} (h : execSelfTestAbort id s = .next t) : Kept s t := by
  have h := Host.Outcome.next.inj h; subst h; exact selfTestAbort_kept _ (Kept.refl s)

theorem execSelfTestSegment_kept (ok : Bool) (nsid : BitVec 32) (lba : BitVec 64) {s t : State} (h : execSelfTestSegment ok nsid lba s = .next t) : Kept s t := by
  have h := Host.Outcome.next.inj h; subst h; exact selfTestSegment_kept _ _ _ (Kept.refl s)

theorem execKeepAlive_kept (id : CmdId) {s t : State} (h : execKeepAlive id s = .next t) : Kept s t := by
  have h := Host.Outcome.next.inj h; subst h; exact keepAlive_kept _ (Kept.refl s)

theorem execFormatNvm_kept (id : CmdId) (nsid : BitVec 32) (lbaf : BitVec 4) (pi : BitVec 4) (ses : BitVec 4) {s t : State} (h : execFormatNvm id nsid lbaf pi ses s = .next t) : Kept s t := by
  have h := Host.Outcome.next.inj h; subst h; exact formatNvm_kept _ _ _ _ _ (Kept.refl s)

theorem execSanitizeCryptoErase_kept (id : CmdId) {s t : State} (h : execSanitizeCryptoErase id s = .next t) : Kept s t := by
  have h := Host.Outcome.next.inj h; subst h; exact sanitizeCryptoErase_kept _ (Kept.refl s)

theorem execSanitizeBlockErase_kept (id : CmdId) {s t : State} (h : execSanitizeBlockErase id s = .next t) : Kept s t := by
  have h := Host.Outcome.next.inj h; subst h; exact sanitizeBlockErase_kept _ (Kept.refl s)

theorem execUnsupportedOpcode_kept (id : CmdId) {s t : State} (h : execUnsupportedOpcode id s = .next t) : Kept s t := by
  have h := Host.Outcome.next.inj h; subst h; exact unsupportedOpcode_kept _ (Kept.refl s)

theorem execRead_kept (id : CmdId) (nsid : BitVec 32) (lba : BitVec 64) (nlb : BitVec 16) (limited : Bool) {s t : State} (h : execRead id nsid lba nlb limited s = .next t) : Kept s t := by
  have h := Host.Outcome.next.inj h; subst h; exact readCmd_kept _ _ _ _ _ (Kept.refl s)

theorem execWrite_kept (id : CmdId) (nsid : BitVec 32) (lba : BitVec 64) (data : List Block) (fua : Bool) {s t : State} (h : execWrite id nsid lba data fua s = .next t) : Kept s t := by
  have h := Host.Outcome.next.inj h; subst h; exact writeCmd_kept _ _ _ _ _ (Kept.refl s)

theorem execWriteZeroes_kept (id : CmdId) (nsid : BitVec 32) (lba : BitVec 64) (nlb : BitVec 16) (fua : Bool) {s t : State} (h : execWriteZeroes id nsid lba nlb fua s = .next t) : Kept s t := by
  have h := Host.Outcome.next.inj h; subst h; exact writeZeroes_kept _ _ _ _ _ (Kept.refl s)

theorem execDatasetManagement_kept (id : CmdId) (nsid : BitVec 32) (deallocate : Bool) (ranges : List (BitVec 64 × BitVec 32)) {s t : State} (h : execDatasetManagement id nsid deallocate ranges s = .next t) : Kept s t := by
  have h := Host.Outcome.next.inj h; subst h; exact datasetManagement_kept _ _ _ _ (Kept.refl s)

theorem execVerify_kept (id : CmdId) (nsid : BitVec 32) (lba : BitVec 64) (nlb : BitVec 16) {s t : State} (h : execVerify id nsid lba nlb s = .next t) : Kept s t := by
  have h := Host.Outcome.next.inj h; subst h; exact verifyCmd_kept _ _ _ _ (Kept.refl s)

theorem execZoneAppend_kept (id : CmdId) (nsid : BitVec 32) (zslba : BitVec 64) (data : List Block) (fua : Bool) {s t : State} (h : execZoneAppend id nsid zslba data fua s = .next t) : Kept s t := by
  have h := Host.Outcome.next.inj h; subst h; exact zoneAppend_kept _ _ _ _ _ (Kept.refl s)

theorem execZoneReset_kept (id : CmdId) (nsid : BitVec 32) (slba : BitVec 64) (all : Bool) {s t : State} (h : execZoneReset id nsid slba all s = .next t) : Kept s t := by
  have h := Host.Outcome.next.inj h; subst h; exact zoneReset_kept _ _ _ _ (Kept.refl s)

theorem execZoneFinish_kept (id : CmdId) (nsid : BitVec 32) (slba : BitVec 64) (all : Bool) {s t : State} (h : execZoneFinish id nsid slba all s = .next t) : Kept s t := by
  have h := Host.Outcome.next.inj h; subst h; exact zoneFinish_kept _ _ _ _ (Kept.refl s)

theorem execZoneOpen_kept (id : CmdId) (nsid : BitVec 32) (slba : BitVec 64) (all : Bool) {s t : State} (h : execZoneOpen id nsid slba all s = .next t) : Kept s t := by
  have h := Host.Outcome.next.inj h; subst h; exact zoneOpen_kept _ _ _ _ (Kept.refl s)

theorem execZoneClose_kept (id : CmdId) (nsid : BitVec 32) (slba : BitVec 64) (all : Bool) {s t : State} (h : execZoneClose id nsid slba all s = .next t) : Kept s t := by
  have h := Host.Outcome.next.inj h; subst h; exact zoneClose_kept _ _ _ _ (Kept.refl s)

theorem execSetZoneDescriptorExtension_kept (id : CmdId) (nsid : BitVec 32) (slba : BitVec 64) {s t : State} (h : execSetZoneDescriptorExtension id nsid slba s = .next t) : Kept s t := by
  have h := Host.Outcome.next.inj h; subst h; exact setZoneDescriptorExtension_kept _ _ _ (Kept.refl s)

theorem execZoneManagementReceive_kept (id : CmdId) (nsid : BitVec 32) (slba : BitVec 64) (ext : Bool) {s t : State} (h : execZoneManagementReceive id nsid slba ext s = .next t) : Kept s t := by
  have h := Host.Outcome.next.inj h; subst h; exact zoneManagementReceive_kept _ _ _ _ (Kept.refl s)

theorem execIntakeVisit_kept (waiting : List Waiting) (full : Bool) {s t : State} (h : execIntakeVisit waiting full s = .next t) : Kept s t := by
  have h := Host.Outcome.next.inj h; subst h; exact intakeVisit_kept _ _ (Kept.refl s)

theorem execTurnstileRelease_kept (id : CmdId) {s t : State} (h : execTurnstileRelease id s = .next t) : Kept s t := by
  have h := Host.Outcome.next.inj h; subst h; exact turnstileRelease_kept _ (Kept.refl s)

theorem execJugglerPick_kept (a : Act) (w : BitVec 16) {s t : State} (h : execJugglerPick a w s = .next t) : Kept s t := by
  have h := Host.Outcome.next.inj h; subst h; exact jugglerPick_kept _ _ (Kept.refl s)

theorem execCmdEnable_kept {s t : State} (h : execCmdEnable s = .next t) : Kept s t := by
  have h := Host.Outcome.next.inj h; subst h; exact cmdEnableCmd_kept  (Kept.refl s)

theorem execFetchHold_kept (v : Bool) {s t : State} (h : execFetchHold v s = .next t) : Kept s t := by
  have h := Host.Outcome.next.inj h; subst h; exact fetchHold_kept _ (Kept.refl s)

theorem execHiwatClr_kept {s t : State} (h : execHiwatClr s = .next t) : Kept s t := by
  have h := Host.Outcome.next.inj h; subst h; exact hiwatClr_kept  (Kept.refl s)

end Sys2Proof.Machine
end

