-- ==== Sys2Proof/Laws/KeptBpf.lean ====
section
/-!
SUPPORT. Every operation of `Machine/Bpf.lean` keeps what `Kept` names.
-/

namespace Sys2Proof.Machine

set_option Elab.async false
set_option linter.unusedTactic false
set_option linter.unreachableTactic false
set_option linter.unusedVariables false

theorem State.runStore_kept {s₀ s : State} (r : Run) (adr : Nat) (bs : List Byte) (h : Kept s₀ s) {p : State × Run}
    (e : State.runStore s r adr bs = some p) : Kept s₀ p.1 := by
  unfold State.runStore at e
  split at e
  · cases e; exact State.memPut_kept _ _ _ h
  · split at e
    · cases e; exact h
    · cases e

theorem State.runMem_kept {s₀ : State} {s : State} (code : List Nat) (r : Run) (w : Nat) (hK : Kept s₀ s) :
    Kept s₀ (State.runMem s code r w).1 := by
  unfold State.runMem
  repeat' first
    | with_reducible assumption | with_reducible apply State.memTouch_kept
    | (rename_i heq; with_reducible refine State.runStore_kept _ _ _ ?_ heq) | intro _
    | with_reducible apply Kept.ite | split | dsimp only [id_eq] | simp only [Kept.mk]
    | (rename_i e; with_reducible refine Kept.of_eq e ?_)

theorem State.runOne_kept {s₀ : State} {s : State} (code : List Nat) (r : Run) (hK : Kept s₀ s) :
    Kept s₀ (State.runOne s code r).1 := by
  unfold State.runOne
  repeat' first
    | with_reducible assumption | with_reducible apply State.runMem_kept | intro _ | with_reducible apply Kept.ite
    | split | dsimp only [id_eq] | simp only [Kept.mk] | (rename_i e; with_reducible refine Kept.of_eq e ?_)

theorem State.runFor_kept {s₀ : State} (code : List Nat) (n : Nat) : ∀ {s : State} (r : Run), Kept s₀ s →
    Kept s₀ (State.runFor code n s r).1 := by
  induction n with
  | zero => intro s r h; exact h
  | succ n ih =>
    intro s r h
    have hk := State.runOne_kept code r h
    unfold State.runFor
    split
    · rename_i e
      rw [e] at hk
      exact ih _ hk
    · rename_i e
      rw [e] at hk
      exact hk

end Sys2Proof.Machine
end

