-- ==== Sys2Proof/Laws/KeptServices.lean ====
section
/-!
SUPPORT. Every operation of `Machine/Services.lean` keeps what `Kept` names.
-/

namespace Sys2Proof.Machine

set_option Elab.async false
set_option linter.unusedTactic false
set_option linter.unreachableTactic false
set_option linter.unusedVariables false

theorem State.packInto_kept {s₀ : State} {s : State} (nsid : Nat) (key : Nat) (bs : List Byte) (hK : Kept s₀ s) :
    Kept s₀ (State.packInto s nsid key bs).1 := by
  unfold State.packInto
  repeat' first
    | with_reducible assumption | with_reducible apply State.patchWrite_kept
    | with_reducible apply State.updStripe_kept | intro _ | with_reducible apply Kept.ite | split
    | dsimp only [id_eq] | simp only [Kept.mk] | (rename_i e; with_reducible refine Kept.of_eq e ?_)

theorem State.ownStripes_kept {s₀ : State} {s : State} (nsid : Nat) (key : Nat) (bs : List Byte) (hK : Kept s₀ s) :
    Kept s₀ (State.ownStripes s nsid key bs).1 := by
  unfold State.ownStripes
  repeat' first
    | with_reducible assumption | with_reducible apply State.showStripes_kept | with_reducible apply Kept.forAll
    | with_reducible apply State.patchWrite_kept | intro _ | with_reducible apply Kept.ite | split
    | dsimp only [id_eq] | simp only [Kept.mk] | (rename_i e; with_reducible refine Kept.of_eq e ?_)

theorem State.onKey_kept {s₀ : State} {s : State} (c : Cmd) (nsid : Nat) (key : List Byte) (f : Ns → State → State) (hK : Kept s₀ s) (hK_f : ∀ x0 u, Kept s₀ u → Kept s₀ (f x0 u)) :
    Kept s₀ (State.onKey s c nsid key f) := by
  unfold State.onKey
  repeat' first
    | with_reducible assumption | with_reducible apply State.onNs_kept | with_reducible apply State.answer_kept
    | with_reducible apply State.partRead_kept | with_reducible apply hK_f | intro _ | with_reducible apply Kept.ite
    | split | dsimp only [id_eq] | simp only [Kept.mk] | (rename_i e; with_reducible refine Kept.of_eq e ?_)

theorem State.kvShrink_kept {s₀ : State} {s : State} (was : State) (hK : Kept s₀ s) :
    Kept s₀ (State.kvShrink s was) := by
  unfold State.kvShrink
  repeat' first
    | with_reducible assumption | with_reducible apply Kept.forAll | with_reducible apply Kept.when
    | with_reducible apply State.reclaim_kept | intro _ | with_reducible apply Kept.ite | split | dsimp only [id_eq]
    | simp only [Kept.mk] | (rename_i e; with_reducible refine Kept.of_eq e ?_)

theorem State.kvTidy_kept {s₀ : State} {s : State} (was : State) (hK : Kept s₀ s) :
    Kept s₀ (State.kvTidy s was) := by
  unfold State.kvTidy
  repeat' first
    | with_reducible assumption | with_reducible apply State.kvShrink_kept
    | with_reducible apply State.tidyFrags_kept | with_reducible apply State.gcStripes_kept | intro _
    | with_reducible apply Kept.ite | split | dsimp only [id_eq] | simp only [Kept.mk]
    | (rename_i e; with_reducible refine Kept.of_eq e ?_)

theorem storeCmd_kept {s₀ : State} (id : CmdId) (nsid : BitVec 32) (key : List Byte) (value : List Byte) (ifExists : Bool) (ifNew : Bool) (fua : Bool) {s : State} (hK : Kept s₀ s) :
    Kept s₀ (storeCmd id nsid key value ifExists ifNew fua s) := by
  unfold storeCmd
  repeat' first
    | with_reducible assumption | with_reducible apply State.taking_kept | with_reducible apply State.onKey_kept
    | with_reducible apply State.finishWrite_kept | with_reducible apply State.kvTidy_kept
    | with_reducible apply State.answer_kept | with_reducible apply State.post_kept | with_reducible apply Kept.put
    | with_reducible apply State.ownStripes_kept | with_reducible apply State.kvSetOn_kept
    | (rename_i heq; with_reducible refine State.kvAlloc_kept _ _ _ ?_ heq)
    | with_reducible apply State.kvPlaceValue_kept | with_reducible apply State.kvSet_kept
    | with_reducible apply State.packInto_kept | with_reducible apply Kept.foldl | with_reducible apply Kept.foldlFst
    | intro _ | with_reducible apply Kept.ite | split | dsimp only [id_eq] | simp only [Kept.mk]
    | (rename_i e; with_reducible refine Kept.of_eq e ?_)

theorem retrieveCmd_kept {s₀ : State} (id : CmdId) (nsid : BitVec 32) (key : List Byte) {s : State} (hK : Kept s₀ s) :
    Kept s₀ (retrieveCmd id nsid key s) := by
  unfold retrieveCmd
  repeat' first
    | with_reducible assumption | with_reducible apply State.taking_kept | with_reducible apply State.onKey_kept
    | with_reducible apply State.answer_kept | with_reducible apply State.complete_kept
    | with_reducible apply State.queueJobs_kept | with_reducible apply State.updCmd_kept
    | with_reducible apply State.sendData_kept | with_reducible apply State.showStripes_kept
    | with_reducible apply State.count_kept | with_reducible apply Kept.forAll
    | with_reducible apply State.patchRead_kept | intro _ | with_reducible apply Kept.ite | split
    | dsimp only [id_eq] | simp only [Kept.mk] | (rename_i e; with_reducible refine Kept.of_eq e ?_)

theorem kvDelete_kept {s₀ : State} (id : CmdId) (nsid : BitVec 32) (key : List Byte) {s : State} (hK : Kept s₀ s) :
    Kept s₀ (kvDelete id nsid key s) := by
  unfold kvDelete
  repeat' first
    | with_reducible assumption | with_reducible apply State.taking_kept | with_reducible apply State.onKey_kept
    | with_reducible apply State.answer_kept | with_reducible apply State.finishWrite_kept
    | with_reducible apply State.kvTidy_kept | with_reducible apply State.kvSetOn_kept
    | with_reducible apply Kept.foldl | with_reducible apply Kept.foldlFst | intro _ | with_reducible apply Kept.ite
    | split | dsimp only [id_eq] | simp only [Kept.mk] | (rename_i e; with_reducible refine Kept.of_eq e ?_)

theorem existCmd_kept {s₀ : State} (id : CmdId) (nsid : BitVec 32) (key : List Byte) {s : State} (hK : Kept s₀ s) :
    Kept s₀ (existCmd id nsid key s) := by
  unfold existCmd
  repeat' first
    | with_reducible assumption | with_reducible apply State.taking_kept | with_reducible apply State.onKey_kept
    | with_reducible apply State.answer_kept | intro _ | with_reducible apply Kept.ite | split | dsimp only [id_eq]
    | simp only [Kept.mk] | (rename_i e; with_reducible refine Kept.of_eq e ?_)

theorem listCmd_kept {s₀ : State} (id : CmdId) (nsid : BitVec 32) (first : List Byte) {s : State} (hK : Kept s₀ s) :
    Kept s₀ (listCmd id nsid first s) := by
  unfold listCmd
  repeat' first
    | with_reducible assumption | with_reducible apply State.taking_kept | with_reducible apply State.onNs_kept
    | with_reducible apply State.answer_kept | with_reducible apply State.complete_kept | intro _
    | with_reducible apply Kept.ite | split | dsimp only [id_eq] | simp only [Kept.mk]
    | (rename_i e; with_reducible refine Kept.of_eq e ?_)

theorem State.flushNs_kept {s₀ : State} {s : State} (c : Cmd) (ns : List Nat) (hK : Kept s₀ s) :
    Kept s₀ (State.flushNs s c ns) := by
  unfold State.flushNs
  repeat' first
    | with_reducible assumption | with_reducible apply State.answer_kept | with_reducible apply Kept.forAll
    | with_reducible apply State.beginPoint_kept | with_reducible apply State.updCmd_kept | intro _
    | with_reducible apply Kept.ite | split | dsimp only [id_eq] | simp only [Kept.mk]
    | (rename_i e; with_reducible refine Kept.of_eq e ?_)

theorem flushCmd_kept {s₀ : State} (id : CmdId) (nsid : BitVec 32) {s : State} (hK : Kept s₀ s) :
    Kept s₀ (flushCmd id nsid s) := by
  unfold flushCmd
  repeat' first
    | with_reducible assumption | with_reducible apply State.taking_kept | with_reducible apply State.answer_kept
    | with_reducible apply State.flushNs_kept | with_reducible apply State.onNs_kept | intro _
    | with_reducible apply Kept.ite | split | dsimp only [id_eq] | simp only [Kept.mk]
    | (rename_i e; with_reducible refine Kept.of_eq e ?_)

theorem State.onCore_kept {s₀ : State} {s : State} (c : Cmd) (nsid : Nat) (f : Nat → State → State) (hK : Kept s₀ s) (hK_f : ∀ x0 u, Kept s₀ u → Kept s₀ (f x0 u)) :
    Kept s₀ (State.onCore s c nsid f) := by
  unfold State.onCore
  repeat' first
    | with_reducible assumption | with_reducible apply State.answer_kept | with_reducible apply hK_f | intro _
    | with_reducible apply Kept.ite | split | dsimp only [id_eq] | simp only [Kept.mk]
    | (rename_i e; with_reducible refine Kept.of_eq e ?_)

theorem loadProgram_kept {s₀ : State} (id : CmdId) (nsid : BitVec 32) (slot : BitVec 8) (ptype : BitVec 8) (image : List (BitVec 64)) {s : State} (hK : Kept s₀ s) :
    Kept s₀ (loadProgram id nsid slot ptype image s) := by
  unfold loadProgram
  repeat' first
    | with_reducible assumption | with_reducible apply State.admin_kept | with_reducible apply State.onCore_kept
    | with_reducible apply State.answer_kept | with_reducible apply State.post_kept | intro _
    | with_reducible apply Kept.ite | split | dsimp only [id_eq] | simp only [Kept.mk]
    | (rename_i e; with_reducible refine Kept.of_eq e ?_)

theorem programActivation_kept {s₀ : State} (id : CmdId) (nsid : BitVec 32) (slot : BitVec 8) (activate : Bool) {s : State} (hK : Kept s₀ s) :
    Kept s₀ (programActivation id nsid slot activate s) := by
  unfold programActivation
  repeat' first
    | with_reducible assumption | with_reducible apply State.admin_kept | with_reducible apply State.onCore_kept
    | with_reducible apply State.answer_kept | with_reducible apply Kept.when | with_reducible apply State.post_kept
    | intro _ | with_reducible apply Kept.ite | split | dsimp only [id_eq] | simp only [Kept.mk]
    | (rename_i e; with_reducible refine Kept.of_eq e ?_)

theorem State.runOut_kept {s₀ : State} (core : Nat) {x : State × Run × RunEnd} (hK : Kept s₀ x.1) :
    Kept s₀ (State.runOut core x) := by
  unfold State.runOut
  repeat' first
    | with_reducible assumption | with_reducible apply Kept.put | with_reducible apply State.complete_kept
    | with_reducible apply State.answer_kept | with_reducible apply State.post_kept
    | with_reducible apply State.evt_kept | with_reducible apply State.count_kept | intro _
    | with_reducible apply Kept.ite | split | dsimp only [id_eq] | simp only [Kept.mk]
    | (rename_i e; with_reducible refine Kept.of_eq e ?_)

theorem State.runOn_kept {s₀ : State} {s : State} (core : Nat) (r : Run) (hK : Kept s₀ s) :
    Kept s₀ (State.runOn s core r) := by
  unfold State.runOn
  repeat' first
    | with_reducible assumption | with_reducible apply State.runOut_kept | with_reducible apply State.runFor_kept
    | intro _ | with_reducible apply Kept.ite | split | dsimp only [id_eq] | simp only [Kept.mk]
    | (rename_i e; with_reducible refine Kept.of_eq e ?_)

theorem executeProgram_kept {s₀ : State} (id : CmdId) (nsid : BitVec 32) (slot : BitVec 8) (rset : BitVec 8) (dw12 : BitVec 32) (dw13 : BitVec 32) (dw14 : BitVec 32) (dw15 : BitVec 32) {s : State} (hK : Kept s₀ s) :
    Kept s₀ (executeProgram id nsid slot rset dw12 dw13 dw14 dw15 s) := by
  unfold executeProgram
  repeat' first
    | with_reducible assumption | with_reducible apply State.taking_kept | with_reducible apply State.onCore_kept
    | with_reducible apply State.updCmd_kept | with_reducible apply State.answer_kept
    | with_reducible apply State.runOn_kept | intro _ | with_reducible apply Kept.ite | split | dsimp only [id_eq]
    | simp only [Kept.mk] | (rename_i e; with_reducible refine Kept.of_eq e ?_)

theorem State.helperDo_kept {s₀ : State} {s : State} (core : Nat) (n : Nat) (f : Run → State → State × Option Nat) (hK : Kept s₀ s) (hK_f : ∀ x0 u, Kept s₀ u → Kept s₀ (f x0 u).1) :
    Kept s₀ (State.helperDo s core n f) := by
  unfold State.helperDo
  repeat' first
    | with_reducible assumption | with_reducible apply State.runOn_kept | with_reducible apply hK_f | intro _
    | with_reducible apply Kept.ite | split | dsimp only [id_eq] | simp only [Kept.mk]
    | (rename_i e; with_reducible refine Kept.of_eq e ?_)

theorem State.helperOut_kept {s₀ : State} {s : State} (r : Run) (dst : Nat) (room : Nat) (out : List Byte) (hK : Kept s₀ s) :
    Kept s₀ (State.helperOut s r dst room out).1 := by
  unfold State.helperOut
  repeat' first
    | with_reducible assumption | with_reducible apply State.memPut_kept | intro _ | with_reducible apply Kept.ite
    | split | dsimp only [id_eq] | simp only [Kept.mk] | (rename_i e; with_reducible refine Kept.of_eq e ?_)

theorem helperCopy_kept {s₀ : State} (core : Fin 8) {s : State} (hK : Kept s₀ s) :
    Kept s₀ (helperCopy core s) := by
  unfold helperCopy
  repeat' first
    | with_reducible assumption | with_reducible apply State.helperDo_kept
    | with_reducible apply State.helperOut_kept | with_reducible apply State.memTouch_kept | intro _
    | with_reducible apply Kept.ite | split | dsimp only [id_eq] | simp only [Kept.mk]
    | (rename_i e; with_reducible refine Kept.of_eq e ?_)

theorem helperZcomp_kept {s₀ : State} (core : Fin 8) {s : State} (hK : Kept s₀ s) :
    Kept s₀ (helperZcomp core s) := by
  unfold helperZcomp
  repeat' first
    | with_reducible assumption | with_reducible apply State.helperDo_kept
    | with_reducible apply State.helperOut_kept | with_reducible apply State.memTouch_kept | intro _
    | with_reducible apply Kept.ite | split | dsimp only [id_eq] | simp only [Kept.mk]
    | (rename_i e; with_reducible refine Kept.of_eq e ?_)

theorem helperZdecomp_kept {s₀ : State} (core : Fin 8) {s : State} (hK : Kept s₀ s) :
    Kept s₀ (helperZdecomp core s) := by
  unfold helperZdecomp
  repeat' first
    | with_reducible assumption | with_reducible apply State.helperDo_kept
    | with_reducible apply State.helperOut_kept | with_reducible apply State.memTouch_kept | intro _
    | with_reducible apply Kept.ite | split | dsimp only [id_eq] | simp only [Kept.mk]
    | (rename_i e; with_reducible refine Kept.of_eq e ?_)

theorem helperSha256_kept {s₀ : State} (core : Fin 8) {s : State} (hK : Kept s₀ s) :
    Kept s₀ (helperSha256 core s) := by
  unfold helperSha256
  repeat' first
    | with_reducible assumption | with_reducible apply State.helperDo_kept
    | with_reducible apply State.helperOut_kept | with_reducible apply State.memTouch_kept | intro _
    | with_reducible apply Kept.ite | split | dsimp only [id_eq] | simp only [Kept.mk]
    | (rename_i e; with_reducible refine Kept.of_eq e ?_)

theorem helperCrc32c_kept {s₀ : State} (core : Fin 8) {s : State} (hK : Kept s₀ s) :
    Kept s₀ (helperCrc32c core s) := by
  unfold helperCrc32c
  repeat' first
    | with_reducible assumption | with_reducible apply State.helperDo_kept | with_reducible apply State.memTouch_kept
    | intro _ | with_reducible apply Kept.ite | split | dsimp only [id_eq] | simp only [Kept.mk]
    | (rename_i e; with_reducible refine Kept.of_eq e ?_)

theorem helperOpsec_kept {s₀ : State} (core : Fin 8) {s : State} (hK : Kept s₀ s) :
    Kept s₀ (helperOpsec core s) := by
  unfold helperOpsec
  repeat' first
    | with_reducible assumption | with_reducible apply State.helperDo_kept | intro _ | with_reducible apply Kept.ite
    | split | dsimp only [id_eq] | simp only [Kept.mk] | (rename_i e; with_reducible refine Kept.of_eq e ?_)

theorem State.onMem_kept {s₀ : State} {s : State} (c : Cmd) (nsid : Nat) (f : State → State) (hK : Kept s₀ s) (hK_f : ∀ u, Kept s₀ u → Kept s₀ (f u)) :
    Kept s₀ (State.onMem s c nsid f) := by
  unfold State.onMem
  repeat' first
    | with_reducible assumption | with_reducible apply State.answer_kept | with_reducible apply hK_f | intro _
    | with_reducible apply Kept.ite | split | dsimp only [id_eq] | simp only [Kept.mk]
    | (rename_i e; with_reducible refine Kept.of_eq e ?_)

theorem memoryRangeSet_kept {s₀ : State} (id : CmdId) (nsid : BitVec 32) (create : Bool) (rset : BitVec 16) (ranges : List (BitVec 64 × BitVec 64)) {s : State} (hK : Kept s₀ s) :
    Kept s₀ (memoryRangeSet id nsid create rset ranges s) := by
  unfold memoryRangeSet
  repeat' first
    | with_reducible assumption | with_reducible apply State.admin_kept | with_reducible apply State.onCore_kept
    | with_reducible apply State.answer_kept | with_reducible apply State.complete_kept | intro _
    | with_reducible apply Kept.ite | split | dsimp only [id_eq] | simp only [Kept.mk]
    | (rename_i e; with_reducible refine Kept.of_eq e ?_)

theorem memoryRead_kept {s₀ : State} (id : CmdId) (nsid : BitVec 32) (off : BitVec 64) (len : BitVec 32) {s : State} (hK : Kept s₀ s) :
    Kept s₀ (memoryRead id nsid off len s) := by
  unfold memoryRead
  repeat' first
    | with_reducible assumption | with_reducible apply State.taking_kept | with_reducible apply State.onMem_kept
    | with_reducible apply State.answer_kept | with_reducible apply State.complete_kept
    | with_reducible apply State.memTouch_kept | intro _ | with_reducible apply Kept.ite | split | dsimp only [id_eq]
    | simp only [Kept.mk] | (rename_i e; with_reducible refine Kept.of_eq e ?_)

theorem memoryWrite_kept {s₀ : State} (id : CmdId) (nsid : BitVec 32) (off : BitVec 64) (data : List Byte) {s : State} (hK : Kept s₀ s) :
    Kept s₀ (memoryWrite id nsid off data s) := by
  unfold memoryWrite
  repeat' first
    | with_reducible assumption | with_reducible apply State.taking_kept | with_reducible apply State.onMem_kept
    | with_reducible apply State.answer_kept | with_reducible apply State.memPut_kept | intro _
    | with_reducible apply Kept.ite | split | dsimp only [id_eq] | simp only [Kept.mk]
    | (rename_i e; with_reducible refine Kept.of_eq e ?_)

theorem memoryCopy_kept {s₀ : State} (id : CmdId) (nsid : BitVec 32) (dst : BitVec 64) (srcs : List CopySrc) {s : State} (hK : Kept s₀ s) :
    Kept s₀ (memoryCopy id nsid dst srcs s) := by
  unfold memoryCopy
  repeat' first
    | with_reducible assumption | with_reducible apply State.taking_kept | with_reducible apply State.onMem_kept
    | with_reducible apply State.answer_kept | with_reducible apply State.updCmd_kept
    | with_reducible apply State.copyDone_kept | with_reducible apply State.queueJobs_kept
    | with_reducible apply Kept.foldl | with_reducible apply Kept.foldlFst | intro _ | with_reducible apply Kept.ite
    | split | dsimp only [id_eq] | simp only [Kept.mk] | (rename_i e; with_reducible refine Kept.of_eq e ?_)

theorem State.truEnable_kept {s₀ : State} {s : State} (defaultsOk : Bool) (hK : Kept s₀ s) :
    Kept s₀ (State.truEnable s defaultsOk).1 := by
  unfold State.truEnable
  repeat' first
    | with_reducible assumption | with_reducible apply State.enable_kept | intro _ | with_reducible apply Kept.ite
    | split | dsimp only [id_eq] | simp only [Kept.mk] | (rename_i e; with_reducible refine Kept.of_eq e ?_)

theorem truEnableCmd_kept {s₀ : State} (defaultsOk : Bool) {s : State} (hK : Kept s₀ s) :
    Kept s₀ (truEnableCmd defaultsOk s) := by
  unfold truEnableCmd
  repeat' first
    | with_reducible assumption | with_reducible apply State.truEnable_kept | intro _ | with_reducible apply Kept.ite
    | split | dsimp only [id_eq] | simp only [Kept.mk] | (rename_i e; with_reducible refine Kept.of_eq e ?_)

theorem State.showGroup_kept {s₀ : State} {s : State} (hK : Kept s₀ s) :
    Kept s₀ (State.showGroup s) := by
  unfold State.showGroup
  repeat' first
    | with_reducible assumption | with_reducible apply State.showStripes_kept | with_reducible apply State.puts_kept
    | intro _ | with_reducible apply Kept.ite | split | dsimp only [id_eq] | simp only [Kept.mk]
    | (rename_i e; with_reducible refine Kept.of_eq e ?_)

theorem State.fragNs_kept {s₀ s : State} (h : Kept s₀ s) : Kept s₀ (s.fragNs.getD s) := by
  cases e : s.fragNs with
  | none => exact h
  | some t =>
    unfold State.fragNs at e
    dsimp only at e
    split at e
    · cases e; exact h
    · obtain ⟨n, _, e⟩ := Option.bind_eq_some_iff.mp e
      split at e
      · obtain ⟨x, _, rfl⟩ := Option.map_eq_some_iff.mp e
        exact State.setNs_kept _ _ (State.makeNs_kept _ _ _ _ h)
      · cases e

theorem State.pwkAct_kept {s₀ : State} {s : State} (hK : Kept s₀ s) :
    Kept s₀ (State.pwkAct s).1 := by
  unfold State.pwkAct
  repeat' first
    | with_reducible assumption | with_reducible apply State.enable_kept | with_reducible apply State.fragNs_kept
    | with_reducible apply State.showGroup_kept | intro _ | with_reducible apply Kept.ite | split
    | dsimp only [id_eq] | simp only [Kept.mk] | (rename_i e; with_reducible refine Kept.of_eq e ?_)

theorem pwkActCmd_kept {s₀ : State} {s : State} (hK : Kept s₀ s) :
    Kept s₀ (pwkActCmd s) := by
  unfold pwkActCmd
  repeat' first
    | with_reducible assumption | with_reducible apply State.pwkAct_kept | intro _ | with_reducible apply Kept.ite
    | split | dsimp only [id_eq] | simp only [Kept.mk] | (rename_i e; with_reducible refine Kept.of_eq e ?_)

theorem State.pwkClear_kept {s₀ : State} {s : State} (hK : Kept s₀ s) :
    Kept s₀ (State.pwkClear s).1 := by
  unfold State.pwkClear
  repeat' first
    | with_reducible assumption | with_reducible apply State.showGroup_kept | with_reducible apply Kept.put | intro _
    | with_reducible apply Kept.ite | split | dsimp only [id_eq] | simp only [Kept.mk]
    | (rename_i e; with_reducible refine Kept.of_eq e ?_)

theorem State.discover_kept {s₀ : State} {s : State} (x : Found) (hK : Kept s₀ s) :
    Kept s₀ (State.discover s x) := by
  unfold State.discover
  repeat' first
    | with_reducible assumption | with_reducible apply State.post_kept | with_reducible apply State.evt_kept
    | with_reducible apply State.showGroup_kept | intro _ | with_reducible apply Kept.ite | split
    | dsimp only [id_eq] | simp only [Kept.mk] | (rename_i e; with_reducible refine Kept.of_eq e ?_)

theorem discoveryPoll_kept {s₀ : State} (log : List Found) {s : State} (hK : Kept s₀ s) :
    Kept s₀ (discoveryPoll log s) := by
  unfold discoveryPoll
  repeat' first
    | with_reducible assumption | with_reducible apply State.stepEnd_kept | with_reducible apply Kept.forAll
    | with_reducible apply State.discover_kept | intro _ | with_reducible apply Kept.ite | split | dsimp only [id_eq]
    | simp only [Kept.mk] | (rename_i e; with_reducible refine Kept.of_eq e ?_)

theorem discoveryChange_kept {s₀ : State} (log : List Found) {s : State} (hK : Kept s₀ s) :
    Kept s₀ (discoveryChange log s) := by
  unfold discoveryChange
  repeat' first
    | with_reducible assumption | with_reducible apply Kept.forAll | with_reducible apply State.discover_kept
    | intro _ | with_reducible apply Kept.ite | split | dsimp only [id_eq] | simp only [Kept.mk]
    | (rename_i e; with_reducible refine Kept.of_eq e ?_)

theorem candidateRetry_kept {s₀ : State} (x : Found) {s : State} (hK : Kept s₀ s) :
    Kept s₀ (candidateRetry x s) := by
  unfold candidateRetry
  repeat' first
    | with_reducible assumption | with_reducible apply State.discover_kept | intro _ | with_reducible apply Kept.ite
    | split | dsimp only [id_eq] | simp only [Kept.mk] | (rename_i e; with_reducible refine Kept.of_eq e ?_)

theorem peerTimeout_kept {s₀ : State} (sn : List Byte) {s : State} (hK : Kept s₀ s) :
    Kept s₀ (peerTimeout sn s) := by
  unfold peerTimeout
  repeat' first
    | with_reducible assumption | with_reducible apply State.showGroup_kept | with_reducible apply State.post_kept
    | with_reducible apply State.evt_kept | intro _ | with_reducible apply Kept.ite | split | dsimp only [id_eq]
    | simp only [Kept.mk] | (rename_i e; with_reducible refine Kept.of_eq e ?_)

theorem State.propose_kept {s₀ : State} {s : State} (ms : List (List Byte)) (hK : Kept s₀ s) :
    Kept s₀ (State.propose s ms) := by
  unfold State.propose
  repeat' first
    | with_reducible assumption | with_reducible apply State.showGroup_kept | with_reducible apply Kept.put | intro _
    | with_reducible apply Kept.ite | split | dsimp only [id_eq] | simp only [Kept.mk]
    | (rename_i e; with_reducible refine Kept.of_eq e ?_)

theorem epochPropose_kept {s₀ : State} {s : State} (hK : Kept s₀ s) :
    Kept s₀ (epochPropose s) := by
  unfold epochPropose
  repeat' first
    | with_reducible assumption | with_reducible apply State.propose_kept | intro _ | with_reducible apply Kept.ite
    | split | dsimp only [id_eq] | simp only [Kept.mk] | (rename_i e; with_reducible refine Kept.of_eq e ?_)

theorem epochRepropose_kept {s₀ : State} {s : State} (hK : Kept s₀ s) :
    Kept s₀ (epochRepropose s) := by
  unfold epochRepropose
  repeat' first
    | with_reducible assumption | with_reducible apply State.propose_kept | intro _ | with_reducible apply Kept.ite
    | split | dsimp only [id_eq] | simp only [Kept.mk] | (rename_i e; with_reducible refine Kept.of_eq e ?_)

theorem proposalReceive_kept {s₀ : State} (e : BitVec 32) (ms : List (List Byte)) {s : State} (hK : Kept s₀ s) :
    Kept s₀ (proposalReceive e ms s) := by
  unfold proposalReceive
  repeat' first
    | with_reducible assumption | with_reducible apply State.showGroup_kept | with_reducible apply Kept.put | intro _
    | with_reducible apply Kept.ite | split | dsimp only [id_eq] | simp only [Kept.mk]
    | (rename_i e; with_reducible refine Kept.of_eq e ?_)

theorem State.replaceFrag_kept {s₀ : State} {s : State} (no : Nat) (i : Nat) (hK : Kept s₀ s) :
    Kept s₀ (State.replaceFrag s no i) := by
  unfold State.replaceFrag
  repeat' first
    | with_reducible assumption | with_reducible apply State.updStripe_kept | intro _ | with_reducible apply Kept.ite
    | split | dsimp only [id_eq] | simp only [Kept.mk] | (rename_i e; with_reducible refine Kept.of_eq e ?_)

theorem State.settleStripe_kept {s₀ : State} {s : State} (no : Nat) (hK : Kept s₀ s) :
    Kept s₀ (State.settleStripe s no) := by
  unfold State.settleStripe
  repeat' first
    | with_reducible assumption | with_reducible apply Kept.when | with_reducible apply State.updStripe_kept
    | with_reducible apply Kept.forAll | with_reducible apply State.kvDurable_kept
    | with_reducible apply State.showStripes_kept | with_reducible apply State.cmdPart_kept | intro _
    | with_reducible apply Kept.ite | split | dsimp only [id_eq] | simp only [Kept.mk]
    | (rename_i e; with_reducible refine Kept.of_eq e ?_)

theorem State.commitEpoch_kept {s₀ : State} {s : State} (e : Nat) (ms : List (List Byte)) (hK : Kept s₀ s) :
    Kept s₀ (State.commitEpoch s e ms) := by
  unfold State.commitEpoch
  repeat' first
    | with_reducible assumption | with_reducible apply State.post_kept | with_reducible apply State.evt_kept
    | with_reducible apply State.count_kept | with_reducible apply Kept.put | with_reducible apply Kept.forAll
    | with_reducible apply State.settleStripe_kept | with_reducible apply State.replaceFrag_kept
    | with_reducible apply Kept.when | with_reducible apply State.puts_kept
    | with_reducible apply State.showGroup_kept | intro _ | with_reducible apply Kept.ite | split
    | dsimp only [id_eq] | simp only [Kept.mk] | (rename_i e; with_reducible refine Kept.of_eq e ?_)

theorem proposalAck_kept {s₀ : State} (e : BitVec 32) (sn : List Byte) {s : State} (hK : Kept s₀ s) :
    Kept s₀ (proposalAck e sn s) := by
  unfold proposalAck
  repeat' first
    | with_reducible assumption | with_reducible apply State.commitEpoch_kept | intro _
    | with_reducible apply Kept.ite | split | dsimp only [id_eq] | simp only [Kept.mk]
    | (rename_i e; with_reducible refine Kept.of_eq e ?_)

theorem epochCommitReceive_kept {s₀ : State} (e : BitVec 32) {s : State} (hK : Kept s₀ s) :
    Kept s₀ (epochCommitReceive e s) := by
  unfold epochCommitReceive
  repeat' first
    | with_reducible assumption | with_reducible apply State.commitEpoch_kept | intro _
    | with_reducible apply Kept.ite | split | dsimp only [id_eq] | simp only [Kept.mk]
    | (rename_i e; with_reducible refine Kept.of_eq e ?_)

theorem proposalVoid_kept {s₀ : State} {s : State} (hK : Kept s₀ s) :
    Kept s₀ (proposalVoid s) := by
  unfold proposalVoid
  repeat' first
    | with_reducible assumption | with_reducible apply State.showGroup_kept | intro _ | with_reducible apply Kept.ite
    | split | dsimp only [id_eq] | simp only [Kept.mk] | (rename_i e; with_reducible refine Kept.of_eq e ?_)

theorem fragmentAck_kept {s₀ : State} (no : Nat) (i : Fin 32) (ok : Bool) {s : State} (hK : Kept s₀ s) :
    Kept s₀ (fragmentAck no i ok s) := by
  unfold fragmentAck
  repeat' first
    | with_reducible assumption | with_reducible apply State.settleStripe_kept
    | with_reducible apply State.updStripe_kept | with_reducible apply State.patchRead_kept
    | with_reducible apply State.replaceFrag_kept | intro _ | with_reducible apply Kept.ite | split
    | dsimp only [id_eq] | simp only [Kept.mk] | (rename_i e; with_reducible refine Kept.of_eq e ?_)

theorem State.rung6Ends_kept {s₀ : State} {s : State} (j : Job) (ok : Bool) (hK : Kept s₀ s) :
    Kept s₀ (State.rung6Ends s j ok) := by
  unfold State.rung6Ends
  repeat' first
    | with_reducible assumption | with_reducible apply Kept.when | with_reducible apply State.weakTrack_kept
    | with_reducible apply State.failQueued_kept | with_reducible apply Kept.put | intro _
    | with_reducible apply Kept.ite | split | dsimp only [id_eq] | simp only [Kept.mk]
    | (rename_i e; with_reducible refine Kept.of_eq e ?_)

theorem fragmentTimeout_kept {s₀ : State} (no : Nat) (i : Fin 32) (bad : Bool) (mismatch : Bool) {s : State} (hK : Kept s₀ s) :
    Kept s₀ (fragmentTimeout no i bad mismatch s) := by
  unfold fragmentTimeout
  repeat' first
    | with_reducible assumption | with_reducible apply Kept.when | with_reducible apply State.post_kept
    | with_reducible apply State.updStripe_kept | with_reducible apply State.count_kept
    | with_reducible apply State.patchRead_kept | with_reducible apply State.showStripes_kept
    | with_reducible apply State.tidyFrags_kept | with_reducible apply Kept.forAll
    | with_reducible apply State.rung6Ends_kept | intro _ | with_reducible apply Kept.ite | split
    | dsimp only [id_eq] | simp only [Kept.mk] | (rename_i e; with_reducible refine Kept.of_eq e ?_)

theorem rebuildFragment_kept {s₀ : State} (ok : Bool) {s : State} (hK : Kept s₀ s) :
    Kept s₀ (rebuildFragment ok s) := by
  unfold rebuildFragment
  repeat' first
    | with_reducible assumption | with_reducible apply State.showStripes_kept
    | with_reducible apply State.tidyFrags_kept | with_reducible apply State.bump_kept
    | with_reducible apply State.count_kept | with_reducible apply State.updStripe_kept
    | with_reducible apply State.patchRead_kept | with_reducible apply Kept.put
    | with_reducible apply State.post_kept | with_reducible apply State.evt_kept | intro _
    | with_reducible apply Kept.ite | split | dsimp only [id_eq] | simp only [Kept.mk]
    | (rename_i e; with_reducible refine Kept.of_eq e ?_)

theorem State.failEntry_kept {s₀ : State} {s : State} (nsid : Nat) (key : Nat) (idx : Nat) (hK : Kept s₀ s) :
    Kept s₀ (State.failEntry s nsid key idx) := by
  unfold State.failEntry
  repeat' first
    | with_reducible assumption | with_reducible apply State.post_kept | with_reducible apply State.evt_kept
    | with_reducible apply State.count_kept | intro _ | with_reducible apply Kept.ite | split | dsimp only [id_eq]
    | simp only [Kept.mk] | (rename_i e; with_reducible refine Kept.of_eq e ?_)

theorem State.loseBlock_kept {s₀ : State} {s : State} (x : Nat × Nat) (hK : Kept s₀ s) :
    Kept s₀ (State.loseBlock s x) := by
  unfold State.loseBlock
  repeat' first
    | with_reducible assumption | with_reducible apply State.stage_kept | intro _ | with_reducible apply Kept.ite
    | split | dsimp only [id_eq] | simp only [Kept.mk] | (rename_i e; with_reducible refine Kept.of_eq e ?_)

theorem State.imageAgain_kept {s₀ : State} {s : State} (adr : Nat) (hK : Kept s₀ s) :
    Kept s₀ (State.imageAgain s adr) := by
  unfold State.imageAgain
  repeat' first
    | with_reducible assumption | with_reducible apply State.fwPages_kept | intro _ | with_reducible apply Kept.ite
    | split | dsimp only [id_eq] | simp only [Kept.mk] | (rename_i e; with_reducible refine Kept.of_eq e ?_)

theorem hbmUncorrectable_kept {s₀ : State} (k : Fin 2) (adr : BitVec 35) (cls : Fin 16) (blocks : List (Nat × Nat)) (a : Act) (entry : Nat × List Byte × Nat) {s : State} (hK : Kept s₀ s) :
    Kept s₀ (hbmUncorrectable k adr cls blocks a entry s) := by
  unfold hbmUncorrectable
  repeat' first
    | with_reducible assumption | with_reducible apply State.puts_kept | with_reducible apply State.count_kept
    | with_reducible apply State.evt_kept | with_reducible apply State.post_kept | with_reducible apply Kept.forAll
    | with_reducible apply State.loseBlock_kept | with_reducible apply State.refreshAct_kept
    | with_reducible apply Kept.put | with_reducible apply State.failEntry_kept
    | with_reducible apply State.imageAgain_kept | intro _ | with_reducible apply Kept.ite | split
    | dsimp only [id_eq] | simp only [Kept.mk] | (rename_i e; with_reducible refine Kept.of_eq e ?_)

theorem execFlush_kept (id : CmdId) (nsid : BitVec 32) {s t : State} (h : execFlush id nsid s = .next t) : Kept s t := by
  have h := Host.Outcome.next.inj h; subst h; exact flushCmd_kept _ _ (Kept.refl s)

theorem execStore_kept (id : CmdId) (nsid : BitVec 32) (key : List Byte) (value : List Byte) (ifExists : Bool) (ifNew : Bool) (fua : Bool) {s t : State} (h : execStore id nsid key value ifExists ifNew fua s = .next t) : Kept s t := by
  have h := Host.Outcome.next.inj h; subst h; exact storeCmd_kept _ _ _ _ _ _ _ (Kept.refl s)

theorem execRetrieve_kept (id : CmdId) (nsid : BitVec 32) (key : List Byte) {s t : State} (h : execRetrieve id nsid key s = .next t) : Kept s t := by
  have h := Host.Outcome.next.inj h; subst h; exact retrieveCmd_kept _ _ _ (Kept.refl s)

theorem execKvDelete_kept (id : CmdId) (nsid : BitVec 32) (key : List Byte) {s t : State} (h : execKvDelete id nsid key s = .next t) : Kept s t := by
  have h := Host.Outcome.next.inj h; subst h; exact kvDelete_kept _ _ _ (Kept.refl s)

theorem execExist_kept (id : CmdId) (nsid : BitVec 32) (key : List Byte) {s t : State} (h : execExist id nsid key s = .next t) : Kept s t := by
  have h := Host.Outcome.next.inj h; subst h; exact existCmd_kept _ _ _ (Kept.refl s)

theorem execList_kept (id : CmdId) (nsid : BitVec 32) (first : List Byte) {s t : State} (h : execList id nsid first s = .next t) : Kept s t := by
  have h := Host.Outcome.next.inj h; subst h; exact listCmd_kept _ _ _ (Kept.refl s)

theorem execLoadProgram_kept (id : CmdId) (nsid : BitVec 32) (slot : BitVec 8) (ptype : BitVec 8) (image : List (BitVec 64)) {s t : State} (h : execLoadProgram id nsid slot ptype image s = .next t) : Kept s t := by
  have h := Host.Outcome.next.inj h; subst h; exact loadProgram_kept _ _ _ _ _ (Kept.refl s)

theorem execProgramActivationManagement_kept (id : CmdId) (nsid : BitVec 32) (slot : BitVec 8) (activate : Bool) {s t : State} (h : execProgramActivationManagement id nsid slot activate s = .next t) : Kept s t := by
  have h := Host.Outcome.next.inj h; subst h; exact programActivation_kept _ _ _ _ (Kept.refl s)

theorem execExecuteProgram_kept (id : CmdId) (nsid : BitVec 32) (slot : BitVec 8) (rset : BitVec 8) (dw12 : BitVec 32) (dw13 : BitVec 32) (dw14 : BitVec 32) (dw15 : BitVec 32) {s t : State} (h : execExecuteProgram id nsid slot rset dw12 dw13 dw14 dw15 s = .next t) : Kept s t := by
  have h := Host.Outcome.next.inj h; subst h; exact executeProgram_kept _ _ _ _ _ _ _ _ (Kept.refl s)

theorem execHelperCopy_kept (core : Fin 8) {s t : State} (h : execHelperCopy core s = .next t) : Kept s t := by
  have h := Host.Outcome.next.inj h; subst h; exact helperCopy_kept _ (Kept.refl s)

theorem execHelperZcomp_kept (core : Fin 8) {s t : State} (h : execHelperZcomp core s = .next t) : Kept s t := by
  have h := Host.Outcome.next.inj h; subst h; exact helperZcomp_kept _ (Kept.refl s)

theorem execHelperZdecomp_kept (core : Fin 8) {s t : State} (h : execHelperZdecomp core s = .next t) : Kept s t := by
  have h := Host.Outcome.next.inj h; subst h; exact helperZdecomp_kept _ (Kept.refl s)

theorem execHelperSha256_kept (core : Fin 8) {s t : State} (h : execHelperSha256 core s = .next t) : Kept s t := by
  have h := Host.Outcome.next.inj h; subst h; exact helperSha256_kept _ (Kept.refl s)

theorem execHelperCrc32c_kept (core : Fin 8) {s t : State} (h : execHelperCrc32c core s = .next t) : Kept s t := by
  have h := Host.Outcome.next.inj h; subst h; exact helperCrc32c_kept _ (Kept.refl s)

theorem execHelperOpsec_kept (core : Fin 8) {s t : State} (h : execHelperOpsec core s = .next t) : Kept s t := by
  have h := Host.Outcome.next.inj h; subst h; exact helperOpsec_kept _ (Kept.refl s)

theorem execMemoryRangeSetManagement_kept (id : CmdId) (nsid : BitVec 32) (create : Bool) (rset : BitVec 16) (ranges : List (BitVec 64 × BitVec 64)) {s t : State} (h : execMemoryRangeSetManagement id nsid create rset ranges s = .next t) : Kept s t := by
  have h := Host.Outcome.next.inj h; subst h; exact memoryRangeSet_kept _ _ _ _ _ (Kept.refl s)

theorem execMemoryCopy_kept (id : CmdId) (nsid : BitVec 32) (dst : BitVec 64) (srcs : List CopySrc) {s t : State} (h : execMemoryCopy id nsid dst srcs s = .next t) : Kept s t := by
  have h := Host.Outcome.next.inj h; subst h; exact memoryCopy_kept _ _ _ _ (Kept.refl s)

theorem execMemoryRead_kept (id : CmdId) (nsid : BitVec 32) (off : BitVec 64) (len : BitVec 32) {s t : State} (h : execMemoryRead id nsid off len s = .next t) : Kept s t := by
  have h := Host.Outcome.next.inj h; subst h; exact memoryRead_kept _ _ _ _ (Kept.refl s)

theorem execMemoryWrite_kept (id : CmdId) (nsid : BitVec 32) (off : BitVec 64) (data : List Byte) {s t : State} (h : execMemoryWrite id nsid off data s = .next t) : Kept s t := by
  have h := Host.Outcome.next.inj h; subst h; exact memoryWrite_kept _ _ _ _ (Kept.refl s)

theorem execTruEnable_kept (defaultsOk : Bool) {s t : State} (h : execTruEnable defaultsOk s = .next t) : Kept s t := by
  have h := Host.Outcome.next.inj h; subst h; exact truEnableCmd_kept _ (Kept.refl s)

theorem execPwkAct_kept {s t : State} (h : execPwkAct s = .next t) : Kept s t := by
  have h := Host.Outcome.next.inj h; subst h; exact pwkActCmd_kept  (Kept.refl s)

theorem execDiscoveryPoll_kept (log : List Found) {s t : State} (h : execDiscoveryPoll log s = .next t) : Kept s t := by
  have h := Host.Outcome.next.inj h; subst h; exact discoveryPoll_kept _ (Kept.refl s)

theorem execDiscoveryLogPageChange_kept (log : List Found) {s t : State} (h : execDiscoveryLogPageChange log s = .next t) : Kept s t := by
  have h := Host.Outcome.next.inj h; subst h; exact discoveryChange_kept _ (Kept.refl s)

theorem execCandidateAuthRetry_kept (x : Found) {s t : State} (h : execCandidateAuthRetry x s = .next t) : Kept s t := by
  have h := Host.Outcome.next.inj h; subst h; exact candidateRetry_kept _ (Kept.refl s)

theorem execPeerTimeout_kept (sn : List Byte) {s t : State} (h : execPeerTimeout sn s = .next t) : Kept s t := by
  have h := Host.Outcome.next.inj h; subst h; exact peerTimeout_kept _ (Kept.refl s)

theorem execEpochPropose_kept {s t : State} (h : execEpochPropose s = .next t) : Kept s t := by
  have h := Host.Outcome.next.inj h; subst h; exact epochPropose_kept  (Kept.refl s)

theorem execProposalReceive_kept (e : BitVec 32) (ms : List (List Byte)) {s t : State} (h : execProposalReceive e ms s = .next t) : Kept s t := by
  have h := Host.Outcome.next.inj h; subst h; exact proposalReceive_kept _ _ (Kept.refl s)

theorem execProposalAckReceive_kept (e : BitVec 32) (sn : List Byte) {s t : State} (h : execProposalAckReceive e sn s = .next t) : Kept s t := by
  have h := Host.Outcome.next.inj h; subst h; exact proposalAck_kept _ _ (Kept.refl s)

theorem execEpochCommitReceive_kept (e : BitVec 32) {s t : State} (h : execEpochCommitReceive e s = .next t) : Kept s t := by
  have h := Host.Outcome.next.inj h; subst h; exact epochCommitReceive_kept _ (Kept.refl s)

theorem execProposalVoid_kept {s t : State} (h : execProposalVoid s = .next t) : Kept s t := by
  have h := Host.Outcome.next.inj h; subst h; exact proposalVoid_kept  (Kept.refl s)

theorem execEpochRepropose_kept {s t : State} (h : execEpochRepropose s = .next t) : Kept s t := by
  have h := Host.Outcome.next.inj h; subst h; exact epochRepropose_kept  (Kept.refl s)

theorem execFragmentStoreAck_kept (no : Nat) (frag : Fin 32) (ok : Bool) {s t : State} (h : execFragmentStoreAck no frag ok s = .next t) : Kept s t := by
  have h := Host.Outcome.next.inj h; subst h; exact fragmentAck_kept _ _ _ (Kept.refl s)

theorem execFragmentTimeout_kept (no : Nat) (frag : Fin 32) (bad : Bool) (mismatch : Bool) {s t : State} (h : execFragmentTimeout no frag bad mismatch s = .next t) : Kept s t := by
  have h := Host.Outcome.next.inj h; subst h; exact fragmentTimeout_kept _ _ _ _ (Kept.refl s)

theorem execRebuildFragment_kept (ok : Bool) {s t : State} (h : execRebuildFragment ok s = .next t) : Kept s t := by
  have h := Host.Outcome.next.inj h; subst h; exact rebuildFragment_kept _ (Kept.refl s)

theorem execHbmUncorrectable_kept (k : Fin 2) (adr : BitVec 35) (cls : Fin 16) (blocks : List (Nat × Nat)) (a : Act) (entry : Nat × List Byte × Nat) {s t : State} (h : execHbmUncorrectable k adr cls blocks a entry s = .next t) : Kept s t := by
  have h := Host.Outcome.next.inj h; subst h; exact hbmUncorrectable_kept _ _ _ _ _ _ (Kept.refl s)

end Sys2Proof.Machine
end

