-- ==== Sys2Proof/Laws/KeptFabric.lean ====
section
/-!
SUPPORT. Every operation of `Machine/Fabric.lean` keeps what `Kept` names.
-/

namespace Sys2Proof.Machine

set_option Elab.async false
set_option linter.unusedTactic false
set_option linter.unreachableTactic false
set_option linter.unusedVariables false

theorem State.discChanged_kept {s₀ : State} {s : State} (hK : Kept s₀ s) :
    Kept s₀ (State.discChanged s) := by
  unfold State.discChanged
  repeat' first
    | with_reducible assumption | with_reducible apply State.noticeAll_kept | intro _ | with_reducible apply Kept.ite
    | split | dsimp only [id_eq] | simp only [Kept.mk] | (rename_i e; with_reducible refine Kept.of_eq e ?_)

theorem State.fabEnable_kept {s₀ : State} {s : State} (refB : Bool) (hK : Kept s₀ s) :
    Kept s₀ (State.fabEnable s refB).1 := by
  unfold State.fabEnable
  repeat' first
    | with_reducible assumption | with_reducible apply State.enable_kept | with_reducible apply State.puts_kept
    | intro _ | with_reducible apply Kept.ite | split | dsimp only [id_eq] | simp only [Kept.mk]
    | (rename_i e; with_reducible refine Kept.of_eq e ?_)

theorem fabEnableCmd_kept {s₀ : State} (refB : Bool) {s : State} (hK : Kept s₀ s) :
    Kept s₀ (fabEnableCmd refB s) := by
  unfold fabEnableCmd
  repeat' first
    | with_reducible assumption | with_reducible apply State.fabEnable_kept | intro _ | with_reducible apply Kept.ite
    | split | dsimp only [id_eq] | simp only [Kept.mk] | (rename_i e; with_reducible refine Kept.of_eq e ?_)

theorem State.portBit_kept {s₀ : State} {s : State} (k : Fld) (p : Nat) (v : Bool) (hK : Kept s₀ s) :
    Kept s₀ (State.portBit s k p v) := by
  unfold State.portBit
  repeat' first
    | with_reducible assumption | with_reducible apply Kept.put | intro _ | with_reducible apply Kept.ite | split
    | dsimp only [id_eq] | simp only [Kept.mk] | (rename_i e; with_reducible refine Kept.of_eq e ?_)

theorem State.linkDown_kept {s₀ : State} {s : State} (p : Nat) (cause : Nat) (hK : Kept s₀ s) :
    Kept s₀ (State.linkDown s p cause) := by
  unfold State.linkDown
  repeat' first
    | with_reducible assumption | with_reducible apply State.post_kept | with_reducible apply State.evt_kept
    | with_reducible apply State.count_kept | with_reducible apply State.portBit_kept | intro _
    | with_reducible apply Kept.ite | split | dsimp only [id_eq] | simp only [Kept.mk]
    | (rename_i e; with_reducible refine Kept.of_eq e ?_)

theorem linkDownCmd_kept {s₀ : State} (p : Fin 2) (cause : BitVec 8) {s : State} (hK : Kept s₀ s) :
    Kept s₀ (linkDownCmd p cause s) := by
  unfold linkDownCmd
  repeat' first
    | with_reducible assumption | with_reducible apply State.linkDown_kept | intro _ | with_reducible apply Kept.ite
    | split | dsimp only [id_eq] | simp only [Kept.mk] | (rename_i e; with_reducible refine Kept.of_eq e ?_)

theorem State.setPortDis_kept {s₀ : State} {s : State} (v : Nat) (hK : Kept s₀ s) :
    Kept s₀ (State.setPortDis s v) := by
  unfold State.setPortDis
  repeat' first
    | with_reducible assumption | with_reducible apply Kept.forAll | with_reducible apply Kept.put
    | with_reducible apply State.linkDown_kept | intro _ | with_reducible apply Kept.ite | split | dsimp only [id_eq]
    | simp only [Kept.mk] | (rename_i e; with_reducible refine Kept.of_eq e ?_)

theorem portDis_kept {s₀ : State} (v : BitVec 2) {s : State} (hK : Kept s₀ s) :
    Kept s₀ (portDis v s) := by
  unfold portDis
  repeat' first
    | with_reducible assumption | with_reducible apply State.setPortDis_kept | intro _
    | with_reducible apply Kept.ite | split | dsimp only [id_eq] | simp only [Kept.mk]
    | (rename_i e; with_reducible refine Kept.of_eq e ?_)

theorem State.probe_kept {s₀ : State} {s : State} (p : Nat) (addr : Nat) (v6 : Bool) (dyn : Bool) (conflict : Bool) (hK : Kept s₀ s) :
    Kept s₀ (State.probe s p addr v6 dyn conflict) := by
  unfold State.probe
  repeat' first
    | with_reducible assumption | with_reducible apply State.post_kept | with_reducible apply State.evt_kept
    | intro _ | with_reducible apply Kept.ite | split | dsimp only [id_eq] | simp only [Kept.mk]
    | (rename_i e; with_reducible refine Kept.of_eq e ?_)

theorem linkUpCmd_kept {s₀ : State} (p : Fin 2) (fec : Fin 4) (abilities : BitVec 32) (lanes : List (Nat × Nat)) (dup : List Nat) {s : State} (hK : Kept s₀ s) :
    Kept s₀ (linkUpCmd p fec abilities lanes dup s) := by
  unfold linkUpCmd
  repeat' first
    | with_reducible assumption | with_reducible apply State.puts_kept | with_reducible apply State.portBit_kept
    | with_reducible apply State.evt_kept | with_reducible apply Kept.forAll | with_reducible apply State.post_kept
    | with_reducible apply State.probe_kept | with_reducible apply State.discChanged_kept | intro _
    | with_reducible apply Kept.ite | split | dsimp only [id_eq] | simp only [Kept.mk]
    | (rename_i e; with_reducible refine Kept.of_eq e ?_)

theorem negotiationFailure_kept {s₀ : State} (p : Fin 2) (abilities : BitVec 32) {s : State} (hK : Kept s₀ s) :
    Kept s₀ (negotiationFailure p abilities s) := by
  unfold negotiationFailure
  repeat' first
    | with_reducible assumption | with_reducible apply State.post_kept | with_reducible apply State.portBit_kept
    | intro _ | with_reducible apply Kept.ite | split | dsimp only [id_eq] | simp only [Kept.mk]
    | (rename_i e; with_reducible refine Kept.of_eq e ?_)

theorem dhcpAcquired_kept {s₀ : State} (p : Fin 2) (v6 : Bool) (addr : BitVec 128) (conflict : Bool) {s : State} (hK : Kept s₀ s) :
    Kept s₀ (dhcpAcquired p v6 addr conflict s) := by
  unfold dhcpAcquired
  repeat' first
    | with_reducible assumption | with_reducible apply State.discChanged_kept | with_reducible apply State.probe_kept
    | intro _ | with_reducible apply Kept.ite | split | dsimp only [id_eq] | simp only [Kept.mk]
    | (rename_i e; with_reducible refine Kept.of_eq e ?_)

theorem dhcpLost_kept {s₀ : State} (p : Fin 2) (addr : BitVec 128) {s : State} (hK : Kept s₀ s) :
    Kept s₀ (dhcpLost p addr s) := by
  unfold dhcpLost
  repeat' first
    | with_reducible assumption | with_reducible apply State.discChanged_kept | intro _
    | with_reducible apply Kept.ite | split | dsimp only [id_eq] | simp only [Kept.mk]
    | (rename_i e; with_reducible refine Kept.of_eq e ?_)

theorem failover_kept {s₀ : State} (p : Fin 2) (dup : List Nat) {s : State} (hK : Kept s₀ s) :
    Kept s₀ (failover p dup s) := by
  unfold failover
  repeat' first
    | with_reducible assumption | with_reducible apply Kept.when | with_reducible apply State.puts_kept
    | with_reducible apply State.portBit_kept | with_reducible apply Kept.put | with_reducible apply Kept.forAll
    | with_reducible apply State.post_kept | with_reducible apply State.evt_kept
    | with_reducible apply State.discChanged_kept | with_reducible apply State.count_kept | intro _
    | with_reducible apply Kept.ite | split | dsimp only [id_eq] | simp only [Kept.mk]
    | (rename_i e; with_reducible refine Kept.of_eq e ?_)

theorem addressAnnounce_kept {s₀ : State} (p : Fin 2) {s : State} (hK : Kept s₀ s) :
    Kept s₀ (addressAnnounce p s) := by
  unfold addressAnnounce
  repeat' first
    | with_reducible assumption | with_reducible apply Kept.put | intro _ | with_reducible apply Kept.ite | split
    | dsimp only [id_eq] | simp only [Kept.mk] | (rename_i e; with_reducible refine Kept.of_eq e ?_)

theorem failback_kept {s₀ : State} (p : Fin 2) {s : State} (hK : Kept s₀ s) :
    Kept s₀ (failback p s) := by
  unfold failback
  repeat' first
    | with_reducible assumption | with_reducible apply State.discChanged_kept | with_reducible apply State.post_kept
    | with_reducible apply State.evt_kept | with_reducible apply State.puts_kept
    | with_reducible apply State.portBit_kept | intro _ | with_reducible apply Kept.ite | split | dsimp only [id_eq]
    | simp only [Kept.mk] | (rename_i e; with_reducible refine Kept.of_eq e ?_)

theorem lldpReceive_kept {s₀ : State} (p : Fin 2) (chassis : BitVec 64) (portId : BitVec 64) (pfc : BitVec 8) {s : State} (hK : Kept s₀ s) :
    Kept s₀ (lldpReceive p chassis portId pfc s) := by
  unfold lldpReceive
  repeat' first
    | with_reducible assumption | with_reducible apply Kept.when | with_reducible apply Kept.put | intro _
    | with_reducible apply Kept.ite | split | dsimp only [id_eq] | simp only [Kept.mk]
    | (rename_i e; with_reducible refine Kept.of_eq e ?_)

theorem transportFailure_kept {s₀ : State} (c : BitVec 16) (qid : BitVec 16) {s : State} (hK : Kept s₀ s) :
    Kept s₀ (transportFailure c qid s) := by
  unfold transportFailure
  repeat' first
    | with_reducible assumption | with_reducible apply State.showCmds_kept
    | with_reducible apply State.drainDeletes_kept | with_reducible apply State.setCtrl_kept | intro _
    | with_reducible apply Kept.ite | split | dsimp only [id_eq] | simp only [Kept.mk]
    | (rename_i e; with_reducible refine Kept.of_eq e ?_)

theorem State.listen_kept {s₀ : State} {s : State} (hK : Kept s₀ s) :
    Kept s₀ (State.listen s) := by
  unfold State.listen
  repeat' first
    | with_reducible assumption | with_reducible apply State.puts_kept | with_reducible apply Kept.forAll
    | with_reducible apply State.tearDown_kept | intro _ | with_reducible apply Kept.ite | split | dsimp only [id_eq]
    | simp only [Kept.mk] | (rename_i e; with_reducible refine Kept.of_eq e ?_)

theorem State.fabDisable_kept {s₀ : State} {s : State} (hK : Kept s₀ s) :
    Kept s₀ (State.fabDisable s) := by
  unfold State.fabDisable
  repeat' first
    | with_reducible assumption | with_reducible apply Kept.put | with_reducible apply State.linkDown_kept | intro _
    | with_reducible apply Kept.ite | split | dsimp only [id_eq] | simp only [Kept.mk]
    | (rename_i e; with_reducible refine Kept.of_eq e ?_)

theorem execFabEnable_kept (refB : Bool) {s t : State} (h : execFabEnable refB s = .next t) : Kept s t := by
  have h := Host.Outcome.next.inj h; subst h; exact fabEnableCmd_kept _ (Kept.refl s)

theorem execPortDis_kept (v : BitVec 2) {s t : State} (h : execPortDis v s = .next t) : Kept s t := by
  have h := Host.Outcome.next.inj h; subst h; exact portDis_kept _ (Kept.refl s)

theorem execLinkUp_kept (p : Fin 2) (fec : Fin 4) (abilities : BitVec 32) (lanes : List (Nat × Nat)) (dup : List Nat) {s t : State} (h : execLinkUp p fec abilities lanes dup s = .next t) : Kept s t := by
  have h := Host.Outcome.next.inj h; subst h; exact linkUpCmd_kept _ _ _ _ _ (Kept.refl s)

theorem execLinkDown_kept (p : Fin 2) (cause : BitVec 8) {s t : State} (h : execLinkDown p cause s = .next t) : Kept s t := by
  have h := Host.Outcome.next.inj h; subst h; exact linkDownCmd_kept _ _ (Kept.refl s)

theorem execFailover_kept (p : Fin 2) (dup : List Nat) {s t : State} (h : execFailover p dup s = .next t) : Kept s t := by
  have h := Host.Outcome.next.inj h; subst h; exact failover_kept _ _ (Kept.refl s)

theorem execAddressAnnounce_kept (p : Fin 2) {s t : State} (h : execAddressAnnounce p s = .next t) : Kept s t := by
  have h := Host.Outcome.next.inj h; subst h; exact addressAnnounce_kept _ (Kept.refl s)

theorem execFailback_kept (p : Fin 2) {s t : State} (h : execFailback p s = .next t) : Kept s t := by
  have h := Host.Outcome.next.inj h; subst h; exact failback_kept _ (Kept.refl s)

theorem execDhcpLeaseLost_kept (p : Fin 2) (addr : BitVec 128) {s t : State} (h : execDhcpLeaseLost p addr s = .next t) : Kept s t := by
  have h := Host.Outcome.next.inj h; subst h; exact dhcpLost_kept _ _ (Kept.refl s)

theorem execLldpReceive_kept (p : Fin 2) (chassis : BitVec 64) (portId : BitVec 64) (pfc : BitVec 8) {s t : State} (h : execLldpReceive p chassis portId pfc s = .next t) : Kept s t := by
  have h := Host.Outcome.next.inj h; subst h; exact lldpReceive_kept _ _ _ _ (Kept.refl s)

theorem execNegotiationFailure_kept (p : Fin 2) (abilities : BitVec 32) {s t : State} (h : execNegotiationFailure p abilities s = .next t) : Kept s t := by
  have h := Host.Outcome.next.inj h; subst h; exact negotiationFailure_kept _ _ (Kept.refl s)

theorem execTransportConnectionFailure_kept (c : BitVec 16) (qid : BitVec 16) {s t : State} (h : execTransportConnectionFailure c qid s = .next t) : Kept s t := by
  have h := Host.Outcome.next.inj h; subst h; exact transportFailure_kept _ _ (Kept.refl s)

theorem execDhcpLeaseAcquired_kept (p : Fin 2) (v6 : Bool) (addr : BitVec 128) (conflict : Bool) {s t : State} (h : execDhcpLeaseAcquired p v6 addr conflict s = .next t) : Kept s t := by
  have h := Host.Outcome.next.inj h; subst h; exact dhcpAcquired_kept _ _ _ _ (Kept.refl s)

end Sys2Proof.Machine
end

