-- ==== Sys2Proof/Laws/KeptTailor.lean ====
section
/-!
SUPPORT. Every operation of `Machine/Tailor.lean` keeps what `Kept` names.
-/

namespace Sys2Proof.Machine

set_option Elab.async false
set_option linter.unusedTactic false
set_option linter.unreachableTactic false
set_option linter.unusedVariables false

theorem State.halfErased_kept {s₀ : State} {s : State} (hK : Kept s₀ s) :
    Kept s₀ (State.halfErased s) := by
  unfold State.halfErased
  repeat' first
    | with_reducible assumption | with_reducible apply Kept.forAll | with_reducible apply State.eraseNow_kept
    | intro _ | with_reducible apply Kept.ite | split | dsimp only [id_eq] | simp only [Kept.mk]
    | (rename_i e; with_reducible refine Kept.of_eq e ?_)

theorem State.tlrFail_kept {s₀ : State} {s : State} (hK : Kept s₀ s) :
    Kept s₀ (State.tlrFail s) := by
  unfold State.tlrFail
  repeat' first
    | with_reducible assumption | with_reducible apply State.flashFailed_kept | with_reducible apply Kept.put
    | with_reducible apply State.halfErased_kept | intro _ | with_reducible apply Kept.ite | split
    | dsimp only [id_eq] | simp only [Kept.mk] | (rename_i e; with_reducible refine Kept.of_eq e ?_)

theorem State.tlrSave_kept {s₀ s : State} (h : Kept s₀ s) : Kept s₀ (State.tlrSave s) := by
  unfold State.tlrSave
  have g := State.halfErased_kept h
  revert g
  generalize State.halfErased s = v
  intro g
  refine State.puts_kept _ (g.trans ⟨rfl, fun x => ?_⟩)
  rw [State.canon_iff] at x ⊢
  obtain ⟨x0, x1, x2, x3, x4, x5, x6, x7⟩ := x
  exact ⟨x0, x1, x2, x3, x3, x5, x6, x7⟩

theorem State.tlrLoad_kept {s₀ s : State} (h : Kept s₀ s) : Kept s₀ (State.tlrLoad s) := by
  have hk : Kept s₀ { s with tstore := s.tsave } := h.trans ⟨rfl, fun x => by
    rw [State.canon_iff] at x ⊢
    obtain ⟨x0, x1, x2, x3, x4, x5, x6, x7⟩ := x
    exact ⟨x0, x1, x2, x4, x4, x5, x6, x7⟩⟩
  unfold State.tlrLoad
  dsimp only
  split
  · exact State.post_kept _ _ _ _ _ (Kept.put _ _ (State.puts_kept _ hk))
  · exact State.puts_kept _ hk

theorem State.putTable_kept {s₀ s : State} (blk sel off : Nat) (bs : List Byte) (h : Kept s₀ s) : Kept s₀ (State.putTable s blk sel off bs) :=
  h.trans ⟨rfl, fun x => by
    rw [State.canon_iff] at x ⊢
    obtain ⟨x0, x1, x2, x3, x4, x5, x6, x7⟩ := x
    exact ⟨x0, bytesOk_putBytes _ _ _ x1, x2, bytesOk_putBytes _ _ _ x3, x4, x5, x6, x7⟩⟩

theorem State.putEntry_kept {s₀ : State} {s : State} (blk : Nat) (sel : Nat) (off : Nat) (n : Nat) (fs : List (Nat × List Byte)) (hK : Kept s₀ s) :
    Kept s₀ (State.putEntry s blk sel off n fs) := by
  unfold State.putEntry
  repeat' first
    | with_reducible assumption | with_reducible apply State.putTable_kept | with_reducible apply Kept.foldl
    | with_reducible apply Kept.foldlFst | intro _ | with_reducible apply Kept.ite | split | dsimp only [id_eq]
    | simp only [Kept.mk] | (rename_i e; with_reducible refine Kept.of_eq e ?_)

theorem State.degrade_kept {s₀ : State} {s : State} (blk : Nat) (hK : Kept s₀ s) :
    Kept s₀ (State.degrade s blk) := by
  unfold State.degrade
  repeat' first
    | with_reducible assumption | with_reducible apply Kept.put | intro _ | with_reducible apply Kept.ite | split
    | dsimp only [id_eq] | simp only [Kept.mk] | (rename_i e; with_reducible refine Kept.of_eq e ?_)

theorem State.substitute_kept {s₀ : State} {s : State} (off : Nat) (code : Nat) (elem : Nat) (spareCode : Nat) (hK : Kept s₀ s) :
    Kept s₀ (State.substitute s off code elem spareCode) := by
  unfold State.substitute
  repeat' first
    | with_reducible assumption | with_reducible apply State.post_kept | with_reducible apply State.evt_kept
    | with_reducible apply State.count_kept | with_reducible apply State.degrade_kept | with_reducible apply Kept.put
    | with_reducible apply State.puts_kept | intro _ | with_reducible apply Kept.ite | split | dsimp only [id_eq]
    | simp only [Kept.mk] | (rename_i e; with_reducible refine Kept.of_eq e ?_)

theorem State.retrim_kept {s₀ : State} {s : State} (x : Nat × Nat × Nat × Nat × Bool) (hK : Kept s₀ s) :
    Kept s₀ (State.retrim s x) := by
  unfold State.retrim
  repeat' first
    | with_reducible assumption | with_reducible apply State.substitute_kept | with_reducible apply Kept.put
    | with_reducible apply Kept.when | with_reducible apply State.post_kept | with_reducible apply State.evt_kept
    | intro _ | with_reducible apply Kept.ite | split | dsimp only [id_eq] | simp only [Kept.mk]
    | (rename_i e; with_reducible refine Kept.of_eq e ?_)

theorem State.judgeRefs_kept {s₀ : State} {s : State} (r : AgeResult) (hK : Kept s₀ s) :
    Kept s₀ (State.judgeRefs s r) := by
  unfold State.judgeRefs
  repeat' first
    | with_reducible assumption | with_reducible apply Kept.put | with_reducible apply Kept.when
    | with_reducible apply State.post_kept | intro _ | with_reducible apply Kept.ite | split | dsimp only [id_eq]
    | simp only [Kept.mk] | (rename_i e; with_reducible refine Kept.of_eq e ?_)

theorem State.restartFit_kept {s₀ : State} {s : State} (h : Nat) (z : Nat) (hK : Kept s₀ s) :
    Kept s₀ (State.restartFit s h z) := by
  unfold State.restartFit
  repeat' first
    | with_reducible assumption | intro _ | with_reducible apply Kept.ite | split | dsimp only [id_eq]
    | simp only [Kept.mk] | (rename_i e; with_reducible refine Kept.of_eq e ?_)

theorem State.tookStep_kept {s₀ : State} {s : State} (h : Nat) (z : Nat) (step : Nat) (hrs : Nat) (new : Nat) (hK : Kept s₀ s) :
    Kept s₀ (State.tookStep s h z step hrs new) := by
  unfold State.tookStep
  repeat' first
    | with_reducible assumption | with_reducible apply State.post_kept | with_reducible apply State.evt_kept
    | with_reducible apply State.count_kept | with_reducible apply State.tlrSave_kept | intro _
    | with_reducible apply Kept.ite | split | dsimp only [id_eq] | simp only [Kept.mk]
    | (rename_i e; with_reducible refine Kept.of_eq e ?_)

theorem State.replan_kept {s₀ : State} {s : State} (h : Nat) (z : Nat) (hK : Kept s₀ s) :
    Kept s₀ (State.replan s h z) := by
  unfold State.replan
  repeat' first
    | with_reducible assumption | with_reducible apply State.tookStep_kept
    | with_reducible apply State.restartFit_kept | with_reducible apply State.putEntry_kept
    | with_reducible apply State.demand_kept | with_reducible apply State.post_kept | with_reducible apply Kept.put
    | with_reducible apply State.writeDisable_kept | intro _ | with_reducible apply Kept.ite | split
    | dsimp only [id_eq] | simp only [Kept.mk] | (rename_i e; with_reducible refine Kept.of_eq e ?_)

theorem State.showMeas_kept {s₀ : State} {s : State} (hK : Kept s₀ s) :
    Kept s₀ (State.showMeas s) := by
  unfold State.showMeas
  repeat' first
    | with_reducible assumption | with_reducible apply State.putB_kept | intro _ | with_reducible apply Kept.ite
    | split | dsimp only [id_eq] | simp only [Kept.mk] | (rename_i e; with_reducible refine Kept.of_eq e ?_)

theorem State.due_kept {s₀ : State} {s : State} (h : Nat) (cause : Nat) (hK : Kept s₀ s) :
    Kept s₀ (State.due s h cause) := by
  unfold State.due
  repeat' first
    | with_reducible assumption | with_reducible apply State.showMeas_kept | intro _ | with_reducible apply Kept.ite
    | split | dsimp only [id_eq] | simp only [Kept.mk] | (rename_i e; with_reducible refine Kept.of_eq e ?_)

theorem ageingDue_kept {s₀ : State} (h : Fin 256) (byTb : Bool) {s : State} (hK : Kept s₀ s) :
    Kept s₀ (ageingDue h byTb s) := by
  unfold ageingDue
  repeat' first
    | with_reducible assumption | with_reducible apply State.due_kept | intro _ | with_reducible apply Kept.ite
    | split | dsimp only [id_eq] | simp only [Kept.mk] | (rename_i e; with_reducible refine Kept.of_eq e ?_)

theorem verifyDue_kept {s₀ : State} (h : GHead) (z : RZone) {s : State} (hK : Kept s₀ s) :
    Kept s₀ (verifyDue h z s) := by
  unfold verifyDue
  repeat' first
    | with_reducible assumption | with_reducible apply State.due_kept | intro _ | with_reducible apply Kept.ite
    | split | dsimp only [id_eq] | simp only [Kept.mk] | (rename_i e; with_reducible refine Kept.of_eq e ?_)

theorem ageingOverdue_kept {s₀ : State} (h : Fin 256) {s : State} (hK : Kept s₀ s) :
    Kept s₀ (ageingOverdue h s) := by
  unfold ageingOverdue
  repeat' first
    | with_reducible assumption | with_reducible apply State.count_kept | intro _ | with_reducible apply Kept.ite
    | split | dsimp only [id_eq] | simp only [Kept.mk] | (rename_i e; with_reducible refine Kept.of_eq e ?_)

theorem State.limit_kept {s₀ : State} {s : State} (bad : Bool) (item : Nat) (inst : Nat) (v : Nat) (hK : Kept s₀ s) :
    Kept s₀ (State.limit s bad item inst v) := by
  unfold State.limit
  repeat' first
    | with_reducible assumption | with_reducible apply Kept.when | with_reducible apply State.post_kept | intro _
    | with_reducible apply Kept.ite | split | dsimp only [id_eq] | simp only [Kept.mk]
    | (rename_i e; with_reducible refine Kept.of_eq e ?_)

theorem State.applyHead_kept {s₀ : State} {s : State} (h : Nat) (it : List (Option Nat)) (hK : Kept s₀ s) :
    Kept s₀ (State.applyHead s h it) := by
  unfold State.applyHead
  repeat' first
    | with_reducible assumption | with_reducible apply State.putEntry_kept | with_reducible apply Kept.forAll
    | with_reducible apply Kept.put | with_reducible apply Kept.when | with_reducible apply State.maJudge_kept
    | intro _ | with_reducible apply Kept.ite | split | dsimp only [id_eq] | simp only [Kept.mk]
    | (rename_i e; with_reducible refine Kept.of_eq e ?_)

theorem State.applyDevice_kept {s₀ : State} {s : State} (r : AgeResult) (hK : Kept s₀ s) :
    Kept s₀ (State.applyDevice s r) := by
  unfold State.applyDevice
  repeat' first
    | with_reducible assumption | with_reducible apply State.limit_kept | with_reducible apply Kept.forAll
    | with_reducible apply State.putTable_kept | with_reducible apply State.judgeRefs_kept
    | with_reducible apply State.retrim_kept | with_reducible apply Kept.foldl | with_reducible apply Kept.foldlFst
    | intro _ | with_reducible apply Kept.ite | split | dsimp only [id_eq] | simp only [Kept.mk]
    | (rename_i e; with_reducible refine Kept.of_eq e ?_)

theorem State.addAge_kept {s₀ : State} {s : State} (r : AgeRec) (hK : Kept s₀ s) :
    Kept s₀ (State.addAge s r) := by
  unfold State.addAge
  repeat' first
    | with_reducible assumption | with_reducible apply State.eraseNow_kept | with_reducible apply State.progNow_kept
    | intro _ | with_reducible apply Kept.ite | split | dsimp only [id_eq] | simp only [Kept.mk]
    | (rename_i e; with_reducible refine Kept.of_eq e ?_)

theorem ageingDone_kept {s₀ : State} (h : Fin 256) (r : AgeResult) {s : State} (hK : Kept s₀ s) :
    Kept s₀ (ageingDone h r s) := by
  unfold ageingDone
  repeat' first
    | with_reducible assumption | with_reducible apply State.applyDevice_kept
    | with_reducible apply State.applyHead_kept | with_reducible apply State.limit_kept
    | with_reducible apply Kept.forAll | with_reducible apply State.post_kept | with_reducible apply State.bump_kept
    | with_reducible apply State.addAge_kept | with_reducible apply State.showMeas_kept
    | with_reducible apply State.tlrSave_kept | with_reducible apply State.replan_kept
    | with_reducible apply Kept.foldl | with_reducible apply Kept.foldlFst | intro _ | with_reducible apply Kept.ite
    | split | dsimp only [id_eq] | simp only [Kept.mk] | (rename_i e; with_reducible refine Kept.of_eq e ?_)

theorem State.traceGo_kept {s₀ : State} {s : State} (steady : Bool) (hK : Kept s₀ s) :
    Kept s₀ (State.traceGo s steady).1 := by
  unfold State.traceGo
  repeat' first
    | with_reducible assumption | with_reducible apply Kept.put | intro _ | with_reducible apply Kept.ite | split
    | dsimp only [id_eq] | simp only [Kept.mk] | (rename_i e; with_reducible refine Kept.of_eq e ?_)

theorem traceCmd_kept {s₀ : State} (steady : Bool) {s : State} (hK : Kept s₀ s) :
    Kept s₀ (traceCmd steady s) := by
  unfold traceCmd
  repeat' first
    | with_reducible assumption | with_reducible apply State.traceGo_kept | intro _ | with_reducible apply Kept.ite
    | split | dsimp only [id_eq] | simp only [Kept.mk] | (rename_i e; with_reducible refine Kept.of_eq e ?_)

theorem traceDone_kept {s₀ : State} (r : TraceResult) {s : State} (hK : Kept s₀ s) :
    Kept s₀ (traceDone r s) := by
  unfold traceDone
  repeat' first
    | with_reducible assumption | with_reducible apply Kept.put | with_reducible apply State.post_kept
    | with_reducible apply State.evt_kept | with_reducible apply Kept.forAll
    | with_reducible apply State.tlrSave_kept | intro _ | with_reducible apply Kept.ite | split | dsimp only [id_eq]
    | simp only [Kept.mk] | (rename_i e; with_reducible refine Kept.of_eq e ?_)

theorem execAgeingDue_kept (h : Fin 256) (byTb : Bool) {s t : State} (h : execAgeingDue h byTb s = .next t) : Kept s t := by
  have h := Host.Outcome.next.inj h; subst h; exact ageingDue_kept _ _ (Kept.refl s)

theorem execAgeingMeasureDone_kept (h : Fin 256) (r : AgeResult) {s t : State} (h : execAgeingMeasureDone h r s = .next t) : Kept s t := by
  have h := Host.Outcome.next.inj h; subst h; exact ageingDone_kept _ _ (Kept.refl s)

theorem execVerifyDue_kept (h : GHead) (z : RZone) {s t : State} (h : execVerifyDue h z s = .next t) : Kept s t := by
  have h := Host.Outcome.next.inj h; subst h; exact verifyDue_kept _ _ (Kept.refl s)

theorem execAgeingOverdue_kept (h : Fin 256) {s t : State} (h : execAgeingOverdue h s = .next t) : Kept s t := by
  have h := Host.Outcome.next.inj h; subst h; exact ageingOverdue_kept _ (Kept.refl s)

theorem execTrace_kept (steady : Bool) {s t : State} (h : execTrace steady s = .next t) : Kept s t := by
  have h := Host.Outcome.next.inj h; subst h; exact traceCmd_kept _ (Kept.refl s)

theorem execTraceDone_kept (r : TraceResult) {s t : State} (h : execTraceDone r s = .next t) : Kept s t := by
  have h := Host.Outcome.next.inj h; subst h; exact traceDone_kept _ (Kept.refl s)

end Sys2Proof.Machine
end

