-- ==== Sys2Proof/Laws/KeptReset.lean ====
section
/-!
SUPPORT. Every operation of `Machine/Reset.lean` keeps what `Kept` names.
-/

namespace Sys2Proof.Machine

set_option Elab.async false
set_option linter.unusedTactic false
set_option linter.unreachableTactic false
set_option linter.unusedVariables false

theorem State.spinGo_kept {s₀ : State} {s : State} (hK : Kept s₀ s) :
    Kept s₀ (State.spinGo s) := by
  unfold State.spinGo
  repeat' first
    | with_reducible assumption | with_reducible apply State.setVinBudget_kept | with_reducible apply Kept.put
    | with_reducible apply State.tryStart_kept | with_reducible apply State.stepEnd_kept
    | with_reducible apply Kept.when | intro _ | with_reducible apply Kept.ite | split | dsimp only [id_eq]
    | simp only [Kept.mk] | (rename_i e; with_reducible refine Kept.of_eq e ?_)

theorem State.spinCheck_kept {s₀ : State} {s : State} (hK : Kept s₀ s) :
    Kept s₀ (State.spinCheck s) := by
  unfold State.spinCheck
  repeat' first
    | with_reducible assumption | with_reducible apply State.spinGo_kept | with_reducible apply State.puts_kept
    | intro _ | with_reducible apply Kept.ite | split | dsimp only [id_eq] | simp only [Kept.mk]
    | (rename_i e; with_reducible refine Kept.of_eq e ?_)

theorem spinPermission_kept {s₀ : State} {s : State} (hK : Kept s₀ s) :
    Kept s₀ (spinPermission s) := by
  unfold spinPermission
  repeat' first
    | with_reducible assumption | with_reducible apply State.spinCheck_kept | intro _ | with_reducible apply Kept.ite
    | split | dsimp only [id_eq] | simp only [Kept.mk] | (rename_i e; with_reducible refine Kept.of_eq e ?_)

theorem spinHoldChange_kept {s₀ : State} (level : Bool) {s : State} (hK : Kept s₀ s) :
    Kept s₀ (spinHoldChange level s) := by
  unfold spinHoldChange
  repeat' first
    | with_reducible assumption | with_reducible apply State.spinCheck_kept | with_reducible apply State.putB_kept
    | intro _ | with_reducible apply Kept.ite | split | dsimp only [id_eq] | simp only [Kept.mk]
    | (rename_i e; with_reducible refine Kept.of_eq e ?_)

theorem spinBackoffEnd_kept {s₀ : State} {s : State} (hK : Kept s₀ s) :
    Kept s₀ (spinBackoffEnd s) := by
  unfold spinBackoffEnd
  repeat' first
    | with_reducible assumption | with_reducible apply State.spinCheck_kept | with_reducible apply Kept.put | intro _
    | with_reducible apply Kept.ite | split | dsimp only [id_eq] | simp only [Kept.mk]
    | (rename_i e; with_reducible refine Kept.of_eq e ?_)

theorem spinDelayEnd_kept {s₀ : State} {s : State} (hK : Kept s₀ s) :
    Kept s₀ (spinDelayEnd s) := by
  unfold spinDelayEnd
  repeat' first
    | with_reducible assumption | with_reducible apply State.spinCheck_kept | with_reducible apply Kept.put | intro _
    | with_reducible apply Kept.ite | split | dsimp only [id_eq] | simp only [Kept.mk]
    | (rename_i e; with_reducible refine Kept.of_eq e ?_)

theorem sagWaitEnd_kept {s₀ : State} {s : State} (hK : Kept s₀ s) :
    Kept s₀ (sagWaitEnd s) := by
  unfold sagWaitEnd
  repeat' first
    | with_reducible assumption | with_reducible apply State.spinCheck_kept | with_reducible apply State.evalSp_kept
    | with_reducible apply State.puts_kept | intro _ | with_reducible apply Kept.ite | split | dsimp only [id_eq]
    | simp only [Kept.mk] | (rename_i e; with_reducible refine Kept.of_eq e ?_)

theorem State.clearRegs_kept {s₀ s : State}  (h : Kept s₀ s) : Kept s₀ (State.clearRegs s) :=
  h.trans ⟨rfl, fun x => by
    rw [State.canon_iff] at x ⊢
    obtain ⟨x0, x1, x2, x3, x4, x5, x6, x7⟩ := x
    exact ⟨State.fieldsOk_filter s _ _ rfl x0, bytesOk_filter _ _ _ x1, x2, x3, x4, x5, x6, x7⟩⟩

theorem State.clearRam_kept {s₀ s : State} (h : Kept s₀ s) : Kept s₀ (State.clearRam s) :=
  h.trans ⟨rfl, fun x => by
    rw [State.canon_iff] at x ⊢
    obtain ⟨x0, x1, x2, x3, x4, x5, x6, x7⟩ := x
    exact ⟨x0, x1, x2, rfl, x4, x5, rfl, x7⟩⟩

theorem State.resetPs_kept {s₀ : State} {s : State} (src : Nat) (hK : Kept s₀ s) :
    Kept s₀ (State.resetPs s src) := by
  unfold State.resetPs
  repeat' first
    | with_reducible assumption | with_reducible apply State.puts_kept | with_reducible apply State.setPs_kept
    | intro _ | with_reducible apply Kept.ite | split | dsimp only [id_eq] | simp only [Kept.mk]
    | (rename_i e; with_reducible refine Kept.of_eq e ?_)

theorem State.dieLost_kept {s₀ : State} {s : State} (hK : Kept s₀ s) :
    Kept s₀ (State.dieLost s) := by
  unfold State.dieLost
  repeat' first
    | with_reducible assumption | with_reducible apply Kept.when | with_reducible apply Kept.put
    | with_reducible apply State.clearRam_kept | with_reducible apply State.clearRegs_kept
    | with_reducible apply State.loseVolatile_kept | with_reducible apply State.flashCut_kept
    | with_reducible apply State.endTest_kept | intro _ | with_reducible apply Kept.ite | split | dsimp only [id_eq]
    | simp only [Kept.mk] | (rename_i e; with_reducible refine Kept.of_eq e ?_)

theorem State.dieReset_kept {s₀ : State} {s : State} (src : Nat) (step : Nat) (hK : Kept s₀ s) :
    Kept s₀ (State.dieReset s src step) := by
  unfold State.dieReset
  repeat' first
    | with_reducible assumption | with_reducible apply State.puts_kept | with_reducible apply State.dieLost_kept
    | with_reducible apply State.showTherm_kept | with_reducible apply State.budgetChanged_kept
    | with_reducible apply State.resetPs_kept | with_reducible apply State.count_kept | intro _
    | with_reducible apply Kept.ite | split | dsimp only [id_eq] | simp only [Kept.mk]
    | (rename_i e; with_reducible refine Kept.of_eq e ?_)

theorem State.reErase_kept {s₀ : State} {s : State} (hK : Kept s₀ s) :
    Kept s₀ (State.reErase s) := by
  unfold State.reErase
  repeat' first
    | with_reducible assumption | with_reducible apply State.puts_kept | with_reducible apply Kept.forAll
    | with_reducible apply State.count_kept | with_reducible apply State.eraseNow_kept
    | with_reducible apply State.ringErased_kept | intro _ | with_reducible apply Kept.ite | split
    | dsimp only [id_eq] | simp only [Kept.mk] | (rename_i e; with_reducible refine Kept.of_eq e ?_)

theorem State.tellReErase_kept {s₀ : State} {s : State} (hK : Kept s₀ s) :
    Kept s₀ (State.tellReErase s) := by
  unfold State.tellReErase
  repeat' first
    | with_reducible assumption | with_reducible apply Kept.when | with_reducible apply Kept.put
    | with_reducible apply State.post_kept | intro _ | with_reducible apply Kept.ite | split | dsimp only [id_eq]
    | simp only [Kept.mk] | (rename_i e; with_reducible refine Kept.of_eq e ?_)

theorem State.openBoxes_kept {s₀ : State} {s : State} (hK : Kept s₀ s) :
    Kept s₀ (State.openBoxes s) := by
  unfold State.openBoxes
  repeat' first
    | with_reducible assumption | with_reducible apply State.puts_kept | with_reducible apply Kept.forAll
    | with_reducible apply Kept.put | intro _ | with_reducible apply Kept.ite | split | dsimp only [id_eq]
    | simp only [Kept.mk] | (rename_i e; with_reducible refine Kept.of_eq e ?_)

theorem State.romOnly_kept {s₀ : State} {s : State} (slot : Nat) (hK : Kept s₀ s) :
    Kept s₀ (State.romOnly s slot) := by
  unfold State.romOnly
  repeat' first
    | with_reducible assumption | with_reducible apply State.puts_kept | intro _ | with_reducible apply Kept.ite
    | split | dsimp only [id_eq] | simp only [Kept.mk] | (rename_i e; with_reducible refine Kept.of_eq e ?_)

theorem State.loadImage_kept {s₀ : State} {s : State} (slot : Nat) (hK : Kept s₀ s) :
    Kept s₀ (State.loadImage s slot) := by
  unfold State.loadImage
  repeat' first
    | with_reducible assumption | with_reducible apply State.fwPages_kept | intro _ | with_reducible apply Kept.ite
    | split | dsimp only [id_eq] | simp only [Kept.mk] | (rename_i e; with_reducible refine Kept.of_eq e ?_)

theorem State.runFw_kept {s₀ : State} {s : State} (slot : Nat) (hK : Kept s₀ s) :
    Kept s₀ (State.runFw s slot) := by
  unfold State.runFw
  repeat' first
    | with_reducible assumption | with_reducible apply State.stepEnd_kept | with_reducible apply State.puts_kept
    | with_reducible apply State.loadImage_kept | with_reducible apply State.showPbl_kept
    | with_reducible apply State.setRate_kept | with_reducible apply State.tellReErase_kept
    | with_reducible apply State.tlrLoad_kept | with_reducible apply State.refreshSpn_kept
    | with_reducible apply State.sntKick_kept | with_reducible apply Kept.when | with_reducible apply State.post_kept
    | with_reducible apply State.evt_kept | with_reducible apply Kept.put | intro _ | with_reducible apply Kept.ite
    | split | dsimp only [id_eq] | simp only [Kept.mk] | (rename_i e; with_reducible refine Kept.of_eq e ?_)

theorem State.bootOther_kept {s₀ : State} {s : State} (slot : Nat) (cause : Nat) (hK : Kept s₀ s) :
    Kept s₀ (State.bootOther s slot cause) := by
  unfold State.bootOther
  repeat' first
    | with_reducible assumption | with_reducible apply Kept.put | with_reducible apply State.post_kept
    | with_reducible apply State.runFw_kept | with_reducible apply State.progSel_kept
    | with_reducible apply State.romOnly_kept | intro _ | with_reducible apply Kept.ite | split | dsimp only [id_eq]
    | simp only [Kept.mk] | (rename_i e; with_reducible refine Kept.of_eq e ?_)

theorem State.bootSlot_kept {s₀ : State} {s : State} (hK : Kept s₀ s) :
    Kept s₀ (State.bootSlot s) := by
  unfold State.bootSlot
  repeat' first
    | with_reducible assumption | with_reducible apply State.bootOther_kept | with_reducible apply State.runFw_kept
    | with_reducible apply Kept.when | with_reducible apply State.puts_kept | intro _ | with_reducible apply Kept.ite
    | split | dsimp only [id_eq] | simp only [Kept.mk] | (rename_i e; with_reducible refine Kept.of_eq e ?_)

theorem State.boot_kept {s₀ : State} {s : State} (hK : Kept s₀ s) :
    Kept s₀ (State.boot s) := by
  unfold State.boot
  repeat' first
    | with_reducible assumption | with_reducible apply State.pblScan_kept | with_reducible apply State.openBoxes_kept
    | with_reducible apply State.loadOpt_kept | with_reducible apply State.reErase_kept
    | with_reducible apply State.bootSlot_kept | with_reducible apply State.stepEnd_kept
    | with_reducible apply State.sntEnable_kept | with_reducible apply Kept.put
    | with_reducible apply State.romOnly_kept | intro _ | with_reducible apply Kept.ite | split | dsimp only [id_eq]
    | simp only [Kept.mk] | (rename_i e; with_reducible refine Kept.of_eq e ?_)

theorem State.restart3_kept {s₀ : State} {s : State} (src : Nat) (hK : Kept s₀ s) :
    Kept s₀ (State.restart3 s src) := by
  unfold State.restart3
  repeat' first
    | with_reducible assumption | with_reducible apply State.boot_kept | with_reducible apply State.dieReset_kept
    | intro _ | with_reducible apply Kept.ite | split | dsimp only [id_eq] | simp only [Kept.mk]
    | (rename_i e; with_reducible refine Kept.of_eq e ?_)

theorem State.restart2_kept {s₀ : State} {s : State} (src : Nat) (hK : Kept s₀ s) :
    Kept s₀ (State.restart2 s src) := by
  unfold State.restart2
  repeat' first
    | with_reducible assumption | with_reducible apply State.dieReset_kept | with_reducible apply Kept.put | intro _
    | with_reducible apply Kept.ite | split | dsimp only [id_eq] | simp only [Kept.mk]
    | (rename_i e; with_reducible refine Kept.of_eq e ?_)

theorem State.wakeFrom5_kept {s₀ : State} {s : State} (cause : Nat) (hK : Kept s₀ s) :
    Kept s₀ (State.wakeFrom5 s cause) := by
  unfold State.wakeFrom5
  repeat' first
    | with_reducible assumption | with_reducible apply State.count_kept | with_reducible apply State.evt_kept
    | with_reducible apply State.puts_kept | with_reducible apply State.restart2_kept
    | with_reducible apply State.post_kept | with_reducible apply State.present_kept | intro _
    | with_reducible apply Kept.ite | split | dsimp only [id_eq] | simp only [Kept.mk]
    | (rename_i e; with_reducible refine Kept.of_eq e ?_)

theorem State.dropHbm_kept {s₀ s : State} (h : Kept s₀ s) : Kept s₀ (State.dropHbm s) :=
  State.puts_kept _ (Kept.setHbm (t := { s with poison := [] }) h fun _ => rfl)

theorem State.dropSram_kept {s₀ : State} {s : State} (hK : Kept s₀ s) :
    Kept s₀ (State.dropSram s) := by
  unfold State.dropSram
  repeat' first
    | with_reducible assumption | with_reducible apply State.showPkt_kept | intro _ | with_reducible apply Kept.ite
    | split | dsimp only [id_eq] | simp only [Kept.mk] | (rename_i e; with_reducible refine Kept.of_eq e ?_)

theorem State.domainOff_kept {s₀ : State} {s : State} (i : Nat) (hK : Kept s₀ s) :
    Kept s₀ (State.domainOff s i) := by
  unfold State.domainOff
  repeat' first
    | with_reducible assumption | with_reducible apply State.loseVolatile_kept
    | with_reducible apply State.dropHbm_kept | with_reducible apply State.linkDown_kept
    | with_reducible apply State.dieLost_kept | with_reducible apply State.dropSram_kept
    | with_reducible apply State.flashCut_kept | intro _ | with_reducible apply Kept.ite | split | dsimp only [id_eq]
    | simp only [Kept.mk] | (rename_i e; with_reducible refine Kept.of_eq e ?_)

theorem pwrEnStep_kept {s₀ : State} {s : State} (hK : Kept s₀ s) :
    Kept s₀ (pwrEnStep s) := by
  unfold pwrEnStep
  repeat' first
    | with_reducible assumption | with_reducible apply State.showPbl_kept | with_reducible apply Kept.put
    | with_reducible apply State.boot_kept | with_reducible apply State.stepEnd_kept
    | with_reducible apply State.puts_kept | with_reducible apply Kept.when
    | with_reducible apply State.domainOff_kept | with_reducible apply State.setPs_kept
    | with_reducible apply State.count_kept | with_reducible apply State.wakeFrom5_kept
    | with_reducible apply State.checkMiss_kept | intro _ | with_reducible apply Kept.ite | split
    | dsimp only [id_eq] | simp only [Kept.mk] | (rename_i e; with_reducible refine Kept.of_eq e ?_)

theorem State.loseVin5_kept {s₀ s : State}  (h : Kept s₀ s) : Kept s₀ (State.loseVin5 s) :=
  h.trans ⟨rfl, fun x => by
    rw [State.canon_iff] at x ⊢
    obtain ⟨x0, x1, x2, x3, x4, x5, x6, x7⟩ := x
    exact ⟨State.fieldsOk_filter s _ _ rfl x0, bytesOk_filter _ _ _ x1, x2, x3, x4, x5, x6, x7⟩⟩

theorem vin5Loss_kept {s₀ : State} {s : State} (hK : Kept s₀ s) :
    Kept s₀ (vin5Loss s) := by
  unfold vin5Loss
  repeat' first
    | with_reducible assumption | with_reducible apply State.puts_kept | with_reducible apply State.loseVin5_kept
    | with_reducible apply State.dieReset_kept | intro _ | with_reducible apply Kept.ite | split | dsimp only [id_eq]
    | simp only [Kept.mk] | (rename_i e; with_reducible refine Kept.of_eq e ?_)

theorem powerOnReset_kept {s₀ : State} {s : State} (hK : Kept s₀ s) :
    Kept s₀ (powerOnReset s) := by
  unfold powerOnReset
  repeat' first
    | with_reducible assumption | with_reducible apply Kept.put | with_reducible apply State.loseVin5_kept
    | with_reducible apply Kept.when | with_reducible apply State.post_kept | with_reducible apply State.stepEnd_kept
    | with_reducible apply State.dieReset_kept | intro _ | with_reducible apply Kept.ite | split | dsimp only [id_eq]
    | simp only [Kept.mk] | (rename_i e; with_reducible refine Kept.of_eq e ?_)

theorem railLossReset_kept {s₀ : State} {s : State} (hK : Kept s₀ s) :
    Kept s₀ (railLossReset s) := by
  unfold railLossReset
  repeat' first
    | with_reducible assumption | with_reducible apply State.restart2_kept | intro _ | with_reducible apply Kept.ite
    | split | dsimp only [id_eq] | simp only [Kept.mk] | (rename_i e; with_reducible refine Kept.of_eq e ?_)

theorem ringmasterRestart_kept {s₀ : State} {s : State} (hK : Kept s₀ s) :
    Kept s₀ (ringmasterRestart s) := by
  unfold ringmasterRestart
  repeat' first
    | with_reducible assumption | with_reducible apply State.restart3_kept | intro _ | with_reducible apply Kept.ite
    | split | dsimp only [id_eq] | simp only [Kept.mk] | (rename_i e; with_reducible refine Kept.of_eq e ?_)

theorem stage2_kept {s₀ : State} {s : State} (hK : Kept s₀ s) :
    Kept s₀ (stage2 s) := by
  unfold stage2
  repeat' first
    | with_reducible assumption | with_reducible apply State.restart3_kept | with_reducible apply State.puts_kept
    | with_reducible apply State.count_kept | with_reducible apply State.stopAssert_kept | intro _
    | with_reducible apply Kept.ite | split | dsimp only [id_eq] | simp only [Kept.mk]
    | (rename_i e; with_reducible refine Kept.of_eq e ?_)

theorem State.fwAdvance_kept {s₀ : State} {s : State} (hK : Kept s₀ s) :
    Kept s₀ (State.fwAdvance s) := by
  unfold State.fwAdvance
  repeat' first
    | with_reducible assumption | with_reducible apply Kept.put | with_reducible apply Kept.forAll
    | with_reducible apply State.beginPoint_kept | with_reducible apply State.evalSp_kept
    | with_reducible apply State.puts_kept | with_reducible apply State.unloadAll_kept
    | with_reducible apply State.restart3_kept | intro _ | with_reducible apply Kept.ite | split | dsimp only [id_eq]
    | simp only [Kept.mk] | (rename_i e; with_reducible refine Kept.of_eq e ?_)

theorem firmwareReset_kept {s₀ : State} {s : State} (hK : Kept s₀ s) :
    Kept s₀ (firmwareReset s) := by
  unfold firmwareReset
  repeat' first
    | with_reducible assumption | with_reducible apply State.fwAdvance_kept | intro _ | with_reducible apply Kept.ite
    | split | dsimp only [id_eq] | simp only [Kept.mk] | (rename_i e; with_reducible refine Kept.of_eq e ?_)

theorem State.stopped_kept {s₀ : State} {s : State} (hK : Kept s₀ s) :
    Kept s₀ (State.stopped s) := by
  unfold State.stopped
  repeat' first
    | with_reducible assumption | with_reducible apply State.fwAdvance_kept | with_reducible apply Kept.when
    | with_reducible apply Kept.put | intro _ | with_reducible apply Kept.ite | split | dsimp only [id_eq]
    | simp only [Kept.mk] | (rename_i e; with_reducible refine Kept.of_eq e ?_)

theorem shortTimerEnd_kept {s₀ : State} {s : State} (hK : Kept s₀ s) :
    Kept s₀ (shortTimerEnd s) := by
  unfold shortTimerEnd
  repeat' first
    | with_reducible assumption | with_reducible apply State.stopped_kept
    | with_reducible apply State.shortTimer_kept | intro _ | with_reducible apply Kept.ite | split
    | dsimp only [id_eq] | simp only [Kept.mk] | (rename_i e; with_reducible refine Kept.of_eq e ?_)

theorem shortQuietEnd_kept {s₀ : State} {s : State} (hK : Kept s₀ s) :
    Kept s₀ (shortQuietEnd s) := by
  unfold shortQuietEnd
  repeat' first
    | with_reducible assumption | with_reducible apply State.stopped_kept
    | with_reducible apply State.shortQuiet_kept | intro _ | with_reducible apply Kept.ite | split
    | dsimp only [id_eq] | simp only [Kept.mk] | (rename_i e; with_reducible refine Kept.of_eq e ?_)

theorem ioReady_kept {s₀ : State} (sysBad : List Act) (keyBad : List (BitVec 32)) (journalBad : List (BitVec 32)) (trialOk : Bool) {s : State} (hK : Kept s₀ s) :
    Kept s₀ (ioReady sysBad keyBad journalBad trialOk s) := by
  unfold ioReady
  repeat' first
    | with_reducible assumption | with_reducible apply Kept.forAll | with_reducible apply Kept.put
    | with_reducible apply State.post_kept | with_reducible apply State.count_kept
    | with_reducible apply State.setNs_kept | with_reducible apply State.puts_kept
    | with_reducible apply State.noticeAll_kept | with_reducible apply State.evt_kept
    | with_reducible apply State.optRepairDo_kept | with_reducible apply State.confirmTrial_kept
    | with_reducible apply State.resumeAll_kept | with_reducible apply State.scanJournal_kept
    | with_reducible apply State.journalError_kept | with_reducible apply State.setPs_kept
    | with_reducible apply State.fwAdvance_kept | with_reducible apply State.checkMiss_kept | intro _
    | with_reducible apply Kept.ite | split | dsimp only [id_eq] | simp only [Kept.mk]
    | (rename_i e; with_reducible refine Kept.of_eq e ?_)

theorem startLate_kept {s₀ : State} {s : State} (hK : Kept s₀ s) :
    Kept s₀ (startLate s) := by
  unfold startLate
  repeat' first
    | with_reducible assumption | with_reducible apply State.fwAdvance_kept | with_reducible apply State.post_kept
    | with_reducible apply State.evt_kept | with_reducible apply Kept.put | intro _ | with_reducible apply Kept.ite
    | split | dsimp only [id_eq] | simp only [Kept.mk] | (rename_i e; with_reducible refine Kept.of_eq e ?_)

theorem xtalFail_kept {s₀ : State} (n : BitVec 32) {s : State} (hK : Kept s₀ s) :
    Kept s₀ (xtalFail n s) := by
  unfold xtalFail
  repeat' first
    | with_reducible assumption | with_reducible apply State.post_kept | with_reducible apply State.evt_kept
    | with_reducible apply State.puts_kept | intro _ | with_reducible apply Kept.ite | split | dsimp only [id_eq]
    | simp only [Kept.mk] | (rename_i e; with_reducible refine Kept.of_eq e ?_)

theorem xtalRecover_kept {s₀ : State} {s : State} (hK : Kept s₀ s) :
    Kept s₀ (xtalRecover s) := by
  unfold xtalRecover
  repeat' first
    | with_reducible assumption | with_reducible apply Kept.put | intro _ | with_reducible apply Kept.ite | split
    | dsimp only [id_eq] | simp only [Kept.mk] | (rename_i e; with_reducible refine Kept.of_eq e ?_)

theorem execPowerOnReset_kept {s t : State} (h : execPowerOnReset s = .next t) : Kept s t := by
  have h := Host.Outcome.next.inj h; subst h; exact powerOnReset_kept  (Kept.refl s)

theorem execVin5Loss_kept {s t : State} (h : execVin5Loss s = .next t) : Kept s t := by
  have h := Host.Outcome.next.inj h; subst h; exact vin5Loss_kept  (Kept.refl s)

theorem execRailLossReset_kept {s t : State} (h : execRailLossReset s = .next t) : Kept s t := by
  have h := Host.Outcome.next.inj h; subst h; exact railLossReset_kept  (Kept.refl s)

theorem execFirmwareReset_kept {s t : State} (h : execFirmwareReset s = .next t) : Kept s t := by
  have h := Host.Outcome.next.inj h; subst h; exact firmwareReset_kept  (Kept.refl s)

theorem execRingmasterRestart_kept {s t : State} (h : execRingmasterRestart s = .next t) : Kept s t := by
  have h := Host.Outcome.next.inj h; subst h; exact ringmasterRestart_kept  (Kept.refl s)

theorem execXtalFail_kept (n : BitVec 32) {s t : State} (h : execXtalFail n s = .next t) : Kept s t := by
  have h := Host.Outcome.next.inj h; subst h; exact xtalFail_kept _ (Kept.refl s)

theorem execXtalRecover_kept {s t : State} (h : execXtalRecover s = .next t) : Kept s t := by
  have h := Host.Outcome.next.inj h; subst h; exact xtalRecover_kept  (Kept.refl s)

theorem execShortTimerEnd_kept {s t : State} (h : execShortTimerEnd s = .next t) : Kept s t := by
  have h := Host.Outcome.next.inj h; subst h; exact shortTimerEnd_kept  (Kept.refl s)

theorem execShortQuietEnd_kept {s t : State} (h : execShortQuietEnd s = .next t) : Kept s t := by
  have h := Host.Outcome.next.inj h; subst h; exact shortQuietEnd_kept  (Kept.refl s)

theorem execStage2_kept {s t : State} (h : execStage2 s = .next t) : Kept s t := by
  have h := Host.Outcome.next.inj h; subst h; exact stage2_kept  (Kept.refl s)

theorem execSpinPermission_kept {s t : State} (h : execSpinPermission s = .next t) : Kept s t := by
  have h := Host.Outcome.next.inj h; subst h; exact spinPermission_kept  (Kept.refl s)

theorem execSpinHoldNChange_kept (level : Bool) {s t : State} (h : execSpinHoldNChange level s = .next t) : Kept s t := by
  have h := Host.Outcome.next.inj h; subst h; exact spinHoldChange_kept _ (Kept.refl s)

theorem execSpinBackoffEnd_kept {s t : State} (h : execSpinBackoffEnd s = .next t) : Kept s t := by
  have h := Host.Outcome.next.inj h; subst h; exact spinBackoffEnd_kept  (Kept.refl s)

theorem execSpinDelayEnd_kept {s t : State} (h : execSpinDelayEnd s = .next t) : Kept s t := by
  have h := Host.Outcome.next.inj h; subst h; exact spinDelayEnd_kept  (Kept.refl s)

theorem execSagWaitEnd_kept {s t : State} (h : execSagWaitEnd s = .next t) : Kept s t := by
  have h := Host.Outcome.next.inj h; subst h; exact sagWaitEnd_kept  (Kept.refl s)

theorem execIoReady_kept (sysBad : List Act) (keyBad : List (BitVec 32)) (journalBad : List (BitVec 32)) (trialOk : Bool) {s t : State} (h : execIoReady sysBad keyBad journalBad trialOk s = .next t) : Kept s t := by
  have h := Host.Outcome.next.inj h; subst h; exact ioReady_kept _ _ _ _ (Kept.refl s)

theorem execStartLate_kept {s t : State} (h : execStartLate s = .next t) : Kept s t := by
  have h := Host.Outcome.next.inj h; subst h; exact startLate_kept  (Kept.refl s)

theorem execPwrEnStep_kept {s t : State} (h : execPwrEnStep s = .next t) : Kept s t := by
  have h := Host.Outcome.next.inj h; subst h; exact pwrEnStep_kept  (Kept.refl s)

end Sys2Proof.Machine
end

