-- ==== Sys2Proof/Laws/KeptPower.lean ====
section
/-!
SUPPORT. Every operation of `Machine/Power.lean` keeps what `Kept` names.
-/

namespace Sys2Proof.Machine

set_option Elab.async false
set_option linter.unusedTactic false
set_option linter.unreachableTactic false
set_option linter.unusedVariables false

theorem opsecTick_kept {s₀ : State} {s : State} (hK : Kept s₀ s) :
    Kept s₀ (opsecTick s) := by
  unfold opsecTick
  repeat' first
    | with_reducible assumption | with_reducible apply Kept.put | with_reducible apply Kept.when
    | with_reducible apply State.post_kept | intro _ | with_reducible apply Kept.ite | split | dsimp only [id_eq]
    | simp only [Kept.mk] | (rename_i e; with_reducible refine Kept.of_eq e ?_)

theorem State.wakeBy_kept {s₀ : State} {s : State} (cause : Nat) (hK : Kept s₀ s) :
    Kept s₀ (State.wakeBy s cause) := by
  unfold State.wakeBy
  repeat' first
    | with_reducible assumption | with_reducible apply State.wakeFrom5_kept | with_reducible apply Kept.put | intro _
    | with_reducible apply Kept.ite | split | dsimp only [id_eq] | simp only [Kept.mk]
    | (rename_i e; with_reducible refine Kept.of_eq e ?_)

theorem signalDetectWake_kept {s₀ : State} {s : State} (hK : Kept s₀ s) :
    Kept s₀ (signalDetectWake s) := by
  unfold signalDetectWake
  repeat' first
    | with_reducible assumption | with_reducible apply State.wakeBy_kept | intro _ | with_reducible apply Kept.ite
    | split | dsimp only [id_eq] | simp only [Kept.mk] | (rename_i e; with_reducible refine Kept.of_eq e ?_)

theorem ssCsWake_kept {s₀ : State} {s : State} (hK : Kept s₀ s) :
    Kept s₀ (ssCsWake s) := by
  unfold ssCsWake
  repeat' first
    | with_reducible assumption | with_reducible apply State.wakeBy_kept | intro _ | with_reducible apply Kept.ite
    | split | dsimp only [id_eq] | simp only [Kept.mk] | (rename_i e; with_reducible refine Kept.of_eq e ?_)

theorem sidebandWake_kept {s₀ : State} {s : State} (hK : Kept s₀ s) :
    Kept s₀ (sidebandWake s) := by
  unfold sidebandWake
  repeat' first
    | with_reducible assumption | with_reducible apply State.wakeBy_kept | intro _ | with_reducible apply Kept.ite
    | split | dsimp only [id_eq] | simp only [Kept.mk] | (rename_i e; with_reducible refine Kept.of_eq e ?_)

theorem State.idled_kept {s₀ : State} {s : State} (hK : Kept s₀ s) :
    Kept s₀ (State.idled s) := by
  unfold State.idled
  repeat' first
    | with_reducible assumption | with_reducible apply Kept.put | with_reducible apply State.follow_kept
    | with_reducible apply State.present_kept | intro _ | with_reducible apply Kept.ite | split | dsimp only [id_eq]
    | simp only [Kept.mk] | (rename_i e; with_reducible refine Kept.of_eq e ?_)

theorem idleTimer_kept {s₀ : State} {s : State} (hK : Kept s₀ s) :
    Kept s₀ (idleTimer s) := by
  unfold idleTimer
  repeat' first
    | with_reducible assumption | with_reducible apply State.idled_kept | intro _ | with_reducible apply Kept.ite
    | split | dsimp only [id_eq] | simp only [Kept.mk] | (rename_i e; with_reducible refine Kept.of_eq e ?_)

theorem wakeHoldExpiry_kept {s₀ : State} (long : Bool) {s : State} (hK : Kept s₀ s) :
    Kept s₀ (wakeHoldExpiry long s) := by
  unfold wakeHoldExpiry
  repeat' first
    | with_reducible assumption | with_reducible apply Kept.when | with_reducible apply Kept.put
    | with_reducible apply State.idled_kept | intro _ | with_reducible apply Kept.ite | split | dsimp only [id_eq]
    | simp only [Kept.mk] | (rename_i e; with_reducible refine Kept.of_eq e ?_)

theorem State.psBegin_kept {s₀ : State} {s : State} (tgt : Nat) (n : Nat) (hK : Kept s₀ s) :
    Kept s₀ (State.psBegin s tgt n) := by
  unfold State.psBegin
  repeat' first
    | with_reducible assumption | with_reducible apply Kept.put | with_reducible apply Kept.forAll
    | with_reducible apply State.beginPoint_kept | with_reducible apply State.unloadAll_kept
    | with_reducible apply State.puts_kept | with_reducible apply State.cleanAll_kept
    | with_reducible apply State.showPkt_kept | with_reducible apply State.listen_kept
    | with_reducible apply State.dropHbm_kept | intro _ | with_reducible apply Kept.ite | split | dsimp only [id_eq]
    | simp only [Kept.mk] | (rename_i e; with_reducible refine Kept.of_eq e ?_)

theorem psEntryStep_kept {s₀ : State} {s : State} (hK : Kept s₀ s) :
    Kept s₀ (psEntryStep s) := by
  unfold psEntryStep
  repeat' first
    | with_reducible assumption | with_reducible apply State.psBegin_kept | with_reducible apply State.checkMiss_kept
    | with_reducible apply State.setPs_kept | with_reducible apply Kept.put | intro _ | with_reducible apply Kept.ite
    | split | dsimp only [id_eq] | simp only [Kept.mk] | (rename_i e; with_reducible refine Kept.of_eq e ?_)

theorem State.crossCheck_kept {s₀ : State} {s : State} (i : Nat) (hK : Kept s₀ s) :
    Kept s₀ (State.crossCheck s i) := by
  unfold State.crossCheck
  repeat' first
    | with_reducible assumption | with_reducible apply Kept.put | with_reducible apply State.post_kept
    | with_reducible apply State.count_kept | with_reducible apply State.evt_kept
    | with_reducible apply State.setBit_kept | intro _ | with_reducible apply Kept.ite | split | dsimp only [id_eq]
    | simp only [Kept.mk] | (rename_i e; with_reducible refine Kept.of_eq e ?_)

theorem State.throtEvent_kept {s₀ : State} {s : State} (hK : Kept s₀ s) :
    Kept s₀ (State.throtEvent s) := by
  unfold State.throtEvent
  repeat' first
    | with_reducible assumption | with_reducible apply State.count_kept | with_reducible apply State.edge_kept
    | intro _ | with_reducible apply Kept.ite | split | dsimp only [id_eq] | simp only [Kept.mk]
    | (rename_i e; with_reducible refine Kept.of_eq e ?_)

theorem State.throtAct_kept {s₀ : State} {s : State} (d : Nat) (hK : Kept s₀ s) :
    Kept s₀ (State.throtAct s d) := by
  unfold State.throtAct
  repeat' first
    | with_reducible assumption | with_reducible apply Kept.when | with_reducible apply State.showTherm_kept
    | with_reducible apply State.rateCheck_kept | with_reducible apply Kept.put
    | with_reducible apply State.puts_kept | with_reducible apply State.setHold_kept | intro _
    | with_reducible apply Kept.ite | split | dsimp only [id_eq] | simp only [Kept.mk]
    | (rename_i e; with_reducible refine Kept.of_eq e ?_)

theorem State.throtEnd_kept {s₀ : State} {s : State} (d : Nat) (hK : Kept s₀ s) :
    Kept s₀ (State.throtEnd s d) := by
  unfold State.throtEnd
  repeat' first
    | with_reducible assumption | with_reducible apply State.post_kept | with_reducible apply State.throtEvent_kept
    | with_reducible apply Kept.put | intro _ | with_reducible apply Kept.ite | split | dsimp only [id_eq]
    | simp only [Kept.mk] | (rename_i e; with_reducible refine Kept.of_eq e ?_)

theorem throttleStepUp_kept {s₀ : State} (die : Fin 4) {s : State} (hK : Kept s₀ s) :
    Kept s₀ (throttleStepUp die s) := by
  unfold throttleStepUp
  repeat' first
    | with_reducible assumption | with_reducible apply State.throtAct_kept | with_reducible apply Kept.put
    | with_reducible apply State.post_kept | with_reducible apply State.evt_kept
    | with_reducible apply State.throtEvent_kept | intro _ | with_reducible apply Kept.ite | split
    | dsimp only [id_eq] | simp only [Kept.mk] | (rename_i e; with_reducible refine Kept.of_eq e ?_)

theorem throttleStepDown_kept {s₀ : State} (die : Fin 4) {s : State} (hK : Kept s₀ s) :
    Kept s₀ (throttleStepDown die s) := by
  unfold throttleStepDown
  repeat' first
    | with_reducible assumption | with_reducible apply State.throtEnd_kept | with_reducible apply State.throtAct_kept
    | with_reducible apply Kept.put | intro _ | with_reducible apply Kept.ite | split | dsimp only [id_eq]
    | simp only [Kept.mk] | (rename_i e; with_reducible refine Kept.of_eq e ?_)

theorem throttleAlternate_kept {s₀ : State} {s : State} (hK : Kept s₀ s) :
    Kept s₀ (throttleAlternate s) := by
  unfold throttleAlternate
  repeat' first
    | with_reducible assumption | with_reducible apply State.showTherm_kept | with_reducible apply Kept.put | intro _
    | with_reducible apply Kept.ite | split | dsimp only [id_eq] | simp only [Kept.mk]
    | (rename_i e; with_reducible refine Kept.of_eq e ?_)

theorem fabricPauseWindow_kept {s₀ : State} {s : State} (hK : Kept s₀ s) :
    Kept s₀ (fabricPauseWindow s) := by
  unfold fabricPauseWindow
  repeat' first
    | with_reducible assumption | with_reducible apply Kept.put | intro _ | with_reducible apply Kept.ite | split
    | dsimp only [id_eq] | simp only [Kept.mk] | (rename_i e; with_reducible refine Kept.of_eq e ?_)

theorem State.tempNotices_kept {s₀ : State} (s : State) {t : State} (i : Nat) (h : Kept s₀ t) :
    Kept s₀ (State.tempNotices s t i) := by
  unfold State.tempNotices
  refine Kept.forAll _ (fun x u hu => ?_) _ _ h
  dsimp only
  repeat' first | with_reducible assumption | with_reducible apply State.notice_kept | split | dsimp only

theorem State.thermalOff_kept {s₀ : State} {s : State} (i : Nat) (hK : Kept s₀ s) :
    Kept s₀ (State.thermalOff s i) := by
  unfold State.thermalOff
  repeat' first
    | with_reducible assumption | with_reducible apply State.count_kept | with_reducible apply State.evt_kept
    | with_reducible apply State.puts_kept | with_reducible apply State.stopAssert_kept
    | with_reducible apply State.post_kept | intro _ | with_reducible apply Kept.ite | split | dsimp only [id_eq]
    | simp only [Kept.mk] | (rename_i e; with_reducible refine Kept.of_eq e ?_)

theorem sensorSample_kept {s₀ : State} (i : Fin 5) (raw : BitVec 16) {s : State} (hK : Kept s₀ s) :
    Kept s₀ (sensorSample i raw s) := by
  unfold sensorSample
  repeat' first
    | with_reducible assumption | with_reducible apply Kept.put | with_reducible apply State.crossCheck_kept
    | with_reducible apply State.putI_kept | with_reducible apply State.putB_kept | with_reducible apply Kept.when
    | with_reducible apply State.post_kept | with_reducible apply State.edge_kept
    | with_reducible apply State.evt_kept | with_reducible apply State.throtEvent_kept
    | with_reducible apply State.puts_kept | with_reducible apply State.throtEnd_kept
    | with_reducible apply State.checkGrant_kept | with_reducible apply State.tempNotices_kept
    | with_reducible apply State.thermalOff_kept | intro _ | with_reducible apply Kept.ite | split
    | dsimp only [id_eq] | simp only [Kept.mk] | (rename_i e; with_reducible refine Kept.of_eq e ?_)

theorem thermalRestart_kept {s₀ : State} {s : State} (hK : Kept s₀ s) :
    Kept s₀ (thermalRestart s) := by
  unfold thermalRestart
  repeat' first
    | with_reducible assumption | with_reducible apply State.restart2_kept | with_reducible apply State.post_kept
    | with_reducible apply State.puts_kept | intro _ | with_reducible apply Kept.ite | split | dsimp only [id_eq]
    | simp only [Kept.mk] | (rename_i e; with_reducible refine Kept.of_eq e ?_)

theorem State.clearSuspect_kept {s₀ : State} {s : State} (mask : Nat) (hK : Kept s₀ s) :
    Kept s₀ (State.clearSuspect s mask) := by
  unfold State.clearSuspect
  repeat' first
    | with_reducible assumption | with_reducible apply Kept.forAll | with_reducible apply Kept.put
    | with_reducible apply State.setBit_kept | intro _ | with_reducible apply Kept.ite | split | dsimp only [id_eq]
    | simp only [Kept.mk] | (rename_i e; with_reducible refine Kept.of_eq e ?_)

theorem execSignalDetectWake_kept {s t : State} (h : execSignalDetectWake s = .next t) : Kept s t := by
  have h := Host.Outcome.next.inj h; subst h; exact signalDetectWake_kept  (Kept.refl s)

theorem execOpsecTick_kept {s t : State} (h : execOpsecTick s = .next t) : Kept s t := by
  have h := Host.Outcome.next.inj h; subst h; exact opsecTick_kept  (Kept.refl s)

theorem execIdleTimer_kept {s t : State} (h : execIdleTimer s = .next t) : Kept s t := by
  have h := Host.Outcome.next.inj h; subst h; exact idleTimer_kept  (Kept.refl s)

theorem execWakeHoldExpiry_kept (long : Bool) {s t : State} (h : execWakeHoldExpiry long s = .next t) : Kept s t := by
  have h := Host.Outcome.next.inj h; subst h; exact wakeHoldExpiry_kept _ (Kept.refl s)

theorem execPsEntryStep_kept {s t : State} (h : execPsEntryStep s = .next t) : Kept s t := by
  have h := Host.Outcome.next.inj h; subst h; exact psEntryStep_kept  (Kept.refl s)

theorem execSsCsWake_kept {s t : State} (h : execSsCsWake s = .next t) : Kept s t := by
  have h := Host.Outcome.next.inj h; subst h; exact ssCsWake_kept  (Kept.refl s)

theorem execSidebandWake_kept {s t : State} (h : execSidebandWake s = .next t) : Kept s t := by
  have h := Host.Outcome.next.inj h; subst h; exact sidebandWake_kept  (Kept.refl s)

theorem execSensorSample_kept (sensor : Fin 5) (raw : BitVec 16) {s t : State} (h : execSensorSample sensor raw s = .next t) : Kept s t := by
  have h := Host.Outcome.next.inj h; subst h; exact sensorSample_kept _ _ (Kept.refl s)

theorem execThermalRestart_kept {s t : State} (h : execThermalRestart s = .next t) : Kept s t := by
  have h := Host.Outcome.next.inj h; subst h; exact thermalRestart_kept  (Kept.refl s)

theorem execThrottleStepUp_kept (die : Fin 4) {s t : State} (h : execThrottleStepUp die s = .next t) : Kept s t := by
  have h := Host.Outcome.next.inj h; subst h; exact throttleStepUp_kept _ (Kept.refl s)

theorem execThrottleStepDown_kept (die : Fin 4) {s t : State} (h : execThrottleStepDown die s = .next t) : Kept s t := by
  have h := Host.Outcome.next.inj h; subst h; exact throttleStepDown_kept _ (Kept.refl s)

theorem execThrottleAlternate_kept {s t : State} (h : execThrottleAlternate s = .next t) : Kept s t := by
  have h := Host.Outcome.next.inj h; subst h; exact throttleAlternate_kept  (Kept.refl s)

theorem execFabricPauseWindow_kept {s t : State} (h : execFabricPauseWindow s = .next t) : Kept s t := by
  have h := Host.Outcome.next.inj h; subst h; exact fabricPauseWindow_kept  (Kept.refl s)

end Sys2Proof.Machine
end

