-- ==== Sys2Proof/Laws/KeptRegisters.lean ====
section
/-!
SUPPORT. Every operation of `Machine/Registers.lean` keeps what `Kept` names.
-/

namespace Sys2Proof.Machine

set_option Elab.async false
set_option linter.unusedTactic false
set_option linter.unreachableTactic false
set_option linter.unusedVariables false

theorem enRes_kept {s₀ : State} {x : State × Nat} (hK : Kept s₀ x.1) :
    Kept s₀ (enRes x).1 := by
  unfold enRes
  repeat' first
    | with_reducible assumption | intro _ | with_reducible apply Kept.ite | split | dsimp only [id_eq]
    | simp only [Kept.mk] | (rename_i e; with_reducible refine Kept.of_eq e ?_)

theorem State.actRefuse_kept {s₀ : State} {s : State} (a : Nat) (reason : Nat) (hK : Kept s₀ s) :
    Kept s₀ (State.actRefuse s a reason).1 := by
  unfold State.actRefuse
  repeat' first
    | with_reducible assumption | with_reducible apply Kept.put | intro _ | with_reducible apply Kept.ite | split
    | dsimp only [id_eq] | simp only [Kept.mk] | (rename_i e; with_reducible refine Kept.of_eq e ?_)

theorem State.actEn2_kept {s₀ : State} {s : State} (w : World) (a : Nat) (hK : Kept s₀ s) :
    Kept s₀ (State.actEn2 s w a).1 := by
  unfold State.actEn2
  repeat' first
    | with_reducible assumption | with_reducible apply State.actRefuse_kept | with_reducible apply Kept.put
    | with_reducible apply State.tfhPass_kept | with_reducible apply State.tfhEnable_kept
    | with_reducible apply State.srvEnable_kept | with_reducible apply State.seqEnable_kept
    | with_reducible apply State.chnEnable_kept | intro _ | with_reducible apply Kept.ite | split
    | dsimp only [id_eq] | simp only [Kept.mk] | (rename_i e; with_reducible refine Kept.of_eq e ?_)

theorem State.actEn_kept {s₀ : State} {s : State} (w : World) (a : Nat) (hK : Kept s₀ s) :
    Kept s₀ (State.actEn s w a).1 := by
  unfold State.actEn
  repeat' first
    | with_reducible assumption | with_reducible apply State.actRefuse_kept
    | with_reducible apply State.sptEnable_kept | with_reducible apply State.actEn2_kept | intro _
    | with_reducible apply Kept.ite | split | dsimp only [id_eq] | simp only [Kept.mk]
    | (rename_i e; with_reducible refine Kept.of_eq e ?_)

theorem State.sptDisable_kept {s₀ : State} {s : State} (a : Nat) (hK : Kept s₀ s) :
    Kept s₀ (State.sptDisable s a) := by
  unfold State.sptDisable
  repeat' first
    | with_reducible assumption | with_reducible apply State.puts_kept | intro _ | with_reducible apply Kept.ite
    | split | dsimp only [id_eq] | simp only [Kept.mk] | (rename_i e; with_reducible refine Kept.of_eq e ?_)

theorem State.tfhDisable_kept {s₀ : State} {s : State} (hK : Kept s₀ s) :
    Kept s₀ (State.tfhDisable s) := by
  unfold State.tfhDisable
  repeat' first
    | with_reducible assumption | with_reducible apply Kept.forAll | with_reducible apply Kept.put | intro _
    | with_reducible apply Kept.ite | split | dsimp only [id_eq] | simp only [Kept.mk]
    | (rename_i e; with_reducible refine Kept.of_eq e ?_)

theorem State.actClear_kept {s₀ : State} {s : State} (a : Nat) (hK : Kept s₀ s) :
    Kept s₀ (State.actClear s a) := by
  unfold State.actClear
  repeat' first
    | with_reducible assumption | with_reducible apply State.sptDisable_kept
    | with_reducible apply State.srvDisable_kept | with_reducible apply State.seqDisable_kept
    | with_reducible apply Kept.put | with_reducible apply State.tfhDisable_kept | intro _
    | with_reducible apply Kept.ite | split | dsimp only [id_eq] | simp only [Kept.mk]
    | (rename_i e; with_reducible refine Kept.of_eq e ?_)

theorem State.actDis_kept {s₀ : State} {s : State} (w : World) (a : Nat) (hK : Kept s₀ s) :
    Kept s₀ (State.actDis s w a).1 := by
  unfold State.actDis
  repeat' first
    | with_reducible assumption | with_reducible apply State.unloadRequest_kept
    | with_reducible apply State.actClear_kept | intro _ | with_reducible apply Kept.ite | split | dsimp only [id_eq]
    | simp only [Kept.mk] | (rename_i e; with_reducible refine Kept.of_eq e ?_)

theorem State.enSet_kept {s₀ : State} {s : State} (w : World) (blk : Nat) (sel : Nat) (i : Nat) (hK : Kept s₀ s) :
    Kept s₀ (State.enSet s w blk sel i).1 := by
  unfold State.enSet
  repeat' first
    | with_reducible assumption | with_reducible apply enRes_kept | with_reducible apply State.fabEnable_kept
    | with_reducible apply State.cmdEnable_kept | with_reducible apply State.actEn_kept
    | with_reducible apply State.truEnable_kept | with_reducible apply State.pwkAct_kept
    | with_reducible apply State.pktEnable_kept | with_reducible apply State.mmgEnable_kept
    | with_reducible apply State.fmtCommit_kept | with_reducible apply State.chnEnable_kept
    | with_reducible apply State.seqEnable_kept | with_reducible apply State.srvEnable_kept
    | with_reducible apply State.trzEnable_kept | with_reducible apply State.crlEnable_kept
    | with_reducible apply State.stmEnable_kept | with_reducible apply State.sptEnable_kept
    | with_reducible apply State.tfhEnable_kept | with_reducible apply State.sntEnable_kept | intro _
    | with_reducible apply Kept.ite | split | dsimp only [id_eq] | simp only [Kept.mk]
    | (rename_i e; with_reducible refine Kept.of_eq e ?_)

theorem State.enClear_kept {s₀ : State} {s : State} (w : World) (blk : Nat) (sel : Nat) (i : Nat) (hK : Kept s₀ s) :
    Kept s₀ (State.enClear s w blk sel i).1 := by
  unfold State.enClear
  repeat' first
    | with_reducible assumption | with_reducible apply State.fabDisable_kept | with_reducible apply State.actDis_kept
    | with_reducible apply State.pwkClear_kept | with_reducible apply State.pktDisable_kept
    | with_reducible apply State.mmgDisable_kept | with_reducible apply State.fmtUncommit_kept
    | with_reducible apply State.seqDisable_kept | with_reducible apply State.srvDisable_kept
    | with_reducible apply State.trzDisable_kept | with_reducible apply State.crlDisable_kept
    | with_reducible apply State.stmDisable_kept | with_reducible apply State.sptDisable_kept
    | with_reducible apply State.tfhDisable_kept | with_reducible apply Kept.put | intro _
    | with_reducible apply Kept.ite | split | dsimp only [id_eq] | simp only [Kept.mk]
    | (rename_i e; with_reducible refine Kept.of_eq e ?_)

theorem State.enWrite_kept {s₀ : State} {s : State} (w : World) (blk : Nat) (sel : Nat) (i : Nat) (v : Bool) (hK : Kept s₀ s) :
    Kept s₀ (State.enWrite s w blk sel i v).1 := by
  unfold State.enWrite
  repeat' first
    | with_reducible assumption | with_reducible apply State.enSet_kept | with_reducible apply State.enClear_kept
    | intro _ | with_reducible apply Kept.ite | split | dsimp only [id_eq] | simp only [Kept.mk]
    | (rename_i e; with_reducible refine Kept.of_eq e ?_)

theorem State.enResume_kept {s₀ : State} {s : State} (w : World) (blk : Nat) (i : Nat) (v : Bool) (hK : Kept s₀ s) :
    Kept s₀ (State.enResume s w blk i v).1 := by
  unfold State.enResume
  repeat' first
    | with_reducible assumption | with_reducible apply State.actEn2_kept | with_reducible apply State.actClear_kept
    | intro _ | with_reducible apply Kept.ite | split | dsimp only [id_eq] | simp only [Kept.mk]
    | (rename_i e; with_reducible refine Kept.of_eq e ?_)

theorem State.putField_kept {s₀ : State} {s : State} (blk : Nat) (inst : Nat) (off : Nat) (v : Nat) (hw : Nat) (r : RegRow) (hK : Kept s₀ s) :
    Kept s₀ (State.putField s blk inst off v hw r) := by
  unfold State.putField
  repeat' first
    | with_reducible assumption | with_reducible apply Kept.put | intro _ | with_reducible apply Kept.ite | split
    | dsimp only [id_eq] | simp only [Kept.mk] | (rename_i e; with_reducible refine Kept.of_eq e ?_)

theorem State.putWord_kept {s₀ : State} {s : State} (blk : Nat) (inst : Nat) (off : Nat) (v : Nat) (hw : Nat) (skip : List Nat) (hK : Kept s₀ s) :
    Kept s₀ (State.putWord s blk inst off v hw skip) := by
  unfold State.putWord
  repeat' first
    | with_reducible assumption | with_reducible apply State.watch_kept | with_reducible apply Kept.forAll
    | with_reducible apply State.putField_kept | intro _ | with_reducible apply Kept.ite | split | dsimp only [id_eq]
    | simp only [Kept.mk] | (rename_i e; with_reducible refine Kept.of_eq e ?_)

theorem stRes_kept {s₀ : State} {x : State × Nat} (hK : Kept s₀ x.1) :
    Kept s₀ (stRes x).1 := by
  unfold stRes
  repeat' first
    | with_reducible assumption | intro _ | with_reducible apply Kept.ite | split | dsimp only [id_eq]
    | simp only [Kept.mk] | (rename_i e; with_reducible refine Kept.of_eq e ?_)

theorem State.regWrite_kept {s₀ : State} {s : State} (mb : Nat) (w : World) (blk : Nat) (inst : Nat) (off : Nat) (v : Nat) (hK : Kept s₀ s) :
    Kept s₀ (State.regWrite s mb w blk inst off v).1 := by
  unfold State.regWrite
  repeat' first
    | with_reducible assumption | with_reducible apply State.putWord_kept | with_reducible apply State.enWrite_kept
    | with_reducible apply State.enSet_kept | with_reducible apply State.counterClear_kept
    | with_reducible apply State.putWin_kept | with_reducible apply State.putTable_kept
    | with_reducible apply State.setPortDis_kept | with_reducible apply State.setFetchHold_kept
    | with_reducible apply hiwatClr_kept | with_reducible apply State.setRate_kept | with_reducible apply Kept.put
    | with_reducible apply stRes_kept | with_reducible apply State.pktRange_kept | with_reducible apply Kept.when
    | with_reducible apply State.altResume_kept | with_reducible apply State.checkSpare_kept
    | with_reducible apply rdAbort_kept | with_reducible apply replayHold_kept
    | with_reducible apply State.ofsWrite_kept | with_reducible apply spOvr_kept
    | with_reducible apply stmResume_kept | with_reducible apply State.maClear_kept
    | with_reducible apply State.measGo11_kept | with_reducible apply wrInh_kept
    | with_reducible apply State.measGo_kept | with_reducible apply hdwpClear_kept
    | with_reducible apply touchdownAbort_kept | with_reducible apply State.tdGo_kept
    | with_reducible apply State.setHold_kept | with_reducible apply State.putB_kept
    | with_reducible apply State.sntKick_kept | with_reducible apply State.traceGo_kept
    | with_reducible apply State.clpSrcWrite_kept | with_reducible apply State.clpClaim_kept
    | with_reducible apply State.clpDone_kept | intro _ | with_reducible apply Kept.ite | split | dsimp only [id_eq]
    | simp only [Kept.mk] | (rename_i e; with_reducible refine Kept.of_eq e ?_)

theorem State.wrResume_kept {s₀ : State} {s : State} (w : World) (blk : Nat) (inst : Nat) (off : Nat) (hK : Kept s₀ s) :
    Kept s₀ (State.wrResume s w blk inst off).1 := by
  unfold State.wrResume
  repeat' first
    | with_reducible assumption | with_reducible apply State.enResume_kept | intro _ | with_reducible apply Kept.ite
    | split | dsimp only [id_eq] | simp only [Kept.mk] | (rename_i e; with_reducible refine Kept.of_eq e ?_)

theorem State.shadowWrite_kept {s₀ : State} {s : State} (no : Nat) (mb : Nat) (w : World) (blk : Nat) (inst : Nat) (off : Nat) (v : Nat) (hK : Kept s₀ s) :
    Kept s₀ (State.shadowWrite s no mb w blk inst off v).1 := by
  unfold State.shadowWrite
  repeat' first
    | with_reducible assumption | with_reducible apply State.regWrite_kept | intro _ | with_reducible apply Kept.ite
    | split | dsimp only [id_eq] | simp only [Kept.mk] | (rename_i e; with_reducible refine Kept.of_eq e ?_)

theorem State.groupWrite_kept {s₀ : State} (no mb : Nat) (w : World) (blk off v : Nat) (l : List Nat) : ∀ {s : State}, Kept s₀ s →
    Kept s₀ (State.groupWrite s no mb w blk off v l).1 := by
  induction l with
  | nil => intro s h; exact h
  | cons i l ih =>
    intro s h
    have hk := State.shadowWrite_kept no mb w blk i off v h
    unfold State.groupWrite
    split
    · rename_i e
      rw [e] at hk
      exact hk
    · rename_i e
      rw [e] at hk
      exact ih hk

theorem State.runEntry_kept {s₀ : State} {s : State} (no : Nat) (mb : Nat) (w : World) (e : Nat × Nat × Nat) (hK : Kept s₀ s) :
    Kept s₀ (State.runEntry s no mb w e).1 := by
  unfold State.runEntry
  repeat' first
    | with_reducible assumption | with_reducible apply State.groupWrite_kept
    | with_reducible apply State.regWrite_kept | intro _ | with_reducible apply Kept.ite | split | dsimp only [id_eq]
    | simp only [Kept.mk] | (rename_i e; with_reducible refine Kept.of_eq e ?_)

theorem State.onReq_kept {s₀ : State} {s : State} (rq : ReqId) (op : Nat) (f : Req → State → State) (hK : Kept s₀ s) (hK_f : ∀ x0 u, Kept s₀ u → Kept s₀ (f x0 u)) :
    Kept s₀ (State.onReq s rq op f) := by
  unfold State.onReq
  repeat' first
    | with_reducible assumption | with_reducible apply hK_f | intro _ | with_reducible apply Kept.ite | split
    | dsimp only [id_eq] | simp only [Kept.mk] | (rename_i e; with_reducible refine Kept.of_eq e ?_)

theorem State.setWork_kept {s₀ : State} {s : State} (k : Work) (hK : Kept s₀ s) :
    Kept s₀ (State.setWork s k) := by
  unfold State.setWork
  repeat' first
    | with_reducible assumption | intro _ | with_reducible apply Kept.ite | split | dsimp only [id_eq]
    | simp only [Kept.mk] | (rename_i e; with_reducible refine Kept.of_eq e ?_)

theorem State.respondW_kept {s₀ : State} {s : State} (no : Nat) (x : Rsp) (hK : Kept s₀ s) :
    Kept s₀ (State.respondW s no x) := by
  unfold State.respondW
  repeat' first
    | with_reducible assumption | with_reducible apply State.updReq_kept | with_reducible apply State.respond_kept
    | intro _ | with_reducible apply Kept.ite | split | dsimp only [id_eq] | simp only [Kept.mk]
    | (rename_i e; with_reducible refine Kept.of_eq e ?_)

theorem State.enStep_kept {s₀ : State} {s : State} (blk : Nat) (sel : Nat) (v : Bool) (first : Bool) (k : Work) (hK : Kept s₀ s) :
    Kept s₀ (State.enStep s blk sel v first k).1 := by
  unfold State.enStep
  repeat' first
    | with_reducible assumption | with_reducible apply State.enWrite_kept | with_reducible apply State.enResume_kept
    | with_reducible apply Kept.foldl | with_reducible apply Kept.foldlFst | intro _ | with_reducible apply Kept.ite
    | split | dsimp only [id_eq] | simp only [Kept.mk] | (rename_i e; with_reducible refine Kept.of_eq e ?_)

theorem State.enGo_kept {s₀ : State} {s : State} (r : Req) (first : Bool) (k : Work) (hK : Kept s₀ s) :
    Kept s₀ (State.enGo s r first k) := by
  unfold State.enGo
  repeat' first
    | with_reducible assumption | with_reducible apply State.enStep_kept | with_reducible apply State.setWork_kept
    | with_reducible apply State.respond_kept | intro _ | with_reducible apply Kept.ite | split | dsimp only [id_eq]
    | simp only [Kept.mk] | (rename_i e; with_reducible refine Kept.of_eq e ?_)

theorem enableCmd_kept {s₀ : State} (rq : ReqId) (w : World) {s : State} (hK : Kept s₀ s) :
    Kept s₀ (enableCmd rq w s) := by
  unfold enableCmd
  repeat' first
    | with_reducible assumption | with_reducible apply State.onReq_kept | with_reducible apply State.respond_kept
    | with_reducible apply State.enGo_kept | intro _ | with_reducible apply Kept.ite | split | dsimp only [id_eq]
    | simp only [Kept.mk] | (rename_i e; with_reducible refine Kept.of_eq e ?_)

theorem enableState_kept {s₀ : State} (rq : ReqId) {s : State} (hK : Kept s₀ s) :
    Kept s₀ (enableState rq s) := by
  unfold enableState
  repeat' first
    | with_reducible assumption | with_reducible apply State.serve_kept | with_reducible apply Kept.foldl
    | with_reducible apply Kept.foldlFst | intro _ | with_reducible apply Kept.ite | split | dsimp only [id_eq]
    | simp only [Kept.mk] | (rename_i e; with_reducible refine Kept.of_eq e ?_)

theorem State.wrDone_kept {s₀ : State} {s : State} (r : Req) (k : Nat) (st : Nat) (reason : Nat) (hK : Kept s₀ s) :
    Kept s₀ (State.wrDone s r k st reason) := by
  unfold State.wrDone
  repeat' first
    | with_reducible assumption | with_reducible apply State.respondW_kept | intro _ | with_reducible apply Kept.ite
    | split | dsimp only [id_eq] | simp only [Kept.mk] | (rename_i e; with_reducible refine Kept.of_eq e ?_)

theorem State.wrGo_kept {s₀ : State} (r : Req) (w : World) (l : List Nat) : ∀ {s : State}, Kept s₀ s →
    Kept s₀ (State.wrGo s r w l) := by
  induction l with
  | nil => intro s h; exact State.wrDone_kept r _ 0 0 h
  | cons k l ih =>
    intro s h
    have hk := State.runEntry_kept r.no r.mb { w with hw := w.hw.drop k } (r.entries.getD k (0, 0, 0)) h
    unfold State.wrGo
    split
    · exact ih (Kept.of_eq (by assumption) hk)
    · exact State.wrDone_kept r _ _ _ (Kept.of_eq (by assumption) hk)
    · exact State.setWork_kept _ (Kept.of_eq (by assumption) hk)

theorem State.wrBegin_kept {s₀ : State} {s : State} (r : Req) (w : World) (hK : Kept s₀ s) :
    Kept s₀ (State.wrBegin s r w) := by
  unfold State.wrBegin
  repeat' first
    | with_reducible assumption | with_reducible apply State.wrDone_kept | with_reducible apply State.wrGo_kept
    | intro _ | with_reducible apply Kept.ite | split | dsimp only [id_eq] | simp only [Kept.mk]
    | (rename_i e; with_reducible refine Kept.of_eq e ?_)

theorem regWriteCmd_kept {s₀ : State} (rq : ReqId) (w : World) {s : State} (hK : Kept s₀ s) :
    Kept s₀ (regWriteCmd rq w s) := by
  unfold regWriteCmd
  repeat' first
    | with_reducible assumption | with_reducible apply State.onReq_kept | with_reducible apply State.respond_kept
    | with_reducible apply State.wrBegin_kept | intro _ | with_reducible apply Kept.ite | split | dsimp only [id_eq]
    | simp only [Kept.mk] | (rename_i e; with_reducible refine Kept.of_eq e ?_)

theorem regWriteBlock_kept {s₀ : State} (rq : ReqId) (w : World) {s : State} (hK : Kept s₀ s) :
    Kept s₀ (regWriteBlock rq w s) := by
  unfold regWriteBlock
  repeat' first
    | with_reducible assumption | with_reducible apply State.onReq_kept | with_reducible apply State.respond_kept
    | with_reducible apply State.wrDone_kept | with_reducible apply State.wrBegin_kept | intro _
    | with_reducible apply Kept.ite | split | dsimp only [id_eq] | simp only [Kept.mk]
    | (rename_i e; with_reducible refine Kept.of_eq e ?_)

theorem regReadCmd_kept {s₀ : State} (rq : ReqId) {s : State} (hK : Kept s₀ s) :
    Kept s₀ (regReadCmd rq s) := by
  unfold regReadCmd
  repeat' first
    | with_reducible assumption | with_reducible apply State.serve_kept | intro _ | with_reducible apply Kept.ite
    | split | dsimp only [id_eq] | simp only [Kept.mk] | (rename_i e; with_reducible refine Kept.of_eq e ?_)

theorem regReadBlock_kept {s₀ : State} (rq : ReqId) {s : State} (hK : Kept s₀ s) :
    Kept s₀ (regReadBlock rq s) := by
  unfold regReadBlock
  repeat' first
    | with_reducible assumption | with_reducible apply State.serve_kept | intro _ | with_reducible apply Kept.ite
    | split | dsimp only [id_eq] | simp only [Kept.mk] | (rename_i e; with_reducible refine Kept.of_eq e ?_)

theorem registerWrite_kept {s₀ : State} (sender : Fin 64) (blk : Fin 256) (inst : Fin 40) (off : Fin 65536) (v : BitVec 32) (w : World) {s : State} (hK : Kept s₀ s) :
    Kept s₀ (registerWrite sender blk inst off v w s) := by
  unfold registerWrite
  repeat' first
    | with_reducible assumption | with_reducible apply State.regWrite_kept | intro _ | with_reducible apply Kept.ite
    | split | dsimp only [id_eq] | simp only [Kept.mk] | (rename_i e; with_reducible refine Kept.of_eq e ?_)

theorem State.commitOne_kept {s₀ : State} {s : State} (hw : List (BitVec 32)) (h : Shadow) (hK : Kept s₀ s) :
    Kept s₀ (State.commitOne s hw h) := by
  unfold State.commitOne
  repeat' first
    | with_reducible assumption | with_reducible apply State.regWrite_kept | with_reducible apply State.updReq_kept
    | intro _ | with_reducible apply Kept.ite | split | dsimp only [id_eq] | simp only [Kept.mk]
    | (rename_i e; with_reducible refine Kept.of_eq e ?_)

theorem shadowCommit_kept {s₀ : State} (a : Act) (hw : List (List (BitVec 32))) {s : State} (hK : Kept s₀ s) :
    Kept s₀ (shadowCommit a hw s) := by
  unfold shadowCommit
  repeat' first
    | with_reducible assumption | with_reducible apply Kept.forAll | with_reducible apply State.commitOne_kept
    | intro _ | with_reducible apply Kept.ite | split | dsimp only [id_eq] | simp only [Kept.mk]
    | (rename_i e; with_reducible refine Kept.of_eq e ?_)

theorem State.workOn_kept {s₀ : State} {s : State} (k : Work) (hK : Kept s₀ s) :
    Kept s₀ (State.workOn s k) := by
  unfold State.workOn
  repeat' first
    | with_reducible assumption | with_reducible apply State.setWork_kept | with_reducible apply State.enGo_kept
    | with_reducible apply State.wrResume_kept | with_reducible apply State.wrDone_kept
    | with_reducible apply State.wrGo_kept | intro _ | with_reducible apply Kept.ite | split | dsimp only [id_eq]
    | simp only [Kept.mk] | (rename_i e; with_reducible refine Kept.of_eq e ?_)

theorem State.workAll_kept {s₀ : State} {s : State} (hK : Kept s₀ s) :
    Kept s₀ (State.workAll s) := by
  unfold State.workAll
  repeat' first
    | with_reducible assumption | with_reducible apply Kept.forAll | with_reducible apply State.workOn_kept | intro _
    | with_reducible apply Kept.ite | split | dsimp only [id_eq] | simp only [Kept.mk]
    | (rename_i e; with_reducible refine Kept.of_eq e ?_)

theorem enumerationEnd_kept {s₀ : State} (a : Act) (paId : BitVec 16) (paCap : BitVec 16) (loads : List (List Nat)) (flex : Nat) {s : State} (hK : Kept s₀ s) :
    Kept s₀ (enumerationEnd a paId paCap loads flex s) := by
  unfold enumerationEnd
  repeat' first
    | with_reducible assumption | with_reducible apply State.workAll_kept
    | with_reducible apply enumerationComplete_kept | intro _ | with_reducible apply Kept.ite | split
    | dsimp only [id_eq] | simp only [Kept.mk] | (rename_i e; with_reducible refine Kept.of_eq e ?_)

theorem headsOnRampEnd_kept {s₀ : State} (a : Act) {s : State} (hK : Kept s₀ s) :
    Kept s₀ (headsOnRampEnd a s) := by
  unfold headsOnRampEnd
  repeat' first
    | with_reducible assumption | with_reducible apply State.workAll_kept | with_reducible apply headsOnRamp_kept
    | intro _ | with_reducible apply Kept.ite | split | dsimp only [id_eq] | simp only [Kept.mk]
    | (rename_i e; with_reducible refine Kept.of_eq e ?_)

theorem requestEnd_kept {s₀ : State} (rq : ReqId) {s : State} (hK : Kept s₀ s) :
    Kept s₀ (requestEnd rq s) := by
  unfold requestEnd
  repeat' first
    | with_reducible assumption | with_reducible apply requestComplete_kept | with_reducible apply State.workAll_kept
    | intro _ | with_reducible apply Kept.ite | split | dsimp only [id_eq] | simp only [Kept.mk]
    | (rename_i e; with_reducible refine Kept.of_eq e ?_)

theorem execEnumerationComplete_kept (a : Act) (paId : BitVec 16) (paCap : BitVec 16) (loads : List (List Nat)) (flex : Nat) {s t : State} (h : execEnumerationComplete a paId paCap loads flex s = .next t) : Kept s t := by
  have h := Host.Outcome.next.inj h; subst h; exact enumerationEnd_kept _ _ _ _ _ (Kept.refl s)

theorem execHeadsOnRamp_kept (a : Act) {s t : State} (h : execHeadsOnRamp a s = .next t) : Kept s t := by
  have h := Host.Outcome.next.inj h; subst h; exact headsOnRampEnd_kept _ (Kept.refl s)

theorem execRequestComplete_kept (rq : ReqId) {s t : State} (h : execRequestComplete rq s = .next t) : Kept s t := by
  have h := Host.Outcome.next.inj h; subst h; exact requestEnd_kept _ (Kept.refl s)

theorem execEnable_kept (rq : ReqId) (w : World) {s t : State} (h : execEnable rq w s = .next t) : Kept s t := by
  have h := Host.Outcome.next.inj h; subst h; exact enableCmd_kept _ _ (Kept.refl s)

theorem execEnableState_kept (rq : ReqId) {s t : State} (h : execEnableState rq s = .next t) : Kept s t := by
  have h := Host.Outcome.next.inj h; subst h; exact enableState_kept _ (Kept.refl s)

theorem execRegRead_kept (rq : ReqId) {s t : State} (h : execRegRead rq s = .next t) : Kept s t := by
  have h := Host.Outcome.next.inj h; subst h; exact regReadCmd_kept _ (Kept.refl s)

theorem execRegWrite_kept (rq : ReqId) (w : World) {s t : State} (h : execRegWrite rq w s = .next t) : Kept s t := by
  have h := Host.Outcome.next.inj h; subst h; exact regWriteCmd_kept _ _ (Kept.refl s)

theorem execRegReadBlock_kept (rq : ReqId) {s t : State} (h : execRegReadBlock rq s = .next t) : Kept s t := by
  have h := Host.Outcome.next.inj h; subst h; exact regReadBlock_kept _ (Kept.refl s)

theorem execRegWriteBlock_kept (rq : ReqId) (w : World) {s t : State} (h : execRegWriteBlock rq w s = .next t) : Kept s t := by
  have h := Host.Outcome.next.inj h; subst h; exact regWriteBlock_kept _ _ (Kept.refl s)

theorem execRegisterWrite_kept (sender : Fin 64) (blk : Fin 256) (inst : Fin 40) (off : Fin 65536) (v : BitVec 32) (w : World) {s t : State} (h : execRegisterWrite sender blk inst off v w s = .next t) : Kept s t := by
  have h := Host.Outcome.next.inj h; subst h; exact registerWrite_kept _ _ _ _ _ _ (Kept.refl s)

theorem execShadowCommit_kept (a : Act) (hw : List (List (BitVec 32))) {s t : State} (h : execShadowCommit a hw s = .next t) : Kept s t := by
  have h := Host.Outcome.next.inj h; subst h; exact shadowCommit_kept _ _ (Kept.refl s)

end Sys2Proof.Machine
end

