-- ==== Sys2Proof/Laws/KeptCatalogue.lean ====
section
/-!
SUPPORT. Every operation of `Machine/Catalogue.lean` keeps what `Kept` names.
-/

namespace Sys2Proof.Machine

set_option Elab.async false
set_option linter.unusedTactic false
set_option linter.unreachableTactic false
set_option linter.unusedVariables false

theorem sized_kept {s₀ : State} (n : Nat) (b : List Byte) {s : State} (f : State → State × Rsp) (hK : Kept s₀ s) (hK_f : ∀ u, Kept s₀ u → Kept s₀ (f u).1) :
    Kept s₀ (sized n b s f).1 := by
  unfold sized
  repeat' first
    | with_reducible assumption | with_reducible apply hK_f | intro _ | with_reducible apply Kept.ite | split
    | dsimp only [id_eq] | simp only [Kept.mk] | (rename_i e; with_reducible refine Kept.of_eq e ?_)

theorem stRsp_kept {s₀ : State} {x : State × Nat} (hK : Kept s₀ x.1) :
    Kept s₀ (stRsp x).1 := by
  unfold stRsp
  repeat' first
    | with_reducible assumption | intro _ | with_reducible apply Kept.ite | split | dsimp only [id_eq]
    | simp only [Kept.mk] | (rename_i e; with_reducible refine Kept.of_eq e ?_)

theorem identifyCmd_kept {s₀ : State} (rq : ReqId) {s : State} (hK : Kept s₀ s) :
    Kept s₀ (identifyCmd rq s) := by
  unfold identifyCmd
  repeat' first
    | with_reducible assumption | with_reducible apply State.serve_kept | with_reducible apply sized_kept | intro _
    | with_reducible apply Kept.ite | split | dsimp only [id_eq] | simp only [Kept.mk]
    | (rename_i e; with_reducible refine Kept.of_eq e ?_)

theorem getNonce_kept {s₀ : State} (rq : ReqId) (nonce : BitVec 256) {s : State} (hK : Kept s₀ s) :
    Kept s₀ (getNonce rq nonce s) := by
  unfold getNonce
  repeat' first
    | with_reducible assumption | with_reducible apply State.serve_kept | with_reducible apply sized_kept | intro _
    | with_reducible apply Kept.ite | split | dsimp only [id_eq] | simp only [Kept.mk]
    | (rename_i e; with_reducible refine Kept.of_eq e ?_)

theorem countersCmd_kept {s₀ : State} (rq : ReqId) {s : State} (hK : Kept s₀ s) :
    Kept s₀ (countersCmd rq s) := by
  unfold countersCmd
  repeat' first
    | with_reducible assumption | with_reducible apply State.serve_kept | with_reducible apply sized_kept | intro _
    | with_reducible apply Kept.ite | split | dsimp only [id_eq] | simp only [Kept.mk]
    | (rename_i e; with_reducible refine Kept.of_eq e ?_)

theorem clearXtal_kept {s₀ : State} (rq : ReqId) {s : State} (hK : Kept s₀ s) :
    Kept s₀ (clearXtal rq s) := by
  unfold clearXtal
  repeat' first
    | with_reducible assumption | with_reducible apply State.serve_kept | with_reducible apply sized_kept
    | with_reducible apply Kept.put | intro _ | with_reducible apply Kept.ite | split | dsimp only [id_eq]
    | simp only [Kept.mk] | (rename_i e; with_reducible refine Kept.of_eq e ?_)

theorem inventoryCmd_kept {s₀ : State} (rq : ReqId) {s : State} (hK : Kept s₀ s) :
    Kept s₀ (inventoryCmd rq s) := by
  unfold inventoryCmd
  repeat' first
    | with_reducible assumption | with_reducible apply State.serve_kept | with_reducible apply sized_kept | intro _
    | with_reducible apply Kept.ite | split | dsimp only [id_eq] | simp only [Kept.mk]
    | (rename_i e; with_reducible refine Kept.of_eq e ?_)

theorem optionRead_kept {s₀ : State} (rq : ReqId) {s : State} (hK : Kept s₀ s) :
    Kept s₀ (optionRead rq s) := by
  unfold optionRead
  repeat' first
    | with_reducible assumption | with_reducible apply State.serve_kept | with_reducible apply sized_kept | intro _
    | with_reducible apply Kept.ite | split | dsimp only [id_eq] | simp only [Kept.mk]
    | (rename_i e; with_reducible refine Kept.of_eq e ?_)

theorem optionWrite_kept {s₀ : State} (rq : ReqId) (ok1 : Bool) (ok2 : Bool) {s : State} (hK : Kept s₀ s) :
    Kept s₀ (optionWrite rq ok1 ok2 s) := by
  unfold optionWrite
  repeat' first
    | with_reducible assumption | with_reducible apply State.serve_kept | with_reducible apply stRsp_kept
    | with_reducible apply State.optWrite_kept | intro _ | with_reducible apply Kept.ite | split | dsimp only [id_eq]
    | simp only [Kept.mk] | (rename_i e; with_reducible refine Kept.of_eq e ?_)

theorem keyRegister_kept {s₀ : State} (rq : ReqId) (ok1 : Bool) (ok2 : Bool) {s : State} (hK : Kept s₀ s) :
    Kept s₀ (keyRegister rq ok1 ok2 s) := by
  unfold keyRegister
  repeat' first
    | with_reducible assumption | with_reducible apply State.serve_kept | with_reducible apply State.optWrite_kept
    | with_reducible apply stRsp_kept | with_reducible apply State.post_kept | intro _
    | with_reducible apply Kept.ite | split | dsimp only [id_eq] | simp only [Kept.mk]
    | (rename_i e; with_reducible refine Kept.of_eq e ?_)

theorem setBudgetCmd_kept {s₀ : State} (rq : ReqId) {s : State} (hK : Kept s₀ s) :
    Kept s₀ (setBudgetCmd rq s) := by
  unfold setBudgetCmd
  repeat' first
    | with_reducible assumption | with_reducible apply State.serve_kept | with_reducible apply sized_kept
    | with_reducible apply State.setBudget_kept | intro _ | with_reducible apply Kept.ite | split
    | dsimp only [id_eq] | simp only [Kept.mk] | (rename_i e; with_reducible refine Kept.of_eq e ?_)

theorem getBudgetCmd_kept {s₀ : State} (rq : ReqId) {s : State} (hK : Kept s₀ s) :
    Kept s₀ (getBudgetCmd rq s) := by
  unfold getBudgetCmd
  repeat' first
    | with_reducible assumption | with_reducible apply State.serve_kept | with_reducible apply sized_kept | intro _
    | with_reducible apply Kept.ite | split | dsimp only [id_eq] | simp only [Kept.mk]
    | (rename_i e; with_reducible refine Kept.of_eq e ?_)

theorem spinSlot_kept {s₀ : State} (rq : ReqId) {s : State} (hK : Kept s₀ s) :
    Kept s₀ (spinSlot rq s) := by
  unfold spinSlot
  repeat' first
    | with_reducible assumption | with_reducible apply State.serve_kept | with_reducible apply sized_kept
    | with_reducible apply State.spinCheck_kept | with_reducible apply State.puts_kept | intro _
    | with_reducible apply Kept.ite | split | dsimp only [id_eq] | simp only [Kept.mk]
    | (rename_i e; with_reducible refine Kept.of_eq e ?_)

theorem spinStatus_kept {s₀ : State} (rq : ReqId) {s : State} (hK : Kept s₀ s) :
    Kept s₀ (spinStatus rq s) := by
  unfold spinStatus
  repeat' first
    | with_reducible assumption | with_reducible apply State.serve_kept | with_reducible apply sized_kept | intro _
    | with_reducible apply Kept.ite | split | dsimp only [id_eq] | simp only [Kept.mk]
    | (rename_i e; with_reducible refine Kept.of_eq e ?_)

theorem thermalRead_kept {s₀ : State} (rq : ReqId) {s : State} (hK : Kept s₀ s) :
    Kept s₀ (thermalRead rq s) := by
  unfold thermalRead
  repeat' first
    | with_reducible assumption | with_reducible apply State.serve_kept | with_reducible apply sized_kept | intro _
    | with_reducible apply Kept.ite | split | dsimp only [id_eq] | simp only [Kept.mk]
    | (rename_i e; with_reducible refine Kept.of_eq e ?_)

theorem clearSuspectCmd_kept {s₀ : State} (rq : ReqId) {s : State} (hK : Kept s₀ s) :
    Kept s₀ (clearSuspectCmd rq s) := by
  unfold clearSuspectCmd
  repeat' first
    | with_reducible assumption | with_reducible apply State.serve_kept | with_reducible apply sized_kept
    | with_reducible apply State.clearSuspect_kept | intro _ | with_reducible apply Kept.ite | split
    | dsimp only [id_eq] | simp only [Kept.mk] | (rename_i e; with_reducible refine Kept.of_eq e ?_)

theorem trimRead_kept {s₀ : State} (rq : ReqId) {s : State} (hK : Kept s₀ s) :
    Kept s₀ (trimRead rq s) := by
  unfold trimRead
  repeat' first
    | with_reducible assumption | with_reducible apply State.serve_kept | with_reducible apply sized_kept | intro _
    | with_reducible apply Kept.ite | split | dsimp only [id_eq] | simp only [Kept.mk]
    | (rename_i e; with_reducible refine Kept.of_eq e ?_)

theorem State.trimPut_kept {s₀ : State} {s : State} (r : Req) (blk : Nat) (inst : Nat) (img : List (Nat × Nat)) (hK : Kept s₀ s) :
    Kept s₀ (State.trimPut s r blk inst img) := by
  unfold State.trimPut
  repeat' first
    | with_reducible assumption | with_reducible apply Kept.forAll | with_reducible apply State.putWord_kept
    | intro _ | with_reducible apply Kept.ite | split | dsimp only [id_eq] | simp only [Kept.mk]
    | (rename_i e; with_reducible refine Kept.of_eq e ?_)

theorem trimWrite_kept {s₀ : State} (rq : ReqId) {s : State} (hK : Kept s₀ s) :
    Kept s₀ (trimWrite rq s) := by
  unfold trimWrite
  repeat' first
    | with_reducible assumption | with_reducible apply State.onReq_kept | with_reducible apply State.respond_kept
    | with_reducible apply State.respondW_kept | with_reducible apply State.trimPut_kept | intro _
    | with_reducible apply Kept.ite | split | dsimp only [id_eq] | simp only [Kept.mk]
    | (rename_i e; with_reducible refine Kept.of_eq e ?_)

theorem tableRead_kept {s₀ : State} (rq : ReqId) {s : State} (hK : Kept s₀ s) :
    Kept s₀ (tableRead rq s) := by
  unfold tableRead
  repeat' first
    | with_reducible assumption | with_reducible apply State.serve_kept | with_reducible apply sized_kept | intro _
    | with_reducible apply Kept.ite | split | dsimp only [id_eq] | simp only [Kept.mk]
    | (rename_i e; with_reducible refine Kept.of_eq e ?_)

theorem State.relearn_kept {s₀ : State} {s : State} (hK : Kept s₀ s) :
    Kept s₀ (State.relearn s) := by
  unfold State.relearn
  repeat' first
    | with_reducible assumption | with_reducible apply State.puts_kept | intro _ | with_reducible apply Kept.ite
    | split | dsimp only [id_eq] | simp only [Kept.mk] | (rename_i e; with_reducible refine Kept.of_eq e ?_)

theorem State.stageTable_kept {s₀ s : State} (i off : Nat) (e : List Byte) (h : Kept s₀ s) : Kept s₀ (State.stageTable s i off e) := by
  have g : Kept s₀ (if s.on (V.trzTblPend i) then s else s.forAll (trzTable i) fun x v => v.copyWin 0x0F 0 2 x.1 x.2) :=
    Kept.ite h (Kept.forAll _ (fun _ _ hu => State.copyWin_kept _ _ _ _ _ hu) _ _ h)
  unfold State.stageTable
  revert g
  generalize (if s.on (V.trzTblPend i) then s else s.forAll (trzTable i) fun x v => v.copyWin 0x0F 0 2 x.1 x.2) = v
  intro g
  exact Kept.when _ _ (State.puts_kept _ (Kept.setTstore (t := { v with win := putBytes v.win (winKey 0x0F 2 off) e })
    (Kept.setWin g (bytesOk_putBytes e _ _)) (bytesOk_putBytes e _ _))) fun u hu => State.swapTable_kept _ hu

theorem State.putTableEntry_kept {s₀ : State} {s : State} (blk : Nat) (sel : Nat) (base : Nat) (off : Nat) (e : List Byte) (hK : Kept s₀ s) :
    Kept s₀ (State.putTableEntry s blk sel base off e) := by
  unfold State.putTableEntry
  repeat' first
    | with_reducible assumption | with_reducible apply State.stageTable_kept
    | with_reducible apply State.putTable_kept | with_reducible apply State.relearn_kept
    | with_reducible apply State.restartFit_kept | intro _ | with_reducible apply Kept.ite | split
    | dsimp only [id_eq] | simp only [Kept.mk] | (rename_i e; with_reducible refine Kept.of_eq e ?_)

theorem tableWrite_kept {s₀ : State} (rq : ReqId) {s : State} (hK : Kept s₀ s) :
    Kept s₀ (tableWrite rq s) := by
  unfold tableWrite
  repeat' first
    | with_reducible assumption | with_reducible apply State.serve_kept | with_reducible apply Kept.forAll
    | with_reducible apply State.putTableEntry_kept | intro _ | with_reducible apply Kept.ite | split
    | dsimp only [id_eq] | simp only [Kept.mk] | (rename_i e; with_reducible refine Kept.of_eq e ?_)

theorem tailorSave_kept {s₀ : State} (rq : ReqId) (ok : Bool) {s : State} (hK : Kept s₀ s) :
    Kept s₀ (tailorSave rq ok s) := by
  unfold tailorSave
  repeat' first
    | with_reducible assumption | with_reducible apply State.serve_kept | with_reducible apply sized_kept
    | with_reducible apply State.tlrSave_kept | with_reducible apply State.tlrFail_kept | intro _
    | with_reducible apply Kept.ite | split | dsimp only [id_eq] | simp only [Kept.mk]
    | (rename_i e; with_reducible refine Kept.of_eq e ?_)

theorem certRead_kept {s₀ : State} (rq : ReqId) {s : State} (hK : Kept s₀ s) :
    Kept s₀ (certRead rq s) := by
  unfold certRead
  repeat' first
    | with_reducible assumption | with_reducible apply State.serve_kept | with_reducible apply sized_kept | intro _
    | with_reducible apply Kept.ite | split | dsimp only [id_eq] | simp only [Kept.mk]
    | (rename_i e; with_reducible refine Kept.of_eq e ?_)

theorem ageingRead_kept {s₀ : State} (rq : ReqId) {s : State} (hK : Kept s₀ s) :
    Kept s₀ (ageingRead rq s) := by
  unfold ageingRead
  repeat' first
    | with_reducible assumption | with_reducible apply State.serve_kept | with_reducible apply sized_kept | intro _
    | with_reducible apply Kept.ite | split | dsimp only [id_eq] | simp only [Kept.mk]
    | (rename_i e; with_reducible refine Kept.of_eq e ?_)

theorem marginRead_kept {s₀ : State} (rq : ReqId) {s : State} (hK : Kept s₀ s) :
    Kept s₀ (marginRead rq s) := by
  unfold marginRead
  repeat' first
    | with_reducible assumption | with_reducible apply State.serve_kept | with_reducible apply sized_kept | intro _
    | with_reducible apply Kept.ite | split | dsimp only [id_eq] | simp only [Kept.mk]
    | (rename_i e; with_reducible refine Kept.of_eq e ?_)

theorem measureNow_kept {s₀ : State} (rq : ReqId) {s : State} (hK : Kept s₀ s) :
    Kept s₀ (measureNow rq s) := by
  unfold measureNow
  repeat' first
    | with_reducible assumption | with_reducible apply State.serve_kept | with_reducible apply sized_kept
    | with_reducible apply Kept.forAll | with_reducible apply State.due_kept | intro _
    | with_reducible apply Kept.ite | split | dsimp only [id_eq] | simp only [Kept.mk]
    | (rename_i e; with_reducible refine Kept.of_eq e ?_)

theorem pblRead_kept {s₀ : State} (rq : ReqId) {s : State} (hK : Kept s₀ s) :
    Kept s₀ (pblRead rq s) := by
  unfold pblRead
  repeat' first
    | with_reducible assumption | with_reducible apply State.serve_kept | with_reducible apply sized_kept | intro _
    | with_reducible apply Kept.ite | split | dsimp only [id_eq] | simp only [Kept.mk]
    | (rename_i e; with_reducible refine Kept.of_eq e ?_)

theorem pblStatus_kept {s₀ : State} (rq : ReqId) {s : State} (hK : Kept s₀ s) :
    Kept s₀ (pblStatus rq s) := by
  unfold pblStatus
  repeat' first
    | with_reducible assumption | with_reducible apply State.serve_kept | with_reducible apply sized_kept | intro _
    | with_reducible apply Kept.ite | split | dsimp only [id_eq] | simp only [Kept.mk]
    | (rename_i e; with_reducible refine Kept.of_eq e ?_)

theorem pblClearCmd_kept {s₀ : State} (rq : ReqId) (ok : Bool) {s : State} (hK : Kept s₀ s) :
    Kept s₀ (pblClearCmd rq ok s) := by
  unfold pblClearCmd
  repeat' first
    | with_reducible assumption | with_reducible apply State.serve_kept | with_reducible apply sized_kept
    | with_reducible apply stRsp_kept | with_reducible apply State.pblClear_kept | intro _
    | with_reducible apply Kept.ite | split | dsimp only [id_eq] | simp only [Kept.mk]
    | (rename_i e; with_reducible refine Kept.of_eq e ?_)

theorem fwDownloadCmd_kept {s₀ : State} (rq : ReqId) (ok : Bool) {s : State} (hK : Kept s₀ s) :
    Kept s₀ (fwDownloadCmd rq ok s) := by
  unfold fwDownloadCmd
  repeat' first
    | with_reducible assumption | with_reducible apply State.serve_kept | with_reducible apply stRsp_kept
    | with_reducible apply State.fwDownHeld_kept | intro _ | with_reducible apply Kept.ite | split
    | dsimp only [id_eq] | simp only [Kept.mk] | (rename_i e; with_reducible refine Kept.of_eq e ?_)

theorem fwCommitCmd_kept {s₀ : State} (rq : ReqId) (ok : Bool) {s : State} (hK : Kept s₀ s) :
    Kept s₀ (fwCommitCmd rq ok s) := by
  unfold fwCommitCmd
  repeat' first
    | with_reducible assumption | with_reducible apply State.serve_kept | with_reducible apply sized_kept
    | with_reducible apply stRsp_kept | with_reducible apply State.fwCommit_kept | intro _
    | with_reducible apply Kept.ite | split | dsimp only [id_eq] | simp only [Kept.mk]
    | (rename_i e; with_reducible refine Kept.of_eq e ?_)

theorem fwStatus_kept {s₀ : State} (rq : ReqId) {s : State} (hK : Kept s₀ s) :
    Kept s₀ (fwStatus rq s) := by
  unfold fwStatus
  repeat' first
    | with_reducible assumption | with_reducible apply State.serve_kept | with_reducible apply sized_kept | intro _
    | with_reducible apply Kept.ite | split | dsimp only [id_eq] | simp only [Kept.mk]
    | (rename_i e; with_reducible refine Kept.of_eq e ?_)

theorem flashStatus_kept {s₀ : State} (rq : ReqId) {s : State} (hK : Kept s₀ s) :
    Kept s₀ (flashStatus rq s) := by
  unfold flashStatus
  repeat' first
    | with_reducible assumption | with_reducible apply State.serve_kept | with_reducible apply sized_kept | intro _
    | with_reducible apply Kept.ite | split | dsimp only [id_eq] | simp only [Kept.mk]
    | (rename_i e; with_reducible refine Kept.of_eq e ?_)

theorem placementSet_kept {s₀ : State} (rq : ReqId) {s : State} (hK : Kept s₀ s) :
    Kept s₀ (placementSet rq s) := by
  unfold placementSet
  repeat' first
    | with_reducible assumption | with_reducible apply State.serve_kept | with_reducible apply sized_kept
    | with_reducible apply Kept.put | intro _ | with_reducible apply Kept.ite | split | dsimp only [id_eq]
    | simp only [Kept.mk] | (rename_i e; with_reducible refine Kept.of_eq e ?_)

theorem placementGet_kept {s₀ : State} (rq : ReqId) {s : State} (hK : Kept s₀ s) :
    Kept s₀ (placementGet rq s) := by
  unfold placementGet
  repeat' first
    | with_reducible assumption | with_reducible apply State.serve_kept | with_reducible apply sized_kept | intro _
    | with_reducible apply Kept.ite | split | dsimp only [id_eq] | simp only [Kept.mk]
    | (rename_i e; with_reducible refine Kept.of_eq e ?_)

theorem bandInfo_kept {s₀ : State} (rq : ReqId) {s : State} (hK : Kept s₀ s) :
    Kept s₀ (bandInfo rq s) := by
  unfold bandInfo
  repeat' first
    | with_reducible assumption | with_reducible apply State.serve_kept | with_reducible apply sized_kept | intro _
    | with_reducible apply Kept.ite | split | dsimp only [id_eq] | simp only [Kept.mk]
    | (rename_i e; with_reducible refine Kept.of_eq e ?_)

theorem poolInfo_kept {s₀ : State} (rq : ReqId) {s : State} (hK : Kept s₀ s) :
    Kept s₀ (poolInfo rq s) := by
  unfold poolInfo
  repeat' first
    | with_reducible assumption | with_reducible apply State.serve_kept | with_reducible apply sized_kept | intro _
    | with_reducible apply Kept.ite | split | dsimp only [id_eq] | simp only [Kept.mk]
    | (rename_i e; with_reducible refine Kept.of_eq e ?_)

theorem altQueue_kept {s₀ : State} (rq : ReqId) {s : State} (hK : Kept s₀ s) :
    Kept s₀ (altQueue rq s) := by
  unfold altQueue
  repeat' first
    | with_reducible assumption | with_reducible apply State.serve_kept | with_reducible apply sized_kept | intro _
    | with_reducible apply Kept.ite | split | dsimp only [id_eq] | simp only [Kept.mk]
    | (rename_i e; with_reducible refine Kept.of_eq e ?_)

theorem defaultsSet_kept {s₀ : State} (rq : ReqId) {s : State} (hK : Kept s₀ s) :
    Kept s₀ (defaultsSet rq s) := by
  unfold defaultsSet
  repeat' first
    | with_reducible assumption | with_reducible apply State.serve_kept | with_reducible apply sized_kept
    | with_reducible apply Kept.put | intro _ | with_reducible apply Kept.ite | split | dsimp only [id_eq]
    | simp only [Kept.mk] | (rename_i e; with_reducible refine Kept.of_eq e ?_)

theorem defaultsGet_kept {s₀ : State} (rq : ReqId) {s : State} (hK : Kept s₀ s) :
    Kept s₀ (defaultsGet rq s) := by
  unfold defaultsGet
  repeat' first
    | with_reducible assumption | with_reducible apply State.serve_kept | with_reducible apply sized_kept | intro _
    | with_reducible apply Kept.ite | split | dsimp only [id_eq] | simp only [Kept.mk]
    | (rename_i e; with_reducible refine Kept.of_eq e ?_)

theorem groupSet_kept {s₀ : State} (rq : ReqId) {s : State} (hK : Kept s₀ s) :
    Kept s₀ (groupSet rq s) := by
  unfold groupSet
  repeat' first
    | with_reducible assumption | with_reducible apply State.serve_kept | with_reducible apply sized_kept | intro _
    | with_reducible apply Kept.ite | split | dsimp only [id_eq] | simp only [Kept.mk]
    | (rename_i e; with_reducible refine Kept.of_eq e ?_)

theorem groupStatus_kept {s₀ : State} (rq : ReqId) {s : State} (hK : Kept s₀ s) :
    Kept s₀ (groupStatus rq s) := by
  unfold groupStatus
  repeat' first
    | with_reducible assumption | with_reducible apply State.serve_kept | with_reducible apply sized_kept | intro _
    | with_reducible apply Kept.ite | split | dsimp only [id_eq] | simp only [Kept.mk]
    | (rename_i e; with_reducible refine Kept.of_eq e ?_)

theorem peerHello_kept {s₀ : State} (rq : ReqId) {s : State} (hK : Kept s₀ s) :
    Kept s₀ (peerHello rq s) := by
  unfold peerHello
  repeat' first
    | with_reducible assumption | with_reducible apply State.serve_kept | with_reducible apply State.showGroup_kept
    | intro _ | with_reducible apply Kept.ite | split | dsimp only [id_eq] | simp only [Kept.mk]
    | (rename_i e; with_reducible refine Kept.of_eq e ?_)

theorem adoptCmd_kept {s₀ : State} (rq : ReqId) {s : State} (hK : Kept s₀ s) :
    Kept s₀ (adoptCmd rq s) := by
  unfold adoptCmd
  repeat' first
    | with_reducible assumption | with_reducible apply State.serve_kept | with_reducible apply sized_kept | intro _
    | with_reducible apply Kept.ite | split | dsimp only [id_eq] | simp only [Kept.mk]
    | (rename_i e; with_reducible refine Kept.of_eq e ?_)

theorem srcRoute_kept {s₀ : State} (rq : ReqId) {s : State} (hK : Kept s₀ s) :
    Kept s₀ (srcRoute rq s) := by
  unfold srcRoute
  repeat' first
    | with_reducible assumption | with_reducible apply State.serve_kept | with_reducible apply sized_kept
    | with_reducible apply stRsp_kept | with_reducible apply State.srcWrite_kept | intro _
    | with_reducible apply Kept.ite | split | dsimp only [id_eq] | simp only [Kept.mk]
    | (rename_i e; with_reducible refine Kept.of_eq e ?_)

theorem srcRead_kept {s₀ : State} (rq : ReqId) {s : State} (hK : Kept s₀ s) :
    Kept s₀ (srcRead rq s) := by
  unfold srcRead
  repeat' first
    | with_reducible assumption | with_reducible apply State.serve_kept | with_reducible apply sized_kept | intro _
    | with_reducible apply Kept.ite | split | dsimp only [id_eq] | simp only [Kept.mk]
    | (rename_i e; with_reducible refine Kept.of_eq e ?_)

theorem doorbellCmd_kept {s₀ : State} (rq : ReqId) {s : State} (hK : Kept s₀ s) :
    Kept s₀ (doorbellCmd rq s) := by
  unfold doorbellCmd
  repeat' first
    | with_reducible assumption | with_reducible apply State.serve_kept | with_reducible apply sized_kept
    | with_reducible apply State.fire_kept | intro _ | with_reducible apply Kept.ite | split | dsimp only [id_eq]
    | simp only [Kept.mk] | (rename_i e; with_reducible refine Kept.of_eq e ?_)

theorem softSourceCmd_kept {s₀ : State} (rq : ReqId) {s : State} (hK : Kept s₀ s) :
    Kept s₀ (softSourceCmd rq s) := by
  unfold softSourceCmd
  repeat' first
    | with_reducible assumption | with_reducible apply State.serve_kept | with_reducible apply sized_kept
    | with_reducible apply State.softSource_kept | intro _ | with_reducible apply Kept.ite | split
    | dsimp only [id_eq] | simp only [Kept.mk] | (rename_i e; with_reducible refine Kept.of_eq e ?_)

theorem bankClaim_kept {s₀ : State} (rq : ReqId) {s : State} (hK : Kept s₀ s) :
    Kept s₀ (bankClaim rq s) := by
  unfold bankClaim
  repeat' first
    | with_reducible assumption | with_reducible apply State.serve_kept | with_reducible apply sized_kept
    | with_reducible apply State.claimMask_kept | intro _ | with_reducible apply Kept.ite | split
    | dsimp only [id_eq] | simp only [Kept.mk] | (rename_i e; with_reducible refine Kept.of_eq e ?_)

theorem bankDone_kept {s₀ : State} (rq : ReqId) {s : State} (hK : Kept s₀ s) :
    Kept s₀ (bankDone rq s) := by
  unfold bankDone
  repeat' first
    | with_reducible assumption | with_reducible apply State.serve_kept | with_reducible apply sized_kept
    | with_reducible apply State.doneMask_kept | intro _ | with_reducible apply Kept.ite | split | dsimp only [id_eq]
    | simp only [Kept.mk] | (rename_i e; with_reducible refine Kept.of_eq e ?_)

theorem execIdentify_kept (rq : ReqId) {s t : State} (h : execIdentify rq s = .next t) : Kept s t := by
  have h := Host.Outcome.next.inj h; subst h; exact identifyCmd_kept _ (Kept.refl s)

theorem execGetNonce_kept (rq : ReqId) (nonce : BitVec 256) {s t : State} (h : execGetNonce rq nonce s = .next t) : Kept s t := by
  have h := Host.Outcome.next.inj h; subst h; exact getNonce_kept _ _ (Kept.refl s)

theorem execInventory_kept (rq : ReqId) {s t : State} (h : execInventory rq s = .next t) : Kept s t := by
  have h := Host.Outcome.next.inj h; subst h; exact inventoryCmd_kept _ (Kept.refl s)

theorem execCounters_kept (rq : ReqId) {s t : State} (h : execCounters rq s = .next t) : Kept s t := by
  have h := Host.Outcome.next.inj h; subst h; exact countersCmd_kept _ (Kept.refl s)

theorem execClearXtal_kept (rq : ReqId) {s t : State} (h : execClearXtal rq s = .next t) : Kept s t := by
  have h := Host.Outcome.next.inj h; subst h; exact clearXtal_kept _ (Kept.refl s)

theorem execOptionRead_kept (rq : ReqId) {s t : State} (h : execOptionRead rq s = .next t) : Kept s t := by
  have h := Host.Outcome.next.inj h; subst h; exact optionRead_kept _ (Kept.refl s)

theorem execOptionWrite_kept (rq : ReqId) (ok1 : Bool) (ok2 : Bool) {s t : State} (h : execOptionWrite rq ok1 ok2 s = .next t) : Kept s t := by
  have h := Host.Outcome.next.inj h; subst h; exact optionWrite_kept _ _ _ (Kept.refl s)

theorem execKeyRegister_kept (rq : ReqId) (ok1 : Bool) (ok2 : Bool) {s t : State} (h : execKeyRegister rq ok1 ok2 s = .next t) : Kept s t := by
  have h := Host.Outcome.next.inj h; subst h; exact keyRegister_kept _ _ _ (Kept.refl s)

theorem execSetBudget_kept (rq : ReqId) {s t : State} (h : execSetBudget rq s = .next t) : Kept s t := by
  have h := Host.Outcome.next.inj h; subst h; exact setBudgetCmd_kept _ (Kept.refl s)

theorem execGetBudget_kept (rq : ReqId) {s t : State} (h : execGetBudget rq s = .next t) : Kept s t := by
  have h := Host.Outcome.next.inj h; subst h; exact getBudgetCmd_kept _ (Kept.refl s)

theorem execSpinSlot_kept (rq : ReqId) {s t : State} (h : execSpinSlot rq s = .next t) : Kept s t := by
  have h := Host.Outcome.next.inj h; subst h; exact spinSlot_kept _ (Kept.refl s)

theorem execSpinStatus_kept (rq : ReqId) {s t : State} (h : execSpinStatus rq s = .next t) : Kept s t := by
  have h := Host.Outcome.next.inj h; subst h; exact spinStatus_kept _ (Kept.refl s)

theorem execThermalRead_kept (rq : ReqId) {s t : State} (h : execThermalRead rq s = .next t) : Kept s t := by
  have h := Host.Outcome.next.inj h; subst h; exact thermalRead_kept _ (Kept.refl s)

theorem execClearSuspect_kept (rq : ReqId) {s t : State} (h : execClearSuspect rq s = .next t) : Kept s t := by
  have h := Host.Outcome.next.inj h; subst h; exact clearSuspectCmd_kept _ (Kept.refl s)

theorem execTrimRead_kept (rq : ReqId) {s t : State} (h : execTrimRead rq s = .next t) : Kept s t := by
  have h := Host.Outcome.next.inj h; subst h; exact trimRead_kept _ (Kept.refl s)

theorem execTrimWrite_kept (rq : ReqId) {s t : State} (h : execTrimWrite rq s = .next t) : Kept s t := by
  have h := Host.Outcome.next.inj h; subst h; exact trimWrite_kept _ (Kept.refl s)

theorem execTableRead_kept (rq : ReqId) {s t : State} (h : execTableRead rq s = .next t) : Kept s t := by
  have h := Host.Outcome.next.inj h; subst h; exact tableRead_kept _ (Kept.refl s)

theorem execTableWrite_kept (rq : ReqId) {s t : State} (h : execTableWrite rq s = .next t) : Kept s t := by
  have h := Host.Outcome.next.inj h; subst h; exact tableWrite_kept _ (Kept.refl s)

theorem execTailorSave_kept (rq : ReqId) (ok : Bool) {s t : State} (h : execTailorSave rq ok s = .next t) : Kept s t := by
  have h := Host.Outcome.next.inj h; subst h; exact tailorSave_kept _ _ (Kept.refl s)

theorem execCertRead_kept (rq : ReqId) {s t : State} (h : execCertRead rq s = .next t) : Kept s t := by
  have h := Host.Outcome.next.inj h; subst h; exact certRead_kept _ (Kept.refl s)

theorem execAgeingRead_kept (rq : ReqId) {s t : State} (h : execAgeingRead rq s = .next t) : Kept s t := by
  have h := Host.Outcome.next.inj h; subst h; exact ageingRead_kept _ (Kept.refl s)

theorem execMarginRead_kept (rq : ReqId) {s t : State} (h : execMarginRead rq s = .next t) : Kept s t := by
  have h := Host.Outcome.next.inj h; subst h; exact marginRead_kept _ (Kept.refl s)

theorem execMeasureNow_kept (rq : ReqId) {s t : State} (h : execMeasureNow rq s = .next t) : Kept s t := by
  have h := Host.Outcome.next.inj h; subst h; exact measureNow_kept _ (Kept.refl s)

theorem execPblRead_kept (rq : ReqId) {s t : State} (h : execPblRead rq s = .next t) : Kept s t := by
  have h := Host.Outcome.next.inj h; subst h; exact pblRead_kept _ (Kept.refl s)

theorem execPblStatus_kept (rq : ReqId) {s t : State} (h : execPblStatus rq s = .next t) : Kept s t := by
  have h := Host.Outcome.next.inj h; subst h; exact pblStatus_kept _ (Kept.refl s)

theorem execPblClear_kept (rq : ReqId) (ok : Bool) {s t : State} (h : execPblClear rq ok s = .next t) : Kept s t := by
  have h := Host.Outcome.next.inj h; subst h; exact pblClearCmd_kept _ _ (Kept.refl s)

theorem execFwDownload_kept (rq : ReqId) (ok : Bool) {s t : State} (h : execFwDownload rq ok s = .next t) : Kept s t := by
  have h := Host.Outcome.next.inj h; subst h; exact fwDownloadCmd_kept _ _ (Kept.refl s)

theorem execFwCommit_kept (rq : ReqId) (ok : Bool) {s t : State} (h : execFwCommit rq ok s = .next t) : Kept s t := by
  have h := Host.Outcome.next.inj h; subst h; exact fwCommitCmd_kept _ _ (Kept.refl s)

theorem execFwStatus_kept (rq : ReqId) {s t : State} (h : execFwStatus rq s = .next t) : Kept s t := by
  have h := Host.Outcome.next.inj h; subst h; exact fwStatus_kept _ (Kept.refl s)

theorem execFlashStatus_kept (rq : ReqId) {s t : State} (h : execFlashStatus rq s = .next t) : Kept s t := by
  have h := Host.Outcome.next.inj h; subst h; exact flashStatus_kept _ (Kept.refl s)

theorem execPlacementSet_kept (rq : ReqId) {s t : State} (h : execPlacementSet rq s = .next t) : Kept s t := by
  have h := Host.Outcome.next.inj h; subst h; exact placementSet_kept _ (Kept.refl s)

theorem execPlacementGet_kept (rq : ReqId) {s t : State} (h : execPlacementGet rq s = .next t) : Kept s t := by
  have h := Host.Outcome.next.inj h; subst h; exact placementGet_kept _ (Kept.refl s)

theorem execBandInfo_kept (rq : ReqId) {s t : State} (h : execBandInfo rq s = .next t) : Kept s t := by
  have h := Host.Outcome.next.inj h; subst h; exact bandInfo_kept _ (Kept.refl s)

theorem execPoolInfo_kept (rq : ReqId) {s t : State} (h : execPoolInfo rq s = .next t) : Kept s t := by
  have h := Host.Outcome.next.inj h; subst h; exact poolInfo_kept _ (Kept.refl s)

theorem execAltQueue_kept (rq : ReqId) {s t : State} (h : execAltQueue rq s = .next t) : Kept s t := by
  have h := Host.Outcome.next.inj h; subst h; exact altQueue_kept _ (Kept.refl s)

theorem execDefaultsSet_kept (rq : ReqId) {s t : State} (h : execDefaultsSet rq s = .next t) : Kept s t := by
  have h := Host.Outcome.next.inj h; subst h; exact defaultsSet_kept _ (Kept.refl s)

theorem execDefaultsGet_kept (rq : ReqId) {s t : State} (h : execDefaultsGet rq s = .next t) : Kept s t := by
  have h := Host.Outcome.next.inj h; subst h; exact defaultsGet_kept _ (Kept.refl s)

theorem execGroupSet_kept (rq : ReqId) {s t : State} (h : execGroupSet rq s = .next t) : Kept s t := by
  have h := Host.Outcome.next.inj h; subst h; exact groupSet_kept _ (Kept.refl s)

theorem execGroupStatus_kept (rq : ReqId) {s t : State} (h : execGroupStatus rq s = .next t) : Kept s t := by
  have h := Host.Outcome.next.inj h; subst h; exact groupStatus_kept _ (Kept.refl s)

theorem execPeerHello_kept (rq : ReqId) {s t : State} (h : execPeerHello rq s = .next t) : Kept s t := by
  have h := Host.Outcome.next.inj h; subst h; exact peerHello_kept _ (Kept.refl s)

theorem execAdopt_kept (rq : ReqId) {s t : State} (h : execAdopt rq s = .next t) : Kept s t := by
  have h := Host.Outcome.next.inj h; subst h; exact adoptCmd_kept _ (Kept.refl s)

theorem execSrcRoute_kept (rq : ReqId) {s t : State} (h : execSrcRoute rq s = .next t) : Kept s t := by
  have h := Host.Outcome.next.inj h; subst h; exact srcRoute_kept _ (Kept.refl s)

theorem execSrcRead_kept (rq : ReqId) {s t : State} (h : execSrcRead rq s = .next t) : Kept s t := by
  have h := Host.Outcome.next.inj h; subst h; exact srcRead_kept _ (Kept.refl s)

theorem execDoorbell_kept (rq : ReqId) {s t : State} (h : execDoorbell rq s = .next t) : Kept s t := by
  have h := Host.Outcome.next.inj h; subst h; exact doorbellCmd_kept _ (Kept.refl s)

theorem execSoftSource_kept (rq : ReqId) {s t : State} (h : execSoftSource rq s = .next t) : Kept s t := by
  have h := Host.Outcome.next.inj h; subst h; exact softSourceCmd_kept _ (Kept.refl s)

theorem execBankClaim_kept (rq : ReqId) {s t : State} (h : execBankClaim rq s = .next t) : Kept s t := by
  have h := Host.Outcome.next.inj h; subst h; exact bankClaim_kept _ (Kept.refl s)

theorem execBankDone_kept (rq : ReqId) {s t : State} (h : execBankDone rq s = .next t) : Kept s t := by
  have h := Host.Outcome.next.inj h; subst h; exact bankDone_kept _ (Kept.refl s)

end Sys2Proof.Machine
end

