-- ==== Sys2Proof/Laws/KeptSideshow.lean ====
section
/-!
SUPPORT. Every operation of `Machine/Sideshow.lean` keeps what `Kept` names.
-/

namespace Sys2Proof.Machine

set_option Elab.async false
set_option linter.unusedTactic false
set_option linter.unreachableTactic false
set_option linter.unusedVariables false

theorem State.sdsProto_kept {s₀ : State} {s : State} (off : Nat) (hK : Kept s₀ s) :
    Kept s₀ (State.sdsProto s off) := by
  unfold State.sdsProto
  repeat' first
    | with_reducible assumption | with_reducible apply State.post_kept | with_reducible apply State.count_kept
    | with_reducible apply State.evt_kept | intro _ | with_reducible apply Kept.ite | split | dsimp only [id_eq]
    | simp only [Kept.mk] | (rename_i e; with_reducible refine Kept.of_eq e ?_)

theorem State.sdsGo_kept {s₀ : State} {s : State} (hK : Kept s₀ s) :
    Kept s₀ (State.sdsGo s) := by
  unfold State.sdsGo
  repeat' first
    | with_reducible assumption | with_reducible apply State.sdsProto_kept | with_reducible apply State.accept_kept
    | with_reducible apply Kept.put | with_reducible apply State.puts_kept | intro _ | with_reducible apply Kept.ite
    | split | dsimp only [id_eq] | simp only [Kept.mk] | (rename_i e; with_reducible refine Kept.of_eq e ?_)

theorem State.sdsAck_kept {s₀ : State} {s : State} (hK : Kept s₀ s) :
    Kept s₀ (State.sdsAck s) := by
  unfold State.sdsAck
  repeat' first
    | with_reducible assumption | with_reducible apply Kept.put | with_reducible apply Kept.forAll
    | with_reducible apply Kept.when | with_reducible apply State.dropReq_kept | with_reducible apply State.puts_kept
    | with_reducible apply State.sdsProto_kept | intro _ | with_reducible apply Kept.ite | split | dsimp only [id_eq]
    | simp only [Kept.mk] | (rename_i e; with_reducible refine Kept.of_eq e ?_)

theorem State.sdsWord_kept {s₀ : State} {s : State} (off : Nat) (v : Nat) (hw : Nat) (hK : Kept s₀ s) :
    Kept s₀ (State.sdsWord s off v hw) := by
  unfold State.sdsWord
  repeat' first
    | with_reducible assumption | with_reducible apply State.sdsProto_kept | with_reducible apply State.putWin_kept
    | with_reducible apply Kept.put | with_reducible apply Kept.when | with_reducible apply State.sdsAck_kept
    | with_reducible apply State.sdsGo_kept | with_reducible apply State.claimMask_kept
    | with_reducible apply State.doneMask_kept | with_reducible apply State.counterClear_kept
    | with_reducible apply State.putWord_kept | intro _ | with_reducible apply Kept.ite | split | dsimp only [id_eq]
    | simp only [Kept.mk] | (rename_i e; with_reducible refine Kept.of_eq e ?_)

theorem State.sdsWords_kept {s₀ : State} : ∀ (l : List Byte) {s : State} (hw : List (BitVec 32)) (off : Nat), Kept s₀ s →
    Kept s₀ (State.sdsWords s hw off l)
  | b0 :: b1 :: b2 :: b3 :: l, s, hw, off, h => by
    unfold State.sdsWords
    exact State.sdsWords_kept l _ _ (State.sdsWord_kept _ _ _ h)
  | [], s, hw, off, h => by simpa only [State.sdsWords] using h
  | [_], s, hw, off, h => by simpa only [State.sdsWords] using h
  | [_, _], s, hw, off, h => by simpa only [State.sdsWords] using h
  | [_, _, _], s, hw, off, h => by simpa only [State.sdsWords] using h

theorem spiWriteFrame_kept {s₀ : State} (raw : List Byte) (hw : List (BitVec 32)) {s : State} (hK : Kept s₀ s) :
    Kept s₀ (spiWriteFrame raw hw s) := by
  unfold spiWriteFrame
  repeat' first
    | with_reducible assumption | with_reducible apply State.sdsWords_kept | intro _ | with_reducible apply Kept.ite
    | split | dsimp only [id_eq] | simp only [Kept.mk] | (rename_i e; with_reducible refine Kept.of_eq e ?_)

theorem spiReadFrame_kept {s₀ : State} (off : BitVec 16) (n : BitVec 17) {s : State} (hK : Kept s₀ s) :
    Kept s₀ (spiReadFrame off n s) := by
  unfold spiReadFrame
  repeat' first
    | with_reducible assumption | intro _ | with_reducible apply Kept.ite | split | dsimp only [id_eq]
    | simp only [Kept.mk] | (rename_i e; with_reducible refine Kept.of_eq e ?_)

theorem sdsGoCmd_kept {s₀ : State} {s : State} (hK : Kept s₀ s) :
    Kept s₀ (sdsGoCmd s) := by
  unfold sdsGoCmd
  repeat' first
    | with_reducible assumption | with_reducible apply State.sdsGo_kept | intro _ | with_reducible apply Kept.ite
    | split | dsimp only [id_eq] | simp only [Kept.mk] | (rename_i e; with_reducible refine Kept.of_eq e ?_)

theorem sdsAckCmd_kept {s₀ : State} {s : State} (hK : Kept s₀ s) :
    Kept s₀ (sdsAckCmd s) := by
  unfold sdsAckCmd
  repeat' first
    | with_reducible assumption | with_reducible apply State.sdsAck_kept | intro _ | with_reducible apply Kept.ite
    | split | dsimp only [id_eq] | simp only [Kept.mk] | (rename_i e; with_reducible refine Kept.of_eq e ?_)

theorem sdsClaim_kept {s₀ : State} (hi : Bool) (v : BitVec 32) {s : State} (hK : Kept s₀ s) :
    Kept s₀ (sdsClaim hi v s) := by
  unfold sdsClaim
  repeat' first
    | with_reducible assumption | with_reducible apply State.claimMask_kept | intro _ | with_reducible apply Kept.ite
    | split | dsimp only [id_eq] | simp only [Kept.mk] | (rename_i e; with_reducible refine Kept.of_eq e ?_)

theorem sdsDone_kept {s₀ : State} (hi : Bool) (v : BitVec 32) {s : State} (hK : Kept s₀ s) :
    Kept s₀ (sdsDone hi v s) := by
  unfold sdsDone
  repeat' first
    | with_reducible assumption | with_reducible apply State.doneMask_kept | intro _ | with_reducible apply Kept.ite
    | split | dsimp only [id_eq] | simp only [Kept.mk] | (rename_i e; with_reducible refine Kept.of_eq e ?_)

theorem execSpiWriteFrame_kept (raw : List Byte) (hw : List (BitVec 32)) {s t : State} (h : execSpiWriteFrame raw hw s = .next t) : Kept s t := by
  have h := Host.Outcome.next.inj h; subst h; exact spiWriteFrame_kept _ _ (Kept.refl s)

theorem execSpiReadFrame_kept (off : BitVec 16) (n : BitVec 17) {s t : State} (h : execSpiReadFrame off n s = .next t) : Kept s t := by
  have h := Host.Outcome.next.inj h; subst h; exact spiReadFrame_kept _ _ (Kept.refl s)

theorem execSdsGo_kept {s t : State} (h : execSdsGo s = .next t) : Kept s t := by
  have h := Host.Outcome.next.inj h; subst h; exact sdsGoCmd_kept  (Kept.refl s)

theorem execSdsAck_kept {s t : State} (h : execSdsAck s = .next t) : Kept s t := by
  have h := Host.Outcome.next.inj h; subst h; exact sdsAckCmd_kept  (Kept.refl s)

theorem execSdsClaim_kept (hi : Bool) (v : BitVec 32) {s t : State} (h : execSdsClaim hi v s = .next t) : Kept s t := by
  have h := Host.Outcome.next.inj h; subst h; exact sdsClaim_kept _ _ (Kept.refl s)

theorem execSdsDone_kept (hi : Bool) (v : BitVec 32) {s t : State} (h : execSdsDone hi v s = .next t) : Kept s t := by
  have h := Host.Outcome.next.inj h; subst h; exact sdsDone_kept _ _ (Kept.refl s)

end Sys2Proof.Machine
end

