-- ==== Sys2Proof/Laws/State.lean ====
section
/-!
SUPPORT. What each shared operation reads as afterwards: one law per field of the state and operation, and the reads of
register fields through the operations that change them.
-/

namespace Sys2Proof.Machine

/-! ## Operations that leave the other parts of the state alone -/

@[simp] theorem State.put_win (s : State) (k : Fld) (v : Nat) : (s.put k v).win = s.win := rfl
@[simp] theorem State.put_free (s : State) (k : Fld) (v : Nat) : (s.put k v).free = s.free := rfl
@[simp] theorem State.put_edges (s : State) (k : Fld) (v : Nat) : (s.put k v).edges = s.edges := rfl
@[simp] theorem State.put_inbox (s : State) (k : Fld) (v : Nat) : (s.put k v).inbox = s.inbox := rfl
@[simp] theorem State.put_chn (s : State) (k : Fld) (v : Nat) : (s.put k v).chn = s.chn := rfl
@[simp] theorem State.put_seqs (s : State) (k : Fld) (v : Nat) : (s.put k v).seqs = s.seqs := rfl
@[simp] theorem State.put_pa (s : State) (k : Fld) (v : Nat) : (s.put k v).pa = s.pa := rfl
@[simp] theorem State.put_jq (s : State) (k : Fld) (v : Nat) : (s.put k v).jq = s.jq := rfl
@[simp] theorem State.put_jact (s : State) (k : Fld) (v : Nat) : (s.put k v).jact = s.jact := rfl
@[simp] theorem State.put_jobNo (s : State) (k : Fld) (v : Nat) : (s.put k v).jobNo = s.jobNo := rfl
@[simp] theorem State.put_opt (s : State) (k : Fld) (v : Nat) : (s.put k v).opt = s.opt := rfl
@[simp] theorem State.put_fmt (s : State) (k : Fld) (v : Nat) : (s.put k v).fmt = s.fmt := rfl
@[simp] theorem State.put_cmds (s : State) (k : Fld) (v : Nat) : (s.put k v).cmds = s.cmds := rfl
@[simp] theorem State.put_cmdNo (s : State) (k : Fld) (v : Nat) : (s.put k v).cmdNo = s.cmdNo := rfl
@[simp] theorem State.put_cqs (s : State) (k : Fld) (v : Nat) : (s.put k v).cqs = s.cqs := rfl
@[simp] theorem State.put_ctrls (s : State) (k : Fld) (v : Nat) : (s.put k v).ctrls = s.ctrls := rfl
@[simp] theorem State.put_visit (s : State) (k : Fld) (v : Nat) : (s.put k v).visit = s.visit := rfl
@[simp] theorem State.put_nss (s : State) (k : Fld) (v : Nat) : (s.put k v).nss = s.nss := rfl
@[simp] theorem State.put_zones (s : State) (k : Fld) (v : Nat) : (s.put k v).zones = s.zones := rfl
@[simp] theorem State.put_bands (s : State) (k : Fld) (v : Nat) : (s.put k v).bands = s.bands := rfl
@[simp] theorem State.put_vol (s : State) (k : Fld) (v : Nat) : (s.put k v).vol = s.vol := rfl
@[simp] theorem State.put_dur (s : State) (k : Fld) (v : Nat) : (s.put k v).dur = s.dur := rfl
@[simp] theorem State.put_wseq (s : State) (k : Fld) (v : Nat) : (s.put k v).wseq = s.wseq := rfl
@[simp] theorem State.put_points (s : State) (k : Fld) (v : Nat) : (s.put k v).points = s.points := rfl
@[simp] theorem State.put_mops (s : State) (k : Fld) (v : Nat) : (s.put k v).mops = s.mops := rfl
@[simp] theorem State.put_opid (s : State) (k : Fld) (v : Nat) : (s.put k v).opid = s.opid := rfl
@[simp] theorem State.put_journal (s : State) (k : Fld) (v : Nat) : (s.put k v).journal = s.journal := rfl
@[simp] theorem State.put_jseq (s : State) (k : Fld) (v : Nat) : (s.put k v).jseq = s.jseq := rfl
@[simp] theorem State.put_demands (s : State) (k : Fld) (v : Nat) : (s.put k v).demands = s.demands := rfl
@[simp] theorem State.put_test (s : State) (k : Fld) (v : Nat) : (s.put k v).test = s.test := rfl
@[simp] theorem State.put_testLog (s : State) (k : Fld) (v : Nat) : (s.put k v).testLog = s.testLog := rfl
@[simp] theorem State.put_tstore (s : State) (k : Fld) (v : Nat) : (s.put k v).tstore = s.tstore := rfl
@[simp] theorem State.put_rung6 (s : State) (k : Fld) (v : Nat) : (s.put k v).rung6 = s.rung6 := rfl
@[simp] theorem State.put_amps (s : State) (k : Fld) (v : Nat) : (s.put k v).amps = s.amps := rfl
@[simp] theorem State.put_loops (s : State) (k : Fld) (v : Nat) : (s.put k v).loops = s.loops := rfl
@[simp] theorem State.put_tstk (s : State) (k : Fld) (v : Nat) : (s.put k v).tstk = s.tstk := rfl
@[simp] theorem State.put_tshd (s : State) (k : Fld) (v : Nat) : (s.put k v).tshd = s.tshd := rfl
@[simp] theorem State.put_tshr (s : State) (k : Fld) (v : Nat) : (s.put k v).tshr = s.tshr := rfl
@[simp] theorem State.put_altered (s : State) (k : Fld) (v : Nat) : (s.put k v).altered = s.altered := rfl
@[simp] theorem State.put_weakSlots (s : State) (k : Fld) (v : Nat) : (s.put k v).weakSlots = s.weakSlots := rfl
@[simp] theorem State.put_sams (s : State) (k : Fld) (v : Nat) : (s.put k v).sams = s.sams := rfl
@[simp] theorem State.put_tscrub (s : State) (k : Fld) (v : Nat) : (s.put k v).tscrub = s.tscrub := rfl
@[simp] theorem State.put_fwImg (s : State) (k : Fld) (v : Nat) : (s.put k v).fwImg = s.fwImg := rfl
@[simp] theorem State.put_fwErased (s : State) (k : Fld) (v : Nat) : (s.put k v).fwErased = s.fwErased := rfl
@[simp] theorem State.put_bstore (s : State) (k : Fld) (v : Nat) : (s.put k v).bstore = s.bstore := rfl
@[simp] theorem State.put_wd (s : State) (k : Fld) (v : Nat) : (s.put k v).wd = s.wd := rfl
@[simp] theorem State.put_media (s : State) (k : Fld) (v : Nat) : (s.put k v).media = s.media := rfl
@[simp] theorem State.put_mcache (s : State) (k : Fld) (v : Nat) : (s.put k v).mcache = s.mcache := rfl
@[simp] theorem State.put_sysrec (s : State) (k : Fld) (v : Nat) : (s.put k v).sysrec = s.sysrec := rfl
@[simp] theorem State.put_cstore (s : State) (k : Fld) (v : Nat) : (s.put k v).cstore = s.cstore := rfl
@[simp] theorem State.put_tmchk (s : State) (k : Fld) (v : Nat) : (s.put k v).tmchk = s.tmchk := rfl
@[simp] theorem State.put_cog (s : State) (k : Fld) (v : Nat) : (s.put k v).cog = s.cog := rfl
@[simp] theorem State.put_spn (s : State) (k : Fld) (v : Nat) : (s.put k v).spn = s.spn := rfl
@[simp] theorem State.put_sup (s : State) (k : Fld) (v : Nat) : (s.put k v).sup = s.sup := rfl
@[simp] theorem State.put_flash (s : State) (k : Fld) (v : Nat) : (s.put k v).flash = s.flash := rfl
@[simp] theorem State.put_blks (s : State) (k : Fld) (v : Nat) : (s.put k v).blks = s.blks := rfl
@[simp] theorem State.put_fops (s : State) (k : Fld) (v : Nat) : (s.put k v).fops = s.fops := rfl
@[simp] theorem State.put_fwait (s : State) (k : Fld) (v : Nat) : (s.put k v).fwait = s.fwait := rfl
@[simp] theorem State.put_fread (s : State) (k : Fld) (v : Nat) : (s.put k v).fread = s.fread := rfl
@[simp] theorem State.put_fwPend (s : State) (k : Fld) (v : Nat) : (s.put k v).fwPend = s.fwPend := rfl
@[simp] theorem State.put_popen (s : State) (k : Fld) (v : Nat) : (s.put k v).popen = s.popen := rfl
@[simp] theorem State.put_pbuf (s : State) (k : Fld) (v : Nat) : (s.put k v).pbuf = s.pbuf := rfl
@[simp] theorem State.put_ring (s : State) (k : Fld) (v : Nat) : (s.put k v).ring = s.ring := rfl
@[simp] theorem State.put_ringBad (s : State) (k : Fld) (v : Nat) : (s.put k v).ringBad = s.ringBad := rfl
@[simp] theorem State.put_errlog (s : State) (k : Fld) (v : Nat) : (s.put k v).errlog = s.errlog := rfl
@[simp] theorem State.put_rsets (s : State) (k : Fld) (v : Nat) : (s.put k v).rsets = s.rsets := rfl
@[simp] theorem State.put_reqs (s : State) (k : Fld) (v : Nat) : (s.put k v).reqs = s.reqs := rfl
@[simp] theorem State.put_reqNo (s : State) (k : Fld) (v : Nat) : (s.put k v).reqNo = s.reqNo := rfl
@[simp] theorem State.put_rspNo (s : State) (k : Fld) (v : Nat) : (s.put k v).rspNo = s.rspNo := rfl
@[simp] theorem State.put_nonces (s : State) (k : Fld) (v : Nat) : (s.put k v).nonces = s.nonces := rfl
@[simp] theorem State.put_held (s : State) (k : Fld) (v : Nat) : (s.put k v).held = s.held := rfl
@[simp] theorem State.put_miOut (s : State) (k : Fld) (v : Nat) : (s.put k v).miOut = s.miOut := rfl
@[simp] theorem State.put_pkt (s : State) (k : Fld) (v : Nat) : (s.put k v).pkt = s.pkt := rfl
@[simp] theorem State.put_hbm (s : State) (k : Fld) (v : Nat) : (s.put k v).hbm = s.hbm := rfl
@[simp] theorem State.put_poison (s : State) (k : Fld) (v : Nat) : (s.put k v).poison = s.poison := rfl
@[simp] theorem State.put_lost (s : State) (k : Fld) (v : Nat) : (s.put k v).lost = s.lost := rfl
@[simp] theorem State.put_kvLog (s : State) (k : Fld) (v : Nat) : (s.put k v).kvLog = s.kvLog := rfl
@[simp] theorem State.put_kvDur (s : State) (k : Fld) (v : Nat) : (s.put k v).kvDur = s.kvDur := rfl
@[simp] theorem State.put_progs (s : State) (k : Fld) (v : Nat) : (s.put k v).progs = s.progs := rfl
@[simp] theorem State.put_progRuns (s : State) (k : Fld) (v : Nat) : (s.put k v).progRuns = s.progRuns := rfl
@[simp] theorem State.put_group (s : State) (k : Fld) (v : Nat) : (s.put k v).group = s.group := rfl
@[simp] theorem State.put_members (s : State) (k : Fld) (v : Nat) : (s.put k v).members = s.members := rfl
@[simp] theorem State.put_cands (s : State) (k : Fld) (v : Nat) : (s.put k v).cands = s.cands := rfl
@[simp] theorem State.put_authFail (s : State) (k : Fld) (v : Nat) : (s.put k v).authFail = s.authFail := rfl
@[simp] theorem State.put_proposal (s : State) (k : Fld) (v : Nat) : (s.put k v).proposal = s.proposal := rfl
@[simp] theorem State.put_stripes (s : State) (k : Fld) (v : Nat) : (s.put k v).stripes = s.stripes := rfl
@[simp] theorem State.put_stripeNo (s : State) (k : Fld) (v : Nat) : (s.put k v).stripeNo = s.stripeNo := rfl
@[simp] theorem State.put_addrs (s : State) (k : Fld) (v : Nat) : (s.put k v).addrs = s.addrs := rfl
@[simp] theorem State.put_partner (s : State) (k : Fld) (v : Nat) : (s.put k v).partner = s.partner := rfl
@[simp] theorem State.put_peerAdopt (s : State) (k : Fld) (v : Nat) : (s.put k v).peerAdopt = s.peerAdopt := rfl
@[simp] theorem State.put_loads (s : State) (k : Fld) (v : Nat) : (s.put k v).loads = s.loads := rfl
@[simp] theorem State.put_tsave (s : State) (k : Fld) (v : Nat) : (s.put k v).tsave = s.tsave := rfl
@[simp] theorem State.put_tregs (s : State) (k : Fld) (v : Nat) : (s.put k v).tregs = s.tregs := rfl
@[simp] theorem State.put_tenc (s : State) (k : Fld) (v : Nat) : (s.put k v).tenc = s.tenc := rfl
@[simp] theorem State.put_senseOffs (s : State) (k : Fld) (v : Nat) : (s.put k v).senseOffs = s.senseOffs := rfl
@[simp] theorem State.put_ages (s : State) (k : Fld) (v : Nat) : (s.put k v).ages = s.ages := rfl
@[simp] theorem State.put_dues (s : State) (k : Fld) (v : Nat) : (s.put k v).dues = s.dues := rfl
@[simp] theorem State.put_verifs (s : State) (k : Fld) (v : Nat) : (s.put k v).verifs = s.verifs := rfl
@[simp] theorem State.put_fitFrom (s : State) (k : Fld) (v : Nat) : (s.put k v).fitFrom = s.fitFrom := rfl
@[simp] theorem State.put_slopes (s : State) (k : Fld) (v : Nat) : (s.put k v).slopes = s.slopes := rfl
@[simp] theorem State.put_asked (s : State) (k : Fld) (v : Nat) : (s.put k v).asked = s.asked := rfl
@[simp] theorem State.put_certs (s : State) (k : Fld) (v : Nat) : (s.put k v).certs = s.certs := rfl
@[simp] theorem State.put_works (s : State) (k : Fld) (v : Nat) : (s.put k v).works = s.works := rfl
@[simp] theorem State.put_shadow (s : State) (k : Fld) (v : Nat) : (s.put k v).shadow = s.shadow := rfl
@[simp] theorem State.put_miso (s : State) (k : Fld) (v : Nat) : (s.put k v).miso = s.miso := rfl
@[simp] theorem State.put_pending (s : State) (k : Fld) (v : Nat) : (s.put k v).pending = s.pending := rfl

@[simp] theorem State.edge_flds (s : State) (n : Nat) : (s.edge n).flds = s.flds := rfl
@[simp] theorem State.edge_win (s : State) (n : Nat) : (s.edge n).win = s.win := rfl
@[simp] theorem State.edge_free (s : State) (n : Nat) : (s.edge n).free = s.free := rfl
@[simp] theorem State.edge_inbox (s : State) (n : Nat) : (s.edge n).inbox = s.inbox := rfl
@[simp] theorem State.edge_chn (s : State) (n : Nat) : (s.edge n).chn = s.chn := rfl
@[simp] theorem State.edge_seqs (s : State) (n : Nat) : (s.edge n).seqs = s.seqs := rfl
@[simp] theorem State.edge_pa (s : State) (n : Nat) : (s.edge n).pa = s.pa := rfl
@[simp] theorem State.edge_jq (s : State) (n : Nat) : (s.edge n).jq = s.jq := rfl
@[simp] theorem State.edge_jact (s : State) (n : Nat) : (s.edge n).jact = s.jact := rfl
@[simp] theorem State.edge_jobNo (s : State) (n : Nat) : (s.edge n).jobNo = s.jobNo := rfl
@[simp] theorem State.edge_opt (s : State) (n : Nat) : (s.edge n).opt = s.opt := rfl
@[simp] theorem State.edge_fmt (s : State) (n : Nat) : (s.edge n).fmt = s.fmt := rfl
@[simp] theorem State.edge_cmds (s : State) (n : Nat) : (s.edge n).cmds = s.cmds := rfl
@[simp] theorem State.edge_cmdNo (s : State) (n : Nat) : (s.edge n).cmdNo = s.cmdNo := rfl
@[simp] theorem State.edge_cqs (s : State) (n : Nat) : (s.edge n).cqs = s.cqs := rfl
@[simp] theorem State.edge_ctrls (s : State) (n : Nat) : (s.edge n).ctrls = s.ctrls := rfl
@[simp] theorem State.edge_visit (s : State) (n : Nat) : (s.edge n).visit = s.visit := rfl
@[simp] theorem State.edge_nss (s : State) (n : Nat) : (s.edge n).nss = s.nss := rfl
@[simp] theorem State.edge_zones (s : State) (n : Nat) : (s.edge n).zones = s.zones := rfl
@[simp] theorem State.edge_bands (s : State) (n : Nat) : (s.edge n).bands = s.bands := rfl
@[simp] theorem State.edge_vol (s : State) (n : Nat) : (s.edge n).vol = s.vol := rfl
@[simp] theorem State.edge_dur (s : State) (n : Nat) : (s.edge n).dur = s.dur := rfl
@[simp] theorem State.edge_wseq (s : State) (n : Nat) : (s.edge n).wseq = s.wseq := rfl
@[simp] theorem State.edge_points (s : State) (n : Nat) : (s.edge n).points = s.points := rfl
@[simp] theorem State.edge_mops (s : State) (n : Nat) : (s.edge n).mops = s.mops := rfl
@[simp] theorem State.edge_opid (s : State) (n : Nat) : (s.edge n).opid = s.opid := rfl
@[simp] theorem State.edge_journal (s : State) (n : Nat) : (s.edge n).journal = s.journal := rfl
@[simp] theorem State.edge_jseq (s : State) (n : Nat) : (s.edge n).jseq = s.jseq := rfl
@[simp] theorem State.edge_demands (s : State) (n : Nat) : (s.edge n).demands = s.demands := rfl
@[simp] theorem State.edge_test (s : State) (n : Nat) : (s.edge n).test = s.test := rfl
@[simp] theorem State.edge_testLog (s : State) (n : Nat) : (s.edge n).testLog = s.testLog := rfl
@[simp] theorem State.edge_tstore (s : State) (n : Nat) : (s.edge n).tstore = s.tstore := rfl
@[simp] theorem State.edge_rung6 (s : State) (n : Nat) : (s.edge n).rung6 = s.rung6 := rfl
@[simp] theorem State.edge_amps (s : State) (n : Nat) : (s.edge n).amps = s.amps := rfl
@[simp] theorem State.edge_loops (s : State) (n : Nat) : (s.edge n).loops = s.loops := rfl
@[simp] theorem State.edge_tstk (s : State) (n : Nat) : (s.edge n).tstk = s.tstk := rfl
@[simp] theorem State.edge_tshd (s : State) (n : Nat) : (s.edge n).tshd = s.tshd := rfl
@[simp] theorem State.edge_tshr (s : State) (n : Nat) : (s.edge n).tshr = s.tshr := rfl
@[simp] theorem State.edge_altered (s : State) (n : Nat) : (s.edge n).altered = s.altered := rfl
@[simp] theorem State.edge_weakSlots (s : State) (n : Nat) : (s.edge n).weakSlots = s.weakSlots := rfl
@[simp] theorem State.edge_sams (s : State) (n : Nat) : (s.edge n).sams = s.sams := rfl
@[simp] theorem State.edge_tscrub (s : State) (n : Nat) : (s.edge n).tscrub = s.tscrub := rfl
@[simp] theorem State.edge_fwImg (s : State) (n : Nat) : (s.edge n).fwImg = s.fwImg := rfl
@[simp] theorem State.edge_fwErased (s : State) (n : Nat) : (s.edge n).fwErased = s.fwErased := rfl
@[simp] theorem State.edge_bstore (s : State) (n : Nat) : (s.edge n).bstore = s.bstore := rfl
@[simp] theorem State.edge_wd (s : State) (n : Nat) : (s.edge n).wd = s.wd := rfl
@[simp] theorem State.edge_media (s : State) (n : Nat) : (s.edge n).media = s.media := rfl
@[simp] theorem State.edge_mcache (s : State) (n : Nat) : (s.edge n).mcache = s.mcache := rfl
@[simp] theorem State.edge_sysrec (s : State) (n : Nat) : (s.edge n).sysrec = s.sysrec := rfl
@[simp] theorem State.edge_cstore (s : State) (n : Nat) : (s.edge n).cstore = s.cstore := rfl
@[simp] theorem State.edge_tmchk (s : State) (n : Nat) : (s.edge n).tmchk = s.tmchk := rfl
@[simp] theorem State.edge_cog (s : State) (n : Nat) : (s.edge n).cog = s.cog := rfl
@[simp] theorem State.edge_spn (s : State) (n : Nat) : (s.edge n).spn = s.spn := rfl
@[simp] theorem State.edge_sup (s : State) (n : Nat) : (s.edge n).sup = s.sup := rfl
@[simp] theorem State.edge_flash (s : State) (n : Nat) : (s.edge n).flash = s.flash := rfl
@[simp] theorem State.edge_blks (s : State) (n : Nat) : (s.edge n).blks = s.blks := rfl
@[simp] theorem State.edge_fops (s : State) (n : Nat) : (s.edge n).fops = s.fops := rfl
@[simp] theorem State.edge_fwait (s : State) (n : Nat) : (s.edge n).fwait = s.fwait := rfl
@[simp] theorem State.edge_fread (s : State) (n : Nat) : (s.edge n).fread = s.fread := rfl
@[simp] theorem State.edge_fwPend (s : State) (n : Nat) : (s.edge n).fwPend = s.fwPend := rfl
@[simp] theorem State.edge_popen (s : State) (n : Nat) : (s.edge n).popen = s.popen := rfl
@[simp] theorem State.edge_pbuf (s : State) (n : Nat) : (s.edge n).pbuf = s.pbuf := rfl
@[simp] theorem State.edge_ring (s : State) (n : Nat) : (s.edge n).ring = s.ring := rfl
@[simp] theorem State.edge_ringBad (s : State) (n : Nat) : (s.edge n).ringBad = s.ringBad := rfl
@[simp] theorem State.edge_errlog (s : State) (n : Nat) : (s.edge n).errlog = s.errlog := rfl
@[simp] theorem State.edge_rsets (s : State) (n : Nat) : (s.edge n).rsets = s.rsets := rfl
@[simp] theorem State.edge_reqs (s : State) (n : Nat) : (s.edge n).reqs = s.reqs := rfl
@[simp] theorem State.edge_reqNo (s : State) (n : Nat) : (s.edge n).reqNo = s.reqNo := rfl
@[simp] theorem State.edge_rspNo (s : State) (n : Nat) : (s.edge n).rspNo = s.rspNo := rfl
@[simp] theorem State.edge_nonces (s : State) (n : Nat) : (s.edge n).nonces = s.nonces := rfl
@[simp] theorem State.edge_held (s : State) (n : Nat) : (s.edge n).held = s.held := rfl
@[simp] theorem State.edge_miOut (s : State) (n : Nat) : (s.edge n).miOut = s.miOut := rfl
@[simp] theorem State.edge_pkt (s : State) (n : Nat) : (s.edge n).pkt = s.pkt := rfl
@[simp] theorem State.edge_hbm (s : State) (n : Nat) : (s.edge n).hbm = s.hbm := rfl
@[simp] theorem State.edge_poison (s : State) (n : Nat) : (s.edge n).poison = s.poison := rfl
@[simp] theorem State.edge_lost (s : State) (n : Nat) : (s.edge n).lost = s.lost := rfl
@[simp] theorem State.edge_kvLog (s : State) (n : Nat) : (s.edge n).kvLog = s.kvLog := rfl
@[simp] theorem State.edge_kvDur (s : State) (n : Nat) : (s.edge n).kvDur = s.kvDur := rfl
@[simp] theorem State.edge_progs (s : State) (n : Nat) : (s.edge n).progs = s.progs := rfl
@[simp] theorem State.edge_progRuns (s : State) (n : Nat) : (s.edge n).progRuns = s.progRuns := rfl
@[simp] theorem State.edge_group (s : State) (n : Nat) : (s.edge n).group = s.group := rfl
@[simp] theorem State.edge_members (s : State) (n : Nat) : (s.edge n).members = s.members := rfl
@[simp] theorem State.edge_cands (s : State) (n : Nat) : (s.edge n).cands = s.cands := rfl
@[simp] theorem State.edge_authFail (s : State) (n : Nat) : (s.edge n).authFail = s.authFail := rfl
@[simp] theorem State.edge_proposal (s : State) (n : Nat) : (s.edge n).proposal = s.proposal := rfl
@[simp] theorem State.edge_stripes (s : State) (n : Nat) : (s.edge n).stripes = s.stripes := rfl
@[simp] theorem State.edge_stripeNo (s : State) (n : Nat) : (s.edge n).stripeNo = s.stripeNo := rfl
@[simp] theorem State.edge_addrs (s : State) (n : Nat) : (s.edge n).addrs = s.addrs := rfl
@[simp] theorem State.edge_partner (s : State) (n : Nat) : (s.edge n).partner = s.partner := rfl
@[simp] theorem State.edge_peerAdopt (s : State) (n : Nat) : (s.edge n).peerAdopt = s.peerAdopt := rfl
@[simp] theorem State.edge_loads (s : State) (n : Nat) : (s.edge n).loads = s.loads := rfl
@[simp] theorem State.edge_tsave (s : State) (n : Nat) : (s.edge n).tsave = s.tsave := rfl
@[simp] theorem State.edge_tregs (s : State) (n : Nat) : (s.edge n).tregs = s.tregs := rfl
@[simp] theorem State.edge_tenc (s : State) (n : Nat) : (s.edge n).tenc = s.tenc := rfl
@[simp] theorem State.edge_senseOffs (s : State) (n : Nat) : (s.edge n).senseOffs = s.senseOffs := rfl
@[simp] theorem State.edge_ages (s : State) (n : Nat) : (s.edge n).ages = s.ages := rfl
@[simp] theorem State.edge_dues (s : State) (n : Nat) : (s.edge n).dues = s.dues := rfl
@[simp] theorem State.edge_verifs (s : State) (n : Nat) : (s.edge n).verifs = s.verifs := rfl
@[simp] theorem State.edge_fitFrom (s : State) (n : Nat) : (s.edge n).fitFrom = s.fitFrom := rfl
@[simp] theorem State.edge_slopes (s : State) (n : Nat) : (s.edge n).slopes = s.slopes := rfl
@[simp] theorem State.edge_asked (s : State) (n : Nat) : (s.edge n).asked = s.asked := rfl
@[simp] theorem State.edge_certs (s : State) (n : Nat) : (s.edge n).certs = s.certs := rfl
@[simp] theorem State.edge_works (s : State) (n : Nat) : (s.edge n).works = s.works := rfl
@[simp] theorem State.edge_shadow (s : State) (n : Nat) : (s.edge n).shadow = s.shadow := rfl
@[simp] theorem State.edge_miso (s : State) (n : Nat) : (s.edge n).miso = s.miso := rfl
@[simp] theorem State.edge_pending (s : State) (n : Nat) : (s.edge n).pending = s.pending := rfl

@[simp] theorem State.post_flds (s : State) (b c v i : Nat) (d : List Nat) : (s.post b c v i d).flds = s.flds := rfl
@[simp] theorem State.post_win (s : State) (b c v i : Nat) (d : List Nat) : (s.post b c v i d).win = s.win := rfl
@[simp] theorem State.post_free (s : State) (b c v i : Nat) (d : List Nat) : (s.post b c v i d).free = s.free := rfl
@[simp] theorem State.post_edges (s : State) (b c v i : Nat) (d : List Nat) : (s.post b c v i d).edges = s.edges := rfl
@[simp] theorem State.post_chn (s : State) (b c v i : Nat) (d : List Nat) : (s.post b c v i d).chn = s.chn := rfl
@[simp] theorem State.post_seqs (s : State) (b c v i : Nat) (d : List Nat) : (s.post b c v i d).seqs = s.seqs := rfl
@[simp] theorem State.post_pa (s : State) (b c v i : Nat) (d : List Nat) : (s.post b c v i d).pa = s.pa := rfl
@[simp] theorem State.post_jq (s : State) (b c v i : Nat) (d : List Nat) : (s.post b c v i d).jq = s.jq := rfl
@[simp] theorem State.post_jact (s : State) (b c v i : Nat) (d : List Nat) : (s.post b c v i d).jact = s.jact := rfl
@[simp] theorem State.post_jobNo (s : State) (b c v i : Nat) (d : List Nat) : (s.post b c v i d).jobNo = s.jobNo := rfl
@[simp] theorem State.post_opt (s : State) (b c v i : Nat) (d : List Nat) : (s.post b c v i d).opt = s.opt := rfl
@[simp] theorem State.post_fmt (s : State) (b c v i : Nat) (d : List Nat) : (s.post b c v i d).fmt = s.fmt := rfl
@[simp] theorem State.post_cmds (s : State) (b c v i : Nat) (d : List Nat) : (s.post b c v i d).cmds = s.cmds := rfl
@[simp] theorem State.post_cmdNo (s : State) (b c v i : Nat) (d : List Nat) : (s.post b c v i d).cmdNo = s.cmdNo := rfl
@[simp] theorem State.post_cqs (s : State) (b c v i : Nat) (d : List Nat) : (s.post b c v i d).cqs = s.cqs := rfl
@[simp] theorem State.post_ctrls (s : State) (b c v i : Nat) (d : List Nat) : (s.post b c v i d).ctrls = s.ctrls := rfl
@[simp] theorem State.post_visit (s : State) (b c v i : Nat) (d : List Nat) : (s.post b c v i d).visit = s.visit := rfl
@[simp] theorem State.post_nss (s : State) (b c v i : Nat) (d : List Nat) : (s.post b c v i d).nss = s.nss := rfl
@[simp] theorem State.post_zones (s : State) (b c v i : Nat) (d : List Nat) : (s.post b c v i d).zones = s.zones := rfl
@[simp] theorem State.post_bands (s : State) (b c v i : Nat) (d : List Nat) : (s.post b c v i d).bands = s.bands := rfl
@[simp] theorem State.post_vol (s : State) (b c v i : Nat) (d : List Nat) : (s.post b c v i d).vol = s.vol := rfl
@[simp] theorem State.post_dur (s : State) (b c v i : Nat) (d : List Nat) : (s.post b c v i d).dur = s.dur := rfl
@[simp] theorem State.post_wseq (s : State) (b c v i : Nat) (d : List Nat) : (s.post b c v i d).wseq = s.wseq := rfl
@[simp] theorem State.post_points (s : State) (b c v i : Nat) (d : List Nat) : (s.post b c v i d).points = s.points := rfl
@[simp] theorem State.post_mops (s : State) (b c v i : Nat) (d : List Nat) : (s.post b c v i d).mops = s.mops := rfl
@[simp] theorem State.post_opid (s : State) (b c v i : Nat) (d : List Nat) : (s.post b c v i d).opid = s.opid := rfl
@[simp] theorem State.post_journal (s : State) (b c v i : Nat) (d : List Nat) : (s.post b c v i d).journal = s.journal := rfl
@[simp] theorem State.post_jseq (s : State) (b c v i : Nat) (d : List Nat) : (s.post b c v i d).jseq = s.jseq := rfl
@[simp] theorem State.post_demands (s : State) (b c v i : Nat) (d : List Nat) : (s.post b c v i d).demands = s.demands := rfl
@[simp] theorem State.post_test (s : State) (b c v i : Nat) (d : List Nat) : (s.post b c v i d).test = s.test := rfl
@[simp] theorem State.post_testLog (s : State) (b c v i : Nat) (d : List Nat) : (s.post b c v i d).testLog = s.testLog := rfl
@[simp] theorem State.post_tstore (s : State) (b c v i : Nat) (d : List Nat) : (s.post b c v i d).tstore = s.tstore := rfl
@[simp] theorem State.post_rung6 (s : State) (b c v i : Nat) (d : List Nat) : (s.post b c v i d).rung6 = s.rung6 := rfl
@[simp] theorem State.post_amps (s : State) (b c v i : Nat) (d : List Nat) : (s.post b c v i d).amps = s.amps := rfl
@[simp] theorem State.post_loops (s : State) (b c v i : Nat) (d : List Nat) : (s.post b c v i d).loops = s.loops := rfl
@[simp] theorem State.post_tstk (s : State) (b c v i : Nat) (d : List Nat) : (s.post b c v i d).tstk = s.tstk := rfl
@[simp] theorem State.post_tshd (s : State) (b c v i : Nat) (d : List Nat) : (s.post b c v i d).tshd = s.tshd := rfl
@[simp] theorem State.post_tshr (s : State) (b c v i : Nat) (d : List Nat) : (s.post b c v i d).tshr = s.tshr := rfl
@[simp] theorem State.post_altered (s : State) (b c v i : Nat) (d : List Nat) : (s.post b c v i d).altered = s.altered := rfl
@[simp] theorem State.post_weakSlots (s : State) (b c v i : Nat) (d : List Nat) : (s.post b c v i d).weakSlots = s.weakSlots := rfl
@[simp] theorem State.post_sams (s : State) (b c v i : Nat) (d : List Nat) : (s.post b c v i d).sams = s.sams := rfl
@[simp] theorem State.post_tscrub (s : State) (b c v i : Nat) (d : List Nat) : (s.post b c v i d).tscrub = s.tscrub := rfl
@[simp] theorem State.post_fwImg (s : State) (b c v i : Nat) (d : List Nat) : (s.post b c v i d).fwImg = s.fwImg := rfl
@[simp] theorem State.post_fwErased (s : State) (b c v i : Nat) (d : List Nat) : (s.post b c v i d).fwErased = s.fwErased := rfl
@[simp] theorem State.post_bstore (s : State) (b c v i : Nat) (d : List Nat) : (s.post b c v i d).bstore = s.bstore := rfl
@[simp] theorem State.post_wd (s : State) (b c v i : Nat) (d : List Nat) : (s.post b c v i d).wd = s.wd := rfl
@[simp] theorem State.post_media (s : State) (b c v i : Nat) (d : List Nat) : (s.post b c v i d).media = s.media := rfl
@[simp] theorem State.post_mcache (s : State) (b c v i : Nat) (d : List Nat) : (s.post b c v i d).mcache = s.mcache := rfl
@[simp] theorem State.post_sysrec (s : State) (b c v i : Nat) (d : List Nat) : (s.post b c v i d).sysrec = s.sysrec := rfl
@[simp] theorem State.post_cstore (s : State) (b c v i : Nat) (d : List Nat) : (s.post b c v i d).cstore = s.cstore := rfl
@[simp] theorem State.post_tmchk (s : State) (b c v i : Nat) (d : List Nat) : (s.post b c v i d).tmchk = s.tmchk := rfl
@[simp] theorem State.post_cog (s : State) (b c v i : Nat) (d : List Nat) : (s.post b c v i d).cog = s.cog := rfl
@[simp] theorem State.post_spn (s : State) (b c v i : Nat) (d : List Nat) : (s.post b c v i d).spn = s.spn := rfl
@[simp] theorem State.post_sup (s : State) (b c v i : Nat) (d : List Nat) : (s.post b c v i d).sup = s.sup := rfl
@[simp] theorem State.post_flash (s : State) (b c v i : Nat) (d : List Nat) : (s.post b c v i d).flash = s.flash := rfl
@[simp] theorem State.post_blks (s : State) (b c v i : Nat) (d : List Nat) : (s.post b c v i d).blks = s.blks := rfl
@[simp] theorem State.post_fops (s : State) (b c v i : Nat) (d : List Nat) : (s.post b c v i d).fops = s.fops := rfl
@[simp] theorem State.post_fwait (s : State) (b c v i : Nat) (d : List Nat) : (s.post b c v i d).fwait = s.fwait := rfl
@[simp] theorem State.post_fread (s : State) (b c v i : Nat) (d : List Nat) : (s.post b c v i d).fread = s.fread := rfl
@[simp] theorem State.post_fwPend (s : State) (b c v i : Nat) (d : List Nat) : (s.post b c v i d).fwPend = s.fwPend := rfl
@[simp] theorem State.post_popen (s : State) (b c v i : Nat) (d : List Nat) : (s.post b c v i d).popen = s.popen := rfl
@[simp] theorem State.post_pbuf (s : State) (b c v i : Nat) (d : List Nat) : (s.post b c v i d).pbuf = s.pbuf := rfl
@[simp] theorem State.post_ring (s : State) (b c v i : Nat) (d : List Nat) : (s.post b c v i d).ring = s.ring := rfl
@[simp] theorem State.post_ringBad (s : State) (b c v i : Nat) (d : List Nat) : (s.post b c v i d).ringBad = s.ringBad := rfl
@[simp] theorem State.post_errlog (s : State) (b c v i : Nat) (d : List Nat) : (s.post b c v i d).errlog = s.errlog := rfl
@[simp] theorem State.post_rsets (s : State) (b c v i : Nat) (d : List Nat) : (s.post b c v i d).rsets = s.rsets := rfl
@[simp] theorem State.post_reqs (s : State) (b c v i : Nat) (d : List Nat) : (s.post b c v i d).reqs = s.reqs := rfl
@[simp] theorem State.post_reqNo (s : State) (b c v i : Nat) (d : List Nat) : (s.post b c v i d).reqNo = s.reqNo := rfl
@[simp] theorem State.post_rspNo (s : State) (b c v i : Nat) (d : List Nat) : (s.post b c v i d).rspNo = s.rspNo := rfl
@[simp] theorem State.post_nonces (s : State) (b c v i : Nat) (d : List Nat) : (s.post b c v i d).nonces = s.nonces := rfl
@[simp] theorem State.post_held (s : State) (b c v i : Nat) (d : List Nat) : (s.post b c v i d).held = s.held := rfl
@[simp] theorem State.post_miOut (s : State) (b c v i : Nat) (d : List Nat) : (s.post b c v i d).miOut = s.miOut := rfl
@[simp] theorem State.post_pkt (s : State) (b c v i : Nat) (d : List Nat) : (s.post b c v i d).pkt = s.pkt := rfl
@[simp] theorem State.post_hbm (s : State) (b c v i : Nat) (d : List Nat) : (s.post b c v i d).hbm = s.hbm := rfl
@[simp] theorem State.post_poison (s : State) (b c v i : Nat) (d : List Nat) : (s.post b c v i d).poison = s.poison := rfl
@[simp] theorem State.post_lost (s : State) (b c v i : Nat) (d : List Nat) : (s.post b c v i d).lost = s.lost := rfl
@[simp] theorem State.post_kvLog (s : State) (b c v i : Nat) (d : List Nat) : (s.post b c v i d).kvLog = s.kvLog := rfl
@[simp] theorem State.post_kvDur (s : State) (b c v i : Nat) (d : List Nat) : (s.post b c v i d).kvDur = s.kvDur := rfl
@[simp] theorem State.post_progs (s : State) (b c v i : Nat) (d : List Nat) : (s.post b c v i d).progs = s.progs := rfl
@[simp] theorem State.post_progRuns (s : State) (b c v i : Nat) (d : List Nat) : (s.post b c v i d).progRuns = s.progRuns := rfl
@[simp] theorem State.post_group (s : State) (b c v i : Nat) (d : List Nat) : (s.post b c v i d).group = s.group := rfl
@[simp] theorem State.post_members (s : State) (b c v i : Nat) (d : List Nat) : (s.post b c v i d).members = s.members := rfl
@[simp] theorem State.post_cands (s : State) (b c v i : Nat) (d : List Nat) : (s.post b c v i d).cands = s.cands := rfl
@[simp] theorem State.post_authFail (s : State) (b c v i : Nat) (d : List Nat) : (s.post b c v i d).authFail = s.authFail := rfl
@[simp] theorem State.post_proposal (s : State) (b c v i : Nat) (d : List Nat) : (s.post b c v i d).proposal = s.proposal := rfl
@[simp] theorem State.post_stripes (s : State) (b c v i : Nat) (d : List Nat) : (s.post b c v i d).stripes = s.stripes := rfl
@[simp] theorem State.post_stripeNo (s : State) (b c v i : Nat) (d : List Nat) : (s.post b c v i d).stripeNo = s.stripeNo := rfl
@[simp] theorem State.post_addrs (s : State) (b c v i : Nat) (d : List Nat) : (s.post b c v i d).addrs = s.addrs := rfl
@[simp] theorem State.post_partner (s : State) (b c v i : Nat) (d : List Nat) : (s.post b c v i d).partner = s.partner := rfl
@[simp] theorem State.post_peerAdopt (s : State) (b c v i : Nat) (d : List Nat) : (s.post b c v i d).peerAdopt = s.peerAdopt := rfl
@[simp] theorem State.post_loads (s : State) (b c v i : Nat) (d : List Nat) : (s.post b c v i d).loads = s.loads := rfl
@[simp] theorem State.post_tsave (s : State) (b c v i : Nat) (d : List Nat) : (s.post b c v i d).tsave = s.tsave := rfl
@[simp] theorem State.post_tregs (s : State) (b c v i : Nat) (d : List Nat) : (s.post b c v i d).tregs = s.tregs := rfl
@[simp] theorem State.post_tenc (s : State) (b c v i : Nat) (d : List Nat) : (s.post b c v i d).tenc = s.tenc := rfl
@[simp] theorem State.post_senseOffs (s : State) (b c v i : Nat) (d : List Nat) : (s.post b c v i d).senseOffs = s.senseOffs := rfl
@[simp] theorem State.post_ages (s : State) (b c v i : Nat) (d : List Nat) : (s.post b c v i d).ages = s.ages := rfl
@[simp] theorem State.post_dues (s : State) (b c v i : Nat) (d : List Nat) : (s.post b c v i d).dues = s.dues := rfl
@[simp] theorem State.post_verifs (s : State) (b c v i : Nat) (d : List Nat) : (s.post b c v i d).verifs = s.verifs := rfl
@[simp] theorem State.post_fitFrom (s : State) (b c v i : Nat) (d : List Nat) : (s.post b c v i d).fitFrom = s.fitFrom := rfl
@[simp] theorem State.post_slopes (s : State) (b c v i : Nat) (d : List Nat) : (s.post b c v i d).slopes = s.slopes := rfl
@[simp] theorem State.post_asked (s : State) (b c v i : Nat) (d : List Nat) : (s.post b c v i d).asked = s.asked := rfl
@[simp] theorem State.post_certs (s : State) (b c v i : Nat) (d : List Nat) : (s.post b c v i d).certs = s.certs := rfl
@[simp] theorem State.post_works (s : State) (b c v i : Nat) (d : List Nat) : (s.post b c v i d).works = s.works := rfl
@[simp] theorem State.post_shadow (s : State) (b c v i : Nat) (d : List Nat) : (s.post b c v i d).shadow = s.shadow := rfl
@[simp] theorem State.post_miso (s : State) (b c v i : Nat) (d : List Nat) : (s.post b c v i d).miso = s.miso := rfl
@[simp] theorem State.post_pending (s : State) (b c v i : Nat) (d : List Nat) : (s.post b c v i d).pending = s.pending := rfl

@[simp] theorem State.drew_flds (s : State) : (s.drew).flds = s.flds := rfl
@[simp] theorem State.drew_win (s : State) : (s.drew).win = s.win := rfl
@[simp] theorem State.drew_edges (s : State) : (s.drew).edges = s.edges := rfl
@[simp] theorem State.drew_inbox (s : State) : (s.drew).inbox = s.inbox := rfl
@[simp] theorem State.drew_chn (s : State) : (s.drew).chn = s.chn := rfl
@[simp] theorem State.drew_seqs (s : State) : (s.drew).seqs = s.seqs := rfl
@[simp] theorem State.drew_pa (s : State) : (s.drew).pa = s.pa := rfl
@[simp] theorem State.drew_jq (s : State) : (s.drew).jq = s.jq := rfl
@[simp] theorem State.drew_jact (s : State) : (s.drew).jact = s.jact := rfl
@[simp] theorem State.drew_jobNo (s : State) : (s.drew).jobNo = s.jobNo := rfl
@[simp] theorem State.drew_opt (s : State) : (s.drew).opt = s.opt := rfl
@[simp] theorem State.drew_fmt (s : State) : (s.drew).fmt = s.fmt := rfl
@[simp] theorem State.drew_cmds (s : State) : (s.drew).cmds = s.cmds := rfl
@[simp] theorem State.drew_cmdNo (s : State) : (s.drew).cmdNo = s.cmdNo := rfl
@[simp] theorem State.drew_cqs (s : State) : (s.drew).cqs = s.cqs := rfl
@[simp] theorem State.drew_ctrls (s : State) : (s.drew).ctrls = s.ctrls := rfl
@[simp] theorem State.drew_visit (s : State) : (s.drew).visit = s.visit := rfl
@[simp] theorem State.drew_nss (s : State) : (s.drew).nss = s.nss := rfl
@[simp] theorem State.drew_zones (s : State) : (s.drew).zones = s.zones := rfl
@[simp] theorem State.drew_bands (s : State) : (s.drew).bands = s.bands := rfl
@[simp] theorem State.drew_vol (s : State) : (s.drew).vol = s.vol := rfl
@[simp] theorem State.drew_dur (s : State) : (s.drew).dur = s.dur := rfl
@[simp] theorem State.drew_wseq (s : State) : (s.drew).wseq = s.wseq := rfl
@[simp] theorem State.drew_points (s : State) : (s.drew).points = s.points := rfl
@[simp] theorem State.drew_mops (s : State) : (s.drew).mops = s.mops := rfl
@[simp] theorem State.drew_opid (s : State) : (s.drew).opid = s.opid := rfl
@[simp] theorem State.drew_journal (s : State) : (s.drew).journal = s.journal := rfl
@[simp] theorem State.drew_jseq (s : State) : (s.drew).jseq = s.jseq := rfl
@[simp] theorem State.drew_demands (s : State) : (s.drew).demands = s.demands := rfl
@[simp] theorem State.drew_test (s : State) : (s.drew).test = s.test := rfl
@[simp] theorem State.drew_testLog (s : State) : (s.drew).testLog = s.testLog := rfl
@[simp] theorem State.drew_tstore (s : State) : (s.drew).tstore = s.tstore := rfl
@[simp] theorem State.drew_rung6 (s : State) : (s.drew).rung6 = s.rung6 := rfl
@[simp] theorem State.drew_amps (s : State) : (s.drew).amps = s.amps := rfl
@[simp] theorem State.drew_loops (s : State) : (s.drew).loops = s.loops := rfl
@[simp] theorem State.drew_tstk (s : State) : (s.drew).tstk = s.tstk := rfl
@[simp] theorem State.drew_tshd (s : State) : (s.drew).tshd = s.tshd := rfl
@[simp] theorem State.drew_tshr (s : State) : (s.drew).tshr = s.tshr := rfl
@[simp] theorem State.drew_altered (s : State) : (s.drew).altered = s.altered := rfl
@[simp] theorem State.drew_weakSlots (s : State) : (s.drew).weakSlots = s.weakSlots := rfl
@[simp] theorem State.drew_sams (s : State) : (s.drew).sams = s.sams := rfl
@[simp] theorem State.drew_tscrub (s : State) : (s.drew).tscrub = s.tscrub := rfl
@[simp] theorem State.drew_fwImg (s : State) : (s.drew).fwImg = s.fwImg := rfl
@[simp] theorem State.drew_fwErased (s : State) : (s.drew).fwErased = s.fwErased := rfl
@[simp] theorem State.drew_bstore (s : State) : (s.drew).bstore = s.bstore := rfl
@[simp] theorem State.drew_wd (s : State) : (s.drew).wd = s.wd := rfl
@[simp] theorem State.drew_media (s : State) : (s.drew).media = s.media := rfl
@[simp] theorem State.drew_mcache (s : State) : (s.drew).mcache = s.mcache := rfl
@[simp] theorem State.drew_sysrec (s : State) : (s.drew).sysrec = s.sysrec := rfl
@[simp] theorem State.drew_cstore (s : State) : (s.drew).cstore = s.cstore := rfl
@[simp] theorem State.drew_tmchk (s : State) : (s.drew).tmchk = s.tmchk := rfl
@[simp] theorem State.drew_cog (s : State) : (s.drew).cog = s.cog := rfl
@[simp] theorem State.drew_spn (s : State) : (s.drew).spn = s.spn := rfl
@[simp] theorem State.drew_sup (s : State) : (s.drew).sup = s.sup := rfl
@[simp] theorem State.drew_flash (s : State) : (s.drew).flash = s.flash := rfl
@[simp] theorem State.drew_blks (s : State) : (s.drew).blks = s.blks := rfl
@[simp] theorem State.drew_fops (s : State) : (s.drew).fops = s.fops := rfl
@[simp] theorem State.drew_fwait (s : State) : (s.drew).fwait = s.fwait := rfl
@[simp] theorem State.drew_fread (s : State) : (s.drew).fread = s.fread := rfl
@[simp] theorem State.drew_fwPend (s : State) : (s.drew).fwPend = s.fwPend := rfl
@[simp] theorem State.drew_popen (s : State) : (s.drew).popen = s.popen := rfl
@[simp] theorem State.drew_pbuf (s : State) : (s.drew).pbuf = s.pbuf := rfl
@[simp] theorem State.drew_ring (s : State) : (s.drew).ring = s.ring := rfl
@[simp] theorem State.drew_ringBad (s : State) : (s.drew).ringBad = s.ringBad := rfl
@[simp] theorem State.drew_errlog (s : State) : (s.drew).errlog = s.errlog := rfl
@[simp] theorem State.drew_rsets (s : State) : (s.drew).rsets = s.rsets := rfl
@[simp] theorem State.drew_reqs (s : State) : (s.drew).reqs = s.reqs := rfl
@[simp] theorem State.drew_reqNo (s : State) : (s.drew).reqNo = s.reqNo := rfl
@[simp] theorem State.drew_rspNo (s : State) : (s.drew).rspNo = s.rspNo := rfl
@[simp] theorem State.drew_nonces (s : State) : (s.drew).nonces = s.nonces := rfl
@[simp] theorem State.drew_held (s : State) : (s.drew).held = s.held := rfl
@[simp] theorem State.drew_miOut (s : State) : (s.drew).miOut = s.miOut := rfl
@[simp] theorem State.drew_pkt (s : State) : (s.drew).pkt = s.pkt := rfl
@[simp] theorem State.drew_hbm (s : State) : (s.drew).hbm = s.hbm := rfl
@[simp] theorem State.drew_poison (s : State) : (s.drew).poison = s.poison := rfl
@[simp] theorem State.drew_lost (s : State) : (s.drew).lost = s.lost := rfl
@[simp] theorem State.drew_kvLog (s : State) : (s.drew).kvLog = s.kvLog := rfl
@[simp] theorem State.drew_kvDur (s : State) : (s.drew).kvDur = s.kvDur := rfl
@[simp] theorem State.drew_progs (s : State) : (s.drew).progs = s.progs := rfl
@[simp] theorem State.drew_progRuns (s : State) : (s.drew).progRuns = s.progRuns := rfl
@[simp] theorem State.drew_group (s : State) : (s.drew).group = s.group := rfl
@[simp] theorem State.drew_members (s : State) : (s.drew).members = s.members := rfl
@[simp] theorem State.drew_cands (s : State) : (s.drew).cands = s.cands := rfl
@[simp] theorem State.drew_authFail (s : State) : (s.drew).authFail = s.authFail := rfl
@[simp] theorem State.drew_proposal (s : State) : (s.drew).proposal = s.proposal := rfl
@[simp] theorem State.drew_stripes (s : State) : (s.drew).stripes = s.stripes := rfl
@[simp] theorem State.drew_stripeNo (s : State) : (s.drew).stripeNo = s.stripeNo := rfl
@[simp] theorem State.drew_addrs (s : State) : (s.drew).addrs = s.addrs := rfl
@[simp] theorem State.drew_partner (s : State) : (s.drew).partner = s.partner := rfl
@[simp] theorem State.drew_peerAdopt (s : State) : (s.drew).peerAdopt = s.peerAdopt := rfl
@[simp] theorem State.drew_loads (s : State) : (s.drew).loads = s.loads := rfl
@[simp] theorem State.drew_tsave (s : State) : (s.drew).tsave = s.tsave := rfl
@[simp] theorem State.drew_tregs (s : State) : (s.drew).tregs = s.tregs := rfl
@[simp] theorem State.drew_tenc (s : State) : (s.drew).tenc = s.tenc := rfl
@[simp] theorem State.drew_senseOffs (s : State) : (s.drew).senseOffs = s.senseOffs := rfl
@[simp] theorem State.drew_ages (s : State) : (s.drew).ages = s.ages := rfl
@[simp] theorem State.drew_dues (s : State) : (s.drew).dues = s.dues := rfl
@[simp] theorem State.drew_verifs (s : State) : (s.drew).verifs = s.verifs := rfl
@[simp] theorem State.drew_fitFrom (s : State) : (s.drew).fitFrom = s.fitFrom := rfl
@[simp] theorem State.drew_slopes (s : State) : (s.drew).slopes = s.slopes := rfl
@[simp] theorem State.drew_asked (s : State) : (s.drew).asked = s.asked := rfl
@[simp] theorem State.drew_certs (s : State) : (s.drew).certs = s.certs := rfl
@[simp] theorem State.drew_works (s : State) : (s.drew).works = s.works := rfl
@[simp] theorem State.drew_shadow (s : State) : (s.drew).shadow = s.shadow := rfl
@[simp] theorem State.drew_miso (s : State) : (s.drew).miso = s.miso := rfl
@[simp] theorem State.drew_pending (s : State) : (s.drew).pending = s.pending := rfl

/-! ## Reads of a field -/

@[simp] theorem State.get_edge (s : State) (n : Nat) (k : Fld) : (s.edge n).get k = s.get k := rfl

@[simp] theorem State.get_post (s : State) (b c v i : Nat) (d : List Nat) (k : Fld) : (s.post b c v i d).get k = s.get k := rfl

@[simp] theorem State.get_drew (s : State) (k : Fld) : s.drew.get k = s.get k := rfl

@[simp] theorem State.get_setRop (s : State) (a : Nat) (r : ReadOp) (k : Fld) : (s.setRop a r).get k = s.get k := rfl

@[simp] theorem State.get_setSeqr (s : State) (a : Nat) (r : SeqRun) (k : Fld) : (s.setSeqr a r).get k = s.get k := rfl

@[simp] theorem State.get_setJob (s : State) (a : Nat) (j : Option Job) (k : Fld) : (s.setJob a j).get k = s.get k := rfl

@[simp] theorem State.get_paSet (s : State) (a h r v : Nat) (k : Fld) : (s.paSet a h r v).get k = s.get k := rfl

/-- A register transaction changes one field: the header kept as the port's last (R122). -/
theorem State.get_paPut (s : State) (a h r v : Nat) (k : Fld) :
    (s.paPut a h r v).get k = if k = V.sptHdr a then (h * 2048 + r) % 2 ^ (V.sptHdr a).w else s.get k :=
  State.get_put _ _ _ _

theorem State.get_paPut_other (s : State) (a h r v : Nat) {k : Fld} (hk : k ≠ V.sptHdr a) :
    (s.paPut a h r v).get k = s.get k := State.get_put_other _ _ hk

@[simp] theorem State.get_setBstore (s : State) (a : Nat) (l : List BarkerWord) (k : Fld) :
    (s.setBstore a l).get k = s.get k := rfl

@[simp] theorem State.get_putWin (s : State) (b i o : Nat) (l : List Byte) (k : Fld) : (s.putWin b i o l).get k = s.get k := rfl

@[simp] theorem State.puts_nil (s : State) : s.puts [] = s := rfl

@[simp] theorem State.puts_cons (s : State) (e : Fld × Nat) (l : List (Fld × Nat)) :
    s.puts (e :: l) = (s.put e.1 e.2).puts l := rfl

@[simp] theorem State.when_true (s : State) (f : State → State) : s.when true f = f s := rfl

@[simp] theorem State.when_false (s : State) (f : State → State) : s.when false f = s := rfl

theorem State.get_when (s : State) (c : Bool) (f : State → State) (k : Fld) :
    (s.when c f).get k = if c = true then (f s).get k else s.get k := by
  cases c <;> rfl

/-- A change that leaves a field alone for each member of a list leaves it alone for the list. -/
theorem State.get_forAll {α : Type} (k : Fld) (f : α → State → State) (hf : ∀ x u, (f x u).get k = u.get k) (l : List α) :
    ∀ s : State, (s.forAll l f).get k = s.get k := by
  induction l with
  | nil => intro s; rfl
  | cons x xs ih => intro s; exact (ih _).trans (hf x s)

/-- Watching a source changes no field beyond the change it watches. -/
@[simp] theorem State.get_watch (s : State) (b i : Nat) (f : State → State) (k : Fld) : (s.watch b i f).get k = (f s).get k := by
  unfold State.watch
  dsimp only
  split <;> rfl

/-- Setting an event bit sets that bit and no other field (R90). -/
@[simp] theorem State.get_evt (s : State) (e k : Fld) : (s.evt e).get k = if k = e then 1 % 2 ^ e.w else s.get k := by
  simp [State.evt, State.get_put]

/-- A counter leaves alone every field but its own, its flag and the event of its block (R91). -/
theorem State.get_countUp_other (s : State) (c k : Fld) (n : Nat) (h1 : k ≠ c) (h2 : k ≠ { c with lo := 16, w := 1 })
    (h3 : ∀ b, cntSatBit c.blk = some b → k ≠ evtBit c.blk c.inst b) : (s.countUp c n).get k = s.get k := by
  unfold State.countUp
  dsimp only
  split
  · exact State.get_put_other _ _ h1
  · simp only [State.get_when]
    split
    · cases hb : cntSatBit c.blk with
      | none => simp [State.get_put, h1, h2]
      | some b => simp [State.get_put, h1, h2, h3 b hb]
    · exact State.get_put_other _ _ h1

/-- What a counter reads after it has counted: the sum, held at 65,535 (R91). -/
theorem State.get_countUp_same (s : State) (c : Fld) (n : Nat) (hw : c.w = 16)
    (h3 : ∀ b, cntSatBit c.blk = some b → c ≠ evtBit c.blk c.inst b) :
    (s.countUp c n).get c = Nat.min (s.get c + n) 65535 := by
  have h2 : c ≠ { c with lo := 16, w := 1 } := by
    intro h
    have := congrArg Fld.w h
    simp [hw] at this
  unfold State.countUp
  dsimp only
  split
  · rename_i h
    simp only [State.get_put_same, hw]
    rw [Nat.mod_eq_of_lt (by omega)]
    exact (Nat.min_eq_left (by omega)).symm
  · rename_i h
    have hm : Nat.min (s.get c + n) 65535 = 65535 := Nat.min_eq_right (by omega)
    rw [hm]
    simp only [State.get_when]
    split
    · cases hb : cntSatBit c.blk with
      | none => simp [State.get_put, h2, hw]
      | some b => simp [State.get_put, h2, hw, h3 b hb]
    · simp [hw]

/-- Counting with its code reads as counting. -/
@[simp] theorem State.get_countN (s : State) (c k : Fld) (n : Nat) : (s.countN c n).get k = (s.countUp c n).get k := by
  unfold State.countN
  rw [State.get_when]
  split <;> rfl

theorem State.get_countN_other (s : State) (c k : Fld) (n : Nat) (h1 : k ≠ c) (h2 : k ≠ { c with lo := 16, w := 1 })
    (h3 : ∀ b, cntSatBit c.blk = some b → k ≠ evtBit c.blk c.inst b) : (s.countN c n).get k = s.get k :=
  (State.get_countN s c k n).trans (State.get_countUp_other s c k n h1 h2 h3)

theorem State.get_countN_same (s : State) (c : Fld) (n : Nat) (hw : c.w = 16)
    (h3 : ∀ b, cntSatBit c.blk = some b → c ≠ evtBit c.blk c.inst b) :
    (s.countN c n).get c = Nat.min (s.get c + n) 65535 :=
  (State.get_countN s c c n).trans (State.get_countUp_same s c n hw h3)

/-- A sequencer's descriptor changes one field: the count of those its full queue lost (R137). -/
theorem State.get_seqPost_other (s : State) (a code sev : Nat) (d : List Nat) {k : Fld} (hk : k ≠ V.seqLost a) :
    (s.seqPost a code sev d).get k = s.get k := by
  unfold State.seqPost
  split
  · exact State.get_put_other _ _ hk
  · exact State.get_put_other _ _ hk

/-! ## Which parts of the state an operation of the registers reaches -/

theorem State.regsOnly_refl (s : State) : State.regsOnly s s := rfl

theorem State.regsOnly_trans {s t u : State} (h : State.regsOnly s t) (g : State.regsOnly t u) : State.regsOnly s u := by
  unfold State.regsOnly at *
  rw [g, h]

theorem State.regsOnly_put (s : State) (k : Fld) (v : Nat) : State.regsOnly s (s.put k v) := rfl

theorem State.regsOnly_edge (s : State) (n : Nat) : State.regsOnly s (s.edge n) := rfl

theorem State.regsOnly_post (s : State) (b c v i : Nat) (d : List Nat) : State.regsOnly s (s.post b c v i d) := rfl

theorem State.regsOnly_puts (l : List (Fld × Nat)) : ∀ s : State, State.regsOnly s (s.puts l) := by
  induction l with
  | nil => intro s; rfl
  | cons e l ih => intro s; exact State.regsOnly_trans (State.regsOnly_put s e.1 e.2) (ih _)

theorem State.regsOnly_when (s : State) (c : Bool) (f : State → State) (hf : ∀ u, State.regsOnly u (f u)) :
    State.regsOnly s (s.when c f) := by
  cases c
  · rfl
  · exact hf s

theorem State.regsOnly_forAll {α : Type} (f : α → State → State) (hf : ∀ x u, State.regsOnly u (f x u)) (l : List α) :
    ∀ s : State, State.regsOnly s (s.forAll l f) := by
  induction l with
  | nil => intro s; rfl
  | cons x xs ih => intro s; exact State.regsOnly_trans (hf x s) (ih _)

theorem State.regsOnly_evt (s : State) (k : Fld) : State.regsOnly s (s.evt k) := by
  unfold State.evt State.watch
  dsimp only
  split <;> rfl

theorem State.regsOnly_countUp (s : State) (k : Fld) (n : Nat) : State.regsOnly s (s.countUp k n) := by
  unfold State.countUp
  dsimp only
  split
  · rfl
  · refine State.regsOnly_trans (State.regsOnly_put s k 65535) (State.regsOnly_when _ _ _ fun u => ?_)
    split
    · exact State.regsOnly_trans (State.regsOnly_put u _ _) (State.regsOnly_evt _ _)
    · rfl

theorem State.regsOnly_countN (s : State) (k : Fld) (n : Nat) : State.regsOnly s (s.countN k n) :=
  State.regsOnly_trans (State.regsOnly_countUp s k n) (State.regsOnly_when _ _ _ fun u => State.regsOnly_post u _ _ _ _ _)

theorem State.regsOnly_seqPost (s : State) (a code sev : Nat) (d : List Nat) : State.regsOnly s (s.seqPost a code sev d) := by
  unfold State.seqPost
  split <;> rfl

theorem State.regsOnly_seqCountN (s : State) (k : Fld) (n : Nat) : State.regsOnly s (s.seqCountN k n) :=
  State.regsOnly_trans (State.regsOnly_countUp s k n) (State.regsOnly_when _ _ _ fun u => State.regsOnly_seqPost u _ _ _ _)

end Sys2Proof.Machine
end

