-- ==== Sys2Proof/Laws/Out.lean ====
section
/-!
SUPPORT. What an operation can change: `Out l s t` (`Safety.lean`) says that every register field and every part of the state
whose key is not in `l` is in `t` as in `s`. One rule per shape of a definition.
-/

namespace Sys2Proof.Machine

set_option Elab.async false
set_option linter.unusedTactic false
set_option linter.unreachableTactic false
set_option linter.unusedVariables false

/-- Number of a part of the state. -/
def Part.num : Part → Nat
  | .win => 0
  | .free => 1
  | .edges => 2
  | .inbox => 3
  | .chn => 4
  | .seqs => 5
  | .bstore => 6
  | .wd => 7
  | .media => 8
  | .mcache => 9
  | .sysrec => 10
  | .pa => 11
  | .jq => 12
  | .jact => 13
  | .jobNo => 14
  | .opt => 15
  | .fmt => 16
  | .cmds => 17
  | .cmdNo => 18
  | .cqs => 19
  | .ctrls => 20
  | .visit => 21
  | .nss => 22
  | .zones => 23
  | .bands => 24
  | .vol => 25
  | .dur => 26
  | .wseq => 27
  | .points => 28
  | .mops => 29
  | .opid => 30
  | .journal => 31
  | .jseq => 32
  | .demands => 33
  | .test => 34
  | .testLog => 35
  | .tstore => 36
  | .rung6 => 37
  | .amps => 38
  | .sams => 39
  | .loops => 40
  | .tstk => 41
  | .tshd => 42
  | .tshr => 43
  | .tscrub => 44
  | .cstore => 45
  | .tmchk => 46
  | .cog => 47
  | .spn => 48
  | .sup => 49
  | .flash => 50
  | .blks => 51
  | .fops => 52
  | .fwait => 53
  | .fread => 54
  | .fwPend => 55
  | .fwErased => 56
  | .popen => 57
  | .pbuf => 58
  | .ring => 59
  | .ringBad => 60
  | .errlog => 61
  | .rsets => 62
  | .reqs => 63
  | .reqNo => 64
  | .rspNo => 65
  | .nonces => 66
  | .held => 67
  | .miOut => 68
  | .pkt => 69
  | .hbm => 70
  | .poison => 71
  | .lost => 72
  | .kvLog => 73
  | .kvDur => 74
  | .progs => 75
  | .progRuns => 76
  | .group => 77
  | .members => 78
  | .cands => 79
  | .authFail => 80
  | .proposal => 81
  | .stripes => 82
  | .stripeNo => 83
  | .addrs => 84
  | .partner => 85
  | .peerAdopt => 86
  | .loads => 87
  | .fwImg => 88
  | .tsave => 89
  | .tregs => 90
  | .tenc => 91
  | .senseOffs => 92
  | .ages => 93
  | .dues => 94
  | .verifs => 95
  | .fitFrom => 96
  | .slopes => 97
  | .asked => 98
  | .certs => 99
  | .works => 100
  | .altered => 101
  | .weakSlots => 102
  | .shadow => 103
  | .miso => 104
  | .pending => 105

/-- The first key names all that the second names. -/
def Key.cov : Key → Key → Bool
  | .w x o, .w y q => Nat.beq x y && Nat.beq o q
  | .a x o s, .a y q r => Nat.beq x y && Nat.beq o q && Nat.beq s r
  | .b x, .b y => Nat.beq x y
  | .b x, .w y _ => Nat.beq x y
  | .b x, .a y _ _ => Nat.beq x y
  | .p x, .p y => Nat.beq x.num y.num
  | .all, .w _ _ => true
  | .all, .a _ _ _ => true
  | .all, .b _ => true
  | .all, .all => true
  | _, _ => false

/-- A list names all that another names. -/
def Key.sub (a l : List Key) : Bool := a.all fun k => l.any fun j => j.cov k

/-- The parts in the order of their numbers. -/
def parts : List Part := [.win, .free, .edges, .inbox, .chn, .seqs, .bstore, .wd, .media, .mcache, .sysrec, .pa, .jq,
  .jact, .jobNo, .opt, .fmt, .cmds, .cmdNo, .cqs, .ctrls, .visit, .nss, .zones, .bands, .vol, .dur, .wseq, .points,
  .mops, .opid, .journal, .jseq, .demands, .test, .testLog, .tstore, .rung6, .amps, .sams, .loops, .tstk, .tshd,
  .tshr, .tscrub, .cstore, .tmchk, .cog, .spn, .sup, .flash, .blks, .fops, .fwait, .fread, .fwPend, .fwErased, .popen,
  .pbuf, .ring, .ringBad, .errlog, .rsets, .reqs, .reqNo, .rspNo, .nonces, .held, .miOut, .pkt, .hbm, .poison, .lost,
  .kvLog, .kvDur, .progs, .progRuns, .group, .members, .cands, .authFail, .proposal, .stripes, .stripeNo, .addrs,
  .partner, .peerAdopt, .loads, .fwImg, .tsave, .tregs, .tenc, .senseOffs, .ages, .dues, .verifs, .fitFrom, .slopes,
  .asked, .certs, .works, .altered, .weakSlots, .shadow, .miso, .pending]

theorem Part.num_inj {x y : Part} (h : x.num = y.num) : x = y := by
  have key : ∀ z : Part, (fun n => (parts.getD n .win)) z.num = z := by intro z; cases z <;> rfl
  rw [← key x, ← key y, h]

theorem Key.cov_has {x y : Key} (h : x.cov y = true) {k : Fld} (hk : y.has k) : x.has k := by
  cases x <;> cases y <;> simp only [Key.cov, Bool.and_eq_true, Bool.false_eq_true, Nat.beq_eq] at h <;>
    simp only [Key.has] at hk ⊢
  · exact ⟨hk.1.trans h.1.symm, hk.2.trans h.2.symm⟩
  · obtain ⟨⟨rfl, rfl⟩, rfl⟩ := h
    exact hk
  · exact hk.1.trans h.symm
  · exact hk.1.trans h.symm
  · exact hk.trans h.symm

theorem Key.cov_part {x : Key} {p : Part} (h : x.cov (.p p) = true) : x = .p p := by
  cases x <;> simp only [Key.cov, Bool.false_eq_true] at h
  rw [Part.num_inj (Nat.eq_of_beq_eq_true h)]

theorem Key.cov_trans {x y z : Key} (h : x.cov y = true) (g : y.cov z = true) : x.cov z = true := by
  cases x <;> cases y <;> simp only [Key.cov, Bool.false_eq_true] at h <;> cases z <;>
    simp only [Key.cov, Bool.false_eq_true] at g ⊢ <;>
    simp_all [Nat.beq_eq]

theorem Key.cov_rfl (x : Key) : x.cov x = true := by
  cases x <;> simp [Key.cov]

theorem Key.sub_iff {a l : List Key} : Key.sub a l = true ↔ ∀ k ∈ a, ∃ j ∈ l, j.cov k = true := by
  simp [Key.sub, List.all_eq_true, List.any_eq_true]

theorem Key.sub_of {a l : List Key} (h : ∀ k ∈ a, k ∈ l) : Key.sub a l = true :=
  Key.sub_iff.mpr fun k hk => ⟨k, h k hk, Key.cov_rfl k⟩

theorem Key.sub_refl (l : List Key) : Key.sub l l = true := Key.sub_of fun _ h => h

theorem Key.sub_one {k : Key} {a l : List Key} (h : Key.sub a l = true) (hk : k ∈ a) : Key.sub [k] l = true :=
  Key.sub_iff.mpr fun _ hj => List.mem_singleton.mp hj ▸ Key.sub_iff.mp h k hk

theorem Part.same_rfl (p : Part) (s : State) : p.same s s := by cases p <;> rfl

theorem Part.same_trans (p : Part) {s t u : State} (h : p.same s t) (g : p.same t u) : p.same s u := by
  cases p <;> exact Eq.trans g h

theorem Out.refl {l : List Key} (s : State) : Out l s s := ⟨fun _ _ => rfl, fun p _ => p.same_rfl s⟩

/-- An operation on keys of `m` after one on keys of `l`, where `l` names those of `m`. -/
theorem Out.chain {l m : List Key} {s t u : State} (h : Out l s t) (g : Out m t u) (hm : Key.sub m l = true) :
    Out l s u := 
  ⟨fun k hk => (g.get k fun n hn hh =>
    have ⟨j, hj, hc⟩ := Key.sub_iff.mp hm n hn
    hk j hj (Key.cov_has hc hh)).trans (h.get k hk),
  fun p hp => p.same_trans (h.part p hp) (g.part p fun hn =>
    have ⟨_, hj, hc⟩ := Key.sub_iff.mp hm _ hn
    hp (Key.cov_part hc ▸ hj))⟩

/-- Keys named by a list are named by any list that names all of its. -/
theorem Out.sub {a b l : List Key} (h : Key.sub a l = true) (g : Key.sub b a = true) : Key.sub b l = true :=
  Key.sub_iff.mpr fun k hk =>
    have ⟨j, hj, hc⟩ := Key.sub_iff.mp g k hk
    have ⟨i, hi, hd⟩ := Key.sub_iff.mp h j hj
    ⟨i, hi, Key.cov_trans hd hc⟩

/-- What one list of keys allows, a list that names all of them allows. -/
theorem Out.weaken {l m : List Key} {s t : State} (h : Out m s t) (hm : Key.sub m l = true) : Out l s t :=
  (Out.refl s).chain h hm

/-- A change of the register fields alone. -/
theorem Out.of_flds {l : List Key} {s : State} (f : List (Fld × Nat))
    (h : ∀ k : Fld, (∀ n ∈ l, ¬n.has k) →
      Tab.get Fld.rst f k = Tab.get Fld.rst s.flds k) : Out l s { s with flds := f } :=
  ⟨h, fun p _ => by cases p <;> rfl⟩

theorem Out.ite {l : List Key} {s t u : State} {p : Prop} [Decidable p] (h : Out l s t) (g : Out l s u) :
    Out l s (if p then t else u) := by
  split
  · exact h
  · exact g

/-! ## One part of the state set -/

section
variable {l : List Key} {s u : State}

theorem Out.setWin (x : List (Nat × Byte)) (h : Out l s u) (hl : Key.sub [.p .win] l = true) :
    Out l s { u with win := x } :=
  h.chain (m := [.p .win]) ⟨fun _ _ => rfl, fun p hp => by
    cases p <;> first | rfl | (exact absurd (List.mem_singleton.mpr rfl) hp)⟩ hl

theorem Out.setFree (x : Nat) (h : Out l s u) (hl : Key.sub [.p .free] l = true) :
    Out l s { u with free := x } :=
  h.chain (m := [.p .free]) ⟨fun _ _ => rfl, fun p hp => by
    cases p <;> first | rfl | (exact absurd (List.mem_singleton.mpr rfl) hp)⟩ hl

theorem Out.setEdges (x : List Nat) (h : Out l s u) (hl : Key.sub [.p .edges] l = true) :
    Out l s { u with edges := x } :=
  h.chain (m := [.p .edges]) ⟨fun _ _ => rfl, fun p hp => by
    cases p <;> first | rfl | (exact absurd (List.mem_singleton.mpr rfl) hp)⟩ hl

theorem Out.setInbox (x : List Desc) (h : Out l s u) (hl : Key.sub [.p .inbox] l = true) :
    Out l s { u with inbox := x } :=
  h.chain (m := [.p .inbox]) ⟨fun _ _ => rfl, fun p hp => by
    cases p <;> first | rfl | (exact absurd (List.mem_singleton.mpr rfl) hp)⟩ hl

theorem Out.setChn (x : List (Nat × ReadOp)) (h : Out l s u) (hl : Key.sub [.p .chn] l = true) :
    Out l s { u with chn := x } :=
  h.chain (m := [.p .chn]) ⟨fun _ _ => rfl, fun p hp => by
    cases p <;> first | rfl | (exact absurd (List.mem_singleton.mpr rfl) hp)⟩ hl

theorem Out.setSeqs (x : List (Nat × SeqRun)) (h : Out l s u) (hl : Key.sub [.p .seqs] l = true) :
    Out l s { u with seqs := x } :=
  h.chain (m := [.p .seqs]) ⟨fun _ _ => rfl, fun p hp => by
    cases p <;> first | rfl | (exact absurd (List.mem_singleton.mpr rfl) hp)⟩ hl

theorem Out.setBstore (x : List (Nat × List BarkerWord)) (h : Out l s u) (hl : Key.sub [.p .bstore] l = true) :
    Out l s { u with bstore := x } :=
  h.chain (m := [.p .bstore]) ⟨fun _ _ => rfl, fun p hp => by
    cases p <;> first | rfl | (exact absurd (List.mem_singleton.mpr rfl) hp)⟩ hl

theorem Out.setWd (x : List (Nat × List Int)) (h : Out l s u) (hl : Key.sub [.p .wd] l = true) :
    Out l s { u with wd := x } :=
  h.chain (m := [.p .wd]) ⟨fun _ _ => rfl, fun p hp => by
    cases p <;> first | rfl | (exact absurd (List.mem_singleton.mpr rfl) hp)⟩ hl

theorem Out.setMedia (x : List (Nat × Option MTrack)) (h : Out l s u) (hl : Key.sub [.p .media] l = true) :
    Out l s { u with media := x } :=
  h.chain (m := [.p .media]) ⟨fun _ _ => rfl, fun p hp => by
    cases p <;> first | rfl | (exact absurd (List.mem_singleton.mpr rfl) hp)⟩ hl

theorem Out.setMcache (x : List (Nat × List CTrack)) (h : Out l s u) (hl : Key.sub [.p .mcache] l = true) :
    Out l s { u with mcache := x } :=
  h.chain (m := [.p .mcache]) ⟨fun _ _ => rfl, fun p hp => by
    cases p <;> first | rfl | (exact absurd (List.mem_singleton.mpr rfl) hp)⟩ hl

theorem Out.setSysrec (x : List (Nat × Option DurRec)) (h : Out l s u) (hl : Key.sub [.p .sysrec] l = true) :
    Out l s { u with sysrec := x } :=
  h.chain (m := [.p .sysrec]) ⟨fun _ _ => rfl, fun p hp => by
    cases p <;> first | rfl | (exact absurd (List.mem_singleton.mpr rfl) hp)⟩ hl

theorem Out.setCstore (x : List TrzWord) (h : Out l s u) (hl : Key.sub [.p .cstore] l = true) :
    Out l s { u with cstore := x } :=
  h.chain (m := [.p .cstore]) ⟨fun _ _ => rfl, fun p hp => by
    cases p <;> first | rfl | (exact absurd (List.mem_singleton.mpr rfl) hp)⟩ hl

theorem Out.setAltered (x : List (Nat × Nat)) (h : Out l s u) (hl : Key.sub [.p .altered] l = true) :
    Out l s { u with altered := x } :=
  h.chain (m := [.p .altered]) ⟨fun _ _ => rfl, fun p hp => by
    cases p <;> first | rfl | (exact absurd (List.mem_singleton.mpr rfl) hp)⟩ hl

theorem Out.setWeakSlots (x : List Nat) (h : Out l s u) (hl : Key.sub [.p .weakSlots] l = true) :
    Out l s { u with weakSlots := x } :=
  h.chain (m := [.p .weakSlots]) ⟨fun _ _ => rfl, fun p hp => by
    cases p <;> first | rfl | (exact absurd (List.mem_singleton.mpr rfl) hp)⟩ hl

theorem Out.setSams (x : List (Nat × List Nat)) (h : Out l s u) (hl : Key.sub [.p .sams] l = true) :
    Out l s { u with sams := x } :=
  h.chain (m := [.p .sams]) ⟨fun _ _ => rfl, fun p hp => by
    cases p <;> first | rfl | (exact absurd (List.mem_singleton.mpr rfl) hp)⟩ hl

theorem Out.setTscrub (x : List Nat) (h : Out l s u) (hl : Key.sub [.p .tscrub] l = true) :
    Out l s { u with tscrub := x } :=
  h.chain (m := [.p .tscrub]) ⟨fun _ _ => rfl, fun p hp => by
    cases p <;> first | rfl | (exact absurd (List.mem_singleton.mpr rfl) hp)⟩ hl

theorem Out.setFwImg (x : List (Nat × Byte)) (h : Out l s u) (hl : Key.sub [.p .fwImg] l = true) :
    Out l s { u with fwImg := x } :=
  h.chain (m := [.p .fwImg]) ⟨fun _ _ => rfl, fun p hp => by
    cases p <;> first | rfl | (exact absurd (List.mem_singleton.mpr rfl) hp)⟩ hl

theorem Out.setFwErased (x : List Nat) (h : Out l s u) (hl : Key.sub [.p .fwErased] l = true) :
    Out l s { u with fwErased := x } :=
  h.chain (m := [.p .fwErased]) ⟨fun _ _ => rfl, fun p hp => by
    cases p <;> first | rfl | (exact absurd (List.mem_singleton.mpr rfl) hp)⟩ hl

theorem Out.setPa (x : List (Nat × Nat)) (h : Out l s u) (hl : Key.sub [.p .pa] l = true) :
    Out l s { u with pa := x } :=
  h.chain (m := [.p .pa]) ⟨fun _ _ => rfl, fun p hp => by
    cases p <;> first | rfl | (exact absurd (List.mem_singleton.mpr rfl) hp)⟩ hl

theorem Out.setJq (x : List (Nat × List Job)) (h : Out l s u) (hl : Key.sub [.p .jq] l = true) :
    Out l s { u with jq := x } :=
  h.chain (m := [.p .jq]) ⟨fun _ _ => rfl, fun p hp => by
    cases p <;> first | rfl | (exact absurd (List.mem_singleton.mpr rfl) hp)⟩ hl

theorem Out.setJact (x : List (Nat × Option Job)) (h : Out l s u) (hl : Key.sub [.p .jact] l = true) :
    Out l s { u with jact := x } :=
  h.chain (m := [.p .jact]) ⟨fun _ _ => rfl, fun p hp => by
    cases p <;> first | rfl | (exact absurd (List.mem_singleton.mpr rfl) hp)⟩ hl

theorem Out.setJobNo (x : Nat) (h : Out l s u) (hl : Key.sub [.p .jobNo] l = true) :
    Out l s { u with jobNo := x } :=
  h.chain (m := [.p .jobNo]) ⟨fun _ _ => rfl, fun p hp => by
    cases p <;> first | rfl | (exact absurd (List.mem_singleton.mpr rfl) hp)⟩ hl

theorem Out.setOpt (x : List (Nat × Byte)) (h : Out l s u) (hl : Key.sub [.p .opt] l = true) :
    Out l s { u with opt := x } :=
  h.chain (m := [.p .opt]) ⟨fun _ _ => rfl, fun p hp => by
    cases p <;> first | rfl | (exact absurd (List.mem_singleton.mpr rfl) hp)⟩ hl

theorem Out.setFmt (x : List (Nat × Byte)) (h : Out l s u) (hl : Key.sub [.p .fmt] l = true) :
    Out l s { u with fmt := x } :=
  h.chain (m := [.p .fmt]) ⟨fun _ _ => rfl, fun p hp => by
    cases p <;> first | rfl | (exact absurd (List.mem_singleton.mpr rfl) hp)⟩ hl

theorem Out.setCmds (x : List Cmd) (h : Out l s u) (hl : Key.sub [.p .cmds] l = true) :
    Out l s { u with cmds := x } :=
  h.chain (m := [.p .cmds]) ⟨fun _ _ => rfl, fun p hp => by
    cases p <;> first | rfl | (exact absurd (List.mem_singleton.mpr rfl) hp)⟩ hl

theorem Out.setCmdNo (x : Nat) (h : Out l s u) (hl : Key.sub [.p .cmdNo] l = true) :
    Out l s { u with cmdNo := x } :=
  h.chain (m := [.p .cmdNo]) ⟨fun _ _ => rfl, fun p hp => by
    cases p <;> first | rfl | (exact absurd (List.mem_singleton.mpr rfl) hp)⟩ hl

theorem Out.setCqs (x : List Cqe) (h : Out l s u) (hl : Key.sub [.p .cqs] l = true) :
    Out l s { u with cqs := x } :=
  h.chain (m := [.p .cqs]) ⟨fun _ _ => rfl, fun p hp => by
    cases p <;> first | rfl | (exact absurd (List.mem_singleton.mpr rfl) hp)⟩ hl

theorem Out.setCtrls (x : List (Nat × Option Ctrl)) (h : Out l s u) (hl : Key.sub [.p .ctrls] l = true) :
    Out l s { u with ctrls := x } :=
  h.chain (m := [.p .ctrls]) ⟨fun _ _ => rfl, fun p hp => by
    cases p <;> first | rfl | (exact absurd (List.mem_singleton.mpr rfl) hp)⟩ hl

theorem Out.setVisit (x : List (Nat × Nat)) (h : Out l s u) (hl : Key.sub [.p .visit] l = true) :
    Out l s { u with visit := x } :=
  h.chain (m := [.p .visit]) ⟨fun _ _ => rfl, fun p hp => by
    cases p <;> first | rfl | (exact absurd (List.mem_singleton.mpr rfl) hp)⟩ hl

theorem Out.setNss (x : List (Nat × Option Ns)) (h : Out l s u) (hl : Key.sub [.p .nss] l = true) :
    Out l s { u with nss := x } :=
  h.chain (m := [.p .nss]) ⟨fun _ _ => rfl, fun p hp => by
    cases p <;> first | rfl | (exact absurd (List.mem_singleton.mpr rfl) hp)⟩ hl

theorem Out.setZones (x : List (Nat × Option Zone)) (h : Out l s u) (hl : Key.sub [.p .zones] l = true) :
    Out l s { u with zones := x } :=
  h.chain (m := [.p .zones]) ⟨fun _ _ => rfl, fun p hp => by
    cases p <;> first | rfl | (exact absurd (List.mem_singleton.mpr rfl) hp)⟩ hl

theorem Out.setBands (x : List (Nat × Option Band)) (h : Out l s u) (hl : Key.sub [.p .bands] l = true) :
    Out l s { u with bands := x } :=
  h.chain (m := [.p .bands]) ⟨fun _ _ => rfl, fun p hp => by
    cases p <;> first | rfl | (exact absurd (List.mem_singleton.mpr rfl) hp)⟩ hl

theorem Out.setVol (x : List (Nat × Option Vol)) (h : Out l s u) (hl : Key.sub [.p .vol] l = true) :
    Out l s { u with vol := x } :=
  h.chain (m := [.p .vol]) ⟨fun _ _ => rfl, fun p hp => by
    cases p <;> first | rfl | (exact absurd (List.mem_singleton.mpr rfl) hp)⟩ hl

theorem Out.setDur (x : List (Nat × Block)) (h : Out l s u) (hl : Key.sub [.p .dur] l = true) :
    Out l s { u with dur := x } :=
  h.chain (m := [.p .dur]) ⟨fun _ _ => rfl, fun p hp => by
    cases p <;> first | rfl | (exact absurd (List.mem_singleton.mpr rfl) hp)⟩ hl

theorem Out.setWseq (x : Nat) (h : Out l s u) (hl : Key.sub [.p .wseq] l = true) :
    Out l s { u with wseq := x } :=
  h.chain (m := [.p .wseq]) ⟨fun _ _ => rfl, fun p hp => by
    cases p <;> first | rfl | (exact absurd (List.mem_singleton.mpr rfl) hp)⟩ hl

theorem Out.setPoints (x : List (Nat × List Nat)) (h : Out l s u) (hl : Key.sub [.p .points] l = true) :
    Out l s { u with points := x } :=
  h.chain (m := [.p .points]) ⟨fun _ _ => rfl, fun p hp => by
    cases p <;> first | rfl | (exact absurd (List.mem_singleton.mpr rfl) hp)⟩ hl

theorem Out.setMops (x : List MOp) (h : Out l s u) (hl : Key.sub [.p .mops] l = true) :
    Out l s { u with mops := x } :=
  h.chain (m := [.p .mops]) ⟨fun _ _ => rfl, fun p hp => by
    cases p <;> first | rfl | (exact absurd (List.mem_singleton.mpr rfl) hp)⟩ hl

theorem Out.setOpid (x : Nat) (h : Out l s u) (hl : Key.sub [.p .opid] l = true) :
    Out l s { u with opid := x } :=
  h.chain (m := [.p .opid]) ⟨fun _ _ => rfl, fun p hp => by
    cases p <;> first | rfl | (exact absurd (List.mem_singleton.mpr rfl) hp)⟩ hl

theorem Out.setJournal (x : List JRec) (h : Out l s u) (hl : Key.sub [.p .journal] l = true) :
    Out l s { u with journal := x } :=
  h.chain (m := [.p .journal]) ⟨fun _ _ => rfl, fun p hp => by
    cases p <;> first | rfl | (exact absurd (List.mem_singleton.mpr rfl) hp)⟩ hl

theorem Out.setJseq (x : Nat) (h : Out l s u) (hl : Key.sub [.p .jseq] l = true) :
    Out l s { u with jseq := x } :=
  h.chain (m := [.p .jseq]) ⟨fun _ _ => rfl, fun p hp => by
    cases p <;> first | rfl | (exact absurd (List.mem_singleton.mpr rfl) hp)⟩ hl

theorem Out.setDemands (x : List Demand) (h : Out l s u) (hl : Key.sub [.p .demands] l = true) :
    Out l s { u with demands := x } :=
  h.chain (m := [.p .demands]) ⟨fun _ _ => rfl, fun p hp => by
    cases p <;> first | rfl | (exact absurd (List.mem_singleton.mpr rfl) hp)⟩ hl

theorem Out.setTest (x : Option SelfTest) (h : Out l s u) (hl : Key.sub [.p .test] l = true) :
    Out l s { u with test := x } :=
  h.chain (m := [.p .test]) ⟨fun _ _ => rfl, fun p hp => by
    cases p <;> first | rfl | (exact absurd (List.mem_singleton.mpr rfl) hp)⟩ hl

theorem Out.setTestLog (x : List (List Nat)) (h : Out l s u) (hl : Key.sub [.p .testLog] l = true) :
    Out l s { u with testLog := x } :=
  h.chain (m := [.p .testLog]) ⟨fun _ _ => rfl, fun p hp => by
    cases p <;> first | rfl | (exact absurd (List.mem_singleton.mpr rfl) hp)⟩ hl

theorem Out.setTstore (x : List (Nat × Byte)) (h : Out l s u) (hl : Key.sub [.p .tstore] l = true) :
    Out l s { u with tstore := x } :=
  h.chain (m := [.p .tstore]) ⟨fun _ _ => rfl, fun p hp => by
    cases p <;> first | rfl | (exact absurd (List.mem_singleton.mpr rfl) hp)⟩ hl

theorem Out.setRung6 (x : List Job) (h : Out l s u) (hl : Key.sub [.p .rung6] l = true) :
    Out l s { u with rung6 := x } :=
  h.chain (m := [.p .rung6]) ⟨fun _ _ => rfl, fun p hp => by
    cases p <;> first | rfl | (exact absurd (List.mem_singleton.mpr rfl) hp)⟩ hl

theorem Out.setAmps (x : List (Nat × List Nat)) (h : Out l s u) (hl : Key.sub [.p .amps] l = true) :
    Out l s { u with amps := x } :=
  h.chain (m := [.p .amps]) ⟨fun _ _ => rfl, fun p hp => by
    cases p <;> first | rfl | (exact absurd (List.mem_singleton.mpr rfl) hp)⟩ hl

theorem Out.setLoops (x : List (Nat × Loop)) (h : Out l s u) (hl : Key.sub [.p .loops] l = true) :
    Out l s { u with loops := x } :=
  h.chain (m := [.p .loops]) ⟨fun _ _ => rfl, fun p hp => by
    cases p <;> first | rfl | (exact absurd (List.mem_singleton.mpr rfl) hp)⟩ hl

theorem Out.setTstk (x : List Nat) (h : Out l s u) (hl : Key.sub [.p .tstk] l = true) :
    Out l s { u with tstk := x } :=
  h.chain (m := [.p .tstk]) ⟨fun _ _ => rfl, fun p hp => by
    cases p <;> first | rfl | (exact absurd (List.mem_singleton.mpr rfl) hp)⟩ hl

theorem Out.setTshd (x : List (Nat × Int)) (h : Out l s u) (hl : Key.sub [.p .tshd] l = true) :
    Out l s { u with tshd := x } :=
  h.chain (m := [.p .tshd]) ⟨fun _ _ => rfl, fun p hp => by
    cases p <;> first | rfl | (exact absurd (List.mem_singleton.mpr rfl) hp)⟩ hl

theorem Out.setTshr (x : List (Nat × Int)) (h : Out l s u) (hl : Key.sub [.p .tshr] l = true) :
    Out l s { u with tshr := x } :=
  h.chain (m := [.p .tshr]) ⟨fun _ _ => rfl, fun p hp => by
    cases p <;> first | rfl | (exact absurd (List.mem_singleton.mpr rfl) hp)⟩ hl

theorem Out.setTmchk (x : List (Nat × Nat)) (h : Out l s u) (hl : Key.sub [.p .tmchk] l = true) :
    Out l s { u with tmchk := x } :=
  h.chain (m := [.p .tmchk]) ⟨fun _ _ => rfl, fun p hp => by
    cases p <;> first | rfl | (exact absurd (List.mem_singleton.mpr rfl) hp)⟩ hl

theorem Out.setCog (x : List (Nat × (Int × Nat))) (h : Out l s u) (hl : Key.sub [.p .cog] l = true) :
    Out l s { u with cog := x } :=
  h.chain (m := [.p .cog]) ⟨fun _ _ => rfl, fun p hp => by
    cases p <;> first | rfl | (exact absurd (List.mem_singleton.mpr rfl) hp)⟩ hl

theorem Out.setSpn (x : List (Nat × Byte)) (h : Out l s u) (hl : Key.sub [.p .spn] l = true) :
    Out l s { u with spn := x } :=
  h.chain (m := [.p .spn]) ⟨fun _ _ => rfl, fun p hp => by
    cases p <;> first | rfl | (exact absurd (List.mem_singleton.mpr rfl) hp)⟩ hl

theorem Out.setSup (x : List (Nat × Byte)) (h : Out l s u) (hl : Key.sub [.p .sup] l = true) :
    Out l s { u with sup := x } :=
  h.chain (m := [.p .sup]) ⟨fun _ _ => rfl, fun p hp => by
    cases p <;> first | rfl | (exact absurd (List.mem_singleton.mpr rfl) hp)⟩ hl

theorem Out.setFlash (x : List (Nat × Byte)) (h : Out l s u) (hl : Key.sub [.p .flash] l = true) :
    Out l s { u with flash := x } :=
  h.chain (m := [.p .flash]) ⟨fun _ _ => rfl, fun p hp => by
    cases p <;> first | rfl | (exact absurd (List.mem_singleton.mpr rfl) hp)⟩ hl

theorem Out.setBlks (x : List (Nat × BlkRec)) (h : Out l s u) (hl : Key.sub [.p .blks] l = true) :
    Out l s { u with blks := x } :=
  h.chain (m := [.p .blks]) ⟨fun _ _ => rfl, fun p hp => by
    cases p <;> first | rfl | (exact absurd (List.mem_singleton.mpr rfl) hp)⟩ hl

theorem Out.setFops (x : List (Nat × List FlashOp)) (h : Out l s u) (hl : Key.sub [.p .fops] l = true) :
    Out l s { u with fops := x } :=
  h.chain (m := [.p .fops]) ⟨fun _ _ => rfl, fun p hp => by
    cases p <;> first | rfl | (exact absurd (List.mem_singleton.mpr rfl) hp)⟩ hl

theorem Out.setFwait (x : List (Nat × List FlashReq)) (h : Out l s u) (hl : Key.sub [.p .fwait] l = true) :
    Out l s { u with fwait := x } :=
  h.chain (m := [.p .fwait]) ⟨fun _ _ => rfl, fun p hp => by
    cases p <;> first | rfl | (exact absurd (List.mem_singleton.mpr rfl) hp)⟩ hl

theorem Out.setFread (x : List Byte) (h : Out l s u) (hl : Key.sub [.p .fread] l = true) :
    Out l s { u with fread := x } :=
  h.chain (m := [.p .fread]) ⟨fun _ _ => rfl, fun p hp => by
    cases p <;> first | rfl | (exact absurd (List.mem_singleton.mpr rfl) hp)⟩ hl

theorem Out.setFwPend (x : List Nat) (h : Out l s u) (hl : Key.sub [.p .fwPend] l = true) :
    Out l s { u with fwPend := x } :=
  h.chain (m := [.p .fwPend]) ⟨fun _ _ => rfl, fun p hp => by
    cases p <;> first | rfl | (exact absurd (List.mem_singleton.mpr rfl) hp)⟩ hl

theorem Out.setPopen (x : Option Rec) (h : Out l s u) (hl : Key.sub [.p .popen] l = true) :
    Out l s { u with popen := x } :=
  h.chain (m := [.p .popen]) ⟨fun _ _ => rfl, fun p hp => by
    cases p <;> first | rfl | (exact absurd (List.mem_singleton.mpr rfl) hp)⟩ hl

theorem Out.setPbuf (x : List Rec) (h : Out l s u) (hl : Key.sub [.p .pbuf] l = true) :
    Out l s { u with pbuf := x } :=
  h.chain (m := [.p .pbuf]) ⟨fun _ _ => rfl, fun p hp => by
    cases p <;> first | rfl | (exact absurd (List.mem_singleton.mpr rfl) hp)⟩ hl

theorem Out.setRing (x : List (Nat × Option Rec)) (h : Out l s u) (hl : Key.sub [.p .ring] l = true) :
    Out l s { u with ring := x } :=
  h.chain (m := [.p .ring]) ⟨fun _ _ => rfl, fun p hp => by
    cases p <;> first | rfl | (exact absurd (List.mem_singleton.mpr rfl) hp)⟩ hl

theorem Out.setRingBad (x : List (Nat × Nat)) (h : Out l s u) (hl : Key.sub [.p .ringBad] l = true) :
    Out l s { u with ringBad := x } :=
  h.chain (m := [.p .ringBad]) ⟨fun _ _ => rfl, fun p hp => by
    cases p <;> first | rfl | (exact absurd (List.mem_singleton.mpr rfl) hp)⟩ hl

theorem Out.setErrlog (x : List Cqe) (h : Out l s u) (hl : Key.sub [.p .errlog] l = true) :
    Out l s { u with errlog := x } :=
  h.chain (m := [.p .errlog]) ⟨fun _ _ => rfl, fun p hp => by
    cases p <;> first | rfl | (exact absurd (List.mem_singleton.mpr rfl) hp)⟩ hl

theorem Out.setRsets (x : List (Nat × List (Nat × Nat))) (h : Out l s u) (hl : Key.sub [.p .rsets] l = true) :
    Out l s { u with rsets := x } :=
  h.chain (m := [.p .rsets]) ⟨fun _ _ => rfl, fun p hp => by
    cases p <;> first | rfl | (exact absurd (List.mem_singleton.mpr rfl) hp)⟩ hl

theorem Out.setReqs (x : List Req) (h : Out l s u) (hl : Key.sub [.p .reqs] l = true) :
    Out l s { u with reqs := x } :=
  h.chain (m := [.p .reqs]) ⟨fun _ _ => rfl, fun p hp => by
    cases p <;> first | rfl | (exact absurd (List.mem_singleton.mpr rfl) hp)⟩ hl

theorem Out.setReqNo (x : Nat) (h : Out l s u) (hl : Key.sub [.p .reqNo] l = true) :
    Out l s { u with reqNo := x } :=
  h.chain (m := [.p .reqNo]) ⟨fun _ _ => rfl, fun p hp => by
    cases p <;> first | rfl | (exact absurd (List.mem_singleton.mpr rfl) hp)⟩ hl

theorem Out.setRspNo (x : Nat) (h : Out l s u) (hl : Key.sub [.p .rspNo] l = true) :
    Out l s { u with rspNo := x } :=
  h.chain (m := [.p .rspNo]) ⟨fun _ _ => rfl, fun p hp => by
    cases p <;> first | rfl | (exact absurd (List.mem_singleton.mpr rfl) hp)⟩ hl

theorem Out.setNonces (x : List Nonce) (h : Out l s u) (hl : Key.sub [.p .nonces] l = true) :
    Out l s { u with nonces := x } :=
  h.chain (m := [.p .nonces]) ⟨fun _ _ => rfl, fun p hp => by
    cases p <;> first | rfl | (exact absurd (List.mem_singleton.mpr rfl) hp)⟩ hl

theorem Out.setHeld (x : List (Nat × (CmdId × Nat))) (h : Out l s u) (hl : Key.sub [.p .held] l = true) :
    Out l s { u with held := x } :=
  h.chain (m := [.p .held]) ⟨fun _ _ => rfl, fun p hp => by
    cases p <;> first | rfl | (exact absurd (List.mem_singleton.mpr rfl) hp)⟩ hl

theorem Out.setMiOut (x : List (Nat × List Byte)) (h : Out l s u) (hl : Key.sub [.p .miOut] l = true) :
    Out l s { u with miOut := x } :=
  h.chain (m := [.p .miOut]) ⟨fun _ _ => rfl, fun p hp => by
    cases p <;> first | rfl | (exact absurd (List.mem_singleton.mpr rfl) hp)⟩ hl

theorem Out.setPkt (x : List (Nat × Option Line)) (h : Out l s u) (hl : Key.sub [.p .pkt] l = true) :
    Out l s { u with pkt := x } :=
  h.chain (m := [.p .pkt]) ⟨fun _ _ => rfl, fun p hp => by
    cases p <;> first | rfl | (exact absurd (List.mem_singleton.mpr rfl) hp)⟩ hl

theorem Out.setHbm (x : List (Nat × Byte)) (h : Out l s u) (hl : Key.sub [.p .hbm] l = true) :
    Out l s { u with hbm := x } :=
  h.chain (m := [.p .hbm]) ⟨fun _ _ => rfl, fun p hp => by
    cases p <;> first | rfl | (exact absurd (List.mem_singleton.mpr rfl) hp)⟩ hl

theorem Out.setPoison (x : List Nat) (h : Out l s u) (hl : Key.sub [.p .poison] l = true) :
    Out l s { u with poison := x } :=
  h.chain (m := [.p .poison]) ⟨fun _ _ => rfl, fun p hp => by
    cases p <;> first | rfl | (exact absurd (List.mem_singleton.mpr rfl) hp)⟩ hl

theorem Out.setLost (x : List Nat) (h : Out l s u) (hl : Key.sub [.p .lost] l = true) :
    Out l s { u with lost := x } :=
  h.chain (m := [.p .lost]) ⟨fun _ _ => rfl, fun p hp => by
    cases p <;> first | rfl | (exact absurd (List.mem_singleton.mpr rfl) hp)⟩ hl

theorem Out.setKvLog (x : List KvOp) (h : Out l s u) (hl : Key.sub [.p .kvLog] l = true) :
    Out l s { u with kvLog := x } :=
  h.chain (m := [.p .kvLog]) ⟨fun _ _ => rfl, fun p hp => by
    cases p <;> first | rfl | (exact absurd (List.mem_singleton.mpr rfl) hp)⟩ hl

theorem Out.setKvDur (x : List (Nat × Option KvEnt)) (h : Out l s u) (hl : Key.sub [.p .kvDur] l = true) :
    Out l s { u with kvDur := x } :=
  h.chain (m := [.p .kvDur]) ⟨fun _ _ => rfl, fun p hp => by
    cases p <;> first | rfl | (exact absurd (List.mem_singleton.mpr rfl) hp)⟩ hl

theorem Out.setProgs (x : List (Nat × Option Prog)) (h : Out l s u) (hl : Key.sub [.p .progs] l = true) :
    Out l s { u with progs := x } :=
  h.chain (m := [.p .progs]) ⟨fun _ _ => rfl, fun p hp => by
    cases p <;> first | rfl | (exact absurd (List.mem_singleton.mpr rfl) hp)⟩ hl

theorem Out.setProgRuns (x : List (Nat × Option Run)) (h : Out l s u) (hl : Key.sub [.p .progRuns] l = true) :
    Out l s { u with progRuns := x } :=
  h.chain (m := [.p .progRuns]) ⟨fun _ _ => rfl, fun p hp => by
    cases p <;> first | rfl | (exact absurd (List.mem_singleton.mpr rfl) hp)⟩ hl

theorem Out.setGroup (x : List (Nat × Byte)) (h : Out l s u) (hl : Key.sub [.p .group] l = true) :
    Out l s { u with group := x } :=
  h.chain (m := [.p .group]) ⟨fun _ _ => rfl, fun p hp => by
    cases p <;> first | rfl | (exact absurd (List.mem_singleton.mpr rfl) hp)⟩ hl

theorem Out.setMembers (x : List Peer) (h : Out l s u) (hl : Key.sub [.p .members] l = true) :
    Out l s { u with members := x } :=
  h.chain (m := [.p .members]) ⟨fun _ _ => rfl, fun p hp => by
    cases p <;> first | rfl | (exact absurd (List.mem_singleton.mpr rfl) hp)⟩ hl

theorem Out.setCands (x : List Peer) (h : Out l s u) (hl : Key.sub [.p .cands] l = true) :
    Out l s { u with cands := x } :=
  h.chain (m := [.p .cands]) ⟨fun _ _ => rfl, fun p hp => by
    cases p <;> first | rfl | (exact absurd (List.mem_singleton.mpr rfl) hp)⟩ hl

theorem Out.setAuthFail (x : List (List Byte)) (h : Out l s u) (hl : Key.sub [.p .authFail] l = true) :
    Out l s { u with authFail := x } :=
  h.chain (m := [.p .authFail]) ⟨fun _ _ => rfl, fun p hp => by
    cases p <;> first | rfl | (exact absurd (List.mem_singleton.mpr rfl) hp)⟩ hl

theorem Out.setProposal (x : Option Proposal) (h : Out l s u) (hl : Key.sub [.p .proposal] l = true) :
    Out l s { u with proposal := x } :=
  h.chain (m := [.p .proposal]) ⟨fun _ _ => rfl, fun p hp => by
    cases p <;> first | rfl | (exact absurd (List.mem_singleton.mpr rfl) hp)⟩ hl

theorem Out.setStripes (x : List Stripe) (h : Out l s u) (hl : Key.sub [.p .stripes] l = true) :
    Out l s { u with stripes := x } :=
  h.chain (m := [.p .stripes]) ⟨fun _ _ => rfl, fun p hp => by
    cases p <;> first | rfl | (exact absurd (List.mem_singleton.mpr rfl) hp)⟩ hl

theorem Out.setStripeNo (x : Nat) (h : Out l s u) (hl : Key.sub [.p .stripeNo] l = true) :
    Out l s { u with stripeNo := x } :=
  h.chain (m := [.p .stripeNo]) ⟨fun _ _ => rfl, fun p hp => by
    cases p <;> first | rfl | (exact absurd (List.mem_singleton.mpr rfl) hp)⟩ hl

theorem Out.setAddrs (x : List NetAddr) (h : Out l s u) (hl : Key.sub [.p .addrs] l = true) :
    Out l s { u with addrs := x } :=
  h.chain (m := [.p .addrs]) ⟨fun _ _ => rfl, fun p hp => by
    cases p <;> first | rfl | (exact absurd (List.mem_singleton.mpr rfl) hp)⟩ hl

theorem Out.setPartner (x : List (Nat × List Nat)) (h : Out l s u) (hl : Key.sub [.p .partner] l = true) :
    Out l s { u with partner := x } :=
  h.chain (m := [.p .partner]) ⟨fun _ _ => rfl, fun p hp => by
    cases p <;> first | rfl | (exact absurd (List.mem_singleton.mpr rfl) hp)⟩ hl

theorem Out.setPeerAdopt (x : List (List Byte)) (h : Out l s u) (hl : Key.sub [.p .peerAdopt] l = true) :
    Out l s { u with peerAdopt := x } :=
  h.chain (m := [.p .peerAdopt]) ⟨fun _ _ => rfl, fun p hp => by
    cases p <;> first | rfl | (exact absurd (List.mem_singleton.mpr rfl) hp)⟩ hl

theorem Out.setLoads (x : List (Nat × Nat)) (h : Out l s u) (hl : Key.sub [.p .loads] l = true) :
    Out l s { u with loads := x } :=
  h.chain (m := [.p .loads]) ⟨fun _ _ => rfl, fun p hp => by
    cases p <;> first | rfl | (exact absurd (List.mem_singleton.mpr rfl) hp)⟩ hl

theorem Out.setTsave (x : List (Nat × Byte)) (h : Out l s u) (hl : Key.sub [.p .tsave] l = true) :
    Out l s { u with tsave := x } :=
  h.chain (m := [.p .tsave]) ⟨fun _ _ => rfl, fun p hp => by
    cases p <;> first | rfl | (exact absurd (List.mem_singleton.mpr rfl) hp)⟩ hl

theorem Out.setTregs (x : List (Fld × Nat)) (h : Out l s u) (hl : Key.sub [.p .tregs] l = true) :
    Out l s { u with tregs := x } :=
  h.chain (m := [.p .tregs]) ⟨fun _ _ => rfl, fun p hp => by
    cases p <;> first | rfl | (exact absurd (List.mem_singleton.mpr rfl) hp)⟩ hl

theorem Out.setTenc (x : Option Nat) (h : Out l s u) (hl : Key.sub [.p .tenc] l = true) :
    Out l s { u with tenc := x } :=
  h.chain (m := [.p .tenc]) ⟨fun _ _ => rfl, fun p hp => by
    cases p <;> first | rfl | (exact absurd (List.mem_singleton.mpr rfl) hp)⟩ hl

theorem Out.setSenseOffs (x : List (Nat × Nat)) (h : Out l s u) (hl : Key.sub [.p .senseOffs] l = true) :
    Out l s { u with senseOffs := x } :=
  h.chain (m := [.p .senseOffs]) ⟨fun _ _ => rfl, fun p hp => by
    cases p <;> first | rfl | (exact absurd (List.mem_singleton.mpr rfl) hp)⟩ hl

theorem Out.setAges (x : List AgeRec) (h : Out l s u) (hl : Key.sub [.p .ages] l = true) :
    Out l s { u with ages := x } :=
  h.chain (m := [.p .ages]) ⟨fun _ _ => rfl, fun p hp => by
    cases p <;> first | rfl | (exact absurd (List.mem_singleton.mpr rfl) hp)⟩ hl

theorem Out.setDues (x : List (Nat × Nat)) (h : Out l s u) (hl : Key.sub [.p .dues] l = true) :
    Out l s { u with dues := x } :=
  h.chain (m := [.p .dues]) ⟨fun _ _ => rfl, fun p hp => by
    cases p <;> first | rfl | (exact absurd (List.mem_singleton.mpr rfl) hp)⟩ hl

theorem Out.setVerifs (x : List (Nat × Nat)) (h : Out l s u) (hl : Key.sub [.p .verifs] l = true) :
    Out l s { u with verifs := x } :=
  h.chain (m := [.p .verifs]) ⟨fun _ _ => rfl, fun p hp => by
    cases p <;> first | rfl | (exact absurd (List.mem_singleton.mpr rfl) hp)⟩ hl

theorem Out.setFitFrom (x : List (Nat × Nat)) (h : Out l s u) (hl : Key.sub [.p .fitFrom] l = true) :
    Out l s { u with fitFrom := x } :=
  h.chain (m := [.p .fitFrom]) ⟨fun _ _ => rfl, fun p hp => by
    cases p <;> first | rfl | (exact absurd (List.mem_singleton.mpr rfl) hp)⟩ hl

theorem Out.setSlopes (x : List (Nat × (Int × Int))) (h : Out l s u) (hl : Key.sub [.p .slopes] l = true) :
    Out l s { u with slopes := x } :=
  h.chain (m := [.p .slopes]) ⟨fun _ _ => rfl, fun p hp => by
    cases p <;> first | rfl | (exact absurd (List.mem_singleton.mpr rfl) hp)⟩ hl

theorem Out.setAsked (x : List (Nat × Nat)) (h : Out l s u) (hl : Key.sub [.p .asked] l = true) :
    Out l s { u with asked := x } :=
  h.chain (m := [.p .asked]) ⟨fun _ _ => rfl, fun p hp => by
    cases p <;> first | rfl | (exact absurd (List.mem_singleton.mpr rfl) hp)⟩ hl

theorem Out.setCerts (x : List (List Byte)) (h : Out l s u) (hl : Key.sub [.p .certs] l = true) :
    Out l s { u with certs := x } :=
  h.chain (m := [.p .certs]) ⟨fun _ _ => rfl, fun p hp => by
    cases p <;> first | rfl | (exact absurd (List.mem_singleton.mpr rfl) hp)⟩ hl

theorem Out.setWorks (x : List Work) (h : Out l s u) (hl : Key.sub [.p .works] l = true) :
    Out l s { u with works := x } :=
  h.chain (m := [.p .works]) ⟨fun _ _ => rfl, fun p hp => by
    cases p <;> first | rfl | (exact absurd (List.mem_singleton.mpr rfl) hp)⟩ hl

theorem Out.setShadow (x : List Shadow) (h : Out l s u) (hl : Key.sub [.p .shadow] l = true) :
    Out l s { u with shadow := x } :=
  h.chain (m := [.p .shadow]) ⟨fun _ _ => rfl, fun p hp => by
    cases p <;> first | rfl | (exact absurd (List.mem_singleton.mpr rfl) hp)⟩ hl

theorem Out.setMiso (x : Option (List Byte)) (h : Out l s u) (hl : Key.sub [.p .miso] l = true) :
    Out l s { u with miso := x } :=
  h.chain (m := [.p .miso]) ⟨fun _ _ => rfl, fun p hp => by
    cases p <;> first | rfl | (exact absurd (List.mem_singleton.mpr rfl) hp)⟩ hl

theorem Out.setPending (x : List Instr) (h : Out l s u) (hl : Key.sub [.p .pending] l = true) :
    Out l s { u with pending := x } :=
  h.chain (m := [.p .pending]) ⟨fun _ _ => rfl, fun p hp => by
    cases p <;> first | rfl | (exact absurd (List.mem_singleton.mpr rfl) hp)⟩ hl

end

/-! ## The primitive operations -/

theorem Out.prim_put (s : State) {n : Key} (k : Fld) (v : Nat) (hk : n.has k) : Out [n] s (s.put k v) :=
  .of_flds _ fun _ hj => State.get_put_other s v (by rintro rfl; exact hj n (by simp) hk)

/-- The key names a word that a field could stand in; an array is taken from its offset on. -/
def Key.hasb : Key → Fld → Bool
  | .w x off, k => k.blk == x && k.off == off
  | .a x off st, k => k.blk == x && decide (off ≤ k.off) && (k.off - off) % st == 0
  | .b x, k => k.blk == x
  | .p _, _ => false
  | .all, _ => true

theorem Key.hasb_of {n : Key} {k : Fld} (h : n.has k) : n.hasb k = true := by
  cases n with
  | w x off => simp only [Key.has] at h; simp [Key.hasb, h.1, h.2]
  | a x off st =>
    obtain ⟨hb, i, hi⟩ := h
    simp [Key.hasb, hb, hi]
  | b x => simp only [Key.has] at h; simp [Key.hasb, h]
  | p p => exact h.elim
  | all => rfl

/-- A field outside the keys reads as before. -/
theorem Out.read {l : List Key} {s t : State} (h : Out l s t) (k : Fld) (hk : (l.all fun n => !n.hasb k) = true) :
    t.get k = s.get k := h.get k fun n hn hh => by
  have := List.all_eq_true.mp hk n hn
  rw [Key.hasb_of hh] at this
  cases this

theorem Key.hasW {k : Fld} : (Key.w k.blk k.off).has k := ⟨rfl, rfl⟩

theorem Key.has_sat {n : Key} {k : Fld} (h : n.has k) : n.has { k with lo := 16, w := 1 } := by
  cases n <;> exact h

theorem Key.hasA {k : Fld} {o st i : Nat} (h : k.off = o + st * i) : (Key.a k.blk o st).has k := ⟨rfl, i, h⟩

theorem Key.hasB {k : Fld} : (Key.b k.blk).has k := rfl

/-- The state of a pair known by its parts. -/
theorem Out.of_eq {α : Type} {l : List Key} {s u : State} {r : α} {x : State × α} (e : x = (u, r)) (h : Out l s x.1) :
    Out l s u := by
  subst e
  exact h

section
variable {l : List Key} {s₀ s : State}

theorem Out.put {n : Key} (k : Fld) (v : Nat) (h : Out l s₀ s) (hk : n.has k) (hl : Key.sub [n] l = true) :
    Out l s₀ (s.put k v) := h.chain (Out.prim_put s k v hk) hl

theorem Out.putB {n : Key} (k : Fld) (v : Bool) (h : Out l s₀ s) (hk : n.has k) (hl : Key.sub [n] l = true) :
    Out l s₀ (s.putB k v) := Out.put _ _ h hk hl

theorem Out.putI {n : Key} (k : Fld) (v : Int) (h : Out l s₀ s) (hk : n.has k) (hl : Key.sub [n] l = true) :
    Out l s₀ (s.putI k v) := Out.put _ _ h hk hl

theorem Out.bump {n : Key} (k : Fld) (v : Nat) (h : Out l s₀ s) (hk : n.has k) (hl : Key.sub [n] l = true) :
    Out l s₀ (s.bump k v) := Out.put _ _ h hk hl

theorem Out.puts_nil (h : Out l s₀ s) : Out l s₀ (s.puts []) := h

theorem Out.puts_cons (e : Fld × Nat) (x : List (Fld × Nat)) (h : Out l s₀ ((s.put e.1 e.2).puts x)) :
    Out l s₀ (s.puts (e :: x)) := h

theorem Out.puts {x : List (Fld × Nat)} {m : List Key} (hm : Key.sub m l = true)
    (hx : ∀ e ∈ x, ∃ n ∈ m, n.has e.1) : ∀ {s : State}, Out l s₀ s → Out l s₀ (s.puts x) := by
  induction x with
  | nil => intro s h; exact h
  | cons e x ih =>
    intro s h
    obtain ⟨n, hn, hk⟩ := hx e (List.mem_cons_self ..)
    refine ih (fun e he => hx e (List.mem_cons_of_mem _ he)) (Out.put _ _ h hk ?_)
    exact Key.sub_one hm hn

theorem State.puts_append (a b : List (Fld × Nat)) : ∀ s : State, s.puts (a ++ b) = (s.puts a).puts b := by
  induction a with
  | nil => intro s; rfl
  | cons e a ih => intro s; exact ih _

/-- Any register fields put. -/
theorem Out.puts_all (x : List (Fld × Nat)) (h : Out l s₀ s) (hl : Key.sub [.all] l = true) : Out l s₀ (s.puts x) :=
  Out.puts hl (fun _ _ => ⟨.all, List.mem_singleton.mpr rfl, trivial⟩) h

theorem Out.puts_append (a b : List (Fld × Nat)) (h : Out l s₀ ((s.puts a).puts b)) : Out l s₀ (s.puts (a ++ b)) := by
  rw [State.puts_append]; exact h

theorem Out.puts_map {α : Type} {n : Key} (f : α → Fld) (g : α → Nat) (xs : List α) (h : Out l s₀ s)
    (hk : ∀ x, n.has (f x)) (hl : Key.sub [n] l = true) : Out l s₀ (s.puts (xs.map fun x => (f x, g x))) :=
  Out.puts (m := [n]) hl (by
    intro e he
    obtain ⟨x, _, rfl⟩ := List.mem_map.mp he
    exact ⟨n, List.mem_singleton.mpr rfl, hk x⟩) h

/-- All register fields set. -/
theorem Out.setFlds (f : List (Fld × Nat)) (h : Out l s₀ s) (hl : Key.sub [.all] l = true) :
    Out l s₀ { s with flds := f } :=
  h.chain (m := [.all]) (Out.of_flds f fun _ hk => absurd trivial (hk .all (List.mem_singleton.mpr rfl))) hl

theorem Out.edge (n : Nat) (h : Out l s₀ s) (hl : Key.sub [.p .edges] l = true) : Out l s₀ (s.edge n) :=
  Out.setEdges _ h hl

theorem Out.post (b c v i : Nat) (d : List Nat) (h : Out l s₀ s) (hl : Key.sub [.p .inbox] l = true) :
    Out l s₀ (s.post b c v i d) := Out.setInbox _ h hl

theorem Out.drew (h : Out l s₀ s) (hl : Key.sub [.p .free] l = true) : Out l s₀ s.drew := Out.setFree _ h hl

theorem Out.when (c : Bool) (f : State → State) (h : Out l s₀ s) (hf : ∀ u, Out l s₀ u → Out l s₀ (f u)) :
    Out l s₀ (s.when c f) := by
  cases c
  · exact h
  · exact hf s h

theorem Out.watch (b i : Nat) (f : State → State) (h : Out l s₀ s) (hf : ∀ u, Out l s₀ u → Out l s₀ (f u))
    (hl : Key.sub [.p .edges] l = true) : Out l s₀ (s.watch b i f) := by
  unfold State.watch
  dsimp only
  split
  · exact Out.edge _ (hf s h) hl
  · exact hf s h

theorem Out.evt {n : Key} (k : Fld) (h : Out l s₀ s) (hk : n.has k) (hl : Key.sub [n] l = true)
    (he : Key.sub [.p .edges] l = true) : Out l s₀ (s.evt k) :=
  Out.watch _ _ _ h (fun _ hu => Out.put _ _ hu hk hl) he

theorem Out.countUp {n : Key} (k : Fld) (c : Nat) (h : Out l s₀ s) (hk : n.has k)
    (hl : Key.sub [n] l = true) (hp : Key.sub [.w k.blk (evtOff k.blk), .p .edges] l = true) :
    Out l s₀ (s.countUp k c) := by
  have hk' : n.has { k with lo := 16, w := 1 } := Key.has_sat hk
  have h2 : Key.sub [.w k.blk (evtOff k.blk)] l = true := Out.sub hp (by simp [Key.sub, Key.cov])
  unfold State.countUp
  dsimp only
  split
  · exact Out.put _ _ h hk hl
  · refine Out.when _ _ (Out.put _ _ h hk hl) fun u hu => ?_
    split
    · refine Out.evt _ (Out.put _ _ hu hk' hl) (Key.hasW (k := evtBit k.blk k.inst _)) h2 ?_
      exact Out.sub hp (by simp [Key.sub, Key.cov])
    · exact Out.put _ _ hu hk' hl

theorem Out.countN {n : Key} (k : Fld) (c : Nat) (h : Out l s₀ s) (hk : n.has k)
    (hl : Key.sub [n] l = true) (hp : Key.sub [.w k.blk (evtOff k.blk), .p .edges, .p .inbox] l = true) :
    Out l s₀ (s.countN k c) :=
  Out.when _ _ (Out.countUp k c h hk hl (Out.sub hp (Key.sub_of fun _ hm => by
      simp only [List.mem_cons, List.not_mem_nil, or_false] at hm ⊢; tauto))) fun _ hu =>
    Out.post _ _ _ _ _ hu (Out.sub hp (Key.sub_of fun _ hm => by
      simp only [List.mem_cons, List.not_mem_nil, or_false] at hm ⊢; tauto))

theorem Out.count {n : Key} (k : Fld) (h : Out l s₀ s) (hk : n.has k)
    (hl : Key.sub [n] l = true) (hp : Key.sub [.w k.blk (evtOff k.blk), .p .edges, .p .inbox] l = true) : Out l s₀ (s.count k) :=
  Out.countN _ _ h hk hl hp

/-- A sequencer's descriptor through its queue. -/
theorem Out.seqPost (a code sev : Nat) (d : List Nat) (h : Out l s₀ s)
    (hl : Key.sub [.of (V.seqLost 0), .p .inbox] l = true) : Out l s₀ (s.seqPost a code sev d) := by
  have h2 : Key.sub [.of (V.seqLost 0)] l = true := Out.sub hl rfl
  have h3 : Key.sub [.p .inbox] l = true := Out.sub hl rfl
  have hk : (Key.of (V.seqLost 0)).has (V.seqLost a) := ⟨rfl, rfl⟩
  unfold State.seqPost
  split
  · exact Out.put _ _ h hk h2
  · exact Out.put _ _ (Out.post _ _ _ _ _ h h3) hk h2

theorem Out.seqCountN {n : Key} (k : Fld) (c : Nat) (h : Out l s₀ s) (hk : n.has k)
    (hl : Key.sub [n] l = true)
    (hp : Key.sub [.w k.blk (evtOff k.blk), .of (V.seqLost 0), .p .edges, .p .inbox] l = true) :
    Out l s₀ (s.seqCountN k c) :=
  Out.when _ _ (Out.countUp k c h hk hl (Out.sub hp (Key.sub_of fun _ hm => by
      simp only [List.mem_cons, List.not_mem_nil, or_false] at hm ⊢; tauto))) fun _ hu =>
    Out.seqPost _ _ _ _ hu (Out.sub hp (Key.sub_of fun _ hm => by
      simp only [List.mem_cons, List.not_mem_nil, or_false] at hm ⊢; tauto))

theorem Out.seqCount {n : Key} (k : Fld) (h : Out l s₀ s) (hk : n.has k) (hl : Key.sub [n] l = true)
    (hp : Key.sub [.w k.blk (evtOff k.blk), .of (V.seqLost 0), .p .edges, .p .inbox] l = true) : Out l s₀ (s.seqCount k) :=
  Out.seqCountN _ _ h hk hl hp

theorem Out.counterClear {n : Key} (k : Fld) (c : Nat) (h : Out l s₀ s) (hk : n.has k)
    (hl : Key.sub [n] l = true)
    (hp : Key.sub [.w k.blk (evtOff k.blk), .of (V.seqLost 0), .p .edges, .p .inbox] l = true) :
    Out l s₀ (s.counterClear k c) := by
  have h' := Out.put (n := n) _ 0 (Out.put k 0 h hk hl) (Key.has_sat hk) hl
  unfold State.counterClear
  dsimp only
  split
  · exact Out.seqCountN _ _ h' hk hl hp
  · exact Out.countN _ _ h' hk hl (Out.sub hp (Key.sub_of fun _ hm => by
      simp only [List.mem_cons, List.not_mem_nil, or_false] at hm ⊢; tauto))

theorem get_filter_keep (p : Fld × Nat → Bool) (m : List (Fld × Nat)) (k : Fld) (hp : ∀ v, p (k, v) = true) :
    Tab.get Fld.rst (m.filter p) k = Tab.get Fld.rst m k := by
  induction m with
  | nil => rfl
  | cons e m ih =>
    obtain ⟨j, v⟩ := e
    by_cases g : j = k
    · subst g; simp [hp, Tab.get]
    · by_cases h : p (j, v) = true <;> simp [h, Tab.get, g, ih]

theorem Out.prim_resetBlk (s : State) (b : Nat) : Out [Key.b b] s (s.resetBlk b) :=
  .of_flds _ fun k hk => get_filter_keep _ _ _ fun v => decide_eq_true fun h => hk _ (by simp) (h ▸ Key.hasB)

theorem Out.prim_resetInst (s : State) (b i : Nat) : Out [Key.b b] s (s.resetInst b i) :=
  .of_flds _ fun k hk => get_filter_keep _ _ _ fun v => decide_eq_true fun h => hk _ (by simp) (h.1 ▸ Key.hasB)

theorem Out.resetBlk (b : Nat) (h : Out l s₀ s) (hl : Key.sub [.b b] l = true) : Out l s₀ (s.resetBlk b) :=
  h.chain (Out.prim_resetBlk s b) hl

theorem Out.resetInst (b i : Nat) (h : Out l s₀ s) (hl : Key.sub [.b b] l = true) : Out l s₀ (s.resetInst b i) :=
  h.chain (Out.prim_resetInst s b i) hl

theorem Out.forAll {α : Type} (f : α → State → State) (hf : ∀ x u, Out l s₀ u → Out l s₀ (f x u)) (xs : List α) :
    ∀ {s : State}, Out l s₀ s → Out l s₀ (s.forAll xs f) := by
  induction xs with
  | nil => intro s h; exact h
  | cons x xs ih => intro s h; exact ih (hf x s h)

theorem Out.foldl {α : Type} (f : State → α → State) (hf : ∀ u x, Out l s₀ u → Out l s₀ (f u x)) (xs : List α) :
    ∀ {s : State}, Out l s₀ s → Out l s₀ (xs.foldl f s) := by
  induction xs with
  | nil => intro s h; exact h
  | cons x xs ih => intro s h; exact ih (hf s x h)

theorem Out.foldlFst {α β : Type} (f : State × β → α → State × β) (hf : ∀ x y, Out l s₀ x.1 → Out l s₀ (f x y).1)
    (xs : List α) : ∀ {x : State × β}, Out l s₀ x.1 → Out l s₀ (xs.foldl f x).1 := by
  induction xs with
  | nil => intro x h; exact h
  | cons y ys ih => intro x h; exact ih (hf x y h)

end

end Sys2Proof.Machine
end

