-- ==== Sys2Proof/Laws/OutSets.lean ====
section
/-!
SUPPORT. Several parts of the state set at once.
-/

namespace Sys2Proof.Machine

set_option Elab.async false
set_option linter.unusedTactic false
set_option linter.unreachableTactic false
set_option linter.unusedVariables false

variable {l : List Key} {s u : State}

theorem Out.setAmpsSams (x0 : List (Nat × List Nat)) (x1 : List (Nat × List Nat)) (h : Out l s u) (h0 : Key.sub [.p .amps] l = true) (h1 : Key.sub [.p .sams] l = true) :
    Out l s { u with amps := x0, sams := x1 } :=
  Out.setSams x1 (Out.setAmps x0 h h0) h1

theorem Out.setBstoreCstorePktProgRuns (x0 : List (Nat × List BarkerWord)) (x1 : List TrzWord) (x2 : List (Nat × Option Line)) (x3 : List (Nat × Option Run)) (h : Out l s u) (h0 : Key.sub [.p .bstore] l = true) (h1 : Key.sub [.p .cstore] l = true) (h2 : Key.sub [.p .pkt] l = true) (h3 : Key.sub [.p .progRuns] l = true) :
    Out l s { u with bstore := x0, cstore := x1, pkt := x2, progRuns := x3 } :=
  Out.setProgRuns x3 (Out.setPkt x2 (Out.setCstore x1 (Out.setBstore x0 h h0) h1) h2) h3

theorem Out.setCandsAuthFailProposal (x0 : List Peer) (x1 : List (List Byte)) (x2 : Option Proposal) (h : Out l s u) (h0 : Key.sub [.p .cands] l = true) (h1 : Key.sub [.p .authFail] l = true) (h2 : Key.sub [.p .proposal] l = true) :
    Out l s { u with cands := x0, authFail := x1, proposal := x2 } :=
  Out.setProposal x2 (Out.setAuthFail x1 (Out.setCands x0 h h0) h1) h2

theorem Out.setCmdsCmdNo (x0 : List Cmd) (x1 : Nat) (h : Out l s u) (h0 : Key.sub [.p .cmds] l = true) (h1 : Key.sub [.p .cmdNo] l = true) :
    Out l s { u with cmds := x0, cmdNo := x1 } :=
  Out.setCmdNo x1 (Out.setCmds x0 h h0) h1

theorem Out.setCmdsHeld (x0 : List Cmd) (x1 : List (Nat × (CmdId × Nat))) (h : Out l s u) (h0 : Key.sub [.p .cmds] l = true) (h1 : Key.sub [.p .held] l = true) :
    Out l s { u with cmds := x0, held := x1 } :=
  Out.setHeld x1 (Out.setCmds x0 h h0) h1

theorem Out.setCmdsVisitNssErrlogHeld (x0 : List Cmd) (x1 : List (Nat × Nat)) (x2 : List (Nat × Option Ns)) (x3 : List Cqe) (x4 : List (Nat × (CmdId × Nat))) (h : Out l s u) (h0 : Key.sub [.p .cmds] l = true) (h1 : Key.sub [.p .visit] l = true) (h2 : Key.sub [.p .nss] l = true) (h3 : Key.sub [.p .errlog] l = true) (h4 : Key.sub [.p .held] l = true) :
    Out l s { u with cmds := x0, visit := x1, nss := x2, errlog := x3, held := x4 } :=
  Out.setHeld x4 (Out.setErrlog x3 (Out.setNss x2 (Out.setVisit x1 (Out.setCmds x0 h h0) h1) h2) h3) h4

theorem Out.setCqsErrlog (x0 : List Cqe) (x1 : List Cqe) (h : Out l s u) (h0 : Key.sub [.p .cqs] l = true) (h1 : Key.sub [.p .errlog] l = true) :
    Out l s { u with cqs := x0, errlog := x1 } :=
  Out.setErrlog x1 (Out.setCqs x0 h h0) h1

theorem Out.setDemandsAsked (x0 : List Demand) (x1 : List (Nat × Nat)) (h : Out l s u) (h0 : Key.sub [.p .demands] l = true) (h1 : Key.sub [.p .asked] l = true) :
    Out l s { u with demands := x0, asked := x1 } :=
  Out.setAsked x1 (Out.setDemands x0 h h0) h1

theorem Out.setEdgesChnSeqsBstoreWdJqJactCmdsCtrlsVisitNssTstoreRung6AmpsSamsLoopsTstkTshdTshrTscrubCstoreTmchkCogSpnFwPendFwErasedErrlogRsetsReqsNoncesHeldPktHbmPoisonKvLogKvDurProgsProgRunsCandsAuthFailStripesAddrsPartnerFwImgWorksShadow (x0 : List Nat) (x1 : List (Nat × ReadOp)) (x2 : List (Nat × SeqRun)) (x3 : List (Nat × List BarkerWord)) (x4 : List (Nat × List Int)) (x5 : List (Nat × List Job)) (x6 : List (Nat × Option Job)) (x7 : List Cmd) (x8 : List (Nat × Option Ctrl)) (x9 : List (Nat × Nat)) (x10 : List (Nat × Option Ns)) (x11 : List (Nat × Byte)) (x12 : List Job) (x13 : List (Nat × List Nat)) (x14 : List (Nat × List Nat)) (x15 : List (Nat × Loop)) (x16 : List Nat) (x17 : List (Nat × Int)) (x18 : List (Nat × Int)) (x19 : List Nat) (x20 : List TrzWord) (x21 : List (Nat × Nat)) (x22 : List (Nat × (Int × Nat))) (x23 : List (Nat × Byte)) (x24 : List Nat) (x25 : List Nat) (x26 : List Cqe) (x27 : List (Nat × List (Nat × Nat))) (x28 : List Req) (x29 : List Nonce) (x30 : List (Nat × (CmdId × Nat))) (x31 : List (Nat × Option Line)) (x32 : List (Nat × Byte)) (x33 : List Nat) (x34 : List KvOp) (x35 : List (Nat × Option KvEnt)) (x36 : List (Nat × Option Prog)) (x37 : List (Nat × Option Run)) (x38 : List Peer) (x39 : List (List Byte)) (x40 : List Stripe) (x41 : List NetAddr) (x42 : List (Nat × List Nat)) (x43 : List (Nat × Byte)) (x44 : List Work) (x45 : List Shadow) (h : Out l s u) (h0 : Key.sub [.p .edges] l = true) (h1 : Key.sub [.p .chn] l = true) (h2 : Key.sub [.p .seqs] l = true) (h3 : Key.sub [.p .bstore] l = true) (h4 : Key.sub [.p .wd] l = true) (h5 : Key.sub [.p .jq] l = true) (h6 : Key.sub [.p .jact] l = true) (h7 : Key.sub [.p .cmds] l = true) (h8 : Key.sub [.p .ctrls] l = true) (h9 : Key.sub [.p .visit] l = true) (h10 : Key.sub [.p .nss] l = true) (h11 : Key.sub [.p .tstore] l = true) (h12 : Key.sub [.p .rung6] l = true) (h13 : Key.sub [.p .amps] l = true) (h14 : Key.sub [.p .sams] l = true) (h15 : Key.sub [.p .loops] l = true) (h16 : Key.sub [.p .tstk] l = true) (h17 : Key.sub [.p .tshd] l = true) (h18 : Key.sub [.p .tshr] l = true) (h19 : Key.sub [.p .tscrub] l = true) (h20 : Key.sub [.p .cstore] l = true) (h21 : Key.sub [.p .tmchk] l = true) (h22 : Key.sub [.p .cog] l = true) (h23 : Key.sub [.p .spn] l = true) (h24 : Key.sub [.p .fwPend] l = true) (h25 : Key.sub [.p .fwErased] l = true) (h26 : Key.sub [.p .errlog] l = true) (h27 : Key.sub [.p .rsets] l = true) (h28 : Key.sub [.p .reqs] l = true) (h29 : Key.sub [.p .nonces] l = true) (h30 : Key.sub [.p .held] l = true) (h31 : Key.sub [.p .pkt] l = true) (h32 : Key.sub [.p .hbm] l = true) (h33 : Key.sub [.p .poison] l = true) (h34 : Key.sub [.p .kvLog] l = true) (h35 : Key.sub [.p .kvDur] l = true) (h36 : Key.sub [.p .progs] l = true) (h37 : Key.sub [.p .progRuns] l = true) (h38 : Key.sub [.p .cands] l = true) (h39 : Key.sub [.p .authFail] l = true) (h40 : Key.sub [.p .stripes] l = true) (h41 : Key.sub [.p .addrs] l = true) (h42 : Key.sub [.p .partner] l = true) (h43 : Key.sub [.p .fwImg] l = true) (h44 : Key.sub [.p .works] l = true) (h45 : Key.sub [.p .shadow] l = true) :
    Out l s { u with edges := x0, chn := x1, seqs := x2, bstore := x3, wd := x4, jq := x5, jact := x6, cmds := x7, ctrls := x8, visit := x9, nss := x10, tstore := x11, rung6 := x12, amps := x13, sams := x14, loops := x15, tstk := x16, tshd := x17, tshr := x18, tscrub := x19, cstore := x20, tmchk := x21, cog := x22, spn := x23, fwPend := x24, fwErased := x25, errlog := x26, rsets := x27, reqs := x28, nonces := x29, held := x30, pkt := x31, hbm := x32, poison := x33, kvLog := x34, kvDur := x35, progs := x36, progRuns := x37, cands := x38, authFail := x39, stripes := x40, addrs := x41, partner := x42, fwImg := x43, works := x44, shadow := x45 } :=
  Out.setShadow x45 (Out.setWorks x44 (Out.setFwImg x43 (Out.setPartner x42 (Out.setAddrs x41 (Out.setStripes x40 (Out.setAuthFail x39 (Out.setCands x38 (Out.setProgRuns x37 (Out.setProgs x36 (Out.setKvDur x35 (Out.setKvLog x34 (Out.setPoison x33 (Out.setHbm x32 (Out.setPkt x31 (Out.setHeld x30 (Out.setNonces x29 (Out.setReqs x28 (Out.setRsets x27 (Out.setErrlog x26 (Out.setFwErased x25 (Out.setFwPend x24 (Out.setSpn x23 (Out.setCog x22 (Out.setTmchk x21 (Out.setCstore x20 (Out.setTscrub x19 (Out.setTshr x18 (Out.setTshd x17 (Out.setTstk x16 (Out.setLoops x15 (Out.setSams x14 (Out.setAmps x13 (Out.setRung6 x12 (Out.setTstore x11 (Out.setNss x10 (Out.setVisit x9 (Out.setCtrls x8 (Out.setCmds x7 (Out.setJact x6 (Out.setJq x5 (Out.setWd x4 (Out.setBstore x3 (Out.setSeqs x2 (Out.setChn x1 (Out.setEdges x0 h h0) h1) h2) h3) h4) h5) h6) h7) h8) h9) h10) h11) h12) h13) h14) h15) h16) h17) h18) h19) h20) h21) h22) h23) h24) h25) h26) h27) h28) h29) h30) h31) h32) h33) h34) h35) h36) h37) h38) h39) h40) h41) h42) h43) h44) h45

theorem Out.setFitFromAsked (x0 : List (Nat × Nat)) (x1 : List (Nat × Nat)) (h : Out l s u) (h0 : Key.sub [.p .fitFrom] l = true) (h1 : Key.sub [.p .asked] l = true) :
    Out l s { u with fitFrom := x0, asked := x1 } :=
  Out.setAsked x1 (Out.setFitFrom x0 h h0) h1

theorem Out.setFmtBandsAlteredWeakSlots (x0 : List (Nat × Byte)) (x1 : List (Nat × Option Band)) (x2 : List (Nat × Nat)) (x3 : List Nat) (h : Out l s u) (h0 : Key.sub [.p .fmt] l = true) (h1 : Key.sub [.p .bands] l = true) (h2 : Key.sub [.p .altered] l = true) (h3 : Key.sub [.p .weakSlots] l = true) :
    Out l s { u with fmt := x0, bands := x1, altered := x2, weakSlots := x3 } :=
  Out.setWeakSlots x3 (Out.setAltered x2 (Out.setBands x1 (Out.setFmt x0 h h0) h1) h2) h3

theorem Out.setFopsFwaitFread (x0 : List (Nat × List FlashOp)) (x1 : List (Nat × List FlashReq)) (x2 : List Byte) (h : Out l s u) (h0 : Key.sub [.p .fops] l = true) (h1 : Key.sub [.p .fwait] l = true) (h2 : Key.sub [.p .fread] l = true) :
    Out l s { u with fops := x0, fwait := x1, fread := x2 } :=
  Out.setFread x2 (Out.setFwait x1 (Out.setFops x0 h h0) h1) h2

theorem Out.setFwPendFwErased (x0 : List Nat) (x1 : List Nat) (h : Out l s u) (h0 : Key.sub [.p .fwPend] l = true) (h1 : Key.sub [.p .fwErased] l = true) :
    Out l s { u with fwPend := x0, fwErased := x1 } :=
  Out.setFwErased x1 (Out.setFwPend x0 h h0) h1

theorem Out.setHbmPoison (x0 : List (Nat × Byte)) (x1 : List Nat) (h : Out l s u) (h0 : Key.sub [.p .hbm] l = true) (h1 : Key.sub [.p .poison] l = true) :
    Out l s { u with hbm := x0, poison := x1 } :=
  Out.setPoison x1 (Out.setHbm x0 h h0) h1

theorem Out.setJournalJseq (x0 : List JRec) (x1 : Nat) (h : Out l s u) (h0 : Key.sub [.p .journal] l = true) (h1 : Key.sub [.p .jseq] l = true) :
    Out l s { u with journal := x0, jseq := x1 } :=
  Out.setJseq x1 (Out.setJournal x0 h h0) h1

theorem Out.setKvLogKvDur (x0 : List KvOp) (x1 : List (Nat × Option KvEnt)) (h : Out l s u) (h0 : Key.sub [.p .kvLog] l = true) (h1 : Key.sub [.p .kvDur] l = true) :
    Out l s { u with kvLog := x0, kvDur := x1 } :=
  Out.setKvDur x1 (Out.setKvLog x0 h h0) h1

theorem Out.setKvLogKvDurStripes (x0 : List KvOp) (x1 : List (Nat × Option KvEnt)) (x2 : List Stripe) (h : Out l s u) (h0 : Key.sub [.p .kvLog] l = true) (h1 : Key.sub [.p .kvDur] l = true) (h2 : Key.sub [.p .stripes] l = true) :
    Out l s { u with kvLog := x0, kvDur := x1, stripes := x2 } :=
  Out.setStripes x2 (Out.setKvDur x1 (Out.setKvLog x0 h h0) h1) h2

theorem Out.setLoopsTmchk (x0 : List (Nat × Loop)) (x1 : List (Nat × Nat)) (h : Out l s u) (h0 : Key.sub [.p .loops] l = true) (h1 : Key.sub [.p .tmchk] l = true) :
    Out l s { u with loops := x0, tmchk := x1 } :=
  Out.setTmchk x1 (Out.setLoops x0 h h0) h1

theorem Out.setMcacheVolDurLost (x0 : List (Nat × List CTrack)) (x1 : List (Nat × Option Vol)) (x2 : List (Nat × Block)) (x3 : List Nat) (h : Out l s u) (h0 : Key.sub [.p .mcache] l = true) (h1 : Key.sub [.p .vol] l = true) (h2 : Key.sub [.p .dur] l = true) (h3 : Key.sub [.p .lost] l = true) :
    Out l s { u with mcache := x0, vol := x1, dur := x2, lost := x3 } :=
  Out.setLost x3 (Out.setDur x2 (Out.setVol x1 (Out.setMcache x0 h h0) h1) h2) h3

theorem Out.setMembersCands (x0 : List Peer) (x1 : List Peer) (h : Out l s u) (h0 : Key.sub [.p .members] l = true) (h1 : Key.sub [.p .cands] l = true) :
    Out l s { u with members := x0, cands := x1 } :=
  Out.setCands x1 (Out.setMembers x0 h h0) h1

theorem Out.setMembersCandsProposal (x0 : List Peer) (x1 : List Peer) (x2 : Option Proposal) (h : Out l s u) (h0 : Key.sub [.p .members] l = true) (h1 : Key.sub [.p .cands] l = true) (h2 : Key.sub [.p .proposal] l = true) :
    Out l s { u with members := x0, cands := x1, proposal := x2 } :=
  Out.setProposal x2 (Out.setCands x1 (Out.setMembers x0 h h0) h1) h2

theorem Out.setMopsOpid (x0 : List MOp) (x1 : Nat) (h : Out l s u) (h0 : Key.sub [.p .mops] l = true) (h1 : Key.sub [.p .opid] l = true) :
    Out l s { u with mops := x0, opid := x1 } :=
  Out.setOpid x1 (Out.setMops x0 h h0) h1

theorem Out.setNssVolDurLostKvLogKvDurStripes (x0 : List (Nat × Option Ns)) (x1 : List (Nat × Option Vol)) (x2 : List (Nat × Block)) (x3 : List Nat) (x4 : List KvOp) (x5 : List (Nat × Option KvEnt)) (x6 : List Stripe) (h : Out l s u) (h0 : Key.sub [.p .nss] l = true) (h1 : Key.sub [.p .vol] l = true) (h2 : Key.sub [.p .dur] l = true) (h3 : Key.sub [.p .lost] l = true) (h4 : Key.sub [.p .kvLog] l = true) (h5 : Key.sub [.p .kvDur] l = true) (h6 : Key.sub [.p .stripes] l = true) :
    Out l s { u with nss := x0, vol := x1, dur := x2, lost := x3, kvLog := x4, kvDur := x5, stripes := x6 } :=
  Out.setStripes x6 (Out.setKvDur x5 (Out.setKvLog x4 (Out.setLost x3 (Out.setDur x2 (Out.setVol x1 (Out.setNss x0 h h0) h1) h2) h3) h4) h5) h6

theorem Out.setNssWeakSlots (x0 : List (Nat × Option Ns)) (x1 : List Nat) (h : Out l s u) (h0 : Key.sub [.p .nss] l = true) (h1 : Key.sub [.p .weakSlots] l = true) :
    Out l s { u with nss := x0, weakSlots := x1 } :=
  Out.setWeakSlots x1 (Out.setNss x0 h h0) h1

theorem Out.setPbufRing (x0 : List Rec) (x1 : List (Nat × Option Rec)) (h : Out l s u) (h0 : Key.sub [.p .pbuf] l = true) (h1 : Key.sub [.p .ring] l = true) :
    Out l s { u with pbuf := x0, ring := x1 } :=
  Out.setRing x1 (Out.setPbuf x0 h h0) h1

theorem Out.setPktHbmPoisonProgsProgRuns (x0 : List (Nat × Option Line)) (x1 : List (Nat × Byte)) (x2 : List Nat) (x3 : List (Nat × Option Prog)) (x4 : List (Nat × Option Run)) (h : Out l s u) (h0 : Key.sub [.p .pkt] l = true) (h1 : Key.sub [.p .hbm] l = true) (h2 : Key.sub [.p .poison] l = true) (h3 : Key.sub [.p .progs] l = true) (h4 : Key.sub [.p .progRuns] l = true) :
    Out l s { u with pkt := x0, hbm := x1, poison := x2, progs := x3, progRuns := x4 } :=
  Out.setProgRuns x4 (Out.setProgs x3 (Out.setPoison x2 (Out.setHbm x1 (Out.setPkt x0 h h0) h1) h2) h3) h4

theorem Out.setPopenPbuf (x0 : Option Rec) (x1 : List Rec) (h : Out l s u) (h0 : Key.sub [.p .popen] l = true) (h1 : Key.sub [.p .pbuf] l = true) :
    Out l s { u with popen := x0, pbuf := x1 } :=
  Out.setPbuf x1 (Out.setPopen x0 h h0) h1

theorem Out.setReqsNonces (x0 : List Req) (x1 : List Nonce) (h : Out l s u) (h0 : Key.sub [.p .reqs] l = true) (h1 : Key.sub [.p .nonces] l = true) :
    Out l s { u with reqs := x0, nonces := x1 } :=
  Out.setNonces x1 (Out.setReqs x0 h h0) h1

theorem Out.setReqsReqNo (x0 : List Req) (x1 : Nat) (h : Out l s u) (h0 : Key.sub [.p .reqs] l = true) (h1 : Key.sub [.p .reqNo] l = true) :
    Out l s { u with reqs := x0, reqNo := x1 } :=
  Out.setReqNo x1 (Out.setReqs x0 h h0) h1

theorem Out.setReqsRspNo (x0 : List Req) (x1 : Nat) (h : Out l s u) (h0 : Key.sub [.p .reqs] l = true) (h1 : Key.sub [.p .rspNo] l = true) :
    Out l s { u with reqs := x0, rspNo := x1 } :=
  Out.setRspNo x1 (Out.setReqs x0 h h0) h1

theorem Out.setRingRingBad (x0 : List (Nat × Option Rec)) (x1 : List (Nat × Nat)) (h : Out l s u) (h0 : Key.sub [.p .ring] l = true) (h1 : Key.sub [.p .ringBad] l = true) :
    Out l s { u with ring := x0, ringBad := x1 } :=
  Out.setRingBad x1 (Out.setRing x0 h h0) h1

theorem Out.setStripesStripeNo (x0 : List Stripe) (x1 : Nat) (h : Out l s u) (h0 : Key.sub [.p .stripes] l = true) (h1 : Key.sub [.p .stripeNo] l = true) :
    Out l s { u with stripes := x0, stripeNo := x1 } :=
  Out.setStripeNo x1 (Out.setStripes x0 h h0) h1

theorem Out.setTestTestLog (x0 : Option SelfTest) (x1 : List (List Nat)) (h : Out l s u) (h0 : Key.sub [.p .test] l = true) (h1 : Key.sub [.p .testLog] l = true) :
    Out l s { u with test := x0, testLog := x1 } :=
  Out.setTestLog x1 (Out.setTest x0 h h0) h1

theorem Out.setTsaveTregs (x0 : List (Nat × Byte)) (x1 : List (Fld × Nat)) (h : Out l s u) (h0 : Key.sub [.p .tsave] l = true) (h1 : Key.sub [.p .tregs] l = true) :
    Out l s { u with tsave := x0, tregs := x1 } :=
  Out.setTregs x1 (Out.setTsave x0 h h0) h1

theorem Out.setTscrubCstore (x0 : List Nat) (x1 : List TrzWord) (h : Out l s u) (h0 : Key.sub [.p .tscrub] l = true) (h1 : Key.sub [.p .cstore] l = true) :
    Out l s { u with tscrub := x0, cstore := x1 } :=
  Out.setCstore x1 (Out.setTscrub x0 h h0) h1

theorem Out.setTstkTshd (x0 : List Nat) (x1 : List (Nat × Int)) (h : Out l s u) (h0 : Key.sub [.p .tstk] l = true) (h1 : Key.sub [.p .tshd] l = true) :
    Out l s { u with tstk := x0, tshd := x1 } :=
  Out.setTshd x1 (Out.setTstk x0 h h0) h1

theorem Out.setVisitNss (x0 : List (Nat × Nat)) (x1 : List (Nat × Option Ns)) (h : Out l s u) (h0 : Key.sub [.p .visit] l = true) (h1 : Key.sub [.p .nss] l = true) :
    Out l s { u with visit := x0, nss := x1 } :=
  Out.setNss x1 (Out.setVisit x0 h h0) h1

theorem Out.setVolDur (x0 : List (Nat × Option Vol)) (x1 : List (Nat × Block)) (h : Out l s u) (h0 : Key.sub [.p .vol] l = true) (h1 : Key.sub [.p .dur] l = true) :
    Out l s { u with vol := x0, dur := x1 } :=
  Out.setDur x1 (Out.setVol x0 h h0) h1

theorem Out.setVolLost (x0 : List (Nat × Option Vol)) (x1 : List Nat) (h : Out l s u) (h0 : Key.sub [.p .vol] l = true) (h1 : Key.sub [.p .lost] l = true) :
    Out l s { u with vol := x0, lost := x1 } :=
  Out.setLost x1 (Out.setVol x0 h h0) h1

theorem Out.setWinTstore (x0 : List (Nat × Byte)) (x1 : List (Nat × Byte)) (h : Out l s u) (h0 : Key.sub [.p .win] l = true) (h1 : Key.sub [.p .tstore] l = true) :
    Out l s { u with win := x0, tstore := x1 } :=
  Out.setTstore x1 (Out.setWin x0 h h0) h1

theorem Out.setZonesBandsVolPoints (x0 : List (Nat × Option Zone)) (x1 : List (Nat × Option Band)) (x2 : List (Nat × Option Vol)) (x3 : List (Nat × List Nat)) (h : Out l s u) (h0 : Key.sub [.p .zones] l = true) (h1 : Key.sub [.p .bands] l = true) (h2 : Key.sub [.p .vol] l = true) (h3 : Key.sub [.p .points] l = true) :
    Out l s { u with zones := x0, bands := x1, vol := x2, points := x3 } :=
  Out.setPoints x3 (Out.setVol x2 (Out.setBands x1 (Out.setZones x0 h h0) h1) h2) h3

theorem Out.setZonesVolDur (x0 : List (Nat × Option Zone)) (x1 : List (Nat × Option Vol)) (x2 : List (Nat × Block)) (h : Out l s u) (h0 : Key.sub [.p .zones] l = true) (h1 : Key.sub [.p .vol] l = true) (h2 : Key.sub [.p .dur] l = true) :
    Out l s { u with zones := x0, vol := x1, dur := x2 } :=
  Out.setDur x2 (Out.setVol x1 (Out.setZones x0 h h0) h1) h2

end Sys2Proof.Machine
end

