-- ==== Sys2Proof/Laws/OutOps.lean ====
section
/-!
SUPPORT. What each operation and each command of `Machine/Ops.lean` can change.
-/

namespace Sys2Proof.Machine

set_option Elab.async false
set_option linter.unusedVariables false

set_option maxRecDepth 8000
set_option linter.unusedTactic false
set_option linter.unreachableTactic false

variable {L₀ : List Key} {s₀ : State}

theorem State.putWin_out {s : State} (blk : Nat) (sel : Nat) (off : Nat) (bs : List Byte) (h₀ : Out L₀ s₀ s)
    (hL : Key.sub [.p .win] L₀ = true) :
    Out L₀ s₀ (State.putWin s blk sel off bs) := by
  unfold State.putWin
  repeat'
    first
      | with_reducible assumption | exact Key.hasA rfl | exact Key.hasW | exact Out.sub hL rfl | intro _
      | with_reducible apply Out.ite | split | dsimp only [id_eq]
      | (rename_i e; with_reducible refine Out.of_eq e ?_) | with_reducible apply Out.setWin

theorem State.setRop_out {s : State} (a : Nat) (r : ReadOp) (h₀ : Out L₀ s₀ s)
    (hL : Key.sub [.p .chn] L₀ = true) :
    Out L₀ s₀ (State.setRop s a r) := by
  unfold State.setRop
  repeat'
    first
      | with_reducible assumption | exact Key.hasA rfl | exact Key.hasW | exact Out.sub hL rfl | intro _
      | with_reducible apply Out.ite | split | dsimp only [id_eq]
      | (rename_i e; with_reducible refine Out.of_eq e ?_) | with_reducible apply Out.setChn

theorem State.setSeqr_out {s : State} (a : Nat) (r : SeqRun) (h₀ : Out L₀ s₀ s)
    (hL : Key.sub [.p .seqs] L₀ = true) :
    Out L₀ s₀ (State.setSeqr s a r) := by
  unfold State.setSeqr
  repeat'
    first
      | with_reducible assumption | exact Key.hasA rfl | exact Key.hasW | exact Out.sub hL rfl | intro _
      | with_reducible apply Out.ite | split | dsimp only [id_eq]
      | (rename_i e; with_reducible refine Out.of_eq e ?_) | with_reducible apply Out.setSeqs

theorem State.setJugq_out {s : State} (a : Nat) (q : List Job) (h₀ : Out L₀ s₀ s)
    (hL : Key.sub [.a 2 32 4, .p .jq] L₀ = true) :
    Out L₀ s₀ (State.setJugq s a q) := by
  unfold State.setJugq
  repeat'
    first
      | with_reducible assumption | with_reducible apply Out.put | exact Key.hasA rfl | exact Key.hasW
      | exact Out.sub hL rfl | intro _ | with_reducible apply Out.ite | split | dsimp only [id_eq]
      | (rename_i e; with_reducible refine Out.of_eq e ?_) | with_reducible apply Out.setJq

theorem State.setJob_out {s : State} (a : Nat) (j : Option Job) (h₀ : Out L₀ s₀ s)
    (hL : Key.sub [.p .jact] L₀ = true) :
    Out L₀ s₀ (State.setJob s a j) := by
  unfold State.setJob
  repeat'
    first
      | with_reducible assumption | exact Key.hasA rfl | exact Key.hasW | exact Out.sub hL rfl | intro _
      | with_reducible apply Out.ite | split | dsimp only [id_eq]
      | (rename_i e; with_reducible refine Out.of_eq e ?_) | with_reducible apply Out.setJact

theorem State.addJob_out {s : State} (a : Nat) (j : Job) (h₀ : Out L₀ s₀ s)
    (hL : Key.sub [.a 2 32 4, .p .jq, .p .jobNo] L₀ = true) :
    Out L₀ s₀ (State.addJob s a j) := by
  unfold State.addJob
  repeat'
    first
      | with_reducible assumption | with_reducible apply State.setJugq_out | exact Key.hasA rfl | exact Key.hasW
      | exact Out.sub hL rfl | intro _ | with_reducible apply Out.ite | split | dsimp only [id_eq]
      | (rename_i e; with_reducible refine Out.of_eq e ?_) | with_reducible apply Out.setJobNo

theorem State.paSet_out {s : State} (a : Nat) (hsel : Nat) (addr : Nat) (v : Nat) (h₀ : Out L₀ s₀ s)
    (hL : Key.sub [.p .pa] L₀ = true) :
    Out L₀ s₀ (State.paSet s a hsel addr v) := by
  unfold State.paSet
  repeat'
    first
      | with_reducible assumption | exact Key.hasA rfl | exact Key.hasW | exact Out.sub hL rfl | intro _
      | with_reducible apply Out.ite | split | dsimp only [id_eq]
      | (rename_i e; with_reducible refine Out.of_eq e ?_) | with_reducible apply Out.setPa

theorem State.paPut_out {s : State} (a : Nat) (hsel : Nat) (addr : Nat) (v : Nat) (h₀ : Out L₀ s₀ s)
    (hL : Key.sub [.w 18 20578304, .p .pa] L₀ = true) :
    Out L₀ s₀ (State.paPut s a hsel addr v) := by
  unfold State.paPut
  repeat'
    first
      | with_reducible assumption | with_reducible apply Out.put | with_reducible apply State.paSet_out
      | exact Key.hasA rfl | exact Key.hasW | exact Out.sub hL rfl | intro _ | with_reducible apply Out.ite | split
      | dsimp only [id_eq] | (rename_i e; with_reducible refine Out.of_eq e ?_)

theorem State.setBstore_out {s : State} (a : Nat) (l : List BarkerWord) (h₀ : Out L₀ s₀ s)
    (hL : Key.sub [.p .bstore] L₀ = true) :
    Out L₀ s₀ (State.setBstore s a l) := by
  unfold State.setBstore
  repeat'
    first
      | with_reducible assumption | exact Key.hasA rfl | exact Key.hasW | exact Out.sub hL rfl | intro _
      | with_reducible apply Out.ite | split | dsimp only [id_eq]
      | (rename_i e; with_reducible refine Out.of_eq e ?_) | with_reducible apply Out.setBstore

theorem State.setBit_out {s : State} (f : Fld) (a : Nat) (b : Bool) (h₀ : Out L₀ s₀ s) {n_f : Key} (hk_f : n_f.has f) (hL_f : Key.sub [n_f] L₀ = true) :
    Out L₀ s₀ (State.setBit s f a b) := by
  unfold State.setBit
  repeat'
    first
      | with_reducible assumption | with_reducible apply Out.put | with_reducible exact hk_f
      | with_reducible exact hL_f | intro _ | with_reducible apply Out.ite | split | dsimp only [id_eq]

end Sys2Proof.Machine
end

