-- ==== Sys2Proof/Laws/OutActuator.lean ====
section
/-!
SUPPORT. What each operation and each command of `Machine/Actuator.lean` can change.
-/

namespace Sys2Proof.Machine

set_option Elab.async false
set_option linter.unusedVariables false

set_option maxRecDepth 8000
set_option linter.unusedTactic false
set_option linter.unreachableTactic false

variable {L₀ : List Key} {s₀ : State}

theorem State.setHeater_out {s : State} (a : Nat) (l : Nat) (z : Nat) (p : Nat) (h₀ : Out L₀ s₀ s)
    (hL : Key.sub [.w 18 20578304, .w 19 16, .p .edges, .p .inbox, .p .pa] L₀ = true) :
    Out L₀ s₀ (State.setHeater s a l z p) := by
  unfold State.setHeater
  repeat'
    first
      | with_reducible assumption | with_reducible apply Out.post | with_reducible apply Out.evt
      | with_reducible apply State.paPut_out | exact Key.hasA rfl | exact Key.hasW | exact Out.sub hL rfl | intro _
      | with_reducible apply Out.ite | split | dsimp only [id_eq]
      | (rename_i e; with_reducible refine Out.of_eq e ?_)

theorem State.heaterBad_out {s : State} (a : Nat) (l : Nat) (z : Nat) (p : Nat) (h₀ : Out L₀ s₀ s)
    (hL : Key.sub [.w 18 20578304, .a 19 22478848 268435456, .p .inbox, .p .pa] L₀ = true) :
    Out L₀ s₀ (State.heaterBad s a l z p) := by
  unfold State.heaterBad
  repeat'
    first
      | with_reducible assumption | with_reducible apply Out.post | with_reducible apply Out.put
      | with_reducible apply State.paPut_out | exact Key.hasA rfl | exact Key.hasW | exact Out.sub hL rfl | intro _
      | with_reducible apply Out.ite | split | dsimp only [id_eq]
      | (rename_i e; with_reducible refine Out.of_eq e ?_)

/-- What `State.driveHeater` may change. -/
def driveHeaterOut : List Key :=
  [.w 18 20578304, .w 19 16, .a 19 22413312 268435456, .a 19 22478848 268435456,
    .p .edges, .p .inbox, .p .pa]

theorem State.driveHeater_out {s : State} (a : Nat) (l : Nat) (z : Nat) (write : Bool) (h₀ : Out L₀ s₀ s)
    (hL : Key.sub driveHeaterOut L₀ = true) :
    Out L₀ s₀ (State.driveHeater s a l z write) := by
  unfold State.driveHeater
  repeat'
    first
      | with_reducible assumption | with_reducible apply Out.put | with_reducible apply State.paPut_out
      | with_reducible apply State.heaterBad_out | with_reducible apply Out.post
      | with_reducible apply State.setHeater_out | exact Key.hasA rfl | exact Key.hasW | exact Out.sub hL rfl
      | intro _ | with_reducible apply Out.ite | split | dsimp only [id_eq]
      | (rename_i e; with_reducible refine Out.of_eq e ?_)

theorem State.idleHeater_out {s : State} (a : Nat) (h₀ : Out L₀ s₀ s)
    (hL : Key.sub driveHeaterOut L₀ = true) :
    Out L₀ s₀ (State.idleHeater s a) := by
  unfold State.idleHeater
  repeat'
    first
      | with_reducible assumption | with_reducible apply Out.put | with_reducible apply State.paPut_out
      | with_reducible apply State.heaterBad_out | with_reducible apply State.setHeater_out | exact Key.hasA rfl
      | exact Key.hasW | exact Out.sub hL rfl | intro _ | with_reducible apply Out.ite | split | dsimp only [id_eq]
      | (rename_i e; with_reducible refine Out.of_eq e ?_)

theorem State.biasOff_out {s : State} (a : Nat) (h₀ : Out L₀ s₀ s)
    (hL : Key.sub [.w 18 786432, .w 18 20578304, .p .pa] L₀ = true) :
    Out L₀ s₀ (State.biasOff s a) := by
  unfold State.biasOff
  repeat'
    first
      | with_reducible assumption | with_reducible apply Out.when | with_reducible apply Out.put
      | with_reducible apply State.paPut_out | exact Key.hasA rfl | exact Key.hasW | exact Out.sub hL rfl | intro _
      | with_reducible apply Out.ite | split | dsimp only [id_eq]
      | (rename_i e; with_reducible refine Out.of_eq e ?_)

/-- What `State.opEnded` may change. -/
def opEndedOut : List Key :=
  [.w 18 786432, .w 18 20578304, .w 19 16, .a 19 1310720 268435456,
    .a 19 1376256 268435456, .a 19 22413312 268435456, .a 19 22478848 268435456, .p .edges, .p .inbox, .p .pa]

theorem State.opEnded_out {s : State} (a : Nat) (h₀ : Out L₀ s₀ s)
    (hL : Key.sub opEndedOut L₀ = true) :
    Out L₀ s₀ (State.opEnded s a) := by
  unfold State.opEnded
  repeat'
    first
      | with_reducible assumption | with_reducible apply State.idleHeater_out | with_reducible apply Out.puts_nil
      | with_reducible apply Out.puts_cons | with_reducible apply Out.put | with_reducible apply State.biasOff_out
      | exact Key.hasA rfl | exact Key.hasW | exact Out.sub hL rfl | intro _ | with_reducible apply Out.ite | split
      | dsimp only [id_eq] | (rename_i e; with_reducible refine Out.of_eq e ?_)

theorem State.writeAbort_out {s : State} (a : Nat) (latch : Bool) (h₀ : Out L₀ s₀ s)
    (hL : Key.sub [.w 18 8, .w 18 12, .w 18 72, .p .edges, .p .inbox] L₀ = true) :
    Out L₀ s₀ (State.writeAbort s a latch) := by
  unfold State.writeAbort
  repeat'
    first
      | with_reducible assumption | with_reducible apply Out.when | with_reducible apply Out.count
      | with_reducible apply Out.evt | with_reducible apply Out.put | with_reducible apply Out.post
      | exact Key.hasA rfl | exact Key.hasW | exact Out.sub hL rfl | intro _ | with_reducible apply Out.ite | split
      | dsimp only [id_eq] | (rename_i e; with_reducible refine Out.of_eq e ?_)

theorem State.rungOfs_out {s : State} (a : Nat) (rung : Nat) (step : Nat) (h₀ : Out L₀ s₀ s)
    (hL : Key.sub [.w 14 24, .w 14 4259840, .w 14 4325376] L₀ = true) :
    Out L₀ s₀ (State.rungOfs s a rung step) := by
  unfold State.rungOfs
  repeat'
    first
      | with_reducible assumption | with_reducible apply Out.puts_nil | with_reducible apply Out.puts_cons
      | with_reducible apply Out.put | exact Key.hasA rfl | exact Key.hasW | exact Out.sub hL rfl | intro _
      | with_reducible apply Out.ite | split | dsimp only [id_eq]
      | (rename_i e; with_reducible refine Out.of_eq e ?_)

theorem State.dropRead_out {s : State} (a : Nat) (h₀ : Out L₀ s₀ s)
    (hL : Key.sub [.w 12 8, .w 14 24, .w 14 4259840, .w 14 4325376, .p .chn] L₀ = true) :
    Out L₀ s₀ (State.dropRead s a) := by
  unfold State.dropRead
  repeat'
    first
      | with_reducible assumption | with_reducible apply Out.put | with_reducible apply State.setRop_out
      | with_reducible apply Out.when | with_reducible apply State.rungOfs_out | exact Key.hasA rfl | exact Key.hasW
      | exact Out.sub hL rfl | intro _ | with_reducible apply Out.ite | split | dsimp only [id_eq]
      | (rename_i e; with_reducible refine Out.of_eq e ?_)

theorem State.toIdle_out {s : State} (a : Nat) (h₀ : Out L₀ s₀ s)
    (hL : Key.sub [.w 13 8] L₀ = true) :
    Out L₀ s₀ (State.toIdle s a) := by
  unfold State.toIdle
  repeat'
    first
      | with_reducible assumption | with_reducible apply Out.puts_nil | with_reducible apply Out.puts_cons
      | with_reducible apply Out.put | exact Key.hasA rfl | exact Key.hasW | exact Out.sub hL rfl | intro _
      | with_reducible apply Out.ite | split | dsimp only [id_eq]
      | (rename_i e; with_reducible refine Out.of_eq e ?_)

theorem State.stopRoutine_out {s : State} (a : Nat) (h₀ : Out L₀ s₀ s)
    (hL : Key.sub [.w 12 8, .w 13 8, .w 13 20250624, .w 14 8, .w 14 24, .w 14 4259840, .w 14 4325376, .w 18 8, .w 18 786432,
    .w 18 20578304, .w 19 16, .a 19 1310720 268435456, .a 19 1376256 268435456, .a 19 22413312 268435456,
    .a 19 22478848 268435456, .p .edges, .p .inbox, .p .chn, .p .seqs, .p .pa] L₀ = true) :
    Out L₀ s₀ (State.stopRoutine s a) := by
  unfold State.stopRoutine
  repeat'
    first
      | with_reducible assumption | with_reducible apply State.opEnded_out | with_reducible apply State.dropRead_out
      | with_reducible apply Out.puts_append | with_reducible apply Out.puts_nil | with_reducible apply Out.puts_cons
      | with_reducible apply Out.put | with_reducible apply State.setSeqr_out | exact Key.hasA rfl | exact Key.hasW
      | exact Out.sub hL rfl | intro _ | with_reducible apply Out.ite | split | dsimp only [id_eq]
      | (rename_i e; with_reducible refine Out.of_eq e ?_)

theorem State.abandon_out {s : State} (a : Nat) (cause : Nat) (h₀ : Out L₀ s₀ s)
    (hL : Key.sub [.w 12 8, .w 13 8, .w 13 12, .w 13 76, .w 13 1572864, .w 13 2359296, .w 13 2424832, .w 13 20250624, .w 14 8,
    .w 14 24, .w 14 4259840, .w 14 4325376, .w 18 8, .w 18 786432, .w 18 20578304, .w 19 16,
    .a 19 1310720 268435456, .a 19 1376256 268435456, .a 19 22413312 268435456, .a 19 22478848 268435456, .p .edges,
    .p .inbox, .p .chn, .p .seqs, .p .pa] L₀ = true) :
    Out L₀ s₀ (State.abandon s a cause) := by
  unfold State.abandon
  repeat'
    first
      | with_reducible assumption | with_reducible apply Out.seqCount | with_reducible apply Out.put
      | with_reducible apply Out.evt | with_reducible apply State.toIdle_out
      | with_reducible apply State.stopRoutine_out | exact Key.hasA rfl | exact Key.hasW | exact Out.sub hL rfl
      | intro _ | with_reducible apply Out.ite | split | dsimp only [id_eq]
      | (rename_i e; with_reducible refine Out.of_eq e ?_)

/-- What `State.endWrite` may change. -/
def endWriteOut : List Key :=
  [.w 12 8, .w 13 8, .w 13 12, .w 13 76, .w 13 1572864, .w 13 2359296, .w 13 2424832,
    .w 13 20250624, .w 14 8, .w 14 24, .w 14 4259840, .w 14 4325376, .w 18 8, .w 18 12, .w 18 72, .w 18 786432,
    .w 18 20578304, .w 19 16, .a 19 1310720 268435456, .a 19 1376256 268435456, .a 19 22413312 268435456,
    .a 19 22478848 268435456, .p .edges, .p .inbox, .p .chn, .p .seqs, .p .pa]

theorem State.endWrite_out {s : State} (a : Nat) (cause : Nat) (latch : Bool) (h₀ : Out L₀ s₀ s)
    (hL : Key.sub endWriteOut L₀ = true) :
    Out L₀ s₀ (State.endWrite s a cause latch) := by
  unfold State.endWrite
  repeat'
    first
      | with_reducible assumption | with_reducible apply State.abandon_out | with_reducible apply Out.when
      | with_reducible apply State.writeAbort_out | exact Key.hasA rfl | exact Key.hasW | exact Out.sub hL rfl
      | intro _ | with_reducible apply Out.ite | split | dsimp only [id_eq]
      | (rename_i e; with_reducible refine Out.of_eq e ?_)

theorem State.permOff_out {s : State} (a : Nat) (why : Nat) (h₀ : Out L₀ s₀ s)
    (hL : Key.sub [.w 14 8, .w 14 12, .w 14 84, .w 14 3538944, .p .edges, .p .inbox] L₀ = true) :
    Out L₀ s₀ (State.permOff s a why) := by
  unfold State.permOff
  repeat'
    first
      | with_reducible assumption | with_reducible apply Out.when | with_reducible apply Out.put
      | with_reducible apply Out.post | with_reducible apply Out.count | with_reducible apply Out.evt
      | exact Key.hasA rfl | exact Key.hasW | exact Out.sub hL rfl | intro _ | with_reducible apply Out.ite | split
      | dsimp only [id_eq] | (rename_i e; with_reducible refine Out.of_eq e ?_)

/-- What `State.withdraw` may change. -/
def withdrawOut : List Key :=
  [.w 12 8, .w 13 8, .w 13 12, .w 13 76, .w 13 1572864, .w 13 2359296, .w 13 2424832,
    .w 13 20250624, .w 14 8, .w 14 12, .w 14 24, .w 14 84, .w 14 3538944, .w 14 4259840, .w 14 4325376, .w 18 8,
    .w 18 12, .w 18 72, .w 18 786432, .w 18 20578304, .w 19 16, .a 19 1310720 268435456, .a 19 1376256 268435456,
    .a 19 22413312 268435456, .a 19 22478848 268435456, .p .edges, .p .inbox, .p .chn, .p .seqs, .p .pa]

theorem State.withdraw_out {s : State} (a : Nat) (why : Nat) (h₀ : Out L₀ s₀ s)
    (hL : Key.sub withdrawOut L₀ = true) :
    Out L₀ s₀ (State.withdraw s a why) := by
  unfold State.withdraw
  repeat'
    first
      | with_reducible assumption | with_reducible apply State.endWrite_out | with_reducible apply State.permOff_out
      | exact Key.hasA rfl | exact Key.hasW | exact Out.sub hL rfl | intro _ | with_reducible apply Out.ite | split
      | dsimp only [id_eq] | (rename_i e; with_reducible refine Out.of_eq e ?_)

theorem State.withdrawMove_out {s : State} (a : Nat) (h₀ : Out L₀ s₀ s)
    (hL : Key.sub withdrawOut L₀ = true) :
    Out L₀ s₀ (State.withdrawMove s a) := by
  unfold State.withdrawMove
  repeat'
    first
      | with_reducible assumption | with_reducible apply State.withdraw_out | with_reducible apply Out.when
      | with_reducible apply State.permOff_out | exact Key.hasA rfl | exact Key.hasW | exact Out.sub hL rfl | intro _
      | with_reducible apply Out.ite | split | dsimp only [id_eq]
      | (rename_i e; with_reducible refine Out.of_eq e ?_)

theorem State.releaseHold_out {s : State} (a : Nat) (h₀ : Out L₀ s₀ s)
    (hL : Key.sub [.a 2 32 4] L₀ = true) :
    Out L₀ s₀ (State.releaseHold s a) := by
  unfold State.releaseHold
  repeat'
    first
      | with_reducible assumption | with_reducible apply Out.put | with_reducible apply Out.putB | exact Key.hasA rfl
      | exact Key.hasW | exact Out.sub hL rfl | intro _ | with_reducible apply Out.ite | split | dsimp only [id_eq]
      | (rename_i e; with_reducible refine Out.of_eq e ?_)

theorem State.ladderRestart_out {s : State} (a : Nat) (h₀ : Out L₀ s₀ s)
    (hL : Key.sub [.a 2 32 4, .w 12 8, .w 14 24, .w 14 4259840, .w 14 4325376, .p .chn, .p .seqs, .p .jq, .p .jact] L₀ = true) :
    Out L₀ s₀ (State.ladderRestart s a) := by
  unfold State.ladderRestart
  repeat'
    first
      | with_reducible assumption | with_reducible apply State.dropRead_out | with_reducible apply State.setSeqr_out
      | with_reducible apply Out.when | with_reducible apply State.setJob_out
      | with_reducible apply State.setJugq_out | with_reducible apply State.releaseHold_out | exact Key.hasA rfl
      | exact Key.hasW | exact Out.sub hL rfl | intro _ | with_reducible apply Out.ite | split | dsimp only [id_eq]
      | (rename_i e; with_reducible refine Out.of_eq e ?_)

theorem State.showTherm_out {s : State} (h₀ : Out L₀ s₀ s)
    (hL : Key.sub [.a 2 32 4] L₀ = true) :
    Out L₀ s₀ (State.showTherm s) := by
  unfold State.showTherm
  repeat'
    first
      | with_reducible assumption | with_reducible apply Out.forAll | with_reducible apply State.releaseHold_out
      | exact Key.hasA rfl | exact Key.hasW | exact Out.sub hL rfl | intro _ | with_reducible apply Out.ite | split
      | dsimp only [id_eq] | (rename_i e; with_reducible refine Out.of_eq e ?_)

/-- What `State.tdAbort` may change. -/
def tdAbortOut : List Key :=
  [.a 2 32 4, .w 18 20578304, .w 19 12, .w 19 16, .w 19 1114112, .w 19 1179648,
    .a 19 22413312 268435456, .p .edges, .p .inbox, .p .pa]

theorem State.tdAbort_out {s : State} (cause : Nat) (h₀ : Out L₀ s₀ s)
    (hL : Key.sub tdAbortOut L₀ = true) :
    Out L₀ s₀ (State.tdAbort s cause) := by
  unfold State.tdAbort
  repeat'
    first
      | with_reducible assumption | with_reducible apply Out.put | with_reducible apply State.releaseHold_out
      | with_reducible apply Out.post | with_reducible apply Out.evt | with_reducible apply Out.puts_nil
      | with_reducible apply Out.puts_cons | with_reducible apply State.paPut_out | exact Key.hasA rfl
      | exact Key.hasW | exact Out.sub hL rfl | intro _ | with_reducible apply Out.ite | split | dsimp only [id_eq]
      | (rename_i e; with_reducible refine Out.of_eq e ?_)

theorem State.tdAbortOn_out {s : State} (a : Nat) (cause : Nat) (h₀ : Out L₀ s₀ s)
    (hL : Key.sub tdAbortOut L₀ = true) :
    Out L₀ s₀ (State.tdAbortOn s a cause) := by
  unfold State.tdAbortOn
  repeat'
    first
      | with_reducible assumption | with_reducible apply Out.when | with_reducible apply State.tdAbort_out
      | exact Key.hasA rfl | exact Key.hasW | exact Out.sub hL rfl | intro _ | with_reducible apply Out.ite | split
      | dsimp only [id_eq] | (rename_i e; with_reducible refine Out.of_eq e ?_)

theorem State.refreshFeed_out {s : State} (h₀ : Out L₀ s₀ s)
    (hL : Key.sub [.w 14 8] L₀ = true) :
    Out L₀ s₀ (State.refreshFeed s) := by
  unfold State.refreshFeed
  repeat'
    first
      | with_reducible assumption | with_reducible apply Out.forAll | with_reducible apply Out.putB
      | exact Key.hasA rfl | exact Key.hasW | exact Out.sub hL rfl | intro _ | with_reducible apply Out.ite | split
      | dsimp only [id_eq] | (rename_i e; with_reducible refine Out.of_eq e ?_)

theorem State.setSrv_out {s : State} (a : Nat) (st : Nat) (h₀ : Out L₀ s₀ s)
    (hL : Key.sub [.w 14 8, .w 14 3211264, .w 14 3342336, .w 14 3407872, .w 14 3473408] L₀ = true) :
    Out L₀ s₀ (State.setSrv s a st) := by
  unfold State.setSrv
  repeat'
    first
      | with_reducible assumption | with_reducible apply State.refreshFeed_out | with_reducible apply Out.puts_nil
      | with_reducible apply Out.puts_cons | with_reducible apply Out.put | exact Key.hasA rfl | exact Key.hasW
      | exact Out.sub hL rfl | intro _ | with_reducible apply Out.ite | split | dsimp only [id_eq]
      | (rename_i e; with_reducible refine Out.of_eq e ?_)

/-- What `State.goTrack` may change. -/
def goTrackOut : List Key :=
  [.w 12 8, .w 13 8, .w 13 12, .w 13 76, .w 13 1572864, .w 13 2359296, .w 13 2424832,
    .w 13 20250624, .w 14 8, .w 14 12, .w 14 20, .w 14 24, .w 14 84, .w 14 3211264, .w 14 3342336, .w 14 3407872,
    .w 14 3473408, .w 14 3538944, .w 14 3604480, .w 14 3670016, .w 14 3735552, .w 14 4194304, .w 14 4259840,
    .w 14 4325376, .w 14 21233664, .w 14 21692416, .w 14 22282240, .w 18 8, .w 18 12, .w 18 72, .w 18 786432,
    .w 18 20578304, .w 19 16, .a 19 1310720 268435456, .a 19 1376256 268435456, .a 19 22413312 268435456,
    .a 19 22478848 268435456, .p .edges, .p .inbox, .p .chn, .p .seqs, .p .pa, .p .amps]

theorem State.goTrack_out {s : State} (a : Nat) (l : Nat) (track : Nat) (h₀ : Out L₀ s₀ s)
    (hL : Key.sub goTrackOut L₀ = true) :
    Out L₀ s₀ (State.goTrack s a l track) := by
  unfold State.goTrack
  repeat'
    first
      | with_reducible assumption | with_reducible apply Out.when | with_reducible apply State.withdrawMove_out
      | with_reducible apply Out.puts_nil | with_reducible apply Out.puts_cons | with_reducible apply Out.put
      | with_reducible apply State.paPut_out | with_reducible apply State.idleHeater_out
      | with_reducible apply State.setSrv_out | exact Key.hasA rfl | exact Key.hasW | exact Out.sub hL rfl | intro _
      | with_reducible apply Out.ite | split | dsimp only [id_eq]
      | (rename_i e; with_reducible refine Out.of_eq e ?_) | with_reducible apply Out.setAmps

/-- What `State.toUnloading` may change. -/
def toUnloadingOut : List Key :=
  [.a 2 32 4, .w 12 8, .w 13 8, .w 13 12, .w 13 76, .w 13 1572864, .w 13 2359296,
    .w 13 2424832, .w 13 20250624, .w 14 8, .w 14 12, .w 14 24, .w 14 84, .w 14 3211264, .w 14 3342336,
    .w 14 3407872, .w 14 3473408, .w 14 3538944, .w 14 4194304, .w 14 4259840, .w 14 4325376, .w 14 21692416,
    .w 14 21757952, .w 14 22675456, .w 14 22806528, .w 18 8, .w 18 12, .w 18 72, .w 18 786432, .w 18 20578304,
    .w 19 12, .w 19 16, .w 19 1114112, .w 19 1179648, .a 19 1310720 268435456, .a 19 1376256 268435456,
    .a 19 22413312 268435456, .a 19 22478848 268435456, .p .edges, .p .inbox, .p .chn, .p .seqs, .p .pa, .p .jq,
    .p .jact]

theorem State.toUnloading_out {s : State} (a : Nat) (h₀ : Out L₀ s₀ s)
    (hL : Key.sub toUnloadingOut L₀ = true) :
    Out L₀ s₀ (State.toUnloading s a) := by
  unfold State.toUnloading
  repeat'
    first
      | with_reducible assumption | with_reducible apply State.setSrv_out | with_reducible apply Out.puts_nil
      | with_reducible apply Out.puts_cons | with_reducible apply Out.put | with_reducible apply State.withdraw_out
      | with_reducible apply State.tdAbortOn_out | with_reducible apply State.endWrite_out
      | with_reducible apply State.ladderRestart_out | exact Key.hasA rfl | exact Key.hasW | exact Out.sub hL rfl
      | intro _ | with_reducible apply Out.ite | split | dsimp only [id_eq]
      | (rename_i e; with_reducible refine Out.of_eq e ?_)

theorem State.unloadNow_out {s : State} (a : Nat) (h₀ : Out L₀ s₀ s)
    (hL : Key.sub toUnloadingOut L₀ = true) :
    Out L₀ s₀ (State.unloadNow s a) := by
  unfold State.unloadNow
  repeat'
    first
      | with_reducible assumption | with_reducible apply Out.put | with_reducible apply State.toUnloading_out
      | exact Key.hasA rfl | exact Key.hasW | exact Out.sub hL rfl | intro _ | with_reducible apply Out.ite | split
      | dsimp only [id_eq] | (rename_i e; with_reducible refine Out.of_eq e ?_)

/-- What `State.toUnloaded` may change. -/
def toUnloadedOut : List Key :=
  [.w 14 8, .w 14 12, .w 14 3211264, .w 14 3342336, .w 14 3407872, .w 14 3473408,
    .w 14 4784128, .w 14 21757952, .a 17 13697024 268435456, .w 18 20578304, .p .edges, .p .pa]

theorem State.toUnloaded_out {s : State} (a : Nat) (h₀ : Out L₀ s₀ s)
    (hL : Key.sub toUnloadedOut L₀ = true) :
    Out L₀ s₀ (State.toUnloaded s a) := by
  unfold State.toUnloaded
  repeat'
    first
      | with_reducible assumption | with_reducible apply State.setSrv_out | with_reducible apply Out.evt
      | with_reducible apply State.paPut_out | with_reducible apply Out.put | with_reducible apply Out.puts_nil
      | with_reducible apply Out.puts_cons | exact Key.hasA rfl | exact Key.hasW | exact Out.sub hL rfl | intro _
      | with_reducible apply Out.ite | split | dsimp only [id_eq]
      | (rename_i e; with_reducible refine Out.of_eq e ?_)

/-- What `State.unloadRequest` may change. -/
def unloadRequestOut : List Key :=
  [.a 2 32 4, .w 12 8, .w 13 8, .w 13 12, .w 13 76, .w 13 1572864, .w 13 2359296,
    .w 13 2424832, .w 13 20250624, .w 14 8, .w 14 12, .w 14 24, .w 14 84, .w 14 3211264, .w 14 3342336,
    .w 14 3407872, .w 14 3473408, .w 14 3538944, .w 14 4128768, .w 14 4194304, .w 14 4259840, .w 14 4325376,
    .w 14 4784128, .w 14 21692416, .w 14 21757952, .w 14 22675456, .w 14 22806528, .w 18 8, .w 18 12, .w 18 72,
    .w 18 786432, .w 18 20578304, .w 19 12, .w 19 16, .w 19 1114112, .w 19 1179648, .a 19 1310720 268435456,
    .a 19 1376256 268435456, .a 19 22413312 268435456, .a 19 22478848 268435456, .p .edges, .p .inbox, .p .chn,
    .p .seqs, .p .pa, .p .jq, .p .jact]

theorem State.unloadRequest_out {s : State} (a : Nat) (soon : Bool) (h₀ : Out L₀ s₀ s)
    (hL : Key.sub unloadRequestOut L₀ = true) :
    Out L₀ s₀ (State.unloadRequest s a soon) := by
  unfold State.unloadRequest
  repeat'
    first
      | with_reducible assumption | with_reducible apply State.unloadNow_out | with_reducible apply Out.put
      | exact Key.hasA rfl | exact Key.hasW | exact Out.sub hL rfl | intro _ | with_reducible apply Out.ite | split
      | dsimp only [id_eq] | (rename_i e; with_reducible refine Out.of_eq e ?_)

theorem State.resumeOp1_out {s : State} (o : MOp) (h₀ : Out L₀ s₀ s)
    (hL : Key.sub [.w 11 12, .w 11 84, .p .edges, .p .inbox] L₀ = true) :
    Out L₀ s₀ (State.resumeOp1 s o) := by
  unfold State.resumeOp1
  repeat'
    first
      | with_reducible assumption | with_reducible apply Out.post | with_reducible apply Out.count
      | exact Key.hasA rfl | exact Key.hasW | exact Out.sub hL rfl | intro _ | with_reducible apply Out.ite | split
      | dsimp only [id_eq] | (rename_i e; with_reducible refine Out.of_eq e ?_)

theorem State.unpause_out {s : State} (h₀ : Out L₀ s₀ s)
    (hL : Key.sub [.w 11 12, .w 11 84, .p .edges, .p .inbox, .p .mops] L₀ = true) :
    Out L₀ s₀ (State.unpause s) := by
  unfold State.unpause
  repeat'
    first
      | with_reducible assumption | with_reducible apply Out.forAll | with_reducible apply State.resumeOp1_out
      | exact Key.hasA rfl | exact Key.hasW | exact Out.sub hL rfl | intro _ | with_reducible apply Out.ite | split
      | dsimp only [id_eq] | (rename_i e; with_reducible refine Out.of_eq e ?_) | with_reducible apply Out.setMops

theorem State.setPs_out {s : State} (n : Nat) (h₀ : Out L₀ s₀ s)
    (hL : Key.sub [.w 11 12, .w 11 84, .w 22 8, .w 22 12, .p .edges, .p .inbox, .p .mops] L₀ = true) :
    Out L₀ s₀ (State.setPs s n) := by
  unfold State.setPs
  repeat'
    first
      | with_reducible assumption | with_reducible apply Out.post | with_reducible apply Out.edge
      | with_reducible apply Out.evt | with_reducible apply Out.put | with_reducible apply Out.when
      | with_reducible apply State.unpause_out | exact Key.hasA rfl | exact Key.hasW | exact Out.sub hL rfl | intro _
      | with_reducible apply Out.ite | split | dsimp only [id_eq]
      | (rename_i e; with_reducible refine Out.of_eq e ?_)

end Sys2Proof.Machine
end

