-- ==== Sys2Proof/Laws/OutPocket.lean ====
section
/-!
SUPPORT. What each operation and each command of `Machine/Pocket.lean` can change.
-/

namespace Sys2Proof.Machine

set_option Elab.async false
set_option linter.unusedVariables false

set_option maxRecDepth 8000
set_option linter.unusedTactic false
set_option linter.unreachableTactic false

variable {L₀ : List Key} {s₀ : State}

theorem State.showPkt_out {s : State} (h₀ : Out L₀ s₀ s)
    (hL : Key.sub [.w 10 24] L₀ = true) :
    Out L₀ s₀ (State.showPkt s) := by
  unfold State.showPkt
  repeat'
    first
      | with_reducible assumption | with_reducible apply Out.put | exact Key.hasA rfl | exact Key.hasW
      | exact Out.sub hL rfl | intro _ | with_reducible apply Out.ite | split | dsimp only [id_eq]
      | (rename_i e; with_reducible refine Out.of_eq e ?_)

theorem State.setLine_out {s : State} (set : Nat) (way : Nat) (l : Option Line) (h₀ : Out L₀ s₀ s)
    (hL : Key.sub [.p .pkt] L₀ = true) :
    Out L₀ s₀ (State.setLine s set way l) := by
  unfold State.setLine
  repeat'
    first
      | with_reducible assumption | exact Key.hasA rfl | exact Key.hasW | exact Out.sub hL rfl | intro _
      | with_reducible apply Out.ite | split | dsimp only [id_eq]
      | (rename_i e; with_reducible refine Out.of_eq e ?_) | with_reducible apply Out.setPkt

theorem State.unpoison_out {s : State} (adr : Nat) (n : Nat) (h₀ : Out L₀ s₀ s)
    (hL : Key.sub [.p .poison] L₀ = true) :
    Out L₀ s₀ (State.unpoison s adr n) := by
  unfold State.unpoison
  repeat'
    first
      | with_reducible assumption | exact Key.hasA rfl | exact Key.hasW | exact Out.sub hL rfl | intro _
      | with_reducible apply Out.ite | split | dsimp only [id_eq]
      | (rename_i e; with_reducible refine Out.of_eq e ?_) | with_reducible apply Out.setPoison

theorem State.hbmWrite_out {s : State} (adr : Nat) (bs : List Byte) (h₀ : Out L₀ s₀ s)
    (hL : Key.sub [.p .hbm, .p .poison] L₀ = true) :
    Out L₀ s₀ (State.hbmWrite s adr bs) := by
  unfold State.hbmWrite
  repeat'
    first
      | with_reducible assumption | with_reducible apply State.unpoison_out | exact Key.hasA rfl | exact Key.hasW
      | exact Out.sub hL rfl | intro _ | with_reducible apply Out.ite | split | dsimp only [id_eq]
      | (rename_i e; with_reducible refine Out.of_eq e ?_) | with_reducible apply Out.setHbm

theorem State.writeBack_out {s : State} (set : Nat) (way : Nat) (h₀ : Out L₀ s₀ s)
    (hL : Key.sub [.p .pkt, .p .hbm, .p .poison] L₀ = true) :
    Out L₀ s₀ (State.writeBack s set way) := by
  unfold State.writeBack
  repeat'
    first
      | with_reducible assumption | with_reducible apply State.setLine_out | with_reducible apply State.hbmWrite_out
      | exact Key.hasA rfl | exact Key.hasW | exact Out.sub hL rfl | intro _ | with_reducible apply Out.ite | split
      | dsimp only [id_eq] | (rename_i e; with_reducible refine Out.of_eq e ?_)

theorem State.victim_out {s : State} (c : Nat) (set : Nat) (h₀ : Out L₀ s₀ s)
    (hL : Key.sub [.w 10 20] L₀ = true) :
    Out L₀ s₀ (State.victim s c set).1 := by
  unfold State.victim
  repeat'
    first
      | with_reducible assumption | with_reducible apply Out.put | exact Key.hasA rfl | exact Key.hasW
      | exact Out.sub hL rfl | intro _ | with_reducible apply Out.ite | split | dsimp only [id_eq]
      | (rename_i e; with_reducible refine Out.of_eq e ?_)

theorem State.srefOff_out {s : State} (h₀ : Out L₀ s₀ s)
    (hL : Key.sub [.w 9 8] L₀ = true) :
    Out L₀ s₀ (State.srefOff s) := by
  unfold State.srefOff
  repeat'
    first
      | with_reducible assumption | with_reducible apply Out.puts_nil | with_reducible apply Out.puts_cons
      | with_reducible apply Out.put | exact Key.hasA rfl | exact Key.hasW | exact Out.sub hL rfl | intro _
      | with_reducible apply Out.ite | split | dsimp only [id_eq]
      | (rename_i e; with_reducible refine Out.of_eq e ?_)

theorem State.pktAccess_out {s : State} (c : Nat) (line : Nat) (w : Option (Nat × List Byte)) (h₀ : Out L₀ s₀ s)
    (hL : Key.sub [.w 9 8, .w 10 20, .p .pkt, .p .hbm, .p .poison] L₀ = true) :
    Out L₀ s₀ (State.pktAccess s c line w) := by
  unfold State.pktAccess
  repeat'
    first
      | with_reducible assumption | with_reducible apply State.setLine_out | with_reducible apply State.hbmWrite_out
      | with_reducible apply Out.when | with_reducible apply State.srefOff_out
      | with_reducible apply State.victim_out | with_reducible apply State.writeBack_out | exact Key.hasA rfl
      | exact Key.hasW | exact Out.sub hL rfl | intro _ | with_reducible apply Out.ite | split | dsimp only [id_eq]
      | (rename_i e; with_reducible refine Out.of_eq e ?_)

theorem State.memPut_out {s : State} (c : Nat) (adr : Nat) (bs : List Byte) (h₀ : Out L₀ s₀ s)
    (hL : Key.sub [.w 9 8, .w 10 20, .w 10 24, .p .pkt, .p .hbm, .p .poison] L₀ = true) :
    Out L₀ s₀ (State.memPut s c adr bs) := by
  unfold State.memPut
  repeat'
    first
      | with_reducible assumption | with_reducible apply State.showPkt_out | with_reducible apply State.unpoison_out
      | with_reducible apply Out.forAll | with_reducible apply State.pktAccess_out | exact Key.hasA rfl
      | exact Key.hasW | exact Out.sub hL rfl | intro _ | with_reducible apply Out.ite | split | dsimp only [id_eq]
      | (rename_i e; with_reducible refine Out.of_eq e ?_)

theorem State.memTouch_out {s : State} (c : Nat) (adr : Nat) (n : Nat) (h₀ : Out L₀ s₀ s)
    (hL : Key.sub [.w 9 8, .w 10 20, .w 10 24, .p .pkt, .p .hbm, .p .poison] L₀ = true) :
    Out L₀ s₀ (State.memTouch s c adr n) := by
  unfold State.memTouch
  repeat'
    first
      | with_reducible assumption | with_reducible apply State.showPkt_out | with_reducible apply Out.forAll
      | with_reducible apply State.pktAccess_out | exact Key.hasA rfl | exact Key.hasW | exact Out.sub hL rfl
      | intro _ | with_reducible apply Out.ite | split | dsimp only [id_eq]
      | (rename_i e; with_reducible refine Out.of_eq e ?_)

theorem State.partRead_out {s : State} (c : Nat) (p : Nat) (key : Nat) (n : Nat) (h₀ : Out L₀ s₀ s)
    (hL : Key.sub [.w 9 8, .w 10 20, .w 10 24, .p .pkt, .p .hbm, .p .poison] L₀ = true) :
    Out L₀ s₀ (State.partRead s c p key n) := by
  unfold State.partRead
  repeat'
    first
      | with_reducible assumption | with_reducible apply State.memTouch_out | exact Key.hasA rfl | exact Key.hasW
      | exact Out.sub hL rfl | intro _ | with_reducible apply Out.ite | split | dsimp only [id_eq]
      | (rename_i e; with_reducible refine Out.of_eq e ?_)

theorem State.partWrite_out {s : State} (c : Nat) (p : Nat) (key : Nat) (bs : List Byte) (h₀ : Out L₀ s₀ s)
    (hL : Key.sub [.w 9 8, .w 10 20, .w 10 24, .p .pkt, .p .hbm, .p .poison] L₀ = true) :
    Out L₀ s₀ (State.partWrite s c p key bs) := by
  unfold State.partWrite
  repeat'
    first
      | with_reducible assumption | with_reducible apply State.memPut_out | exact Key.hasA rfl | exact Key.hasW
      | exact Out.sub hL rfl | intro _ | with_reducible apply Out.ite | split | dsimp only [id_eq]
      | (rename_i e; with_reducible refine Out.of_eq e ?_)

theorem State.fwPages_out {s : State} (c : Nat) (page : Nat) (bs : List Byte) (h₀ : Out L₀ s₀ s)
    (hL : Key.sub [.w 9 8, .w 10 20, .w 10 24, .p .pkt, .p .hbm, .p .poison] L₀ = true) :
    Out L₀ s₀ (State.fwPages s c page bs) := by
  unfold State.fwPages
  repeat'
    first
      | with_reducible assumption | with_reducible apply Out.forAll | with_reducible apply State.partWrite_out
      | exact Key.hasA rfl | exact Key.hasW | exact Out.sub hL rfl | intro _ | with_reducible apply Out.ite | split
      | dsimp only [id_eq] | (rename_i e; with_reducible refine Out.of_eq e ?_)

theorem State.imageRead_out {s : State} (k : Nat) (n : Nat) (h₀ : Out L₀ s₀ s)
    (hL : Key.sub [.w 9 8, .w 10 20, .w 10 24, .p .pkt, .p .hbm, .p .poison] L₀ = true) :
    Out L₀ s₀ (State.imageRead s k n) := by
  unfold State.imageRead
  repeat'
    first
      | with_reducible assumption | with_reducible apply State.partRead_out | exact Key.hasA rfl | exact Key.hasW
      | exact Out.sub hL rfl | intro _ | with_reducible apply Out.ite | split | dsimp only [id_eq]
      | (rename_i e; with_reducible refine Out.of_eq e ?_)

theorem State.patchWrite_out {s : State} (no : Nat) (bs : List Byte) (h₀ : Out L₀ s₀ s)
    (hL : Key.sub [.w 9 8, .w 10 20, .w 10 24, .p .pkt, .p .hbm, .p .poison] L₀ = true) :
    Out L₀ s₀ (State.patchWrite s no bs) := by
  unfold State.patchWrite
  repeat'
    first
      | with_reducible assumption | with_reducible apply State.partWrite_out | exact Key.hasA rfl | exact Key.hasW
      | exact Out.sub hL rfl | intro _ | with_reducible apply Out.ite | split | dsimp only [id_eq]
      | (rename_i e; with_reducible refine Out.of_eq e ?_)

theorem State.patchRead_out {s : State} (no : Nat) (n : Nat) (h₀ : Out L₀ s₀ s)
    (hL : Key.sub [.w 9 8, .w 10 20, .w 10 24, .p .pkt, .p .hbm, .p .poison] L₀ = true) :
    Out L₀ s₀ (State.patchRead s no n) := by
  unfold State.patchRead
  repeat'
    first
      | with_reducible assumption | with_reducible apply State.partRead_out | exact Key.hasA rfl | exact Key.hasW
      | exact Out.sub hL rfl | intro _ | with_reducible apply Out.ite | split | dsimp only [id_eq]
      | (rename_i e; with_reducible refine Out.of_eq e ?_)

end Sys2Proof.Machine
end

