-- ==== Sys2Proof/Laws/OutWardrobe.lean ====
section
/-!
SUPPORT. What each operation and each command of `Machine/Wardrobe.lean` can change.
-/

namespace Sys2Proof.Machine

set_option Elab.async false
set_option linter.unusedVariables false

set_option maxRecDepth 8000
set_option linter.unusedTactic false
set_option linter.unreachableTactic false

variable {L₀ : List Key} {s₀ : State}

theorem State.setBlk_out {s : State} (g : Nat) (r : BlkRec) (h₀ : Out L₀ s₀ s)
    (hL : Key.sub [.p .blks] L₀ = true) :
    Out L₀ s₀ (State.setBlk s g r) := by
  unfold State.setBlk
  repeat'
    first
      | with_reducible assumption | exact Key.hasA rfl | exact Key.hasW | exact Out.sub hL rfl | intro _
      | with_reducible apply Out.ite | split | dsimp only [id_eq]
      | (rename_i e; with_reducible refine Out.of_eq e ?_) | with_reducible apply Out.setBlks

theorem State.progNow_out {s : State} (a : Nat) (bs : List Byte) (h₀ : Out L₀ s₀ s)
    (hL : Key.sub [.p .flash] L₀ = true) :
    Out L₀ s₀ (State.progNow s a bs) := by
  unfold State.progNow
  repeat'
    first
      | with_reducible assumption | exact Key.hasA rfl | exact Key.hasW | exact Out.sub hL rfl | intro _
      | with_reducible apply Out.ite | split | dsimp only [id_eq]
      | (rename_i e; with_reducible refine Out.of_eq e ?_) | with_reducible apply Out.setFlash

theorem State.progCut_out {s : State} (a : Nat) (bs : List Byte) (h₀ : Out L₀ s₀ s)
    (hL : Key.sub [.p .free, .p .flash] L₀ = true) :
    Out L₀ s₀ (State.progCut s a bs) := by
  unfold State.progCut
  repeat'
    first
      | with_reducible assumption | with_reducible apply Out.drew | with_reducible apply State.progNow_out
      | exact Key.hasA rfl | exact Key.hasW | exact Out.sub hL rfl | intro _ | with_reducible apply Out.ite | split
      | dsimp only [id_eq] | (rename_i e; with_reducible refine Out.of_eq e ?_)

theorem State.eraseNow_out {s : State} (g : Nat) (h₀ : Out L₀ s₀ s)
    (hL : Key.sub [.a 65 15269888 268435456, .p .flash, .p .blks] L₀ = true) :
    Out L₀ s₀ (State.eraseNow s g) := by
  unfold State.eraseNow
  repeat'
    first
      | with_reducible assumption | with_reducible apply Out.bump | with_reducible apply State.setBlk_out
      | exact Key.hasA rfl | exact Key.hasW | exact Out.sub hL rfl | intro _ | with_reducible apply Out.ite | split
      | dsimp only [id_eq] | (rename_i e; with_reducible refine Out.of_eq e ?_) | with_reducible apply Out.setFlash

theorem State.flashFailed_out {s : State} (erase : Bool) (g : Nat) (h₀ : Out L₀ s₀ s)
    (hL : Key.sub [.w 20 12, .w 20 64, .w 20 68, .p .edges, .p .inbox] L₀ = true) :
    Out L₀ s₀ (State.flashFailed s erase g) := by
  unfold State.flashFailed
  repeat'
    first
      | with_reducible assumption | with_reducible apply Out.count | with_reducible apply Out.evt
      | with_reducible apply Out.post | exact Key.hasA rfl | exact Key.hasW | exact Out.sub hL rfl | intro _
      | with_reducible apply Out.ite | split | dsimp only [id_eq]
      | (rename_i e; with_reducible refine Out.of_eq e ?_)

theorem State.setOps_out {s : State} (b : Nat) (l : List FlashOp) (h₀ : Out L₀ s₀ s)
    (hL : Key.sub [.w 20 8, .a 20 32 4, .p .fops] L₀ = true) :
    Out L₀ s₀ (State.setOps s b l) := by
  unfold State.setOps
  repeat'
    first
      | with_reducible assumption | with_reducible apply State.setBit_out | with_reducible apply Out.puts_nil
      | with_reducible apply Out.puts_cons | with_reducible apply Out.put | exact Key.hasA rfl | exact Key.hasW
      | exact Out.sub hL rfl | intro _ | with_reducible apply Out.ite | split | dsimp only [id_eq]
      | (rename_i e; with_reducible refine Out.of_eq e ?_) | with_reducible apply Out.setFops

theorem State.suspendOp_out {s : State} (b : Nat) (h₀ : Out L₀ s₀ s)
    (hL : Key.sub [.w 20 8, .a 20 32 4, .a 65 15400960 268435456, .p .fops] L₀ = true) :
    Out L₀ s₀ (State.suspendOp s b) := by
  unfold State.suspendOp
  repeat'
    first
      | with_reducible assumption | with_reducible apply State.setOps_out | with_reducible apply Out.bump
      | exact Key.hasA rfl | exact Key.hasW | exact Out.sub hL rfl | intro _ | with_reducible apply Out.ite | split
      | dsimp only [id_eq] | (rename_i e; with_reducible refine Out.of_eq e ?_)

theorem State.resumeOp_out {s : State} (b : Nat) (h₀ : Out L₀ s₀ s)
    (hL : Key.sub [.w 20 8, .a 20 32 4, .p .fops] L₀ = true) :
    Out L₀ s₀ (State.resumeOp s b) := by
  unfold State.resumeOp
  repeat'
    first
      | with_reducible assumption | with_reducible apply State.setOps_out | exact Key.hasA rfl | exact Key.hasW
      | exact Out.sub hL rfl | intro _ | with_reducible apply Out.ite | split | dsimp only [id_eq]
      | (rename_i e; with_reducible refine Out.of_eq e ?_)

theorem State.serveRead_out {s : State} (a : Nat) (n : Nat) (h₀ : Out L₀ s₀ s)
    (hL : Key.sub [.w 20 8, .w 20 12, .w 20 72, .p .edges, .p .inbox, .p .fread] L₀ = true) :
    Out L₀ s₀ (State.serveRead s a n) := by
  unfold State.serveRead
  repeat'
    first
      | with_reducible assumption | with_reducible apply Out.when | with_reducible apply Out.count
      | with_reducible apply Out.evt | with_reducible apply Out.put | exact Key.hasA rfl | exact Key.hasW
      | exact Out.sub hL rfl | intro _ | with_reducible apply Out.ite | split | dsimp only [id_eq]
      | (rename_i e; with_reducible refine Out.of_eq e ?_) | with_reducible apply Out.setFread

theorem State.startProg_out {s : State} (a : Nat) (bs : List Byte) (h₀ : Out L₀ s₀ s)
    (hL : Key.sub [.w 20 8, .a 20 32 4, .a 65 15335424 268435456, .p .fops] L₀ = true) :
    Out L₀ s₀ (State.startProg s a bs) := by
  unfold State.startProg
  repeat'
    first
      | with_reducible assumption | with_reducible apply State.setOps_out | with_reducible apply Out.bump
      | exact Key.hasA rfl | exact Key.hasW | exact Out.sub hL rfl | intro _ | with_reducible apply Out.ite | split
      | dsimp only [id_eq] | (rename_i e; with_reducible refine Out.of_eq e ?_)

theorem State.startErase_out {s : State} (g : Nat) (h₀ : Out L₀ s₀ s)
    (hL : Key.sub [.w 20 8, .a 20 32 4, .p .blks, .p .fops] L₀ = true) :
    Out L₀ s₀ (State.startErase s g) := by
  unfold State.startErase
  repeat'
    first
      | with_reducible assumption | with_reducible apply State.setOps_out | with_reducible apply State.setBlk_out
      | exact Key.hasA rfl | exact Key.hasW | exact Out.sub hL rfl | intro _ | with_reducible apply Out.ite | split
      | dsimp only [id_eq] | (rename_i e; with_reducible refine Out.of_eq e ?_)

theorem State.setWait_out {s : State} (b : Nat) (l : List FlashReq) (h₀ : Out L₀ s₀ s)
    (hL : Key.sub [.p .fwait] L₀ = true) :
    Out L₀ s₀ (State.setWait s b l) := by
  unfold State.setWait
  repeat'
    first
      | with_reducible assumption | exact Key.hasA rfl | exact Key.hasW | exact Out.sub hL rfl | intro _
      | with_reducible apply Out.ite | split | dsimp only [id_eq]
      | (rename_i e; with_reducible refine Out.of_eq e ?_) | with_reducible apply Out.setFwait

theorem State.waitFor_out {s : State} (b : Nat) (r : FlashReq) (h₀ : Out L₀ s₀ s)
    (hL : Key.sub [.p .fwait] L₀ = true) :
    Out L₀ s₀ (State.waitFor s b r) := by
  unfold State.waitFor
  repeat'
    first
      | with_reducible assumption | with_reducible apply State.setWait_out | exact Key.hasA rfl | exact Key.hasW
      | exact Out.sub hL rfl | intro _ | with_reducible apply Out.ite | split | dsimp only [id_eq]
      | (rename_i e; with_reducible refine Out.of_eq e ?_)

/-- What `State.pump` may change. -/
def pumpOut : List Key :=
  [.w 20 8, .w 20 12, .a 20 32 4, .w 20 72, .a 65 15335424 268435456, .p .edges,
    .p .inbox, .p .blks, .p .fops, .p .fwait, .p .fread]

theorem State.pump_out (n : Nat) : ∀ {s : State} (b : Nat), Out L₀ s₀ s → Key.sub pumpOut L₀ = true →
    Out L₀ s₀ (State.pump n b s) := by
  induction n with
  | zero => intro s b h _; exact h
  | succ n ih =>
    intro s b h hL
    have hw : Key.sub [.p .fwait] L₀ = true := Out.sub hL rfl
    unfold State.pump
    split
    · exact h
    · split
      · exact h
      · exact ih _ (State.serveRead_out _ _ (State.setWait_out _ _ h hw) (Out.sub hL rfl)) hL
      · split
        · exact h
        · exact State.startProg_out _ _ (State.setWait_out _ _ h hw) (Out.sub hL rfl)
      · split
        · exact h
        · exact State.startErase_out _ (State.setWait_out _ _ h hw) (Out.sub hL rfl)

theorem State.bankNext_out {s : State} (b : Nat) (h₀ : Out L₀ s₀ s)
    (hL : Key.sub pumpOut L₀ = true) :
    Out L₀ s₀ (State.bankNext s b) := by
  unfold State.bankNext
  repeat'
    first
      | with_reducible assumption | with_reducible apply State.pump_out | with_reducible apply State.resumeOp_out
      | exact Key.hasA rfl | exact Key.hasW | exact Out.sub hL rfl | intro _ | with_reducible apply Out.ite | split
      | dsimp only [id_eq] | (rename_i e; with_reducible refine Out.of_eq e ?_)

/-- What `State.reqProg` may change. -/
def reqProgOut : List Key :=
  [.w 20 8, .w 20 12, .a 20 32 4, .a 65 15335424 268435456, .a 65 15400960 268435456,
    .p .edges, .p .fops, .p .fwait]

theorem State.reqProg_out {s : State} (a : Nat) (d : List Byte) (ran : Nat) (h₀ : Out L₀ s₀ s)
    (hL : Key.sub reqProgOut L₀ = true) :
    Out L₀ s₀ (State.reqProg s a d ran) := by
  unfold State.reqProg
  repeat'
    first
      | with_reducible assumption | with_reducible apply Out.evt | with_reducible apply State.waitFor_out
      | with_reducible apply State.startProg_out | with_reducible apply State.suspendOp_out | exact Key.hasA rfl
      | exact Key.hasW | exact Out.sub hL rfl | intro _ | with_reducible apply Out.ite | split | dsimp only [id_eq]
      | (rename_i e; with_reducible refine Out.of_eq e ?_)

theorem State.reqErase_out {s : State} (g : Nat) (h₀ : Out L₀ s₀ s)
    (hL : Key.sub [.w 20 8, .a 20 32 4, .p .blks, .p .fops, .p .fwait] L₀ = true) :
    Out L₀ s₀ (State.reqErase s g) := by
  unfold State.reqErase
  repeat'
    first
      | with_reducible assumption | with_reducible apply State.startErase_out
      | with_reducible apply State.waitFor_out | exact Key.hasA rfl | exact Key.hasW | exact Out.sub hL rfl | intro _
      | with_reducible apply Out.ite | split | dsimp only [id_eq]
      | (rename_i e; with_reducible refine Out.of_eq e ?_)

end Sys2Proof.Machine
end

