-- ==== Sys2Proof/Laws/OutRecorder.lean ====
section
/-!
SUPPORT. What each operation and each command of `Machine/Recorder.lean` can change.
-/

namespace Sys2Proof.Machine

set_option Elab.async false
set_option linter.unusedVariables false

set_option maxRecDepth 8000
set_option linter.unusedTactic false
set_option linter.unreachableTactic false

variable {L₀ : List Key} {s₀ : State}

theorem State.ringGo_out {s : State} (h₀ : Out L₀ s₀ s)
    (hL : Key.sub [.w 20 8, .w 20 12, .a 20 32 4, .a 65 15335424 268435456, .a 65 15400960 268435456, .p .edges, .p .blks, .p .fops,
    .p .fwait] L₀ = true) :
    Out L₀ s₀ (State.ringGo s) := by
  unfold State.ringGo
  repeat'
    first
      | with_reducible assumption | with_reducible apply State.reqErase_out | with_reducible apply State.reqProg_out
      | exact Key.hasA rfl | exact Key.hasW | exact Out.sub hL rfl | intro _ | with_reducible apply Out.ite | split
      | dsimp only [id_eq] | (rename_i e; with_reducible refine Out.of_eq e ?_)

theorem State.showPbl_out {s : State} (h₀ : Out L₀ s₀ s)
    (hL : Key.sub [.w 20 8, .w 20 12, .a 20 32 4, .w 25 8, .w 25 20, .w 25 24, .w 25 28, .a 65 15335424 268435456,
    .a 65 15400960 268435456, .p .edges, .p .blks, .p .fops, .p .fwait] L₀ = true) :
    Out L₀ s₀ (State.showPbl s) := by
  unfold State.showPbl
  repeat'
    first
      | with_reducible assumption | with_reducible apply State.ringGo_out | with_reducible apply Out.puts_nil
      | with_reducible apply Out.puts_cons | with_reducible apply Out.put | exact Key.hasA rfl | exact Key.hasW
      | exact Out.sub hL rfl | intro _ | with_reducible apply Out.ite | split | dsimp only [id_eq]
      | (rename_i e; with_reducible refine Out.of_eq e ?_)

/-- What `State.closeRec` may change. -/
def closeRecOut : List Key :=
  [.w 20 8, .w 20 12, .a 20 32 4, .w 25 8, .w 25 20, .w 25 24, .w 25 28,
    .w 64 15794176, .a 65 15335424 268435456, .a 65 15400960 268435456, .p .edges, .p .blks, .p .fops, .p .fwait,
    .p .popen, .p .pbuf]

theorem State.closeRec_out {s : State} (h₀ : Out L₀ s₀ s)
    (hL : Key.sub closeRecOut L₀ = true) :
    Out L₀ s₀ (State.closeRec s) := by
  unfold State.closeRec
  repeat'
    first
      | with_reducible assumption | with_reducible apply Out.put | with_reducible apply State.showPbl_out
      | exact Key.hasA rfl | exact Key.hasW | exact Out.sub hL rfl | intro _ | with_reducible apply Out.ite | split
      | dsimp only [id_eq] | (rename_i e; with_reducible refine Out.of_eq e ?_)
      | with_reducible apply Out.setPopenPbuf

theorem State.openRec_out {s : State} (d : Desc) (h₀ : Out L₀ s₀ s)
    (hL : Key.sub [.w 20 8, .w 20 12, .a 20 32 4, .w 25 8, .w 25 20, .w 25 24, .w 25 28, .w 64 15728640, .w 64 15794176,
    .a 65 15335424 268435456, .a 65 15400960 268435456, .w 65 15466496, .p .edges, .p .blks, .p .fops, .p .fwait,
    .p .popen] L₀ = true) :
    Out L₀ s₀ (State.openRec s d) := by
  unfold State.openRec
  repeat'
    first
      | with_reducible assumption | with_reducible apply Out.puts_nil | with_reducible apply Out.puts_cons
      | with_reducible apply Out.put | with_reducible apply State.showPbl_out | with_reducible apply Out.when
      | with_reducible apply Out.edge | exact Key.hasA rfl | exact Key.hasW | exact Out.sub hL rfl | intro _
      | with_reducible apply Out.ite | split | dsimp only [id_eq]
      | (rename_i e; with_reducible refine Out.of_eq e ?_) | with_reducible apply Out.setPopen

theorem State.dropDesc_out {s : State} (h₀ : Out L₀ s₀ s)
    (hL : Key.sub [.w 25 12, .w 25 64, .w 64 15728640, .w 65 16121856, .p .edges, .p .inbox] L₀ = true) :
    Out L₀ s₀ (State.dropDesc s) := by
  unfold State.dropDesc
  repeat'
    first
      | with_reducible assumption | with_reducible apply Out.evt | with_reducible apply Out.count
      | with_reducible apply Out.puts_nil | with_reducible apply Out.puts_cons | with_reducible apply Out.put
      | exact Key.hasA rfl | exact Key.hasW | exact Out.sub hL rfl | intro _ | with_reducible apply Out.ite | split
      | dsimp only [id_eq] | (rename_i e; with_reducible refine Out.of_eq e ?_)

/-- What `State.acceptDesc` may change. -/
def acceptDescOut : List Key :=
  [.w 20 8, .w 20 12, .a 20 32 4, .w 25 8, .w 25 12, .w 25 20, .w 25 24, .w 25 28,
    .w 25 64, .w 64 15728640, .w 64 15794176, .a 65 15335424 268435456, .a 65 15400960 268435456, .w 65 15466496,
    .w 65 16121856, .p .edges, .p .inbox, .p .blks, .p .fops, .p .fwait, .p .popen, .p .pbuf]

theorem State.acceptDesc_out {s : State} (d : Desc) (h₀ : Out L₀ s₀ s)
    (hL : Key.sub acceptDescOut L₀ = true) :
    Out L₀ s₀ (State.acceptDesc s d) := by
  unfold State.acceptDesc
  repeat'
    first
      | with_reducible assumption | with_reducible apply State.openRec_out | with_reducible apply Out.evt
      | with_reducible apply State.dropDesc_out | with_reducible apply State.closeRec_out | exact Key.hasA rfl
      | exact Key.hasW | exact Out.sub hL rfl | intro _ | with_reducible apply Out.ite | split | dsimp only [id_eq]
      | (rename_i e; with_reducible refine Out.of_eq e ?_) | with_reducible apply Out.setPopen

theorem eventDescriptor_out {s : State} (h₀ : Out L₀ s₀ s)
    (hL : Key.sub acceptDescOut L₀ = true) :
    Out L₀ s₀ (eventDescriptor s) := by
  unfold eventDescriptor
  repeat'
    first
      | with_reducible assumption | with_reducible apply State.acceptDesc_out | exact Key.hasA rfl | exact Key.hasW
      | exact Out.sub hL rfl | intro _ | with_reducible apply Out.ite | split | dsimp only [id_eq]
      | (rename_i e; with_reducible refine Out.of_eq e ?_) | with_reducible apply Out.setInbox

theorem recordCloseTimer_out {s : State} (h₀ : Out L₀ s₀ s)
    (hL : Key.sub closeRecOut L₀ = true) :
    Out L₀ s₀ (recordCloseTimer s) := by
  unfold recordCloseTimer
  repeat'
    first
      | with_reducible assumption | with_reducible apply State.closeRec_out | exact Key.hasA rfl | exact Key.hasW
      | exact Out.sub hL rfl | intro _ | with_reducible apply Out.ite | split | dsimp only [id_eq]
      | (rename_i e; with_reducible refine Out.of_eq e ?_)

theorem State.slotOn_out {s : State} (n : Nat) (h₀ : Out L₀ s₀ s)
    (hL : Key.sub [.w 65 15532032, .w 65 15597568, .w 65 15663104, .w 65 16252928] L₀ = true) :
    Out L₀ s₀ (State.slotOn s n) := by
  unfold State.slotOn
  repeat'
    first
      | with_reducible assumption | with_reducible apply Out.when | with_reducible apply Out.puts_nil
      | with_reducible apply Out.puts_cons | with_reducible apply Out.put | exact Key.hasA rfl | exact Key.hasW
      | exact Out.sub hL rfl | intro _ | with_reducible apply Out.ite | split | dsimp only [id_eq]
      | (rename_i e; with_reducible refine Out.of_eq e ?_)

theorem State.ringTook_out {s : State} (n : Nat) (h₀ : Out L₀ s₀ s)
    (hL : Key.sub [.w 20 8, .w 20 12, .a 20 32 4, .w 25 8, .w 25 20, .w 25 24, .w 25 28, .w 64 15794176, .a 65 15335424 268435456,
    .a 65 15400960 268435456, .w 65 15532032, .w 65 15597568, .w 65 15663104, .w 65 16252928, .p .edges, .p .blks,
    .p .fops, .p .fwait, .p .popen, .p .pbuf, .p .ring] L₀ = true) :
    Out L₀ s₀ (State.ringTook s n) := by
  unfold State.ringTook
  repeat'
    first
      | with_reducible assumption | with_reducible apply State.slotOn_out | with_reducible apply Out.when
      | with_reducible apply State.closeRec_out | with_reducible apply Out.foldl | with_reducible apply Out.foldlFst
      | exact Key.hasA rfl | exact Key.hasW | exact Out.sub hL rfl | intro _ | with_reducible apply Out.ite | split
      | dsimp only [id_eq] | (rename_i e; with_reducible refine Out.of_eq e ?_)
      | with_reducible apply Out.setPbufRing

theorem State.ringMissed_out {s : State} (n : Nat) (h₀ : Out L₀ s₀ s)
    (hL : Key.sub [.w 65 15532032, .w 65 15597568, .w 65 15663104, .w 65 16252928, .p .ring, .p .ringBad] L₀ = true) :
    Out L₀ s₀ (State.ringMissed s n) := by
  unfold State.ringMissed
  repeat'
    first
      | with_reducible assumption | with_reducible apply State.slotOn_out | with_reducible apply Out.foldl
      | with_reducible apply Out.foldlFst | exact Key.hasA rfl | exact Key.hasW | exact Out.sub hL rfl | intro _
      | with_reducible apply Out.ite | split | dsimp only [id_eq]
      | (rename_i e; with_reducible refine Out.of_eq e ?_) | with_reducible apply Out.setRingRingBad

theorem State.emptyRingBlk_out {s : State} (b : Nat) (h₀ : Out L₀ s₀ s)
    (hL : Key.sub [.p .ring, .p .ringBad] L₀ = true) :
    Out L₀ s₀ (State.emptyRingBlk s b) := by
  unfold State.emptyRingBlk
  repeat'
    first
      | with_reducible assumption | exact Key.hasA rfl | exact Key.hasW | exact Out.sub hL rfl | intro _
      | with_reducible apply Out.ite | split | dsimp only [id_eq]
      | (rename_i e; with_reducible refine Out.of_eq e ?_) | with_reducible apply Out.setRingRingBad

theorem State.clearNext_out {s : State} (b : Nat) (h₀ : Out L₀ s₀ s)
    (hL : Key.sub [.w 65 15990784, .w 65 16056320] L₀ = true) :
    Out L₀ s₀ (State.clearNext s b) := by
  unfold State.clearNext
  repeat'
    first
      | with_reducible assumption | with_reducible apply Out.when | with_reducible apply Out.puts_nil
      | with_reducible apply Out.puts_cons | with_reducible apply Out.put | exact Key.hasA rfl | exact Key.hasW
      | exact Out.sub hL rfl | intro _ | with_reducible apply Out.ite | split | dsimp only [id_eq]
      | (rename_i e; with_reducible refine Out.of_eq e ?_)

theorem State.ringErased_out {s : State} (b : Nat) (h₀ : Out L₀ s₀ s)
    (hL : Key.sub [.w 65 15597568, .w 65 15663104, .w 65 15990784, .w 65 16056320, .p .ring, .p .ringBad] L₀ = true) :
    Out L₀ s₀ (State.ringErased s b) := by
  unfold State.ringErased
  repeat'
    first
      | with_reducible assumption | with_reducible apply Out.when | with_reducible apply State.clearNext_out
      | with_reducible apply State.emptyRingBlk_out | with_reducible apply Out.puts_nil
      | with_reducible apply Out.puts_cons | with_reducible apply Out.put | exact Key.hasA rfl | exact Key.hasW
      | exact Out.sub hL rfl | intro _ | with_reducible apply Out.ite | split | dsimp only [id_eq]
      | (rename_i e; with_reducible refine Out.of_eq e ?_)

theorem State.ringUnerased_out {s : State} (b : Nat) (h₀ : Out L₀ s₀ s)
    (hL : Key.sub [.w 65 15532032, .w 65 15597568, .w 65 15663104, .w 65 15990784, .w 65 16056320, .w 65 16252928, .p .ring,
    .p .ringBad] L₀ = true) :
    Out L₀ s₀ (State.ringUnerased s b) := by
  unfold State.ringUnerased
  repeat'
    first
      | with_reducible assumption | with_reducible apply State.emptyRingBlk_out
      | with_reducible apply State.slotOn_out | with_reducible apply State.clearNext_out
      | with_reducible apply Out.put | exact Key.hasA rfl | exact Key.hasW | exact Out.sub hL rfl | intro _
      | with_reducible apply Out.ite | split | dsimp only [id_eq]
      | (rename_i e; with_reducible refine Out.of_eq e ?_)

theorem State.ringSpoilt_out {s : State} (o : FlashOp) (h₀ : Out L₀ s₀ s)
    (hL : Key.sub [.p .ring] L₀ = true) :
    Out L₀ s₀ (State.ringSpoilt s o) := by
  unfold State.ringSpoilt
  repeat'
    first
      | with_reducible assumption | exact Key.hasA rfl | exact Key.hasW | exact Out.sub hL rfl | intro _
      | with_reducible apply Out.ite | split | dsimp only [id_eq]
      | (rename_i e; with_reducible refine Out.of_eq e ?_) | with_reducible apply Out.setRing

/-- What `State.ringProgEnd` may change. -/
def ringProgEndOut : List Key :=
  [.w 20 8, .w 20 12, .a 20 32 4, .w 20 64, .w 20 68, .w 20 72, .w 25 8, .w 25 20,
    .w 25 24, .w 25 28, .w 64 15794176, .a 65 15335424 268435456, .a 65 15400960 268435456, .w 65 15532032,
    .w 65 15597568, .w 65 15663104, .w 65 16252928, .p .free, .p .edges, .p .inbox, .p .flash, .p .blks, .p .fops,
    .p .fwait, .p .fread, .p .popen, .p .pbuf, .p .ring, .p .ringBad]

theorem State.ringProgEnd_out {s : State} (o : FlashOp) (ok : Bool) (h₀ : Out L₀ s₀ s)
    (hL : Key.sub ringProgEndOut L₀ = true) :
    Out L₀ s₀ (State.ringProgEnd s o ok) := by
  unfold State.ringProgEnd
  repeat'
    first
      | with_reducible assumption | with_reducible apply State.setOps_out | with_reducible apply State.progNow_out
      | with_reducible apply State.flashFailed_out | with_reducible apply State.progCut_out
      | with_reducible apply State.ringSpoilt_out | with_reducible apply State.ringTook_out
      | with_reducible apply State.ringMissed_out | with_reducible apply State.showPbl_out
      | with_reducible apply State.bankNext_out | exact Key.hasA rfl | exact Key.hasW | exact Out.sub hL rfl
      | intro _ | with_reducible apply Out.ite | split | dsimp only [id_eq]
      | (rename_i e; with_reducible refine Out.of_eq e ?_)

/-- What `State.ringEraseEnd` may change. -/
def ringEraseEndOut : List Key :=
  [.w 20 8, .w 20 12, .a 20 32 4, .w 20 64, .w 20 68, .w 20 72, .w 25 8, .w 25 20,
    .w 25 24, .w 25 28, .a 65 15269888 268435456, .a 65 15335424 268435456, .a 65 15400960 268435456,
    .w 65 15532032, .w 65 15597568, .w 65 15663104, .w 65 15990784, .w 65 16056320, .w 65 16252928, .p .edges,
    .p .inbox, .p .flash, .p .blks, .p .fops, .p .fwait, .p .fread, .p .ring, .p .ringBad]

theorem State.ringEraseEnd_out {s : State} (o : FlashOp) (ok : Bool) (h₀ : Out L₀ s₀ s)
    (hL : Key.sub ringEraseEndOut L₀ = true) :
    Out L₀ s₀ (State.ringEraseEnd s o ok) := by
  unfold State.ringEraseEnd
  repeat'
    first
      | with_reducible assumption | with_reducible apply State.setOps_out | with_reducible apply State.eraseNow_out
      | with_reducible apply State.flashFailed_out | with_reducible apply State.setBlk_out
      | with_reducible apply State.ringErased_out | with_reducible apply State.ringUnerased_out
      | with_reducible apply State.showPbl_out | with_reducible apply State.bankNext_out | exact Key.hasA rfl
      | exact Key.hasW | exact Out.sub hL rfl | intro _ | with_reducible apply Out.ite | split | dsimp only [id_eq]
      | (rename_i e; with_reducible refine Out.of_eq e ?_)

theorem ringProgramDone_out (ok : Bool) {s : State} (h₀ : Out L₀ s₀ s)
    (hL : Key.sub ringProgEndOut L₀ = true) :
    Out L₀ s₀ (ringProgramDone ok s) := by
  unfold ringProgramDone
  repeat'
    first
      | with_reducible assumption | with_reducible apply State.ringProgEnd_out | exact Key.hasA rfl | exact Key.hasW
      | exact Out.sub hL rfl | intro _ | with_reducible apply Out.ite | split | dsimp only [id_eq]
      | (rename_i e; with_reducible refine Out.of_eq e ?_)

theorem ringBlockEraseDone_out (ok : Bool) {s : State} (h₀ : Out L₀ s₀ s)
    (hL : Key.sub ringEraseEndOut L₀ = true) :
    Out L₀ s₀ (ringBlockEraseDone ok s) := by
  unfold ringBlockEraseDone
  repeat'
    first
      | with_reducible assumption | with_reducible apply State.ringEraseEnd_out | exact Key.hasA rfl | exact Key.hasW
      | exact Out.sub hL rfl | intro _ | with_reducible apply Out.ite | split | dsimp only [id_eq]
      | (rename_i e; with_reducible refine Out.of_eq e ?_)

theorem State.drainBuf_out (n : Nat) : ∀ {s : State}, Out L₀ s₀ s → Key.sub [.w 20 8, .w 20 12, .a 20 32 4, .w 25 8, .w 25 20, .w 25 24, .w 25 28, .w 64 15794176, .a 65 15269888 268435456,
    .a 65 15335424 268435456, .a 65 15400960 268435456, .w 65 15532032, .w 65 15597568, .w 65 15663104,
    .w 65 15990784, .w 65 16056320, .w 65 16252928, .p .edges, .p .flash, .p .blks, .p .fops, .p .fwait, .p .popen,
    .p .pbuf, .p .ring, .p .ringBad] L₀ = true →
    Out L₀ s₀ (State.drainBuf n s) := by
  induction n with
  | zero => intro s h _; exact h
  | succ n ih =>
    intro s h hL
    unfold State.drainBuf
    split
    · exact h
    · exact ih (State.ringTook_out _ (State.progNow_out _ _ (Out.when _ _ h fun u hu =>
        State.ringErased_out _ (State.eraseNow_out _ hu (Out.sub hL rfl)) (Out.sub hL rfl)) (Out.sub hL rfl)) (Out.sub hL rfl)) hL

theorem State.ringRecall_out {s : State} (h₀ : Out L₀ s₀ s)
    (hL : Key.sub [.w 20 8, .a 20 32 4, .p .fops, .p .fwait] L₀ = true) :
    Out L₀ s₀ (State.ringRecall s) := by
  unfold State.ringRecall
  repeat'
    first
      | with_reducible assumption | with_reducible apply State.setOps_out | with_reducible apply State.setWait_out
      | exact Key.hasA rfl | exact Key.hasW | exact Out.sub hL rfl | intro _ | with_reducible apply Out.ite | split
      | dsimp only [id_eq] | (rename_i e; with_reducible refine Out.of_eq e ?_)

theorem State.pblClear_out {s : State} (mb : Nat) (id : Nat) (ok : Bool) (h₀ : Out L₀ s₀ s)
    (hL : Key.sub [.w 20 8, .w 20 12, .a 20 32 4, .w 20 64, .w 20 68, .w 20 72, .w 25 8, .w 25 12, .w 25 20, .w 25 24, .w 25 28,
    .w 25 72, .w 64 15728640, .w 64 15794176, .a 65 15269888 268435456, .a 65 15335424 268435456,
    .a 65 15400960 268435456, .w 65 15466496, .w 65 15532032, .w 65 15597568, .w 65 15663104, .w 65 15859712,
    .w 65 15925248, .w 65 15990784, .w 65 16056320, .w 65 16121856, .w 65 16187392, .w 65 16252928, .p .edges,
    .p .inbox, .p .flash, .p .blks, .p .fops, .p .fwait, .p .fread, .p .popen, .p .pbuf, .p .ring, .p .ringBad] L₀ = true) :
    Out L₀ s₀ (State.pblClear s mb id ok).1 := by
  unfold State.pblClear
  repeat'
    first
      | with_reducible assumption | with_reducible apply State.ringRecall_out
      | with_reducible apply State.drainBuf_out | with_reducible apply State.closeRec_out
      | with_reducible apply State.showPbl_out | with_reducible apply State.bankNext_out
      | with_reducible apply State.emptyRingBlk_out | with_reducible apply State.flashFailed_out
      | with_reducible apply State.setBlk_out | with_reducible apply Out.put
      | with_reducible apply State.eraseNow_out | with_reducible apply State.progNow_out
      | with_reducible apply Out.puts_nil | with_reducible apply Out.puts_cons | with_reducible apply Out.evt
      | with_reducible apply Out.count | exact Key.hasA rfl | exact Key.hasW | exact Out.sub hL rfl | intro _
      | with_reducible apply Out.ite | split | dsimp only [id_eq]
      | (rename_i e; with_reducible refine Out.of_eq e ?_) | with_reducible apply Out.setRing

theorem clearEraseDone_out (ok : Bool) {s : State} (h₀ : Out L₀ s₀ s)
    (hL : Key.sub ringEraseEndOut L₀ = true) :
    Out L₀ s₀ (clearEraseDone ok s) := by
  unfold clearEraseDone
  repeat'
    first
      | with_reducible assumption | with_reducible apply State.ringEraseEnd_out | exact Key.hasA rfl | exact Key.hasW
      | exact Out.sub hL rfl | intro _ | with_reducible apply Out.ite | split | dsimp only [id_eq]
      | (rename_i e; with_reducible refine Out.of_eq e ?_)

theorem State.pblScan_out {s : State} (h₀ : Out L₀ s₀ s)
    (hL : Key.sub [.w 20 8, .w 20 12, .a 20 32 4, .w 25 8, .w 25 12, .w 25 20, .w 25 24, .w 25 28, .w 25 68, .a 65 15335424 268435456,
    .a 65 15400960 268435456, .w 65 15466496, .w 65 16187392, .p .edges, .p .inbox, .p .blks, .p .fops, .p .fwait] L₀ = true) :
    Out L₀ s₀ (State.pblScan s) := by
  unfold State.pblScan
  repeat'
    first
      | with_reducible assumption | with_reducible apply Out.put | with_reducible apply State.showPbl_out
      | with_reducible apply Out.when | with_reducible apply Out.post | with_reducible apply Out.evt
      | with_reducible apply Out.countN | exact Key.hasA rfl | exact Key.hasW | exact Out.sub hL rfl | intro _
      | with_reducible apply Out.ite | split | dsimp only [id_eq]
      | (rename_i e; with_reducible refine Out.of_eq e ?_)

theorem execEventDescriptor_out {s t : State} (h : execEventDescriptor s = .next t) :
    Out acceptDescOut s t := by
  have h := Host.Outcome.next.inj h; subst h; exact eventDescriptor_out  (Out.refl s) rfl

theorem execRecordCloseTimer_out {s t : State} (h : execRecordCloseTimer s = .next t) :
    Out closeRecOut s t := by
  have h := Host.Outcome.next.inj h; subst h; exact recordCloseTimer_out  (Out.refl s) rfl

theorem execRingProgramDone_out (ok : Bool) {s t : State} (h : execRingProgramDone ok s = .next t) :
    Out ringProgEndOut s t := by
  have h := Host.Outcome.next.inj h; subst h; exact ringProgramDone_out _ (Out.refl s) rfl

theorem execRingBlockEraseDone_out (ok : Bool) {s t : State} (h : execRingBlockEraseDone ok s = .next t) :
    Out ringEraseEndOut s t := by
  have h := Host.Outcome.next.inj h; subst h; exact ringBlockEraseDone_out _ (Out.refl s) rfl

theorem execClearEraseDone_out (ok : Bool) {s t : State} (h : execClearEraseDone ok s = .next t) :
    Out ringEraseEndOut s t := by
  have h := Host.Outcome.next.inj h; subst h; exact clearEraseDone_out _ (Out.refl s) rfl

end Sys2Proof.Machine
end

