-- ==== Sys2Proof/Laws/OutStripe.lean ====
section
/-!
SUPPORT. What each operation and each command of `Machine/Stripe.lean` can change.
-/

namespace Sys2Proof.Machine

set_option Elab.async false
set_option linter.unusedVariables false

set_option maxRecDepth 8000
set_option linter.unusedTactic false
set_option linter.unreachableTactic false

variable {L₀ : List Key} {s₀ : State}

theorem State.showStripes_out {s : State} (h₀ : Out L₀ s₀ s)
    (hL : Key.sub [.w 7 12, .w 7 24, .w 7 28, .w 7 17956864, .p .edges, .p .inbox] L₀ = true) :
    Out L₀ s₀ (State.showStripes s) := by
  unfold State.showStripes
  repeat'
    first
      | with_reducible assumption | with_reducible apply Out.puts_nil | with_reducible apply Out.puts_cons
      | with_reducible apply Out.put | with_reducible apply Out.when | with_reducible apply Out.post
      | with_reducible apply Out.evt | exact Key.hasA rfl | exact Key.hasW | exact Out.sub hL rfl | intro _
      | with_reducible apply Out.ite | split | dsimp only [id_eq]
      | (rename_i e; with_reducible refine Out.of_eq e ?_)

theorem State.updStripe_out {s : State} (no : Nat) (f : Stripe → Stripe) (h₀ : Out L₀ s₀ s)
    (hL : Key.sub [.p .stripes] L₀ = true) :
    Out L₀ s₀ (State.updStripe s no f) := by
  unfold State.updStripe
  repeat'
    first
      | with_reducible assumption | exact Key.hasA rfl | exact Key.hasW | exact Out.sub hL rfl | intro _
      | with_reducible apply Out.ite | split | dsimp only [id_eq]
      | (rename_i e; with_reducible refine Out.of_eq e ?_) | with_reducible apply Out.setStripes

/-- What `State.sealPacks` may change. -/
def sealPacksOut : List Key :=
  [.w 7 12, .w 7 24, .w 7 28, .w 7 17956864, .p .edges, .p .inbox, .p .stripes]

theorem State.sealPacks_out {s : State} (h₀ : Out L₀ s₀ s)
    (hL : Key.sub sealPacksOut L₀ = true) :
    Out L₀ s₀ (State.sealPacks s) := by
  unfold State.sealPacks
  repeat'
    first
      | with_reducible assumption | with_reducible apply State.showStripes_out | exact Key.hasA rfl | exact Key.hasW
      | exact Out.sub hL rfl | intro _ | with_reducible apply Out.ite | split | dsimp only [id_eq]
      | (rename_i e; with_reducible refine Out.of_eq e ?_) | with_reducible apply Out.setStripes

theorem State.gcStripes_out {s : State} (h₀ : Out L₀ s₀ s)
    (hL : Key.sub sealPacksOut L₀ = true) :
    Out L₀ s₀ (State.gcStripes s) := by
  unfold State.gcStripes
  repeat'
    first
      | with_reducible assumption | with_reducible apply State.showStripes_out | exact Key.hasA rfl | exact Key.hasW
      | exact Out.sub hL rfl | intro _ | with_reducible apply Out.ite | split | dsimp only [id_eq]
      | (rename_i e; with_reducible refine Out.of_eq e ?_) | with_reducible apply Out.setStripes

theorem State.kvDurable_out {s : State} (a : Nat) (bound : Nat) (h₀ : Out L₀ s₀ s)
    (hL : Key.sub [.w 6 17629184, .w 7 12, .w 7 24, .w 7 28, .w 7 17956864, .p .edges, .p .inbox, .p .kvLog, .p .kvDur, .p .stripes] L₀ = true) :
    Out L₀ s₀ (State.kvDurable s a bound) := by
  unfold State.kvDurable
  repeat'
    first
      | with_reducible assumption | with_reducible apply Out.put | with_reducible apply State.gcStripes_out
      | with_reducible apply Out.foldl | with_reducible apply Out.foldlFst | exact Key.hasA rfl | exact Key.hasW
      | exact Out.sub hL rfl | intro _ | with_reducible apply Out.ite | split | dsimp only [id_eq]
      | (rename_i e; with_reducible refine Out.of_eq e ?_) | with_reducible apply Out.setKvLogKvDur

end Sys2Proof.Machine
end

