-- ==== Sys2Proof/Laws/OutLayout.lean ====
section
/-!
SUPPORT. What each operation and each command of `Machine/Layout.lean` can change.
-/

namespace Sys2Proof.Machine

set_option Elab.async false
set_option linter.unusedVariables false

set_option maxRecDepth 8000
set_option linter.unusedTactic false
set_option linter.unreachableTactic false

variable {L₀ : List Key} {s₀ : State}

theorem State.setZone_out {s : State} (nsid : Nat) (z : Nat) (x : Zone) (h₀ : Out L₀ s₀ s)
    (hL : Key.sub [.p .zones] L₀ = true) :
    Out L₀ s₀ (State.setZone s nsid z x) := by
  unfold State.setZone
  repeat'
    first
      | with_reducible assumption | exact Key.hasA rfl | exact Key.hasW | exact Out.sub hL rfl | intro _
      | with_reducible apply Out.ite | split | dsimp only [id_eq]
      | (rename_i e; with_reducible refine Out.of_eq e ?_) | with_reducible apply Out.setZones

theorem State.setClog_out {s : State} (a : Nat) (l : List CTrack) (h₀ : Out L₀ s₀ s)
    (hL : Key.sub [.p .mcache] L₀ = true) :
    Out L₀ s₀ (State.setClog s a l) := by
  unfold State.setClog
  repeat'
    first
      | with_reducible assumption | exact Key.hasA rfl | exact Key.hasW | exact Out.sub hL rfl | intro _
      | with_reducible apply Out.ite | split | dsimp only [id_eq]
      | (rename_i e; with_reducible refine Out.of_eq e ?_) | with_reducible apply Out.setMcache

theorem State.planCache_out (a n : Nat) : ∀ (l : List (Nat × Nat)) {s : State}, Out L₀ s₀ s →
    Key.sub [.a 2 32 4, .a 65 22347776 268435456, .p .mcache, .p .jq, .p .jobNo] L₀ = true → Out L₀ s₀ (State.planCache a n l s) := by
  induction n with
  | zero => intro l s h _; exact h
  | succ n ih =>
    intro l s h hL
    unfold State.planCache
    dsimp only
    split
    · exact h
    · split
      · exact ih _ (Out.put (n := Key.each V.mcHead) _ _ (State.setClog_out _ _ h (Out.sub hL rfl))
          ⟨rfl, a, rfl⟩ (Out.sub hL rfl)) hL
      · exact ih _ (State.addJob_out _ _ (Out.put (n := Key.each V.mcHead) _ _ (State.setClog_out _ _ h (Out.sub hL rfl))
          ⟨rfl, a, rfl⟩ (Out.sub hL rfl)) (Out.sub hL rfl)) hL

theorem State.planPoint_out {s : State} (a : Nat) (h₀ : Out L₀ s₀ s)
    (hL : Key.sub [.a 2 32 4, .a 65 22347776 268435456, .p .mcache, .p .jq, .p .jobNo] L₀ = true) :
    Out L₀ s₀ (State.planPoint s a) := by
  unfold State.planPoint
  repeat'
    first
      | with_reducible assumption | with_reducible apply State.planCache_out | exact Key.hasA rfl | exact Key.hasW
      | exact Out.sub hL rfl | intro _ | with_reducible apply Out.ite | split | dsimp only [id_eq]
      | (rename_i e; with_reducible refine Out.of_eq e ?_)

end Sys2Proof.Machine
end

