-- ==== Sys2Proof/Laws/OutObjects.lean ====
section
/-!
SUPPORT. What each operation and each command of `Machine/Objects.lean` can change.
-/

namespace Sys2Proof.Machine

set_option Elab.async false
set_option linter.unusedVariables false

set_option maxRecDepth 8000
set_option linter.unusedTactic false
set_option linter.unreachableTactic false

variable {L₀ : List Key} {s₀ : State}

theorem State.setBand_out {s : State} (id : Nat) (b : Band) (h₀ : Out L₀ s₀ s)
    (hL : Key.sub [.a 11 32 4, .a 11 48 4, .p .bands] L₀ = true) :
    Out L₀ s₀ (State.setBand s id b) := by
  unfold State.setBand
  repeat'
    first
      | with_reducible assumption | with_reducible apply Out.put | exact Key.hasA rfl | exact Key.hasW
      | exact Out.sub hL rfl | intro _ | with_reducible apply Out.ite | split | dsimp only [id_eq]
      | (rename_i e; with_reducible refine Out.of_eq e ?_) | with_reducible apply Out.setBands

/-- What `State.stageAs` may change. -/
def stageAsOut : List Key :=
  [.w 9 8, .w 10 20, .w 10 24, .p .vol, .p .pkt, .p .hbm, .p .poison, .p .lost]

theorem State.stageAs_out {s : State} (seq : Nat) (nsid : Nat) (lba : Nat) (b : Block) (h₀ : Out L₀ s₀ s)
    (hL : Key.sub stageAsOut L₀ = true) :
    Out L₀ s₀ (State.stageAs s seq nsid lba b) := by
  unfold State.stageAs
  repeat'
    first
      | with_reducible assumption | with_reducible apply State.partWrite_out | exact Key.hasA rfl | exact Key.hasW
      | exact Out.sub hL rfl | intro _ | with_reducible apply Out.ite | split | dsimp only [id_eq]
      | (rename_i e; with_reducible refine Out.of_eq e ?_) | with_reducible apply Out.setVolLost

theorem State.stage_out {s : State} (nsid : Nat) (lba : Nat) (b : Block) (h₀ : Out L₀ s₀ s)
    (hL : Key.sub stageAsOut L₀ = true) :
    Out L₀ s₀ (State.stage s nsid lba b) := by
  unfold State.stage
  repeat'
    first
      | with_reducible assumption | with_reducible apply State.stageAs_out | exact Key.hasA rfl | exact Key.hasW
      | exact Out.sub hL rfl | intro _ | with_reducible apply Out.ite | split | dsimp only [id_eq]
      | (rename_i e; with_reducible refine Out.of_eq e ?_)

theorem State.stageAll_out (nsid : Nat) (l : List Block) : ∀ {s : State} (lba : Nat), Out L₀ s₀ s →
    Key.sub [.w 9 8, .w 10 20, .w 10 24, .p .vol, .p .wseq, .p .pkt, .p .hbm, .p .poison, .p .lost] L₀ = true → Out L₀ s₀ (State.stageAll s nsid lba l) := by
  induction l with
  | nil => intro s lba h hL; unfold State.stageAll; exact Out.setWseq _ h (Out.sub hL rfl)
  | cons b bs ih => intro s lba h hL; exact ih _ (State.stage_out _ _ _ h (Out.sub hL rfl)) hL

theorem State.trackDue_out {s : State} (nsid : Nat) (lba : Nat) (h₀ : Out L₀ s₀ s)
    (hL : Key.sub [.a 2 32 4, .p .jq, .p .jobNo] L₀ = true) :
    Out L₀ s₀ (State.trackDue s nsid lba) := by
  unfold State.trackDue
  repeat'
    first
      | with_reducible assumption | with_reducible apply State.addJob_out | exact Key.hasA rfl | exact Key.hasW
      | exact Out.sub hL rfl | intro _ | with_reducible apply Out.ite | split | dsimp only [id_eq]
      | (rename_i e; with_reducible refine Out.of_eq e ?_)

theorem State.dueRun_out {s : State} (nsid : Nat) (lba : Nat) (n : Nat) (h₀ : Out L₀ s₀ s)
    (hL : Key.sub [.a 2 32 4, .p .jq, .p .jobNo] L₀ = true) :
    Out L₀ s₀ (State.dueRun s nsid lba n) := by
  unfold State.dueRun
  repeat'
    first
      | with_reducible assumption | with_reducible apply Out.forAll | with_reducible apply State.trackDue_out
      | exact Key.hasA rfl | exact Key.hasW | exact Out.sub hL rfl | intro _ | with_reducible apply Out.ite | split
      | dsimp only [id_eq] | (rename_i e; with_reducible refine Out.of_eq e ?_)

theorem State.showIdx_out {s : State} (old : Nat) (h₀ : Out L₀ s₀ s)
    (hL : Key.sub [.w 6 8, .w 6 12, .p .edges, .p .inbox] L₀ = true) :
    Out L₀ s₀ (State.showIdx s old) := by
  unfold State.showIdx
  repeat'
    first
      | with_reducible assumption | with_reducible apply Out.when | with_reducible apply Out.put
      | with_reducible apply Out.post | with_reducible apply Out.evt | exact Key.hasA rfl | exact Key.hasW
      | exact Out.sub hL rfl | intro _ | with_reducible apply Out.ite | split | dsimp only [id_eq]
      | (rename_i e; with_reducible refine Out.of_eq e ?_)

/-- What `State.kvSetOn` may change. -/
def kvSetOnOut : List Key :=
  [.w 6 8, .w 6 12, .w 9 8, .w 10 20, .w 10 24, .p .edges, .p .inbox, .p .pkt, .p .hbm,
    .p .poison, .p .kvLog]

theorem State.kvSetOn_out {s : State} (seq : Nat) (a : Nat) (nsid : Nat) (key : Nat) (e : Option KvEnt) (h₀ : Out L₀ s₀ s)
    (hL : Key.sub kvSetOnOut L₀ = true) :
    Out L₀ s₀ (State.kvSetOn s seq a nsid key e) := by
  unfold State.kvSetOn
  repeat'
    first
      | with_reducible assumption | with_reducible apply State.partWrite_out | with_reducible apply State.showIdx_out
      | exact Key.hasA rfl | exact Key.hasW | exact Out.sub hL rfl | intro _ | with_reducible apply Out.ite | split
      | dsimp only [id_eq] | (rename_i e; with_reducible refine Out.of_eq e ?_) | with_reducible apply Out.setKvLog

theorem State.kvSetAs_out {s : State} (seq : Nat) (n : Ns) (nsid : Nat) (key : Nat) (e : Option KvEnt) (h₀ : Out L₀ s₀ s)
    (hL : Key.sub kvSetOnOut L₀ = true) :
    Out L₀ s₀ (State.kvSetAs s seq n nsid key e) := by
  unfold State.kvSetAs
  repeat'
    first
      | with_reducible assumption | with_reducible apply State.kvSetOn_out | exact Key.hasA rfl | exact Key.hasW
      | exact Out.sub hL rfl | intro _ | with_reducible apply Out.ite | split | dsimp only [id_eq]
      | (rename_i e; with_reducible refine Out.of_eq e ?_)

theorem State.kvSet_out {s : State} (n : Ns) (nsid : Nat) (key : Nat) (e : Option KvEnt) (h₀ : Out L₀ s₀ s)
    (hL : Key.sub [.w 6 8, .w 6 12, .w 9 8, .w 10 20, .w 10 24, .p .edges, .p .inbox, .p .wseq, .p .pkt, .p .hbm, .p .poison,
    .p .kvLog] L₀ = true) :
    Out L₀ s₀ (State.kvSet s n nsid key e) := by
  unfold State.kvSet
  repeat'
    first
      | with_reducible assumption | with_reducible apply State.kvSetAs_out | exact Key.hasA rfl | exact Key.hasW
      | exact Out.sub hL rfl | intro _ | with_reducible apply Out.ite | split | dsimp only [id_eq]
      | (rename_i e; with_reducible refine Out.of_eq e ?_) | with_reducible apply Out.setWseq

theorem State.kvAlloc_out {s : State} (nsid a g : Nat) (h : Out L₀ s₀ s) (hL : Key.sub [.a 11 32 4, .a 11 48 4, .p .free, .p .nss, .p .bands] L₀ = true) {x : State × Nat}
    (e : State.kvAlloc s nsid a g = some x) : Out L₀ s₀ x.1 := by
  unfold State.kvAlloc at e
  split at e
  · cases e
  · dsimp only at e
    split at e
    · cases e; exact Out.setNss _ h (Out.sub hL rfl)
    · obtain ⟨b, _, rfl⟩ := Option.map_eq_some_iff.mp e
      exact Out.setNss _ (State.setBand_out _ _ (Out.drew h (Out.sub hL rfl)) (Out.sub hL rfl)) (Out.sub hL rfl)

theorem State.stageGranules_out {s : State} (seq : Nat) (nsid : Nat) (loc : Nat) (bs : List Byte) (h₀ : Out L₀ s₀ s)
    (hL : Key.sub [.a 2 32 4, .w 9 8, .w 10 20, .w 10 24, .p .jq, .p .jobNo, .p .vol, .p .pkt, .p .hbm, .p .poison, .p .lost] L₀ = true) :
    Out L₀ s₀ (State.stageGranules s seq nsid loc bs) := by
  unfold State.stageGranules
  repeat'
    first
      | with_reducible assumption | with_reducible apply State.dueRun_out | with_reducible apply Out.forAll
      | with_reducible apply State.stageAs_out | exact Key.hasA rfl | exact Key.hasW | exact Out.sub hL rfl | intro _
      | with_reducible apply Out.ite | split | dsimp only [id_eq]
      | (rename_i e; with_reducible refine Out.of_eq e ?_)

theorem State.kvPlaceValue_out {s : State} (seq : Nat) (nsid : Nat) (a : Nat) (bs : List Byte) (h₀ : Out L₀ s₀ s)
    (hL : Key.sub [.a 2 32 4, .w 9 8, .w 10 20, .w 10 24, .a 11 32 4, .a 11 48 4, .p .free, .p .jq, .p .jobNo, .p .nss, .p .bands,
    .p .vol, .p .pkt, .p .hbm, .p .poison, .p .lost] L₀ = true) :
    Out L₀ s₀ (State.kvPlaceValue s seq nsid a bs).1 := by
  unfold State.kvPlaceValue
  repeat'
    first
      | with_reducible assumption | with_reducible apply State.stageGranules_out | exact Key.hasA rfl
      | exact Key.hasW | exact Out.sub hL rfl
      | (rename_i heq; with_reducible refine State.kvAlloc_out _ _ _ ?_ ?_ heq) | intro _
      | with_reducible apply Out.ite | split | dsimp only [id_eq]
      | (rename_i e; with_reducible refine Out.of_eq e ?_)

/-- What `State.keepFrag` may change. -/
def keepFragOut : List Key :=
  [.a 2 32 4, .w 6 8, .w 6 12, .w 9 8, .w 10 20, .w 10 24, .a 11 32 4, .a 11 48 4,
    .p .free, .p .edges, .p .inbox, .p .jq, .p .jobNo, .p .nss, .p .bands, .p .vol, .p .pkt, .p .hbm, .p .poison,
    .p .lost, .p .kvLog, .p .stripes]

theorem State.keepFrag_out {s : State} (x : Stripe) (i : Nat) (h₀ : Out L₀ s₀ s)
    (hL : Key.sub keepFragOut L₀ = true) :
    Out L₀ s₀ (State.keepFrag s x i) := by
  unfold State.keepFrag
  repeat'
    first
      | with_reducible assumption | with_reducible apply State.kvPlaceValue_out
      | with_reducible apply State.updStripe_out | with_reducible apply State.kvSetAs_out | exact Key.hasA rfl
      | exact Key.hasW | exact Out.sub hL rfl | intro _ | with_reducible apply Out.ite | split | dsimp only [id_eq]
      | (rename_i e; with_reducible refine Out.of_eq e ?_)

theorem State.tidyFrags_out {s : State} (h₀ : Out L₀ s₀ s)
    (hL : Key.sub keepFragOut L₀ = true) :
    Out L₀ s₀ (State.tidyFrags s) := by
  unfold State.tidyFrags
  repeat'
    first
      | with_reducible assumption | with_reducible apply Out.forAll | with_reducible apply State.keepFrag_out
      | with_reducible apply State.kvSetAs_out | exact Key.hasA rfl | exact Key.hasW | exact Out.sub hL rfl | intro _
      | with_reducible apply Out.ite | split | dsimp only [id_eq]
      | (rename_i e; with_reducible refine Out.of_eq e ?_)

end Sys2Proof.Machine
end

