-- ==== Sys2Proof/Laws/OutNvme.lean ====
section
/-!
SUPPORT. What each operation and each command of `Machine/Nvme.lean` can change.
-/

namespace Sys2Proof.Machine

set_option Elab.async false
set_option linter.unusedVariables false

set_option maxRecDepth 8000
set_option linter.unusedTactic false
set_option linter.unreachableTactic false

variable {L₀ : List Key} {s₀ : State}

theorem State.showCmds_out {s : State} (h₀ : Out L₀ s₀ s)
    (hL : Key.sub [.w 2 20, .w 2 24, .w 2 5439488, .w 2 5505024] L₀ = true) :
    Out L₀ s₀ (State.showCmds s) := by
  unfold State.showCmds
  repeat'
    first
      | with_reducible assumption | with_reducible apply Out.puts_nil | with_reducible apply Out.puts_cons
      | with_reducible apply Out.put | exact Key.hasA rfl | exact Key.hasW | exact Out.sub hL rfl | intro _
      | with_reducible apply Out.ite | split | dsimp only [id_eq]
      | (rename_i e; with_reducible refine Out.of_eq e ?_)

theorem State.updCmd_out {s : State} (n : Nat) (f : Cmd → Cmd) (h₀ : Out L₀ s₀ s)
    (hL : Key.sub [.p .cmds] L₀ = true) :
    Out L₀ s₀ (State.updCmd s n f) := by
  unfold State.updCmd
  repeat'
    first
      | with_reducible assumption | exact Key.hasA rfl | exact Key.hasW | exact Out.sub hL rfl | intro _
      | with_reducible apply Out.ite | split | dsimp only [id_eq]
      | (rename_i e; with_reducible refine Out.of_eq e ?_) | with_reducible apply Out.setCmds

theorem State.enlist_out {s : State} (i : CmdId) (nsid : Nat) (ents : List TsEnt) (st : Stat) (dw0 : Nat) (h₀ : Out L₀ s₀ s)
    (hL : Key.sub [.w 2 12, .w 2 20, .w 2 24, .w 2 64, .w 2 5439488, .w 2 5505024, .p .edges, .p .inbox, .p .cmds, .p .cmdNo] L₀ = true) :
    Out L₀ s₀ (State.enlist s i nsid ents st dw0) := by
  unfold State.enlist
  repeat'
    first
      | with_reducible assumption | with_reducible apply State.showCmds_out | with_reducible apply Out.when
      | with_reducible apply Out.count | exact Key.hasA rfl | exact Key.hasW | exact Out.sub hL rfl | intro _
      | with_reducible apply Out.ite | split | dsimp only [id_eq]
      | (rename_i e; with_reducible refine Out.of_eq e ?_) | with_reducible apply Out.setCmdsCmdNo

theorem State.setCtrl_out {s : State} (c : Nat) (x : Option Ctrl) (h₀ : Out L₀ s₀ s)
    (hL : Key.sub [.w 2 8, .p .ctrls] L₀ = true) :
    Out L₀ s₀ (State.setCtrl s c x) := by
  unfold State.setCtrl
  repeat'
    first
      | with_reducible assumption | with_reducible apply Out.put | exact Key.hasA rfl | exact Key.hasW
      | exact Out.sub hL rfl | intro _ | with_reducible apply Out.ite | split | dsimp only [id_eq]
      | (rename_i e; with_reducible refine Out.of_eq e ?_) | with_reducible apply Out.setCtrls

theorem State.sendCqe_out {s : State} (q : Cqe) (h₀ : Out L₀ s₀ s)
    (hL : Key.sub [.p .cqs, .p .errlog] L₀ = true) :
    Out L₀ s₀ (State.sendCqe s q) := by
  unfold State.sendCqe
  repeat'
    first
      | with_reducible assumption | exact Key.hasA rfl | exact Key.hasW | exact Out.sub hL rfl | intro _
      | with_reducible apply Out.ite | split | dsimp only [id_eq]
      | (rename_i e; with_reducible refine Out.of_eq e ?_) | with_reducible apply Out.setCqsErrlog

theorem State.setNs_out {s : State} (n : Nat) (x : Option Ns) (h₀ : Out L₀ s₀ s)
    (hL : Key.sub [.p .nss] L₀ = true) :
    Out L₀ s₀ (State.setNs s n x) := by
  unfold State.setNs
  repeat'
    first
      | with_reducible assumption | exact Key.hasA rfl | exact Key.hasW | exact Out.sub hL rfl | intro _
      | with_reducible apply Out.ite | split | dsimp only [id_eq]
      | (rename_i e; with_reducible refine Out.of_eq e ?_) | with_reducible apply Out.setNss

theorem State.beginPoint_out {s : State} (a : Nat) (h₀ : Out L₀ s₀ s)
    (hL : Key.sub [.a 2 32 4, .w 6 8, .w 6 12, .w 7 12, .w 7 24, .w 7 28, .w 7 17956864, .w 9 8, .w 10 20, .w 10 24, .a 11 32 4,
    .a 11 48 4, .a 65 22347776 268435456, .p .free, .p .edges, .p .inbox, .p .mcache, .p .jq, .p .jobNo, .p .nss,
    .p .bands, .p .vol, .p .points, .p .pkt, .p .hbm, .p .poison, .p .lost, .p .kvLog, .p .stripes] L₀ = true) :
    Out L₀ s₀ (State.beginPoint s a) := by
  unfold State.beginPoint
  repeat'
    first
      | with_reducible assumption | with_reducible apply State.tidyFrags_out
      | with_reducible apply State.sealPacks_out | with_reducible apply State.planPoint_out | exact Key.hasA rfl
      | exact Key.hasW | exact Out.sub hL rfl | intro _ | with_reducible apply Out.ite | split | dsimp only [id_eq]
      | (rename_i e; with_reducible refine Out.of_eq e ?_) | with_reducible apply Out.setPoints

theorem State.drainDeletes_out {s : State} (h₀ : Out L₀ s₀ s)
    (hL : Key.sub [.a 2 32 4, .w 6 8, .w 6 12, .w 7 12, .w 7 24, .w 7 28, .w 7 17956864, .w 9 8, .w 10 20, .w 10 24, .a 11 32 4,
    .a 11 48 4, .a 65 22347776 268435456, .p .free, .p .edges, .p .inbox, .p .mcache, .p .jq, .p .jobNo, .p .cmds,
    .p .nss, .p .bands, .p .vol, .p .points, .p .pkt, .p .hbm, .p .poison, .p .lost, .p .kvLog, .p .stripes] L₀ = true) :
    Out L₀ s₀ (State.drainDeletes s) := by
  unfold State.drainDeletes
  repeat'
    first
      | with_reducible assumption | with_reducible apply Out.forAll | with_reducible apply State.updCmd_out
      | with_reducible apply State.beginPoint_out | exact Key.hasA rfl | exact Key.hasW | exact Out.sub hL rfl
      | intro _ | with_reducible apply Out.ite | split | dsimp only [id_eq]
      | (rename_i e; with_reducible refine Out.of_eq e ?_)

/-- What `State.complete` may change. -/
def completeOut : List Key :=
  [.w 2 20, .w 2 24, .a 2 32 4, .w 2 5439488, .w 2 5505024, .w 6 8, .w 6 12, .w 7 12,
    .w 7 24, .w 7 28, .w 7 17956864, .w 9 8, .w 10 20, .w 10 24, .a 11 32 4, .a 11 48 4, .a 65 22347776 268435456,
    .p .free, .p .edges, .p .inbox, .p .mcache, .p .jq, .p .jobNo, .p .cmds, .p .cqs, .p .nss, .p .bands, .p .vol,
    .p .points, .p .errlog, .p .pkt, .p .hbm, .p .poison, .p .lost, .p .kvLog, .p .stripes]

theorem State.complete_out {s : State} (i : CmdId) (st : Stat) (dw0 : Nat) (data : Payload) (h₀ : Out L₀ s₀ s)
    (hL : Key.sub completeOut L₀ = true) :
    Out L₀ s₀ (State.complete s i st dw0 data) := by
  unfold State.complete
  repeat'
    first
      | with_reducible assumption | with_reducible apply State.showCmds_out
      | with_reducible apply State.drainDeletes_out | with_reducible apply State.sendCqe_out | exact Key.hasA rfl
      | exact Key.hasW | exact Out.sub hL rfl | intro _ | with_reducible apply Out.ite | split | dsimp only [id_eq]
      | (rename_i e; with_reducible refine Out.of_eq e ?_) | with_reducible apply Out.setCmds

theorem State.unflight_out {s : State} (id : CmdId) (h₀ : Out L₀ s₀ s)
    (hL : Key.sub [.w 2 20, .w 2 24, .w 2 5439488, .w 2 5505024, .p .cmds] L₀ = true) :
    Out L₀ s₀ (State.unflight s id) := by
  unfold State.unflight
  repeat'
    first
      | with_reducible assumption | with_reducible apply State.showCmds_out | exact Key.hasA rfl | exact Key.hasW
      | exact Out.sub hL rfl | intro _ | with_reducible apply Out.ite | split | dsimp only [id_eq]
      | (rename_i e; with_reducible refine Out.of_eq e ?_) | with_reducible apply Out.setCmds

theorem State.answer_out {s : State} (i : CmdId) (st : Stat) (h₀ : Out L₀ s₀ s)
    (hL : Key.sub completeOut L₀ = true) :
    Out L₀ s₀ (State.answer s i st) := by
  unfold State.answer
  repeat'
    first
      | with_reducible assumption | with_reducible apply State.complete_out | exact Key.hasA rfl | exact Key.hasW
      | exact Out.sub hL rfl | intro _ | with_reducible apply Out.ite | split | dsimp only [id_eq]
      | (rename_i e; with_reducible refine Out.of_eq e ?_)

/-- What `State.notice` may change. -/
def noticeOut : List Key :=
  [.w 2 8, .w 2 20, .w 2 24, .a 2 32 4, .w 2 5439488, .w 2 5505024, .w 6 8, .w 6 12,
    .w 7 12, .w 7 24, .w 7 28, .w 7 17956864, .w 9 8, .w 10 20, .w 10 24, .a 11 32 4, .a 11 48 4,
    .a 65 22347776 268435456, .p .free, .p .edges, .p .inbox, .p .mcache, .p .jq, .p .jobNo, .p .cmds, .p .cqs,
    .p .ctrls, .p .nss, .p .bands, .p .vol, .p .points, .p .errlog, .p .pkt, .p .hbm, .p .poison, .p .lost,
    .p .kvLog, .p .stripes]

theorem State.notice_out {s : State} (c : Nat) (n : Nat) (h₀ : Out L₀ s₀ s)
    (hL : Key.sub noticeOut L₀ = true) :
    Out L₀ s₀ (State.notice s c n) := by
  unfold State.notice
  repeat'
    first
      | with_reducible assumption | with_reducible apply State.setCtrl_out | with_reducible apply State.complete_out
      | exact Key.hasA rfl | exact Key.hasW | exact Out.sub hL rfl | intro _ | with_reducible apply Out.ite | split
      | dsimp only [id_eq] | (rename_i e; with_reducible refine Out.of_eq e ?_)

theorem State.noticeAll_out {s : State} (cs : List Nat) (bit : Nat) (n : Nat) (h₀ : Out L₀ s₀ s)
    (hL : Key.sub noticeOut L₀ = true) :
    Out L₀ s₀ (State.noticeAll s cs bit n) := by
  unfold State.noticeAll
  repeat'
    first
      | with_reducible assumption | with_reducible apply Out.forAll | with_reducible apply State.notice_out
      | exact Key.hasA rfl | exact Key.hasW | exact Out.sub hL rfl | intro _ | with_reducible apply Out.ite | split
      | dsimp only [id_eq] | (rename_i e; with_reducible refine Out.of_eq e ?_)

end Sys2Proof.Machine
end

