-- ==== Sys2Proof/Laws/OutMedia.lean ====
section
/-!
SUPPORT. What each operation and each command of `Machine/Media.lean` can change.
-/

namespace Sys2Proof.Machine

set_option Elab.async false
set_option linter.unusedVariables false

set_option maxRecDepth 8000
set_option linter.unusedTactic false
set_option linter.unreachableTactic false

variable {L₀ : List Key} {s₀ : State}

/-- What `State.devZone` may change. -/
def devZoneOut : List Key :=
  [.w 2 8, .w 2 20, .w 2 24, .a 2 32 4, .w 2 5439488, .w 2 5505024, .w 6 8, .w 6 12,
    .w 7 12, .w 7 24, .w 7 28, .w 7 17956864, .w 9 8, .w 10 20, .w 10 24, .a 11 32 4, .a 11 48 4,
    .a 65 22347776 268435456, .p .free, .p .edges, .p .inbox, .p .mcache, .p .jq, .p .jobNo, .p .cmds, .p .cqs,
    .p .ctrls, .p .nss, .p .zones, .p .bands, .p .vol, .p .points, .p .errlog, .p .pkt, .p .hbm, .p .poison,
    .p .lost, .p .kvLog, .p .stripes]

theorem State.devZone_out {s : State} (nsid : Nat) (z : Nat) (x : Zone) (h₀ : Out L₀ s₀ s)
    (hL : Key.sub devZoneOut L₀ = true) :
    Out L₀ s₀ (State.devZone s nsid z x) := by
  unfold State.devZone
  repeat'
    first
      | with_reducible assumption | with_reducible apply State.setZone_out | with_reducible apply Out.forAll
      | with_reducible apply State.setCtrl_out | with_reducible apply State.noticeAll_out | exact Key.hasA rfl
      | exact Key.hasW | exact Out.sub hL rfl | intro _ | with_reducible apply Out.ite | split | dsimp only [id_eq]
      | (rename_i e; with_reducible refine Out.of_eq e ?_)

theorem State.zeroRange_out {s : State} (nsid : Nat) (lba : Nat) (n : Nat) (h₀ : Out L₀ s₀ s)
    (hL : Key.sub [.p .vol, .p .dur] L₀ = true) :
    Out L₀ s₀ (State.zeroRange s nsid lba n) := by
  unfold State.zeroRange
  repeat'
    first
      | with_reducible assumption | exact Key.hasA rfl | exact Key.hasW | exact Out.sub hL rfl | intro _
      | with_reducible apply Out.ite | split | dsimp only [id_eq]
      | (rename_i e; with_reducible refine Out.of_eq e ?_) | with_reducible apply Out.setVolDur

theorem State.dropNs_out {s : State} (nsid : Nat) (h₀ : Out L₀ s₀ s)
    (hL : Key.sub [.p .mcache, .p .vol, .p .dur, .p .lost] L₀ = true) :
    Out L₀ s₀ (State.dropNs s nsid) := by
  unfold State.dropNs
  repeat'
    first
      | with_reducible assumption | exact Key.hasA rfl | exact Key.hasW | exact Out.sub hL rfl | intro _
      | with_reducible apply Out.ite | split | dsimp only [id_eq]
      | (rename_i e; with_reducible refine Out.of_eq e ?_) | with_reducible apply Out.setMcacheVolDurLost

theorem State.land_out {s : State} (nsid : Nat) (lba : Nat) (n : Nat) (h₀ : Out L₀ s₀ s)
    (hL : Key.sub [.p .vol] L₀ = true) :
    Out L₀ s₀ (State.land s nsid lba n) := by
  unfold State.land
  repeat'
    first
      | with_reducible assumption | exact Key.hasA rfl | exact Key.hasW | exact Out.sub hL rfl | intro _
      | with_reducible apply Out.ite | split | dsimp only [id_eq]
      | (rename_i e; with_reducible refine Out.of_eq e ?_) | with_reducible apply Out.setVol

theorem State.putTrack_out {s : State} (a : Nat) (j : Job) (x : MTrack) (h₀ : Out L₀ s₀ s)
    (hL : Key.sub [.p .media] L₀ = true) :
    Out L₀ s₀ (State.putTrack s a j x) := by
  unfold State.putTrack
  repeat'
    first
      | with_reducible assumption | exact Key.hasA rfl | exact Key.hasW | exact Out.sub hL rfl | intro _
      | with_reducible apply Out.ite | split | dsimp only [id_eq]
      | (rename_i e; with_reducible refine Out.of_eq e ?_) | with_reducible apply Out.setMedia

theorem State.checkpoint_out {s : State} (a : Nat) (h₀ : Out L₀ s₀ s)
    (hL : Key.sub [.p .media] L₀ = true) :
    Out L₀ s₀ (State.checkpoint s a) := by
  unfold State.checkpoint
  repeat'
    first
      | with_reducible assumption | with_reducible apply Out.forAll | with_reducible apply State.putTrack_out
      | exact Key.hasA rfl | exact Key.hasW | exact Out.sub hL rfl | intro _ | with_reducible apply Out.ite | split
      | dsimp only [id_eq] | (rename_i e; with_reducible refine Out.of_eq e ?_)

theorem State.sysRecord_out {s : State} (a : Nat) (c : Nat) (h₀ : Out L₀ s₀ s)
    (hL : Key.sub [.a 65 24969216 268435456, .p .media] L₀ = true) :
    Out L₀ s₀ (State.sysRecord s a c) := by
  unfold State.sysRecord
  repeat'
    first
      | with_reducible assumption | with_reducible apply Out.put | with_reducible apply State.putTrack_out
      | with_reducible apply Out.when | with_reducible apply State.checkpoint_out | exact Key.hasA rfl
      | exact Key.hasW | exact Out.sub hL rfl | intro _ | with_reducible apply Out.ite | split | dsimp only [id_eq]
      | (rename_i e; with_reducible refine Out.of_eq e ?_)

theorem State.mapLog_out {s : State} (a : Nat) (h₀ : Out L₀ s₀ s)
    (hL : Key.sub [.a 65 24969216 268435456, .p .media] L₀ = true) :
    Out L₀ s₀ (State.mapLog s a) := by
  unfold State.mapLog
  repeat'
    first
      | with_reducible assumption | with_reducible apply State.sysRecord_out | exact Key.hasA rfl | exact Key.hasW
      | exact Out.sub hL rfl | intro _ | with_reducible apply Out.ite | split | dsimp only [id_eq]
      | (rename_i e; with_reducible refine Out.of_eq e ?_)

theorem State.landCache_out {s : State} (a : Nat) (c : CTrack) (h₀ : Out L₀ s₀ s)
    (hL : Key.sub [.p .mcache, .p .vol] L₀ = true) :
    Out L₀ s₀ (State.landCache s a c) := by
  unfold State.landCache
  repeat'
    first
      | with_reducible assumption | with_reducible apply State.setClog_out | exact Key.hasA rfl | exact Key.hasW
      | exact Out.sub hL rfl | intro _ | with_reducible apply Out.ite | split | dsimp only [id_eq]
      | (rename_i e; with_reducible refine Out.of_eq e ?_) | with_reducible apply Out.setVol

theorem State.bandWritten_out {s : State} (j : Job) (h₀ : Out L₀ s₀ s)
    (hL : Key.sub [.a 11 32 4, .a 11 48 4, .p .bands] L₀ = true) :
    Out L₀ s₀ (State.bandWritten s j) := by
  unfold State.bandWritten
  repeat'
    first
      | with_reducible assumption | with_reducible apply State.setBand_out | exact Key.hasA rfl | exact Key.hasW
      | exact Out.sub hL rfl | intro _ | with_reducible apply Out.ite | split | dsimp only [id_eq]
      | (rename_i e; with_reducible refine Out.of_eq e ?_)

theorem State.readStaged_out {s : State} (a : Nat) (j : Job) (h₀ : Out L₀ s₀ s)
    (hL : Key.sub [.w 9 8, .w 10 20, .w 10 24, .p .pkt, .p .hbm, .p .poison] L₀ = true) :
    Out L₀ s₀ (State.readStaged s a j) := by
  unfold State.readStaged
  repeat'
    first
      | with_reducible assumption | with_reducible apply Out.forAll | with_reducible apply State.partRead_out
      | exact Key.hasA rfl | exact Key.hasW | exact Out.sub hL rfl | intro _ | with_reducible apply Out.ite | split
      | dsimp only [id_eq] | (rename_i e; with_reducible refine Out.of_eq e ?_)

theorem State.writeTrack_out {s : State} (a : Nat) (j : Job) (h₀ : Out L₀ s₀ s)
    (hL : Key.sub [.w 9 8, .w 10 20, .w 10 24, .a 11 32 4, .a 11 48 4, .p .media, .p .mcache, .p .bands, .p .vol, .p .pkt, .p .hbm,
    .p .poison] L₀ = true) :
    Out L₀ s₀ (State.writeTrack s a j) := by
  unfold State.writeTrack
  repeat'
    first
      | with_reducible assumption | with_reducible apply State.landCache_out
      | with_reducible apply State.bandWritten_out | with_reducible apply State.readStaged_out
      | with_reducible apply State.partWrite_out | exact Key.hasA rfl | exact Key.hasW | exact Out.sub hL rfl
      | intro _ | with_reducible apply Out.ite | split | dsimp only [id_eq]
      | (rename_i e; with_reducible refine Out.of_eq e ?_) | with_reducible apply Out.setMedia

theorem State.replayCache_out {s : State} (a : Nat) (h₀ : Out L₀ s₀ s)
    (hL : Key.sub [.a 65 22347776 268435456, .p .mcache] L₀ = true) :
    Out L₀ s₀ (State.replayCache s a) := by
  unfold State.replayCache
  repeat'
    first
      | with_reducible assumption | with_reducible apply Out.put | with_reducible apply State.setClog_out
      | exact Key.hasA rfl | exact Key.hasW | exact Out.sub hL rfl | intro _ | with_reducible apply Out.ite | split
      | dsimp only [id_eq] | (rename_i e; with_reducible refine Out.of_eq e ?_)

theorem State.rewindKv_out {s : State} (nsid : Nat) (h₀ : Out L₀ s₀ s)
    (hL : Key.sub [.a 11 32 4, .a 11 48 4, .p .nss, .p .bands] L₀ = true) :
    Out L₀ s₀ (State.rewindKv s nsid) := by
  unfold State.rewindKv
  repeat'
    first
      | with_reducible assumption | with_reducible apply Out.forAll | with_reducible apply State.setBand_out
      | exact Key.hasA rfl | exact Key.hasW | exact Out.sub hL rfl | intro _ | with_reducible apply Out.ite | split
      | dsimp only [id_eq] | (rename_i e; with_reducible refine Out.of_eq e ?_) | with_reducible apply Out.setNss

theorem State.loseVolatile_out {s : State} (h₀ : Out L₀ s₀ s)
    (hL : Key.sub [.a 11 32 4, .a 11 48 4, .a 65 22347776 268435456, .p .mcache, .p .nss, .p .zones, .p .bands, .p .vol, .p .points] L₀ = true) :
    Out L₀ s₀ (State.loseVolatile s) := by
  unfold State.loseVolatile
  repeat'
    first
      | with_reducible assumption | with_reducible apply Out.forAll | with_reducible apply State.replayCache_out
      | with_reducible apply State.rewindKv_out | with_reducible apply Out.foldl | with_reducible apply Out.foldlFst
      | exact Key.hasA rfl | exact Key.hasW | exact Out.sub hL rfl | intro _ | with_reducible apply Out.ite | split
      | dsimp only [id_eq] | (rename_i e; with_reducible refine Out.of_eq e ?_)
      | with_reducible apply Out.setZonesBandsVolPoints

theorem State.trimCache_out {s : State} (a : Nat) (h₀ : Out L₀ s₀ s)
    (hL : Key.sub [.p .mcache] L₀ = true) :
    Out L₀ s₀ (State.trimCache s a) := by
  unfold State.trimCache
  repeat'
    first
      | with_reducible assumption | with_reducible apply State.setClog_out | exact Key.hasA rfl | exact Key.hasW
      | exact Out.sub hL rfl | intro _ | with_reducible apply Out.ite | split | dsimp only [id_eq]
      | (rename_i e; with_reducible refine Out.of_eq e ?_)

theorem State.recordCopy_out {s : State} (a : Nat) (c : Nat) (r : DurRec) (h₀ : Out L₀ s₀ s)
    (hL : Key.sub [.a 65 24969216 268435456, .p .media, .p .sysrec] L₀ = true) :
    Out L₀ s₀ (State.recordCopy s a c r) := by
  unfold State.recordCopy
  repeat'
    first
      | with_reducible assumption | with_reducible apply State.sysRecord_out | exact Key.hasA rfl | exact Key.hasW
      | exact Out.sub hL rfl | intro _ | with_reducible apply Out.ite | split | dsimp only [id_eq]
      | (rename_i e; with_reducible refine Out.of_eq e ?_) | with_reducible apply Out.setSysrec

theorem State.levelCopies_out {s : State} (a : Nat) (h₀ : Out L₀ s₀ s)
    (hL : Key.sub [.a 65 24969216 268435456, .p .media, .p .sysrec] L₀ = true) :
    Out L₀ s₀ (State.levelCopies s a) := by
  unfold State.levelCopies
  repeat'
    first
      | with_reducible assumption | with_reducible apply Out.forAll | with_reducible apply State.recordCopy_out
      | exact Key.hasA rfl | exact Key.hasW | exact Out.sub hL rfl | intro _ | with_reducible apply Out.ite | split
      | dsimp only [id_eq] | (rename_i e; with_reducible refine Out.of_eq e ?_)

theorem State.recordPoint_out {s : State} (a : Nat) (bound : Nat) (copy : Nat) (h₀ : Out L₀ s₀ s)
    (hL : Key.sub [.a 65 24969216 268435456, .p .media, .p .mcache, .p .sysrec] L₀ = true) :
    Out L₀ s₀ (State.recordPoint s a bound copy) := by
  unfold State.recordPoint
  repeat'
    first
      | with_reducible assumption | with_reducible apply State.setClog_out | with_reducible apply State.trimCache_out
      | with_reducible apply Out.when | with_reducible apply State.recordCopy_out | with_reducible apply Out.foldl
      | with_reducible apply Out.foldlFst | exact Key.hasA rfl | exact Key.hasW | exact Out.sub hL rfl | intro _
      | with_reducible apply Out.ite | split | dsimp only [id_eq]
      | (rename_i e; with_reducible refine Out.of_eq e ?_)

theorem State.makeDurable_out {s : State} (a : Nat) (bound : Nat) (h₀ : Out L₀ s₀ s)
    (hL : Key.sub [.p .zones, .p .vol, .p .dur] L₀ = true) :
    Out L₀ s₀ (State.makeDurable s a bound) := by
  unfold State.makeDurable
  repeat'
    first
      | with_reducible assumption | with_reducible apply Out.foldl | with_reducible apply Out.foldlFst
      | exact Key.hasA rfl | exact Key.hasW | exact Out.sub hL rfl | intro _ | with_reducible apply Out.ite | split
      | dsimp only [id_eq] | (rename_i e; with_reducible refine Out.of_eq e ?_)
      | with_reducible apply Out.setZonesVolDur

theorem State.resumeOps_out {s : State} (a : Nat) (h₀ : Out L₀ s₀ s)
    (hL : Key.sub [.w 11 12, .w 11 84, .p .edges, .p .inbox] L₀ = true) :
    Out L₀ s₀ (State.resumeOps s a) := by
  unfold State.resumeOps
  repeat'
    first
      | with_reducible assumption | with_reducible apply Out.forAll | with_reducible apply State.resumeOp1_out
      | exact Key.hasA rfl | exact Key.hasW | exact Out.sub hL rfl | intro _ | with_reducible apply Out.ite | split
      | dsimp only [id_eq] | (rename_i e; with_reducible refine Out.of_eq e ?_)

theorem State.refreshAct_out {s : State} (a : Nat) (cblk : Nat) (ccode : Nat) (h₀ : Out L₀ s₀ s)
    (hL : Key.sub [.a 2 32 4, .w 11 8, .w 11 12, .w 11 84, .p .edges, .p .inbox] L₀ = true) :
    Out L₀ s₀ (State.refreshAct s a cblk ccode) := by
  unfold State.refreshAct
  repeat'
    first
      | with_reducible assumption | with_reducible apply Out.puts_nil | with_reducible apply Out.puts_cons
      | with_reducible apply Out.put | with_reducible apply Out.post | with_reducible apply Out.evt
      | with_reducible apply Out.when | with_reducible apply State.resumeOps_out
      | with_reducible apply State.releaseHold_out | exact Key.hasA rfl | exact Key.hasW | exact Out.sub hL rfl
      | intro _ | with_reducible apply Out.ite | split | dsimp only [id_eq]
      | (rename_i e; with_reducible refine Out.of_eq e ?_)

theorem State.jput_out {s : State} (r : JRec) (h₀ : Out L₀ s₀ s)
    (hL : Key.sub [.w 20 8, .w 20 12, .a 20 32 4, .a 65 15335424 268435456, .a 65 15400960 268435456, .p .edges, .p .journal,
    .p .jseq, .p .fops, .p .fwait] L₀ = true) :
    Out L₀ s₀ (State.jput s r) := by
  unfold State.jput
  repeat'
    first
      | with_reducible assumption | with_reducible apply Out.when | with_reducible apply State.reqProg_out
      | exact Key.hasA rfl | exact Key.hasW | exact Out.sub hL rfl | intro _ | with_reducible apply Out.ite | split
      | dsimp only [id_eq] | (rename_i e; with_reducible refine Out.of_eq e ?_)
      | with_reducible apply Out.setJournalJseq

/-- What `State.jReady` may change. -/
def jReadyOut : List Key :=
  [.w 20 8, .w 20 12, .a 20 32 4, .a 65 15335424 268435456, .a 65 15400960 268435456,
    .p .edges, .p .journal, .p .jseq, .p .blks, .p .fops, .p .fwait]

theorem State.jReady_out {s : State} (h₀ : Out L₀ s₀ s)
    (hL : Key.sub jReadyOut L₀ = true) :
    Out L₀ s₀ (State.jReady s) := by
  unfold State.jReady
  repeat'
    first
      | with_reducible assumption | with_reducible apply Out.forAll | with_reducible apply State.jput_out
      | with_reducible apply Out.when | with_reducible apply State.reqErase_out | exact Key.hasA rfl | exact Key.hasW
      | exact Out.sub hL rfl | intro _ | with_reducible apply Out.ite | split | dsimp only [id_eq]
      | (rename_i e; with_reducible refine Out.of_eq e ?_) | with_reducible apply Out.setJournal

theorem State.jrec_out {s : State} (o : MOp) (step : Nat) (h₀ : Out L₀ s₀ s)
    (hL : Key.sub jReadyOut L₀ = true) :
    Out L₀ s₀ (State.jrec s o step) := by
  unfold State.jrec
  repeat'
    first
      | with_reducible assumption | with_reducible apply State.jput_out | with_reducible apply Out.when
      | with_reducible apply State.jReady_out | exact Key.hasA rfl | exact Key.hasW | exact Out.sub hL rfl | intro _
      | with_reducible apply Out.ite | split | dsimp only [id_eq]
      | (rename_i e; with_reducible refine Out.of_eq e ?_)

theorem State.setOp_out {s : State} (o : MOp) (h₀ : Out L₀ s₀ s)
    (hL : Key.sub [.p .mops] L₀ = true) :
    Out L₀ s₀ (State.setOp s o) := by
  unfold State.setOp
  repeat'
    first
      | with_reducible assumption | exact Key.hasA rfl | exact Key.hasW | exact Out.sub hL rfl | intro _
      | with_reducible apply Out.ite | split | dsimp only [id_eq]
      | (rename_i e; with_reducible refine Out.of_eq e ?_) | with_reducible apply Out.setMops

theorem State.showOps_out {s : State} (a : Nat) (h₀ : Out L₀ s₀ s)
    (hL : Key.sub [.w 11 8] L₀ = true) :
    Out L₀ s₀ (State.showOps s a) := by
  unfold State.showOps
  repeat'
    first
      | with_reducible assumption | with_reducible apply State.setBit_out | exact Key.hasA rfl | exact Key.hasW
      | exact Out.sub hL rfl | intro _ | with_reducible apply Out.ite | split | dsimp only [id_eq]
      | (rename_i e; with_reducible refine Out.of_eq e ?_)

theorem State.endOp_out {s : State} (o : MOp) (h₀ : Out L₀ s₀ s)
    (hL : Key.sub [.w 11 8, .p .mops] L₀ = true) :
    Out L₀ s₀ (State.endOp s o) := by
  unfold State.endOp
  repeat'
    first
      | with_reducible assumption | with_reducible apply State.showOps_out | exact Key.hasA rfl | exact Key.hasW
      | exact Out.sub hL rfl | intro _ | with_reducible apply Out.ite | split | dsimp only [id_eq]
      | (rename_i e; with_reducible refine Out.of_eq e ?_) | with_reducible apply Out.setMops

theorem State.addOp_out {s : State} (o : MOp) (h₀ : Out L₀ s₀ s)
    (hL : Key.sub [.p .mops, .p .opid] L₀ = true) :
    Out L₀ s₀ (State.addOp s o) := by
  unfold State.addOp
  repeat'
    first
      | with_reducible assumption | exact Key.hasA rfl | exact Key.hasW | exact Out.sub hL rfl | intro _
      | with_reducible apply Out.ite | split | dsimp only [id_eq]
      | (rename_i e; with_reducible refine Out.of_eq e ?_) | with_reducible apply Out.setMopsOpid

/-- What `State.beginOp` may change. -/
def beginOpOut : List Key :=
  [.w 11 8, .w 20 8, .w 20 12, .a 20 32 4, .a 65 15335424 268435456,
    .a 65 15400960 268435456, .p .edges, .p .mops, .p .opid, .p .journal, .p .jseq, .p .blks, .p .fops, .p .fwait]

theorem State.beginOp_out {s : State} (o : MOp) (h₀ : Out L₀ s₀ s)
    (hL : Key.sub beginOpOut L₀ = true) :
    Out L₀ s₀ (State.beginOp s o) := by
  unfold State.beginOp
  repeat'
    first
      | with_reducible assumption | with_reducible apply State.jrec_out | with_reducible apply State.showOps_out
      | with_reducible apply State.addOp_out | exact Key.hasA rfl | exact Key.hasW | exact Out.sub hL rfl | intro _
      | with_reducible apply Out.ite | split | dsimp only [id_eq]
      | (rename_i e; with_reducible refine Out.of_eq e ?_)

theorem State.showReloc_out {s : State} (id : Nat) (h₀ : Out L₀ s₀ s)
    (hL : Key.sub devZoneOut L₀ = true) :
    Out L₀ s₀ (State.showReloc s id) := by
  unfold State.showReloc
  repeat'
    first
      | with_reducible assumption | with_reducible apply Out.forAll | with_reducible apply State.devZone_out
      | exact Key.hasA rfl | exact Key.hasW | exact Out.sub hL rfl | intro _ | with_reducible apply Out.ite | split
      | dsimp only [id_eq] | (rename_i e; with_reducible refine Out.of_eq e ?_)

/-- What `State.tryRelay` may change. -/
def tryRelayOut : List Key :=
  [.w 11 8, .a 11 32 4, .a 11 48 4, .w 20 8, .w 20 12, .a 20 32 4,
    .a 65 15335424 268435456, .a 65 15400960 268435456, .p .edges, .p .bands, .p .mops, .p .opid, .p .journal,
    .p .jseq, .p .blks, .p .fops, .p .fwait]

theorem State.tryRelay_out {s : State} (id : Nat) (h₀ : Out L₀ s₀ s)
    (hL : Key.sub tryRelayOut L₀ = true) :
    Out L₀ s₀ (State.tryRelay s id) := by
  unfold State.tryRelay
  repeat'
    first
      | with_reducible assumption | with_reducible apply Out.forAll | with_reducible apply State.setBand_out
      | with_reducible apply State.beginOp_out | exact Key.hasA rfl | exact Key.hasW | exact Out.sub hL rfl | intro _
      | with_reducible apply Out.ite | split | dsimp only [id_eq]
      | (rename_i e; with_reducible refine Out.of_eq e ?_)

theorem State.relayNext_out {s : State} (a : Nat) (h₀ : Out L₀ s₀ s)
    (hL : Key.sub tryRelayOut L₀ = true) :
    Out L₀ s₀ (State.relayNext s a) := by
  unfold State.relayNext
  repeat'
    first
      | with_reducible assumption | with_reducible apply State.tryRelay_out | exact Key.hasA rfl | exact Key.hasW
      | exact Out.sub hL rfl | intro _ | with_reducible apply Out.ite | split | dsimp only [id_eq]
      | (rename_i e; with_reducible refine Out.of_eq e ?_)

/-- What `State.freeBand` may change. -/
def freeBandOut : List Key :=
  [.w 11 8, .a 11 32 4, .a 11 48 4, .w 20 8, .w 20 12, .a 20 32 4,
    .a 65 15335424 268435456, .a 65 15400960 268435456, .p .edges, .p .bands, .p .mops, .p .opid, .p .journal,
    .p .jseq, .p .blks, .p .fops, .p .fwait, .p .weakSlots]

theorem State.freeBand_out {s : State} (id : Nat) (h₀ : Out L₀ s₀ s)
    (hL : Key.sub freeBandOut L₀ = true) :
    Out L₀ s₀ (State.freeBand s id) := by
  unfold State.freeBand
  repeat'
    first
      | with_reducible assumption | with_reducible apply State.setBand_out | with_reducible apply Out.when
      | with_reducible apply State.tryRelay_out | exact Key.hasA rfl | exact Key.hasW | exact Out.sub hL rfl
      | intro _ | with_reducible apply Out.ite | split | dsimp only [id_eq]
      | (rename_i e; with_reducible refine Out.of_eq e ?_) | with_reducible apply Out.setWeakSlots

theorem State.unhold_out {s : State} (o : MOp) (h₀ : Out L₀ s₀ s)
    (hL : Key.sub [.a 11 32 4, .a 11 48 4, .p .bands] L₀ = true) :
    Out L₀ s₀ (State.unhold s o) := by
  unfold State.unhold
  repeat'
    first
      | with_reducible assumption | with_reducible apply Out.forAll | with_reducible apply State.setBand_out
      | exact Key.hasA rfl | exact Key.hasW | exact Out.sub hL rfl | intro _ | with_reducible apply Out.ite | split
      | dsimp only [id_eq] | (rename_i e; with_reducible refine Out.of_eq e ?_)

theorem State.releaseSrc_out {s : State} (o : MOp) (h₀ : Out L₀ s₀ s)
    (hL : Key.sub freeBandOut L₀ = true) :
    Out L₀ s₀ (State.releaseSrc s o) := by
  unfold State.releaseSrc
  repeat'
    first
      | with_reducible assumption | with_reducible apply State.setBand_out | with_reducible apply State.tryRelay_out
      | with_reducible apply State.freeBand_out | exact Key.hasA rfl | exact Key.hasW | exact Out.sub hL rfl
      | intro _ | with_reducible apply Out.ite | split | dsimp only [id_eq]
      | (rename_i e; with_reducible refine Out.of_eq e ?_)

theorem State.abandonOp_out {s : State} (o : MOp) (h₀ : Out L₀ s₀ s)
    (hL : Key.sub [.w 2 8, .w 2 20, .w 2 24, .a 2 32 4, .w 2 5439488, .w 2 5505024, .w 6 8, .w 6 12, .w 7 12, .w 7 24, .w 7 28,
    .w 7 17956864, .w 9 8, .w 10 20, .w 10 24, .w 11 8, .a 11 32 4, .a 11 48 4, .w 20 8, .w 20 12, .a 20 32 4,
    .a 65 15335424 268435456, .a 65 15400960 268435456, .a 65 22347776 268435456, .p .free, .p .edges, .p .inbox,
    .p .mcache, .p .jq, .p .jobNo, .p .cmds, .p .cqs, .p .ctrls, .p .nss, .p .zones, .p .bands, .p .vol, .p .points,
    .p .mops, .p .opid, .p .journal, .p .jseq, .p .blks, .p .fops, .p .fwait, .p .errlog, .p .pkt, .p .hbm,
    .p .poison, .p .lost, .p .kvLog, .p .stripes, .p .weakSlots] L₀ = true) :
    Out L₀ s₀ (State.abandonOp s o) := by
  unfold State.abandonOp
  repeat'
    first
      | with_reducible assumption | with_reducible apply Out.when | with_reducible apply State.endOp_out
      | with_reducible apply State.jrec_out | with_reducible apply State.showReloc_out
      | with_reducible apply State.unhold_out | with_reducible apply State.releaseSrc_out
      | with_reducible apply State.freeBand_out | exact Key.hasA rfl | exact Key.hasW | exact Out.sub hL rfl
      | intro _ | with_reducible apply Out.ite | split | dsimp only [id_eq]
      | (rename_i e; with_reducible refine Out.of_eq e ?_)

theorem State.checkSpare_out {s : State} (h₀ : Out L₀ s₀ s)
    (hL : Key.sub [.w 2 8, .w 2 20, .w 2 24, .a 2 32 4, .w 2 5439488, .w 2 5505024, .w 6 8, .w 6 12, .w 7 12, .w 7 24, .w 7 28,
    .w 7 17956864, .w 9 8, .w 10 20, .w 10 24, .w 11 8, .w 11 12, .a 11 32 4, .a 11 48 4, .a 65 22347776 268435456,
    .p .free, .p .edges, .p .inbox, .p .mcache, .p .jq, .p .jobNo, .p .cmds, .p .cqs, .p .ctrls, .p .nss, .p .bands,
    .p .vol, .p .points, .p .errlog, .p .pkt, .p .hbm, .p .poison, .p .lost, .p .kvLog, .p .stripes] L₀ = true) :
    Out L₀ s₀ (State.checkSpare s) := by
  unfold State.checkSpare
  repeat'
    first
      | with_reducible assumption | with_reducible apply Out.when | with_reducible apply Out.post
      | with_reducible apply Out.evt | with_reducible apply Out.put | with_reducible apply State.noticeAll_out
      | exact Key.hasA rfl | exact Key.hasW | exact Out.sub hL rfl | intro _ | with_reducible apply Out.ite | split
      | dsimp only [id_eq] | (rename_i e; with_reducible refine Out.of_eq e ?_)

theorem State.reclaimNext_out {s : State} (a : Nat) (h₀ : Out L₀ s₀ s)
    (hL : Key.sub [.w 2 8, .w 2 20, .w 2 24, .a 2 32 4, .w 2 5439488, .w 2 5505024, .w 6 8, .w 6 12, .w 7 12, .w 7 24, .w 7 28,
    .w 7 17956864, .w 9 8, .w 10 20, .w 10 24, .w 11 8, .w 11 12, .a 11 32 4, .a 11 48 4, .w 20 8, .w 20 12,
    .a 20 32 4, .a 65 15335424 268435456, .a 65 15400960 268435456, .a 65 22347776 268435456, .p .free, .p .edges,
    .p .inbox, .p .mcache, .p .jq, .p .jobNo, .p .cmds, .p .cqs, .p .ctrls, .p .nss, .p .bands, .p .vol, .p .points,
    .p .mops, .p .journal, .p .jseq, .p .blks, .p .fops, .p .fwait, .p .errlog, .p .pkt, .p .hbm, .p .poison,
    .p .lost, .p .kvLog, .p .stripes] L₀ = true) :
    Out L₀ s₀ (State.reclaimNext s a) := by
  unfold State.reclaimNext
  repeat'
    first
      | with_reducible assumption | with_reducible apply State.checkSpare_out | with_reducible apply State.jrec_out
      | with_reducible apply State.showOps_out | with_reducible apply State.setOp_out
      | with_reducible apply State.setBand_out | with_reducible apply Out.drew | exact Key.hasA rfl | exact Key.hasW
      | exact Out.sub hL rfl | intro _ | with_reducible apply Out.ite | split | dsimp only [id_eq]
      | (rename_i e; with_reducible refine Out.of_eq e ?_)

/-- What `State.reclaim` may change. -/
def reclaimOut : List Key :=
  [.w 2 8, .w 2 20, .w 2 24, .a 2 32 4, .w 2 5439488, .w 2 5505024, .w 6 8, .w 6 12,
    .w 7 12, .w 7 24, .w 7 28, .w 7 17956864, .w 9 8, .w 10 20, .w 10 24, .w 11 8, .w 11 12, .a 11 32 4, .a 11 48 4,
    .w 20 8, .w 20 12, .a 20 32 4, .a 65 15335424 268435456, .a 65 15400960 268435456, .a 65 22347776 268435456,
    .p .free, .p .edges, .p .inbox, .p .mcache, .p .jq, .p .jobNo, .p .cmds, .p .cqs, .p .ctrls, .p .nss, .p .zones,
    .p .bands, .p .vol, .p .points, .p .mops, .p .opid, .p .journal, .p .jseq, .p .blks, .p .fops, .p .fwait,
    .p .errlog, .p .pkt, .p .hbm, .p .poison, .p .lost, .p .kvLog, .p .stripes]

theorem State.reclaim_out {s : State} (src : Nat) (cause : Nat) (dcls : Nat) (h₀ : Out L₀ s₀ s)
    (hL : Key.sub reclaimOut L₀ = true) :
    Out L₀ s₀ (State.reclaim s src cause dcls) := by
  unfold State.reclaim
  repeat'
    first
      | with_reducible assumption | with_reducible apply State.reclaimNext_out
      | with_reducible apply State.showReloc_out | with_reducible apply State.addOp_out | exact Key.hasA rfl
      | exact Key.hasW | exact Out.sub hL rfl | intro _ | with_reducible apply Out.ite | split | dsimp only [id_eq]
      | (rename_i e; with_reducible refine Out.of_eq e ?_)

theorem State.clean_out {s : State} (a : Nat) (h₀ : Out L₀ s₀ s)
    (hL : Key.sub reclaimOut L₀ = true) :
    Out L₀ s₀ (State.clean s a) := by
  unfold State.clean
  repeat'
    first
      | with_reducible assumption | with_reducible apply State.reclaim_out | exact Key.hasA rfl | exact Key.hasW
      | exact Out.sub hL rfl | intro _ | with_reducible apply Out.ite | split | dsimp only [id_eq]
      | (rename_i e; with_reducible refine Out.of_eq e ?_)

theorem State.cleanSwitch_out {s : State} (o : MOp) (h₀ : Out L₀ s₀ s)
    (hL : Key.sub [.p .mcache] L₀ = true) :
    Out L₀ s₀ (State.cleanSwitch s o) := by
  unfold State.cleanSwitch
  repeat'
    first
      | with_reducible assumption | with_reducible apply State.trimCache_out | with_reducible apply State.setClog_out
      | exact Key.hasA rfl | exact Key.hasW | exact Out.sub hL rfl | intro _ | with_reducible apply Out.ite | split
      | dsimp only [id_eq] | (rename_i e; with_reducible refine Out.of_eq e ?_)

theorem State.copyRead_out {s : State} (x : Nat × Nat × Nat) (h₀ : Out L₀ s₀ s)
    (hL : Key.sub [.w 9 8, .w 10 20, .w 10 24, .p .pkt, .p .hbm, .p .poison] L₀ = true) :
    Out L₀ s₀ (State.copyRead s x) := by
  unfold State.copyRead
  repeat'
    first
      | with_reducible assumption | with_reducible apply State.memTouch_out | with_reducible apply Out.forAll
      | with_reducible apply State.partRead_out | exact Key.hasA rfl | exact Key.hasW | exact Out.sub hL rfl
      | intro _ | with_reducible apply Out.ite | split | dsimp only [id_eq]
      | (rename_i e; with_reducible refine Out.of_eq e ?_)

theorem State.copyDone_out {s : State} (c : Cmd) (h₀ : Out L₀ s₀ s)
    (hL : Key.sub [.w 9 8, .w 10 20, .w 10 24, .p .pkt, .p .hbm, .p .poison] L₀ = true) :
    Out L₀ s₀ (State.copyDone s c) := by
  unfold State.copyDone
  repeat'
    first
      | with_reducible assumption | with_reducible apply Out.forAll | with_reducible apply State.copyRead_out
      | with_reducible apply State.memPut_out | exact Key.hasA rfl | exact Key.hasW | exact Out.sub hL rfl | intro _
      | with_reducible apply Out.ite | split | dsimp only [id_eq]
      | (rename_i e; with_reducible refine Out.of_eq e ?_)

theorem State.sendData_out {s : State} (c : Cmd) (h₀ : Out L₀ s₀ s)
    (hL : Key.sub [.w 9 8, .w 10 20, .w 10 24, .p .pkt, .p .hbm, .p .poison] L₀ = true) :
    Out L₀ s₀ (State.sendData s c) := by
  unfold State.sendData
  repeat'
    first
      | with_reducible assumption | with_reducible apply Out.forAll | with_reducible apply State.partRead_out
      | exact Key.hasA rfl | exact Key.hasW | exact Out.sub hL rfl | intro _ | with_reducible apply Out.ite | split
      | dsimp only [id_eq] | (rename_i e; with_reducible refine Out.of_eq e ?_)

theorem State.cmdPart_out {s : State} (n : Nat) (st : Stat) (h₀ : Out L₀ s₀ s)
    (hL : Key.sub completeOut L₀ = true) :
    Out L₀ s₀ (State.cmdPart s n st) := by
  unfold State.cmdPart
  repeat'
    first
      | with_reducible assumption | with_reducible apply State.complete_out | with_reducible apply Out.when
      | with_reducible apply State.sendData_out | with_reducible apply State.copyDone_out
      | with_reducible apply State.updCmd_out | exact Key.hasA rfl | exact Key.hasW | exact Out.sub hL rfl | intro _
      | with_reducible apply Out.ite | split | dsimp only [id_eq]
      | (rename_i e; with_reducible refine Out.of_eq e ?_)

theorem State.endJob_out {s : State} (a : Nat) (st : Stat) (h₀ : Out L₀ s₀ s)
    (hL : Key.sub [.w 2 20, .w 2 24, .a 2 32 4, .w 2 5439488, .w 2 5505024, .w 6 8, .w 6 12, .w 7 12, .w 7 24, .w 7 28, .w 7 17956864,
    .w 9 8, .w 10 20, .w 10 24, .a 11 32 4, .a 11 48 4, .a 65 22347776 268435456, .p .free, .p .edges, .p .inbox,
    .p .mcache, .p .jq, .p .jact, .p .jobNo, .p .cmds, .p .cqs, .p .nss, .p .bands, .p .vol, .p .points, .p .errlog,
    .p .pkt, .p .hbm, .p .poison, .p .lost, .p .kvLog, .p .stripes] L₀ = true) :
    Out L₀ s₀ (State.endJob s a st) := by
  unfold State.endJob
  repeat'
    first
      | with_reducible assumption | with_reducible apply Out.when | with_reducible apply State.setJob_out
      | with_reducible apply State.releaseHold_out | with_reducible apply State.cmdPart_out | exact Key.hasA rfl
      | exact Key.hasW | exact Out.sub hL rfl | intro _ | with_reducible apply Out.ite | split | dsimp only [id_eq]
      | (rename_i e; with_reducible refine Out.of_eq e ?_)

theorem State.failQueued_out {s : State} (j : Job) (st : Stat) (h₀ : Out L₀ s₀ s)
    (hL : Key.sub completeOut L₀ = true) :
    Out L₀ s₀ (State.failQueued s j st) := by
  unfold State.failQueued
  repeat'
    first
      | with_reducible assumption | with_reducible apply State.cmdPart_out | exact Key.hasA rfl | exact Key.hasW
      | exact Out.sub hL rfl | intro _ | with_reducible apply Out.ite | split | dsimp only [id_eq]
      | (rename_i e; with_reducible refine Out.of_eq e ?_)

/-- What `State.weakTrack` may change. -/
def weakTrackOut : List Key :=
  [.w 2 8, .w 2 20, .w 2 24, .a 2 32 4, .w 2 5439488, .w 2 5505024, .w 6 8, .w 6 12,
    .w 7 12, .w 7 24, .w 7 28, .w 7 17956864, .w 9 8, .w 10 20, .w 10 24, .w 11 8, .w 11 12, .a 11 32 4, .a 11 48 4,
    .w 20 8, .w 20 12, .a 20 32 4, .a 65 15335424 268435456, .a 65 15400960 268435456, .a 65 22347776 268435456,
    .p .free, .p .edges, .p .inbox, .p .mcache, .p .jq, .p .jobNo, .p .cmds, .p .cqs, .p .ctrls, .p .nss, .p .zones,
    .p .bands, .p .vol, .p .points, .p .mops, .p .opid, .p .journal, .p .jseq, .p .blks, .p .fops, .p .fwait,
    .p .errlog, .p .pkt, .p .hbm, .p .poison, .p .lost, .p .kvLog, .p .stripes, .p .weakSlots]

theorem State.weakTrack_out {s : State} (a : Nat) (j : Job) (rung : Nat) (h₀ : Out L₀ s₀ s)
    (hL : Key.sub weakTrackOut L₀ = true) :
    Out L₀ s₀ (State.weakTrack s a j rung) := by
  unfold State.weakTrack
  repeat'
    first
      | with_reducible assumption | with_reducible apply Out.post | with_reducible apply State.reclaim_out
      | with_reducible apply State.devZone_out | with_reducible apply Out.when | exact Key.hasA rfl | exact Key.hasW
      | exact Out.sub hL rfl | intro _ | with_reducible apply Out.ite | split | dsimp only [id_eq]
      | (rename_i e; with_reducible refine Out.of_eq e ?_) | with_reducible apply Out.setWeakSlots

theorem State.planAgain_out {s : State} (a : Nat) (h₀ : Out L₀ s₀ s)
    (hL : Key.sub [.a 2 32 4, .a 65 22347776 268435456, .p .mcache, .p .jq, .p .jobNo] L₀ = true) :
    Out L₀ s₀ (State.planAgain s a) := by
  unfold State.planAgain
  repeat'
    first
      | with_reducible assumption | with_reducible apply State.planPoint_out | exact Key.hasA rfl | exact Key.hasW
      | exact Out.sub hL rfl | intro _ | with_reducible apply Out.ite | split | dsimp only [id_eq]
      | (rename_i e; with_reducible refine Out.of_eq e ?_)

theorem State.writeFailed_out {s : State} (a : Nat) (j : Job) (h₀ : Out L₀ s₀ s)
    (hL : Key.sub [.w 2 8, .w 2 20, .w 2 24, .a 2 32 4, .w 2 5439488, .w 2 5505024, .w 6 8, .w 6 12, .w 7 12, .w 7 24, .w 7 28,
    .w 7 17956864, .w 9 8, .w 10 20, .w 10 24, .w 11 8, .w 11 12, .a 11 32 4, .a 11 48 4, .w 11 76, .w 20 8,
    .w 20 12, .a 20 32 4, .a 65 5767168 268435456, .a 65 15335424 268435456, .a 65 15400960 268435456,
    .a 65 22347776 268435456, .p .free, .p .edges, .p .inbox, .p .mcache, .p .jq, .p .jobNo, .p .cmds, .p .cqs,
    .p .ctrls, .p .nss, .p .zones, .p .bands, .p .vol, .p .dur, .p .points, .p .mops, .p .opid, .p .journal,
    .p .jseq, .p .blks, .p .fops, .p .fwait, .p .errlog, .p .pkt, .p .hbm, .p .poison, .p .lost, .p .kvLog,
    .p .stripes] L₀ = true) :
    Out L₀ s₀ (State.writeFailed s a j) := by
  unfold State.writeFailed
  repeat'
    first
      | with_reducible assumption | with_reducible apply State.planPoint_out | with_reducible apply State.setClog_out
      | with_reducible apply Out.when | with_reducible apply Out.post | with_reducible apply Out.put
      | with_reducible apply State.zeroRange_out | with_reducible apply State.devZone_out
      | with_reducible apply State.addJob_out | with_reducible apply Out.count
      | with_reducible apply State.reclaim_out | exact Key.hasA rfl | exact Key.hasW | exact Out.sub hL rfl | intro _
      | with_reducible apply Out.ite | split | dsimp only [id_eq]
      | (rename_i e; with_reducible refine Out.of_eq e ?_)

theorem State.closeShort_out {s : State} (nsid : Nat) (z : Nat) (h₀ : Out L₀ s₀ s)
    (hL : Key.sub [.a 2 32 4, .p .jq, .p .jobNo] L₀ = true) :
    Out L₀ s₀ (State.closeShort s nsid z) := by
  unfold State.closeShort
  repeat'
    first
      | with_reducible assumption | with_reducible apply State.addJob_out | exact Key.hasA rfl | exact Key.hasW
      | exact Out.sub hL rfl | intro _ | with_reducible apply Out.ite | split | dsimp only [id_eq]
      | (rename_i e; with_reducible refine Out.of_eq e ?_)

theorem State.requeue_out {s : State} (a : Nat) (dst : Nat) (h₀ : Out L₀ s₀ s)
    (hL : Key.sub [.a 2 32 4, .p .jq, .p .jobNo] L₀ = true) :
    Out L₀ s₀ (State.requeue s a dst) := by
  unfold State.requeue
  repeat'
    first
      | with_reducible assumption | with_reducible apply State.setJugq_out | with_reducible apply Out.forAll
      | with_reducible apply State.trackDue_out | exact Key.hasA rfl | exact Key.hasW | exact Out.sub hL rfl
      | intro _ | with_reducible apply Out.ite | split | dsimp only [id_eq]
      | (rename_i e; with_reducible refine Out.of_eq e ?_)

end Sys2Proof.Machine
end

