-- ==== Sys2Proof/Laws/OutChannel.lean ====
section
/-!
SUPPORT. What each operation and each command of `Machine/Channel.lean` can change.
-/

namespace Sys2Proof.Machine

set_option Elab.async false
set_option linter.unusedVariables false

set_option maxRecDepth 8000
set_option linter.unusedTactic false
set_option linter.unreachableTactic false

variable {L₀ : List Key} {s₀ : State}

theorem State.enable_out {s : State} (en : Fld) (chk : Fld) (conds : List (Bool × Nat)) (pass : State → State) (h₀ : Out L₀ s₀ s) {n_en : Key} (hk_en : n_en.has en) (hL_en : Key.sub [n_en] L₀ = true) {n_chk : Key} (hk_chk : n_chk.has chk) (hL_chk : Key.sub [n_chk] L₀ = true) (hF_pass : ∀ u, Out L₀ s₀ u → Out L₀ s₀ (pass u)) :
    Out L₀ s₀ (State.enable s en chk conds pass).1 := by
  unfold State.enable
  repeat'
    first
      | with_reducible assumption | with_reducible apply Out.put | with_reducible apply hF_pass
      | with_reducible exact hk_en | with_reducible exact hk_chk | with_reducible exact hL_en
      | with_reducible exact hL_chk | intro _ | with_reducible apply Out.ite | split | dsimp only [id_eq]
      | (rename_i e; with_reducible refine Out.of_eq e ?_)

theorem State.loadWin_out {s : State} (blk : Nat) (sel : Nat) (off : Nat) (n : Nat) (h₀ : Out L₀ s₀ s)
    (hL : Key.sub [.p .win] L₀ = true) :
    Out L₀ s₀ (State.loadWin s blk sel off n) := by
  unfold State.loadWin
  repeat'
    first
      | with_reducible assumption | exact Key.hasA rfl | exact Key.hasW | exact Out.sub hL rfl | intro _
      | with_reducible apply Out.ite | split | dsimp only [id_eq]
      | (rename_i e; with_reducible refine Out.of_eq e ?_) | with_reducible apply Out.setWin

theorem State.loadEntry_out {s : State} (a : Nat) (h₀ : Out L₀ s₀ s)
    (hL : Key.sub [.w 12 12, .w 12 92, .p .edges, .p .inbox, .p .chn] L₀ = true) :
    Out L₀ s₀ (State.loadEntry s a) := by
  unfold State.loadEntry
  repeat'
    first
      | with_reducible assumption | with_reducible apply State.setRop_out | with_reducible apply Out.when
      | with_reducible apply Out.post | with_reducible apply Out.count | with_reducible apply Out.evt
      | exact Key.hasA rfl | exact Key.hasW | exact Out.sub hL rfl | intro _ | with_reducible apply Out.ite | split
      | dsimp only [id_eq] | (rename_i e; with_reducible refine Out.of_eq e ?_)

theorem State.readData_out {s : State} (a : Nat) (st : Stat) (h₀ : Out L₀ s₀ s)
    (hL : Key.sub [.w 9 8, .w 10 20, .w 10 24, .p .cmds, .p .pkt, .p .hbm, .p .poison] L₀ = true) :
    Out L₀ s₀ (State.readData s a st) := by
  unfold State.readData
  repeat'
    first
      | with_reducible assumption | with_reducible apply Out.forAll | with_reducible apply State.partWrite_out
      | with_reducible apply State.updCmd_out | exact Key.hasA rfl | exact Key.hasW | exact Out.sub hL rfl | intro _
      | with_reducible apply Out.ite | split | dsimp only [id_eq]
      | (rename_i e; with_reducible refine Out.of_eq e ?_)

/-- What `State.readEnds` may change. -/
def readEndsOut : List Key :=
  [.w 2 20, .w 2 24, .a 2 32 4, .w 2 5439488, .w 2 5505024, .w 6 8, .w 6 12, .w 7 12,
    .w 7 24, .w 7 28, .w 7 17956864, .w 9 8, .w 10 20, .w 10 24, .a 11 32 4, .a 11 48 4, .w 12 8, .w 14 24,
    .w 14 4259840, .w 14 4325376, .w 18 786432, .w 18 20578304, .w 19 16, .a 19 1310720 268435456,
    .a 19 1376256 268435456, .a 19 22413312 268435456, .a 19 22478848 268435456, .a 65 22347776 268435456, .p .free,
    .p .edges, .p .inbox, .p .chn, .p .mcache, .p .pa, .p .jq, .p .jact, .p .jobNo, .p .cmds, .p .cqs, .p .nss,
    .p .bands, .p .vol, .p .points, .p .errlog, .p .pkt, .p .hbm, .p .poison, .p .lost, .p .kvLog, .p .stripes]

theorem State.readEnds_out {s : State} (a : Nat) (st : Stat) (h₀ : Out L₀ s₀ s)
    (hL : Key.sub readEndsOut L₀ = true) :
    Out L₀ s₀ (State.readEnds s a st) := by
  unfold State.readEnds
  repeat'
    first
      | with_reducible assumption | with_reducible apply State.endJob_out | with_reducible apply State.opEnded_out
      | with_reducible apply State.dropRead_out | with_reducible apply State.readData_out | exact Key.hasA rfl
      | exact Key.hasW | exact Out.sub hL rfl | intro _ | with_reducible apply Out.ite | split | dsimp only [id_eq]
      | (rename_i e; with_reducible refine Out.of_eq e ?_)

theorem State.finishRead_out {s : State} (a : Nat) (st : Stat) (h₀ : Out L₀ s₀ s)
    (hL : Key.sub readEndsOut L₀ = true) :
    Out L₀ s₀ (State.finishRead s a st) := by
  unfold State.finishRead
  repeat'
    first
      | with_reducible assumption | with_reducible apply State.setRop_out | with_reducible apply State.readEnds_out
      | exact Key.hasA rfl | exact Key.hasW | exact Out.sub hL rfl | intro _ | with_reducible apply Out.ite | split
      | dsimp only [id_eq] | (rename_i e; with_reducible refine Out.of_eq e ?_)

theorem State.lastFail_out {s : State} (a : Nat) (j : Job) (x : Nat × Nat) (rung : Nat) (h₀ : Out L₀ s₀ s)
    (hL : Key.sub [.w 12 48, .w 12 52] L₀ = true) :
    Out L₀ s₀ (State.lastFail s a j x rung) := by
  unfold State.lastFail
  repeat'
    first
      | with_reducible assumption | with_reducible apply Out.puts_nil | with_reducible apply Out.puts_cons
      | with_reducible apply Out.put | exact Key.hasA rfl | exact Key.hasW | exact Out.sub hL rfl | intro _
      | with_reducible apply Out.ite | split | dsimp only [id_eq]
      | (rename_i e; with_reducible refine Out.of_eq e ?_)

theorem State.endLadder_out {s : State} (a : Nat) (j : Job) (xs : List (Nat × Nat)) (rung : Nat) (h₀ : Out L₀ s₀ s)
    (hL : Key.sub [.w 2 20, .w 2 24, .a 2 32 4, .w 2 5439488, .w 2 5505024, .w 6 8, .w 6 12, .w 7 12, .w 7 24, .w 7 28, .w 7 17956864,
    .w 9 8, .w 10 20, .w 10 24, .a 11 32 4, .a 11 48 4, .w 12 8, .w 12 12, .w 12 48, .w 12 52, .w 12 84, .w 14 24,
    .w 14 4259840, .w 14 4325376, .w 18 786432, .w 18 20578304, .w 19 16, .a 19 1310720 268435456,
    .a 19 1376256 268435456, .a 19 22413312 268435456, .a 19 22478848 268435456, .a 65 22347776 268435456, .p .free,
    .p .edges, .p .inbox, .p .chn, .p .mcache, .p .pa, .p .jq, .p .jact, .p .jobNo, .p .cmds, .p .cqs, .p .nss,
    .p .bands, .p .vol, .p .points, .p .rung6, .p .errlog, .p .pkt, .p .hbm, .p .poison, .p .lost, .p .kvLog,
    .p .stripes] L₀ = true) :
    Out L₀ s₀ (State.endLadder s a j xs rung) := by
  unfold State.endLadder
  repeat'
    first
      | with_reducible assumption | with_reducible apply Out.forAll | with_reducible apply State.lastFail_out
      | with_reducible apply Out.post | with_reducible apply State.setJob_out | with_reducible apply Out.put
      | with_reducible apply State.opEnded_out | with_reducible apply State.dropRead_out
      | with_reducible apply Out.when | with_reducible apply State.releaseHold_out | with_reducible apply Out.count
      | with_reducible apply State.finishRead_out | exact Key.hasA rfl | exact Key.hasW | exact Out.sub hL rfl
      | intro _ | with_reducible apply Out.ite | split | dsimp only [id_eq]
      | (rename_i e; with_reducible refine Out.of_eq e ?_) | with_reducible apply Out.setRung6

theorem State.rungStep_out {s : State} (a : Nat) (rung : Nat) (step : Nat) (h₀ : Out L₀ s₀ s)
    (hL : Key.sub [.w 12 8, .w 14 24, .w 14 4259840, .w 14 4325376, .p .chn] L₀ = true) :
    Out L₀ s₀ (State.rungStep s a rung step) := by
  unfold State.rungStep
  repeat'
    first
      | with_reducible assumption | with_reducible apply Out.when | with_reducible apply State.setRop_out
      | with_reducible apply Out.put | with_reducible apply State.rungOfs_out | exact Key.hasA rfl | exact Key.hasW
      | exact Out.sub hL rfl | intro _ | with_reducible apply Out.ite | split | dsimp only [id_eq]
      | (rename_i e; with_reducible refine Out.of_eq e ?_)

/-- What `State.enterRung` may change. -/
def enterRungOut : List Key :=
  [.w 2 20, .w 2 24, .a 2 32 4, .w 2 5439488, .w 2 5505024, .w 6 8, .w 6 12, .w 7 12,
    .w 7 24, .w 7 28, .w 7 17956864, .w 9 8, .w 10 20, .w 10 24, .a 11 32 4, .a 11 48 4, .w 12 8, .w 12 12,
    .w 12 48, .w 12 52, .w 12 84, .w 12 92, .w 14 24, .w 14 4259840, .w 14 4325376, .w 18 786432, .w 18 20578304,
    .w 19 16, .a 19 1310720 268435456, .a 19 1376256 268435456, .a 19 22413312 268435456, .a 19 22478848 268435456,
    .a 65 22347776 268435456, .p .free, .p .edges, .p .inbox, .p .chn, .p .mcache, .p .pa, .p .jq, .p .jact,
    .p .jobNo, .p .cmds, .p .cqs, .p .nss, .p .bands, .p .vol, .p .points, .p .rung6, .p .errlog, .p .pkt, .p .hbm,
    .p .poison, .p .lost, .p .kvLog, .p .stripes]

theorem State.enterRung_out {s : State} (a : Nat) (rung : Nat) (top : Nat) (left : List (Nat × Nat)) (h₀ : Out L₀ s₀ s)
    (hL : Key.sub enterRungOut L₀ = true) :
    Out L₀ s₀ (State.enterRung s a rung top left) := by
  unfold State.enterRung
  repeat'
    first
      | with_reducible assumption | with_reducible apply State.finishRead_out
      | with_reducible apply State.rungOfs_out | with_reducible apply State.endLadder_out
      | with_reducible apply State.rungStep_out | with_reducible apply State.loadEntry_out
      | with_reducible apply Out.puts_nil | with_reducible apply Out.puts_cons | with_reducible apply Out.put
      | with_reducible apply State.setRop_out | exact Key.hasA rfl | exact Key.hasW | exact Out.sub hL rfl | intro _
      | with_reducible apply Out.ite | split | dsimp only [id_eq]
      | (rename_i e; with_reducible refine Out.of_eq e ?_)

theorem State.passEnd_out {s : State} (a : Nat) (h₀ : Out L₀ s₀ s)
    (hL : Key.sub enterRungOut L₀ = true) :
    Out L₀ s₀ (State.passEnd s a) := by
  unfold State.passEnd
  repeat'
    first
      | with_reducible assumption | with_reducible apply State.finishRead_out
      | with_reducible apply State.enterRung_out | exact Key.hasA rfl | exact Key.hasW | exact Out.sub hL rfl
      | intro _ | with_reducible apply Out.ite | split | dsimp only [id_eq]
      | (rename_i e; with_reducible refine Out.of_eq e ?_)

theorem State.sectorKnown_out {s : State} (a : Nat) (x : Sect) (cause : Nat) (h₀ : Out L₀ s₀ s)
    (hL : Key.sub [.w 2 20, .w 2 24, .a 2 32 4, .w 2 5439488, .w 2 5505024, .w 6 8, .w 6 12, .w 7 12, .w 7 24, .w 7 28, .w 7 17956864,
    .w 9 8, .w 10 20, .w 10 24, .a 11 32 4, .a 11 48 4, .w 12 8, .w 12 12, .w 12 48, .w 12 52, .w 12 72, .w 12 84,
    .w 12 92, .w 13 2686976, .w 14 24, .w 14 4259840, .w 14 4325376, .w 18 786432, .w 18 20578304, .w 19 16,
    .a 19 1310720 268435456, .a 19 1376256 268435456, .a 19 22413312 268435456, .a 19 22478848 268435456,
    .a 65 22347776 268435456, .p .free, .p .edges, .p .inbox, .p .chn, .p .mcache, .p .pa, .p .jq, .p .jact,
    .p .jobNo, .p .cmds, .p .cqs, .p .nss, .p .bands, .p .vol, .p .points, .p .rung6, .p .errlog, .p .pkt, .p .hbm,
    .p .poison, .p .lost, .p .kvLog, .p .stripes] L₀ = true) :
    Out L₀ s₀ (State.sectorKnown s a x cause) := by
  unfold State.sectorKnown
  repeat'
    first
      | with_reducible assumption | with_reducible apply State.setRop_out | with_reducible apply State.passEnd_out
      | with_reducible apply Out.when | with_reducible apply Out.puts_append | with_reducible apply Out.puts_nil
      | with_reducible apply Out.puts_cons | with_reducible apply Out.put | with_reducible apply Out.count
      | exact Key.hasA rfl | exact Key.hasW | exact Out.sub hL rfl | intro _ | with_reducible apply Out.ite | split
      | dsimp only [id_eq] | (rename_i e; with_reducible refine Out.of_eq e ?_)

/-- What `readOpStart` may change. -/
def readOpStartOut : List Key :=
  [.w 2 20, .w 2 24, .a 2 32 4, .w 2 5439488, .w 2 5505024, .w 6 8, .w 6 12,
    .w 7 12, .w 7 24, .w 7 28, .w 7 17956864, .w 9 8, .w 10 20, .w 10 24, .a 11 32 4, .a 11 48 4, .w 12 8, .w 12 12,
    .w 12 48, .w 12 52, .w 12 84, .w 12 92, .w 12 131072, .w 12 196608, .w 14 24, .w 14 4259840, .w 14 4325376,
    .w 18 786432, .w 18 20578304, .w 19 16, .a 19 1310720 268435456, .a 19 1376256 268435456,
    .a 19 22413312 268435456, .a 19 22478848 268435456, .a 65 22347776 268435456, .p .free, .p .edges, .p .inbox,
    .p .chn, .p .mcache, .p .pa, .p .jq, .p .jact, .p .jobNo, .p .cmds, .p .cqs, .p .nss, .p .bands, .p .vol,
    .p .points, .p .rung6, .p .errlog, .p .pkt, .p .hbm, .p .poison, .p .lost, .p .kvLog, .p .stripes]

theorem readOpStart_out (a : Act) {s : State} (h₀ : Out L₀ s₀ s)
    (hL : Key.sub readOpStartOut L₀ = true) :
    Out L₀ s₀ (readOpStart a s) := by
  unfold readOpStart
  repeat'
    first
      | with_reducible assumption | with_reducible apply Out.puts_nil | with_reducible apply Out.puts_cons
      | with_reducible apply Out.put | with_reducible apply State.biasOff_out | with_reducible apply State.setRop_out
      | with_reducible apply State.driveHeater_out | with_reducible apply Out.when
      | with_reducible apply State.loadEntry_out | with_reducible apply State.passEnd_out | exact Key.hasA rfl
      | exact Key.hasW | exact Out.sub hL rfl | intro _ | with_reducible apply Out.ite | split | dsimp only [id_eq]
      | (rename_i e; with_reducible refine Out.of_eq e ?_)

theorem lmsApply_out (a : Act) (l : List (Fin 26 × Int)) : ∀ {s : State}, Out L₀ s₀ s →
    Key.sub [.w 12 12, .w 12 88, .p .edges, .p .inbox, .p .chn] L₀ = true → Out L₀ s₀ (lmsApply a s l) := by
  induction l with
  | nil => intro s h _; exact h
  | cons e l ih =>
    intro s h hL
    obtain ⟨i, v⟩ := e
    exact ih (Out.when _ _ (State.setRop_out _ _ h (Out.sub hL rfl)) fun u hu =>
      Out.count _ (Out.evt _ hu Key.hasW (Out.sub hL rfl) (Out.sub hL rfl)) Key.hasW (Out.sub hL rfl) (Out.sub hL rfl)) hL

/-- What `preambleAcquire` may change. -/
def preambleAcquireOut : List Key :=
  [.w 12 8, .w 12 12, .w 12 88, .w 12 65536, .p .edges, .p .inbox, .p .chn]

theorem preambleAcquire_out (a : Act) (sidx : Fin 256) (lock : Option (Fin 8)) (adapt : List (Fin 26 × Int)) {s : State} (h₀ : Out L₀ s₀ s)
    (hL : Key.sub preambleAcquireOut L₀ = true) :
    Out L₀ s₀ (preambleAcquire a sidx lock adapt s) := by
  unfold preambleAcquire
  repeat'
    first
      | with_reducible assumption | with_reducible apply State.setRop_out | with_reducible apply lmsApply_out
      | with_reducible apply Out.puts_nil | with_reducible apply Out.puts_cons | with_reducible apply Out.put
      | exact Key.hasA rfl | exact Key.hasW | exact Out.sub hL rfl | intro _ | with_reducible apply Out.ite | split
      | dsimp only [id_eq] | (rename_i e; with_reducible refine Out.of_eq e ?_)

theorem acquisitionFailure_out (a : Act) {s : State} (h₀ : Out L₀ s₀ s)
    (hL : Key.sub [.w 12 12, .p .edges, .p .chn] L₀ = true) :
    Out L₀ s₀ (acquisitionFailure a s) := by
  unfold acquisitionFailure
  repeat'
    first
      | with_reducible assumption | with_reducible apply Out.evt | with_reducible apply State.setRop_out
      | exact Key.hasA rfl | exact Key.hasW | exact Out.sub hL rfl | intro _ | with_reducible apply Out.ite | split
      | dsimp only [id_eq] | (rename_i e; with_reducible refine Out.of_eq e ?_)

/-- What `syncFraming` may change. -/
def syncFramingOut : List Key :=
  [.w 12 12, .w 12 64, .w 12 68, .w 13 2490368, .p .edges, .p .inbox, .p .chn]

theorem syncFraming_out (a : Act) (sm1 : List (Int × Nat)) (sm2 : List (Int × Nat)) {s : State} (h₀ : Out L₀ s₀ s)
    (hL : Key.sub syncFramingOut L₀ = true) :
    Out L₀ s₀ (syncFraming a sm1 sm2 s) := by
  unfold syncFraming
  repeat'
    first
      | with_reducible assumption | with_reducible apply Out.put | with_reducible apply State.setRop_out
      | with_reducible apply Out.count | with_reducible apply Out.evt | exact Key.hasA rfl | exact Key.hasW
      | exact Out.sub hL rfl | intro _ | with_reducible apply Out.ite | split | dsimp only [id_eq]
      | (rename_i e; with_reducible refine Out.of_eq e ?_)

theorem fsmSearch_out (a : Act) (fsm : List (Int × Nat)) {s : State} (h₀ : Out L₀ s₀ s)
    (hL : Key.sub [.w 12 12, .w 12 68, .w 13 2555904, .p .edges, .p .inbox, .p .chn] L₀ = true) :
    Out L₀ s₀ (fsmSearch a fsm s) := by
  unfold fsmSearch
  repeat'
    first
      | with_reducible assumption | with_reducible apply Out.put | with_reducible apply State.setRop_out
      | with_reducible apply Out.count | with_reducible apply Out.evt | exact Key.hasA rfl | exact Key.hasW
      | exact Out.sub hL rfl | intro _ | with_reducible apply Out.ite | split | dsimp only [id_eq]
      | (rename_i e; with_reducible refine Out.of_eq e ?_)

theorem defectSpan_out (a : Act) (cls : DefectClass) (r0 : Bool) (r1 : Bool) (start : Nat) (len : Nat) {s : State} (h₀ : Out L₀ s₀ s)
    (hL : Key.sub [.w 12 12, .w 12 131072, .p .edges, .p .inbox, .p .chn] L₀ = true) :
    Out L₀ s₀ (defectSpan a cls r0 r1 start len s) := by
  unfold defectSpan
  repeat'
    first
      | with_reducible assumption | with_reducible apply Out.evt | with_reducible apply State.setRop_out
      | with_reducible apply Out.when | with_reducible apply Out.bump | with_reducible apply Out.post
      | exact Key.hasA rfl | exact Key.hasW | exact Out.sub hL rfl | intro _ | with_reducible apply Out.ite | split
      | dsimp only [id_eq] | (rename_i e; with_reducible refine Out.of_eq e ?_)

/-- What `sectorSamplesDone` may change. -/
def sectorSamplesDoneOut : List Key :=
  [.w 2 20, .w 2 24, .a 2 32 4, .w 2 5439488, .w 2 5505024, .w 6 8, .w 6 12,
    .w 7 12, .w 7 24, .w 7 28, .w 7 17956864, .w 9 8, .w 10 20, .w 10 24, .a 11 32 4, .a 11 48 4, .w 12 8, .w 12 12,
    .w 12 48, .w 12 52, .w 12 72, .w 12 84, .w 12 92, .w 12 196608, .w 13 2621440, .w 13 2686976, .w 14 24,
    .w 14 4259840, .w 14 4325376, .w 18 786432, .w 18 20578304, .w 19 16, .a 19 1310720 268435456,
    .a 19 1376256 268435456, .a 19 22413312 268435456, .a 19 22478848 268435456, .a 65 22347776 268435456, .p .free,
    .p .edges, .p .inbox, .p .chn, .p .mcache, .p .pa, .p .jq, .p .jact, .p .jobNo, .p .cmds, .p .cqs, .p .nss,
    .p .bands, .p .vol, .p .points, .p .rung6, .p .errlog, .p .pkt, .p .hbm, .p .poison, .p .lost, .p .kvLog,
    .p .stripes]

theorem sectorSamplesDone_out (a : Act) (samples : List (BitVec 6 × BitVec 6)) {s : State} (h₀ : Out L₀ s₀ s)
    (hL : Key.sub sectorSamplesDoneOut L₀ = true) :
    Out L₀ s₀ (sectorSamplesDone a samples s) := by
  unfold sectorSamplesDone
  repeat'
    first
      | with_reducible assumption | with_reducible apply Out.put | with_reducible apply State.setRop_out
      | with_reducible apply State.finishRead_out | with_reducible apply State.sectorKnown_out
      | with_reducible apply Out.when | exact Key.hasA rfl | exact Key.hasW | exact Out.sub hL rfl | intro _
      | with_reducible apply Out.ite | split | dsimp only [id_eq]
      | (rename_i e; with_reducible refine Out.of_eq e ?_)

/-- What `ldpcConverge` may change. -/
def ldpcConvergeOut : List Key :=
  [.w 2 20, .w 2 24, .a 2 32 4, .w 2 5439488, .w 2 5505024, .w 6 8, .w 6 12,
    .w 7 12, .w 7 24, .w 7 28, .w 7 17956864, .w 9 8, .w 10 20, .w 10 24, .a 11 32 4, .a 11 48 4, .w 12 8, .w 12 12,
    .w 12 48, .w 12 52, .w 12 72, .w 12 76, .w 12 84, .w 12 92, .w 13 2686976, .w 14 24, .w 14 4259840,
    .w 14 4325376, .w 18 786432, .w 18 20578304, .w 19 16, .a 19 1310720 268435456, .a 19 1376256 268435456,
    .a 19 22413312 268435456, .a 19 22478848 268435456, .a 65 22347776 268435456, .p .free, .p .edges, .p .inbox,
    .p .chn, .p .mcache, .p .pa, .p .jq, .p .jact, .p .jobNo, .p .cmds, .p .cqs, .p .nss, .p .bands, .p .vol,
    .p .points, .p .rung6, .p .errlog, .p .pkt, .p .hbm, .p .poison, .p .lost, .p .kvLog, .p .stripes]

theorem ldpcConverge_out (a : Act) (word : Option (List Bool)) {s : State} (h₀ : Out L₀ s₀ s)
    (hL : Key.sub ldpcConvergeOut L₀ = true) :
    Out L₀ s₀ (ldpcConverge a word s) := by
  unfold ldpcConverge
  repeat'
    first
      | with_reducible assumption | with_reducible apply State.setRop_out
      | with_reducible apply State.sectorKnown_out | with_reducible apply Out.count | with_reducible apply Out.evt
      | exact Key.hasA rfl | exact Key.hasW | exact Out.sub hL rfl | intro _ | with_reducible apply Out.ite | split
      | dsimp only [id_eq] | (rename_i e; with_reducible refine Out.of_eq e ?_)

theorem ldpcWindowEnd_out (a : Act) {s : State} (h₀ : Out L₀ s₀ s)
    (hL : Key.sub ldpcConvergeOut L₀ = true) :
    Out L₀ s₀ (ldpcWindowEnd a s) := by
  unfold ldpcWindowEnd
  repeat'
    first
      | with_reducible assumption | with_reducible apply State.sectorKnown_out | with_reducible apply Out.count
      | with_reducible apply Out.evt | with_reducible apply State.setRop_out | exact Key.hasA rfl | exact Key.hasW
      | exact Out.sub hL rfl | intro _ | with_reducible apply Out.ite | split | dsimp only [id_eq]
      | (rename_i e; with_reducible refine Out.of_eq e ?_)

/-- What `retryRung` may change. -/
def retryRungOut : List Key :=
  [.w 2 8, .w 2 20, .w 2 24, .a 2 32 4, .w 2 5439488, .w 2 5505024, .w 6 8, .w 6 12,
    .w 7 12, .w 7 24, .w 7 28, .w 7 17956864, .w 9 8, .w 10 20, .w 10 24, .w 11 8, .w 11 12, .a 11 32 4, .a 11 48 4,
    .w 12 8, .w 12 12, .w 12 48, .w 12 52, .w 12 84, .w 12 92, .w 14 24, .w 14 4259840, .w 14 4325376, .w 18 786432,
    .w 18 20578304, .w 19 16, .a 19 1310720 268435456, .a 19 1376256 268435456, .a 19 22413312 268435456,
    .a 19 22478848 268435456, .w 20 8, .w 20 12, .a 20 32 4, .a 65 15335424 268435456, .a 65 15400960 268435456,
    .a 65 22347776 268435456, .p .free, .p .edges, .p .inbox, .p .chn, .p .mcache, .p .pa, .p .jq, .p .jact,
    .p .jobNo, .p .cmds, .p .cqs, .p .ctrls, .p .nss, .p .zones, .p .bands, .p .vol, .p .points, .p .mops, .p .opid,
    .p .journal, .p .jseq, .p .rung6, .p .blks, .p .fops, .p .fwait, .p .errlog, .p .pkt, .p .hbm, .p .poison,
    .p .lost, .p .kvLog, .p .stripes, .p .weakSlots]

theorem retryRung_out (a : Act) (recovered : Bool) {s : State} (h₀ : Out L₀ s₀ s)
    (hL : Key.sub retryRungOut L₀ = true) :
    Out L₀ s₀ (retryRung a recovered s) := by
  unfold retryRung
  repeat'
    first
      | with_reducible assumption | with_reducible apply Out.when | with_reducible apply State.setRop_out
      | with_reducible apply State.weakTrack_out | with_reducible apply State.enterRung_out
      | with_reducible apply State.rungStep_out | exact Key.hasA rfl | exact Key.hasW | exact Out.sub hL rfl
      | intro _ | with_reducible apply Out.ite | split | dsimp only [id_eq]
      | (rename_i e; with_reducible refine Out.of_eq e ?_)

theorem retryTimeLimit_out (a : Act) {s : State} (h₀ : Out L₀ s₀ s)
    (hL : Key.sub enterRungOut L₀ = true) :
    Out L₀ s₀ (retryTimeLimit a s) := by
  unfold retryTimeLimit
  repeat'
    first
      | with_reducible assumption | with_reducible apply State.enterRung_out | with_reducible apply Out.post
      | with_reducible apply State.setRop_out | exact Key.hasA rfl | exact Key.hasW | exact Out.sub hL rfl | intro _
      | with_reducible apply Out.ite | split | dsimp only [id_eq]
      | (rename_i e; with_reducible refine Out.of_eq e ?_)

/-- What `outerCodeRebuild` may change. -/
def outerCodeRebuildOut : List Key :=
  [.w 2 8, .w 2 20, .w 2 24, .a 2 32 4, .w 2 5439488, .w 2 5505024, .w 6 8,
    .w 6 12, .w 7 12, .w 7 24, .w 7 28, .w 7 17956864, .w 9 8, .w 10 20, .w 10 24, .w 11 8, .w 11 12, .a 11 32 4,
    .a 11 48 4, .w 12 8, .w 12 12, .w 12 48, .w 12 52, .w 12 80, .w 12 84, .w 14 24, .w 14 4259840, .w 14 4325376,
    .w 18 786432, .w 18 20578304, .w 19 16, .a 19 1310720 268435456, .a 19 1376256 268435456,
    .a 19 22413312 268435456, .a 19 22478848 268435456, .w 20 8, .w 20 12, .a 20 32 4, .a 65 15335424 268435456,
    .a 65 15400960 268435456, .a 65 22347776 268435456, .p .free, .p .edges, .p .inbox, .p .chn, .p .mcache, .p .pa,
    .p .jq, .p .jact, .p .jobNo, .p .cmds, .p .cqs, .p .ctrls, .p .nss, .p .zones, .p .bands, .p .vol, .p .points,
    .p .mops, .p .opid, .p .journal, .p .jseq, .p .rung6, .p .blks, .p .fops, .p .fwait, .p .errlog, .p .pkt,
    .p .hbm, .p .poison, .p .lost, .p .kvLog, .p .stripes, .p .weakSlots]

theorem outerCodeRebuild_out (a : Act) (reads : List (Option (List Bool))) {s : State} (h₀ : Out L₀ s₀ s)
    (hL : Key.sub outerCodeRebuildOut L₀ = true) :
    Out L₀ s₀ (outerCodeRebuild a reads s) := by
  unfold outerCodeRebuild
  repeat'
    first
      | with_reducible assumption | with_reducible apply Out.when | with_reducible apply Out.evt
      | with_reducible apply State.weakTrack_out | with_reducible apply Out.forAll
      | with_reducible apply State.lastFail_out | with_reducible apply State.finishRead_out
      | with_reducible apply State.endLadder_out | with_reducible apply Out.countN | with_reducible apply Out.post
      | with_reducible apply State.setRop_out | exact Key.hasA rfl | exact Key.hasW | exact Out.sub hL rfl | intro _
      | with_reducible apply Out.ite | split | dsimp only [id_eq]
      | (rename_i e; with_reducible refine Out.of_eq e ?_)

theorem State.chnEnable_out {s : State} (a : Nat) (h₀ : Out L₀ s₀ s)
    (hL : Key.sub [.w 12 0, .w 12 4, .p .win, .p .chn] L₀ = true) :
    Out L₀ s₀ (State.chnEnable s a).1 := by
  unfold State.chnEnable
  repeat'
    first
      | with_reducible assumption | with_reducible apply State.loadWin_out | with_reducible apply State.enable_out
      | with_reducible apply State.setRop_out | exact Key.hasA rfl | exact Key.hasW | exact Out.sub hL rfl | intro _
      | with_reducible apply Out.ite | split | dsimp only [id_eq]
      | (rename_i e; with_reducible refine Out.of_eq e ?_)

theorem chnEnableCmd_out (a : Act) {s : State} (h₀ : Out L₀ s₀ s)
    (hL : Key.sub [.w 12 0, .w 12 4, .p .win, .p .chn] L₀ = true) :
    Out L₀ s₀ (chnEnableCmd a s) := by
  unfold chnEnableCmd
  repeat'
    first
      | with_reducible assumption | with_reducible apply State.chnEnable_out | exact Key.hasA rfl | exact Key.hasW
      | exact Out.sub hL rfl | intro _ | with_reducible apply Out.ite | split | dsimp only [id_eq]
      | (rename_i e; with_reducible refine Out.of_eq e ?_)

/-- What `rdAbort` may change. -/
def rdAbortOut : List Key :=
  [.w 2 20, .w 2 24, .a 2 32 4, .w 2 5439488, .w 2 5505024, .w 6 8, .w 6 12, .w 7 12,
    .w 7 24, .w 7 28, .w 7 17956864, .w 9 8, .w 10 20, .w 10 24, .a 11 32 4, .a 11 48 4, .w 12 8, .w 12 196608,
    .w 13 8, .w 13 12, .w 13 76, .w 13 1572864, .w 13 2359296, .w 13 2424832, .w 13 20250624, .w 14 8, .w 14 24,
    .w 14 4259840, .w 14 4325376, .w 18 8, .w 18 786432, .w 18 20578304, .w 19 16, .a 19 1310720 268435456,
    .a 19 1376256 268435456, .a 19 22413312 268435456, .a 19 22478848 268435456, .a 65 22347776 268435456, .p .free,
    .p .edges, .p .inbox, .p .chn, .p .seqs, .p .mcache, .p .pa, .p .jq, .p .jact, .p .jobNo, .p .cmds, .p .cqs,
    .p .nss, .p .bands, .p .vol, .p .points, .p .errlog, .p .pkt, .p .hbm, .p .poison, .p .lost, .p .kvLog,
    .p .stripes]

theorem rdAbort_out (a : Act) {s : State} (h₀ : Out L₀ s₀ s)
    (hL : Key.sub rdAbortOut L₀ = true) :
    Out L₀ s₀ (rdAbort a s) := by
  unfold rdAbort
  repeat'
    first
      | with_reducible assumption | with_reducible apply State.abandon_out | with_reducible apply Out.puts_nil
      | with_reducible apply Out.puts_cons | with_reducible apply Out.put | with_reducible apply State.setRop_out
      | with_reducible apply State.setSeqr_out | with_reducible apply State.finishRead_out
      | with_reducible apply State.rungOfs_out | exact Key.hasA rfl | exact Key.hasW | exact Out.sub hL rfl | intro _
      | with_reducible apply Out.ite | split | dsimp only [id_eq]
      | (rename_i e; with_reducible refine Out.of_eq e ?_)

theorem replayHold_out (a : Act) (v : Bool) {s : State} (h₀ : Out L₀ s₀ s)
    (hL : Key.sub [.w 12 128, .w 12 20185088] L₀ = true) :
    Out L₀ s₀ (replayHold a v s) := by
  unfold replayHold
  repeat'
    first
      | with_reducible assumption | with_reducible apply Out.when | with_reducible apply Out.putB
      | with_reducible apply Out.bump | exact Key.hasA rfl | exact Key.hasW | exact Out.sub hL rfl | intro _
      | with_reducible apply Out.ite | split | dsimp only [id_eq]
      | (rename_i e; with_reducible refine Out.of_eq e ?_)

theorem counterClear_out (blk inst off n : Nat) {s : State} (h₀ : Out L₀ s₀ s) (hL : Key.sub [.all, .p .edges, .p .inbox] L₀ = true) :
    Out L₀ s₀ (counterClear blk inst off n s) := by
  unfold counterClear
  split
  · exact Out.counterClear (n := .all) _ n h₀ trivial (Out.sub hL rfl) (Out.sub hL rfl)
  · exact h₀

theorem execReadOpStart_out (a : Act) {s t : State} (h : execReadOpStart a s = .next t) :
    Out readOpStartOut s t := by
  have h := Host.Outcome.next.inj h; subst h; exact readOpStart_out _ (Out.refl s) rfl

theorem execPreambleAcquire_out (a : Act) (sidx : Fin 256) (lock : Option (Fin 8)) (adapt : List (Fin 26 × Int)) {s t : State} (h : execPreambleAcquire a sidx lock adapt s = .next t) :
    Out preambleAcquireOut s t := by
  have h := Host.Outcome.next.inj h; subst h; exact preambleAcquire_out _ _ _ _ (Out.refl s) rfl

theorem execAcquisitionFailure_out (a : Act) {s t : State} (h : execAcquisitionFailure a s = .next t) :
    Out [.w 12 12, .p .edges, .p .chn] s t := by
  have h := Host.Outcome.next.inj h; subst h; exact acquisitionFailure_out _ (Out.refl s) rfl

theorem execSyncFraming_out (a : Act) (sm1 : List (Int × Nat)) (sm2 : List (Int × Nat)) {s t : State} (h : execSyncFraming a sm1 sm2 s = .next t) :
    Out syncFramingOut s t := by
  have h := Host.Outcome.next.inj h; subst h; exact syncFraming_out _ _ _ (Out.refl s) rfl

theorem execFsmSearch_out (a : Act) (fsm : List (Int × Nat)) {s t : State} (h : execFsmSearch a fsm s = .next t) :
    Out [.w 12 12, .w 12 68, .w 13 2555904, .p .edges, .p .inbox, .p .chn] s t := by
  have h := Host.Outcome.next.inj h; subst h; exact fsmSearch_out _ _ (Out.refl s) rfl

theorem execDefectSpan_out (a : Act) (cls : DefectClass) (r0 : Bool) (r1 : Bool) (start : Nat) (len : Nat) {s t : State} (h : execDefectSpan a cls r0 r1 start len s = .next t) :
    Out [.w 12 12, .w 12 131072, .p .edges, .p .inbox, .p .chn] s t := by
  have h := Host.Outcome.next.inj h; subst h; exact defectSpan_out _ _ _ _ _ _ (Out.refl s) rfl

theorem execSectorSamplesDone_out (a : Act) (samples : List (BitVec 6 × BitVec 6)) {s t : State} (h : execSectorSamplesDone a samples s = .next t) :
    Out sectorSamplesDoneOut s t := by
  have h := Host.Outcome.next.inj h; subst h; exact sectorSamplesDone_out _ _ (Out.refl s) rfl

theorem execLdpcConverge_out (a : Act) (word : Option (List Bool)) {s t : State} (h : execLdpcConverge a word s = .next t) :
    Out ldpcConvergeOut s t := by
  have h := Host.Outcome.next.inj h; subst h; exact ldpcConverge_out _ _ (Out.refl s) rfl

theorem execLdpcWindowEnd_out (a : Act) {s t : State} (h : execLdpcWindowEnd a s = .next t) :
    Out ldpcConvergeOut s t := by
  have h := Host.Outcome.next.inj h; subst h; exact ldpcWindowEnd_out _ (Out.refl s) rfl

theorem execRetryRung_out (a : Act) (recovered : Bool) {s t : State} (h : execRetryRung a recovered s = .next t) :
    Out retryRungOut s t := by
  have h := Host.Outcome.next.inj h; subst h; exact retryRung_out _ _ (Out.refl s) rfl

theorem execRetryTimeLimit_out (a : Act) {s t : State} (h : execRetryTimeLimit a s = .next t) :
    Out enterRungOut s t := by
  have h := Host.Outcome.next.inj h; subst h; exact retryTimeLimit_out _ (Out.refl s) rfl

theorem execOuterCodeRebuild_out (a : Act) (reads : List (Option (List Bool))) {s t : State} (h : execOuterCodeRebuild a reads s = .next t) :
    Out outerCodeRebuildOut s t := by
  have h := Host.Outcome.next.inj h; subst h; exact outerCodeRebuild_out _ _ (Out.refl s) rfl

theorem execChnEnable_out (a : Act) {s t : State} (h : execChnEnable a s = .next t) :
    Out [.w 12 0, .w 12 4, .p .win, .p .chn] s t := by
  have h := Host.Outcome.next.inj h; subst h; exact chnEnableCmd_out _ (Out.refl s) rfl

theorem execRdAbort_out (a : Act) {s t : State} (h : execRdAbort a s = .next t) :
    Out rdAbortOut s t := by
  have h := Host.Outcome.next.inj h; subst h; exact rdAbort_out _ (Out.refl s) rfl

theorem execReplayHold_out (a : Act) (v : Bool) {s t : State} (h : execReplayHold a v s = .next t) :
    Out [.w 12 128, .w 12 20185088] s t := by
  have h := Host.Outcome.next.inj h; subst h; exact replayHold_out _ _ (Out.refl s) rfl

theorem execCounterClear_out (blk : Nat) (inst : Nat) (off : Nat) (n : Nat) {s t : State} (h : execCounterClear blk inst off n s = .next t) :
    Out [.all, .p .edges, .p .inbox] s t := by
  have h := Host.Outcome.next.inj h; subst h; exact counterClear_out _ _ _ _ (Out.refl s) rfl

end Sys2Proof.Machine
end

