-- ==== Sys2Proof/Laws/OutSpotlight.lean ====
section
/-!
SUPPORT. What each operation and each command of `Machine/Spotlight.lean` can change.
-/

namespace Sys2Proof.Machine

set_option Elab.async false
set_option linter.unusedVariables false

set_option maxRecDepth 8000
set_option linter.unusedTactic false
set_option linter.unreachableTactic false

variable {L₀ : List Key} {s₀ : State}

theorem State.writeDisable_out {s : State} (a : Nat) (l : Nat) (h₀ : Out L₀ s₀ s)
    (hL : Key.sub [.w 2 8, .w 2 20, .w 2 24, .a 2 32 4, .w 2 5439488, .w 2 5505024, .w 6 8, .w 6 12, .w 7 12, .w 7 24, .w 7 28,
    .w 7 17956864, .w 9 8, .w 10 20, .w 10 24, .w 11 8, .w 11 12, .a 11 32 4, .a 11 48 4, .w 18 48, .w 20 8,
    .w 20 12, .a 20 32 4, .a 65 15335424 268435456, .a 65 15400960 268435456, .a 65 22347776 268435456, .p .free,
    .p .edges, .p .inbox, .p .mcache, .p .jq, .p .jobNo, .p .cmds, .p .cqs, .p .ctrls, .p .nss, .p .zones,
    .p .bands, .p .vol, .p .points, .p .mops, .p .opid, .p .journal, .p .jseq, .p .blks, .p .fops, .p .fwait,
    .p .errlog, .p .pkt, .p .hbm, .p .poison, .p .lost, .p .kvLog, .p .stripes] L₀ = true) :
    Out L₀ s₀ (State.writeDisable s a l) := by
  unfold State.writeDisable
  repeat'
    first
      | with_reducible assumption | with_reducible apply Out.put | with_reducible apply Out.forAll
      | with_reducible apply State.reclaim_out | exact Key.hasA rfl | exact Key.hasW | exact Out.sub hL rfl | intro _
      | with_reducible apply Out.ite | split | dsimp only [id_eq]
      | (rename_i e; with_reducible refine Out.of_eq e ?_)

theorem State.markReader_out {s : State} (a : Nat) (l : Nat) (rdr : Nat) (h₀ : Out L₀ s₀ s)
    (hL : Key.sub [.p .win] L₀ = true) :
    Out L₀ s₀ (State.markReader s a l rdr) := by
  unfold State.markReader
  repeat'
    first
      | with_reducible assumption | with_reducible apply Out.forAll | with_reducible apply State.putWin_out
      | exact Key.hasA rfl | exact Key.hasW | exact Out.sub hL rfl | intro _ | with_reducible apply Out.ite | split
      | dsimp only [id_eq] | (rename_i e; with_reducible refine Out.of_eq e ?_)

theorem State.setPeak_out {s : State} (a : Nat) (l : Nat) (i : Nat) (h₀ : Out L₀ s₀ s)
    (hL : Key.sub [.w 18 12, .w 18 76, .w 18 20578304, .p .edges, .p .inbox, .p .pa] L₀ = true) :
    Out L₀ s₀ (State.setPeak s a l i) := by
  unfold State.setPeak
  repeat'
    first
      | with_reducible assumption | with_reducible apply Out.post | with_reducible apply Out.count
      | with_reducible apply Out.evt | with_reducible apply State.paPut_out | exact Key.hasA rfl | exact Key.hasW
      | exact Out.sub hL rfl | intro _ | with_reducible apply Out.ite | split | dsimp only [id_eq]
      | (rename_i e; with_reducible refine Out.of_eq e ?_)

/-- What `State.loadWriteValues` may change. -/
def loadWriteValuesOut : List Key :=
  [.w 2 8, .w 2 20, .w 2 24, .a 2 32 4, .w 2 5439488, .w 2 5505024, .w 6 8,
    .w 6 12, .w 7 12, .w 7 24, .w 7 28, .w 7 17956864, .w 9 8, .w 10 20, .w 10 24, .w 11 8, .w 11 12, .a 11 32 4,
    .a 11 48 4, .w 12 21102592, .w 18 12, .w 18 48, .w 18 76, .w 18 786432, .w 18 20578304, .w 18 20774912,
    .w 18 20840448, .w 18 20905984, .w 20 8, .w 20 12, .a 20 32 4, .a 65 15335424 268435456,
    .a 65 15400960 268435456, .a 65 22347776 268435456, .p .free, .p .edges, .p .inbox, .p .mcache, .p .pa, .p .jq,
    .p .jobNo, .p .cmds, .p .cqs, .p .ctrls, .p .nss, .p .zones, .p .bands, .p .vol, .p .points, .p .mops, .p .opid,
    .p .journal, .p .jseq, .p .blks, .p .fops, .p .fwait, .p .errlog, .p .pkt, .p .hbm, .p .poison, .p .lost,
    .p .kvLog, .p .stripes]

theorem State.loadWriteValues_out {s : State} (a : Nat) (j : Job) (h₀ : Out L₀ s₀ s)
    (hL : Key.sub loadWriteValuesOut L₀ = true) :
    Out L₀ s₀ (State.loadWriteValues s a j) := by
  unfold State.loadWriteValues
  repeat'
    first
      | with_reducible assumption | with_reducible apply Out.post | with_reducible apply State.writeDisable_out
      | with_reducible apply Out.puts_nil | with_reducible apply Out.puts_cons | with_reducible apply Out.put
      | with_reducible apply State.paPut_out | with_reducible apply State.setPeak_out | exact Key.hasA rfl
      | exact Key.hasW | exact Out.sub hL rfl | intro _ | with_reducible apply Out.ite | split | dsimp only [id_eq]
      | (rename_i e; with_reducible refine Out.of_eq e ?_)

theorem State.showPaFlt_out {s : State} (a : Nat) (h₀ : Out L₀ s₀ s)
    (hL : Key.sub [.w 18 8] L₀ = true) :
    Out L₀ s₀ (State.showPaFlt s a) := by
  unfold State.showPaFlt
  repeat'
    first
      | with_reducible assumption | with_reducible apply Out.putB | exact Key.hasA rfl | exact Key.hasW
      | exact Out.sub hL rfl | intro _ | with_reducible apply Out.ite | split | dsimp only [id_eq]
      | (rename_i e; with_reducible refine Out.of_eq e ?_)

theorem State.preampWrite_out {s : State} (a : Nat) (hsel : Nat) (addr : Nat) (data : Nat) (h₀ : Out L₀ s₀ s)
    (hL : Key.sub [.w 18 8, .p .pa] L₀ = true) :
    Out L₀ s₀ (State.preampWrite s a hsel addr data) := by
  unfold State.preampWrite
  repeat'
    first
      | with_reducible assumption | with_reducible apply State.showPaFlt_out | with_reducible apply State.paSet_out
      | with_reducible apply Out.when | with_reducible apply Out.put | exact Key.hasA rfl | exact Key.hasW
      | exact Out.sub hL rfl | intro _ | with_reducible apply Out.ite | split | dsimp only [id_eq]
      | (rename_i e; with_reducible refine Out.of_eq e ?_)

theorem State.portFail_out {s : State} (a : Nat) (h₀ : Out L₀ s₀ s)
    (hL : Key.sub [.w 12 8, .w 13 8, .w 13 12, .w 13 76, .w 13 1572864, .w 13 2359296, .w 13 2424832, .w 13 20250624, .w 14 8,
    .w 14 24, .w 14 4259840, .w 14 4325376, .w 18 8, .w 18 12, .w 18 72, .w 18 262144, .w 18 327680, .w 18 786432,
    .w 18 20578304, .w 19 16, .a 19 1310720 268435456, .a 19 1376256 268435456, .a 19 22413312 268435456,
    .a 19 22478848 268435456, .p .edges, .p .inbox, .p .chn, .p .seqs, .p .pa] L₀ = true) :
    Out L₀ s₀ (State.portFail s a) := by
  unfold State.portFail
  repeat'
    first
      | with_reducible assumption | with_reducible apply Out.post | with_reducible apply Out.puts_nil
      | with_reducible apply Out.puts_cons | with_reducible apply Out.put | with_reducible apply State.endWrite_out
      | with_reducible apply Out.evt | exact Key.hasA rfl | exact Key.hasW | exact Out.sub hL rfl | intro _
      | with_reducible apply Out.ite | split | dsimp only [id_eq]
      | (rename_i e; with_reducible refine Out.of_eq e ?_)

/-- What `State.lanyardFail` may change. -/
def lanyardFailOut : List Key :=
  [.w 12 8, .w 13 8, .w 13 12, .w 13 76, .w 13 1572864, .w 13 2359296,
    .w 13 2424832, .w 13 20250624, .w 14 8, .w 14 24, .w 14 4259840, .w 14 4325376, .w 18 8, .w 18 12, .w 18 64,
    .w 18 72, .w 18 262144, .w 18 327680, .w 18 786432, .w 18 20578304, .w 19 16, .a 19 1310720 268435456,
    .a 19 1376256 268435456, .a 19 22413312 268435456, .a 19 22478848 268435456, .p .edges, .p .inbox, .p .chn,
    .p .seqs, .p .pa]

theorem State.lanyardFail_out {s : State} (a : Nat) (h₀ : Out L₀ s₀ s)
    (hL : Key.sub lanyardFailOut L₀ = true) :
    Out L₀ s₀ (State.lanyardFail s a) := by
  unfold State.lanyardFail
  repeat'
    first
      | with_reducible assumption | with_reducible apply Out.count | with_reducible apply State.portFail_out
      | with_reducible apply Out.bump | exact Key.hasA rfl | exact Key.hasW | exact Out.sub hL rfl | intro _
      | with_reducible apply Out.ite | split | dsimp only [id_eq]
      | (rename_i e; with_reducible refine Out.of_eq e ?_)

/-- What `lanyardGateFrame` may change. -/
def lanyardGateFrameOut : List Key :=
  [.w 12 8, .w 13 8, .w 13 12, .w 13 76, .w 13 1572864, .w 13 2359296,
    .w 13 2424832, .w 13 20250624, .w 14 8, .w 14 12, .w 14 24, .w 14 84, .w 14 3538944, .w 14 4259840,
    .w 14 4325376, .w 18 8, .w 18 12, .w 18 72, .w 18 786432, .w 18 20578304, .w 18 20643840, .w 18 20709376,
    .w 18 21037056, .w 19 16, .a 19 1310720 268435456, .a 19 1376256 268435456, .a 19 22413312 268435456,
    .a 19 22478848 268435456, .p .edges, .p .inbox, .p .chn, .p .seqs, .p .pa]

theorem lanyardGateFrame_out (a : Act) (code : BitVec 8) {s : State} (h₀ : Out L₀ s₀ s)
    (hL : Key.sub lanyardGateFrameOut L₀ = true) :
    Out L₀ s₀ (lanyardGateFrame a code s) := by
  unfold lanyardGateFrame
  repeat'
    first
      | with_reducible assumption | with_reducible apply Out.puts_nil | with_reducible apply Out.puts_cons
      | with_reducible apply Out.put | with_reducible apply Out.when | with_reducible apply State.withdraw_out
      | exact Key.hasA rfl | exact Key.hasW | exact Out.sub hL rfl | intro _ | with_reducible apply Out.ite | split
      | dsimp only [id_eq] | (rename_i e; with_reducible refine Out.of_eq e ?_)

theorem lanyardRegWrite_out (a : Act) (hsel : Fin 16) (addr : Fin 2048) (data : BitVec 16) (err : BitVec 40) (ret : Option (BitVec 4)) {s : State} (h₀ : Out L₀ s₀ s)
    (hL : Key.sub lanyardFailOut L₀ = true) :
    Out L₀ s₀ (lanyardRegWrite a hsel addr data err ret s) := by
  unfold lanyardRegWrite
  repeat'
    first
      | with_reducible assumption | with_reducible apply Out.put | with_reducible apply Out.when
      | with_reducible apply State.preampWrite_out | with_reducible apply State.lanyardFail_out | exact Key.hasA rfl
      | exact Key.hasW | exact Out.sub hL rfl | intro _ | with_reducible apply Out.ite | split | dsimp only [id_eq]
      | (rename_i e; with_reducible refine Out.of_eq e ?_)

theorem lanyardRegRead_out (a : Act) (hsel : Fin 16) (addr : Fin 2048) (err : BitVec 24) (ret : Option (BitVec 16 × BitVec 8)) {s : State} (h₀ : Out L₀ s₀ s)
    (hL : Key.sub lanyardFailOut L₀ = true) :
    Out L₀ s₀ (lanyardRegRead a hsel addr err ret s) := by
  unfold lanyardRegRead
  repeat'
    first
      | with_reducible assumption | with_reducible apply Out.put | with_reducible apply State.lanyardFail_out
      | with_reducible apply Out.when | with_reducible apply State.showPaFlt_out
      | with_reducible apply State.paSet_out | exact Key.hasA rfl | exact Key.hasW | exact Out.sub hL rfl | intro _
      | with_reducible apply Out.ite | split | dsimp only [id_eq]
      | (rename_i e; with_reducible refine Out.of_eq e ?_)

/-- What `State.sptEnable` may change. -/
def sptEnableOut : List Key :=
  [.w 18 0, .w 18 4, .w 18 8, .w 18 262144, .w 18 327680, .w 18 851968, .p .win]

theorem State.sptEnable_out {s : State} (a : Nat) (h₀ : Out L₀ s₀ s)
    (hL : Key.sub sptEnableOut L₀ = true) :
    Out L₀ s₀ (State.sptEnable s a).1 := by
  unfold State.sptEnable
  repeat'
    first
      | with_reducible assumption | with_reducible apply State.loadWin_out | with_reducible apply State.enable_out
      | with_reducible apply Out.puts_nil | with_reducible apply Out.puts_cons | with_reducible apply Out.put
      | exact Key.hasA rfl | exact Key.hasW | exact Out.sub hL rfl | intro _ | with_reducible apply Out.ite | split
      | dsimp only [id_eq] | (rename_i e; with_reducible refine Out.of_eq e ?_)

theorem sptEnableCmd_out (a : Act) {s : State} (h₀ : Out L₀ s₀ s)
    (hL : Key.sub sptEnableOut L₀ = true) :
    Out L₀ s₀ (sptEnableCmd a s) := by
  unfold sptEnableCmd
  repeat'
    first
      | with_reducible assumption | with_reducible apply State.sptEnable_out | exact Key.hasA rfl | exact Key.hasW
      | exact Out.sub hL rfl | intro _ | with_reducible apply Out.ite | split | dsimp only [id_eq]
      | (rename_i e; with_reducible refine Out.of_eq e ?_)

theorem State.setLoad_out {s : State} (h : Nat) (k : Nat) (v : Nat) (h₀ : Out L₀ s₀ s)
    (hL : Key.sub [.p .loads] L₀ = true) :
    Out L₀ s₀ (State.setLoad s h k v) := by
  unfold State.setLoad
  repeat'
    first
      | with_reducible assumption | exact Key.hasA rfl | exact Key.hasW | exact Out.sub hL rfl | intro _
      | with_reducible apply Out.ite | split | dsimp only [id_eq]
      | (rename_i e; with_reducible refine Out.of_eq e ?_) | with_reducible apply Out.setLoads

theorem State.judgeLoad_out {s : State} (a : Nat) (l : Nat) (kind : Nat) (v : Nat) (h₀ : Out L₀ s₀ s)
    (hL : Key.sub [.w 2 8, .w 2 20, .w 2 24, .a 2 32 4, .w 2 5439488, .w 2 5505024, .w 6 8, .w 6 12, .w 7 12, .w 7 24, .w 7 28,
    .w 7 17956864, .w 9 8, .w 10 20, .w 10 24, .w 11 8, .w 11 12, .a 11 32 4, .a 11 48 4, .w 18 12, .w 18 48,
    .w 20 8, .w 20 12, .a 20 32 4, .a 65 15335424 268435456, .a 65 15400960 268435456, .a 65 22347776 268435456,
    .p .win, .p .free, .p .edges, .p .inbox, .p .mcache, .p .jq, .p .jobNo, .p .cmds, .p .cqs, .p .ctrls, .p .nss,
    .p .zones, .p .bands, .p .vol, .p .points, .p .mops, .p .opid, .p .journal, .p .jseq, .p .blks, .p .fops,
    .p .fwait, .p .errlog, .p .pkt, .p .hbm, .p .poison, .p .lost, .p .kvLog, .p .stripes] L₀ = true) :
    Out L₀ s₀ (State.judgeLoad s a l kind v) := by
  unfold State.judgeLoad
  repeat'
    first
      | with_reducible assumption | with_reducible apply Out.post | with_reducible apply Out.evt
      | with_reducible apply State.markReader_out | with_reducible apply State.writeDisable_out | exact Key.hasA rfl
      | exact Key.hasW | exact Out.sub hL rfl | intro _ | with_reducible apply Out.ite | split | dsimp only [id_eq]
      | (rename_i e; with_reducible refine Out.of_eq e ?_)

theorem enumerationComplete_out (a : Act) (paId : BitVec 16) (paCap : BitVec 16) (loads : List (List Nat)) (flex : Nat) {s : State} (h₀ : Out L₀ s₀ s)
    (hL : Key.sub [.w 2 8, .w 2 20, .w 2 24, .a 2 32 4, .w 2 5439488, .w 2 5505024, .w 6 8, .w 6 12, .w 7 12, .w 7 24, .w 7 28,
    .w 7 17956864, .w 9 8, .w 10 20, .w 10 24, .w 11 8, .w 11 12, .a 11 32 4, .a 11 48 4, .w 18 0, .w 18 4, .w 18 8,
    .w 18 12, .w 18 24, .w 18 48, .w 18 524288, .w 18 851968, .w 18 20119552, .w 18 20578304, .w 20 8, .w 20 12,
    .a 20 32 4, .a 65 15335424 268435456, .a 65 15400960 268435456, .a 65 22347776 268435456, .p .win, .p .free,
    .p .edges, .p .inbox, .p .mcache, .p .pa, .p .jq, .p .jobNo, .p .cmds, .p .cqs, .p .ctrls, .p .nss, .p .zones,
    .p .bands, .p .vol, .p .points, .p .mops, .p .opid, .p .journal, .p .jseq, .p .blks, .p .fops, .p .fwait,
    .p .errlog, .p .pkt, .p .hbm, .p .poison, .p .lost, .p .kvLog, .p .stripes, .p .loads] L₀ = true) :
    Out L₀ s₀ (enumerationComplete a paId paCap loads flex s) := by
  unfold enumerationComplete
  repeat'
    first
      | with_reducible assumption | with_reducible apply Out.puts_nil | with_reducible apply Out.puts_cons
      | with_reducible apply Out.put | with_reducible apply Out.forAll | with_reducible apply State.judgeLoad_out
      | with_reducible apply State.setLoad_out | with_reducible apply State.paPut_out | with_reducible apply Out.when
      | with_reducible apply Out.post | with_reducible apply Out.evt | exact Key.hasA rfl | exact Key.hasW
      | exact Out.sub hL rfl | intro _ | with_reducible apply Out.ite | split | dsimp only [id_eq]
      | (rename_i e; with_reducible refine Out.of_eq e ?_)

/-- What `preampFault` may change. -/
def preampFaultOut : List Key :=
  [.w 2 8, .w 2 20, .w 2 24, .a 2 32 4, .w 2 5439488, .w 2 5505024, .w 6 8,
    .w 6 12, .w 7 12, .w 7 24, .w 7 28, .w 7 17956864, .w 9 8, .w 10 20, .w 10 24, .w 11 8, .w 11 12, .a 11 32 4,
    .a 11 48 4, .w 12 8, .w 13 8, .w 13 12, .w 13 76, .w 13 1572864, .w 13 2359296, .w 13 2424832, .w 13 20250624,
    .w 14 8, .w 14 24, .w 14 4259840, .w 14 4325376, .w 18 8, .w 18 12, .w 18 44, .w 18 48, .w 18 68, .w 18 72,
    .w 18 262144, .w 18 327680, .w 18 393216, .w 18 458752, .w 18 786432, .w 18 20578304, .w 19 12, .w 19 16,
    .w 19 1114112, .w 19 1179648, .a 19 1310720 268435456, .a 19 1376256 268435456, .a 19 22413312 268435456,
    .a 19 22478848 268435456, .w 20 8, .w 20 12, .a 20 32 4, .a 65 15335424 268435456, .a 65 15400960 268435456,
    .a 65 22347776 268435456, .p .win, .p .free, .p .edges, .p .inbox, .p .chn, .p .seqs, .p .mcache, .p .pa,
    .p .jq, .p .jobNo, .p .cmds, .p .cqs, .p .ctrls, .p .nss, .p .zones, .p .bands, .p .vol, .p .points, .p .mops,
    .p .opid, .p .journal, .p .jseq, .p .blks, .p .fops, .p .fwait, .p .errlog, .p .pkt, .p .hbm, .p .poison,
    .p .lost, .p .kvLog, .p .stripes]

theorem preampFault_out (a : Act) (status : BitVec 16) (stays : Bool) (latch : Bool) {s : State} (h₀ : Out L₀ s₀ s)
    (hL : Key.sub preampFaultOut L₀ = true) :
    Out L₀ s₀ (preampFault a status stays latch s) := by
  unfold preampFault
  repeat'
    first
      | with_reducible assumption | with_reducible apply Out.puts_nil | with_reducible apply Out.puts_cons
      | with_reducible apply Out.put | with_reducible apply State.tdAbortOn_out
      | with_reducible apply State.endWrite_out | with_reducible apply Out.when | with_reducible apply Out.count
      | with_reducible apply Out.evt | with_reducible apply State.paPut_out
      | with_reducible apply State.writeDisable_out | with_reducible apply State.markReader_out
      | with_reducible apply Out.putB | with_reducible apply State.showPaFlt_out
      | with_reducible apply State.paSet_out | with_reducible apply Out.post
      | with_reducible apply State.portFail_out | exact Key.hasA rfl | exact Key.hasW | exact Out.sub hL rfl
      | intro _ | with_reducible apply Out.ite | split | dsimp only [id_eq]
      | (rename_i e; with_reducible refine Out.of_eq e ?_)

theorem preampWriteHoldEnd_out (a : Act) (flagClear : Bool) {s : State} (h₀ : Out L₀ s₀ s)
    (hL : Key.sub [.w 18 8, .w 18 393216, .w 18 458752, .p .pa] L₀ = true) :
    Out L₀ s₀ (preampWriteHoldEnd a flagClear s) := by
  unfold preampWriteHoldEnd
  repeat'
    first
      | with_reducible assumption | with_reducible apply State.showPaFlt_out | with_reducible apply State.paSet_out
      | with_reducible apply Out.puts_nil | with_reducible apply Out.puts_cons | with_reducible apply Out.put
      | with_reducible apply Out.when | exact Key.hasA rfl | exact Key.hasW | exact Out.sub hL rfl | intro _
      | with_reducible apply Out.ite | split | dsimp only [id_eq]
      | (rename_i e; with_reducible refine Out.of_eq e ?_)

/-- What `wrInh` may change. -/
def wrInhOut : List Key :=
  [.w 12 8, .w 13 8, .w 13 12, .w 13 76, .w 13 1572864, .w 13 2359296, .w 13 2424832,
    .w 13 20250624, .w 14 8, .w 14 24, .w 14 4259840, .w 14 4325376, .w 18 0, .w 18 8, .w 18 12, .w 18 72,
    .w 18 786432, .w 18 20578304, .w 19 16, .a 19 1310720 268435456, .a 19 1376256 268435456,
    .a 19 22413312 268435456, .a 19 22478848 268435456, .p .edges, .p .inbox, .p .chn, .p .seqs, .p .pa]

theorem wrInh_out (a : Act) (v : Bool) {s : State} (h₀ : Out L₀ s₀ s)
    (hL : Key.sub wrInhOut L₀ = true) :
    Out L₀ s₀ (wrInh a v s) := by
  unfold wrInh
  repeat'
    first
      | with_reducible assumption | with_reducible apply Out.when | with_reducible apply Out.putB
      | with_reducible apply State.endWrite_out | exact Key.hasA rfl | exact Key.hasW | exact Out.sub hL rfl
      | intro _ | with_reducible apply Out.ite | split | dsimp only [id_eq]
      | (rename_i e; with_reducible refine Out.of_eq e ?_)

theorem hdwpClear_out (a : Act) (mask : BitVec 10) (hw : BitVec 10) {s : State} (h₀ : Out L₀ s₀ s)
    (hL : Key.sub [.w 18 48] L₀ = true) :
    Out L₀ s₀ (hdwpClear a mask hw s) := by
  unfold hdwpClear
  repeat'
    first
      | with_reducible assumption | with_reducible apply Out.put | exact Key.hasA rfl | exact Key.hasW
      | exact Out.sub hL rfl | intro _ | with_reducible apply Out.ite | split | dsimp only [id_eq]
      | (rename_i e; with_reducible refine Out.of_eq e ?_)

theorem preheatDone_out (a : Act) {s : State} (h₀ : Out L₀ s₀ s)
    (hL : Key.sub [.a 19 1245184 268435456, .a 19 1310720 268435456] L₀ = true) :
    Out L₀ s₀ (preheatDone a s) := by
  unfold preheatDone
  repeat'
    first
      | with_reducible assumption | with_reducible apply Out.when | with_reducible apply Out.puts_nil
      | with_reducible apply Out.puts_cons | with_reducible apply Out.put | exact Key.hasA rfl | exact Key.hasW
      | exact Out.sub hL rfl | intro _ | with_reducible apply Out.ite | split | dsimp only [id_eq]
      | (rename_i e; with_reducible refine Out.of_eq e ?_)

theorem State.holdQueue_out {s : State} (a : Nat) (h₀ : Out L₀ s₀ s)
    (hL : Key.sub [.a 2 32 4] L₀ = true) :
    Out L₀ s₀ (State.holdQueue s a) := by
  unfold State.holdQueue
  repeat'
    first
      | with_reducible assumption | with_reducible apply Out.puts_nil | with_reducible apply Out.puts_cons
      | with_reducible apply Out.put | exact Key.hasA rfl | exact Key.hasW | exact Out.sub hL rfl | intro _
      | with_reducible apply Out.ite | split | dsimp only [id_eq]
      | (rename_i e; with_reducible refine Out.of_eq e ?_)

theorem State.tdHeater_out {s : State} (a : Nat) (h : Nat) (p : Nat) (h₀ : Out L₀ s₀ s)
    (hL : Key.sub [.w 18 20578304, .w 19 16, .a 19 22478848 268435456, .p .edges, .p .inbox, .p .pa] L₀ = true) :
    Out L₀ s₀ (State.tdHeater s a h p) := by
  unfold State.tdHeater
  repeat'
    first
      | with_reducible assumption | with_reducible apply State.paPut_out | with_reducible apply State.heaterBad_out
      | with_reducible apply State.setHeater_out | exact Key.hasA rfl | exact Key.hasW | exact Out.sub hL rfl
      | intro _ | with_reducible apply Out.ite | split | dsimp only [id_eq]
      | (rename_i e; with_reducible refine Out.of_eq e ?_)

theorem State.tdBegin_out {s : State} (a : Nat) (h₀ : Out L₀ s₀ s)
    (hL : Key.sub [.w 12 8, .w 13 8, .w 13 12, .w 13 76, .w 13 1572864, .w 13 2359296, .w 13 2424832, .w 13 20250624, .w 14 8,
    .w 14 12, .w 14 20, .w 14 24, .w 14 84, .w 14 3211264, .w 14 3342336, .w 14 3407872, .w 14 3473408,
    .w 14 3538944, .w 14 3604480, .w 14 3670016, .w 14 3735552, .w 14 4194304, .w 14 4259840, .w 14 4325376,
    .w 14 21233664, .w 14 21692416, .w 14 22282240, .w 18 8, .w 18 12, .w 18 72, .w 18 786432, .w 18 20578304,
    .w 19 16, .w 19 917504, .w 19 983040, .w 19 1048576, .w 19 1114112, .w 19 1179648, .a 19 1310720 268435456,
    .a 19 1376256 268435456, .a 19 22413312 268435456, .a 19 22478848 268435456, .p .edges, .p .inbox, .p .chn,
    .p .seqs, .p .pa, .p .amps] L₀ = true) :
    Out L₀ s₀ (State.tdBegin s a) := by
  unfold State.tdBegin
  repeat'
    first
      | with_reducible assumption | with_reducible apply State.tdHeater_out | with_reducible apply State.goTrack_out
      | with_reducible apply Out.puts_nil | with_reducible apply Out.puts_cons | with_reducible apply Out.put
      | exact Key.hasA rfl | exact Key.hasW | exact Out.sub hL rfl | intro _ | with_reducible apply Out.ite | split
      | dsimp only [id_eq] | (rename_i e; with_reducible refine Out.of_eq e ?_)

theorem State.writeOpEnded_out {s : State} (a : Nat) (h₀ : Out L₀ s₀ s)
    (hL : Key.sub [.a 2 32 4, .w 12 8, .w 13 8, .w 13 12, .w 13 76, .w 13 1572864, .w 13 2359296, .w 13 2424832, .w 13 20250624,
    .w 14 8, .w 14 12, .w 14 20, .w 14 24, .w 14 84, .w 14 3211264, .w 14 3342336, .w 14 3407872, .w 14 3473408,
    .w 14 3538944, .w 14 3604480, .w 14 3670016, .w 14 3735552, .w 14 4194304, .w 14 4259840, .w 14 4325376,
    .w 14 21233664, .w 14 21692416, .w 14 22282240, .w 18 8, .w 18 12, .w 18 72, .w 18 720896, .w 18 786432,
    .w 18 20054016, .w 18 20578304, .w 19 16, .w 19 917504, .w 19 983040, .w 19 1048576, .w 19 1114112,
    .w 19 1179648, .a 19 1310720 268435456, .a 19 1376256 268435456, .a 19 22413312 268435456,
    .a 19 22478848 268435456, .p .edges, .p .inbox, .p .chn, .p .seqs, .p .pa, .p .amps] L₀ = true) :
    Out L₀ s₀ (State.writeOpEnded s a) := by
  unfold State.writeOpEnded
  repeat'
    first
      | with_reducible assumption | with_reducible apply Out.when | with_reducible apply State.tdBegin_out
      | with_reducible apply Out.puts_nil | with_reducible apply Out.puts_cons | with_reducible apply Out.put
      | with_reducible apply State.releaseHold_out | exact Key.hasA rfl | exact Key.hasW | exact Out.sub hL rfl
      | intro _ | with_reducible apply Out.ite | split | dsimp only [id_eq]
      | (rename_i e; with_reducible refine Out.of_eq e ?_)

/-- What `State.tdGo` may change. -/
def tdGoOut : List Key :=
  [.a 2 32 4, .w 12 8, .w 13 8, .w 13 12, .w 13 76, .w 13 1572864, .w 13 2359296,
    .w 13 2424832, .w 13 20250624, .w 14 8, .w 14 12, .w 14 20, .w 14 24, .w 14 84, .w 14 3211264, .w 14 3342336,
    .w 14 3407872, .w 14 3473408, .w 14 3538944, .w 14 3604480, .w 14 3670016, .w 14 3735552, .w 14 4194304,
    .w 14 4259840, .w 14 4325376, .w 14 21233664, .w 14 21692416, .w 14 22282240, .w 18 8, .w 18 12, .w 18 72,
    .w 18 786432, .w 18 20578304, .w 19 8, .w 19 12, .w 19 16, .w 19 917504, .w 19 983040, .w 19 1048576,
    .w 19 1114112, .w 19 1179648, .a 19 1310720 268435456, .a 19 1376256 268435456, .w 19 19988480,
    .a 19 22413312 268435456, .a 19 22478848 268435456, .p .edges, .p .inbox, .p .chn, .p .seqs, .p .pa, .p .amps]

theorem State.tdGo_out {s : State} (h : Nat) (h₀ : Out L₀ s₀ s)
    (hL : Key.sub tdGoOut L₀ = true) :
    Out L₀ s₀ (State.tdGo s h).1 := by
  unfold State.tdGo
  repeat'
    first
      | with_reducible assumption | with_reducible apply Out.put | with_reducible apply Out.post
      | with_reducible apply Out.evt | with_reducible apply Out.puts_nil | with_reducible apply Out.puts_cons
      | with_reducible apply State.holdQueue_out | with_reducible apply State.tdBegin_out | exact Key.hasA rfl
      | exact Key.hasW | exact Out.sub hL rfl | intro _ | with_reducible apply Out.ite | split | dsimp only [id_eq]
      | (rename_i e; with_reducible refine Out.of_eq e ?_)

theorem touchdownGo_out (h : GHead) {s : State} (h₀ : Out L₀ s₀ s)
    (hL : Key.sub tdGoOut L₀ = true) :
    Out L₀ s₀ (touchdownGo h s) := by
  unfold touchdownGo
  repeat'
    first
      | with_reducible assumption | with_reducible apply State.tdGo_out | exact Key.hasA rfl | exact Key.hasW
      | exact Out.sub hL rfl | intro _ | with_reducible apply Out.ite | split | dsimp only [id_eq]
      | (rename_i e; with_reducible refine Out.of_eq e ?_)

theorem State.tdEnd_out {s : State} (a : Nat) (h : Nat) (res : Nat) (pwr : Nat) (h₀ : Out L₀ s₀ s)
    (hL : Key.sub [.a 2 32 4, .w 18 20578304, .w 19 12, .w 19 16, .a 19 22413312 268435456, .p .edges, .p .pa] L₀ = true) :
    Out L₀ s₀ (State.tdEnd s a h res pwr) := by
  unfold State.tdEnd
  repeat'
    first
      | with_reducible assumption | with_reducible apply State.releaseHold_out | with_reducible apply Out.evt
      | with_reducible apply Out.puts_nil | with_reducible apply Out.puts_cons | with_reducible apply Out.put
      | with_reducible apply State.paPut_out | exact Key.hasA rfl | exact Key.hasW | exact Out.sub hL rfl | intro _
      | with_reducible apply Out.ite | split | dsimp only [id_eq]
      | (rename_i e; with_reducible refine Out.of_eq e ?_)

/-- What `touchdownDwellEnd` may change. -/
def touchdownDwellEndOut : List Key :=
  [.a 2 32 4, .w 18 20578304, .w 19 12, .w 19 16, .w 19 64, .w 19 917504,
    .w 19 983040, .w 19 1048576, .w 19 1114112, .a 19 22413312 268435456, .a 19 22478848 268435456, .p .edges,
    .p .inbox, .p .pa]

theorem touchdownDwellEnd_out (energy : Nat) (offTrack : Nat) {s : State} (h₀ : Out L₀ s₀ s)
    (hL : Key.sub touchdownDwellEndOut L₀ = true) :
    Out L₀ s₀ (touchdownDwellEnd energy offTrack s) := by
  unfold touchdownDwellEnd
  repeat'
    first
      | with_reducible assumption | with_reducible apply Out.post | with_reducible apply Out.count
      | with_reducible apply State.tdEnd_out | with_reducible apply State.tdHeater_out
      | with_reducible apply Out.puts_nil | with_reducible apply Out.puts_cons | with_reducible apply Out.put
      | exact Key.hasA rfl | exact Key.hasW | exact Out.sub hL rfl | intro _ | with_reducible apply Out.ite | split
      | dsimp only [id_eq] | (rename_i e; with_reducible refine Out.of_eq e ?_)

theorem touchdownAbort_out {s : State} (h₀ : Out L₀ s₀ s)
    (hL : Key.sub tdAbortOut L₀ = true) :
    Out L₀ s₀ (touchdownAbort s) := by
  unfold touchdownAbort
  repeat'
    first
      | with_reducible assumption | with_reducible apply State.tdAbort_out | exact Key.hasA rfl | exact Key.hasW
      | exact Out.sub hL rfl | intro _ | with_reducible apply Out.ite | split | dsimp only [id_eq]
      | (rename_i e; with_reducible refine Out.of_eq e ?_)

/-- What `State.measGo` may change. -/
def measGoOut : List Key :=
  [.a 2 32 4, .w 18 8, .w 18 32, .w 18 655360, .w 18 720896, .w 18 20054016,
    .w 18 20971520]

theorem State.measGo_out {s : State} (a : Nat) (kind : Nat) (l : Nat) (h₀ : Out L₀ s₀ s)
    (hL : Key.sub measGoOut L₀ = true) :
    Out L₀ s₀ (State.measGo s a kind l).1 := by
  unfold State.measGo
  repeat'
    first
      | with_reducible assumption | with_reducible apply Out.puts_nil | with_reducible apply Out.puts_cons
      | with_reducible apply Out.put | with_reducible apply State.holdQueue_out | exact Key.hasA rfl | exact Key.hasW
      | exact Out.sub hL rfl | intro _ | with_reducible apply Out.ite | split | dsimp only [id_eq]
      | (rename_i e; with_reducible refine Out.of_eq e ?_)

theorem loadMeasureGo_out (a : Act) (kind : Fin 8) (l : LHead) {s : State} (h₀ : Out L₀ s₀ s)
    (hL : Key.sub measGoOut L₀ = true) :
    Out L₀ s₀ (loadMeasureGo a kind l s) := by
  unfold loadMeasureGo
  repeat'
    first
      | with_reducible assumption | with_reducible apply State.measGo_out | exact Key.hasA rfl | exact Key.hasW
      | exact Out.sub hL rfl | intro _ | with_reducible apply Out.ite | split | dsimp only [id_eq]
      | (rename_i e; with_reducible refine Out.of_eq e ?_)

/-- What `loadMeasureDone` may change. -/
def loadMeasureDoneOut : List Key :=
  [.w 2 8, .w 2 20, .w 2 24, .a 2 32 4, .w 2 5439488, .w 2 5505024, .w 6 8,
    .w 6 12, .w 7 12, .w 7 24, .w 7 28, .w 7 17956864, .w 9 8, .w 10 20, .w 10 24, .w 11 8, .w 11 12, .a 11 32 4,
    .a 11 48 4, .w 18 8, .w 18 12, .w 18 36, .w 18 40, .w 18 48, .w 18 524288, .w 18 20578304, .w 19 16,
    .a 19 22413312 268435456, .a 19 22478848 268435456, .w 20 8, .w 20 12, .a 20 32 4, .a 65 15335424 268435456,
    .a 65 15400960 268435456, .a 65 22347776 268435456, .p .win, .p .free, .p .edges, .p .inbox, .p .mcache, .p .pa,
    .p .jq, .p .jobNo, .p .cmds, .p .cqs, .p .ctrls, .p .nss, .p .zones, .p .bands, .p .vol, .p .points, .p .mops,
    .p .opid, .p .journal, .p .jseq, .p .blks, .p .fops, .p .fwait, .p .errlog, .p .pkt, .p .hbm, .p .poison,
    .p .lost, .p .kvLog, .p .stripes, .p .loads]

theorem loadMeasureDone_out (a : Act) (res0 : BitVec 32) (res1 : BitVec 32) {s : State} (h₀ : Out L₀ s₀ s)
    (hL : Key.sub loadMeasureDoneOut L₀ = true) :
    Out L₀ s₀ (loadMeasureDone a res0 res1 s) := by
  unfold loadMeasureDone
  repeat'
    first
      | with_reducible assumption | with_reducible apply State.setLoad_out | with_reducible apply Out.when
      | with_reducible apply Out.put | with_reducible apply State.releaseHold_out | with_reducible apply Out.evt
      | with_reducible apply Out.puts_nil | with_reducible apply Out.puts_cons
      | with_reducible apply State.judgeLoad_out | with_reducible apply State.idleHeater_out | exact Key.hasA rfl
      | exact Key.hasW | exact Out.sub hL rfl | intro _ | with_reducible apply Out.ite | split | dsimp only [id_eq]
      | (rename_i e; with_reducible refine Out.of_eq e ?_)

theorem State.tfhPass_out {s : State} (hs : List Nat) (h₀ : Out L₀ s₀ s)
    (hL : Key.sub [.a 19 1441792 268435456] L₀ = true) :
    Out L₀ s₀ (State.tfhPass s hs) := by
  unfold State.tfhPass
  repeat'
    first
      | with_reducible assumption | with_reducible apply Out.forAll | with_reducible apply Out.put
      | exact Key.hasA rfl | exact Key.hasW | exact Out.sub hL rfl | intro _ | with_reducible apply Out.ite | split
      | dsimp only [id_eq] | (rename_i e; with_reducible refine Out.of_eq e ?_)

theorem State.tfhEnable_out {s : State} (h₀ : Out L₀ s₀ s)
    (hL : Key.sub [.w 19 0, .w 19 4, .a 19 1441792 268435456, .p .win] L₀ = true) :
    Out L₀ s₀ (State.tfhEnable s).1 := by
  unfold State.tfhEnable
  repeat'
    first
      | with_reducible assumption | with_reducible apply Out.forAll | with_reducible apply State.loadWin_out
      | with_reducible apply State.enable_out | with_reducible apply State.tfhPass_out | exact Key.hasA rfl
      | exact Key.hasW | exact Out.sub hL rfl | intro _ | with_reducible apply Out.ite | split | dsimp only [id_eq]
      | (rename_i e; with_reducible refine Out.of_eq e ?_)

theorem tfhEnableCmd_out {s : State} (h₀ : Out L₀ s₀ s)
    (hL : Key.sub [.w 19 0, .w 19 4, .a 19 1441792 268435456, .p .win] L₀ = true) :
    Out L₀ s₀ (tfhEnableCmd s) := by
  unfold tfhEnableCmd
  repeat'
    first
      | with_reducible assumption | with_reducible apply State.tfhEnable_out | exact Key.hasA rfl | exact Key.hasW
      | exact Out.sub hL rfl | intro _ | with_reducible apply Out.ite | split | dsimp only [id_eq]
      | (rename_i e; with_reducible refine Out.of_eq e ?_)

theorem execLanyardGateFrame_out (a : Act) (code : BitVec 8) {s t : State} (h : execLanyardGateFrame a code s = .next t) :
    Out lanyardGateFrameOut s t := by
  have h := Host.Outcome.next.inj h; subst h; exact lanyardGateFrame_out _ _ (Out.refl s) rfl

theorem execLanyardRegWrite_out (a : Act) (hsel : Fin 16) (addr : Fin 2048) (data : BitVec 16) (err : BitVec 40) (ret : Option (BitVec 4)) {s t : State} (h : execLanyardRegWrite a hsel addr data err ret s = .next t) :
    Out lanyardFailOut s t := by
  have h := Host.Outcome.next.inj h; subst h; exact lanyardRegWrite_out _ _ _ _ _ _ (Out.refl s) rfl

theorem execLanyardRegRead_out (a : Act) (hsel : Fin 16) (addr : Fin 2048) (err : BitVec 24) (ret : Option (BitVec 16 × BitVec 8)) {s t : State} (h : execLanyardRegRead a hsel addr err ret s = .next t) :
    Out lanyardFailOut s t := by
  have h := Host.Outcome.next.inj h; subst h; exact lanyardRegRead_out _ _ _ _ _ (Out.refl s) rfl

theorem execSptEnable_out (a : Act) {s t : State} (h : execSptEnable a s = .next t) :
    Out sptEnableOut s t := by
  have h := Host.Outcome.next.inj h; subst h; exact sptEnableCmd_out _ (Out.refl s) rfl

theorem execPreampFault_out (a : Act) (status : BitVec 16) (stays : Bool) (latch : Bool) {s t : State} (h : execPreampFault a status stays latch s = .next t) :
    Out preampFaultOut s t := by
  have h := Host.Outcome.next.inj h; subst h; exact preampFault_out _ _ _ _ (Out.refl s) rfl

theorem execWrInh_out (a : Act) (v : Bool) {s t : State} (h : execWrInh a v s = .next t) :
    Out wrInhOut s t := by
  have h := Host.Outcome.next.inj h; subst h; exact wrInh_out _ _ (Out.refl s) rfl

theorem execHdwpClear_out (a : Act) (mask : BitVec 10) (hw : BitVec 10) {s t : State} (h : execHdwpClear a mask hw s = .next t) :
    Out [.w 18 48] s t := by
  have h := Host.Outcome.next.inj h; subst h; exact hdwpClear_out _ _ _ (Out.refl s) rfl

theorem execPreheatDone_out (a : Act) {s t : State} (h : execPreheatDone a s = .next t) :
    Out [.a 19 1245184 268435456, .a 19 1310720 268435456] s t := by
  have h := Host.Outcome.next.inj h; subst h; exact preheatDone_out _ (Out.refl s) rfl

theorem execTouchdownGo_out (h : GHead) {s t : State} (h : execTouchdownGo h s = .next t) :
    Out tdGoOut s t := by
  have h := Host.Outcome.next.inj h; subst h; exact touchdownGo_out _ (Out.refl s) rfl

theorem execTouchdownDwellEnd_out (energy : Nat) (offTrack : Nat) {s t : State} (h : execTouchdownDwellEnd energy offTrack s = .next t) :
    Out touchdownDwellEndOut s t := by
  have h := Host.Outcome.next.inj h; subst h; exact touchdownDwellEnd_out _ _ (Out.refl s) rfl

theorem execTouchdownAbort_out {s t : State} (h : execTouchdownAbort s = .next t) :
    Out tdAbortOut s t := by
  have h := Host.Outcome.next.inj h; subst h; exact touchdownAbort_out  (Out.refl s) rfl

theorem execLoadMeasureGo_out (a : Act) (kind : Fin 8) (l : LHead) {s t : State} (h : execLoadMeasureGo a kind l s = .next t) :
    Out measGoOut s t := by
  have h := Host.Outcome.next.inj h; subst h; exact loadMeasureGo_out _ _ _ (Out.refl s) rfl

theorem execLoadMeasureDone_out (a : Act) (res0 : BitVec 32) (res1 : BitVec 32) {s t : State} (h : execLoadMeasureDone a res0 res1 s = .next t) :
    Out loadMeasureDoneOut s t := by
  have h := Host.Outcome.next.inj h; subst h; exact loadMeasureDone_out _ _ _ (Out.refl s) rfl

theorem execTfhEnable_out {s t : State} (h : execTfhEnable s = .next t) :
    Out [.w 19 0, .w 19 4, .a 19 1441792 268435456, .p .win] s t := by
  have h := Host.Outcome.next.inj h; subst h; exact tfhEnableCmd_out  (Out.refl s) rfl

theorem execPreampWriteHoldEnd_out (a : Act) (flagClear : Bool) {s t : State} (h : execPreampWriteHoldEnd a flagClear s = .next t) :
    Out [.w 18 8, .w 18 393216, .w 18 458752, .p .pa] s t := by
  have h := Host.Outcome.next.inj h; subst h; exact preampWriteHoldEnd_out _ _ (Out.refl s) rfl

end Sys2Proof.Machine
end

