-- ==== Sys2Proof/Laws/OutBarker.lean ====
section
/-!
SUPPORT. What each operation and each command of `Machine/Barker.lean` can change.
-/

namespace Sys2Proof.Machine

set_option Elab.async false
set_option linter.unusedVariables false

set_option maxRecDepth 8000
set_option linter.unusedTactic false
set_option linter.unreachableTactic false

variable {L₀ : List Key} {s₀ : State}

theorem State.upset_out {s : State} (a : Nat) (addr : Nat) (f : BarkerWord) (h₀ : Out L₀ s₀ s)
    (hL : Key.sub [.p .bstore] L₀ = true) :
    Out L₀ s₀ (State.upset s a addr f) := by
  unfold State.upset
  repeat'
    first
      | with_reducible assumption | with_reducible apply State.setBstore_out | exact Key.hasA rfl | exact Key.hasW
      | exact Out.sub hL rfl | intro _ | with_reducible apply Out.ite | split | dsimp only [id_eq]
      | (rename_i e; with_reducible refine Out.of_eq e ?_)

theorem State.seqRetire_out {s : State} (a : Nat) (h₀ : Out L₀ s₀ s)
    (hL : Key.sub [.a 2 32 4, .w 11 8, .w 11 12, .w 11 84, .w 13 2424832, .a 64 2293760 268435456, .p .edges, .p .inbox] L₀ = true) :
    Out L₀ s₀ (State.seqRetire s a) := by
  unfold State.seqRetire
  repeat'
    first
      | with_reducible assumption | with_reducible apply State.refreshAct_out | with_reducible apply Out.seqPost
      | with_reducible apply Out.put | exact Key.hasA rfl | exact Key.hasW | exact Out.sub hL rfl | intro _
      | with_reducible apply Out.ite | split | dsimp only [id_eq]
      | (rename_i e; with_reducible refine Out.of_eq e ?_)

theorem State.seqMchk_out {s : State} (a : Nat) (cause : Nat) (qmask : Nat) (ab : Nat) (h₀ : Out L₀ s₀ s)
    (hL : Key.sub [.a 2 32 4, .w 11 8, .w 11 12, .w 11 84, .w 12 8, .w 13 8, .w 13 12, .w 13 20, .w 13 24, .w 13 72, .w 13 1572864,
    .w 13 2359296, .w 13 2424832, .w 13 20250624, .w 14 8, .w 14 24, .w 14 4259840, .w 14 4325376, .w 18 8,
    .w 18 12, .w 18 72, .w 18 786432, .w 18 20578304, .w 19 16, .a 19 1310720 268435456, .a 19 1376256 268435456,
    .a 19 22413312 268435456, .a 19 22478848 268435456, .a 64 2293760 268435456, .p .edges, .p .inbox, .p .chn,
    .p .seqs, .p .pa] L₀ = true) :
    Out L₀ s₀ (State.seqMchk s a cause qmask ab) := by
  unfold State.seqMchk
  repeat'
    first
      | with_reducible assumption | with_reducible apply State.stopRoutine_out | with_reducible apply Out.when
      | with_reducible apply State.writeAbort_out | with_reducible apply Out.puts_append
      | with_reducible apply Out.puts_nil | with_reducible apply Out.puts_cons | with_reducible apply Out.put
      | with_reducible apply State.setSeqr_out | with_reducible apply State.seqRetire_out
      | with_reducible apply Out.seqPost | with_reducible apply Out.seqCount | with_reducible apply Out.evt
      | exact Key.hasA rfl | exact Key.hasW | exact Out.sub hL rfl | intro _ | with_reducible apply Out.ite | split
      | dsimp only [id_eq] | (rename_i e; with_reducible refine Out.of_eq e ?_)

theorem State.seqMiss_out {s : State} (a : Nat) (cond : Nat) (imm : Nat) (h₀ : Out L₀ s₀ s)
    (hL : Key.sub [.w 13 12, .w 13 68, .w 13 2424832, .p .edges, .p .inbox] L₀ = true) :
    Out L₀ s₀ (State.seqMiss s a cond imm) := by
  unfold State.seqMiss
  repeat'
    first
      | with_reducible assumption | with_reducible apply Out.seqPost | with_reducible apply Out.seqCount
      | with_reducible apply Out.evt | exact Key.hasA rfl | exact Key.hasW | exact Out.sub hL rfl | intro _
      | with_reducible apply Out.ite | split | dsimp only [id_eq]
      | (rename_i e; with_reducible refine Out.of_eq e ?_)

theorem State.condTaken_out {s : State} (a : Nat) (cond : Nat) (h₀ : Out L₀ s₀ s)
    (hL : Key.sub [.w 13 2490368, .w 13 2555904, .w 13 2621440, .w 13 2686976, .w 14 8, .w 14 20512768] L₀ = true) :
    Out L₀ s₀ (State.condTaken s a cond) := by
  unfold State.condTaken
  repeat'
    first
      | with_reducible assumption | with_reducible apply Out.put | exact Key.hasA rfl | exact Key.hasW
      | exact Out.sub hL rfl | intro _ | with_reducible apply Out.ite | split | dsimp only [id_eq]
      | (rename_i e; with_reducible refine Out.of_eq e ?_)

theorem State.sendWd_out {s : State} (a : Nat) (j : Job) (first : Nat) (last : Nat) (pad : Bool) (h₀ : Out L₀ s₀ s)
    (hL : Key.sub [.p .wd] L₀ = true) :
    Out L₀ s₀ (State.sendWd s a j first last pad) := by
  unfold State.sendWd
  repeat'
    first
      | with_reducible assumption | exact Key.hasA rfl | exact Key.hasW | exact Out.sub hL rfl | intro _
      | with_reducible apply Out.ite | split | dsimp only [id_eq]
      | (rename_i e; with_reducible refine Out.of_eq e ?_) | with_reducible apply Out.setWd

theorem State.headSwitch_out {s : State} (a : Nat) (j : Job) (h₀ : Out L₀ s₀ s)
    (hL : Key.sub goTrackOut L₀ = true) :
    Out L₀ s₀ (State.headSwitch s a j) := by
  unfold State.headSwitch
  repeat'
    first
      | with_reducible assumption | with_reducible apply State.goTrack_out | exact Key.hasA rfl | exact Key.hasW
      | exact Out.sub hL rfl | intro _ | with_reducible apply Out.ite | split | dsimp only [id_eq]
      | (rename_i e; with_reducible refine Out.of_eq e ?_)

theorem State.gateActs_out {s : State} (a : Nat) (w : BarkerWord) (now : BarkerNow) (h₀ : Out L₀ s₀ s)
    (hL : Key.sub [.w 12 8, .w 13 8, .w 13 12, .w 13 76, .w 13 1572864, .w 13 1638400, .w 13 1966080, .w 13 2031616, .w 13 2359296,
    .w 13 2424832, .w 13 20250624, .w 13 20447232, .w 14 8, .w 14 12, .w 14 20, .w 14 24, .w 14 84, .w 14 3211264,
    .w 14 3342336, .w 14 3407872, .w 14 3473408, .w 14 3538944, .w 14 3604480, .w 14 3670016, .w 14 3735552,
    .w 14 4194304, .w 14 4259840, .w 14 4325376, .w 14 21233664, .w 14 21692416, .w 14 22282240, .w 18 8, .w 18 12,
    .w 18 72, .w 18 786432, .w 18 20578304, .w 19 16, .a 19 1245184 268435456, .a 19 1310720 268435456,
    .a 19 1376256 268435456, .a 19 22413312 268435456, .a 19 22478848 268435456, .p .edges, .p .inbox, .p .chn,
    .p .seqs, .p .wd, .p .pa, .p .amps] L₀ = true) :
    Out L₀ s₀ (State.gateActs s a w now) := by
  unfold State.gateActs
  repeat'
    first
      | with_reducible assumption | with_reducible apply Out.put | with_reducible apply Out.when
      | with_reducible apply Out.puts_nil | with_reducible apply Out.puts_cons
      | with_reducible apply State.sendWd_out | with_reducible apply State.driveHeater_out
      | with_reducible apply State.idleHeater_out | with_reducible apply State.headSwitch_out | exact Key.hasA rfl
      | exact Key.hasW | exact Out.sub hL rfl | intro _ | with_reducible apply Out.ite | split | dsimp only [id_eq]
      | (rename_i e; with_reducible refine Out.of_eq e ?_)

theorem State.commit_out {s : State} (a : Nat) (h₀ : Out L₀ s₀ s)
    (hL : Key.sub [.w 2 8, .w 2 20, .w 2 24, .a 2 32 4, .w 2 5439488, .w 2 5505024, .w 6 8, .w 6 12, .w 7 12, .w 7 24, .w 7 28,
    .w 7 17956864, .w 9 8, .w 10 20, .w 10 24, .w 11 8, .w 11 12, .a 11 32 4, .a 11 48 4, .w 11 76, .w 12 8,
    .w 13 8, .w 13 12, .w 13 28, .w 13 76, .w 13 1572864, .w 13 2359296, .w 13 2424832, .w 13 6029312,
    .w 13 20250624, .w 13 20381696, .w 14 8, .w 14 12, .w 14 20, .w 14 24, .w 14 84, .w 14 3211264, .w 14 3342336,
    .w 14 3407872, .w 14 3473408, .w 14 3538944, .w 14 3604480, .w 14 3670016, .w 14 3735552, .w 14 4194304,
    .w 14 4259840, .w 14 4325376, .w 14 21233664, .w 14 21692416, .w 14 22282240, .w 18 8, .w 18 12, .w 18 72,
    .w 18 720896, .w 18 786432, .w 18 20054016, .w 18 20578304, .w 19 16, .w 19 917504, .w 19 983040, .w 19 1048576,
    .w 19 1114112, .w 19 1179648, .a 19 1310720 268435456, .a 19 1376256 268435456, .a 19 22413312 268435456,
    .a 19 22478848 268435456, .w 20 8, .w 20 12, .a 20 32 4, .a 65 5767168 268435456, .a 65 15335424 268435456,
    .a 65 15400960 268435456, .a 65 22347776 268435456, .p .free, .p .edges, .p .inbox, .p .chn, .p .seqs,
    .p .media, .p .mcache, .p .pa, .p .jq, .p .jact, .p .jobNo, .p .cmds, .p .cqs, .p .ctrls, .p .nss, .p .zones,
    .p .bands, .p .vol, .p .dur, .p .points, .p .mops, .p .opid, .p .journal, .p .jseq, .p .amps, .p .blks,
    .p .fops, .p .fwait, .p .errlog, .p .pkt, .p .hbm, .p .poison, .p .lost, .p .kvLog, .p .stripes] L₀ = true) :
    Out L₀ s₀ (State.commit s a) := by
  unfold State.commit
  repeat'
    first
      | with_reducible assumption | with_reducible apply State.setSeqr_out
      | with_reducible apply State.writeOpEnded_out | with_reducible apply State.opEnded_out
      | with_reducible apply State.writeFailed_out | with_reducible apply State.setJob_out
      | with_reducible apply State.land_out | with_reducible apply State.writeTrack_out
      | with_reducible apply Out.puts_nil | with_reducible apply Out.puts_cons | with_reducible apply Out.put
      | with_reducible apply Out.bump | exact Key.hasA rfl | exact Key.hasW | exact Out.sub hL rfl | intro _
      | with_reducible apply Out.ite | split | dsimp only [id_eq]
      | (rename_i e; with_reducible refine Out.of_eq e ?_)

theorem State.trackEnded_out {s : State} (a : Nat) (j : Option Job) (h₀ : Out L₀ s₀ s)
    (hL : Key.sub opEndedOut L₀ = true) :
    Out L₀ s₀ (State.trackEnded s a j) := by
  unfold State.trackEnded
  repeat'
    first
      | with_reducible assumption | with_reducible apply State.opEnded_out | exact Key.hasA rfl | exact Key.hasW
      | exact Out.sub hL rfl | intro _ | with_reducible apply Out.ite | split | dsimp only [id_eq]
      | (rename_i e; with_reducible refine Out.of_eq e ?_)

/-- What `State.unitDone` may change. -/
def unitDoneOut : List Key :=
  [.w 2 20, .w 2 24, .a 2 32 4, .w 2 5439488, .w 2 5505024, .w 6 8, .w 6 12, .w 7 12,
    .w 7 24, .w 7 28, .w 7 17956864, .w 9 8, .w 10 20, .w 10 24, .a 11 32 4, .a 11 48 4, .w 12 8, .w 13 8, .w 13 12,
    .w 13 76, .w 13 1572864, .w 13 2359296, .w 13 2424832, .w 13 20250624, .w 13 20381696, .w 14 8, .w 14 12,
    .w 14 20, .w 14 24, .w 14 84, .w 14 3211264, .w 14 3342336, .w 14 3407872, .w 14 3473408, .w 14 3538944,
    .w 14 3604480, .w 14 3670016, .w 14 3735552, .w 14 4194304, .w 14 4259840, .w 14 4325376, .w 14 21233664,
    .w 14 21692416, .w 14 22282240, .w 18 8, .w 18 12, .w 18 72, .w 18 720896, .w 18 786432, .w 18 20054016,
    .w 18 20578304, .w 19 16, .w 19 917504, .w 19 983040, .w 19 1048576, .w 19 1114112, .w 19 1179648,
    .a 19 1310720 268435456, .a 19 1376256 268435456, .a 19 22413312 268435456, .a 19 22478848 268435456,
    .a 65 22347776 268435456, .p .free, .p .edges, .p .inbox, .p .chn, .p .seqs, .p .mcache, .p .pa, .p .jq,
    .p .jact, .p .jobNo, .p .cmds, .p .cqs, .p .nss, .p .bands, .p .vol, .p .points, .p .amps, .p .errlog, .p .pkt,
    .p .hbm, .p .poison, .p .lost, .p .kvLog, .p .stripes]

theorem State.unitDone_out {s : State} (a : Nat) (h₀ : Out L₀ s₀ s)
    (hL : Key.sub unitDoneOut L₀ = true) :
    Out L₀ s₀ (State.unitDone s a) := by
  unfold State.unitDone
  repeat'
    first
      | with_reducible assumption | with_reducible apply State.writeOpEnded_out
      | with_reducible apply State.trackEnded_out | with_reducible apply State.endJob_out
      | with_reducible apply State.setSeqr_out | with_reducible apply Out.put
      | with_reducible apply State.readEnds_out | exact Key.hasA rfl | exact Key.hasW | exact Out.sub hL rfl
      | intro _ | with_reducible apply Out.ite | split | dsimp only [id_eq]
      | (rename_i e; with_reducible refine Out.of_eq e ?_)

theorem State.wordActs_out {s : State} (a : Nat) (w : BarkerWord) (now : BarkerNow) (h₀ : Out L₀ s₀ s)
    (hL : Key.sub [.w 2 8, .w 2 20, .w 2 24, .a 2 32 4, .w 2 5439488, .w 2 5505024, .w 6 8, .w 6 12, .w 7 12, .w 7 24, .w 7 28,
    .w 7 17956864, .w 9 8, .w 10 20, .w 10 24, .w 11 8, .w 11 12, .a 11 32 4, .a 11 48 4, .w 11 76, .w 12 8,
    .w 13 8, .w 13 12, .w 13 28, .w 13 76, .w 13 1572864, .w 13 1638400, .w 13 1966080, .w 13 2031616,
    .w 13 2097152, .w 13 2162688, .w 13 2359296, .w 13 2424832, .w 13 6029312, .w 13 20250624, .w 13 20381696,
    .w 13 20447232, .w 13 22544384, .w 13 22609920, .w 14 8, .w 14 12, .w 14 20, .w 14 24, .w 14 84, .w 14 3211264,
    .w 14 3342336, .w 14 3407872, .w 14 3473408, .w 14 3538944, .w 14 3604480, .w 14 3670016, .w 14 3735552,
    .w 14 4194304, .w 14 4259840, .w 14 4325376, .w 14 21233664, .w 14 21692416, .w 14 22282240, .w 18 8, .w 18 12,
    .w 18 72, .w 18 720896, .w 18 786432, .w 18 20054016, .w 18 20578304, .w 19 16, .w 19 917504, .w 19 983040,
    .w 19 1048576, .w 19 1114112, .w 19 1179648, .a 19 1245184 268435456, .a 19 1310720 268435456,
    .a 19 1376256 268435456, .a 19 22413312 268435456, .a 19 22478848 268435456, .w 20 8, .w 20 12, .a 20 32 4,
    .a 65 5767168 268435456, .a 65 15335424 268435456, .a 65 15400960 268435456, .a 65 22347776 268435456, .p .free,
    .p .edges, .p .inbox, .p .chn, .p .seqs, .p .wd, .p .media, .p .mcache, .p .pa, .p .jq, .p .jact, .p .jobNo,
    .p .cmds, .p .cqs, .p .ctrls, .p .nss, .p .zones, .p .bands, .p .vol, .p .dur, .p .points, .p .mops, .p .opid,
    .p .journal, .p .jseq, .p .amps, .p .blks, .p .fops, .p .fwait, .p .errlog, .p .pkt, .p .hbm, .p .poison,
    .p .lost, .p .kvLog, .p .stripes] L₀ = true) :
    Out L₀ s₀ (State.wordActs s a w now) := by
  unfold State.wordActs
  repeat'
    first
      | with_reducible assumption | with_reducible apply State.gateActs_out | with_reducible apply Out.when
      | with_reducible apply Out.put | with_reducible apply Out.puts_nil | with_reducible apply Out.puts_cons
      | with_reducible apply Out.putB | with_reducible apply State.commit_out
      | with_reducible apply State.unitDone_out | exact Key.hasA rfl | exact Key.hasW | exact Out.sub hL rfl
      | intro _ | with_reducible apply Out.ite | split | dsimp only [id_eq]
      | (rename_i e; with_reducible refine Out.of_eq e ?_)

theorem State.seqBoundary_out {s : State} (a : Nat) (h₀ : Out L₀ s₀ s)
    (hL : Key.sub [.w 13 8, .w 13 1572864, .w 13 2359296] L₀ = true) :
    Out L₀ s₀ (State.seqBoundary s a) := by
  unfold State.seqBoundary
  repeat'
    first
      | with_reducible assumption | with_reducible apply Out.puts_nil | with_reducible apply Out.puts_cons
      | with_reducible apply Out.put | exact Key.hasA rfl | exact Key.hasW | exact Out.sub hL rfl | intro _
      | with_reducible apply Out.ite | split | dsimp only [id_eq]
      | (rename_i e; with_reducible refine Out.of_eq e ?_)

theorem State.jobAborted_out {s : State} (a : Nat) (h₀ : Out L₀ s₀ s)
    (hL : Key.sub [.w 2 20, .w 2 24, .a 2 32 4, .w 2 5439488, .w 2 5505024, .w 6 8, .w 6 12, .w 7 12, .w 7 24, .w 7 28, .w 7 17956864,
    .w 9 8, .w 10 20, .w 10 24, .a 11 32 4, .a 11 48 4, .a 65 22347776 268435456, .p .free, .p .edges, .p .inbox,
    .p .seqs, .p .mcache, .p .jq, .p .jact, .p .jobNo, .p .cmds, .p .cqs, .p .nss, .p .bands, .p .vol, .p .points,
    .p .errlog, .p .pkt, .p .hbm, .p .poison, .p .lost, .p .kvLog, .p .stripes] L₀ = true) :
    Out L₀ s₀ (State.jobAborted s a) := by
  unfold State.jobAborted
  repeat'
    first
      | with_reducible assumption | with_reducible apply State.endJob_out | with_reducible apply State.setSeqr_out
      | exact Key.hasA rfl | exact Key.hasW | exact Out.sub hL rfl | intro _ | with_reducible apply Out.ite | split
      | dsimp only [id_eq] | (rename_i e; with_reducible refine Out.of_eq e ?_)

theorem State.afterWord_out {s : State} (a : Nat) (now : BarkerNow) (h₀ : Out L₀ s₀ s)
    (hL : Key.sub unitDoneOut L₀ = true) :
    Out L₀ s₀ (State.afterWord s a now) := by
  unfold State.afterWord
  repeat'
    first
      | with_reducible assumption | with_reducible apply State.seqBoundary_out | with_reducible apply Out.when
      | with_reducible apply State.endWrite_out | with_reducible apply State.unitDone_out
      | with_reducible apply State.jobAborted_out | exact Key.hasA rfl | exact Key.hasW | exact Out.sub hL rfl
      | intro _ | with_reducible apply Out.ite | split | dsimp only [id_eq]
      | (rename_i e; with_reducible refine Out.of_eq e ?_)

theorem State.seqGo_out {s : State} (a : Nat) (pc : Nat) (h₀ : Out L₀ s₀ s)
    (hL : Key.sub [.w 13 8] L₀ = true) :
    Out L₀ s₀ (State.seqGo s a pc) := by
  unfold State.seqGo
  repeat'
    first
      | with_reducible assumption | with_reducible apply Out.put | exact Key.hasA rfl | exact Key.hasW
      | exact Out.sub hL rfl | intro _ | with_reducible apply Out.ite | split | dsimp only [id_eq]
      | (rename_i e; with_reducible refine Out.of_eq e ?_)

theorem State.missed_out {s : State} (a : Nat) (cause : Nat) (next : Nat) (h₀ : Out L₀ s₀ s)
    (hL : Key.sub endWriteOut L₀ = true) :
    Out L₀ s₀ (State.missed s a cause next) := by
  unfold State.missed
  repeat'
    first
      | with_reducible assumption | with_reducible apply State.endWrite_out | with_reducible apply State.seqGo_out
      | exact Key.hasA rfl | exact Key.hasW | exact Out.sub hL rfl | intro _ | with_reducible apply Out.ite | split
      | dsimp only [id_eq] | (rename_i e; with_reducible refine Out.of_eq e ?_)

/-- What `State.barker` may change. -/
def barkerOut : List Key :=
  [.w 2 8, .w 2 20, .w 2 24, .a 2 32 4, .w 2 5439488, .w 2 5505024, .w 6 8, .w 6 12,
    .w 7 12, .w 7 24, .w 7 28, .w 7 17956864, .w 9 8, .w 10 20, .w 10 24, .w 11 8, .w 11 12, .a 11 32 4, .a 11 48 4,
    .w 11 76, .w 11 84, .w 12 8, .w 13 8, .w 13 12, .w 13 20, .w 13 24, .w 13 28, .w 13 68, .w 13 72, .w 13 76,
    .w 13 1572864, .w 13 1638400, .w 13 1966080, .w 13 2031616, .w 13 2097152, .w 13 2162688, .w 13 2359296,
    .w 13 2424832, .w 13 6029312, .w 13 20250624, .w 13 20381696, .w 13 20447232, .w 13 22544384, .w 13 22609920,
    .w 14 8, .w 14 12, .w 14 20, .w 14 24, .w 14 84, .w 14 3211264, .w 14 3342336, .w 14 3407872, .w 14 3473408,
    .w 14 3538944, .w 14 3604480, .w 14 3670016, .w 14 3735552, .w 14 4194304, .w 14 4259840, .w 14 4325376,
    .w 14 21233664, .w 14 21692416, .w 14 22282240, .w 18 8, .w 18 12, .w 18 72, .w 18 720896, .w 18 786432,
    .w 18 20054016, .w 18 20578304, .w 19 16, .w 19 917504, .w 19 983040, .w 19 1048576, .w 19 1114112,
    .w 19 1179648, .a 19 1245184 268435456, .a 19 1310720 268435456, .a 19 1376256 268435456,
    .a 19 22413312 268435456, .a 19 22478848 268435456, .w 20 8, .w 20 12, .a 20 32 4, .a 64 2293760 268435456,
    .a 65 5767168 268435456, .a 65 15335424 268435456, .a 65 15400960 268435456, .a 65 22347776 268435456, .p .free,
    .p .edges, .p .inbox, .p .chn, .p .seqs, .p .bstore, .p .wd, .p .media, .p .mcache, .p .pa, .p .jq, .p .jact,
    .p .jobNo, .p .cmds, .p .cqs, .p .ctrls, .p .nss, .p .zones, .p .bands, .p .vol, .p .dur, .p .points, .p .mops,
    .p .opid, .p .journal, .p .jseq, .p .amps, .p .blks, .p .fops, .p .fwait, .p .errlog, .p .pkt, .p .hbm,
    .p .poison, .p .lost, .p .kvLog, .p .stripes]

theorem State.barker_out {s : State} (a : Nat) (opc : Nat) (f : BarkerWord) (now : BarkerNow) (op : BarkerWord → State → State) (h₀ : Out L₀ s₀ s) (hF_op : ∀ x0 u, Out L₀ s₀ u → Out L₀ s₀ (op x0 u))
    (hL : Key.sub barkerOut L₀ = true) :
    Out L₀ s₀ (State.barker s a opc f now op) := by
  unfold State.barker
  repeat'
    first
      | with_reducible assumption | with_reducible apply State.upset_out | with_reducible apply State.seqMchk_out
      | with_reducible apply State.setSeqr_out | with_reducible apply State.afterWord_out
      | with_reducible apply State.missed_out | with_reducible apply State.seqMiss_out
      | with_reducible apply State.wordActs_out | with_reducible apply hF_op | exact Key.hasA rfl | exact Key.hasW
      | exact Out.sub hL rfl | intro _ | with_reducible apply Out.ite | split | dsimp only [id_eq]
      | (rename_i e; with_reducible refine Out.of_eq e ?_)

theorem barkerNop_out (a : Act) (f : BarkerWord) (now : BarkerNow) {s : State} (h₀ : Out L₀ s₀ s)
    (hL : Key.sub barkerOut L₀ = true) :
    Out L₀ s₀ (barkerNop a f now s) := by
  unfold barkerNop
  repeat'
    first
      | with_reducible assumption | with_reducible apply State.barker_out | with_reducible apply State.seqGo_out
      | exact Key.hasA rfl | exact Key.hasW | exact Out.sub hL rfl | intro _ | with_reducible apply Out.ite | split
      | dsimp only [id_eq] | (rename_i e; with_reducible refine Out.of_eq e ?_)

theorem barkerJmp_out (a : Act) (f : BarkerWord) (now : BarkerNow) {s : State} (h₀ : Out L₀ s₀ s)
    (hL : Key.sub barkerOut L₀ = true) :
    Out L₀ s₀ (barkerJmp a f now s) := by
  unfold barkerJmp
  repeat'
    first
      | with_reducible assumption | with_reducible apply State.barker_out | with_reducible apply State.seqGo_out
      | exact Key.hasA rfl | exact Key.hasW | exact Out.sub hL rfl | intro _ | with_reducible apply Out.ite | split
      | dsimp only [id_eq] | (rename_i e; with_reducible refine Out.of_eq e ?_)

/-- What `barkerBr` may change. -/
def barkerBrOut : List Key :=
  [.w 2 8, .w 2 20, .w 2 24, .a 2 32 4, .w 2 5439488, .w 2 5505024, .w 6 8, .w 6 12,
    .w 7 12, .w 7 24, .w 7 28, .w 7 17956864, .w 9 8, .w 10 20, .w 10 24, .w 11 8, .w 11 12, .a 11 32 4, .a 11 48 4,
    .w 11 76, .w 11 84, .w 12 8, .w 13 8, .w 13 12, .w 13 20, .w 13 24, .w 13 28, .w 13 68, .w 13 72, .w 13 76,
    .w 13 1572864, .w 13 1638400, .w 13 1966080, .w 13 2031616, .w 13 2097152, .w 13 2162688, .w 13 2359296,
    .w 13 2424832, .w 13 2490368, .w 13 2555904, .w 13 2621440, .w 13 2686976, .w 13 6029312, .w 13 20250624,
    .w 13 20381696, .w 13 20447232, .w 13 22544384, .w 13 22609920, .w 14 8, .w 14 12, .w 14 20, .w 14 24, .w 14 84,
    .w 14 3211264, .w 14 3342336, .w 14 3407872, .w 14 3473408, .w 14 3538944, .w 14 3604480, .w 14 3670016,
    .w 14 3735552, .w 14 4194304, .w 14 4259840, .w 14 4325376, .w 14 20512768, .w 14 21233664, .w 14 21692416,
    .w 14 22282240, .w 18 8, .w 18 12, .w 18 72, .w 18 720896, .w 18 786432, .w 18 20054016, .w 18 20578304,
    .w 19 16, .w 19 917504, .w 19 983040, .w 19 1048576, .w 19 1114112, .w 19 1179648, .a 19 1245184 268435456,
    .a 19 1310720 268435456, .a 19 1376256 268435456, .a 19 22413312 268435456, .a 19 22478848 268435456, .w 20 8,
    .w 20 12, .a 20 32 4, .a 64 2293760 268435456, .a 65 5767168 268435456, .a 65 15335424 268435456,
    .a 65 15400960 268435456, .a 65 22347776 268435456, .p .free, .p .edges, .p .inbox, .p .chn, .p .seqs,
    .p .bstore, .p .wd, .p .media, .p .mcache, .p .pa, .p .jq, .p .jact, .p .jobNo, .p .cmds, .p .cqs, .p .ctrls,
    .p .nss, .p .zones, .p .bands, .p .vol, .p .dur, .p .points, .p .mops, .p .opid, .p .journal, .p .jseq,
    .p .amps, .p .blks, .p .fops, .p .fwait, .p .errlog, .p .pkt, .p .hbm, .p .poison, .p .lost, .p .kvLog,
    .p .stripes]

theorem barkerBr_out (a : Act) (f : BarkerWord) (now : BarkerNow) {s : State} (h₀ : Out L₀ s₀ s)
    (hL : Key.sub barkerBrOut L₀ = true) :
    Out L₀ s₀ (barkerBr a f now s) := by
  unfold barkerBr
  repeat'
    first
      | with_reducible assumption | with_reducible apply State.barker_out | with_reducible apply State.seqGo_out
      | with_reducible apply State.condTaken_out | exact Key.hasA rfl | exact Key.hasW | exact Out.sub hL rfl
      | intro _ | with_reducible apply Out.ite | split | dsimp only [id_eq]
      | (rename_i e; with_reducible refine Out.of_eq e ?_)

theorem barkerCall_out (a : Act) (f : BarkerWord) (now : BarkerNow) {s : State} (h₀ : Out L₀ s₀ s)
    (hL : Key.sub barkerOut L₀ = true) :
    Out L₀ s₀ (barkerCall a f now s) := by
  unfold barkerCall
  repeat'
    first
      | with_reducible assumption | with_reducible apply State.barker_out | with_reducible apply State.seqMchk_out
      | with_reducible apply State.seqGo_out | with_reducible apply State.setSeqr_out | exact Key.hasA rfl
      | exact Key.hasW | exact Out.sub hL rfl | intro _ | with_reducible apply Out.ite | split | dsimp only [id_eq]
      | (rename_i e; with_reducible refine Out.of_eq e ?_)

theorem barkerRet_out (a : Act) (f : BarkerWord) (now : BarkerNow) {s : State} (h₀ : Out L₀ s₀ s)
    (hL : Key.sub barkerOut L₀ = true) :
    Out L₀ s₀ (barkerRet a f now s) := by
  unfold barkerRet
  repeat'
    first
      | with_reducible assumption | with_reducible apply State.barker_out | with_reducible apply State.seqMchk_out
      | with_reducible apply State.seqGo_out | with_reducible apply State.setSeqr_out | exact Key.hasA rfl
      | exact Key.hasW | exact Out.sub hL rfl | intro _ | with_reducible apply Out.ite | split | dsimp only [id_eq]
      | (rename_i e; with_reducible refine Out.of_eq e ?_)

/-- What `barkerWait` may change. -/
def barkerWaitOut : List Key :=
  [.w 2 8, .w 2 20, .w 2 24, .a 2 32 4, .w 2 5439488, .w 2 5505024, .w 6 8, .w 6 12,
    .w 7 12, .w 7 24, .w 7 28, .w 7 17956864, .w 9 8, .w 10 20, .w 10 24, .w 11 8, .w 11 12, .a 11 32 4, .a 11 48 4,
    .w 11 76, .w 11 84, .w 12 8, .w 13 8, .w 13 12, .w 13 20, .w 13 24, .w 13 28, .w 13 68, .w 13 72, .w 13 76,
    .w 13 1572864, .w 13 1638400, .w 13 1703936, .w 13 1769472, .w 13 1835008, .w 13 1900544, .w 13 1966080,
    .w 13 2031616, .w 13 2097152, .w 13 2162688, .w 13 2359296, .w 13 2424832, .w 13 2490368, .w 13 2555904,
    .w 13 2621440, .w 13 2686976, .w 13 6029312, .w 13 20250624, .w 13 20316160, .w 13 20381696, .w 13 20447232,
    .w 13 22544384, .w 13 22609920, .w 14 8, .w 14 12, .w 14 20, .w 14 24, .w 14 84, .w 14 3211264, .w 14 3342336,
    .w 14 3407872, .w 14 3473408, .w 14 3538944, .w 14 3604480, .w 14 3670016, .w 14 3735552, .w 14 4194304,
    .w 14 4259840, .w 14 4325376, .w 14 20512768, .w 14 21233664, .w 14 21692416, .w 14 22282240, .w 18 8, .w 18 12,
    .w 18 72, .w 18 720896, .w 18 786432, .w 18 20054016, .w 18 20578304, .w 19 16, .w 19 917504, .w 19 983040,
    .w 19 1048576, .w 19 1114112, .w 19 1179648, .a 19 1245184 268435456, .a 19 1310720 268435456,
    .a 19 1376256 268435456, .a 19 22413312 268435456, .a 19 22478848 268435456, .w 20 8, .w 20 12, .a 20 32 4,
    .a 64 2293760 268435456, .a 65 5767168 268435456, .a 65 15335424 268435456, .a 65 15400960 268435456,
    .a 65 22347776 268435456, .p .free, .p .edges, .p .inbox, .p .chn, .p .seqs, .p .bstore, .p .wd, .p .media,
    .p .mcache, .p .pa, .p .jq, .p .jact, .p .jobNo, .p .cmds, .p .cqs, .p .ctrls, .p .nss, .p .zones, .p .bands,
    .p .vol, .p .dur, .p .points, .p .mops, .p .opid, .p .journal, .p .jseq, .p .amps, .p .blks, .p .fops,
    .p .fwait, .p .errlog, .p .pkt, .p .hbm, .p .poison, .p .lost, .p .kvLog, .p .stripes]

theorem barkerWait_out (a : Act) (f : BarkerWord) (now : BarkerNow) {s : State} (h₀ : Out L₀ s₀ s)
    (hL : Key.sub barkerWaitOut L₀ = true) :
    Out L₀ s₀ (barkerWait a f now s) := by
  unfold barkerWait
  repeat'
    first
      | with_reducible assumption | with_reducible apply State.barker_out | with_reducible apply State.seqMiss_out
      | with_reducible apply State.missed_out | with_reducible apply State.seqGo_out
      | with_reducible apply State.condTaken_out | with_reducible apply Out.when | with_reducible apply Out.puts_nil
      | with_reducible apply Out.puts_cons | with_reducible apply Out.put | exact Key.hasA rfl | exact Key.hasW
      | exact Out.sub hL rfl | intro _ | with_reducible apply Out.ite | split | dsimp only [id_eq]
      | (rename_i e; with_reducible refine Out.of_eq e ?_)

theorem State.setAcc_out {s : State} (a : Nat) (d : Nat) (v : Nat) (h₀ : Out L₀ s₀ s)
    (hL : Key.sub [.p .seqs] L₀ = true) :
    Out L₀ s₀ (State.setAcc s a d v) := by
  unfold State.setAcc
  repeat'
    first
      | with_reducible assumption | with_reducible apply State.setSeqr_out | exact Key.hasA rfl | exact Key.hasW
      | exact Out.sub hL rfl | intro _ | with_reducible apply Out.ite | split | dsimp only [id_eq]
      | (rename_i e; with_reducible refine Out.of_eq e ?_)

theorem barkerLoad_out (a : Act) (f : BarkerWord) (now : BarkerNow) {s : State} (h₀ : Out L₀ s₀ s)
    (hL : Key.sub barkerOut L₀ = true) :
    Out L₀ s₀ (barkerLoad a f now s) := by
  unfold barkerLoad
  repeat'
    first
      | with_reducible assumption | with_reducible apply State.barker_out | with_reducible apply State.seqGo_out
      | with_reducible apply State.setAcc_out | exact Key.hasA rfl | exact Key.hasW | exact Out.sub hL rfl | intro _
      | with_reducible apply Out.ite | split | dsimp only [id_eq]
      | (rename_i e; with_reducible refine Out.of_eq e ?_)

theorem barkerAdd_out (a : Act) (f : BarkerWord) (now : BarkerNow) {s : State} (h₀ : Out L₀ s₀ s)
    (hL : Key.sub barkerOut L₀ = true) :
    Out L₀ s₀ (barkerAdd a f now s) := by
  unfold barkerAdd
  repeat'
    first
      | with_reducible assumption | with_reducible apply State.barker_out | with_reducible apply State.seqGo_out
      | with_reducible apply State.setAcc_out | exact Key.hasA rfl | exact Key.hasW | exact Out.sub hL rfl | intro _
      | with_reducible apply Out.ite | split | dsimp only [id_eq]
      | (rename_i e; with_reducible refine Out.of_eq e ?_)

theorem State.routineEnds_out {s : State} (a : Nat) (h₀ : Out L₀ s₀ s)
    (hL : Key.sub unitDoneOut L₀ = true) :
    Out L₀ s₀ (State.routineEnds s a) := by
  unfold State.routineEnds
  repeat'
    first
      | with_reducible assumption | with_reducible apply State.unitDone_out | with_reducible apply State.setSeqr_out
      | with_reducible apply State.endJob_out | exact Key.hasA rfl | exact Key.hasW | exact Out.sub hL rfl | intro _
      | with_reducible apply Out.ite | split | dsimp only [id_eq]
      | (rename_i e; with_reducible refine Out.of_eq e ?_)

theorem barkerEnd_out (a : Act) (f : BarkerWord) (now : BarkerNow) {s : State} (h₀ : Out L₀ s₀ s)
    (hL : Key.sub barkerOut L₀ = true) :
    Out L₀ s₀ (barkerEnd a f now s) := by
  unfold barkerEnd
  repeat'
    first
      | with_reducible assumption | with_reducible apply State.barker_out | with_reducible apply Out.puts_nil
      | with_reducible apply Out.puts_cons | with_reducible apply Out.put | with_reducible apply State.toIdle_out
      | with_reducible apply Out.when | with_reducible apply Out.evt | with_reducible apply State.setSeqr_out
      | with_reducible apply State.jobAborted_out | with_reducible apply State.routineEnds_out | exact Key.hasA rfl
      | exact Key.hasW | exact Out.sub hL rfl | intro _ | with_reducible apply Out.ite | split | dsimp only [id_eq]
      | (rename_i e; with_reducible refine Out.of_eq e ?_)

theorem State.waitEnds_out {s : State} (a : Nat) (pc : Nat) (h₀ : Out L₀ s₀ s)
    (hL : Key.sub [.w 13 8, .w 13 20250624] L₀ = true) :
    Out L₀ s₀ (State.waitEnds s a pc) := by
  unfold State.waitEnds
  repeat'
    first
      | with_reducible assumption | with_reducible apply State.seqGo_out | with_reducible apply Out.when
      | with_reducible apply Out.put | exact Key.hasA rfl | exact Key.hasW | exact Out.sub hL rfl | intro _
      | with_reducible apply Out.ite | split | dsimp only [id_eq]
      | (rename_i e; with_reducible refine Out.of_eq e ?_)

/-- What `barkerWaitMet` may change. -/
def barkerWaitMetOut : List Key :=
  [.w 2 20, .w 2 24, .a 2 32 4, .w 2 5439488, .w 2 5505024, .w 6 8, .w 6 12,
    .w 7 12, .w 7 24, .w 7 28, .w 7 17956864, .w 9 8, .w 10 20, .w 10 24, .a 11 32 4, .a 11 48 4, .w 12 8, .w 13 8,
    .w 13 12, .w 13 76, .w 13 1572864, .w 13 2359296, .w 13 2424832, .w 13 2490368, .w 13 2555904, .w 13 2621440,
    .w 13 2686976, .w 13 20250624, .w 13 20381696, .w 14 8, .w 14 12, .w 14 20, .w 14 24, .w 14 84, .w 14 3211264,
    .w 14 3342336, .w 14 3407872, .w 14 3473408, .w 14 3538944, .w 14 3604480, .w 14 3670016, .w 14 3735552,
    .w 14 4194304, .w 14 4259840, .w 14 4325376, .w 14 20512768, .w 14 21233664, .w 14 21692416, .w 14 22282240,
    .w 18 8, .w 18 12, .w 18 72, .w 18 720896, .w 18 786432, .w 18 20054016, .w 18 20578304, .w 19 16, .w 19 917504,
    .w 19 983040, .w 19 1048576, .w 19 1114112, .w 19 1179648, .a 19 1310720 268435456, .a 19 1376256 268435456,
    .a 19 22413312 268435456, .a 19 22478848 268435456, .a 65 22347776 268435456, .p .free, .p .edges, .p .inbox,
    .p .chn, .p .seqs, .p .mcache, .p .pa, .p .jq, .p .jact, .p .jobNo, .p .cmds, .p .cqs, .p .nss, .p .bands,
    .p .vol, .p .points, .p .amps, .p .errlog, .p .pkt, .p .hbm, .p .poison, .p .lost, .p .kvLog, .p .stripes]

theorem barkerWaitMet_out (a : Act) (now : BarkerNow) {s : State} (h₀ : Out L₀ s₀ s)
    (hL : Key.sub barkerWaitMetOut L₀ = true) :
    Out L₀ s₀ (barkerWaitMet a now s) := by
  unfold barkerWaitMet
  repeat'
    first
      | with_reducible assumption | with_reducible apply State.afterWord_out
      | with_reducible apply State.waitEnds_out | with_reducible apply State.condTaken_out | exact Key.hasA rfl
      | exact Key.hasW | exact Out.sub hL rfl | intro _ | with_reducible apply Out.ite | split | dsimp only [id_eq]
      | (rename_i e; with_reducible refine Out.of_eq e ?_)

/-- What `barkerWaitTimeout` may change. -/
def barkerWaitTimeoutOut : List Key :=
  [.w 2 20, .w 2 24, .a 2 32 4, .w 2 5439488, .w 2 5505024, .w 6 8, .w 6 12,
    .w 7 12, .w 7 24, .w 7 28, .w 7 17956864, .w 9 8, .w 10 20, .w 10 24, .a 11 32 4, .a 11 48 4, .w 12 8, .w 13 8,
    .w 13 12, .w 13 68, .w 13 76, .w 13 1572864, .w 13 2359296, .w 13 2424832, .w 13 2490368, .w 13 2555904,
    .w 13 2621440, .w 13 2686976, .w 13 20250624, .w 13 20381696, .w 14 8, .w 14 12, .w 14 20, .w 14 24, .w 14 84,
    .w 14 3211264, .w 14 3342336, .w 14 3407872, .w 14 3473408, .w 14 3538944, .w 14 3604480, .w 14 3670016,
    .w 14 3735552, .w 14 4194304, .w 14 4259840, .w 14 4325376, .w 14 20512768, .w 14 21233664, .w 14 21692416,
    .w 14 22282240, .w 18 8, .w 18 12, .w 18 72, .w 18 720896, .w 18 786432, .w 18 20054016, .w 18 20578304,
    .w 19 16, .w 19 917504, .w 19 983040, .w 19 1048576, .w 19 1114112, .w 19 1179648, .a 19 1310720 268435456,
    .a 19 1376256 268435456, .a 19 22413312 268435456, .a 19 22478848 268435456, .a 65 22347776 268435456, .p .free,
    .p .edges, .p .inbox, .p .chn, .p .seqs, .p .mcache, .p .pa, .p .jq, .p .jact, .p .jobNo, .p .cmds, .p .cqs,
    .p .nss, .p .bands, .p .vol, .p .points, .p .amps, .p .errlog, .p .pkt, .p .hbm, .p .poison, .p .lost,
    .p .kvLog, .p .stripes]

theorem barkerWaitTimeout_out (a : Act) (now : BarkerNow) {s : State} (h₀ : Out L₀ s₀ s)
    (hL : Key.sub barkerWaitTimeoutOut L₀ = true) :
    Out L₀ s₀ (barkerWaitTimeout a now s) := by
  unfold barkerWaitTimeout
  repeat'
    first
      | with_reducible assumption | with_reducible apply barkerWaitMet_out | with_reducible apply State.seqMiss_out
      | with_reducible apply State.afterWord_out | with_reducible apply State.waitEnds_out
      | with_reducible apply State.missed_out | exact Key.hasA rfl | exact Key.hasW | exact Out.sub hL rfl | intro _
      | with_reducible apply Out.ite | split | dsimp only [id_eq]
      | (rename_i e; with_reducible refine Out.of_eq e ?_)

theorem State.trackStart_out {s : State} (a : Nat) (j : Job) (kind : RoutineKind) (h₀ : Out L₀ s₀ s)
    (hL : Key.sub loadWriteValuesOut L₀ = true) :
    Out L₀ s₀ (State.trackStart s a j kind) := by
  unfold State.trackStart
  repeat'
    first
      | with_reducible assumption | with_reducible apply State.loadWriteValues_out | with_reducible apply Out.when
      | exact Key.hasA rfl | exact Key.hasW | exact Out.sub hL rfl | intro _ | with_reducible apply Out.ite | split
      | dsimp only [id_eq] | (rename_i e; with_reducible refine Out.of_eq e ?_)

theorem State.enterRoutine_out {s : State} (a : Nat) (id : Nat) (j : Option Job) (kind : RoutineKind) (h₀ : Out L₀ s₀ s)
    (hL : Key.sub [.w 2 8, .w 2 20, .w 2 24, .a 2 32 4, .w 2 5439488, .w 2 5505024, .w 6 8, .w 6 12, .w 7 12, .w 7 24, .w 7 28,
    .w 7 17956864, .w 9 8, .w 10 20, .w 10 24, .w 11 8, .w 11 12, .a 11 32 4, .a 11 48 4, .w 11 84, .w 12 8,
    .w 12 21102592, .w 13 8, .w 13 12, .w 13 20, .w 13 24, .w 13 72, .w 13 1507328, .w 13 1572864, .w 13 1638400,
    .w 13 2359296, .w 13 2424832, .w 13 6029312, .w 13 20250624, .w 14 8, .w 14 24, .w 14 4259840, .w 14 4325376,
    .w 18 8, .w 18 12, .w 18 48, .w 18 72, .w 18 76, .w 18 786432, .w 18 20578304, .w 18 20774912, .w 18 20840448,
    .w 18 20905984, .w 19 16, .a 19 1310720 268435456, .a 19 1376256 268435456, .a 19 22413312 268435456,
    .a 19 22478848 268435456, .w 20 8, .w 20 12, .a 20 32 4, .a 64 2293760 268435456, .a 65 15335424 268435456,
    .a 65 15400960 268435456, .a 65 22347776 268435456, .p .free, .p .edges, .p .inbox, .p .chn, .p .seqs,
    .p .mcache, .p .pa, .p .jq, .p .jobNo, .p .cmds, .p .cqs, .p .ctrls, .p .nss, .p .zones, .p .bands, .p .vol,
    .p .points, .p .mops, .p .opid, .p .journal, .p .jseq, .p .blks, .p .fops, .p .fwait, .p .errlog, .p .pkt,
    .p .hbm, .p .poison, .p .lost, .p .kvLog, .p .stripes] L₀ = true) :
    Out L₀ s₀ (State.enterRoutine s a id j kind) := by
  unfold State.enterRoutine
  repeat'
    first
      | with_reducible assumption | with_reducible apply Out.puts_nil | with_reducible apply Out.puts_cons
      | with_reducible apply Out.put | with_reducible apply State.setSeqr_out
      | with_reducible apply State.seqMchk_out | with_reducible apply Out.forAll
      | with_reducible apply State.trackStart_out | exact Key.hasA rfl | exact Key.hasW | exact Out.sub hL rfl
      | intro _ | with_reducible apply Out.ite | split | dsimp only [id_eq]
      | (rename_i e; with_reducible refine Out.of_eq e ?_)

/-- What `routineStart` may change. -/
def routineStartOut : List Key :=
  [.w 2 8, .w 2 20, .w 2 24, .a 2 32 4, .w 2 5439488, .w 2 5505024, .w 6 8,
    .w 6 12, .w 7 12, .w 7 24, .w 7 28, .w 7 17956864, .w 9 8, .w 10 20, .w 10 24, .w 11 8, .w 11 12, .a 11 32 4,
    .a 11 48 4, .w 11 84, .w 12 8, .w 12 21102592, .w 13 8, .w 13 12, .w 13 20, .w 13 24, .w 13 72, .w 13 1507328,
    .w 13 1572864, .w 13 1638400, .w 13 2359296, .w 13 2424832, .w 13 6029312, .w 13 20250624, .w 14 8, .w 14 24,
    .w 14 4259840, .w 14 4325376, .w 14 21168128, .w 18 8, .w 18 12, .w 18 48, .w 18 72, .w 18 76, .w 18 786432,
    .w 18 20578304, .w 18 20774912, .w 18 20840448, .w 18 20905984, .w 19 16, .a 19 1310720 268435456,
    .a 19 1376256 268435456, .a 19 22413312 268435456, .a 19 22478848 268435456, .w 20 8, .w 20 12, .a 20 32 4,
    .a 64 2293760 268435456, .a 65 15335424 268435456, .a 65 15400960 268435456, .a 65 22347776 268435456, .p .free,
    .p .edges, .p .inbox, .p .chn, .p .seqs, .p .bstore, .p .mcache, .p .pa, .p .jq, .p .jobNo, .p .cmds, .p .cqs,
    .p .ctrls, .p .nss, .p .zones, .p .bands, .p .vol, .p .points, .p .mops, .p .opid, .p .journal, .p .jseq,
    .p .blks, .p .fops, .p .fwait, .p .errlog, .p .pkt, .p .hbm, .p .poison, .p .lost, .p .kvLog, .p .stripes]

theorem routineStart_out (a : Act) (id : Fin 64) (flip : BarkerWord) (kind : RoutineKind) {s : State} (h₀ : Out L₀ s₀ s)
    (hL : Key.sub routineStartOut L₀ = true) :
    Out L₀ s₀ (routineStart a id flip kind s) := by
  unfold routineStart
  repeat'
    first
      | with_reducible assumption | with_reducible apply State.upset_out
      | with_reducible apply State.enterRoutine_out | with_reducible apply State.setSeqr_out
      | with_reducible apply Out.put | exact Key.hasA rfl | exact Key.hasW | exact Out.sub hL rfl | intro _
      | with_reducible apply Out.ite | split | dsimp only [id_eq]
      | (rename_i e; with_reducible refine Out.of_eq e ?_)

/-- What `jobRestart` may change. -/
def jobRestartOut : List Key :=
  [.w 2 8, .w 2 20, .w 2 24, .a 2 32 4, .w 2 5439488, .w 2 5505024, .w 6 8, .w 6 12,
    .w 7 12, .w 7 24, .w 7 28, .w 7 17956864, .w 9 8, .w 10 20, .w 10 24, .w 11 8, .w 11 12, .a 11 32 4, .a 11 48 4,
    .w 11 76, .w 11 84, .w 12 8, .w 12 21102592, .w 13 8, .w 13 12, .w 13 20, .w 13 24, .w 13 64, .w 13 72,
    .w 13 76, .w 13 1507328, .w 13 1572864, .w 13 1638400, .w 13 2359296, .w 13 2424832, .w 13 6029312,
    .w 13 20250624, .w 13 20381696, .w 14 8, .w 14 12, .w 14 20, .w 14 24, .w 14 84, .w 14 3211264, .w 14 3342336,
    .w 14 3407872, .w 14 3473408, .w 14 3538944, .w 14 3604480, .w 14 3670016, .w 14 3735552, .w 14 4194304,
    .w 14 4259840, .w 14 4325376, .w 14 21233664, .w 14 21692416, .w 14 22282240, .w 18 8, .w 18 12, .w 18 48,
    .w 18 72, .w 18 76, .w 18 720896, .w 18 786432, .w 18 20054016, .w 18 20578304, .w 18 20774912, .w 18 20840448,
    .w 18 20905984, .w 19 16, .w 19 917504, .w 19 983040, .w 19 1048576, .w 19 1114112, .w 19 1179648,
    .a 19 1310720 268435456, .a 19 1376256 268435456, .a 19 22413312 268435456, .a 19 22478848 268435456, .w 20 8,
    .w 20 12, .a 20 32 4, .a 64 2293760 268435456, .a 65 5767168 268435456, .a 65 15335424 268435456,
    .a 65 15400960 268435456, .a 65 22347776 268435456, .p .free, .p .edges, .p .inbox, .p .chn, .p .seqs,
    .p .mcache, .p .pa, .p .jq, .p .jact, .p .jobNo, .p .cmds, .p .cqs, .p .ctrls, .p .nss, .p .zones, .p .bands,
    .p .vol, .p .dur, .p .points, .p .mops, .p .opid, .p .journal, .p .jseq, .p .amps, .p .blks, .p .fops,
    .p .fwait, .p .errlog, .p .pkt, .p .hbm, .p .poison, .p .lost, .p .kvLog, .p .stripes]

theorem jobRestart_out (a : Act) {s : State} (h₀ : Out L₀ s₀ s)
    (hL : Key.sub jobRestartOut L₀ = true) :
    Out L₀ s₀ (jobRestart a s) := by
  unfold jobRestart
  repeat'
    first
      | with_reducible assumption | with_reducible apply State.unitDone_out | with_reducible apply State.setSeqr_out
      | with_reducible apply Out.seqPost | with_reducible apply Out.evt | with_reducible apply State.writeFailed_out
      | with_reducible apply State.setJob_out | with_reducible apply State.endJob_out | with_reducible apply Out.when
      | with_reducible apply Out.seqCount | with_reducible apply State.enterRoutine_out | exact Key.hasA rfl
      | exact Key.hasW | exact Out.sub hL rfl | intro _ | with_reducible apply Out.ite | split | dsimp only [id_eq]
      | (rename_i e; with_reducible refine Out.of_eq e ?_)

/-- What `State.seqEnable` may change. -/
def seqEnableOut : List Key :=
  [.w 9 8, .w 10 20, .w 10 24, .w 13 0, .w 13 4, .w 13 8, .w 13 2228224,
    .w 13 20250624, .p .bstore, .p .pkt, .p .hbm, .p .poison]

theorem State.seqEnable_out {s : State} (a : Nat) (crcPass : Bool) (h₀ : Out L₀ s₀ s)
    (hL : Key.sub seqEnableOut L₀ = true) :
    Out L₀ s₀ (State.seqEnable s a crcPass).1 := by
  unfold State.seqEnable
  repeat'
    first
      | with_reducible assumption | with_reducible apply State.enable_out | with_reducible apply State.imageRead_out
      | with_reducible apply State.setBstore_out | with_reducible apply Out.puts_nil
      | with_reducible apply Out.puts_cons | with_reducible apply Out.put | with_reducible apply State.toIdle_out
      | exact Key.hasA rfl | exact Key.hasW | exact Out.sub hL rfl | intro _ | with_reducible apply Out.ite | split
      | dsimp only [id_eq] | (rename_i e; with_reducible refine Out.of_eq e ?_)

theorem seqEnableCmd_out (a : Act) (crcPass : Bool) {s : State} (h₀ : Out L₀ s₀ s)
    (hL : Key.sub seqEnableOut L₀ = true) :
    Out L₀ s₀ (seqEnableCmd a crcPass s) := by
  unfold seqEnableCmd
  repeat'
    first
      | with_reducible assumption | with_reducible apply State.seqEnable_out | exact Key.hasA rfl | exact Key.hasW
      | exact Out.sub hL rfl | intro _ | with_reducible apply Out.ite | split | dsimp only [id_eq]
      | (rename_i e; with_reducible refine Out.of_eq e ?_)

theorem State.seqDisable_out {s : State} (a : Nat) (h₀ : Out L₀ s₀ s)
    (hL : Key.sub [.w 13 0, .w 13 8, .w 13 20250624] L₀ = true) :
    Out L₀ s₀ (State.seqDisable s a) := by
  unfold State.seqDisable
  repeat'
    first
      | with_reducible assumption | with_reducible apply Out.puts_nil | with_reducible apply Out.puts_cons
      | with_reducible apply Out.put | exact Key.hasA rfl | exact Key.hasW | exact Out.sub hL rfl | intro _
      | with_reducible apply Out.ite | split | dsimp only [id_eq]
      | (rename_i e; with_reducible refine Out.of_eq e ?_)

/-- What `seqMchkRecovery` may change. -/
def seqMchkRecoveryOut : List Key :=
  [.a 2 32 4, .w 9 8, .w 10 20, .w 10 24, .w 13 0, .w 13 4, .w 13 8,
    .w 13 2228224, .w 13 20250624, .p .bstore, .p .pkt, .p .hbm, .p .poison]

theorem seqMchkRecovery_out (a : Act) (crcPass : Bool) {s : State} (h₀ : Out L₀ s₀ s)
    (hL : Key.sub seqMchkRecoveryOut L₀ = true) :
    Out L₀ s₀ (seqMchkRecovery a crcPass s) := by
  unfold seqMchkRecovery
  repeat'
    first
      | with_reducible assumption | with_reducible apply State.seqEnable_out
      | with_reducible apply State.seqDisable_out | with_reducible apply Out.when
      | with_reducible apply State.releaseHold_out | exact Key.hasA rfl | exact Key.hasW | exact Out.sub hL rfl
      | intro _ | with_reducible apply Out.ite | split | dsimp only [id_eq]
      | (rename_i e; with_reducible refine Out.of_eq e ?_)

/-- What `seqScrubPass` may change. -/
def seqScrubPassOut : List Key :=
  [.w 9 8, .w 10 20, .w 10 24, .w 13 12, .w 13 80, .w 13 2228224, .w 13 2424832,
    .p .edges, .p .inbox, .p .bstore, .p .pkt, .p .hbm, .p .poison]

theorem seqScrubPass_out (a : Act) (flips : List (Fin 4096 × BarkerWord)) (reloaded : Bool) {s : State} (h₀ : Out L₀ s₀ s)
    (hL : Key.sub seqScrubPassOut L₀ = true) :
    Out L₀ s₀ (seqScrubPass a flips reloaded s) := by
  unfold seqScrubPass
  repeat'
    first
      | with_reducible assumption | with_reducible apply Out.forAll | with_reducible apply State.upset_out
      | with_reducible apply Out.seqPost | with_reducible apply Out.seqCount | with_reducible apply Out.evt
      | with_reducible apply Out.put | with_reducible apply State.imageRead_out
      | with_reducible apply State.setBstore_out | exact Key.hasA rfl | exact Key.hasW | exact Out.sub hL rfl
      | intro _ | with_reducible apply Out.ite | split | dsimp only [id_eq]
      | (rename_i e; with_reducible refine Out.of_eq e ?_)

theorem execSeqEnable_out (a : Act) (crcPass : Bool) {s t : State} (h : execSeqEnable a crcPass s = .next t) :
    Out seqEnableOut s t := by
  have h := Host.Outcome.next.inj h; subst h; exact seqEnableCmd_out _ _ (Out.refl s) rfl

theorem execRoutineStart_out (a : Act) (id : Fin 64) (flip : BarkerWord) (kind : RoutineKind) {s t : State} (h : execRoutineStart a id flip kind s = .next t) :
    Out routineStartOut s t := by
  have h := Host.Outcome.next.inj h; subst h; exact routineStart_out _ _ _ _ (Out.refl s) rfl

theorem execBarkerNop_out (a : Act) (flip : BarkerWord) (now : BarkerNow) {s t : State} (h : execBarkerNop a flip now s = .next t) :
    Out barkerOut s t := by
  have h := Host.Outcome.next.inj h; subst h; exact barkerNop_out _ _ _ (Out.refl s) rfl

theorem execBarkerJmp_out (a : Act) (flip : BarkerWord) (now : BarkerNow) {s t : State} (h : execBarkerJmp a flip now s = .next t) :
    Out barkerOut s t := by
  have h := Host.Outcome.next.inj h; subst h; exact barkerJmp_out _ _ _ (Out.refl s) rfl

theorem execBarkerBr_out (a : Act) (flip : BarkerWord) (now : BarkerNow) {s t : State} (h : execBarkerBr a flip now s = .next t) :
    Out barkerBrOut s t := by
  have h := Host.Outcome.next.inj h; subst h; exact barkerBr_out _ _ _ (Out.refl s) rfl

theorem execBarkerCall_out (a : Act) (flip : BarkerWord) (now : BarkerNow) {s t : State} (h : execBarkerCall a flip now s = .next t) :
    Out barkerOut s t := by
  have h := Host.Outcome.next.inj h; subst h; exact barkerCall_out _ _ _ (Out.refl s) rfl

theorem execBarkerRet_out (a : Act) (flip : BarkerWord) (now : BarkerNow) {s t : State} (h : execBarkerRet a flip now s = .next t) :
    Out barkerOut s t := by
  have h := Host.Outcome.next.inj h; subst h; exact barkerRet_out _ _ _ (Out.refl s) rfl

theorem execBarkerWait_out (a : Act) (flip : BarkerWord) (now : BarkerNow) {s t : State} (h : execBarkerWait a flip now s = .next t) :
    Out barkerWaitOut s t := by
  have h := Host.Outcome.next.inj h; subst h; exact barkerWait_out _ _ _ (Out.refl s) rfl

theorem execBarkerLoad_out (a : Act) (flip : BarkerWord) (now : BarkerNow) {s t : State} (h : execBarkerLoad a flip now s = .next t) :
    Out barkerOut s t := by
  have h := Host.Outcome.next.inj h; subst h; exact barkerLoad_out _ _ _ (Out.refl s) rfl

theorem execBarkerAdd_out (a : Act) (flip : BarkerWord) (now : BarkerNow) {s t : State} (h : execBarkerAdd a flip now s = .next t) :
    Out barkerOut s t := by
  have h := Host.Outcome.next.inj h; subst h; exact barkerAdd_out _ _ _ (Out.refl s) rfl

theorem execBarkerEnd_out (a : Act) (flip : BarkerWord) (now : BarkerNow) {s t : State} (h : execBarkerEnd a flip now s = .next t) :
    Out barkerOut s t := by
  have h := Host.Outcome.next.inj h; subst h; exact barkerEnd_out _ _ _ (Out.refl s) rfl

theorem execBarkerWaitMet_out (a : Act) (now : BarkerNow) {s t : State} (h : execBarkerWaitMet a now s = .next t) :
    Out barkerWaitMetOut s t := by
  have h := Host.Outcome.next.inj h; subst h; exact barkerWaitMet_out _ _ (Out.refl s) rfl

theorem execBarkerWaitTimeout_out (a : Act) (now : BarkerNow) {s t : State} (h : execBarkerWaitTimeout a now s = .next t) :
    Out barkerWaitTimeoutOut s t := by
  have h := Host.Outcome.next.inj h; subst h; exact barkerWaitTimeout_out _ _ (Out.refl s) rfl

theorem execJobRestart_out (a : Act) {s t : State} (h : execJobRestart a s = .next t) :
    Out jobRestartOut s t := by
  have h := Host.Outcome.next.inj h; subst h; exact jobRestart_out _ (Out.refl s) rfl

theorem execSeqMchkRecovery_out (a : Act) (crcPass : Bool) {s t : State} (h : execSeqMchkRecovery a crcPass s = .next t) :
    Out seqMchkRecoveryOut s t := by
  have h := Host.Outcome.next.inj h; subst h; exact seqMchkRecovery_out _ _ (Out.refl s) rfl

theorem execSeqScrubPass_out (a : Act) (flips : List (Fin 4096 × BarkerWord)) (reloaded : Bool) {s t : State} (h : execSeqScrubPass a flips reloaded s = .next t) :
    Out seqScrubPassOut s t := by
  have h := Host.Outcome.next.inj h; subst h; exact seqScrubPass_out _ _ _ (Out.refl s) rfl

end Sys2Proof.Machine
end

