-- ==== Sys2Proof/Laws/OutMotion.lean ====
section
/-!
SUPPORT. What each operation and each command of `Machine/Motion.lean` can change.
-/

namespace Sys2Proof.Machine

set_option Elab.async false
set_option linter.unusedVariables false

set_option maxRecDepth 8000
set_option linter.unusedTactic false
set_option linter.unreachableTactic false

variable {L₀ : List Key} {s₀ : State}

theorem State.setPw_out {s : State} (n : Nat) (k : Nat) (v : Int) (h₀ : Out L₀ s₀ s)
    (hL : Key.sub [.p .win] L₀ = true) :
    Out L₀ s₀ (State.setPw s n k v) := by
  unfold State.setPw
  repeat'
    first
      | with_reducible assumption | with_reducible apply State.putWin_out | exact Key.hasA rfl | exact Key.hasW
      | exact Out.sub hL rfl | intro _ | with_reducible apply Out.ite | split | dsimp only [id_eq]
      | (rename_i e; with_reducible refine Out.of_eq e ?_)

theorem State.driveRefs_out {s : State} (h₀ : Out L₀ s₀ s)
    (hL : Key.sub [.p .win] L₀ = true) :
    Out L₀ s₀ (State.driveRefs s) := by
  unfold State.driveRefs
  repeat'
    first
      | with_reducible assumption | with_reducible apply State.setPw_out | exact Key.hasA rfl | exact Key.hasW
      | exact Out.sub hL rfl | intro _ | with_reducible apply Out.ite | split | dsimp only [id_eq]
      | (rename_i e; with_reducible refine Out.of_eq e ?_)

/-- What `State.crlTo` may change. -/
def crlToOut : List Key :=
  [.w 16 8, .w 16 8519680, .w 16 8912896, .w 16 9502720, .w 16 9568256, .w 16 10551296,
    .w 16 23068672, .w 16 23789568, .w 17 13762560, .p .win]

theorem State.crlTo_out {s : State} (st : Nat) (h₀ : Out L₀ s₀ s)
    (hL : Key.sub crlToOut L₀ = true) :
    Out L₀ s₀ (State.crlTo s st) := by
  unfold State.crlTo
  repeat'
    first
      | with_reducible assumption | with_reducible apply Out.puts_nil | with_reducible apply Out.puts_cons
      | with_reducible apply Out.put | with_reducible apply Out.when | with_reducible apply State.setPw_out
      | with_reducible apply State.driveRefs_out | exact Key.hasA rfl | exact Key.hasW | exact Out.sub hL rfl
      | intro _ | with_reducible apply Out.ite | split | dsimp only [id_eq]
      | (rename_i e; with_reducible refine Out.of_eq e ?_)

theorem State.crlCoast_out {s : State} (h₀ : Out L₀ s₀ s)
    (hL : Key.sub [.w 16 8, .w 16 8519680, .w 16 8912896, .w 16 9502720, .w 16 9568256, .w 16 10551296, .w 16 10878976,
    .w 16 23068672, .w 16 23789568, .w 17 13762560, .p .win] L₀ = true) :
    Out L₀ s₀ (State.crlCoast s) := by
  unfold State.crlCoast
  repeat'
    first
      | with_reducible assumption | with_reducible apply Out.puts_nil | with_reducible apply Out.puts_cons
      | with_reducible apply Out.put | with_reducible apply State.crlTo_out | exact Key.hasA rfl | exact Key.hasW
      | exact Out.sub hL rfl | intro _ | with_reducible apply Out.ite | split | dsimp only [id_eq]
      | (rename_i e; with_reducible refine Out.of_eq e ?_)

theorem State.unloadAll_out {s : State} (h₀ : Out L₀ s₀ s)
    (hL : Key.sub unloadRequestOut L₀ = true) :
    Out L₀ s₀ (State.unloadAll s) := by
  unfold State.unloadAll
  repeat'
    first
      | with_reducible assumption | with_reducible apply Out.forAll | with_reducible apply State.unloadRequest_out
      | exact Key.hasA rfl | exact Key.hasW | exact Out.sub hL rfl | intro _ | with_reducible apply Out.ite | split
      | dsimp only [id_eq] | (rename_i e; with_reducible refine Out.of_eq e ?_)

theorem State.setAtSp_out {s : State} (b : Bool) (h₀ : Out L₀ s₀ s)
    (hL : Key.sub [.w 12 8, .w 13 8, .w 13 12, .w 13 76, .w 13 1572864, .w 13 2359296, .w 13 2424832, .w 13 20250624, .w 14 8,
    .w 14 12, .w 14 24, .w 14 84, .w 14 3538944, .w 14 4259840, .w 14 4325376, .w 16 8, .w 16 12, .w 16 6094848,
    .w 18 8, .w 18 12, .w 18 72, .w 18 786432, .w 18 20578304, .w 19 16, .a 19 1310720 268435456,
    .a 19 1376256 268435456, .a 19 22413312 268435456, .a 19 22478848 268435456, .p .edges, .p .inbox, .p .chn,
    .p .seqs, .p .pa] L₀ = true) :
    Out L₀ s₀ (State.setAtSp s b) := by
  unfold State.setAtSp
  repeat'
    first
      | with_reducible assumption | with_reducible apply Out.putB | with_reducible apply Out.evt
      | with_reducible apply Out.forAll | with_reducible apply State.withdraw_out | exact Key.hasA rfl
      | exact Key.hasW | exact Out.sub hL rfl | intro _ | with_reducible apply Out.ite | split | dsimp only [id_eq]
      | (rename_i e; with_reducible refine Out.of_eq e ?_)

theorem State.stmLatch_out {s : State} (a : Nat) (h₀ : Out L₀ s₀ s)
    (hL : Key.sub [.w 17 8] L₀ = true) :
    Out L₀ s₀ (State.stmLatch s a) := by
  unfold State.stmLatch
  repeat'
    first
      | with_reducible assumption | with_reducible apply State.setBit_out | exact Key.hasA rfl | exact Key.hasW
      | exact Out.sub hL rfl | intro _ | with_reducible apply Out.ite | split | dsimp only [id_eq]
      | (rename_i e; with_reducible refine Out.of_eq e ?_)

theorem State.latchSeen_out {s : State} (a : Nat) (h₀ : Out L₀ s₀ s)
    (hL : Key.sub endWriteOut L₀ = true) :
    Out L₀ s₀ (State.latchSeen s a) := by
  unfold State.latchSeen
  repeat'
    first
      | with_reducible assumption | with_reducible apply Out.when | with_reducible apply Out.putB
      | with_reducible apply State.endWrite_out | exact Key.hasA rfl | exact Key.hasW | exact Out.sub hL rfl
      | intro _ | with_reducible apply Out.ite | split | dsimp only [id_eq]
      | (rename_i e; with_reducible refine Out.of_eq e ?_)

theorem State.stmLatchAll_out {s : State} (h₀ : Out L₀ s₀ s)
    (hL : Key.sub [.w 17 8] L₀ = true) :
    Out L₀ s₀ (State.stmLatchAll s) := by
  unfold State.stmLatchAll
  repeat'
    first
      | with_reducible assumption | with_reducible apply Out.forAll | with_reducible apply State.stmLatch_out
      | exact Key.hasA rfl | exact Key.hasW | exact Out.sub hL rfl | intro _ | with_reducible apply Out.ite | split
      | dsimp only [id_eq] | (rename_i e; with_reducible refine Out.of_eq e ?_)

/-- What `State.stmRetract` may change. -/
def stmRetractOut : List Key :=
  [.w 17 8, .w 17 12, .w 17 72, .a 17 12713984 268435456, .a 17 12779520 268435456,
    .a 17 24903680 268435456, .p .edges, .p .inbox]

theorem State.stmRetract_out {s : State} (a : Nat) (park : Bool) (h₀ : Out L₀ s₀ s)
    (hL : Key.sub stmRetractOut L₀ = true) :
    Out L₀ s₀ (State.stmRetract s a park) := by
  unfold State.stmRetract
  repeat'
    first
      | with_reducible assumption | with_reducible apply Out.count | with_reducible apply Out.puts_nil
      | with_reducible apply Out.puts_cons | with_reducible apply Out.put | with_reducible apply State.setBit_out
      | exact Key.hasA rfl | exact Key.hasW | exact Out.sub hL rfl | intro _ | with_reducible apply Out.ite | split
      | dsimp only [id_eq] | (rename_i e; with_reducible refine Out.of_eq e ?_)

theorem State.stmRetractAll_out {s : State} (h₀ : Out L₀ s₀ s)
    (hL : Key.sub stmRetractOut L₀ = true) :
    Out L₀ s₀ (State.stmRetractAll s) := by
  unfold State.stmRetractAll
  repeat'
    first
      | with_reducible assumption | with_reducible apply Out.forAll | with_reducible apply State.stmRetract_out
      | exact Key.hasA rfl | exact Key.hasW | exact Out.sub hL rfl | intro _ | with_reducible apply Out.ite | split
      | dsimp only [id_eq] | (rename_i e; with_reducible refine Out.of_eq e ?_)

/-- What `State.dropGrants` may change. -/
def dropGrantsOut : List Key :=
  [.w 17 8, .w 17 12, .w 17 72, .a 17 6488064 268435456, .w 17 12320768,
    .a 17 12713984 268435456, .a 17 12779520 268435456, .a 17 24903680 268435456, .p .edges, .p .inbox]

theorem State.dropGrants_out {s : State} (h₀ : Out L₀ s₀ s)
    (hL : Key.sub dropGrantsOut L₀ = true) :
    Out L₀ s₀ (State.dropGrants s) := by
  unfold State.dropGrants
  repeat'
    first
      | with_reducible assumption | with_reducible apply Out.puts_nil | with_reducible apply Out.puts_cons
      | with_reducible apply Out.put | with_reducible apply State.stmLatchAll_out
      | with_reducible apply State.stmRetractAll_out | exact Key.hasA rfl | exact Key.hasW | exact Out.sub hL rfl
      | intro _ | with_reducible apply Out.ite | split | dsimp only [id_eq]
      | (rename_i e; with_reducible refine Out.of_eq e ?_)

theorem State.checkGrant_out {s : State} (h₀ : Out L₀ s₀ s)
    (hL : Key.sub dropGrantsOut L₀ = true) :
    Out L₀ s₀ (State.checkGrant s) := by
  unfold State.checkGrant
  repeat'
    first
      | with_reducible assumption | with_reducible apply State.dropGrants_out | exact Key.hasA rfl | exact Key.hasW
      | exact Out.sub hL rfl | intro _ | with_reducible apply Out.ite | split | dsimp only [id_eq]
      | (rename_i e; with_reducible refine Out.of_eq e ?_)

/-- What `State.stopAssert` may change. -/
def stopAssertOut : List Key :=
  [.a 2 32 4, .w 12 8, .w 13 8, .w 13 12, .w 13 76, .w 13 1572864, .w 13 2359296,
    .w 13 2424832, .w 13 20250624, .w 14 8, .w 14 24, .w 14 4259840, .w 14 4325376, .w 16 8, .w 16 8519680,
    .w 16 8912896, .w 16 9502720, .w 16 9568256, .w 16 10551296, .w 16 10878976, .w 16 23068672, .w 16 23789568,
    .w 17 8, .w 17 12, .w 17 72, .a 17 6488064 268435456, .w 17 12320768, .a 17 12713984 268435456,
    .a 17 12779520 268435456, .w 17 13762560, .a 17 24903680 268435456, .w 18 8, .w 18 12, .w 18 72, .w 18 786432,
    .w 18 20578304, .w 19 16, .a 19 1310720 268435456, .a 19 1376256 268435456, .a 19 22413312 268435456,
    .a 19 22478848 268435456, .w 66 5046272, .p .win, .p .edges, .p .inbox, .p .chn, .p .seqs, .p .pa, .p .jq,
    .p .jact]

theorem State.stopAssert_out {s : State} (bit : Nat) (h₀ : Out L₀ s₀ s)
    (hL : Key.sub stopAssertOut L₀ = true) :
    Out L₀ s₀ (State.stopAssert s bit) := by
  unfold State.stopAssert
  repeat'
    first
      | with_reducible assumption | with_reducible apply Out.forAll | with_reducible apply State.setBit_out
      | with_reducible apply State.endWrite_out | with_reducible apply Out.when
      | with_reducible apply State.ladderRestart_out | with_reducible apply State.dropGrants_out
      | with_reducible apply State.crlCoast_out | with_reducible apply State.stmRetractAll_out
      | with_reducible apply State.stmLatchAll_out | exact Key.hasA rfl | exact Key.hasW | exact Out.sub hL rfl
      | intro _ | with_reducible apply Out.ite | split | dsimp only [id_eq]
      | (rename_i e; with_reducible refine Out.of_eq e ?_)

theorem State.stepEnd_out {s : State} (k : Nat) (h₀ : Out L₀ s₀ s)
    (hL : Key.sub [.w 5 8, .a 5 128 4] L₀ = true) :
    Out L₀ s₀ (State.stepEnd s k) := by
  unfold State.stepEnd
  repeat'
    first
      | with_reducible assumption | with_reducible apply Out.puts_nil | with_reducible apply Out.puts_cons
      | with_reducible apply Out.put | exact Key.hasA rfl | exact Key.hasW | exact Out.sub hL rfl | intro _
      | with_reducible apply Out.ite | split | dsimp only [id_eq]
      | (rename_i e; with_reducible refine Out.of_eq e ?_)

theorem State.setLoop_out {s : State} (n : Nat) (l : Loop) (h₀ : Out L₀ s₀ s)
    (hL : Key.sub [.p .loops] L₀ = true) :
    Out L₀ s₀ (State.setLoop s n l) := by
  unfold State.setLoop
  repeat'
    first
      | with_reducible assumption | exact Key.hasA rfl | exact Key.hasW | exact Out.sub hL rfl | intro _
      | with_reducible apply Out.ite | split | dsimp only [id_eq]
      | (rename_i e; with_reducible refine Out.of_eq e ?_) | with_reducible apply Out.setLoops

theorem State.lpMark_out {s : State} (n : Nat) (h₀ : Out L₀ s₀ s)
    (hL : Key.sub [.w 12 8, .w 13 8, .w 13 12, .w 13 76, .w 13 1572864, .w 13 2359296, .w 13 2424832, .w 13 20250624, .w 14 8,
    .w 14 12, .w 14 24, .w 14 84, .w 14 3538944, .w 14 4259840, .w 14 4325376, .w 14 4587520, .w 15 52, .w 18 8,
    .w 18 12, .w 18 72, .w 18 786432, .w 18 20578304, .w 19 16, .a 19 1310720 268435456, .a 19 1376256 268435456,
    .a 19 22413312 268435456, .a 19 22478848 268435456, .p .edges, .p .inbox, .p .chn, .p .seqs, .p .pa] L₀ = true) :
    Out L₀ s₀ (State.lpMark s n) := by
  unfold State.lpMark
  repeat'
    first
      | with_reducible assumption | with_reducible apply State.withdraw_out | with_reducible apply Out.put
      | with_reducible apply State.setBit_out | exact Key.hasA rfl | exact Key.hasW | exact Out.sub hL rfl | intro _
      | with_reducible apply Out.ite | split | dsimp only [id_eq]
      | (rename_i e; with_reducible refine Out.of_eq e ?_)

theorem State.lpDo_out {s : State} (n : Nat) (act : Nat) (err : Int) (fe : Bool) (timer : Nat) (h₀ : Out L₀ s₀ s)
    (hL : Key.sub [.a 2 32 4, .w 12 8, .w 13 8, .w 13 12, .w 13 76, .w 13 1572864, .w 13 2359296, .w 13 2424832, .w 13 20250624,
    .w 14 8, .w 14 12, .w 14 24, .w 14 84, .w 14 3211264, .w 14 3342336, .w 14 3407872, .w 14 3473408,
    .w 14 3538944, .w 14 4128768, .w 14 4194304, .w 14 4259840, .w 14 4325376, .w 14 4784128, .w 14 21692416,
    .w 14 21757952, .w 14 22675456, .w 14 22806528, .a 15 8454144 268435456, .w 16 8, .w 16 8519680, .w 16 8912896,
    .w 16 9502720, .w 16 9568256, .w 16 10551296, .w 16 10878976, .w 16 23068672, .w 16 23789568, .w 17 8, .w 17 12,
    .w 17 72, .a 17 6488064 268435456, .w 17 12320768, .a 17 12713984 268435456, .a 17 12779520 268435456,
    .w 17 13762560, .a 17 24903680 268435456, .w 18 8, .w 18 12, .w 18 72, .w 18 786432, .w 18 20578304, .w 19 12,
    .w 19 16, .w 19 1114112, .w 19 1179648, .a 19 1310720 268435456, .a 19 1376256 268435456,
    .a 19 22413312 268435456, .a 19 22478848 268435456, .w 66 5046272, .p .win, .p .edges, .p .inbox, .p .chn,
    .p .seqs, .p .pa, .p .jq, .p .jact, .p .loops] L₀ = true) :
    Out L₀ s₀ (State.lpDo s n act err fe timer) := by
  unfold State.lpDo
  repeat'
    first
      | with_reducible assumption | with_reducible apply Out.when | with_reducible apply Out.post
      | with_reducible apply Out.forAll | with_reducible apply State.setLoop_out
      | with_reducible apply State.withdraw_out | with_reducible apply Out.put
      | with_reducible apply State.unloadRequest_out | with_reducible apply State.stopAssert_out | exact Key.hasA rfl
      | exact Key.hasW | exact Out.sub hL rfl | intro _ | with_reducible apply Out.ite | split | dsimp only [id_eq]
      | (rename_i e; with_reducible refine Out.of_eq e ?_)

theorem State.lpStop_out {s : State} (n : Nat) (h₀ : Out L₀ s₀ s)
    (hL : Key.sub [.w 15 8, .w 15 7667712, .w 15 7798784] L₀ = true) :
    Out L₀ s₀ (State.lpStop s n) := by
  unfold State.lpStop
  repeat'
    first
      | with_reducible assumption | with_reducible apply Out.puts_nil | with_reducible apply Out.puts_cons
      | with_reducible apply Out.put | exact Key.hasA rfl | exact Key.hasW | exact Out.sub hL rfl | intro _
      | with_reducible apply Out.ite | split | dsimp only [id_eq]
      | (rename_i e; with_reducible refine Out.of_eq e ?_)

theorem State.setVinBudget_out {s : State} (b : Nat) (h₀ : Out L₀ s₀ s)
    (hL : Key.sub [.w 16 22937600, .p .win] L₀ = true) :
    Out L₀ s₀ (State.setVinBudget s b) := by
  unfold State.setVinBudget
  repeat'
    first
      | with_reducible assumption | with_reducible apply State.setPw_out | with_reducible apply Out.put
      | exact Key.hasA rfl | exact Key.hasW | exact Out.sub hL rfl | intro _ | with_reducible apply Out.ite | split
      | dsimp only [id_eq] | (rename_i e; with_reducible refine Out.of_eq e ?_)

theorem State.runBroken_out {s : State} (n : Nat) (h₀ : Out L₀ s₀ s)
    (hL : Key.sub [.a 15 8126464 268435456] L₀ = true) :
    Out L₀ s₀ (State.runBroken s n) := by
  unfold State.runBroken
  repeat'
    first
      | with_reducible assumption | with_reducible apply Out.when | with_reducible apply Out.put | exact Key.hasA rfl
      | exact Key.hasW | exact Out.sub hL rfl | intro _ | with_reducible apply Out.ite | split | dsimp only [id_eq]
      | (rename_i e; with_reducible refine Out.of_eq e ?_)

/-- What `State.lpMiss` may change. -/
def lpMissOut : List Key :=
  [.a 2 32 4, .w 12 8, .w 13 8, .w 13 12, .w 13 76, .w 13 1572864, .w 13 2359296,
    .w 13 2424832, .w 13 20250624, .w 14 8, .w 14 12, .w 14 24, .w 14 84, .w 14 3211264, .w 14 3342336,
    .w 14 3407872, .w 14 3473408, .w 14 3538944, .w 14 4128768, .w 14 4194304, .w 14 4259840, .w 14 4325376,
    .w 14 4587520, .w 14 4784128, .w 14 21692416, .w 14 21757952, .w 14 22675456, .w 14 22806528, .w 15 8, .w 15 12,
    .a 15 24 4, .w 15 52, .a 15 512 4, .w 15 7667712, .w 15 7798784, .a 15 8126464 268435456,
    .a 15 8454144 268435456, .w 16 8, .w 16 8519680, .w 16 8912896, .w 16 9502720, .w 16 9568256, .w 16 10551296,
    .w 16 10878976, .w 16 23068672, .w 16 23789568, .w 17 8, .w 17 12, .w 17 72, .a 17 6488064 268435456,
    .w 17 12320768, .a 17 12713984 268435456, .a 17 12779520 268435456, .w 17 13762560, .a 17 24903680 268435456,
    .w 18 8, .w 18 12, .w 18 72, .w 18 786432, .w 18 20578304, .w 19 12, .w 19 16, .w 19 1114112, .w 19 1179648,
    .a 19 1310720 268435456, .a 19 1376256 268435456, .a 19 22413312 268435456, .a 19 22478848 268435456,
    .w 66 5046272, .p .win, .p .edges, .p .inbox, .p .chn, .p .seqs, .p .pa, .p .jq, .p .jact, .p .loops]

theorem State.lpMiss_out {s : State} (n : Nat) (h₀ : Out L₀ s₀ s)
    (hL : Key.sub lpMissOut L₀ = true) :
    Out L₀ s₀ (State.lpMiss s n) := by
  unfold State.lpMiss
  repeat'
    first
      | with_reducible assumption | with_reducible apply State.setBit_out | with_reducible apply State.lpStop_out
      | with_reducible apply State.setLoop_out | with_reducible apply Out.post | with_reducible apply Out.evt
      | with_reducible apply Out.count | with_reducible apply State.runBroken_out
      | with_reducible apply State.lpMark_out | with_reducible apply State.lpDo_out | exact Key.hasA rfl
      | exact Key.hasW | exact Out.sub hL rfl | intro _ | with_reducible apply Out.ite | split | dsimp only [id_eq]
      | (rename_i e; with_reducible refine Out.of_eq e ?_)

theorem State.copyWin_out {s : State} (blk : Nat) (src : Nat) (dst : Nat) (off : Nat) (n : Nat) (h₀ : Out L₀ s₀ s)
    (hL : Key.sub [.p .win] L₀ = true) :
    Out L₀ s₀ (State.copyWin s blk src dst off n) := by
  unfold State.copyWin
  repeat'
    first
      | with_reducible assumption | exact Key.hasA rfl | exact Key.hasW | exact Out.sub hL rfl | intro _
      | with_reducible apply Out.ite | split | dsimp only [id_eq]
      | (rename_i e; with_reducible refine Out.of_eq e ?_) | with_reducible apply Out.setWin

theorem State.swapTable_out {s : State} (i : Nat) (h₀ : Out L₀ s₀ s)
    (hL : Key.sub [.a 15 21889024 268435456, .a 15 22872064 268435456, .p .win] L₀ = true) :
    Out L₀ s₀ (State.swapTable s i) := by
  unfold State.swapTable
  repeat'
    first
      | with_reducible assumption | with_reducible apply Out.puts_nil | with_reducible apply Out.puts_cons
      | with_reducible apply Out.put | with_reducible apply Out.forAll | with_reducible apply State.copyWin_out
      | exact Key.hasA rfl | exact Key.hasW | exact Out.sub hL rfl | intro _ | with_reducible apply Out.ite | split
      | dsimp only [id_eq] | (rename_i e; with_reducible refine Out.of_eq e ?_)

theorem State.takeTable_out {s : State} (n : Nat) (i : Nat) (h₀ : Out L₀ s₀ s)
    (hL : Key.sub [.a 15 21889024 268435456, .a 15 22872064 268435456, .p .win] L₀ = true) :
    Out L₀ s₀ (State.takeTable s n i) := by
  unfold State.takeTable
  repeat'
    first
      | with_reducible assumption | with_reducible apply Out.put | with_reducible apply Out.when
      | with_reducible apply State.swapTable_out | exact Key.hasA rfl | exact Key.hasW | exact Out.sub hL rfl
      | intro _ | with_reducible apply Out.ite | split | dsimp only [id_eq]
      | (rename_i e; with_reducible refine Out.of_eq e ?_)

theorem State.takeTables_out {s : State} (n : Nat) (h₀ : Out L₀ s₀ s)
    (hL : Key.sub [.a 15 21889024 268435456, .a 15 22872064 268435456, .p .win] L₀ = true) :
    Out L₀ s₀ (State.takeTables s n) := by
  unfold State.takeTables
  repeat'
    first
      | with_reducible assumption | with_reducible apply State.takeTable_out | with_reducible apply Out.forAll
      | exact Key.hasA rfl | exact Key.hasW | exact Out.sub hL rfl | intro _ | with_reducible apply Out.ite | split
      | dsimp only [id_eq] | (rename_i e; with_reducible refine Out.of_eq e ?_)

theorem State.lpView_out {s : State} (n : Nat) (h₀ : Out L₀ s₀ s)
    (hL : Key.sub [.p .win] L₀ = true) :
    Out L₀ s₀ (State.lpView s n) := by
  unfold State.lpView
  repeat'
    first
      | with_reducible assumption | with_reducible apply Out.forAll | with_reducible apply Out.when
      | with_reducible apply State.copyWin_out | exact Key.hasA rfl | exact Key.hasW | exact Out.sub hL rfl | intro _
      | with_reducible apply Out.ite | split | dsimp only [id_eq]
      | (rename_i e; with_reducible refine Out.of_eq e ?_)

theorem State.dropOwners_out {s : State} (h₀ : Out L₀ s₀ s)
    (hL : Key.sub [.a 15 7077888 268435456] L₀ = true) :
    Out L₀ s₀ (State.dropOwners s) := by
  unfold State.dropOwners
  repeat'
    first
      | with_reducible assumption | with_reducible apply Out.forAll | with_reducible apply Out.when
      | with_reducible apply Out.put | exact Key.hasA rfl | exact Key.hasW | exact Out.sub hL rfl | intro _
      | with_reducible apply Out.ite | split | dsimp only [id_eq]
      | (rename_i e; with_reducible refine Out.of_eq e ?_)

theorem State.lpTrigger_out (fuel : Nat) : ∀ {s : State} (n t0 : Nat) (good ref0 : Bool), Out L₀ s₀ s →
    Key.sub [.a 2 32 4, .w 12 8, .w 13 8, .w 13 12, .w 13 76, .w 13 1572864, .w 13 2359296, .w 13 2424832, .w 13 20250624,
    .w 14 8, .w 14 12, .w 14 24, .w 14 84, .w 14 3211264, .w 14 3342336, .w 14 3407872, .w 14 3473408,
    .w 14 3538944, .w 14 4128768, .w 14 4194304, .w 14 4259840, .w 14 4325376, .w 14 4587520, .w 14 4784128,
    .w 14 21692416, .w 14 21757952, .w 14 22675456, .w 14 22806528, .w 15 8, .w 15 12, .a 15 24 4, .w 15 52,
    .a 15 512 4, .w 15 7667712, .w 15 7798784, .a 15 8126464 268435456, .a 15 8454144 268435456,
    .a 15 21889024 268435456, .a 15 22872064 268435456, .w 16 8, .w 16 8519680, .w 16 8912896, .w 16 9502720,
    .w 16 9568256, .w 16 10551296, .w 16 10878976, .w 16 23068672, .w 16 23789568, .w 17 8, .w 17 12, .w 17 72,
    .a 17 6488064 268435456, .w 17 12320768, .a 17 12713984 268435456, .a 17 12779520 268435456, .w 17 13762560,
    .a 17 24903680 268435456, .w 18 8, .w 18 12, .w 18 72, .w 18 786432, .w 18 20578304, .w 19 12, .w 19 16,
    .w 19 1114112, .w 19 1179648, .a 19 1310720 268435456, .a 19 1376256 268435456, .a 19 22413312 268435456,
    .a 19 22478848 268435456, .w 66 5046272, .p .win, .p .edges, .p .inbox, .p .chn, .p .seqs, .p .pa, .p .jq,
    .p .jact, .p .loops] L₀ = true → Out L₀ s₀ (State.lpTrigger s fuel n t0 good ref0) := by
  induction fuel with
  | zero => intro s n t0 good ref0 h _; exact h
  | succ fuel ih =>
    intro s n t0 good ref0 h0 hL
    have h := State.takeTables_out n h0 (Out.sub hL rfl)
    unfold State.lpTrigger
    dsimp only
    repeat'
      first
        | with_reducible assumption | with_reducible apply ih | with_reducible apply Out.forAll
        | with_reducible apply State.setLoop_out | with_reducible apply State.lpMiss_out
        | with_reducible apply State.runBroken_out | exact Out.sub hL rfl | intro _ | with_reducible apply Out.ite | split

/-- What `State.trzTrigger` may change. -/
def trzTriggerOut : List Key :=
  [.a 2 32 4, .w 12 8, .w 13 8, .w 13 12, .w 13 76, .w 13 1572864, .w 13 2359296,
    .w 13 2424832, .w 13 20250624, .w 14 8, .w 14 12, .w 14 24, .w 14 84, .w 14 3211264, .w 14 3342336,
    .w 14 3407872, .w 14 3473408, .w 14 3538944, .w 14 4128768, .w 14 4194304, .w 14 4259840, .w 14 4325376,
    .w 14 4587520, .w 14 4784128, .w 14 21692416, .w 14 21757952, .w 14 22675456, .w 14 22806528, .w 15 8, .w 15 12,
    .a 15 24 4, .w 15 52, .a 15 512 4, .a 15 7077888 268435456, .w 15 7667712, .w 15 7798784,
    .a 15 8126464 268435456, .a 15 8454144 268435456, .a 15 21889024 268435456, .a 15 22872064 268435456, .w 16 8,
    .w 16 8519680, .w 16 8912896, .w 16 9502720, .w 16 9568256, .w 16 10551296, .w 16 10878976, .w 16 23068672,
    .w 16 23789568, .w 17 8, .w 17 12, .w 17 72, .a 17 6488064 268435456, .w 17 12320768, .a 17 12713984 268435456,
    .a 17 12779520 268435456, .w 17 13762560, .a 17 24903680 268435456, .w 18 8, .w 18 12, .w 18 72, .w 18 786432,
    .w 18 20578304, .w 19 12, .w 19 16, .w 19 1114112, .w 19 1179648, .a 19 1310720 268435456,
    .a 19 1376256 268435456, .a 19 22413312 268435456, .a 19 22478848 268435456, .w 66 5046272, .p .win, .p .edges,
    .p .inbox, .p .chn, .p .seqs, .p .pa, .p .jq, .p .jact, .p .loops]

theorem State.trzTrigger_out {s : State} (kind : Nat) (p : Nat → Bool) (good : Bool) (h₀ : Out L₀ s₀ s)
    (hL : Key.sub trzTriggerOut L₀ = true) :
    Out L₀ s₀ (State.trzTrigger s kind p good) := by
  unfold State.trzTrigger
  repeat'
    first
      | with_reducible assumption | with_reducible apply Out.forAll | with_reducible apply State.dropOwners_out
      | with_reducible apply State.lpTrigger_out | exact Key.hasA rfl | exact Key.hasW | exact Out.sub hL rfl
      | intro _ | with_reducible apply Out.ite | split | dsimp only [id_eq]
      | (rename_i e; with_reducible refine Out.of_eq e ?_)

theorem State.trzWedge_out {s : State} (a : Nat) (good : Bool) (h₀ : Out L₀ s₀ s)
    (hL : Key.sub trzTriggerOut L₀ = true) :
    Out L₀ s₀ (State.trzWedge s a good) := by
  unfold State.trzWedge
  repeat'
    first
      | with_reducible assumption | with_reducible apply State.trzTrigger_out | with_reducible apply Out.when
      | with_reducible apply Out.put | exact Key.hasA rfl | exact Key.hasW | exact Out.sub hL rfl | intro _
      | with_reducible apply Out.ite | split | dsimp only [id_eq]
      | (rename_i e; with_reducible refine Out.of_eq e ?_)

end Sys2Proof.Machine
end

