-- ==== Sys2Proof/Laws/OutServo.lean ====
section
/-!
SUPPORT. What each operation and each command of `Machine/Servo.lean` can change.
-/

namespace Sys2Proof.Machine

set_option Elab.async false
set_option linter.unusedVariables false

set_option maxRecDepth 8000
set_option linter.unusedTactic false
set_option linter.unreachableTactic false

variable {L₀ : List Key} {s₀ : State}

theorem State.locked_out {s : State} (a : Nat) (h₀ : Out L₀ s₀ s)
    (hL : Key.sub [.a 2 32 4, .w 5 8, .a 5 128 4, .w 11 12, .w 11 84, .w 12 8, .w 13 8, .w 13 12, .w 13 76, .w 13 1572864,
    .w 13 2359296, .w 13 2424832, .w 13 20250624, .w 14 8, .w 14 12, .w 14 24, .w 14 84, .w 14 3211264,
    .w 14 3342336, .w 14 3407872, .w 14 3473408, .w 14 3538944, .w 14 3604480, .w 14 3670016, .w 14 3735552,
    .w 14 3997696, .w 14 4194304, .w 14 4259840, .w 14 4325376, .w 14 4784128, .w 14 21692416, .w 14 21757952,
    .w 14 22675456, .w 14 22806528, .w 18 8, .w 18 12, .w 18 72, .w 18 786432, .w 18 20578304, .w 19 12, .w 19 16,
    .w 19 1114112, .w 19 1179648, .a 19 1310720 268435456, .a 19 1376256 268435456, .a 19 22413312 268435456,
    .a 19 22478848 268435456, .w 22 8, .w 22 12, .w 64 6881280, .p .edges, .p .inbox, .p .chn, .p .seqs, .p .pa,
    .p .jq, .p .jact, .p .mops] L₀ = true) :
    Out L₀ s₀ (State.locked s a) := by
  unfold State.locked
  repeat'
    first
      | with_reducible assumption | with_reducible apply State.setSrv_out | with_reducible apply Out.when
      | with_reducible apply Out.puts_nil | with_reducible apply Out.puts_cons | with_reducible apply Out.put
      | with_reducible apply Out.evt | with_reducible apply State.stepEnd_out
      | with_reducible apply State.unloadNow_out | with_reducible apply State.setPs_out | exact Key.hasA rfl
      | exact Key.hasW | exact Out.sub hL rfl | intro _ | with_reducible apply Out.ite | split | dsimp only [id_eq]
      | (rename_i e; with_reducible refine Out.of_eq e ?_)

theorem State.lockLost_out {s : State} (a : Nat) (causes : Nat) (h₀ : Out L₀ s₀ s)
    (hL : Key.sub [.w 12 8, .w 13 8, .w 13 12, .w 13 76, .w 13 1572864, .w 13 2359296, .w 13 2424832, .w 13 20250624, .w 14 8,
    .w 14 12, .w 14 24, .w 14 84, .w 14 92, .w 14 3211264, .w 14 3342336, .w 14 3407872, .w 14 3473408,
    .w 14 3538944, .w 14 4259840, .w 14 4325376, .w 18 8, .w 18 12, .w 18 72, .w 18 786432, .w 18 20578304,
    .w 19 16, .a 19 1310720 268435456, .a 19 1376256 268435456, .a 19 22413312 268435456, .a 19 22478848 268435456,
    .p .edges, .p .inbox, .p .chn, .p .seqs, .p .pa] L₀ = true) :
    Out L₀ s₀ (State.lockLost s a causes) := by
  unfold State.lockLost
  repeat'
    first
      | with_reducible assumption | with_reducible apply State.withdraw_out | with_reducible apply Out.post
      | with_reducible apply Out.count | with_reducible apply Out.evt | with_reducible apply State.setSrv_out
      | exact Key.hasA rfl | exact Key.hasW | exact Out.sub hL rfl | intro _ | with_reducible apply Out.ite | split
      | dsimp only [id_eq] | (rename_i e; with_reducible refine Out.of_eq e ?_)

theorem State.toFollow_out {s : State} (a : Nat) (h₀ : Out L₀ s₀ s)
    (hL : Key.sub [.w 14 8, .w 14 3211264, .w 14 3342336, .w 14 3407872, .w 14 3473408, .w 14 3604480, .w 14 3670016, .w 14 21168128,
    .w 14 22806528] L₀ = true) :
    Out L₀ s₀ (State.toFollow s a) := by
  unfold State.toFollow
  repeat'
    first
      | with_reducible assumption | with_reducible apply State.setSrv_out | with_reducible apply Out.puts_nil
      | with_reducible apply Out.puts_cons | with_reducible apply Out.put | exact Key.hasA rfl | exact Key.hasW
      | exact Out.sub hL rfl | intro _ | with_reducible apply Out.ite | split | dsimp only [id_eq]
      | (rename_i e; with_reducible refine Out.of_eq e ?_)

theorem State.srvStep_out {s : State} (a : Nat) (good : Bool) (pes : Int) (causes : Nat) (h₀ : Out L₀ s₀ s)
    (hL : Key.sub [.a 2 32 4, .w 5 8, .a 5 128 4, .w 11 12, .w 11 84, .w 12 8, .w 13 8, .w 13 12, .w 13 76, .w 13 1572864,
    .w 13 2359296, .w 13 2424832, .w 13 20250624, .w 14 8, .w 14 12, .w 14 24, .w 14 84, .w 14 92, .w 14 3211264,
    .w 14 3276800, .w 14 3342336, .w 14 3407872, .w 14 3473408, .w 14 3538944, .w 14 3604480, .w 14 3670016,
    .w 14 3735552, .w 14 3997696, .w 14 4194304, .w 14 4259840, .w 14 4325376, .w 14 4784128, .w 14 21168128,
    .w 14 21626880, .w 14 21692416, .w 14 21757952, .w 14 22675456, .w 14 22806528, .w 18 8, .w 18 12, .w 18 72,
    .w 18 786432, .w 18 20578304, .w 19 12, .w 19 16, .w 19 1114112, .w 19 1179648, .a 19 1310720 268435456,
    .a 19 1376256 268435456, .a 19 22413312 268435456, .a 19 22478848 268435456, .w 22 8, .w 22 12, .w 64 6881280,
    .p .edges, .p .inbox, .p .chn, .p .seqs, .p .pa, .p .jq, .p .jact, .p .mops] L₀ = true) :
    Out L₀ s₀ (State.srvStep s a good pes causes) := by
  unfold State.srvStep
  repeat'
    first
      | with_reducible assumption | with_reducible apply Out.puts_nil | with_reducible apply Out.puts_cons
      | with_reducible apply Out.put | with_reducible apply State.locked_out
      | with_reducible apply State.lockLost_out | with_reducible apply State.setSrv_out
      | with_reducible apply State.toFollow_out | with_reducible apply Out.when | exact Key.hasA rfl | exact Key.hasW
      | exact Out.sub hL rfl | intro _ | with_reducible apply Out.ite | split | dsimp only [id_eq]
      | (rename_i e; with_reducible refine Out.of_eq e ?_)

theorem State.ofsAtWedge_out {s : State} (a : Nat) (h₀ : Out L₀ s₀ s)
    (hL : Key.sub [.w 12 8, .w 13 8, .w 13 12, .w 13 76, .w 13 1572864, .w 13 2359296, .w 13 2424832, .w 13 20250624, .w 14 8,
    .w 14 12, .w 14 24, .w 14 84, .w 14 3211264, .w 14 3342336, .w 14 3407872, .w 14 3473408, .w 14 3538944,
    .w 14 4259840, .w 14 4325376, .w 14 4390912, .w 14 6422528, .w 14 22806528, .w 18 8, .w 18 12, .w 18 72,
    .w 18 786432, .w 18 20578304, .w 19 16, .a 19 1310720 268435456, .a 19 1376256 268435456,
    .a 19 22413312 268435456, .a 19 22478848 268435456, .p .edges, .p .inbox, .p .chn, .p .seqs, .p .pa] L₀ = true) :
    Out L₀ s₀ (State.ofsAtWedge s a) := by
  unfold State.ofsAtWedge
  repeat'
    first
      | with_reducible assumption | with_reducible apply Out.puts_nil | with_reducible apply Out.puts_cons
      | with_reducible apply Out.put | with_reducible apply State.setSrv_out
      | with_reducible apply State.withdraw_out | exact Key.hasA rfl | exact Key.hasW | exact Out.sub hL rfl
      | intro _ | with_reducible apply Out.ite | split | dsimp only [id_eq]
      | (rename_i e; with_reducible refine Out.of_eq e ?_)

theorem State.seekError_out {s : State} (a : Nat) (start : Nat) (wedges : Nat) (h₀ : Out L₀ s₀ s)
    (hL : Key.sub [.w 14 12, .w 14 88, .w 14 3801088, .w 14 3866624, .w 14 21495808, .p .edges, .p .inbox] L₀ = true) :
    Out L₀ s₀ (State.seekError s a start wedges) := by
  unfold State.seekError
  repeat'
    first
      | with_reducible assumption | with_reducible apply Out.puts_nil | with_reducible apply Out.puts_cons
      | with_reducible apply Out.put | with_reducible apply Out.post | with_reducible apply Out.count
      | with_reducible apply Out.evt | exact Key.hasA rfl | exact Key.hasW | exact Out.sub hL rfl | intro _
      | with_reducible apply Out.ite | split | dsimp only [id_eq]
      | (rename_i e; with_reducible refine Out.of_eq e ?_)

theorem State.seekLimit_out {s : State} (a : Nat) (h₀ : Out L₀ s₀ s)
    (hL : Key.sub [.a 2 32 4, .w 12 8, .w 13 8, .w 13 12, .w 13 76, .w 13 1572864, .w 13 2359296, .w 13 2424832, .w 13 20250624,
    .w 14 8, .w 14 12, .w 14 24, .w 14 84, .w 14 3211264, .w 14 3342336, .w 14 3407872, .w 14 3473408,
    .w 14 3538944, .w 14 3801088, .w 14 3932160, .w 14 4194304, .w 14 4259840, .w 14 4325376, .w 14 21692416,
    .w 14 21757952, .w 14 22675456, .w 14 22806528, .w 18 8, .w 18 12, .w 18 72, .w 18 786432, .w 18 20578304,
    .w 19 12, .w 19 16, .w 19 1114112, .w 19 1179648, .a 19 1310720 268435456, .a 19 1376256 268435456,
    .a 19 22413312 268435456, .a 19 22478848 268435456, .p .edges, .p .inbox, .p .chn, .p .seqs, .p .pa, .p .jq,
    .p .jact] L₀ = true) :
    Out L₀ s₀ (State.seekLimit s a) := by
  unfold State.seekLimit
  repeat'
    first
      | with_reducible assumption | with_reducible apply Out.when | with_reducible apply State.unloadNow_out
      | with_reducible apply Out.puts_nil | with_reducible apply Out.puts_cons | with_reducible apply Out.put
      | exact Key.hasA rfl | exact Key.hasW | exact Out.sub hL rfl | intro _ | with_reducible apply Out.ite | split
      | dsimp only [id_eq] | (rename_i e; with_reducible refine Out.of_eq e ?_)

theorem State.rung2Late_out {s : State} (a : Nat) (h₀ : Out L₀ s₀ s)
    (hL : Key.sub [.w 2 8, .w 2 20, .w 2 24, .a 2 32 4, .w 2 5439488, .w 2 5505024, .w 6 8, .w 6 12, .w 7 12, .w 7 24, .w 7 28,
    .w 7 17956864, .w 9 8, .w 10 20, .w 10 24, .w 11 8, .w 11 12, .a 11 32 4, .a 11 48 4, .w 12 8, .w 12 12,
    .w 12 48, .w 12 52, .w 12 84, .w 12 92, .w 13 8, .w 13 12, .w 13 76, .w 13 1572864, .w 13 2359296,
    .w 13 2424832, .w 13 20250624, .w 14 8, .w 14 12, .w 14 24, .w 14 84, .w 14 88, .w 14 3211264, .w 14 3342336,
    .w 14 3407872, .w 14 3473408, .w 14 3538944, .w 14 3801088, .w 14 3866624, .w 14 3932160, .w 14 4194304,
    .w 14 4259840, .w 14 4325376, .w 14 6422528, .w 14 21495808, .w 14 21692416, .w 14 21757952, .w 14 22675456,
    .w 14 22806528, .w 18 8, .w 18 12, .w 18 72, .w 18 786432, .w 18 20578304, .w 19 12, .w 19 16, .w 19 1114112,
    .w 19 1179648, .a 19 1310720 268435456, .a 19 1376256 268435456, .a 19 22413312 268435456,
    .a 19 22478848 268435456, .w 20 8, .w 20 12, .a 20 32 4, .a 65 15335424 268435456, .a 65 15400960 268435456,
    .a 65 22347776 268435456, .p .free, .p .edges, .p .inbox, .p .chn, .p .seqs, .p .mcache, .p .pa, .p .jq,
    .p .jact, .p .jobNo, .p .cmds, .p .cqs, .p .ctrls, .p .nss, .p .zones, .p .bands, .p .vol, .p .points, .p .mops,
    .p .opid, .p .journal, .p .jseq, .p .rung6, .p .blks, .p .fops, .p .fwait, .p .errlog, .p .pkt, .p .hbm,
    .p .poison, .p .lost, .p .kvLog, .p .stripes, .p .weakSlots] L₀ = true) :
    Out L₀ s₀ (State.rung2Late s a) := by
  unfold State.rung2Late
  repeat'
    first
      | with_reducible assumption | with_reducible apply Out.when | with_reducible apply State.seekLimit_out
      | with_reducible apply State.seekError_out | with_reducible apply Out.puts_nil
      | with_reducible apply Out.puts_cons | with_reducible apply Out.put | with_reducible apply retryRung_out
      | exact Key.hasA rfl | exact Key.hasW | exact Out.sub hL rfl | intro _ | with_reducible apply Out.ite | split
      | dsimp only [id_eq] | (rename_i e; with_reducible refine Out.of_eq e ?_)

theorem State.indexStep_out {s : State} (a : Nat) (x : Nat) (h₀ : Out L₀ s₀ s)
    (hL : Key.sub [.w 14 12, .w 14 68, .w 14 2752512, .w 14 2818048, .w 14 2883584, .p .edges, .p .inbox] L₀ = true) :
    Out L₀ s₀ (State.indexStep s a x).1 := by
  unfold State.indexStep
  repeat'
    first
      | with_reducible assumption | with_reducible apply Out.count | with_reducible apply Out.puts_nil
      | with_reducible apply Out.puts_cons | with_reducible apply Out.put | with_reducible apply Out.post
      | with_reducible apply Out.evt | exact Key.hasA rfl | exact Key.hasW | exact Out.sub hL rfl | intro _
      | with_reducible apply Out.ite | split | dsimp only [id_eq]
      | (rename_i e; with_reducible refine Out.of_eq e ?_)

theorem State.heaterAtWedge_out {s : State} (a : Nat) (h₀ : Out L₀ s₀ s)
    (hL : Key.sub [.w 18 20578304, .w 19 16, .a 19 1245184 268435456, .a 19 22413312 268435456, .a 19 22478848 268435456, .p .edges,
    .p .inbox, .p .pa] L₀ = true) :
    Out L₀ s₀ (State.heaterAtWedge s a) := by
  unfold State.heaterAtWedge
  repeat'
    first
      | with_reducible assumption | with_reducible apply Out.when | with_reducible apply Out.put
      | with_reducible apply State.idleHeater_out | exact Key.hasA rfl | exact Key.hasW | exact Out.sub hL rfl
      | intro _ | with_reducible apply Out.ite | split | dsimp only [id_eq]
      | (rename_i e; with_reducible refine Out.of_eq e ?_)

theorem State.hskewUpdate_out {s : State} (a : Nat) (m : Option (BitVec 16)) (h₀ : Out L₀ s₀ s)
    (hL : Key.sub [.a 14 256 8, .a 14 4915200 268435456] L₀ = true) :
    Out L₀ s₀ (State.hskewUpdate s a m) := by
  unfold State.hskewUpdate
  repeat'
    first
      | with_reducible assumption | with_reducible apply Out.put | exact Key.hasA rfl | exact Key.hasW
      | exact Out.sub hL rfl | intro _ | with_reducible apply Out.ite | split | dsimp only [id_eq]
      | (rename_i e; with_reducible refine Out.of_eq e ?_)

theorem State.seekTo_out {s : State} (a : Nat) (track : Nat) (h₀ : Out L₀ s₀ s)
    (hL : Key.sub [.w 12 8, .w 13 8, .w 13 12, .w 13 76, .w 13 1572864, .w 13 2359296, .w 13 2424832, .w 13 20250624, .w 14 8,
    .w 14 12, .w 14 20, .w 14 24, .w 14 84, .w 14 3211264, .w 14 3342336, .w 14 3407872, .w 14 3473408,
    .w 14 3538944, .w 14 3604480, .w 14 3670016, .w 14 3735552, .w 14 4259840, .w 14 4325376, .w 18 8, .w 18 12,
    .w 18 72, .w 18 786432, .w 18 20578304, .w 19 16, .a 19 1310720 268435456, .a 19 1376256 268435456,
    .a 19 22413312 268435456, .a 19 22478848 268435456, .p .edges, .p .inbox, .p .chn, .p .seqs, .p .pa] L₀ = true) :
    Out L₀ s₀ (State.seekTo s a track) := by
  unfold State.seekTo
  repeat'
    first
      | with_reducible assumption | with_reducible apply Out.put | with_reducible apply State.setSrv_out
      | with_reducible apply Out.puts_nil | with_reducible apply Out.puts_cons
      | with_reducible apply State.withdraw_out | exact Key.hasA rfl | exact Key.hasW | exact Out.sub hL rfl
      | intro _ | with_reducible apply Out.ite | split | dsimp only [id_eq]
      | (rename_i e; with_reducible refine Out.of_eq e ?_)

theorem State.keepSam_out {s : State} (a : Nat) (w : WedgeRead) (found : Option Nat) (h₀ : Out L₀ s₀ s)
    (hL : Key.sub [.p .sams] L₀ = true) :
    Out L₀ s₀ (State.keepSam s a w found) := by
  unfold State.keepSam
  repeat'
    first
      | with_reducible assumption | exact Key.hasA rfl | exact Key.hasW | exact Out.sub hL rfl | intro _
      | with_reducible apply Out.ite | split | dsimp only [id_eq]
      | (rename_i e; with_reducible refine Out.of_eq e ?_) | with_reducible apply Out.setSams

theorem State.afterMate_out {s : State} (a : Nat) (h₀ : Out L₀ s₀ s)
    (hL : Key.sub [.a 2 32 4, .w 12 8, .w 13 8, .w 13 12, .w 13 76, .w 13 1572864, .w 13 2359296, .w 13 2424832, .w 13 20250624,
    .w 14 8, .w 14 12, .w 14 20, .w 14 24, .w 14 84, .w 14 3211264, .w 14 3342336, .w 14 3407872, .w 14 3473408,
    .w 14 3538944, .w 14 3604480, .w 14 3670016, .w 14 3735552, .w 14 4194304, .w 14 4259840, .w 14 4325376,
    .w 14 21692416, .w 14 21757952, .w 14 22675456, .w 14 22806528, .w 18 8, .w 18 12, .w 18 72, .w 18 786432,
    .w 18 20578304, .w 19 12, .w 19 16, .w 19 1114112, .w 19 1179648, .a 19 1310720 268435456,
    .a 19 1376256 268435456, .a 19 22413312 268435456, .a 19 22478848 268435456, .p .edges, .p .inbox, .p .chn,
    .p .seqs, .p .pa, .p .jq, .p .jact] L₀ = true) :
    Out L₀ s₀ (State.afterMate s a) := by
  unfold State.afterMate
  repeat'
    first
      | with_reducible assumption | with_reducible apply State.toUnloading_out
      | with_reducible apply State.seekTo_out | with_reducible apply Out.put | exact Key.hasA rfl | exact Key.hasW
      | exact Out.sub hL rfl | intro _ | with_reducible apply Out.ite | split | dsimp only [id_eq]
      | (rename_i e; with_reducible refine Out.of_eq e ?_)

theorem State.maWedge_out {s : State} (a : Nat) (h₀ : Out L₀ s₀ s)
    (hL : Key.sub [.w 14 22675456] L₀ = true) :
    Out L₀ s₀ (State.maWedge s a) := by
  unfold State.maWedge
  repeat'
    first
      | with_reducible assumption | with_reducible apply Out.put | exact Key.hasA rfl | exact Key.hasW
      | exact Out.sub hL rfl | intro _ | with_reducible apply Out.ite | split | dsimp only [id_eq]
      | (rename_i e; with_reducible refine Out.of_eq e ?_)

theorem State.wedgeHeader_out {s : State} (a : Nat) (sam : Bool) (idxOk : Bool) (trk : Option Nat) (h₀ : Out L₀ s₀ s)
    (hL : Key.sub [.w 12 8, .w 13 8, .w 13 12, .w 13 76, .w 13 1572864, .w 13 2359296, .w 13 2424832, .w 13 20250624, .w 14 8,
    .w 14 12, .w 14 24, .w 14 84, .w 14 2949120, .w 14 3014656, .w 14 3080192, .w 14 3145728, .w 14 3538944,
    .w 14 4259840, .w 14 4325376, .w 14 4587520, .w 14 20512768, .w 14 21430272, .w 18 8, .w 18 12, .w 18 72,
    .w 18 786432, .w 18 20578304, .w 19 16, .a 19 1310720 268435456, .a 19 1376256 268435456,
    .a 19 22413312 268435456, .a 19 22478848 268435456, .p .edges, .p .inbox, .p .chn, .p .seqs, .p .pa] L₀ = true) :
    Out L₀ s₀ (State.wedgeHeader s a sam idxOk trk) := by
  unfold State.wedgeHeader
  repeat'
    first
      | with_reducible assumption | with_reducible apply Out.puts_nil | with_reducible apply Out.puts_cons
      | with_reducible apply Out.put | with_reducible apply Out.when | with_reducible apply State.withdraw_out
      | exact Key.hasA rfl | exact Key.hasW | exact Out.sub hL rfl | intro _ | with_reducible apply Out.ite | split
      | dsimp only [id_eq] | (rename_i e; with_reducible refine Out.of_eq e ?_)

theorem State.postSample_out {s : State} (a : Nat) (good : Bool) (ampOk : Bool) (pos : Int) (corr : Int) (h₀ : Out L₀ s₀ s)
    (hL : Key.sub [.a 2 32 4, .w 12 8, .w 13 8, .w 13 12, .w 13 76, .w 13 1572864, .w 13 2359296, .w 13 2424832, .w 13 20250624,
    .w 14 8, .w 14 12, .w 14 24, .w 14 28, .w 14 32, .w 14 84, .w 14 3211264, .w 14 3342336, .w 14 3407872,
    .w 14 3473408, .w 14 3538944, .w 14 4128768, .w 14 4194304, .w 14 4259840, .w 14 4325376, .w 14 4456448,
    .w 14 4521984, .w 14 4587520, .w 14 4784128, .w 14 6225920, .w 14 6291456, .w 14 6356992, .w 14 21299200,
    .w 14 21692416, .w 14 21757952, .w 14 22675456, .w 14 22806528, .w 15 8, .w 15 12, .a 15 24 4, .w 15 52,
    .a 15 512 4, .a 15 7077888 268435456, .w 15 7667712, .w 15 7798784, .a 15 8126464 268435456,
    .a 15 8454144 268435456, .a 15 21889024 268435456, .a 15 22872064 268435456, .w 16 8, .w 16 8519680,
    .w 16 8912896, .w 16 9502720, .w 16 9568256, .w 16 10551296, .w 16 10878976, .w 16 23068672, .w 16 23789568,
    .w 17 8, .w 17 12, .w 17 72, .a 17 6488064 268435456, .w 17 12320768, .a 17 12713984 268435456,
    .a 17 12779520 268435456, .w 17 13762560, .a 17 24903680 268435456, .w 18 8, .w 18 12, .w 18 72, .w 18 786432,
    .w 18 20578304, .w 19 12, .w 19 16, .w 19 1114112, .w 19 1179648, .a 19 1310720 268435456,
    .a 19 1376256 268435456, .a 19 22413312 268435456, .a 19 22478848 268435456, .w 66 5046272, .p .win, .p .edges,
    .p .inbox, .p .chn, .p .seqs, .p .pa, .p .jq, .p .jact, .p .loops] L₀ = true) :
    Out L₀ s₀ (State.postSample s a good ampOk pos corr) := by
  unfold State.postSample
  repeat'
    first
      | with_reducible assumption | with_reducible apply Out.puts_nil | with_reducible apply Out.puts_cons
      | with_reducible apply Out.put | with_reducible apply Out.when | with_reducible apply Out.putI
      | with_reducible apply State.trzWedge_out | with_reducible apply State.setBit_out
      | with_reducible apply State.withdraw_out | exact Key.hasA rfl | exact Key.hasW | exact Out.sub hL rfl
      | intro _ | with_reducible apply Out.ite | split | dsimp only [id_eq]
      | (rename_i e; with_reducible refine Out.of_eq e ?_)

theorem State.postFeed_out {s : State} (a : Nat) (h₀ : Out L₀ s₀ s)
    (hL : Key.sub [.w 16 6553600, .w 16 6619136, .w 16 6684672, .w 16 6750208, .w 16 6815744, .w 16 23330816] L₀ = true) :
    Out L₀ s₀ (State.postFeed s a) := by
  unfold State.postFeed
  repeat'
    first
      | with_reducible assumption | with_reducible apply Out.puts_nil | with_reducible apply Out.puts_cons
      | with_reducible apply Out.put | exact Key.hasA rfl | exact Key.hasW | exact Out.sub hL rfl | intro _
      | with_reducible apply Out.ite | split | dsimp only [id_eq]
      | (rename_i e; with_reducible refine Out.of_eq e ?_)

/-- What `State.wedge` may change. -/
def wedgeOut : List Key :=
  [.w 2 8, .w 2 20, .w 2 24, .a 2 32 4, .w 2 5439488, .w 2 5505024, .w 5 8, .a 5 128 4,
    .w 6 8, .w 6 12, .w 7 12, .w 7 24, .w 7 28, .w 7 17956864, .w 9 8, .w 10 20, .w 10 24, .w 11 8, .w 11 12,
    .a 11 32 4, .a 11 48 4, .w 11 84, .w 12 8, .w 12 12, .w 12 48, .w 12 52, .w 12 84, .w 12 92, .w 13 8, .w 13 12,
    .w 13 76, .w 13 1572864, .w 13 2359296, .w 13 2424832, .w 13 20250624, .w 14 8, .w 14 12, .w 14 20, .w 14 24,
    .w 14 28, .w 14 32, .w 14 56, .w 14 64, .w 14 68, .w 14 72, .w 14 76, .w 14 80, .w 14 84, .w 14 88, .w 14 92,
    .a 14 256 8, .w 14 2752512, .w 14 2818048, .w 14 2883584, .w 14 2949120, .w 14 3014656, .w 14 3080192,
    .w 14 3145728, .w 14 3211264, .w 14 3276800, .w 14 3342336, .w 14 3407872, .w 14 3473408, .w 14 3538944,
    .w 14 3604480, .w 14 3670016, .w 14 3735552, .w 14 3801088, .w 14 3866624, .w 14 3932160, .w 14 3997696,
    .w 14 4128768, .w 14 4194304, .w 14 4259840, .w 14 4325376, .w 14 4390912, .w 14 4456448, .w 14 4521984,
    .w 14 4587520, .w 14 4784128, .a 14 4915200 268435456, .w 14 6225920, .w 14 6291456, .w 14 6356992,
    .w 14 6422528, .w 14 20512768, .w 14 21168128, .w 14 21299200, .w 14 21430272, .w 14 21495808, .w 14 21626880,
    .w 14 21692416, .w 14 21757952, .w 14 22675456, .w 14 22806528, .w 15 8, .w 15 12, .a 15 24 4, .w 15 52,
    .a 15 512 4, .a 15 7077888 268435456, .w 15 7667712, .w 15 7798784, .a 15 8126464 268435456,
    .a 15 8454144 268435456, .a 15 21889024 268435456, .a 15 22872064 268435456, .w 16 8, .w 16 6553600,
    .w 16 6619136, .w 16 6684672, .w 16 6750208, .w 16 6815744, .w 16 8519680, .w 16 8912896, .w 16 9502720,
    .w 16 9568256, .w 16 10551296, .w 16 10878976, .w 16 23068672, .w 16 23330816, .w 16 23789568, .w 17 8,
    .w 17 12, .w 17 72, .a 17 6488064 268435456, .w 17 12320768, .a 17 12713984 268435456, .a 17 12779520 268435456,
    .w 17 13762560, .a 17 24903680 268435456, .w 18 8, .w 18 12, .w 18 72, .w 18 786432, .w 18 20578304, .w 19 12,
    .w 19 16, .w 19 1114112, .w 19 1179648, .a 19 1245184 268435456, .a 19 1310720 268435456,
    .a 19 1376256 268435456, .a 19 22413312 268435456, .a 19 22478848 268435456, .w 20 8, .w 20 12, .a 20 32 4,
    .w 22 8, .w 22 12, .w 64 6881280, .a 65 15335424 268435456, .a 65 15400960 268435456, .a 65 22347776 268435456,
    .w 66 5046272, .p .win, .p .free, .p .edges, .p .inbox, .p .chn, .p .seqs, .p .mcache, .p .pa, .p .jq, .p .jact,
    .p .jobNo, .p .cmds, .p .cqs, .p .ctrls, .p .nss, .p .zones, .p .bands, .p .vol, .p .points, .p .mops, .p .opid,
    .p .journal, .p .jseq, .p .rung6, .p .amps, .p .sams, .p .loops, .p .blks, .p .fops, .p .fwait, .p .errlog,
    .p .pkt, .p .hbm, .p .poison, .p .lost, .p .kvLog, .p .stripes, .p .weakSlots]

theorem State.wedge_out {s : State} (a : Nat) (w : WedgeRead) (found : Option Nat) (h₀ : Out L₀ s₀ s)
    (hL : Key.sub wedgeOut L₀ = true) :
    Out L₀ s₀ (State.wedge s a w found) := by
  unfold State.wedge
  repeat'
    first
      | with_reducible assumption | with_reducible apply State.heaterAtWedge_out
      | with_reducible apply State.ofsAtWedge_out | with_reducible apply Out.put | with_reducible apply Out.count
      | with_reducible apply State.refreshFeed_out | with_reducible apply State.keepSam_out
      | with_reducible apply State.indexStep_out | with_reducible apply Out.when
      | with_reducible apply State.postSample_out | with_reducible apply State.wedgeHeader_out
      | with_reducible apply State.postFeed_out | with_reducible apply State.hskewUpdate_out
      | with_reducible apply State.maWedge_out | with_reducible apply State.afterMate_out
      | with_reducible apply State.rung2Late_out | with_reducible apply State.srvStep_out | exact Key.hasA rfl
      | exact Key.hasW | exact Out.sub hL rfl | intro _ | with_reducible apply Out.ite | split | dsimp only [id_eq]
      | (rename_i e; with_reducible refine Out.of_eq e ?_) | with_reducible apply Out.setAmps

theorem servoWedge_out (a : Act) (w : WedgeRead) {s : State} (h₀ : Out L₀ s₀ s)
    (hL : Key.sub wedgeOut L₀ = true) :
    Out L₀ s₀ (servoWedge a w s) := by
  unfold servoWedge
  repeat'
    first
      | with_reducible assumption | with_reducible apply State.wedge_out | exact Key.hasA rfl | exact Key.hasW
      | exact Out.sub hL rfl | intro _ | with_reducible apply Out.ite | split | dsimp only [id_eq]
      | (rename_i e; with_reducible refine Out.of_eq e ?_)

theorem samPredicted_out (a : Act) (w : WedgeRead) {s : State} (h₀ : Out L₀ s₀ s)
    (hL : Key.sub wedgeOut L₀ = true) :
    Out L₀ s₀ (samPredicted a w s) := by
  unfold samPredicted
  repeat'
    first
      | with_reducible assumption | with_reducible apply State.wedge_out | exact Key.hasA rfl | exact Key.hasW
      | exact Out.sub hL rfl | intro _ | with_reducible apply Out.ite | split | dsimp only [id_eq]
      | (rename_i e; with_reducible refine Out.of_eq e ?_)

/-- What `seekStart` may change. -/
def seekStartOut : List Key :=
  [.w 12 8, .w 13 8, .w 13 12, .w 13 76, .w 13 1572864, .w 13 2359296, .w 13 2424832,
    .w 13 20250624, .w 14 8, .w 14 12, .w 14 20, .w 14 24, .w 14 84, .w 14 3211264, .w 14 3342336, .w 14 3407872,
    .w 14 3473408, .w 14 3538944, .w 14 3604480, .w 14 3670016, .w 14 3735552, .w 14 4259840, .w 14 4325376,
    .w 14 21692416, .w 14 22282240, .w 18 8, .w 18 12, .w 18 72, .w 18 786432, .w 18 20578304, .w 19 16,
    .a 19 1310720 268435456, .a 19 1376256 268435456, .a 19 22413312 268435456, .a 19 22478848 268435456, .p .edges,
    .p .inbox, .p .chn, .p .seqs, .p .pa]

theorem seekStart_out (a : Act) (track : BitVec 24) {s : State} (h₀ : Out L₀ s₀ s)
    (hL : Key.sub seekStartOut L₀ = true) :
    Out L₀ s₀ (seekStart a track s) := by
  unfold seekStart
  repeat'
    first
      | with_reducible assumption | with_reducible apply Out.puts_nil | with_reducible apply Out.puts_cons
      | with_reducible apply Out.put | with_reducible apply State.seekTo_out | exact Key.hasA rfl | exact Key.hasW
      | exact Out.sub hL rfl | intro _ | with_reducible apply Out.ite | split | dsimp only [id_eq]
      | (rename_i e; with_reducible refine Out.of_eq e ?_)

theorem State.seekFailed_out {s : State} (a : Nat) (h₀ : Out L₀ s₀ s)
    (hL : Key.sub [.w 2 8, .w 2 20, .w 2 24, .a 2 32 4, .w 2 5439488, .w 2 5505024, .w 6 8, .w 6 12, .w 7 12, .w 7 24, .w 7 28,
    .w 7 17956864, .w 9 8, .w 10 20, .w 10 24, .w 11 8, .w 11 12, .a 11 32 4, .a 11 48 4, .w 11 76, .w 20 8,
    .w 20 12, .a 20 32 4, .a 65 5767168 268435456, .a 65 15335424 268435456, .a 65 15400960 268435456,
    .a 65 22347776 268435456, .p .free, .p .edges, .p .inbox, .p .mcache, .p .jq, .p .jact, .p .jobNo, .p .cmds,
    .p .cqs, .p .ctrls, .p .nss, .p .zones, .p .bands, .p .vol, .p .dur, .p .points, .p .mops, .p .opid,
    .p .journal, .p .jseq, .p .blks, .p .fops, .p .fwait, .p .errlog, .p .pkt, .p .hbm, .p .poison, .p .lost,
    .p .kvLog, .p .stripes] L₀ = true) :
    Out L₀ s₀ (State.seekFailed s a) := by
  unfold State.seekFailed
  repeat'
    first
      | with_reducible assumption | with_reducible apply State.writeFailed_out
      | with_reducible apply State.setJob_out | with_reducible apply State.endJob_out | exact Key.hasA rfl
      | exact Key.hasW | exact Out.sub hL rfl | intro _ | with_reducible apply Out.ite | split | dsimp only [id_eq]
      | (rename_i e; with_reducible refine Out.of_eq e ?_)

/-- What `seekTimeout` may change. -/
def seekTimeoutOut : List Key :=
  [.w 2 8, .w 2 20, .w 2 24, .a 2 32 4, .w 2 5439488, .w 2 5505024, .w 6 8,
    .w 6 12, .w 7 12, .w 7 24, .w 7 28, .w 7 17956864, .w 9 8, .w 10 20, .w 10 24, .w 11 8, .w 11 12, .a 11 32 4,
    .a 11 48 4, .w 11 76, .w 12 8, .w 13 8, .w 13 12, .w 13 76, .w 13 1572864, .w 13 2359296, .w 13 2424832,
    .w 13 20250624, .w 14 8, .w 14 12, .w 14 24, .w 14 84, .w 14 88, .w 14 3211264, .w 14 3342336, .w 14 3407872,
    .w 14 3473408, .w 14 3538944, .w 14 3604480, .w 14 3670016, .w 14 3735552, .w 14 3801088, .w 14 3866624,
    .w 14 3932160, .w 14 4194304, .w 14 4259840, .w 14 4325376, .w 14 21495808, .w 14 21692416, .w 14 21757952,
    .w 14 22282240, .w 14 22675456, .w 14 22806528, .w 18 8, .w 18 12, .w 18 72, .w 18 786432, .w 18 20578304,
    .w 19 12, .w 19 16, .w 19 1114112, .w 19 1179648, .a 19 1310720 268435456, .a 19 1376256 268435456,
    .a 19 22413312 268435456, .a 19 22478848 268435456, .w 20 8, .w 20 12, .a 20 32 4, .a 65 5767168 268435456,
    .a 65 15335424 268435456, .a 65 15400960 268435456, .a 65 22347776 268435456, .p .free, .p .edges, .p .inbox,
    .p .chn, .p .seqs, .p .mcache, .p .pa, .p .jq, .p .jact, .p .jobNo, .p .cmds, .p .cqs, .p .ctrls, .p .nss,
    .p .zones, .p .bands, .p .vol, .p .dur, .p .points, .p .mops, .p .opid, .p .journal, .p .jseq, .p .blks,
    .p .fops, .p .fwait, .p .errlog, .p .pkt, .p .hbm, .p .poison, .p .lost, .p .kvLog, .p .stripes]

theorem seekTimeout_out (a : Act) {s : State} (h₀ : Out L₀ s₀ s)
    (hL : Key.sub seekTimeoutOut L₀ = true) :
    Out L₀ s₀ (seekTimeout a s) := by
  unfold seekTimeout
  repeat'
    first
      | with_reducible assumption | with_reducible apply State.seekError_out | with_reducible apply Out.puts_nil
      | with_reducible apply Out.puts_cons | with_reducible apply Out.put | with_reducible apply State.setSrv_out
      | with_reducible apply State.seekFailed_out | with_reducible apply State.seekLimit_out | exact Key.hasA rfl
      | exact Key.hasW | exact Out.sub hL rfl | intro _ | with_reducible apply Out.ite | split | dsimp only [id_eq]
      | (rename_i e; with_reducible refine Out.of_eq e ?_)

theorem State.loadsBegun_out {s : State} (h₀ : Out L₀ s₀ s)
    (hL : Key.sub [.w 5 8, .a 5 128 4] L₀ = true) :
    Out L₀ s₀ (State.loadsBegun s) := by
  unfold State.loadsBegun
  repeat'
    first
      | with_reducible assumption | with_reducible apply State.stepEnd_out | exact Key.hasA rfl | exact Key.hasW
      | exact Out.sub hL rfl | intro _ | with_reducible apply Out.ite | split | dsimp only [id_eq]
      | (rename_i e; with_reducible refine Out.of_eq e ?_)

/-- What `State.loadBegin` may change. -/
def loadBeginOut : List Key :=
  [.w 5 8, .a 5 128 4, .w 14 8, .w 14 3211264, .w 14 3342336, .w 14 3407872,
    .w 14 3473408, .w 14 3932160, .w 14 4128768, .w 14 4653056, .w 14 4784128, .w 14 4849664, .w 14 21561344,
    .w 14 22675456, .w 16 24707072, .a 17 13697024 268435456]

theorem State.loadBegin_out {s : State} (a : Nat) (h₀ : Out L₀ s₀ s)
    (hL : Key.sub loadBeginOut L₀ = true) :
    Out L₀ s₀ (State.loadBegin s a) := by
  unfold State.loadBegin
  repeat'
    first
      | with_reducible assumption | with_reducible apply State.loadsBegun_out | with_reducible apply State.setSrv_out
      | with_reducible apply Out.puts_nil | with_reducible apply Out.puts_cons | with_reducible apply Out.put
      | exact Key.hasA rfl | exact Key.hasW | exact Out.sub hL rfl | intro _ | with_reducible apply Out.ite | split
      | dsimp only [id_eq] | (rename_i e; with_reducible refine Out.of_eq e ?_)

/-- What `loadRequest` may change. -/
def loadRequestOut : List Key :=
  [.w 5 8, .a 5 128 4, .w 14 8, .w 14 3211264, .w 14 3342336, .w 14 3407872,
    .w 14 3473408, .w 14 3932160, .w 14 4128768, .w 14 4653056, .w 14 4784128, .w 14 4849664, .w 14 21561344,
    .w 14 22675456, .w 16 8, .w 16 8519680, .w 16 8912896, .w 16 9502720, .w 16 9568256, .w 16 10551296,
    .w 16 23068672, .w 16 23789568, .w 16 24707072, .a 17 13697024 268435456, .w 17 13762560, .p .win]

theorem loadRequest_out (a : Act) {s : State} (h₀ : Out L₀ s₀ s)
    (hL : Key.sub loadRequestOut L₀ = true) :
    Out L₀ s₀ (loadRequest a s) := by
  unfold loadRequest
  repeat'
    first
      | with_reducible assumption | with_reducible apply Out.put | with_reducible apply State.crlTo_out
      | with_reducible apply State.loadBegin_out | exact Key.hasA rfl | exact Key.hasW | exact Out.sub hL rfl
      | intro _ | with_reducible apply Out.ite | split | dsimp only [id_eq]
      | (rename_i e; with_reducible refine Out.of_eq e ?_)

theorem loadDeferredStart_out (a : Act) {s : State} (h₀ : Out L₀ s₀ s)
    (hL : Key.sub loadBeginOut L₀ = true) :
    Out L₀ s₀ (loadDeferredStart a s) := by
  unfold loadDeferredStart
  repeat'
    first
      | with_reducible assumption | with_reducible apply State.loadBegin_out | exact Key.hasA rfl | exact Key.hasW
      | exact Out.sub hL rfl | intro _ | with_reducible apply Out.ite | split | dsimp only [id_eq]
      | (rename_i e; with_reducible refine Out.of_eq e ?_)

/-- What `loadingOffRamp` may change. -/
def loadingOffRampOut : List Key :=
  [.a 2 32 4, .w 12 8, .w 13 8, .w 13 12, .w 13 76, .w 13 1572864,
    .w 13 2359296, .w 13 2424832, .w 13 20250624, .w 14 8, .w 14 12, .w 14 24, .w 14 84, .w 14 3211264,
    .w 14 3342336, .w 14 3407872, .w 14 3473408, .w 14 3538944, .w 14 4194304, .w 14 4259840, .w 14 4325376,
    .w 14 4784128, .w 14 21692416, .w 14 21757952, .w 14 22675456, .w 14 22806528, .a 17 6488064 268435456, .w 18 8,
    .w 18 12, .w 18 72, .w 18 786432, .w 18 20578304, .w 19 12, .w 19 16, .w 19 1114112, .w 19 1179648,
    .a 19 1310720 268435456, .a 19 1376256 268435456, .a 19 22413312 268435456, .a 19 22478848 268435456, .p .edges,
    .p .inbox, .p .chn, .p .seqs, .p .pa, .p .jq, .p .jact, .p .amps, .p .sams]

theorem loadingOffRamp_out (a : Act) {s : State} (h₀ : Out L₀ s₀ s)
    (hL : Key.sub loadingOffRampOut L₀ = true) :
    Out L₀ s₀ (loadingOffRamp a s) := by
  unfold loadingOffRamp
  repeat'
    first
      | with_reducible assumption | with_reducible apply State.setSrv_out | with_reducible apply Out.put
      | with_reducible apply State.unloadNow_out | with_reducible apply State.idleHeater_out | exact Key.hasA rfl
      | exact Key.hasW | exact Out.sub hL rfl | intro _ | with_reducible apply Out.ite | split | dsimp only [id_eq]
      | (rename_i e; with_reducible refine Out.of_eq e ?_) | with_reducible apply Out.setAmpsSams

/-- What `acquireTimeout` may change. -/
def acquireTimeoutOut : List Key :=
  [.a 2 32 4, .w 11 8, .w 11 12, .w 11 84, .w 12 8, .w 13 8, .w 13 12, .w 13 76,
    .w 13 1572864, .w 13 2359296, .w 13 2424832, .w 13 20250624, .w 14 8, .w 14 12, .w 14 24, .w 14 84,
    .w 14 3211264, .w 14 3342336, .w 14 3407872, .w 14 3473408, .w 14 3538944, .w 14 3997696, .w 14 4063232,
    .w 14 4194304, .w 14 4259840, .w 14 4325376, .w 14 21692416, .w 14 21757952, .w 14 22675456, .w 14 22806528,
    .w 18 8, .w 18 12, .w 18 72, .w 18 786432, .w 18 20578304, .w 19 12, .w 19 16, .w 19 1114112, .w 19 1179648,
    .a 19 1310720 268435456, .a 19 1376256 268435456, .a 19 22413312 268435456, .a 19 22478848 268435456, .p .edges,
    .p .inbox, .p .chn, .p .seqs, .p .pa, .p .jq, .p .jact]

theorem acquireTimeout_out (a : Act) {s : State} (h₀ : Out L₀ s₀ s)
    (hL : Key.sub acquireTimeoutOut L₀ = true) :
    Out L₀ s₀ (acquireTimeout a s) := by
  unfold acquireTimeout
  repeat'
    first
      | with_reducible assumption | with_reducible apply State.unloadNow_out | with_reducible apply Out.put
      | with_reducible apply State.refreshAct_out | with_reducible apply Out.post | with_reducible apply Out.evt
      | exact Key.hasA rfl | exact Key.hasW | exact Out.sub hL rfl | intro _ | with_reducible apply Out.ite | split
      | dsimp only [id_eq] | (rename_i e; with_reducible refine Out.of_eq e ?_)

theorem holdRelockTimeout_out (a : Act) {s : State} (h₀ : Out L₀ s₀ s)
    (hL : Key.sub toUnloadingOut L₀ = true) :
    Out L₀ s₀ (holdRelockTimeout a s) := by
  unfold holdRelockTimeout
  repeat'
    first
      | with_reducible assumption | with_reducible apply State.unloadNow_out | exact Key.hasA rfl | exact Key.hasW
      | exact Out.sub hL rfl | intro _ | with_reducible apply Out.ite | split | dsimp only [id_eq]
      | (rename_i e; with_reducible refine Out.of_eq e ?_)

theorem loadRetry_out (a : Act) {s : State} (h₀ : Out L₀ s₀ s)
    (hL : Key.sub loadRequestOut L₀ = true) :
    Out L₀ s₀ (loadRetry a s) := by
  unfold loadRetry
  repeat'
    first
      | with_reducible assumption | with_reducible apply loadRequest_out | exact Key.hasA rfl | exact Key.hasW
      | exact Out.sub hL rfl | intro _ | with_reducible apply Out.ite | split | dsimp only [id_eq]
      | (rename_i e; with_reducible refine Out.of_eq e ?_)

theorem unloadRequestCmd_out (a : Act) (soon : Bool) {s : State} (h₀ : Out L₀ s₀ s)
    (hL : Key.sub unloadRequestOut L₀ = true) :
    Out L₀ s₀ (unloadRequestCmd a soon s) := by
  unfold unloadRequestCmd
  repeat'
    first
      | with_reducible assumption | with_reducible apply State.unloadRequest_out | exact Key.hasA rfl
      | exact Key.hasW | exact Out.sub hL rfl | intro _ | with_reducible apply Out.ite | split | dsimp only [id_eq]
      | (rename_i e; with_reducible refine Out.of_eq e ?_)

theorem headsOnRamp_out (a : Act) {s : State} (h₀ : Out L₀ s₀ s)
    (hL : Key.sub toUnloadedOut L₀ = true) :
    Out L₀ s₀ (headsOnRamp a s) := by
  unfold headsOnRamp
  repeat'
    first
      | with_reducible assumption | with_reducible apply State.toUnloaded_out | exact Key.hasA rfl | exact Key.hasW
      | exact Out.sub hL rfl | intro _ | with_reducible apply Out.ite | split | dsimp only [id_eq]
      | (rename_i e; with_reducible refine Out.of_eq e ?_)

theorem State.maJudge_out {s : State} (a : Nat) (l : Nat) (measured : Nat) (h₀ : Out L₀ s₀ s)
    (hL : Key.sub [.w 14 8, .w 14 12, .w 14 22675456, .p .edges, .p .inbox] L₀ = true) :
    Out L₀ s₀ (State.maJudge s a l measured) := by
  unfold State.maJudge
  repeat'
    first
      | with_reducible assumption | with_reducible apply Out.post | with_reducible apply Out.evt
      | with_reducible apply Out.puts_nil | with_reducible apply Out.puts_cons | with_reducible apply Out.put
      | exact Key.hasA rfl | exact Key.hasW | exact Out.sub hL rfl | intro _ | with_reducible apply Out.ite | split
      | dsimp only [id_eq] | (rename_i e; with_reducible refine Out.of_eq e ?_)

/-- What `maStrokeMeasure` may change. -/
def maStrokeMeasureOut : List Key :=
  [.w 14 8, .w 14 12, .w 14 4653056, .w 14 22675456, .w 14 22740992, .p .edges,
    .p .inbox]

theorem maStrokeMeasure_out (a : Act) (measured : BitVec 16) {s : State} (h₀ : Out L₀ s₀ s)
    (hL : Key.sub maStrokeMeasureOut L₀ = true) :
    Out L₀ s₀ (maStrokeMeasure a measured s) := by
  unfold maStrokeMeasure
  repeat'
    first
      | with_reducible assumption | with_reducible apply State.maJudge_out | with_reducible apply Out.puts_nil
      | with_reducible apply Out.puts_cons | with_reducible apply Out.put | exact Key.hasA rfl | exact Key.hasW
      | exact Out.sub hL rfl | intro _ | with_reducible apply Out.ite | split | dsimp only [id_eq]
      | (rename_i e; with_reducible refine Out.of_eq e ?_)

/-- What `State.srvEnable` may change. -/
def srvEnableOut : List Key :=
  [.w 14 0, .w 14 4, .w 14 8, .w 14 3211264, .w 14 3342336, .w 14 3407872,
    .w 14 3473408]

theorem State.srvEnable_out {s : State} (a : Nat) (h₀ : Out L₀ s₀ s)
    (hL : Key.sub srvEnableOut L₀ = true) :
    Out L₀ s₀ (State.srvEnable s a).1 := by
  unfold State.srvEnable
  repeat'
    first
      | with_reducible assumption | with_reducible apply State.enable_out | with_reducible apply State.setSrv_out
      | exact Key.hasA rfl | exact Key.hasW | exact Out.sub hL rfl | intro _ | with_reducible apply Out.ite | split
      | dsimp only [id_eq] | (rename_i e; with_reducible refine Out.of_eq e ?_)

theorem srvEnableCmd_out (a : Act) {s : State} (h₀ : Out L₀ s₀ s)
    (hL : Key.sub srvEnableOut L₀ = true) :
    Out L₀ s₀ (srvEnableCmd a s) := by
  unfold srvEnableCmd
  repeat'
    first
      | with_reducible assumption | with_reducible apply State.srvEnable_out | exact Key.hasA rfl | exact Key.hasW
      | exact Out.sub hL rfl | intro _ | with_reducible apply Out.ite | split | dsimp only [id_eq]
      | (rename_i e; with_reducible refine Out.of_eq e ?_)

theorem State.srvDisable_out {s : State} (a : Nat) (h₀ : Out L₀ s₀ s)
    (hL : Key.sub [.a 2 32 4, .w 11 8, .w 11 12, .w 11 84, .w 12 8, .w 13 8, .w 13 12, .w 13 76, .w 13 1572864, .w 13 2359296,
    .w 13 2424832, .w 13 20250624, .w 14 0, .w 14 8, .w 14 12, .w 14 24, .w 14 84, .w 14 3211264, .w 14 3342336,
    .w 14 3407872, .w 14 3473408, .w 14 3538944, .w 14 3932160, .w 14 3997696, .w 14 4063232, .w 14 4128768,
    .w 14 4259840, .w 14 4325376, .w 14 21692416, .w 14 21757952, .w 14 22675456, .w 18 8, .w 18 12, .w 18 72,
    .w 18 786432, .w 18 20578304, .w 19 16, .a 19 1310720 268435456, .a 19 1376256 268435456,
    .a 19 22413312 268435456, .a 19 22478848 268435456, .p .edges, .p .inbox, .p .chn, .p .seqs, .p .pa] L₀ = true) :
    Out L₀ s₀ (State.srvDisable s a) := by
  unfold State.srvDisable
  repeat'
    first
      | with_reducible assumption | with_reducible apply State.refreshAct_out | with_reducible apply State.setSrv_out
      | with_reducible apply Out.puts_nil | with_reducible apply Out.puts_cons | with_reducible apply Out.put
      | with_reducible apply State.withdraw_out | exact Key.hasA rfl | exact Key.hasW | exact Out.sub hL rfl
      | intro _ | with_reducible apply Out.ite | split | dsimp only [id_eq]
      | (rename_i e; with_reducible refine Out.of_eq e ?_)

theorem State.ofsWrite_out {s : State} (a : Nat) (v : Nat) (h₀ : Out L₀ s₀ s)
    (hL : Key.sub withdrawOut L₀ = true) :
    Out L₀ s₀ (State.ofsWrite s a v).1 := by
  unfold State.ofsWrite
  repeat'
    first
      | with_reducible assumption | with_reducible apply Out.when | with_reducible apply Out.puts_nil
      | with_reducible apply Out.puts_cons | with_reducible apply Out.put | with_reducible apply State.withdraw_out
      | exact Key.hasA rfl | exact Key.hasW | exact Out.sub hL rfl | intro _ | with_reducible apply Out.ite | split
      | dsimp only [id_eq] | (rename_i e; with_reducible refine Out.of_eq e ?_)

theorem srvOfsWriteCmd_out (a : Act) (v : BitVec 16) {s : State} (h₀ : Out L₀ s₀ s)
    (hL : Key.sub withdrawOut L₀ = true) :
    Out L₀ s₀ (srvOfsWriteCmd a v s) := by
  unfold srvOfsWriteCmd
  repeat'
    first
      | with_reducible assumption | with_reducible apply State.ofsWrite_out | exact Key.hasA rfl | exact Key.hasW
      | exact Out.sub hL rfl | intro _ | with_reducible apply Out.ite | split | dsimp only [id_eq]
      | (rename_i e; with_reducible refine Out.of_eq e ?_)

theorem execServoWedge_out (a : Act) (w : WedgeRead) {s t : State} (h : execServoWedge a w s = .next t) :
    Out wedgeOut s t := by
  have h := Host.Outcome.next.inj h; subst h; exact servoWedge_out _ _ (Out.refl s) rfl

theorem execSamPredicted_out (a : Act) (w : WedgeRead) {s t : State} (h : execSamPredicted a w s = .next t) :
    Out wedgeOut s t := by
  have h := Host.Outcome.next.inj h; subst h; exact samPredicted_out _ _ (Out.refl s) rfl

theorem execSeekStart_out (a : Act) (track : BitVec 24) {s t : State} (h : execSeekStart a track s = .next t) :
    Out seekStartOut s t := by
  have h := Host.Outcome.next.inj h; subst h; exact seekStart_out _ _ (Out.refl s) rfl

theorem execSeekTimeout_out (a : Act) {s t : State} (h : execSeekTimeout a s = .next t) :
    Out seekTimeoutOut s t := by
  have h := Host.Outcome.next.inj h; subst h; exact seekTimeout_out _ (Out.refl s) rfl

theorem execLoadRequest_out (a : Act) {s t : State} (h : execLoadRequest a s = .next t) :
    Out loadRequestOut s t := by
  have h := Host.Outcome.next.inj h; subst h; exact loadRequest_out _ (Out.refl s) rfl

theorem execLoadDeferredStart_out (a : Act) {s t : State} (h : execLoadDeferredStart a s = .next t) :
    Out loadBeginOut s t := by
  have h := Host.Outcome.next.inj h; subst h; exact loadDeferredStart_out _ (Out.refl s) rfl

theorem execLoadingOffRamp_out (a : Act) {s t : State} (h : execLoadingOffRamp a s = .next t) :
    Out loadingOffRampOut s t := by
  have h := Host.Outcome.next.inj h; subst h; exact loadingOffRamp_out _ (Out.refl s) rfl

theorem execAcquireTimeout_out (a : Act) {s t : State} (h : execAcquireTimeout a s = .next t) :
    Out acquireTimeoutOut s t := by
  have h := Host.Outcome.next.inj h; subst h; exact acquireTimeout_out _ (Out.refl s) rfl

theorem execHoldRelockTimeout_out (a : Act) {s t : State} (h : execHoldRelockTimeout a s = .next t) :
    Out toUnloadingOut s t := by
  have h := Host.Outcome.next.inj h; subst h; exact holdRelockTimeout_out _ (Out.refl s) rfl

theorem execLoadRetry_out (a : Act) {s t : State} (h : execLoadRetry a s = .next t) :
    Out loadRequestOut s t := by
  have h := Host.Outcome.next.inj h; subst h; exact loadRetry_out _ (Out.refl s) rfl

theorem execUnloadRequest_out (a : Act) (soon : Bool) {s t : State} (h : execUnloadRequest a soon s = .next t) :
    Out unloadRequestOut s t := by
  have h := Host.Outcome.next.inj h; subst h; exact unloadRequestCmd_out _ _ (Out.refl s) rfl

theorem execMaStrokeMeasure_out (a : Act) (measured : BitVec 16) {s t : State} (h : execMaStrokeMeasure a measured s = .next t) :
    Out maStrokeMeasureOut s t := by
  have h := Host.Outcome.next.inj h; subst h; exact maStrokeMeasure_out _ _ (Out.refl s) rfl

theorem execSrvEnable_out (a : Act) {s t : State} (h : execSrvEnable a s = .next t) :
    Out srvEnableOut s t := by
  have h := Host.Outcome.next.inj h; subst h; exact srvEnableCmd_out _ (Out.refl s) rfl

theorem execSrvOfsWrite_out (a : Act) (v : BitVec 16) {s t : State} (h : execSrvOfsWrite a v s = .next t) :
    Out withdrawOut s t := by
  have h := Host.Outcome.next.inj h; subst h; exact srvOfsWriteCmd_out _ _ (Out.refl s) rfl

end Sys2Proof.Machine
end

