-- ==== Sys2Proof/Laws/OutTrapeze.lean ====
section
/-!
SUPPORT. What each operation and each command of `Machine/Trapeze.lean` can change.
-/

namespace Sys2Proof.Machine

set_option Elab.async false
set_option linter.unusedVariables false

set_option maxRecDepth 8000
set_option linter.unusedTactic false
set_option linter.unreachableTactic false

variable {L₀ : List Key} {s₀ : State}

theorem State.shipGroups_out {s : State} (h₀ : Out L₀ s₀ s)
    (hL : Key.sub [.p .win] L₀ = true) :
    Out L₀ s₀ (State.shipGroups s) := by
  unfold State.shipGroups
  repeat'
    first
      | with_reducible assumption | with_reducible apply Out.forAll | with_reducible apply Out.when
      | with_reducible apply State.putWin_out | exact Key.hasA rfl | exact Key.hasW | exact Out.sub hL rfl | intro _
      | with_reducible apply Out.ite | split | dsimp only [id_eq]
      | (rename_i e; with_reducible refine Out.of_eq e ?_)

theorem State.learnPoint_out {s : State} (table : Nat) (pt : Nat) (off : Nat) (step : Int) (h₀ : Out L₀ s₀ s)
    (hL : Key.sub [.w 15 12, .p .win, .p .edges, .p .inbox] L₀ = true) :
    Out L₀ s₀ (State.learnPoint s table pt off step) := by
  unfold State.learnPoint
  repeat'
    first
      | with_reducible assumption | with_reducible apply Out.when | with_reducible apply State.putWin_out
      | with_reducible apply Out.post | with_reducible apply Out.evt | exact Key.hasA rfl | exact Key.hasW
      | exact Out.sub hL rfl | intro _ | with_reducible apply Out.ite | split | dsimp only [id_eq]
      | (rename_i e; with_reducible refine Out.of_eq e ?_)

theorem State.learnVcm_out {s : State} (n : Nat) (out : Int) (h₀ : Out L₀ s₀ s)
    (hL : Key.sub [.w 15 12, .a 15 8126464 268435456, .a 15 8192000 268435456, .a 15 8257536 268435456, .p .win, .p .edges, .p .inbox] L₀ = true) :
    Out L₀ s₀ (State.learnVcm s n out) := by
  unfold State.learnVcm
  repeat'
    first
      | with_reducible assumption | with_reducible apply Out.put | with_reducible apply State.lpView_out
      | with_reducible apply Out.putI | with_reducible apply Out.puts_nil | with_reducible apply Out.puts_cons
      | with_reducible apply State.learnPoint_out | exact Key.hasA rfl | exact Key.hasW | exact Out.sub hL rfl
      | intro _ | with_reducible apply Out.ite | split | dsimp only [id_eq]
      | (rename_i e; with_reducible refine Out.of_eq e ?_)

theorem State.learnCog_out {s : State} (n : Nat) (out : Int) (h₀ : Out L₀ s₀ s)
    (hL : Key.sub [.w 15 12, .w 15 8323072, .w 15 8388608, .w 15 23003136, .p .win, .p .edges, .p .inbox, .p .cog] L₀ = true) :
    Out L₀ s₀ (State.learnCog s n out) := by
  unfold State.learnCog
  repeat'
    first
      | with_reducible assumption | with_reducible apply Out.put | with_reducible apply Out.puts_nil
      | with_reducible apply Out.puts_cons | with_reducible apply Out.forAll
      | with_reducible apply State.learnPoint_out | with_reducible apply Out.foldl
      | with_reducible apply Out.foldlFst | exact Key.hasA rfl | exact Key.hasW | exact Out.sub hL rfl | intro _
      | with_reducible apply Out.ite | split | dsimp only [id_eq]
      | (rename_i e; with_reducible refine Out.of_eq e ?_) | with_reducible apply Out.setCog

theorem State.refreshInh_out {s : State} (h₀ : Out L₀ s₀ s)
    (hL : Key.sub [.a 15 8454144 268435456] L₀ = true) :
    Out L₀ s₀ (State.refreshInh s) := by
  unfold State.refreshInh
  repeat'
    first
      | with_reducible assumption | with_reducible apply Out.forAll | with_reducible apply Out.putB
      | exact Key.hasA rfl | exact Key.hasW | exact Out.sub hL rfl | intro _ | with_reducible apply Out.ite | split
      | dsimp only [id_eq] | (rename_i e; with_reducible refine Out.of_eq e ?_)

theorem State.supervise_out {s : State} (n : Nat) (err : Int) (h₀ : Out L₀ s₀ s)
    (hL : Key.sub [.a 2 32 4, .w 12 8, .w 13 8, .w 13 12, .w 13 76, .w 13 1572864, .w 13 2359296, .w 13 2424832, .w 13 20250624,
    .w 14 8, .w 14 12, .w 14 24, .w 14 84, .w 14 3211264, .w 14 3342336, .w 14 3407872, .w 14 3473408,
    .w 14 3538944, .w 14 4128768, .w 14 4194304, .w 14 4259840, .w 14 4325376, .w 14 4587520, .w 14 4784128,
    .w 14 21692416, .w 14 21757952, .w 14 22675456, .w 14 22806528, .w 15 12, .a 15 32 4, .w 15 52, .a 15 768 4,
    .a 15 8454144 268435456, .w 16 8, .w 16 8519680, .w 16 8912896, .w 16 9502720, .w 16 9568256, .w 16 10551296,
    .w 16 10878976, .w 16 23068672, .w 16 23789568, .w 17 8, .w 17 12, .w 17 72, .a 17 6488064 268435456,
    .w 17 12320768, .a 17 12713984 268435456, .a 17 12779520 268435456, .w 17 13762560, .a 17 24903680 268435456,
    .w 18 8, .w 18 12, .w 18 72, .w 18 786432, .w 18 20578304, .w 19 12, .w 19 16, .w 19 1114112, .w 19 1179648,
    .a 19 1310720 268435456, .a 19 1376256 268435456, .a 19 22413312 268435456, .a 19 22478848 268435456,
    .w 66 5046272, .p .win, .p .edges, .p .inbox, .p .chn, .p .seqs, .p .pa, .p .jq, .p .jact, .p .loops] L₀ = true) :
    Out L₀ s₀ (State.supervise s n err) := by
  unfold State.supervise
  repeat'
    first
      | with_reducible assumption | with_reducible apply State.refreshInh_out
      | with_reducible apply State.setLoop_out | with_reducible apply Out.evt | with_reducible apply Out.count
      | with_reducible apply State.setBit_out | with_reducible apply State.lpDo_out
      | with_reducible apply State.lpMark_out | exact Key.hasA rfl | exact Key.hasW | exact Out.sub hL rfl | intro _
      | with_reducible apply Out.ite | split | dsimp only [id_eq]
      | (rename_i e; with_reducible refine Out.of_eq e ?_)

theorem State.setPws_out (n : Nat) (l : List (Nat × Int)) : ∀ {s : State}, Out L₀ s₀ s → Key.sub [.p .win] L₀ = true →
    Out L₀ s₀ (State.setPws s n l) := by
  induction l with
  | nil => intro s h _; exact h
  | cons e l ih => intro s h hL; exact ih (State.setPw_out _ _ _ h (Out.sub hL rfl)) hL

/-- What `State.lpCommit` may change. -/
def lpCommitOut : List Key :=
  [.a 2 32 4, .w 12 8, .w 13 8, .w 13 12, .w 13 76, .w 13 1572864, .w 13 2359296,
    .w 13 2424832, .w 13 20250624, .w 14 8, .w 14 12, .w 14 24, .w 14 84, .w 14 3211264, .w 14 3342336,
    .w 14 3407872, .w 14 3473408, .w 14 3538944, .w 14 4128768, .w 14 4194304, .w 14 4259840, .w 14 4325376,
    .w 14 4587520, .w 14 4784128, .w 14 21692416, .w 14 21757952, .w 14 22675456, .w 14 22806528, .w 15 8, .w 15 12,
    .a 15 24 4, .a 15 32 4, .w 15 52, .a 15 512 4, .a 15 768 4, .a 15 7012352 268435456, .a 15 7077888 268435456,
    .w 15 7667712, .w 15 7733248, .w 15 7798784, .a 15 8126464 268435456, .a 15 8192000 268435456,
    .a 15 8257536 268435456, .w 15 8323072, .w 15 8388608, .a 15 8454144 268435456, .a 15 21364736 268435456,
    .a 15 21889024 268435456, .a 15 22872064 268435456, .w 15 23003136, .w 16 8, .w 16 8519680, .w 16 8912896,
    .w 16 9502720, .w 16 9568256, .w 16 10551296, .w 16 10878976, .w 16 23068672, .w 16 23789568, .w 17 8, .w 17 12,
    .w 17 72, .a 17 6488064 268435456, .w 17 12320768, .a 17 12713984 268435456, .a 17 12779520 268435456,
    .w 17 13762560, .a 17 24903680 268435456, .w 18 8, .w 18 12, .w 18 72, .w 18 786432, .w 18 20578304, .w 19 12,
    .w 19 16, .w 19 1114112, .w 19 1179648, .a 19 1310720 268435456, .a 19 1376256 268435456,
    .a 19 22413312 268435456, .a 19 22478848 268435456, .w 66 5046272, .p .win, .p .edges, .p .inbox, .p .chn,
    .p .seqs, .p .pa, .p .jq, .p .jact, .p .loops, .p .cog]

theorem State.lpCommit_out {s : State} (n : Nat) (out : Int) (sts : List (Nat × Int)) (ho : Int) (h₀ : Out L₀ s₀ s)
    (hL : Key.sub lpCommitOut L₀ = true) :
    Out L₀ s₀ (State.lpCommit s n out sts ho) := by
  unfold State.lpCommit
  repeat'
    first
      | with_reducible assumption | with_reducible apply State.lpView_out | with_reducible apply Out.when
      | with_reducible apply Out.putI | with_reducible apply State.setPw_out | with_reducible apply State.setPws_out
      | with_reducible apply Out.puts_nil | with_reducible apply Out.puts_cons | with_reducible apply Out.put
      | with_reducible apply State.setLoop_out | with_reducible apply State.learnCog_out
      | with_reducible apply State.learnVcm_out | with_reducible apply State.supervise_out
      | with_reducible apply Out.forAll | with_reducible apply State.lpTrigger_out | exact Key.hasA rfl
      | exact Key.hasW | exact Out.sub hL rfl | intro _ | with_reducible apply Out.ite | split | dsimp only [id_eq]
      | (rename_i e; with_reducible refine Out.of_eq e ?_)

/-- What `loopDispatch` may change. -/
def loopDispatchOut : List Key :=
  [.a 2 32 4, .w 12 8, .w 13 8, .w 13 12, .w 13 76, .w 13 1572864, .w 13 2359296,
    .w 13 2424832, .w 13 20250624, .w 14 8, .w 14 12, .w 14 24, .w 14 84, .w 14 3211264, .w 14 3342336,
    .w 14 3407872, .w 14 3473408, .w 14 3538944, .w 14 4128768, .w 14 4194304, .w 14 4259840, .w 14 4325376,
    .w 14 4587520, .w 14 4784128, .w 14 21692416, .w 14 21757952, .w 14 22675456, .w 14 22806528, .w 15 8, .w 15 12,
    .a 15 24 4, .a 15 32 4, .w 15 52, .a 15 512 4, .a 15 768 4, .a 15 7012352 268435456, .a 15 7077888 268435456,
    .w 15 7143424, .w 15 7208960, .w 15 7274496, .w 15 7340032, .w 15 7405568, .w 15 7471104, .w 15 7667712,
    .w 15 7733248, .w 15 7798784, .a 15 8126464 268435456, .a 15 8192000 268435456, .a 15 8257536 268435456,
    .w 15 8323072, .w 15 8388608, .a 15 8454144 268435456, .a 15 21364736 268435456, .a 15 21889024 268435456,
    .a 15 22872064 268435456, .w 15 23003136, .w 16 8, .w 16 8519680, .w 16 8912896, .w 16 9502720, .w 16 9568256,
    .w 16 10551296, .w 16 10878976, .w 16 23068672, .w 16 23789568, .w 17 8, .w 17 12, .w 17 72,
    .a 17 6488064 268435456, .w 17 12320768, .a 17 12713984 268435456, .a 17 12779520 268435456, .w 17 13762560,
    .a 17 24903680 268435456, .w 18 8, .w 18 12, .w 18 72, .w 18 786432, .w 18 20578304, .w 19 12, .w 19 16,
    .w 19 1114112, .w 19 1179648, .a 19 1310720 268435456, .a 19 1376256 268435456, .a 19 22413312 268435456,
    .a 19 22478848 268435456, .w 66 5046272, .p .win, .p .free, .p .edges, .p .inbox, .p .chn, .p .seqs, .p .pa,
    .p .jq, .p .jact, .p .loops, .p .tstk, .p .tshd, .p .cog]

theorem loopDispatch_out (whole : Bool) {s : State} (h₀ : Out L₀ s₀ s)
    (hL : Key.sub loopDispatchOut L₀ = true) :
    Out L₀ s₀ (loopDispatch whole s) := by
  unfold loopDispatch
  repeat'
    first
      | with_reducible assumption | with_reducible apply State.setLoop_out | with_reducible apply Out.drew
      | with_reducible apply Out.puts_nil | with_reducible apply Out.puts_cons | with_reducible apply Out.put
      | with_reducible apply State.lpView_out | with_reducible apply State.lpCommit_out | exact Key.hasA rfl
      | exact Key.hasW | exact Out.sub hL rfl | intro _ | with_reducible apply Out.ite | split | dsimp only [id_eq]
      | (rename_i e; with_reducible refine Out.of_eq e ?_) | with_reducible apply Out.setTstkTshd

theorem State.lpLate_out {s : State} (n : Nat) (h₀ : Out L₀ s₀ s)
    (hL : Key.sub lpMissOut L₀ = true) :
    Out L₀ s₀ (State.lpLate s n) := by
  unfold State.lpLate
  repeat'
    first
      | with_reducible assumption | with_reducible apply State.lpMiss_out | with_reducible apply State.lpStop_out
      | with_reducible apply State.setLoop_out | exact Key.hasA rfl | exact Key.hasW | exact Out.sub hL rfl | intro _
      | with_reducible apply Out.ite | split | dsimp only [id_eq]
      | (rename_i e; with_reducible refine Out.of_eq e ?_)

theorem loopDeadlineMiss_out (n : Fin 64) {s : State} (h₀ : Out L₀ s₀ s)
    (hL : Key.sub lpMissOut L₀ = true) :
    Out L₀ s₀ (loopDeadlineMiss n s) := by
  unfold loopDeadlineMiss
  repeat'
    first
      | with_reducible assumption | with_reducible apply State.lpLate_out | with_reducible apply State.lpStop_out
      | exact Key.hasA rfl | exact Key.hasW | exact Out.sub hL rfl | intro _ | with_reducible apply Out.ite | split
      | dsimp only [id_eq] | (rename_i e; with_reducible refine Out.of_eq e ?_)

theorem State.trzUpset_out {s : State} (addr : Nat) (f : TrzWord) (h₀ : Out L₀ s₀ s)
    (hL : Key.sub [.p .cstore] L₀ = true) :
    Out L₀ s₀ (State.trzUpset s addr f) := by
  unfold State.trzUpset
  repeat'
    first
      | with_reducible assumption | exact Key.hasA rfl | exact Key.hasW | exact Out.sub hL rfl | intro _
      | with_reducible apply Out.ite | split | dsimp only [id_eq]
      | (rename_i e; with_reducible refine Out.of_eq e ?_) | with_reducible apply Out.setCstore

theorem State.trzRetire_out {s : State} (h₀ : Out L₀ s₀ s)
    (hL : Key.sub [.a 2 32 4, .w 11 8, .w 11 12, .w 11 84, .w 15 8, .w 64 5898240, .p .edges, .p .inbox] L₀ = true) :
    Out L₀ s₀ (State.trzRetire s) := by
  unfold State.trzRetire
  repeat'
    first
      | with_reducible assumption | with_reducible apply Out.forAll | with_reducible apply Out.post
      | with_reducible apply Out.puts_nil | with_reducible apply Out.puts_cons | with_reducible apply Out.put
      | with_reducible apply State.refreshAct_out | exact Key.hasA rfl | exact Key.hasW | exact Out.sub hL rfl
      | intro _ | with_reducible apply Out.ite | split | dsimp only [id_eq]
      | (rename_i e; with_reducible refine Out.of_eq e ?_)

theorem State.trzMchk_out {s : State} (cause : Nat) (smask : Nat) (h₀ : Out L₀ s₀ s)
    (hL : Key.sub [.a 2 32 4, .w 11 8, .w 11 12, .w 11 84, .w 12 8, .w 13 8, .w 13 12, .w 13 76, .w 13 1572864, .w 13 2359296,
    .w 13 2424832, .w 13 20250624, .w 14 8, .w 14 24, .w 14 4259840, .w 14 4325376, .w 15 8, .w 15 12, .w 15 40,
    .w 15 64, .a 15 7012352 268435456, .w 15 7798784, .w 16 8, .w 16 8519680, .w 16 8912896, .w 16 9502720,
    .w 16 9568256, .w 16 10551296, .w 16 10878976, .w 16 23068672, .w 16 23789568, .w 17 8, .w 17 12, .w 17 72,
    .a 17 6488064 268435456, .w 17 12320768, .a 17 12713984 268435456, .a 17 12779520 268435456, .w 17 13762560,
    .a 17 24903680 268435456, .w 18 8, .w 18 12, .w 18 72, .w 18 786432, .w 18 20578304, .w 19 16,
    .a 19 1310720 268435456, .a 19 1376256 268435456, .a 19 22413312 268435456, .a 19 22478848 268435456,
    .w 64 5898240, .w 66 5046272, .p .win, .p .edges, .p .inbox, .p .chn, .p .seqs, .p .pa, .p .jq, .p .jact,
    .p .loops, .p .tmchk] L₀ = true) :
    Out L₀ s₀ (State.trzMchk s cause smask) := by
  unfold State.trzMchk
  repeat'
    first
      | with_reducible assumption | with_reducible apply Out.puts_append | with_reducible apply Out.puts_nil
      | with_reducible apply Out.puts_cons | with_reducible apply Out.put | with_reducible apply State.stopAssert_out
      | with_reducible apply State.crlCoast_out | with_reducible apply State.trzRetire_out
      | with_reducible apply Out.post | with_reducible apply Out.count | with_reducible apply Out.evt
      | exact Key.hasA rfl | exact Key.hasW | exact Out.sub hL rfl | intro _ | with_reducible apply Out.ite | split
      | dsimp only [id_eq] | (rename_i e; with_reducible refine Out.of_eq e ?_)
      | with_reducible apply Out.setLoopsTmchk

theorem State.setOpnd_out {s : State} (n : Nat) (a : Nat) (v : Int) (h₀ : Out L₀ s₀ s)
    (hL : Key.sub [.p .win, .p .tshd, .p .tshr] L₀ = true) :
    Out L₀ s₀ (State.setOpnd s n a v) := by
  unfold State.setOpnd
  repeat'
    first
      | with_reducible assumption | with_reducible apply State.setPw_out | exact Key.hasA rfl | exact Key.hasW
      | exact Out.sub hL rfl | intro _ | with_reducible apply Out.ite | split | dsimp only [id_eq]
      | (rename_i e; with_reducible refine Out.of_eq e ?_) | with_reducible apply Out.setTshd
      | with_reducible apply Out.setTshr

theorem State.sat32_out {s : State} (v : Int) (h₀ : Out L₀ s₀ s)
    (hL : Key.sub [.w 15 7405568] L₀ = true) :
    Out L₀ s₀ (State.sat32 s v).1 := by
  unfold State.sat32
  repeat'
    first
      | with_reducible assumption | with_reducible apply Out.put | exact Key.hasA rfl | exact Key.hasW
      | exact Out.sub hL rfl | intro _ | with_reducible apply Out.ite | split | dsimp only [id_eq]
      | (rename_i e; with_reducible refine Out.of_eq e ?_)

theorem State.trzCopy_out {s : State} (n : Nat) (h₀ : Out L₀ s₀ s)
    (hL : Key.sub lpCommitOut L₀ = true) :
    Out L₀ s₀ (State.trzCopy s n) := by
  unfold State.trzCopy
  repeat'
    first
      | with_reducible assumption | with_reducible apply State.lpView_out | with_reducible apply State.lpCommit_out
      | exact Key.hasA rfl | exact Key.hasW | exact Out.sub hL rfl | intro _ | with_reducible apply Out.ite | split
      | dsimp only [id_eq] | (rename_i e; with_reducible refine Out.of_eq e ?_)

/-- What `State.trzWord` may change. -/
def trzWordOut : List Key :=
  [.a 2 32 4, .w 11 8, .w 11 12, .w 11 84, .w 12 8, .w 13 8, .w 13 12, .w 13 76,
    .w 13 1572864, .w 13 2359296, .w 13 2424832, .w 13 20250624, .w 14 8, .w 14 12, .w 14 24, .w 14 84,
    .w 14 3211264, .w 14 3342336, .w 14 3407872, .w 14 3473408, .w 14 3538944, .w 14 4128768, .w 14 4194304,
    .w 14 4259840, .w 14 4325376, .w 14 4587520, .w 14 4784128, .w 14 21692416, .w 14 21757952, .w 14 22675456,
    .w 14 22806528, .w 15 8, .w 15 12, .a 15 24 4, .a 15 32 4, .w 15 40, .w 15 52, .w 15 64, .a 15 512 4,
    .a 15 768 4, .a 15 7012352 268435456, .a 15 7077888 268435456, .w 15 7143424, .w 15 7667712, .w 15 7733248,
    .w 15 7798784, .a 15 8126464 268435456, .a 15 8192000 268435456, .a 15 8257536 268435456, .w 15 8323072,
    .w 15 8388608, .a 15 8454144 268435456, .a 15 21364736 268435456, .a 15 21889024 268435456,
    .a 15 22872064 268435456, .w 15 23003136, .w 16 8, .w 16 8519680, .w 16 8912896, .w 16 9502720, .w 16 9568256,
    .w 16 10551296, .w 16 10878976, .w 16 23068672, .w 16 23789568, .w 17 8, .w 17 12, .w 17 72,
    .a 17 6488064 268435456, .w 17 12320768, .a 17 12713984 268435456, .a 17 12779520 268435456, .w 17 13762560,
    .a 17 24903680 268435456, .w 18 8, .w 18 12, .w 18 72, .w 18 786432, .w 18 20578304, .w 19 12, .w 19 16,
    .w 19 1114112, .w 19 1179648, .a 19 1310720 268435456, .a 19 1376256 268435456, .a 19 22413312 268435456,
    .a 19 22478848 268435456, .w 64 5898240, .w 66 5046272, .p .win, .p .edges, .p .inbox, .p .chn, .p .seqs,
    .p .pa, .p .jq, .p .jact, .p .loops, .p .cstore, .p .tmchk, .p .cog]

theorem State.trzWord_out {s : State} (opc : Nat) (f : TrzWord) (op : Nat → TrzWord → State → State) (h₀ : Out L₀ s₀ s) (hF_op : ∀ x0 x1 u, Out L₀ s₀ u → Out L₀ s₀ (op x0 x1 u))
    (hL : Key.sub trzWordOut L₀ = true) :
    Out L₀ s₀ (State.trzWord s opc f op) := by
  unfold State.trzWord
  repeat'
    first
      | with_reducible assumption | with_reducible apply State.trzUpset_out | with_reducible apply State.trzMchk_out
      | with_reducible apply Out.put | with_reducible apply State.trzCopy_out | with_reducible apply hF_op
      | exact Key.hasA rfl | exact Key.hasW | exact Out.sub hL rfl | intro _ | with_reducible apply Out.ite | split
      | dsimp only [id_eq] | (rename_i e; with_reducible refine Out.of_eq e ?_)

theorem trzNop_out (f : TrzWord) {s : State} (h₀ : Out L₀ s₀ s)
    (hL : Key.sub trzWordOut L₀ = true) :
    Out L₀ s₀ (trzNop f s) := by
  unfold trzNop
  repeat'
    first
      | with_reducible assumption | with_reducible apply State.trzWord_out | exact Key.hasA rfl | exact Key.hasW
      | exact Out.sub hL rfl | intro _ | with_reducible apply Out.ite | split | dsimp only [id_eq]
      | (rename_i e; with_reducible refine Out.of_eq e ?_)

theorem trzJmp_out (f : TrzWord) {s : State} (h₀ : Out L₀ s₀ s)
    (hL : Key.sub trzWordOut L₀ = true) :
    Out L₀ s₀ (trzJmp f s) := by
  unfold trzJmp
  repeat'
    first
      | with_reducible assumption | with_reducible apply State.trzWord_out | with_reducible apply Out.put
      | exact Key.hasA rfl | exact Key.hasW | exact Out.sub hL rfl | intro _ | with_reducible apply Out.ite | split
      | dsimp only [id_eq] | (rename_i e; with_reducible refine Out.of_eq e ?_)

theorem trzBr_out (f : TrzWord) {s : State} (h₀ : Out L₀ s₀ s)
    (hL : Key.sub trzWordOut L₀ = true) :
    Out L₀ s₀ (trzBr f s) := by
  unfold trzBr
  repeat'
    first
      | with_reducible assumption | with_reducible apply State.trzWord_out | with_reducible apply Out.put
      | exact Key.hasA rfl | exact Key.hasW | exact Out.sub hL rfl | intro _ | with_reducible apply Out.ite | split
      | dsimp only [id_eq] | (rename_i e; with_reducible refine Out.of_eq e ?_)

/-- What `trzCall` may change. -/
def trzCallOut : List Key :=
  [.a 2 32 4, .w 11 8, .w 11 12, .w 11 84, .w 12 8, .w 13 8, .w 13 12, .w 13 76,
    .w 13 1572864, .w 13 2359296, .w 13 2424832, .w 13 20250624, .w 14 8, .w 14 12, .w 14 24, .w 14 84,
    .w 14 3211264, .w 14 3342336, .w 14 3407872, .w 14 3473408, .w 14 3538944, .w 14 4128768, .w 14 4194304,
    .w 14 4259840, .w 14 4325376, .w 14 4587520, .w 14 4784128, .w 14 21692416, .w 14 21757952, .w 14 22675456,
    .w 14 22806528, .w 15 8, .w 15 12, .a 15 24 4, .a 15 32 4, .w 15 40, .w 15 52, .w 15 64, .a 15 512 4,
    .a 15 768 4, .a 15 7012352 268435456, .a 15 7077888 268435456, .w 15 7143424, .w 15 7667712, .w 15 7733248,
    .w 15 7798784, .a 15 8126464 268435456, .a 15 8192000 268435456, .a 15 8257536 268435456, .w 15 8323072,
    .w 15 8388608, .a 15 8454144 268435456, .a 15 21364736 268435456, .a 15 21889024 268435456,
    .a 15 22872064 268435456, .w 15 23003136, .w 16 8, .w 16 8519680, .w 16 8912896, .w 16 9502720, .w 16 9568256,
    .w 16 10551296, .w 16 10878976, .w 16 23068672, .w 16 23789568, .w 17 8, .w 17 12, .w 17 72,
    .a 17 6488064 268435456, .w 17 12320768, .a 17 12713984 268435456, .a 17 12779520 268435456, .w 17 13762560,
    .a 17 24903680 268435456, .w 18 8, .w 18 12, .w 18 72, .w 18 786432, .w 18 20578304, .w 19 12, .w 19 16,
    .w 19 1114112, .w 19 1179648, .a 19 1310720 268435456, .a 19 1376256 268435456, .a 19 22413312 268435456,
    .a 19 22478848 268435456, .w 64 5898240, .w 66 5046272, .p .win, .p .edges, .p .inbox, .p .chn, .p .seqs,
    .p .pa, .p .jq, .p .jact, .p .loops, .p .tstk, .p .cstore, .p .tmchk, .p .cog]

theorem trzCall_out (f : TrzWord) {s : State} (h₀ : Out L₀ s₀ s)
    (hL : Key.sub trzCallOut L₀ = true) :
    Out L₀ s₀ (trzCall f s) := by
  unfold trzCall
  repeat'
    first
      | with_reducible assumption | with_reducible apply State.trzWord_out | with_reducible apply State.trzMchk_out
      | with_reducible apply Out.put | exact Key.hasA rfl | exact Key.hasW | exact Out.sub hL rfl | intro _
      | with_reducible apply Out.ite | split | dsimp only [id_eq]
      | (rename_i e; with_reducible refine Out.of_eq e ?_) | with_reducible apply Out.setTstk

theorem trzRet_out (f : TrzWord) {s : State} (h₀ : Out L₀ s₀ s)
    (hL : Key.sub trzCallOut L₀ = true) :
    Out L₀ s₀ (trzRet f s) := by
  unfold trzRet
  repeat'
    first
      | with_reducible assumption | with_reducible apply State.trzWord_out | with_reducible apply State.trzMchk_out
      | with_reducible apply Out.put | exact Key.hasA rfl | exact Key.hasW | exact Out.sub hL rfl | intro _
      | with_reducible apply Out.ite | split | dsimp only [id_eq]
      | (rename_i e; with_reducible refine Out.of_eq e ?_) | with_reducible apply Out.setTstk

/-- What `trzWait` may change. -/
def trzWaitOut : List Key :=
  [.a 2 32 4, .w 11 8, .w 11 12, .w 11 84, .w 12 8, .w 13 8, .w 13 12, .w 13 76,
    .w 13 1572864, .w 13 2359296, .w 13 2424832, .w 13 20250624, .w 14 8, .w 14 12, .w 14 24, .w 14 84,
    .w 14 3211264, .w 14 3342336, .w 14 3407872, .w 14 3473408, .w 14 3538944, .w 14 4128768, .w 14 4194304,
    .w 14 4259840, .w 14 4325376, .w 14 4587520, .w 14 4784128, .w 14 21692416, .w 14 21757952, .w 14 22675456,
    .w 14 22806528, .w 15 8, .w 15 12, .a 15 24 4, .a 15 32 4, .w 15 40, .w 15 52, .w 15 64, .a 15 512 4,
    .a 15 768 4, .a 15 7012352 268435456, .a 15 7077888 268435456, .w 15 7143424, .w 15 7667712, .w 15 7733248,
    .w 15 7798784, .w 15 7864320, .w 15 7929856, .w 15 7995392, .a 15 8126464 268435456, .a 15 8192000 268435456,
    .a 15 8257536 268435456, .w 15 8323072, .w 15 8388608, .a 15 8454144 268435456, .a 15 21364736 268435456,
    .w 15 21823488, .a 15 21889024 268435456, .a 15 22872064 268435456, .w 15 23003136, .w 16 8, .w 16 8519680,
    .w 16 8912896, .w 16 9502720, .w 16 9568256, .w 16 10551296, .w 16 10878976, .w 16 23068672, .w 16 23789568,
    .w 17 8, .w 17 12, .w 17 72, .a 17 6488064 268435456, .w 17 12320768, .a 17 12713984 268435456,
    .a 17 12779520 268435456, .w 17 13762560, .a 17 24903680 268435456, .w 18 8, .w 18 12, .w 18 72, .w 18 786432,
    .w 18 20578304, .w 19 12, .w 19 16, .w 19 1114112, .w 19 1179648, .a 19 1310720 268435456,
    .a 19 1376256 268435456, .a 19 22413312 268435456, .a 19 22478848 268435456, .w 64 5898240, .w 66 5046272,
    .p .win, .p .edges, .p .inbox, .p .chn, .p .seqs, .p .pa, .p .jq, .p .jact, .p .loops, .p .cstore, .p .tmchk,
    .p .cog]

theorem trzWait_out (f : TrzWord) {s : State} (h₀ : Out L₀ s₀ s)
    (hL : Key.sub trzWaitOut L₀ = true) :
    Out L₀ s₀ (trzWait f s) := by
  unfold trzWait
  repeat'
    first
      | with_reducible assumption | with_reducible apply State.trzWord_out | with_reducible apply Out.puts_nil
      | with_reducible apply Out.puts_cons | with_reducible apply Out.put | exact Key.hasA rfl | exact Key.hasW
      | exact Out.sub hL rfl | intro _ | with_reducible apply Out.ite | split | dsimp only [id_eq]
      | (rename_i e; with_reducible refine Out.of_eq e ?_)

/-- What `trzLd` may change. -/
def trzLdOut : List Key :=
  [.a 2 32 4, .w 11 8, .w 11 12, .w 11 84, .w 12 8, .w 13 8, .w 13 12, .w 13 76,
    .w 13 1572864, .w 13 2359296, .w 13 2424832, .w 13 20250624, .w 14 8, .w 14 12, .w 14 24, .w 14 84,
    .w 14 3211264, .w 14 3342336, .w 14 3407872, .w 14 3473408, .w 14 3538944, .w 14 4128768, .w 14 4194304,
    .w 14 4259840, .w 14 4325376, .w 14 4587520, .w 14 4784128, .w 14 21692416, .w 14 21757952, .w 14 22675456,
    .w 14 22806528, .w 15 8, .w 15 12, .a 15 24 4, .a 15 32 4, .w 15 40, .w 15 52, .w 15 64, .a 15 512 4,
    .a 15 768 4, .a 15 7012352 268435456, .a 15 7077888 268435456, .w 15 7143424, .w 15 7667712, .w 15 7733248,
    .w 15 7798784, .a 15 8126464 268435456, .a 15 8192000 268435456, .a 15 8257536 268435456, .w 15 8323072,
    .w 15 8388608, .a 15 8454144 268435456, .a 15 21364736 268435456, .a 15 21889024 268435456,
    .a 15 22872064 268435456, .w 15 23003136, .w 16 8, .w 16 8519680, .w 16 8912896, .w 16 9502720, .w 16 9568256,
    .w 16 10551296, .w 16 10878976, .w 16 23068672, .w 16 23789568, .w 17 8, .w 17 12, .w 17 72,
    .a 17 6488064 268435456, .w 17 12320768, .a 17 12713984 268435456, .a 17 12779520 268435456, .w 17 13762560,
    .a 17 24903680 268435456, .w 18 8, .w 18 12, .w 18 72, .w 18 786432, .w 18 20578304, .w 19 12, .w 19 16,
    .w 19 1114112, .w 19 1179648, .a 19 1310720 268435456, .a 19 1376256 268435456, .a 19 22413312 268435456,
    .a 19 22478848 268435456, .w 64 5898240, .w 66 5046272, .p .win, .p .edges, .p .inbox, .p .chn, .p .seqs,
    .p .pa, .p .jq, .p .jact, .p .loops, .p .tshd, .p .tshr, .p .cstore, .p .tmchk, .p .cog]

theorem trzLd_out (f : TrzWord) {s : State} (h₀ : Out L₀ s₀ s)
    (hL : Key.sub trzLdOut L₀ = true) :
    Out L₀ s₀ (trzLd f s) := by
  unfold trzLd
  repeat'
    first
      | with_reducible assumption | with_reducible apply State.trzWord_out | with_reducible apply State.setOpnd_out
      | exact Key.hasA rfl | exact Key.hasW | exact Out.sub hL rfl | intro _ | with_reducible apply Out.ite | split
      | dsimp only [id_eq] | (rename_i e; with_reducible refine Out.of_eq e ?_)

theorem trzMov_out (f : TrzWord) {s : State} (h₀ : Out L₀ s₀ s)
    (hL : Key.sub trzLdOut L₀ = true) :
    Out L₀ s₀ (trzMov f s) := by
  unfold trzMov
  repeat'
    first
      | with_reducible assumption | with_reducible apply State.trzWord_out | with_reducible apply State.setOpnd_out
      | exact Key.hasA rfl | exact Key.hasW | exact Out.sub hL rfl | intro _ | with_reducible apply Out.ite | split
      | dsimp only [id_eq] | (rename_i e; with_reducible refine Out.of_eq e ?_)

/-- What `trzAdd` may change. -/
def trzAddOut : List Key :=
  [.a 2 32 4, .w 11 8, .w 11 12, .w 11 84, .w 12 8, .w 13 8, .w 13 12, .w 13 76,
    .w 13 1572864, .w 13 2359296, .w 13 2424832, .w 13 20250624, .w 14 8, .w 14 12, .w 14 24, .w 14 84,
    .w 14 3211264, .w 14 3342336, .w 14 3407872, .w 14 3473408, .w 14 3538944, .w 14 4128768, .w 14 4194304,
    .w 14 4259840, .w 14 4325376, .w 14 4587520, .w 14 4784128, .w 14 21692416, .w 14 21757952, .w 14 22675456,
    .w 14 22806528, .w 15 8, .w 15 12, .a 15 24 4, .a 15 32 4, .w 15 40, .w 15 52, .w 15 64, .a 15 512 4,
    .a 15 768 4, .a 15 7012352 268435456, .a 15 7077888 268435456, .w 15 7143424, .w 15 7405568, .w 15 7667712,
    .w 15 7733248, .w 15 7798784, .a 15 8126464 268435456, .a 15 8192000 268435456, .a 15 8257536 268435456,
    .w 15 8323072, .w 15 8388608, .a 15 8454144 268435456, .a 15 21364736 268435456, .a 15 21889024 268435456,
    .a 15 22872064 268435456, .w 15 23003136, .w 16 8, .w 16 8519680, .w 16 8912896, .w 16 9502720, .w 16 9568256,
    .w 16 10551296, .w 16 10878976, .w 16 23068672, .w 16 23789568, .w 17 8, .w 17 12, .w 17 72,
    .a 17 6488064 268435456, .w 17 12320768, .a 17 12713984 268435456, .a 17 12779520 268435456, .w 17 13762560,
    .a 17 24903680 268435456, .w 18 8, .w 18 12, .w 18 72, .w 18 786432, .w 18 20578304, .w 19 12, .w 19 16,
    .w 19 1114112, .w 19 1179648, .a 19 1310720 268435456, .a 19 1376256 268435456, .a 19 22413312 268435456,
    .a 19 22478848 268435456, .w 64 5898240, .w 66 5046272, .p .win, .p .edges, .p .inbox, .p .chn, .p .seqs,
    .p .pa, .p .jq, .p .jact, .p .loops, .p .tshd, .p .tshr, .p .cstore, .p .tmchk, .p .cog]

theorem trzAdd_out (f : TrzWord) {s : State} (h₀ : Out L₀ s₀ s)
    (hL : Key.sub trzAddOut L₀ = true) :
    Out L₀ s₀ (trzAdd f s) := by
  unfold trzAdd
  repeat'
    first
      | with_reducible assumption | with_reducible apply State.trzWord_out | with_reducible apply State.sat32_out
      | with_reducible apply State.setOpnd_out | exact Key.hasA rfl | exact Key.hasW | exact Out.sub hL rfl | intro _
      | with_reducible apply Out.ite | split | dsimp only [id_eq]
      | (rename_i e; with_reducible refine Out.of_eq e ?_)

theorem trzSub_out (f : TrzWord) {s : State} (h₀ : Out L₀ s₀ s)
    (hL : Key.sub trzAddOut L₀ = true) :
    Out L₀ s₀ (trzSub f s) := by
  unfold trzSub
  repeat'
    first
      | with_reducible assumption | with_reducible apply State.trzWord_out | with_reducible apply State.sat32_out
      | with_reducible apply State.setOpnd_out | exact Key.hasA rfl | exact Key.hasW | exact Out.sub hL rfl | intro _
      | with_reducible apply Out.ite | split | dsimp only [id_eq]
      | (rename_i e; with_reducible refine Out.of_eq e ?_)

/-- What `trzMul` may change. -/
def trzMulOut : List Key :=
  [.a 2 32 4, .w 11 8, .w 11 12, .w 11 84, .w 12 8, .w 13 8, .w 13 12, .w 13 76,
    .w 13 1572864, .w 13 2359296, .w 13 2424832, .w 13 20250624, .w 14 8, .w 14 12, .w 14 24, .w 14 84,
    .w 14 3211264, .w 14 3342336, .w 14 3407872, .w 14 3473408, .w 14 3538944, .w 14 4128768, .w 14 4194304,
    .w 14 4259840, .w 14 4325376, .w 14 4587520, .w 14 4784128, .w 14 21692416, .w 14 21757952, .w 14 22675456,
    .w 14 22806528, .w 15 8, .w 15 12, .a 15 24 4, .a 15 32 4, .w 15 40, .w 15 52, .w 15 64, .a 15 512 4,
    .a 15 768 4, .a 15 7012352 268435456, .a 15 7077888 268435456, .w 15 7143424, .w 15 7208960, .w 15 7667712,
    .w 15 7733248, .w 15 7798784, .a 15 8126464 268435456, .a 15 8192000 268435456, .a 15 8257536 268435456,
    .w 15 8323072, .w 15 8388608, .a 15 8454144 268435456, .a 15 21364736 268435456, .a 15 21889024 268435456,
    .a 15 22872064 268435456, .w 15 23003136, .w 16 8, .w 16 8519680, .w 16 8912896, .w 16 9502720, .w 16 9568256,
    .w 16 10551296, .w 16 10878976, .w 16 23068672, .w 16 23789568, .w 17 8, .w 17 12, .w 17 72,
    .a 17 6488064 268435456, .w 17 12320768, .a 17 12713984 268435456, .a 17 12779520 268435456, .w 17 13762560,
    .a 17 24903680 268435456, .w 18 8, .w 18 12, .w 18 72, .w 18 786432, .w 18 20578304, .w 19 12, .w 19 16,
    .w 19 1114112, .w 19 1179648, .a 19 1310720 268435456, .a 19 1376256 268435456, .a 19 22413312 268435456,
    .a 19 22478848 268435456, .w 64 5898240, .w 66 5046272, .p .win, .p .edges, .p .inbox, .p .chn, .p .seqs,
    .p .pa, .p .jq, .p .jact, .p .loops, .p .cstore, .p .tmchk, .p .cog]

theorem trzMul_out (f : TrzWord) {s : State} (h₀ : Out L₀ s₀ s)
    (hL : Key.sub trzMulOut L₀ = true) :
    Out L₀ s₀ (trzMul f s) := by
  unfold trzMul
  repeat'
    first
      | with_reducible assumption | with_reducible apply State.trzWord_out | with_reducible apply Out.putI
      | exact Key.hasA rfl | exact Key.hasW | exact Out.sub hL rfl | intro _ | with_reducible apply Out.ite | split
      | dsimp only [id_eq] | (rename_i e; with_reducible refine Out.of_eq e ?_)

theorem trzMac_out (f : TrzWord) {s : State} (h₀ : Out L₀ s₀ s)
    (hL : Key.sub trzMulOut L₀ = true) :
    Out L₀ s₀ (trzMac f s) := by
  unfold trzMac
  repeat'
    first
      | with_reducible assumption | with_reducible apply State.trzWord_out | with_reducible apply Out.putI
      | exact Key.hasA rfl | exact Key.hasW | exact Out.sub hL rfl | intro _ | with_reducible apply Out.ite | split
      | dsimp only [id_eq] | (rename_i e; with_reducible refine Out.of_eq e ?_)

theorem trzAccout_out (f : TrzWord) {s : State} (h₀ : Out L₀ s₀ s)
    (hL : Key.sub trzAddOut L₀ = true) :
    Out L₀ s₀ (trzAccout f s) := by
  unfold trzAccout
  repeat'
    first
      | with_reducible assumption | with_reducible apply State.trzWord_out | with_reducible apply State.sat32_out
      | with_reducible apply State.setOpnd_out | exact Key.hasA rfl | exact Key.hasW | exact Out.sub hL rfl | intro _
      | with_reducible apply Out.ite | split | dsimp only [id_eq]
      | (rename_i e; with_reducible refine Out.of_eq e ?_)

theorem trzClracc_out (f : TrzWord) {s : State} (h₀ : Out L₀ s₀ s)
    (hL : Key.sub trzMulOut L₀ = true) :
    Out L₀ s₀ (trzClracc f s) := by
  unfold trzClracc
  repeat'
    first
      | with_reducible assumption | with_reducible apply State.trzWord_out | with_reducible apply Out.put
      | exact Key.hasA rfl | exact Key.hasW | exact Out.sub hL rfl | intro _ | with_reducible apply Out.ite | split
      | dsimp only [id_eq] | (rename_i e; with_reducible refine Out.of_eq e ?_)

theorem trzMin_out (f : TrzWord) {s : State} (h₀ : Out L₀ s₀ s)
    (hL : Key.sub trzLdOut L₀ = true) :
    Out L₀ s₀ (trzMin f s) := by
  unfold trzMin
  repeat'
    first
      | with_reducible assumption | with_reducible apply State.trzWord_out | with_reducible apply State.setOpnd_out
      | exact Key.hasA rfl | exact Key.hasW | exact Out.sub hL rfl | intro _ | with_reducible apply Out.ite | split
      | dsimp only [id_eq] | (rename_i e; with_reducible refine Out.of_eq e ?_)

theorem trzMax_out (f : TrzWord) {s : State} (h₀ : Out L₀ s₀ s)
    (hL : Key.sub trzLdOut L₀ = true) :
    Out L₀ s₀ (trzMax f s) := by
  unfold trzMax
  repeat'
    first
      | with_reducible assumption | with_reducible apply State.trzWord_out | with_reducible apply State.setOpnd_out
      | exact Key.hasA rfl | exact Key.hasW | exact Out.sub hL rfl | intro _ | with_reducible apply Out.ite | split
      | dsimp only [id_eq] | (rename_i e; with_reducible refine Out.of_eq e ?_)

/-- What `trzLut` may change. -/
def trzLutOut : List Key :=
  [.a 2 32 4, .w 11 8, .w 11 12, .w 11 84, .w 12 8, .w 13 8, .w 13 12, .w 13 76,
    .w 13 1572864, .w 13 2359296, .w 13 2424832, .w 13 20250624, .w 14 8, .w 14 12, .w 14 24, .w 14 84,
    .w 14 3211264, .w 14 3342336, .w 14 3407872, .w 14 3473408, .w 14 3538944, .w 14 4128768, .w 14 4194304,
    .w 14 4259840, .w 14 4325376, .w 14 4587520, .w 14 4784128, .w 14 21692416, .w 14 21757952, .w 14 22675456,
    .w 14 22806528, .w 15 8, .w 15 12, .a 15 24 4, .a 15 32 4, .w 15 40, .w 15 52, .w 15 64, .a 15 512 4,
    .a 15 768 4, .a 15 7012352 268435456, .a 15 7077888 268435456, .w 15 7143424, .w 15 7471104, .w 15 7536640,
    .w 15 7602176, .w 15 7667712, .w 15 7733248, .w 15 7798784, .a 15 8126464 268435456, .a 15 8192000 268435456,
    .a 15 8257536 268435456, .w 15 8323072, .w 15 8388608, .a 15 8454144 268435456, .a 15 21364736 268435456,
    .a 15 21889024 268435456, .a 15 22872064 268435456, .w 15 23003136, .w 16 8, .w 16 8519680, .w 16 8912896,
    .w 16 9502720, .w 16 9568256, .w 16 10551296, .w 16 10878976, .w 16 23068672, .w 16 23789568, .w 17 8, .w 17 12,
    .w 17 72, .a 17 6488064 268435456, .w 17 12320768, .a 17 12713984 268435456, .a 17 12779520 268435456,
    .w 17 13762560, .a 17 24903680 268435456, .w 18 8, .w 18 12, .w 18 72, .w 18 786432, .w 18 20578304, .w 19 12,
    .w 19 16, .w 19 1114112, .w 19 1179648, .a 19 1310720 268435456, .a 19 1376256 268435456,
    .a 19 22413312 268435456, .a 19 22478848 268435456, .w 64 5898240, .w 66 5046272, .p .win, .p .edges, .p .inbox,
    .p .chn, .p .seqs, .p .pa, .p .jq, .p .jact, .p .loops, .p .cstore, .p .tmchk, .p .cog]

theorem trzLut_out (f : TrzWord) {s : State} (h₀ : Out L₀ s₀ s)
    (hL : Key.sub trzLutOut L₀ = true) :
    Out L₀ s₀ (trzLut f s) := by
  unfold trzLut
  repeat'
    first
      | with_reducible assumption | with_reducible apply State.trzWord_out | with_reducible apply Out.putI
      | with_reducible apply Out.puts_nil | with_reducible apply Out.puts_cons | with_reducible apply Out.put
      | exact Key.hasA rfl | exact Key.hasW | exact Out.sub hL rfl | intro _ | with_reducible apply Out.ite | split
      | dsimp only [id_eq] | (rename_i e; with_reducible refine Out.of_eq e ?_)

/-- What `trzCmp` may change. -/
def trzCmpOut : List Key :=
  [.a 2 32 4, .w 11 8, .w 11 12, .w 11 84, .w 12 8, .w 13 8, .w 13 12, .w 13 76,
    .w 13 1572864, .w 13 2359296, .w 13 2424832, .w 13 20250624, .w 14 8, .w 14 12, .w 14 24, .w 14 84,
    .w 14 3211264, .w 14 3342336, .w 14 3407872, .w 14 3473408, .w 14 3538944, .w 14 4128768, .w 14 4194304,
    .w 14 4259840, .w 14 4325376, .w 14 4587520, .w 14 4784128, .w 14 21692416, .w 14 21757952, .w 14 22675456,
    .w 14 22806528, .w 15 8, .w 15 12, .a 15 24 4, .a 15 32 4, .w 15 40, .w 15 52, .w 15 64, .a 15 512 4,
    .a 15 768 4, .a 15 7012352 268435456, .a 15 7077888 268435456, .w 15 7143424, .w 15 7274496, .w 15 7340032,
    .w 15 7667712, .w 15 7733248, .w 15 7798784, .a 15 8126464 268435456, .a 15 8192000 268435456,
    .a 15 8257536 268435456, .w 15 8323072, .w 15 8388608, .a 15 8454144 268435456, .a 15 21364736 268435456,
    .a 15 21889024 268435456, .a 15 22872064 268435456, .w 15 23003136, .w 16 8, .w 16 8519680, .w 16 8912896,
    .w 16 9502720, .w 16 9568256, .w 16 10551296, .w 16 10878976, .w 16 23068672, .w 16 23789568, .w 17 8, .w 17 12,
    .w 17 72, .a 17 6488064 268435456, .w 17 12320768, .a 17 12713984 268435456, .a 17 12779520 268435456,
    .w 17 13762560, .a 17 24903680 268435456, .w 18 8, .w 18 12, .w 18 72, .w 18 786432, .w 18 20578304, .w 19 12,
    .w 19 16, .w 19 1114112, .w 19 1179648, .a 19 1310720 268435456, .a 19 1376256 268435456,
    .a 19 22413312 268435456, .a 19 22478848 268435456, .w 64 5898240, .w 66 5046272, .p .win, .p .edges, .p .inbox,
    .p .chn, .p .seqs, .p .pa, .p .jq, .p .jact, .p .loops, .p .cstore, .p .tmchk, .p .cog]

theorem trzCmp_out (f : TrzWord) {s : State} (h₀ : Out L₀ s₀ s)
    (hL : Key.sub trzCmpOut L₀ = true) :
    Out L₀ s₀ (trzCmp f s) := by
  unfold trzCmp
  repeat'
    first
      | with_reducible assumption | with_reducible apply State.trzWord_out | with_reducible apply Out.putB
      | exact Key.hasA rfl | exact Key.hasW | exact Out.sub hL rfl | intro _ | with_reducible apply Out.ite | split
      | dsimp only [id_eq] | (rename_i e; with_reducible refine Out.of_eq e ?_)

theorem trzEnd_out (f : TrzWord) {s : State} (h₀ : Out L₀ s₀ s)
    (hL : Key.sub trzWordOut L₀ = true) :
    Out L₀ s₀ (trzEnd f s) := by
  unfold trzEnd
  repeat'
    first
      | with_reducible assumption | with_reducible apply State.trzWord_out | with_reducible apply Out.put
      | exact Key.hasA rfl | exact Key.hasW | exact Out.sub hL rfl | intro _ | with_reducible apply Out.ite | split
      | dsimp only [id_eq] | (rename_i e; with_reducible refine Out.of_eq e ?_)

theorem trzWaitMet_out {s : State} (h₀ : Out L₀ s₀ s)
    (hL : Key.sub [.w 15 7798784] L₀ = true) :
    Out L₀ s₀ (trzWaitMet s) := by
  unfold trzWaitMet
  repeat'
    first
      | with_reducible assumption | with_reducible apply Out.put | exact Key.hasA rfl | exact Key.hasW
      | exact Out.sub hL rfl | intro _ | with_reducible apply Out.ite | split | dsimp only [id_eq]
      | (rename_i e; with_reducible refine Out.of_eq e ?_)

/-- What `trzWaitTimeout` may change. -/
def trzWaitTimeoutOut : List Key :=
  [.a 2 32 4, .w 12 8, .w 13 8, .w 13 12, .w 13 76, .w 13 1572864,
    .w 13 2359296, .w 13 2424832, .w 13 20250624, .w 14 8, .w 14 12, .w 14 24, .w 14 84, .w 14 3211264,
    .w 14 3342336, .w 14 3407872, .w 14 3473408, .w 14 3538944, .w 14 4128768, .w 14 4194304, .w 14 4259840,
    .w 14 4325376, .w 14 4587520, .w 14 4784128, .w 14 21692416, .w 14 21757952, .w 14 22675456, .w 14 22806528,
    .w 15 8, .w 15 12, .a 15 24 4, .w 15 52, .a 15 512 4, .w 15 7143424, .w 15 7667712, .w 15 7798784,
    .a 15 8126464 268435456, .a 15 8454144 268435456, .w 16 8, .w 16 8519680, .w 16 8912896, .w 16 9502720,
    .w 16 9568256, .w 16 10551296, .w 16 10878976, .w 16 23068672, .w 16 23789568, .w 17 8, .w 17 12, .w 17 72,
    .a 17 6488064 268435456, .w 17 12320768, .a 17 12713984 268435456, .a 17 12779520 268435456, .w 17 13762560,
    .a 17 24903680 268435456, .w 18 8, .w 18 12, .w 18 72, .w 18 786432, .w 18 20578304, .w 19 12, .w 19 16,
    .w 19 1114112, .w 19 1179648, .a 19 1310720 268435456, .a 19 1376256 268435456, .a 19 22413312 268435456,
    .a 19 22478848 268435456, .w 66 5046272, .p .win, .p .edges, .p .inbox, .p .chn, .p .seqs, .p .pa, .p .jq,
    .p .jact, .p .loops]

theorem trzWaitTimeout_out {s : State} (h₀ : Out L₀ s₀ s)
    (hL : Key.sub trzWaitTimeoutOut L₀ = true) :
    Out L₀ s₀ (trzWaitTimeout s) := by
  unfold trzWaitTimeout
  repeat'
    first
      | with_reducible assumption | with_reducible apply Out.put | with_reducible apply Out.puts_nil
      | with_reducible apply Out.puts_cons | with_reducible apply State.lpLate_out | exact Key.hasA rfl
      | exact Key.hasW | exact Out.sub hL rfl | intro _ | with_reducible apply Out.ite | split | dsimp only [id_eq]
      | (rename_i e; with_reducible refine Out.of_eq e ?_)

theorem lutReady_out {s : State} (h₀ : Out L₀ s₀ s)
    (hL : Key.sub [.w 15 7471104, .w 15 7667712, .p .win, .p .tshd, .p .tshr] L₀ = true) :
    Out L₀ s₀ (lutReady s) := by
  unfold lutReady
  repeat'
    first
      | with_reducible assumption | with_reducible apply State.lpView_out | with_reducible apply State.setOpnd_out
      | with_reducible apply Out.puts_nil | with_reducible apply Out.puts_cons | with_reducible apply Out.put
      | exact Key.hasA rfl | exact Key.hasW | exact Out.sub hL rfl | intro _ | with_reducible apply Out.ite | split
      | dsimp only [id_eq] | (rename_i e; with_reducible refine Out.of_eq e ?_)

theorem trzScrubError_out (addr : Fin 8192) (f : TrzWord) {s : State} (h₀ : Out L₀ s₀ s)
    (hL : Key.sub [.w 15 12, .w 15 68, .p .edges, .p .inbox, .p .tscrub, .p .cstore] L₀ = true) :
    Out L₀ s₀ (trzScrubError addr f s) := by
  unfold trzScrubError
  repeat'
    first
      | with_reducible assumption | with_reducible apply State.trzUpset_out | with_reducible apply Out.post
      | with_reducible apply Out.evt | with_reducible apply Out.count | exact Key.hasA rfl | exact Key.hasW
      | exact Out.sub hL rfl | intro _ | with_reducible apply Out.ite | split | dsimp only [id_eq]
      | (rename_i e; with_reducible refine Out.of_eq e ?_) | with_reducible apply Out.setTscrub

/-- What `trzScrubRewriteDone` may change. -/
def trzScrubRewriteDoneOut : List Key :=
  [.w 9 8, .w 10 20, .w 10 24, .p .tscrub, .p .cstore, .p .pkt, .p .hbm,
    .p .poison]

theorem trzScrubRewriteDone_out {s : State} (h₀ : Out L₀ s₀ s)
    (hL : Key.sub trzScrubRewriteDoneOut L₀ = true) :
    Out L₀ s₀ (trzScrubRewriteDone s) := by
  unfold trzScrubRewriteDone
  repeat'
    first
      | with_reducible assumption | with_reducible apply State.imageRead_out | exact Key.hasA rfl | exact Key.hasW
      | exact Out.sub hL rfl | intro _ | with_reducible apply Out.ite | split | dsimp only [id_eq]
      | (rename_i e; with_reducible refine Out.of_eq e ?_) | with_reducible apply Out.setTscrubCstore

theorem State.clearStates_out {s : State} (h₀ : Out L₀ s₀ s)
    (hL : Key.sub [.p .win] L₀ = true) :
    Out L₀ s₀ (State.clearStates s) := by
  unfold State.clearStates
  repeat'
    first
      | with_reducible assumption | exact Key.hasA rfl | exact Key.hasW | exact Out.sub hL rfl | intro _
      | with_reducible apply Out.ite | split | dsimp only [id_eq]
      | (rename_i e; with_reducible refine Out.of_eq e ?_) | with_reducible apply Out.setWin

theorem State.trzLoad_out {s : State} (h₀ : Out L₀ s₀ s)
    (hL : Key.sub [.p .win] L₀ = true) :
    Out L₀ s₀ (State.trzLoad s) := by
  unfold State.trzLoad
  repeat'
    first
      | with_reducible assumption | with_reducible apply State.loadWin_out | with_reducible apply State.copyWin_out
      | exact Key.hasA rfl | exact Key.hasW | exact Out.sub hL rfl | intro _ | with_reducible apply Out.ite | split
      | dsimp only [id_eq] | (rename_i e; with_reducible refine Out.of_eq e ?_)

theorem State.trzFill_out {s : State} (h₀ : Out L₀ s₀ s)
    (hL : Key.sub [.w 9 8, .w 10 20, .w 10 24, .w 16 22937600, .p .win, .p .cstore, .p .pkt, .p .hbm, .p .poison] L₀ = true) :
    Out L₀ s₀ (State.trzFill s) := by
  unfold State.trzFill
  repeat'
    first
      | with_reducible assumption | with_reducible apply State.shipGroups_out
      | with_reducible apply State.trzLoad_out | with_reducible apply State.imageRead_out
      | with_reducible apply Out.when | with_reducible apply State.setVinBudget_out | exact Key.hasA rfl
      | exact Key.hasW | exact Out.sub hL rfl | intro _ | with_reducible apply Out.ite | split | dsimp only [id_eq]
      | (rename_i e; with_reducible refine Out.of_eq e ?_) | with_reducible apply Out.setCstore

/-- What `State.trzEnable` may change. -/
def trzEnableOut : List Key :=
  [.w 9 8, .w 10 20, .w 10 24, .w 15 0, .w 15 4, .w 15 8, .a 15 7077888 268435456,
    .w 15 7798784, .a 15 8454144 268435456, .a 15 21364736 268435456, .a 15 21889024 268435456,
    .a 15 22872064 268435456, .w 16 22937600, .w 66 5046272, .p .win, .p .loops, .p .tstk, .p .tshd, .p .tshr,
    .p .tscrub, .p .cstore, .p .cog, .p .pkt, .p .hbm, .p .poison]

theorem State.trzEnable_out {s : State} (crcPass : Bool) (h₀ : Out L₀ s₀ s)
    (hL : Key.sub trzEnableOut L₀ = true) :
    Out L₀ s₀ (State.trzEnable s crcPass).1 := by
  unfold State.trzEnable
  split
  · exact h₀
  · refine State.enable_out _ _ _ _ (State.trzFill_out h₀ (Out.sub hL rfl)) Key.hasW
      (Out.sub hL rfl) Key.hasW (Out.sub hL rfl) fun u hu => ?_
    refine Out.forAll _ (fun g v hv => Out.putI (n := (.a 15 21364736 268435456)) _ _ hv ⟨rfl, g, rfl⟩ (Out.sub hL rfl)) _ ?_
    refine State.setBit_out _ _ _ (State.setBit_out _ _ _ (State.refreshInh_out (Out.puts_append _ _ (Out.puts_map
      (n := (.a 15 22872064 268435456)) _ _ _ (Out.puts_append _ _ (Out.puts_map
      (n := (.a 15 21889024 268435456)) _ _ _ (Out.puts_append _ _ (Out.puts_map (n := (.a 15 7077888 268435456)) _ _ _ ?_
      (fun x => ⟨rfl, x, rfl⟩) (Out.sub hL rfl))) (fun x => ⟨rfl, x, rfl⟩) (Out.sub hL rfl))) (fun x => ⟨rfl, x, rfl⟩)
      (Out.sub hL rfl))) (Out.sub hL rfl)) Key.hasW (Out.sub hL rfl)) Key.hasW (Out.sub hL rfl)
    have hp : Key.sub [.p .loops] L₀ = true := Out.sub hL rfl
    have := Out.setCog [] (Out.setTscrub [] (Out.setTshr [] (Out.setTshd [] (Out.setTstk [] (Out.setLoops []
      (State.clearStates_out hu (Out.sub hL rfl)) hp) (Out.sub hL rfl)) (Out.sub hL rfl)) (Out.sub hL rfl))
      (Out.sub hL rfl)) (Out.sub hL rfl)
    exact Out.put _ _ (Out.put _ _ (Out.put _ _ this Key.hasW (Out.sub hL rfl)) Key.hasW (Out.sub hL rfl))
      Key.hasW (Out.sub hL rfl)

theorem trzEnableCmd_out (crcPass : Bool) {s : State} (h₀ : Out L₀ s₀ s)
    (hL : Key.sub trzEnableOut L₀ = true) :
    Out L₀ s₀ (trzEnableCmd crcPass s) := by
  unfold trzEnableCmd
  repeat'
    first
      | with_reducible assumption | with_reducible apply State.trzEnable_out | exact Key.hasA rfl | exact Key.hasW
      | exact Out.sub hL rfl | intro _ | with_reducible apply Out.ite | split | dsimp only [id_eq]
      | (rename_i e; with_reducible refine Out.of_eq e ?_)

theorem State.trzDisable_out {s : State} (h₀ : Out L₀ s₀ s)
    (hL : Key.sub [.w 15 0, .w 15 8, .w 15 7798784, .a 15 8454144 268435456, .p .loops] L₀ = true) :
    Out L₀ s₀ (State.trzDisable s) := by
  unfold State.trzDisable
  repeat'
    first
      | with_reducible assumption | with_reducible apply State.refreshInh_out | with_reducible apply Out.puts_nil
      | with_reducible apply Out.puts_cons | with_reducible apply Out.put | exact Key.hasA rfl | exact Key.hasW
      | exact Out.sub hL rfl | intro _ | with_reducible apply Out.ite | split | dsimp only [id_eq]
      | (rename_i e; with_reducible refine Out.of_eq e ?_) | with_reducible apply Out.setLoops

theorem trzMchkReload_out (crcPass : Bool) {s : State} (h₀ : Out L₀ s₀ s)
    (hL : Key.sub trzEnableOut L₀ = true) :
    Out L₀ s₀ (trzMchkReload crcPass s) := by
  unfold trzMchkReload
  repeat'
    first
      | with_reducible assumption | with_reducible apply State.trzEnable_out
      | with_reducible apply State.trzDisable_out | exact Key.hasA rfl | exact Key.hasW | exact Out.sub hL rfl
      | intro _ | with_reducible apply Out.ite | split | dsimp only [id_eq]
      | (rename_i e; with_reducible refine Out.of_eq e ?_)

theorem execTrzEnable_out (crcPass : Bool) {s t : State} (h : execTrzEnable crcPass s = .next t) :
    Out trzEnableOut s t := by
  have h := Host.Outcome.next.inj h; subst h; exact trzEnableCmd_out _ (Out.refl s) rfl

theorem execTrzNop_out (flip : TrzWord) {s t : State} (h : execTrzNop flip s = .next t) :
    Out trzWordOut s t := by
  have h := Host.Outcome.next.inj h; subst h; exact trzNop_out _ (Out.refl s) rfl

theorem execTrzJmp_out (flip : TrzWord) {s t : State} (h : execTrzJmp flip s = .next t) :
    Out trzWordOut s t := by
  have h := Host.Outcome.next.inj h; subst h; exact trzJmp_out _ (Out.refl s) rfl

theorem execTrzBr_out (flip : TrzWord) {s t : State} (h : execTrzBr flip s = .next t) :
    Out trzWordOut s t := by
  have h := Host.Outcome.next.inj h; subst h; exact trzBr_out _ (Out.refl s) rfl

theorem execTrzCall_out (flip : TrzWord) {s t : State} (h : execTrzCall flip s = .next t) :
    Out trzCallOut s t := by
  have h := Host.Outcome.next.inj h; subst h; exact trzCall_out _ (Out.refl s) rfl

theorem execTrzRet_out (flip : TrzWord) {s t : State} (h : execTrzRet flip s = .next t) :
    Out trzCallOut s t := by
  have h := Host.Outcome.next.inj h; subst h; exact trzRet_out _ (Out.refl s) rfl

theorem execTrzWait_out (flip : TrzWord) {s t : State} (h : execTrzWait flip s = .next t) :
    Out trzWaitOut s t := by
  have h := Host.Outcome.next.inj h; subst h; exact trzWait_out _ (Out.refl s) rfl

theorem execTrzLd_out (flip : TrzWord) {s t : State} (h : execTrzLd flip s = .next t) :
    Out trzLdOut s t := by
  have h := Host.Outcome.next.inj h; subst h; exact trzLd_out _ (Out.refl s) rfl

theorem execTrzMov_out (flip : TrzWord) {s t : State} (h : execTrzMov flip s = .next t) :
    Out trzLdOut s t := by
  have h := Host.Outcome.next.inj h; subst h; exact trzMov_out _ (Out.refl s) rfl

theorem execTrzAdd_out (flip : TrzWord) {s t : State} (h : execTrzAdd flip s = .next t) :
    Out trzAddOut s t := by
  have h := Host.Outcome.next.inj h; subst h; exact trzAdd_out _ (Out.refl s) rfl

theorem execTrzSub_out (flip : TrzWord) {s t : State} (h : execTrzSub flip s = .next t) :
    Out trzAddOut s t := by
  have h := Host.Outcome.next.inj h; subst h; exact trzSub_out _ (Out.refl s) rfl

theorem execTrzMul_out (flip : TrzWord) {s t : State} (h : execTrzMul flip s = .next t) :
    Out trzMulOut s t := by
  have h := Host.Outcome.next.inj h; subst h; exact trzMul_out _ (Out.refl s) rfl

theorem execTrzMac_out (flip : TrzWord) {s t : State} (h : execTrzMac flip s = .next t) :
    Out trzMulOut s t := by
  have h := Host.Outcome.next.inj h; subst h; exact trzMac_out _ (Out.refl s) rfl

theorem execTrzAccout_out (flip : TrzWord) {s t : State} (h : execTrzAccout flip s = .next t) :
    Out trzAddOut s t := by
  have h := Host.Outcome.next.inj h; subst h; exact trzAccout_out _ (Out.refl s) rfl

theorem execTrzClracc_out (flip : TrzWord) {s t : State} (h : execTrzClracc flip s = .next t) :
    Out trzMulOut s t := by
  have h := Host.Outcome.next.inj h; subst h; exact trzClracc_out _ (Out.refl s) rfl

theorem execTrzMin_out (flip : TrzWord) {s t : State} (h : execTrzMin flip s = .next t) :
    Out trzLdOut s t := by
  have h := Host.Outcome.next.inj h; subst h; exact trzMin_out _ (Out.refl s) rfl

theorem execTrzMax_out (flip : TrzWord) {s t : State} (h : execTrzMax flip s = .next t) :
    Out trzLdOut s t := by
  have h := Host.Outcome.next.inj h; subst h; exact trzMax_out _ (Out.refl s) rfl

theorem execTrzLut_out (flip : TrzWord) {s t : State} (h : execTrzLut flip s = .next t) :
    Out trzLutOut s t := by
  have h := Host.Outcome.next.inj h; subst h; exact trzLut_out _ (Out.refl s) rfl

theorem execTrzCmp_out (flip : TrzWord) {s t : State} (h : execTrzCmp flip s = .next t) :
    Out trzCmpOut s t := by
  have h := Host.Outcome.next.inj h; subst h; exact trzCmp_out _ (Out.refl s) rfl

theorem execTrzEnd_out (flip : TrzWord) {s t : State} (h : execTrzEnd flip s = .next t) :
    Out trzWordOut s t := by
  have h := Host.Outcome.next.inj h; subst h; exact trzEnd_out _ (Out.refl s) rfl

theorem execTrzWaitMet_out {s t : State} (h : execTrzWaitMet s = .next t) :
    Out [.w 15 7798784] s t := by
  have h := Host.Outcome.next.inj h; subst h; exact trzWaitMet_out  (Out.refl s) rfl

theorem execTrzWaitTimeout_out {s t : State} (h : execTrzWaitTimeout s = .next t) :
    Out trzWaitTimeoutOut s t := by
  have h := Host.Outcome.next.inj h; subst h; exact trzWaitTimeout_out  (Out.refl s) rfl

theorem execLutReady_out {s t : State} (h : execLutReady s = .next t) :
    Out [.w 15 7471104, .w 15 7667712, .p .win, .p .tshd, .p .tshr] s t := by
  have h := Host.Outcome.next.inj h; subst h; exact lutReady_out  (Out.refl s) rfl

theorem execLoopDispatch_out (whole : Bool) {s t : State} (h : execLoopDispatch whole s = .next t) :
    Out loopDispatchOut s t := by
  have h := Host.Outcome.next.inj h; subst h; exact loopDispatch_out _ (Out.refl s) rfl

theorem execLoopDeadlineMiss_out (n : Fin 64) {s t : State} (h : execLoopDeadlineMiss n s = .next t) :
    Out lpMissOut s t := by
  have h := Host.Outcome.next.inj h; subst h; exact loopDeadlineMiss_out _ (Out.refl s) rfl

theorem execTrzScrubError_out (addr : Fin 8192) (flip : TrzWord) {s t : State} (h : execTrzScrubError addr flip s = .next t) :
    Out [.w 15 12, .w 15 68, .p .edges, .p .inbox, .p .tscrub, .p .cstore] s t := by
  have h := Host.Outcome.next.inj h; subst h; exact trzScrubError_out _ _ (Out.refl s) rfl

theorem execTrzScrubRewriteDone_out {s t : State} (h : execTrzScrubRewriteDone s = .next t) :
    Out trzScrubRewriteDoneOut s t := by
  have h := Host.Outcome.next.inj h; subst h; exact trzScrubRewriteDone_out  (Out.refl s) rfl

theorem execTrzMchkReload_out (crcPass : Bool) {s t : State} (h : execTrzMchkReload crcPass s = .next t) :
    Out trzEnableOut s t := by
  have h := Host.Outcome.next.inj h; subst h; exact trzMchkReload_out _ (Out.refl s) rfl

end Sys2Proof.Machine
end

