-- ==== Sys2Proof/Laws/OutCarousel.lean ====
section
/-!
SUPPORT. What each operation and each command of `Machine/Carousel.lean` can change.
-/

namespace Sys2Proof.Machine

set_option Elab.async false
set_option linter.unusedVariables false

set_option maxRecDepth 8000
set_option linter.unusedTactic false
set_option linter.unreachableTactic false

variable {L₀ : List Key} {s₀ : State}

theorem srcOkFld_has (i : Nat) : (Key.w 16 8).has (srcOkFld i) := by
  unfold srcOkFld
  repeat' first | exact ⟨rfl, rfl⟩ | exact (rfl : _ = _) | split

theorem srcResFld_has (i : Nat) : (Key.w 16 28).has (srcResFld i) := by
  unfold srcResFld
  repeat' first | exact ⟨rfl, rfl⟩ | exact (rfl : _ = _) | split

theorem State.tryStart_out {s : State} (h₀ : Out L₀ s₀ s)
    (hL : Key.sub [.w 16 8, .w 16 8519680, .w 16 8585216, .w 16 8912896, .w 16 8978432, .w 16 9240576, .w 16 9306112, .w 16 9502720,
    .w 16 9568256, .w 16 10551296, .w 16 10944512, .w 16 23068672, .w 16 23789568, .w 16 23855104, .w 16 24051712,
    .w 16 24444928, .w 17 13762560, .w 17 24510464, .p .win] L₀ = true) :
    Out L₀ s₀ (State.tryStart s) := by
  unfold State.tryStart
  repeat'
    first
      | with_reducible assumption | with_reducible apply Out.forAll | with_reducible apply Out.puts_nil
      | with_reducible apply Out.puts_cons | with_reducible apply Out.put | with_reducible apply Out.when
      | with_reducible apply State.setBit_out | with_reducible apply State.crlTo_out | exact Key.hasA rfl
      | exact Key.hasW | exact Out.sub hL rfl | intro _ | with_reducible apply Out.ite | split | dsimp only [id_eq]
      | (rename_i e; with_reducible refine Out.of_eq e ?_)

/-- What `State.applySp` may change. -/
def applySpOut : List Key :=
  [.a 2 32 4, .w 12 8, .w 13 8, .w 13 12, .w 13 76, .w 13 1572864, .w 13 2359296,
    .w 13 2424832, .w 13 20250624, .w 14 8, .w 14 12, .w 14 24, .w 14 84, .w 14 3211264, .w 14 3342336,
    .w 14 3407872, .w 14 3473408, .w 14 3538944, .w 14 4128768, .w 14 4194304, .w 14 4259840, .w 14 4325376,
    .w 14 4784128, .w 14 21692416, .w 14 21757952, .w 14 22675456, .w 14 22806528, .w 16 8, .w 16 12, .w 16 6094848,
    .w 16 8519680, .w 16 8585216, .w 16 8912896, .w 16 8978432, .w 16 9240576, .w 16 9306112, .w 16 9502720,
    .w 16 9568256, .w 16 9961472, .w 16 10223616, .w 16 10551296, .w 16 10944512, .w 16 23068672, .w 16 23789568,
    .w 16 23855104, .w 16 24051712, .w 16 24444928, .w 17 13762560, .w 17 24510464, .w 18 8, .w 18 12, .w 18 72,
    .w 18 786432, .w 18 20578304, .w 19 12, .w 19 16, .w 19 1114112, .w 19 1179648, .a 19 1310720 268435456,
    .a 19 1376256 268435456, .a 19 22413312 268435456, .a 19 22478848 268435456, .p .win, .p .edges, .p .inbox,
    .p .chn, .p .seqs, .p .pa, .p .jq, .p .jact]

theorem State.applySp_out {s : State} (n : Nat) (h₀ : Out L₀ s₀ s)
    (hL : Key.sub applySpOut L₀ = true) :
    Out L₀ s₀ (State.applySp s n) := by
  unfold State.applySp
  repeat'
    first
      | with_reducible assumption | with_reducible apply State.setAtSp_out | with_reducible apply Out.puts_nil
      | with_reducible apply Out.puts_cons | with_reducible apply Out.put | with_reducible apply State.unloadAll_out
      | with_reducible apply State.crlTo_out | with_reducible apply State.driveRefs_out
      | with_reducible apply State.tryStart_out | exact Key.hasA rfl | exact Key.hasW | exact Out.sub hL rfl
      | intro _ | with_reducible apply Out.ite | split | dsimp only [id_eq]
      | (rename_i e; with_reducible refine Out.of_eq e ?_)

theorem State.evalSp_out {s : State} (h₀ : Out L₀ s₀ s)
    (hL : Key.sub [.a 2 32 4, .w 12 8, .w 13 8, .w 13 12, .w 13 76, .w 13 1572864, .w 13 2359296, .w 13 2424832, .w 13 20250624,
    .w 14 8, .w 14 12, .w 14 24, .w 14 84, .w 14 3211264, .w 14 3342336, .w 14 3407872, .w 14 3473408,
    .w 14 3538944, .w 14 4128768, .w 14 4194304, .w 14 4259840, .w 14 4325376, .w 14 4784128, .w 14 21692416,
    .w 14 21757952, .w 14 22675456, .w 14 22806528, .w 16 8, .w 16 12, .w 16 6094848, .w 16 8519680, .w 16 8585216,
    .w 16 8912896, .w 16 8978432, .w 16 9240576, .w 16 9306112, .w 16 9502720, .w 16 9568256, .w 16 9895936,
    .w 16 9961472, .w 16 10223616, .w 16 10551296, .w 16 10944512, .w 16 23068672, .w 16 23789568, .w 16 23855104,
    .w 16 24051712, .w 16 24444928, .w 17 13762560, .w 17 24510464, .w 18 8, .w 18 12, .w 18 72, .w 18 786432,
    .w 18 20578304, .w 19 12, .w 19 16, .w 19 1114112, .w 19 1179648, .a 19 1310720 268435456,
    .a 19 1376256 268435456, .a 19 22413312 268435456, .a 19 22478848 268435456, .p .win, .p .edges, .p .inbox,
    .p .chn, .p .seqs, .p .pa, .p .jq, .p .jact] L₀ = true) :
    Out L₀ s₀ (State.evalSp s) := by
  unfold State.evalSp
  repeat'
    first
      | with_reducible assumption | with_reducible apply Out.put | with_reducible apply Out.puts_nil
      | with_reducible apply Out.puts_cons | with_reducible apply State.applySp_out | exact Key.hasA rfl
      | exact Key.hasW | exact Out.sub hL rfl | intro _ | with_reducible apply Out.ite | split | dsimp only [id_eq]
      | (rename_i e; with_reducible refine Out.of_eq e ?_)

/-- What `spOvr` may change. -/
def spOvrOut : List Key :=
  [.a 2 32 4, .w 12 8, .w 13 8, .w 13 12, .w 13 76, .w 13 1572864, .w 13 2359296,
    .w 13 2424832, .w 13 20250624, .w 14 8, .w 14 12, .w 14 24, .w 14 84, .w 14 3211264, .w 14 3342336,
    .w 14 3407872, .w 14 3473408, .w 14 3538944, .w 14 4128768, .w 14 4194304, .w 14 4259840, .w 14 4325376,
    .w 14 4784128, .w 14 21692416, .w 14 21757952, .w 14 22675456, .w 14 22806528, .w 16 0, .w 16 8, .w 16 12,
    .w 16 6094848, .w 16 8519680, .w 16 8585216, .w 16 8912896, .w 16 8978432, .w 16 9240576, .w 16 9306112,
    .w 16 9502720, .w 16 9568256, .w 16 9895936, .w 16 9961472, .w 16 10223616, .w 16 10551296, .w 16 10944512,
    .w 16 23068672, .w 16 23789568, .w 16 23855104, .w 16 24051712, .w 16 24444928, .w 17 13762560, .w 17 24510464,
    .w 18 8, .w 18 12, .w 18 72, .w 18 786432, .w 18 20578304, .w 19 12, .w 19 16, .w 19 1114112, .w 19 1179648,
    .a 19 1310720 268435456, .a 19 1376256 268435456, .a 19 22413312 268435456, .a 19 22478848 268435456, .p .win,
    .p .edges, .p .inbox, .p .chn, .p .seqs, .p .pa, .p .jq, .p .jact]

theorem spOvr_out (ovr : Bool) (req : Fin 4) {s : State} (h₀ : Out L₀ s₀ s)
    (hL : Key.sub spOvrOut L₀ = true) :
    Out L₀ s₀ (spOvr ovr req s) := by
  unfold spOvr
  repeat'
    first
      | with_reducible assumption | with_reducible apply State.evalSp_out | with_reducible apply Out.puts_nil
      | with_reducible apply Out.puts_cons | with_reducible apply Out.put | exact Key.hasA rfl | exact Key.hasW
      | exact Out.sub hL rfl | intro _ | with_reducible apply Out.ite | split | dsimp only [id_eq]
      | (rename_i e; with_reducible refine Out.of_eq e ?_)

theorem setpointApply_out {s : State} (h₀ : Out L₀ s₀ s)
    (hL : Key.sub applySpOut L₀ = true) :
    Out L₀ s₀ (setpointApply s) := by
  unfold setpointApply
  repeat'
    first
      | with_reducible assumption | with_reducible apply State.applySp_out | exact Key.hasA rfl | exact Key.hasW
      | exact Out.sub hL rfl | intro _ | with_reducible apply Out.ite | split | dsimp only [id_eq]
      | (rename_i e; with_reducible refine Out.of_eq e ?_)

theorem State.track_out {s : State} (o : PwmObs) (i : Nat) (h₀ : Out L₀ s₀ s)
    (hL : Key.sub [.a 16 23134208 268435456, .a 16 23199744 268435456, .a 16 23265280 268435456] L₀ = true) :
    Out L₀ s₀ (State.track s o i) := by
  unfold State.track
  repeat'
    first
      | with_reducible assumption | with_reducible apply Out.put | with_reducible apply Out.puts_nil
      | with_reducible apply Out.puts_cons | with_reducible apply Out.putI | exact Key.hasA rfl | exact Key.hasW
      | exact Out.sub hL rfl | intro _ | with_reducible apply Out.ite | split | dsimp only [id_eq]
      | (rename_i e; with_reducible refine Out.of_eq e ?_)

theorem State.srcStep_out {s : State} (o : PwmObs) (i : Nat) (h₀ : Out L₀ s₀ s)
    (hL : Key.sub [.w 16 8, .w 16 28, .a 16 8650752 268435456, .a 16 8716288 268435456, .a 16 23134208 268435456,
    .a 16 23199744 268435456, .a 16 23265280 268435456] L₀ = true) :
    Out L₀ s₀ (State.srcStep s o i) := by
  unfold State.srcStep
  repeat'
    first
      | with_reducible assumption | with_reducible apply State.track_out | with_reducible apply Out.putI
      | with_reducible apply Out.puts_nil | with_reducible apply Out.puts_cons | with_reducible apply Out.put
      | exact srcOkFld_has _ | exact srcResFld_has _ | exact Key.hasA rfl | exact Key.hasW | exact Out.sub hL rfl
      | intro _ | with_reducible apply Out.ite | split | dsimp only [id_eq]
      | (rename_i e; with_reducible refine Out.of_eq e ?_)

theorem State.srcLossAll_out {s : State} (last : Nat) (h₀ : Out L₀ s₀ s)
    (hL : Key.sub [.a 2 32 4, .w 12 8, .w 13 8, .w 13 12, .w 13 76, .w 13 1572864, .w 13 2359296, .w 13 2424832, .w 13 20250624,
    .w 14 8, .w 14 12, .w 14 24, .w 14 84, .w 14 3211264, .w 14 3342336, .w 14 3407872, .w 14 3473408,
    .w 14 3538944, .w 14 4128768, .w 14 4194304, .w 14 4259840, .w 14 4325376, .w 14 4784128, .w 14 21692416,
    .w 14 21757952, .w 14 22675456, .w 14 22806528, .w 16 8, .w 16 12, .w 16 68, .w 16 8519680, .w 16 8847360,
    .w 16 8912896, .w 16 9502720, .w 16 9568256, .w 16 9699328, .w 16 9764864, .w 16 9830400, .w 16 10420224,
    .w 16 10551296, .w 16 10878976, .w 16 23068672, .w 16 23789568, .w 16 23855104, .w 16 23920640, .w 17 13762560,
    .w 18 8, .w 18 12, .w 18 72, .w 18 786432, .w 18 20578304, .w 19 12, .w 19 16, .w 19 1114112, .w 19 1179648,
    .a 19 1310720 268435456, .a 19 1376256 268435456, .a 19 22413312 268435456, .a 19 22478848 268435456, .p .win,
    .p .edges, .p .inbox, .p .chn, .p .seqs, .p .pa, .p .jq, .p .jact] L₀ = true) :
    Out L₀ s₀ (State.srcLossAll s last) := by
  unfold State.srcLossAll
  repeat'
    first
      | with_reducible assumption | with_reducible apply Out.puts_nil | with_reducible apply Out.puts_cons
      | with_reducible apply Out.put | with_reducible apply State.crlCoast_out | with_reducible apply Out.post
      | with_reducible apply Out.count | with_reducible apply Out.evt | with_reducible apply State.unloadAll_out
      | exact Key.hasA rfl | exact Key.hasW | exact Out.sub hL rfl | intro _ | with_reducible apply Out.ite | split
      | dsimp only [id_eq] | (rename_i e; with_reducible refine Out.of_eq e ?_)

theorem State.srcLost_out {s : State} (src : Nat) (h₀ : Out L₀ s₀ s)
    (hL : Key.sub [.a 2 32 4, .w 12 8, .w 13 8, .w 13 12, .w 13 76, .w 13 1572864, .w 13 2359296, .w 13 2424832, .w 13 20250624,
    .w 14 8, .w 14 12, .w 14 24, .w 14 84, .w 14 3211264, .w 14 3342336, .w 14 3407872, .w 14 3473408,
    .w 14 3538944, .w 14 4128768, .w 14 4194304, .w 14 4259840, .w 14 4325376, .w 14 4784128, .w 14 21692416,
    .w 14 21757952, .w 14 22675456, .w 14 22806528, .w 16 8, .w 16 12, .w 16 64, .w 16 68, .w 16 8519680,
    .w 16 8847360, .w 16 8912896, .w 16 9502720, .w 16 9568256, .w 16 9699328, .w 16 9764864, .w 16 9830400,
    .w 16 10420224, .w 16 10551296, .w 16 10878976, .w 16 23068672, .w 16 23789568, .w 16 23855104, .w 16 23920640,
    .w 17 13762560, .w 18 8, .w 18 12, .w 18 72, .w 18 786432, .w 18 20578304, .w 19 12, .w 19 16, .w 19 1114112,
    .w 19 1179648, .a 19 1310720 268435456, .a 19 1376256 268435456, .a 19 22413312 268435456,
    .a 19 22478848 268435456, .p .win, .p .edges, .p .inbox, .p .chn, .p .seqs, .p .pa, .p .jq, .p .jact] L₀ = true) :
    Out L₀ s₀ (State.srcLost s src) := by
  unfold State.srcLost
  repeat'
    first
      | with_reducible assumption | with_reducible apply State.srcLossAll_out | with_reducible apply Out.post
      | with_reducible apply Out.count | with_reducible apply Out.evt | with_reducible apply Out.puts_nil
      | with_reducible apply Out.puts_cons | with_reducible apply Out.put | exact srcResFld_has _
      | exact Key.hasA rfl | exact Key.hasW | exact Out.sub hL rfl | intro _ | with_reducible apply Out.ite | split
      | dsimp only [id_eq] | (rename_i e; with_reducible refine Out.of_eq e ?_)

theorem State.slewStep_out {s : State} (src : Nat) (b : Nat) (h₀ : Out L₀ s₀ s)
    (hL : Key.sub [.w 16 8, .w 16 8847360, .w 16 10813440] L₀ = true) :
    Out L₀ s₀ (State.slewStep s src b) := by
  unfold State.slewStep
  repeat'
    first
      | with_reducible assumption | with_reducible apply Out.puts_nil | with_reducible apply Out.puts_cons
      | with_reducible apply Out.put | with_reducible apply Out.putI | exact Key.hasA rfl | exact Key.hasW
      | exact Out.sub hL rfl | intro _ | with_reducible apply Out.ite | split | dsimp only [id_eq]
      | (rename_i e; with_reducible refine Out.of_eq e ?_)

theorem State.srcUse_out {s : State} (h₀ : Out L₀ s₀ s)
    (hL : Key.sub [.a 2 32 4, .w 12 8, .w 13 8, .w 13 12, .w 13 76, .w 13 1572864, .w 13 2359296, .w 13 2424832, .w 13 20250624,
    .w 14 8, .w 14 12, .w 14 24, .w 14 84, .w 14 3211264, .w 14 3342336, .w 14 3407872, .w 14 3473408,
    .w 14 3538944, .w 14 4128768, .w 14 4194304, .w 14 4259840, .w 14 4325376, .w 14 4784128, .w 14 21692416,
    .w 14 21757952, .w 14 22675456, .w 14 22806528, .w 16 8, .w 16 12, .w 16 64, .w 16 68, .w 16 8519680,
    .w 16 8847360, .w 16 8912896, .w 16 9502720, .w 16 9568256, .w 16 9699328, .w 16 9764864, .w 16 9830400,
    .w 16 10420224, .w 16 10551296, .w 16 10813440, .w 16 10878976, .w 16 23068672, .w 16 23789568, .w 16 23855104,
    .w 16 23920640, .w 17 13762560, .w 18 8, .w 18 12, .w 18 72, .w 18 786432, .w 18 20578304, .w 19 12, .w 19 16,
    .w 19 1114112, .w 19 1179648, .a 19 1310720 268435456, .a 19 1376256 268435456, .a 19 22413312 268435456,
    .a 19 22478848 268435456, .p .win, .p .edges, .p .inbox, .p .chn, .p .seqs, .p .pa, .p .jq, .p .jact] L₀ = true) :
    Out L₀ s₀ (State.srcUse s) := by
  unfold State.srcUse
  repeat'
    first
      | with_reducible assumption | with_reducible apply Out.puts_nil | with_reducible apply Out.puts_cons
      | with_reducible apply Out.put | with_reducible apply State.srcLossAll_out | with_reducible apply Out.when
      | with_reducible apply State.srcLost_out | with_reducible apply State.slewStep_out | exact srcOkFld_has _
      | exact Key.hasA rfl | exact Key.hasW | exact Out.sub hL rfl | intro _ | with_reducible apply Out.ite | split
      | dsimp only [id_eq] | (rename_i e; with_reducible refine Out.of_eq e ?_)

theorem State.srcShow_out {s : State} (o : PwmObs) (h₀ : Out L₀ s₀ s)
    (hL : Key.sub [.w 16 8, .w 16 20, .w 16 24, .w 16 23396352, .w 16 23461888, .w 16 23855104] L₀ = true) :
    Out L₀ s₀ (State.srcShow s o) := by
  unfold State.srcShow
  repeat'
    first
      | with_reducible assumption | with_reducible apply Out.when | with_reducible apply Out.put
      | with_reducible apply Out.puts_nil | with_reducible apply Out.puts_cons | exact Key.hasA rfl | exact Key.hasW
      | exact Out.sub hL rfl | intro _ | with_reducible apply Out.ite | split | dsimp only [id_eq]
      | (rename_i e; with_reducible refine Out.of_eq e ?_)

theorem State.encShift_out {s : State} (h₀ : Out L₀ s₀ s)
    (hL : Key.sub [.w 16 12, .w 16 10158080, .w 16 10289152, .w 16 11075584, .p .edges, .p .inbox, .p .tenc] L₀ = true) :
    Out L₀ s₀ (State.encShift s) := by
  unfold State.encShift
  repeat'
    first
      | with_reducible assumption | with_reducible apply Out.puts_nil | with_reducible apply Out.puts_cons
      | with_reducible apply Out.put | with_reducible apply Out.putI | with_reducible apply Out.post
      | with_reducible apply Out.evt | exact Key.hasA rfl | exact Key.hasW | exact Out.sub hL rfl | intro _
      | with_reducible apply Out.ite | split | dsimp only [id_eq]
      | (rename_i e; with_reducible refine Out.of_eq e ?_) | with_reducible apply Out.setTenc

theorem State.park_out {s : State} (h₀ : Out L₀ s₀ s)
    (hL : Key.sub [.w 16 10682368, .w 16 10747904] L₀ = true) :
    Out L₀ s₀ (State.park s) := by
  unfold State.park
  repeat'
    first
      | with_reducible assumption | with_reducible apply Out.putI | with_reducible apply Out.foldl
      | with_reducible apply Out.foldlFst | exact Key.hasA rfl | exact Key.hasW | exact Out.sub hL rfl | intro _
      | with_reducible apply Out.ite | split | dsimp only [id_eq]
      | (rename_i e; with_reducible refine Out.of_eq e ?_)

theorem State.modulate_out {s : State} (h₀ : Out L₀ s₀ s)
    (hL : Key.sub [.a 16 10485760 268435456, .w 16 23527424, .w 16 23592960, .a 16 24182784 268435456, .p .free] L₀ = true) :
    Out L₀ s₀ (State.modulate s) := by
  unfold State.modulate
  repeat'
    first
      | with_reducible assumption | with_reducible apply Out.puts_nil | with_reducible apply Out.puts_cons
      | with_reducible apply Out.put | with_reducible apply Out.drew | exact Key.hasA rfl | exact Key.hasW
      | exact Out.sub hL rfl | intro _ | with_reducible apply Out.ite | split | dsimp only [id_eq]
      | (rename_i e; with_reducible refine Out.of_eq e ?_)

theorem State.brake_out {s : State} (h₀ : Out L₀ s₀ s)
    (hL : Key.sub crlToOut L₀ = true) :
    Out L₀ s₀ (State.brake s) := by
  unfold State.brake
  repeat'
    first
      | with_reducible assumption | with_reducible apply State.crlTo_out | exact Key.hasA rfl | exact Key.hasW
      | exact Out.sub hL rfl | intro _ | with_reducible apply Out.ite | split | dsimp only [id_eq]
      | (rename_i e; with_reducible refine Out.of_eq e ?_)

theorem State.crlStep_out {s : State} (o : PwmObs) (h₀ : Out L₀ s₀ s)
    (hL : Key.sub [.a 2 32 4, .w 12 8, .w 13 8, .w 13 12, .w 13 76, .w 13 1572864, .w 13 2359296, .w 13 2424832, .w 13 20250624,
    .w 14 8, .w 14 12, .w 14 24, .w 14 84, .w 14 3211264, .w 14 3342336, .w 14 3407872, .w 14 3473408,
    .w 14 3538944, .w 14 4128768, .w 14 4194304, .w 14 4259840, .w 14 4325376, .w 14 4784128, .w 14 21692416,
    .w 14 21757952, .w 14 22675456, .w 14 22806528, .w 16 8, .w 16 12, .w 16 68, .w 16 76, .w 16 8519680,
    .w 16 8585216, .w 16 8847360, .w 16 8912896, .w 16 8978432, .w 16 9240576, .w 16 9306112, .w 16 9502720,
    .w 16 9568256, .w 16 9699328, .w 16 9764864, .w 16 9830400, .w 16 10092544, .w 16 10354688, .w 16 10420224,
    .w 16 10551296, .w 16 10878976, .w 16 10944512, .w 16 23068672, .w 16 23789568, .w 16 23855104, .w 16 23920640,
    .w 16 24051712, .w 16 24444928, .w 17 13762560, .w 17 24510464, .w 18 8, .w 18 12, .w 18 72, .w 18 786432,
    .w 18 20578304, .w 19 12, .w 19 16, .w 19 1114112, .w 19 1179648, .a 19 1310720 268435456,
    .a 19 1376256 268435456, .a 19 22413312 268435456, .a 19 22478848 268435456, .p .win, .p .edges, .p .inbox,
    .p .chn, .p .seqs, .p .pa, .p .jq, .p .jact] L₀ = true) :
    Out L₀ s₀ (State.crlStep s o) := by
  unfold State.crlStep
  repeat'
    first
      | with_reducible assumption | with_reducible apply State.tryStart_out | with_reducible apply State.crlTo_out
      | with_reducible apply Out.puts_nil | with_reducible apply Out.puts_cons | with_reducible apply Out.put
      | with_reducible apply State.brake_out | with_reducible apply Out.count
      | with_reducible apply State.srcLossAll_out | exact Key.hasA rfl | exact Key.hasW | exact Out.sub hL rfl
      | intro _ | with_reducible apply Out.ite | split | dsimp only [id_eq]
      | (rename_i e; with_reducible refine Out.of_eq e ?_)

theorem State.spinUpDone_out {s : State} (h₀ : Out L₀ s₀ s)
    (hL : Key.sub [.w 16 22937600, .w 66 19070976, .w 66 19202048, .p .win] L₀ = true) :
    Out L₀ s₀ (State.spinUpDone s) := by
  unfold State.spinUpDone
  repeat'
    first
      | with_reducible assumption | with_reducible apply State.setVinBudget_out | with_reducible apply Out.puts_nil
      | with_reducible apply Out.puts_cons | with_reducible apply Out.put | exact Key.hasA rfl | exact Key.hasW
      | exact Out.sub hL rfl | intro _ | with_reducible apply Out.ite | split | dsimp only [id_eq]
      | (rename_i e; with_reducible refine Out.of_eq e ?_)

theorem State.speedFlags_out {s : State} (h₀ : Out L₀ s₀ s)
    (hL : Key.sub [.a 2 32 4, .w 5 8, .a 5 128 4, .w 12 8, .w 13 8, .w 13 12, .w 13 76, .w 13 1572864, .w 13 2359296, .w 13 2424832,
    .w 13 20250624, .w 14 8, .w 14 12, .w 14 24, .w 14 84, .w 14 3211264, .w 14 3342336, .w 14 3407872,
    .w 14 3473408, .w 14 3538944, .w 14 4128768, .w 14 4194304, .w 14 4259840, .w 14 4325376, .w 14 4784128,
    .w 14 21692416, .w 14 21757952, .w 14 22675456, .w 14 22806528, .w 16 8, .w 16 12, .w 16 6094848, .w 16 6160384,
    .w 16 10223616, .w 16 22937600, .w 17 24510464, .w 18 8, .w 18 12, .w 18 72, .w 18 786432, .w 18 20578304,
    .w 19 12, .w 19 16, .w 19 1114112, .w 19 1179648, .a 19 1310720 268435456, .a 19 1376256 268435456,
    .a 19 22413312 268435456, .a 19 22478848 268435456, .w 66 19070976, .w 66 19202048, .p .win, .p .edges,
    .p .inbox, .p .chn, .p .seqs, .p .pa, .p .jq, .p .jact] L₀ = true) :
    Out L₀ s₀ (State.speedFlags s) := by
  unfold State.speedFlags
  repeat'
    first
      | with_reducible assumption | with_reducible apply Out.when | with_reducible apply Out.put
      | with_reducible apply State.stepEnd_out | with_reducible apply State.spinUpDone_out
      | with_reducible apply State.setAtSp_out | with_reducible apply Out.putB
      | with_reducible apply State.unloadAll_out | exact Key.hasA rfl | exact Key.hasW | exact Out.sub hL rfl
      | intro _ | with_reducible apply Out.ite | split | dsimp only [id_eq]
      | (rename_i e; with_reducible refine Out.of_eq e ?_)

theorem State.shuntOffsets_out {s : State} (h₀ : Out L₀ s₀ s)
    (hL : Key.sub [.a 16 10616832 268435456, .w 16 10944512, .a 16 11010048 268435456] L₀ = true) :
    Out L₀ s₀ (State.shuntOffsets s) := by
  unfold State.shuntOffsets
  repeat'
    first
      | with_reducible assumption | with_reducible apply Out.forAll | with_reducible apply Out.put
      | with_reducible apply Out.putI | exact Key.hasA rfl | exact Key.hasW | exact Out.sub hL rfl | intro _
      | with_reducible apply Out.ite | split | dsimp only [id_eq]
      | (rename_i e; with_reducible refine Out.of_eq e ?_)

theorem State.applyPwm_out {s : State} (h₀ : Out L₀ s₀ s)
    (hL : Key.sub [.a 17 12255232 268435456, .w 17 12320768] L₀ = true) :
    Out L₀ s₀ (State.applyPwm s) := by
  unfold State.applyPwm
  repeat'
    first
      | with_reducible assumption | with_reducible apply Out.puts_nil | with_reducible apply Out.puts_cons
      | with_reducible apply Out.put | exact Key.hasA rfl | exact Key.hasW | exact Out.sub hL rfl | intro _
      | with_reducible apply Out.ite | split | dsimp only [id_eq]
      | (rename_i e; with_reducible refine Out.of_eq e ?_)

theorem State.crlPeriod_out {s : State} (o : PwmObs) (h₀ : Out L₀ s₀ s)
    (hL : Key.sub [.a 2 32 4, .w 5 8, .a 5 128 4, .w 12 8, .w 13 8, .w 13 12, .w 13 76, .w 13 1572864, .w 13 2359296, .w 13 2424832,
    .w 13 20250624, .w 14 8, .w 14 12, .w 14 24, .w 14 84, .w 14 3211264, .w 14 3342336, .w 14 3407872,
    .w 14 3473408, .w 14 3538944, .w 14 4128768, .w 14 4194304, .w 14 4259840, .w 14 4325376, .w 14 4784128,
    .w 14 21692416, .w 14 21757952, .w 14 22675456, .w 14 22806528, .w 16 8, .w 16 12, .w 16 20, .w 16 24, .w 16 28,
    .w 16 64, .w 16 68, .w 16 76, .w 16 6094848, .w 16 6160384, .w 16 8519680, .w 16 8585216,
    .a 16 8650752 268435456, .a 16 8716288 268435456, .w 16 8847360, .w 16 8912896, .w 16 8978432, .w 16 9240576,
    .w 16 9306112, .w 16 9502720, .w 16 9568256, .w 16 9699328, .w 16 9764864, .w 16 9830400, .w 16 10092544,
    .w 16 10158080, .w 16 10223616, .w 16 10289152, .w 16 10354688, .w 16 10420224, .a 16 10485760 268435456,
    .w 16 10551296, .a 16 10616832 268435456, .w 16 10813440, .w 16 10878976, .w 16 10944512,
    .a 16 11010048 268435456, .w 16 11075584, .w 16 22937600, .w 16 23068672, .a 16 23134208 268435456,
    .a 16 23199744 268435456, .a 16 23265280 268435456, .w 16 23330816, .w 16 23396352, .w 16 23461888,
    .w 16 23527424, .w 16 23592960, .w 16 23789568, .w 16 23855104, .w 16 23920640, .w 16 24051712,
    .a 16 24182784 268435456, .w 16 24444928, .w 17 13762560, .w 17 24510464, .w 18 8, .w 18 12, .w 18 72,
    .w 18 786432, .w 18 20578304, .w 19 12, .w 19 16, .w 19 1114112, .w 19 1179648, .a 19 1310720 268435456,
    .a 19 1376256 268435456, .a 19 22413312 268435456, .a 19 22478848 268435456, .w 66 19070976, .w 66 19202048,
    .p .win, .p .free, .p .edges, .p .inbox, .p .chn, .p .seqs, .p .pa, .p .jq, .p .jact, .p .tenc] L₀ = true) :
    Out L₀ s₀ (State.crlPeriod s o) := by
  unfold State.crlPeriod
  repeat'
    first
      | with_reducible assumption | with_reducible apply Out.puts_nil | with_reducible apply Out.puts_cons
      | with_reducible apply Out.put | with_reducible apply State.srcStep_out
      | with_reducible apply State.encShift_out | with_reducible apply State.srcShow_out
      | with_reducible apply State.srcUse_out | with_reducible apply State.modulate_out
      | with_reducible apply State.crlStep_out | with_reducible apply State.speedFlags_out
      | with_reducible apply State.shuntOffsets_out | exact Key.hasA rfl | exact Key.hasW | exact Out.sub hL rfl
      | intro _ | with_reducible apply Out.ite | split | dsimp only [id_eq]
      | (rename_i e; with_reducible refine Out.of_eq e ?_)

theorem State.resAmp_out {s : State} (o : PwmObs) (h₀ : Out L₀ s₀ s)
    (hL : Key.sub [.w 16 23658496] L₀ = true) :
    Out L₀ s₀ (State.resAmp s o) := by
  unfold State.resAmp
  repeat'
    first
      | with_reducible assumption | with_reducible apply Out.put | exact Key.hasA rfl | exact Key.hasW
      | exact Out.sub hL rfl | intro _ | with_reducible apply Out.ite | split | dsimp only [id_eq]
      | (rename_i e; with_reducible refine Out.of_eq e ?_)

/-- What `pwmPeriod` may change. -/
def pwmPeriodOut : List Key :=
  [.a 2 32 4, .w 5 8, .a 5 128 4, .w 12 8, .w 13 8, .w 13 12, .w 13 76,
    .w 13 1572864, .w 13 2359296, .w 13 2424832, .w 13 20250624, .w 14 8, .w 14 12, .w 14 24, .w 14 84,
    .w 14 3211264, .w 14 3342336, .w 14 3407872, .w 14 3473408, .w 14 3538944, .w 14 4128768, .w 14 4194304,
    .w 14 4259840, .w 14 4325376, .w 14 4784128, .w 14 21692416, .w 14 21757952, .w 14 22675456, .w 14 22806528,
    .w 16 8, .w 16 12, .w 16 20, .w 16 24, .w 16 28, .w 16 64, .w 16 68, .w 16 76, .w 16 6094848, .w 16 6160384,
    .w 16 8519680, .w 16 8585216, .a 16 8650752 268435456, .a 16 8716288 268435456, .w 16 8847360, .w 16 8912896,
    .w 16 8978432, .w 16 9240576, .w 16 9306112, .w 16 9502720, .w 16 9568256, .w 16 9699328, .w 16 9764864,
    .w 16 9830400, .w 16 10092544, .w 16 10158080, .w 16 10223616, .w 16 10289152, .w 16 10354688, .w 16 10420224,
    .a 16 10485760 268435456, .w 16 10551296, .a 16 10616832 268435456, .w 16 10813440, .w 16 10878976,
    .w 16 10944512, .a 16 11010048 268435456, .w 16 11075584, .w 16 22937600, .w 16 23068672,
    .a 16 23134208 268435456, .a 16 23199744 268435456, .a 16 23265280 268435456, .w 16 23330816, .w 16 23396352,
    .w 16 23461888, .w 16 23527424, .w 16 23592960, .w 16 23658496, .w 16 23789568, .w 16 23855104, .w 16 23920640,
    .w 16 24051712, .a 16 24182784 268435456, .w 16 24444928, .a 17 12255232 268435456, .w 17 12320768,
    .w 17 13762560, .w 17 24510464, .w 18 8, .w 18 12, .w 18 72, .w 18 786432, .w 18 20578304, .w 19 12, .w 19 16,
    .w 19 1114112, .w 19 1179648, .a 19 1310720 268435456, .a 19 1376256 268435456, .a 19 22413312 268435456,
    .a 19 22478848 268435456, .w 66 19070976, .w 66 19202048, .p .win, .p .free, .p .edges, .p .inbox, .p .chn,
    .p .seqs, .p .pa, .p .jq, .p .jact, .p .tenc]

theorem pwmPeriod_out (o : PwmObs) {s : State} (h₀ : Out L₀ s₀ s)
    (hL : Key.sub pwmPeriodOut L₀ = true) :
    Out L₀ s₀ (pwmPeriod o s) := by
  unfold pwmPeriod
  repeat'
    first
      | with_reducible assumption | with_reducible apply State.crlPeriod_out | with_reducible apply State.resAmp_out
      | with_reducible apply State.applyPwm_out | exact Key.hasA rfl | exact Key.hasW | exact Out.sub hL rfl
      | intro _ | with_reducible apply Out.ite | split | dsimp only [id_eq]
      | (rename_i e; with_reducible refine Out.of_eq e ?_)

theorem mediaWedgeMissing_out {s : State} (h₀ : Out L₀ s₀ s)
    (hL : Key.sub [.w 16 8, .w 16 6750208, .w 16 6815744, .a 16 8716288 268435456] L₀ = true) :
    Out L₀ s₀ (mediaWedgeMissing s) := by
  unfold mediaWedgeMissing
  repeat'
    first
      | with_reducible assumption | with_reducible apply Out.when | with_reducible apply Out.puts_nil
      | with_reducible apply Out.puts_cons | with_reducible apply Out.put | exact Key.hasA rfl | exact Key.hasW
      | exact Out.sub hL rfl | intro _ | with_reducible apply Out.ite | split | dsimp only [id_eq]
      | (rename_i e; with_reducible refine Out.of_eq e ?_)

/-- What `sensePulse` may change. -/
def sensePulseOut : List Key :=
  [.w 16 8, .w 16 8519680, .w 16 8912896, .w 16 8978432, .a 16 9043968 268435456,
    .w 16 9109504, .w 16 9175040, .a 16 9437184 268435456, .w 16 9502720, .w 16 9568256, .w 16 10551296,
    .w 16 23068672, .w 16 23789568, .w 17 13762560, .p .win]

theorem sensePulse_out (peak : BitVec 16) {s : State} (h₀ : Out L₀ s₀ s)
    (hL : Key.sub sensePulseOut L₀ = true) :
    Out L₀ s₀ (sensePulse peak s) := by
  unfold sensePulse
  repeat'
    first
      | with_reducible assumption | with_reducible apply Out.puts_nil | with_reducible apply Out.puts_cons
      | with_reducible apply Out.put | with_reducible apply State.crlTo_out | with_reducible apply Out.foldl
      | with_reducible apply Out.foldlFst | exact Key.hasA rfl | exact Key.hasW | exact Out.sub hL rfl | intro _
      | with_reducible apply Out.ite | split | dsimp only [id_eq]
      | (rename_i e; with_reducible refine Out.of_eq e ?_)

theorem alignEnd_out {s : State} (h₀ : Out L₀ s₀ s)
    (hL : Key.sub crlToOut L₀ = true) :
    Out L₀ s₀ (alignEnd s) := by
  unfold alignEnd
  repeat'
    first
      | with_reducible assumption | with_reducible apply State.crlTo_out | exact Key.hasA rfl | exact Key.hasW
      | exact Out.sub hL rfl | intro _ | with_reducible apply Out.ite | split | dsimp only [id_eq]
      | (rename_i e; with_reducible refine Out.of_eq e ?_)

/-- What `startAttemptFail` may change. -/
def startAttemptFailOut : List Key :=
  [.w 16 8, .w 16 12, .w 16 72, .w 16 8519680, .w 16 8912896, .w 16 9240576,
    .a 16 9371648 268435456, .w 16 9502720, .w 16 9568256, .w 16 10551296, .w 16 23068672, .w 16 23789568,
    .w 17 13762560, .p .win, .p .edges, .p .inbox]

theorem startAttemptFail_out (top : Nat) {s : State} (h₀ : Out L₀ s₀ s)
    (hL : Key.sub startAttemptFailOut L₀ = true) :
    Out L₀ s₀ (startAttemptFail top s) := by
  unfold startAttemptFail
  repeat'
    first
      | with_reducible assumption | with_reducible apply Out.post | with_reducible apply Out.count
      | with_reducible apply Out.evt | with_reducible apply State.crlTo_out | with_reducible apply Out.puts_nil
      | with_reducible apply Out.puts_cons | with_reducible apply Out.put | exact Key.hasA rfl | exact Key.hasW
      | exact Out.sub hL rfl | intro _ | with_reducible apply Out.ite | split | dsimp only [id_eq]
      | (rename_i e; with_reducible refine Out.of_eq e ?_)

theorem State.shortTimer_out {s : State} (h₀ : Out L₀ s₀ s)
    (hL : Key.sub [.w 16 8, .w 16 12, .w 16 8519680, .w 16 8585216, .w 16 8912896, .w 16 8978432, .w 16 9240576, .w 16 9306112,
    .w 16 9502720, .w 16 9568256, .w 16 10551296, .w 16 23068672, .w 16 23789568, .w 17 13762560, .p .win,
    .p .edges, .p .inbox] L₀ = true) :
    Out L₀ s₀ (State.shortTimer s) := by
  unfold State.shortTimer
  repeat'
    first
      | with_reducible assumption | with_reducible apply State.crlTo_out | with_reducible apply Out.puts_nil
      | with_reducible apply Out.puts_cons | with_reducible apply Out.put | with_reducible apply Out.post
      | with_reducible apply Out.evt | exact Key.hasA rfl | exact Key.hasW | exact Out.sub hL rfl | intro _
      | with_reducible apply Out.ite | split | dsimp only [id_eq]
      | (rename_i e; with_reducible refine Out.of_eq e ?_)

theorem State.shortQuiet_out {s : State} (h₀ : Out L₀ s₀ s)
    (hL : Key.sub [.w 12 8, .w 13 8, .w 13 12, .w 13 76, .w 13 1572864, .w 13 2359296, .w 13 2424832, .w 13 20250624, .w 14 8,
    .w 14 12, .w 14 24, .w 14 84, .w 14 3538944, .w 14 4259840, .w 14 4325376, .w 16 8, .w 16 12, .w 16 20,
    .w 16 6094848, .w 16 8519680, .w 16 8912896, .w 16 9502720, .w 16 9568256, .w 16 10092544, .w 16 10551296,
    .w 16 10944512, .w 16 23068672, .w 16 23789568, .w 16 23855104, .w 17 13762560, .w 18 8, .w 18 12, .w 18 72,
    .w 18 786432, .w 18 20578304, .w 19 16, .a 19 1310720 268435456, .a 19 1376256 268435456,
    .a 19 22413312 268435456, .a 19 22478848 268435456, .p .win, .p .edges, .p .inbox, .p .chn, .p .seqs, .p .pa] L₀ = true) :
    Out L₀ s₀ (State.shortQuiet s) := by
  unfold State.shortQuiet
  repeat'
    first
      | with_reducible assumption | with_reducible apply State.crlTo_out | with_reducible apply State.setAtSp_out
      | with_reducible apply Out.puts_nil | with_reducible apply Out.puts_cons | with_reducible apply Out.put
      | exact Key.hasA rfl | exact Key.hasW | exact Out.sub hL rfl | intro _ | with_reducible apply Out.ite | split
      | dsimp only [id_eq] | (rename_i e; with_reducible refine Out.of_eq e ?_)

theorem State.seedBemf_out {s : State} (interval : Nat) (sector : Nat) (h₀ : Out L₀ s₀ s)
    (hL : Key.sub [.a 16 8650752 268435456, .a 16 23134208 268435456, .a 16 23199744 268435456, .a 16 23265280 268435456] L₀ = true) :
    Out L₀ s₀ (State.seedBemf s interval sector) := by
  unfold State.seedBemf
  repeat'
    first
      | with_reducible assumption | with_reducible apply Out.putI | with_reducible apply Out.puts_nil
      | with_reducible apply Out.puts_cons | with_reducible apply Out.put | exact Key.hasA rfl | exact Key.hasW
      | exact Out.sub hL rfl | intro _ | with_reducible apply Out.ite | split | dsimp only [id_eq]
      | (rename_i e; with_reducible refine Out.of_eq e ?_)

/-- What `zeroCrossing` may change. -/
def zeroCrossingOut : List Key :=
  [.w 16 8, .w 16 20, .w 16 8519680, .a 16 8650752 268435456, .w 16 8912896,
    .w 16 9502720, .w 16 9568256, .w 16 9633792, .w 16 9699328, .w 16 10551296, .w 16 23068672,
    .a 16 23134208 268435456, .a 16 23199744 268435456, .a 16 23265280 268435456, .w 16 23789568, .w 16 23855104,
    .w 16 23986176, .w 17 13762560, .w 17 24510464, .p .win, .p .inbox]

theorem zeroCrossing_out (interval : Nat) (sector : Fin 6) {s : State} (h₀ : Out L₀ s₀ s)
    (hL : Key.sub zeroCrossingOut L₀ = true) :
    Out L₀ s₀ (zeroCrossing interval sector s) := by
  unfold zeroCrossing
  repeat'
    first
      | with_reducible assumption | with_reducible apply Out.puts_nil | with_reducible apply Out.puts_cons
      | with_reducible apply Out.put | with_reducible apply Out.post | with_reducible apply State.crlTo_out
      | with_reducible apply State.seedBemf_out | exact Key.hasA rfl | exact Key.hasW | exact Out.sub hL rfl
      | intro _ | with_reducible apply Out.ite | split | dsimp only [id_eq]
      | (rename_i e; with_reducible refine Out.of_eq e ?_)

/-- What `catchTimeout` may change. -/
def catchTimeoutOut : List Key :=
  [.w 16 8, .w 16 12, .w 16 20, .w 16 8519680, .w 16 8912896, .w 16 9502720,
    .w 16 9568256, .w 16 9699328, .w 16 9764864, .w 16 10551296, .w 16 10878976, .w 16 23068672, .w 16 23789568,
    .w 16 23855104, .w 17 13762560, .p .win, .p .edges, .p .inbox]

theorem catchTimeout_out (peak : BitVec 16) {s : State} (h₀ : Out L₀ s₀ s)
    (hL : Key.sub catchTimeoutOut L₀ = true) :
    Out L₀ s₀ (catchTimeout peak s) := by
  unfold catchTimeout
  repeat'
    first
      | with_reducible assumption | with_reducible apply Out.evt | with_reducible apply Out.puts_nil
      | with_reducible apply Out.puts_cons | with_reducible apply Out.put | with_reducible apply Out.when
      | with_reducible apply Out.post | with_reducible apply State.crlTo_out | exact Key.hasA rfl | exact Key.hasW
      | exact Out.sub hL rfl | intro _ | with_reducible apply Out.ite | split | dsimp only [id_eq]
      | (rename_i e; with_reducible refine Out.of_eq e ?_)

/-- What `catchRetry` may change. -/
def catchRetryOut : List Key :=
  [.w 16 8, .w 16 20, .w 16 8519680, .w 16 8912896, .w 16 9502720, .w 16 9568256,
    .w 16 9699328, .w 16 9764864, .w 16 10551296, .w 16 10878976, .w 16 23068672, .w 16 23789568, .w 16 23855104,
    .w 17 13762560, .p .win]

theorem catchRetry_out (peak : BitVec 16) {s : State} (h₀ : Out L₀ s₀ s)
    (hL : Key.sub catchRetryOut L₀ = true) :
    Out L₀ s₀ (catchRetry peak s) := by
  unfold catchRetry
  repeat'
    first
      | with_reducible assumption | with_reducible apply Out.puts_nil | with_reducible apply Out.puts_cons
      | with_reducible apply Out.put | with_reducible apply State.crlTo_out | exact Key.hasA rfl | exact Key.hasW
      | exact Out.sub hL rfl | intro _ | with_reducible apply Out.ite | split | dsimp only [id_eq]
      | (rename_i e; with_reducible refine Out.of_eq e ?_)

theorem State.crlChopFault_out {s : State} (h₀ : Out L₀ s₀ s)
    (hL : Key.sub [.w 16 8, .w 16 12, .w 16 8519680, .w 16 8912896, .w 16 9502720, .w 16 9568256, .w 16 10092544, .w 16 10551296,
    .w 16 23068672, .w 16 23789568, .w 17 13762560, .p .win, .p .edges, .p .inbox] L₀ = true) :
    Out L₀ s₀ (State.crlChopFault s) := by
  unfold State.crlChopFault
  repeat'
    first
      | with_reducible assumption | with_reducible apply Out.evt | with_reducible apply Out.put
      | with_reducible apply Out.post | with_reducible apply State.crlTo_out | exact Key.hasA rfl | exact Key.hasW
      | exact Out.sub hL rfl | intro _ | with_reducible apply Out.ite | split | dsimp only [id_eq]
      | (rename_i e; with_reducible refine Out.of_eq e ?_)

theorem State.crlOvTrip_out {s : State} (h₀ : Out L₀ s₀ s)
    (hL : Key.sub [.a 2 32 4, .w 12 8, .w 13 8, .w 13 12, .w 13 76, .w 13 1572864, .w 13 2359296, .w 13 2424832, .w 13 20250624,
    .w 14 8, .w 14 12, .w 14 24, .w 14 84, .w 14 3211264, .w 14 3342336, .w 14 3407872, .w 14 3473408,
    .w 14 3538944, .w 14 4128768, .w 14 4194304, .w 14 4259840, .w 14 4325376, .w 14 4784128, .w 14 21692416,
    .w 14 21757952, .w 14 22675456, .w 14 22806528, .w 16 8, .w 16 12, .w 16 80, .w 16 8519680, .w 16 8912896,
    .w 16 9502720, .w 16 9568256, .w 16 10027008, .w 16 10551296, .w 16 10878976, .w 16 23068672, .w 16 23789568,
    .w 17 13762560, .w 18 8, .w 18 12, .w 18 72, .w 18 786432, .w 18 20578304, .w 19 12, .w 19 16, .w 19 1114112,
    .w 19 1179648, .a 19 1310720 268435456, .a 19 1376256 268435456, .a 19 22413312 268435456,
    .a 19 22478848 268435456, .p .win, .p .edges, .p .inbox, .p .chn, .p .seqs, .p .pa, .p .jq, .p .jact] L₀ = true) :
    Out L₀ s₀ (State.crlOvTrip s) := by
  unfold State.crlOvTrip
  repeat'
    first
      | with_reducible assumption | with_reducible apply Out.post | with_reducible apply Out.count
      | with_reducible apply Out.evt | with_reducible apply State.unloadAll_out | with_reducible apply Out.put
      | with_reducible apply State.crlCoast_out | exact Key.hasA rfl | exact Key.hasW | exact Out.sub hL rfl
      | intro _ | with_reducible apply Out.ite | split | dsimp only [id_eq]
      | (rename_i e; with_reducible refine Out.of_eq e ?_)

/-- What `ovRecovery` may change. -/
def ovRecoveryOut : List Key :=
  [.w 16 8, .w 16 8519680, .w 16 8912896, .w 16 9502720, .w 16 9568256,
    .w 16 10027008, .w 16 10551296, .w 16 10878976, .w 16 23068672, .w 16 23789568, .w 17 13762560, .p .win]

theorem ovRecovery_out {s : State} (h₀ : Out L₀ s₀ s)
    (hL : Key.sub ovRecoveryOut L₀ = true) :
    Out L₀ s₀ (ovRecovery s) := by
  unfold ovRecovery
  repeat'
    first
      | with_reducible assumption | with_reducible apply State.crlTo_out | with_reducible apply Out.puts_nil
      | with_reducible apply Out.puts_cons | with_reducible apply Out.put | exact Key.hasA rfl | exact Key.hasW
      | exact Out.sub hL rfl | intro _ | with_reducible apply Out.ite | split | dsimp only [id_eq]
      | (rename_i e; with_reducible refine Out.of_eq e ?_)

/-- What `State.crlEnable` may change. -/
def crlEnableOut : List Key :=
  [.a 2 32 4, .w 12 8, .w 13 8, .w 13 12, .w 13 76, .w 13 1572864, .w 13 2359296,
    .w 13 2424832, .w 13 20250624, .w 14 8, .w 14 12, .w 14 24, .w 14 84, .w 14 3211264, .w 14 3342336,
    .w 14 3407872, .w 14 3473408, .w 14 3538944, .w 14 4128768, .w 14 4194304, .w 14 4259840, .w 14 4325376,
    .w 14 4784128, .w 14 21692416, .w 14 21757952, .w 14 22675456, .w 14 22806528, .w 16 0, .w 16 4, .w 16 8,
    .w 16 12, .w 16 6094848, .w 16 8519680, .w 16 8585216, .w 16 8912896, .w 16 8978432, .w 16 9240576,
    .w 16 9306112, .w 16 9502720, .w 16 9568256, .w 16 9699328, .w 16 9764864, .w 16 9895936, .w 16 9961472,
    .w 16 10027008, .w 16 10092544, .w 16 10158080, .w 16 10223616, .w 16 10551296, .w 16 10878976, .w 16 10944512,
    .w 16 22937600, .w 16 23068672, .w 16 23724032, .w 16 23789568, .w 16 23855104, .w 16 24051712, .w 16 24444928,
    .w 17 13762560, .w 17 24510464, .w 18 8, .w 18 12, .w 18 72, .w 18 786432, .w 18 20578304, .w 19 12, .w 19 16,
    .w 19 1114112, .w 19 1179648, .a 19 1310720 268435456, .a 19 1376256 268435456, .a 19 22413312 268435456,
    .a 19 22478848 268435456, .p .win, .p .edges, .p .inbox, .p .chn, .p .seqs, .p .pa, .p .jq, .p .jact, .p .spn]

theorem State.crlEnable_out {s : State} (resOk : Bool) (h₀ : Out L₀ s₀ s)
    (hL : Key.sub crlEnableOut L₀ = true) :
    Out L₀ s₀ (State.crlEnable s resOk).1 := by
  unfold State.crlEnable
  repeat'
    first
      | with_reducible assumption | with_reducible apply State.enable_out | with_reducible apply Out.puts_nil
      | with_reducible apply Out.puts_cons | with_reducible apply Out.put | with_reducible apply State.evalSp_out
      | with_reducible apply State.crlTo_out | with_reducible apply State.setVinBudget_out | exact Key.hasA rfl
      | exact Key.hasW | exact Out.sub hL rfl | intro _ | with_reducible apply Out.ite | split | dsimp only [id_eq]
      | (rename_i e; with_reducible refine Out.of_eq e ?_) | with_reducible apply Out.setSpn

theorem crlEnableCmd_out (resOk : Bool) {s : State} (h₀ : Out L₀ s₀ s)
    (hL : Key.sub crlEnableOut L₀ = true) :
    Out L₀ s₀ (crlEnableCmd resOk s) := by
  unfold crlEnableCmd
  repeat'
    first
      | with_reducible assumption | with_reducible apply State.crlEnable_out | exact Key.hasA rfl | exact Key.hasW
      | exact Out.sub hL rfl | intro _ | with_reducible apply Out.ite | split | dsimp only [id_eq]
      | (rename_i e; with_reducible refine Out.of_eq e ?_)

theorem State.crlDisable_out {s : State} (h₀ : Out L₀ s₀ s)
    (hL : Key.sub [.w 12 8, .w 13 8, .w 13 12, .w 13 76, .w 13 1572864, .w 13 2359296, .w 13 2424832, .w 13 20250624, .w 14 8,
    .w 14 12, .w 14 24, .w 14 84, .w 14 3538944, .w 14 4259840, .w 14 4325376, .w 16 0, .w 16 8, .w 16 12,
    .w 16 6094848, .w 16 6160384, .w 16 8519680, .w 16 8912896, .w 16 9502720, .w 16 9568256, .w 16 10551296,
    .w 16 23068672, .w 16 23789568, .w 16 23855104, .w 17 13762560, .w 18 8, .w 18 12, .w 18 72, .w 18 786432,
    .w 18 20578304, .w 19 16, .a 19 1310720 268435456, .a 19 1376256 268435456, .a 19 22413312 268435456,
    .a 19 22478848 268435456, .p .win, .p .edges, .p .inbox, .p .chn, .p .seqs, .p .pa] L₀ = true) :
    Out L₀ s₀ (State.crlDisable s) := by
  unfold State.crlDisable
  repeat'
    first
      | with_reducible assumption | with_reducible apply State.crlTo_out | with_reducible apply State.setAtSp_out
      | with_reducible apply Out.puts_nil | with_reducible apply Out.puts_cons | with_reducible apply Out.put
      | exact Key.hasA rfl | exact Key.hasW | exact Out.sub hL rfl | intro _ | with_reducible apply Out.ite | split
      | dsimp only [id_eq] | (rename_i e; with_reducible refine Out.of_eq e ?_)

theorem execMediaWedgeMissing_out {s t : State} (h : execMediaWedgeMissing s = .next t) :
    Out [.w 16 8, .w 16 6750208, .w 16 6815744, .a 16 8716288 268435456] s t := by
  have h := Host.Outcome.next.inj h; subst h; exact mediaWedgeMissing_out  (Out.refl s) rfl

theorem execCrlEnable_out (resOk : Bool) {s t : State} (h : execCrlEnable resOk s = .next t) :
    Out crlEnableOut s t := by
  have h := Host.Outcome.next.inj h; subst h; exact crlEnableCmd_out _ (Out.refl s) rfl

theorem execSpOvr_out (ovr : Bool) (req : Fin 4) {s t : State} (h : execSpOvr ovr req s = .next t) :
    Out spOvrOut s t := by
  have h := Host.Outcome.next.inj h; subst h; exact spOvr_out _ _ (Out.refl s) rfl

theorem execPwmPeriod_out (o : PwmObs) {s t : State} (h : execPwmPeriod o s = .next t) :
    Out pwmPeriodOut s t := by
  have h := Host.Outcome.next.inj h; subst h; exact pwmPeriod_out _ (Out.refl s) rfl

theorem execSensePulse_out (peak : BitVec 16) {s t : State} (h : execSensePulse peak s = .next t) :
    Out sensePulseOut s t := by
  have h := Host.Outcome.next.inj h; subst h; exact sensePulse_out _ (Out.refl s) rfl

theorem execAlignEnd_out {s t : State} (h : execAlignEnd s = .next t) :
    Out crlToOut s t := by
  have h := Host.Outcome.next.inj h; subst h; exact alignEnd_out  (Out.refl s) rfl

theorem execStartAttemptFail_out (top : Nat) {s t : State} (h : execStartAttemptFail top s = .next t) :
    Out startAttemptFailOut s t := by
  have h := Host.Outcome.next.inj h; subst h; exact startAttemptFail_out _ (Out.refl s) rfl

theorem execZeroCrossing_out (interval : Nat) (sector : Fin 6) {s t : State} (h : execZeroCrossing interval sector s = .next t) :
    Out zeroCrossingOut s t := by
  have h := Host.Outcome.next.inj h; subst h; exact zeroCrossing_out _ _ (Out.refl s) rfl

theorem execCatchTimeout_out (peak : BitVec 16) {s t : State} (h : execCatchTimeout peak s = .next t) :
    Out catchTimeoutOut s t := by
  have h := Host.Outcome.next.inj h; subst h; exact catchTimeout_out _ (Out.refl s) rfl

theorem execCatchRetry_out (peak : BitVec 16) {s t : State} (h : execCatchRetry peak s = .next t) :
    Out catchRetryOut s t := by
  have h := Host.Outcome.next.inj h; subst h; exact catchRetry_out _ (Out.refl s) rfl

theorem execSetpointApply_out {s t : State} (h : execSetpointApply s = .next t) :
    Out applySpOut s t := by
  have h := Host.Outcome.next.inj h; subst h; exact setpointApply_out  (Out.refl s) rfl

theorem execOvRecovery_out {s t : State} (h : execOvRecovery s = .next t) :
    Out ovRecoveryOut s t := by
  have h := Host.Outcome.next.inj h; subst h; exact ovRecovery_out  (Out.refl s) rfl

end Sys2Proof.Machine
end

