-- ==== Sys2Proof/Laws/OutStrongman.lean ====
section
/-!
SUPPORT. What each operation and each command of `Machine/Strongman.lean` can change.
-/

namespace Sys2Proof.Machine

set_option Elab.async false
set_option linter.unusedVariables false

set_option maxRecDepth 8000
set_option linter.unusedTactic false
set_option linter.unreachableTactic false

variable {L₀ : List Key} {s₀ : State}

theorem linkSeq_has (i : Nat) : (Key.a 66 11534336 268435456).has (V.linkSeq i) := ⟨rfl, i, rfl⟩

theorem phCur_has (i : Nat) : (Key.a 16 11206656 268435456).has (V.phCur i) := ⟨rfl, i, rfl⟩

theorem vcmCur_has (i : Nat) : (Key.a 16 11272192 268435456).has (V.vcmCur i) := ⟨rfl, i, rfl⟩

theorem bemfVel_has (i : Nat) : (Key.a 16 11337728 268435456).has (V.bemfVel i) := ⟨rfl, i, rfl⟩

theorem State.plCheck_out {s : State} (h₀ : Out L₀ s₀ s)
    (hL : Key.sub [.w 17 28, .w 17 12320768, .w 17 12976128] L₀ = true) :
    Out L₀ s₀ (State.plCheck s) := by
  unfold State.plCheck
  repeat'
    first
      | with_reducible assumption | with_reducible apply Out.puts_nil | with_reducible apply Out.puts_cons
      | with_reducible apply Out.put | exact Key.hasA rfl | exact Key.hasW | exact Out.sub hL rfl | intro _
      | with_reducible apply Out.ite | split | dsimp only [id_eq]
      | (rename_i e; with_reducible refine Out.of_eq e ?_)

/-- What `State.retractEnd` may change. -/
def retractEndOut : List Key :=
  [.w 17 8, .w 17 12, .w 17 28, .a 17 12124160 268435456, .w 17 12320768,
    .a 17 12713984 268435456, .a 17 12779520 268435456, .w 17 12976128, .a 17 13697024 268435456,
    .a 17 24903680 268435456, .p .edges]

theorem State.retractEnd_out {s : State} (a : Nat) (h₀ : Out L₀ s₀ s)
    (hL : Key.sub retractEndOut L₀ = true) :
    Out L₀ s₀ (State.retractEnd s a) := by
  unfold State.retractEnd
  repeat'
    first
      | with_reducible assumption | with_reducible apply State.plCheck_out | with_reducible apply Out.evt
      | with_reducible apply Out.puts_nil | with_reducible apply Out.puts_cons | with_reducible apply Out.put
      | with_reducible apply State.setBit_out | exact Key.hasA rfl | exact Key.hasW | exact Out.sub hL rfl | intro _
      | with_reducible apply Out.ite | split | dsimp only [id_eq]
      | (rename_i e; with_reducible refine Out.of_eq e ?_)

theorem State.retractDrive_out {s : State} (a : Nat) (volt : Int) (cur : Int) (h₀ : Out L₀ s₀ s)
    (hL : Key.sub [.a 17 12124160 268435456, .a 17 24838144 268435456, .a 17 24903680 268435456] L₀ = true) :
    Out L₀ s₀ (State.retractDrive s a volt cur) := by
  unfold State.retractDrive
  repeat'
    first
      | with_reducible assumption | with_reducible apply Out.put | with_reducible apply Out.putI | exact Key.hasA rfl
      | exact Key.hasW | exact Out.sub hL rfl | intro _ | with_reducible apply Out.ite | split | dsimp only [id_eq]
      | (rename_i e; with_reducible refine Out.of_eq e ?_)

theorem retractParked_out (a : Act) {s : State} (h₀ : Out L₀ s₀ s)
    (hL : Key.sub [.w 17 28, .a 17 12124160 268435456, .a 17 12713984 268435456] L₀ = true) :
    Out L₀ s₀ (retractParked a s) := by
  unfold retractParked
  repeat'
    first
      | with_reducible assumption | with_reducible apply Out.when | with_reducible apply Out.putI
      | with_reducible apply Out.put | with_reducible apply State.setBit_out | exact Key.hasA rfl | exact Key.hasW
      | exact Out.sub hL rfl | intro _ | with_reducible apply Out.ite | split | dsimp only [id_eq]
      | (rename_i e; with_reducible refine Out.of_eq e ?_)

theorem retractParkHoldEnd_out (a : Act) {s : State} (h₀ : Out L₀ s₀ s)
    (hL : Key.sub retractEndOut L₀ = true) :
    Out L₀ s₀ (retractParkHoldEnd a s) := by
  unfold retractParkHoldEnd
  repeat'
    first
      | with_reducible assumption | with_reducible apply State.retractEnd_out | exact Key.hasA rfl | exact Key.hasW
      | exact Out.sub hL rfl | intro _ | with_reducible apply Out.ite | split | dsimp only [id_eq]
      | (rename_i e; with_reducible refine Out.of_eq e ?_)

theorem retractTimeout_out (a : Act) {s : State} (h₀ : Out L₀ s₀ s)
    (hL : Key.sub [.w 17 12, .w 17 28, .a 17 12124160 268435456, .a 17 12713984 268435456, .p .edges, .p .inbox] L₀ = true) :
    Out L₀ s₀ (retractTimeout a s) := by
  unfold retractTimeout
  repeat'
    first
      | with_reducible assumption | with_reducible apply Out.post | with_reducible apply Out.evt
      | with_reducible apply Out.putI | with_reducible apply Out.put | with_reducible apply Out.when
      | with_reducible apply State.setBit_out | exact Key.hasA rfl | exact Key.hasW | exact Out.sub hL rfl | intro _
      | with_reducible apply Out.ite | split | dsimp only [id_eq]
      | (rename_i e; with_reducible refine Out.of_eq e ?_)

theorem retractPushEnd_out (a : Act) {s : State} (h₀ : Out L₀ s₀ s)
    (hL : Key.sub retractEndOut L₀ = true) :
    Out L₀ s₀ (retractPushEnd a s) := by
  unfold retractPushEnd
  repeat'
    first
      | with_reducible assumption | with_reducible apply State.retractEnd_out | exact Key.hasA rfl | exact Key.hasW
      | exact Out.sub hL rfl | intro _ | with_reducible apply Out.ite | split | dsimp only [id_eq]
      | (rename_i e; with_reducible refine Out.of_eq e ?_)

theorem stopWireAssert_out (cause : Fin 5) {s : State} (h₀ : Out L₀ s₀ s)
    (hL : Key.sub stopAssertOut L₀ = true) :
    Out L₀ s₀ (stopWireAssert cause s) := by
  unfold stopWireAssert
  repeat'
    first
      | with_reducible assumption | with_reducible apply State.stopAssert_out | exact Key.hasA rfl | exact Key.hasW
      | exact Out.sub hL rfl | intro _ | with_reducible apply Out.ite | split | dsimp only [id_eq]
      | (rename_i e; with_reducible refine Out.of_eq e ?_)

theorem State.powerFail_out {s : State} (v12 : Bool) (h₀ : Out L₀ s₀ s)
    (hL : Key.sub [.w 12 8, .w 13 8, .w 13 12, .w 13 76, .w 13 1572864, .w 13 2359296, .w 13 2424832, .w 13 20250624, .w 14 8,
    .w 14 24, .w 14 4259840, .w 14 4325376, .w 17 8, .w 17 12, .w 17 28, .w 17 72, .w 17 5111808,
    .a 17 6488064 268435456, .w 17 12320768, .a 17 12713984 268435456, .a 17 12779520 268435456, .w 17 12845056,
    .w 17 12976128, .w 17 13041664, .a 17 24903680 268435456, .w 18 8, .w 18 12, .w 18 72, .w 18 786432,
    .w 18 20578304, .w 19 16, .a 19 1310720 268435456, .a 19 1376256 268435456, .a 19 22413312 268435456,
    .a 19 22478848 268435456, .w 20 8, .w 20 12, .a 20 32 4, .w 25 8, .w 25 20, .w 25 24, .w 25 28, .w 64 15794176,
    .a 65 15335424 268435456, .a 65 15400960 268435456, .p .edges, .p .inbox, .p .chn, .p .seqs, .p .pa, .p .blks,
    .p .fops, .p .fwait, .p .popen, .p .pbuf] L₀ = true) :
    Out L₀ s₀ (State.powerFail s v12) := by
  unfold State.powerFail
  repeat'
    first
      | with_reducible assumption | with_reducible apply State.closeRec_out | with_reducible apply Out.evt
      | with_reducible apply Out.puts_nil | with_reducible apply Out.puts_cons | with_reducible apply Out.put
      | with_reducible apply Out.forAll | with_reducible apply State.endWrite_out
      | with_reducible apply State.stmLatchAll_out | with_reducible apply State.plCheck_out
      | with_reducible apply State.dropGrants_out | with_reducible apply State.stmRetractAll_out | exact Key.hasA rfl
      | exact Key.hasW | exact Out.sub hL rfl | intro _ | with_reducible apply Out.ite | split | dsimp only [id_eq]
      | (rename_i e; with_reducible refine Out.of_eq e ?_)

theorem State.ovTrip_out {s : State} (h₀ : Out L₀ s₀ s)
    (hL : Key.sub [.w 17 8, .w 17 12, .w 17 12320768, .w 17 13172736, .p .edges] L₀ = true) :
    Out L₀ s₀ (State.ovTrip s) := by
  unfold State.ovTrip
  repeat'
    first
      | with_reducible assumption | with_reducible apply State.stmLatchAll_out | with_reducible apply Out.evt
      | with_reducible apply Out.puts_nil | with_reducible apply Out.puts_cons | with_reducible apply Out.put
      | exact Key.hasA rfl | exact Key.hasW | exact Out.sub hL rfl | intro _ | with_reducible apply Out.ite | split
      | dsimp only [id_eq] | (rename_i e; with_reducible refine Out.of_eq e ?_)

theorem State.beyond_out {s : State} (i : Nat) (b : Bool) (h₀ : Out L₀ s₀ s)
    (hL : Key.sub [.a 17 12386304 268435456] L₀ = true) :
    Out L₀ s₀ (State.beyond s i b) := by
  unfold State.beyond
  repeat'
    first
      | with_reducible assumption | with_reducible apply Out.put | exact Key.hasA rfl | exact Key.hasW
      | exact Out.sub hL rfl | intro _ | with_reducible apply Out.ite | split | dsimp only [id_eq]
      | (rename_i e; with_reducible refine Out.of_eq e ?_)

theorem State.sagAbort_out {s : State} (h₀ : Out L₀ s₀ s)
    (hL : Key.sub [.a 2 32 4, .w 5 12, .w 5 68, .w 12 8, .w 13 8, .w 13 12, .w 13 76, .w 13 1572864, .w 13 2359296, .w 13 2424832,
    .w 13 20250624, .w 14 8, .w 14 12, .w 14 24, .w 14 84, .w 14 3211264, .w 14 3342336, .w 14 3407872,
    .w 14 3473408, .w 14 3538944, .w 14 4128768, .w 14 4194304, .w 14 4259840, .w 14 4325376, .w 14 4784128,
    .w 14 21692416, .w 14 21757952, .w 14 22675456, .w 14 22806528, .w 16 0, .w 16 8, .w 16 12, .w 16 6094848,
    .w 16 8519680, .w 16 8585216, .w 16 8912896, .w 16 8978432, .w 16 9240576, .w 16 9306112, .w 16 9502720,
    .w 16 9568256, .w 16 9895936, .w 16 9961472, .w 16 10223616, .w 16 10551296, .w 16 10944512, .w 16 11141120,
    .w 16 23068672, .w 16 23789568, .w 16 23855104, .w 16 24051712, .w 16 24444928, .w 17 13762560, .w 17 24510464,
    .w 18 8, .w 18 12, .w 18 72, .w 18 786432, .w 18 20578304, .w 19 12, .w 19 16, .w 19 1114112, .w 19 1179648,
    .a 19 1310720 268435456, .a 19 1376256 268435456, .a 19 22413312 268435456, .a 19 22478848 268435456,
    .w 66 18874368, .w 66 18939904, .w 66 19005440, .w 66 19070976, .w 66 19136512, .p .win, .p .edges, .p .inbox,
    .p .chn, .p .seqs, .p .pa, .p .jq, .p .jact] L₀ = true) :
    Out L₀ s₀ (State.sagAbort s) := by
  unfold State.sagAbort
  repeat'
    first
      | with_reducible assumption | with_reducible apply Out.evt | with_reducible apply Out.count
      | with_reducible apply Out.puts_nil | with_reducible apply Out.puts_cons | with_reducible apply Out.put
      | with_reducible apply State.evalSp_out | with_reducible apply Out.post | exact Key.hasA rfl | exact Key.hasW
      | exact Out.sub hL rfl | intro _ | with_reducible apply Out.ite | split | dsimp only [id_eq]
      | (rename_i e; with_reducible refine Out.of_eq e ?_)

/-- What `supplySample` may change. -/
def supplySampleOut : List Key :=
  [.w 12 8, .w 13 8, .w 13 12, .w 13 76, .w 13 1572864, .w 13 2359296,
    .w 13 2424832, .w 13 20250624, .w 14 8, .w 14 24, .w 14 4259840, .w 14 4325376, .w 17 8, .w 17 12, .w 17 20,
    .w 17 28, .w 17 72, .w 17 5111808, .a 17 6488064 268435456, .w 17 12320768, .a 17 12386304 268435456,
    .a 17 12713984 268435456, .a 17 12779520 268435456, .w 17 12845056, .w 17 12976128, .w 17 13041664,
    .w 17 13107200, .w 17 13172736, .w 17 18284544, .w 17 18350080, .w 17 18415616, .w 17 18481152, .w 17 19267584,
    .a 17 24903680 268435456, .w 18 8, .w 18 12, .w 18 72, .w 18 786432, .w 18 20578304, .w 19 16,
    .a 19 1310720 268435456, .a 19 1376256 268435456, .a 19 22413312 268435456, .a 19 22478848 268435456, .w 20 8,
    .w 20 12, .a 20 32 4, .w 25 8, .w 25 20, .w 25 24, .w 25 28, .w 64 15794176, .a 65 15335424 268435456,
    .a 65 15400960 268435456, .p .edges, .p .inbox, .p .chn, .p .seqs, .p .pa, .p .blks, .p .fops, .p .fwait,
    .p .popen, .p .pbuf]

theorem supplySample_out (vin12 : BitVec 16) (vin5 : BitVec 16) {s : State} (h₀ : Out L₀ s₀ s)
    (hL : Key.sub supplySampleOut L₀ = true) :
    Out L₀ s₀ (supplySample vin12 vin5 s) := by
  unfold supplySample
  repeat'
    first
      | with_reducible assumption | with_reducible apply Out.puts_nil | with_reducible apply Out.puts_cons
      | with_reducible apply Out.put | with_reducible apply State.beyond_out | with_reducible apply Out.when
      | with_reducible apply Out.post | with_reducible apply Out.evt | with_reducible apply State.ovTrip_out
      | with_reducible apply State.powerFail_out | with_reducible apply State.stmLatchAll_out
      | with_reducible apply Out.putB | with_reducible apply State.checkGrant_out | exact Key.hasA rfl
      | exact Key.hasW | exact Out.sub hL rfl | intro _ | with_reducible apply Out.ite | split | dsimp only [id_eq]
      | (rename_i e; with_reducible refine Out.of_eq e ?_)

theorem chopperFail_out (current : Nat) {s : State} (h₀ : Out L₀ s₀ s)
    (hL : Key.sub [.w 17 8, .w 17 12, .w 17 76, .w 17 13107200, .p .edges, .p .inbox] L₀ = true) :
    Out L₀ s₀ (chopperFail current s) := by
  unfold chopperFail
  repeat'
    first
      | with_reducible assumption | with_reducible apply Out.evt | with_reducible apply Out.count
      | with_reducible apply Out.put | with_reducible apply Out.when | with_reducible apply Out.post
      | exact Key.hasA rfl | exact Key.hasW | exact Out.sub hL rfl | intro _ | with_reducible apply Out.ite | split
      | dsimp only [id_eq] | (rename_i e; with_reducible refine Out.of_eq e ?_)

theorem State.ocTrip_out {s : State} (stage : Nat) (inst : Nat) (current : Nat) (h₀ : Out L₀ s₀ s)
    (hL : Key.sub [.w 17 12, .p .edges, .p .inbox] L₀ = true) :
    Out L₀ s₀ (State.ocTrip s stage inst current) := by
  unfold State.ocTrip
  repeat'
    first
      | with_reducible assumption | with_reducible apply Out.post | with_reducible apply Out.evt | exact Key.hasA rfl
      | exact Key.hasW | exact Out.sub hL rfl | intro _ | with_reducible apply Out.ite | split | dsimp only [id_eq]
      | (rename_i e; with_reducible refine Out.of_eq e ?_)

/-- What `spindleOvercurrent` may change. -/
def spindleOvercurrentOut : List Key :=
  [.w 17 8, .w 17 12, .w 17 72, .w 17 80, .a 17 6488064 268435456,
    .w 17 12320768, .w 17 12517376, .w 17 12582912, .a 17 12713984 268435456, .a 17 12779520 268435456,
    .a 17 24903680 268435456, .p .edges, .p .inbox]

theorem spindleOvercurrent_out (current : Nat) {s : State} (h₀ : Out L₀ s₀ s)
    (hL : Key.sub spindleOvercurrentOut L₀ = true) :
    Out L₀ s₀ (spindleOvercurrent current s) := by
  unfold spindleOvercurrent
  repeat'
    first
      | with_reducible assumption | with_reducible apply State.checkGrant_out | with_reducible apply Out.puts_nil
      | with_reducible apply Out.puts_cons | with_reducible apply Out.put | with_reducible apply Out.count
      | with_reducible apply State.ocTrip_out | exact Key.hasA rfl | exact Key.hasW | exact Out.sub hL rfl | intro _
      | with_reducible apply Out.ite | split | dsimp only [id_eq]
      | (rename_i e; with_reducible refine Out.of_eq e ?_)

/-- What `vcmOvercurrent` may change. -/
def vcmOvercurrentOut : List Key :=
  [.w 17 8, .w 17 12, .w 17 72, .a 17 6488064 268435456,
    .a 17 12124160 268435456, .w 17 12320768, .a 17 12648448 268435456, .a 17 12713984 268435456,
    .a 17 12779520 268435456, .a 17 24903680 268435456, .p .edges, .p .inbox]

theorem vcmOvercurrent_out (a : Act) (current : Nat) {s : State} (h₀ : Out L₀ s₀ s)
    (hL : Key.sub vcmOvercurrentOut L₀ = true) :
    Out L₀ s₀ (vcmOvercurrent a current s) := by
  unfold vcmOvercurrent
  repeat'
    first
      | with_reducible assumption | with_reducible apply State.checkGrant_out | with_reducible apply Out.puts_nil
      | with_reducible apply Out.puts_cons | with_reducible apply Out.put | with_reducible apply State.ocTrip_out
      | exact Key.hasA rfl | exact Key.hasW | exact Out.sub hL rfl | intro _ | with_reducible apply Out.ite | split
      | dsimp only [id_eq] | (rename_i e; with_reducible refine Out.of_eq e ?_)

/-- What `vcmTripReopen` may change. -/
def vcmTripReopenOut : List Key :=
  [.a 2 32 4, .w 11 8, .w 11 12, .w 11 84, .w 17 8, .w 17 12, .w 17 28, .w 17 72,
    .w 17 12320768, .a 17 12648448 268435456, .a 17 12713984 268435456, .a 17 12779520 268435456, .w 17 12976128,
    .a 17 24903680 268435456, .p .edges, .p .inbox]

theorem vcmTripReopen_out (a : Act) {s : State} (h₀ : Out L₀ s₀ s)
    (hL : Key.sub vcmTripReopenOut L₀ = true) :
    Out L₀ s₀ (vcmTripReopen a s) := by
  unfold vcmTripReopen
  repeat'
    first
      | with_reducible assumption | with_reducible apply Out.put | with_reducible apply State.refreshAct_out
      | with_reducible apply State.plCheck_out | with_reducible apply Out.puts_nil
      | with_reducible apply Out.puts_cons | with_reducible apply State.setBit_out
      | with_reducible apply State.stmRetract_out | exact Key.hasA rfl | exact Key.hasW | exact Out.sub hL rfl
      | intro _ | with_reducible apply Out.ite | split | dsimp only [id_eq]
      | (rename_i e; with_reducible refine Out.of_eq e ?_)

theorem maCurrentLimit_out (a : Act) {s : State} (h₀ : Out L₀ s₀ s)
    (hL : Key.sub [.w 14 0, .w 17 8, .w 17 12, .a 17 12189696 268435456, .p .edges, .p .inbox] L₀ = true) :
    Out L₀ s₀ (maCurrentLimit a s) := by
  unfold maCurrentLimit
  repeat'
    first
      | with_reducible assumption | with_reducible apply Out.puts_nil | with_reducible apply Out.puts_cons
      | with_reducible apply Out.put | with_reducible apply State.setBit_out | with_reducible apply State.ocTrip_out
      | exact Key.hasA rfl | exact Key.hasW | exact Out.sub hL rfl | intro _ | with_reducible apply Out.ite | split
      | dsimp only [id_eq] | (rename_i e; with_reducible refine Out.of_eq e ?_)

theorem State.maClear_out {s : State} (mask : Nat) (hw : Nat) (h₀ : Out L₀ s₀ s)
    (hL : Key.sub [.w 17 8] L₀ = true) :
    Out L₀ s₀ (State.maClear s mask hw) := by
  unfold State.maClear
  repeat'
    first
      | with_reducible assumption | with_reducible apply Out.put | exact Key.hasA rfl | exact Key.hasW
      | exact Out.sub hL rfl | intro _ | with_reducible apply Out.ite | split | dsimp only [id_eq]
      | (rename_i e; with_reducible refine Out.of_eq e ?_)

theorem maOffClear_out (mask : BitVec 4) (hw : BitVec 4) {s : State} (h₀ : Out L₀ s₀ s)
    (hL : Key.sub [.w 17 8] L₀ = true) :
    Out L₀ s₀ (maOffClear mask hw s) := by
  unfold maOffClear
  repeat'
    first
      | with_reducible assumption | with_reducible apply State.maClear_out | exact Key.hasA rfl | exact Key.hasW
      | exact Out.sub hL rfl | intro _ | with_reducible apply Out.ite | split | dsimp only [id_eq]
      | (rename_i e; with_reducible refine Out.of_eq e ?_)

theorem smOvervoltage_out {s : State} (h₀ : Out L₀ s₀ s)
    (hL : Key.sub [.w 17 8, .w 17 12, .w 17 12320768, .w 17 13172736, .p .edges] L₀ = true) :
    Out L₀ s₀ (smOvervoltage s) := by
  unfold smOvervoltage
  repeat'
    first
      | with_reducible assumption | with_reducible apply State.ovTrip_out | exact Key.hasA rfl | exact Key.hasW
      | exact Out.sub hL rfl | intro _ | with_reducible apply Out.ite | split | dsimp only [id_eq]
      | (rename_i e; with_reducible refine Out.of_eq e ?_)

theorem State.tryResume_out {s : State} (h₀ : Out L₀ s₀ s)
    (hL : Key.sub [.w 17 8, .w 17 12910592, .w 66 5046272] L₀ = true) :
    Out L₀ s₀ (State.tryResume s) := by
  unfold State.tryResume
  repeat'
    first
      | with_reducible assumption | with_reducible apply State.setBit_out | with_reducible apply Out.puts_nil
      | with_reducible apply Out.puts_cons | with_reducible apply Out.put | exact Key.hasA rfl | exact Key.hasW
      | exact Out.sub hL rfl | intro _ | with_reducible apply Out.ite | split | dsimp only [id_eq]
      | (rename_i e; with_reducible refine Out.of_eq e ?_)

theorem stmResume_out {s : State} (h₀ : Out L₀ s₀ s)
    (hL : Key.sub [.w 17 8, .w 17 12910592, .w 66 5046272] L₀ = true) :
    Out L₀ s₀ (stmResume s) := by
  unfold stmResume
  repeat'
    first
      | with_reducible assumption | with_reducible apply State.tryResume_out | with_reducible apply Out.put
      | exact Key.hasA rfl | exact Key.hasW | exact Out.sub hL rfl | intro _ | with_reducible apply Out.ite | split
      | dsimp only [id_eq] | (rename_i e; with_reducible refine Out.of_eq e ?_)

theorem State.autonomous_out {s : State} (h₀ : Out L₀ s₀ s)
    (hL : Key.sub [.w 17 8, .w 17 12, .w 17 72, .a 17 6488064 268435456, .w 17 11993088, .w 17 12320768, .a 17 12713984 268435456,
    .a 17 12779520 268435456, .w 17 12845056, .w 17 12910592, .a 17 24903680 268435456, .p .edges, .p .inbox] L₀ = true) :
    Out L₀ s₀ (State.autonomous s) := by
  unfold State.autonomous
  repeat'
    first
      | with_reducible assumption | with_reducible apply State.stmLatchAll_out | with_reducible apply Out.evt
      | with_reducible apply Out.puts_nil | with_reducible apply Out.puts_cons | with_reducible apply Out.put
      | with_reducible apply State.dropGrants_out | with_reducible apply Out.post
      | with_reducible apply State.stmRetractAll_out | with_reducible apply Out.foldl
      | with_reducible apply Out.foldlFst | exact Key.hasA rfl | exact Key.hasW | exact Out.sub hL rfl | intro _
      | with_reducible apply Out.ite | split | dsimp only [id_eq]
      | (rename_i e; with_reducible refine Out.of_eq e ?_)

/-- What `heartbeatMiss` may change. -/
def heartbeatMissOut : List Key :=
  [.a 2 32 4, .w 12 8, .w 13 8, .w 13 12, .w 13 76, .w 13 1572864, .w 13 2359296,
    .w 13 2424832, .w 13 20250624, .w 14 8, .w 14 24, .w 14 4259840, .w 14 4325376, .w 16 8, .w 16 8519680,
    .w 16 8912896, .w 16 9502720, .w 16 9568256, .w 16 10551296, .w 16 10878976, .w 16 23068672, .w 16 23789568,
    .w 17 8, .w 17 12, .w 17 68, .w 17 72, .a 17 6488064 268435456, .w 17 11927552, .w 17 11993088, .w 17 12320768,
    .a 17 12713984 268435456, .a 17 12779520 268435456, .w 17 12845056, .w 17 12910592, .w 17 13762560,
    .a 17 24903680 268435456, .w 18 8, .w 18 12, .w 18 72, .w 18 786432, .w 18 20578304, .w 19 16,
    .a 19 1310720 268435456, .a 19 1376256 268435456, .a 19 22413312 268435456, .a 19 22478848 268435456,
    .w 66 5046272, .w 66 11730944, .p .win, .p .edges, .p .inbox, .p .chn, .p .seqs, .p .pa, .p .jq, .p .jact]

theorem heartbeatMiss_out (atStrongman : Bool) {s : State} (h₀ : Out L₀ s₀ s)
    (hL : Key.sub heartbeatMissOut L₀ = true) :
    Out L₀ s₀ (heartbeatMiss atStrongman s) := by
  unfold heartbeatMiss
  repeat'
    first
      | with_reducible assumption | with_reducible apply Out.count | with_reducible apply Out.puts_nil
      | with_reducible apply Out.puts_cons | with_reducible apply Out.put | with_reducible apply State.autonomous_out
      | with_reducible apply Out.post | with_reducible apply State.crlCoast_out
      | with_reducible apply State.stopAssert_out | exact Key.hasA rfl | exact Key.hasW | exact Out.sub hL rfl
      | intro _ | with_reducible apply Out.ite | split | dsimp only [id_eq]
      | (rename_i e; with_reducible refine Out.of_eq e ?_)

theorem heartbeatAdvance_out {s : State} (h₀ : Out L₀ s₀ s)
    (hL : Key.sub [.w 17 11796480, .w 66 4980736, .w 66 11599872] L₀ = true) :
    Out L₀ s₀ (heartbeatAdvance s) := by
  unfold heartbeatAdvance
  repeat'
    first
      | with_reducible assumption | with_reducible apply Out.bump | with_reducible apply Out.when
      | exact Key.hasA rfl | exact Key.hasW | exact Out.sub hL rfl | intro _ | with_reducible apply Out.ite | split
      | dsimp only [id_eq] | (rename_i e; with_reducible refine Out.of_eq e ?_)

theorem autonomousBrake_out {s : State} (h₀ : Out L₀ s₀ s)
    (hL : Key.sub [.w 17 12320768, .w 17 12845056] L₀ = true) :
    Out L₀ s₀ (autonomousBrake s) := by
  unfold autonomousBrake
  repeat'
    first
      | with_reducible assumption | with_reducible apply Out.puts_nil | with_reducible apply Out.puts_cons
      | with_reducible apply Out.put | exact Key.hasA rfl | exact Key.hasW | exact Out.sub hL rfl | intro _
      | with_reducible apply Out.ite | split | dsimp only [id_eq]
      | (rename_i e; with_reducible refine Out.of_eq e ?_)

/-- What `autonomousSequenceEnd` may change. -/
def autonomousSequenceEndOut : List Key :=
  [.w 16 20, .w 17 8, .w 17 12320768, .w 17 12845056, .w 17 12910592,
    .w 17 13762560, .w 66 5046272]

theorem autonomousSequenceEnd_out {s : State} (h₀ : Out L₀ s₀ s)
    (hL : Key.sub autonomousSequenceEndOut L₀ = true) :
    Out L₀ s₀ (autonomousSequenceEnd s) := by
  unfold autonomousSequenceEnd
  repeat'
    first
      | with_reducible assumption | with_reducible apply State.tryResume_out | with_reducible apply Out.puts_nil
      | with_reducible apply Out.puts_cons | with_reducible apply Out.put | exact Key.hasA rfl | exact Key.hasW
      | exact Out.sub hL rfl | intro _ | with_reducible apply Out.ite | split | dsimp only [id_eq]
      | (rename_i e; with_reducible refine Out.of_eq e ?_)

theorem startRequest_out (a : Option Act) {s : State} (h₀ : Out L₀ s₀ s)
    (hL : Key.sub [.w 16 24379392, .w 16 24444928, .w 16 24772608] L₀ = true) :
    Out L₀ s₀ (startRequest a s) := by
  unfold startRequest
  repeat'
    first
      | with_reducible assumption | with_reducible apply State.setBit_out | with_reducible apply Out.put
      | exact Key.hasA rfl | exact Key.hasW | exact Out.sub hL rfl | intro _ | with_reducible apply Out.ite | split
      | dsimp only [id_eq] | (rename_i e; with_reducible refine Out.of_eq e ?_)

theorem State.giveSpin_out {s : State} (h₀ : Out L₀ s₀ s)
    (hL : Key.sub [.w 17 8, .w 17 12451840, .w 17 13107200, .w 17 13172736, .w 17 19267584] L₀ = true) :
    Out L₀ s₀ (State.giveSpin s) := by
  unfold State.giveSpin
  repeat'
    first
      | with_reducible assumption | with_reducible apply Out.puts_nil | with_reducible apply Out.puts_cons
      | with_reducible apply Out.put | exact Key.hasA rfl | exact Key.hasW | exact Out.sub hL rfl | intro _
      | with_reducible apply Out.ite | split | dsimp only [id_eq]
      | (rename_i e; with_reducible refine Out.of_eq e ?_)

theorem State.giveLoad_out {s : State} (a : Nat) (h₀ : Out L₀ s₀ s)
    (hL : Key.sub [.a 17 6488064 268435456] L₀ = true) :
    Out L₀ s₀ (State.giveLoad s a) := by
  unfold State.giveLoad
  repeat'
    first
      | with_reducible assumption | with_reducible apply Out.when | with_reducible apply Out.put | exact Key.hasA rfl
      | exact Key.hasW | exact Out.sub hL rfl | intro _ | with_reducible apply Out.ite | split | dsimp only [id_eq]
      | (rename_i e; with_reducible refine Out.of_eq e ?_)

theorem State.takeRequests_out {s : State} (h₀ : Out L₀ s₀ s)
    (hL : Key.sub [.w 16 24379392, .w 17 8, .a 17 6488064 268435456, .w 17 12451840, .w 17 13041664, .w 17 13107200, .w 17 13172736,
    .w 17 19267584, .w 17 24576000] L₀ = true) :
    Out L₀ s₀ (State.takeRequests s) := by
  unfold State.takeRequests
  repeat'
    first
      | with_reducible assumption | with_reducible apply Out.puts_nil | with_reducible apply Out.puts_cons
      | with_reducible apply Out.put | with_reducible apply Out.when | with_reducible apply Out.forAll
      | with_reducible apply State.giveSpin_out | with_reducible apply State.giveLoad_out | exact Key.hasA rfl
      | exact Key.hasW | exact Out.sub hL rfl | intro _ | with_reducible apply Out.ite | split | dsimp only [id_eq]
      | (rename_i e; with_reducible refine Out.of_eq e ?_)

theorem State.clearLatches_out {s : State} (h₀ : Out L₀ s₀ s)
    (hL : Key.sub [.w 17 8] L₀ = true) :
    Out L₀ s₀ (State.clearLatches s) := by
  unfold State.clearLatches
  repeat'
    first
      | with_reducible assumption | with_reducible apply Out.forAll | with_reducible apply State.setBit_out
      | exact Key.hasA rfl | exact Key.hasW | exact Out.sub hL rfl | intro _ | with_reducible apply Out.ite | split
      | dsimp only [id_eq] | (rename_i e; with_reducible refine Out.of_eq e ?_)

theorem State.frameSent_out {s : State} (h₀ : Out L₀ s₀ s)
    (hL : Key.sub [.a 15 21954560 268435456] L₀ = true) :
    Out L₀ s₀ (State.frameSent s) := by
  unfold State.frameSent
  repeat'
    first
      | with_reducible assumption | with_reducible apply Out.forAll | with_reducible apply Out.putI
      | exact Key.hasA rfl | exact Key.hasW | exact Out.sub hL rfl | intro _ | with_reducible apply Out.ite | split
      | dsimp only [id_eq] | (rename_i e; with_reducible refine Out.of_eq e ?_)

theorem State.applyDemands_out {s : State} (h₀ : Out L₀ s₀ s)
    (hL : Key.sub [.a 17 12124160 268435456, .a 17 12189696 268435456, .w 17 22020096, .a 17 22085632 268435456, .w 17 24248320,
    .w 17 24313856] L₀ = true) :
    Out L₀ s₀ (State.applyDemands s) := by
  unfold State.applyDemands
  repeat'
    first
      | with_reducible assumption | with_reducible apply Out.puts_nil | with_reducible apply Out.puts_cons
      | with_reducible apply Out.put | with_reducible apply Out.forAll | with_reducible apply Out.when
      | with_reducible apply Out.putI | exact Key.hasA rfl | exact Key.hasW | exact Out.sub hL rfl | intro _
      | with_reducible apply Out.ite | split | dsimp only [id_eq]
      | (rename_i e; with_reducible refine Out.of_eq e ?_)

theorem State.goodBeat_out {s : State} (h₀ : Out L₀ s₀ s)
    (hL : Key.sub [.w 17 8, .w 17 11862016, .w 17 11927552, .w 17 11993088, .w 17 12910592, .w 66 5046272] L₀ = true) :
    Out L₀ s₀ (State.goodBeat s) := by
  unfold State.goodBeat
  repeat'
    first
      | with_reducible assumption | with_reducible apply State.tryResume_out | with_reducible apply Out.puts_nil
      | with_reducible apply Out.puts_cons | with_reducible apply Out.put | exact Key.hasA rfl | exact Key.hasW
      | exact Out.sub hL rfl | intro _ | with_reducible apply Out.ite | split | dsimp only [id_eq]
      | (rename_i e; with_reducible refine Out.of_eq e ?_)

theorem State.putInts_out {s : State} (f : Nat → Fld) (l : List Int) (h₀ : Out L₀ s₀ s) {n_f : Key} (hk_f : ∀ i, n_f.has (f i)) (hL_f : Key.sub [n_f] L₀ = true) :
    Out L₀ s₀ (State.putInts s f l) := by
  unfold State.putInts
  repeat'
    first
      | with_reducible assumption | with_reducible apply Out.forAll | with_reducible apply Out.putI
      | with_reducible exact hk_f _ | with_reducible exact hL_f | intro _ | with_reducible apply Out.ite | split
      | dsimp only [id_eq]

theorem State.retractNews_out {s : State} (old : Nat) (new : Nat) (a : Nat) (h₀ : Out L₀ s₀ s)
    (hL : Key.sub [.a 2 32 4, .w 12 8, .w 13 8, .w 13 12, .w 13 76, .w 13 1572864, .w 13 2359296, .w 13 2424832, .w 13 20250624,
    .w 14 8, .w 14 12, .w 14 24, .w 14 84, .w 14 3211264, .w 14 3342336, .w 14 3407872, .w 14 3473408,
    .w 14 3538944, .w 14 4259840, .w 14 4325376, .w 14 4784128, .w 14 21757952, .a 17 13697024 268435456, .w 18 8,
    .w 18 12, .w 18 72, .w 18 786432, .w 18 20578304, .w 19 12, .w 19 16, .w 19 1114112, .w 19 1179648,
    .a 19 1310720 268435456, .a 19 1376256 268435456, .a 19 22413312 268435456, .a 19 22478848 268435456, .p .edges,
    .p .inbox, .p .chn, .p .seqs, .p .pa, .p .jq, .p .jact] L₀ = true) :
    Out L₀ s₀ (State.retractNews s old new a) := by
  unfold State.retractNews
  repeat'
    first
      | with_reducible assumption | with_reducible apply State.ladderRestart_out
      | with_reducible apply State.toUnloaded_out | with_reducible apply State.withdraw_out
      | with_reducible apply State.tdAbortOn_out | exact Key.hasA rfl | exact Key.hasW | exact Out.sub hL rfl
      | intro _ | with_reducible apply Out.ite | split | dsimp only [id_eq]
      | (rename_i e; with_reducible refine Out.of_eq e ?_)

theorem State.statusNews_out {s : State} (new : Nat) (h₀ : Out L₀ s₀ s)
    (hL : Key.sub [.a 2 32 4, .w 5 12, .w 5 68, .w 5 22151168, .w 12 8, .w 13 8, .w 13 12, .w 13 76, .w 13 1572864, .w 13 2359296,
    .w 13 2424832, .w 13 20250624, .w 14 8, .w 14 12, .w 14 24, .w 14 84, .w 14 3211264, .w 14 3342336,
    .w 14 3407872, .w 14 3473408, .w 14 3538944, .w 14 4128768, .w 14 4194304, .w 14 4259840, .w 14 4325376,
    .w 14 4784128, .w 14 21692416, .w 14 21757952, .w 14 22675456, .w 14 22806528, .w 16 0, .w 16 8, .w 16 12,
    .w 16 80, .w 16 6094848, .w 16 8519680, .w 16 8585216, .w 16 8912896, .w 16 8978432, .w 16 9240576,
    .w 16 9306112, .w 16 9502720, .w 16 9568256, .w 16 9895936, .w 16 9961472, .w 16 10027008, .w 16 10092544,
    .w 16 10223616, .w 16 10551296, .w 16 10878976, .w 16 10944512, .w 16 11141120, .w 16 23068672, .w 16 23789568,
    .w 16 23855104, .w 16 24051712, .w 16 24444928, .a 17 13697024 268435456, .w 17 13762560, .w 17 24510464,
    .w 18 8, .w 18 12, .w 18 72, .w 18 786432, .w 18 20578304, .w 19 12, .w 19 16, .w 19 1114112, .w 19 1179648,
    .a 19 1310720 268435456, .a 19 1376256 268435456, .a 19 22413312 268435456, .a 19 22478848 268435456,
    .w 66 5046272, .w 66 18874368, .w 66 18939904, .w 66 19005440, .w 66 19070976, .w 66 19136512, .p .win,
    .p .edges, .p .inbox, .p .chn, .p .seqs, .p .pa, .p .jq, .p .jact] L₀ = true) :
    Out L₀ s₀ (State.statusNews s new) := by
  unfold State.statusNews
  repeat'
    first
      | with_reducible assumption | with_reducible apply Out.forAll | with_reducible apply Out.put
      | with_reducible apply State.retractNews_out | with_reducible apply State.latchSeen_out
      | with_reducible apply Out.when | with_reducible apply State.setBit_out
      | with_reducible apply State.crlCoast_out | with_reducible apply State.crlChopFault_out
      | with_reducible apply State.crlOvTrip_out | with_reducible apply State.sagAbort_out | exact Key.hasA rfl
      | exact Key.hasW | exact Out.sub hL rfl | intro _ | with_reducible apply Out.ite | split | dsimp only [id_eq]
      | (rename_i e; with_reducible refine Out.of_eq e ?_)

theorem State.takeMessage_out {s : State} (msg : BitVec 32) (h₀ : Out L₀ s₀ s)
    (hL : Key.sub [.w 5 22216704, .a 16 11337728 268435456] L₀ = true) :
    Out L₀ s₀ (State.takeMessage s msg) := by
  unfold State.takeMessage
  repeat'
    first
      | with_reducible assumption | with_reducible apply Out.when | with_reducible apply Out.put
      | with_reducible apply Out.putI | exact Key.hasA rfl | exact Key.hasW | exact Out.sub hL rfl | intro _
      | with_reducible apply Out.ite | split | dsimp only [id_eq]
      | (rename_i e; with_reducible refine Out.of_eq e ?_)

theorem State.measStart_out {s : State} (kind : Nat) (a : Nat) (h₀ : Out L₀ s₀ s)
    (hL : Key.sub [.w 17 32, .w 17 13238272, .w 17 13303808, .w 17 13369344] L₀ = true) :
    Out L₀ s₀ (State.measStart s kind a) := by
  unfold State.measStart
  repeat'
    first
      | with_reducible assumption | with_reducible apply Out.puts_nil | with_reducible apply Out.puts_cons
      | with_reducible apply Out.put | exact Key.hasA rfl | exact Key.hasW | exact Out.sub hL rfl | intro _
      | with_reducible apply Out.ite | split | dsimp only [id_eq]
      | (rename_i e; with_reducible refine Out.of_eq e ?_)

theorem State.measNext_out {s : State} (h₀ : Out L₀ s₀ s)
    (hL : Key.sub [.w 16 24444928, .w 17 32, .w 17 13238272, .w 17 13303808, .w 17 13369344] L₀ = true) :
    Out L₀ s₀ (State.measNext s) := by
  unfold State.measNext
  repeat'
    first
      | with_reducible assumption | with_reducible apply Out.when | with_reducible apply Out.put
      | with_reducible apply State.measStart_out | with_reducible apply State.setBit_out | exact Key.hasA rfl
      | exact Key.hasW | exact Out.sub hL rfl | intro _ | with_reducible apply Out.ite | split | dsimp only [id_eq]
      | (rename_i e; with_reducible refine Out.of_eq e ?_)

theorem State.handshake_out {s : State} (h₀ : Out L₀ s₀ s)
    (hL : Key.sub [.w 5 8, .a 5 128 4, .w 65 24641536, .p .inbox] L₀ = true) :
    Out L₀ s₀ (State.handshake s) := by
  unfold State.handshake
  repeat'
    first
      | with_reducible assumption | with_reducible apply Out.post | with_reducible apply Out.when
      | with_reducible apply State.stepEnd_out | with_reducible apply Out.put | exact Key.hasA rfl | exact Key.hasW
      | exact Out.sub hL rfl | intro _ | with_reducible apply Out.ite | split | dsimp only [id_eq]
      | (rename_i e; with_reducible refine Out.of_eq e ?_)

theorem State.gateTimers_out {s : State} (h₀ : Out L₀ s₀ s)
    (hL : Key.sub [.w 2 8, .w 2 20, .w 2 24, .a 2 32 4, .w 2 5439488, .w 2 5505024, .w 6 8, .w 6 12, .w 7 12, .w 7 24, .w 7 28,
    .w 7 17956864, .w 9 8, .w 10 20, .w 10 24, .w 11 8, .w 11 12, .a 11 32 4, .a 11 48 4, .w 12 8, .w 13 8,
    .w 13 12, .w 13 76, .w 13 1572864, .w 13 2359296, .w 13 2424832, .w 13 20250624, .w 14 8, .w 14 24,
    .w 14 4259840, .w 14 4325376, .w 18 8, .w 18 12, .w 18 44, .w 18 48, .w 18 68, .w 18 72, .w 18 262144,
    .w 18 327680, .w 18 393216, .w 18 458752, .w 18 786432, .w 18 20578304, .w 18 21037056, .w 19 12, .w 19 16,
    .w 19 1114112, .w 19 1179648, .a 19 1310720 268435456, .a 19 1376256 268435456, .a 19 22413312 268435456,
    .a 19 22478848 268435456, .w 20 8, .w 20 12, .a 20 32 4, .a 65 15335424 268435456, .a 65 15400960 268435456,
    .a 65 22347776 268435456, .p .win, .p .free, .p .edges, .p .inbox, .p .chn, .p .seqs, .p .mcache, .p .pa,
    .p .jq, .p .jobNo, .p .cmds, .p .cqs, .p .ctrls, .p .nss, .p .zones, .p .bands, .p .vol, .p .points, .p .mops,
    .p .opid, .p .journal, .p .jseq, .p .blks, .p .fops, .p .fwait, .p .errlog, .p .pkt, .p .hbm, .p .poison,
    .p .lost, .p .kvLog, .p .stripes] L₀ = true) :
    Out L₀ s₀ (State.gateTimers s) := by
  unfold State.gateTimers
  repeat'
    first
      | with_reducible assumption | with_reducible apply Out.forAll | with_reducible apply Out.bump
      | with_reducible apply preampFault_out | exact Key.hasA rfl | exact Key.hasW | exact Out.sub hL rfl | intro _
      | with_reducible apply Out.ite | split | dsimp only [id_eq]
      | (rename_i e; with_reducible refine Out.of_eq e ?_)

/-- What `dieLinkFrame` may change. -/
def dieLinkFrameOut : List Key :=
  [.w 2 8, .w 2 20, .w 2 24, .a 2 32 4, .w 2 5439488, .w 2 5505024, .w 5 8,
    .w 5 12, .w 5 64, .w 5 68, .a 5 128 4, .w 5 22151168, .w 5 22216704, .w 6 8, .w 6 12, .w 7 12, .w 7 24, .w 7 28,
    .w 7 17956864, .w 9 8, .w 10 20, .w 10 24, .w 11 8, .w 11 12, .a 11 32 4, .a 11 48 4, .w 12 8, .w 13 8,
    .w 13 12, .w 13 76, .w 13 1572864, .w 13 2359296, .w 13 2424832, .w 13 20250624, .w 14 8, .w 14 12, .w 14 20,
    .w 14 24, .w 14 84, .w 14 3211264, .w 14 3342336, .w 14 3407872, .w 14 3473408, .w 14 3538944, .w 14 3604480,
    .w 14 3670016, .w 14 3735552, .w 14 4128768, .w 14 4194304, .w 14 4259840, .w 14 4325376, .w 14 4587520,
    .w 14 4784128, .w 14 21692416, .w 14 21757952, .w 14 22675456, .w 14 22806528, .w 15 8, .w 15 12, .a 15 24 4,
    .w 15 52, .a 15 512 4, .w 15 6946816, .a 15 7077888 268435456, .w 15 7667712, .w 15 7733248, .w 15 7798784,
    .a 15 8126464 268435456, .a 15 8454144 268435456, .a 15 21889024 268435456, .a 15 21954560 268435456,
    .a 15 22872064 268435456, .w 16 0, .w 16 8, .w 16 12, .w 16 80, .w 16 6094848, .w 16 8519680, .w 16 8585216,
    .w 16 8912896, .w 16 8978432, .w 16 9240576, .w 16 9306112, .w 16 9502720, .w 16 9568256, .w 16 9895936,
    .w 16 9961472, .w 16 10027008, .w 16 10092544, .w 16 10223616, .w 16 10551296, .w 16 10682368, .w 16 10747904,
    .w 16 10878976, .w 16 10944512, .w 16 11141120, .a 16 11206656 268435456, .a 16 11272192 268435456,
    .a 16 11337728 268435456, .w 16 11403264, .w 16 11468800, .w 16 23068672, .w 16 23789568, .w 16 23855104,
    .w 16 24051712, .w 16 24379392, .w 16 24444928, .w 17 8, .w 17 12, .w 17 32, .w 17 64, .w 17 72,
    .a 17 6488064 268435456, .w 17 11862016, .w 17 11927552, .w 17 11993088, .a 17 12124160 268435456,
    .a 17 12189696 268435456, .w 17 12320768, .w 17 12451840, .w 17 12517376, .w 17 12582912,
    .a 17 12713984 268435456, .a 17 12779520 268435456, .w 17 12910592, .w 17 13041664, .w 17 13107200,
    .w 17 13172736, .w 17 13238272, .w 17 13303808, .w 17 13369344, .a 17 13697024 268435456, .w 17 13762560,
    .w 17 19267584, .w 17 22020096, .a 17 22085632 268435456, .w 17 24248320, .w 17 24313856, .w 17 24510464,
    .w 17 24576000, .a 17 24838144 268435456, .a 17 24903680 268435456, .w 18 8, .w 18 12, .w 18 44, .w 18 48,
    .w 18 68, .w 18 72, .w 18 262144, .w 18 327680, .w 18 393216, .w 18 458752, .w 18 786432, .w 18 20578304,
    .w 18 21037056, .w 19 12, .w 19 16, .w 19 1114112, .w 19 1179648, .a 19 1310720 268435456,
    .a 19 1376256 268435456, .a 19 22413312 268435456, .a 19 22478848 268435456, .w 20 8, .w 20 12, .a 20 32 4,
    .a 65 15335424 268435456, .a 65 15400960 268435456, .a 65 22347776 268435456, .w 65 24641536, .w 66 5046272,
    .a 66 11534336 268435456, .w 66 11665408, .w 66 11730944, .w 66 18874368, .w 66 18939904, .w 66 19005440,
    .w 66 19070976, .w 66 19136512, .p .win, .p .free, .p .edges, .p .inbox, .p .chn, .p .seqs, .p .mcache, .p .pa,
    .p .jq, .p .jact, .p .jobNo, .p .cmds, .p .cqs, .p .ctrls, .p .nss, .p .zones, .p .bands, .p .vol, .p .points,
    .p .mops, .p .opid, .p .journal, .p .jseq, .p .loops, .p .blks, .p .fops, .p .fwait, .p .errlog, .p .pkt,
    .p .hbm, .p .poison, .p .lost, .p .kvLog, .p .stripes]

theorem dieLinkFrame_out (f : LinkFrame) {s : State} (h₀ : Out L₀ s₀ s)
    (hL : Key.sub dieLinkFrameOut L₀ = true) :
    Out L₀ s₀ (dieLinkFrame f s) := by
  unfold dieLinkFrame
  repeat'
    first
      | with_reducible assumption | with_reducible apply State.frameSent_out
      | with_reducible apply State.dropOwners_out | with_reducible apply Out.put | with_reducible apply Out.bump
      | with_reducible apply Out.count | with_reducible apply State.goodBeat_out | with_reducible apply Out.when
      | with_reducible apply State.takeRequests_out | with_reducible apply State.clearLatches_out
      | with_reducible apply State.applyDemands_out | with_reducible apply State.handshake_out
      | with_reducible apply State.gateTimers_out | with_reducible apply Out.forAll
      | with_reducible apply State.retractDrive_out | with_reducible apply State.takeMessage_out
      | with_reducible apply State.putInts_out | with_reducible apply Out.puts_nil
      | with_reducible apply Out.puts_cons | with_reducible apply State.measNext_out
      | with_reducible apply State.statusNews_out | with_reducible apply State.afterMate_out
      | with_reducible apply State.trzTrigger_out | with_reducible apply State.park_out | exact linkSeq_has
      | exact phCur_has | exact vcmCur_has | exact Key.hasA rfl | exact Key.hasW | exact Out.sub hL rfl | intro _
      | with_reducible apply Out.ite | split | dsimp only [id_eq]
      | (rename_i e; with_reducible refine Out.of_eq e ?_)

theorem safetyMonitorTick_out {s : State} (h₀ : Out L₀ s₀ s)
    (hL : Key.sub [.w 17 13500416] L₀ = true) :
    Out L₀ s₀ (safetyMonitorTick s) := by
  unfold safetyMonitorTick
  repeat'
    first
      | with_reducible assumption | with_reducible apply Out.put | exact Key.hasA rfl | exact Key.hasW
      | exact Out.sub hL rfl | intro _ | with_reducible apply Out.ite | split | dsimp only [id_eq]
      | (rename_i e; with_reducible refine Out.of_eq e ?_)

/-- What `safetyMonitorTakeover` may change. -/
def safetyMonitorTakeoverOut : List Key :=
  [.w 17 8, .w 17 12, .a 17 6488064 268435456, .a 17 12124160 268435456,
    .w 17 12320768, .w 17 12845056, .w 17 13434880, .w 17 13500416, .w 17 13565952, .p .edges, .p .inbox]

theorem safetyMonitorTakeover_out (age : Nat) {s : State} (h₀ : Out L₀ s₀ s)
    (hL : Key.sub safetyMonitorTakeoverOut L₀ = true) :
    Out L₀ s₀ (safetyMonitorTakeover age s) := by
  unfold safetyMonitorTakeover
  repeat'
    first
      | with_reducible assumption | with_reducible apply State.stmLatchAll_out | with_reducible apply Out.evt
      | with_reducible apply Out.puts_nil | with_reducible apply Out.puts_cons | with_reducible apply Out.put
      | with_reducible apply Out.forAll | with_reducible apply Out.putI | with_reducible apply Out.post
      | exact Key.hasA rfl | exact Key.hasW | exact Out.sub hL rfl | intro _ | with_reducible apply Out.ite | split
      | dsimp only [id_eq] | (rename_i e; with_reducible refine Out.of_eq e ?_)

/-- What `safetyMonitorPushEnd` may change. -/
def safetyMonitorPushEndOut : List Key :=
  [.w 17 8, .w 17 12, .w 17 28, .a 17 12124160 268435456, .w 17 12320768,
    .a 17 12713984 268435456, .a 17 12779520 268435456, .w 17 12976128, .w 17 13434880, .a 17 13697024 268435456,
    .a 17 24903680 268435456, .p .edges]

theorem safetyMonitorPushEnd_out {s : State} (h₀ : Out L₀ s₀ s)
    (hL : Key.sub safetyMonitorPushEndOut L₀ = true) :
    Out L₀ s₀ (safetyMonitorPushEnd s) := by
  unfold safetyMonitorPushEnd
  repeat'
    first
      | with_reducible assumption | with_reducible apply Out.forAll | with_reducible apply Out.put
      | with_reducible apply State.retractEnd_out | exact Key.hasA rfl | exact Key.hasW | exact Out.sub hL rfl
      | intro _ | with_reducible apply Out.ite | split | dsimp only [id_eq]
      | (rename_i e; with_reducible refine Out.of_eq e ?_)

theorem State.measGo11_out {s : State} (kind : Nat) (a : Nat) (h₀ : Out L₀ s₀ s)
    (hL : Key.sub [.w 17 32, .w 17 13238272, .w 17 13303808, .w 17 13369344] L₀ = true) :
    Out L₀ s₀ (State.measGo11 s kind a).1 := by
  unfold State.measGo11
  repeat'
    first
      | with_reducible assumption | with_reducible apply State.measStart_out | exact Key.hasA rfl | exact Key.hasW
      | exact Out.sub hL rfl | intro _ | with_reducible apply Out.ite | split | dsimp only [id_eq]
      | (rename_i e; with_reducible refine Out.of_eq e ?_)

theorem windingMeasureGo_out (kind : Fin 4) (a : Act) {s : State} (h₀ : Out L₀ s₀ s)
    (hL : Key.sub [.w 17 32, .w 17 13238272, .w 17 13303808, .w 17 13369344] L₀ = true) :
    Out L₀ s₀ (windingMeasureGo kind a s) := by
  unfold windingMeasureGo
  repeat'
    first
      | with_reducible assumption | with_reducible apply State.measGo11_out | exact Key.hasA rfl | exact Key.hasW
      | exact Out.sub hL rfl | intro _ | with_reducible apply Out.ite | split | dsimp only [id_eq]
      | (rename_i e; with_reducible refine Out.of_eq e ?_)

theorem State.measEnded_out {s : State} (k : Nat) (a : Nat) (h₀ : Out L₀ s₀ s)
    (hL : Key.sub [.w 16 8, .w 16 8519680, .w 16 8585216, .w 16 8912896, .w 16 8978432, .w 16 9240576, .w 16 9306112, .w 16 9502720,
    .w 16 9568256, .w 16 10551296, .w 16 10944512, .w 16 23068672, .w 16 23789568, .w 16 23855104, .w 16 24051712,
    .w 16 24379392, .w 16 24444928, .w 16 24707072, .w 16 24772608, .w 17 32, .w 17 13238272, .w 17 13303808,
    .w 17 13369344, .w 17 13762560, .w 17 24510464, .p .win] L₀ = true) :
    Out L₀ s₀ (State.measEnded s k a) := by
  unfold State.measEnded
  repeat'
    first
      | with_reducible assumption | with_reducible apply Out.put | with_reducible apply Out.when
      | with_reducible apply State.setBit_out | with_reducible apply State.tryStart_out
      | with_reducible apply State.measNext_out | exact Key.hasA rfl | exact Key.hasW | exact Out.sub hL rfl
      | intro _ | with_reducible apply Out.ite | split | dsimp only [id_eq]
      | (rename_i e; with_reducible refine Out.of_eq e ?_)

/-- What `windingMeasureDone` may change. -/
def windingMeasureDoneOut : List Key :=
  [.w 16 8, .w 16 8519680, .w 16 8585216, .w 16 8912896, .w 16 8978432,
    .w 16 9240576, .w 16 9306112, .w 16 9502720, .w 16 9568256, .w 16 10551296, .w 16 10944512, .w 16 23068672,
    .w 16 23789568, .w 16 23855104, .w 16 24051712, .w 16 24379392, .w 16 24444928, .w 16 24707072, .w 16 24772608,
    .w 17 12, .w 17 32, .w 17 36, .a 17 40 4, .w 17 13238272, .w 17 13303808, .w 17 13369344, .w 17 13762560,
    .w 17 24510464, .p .win, .p .edges, .p .inbox]

theorem windingMeasureDone_out (value : Nat) {s : State} (h₀ : Out L₀ s₀ s)
    (hL : Key.sub windingMeasureDoneOut L₀ = true) :
    Out L₀ s₀ (windingMeasureDone value s) := by
  unfold windingMeasureDone
  repeat'
    first
      | with_reducible assumption | with_reducible apply Out.evt | with_reducible apply Out.put
      | with_reducible apply Out.puts_nil | with_reducible apply Out.puts_cons | with_reducible apply Out.post
      | with_reducible apply State.measEnded_out | exact Key.hasA rfl | exact Key.hasW | exact Out.sub hL rfl
      | intro _ | with_reducible apply Out.ite | split | dsimp only [id_eq]
      | (rename_i e; with_reducible refine Out.of_eq e ?_)

/-- What `State.stmEnable` may change. -/
def stmEnableOut : List Key :=
  [.a 2 32 4, .w 11 8, .w 11 12, .w 11 84, .w 16 24379392, .w 16 24444928, .w 17 0,
    .w 17 4, .w 17 8, .w 17 12058624, .w 17 13107200, .p .edges, .p .inbox, .p .sup]

theorem State.stmEnable_out {s : State} (pulse : Nat) (h₀ : Out L₀ s₀ s)
    (hL : Key.sub stmEnableOut L₀ = true) :
    Out L₀ s₀ (State.stmEnable s pulse).1 := by
  unfold State.stmEnable
  repeat'
    first
      | with_reducible assumption | with_reducible apply State.enable_out | with_reducible apply Out.puts_nil
      | with_reducible apply Out.puts_cons | with_reducible apply Out.put | with_reducible apply Out.when
      | with_reducible apply Out.forAll | with_reducible apply State.refreshAct_out | exact Key.hasA rfl
      | exact Key.hasW | exact Out.sub hL rfl | intro _ | with_reducible apply Out.ite | split | dsimp only [id_eq]
      | (rename_i e; with_reducible refine Out.of_eq e ?_) | with_reducible apply Out.setSup

theorem stmEnableCmd_out (pulse : Nat) {s : State} (h₀ : Out L₀ s₀ s)
    (hL : Key.sub stmEnableOut L₀ = true) :
    Out L₀ s₀ (stmEnableCmd pulse s) := by
  unfold stmEnableCmd
  repeat'
    first
      | with_reducible assumption | with_reducible apply State.stmEnable_out | exact Key.hasA rfl | exact Key.hasW
      | exact Out.sub hL rfl | intro _ | with_reducible apply Out.ite | split | dsimp only [id_eq]
      | (rename_i e; with_reducible refine Out.of_eq e ?_)

theorem State.stmDisable_out {s : State} (h₀ : Out L₀ s₀ s)
    (hL : Key.sub [.w 17 0] L₀ = true) :
    Out L₀ s₀ (State.stmDisable s) := by
  unfold State.stmDisable
  repeat'
    first
      | with_reducible assumption | with_reducible apply Out.put | exact Key.hasA rfl | exact Key.hasW
      | exact Out.sub hL rfl | intro _ | with_reducible apply Out.ite | split | dsimp only [id_eq]
      | (rename_i e; with_reducible refine Out.of_eq e ?_)

theorem strongmanLogicPowerLoss_out {s : State} (h₀ : Out L₀ s₀ s)
    (hL : Key.sub [.b 17, .p .sup] L₀ = true) :
    Out L₀ s₀ (strongmanLogicPowerLoss s) := by
  unfold strongmanLogicPowerLoss
  repeat'
    first
      | with_reducible assumption | with_reducible apply Out.resetBlk | exact Key.hasA rfl | exact Key.hasW
      | exact Out.sub hL rfl | intro _ | with_reducible apply Out.ite | split | dsimp only [id_eq]
      | (rename_i e; with_reducible refine Out.of_eq e ?_) | with_reducible apply Out.setSup

theorem execDieLinkFrame_out (f : LinkFrame) {s t : State} (h : execDieLinkFrame f s = .next t) :
    Out dieLinkFrameOut s t := by
  have h := Host.Outcome.next.inj h; subst h; exact dieLinkFrame_out _ (Out.refl s) rfl

theorem execHeartbeatAdvance_out {s t : State} (h : execHeartbeatAdvance s = .next t) :
    Out [.w 17 11796480, .w 66 4980736, .w 66 11599872] s t := by
  have h := Host.Outcome.next.inj h; subst h; exact heartbeatAdvance_out  (Out.refl s) rfl

theorem execHeartbeatMiss_out (atStrongman : Bool) {s t : State} (h : execHeartbeatMiss atStrongman s = .next t) :
    Out heartbeatMissOut s t := by
  have h := Host.Outcome.next.inj h; subst h; exact heartbeatMiss_out _ (Out.refl s) rfl

theorem execSupplySample_out (vin12 : BitVec 16) (vin5 : BitVec 16) {s t : State} (h : execSupplySample vin12 vin5 s = .next t) :
    Out supplySampleOut s t := by
  have h := Host.Outcome.next.inj h; subst h; exact supplySample_out _ _ (Out.refl s) rfl

theorem execChopperFail_out (current : Nat) {s t : State} (h : execChopperFail current s = .next t) :
    Out [.w 17 8, .w 17 12, .w 17 76, .w 17 13107200, .p .edges, .p .inbox] s t := by
  have h := Host.Outcome.next.inj h; subst h; exact chopperFail_out _ (Out.refl s) rfl

theorem execSpindleOvercurrent_out (current : Nat) {s t : State} (h : execSpindleOvercurrent current s = .next t) :
    Out spindleOvercurrentOut s t := by
  have h := Host.Outcome.next.inj h; subst h; exact spindleOvercurrent_out _ (Out.refl s) rfl

theorem execVcmOvercurrent_out (a : Act) (current : Nat) {s t : State} (h : execVcmOvercurrent a current s = .next t) :
    Out vcmOvercurrentOut s t := by
  have h := Host.Outcome.next.inj h; subst h; exact vcmOvercurrent_out _ _ (Out.refl s) rfl

theorem execVcmTripReopen_out (a : Act) {s t : State} (h : execVcmTripReopen a s = .next t) :
    Out vcmTripReopenOut s t := by
  have h := Host.Outcome.next.inj h; subst h; exact vcmTripReopen_out _ (Out.refl s) rfl

theorem execMaCurrentLimit_out (a : Act) {s t : State} (h : execMaCurrentLimit a s = .next t) :
    Out [.w 14 0, .w 17 8, .w 17 12, .a 17 12189696 268435456, .p .edges, .p .inbox] s t := by
  have h := Host.Outcome.next.inj h; subst h; exact maCurrentLimit_out _ (Out.refl s) rfl

theorem execMaOffClear_out (mask : BitVec 4) (hw : BitVec 4) {s t : State} (h : execMaOffClear mask hw s = .next t) :
    Out [.w 17 8] s t := by
  have h := Host.Outcome.next.inj h; subst h; exact maOffClear_out _ _ (Out.refl s) rfl

theorem execStopWireAssert_out (cause : Fin 5) {s t : State} (h : execStopWireAssert cause s = .next t) :
    Out stopAssertOut s t := by
  have h := Host.Outcome.next.inj h; subst h; exact stopWireAssert_out _ (Out.refl s) rfl

theorem execRetractParked_out (a : Act) {s t : State} (h : execRetractParked a s = .next t) :
    Out [.w 17 28, .a 17 12124160 268435456, .a 17 12713984 268435456] s t := by
  have h := Host.Outcome.next.inj h; subst h; exact retractParked_out _ (Out.refl s) rfl

theorem execRetractParkHoldEnd_out (a : Act) {s t : State} (h : execRetractParkHoldEnd a s = .next t) :
    Out retractEndOut s t := by
  have h := Host.Outcome.next.inj h; subst h; exact retractParkHoldEnd_out _ (Out.refl s) rfl

theorem execRetractTimeout_out (a : Act) {s t : State} (h : execRetractTimeout a s = .next t) :
    Out [.w 17 12, .w 17 28, .a 17 12124160 268435456, .a 17 12713984 268435456, .p .edges, .p .inbox] s t := by
  have h := Host.Outcome.next.inj h; subst h; exact retractTimeout_out _ (Out.refl s) rfl

theorem execRetractPushEnd_out (a : Act) {s t : State} (h : execRetractPushEnd a s = .next t) :
    Out retractEndOut s t := by
  have h := Host.Outcome.next.inj h; subst h; exact retractPushEnd_out _ (Out.refl s) rfl

theorem execStartRequest_out (a : Option Act) {s t : State} (h : execStartRequest a s = .next t) :
    Out [.w 16 24379392, .w 16 24444928, .w 16 24772608] s t := by
  have h := Host.Outcome.next.inj h; subst h; exact startRequest_out _ (Out.refl s) rfl

theorem execAutonomousBrake_out {s t : State} (h : execAutonomousBrake s = .next t) :
    Out [.w 17 12320768, .w 17 12845056] s t := by
  have h := Host.Outcome.next.inj h; subst h; exact autonomousBrake_out  (Out.refl s) rfl

theorem execStmResume_out {s t : State} (h : execStmResume s = .next t) :
    Out [.w 17 8, .w 17 12910592, .w 66 5046272] s t := by
  have h := Host.Outcome.next.inj h; subst h; exact stmResume_out  (Out.refl s) rfl

theorem execStmEnable_out (pulse : Nat) {s t : State} (h : execStmEnable pulse s = .next t) :
    Out stmEnableOut s t := by
  have h := Host.Outcome.next.inj h; subst h; exact stmEnableCmd_out _ (Out.refl s) rfl

theorem execSafetyMonitorTick_out {s t : State} (h : execSafetyMonitorTick s = .next t) :
    Out [.w 17 13500416] s t := by
  have h := Host.Outcome.next.inj h; subst h; exact safetyMonitorTick_out  (Out.refl s) rfl

theorem execSafetyMonitorTakeover_out (age : Nat) {s t : State} (h : execSafetyMonitorTakeover age s = .next t) :
    Out safetyMonitorTakeoverOut s t := by
  have h := Host.Outcome.next.inj h; subst h; exact safetyMonitorTakeover_out _ (Out.refl s) rfl

theorem execSmOvervoltage_out {s t : State} (h : execSmOvervoltage s = .next t) :
    Out [.w 17 8, .w 17 12, .w 17 12320768, .w 17 13172736, .p .edges] s t := by
  have h := Host.Outcome.next.inj h; subst h; exact smOvervoltage_out  (Out.refl s) rfl

theorem execWindingMeasureGo_out (kind : Fin 4) (a : Act) {s t : State} (h : execWindingMeasureGo kind a s = .next t) :
    Out [.w 17 32, .w 17 13238272, .w 17 13303808, .w 17 13369344] s t := by
  have h := Host.Outcome.next.inj h; subst h; exact windingMeasureGo_out _ _ (Out.refl s) rfl

theorem execWindingMeasureDone_out (value : Nat) {s t : State} (h : execWindingMeasureDone value s = .next t) :
    Out windingMeasureDoneOut s t := by
  have h := Host.Outcome.next.inj h; subst h; exact windingMeasureDone_out _ (Out.refl s) rfl

theorem execAutonomousSequenceEnd_out {s t : State} (h : execAutonomousSequenceEnd s = .next t) :
    Out autonomousSequenceEndOut s t := by
  have h := Host.Outcome.next.inj h; subst h; exact autonomousSequenceEnd_out  (Out.refl s) rfl

theorem execSafetyMonitorPushEnd_out {s t : State} (h : execSafetyMonitorPushEnd s = .next t) :
    Out safetyMonitorPushEndOut s t := by
  have h := Host.Outcome.next.inj h; subst h; exact safetyMonitorPushEnd_out  (Out.refl s) rfl

theorem execStrongmanLogicPowerLoss_out {s t : State} (h : execStrongmanLogicPowerLoss s = .next t) :
    Out [.b 17, .p .sup] s t := by
  have h := Host.Outcome.next.inj h; subst h; exact strongmanLogicPowerLoss_out  (Out.refl s) rfl

end Sys2Proof.Machine
end

