-- ==== Sys2Proof/Laws/OutManager.lean ====
section
/-!
SUPPORT. What each operation and each command of `Machine/Manager.lean` can change.
-/

namespace Sys2Proof.Machine

set_option Elab.async false
set_option linter.unusedVariables false

set_option maxRecDepth 8000
set_option linter.unusedTactic false
set_option linter.unreachableTactic false

variable {L₀ : List Key} {s₀ : State}

theorem State.layOut_out {s : State} (h₀ : Out L₀ s₀ s)
    (hL : Key.sub [.a 11 32 4, .a 11 48 4, .a 65 5242880 268435456, .a 65 5701632 268435456, .p .fmt, .p .bands, .p .altered,
    .p .weakSlots] L₀ = true) :
    Out L₀ s₀ (State.layOut s) := by
  unfold State.layOut
  repeat'
    first
      | with_reducible assumption | with_reducible apply Out.forAll | with_reducible apply Out.put
      | with_reducible apply Out.puts_nil | with_reducible apply Out.puts_cons | with_reducible apply Out.foldl
      | with_reducible apply Out.foldlFst | exact Key.hasA rfl | exact Key.hasW | exact Out.sub hL rfl | intro _
      | with_reducible apply Out.ite | split | dsimp only [id_eq]
      | (rename_i e; with_reducible refine Out.of_eq e ?_) | with_reducible apply Out.setFmtBandsAlteredWeakSlots

/-- What `State.fmtCommit` may change. -/
def fmtCommitOut : List Key :=
  [.w 11 0, .w 11 4, .a 11 32 4, .a 11 48 4, .a 65 5242880 268435456,
    .a 65 5701632 268435456, .p .fmt, .p .bands, .p .altered, .p .weakSlots]

theorem State.fmtCommit_out {s : State} (h₀ : Out L₀ s₀ s)
    (hL : Key.sub fmtCommitOut L₀ = true) :
    Out L₀ s₀ (State.fmtCommit s).1 := by
  unfold State.fmtCommit
  repeat'
    first
      | with_reducible assumption | with_reducible apply State.enable_out | with_reducible apply State.layOut_out
      | exact Key.hasA rfl | exact Key.hasW | exact Out.sub hL rfl | intro _ | with_reducible apply Out.ite | split
      | dsimp only [id_eq] | (rename_i e; with_reducible refine Out.of_eq e ?_)

theorem fmtCommitCmd_out {s : State} (h₀ : Out L₀ s₀ s)
    (hL : Key.sub fmtCommitOut L₀ = true) :
    Out L₀ s₀ (fmtCommitCmd s) := by
  unfold fmtCommitCmd
  repeat'
    first
      | with_reducible assumption | with_reducible apply State.fmtCommit_out | exact Key.hasA rfl | exact Key.hasW
      | exact Out.sub hL rfl | intro _ | with_reducible apply Out.ite | split | dsimp only [id_eq]
      | (rename_i e; with_reducible refine Out.of_eq e ?_)

theorem State.fmtUncommit_out {s : State} (h₀ : Out L₀ s₀ s)
    (hL : Key.sub [.w 11 0] L₀ = true) :
    Out L₀ s₀ (State.fmtUncommit s).1 := by
  unfold State.fmtUncommit
  repeat'
    first
      | with_reducible assumption | with_reducible apply Out.put | exact Key.hasA rfl | exact Key.hasW
      | exact Out.sub hL rfl | intro _ | with_reducible apply Out.ite | split | dsimp only [id_eq]
      | (rename_i e; with_reducible refine Out.of_eq e ?_)

/-- What `State.mmgEnable` may change. -/
def mmgEnableOut : List Key :=
  [.a 2 32 4, .w 11 0, .w 11 4, .w 11 8, .w 11 12, .w 11 84, .p .edges, .p .inbox]

theorem State.mmgEnable_out {s : State} (h₀ : Out L₀ s₀ s)
    (hL : Key.sub mmgEnableOut L₀ = true) :
    Out L₀ s₀ (State.mmgEnable s).1 := by
  unfold State.mmgEnable
  repeat'
    first
      | with_reducible assumption | with_reducible apply State.enable_out | with_reducible apply Out.forAll
      | with_reducible apply Out.putB | with_reducible apply State.refreshAct_out | exact Key.hasA rfl
      | exact Key.hasW | exact Out.sub hL rfl | intro _ | with_reducible apply Out.ite | split | dsimp only [id_eq]
      | (rename_i e; with_reducible refine Out.of_eq e ?_)

theorem mmgEnableCmd_out {s : State} (h₀ : Out L₀ s₀ s)
    (hL : Key.sub mmgEnableOut L₀ = true) :
    Out L₀ s₀ (mmgEnableCmd s) := by
  unfold mmgEnableCmd
  repeat'
    first
      | with_reducible assumption | with_reducible apply State.mmgEnable_out | exact Key.hasA rfl | exact Key.hasW
      | exact Out.sub hL rfl | intro _ | with_reducible apply Out.ite | split | dsimp only [id_eq]
      | (rename_i e; with_reducible refine Out.of_eq e ?_)

theorem State.mmgDisable_out {s : State} (h₀ : Out L₀ s₀ s)
    (hL : Key.sub [.w 11 0, .w 11 8] L₀ = true) :
    Out L₀ s₀ (State.mmgDisable s) := by
  unfold State.mmgDisable
  repeat'
    first
      | with_reducible assumption | with_reducible apply Out.puts_nil | with_reducible apply Out.puts_cons
      | with_reducible apply Out.put | exact Key.hasA rfl | exact Key.hasW | exact Out.sub hL rfl | intro _
      | with_reducible apply Out.ite | split | dsimp only [id_eq]
      | (rename_i e; with_reducible refine Out.of_eq e ?_)

/-- What `durableTimer` may change. -/
def durableTimerOut : List Key :=
  [.a 2 32 4, .w 6 8, .w 6 12, .w 7 12, .w 7 24, .w 7 28, .w 7 17956864, .w 9 8,
    .w 10 20, .w 10 24, .a 11 32 4, .a 11 48 4, .w 11 5373952, .a 65 22347776 268435456, .p .free, .p .edges,
    .p .inbox, .p .mcache, .p .jq, .p .jobNo, .p .nss, .p .bands, .p .vol, .p .points, .p .pkt, .p .hbm, .p .poison,
    .p .lost, .p .kvLog, .p .stripes]

theorem durableTimer_out {s : State} (h₀ : Out L₀ s₀ s)
    (hL : Key.sub durableTimerOut L₀ = true) :
    Out L₀ s₀ (durableTimer s) := by
  unfold durableTimer
  repeat'
    first
      | with_reducible assumption | with_reducible apply Out.forAll | with_reducible apply Out.put
      | with_reducible apply State.beginPoint_out | exact Key.hasA rfl | exact Key.hasW | exact Out.sub hL rfl
      | intro _ | with_reducible apply Out.ite | split | dsimp only [id_eq]
      | (rename_i e; with_reducible refine Out.of_eq e ?_)

theorem State.opFail_out {s : State} (o : MOp) (h₀ : Out L₀ s₀ s)
    (hL : Key.sub weakTrackOut L₀ = true) :
    Out L₀ s₀ (State.opFail s o) := by
  unfold State.opFail
  repeat'
    first
      | with_reducible assumption | with_reducible apply State.reclaimNext_out | with_reducible apply Out.post
      | with_reducible apply Out.evt | with_reducible apply State.abandonOp_out
      | with_reducible apply State.setOp_out | exact Key.hasA rfl | exact Key.hasW | exact Out.sub hL rfl | intro _
      | with_reducible apply Out.ite | split | dsimp only [id_eq]
      | (rename_i e; with_reducible refine Out.of_eq e ?_)

/-- What `relayStep` may change. -/
def relayStepOut : List Key :=
  [.w 2 8, .w 2 20, .w 2 24, .a 2 32 4, .w 2 5439488, .w 2 5505024, .w 6 8, .w 6 12,
    .w 7 12, .w 7 24, .w 7 28, .w 7 17956864, .w 9 8, .w 10 20, .w 10 24, .w 11 8, .w 11 12, .a 11 32 4, .a 11 48 4,
    .w 11 68, .w 11 76, .w 20 8, .w 20 12, .a 20 32 4, .a 65 15335424 268435456, .a 65 15400960 268435456,
    .a 65 22347776 268435456, .p .free, .p .edges, .p .inbox, .p .media, .p .mcache, .p .jq, .p .jobNo, .p .cmds,
    .p .cqs, .p .ctrls, .p .nss, .p .zones, .p .bands, .p .vol, .p .points, .p .mops, .p .opid, .p .journal,
    .p .jseq, .p .blks, .p .fops, .p .fwait, .p .errlog, .p .pkt, .p .hbm, .p .poison, .p .lost, .p .kvLog,
    .p .stripes, .p .weakSlots]

theorem relayStep_out (a : Act) (bad : List Nat) (ok : Bool) {s : State} (h₀ : Out L₀ s₀ s)
    (hL : Key.sub relayStepOut L₀ = true) :
    Out L₀ s₀ (relayStep a bad ok s) := by
  unfold relayStep
  repeat'
    first
      | with_reducible assumption | with_reducible apply State.opFail_out | with_reducible apply Out.forAll
      | with_reducible apply State.putTrack_out | with_reducible apply State.jrec_out
      | with_reducible apply State.setOp_out | with_reducible apply State.setBand_out
      | with_reducible apply Out.countN | with_reducible apply State.endOp_out
      | with_reducible apply State.checkSpare_out | with_reducible apply State.relayNext_out
      | with_reducible apply Out.post | with_reducible apply Out.count | with_reducible apply Out.evt
      | with_reducible apply Out.foldl | with_reducible apply Out.foldlFst | exact Key.hasA rfl | exact Key.hasW
      | exact Out.sub hL rfl | intro _ | with_reducible apply Out.ite | split | dsimp only [id_eq]
      | (rename_i e; with_reducible refine Out.of_eq e ?_)

theorem State.releaseOld_out {s : State} (id : Nat) (h₀ : Out L₀ s₀ s)
    (hL : Key.sub tryRelayOut L₀ = true) :
    Out L₀ s₀ (State.releaseOld s id) := by
  unfold State.releaseOld
  repeat'
    first
      | with_reducible assumption | with_reducible apply State.tryRelay_out | with_reducible apply State.setBand_out
      | exact Key.hasA rfl | exact Key.hasW | exact Out.sub hL rfl | intro _ | with_reducible apply Out.ite | split
      | dsimp only [id_eq] | (rename_i e; with_reducible refine Out.of_eq e ?_)

/-- What `State.swapZone` may change. -/
def swapZoneOut : List Key :=
  [.w 2 8, .w 2 20, .w 2 24, .a 2 32 4, .w 2 5439488, .w 2 5505024, .w 6 8, .w 6 12,
    .w 7 12, .w 7 24, .w 7 28, .w 7 17956864, .w 9 8, .w 10 20, .w 10 24, .w 11 8, .w 11 12, .a 11 32 4, .a 11 48 4,
    .w 11 72, .w 20 8, .w 20 12, .a 20 32 4, .a 65 15335424 268435456, .a 65 15400960 268435456,
    .a 65 22347776 268435456, .p .free, .p .edges, .p .inbox, .p .mcache, .p .jq, .p .jobNo, .p .cmds, .p .cqs,
    .p .ctrls, .p .nss, .p .zones, .p .bands, .p .vol, .p .points, .p .mops, .p .opid, .p .journal, .p .jseq,
    .p .blks, .p .fops, .p .fwait, .p .errlog, .p .pkt, .p .hbm, .p .poison, .p .lost, .p .kvLog, .p .stripes]

theorem State.swapZone_out {s : State} (nsid : Nat) (zi : Nat) (h₀ : Out L₀ s₀ s)
    (hL : Key.sub swapZoneOut L₀ = true) :
    Out L₀ s₀ (State.swapZone s nsid zi) := by
  unfold State.swapZone
  repeat'
    first
      | with_reducible assumption | with_reducible apply Out.forAll | with_reducible apply Out.drew
      | with_reducible apply State.setBand_out | with_reducible apply State.devZone_out
      | with_reducible apply State.checkSpare_out | with_reducible apply State.releaseOld_out
      | with_reducible apply Out.post | with_reducible apply Out.count | with_reducible apply Out.evt
      | exact Key.hasA rfl | exact Key.hasW | exact Out.sub hL rfl | intro _ | with_reducible apply Out.ite | split
      | dsimp only [id_eq] | (rename_i e; with_reducible refine Out.of_eq e ?_)

theorem State.swapMarked_out {s : State} (nsid : Nat) (h₀ : Out L₀ s₀ s)
    (hL : Key.sub swapZoneOut L₀ = true) :
    Out L₀ s₀ (State.swapMarked s nsid) := by
  unfold State.swapMarked
  repeat'
    first
      | with_reducible assumption | with_reducible apply Out.forAll | with_reducible apply State.swapZone_out
      | exact Key.hasA rfl | exact Key.hasW | exact Out.sub hL rfl | intro _ | with_reducible apply Out.ite | split
      | dsimp only [id_eq] | (rename_i e; with_reducible refine Out.of_eq e ?_)

theorem State.demand_out {s : State} (d : Demand) (h₀ : Out L₀ s₀ s)
    (hL : Key.sub [.w 2 8, .w 2 20, .w 2 24, .a 2 32 4, .w 2 5439488, .w 2 5505024, .w 6 8, .w 6 12, .w 7 12, .w 7 24, .w 7 28,
    .w 7 17956864, .w 9 8, .w 10 20, .w 10 24, .w 11 8, .w 11 12, .a 11 32 4, .a 11 48 4, .w 11 72, .w 20 8,
    .w 20 12, .a 20 32 4, .a 65 15335424 268435456, .a 65 15400960 268435456, .a 65 22347776 268435456, .p .free,
    .p .edges, .p .inbox, .p .mcache, .p .jq, .p .jobNo, .p .cmds, .p .cqs, .p .ctrls, .p .nss, .p .zones,
    .p .bands, .p .vol, .p .points, .p .mops, .p .opid, .p .journal, .p .jseq, .p .blks, .p .fops, .p .fwait,
    .p .errlog, .p .pkt, .p .hbm, .p .poison, .p .lost, .p .kvLog, .p .stripes, .p .altered, .p .weakSlots] L₀ = true) :
    Out L₀ s₀ (State.demand s d) := by
  unfold State.demand
  repeat'
    first
      | with_reducible assumption | with_reducible apply Out.forAll | with_reducible apply State.devZone_out
      | with_reducible apply Out.post | with_reducible apply Out.evt | with_reducible apply State.swapZone_out
      | with_reducible apply State.freeBand_out | with_reducible apply State.checkSpare_out
      | with_reducible apply State.reclaim_out | exact Key.hasA rfl | exact Key.hasW | exact Out.sub hL rfl | intro _
      | with_reducible apply Out.ite | split | dsimp only [id_eq]
      | (rename_i e; with_reducible refine Out.of_eq e ?_) | with_reducible apply Out.setAltered

/-- What `alterationDemand` may change. -/
def alterationDemandOut : List Key :=
  [.w 2 8, .w 2 20, .w 2 24, .a 2 32 4, .w 2 5439488, .w 2 5505024, .w 6 8,
    .w 6 12, .w 7 12, .w 7 24, .w 7 28, .w 7 17956864, .w 9 8, .w 10 20, .w 10 24, .w 11 8, .w 11 12, .a 11 32 4,
    .a 11 48 4, .w 11 72, .w 20 8, .w 20 12, .a 20 32 4, .a 65 15335424 268435456, .a 65 15400960 268435456,
    .a 65 22347776 268435456, .p .free, .p .edges, .p .inbox, .p .mcache, .p .jq, .p .jobNo, .p .cmds, .p .cqs,
    .p .ctrls, .p .nss, .p .zones, .p .bands, .p .vol, .p .points, .p .mops, .p .opid, .p .journal, .p .jseq,
    .p .demands, .p .blks, .p .fops, .p .fwait, .p .errlog, .p .pkt, .p .hbm, .p .poison, .p .lost, .p .kvLog,
    .p .stripes, .p .altered, .p .weakSlots]

theorem alterationDemand_out (h : GHead) (z : RZone) (dc : Fin 6) (hours : BitVec 32) {s : State} (h₀ : Out L₀ s₀ s)
    (hL : Key.sub alterationDemandOut L₀ = true) :
    Out L₀ s₀ (alterationDemand h z dc hours s) := by
  unfold alterationDemand
  repeat'
    first
      | with_reducible assumption | with_reducible apply State.demand_out | exact Key.hasA rfl | exact Key.hasW
      | exact Out.sub hL rfl | intro _ | with_reducible apply Out.ite | split | dsimp only [id_eq]
      | (rename_i e; with_reducible refine Out.of_eq e ?_) | with_reducible apply Out.setDemands

theorem State.altResume_out {s : State} (h₀ : Out L₀ s₀ s)
    (hL : Key.sub alterationDemandOut L₀ = true) :
    Out L₀ s₀ (State.altResume s) := by
  unfold State.altResume
  repeat'
    first
      | with_reducible assumption | with_reducible apply Out.forAll | with_reducible apply State.demand_out
      | with_reducible apply State.relayNext_out | exact Key.hasA rfl | exact Key.hasW | exact Out.sub hL rfl
      | intro _ | with_reducible apply Out.ite | split | dsimp only [id_eq]
      | (rename_i e; with_reducible refine Out.of_eq e ?_) | with_reducible apply Out.setDemands

theorem State.switchKv_out {s : State} (nsid : Nat) (src : Nat) (dst : Nat) (h₀ : Out L₀ s₀ s)
    (hL : Key.sub [.a 2 32 4, .a 11 32 4, .a 11 48 4, .p .jq, .p .nss, .p .bands, .p .vol, .p .dur, .p .lost, .p .kvLog, .p .kvDur,
    .p .stripes] L₀ = true) :
    Out L₀ s₀ (State.switchKv s nsid src dst) := by
  unfold State.switchKv
  repeat'
    first
      | with_reducible assumption | with_reducible apply State.setBand_out | with_reducible apply State.setJugq_out
      | with_reducible apply Out.foldl | with_reducible apply Out.foldlFst | exact Key.hasA rfl | exact Key.hasW
      | exact Out.sub hL rfl | intro _ | with_reducible apply Out.ite | split | dsimp only [id_eq]
      | (rename_i e; with_reducible refine Out.of_eq e ?_)
      | with_reducible apply Out.setNssVolDurLostKvLogKvDurStripes

theorem State.switchBand_out {s : State} (src : Nat) (dst : Nat) (h₀ : Out L₀ s₀ s)
    (hL : Key.sub [.w 2 8, .w 2 20, .w 2 24, .a 2 32 4, .w 2 5439488, .w 2 5505024, .w 6 8, .w 6 12, .w 7 12, .w 7 24, .w 7 28,
    .w 7 17956864, .w 9 8, .w 10 20, .w 10 24, .a 11 32 4, .a 11 48 4, .a 65 22347776 268435456, .p .free,
    .p .edges, .p .inbox, .p .mcache, .p .jq, .p .jobNo, .p .cmds, .p .cqs, .p .ctrls, .p .nss, .p .zones,
    .p .bands, .p .vol, .p .dur, .p .points, .p .errlog, .p .pkt, .p .hbm, .p .poison, .p .lost, .p .kvLog,
    .p .kvDur, .p .stripes, .p .weakSlots] L₀ = true) :
    Out L₀ s₀ (State.switchBand s src dst) := by
  unfold State.switchBand
  repeat'
    first
      | with_reducible assumption | with_reducible apply Out.forAll | with_reducible apply State.switchKv_out
      | with_reducible apply State.devZone_out | exact Key.hasA rfl | exact Key.hasW | exact Out.sub hL rfl | intro _
      | with_reducible apply Out.ite | split | dsimp only [id_eq]
      | (rename_i e; with_reducible refine Out.of_eq e ?_) | with_reducible apply Out.setNssWeakSlots

theorem State.retarget_out {s : State} (o : MOp) (h₀ : Out L₀ s₀ s)
    (hL : Key.sub [.w 2 8, .w 2 20, .w 2 24, .a 2 32 4, .w 2 5439488, .w 2 5505024, .w 6 8, .w 6 12, .w 7 12, .w 7 24, .w 7 28,
    .w 7 17956864, .w 9 8, .w 10 20, .w 10 24, .w 11 8, .w 11 12, .a 11 32 4, .a 11 48 4, .w 11 76, .w 20 8,
    .w 20 12, .a 20 32 4, .a 65 15335424 268435456, .a 65 15400960 268435456, .a 65 22347776 268435456, .p .free,
    .p .edges, .p .inbox, .p .mcache, .p .jq, .p .jobNo, .p .cmds, .p .cqs, .p .ctrls, .p .nss, .p .bands, .p .vol,
    .p .points, .p .mops, .p .journal, .p .jseq, .p .blks, .p .fops, .p .fwait, .p .errlog, .p .pkt, .p .hbm,
    .p .poison, .p .lost, .p .kvLog, .p .stripes] L₀ = true) :
    Out L₀ s₀ (State.retarget s o) := by
  unfold State.retarget
  repeat'
    first
      | with_reducible assumption | with_reducible apply Out.count | with_reducible apply State.setBand_out
      | with_reducible apply State.checkSpare_out | with_reducible apply State.reclaimNext_out
      | with_reducible apply State.setOp_out | exact Key.hasA rfl | exact Key.hasW | exact Out.sub hL rfl | intro _
      | with_reducible apply Out.ite | split | dsimp only [id_eq]
      | (rename_i e; with_reducible refine Out.of_eq e ?_)

theorem State.dropTarget_out {s : State} (o : MOp) (h₀ : Out L₀ s₀ s)
    (hL : Key.sub [.w 2 8, .w 2 20, .w 2 24, .a 2 32 4, .w 2 5439488, .w 2 5505024, .w 6 8, .w 6 12, .w 7 12, .w 7 24, .w 7 28,
    .w 7 17956864, .w 9 8, .w 10 20, .w 10 24, .w 11 8, .w 11 12, .a 11 32 4, .a 11 48 4, .w 20 8, .w 20 12,
    .a 20 32 4, .a 65 15335424 268435456, .a 65 15400960 268435456, .a 65 22347776 268435456, .p .free, .p .edges,
    .p .inbox, .p .mcache, .p .jq, .p .jobNo, .p .cmds, .p .cqs, .p .ctrls, .p .nss, .p .bands, .p .vol, .p .points,
    .p .mops, .p .opid, .p .journal, .p .jseq, .p .blks, .p .fops, .p .fwait, .p .errlog, .p .pkt, .p .hbm,
    .p .poison, .p .lost, .p .kvLog, .p .stripes, .p .weakSlots] L₀ = true) :
    Out L₀ s₀ (State.dropTarget s o) := by
  unfold State.dropTarget
  repeat'
    first
      | with_reducible assumption | with_reducible apply State.reclaimNext_out | with_reducible apply State.setOp_out
      | with_reducible apply State.freeBand_out | exact Key.hasA rfl | exact Key.hasW | exact Out.sub hL rfl
      | intro _ | with_reducible apply Out.ite | split | dsimp only [id_eq]
      | (rename_i e; with_reducible refine Out.of_eq e ?_)

theorem State.copyTracks_out {s : State} (src : Nat) (dst : Nat) (lo : Nat) (hi : Nat) (h₀ : Out L₀ s₀ s)
    (hL : Key.sub [.p .media] L₀ = true) :
    Out L₀ s₀ (State.copyTracks s src dst lo hi) := by
  unfold State.copyTracks
  repeat'
    first
      | with_reducible assumption | with_reducible apply Out.forAll | with_reducible apply State.putTrack_out
      | exact Key.hasA rfl | exact Key.hasW | exact Out.sub hL rfl | intro _ | with_reducible apply Out.ite | split
      | dsimp only [id_eq] | (rename_i e; with_reducible refine Out.of_eq e ?_)

theorem State.restage_out {s : State} (id : Nat) (lo : Nat) (hi : Nat) (h₀ : Out L₀ s₀ s)
    (hL : Key.sub [.p .vol] L₀ = true) :
    Out L₀ s₀ (State.restage s id lo hi) := by
  unfold State.restage
  repeat'
    first
      | with_reducible assumption | with_reducible apply Out.forAll | exact Key.hasA rfl | exact Key.hasW
      | exact Out.sub hL rfl | intro _ | with_reducible apply Out.ite | split | dsimp only [id_eq]
      | (rename_i e; with_reducible refine Out.of_eq e ?_) | with_reducible apply Out.setVol

theorem State.copyKv_out {s : State} (id : Nat) (h₀ : Out L₀ s₀ s)
    (hL : Key.sub [.p .media] L₀ = true) :
    Out L₀ s₀ (State.copyKv s id) := by
  unfold State.copyKv
  repeat'
    first
      | with_reducible assumption | with_reducible apply Out.forAll | with_reducible apply State.putTrack_out
      | exact Key.hasA rfl | exact Key.hasW | exact Out.sub hL rfl | intro _ | with_reducible apply Out.ite | split
      | dsimp only [id_eq] | (rename_i e; with_reducible refine Out.of_eq e ?_)

theorem State.switchOp_out {s : State} (o : MOp) (h₀ : Out L₀ s₀ s)
    (hL : Key.sub [.w 2 8, .w 2 20, .w 2 24, .a 2 32 4, .w 2 5439488, .w 2 5505024, .w 6 8, .w 6 12, .w 7 12, .w 7 24, .w 7 28,
    .w 7 17956864, .w 9 8, .w 10 20, .w 10 24, .a 11 32 4, .a 11 48 4, .a 65 22347776 268435456,
    .a 65 24969216 268435456, .p .free, .p .edges, .p .inbox, .p .media, .p .mcache, .p .jq, .p .jobNo, .p .cmds,
    .p .cqs, .p .ctrls, .p .nss, .p .zones, .p .bands, .p .vol, .p .dur, .p .points, .p .errlog, .p .pkt, .p .hbm,
    .p .poison, .p .lost, .p .kvLog, .p .kvDur, .p .stripes, .p .weakSlots] L₀ = true) :
    Out L₀ s₀ (State.switchOp s o) := by
  unfold State.switchOp
  repeat'
    first
      | with_reducible assumption | with_reducible apply State.setBand_out
      | with_reducible apply State.switchBand_out | with_reducible apply State.cleanSwitch_out
      | with_reducible apply State.copyKv_out | with_reducible apply Out.when
      | with_reducible apply State.restage_out | with_reducible apply State.mapLog_out
      | with_reducible apply State.planAgain_out | with_reducible apply State.requeue_out | exact Key.hasA rfl
      | exact Key.hasW | exact Out.sub hL rfl | intro _ | with_reducible apply Out.ite | split | dsimp only [id_eq]
      | (rename_i e; with_reducible refine Out.of_eq e ?_)

/-- What `reclaimStep` may change. -/
def reclaimStepOut : List Key :=
  [.w 2 8, .w 2 20, .w 2 24, .a 2 32 4, .w 2 5439488, .w 2 5505024, .w 6 8,
    .w 6 12, .w 7 12, .w 7 24, .w 7 28, .w 7 17956864, .w 9 8, .w 10 20, .w 10 24, .w 11 8, .w 11 12, .a 11 32 4,
    .a 11 48 4, .w 11 64, .w 11 76, .w 20 8, .w 20 12, .a 20 32 4, .a 65 15335424 268435456,
    .a 65 15400960 268435456, .a 65 22347776 268435456, .a 65 24969216 268435456, .p .free, .p .edges, .p .inbox,
    .p .media, .p .mcache, .p .jq, .p .jobNo, .p .cmds, .p .cqs, .p .ctrls, .p .nss, .p .zones, .p .bands, .p .vol,
    .p .dur, .p .points, .p .mops, .p .opid, .p .journal, .p .jseq, .p .blks, .p .fops, .p .fwait, .p .errlog,
    .p .pkt, .p .hbm, .p .poison, .p .lost, .p .kvLog, .p .kvDur, .p .stripes, .p .weakSlots]

theorem reclaimStep_out (a : Act) (ok : Bool) (share : Bool) {s : State} (h₀ : Out L₀ s₀ s)
    (hL : Key.sub reclaimStepOut L₀ = true) :
    Out L₀ s₀ (reclaimStep a ok share s) := by
  unfold reclaimStep
  repeat'
    first
      | with_reducible assumption | with_reducible apply State.reclaimNext_out
      | with_reducible apply State.dropTarget_out | with_reducible apply State.retarget_out
      | with_reducible apply State.opFail_out | with_reducible apply State.copyTracks_out
      | with_reducible apply State.jrec_out | with_reducible apply State.setOp_out
      | with_reducible apply State.switchOp_out | with_reducible apply State.releaseSrc_out
      | with_reducible apply State.endOp_out | with_reducible apply State.reclaim_out
      | with_reducible apply State.checkSpare_out | with_reducible apply State.clean_out
      | with_reducible apply Out.post | with_reducible apply Out.count | with_reducible apply Out.evt
      | exact Key.hasA rfl | exact Key.hasW | exact Out.sub hL rfl | intro _ | with_reducible apply Out.ite | split
      | dsimp only [id_eq] | (rename_i e; with_reducible refine Out.of_eq e ?_)

theorem State.overwriteDone_out {s : State} (nsid : Nat) (h₀ : Out L₀ s₀ s)
    (hL : Key.sub [.w 2 8, .w 2 20, .w 2 24, .a 2 32 4, .w 2 5439488, .w 2 5505024, .w 6 8, .w 6 12, .w 7 12, .w 7 24, .w 7 28,
    .w 7 17956864, .w 9 8, .w 10 20, .w 10 24, .w 11 8, .w 11 12, .a 11 32 4, .a 11 48 4, .w 11 72, .w 20 8,
    .w 20 12, .a 20 32 4, .w 65 5636096, .a 65 15335424 268435456, .a 65 15400960 268435456,
    .a 65 22347776 268435456, .a 65 24969216 268435456, .p .free, .p .edges, .p .inbox, .p .media, .p .mcache,
    .p .jq, .p .jobNo, .p .cmds, .p .cqs, .p .ctrls, .p .nss, .p .zones, .p .bands, .p .vol, .p .points, .p .mops,
    .p .opid, .p .journal, .p .jseq, .p .blks, .p .fops, .p .fwait, .p .errlog, .p .pkt, .p .hbm, .p .poison,
    .p .lost, .p .kvLog, .p .stripes] L₀ = true) :
    Out L₀ s₀ (State.overwriteDone s nsid) := by
  unfold State.overwriteDone
  repeat'
    first
      | with_reducible assumption | with_reducible apply Out.put | with_reducible apply Out.forAll
      | with_reducible apply State.mapLog_out | with_reducible apply State.checkpoint_out
      | with_reducible apply State.swapMarked_out | with_reducible apply State.setNs_out
      | with_reducible apply State.cmdPart_out | exact Key.hasA rfl | exact Key.hasW | exact Out.sub hL rfl | intro _
      | with_reducible apply Out.ite | split | dsimp only [id_eq]
      | (rename_i e; with_reducible refine Out.of_eq e ?_)

theorem State.fillUnit_out {s : State} (a : Nat) (u : Nat × Nat) (h₀ : Out L₀ s₀ s)
    (hL : Key.sub [.p .media] L₀ = true) :
    Out L₀ s₀ (State.fillUnit s a u) := by
  unfold State.fillUnit
  repeat'
    first
      | with_reducible assumption | with_reducible apply Out.forAll | with_reducible apply State.putTrack_out
      | exact Key.hasA rfl | exact Key.hasW | exact Out.sub hL rfl | intro _ | with_reducible apply Out.ite | split
      | dsimp only [id_eq] | (rename_i e; with_reducible refine Out.of_eq e ?_)

/-- What `overwriteStep` may change. -/
def overwriteStepOut : List Key :=
  [.w 2 8, .w 2 20, .w 2 24, .a 2 32 4, .w 2 5439488, .w 2 5505024, .w 6 8,
    .w 6 12, .w 7 12, .w 7 24, .w 7 28, .w 7 17956864, .w 9 8, .w 10 20, .w 10 24, .w 11 8, .w 11 12, .a 11 32 4,
    .a 11 48 4, .w 11 72, .w 20 8, .w 20 12, .a 20 32 4, .w 65 5636096, .a 65 15335424 268435456,
    .a 65 15400960 268435456, .a 65 22347776 268435456, .a 65 24969216 268435456, .p .free, .p .edges, .p .inbox,
    .p .media, .p .mcache, .p .jq, .p .jobNo, .p .cmds, .p .cqs, .p .ctrls, .p .nss, .p .zones, .p .bands, .p .vol,
    .p .points, .p .mops, .p .opid, .p .journal, .p .jseq, .p .blks, .p .fops, .p .fwait, .p .errlog, .p .pkt,
    .p .hbm, .p .poison, .p .lost, .p .kvLog, .p .stripes, .p .weakSlots]

theorem overwriteStep_out (a : Act) (ok : Bool) (share : Bool) {s : State} (h₀ : Out L₀ s₀ s)
    (hL : Key.sub overwriteStepOut L₀ = true) :
    Out L₀ s₀ (overwriteStep a ok share s) := by
  unfold overwriteStep
  repeat'
    first
      | with_reducible assumption | with_reducible apply Out.put | with_reducible apply State.opFail_out
      | with_reducible apply Out.forAll | with_reducible apply State.fillUnit_out
      | with_reducible apply State.freeBand_out | with_reducible apply State.overwriteDone_out
      | with_reducible apply State.endOp_out | with_reducible apply State.jrec_out
      | with_reducible apply State.setOp_out | exact Key.hasA rfl | exact Key.hasW | exact Out.sub hL rfl | intro _
      | with_reducible apply Out.ite | split | dsimp only [id_eq]
      | (rename_i e; with_reducible refine Out.of_eq e ?_) | with_reducible apply Out.setMops

theorem State.setBack_out {s : State} (o : MOp) (h₀ : Out L₀ s₀ s)
    (hL : Key.sub freeBandOut L₀ = true) :
    Out L₀ s₀ (State.setBack s o) := by
  unfold State.setBack
  repeat'
    first
      | with_reducible assumption | with_reducible apply State.setOp_out | with_reducible apply State.unhold_out
      | with_reducible apply State.endOp_out | with_reducible apply State.showOps_out
      | with_reducible apply State.freeBand_out | exact Key.hasA rfl | exact Key.hasW | exact Out.sub hL rfl
      | intro _ | with_reducible apply Out.ite | split | dsimp only [id_eq]
      | (rename_i e; with_reducible refine Out.of_eq e ?_)

theorem State.scanJournal_out {s : State} (h₀ : Out L₀ s₀ s)
    (hL : Key.sub freeBandOut L₀ = true) :
    Out L₀ s₀ (State.scanJournal s) := by
  unfold State.scanJournal
  repeat'
    first
      | with_reducible assumption | with_reducible apply Out.forAll | with_reducible apply State.setBack_out
      | exact Key.hasA rfl | exact Key.hasW | exact Out.sub hL rfl | intro _ | with_reducible apply Out.ite | split
      | dsimp only [id_eq] | (rename_i e; with_reducible refine Out.of_eq e ?_) | with_reducible apply Out.setJournal

theorem State.resumeAll_out {s : State} (h₀ : Out L₀ s₀ s)
    (hL : Key.sub [.w 11 12, .w 11 84, .p .edges, .p .inbox, .p .mops] L₀ = true) :
    Out L₀ s₀ (State.resumeAll s) := by
  unfold State.resumeAll
  repeat'
    first
      | with_reducible assumption | with_reducible apply Out.forAll | with_reducible apply State.resumeOps_out
      | exact Key.hasA rfl | exact Key.hasW | exact Out.sub hL rfl | intro _ | with_reducible apply Out.ite | split
      | dsimp only [id_eq] | (rename_i e; with_reducible refine Out.of_eq e ?_) | with_reducible apply Out.setMops

theorem State.journalError_out {s : State} (jseq : Nat) (h₀ : Out L₀ s₀ s)
    (hL : Key.sub [.w 11 8, .w 11 12, .a 11 32 4, .a 11 48 4, .w 20 8, .w 20 12, .a 20 32 4, .a 65 15335424 268435456,
    .a 65 15400960 268435456, .p .edges, .p .inbox, .p .bands, .p .mops, .p .opid, .p .journal, .p .jseq, .p .blks,
    .p .fops, .p .fwait, .p .weakSlots] L₀ = true) :
    Out L₀ s₀ (State.journalError s jseq) := by
  unfold State.journalError
  repeat'
    first
      | with_reducible assumption | with_reducible apply Out.post | with_reducible apply Out.evt
      | with_reducible apply State.setBack_out | exact Key.hasA rfl | exact Key.hasW | exact Out.sub hL rfl | intro _
      | with_reducible apply Out.ite | split | dsimp only [id_eq]
      | (rename_i e; with_reducible refine Out.of_eq e ?_) | with_reducible apply Out.setJournal

theorem execMmgEnable_out {s t : State} (h : execMmgEnable s = .next t) :
    Out mmgEnableOut s t := by
  have h := Host.Outcome.next.inj h; subst h; exact mmgEnableCmd_out  (Out.refl s) rfl

theorem execFmtCommit_out {s t : State} (h : execFmtCommit s = .next t) :
    Out fmtCommitOut s t := by
  have h := Host.Outcome.next.inj h; subst h; exact fmtCommitCmd_out  (Out.refl s) rfl

theorem execDurableTimer_out {s t : State} (h : execDurableTimer s = .next t) :
    Out durableTimerOut s t := by
  have h := Host.Outcome.next.inj h; subst h; exact durableTimer_out  (Out.refl s) rfl

theorem execAlterationDemand_out (h : GHead) (z : RZone) (dc : Fin 6) (hours : BitVec 32) {s t : State} (h : execAlterationDemand h z dc hours s = .next t) :
    Out alterationDemandOut s t := by
  have h := Host.Outcome.next.inj h; subst h; exact alterationDemand_out _ _ _ _ (Out.refl s) rfl

theorem execRelayStep_out (a : Act) (bad : List Nat) (ok : Bool) {s t : State} (h : execRelayStep a bad ok s = .next t) :
    Out relayStepOut s t := by
  have h := Host.Outcome.next.inj h; subst h; exact relayStep_out _ _ _ (Out.refl s) rfl

theorem execReclaimStep_out (a : Act) (ok : Bool) (share : Bool) {s t : State} (h : execReclaimStep a ok share s = .next t) :
    Out reclaimStepOut s t := by
  have h := Host.Outcome.next.inj h; subst h; exact reclaimStep_out _ _ _ (Out.refl s) rfl

theorem execOverwriteStep_out (a : Act) (ok : Bool) (share : Bool) {s t : State} (h : execOverwriteStep a ok share s = .next t) :
    Out overwriteStepOut s t := by
  have h := Host.Outcome.next.inj h; subst h; exact overwriteStep_out _ _ _ (Out.refl s) rfl

end Sys2Proof.Machine
end

