-- ==== Sys2Proof/Laws/OutFlash.lean ====
section
/-!
SUPPORT. What each operation and each command of `Machine/Flash.lean` can change.
-/

namespace Sys2Proof.Machine

set_option Elab.async false
set_option linter.unusedVariables false

set_option maxRecDepth 8000
set_option linter.unusedTactic false
set_option linter.unreachableTactic false

variable {L₀ : List Key} {s₀ : State}

/-- What `flashRead` may change. -/
def flashReadOut : List Key :=
  [.w 20 8, .w 20 12, .a 20 32 4, .w 20 72, .a 65 15400960 268435456, .p .edges,
    .p .inbox, .p .fops, .p .fwait, .p .fread]

theorem flashRead_out (addr : BitVec 32) (n : BitVec 16) (ran : Nat) {s t : State} (h : flashRead addr n ran s = .next t) : Out flashReadOut s t := by
  unfold flashRead at h
  dsimp only at h
  split at h
  · cases h
  · split at h
    · cases h; exact Out.setFread _ (.refl _) (by rfl)
    · split at h
      · cases h; exact State.serveRead_out _ _ (.refl _) (by rfl)
      · split at h
        · cases h; exact State.serveRead_out _ _ (.refl _) (by rfl)
        · split at h
          · cases h; exact State.resumeOp_out _ (State.serveRead_out _ _ (State.suspendOp_out _ (.refl _) (by rfl)) (by rfl)) (by rfl)
          · cases h; exact State.waitFor_out _ _ (.refl _) (by rfl)

theorem flashProgram_out (addr : BitVec 32) (data : List Byte) (ran : Nat) {s t : State} (h : flashProgram addr data ran s = .next t) : Out reqProgOut s t := by
  unfold flashProgram at h
  split at h
  · cases h
  · split at h
    · cases h; exact .refl _
    · cases h; exact State.reqProg_out _ _ _ (.refl _) (by rfl)

theorem flashErase_out (blk : BitVec 16) {s t : State} (h : flashErase blk s = .next t) : Out [.w 20 8, .a 20 32 4, .p .blks, .p .fops, .p .fwait] s t := by
  unfold flashErase at h
  dsimp only at h
  split at h
  · cases h
  · split at h
    · cases h; exact .refl _
    · cases h; exact State.reqErase_out _ (.refl _) (by rfl)

theorem State.fwPage_out {s : State} (a : Nat) (h₀ : Out L₀ s₀ s)
    (hL : Key.sub [.a 65 14024704 268435456, .p .fwPend] L₀ = true) :
    Out L₀ s₀ (State.fwPage s a) := by
  unfold State.fwPage
  repeat'
    first
      | with_reducible assumption | with_reducible apply Out.put | exact Key.hasA rfl | exact Key.hasW
      | exact Out.sub hL rfl | intro _ | with_reducible apply Out.ite | split | dsimp only [id_eq]
      | (rename_i e; with_reducible refine Out.of_eq e ?_) | with_reducible apply Out.setFwPend

theorem State.fwDrop_out {s : State} (k : Nat) (h₀ : Out L₀ s₀ s)
    (hL : Key.sub [.p .fwait] L₀ = true) :
    Out L₀ s₀ (State.fwDrop s k) := by
  unfold State.fwDrop
  repeat'
    first
      | with_reducible assumption | with_reducible apply State.setWait_out | exact Key.hasA rfl | exact Key.hasW
      | exact Out.sub hL rfl | intro _ | with_reducible apply Out.ite | split | dsimp only [id_eq]
      | (rename_i e; with_reducible refine Out.of_eq e ?_)

theorem State.fwFail_out {s : State} (a : Nat) (h₀ : Out L₀ s₀ s)
    (hL : Key.sub [.a 65 14024704 268435456, .w 66 14155776, .p .fwait, .p .fwPend] L₀ = true) :
    Out L₀ s₀ (State.fwFail s a) := by
  unfold State.fwFail
  repeat'
    first
      | with_reducible assumption | with_reducible apply Out.puts_nil | with_reducible apply Out.puts_cons
      | with_reducible apply Out.put | with_reducible apply State.fwDrop_out | exact Key.hasA rfl | exact Key.hasW
      | exact Out.sub hL rfl | intro _ | with_reducible apply Out.ite | split | dsimp only [id_eq]
      | (rename_i e; with_reducible refine Out.of_eq e ?_) | with_reducible apply Out.setFwPend

/-- What `flashProgramDone` may change. -/
def flashProgramDoneOut : List Key :=
  [.w 20 8, .w 20 12, .a 20 32 4, .w 20 64, .w 20 68, .w 20 72, .w 25 8,
    .w 25 20, .w 25 24, .w 25 28, .w 64 15794176, .a 65 14024704 268435456, .a 65 15335424 268435456,
    .a 65 15400960 268435456, .w 65 15532032, .w 65 15597568, .w 65 15663104, .w 65 16252928, .w 66 14155776,
    .p .free, .p .edges, .p .inbox, .p .flash, .p .blks, .p .fops, .p .fwait, .p .fread, .p .fwPend, .p .popen,
    .p .pbuf, .p .ring, .p .ringBad]

theorem flashProgramDone_out (b : Fin 4) (ok : Bool) {s : State} (h₀ : Out L₀ s₀ s)
    (hL : Key.sub flashProgramDoneOut L₀ = true) :
    Out L₀ s₀ (flashProgramDone b ok s) := by
  unfold flashProgramDone
  repeat'
    first
      | with_reducible assumption | with_reducible apply State.ringProgEnd_out
      | with_reducible apply State.setOps_out | with_reducible apply State.fwPage_out
      | with_reducible apply State.progNow_out | with_reducible apply State.fwFail_out
      | with_reducible apply State.flashFailed_out | with_reducible apply State.progCut_out
      | with_reducible apply State.bankNext_out | exact Key.hasA rfl | exact Key.hasW | exact Out.sub hL rfl
      | intro _ | with_reducible apply Out.ite | split | dsimp only [id_eq]
      | (rename_i e; with_reducible refine Out.of_eq e ?_)

/-- What `flashEraseDone` may change. -/
def flashEraseDoneOut : List Key :=
  [.w 20 8, .w 20 12, .a 20 32 4, .w 20 64, .w 20 68, .w 20 72, .w 25 8,
    .w 25 20, .w 25 24, .w 25 28, .a 65 14024704 268435456, .a 65 15269888 268435456, .a 65 15335424 268435456,
    .a 65 15400960 268435456, .w 65 15532032, .w 65 15597568, .w 65 15663104, .w 65 15990784, .w 65 16056320,
    .w 65 16252928, .w 66 14155776, .p .edges, .p .inbox, .p .flash, .p .blks, .p .fops, .p .fwait, .p .fread,
    .p .fwPend, .p .ring, .p .ringBad]

theorem flashEraseDone_out (b : Fin 4) (ok : Bool) {s : State} (h₀ : Out L₀ s₀ s)
    (hL : Key.sub flashEraseDoneOut L₀ = true) :
    Out L₀ s₀ (flashEraseDone b ok s) := by
  unfold flashEraseDone
  repeat'
    first
      | with_reducible assumption | with_reducible apply State.ringEraseEnd_out
      | with_reducible apply State.setOps_out | with_reducible apply State.eraseNow_out
      | with_reducible apply State.fwFail_out | with_reducible apply State.flashFailed_out
      | with_reducible apply State.setBlk_out | with_reducible apply State.bankNext_out | exact Key.hasA rfl
      | exact Key.hasW | exact Out.sub hL rfl | intro _ | with_reducible apply Out.ite | split | dsimp only [id_eq]
      | (rename_i e; with_reducible refine Out.of_eq e ?_)

/-- What `flashSuspendDue` may change. -/
def flashSuspendDueOut : List Key :=
  [.w 20 8, .w 20 12, .a 20 32 4, .w 20 72, .a 65 15335424 268435456,
    .a 65 15400960 268435456, .p .edges, .p .inbox, .p .fops, .p .fwait, .p .fread]

theorem flashSuspendDue_out (b : Fin 4) {s : State} (h₀ : Out L₀ s₀ s)
    (hL : Key.sub flashSuspendDueOut L₀ = true) :
    Out L₀ s₀ (flashSuspendDue b s) := by
  unfold flashSuspendDue
  repeat'
    first
      | with_reducible assumption | with_reducible apply State.resumeOp_out
      | with_reducible apply State.serveRead_out | with_reducible apply State.suspendOp_out
      | with_reducible apply State.setWait_out | with_reducible apply State.startProg_out | exact Key.hasA rfl
      | exact Key.hasW | exact Out.sub hL rfl | intro _ | with_reducible apply Out.ite | split | dsimp only [id_eq]
      | (rename_i e; with_reducible refine Out.of_eq e ?_)

/-- What `State.setHold` may change. -/
def setHoldOut : List Key :=
  [.w 20 0, .w 20 8, .w 20 12, .a 20 32 4, .w 20 72, .w 25 8, .w 25 20, .w 25 24,
    .w 25 28, .a 65 15335424 268435456, .a 65 15400960 268435456, .p .edges, .p .inbox, .p .blks, .p .fops,
    .p .fwait, .p .fread]

theorem State.setHold_out {s : State} (m : Nat) (h₀ : Out L₀ s₀ s)
    (hL : Key.sub setHoldOut L₀ = true) :
    Out L₀ s₀ (State.setHold s m) := by
  unfold State.setHold
  repeat'
    first
      | with_reducible assumption | with_reducible apply State.showPbl_out | with_reducible apply Out.forAll
      | with_reducible apply Out.put | with_reducible apply State.suspendOp_out
      | with_reducible apply State.bankNext_out | exact Key.hasA rfl | exact Key.hasW | exact Out.sub hL rfl
      | intro _ | with_reducible apply Out.ite | split | dsimp only [id_eq]
      | (rename_i e; with_reducible refine Out.of_eq e ?_)

theorem wdbHold_out (m : BitVec 4) {s : State} (h₀ : Out L₀ s₀ s)
    (hL : Key.sub setHoldOut L₀ = true) :
    Out L₀ s₀ (wdbHold m s) := by
  unfold wdbHold
  repeat'
    first
      | with_reducible assumption | with_reducible apply State.setHold_out | exact Key.hasA rfl | exact Key.hasW
      | exact Out.sub hL rfl | intro _ | with_reducible apply Out.ite | split | dsimp only [id_eq]
      | (rename_i e; with_reducible refine Out.of_eq e ?_)

theorem State.flashCut_out {s : State} (h₀ : Out L₀ s₀ s)
    (hL : Key.sub [.w 65 15532032, .w 65 15597568, .w 65 15663104, .w 65 16252928, .p .free, .p .flash, .p .fops, .p .fwait,
    .p .fread, .p .ring, .p .ringBad] L₀ = true) :
    Out L₀ s₀ (State.flashCut s) := by
  unfold State.flashCut
  repeat'
    first
      | with_reducible assumption | with_reducible apply Out.forAll | with_reducible apply State.progCut_out
      | with_reducible apply State.ringSpoilt_out | with_reducible apply State.ringMissed_out | exact Key.hasA rfl
      | exact Key.hasW | exact Out.sub hL rfl | intro _ | with_reducible apply Out.ite | split | dsimp only [id_eq]
      | (rename_i e; with_reducible refine Out.of_eq e ?_) | with_reducible apply Out.setFopsFwaitFread

theorem State.loadOpt_out {s : State} (h₀ : Out L₀ s₀ s)
    (hL : Key.sub [.w 66 14680064, .w 66 14745600, .w 66 14811136, .p .inbox, .p .opt] L₀ = true) :
    Out L₀ s₀ (State.loadOpt s) := by
  unfold State.loadOpt
  repeat'
    first
      | with_reducible assumption | with_reducible apply Out.puts_nil | with_reducible apply Out.puts_cons
      | with_reducible apply Out.put | with_reducible apply Out.post | exact Key.hasA rfl | exact Key.hasW
      | exact Out.sub hL rfl | intro _ | with_reducible apply Out.ite | split | dsimp only [id_eq]
      | (rename_i e; with_reducible refine Out.of_eq e ?_) | with_reducible apply Out.setOpt

theorem State.refreshSpn_out {s : State} (h₀ : Out L₀ s₀ s)
    (hL : Key.sub [.p .win] L₀ = true) :
    Out L₀ s₀ (State.refreshSpn s) := by
  unfold State.refreshSpn
  repeat'
    first
      | with_reducible assumption | with_reducible apply State.putWin_out | exact Key.hasA rfl | exact Key.hasW
      | exact Out.sub hL rfl | intro _ | with_reducible apply Out.ite | split | dsimp only [id_eq]
      | (rename_i e; with_reducible refine Out.of_eq e ?_)

/-- What `State.optWriteCopy` may change. -/
def optWriteCopyOut : List Key :=
  [.w 20 12, .w 20 64, .w 20 68, .a 65 15269888 268435456, .p .free, .p .edges,
    .p .inbox, .p .flash, .p .blks]

theorem State.optWriteCopy_out {s : State} (c : Nat) (img : List Byte) (ok : Bool) (h₀ : Out L₀ s₀ s)
    (hL : Key.sub optWriteCopyOut L₀ = true) :
    Out L₀ s₀ (State.optWriteCopy s c img ok) := by
  unfold State.optWriteCopy
  repeat'
    first
      | with_reducible assumption | with_reducible apply State.progNow_out | with_reducible apply State.eraseNow_out
      | with_reducible apply State.flashFailed_out | with_reducible apply State.progCut_out | exact Key.hasA rfl
      | exact Key.hasW | exact Out.sub hL rfl | intro _ | with_reducible apply Out.ite | split | dsimp only [id_eq]
      | (rename_i e; with_reducible refine Out.of_eq e ?_)

theorem State.optRepairDo_out {s : State} (h₀ : Out L₀ s₀ s)
    (hL : Key.sub [.w 20 12, .w 20 64, .w 20 68, .a 65 15269888 268435456, .w 66 14811136, .p .free, .p .edges, .p .inbox, .p .flash,
    .p .blks] L₀ = true) :
    Out L₀ s₀ (State.optRepairDo s) := by
  unfold State.optRepairDo
  repeat'
    first
      | with_reducible assumption | with_reducible apply Out.post | with_reducible apply Out.put
      | with_reducible apply State.optWriteCopy_out | exact Key.hasA rfl | exact Key.hasW | exact Out.sub hL rfl
      | intro _ | with_reducible apply Out.ite | split | dsimp only [id_eq]
      | (rename_i e; with_reducible refine Out.of_eq e ?_)

theorem State.optInForce_out {s : State} (c : Nat) (img : List Byte) (h₀ : Out L₀ s₀ s)
    (hL : Key.sub [.w 66 14680064, .w 66 14745600, .p .opt] L₀ = true) :
    Out L₀ s₀ (State.optInForce s c img) := by
  unfold State.optInForce
  repeat'
    first
      | with_reducible assumption | with_reducible apply Out.puts_nil | with_reducible apply Out.puts_cons
      | with_reducible apply Out.put | exact Key.hasA rfl | exact Key.hasW | exact Out.sub hL rfl | intro _
      | with_reducible apply Out.ite | split | dsimp only [id_eq]
      | (rename_i e; with_reducible refine Out.of_eq e ?_) | with_reducible apply Out.setOpt

theorem State.optWrite_out {s : State} (off : Nat) (data : List Byte) (ok1 : Bool) (ok2 : Bool) (h₀ : Out L₀ s₀ s)
    (hL : Key.sub [.w 20 12, .w 20 64, .w 20 68, .a 65 15269888 268435456, .w 66 14680064, .w 66 14745600, .w 66 14811136, .p .win,
    .p .free, .p .edges, .p .inbox, .p .opt, .p .flash, .p .blks] L₀ = true) :
    Out L₀ s₀ (State.optWrite s off data ok1 ok2).1 := by
  unfold State.optWrite
  repeat'
    first
      | with_reducible assumption | with_reducible apply State.optWriteCopy_out | with_reducible apply Out.put
      | with_reducible apply State.optInForce_out | with_reducible apply State.refreshSpn_out | exact Key.hasA rfl
      | exact Key.hasW | exact Out.sub hL rfl | intro _ | with_reducible apply Out.ite | split | dsimp only [id_eq]
      | (rename_i e; with_reducible refine Out.of_eq e ?_)

theorem State.progSel_out {s : State} (code : Nat) (ok : Bool) (h₀ : Out L₀ s₀ s)
    (hL : Key.sub optWriteCopyOut L₀ = true) :
    Out L₀ s₀ (State.progSel s code ok) := by
  unfold State.progSel
  repeat'
    first
      | with_reducible assumption | with_reducible apply State.progNow_out
      | with_reducible apply State.flashFailed_out | with_reducible apply State.progCut_out
      | with_reducible apply State.eraseNow_out | exact Key.hasA rfl | exact Key.hasW | exact Out.sub hL rfl
      | intro _ | with_reducible apply Out.ite | split | dsimp only [id_eq]
      | (rename_i e; with_reducible refine Out.of_eq e ?_)

theorem State.fwBack_out {s : State} (k : Nat) (a : Nat) (data : List Byte) (h₀ : Out L₀ s₀ s)
    (hL : Key.sub [.w 20 8, .w 20 12, .a 20 32 4, .w 20 72, .a 65 15335424 268435456, .p .edges, .p .inbox, .p .blks, .p .fops,
    .p .fwait, .p .fread, .p .fwErased] L₀ = true) :
    Out L₀ s₀ (State.fwBack s k a data) := by
  unfold State.fwBack
  repeat'
    first
      | with_reducible assumption | with_reducible apply State.pump_out | with_reducible apply State.setWait_out
      | exact Key.hasA rfl | exact Key.hasW | exact Out.sub hL rfl | intro _ | with_reducible apply Out.ite | split
      | dsimp only [id_eq] | (rename_i e; with_reducible refine Out.of_eq e ?_)
      | with_reducible apply Out.setFwErased

theorem State.fwTake_out {s : State} (k : Nat) (holder : Nat) (ofs : Nat) (data : List Byte) (ok : Bool) (h₀ : Out L₀ s₀ s)
    (hL : Key.sub [.w 20 8, .w 20 12, .a 20 32 4, .w 20 64, .w 20 68, .w 20 72, .a 65 14024704 268435456, .w 65 14352384,
    .a 65 15335424 268435456, .a 66 14090240 268435456, .w 66 14155776, .w 66 14221312, .p .free, .p .edges,
    .p .inbox, .p .flash, .p .blks, .p .fops, .p .fwait, .p .fread, .p .fwPend, .p .fwErased] L₀ = true) :
    Out L₀ s₀ (State.fwTake s k holder ofs data ok).1 := by
  unfold State.fwTake
  repeat'
    first
      | with_reducible assumption | with_reducible apply Out.puts_append | with_reducible apply Out.puts_nil
      | with_reducible apply Out.puts_cons | with_reducible apply Out.put | with_reducible apply State.progNow_out
      | with_reducible apply State.flashFailed_out | with_reducible apply State.progCut_out
      | with_reducible apply State.fwBack_out | exact Key.hasA rfl | exact Key.hasW | exact Out.sub hL rfl | intro _
      | with_reducible apply Out.ite | split | dsimp only [id_eq]
      | (rename_i e; with_reducible refine Out.of_eq e ?_) | with_reducible apply Out.setFwPend

theorem State.fwOpening_out {s : State} (k : Nat) (len : Nat) (h₀ : Out L₀ s₀ s)
    (hL : Key.sub [.a 65 14024704 268435456, .w 65 14352384, .a 65 15269888 268435456, .w 66 14155776, .w 66 14286848, .p .flash,
    .p .blks, .p .fwait, .p .fwPend, .p .fwErased] L₀ = true) :
    Out L₀ s₀ (State.fwOpening s k len) := by
  unfold State.fwOpening
  repeat'
    first
      | with_reducible assumption | with_reducible apply Out.puts_nil | with_reducible apply Out.puts_cons
      | with_reducible apply Out.put | with_reducible apply State.fwDrop_out | with_reducible apply Out.forAll
      | with_reducible apply State.eraseNow_out | exact Key.hasA rfl | exact Key.hasW | exact Out.sub hL rfl
      | intro _ | with_reducible apply Out.ite | split | dsimp only [id_eq]
      | (rename_i e; with_reducible refine Out.of_eq e ?_) | with_reducible apply Out.setFwPendFwErased

theorem State.fwDownload_out {s : State} (holder : Nat) (ofs : Nat) (data : List Byte) (ok : Bool) (h₀ : Out L₀ s₀ s)
    (hL : Key.sub [.w 20 8, .w 20 12, .a 20 32 4, .w 20 64, .w 20 68, .w 20 72, .a 65 14024704 268435456, .w 65 14352384,
    .a 65 15269888 268435456, .a 65 15335424 268435456, .a 66 14090240 268435456, .w 66 14155776, .w 66 14221312,
    .w 66 14286848, .p .free, .p .edges, .p .inbox, .p .flash, .p .blks, .p .fops, .p .fwait, .p .fread, .p .fwPend,
    .p .fwErased] L₀ = true) :
    Out L₀ s₀ (State.fwDownload s holder ofs data ok).1 := by
  unfold State.fwDownload
  repeat'
    first
      | with_reducible assumption | with_reducible apply State.fwTake_out | with_reducible apply State.fwOpening_out
      | exact Key.hasA rfl | exact Key.hasW | exact Out.sub hL rfl | intro _ | with_reducible apply Out.ite | split
      | dsimp only [id_eq] | (rename_i e; with_reducible refine Out.of_eq e ?_)

theorem State.fwDownHeld_out {s : State} (c : Nat) (holder : Nat) (ofs : Nat) (data : List Byte) (ok : Bool) (h₀ : Out L₀ s₀ s)
    (hL : Key.sub [.w 9 8, .w 10 20, .w 10 24, .w 20 8, .w 20 12, .a 20 32 4, .w 20 64, .w 20 68, .w 20 72, .a 65 14024704 268435456,
    .w 65 14352384, .a 65 15269888 268435456, .a 65 15335424 268435456, .a 66 14090240 268435456, .w 66 14155776,
    .w 66 14221312, .w 66 14286848, .p .free, .p .edges, .p .inbox, .p .flash, .p .blks, .p .fops, .p .fwait,
    .p .fread, .p .fwPend, .p .fwErased, .p .pkt, .p .hbm, .p .poison] L₀ = true) :
    Out L₀ s₀ (State.fwDownHeld s c holder ofs data ok).1 := by
  unfold State.fwDownHeld
  repeat'
    first
      | with_reducible assumption | with_reducible apply State.fwDownload_out | with_reducible apply Out.when
      | with_reducible apply State.fwPages_out | exact Key.hasA rfl | exact Key.hasW | exact Out.sub hL rfl | intro _
      | with_reducible apply Out.ite | split | dsimp only [id_eq]
      | (rename_i e; with_reducible refine Out.of_eq e ?_)

theorem State.fwCommit_out {s : State} (action : Nat) (sel : Bool) (ok : Bool) (h₀ : Out L₀ s₀ s)
    (hL : Key.sub [.w 20 12, .w 20 64, .w 20 68, .w 65 14483456, .a 65 15269888 268435456, .a 66 14090240 268435456, .w 66 14155776,
    .w 66 14417920, .w 66 15138816, .p .free, .p .edges, .p .inbox, .p .flash, .p .blks] L₀ = true) :
    Out L₀ s₀ (State.fwCommit s action sel ok).1 := by
  unfold State.fwCommit
  repeat'
    first
      | with_reducible assumption | with_reducible apply Out.puts_append | with_reducible apply Out.puts_nil
      | with_reducible apply Out.puts_cons | with_reducible apply Out.put | with_reducible apply State.progSel_out
      | with_reducible apply Out.post | with_reducible apply Out.foldl | with_reducible apply Out.foldlFst
      | exact Key.hasA rfl | exact Key.hasW | exact Out.sub hL rfl | intro _ | with_reducible apply Out.ite | split
      | dsimp only [id_eq] | (rename_i e; with_reducible refine Out.of_eq e ?_)

theorem downloadSessionTimeout_out {s : State} (h₀ : Out L₀ s₀ s)
    (hL : Key.sub [.a 65 14024704 268435456, .w 66 14155776] L₀ = true) :
    Out L₀ s₀ (downloadSessionTimeout s) := by
  unfold downloadSessionTimeout
  repeat'
    first
      | with_reducible assumption | with_reducible apply Out.puts_nil | with_reducible apply Out.puts_cons
      | with_reducible apply Out.put | exact Key.hasA rfl | exact Key.hasW | exact Out.sub hL rfl | intro _
      | with_reducible apply Out.ite | split | dsimp only [id_eq]
      | (rename_i e; with_reducible refine Out.of_eq e ?_)

theorem State.confirmTrial_out {s : State} (ok : Bool) (h₀ : Out L₀ s₀ s)
    (hL : Key.sub [.w 20 12, .w 20 64, .w 20 68, .w 22 8, .a 65 15269888 268435456, .w 66 15204352, .p .free, .p .edges, .p .inbox,
    .p .flash, .p .blks] L₀ = true) :
    Out L₀ s₀ (State.confirmTrial s ok) := by
  unfold State.confirmTrial
  repeat'
    first
      | with_reducible assumption | with_reducible apply Out.puts_nil | with_reducible apply Out.puts_cons
      | with_reducible apply Out.put | with_reducible apply State.progSel_out | with_reducible apply Out.forAll
      | exact Key.hasA rfl | exact Key.hasW | exact Out.sub hL rfl | intro _ | with_reducible apply Out.ite | split
      | dsimp only [id_eq] | (rename_i e; with_reducible refine Out.of_eq e ?_)

theorem State.sntEnable_out {s : State} (h₀ : Out L₀ s₀ s)
    (hL : Key.sub [.w 21 0, .w 21 4, .w 21 8, .w 21 14876672, .w 21 14942208] L₀ = true) :
    Out L₀ s₀ (State.sntEnable s).1 := by
  unfold State.sntEnable
  repeat'
    first
      | with_reducible assumption | with_reducible apply State.enable_out | with_reducible apply Out.puts_nil
      | with_reducible apply Out.puts_cons | with_reducible apply Out.put | exact Key.hasA rfl | exact Key.hasW
      | exact Out.sub hL rfl | intro _ | with_reducible apply Out.ite | split | dsimp only [id_eq]
      | (rename_i e; with_reducible refine Out.of_eq e ?_)

theorem sntEnableCmd_out {s : State} (h₀ : Out L₀ s₀ s)
    (hL : Key.sub [.w 21 0, .w 21 4, .w 21 8, .w 21 14876672, .w 21 14942208] L₀ = true) :
    Out L₀ s₀ (sntEnableCmd s) := by
  unfold sntEnableCmd
  repeat'
    first
      | with_reducible assumption | with_reducible apply State.sntEnable_out | exact Key.hasA rfl | exact Key.hasW
      | exact Out.sub hL rfl | intro _ | with_reducible apply Out.ite | split | dsimp only [id_eq]
      | (rename_i e; with_reducible refine Out.of_eq e ?_)

/-- What `State.sntKick` may change. -/
def sntKickOut : List Key :=
  [.w 21 8, .w 21 12, .w 21 72, .w 21 14876672, .w 21 14942208, .p .edges, .p .inbox]

theorem State.sntKick_out {s : State} (v : Nat) (h₀ : Out L₀ s₀ s)
    (hL : Key.sub sntKickOut L₀ = true) :
    Out L₀ s₀ (State.sntKick s v) := by
  unfold State.sntKick
  repeat'
    first
      | with_reducible assumption | with_reducible apply Out.count | with_reducible apply Out.evt
      | with_reducible apply Out.puts_nil | with_reducible apply Out.puts_cons | with_reducible apply Out.put
      | exact Key.hasA rfl | exact Key.hasW | exact Out.sub hL rfl | intro _ | with_reducible apply Out.ite | split
      | dsimp only [id_eq] | (rename_i e; with_reducible refine Out.of_eq e ?_)

theorem sntKickCmd_out (v : BitVec 16) {s : State} (h₀ : Out L₀ s₀ s)
    (hL : Key.sub sntKickOut L₀ = true) :
    Out L₀ s₀ (sntKickCmd v s) := by
  unfold sntKickCmd
  repeat'
    first
      | with_reducible assumption | with_reducible apply State.sntKick_out | exact Key.hasA rfl | exact Key.hasW
      | exact Out.sub hL rfl | intro _ | with_reducible apply Out.ite | split | dsimp only [id_eq]
      | (rename_i e; with_reducible refine Out.of_eq e ?_)

theorem stage1_out (ctx : BitVec 8) {s : State} (h₀ : Out L₀ s₀ s)
    (hL : Key.sub [.w 21 8, .w 21 12, .w 21 64, .w 21 14942208, .p .edges, .p .inbox] L₀ = true) :
    Out L₀ s₀ (stage1 ctx s) := by
  unfold stage1
  repeat'
    first
      | with_reducible assumption | with_reducible apply Out.post | with_reducible apply Out.count
      | with_reducible apply Out.evt | with_reducible apply Out.puts_nil | with_reducible apply Out.puts_cons
      | with_reducible apply Out.put | exact Key.hasA rfl | exact Key.hasW | exact Out.sub hL rfl | intro _
      | with_reducible apply Out.ite | split | dsimp only [id_eq]
      | (rename_i e; with_reducible refine Out.of_eq e ?_)

theorem execFlashRead_out (addr : BitVec 32) (n : BitVec 16) (ran : Nat) {s t : State} (h : execFlashRead addr n ran s = .next t) : Out flashReadOut s t := flashRead_out addr n ran h

theorem execFlashProgram_out (addr : BitVec 32) (data : List Byte) (ran : Nat) {s t : State} (h : execFlashProgram addr data ran s = .next t) : Out reqProgOut s t := flashProgram_out addr data ran h

theorem execFlashErase_out (blk : BitVec 16) {s t : State} (h : execFlashErase blk s = .next t) : Out [.w 20 8, .a 20 32 4, .p .blks, .p .fops, .p .fwait] s t := flashErase_out blk h

theorem execFlashProgramDone_out (b : Fin 4) (ok : Bool) {s t : State} (h : execFlashProgramDone b ok s = .next t) :
    Out flashProgramDoneOut s t := by
  have h := Host.Outcome.next.inj h; subst h; exact flashProgramDone_out _ _ (Out.refl s) rfl

theorem execFlashEraseDone_out (b : Fin 4) (ok : Bool) {s t : State} (h : execFlashEraseDone b ok s = .next t) :
    Out flashEraseDoneOut s t := by
  have h := Host.Outcome.next.inj h; subst h; exact flashEraseDone_out _ _ (Out.refl s) rfl

theorem execFlashSuspendDue_out (b : Fin 4) {s t : State} (h : execFlashSuspendDue b s = .next t) :
    Out flashSuspendDueOut s t := by
  have h := Host.Outcome.next.inj h; subst h; exact flashSuspendDue_out _ (Out.refl s) rfl

theorem execWdbHold_out (m : BitVec 4) {s t : State} (h : execWdbHold m s = .next t) :
    Out setHoldOut s t := by
  have h := Host.Outcome.next.inj h; subst h; exact wdbHold_out _ (Out.refl s) rfl

theorem execDownloadSessionTimeout_out {s t : State} (h : execDownloadSessionTimeout s = .next t) :
    Out [.a 65 14024704 268435456, .w 66 14155776] s t := by
  have h := Host.Outcome.next.inj h; subst h; exact downloadSessionTimeout_out  (Out.refl s) rfl

theorem execSntEnable_out {s t : State} (h : execSntEnable s = .next t) :
    Out [.w 21 0, .w 21 4, .w 21 8, .w 21 14876672, .w 21 14942208] s t := by
  have h := Host.Outcome.next.inj h; subst h; exact sntEnableCmd_out  (Out.refl s) rfl

theorem execSntKick_out (v : BitVec 16) {s t : State} (h : execSntKick v s = .next t) :
    Out sntKickOut s t := by
  have h := Host.Outcome.next.inj h; subst h; exact sntKickCmd_out _ (Out.refl s) rfl

theorem execStage1_out (ctx : BitVec 8) {s t : State} (h : execStage1 ctx s = .next t) :
    Out [.w 21 8, .w 21 12, .w 21 64, .w 21 14942208, .p .edges, .p .inbox] s t := by
  have h := Host.Outcome.next.inj h; subst h; exact stage1_out _ (Out.refl s) rfl

end Sys2Proof.Machine
end

