-- ==== Sys2Proof/Laws/OutBudget.lean ====
section
/-!
SUPPORT. What each operation and each command of `Machine/Budget.lean` can change.
-/

namespace Sys2Proof.Machine

set_option Elab.async false
set_option linter.unusedVariables false

set_option maxRecDepth 8000
set_option linter.unusedTactic false
set_option linter.unreachableTactic false

variable {L₀ : List Key} {s₀ : State}

theorem State.checkMiss_out {s : State} (h₀ : Out L₀ s₀ s)
    (hL : Key.sub [.w 22 8, .w 22 12, .p .edges, .p .inbox] L₀ = true) :
    Out L₀ s₀ (State.checkMiss s) := by
  unfold State.checkMiss
  repeat'
    first
      | with_reducible assumption | with_reducible apply Out.putB | with_reducible apply Out.post
      | with_reducible apply Out.evt | exact Key.hasA rfl | exact Key.hasW | exact Out.sub hL rfl | intro _
      | with_reducible apply Out.ite | split | dsimp only [id_eq]
      | (rename_i e; with_reducible refine Out.of_eq e ?_)

theorem State.present_out {s : State} (v : Nat) (h₀ : Out L₀ s₀ s)
    (hL : Key.sub [.a 2 32 4, .w 12 8, .w 13 8, .w 13 12, .w 13 76, .w 13 1572864, .w 13 2359296, .w 13 2424832, .w 13 20250624,
    .w 14 8, .w 14 12, .w 14 24, .w 14 84, .w 14 3211264, .w 14 3342336, .w 14 3407872, .w 14 3473408,
    .w 14 3538944, .w 14 4128768, .w 14 4194304, .w 14 4259840, .w 14 4325376, .w 14 4784128, .w 14 21692416,
    .w 14 21757952, .w 14 22675456, .w 14 22806528, .w 16 8, .w 16 12, .w 16 6094848, .w 16 8519680, .w 16 8585216,
    .w 16 8912896, .w 16 8978432, .w 16 9240576, .w 16 9306112, .w 16 9502720, .w 16 9568256, .w 16 9895936,
    .w 16 9961472, .w 16 10223616, .w 16 10551296, .w 16 10944512, .w 16 23068672, .w 16 23789568, .w 16 23855104,
    .w 16 24051712, .w 16 24444928, .w 17 13762560, .w 17 24510464, .w 18 8, .w 18 12, .w 18 72, .w 18 786432,
    .w 18 20578304, .w 19 12, .w 19 16, .w 19 1114112, .w 19 1179648, .a 19 1310720 268435456,
    .a 19 1376256 268435456, .a 19 22413312 268435456, .a 19 22478848 268435456, .w 22 28, .p .win, .p .edges,
    .p .inbox, .p .chn, .p .seqs, .p .pa, .p .jq, .p .jact] L₀ = true) :
    Out L₀ s₀ (State.present s v) := by
  unfold State.present
  repeat'
    first
      | with_reducible assumption | with_reducible apply State.evalSp_out | with_reducible apply Out.put
      | exact Key.hasA rfl | exact Key.hasW | exact Out.sub hL rfl | intro _ | with_reducible apply Out.ite | split
      | dsimp only [id_eq] | (rename_i e; with_reducible refine Out.of_eq e ?_)

/-- What `State.leavePs` may change. -/
def leavePsOut : List Key :=
  [.w 11 12, .w 11 84, .w 22 8, .w 22 12, .w 64 6881280, .w 64 16711680, .p .edges,
    .p .inbox, .p .mops]

theorem State.leavePs_out {s : State} (h₀ : Out L₀ s₀ s)
    (hL : Key.sub leavePsOut L₀ = true) :
    Out L₀ s₀ (State.leavePs s) := by
  unfold State.leavePs
  repeat'
    first
      | with_reducible assumption | with_reducible apply Out.puts_nil | with_reducible apply Out.puts_cons
      | with_reducible apply Out.put | with_reducible apply State.unpause_out | with_reducible apply State.setPs_out
      | exact Key.hasA rfl | exact Key.hasW | exact Out.sub hL rfl | intro _ | with_reducible apply Out.ite | split
      | dsimp only [id_eq] | (rename_i e; with_reducible refine Out.of_eq e ?_)

theorem State.follow_out {s : State} (h₀ : Out L₀ s₀ s)
    (hL : Key.sub leavePsOut L₀ = true) :
    Out L₀ s₀ (State.follow s) := by
  unfold State.follow
  repeat'
    first
      | with_reducible assumption | with_reducible apply State.checkMiss_out | with_reducible apply State.leavePs_out
      | with_reducible apply Out.puts_nil | with_reducible apply Out.puts_cons | with_reducible apply Out.put
      | exact Key.hasA rfl | exact Key.hasW | exact Out.sub hL rfl | intro _ | with_reducible apply Out.ite | split
      | dsimp only [id_eq] | (rename_i e; with_reducible refine Out.of_eq e ?_)

theorem State.budgetChanged_out {s : State} (h₀ : Out L₀ s₀ s)
    (hL : Key.sub [.a 2 32 4, .w 11 12, .w 11 84, .w 12 8, .w 13 8, .w 13 12, .w 13 76, .w 13 1572864, .w 13 2359296, .w 13 2424832,
    .w 13 20250624, .w 14 8, .w 14 12, .w 14 24, .w 14 84, .w 14 3211264, .w 14 3342336, .w 14 3407872,
    .w 14 3473408, .w 14 3538944, .w 14 4128768, .w 14 4194304, .w 14 4259840, .w 14 4325376, .w 14 4784128,
    .w 14 21692416, .w 14 21757952, .w 14 22675456, .w 14 22806528, .w 16 8, .w 16 12, .w 16 6094848, .w 16 8519680,
    .w 16 8585216, .w 16 8912896, .w 16 8978432, .w 16 9240576, .w 16 9306112, .w 16 9502720, .w 16 9568256,
    .w 16 9895936, .w 16 9961472, .w 16 10223616, .w 16 10551296, .w 16 10944512, .w 16 23068672, .w 16 23789568,
    .w 16 23855104, .w 16 24051712, .w 16 24444928, .w 17 13762560, .w 17 24510464, .w 18 8, .w 18 12, .w 18 72,
    .w 18 786432, .w 18 20578304, .w 19 12, .w 19 16, .w 19 1114112, .w 19 1179648, .a 19 1310720 268435456,
    .a 19 1376256 268435456, .a 19 22413312 268435456, .a 19 22478848 268435456, .w 22 8, .w 22 12, .w 22 24,
    .w 22 28, .w 64 6881280, .w 64 16711680, .p .win, .p .edges, .p .inbox, .p .chn, .p .seqs, .p .pa, .p .jq,
    .p .jact, .p .mops] L₀ = true) :
    Out L₀ s₀ (State.budgetChanged s) := by
  unfold State.budgetChanged
  repeat'
    first
      | with_reducible assumption | with_reducible apply State.checkMiss_out | with_reducible apply Out.edge
      | with_reducible apply Out.evt | with_reducible apply Out.put | with_reducible apply State.follow_out
      | with_reducible apply State.present_out | exact Key.hasA rfl | exact Key.hasW | exact Out.sub hL rfl | intro _
      | with_reducible apply Out.ite | split | dsimp only [id_eq]
      | (rename_i e; with_reducible refine Out.of_eq e ?_)

theorem State.setBudget_out {s : State} (scope : Nat) (v : Nat) (h₀ : Out L₀ s₀ s)
    (hL : Key.sub [.a 2 32 4, .w 11 12, .w 11 84, .w 12 8, .w 13 8, .w 13 12, .w 13 76, .w 13 1572864, .w 13 2359296, .w 13 2424832,
    .w 13 20250624, .w 14 8, .w 14 12, .w 14 24, .w 14 84, .w 14 3211264, .w 14 3342336, .w 14 3407872,
    .w 14 3473408, .w 14 3538944, .w 14 4128768, .w 14 4194304, .w 14 4259840, .w 14 4325376, .w 14 4784128,
    .w 14 21692416, .w 14 21757952, .w 14 22675456, .w 14 22806528, .w 16 8, .w 16 12, .w 16 6094848, .w 16 8519680,
    .w 16 8585216, .w 16 8912896, .w 16 8978432, .w 16 9240576, .w 16 9306112, .w 16 9502720, .w 16 9568256,
    .w 16 9895936, .w 16 9961472, .w 16 10223616, .w 16 10551296, .w 16 10944512, .w 16 23068672, .w 16 23789568,
    .w 16 23855104, .w 16 24051712, .w 16 24444928, .w 17 13762560, .w 17 24510464, .w 18 8, .w 18 12, .w 18 72,
    .w 18 786432, .w 18 20578304, .w 19 12, .w 19 16, .w 19 1114112, .w 19 1179648, .a 19 1310720 268435456,
    .a 19 1376256 268435456, .a 19 22413312 268435456, .a 19 22478848 268435456, .w 22 8, .w 22 12, .w 22 20,
    .w 22 24, .w 22 28, .w 64 6881280, .w 64 16711680, .p .win, .p .edges, .p .inbox, .p .chn, .p .seqs, .p .pa,
    .p .jq, .p .jact, .p .nss, .p .mops] L₀ = true) :
    Out L₀ s₀ (State.setBudget s scope v).1 := by
  unfold State.setBudget
  repeat'
    first
      | with_reducible assumption | with_reducible apply State.budgetChanged_out | with_reducible apply Out.put
      | with_reducible apply State.setNs_out | exact Key.hasA rfl | exact Key.hasW | exact Out.sub hL rfl | intro _
      | with_reducible apply Out.ite | split | dsimp only [id_eq]
      | (rename_i e; with_reducible refine Out.of_eq e ?_)

/-- What `State.arrive` may change. -/
def arriveOut : List Key :=
  [.a 2 32 4, .w 11 12, .w 11 84, .w 12 8, .w 13 8, .w 13 12, .w 13 76, .w 13 1572864,
    .w 13 2359296, .w 13 2424832, .w 13 20250624, .w 14 8, .w 14 12, .w 14 24, .w 14 84, .w 14 3211264,
    .w 14 3342336, .w 14 3407872, .w 14 3473408, .w 14 3538944, .w 14 4128768, .w 14 4194304, .w 14 4259840,
    .w 14 4325376, .w 14 4784128, .w 14 21692416, .w 14 21757952, .w 14 22675456, .w 14 22806528, .w 16 8, .w 16 12,
    .w 16 6094848, .w 16 8519680, .w 16 8585216, .w 16 8912896, .w 16 8978432, .w 16 9240576, .w 16 9306112,
    .w 16 9502720, .w 16 9568256, .w 16 9895936, .w 16 9961472, .w 16 10223616, .w 16 10551296, .w 16 10944512,
    .w 16 23068672, .w 16 23789568, .w 16 23855104, .w 16 24051712, .w 16 24444928, .w 17 13762560, .w 17 24510464,
    .w 18 8, .w 18 12, .w 18 72, .w 18 786432, .w 18 20578304, .w 19 12, .w 19 16, .w 19 1114112, .w 19 1179648,
    .a 19 1310720 268435456, .a 19 1376256 268435456, .a 19 22413312 268435456, .a 19 22478848 268435456, .w 22 8,
    .w 22 12, .w 22 28, .w 64 6881280, .w 64 16711680, .p .win, .p .edges, .p .inbox, .p .chn, .p .seqs, .p .pa,
    .p .jq, .p .jact, .p .mops]

theorem State.arrive_out {s : State} (h₀ : Out L₀ s₀ s)
    (hL : Key.sub arriveOut L₀ = true) :
    Out L₀ s₀ (State.arrive s) := by
  unfold State.arrive
  repeat'
    first
      | with_reducible assumption | with_reducible apply State.leavePs_out | with_reducible apply Out.put
      | with_reducible apply State.checkMiss_out | with_reducible apply State.present_out | exact Key.hasA rfl
      | exact Key.hasW | exact Out.sub hL rfl | intro _ | with_reducible apply Out.ite | split | dsimp only [id_eq]
      | (rename_i e; with_reducible refine Out.of_eq e ?_)

end Sys2Proof.Machine
end

