-- ==== Sys2Proof/Laws/OutIntake.lean ====
section
/-!
SUPPORT. What each operation and each command of `Machine/Intake.lean` can change.
-/

namespace Sys2Proof.Machine

set_option Elab.async false
set_option linter.unusedVariables false

set_option maxRecDepth 8000
set_option linter.unusedTactic false
set_option linter.unreachableTactic false

variable {L₀ : List Key} {s₀ : State}

theorem State.appendMove_out {s : State} (nsid : Nat) (lba : Nat) (n : Nat) (h₀ : Out L₀ s₀ s)
    (hL : Key.sub [.p .zones] L₀ = true) :
    Out L₀ s₀ (State.appendMove s nsid lba n) := by
  unfold State.appendMove
  repeat'
    first
      | with_reducible assumption | with_reducible apply State.setZone_out | exact Key.hasA rfl | exact Key.hasW
      | exact Out.sub hL rfl | intro _ | with_reducible apply Out.ite | split | dsimp only [id_eq]
      | (rename_i e; with_reducible refine Out.of_eq e ?_)

theorem State.showPause_out {s : State} (why : Nat) (h₀ : Out L₀ s₀ s)
    (hL : Key.sub [.w 2 8, .w 2 12, .w 2 68, .w 2 5439488, .w 2 5505024, .p .edges, .p .inbox] L₀ = true) :
    Out L₀ s₀ (State.showPause s why) := by
  unfold State.showPause
  repeat'
    first
      | with_reducible assumption | with_reducible apply Out.puts_nil | with_reducible apply Out.puts_cons
      | with_reducible apply Out.put | with_reducible apply Out.when | with_reducible apply Out.count
      | with_reducible apply Out.evt | with_reducible apply Out.post | exact Key.hasA rfl | exact Key.hasW
      | exact Out.sub hL rfl | intro _ | with_reducible apply Out.ite | split | dsimp only [id_eq]
      | (rename_i e; with_reducible refine Out.of_eq e ?_)

/-- What `State.tryTake` may change. -/
def tryTakeOut : List Key :=
  [.w 2 8, .w 2 12, .w 2 20, .w 2 24, .a 2 32 4, .w 2 64, .w 2 68, .w 2 5439488,
    .w 2 5505024, .w 11 12, .w 11 84, .w 12 8, .w 13 8, .w 13 12, .w 13 76, .w 13 1572864, .w 13 2359296,
    .w 13 2424832, .w 13 20250624, .w 14 8, .w 14 12, .w 14 24, .w 14 84, .w 14 3211264, .w 14 3342336,
    .w 14 3407872, .w 14 3473408, .w 14 3538944, .w 14 4128768, .w 14 4194304, .w 14 4259840, .w 14 4325376,
    .w 14 4784128, .w 14 21692416, .w 14 21757952, .w 14 22675456, .w 14 22806528, .w 16 8, .w 16 12, .w 16 6094848,
    .w 16 8519680, .w 16 8585216, .w 16 8912896, .w 16 8978432, .w 16 9240576, .w 16 9306112, .w 16 9502720,
    .w 16 9568256, .w 16 9895936, .w 16 9961472, .w 16 10223616, .w 16 10551296, .w 16 10944512, .w 16 23068672,
    .w 16 23789568, .w 16 23855104, .w 16 24051712, .w 16 24444928, .w 17 13762560, .w 17 24510464, .w 18 8,
    .w 18 12, .w 18 72, .w 18 786432, .w 18 20578304, .w 19 12, .w 19 16, .w 19 1114112, .w 19 1179648,
    .a 19 1310720 268435456, .a 19 1376256 268435456, .a 19 22413312 268435456, .a 19 22478848 268435456, .w 22 8,
    .w 22 12, .w 22 28, .w 64 6881280, .w 64 16711680, .p .win, .p .edges, .p .inbox, .p .chn, .p .seqs, .p .pa,
    .p .jq, .p .jact, .p .cmds, .p .cmdNo, .p .zones, .p .mops]

theorem State.tryTake_out {s : State} (w : Waiting) (full : Bool) (h₀ : Out L₀ s₀ s)
    (hL : Key.sub tryTakeOut L₀ = true) :
    Out L₀ s₀ (State.tryTake s w full).1 := by
  unfold State.tryTake
  repeat'
    first
      | with_reducible assumption | with_reducible apply State.arrive_out | with_reducible apply State.showPause_out
      | with_reducible apply State.enlist_out | with_reducible apply Out.when
      | with_reducible apply State.appendMove_out | exact Key.hasA rfl | exact Key.hasW | exact Out.sub hL rfl
      | intro _ | with_reducible apply Out.ite | split | dsimp only [id_eq]
      | (rename_i e; with_reducible refine Out.of_eq e ?_)

theorem State.beginCmd_out {s : State} (id : CmdId) (f : Cmd → State → State) (h₀ : Out L₀ s₀ s) (hF_f : ∀ x0 u, Out L₀ s₀ u → Out L₀ s₀ (f x0 u))
    (hL : Key.sub [.p .cmds] L₀ = true) :
    Out L₀ s₀ (State.beginCmd s id f) := by
  unfold State.beginCmd
  repeat'
    first
      | with_reducible assumption | with_reducible apply State.updCmd_out | with_reducible apply hF_f
      | exact Key.hasA rfl | exact Key.hasW | exact Out.sub hL rfl | intro _ | with_reducible apply Out.ite | split
      | dsimp only [id_eq] | (rename_i e; with_reducible refine Out.of_eq e ?_)

theorem State.taking_out {s : State} (w : Waiting) (f : Cmd → State → State) (h₀ : Out L₀ s₀ s) (hF_f : ∀ x0 u, Out L₀ s₀ u → Out L₀ s₀ (f x0 u))
    (hL : Key.sub tryTakeOut L₀ = true) :
    Out L₀ s₀ (State.taking s w f) := by
  unfold State.taking
  repeat'
    first
      | with_reducible assumption | with_reducible apply State.beginCmd_out | with_reducible apply State.tryTake_out
      | with_reducible apply hF_f | exact Key.hasA rfl | exact Key.hasW | exact Out.sub hL rfl | intro _
      | with_reducible apply Out.ite | split | dsimp only [id_eq]
      | (rename_i e; with_reducible refine Out.of_eq e ?_)

theorem State.admin_out {s : State} (id : CmdId) (f : Cmd → State → State) (h₀ : Out L₀ s₀ s) (hF_f : ∀ x0 u, Out L₀ s₀ u → Out L₀ s₀ (f x0 u))
    (hL : Key.sub tryTakeOut L₀ = true) :
    Out L₀ s₀ (State.admin s id f) := by
  unfold State.admin
  repeat'
    first
      | with_reducible assumption | with_reducible apply State.taking_out | with_reducible apply hF_f
      | exact Key.hasA rfl | exact Key.hasW | exact Out.sub hL rfl | intro _ | with_reducible apply Out.ite | split
      | dsimp only [id_eq] | (rename_i e; with_reducible refine Out.of_eq e ?_)

end Sys2Proof.Machine
end

