-- ==== Sys2Proof/Laws/OutCalliope.lean ====
section
/-!
SUPPORT. What each operation and each command of `Machine/Calliope.lean` can change.
-/

namespace Sys2Proof.Machine

set_option Elab.async false
set_option linter.unusedVariables false

set_option maxRecDepth 8000
set_option linter.unusedTactic false
set_option linter.unreachableTactic false

variable {L₀ : List Key} {s₀ : State}

theorem CLP_PEND_LO_PEND_has (i : Nat) : (Key.a 4 16384 32).has (R.CLP_PEND_LO_PEND i) := ⟨rfl, i, rfl⟩

theorem CLP_PEND_HI_PEND_has (i : Nat) : (Key.a 4 16388 32).has (R.CLP_PEND_HI_PEND i) := ⟨rfl, i, rfl⟩

theorem CLP_ACT_LO_ACT_has (i : Nat) : (Key.a 4 16392 32).has (R.CLP_ACT_LO_ACT i) := ⟨rfl, i, rfl⟩

theorem CLP_ACT_HI_ACT_has (i : Nat) : (Key.a 4 16396 32).has (R.CLP_ACT_HI_ACT i) := ⟨rfl, i, rfl⟩

theorem clpAgLo_has (i : Nat) : (Key.a 4 16384000 268435456).has (V.clpAgLo i) := ⟨rfl, i, rfl⟩

theorem clpAgHi_has (i : Nat) : (Key.a 4 16449536 268435456).has (V.clpAgHi i) := ⟨rfl, i, rfl⟩

theorem State.setBankBit_out {s : State} (lo : Nat → Fld) (hi : Nat → Fld) (n : Nat) (b : Nat) (v : Bool) (h₀ : Out L₀ s₀ s) {n_lo : Key} (hk_lo : ∀ i, n_lo.has (lo i)) (hL_lo : Key.sub [n_lo] L₀ = true) {n_hi : Key} (hk_hi : ∀ i, n_hi.has (hi i)) (hL_hi : Key.sub [n_hi] L₀ = true) :
    Out L₀ s₀ (State.setBankBit s lo hi n b v) := by
  unfold State.setBankBit
  repeat'
    first
      | with_reducible assumption | with_reducible apply State.setBit_out | with_reducible exact hk_lo _
      | with_reducible exact hL_lo | with_reducible exact hk_hi _ | with_reducible exact hL_hi | intro _
      | with_reducible apply Out.ite | split | dsimp only [id_eq]

/-- What `State.setBankSt` may change. -/
def setBankStOut : List Key :=
  [.a 4 16384 32, .a 4 16388 32, .a 4 16392 32, .a 4 16396 32,
    .a 4 16384000 268435456, .a 4 16449536 268435456, .w 26 8, .w 26 32, .w 26 36]

theorem State.setBankSt_out {s : State} (n : Nat) (b : Nat) (st : Nat) (h₀ : Out L₀ s₀ s)
    (hL : Key.sub setBankStOut L₀ = true) :
    Out L₀ s₀ (State.setBankSt s n b st) := by
  unfold State.setBankSt
  repeat'
    first
      | with_reducible assumption | with_reducible apply State.setBankBit_out | with_reducible apply Out.when
      | with_reducible apply Out.puts_nil | with_reducible apply Out.puts_cons | with_reducible apply Out.put
      | exact CLP_ACT_HI_ACT_has | exact CLP_ACT_LO_ACT_has | exact CLP_PEND_HI_PEND_has | exact CLP_PEND_LO_PEND_has
      | exact clpAgHi_has | exact clpAgLo_has | exact Key.hasA rfl | exact Key.hasW | exact Out.sub hL rfl | intro _
      | with_reducible apply Out.ite | split | dsimp only [id_eq]
      | (rename_i e; with_reducible refine Out.of_eq e ?_)

/-- What `State.endHeld` may change. -/
def endHeldOut : List Key :=
  [.w 2 20, .w 2 24, .a 2 32 4, .w 2 5439488, .w 2 5505024, .w 6 8, .w 6 12, .w 7 12,
    .w 7 24, .w 7 28, .w 7 17956864, .w 9 8, .w 10 20, .w 10 24, .a 11 32 4, .a 11 48 4, .a 65 22347776 268435456,
    .p .free, .p .edges, .p .inbox, .p .mcache, .p .jq, .p .jobNo, .p .cmds, .p .cqs, .p .nss, .p .bands, .p .vol,
    .p .points, .p .errlog, .p .held, .p .pkt, .p .hbm, .p .poison, .p .lost, .p .kvLog, .p .stripes]

theorem State.endHeld_out {s : State} (c : Nat) (dw0 : Nat) (h₀ : Out L₀ s₀ s)
    (hL : Key.sub endHeldOut L₀ = true) :
    Out L₀ s₀ (State.endHeld s c dw0) := by
  unfold State.endHeld
  repeat'
    first
      | with_reducible assumption | with_reducible apply State.complete_out | exact Key.hasA rfl | exact Key.hasW
      | exact Out.sub hL rfl | intro _ | with_reducible apply Out.ite | split | dsimp only [id_eq]
      | (rename_i e; with_reducible refine Out.of_eq e ?_) | with_reducible apply Out.setHeld

theorem State.wakeHeld_out {s : State} (n : Nat) (h₀ : Out L₀ s₀ s)
    (hL : Key.sub endHeldOut L₀ = true) :
    Out L₀ s₀ (State.wakeHeld s n) := by
  unfold State.wakeHeld
  repeat'
    first
      | with_reducible assumption | with_reducible apply State.endHeld_out | exact Key.hasA rfl | exact Key.hasW
      | exact Out.sub hL rfl | intro _ | with_reducible apply Out.ite | split | dsimp only [id_eq]
      | (rename_i e; with_reducible refine Out.of_eq e ?_)

theorem State.toPending_out {s : State} (n : Nat) (b : Nat) (h₀ : Out L₀ s₀ s)
    (hL : Key.sub [.w 2 20, .w 2 24, .a 2 32 4, .w 2 5439488, .w 2 5505024, .a 4 16384 32, .a 4 16388 32, .a 4 16392 32,
    .a 4 16396 32, .a 4 16384000 268435456, .a 4 16449536 268435456, .w 6 8, .w 6 12, .w 7 12, .w 7 24, .w 7 28,
    .w 7 17956864, .w 9 8, .w 10 20, .w 10 24, .a 11 32 4, .a 11 48 4, .w 26 8, .w 26 32, .w 26 36,
    .a 65 22347776 268435456, .p .free, .p .edges, .p .inbox, .p .mcache, .p .jq, .p .jobNo, .p .cmds, .p .cqs,
    .p .nss, .p .bands, .p .vol, .p .points, .p .errlog, .p .held, .p .pkt, .p .hbm, .p .poison, .p .lost,
    .p .kvLog, .p .stripes] L₀ = true) :
    Out L₀ s₀ (State.toPending s n b) := by
  unfold State.toPending
  repeat'
    first
      | with_reducible assumption | with_reducible apply State.wakeHeld_out
      | with_reducible apply State.setBankSt_out | exact Key.hasA rfl | exact Key.hasW | exact Out.sub hL rfl
      | intro _ | with_reducible apply Out.ite | split | dsimp only [id_eq]
      | (rename_i e; with_reducible refine Out.of_eq e ?_)

/-- What `State.fire` may change. -/
def fireOut : List Key :=
  [.w 2 20, .w 2 24, .a 2 32 4, .w 2 5439488, .w 2 5505024, .w 4 12, .w 4 64, .a 4 4096 4,
    .a 4 16384 32, .a 4 16388 32, .a 4 16392 32, .a 4 16396 32, .a 4 16384000 268435456, .a 4 16449536 268435456,
    .w 6 8, .w 6 12, .w 7 12, .w 7 24, .w 7 28, .w 7 17956864, .w 9 8, .w 10 20, .w 10 24, .a 11 32 4, .a 11 48 4,
    .w 26 8, .w 26 32, .w 26 36, .a 65 22347776 268435456, .p .free, .p .edges, .p .inbox, .p .mcache, .p .jq,
    .p .jobNo, .p .cmds, .p .cqs, .p .nss, .p .bands, .p .vol, .p .points, .p .errlog, .p .held, .p .pkt, .p .hbm,
    .p .poison, .p .lost, .p .kvLog, .p .stripes]

theorem State.fire_out {s : State} (n : Nat) (b : Nat) (src : Option Nat) (h₀ : Out L₀ s₀ s)
    (hL : Key.sub fireOut L₀ = true) :
    Out L₀ s₀ (State.fire s n b src) := by
  unfold State.fire
  repeat'
    first
      | with_reducible assumption | with_reducible apply Out.count | with_reducible apply Out.put
      | with_reducible apply State.toPending_out | with_reducible apply State.setBankSt_out | exact Key.hasA rfl
      | exact Key.hasW | exact Out.sub hL rfl | intro _ | with_reducible apply Out.ite | split | dsimp only [id_eq]
      | (rename_i e; with_reducible refine Out.of_eq e ?_)

theorem State.claimBit_out {s : State} (n : Nat) (b : Nat) (h₀ : Out L₀ s₀ s)
    (hL : Key.sub setBankStOut L₀ = true) :
    Out L₀ s₀ (State.claimBit s n b) := by
  unfold State.claimBit
  repeat'
    first
      | with_reducible assumption | with_reducible apply State.setBankSt_out | exact Key.hasA rfl | exact Key.hasW
      | exact Out.sub hL rfl | intro _ | with_reducible apply Out.ite | split | dsimp only [id_eq]
      | (rename_i e; with_reducible refine Out.of_eq e ?_)

/-- What `State.doneBit` may change. -/
def doneBitOut : List Key :=
  [.w 2 20, .w 2 24, .a 2 32 4, .w 2 5439488, .w 2 5505024, .w 4 12, .w 4 68,
    .a 4 16384 32, .a 4 16388 32, .a 4 16392 32, .a 4 16396 32, .a 4 16384000 268435456, .a 4 16449536 268435456,
    .w 6 8, .w 6 12, .w 7 12, .w 7 24, .w 7 28, .w 7 17956864, .w 9 8, .w 10 20, .w 10 24, .a 11 32 4, .a 11 48 4,
    .w 26 8, .w 26 32, .w 26 36, .a 65 22347776 268435456, .p .free, .p .edges, .p .inbox, .p .mcache, .p .jq,
    .p .jobNo, .p .cmds, .p .cqs, .p .nss, .p .bands, .p .vol, .p .points, .p .errlog, .p .held, .p .pkt, .p .hbm,
    .p .poison, .p .lost, .p .kvLog, .p .stripes]

theorem State.doneBit_out {s : State} (n : Nat) (b : Nat) (h₀ : Out L₀ s₀ s)
    (hL : Key.sub doneBitOut L₀ = true) :
    Out L₀ s₀ (State.doneBit s n b) := by
  unfold State.doneBit
  repeat'
    first
      | with_reducible assumption | with_reducible apply Out.count | with_reducible apply State.toPending_out
      | with_reducible apply State.setBankSt_out | exact Key.hasA rfl | exact Key.hasW | exact Out.sub hL rfl
      | intro _ | with_reducible apply Out.ite | split | dsimp only [id_eq]
      | (rename_i e; with_reducible refine Out.of_eq e ?_)

theorem State.claimMask_out {s : State} (n : Nat) (from_ : Nat) (mask : Nat) (h₀ : Out L₀ s₀ s)
    (hL : Key.sub setBankStOut L₀ = true) :
    Out L₀ s₀ (State.claimMask s n from_ mask) := by
  unfold State.claimMask
  repeat'
    first
      | with_reducible assumption | with_reducible apply Out.forAll | with_reducible apply State.claimBit_out
      | exact Key.hasA rfl | exact Key.hasW | exact Out.sub hL rfl | intro _ | with_reducible apply Out.ite | split
      | dsimp only [id_eq] | (rename_i e; with_reducible refine Out.of_eq e ?_)

theorem State.doneMask_out {s : State} (n : Nat) (from_ : Nat) (mask : Nat) (h₀ : Out L₀ s₀ s)
    (hL : Key.sub doneBitOut L₀ = true) :
    Out L₀ s₀ (State.doneMask s n from_ mask) := by
  unfold State.doneMask
  repeat'
    first
      | with_reducible assumption | with_reducible apply Out.forAll | with_reducible apply State.doneBit_out
      | exact Key.hasA rfl | exact Key.hasW | exact Out.sub hL rfl | intro _ | with_reducible apply Out.ite | split
      | dsimp only [id_eq] | (rename_i e; with_reducible refine Out.of_eq e ?_)

theorem State.clpClaim_out {s : State} (sender : Nat) (bank : Nat) (hi : Bool) (v : Nat) (h₀ : Out L₀ s₀ s)
    (hL : Key.sub setBankStOut L₀ = true) :
    Out L₀ s₀ (State.clpClaim s sender bank hi v).1 := by
  unfold State.clpClaim
  repeat'
    first
      | with_reducible assumption | with_reducible apply State.claimMask_out | exact Key.hasA rfl | exact Key.hasW
      | exact Out.sub hL rfl | intro _ | with_reducible apply Out.ite | split | dsimp only [id_eq]
      | (rename_i e; with_reducible refine Out.of_eq e ?_)

theorem State.clpDone_out {s : State} (sender : Nat) (bank : Nat) (hi : Bool) (v : Nat) (h₀ : Out L₀ s₀ s)
    (hL : Key.sub doneBitOut L₀ = true) :
    Out L₀ s₀ (State.clpDone s sender bank hi v).1 := by
  unfold State.clpDone
  repeat'
    first
      | with_reducible assumption | with_reducible apply State.doneMask_out | exact Key.hasA rfl | exact Key.hasW
      | exact Out.sub hL rfl | intro _ | with_reducible apply Out.ite | split | dsimp only [id_eq]
      | (rename_i e; with_reducible refine Out.of_eq e ?_)

theorem clpClaimWriteCmd_out (sender : Fin 64) (bank : Fin 64) (hi : Bool) (v : BitVec 32) {s : State} (h₀ : Out L₀ s₀ s)
    (hL : Key.sub setBankStOut L₀ = true) :
    Out L₀ s₀ (clpClaimWriteCmd sender bank hi v s) := by
  unfold clpClaimWriteCmd
  repeat'
    first
      | with_reducible assumption | with_reducible apply State.clpClaim_out | exact Key.hasA rfl | exact Key.hasW
      | exact Out.sub hL rfl | intro _ | with_reducible apply Out.ite | split | dsimp only [id_eq]
      | (rename_i e; with_reducible refine Out.of_eq e ?_)

theorem clpDoneWriteCmd_out (sender : Fin 64) (bank : Fin 64) (hi : Bool) (v : BitVec 32) {s : State} (h₀ : Out L₀ s₀ s)
    (hL : Key.sub doneBitOut L₀ = true) :
    Out L₀ s₀ (clpDoneWriteCmd sender bank hi v s) := by
  unfold clpDoneWriteCmd
  repeat'
    first
      | with_reducible assumption | with_reducible apply State.clpDone_out | exact Key.hasA rfl | exact Key.hasW
      | exact Out.sub hL rfl | intro _ | with_reducible apply Out.ite | split | dsimp only [id_eq]
      | (rename_i e; with_reducible refine Out.of_eq e ?_)

theorem sourceEdge_out {s : State} (h₀ : Out L₀ s₀ s)
    (hL : Key.sub fireOut L₀ = true) :
    Out L₀ s₀ (sourceEdge s) := by
  unfold sourceEdge
  repeat'
    first
      | with_reducible assumption | with_reducible apply State.fire_out | exact Key.hasA rfl | exact Key.hasW
      | exact Out.sub hL rfl | intro _ | with_reducible apply Out.ite | split | dsimp only [id_eq]
      | (rename_i e; with_reducible refine Out.of_eq e ?_) | with_reducible apply Out.setEdges

theorem gpioInputChange_out (pin : Fin 16) (level : Bool) {s : State} (h₀ : Out L₀ s₀ s)
    (hL : Key.sub [.w 64 16580608, .p .edges] L₀ = true) :
    Out L₀ s₀ (gpioInputChange pin level s) := by
  unfold gpioInputChange
  repeat'
    first
      | with_reducible assumption | with_reducible apply Out.when | with_reducible apply State.setBit_out
      | with_reducible apply Out.edge | exact Key.hasA rfl | exact Key.hasW | exact Out.sub hL rfl | intro _
      | with_reducible apply Out.ite | split | dsimp only [id_eq]
      | (rename_i e; with_reducible refine Out.of_eq e ?_)

theorem State.softSource_out {s : State} (i : Nat) (level : Bool) (h₀ : Out L₀ s₀ s)
    (hL : Key.sub [.w 4 16515072, .p .edges] L₀ = true) :
    Out L₀ s₀ (State.softSource s i level) := by
  unfold State.softSource
  repeat'
    first
      | with_reducible assumption | with_reducible apply Out.when | with_reducible apply State.setBit_out
      | with_reducible apply Out.edge | exact Key.hasA rfl | exact Key.hasW | exact Out.sub hL rfl | intro _
      | with_reducible apply Out.ite | split | dsimp only [id_eq]
      | (rename_i e; with_reducible refine Out.of_eq e ?_)

theorem State.srcWrite_out {s : State} (i : Nat) (agent : Nat) (bit : Nat) (en : Bool) (token : Bool) (h₀ : Out L₀ s₀ s)
    (hL : Key.sub [.a 4 4096 4, .p .inbox] L₀ = true) :
    Out L₀ s₀ (State.srcWrite s i agent bit en token).1 := by
  unfold State.srcWrite
  repeat'
    first
      | with_reducible assumption | with_reducible apply Out.when | with_reducible apply Out.puts_nil
      | with_reducible apply Out.puts_cons | with_reducible apply Out.put | with_reducible apply Out.post
      | exact Key.hasA rfl | exact Key.hasW | exact Out.sub hL rfl | intro _ | with_reducible apply Out.ite | split
      | dsimp only [id_eq] | (rename_i e; with_reducible refine Out.of_eq e ?_)

theorem State.clpSrcWrite_out {s : State} (i : Nat) (v : Nat) (hw : Bool) (h₀ : Out L₀ s₀ s)
    (hL : Key.sub [.a 4 4096 4, .p .inbox] L₀ = true) :
    Out L₀ s₀ (State.clpSrcWrite s i v hw).1 := by
  unfold State.clpSrcWrite
  repeat'
    first
      | with_reducible assumption | with_reducible apply State.srcWrite_out | with_reducible apply Out.putB
      | exact Key.hasA rfl | exact Key.hasW | exact Out.sub hL rfl | intro _ | with_reducible apply Out.ite | split
      | dsimp only [id_eq] | (rename_i e; with_reducible refine Out.of_eq e ?_)

theorem clpSrcWriteCmd_out (src : Fin 512) (v : BitVec 32) (hw : Bool) {s : State} (h₀ : Out L₀ s₀ s)
    (hL : Key.sub [.a 4 4096 4, .p .inbox] L₀ = true) :
    Out L₀ s₀ (clpSrcWriteCmd src v hw s) := by
  unfold clpSrcWriteCmd
  repeat'
    first
      | with_reducible assumption | with_reducible apply State.clpSrcWrite_out | exact Key.hasA rfl | exact Key.hasW
      | exact Out.sub hL rfl | intro _ | with_reducible apply Out.ite | split | dsimp only [id_eq]
      | (rename_i e; with_reducible refine Out.of_eq e ?_)

theorem State.agentDown_out {s : State} (n : Nat) (h₀ : Out L₀ s₀ s)
    (hL : Key.sub [.a 4 4096 4, .a 4 16384 32, .a 4 16388 32, .a 4 16392 32, .a 4 16396 32, .a 4 16384000 268435456,
    .a 4 16449536 268435456, .p .inbox] L₀ = true) :
    Out L₀ s₀ (State.agentDown s n) := by
  unfold State.agentDown
  repeat'
    first
      | with_reducible assumption | with_reducible apply Out.when | with_reducible apply Out.post
      | with_reducible apply Out.forAll | with_reducible apply Out.puts_nil | with_reducible apply Out.puts_cons
      | with_reducible apply Out.put | exact Key.hasA rfl | exact Key.hasW | exact Out.sub hL rfl | intro _
      | with_reducible apply Out.ite | split | dsimp only [id_eq]
      | (rename_i e; with_reducible refine Out.of_eq e ?_)

theorem State.showMb_out {s : State} (n : Nat) (h₀ : Out L₀ s₀ s)
    (hL : Key.sub [.w 3 8, .a 3 256 4] L₀ = true) :
    Out L₀ s₀ (State.showMb s n) := by
  unfold State.showMb
  repeat'
    first
      | with_reducible assumption | with_reducible apply Out.puts_nil | with_reducible apply Out.puts_cons
      | with_reducible apply Out.put | exact Key.hasA rfl | exact Key.hasW | exact Out.sub hL rfl | intro _
      | with_reducible apply Out.ite | split | dsimp only [id_eq]
      | (rename_i e; with_reducible refine Out.of_eq e ?_)

theorem State.mbSettle_out {s : State} (n : Nat) (h₀ : Out L₀ s₀ s)
    (hL : Key.sub [.w 3 8, .a 3 256 4] L₀ = true) :
    Out L₀ s₀ (State.mbSettle s n) := by
  unfold State.mbSettle
  repeat'
    first
      | with_reducible assumption | with_reducible apply Out.puts_nil | with_reducible apply Out.puts_cons
      | with_reducible apply Out.put | with_reducible apply State.showMb_out | exact Key.hasA rfl | exact Key.hasW
      | exact Out.sub hL rfl | intro _ | with_reducible apply Out.ite | split | dsimp only [id_eq]
      | (rename_i e; with_reducible refine Out.of_eq e ?_)

theorem State.mbRelease_out {s : State} (n : Nat) (h₀ : Out L₀ s₀ s)
    (hL : Key.sub [.w 3 8, .a 3 256 4, .a 4 4096 4, .a 4 16384 32, .a 4 16388 32, .a 4 16392 32, .a 4 16396 32,
    .a 4 16384000 268435456, .a 4 16449536 268435456, .p .inbox, .p .reqs, .p .nonces] L₀ = true) :
    Out L₀ s₀ (State.mbRelease s n) := by
  unfold State.mbRelease
  repeat'
    first
      | with_reducible assumption | with_reducible apply Out.when | with_reducible apply Out.post
      | with_reducible apply State.mbSettle_out | with_reducible apply Out.put
      | with_reducible apply State.agentDown_out | exact Key.hasA rfl | exact Key.hasW | exact Out.sub hL rfl
      | intro _ | with_reducible apply Out.ite | split | dsimp only [id_eq]
      | (rename_i e; with_reducible refine Out.of_eq e ?_) | with_reducible apply Out.setReqsNonces

/-- What `mctpEidReassign` may change. -/
def mctpEidReassignOut : List Key :=
  [.w 3 8, .a 3 256 4, .w 3 16646144, .a 4 4096 4, .a 4 16384 32,
    .a 4 16388 32, .a 4 16392 32, .a 4 16396 32, .a 4 16384000 268435456, .a 4 16449536 268435456, .p .inbox,
    .p .reqs, .p .nonces]

theorem mctpEidReassign_out (eid : BitVec 16) {s : State} (h₀ : Out L₀ s₀ s)
    (hL : Key.sub mctpEidReassignOut L₀ = true) :
    Out L₀ s₀ (mctpEidReassign eid s) := by
  unfold mctpEidReassign
  repeat'
    first
      | with_reducible assumption | with_reducible apply State.mbRelease_out | with_reducible apply Out.put
      | exact Key.hasA rfl | exact Key.hasW | exact Out.sub hL rfl | intro _ | with_reducible apply Out.ite | split
      | dsimp only [id_eq] | (rename_i e; with_reducible refine Out.of_eq e ?_)

theorem State.accept_out {s : State} (mb : Option Nat) (lim : Nat) (rlim : Nat) (b : List Byte) (h₀ : Out L₀ s₀ s)
    (hL : Key.sub [.w 3 8, .w 3 12, .w 3 64, .a 3 256 4, .p .edges, .p .inbox, .p .reqs, .p .reqNo] L₀ = true) :
    Out L₀ s₀ (State.accept s mb lim rlim b).1 := by
  unfold State.accept
  repeat'
    first
      | with_reducible assumption | with_reducible apply Out.count | with_reducible apply State.showMb_out
      | exact Key.hasA rfl | exact Key.hasW | exact Out.sub hL rfl | intro _ | with_reducible apply Out.ite | split
      | dsimp only [id_eq] | (rename_i e; with_reducible refine Out.of_eq e ?_)
      | with_reducible apply Out.setReqsReqNo

/-- What `casgusSend` may change. -/
def casgusSendOut : List Key :=
  [.w 2 8, .w 2 12, .w 2 20, .w 2 24, .a 2 32 4, .w 2 64, .w 2 68, .w 2 5439488,
    .w 2 5505024, .w 3 8, .w 3 12, .w 3 64, .a 3 256 4, .w 6 8, .w 6 12, .w 7 12, .w 7 24, .w 7 28, .w 7 17956864,
    .w 9 8, .w 10 20, .w 10 24, .w 11 12, .a 11 32 4, .a 11 48 4, .w 11 84, .w 12 8, .w 13 8, .w 13 12, .w 13 76,
    .w 13 1572864, .w 13 2359296, .w 13 2424832, .w 13 20250624, .w 14 8, .w 14 12, .w 14 24, .w 14 84,
    .w 14 3211264, .w 14 3342336, .w 14 3407872, .w 14 3473408, .w 14 3538944, .w 14 4128768, .w 14 4194304,
    .w 14 4259840, .w 14 4325376, .w 14 4784128, .w 14 21692416, .w 14 21757952, .w 14 22675456, .w 14 22806528,
    .w 16 8, .w 16 12, .w 16 6094848, .w 16 8519680, .w 16 8585216, .w 16 8912896, .w 16 8978432, .w 16 9240576,
    .w 16 9306112, .w 16 9502720, .w 16 9568256, .w 16 9895936, .w 16 9961472, .w 16 10223616, .w 16 10551296,
    .w 16 10944512, .w 16 23068672, .w 16 23789568, .w 16 23855104, .w 16 24051712, .w 16 24444928, .w 17 13762560,
    .w 17 24510464, .w 18 8, .w 18 12, .w 18 72, .w 18 786432, .w 18 20578304, .w 19 12, .w 19 16, .w 19 1114112,
    .w 19 1179648, .a 19 1310720 268435456, .a 19 1376256 268435456, .a 19 22413312 268435456,
    .a 19 22478848 268435456, .w 22 8, .w 22 12, .w 22 28, .w 64 6881280, .w 64 16711680, .a 65 22347776 268435456,
    .p .win, .p .free, .p .edges, .p .inbox, .p .chn, .p .seqs, .p .mcache, .p .pa, .p .jq, .p .jact, .p .jobNo,
    .p .cmds, .p .cmdNo, .p .cqs, .p .nss, .p .zones, .p .bands, .p .vol, .p .points, .p .mops, .p .errlog,
    .p .reqs, .p .reqNo, .p .pkt, .p .hbm, .p .poison, .p .lost, .p .kvLog, .p .stripes]

theorem casgusSend_out (id : CmdId) (raw : List Byte) {s : State} (h₀ : Out L₀ s₀ s)
    (hL : Key.sub casgusSendOut L₀ = true) :
    Out L₀ s₀ (casgusSend id raw s) := by
  unfold casgusSend
  repeat'
    first
      | with_reducible assumption | with_reducible apply State.admin_out | with_reducible apply State.accept_out
      | with_reducible apply State.showMb_out | with_reducible apply Out.puts_nil
      | with_reducible apply Out.puts_cons | with_reducible apply Out.put | with_reducible apply State.complete_out
      | exact Key.hasA rfl | exact Key.hasW | exact Out.sub hL rfl | intro _ | with_reducible apply Out.ite | split
      | dsimp only [id_eq] | (rename_i e; with_reducible refine Out.of_eq e ?_)

/-- What `nvmeMiRequest` may change. -/
def nvmeMiRequestOut : List Key :=
  [.w 3 8, .w 3 12, .w 3 64, .a 3 256 4, .p .edges, .p .inbox, .p .reqs,
    .p .reqNo, .p .miOut]

theorem nvmeMiRequest_out (raw : List Byte) {s : State} (h₀ : Out L₀ s₀ s)
    (hL : Key.sub nvmeMiRequestOut L₀ = true) :
    Out L₀ s₀ (nvmeMiRequest raw s) := by
  unfold nvmeMiRequest
  repeat'
    first
      | with_reducible assumption | with_reducible apply State.accept_out | exact Key.hasA rfl | exact Key.hasW
      | exact Out.sub hL rfl | intro _ | with_reducible apply Out.ite | split | dsimp only [id_eq]
      | (rename_i e; with_reducible refine Out.of_eq e ?_) | with_reducible apply Out.setMiOut

theorem State.dropReq_out {s : State} (r : Req) (h₀ : Out L₀ s₀ s)
    (hL : Key.sub [.w 3 8, .a 3 256 4, .p .reqs] L₀ = true) :
    Out L₀ s₀ (State.dropReq s r) := by
  unfold State.dropReq
  repeat'
    first
      | with_reducible assumption | with_reducible apply State.mbSettle_out | exact Key.hasA rfl | exact Key.hasW
      | exact Out.sub hL rfl | intro _ | with_reducible apply Out.ite | split | dsimp only [id_eq]
      | (rename_i e; with_reducible refine Out.of_eq e ?_) | with_reducible apply Out.setReqs

theorem State.takeReady_out {s : State} (n len : Nat) (h : Out L₀ s₀ s) (hL : Key.sub [.w 3 8, .a 3 256 4, .p .reqs] L₀ = true)
    {x : State × Nat × List Byte} (e : State.takeReady s n len = some x) : Out L₀ s₀ x.1 := by
  unfold State.takeReady at e
  split at e
  · cases e
  · dsimp only at e
    split at e
    · cases e; exact State.dropReq_out _ h (Out.sub hL rfl)
    · cases e; exact h

theorem State.takeFor_out {s : State} (cntlid len : Nat) (h : Out L₀ s₀ s) (hL : Key.sub [.w 3 8, .a 3 256 4, .p .reqs] L₀ = true)
    {x : State × Nat × List Byte} (e : State.takeFor s cntlid len = some x) : Out L₀ s₀ x.1 := by
  unfold State.takeFor at e
  split at e
  · exact State.takeReady_out _ _ h hL e
  · cases e

/-- What `casgusReceive` may change. -/
def casgusReceiveOut : List Key :=
  [.w 2 8, .w 2 12, .w 2 20, .w 2 24, .a 2 32 4, .w 2 64, .w 2 68, .w 2 5439488,
    .w 2 5505024, .w 3 8, .a 3 256 4, .w 6 8, .w 6 12, .w 7 12, .w 7 24, .w 7 28, .w 7 17956864, .w 9 8, .w 10 20,
    .w 10 24, .w 11 12, .a 11 32 4, .a 11 48 4, .w 11 84, .w 12 8, .w 13 8, .w 13 12, .w 13 76, .w 13 1572864,
    .w 13 2359296, .w 13 2424832, .w 13 20250624, .w 14 8, .w 14 12, .w 14 24, .w 14 84, .w 14 3211264,
    .w 14 3342336, .w 14 3407872, .w 14 3473408, .w 14 3538944, .w 14 4128768, .w 14 4194304, .w 14 4259840,
    .w 14 4325376, .w 14 4784128, .w 14 21692416, .w 14 21757952, .w 14 22675456, .w 14 22806528, .w 16 8, .w 16 12,
    .w 16 6094848, .w 16 8519680, .w 16 8585216, .w 16 8912896, .w 16 8978432, .w 16 9240576, .w 16 9306112,
    .w 16 9502720, .w 16 9568256, .w 16 9895936, .w 16 9961472, .w 16 10223616, .w 16 10551296, .w 16 10944512,
    .w 16 23068672, .w 16 23789568, .w 16 23855104, .w 16 24051712, .w 16 24444928, .w 17 13762560, .w 17 24510464,
    .w 18 8, .w 18 12, .w 18 72, .w 18 786432, .w 18 20578304, .w 19 12, .w 19 16, .w 19 1114112, .w 19 1179648,
    .a 19 1310720 268435456, .a 19 1376256 268435456, .a 19 22413312 268435456, .a 19 22478848 268435456, .w 22 8,
    .w 22 12, .w 22 28, .w 64 6881280, .w 64 16711680, .a 65 22347776 268435456, .p .win, .p .free, .p .edges,
    .p .inbox, .p .chn, .p .seqs, .p .mcache, .p .pa, .p .jq, .p .jact, .p .jobNo, .p .cmds, .p .cmdNo, .p .cqs,
    .p .nss, .p .zones, .p .bands, .p .vol, .p .points, .p .mops, .p .errlog, .p .reqs, .p .held, .p .pkt, .p .hbm,
    .p .poison, .p .lost, .p .kvLog, .p .stripes]

theorem casgusReceive_out (id : CmdId) (len : BitVec 32) (wait : Bool) (limit : BitVec 32) {s : State} (h₀ : Out L₀ s₀ s)
    (hL : Key.sub casgusReceiveOut L₀ = true) :
    Out L₀ s₀ (casgusReceive id len wait limit s) := by
  unfold casgusReceive
  repeat'
    first
      | with_reducible assumption | with_reducible apply State.admin_out | with_reducible apply State.answer_out
      | with_reducible apply State.endHeld_out | with_reducible apply State.complete_out
      | with_reducible apply State.unflight_out | exact Key.hasA rfl | exact Key.hasW | exact Out.sub hL rfl
      | (rename_i heq; with_reducible refine State.takeFor_out _ _ ?_ ?_ heq) | intro _
      | with_reducible apply Out.ite | split | dsimp only [id_eq]
      | (rename_i e; with_reducible refine Out.of_eq e ?_) | with_reducible apply Out.setHeld

theorem receiveWaitExpiry_out (id : CmdId) {s : State} (h₀ : Out L₀ s₀ s)
    (hL : Key.sub endHeldOut L₀ = true) :
    Out L₀ s₀ (receiveWaitExpiry id s) := by
  unfold receiveWaitExpiry
  repeat'
    first
      | with_reducible assumption | with_reducible apply State.endHeld_out | exact Key.hasA rfl | exact Key.hasW
      | exact Out.sub hL rfl | intro _ | with_reducible apply Out.ite | split | dsimp only [id_eq]
      | (rename_i e; with_reducible refine Out.of_eq e ?_)

theorem nvmeMiReceive_out (len : BitVec 32) {s : State} (h₀ : Out L₀ s₀ s)
    (hL : Key.sub [.w 3 8, .a 3 256 4, .p .reqs, .p .miOut] L₀ = true) :
    Out L₀ s₀ (nvmeMiReceive len s) := by
  unfold nvmeMiReceive
  repeat'
    first
      | with_reducible assumption | exact Key.hasA rfl | exact Key.hasW | exact Out.sub hL rfl
      | (rename_i heq; with_reducible refine State.takeReady_out _ _ ?_ ?_ heq) | intro _
      | with_reducible apply Out.ite | split | dsimp only [id_eq]
      | (rename_i e; with_reducible refine Out.of_eq e ?_) | with_reducible apply Out.setMiOut

theorem State.sdsPlace_out {s : State} (b : List Byte) (h₀ : Out L₀ s₀ s)
    (hL : Key.sub [.w 26 8, .w 26 28, .p .win] L₀ = true) :
    Out L₀ s₀ (State.sdsPlace s b) := by
  unfold State.sdsPlace
  repeat'
    first
      | with_reducible assumption | with_reducible apply Out.puts_nil | with_reducible apply Out.puts_cons
      | with_reducible apply Out.put | with_reducible apply State.putWin_out | exact Key.hasA rfl | exact Key.hasW
      | exact Out.sub hL rfl | intro _ | with_reducible apply Out.ite | split | dsimp only [id_eq]
      | (rename_i e; with_reducible refine Out.of_eq e ?_)

theorem requestComplete_out (rq : ReqId) {s : State} (h₀ : Out L₀ s₀ s)
    (hL : Key.sub [.w 2 20, .w 2 24, .a 2 32 4, .w 2 5439488, .w 2 5505024, .w 3 8, .a 3 256 4, .w 4 12, .w 4 64, .a 4 4096 4,
    .a 4 16384 32, .a 4 16388 32, .a 4 16392 32, .a 4 16396 32, .a 4 16384000 268435456, .a 4 16449536 268435456,
    .w 6 8, .w 6 12, .w 7 12, .w 7 24, .w 7 28, .w 7 17956864, .w 9 8, .w 10 20, .w 10 24, .a 11 32 4, .a 11 48 4,
    .w 26 8, .w 26 28, .w 26 32, .w 26 36, .a 65 22347776 268435456, .p .win, .p .free, .p .edges, .p .inbox,
    .p .mcache, .p .jq, .p .jobNo, .p .cmds, .p .cqs, .p .nss, .p .bands, .p .vol, .p .points, .p .errlog, .p .reqs,
    .p .rspNo, .p .held, .p .pkt, .p .hbm, .p .poison, .p .lost, .p .kvLog, .p .stripes] L₀ = true) :
    Out L₀ s₀ (requestComplete rq s) := by
  unfold requestComplete
  repeat'
    first
      | with_reducible assumption | with_reducible apply State.dropReq_out | with_reducible apply State.showMb_out
      | with_reducible apply Out.when | with_reducible apply State.sdsPlace_out
      | with_reducible apply State.complete_out | with_reducible apply State.fire_out | exact Key.hasA rfl
      | exact Key.hasW | exact Out.sub hL rfl
      | (rename_i heq; with_reducible refine State.takeReady_out _ _ ?_ ?_ heq) | intro _
      | with_reducible apply Out.ite | split | dsimp only [id_eq]
      | (rename_i e; with_reducible refine Out.of_eq e ?_) | with_reducible apply Out.setReqsRspNo
      | with_reducible apply Out.setHeld

theorem State.judge_out {s : State} (r : Req) (h₀ : Out L₀ s₀ s)
    (hL : Key.sub [.p .nonces] L₀ = true) :
    Out L₀ s₀ (State.judge s r).1 := by
  unfold State.judge
  repeat'
    first
      | with_reducible assumption | exact Key.hasA rfl | exact Key.hasW | exact Out.sub hL rfl | intro _
      | with_reducible apply Out.ite | split | dsimp only [id_eq]
      | (rename_i e; with_reducible refine Out.of_eq e ?_) | with_reducible apply Out.setNonces

theorem State.updReq_out {s : State} (no : Nat) (f : Req → Req) (h₀ : Out L₀ s₀ s)
    (hL : Key.sub [.p .reqs] L₀ = true) :
    Out L₀ s₀ (State.updReq s no f) := by
  unfold State.updReq
  repeat'
    first
      | with_reducible assumption | exact Key.hasA rfl | exact Key.hasW | exact Out.sub hL rfl | intro _
      | with_reducible apply Out.ite | split | dsimp only [id_eq]
      | (rename_i e; with_reducible refine Out.of_eq e ?_) | with_reducible apply Out.setReqs

theorem State.respond_out {s : State} (no : Nat) (x : Rsp) (h₀ : Out L₀ s₀ s)
    (hL : Key.sub [.p .reqs] L₀ = true) :
    Out L₀ s₀ (State.respond s no x) := by
  unfold State.respond
  repeat'
    first
      | with_reducible assumption | with_reducible apply State.updReq_out | exact Key.hasA rfl | exact Key.hasW
      | exact Out.sub hL rfl | intro _ | with_reducible apply Out.ite | split | dsimp only [id_eq]
      | (rename_i e; with_reducible refine Out.of_eq e ?_)

theorem requestStart_out (rq : ReqId) {s : State} (h₀ : Out L₀ s₀ s)
    (hL : Key.sub [.w 3 12, .w 3 68, .p .edges, .p .inbox, .p .reqs, .p .nonces] L₀ = true) :
    Out L₀ s₀ (requestStart rq s) := by
  unfold requestStart
  repeat'
    first
      | with_reducible assumption | with_reducible apply State.updReq_out | with_reducible apply State.judge_out
      | with_reducible apply State.respond_out | with_reducible apply Out.post | with_reducible apply Out.count
      | with_reducible apply Out.when | exact Key.hasA rfl | exact Key.hasW | exact Out.sub hL rfl | intro _
      | with_reducible apply Out.ite | split | dsimp only [id_eq]
      | (rename_i e; with_reducible refine Out.of_eq e ?_)

theorem requestTimeout_out (rq : ReqId) {s : State} (h₀ : Out L₀ s₀ s)
    (hL : Key.sub [.p .reqs, .p .works] L₀ = true) :
    Out L₀ s₀ (requestTimeout rq s) := by
  unfold requestTimeout
  repeat'
    first
      | with_reducible assumption | with_reducible apply State.respond_out | with_reducible apply State.updReq_out
      | exact Key.hasA rfl | exact Key.hasW | exact Out.sub hL rfl | intro _ | with_reducible apply Out.ite | split
      | dsimp only [id_eq] | (rename_i e; with_reducible refine Out.of_eq e ?_) | with_reducible apply Out.setWorks

theorem State.serve_out {s : State} (rq : ReqId) (op : Nat) (f : Req → List Byte → State → State × Rsp) (h₀ : Out L₀ s₀ s) (hF_f : ∀ x0 x1 u, Out L₀ s₀ u → Out L₀ s₀ (f x0 x1 u).1)
    (hL : Key.sub [.p .reqs] L₀ = true) :
    Out L₀ s₀ (State.serve s rq op f) := by
  unfold State.serve
  repeat'
    first
      | with_reducible assumption | with_reducible apply State.respond_out | with_reducible apply hF_f
      | exact Key.hasA rfl | exact Key.hasW | exact Out.sub hL rfl | intro _ | with_reducible apply Out.ite | split
      | dsimp only [id_eq] | (rename_i e; with_reducible refine Out.of_eq e ?_)

theorem execCasgusSend_out (id : CmdId) (raw : List Byte) {s t : State} (h : execCasgusSend id raw s = .next t) :
    Out casgusSendOut s t := by
  have h := Host.Outcome.next.inj h; subst h; exact casgusSend_out _ _ (Out.refl s) rfl

theorem execCasgusReceive_out (id : CmdId) (len : BitVec 32) (wait : Bool) (limit : BitVec 32) {s t : State} (h : execCasgusReceive id len wait limit s = .next t) :
    Out casgusReceiveOut s t := by
  have h := Host.Outcome.next.inj h; subst h; exact casgusReceive_out _ _ _ _ (Out.refl s) rfl

theorem execReceiveWaitExpiry_out (id : CmdId) {s t : State} (h : execReceiveWaitExpiry id s = .next t) :
    Out endHeldOut s t := by
  have h := Host.Outcome.next.inj h; subst h; exact receiveWaitExpiry_out _ (Out.refl s) rfl

theorem execNvmeMiRequest_out (raw : List Byte) {s t : State} (h : execNvmeMiRequest raw s = .next t) :
    Out nvmeMiRequestOut s t := by
  have h := Host.Outcome.next.inj h; subst h; exact nvmeMiRequest_out _ (Out.refl s) rfl

theorem execNvmeMiReceive_out (len : BitVec 32) {s t : State} (h : execNvmeMiReceive len s = .next t) :
    Out [.w 3 8, .a 3 256 4, .p .reqs, .p .miOut] s t := by
  have h := Host.Outcome.next.inj h; subst h; exact nvmeMiReceive_out _ (Out.refl s) rfl

theorem execMctpEidReassign_out (eid : BitVec 16) {s t : State} (h : execMctpEidReassign eid s = .next t) :
    Out mctpEidReassignOut s t := by
  have h := Host.Outcome.next.inj h; subst h; exact mctpEidReassign_out _ (Out.refl s) rfl

theorem execRequestStart_out (rq : ReqId) {s t : State} (h : execRequestStart rq s = .next t) :
    Out [.w 3 12, .w 3 68, .p .edges, .p .inbox, .p .reqs, .p .nonces] s t := by
  have h := Host.Outcome.next.inj h; subst h; exact requestStart_out _ (Out.refl s) rfl

theorem execRequestTimeout_out (rq : ReqId) {s t : State} (h : execRequestTimeout rq s = .next t) :
    Out [.p .reqs, .p .works] s t := by
  have h := Host.Outcome.next.inj h; subst h; exact requestTimeout_out _ (Out.refl s) rfl

theorem execSourceEdge_out {s t : State} (h : execSourceEdge s = .next t) :
    Out fireOut s t := by
  have h := Host.Outcome.next.inj h; subst h; exact sourceEdge_out  (Out.refl s) rfl

theorem execGpioInputChange_out (pin : Fin 16) (level : Bool) {s t : State} (h : execGpioInputChange pin level s = .next t) :
    Out [.w 64 16580608, .p .edges] s t := by
  have h := Host.Outcome.next.inj h; subst h; exact gpioInputChange_out _ _ (Out.refl s) rfl

theorem execClpClaimWrite_out (sender : Fin 64) (bank : Fin 64) (hi : Bool) (v : BitVec 32) {s t : State} (h : execClpClaimWrite sender bank hi v s = .next t) :
    Out setBankStOut s t := by
  have h := Host.Outcome.next.inj h; subst h; exact clpClaimWriteCmd_out _ _ _ _ (Out.refl s) rfl

theorem execClpDoneWrite_out (sender : Fin 64) (bank : Fin 64) (hi : Bool) (v : BitVec 32) {s t : State} (h : execClpDoneWrite sender bank hi v s = .next t) :
    Out doneBitOut s t := by
  have h := Host.Outcome.next.inj h; subst h; exact clpDoneWriteCmd_out _ _ _ _ (Out.refl s) rfl

theorem execClpSrcWrite_out (src : Fin 512) (v : BitVec 32) (hw : Bool) {s t : State} (h : execClpSrcWrite src v hw s = .next t) :
    Out [.a 4 4096 4, .p .inbox] s t := by
  have h := Host.Outcome.next.inj h; subst h; exact clpSrcWriteCmd_out _ _ _ (Out.refl s) rfl

end Sys2Proof.Machine
end

