-- ==== Sys2Proof/Laws/OutMemory.lean ====
section
/-!
SUPPORT. What each operation and each command of `Machine/Memory.lean` can change.
-/

namespace Sys2Proof.Machine

set_option Elab.async false
set_option linter.unusedVariables false

set_option maxRecDepth 8000
set_option linter.unusedTactic false
set_option linter.unreachableTactic false

variable {L₀ : List Key} {s₀ : State}

theorem State.rateCheck_out {s : State} (psl : Bool) (h₀ : Out L₀ s₀ s)
    (hL : Key.sub [.w 9 17104896, .w 9 17170432] L₀ = true) :
    Out L₀ s₀ (State.rateCheck s psl) := by
  unfold State.rateCheck
  repeat'
    first
      | with_reducible assumption | with_reducible apply Out.puts_nil | with_reducible apply Out.puts_cons
      | with_reducible apply Out.put | exact Key.hasA rfl | exact Key.hasW | exact Out.sub hL rfl | intro _
      | with_reducible apply Out.ite | split | dsimp only [id_eq]
      | (rename_i e; with_reducible refine Out.of_eq e ?_)

theorem State.setRate_out {s : State} (rate : Nat) (h₀ : Out L₀ s₀ s)
    (hL : Key.sub [.w 9 0, .w 9 17104896, .w 9 17170432] L₀ = true) :
    Out L₀ s₀ (State.setRate s rate) := by
  unfold State.setRate
  repeat'
    first
      | with_reducible assumption | with_reducible apply State.rateCheck_out | with_reducible apply Out.puts_nil
      | with_reducible apply Out.puts_cons | with_reducible apply Out.put | exact Key.hasA rfl | exact Key.hasW
      | exact Out.sub hL rfl | intro _ | with_reducible apply Out.ite | split | dsimp only [id_eq]
      | (rename_i e; with_reducible refine Out.of_eq e ?_)

theorem hbmRateWriteCmd_out (rate : Fin 4) {s : State} (h₀ : Out L₀ s₀ s)
    (hL : Key.sub [.w 9 0, .w 9 17104896, .w 9 17170432] L₀ = true) :
    Out L₀ s₀ (hbmRateWriteCmd rate s) := by
  unfold hbmRateWriteCmd
  repeat'
    first
      | with_reducible assumption | with_reducible apply State.setRate_out | exact Key.hasA rfl | exact Key.hasW
      | exact Out.sub hL rfl | intro _ | with_reducible apply Out.ite | split | dsimp only [id_eq]
      | (rename_i e; with_reducible refine Out.of_eq e ?_)

theorem hbmRateSwitchDone_out {s : State} (h₀ : Out L₀ s₀ s)
    (hL : Key.sub [.w 9 8, .w 9 12, .w 9 17104896, .w 9 17170432, .p .edges, .p .inbox] L₀ = true) :
    Out L₀ s₀ (hbmRateSwitchDone s) := by
  unfold hbmRateSwitchDone
  repeat'
    first
      | with_reducible assumption | with_reducible apply Out.puts_nil | with_reducible apply Out.puts_cons
      | with_reducible apply Out.put | with_reducible apply State.rateCheck_out | with_reducible apply Out.post
      | with_reducible apply Out.evt | exact Key.hasA rfl | exact Key.hasW | exact Out.sub hL rfl | intro _
      | with_reducible apply Out.ite | split | dsimp only [id_eq]
      | (rename_i e; with_reducible refine Out.of_eq e ?_)

/-- What `hbmTrainingDone` may change. -/
def hbmTrainingDoneOut : List Key :=
  [.w 9 8, .w 9 12, .w 9 76, .a 9 17039360 268435456, .a 9 25100288 268435456,
    .p .edges, .p .inbox]

theorem hbmTrainingDone_out (k : Fin 2) (ok : Bool) (channel : BitVec 8) {s : State} (h₀ : Out L₀ s₀ s)
    (hL : Key.sub hbmTrainingDoneOut L₀ = true) :
    Out L₀ s₀ (hbmTrainingDone k ok channel s) := by
  unfold hbmTrainingDone
  repeat'
    first
      | with_reducible assumption | with_reducible apply Out.puts_nil | with_reducible apply Out.puts_cons
      | with_reducible apply Out.put | with_reducible apply Out.when | with_reducible apply Out.count
      | with_reducible apply Out.bump | with_reducible apply Out.post | with_reducible apply Out.evt
      | exact Key.hasA rfl | exact Key.hasW | exact Out.sub hL rfl | intro _ | with_reducible apply Out.ite | split
      | dsimp only [id_eq] | (rename_i e; with_reducible refine Out.of_eq e ?_)

theorem hbmCorrectedError_out (k : Fin 2) {s : State} (h₀ : Out L₀ s₀ s)
    (hL : Key.sub [.w 9 12, .w 9 64, .p .edges, .p .inbox] L₀ = true) :
    Out L₀ s₀ (hbmCorrectedError k s) := by
  unfold hbmCorrectedError
  repeat'
    first
      | with_reducible assumption | with_reducible apply Out.count | with_reducible apply Out.evt
      | exact Key.hasA rfl | exact Key.hasW | exact Out.sub hL rfl | intro _ | with_reducible apply Out.ite | split
      | dsimp only [id_eq] | (rename_i e; with_reducible refine Out.of_eq e ?_)

/-- What `hbmPatrolScrub` may change. -/
def hbmPatrolScrubOut : List Key :=
  [.w 9 12, .w 9 64, .w 9 72, .a 9 17235968 268435456, .a 9 17301504 268435456,
    .p .edges, .p .inbox]

theorem hbmPatrolScrub_out (k : Fin 2) (corrected : Bool) {s : State} (h₀ : Out L₀ s₀ s)
    (hL : Key.sub hbmPatrolScrubOut L₀ = true) :
    Out L₀ s₀ (hbmPatrolScrub k corrected s) := by
  unfold hbmPatrolScrub
  repeat'
    first
      | with_reducible assumption | with_reducible apply Out.when | with_reducible apply Out.count
      | with_reducible apply Out.evt | with_reducible apply Out.bump | with_reducible apply Out.puts_nil
      | with_reducible apply Out.puts_cons | with_reducible apply Out.put | with_reducible apply Out.post
      | exact Key.hasA rfl | exact Key.hasW | exact Out.sub hL rfl | intro _ | with_reducible apply Out.ite | split
      | dsimp only [id_eq] | (rename_i e; with_reducible refine Out.of_eq e ?_)

theorem selfRefreshExit_out {s : State} (h₀ : Out L₀ s₀ s)
    (hL : Key.sub [.w 9 8] L₀ = true) :
    Out L₀ s₀ (selfRefreshExit s) := by
  unfold selfRefreshExit
  repeat'
    first
      | with_reducible assumption | with_reducible apply State.srefOff_out | exact Key.hasA rfl | exact Key.hasW
      | exact Out.sub hL rfl | intro _ | with_reducible apply Out.ite | split | dsimp only [id_eq]
      | (rename_i e; with_reducible refine Out.of_eq e ?_)

/-- What `State.pktRange` may change. -/
def pktRangeOut : List Key :=
  [.w 10 8, .w 10 12, .w 10 24, .w 10 40, .p .edges, .p .pkt, .p .hbm, .p .poison]

theorem State.pktRange_out {s : State} (op : Nat) (h₀ : Out L₀ s₀ s)
    (hL : Key.sub pktRangeOut L₀ = true) :
    Out L₀ s₀ (State.pktRange s op).1 := by
  unfold State.pktRange
  repeat'
    first
      | with_reducible assumption | with_reducible apply Out.put | with_reducible apply Out.evt
      | with_reducible apply Out.forAll | with_reducible apply State.setLine_out
      | with_reducible apply State.writeBack_out | with_reducible apply State.showPkt_out | exact Key.hasA rfl
      | exact Key.hasW | exact Out.sub hL rfl | intro _ | with_reducible apply Out.ite | split | dsimp only [id_eq]
      | (rename_i e; with_reducible refine Out.of_eq e ?_)

theorem pktInvalidate_out {s : State} (h₀ : Out L₀ s₀ s)
    (hL : Key.sub pktRangeOut L₀ = true) :
    Out L₀ s₀ (pktInvalidate s) := by
  unfold pktInvalidate
  repeat'
    first
      | with_reducible assumption | with_reducible apply State.pktRange_out | exact Key.hasA rfl | exact Key.hasW
      | exact Out.sub hL rfl | intro _ | with_reducible apply Out.ite | split | dsimp only [id_eq]
      | (rename_i e; with_reducible refine Out.of_eq e ?_)

theorem pktClean_out {s : State} (h₀ : Out L₀ s₀ s)
    (hL : Key.sub pktRangeOut L₀ = true) :
    Out L₀ s₀ (pktClean s) := by
  unfold pktClean
  repeat'
    first
      | with_reducible assumption | with_reducible apply State.pktRange_out | exact Key.hasA rfl | exact Key.hasW
      | exact Out.sub hL rfl | intro _ | with_reducible apply Out.ite | split | dsimp only [id_eq]
      | (rename_i e; with_reducible refine Out.of_eq e ?_)

theorem pktCleanInvalidate_out {s : State} (h₀ : Out L₀ s₀ s)
    (hL : Key.sub pktRangeOut L₀ = true) :
    Out L₀ s₀ (pktCleanInvalidate s) := by
  unfold pktCleanInvalidate
  repeat'
    first
      | with_reducible assumption | with_reducible apply State.pktRange_out | exact Key.hasA rfl | exact Key.hasW
      | exact Out.sub hL rfl | intro _ | with_reducible apply Out.ite | split | dsimp only [id_eq]
      | (rename_i e; with_reducible refine Out.of_eq e ?_)

theorem State.pktEnable_out {s : State} (h₀ : Out L₀ s₀ s)
    (hL : Key.sub [.w 10 0, .w 10 4, .w 10 24, .p .pkt] L₀ = true) :
    Out L₀ s₀ (State.pktEnable s).1 := by
  unfold State.pktEnable
  repeat'
    first
      | with_reducible assumption | with_reducible apply State.enable_out | with_reducible apply State.showPkt_out
      | exact Key.hasA rfl | exact Key.hasW | exact Out.sub hL rfl | intro _ | with_reducible apply Out.ite | split
      | dsimp only [id_eq] | (rename_i e; with_reducible refine Out.of_eq e ?_) | with_reducible apply Out.setPkt

theorem pktEnableCmd_out {s : State} (h₀ : Out L₀ s₀ s)
    (hL : Key.sub [.w 10 0, .w 10 4, .w 10 24, .p .pkt] L₀ = true) :
    Out L₀ s₀ (pktEnableCmd s) := by
  unfold pktEnableCmd
  repeat'
    first
      | with_reducible assumption | with_reducible apply State.pktEnable_out | exact Key.hasA rfl | exact Key.hasW
      | exact Out.sub hL rfl | intro _ | with_reducible apply Out.ite | split | dsimp only [id_eq]
      | (rename_i e; with_reducible refine Out.of_eq e ?_)

theorem State.pktDisable_out {s : State} (h₀ : Out L₀ s₀ s)
    (hL : Key.sub [.w 10 8, .w 10 17367040] L₀ = true) :
    Out L₀ s₀ (State.pktDisable s) := by
  unfold State.pktDisable
  repeat'
    first
      | with_reducible assumption | with_reducible apply Out.puts_nil | with_reducible apply Out.puts_cons
      | with_reducible apply Out.put | exact Key.hasA rfl | exact Key.hasW | exact Out.sub hL rfl | intro _
      | with_reducible apply Out.ite | split | dsimp only [id_eq]
      | (rename_i e; with_reducible refine Out.of_eq e ?_)

theorem pktDisableCmd_out {s : State} (h₀ : Out L₀ s₀ s)
    (hL : Key.sub [.w 10 8, .w 10 17367040] L₀ = true) :
    Out L₀ s₀ (pktDisableCmd s) := by
  unfold pktDisableCmd
  repeat'
    first
      | with_reducible assumption | with_reducible apply State.pktDisable_out | exact Key.hasA rfl | exact Key.hasW
      | exact Out.sub hL rfl | intro _ | with_reducible apply Out.ite | split | dsimp only [id_eq]
      | (rename_i e; with_reducible refine Out.of_eq e ?_)

theorem State.cleanAll_out {s : State} (h₀ : Out L₀ s₀ s)
    (hL : Key.sub [.w 10 24, .p .pkt, .p .hbm, .p .poison] L₀ = true) :
    Out L₀ s₀ (State.cleanAll s) := by
  unfold State.cleanAll
  repeat'
    first
      | with_reducible assumption | with_reducible apply State.showPkt_out | with_reducible apply Out.forAll
      | with_reducible apply State.writeBack_out | exact Key.hasA rfl | exact Key.hasW | exact Out.sub hL rfl
      | intro _ | with_reducible apply Out.ite | split | dsimp only [id_eq]
      | (rename_i e; with_reducible refine Out.of_eq e ?_)

/-- What `pktCleanDone` may change. -/
def pktCleanDoneOut : List Key :=
  [.w 10 0, .w 10 8, .w 10 12, .w 10 24, .p .edges, .p .inbox, .p .pkt, .p .hbm,
    .p .poison]

theorem pktCleanDone_out (duration : BitVec 32) {s : State} (h₀ : Out L₀ s₀ s)
    (hL : Key.sub pktCleanDoneOut L₀ = true) :
    Out L₀ s₀ (pktCleanDone duration s) := by
  unfold pktCleanDone
  repeat'
    first
      | with_reducible assumption | with_reducible apply State.showPkt_out | with_reducible apply State.cleanAll_out
      | with_reducible apply Out.post | with_reducible apply Out.evt | with_reducible apply Out.puts_nil
      | with_reducible apply Out.puts_cons | with_reducible apply Out.put | exact Key.hasA rfl | exact Key.hasW
      | exact Out.sub hL rfl | intro _ | with_reducible apply Out.ite | split | dsimp only [id_eq]
      | (rename_i e; with_reducible refine Out.of_eq e ?_) | with_reducible apply Out.setPkt

theorem pktRangeDone_out {s : State} (h₀ : Out L₀ s₀ s)
    (hL : Key.sub [.w 10 8, .w 10 12, .p .edges] L₀ = true) :
    Out L₀ s₀ (pktRangeDone s) := by
  unfold pktRangeDone
  repeat'
    first
      | with_reducible assumption | with_reducible apply Out.evt | with_reducible apply Out.put | exact Key.hasA rfl
      | exact Key.hasW | exact Out.sub hL rfl | intro _ | with_reducible apply Out.ite | split | dsimp only [id_eq]
      | (rename_i e; with_reducible refine Out.of_eq e ?_)

theorem pktLfsrSeed_out (v : BitVec 32) {s : State} (h₀ : Out L₀ s₀ s)
    (hL : Key.sub [.w 10 20] L₀ = true) :
    Out L₀ s₀ (pktLfsrSeed v s) := by
  unfold pktLfsrSeed
  repeat'
    first
      | with_reducible assumption | with_reducible apply Out.put | exact Key.hasA rfl | exact Key.hasW
      | exact Out.sub hL rfl | intro _ | with_reducible apply Out.ite | split | dsimp only [id_eq]
      | (rename_i e; with_reducible refine Out.of_eq e ?_)

/-- What `pocketUncorrectable` may change. -/
def pocketUncorrectableOut : List Key :=
  [.w 10 12, .w 10 24, .w 10 68, .p .edges, .p .inbox, .p .pkt, .p .hbm,
    .p .poison]

theorem pocketUncorrectable_out (set : Fin 32768) (way : Fin 16) {s : State} (h₀ : Out L₀ s₀ s)
    (hL : Key.sub pocketUncorrectableOut L₀ = true) :
    Out L₀ s₀ (pocketUncorrectable set way s) := by
  unfold pocketUncorrectable
  repeat'
    first
      | with_reducible assumption | with_reducible apply Out.post | with_reducible apply Out.count
      | with_reducible apply Out.evt | with_reducible apply State.setLine_out
      | with_reducible apply State.writeBack_out | with_reducible apply State.showPkt_out | exact Key.hasA rfl
      | exact Key.hasW | exact Out.sub hL rfl | intro _ | with_reducible apply Out.ite | split | dsimp only [id_eq]
      | (rename_i e; with_reducible refine Out.of_eq e ?_) | with_reducible apply Out.setPoison

theorem execHbmTrainingDone_out (k : Fin 2) (ok : Bool) (channel : BitVec 8) {s t : State} (h : execHbmTrainingDone k ok channel s = .next t) :
    Out hbmTrainingDoneOut s t := by
  have h := Host.Outcome.next.inj h; subst h; exact hbmTrainingDone_out _ _ _ (Out.refl s) rfl

theorem execHbmRateWrite_out (rate : Fin 4) {s t : State} (h : execHbmRateWrite rate s = .next t) :
    Out [.w 9 0, .w 9 17104896, .w 9 17170432] s t := by
  have h := Host.Outcome.next.inj h; subst h; exact hbmRateWriteCmd_out _ (Out.refl s) rfl

theorem execHbmRateSwitchDone_out {s t : State} (h : execHbmRateSwitchDone s = .next t) :
    Out [.w 9 8, .w 9 12, .w 9 17104896, .w 9 17170432, .p .edges, .p .inbox] s t := by
  have h := Host.Outcome.next.inj h; subst h; exact hbmRateSwitchDone_out  (Out.refl s) rfl

theorem execHbmCorrectedError_out (k : Fin 2) {s t : State} (h : execHbmCorrectedError k s = .next t) :
    Out [.w 9 12, .w 9 64, .p .edges, .p .inbox] s t := by
  have h := Host.Outcome.next.inj h; subst h; exact hbmCorrectedError_out _ (Out.refl s) rfl

theorem execHbmPatrolScrub_out (k : Fin 2) (corrected : Bool) {s t : State} (h : execHbmPatrolScrub k corrected s = .next t) :
    Out hbmPatrolScrubOut s t := by
  have h := Host.Outcome.next.inj h; subst h; exact hbmPatrolScrub_out _ _ (Out.refl s) rfl

theorem execSelfRefreshExit_out {s t : State} (h : execSelfRefreshExit s = .next t) :
    Out [.w 9 8] s t := by
  have h := Host.Outcome.next.inj h; subst h; exact selfRefreshExit_out  (Out.refl s) rfl

theorem execPocketUncorrectable_out (set : Fin 32768) (way : Fin 16) {s t : State} (h : execPocketUncorrectable set way s = .next t) :
    Out pocketUncorrectableOut s t := by
  have h := Host.Outcome.next.inj h; subst h; exact pocketUncorrectable_out _ _ (Out.refl s) rfl

theorem execPktEnable_out {s t : State} (h : execPktEnable s = .next t) :
    Out [.w 10 0, .w 10 4, .w 10 24, .p .pkt] s t := by
  have h := Host.Outcome.next.inj h; subst h; exact pktEnableCmd_out  (Out.refl s) rfl

theorem execPktDisable_out {s t : State} (h : execPktDisable s = .next t) :
    Out [.w 10 8, .w 10 17367040] s t := by
  have h := Host.Outcome.next.inj h; subst h; exact pktDisableCmd_out  (Out.refl s) rfl

theorem execPktCleanDone_out (duration : BitVec 32) {s t : State} (h : execPktCleanDone duration s = .next t) :
    Out pktCleanDoneOut s t := by
  have h := Host.Outcome.next.inj h; subst h; exact pktCleanDone_out _ (Out.refl s) rfl

theorem execPktInvalidate_out {s t : State} (h : execPktInvalidate s = .next t) :
    Out pktRangeOut s t := by
  have h := Host.Outcome.next.inj h; subst h; exact pktInvalidate_out  (Out.refl s) rfl

theorem execPktClean_out {s t : State} (h : execPktClean s = .next t) :
    Out pktRangeOut s t := by
  have h := Host.Outcome.next.inj h; subst h; exact pktClean_out  (Out.refl s) rfl

theorem execPktCleanInvalidate_out {s t : State} (h : execPktCleanInvalidate s = .next t) :
    Out pktRangeOut s t := by
  have h := Host.Outcome.next.inj h; subst h; exact pktCleanInvalidate_out  (Out.refl s) rfl

theorem execPktRangeDone_out {s t : State} (h : execPktRangeDone s = .next t) :
    Out [.w 10 8, .w 10 12, .p .edges] s t := by
  have h := Host.Outcome.next.inj h; subst h; exact pktRangeDone_out  (Out.refl s) rfl

theorem execPktLfsrSeed_out (v : BitVec 32) {s t : State} (h : execPktLfsrSeed v s = .next t) :
    Out [.w 10 20] s t := by
  have h := Host.Outcome.next.inj h; subst h; exact pktLfsrSeed_out _ (Out.refl s) rfl

end Sys2Proof.Machine
end

