-- ==== Sys2Proof/Laws/OutCommand.lean ====
section
/-!
SUPPORT. What each operation and each command of `Machine/Command.lean` can change.
-/

namespace Sys2Proof.Machine

set_option Elab.async false
set_option linter.unusedVariables false

set_option maxRecDepth 8000
set_option linter.unusedTactic false
set_option linter.unreachableTactic false

variable {L₀ : List Key} {s₀ : State}

theorem State.connectReply_out {s : State} (qid : Nat) (cid : Nat) (st : Stat) (dw0 : Nat) (h₀ : Out L₀ s₀ s)
    (hL : Key.sub [.p .cqs] L₀ = true) :
    Out L₀ s₀ (State.connectReply s qid cid st dw0) := by
  unfold State.connectReply
  repeat'
    first
      | with_reducible assumption | exact Key.hasA rfl | exact Key.hasW | exact Out.sub hL rfl | intro _
      | with_reducible apply Out.ite | split | dsimp only [id_eq]
      | (rename_i e; with_reducible refine Out.of_eq e ?_) | with_reducible apply Out.setCqs

theorem connect_out (cid : BitVec 16) (qid : BitVec 16) (cntlid : BitVec 16) (entries : Nat) (noFlow : Bool) (kato : BitVec 32) (hostId : BitVec 128) (hostNqn : List Byte) (member : Bool) (conn : ConnData) {s : State} (h₀ : Out L₀ s₀ s)
    (hL : Key.sub [.w 2 8, .p .cqs, .p .ctrls, .p .visit, .p .nss] L₀ = true) :
    Out L₀ s₀ (connect cid qid cntlid entries noFlow kato hostId hostNqn member conn s) := by
  unfold connect
  repeat'
    first
      | with_reducible assumption | with_reducible apply State.connectReply_out
      | with_reducible apply State.setCtrl_out | exact Key.hasA rfl | exact Key.hasW | exact Out.sub hL rfl | intro _
      | with_reducible apply Out.ite | split | dsimp only [id_eq]
      | (rename_i e; with_reducible refine Out.of_eq e ?_) | with_reducible apply Out.setVisitNss

theorem State.endTest_out {s : State} (code : Nat) (h₀ : Out L₀ s₀ s)
    (hL : Key.sub [.p .test, .p .testLog] L₀ = true) :
    Out L₀ s₀ (State.endTest s code) := by
  unfold State.endTest
  repeat'
    first
      | with_reducible assumption | exact Key.hasA rfl | exact Key.hasW | exact Out.sub hL rfl | intro _
      | with_reducible apply Out.ite | split | dsimp only [id_eq]
      | (rename_i e; with_reducible refine Out.of_eq e ?_) | with_reducible apply Out.setTestTestLog

/-- What `State.tearDown` may change. -/
def tearDownOut : List Key :=
  [.w 2 8, .w 2 20, .w 2 24, .a 2 32 4, .w 2 5439488, .w 2 5505024, .w 3 8,
    .a 3 256 4, .a 4 4096 4, .a 4 16384 32, .a 4 16388 32, .a 4 16392 32, .a 4 16396 32, .a 4 16384000 268435456,
    .a 4 16449536 268435456, .w 6 8, .w 6 12, .w 7 12, .w 7 24, .w 7 28, .w 7 17956864, .w 9 8, .w 10 20, .w 10 24,
    .w 11 12, .a 11 32 4, .a 11 48 4, .w 11 84, .w 12 8, .w 13 8, .w 13 12, .w 13 76, .w 13 1572864, .w 13 2359296,
    .w 13 2424832, .w 13 20250624, .w 14 8, .w 14 12, .w 14 24, .w 14 84, .w 14 3211264, .w 14 3342336,
    .w 14 3407872, .w 14 3473408, .w 14 3538944, .w 14 4128768, .w 14 4194304, .w 14 4259840, .w 14 4325376,
    .w 14 4784128, .w 14 21692416, .w 14 21757952, .w 14 22675456, .w 14 22806528, .w 16 8, .w 16 12, .w 16 6094848,
    .w 16 8519680, .w 16 8585216, .w 16 8912896, .w 16 8978432, .w 16 9240576, .w 16 9306112, .w 16 9502720,
    .w 16 9568256, .w 16 9895936, .w 16 9961472, .w 16 10223616, .w 16 10551296, .w 16 10944512, .w 16 23068672,
    .w 16 23789568, .w 16 23855104, .w 16 24051712, .w 16 24444928, .w 17 13762560, .w 17 24510464, .w 18 8,
    .w 18 12, .w 18 72, .w 18 786432, .w 18 20578304, .w 19 12, .w 19 16, .w 19 1114112, .w 19 1179648,
    .a 19 1310720 268435456, .a 19 1376256 268435456, .a 19 22413312 268435456, .a 19 22478848 268435456, .w 22 8,
    .w 22 12, .w 22 24, .w 22 28, .w 64 6881280, .w 64 16711680, .a 65 22347776 268435456, .p .win, .p .free,
    .p .edges, .p .inbox, .p .chn, .p .seqs, .p .mcache, .p .pa, .p .jq, .p .jact, .p .jobNo, .p .cmds, .p .ctrls,
    .p .visit, .p .nss, .p .bands, .p .vol, .p .points, .p .mops, .p .errlog, .p .reqs, .p .nonces, .p .held,
    .p .pkt, .p .hbm, .p .poison, .p .lost, .p .kvLog, .p .stripes]

theorem State.tearDown_out {s : State} (c : Nat) (h₀ : Out L₀ s₀ s)
    (hL : Key.sub tearDownOut L₀ = true) :
    Out L₀ s₀ (State.tearDown s c).1 := by
  unfold State.tearDown
  repeat'
    first
      | with_reducible assumption | with_reducible apply State.showCmds_out
      | with_reducible apply State.drainDeletes_out | with_reducible apply State.setCtrl_out
      | with_reducible apply State.mbRelease_out | with_reducible apply State.budgetChanged_out | exact Key.hasA rfl
      | exact Key.hasW | exact Out.sub hL rfl | intro _ | with_reducible apply Out.ite | split | dsimp only [id_eq]
      | (rename_i e; with_reducible refine Out.of_eq e ?_) | with_reducible apply Out.setCmdsVisitNssErrlogHeld

theorem disconnect_out (c : BitVec 16) {s : State} (h₀ : Out L₀ s₀ s)
    (hL : Key.sub tearDownOut L₀ = true) :
    Out L₀ s₀ (disconnect c s) := by
  unfold disconnect
  repeat'
    first
      | with_reducible assumption | with_reducible apply State.tearDown_out | exact Key.hasA rfl | exact Key.hasW
      | exact Out.sub hL rfl | intro _ | with_reducible apply Out.ite | split | dsimp only [id_eq]
      | (rename_i e; with_reducible refine Out.of_eq e ?_)

/-- What `controllerReset` may change. -/
def controllerResetOut : List Key :=
  [.w 2 8, .w 2 20, .w 2 24, .a 2 32 4, .w 2 5439488, .w 2 5505024, .w 3 8,
    .a 3 256 4, .a 4 4096 4, .a 4 16384 32, .a 4 16388 32, .a 4 16392 32, .a 4 16396 32, .a 4 16384000 268435456,
    .a 4 16449536 268435456, .w 6 8, .w 6 12, .w 7 12, .w 7 24, .w 7 28, .w 7 17956864, .w 9 8, .w 10 20, .w 10 24,
    .w 11 12, .a 11 32 4, .a 11 48 4, .w 11 84, .w 12 8, .w 13 8, .w 13 12, .w 13 76, .w 13 1572864, .w 13 2359296,
    .w 13 2424832, .w 13 20250624, .w 14 8, .w 14 12, .w 14 24, .w 14 84, .w 14 3211264, .w 14 3342336,
    .w 14 3407872, .w 14 3473408, .w 14 3538944, .w 14 4128768, .w 14 4194304, .w 14 4259840, .w 14 4325376,
    .w 14 4784128, .w 14 21692416, .w 14 21757952, .w 14 22675456, .w 14 22806528, .w 16 8, .w 16 12, .w 16 6094848,
    .w 16 8519680, .w 16 8585216, .w 16 8912896, .w 16 8978432, .w 16 9240576, .w 16 9306112, .w 16 9502720,
    .w 16 9568256, .w 16 9895936, .w 16 9961472, .w 16 10223616, .w 16 10551296, .w 16 10944512, .w 16 23068672,
    .w 16 23789568, .w 16 23855104, .w 16 24051712, .w 16 24444928, .w 17 13762560, .w 17 24510464, .w 18 8,
    .w 18 12, .w 18 72, .w 18 786432, .w 18 20578304, .w 19 12, .w 19 16, .w 19 1114112, .w 19 1179648,
    .a 19 1310720 268435456, .a 19 1376256 268435456, .a 19 22413312 268435456, .a 19 22478848 268435456, .w 22 8,
    .w 22 12, .w 22 24, .w 22 28, .w 64 6881280, .w 64 16711680, .a 65 22347776 268435456, .p .win, .p .free,
    .p .edges, .p .inbox, .p .chn, .p .seqs, .p .mcache, .p .pa, .p .jq, .p .jact, .p .jobNo, .p .cmds, .p .ctrls,
    .p .visit, .p .nss, .p .bands, .p .vol, .p .points, .p .mops, .p .test, .p .testLog, .p .errlog, .p .reqs,
    .p .nonces, .p .held, .p .pkt, .p .hbm, .p .poison, .p .lost, .p .kvLog, .p .stripes]

theorem controllerReset_out (c : BitVec 16) {s : State} (h₀ : Out L₀ s₀ s)
    (hL : Key.sub controllerResetOut L₀ = true) :
    Out L₀ s₀ (controllerReset c s) := by
  unfold controllerReset
  repeat'
    first
      | with_reducible assumption | with_reducible apply State.endTest_out | with_reducible apply State.tearDown_out
      | exact Key.hasA rfl | exact Key.hasW | exact Out.sub hL rfl | intro _ | with_reducible apply Out.ite | split
      | dsimp only [id_eq] | (rename_i e; with_reducible refine Out.of_eq e ?_)

/-- What `katoExpiry` may change. -/
def katoExpiryOut : List Key :=
  [.w 2 8, .w 2 12, .w 2 20, .w 2 24, .a 2 32 4, .w 2 76, .w 2 5439488,
    .w 2 5505024, .w 3 8, .a 3 256 4, .a 4 4096 4, .a 4 16384 32, .a 4 16388 32, .a 4 16392 32, .a 4 16396 32,
    .a 4 16384000 268435456, .a 4 16449536 268435456, .w 6 8, .w 6 12, .w 7 12, .w 7 24, .w 7 28, .w 7 17956864,
    .w 9 8, .w 10 20, .w 10 24, .w 11 12, .a 11 32 4, .a 11 48 4, .w 11 84, .w 12 8, .w 13 8, .w 13 12, .w 13 76,
    .w 13 1572864, .w 13 2359296, .w 13 2424832, .w 13 20250624, .w 14 8, .w 14 12, .w 14 24, .w 14 84,
    .w 14 3211264, .w 14 3342336, .w 14 3407872, .w 14 3473408, .w 14 3538944, .w 14 4128768, .w 14 4194304,
    .w 14 4259840, .w 14 4325376, .w 14 4784128, .w 14 21692416, .w 14 21757952, .w 14 22675456, .w 14 22806528,
    .w 16 8, .w 16 12, .w 16 6094848, .w 16 8519680, .w 16 8585216, .w 16 8912896, .w 16 8978432, .w 16 9240576,
    .w 16 9306112, .w 16 9502720, .w 16 9568256, .w 16 9895936, .w 16 9961472, .w 16 10223616, .w 16 10551296,
    .w 16 10944512, .w 16 23068672, .w 16 23789568, .w 16 23855104, .w 16 24051712, .w 16 24444928, .w 17 13762560,
    .w 17 24510464, .w 18 8, .w 18 12, .w 18 72, .w 18 786432, .w 18 20578304, .w 19 12, .w 19 16, .w 19 1114112,
    .w 19 1179648, .a 19 1310720 268435456, .a 19 1376256 268435456, .a 19 22413312 268435456,
    .a 19 22478848 268435456, .w 22 8, .w 22 12, .w 22 24, .w 22 28, .w 64 6881280, .w 64 16711680,
    .a 65 22347776 268435456, .p .win, .p .free, .p .edges, .p .inbox, .p .chn, .p .seqs, .p .mcache, .p .pa,
    .p .jq, .p .jact, .p .jobNo, .p .cmds, .p .ctrls, .p .visit, .p .nss, .p .bands, .p .vol, .p .points, .p .mops,
    .p .errlog, .p .reqs, .p .nonces, .p .held, .p .pkt, .p .hbm, .p .poison, .p .lost, .p .kvLog, .p .stripes]

theorem katoExpiry_out (c : BitVec 16) {s : State} (h₀ : Out L₀ s₀ s)
    (hL : Key.sub katoExpiryOut L₀ = true) :
    Out L₀ s₀ (katoExpiry c s) := by
  unfold katoExpiry
  repeat'
    first
      | with_reducible assumption | with_reducible apply State.tearDown_out | with_reducible apply Out.post
      | with_reducible apply Out.evt | with_reducible apply Out.count | exact Key.hasA rfl | exact Key.hasW
      | exact Out.sub hL rfl | intro _ | with_reducible apply Out.ite | split | dsimp only [id_eq]
      | (rename_i e; with_reducible refine Out.of_eq e ?_)

/-- What `keepAlive` may change. -/
def keepAliveOut : List Key :=
  [.w 2 8, .w 2 12, .w 2 20, .w 2 24, .a 2 32 4, .w 2 64, .w 2 68, .w 2 5439488,
    .w 2 5505024, .w 6 8, .w 6 12, .w 7 12, .w 7 24, .w 7 28, .w 7 17956864, .w 9 8, .w 10 20, .w 10 24, .w 11 12,
    .a 11 32 4, .a 11 48 4, .w 11 84, .w 12 8, .w 13 8, .w 13 12, .w 13 76, .w 13 1572864, .w 13 2359296,
    .w 13 2424832, .w 13 20250624, .w 14 8, .w 14 12, .w 14 24, .w 14 84, .w 14 3211264, .w 14 3342336,
    .w 14 3407872, .w 14 3473408, .w 14 3538944, .w 14 4128768, .w 14 4194304, .w 14 4259840, .w 14 4325376,
    .w 14 4784128, .w 14 21692416, .w 14 21757952, .w 14 22675456, .w 14 22806528, .w 16 8, .w 16 12, .w 16 6094848,
    .w 16 8519680, .w 16 8585216, .w 16 8912896, .w 16 8978432, .w 16 9240576, .w 16 9306112, .w 16 9502720,
    .w 16 9568256, .w 16 9895936, .w 16 9961472, .w 16 10223616, .w 16 10551296, .w 16 10944512, .w 16 23068672,
    .w 16 23789568, .w 16 23855104, .w 16 24051712, .w 16 24444928, .w 17 13762560, .w 17 24510464, .w 18 8,
    .w 18 12, .w 18 72, .w 18 786432, .w 18 20578304, .w 19 12, .w 19 16, .w 19 1114112, .w 19 1179648,
    .a 19 1310720 268435456, .a 19 1376256 268435456, .a 19 22413312 268435456, .a 19 22478848 268435456, .w 22 8,
    .w 22 12, .w 22 28, .w 64 6881280, .w 64 16711680, .a 65 22347776 268435456, .p .win, .p .free, .p .edges,
    .p .inbox, .p .chn, .p .seqs, .p .mcache, .p .pa, .p .jq, .p .jact, .p .jobNo, .p .cmds, .p .cmdNo, .p .cqs,
    .p .nss, .p .zones, .p .bands, .p .vol, .p .points, .p .mops, .p .errlog, .p .pkt, .p .hbm, .p .poison,
    .p .lost, .p .kvLog, .p .stripes]

theorem keepAlive_out (id : CmdId) {s : State} (h₀ : Out L₀ s₀ s)
    (hL : Key.sub keepAliveOut L₀ = true) :
    Out L₀ s₀ (keepAlive id s) := by
  unfold keepAlive
  repeat'
    first
      | with_reducible assumption | with_reducible apply State.admin_out | with_reducible apply State.answer_out
      | exact Key.hasA rfl | exact Key.hasW | exact Out.sub hL rfl | intro _ | with_reducible apply Out.ite | split
      | dsimp only [id_eq] | (rename_i e; with_reducible refine Out.of_eq e ?_)

theorem State.withCtrl_out {s : State} (id : CmdId) (f : Ctrl → Ctrl) (h₀ : Out L₀ s₀ s)
    (hL : Key.sub noticeOut L₀ = true) :
    Out L₀ s₀ (State.withCtrl s id f) := by
  unfold State.withCtrl
  repeat'
    first
      | with_reducible assumption | with_reducible apply State.answer_out | with_reducible apply State.setCtrl_out
      | exact Key.hasA rfl | exact Key.hasW | exact Out.sub hL rfl | intro _ | with_reducible apply Out.ite | split
      | dsimp only [id_eq] | (rename_i e; with_reducible refine Out.of_eq e ?_)

theorem nvmeIdentify_out (id : CmdId) (cns : BitVec 8) (csi : BitVec 8) (nsid : BitVec 32) {s : State} (h₀ : Out L₀ s₀ s)
    (hL : Key.sub keepAliveOut L₀ = true) :
    Out L₀ s₀ (nvmeIdentify id cns csi nsid s) := by
  unfold nvmeIdentify
  repeat'
    first
      | with_reducible assumption | with_reducible apply State.admin_out | with_reducible apply State.complete_out
      | with_reducible apply State.answer_out | exact Key.hasA rfl | exact Key.hasW | exact Out.sub hL rfl | intro _
      | with_reducible apply Out.ite | split | dsimp only [id_eq]
      | (rename_i e; with_reducible refine Out.of_eq e ?_)

/-- What `getLogPage` may change. -/
def getLogPageOut : List Key :=
  [.w 2 8, .w 2 12, .w 2 20, .w 2 24, .a 2 32 4, .w 2 64, .w 2 68, .w 2 5439488,
    .w 2 5505024, .w 6 8, .w 6 12, .w 7 12, .w 7 24, .w 7 28, .w 7 17956864, .w 9 8, .w 10 20, .w 10 24, .w 11 12,
    .a 11 32 4, .a 11 48 4, .w 11 84, .w 12 8, .w 13 8, .w 13 12, .w 13 76, .w 13 1572864, .w 13 2359296,
    .w 13 2424832, .w 13 20250624, .w 14 8, .w 14 12, .w 14 24, .w 14 84, .w 14 3211264, .w 14 3342336,
    .w 14 3407872, .w 14 3473408, .w 14 3538944, .w 14 4128768, .w 14 4194304, .w 14 4259840, .w 14 4325376,
    .w 14 4784128, .w 14 21692416, .w 14 21757952, .w 14 22675456, .w 14 22806528, .w 16 8, .w 16 12, .w 16 6094848,
    .w 16 8519680, .w 16 8585216, .w 16 8912896, .w 16 8978432, .w 16 9240576, .w 16 9306112, .w 16 9502720,
    .w 16 9568256, .w 16 9895936, .w 16 9961472, .w 16 10223616, .w 16 10551296, .w 16 10944512, .w 16 23068672,
    .w 16 23789568, .w 16 23855104, .w 16 24051712, .w 16 24444928, .w 17 13762560, .w 17 24510464, .w 18 8,
    .w 18 12, .w 18 72, .w 18 786432, .w 18 20578304, .w 19 12, .w 19 16, .w 19 1114112, .w 19 1179648,
    .a 19 1310720 268435456, .a 19 1376256 268435456, .a 19 22413312 268435456, .a 19 22478848 268435456, .w 22 8,
    .w 22 12, .w 22 28, .w 64 6881280, .w 64 16711680, .a 65 22347776 268435456, .p .win, .p .free, .p .edges,
    .p .inbox, .p .chn, .p .seqs, .p .mcache, .p .pa, .p .jq, .p .jact, .p .jobNo, .p .cmds, .p .cmdNo, .p .cqs,
    .p .ctrls, .p .nss, .p .zones, .p .bands, .p .vol, .p .points, .p .mops, .p .errlog, .p .pkt, .p .hbm,
    .p .poison, .p .lost, .p .kvLog, .p .stripes]

theorem getLogPage_out (id : CmdId) (lid : BitVec 8) (nsid : BitVec 32) {s : State} (h₀ : Out L₀ s₀ s)
    (hL : Key.sub getLogPageOut L₀ = true) :
    Out L₀ s₀ (getLogPage id lid nsid s) := by
  unfold getLogPage
  repeat'
    first
      | with_reducible assumption | with_reducible apply State.admin_out | with_reducible apply State.complete_out
      | with_reducible apply State.setCtrl_out | with_reducible apply State.answer_out | exact Key.hasA rfl
      | exact Key.hasW | exact Out.sub hL rfl | intro _ | with_reducible apply Out.ite | split | dsimp only [id_eq]
      | (rename_i e; with_reducible refine Out.of_eq e ?_)

theorem getFeatures_out (id : CmdId) (fid : BitVec 8) (nsid : BitVec 32) (dw11 : BitVec 32) {s : State} (h₀ : Out L₀ s₀ s)
    (hL : Key.sub keepAliveOut L₀ = true) :
    Out L₀ s₀ (getFeatures id fid nsid dw11 s) := by
  unfold getFeatures
  repeat'
    first
      | with_reducible assumption | with_reducible apply State.admin_out | with_reducible apply State.complete_out
      | with_reducible apply State.answer_out | exact Key.hasA rfl | exact Key.hasW | exact Out.sub hL rfl | intro _
      | with_reducible apply Out.ite | split | dsimp only [id_eq]
      | (rename_i e; with_reducible refine Out.of_eq e ?_)

theorem arbitration_out (id : CmdId) (ab : BitVec 3) {s : State} (h₀ : Out L₀ s₀ s)
    (hL : Key.sub keepAliveOut L₀ = true) :
    Out L₀ s₀ (arbitration id ab s) := by
  unfold arbitration
  repeat'
    first
      | with_reducible assumption | with_reducible apply State.admin_out | with_reducible apply State.answer_out
      | exact Key.hasA rfl | exact Key.hasW | exact Out.sub hL rfl | intro _ | with_reducible apply Out.ite | split
      | dsimp only [id_eq] | (rename_i e; with_reducible refine Out.of_eq e ?_)

/-- What `powerManagement` may change. -/
def powerManagementOut : List Key :=
  [.w 2 8, .w 2 12, .w 2 20, .w 2 24, .a 2 32 4, .w 2 64, .w 2 68,
    .w 2 5439488, .w 2 5505024, .w 6 8, .w 6 12, .w 7 12, .w 7 24, .w 7 28, .w 7 17956864, .w 9 8, .w 10 20,
    .w 10 24, .w 11 12, .a 11 32 4, .a 11 48 4, .w 11 84, .w 12 8, .w 13 8, .w 13 12, .w 13 76, .w 13 1572864,
    .w 13 2359296, .w 13 2424832, .w 13 20250624, .w 14 8, .w 14 12, .w 14 24, .w 14 84, .w 14 3211264,
    .w 14 3342336, .w 14 3407872, .w 14 3473408, .w 14 3538944, .w 14 4128768, .w 14 4194304, .w 14 4259840,
    .w 14 4325376, .w 14 4784128, .w 14 21692416, .w 14 21757952, .w 14 22675456, .w 14 22806528, .w 16 8, .w 16 12,
    .w 16 6094848, .w 16 8519680, .w 16 8585216, .w 16 8912896, .w 16 8978432, .w 16 9240576, .w 16 9306112,
    .w 16 9502720, .w 16 9568256, .w 16 9895936, .w 16 9961472, .w 16 10223616, .w 16 10551296, .w 16 10944512,
    .w 16 23068672, .w 16 23789568, .w 16 23855104, .w 16 24051712, .w 16 24444928, .w 17 13762560, .w 17 24510464,
    .w 18 8, .w 18 12, .w 18 72, .w 18 786432, .w 18 20578304, .w 19 12, .w 19 16, .w 19 1114112, .w 19 1179648,
    .a 19 1310720 268435456, .a 19 1376256 268435456, .a 19 22413312 268435456, .a 19 22478848 268435456, .w 22 8,
    .w 22 12, .w 22 20, .w 22 24, .w 22 28, .w 64 6881280, .w 64 16711680, .a 65 22347776 268435456, .p .win,
    .p .free, .p .edges, .p .inbox, .p .chn, .p .seqs, .p .mcache, .p .pa, .p .jq, .p .jact, .p .jobNo, .p .cmds,
    .p .cmdNo, .p .cqs, .p .nss, .p .zones, .p .bands, .p .vol, .p .points, .p .mops, .p .errlog, .p .pkt, .p .hbm,
    .p .poison, .p .lost, .p .kvLog, .p .stripes]

theorem powerManagement_out (id : CmdId) (ps : BitVec 5) {s : State} (h₀ : Out L₀ s₀ s)
    (hL : Key.sub powerManagementOut L₀ = true) :
    Out L₀ s₀ (powerManagement id ps s) := by
  unfold powerManagement
  repeat'
    first
      | with_reducible assumption | with_reducible apply State.admin_out | with_reducible apply State.answer_out
      | with_reducible apply State.setBudget_out | exact Key.hasA rfl | exact Key.hasW | exact Out.sub hL rfl
      | intro _ | with_reducible apply Out.ite | split | dsimp only [id_eq]
      | (rename_i e; with_reducible refine Out.of_eq e ?_)

theorem temperatureThreshold_out (id : CmdId) (tmpsel : BitVec 4) (under : Bool) (kelvin : BitVec 16) {s : State} (h₀ : Out L₀ s₀ s)
    (hL : Key.sub getLogPageOut L₀ = true) :
    Out L₀ s₀ (temperatureThreshold id tmpsel under kelvin s) := by
  unfold temperatureThreshold
  repeat'
    first
      | with_reducible assumption | with_reducible apply State.admin_out | with_reducible apply State.answer_out
      | with_reducible apply State.withCtrl_out | exact Key.hasA rfl | exact Key.hasW | exact Out.sub hL rfl
      | intro _ | with_reducible apply Out.ite | split | dsimp only [id_eq]
      | (rename_i e; with_reducible refine Out.of_eq e ?_)

/-- What `volatileWriteCache` may change. -/
def volatileWriteCacheOut : List Key :=
  [.w 2 8, .w 2 12, .w 2 20, .w 2 24, .a 2 32 4, .w 2 64, .w 2 68,
    .w 2 5439488, .w 2 5505024, .w 6 8, .w 6 12, .w 7 12, .w 7 24, .w 7 28, .w 7 17956864, .w 9 8, .w 10 20,
    .w 10 24, .w 11 12, .a 11 32 4, .a 11 48 4, .w 11 84, .w 12 8, .w 13 8, .w 13 12, .w 13 76, .w 13 1572864,
    .w 13 2359296, .w 13 2424832, .w 13 20250624, .w 14 8, .w 14 12, .w 14 24, .w 14 84, .w 14 3211264,
    .w 14 3342336, .w 14 3407872, .w 14 3473408, .w 14 3538944, .w 14 4128768, .w 14 4194304, .w 14 4259840,
    .w 14 4325376, .w 14 4784128, .w 14 21692416, .w 14 21757952, .w 14 22675456, .w 14 22806528, .w 16 8, .w 16 12,
    .w 16 6094848, .w 16 8519680, .w 16 8585216, .w 16 8912896, .w 16 8978432, .w 16 9240576, .w 16 9306112,
    .w 16 9502720, .w 16 9568256, .w 16 9895936, .w 16 9961472, .w 16 10223616, .w 16 10551296, .w 16 10944512,
    .w 16 23068672, .w 16 23789568, .w 16 23855104, .w 16 24051712, .w 16 24444928, .w 17 13762560, .w 17 24510464,
    .w 18 8, .w 18 12, .w 18 72, .w 18 786432, .w 18 20578304, .w 19 12, .w 19 16, .w 19 1114112, .w 19 1179648,
    .a 19 1310720 268435456, .a 19 1376256 268435456, .a 19 22413312 268435456, .a 19 22478848 268435456, .w 22 8,
    .w 22 12, .w 22 28, .w 64 6881280, .w 64 16711680, .a 65 22347776 268435456, .w 66 5570560, .p .win, .p .free,
    .p .edges, .p .inbox, .p .chn, .p .seqs, .p .mcache, .p .pa, .p .jq, .p .jact, .p .jobNo, .p .cmds, .p .cmdNo,
    .p .cqs, .p .nss, .p .zones, .p .bands, .p .vol, .p .points, .p .mops, .p .errlog, .p .pkt, .p .hbm, .p .poison,
    .p .lost, .p .kvLog, .p .stripes]

theorem volatileWriteCache_out (id : CmdId) (wce : Bool) {s : State} (h₀ : Out L₀ s₀ s)
    (hL : Key.sub volatileWriteCacheOut L₀ = true) :
    Out L₀ s₀ (volatileWriteCache id wce s) := by
  unfold volatileWriteCache
  repeat'
    first
      | with_reducible assumption | with_reducible apply State.admin_out | with_reducible apply State.answer_out
      | with_reducible apply Out.put | exact Key.hasA rfl | exact Key.hasW | exact Out.sub hL rfl | intro _
      | with_reducible apply Out.ite | split | dsimp only [id_eq]
      | (rename_i e; with_reducible refine Out.of_eq e ?_)

theorem numberOfQueues_out (id : CmdId) (nsq : BitVec 16) (ncq : BitVec 16) {s : State} (h₀ : Out L₀ s₀ s)
    (hL : Key.sub getLogPageOut L₀ = true) :
    Out L₀ s₀ (numberOfQueues id nsq ncq s) := by
  unfold numberOfQueues
  repeat'
    first
      | with_reducible assumption | with_reducible apply State.admin_out | with_reducible apply State.answer_out
      | with_reducible apply State.complete_out | with_reducible apply State.setCtrl_out | exact Key.hasA rfl
      | exact Key.hasW | exact Out.sub hL rfl | intro _ | with_reducible apply Out.ite | split | dsimp only [id_eq]
      | (rename_i e; with_reducible refine Out.of_eq e ?_)

theorem asyncConfig_out (id : CmdId) (v : BitVec 32) {s : State} (h₀ : Out L₀ s₀ s)
    (hL : Key.sub getLogPageOut L₀ = true) :
    Out L₀ s₀ (asyncConfig id v s) := by
  unfold asyncConfig
  repeat'
    first
      | with_reducible assumption | with_reducible apply State.admin_out | with_reducible apply State.withCtrl_out
      | exact Key.hasA rfl | exact Key.hasW | exact Out.sub hL rfl | intro _ | with_reducible apply Out.ite | split
      | dsimp only [id_eq] | (rename_i e; with_reducible refine Out.of_eq e ?_)

theorem keepAliveTimer_out (id : CmdId) (kato : BitVec 32) {s : State} (h₀ : Out L₀ s₀ s)
    (hL : Key.sub getLogPageOut L₀ = true) :
    Out L₀ s₀ (keepAliveTimer id kato s) := by
  unfold keepAliveTimer
  repeat'
    first
      | with_reducible assumption | with_reducible apply State.admin_out | with_reducible apply State.withCtrl_out
      | with_reducible apply State.answer_out | exact Key.hasA rfl | exact Key.hasW | exact Out.sub hL rfl | intro _
      | with_reducible apply Out.ite | split | dsimp only [id_eq]
      | (rename_i e; with_reducible refine Out.of_eq e ?_)

theorem hostIdentifier_out (id : CmdId) (exhid : Bool) (v : BitVec 128) {s : State} (h₀ : Out L₀ s₀ s)
    (hL : Key.sub getLogPageOut L₀ = true) :
    Out L₀ s₀ (hostIdentifier id exhid v s) := by
  unfold hostIdentifier
  repeat'
    first
      | with_reducible assumption | with_reducible apply State.admin_out | with_reducible apply State.withCtrl_out
      | with_reducible apply State.answer_out | exact Key.hasA rfl | exact Key.hasW | exact Out.sub hL rfl | intro _
      | with_reducible apply Out.ite | split | dsimp only [id_eq]
      | (rename_i e; with_reducible refine Out.of_eq e ?_)

theorem latencyBudget_out (id : CmdId) (nsid : BitVec 32) (us : BitVec 32) {s : State} (h₀ : Out L₀ s₀ s)
    (hL : Key.sub powerManagementOut L₀ = true) :
    Out L₀ s₀ (latencyBudget id nsid us s) := by
  unfold latencyBudget
  repeat'
    first
      | with_reducible assumption | with_reducible apply State.admin_out | with_reducible apply State.setBudget_out
      | with_reducible apply State.answer_out | exact Key.hasA rfl | exact Key.hasW | exact Out.sub hL rfl | intro _
      | with_reducible apply Out.ite | split | dsimp only [id_eq]
      | (rename_i e; with_reducible refine Out.of_eq e ?_)

theorem asyncRequest_out (id : CmdId) {s : State} (h₀ : Out L₀ s₀ s)
    (hL : Key.sub getLogPageOut L₀ = true) :
    Out L₀ s₀ (asyncRequest id s) := by
  unfold asyncRequest
  repeat'
    first
      | with_reducible assumption | with_reducible apply State.admin_out | with_reducible apply State.complete_out
      | with_reducible apply State.setCtrl_out | with_reducible apply State.answer_out
      | with_reducible apply State.unflight_out | exact Key.hasA rfl | exact Key.hasW | exact Out.sub hL rfl
      | intro _ | with_reducible apply Out.ite | split | dsimp only [id_eq]
      | (rename_i e; with_reducible refine Out.of_eq e ?_)

/-- What `abortCmd` may change. -/
def abortCmdOut : List Key :=
  [.w 2 8, .w 2 12, .w 2 20, .w 2 24, .a 2 32 4, .w 2 64, .w 2 68, .w 2 80,
    .w 2 5439488, .w 2 5505024, .w 6 8, .w 6 12, .w 7 12, .w 7 24, .w 7 28, .w 7 17956864, .w 9 8, .w 10 20,
    .w 10 24, .w 11 12, .a 11 32 4, .a 11 48 4, .w 11 84, .w 12 8, .w 13 8, .w 13 12, .w 13 76, .w 13 1572864,
    .w 13 2359296, .w 13 2424832, .w 13 20250624, .w 14 8, .w 14 12, .w 14 24, .w 14 84, .w 14 3211264,
    .w 14 3342336, .w 14 3407872, .w 14 3473408, .w 14 3538944, .w 14 4128768, .w 14 4194304, .w 14 4259840,
    .w 14 4325376, .w 14 4784128, .w 14 21692416, .w 14 21757952, .w 14 22675456, .w 14 22806528, .w 16 8, .w 16 12,
    .w 16 6094848, .w 16 8519680, .w 16 8585216, .w 16 8912896, .w 16 8978432, .w 16 9240576, .w 16 9306112,
    .w 16 9502720, .w 16 9568256, .w 16 9895936, .w 16 9961472, .w 16 10223616, .w 16 10551296, .w 16 10944512,
    .w 16 23068672, .w 16 23789568, .w 16 23855104, .w 16 24051712, .w 16 24444928, .w 17 13762560, .w 17 24510464,
    .w 18 8, .w 18 12, .w 18 72, .w 18 786432, .w 18 20578304, .w 19 12, .w 19 16, .w 19 1114112, .w 19 1179648,
    .a 19 1310720 268435456, .a 19 1376256 268435456, .a 19 22413312 268435456, .a 19 22478848 268435456, .w 22 8,
    .w 22 12, .w 22 28, .w 64 6881280, .w 64 16711680, .a 65 22347776 268435456, .p .win, .p .free, .p .edges,
    .p .inbox, .p .chn, .p .seqs, .p .mcache, .p .pa, .p .jq, .p .jact, .p .jobNo, .p .cmds, .p .cmdNo, .p .cqs,
    .p .nss, .p .zones, .p .bands, .p .vol, .p .points, .p .mops, .p .errlog, .p .pkt, .p .hbm, .p .poison,
    .p .lost, .p .kvLog, .p .stripes]

theorem abortCmd_out (id : CmdId) (sqid : BitVec 16) (cid : BitVec 16) (inQueue : Bool) {s : State} (h₀ : Out L₀ s₀ s)
    (hL : Key.sub abortCmdOut L₀ = true) :
    Out L₀ s₀ (abortCmd id sqid cid inQueue s) := by
  unfold abortCmd
  repeat'
    first
      | with_reducible assumption | with_reducible apply State.admin_out | with_reducible apply State.complete_out
      | with_reducible apply Out.count | exact Key.hasA rfl | exact Key.hasW | exact Out.sub hL rfl | intro _
      | with_reducible apply Out.ite | split | dsimp only [id_eq]
      | (rename_i e; with_reducible refine Out.of_eq e ?_)

theorem unsupportedOpcode_out (id : CmdId) {s : State} (h₀ : Out L₀ s₀ s)
    (hL : Key.sub keepAliveOut L₀ = true) :
    Out L₀ s₀ (unsupportedOpcode id s) := by
  unfold unsupportedOpcode
  repeat'
    first
      | with_reducible assumption | with_reducible apply State.admin_out | with_reducible apply State.answer_out
      | exact Key.hasA rfl | exact Key.hasW | exact Out.sub hL rfl | intro _ | with_reducible apply Out.ite | split
      | dsimp only [id_eq] | (rename_i e; with_reducible refine Out.of_eq e ?_)

theorem State.layZone_out {s t : State} (nsid mask i : Nat) (h : Out L₀ s₀ s) (hL : Key.sub [.a 11 32 4, .a 11 48 4, .p .free, .p .zones, .p .bands] L₀ = true)
    (e : State.layZone s nsid mask i = some t) : Out L₀ s₀ t := by
  unfold State.layZone at e
  dsimp only at e
  split at e
  · cases e
  · cases e
    exact State.setZone_out _ _ _ (Out.forAll _ (fun x u hu => State.setBand_out _ _ hu (Out.sub hL rfl)) _
      (Out.drew h (Out.sub hL rfl))) (Out.sub hL rfl)

theorem State.layZones_out (nsid mask : Nat) (l : List Nat) : ∀ {s t : State}, Out L₀ s₀ s → Key.sub [.a 11 32 4, .a 11 48 4, .p .free, .p .zones, .p .bands] L₀ = true →
    State.layZones nsid mask l s = some t → Out L₀ s₀ t := by
  induction l with
  | nil => intro s t h _ e; cases e; exact h
  | cons i l ih =>
    intro s t h hL e
    unfold State.layZones at e
    split at e
    · rename_i u hu
      exact ih (State.layZone_out _ _ _ h hL hu) hL e
    · cases e

theorem State.drawBands_out {s : State} (a n : Nat) (h : Out L₀ s₀ s) (hL : Key.sub [.a 11 32 4, .a 11 48 4, .p .bands] L₀ = true) {x : State × List Nat}
    (e : State.drawBands s a n = some x) : Out L₀ s₀ x.1 := by
  unfold State.drawBands at e
  dsimp only at e
  split at e
  · cases e
  · cases e
    exact Out.forAll _ (fun x u hu => State.setBand_out _ _ hu hL) _ h

theorem State.drawAll_out (need : Nat → Nat) (l : List Nat) : ∀ {s : State} {x : State × List Nat}, Out L₀ s₀ s →
    Key.sub [.a 11 32 4, .a 11 48 4, .p .bands] L₀ = true → State.drawAll need l s = some x → Out L₀ s₀ x.1 := by
  induction l with
  | nil => intro s x h _ e; cases e; exact h
  | cons a l ih =>
    intro s x h hL e
    unfold State.drawAll at e
    split at e
    · cases e
    · rename_i z hz
      obtain ⟨y, hy, rfl⟩ := Option.map_eq_some_iff.mp e
      have hk := ih (State.drawBands_out _ _ h hL hz) hL hy
      exact hk

/-- What `State.makeNs` may change. -/
def makeNsOut : List Key :=
  [.w 8 8, .a 11 32 4, .a 11 48 4, .p .free, .p .inbox, .p .nss, .p .zones, .p .bands]

theorem State.makeNs_out {s : State} (csi : Nat) (nsze : Nat) (frag : Bool) (nsid : Nat) (h₀ : Out L₀ s₀ s)
    (hL : Key.sub makeNsOut L₀ = true) :
    Out L₀ s₀ (State.makeNs s csi nsze frag nsid).1 := by
  unfold State.makeNs
  repeat'
    first
      | with_reducible assumption | with_reducible apply Out.post | with_reducible apply Out.when
      | with_reducible apply State.setNs_out | with_reducible apply Out.bump | exact Key.hasA rfl | exact Key.hasW
      | exact Out.sub hL rfl | (rename_i heq; with_reducible refine State.layZones_out _ _ _ ?_ ?_ heq)
      | (rename_i heq; with_reducible refine State.drawAll_out _ _ ?_ ?_ heq) | intro _
      | with_reducible apply Out.ite | split | dsimp only [id_eq]
      | (rename_i e; with_reducible refine Out.of_eq e ?_)

/-- What `namespaceCreate` may change. -/
def namespaceCreateOut : List Key :=
  [.w 2 8, .w 2 12, .w 2 20, .w 2 24, .a 2 32 4, .w 2 64, .w 2 68,
    .w 2 5439488, .w 2 5505024, .w 6 8, .w 6 12, .w 7 12, .w 7 24, .w 7 28, .w 7 17956864, .w 8 8, .w 9 8, .w 10 20,
    .w 10 24, .w 11 12, .a 11 32 4, .a 11 48 4, .w 11 84, .w 12 8, .w 13 8, .w 13 12, .w 13 76, .w 13 1572864,
    .w 13 2359296, .w 13 2424832, .w 13 20250624, .w 14 8, .w 14 12, .w 14 24, .w 14 84, .w 14 3211264,
    .w 14 3342336, .w 14 3407872, .w 14 3473408, .w 14 3538944, .w 14 4128768, .w 14 4194304, .w 14 4259840,
    .w 14 4325376, .w 14 4784128, .w 14 21692416, .w 14 21757952, .w 14 22675456, .w 14 22806528, .w 16 8, .w 16 12,
    .w 16 6094848, .w 16 8519680, .w 16 8585216, .w 16 8912896, .w 16 8978432, .w 16 9240576, .w 16 9306112,
    .w 16 9502720, .w 16 9568256, .w 16 9895936, .w 16 9961472, .w 16 10223616, .w 16 10551296, .w 16 10944512,
    .w 16 23068672, .w 16 23789568, .w 16 23855104, .w 16 24051712, .w 16 24444928, .w 17 13762560, .w 17 24510464,
    .w 18 8, .w 18 12, .w 18 72, .w 18 786432, .w 18 20578304, .w 19 12, .w 19 16, .w 19 1114112, .w 19 1179648,
    .a 19 1310720 268435456, .a 19 1376256 268435456, .a 19 22413312 268435456, .a 19 22478848 268435456, .w 22 8,
    .w 22 12, .w 22 28, .w 64 6881280, .w 64 16711680, .a 65 22347776 268435456, .p .win, .p .free, .p .edges,
    .p .inbox, .p .chn, .p .seqs, .p .mcache, .p .pa, .p .jq, .p .jact, .p .jobNo, .p .cmds, .p .cmdNo, .p .cqs,
    .p .nss, .p .zones, .p .bands, .p .vol, .p .points, .p .mops, .p .errlog, .p .pkt, .p .hbm, .p .poison,
    .p .lost, .p .kvLog, .p .stripes]

theorem namespaceCreate_out (id : CmdId) (csi : BitVec 8) (nsze : BitVec 64) (ncap : BitVec 64) (lbaf : BitVec 8) (pi : BitVec 8) {s : State} (h₀ : Out L₀ s₀ s)
    (hL : Key.sub namespaceCreateOut L₀ = true) :
    Out L₀ s₀ (namespaceCreate id csi nsze ncap lbaf pi s) := by
  unfold namespaceCreate
  repeat'
    first
      | with_reducible assumption | with_reducible apply State.admin_out | with_reducible apply State.answer_out
      | with_reducible apply State.makeNs_out | with_reducible apply State.complete_out | exact Key.hasA rfl
      | exact Key.hasW | exact Out.sub hL rfl | intro _ | with_reducible apply Out.ite | split | dsimp only [id_eq]
      | (rename_i e; with_reducible refine Out.of_eq e ?_)

theorem State.nsChanged_out {s : State} (cs : List Nat) (nsid : Nat) (h₀ : Out L₀ s₀ s)
    (hL : Key.sub noticeOut L₀ = true) :
    Out L₀ s₀ (State.nsChanged s cs nsid) := by
  unfold State.nsChanged
  repeat'
    first
      | with_reducible assumption | with_reducible apply State.noticeAll_out | with_reducible apply Out.forAll
      | with_reducible apply State.setCtrl_out | exact Key.hasA rfl | exact Key.hasW | exact Out.sub hL rfl | intro _
      | with_reducible apply Out.ite | split | dsimp only [id_eq]
      | (rename_i e; with_reducible refine Out.of_eq e ?_)

theorem State.abandonNs_out {s : State} (nsid : Nat) (h₀ : Out L₀ s₀ s)
    (hL : Key.sub weakTrackOut L₀ = true) :
    Out L₀ s₀ (State.abandonNs s nsid) := by
  unfold State.abandonNs
  repeat'
    first
      | with_reducible assumption | with_reducible apply Out.forAll | with_reducible apply State.abandonOp_out
      | with_reducible apply State.reclaimNext_out | exact Key.hasA rfl | exact Key.hasW | exact Out.sub hL rfl
      | intro _ | with_reducible apply Out.ite | split | dsimp only [id_eq]
      | (rename_i e; with_reducible refine Out.of_eq e ?_)

theorem State.dropKv_out {s : State} (nsid : Nat) (h₀ : Out L₀ s₀ s)
    (hL : Key.sub [.p .kvLog, .p .kvDur, .p .stripes] L₀ = true) :
    Out L₀ s₀ (State.dropKv s nsid) := by
  unfold State.dropKv
  repeat'
    first
      | with_reducible assumption | exact Key.hasA rfl | exact Key.hasW | exact Out.sub hL rfl | intro _
      | with_reducible apply Out.ite | split | dsimp only [id_eq]
      | (rename_i e; with_reducible refine Out.of_eq e ?_) | with_reducible apply Out.setKvLogKvDurStripes

theorem State.removeNs_out {s : State} (nsid : Nat) (drained : Nat) (ms : Nat) (h₀ : Out L₀ s₀ s)
    (hL : Key.sub [.w 2 8, .w 2 20, .w 2 24, .a 2 32 4, .w 2 5439488, .w 2 5505024, .w 6 8, .w 6 12, .w 7 12, .w 7 24, .w 7 28,
    .w 7 17956864, .w 8 8, .w 9 8, .w 10 20, .w 10 24, .w 11 8, .w 11 12, .a 11 32 4, .a 11 48 4, .w 11 84, .w 12 8,
    .w 13 8, .w 13 12, .w 13 76, .w 13 1572864, .w 13 2359296, .w 13 2424832, .w 13 20250624, .w 14 8, .w 14 12,
    .w 14 24, .w 14 84, .w 14 3211264, .w 14 3342336, .w 14 3407872, .w 14 3473408, .w 14 3538944, .w 14 4128768,
    .w 14 4194304, .w 14 4259840, .w 14 4325376, .w 14 4784128, .w 14 21692416, .w 14 21757952, .w 14 22675456,
    .w 14 22806528, .w 16 8, .w 16 12, .w 16 6094848, .w 16 8519680, .w 16 8585216, .w 16 8912896, .w 16 8978432,
    .w 16 9240576, .w 16 9306112, .w 16 9502720, .w 16 9568256, .w 16 9895936, .w 16 9961472, .w 16 10223616,
    .w 16 10551296, .w 16 10944512, .w 16 23068672, .w 16 23789568, .w 16 23855104, .w 16 24051712, .w 16 24444928,
    .w 17 13762560, .w 17 24510464, .w 18 8, .w 18 12, .w 18 72, .w 18 786432, .w 18 20578304, .w 19 12, .w 19 16,
    .w 19 1114112, .w 19 1179648, .a 19 1310720 268435456, .a 19 1376256 268435456, .a 19 22413312 268435456,
    .a 19 22478848 268435456, .w 20 8, .w 20 12, .a 20 32 4, .w 22 8, .w 22 12, .w 22 24, .w 22 28, .w 64 6881280,
    .w 64 16711680, .a 65 15335424 268435456, .a 65 15400960 268435456, .a 65 22347776 268435456, .p .win, .p .free,
    .p .edges, .p .inbox, .p .chn, .p .seqs, .p .mcache, .p .pa, .p .jq, .p .jact, .p .jobNo, .p .cmds, .p .cqs,
    .p .ctrls, .p .nss, .p .zones, .p .bands, .p .vol, .p .dur, .p .points, .p .mops, .p .opid, .p .journal,
    .p .jseq, .p .test, .p .testLog, .p .blks, .p .fops, .p .fwait, .p .errlog, .p .pkt, .p .hbm, .p .poison,
    .p .lost, .p .kvLog, .p .kvDur, .p .stripes, .p .weakSlots] L₀ = true) :
    Out L₀ s₀ (State.removeNs s nsid drained ms) := by
  unfold State.removeNs
  repeat'
    first
      | with_reducible assumption | with_reducible apply Out.forAll | with_reducible apply State.abandonNs_out
      | with_reducible apply State.freeBand_out | with_reducible apply State.dropKv_out
      | with_reducible apply State.dropNs_out | with_reducible apply Out.when | with_reducible apply State.setNs_out
      | with_reducible apply Out.put | with_reducible apply State.endTest_out
      | with_reducible apply State.budgetChanged_out | with_reducible apply State.nsChanged_out
      | with_reducible apply Out.post | exact Key.hasA rfl | exact Key.hasW | exact Out.sub hL rfl | intro _
      | with_reducible apply Out.ite | split | dsimp only [id_eq]
      | (rename_i e; with_reducible refine Out.of_eq e ?_) | with_reducible apply Out.setZones

theorem namespaceDelete_out (id : CmdId) (nsid : BitVec 32) {s : State} (h₀ : Out L₀ s₀ s)
    (hL : Key.sub keepAliveOut L₀ = true) :
    Out L₀ s₀ (namespaceDelete id nsid s) := by
  unfold namespaceDelete
  repeat'
    first
      | with_reducible assumption | with_reducible apply State.admin_out | with_reducible apply State.answer_out
      | with_reducible apply Out.forAll | with_reducible apply State.setNs_out
      | with_reducible apply State.drainDeletes_out | with_reducible apply State.updCmd_out | exact Key.hasA rfl
      | exact Key.hasW | exact Out.sub hL rfl | intro _ | with_reducible apply Out.ite | split | dsimp only [id_eq]
      | (rename_i e; with_reducible refine Out.of_eq e ?_)

/-- What `namespaceAttachment` may change. -/
def namespaceAttachmentOut : List Key :=
  [.w 2 8, .w 2 12, .w 2 20, .w 2 24, .a 2 32 4, .w 2 64, .w 2 68,
    .w 2 5439488, .w 2 5505024, .w 6 8, .w 6 12, .w 7 12, .w 7 24, .w 7 28, .w 7 17956864, .w 9 8, .w 10 20,
    .w 10 24, .w 11 12, .a 11 32 4, .a 11 48 4, .w 11 84, .w 12 8, .w 13 8, .w 13 12, .w 13 76, .w 13 1572864,
    .w 13 2359296, .w 13 2424832, .w 13 20250624, .w 14 8, .w 14 12, .w 14 24, .w 14 84, .w 14 3211264,
    .w 14 3342336, .w 14 3407872, .w 14 3473408, .w 14 3538944, .w 14 4128768, .w 14 4194304, .w 14 4259840,
    .w 14 4325376, .w 14 4784128, .w 14 21692416, .w 14 21757952, .w 14 22675456, .w 14 22806528, .w 16 8, .w 16 12,
    .w 16 6094848, .w 16 8519680, .w 16 8585216, .w 16 8912896, .w 16 8978432, .w 16 9240576, .w 16 9306112,
    .w 16 9502720, .w 16 9568256, .w 16 9895936, .w 16 9961472, .w 16 10223616, .w 16 10551296, .w 16 10944512,
    .w 16 23068672, .w 16 23789568, .w 16 23855104, .w 16 24051712, .w 16 24444928, .w 17 13762560, .w 17 24510464,
    .w 18 8, .w 18 12, .w 18 72, .w 18 786432, .w 18 20578304, .w 19 12, .w 19 16, .w 19 1114112, .w 19 1179648,
    .a 19 1310720 268435456, .a 19 1376256 268435456, .a 19 22413312 268435456, .a 19 22478848 268435456, .w 22 8,
    .w 22 12, .w 22 24, .w 22 28, .w 64 6881280, .w 64 16711680, .a 65 22347776 268435456, .p .win, .p .free,
    .p .edges, .p .inbox, .p .chn, .p .seqs, .p .mcache, .p .pa, .p .jq, .p .jact, .p .jobNo, .p .cmds, .p .cmdNo,
    .p .cqs, .p .ctrls, .p .nss, .p .zones, .p .bands, .p .vol, .p .points, .p .mops, .p .errlog, .p .pkt, .p .hbm,
    .p .poison, .p .lost, .p .kvLog, .p .stripes]

theorem namespaceAttachment_out (id : CmdId) (nsid : BitVec 32) (attach : Bool) (ctrls : List (BitVec 16)) {s : State} (h₀ : Out L₀ s₀ s)
    (hL : Key.sub namespaceAttachmentOut L₀ = true) :
    Out L₀ s₀ (namespaceAttachment id nsid attach ctrls s) := by
  unfold namespaceAttachment
  repeat'
    first
      | with_reducible assumption | with_reducible apply State.admin_out | with_reducible apply State.answer_out
      | with_reducible apply State.budgetChanged_out | with_reducible apply State.nsChanged_out
      | with_reducible apply State.setNs_out | exact Key.hasA rfl | exact Key.hasW | exact Out.sub hL rfl | intro _
      | with_reducible apply Out.ite | split | dsimp only [id_eq]
      | (rename_i e; with_reducible refine Out.of_eq e ?_)

/-- What `firmwareImageDownload` may change. -/
def firmwareImageDownloadOut : List Key :=
  [.w 2 8, .w 2 12, .w 2 20, .w 2 24, .a 2 32 4, .w 2 64, .w 2 68,
    .w 2 5439488, .w 2 5505024, .w 6 8, .w 6 12, .w 7 12, .w 7 24, .w 7 28, .w 7 17956864, .w 9 8, .w 10 20,
    .w 10 24, .w 11 12, .a 11 32 4, .a 11 48 4, .w 11 84, .w 12 8, .w 13 8, .w 13 12, .w 13 76, .w 13 1572864,
    .w 13 2359296, .w 13 2424832, .w 13 20250624, .w 14 8, .w 14 12, .w 14 24, .w 14 84, .w 14 3211264,
    .w 14 3342336, .w 14 3407872, .w 14 3473408, .w 14 3538944, .w 14 4128768, .w 14 4194304, .w 14 4259840,
    .w 14 4325376, .w 14 4784128, .w 14 21692416, .w 14 21757952, .w 14 22675456, .w 14 22806528, .w 16 8, .w 16 12,
    .w 16 6094848, .w 16 8519680, .w 16 8585216, .w 16 8912896, .w 16 8978432, .w 16 9240576, .w 16 9306112,
    .w 16 9502720, .w 16 9568256, .w 16 9895936, .w 16 9961472, .w 16 10223616, .w 16 10551296, .w 16 10944512,
    .w 16 23068672, .w 16 23789568, .w 16 23855104, .w 16 24051712, .w 16 24444928, .w 17 13762560, .w 17 24510464,
    .w 18 8, .w 18 12, .w 18 72, .w 18 786432, .w 18 20578304, .w 19 12, .w 19 16, .w 19 1114112, .w 19 1179648,
    .a 19 1310720 268435456, .a 19 1376256 268435456, .a 19 22413312 268435456, .a 19 22478848 268435456, .w 20 8,
    .w 20 12, .a 20 32 4, .w 20 64, .w 20 68, .w 20 72, .w 22 8, .w 22 12, .w 22 28, .w 64 6881280, .w 64 16711680,
    .a 65 14024704 268435456, .w 65 14352384, .a 65 15269888 268435456, .a 65 15335424 268435456,
    .a 65 22347776 268435456, .a 66 14090240 268435456, .w 66 14155776, .w 66 14221312, .w 66 14286848, .p .win,
    .p .free, .p .edges, .p .inbox, .p .chn, .p .seqs, .p .mcache, .p .pa, .p .jq, .p .jact, .p .jobNo, .p .cmds,
    .p .cmdNo, .p .cqs, .p .nss, .p .zones, .p .bands, .p .vol, .p .points, .p .mops, .p .flash, .p .blks, .p .fops,
    .p .fwait, .p .fread, .p .fwPend, .p .fwErased, .p .errlog, .p .pkt, .p .hbm, .p .poison, .p .lost, .p .kvLog,
    .p .stripes]

theorem firmwareImageDownload_out (id : CmdId) (ofs : BitVec 32) (data : List Byte) (ok : Bool) {s : State} (h₀ : Out L₀ s₀ s)
    (hL : Key.sub firmwareImageDownloadOut L₀ = true) :
    Out L₀ s₀ (firmwareImageDownload id ofs data ok s) := by
  unfold firmwareImageDownload
  repeat'
    first
      | with_reducible assumption | with_reducible apply State.admin_out | with_reducible apply State.fwDownHeld_out
      | with_reducible apply State.answer_out | exact Key.hasA rfl | exact Key.hasW | exact Out.sub hL rfl | intro _
      | with_reducible apply Out.ite | split | dsimp only [id_eq]
      | (rename_i e; with_reducible refine Out.of_eq e ?_)

/-- What `firmwareCommit` may change. -/
def firmwareCommitOut : List Key :=
  [.w 2 8, .w 2 12, .w 2 20, .w 2 24, .a 2 32 4, .w 2 64, .w 2 68, .w 2 5439488,
    .w 2 5505024, .w 6 8, .w 6 12, .w 7 12, .w 7 24, .w 7 28, .w 7 17956864, .w 9 8, .w 10 20, .w 10 24, .w 11 12,
    .a 11 32 4, .a 11 48 4, .w 11 84, .w 12 8, .w 13 8, .w 13 12, .w 13 76, .w 13 1572864, .w 13 2359296,
    .w 13 2424832, .w 13 20250624, .w 14 8, .w 14 12, .w 14 24, .w 14 84, .w 14 3211264, .w 14 3342336,
    .w 14 3407872, .w 14 3473408, .w 14 3538944, .w 14 4128768, .w 14 4194304, .w 14 4259840, .w 14 4325376,
    .w 14 4784128, .w 14 21692416, .w 14 21757952, .w 14 22675456, .w 14 22806528, .w 16 8, .w 16 12, .w 16 6094848,
    .w 16 8519680, .w 16 8585216, .w 16 8912896, .w 16 8978432, .w 16 9240576, .w 16 9306112, .w 16 9502720,
    .w 16 9568256, .w 16 9895936, .w 16 9961472, .w 16 10223616, .w 16 10551296, .w 16 10944512, .w 16 23068672,
    .w 16 23789568, .w 16 23855104, .w 16 24051712, .w 16 24444928, .w 17 13762560, .w 17 24510464, .w 18 8,
    .w 18 12, .w 18 72, .w 18 786432, .w 18 20578304, .w 19 12, .w 19 16, .w 19 1114112, .w 19 1179648,
    .a 19 1310720 268435456, .a 19 1376256 268435456, .a 19 22413312 268435456, .a 19 22478848 268435456, .w 20 12,
    .w 20 64, .w 20 68, .w 22 8, .w 22 12, .w 22 28, .w 64 6881280, .w 64 16711680, .w 65 14483456,
    .a 65 15269888 268435456, .a 65 22347776 268435456, .a 66 14090240 268435456, .w 66 14155776, .w 66 14417920,
    .w 66 15138816, .p .win, .p .free, .p .edges, .p .inbox, .p .chn, .p .seqs, .p .mcache, .p .pa, .p .jq,
    .p .jact, .p .jobNo, .p .cmds, .p .cmdNo, .p .cqs, .p .nss, .p .zones, .p .bands, .p .vol, .p .points, .p .mops,
    .p .flash, .p .blks, .p .errlog, .p .pkt, .p .hbm, .p .poison, .p .lost, .p .kvLog, .p .stripes]

theorem firmwareCommit_out (id : CmdId) (action : BitVec 3) (slot : BitVec 3) (ok : Bool) {s : State} (h₀ : Out L₀ s₀ s)
    (hL : Key.sub firmwareCommitOut L₀ = true) :
    Out L₀ s₀ (firmwareCommit id action slot ok s) := by
  unfold firmwareCommit
  repeat'
    first
      | with_reducible assumption | with_reducible apply State.admin_out | with_reducible apply State.answer_out
      | with_reducible apply State.fwCommit_out | exact Key.hasA rfl | exact Key.hasW | exact Out.sub hL rfl
      | intro _ | with_reducible apply Out.ite | split | dsimp only [id_eq]
      | (rename_i e; with_reducible refine Out.of_eq e ?_)

/-- What `deviceSelfTest` may change. -/
def deviceSelfTestOut : List Key :=
  [.w 2 8, .w 2 12, .w 2 20, .w 2 24, .a 2 32 4, .w 2 64, .w 2 68, .w 2 5439488,
    .w 2 5505024, .w 6 8, .w 6 12, .w 7 12, .w 7 24, .w 7 28, .w 7 17956864, .w 9 8, .w 10 20, .w 10 24, .w 11 12,
    .a 11 32 4, .a 11 48 4, .w 11 84, .w 12 8, .w 13 8, .w 13 12, .w 13 76, .w 13 1572864, .w 13 2359296,
    .w 13 2424832, .w 13 20250624, .w 14 8, .w 14 12, .w 14 24, .w 14 84, .w 14 3211264, .w 14 3342336,
    .w 14 3407872, .w 14 3473408, .w 14 3538944, .w 14 4128768, .w 14 4194304, .w 14 4259840, .w 14 4325376,
    .w 14 4784128, .w 14 21692416, .w 14 21757952, .w 14 22675456, .w 14 22806528, .w 16 8, .w 16 12, .w 16 6094848,
    .w 16 8519680, .w 16 8585216, .w 16 8912896, .w 16 8978432, .w 16 9240576, .w 16 9306112, .w 16 9502720,
    .w 16 9568256, .w 16 9895936, .w 16 9961472, .w 16 10223616, .w 16 10551296, .w 16 10944512, .w 16 23068672,
    .w 16 23789568, .w 16 23855104, .w 16 24051712, .w 16 24444928, .w 17 13762560, .w 17 24510464, .w 18 8,
    .w 18 12, .w 18 72, .w 18 786432, .w 18 20578304, .w 19 12, .w 19 16, .w 19 1114112, .w 19 1179648,
    .a 19 1310720 268435456, .a 19 1376256 268435456, .a 19 22413312 268435456, .a 19 22478848 268435456, .w 22 8,
    .w 22 12, .w 22 28, .w 64 6881280, .w 64 16711680, .a 65 22347776 268435456, .p .win, .p .free, .p .edges,
    .p .inbox, .p .chn, .p .seqs, .p .mcache, .p .pa, .p .jq, .p .jact, .p .jobNo, .p .cmds, .p .cmdNo, .p .cqs,
    .p .nss, .p .zones, .p .bands, .p .vol, .p .points, .p .mops, .p .test, .p .errlog, .p .pkt, .p .hbm,
    .p .poison, .p .lost, .p .kvLog, .p .stripes]

theorem deviceSelfTest_out (id : CmdId) (ext : Bool) (nsid : BitVec 32) {s : State} (h₀ : Out L₀ s₀ s)
    (hL : Key.sub deviceSelfTestOut L₀ = true) :
    Out L₀ s₀ (deviceSelfTest id ext nsid s) := by
  unfold deviceSelfTest
  repeat'
    first
      | with_reducible assumption | with_reducible apply State.admin_out | with_reducible apply State.answer_out
      | exact Key.hasA rfl | exact Key.hasW | exact Out.sub hL rfl | intro _ | with_reducible apply Out.ite | split
      | dsimp only [id_eq] | (rename_i e; with_reducible refine Out.of_eq e ?_) | with_reducible apply Out.setTest

/-- What `selfTestAbort` may change. -/
def selfTestAbortOut : List Key :=
  [.w 2 8, .w 2 12, .w 2 20, .w 2 24, .a 2 32 4, .w 2 64, .w 2 68, .w 2 5439488,
    .w 2 5505024, .w 6 8, .w 6 12, .w 7 12, .w 7 24, .w 7 28, .w 7 17956864, .w 9 8, .w 10 20, .w 10 24, .w 11 12,
    .a 11 32 4, .a 11 48 4, .w 11 84, .w 12 8, .w 13 8, .w 13 12, .w 13 76, .w 13 1572864, .w 13 2359296,
    .w 13 2424832, .w 13 20250624, .w 14 8, .w 14 12, .w 14 24, .w 14 84, .w 14 3211264, .w 14 3342336,
    .w 14 3407872, .w 14 3473408, .w 14 3538944, .w 14 4128768, .w 14 4194304, .w 14 4259840, .w 14 4325376,
    .w 14 4784128, .w 14 21692416, .w 14 21757952, .w 14 22675456, .w 14 22806528, .w 16 8, .w 16 12, .w 16 6094848,
    .w 16 8519680, .w 16 8585216, .w 16 8912896, .w 16 8978432, .w 16 9240576, .w 16 9306112, .w 16 9502720,
    .w 16 9568256, .w 16 9895936, .w 16 9961472, .w 16 10223616, .w 16 10551296, .w 16 10944512, .w 16 23068672,
    .w 16 23789568, .w 16 23855104, .w 16 24051712, .w 16 24444928, .w 17 13762560, .w 17 24510464, .w 18 8,
    .w 18 12, .w 18 72, .w 18 786432, .w 18 20578304, .w 19 12, .w 19 16, .w 19 1114112, .w 19 1179648,
    .a 19 1310720 268435456, .a 19 1376256 268435456, .a 19 22413312 268435456, .a 19 22478848 268435456, .w 22 8,
    .w 22 12, .w 22 28, .w 64 6881280, .w 64 16711680, .a 65 22347776 268435456, .p .win, .p .free, .p .edges,
    .p .inbox, .p .chn, .p .seqs, .p .mcache, .p .pa, .p .jq, .p .jact, .p .jobNo, .p .cmds, .p .cmdNo, .p .cqs,
    .p .nss, .p .zones, .p .bands, .p .vol, .p .points, .p .mops, .p .test, .p .testLog, .p .errlog, .p .pkt,
    .p .hbm, .p .poison, .p .lost, .p .kvLog, .p .stripes]

theorem selfTestAbort_out (id : CmdId) {s : State} (h₀ : Out L₀ s₀ s)
    (hL : Key.sub selfTestAbortOut L₀ = true) :
    Out L₀ s₀ (selfTestAbort id s) := by
  unfold selfTestAbort
  repeat'
    first
      | with_reducible assumption | with_reducible apply State.admin_out | with_reducible apply State.answer_out
      | with_reducible apply State.endTest_out | exact Key.hasA rfl | exact Key.hasW | exact Out.sub hL rfl | intro _
      | with_reducible apply Out.ite | split | dsimp only [id_eq]
      | (rename_i e; with_reducible refine Out.of_eq e ?_)

theorem selfTestSegment_out (ok : Bool) (nsid : BitVec 32) (lba : BitVec 64) {s : State} (h₀ : Out L₀ s₀ s)
    (hL : Key.sub [.w 10 24, .p .test, .p .testLog, .p .pkt, .p .hbm, .p .poison] L₀ = true) :
    Out L₀ s₀ (selfTestSegment ok nsid lba s) := by
  unfold selfTestSegment
  repeat'
    first
      | with_reducible assumption | with_reducible apply Out.when | with_reducible apply State.cleanAll_out
      | with_reducible apply State.endTest_out | exact Key.hasA rfl | exact Key.hasW | exact Out.sub hL rfl | intro _
      | with_reducible apply Out.ite | split | dsimp only [id_eq]
      | (rename_i e; with_reducible refine Out.of_eq e ?_) | with_reducible apply Out.setTest

theorem State.freeKv_out {s : State} (nsid : Nat) (keep : Bool) (h₀ : Out L₀ s₀ s)
    (hL : Key.sub [.w 11 8, .a 11 32 4, .a 11 48 4, .w 20 8, .w 20 12, .a 20 32 4, .a 65 15335424 268435456, .a 65 15400960 268435456,
    .p .edges, .p .nss, .p .bands, .p .mops, .p .opid, .p .journal, .p .jseq, .p .blks, .p .fops, .p .fwait,
    .p .weakSlots] L₀ = true) :
    Out L₀ s₀ (State.freeKv s nsid keep) := by
  unfold State.freeKv
  repeat'
    first
      | with_reducible assumption | with_reducible apply State.setNs_out | with_reducible apply Out.forAll
      | with_reducible apply State.setBand_out | with_reducible apply State.freeBand_out | exact Key.hasA rfl
      | exact Key.hasW | exact Out.sub hL rfl | intro _ | with_reducible apply Out.ite | split | dsimp only [id_eq]
      | (rename_i e; with_reducible refine Out.of_eq e ?_)

theorem State.emptyNs_out {s : State} (nsid : Nat) (keep : Bool) (h₀ : Out L₀ s₀ s)
    (hL : Key.sub [.w 2 8, .w 2 20, .w 2 24, .a 2 32 4, .w 2 5439488, .w 2 5505024, .w 6 8, .w 6 12, .w 7 12, .w 7 24, .w 7 28,
    .w 7 17956864, .w 9 8, .w 10 20, .w 10 24, .w 11 8, .w 11 12, .a 11 32 4, .a 11 48 4, .w 20 8, .w 20 12,
    .a 20 32 4, .a 65 15335424 268435456, .a 65 15400960 268435456, .a 65 22347776 268435456, .p .free, .p .edges,
    .p .inbox, .p .mcache, .p .jq, .p .jobNo, .p .cmds, .p .cqs, .p .ctrls, .p .nss, .p .zones, .p .bands, .p .vol,
    .p .dur, .p .points, .p .mops, .p .opid, .p .journal, .p .jseq, .p .blks, .p .fops, .p .fwait, .p .errlog,
    .p .pkt, .p .hbm, .p .poison, .p .lost, .p .kvLog, .p .kvDur, .p .stripes, .p .weakSlots] L₀ = true) :
    Out L₀ s₀ (State.emptyNs s nsid keep) := by
  unfold State.emptyNs
  repeat'
    first
      | with_reducible assumption | with_reducible apply State.freeKv_out | with_reducible apply State.dropKv_out
      | with_reducible apply State.dropNs_out | with_reducible apply State.abandonNs_out
      | with_reducible apply Out.forAll | with_reducible apply State.setZone_out
      | with_reducible apply State.setBand_out | exact Key.hasA rfl | exact Key.hasW | exact Out.sub hL rfl | intro _
      | with_reducible apply Out.ite | split | dsimp only [id_eq]
      | (rename_i e; with_reducible refine Out.of_eq e ?_)

theorem State.newKey_out {s : State} (nsid : Nat) (cmd : Nat) (h₀ : Out L₀ s₀ s)
    (hL : Key.sub [.w 8 12, .w 8 64, .p .edges, .p .inbox, .p .nss] L₀ = true) :
    Out L₀ s₀ (State.newKey s nsid cmd) := by
  unfold State.newKey
  repeat'
    first
      | with_reducible assumption | with_reducible apply Out.post | with_reducible apply Out.count
      | with_reducible apply State.setNs_out | exact Key.hasA rfl | exact Key.hasW | exact Out.sub hL rfl | intro _
      | with_reducible apply Out.ite | split | dsimp only [id_eq]
      | (rename_i e; with_reducible refine Out.of_eq e ?_)

theorem State.beginOverwrite_out {s : State} (nsid : Nat) (units : Nat → List (Nat × Nat)) (h₀ : Out L₀ s₀ s)
    (hL : Key.sub beginOpOut L₀ = true) :
    Out L₀ s₀ (State.beginOverwrite s nsid units).1 := by
  unfold State.beginOverwrite
  repeat'
    first
      | with_reducible assumption | with_reducible apply Out.forAll | with_reducible apply State.beginOp_out
      | exact Key.hasA rfl | exact Key.hasW | exact Out.sub hL rfl | intro _ | with_reducible apply Out.ite | split
      | dsimp only [id_eq] | (rename_i e; with_reducible refine Out.of_eq e ?_)

theorem State.logEmpty_out {s : State} (nsid : Nat) (h₀ : Out L₀ s₀ s)
    (hL : Key.sub [.a 65 24969216 268435456, .p .media] L₀ = true) :
    Out L₀ s₀ (State.logEmpty s nsid) := by
  unfold State.logEmpty
  repeat'
    first
      | with_reducible assumption | with_reducible apply Out.forAll | with_reducible apply State.mapLog_out
      | exact Key.hasA rfl | exact Key.hasW | exact Out.sub hL rfl | intro _ | with_reducible apply Out.ite | split
      | dsimp only [id_eq] | (rename_i e; with_reducible refine Out.of_eq e ?_)

/-- What `formatNvm` may change. -/
def formatNvmOut : List Key :=
  [.w 2 8, .w 2 12, .w 2 20, .w 2 24, .a 2 32 4, .w 2 64, .w 2 68, .w 2 5439488,
    .w 2 5505024, .w 6 8, .w 6 12, .w 7 12, .w 7 24, .w 7 28, .w 7 17956864, .w 8 12, .w 8 64, .w 9 8, .w 10 20,
    .w 10 24, .w 11 8, .w 11 12, .a 11 32 4, .a 11 48 4, .w 11 72, .w 11 84, .w 12 8, .w 13 8, .w 13 12, .w 13 76,
    .w 13 1572864, .w 13 2359296, .w 13 2424832, .w 13 20250624, .w 14 8, .w 14 12, .w 14 24, .w 14 84,
    .w 14 3211264, .w 14 3342336, .w 14 3407872, .w 14 3473408, .w 14 3538944, .w 14 4128768, .w 14 4194304,
    .w 14 4259840, .w 14 4325376, .w 14 4784128, .w 14 21692416, .w 14 21757952, .w 14 22675456, .w 14 22806528,
    .w 16 8, .w 16 12, .w 16 6094848, .w 16 8519680, .w 16 8585216, .w 16 8912896, .w 16 8978432, .w 16 9240576,
    .w 16 9306112, .w 16 9502720, .w 16 9568256, .w 16 9895936, .w 16 9961472, .w 16 10223616, .w 16 10551296,
    .w 16 10944512, .w 16 23068672, .w 16 23789568, .w 16 23855104, .w 16 24051712, .w 16 24444928, .w 17 13762560,
    .w 17 24510464, .w 18 8, .w 18 12, .w 18 72, .w 18 786432, .w 18 20578304, .w 19 12, .w 19 16, .w 19 1114112,
    .w 19 1179648, .a 19 1310720 268435456, .a 19 1376256 268435456, .a 19 22413312 268435456,
    .a 19 22478848 268435456, .w 20 8, .w 20 12, .a 20 32 4, .w 22 8, .w 22 12, .w 22 28, .w 64 6881280,
    .w 64 16711680, .a 65 15335424 268435456, .a 65 15400960 268435456, .a 65 22347776 268435456,
    .a 65 24969216 268435456, .p .win, .p .free, .p .edges, .p .inbox, .p .chn, .p .seqs, .p .media, .p .mcache,
    .p .pa, .p .jq, .p .jact, .p .jobNo, .p .cmds, .p .cmdNo, .p .cqs, .p .ctrls, .p .nss, .p .zones, .p .bands,
    .p .vol, .p .dur, .p .points, .p .mops, .p .opid, .p .journal, .p .jseq, .p .test, .p .testLog, .p .blks,
    .p .fops, .p .fwait, .p .errlog, .p .pkt, .p .hbm, .p .poison, .p .lost, .p .kvLog, .p .kvDur, .p .stripes,
    .p .weakSlots]

theorem formatNvm_out (id : CmdId) (nsid : BitVec 32) (lbaf : BitVec 4) (pi : BitVec 4) (ses : BitVec 4) {s : State} (h₀ : Out L₀ s₀ s)
    (hL : Key.sub formatNvmOut L₀ = true) :
    Out L₀ s₀ (formatNvm id nsid lbaf pi ses s) := by
  unfold formatNvm
  repeat'
    first
      | with_reducible assumption | with_reducible apply State.taking_out | with_reducible apply State.answer_out
      | with_reducible apply State.endTest_out | with_reducible apply Out.forAll
      | with_reducible apply State.emptyNs_out | with_reducible apply State.logEmpty_out
      | with_reducible apply State.swapMarked_out | with_reducible apply State.newKey_out
      | with_reducible apply State.beginOverwrite_out | with_reducible apply State.updCmd_out
      | with_reducible apply State.setNs_out | exact Key.hasA rfl | exact Key.hasW | exact Out.sub hL rfl | intro _
      | with_reducible apply Out.ite | split | dsimp only [id_eq]
      | (rename_i e; with_reducible refine Out.of_eq e ?_)

/-- What `sanitizeCryptoErase` may change. -/
def sanitizeCryptoEraseOut : List Key :=
  [.w 2 8, .w 2 12, .w 2 20, .w 2 24, .a 2 32 4, .w 2 64, .w 2 68,
    .w 2 5439488, .w 2 5505024, .w 6 8, .w 6 12, .w 7 12, .w 7 24, .w 7 28, .w 7 17956864, .w 8 12, .w 8 64, .w 9 8,
    .w 10 20, .w 10 24, .w 11 8, .w 11 12, .a 11 32 4, .a 11 48 4, .w 11 72, .w 11 84, .w 12 8, .w 13 8, .w 13 12,
    .w 13 76, .w 13 1572864, .w 13 2359296, .w 13 2424832, .w 13 20250624, .w 14 8, .w 14 12, .w 14 24, .w 14 84,
    .w 14 3211264, .w 14 3342336, .w 14 3407872, .w 14 3473408, .w 14 3538944, .w 14 4128768, .w 14 4194304,
    .w 14 4259840, .w 14 4325376, .w 14 4784128, .w 14 21692416, .w 14 21757952, .w 14 22675456, .w 14 22806528,
    .w 16 8, .w 16 12, .w 16 6094848, .w 16 8519680, .w 16 8585216, .w 16 8912896, .w 16 8978432, .w 16 9240576,
    .w 16 9306112, .w 16 9502720, .w 16 9568256, .w 16 9895936, .w 16 9961472, .w 16 10223616, .w 16 10551296,
    .w 16 10944512, .w 16 23068672, .w 16 23789568, .w 16 23855104, .w 16 24051712, .w 16 24444928, .w 17 13762560,
    .w 17 24510464, .w 18 8, .w 18 12, .w 18 72, .w 18 786432, .w 18 20578304, .w 19 12, .w 19 16, .w 19 1114112,
    .w 19 1179648, .a 19 1310720 268435456, .a 19 1376256 268435456, .a 19 22413312 268435456,
    .a 19 22478848 268435456, .w 20 8, .w 20 12, .a 20 32 4, .w 22 8, .w 22 12, .w 22 28, .w 64 6881280,
    .w 64 16711680, .w 65 5636096, .a 65 15335424 268435456, .a 65 15400960 268435456, .a 65 22347776 268435456,
    .p .win, .p .free, .p .edges, .p .inbox, .p .chn, .p .seqs, .p .mcache, .p .pa, .p .jq, .p .jact, .p .jobNo,
    .p .cmds, .p .cmdNo, .p .cqs, .p .ctrls, .p .nss, .p .zones, .p .bands, .p .vol, .p .dur, .p .points, .p .mops,
    .p .opid, .p .journal, .p .jseq, .p .test, .p .testLog, .p .blks, .p .fops, .p .fwait, .p .errlog, .p .pkt,
    .p .hbm, .p .poison, .p .lost, .p .kvLog, .p .kvDur, .p .stripes, .p .weakSlots]

theorem sanitizeCryptoErase_out (id : CmdId) {s : State} (h₀ : Out L₀ s₀ s)
    (hL : Key.sub sanitizeCryptoEraseOut L₀ = true) :
    Out L₀ s₀ (sanitizeCryptoErase id s) := by
  unfold sanitizeCryptoErase
  repeat'
    first
      | with_reducible assumption | with_reducible apply State.taking_out | with_reducible apply State.answer_out
      | with_reducible apply State.endTest_out | with_reducible apply Out.put | with_reducible apply Out.forAll
      | with_reducible apply State.newKey_out | with_reducible apply State.swapMarked_out
      | with_reducible apply State.emptyNs_out | exact Key.hasA rfl | exact Key.hasW | exact Out.sub hL rfl | intro _
      | with_reducible apply Out.ite | split | dsimp only [id_eq]
      | (rename_i e; with_reducible refine Out.of_eq e ?_)

theorem State.wipeSlm_out {s : State} (h₀ : Out L₀ s₀ s)
    (hL : Key.sub [.p .pkt, .p .hbm, .p .poison, .p .progs, .p .progRuns] L₀ = true) :
    Out L₀ s₀ (State.wipeSlm s) := by
  unfold State.wipeSlm
  repeat'
    first
      | with_reducible assumption | exact Key.hasA rfl | exact Key.hasW | exact Out.sub hL rfl | intro _
      | with_reducible apply Out.ite | split | dsimp only [id_eq]
      | (rename_i e; with_reducible refine Out.of_eq e ?_) | with_reducible apply Out.setPktHbmPoisonProgsProgRuns

/-- What `sanitizeBlockErase` may change. -/
def sanitizeBlockEraseOut : List Key :=
  [.w 2 8, .w 2 12, .w 2 20, .w 2 24, .a 2 32 4, .w 2 64, .w 2 68,
    .w 2 5439488, .w 2 5505024, .w 6 8, .w 6 12, .w 7 12, .w 7 24, .w 7 28, .w 7 17956864, .w 8 12, .w 8 64, .w 9 8,
    .w 10 20, .w 10 24, .w 11 8, .w 11 12, .a 11 32 4, .a 11 48 4, .w 11 84, .w 12 8, .w 13 8, .w 13 12, .w 13 76,
    .w 13 1572864, .w 13 2359296, .w 13 2424832, .w 13 20250624, .w 14 8, .w 14 12, .w 14 24, .w 14 84,
    .w 14 3211264, .w 14 3342336, .w 14 3407872, .w 14 3473408, .w 14 3538944, .w 14 4128768, .w 14 4194304,
    .w 14 4259840, .w 14 4325376, .w 14 4784128, .w 14 21692416, .w 14 21757952, .w 14 22675456, .w 14 22806528,
    .w 16 8, .w 16 12, .w 16 6094848, .w 16 8519680, .w 16 8585216, .w 16 8912896, .w 16 8978432, .w 16 9240576,
    .w 16 9306112, .w 16 9502720, .w 16 9568256, .w 16 9895936, .w 16 9961472, .w 16 10223616, .w 16 10551296,
    .w 16 10944512, .w 16 23068672, .w 16 23789568, .w 16 23855104, .w 16 24051712, .w 16 24444928, .w 17 13762560,
    .w 17 24510464, .w 18 8, .w 18 12, .w 18 72, .w 18 786432, .w 18 20578304, .w 19 12, .w 19 16, .w 19 1114112,
    .w 19 1179648, .a 19 1310720 268435456, .a 19 1376256 268435456, .a 19 22413312 268435456,
    .a 19 22478848 268435456, .w 20 8, .w 20 12, .a 20 32 4, .w 22 8, .w 22 12, .w 22 28, .w 64 6881280,
    .w 64 16711680, .w 65 5636096, .a 65 15335424 268435456, .a 65 15400960 268435456, .a 65 22347776 268435456,
    .a 65 24969216 268435456, .p .win, .p .free, .p .edges, .p .inbox, .p .chn, .p .seqs, .p .media, .p .mcache,
    .p .pa, .p .jq, .p .jact, .p .jobNo, .p .cmds, .p .cmdNo, .p .cqs, .p .ctrls, .p .nss, .p .zones, .p .bands,
    .p .vol, .p .dur, .p .points, .p .mops, .p .opid, .p .journal, .p .jseq, .p .test, .p .testLog, .p .blks,
    .p .fops, .p .fwait, .p .errlog, .p .pkt, .p .hbm, .p .poison, .p .lost, .p .kvLog, .p .kvDur, .p .progs,
    .p .progRuns, .p .stripes, .p .weakSlots]

theorem sanitizeBlockErase_out (id : CmdId) {s : State} (h₀ : Out L₀ s₀ s)
    (hL : Key.sub sanitizeBlockEraseOut L₀ = true) :
    Out L₀ s₀ (sanitizeBlockErase id s) := by
  unfold sanitizeBlockErase
  repeat'
    first
      | with_reducible assumption | with_reducible apply State.taking_out | with_reducible apply State.answer_out
      | with_reducible apply State.endTest_out | with_reducible apply Out.forAll
      | with_reducible apply State.abandonOp_out | with_reducible apply State.showPkt_out
      | with_reducible apply State.wipeSlm_out | with_reducible apply State.emptyNs_out
      | with_reducible apply State.newKey_out | with_reducible apply State.mapLog_out
      | with_reducible apply State.beginOverwrite_out | with_reducible apply Out.put | exact Key.hasA rfl
      | exact Key.hasW | exact Out.sub hL rfl | intro _ | with_reducible apply Out.ite | split | dsimp only [id_eq]
      | (rename_i e; with_reducible refine Out.of_eq e ?_)

theorem State.onNs_out {s : State} (c : Cmd) (nsid : Nat) (sets : List Nat) (f : Ns → State → State) (h₀ : Out L₀ s₀ s) (hF_f : ∀ x0 u, Out L₀ s₀ u → Out L₀ s₀ (f x0 u))
    (hL : Key.sub completeOut L₀ = true) :
    Out L₀ s₀ (State.onNs s c nsid sets f) := by
  unfold State.onNs
  repeat'
    first
      | with_reducible assumption | with_reducible apply State.answer_out | with_reducible apply State.showCmds_out
      | with_reducible apply State.drainDeletes_out | with_reducible apply State.sendCqe_out
      | with_reducible apply hF_f | exact Key.hasA rfl | exact Key.hasW | exact Out.sub hL rfl | intro _
      | with_reducible apply Out.ite | split | dsimp only [id_eq]
      | (rename_i e; with_reducible refine Out.of_eq e ?_) | with_reducible apply Out.setCmds

/-- What `State.queueJobs` may change. -/
def queueJobsOut : List Key :=
  [.a 2 32 4, .w 9 8, .w 10 20, .w 10 24, .p .jq, .p .jobNo, .p .cmds, .p .pkt,
    .p .hbm, .p .poison]

theorem State.queueJobs_out {s : State} (c : Cmd) (js : List (Nat × Job)) (h₀ : Out L₀ s₀ s)
    (hL : Key.sub queueJobsOut L₀ = true) :
    Out L₀ s₀ (State.queueJobs s c js) := by
  unfold State.queueJobs
  repeat'
    first
      | with_reducible assumption | with_reducible apply Out.forAll | with_reducible apply State.updCmd_out
      | with_reducible apply State.addJob_out | with_reducible apply State.partRead_out | exact Key.hasA rfl
      | exact Key.hasW | exact Out.sub hL rfl | intro _ | with_reducible apply Out.ite | split | dsimp only [id_eq]
      | (rename_i e; with_reducible refine Out.of_eq e ?_)

theorem State.readJobs_out {s : State} (c : Cmd) (kind : JobKind) (nsid : Nat) (lba : Nat) (k : Nat) (limited : Bool) (h₀ : Out L₀ s₀ s)
    (hL : Key.sub queueJobsOut L₀ = true) :
    Out L₀ s₀ (State.readJobs s c kind nsid lba k limited) := by
  unfold State.readJobs
  repeat'
    first
      | with_reducible assumption | with_reducible apply State.queueJobs_out | exact Key.hasA rfl | exact Key.hasW
      | exact Out.sub hL rfl | intro _ | with_reducible apply Out.ite | split | dsimp only [id_eq]
      | (rename_i e; with_reducible refine Out.of_eq e ?_)

theorem readCmd_out (id : CmdId) (nsid : BitVec 32) (lba : BitVec 64) (nlb : BitVec 16) (limited : Bool) {s : State} (h₀ : Out L₀ s₀ s)
    (hL : Key.sub keepAliveOut L₀ = true) :
    Out L₀ s₀ (readCmd id nsid lba nlb limited s) := by
  unfold readCmd
  repeat'
    first
      | with_reducible assumption | with_reducible apply State.taking_out | with_reducible apply State.onNs_out
      | with_reducible apply State.answer_out | with_reducible apply State.complete_out
      | with_reducible apply State.sendData_out | with_reducible apply State.readJobs_out
      | with_reducible apply State.updCmd_out | exact Key.hasA rfl | exact Key.hasW | exact Out.sub hL rfl | intro _
      | with_reducible apply Out.ite | split | dsimp only [id_eq]
      | (rename_i e; with_reducible refine Out.of_eq e ?_)

theorem verifyCmd_out (id : CmdId) (nsid : BitVec 32) (lba : BitVec 64) (nlb : BitVec 16) {s : State} (h₀ : Out L₀ s₀ s)
    (hL : Key.sub keepAliveOut L₀ = true) :
    Out L₀ s₀ (verifyCmd id nsid lba nlb s) := by
  unfold verifyCmd
  repeat'
    first
      | with_reducible assumption | with_reducible apply State.taking_out | with_reducible apply State.onNs_out
      | with_reducible apply State.answer_out | with_reducible apply State.readJobs_out | exact Key.hasA rfl
      | exact Key.hasW | exact Out.sub hL rfl | intro _ | with_reducible apply Out.ite | split | dsimp only [id_eq]
      | (rename_i e; with_reducible refine Out.of_eq e ?_)

theorem State.finishWrite_out {s : State} (c : Cmd) (acts : List Nat) (fua : Bool) (dw0 : Nat) (h₀ : Out L₀ s₀ s)
    (hL : Key.sub completeOut L₀ = true) :
    Out L₀ s₀ (State.finishWrite s c acts fua dw0) := by
  unfold State.finishWrite
  repeat'
    first
      | with_reducible assumption | with_reducible apply State.updCmd_out | with_reducible apply Out.forAll
      | with_reducible apply State.beginPoint_out | with_reducible apply State.complete_out | exact Key.hasA rfl
      | exact Key.hasW | exact Out.sub hL rfl | intro _ | with_reducible apply Out.ite | split | dsimp only [id_eq]
      | (rename_i e; with_reducible refine Out.of_eq e ?_)

theorem State.takeData_out {s : State} (nsid : Nat) (lba : Nat) (data : List Block) (h₀ : Out L₀ s₀ s)
    (hL : Key.sub [.a 2 32 4, .w 6 8, .w 6 12, .w 7 12, .w 7 24, .w 7 28, .w 7 17956864, .w 9 8, .w 10 20, .w 10 24, .a 11 32 4,
    .a 11 48 4, .a 65 22347776 268435456, .p .free, .p .edges, .p .inbox, .p .mcache, .p .jq, .p .jobNo, .p .nss,
    .p .bands, .p .vol, .p .wseq, .p .points, .p .pkt, .p .hbm, .p .poison, .p .lost, .p .kvLog, .p .stripes] L₀ = true) :
    Out L₀ s₀ (State.takeData s nsid lba data) := by
  unfold State.takeData
  repeat'
    first
      | with_reducible assumption | with_reducible apply State.stageAll_out | with_reducible apply State.dueRun_out
      | with_reducible apply State.beginPoint_out | exact Key.hasA rfl | exact Key.hasW | exact Out.sub hL rfl
      | intro _ | with_reducible apply Out.ite | split | dsimp only [id_eq]
      | (rename_i e; with_reducible refine Out.of_eq e ?_)

theorem State.zoneWrite_out {s : State} (n : Ns) (nsid : Nat) (lba : Nat) (k : Nat) (h₀ : Out L₀ s₀ s)
    (hL : Key.sub [.p .zones] L₀ = true) :
    Out L₀ s₀ (State.zoneWrite s n nsid lba k).2 := by
  unfold State.zoneWrite
  repeat'
    first
      | with_reducible assumption | with_reducible apply State.setZone_out | exact Key.hasA rfl | exact Key.hasW
      | exact Out.sub hL rfl | intro _ | with_reducible apply Out.ite | split | dsimp only [id_eq]
      | (rename_i e; with_reducible refine Out.of_eq e ?_)

theorem State.writeRange_out {s : State} (c : Cmd) (nsid : Nat) (lba : Nat) (data : List Block) (sets : List Nat) (fua : Bool) (h₀ : Out L₀ s₀ s)
    (hL : Key.sub [.w 2 20, .w 2 24, .a 2 32 4, .w 2 5439488, .w 2 5505024, .w 6 8, .w 6 12, .w 7 12, .w 7 24, .w 7 28, .w 7 17956864,
    .w 9 8, .w 10 20, .w 10 24, .a 11 32 4, .a 11 48 4, .a 65 22347776 268435456, .p .free, .p .edges, .p .inbox,
    .p .mcache, .p .jq, .p .jobNo, .p .cmds, .p .cqs, .p .nss, .p .zones, .p .bands, .p .vol, .p .wseq, .p .points,
    .p .errlog, .p .pkt, .p .hbm, .p .poison, .p .lost, .p .kvLog, .p .stripes] L₀ = true) :
    Out L₀ s₀ (State.writeRange s c nsid lba data sets fua) := by
  unfold State.writeRange
  repeat'
    first
      | with_reducible assumption | with_reducible apply State.onNs_out | with_reducible apply State.answer_out
      | with_reducible apply State.zoneWrite_out | with_reducible apply State.finishWrite_out
      | with_reducible apply State.takeData_out | exact Key.hasA rfl | exact Key.hasW | exact Out.sub hL rfl
      | intro _ | with_reducible apply Out.ite | split | dsimp only [id_eq]
      | (rename_i e; with_reducible refine Out.of_eq e ?_)

/-- What `writeCmd` may change. -/
def writeCmdOut : List Key :=
  [.w 2 8, .w 2 12, .w 2 20, .w 2 24, .a 2 32 4, .w 2 64, .w 2 68, .w 2 5439488,
    .w 2 5505024, .w 6 8, .w 6 12, .w 7 12, .w 7 24, .w 7 28, .w 7 17956864, .w 9 8, .w 10 20, .w 10 24, .w 11 12,
    .a 11 32 4, .a 11 48 4, .w 11 84, .w 12 8, .w 13 8, .w 13 12, .w 13 76, .w 13 1572864, .w 13 2359296,
    .w 13 2424832, .w 13 20250624, .w 14 8, .w 14 12, .w 14 24, .w 14 84, .w 14 3211264, .w 14 3342336,
    .w 14 3407872, .w 14 3473408, .w 14 3538944, .w 14 4128768, .w 14 4194304, .w 14 4259840, .w 14 4325376,
    .w 14 4784128, .w 14 21692416, .w 14 21757952, .w 14 22675456, .w 14 22806528, .w 16 8, .w 16 12, .w 16 6094848,
    .w 16 8519680, .w 16 8585216, .w 16 8912896, .w 16 8978432, .w 16 9240576, .w 16 9306112, .w 16 9502720,
    .w 16 9568256, .w 16 9895936, .w 16 9961472, .w 16 10223616, .w 16 10551296, .w 16 10944512, .w 16 23068672,
    .w 16 23789568, .w 16 23855104, .w 16 24051712, .w 16 24444928, .w 17 13762560, .w 17 24510464, .w 18 8,
    .w 18 12, .w 18 72, .w 18 786432, .w 18 20578304, .w 19 12, .w 19 16, .w 19 1114112, .w 19 1179648,
    .a 19 1310720 268435456, .a 19 1376256 268435456, .a 19 22413312 268435456, .a 19 22478848 268435456, .w 22 8,
    .w 22 12, .w 22 28, .w 64 6881280, .w 64 16711680, .a 65 22347776 268435456, .p .win, .p .free, .p .edges,
    .p .inbox, .p .chn, .p .seqs, .p .mcache, .p .pa, .p .jq, .p .jact, .p .jobNo, .p .cmds, .p .cmdNo, .p .cqs,
    .p .nss, .p .zones, .p .bands, .p .vol, .p .wseq, .p .points, .p .mops, .p .errlog, .p .pkt, .p .hbm,
    .p .poison, .p .lost, .p .kvLog, .p .stripes]

theorem writeCmd_out (id : CmdId) (nsid : BitVec 32) (lba : BitVec 64) (data : List Block) (fua : Bool) {s : State} (h₀ : Out L₀ s₀ s)
    (hL : Key.sub writeCmdOut L₀ = true) :
    Out L₀ s₀ (writeCmd id nsid lba data fua s) := by
  unfold writeCmd
  repeat'
    first
      | with_reducible assumption | with_reducible apply State.taking_out | with_reducible apply State.writeRange_out
      | exact Key.hasA rfl | exact Key.hasW | exact Out.sub hL rfl | intro _ | with_reducible apply Out.ite | split
      | dsimp only [id_eq] | (rename_i e; with_reducible refine Out.of_eq e ?_)

theorem writeZeroes_out (id : CmdId) (nsid : BitVec 32) (lba : BitVec 64) (nlb : BitVec 16) (fua : Bool) {s : State} (h₀ : Out L₀ s₀ s)
    (hL : Key.sub writeCmdOut L₀ = true) :
    Out L₀ s₀ (writeZeroes id nsid lba nlb fua s) := by
  unfold writeZeroes
  repeat'
    first
      | with_reducible assumption | with_reducible apply State.taking_out | with_reducible apply State.writeRange_out
      | exact Key.hasA rfl | exact Key.hasW | exact Out.sub hL rfl | intro _ | with_reducible apply Out.ite | split
      | dsimp only [id_eq] | (rename_i e; with_reducible refine Out.of_eq e ?_)

theorem datasetManagement_out (id : CmdId) (nsid : BitVec 32) (deallocate : Bool) (ranges : List (BitVec 64 × BitVec 32)) {s : State} (h₀ : Out L₀ s₀ s)
    (hL : Key.sub writeCmdOut L₀ = true) :
    Out L₀ s₀ (datasetManagement id nsid deallocate ranges s) := by
  unfold datasetManagement
  repeat'
    first
      | with_reducible assumption | with_reducible apply State.taking_out | with_reducible apply State.onNs_out
      | with_reducible apply State.answer_out | with_reducible apply Out.forAll
      | with_reducible apply State.stageAll_out | exact Key.hasA rfl | exact Key.hasW | exact Out.sub hL rfl
      | intro _ | with_reducible apply Out.ite | split | dsimp only [id_eq]
      | (rename_i e; with_reducible refine Out.of_eq e ?_)

theorem zoneAppend_out (id : CmdId) (nsid : BitVec 32) (zslba : BitVec 64) (data : List Block) (fua : Bool) {s : State} (h₀ : Out L₀ s₀ s)
    (hL : Key.sub writeCmdOut L₀ = true) :
    Out L₀ s₀ (zoneAppend id nsid zslba data fua s) := by
  unfold zoneAppend
  repeat'
    first
      | with_reducible assumption | with_reducible apply State.taking_out | with_reducible apply State.onNs_out
      | with_reducible apply State.complete_out | with_reducible apply State.answer_out
      | with_reducible apply State.finishWrite_out | with_reducible apply State.takeData_out | exact Key.hasA rfl
      | exact Key.hasW | exact Out.sub hL rfl | intro _ | with_reducible apply Out.ite | split | dsimp only [id_eq]
      | (rename_i e; with_reducible refine Out.of_eq e ?_)

theorem State.zoneSend_out {s : State} (id : CmdId) (nsid : Nat) (slba : Nat) (all : Bool) (ok : List Nat) (sel : List Nat) (f : Cmd → List Nat → State → State) (h₀ : Out L₀ s₀ s) (hF_f : ∀ x0 x1 u, Out L₀ s₀ u → Out L₀ s₀ (f x0 x1 u))
    (hL : Key.sub keepAliveOut L₀ = true) :
    Out L₀ s₀ (State.zoneSend s id nsid slba all ok sel f) := by
  unfold State.zoneSend
  repeat'
    first
      | with_reducible assumption | with_reducible apply State.taking_out | with_reducible apply State.onNs_out
      | with_reducible apply State.answer_out | with_reducible apply hF_f | exact Key.hasA rfl | exact Key.hasW
      | exact Out.sub hL rfl | intro _ | with_reducible apply Out.ite | split | dsimp only [id_eq]
      | (rename_i e; with_reducible refine Out.of_eq e ?_)

theorem State.zoneWait_out {s : State} (c : Cmd) (nsid : Nat) (zs : List Nat) (fin : CmdFin) (h₀ : Out L₀ s₀ s)
    (hL : Key.sub completeOut L₀ = true) :
    Out L₀ s₀ (State.zoneWait s c nsid zs fin) := by
  unfold State.zoneWait
  repeat'
    first
      | with_reducible assumption | with_reducible apply State.answer_out | with_reducible apply State.updCmd_out
      | with_reducible apply Out.forAll | with_reducible apply State.beginPoint_out | exact Key.hasA rfl
      | exact Key.hasW | exact Out.sub hL rfl | intro _ | with_reducible apply Out.ite | split | dsimp only [id_eq]
      | (rename_i e; with_reducible refine Out.of_eq e ?_)

theorem zoneReset_out (id : CmdId) (nsid : BitVec 32) (slba : BitVec 64) (all : Bool) {s : State} (h₀ : Out L₀ s₀ s)
    (hL : Key.sub keepAliveOut L₀ = true) :
    Out L₀ s₀ (zoneReset id nsid slba all s) := by
  unfold zoneReset
  repeat'
    first
      | with_reducible assumption | with_reducible apply State.zoneSend_out | with_reducible apply State.zoneWait_out
      | exact Key.hasA rfl | exact Key.hasW | exact Out.sub hL rfl | intro _ | with_reducible apply Out.ite | split
      | dsimp only [id_eq] | (rename_i e; with_reducible refine Out.of_eq e ?_)

theorem zoneFinish_out (id : CmdId) (nsid : BitVec 32) (slba : BitVec 64) (all : Bool) {s : State} (h₀ : Out L₀ s₀ s)
    (hL : Key.sub keepAliveOut L₀ = true) :
    Out L₀ s₀ (zoneFinish id nsid slba all s) := by
  unfold zoneFinish
  repeat'
    first
      | with_reducible assumption | with_reducible apply State.zoneSend_out | with_reducible apply State.zoneWait_out
      | with_reducible apply Out.forAll | with_reducible apply State.closeShort_out | exact Key.hasA rfl
      | exact Key.hasW | exact Out.sub hL rfl | intro _ | with_reducible apply Out.ite | split | dsimp only [id_eq]
      | (rename_i e; with_reducible refine Out.of_eq e ?_)

theorem zoneOpen_out (id : CmdId) (nsid : BitVec 32) (slba : BitVec 64) (all : Bool) {s : State} (h₀ : Out L₀ s₀ s)
    (hL : Key.sub keepAliveOut L₀ = true) :
    Out L₀ s₀ (zoneOpen id nsid slba all s) := by
  unfold zoneOpen
  repeat'
    first
      | with_reducible assumption | with_reducible apply State.zoneSend_out | with_reducible apply State.answer_out
      | with_reducible apply Out.forAll | with_reducible apply State.setZone_out | exact Key.hasA rfl
      | exact Key.hasW | exact Out.sub hL rfl | intro _ | with_reducible apply Out.ite | split | dsimp only [id_eq]
      | (rename_i e; with_reducible refine Out.of_eq e ?_)

theorem zoneClose_out (id : CmdId) (nsid : BitVec 32) (slba : BitVec 64) (all : Bool) {s : State} (h₀ : Out L₀ s₀ s)
    (hL : Key.sub keepAliveOut L₀ = true) :
    Out L₀ s₀ (zoneClose id nsid slba all s) := by
  unfold zoneClose
  repeat'
    first
      | with_reducible assumption | with_reducible apply State.zoneSend_out | with_reducible apply State.answer_out
      | with_reducible apply Out.forAll | with_reducible apply State.setZone_out | exact Key.hasA rfl
      | exact Key.hasW | exact Out.sub hL rfl | intro _ | with_reducible apply Out.ite | split | dsimp only [id_eq]
      | (rename_i e; with_reducible refine Out.of_eq e ?_)

theorem setZoneDescriptorExtension_out (id : CmdId) (nsid : BitVec 32) (slba : BitVec 64) {s : State} (h₀ : Out L₀ s₀ s)
    (hL : Key.sub keepAliveOut L₀ = true) :
    Out L₀ s₀ (setZoneDescriptorExtension id nsid slba s) := by
  unfold setZoneDescriptorExtension
  repeat'
    first
      | with_reducible assumption | with_reducible apply State.zoneSend_out | with_reducible apply State.answer_out
      | exact Key.hasA rfl | exact Key.hasW | exact Out.sub hL rfl | intro _ | with_reducible apply Out.ite | split
      | dsimp only [id_eq] | (rename_i e; with_reducible refine Out.of_eq e ?_)

theorem zoneManagementReceive_out (id : CmdId) (nsid : BitVec 32) (slba : BitVec 64) (ext : Bool) {s : State} (h₀ : Out L₀ s₀ s)
    (hL : Key.sub keepAliveOut L₀ = true) :
    Out L₀ s₀ (zoneManagementReceive id nsid slba ext s) := by
  unfold zoneManagementReceive
  repeat'
    first
      | with_reducible assumption | with_reducible apply State.taking_out | with_reducible apply State.onNs_out
      | with_reducible apply State.answer_out | with_reducible apply State.complete_out | exact Key.hasA rfl
      | exact Key.hasW | exact Out.sub hL rfl | intro _ | with_reducible apply Out.ite | split | dsimp only [id_eq]
      | (rename_i e; with_reducible refine Out.of_eq e ?_)

theorem State.resetZone_out {s : State} (nsid : Nat) (z : Nat) (h₀ : Out L₀ s₀ s)
    (hL : Key.sub [.w 2 8, .w 2 20, .w 2 24, .a 2 32 4, .w 2 5439488, .w 2 5505024, .w 6 8, .w 6 12, .w 7 12, .w 7 24, .w 7 28,
    .w 7 17956864, .w 9 8, .w 10 20, .w 10 24, .w 11 8, .w 11 12, .a 11 32 4, .a 11 48 4, .w 11 72, .w 20 8,
    .w 20 12, .a 20 32 4, .a 65 15335424 268435456, .a 65 15400960 268435456, .a 65 22347776 268435456, .p .free,
    .p .edges, .p .inbox, .p .mcache, .p .jq, .p .jobNo, .p .cmds, .p .cqs, .p .ctrls, .p .nss, .p .zones,
    .p .bands, .p .vol, .p .dur, .p .points, .p .mops, .p .opid, .p .journal, .p .jseq, .p .blks, .p .fops,
    .p .fwait, .p .errlog, .p .pkt, .p .hbm, .p .poison, .p .lost, .p .kvLog, .p .stripes, .p .weakSlots] L₀ = true) :
    Out L₀ s₀ (State.resetZone s nsid z) := by
  unfold State.resetZone
  repeat'
    first
      | with_reducible assumption | with_reducible apply State.zeroRange_out | with_reducible apply Out.forAll
      | with_reducible apply State.abandonOp_out | with_reducible apply State.reclaimNext_out
      | with_reducible apply State.setBand_out | with_reducible apply State.setZone_out
      | with_reducible apply State.swapZone_out | exact Key.hasA rfl | exact Key.hasW | exact Out.sub hL rfl
      | intro _ | with_reducible apply Out.ite | split | dsimp only [id_eq]
      | (rename_i e; with_reducible refine Out.of_eq e ?_) | with_reducible apply Out.setLost

theorem State.finishZone_out {s : State} (nsid : Nat) (z : Nat) (h₀ : Out L₀ s₀ s)
    (hL : Key.sub [.a 11 32 4, .a 11 48 4, .p .zones, .p .bands] L₀ = true) :
    Out L₀ s₀ (State.finishZone s nsid z) := by
  unfold State.finishZone
  repeat'
    first
      | with_reducible assumption | with_reducible apply Out.forAll | with_reducible apply State.setBand_out
      | with_reducible apply State.setZone_out | exact Key.hasA rfl | exact Key.hasW | exact Out.sub hL rfl | intro _
      | with_reducible apply Out.ite | split | dsimp only [id_eq]
      | (rename_i e; with_reducible refine Out.of_eq e ?_)

/-- What `State.finish` may change. -/
def finishOut : List Key :=
  [.w 2 8, .w 2 20, .w 2 24, .a 2 32 4, .w 2 5439488, .w 2 5505024, .w 6 8, .w 6 12,
    .w 7 12, .w 7 24, .w 7 28, .w 7 17956864, .w 8 8, .w 9 8, .w 10 20, .w 10 24, .w 11 8, .w 11 12, .a 11 32 4,
    .a 11 48 4, .w 11 72, .w 11 84, .w 12 8, .w 13 8, .w 13 12, .w 13 76, .w 13 1572864, .w 13 2359296,
    .w 13 2424832, .w 13 20250624, .w 14 8, .w 14 12, .w 14 24, .w 14 84, .w 14 3211264, .w 14 3342336,
    .w 14 3407872, .w 14 3473408, .w 14 3538944, .w 14 4128768, .w 14 4194304, .w 14 4259840, .w 14 4325376,
    .w 14 4784128, .w 14 21692416, .w 14 21757952, .w 14 22675456, .w 14 22806528, .w 16 8, .w 16 12, .w 16 6094848,
    .w 16 8519680, .w 16 8585216, .w 16 8912896, .w 16 8978432, .w 16 9240576, .w 16 9306112, .w 16 9502720,
    .w 16 9568256, .w 16 9895936, .w 16 9961472, .w 16 10223616, .w 16 10551296, .w 16 10944512, .w 16 23068672,
    .w 16 23789568, .w 16 23855104, .w 16 24051712, .w 16 24444928, .w 17 13762560, .w 17 24510464, .w 18 8,
    .w 18 12, .w 18 72, .w 18 786432, .w 18 20578304, .w 19 12, .w 19 16, .w 19 1114112, .w 19 1179648,
    .a 19 1310720 268435456, .a 19 1376256 268435456, .a 19 22413312 268435456, .a 19 22478848 268435456, .w 20 8,
    .w 20 12, .a 20 32 4, .w 22 8, .w 22 12, .w 22 24, .w 22 28, .w 64 6881280, .w 64 16711680,
    .a 65 15335424 268435456, .a 65 15400960 268435456, .a 65 22347776 268435456, .p .win, .p .free, .p .edges,
    .p .inbox, .p .chn, .p .seqs, .p .mcache, .p .pa, .p .jq, .p .jact, .p .jobNo, .p .cmds, .p .cqs, .p .ctrls,
    .p .nss, .p .zones, .p .bands, .p .vol, .p .dur, .p .points, .p .mops, .p .opid, .p .journal, .p .jseq,
    .p .test, .p .testLog, .p .blks, .p .fops, .p .fwait, .p .errlog, .p .pkt, .p .hbm, .p .poison, .p .lost,
    .p .kvLog, .p .kvDur, .p .stripes, .p .weakSlots]

theorem State.finish_out {s : State} (c : Cmd) (h₀ : Out L₀ s₀ s)
    (hL : Key.sub finishOut L₀ = true) :
    Out L₀ s₀ (State.finish s c) := by
  unfold State.finish
  repeat'
    first
      | with_reducible assumption | with_reducible apply Out.forAll | with_reducible apply State.resetZone_out
      | with_reducible apply State.finishZone_out | with_reducible apply State.removeNs_out
      | with_reducible apply State.copyDone_out | with_reducible apply State.complete_out | exact Key.hasA rfl
      | exact Key.hasW | exact Out.sub hL rfl | intro _ | with_reducible apply Out.ite | split | dsimp only [id_eq]
      | (rename_i e; with_reducible refine Out.of_eq e ?_)

theorem State.pointDone_out {s : State} (a : Nat) (bound : Nat) (h₀ : Out L₀ s₀ s)
    (hL : Key.sub finishOut L₀ = true) :
    Out L₀ s₀ (State.pointDone s a bound) := by
  unfold State.pointDone
  repeat'
    first
      | with_reducible assumption | with_reducible apply Out.forAll | with_reducible apply State.finish_out
      | with_reducible apply State.updCmd_out | exact Key.hasA rfl | exact Key.hasW | exact Out.sub hL rfl | intro _
      | with_reducible apply Out.ite | split | dsimp only [id_eq]
      | (rename_i e; with_reducible refine Out.of_eq e ?_)

/-- What `durablePointStands` may change. -/
def durablePointStandsOut : List Key :=
  [.w 2 8, .w 2 20, .w 2 24, .a 2 32 4, .w 2 5439488, .w 2 5505024, .w 6 8,
    .w 6 12, .w 6 17629184, .w 7 12, .w 7 24, .w 7 28, .w 7 17956864, .w 8 8, .w 9 8, .w 10 20, .w 10 24, .w 11 8,
    .w 11 12, .a 11 32 4, .a 11 48 4, .w 11 72, .w 11 80, .w 11 84, .w 12 8, .w 13 8, .w 13 12, .w 13 76,
    .w 13 1572864, .w 13 2359296, .w 13 2424832, .w 13 20250624, .w 14 8, .w 14 12, .w 14 24, .w 14 84,
    .w 14 3211264, .w 14 3342336, .w 14 3407872, .w 14 3473408, .w 14 3538944, .w 14 4128768, .w 14 4194304,
    .w 14 4259840, .w 14 4325376, .w 14 4784128, .w 14 21692416, .w 14 21757952, .w 14 22675456, .w 14 22806528,
    .w 16 8, .w 16 12, .w 16 6094848, .w 16 8519680, .w 16 8585216, .w 16 8912896, .w 16 8978432, .w 16 9240576,
    .w 16 9306112, .w 16 9502720, .w 16 9568256, .w 16 9895936, .w 16 9961472, .w 16 10223616, .w 16 10551296,
    .w 16 10944512, .w 16 23068672, .w 16 23789568, .w 16 23855104, .w 16 24051712, .w 16 24444928, .w 17 13762560,
    .w 17 24510464, .w 18 8, .w 18 12, .w 18 72, .w 18 786432, .w 18 20578304, .w 19 12, .w 19 16, .w 19 1114112,
    .w 19 1179648, .a 19 1310720 268435456, .a 19 1376256 268435456, .a 19 22413312 268435456,
    .a 19 22478848 268435456, .w 20 8, .w 20 12, .a 20 32 4, .w 22 8, .w 22 12, .w 22 24, .w 22 28, .w 64 6881280,
    .w 64 16711680, .a 65 15335424 268435456, .a 65 15400960 268435456, .a 65 22347776 268435456,
    .a 65 24969216 268435456, .p .win, .p .free, .p .edges, .p .inbox, .p .chn, .p .seqs, .p .media, .p .mcache,
    .p .sysrec, .p .pa, .p .jq, .p .jact, .p .jobNo, .p .cmds, .p .cqs, .p .ctrls, .p .nss, .p .zones, .p .bands,
    .p .vol, .p .dur, .p .points, .p .mops, .p .opid, .p .journal, .p .jseq, .p .test, .p .testLog, .p .blks,
    .p .fops, .p .fwait, .p .errlog, .p .pkt, .p .hbm, .p .poison, .p .lost, .p .kvLog, .p .kvDur, .p .stripes,
    .p .weakSlots]

theorem durablePointStands_out (a : Act) (copy : Fin 3) {s : State} (h₀ : Out L₀ s₀ s)
    (hL : Key.sub durablePointStandsOut L₀ = true) :
    Out L₀ s₀ (durablePointStands a copy s) := by
  unfold durablePointStands
  repeat'
    first
      | with_reducible assumption | with_reducible apply State.levelCopies_out | with_reducible apply Out.count
      | with_reducible apply State.kvDurable_out | with_reducible apply State.recordPoint_out
      | with_reducible apply State.makeDurable_out | with_reducible apply State.pointDone_out
      | with_reducible apply State.clean_out | with_reducible apply State.planAgain_out | exact Key.hasA rfl
      | exact Key.hasW | exact Out.sub hL rfl | intro _ | with_reducible apply Out.ite | split | dsimp only [id_eq]
      | (rename_i e; with_reducible refine Out.of_eq e ?_) | with_reducible apply Out.setPoints

theorem State.takeList_out (full : Bool) (l : List Waiting) : ∀ {s : State}, Out L₀ s₀ s → Key.sub tryTakeOut L₀ = true →
    Out L₀ s₀ (State.takeList full l s).1 := by
  induction l with
  | nil => intro s h _; exact h
  | cons w l ih =>
    intro s h hL
    unfold State.takeList
    dsimp only
    split
    · exact ih (State.tryTake_out _ _ h (Out.sub hL rfl)) hL
    · exact State.tryTake_out _ _ h (Out.sub hL rfl)

/-- What `intakeVisit` may change. -/
def intakeVisitOut : List Key :=
  [.w 2 8, .w 2 12, .w 2 20, .w 2 24, .a 2 32 4, .w 2 64, .w 2 68, .w 2 5439488,
    .w 2 5505024, .w 11 12, .w 11 84, .w 12 8, .w 13 8, .w 13 12, .w 13 76, .w 13 1572864, .w 13 2359296,
    .w 13 2424832, .w 13 20250624, .w 14 8, .w 14 12, .w 14 24, .w 14 84, .w 14 3211264, .w 14 3342336,
    .w 14 3407872, .w 14 3473408, .w 14 3538944, .w 14 4128768, .w 14 4194304, .w 14 4259840, .w 14 4325376,
    .w 14 4784128, .w 14 21692416, .w 14 21757952, .w 14 22675456, .w 14 22806528, .w 16 8, .w 16 12, .w 16 6094848,
    .w 16 8519680, .w 16 8585216, .w 16 8912896, .w 16 8978432, .w 16 9240576, .w 16 9306112, .w 16 9502720,
    .w 16 9568256, .w 16 9895936, .w 16 9961472, .w 16 10223616, .w 16 10551296, .w 16 10944512, .w 16 23068672,
    .w 16 23789568, .w 16 23855104, .w 16 24051712, .w 16 24444928, .w 17 13762560, .w 17 24510464, .w 18 8,
    .w 18 12, .w 18 72, .w 18 786432, .w 18 20578304, .w 19 12, .w 19 16, .w 19 1114112, .w 19 1179648,
    .a 19 1310720 268435456, .a 19 1376256 268435456, .a 19 22413312 268435456, .a 19 22478848 268435456, .w 22 8,
    .w 22 12, .w 22 28, .w 64 6881280, .w 64 16711680, .p .win, .p .edges, .p .inbox, .p .chn, .p .seqs, .p .pa,
    .p .jq, .p .jact, .p .cmds, .p .cmdNo, .p .visit, .p .zones, .p .mops]

theorem intakeVisit_out (waiting : List Waiting) (full : Bool) {s : State} (h₀ : Out L₀ s₀ s)
    (hL : Key.sub intakeVisitOut L₀ = true) :
    Out L₀ s₀ (intakeVisit waiting full s) := by
  unfold intakeVisit
  repeat'
    first
      | with_reducible assumption | with_reducible apply State.showPause_out
      | with_reducible apply State.takeList_out | exact Key.hasA rfl | exact Key.hasW | exact Out.sub hL rfl
      | intro _ | with_reducible apply Out.ite | split | dsimp only [id_eq]
      | (rename_i e; with_reducible refine Out.of_eq e ?_) | with_reducible apply Out.setVisit

theorem turnstileRelease_out (id : CmdId) {s : State} (h₀ : Out L₀ s₀ s)
    (hL : Key.sub [.p .cmds] L₀ = true) :
    Out L₀ s₀ (turnstileRelease id s) := by
  unfold turnstileRelease
  repeat'
    first
      | with_reducible assumption | with_reducible apply State.updCmd_out | exact Key.hasA rfl | exact Key.hasW
      | exact Out.sub hL rfl | intro _ | with_reducible apply Out.ite | split | dsimp only [id_eq]
      | (rename_i e; with_reducible refine Out.of_eq e ?_)

/-- What `State.setFetchHold` may change. -/
def setFetchHoldOut : List Key :=
  [.w 2 0, .w 2 8, .w 2 12, .w 2 68, .w 2 5439488, .w 2 5505024, .p .edges,
    .p .inbox]

theorem State.setFetchHold_out {s : State} (v : Bool) (h₀ : Out L₀ s₀ s)
    (hL : Key.sub setFetchHoldOut L₀ = true) :
    Out L₀ s₀ (State.setFetchHold s v) := by
  unfold State.setFetchHold
  repeat'
    first
      | with_reducible assumption | with_reducible apply Out.putB | with_reducible apply State.showPause_out
      | exact Key.hasA rfl | exact Key.hasW | exact Out.sub hL rfl | intro _ | with_reducible apply Out.ite | split
      | dsimp only [id_eq] | (rename_i e; with_reducible refine Out.of_eq e ?_)

theorem fetchHold_out (v : Bool) {s : State} (h₀ : Out L₀ s₀ s)
    (hL : Key.sub setFetchHoldOut L₀ = true) :
    Out L₀ s₀ (fetchHold v s) := by
  unfold fetchHold
  repeat'
    first
      | with_reducible assumption | with_reducible apply State.setFetchHold_out | exact Key.hasA rfl | exact Key.hasW
      | exact Out.sub hL rfl | intro _ | with_reducible apply Out.ite | split | dsimp only [id_eq]
      | (rename_i e; with_reducible refine Out.of_eq e ?_)

theorem hiwatClr_out {s : State} (h₀ : Out L₀ s₀ s)
    (hL : Key.sub [.w 2 20] L₀ = true) :
    Out L₀ s₀ (hiwatClr s) := by
  unfold hiwatClr
  repeat'
    first
      | with_reducible assumption | with_reducible apply Out.put | exact Key.hasA rfl | exact Key.hasW
      | exact Out.sub hL rfl | intro _ | with_reducible apply Out.ite | split | dsimp only [id_eq]
      | (rename_i e; with_reducible refine Out.of_eq e ?_)

/-- What `jugglerPick` may change. -/
def jugglerPickOut : List Key :=
  [.w 2 12, .a 2 32 4, .w 2 72, .p .edges, .p .inbox, .p .jq, .p .jact]

theorem jugglerPick_out (a : Act) (w : BitVec 16) {s : State} (h₀ : Out L₀ s₀ s)
    (hL : Key.sub jugglerPickOut L₀ = true) :
    Out L₀ s₀ (jugglerPick a w s) := by
  unfold jugglerPick
  repeat'
    first
      | with_reducible assumption | with_reducible apply State.setJob_out | with_reducible apply State.setJugq_out
      | with_reducible apply Out.when | with_reducible apply Out.evt | with_reducible apply Out.count
      | exact Key.hasA rfl | exact Key.hasW | exact Out.sub hL rfl | intro _ | with_reducible apply Out.ite | split
      | dsimp only [id_eq] | (rename_i e; with_reducible refine Out.of_eq e ?_)

theorem State.cmdEnable_out {s : State} (h₀ : Out L₀ s₀ s)
    (hL : Key.sub [.w 2 0, .w 2 4] L₀ = true) :
    Out L₀ s₀ (State.cmdEnable s).1 := by
  unfold State.cmdEnable
  repeat'
    first
      | with_reducible assumption | with_reducible apply State.enable_out | exact Key.hasA rfl | exact Key.hasW
      | exact Out.sub hL rfl | intro _ | with_reducible apply Out.ite | split | dsimp only [id_eq]
      | (rename_i e; with_reducible refine Out.of_eq e ?_)

theorem cmdEnableCmd_out {s : State} (h₀ : Out L₀ s₀ s)
    (hL : Key.sub [.w 2 0, .w 2 4] L₀ = true) :
    Out L₀ s₀ (cmdEnableCmd s) := by
  unfold cmdEnableCmd
  repeat'
    first
      | with_reducible assumption | with_reducible apply State.cmdEnable_out | exact Key.hasA rfl | exact Key.hasW
      | exact Out.sub hL rfl | intro _ | with_reducible apply Out.ite | split | dsimp only [id_eq]
      | (rename_i e; with_reducible refine Out.of_eq e ?_)

theorem execDurablePointStands_out (a : Act) (copy : Fin 3) {s t : State} (h : execDurablePointStands a copy s = .next t) :
    Out durablePointStandsOut s t := by
  have h := Host.Outcome.next.inj h; subst h; exact durablePointStands_out _ _ (Out.refl s) rfl

theorem execConnect_out (cid : BitVec 16) (qid : BitVec 16) (cntlid : BitVec 16) (entries : Nat) (noFlow : Bool) (kato : BitVec 32) (hostId : BitVec 128) (hostNqn : List Byte) (member : Bool) (conn : ConnData) {s t : State} (h : execConnect cid qid cntlid entries noFlow kato hostId hostNqn member conn s = .next t) :
    Out [.w 2 8, .p .cqs, .p .ctrls, .p .visit, .p .nss] s t := by
  have h := Host.Outcome.next.inj h; subst h; exact connect_out _ _ _ _ _ _ _ _ _ _ (Out.refl s) rfl

theorem execDisconnect_out (c : BitVec 16) {s t : State} (h : execDisconnect c s = .next t) :
    Out tearDownOut s t := by
  have h := Host.Outcome.next.inj h; subst h; exact disconnect_out _ (Out.refl s) rfl

theorem execControllerReset_out (c : BitVec 16) {s t : State} (h : execControllerReset c s = .next t) :
    Out controllerResetOut s t := by
  have h := Host.Outcome.next.inj h; subst h; exact controllerReset_out _ (Out.refl s) rfl

theorem execKatoExpiry_out (c : BitVec 16) {s t : State} (h : execKatoExpiry c s = .next t) :
    Out katoExpiryOut s t := by
  have h := Host.Outcome.next.inj h; subst h; exact katoExpiry_out _ (Out.refl s) rfl

theorem execNvmeIdentify_out (id : CmdId) (cns : BitVec 8) (csi : BitVec 8) (nsid : BitVec 32) {s t : State} (h : execNvmeIdentify id cns csi nsid s = .next t) :
    Out keepAliveOut s t := by
  have h := Host.Outcome.next.inj h; subst h; exact nvmeIdentify_out _ _ _ _ (Out.refl s) rfl

theorem execGetLogPage_out (id : CmdId) (lid : BitVec 8) (nsid : BitVec 32) {s t : State} (h : execGetLogPage id lid nsid s = .next t) :
    Out getLogPageOut s t := by
  have h := Host.Outcome.next.inj h; subst h; exact getLogPage_out _ _ _ (Out.refl s) rfl

theorem execGetFeatures_out (id : CmdId) (fid : BitVec 8) (nsid : BitVec 32) (dw11 : BitVec 32) {s t : State} (h : execGetFeatures id fid nsid dw11 s = .next t) :
    Out keepAliveOut s t := by
  have h := Host.Outcome.next.inj h; subst h; exact getFeatures_out _ _ _ _ (Out.refl s) rfl

theorem execArbitration_out (id : CmdId) (ab : BitVec 3) {s t : State} (h : execArbitration id ab s = .next t) :
    Out keepAliveOut s t := by
  have h := Host.Outcome.next.inj h; subst h; exact arbitration_out _ _ (Out.refl s) rfl

theorem execPowerManagement_out (id : CmdId) (ps : BitVec 5) {s t : State} (h : execPowerManagement id ps s = .next t) :
    Out powerManagementOut s t := by
  have h := Host.Outcome.next.inj h; subst h; exact powerManagement_out _ _ (Out.refl s) rfl

theorem execTemperatureThreshold_out (id : CmdId) (tmpsel : BitVec 4) (under : Bool) (kelvin : BitVec 16) {s t : State} (h : execTemperatureThreshold id tmpsel under kelvin s = .next t) :
    Out getLogPageOut s t := by
  have h := Host.Outcome.next.inj h; subst h; exact temperatureThreshold_out _ _ _ _ (Out.refl s) rfl

theorem execVolatileWriteCache_out (id : CmdId) (wce : Bool) {s t : State} (h : execVolatileWriteCache id wce s = .next t) :
    Out volatileWriteCacheOut s t := by
  have h := Host.Outcome.next.inj h; subst h; exact volatileWriteCache_out _ _ (Out.refl s) rfl

theorem execNumberOfQueues_out (id : CmdId) (nsq : BitVec 16) (ncq : BitVec 16) {s t : State} (h : execNumberOfQueues id nsq ncq s = .next t) :
    Out getLogPageOut s t := by
  have h := Host.Outcome.next.inj h; subst h; exact numberOfQueues_out _ _ _ (Out.refl s) rfl

theorem execAsynchronousEventConfiguration_out (id : CmdId) (v : BitVec 32) {s t : State} (h : execAsynchronousEventConfiguration id v s = .next t) :
    Out getLogPageOut s t := by
  have h := Host.Outcome.next.inj h; subst h; exact asyncConfig_out _ _ (Out.refl s) rfl

theorem execKeepAliveTimer_out (id : CmdId) (kato : BitVec 32) {s t : State} (h : execKeepAliveTimer id kato s = .next t) :
    Out getLogPageOut s t := by
  have h := Host.Outcome.next.inj h; subst h; exact keepAliveTimer_out _ _ (Out.refl s) rfl

theorem execHostIdentifier_out (id : CmdId) (exhid : Bool) (v : BitVec 128) {s t : State} (h : execHostIdentifier id exhid v s = .next t) :
    Out getLogPageOut s t := by
  have h := Host.Outcome.next.inj h; subst h; exact hostIdentifier_out _ _ _ (Out.refl s) rfl

theorem execLatencyBudget_out (id : CmdId) (nsid : BitVec 32) (us : BitVec 32) {s t : State} (h : execLatencyBudget id nsid us s = .next t) :
    Out powerManagementOut s t := by
  have h := Host.Outcome.next.inj h; subst h; exact latencyBudget_out _ _ _ (Out.refl s) rfl

theorem execAbort_out (id : CmdId) (sqid : BitVec 16) (cid : BitVec 16) (inQueue : Bool) {s t : State} (h : execAbort id sqid cid inQueue s = .next t) :
    Out abortCmdOut s t := by
  have h := Host.Outcome.next.inj h; subst h; exact abortCmd_out _ _ _ _ (Out.refl s) rfl

theorem execAsynchronousEventRequest_out (id : CmdId) {s t : State} (h : execAsynchronousEventRequest id s = .next t) :
    Out getLogPageOut s t := by
  have h := Host.Outcome.next.inj h; subst h; exact asyncRequest_out _ (Out.refl s) rfl

theorem execNamespaceCreate_out (id : CmdId) (csi : BitVec 8) (nsze : BitVec 64) (ncap : BitVec 64) (lbaf : BitVec 8) (pi : BitVec 8) {s t : State} (h : execNamespaceCreate id csi nsze ncap lbaf pi s = .next t) :
    Out namespaceCreateOut s t := by
  have h := Host.Outcome.next.inj h; subst h; exact namespaceCreate_out _ _ _ _ _ _ (Out.refl s) rfl

theorem execNamespaceDelete_out (id : CmdId) (nsid : BitVec 32) {s t : State} (h : execNamespaceDelete id nsid s = .next t) :
    Out keepAliveOut s t := by
  have h := Host.Outcome.next.inj h; subst h; exact namespaceDelete_out _ _ (Out.refl s) rfl

theorem execNamespaceAttachment_out (id : CmdId) (nsid : BitVec 32) (attach : Bool) (ctrls : List (BitVec 16)) {s t : State} (h : execNamespaceAttachment id nsid attach ctrls s = .next t) :
    Out namespaceAttachmentOut s t := by
  have h := Host.Outcome.next.inj h; subst h; exact namespaceAttachment_out _ _ _ _ (Out.refl s) rfl

theorem execFirmwareImageDownload_out (id : CmdId) (ofs : BitVec 32) (data : List Byte) (ok : Bool) {s t : State} (h : execFirmwareImageDownload id ofs data ok s = .next t) :
    Out firmwareImageDownloadOut s t := by
  have h := Host.Outcome.next.inj h; subst h; exact firmwareImageDownload_out _ _ _ _ (Out.refl s) rfl

theorem execFirmwareCommit_out (id : CmdId) (action : BitVec 3) (slot : BitVec 3) (ok : Bool) {s t : State} (h : execFirmwareCommit id action slot ok s = .next t) :
    Out firmwareCommitOut s t := by
  have h := Host.Outcome.next.inj h; subst h; exact firmwareCommit_out _ _ _ _ (Out.refl s) rfl

theorem execDeviceSelfTest_out (id : CmdId) (ext : Bool) (nsid : BitVec 32) {s t : State} (h : execDeviceSelfTest id ext nsid s = .next t) :
    Out deviceSelfTestOut s t := by
  have h := Host.Outcome.next.inj h; subst h; exact deviceSelfTest_out _ _ _ (Out.refl s) rfl

theorem execSelfTestAbort_out (id : CmdId) {s t : State} (h : execSelfTestAbort id s = .next t) :
    Out selfTestAbortOut s t := by
  have h := Host.Outcome.next.inj h; subst h; exact selfTestAbort_out _ (Out.refl s) rfl

theorem execSelfTestSegment_out (ok : Bool) (nsid : BitVec 32) (lba : BitVec 64) {s t : State} (h : execSelfTestSegment ok nsid lba s = .next t) :
    Out [.w 10 24, .p .test, .p .testLog, .p .pkt, .p .hbm, .p .poison] s t := by
  have h := Host.Outcome.next.inj h; subst h; exact selfTestSegment_out _ _ _ (Out.refl s) rfl

theorem execKeepAlive_out (id : CmdId) {s t : State} (h : execKeepAlive id s = .next t) :
    Out keepAliveOut s t := by
  have h := Host.Outcome.next.inj h; subst h; exact keepAlive_out _ (Out.refl s) rfl

theorem execFormatNvm_out (id : CmdId) (nsid : BitVec 32) (lbaf : BitVec 4) (pi : BitVec 4) (ses : BitVec 4) {s t : State} (h : execFormatNvm id nsid lbaf pi ses s = .next t) :
    Out formatNvmOut s t := by
  have h := Host.Outcome.next.inj h; subst h; exact formatNvm_out _ _ _ _ _ (Out.refl s) rfl

theorem execSanitizeCryptoErase_out (id : CmdId) {s t : State} (h : execSanitizeCryptoErase id s = .next t) :
    Out sanitizeCryptoEraseOut s t := by
  have h := Host.Outcome.next.inj h; subst h; exact sanitizeCryptoErase_out _ (Out.refl s) rfl

theorem execSanitizeBlockErase_out (id : CmdId) {s t : State} (h : execSanitizeBlockErase id s = .next t) :
    Out sanitizeBlockEraseOut s t := by
  have h := Host.Outcome.next.inj h; subst h; exact sanitizeBlockErase_out _ (Out.refl s) rfl

theorem execUnsupportedOpcode_out (id : CmdId) {s t : State} (h : execUnsupportedOpcode id s = .next t) :
    Out keepAliveOut s t := by
  have h := Host.Outcome.next.inj h; subst h; exact unsupportedOpcode_out _ (Out.refl s) rfl

theorem execRead_out (id : CmdId) (nsid : BitVec 32) (lba : BitVec 64) (nlb : BitVec 16) (limited : Bool) {s t : State} (h : execRead id nsid lba nlb limited s = .next t) :
    Out keepAliveOut s t := by
  have h := Host.Outcome.next.inj h; subst h; exact readCmd_out _ _ _ _ _ (Out.refl s) rfl

theorem execWrite_out (id : CmdId) (nsid : BitVec 32) (lba : BitVec 64) (data : List Block) (fua : Bool) {s t : State} (h : execWrite id nsid lba data fua s = .next t) :
    Out writeCmdOut s t := by
  have h := Host.Outcome.next.inj h; subst h; exact writeCmd_out _ _ _ _ _ (Out.refl s) rfl

theorem execWriteZeroes_out (id : CmdId) (nsid : BitVec 32) (lba : BitVec 64) (nlb : BitVec 16) (fua : Bool) {s t : State} (h : execWriteZeroes id nsid lba nlb fua s = .next t) :
    Out writeCmdOut s t := by
  have h := Host.Outcome.next.inj h; subst h; exact writeZeroes_out _ _ _ _ _ (Out.refl s) rfl

theorem execDatasetManagement_out (id : CmdId) (nsid : BitVec 32) (deallocate : Bool) (ranges : List (BitVec 64 × BitVec 32)) {s t : State} (h : execDatasetManagement id nsid deallocate ranges s = .next t) :
    Out writeCmdOut s t := by
  have h := Host.Outcome.next.inj h; subst h; exact datasetManagement_out _ _ _ _ (Out.refl s) rfl

theorem execVerify_out (id : CmdId) (nsid : BitVec 32) (lba : BitVec 64) (nlb : BitVec 16) {s t : State} (h : execVerify id nsid lba nlb s = .next t) :
    Out keepAliveOut s t := by
  have h := Host.Outcome.next.inj h; subst h; exact verifyCmd_out _ _ _ _ (Out.refl s) rfl

theorem execZoneAppend_out (id : CmdId) (nsid : BitVec 32) (zslba : BitVec 64) (data : List Block) (fua : Bool) {s t : State} (h : execZoneAppend id nsid zslba data fua s = .next t) :
    Out writeCmdOut s t := by
  have h := Host.Outcome.next.inj h; subst h; exact zoneAppend_out _ _ _ _ _ (Out.refl s) rfl

theorem execZoneReset_out (id : CmdId) (nsid : BitVec 32) (slba : BitVec 64) (all : Bool) {s t : State} (h : execZoneReset id nsid slba all s = .next t) :
    Out keepAliveOut s t := by
  have h := Host.Outcome.next.inj h; subst h; exact zoneReset_out _ _ _ _ (Out.refl s) rfl

theorem execZoneFinish_out (id : CmdId) (nsid : BitVec 32) (slba : BitVec 64) (all : Bool) {s t : State} (h : execZoneFinish id nsid slba all s = .next t) :
    Out keepAliveOut s t := by
  have h := Host.Outcome.next.inj h; subst h; exact zoneFinish_out _ _ _ _ (Out.refl s) rfl

theorem execZoneOpen_out (id : CmdId) (nsid : BitVec 32) (slba : BitVec 64) (all : Bool) {s t : State} (h : execZoneOpen id nsid slba all s = .next t) :
    Out keepAliveOut s t := by
  have h := Host.Outcome.next.inj h; subst h; exact zoneOpen_out _ _ _ _ (Out.refl s) rfl

theorem execZoneClose_out (id : CmdId) (nsid : BitVec 32) (slba : BitVec 64) (all : Bool) {s t : State} (h : execZoneClose id nsid slba all s = .next t) :
    Out keepAliveOut s t := by
  have h := Host.Outcome.next.inj h; subst h; exact zoneClose_out _ _ _ _ (Out.refl s) rfl

theorem execSetZoneDescriptorExtension_out (id : CmdId) (nsid : BitVec 32) (slba : BitVec 64) {s t : State} (h : execSetZoneDescriptorExtension id nsid slba s = .next t) :
    Out keepAliveOut s t := by
  have h := Host.Outcome.next.inj h; subst h; exact setZoneDescriptorExtension_out _ _ _ (Out.refl s) rfl

theorem execZoneManagementReceive_out (id : CmdId) (nsid : BitVec 32) (slba : BitVec 64) (ext : Bool) {s t : State} (h : execZoneManagementReceive id nsid slba ext s = .next t) :
    Out keepAliveOut s t := by
  have h := Host.Outcome.next.inj h; subst h; exact zoneManagementReceive_out _ _ _ _ (Out.refl s) rfl

theorem execIntakeVisit_out (waiting : List Waiting) (full : Bool) {s t : State} (h : execIntakeVisit waiting full s = .next t) :
    Out intakeVisitOut s t := by
  have h := Host.Outcome.next.inj h; subst h; exact intakeVisit_out _ _ (Out.refl s) rfl

theorem execTurnstileRelease_out (id : CmdId) {s t : State} (h : execTurnstileRelease id s = .next t) :
    Out [.p .cmds] s t := by
  have h := Host.Outcome.next.inj h; subst h; exact turnstileRelease_out _ (Out.refl s) rfl

theorem execJugglerPick_out (a : Act) (w : BitVec 16) {s t : State} (h : execJugglerPick a w s = .next t) :
    Out jugglerPickOut s t := by
  have h := Host.Outcome.next.inj h; subst h; exact jugglerPick_out _ _ (Out.refl s) rfl

theorem execCmdEnable_out {s t : State} (h : execCmdEnable s = .next t) :
    Out [.w 2 0, .w 2 4] s t := by
  have h := Host.Outcome.next.inj h; subst h; exact cmdEnableCmd_out  (Out.refl s) rfl

theorem execFetchHold_out (v : Bool) {s t : State} (h : execFetchHold v s = .next t) :
    Out setFetchHoldOut s t := by
  have h := Host.Outcome.next.inj h; subst h; exact fetchHold_out _ (Out.refl s) rfl

theorem execHiwatClr_out {s t : State} (h : execHiwatClr s = .next t) :
    Out [.w 2 20] s t := by
  have h := Host.Outcome.next.inj h; subst h; exact hiwatClr_out  (Out.refl s) rfl

end Sys2Proof.Machine
end

