-- ==== Sys2Proof/Laws/OutBpf.lean ====
section
/-!
SUPPORT. What each operation and each command of `Machine/Bpf.lean` can change.
-/

namespace Sys2Proof.Machine

set_option Elab.async false
set_option linter.unusedVariables false

set_option maxRecDepth 8000
set_option linter.unusedTactic false
set_option linter.unreachableTactic false

variable {L₀ : List Key} {s₀ : State}

theorem State.runStore_out {s : State} (r : Run) (adr : Nat) (bs : List Byte) (h : Out L₀ s₀ s)
    (hL : Key.sub [.w 9 8, .w 10 20, .w 10 24, .p .pkt, .p .hbm, .p .poison] L₀ = true) {p : State × Run} (e : State.runStore s r adr bs = some p) : Out L₀ s₀ p.1 := by
  unfold State.runStore at e
  split at e
  · cases e; exact State.memPut_out _ _ _ h (Out.sub hL rfl)
  · split at e
    · cases e; exact h
    · cases e

theorem State.runMem_out {s : State} (code : List Nat) (r : Run) (w : Nat) (h₀ : Out L₀ s₀ s)
    (hL : Key.sub [.w 9 8, .w 10 20, .w 10 24, .p .pkt, .p .hbm, .p .poison] L₀ = true) :
    Out L₀ s₀ (State.runMem s code r w).1 := by
  unfold State.runMem
  repeat'
    first
      | with_reducible assumption | with_reducible apply State.memTouch_out | exact Key.hasA rfl | exact Key.hasW
      | exact Out.sub hL rfl | (rename_i heq; with_reducible refine State.runStore_out _ _ _ ?_ ?_ heq) | intro _
      | with_reducible apply Out.ite | split | dsimp only [id_eq]
      | (rename_i e; with_reducible refine Out.of_eq e ?_)

theorem State.runOne_out {s : State} (code : List Nat) (r : Run) (h₀ : Out L₀ s₀ s)
    (hL : Key.sub [.w 9 8, .w 10 20, .w 10 24, .p .pkt, .p .hbm, .p .poison] L₀ = true) :
    Out L₀ s₀ (State.runOne s code r).1 := by
  unfold State.runOne
  repeat'
    first
      | with_reducible assumption | with_reducible apply State.runMem_out | exact Key.hasA rfl | exact Key.hasW
      | exact Out.sub hL rfl | intro _ | with_reducible apply Out.ite | split | dsimp only [id_eq]
      | (rename_i e; with_reducible refine Out.of_eq e ?_)

theorem State.runFor_out (code : List Nat) (n : Nat) : ∀ {s : State} (r : Run), Out L₀ s₀ s → Key.sub [.w 9 8, .w 10 20, .w 10 24, .p .pkt, .p .hbm, .p .poison] L₀ = true →
    Out L₀ s₀ (State.runFor code n s r).1 := by
  induction n with
  | zero => intro s r h _; exact h
  | succ n ih =>
    intro s r h hL
    have hk := State.runOne_out code r h (Out.sub hL rfl)
    unfold State.runFor
    split
    · rename_i e
      rw [e] at hk
      exact ih _ hk hL
    · rename_i e
      rw [e] at hk
      exact hk

end Sys2Proof.Machine
end

