-- ==== Sys2Proof/Laws/OutServices.lean ====
section
/-!
SUPPORT. What each operation and each command of `Machine/Services.lean` can change.
-/

namespace Sys2Proof.Machine

set_option Elab.async false
set_option linter.unusedVariables false

set_option maxRecDepth 8000
set_option linter.unusedTactic false
set_option linter.unreachableTactic false

variable {L₀ : List Key} {s₀ : State}

theorem State.packInto_out {s : State} (nsid : Nat) (key : Nat) (bs : List Byte) (h₀ : Out L₀ s₀ s)
    (hL : Key.sub [.w 9 8, .w 10 20, .w 10 24, .p .pkt, .p .hbm, .p .poison, .p .stripes, .p .stripeNo] L₀ = true) :
    Out L₀ s₀ (State.packInto s nsid key bs).1 := by
  unfold State.packInto
  repeat'
    first
      | with_reducible assumption | with_reducible apply State.patchWrite_out
      | with_reducible apply State.updStripe_out | exact Key.hasA rfl | exact Key.hasW | exact Out.sub hL rfl
      | intro _ | with_reducible apply Out.ite | split | dsimp only [id_eq]
      | (rename_i e; with_reducible refine Out.of_eq e ?_) | with_reducible apply Out.setStripesStripeNo

theorem State.ownStripes_out {s : State} (nsid : Nat) (key : Nat) (bs : List Byte) (h₀ : Out L₀ s₀ s)
    (hL : Key.sub [.w 7 12, .w 7 24, .w 7 28, .w 7 17956864, .w 9 8, .w 10 20, .w 10 24, .p .edges, .p .inbox, .p .pkt, .p .hbm,
    .p .poison, .p .stripes, .p .stripeNo] L₀ = true) :
    Out L₀ s₀ (State.ownStripes s nsid key bs).1 := by
  unfold State.ownStripes
  repeat'
    first
      | with_reducible assumption | with_reducible apply State.showStripes_out | with_reducible apply Out.forAll
      | with_reducible apply State.patchWrite_out | exact Key.hasA rfl | exact Key.hasW | exact Out.sub hL rfl
      | intro _ | with_reducible apply Out.ite | split | dsimp only [id_eq]
      | (rename_i e; with_reducible refine Out.of_eq e ?_) | with_reducible apply Out.setStripesStripeNo

theorem State.onKey_out {s : State} (c : Cmd) (nsid : Nat) (key : List Byte) (f : Ns → State → State) (h₀ : Out L₀ s₀ s) (hF_f : ∀ x0 u, Out L₀ s₀ u → Out L₀ s₀ (f x0 u))
    (hL : Key.sub completeOut L₀ = true) :
    Out L₀ s₀ (State.onKey s c nsid key f) := by
  unfold State.onKey
  repeat'
    first
      | with_reducible assumption | with_reducible apply State.onNs_out | with_reducible apply State.answer_out
      | with_reducible apply State.partRead_out | with_reducible apply hF_f | exact Key.hasA rfl | exact Key.hasW
      | exact Out.sub hL rfl | intro _ | with_reducible apply Out.ite | split | dsimp only [id_eq]
      | (rename_i e; with_reducible refine Out.of_eq e ?_)

theorem State.kvShrink_out {s : State} (was : State) (h₀ : Out L₀ s₀ s)
    (hL : Key.sub reclaimOut L₀ = true) :
    Out L₀ s₀ (State.kvShrink s was) := by
  unfold State.kvShrink
  repeat'
    first
      | with_reducible assumption | with_reducible apply Out.forAll | with_reducible apply Out.when
      | with_reducible apply State.reclaim_out | exact Key.hasA rfl | exact Key.hasW | exact Out.sub hL rfl | intro _
      | with_reducible apply Out.ite | split | dsimp only [id_eq]
      | (rename_i e; with_reducible refine Out.of_eq e ?_)

theorem State.kvTidy_out {s : State} (was : State) (h₀ : Out L₀ s₀ s)
    (hL : Key.sub reclaimOut L₀ = true) :
    Out L₀ s₀ (State.kvTidy s was) := by
  unfold State.kvTidy
  repeat'
    first
      | with_reducible assumption | with_reducible apply State.kvShrink_out
      | with_reducible apply State.tidyFrags_out | with_reducible apply State.gcStripes_out | exact Key.hasA rfl
      | exact Key.hasW | exact Out.sub hL rfl | intro _ | with_reducible apply Out.ite | split | dsimp only [id_eq]
      | (rename_i e; with_reducible refine Out.of_eq e ?_)

/-- What `storeCmd` may change. -/
def storeCmdOut : List Key :=
  [.w 2 8, .w 2 12, .w 2 20, .w 2 24, .a 2 32 4, .w 2 64, .w 2 68, .w 2 5439488,
    .w 2 5505024, .w 6 8, .w 6 12, .w 7 8, .w 7 12, .w 7 24, .w 7 28, .w 7 17956864, .w 9 8, .w 10 20, .w 10 24,
    .w 11 8, .w 11 12, .a 11 32 4, .a 11 48 4, .w 11 84, .w 12 8, .w 13 8, .w 13 12, .w 13 76, .w 13 1572864,
    .w 13 2359296, .w 13 2424832, .w 13 20250624, .w 14 8, .w 14 12, .w 14 24, .w 14 84, .w 14 3211264,
    .w 14 3342336, .w 14 3407872, .w 14 3473408, .w 14 3538944, .w 14 4128768, .w 14 4194304, .w 14 4259840,
    .w 14 4325376, .w 14 4784128, .w 14 21692416, .w 14 21757952, .w 14 22675456, .w 14 22806528, .w 16 8, .w 16 12,
    .w 16 6094848, .w 16 8519680, .w 16 8585216, .w 16 8912896, .w 16 8978432, .w 16 9240576, .w 16 9306112,
    .w 16 9502720, .w 16 9568256, .w 16 9895936, .w 16 9961472, .w 16 10223616, .w 16 10551296, .w 16 10944512,
    .w 16 23068672, .w 16 23789568, .w 16 23855104, .w 16 24051712, .w 16 24444928, .w 17 13762560, .w 17 24510464,
    .w 18 8, .w 18 12, .w 18 72, .w 18 786432, .w 18 20578304, .w 19 12, .w 19 16, .w 19 1114112, .w 19 1179648,
    .a 19 1310720 268435456, .a 19 1376256 268435456, .a 19 22413312 268435456, .a 19 22478848 268435456, .w 20 8,
    .w 20 12, .a 20 32 4, .w 22 8, .w 22 12, .w 22 28, .w 64 6881280, .w 64 16711680, .a 65 15335424 268435456,
    .a 65 15400960 268435456, .a 65 22347776 268435456, .p .win, .p .free, .p .edges, .p .inbox, .p .chn, .p .seqs,
    .p .mcache, .p .pa, .p .jq, .p .jact, .p .jobNo, .p .cmds, .p .cmdNo, .p .cqs, .p .ctrls, .p .nss, .p .zones,
    .p .bands, .p .vol, .p .wseq, .p .points, .p .mops, .p .opid, .p .journal, .p .jseq, .p .blks, .p .fops,
    .p .fwait, .p .errlog, .p .pkt, .p .hbm, .p .poison, .p .lost, .p .kvLog, .p .stripes, .p .stripeNo]

theorem storeCmd_out (id : CmdId) (nsid : BitVec 32) (key : List Byte) (value : List Byte) (ifExists : Bool) (ifNew : Bool) (fua : Bool) {s : State} (h₀ : Out L₀ s₀ s)
    (hL : Key.sub storeCmdOut L₀ = true) :
    Out L₀ s₀ (storeCmd id nsid key value ifExists ifNew fua s) := by
  unfold storeCmd
  repeat'
    first
      | with_reducible assumption | with_reducible apply State.taking_out | with_reducible apply State.onKey_out
      | with_reducible apply State.finishWrite_out | with_reducible apply State.kvTidy_out
      | with_reducible apply State.answer_out | with_reducible apply Out.post | with_reducible apply Out.put
      | with_reducible apply State.ownStripes_out | with_reducible apply State.kvSetOn_out
      | with_reducible apply State.kvPlaceValue_out | with_reducible apply State.kvSet_out
      | with_reducible apply State.packInto_out | with_reducible apply Out.foldl | with_reducible apply Out.foldlFst
      | exact Key.hasA rfl | exact Key.hasW | exact Out.sub hL rfl
      | (rename_i heq; with_reducible refine State.kvAlloc_out _ _ _ ?_ ?_ heq) | intro _
      | with_reducible apply Out.ite | split | dsimp only [id_eq]
      | (rename_i e; with_reducible refine Out.of_eq e ?_) | with_reducible apply Out.setWseq

/-- What `retrieveCmd` may change. -/
def retrieveCmdOut : List Key :=
  [.w 2 8, .w 2 12, .w 2 20, .w 2 24, .a 2 32 4, .w 2 64, .w 2 68, .w 2 5439488,
    .w 2 5505024, .w 6 8, .w 6 12, .w 7 12, .w 7 24, .w 7 28, .w 7 68, .w 7 17956864, .w 9 8, .w 10 20, .w 10 24,
    .w 11 12, .a 11 32 4, .a 11 48 4, .w 11 84, .w 12 8, .w 13 8, .w 13 12, .w 13 76, .w 13 1572864, .w 13 2359296,
    .w 13 2424832, .w 13 20250624, .w 14 8, .w 14 12, .w 14 24, .w 14 84, .w 14 3211264, .w 14 3342336,
    .w 14 3407872, .w 14 3473408, .w 14 3538944, .w 14 4128768, .w 14 4194304, .w 14 4259840, .w 14 4325376,
    .w 14 4784128, .w 14 21692416, .w 14 21757952, .w 14 22675456, .w 14 22806528, .w 16 8, .w 16 12, .w 16 6094848,
    .w 16 8519680, .w 16 8585216, .w 16 8912896, .w 16 8978432, .w 16 9240576, .w 16 9306112, .w 16 9502720,
    .w 16 9568256, .w 16 9895936, .w 16 9961472, .w 16 10223616, .w 16 10551296, .w 16 10944512, .w 16 23068672,
    .w 16 23789568, .w 16 23855104, .w 16 24051712, .w 16 24444928, .w 17 13762560, .w 17 24510464, .w 18 8,
    .w 18 12, .w 18 72, .w 18 786432, .w 18 20578304, .w 19 12, .w 19 16, .w 19 1114112, .w 19 1179648,
    .a 19 1310720 268435456, .a 19 1376256 268435456, .a 19 22413312 268435456, .a 19 22478848 268435456, .w 22 8,
    .w 22 12, .w 22 28, .w 64 6881280, .w 64 16711680, .a 65 22347776 268435456, .p .win, .p .free, .p .edges,
    .p .inbox, .p .chn, .p .seqs, .p .mcache, .p .pa, .p .jq, .p .jact, .p .jobNo, .p .cmds, .p .cmdNo, .p .cqs,
    .p .nss, .p .zones, .p .bands, .p .vol, .p .points, .p .mops, .p .errlog, .p .pkt, .p .hbm, .p .poison,
    .p .lost, .p .kvLog, .p .stripes]

theorem retrieveCmd_out (id : CmdId) (nsid : BitVec 32) (key : List Byte) {s : State} (h₀ : Out L₀ s₀ s)
    (hL : Key.sub retrieveCmdOut L₀ = true) :
    Out L₀ s₀ (retrieveCmd id nsid key s) := by
  unfold retrieveCmd
  repeat'
    first
      | with_reducible assumption | with_reducible apply State.taking_out | with_reducible apply State.onKey_out
      | with_reducible apply State.answer_out | with_reducible apply State.complete_out
      | with_reducible apply State.queueJobs_out | with_reducible apply State.updCmd_out
      | with_reducible apply State.sendData_out | with_reducible apply State.showStripes_out
      | with_reducible apply Out.count | with_reducible apply Out.forAll | with_reducible apply State.patchRead_out
      | exact Key.hasA rfl | exact Key.hasW | exact Out.sub hL rfl | intro _ | with_reducible apply Out.ite | split
      | dsimp only [id_eq] | (rename_i e; with_reducible refine Out.of_eq e ?_)

/-- What `kvDelete` may change. -/
def kvDeleteOut : List Key :=
  [.w 2 8, .w 2 12, .w 2 20, .w 2 24, .a 2 32 4, .w 2 64, .w 2 68, .w 2 5439488,
    .w 2 5505024, .w 6 8, .w 6 12, .w 7 12, .w 7 24, .w 7 28, .w 7 17956864, .w 9 8, .w 10 20, .w 10 24, .w 11 8,
    .w 11 12, .a 11 32 4, .a 11 48 4, .w 11 84, .w 12 8, .w 13 8, .w 13 12, .w 13 76, .w 13 1572864, .w 13 2359296,
    .w 13 2424832, .w 13 20250624, .w 14 8, .w 14 12, .w 14 24, .w 14 84, .w 14 3211264, .w 14 3342336,
    .w 14 3407872, .w 14 3473408, .w 14 3538944, .w 14 4128768, .w 14 4194304, .w 14 4259840, .w 14 4325376,
    .w 14 4784128, .w 14 21692416, .w 14 21757952, .w 14 22675456, .w 14 22806528, .w 16 8, .w 16 12, .w 16 6094848,
    .w 16 8519680, .w 16 8585216, .w 16 8912896, .w 16 8978432, .w 16 9240576, .w 16 9306112, .w 16 9502720,
    .w 16 9568256, .w 16 9895936, .w 16 9961472, .w 16 10223616, .w 16 10551296, .w 16 10944512, .w 16 23068672,
    .w 16 23789568, .w 16 23855104, .w 16 24051712, .w 16 24444928, .w 17 13762560, .w 17 24510464, .w 18 8,
    .w 18 12, .w 18 72, .w 18 786432, .w 18 20578304, .w 19 12, .w 19 16, .w 19 1114112, .w 19 1179648,
    .a 19 1310720 268435456, .a 19 1376256 268435456, .a 19 22413312 268435456, .a 19 22478848 268435456, .w 20 8,
    .w 20 12, .a 20 32 4, .w 22 8, .w 22 12, .w 22 28, .w 64 6881280, .w 64 16711680, .a 65 15335424 268435456,
    .a 65 15400960 268435456, .a 65 22347776 268435456, .p .win, .p .free, .p .edges, .p .inbox, .p .chn, .p .seqs,
    .p .mcache, .p .pa, .p .jq, .p .jact, .p .jobNo, .p .cmds, .p .cmdNo, .p .cqs, .p .ctrls, .p .nss, .p .zones,
    .p .bands, .p .vol, .p .wseq, .p .points, .p .mops, .p .opid, .p .journal, .p .jseq, .p .blks, .p .fops,
    .p .fwait, .p .errlog, .p .pkt, .p .hbm, .p .poison, .p .lost, .p .kvLog, .p .stripes]

theorem kvDelete_out (id : CmdId) (nsid : BitVec 32) (key : List Byte) {s : State} (h₀ : Out L₀ s₀ s)
    (hL : Key.sub kvDeleteOut L₀ = true) :
    Out L₀ s₀ (kvDelete id nsid key s) := by
  unfold kvDelete
  repeat'
    first
      | with_reducible assumption | with_reducible apply State.taking_out | with_reducible apply State.onKey_out
      | with_reducible apply State.answer_out | with_reducible apply State.finishWrite_out
      | with_reducible apply State.kvTidy_out | with_reducible apply State.kvSetOn_out
      | with_reducible apply Out.foldl | with_reducible apply Out.foldlFst | exact Key.hasA rfl | exact Key.hasW
      | exact Out.sub hL rfl | intro _ | with_reducible apply Out.ite | split | dsimp only [id_eq]
      | (rename_i e; with_reducible refine Out.of_eq e ?_) | with_reducible apply Out.setWseq

theorem existCmd_out (id : CmdId) (nsid : BitVec 32) (key : List Byte) {s : State} (h₀ : Out L₀ s₀ s)
    (hL : Key.sub keepAliveOut L₀ = true) :
    Out L₀ s₀ (existCmd id nsid key s) := by
  unfold existCmd
  repeat'
    first
      | with_reducible assumption | with_reducible apply State.taking_out | with_reducible apply State.onKey_out
      | with_reducible apply State.answer_out | exact Key.hasA rfl | exact Key.hasW | exact Out.sub hL rfl | intro _
      | with_reducible apply Out.ite | split | dsimp only [id_eq]
      | (rename_i e; with_reducible refine Out.of_eq e ?_)

theorem listCmd_out (id : CmdId) (nsid : BitVec 32) (first : List Byte) {s : State} (h₀ : Out L₀ s₀ s)
    (hL : Key.sub keepAliveOut L₀ = true) :
    Out L₀ s₀ (listCmd id nsid first s) := by
  unfold listCmd
  repeat'
    first
      | with_reducible assumption | with_reducible apply State.taking_out | with_reducible apply State.onNs_out
      | with_reducible apply State.answer_out | with_reducible apply State.complete_out | exact Key.hasA rfl
      | exact Key.hasW | exact Out.sub hL rfl | intro _ | with_reducible apply Out.ite | split | dsimp only [id_eq]
      | (rename_i e; with_reducible refine Out.of_eq e ?_)

theorem State.flushNs_out {s : State} (c : Cmd) (ns : List Nat) (h₀ : Out L₀ s₀ s)
    (hL : Key.sub completeOut L₀ = true) :
    Out L₀ s₀ (State.flushNs s c ns) := by
  unfold State.flushNs
  repeat'
    first
      | with_reducible assumption | with_reducible apply State.answer_out | with_reducible apply Out.forAll
      | with_reducible apply State.beginPoint_out | with_reducible apply State.updCmd_out | exact Key.hasA rfl
      | exact Key.hasW | exact Out.sub hL rfl | intro _ | with_reducible apply Out.ite | split | dsimp only [id_eq]
      | (rename_i e; with_reducible refine Out.of_eq e ?_) | with_reducible apply Out.setStripes

theorem flushCmd_out (id : CmdId) (nsid : BitVec 32) {s : State} (h₀ : Out L₀ s₀ s)
    (hL : Key.sub keepAliveOut L₀ = true) :
    Out L₀ s₀ (flushCmd id nsid s) := by
  unfold flushCmd
  repeat'
    first
      | with_reducible assumption | with_reducible apply State.taking_out | with_reducible apply State.answer_out
      | with_reducible apply State.flushNs_out | with_reducible apply State.onNs_out | exact Key.hasA rfl
      | exact Key.hasW | exact Out.sub hL rfl | intro _ | with_reducible apply Out.ite | split | dsimp only [id_eq]
      | (rename_i e; with_reducible refine Out.of_eq e ?_)

theorem State.onCore_out {s : State} (c : Cmd) (nsid : Nat) (f : Nat → State → State) (h₀ : Out L₀ s₀ s) (hF_f : ∀ x0 u, Out L₀ s₀ u → Out L₀ s₀ (f x0 u))
    (hL : Key.sub completeOut L₀ = true) :
    Out L₀ s₀ (State.onCore s c nsid f) := by
  unfold State.onCore
  repeat'
    first
      | with_reducible assumption | with_reducible apply State.answer_out | with_reducible apply hF_f
      | exact Key.hasA rfl | exact Key.hasW | exact Out.sub hL rfl | intro _ | with_reducible apply Out.ite | split
      | dsimp only [id_eq] | (rename_i e; with_reducible refine Out.of_eq e ?_)

/-- What `loadProgram` may change. -/
def loadProgramOut : List Key :=
  [.w 2 8, .w 2 12, .w 2 20, .w 2 24, .a 2 32 4, .w 2 64, .w 2 68, .w 2 5439488,
    .w 2 5505024, .w 6 8, .w 6 12, .w 7 12, .w 7 24, .w 7 28, .w 7 17956864, .w 9 8, .w 10 20, .w 10 24, .w 11 12,
    .a 11 32 4, .a 11 48 4, .w 11 84, .w 12 8, .w 13 8, .w 13 12, .w 13 76, .w 13 1572864, .w 13 2359296,
    .w 13 2424832, .w 13 20250624, .w 14 8, .w 14 12, .w 14 24, .w 14 84, .w 14 3211264, .w 14 3342336,
    .w 14 3407872, .w 14 3473408, .w 14 3538944, .w 14 4128768, .w 14 4194304, .w 14 4259840, .w 14 4325376,
    .w 14 4784128, .w 14 21692416, .w 14 21757952, .w 14 22675456, .w 14 22806528, .w 16 8, .w 16 12, .w 16 6094848,
    .w 16 8519680, .w 16 8585216, .w 16 8912896, .w 16 8978432, .w 16 9240576, .w 16 9306112, .w 16 9502720,
    .w 16 9568256, .w 16 9895936, .w 16 9961472, .w 16 10223616, .w 16 10551296, .w 16 10944512, .w 16 23068672,
    .w 16 23789568, .w 16 23855104, .w 16 24051712, .w 16 24444928, .w 17 13762560, .w 17 24510464, .w 18 8,
    .w 18 12, .w 18 72, .w 18 786432, .w 18 20578304, .w 19 12, .w 19 16, .w 19 1114112, .w 19 1179648,
    .a 19 1310720 268435456, .a 19 1376256 268435456, .a 19 22413312 268435456, .a 19 22478848 268435456, .w 22 8,
    .w 22 12, .w 22 28, .w 64 6881280, .w 64 16711680, .a 65 22347776 268435456, .p .win, .p .free, .p .edges,
    .p .inbox, .p .chn, .p .seqs, .p .mcache, .p .pa, .p .jq, .p .jact, .p .jobNo, .p .cmds, .p .cmdNo, .p .cqs,
    .p .nss, .p .zones, .p .bands, .p .vol, .p .points, .p .mops, .p .errlog, .p .pkt, .p .hbm, .p .poison,
    .p .lost, .p .kvLog, .p .progs, .p .stripes]

theorem loadProgram_out (id : CmdId) (nsid : BitVec 32) (slot : BitVec 8) (ptype : BitVec 8) (image : List (BitVec 64)) {s : State} (h₀ : Out L₀ s₀ s)
    (hL : Key.sub loadProgramOut L₀ = true) :
    Out L₀ s₀ (loadProgram id nsid slot ptype image s) := by
  unfold loadProgram
  repeat'
    first
      | with_reducible assumption | with_reducible apply State.admin_out | with_reducible apply State.onCore_out
      | with_reducible apply State.answer_out | with_reducible apply Out.post | exact Key.hasA rfl | exact Key.hasW
      | exact Out.sub hL rfl | intro _ | with_reducible apply Out.ite | split | dsimp only [id_eq]
      | (rename_i e; with_reducible refine Out.of_eq e ?_) | with_reducible apply Out.setProgs

theorem programActivation_out (id : CmdId) (nsid : BitVec 32) (slot : BitVec 8) (activate : Bool) {s : State} (h₀ : Out L₀ s₀ s)
    (hL : Key.sub loadProgramOut L₀ = true) :
    Out L₀ s₀ (programActivation id nsid slot activate s) := by
  unfold programActivation
  repeat'
    first
      | with_reducible assumption | with_reducible apply State.admin_out | with_reducible apply State.onCore_out
      | with_reducible apply State.answer_out | with_reducible apply Out.when | with_reducible apply Out.post
      | exact Key.hasA rfl | exact Key.hasW | exact Out.sub hL rfl | intro _ | with_reducible apply Out.ite | split
      | dsimp only [id_eq] | (rename_i e; with_reducible refine Out.of_eq e ?_) | with_reducible apply Out.setProgs

/-- What `State.runOut` may change. -/
def runOutOut : List Key :=
  [.w 2 20, .w 2 24, .a 2 32 4, .w 2 5439488, .w 2 5505024, .w 6 8, .w 6 12, .w 6 64,
    .w 7 12, .w 7 24, .w 7 28, .w 7 17956864, .w 9 8, .w 10 20, .w 10 24, .a 11 32 4, .a 11 48 4,
    .a 65 22347776 268435456, .p .free, .p .edges, .p .inbox, .p .mcache, .p .jq, .p .jobNo, .p .cmds, .p .cqs,
    .p .nss, .p .bands, .p .vol, .p .points, .p .errlog, .p .pkt, .p .hbm, .p .poison, .p .lost, .p .kvLog,
    .p .progRuns, .p .stripes]

theorem State.runOut_out (core : Nat) {x : State × Run × RunEnd} (h₀ : Out L₀ s₀ x.1)
    (hL : Key.sub runOutOut L₀ = true) :
    Out L₀ s₀ (State.runOut core x) := by
  unfold State.runOut
  repeat'
    first
      | with_reducible assumption | with_reducible apply Out.put | with_reducible apply State.complete_out
      | with_reducible apply State.answer_out | with_reducible apply Out.post | with_reducible apply Out.evt
      | with_reducible apply Out.count | exact Key.hasA rfl | exact Key.hasW | exact Out.sub hL rfl | intro _
      | with_reducible apply Out.ite | split | dsimp only [id_eq]
      | (rename_i e; with_reducible refine Out.of_eq e ?_) | with_reducible apply Out.setProgRuns

theorem State.runOn_out {s : State} (core : Nat) (r : Run) (h₀ : Out L₀ s₀ s)
    (hL : Key.sub runOutOut L₀ = true) :
    Out L₀ s₀ (State.runOn s core r) := by
  unfold State.runOn
  repeat'
    first
      | with_reducible assumption | with_reducible apply State.runOut_out | with_reducible apply State.runFor_out
      | exact Key.hasA rfl | exact Key.hasW | exact Out.sub hL rfl | intro _ | with_reducible apply Out.ite | split
      | dsimp only [id_eq] | (rename_i e; with_reducible refine Out.of_eq e ?_)

/-- What `executeProgram` may change. -/
def executeProgramOut : List Key :=
  [.w 2 8, .w 2 12, .w 2 20, .w 2 24, .a 2 32 4, .w 2 64, .w 2 68, .w 2 5439488,
    .w 2 5505024, .w 6 8, .w 6 12, .w 6 64, .w 7 12, .w 7 24, .w 7 28, .w 7 17956864, .w 9 8, .w 10 20, .w 10 24,
    .w 11 12, .a 11 32 4, .a 11 48 4, .w 11 84, .w 12 8, .w 13 8, .w 13 12, .w 13 76, .w 13 1572864, .w 13 2359296,
    .w 13 2424832, .w 13 20250624, .w 14 8, .w 14 12, .w 14 24, .w 14 84, .w 14 3211264, .w 14 3342336,
    .w 14 3407872, .w 14 3473408, .w 14 3538944, .w 14 4128768, .w 14 4194304, .w 14 4259840, .w 14 4325376,
    .w 14 4784128, .w 14 21692416, .w 14 21757952, .w 14 22675456, .w 14 22806528, .w 16 8, .w 16 12, .w 16 6094848,
    .w 16 8519680, .w 16 8585216, .w 16 8912896, .w 16 8978432, .w 16 9240576, .w 16 9306112, .w 16 9502720,
    .w 16 9568256, .w 16 9895936, .w 16 9961472, .w 16 10223616, .w 16 10551296, .w 16 10944512, .w 16 23068672,
    .w 16 23789568, .w 16 23855104, .w 16 24051712, .w 16 24444928, .w 17 13762560, .w 17 24510464, .w 18 8,
    .w 18 12, .w 18 72, .w 18 786432, .w 18 20578304, .w 19 12, .w 19 16, .w 19 1114112, .w 19 1179648,
    .a 19 1310720 268435456, .a 19 1376256 268435456, .a 19 22413312 268435456, .a 19 22478848 268435456, .w 22 8,
    .w 22 12, .w 22 28, .w 64 6881280, .w 64 16711680, .a 65 22347776 268435456, .p .win, .p .free, .p .edges,
    .p .inbox, .p .chn, .p .seqs, .p .mcache, .p .pa, .p .jq, .p .jact, .p .jobNo, .p .cmds, .p .cmdNo, .p .cqs,
    .p .nss, .p .zones, .p .bands, .p .vol, .p .points, .p .mops, .p .errlog, .p .pkt, .p .hbm, .p .poison,
    .p .lost, .p .kvLog, .p .progRuns, .p .stripes]

theorem executeProgram_out (id : CmdId) (nsid : BitVec 32) (slot : BitVec 8) (rset : BitVec 8) (dw12 : BitVec 32) (dw13 : BitVec 32) (dw14 : BitVec 32) (dw15 : BitVec 32) {s : State} (h₀ : Out L₀ s₀ s)
    (hL : Key.sub executeProgramOut L₀ = true) :
    Out L₀ s₀ (executeProgram id nsid slot rset dw12 dw13 dw14 dw15 s) := by
  unfold executeProgram
  repeat'
    first
      | with_reducible assumption | with_reducible apply State.taking_out | with_reducible apply State.onCore_out
      | with_reducible apply State.updCmd_out | with_reducible apply State.answer_out
      | with_reducible apply State.runOn_out | exact Key.hasA rfl | exact Key.hasW | exact Out.sub hL rfl | intro _
      | with_reducible apply Out.ite | split | dsimp only [id_eq]
      | (rename_i e; with_reducible refine Out.of_eq e ?_) | with_reducible apply Out.setFree

theorem State.helperDo_out {s : State} (core : Nat) (n : Nat) (f : Run → State → State × Option Nat) (h₀ : Out L₀ s₀ s) (hF_f : ∀ x0 u, Out L₀ s₀ u → Out L₀ s₀ (f x0 u).1)
    (hL : Key.sub runOutOut L₀ = true) :
    Out L₀ s₀ (State.helperDo s core n f) := by
  unfold State.helperDo
  repeat'
    first
      | with_reducible assumption | with_reducible apply State.runOn_out | with_reducible apply hF_f
      | exact Key.hasA rfl | exact Key.hasW | exact Out.sub hL rfl | intro _ | with_reducible apply Out.ite | split
      | dsimp only [id_eq] | (rename_i e; with_reducible refine Out.of_eq e ?_) | with_reducible apply Out.setFree

theorem State.helperOut_out {s : State} (r : Run) (dst : Nat) (room : Nat) (out : List Byte) (h₀ : Out L₀ s₀ s)
    (hL : Key.sub [.w 9 8, .w 10 20, .w 10 24, .p .pkt, .p .hbm, .p .poison] L₀ = true) :
    Out L₀ s₀ (State.helperOut s r dst room out).1 := by
  unfold State.helperOut
  repeat'
    first
      | with_reducible assumption | with_reducible apply State.memPut_out | exact Key.hasA rfl | exact Key.hasW
      | exact Out.sub hL rfl | intro _ | with_reducible apply Out.ite | split | dsimp only [id_eq]
      | (rename_i e; with_reducible refine Out.of_eq e ?_)

theorem helperCopy_out (core : Fin 8) {s : State} (h₀ : Out L₀ s₀ s)
    (hL : Key.sub runOutOut L₀ = true) :
    Out L₀ s₀ (helperCopy core s) := by
  unfold helperCopy
  repeat'
    first
      | with_reducible assumption | with_reducible apply State.helperDo_out
      | with_reducible apply State.helperOut_out | with_reducible apply State.memTouch_out | exact Key.hasA rfl
      | exact Key.hasW | exact Out.sub hL rfl | intro _ | with_reducible apply Out.ite | split | dsimp only [id_eq]
      | (rename_i e; with_reducible refine Out.of_eq e ?_)

theorem helperZcomp_out (core : Fin 8) {s : State} (h₀ : Out L₀ s₀ s)
    (hL : Key.sub runOutOut L₀ = true) :
    Out L₀ s₀ (helperZcomp core s) := by
  unfold helperZcomp
  repeat'
    first
      | with_reducible assumption | with_reducible apply State.helperDo_out
      | with_reducible apply State.helperOut_out | with_reducible apply State.memTouch_out | exact Key.hasA rfl
      | exact Key.hasW | exact Out.sub hL rfl | intro _ | with_reducible apply Out.ite | split | dsimp only [id_eq]
      | (rename_i e; with_reducible refine Out.of_eq e ?_)

theorem helperZdecomp_out (core : Fin 8) {s : State} (h₀ : Out L₀ s₀ s)
    (hL : Key.sub runOutOut L₀ = true) :
    Out L₀ s₀ (helperZdecomp core s) := by
  unfold helperZdecomp
  repeat'
    first
      | with_reducible assumption | with_reducible apply State.helperDo_out
      | with_reducible apply State.helperOut_out | with_reducible apply State.memTouch_out | exact Key.hasA rfl
      | exact Key.hasW | exact Out.sub hL rfl | intro _ | with_reducible apply Out.ite | split | dsimp only [id_eq]
      | (rename_i e; with_reducible refine Out.of_eq e ?_)

theorem helperSha256_out (core : Fin 8) {s : State} (h₀ : Out L₀ s₀ s)
    (hL : Key.sub runOutOut L₀ = true) :
    Out L₀ s₀ (helperSha256 core s) := by
  unfold helperSha256
  repeat'
    first
      | with_reducible assumption | with_reducible apply State.helperDo_out
      | with_reducible apply State.helperOut_out | with_reducible apply State.memTouch_out | exact Key.hasA rfl
      | exact Key.hasW | exact Out.sub hL rfl | intro _ | with_reducible apply Out.ite | split | dsimp only [id_eq]
      | (rename_i e; with_reducible refine Out.of_eq e ?_)

theorem helperCrc32c_out (core : Fin 8) {s : State} (h₀ : Out L₀ s₀ s)
    (hL : Key.sub runOutOut L₀ = true) :
    Out L₀ s₀ (helperCrc32c core s) := by
  unfold helperCrc32c
  repeat'
    first
      | with_reducible assumption | with_reducible apply State.helperDo_out | with_reducible apply State.memTouch_out
      | exact Key.hasA rfl | exact Key.hasW | exact Out.sub hL rfl | intro _ | with_reducible apply Out.ite | split
      | dsimp only [id_eq] | (rename_i e; with_reducible refine Out.of_eq e ?_)

theorem helperOpsec_out (core : Fin 8) {s : State} (h₀ : Out L₀ s₀ s)
    (hL : Key.sub runOutOut L₀ = true) :
    Out L₀ s₀ (helperOpsec core s) := by
  unfold helperOpsec
  repeat'
    first
      | with_reducible assumption | with_reducible apply State.helperDo_out | exact Key.hasA rfl | exact Key.hasW
      | exact Out.sub hL rfl | intro _ | with_reducible apply Out.ite | split | dsimp only [id_eq]
      | (rename_i e; with_reducible refine Out.of_eq e ?_)

theorem State.onMem_out {s : State} (c : Cmd) (nsid : Nat) (f : State → State) (h₀ : Out L₀ s₀ s) (hF_f : ∀ u, Out L₀ s₀ u → Out L₀ s₀ (f u))
    (hL : Key.sub completeOut L₀ = true) :
    Out L₀ s₀ (State.onMem s c nsid f) := by
  unfold State.onMem
  repeat'
    first
      | with_reducible assumption | with_reducible apply State.answer_out | with_reducible apply hF_f
      | exact Key.hasA rfl | exact Key.hasW | exact Out.sub hL rfl | intro _ | with_reducible apply Out.ite | split
      | dsimp only [id_eq] | (rename_i e; with_reducible refine Out.of_eq e ?_)

/-- What `memoryRangeSet` may change. -/
def memoryRangeSetOut : List Key :=
  [.w 2 8, .w 2 12, .w 2 20, .w 2 24, .a 2 32 4, .w 2 64, .w 2 68, .w 2 5439488,
    .w 2 5505024, .w 6 8, .w 6 12, .w 7 12, .w 7 24, .w 7 28, .w 7 17956864, .w 9 8, .w 10 20, .w 10 24, .w 11 12,
    .a 11 32 4, .a 11 48 4, .w 11 84, .w 12 8, .w 13 8, .w 13 12, .w 13 76, .w 13 1572864, .w 13 2359296,
    .w 13 2424832, .w 13 20250624, .w 14 8, .w 14 12, .w 14 24, .w 14 84, .w 14 3211264, .w 14 3342336,
    .w 14 3407872, .w 14 3473408, .w 14 3538944, .w 14 4128768, .w 14 4194304, .w 14 4259840, .w 14 4325376,
    .w 14 4784128, .w 14 21692416, .w 14 21757952, .w 14 22675456, .w 14 22806528, .w 16 8, .w 16 12, .w 16 6094848,
    .w 16 8519680, .w 16 8585216, .w 16 8912896, .w 16 8978432, .w 16 9240576, .w 16 9306112, .w 16 9502720,
    .w 16 9568256, .w 16 9895936, .w 16 9961472, .w 16 10223616, .w 16 10551296, .w 16 10944512, .w 16 23068672,
    .w 16 23789568, .w 16 23855104, .w 16 24051712, .w 16 24444928, .w 17 13762560, .w 17 24510464, .w 18 8,
    .w 18 12, .w 18 72, .w 18 786432, .w 18 20578304, .w 19 12, .w 19 16, .w 19 1114112, .w 19 1179648,
    .a 19 1310720 268435456, .a 19 1376256 268435456, .a 19 22413312 268435456, .a 19 22478848 268435456, .w 22 8,
    .w 22 12, .w 22 28, .w 64 6881280, .w 64 16711680, .a 65 22347776 268435456, .p .win, .p .free, .p .edges,
    .p .inbox, .p .chn, .p .seqs, .p .mcache, .p .pa, .p .jq, .p .jact, .p .jobNo, .p .cmds, .p .cmdNo, .p .cqs,
    .p .nss, .p .zones, .p .bands, .p .vol, .p .points, .p .mops, .p .errlog, .p .rsets, .p .pkt, .p .hbm,
    .p .poison, .p .lost, .p .kvLog, .p .stripes]

theorem memoryRangeSet_out (id : CmdId) (nsid : BitVec 32) (create : Bool) (rset : BitVec 16) (ranges : List (BitVec 64 × BitVec 64)) {s : State} (h₀ : Out L₀ s₀ s)
    (hL : Key.sub memoryRangeSetOut L₀ = true) :
    Out L₀ s₀ (memoryRangeSet id nsid create rset ranges s) := by
  unfold memoryRangeSet
  repeat'
    first
      | with_reducible assumption | with_reducible apply State.admin_out | with_reducible apply State.onCore_out
      | with_reducible apply State.answer_out | with_reducible apply State.complete_out | exact Key.hasA rfl
      | exact Key.hasW | exact Out.sub hL rfl | intro _ | with_reducible apply Out.ite | split | dsimp only [id_eq]
      | (rename_i e; with_reducible refine Out.of_eq e ?_) | with_reducible apply Out.setRsets

theorem memoryRead_out (id : CmdId) (nsid : BitVec 32) (off : BitVec 64) (len : BitVec 32) {s : State} (h₀ : Out L₀ s₀ s)
    (hL : Key.sub keepAliveOut L₀ = true) :
    Out L₀ s₀ (memoryRead id nsid off len s) := by
  unfold memoryRead
  repeat'
    first
      | with_reducible assumption | with_reducible apply State.taking_out | with_reducible apply State.onMem_out
      | with_reducible apply State.answer_out | with_reducible apply State.complete_out
      | with_reducible apply State.memTouch_out | exact Key.hasA rfl | exact Key.hasW | exact Out.sub hL rfl
      | intro _ | with_reducible apply Out.ite | split | dsimp only [id_eq]
      | (rename_i e; with_reducible refine Out.of_eq e ?_)

theorem memoryWrite_out (id : CmdId) (nsid : BitVec 32) (off : BitVec 64) (data : List Byte) {s : State} (h₀ : Out L₀ s₀ s)
    (hL : Key.sub keepAliveOut L₀ = true) :
    Out L₀ s₀ (memoryWrite id nsid off data s) := by
  unfold memoryWrite
  repeat'
    first
      | with_reducible assumption | with_reducible apply State.taking_out | with_reducible apply State.onMem_out
      | with_reducible apply State.answer_out | with_reducible apply State.memPut_out | exact Key.hasA rfl
      | exact Key.hasW | exact Out.sub hL rfl | intro _ | with_reducible apply Out.ite | split | dsimp only [id_eq]
      | (rename_i e; with_reducible refine Out.of_eq e ?_)

theorem memoryCopy_out (id : CmdId) (nsid : BitVec 32) (dst : BitVec 64) (srcs : List CopySrc) {s : State} (h₀ : Out L₀ s₀ s)
    (hL : Key.sub keepAliveOut L₀ = true) :
    Out L₀ s₀ (memoryCopy id nsid dst srcs s) := by
  unfold memoryCopy
  repeat'
    first
      | with_reducible assumption | with_reducible apply State.taking_out | with_reducible apply State.onMem_out
      | with_reducible apply State.answer_out | with_reducible apply State.updCmd_out
      | with_reducible apply State.copyDone_out | with_reducible apply State.queueJobs_out
      | with_reducible apply Out.foldl | with_reducible apply Out.foldlFst | exact Key.hasA rfl | exact Key.hasW
      | exact Out.sub hL rfl | intro _ | with_reducible apply Out.ite | split | dsimp only [id_eq]
      | (rename_i e; with_reducible refine Out.of_eq e ?_)

theorem State.truEnable_out {s : State} (defaultsOk : Bool) (h₀ : Out L₀ s₀ s)
    (hL : Key.sub [.w 6 0, .w 6 4] L₀ = true) :
    Out L₀ s₀ (State.truEnable s defaultsOk).1 := by
  unfold State.truEnable
  repeat'
    first
      | with_reducible assumption | with_reducible apply State.enable_out | exact Key.hasA rfl | exact Key.hasW
      | exact Out.sub hL rfl | intro _ | with_reducible apply Out.ite | split | dsimp only [id_eq]
      | (rename_i e; with_reducible refine Out.of_eq e ?_)

theorem truEnableCmd_out (defaultsOk : Bool) {s : State} (h₀ : Out L₀ s₀ s)
    (hL : Key.sub [.w 6 0, .w 6 4] L₀ = true) :
    Out L₀ s₀ (truEnableCmd defaultsOk s) := by
  unfold truEnableCmd
  repeat'
    first
      | with_reducible assumption | with_reducible apply State.truEnable_out | exact Key.hasA rfl | exact Key.hasW
      | exact Out.sub hL rfl | intro _ | with_reducible apply Out.ite | split | dsimp only [id_eq]
      | (rename_i e; with_reducible refine Out.of_eq e ?_)

theorem State.showGroup_out {s : State} (h₀ : Out L₀ s₀ s)
    (hL : Key.sub [.w 7 8, .w 7 12, .w 7 20, .w 7 24, .w 7 28, .w 7 17956864, .p .edges, .p .inbox] L₀ = true) :
    Out L₀ s₀ (State.showGroup s) := by
  unfold State.showGroup
  repeat'
    first
      | with_reducible assumption | with_reducible apply State.showStripes_out | with_reducible apply Out.puts_nil
      | with_reducible apply Out.puts_cons | with_reducible apply Out.put | exact Key.hasA rfl | exact Key.hasW
      | exact Out.sub hL rfl | intro _ | with_reducible apply Out.ite | split | dsimp only [id_eq]
      | (rename_i e; with_reducible refine Out.of_eq e ?_)

theorem State.fragNs_out {s : State} (h : Out L₀ s₀ s) (hL : Key.sub makeNsOut L₀ = true) : Out L₀ s₀ (s.fragNs.getD s) := by
  cases e : s.fragNs with
  | none => exact h
  | some t =>
    unfold State.fragNs at e
    dsimp only at e
    split at e
    · cases e; exact h
    · obtain ⟨n, _, e⟩ := Option.bind_eq_some_iff.mp e
      split at e
      · obtain ⟨x, _, rfl⟩ := Option.map_eq_some_iff.mp e
        exact State.setNs_out _ _ (State.makeNs_out _ _ _ _ h (Out.sub hL rfl)) (Out.sub hL rfl)
      · cases e

/-- What `State.pwkAct` may change. -/
def pwkActOut : List Key :=
  [.w 7 0, .w 7 4, .w 7 8, .w 7 12, .w 7 20, .w 7 24, .w 7 28, .w 7 17956864, .w 8 8,
    .a 11 32 4, .a 11 48 4, .p .free, .p .edges, .p .inbox, .p .nss, .p .zones, .p .bands, .p .members]

theorem State.pwkAct_out {s : State} (h₀ : Out L₀ s₀ s)
    (hL : Key.sub pwkActOut L₀ = true) :
    Out L₀ s₀ (State.pwkAct s).1 := by
  unfold State.pwkAct
  repeat'
    first
      | with_reducible assumption | with_reducible apply State.enable_out | with_reducible apply State.fragNs_out
      | with_reducible apply State.showGroup_out | exact Key.hasA rfl | exact Key.hasW | exact Out.sub hL rfl
      | intro _ | with_reducible apply Out.ite | split | dsimp only [id_eq]
      | (rename_i e; with_reducible refine Out.of_eq e ?_) | with_reducible apply Out.setMembers

theorem pwkActCmd_out {s : State} (h₀ : Out L₀ s₀ s)
    (hL : Key.sub pwkActOut L₀ = true) :
    Out L₀ s₀ (pwkActCmd s) := by
  unfold pwkActCmd
  repeat'
    first
      | with_reducible assumption | with_reducible apply State.pwkAct_out | exact Key.hasA rfl | exact Key.hasW
      | exact Out.sub hL rfl | intro _ | with_reducible apply Out.ite | split | dsimp only [id_eq]
      | (rename_i e; with_reducible refine Out.of_eq e ?_)

theorem State.pwkClear_out {s : State} (h₀ : Out L₀ s₀ s)
    (hL : Key.sub [.w 7 0, .w 7 8, .w 7 12, .w 7 20, .w 7 24, .w 7 28, .w 7 17956864, .p .edges, .p .inbox, .p .cands, .p .authFail,
    .p .proposal] L₀ = true) :
    Out L₀ s₀ (State.pwkClear s).1 := by
  unfold State.pwkClear
  repeat'
    first
      | with_reducible assumption | with_reducible apply State.showGroup_out | with_reducible apply Out.put
      | exact Key.hasA rfl | exact Key.hasW | exact Out.sub hL rfl | intro _ | with_reducible apply Out.ite | split
      | dsimp only [id_eq] | (rename_i e; with_reducible refine Out.of_eq e ?_)
      | with_reducible apply Out.setCandsAuthFailProposal

/-- What `State.discover` may change. -/
def discoverOut : List Key :=
  [.w 7 8, .w 7 12, .w 7 20, .w 7 24, .w 7 28, .w 7 17956864, .p .edges, .p .inbox,
    .p .members, .p .cands, .p .authFail]

theorem State.discover_out {s : State} (x : Found) (h₀ : Out L₀ s₀ s)
    (hL : Key.sub discoverOut L₀ = true) :
    Out L₀ s₀ (State.discover s x) := by
  unfold State.discover
  repeat'
    first
      | with_reducible assumption | with_reducible apply Out.post | with_reducible apply Out.evt
      | with_reducible apply State.showGroup_out | exact Key.hasA rfl | exact Key.hasW | exact Out.sub hL rfl
      | intro _ | with_reducible apply Out.ite | split | dsimp only [id_eq]
      | (rename_i e; with_reducible refine Out.of_eq e ?_) | with_reducible apply Out.setAuthFail
      | with_reducible apply Out.setMembers | with_reducible apply Out.setCands

/-- What `discoveryPoll` may change. -/
def discoveryPollOut : List Key :=
  [.w 5 8, .a 5 128 4, .w 7 8, .w 7 12, .w 7 20, .w 7 24, .w 7 28, .w 7 17956864,
    .p .edges, .p .inbox, .p .members, .p .cands, .p .authFail]

theorem discoveryPoll_out (log : List Found) {s : State} (h₀ : Out L₀ s₀ s)
    (hL : Key.sub discoveryPollOut L₀ = true) :
    Out L₀ s₀ (discoveryPoll log s) := by
  unfold discoveryPoll
  repeat'
    first
      | with_reducible assumption | with_reducible apply State.stepEnd_out | with_reducible apply Out.forAll
      | with_reducible apply State.discover_out | exact Key.hasA rfl | exact Key.hasW | exact Out.sub hL rfl
      | intro _ | with_reducible apply Out.ite | split | dsimp only [id_eq]
      | (rename_i e; with_reducible refine Out.of_eq e ?_)

theorem discoveryChange_out (log : List Found) {s : State} (h₀ : Out L₀ s₀ s)
    (hL : Key.sub discoverOut L₀ = true) :
    Out L₀ s₀ (discoveryChange log s) := by
  unfold discoveryChange
  repeat'
    first
      | with_reducible assumption | with_reducible apply Out.forAll | with_reducible apply State.discover_out
      | exact Key.hasA rfl | exact Key.hasW | exact Out.sub hL rfl | intro _ | with_reducible apply Out.ite | split
      | dsimp only [id_eq] | (rename_i e; with_reducible refine Out.of_eq e ?_)

theorem candidateRetry_out (x : Found) {s : State} (h₀ : Out L₀ s₀ s)
    (hL : Key.sub discoverOut L₀ = true) :
    Out L₀ s₀ (candidateRetry x s) := by
  unfold candidateRetry
  repeat'
    first
      | with_reducible assumption | with_reducible apply State.discover_out | exact Key.hasA rfl | exact Key.hasW
      | exact Out.sub hL rfl | intro _ | with_reducible apply Out.ite | split | dsimp only [id_eq]
      | (rename_i e; with_reducible refine Out.of_eq e ?_) | with_reducible apply Out.setAuthFail

/-- What `peerTimeout` may change. -/
def peerTimeoutOut : List Key :=
  [.w 7 8, .w 7 12, .w 7 20, .w 7 24, .w 7 28, .w 7 17956864, .p .edges, .p .inbox,
    .p .members, .p .cands]

theorem peerTimeout_out (sn : List Byte) {s : State} (h₀ : Out L₀ s₀ s)
    (hL : Key.sub peerTimeoutOut L₀ = true) :
    Out L₀ s₀ (peerTimeout sn s) := by
  unfold peerTimeout
  repeat'
    first
      | with_reducible assumption | with_reducible apply State.showGroup_out | with_reducible apply Out.post
      | with_reducible apply Out.evt | exact Key.hasA rfl | exact Key.hasW | exact Out.sub hL rfl | intro _
      | with_reducible apply Out.ite | split | dsimp only [id_eq]
      | (rename_i e; with_reducible refine Out.of_eq e ?_) | with_reducible apply Out.setCands
      | with_reducible apply Out.setMembers | with_reducible apply Out.setMembersCands

/-- What `State.propose` may change. -/
def proposeOut : List Key :=
  [.w 7 8, .w 7 12, .w 7 20, .w 7 24, .w 7 28, .w 7 17956864, .w 65 17760256,
    .p .edges, .p .inbox, .p .proposal]

theorem State.propose_out {s : State} (ms : List (List Byte)) (h₀ : Out L₀ s₀ s)
    (hL : Key.sub proposeOut L₀ = true) :
    Out L₀ s₀ (State.propose s ms) := by
  unfold State.propose
  repeat'
    first
      | with_reducible assumption | with_reducible apply State.showGroup_out | with_reducible apply Out.put
      | exact Key.hasA rfl | exact Key.hasW | exact Out.sub hL rfl | intro _ | with_reducible apply Out.ite | split
      | dsimp only [id_eq] | (rename_i e; with_reducible refine Out.of_eq e ?_)
      | with_reducible apply Out.setProposal

theorem epochPropose_out {s : State} (h₀ : Out L₀ s₀ s)
    (hL : Key.sub proposeOut L₀ = true) :
    Out L₀ s₀ (epochPropose s) := by
  unfold epochPropose
  repeat'
    first
      | with_reducible assumption | with_reducible apply State.propose_out | exact Key.hasA rfl | exact Key.hasW
      | exact Out.sub hL rfl | intro _ | with_reducible apply Out.ite | split | dsimp only [id_eq]
      | (rename_i e; with_reducible refine Out.of_eq e ?_)

theorem epochRepropose_out {s : State} (h₀ : Out L₀ s₀ s)
    (hL : Key.sub proposeOut L₀ = true) :
    Out L₀ s₀ (epochRepropose s) := by
  unfold epochRepropose
  repeat'
    first
      | with_reducible assumption | with_reducible apply State.propose_out | exact Key.hasA rfl | exact Key.hasW
      | exact Out.sub hL rfl | intro _ | with_reducible apply Out.ite | split | dsimp only [id_eq]
      | (rename_i e; with_reducible refine Out.of_eq e ?_)

theorem proposalReceive_out (e : BitVec 32) (ms : List (List Byte)) {s : State} (h₀ : Out L₀ s₀ s)
    (hL : Key.sub proposeOut L₀ = true) :
    Out L₀ s₀ (proposalReceive e ms s) := by
  unfold proposalReceive
  repeat'
    first
      | with_reducible assumption | with_reducible apply State.showGroup_out | with_reducible apply Out.put
      | exact Key.hasA rfl | exact Key.hasW | exact Out.sub hL rfl | intro _ | with_reducible apply Out.ite | split
      | dsimp only [id_eq] | (rename_i e; with_reducible refine Out.of_eq e ?_)
      | with_reducible apply Out.setProposal

theorem State.replaceFrag_out {s : State} (no : Nat) (i : Nat) (h₀ : Out L₀ s₀ s)
    (hL : Key.sub [.p .stripes] L₀ = true) :
    Out L₀ s₀ (State.replaceFrag s no i) := by
  unfold State.replaceFrag
  repeat'
    first
      | with_reducible assumption | with_reducible apply State.updStripe_out | exact Key.hasA rfl | exact Key.hasW
      | exact Out.sub hL rfl | intro _ | with_reducible apply Out.ite | split | dsimp only [id_eq]
      | (rename_i e; with_reducible refine Out.of_eq e ?_)

/-- What `State.settleStripe` may change. -/
def settleStripeOut : List Key :=
  [.w 2 20, .w 2 24, .a 2 32 4, .w 2 5439488, .w 2 5505024, .w 6 8, .w 6 12,
    .w 6 17629184, .w 7 12, .w 7 24, .w 7 28, .w 7 17956864, .w 9 8, .w 10 20, .w 10 24, .a 11 32 4, .a 11 48 4,
    .a 65 22347776 268435456, .p .free, .p .edges, .p .inbox, .p .mcache, .p .jq, .p .jobNo, .p .cmds, .p .cqs,
    .p .nss, .p .bands, .p .vol, .p .points, .p .errlog, .p .pkt, .p .hbm, .p .poison, .p .lost, .p .kvLog,
    .p .kvDur, .p .stripes]

theorem State.settleStripe_out {s : State} (no : Nat) (h₀ : Out L₀ s₀ s)
    (hL : Key.sub settleStripeOut L₀ = true) :
    Out L₀ s₀ (State.settleStripe s no) := by
  unfold State.settleStripe
  repeat'
    first
      | with_reducible assumption | with_reducible apply Out.when | with_reducible apply State.updStripe_out
      | with_reducible apply Out.forAll | with_reducible apply State.kvDurable_out
      | with_reducible apply State.showStripes_out | with_reducible apply State.cmdPart_out | exact Key.hasA rfl
      | exact Key.hasW | exact Out.sub hL rfl | intro _ | with_reducible apply Out.ite | split | dsimp only [id_eq]
      | (rename_i e; with_reducible refine Out.of_eq e ?_)

/-- What `State.commitEpoch` may change. -/
def commitEpochOut : List Key :=
  [.w 2 20, .w 2 24, .a 2 32 4, .w 2 5439488, .w 2 5505024, .w 6 8, .w 6 12,
    .w 6 17629184, .w 7 8, .w 7 12, .w 7 20, .w 7 24, .w 7 28, .w 7 72, .w 7 17825792, .w 7 17891328, .w 7 17956864,
    .w 9 8, .w 10 20, .w 10 24, .a 11 32 4, .a 11 48 4, .w 65 17694720, .a 65 22347776 268435456, .p .free,
    .p .edges, .p .inbox, .p .mcache, .p .jq, .p .jobNo, .p .cmds, .p .cqs, .p .nss, .p .bands, .p .vol, .p .points,
    .p .errlog, .p .pkt, .p .hbm, .p .poison, .p .lost, .p .kvLog, .p .kvDur, .p .members, .p .cands, .p .proposal,
    .p .stripes]

theorem State.commitEpoch_out {s : State} (e : Nat) (ms : List (List Byte)) (h₀ : Out L₀ s₀ s)
    (hL : Key.sub commitEpochOut L₀ = true) :
    Out L₀ s₀ (State.commitEpoch s e ms) := by
  unfold State.commitEpoch
  repeat'
    first
      | with_reducible assumption | with_reducible apply Out.post | with_reducible apply Out.evt
      | with_reducible apply Out.count | with_reducible apply Out.put | with_reducible apply Out.forAll
      | with_reducible apply State.settleStripe_out | with_reducible apply State.replaceFrag_out
      | with_reducible apply Out.when | with_reducible apply Out.puts_append | with_reducible apply Out.puts_nil
      | with_reducible apply Out.puts_cons | with_reducible apply State.showGroup_out | exact Key.hasA rfl
      | exact Key.hasW | exact Out.sub hL rfl | intro _ | with_reducible apply Out.ite | split | dsimp only [id_eq]
      | (rename_i e; with_reducible refine Out.of_eq e ?_) | with_reducible apply Out.setMembersCandsProposal

theorem proposalAck_out (e : BitVec 32) (sn : List Byte) {s : State} (h₀ : Out L₀ s₀ s)
    (hL : Key.sub commitEpochOut L₀ = true) :
    Out L₀ s₀ (proposalAck e sn s) := by
  unfold proposalAck
  repeat'
    first
      | with_reducible assumption | with_reducible apply State.commitEpoch_out | exact Key.hasA rfl | exact Key.hasW
      | exact Out.sub hL rfl | intro _ | with_reducible apply Out.ite | split | dsimp only [id_eq]
      | (rename_i e; with_reducible refine Out.of_eq e ?_) | with_reducible apply Out.setProposal

theorem epochCommitReceive_out (e : BitVec 32) {s : State} (h₀ : Out L₀ s₀ s)
    (hL : Key.sub commitEpochOut L₀ = true) :
    Out L₀ s₀ (epochCommitReceive e s) := by
  unfold epochCommitReceive
  repeat'
    first
      | with_reducible assumption | with_reducible apply State.commitEpoch_out | exact Key.hasA rfl | exact Key.hasW
      | exact Out.sub hL rfl | intro _ | with_reducible apply Out.ite | split | dsimp only [id_eq]
      | (rename_i e; with_reducible refine Out.of_eq e ?_)

/-- What `proposalVoid` may change. -/
def proposalVoidOut : List Key :=
  [.w 7 8, .w 7 12, .w 7 20, .w 7 24, .w 7 28, .w 7 17956864, .p .edges,
    .p .inbox, .p .proposal]

theorem proposalVoid_out {s : State} (h₀ : Out L₀ s₀ s)
    (hL : Key.sub proposalVoidOut L₀ = true) :
    Out L₀ s₀ (proposalVoid s) := by
  unfold proposalVoid
  repeat'
    first
      | with_reducible assumption | with_reducible apply State.showGroup_out | exact Key.hasA rfl | exact Key.hasW
      | exact Out.sub hL rfl | intro _ | with_reducible apply Out.ite | split | dsimp only [id_eq]
      | (rename_i e; with_reducible refine Out.of_eq e ?_) | with_reducible apply Out.setProposal

theorem fragmentAck_out (no : Nat) (i : Fin 32) (ok : Bool) {s : State} (h₀ : Out L₀ s₀ s)
    (hL : Key.sub settleStripeOut L₀ = true) :
    Out L₀ s₀ (fragmentAck no i ok s) := by
  unfold fragmentAck
  repeat'
    first
      | with_reducible assumption | with_reducible apply State.settleStripe_out
      | with_reducible apply State.updStripe_out | with_reducible apply State.patchRead_out
      | with_reducible apply State.replaceFrag_out | exact Key.hasA rfl | exact Key.hasW | exact Out.sub hL rfl
      | intro _ | with_reducible apply Out.ite | split | dsimp only [id_eq]
      | (rename_i e; with_reducible refine Out.of_eq e ?_)

theorem State.rung6Ends_out {s : State} (j : Job) (ok : Bool) (h₀ : Out L₀ s₀ s)
    (hL : Key.sub [.w 2 8, .w 2 20, .w 2 24, .a 2 32 4, .w 2 5439488, .w 2 5505024, .w 6 8, .w 6 12, .w 7 12, .w 7 24, .w 7 28,
    .w 7 17956864, .w 9 8, .w 10 20, .w 10 24, .w 11 8, .w 11 12, .a 11 32 4, .a 11 48 4, .w 12 8, .w 20 8,
    .w 20 12, .a 20 32 4, .a 65 15335424 268435456, .a 65 15400960 268435456, .a 65 22347776 268435456, .p .free,
    .p .edges, .p .inbox, .p .mcache, .p .jq, .p .jobNo, .p .cmds, .p .cqs, .p .ctrls, .p .nss, .p .zones,
    .p .bands, .p .vol, .p .points, .p .mops, .p .opid, .p .journal, .p .jseq, .p .blks, .p .fops, .p .fwait,
    .p .errlog, .p .pkt, .p .hbm, .p .poison, .p .lost, .p .kvLog, .p .stripes, .p .weakSlots] L₀ = true) :
    Out L₀ s₀ (State.rung6Ends s j ok) := by
  unfold State.rung6Ends
  repeat'
    first
      | with_reducible assumption | with_reducible apply Out.when | with_reducible apply State.weakTrack_out
      | with_reducible apply State.failQueued_out | with_reducible apply Out.put | exact Key.hasA rfl
      | exact Key.hasW | exact Out.sub hL rfl | intro _ | with_reducible apply Out.ite | split | dsimp only [id_eq]
      | (rename_i e; with_reducible refine Out.of_eq e ?_)

/-- What `fragmentTimeout` may change. -/
def fragmentTimeoutOut : List Key :=
  [.w 2 8, .w 2 20, .w 2 24, .a 2 32 4, .w 2 5439488, .w 2 5505024, .w 6 8,
    .w 6 12, .w 7 12, .w 7 24, .w 7 28, .w 7 68, .w 7 17956864, .w 9 8, .w 10 20, .w 10 24, .w 11 8, .w 11 12,
    .a 11 32 4, .a 11 48 4, .w 12 8, .w 20 8, .w 20 12, .a 20 32 4, .a 65 15335424 268435456,
    .a 65 15400960 268435456, .a 65 22347776 268435456, .p .free, .p .edges, .p .inbox, .p .mcache, .p .jq,
    .p .jobNo, .p .cmds, .p .cqs, .p .ctrls, .p .nss, .p .zones, .p .bands, .p .vol, .p .points, .p .mops, .p .opid,
    .p .journal, .p .jseq, .p .rung6, .p .blks, .p .fops, .p .fwait, .p .errlog, .p .pkt, .p .hbm, .p .poison,
    .p .lost, .p .kvLog, .p .stripes, .p .weakSlots]

theorem fragmentTimeout_out (no : Nat) (i : Fin 32) (bad : Bool) (mismatch : Bool) {s : State} (h₀ : Out L₀ s₀ s)
    (hL : Key.sub fragmentTimeoutOut L₀ = true) :
    Out L₀ s₀ (fragmentTimeout no i bad mismatch s) := by
  unfold fragmentTimeout
  repeat'
    first
      | with_reducible assumption | with_reducible apply Out.when | with_reducible apply Out.post
      | with_reducible apply State.updStripe_out | with_reducible apply Out.count
      | with_reducible apply State.patchRead_out | with_reducible apply State.showStripes_out
      | with_reducible apply State.tidyFrags_out | with_reducible apply Out.forAll
      | with_reducible apply State.rung6Ends_out | exact Key.hasA rfl | exact Key.hasW | exact Out.sub hL rfl
      | intro _ | with_reducible apply Out.ite | split | dsimp only [id_eq]
      | (rename_i e; with_reducible refine Out.of_eq e ?_) | with_reducible apply Out.setRung6

/-- What `rebuildFragment` may change. -/
def rebuildFragmentOut : List Key :=
  [.a 2 32 4, .w 6 8, .w 6 12, .w 7 12, .w 7 24, .w 7 28, .w 7 64,
    .w 7 17825792, .w 7 17956864, .w 9 8, .w 10 20, .w 10 24, .a 11 32 4, .a 11 48 4, .p .free, .p .edges,
    .p .inbox, .p .jq, .p .jobNo, .p .nss, .p .bands, .p .vol, .p .pkt, .p .hbm, .p .poison, .p .lost, .p .kvLog,
    .p .stripes]

theorem rebuildFragment_out (ok : Bool) {s : State} (h₀ : Out L₀ s₀ s)
    (hL : Key.sub rebuildFragmentOut L₀ = true) :
    Out L₀ s₀ (rebuildFragment ok s) := by
  unfold rebuildFragment
  repeat'
    first
      | with_reducible assumption | with_reducible apply State.showStripes_out
      | with_reducible apply State.tidyFrags_out | with_reducible apply Out.bump | with_reducible apply Out.count
      | with_reducible apply State.updStripe_out | with_reducible apply State.patchRead_out
      | with_reducible apply Out.put | with_reducible apply Out.post | with_reducible apply Out.evt
      | exact Key.hasA rfl | exact Key.hasW | exact Out.sub hL rfl | intro _ | with_reducible apply Out.ite | split
      | dsimp only [id_eq] | (rename_i e; with_reducible refine Out.of_eq e ?_)

theorem State.failEntry_out {s : State} (nsid : Nat) (key : Nat) (idx : Nat) (h₀ : Out L₀ s₀ s)
    (hL : Key.sub [.w 6 12, .w 6 68, .p .edges, .p .inbox, .p .kvLog, .p .kvDur] L₀ = true) :
    Out L₀ s₀ (State.failEntry s nsid key idx) := by
  unfold State.failEntry
  repeat'
    first
      | with_reducible assumption | with_reducible apply Out.post | with_reducible apply Out.evt
      | with_reducible apply Out.count | exact Key.hasA rfl | exact Key.hasW | exact Out.sub hL rfl | intro _
      | with_reducible apply Out.ite | split | dsimp only [id_eq]
      | (rename_i e; with_reducible refine Out.of_eq e ?_) | with_reducible apply Out.setKvLogKvDur

theorem State.loseBlock_out {s : State} (x : Nat × Nat) (h₀ : Out L₀ s₀ s)
    (hL : Key.sub stageAsOut L₀ = true) :
    Out L₀ s₀ (State.loseBlock s x) := by
  unfold State.loseBlock
  repeat'
    first
      | with_reducible assumption | with_reducible apply State.stage_out | exact Key.hasA rfl | exact Key.hasW
      | exact Out.sub hL rfl | intro _ | with_reducible apply Out.ite | split | dsimp only [id_eq]
      | (rename_i e; with_reducible refine Out.of_eq e ?_) | with_reducible apply Out.setLost

theorem State.imageAgain_out {s : State} (adr : Nat) (h₀ : Out L₀ s₀ s)
    (hL : Key.sub [.w 9 8, .w 10 20, .w 10 24, .p .pkt, .p .hbm, .p .poison] L₀ = true) :
    Out L₀ s₀ (State.imageAgain s adr) := by
  unfold State.imageAgain
  repeat'
    first
      | with_reducible assumption | with_reducible apply State.fwPages_out | exact Key.hasA rfl | exact Key.hasW
      | exact Out.sub hL rfl | intro _ | with_reducible apply Out.ite | split | dsimp only [id_eq]
      | (rename_i e; with_reducible refine Out.of_eq e ?_)

/-- What `hbmUncorrectable` may change. -/
def hbmUncorrectableOut : List Key :=
  [.a 2 32 4, .w 6 12, .w 6 68, .w 9 8, .w 9 12, .w 9 24, .w 9 68, .w 10 20,
    .w 10 24, .w 11 8, .w 11 12, .w 11 84, .w 11 18022400, .p .edges, .p .inbox, .p .vol, .p .pkt, .p .hbm,
    .p .poison, .p .lost, .p .kvLog, .p .kvDur]

theorem hbmUncorrectable_out (k : Fin 2) (adr : BitVec 35) (cls : Fin 16) (blocks : List (Nat × Nat)) (a : Act) (entry : Nat × List Byte × Nat) {s : State} (h₀ : Out L₀ s₀ s)
    (hL : Key.sub hbmUncorrectableOut L₀ = true) :
    Out L₀ s₀ (hbmUncorrectable k adr cls blocks a entry s) := by
  unfold hbmUncorrectable
  repeat'
    first
      | with_reducible assumption | with_reducible apply Out.puts_append | with_reducible apply Out.puts_nil
      | with_reducible apply Out.puts_cons | with_reducible apply Out.put | with_reducible apply Out.count
      | with_reducible apply Out.evt | with_reducible apply Out.post | with_reducible apply Out.forAll
      | with_reducible apply State.loseBlock_out | with_reducible apply State.refreshAct_out
      | with_reducible apply State.failEntry_out | with_reducible apply State.imageAgain_out | exact Key.hasA rfl
      | exact Key.hasW | exact Out.sub hL rfl | intro _ | with_reducible apply Out.ite | split | dsimp only [id_eq]
      | (rename_i e; with_reducible refine Out.of_eq e ?_) | with_reducible apply Out.setPoison

theorem execFlush_out (id : CmdId) (nsid : BitVec 32) {s t : State} (h : execFlush id nsid s = .next t) :
    Out keepAliveOut s t := by
  have h := Host.Outcome.next.inj h; subst h; exact flushCmd_out _ _ (Out.refl s) rfl

theorem execStore_out (id : CmdId) (nsid : BitVec 32) (key : List Byte) (value : List Byte) (ifExists : Bool) (ifNew : Bool) (fua : Bool) {s t : State} (h : execStore id nsid key value ifExists ifNew fua s = .next t) :
    Out storeCmdOut s t := by
  have h := Host.Outcome.next.inj h; subst h; exact storeCmd_out _ _ _ _ _ _ _ (Out.refl s) rfl

theorem execRetrieve_out (id : CmdId) (nsid : BitVec 32) (key : List Byte) {s t : State} (h : execRetrieve id nsid key s = .next t) :
    Out retrieveCmdOut s t := by
  have h := Host.Outcome.next.inj h; subst h; exact retrieveCmd_out _ _ _ (Out.refl s) rfl

theorem execKvDelete_out (id : CmdId) (nsid : BitVec 32) (key : List Byte) {s t : State} (h : execKvDelete id nsid key s = .next t) :
    Out kvDeleteOut s t := by
  have h := Host.Outcome.next.inj h; subst h; exact kvDelete_out _ _ _ (Out.refl s) rfl

theorem execExist_out (id : CmdId) (nsid : BitVec 32) (key : List Byte) {s t : State} (h : execExist id nsid key s = .next t) :
    Out keepAliveOut s t := by
  have h := Host.Outcome.next.inj h; subst h; exact existCmd_out _ _ _ (Out.refl s) rfl

theorem execList_out (id : CmdId) (nsid : BitVec 32) (first : List Byte) {s t : State} (h : execList id nsid first s = .next t) :
    Out keepAliveOut s t := by
  have h := Host.Outcome.next.inj h; subst h; exact listCmd_out _ _ _ (Out.refl s) rfl

theorem execLoadProgram_out (id : CmdId) (nsid : BitVec 32) (slot : BitVec 8) (ptype : BitVec 8) (image : List (BitVec 64)) {s t : State} (h : execLoadProgram id nsid slot ptype image s = .next t) :
    Out loadProgramOut s t := by
  have h := Host.Outcome.next.inj h; subst h; exact loadProgram_out _ _ _ _ _ (Out.refl s) rfl

theorem execProgramActivationManagement_out (id : CmdId) (nsid : BitVec 32) (slot : BitVec 8) (activate : Bool) {s t : State} (h : execProgramActivationManagement id nsid slot activate s = .next t) :
    Out loadProgramOut s t := by
  have h := Host.Outcome.next.inj h; subst h; exact programActivation_out _ _ _ _ (Out.refl s) rfl

theorem execExecuteProgram_out (id : CmdId) (nsid : BitVec 32) (slot : BitVec 8) (rset : BitVec 8) (dw12 : BitVec 32) (dw13 : BitVec 32) (dw14 : BitVec 32) (dw15 : BitVec 32) {s t : State} (h : execExecuteProgram id nsid slot rset dw12 dw13 dw14 dw15 s = .next t) :
    Out executeProgramOut s t := by
  have h := Host.Outcome.next.inj h; subst h; exact executeProgram_out _ _ _ _ _ _ _ _ (Out.refl s) rfl

theorem execHelperCopy_out (core : Fin 8) {s t : State} (h : execHelperCopy core s = .next t) :
    Out runOutOut s t := by
  have h := Host.Outcome.next.inj h; subst h; exact helperCopy_out _ (Out.refl s) rfl

theorem execHelperZcomp_out (core : Fin 8) {s t : State} (h : execHelperZcomp core s = .next t) :
    Out runOutOut s t := by
  have h := Host.Outcome.next.inj h; subst h; exact helperZcomp_out _ (Out.refl s) rfl

theorem execHelperZdecomp_out (core : Fin 8) {s t : State} (h : execHelperZdecomp core s = .next t) :
    Out runOutOut s t := by
  have h := Host.Outcome.next.inj h; subst h; exact helperZdecomp_out _ (Out.refl s) rfl

theorem execHelperSha256_out (core : Fin 8) {s t : State} (h : execHelperSha256 core s = .next t) :
    Out runOutOut s t := by
  have h := Host.Outcome.next.inj h; subst h; exact helperSha256_out _ (Out.refl s) rfl

theorem execHelperCrc32c_out (core : Fin 8) {s t : State} (h : execHelperCrc32c core s = .next t) :
    Out runOutOut s t := by
  have h := Host.Outcome.next.inj h; subst h; exact helperCrc32c_out _ (Out.refl s) rfl

theorem execHelperOpsec_out (core : Fin 8) {s t : State} (h : execHelperOpsec core s = .next t) :
    Out runOutOut s t := by
  have h := Host.Outcome.next.inj h; subst h; exact helperOpsec_out _ (Out.refl s) rfl

theorem execMemoryRangeSetManagement_out (id : CmdId) (nsid : BitVec 32) (create : Bool) (rset : BitVec 16) (ranges : List (BitVec 64 × BitVec 64)) {s t : State} (h : execMemoryRangeSetManagement id nsid create rset ranges s = .next t) :
    Out memoryRangeSetOut s t := by
  have h := Host.Outcome.next.inj h; subst h; exact memoryRangeSet_out _ _ _ _ _ (Out.refl s) rfl

theorem execMemoryCopy_out (id : CmdId) (nsid : BitVec 32) (dst : BitVec 64) (srcs : List CopySrc) {s t : State} (h : execMemoryCopy id nsid dst srcs s = .next t) :
    Out keepAliveOut s t := by
  have h := Host.Outcome.next.inj h; subst h; exact memoryCopy_out _ _ _ _ (Out.refl s) rfl

theorem execMemoryRead_out (id : CmdId) (nsid : BitVec 32) (off : BitVec 64) (len : BitVec 32) {s t : State} (h : execMemoryRead id nsid off len s = .next t) :
    Out keepAliveOut s t := by
  have h := Host.Outcome.next.inj h; subst h; exact memoryRead_out _ _ _ _ (Out.refl s) rfl

theorem execMemoryWrite_out (id : CmdId) (nsid : BitVec 32) (off : BitVec 64) (data : List Byte) {s t : State} (h : execMemoryWrite id nsid off data s = .next t) :
    Out keepAliveOut s t := by
  have h := Host.Outcome.next.inj h; subst h; exact memoryWrite_out _ _ _ _ (Out.refl s) rfl

theorem execTruEnable_out (defaultsOk : Bool) {s t : State} (h : execTruEnable defaultsOk s = .next t) :
    Out [.w 6 0, .w 6 4] s t := by
  have h := Host.Outcome.next.inj h; subst h; exact truEnableCmd_out _ (Out.refl s) rfl

theorem execPwkAct_out {s t : State} (h : execPwkAct s = .next t) :
    Out pwkActOut s t := by
  have h := Host.Outcome.next.inj h; subst h; exact pwkActCmd_out  (Out.refl s) rfl

theorem execDiscoveryPoll_out (log : List Found) {s t : State} (h : execDiscoveryPoll log s = .next t) :
    Out discoveryPollOut s t := by
  have h := Host.Outcome.next.inj h; subst h; exact discoveryPoll_out _ (Out.refl s) rfl

theorem execDiscoveryLogPageChange_out (log : List Found) {s t : State} (h : execDiscoveryLogPageChange log s = .next t) :
    Out discoverOut s t := by
  have h := Host.Outcome.next.inj h; subst h; exact discoveryChange_out _ (Out.refl s) rfl

theorem execCandidateAuthRetry_out (x : Found) {s t : State} (h : execCandidateAuthRetry x s = .next t) :
    Out discoverOut s t := by
  have h := Host.Outcome.next.inj h; subst h; exact candidateRetry_out _ (Out.refl s) rfl

theorem execPeerTimeout_out (sn : List Byte) {s t : State} (h : execPeerTimeout sn s = .next t) :
    Out peerTimeoutOut s t := by
  have h := Host.Outcome.next.inj h; subst h; exact peerTimeout_out _ (Out.refl s) rfl

theorem execEpochPropose_out {s t : State} (h : execEpochPropose s = .next t) :
    Out proposeOut s t := by
  have h := Host.Outcome.next.inj h; subst h; exact epochPropose_out  (Out.refl s) rfl

theorem execProposalReceive_out (e : BitVec 32) (ms : List (List Byte)) {s t : State} (h : execProposalReceive e ms s = .next t) :
    Out proposeOut s t := by
  have h := Host.Outcome.next.inj h; subst h; exact proposalReceive_out _ _ (Out.refl s) rfl

theorem execProposalAckReceive_out (e : BitVec 32) (sn : List Byte) {s t : State} (h : execProposalAckReceive e sn s = .next t) :
    Out commitEpochOut s t := by
  have h := Host.Outcome.next.inj h; subst h; exact proposalAck_out _ _ (Out.refl s) rfl

theorem execEpochCommitReceive_out (e : BitVec 32) {s t : State} (h : execEpochCommitReceive e s = .next t) :
    Out commitEpochOut s t := by
  have h := Host.Outcome.next.inj h; subst h; exact epochCommitReceive_out _ (Out.refl s) rfl

theorem execProposalVoid_out {s t : State} (h : execProposalVoid s = .next t) :
    Out proposalVoidOut s t := by
  have h := Host.Outcome.next.inj h; subst h; exact proposalVoid_out  (Out.refl s) rfl

theorem execEpochRepropose_out {s t : State} (h : execEpochRepropose s = .next t) :
    Out proposeOut s t := by
  have h := Host.Outcome.next.inj h; subst h; exact epochRepropose_out  (Out.refl s) rfl

theorem execFragmentStoreAck_out (no : Nat) (frag : Fin 32) (ok : Bool) {s t : State} (h : execFragmentStoreAck no frag ok s = .next t) :
    Out settleStripeOut s t := by
  have h := Host.Outcome.next.inj h; subst h; exact fragmentAck_out _ _ _ (Out.refl s) rfl

theorem execFragmentTimeout_out (no : Nat) (frag : Fin 32) (bad : Bool) (mismatch : Bool) {s t : State} (h : execFragmentTimeout no frag bad mismatch s = .next t) :
    Out fragmentTimeoutOut s t := by
  have h := Host.Outcome.next.inj h; subst h; exact fragmentTimeout_out _ _ _ _ (Out.refl s) rfl

theorem execRebuildFragment_out (ok : Bool) {s t : State} (h : execRebuildFragment ok s = .next t) :
    Out rebuildFragmentOut s t := by
  have h := Host.Outcome.next.inj h; subst h; exact rebuildFragment_out _ (Out.refl s) rfl

theorem execHbmUncorrectable_out (k : Fin 2) (adr : BitVec 35) (cls : Fin 16) (blocks : List (Nat × Nat)) (a : Act) (entry : Nat × List Byte × Nat) {s t : State} (h : execHbmUncorrectable k adr cls blocks a entry s = .next t) :
    Out hbmUncorrectableOut s t := by
  have h := Host.Outcome.next.inj h; subst h; exact hbmUncorrectable_out _ _ _ _ _ _ (Out.refl s) rfl

end Sys2Proof.Machine
end

