-- ==== Sys2Proof/Laws/OutFabric.lean ====
section
/-!
SUPPORT. What each operation and each command of `Machine/Fabric.lean` can change.
-/

namespace Sys2Proof.Machine

set_option Elab.async false
set_option linter.unusedVariables false

set_option maxRecDepth 8000
set_option linter.unusedTactic false
set_option linter.unreachableTactic false

variable {L₀ : List Key} {s₀ : State}

theorem State.discChanged_out {s : State} (h₀ : Out L₀ s₀ s)
    (hL : Key.sub noticeOut L₀ = true) :
    Out L₀ s₀ (State.discChanged s) := by
  unfold State.discChanged
  repeat'
    first
      | with_reducible assumption | with_reducible apply State.noticeAll_out | exact Key.hasA rfl | exact Key.hasW
      | exact Out.sub hL rfl | intro _ | with_reducible apply Out.ite | split | dsimp only [id_eq]
      | (rename_i e; with_reducible refine Out.of_eq e ?_)

theorem State.fabEnable_out {s : State} (refB : Bool) (h₀ : Out L₀ s₀ s)
    (hL : Key.sub [.w 1 0, .w 1 4, .w 1 8] L₀ = true) :
    Out L₀ s₀ (State.fabEnable s refB).1 := by
  unfold State.fabEnable
  repeat'
    first
      | with_reducible assumption | with_reducible apply State.enable_out | with_reducible apply Out.puts_nil
      | with_reducible apply Out.puts_cons | with_reducible apply Out.put | exact Key.hasA rfl | exact Key.hasW
      | exact Out.sub hL rfl | intro _ | with_reducible apply Out.ite | split | dsimp only [id_eq]
      | (rename_i e; with_reducible refine Out.of_eq e ?_)

theorem fabEnableCmd_out (refB : Bool) {s : State} (h₀ : Out L₀ s₀ s)
    (hL : Key.sub [.w 1 0, .w 1 4, .w 1 8] L₀ = true) :
    Out L₀ s₀ (fabEnableCmd refB s) := by
  unfold fabEnableCmd
  repeat'
    first
      | with_reducible assumption | with_reducible apply State.fabEnable_out | exact Key.hasA rfl | exact Key.hasW
      | exact Out.sub hL rfl | intro _ | with_reducible apply Out.ite | split | dsimp only [id_eq]
      | (rename_i e; with_reducible refine Out.of_eq e ?_)

theorem State.portBit_out {s : State} (k : Fld) (p : Nat) (v : Bool) (h₀ : Out L₀ s₀ s) {n_k : Key} (hk_k : n_k.has k) (hL_k : Key.sub [n_k] L₀ = true) :
    Out L₀ s₀ (State.portBit s k p v) := by
  unfold State.portBit
  repeat'
    first
      | with_reducible assumption | with_reducible apply Out.put | with_reducible exact hk_k
      | with_reducible exact hL_k | intro _ | with_reducible apply Out.ite | split | dsimp only [id_eq]

theorem State.linkDown_out {s : State} (p : Nat) (cause : Nat) (h₀ : Out L₀ s₀ s)
    (hL : Key.sub [.w 1 8, .w 1 12, .w 1 64, .p .edges, .p .inbox] L₀ = true) :
    Out L₀ s₀ (State.linkDown s p cause) := by
  unfold State.linkDown
  repeat'
    first
      | with_reducible assumption | with_reducible apply Out.post | with_reducible apply Out.evt
      | with_reducible apply Out.count | with_reducible apply State.portBit_out | exact Key.hasA rfl | exact Key.hasW
      | exact Out.sub hL rfl | intro _ | with_reducible apply Out.ite | split | dsimp only [id_eq]
      | (rename_i e; with_reducible refine Out.of_eq e ?_)

theorem linkDownCmd_out (p : Fin 2) (cause : BitVec 8) {s : State} (h₀ : Out L₀ s₀ s)
    (hL : Key.sub [.w 1 8, .w 1 12, .w 1 64, .p .edges, .p .inbox] L₀ = true) :
    Out L₀ s₀ (linkDownCmd p cause s) := by
  unfold linkDownCmd
  repeat'
    first
      | with_reducible assumption | with_reducible apply State.linkDown_out | exact Key.hasA rfl | exact Key.hasW
      | exact Out.sub hL rfl | intro _ | with_reducible apply Out.ite | split | dsimp only [id_eq]
      | (rename_i e; with_reducible refine Out.of_eq e ?_)

theorem State.setPortDis_out {s : State} (v : Nat) (h₀ : Out L₀ s₀ s)
    (hL : Key.sub [.w 1 0, .w 1 8, .w 1 12, .w 1 64, .p .edges, .p .inbox] L₀ = true) :
    Out L₀ s₀ (State.setPortDis s v) := by
  unfold State.setPortDis
  repeat'
    first
      | with_reducible assumption | with_reducible apply Out.forAll | with_reducible apply Out.put
      | with_reducible apply State.linkDown_out | exact Key.hasA rfl | exact Key.hasW | exact Out.sub hL rfl
      | intro _ | with_reducible apply Out.ite | split | dsimp only [id_eq]
      | (rename_i e; with_reducible refine Out.of_eq e ?_)

theorem portDis_out (v : BitVec 2) {s : State} (h₀ : Out L₀ s₀ s)
    (hL : Key.sub [.w 1 0, .w 1 8, .w 1 12, .w 1 64, .p .edges, .p .inbox] L₀ = true) :
    Out L₀ s₀ (portDis v s) := by
  unfold portDis
  repeat'
    first
      | with_reducible assumption | with_reducible apply State.setPortDis_out | exact Key.hasA rfl | exact Key.hasW
      | exact Out.sub hL rfl | intro _ | with_reducible apply Out.ite | split | dsimp only [id_eq]
      | (rename_i e; with_reducible refine Out.of_eq e ?_)

theorem State.probe_out {s : State} (p : Nat) (addr : Nat) (v6 : Bool) (dyn : Bool) (conflict : Bool) (h₀ : Out L₀ s₀ s)
    (hL : Key.sub [.w 1 12, .p .edges, .p .inbox, .p .addrs] L₀ = true) :
    Out L₀ s₀ (State.probe s p addr v6 dyn conflict) := by
  unfold State.probe
  repeat'
    first
      | with_reducible assumption | with_reducible apply Out.post | with_reducible apply Out.evt | exact Key.hasA rfl
      | exact Key.hasW | exact Out.sub hL rfl | intro _ | with_reducible apply Out.ite | split | dsimp only [id_eq]
      | (rename_i e; with_reducible refine Out.of_eq e ?_) | with_reducible apply Out.setAddrs

/-- What `linkUpCmd` may change. -/
def linkUpCmdOut : List Key :=
  [.w 1 8, .w 1 12, .a 1 32 4, .w 1 18087936, .w 2 8, .w 2 20, .w 2 24, .a 2 32 4,
    .w 2 5439488, .w 2 5505024, .w 6 8, .w 6 12, .w 7 12, .w 7 24, .w 7 28, .w 7 17956864, .w 9 8, .w 10 20,
    .w 10 24, .a 11 32 4, .a 11 48 4, .a 65 22347776 268435456, .p .free, .p .edges, .p .inbox, .p .mcache, .p .jq,
    .p .jobNo, .p .cmds, .p .cqs, .p .ctrls, .p .nss, .p .bands, .p .vol, .p .points, .p .errlog, .p .pkt, .p .hbm,
    .p .poison, .p .lost, .p .kvLog, .p .stripes, .p .addrs, .p .partner]

theorem linkUpCmd_out (p : Fin 2) (fec : Fin 4) (abilities : BitVec 32) (lanes : List (Nat × Nat)) (dup : List Nat) {s : State} (h₀ : Out L₀ s₀ s)
    (hL : Key.sub linkUpCmdOut L₀ = true) :
    Out L₀ s₀ (linkUpCmd p fec abilities lanes dup s) := by
  unfold linkUpCmd
  repeat'
    first
      | with_reducible assumption | with_reducible apply Out.puts_append | with_reducible apply Out.puts_nil
      | with_reducible apply Out.puts_cons | with_reducible apply Out.put | with_reducible apply State.portBit_out
      | with_reducible apply Out.evt | with_reducible apply Out.forAll | with_reducible apply Out.post
      | with_reducible apply State.probe_out | with_reducible apply State.discChanged_out | exact Key.hasA rfl
      | exact Key.hasW | exact Out.sub hL rfl | intro _ | with_reducible apply Out.ite | split | dsimp only [id_eq]
      | (rename_i e; with_reducible refine Out.of_eq e ?_) | with_reducible apply Out.setPartner

theorem negotiationFailure_out (p : Fin 2) (abilities : BitVec 32) {s : State} (h₀ : Out L₀ s₀ s)
    (hL : Key.sub [.w 1 8, .p .inbox] L₀ = true) :
    Out L₀ s₀ (negotiationFailure p abilities s) := by
  unfold negotiationFailure
  repeat'
    first
      | with_reducible assumption | with_reducible apply Out.post | with_reducible apply State.portBit_out
      | exact Key.hasA rfl | exact Key.hasW | exact Out.sub hL rfl | intro _ | with_reducible apply Out.ite | split
      | dsimp only [id_eq] | (rename_i e; with_reducible refine Out.of_eq e ?_)

/-- What `dhcpAcquired` may change. -/
def dhcpAcquiredOut : List Key :=
  [.w 1 12, .w 2 8, .w 2 20, .w 2 24, .a 2 32 4, .w 2 5439488, .w 2 5505024,
    .w 6 8, .w 6 12, .w 7 12, .w 7 24, .w 7 28, .w 7 17956864, .w 9 8, .w 10 20, .w 10 24, .a 11 32 4, .a 11 48 4,
    .a 65 22347776 268435456, .p .free, .p .edges, .p .inbox, .p .mcache, .p .jq, .p .jobNo, .p .cmds, .p .cqs,
    .p .ctrls, .p .nss, .p .bands, .p .vol, .p .points, .p .errlog, .p .pkt, .p .hbm, .p .poison, .p .lost,
    .p .kvLog, .p .stripes, .p .addrs]

theorem dhcpAcquired_out (p : Fin 2) (v6 : Bool) (addr : BitVec 128) (conflict : Bool) {s : State} (h₀ : Out L₀ s₀ s)
    (hL : Key.sub dhcpAcquiredOut L₀ = true) :
    Out L₀ s₀ (dhcpAcquired p v6 addr conflict s) := by
  unfold dhcpAcquired
  repeat'
    first
      | with_reducible assumption | with_reducible apply State.discChanged_out | with_reducible apply State.probe_out
      | exact Key.hasA rfl | exact Key.hasW | exact Out.sub hL rfl | intro _ | with_reducible apply Out.ite | split
      | dsimp only [id_eq] | (rename_i e; with_reducible refine Out.of_eq e ?_)

/-- What `dhcpLost` may change. -/
def dhcpLostOut : List Key :=
  [.w 2 8, .w 2 20, .w 2 24, .a 2 32 4, .w 2 5439488, .w 2 5505024, .w 6 8, .w 6 12,
    .w 7 12, .w 7 24, .w 7 28, .w 7 17956864, .w 9 8, .w 10 20, .w 10 24, .a 11 32 4, .a 11 48 4,
    .a 65 22347776 268435456, .p .free, .p .edges, .p .inbox, .p .mcache, .p .jq, .p .jobNo, .p .cmds, .p .cqs,
    .p .ctrls, .p .nss, .p .bands, .p .vol, .p .points, .p .errlog, .p .pkt, .p .hbm, .p .poison, .p .lost,
    .p .kvLog, .p .stripes, .p .addrs]

theorem dhcpLost_out (p : Fin 2) (addr : BitVec 128) {s : State} (h₀ : Out L₀ s₀ s)
    (hL : Key.sub dhcpLostOut L₀ = true) :
    Out L₀ s₀ (dhcpLost p addr s) := by
  unfold dhcpLost
  repeat'
    first
      | with_reducible assumption | with_reducible apply State.discChanged_out | exact Key.hasA rfl | exact Key.hasW
      | exact Out.sub hL rfl | intro _ | with_reducible apply Out.ite | split | dsimp only [id_eq]
      | (rename_i e; with_reducible refine Out.of_eq e ?_) | with_reducible apply Out.setAddrs

/-- What `failover` may change. -/
def failoverOut : List Key :=
  [.w 1 8, .w 1 12, .w 1 68, .w 1 18153472, .w 1 18219008, .w 2 8, .w 2 20, .w 2 24,
    .a 2 32 4, .w 2 5439488, .w 2 5505024, .w 6 8, .w 6 12, .w 7 12, .w 7 24, .w 7 28, .w 7 17956864, .w 9 8,
    .w 10 20, .w 10 24, .a 11 32 4, .a 11 48 4, .a 65 22347776 268435456, .p .free, .p .edges, .p .inbox,
    .p .mcache, .p .jq, .p .jobNo, .p .cmds, .p .cqs, .p .ctrls, .p .nss, .p .bands, .p .vol, .p .points,
    .p .errlog, .p .pkt, .p .hbm, .p .poison, .p .lost, .p .kvLog, .p .stripes, .p .addrs]

theorem failover_out (p : Fin 2) (dup : List Nat) {s : State} (h₀ : Out L₀ s₀ s)
    (hL : Key.sub failoverOut L₀ = true) :
    Out L₀ s₀ (failover p dup s) := by
  unfold failover
  repeat'
    first
      | with_reducible assumption | with_reducible apply Out.when | with_reducible apply Out.puts_nil
      | with_reducible apply Out.puts_cons | with_reducible apply Out.put | with_reducible apply State.portBit_out
      | with_reducible apply Out.forAll | with_reducible apply Out.post | with_reducible apply Out.evt
      | with_reducible apply State.discChanged_out | with_reducible apply Out.count | exact Key.hasA rfl
      | exact Key.hasW | exact Out.sub hL rfl | intro _ | with_reducible apply Out.ite | split | dsimp only [id_eq]
      | (rename_i e; with_reducible refine Out.of_eq e ?_) | with_reducible apply Out.setAddrs

theorem addressAnnounce_out (p : Fin 2) {s : State} (h₀ : Out L₀ s₀ s)
    (hL : Key.sub [.w 1 18153472] L₀ = true) :
    Out L₀ s₀ (addressAnnounce p s) := by
  unfold addressAnnounce
  repeat'
    first
      | with_reducible assumption | with_reducible apply Out.put | exact Key.hasA rfl | exact Key.hasW
      | exact Out.sub hL rfl | intro _ | with_reducible apply Out.ite | split | dsimp only [id_eq]
      | (rename_i e; with_reducible refine Out.of_eq e ?_)

/-- What `failback` may change. -/
def failbackOut : List Key :=
  [.w 1 8, .w 1 12, .w 1 18153472, .w 1 18219008, .w 2 8, .w 2 20, .w 2 24, .a 2 32 4,
    .w 2 5439488, .w 2 5505024, .w 6 8, .w 6 12, .w 7 12, .w 7 24, .w 7 28, .w 7 17956864, .w 9 8, .w 10 20,
    .w 10 24, .a 11 32 4, .a 11 48 4, .a 65 22347776 268435456, .p .free, .p .edges, .p .inbox, .p .mcache, .p .jq,
    .p .jobNo, .p .cmds, .p .cqs, .p .ctrls, .p .nss, .p .bands, .p .vol, .p .points, .p .errlog, .p .pkt, .p .hbm,
    .p .poison, .p .lost, .p .kvLog, .p .stripes, .p .addrs]

theorem failback_out (p : Fin 2) {s : State} (h₀ : Out L₀ s₀ s)
    (hL : Key.sub failbackOut L₀ = true) :
    Out L₀ s₀ (failback p s) := by
  unfold failback
  repeat'
    first
      | with_reducible assumption | with_reducible apply State.discChanged_out | with_reducible apply Out.post
      | with_reducible apply Out.evt | with_reducible apply Out.puts_nil | with_reducible apply Out.puts_cons
      | with_reducible apply Out.put | with_reducible apply State.portBit_out | exact Key.hasA rfl | exact Key.hasW
      | exact Out.sub hL rfl | intro _ | with_reducible apply Out.ite | split | dsimp only [id_eq]
      | (rename_i e; with_reducible refine Out.of_eq e ?_) | with_reducible apply Out.setAddrs

theorem lldpReceive_out (p : Fin 2) (chassis : BitVec 64) (portId : BitVec 64) (pfc : BitVec 8) {s : State} (h₀ : Out L₀ s₀ s)
    (hL : Key.sub [.w 1 8, .p .partner] L₀ = true) :
    Out L₀ s₀ (lldpReceive p chassis portId pfc s) := by
  unfold lldpReceive
  repeat'
    first
      | with_reducible assumption | with_reducible apply Out.when | with_reducible apply Out.put | exact Key.hasA rfl
      | exact Key.hasW | exact Out.sub hL rfl | intro _ | with_reducible apply Out.ite | split | dsimp only [id_eq]
      | (rename_i e; with_reducible refine Out.of_eq e ?_) | with_reducible apply Out.setPartner

/-- What `transportFailure` may change. -/
def transportFailureOut : List Key :=
  [.w 2 8, .w 2 20, .w 2 24, .a 2 32 4, .w 2 5439488, .w 2 5505024, .w 6 8,
    .w 6 12, .w 7 12, .w 7 24, .w 7 28, .w 7 17956864, .w 9 8, .w 10 20, .w 10 24, .a 11 32 4, .a 11 48 4,
    .a 65 22347776 268435456, .p .free, .p .edges, .p .inbox, .p .mcache, .p .jq, .p .jobNo, .p .cmds, .p .ctrls,
    .p .nss, .p .bands, .p .vol, .p .points, .p .held, .p .pkt, .p .hbm, .p .poison, .p .lost, .p .kvLog,
    .p .stripes]

theorem transportFailure_out (c : BitVec 16) (qid : BitVec 16) {s : State} (h₀ : Out L₀ s₀ s)
    (hL : Key.sub transportFailureOut L₀ = true) :
    Out L₀ s₀ (transportFailure c qid s) := by
  unfold transportFailure
  repeat'
    first
      | with_reducible assumption | with_reducible apply State.showCmds_out
      | with_reducible apply State.drainDeletes_out | with_reducible apply State.setCtrl_out | exact Key.hasA rfl
      | exact Key.hasW | exact Out.sub hL rfl | intro _ | with_reducible apply Out.ite | split | dsimp only [id_eq]
      | (rename_i e; with_reducible refine Out.of_eq e ?_) | with_reducible apply Out.setCmdsHeld

theorem State.listen_out {s : State} (h₀ : Out L₀ s₀ s)
    (hL : Key.sub [.w 1 8, .w 2 8, .w 2 20, .w 2 24, .a 2 32 4, .w 2 5439488, .w 2 5505024, .w 3 8, .a 3 256 4, .a 4 4096 4,
    .a 4 16384 32, .a 4 16388 32, .a 4 16392 32, .a 4 16396 32, .a 4 16384000 268435456, .a 4 16449536 268435456,
    .w 6 8, .w 6 12, .w 7 12, .w 7 24, .w 7 28, .w 7 17956864, .w 9 8, .w 10 20, .w 10 24, .w 11 12, .a 11 32 4,
    .a 11 48 4, .w 11 84, .w 12 8, .w 13 8, .w 13 12, .w 13 76, .w 13 1572864, .w 13 2359296, .w 13 2424832,
    .w 13 20250624, .w 14 8, .w 14 12, .w 14 24, .w 14 84, .w 14 3211264, .w 14 3342336, .w 14 3407872,
    .w 14 3473408, .w 14 3538944, .w 14 4128768, .w 14 4194304, .w 14 4259840, .w 14 4325376, .w 14 4784128,
    .w 14 21692416, .w 14 21757952, .w 14 22675456, .w 14 22806528, .w 16 8, .w 16 12, .w 16 6094848, .w 16 8519680,
    .w 16 8585216, .w 16 8912896, .w 16 8978432, .w 16 9240576, .w 16 9306112, .w 16 9502720, .w 16 9568256,
    .w 16 9895936, .w 16 9961472, .w 16 10223616, .w 16 10551296, .w 16 10944512, .w 16 23068672, .w 16 23789568,
    .w 16 23855104, .w 16 24051712, .w 16 24444928, .w 17 13762560, .w 17 24510464, .w 18 8, .w 18 12, .w 18 72,
    .w 18 786432, .w 18 20578304, .w 19 12, .w 19 16, .w 19 1114112, .w 19 1179648, .a 19 1310720 268435456,
    .a 19 1376256 268435456, .a 19 22413312 268435456, .a 19 22478848 268435456, .w 22 8, .w 22 12, .w 22 24,
    .w 22 28, .w 64 6881280, .w 64 16711680, .a 65 22347776 268435456, .p .win, .p .free, .p .edges, .p .inbox,
    .p .chn, .p .seqs, .p .mcache, .p .pa, .p .jq, .p .jact, .p .jobNo, .p .cmds, .p .ctrls, .p .visit, .p .nss,
    .p .bands, .p .vol, .p .points, .p .mops, .p .errlog, .p .reqs, .p .nonces, .p .held, .p .pkt, .p .hbm,
    .p .poison, .p .lost, .p .kvLog, .p .stripes] L₀ = true) :
    Out L₀ s₀ (State.listen s) := by
  unfold State.listen
  repeat'
    first
      | with_reducible assumption | with_reducible apply Out.puts_nil | with_reducible apply Out.puts_cons
      | with_reducible apply Out.put | with_reducible apply Out.forAll | with_reducible apply State.tearDown_out
      | exact Key.hasA rfl | exact Key.hasW | exact Out.sub hL rfl | intro _ | with_reducible apply Out.ite | split
      | dsimp only [id_eq] | (rename_i e; with_reducible refine Out.of_eq e ?_)

theorem State.fabDisable_out {s : State} (h₀ : Out L₀ s₀ s)
    (hL : Key.sub [.w 1 0, .w 1 8, .w 1 12, .w 1 64, .p .edges, .p .inbox] L₀ = true) :
    Out L₀ s₀ (State.fabDisable s) := by
  unfold State.fabDisable
  repeat'
    first
      | with_reducible assumption | with_reducible apply Out.put | with_reducible apply State.linkDown_out
      | exact Key.hasA rfl | exact Key.hasW | exact Out.sub hL rfl | intro _ | with_reducible apply Out.ite | split
      | dsimp only [id_eq] | (rename_i e; with_reducible refine Out.of_eq e ?_)

theorem execFabEnable_out (refB : Bool) {s t : State} (h : execFabEnable refB s = .next t) :
    Out [.w 1 0, .w 1 4, .w 1 8] s t := by
  have h := Host.Outcome.next.inj h; subst h; exact fabEnableCmd_out _ (Out.refl s) rfl

theorem execPortDis_out (v : BitVec 2) {s t : State} (h : execPortDis v s = .next t) :
    Out [.w 1 0, .w 1 8, .w 1 12, .w 1 64, .p .edges, .p .inbox] s t := by
  have h := Host.Outcome.next.inj h; subst h; exact portDis_out _ (Out.refl s) rfl

theorem execLinkUp_out (p : Fin 2) (fec : Fin 4) (abilities : BitVec 32) (lanes : List (Nat × Nat)) (dup : List Nat) {s t : State} (h : execLinkUp p fec abilities lanes dup s = .next t) :
    Out linkUpCmdOut s t := by
  have h := Host.Outcome.next.inj h; subst h; exact linkUpCmd_out _ _ _ _ _ (Out.refl s) rfl

theorem execLinkDown_out (p : Fin 2) (cause : BitVec 8) {s t : State} (h : execLinkDown p cause s = .next t) :
    Out [.w 1 8, .w 1 12, .w 1 64, .p .edges, .p .inbox] s t := by
  have h := Host.Outcome.next.inj h; subst h; exact linkDownCmd_out _ _ (Out.refl s) rfl

theorem execFailover_out (p : Fin 2) (dup : List Nat) {s t : State} (h : execFailover p dup s = .next t) :
    Out failoverOut s t := by
  have h := Host.Outcome.next.inj h; subst h; exact failover_out _ _ (Out.refl s) rfl

theorem execAddressAnnounce_out (p : Fin 2) {s t : State} (h : execAddressAnnounce p s = .next t) :
    Out [.w 1 18153472] s t := by
  have h := Host.Outcome.next.inj h; subst h; exact addressAnnounce_out _ (Out.refl s) rfl

theorem execFailback_out (p : Fin 2) {s t : State} (h : execFailback p s = .next t) :
    Out failbackOut s t := by
  have h := Host.Outcome.next.inj h; subst h; exact failback_out _ (Out.refl s) rfl

theorem execDhcpLeaseLost_out (p : Fin 2) (addr : BitVec 128) {s t : State} (h : execDhcpLeaseLost p addr s = .next t) :
    Out dhcpLostOut s t := by
  have h := Host.Outcome.next.inj h; subst h; exact dhcpLost_out _ _ (Out.refl s) rfl

theorem execLldpReceive_out (p : Fin 2) (chassis : BitVec 64) (portId : BitVec 64) (pfc : BitVec 8) {s t : State} (h : execLldpReceive p chassis portId pfc s = .next t) :
    Out [.w 1 8, .p .partner] s t := by
  have h := Host.Outcome.next.inj h; subst h; exact lldpReceive_out _ _ _ _ (Out.refl s) rfl

theorem execNegotiationFailure_out (p : Fin 2) (abilities : BitVec 32) {s t : State} (h : execNegotiationFailure p abilities s = .next t) :
    Out [.w 1 8, .p .inbox] s t := by
  have h := Host.Outcome.next.inj h; subst h; exact negotiationFailure_out _ _ (Out.refl s) rfl

theorem execTransportConnectionFailure_out (c : BitVec 16) (qid : BitVec 16) {s t : State} (h : execTransportConnectionFailure c qid s = .next t) :
    Out transportFailureOut s t := by
  have h := Host.Outcome.next.inj h; subst h; exact transportFailure_out _ _ (Out.refl s) rfl

theorem execDhcpLeaseAcquired_out (p : Fin 2) (v6 : Bool) (addr : BitVec 128) (conflict : Bool) {s t : State} (h : execDhcpLeaseAcquired p v6 addr conflict s = .next t) :
    Out dhcpAcquiredOut s t := by
  have h := Host.Outcome.next.inj h; subst h; exact dhcpAcquired_out _ _ _ _ (Out.refl s) rfl

end Sys2Proof.Machine
end

