-- ==== Sys2Proof/Laws/OutTailor.lean ====
section
/-!
SUPPORT. What each operation and each command of `Machine/Tailor.lean` can change.
-/

namespace Sys2Proof.Machine

set_option Elab.async false
set_option linter.unusedVariables false

set_option maxRecDepth 8000
set_option linter.unusedTactic false
set_option linter.unreachableTactic false

variable {L₀ : List Key} {s₀ : State}

theorem trimCode_has (i : Nat) : (Key.b 24).has (trimCode i) := by
  unfold trimCode
  repeat' first | exact ⟨rfl, rfl⟩ | exact (rfl : _ = _) | split

theorem trimSpareEn_has (i : Nat) : (Key.b 24).has (trimSpareEn i) := by
  unfold trimSpareEn
  repeat' first | exact ⟨rfl, rfl⟩ | exact (rfl : _ = _) | split

theorem trimSpare_has (i : Nat) : (Key.b 24).has (trimSpare i) := by
  unfold trimSpare
  repeat' first | exact ⟨rfl, rfl⟩ | exact (rfl : _ = _) | split

theorem trimSubst_has (i : Nat) : (Key.b 24).has (trimSubst i) := by
  unfold trimSubst
  repeat' first | exact ⟨rfl, rfl⟩ | exact (rfl : _ = _) | split

theorem State.halfErased_out {s : State} (h₀ : Out L₀ s₀ s)
    (hL : Key.sub [.a 65 15269888 268435456, .p .flash, .p .blks] L₀ = true) :
    Out L₀ s₀ (State.halfErased s) := by
  unfold State.halfErased
  repeat'
    first
      | with_reducible assumption | with_reducible apply Out.forAll | with_reducible apply State.eraseNow_out
      | exact Key.hasA rfl | exact Key.hasW | exact Out.sub hL rfl | intro _ | with_reducible apply Out.ite | split
      | dsimp only [id_eq] | (rename_i e; with_reducible refine Out.of_eq e ?_)

theorem State.tlrFail_out {s : State} (h₀ : Out L₀ s₀ s)
    (hL : Key.sub [.w 20 12, .w 20 64, .w 20 68, .a 65 15269888 268435456, .w 65 18677760, .p .edges, .p .inbox, .p .flash, .p .blks] L₀ = true) :
    Out L₀ s₀ (State.tlrFail s) := by
  unfold State.tlrFail
  repeat'
    first
      | with_reducible assumption | with_reducible apply State.flashFailed_out | with_reducible apply Out.put
      | with_reducible apply State.halfErased_out | exact Key.hasA rfl | exact Key.hasW | exact Out.sub hL rfl
      | intro _ | with_reducible apply Out.ite | split | dsimp only [id_eq]
      | (rename_i e; with_reducible refine Out.of_eq e ?_)

theorem State.tlrSave_out {s : State} (h₀ : Out L₀ s₀ s)
    (hL : Key.sub [.a 65 15269888 268435456, .w 65 18612224, .w 65 18677760, .p .flash, .p .blks, .p .tsave, .p .tregs] L₀ = true) :
    Out L₀ s₀ (State.tlrSave s) := by
  unfold State.tlrSave
  repeat'
    first
      | with_reducible assumption | with_reducible apply State.halfErased_out | with_reducible apply Out.puts_nil
      | with_reducible apply Out.puts_cons | with_reducible apply Out.put | exact Key.hasA rfl | exact Key.hasW
      | exact Out.sub hL rfl | intro _ | with_reducible apply Out.ite | split | dsimp only [id_eq]
      | (rename_i e; with_reducible refine Out.of_eq e ?_) | with_reducible apply Out.setTsaveTregs

theorem State.tlrLoad_out {s : State} (h₀ : Out L₀ s₀ s) (hL : Key.sub [.all, .p .inbox, .p .tstore] L₀ = true) : Out L₀ s₀ (State.tlrLoad s) := by
  have h : Out L₀ s₀ (({ s with tstore := s.tsave } : State).puts s.tregs) :=
    Out.puts_all _ (Out.setTstore _ h₀ (Out.sub hL rfl)) (Out.sub hL rfl)
  unfold State.tlrLoad
  dsimp only
  split
  · exact Out.post _ _ _ _ _ (Out.put _ _ h (n := .all) trivial (Out.sub hL rfl)) (Out.sub hL rfl)
  · exact h

theorem State.putTable_out {s : State} (blk : Nat) (sel : Nat) (off : Nat) (bs : List Byte) (h₀ : Out L₀ s₀ s)
    (hL : Key.sub [.p .win, .p .tstore] L₀ = true) :
    Out L₀ s₀ (State.putTable s blk sel off bs) := by
  unfold State.putTable
  repeat'
    first
      | with_reducible assumption | exact Key.hasA rfl | exact Key.hasW | exact Out.sub hL rfl | intro _
      | with_reducible apply Out.ite | split | dsimp only [id_eq]
      | (rename_i e; with_reducible refine Out.of_eq e ?_) | with_reducible apply Out.setWinTstore

theorem State.putEntry_out {s : State} (blk : Nat) (sel : Nat) (off : Nat) (n : Nat) (fs : List (Nat × List Byte)) (h₀ : Out L₀ s₀ s)
    (hL : Key.sub [.p .win, .p .tstore] L₀ = true) :
    Out L₀ s₀ (State.putEntry s blk sel off n fs) := by
  unfold State.putEntry
  repeat'
    first
      | with_reducible assumption | with_reducible apply State.putTable_out | with_reducible apply Out.foldl
      | with_reducible apply Out.foldlFst | exact Key.hasA rfl | exact Key.hasW | exact Out.sub hL rfl | intro _
      | with_reducible apply Out.ite | split | dsimp only [id_eq]
      | (rename_i e; with_reducible refine Out.of_eq e ?_)

theorem State.degrade_out {s : State} (blk : Nat) (h₀ : Out L₀ s₀ s)
    (hL : Key.sub [.w 24 8] L₀ = true) :
    Out L₀ s₀ (State.degrade s blk) := by
  unfold State.degrade
  repeat'
    first
      | with_reducible assumption | with_reducible apply Out.put | exact Key.hasA rfl | exact Key.hasW
      | exact Out.sub hL rfl | intro _ | with_reducible apply Out.ite | split | dsimp only [id_eq]
      | (rename_i e; with_reducible refine Out.of_eq e ?_)

theorem State.substitute_out {s : State} (off : Nat) (code : Nat) (elem : Nat) (spareCode : Nat) (h₀ : Out L₀ s₀ s)
    (hL : Key.sub [.b 24, .p .edges, .p .inbox] L₀ = true) :
    Out L₀ s₀ (State.substitute s off code elem spareCode) := by
  unfold State.substitute
  repeat'
    first
      | with_reducible assumption | with_reducible apply Out.post | with_reducible apply Out.evt
      | with_reducible apply Out.count | with_reducible apply State.degrade_out | with_reducible apply Out.put
      | with_reducible apply Out.puts_nil | with_reducible apply Out.puts_cons | exact trimCode_has _
      | exact trimSpare_has _ | exact trimSpareEn_has _ | exact trimSubst_has _ | exact Key.hasA rfl | exact Key.hasW
      | exact Out.sub hL rfl | intro _ | with_reducible apply Out.ite | split | dsimp only [id_eq]
      | (rename_i e; with_reducible refine Out.of_eq e ?_)

theorem State.retrim_out {s : State} (x : Nat × Nat × Nat × Nat × Bool) (h₀ : Out L₀ s₀ s)
    (hL : Key.sub [.b 24, .p .edges, .p .inbox] L₀ = true) :
    Out L₀ s₀ (State.retrim s x) := by
  unfold State.retrim
  repeat'
    first
      | with_reducible assumption | with_reducible apply State.substitute_out | with_reducible apply Out.put
      | with_reducible apply Out.when | with_reducible apply Out.post | with_reducible apply Out.evt
      | exact trimCode_has _ | exact Key.hasA rfl | exact Key.hasW | exact Out.sub hL rfl | intro _
      | with_reducible apply Out.ite | split | dsimp only [id_eq]
      | (rename_i e; with_reducible refine Out.of_eq e ?_)

theorem State.judgeRefs_out {s : State} (r : AgeResult) (h₀ : Out L₀ s₀ s)
    (hL : Key.sub [.w 24 8, .p .inbox] L₀ = true) :
    Out L₀ s₀ (State.judgeRefs s r) := by
  unfold State.judgeRefs
  repeat'
    first
      | with_reducible assumption | with_reducible apply Out.put | with_reducible apply Out.when
      | with_reducible apply Out.post | exact Key.hasA rfl | exact Key.hasW | exact Out.sub hL rfl | intro _
      | with_reducible apply Out.ite | split | dsimp only [id_eq]
      | (rename_i e; with_reducible refine Out.of_eq e ?_)

theorem State.restartFit_out {s : State} (h : Nat) (z : Nat) (h₀ : Out L₀ s₀ s)
    (hL : Key.sub [.p .fitFrom] L₀ = true) :
    Out L₀ s₀ (State.restartFit s h z) := by
  unfold State.restartFit
  repeat'
    first
      | with_reducible assumption | exact Key.hasA rfl | exact Key.hasW | exact Out.sub hL rfl | intro _
      | with_reducible apply Out.ite | split | dsimp only [id_eq]
      | (rename_i e; with_reducible refine Out.of_eq e ?_) | with_reducible apply Out.setFitFrom

theorem State.tookStep_out {s : State} (h : Nat) (z : Nat) (step : Nat) (hrs : Nat) (new : Nat) (h₀ : Out L₀ s₀ s)
    (hL : Key.sub [.w 24 12, .w 24 72, .a 65 15269888 268435456, .w 65 18612224, .w 65 18677760, .p .edges, .p .inbox, .p .flash,
    .p .blks, .p .tsave, .p .tregs, .p .verifs] L₀ = true) :
    Out L₀ s₀ (State.tookStep s h z step hrs new) := by
  unfold State.tookStep
  repeat'
    first
      | with_reducible assumption | with_reducible apply Out.post | with_reducible apply Out.evt
      | with_reducible apply Out.count | with_reducible apply State.tlrSave_out | exact Key.hasA rfl | exact Key.hasW
      | exact Out.sub hL rfl | intro _ | with_reducible apply Out.ite | split | dsimp only [id_eq]
      | (rename_i e; with_reducible refine Out.of_eq e ?_) | with_reducible apply Out.setVerifs

theorem State.replan_out {s : State} (h : Nat) (z : Nat) (h₀ : Out L₀ s₀ s)
    (hL : Key.sub [.w 2 8, .w 2 20, .w 2 24, .a 2 32 4, .w 2 5439488, .w 2 5505024, .w 6 8, .w 6 12, .w 7 12, .w 7 24, .w 7 28,
    .w 7 17956864, .w 9 8, .w 10 20, .w 10 24, .w 11 8, .w 11 12, .a 11 32 4, .a 11 48 4, .w 11 72, .w 18 48,
    .w 20 8, .w 20 12, .a 20 32 4, .w 24 8, .w 24 12, .w 24 72, .a 65 15269888 268435456, .a 65 15335424 268435456,
    .a 65 15400960 268435456, .w 65 18612224, .w 65 18677760, .a 65 22347776 268435456, .p .win, .p .free,
    .p .edges, .p .inbox, .p .mcache, .p .jq, .p .jobNo, .p .cmds, .p .cqs, .p .ctrls, .p .nss, .p .zones,
    .p .bands, .p .vol, .p .points, .p .mops, .p .opid, .p .journal, .p .jseq, .p .demands, .p .tstore, .p .flash,
    .p .blks, .p .fops, .p .fwait, .p .errlog, .p .pkt, .p .hbm, .p .poison, .p .lost, .p .kvLog, .p .stripes,
    .p .tsave, .p .tregs, .p .verifs, .p .fitFrom, .p .asked, .p .altered, .p .weakSlots] L₀ = true) :
    Out L₀ s₀ (State.replan s h z) := by
  unfold State.replan
  repeat'
    first
      | with_reducible assumption | with_reducible apply State.tookStep_out
      | with_reducible apply State.restartFit_out | with_reducible apply State.putEntry_out
      | with_reducible apply State.demand_out | with_reducible apply Out.post | with_reducible apply Out.put
      | with_reducible apply State.writeDisable_out | exact Key.hasA rfl | exact Key.hasW | exact Out.sub hL rfl
      | intro _ | with_reducible apply Out.ite | split | dsimp only [id_eq]
      | (rename_i e; with_reducible refine Out.of_eq e ?_) | with_reducible apply Out.setAsked
      | with_reducible apply Out.setDemands | with_reducible apply Out.setDemandsAsked

theorem State.showMeas_out {s : State} (h₀ : Out L₀ s₀ s)
    (hL : Key.sub [.w 24 8] L₀ = true) :
    Out L₀ s₀ (State.showMeas s) := by
  unfold State.showMeas
  repeat'
    first
      | with_reducible assumption | with_reducible apply Out.putB | exact Key.hasA rfl | exact Key.hasW
      | exact Out.sub hL rfl | intro _ | with_reducible apply Out.ite | split | dsimp only [id_eq]
      | (rename_i e; with_reducible refine Out.of_eq e ?_)

theorem State.due_out {s : State} (h : Nat) (cause : Nat) (h₀ : Out L₀ s₀ s)
    (hL : Key.sub [.w 24 8, .p .dues] L₀ = true) :
    Out L₀ s₀ (State.due s h cause) := by
  unfold State.due
  repeat'
    first
      | with_reducible assumption | with_reducible apply State.showMeas_out | exact Key.hasA rfl | exact Key.hasW
      | exact Out.sub hL rfl | intro _ | with_reducible apply Out.ite | split | dsimp only [id_eq]
      | (rename_i e; with_reducible refine Out.of_eq e ?_) | with_reducible apply Out.setDues

theorem ageingDue_out (h : Fin 256) (byTb : Bool) {s : State} (h₀ : Out L₀ s₀ s)
    (hL : Key.sub [.w 24 8, .p .dues] L₀ = true) :
    Out L₀ s₀ (ageingDue h byTb s) := by
  unfold ageingDue
  repeat'
    first
      | with_reducible assumption | with_reducible apply State.due_out | exact Key.hasA rfl | exact Key.hasW
      | exact Out.sub hL rfl | intro _ | with_reducible apply Out.ite | split | dsimp only [id_eq]
      | (rename_i e; with_reducible refine Out.of_eq e ?_)

theorem verifyDue_out (h : GHead) (z : RZone) {s : State} (h₀ : Out L₀ s₀ s)
    (hL : Key.sub [.w 24 8, .p .dues, .p .verifs] L₀ = true) :
    Out L₀ s₀ (verifyDue h z s) := by
  unfold verifyDue
  repeat'
    first
      | with_reducible assumption | with_reducible apply State.due_out | exact Key.hasA rfl | exact Key.hasW
      | exact Out.sub hL rfl | intro _ | with_reducible apply Out.ite | split | dsimp only [id_eq]
      | (rename_i e; with_reducible refine Out.of_eq e ?_) | with_reducible apply Out.setVerifs

theorem ageingOverdue_out (h : Fin 256) {s : State} (h₀ : Out L₀ s₀ s)
    (hL : Key.sub [.w 24 12, .w 24 64, .p .edges, .p .inbox] L₀ = true) :
    Out L₀ s₀ (ageingOverdue h s) := by
  unfold ageingOverdue
  repeat'
    first
      | with_reducible assumption | with_reducible apply Out.count | exact Key.hasA rfl | exact Key.hasW
      | exact Out.sub hL rfl | intro _ | with_reducible apply Out.ite | split | dsimp only [id_eq]
      | (rename_i e; with_reducible refine Out.of_eq e ?_)

theorem State.limit_out {s : State} (bad : Bool) (item : Nat) (inst : Nat) (v : Nat) (h₀ : Out L₀ s₀ s)
    (hL : Key.sub [.p .inbox] L₀ = true) :
    Out L₀ s₀ (State.limit s bad item inst v) := by
  unfold State.limit
  repeat'
    first
      | with_reducible assumption | with_reducible apply Out.when | with_reducible apply Out.post
      | exact Key.hasA rfl | exact Key.hasW | exact Out.sub hL rfl | intro _ | with_reducible apply Out.ite | split
      | dsimp only [id_eq] | (rename_i e; with_reducible refine Out.of_eq e ?_)

theorem State.applyHead_out {s : State} (h : Nat) (it : List (Option Nat)) (h₀ : Out L₀ s₀ s)
    (hL : Key.sub [.w 14 8, .w 14 12, .a 14 256 8, .w 14 22675456, .w 14 22740992, .p .win, .p .edges, .p .inbox, .p .tstore] L₀ = true) :
    Out L₀ s₀ (State.applyHead s h it) := by
  unfold State.applyHead
  repeat'
    first
      | with_reducible assumption | with_reducible apply State.putEntry_out | with_reducible apply Out.forAll
      | with_reducible apply Out.put | with_reducible apply Out.when | with_reducible apply State.maJudge_out
      | exact Key.hasA rfl | exact Key.hasW | exact Out.sub hL rfl | intro _ | with_reducible apply Out.ite | split
      | dsimp only [id_eq] | (rename_i e; with_reducible refine Out.of_eq e ?_)

theorem State.applyDevice_out {s : State} (r : AgeResult) (h₀ : Out L₀ s₀ s)
    (hL : Key.sub [.b 24, .p .win, .p .edges, .p .inbox, .p .tstore] L₀ = true) :
    Out L₀ s₀ (State.applyDevice s r) := by
  unfold State.applyDevice
  repeat'
    first
      | with_reducible assumption | with_reducible apply State.limit_out | with_reducible apply Out.forAll
      | with_reducible apply State.putTable_out | with_reducible apply State.judgeRefs_out
      | with_reducible apply State.retrim_out | with_reducible apply Out.foldl | with_reducible apply Out.foldlFst
      | exact Key.hasA rfl | exact Key.hasW | exact Out.sub hL rfl | intro _ | with_reducible apply Out.ite | split
      | dsimp only [id_eq] | (rename_i e; with_reducible refine Out.of_eq e ?_)

theorem State.addAge_out {s : State} (r : AgeRec) (h₀ : Out L₀ s₀ s)
    (hL : Key.sub [.a 65 15269888 268435456, .p .flash, .p .blks, .p .ages] L₀ = true) :
    Out L₀ s₀ (State.addAge s r) := by
  unfold State.addAge
  repeat'
    first
      | with_reducible assumption | with_reducible apply State.eraseNow_out | with_reducible apply State.progNow_out
      | exact Key.hasA rfl | exact Key.hasW | exact Out.sub hL rfl | intro _ | with_reducible apply Out.ite | split
      | dsimp only [id_eq] | (rename_i e; with_reducible refine Out.of_eq e ?_) | with_reducible apply Out.setAges

/-- What `ageingDone` may change. -/
def ageingDoneOut : List Key :=
  [.w 2 8, .w 2 20, .w 2 24, .a 2 32 4, .w 2 5439488, .w 2 5505024, .w 6 8, .w 6 12,
    .w 7 12, .w 7 24, .w 7 28, .w 7 17956864, .w 9 8, .w 10 20, .w 10 24, .w 11 8, .w 11 12, .a 11 32 4, .a 11 48 4,
    .w 11 72, .w 14 8, .w 14 12, .a 14 256 8, .w 14 22675456, .w 14 22740992, .w 18 48, .w 20 8, .w 20 12,
    .a 20 32 4, .b 24, .a 65 15269888 268435456, .a 65 15335424 268435456, .a 65 15400960 268435456, .w 65 18546688,
    .w 65 18612224, .w 65 18677760, .a 65 22347776 268435456, .p .win, .p .free, .p .edges, .p .inbox, .p .mcache,
    .p .jq, .p .jobNo, .p .cmds, .p .cqs, .p .ctrls, .p .nss, .p .zones, .p .bands, .p .vol, .p .points, .p .mops,
    .p .opid, .p .journal, .p .jseq, .p .demands, .p .tstore, .p .flash, .p .blks, .p .fops, .p .fwait, .p .errlog,
    .p .pkt, .p .hbm, .p .poison, .p .lost, .p .kvLog, .p .stripes, .p .tsave, .p .tregs, .p .ages, .p .dues,
    .p .verifs, .p .fitFrom, .p .slopes, .p .asked, .p .altered, .p .weakSlots]

theorem ageingDone_out (h : Fin 256) (r : AgeResult) {s : State} (h₀ : Out L₀ s₀ s)
    (hL : Key.sub ageingDoneOut L₀ = true) :
    Out L₀ s₀ (ageingDone h r s) := by
  unfold ageingDone
  repeat'
    first
      | with_reducible assumption | with_reducible apply State.applyDevice_out
      | with_reducible apply State.applyHead_out | with_reducible apply State.limit_out
      | with_reducible apply Out.forAll | with_reducible apply Out.post | with_reducible apply Out.bump
      | with_reducible apply State.addAge_out | with_reducible apply State.showMeas_out
      | with_reducible apply State.tlrSave_out | with_reducible apply State.replan_out
      | with_reducible apply Out.foldl | with_reducible apply Out.foldlFst | exact Key.hasA rfl | exact Key.hasW
      | exact Out.sub hL rfl | intro _ | with_reducible apply Out.ite | split | dsimp only [id_eq]
      | (rename_i e; with_reducible refine Out.of_eq e ?_) | with_reducible apply Out.setDues
      | with_reducible apply Out.setFitFromAsked | with_reducible apply Out.setSlopes

theorem State.traceGo_out {s : State} (steady : Bool) (h₀ : Out L₀ s₀ s)
    (hL : Key.sub [.w 24 8] L₀ = true) :
    Out L₀ s₀ (State.traceGo s steady).1 := by
  unfold State.traceGo
  repeat'
    first
      | with_reducible assumption | with_reducible apply Out.put | exact Key.hasA rfl | exact Key.hasW
      | exact Out.sub hL rfl | intro _ | with_reducible apply Out.ite | split | dsimp only [id_eq]
      | (rename_i e; with_reducible refine Out.of_eq e ?_)

theorem traceCmd_out (steady : Bool) {s : State} (h₀ : Out L₀ s₀ s)
    (hL : Key.sub [.w 24 8] L₀ = true) :
    Out L₀ s₀ (traceCmd steady s) := by
  unfold traceCmd
  repeat'
    first
      | with_reducible assumption | with_reducible apply State.traceGo_out | exact Key.hasA rfl | exact Key.hasW
      | exact Out.sub hL rfl | intro _ | with_reducible apply Out.ite | split | dsimp only [id_eq]
      | (rename_i e; with_reducible refine Out.of_eq e ?_)

/-- What `traceDone` may change. -/
def traceDoneOut : List Key :=
  [.b 24, .a 65 15269888 268435456, .w 65 18612224, .w 65 18677760, .p .edges,
    .p .inbox, .p .flash, .p .blks, .p .tsave, .p .tregs, .p .certs]

theorem traceDone_out (r : TraceResult) {s : State} (h₀ : Out L₀ s₀ s)
    (hL : Key.sub traceDoneOut L₀ = true) :
    Out L₀ s₀ (traceDone r s) := by
  unfold traceDone
  repeat'
    first
      | with_reducible assumption | with_reducible apply Out.put | with_reducible apply Out.post
      | with_reducible apply Out.evt | with_reducible apply Out.forAll | with_reducible apply State.tlrSave_out
      | exact trimCode_has _ | exact Key.hasA rfl | exact Key.hasW | exact Out.sub hL rfl | intro _
      | with_reducible apply Out.ite | split | dsimp only [id_eq]
      | (rename_i e; with_reducible refine Out.of_eq e ?_) | with_reducible apply Out.setCerts

theorem execAgeingDue_out (h : Fin 256) (byTb : Bool) {s t : State} (h : execAgeingDue h byTb s = .next t) :
    Out [.w 24 8, .p .dues] s t := by
  have h := Host.Outcome.next.inj h; subst h; exact ageingDue_out _ _ (Out.refl s) rfl

theorem execAgeingMeasureDone_out (h : Fin 256) (r : AgeResult) {s t : State} (h : execAgeingMeasureDone h r s = .next t) :
    Out ageingDoneOut s t := by
  have h := Host.Outcome.next.inj h; subst h; exact ageingDone_out _ _ (Out.refl s) rfl

theorem execVerifyDue_out (h : GHead) (z : RZone) {s t : State} (h : execVerifyDue h z s = .next t) :
    Out [.w 24 8, .p .dues, .p .verifs] s t := by
  have h := Host.Outcome.next.inj h; subst h; exact verifyDue_out _ _ (Out.refl s) rfl

theorem execAgeingOverdue_out (h : Fin 256) {s t : State} (h : execAgeingOverdue h s = .next t) :
    Out [.w 24 12, .w 24 64, .p .edges, .p .inbox] s t := by
  have h := Host.Outcome.next.inj h; subst h; exact ageingOverdue_out _ (Out.refl s) rfl

theorem execTrace_out (steady : Bool) {s t : State} (h : execTrace steady s = .next t) :
    Out [.w 24 8] s t := by
  have h := Host.Outcome.next.inj h; subst h; exact traceCmd_out _ (Out.refl s) rfl

theorem execTraceDone_out (r : TraceResult) {s t : State} (h : execTraceDone r s = .next t) :
    Out traceDoneOut s t := by
  have h := Host.Outcome.next.inj h; subst h; exact traceDone_out _ (Out.refl s) rfl

end Sys2Proof.Machine
end

