-- ==== Sys2Proof/Laws/OutReset.lean ====
section
/-!
SUPPORT. What each operation and each command of `Machine/Reset.lean` can change.
-/

namespace Sys2Proof.Machine

set_option Elab.async false
set_option linter.unusedVariables false

set_option maxRecDepth 8000
set_option linter.unusedTactic false
set_option linter.unreachableTactic false

variable {L₀ : List Key} {s₀ : State}

theorem State.spinGo_out {s : State} (h₀ : Out L₀ s₀ s)
    (hL : Key.sub [.w 5 8, .a 5 128 4, .w 16 8, .w 16 8519680, .w 16 8585216, .w 16 8912896, .w 16 8978432, .w 16 9240576,
    .w 16 9306112, .w 16 9502720, .w 16 9568256, .w 16 10551296, .w 16 10944512, .w 16 11141120, .w 16 22937600,
    .w 16 23068672, .w 16 23789568, .w 16 23855104, .w 16 24051712, .w 16 24444928, .w 17 13762560, .w 17 24510464,
    .w 66 18874368, .p .win] L₀ = true) :
    Out L₀ s₀ (State.spinGo s) := by
  unfold State.spinGo
  repeat'
    first
      | with_reducible assumption | with_reducible apply State.setVinBudget_out | with_reducible apply Out.put
      | with_reducible apply State.tryStart_out | with_reducible apply State.stepEnd_out
      | with_reducible apply Out.when | exact Key.hasA rfl | exact Key.hasW | exact Out.sub hL rfl | intro _
      | with_reducible apply Out.ite | split | dsimp only [id_eq]
      | (rename_i e; with_reducible refine Out.of_eq e ?_)

/-- What `State.spinCheck` may change. -/
def spinCheckOut : List Key :=
  [.w 5 8, .a 5 128 4, .w 16 8, .w 16 8519680, .w 16 8585216, .w 16 8912896,
    .w 16 8978432, .w 16 9240576, .w 16 9306112, .w 16 9502720, .w 16 9568256, .w 16 10551296, .w 16 10944512,
    .w 16 11141120, .w 16 22937600, .w 16 23068672, .w 16 23789568, .w 16 23855104, .w 16 24051712, .w 16 24444928,
    .w 17 13762560, .w 17 24510464, .w 66 18874368, .w 66 18939904, .w 66 19005440, .p .win]

theorem State.spinCheck_out {s : State} (h₀ : Out L₀ s₀ s)
    (hL : Key.sub spinCheckOut L₀ = true) :
    Out L₀ s₀ (State.spinCheck s) := by
  unfold State.spinCheck
  repeat'
    first
      | with_reducible assumption | with_reducible apply State.spinGo_out | with_reducible apply Out.puts_nil
      | with_reducible apply Out.puts_cons | with_reducible apply Out.put | exact Key.hasA rfl | exact Key.hasW
      | exact Out.sub hL rfl | intro _ | with_reducible apply Out.ite | split | dsimp only [id_eq]
      | (rename_i e; with_reducible refine Out.of_eq e ?_)

theorem spinPermission_out {s : State} (h₀ : Out L₀ s₀ s)
    (hL : Key.sub spinCheckOut L₀ = true) :
    Out L₀ s₀ (spinPermission s) := by
  unfold spinPermission
  repeat'
    first
      | with_reducible assumption | with_reducible apply State.spinCheck_out | exact Key.hasA rfl | exact Key.hasW
      | exact Out.sub hL rfl | intro _ | with_reducible apply Out.ite | split | dsimp only [id_eq]
      | (rename_i e; with_reducible refine Out.of_eq e ?_)

/-- What `spinHoldChange` may change. -/
def spinHoldChangeOut : List Key :=
  [.w 5 8, .a 5 128 4, .w 16 8, .w 16 8519680, .w 16 8585216, .w 16 8912896,
    .w 16 8978432, .w 16 9240576, .w 16 9306112, .w 16 9502720, .w 16 9568256, .w 16 10551296, .w 16 10944512,
    .w 16 11141120, .w 16 22937600, .w 16 23068672, .w 16 23789568, .w 16 23855104, .w 16 24051712, .w 16 24444928,
    .w 17 13762560, .w 17 24510464, .w 64 18808832, .w 66 18874368, .w 66 18939904, .w 66 19005440, .p .win]

theorem spinHoldChange_out (level : Bool) {s : State} (h₀ : Out L₀ s₀ s)
    (hL : Key.sub spinHoldChangeOut L₀ = true) :
    Out L₀ s₀ (spinHoldChange level s) := by
  unfold spinHoldChange
  repeat'
    first
      | with_reducible assumption | with_reducible apply State.spinCheck_out | with_reducible apply Out.putB
      | exact Key.hasA rfl | exact Key.hasW | exact Out.sub hL rfl | intro _ | with_reducible apply Out.ite | split
      | dsimp only [id_eq] | (rename_i e; with_reducible refine Out.of_eq e ?_)

theorem spinBackoffEnd_out {s : State} (h₀ : Out L₀ s₀ s)
    (hL : Key.sub spinCheckOut L₀ = true) :
    Out L₀ s₀ (spinBackoffEnd s) := by
  unfold spinBackoffEnd
  repeat'
    first
      | with_reducible assumption | with_reducible apply State.spinCheck_out | with_reducible apply Out.put
      | exact Key.hasA rfl | exact Key.hasW | exact Out.sub hL rfl | intro _ | with_reducible apply Out.ite | split
      | dsimp only [id_eq] | (rename_i e; with_reducible refine Out.of_eq e ?_)

theorem spinDelayEnd_out {s : State} (h₀ : Out L₀ s₀ s)
    (hL : Key.sub spinCheckOut L₀ = true) :
    Out L₀ s₀ (spinDelayEnd s) := by
  unfold spinDelayEnd
  repeat'
    first
      | with_reducible assumption | with_reducible apply State.spinCheck_out | with_reducible apply Out.put
      | exact Key.hasA rfl | exact Key.hasW | exact Out.sub hL rfl | intro _ | with_reducible apply Out.ite | split
      | dsimp only [id_eq] | (rename_i e; with_reducible refine Out.of_eq e ?_)

/-- What `sagWaitEnd` may change. -/
def sagWaitEndOut : List Key :=
  [.a 2 32 4, .w 5 8, .a 5 128 4, .w 12 8, .w 13 8, .w 13 12, .w 13 76,
    .w 13 1572864, .w 13 2359296, .w 13 2424832, .w 13 20250624, .w 14 8, .w 14 12, .w 14 24, .w 14 84,
    .w 14 3211264, .w 14 3342336, .w 14 3407872, .w 14 3473408, .w 14 3538944, .w 14 4128768, .w 14 4194304,
    .w 14 4259840, .w 14 4325376, .w 14 4784128, .w 14 21692416, .w 14 21757952, .w 14 22675456, .w 14 22806528,
    .w 16 0, .w 16 8, .w 16 12, .w 16 6094848, .w 16 8519680, .w 16 8585216, .w 16 8912896, .w 16 8978432,
    .w 16 9240576, .w 16 9306112, .w 16 9502720, .w 16 9568256, .w 16 9895936, .w 16 9961472, .w 16 10223616,
    .w 16 10551296, .w 16 10944512, .w 16 11141120, .w 16 22937600, .w 16 23068672, .w 16 23789568, .w 16 23855104,
    .w 16 24051712, .w 16 24444928, .w 17 13762560, .w 17 24510464, .w 18 8, .w 18 12, .w 18 72, .w 18 786432,
    .w 18 20578304, .w 19 12, .w 19 16, .w 19 1114112, .w 19 1179648, .a 19 1310720 268435456,
    .a 19 1376256 268435456, .a 19 22413312 268435456, .a 19 22478848 268435456, .w 66 18874368, .w 66 18939904,
    .w 66 19005440, .w 66 19136512, .p .win, .p .edges, .p .inbox, .p .chn, .p .seqs, .p .pa, .p .jq, .p .jact]

theorem sagWaitEnd_out {s : State} (h₀ : Out L₀ s₀ s)
    (hL : Key.sub sagWaitEndOut L₀ = true) :
    Out L₀ s₀ (sagWaitEnd s) := by
  unfold sagWaitEnd
  repeat'
    first
      | with_reducible assumption | with_reducible apply State.spinCheck_out | with_reducible apply State.evalSp_out
      | with_reducible apply Out.puts_nil | with_reducible apply Out.puts_cons | with_reducible apply Out.put
      | exact Key.hasA rfl | exact Key.hasW | exact Out.sub hL rfl | intro _ | with_reducible apply Out.ite | split
      | dsimp only [id_eq] | (rename_i e; with_reducible refine Out.of_eq e ?_)

theorem State.clearRegs_out {s : State} (h₀ : Out L₀ s₀ s) (hL : Key.sub [.all, .p .win] L₀ = true) : Out L₀ s₀ (State.clearRegs s) :=
  Out.setFlds _ (Out.setWin _ h₀ (Out.sub hL rfl)) (Out.sub hL rfl)

theorem State.clearRam_out {s : State} (h₀ : Out L₀ s₀ s)
    (hL : Key.sub [.p .edges, .p .chn, .p .seqs, .p .bstore, .p .wd, .p .jq, .p .jact, .p .cmds, .p .ctrls, .p .visit, .p .nss,
    .p .tstore, .p .rung6, .p .amps, .p .sams, .p .loops, .p .tstk, .p .tshd, .p .tshr, .p .tscrub, .p .cstore,
    .p .tmchk, .p .cog, .p .spn, .p .fwPend, .p .fwErased, .p .errlog, .p .rsets, .p .reqs, .p .nonces, .p .held,
    .p .pkt, .p .hbm, .p .poison, .p .kvLog, .p .kvDur, .p .progs, .p .progRuns, .p .cands, .p .authFail,
    .p .stripes, .p .addrs, .p .partner, .p .fwImg, .p .works, .p .shadow] L₀ = true) :
    Out L₀ s₀ (State.clearRam s) := by
  unfold State.clearRam
  repeat'
    first
      | with_reducible assumption | exact Key.hasA rfl | exact Key.hasW | exact Out.sub hL rfl | intro _
      | with_reducible apply Out.ite | split | dsimp only [id_eq]
      | (rename_i e; with_reducible refine Out.of_eq e ?_)
      | with_reducible apply Out.setEdgesChnSeqsBstoreWdJqJactCmdsCtrlsVisitNssTstoreRung6AmpsSamsLoopsTstkTshdTshrTscrubCstoreTmchkCogSpnFwPendFwErasedErrlogRsetsReqsNoncesHeldPktHbmPoisonKvLogKvDurProgsProgRunsCandsAuthFailStripesAddrsPartnerFwImgWorksShadow

theorem State.resetPs_out {s : State} (src : Nat) (h₀ : Out L₀ s₀ s)
    (hL : Key.sub [.w 11 12, .w 11 84, .w 22 8, .w 22 12, .w 64 6881280, .w 64 16711680, .w 64 16973824, .p .edges, .p .inbox,
    .p .mops] L₀ = true) :
    Out L₀ s₀ (State.resetPs s src) := by
  unfold State.resetPs
  repeat'
    first
      | with_reducible assumption | with_reducible apply Out.puts_nil | with_reducible apply Out.puts_cons
      | with_reducible apply Out.put | with_reducible apply State.setPs_out | exact Key.hasA rfl | exact Key.hasW
      | exact Out.sub hL rfl | intro _ | with_reducible apply Out.ite | split | dsimp only [id_eq]
      | (rename_i e; with_reducible refine Out.of_eq e ?_)

theorem State.dieLost_out {s : State} (h₀ : Out L₀ s₀ s)
    (hL : Key.sub [.all, .p .win, .p .free, .p .edges, .p .chn, .p .seqs, .p .bstore, .p .wd, .p .mcache, .p .jq, .p .jact, .p .cmds,
    .p .ctrls, .p .visit, .p .nss, .p .zones, .p .bands, .p .vol, .p .points, .p .test, .p .testLog, .p .tstore,
    .p .rung6, .p .amps, .p .sams, .p .loops, .p .tstk, .p .tshd, .p .tshr, .p .tscrub, .p .cstore, .p .tmchk,
    .p .cog, .p .spn, .p .flash, .p .fops, .p .fwait, .p .fread, .p .fwPend, .p .fwErased, .p .ring, .p .ringBad,
    .p .errlog, .p .rsets, .p .reqs, .p .nonces, .p .held, .p .pkt, .p .hbm, .p .poison, .p .kvLog, .p .kvDur,
    .p .progs, .p .progRuns, .p .cands, .p .authFail, .p .stripes, .p .addrs, .p .partner, .p .fwImg, .p .works,
    .p .shadow] L₀ = true) :
    Out L₀ s₀ (State.dieLost s) := by
  unfold State.dieLost
  repeat'
    first
      | with_reducible assumption | with_reducible apply Out.when | with_reducible apply Out.put
      | with_reducible apply State.clearRam_out | with_reducible apply State.clearRegs_out
      | with_reducible apply State.loseVolatile_out | with_reducible apply State.flashCut_out
      | with_reducible apply State.endTest_out | exact Key.hasA rfl | exact Key.hasW | exact Out.sub hL rfl | intro _
      | with_reducible apply Out.ite | split | dsimp only [id_eq]
      | (rename_i e; with_reducible refine Out.of_eq e ?_)

/-- What `State.dieReset` may change. -/
def dieResetOut : List Key :=
  [.all, .p .win, .p .free, .p .edges, .p .inbox, .p .chn, .p .seqs, .p .bstore,
    .p .wd, .p .mcache, .p .pa, .p .jq, .p .jact, .p .cmds, .p .ctrls, .p .visit, .p .nss, .p .zones, .p .bands,
    .p .vol, .p .points, .p .mops, .p .test, .p .testLog, .p .tstore, .p .rung6, .p .amps, .p .sams, .p .loops,
    .p .tstk, .p .tshd, .p .tshr, .p .tscrub, .p .cstore, .p .tmchk, .p .cog, .p .spn, .p .flash, .p .fops,
    .p .fwait, .p .fread, .p .fwPend, .p .fwErased, .p .ring, .p .ringBad, .p .errlog, .p .rsets, .p .reqs,
    .p .nonces, .p .held, .p .pkt, .p .hbm, .p .poison, .p .kvLog, .p .kvDur, .p .progs, .p .progRuns, .p .cands,
    .p .authFail, .p .stripes, .p .addrs, .p .partner, .p .fwImg, .p .works, .p .shadow]

theorem State.dieReset_out {s : State} (src : Nat) (step : Nat) (h₀ : Out L₀ s₀ s)
    (hL : Key.sub dieResetOut L₀ = true) :
    Out L₀ s₀ (State.dieReset s src step) := by
  unfold State.dieReset
  repeat'
    first
      | with_reducible assumption | with_reducible apply Out.puts_nil | with_reducible apply Out.puts_cons
      | with_reducible apply Out.put | with_reducible apply State.dieLost_out
      | with_reducible apply State.showTherm_out | with_reducible apply State.budgetChanged_out
      | with_reducible apply State.resetPs_out | with_reducible apply Out.count | exact Key.hasA rfl | exact Key.hasW
      | exact Out.sub hL rfl | intro _ | with_reducible apply Out.ite | split | dsimp only [id_eq]
      | (rename_i e; with_reducible refine Out.of_eq e ?_)

theorem State.reErase_out {s : State} (h₀ : Out L₀ s₀ s)
    (hL : Key.sub [.w 20 12, .w 20 76, .a 65 15269888 268435456, .w 65 15597568, .w 65 15663104, .w 65 15990784, .w 65 16056320,
    .w 66 15073280, .w 66 25034752, .p .edges, .p .inbox, .p .flash, .p .blks, .p .ring, .p .ringBad] L₀ = true) :
    Out L₀ s₀ (State.reErase s) := by
  unfold State.reErase
  repeat'
    first
      | with_reducible assumption | with_reducible apply Out.puts_nil | with_reducible apply Out.puts_cons
      | with_reducible apply Out.put | with_reducible apply Out.forAll | with_reducible apply Out.count
      | with_reducible apply State.eraseNow_out | with_reducible apply State.ringErased_out | exact Key.hasA rfl
      | exact Key.hasW | exact Out.sub hL rfl | intro _ | with_reducible apply Out.ite | split | dsimp only [id_eq]
      | (rename_i e; with_reducible refine Out.of_eq e ?_)

theorem State.tellReErase_out {s : State} (h₀ : Out L₀ s₀ s)
    (hL : Key.sub [.w 66 15073280, .p .inbox] L₀ = true) :
    Out L₀ s₀ (State.tellReErase s) := by
  unfold State.tellReErase
  repeat'
    first
      | with_reducible assumption | with_reducible apply Out.when | with_reducible apply Out.put
      | with_reducible apply Out.post | exact Key.hasA rfl | exact Key.hasW | exact Out.sub hL rfl | intro _
      | with_reducible apply Out.ite | split | dsimp only [id_eq]
      | (rename_i e; with_reducible refine Out.of_eq e ?_)

theorem State.openBoxes_out {s : State} (h₀ : Out L₀ s₀ s)
    (hL : Key.sub [.a 3 256 4] L₀ = true) :
    Out L₀ s₀ (State.openBoxes s) := by
  unfold State.openBoxes
  repeat'
    first
      | with_reducible assumption | with_reducible apply Out.puts_nil | with_reducible apply Out.puts_cons
      | with_reducible apply Out.put | with_reducible apply Out.forAll | exact Key.hasA rfl | exact Key.hasW
      | exact Out.sub hL rfl | intro _ | with_reducible apply Out.ite | split | dsimp only [id_eq]
      | (rename_i e; with_reducible refine Out.of_eq e ?_)

theorem State.romOnly_out {s : State} (slot : Nat) (h₀ : Out L₀ s₀ s)
    (hL : Key.sub [.w 66 14548992, .w 66 14614528] L₀ = true) :
    Out L₀ s₀ (State.romOnly s slot) := by
  unfold State.romOnly
  repeat'
    first
      | with_reducible assumption | with_reducible apply Out.puts_nil | with_reducible apply Out.puts_cons
      | with_reducible apply Out.put | exact Key.hasA rfl | exact Key.hasW | exact Out.sub hL rfl | intro _
      | with_reducible apply Out.ite | split | dsimp only [id_eq]
      | (rename_i e; with_reducible refine Out.of_eq e ?_)

theorem State.loadImage_out {s : State} (slot : Nat) (h₀ : Out L₀ s₀ s)
    (hL : Key.sub [.w 9 8, .w 10 20, .w 10 24, .p .pkt, .p .hbm, .p .poison, .p .fwImg] L₀ = true) :
    Out L₀ s₀ (State.loadImage s slot) := by
  unfold State.loadImage
  repeat'
    first
      | with_reducible assumption | with_reducible apply State.fwPages_out | exact Key.hasA rfl | exact Key.hasW
      | exact Out.sub hL rfl | intro _ | with_reducible apply Out.ite | split | dsimp only [id_eq]
      | (rename_i e; with_reducible refine Out.of_eq e ?_) | with_reducible apply Out.setFwImg

theorem State.runFw_out {s : State} (slot : Nat) (h₀ : Out L₀ s₀ s)
    (hL : Key.sub [.all, .p .win, .p .edges, .p .inbox, .p .tstore, .p .blks, .p .fops, .p .fwait, .p .pkt, .p .hbm, .p .poison,
    .p .fwImg] L₀ = true) :
    Out L₀ s₀ (State.runFw s slot) := by
  unfold State.runFw
  repeat'
    first
      | with_reducible assumption | with_reducible apply State.stepEnd_out | with_reducible apply Out.puts_nil
      | with_reducible apply Out.puts_cons | with_reducible apply Out.put | with_reducible apply State.loadImage_out
      | with_reducible apply State.showPbl_out | with_reducible apply State.setRate_out
      | with_reducible apply State.tellReErase_out | with_reducible apply State.tlrLoad_out
      | with_reducible apply State.refreshSpn_out | with_reducible apply State.sntKick_out
      | with_reducible apply Out.when | with_reducible apply Out.post | with_reducible apply Out.evt
      | exact Key.hasA rfl | exact Key.hasW | exact Out.sub hL rfl | intro _ | with_reducible apply Out.ite | split
      | dsimp only [id_eq] | (rename_i e; with_reducible refine Out.of_eq e ?_)

/-- What `State.bootOther` may change. -/
def bootOtherOut : List Key :=
  [.all, .p .win, .p .free, .p .edges, .p .inbox, .p .tstore, .p .flash, .p .blks,
    .p .fops, .p .fwait, .p .pkt, .p .hbm, .p .poison, .p .fwImg]

theorem State.bootOther_out {s : State} (slot : Nat) (cause : Nat) (h₀ : Out L₀ s₀ s)
    (hL : Key.sub bootOtherOut L₀ = true) :
    Out L₀ s₀ (State.bootOther s slot cause) := by
  unfold State.bootOther
  repeat'
    first
      | with_reducible assumption | with_reducible apply Out.put | with_reducible apply Out.post
      | with_reducible apply State.runFw_out | with_reducible apply State.progSel_out
      | with_reducible apply State.romOnly_out | exact Key.hasA rfl | exact Key.hasW | exact Out.sub hL rfl | intro _
      | with_reducible apply Out.ite | split | dsimp only [id_eq]
      | (rename_i e; with_reducible refine Out.of_eq e ?_)

theorem State.bootSlot_out {s : State} (h₀ : Out L₀ s₀ s)
    (hL : Key.sub bootOtherOut L₀ = true) :
    Out L₀ s₀ (State.bootSlot s) := by
  unfold State.bootSlot
  repeat'
    first
      | with_reducible assumption | with_reducible apply State.bootOther_out | with_reducible apply State.runFw_out
      | with_reducible apply Out.when | with_reducible apply Out.puts_nil | with_reducible apply Out.puts_cons
      | with_reducible apply Out.put | exact Key.hasA rfl | exact Key.hasW | exact Out.sub hL rfl | intro _
      | with_reducible apply Out.ite | split | dsimp only [id_eq]
      | (rename_i e; with_reducible refine Out.of_eq e ?_)

theorem State.boot_out {s : State} (h₀ : Out L₀ s₀ s)
    (hL : Key.sub [.all, .p .win, .p .free, .p .edges, .p .inbox, .p .opt, .p .tstore, .p .flash, .p .blks, .p .fops, .p .fwait,
    .p .ring, .p .ringBad, .p .pkt, .p .hbm, .p .poison, .p .fwImg] L₀ = true) :
    Out L₀ s₀ (State.boot s) := by
  unfold State.boot
  repeat'
    first
      | with_reducible assumption | with_reducible apply State.pblScan_out | with_reducible apply State.openBoxes_out
      | with_reducible apply State.loadOpt_out | with_reducible apply State.reErase_out
      | with_reducible apply State.bootSlot_out | with_reducible apply State.stepEnd_out
      | with_reducible apply State.sntEnable_out | with_reducible apply Out.put
      | with_reducible apply State.romOnly_out | exact Key.hasA rfl | exact Key.hasW | exact Out.sub hL rfl | intro _
      | with_reducible apply Out.ite | split | dsimp only [id_eq]
      | (rename_i e; with_reducible refine Out.of_eq e ?_)

/-- What `State.restart3` may change. -/
def restart3Out : List Key :=
  [.all, .p .win, .p .free, .p .edges, .p .inbox, .p .chn, .p .seqs, .p .bstore,
    .p .wd, .p .mcache, .p .pa, .p .jq, .p .jact, .p .opt, .p .cmds, .p .ctrls, .p .visit, .p .nss, .p .zones,
    .p .bands, .p .vol, .p .points, .p .mops, .p .test, .p .testLog, .p .tstore, .p .rung6, .p .amps, .p .sams,
    .p .loops, .p .tstk, .p .tshd, .p .tshr, .p .tscrub, .p .cstore, .p .tmchk, .p .cog, .p .spn, .p .flash,
    .p .blks, .p .fops, .p .fwait, .p .fread, .p .fwPend, .p .fwErased, .p .ring, .p .ringBad, .p .errlog,
    .p .rsets, .p .reqs, .p .nonces, .p .held, .p .pkt, .p .hbm, .p .poison, .p .kvLog, .p .kvDur, .p .progs,
    .p .progRuns, .p .cands, .p .authFail, .p .stripes, .p .addrs, .p .partner, .p .fwImg, .p .works, .p .shadow]

theorem State.restart3_out {s : State} (src : Nat) (h₀ : Out L₀ s₀ s)
    (hL : Key.sub restart3Out L₀ = true) :
    Out L₀ s₀ (State.restart3 s src) := by
  unfold State.restart3
  repeat'
    first
      | with_reducible assumption | with_reducible apply State.boot_out | with_reducible apply State.dieReset_out
      | exact Key.hasA rfl | exact Key.hasW | exact Out.sub hL rfl | intro _ | with_reducible apply Out.ite | split
      | dsimp only [id_eq] | (rename_i e; with_reducible refine Out.of_eq e ?_)

theorem State.restart2_out {s : State} (src : Nat) (h₀ : Out L₀ s₀ s)
    (hL : Key.sub dieResetOut L₀ = true) :
    Out L₀ s₀ (State.restart2 s src) := by
  unfold State.restart2
  repeat'
    first
      | with_reducible assumption | with_reducible apply State.dieReset_out | with_reducible apply Out.put
      | exact Key.hasA rfl | exact Key.hasW | exact Out.sub hL rfl | intro _ | with_reducible apply Out.ite | split
      | dsimp only [id_eq] | (rename_i e; with_reducible refine Out.of_eq e ?_)

theorem State.wakeFrom5_out {s : State} (cause : Nat) (h₀ : Out L₀ s₀ s)
    (hL : Key.sub dieResetOut L₀ = true) :
    Out L₀ s₀ (State.wakeFrom5 s cause) := by
  unfold State.wakeFrom5
  repeat'
    first
      | with_reducible assumption | with_reducible apply Out.count | with_reducible apply Out.evt
      | with_reducible apply Out.puts_nil | with_reducible apply Out.puts_cons | with_reducible apply Out.put
      | with_reducible apply State.restart2_out | with_reducible apply Out.post
      | with_reducible apply State.present_out | exact Key.hasA rfl | exact Key.hasW | exact Out.sub hL rfl | intro _
      | with_reducible apply Out.ite | split | dsimp only [id_eq]
      | (rename_i e; with_reducible refine Out.of_eq e ?_)

theorem State.dropHbm_out {s : State} (h₀ : Out L₀ s₀ s)
    (hL : Key.sub [.w 9 8, .p .hbm, .p .poison] L₀ = true) :
    Out L₀ s₀ (State.dropHbm s) := by
  unfold State.dropHbm
  repeat'
    first
      | with_reducible assumption | with_reducible apply Out.puts_nil | with_reducible apply Out.puts_cons
      | with_reducible apply Out.put | exact Key.hasA rfl | exact Key.hasW | exact Out.sub hL rfl | intro _
      | with_reducible apply Out.ite | split | dsimp only [id_eq]
      | (rename_i e; with_reducible refine Out.of_eq e ?_) | with_reducible apply Out.setHbmPoison

theorem State.dropSram_out {s : State} (h₀ : Out L₀ s₀ s)
    (hL : Key.sub [.w 10 24, .p .bstore, .p .cstore, .p .pkt, .p .progRuns] L₀ = true) :
    Out L₀ s₀ (State.dropSram s) := by
  unfold State.dropSram
  repeat'
    first
      | with_reducible assumption | with_reducible apply State.showPkt_out | exact Key.hasA rfl | exact Key.hasW
      | exact Out.sub hL rfl | intro _ | with_reducible apply Out.ite | split | dsimp only [id_eq]
      | (rename_i e; with_reducible refine Out.of_eq e ?_) | with_reducible apply Out.setBstoreCstorePktProgRuns

theorem State.domainOff_out {s : State} (i : Nat) (h₀ : Out L₀ s₀ s)
    (hL : Key.sub [.all, .p .win, .p .free, .p .edges, .p .inbox, .p .chn, .p .seqs, .p .bstore, .p .wd, .p .mcache, .p .jq, .p .jact,
    .p .cmds, .p .ctrls, .p .visit, .p .nss, .p .zones, .p .bands, .p .vol, .p .points, .p .test, .p .testLog,
    .p .tstore, .p .rung6, .p .amps, .p .sams, .p .loops, .p .tstk, .p .tshd, .p .tshr, .p .tscrub, .p .cstore,
    .p .tmchk, .p .cog, .p .spn, .p .flash, .p .fops, .p .fwait, .p .fread, .p .fwPend, .p .fwErased, .p .ring,
    .p .ringBad, .p .errlog, .p .rsets, .p .reqs, .p .nonces, .p .held, .p .pkt, .p .hbm, .p .poison, .p .kvLog,
    .p .kvDur, .p .progs, .p .progRuns, .p .cands, .p .authFail, .p .stripes, .p .addrs, .p .partner, .p .fwImg,
    .p .works, .p .shadow] L₀ = true) :
    Out L₀ s₀ (State.domainOff s i) := by
  unfold State.domainOff
  repeat'
    first
      | with_reducible assumption | with_reducible apply State.loseVolatile_out
      | with_reducible apply State.dropHbm_out | with_reducible apply State.linkDown_out
      | with_reducible apply State.dieLost_out | with_reducible apply State.dropSram_out
      | with_reducible apply State.flashCut_out | exact Key.hasA rfl | exact Key.hasW | exact Out.sub hL rfl
      | intro _ | with_reducible apply Out.ite | split | dsimp only [id_eq]
      | (rename_i e; with_reducible refine Out.of_eq e ?_)

theorem pwrEnStep_out {s : State} (h₀ : Out L₀ s₀ s)
    (hL : Key.sub restart3Out L₀ = true) :
    Out L₀ s₀ (pwrEnStep s) := by
  unfold pwrEnStep
  repeat'
    first
      | with_reducible assumption | with_reducible apply State.showPbl_out | with_reducible apply Out.put
      | with_reducible apply State.boot_out | with_reducible apply State.stepEnd_out
      | with_reducible apply Out.puts_nil | with_reducible apply Out.puts_cons | with_reducible apply Out.when
      | with_reducible apply State.domainOff_out | with_reducible apply State.setPs_out
      | with_reducible apply Out.count | with_reducible apply State.wakeFrom5_out
      | with_reducible apply State.checkMiss_out | exact Key.hasA rfl | exact Key.hasW | exact Out.sub hL rfl
      | intro _ | with_reducible apply Out.ite | split | dsimp only [id_eq]
      | (rename_i e; with_reducible refine Out.of_eq e ?_)

theorem State.loseVin5_out {s : State} (h₀ : Out L₀ s₀ s) (hL : Key.sub [.all, .p .win, .p .inbox, .p .nss, .p .popen, .p .pbuf] L₀ = true) : Out L₀ s₀ (State.loseVin5 s) :=
  Out.setFlds _ (Out.setWin _ (Out.setInbox _ (Out.setPopen _ (Out.setPbuf _ (Out.setNss _ h₀ (Out.sub hL rfl)) (Out.sub hL rfl))
    (Out.sub hL rfl)) (Out.sub hL rfl)) (Out.sub hL rfl)) (Out.sub hL rfl)

/-- What `vin5Loss` may change. -/
def vin5LossOut : List Key :=
  [.all, .p .win, .p .free, .p .edges, .p .inbox, .p .chn, .p .seqs, .p .bstore,
    .p .wd, .p .mcache, .p .pa, .p .jq, .p .jact, .p .cmds, .p .ctrls, .p .visit, .p .nss, .p .zones, .p .bands,
    .p .vol, .p .points, .p .mops, .p .test, .p .testLog, .p .tstore, .p .rung6, .p .amps, .p .sams, .p .loops,
    .p .tstk, .p .tshd, .p .tshr, .p .tscrub, .p .cstore, .p .tmchk, .p .cog, .p .spn, .p .flash, .p .fops,
    .p .fwait, .p .fread, .p .fwPend, .p .fwErased, .p .popen, .p .pbuf, .p .ring, .p .ringBad, .p .errlog,
    .p .rsets, .p .reqs, .p .nonces, .p .held, .p .pkt, .p .hbm, .p .poison, .p .kvLog, .p .kvDur, .p .progs,
    .p .progRuns, .p .cands, .p .authFail, .p .stripes, .p .addrs, .p .partner, .p .fwImg, .p .works, .p .shadow]

theorem vin5Loss_out {s : State} (h₀ : Out L₀ s₀ s)
    (hL : Key.sub vin5LossOut L₀ = true) :
    Out L₀ s₀ (vin5Loss s) := by
  unfold vin5Loss
  repeat'
    first
      | with_reducible assumption | with_reducible apply Out.puts_nil | with_reducible apply Out.puts_cons
      | with_reducible apply Out.put | with_reducible apply State.loseVin5_out
      | with_reducible apply State.dieReset_out | exact Key.hasA rfl | exact Key.hasW | exact Out.sub hL rfl
      | intro _ | with_reducible apply Out.ite | split | dsimp only [id_eq]
      | (rename_i e; with_reducible refine Out.of_eq e ?_)

theorem powerOnReset_out {s : State} (h₀ : Out L₀ s₀ s)
    (hL : Key.sub vin5LossOut L₀ = true) :
    Out L₀ s₀ (powerOnReset s) := by
  unfold powerOnReset
  repeat'
    first
      | with_reducible assumption | with_reducible apply Out.put | with_reducible apply State.loseVin5_out
      | with_reducible apply Out.when | with_reducible apply Out.post | with_reducible apply State.stepEnd_out
      | with_reducible apply State.dieReset_out | exact Key.hasA rfl | exact Key.hasW | exact Out.sub hL rfl
      | intro _ | with_reducible apply Out.ite | split | dsimp only [id_eq]
      | (rename_i e; with_reducible refine Out.of_eq e ?_)

theorem railLossReset_out {s : State} (h₀ : Out L₀ s₀ s)
    (hL : Key.sub dieResetOut L₀ = true) :
    Out L₀ s₀ (railLossReset s) := by
  unfold railLossReset
  repeat'
    first
      | with_reducible assumption | with_reducible apply State.restart2_out | exact Key.hasA rfl | exact Key.hasW
      | exact Out.sub hL rfl | intro _ | with_reducible apply Out.ite | split | dsimp only [id_eq]
      | (rename_i e; with_reducible refine Out.of_eq e ?_)

theorem ringmasterRestart_out {s : State} (h₀ : Out L₀ s₀ s)
    (hL : Key.sub restart3Out L₀ = true) :
    Out L₀ s₀ (ringmasterRestart s) := by
  unfold ringmasterRestart
  repeat'
    first
      | with_reducible assumption | with_reducible apply State.restart3_out | exact Key.hasA rfl | exact Key.hasW
      | exact Out.sub hL rfl | intro _ | with_reducible apply Out.ite | split | dsimp only [id_eq]
      | (rename_i e; with_reducible refine Out.of_eq e ?_)

theorem stage2_out {s : State} (h₀ : Out L₀ s₀ s)
    (hL : Key.sub restart3Out L₀ = true) :
    Out L₀ s₀ (stage2 s) := by
  unfold stage2
  repeat'
    first
      | with_reducible assumption | with_reducible apply State.restart3_out | with_reducible apply Out.puts_nil
      | with_reducible apply Out.puts_cons | with_reducible apply Out.put | with_reducible apply Out.count
      | with_reducible apply State.stopAssert_out | exact Key.hasA rfl | exact Key.hasW | exact Out.sub hL rfl
      | intro _ | with_reducible apply Out.ite | split | dsimp only [id_eq]
      | (rename_i e; with_reducible refine Out.of_eq e ?_)

/-- What `State.fwAdvance` may change. -/
def fwAdvanceOut : List Key :=
  [.all, .p .win, .p .free, .p .edges, .p .inbox, .p .chn, .p .seqs, .p .bstore,
    .p .wd, .p .mcache, .p .pa, .p .jq, .p .jact, .p .jobNo, .p .opt, .p .cmds, .p .ctrls, .p .visit, .p .nss,
    .p .zones, .p .bands, .p .vol, .p .points, .p .mops, .p .test, .p .testLog, .p .tstore, .p .rung6, .p .amps,
    .p .sams, .p .loops, .p .tstk, .p .tshd, .p .tshr, .p .tscrub, .p .cstore, .p .tmchk, .p .cog, .p .spn,
    .p .flash, .p .blks, .p .fops, .p .fwait, .p .fread, .p .fwPend, .p .fwErased, .p .ring, .p .ringBad,
    .p .errlog, .p .rsets, .p .reqs, .p .nonces, .p .held, .p .pkt, .p .hbm, .p .poison, .p .lost, .p .kvLog,
    .p .kvDur, .p .progs, .p .progRuns, .p .cands, .p .authFail, .p .stripes, .p .addrs, .p .partner, .p .fwImg,
    .p .works, .p .shadow]

theorem State.fwAdvance_out {s : State} (h₀ : Out L₀ s₀ s)
    (hL : Key.sub fwAdvanceOut L₀ = true) :
    Out L₀ s₀ (State.fwAdvance s) := by
  unfold State.fwAdvance
  repeat'
    first
      | with_reducible assumption | with_reducible apply Out.put | with_reducible apply Out.forAll
      | with_reducible apply State.beginPoint_out | with_reducible apply State.evalSp_out
      | with_reducible apply Out.puts_nil | with_reducible apply Out.puts_cons
      | with_reducible apply State.unloadAll_out | with_reducible apply State.restart3_out | exact Key.hasA rfl
      | exact Key.hasW | exact Out.sub hL rfl | intro _ | with_reducible apply Out.ite | split | dsimp only [id_eq]
      | (rename_i e; with_reducible refine Out.of_eq e ?_)

theorem firmwareReset_out {s : State} (h₀ : Out L₀ s₀ s)
    (hL : Key.sub fwAdvanceOut L₀ = true) :
    Out L₀ s₀ (firmwareReset s) := by
  unfold firmwareReset
  repeat'
    first
      | with_reducible assumption | with_reducible apply State.fwAdvance_out | exact Key.hasA rfl | exact Key.hasW
      | exact Out.sub hL rfl | intro _ | with_reducible apply Out.ite | split | dsimp only [id_eq]
      | (rename_i e; with_reducible refine Out.of_eq e ?_)

theorem State.stopped_out {s : State} (h₀ : Out L₀ s₀ s)
    (hL : Key.sub fwAdvanceOut L₀ = true) :
    Out L₀ s₀ (State.stopped s) := by
  unfold State.stopped
  repeat'
    first
      | with_reducible assumption | with_reducible apply State.fwAdvance_out | with_reducible apply Out.when
      | with_reducible apply Out.put | exact Key.hasA rfl | exact Key.hasW | exact Out.sub hL rfl | intro _
      | with_reducible apply Out.ite | split | dsimp only [id_eq]
      | (rename_i e; with_reducible refine Out.of_eq e ?_)

theorem shortTimerEnd_out {s : State} (h₀ : Out L₀ s₀ s)
    (hL : Key.sub fwAdvanceOut L₀ = true) :
    Out L₀ s₀ (shortTimerEnd s) := by
  unfold shortTimerEnd
  repeat'
    first
      | with_reducible assumption | with_reducible apply State.stopped_out
      | with_reducible apply State.shortTimer_out | exact Key.hasA rfl | exact Key.hasW | exact Out.sub hL rfl
      | intro _ | with_reducible apply Out.ite | split | dsimp only [id_eq]
      | (rename_i e; with_reducible refine Out.of_eq e ?_)

theorem shortQuietEnd_out {s : State} (h₀ : Out L₀ s₀ s)
    (hL : Key.sub fwAdvanceOut L₀ = true) :
    Out L₀ s₀ (shortQuietEnd s) := by
  unfold shortQuietEnd
  repeat'
    first
      | with_reducible assumption | with_reducible apply State.stopped_out
      | with_reducible apply State.shortQuiet_out | exact Key.hasA rfl | exact Key.hasW | exact Out.sub hL rfl
      | intro _ | with_reducible apply Out.ite | split | dsimp only [id_eq]
      | (rename_i e; with_reducible refine Out.of_eq e ?_)

/-- What `ioReady` may change. -/
def ioReadyOut : List Key :=
  [.all, .p .win, .p .free, .p .edges, .p .inbox, .p .chn, .p .seqs, .p .bstore,
    .p .wd, .p .mcache, .p .pa, .p .jq, .p .jact, .p .jobNo, .p .opt, .p .cmds, .p .cqs, .p .ctrls, .p .visit,
    .p .nss, .p .zones, .p .bands, .p .vol, .p .points, .p .mops, .p .opid, .p .journal, .p .jseq, .p .test,
    .p .testLog, .p .tstore, .p .rung6, .p .amps, .p .sams, .p .loops, .p .tstk, .p .tshd, .p .tshr, .p .tscrub,
    .p .cstore, .p .tmchk, .p .cog, .p .spn, .p .flash, .p .blks, .p .fops, .p .fwait, .p .fread, .p .fwPend,
    .p .fwErased, .p .ring, .p .ringBad, .p .errlog, .p .rsets, .p .reqs, .p .nonces, .p .held, .p .pkt, .p .hbm,
    .p .poison, .p .lost, .p .kvLog, .p .kvDur, .p .progs, .p .progRuns, .p .cands, .p .authFail, .p .stripes,
    .p .addrs, .p .partner, .p .fwImg, .p .works, .p .weakSlots, .p .shadow]

theorem ioReady_out (sysBad : List Act) (keyBad : List (BitVec 32)) (journalBad : List (BitVec 32)) (trialOk : Bool) {s : State} (h₀ : Out L₀ s₀ s)
    (hL : Key.sub ioReadyOut L₀ = true) :
    Out L₀ s₀ (ioReady sysBad keyBad journalBad trialOk s) := by
  unfold ioReady
  repeat'
    first
      | with_reducible assumption | with_reducible apply Out.forAll | with_reducible apply Out.put
      | with_reducible apply Out.post | with_reducible apply Out.count | with_reducible apply State.setNs_out
      | with_reducible apply Out.puts_append | with_reducible apply Out.puts_nil | with_reducible apply Out.puts_cons
      | with_reducible apply State.noticeAll_out | with_reducible apply Out.evt
      | with_reducible apply State.optRepairDo_out | with_reducible apply State.confirmTrial_out
      | with_reducible apply State.resumeAll_out | with_reducible apply State.scanJournal_out
      | with_reducible apply State.journalError_out | with_reducible apply State.setPs_out
      | with_reducible apply State.fwAdvance_out | with_reducible apply State.checkMiss_out | exact Key.hasA rfl
      | exact Key.hasW | exact Out.sub hL rfl | intro _ | with_reducible apply Out.ite | split | dsimp only [id_eq]
      | (rename_i e; with_reducible refine Out.of_eq e ?_)

theorem startLate_out {s : State} (h₀ : Out L₀ s₀ s)
    (hL : Key.sub fwAdvanceOut L₀ = true) :
    Out L₀ s₀ (startLate s) := by
  unfold startLate
  repeat'
    first
      | with_reducible assumption | with_reducible apply State.fwAdvance_out | with_reducible apply Out.post
      | with_reducible apply Out.evt | with_reducible apply Out.put | exact Key.hasA rfl | exact Key.hasW
      | exact Out.sub hL rfl | intro _ | with_reducible apply Out.ite | split | dsimp only [id_eq]
      | (rename_i e; with_reducible refine Out.of_eq e ?_)

theorem xtalFail_out (n : BitVec 32) {s : State} (h₀ : Out L₀ s₀ s)
    (hL : Key.sub [.w 22 8, .w 22 12, .w 64 16318464, .p .edges, .p .inbox] L₀ = true) :
    Out L₀ s₀ (xtalFail n s) := by
  unfold xtalFail
  repeat'
    first
      | with_reducible assumption | with_reducible apply Out.post | with_reducible apply Out.evt
      | with_reducible apply Out.puts_nil | with_reducible apply Out.puts_cons | with_reducible apply Out.put
      | exact Key.hasA rfl | exact Key.hasW | exact Out.sub hL rfl | intro _ | with_reducible apply Out.ite | split
      | dsimp only [id_eq] | (rename_i e; with_reducible refine Out.of_eq e ?_)

theorem xtalRecover_out {s : State} (h₀ : Out L₀ s₀ s)
    (hL : Key.sub [.w 64 16318464] L₀ = true) :
    Out L₀ s₀ (xtalRecover s) := by
  unfold xtalRecover
  repeat'
    first
      | with_reducible assumption | with_reducible apply Out.put | exact Key.hasA rfl | exact Key.hasW
      | exact Out.sub hL rfl | intro _ | with_reducible apply Out.ite | split | dsimp only [id_eq]
      | (rename_i e; with_reducible refine Out.of_eq e ?_)

theorem execPowerOnReset_out {s t : State} (h : execPowerOnReset s = .next t) :
    Out vin5LossOut s t := by
  have h := Host.Outcome.next.inj h; subst h; exact powerOnReset_out  (Out.refl s) rfl

theorem execVin5Loss_out {s t : State} (h : execVin5Loss s = .next t) :
    Out vin5LossOut s t := by
  have h := Host.Outcome.next.inj h; subst h; exact vin5Loss_out  (Out.refl s) rfl

theorem execRailLossReset_out {s t : State} (h : execRailLossReset s = .next t) :
    Out dieResetOut s t := by
  have h := Host.Outcome.next.inj h; subst h; exact railLossReset_out  (Out.refl s) rfl

theorem execFirmwareReset_out {s t : State} (h : execFirmwareReset s = .next t) :
    Out fwAdvanceOut s t := by
  have h := Host.Outcome.next.inj h; subst h; exact firmwareReset_out  (Out.refl s) rfl

theorem execRingmasterRestart_out {s t : State} (h : execRingmasterRestart s = .next t) :
    Out restart3Out s t := by
  have h := Host.Outcome.next.inj h; subst h; exact ringmasterRestart_out  (Out.refl s) rfl

theorem execXtalFail_out (n : BitVec 32) {s t : State} (h : execXtalFail n s = .next t) :
    Out [.w 22 8, .w 22 12, .w 64 16318464, .p .edges, .p .inbox] s t := by
  have h := Host.Outcome.next.inj h; subst h; exact xtalFail_out _ (Out.refl s) rfl

theorem execXtalRecover_out {s t : State} (h : execXtalRecover s = .next t) :
    Out [.w 64 16318464] s t := by
  have h := Host.Outcome.next.inj h; subst h; exact xtalRecover_out  (Out.refl s) rfl

theorem execShortTimerEnd_out {s t : State} (h : execShortTimerEnd s = .next t) :
    Out fwAdvanceOut s t := by
  have h := Host.Outcome.next.inj h; subst h; exact shortTimerEnd_out  (Out.refl s) rfl

theorem execShortQuietEnd_out {s t : State} (h : execShortQuietEnd s = .next t) :
    Out fwAdvanceOut s t := by
  have h := Host.Outcome.next.inj h; subst h; exact shortQuietEnd_out  (Out.refl s) rfl

theorem execStage2_out {s t : State} (h : execStage2 s = .next t) :
    Out restart3Out s t := by
  have h := Host.Outcome.next.inj h; subst h; exact stage2_out  (Out.refl s) rfl

theorem execSpinPermission_out {s t : State} (h : execSpinPermission s = .next t) :
    Out spinCheckOut s t := by
  have h := Host.Outcome.next.inj h; subst h; exact spinPermission_out  (Out.refl s) rfl

theorem execSpinHoldNChange_out (level : Bool) {s t : State} (h : execSpinHoldNChange level s = .next t) :
    Out spinHoldChangeOut s t := by
  have h := Host.Outcome.next.inj h; subst h; exact spinHoldChange_out _ (Out.refl s) rfl

theorem execSpinBackoffEnd_out {s t : State} (h : execSpinBackoffEnd s = .next t) :
    Out spinCheckOut s t := by
  have h := Host.Outcome.next.inj h; subst h; exact spinBackoffEnd_out  (Out.refl s) rfl

theorem execSpinDelayEnd_out {s t : State} (h : execSpinDelayEnd s = .next t) :
    Out spinCheckOut s t := by
  have h := Host.Outcome.next.inj h; subst h; exact spinDelayEnd_out  (Out.refl s) rfl

theorem execSagWaitEnd_out {s t : State} (h : execSagWaitEnd s = .next t) :
    Out sagWaitEndOut s t := by
  have h := Host.Outcome.next.inj h; subst h; exact sagWaitEnd_out  (Out.refl s) rfl

theorem execIoReady_out (sysBad : List Act) (keyBad : List (BitVec 32)) (journalBad : List (BitVec 32)) (trialOk : Bool) {s t : State} (h : execIoReady sysBad keyBad journalBad trialOk s = .next t) :
    Out ioReadyOut s t := by
  have h := Host.Outcome.next.inj h; subst h; exact ioReady_out _ _ _ _ (Out.refl s) rfl

theorem execStartLate_out {s t : State} (h : execStartLate s = .next t) :
    Out fwAdvanceOut s t := by
  have h := Host.Outcome.next.inj h; subst h; exact startLate_out  (Out.refl s) rfl

theorem execPwrEnStep_out {s t : State} (h : execPwrEnStep s = .next t) :
    Out restart3Out s t := by
  have h := Host.Outcome.next.inj h; subst h; exact pwrEnStep_out  (Out.refl s) rfl

end Sys2Proof.Machine
end

