-- ==== Sys2Proof/Laws/OutPower.lean ====
section
/-!
SUPPORT. What each operation and each command of `Machine/Power.lean` can change.
-/

namespace Sys2Proof.Machine

set_option Elab.async false
set_option linter.unusedVariables false

set_option maxRecDepth 8000
set_option linter.unusedTactic false
set_option linter.unreachableTactic false

variable {L₀ : List Key} {s₀ : State}

theorem stepFld_has (i : Nat) : (Key.w 23 8).has (stepFld i) := by
  unfold stepFld
  repeat' first | exact ⟨rfl, rfl⟩ | exact (rfl : _ = _) | split

theorem opsecTick_out {s : State} (h₀ : Out L₀ s₀ s)
    (hL : Key.sub [.w 22 8, .w 22 32, .p .inbox] L₀ = true) :
    Out L₀ s₀ (opsecTick s) := by
  unfold opsecTick
  repeat'
    first
      | with_reducible assumption | with_reducible apply Out.put | with_reducible apply Out.when
      | with_reducible apply Out.post | exact Key.hasA rfl | exact Key.hasW | exact Out.sub hL rfl | intro _
      | with_reducible apply Out.ite | split | dsimp only [id_eq]
      | (rename_i e; with_reducible refine Out.of_eq e ?_)

theorem State.wakeBy_out {s : State} (cause : Nat) (h₀ : Out L₀ s₀ s)
    (hL : Key.sub dieResetOut L₀ = true) :
    Out L₀ s₀ (State.wakeBy s cause) := by
  unfold State.wakeBy
  repeat'
    first
      | with_reducible assumption | with_reducible apply State.wakeFrom5_out | with_reducible apply Out.put
      | exact Key.hasA rfl | exact Key.hasW | exact Out.sub hL rfl | intro _ | with_reducible apply Out.ite | split
      | dsimp only [id_eq] | (rename_i e; with_reducible refine Out.of_eq e ?_)

theorem signalDetectWake_out {s : State} (h₀ : Out L₀ s₀ s)
    (hL : Key.sub dieResetOut L₀ = true) :
    Out L₀ s₀ (signalDetectWake s) := by
  unfold signalDetectWake
  repeat'
    first
      | with_reducible assumption | with_reducible apply State.wakeBy_out | exact Key.hasA rfl | exact Key.hasW
      | exact Out.sub hL rfl | intro _ | with_reducible apply Out.ite | split | dsimp only [id_eq]
      | (rename_i e; with_reducible refine Out.of_eq e ?_)

theorem ssCsWake_out {s : State} (h₀ : Out L₀ s₀ s)
    (hL : Key.sub dieResetOut L₀ = true) :
    Out L₀ s₀ (ssCsWake s) := by
  unfold ssCsWake
  repeat'
    first
      | with_reducible assumption | with_reducible apply State.wakeBy_out | exact Key.hasA rfl | exact Key.hasW
      | exact Out.sub hL rfl | intro _ | with_reducible apply Out.ite | split | dsimp only [id_eq]
      | (rename_i e; with_reducible refine Out.of_eq e ?_)

theorem sidebandWake_out {s : State} (h₀ : Out L₀ s₀ s)
    (hL : Key.sub dieResetOut L₀ = true) :
    Out L₀ s₀ (sidebandWake s) := by
  unfold sidebandWake
  repeat'
    first
      | with_reducible assumption | with_reducible apply State.wakeBy_out | exact Key.hasA rfl | exact Key.hasW
      | exact Out.sub hL rfl | intro _ | with_reducible apply Out.ite | split | dsimp only [id_eq]
      | (rename_i e; with_reducible refine Out.of_eq e ?_)

theorem State.idled_out {s : State} (h₀ : Out L₀ s₀ s)
    (hL : Key.sub arriveOut L₀ = true) :
    Out L₀ s₀ (State.idled s) := by
  unfold State.idled
  repeat'
    first
      | with_reducible assumption | with_reducible apply Out.put | with_reducible apply State.follow_out
      | with_reducible apply State.present_out | exact Key.hasA rfl | exact Key.hasW | exact Out.sub hL rfl | intro _
      | with_reducible apply Out.ite | split | dsimp only [id_eq]
      | (rename_i e; with_reducible refine Out.of_eq e ?_)

theorem idleTimer_out {s : State} (h₀ : Out L₀ s₀ s)
    (hL : Key.sub arriveOut L₀ = true) :
    Out L₀ s₀ (idleTimer s) := by
  unfold idleTimer
  repeat'
    first
      | with_reducible assumption | with_reducible apply State.idled_out | exact Key.hasA rfl | exact Key.hasW
      | exact Out.sub hL rfl | intro _ | with_reducible apply Out.ite | split | dsimp only [id_eq]
      | (rename_i e; with_reducible refine Out.of_eq e ?_)

/-- What `wakeHoldExpiry` may change. -/
def wakeHoldExpiryOut : List Key :=
  [.a 2 32 4, .w 11 12, .w 11 84, .w 12 8, .w 13 8, .w 13 12, .w 13 76,
    .w 13 1572864, .w 13 2359296, .w 13 2424832, .w 13 20250624, .w 14 8, .w 14 12, .w 14 24, .w 14 84,
    .w 14 3211264, .w 14 3342336, .w 14 3407872, .w 14 3473408, .w 14 3538944, .w 14 4128768, .w 14 4194304,
    .w 14 4259840, .w 14 4325376, .w 14 4784128, .w 14 21692416, .w 14 21757952, .w 14 22675456, .w 14 22806528,
    .w 16 8, .w 16 12, .w 16 6094848, .w 16 8519680, .w 16 8585216, .w 16 8912896, .w 16 8978432, .w 16 9240576,
    .w 16 9306112, .w 16 9502720, .w 16 9568256, .w 16 9895936, .w 16 9961472, .w 16 10223616, .w 16 10551296,
    .w 16 10944512, .w 16 23068672, .w 16 23789568, .w 16 23855104, .w 16 24051712, .w 16 24444928, .w 17 13762560,
    .w 17 24510464, .w 18 8, .w 18 12, .w 18 72, .w 18 786432, .w 18 20578304, .w 19 12, .w 19 16, .w 19 1114112,
    .w 19 1179648, .a 19 1310720 268435456, .a 19 1376256 268435456, .a 19 22413312 268435456,
    .a 19 22478848 268435456, .w 22 8, .w 22 12, .w 22 28, .w 64 6881280, .w 64 16711680, .w 64 16842752, .p .win,
    .p .edges, .p .inbox, .p .chn, .p .seqs, .p .pa, .p .jq, .p .jact, .p .mops]

theorem wakeHoldExpiry_out (long : Bool) {s : State} (h₀ : Out L₀ s₀ s)
    (hL : Key.sub wakeHoldExpiryOut L₀ = true) :
    Out L₀ s₀ (wakeHoldExpiry long s) := by
  unfold wakeHoldExpiry
  repeat'
    first
      | with_reducible assumption | with_reducible apply Out.when | with_reducible apply Out.put
      | with_reducible apply State.idled_out | exact Key.hasA rfl | exact Key.hasW | exact Out.sub hL rfl | intro _
      | with_reducible apply Out.ite | split | dsimp only [id_eq]
      | (rename_i e; with_reducible refine Out.of_eq e ?_)

/-- What `State.psBegin` may change. -/
def psBeginOut : List Key :=
  [.w 1 8, .w 2 8, .w 2 20, .w 2 24, .a 2 32 4, .w 2 5439488, .w 2 5505024, .w 3 8,
    .a 3 256 4, .a 4 4096 4, .a 4 16384 32, .a 4 16388 32, .a 4 16392 32, .a 4 16396 32, .a 4 16384000 268435456,
    .a 4 16449536 268435456, .w 6 8, .w 6 12, .w 7 12, .w 7 24, .w 7 28, .w 7 17956864, .w 9 8, .w 10 0, .w 10 20,
    .w 10 24, .w 11 12, .a 11 32 4, .a 11 48 4, .w 11 84, .w 12 8, .w 13 8, .w 13 12, .w 13 76, .w 13 1572864,
    .w 13 2359296, .w 13 2424832, .w 13 20250624, .w 14 8, .w 14 12, .w 14 24, .w 14 84, .w 14 3211264,
    .w 14 3342336, .w 14 3407872, .w 14 3473408, .w 14 3538944, .w 14 4128768, .w 14 4194304, .w 14 4259840,
    .w 14 4325376, .w 14 4784128, .w 14 21692416, .w 14 21757952, .w 14 22675456, .w 14 22806528, .w 16 8, .w 16 12,
    .w 16 6094848, .w 16 8519680, .w 16 8585216, .w 16 8912896, .w 16 8978432, .w 16 9240576, .w 16 9306112,
    .w 16 9502720, .w 16 9568256, .w 16 9895936, .w 16 9961472, .w 16 10223616, .w 16 10551296, .w 16 10944512,
    .w 16 23068672, .w 16 23789568, .w 16 23855104, .w 16 24051712, .w 16 24444928, .w 17 13762560, .w 17 24510464,
    .w 18 8, .w 18 12, .w 18 72, .w 18 786432, .w 18 20578304, .w 19 12, .w 19 16, .w 19 1114112, .w 19 1179648,
    .a 19 1310720 268435456, .a 19 1376256 268435456, .a 19 22413312 268435456, .a 19 22478848 268435456, .w 22 8,
    .w 22 12, .w 22 24, .w 22 28, .w 64 6881280, .w 64 16711680, .w 64 16777216, .a 65 22347776 268435456,
    .w 66 13828096, .p .win, .p .free, .p .edges, .p .inbox, .p .chn, .p .seqs, .p .mcache, .p .pa, .p .jq,
    .p .jact, .p .jobNo, .p .cmds, .p .ctrls, .p .visit, .p .nss, .p .bands, .p .vol, .p .points, .p .mops,
    .p .errlog, .p .reqs, .p .nonces, .p .held, .p .pkt, .p .hbm, .p .poison, .p .lost, .p .kvLog, .p .stripes]

theorem State.psBegin_out {s : State} (tgt : Nat) (n : Nat) (h₀ : Out L₀ s₀ s)
    (hL : Key.sub psBeginOut L₀ = true) :
    Out L₀ s₀ (State.psBegin s tgt n) := by
  unfold State.psBegin
  repeat'
    first
      | with_reducible assumption | with_reducible apply Out.put | with_reducible apply Out.forAll
      | with_reducible apply State.beginPoint_out | with_reducible apply State.unloadAll_out
      | with_reducible apply Out.puts_nil | with_reducible apply Out.puts_cons
      | with_reducible apply State.cleanAll_out | with_reducible apply State.showPkt_out
      | with_reducible apply State.listen_out | with_reducible apply State.dropHbm_out | exact Key.hasA rfl
      | exact Key.hasW | exact Out.sub hL rfl | intro _ | with_reducible apply Out.ite | split | dsimp only [id_eq]
      | (rename_i e; with_reducible refine Out.of_eq e ?_) | with_reducible apply Out.setMops
      | with_reducible apply Out.setPkt

theorem psEntryStep_out {s : State} (h₀ : Out L₀ s₀ s)
    (hL : Key.sub psBeginOut L₀ = true) :
    Out L₀ s₀ (psEntryStep s) := by
  unfold psEntryStep
  repeat'
    first
      | with_reducible assumption | with_reducible apply State.psBegin_out | with_reducible apply State.checkMiss_out
      | with_reducible apply State.setPs_out | with_reducible apply Out.put | exact Key.hasA rfl | exact Key.hasW
      | exact Out.sub hL rfl | intro _ | with_reducible apply Out.ite | split | dsimp only [id_eq]
      | (rename_i e; with_reducible refine Out.of_eq e ?_)

theorem State.crossCheck_out {s : State} (i : Nat) (h₀ : Out L₀ s₀ s)
    (hL : Key.sub [.w 23 8, .w 23 12, .w 23 68, .a 23 19726336 268435456, .p .edges, .p .inbox] L₀ = true) :
    Out L₀ s₀ (State.crossCheck s i) := by
  unfold State.crossCheck
  repeat'
    first
      | with_reducible assumption | with_reducible apply Out.put | with_reducible apply Out.post
      | with_reducible apply Out.count | with_reducible apply Out.evt | with_reducible apply State.setBit_out
      | exact Key.hasA rfl | exact Key.hasW | exact Out.sub hL rfl | intro _ | with_reducible apply Out.ite | split
      | dsimp only [id_eq] | (rename_i e; with_reducible refine Out.of_eq e ?_)

theorem State.throtEvent_out {s : State} (h₀ : Out L₀ s₀ s)
    (hL : Key.sub [.w 23 12, .w 23 64, .p .edges, .p .inbox] L₀ = true) :
    Out L₀ s₀ (State.throtEvent s) := by
  unfold State.throtEvent
  repeat'
    first
      | with_reducible assumption | with_reducible apply Out.count | with_reducible apply Out.edge
      | exact Key.hasA rfl | exact Key.hasW | exact Out.sub hL rfl | intro _ | with_reducible apply Out.ite | split
      | dsimp only [id_eq] | (rename_i e; with_reducible refine Out.of_eq e ?_)

theorem State.throtAct_out {s : State} (d : Nat) (h₀ : Out L₀ s₀ s)
    (hL : Key.sub [.w 1 19922944, .a 2 32 4, .w 9 17104896, .w 9 17170432, .w 20 0, .w 20 8, .w 20 12, .a 20 32 4, .w 20 72, .w 23 24,
    .w 25 8, .w 25 20, .w 25 24, .w 25 28, .a 65 15335424 268435456, .a 65 15400960 268435456, .p .edges, .p .inbox,
    .p .blks, .p .fops, .p .fwait, .p .fread] L₀ = true) :
    Out L₀ s₀ (State.throtAct s d) := by
  unfold State.throtAct
  repeat'
    first
      | with_reducible assumption | with_reducible apply Out.when | with_reducible apply State.showTherm_out
      | with_reducible apply State.rateCheck_out | with_reducible apply Out.put | with_reducible apply Out.puts_nil
      | with_reducible apply Out.puts_cons | with_reducible apply State.setHold_out | exact stepFld_has _
      | exact Key.hasA rfl | exact Key.hasW | exact Out.sub hL rfl | intro _ | with_reducible apply Out.ite | split
      | dsimp only [id_eq] | (rename_i e; with_reducible refine Out.of_eq e ?_)

theorem State.throtEnd_out {s : State} (d : Nat) (h₀ : Out L₀ s₀ s)
    (hL : Key.sub [.w 23 12, .w 23 64, .a 23 19791872 268435456, .p .edges, .p .inbox] L₀ = true) :
    Out L₀ s₀ (State.throtEnd s d) := by
  unfold State.throtEnd
  repeat'
    first
      | with_reducible assumption | with_reducible apply Out.post | with_reducible apply State.throtEvent_out
      | with_reducible apply Out.put | exact stepFld_has _ | exact Key.hasA rfl | exact Key.hasW
      | exact Out.sub hL rfl | intro _ | with_reducible apply Out.ite | split | dsimp only [id_eq]
      | (rename_i e; with_reducible refine Out.of_eq e ?_)

/-- What `throttleStepUp` may change. -/
def throttleStepUpOut : List Key :=
  [.w 1 19922944, .a 2 32 4, .w 9 17104896, .w 9 17170432, .w 20 0, .w 20 8,
    .w 20 12, .a 20 32 4, .w 20 72, .w 23 8, .w 23 12, .w 23 24, .w 23 64, .w 25 8, .w 25 20, .w 25 24, .w 25 28,
    .a 65 15335424 268435456, .a 65 15400960 268435456, .p .edges, .p .inbox, .p .blks, .p .fops, .p .fwait,
    .p .fread]

theorem throttleStepUp_out (die : Fin 4) {s : State} (h₀ : Out L₀ s₀ s)
    (hL : Key.sub throttleStepUpOut L₀ = true) :
    Out L₀ s₀ (throttleStepUp die s) := by
  unfold throttleStepUp
  repeat'
    first
      | with_reducible assumption | with_reducible apply State.throtAct_out | with_reducible apply Out.put
      | with_reducible apply Out.post | with_reducible apply Out.evt | with_reducible apply State.throtEvent_out
      | exact stepFld_has _ | exact Key.hasA rfl | exact Key.hasW | exact Out.sub hL rfl | intro _
      | with_reducible apply Out.ite | split | dsimp only [id_eq]
      | (rename_i e; with_reducible refine Out.of_eq e ?_)

/-- What `throttleStepDown` may change. -/
def throttleStepDownOut : List Key :=
  [.w 1 19922944, .a 2 32 4, .w 9 17104896, .w 9 17170432, .w 20 0, .w 20 8,
    .w 20 12, .a 20 32 4, .w 20 72, .w 23 8, .w 23 12, .w 23 24, .w 23 64, .a 23 19791872 268435456, .w 25 8,
    .w 25 20, .w 25 24, .w 25 28, .a 65 15335424 268435456, .a 65 15400960 268435456, .p .edges, .p .inbox,
    .p .blks, .p .fops, .p .fwait, .p .fread]

theorem throttleStepDown_out (die : Fin 4) {s : State} (h₀ : Out L₀ s₀ s)
    (hL : Key.sub throttleStepDownOut L₀ = true) :
    Out L₀ s₀ (throttleStepDown die s) := by
  unfold throttleStepDown
  repeat'
    first
      | with_reducible assumption | with_reducible apply State.throtEnd_out | with_reducible apply State.throtAct_out
      | with_reducible apply Out.put | exact stepFld_has _ | exact Key.hasA rfl | exact Key.hasW
      | exact Out.sub hL rfl | intro _ | with_reducible apply Out.ite | split | dsimp only [id_eq]
      | (rename_i e; with_reducible refine Out.of_eq e ?_)

theorem throttleAlternate_out {s : State} (h₀ : Out L₀ s₀ s)
    (hL : Key.sub [.a 2 32 4, .w 23 19857408] L₀ = true) :
    Out L₀ s₀ (throttleAlternate s) := by
  unfold throttleAlternate
  repeat'
    first
      | with_reducible assumption | with_reducible apply State.showTherm_out | with_reducible apply Out.put
      | exact Key.hasA rfl | exact Key.hasW | exact Out.sub hL rfl | intro _ | with_reducible apply Out.ite | split
      | dsimp only [id_eq] | (rename_i e; with_reducible refine Out.of_eq e ?_)

theorem fabricPauseWindow_out {s : State} (h₀ : Out L₀ s₀ s)
    (hL : Key.sub [.w 1 19922944] L₀ = true) :
    Out L₀ s₀ (fabricPauseWindow s) := by
  unfold fabricPauseWindow
  repeat'
    first
      | with_reducible assumption | with_reducible apply Out.put | exact Key.hasA rfl | exact Key.hasW
      | exact Out.sub hL rfl | intro _ | with_reducible apply Out.ite | split | dsimp only [id_eq]
      | (rename_i e; with_reducible refine Out.of_eq e ?_)

theorem State.tempNotices_out (s : State) {t : State} (i : Nat) (h : Out L₀ s₀ t) (hL : Key.sub noticeOut L₀ = true) :
    Out L₀ s₀ (State.tempNotices s t i) := by
  unfold State.tempNotices
  refine Out.forAll _ (fun x u hu => ?_) _ h
  dsimp only
  repeat' first | with_reducible assumption | with_reducible apply State.notice_out | with_reducible apply State.setCtrl_out | split | exact Out.sub hL rfl | dsimp only

theorem State.thermalOff_out {s : State} (i : Nat) (h₀ : Out L₀ s₀ s)
    (hL : Key.sub [.a 2 32 4, .w 12 8, .w 13 8, .w 13 12, .w 13 76, .w 13 1572864, .w 13 2359296, .w 13 2424832, .w 13 20250624,
    .w 14 8, .w 14 24, .w 14 4259840, .w 14 4325376, .w 16 8, .w 16 8519680, .w 16 8912896, .w 16 9502720,
    .w 16 9568256, .w 16 10551296, .w 16 10878976, .w 16 23068672, .w 16 23789568, .w 17 8, .w 17 12, .w 17 72,
    .a 17 6488064 268435456, .w 17 12320768, .a 17 12713984 268435456, .a 17 12779520 268435456, .w 17 13762560,
    .a 17 24903680 268435456, .w 18 8, .w 18 12, .w 18 72, .w 18 786432, .w 18 20578304, .w 19 16,
    .a 19 1310720 268435456, .a 19 1376256 268435456, .a 19 22413312 268435456, .a 19 22478848 268435456, .w 23 12,
    .w 23 72, .w 23 19529728, .w 23 19595264, .w 64 16711680, .w 64 16908288, .w 64 19464192, .w 66 5046272,
    .p .win, .p .edges, .p .inbox, .p .chn, .p .seqs, .p .pa, .p .jq, .p .jact] L₀ = true) :
    Out L₀ s₀ (State.thermalOff s i) := by
  unfold State.thermalOff
  repeat'
    first
      | with_reducible assumption | with_reducible apply Out.count | with_reducible apply Out.evt
      | with_reducible apply Out.puts_nil | with_reducible apply Out.puts_cons | with_reducible apply Out.put
      | with_reducible apply State.stopAssert_out | with_reducible apply Out.post | exact Key.hasA rfl
      | exact Key.hasW | exact Out.sub hL rfl | intro _ | with_reducible apply Out.ite | split | dsimp only [id_eq]
      | (rename_i e; with_reducible refine Out.of_eq e ?_)

/-- What `sensorSample` may change. -/
def sensorSampleOut : List Key :=
  [.w 2 8, .w 2 20, .w 2 24, .a 2 32 4, .w 2 5439488, .w 2 5505024, .w 6 8,
    .w 6 12, .w 7 12, .w 7 24, .w 7 28, .w 7 17956864, .w 9 8, .w 10 20, .w 10 24, .a 11 32 4, .a 11 48 4, .w 12 8,
    .w 13 8, .w 13 12, .w 13 76, .w 13 1572864, .w 13 2359296, .w 13 2424832, .w 13 20250624, .w 14 8, .w 14 24,
    .w 14 4259840, .w 14 4325376, .w 16 8, .w 16 8519680, .w 16 8912896, .w 16 9502720, .w 16 9568256,
    .w 16 10551296, .w 16 10878976, .w 16 23068672, .w 16 23789568, .w 17 8, .w 17 12, .w 17 72,
    .a 17 6488064 268435456, .w 17 12320768, .a 17 12713984 268435456, .a 17 12779520 268435456, .w 17 13762560,
    .a 17 24903680 268435456, .w 18 8, .w 18 12, .w 18 72, .w 18 786432, .w 18 20578304, .w 19 16,
    .a 19 1310720 268435456, .a 19 1376256 268435456, .a 19 22413312 268435456, .a 19 22478848 268435456, .w 23 8,
    .w 23 12, .a 23 32 4, .w 23 64, .w 23 68, .w 23 72, .a 23 13631488 268435456, .w 23 19529728, .w 23 19595264,
    .a 23 19660800 268435456, .a 23 19726336 268435456, .a 23 19791872 268435456, .w 64 16711680, .w 64 16908288,
    .w 64 19464192, .a 65 22347776 268435456, .w 66 5046272, .p .win, .p .free, .p .edges, .p .inbox, .p .chn,
    .p .seqs, .p .mcache, .p .pa, .p .jq, .p .jact, .p .jobNo, .p .cmds, .p .cqs, .p .ctrls, .p .nss, .p .bands,
    .p .vol, .p .points, .p .errlog, .p .pkt, .p .hbm, .p .poison, .p .lost, .p .kvLog, .p .stripes]

theorem sensorSample_out (i : Fin 5) (raw : BitVec 16) {s : State} (h₀ : Out L₀ s₀ s)
    (hL : Key.sub sensorSampleOut L₀ = true) :
    Out L₀ s₀ (sensorSample i raw s) := by
  unfold sensorSample
  repeat'
    first
      | with_reducible assumption | with_reducible apply Out.put | with_reducible apply State.crossCheck_out
      | with_reducible apply Out.putI | with_reducible apply Out.putB | with_reducible apply Out.when
      | with_reducible apply Out.post | with_reducible apply Out.edge | with_reducible apply Out.evt
      | with_reducible apply State.throtEvent_out | with_reducible apply Out.puts_nil
      | with_reducible apply Out.puts_cons | with_reducible apply State.throtEnd_out
      | with_reducible apply State.checkGrant_out | with_reducible apply State.tempNotices_out
      | with_reducible apply State.thermalOff_out | exact stepFld_has _ | exact Key.hasA rfl | exact Key.hasW
      | exact Out.sub hL rfl | intro _ | with_reducible apply Out.ite | split | dsimp only [id_eq]
      | (rename_i e; with_reducible refine Out.of_eq e ?_)

theorem thermalRestart_out {s : State} (h₀ : Out L₀ s₀ s)
    (hL : Key.sub dieResetOut L₀ = true) :
    Out L₀ s₀ (thermalRestart s) := by
  unfold thermalRestart
  repeat'
    first
      | with_reducible assumption | with_reducible apply State.restart2_out | with_reducible apply Out.post
      | with_reducible apply Out.puts_nil | with_reducible apply Out.puts_cons | with_reducible apply Out.put
      | exact Key.hasA rfl | exact Key.hasW | exact Out.sub hL rfl | intro _ | with_reducible apply Out.ite | split
      | dsimp only [id_eq] | (rename_i e; with_reducible refine Out.of_eq e ?_)

theorem State.clearSuspect_out {s : State} (mask : Nat) (h₀ : Out L₀ s₀ s)
    (hL : Key.sub [.w 23 8, .a 23 19726336 268435456] L₀ = true) :
    Out L₀ s₀ (State.clearSuspect s mask) := by
  unfold State.clearSuspect
  repeat'
    first
      | with_reducible assumption | with_reducible apply Out.forAll | with_reducible apply Out.put
      | with_reducible apply State.setBit_out | exact Key.hasA rfl | exact Key.hasW | exact Out.sub hL rfl | intro _
      | with_reducible apply Out.ite | split | dsimp only [id_eq]
      | (rename_i e; with_reducible refine Out.of_eq e ?_)

theorem execSignalDetectWake_out {s t : State} (h : execSignalDetectWake s = .next t) :
    Out dieResetOut s t := by
  have h := Host.Outcome.next.inj h; subst h; exact signalDetectWake_out  (Out.refl s) rfl

theorem execOpsecTick_out {s t : State} (h : execOpsecTick s = .next t) :
    Out [.w 22 8, .w 22 32, .p .inbox] s t := by
  have h := Host.Outcome.next.inj h; subst h; exact opsecTick_out  (Out.refl s) rfl

theorem execIdleTimer_out {s t : State} (h : execIdleTimer s = .next t) :
    Out arriveOut s t := by
  have h := Host.Outcome.next.inj h; subst h; exact idleTimer_out  (Out.refl s) rfl

theorem execWakeHoldExpiry_out (long : Bool) {s t : State} (h : execWakeHoldExpiry long s = .next t) :
    Out wakeHoldExpiryOut s t := by
  have h := Host.Outcome.next.inj h; subst h; exact wakeHoldExpiry_out _ (Out.refl s) rfl

theorem execPsEntryStep_out {s t : State} (h : execPsEntryStep s = .next t) :
    Out psBeginOut s t := by
  have h := Host.Outcome.next.inj h; subst h; exact psEntryStep_out  (Out.refl s) rfl

theorem execSsCsWake_out {s t : State} (h : execSsCsWake s = .next t) :
    Out dieResetOut s t := by
  have h := Host.Outcome.next.inj h; subst h; exact ssCsWake_out  (Out.refl s) rfl

theorem execSidebandWake_out {s t : State} (h : execSidebandWake s = .next t) :
    Out dieResetOut s t := by
  have h := Host.Outcome.next.inj h; subst h; exact sidebandWake_out  (Out.refl s) rfl

theorem execSensorSample_out (sensor : Fin 5) (raw : BitVec 16) {s t : State} (h : execSensorSample sensor raw s = .next t) :
    Out sensorSampleOut s t := by
  have h := Host.Outcome.next.inj h; subst h; exact sensorSample_out _ _ (Out.refl s) rfl

theorem execThermalRestart_out {s t : State} (h : execThermalRestart s = .next t) :
    Out dieResetOut s t := by
  have h := Host.Outcome.next.inj h; subst h; exact thermalRestart_out  (Out.refl s) rfl

theorem execThrottleStepUp_out (die : Fin 4) {s t : State} (h : execThrottleStepUp die s = .next t) :
    Out throttleStepUpOut s t := by
  have h := Host.Outcome.next.inj h; subst h; exact throttleStepUp_out _ (Out.refl s) rfl

theorem execThrottleStepDown_out (die : Fin 4) {s t : State} (h : execThrottleStepDown die s = .next t) :
    Out throttleStepDownOut s t := by
  have h := Host.Outcome.next.inj h; subst h; exact throttleStepDown_out _ (Out.refl s) rfl

theorem execThrottleAlternate_out {s t : State} (h : execThrottleAlternate s = .next t) :
    Out [.a 2 32 4, .w 23 19857408] s t := by
  have h := Host.Outcome.next.inj h; subst h; exact throttleAlternate_out  (Out.refl s) rfl

theorem execFabricPauseWindow_out {s t : State} (h : execFabricPauseWindow s = .next t) :
    Out [.w 1 19922944] s t := by
  have h := Host.Outcome.next.inj h; subst h; exact fabricPauseWindow_out  (Out.refl s) rfl

end Sys2Proof.Machine
end

