-- ==== Sys2Proof/Laws/OutRegisters.lean ====
section
/-!
SUPPORT. What each operation and each command of `Machine/Registers.lean` can change.
-/

namespace Sys2Proof.Machine

set_option Elab.async false
set_option linter.unusedVariables false

set_option maxRecDepth 8000
set_option linter.unusedTactic false
set_option linter.unreachableTactic false

variable {L₀ : List Key} {s₀ : State}

theorem enRes_out {x : State × Nat} (h₀ : Out L₀ s₀ x.1)
    (hL : Key.sub [] L₀ = true) :
    Out L₀ s₀ (enRes x).1 := by
  unfold enRes
  repeat'
    first
      | with_reducible assumption | exact Key.hasA rfl | exact Key.hasW | exact Out.sub hL rfl | intro _
      | with_reducible apply Out.ite | split | dsimp only [id_eq]
      | (rename_i e; with_reducible refine Out.of_eq e ?_)

theorem State.actRefuse_out {s : State} (a : Nat) (reason : Nat) (h₀ : Out L₀ s₀ s)
    (hL : Key.sub [.w 5 24, .w 5 28] L₀ = true) :
    Out L₀ s₀ (State.actRefuse s a reason).1 := by
  unfold State.actRefuse
  repeat'
    first
      | with_reducible assumption | with_reducible apply Out.put | exact Key.hasA rfl | exact Key.hasW
      | exact Out.sub hL rfl | (unfold achk; split) | intro _ | with_reducible apply Out.ite | split
      | dsimp only [id_eq] | (rename_i e; with_reducible refine Out.of_eq e ?_)

theorem State.actEn2_out {s : State} (w : World) (a : Nat) (h₀ : Out L₀ s₀ s)
    (hL : Key.sub [.w 5 24, .w 5 28, .w 9 8, .w 10 20, .w 10 24, .w 12 0, .w 12 4, .w 13 0, .w 13 4, .w 13 8, .w 13 2228224,
    .w 13 20250624, .w 14 0, .w 14 4, .w 14 8, .w 14 3211264, .w 14 3342336, .w 14 3407872, .w 14 3473408, .w 19 0,
    .w 19 4, .a 19 1441792 268435456, .p .win, .p .chn, .p .bstore, .p .pkt, .p .hbm, .p .poison] L₀ = true) :
    Out L₀ s₀ (State.actEn2 s w a).1 := by
  unfold State.actEn2
  repeat'
    first
      | with_reducible assumption | with_reducible apply State.actRefuse_out | with_reducible apply Out.put
      | with_reducible apply State.tfhPass_out | with_reducible apply State.tfhEnable_out
      | with_reducible apply State.srvEnable_out | with_reducible apply State.seqEnable_out
      | with_reducible apply State.chnEnable_out | exact Key.hasA rfl | exact Key.hasW | exact Out.sub hL rfl
      | intro _ | with_reducible apply Out.ite | split | dsimp only [id_eq]
      | (rename_i e; with_reducible refine Out.of_eq e ?_)

theorem State.actEn_out {s : State} (w : World) (a : Nat) (h₀ : Out L₀ s₀ s)
    (hL : Key.sub [.w 5 24, .w 5 28, .w 9 8, .w 10 20, .w 10 24, .w 12 0, .w 12 4, .w 13 0, .w 13 4, .w 13 8, .w 13 2228224,
    .w 13 20250624, .w 14 0, .w 14 4, .w 14 8, .w 14 3211264, .w 14 3342336, .w 14 3407872, .w 14 3473408, .w 18 0,
    .w 18 4, .w 18 8, .w 18 262144, .w 18 327680, .w 18 851968, .w 19 0, .w 19 4, .a 19 1441792 268435456, .p .win,
    .p .chn, .p .bstore, .p .pkt, .p .hbm, .p .poison] L₀ = true) :
    Out L₀ s₀ (State.actEn s w a).1 := by
  unfold State.actEn
  repeat'
    first
      | with_reducible assumption | with_reducible apply State.actRefuse_out
      | with_reducible apply State.sptEnable_out | with_reducible apply State.actEn2_out | exact Key.hasA rfl
      | exact Key.hasW | exact Out.sub hL rfl | intro _ | with_reducible apply Out.ite | split | dsimp only [id_eq]
      | (rename_i e; with_reducible refine Out.of_eq e ?_)

theorem State.sptDisable_out {s : State} (a : Nat) (h₀ : Out L₀ s₀ s)
    (hL : Key.sub [.w 18 0, .w 18 8, .w 18 851968] L₀ = true) :
    Out L₀ s₀ (State.sptDisable s a) := by
  unfold State.sptDisable
  repeat'
    first
      | with_reducible assumption | with_reducible apply Out.puts_nil | with_reducible apply Out.puts_cons
      | with_reducible apply Out.put | exact Key.hasA rfl | exact Key.hasW | exact Out.sub hL rfl | intro _
      | with_reducible apply Out.ite | split | dsimp only [id_eq]
      | (rename_i e; with_reducible refine Out.of_eq e ?_)

theorem State.tfhDisable_out {s : State} (h₀ : Out L₀ s₀ s)
    (hL : Key.sub [.w 19 0, .a 19 1441792 268435456] L₀ = true) :
    Out L₀ s₀ (State.tfhDisable s) := by
  unfold State.tfhDisable
  repeat'
    first
      | with_reducible assumption | with_reducible apply Out.forAll | with_reducible apply Out.put
      | exact Key.hasA rfl | exact Key.hasW | exact Out.sub hL rfl | intro _ | with_reducible apply Out.ite | split
      | dsimp only [id_eq] | (rename_i e; with_reducible refine Out.of_eq e ?_)

theorem State.actClear_out {s : State} (a : Nat) (h₀ : Out L₀ s₀ s)
    (hL : Key.sub [.a 2 32 4, .w 11 8, .w 11 12, .w 11 84, .w 12 0, .w 12 8, .w 13 0, .w 13 8, .w 13 12, .w 13 76, .w 13 1572864,
    .w 13 2359296, .w 13 2424832, .w 13 20250624, .w 14 0, .w 14 8, .w 14 12, .w 14 24, .w 14 84, .w 14 3211264,
    .w 14 3342336, .w 14 3407872, .w 14 3473408, .w 14 3538944, .w 14 3932160, .w 14 3997696, .w 14 4063232,
    .w 14 4128768, .w 14 4259840, .w 14 4325376, .w 14 21692416, .w 14 21757952, .w 14 22675456, .w 18 0, .w 18 8,
    .w 18 12, .w 18 72, .w 18 786432, .w 18 851968, .w 18 20578304, .w 19 0, .w 19 16, .a 19 1310720 268435456,
    .a 19 1376256 268435456, .a 19 1441792 268435456, .a 19 22413312 268435456, .a 19 22478848 268435456, .p .edges,
    .p .inbox, .p .chn, .p .seqs, .p .pa] L₀ = true) :
    Out L₀ s₀ (State.actClear s a) := by
  unfold State.actClear
  repeat'
    first
      | with_reducible assumption | with_reducible apply State.sptDisable_out
      | with_reducible apply State.srvDisable_out | with_reducible apply State.seqDisable_out
      | with_reducible apply Out.put | with_reducible apply State.tfhDisable_out | exact Key.hasA rfl
      | exact Key.hasW | exact Out.sub hL rfl | intro _ | with_reducible apply Out.ite | split | dsimp only [id_eq]
      | (rename_i e; with_reducible refine Out.of_eq e ?_)

theorem State.actDis_out {s : State} (w : World) (a : Nat) (h₀ : Out L₀ s₀ s)
    (hL : Key.sub [.a 2 32 4, .w 11 8, .w 11 12, .w 11 84, .w 12 0, .w 12 8, .w 13 0, .w 13 8, .w 13 12, .w 13 76, .w 13 1572864,
    .w 13 2359296, .w 13 2424832, .w 13 20250624, .w 14 0, .w 14 8, .w 14 12, .w 14 24, .w 14 84, .w 14 3211264,
    .w 14 3342336, .w 14 3407872, .w 14 3473408, .w 14 3538944, .w 14 3932160, .w 14 3997696, .w 14 4063232,
    .w 14 4128768, .w 14 4194304, .w 14 4259840, .w 14 4325376, .w 14 4784128, .w 14 21692416, .w 14 21757952,
    .w 14 22675456, .w 14 22806528, .w 18 0, .w 18 8, .w 18 12, .w 18 72, .w 18 786432, .w 18 851968,
    .w 18 20578304, .w 19 0, .w 19 12, .w 19 16, .w 19 1114112, .w 19 1179648, .a 19 1310720 268435456,
    .a 19 1376256 268435456, .a 19 1441792 268435456, .a 19 22413312 268435456, .a 19 22478848 268435456, .p .edges,
    .p .inbox, .p .chn, .p .seqs, .p .pa, .p .jq, .p .jact] L₀ = true) :
    Out L₀ s₀ (State.actDis s w a).1 := by
  unfold State.actDis
  repeat'
    first
      | with_reducible assumption | with_reducible apply State.unloadRequest_out
      | with_reducible apply State.actClear_out | exact Key.hasA rfl | exact Key.hasW | exact Out.sub hL rfl
      | intro _ | with_reducible apply Out.ite | split | dsimp only [id_eq]
      | (rename_i e; with_reducible refine Out.of_eq e ?_)

theorem State.enSet_out {s : State} (w : World) (blk : Nat) (sel : Nat) (i : Nat) (h₀ : Out L₀ s₀ s)
    (hL : Key.sub [.w 1 0, .w 1 4, .w 1 8, .w 2 0, .w 2 4, .a 2 32 4, .w 5 24, .w 5 28, .w 6 0, .w 6 4, .w 7 0, .w 7 4, .w 7 8,
    .w 7 12, .w 7 20, .w 7 24, .w 7 28, .w 7 17956864, .w 8 8, .w 9 8, .w 10 0, .w 10 4, .w 10 20, .w 10 24,
    .w 11 0, .w 11 4, .w 11 8, .w 11 12, .a 11 32 4, .a 11 48 4, .w 11 84, .w 12 0, .w 12 4, .w 12 8, .w 13 0,
    .w 13 4, .w 13 8, .w 13 12, .w 13 76, .w 13 1572864, .w 13 2228224, .w 13 2359296, .w 13 2424832,
    .w 13 20250624, .w 14 0, .w 14 4, .w 14 8, .w 14 12, .w 14 24, .w 14 84, .w 14 3211264, .w 14 3342336,
    .w 14 3407872, .w 14 3473408, .w 14 3538944, .w 14 4128768, .w 14 4194304, .w 14 4259840, .w 14 4325376,
    .w 14 4784128, .w 14 21692416, .w 14 21757952, .w 14 22675456, .w 14 22806528, .w 15 0, .w 15 4, .w 15 8,
    .a 15 7077888 268435456, .w 15 7798784, .a 15 8454144 268435456, .a 15 21364736 268435456,
    .a 15 21889024 268435456, .a 15 22872064 268435456, .w 16 0, .w 16 4, .w 16 8, .w 16 12, .w 16 6094848,
    .w 16 8519680, .w 16 8585216, .w 16 8912896, .w 16 8978432, .w 16 9240576, .w 16 9306112, .w 16 9502720,
    .w 16 9568256, .w 16 9699328, .w 16 9764864, .w 16 9895936, .w 16 9961472, .w 16 10027008, .w 16 10092544,
    .w 16 10158080, .w 16 10223616, .w 16 10551296, .w 16 10878976, .w 16 10944512, .w 16 22937600, .w 16 23068672,
    .w 16 23724032, .w 16 23789568, .w 16 23855104, .w 16 24051712, .w 16 24379392, .w 16 24444928, .w 17 0,
    .w 17 4, .w 17 8, .w 17 12058624, .w 17 13107200, .w 17 13762560, .w 17 24510464, .w 18 0, .w 18 4, .w 18 8,
    .w 18 12, .w 18 72, .w 18 262144, .w 18 327680, .w 18 786432, .w 18 851968, .w 18 20578304, .w 19 0, .w 19 4,
    .w 19 12, .w 19 16, .w 19 1114112, .w 19 1179648, .a 19 1310720 268435456, .a 19 1376256 268435456,
    .a 19 1441792 268435456, .a 19 22413312 268435456, .a 19 22478848 268435456, .w 21 0, .w 21 4, .w 21 8,
    .w 21 14876672, .w 21 14942208, .a 65 5242880 268435456, .a 65 5701632 268435456, .w 66 5046272, .p .win,
    .p .free, .p .edges, .p .inbox, .p .chn, .p .seqs, .p .bstore, .p .pa, .p .jq, .p .jact, .p .fmt, .p .nss,
    .p .zones, .p .bands, .p .loops, .p .tstk, .p .tshd, .p .tshr, .p .tscrub, .p .cstore, .p .cog, .p .spn,
    .p .sup, .p .pkt, .p .hbm, .p .poison, .p .members, .p .altered, .p .weakSlots] L₀ = true) :
    Out L₀ s₀ (State.enSet s w blk sel i).1 := by
  unfold State.enSet
  repeat'
    first
      | with_reducible assumption | with_reducible apply enRes_out | with_reducible apply State.fabEnable_out
      | with_reducible apply State.cmdEnable_out | with_reducible apply State.actEn_out
      | with_reducible apply State.truEnable_out | with_reducible apply State.pwkAct_out
      | with_reducible apply State.pktEnable_out | with_reducible apply State.mmgEnable_out
      | with_reducible apply State.fmtCommit_out | with_reducible apply State.chnEnable_out
      | with_reducible apply State.seqEnable_out | with_reducible apply State.srvEnable_out
      | with_reducible apply State.trzEnable_out | with_reducible apply State.crlEnable_out
      | with_reducible apply State.stmEnable_out | with_reducible apply State.sptEnable_out
      | with_reducible apply State.tfhEnable_out | with_reducible apply State.sntEnable_out | exact Key.hasA rfl
      | exact Key.hasW | exact Out.sub hL rfl | intro _ | with_reducible apply Out.ite | split | dsimp only [id_eq]
      | (rename_i e; with_reducible refine Out.of_eq e ?_)

theorem State.enClear_out {s : State} (w : World) (blk : Nat) (sel : Nat) (i : Nat) (h₀ : Out L₀ s₀ s)
    (hL : Key.sub [.all, .p .win, .p .edges, .p .inbox, .p .chn, .p .seqs, .p .pa, .p .jq, .p .jact, .p .loops, .p .cands,
    .p .authFail, .p .proposal] L₀ = true) :
    Out L₀ s₀ (State.enClear s w blk sel i).1 := by
  unfold State.enClear
  repeat'
    first
      | with_reducible assumption | with_reducible apply State.fabDisable_out | with_reducible apply State.actDis_out
      | with_reducible apply State.pwkClear_out | with_reducible apply State.pktDisable_out
      | with_reducible apply State.mmgDisable_out | with_reducible apply State.fmtUncommit_out
      | with_reducible apply State.seqDisable_out | with_reducible apply State.srvDisable_out
      | with_reducible apply State.trzDisable_out | with_reducible apply State.crlDisable_out
      | with_reducible apply State.stmDisable_out | with_reducible apply State.sptDisable_out
      | with_reducible apply State.tfhDisable_out | with_reducible apply Out.put | exact Key.hasA rfl
      | exact Key.hasW | exact Out.sub hL rfl | intro _ | with_reducible apply Out.ite | split | dsimp only [id_eq]
      | (rename_i e; with_reducible refine Out.of_eq e ?_)

/-- What `State.enWrite` may change. -/
def enWriteOut : List Key :=
  [.all, .p .win, .p .free, .p .edges, .p .inbox, .p .chn, .p .seqs, .p .bstore,
    .p .pa, .p .jq, .p .jact, .p .fmt, .p .nss, .p .zones, .p .bands, .p .loops, .p .tstk, .p .tshd, .p .tshr,
    .p .tscrub, .p .cstore, .p .cog, .p .spn, .p .sup, .p .pkt, .p .hbm, .p .poison, .p .members, .p .cands,
    .p .authFail, .p .proposal, .p .altered, .p .weakSlots]

theorem State.enWrite_out {s : State} (w : World) (blk : Nat) (sel : Nat) (i : Nat) (v : Bool) (h₀ : Out L₀ s₀ s)
    (hL : Key.sub enWriteOut L₀ = true) :
    Out L₀ s₀ (State.enWrite s w blk sel i v).1 := by
  unfold State.enWrite
  repeat'
    first
      | with_reducible assumption | with_reducible apply State.enSet_out | with_reducible apply State.enClear_out
      | exact Key.hasA rfl | exact Key.hasW | exact Out.sub hL rfl | intro _ | with_reducible apply Out.ite | split
      | dsimp only [id_eq] | (rename_i e; with_reducible refine Out.of_eq e ?_)

/-- What `State.enResume` may change. -/
def enResumeOut : List Key :=
  [.a 2 32 4, .w 5 24, .w 5 28, .w 9 8, .w 10 20, .w 10 24, .w 11 8, .w 11 12,
    .w 11 84, .w 12 0, .w 12 4, .w 12 8, .w 13 0, .w 13 4, .w 13 8, .w 13 12, .w 13 76, .w 13 1572864,
    .w 13 2228224, .w 13 2359296, .w 13 2424832, .w 13 20250624, .w 14 0, .w 14 4, .w 14 8, .w 14 12, .w 14 24,
    .w 14 84, .w 14 3211264, .w 14 3342336, .w 14 3407872, .w 14 3473408, .w 14 3538944, .w 14 3932160,
    .w 14 3997696, .w 14 4063232, .w 14 4128768, .w 14 4259840, .w 14 4325376, .w 14 21692416, .w 14 21757952,
    .w 14 22675456, .w 18 0, .w 18 8, .w 18 12, .w 18 72, .w 18 786432, .w 18 851968, .w 18 20578304, .w 19 0,
    .w 19 4, .w 19 16, .a 19 1310720 268435456, .a 19 1376256 268435456, .a 19 1441792 268435456,
    .a 19 22413312 268435456, .a 19 22478848 268435456, .p .win, .p .edges, .p .inbox, .p .chn, .p .seqs,
    .p .bstore, .p .pa, .p .pkt, .p .hbm, .p .poison]

theorem State.enResume_out {s : State} (w : World) (blk : Nat) (i : Nat) (v : Bool) (h₀ : Out L₀ s₀ s)
    (hL : Key.sub enResumeOut L₀ = true) :
    Out L₀ s₀ (State.enResume s w blk i v).1 := by
  unfold State.enResume
  repeat'
    first
      | with_reducible assumption | with_reducible apply State.actEn2_out | with_reducible apply State.actClear_out
      | exact Key.hasA rfl | exact Key.hasW | exact Out.sub hL rfl | intro _ | with_reducible apply Out.ite | split
      | dsimp only [id_eq] | (rename_i e; with_reducible refine Out.of_eq e ?_)

theorem State.putField_out (blk inst off v hw : Nat) (r : RegRow) {s : State} (h₀ : Out L₀ s₀ s) (hL : Key.sub [.all] L₀ = true) :
    Out L₀ s₀ (State.putField s blk inst off v hw r) := by
  unfold State.putField
  dsimp only
  split
  · exact Out.put _ _ h₀ (n := .all) trivial hL
  · exact Out.put _ _ h₀ (n := .all) trivial hL
  · exact Out.put _ _ h₀ (n := .all) trivial hL
  · exact h₀

theorem State.putWord_out {s : State} (blk : Nat) (inst : Nat) (off : Nat) (v : Nat) (hw : Nat) (skip : List Nat) (h₀ : Out L₀ s₀ s)
    (hL : Key.sub [.all, .p .edges] L₀ = true) :
    Out L₀ s₀ (State.putWord s blk inst off v hw skip) := by
  unfold State.putWord
  repeat'
    first
      | with_reducible assumption | with_reducible apply Out.watch | with_reducible apply Out.forAll
      | with_reducible apply State.putField_out | exact Key.hasA rfl | exact Key.hasW | exact Out.sub hL rfl
      | intro _ | with_reducible apply Out.ite | split | dsimp only [id_eq]
      | (rename_i e; with_reducible refine Out.of_eq e ?_)

theorem stRes_out {x : State × Nat} (h₀ : Out L₀ s₀ x.1)
    (hL : Key.sub [] L₀ = true) :
    Out L₀ s₀ (stRes x).1 := by
  unfold stRes
  repeat'
    first
      | with_reducible assumption | exact Key.hasA rfl | exact Key.hasW | exact Out.sub hL rfl | intro _
      | with_reducible apply Out.ite | split | dsimp only [id_eq]
      | (rename_i e; with_reducible refine Out.of_eq e ?_)

/-- What `State.regWrite` may change. -/
def regWriteOut : List Key :=
  [.all, .p .win, .p .free, .p .edges, .p .inbox, .p .chn, .p .seqs, .p .bstore,
    .p .mcache, .p .pa, .p .jq, .p .jact, .p .jobNo, .p .fmt, .p .cmds, .p .cqs, .p .ctrls, .p .nss, .p .zones,
    .p .bands, .p .vol, .p .points, .p .mops, .p .opid, .p .journal, .p .jseq, .p .demands, .p .tstore, .p .amps,
    .p .loops, .p .tstk, .p .tshd, .p .tshr, .p .tscrub, .p .cstore, .p .cog, .p .spn, .p .sup, .p .blks, .p .fops,
    .p .fwait, .p .fread, .p .errlog, .p .held, .p .pkt, .p .hbm, .p .poison, .p .lost, .p .kvLog, .p .members,
    .p .cands, .p .authFail, .p .proposal, .p .stripes, .p .altered, .p .weakSlots]

theorem State.regWrite_out {s : State} (mb : Nat) (w : World) (blk : Nat) (inst : Nat) (off : Nat) (v : Nat) (h₀ : Out L₀ s₀ s)
    (hL : Key.sub regWriteOut L₀ = true) :
    Out L₀ s₀ (State.regWrite s mb w blk inst off v).1 := by
  unfold State.regWrite
  repeat'
    first
      | with_reducible assumption | with_reducible apply State.putWord_out | with_reducible apply State.enWrite_out
      | with_reducible apply State.enSet_out | with_reducible apply Out.counterClear
      | with_reducible apply State.putWin_out | with_reducible apply State.putTable_out
      | with_reducible apply State.setPortDis_out | with_reducible apply State.setFetchHold_out
      | with_reducible apply hiwatClr_out | with_reducible apply State.setRate_out | with_reducible apply Out.put
      | with_reducible apply stRes_out | with_reducible apply State.pktRange_out | with_reducible apply Out.when
      | with_reducible apply State.altResume_out | with_reducible apply State.checkSpare_out
      | with_reducible apply rdAbort_out | with_reducible apply replayHold_out
      | with_reducible apply State.ofsWrite_out | with_reducible apply spOvr_out | with_reducible apply stmResume_out
      | with_reducible apply State.maClear_out | with_reducible apply State.measGo11_out
      | with_reducible apply wrInh_out | with_reducible apply State.measGo_out | with_reducible apply hdwpClear_out
      | with_reducible apply touchdownAbort_out | with_reducible apply State.tdGo_out
      | with_reducible apply State.setHold_out | with_reducible apply Out.putB
      | with_reducible apply State.sntKick_out | with_reducible apply State.traceGo_out
      | with_reducible apply State.clpSrcWrite_out | with_reducible apply State.clpClaim_out
      | with_reducible apply State.clpDone_out | exact Key.hasA rfl | exact Key.hasW | exact Out.sub hL rfl | intro _
      | with_reducible apply Out.ite | split | dsimp only [id_eq]
      | (rename_i e; with_reducible refine Out.of_eq e ?_)

theorem State.wrResume_out {s : State} (w : World) (blk : Nat) (inst : Nat) (off : Nat) (h₀ : Out L₀ s₀ s)
    (hL : Key.sub enResumeOut L₀ = true) :
    Out L₀ s₀ (State.wrResume s w blk inst off).1 := by
  unfold State.wrResume
  repeat'
    first
      | with_reducible assumption | with_reducible apply State.enResume_out | exact Key.hasA rfl | exact Key.hasW
      | exact Out.sub hL rfl | intro _ | with_reducible apply Out.ite | split | dsimp only [id_eq]
      | (rename_i e; with_reducible refine Out.of_eq e ?_)

/-- What `State.shadowWrite` may change. -/
def shadowWriteOut : List Key :=
  [.all, .p .win, .p .free, .p .edges, .p .inbox, .p .chn, .p .seqs, .p .bstore,
    .p .mcache, .p .pa, .p .jq, .p .jact, .p .jobNo, .p .fmt, .p .cmds, .p .cqs, .p .ctrls, .p .nss, .p .zones,
    .p .bands, .p .vol, .p .points, .p .mops, .p .opid, .p .journal, .p .jseq, .p .demands, .p .tstore, .p .amps,
    .p .loops, .p .tstk, .p .tshd, .p .tshr, .p .tscrub, .p .cstore, .p .cog, .p .spn, .p .sup, .p .blks, .p .fops,
    .p .fwait, .p .fread, .p .errlog, .p .held, .p .pkt, .p .hbm, .p .poison, .p .lost, .p .kvLog, .p .members,
    .p .cands, .p .authFail, .p .proposal, .p .stripes, .p .altered, .p .weakSlots, .p .shadow]

theorem State.shadowWrite_out {s : State} (no : Nat) (mb : Nat) (w : World) (blk : Nat) (inst : Nat) (off : Nat) (v : Nat) (h₀ : Out L₀ s₀ s)
    (hL : Key.sub shadowWriteOut L₀ = true) :
    Out L₀ s₀ (State.shadowWrite s no mb w blk inst off v).1 := by
  unfold State.shadowWrite
  repeat'
    first
      | with_reducible assumption | with_reducible apply State.regWrite_out | exact Key.hasA rfl | exact Key.hasW
      | exact Out.sub hL rfl | intro _ | with_reducible apply Out.ite | split | dsimp only [id_eq]
      | (rename_i e; with_reducible refine Out.of_eq e ?_) | with_reducible apply Out.setShadow

theorem State.groupWrite_out (no mb : Nat) (w : World) (blk off v : Nat) : ∀ (l : List Nat) {s : State}, Out L₀ s₀ s →
    Key.sub shadowWriteOut L₀ = true → Out L₀ s₀ (State.groupWrite s no mb w blk off v l).1
  | [], _, h, _ => h
  | i :: l, s, h, hL => by
    have g : Out L₀ s₀ (s.shadowWrite no mb w blk i off v).1 := State.shadowWrite_out no mb w blk i off v h (Out.sub hL rfl)
    unfold State.groupWrite
    split
    · exact Out.of_eq (by assumption) g
    · exact State.groupWrite_out no mb w blk off v l (Out.of_eq (by assumption) g) hL

theorem State.runEntry_out {s : State} (no : Nat) (mb : Nat) (w : World) (e : Nat × Nat × Nat) (h₀ : Out L₀ s₀ s)
    (hL : Key.sub shadowWriteOut L₀ = true) :
    Out L₀ s₀ (State.runEntry s no mb w e).1 := by
  unfold State.runEntry
  repeat'
    first
      | with_reducible assumption | with_reducible apply State.groupWrite_out
      | with_reducible apply State.regWrite_out | exact Key.hasA rfl | exact Key.hasW | exact Out.sub hL rfl
      | intro _ | with_reducible apply Out.ite | split | dsimp only [id_eq]
      | (rename_i e; with_reducible refine Out.of_eq e ?_)

theorem State.onReq_out {s : State} (rq : ReqId) (op : Nat) (f : Req → State → State) (h₀ : Out L₀ s₀ s) (hF_f : ∀ x0 u, Out L₀ s₀ u → Out L₀ s₀ (f x0 u))
    (hL : Key.sub [] L₀ = true) :
    Out L₀ s₀ (State.onReq s rq op f) := by
  unfold State.onReq
  repeat'
    first
      | with_reducible assumption | with_reducible apply hF_f | exact Key.hasA rfl | exact Key.hasW
      | exact Out.sub hL rfl | intro _ | with_reducible apply Out.ite | split | dsimp only [id_eq]
      | (rename_i e; with_reducible refine Out.of_eq e ?_)

theorem State.setWork_out {s : State} (k : Work) (h₀ : Out L₀ s₀ s)
    (hL : Key.sub [.p .works] L₀ = true) :
    Out L₀ s₀ (State.setWork s k) := by
  unfold State.setWork
  repeat'
    first
      | with_reducible assumption | exact Key.hasA rfl | exact Key.hasW | exact Out.sub hL rfl | intro _
      | with_reducible apply Out.ite | split | dsimp only [id_eq]
      | (rename_i e; with_reducible refine Out.of_eq e ?_) | with_reducible apply Out.setWorks

theorem State.respondW_out {s : State} (no : Nat) (x : Rsp) (h₀ : Out L₀ s₀ s)
    (hL : Key.sub [.p .reqs] L₀ = true) :
    Out L₀ s₀ (State.respondW s no x) := by
  unfold State.respondW
  repeat'
    first
      | with_reducible assumption | with_reducible apply State.updReq_out | with_reducible apply State.respond_out
      | exact Key.hasA rfl | exact Key.hasW | exact Out.sub hL rfl | intro _ | with_reducible apply Out.ite | split
      | dsimp only [id_eq] | (rename_i e; with_reducible refine Out.of_eq e ?_)

theorem State.enStep_out {s : State} (blk : Nat) (sel : Nat) (v : Bool) (first : Bool) (k : Work) (h₀ : Out L₀ s₀ s)
    (hL : Key.sub enWriteOut L₀ = true) :
    Out L₀ s₀ (State.enStep s blk sel v first k).1 := by
  unfold State.enStep
  repeat'
    first
      | with_reducible assumption | with_reducible apply State.enWrite_out | with_reducible apply State.enResume_out
      | with_reducible apply Out.foldl | with_reducible apply Out.foldlFst | exact Key.hasA rfl | exact Key.hasW
      | exact Out.sub hL rfl | intro _ | with_reducible apply Out.ite | split | dsimp only [id_eq]
      | (rename_i e; with_reducible refine Out.of_eq e ?_)

/-- What `State.enGo` may change. -/
def enGoOut : List Key :=
  [.all, .p .win, .p .free, .p .edges, .p .inbox, .p .chn, .p .seqs, .p .bstore, .p .pa,
    .p .jq, .p .jact, .p .fmt, .p .nss, .p .zones, .p .bands, .p .loops, .p .tstk, .p .tshd, .p .tshr, .p .tscrub,
    .p .cstore, .p .cog, .p .spn, .p .sup, .p .reqs, .p .pkt, .p .hbm, .p .poison, .p .members, .p .cands,
    .p .authFail, .p .proposal, .p .works, .p .altered, .p .weakSlots]

theorem State.enGo_out {s : State} (r : Req) (first : Bool) (k : Work) (h₀ : Out L₀ s₀ s)
    (hL : Key.sub enGoOut L₀ = true) :
    Out L₀ s₀ (State.enGo s r first k) := by
  unfold State.enGo
  repeat'
    first
      | with_reducible assumption | with_reducible apply State.enStep_out | with_reducible apply State.setWork_out
      | with_reducible apply State.respond_out | exact Key.hasA rfl | exact Key.hasW | exact Out.sub hL rfl | intro _
      | with_reducible apply Out.ite | split | dsimp only [id_eq]
      | (rename_i e; with_reducible refine Out.of_eq e ?_)

theorem enableCmd_out (rq : ReqId) (w : World) {s : State} (h₀ : Out L₀ s₀ s)
    (hL : Key.sub enGoOut L₀ = true) :
    Out L₀ s₀ (enableCmd rq w s) := by
  unfold enableCmd
  repeat'
    first
      | with_reducible assumption | with_reducible apply State.onReq_out | with_reducible apply State.respond_out
      | with_reducible apply State.enGo_out | exact Key.hasA rfl | exact Key.hasW | exact Out.sub hL rfl | intro _
      | with_reducible apply Out.ite | split | dsimp only [id_eq]
      | (rename_i e; with_reducible refine Out.of_eq e ?_)

theorem enableState_out (rq : ReqId) {s : State} (h₀ : Out L₀ s₀ s)
    (hL : Key.sub [.p .reqs] L₀ = true) :
    Out L₀ s₀ (enableState rq s) := by
  unfold enableState
  repeat'
    first
      | with_reducible assumption | with_reducible apply State.serve_out | with_reducible apply Out.foldl
      | with_reducible apply Out.foldlFst | exact Key.hasA rfl | exact Key.hasW | exact Out.sub hL rfl | intro _
      | with_reducible apply Out.ite | split | dsimp only [id_eq]
      | (rename_i e; with_reducible refine Out.of_eq e ?_)

theorem State.wrDone_out {s : State} (r : Req) (k : Nat) (st : Nat) (reason : Nat) (h₀ : Out L₀ s₀ s)
    (hL : Key.sub [.p .reqs] L₀ = true) :
    Out L₀ s₀ (State.wrDone s r k st reason) := by
  unfold State.wrDone
  repeat'
    first
      | with_reducible assumption | with_reducible apply State.respondW_out | exact Key.hasA rfl | exact Key.hasW
      | exact Out.sub hL rfl | intro _ | with_reducible apply Out.ite | split | dsimp only [id_eq]
      | (rename_i e; with_reducible refine Out.of_eq e ?_)

/-- What `State.wrGo` may change. -/
def wrGoOut : List Key :=
  [.all, .p .win, .p .free, .p .edges, .p .inbox, .p .chn, .p .seqs, .p .bstore,
    .p .mcache, .p .pa, .p .jq, .p .jact, .p .jobNo, .p .fmt, .p .cmds, .p .cqs, .p .ctrls, .p .nss, .p .zones,
    .p .bands, .p .vol, .p .points, .p .mops, .p .opid, .p .journal, .p .jseq, .p .demands, .p .tstore, .p .amps,
    .p .loops, .p .tstk, .p .tshd, .p .tshr, .p .tscrub, .p .cstore, .p .cog, .p .spn, .p .sup, .p .blks, .p .fops,
    .p .fwait, .p .fread, .p .errlog, .p .reqs, .p .held, .p .pkt, .p .hbm, .p .poison, .p .lost, .p .kvLog,
    .p .members, .p .cands, .p .authFail, .p .proposal, .p .stripes, .p .works, .p .altered, .p .weakSlots,
    .p .shadow]

theorem State.wrGo_out (r : Req) (w : World) (l : List Nat) : ∀ {s : State}, Out L₀ s₀ s →
    Key.sub wrGoOut L₀ = true → Out L₀ s₀ (State.wrGo s r w l) := by
  induction l with
  | nil => intro s h hL; exact State.wrDone_out r _ 0 0 h (Out.sub hL rfl)
  | cons k l ih =>
    intro s h hL
    have hk := State.runEntry_out r.no r.mb { w with hw := w.hw.drop k } (r.entries.getD k (0, 0, 0)) h (Out.sub hL rfl)
    unfold State.wrGo
    split
    · exact ih (Out.of_eq (by assumption) hk) hL
    · exact State.wrDone_out r _ _ _ (Out.of_eq (by assumption) hk) (Out.sub hL rfl)
    · exact State.setWork_out _ (Out.of_eq (by assumption) hk) (Out.sub hL rfl)

theorem State.wrBegin_out {s : State} (r : Req) (w : World) (h₀ : Out L₀ s₀ s)
    (hL : Key.sub wrGoOut L₀ = true) :
    Out L₀ s₀ (State.wrBegin s r w) := by
  unfold State.wrBegin
  repeat'
    first
      | with_reducible assumption | with_reducible apply State.wrDone_out | with_reducible apply State.wrGo_out
      | exact Key.hasA rfl | exact Key.hasW | exact Out.sub hL rfl | intro _ | with_reducible apply Out.ite | split
      | dsimp only [id_eq] | (rename_i e; with_reducible refine Out.of_eq e ?_)

theorem regWriteCmd_out (rq : ReqId) (w : World) {s : State} (h₀ : Out L₀ s₀ s)
    (hL : Key.sub wrGoOut L₀ = true) :
    Out L₀ s₀ (regWriteCmd rq w s) := by
  unfold regWriteCmd
  repeat'
    first
      | with_reducible assumption | with_reducible apply State.onReq_out | with_reducible apply State.respond_out
      | with_reducible apply State.wrBegin_out | exact Key.hasA rfl | exact Key.hasW | exact Out.sub hL rfl | intro _
      | with_reducible apply Out.ite | split | dsimp only [id_eq]
      | (rename_i e; with_reducible refine Out.of_eq e ?_)

theorem regWriteBlock_out (rq : ReqId) (w : World) {s : State} (h₀ : Out L₀ s₀ s)
    (hL : Key.sub wrGoOut L₀ = true) :
    Out L₀ s₀ (regWriteBlock rq w s) := by
  unfold regWriteBlock
  repeat'
    first
      | with_reducible assumption | with_reducible apply State.onReq_out | with_reducible apply State.respond_out
      | with_reducible apply State.wrDone_out | with_reducible apply State.wrBegin_out | exact Key.hasA rfl
      | exact Key.hasW | exact Out.sub hL rfl | intro _ | with_reducible apply Out.ite | split | dsimp only [id_eq]
      | (rename_i e; with_reducible refine Out.of_eq e ?_)

theorem regReadCmd_out (rq : ReqId) {s : State} (h₀ : Out L₀ s₀ s)
    (hL : Key.sub [.p .reqs] L₀ = true) :
    Out L₀ s₀ (regReadCmd rq s) := by
  unfold regReadCmd
  repeat'
    first
      | with_reducible assumption | with_reducible apply State.serve_out | exact Key.hasA rfl | exact Key.hasW
      | exact Out.sub hL rfl | intro _ | with_reducible apply Out.ite | split | dsimp only [id_eq]
      | (rename_i e; with_reducible refine Out.of_eq e ?_)

theorem regReadBlock_out (rq : ReqId) {s : State} (h₀ : Out L₀ s₀ s)
    (hL : Key.sub [.p .reqs] L₀ = true) :
    Out L₀ s₀ (regReadBlock rq s) := by
  unfold regReadBlock
  repeat'
    first
      | with_reducible assumption | with_reducible apply State.serve_out | exact Key.hasA rfl | exact Key.hasW
      | exact Out.sub hL rfl | intro _ | with_reducible apply Out.ite | split | dsimp only [id_eq]
      | (rename_i e; with_reducible refine Out.of_eq e ?_)

theorem registerWrite_out (sender : Fin 64) (blk : Fin 256) (inst : Fin 40) (off : Fin 65536) (v : BitVec 32) (w : World) {s : State} (h₀ : Out L₀ s₀ s)
    (hL : Key.sub regWriteOut L₀ = true) :
    Out L₀ s₀ (registerWrite sender blk inst off v w s) := by
  unfold registerWrite
  repeat'
    first
      | with_reducible assumption | with_reducible apply State.regWrite_out | exact Key.hasA rfl | exact Key.hasW
      | exact Out.sub hL rfl | intro _ | with_reducible apply Out.ite | split | dsimp only [id_eq]
      | (rename_i e; with_reducible refine Out.of_eq e ?_)

theorem State.commitOne_out {s : State} (hw : List (BitVec 32)) (h : Shadow) (h₀ : Out L₀ s₀ s)
    (hL : Key.sub [.all, .p .win, .p .free, .p .edges, .p .inbox, .p .chn, .p .seqs, .p .bstore, .p .mcache, .p .pa, .p .jq, .p .jact,
    .p .jobNo, .p .fmt, .p .cmds, .p .cqs, .p .ctrls, .p .nss, .p .zones, .p .bands, .p .vol, .p .points, .p .mops,
    .p .opid, .p .journal, .p .jseq, .p .demands, .p .tstore, .p .amps, .p .loops, .p .tstk, .p .tshd, .p .tshr,
    .p .tscrub, .p .cstore, .p .cog, .p .spn, .p .sup, .p .blks, .p .fops, .p .fwait, .p .fread, .p .errlog,
    .p .reqs, .p .held, .p .pkt, .p .hbm, .p .poison, .p .lost, .p .kvLog, .p .members, .p .cands, .p .authFail,
    .p .proposal, .p .stripes, .p .altered, .p .weakSlots] L₀ = true) :
    Out L₀ s₀ (State.commitOne s hw h) := by
  unfold State.commitOne
  repeat'
    first
      | with_reducible assumption | with_reducible apply State.regWrite_out | with_reducible apply State.updReq_out
      | exact Key.hasA rfl | exact Key.hasW | exact Out.sub hL rfl | intro _ | with_reducible apply Out.ite | split
      | dsimp only [id_eq] | (rename_i e; with_reducible refine Out.of_eq e ?_)

/-- What `shadowCommit` may change. -/
def shadowCommitOut : List Key :=
  [.all, .p .win, .p .free, .p .edges, .p .inbox, .p .chn, .p .seqs, .p .bstore,
    .p .mcache, .p .pa, .p .jq, .p .jact, .p .jobNo, .p .fmt, .p .cmds, .p .cqs, .p .ctrls, .p .nss, .p .zones,
    .p .bands, .p .vol, .p .points, .p .mops, .p .opid, .p .journal, .p .jseq, .p .demands, .p .tstore, .p .amps,
    .p .loops, .p .tstk, .p .tshd, .p .tshr, .p .tscrub, .p .cstore, .p .cog, .p .spn, .p .sup, .p .blks, .p .fops,
    .p .fwait, .p .fread, .p .errlog, .p .reqs, .p .held, .p .pkt, .p .hbm, .p .poison, .p .lost, .p .kvLog,
    .p .members, .p .cands, .p .authFail, .p .proposal, .p .stripes, .p .altered, .p .weakSlots, .p .shadow]

theorem shadowCommit_out (a : Act) (hw : List (List (BitVec 32))) {s : State} (h₀ : Out L₀ s₀ s)
    (hL : Key.sub shadowCommitOut L₀ = true) :
    Out L₀ s₀ (shadowCommit a hw s) := by
  unfold shadowCommit
  repeat'
    first
      | with_reducible assumption | with_reducible apply Out.forAll | with_reducible apply State.commitOne_out
      | exact Key.hasA rfl | exact Key.hasW | exact Out.sub hL rfl | intro _ | with_reducible apply Out.ite | split
      | dsimp only [id_eq] | (rename_i e; with_reducible refine Out.of_eq e ?_) | with_reducible apply Out.setShadow
      | with_reducible apply Out.setReqs

theorem State.workOn_out {s : State} (k : Work) (h₀ : Out L₀ s₀ s)
    (hL : Key.sub wrGoOut L₀ = true) :
    Out L₀ s₀ (State.workOn s k) := by
  unfold State.workOn
  repeat'
    first
      | with_reducible assumption | with_reducible apply State.setWork_out | with_reducible apply State.enGo_out
      | with_reducible apply State.wrResume_out | with_reducible apply State.wrDone_out
      | with_reducible apply State.wrGo_out | exact Key.hasA rfl | exact Key.hasW | exact Out.sub hL rfl | intro _
      | with_reducible apply Out.ite | split | dsimp only [id_eq]
      | (rename_i e; with_reducible refine Out.of_eq e ?_)

theorem State.workAll_out {s : State} (h₀ : Out L₀ s₀ s)
    (hL : Key.sub wrGoOut L₀ = true) :
    Out L₀ s₀ (State.workAll s) := by
  unfold State.workAll
  repeat'
    first
      | with_reducible assumption | with_reducible apply Out.forAll | with_reducible apply State.workOn_out
      | exact Key.hasA rfl | exact Key.hasW | exact Out.sub hL rfl | intro _ | with_reducible apply Out.ite | split
      | dsimp only [id_eq] | (rename_i e; with_reducible refine Out.of_eq e ?_)

/-- What `enumerationEnd` may change. -/
def enumerationEndOut : List Key :=
  [.all, .p .win, .p .free, .p .edges, .p .inbox, .p .chn, .p .seqs, .p .bstore,
    .p .mcache, .p .pa, .p .jq, .p .jact, .p .jobNo, .p .fmt, .p .cmds, .p .cqs, .p .ctrls, .p .nss, .p .zones,
    .p .bands, .p .vol, .p .points, .p .mops, .p .opid, .p .journal, .p .jseq, .p .demands, .p .tstore, .p .amps,
    .p .loops, .p .tstk, .p .tshd, .p .tshr, .p .tscrub, .p .cstore, .p .cog, .p .spn, .p .sup, .p .blks, .p .fops,
    .p .fwait, .p .fread, .p .errlog, .p .reqs, .p .held, .p .pkt, .p .hbm, .p .poison, .p .lost, .p .kvLog,
    .p .members, .p .cands, .p .authFail, .p .proposal, .p .stripes, .p .loads, .p .works, .p .altered,
    .p .weakSlots, .p .shadow]

theorem enumerationEnd_out (a : Act) (paId : BitVec 16) (paCap : BitVec 16) (loads : List (List Nat)) (flex : Nat) {s : State} (h₀ : Out L₀ s₀ s)
    (hL : Key.sub enumerationEndOut L₀ = true) :
    Out L₀ s₀ (enumerationEnd a paId paCap loads flex s) := by
  unfold enumerationEnd
  repeat'
    first
      | with_reducible assumption | with_reducible apply State.workAll_out
      | with_reducible apply enumerationComplete_out | exact Key.hasA rfl | exact Key.hasW | exact Out.sub hL rfl
      | intro _ | with_reducible apply Out.ite | split | dsimp only [id_eq]
      | (rename_i e; with_reducible refine Out.of_eq e ?_)

theorem headsOnRampEnd_out (a : Act) {s : State} (h₀ : Out L₀ s₀ s)
    (hL : Key.sub wrGoOut L₀ = true) :
    Out L₀ s₀ (headsOnRampEnd a s) := by
  unfold headsOnRampEnd
  repeat'
    first
      | with_reducible assumption | with_reducible apply State.workAll_out | with_reducible apply headsOnRamp_out
      | exact Key.hasA rfl | exact Key.hasW | exact Out.sub hL rfl | intro _ | with_reducible apply Out.ite | split
      | dsimp only [id_eq] | (rename_i e; with_reducible refine Out.of_eq e ?_)

/-- What `requestEnd` may change. -/
def requestEndOut : List Key :=
  [.all, .p .win, .p .free, .p .edges, .p .inbox, .p .chn, .p .seqs, .p .bstore,
    .p .mcache, .p .pa, .p .jq, .p .jact, .p .jobNo, .p .fmt, .p .cmds, .p .cqs, .p .ctrls, .p .nss, .p .zones,
    .p .bands, .p .vol, .p .points, .p .mops, .p .opid, .p .journal, .p .jseq, .p .demands, .p .tstore, .p .amps,
    .p .loops, .p .tstk, .p .tshd, .p .tshr, .p .tscrub, .p .cstore, .p .cog, .p .spn, .p .sup, .p .blks, .p .fops,
    .p .fwait, .p .fread, .p .errlog, .p .reqs, .p .rspNo, .p .held, .p .pkt, .p .hbm, .p .poison, .p .lost,
    .p .kvLog, .p .members, .p .cands, .p .authFail, .p .proposal, .p .stripes, .p .works, .p .altered,
    .p .weakSlots, .p .shadow]

theorem requestEnd_out (rq : ReqId) {s : State} (h₀ : Out L₀ s₀ s)
    (hL : Key.sub requestEndOut L₀ = true) :
    Out L₀ s₀ (requestEnd rq s) := by
  unfold requestEnd
  repeat'
    first
      | with_reducible assumption | with_reducible apply requestComplete_out | with_reducible apply State.workAll_out
      | exact Key.hasA rfl | exact Key.hasW | exact Out.sub hL rfl | intro _ | with_reducible apply Out.ite | split
      | dsimp only [id_eq] | (rename_i e; with_reducible refine Out.of_eq e ?_)

theorem execEnumerationComplete_out (a : Act) (paId : BitVec 16) (paCap : BitVec 16) (loads : List (List Nat)) (flex : Nat) {s t : State} (h : execEnumerationComplete a paId paCap loads flex s = .next t) :
    Out enumerationEndOut s t := by
  have h := Host.Outcome.next.inj h; subst h; exact enumerationEnd_out _ _ _ _ _ (Out.refl s) rfl

theorem execHeadsOnRamp_out (a : Act) {s t : State} (h : execHeadsOnRamp a s = .next t) :
    Out wrGoOut s t := by
  have h := Host.Outcome.next.inj h; subst h; exact headsOnRampEnd_out _ (Out.refl s) rfl

theorem execRequestComplete_out (rq : ReqId) {s t : State} (h : execRequestComplete rq s = .next t) :
    Out requestEndOut s t := by
  have h := Host.Outcome.next.inj h; subst h; exact requestEnd_out _ (Out.refl s) rfl

theorem execEnable_out (rq : ReqId) (w : World) {s t : State} (h : execEnable rq w s = .next t) :
    Out enGoOut s t := by
  have h := Host.Outcome.next.inj h; subst h; exact enableCmd_out _ _ (Out.refl s) rfl

theorem execEnableState_out (rq : ReqId) {s t : State} (h : execEnableState rq s = .next t) :
    Out [.p .reqs] s t := by
  have h := Host.Outcome.next.inj h; subst h; exact enableState_out _ (Out.refl s) rfl

theorem execRegRead_out (rq : ReqId) {s t : State} (h : execRegRead rq s = .next t) :
    Out [.p .reqs] s t := by
  have h := Host.Outcome.next.inj h; subst h; exact regReadCmd_out _ (Out.refl s) rfl

theorem execRegWrite_out (rq : ReqId) (w : World) {s t : State} (h : execRegWrite rq w s = .next t) :
    Out wrGoOut s t := by
  have h := Host.Outcome.next.inj h; subst h; exact regWriteCmd_out _ _ (Out.refl s) rfl

theorem execRegReadBlock_out (rq : ReqId) {s t : State} (h : execRegReadBlock rq s = .next t) :
    Out [.p .reqs] s t := by
  have h := Host.Outcome.next.inj h; subst h; exact regReadBlock_out _ (Out.refl s) rfl

theorem execRegWriteBlock_out (rq : ReqId) (w : World) {s t : State} (h : execRegWriteBlock rq w s = .next t) :
    Out wrGoOut s t := by
  have h := Host.Outcome.next.inj h; subst h; exact regWriteBlock_out _ _ (Out.refl s) rfl

theorem execRegisterWrite_out (sender : Fin 64) (blk : Fin 256) (inst : Fin 40) (off : Fin 65536) (v : BitVec 32) (w : World) {s t : State} (h : execRegisterWrite sender blk inst off v w s = .next t) :
    Out regWriteOut s t := by
  have h := Host.Outcome.next.inj h; subst h; exact registerWrite_out _ _ _ _ _ _ (Out.refl s) rfl

theorem execShadowCommit_out (a : Act) (hw : List (List (BitVec 32))) {s t : State} (h : execShadowCommit a hw s = .next t) :
    Out shadowCommitOut s t := by
  have h := Host.Outcome.next.inj h; subst h; exact shadowCommit_out _ _ (Out.refl s) rfl

end Sys2Proof.Machine
end

