-- ==== Sys2Proof/Laws/OutCatalogue.lean ====
section
/-!
SUPPORT. What each operation and each command of `Machine/Catalogue.lean` can change.
-/

namespace Sys2Proof.Machine

set_option Elab.async false
set_option linter.unusedVariables false

set_option maxRecDepth 8000
set_option linter.unusedTactic false
set_option linter.unreachableTactic false

variable {L₀ : List Key} {s₀ : State}

theorem sized_out (n : Nat) (b : List Byte) {s : State} (f : State → State × Rsp) (h₀ : Out L₀ s₀ s) (hF_f : ∀ u, Out L₀ s₀ u → Out L₀ s₀ (f u).1)
    (hL : Key.sub [] L₀ = true) :
    Out L₀ s₀ (sized n b s f).1 := by
  unfold sized
  repeat'
    first
      | with_reducible assumption | with_reducible apply hF_f | exact Key.hasA rfl | exact Key.hasW
      | exact Out.sub hL rfl | intro _ | with_reducible apply Out.ite | split | dsimp only [id_eq]
      | (rename_i e; with_reducible refine Out.of_eq e ?_)

theorem stRsp_out {x : State × Nat} (h₀ : Out L₀ s₀ x.1)
    (hL : Key.sub [] L₀ = true) :
    Out L₀ s₀ (stRsp x).1 := by
  unfold stRsp
  repeat'
    first
      | with_reducible assumption | exact Key.hasA rfl | exact Key.hasW | exact Out.sub hL rfl | intro _
      | with_reducible apply Out.ite | split | dsimp only [id_eq]
      | (rename_i e; with_reducible refine Out.of_eq e ?_)

theorem identifyCmd_out (rq : ReqId) {s : State} (h₀ : Out L₀ s₀ s)
    (hL : Key.sub [.p .reqs] L₀ = true) :
    Out L₀ s₀ (identifyCmd rq s) := by
  unfold identifyCmd
  repeat'
    first
      | with_reducible assumption | with_reducible apply State.serve_out | with_reducible apply sized_out
      | exact Key.hasA rfl | exact Key.hasW | exact Out.sub hL rfl | intro _ | with_reducible apply Out.ite | split
      | dsimp only [id_eq] | (rename_i e; with_reducible refine Out.of_eq e ?_)

theorem getNonce_out (rq : ReqId) (nonce : BitVec 256) {s : State} (h₀ : Out L₀ s₀ s)
    (hL : Key.sub [.p .reqs, .p .nonces] L₀ = true) :
    Out L₀ s₀ (getNonce rq nonce s) := by
  unfold getNonce
  repeat'
    first
      | with_reducible assumption | with_reducible apply State.serve_out | with_reducible apply sized_out
      | exact Key.hasA rfl | exact Key.hasW | exact Out.sub hL rfl | intro _ | with_reducible apply Out.ite | split
      | dsimp only [id_eq] | (rename_i e; with_reducible refine Out.of_eq e ?_) | with_reducible apply Out.setNonces

theorem countersCmd_out (rq : ReqId) {s : State} (h₀ : Out L₀ s₀ s)
    (hL : Key.sub [.p .reqs] L₀ = true) :
    Out L₀ s₀ (countersCmd rq s) := by
  unfold countersCmd
  repeat'
    first
      | with_reducible assumption | with_reducible apply State.serve_out | with_reducible apply sized_out
      | exact Key.hasA rfl | exact Key.hasW | exact Out.sub hL rfl | intro _ | with_reducible apply Out.ite | split
      | dsimp only [id_eq] | (rename_i e; with_reducible refine Out.of_eq e ?_)

theorem clearXtal_out (rq : ReqId) {s : State} (h₀ : Out L₀ s₀ s)
    (hL : Key.sub [.w 22 8, .p .reqs] L₀ = true) :
    Out L₀ s₀ (clearXtal rq s) := by
  unfold clearXtal
  repeat'
    first
      | with_reducible assumption | with_reducible apply State.serve_out | with_reducible apply sized_out
      | with_reducible apply Out.put | exact Key.hasA rfl | exact Key.hasW | exact Out.sub hL rfl | intro _
      | with_reducible apply Out.ite | split | dsimp only [id_eq]
      | (rename_i e; with_reducible refine Out.of_eq e ?_)

theorem inventoryCmd_out (rq : ReqId) {s : State} (h₀ : Out L₀ s₀ s)
    (hL : Key.sub [.p .reqs] L₀ = true) :
    Out L₀ s₀ (inventoryCmd rq s) := by
  unfold inventoryCmd
  repeat'
    first
      | with_reducible assumption | with_reducible apply State.serve_out | with_reducible apply sized_out
      | exact Key.hasA rfl | exact Key.hasW | exact Out.sub hL rfl | intro _ | with_reducible apply Out.ite | split
      | dsimp only [id_eq] | (rename_i e; with_reducible refine Out.of_eq e ?_)

theorem optionRead_out (rq : ReqId) {s : State} (h₀ : Out L₀ s₀ s)
    (hL : Key.sub [.p .reqs] L₀ = true) :
    Out L₀ s₀ (optionRead rq s) := by
  unfold optionRead
  repeat'
    first
      | with_reducible assumption | with_reducible apply State.serve_out | with_reducible apply sized_out
      | exact Key.hasA rfl | exact Key.hasW | exact Out.sub hL rfl | intro _ | with_reducible apply Out.ite | split
      | dsimp only [id_eq] | (rename_i e; with_reducible refine Out.of_eq e ?_)

/-- What `optionWrite` may change. -/
def optionWriteOut : List Key :=
  [.w 20 12, .w 20 64, .w 20 68, .a 65 15269888 268435456, .w 66 14680064,
    .w 66 14745600, .w 66 14811136, .p .win, .p .free, .p .edges, .p .inbox, .p .opt, .p .flash, .p .blks, .p .reqs]

theorem optionWrite_out (rq : ReqId) (ok1 : Bool) (ok2 : Bool) {s : State} (h₀ : Out L₀ s₀ s)
    (hL : Key.sub optionWriteOut L₀ = true) :
    Out L₀ s₀ (optionWrite rq ok1 ok2 s) := by
  unfold optionWrite
  repeat'
    first
      | with_reducible assumption | with_reducible apply State.serve_out | with_reducible apply stRsp_out
      | with_reducible apply State.optWrite_out | exact Key.hasA rfl | exact Key.hasW | exact Out.sub hL rfl
      | intro _ | with_reducible apply Out.ite | split | dsimp only [id_eq]
      | (rename_i e; with_reducible refine Out.of_eq e ?_)

theorem keyRegister_out (rq : ReqId) (ok1 : Bool) (ok2 : Bool) {s : State} (h₀ : Out L₀ s₀ s)
    (hL : Key.sub optionWriteOut L₀ = true) :
    Out L₀ s₀ (keyRegister rq ok1 ok2 s) := by
  unfold keyRegister
  repeat'
    first
      | with_reducible assumption | with_reducible apply State.serve_out | with_reducible apply State.optWrite_out
      | with_reducible apply stRsp_out | with_reducible apply Out.post | exact Key.hasA rfl | exact Key.hasW
      | exact Out.sub hL rfl | intro _ | with_reducible apply Out.ite | split | dsimp only [id_eq]
      | (rename_i e; with_reducible refine Out.of_eq e ?_)

/-- What `setBudgetCmd` may change. -/
def setBudgetCmdOut : List Key :=
  [.a 2 32 4, .w 11 12, .w 11 84, .w 12 8, .w 13 8, .w 13 12, .w 13 76,
    .w 13 1572864, .w 13 2359296, .w 13 2424832, .w 13 20250624, .w 14 8, .w 14 12, .w 14 24, .w 14 84,
    .w 14 3211264, .w 14 3342336, .w 14 3407872, .w 14 3473408, .w 14 3538944, .w 14 4128768, .w 14 4194304,
    .w 14 4259840, .w 14 4325376, .w 14 4784128, .w 14 21692416, .w 14 21757952, .w 14 22675456, .w 14 22806528,
    .w 16 8, .w 16 12, .w 16 6094848, .w 16 8519680, .w 16 8585216, .w 16 8912896, .w 16 8978432, .w 16 9240576,
    .w 16 9306112, .w 16 9502720, .w 16 9568256, .w 16 9895936, .w 16 9961472, .w 16 10223616, .w 16 10551296,
    .w 16 10944512, .w 16 23068672, .w 16 23789568, .w 16 23855104, .w 16 24051712, .w 16 24444928, .w 17 13762560,
    .w 17 24510464, .w 18 8, .w 18 12, .w 18 72, .w 18 786432, .w 18 20578304, .w 19 12, .w 19 16, .w 19 1114112,
    .w 19 1179648, .a 19 1310720 268435456, .a 19 1376256 268435456, .a 19 22413312 268435456,
    .a 19 22478848 268435456, .w 22 8, .w 22 12, .w 22 20, .w 22 24, .w 22 28, .w 64 6881280, .w 64 16711680,
    .p .win, .p .edges, .p .inbox, .p .chn, .p .seqs, .p .pa, .p .jq, .p .jact, .p .nss, .p .mops, .p .reqs]

theorem setBudgetCmd_out (rq : ReqId) {s : State} (h₀ : Out L₀ s₀ s)
    (hL : Key.sub setBudgetCmdOut L₀ = true) :
    Out L₀ s₀ (setBudgetCmd rq s) := by
  unfold setBudgetCmd
  repeat'
    first
      | with_reducible assumption | with_reducible apply State.serve_out | with_reducible apply sized_out
      | with_reducible apply State.setBudget_out | exact Key.hasA rfl | exact Key.hasW | exact Out.sub hL rfl
      | intro _ | with_reducible apply Out.ite | split | dsimp only [id_eq]
      | (rename_i e; with_reducible refine Out.of_eq e ?_)

theorem getBudgetCmd_out (rq : ReqId) {s : State} (h₀ : Out L₀ s₀ s)
    (hL : Key.sub [.p .reqs] L₀ = true) :
    Out L₀ s₀ (getBudgetCmd rq s) := by
  unfold getBudgetCmd
  repeat'
    first
      | with_reducible assumption | with_reducible apply State.serve_out | with_reducible apply sized_out
      | exact Key.hasA rfl | exact Key.hasW | exact Out.sub hL rfl | intro _ | with_reducible apply Out.ite | split
      | dsimp only [id_eq] | (rename_i e; with_reducible refine Out.of_eq e ?_)

/-- What `spinSlot` may change. -/
def spinSlotOut : List Key :=
  [.w 5 8, .a 5 128 4, .w 16 8, .w 16 8519680, .w 16 8585216, .w 16 8912896,
    .w 16 8978432, .w 16 9240576, .w 16 9306112, .w 16 9502720, .w 16 9568256, .w 16 10551296, .w 16 10944512,
    .w 16 11141120, .w 16 22937600, .w 16 23068672, .w 16 23789568, .w 16 23855104, .w 16 24051712, .w 16 24444928,
    .w 17 13762560, .w 17 24510464, .w 66 18743296, .w 66 18874368, .w 66 18939904, .w 66 19005440, .w 66 19202048,
    .p .win, .p .reqs]

theorem spinSlot_out (rq : ReqId) {s : State} (h₀ : Out L₀ s₀ s)
    (hL : Key.sub spinSlotOut L₀ = true) :
    Out L₀ s₀ (spinSlot rq s) := by
  unfold spinSlot
  repeat'
    first
      | with_reducible assumption | with_reducible apply State.serve_out | with_reducible apply sized_out
      | with_reducible apply State.spinCheck_out | with_reducible apply Out.puts_nil
      | with_reducible apply Out.puts_cons | with_reducible apply Out.put | exact Key.hasA rfl | exact Key.hasW
      | exact Out.sub hL rfl | intro _ | with_reducible apply Out.ite | split | dsimp only [id_eq]
      | (rename_i e; with_reducible refine Out.of_eq e ?_)

theorem spinStatus_out (rq : ReqId) {s : State} (h₀ : Out L₀ s₀ s)
    (hL : Key.sub [.p .reqs] L₀ = true) :
    Out L₀ s₀ (spinStatus rq s) := by
  unfold spinStatus
  repeat'
    first
      | with_reducible assumption | with_reducible apply State.serve_out | with_reducible apply sized_out
      | exact Key.hasA rfl | exact Key.hasW | exact Out.sub hL rfl | intro _ | with_reducible apply Out.ite | split
      | dsimp only [id_eq] | (rename_i e; with_reducible refine Out.of_eq e ?_)

theorem thermalRead_out (rq : ReqId) {s : State} (h₀ : Out L₀ s₀ s)
    (hL : Key.sub [.p .reqs] L₀ = true) :
    Out L₀ s₀ (thermalRead rq s) := by
  unfold thermalRead
  repeat'
    first
      | with_reducible assumption | with_reducible apply State.serve_out | with_reducible apply sized_out
      | exact stepFld_has _ | exact Key.hasA rfl | exact Key.hasW | exact Out.sub hL rfl | intro _
      | with_reducible apply Out.ite | split | dsimp only [id_eq]
      | (rename_i e; with_reducible refine Out.of_eq e ?_)

theorem clearSuspectCmd_out (rq : ReqId) {s : State} (h₀ : Out L₀ s₀ s)
    (hL : Key.sub [.w 23 8, .a 23 19726336 268435456, .p .reqs] L₀ = true) :
    Out L₀ s₀ (clearSuspectCmd rq s) := by
  unfold clearSuspectCmd
  repeat'
    first
      | with_reducible assumption | with_reducible apply State.serve_out | with_reducible apply sized_out
      | with_reducible apply State.clearSuspect_out | exact Key.hasA rfl | exact Key.hasW | exact Out.sub hL rfl
      | intro _ | with_reducible apply Out.ite | split | dsimp only [id_eq]
      | (rename_i e; with_reducible refine Out.of_eq e ?_)

theorem trimRead_out (rq : ReqId) {s : State} (h₀ : Out L₀ s₀ s)
    (hL : Key.sub [.p .reqs] L₀ = true) :
    Out L₀ s₀ (trimRead rq s) := by
  unfold trimRead
  repeat'
    first
      | with_reducible assumption | with_reducible apply State.serve_out | with_reducible apply sized_out
      | exact Key.hasA rfl | exact Key.hasW | exact Out.sub hL rfl | intro _ | with_reducible apply Out.ite | split
      | dsimp only [id_eq] | (rename_i e; with_reducible refine Out.of_eq e ?_)

theorem State.trimPut_out {s : State} (r : Req) (blk : Nat) (inst : Nat) (img : List (Nat × Nat)) (h₀ : Out L₀ s₀ s)
    (hL : Key.sub [.all, .p .edges, .p .shadow] L₀ = true) :
    Out L₀ s₀ (State.trimPut s r blk inst img) := by
  unfold State.trimPut
  repeat'
    first
      | with_reducible assumption | with_reducible apply Out.forAll | with_reducible apply State.putWord_out
      | exact Key.hasA rfl | exact Key.hasW | exact Out.sub hL rfl | intro _ | with_reducible apply Out.ite | split
      | dsimp only [id_eq] | (rename_i e; with_reducible refine Out.of_eq e ?_) | with_reducible apply Out.setShadow

theorem trimWrite_out (rq : ReqId) {s : State} (h₀ : Out L₀ s₀ s)
    (hL : Key.sub [.all, .p .edges, .p .reqs, .p .shadow] L₀ = true) :
    Out L₀ s₀ (trimWrite rq s) := by
  unfold trimWrite
  repeat'
    first
      | with_reducible assumption | with_reducible apply State.onReq_out | with_reducible apply State.respond_out
      | with_reducible apply State.respondW_out | with_reducible apply State.trimPut_out | exact Key.hasA rfl
      | exact Key.hasW | exact Out.sub hL rfl | intro _ | with_reducible apply Out.ite | split | dsimp only [id_eq]
      | (rename_i e; with_reducible refine Out.of_eq e ?_)

theorem tableRead_out (rq : ReqId) {s : State} (h₀ : Out L₀ s₀ s)
    (hL : Key.sub [.p .reqs] L₀ = true) :
    Out L₀ s₀ (tableRead rq s) := by
  unfold tableRead
  repeat'
    first
      | with_reducible assumption | with_reducible apply State.serve_out | with_reducible apply sized_out
      | exact Key.hasA rfl | exact Key.hasW | exact Out.sub hL rfl | intro _ | with_reducible apply Out.ite | split
      | dsimp only [id_eq] | (rename_i e; with_reducible refine Out.of_eq e ?_)

theorem State.relearn_out {s : State} (h₀ : Out L₀ s₀ s) (hL : Key.sub [.a 15 8126464 268435456, .w 15 8323072, .p .cog] L₀ = true) :
    Out L₀ s₀ (State.relearn s) :=
  Out.puts_map (n := .a 15 8126464 268435456) (fun a => V.lrnCnt a) (fun _ => 0) _
    (Out.put _ _ (Out.setCog _ h₀ (Out.sub hL rfl)) Key.hasW (Out.sub hL rfl)) (fun x => ⟨rfl, x, rfl⟩) (Out.sub hL rfl)

theorem State.stageTable_out {s : State} (i : Nat) (off : Nat) (e : List Byte) (h₀ : Out L₀ s₀ s)
    (hL : Key.sub [.a 15 21889024 268435456, .a 15 22872064 268435456, .p .win, .p .tstore] L₀ = true) :
    Out L₀ s₀ (State.stageTable s i off e) := by
  unfold State.stageTable
  repeat'
    first
      | with_reducible assumption | with_reducible apply Out.forAll | with_reducible apply State.copyWin_out
      | with_reducible apply Out.puts_nil | with_reducible apply Out.puts_cons | with_reducible apply Out.put
      | with_reducible apply Out.when | with_reducible apply State.swapTable_out | exact Key.hasA rfl
      | exact Key.hasW | exact Out.sub hL rfl | intro _ | with_reducible apply Out.ite | split | dsimp only [id_eq]
      | (rename_i e; with_reducible refine Out.of_eq e ?_) | with_reducible apply Out.setWinTstore

theorem State.putTableEntry_out {s : State} (blk : Nat) (sel : Nat) (base : Nat) (off : Nat) (e : List Byte) (h₀ : Out L₀ s₀ s)
    (hL : Key.sub [.a 15 8126464 268435456, .w 15 8323072, .a 15 21889024 268435456, .a 15 22872064 268435456, .p .win, .p .tstore,
    .p .cog, .p .fitFrom] L₀ = true) :
    Out L₀ s₀ (State.putTableEntry s blk sel base off e) := by
  unfold State.putTableEntry
  repeat'
    first
      | with_reducible assumption | with_reducible apply State.stageTable_out
      | with_reducible apply State.putTable_out | with_reducible apply State.relearn_out
      | with_reducible apply State.restartFit_out | exact Key.hasA rfl | exact Key.hasW | exact Out.sub hL rfl
      | intro _ | with_reducible apply Out.ite | split | dsimp only [id_eq]
      | (rename_i e; with_reducible refine Out.of_eq e ?_)

/-- What `tableWrite` may change. -/
def tableWriteOut : List Key :=
  [.a 15 8126464 268435456, .w 15 8323072, .a 15 21889024 268435456,
    .a 15 22872064 268435456, .p .win, .p .tstore, .p .cog, .p .reqs, .p .fitFrom]

theorem tableWrite_out (rq : ReqId) {s : State} (h₀ : Out L₀ s₀ s)
    (hL : Key.sub tableWriteOut L₀ = true) :
    Out L₀ s₀ (tableWrite rq s) := by
  unfold tableWrite
  repeat'
    first
      | with_reducible assumption | with_reducible apply State.serve_out | with_reducible apply Out.forAll
      | with_reducible apply State.putTableEntry_out | exact Key.hasA rfl | exact Key.hasW | exact Out.sub hL rfl
      | intro _ | with_reducible apply Out.ite | split | dsimp only [id_eq]
      | (rename_i e; with_reducible refine Out.of_eq e ?_)

/-- What `tailorSave` may change. -/
def tailorSaveOut : List Key :=
  [.w 20 12, .w 20 64, .w 20 68, .a 65 15269888 268435456, .w 65 18612224,
    .w 65 18677760, .p .edges, .p .inbox, .p .flash, .p .blks, .p .reqs, .p .tsave, .p .tregs]

theorem tailorSave_out (rq : ReqId) (ok : Bool) {s : State} (h₀ : Out L₀ s₀ s)
    (hL : Key.sub tailorSaveOut L₀ = true) :
    Out L₀ s₀ (tailorSave rq ok s) := by
  unfold tailorSave
  repeat'
    first
      | with_reducible assumption | with_reducible apply State.serve_out | with_reducible apply sized_out
      | with_reducible apply State.tlrSave_out | with_reducible apply State.tlrFail_out | exact Key.hasA rfl
      | exact Key.hasW | exact Out.sub hL rfl | intro _ | with_reducible apply Out.ite | split | dsimp only [id_eq]
      | (rename_i e; with_reducible refine Out.of_eq e ?_)

theorem certRead_out (rq : ReqId) {s : State} (h₀ : Out L₀ s₀ s)
    (hL : Key.sub [.p .reqs] L₀ = true) :
    Out L₀ s₀ (certRead rq s) := by
  unfold certRead
  repeat'
    first
      | with_reducible assumption | with_reducible apply State.serve_out | with_reducible apply sized_out
      | exact Key.hasA rfl | exact Key.hasW | exact Out.sub hL rfl | intro _ | with_reducible apply Out.ite | split
      | dsimp only [id_eq] | (rename_i e; with_reducible refine Out.of_eq e ?_)

theorem ageingRead_out (rq : ReqId) {s : State} (h₀ : Out L₀ s₀ s)
    (hL : Key.sub [.p .reqs] L₀ = true) :
    Out L₀ s₀ (ageingRead rq s) := by
  unfold ageingRead
  repeat'
    first
      | with_reducible assumption | with_reducible apply State.serve_out | with_reducible apply sized_out
      | exact Key.hasA rfl | exact Key.hasW | exact Out.sub hL rfl | intro _ | with_reducible apply Out.ite | split
      | dsimp only [id_eq] | (rename_i e; with_reducible refine Out.of_eq e ?_)

theorem marginRead_out (rq : ReqId) {s : State} (h₀ : Out L₀ s₀ s)
    (hL : Key.sub [.p .reqs] L₀ = true) :
    Out L₀ s₀ (marginRead rq s) := by
  unfold marginRead
  repeat'
    first
      | with_reducible assumption | with_reducible apply State.serve_out | with_reducible apply sized_out
      | exact Key.hasA rfl | exact Key.hasW | exact Out.sub hL rfl | intro _ | with_reducible apply Out.ite | split
      | dsimp only [id_eq] | (rename_i e; with_reducible refine Out.of_eq e ?_)

theorem measureNow_out (rq : ReqId) {s : State} (h₀ : Out L₀ s₀ s)
    (hL : Key.sub [.w 24 8, .p .reqs, .p .dues] L₀ = true) :
    Out L₀ s₀ (measureNow rq s) := by
  unfold measureNow
  repeat'
    first
      | with_reducible assumption | with_reducible apply State.serve_out | with_reducible apply sized_out
      | with_reducible apply Out.forAll | with_reducible apply State.due_out | exact Key.hasA rfl | exact Key.hasW
      | exact Out.sub hL rfl | intro _ | with_reducible apply Out.ite | split | dsimp only [id_eq]
      | (rename_i e; with_reducible refine Out.of_eq e ?_)

theorem pblRead_out (rq : ReqId) {s : State} (h₀ : Out L₀ s₀ s)
    (hL : Key.sub [.p .reqs] L₀ = true) :
    Out L₀ s₀ (pblRead rq s) := by
  unfold pblRead
  repeat'
    first
      | with_reducible assumption | with_reducible apply State.serve_out | with_reducible apply sized_out
      | exact Key.hasA rfl | exact Key.hasW | exact Out.sub hL rfl | intro _ | with_reducible apply Out.ite | split
      | dsimp only [id_eq] | (rename_i e; with_reducible refine Out.of_eq e ?_)

theorem pblStatus_out (rq : ReqId) {s : State} (h₀ : Out L₀ s₀ s)
    (hL : Key.sub [.p .reqs] L₀ = true) :
    Out L₀ s₀ (pblStatus rq s) := by
  unfold pblStatus
  repeat'
    first
      | with_reducible assumption | with_reducible apply State.serve_out | with_reducible apply sized_out
      | exact Key.hasA rfl | exact Key.hasW | exact Out.sub hL rfl | intro _ | with_reducible apply Out.ite | split
      | dsimp only [id_eq] | (rename_i e; with_reducible refine Out.of_eq e ?_)

/-- What `pblClearCmd` may change. -/
def pblClearCmdOut : List Key :=
  [.w 20 8, .w 20 12, .a 20 32 4, .w 20 64, .w 20 68, .w 20 72, .w 25 8, .w 25 12,
    .w 25 20, .w 25 24, .w 25 28, .w 25 72, .w 64 15728640, .w 64 15794176, .a 65 15269888 268435456,
    .a 65 15335424 268435456, .a 65 15400960 268435456, .w 65 15466496, .w 65 15532032, .w 65 15597568,
    .w 65 15663104, .w 65 15859712, .w 65 15925248, .w 65 15990784, .w 65 16056320, .w 65 16121856, .w 65 16187392,
    .w 65 16252928, .p .edges, .p .inbox, .p .flash, .p .blks, .p .fops, .p .fwait, .p .fread, .p .popen, .p .pbuf,
    .p .ring, .p .ringBad, .p .reqs]

theorem pblClearCmd_out (rq : ReqId) (ok : Bool) {s : State} (h₀ : Out L₀ s₀ s)
    (hL : Key.sub pblClearCmdOut L₀ = true) :
    Out L₀ s₀ (pblClearCmd rq ok s) := by
  unfold pblClearCmd
  repeat'
    first
      | with_reducible assumption | with_reducible apply State.serve_out | with_reducible apply sized_out
      | with_reducible apply stRsp_out | with_reducible apply State.pblClear_out | exact Key.hasA rfl
      | exact Key.hasW | exact Out.sub hL rfl | intro _ | with_reducible apply Out.ite | split | dsimp only [id_eq]
      | (rename_i e; with_reducible refine Out.of_eq e ?_)

/-- What `fwDownloadCmd` may change. -/
def fwDownloadCmdOut : List Key :=
  [.w 9 8, .w 10 20, .w 10 24, .w 20 8, .w 20 12, .a 20 32 4, .w 20 64, .w 20 68,
    .w 20 72, .a 65 14024704 268435456, .w 65 14352384, .a 65 15269888 268435456, .a 65 15335424 268435456,
    .a 66 14090240 268435456, .w 66 14155776, .w 66 14221312, .w 66 14286848, .p .free, .p .edges, .p .inbox,
    .p .flash, .p .blks, .p .fops, .p .fwait, .p .fread, .p .fwPend, .p .fwErased, .p .reqs, .p .pkt, .p .hbm,
    .p .poison]

theorem fwDownloadCmd_out (rq : ReqId) (ok : Bool) {s : State} (h₀ : Out L₀ s₀ s)
    (hL : Key.sub fwDownloadCmdOut L₀ = true) :
    Out L₀ s₀ (fwDownloadCmd rq ok s) := by
  unfold fwDownloadCmd
  repeat'
    first
      | with_reducible assumption | with_reducible apply State.serve_out | with_reducible apply stRsp_out
      | with_reducible apply State.fwDownHeld_out | exact Key.hasA rfl | exact Key.hasW | exact Out.sub hL rfl
      | intro _ | with_reducible apply Out.ite | split | dsimp only [id_eq]
      | (rename_i e; with_reducible refine Out.of_eq e ?_)

/-- What `fwCommitCmd` may change. -/
def fwCommitCmdOut : List Key :=
  [.w 20 12, .w 20 64, .w 20 68, .w 65 14483456, .a 65 15269888 268435456,
    .a 66 14090240 268435456, .w 66 14155776, .w 66 14417920, .w 66 15138816, .p .free, .p .edges, .p .inbox,
    .p .flash, .p .blks, .p .reqs]

theorem fwCommitCmd_out (rq : ReqId) (ok : Bool) {s : State} (h₀ : Out L₀ s₀ s)
    (hL : Key.sub fwCommitCmdOut L₀ = true) :
    Out L₀ s₀ (fwCommitCmd rq ok s) := by
  unfold fwCommitCmd
  repeat'
    first
      | with_reducible assumption | with_reducible apply State.serve_out | with_reducible apply sized_out
      | with_reducible apply stRsp_out | with_reducible apply State.fwCommit_out | exact Key.hasA rfl
      | exact Key.hasW | exact Out.sub hL rfl | intro _ | with_reducible apply Out.ite | split | dsimp only [id_eq]
      | (rename_i e; with_reducible refine Out.of_eq e ?_)

theorem fwStatus_out (rq : ReqId) {s : State} (h₀ : Out L₀ s₀ s)
    (hL : Key.sub [.p .reqs] L₀ = true) :
    Out L₀ s₀ (fwStatus rq s) := by
  unfold fwStatus
  repeat'
    first
      | with_reducible assumption | with_reducible apply State.serve_out | with_reducible apply sized_out
      | exact Key.hasA rfl | exact Key.hasW | exact Out.sub hL rfl | intro _ | with_reducible apply Out.ite | split
      | dsimp only [id_eq] | (rename_i e; with_reducible refine Out.of_eq e ?_)

theorem flashStatus_out (rq : ReqId) {s : State} (h₀ : Out L₀ s₀ s)
    (hL : Key.sub [.p .reqs] L₀ = true) :
    Out L₀ s₀ (flashStatus rq s) := by
  unfold flashStatus
  repeat'
    first
      | with_reducible assumption | with_reducible apply State.serve_out | with_reducible apply sized_out
      | exact Key.hasA rfl | exact Key.hasW | exact Out.sub hL rfl | intro _ | with_reducible apply Out.ite | split
      | dsimp only [id_eq] | (rename_i e; with_reducible refine Out.of_eq e ?_)

theorem placementSet_out (rq : ReqId) {s : State} (h₀ : Out L₀ s₀ s)
    (hL : Key.sub [.w 65 17498112, .p .reqs] L₀ = true) :
    Out L₀ s₀ (placementSet rq s) := by
  unfold placementSet
  repeat'
    first
      | with_reducible assumption | with_reducible apply State.serve_out | with_reducible apply sized_out
      | with_reducible apply Out.put | exact Key.hasA rfl | exact Key.hasW | exact Out.sub hL rfl | intro _
      | with_reducible apply Out.ite | split | dsimp only [id_eq]
      | (rename_i e; with_reducible refine Out.of_eq e ?_)

theorem placementGet_out (rq : ReqId) {s : State} (h₀ : Out L₀ s₀ s)
    (hL : Key.sub [.p .reqs] L₀ = true) :
    Out L₀ s₀ (placementGet rq s) := by
  unfold placementGet
  repeat'
    first
      | with_reducible assumption | with_reducible apply State.serve_out | with_reducible apply sized_out
      | exact Key.hasA rfl | exact Key.hasW | exact Out.sub hL rfl | intro _ | with_reducible apply Out.ite | split
      | dsimp only [id_eq] | (rename_i e; with_reducible refine Out.of_eq e ?_)

theorem bandInfo_out (rq : ReqId) {s : State} (h₀ : Out L₀ s₀ s)
    (hL : Key.sub [.p .reqs] L₀ = true) :
    Out L₀ s₀ (bandInfo rq s) := by
  unfold bandInfo
  repeat'
    first
      | with_reducible assumption | with_reducible apply State.serve_out | with_reducible apply sized_out
      | exact Key.hasA rfl | exact Key.hasW | exact Out.sub hL rfl | intro _ | with_reducible apply Out.ite | split
      | dsimp only [id_eq] | (rename_i e; with_reducible refine Out.of_eq e ?_)

theorem poolInfo_out (rq : ReqId) {s : State} (h₀ : Out L₀ s₀ s)
    (hL : Key.sub [.p .reqs] L₀ = true) :
    Out L₀ s₀ (poolInfo rq s) := by
  unfold poolInfo
  repeat'
    first
      | with_reducible assumption | with_reducible apply State.serve_out | with_reducible apply sized_out
      | exact Key.hasA rfl | exact Key.hasW | exact Out.sub hL rfl | intro _ | with_reducible apply Out.ite | split
      | dsimp only [id_eq] | (rename_i e; with_reducible refine Out.of_eq e ?_)

theorem altQueue_out (rq : ReqId) {s : State} (h₀ : Out L₀ s₀ s)
    (hL : Key.sub [.p .reqs] L₀ = true) :
    Out L₀ s₀ (altQueue rq s) := by
  unfold altQueue
  repeat'
    first
      | with_reducible assumption | with_reducible apply State.serve_out | with_reducible apply sized_out
      | exact Key.hasA rfl | exact Key.hasW | exact Out.sub hL rfl | intro _ | with_reducible apply Out.ite | split
      | dsimp only [id_eq] | (rename_i e; with_reducible refine Out.of_eq e ?_)

theorem defaultsSet_out (rq : ReqId) {s : State} (h₀ : Out L₀ s₀ s)
    (hL : Key.sub [.w 66 17563648, .p .reqs] L₀ = true) :
    Out L₀ s₀ (defaultsSet rq s) := by
  unfold defaultsSet
  repeat'
    first
      | with_reducible assumption | with_reducible apply State.serve_out | with_reducible apply sized_out
      | with_reducible apply Out.put | exact Key.hasA rfl | exact Key.hasW | exact Out.sub hL rfl | intro _
      | with_reducible apply Out.ite | split | dsimp only [id_eq]
      | (rename_i e; with_reducible refine Out.of_eq e ?_)

theorem defaultsGet_out (rq : ReqId) {s : State} (h₀ : Out L₀ s₀ s)
    (hL : Key.sub [.p .reqs] L₀ = true) :
    Out L₀ s₀ (defaultsGet rq s) := by
  unfold defaultsGet
  repeat'
    first
      | with_reducible assumption | with_reducible apply State.serve_out | with_reducible apply sized_out
      | exact Key.hasA rfl | exact Key.hasW | exact Out.sub hL rfl | intro _ | with_reducible apply Out.ite | split
      | dsimp only [id_eq] | (rename_i e; with_reducible refine Out.of_eq e ?_)

theorem groupSet_out (rq : ReqId) {s : State} (h₀ : Out L₀ s₀ s)
    (hL : Key.sub [.p .reqs, .p .group] L₀ = true) :
    Out L₀ s₀ (groupSet rq s) := by
  unfold groupSet
  repeat'
    first
      | with_reducible assumption | with_reducible apply State.serve_out | with_reducible apply sized_out
      | exact Key.hasA rfl | exact Key.hasW | exact Out.sub hL rfl | intro _ | with_reducible apply Out.ite | split
      | dsimp only [id_eq] | (rename_i e; with_reducible refine Out.of_eq e ?_) | with_reducible apply Out.setGroup

theorem groupStatus_out (rq : ReqId) {s : State} (h₀ : Out L₀ s₀ s)
    (hL : Key.sub [.p .reqs] L₀ = true) :
    Out L₀ s₀ (groupStatus rq s) := by
  unfold groupStatus
  repeat'
    first
      | with_reducible assumption | with_reducible apply State.serve_out | with_reducible apply sized_out
      | exact Key.hasA rfl | exact Key.hasW | exact Out.sub hL rfl | intro _ | with_reducible apply Out.ite | split
      | dsimp only [id_eq] | (rename_i e; with_reducible refine Out.of_eq e ?_)

/-- What `peerHello` may change. -/
def peerHelloOut : List Key :=
  [.w 7 8, .w 7 12, .w 7 20, .w 7 24, .w 7 28, .w 7 17956864, .p .edges, .p .inbox,
    .p .reqs, .p .members]

theorem peerHello_out (rq : ReqId) {s : State} (h₀ : Out L₀ s₀ s)
    (hL : Key.sub peerHelloOut L₀ = true) :
    Out L₀ s₀ (peerHello rq s) := by
  unfold peerHello
  repeat'
    first
      | with_reducible assumption | with_reducible apply State.serve_out | with_reducible apply State.showGroup_out
      | exact Key.hasA rfl | exact Key.hasW | exact Out.sub hL rfl | intro _ | with_reducible apply Out.ite | split
      | dsimp only [id_eq] | (rename_i e; with_reducible refine Out.of_eq e ?_) | with_reducible apply Out.setMembers

theorem adoptCmd_out (rq : ReqId) {s : State} (h₀ : Out L₀ s₀ s)
    (hL : Key.sub [.p .reqs, .p .peerAdopt] L₀ = true) :
    Out L₀ s₀ (adoptCmd rq s) := by
  unfold adoptCmd
  repeat'
    first
      | with_reducible assumption | with_reducible apply State.serve_out | with_reducible apply sized_out
      | exact Key.hasA rfl | exact Key.hasW | exact Out.sub hL rfl | intro _ | with_reducible apply Out.ite | split
      | dsimp only [id_eq] | (rename_i e; with_reducible refine Out.of_eq e ?_)
      | with_reducible apply Out.setPeerAdopt

theorem srcRoute_out (rq : ReqId) {s : State} (h₀ : Out L₀ s₀ s)
    (hL : Key.sub [.a 4 4096 4, .p .inbox, .p .reqs] L₀ = true) :
    Out L₀ s₀ (srcRoute rq s) := by
  unfold srcRoute
  repeat'
    first
      | with_reducible assumption | with_reducible apply State.serve_out | with_reducible apply sized_out
      | with_reducible apply stRsp_out | with_reducible apply State.srcWrite_out | exact Key.hasA rfl
      | exact Key.hasW | exact Out.sub hL rfl | intro _ | with_reducible apply Out.ite | split | dsimp only [id_eq]
      | (rename_i e; with_reducible refine Out.of_eq e ?_)

theorem srcRead_out (rq : ReqId) {s : State} (h₀ : Out L₀ s₀ s)
    (hL : Key.sub [.p .reqs] L₀ = true) :
    Out L₀ s₀ (srcRead rq s) := by
  unfold srcRead
  repeat'
    first
      | with_reducible assumption | with_reducible apply State.serve_out | with_reducible apply sized_out
      | exact Key.hasA rfl | exact Key.hasW | exact Out.sub hL rfl | intro _ | with_reducible apply Out.ite | split
      | dsimp only [id_eq] | (rename_i e; with_reducible refine Out.of_eq e ?_)

/-- What `doorbellCmd` may change. -/
def doorbellCmdOut : List Key :=
  [.w 2 20, .w 2 24, .a 2 32 4, .w 2 5439488, .w 2 5505024, .w 4 12, .w 4 64,
    .a 4 4096 4, .a 4 16384 32, .a 4 16388 32, .a 4 16392 32, .a 4 16396 32, .a 4 16384000 268435456,
    .a 4 16449536 268435456, .w 6 8, .w 6 12, .w 7 12, .w 7 24, .w 7 28, .w 7 17956864, .w 9 8, .w 10 20, .w 10 24,
    .a 11 32 4, .a 11 48 4, .w 26 8, .w 26 32, .w 26 36, .a 65 22347776 268435456, .p .free, .p .edges, .p .inbox,
    .p .mcache, .p .jq, .p .jobNo, .p .cmds, .p .cqs, .p .nss, .p .bands, .p .vol, .p .points, .p .errlog, .p .reqs,
    .p .held, .p .pkt, .p .hbm, .p .poison, .p .lost, .p .kvLog, .p .stripes]

theorem doorbellCmd_out (rq : ReqId) {s : State} (h₀ : Out L₀ s₀ s)
    (hL : Key.sub doorbellCmdOut L₀ = true) :
    Out L₀ s₀ (doorbellCmd rq s) := by
  unfold doorbellCmd
  repeat'
    first
      | with_reducible assumption | with_reducible apply State.serve_out | with_reducible apply sized_out
      | with_reducible apply State.fire_out | exact Key.hasA rfl | exact Key.hasW | exact Out.sub hL rfl | intro _
      | with_reducible apply Out.ite | split | dsimp only [id_eq]
      | (rename_i e; with_reducible refine Out.of_eq e ?_)

theorem softSourceCmd_out (rq : ReqId) {s : State} (h₀ : Out L₀ s₀ s)
    (hL : Key.sub [.w 4 16515072, .p .edges, .p .reqs] L₀ = true) :
    Out L₀ s₀ (softSourceCmd rq s) := by
  unfold softSourceCmd
  repeat'
    first
      | with_reducible assumption | with_reducible apply State.serve_out | with_reducible apply sized_out
      | with_reducible apply State.softSource_out | exact Key.hasA rfl | exact Key.hasW | exact Out.sub hL rfl
      | intro _ | with_reducible apply Out.ite | split | dsimp only [id_eq]
      | (rename_i e; with_reducible refine Out.of_eq e ?_)

/-- What `bankClaim` may change. -/
def bankClaimOut : List Key :=
  [.a 4 16384 32, .a 4 16388 32, .a 4 16392 32, .a 4 16396 32,
    .a 4 16384000 268435456, .a 4 16449536 268435456, .w 26 8, .w 26 32, .w 26 36, .p .reqs]

theorem bankClaim_out (rq : ReqId) {s : State} (h₀ : Out L₀ s₀ s)
    (hL : Key.sub bankClaimOut L₀ = true) :
    Out L₀ s₀ (bankClaim rq s) := by
  unfold bankClaim
  repeat'
    first
      | with_reducible assumption | with_reducible apply State.serve_out | with_reducible apply sized_out
      | with_reducible apply State.claimMask_out | exact Key.hasA rfl | exact Key.hasW | exact Out.sub hL rfl
      | intro _ | with_reducible apply Out.ite | split | dsimp only [id_eq]
      | (rename_i e; with_reducible refine Out.of_eq e ?_)

/-- What `bankDone` may change. -/
def bankDoneOut : List Key :=
  [.w 2 20, .w 2 24, .a 2 32 4, .w 2 5439488, .w 2 5505024, .w 4 12, .w 4 68,
    .a 4 16384 32, .a 4 16388 32, .a 4 16392 32, .a 4 16396 32, .a 4 16384000 268435456, .a 4 16449536 268435456,
    .w 6 8, .w 6 12, .w 7 12, .w 7 24, .w 7 28, .w 7 17956864, .w 9 8, .w 10 20, .w 10 24, .a 11 32 4, .a 11 48 4,
    .w 26 8, .w 26 32, .w 26 36, .a 65 22347776 268435456, .p .free, .p .edges, .p .inbox, .p .mcache, .p .jq,
    .p .jobNo, .p .cmds, .p .cqs, .p .nss, .p .bands, .p .vol, .p .points, .p .errlog, .p .reqs, .p .held, .p .pkt,
    .p .hbm, .p .poison, .p .lost, .p .kvLog, .p .stripes]

theorem bankDone_out (rq : ReqId) {s : State} (h₀ : Out L₀ s₀ s)
    (hL : Key.sub bankDoneOut L₀ = true) :
    Out L₀ s₀ (bankDone rq s) := by
  unfold bankDone
  repeat'
    first
      | with_reducible assumption | with_reducible apply State.serve_out | with_reducible apply sized_out
      | with_reducible apply State.doneMask_out | exact Key.hasA rfl | exact Key.hasW | exact Out.sub hL rfl
      | intro _ | with_reducible apply Out.ite | split | dsimp only [id_eq]
      | (rename_i e; with_reducible refine Out.of_eq e ?_)

theorem execIdentify_out (rq : ReqId) {s t : State} (h : execIdentify rq s = .next t) :
    Out [.p .reqs] s t := by
  have h := Host.Outcome.next.inj h; subst h; exact identifyCmd_out _ (Out.refl s) rfl

theorem execGetNonce_out (rq : ReqId) (nonce : BitVec 256) {s t : State} (h : execGetNonce rq nonce s = .next t) :
    Out [.p .reqs, .p .nonces] s t := by
  have h := Host.Outcome.next.inj h; subst h; exact getNonce_out _ _ (Out.refl s) rfl

theorem execInventory_out (rq : ReqId) {s t : State} (h : execInventory rq s = .next t) :
    Out [.p .reqs] s t := by
  have h := Host.Outcome.next.inj h; subst h; exact inventoryCmd_out _ (Out.refl s) rfl

theorem execCounters_out (rq : ReqId) {s t : State} (h : execCounters rq s = .next t) :
    Out [.p .reqs] s t := by
  have h := Host.Outcome.next.inj h; subst h; exact countersCmd_out _ (Out.refl s) rfl

theorem execClearXtal_out (rq : ReqId) {s t : State} (h : execClearXtal rq s = .next t) :
    Out [.w 22 8, .p .reqs] s t := by
  have h := Host.Outcome.next.inj h; subst h; exact clearXtal_out _ (Out.refl s) rfl

theorem execOptionRead_out (rq : ReqId) {s t : State} (h : execOptionRead rq s = .next t) :
    Out [.p .reqs] s t := by
  have h := Host.Outcome.next.inj h; subst h; exact optionRead_out _ (Out.refl s) rfl

theorem execOptionWrite_out (rq : ReqId) (ok1 : Bool) (ok2 : Bool) {s t : State} (h : execOptionWrite rq ok1 ok2 s = .next t) :
    Out optionWriteOut s t := by
  have h := Host.Outcome.next.inj h; subst h; exact optionWrite_out _ _ _ (Out.refl s) rfl

theorem execKeyRegister_out (rq : ReqId) (ok1 : Bool) (ok2 : Bool) {s t : State} (h : execKeyRegister rq ok1 ok2 s = .next t) :
    Out optionWriteOut s t := by
  have h := Host.Outcome.next.inj h; subst h; exact keyRegister_out _ _ _ (Out.refl s) rfl

theorem execSetBudget_out (rq : ReqId) {s t : State} (h : execSetBudget rq s = .next t) :
    Out setBudgetCmdOut s t := by
  have h := Host.Outcome.next.inj h; subst h; exact setBudgetCmd_out _ (Out.refl s) rfl

theorem execGetBudget_out (rq : ReqId) {s t : State} (h : execGetBudget rq s = .next t) :
    Out [.p .reqs] s t := by
  have h := Host.Outcome.next.inj h; subst h; exact getBudgetCmd_out _ (Out.refl s) rfl

theorem execSpinSlot_out (rq : ReqId) {s t : State} (h : execSpinSlot rq s = .next t) :
    Out spinSlotOut s t := by
  have h := Host.Outcome.next.inj h; subst h; exact spinSlot_out _ (Out.refl s) rfl

theorem execSpinStatus_out (rq : ReqId) {s t : State} (h : execSpinStatus rq s = .next t) :
    Out [.p .reqs] s t := by
  have h := Host.Outcome.next.inj h; subst h; exact spinStatus_out _ (Out.refl s) rfl

theorem execThermalRead_out (rq : ReqId) {s t : State} (h : execThermalRead rq s = .next t) :
    Out [.p .reqs] s t := by
  have h := Host.Outcome.next.inj h; subst h; exact thermalRead_out _ (Out.refl s) rfl

theorem execClearSuspect_out (rq : ReqId) {s t : State} (h : execClearSuspect rq s = .next t) :
    Out [.w 23 8, .a 23 19726336 268435456, .p .reqs] s t := by
  have h := Host.Outcome.next.inj h; subst h; exact clearSuspectCmd_out _ (Out.refl s) rfl

theorem execTrimRead_out (rq : ReqId) {s t : State} (h : execTrimRead rq s = .next t) :
    Out [.p .reqs] s t := by
  have h := Host.Outcome.next.inj h; subst h; exact trimRead_out _ (Out.refl s) rfl

theorem execTrimWrite_out (rq : ReqId) {s t : State} (h : execTrimWrite rq s = .next t) :
    Out [.all, .p .edges, .p .reqs, .p .shadow] s t := by
  have h := Host.Outcome.next.inj h; subst h; exact trimWrite_out _ (Out.refl s) rfl

theorem execTableRead_out (rq : ReqId) {s t : State} (h : execTableRead rq s = .next t) :
    Out [.p .reqs] s t := by
  have h := Host.Outcome.next.inj h; subst h; exact tableRead_out _ (Out.refl s) rfl

theorem execTableWrite_out (rq : ReqId) {s t : State} (h : execTableWrite rq s = .next t) :
    Out tableWriteOut s t := by
  have h := Host.Outcome.next.inj h; subst h; exact tableWrite_out _ (Out.refl s) rfl

theorem execTailorSave_out (rq : ReqId) (ok : Bool) {s t : State} (h : execTailorSave rq ok s = .next t) :
    Out tailorSaveOut s t := by
  have h := Host.Outcome.next.inj h; subst h; exact tailorSave_out _ _ (Out.refl s) rfl

theorem execCertRead_out (rq : ReqId) {s t : State} (h : execCertRead rq s = .next t) :
    Out [.p .reqs] s t := by
  have h := Host.Outcome.next.inj h; subst h; exact certRead_out _ (Out.refl s) rfl

theorem execAgeingRead_out (rq : ReqId) {s t : State} (h : execAgeingRead rq s = .next t) :
    Out [.p .reqs] s t := by
  have h := Host.Outcome.next.inj h; subst h; exact ageingRead_out _ (Out.refl s) rfl

theorem execMarginRead_out (rq : ReqId) {s t : State} (h : execMarginRead rq s = .next t) :
    Out [.p .reqs] s t := by
  have h := Host.Outcome.next.inj h; subst h; exact marginRead_out _ (Out.refl s) rfl

theorem execMeasureNow_out (rq : ReqId) {s t : State} (h : execMeasureNow rq s = .next t) :
    Out [.w 24 8, .p .reqs, .p .dues] s t := by
  have h := Host.Outcome.next.inj h; subst h; exact measureNow_out _ (Out.refl s) rfl

theorem execPblRead_out (rq : ReqId) {s t : State} (h : execPblRead rq s = .next t) :
    Out [.p .reqs] s t := by
  have h := Host.Outcome.next.inj h; subst h; exact pblRead_out _ (Out.refl s) rfl

theorem execPblStatus_out (rq : ReqId) {s t : State} (h : execPblStatus rq s = .next t) :
    Out [.p .reqs] s t := by
  have h := Host.Outcome.next.inj h; subst h; exact pblStatus_out _ (Out.refl s) rfl

theorem execPblClear_out (rq : ReqId) (ok : Bool) {s t : State} (h : execPblClear rq ok s = .next t) :
    Out pblClearCmdOut s t := by
  have h := Host.Outcome.next.inj h; subst h; exact pblClearCmd_out _ _ (Out.refl s) rfl

theorem execFwDownload_out (rq : ReqId) (ok : Bool) {s t : State} (h : execFwDownload rq ok s = .next t) :
    Out fwDownloadCmdOut s t := by
  have h := Host.Outcome.next.inj h; subst h; exact fwDownloadCmd_out _ _ (Out.refl s) rfl

theorem execFwCommit_out (rq : ReqId) (ok : Bool) {s t : State} (h : execFwCommit rq ok s = .next t) :
    Out fwCommitCmdOut s t := by
  have h := Host.Outcome.next.inj h; subst h; exact fwCommitCmd_out _ _ (Out.refl s) rfl

theorem execFwStatus_out (rq : ReqId) {s t : State} (h : execFwStatus rq s = .next t) :
    Out [.p .reqs] s t := by
  have h := Host.Outcome.next.inj h; subst h; exact fwStatus_out _ (Out.refl s) rfl

theorem execFlashStatus_out (rq : ReqId) {s t : State} (h : execFlashStatus rq s = .next t) :
    Out [.p .reqs] s t := by
  have h := Host.Outcome.next.inj h; subst h; exact flashStatus_out _ (Out.refl s) rfl

theorem execPlacementSet_out (rq : ReqId) {s t : State} (h : execPlacementSet rq s = .next t) :
    Out [.w 65 17498112, .p .reqs] s t := by
  have h := Host.Outcome.next.inj h; subst h; exact placementSet_out _ (Out.refl s) rfl

theorem execPlacementGet_out (rq : ReqId) {s t : State} (h : execPlacementGet rq s = .next t) :
    Out [.p .reqs] s t := by
  have h := Host.Outcome.next.inj h; subst h; exact placementGet_out _ (Out.refl s) rfl

theorem execBandInfo_out (rq : ReqId) {s t : State} (h : execBandInfo rq s = .next t) :
    Out [.p .reqs] s t := by
  have h := Host.Outcome.next.inj h; subst h; exact bandInfo_out _ (Out.refl s) rfl

theorem execPoolInfo_out (rq : ReqId) {s t : State} (h : execPoolInfo rq s = .next t) :
    Out [.p .reqs] s t := by
  have h := Host.Outcome.next.inj h; subst h; exact poolInfo_out _ (Out.refl s) rfl

theorem execAltQueue_out (rq : ReqId) {s t : State} (h : execAltQueue rq s = .next t) :
    Out [.p .reqs] s t := by
  have h := Host.Outcome.next.inj h; subst h; exact altQueue_out _ (Out.refl s) rfl

theorem execDefaultsSet_out (rq : ReqId) {s t : State} (h : execDefaultsSet rq s = .next t) :
    Out [.w 66 17563648, .p .reqs] s t := by
  have h := Host.Outcome.next.inj h; subst h; exact defaultsSet_out _ (Out.refl s) rfl

theorem execDefaultsGet_out (rq : ReqId) {s t : State} (h : execDefaultsGet rq s = .next t) :
    Out [.p .reqs] s t := by
  have h := Host.Outcome.next.inj h; subst h; exact defaultsGet_out _ (Out.refl s) rfl

theorem execGroupSet_out (rq : ReqId) {s t : State} (h : execGroupSet rq s = .next t) :
    Out [.p .reqs, .p .group] s t := by
  have h := Host.Outcome.next.inj h; subst h; exact groupSet_out _ (Out.refl s) rfl

theorem execGroupStatus_out (rq : ReqId) {s t : State} (h : execGroupStatus rq s = .next t) :
    Out [.p .reqs] s t := by
  have h := Host.Outcome.next.inj h; subst h; exact groupStatus_out _ (Out.refl s) rfl

theorem execPeerHello_out (rq : ReqId) {s t : State} (h : execPeerHello rq s = .next t) :
    Out peerHelloOut s t := by
  have h := Host.Outcome.next.inj h; subst h; exact peerHello_out _ (Out.refl s) rfl

theorem execAdopt_out (rq : ReqId) {s t : State} (h : execAdopt rq s = .next t) :
    Out [.p .reqs, .p .peerAdopt] s t := by
  have h := Host.Outcome.next.inj h; subst h; exact adoptCmd_out _ (Out.refl s) rfl

theorem execSrcRoute_out (rq : ReqId) {s t : State} (h : execSrcRoute rq s = .next t) :
    Out [.a 4 4096 4, .p .inbox, .p .reqs] s t := by
  have h := Host.Outcome.next.inj h; subst h; exact srcRoute_out _ (Out.refl s) rfl

theorem execSrcRead_out (rq : ReqId) {s t : State} (h : execSrcRead rq s = .next t) :
    Out [.p .reqs] s t := by
  have h := Host.Outcome.next.inj h; subst h; exact srcRead_out _ (Out.refl s) rfl

theorem execDoorbell_out (rq : ReqId) {s t : State} (h : execDoorbell rq s = .next t) :
    Out doorbellCmdOut s t := by
  have h := Host.Outcome.next.inj h; subst h; exact doorbellCmd_out _ (Out.refl s) rfl

theorem execSoftSource_out (rq : ReqId) {s t : State} (h : execSoftSource rq s = .next t) :
    Out [.w 4 16515072, .p .edges, .p .reqs] s t := by
  have h := Host.Outcome.next.inj h; subst h; exact softSourceCmd_out _ (Out.refl s) rfl

theorem execBankClaim_out (rq : ReqId) {s t : State} (h : execBankClaim rq s = .next t) :
    Out bankClaimOut s t := by
  have h := Host.Outcome.next.inj h; subst h; exact bankClaim_out _ (Out.refl s) rfl

theorem execBankDone_out (rq : ReqId) {s t : State} (h : execBankDone rq s = .next t) :
    Out bankDoneOut s t := by
  have h := Host.Outcome.next.inj h; subst h; exact bankDone_out _ (Out.refl s) rfl

end Sys2Proof.Machine
end

