-- ==== Sys2Proof/Laws/OutSideshow.lean ====
section
/-!
SUPPORT. What each operation and each command of `Machine/Sideshow.lean` can change.
-/

namespace Sys2Proof.Machine

set_option Elab.async false
set_option linter.unusedVariables false

set_option maxRecDepth 8000
set_option linter.unusedTactic false
set_option linter.unreachableTactic false

variable {L₀ : List Key} {s₀ : State}

theorem State.sdsProto_out {s : State} (off : Nat) (h₀ : Out L₀ s₀ s)
    (hL : Key.sub [.w 26 12, .w 26 64, .p .edges, .p .inbox] L₀ = true) :
    Out L₀ s₀ (State.sdsProto s off) := by
  unfold State.sdsProto
  repeat'
    first
      | with_reducible assumption | with_reducible apply Out.post | with_reducible apply Out.count
      | with_reducible apply Out.evt | exact Key.hasA rfl | exact Key.hasW | exact Out.sub hL rfl | intro _
      | with_reducible apply Out.ite | split | dsimp only [id_eq]
      | (rename_i e; with_reducible refine Out.of_eq e ?_)

/-- What `State.sdsGo` may change. -/
def sdsGoOut : List Key :=
  [.w 3 8, .w 3 12, .w 3 64, .a 3 256 4, .w 26 8, .w 26 12, .w 26 64, .p .edges,
    .p .inbox, .p .reqs, .p .reqNo]

theorem State.sdsGo_out {s : State} (h₀ : Out L₀ s₀ s)
    (hL : Key.sub sdsGoOut L₀ = true) :
    Out L₀ s₀ (State.sdsGo s) := by
  unfold State.sdsGo
  repeat'
    first
      | with_reducible assumption | with_reducible apply State.sdsProto_out | with_reducible apply State.accept_out
      | with_reducible apply Out.put | with_reducible apply Out.puts_nil | with_reducible apply Out.puts_cons
      | exact Key.hasA rfl | exact Key.hasW | exact Out.sub hL rfl | intro _ | with_reducible apply Out.ite | split
      | dsimp only [id_eq] | (rename_i e; with_reducible refine Out.of_eq e ?_)

/-- What `State.sdsAck` may change. -/
def sdsAckOut : List Key :=
  [.w 3 8, .a 3 256 4, .w 26 8, .w 26 12, .w 26 64, .p .edges, .p .inbox, .p .reqs]

theorem State.sdsAck_out {s : State} (h₀ : Out L₀ s₀ s)
    (hL : Key.sub sdsAckOut L₀ = true) :
    Out L₀ s₀ (State.sdsAck s) := by
  unfold State.sdsAck
  repeat'
    first
      | with_reducible assumption | with_reducible apply Out.put | with_reducible apply Out.forAll
      | with_reducible apply Out.when | with_reducible apply State.dropReq_out | with_reducible apply Out.puts_nil
      | with_reducible apply Out.puts_cons | with_reducible apply State.sdsProto_out | exact Key.hasA rfl
      | exact Key.hasW | exact Out.sub hL rfl | intro _ | with_reducible apply Out.ite | split | dsimp only [id_eq]
      | (rename_i e; with_reducible refine Out.of_eq e ?_)

/-- What `State.sdsWord` may change. -/
def sdsWordOut : List Key :=
  [.all, .p .win, .p .free, .p .edges, .p .inbox, .p .mcache, .p .jq, .p .jobNo,
    .p .cmds, .p .cqs, .p .nss, .p .bands, .p .vol, .p .points, .p .errlog, .p .reqs, .p .reqNo, .p .held, .p .pkt,
    .p .hbm, .p .poison, .p .lost, .p .kvLog, .p .stripes]

theorem State.sdsWord_out {s : State} (off : Nat) (v : Nat) (hw : Nat) (h₀ : Out L₀ s₀ s)
    (hL : Key.sub sdsWordOut L₀ = true) :
    Out L₀ s₀ (State.sdsWord s off v hw) := by
  unfold State.sdsWord
  repeat'
    first
      | with_reducible assumption | with_reducible apply State.sdsProto_out | with_reducible apply State.putWin_out
      | with_reducible apply Out.put | with_reducible apply Out.when | with_reducible apply State.sdsAck_out
      | with_reducible apply State.sdsGo_out | with_reducible apply State.claimMask_out
      | with_reducible apply State.doneMask_out | with_reducible apply Out.counterClear
      | with_reducible apply State.putWord_out | exact Key.hasA rfl | exact Key.hasW | exact Out.sub hL rfl | intro _
      | with_reducible apply Out.ite | split | dsimp only [id_eq]
      | (rename_i e; with_reducible refine Out.of_eq e ?_)

theorem State.sdsWords_out : ∀ (l : List Byte) {s : State} (hw : List (BitVec 32)) (off : Nat), Out L₀ s₀ s →
    Key.sub sdsWordOut L₀ = true → Out L₀ s₀ (State.sdsWords s hw off l)
  | b0 :: b1 :: b2 :: b3 :: l, s, hw, off, h, hL => by
    unfold State.sdsWords
    exact State.sdsWords_out l _ _ (State.sdsWord_out _ _ _ h (Out.sub hL rfl)) hL
  | [], s, hw, off, h, _ => by simpa only [State.sdsWords] using h
  | [_], s, hw, off, h, _ => by simpa only [State.sdsWords] using h
  | [_, _], s, hw, off, h, _ => by simpa only [State.sdsWords] using h
  | [_, _, _], s, hw, off, h, _ => by simpa only [State.sdsWords] using h

theorem spiWriteFrame_out (raw : List Byte) (hw : List (BitVec 32)) {s : State} (h₀ : Out L₀ s₀ s)
    (hL : Key.sub sdsWordOut L₀ = true) :
    Out L₀ s₀ (spiWriteFrame raw hw s) := by
  unfold spiWriteFrame
  repeat'
    first
      | with_reducible assumption | with_reducible apply State.sdsWords_out | exact Key.hasA rfl | exact Key.hasW
      | exact Out.sub hL rfl | intro _ | with_reducible apply Out.ite | split | dsimp only [id_eq]
      | (rename_i e; with_reducible refine Out.of_eq e ?_)

theorem spiReadFrame_out (off : BitVec 16) (n : BitVec 17) {s : State} (h₀ : Out L₀ s₀ s)
    (hL : Key.sub [.p .miso] L₀ = true) :
    Out L₀ s₀ (spiReadFrame off n s) := by
  unfold spiReadFrame
  repeat'
    first
      | with_reducible assumption | exact Key.hasA rfl | exact Key.hasW | exact Out.sub hL rfl | intro _
      | with_reducible apply Out.ite | split | dsimp only [id_eq]
      | (rename_i e; with_reducible refine Out.of_eq e ?_) | with_reducible apply Out.setMiso

theorem sdsGoCmd_out {s : State} (h₀ : Out L₀ s₀ s)
    (hL : Key.sub sdsGoOut L₀ = true) :
    Out L₀ s₀ (sdsGoCmd s) := by
  unfold sdsGoCmd
  repeat'
    first
      | with_reducible assumption | with_reducible apply State.sdsGo_out | exact Key.hasA rfl | exact Key.hasW
      | exact Out.sub hL rfl | intro _ | with_reducible apply Out.ite | split | dsimp only [id_eq]
      | (rename_i e; with_reducible refine Out.of_eq e ?_)

theorem sdsAckCmd_out {s : State} (h₀ : Out L₀ s₀ s)
    (hL : Key.sub sdsAckOut L₀ = true) :
    Out L₀ s₀ (sdsAckCmd s) := by
  unfold sdsAckCmd
  repeat'
    first
      | with_reducible assumption | with_reducible apply State.sdsAck_out | exact Key.hasA rfl | exact Key.hasW
      | exact Out.sub hL rfl | intro _ | with_reducible apply Out.ite | split | dsimp only [id_eq]
      | (rename_i e; with_reducible refine Out.of_eq e ?_)

theorem sdsClaim_out (hi : Bool) (v : BitVec 32) {s : State} (h₀ : Out L₀ s₀ s)
    (hL : Key.sub setBankStOut L₀ = true) :
    Out L₀ s₀ (sdsClaim hi v s) := by
  unfold sdsClaim
  repeat'
    first
      | with_reducible assumption | with_reducible apply State.claimMask_out | exact Key.hasA rfl | exact Key.hasW
      | exact Out.sub hL rfl | intro _ | with_reducible apply Out.ite | split | dsimp only [id_eq]
      | (rename_i e; with_reducible refine Out.of_eq e ?_)

theorem sdsDone_out (hi : Bool) (v : BitVec 32) {s : State} (h₀ : Out L₀ s₀ s)
    (hL : Key.sub doneBitOut L₀ = true) :
    Out L₀ s₀ (sdsDone hi v s) := by
  unfold sdsDone
  repeat'
    first
      | with_reducible assumption | with_reducible apply State.doneMask_out | exact Key.hasA rfl | exact Key.hasW
      | exact Out.sub hL rfl | intro _ | with_reducible apply Out.ite | split | dsimp only [id_eq]
      | (rename_i e; with_reducible refine Out.of_eq e ?_)

theorem execSpiWriteFrame_out (raw : List Byte) (hw : List (BitVec 32)) {s t : State} (h : execSpiWriteFrame raw hw s = .next t) :
    Out sdsWordOut s t := by
  have h := Host.Outcome.next.inj h; subst h; exact spiWriteFrame_out _ _ (Out.refl s) rfl

theorem execSpiReadFrame_out (off : BitVec 16) (n : BitVec 17) {s t : State} (h : execSpiReadFrame off n s = .next t) :
    Out [.p .miso] s t := by
  have h := Host.Outcome.next.inj h; subst h; exact spiReadFrame_out _ _ (Out.refl s) rfl

theorem execSdsGo_out {s t : State} (h : execSdsGo s = .next t) :
    Out sdsGoOut s t := by
  have h := Host.Outcome.next.inj h; subst h; exact sdsGoCmd_out  (Out.refl s) rfl

theorem execSdsAck_out {s t : State} (h : execSdsAck s = .next t) :
    Out sdsAckOut s t := by
  have h := Host.Outcome.next.inj h; subst h; exact sdsAckCmd_out  (Out.refl s) rfl

theorem execSdsClaim_out (hi : Bool) (v : BitVec 32) {s t : State} (h : execSdsClaim hi v s = .next t) :
    Out setBankStOut s t := by
  have h := Host.Outcome.next.inj h; subst h; exact sdsClaim_out _ _ (Out.refl s) rfl

theorem execSdsDone_out (hi : Bool) (v : BitVec 32) {s t : State} (h : execSdsDone hi v s = .next t) :
    Out doneBitOut s t := by
  have h := Host.Outcome.next.inj h; subst h; exact sdsDone_out _ _ (Out.refl s) rfl

end Sys2Proof.Machine
end

