-- ==== Sys2Proof/Laws/Reads.lean ====
section
/-!
SUPPORT. Reads after the operations that events, counters and records are made of.
-/

namespace Sys2Proof.Machine

@[simp] theorem State.evt_win (s : State) (k : Fld) : (s.evt k).win = s.win := by
  rw [State.regsOnly_evt s k]

@[simp] theorem State.countN_win (s : State) (k : Fld) (c : Nat) : (s.countN k c).win = s.win := by
  rw [State.regsOnly_countN s k c]

@[simp] theorem State.count_win (s : State) (k : Fld) : (s.count k).win = s.win := State.countN_win s k 1

@[simp] theorem State.evt_free (s : State) (k : Fld) : (s.evt k).free = s.free := by
  rw [State.regsOnly_evt s k]

@[simp] theorem State.countN_free (s : State) (k : Fld) (c : Nat) : (s.countN k c).free = s.free := by
  rw [State.regsOnly_countN s k c]

@[simp] theorem State.count_free (s : State) (k : Fld) : (s.count k).free = s.free := State.countN_free s k 1

@[simp] theorem State.evt_inbox (s : State) (k : Fld) : (s.evt k).inbox = s.inbox := by
  unfold State.evt State.watch; dsimp only; split <;> rfl

@[simp] theorem State.evt_chn (s : State) (k : Fld) : (s.evt k).chn = s.chn := by
  rw [State.regsOnly_evt s k]

@[simp] theorem State.countN_chn (s : State) (k : Fld) (c : Nat) : (s.countN k c).chn = s.chn := by
  rw [State.regsOnly_countN s k c]

@[simp] theorem State.count_chn (s : State) (k : Fld) : (s.count k).chn = s.chn := State.countN_chn s k 1

@[simp] theorem State.evt_seqs (s : State) (k : Fld) : (s.evt k).seqs = s.seqs := by
  rw [State.regsOnly_evt s k]

@[simp] theorem State.countN_seqs (s : State) (k : Fld) (c : Nat) : (s.countN k c).seqs = s.seqs := by
  rw [State.regsOnly_countN s k c]

@[simp] theorem State.count_seqs (s : State) (k : Fld) : (s.count k).seqs = s.seqs := State.countN_seqs s k 1

@[simp] theorem State.evt_pa (s : State) (k : Fld) : (s.evt k).pa = s.pa := by
  rw [State.regsOnly_evt s k]

@[simp] theorem State.countN_pa (s : State) (k : Fld) (c : Nat) : (s.countN k c).pa = s.pa := by
  rw [State.regsOnly_countN s k c]

@[simp] theorem State.count_pa (s : State) (k : Fld) : (s.count k).pa = s.pa := State.countN_pa s k 1

@[simp] theorem State.evt_jq (s : State) (k : Fld) : (s.evt k).jq = s.jq := by
  rw [State.regsOnly_evt s k]

@[simp] theorem State.countN_jq (s : State) (k : Fld) (c : Nat) : (s.countN k c).jq = s.jq := by
  rw [State.regsOnly_countN s k c]

@[simp] theorem State.count_jq (s : State) (k : Fld) : (s.count k).jq = s.jq := State.countN_jq s k 1

@[simp] theorem State.evt_jact (s : State) (k : Fld) : (s.evt k).jact = s.jact := by
  rw [State.regsOnly_evt s k]

@[simp] theorem State.countN_jact (s : State) (k : Fld) (c : Nat) : (s.countN k c).jact = s.jact := by
  rw [State.regsOnly_countN s k c]

@[simp] theorem State.count_jact (s : State) (k : Fld) : (s.count k).jact = s.jact := State.countN_jact s k 1

@[simp] theorem State.evt_jobNo (s : State) (k : Fld) : (s.evt k).jobNo = s.jobNo := by
  rw [State.regsOnly_evt s k]

@[simp] theorem State.countN_jobNo (s : State) (k : Fld) (c : Nat) : (s.countN k c).jobNo = s.jobNo := by
  rw [State.regsOnly_countN s k c]

@[simp] theorem State.count_jobNo (s : State) (k : Fld) : (s.count k).jobNo = s.jobNo := State.countN_jobNo s k 1

@[simp] theorem State.evt_opt (s : State) (k : Fld) : (s.evt k).opt = s.opt := by
  rw [State.regsOnly_evt s k]

@[simp] theorem State.countN_opt (s : State) (k : Fld) (c : Nat) : (s.countN k c).opt = s.opt := by
  rw [State.regsOnly_countN s k c]

@[simp] theorem State.count_opt (s : State) (k : Fld) : (s.count k).opt = s.opt := State.countN_opt s k 1

@[simp] theorem State.evt_fmt (s : State) (k : Fld) : (s.evt k).fmt = s.fmt := by
  rw [State.regsOnly_evt s k]

@[simp] theorem State.countN_fmt (s : State) (k : Fld) (c : Nat) : (s.countN k c).fmt = s.fmt := by
  rw [State.regsOnly_countN s k c]

@[simp] theorem State.count_fmt (s : State) (k : Fld) : (s.count k).fmt = s.fmt := State.countN_fmt s k 1

@[simp] theorem State.evt_cmds (s : State) (k : Fld) : (s.evt k).cmds = s.cmds := by
  rw [State.regsOnly_evt s k]

@[simp] theorem State.countN_cmds (s : State) (k : Fld) (c : Nat) : (s.countN k c).cmds = s.cmds := by
  rw [State.regsOnly_countN s k c]

@[simp] theorem State.count_cmds (s : State) (k : Fld) : (s.count k).cmds = s.cmds := State.countN_cmds s k 1

@[simp] theorem State.evt_cmdNo (s : State) (k : Fld) : (s.evt k).cmdNo = s.cmdNo := by
  rw [State.regsOnly_evt s k]

@[simp] theorem State.countN_cmdNo (s : State) (k : Fld) (c : Nat) : (s.countN k c).cmdNo = s.cmdNo := by
  rw [State.regsOnly_countN s k c]

@[simp] theorem State.count_cmdNo (s : State) (k : Fld) : (s.count k).cmdNo = s.cmdNo := State.countN_cmdNo s k 1

@[simp] theorem State.evt_cqs (s : State) (k : Fld) : (s.evt k).cqs = s.cqs := by
  rw [State.regsOnly_evt s k]

@[simp] theorem State.countN_cqs (s : State) (k : Fld) (c : Nat) : (s.countN k c).cqs = s.cqs := by
  rw [State.regsOnly_countN s k c]

@[simp] theorem State.count_cqs (s : State) (k : Fld) : (s.count k).cqs = s.cqs := State.countN_cqs s k 1

@[simp] theorem State.evt_ctrls (s : State) (k : Fld) : (s.evt k).ctrls = s.ctrls := by
  rw [State.regsOnly_evt s k]

@[simp] theorem State.countN_ctrls (s : State) (k : Fld) (c : Nat) : (s.countN k c).ctrls = s.ctrls := by
  rw [State.regsOnly_countN s k c]

@[simp] theorem State.count_ctrls (s : State) (k : Fld) : (s.count k).ctrls = s.ctrls := State.countN_ctrls s k 1

@[simp] theorem State.evt_visit (s : State) (k : Fld) : (s.evt k).visit = s.visit := by
  rw [State.regsOnly_evt s k]

@[simp] theorem State.countN_visit (s : State) (k : Fld) (c : Nat) : (s.countN k c).visit = s.visit := by
  rw [State.regsOnly_countN s k c]

@[simp] theorem State.count_visit (s : State) (k : Fld) : (s.count k).visit = s.visit := State.countN_visit s k 1

@[simp] theorem State.evt_nss (s : State) (k : Fld) : (s.evt k).nss = s.nss := by
  rw [State.regsOnly_evt s k]

@[simp] theorem State.countN_nss (s : State) (k : Fld) (c : Nat) : (s.countN k c).nss = s.nss := by
  rw [State.regsOnly_countN s k c]

@[simp] theorem State.count_nss (s : State) (k : Fld) : (s.count k).nss = s.nss := State.countN_nss s k 1

@[simp] theorem State.evt_zones (s : State) (k : Fld) : (s.evt k).zones = s.zones := by
  rw [State.regsOnly_evt s k]

@[simp] theorem State.countN_zones (s : State) (k : Fld) (c : Nat) : (s.countN k c).zones = s.zones := by
  rw [State.regsOnly_countN s k c]

@[simp] theorem State.count_zones (s : State) (k : Fld) : (s.count k).zones = s.zones := State.countN_zones s k 1

@[simp] theorem State.evt_bands (s : State) (k : Fld) : (s.evt k).bands = s.bands := by
  rw [State.regsOnly_evt s k]

@[simp] theorem State.countN_bands (s : State) (k : Fld) (c : Nat) : (s.countN k c).bands = s.bands := by
  rw [State.regsOnly_countN s k c]

@[simp] theorem State.count_bands (s : State) (k : Fld) : (s.count k).bands = s.bands := State.countN_bands s k 1

@[simp] theorem State.evt_vol (s : State) (k : Fld) : (s.evt k).vol = s.vol := by
  rw [State.regsOnly_evt s k]

@[simp] theorem State.countN_vol (s : State) (k : Fld) (c : Nat) : (s.countN k c).vol = s.vol := by
  rw [State.regsOnly_countN s k c]

@[simp] theorem State.count_vol (s : State) (k : Fld) : (s.count k).vol = s.vol := State.countN_vol s k 1

@[simp] theorem State.evt_dur (s : State) (k : Fld) : (s.evt k).dur = s.dur := by
  rw [State.regsOnly_evt s k]

@[simp] theorem State.countN_dur (s : State) (k : Fld) (c : Nat) : (s.countN k c).dur = s.dur := by
  rw [State.regsOnly_countN s k c]

@[simp] theorem State.count_dur (s : State) (k : Fld) : (s.count k).dur = s.dur := State.countN_dur s k 1

@[simp] theorem State.evt_wseq (s : State) (k : Fld) : (s.evt k).wseq = s.wseq := by
  rw [State.regsOnly_evt s k]

@[simp] theorem State.countN_wseq (s : State) (k : Fld) (c : Nat) : (s.countN k c).wseq = s.wseq := by
  rw [State.regsOnly_countN s k c]

@[simp] theorem State.count_wseq (s : State) (k : Fld) : (s.count k).wseq = s.wseq := State.countN_wseq s k 1

@[simp] theorem State.evt_points (s : State) (k : Fld) : (s.evt k).points = s.points := by
  rw [State.regsOnly_evt s k]

@[simp] theorem State.countN_points (s : State) (k : Fld) (c : Nat) : (s.countN k c).points = s.points := by
  rw [State.regsOnly_countN s k c]

@[simp] theorem State.count_points (s : State) (k : Fld) : (s.count k).points = s.points := State.countN_points s k 1

@[simp] theorem State.evt_mops (s : State) (k : Fld) : (s.evt k).mops = s.mops := by
  rw [State.regsOnly_evt s k]

@[simp] theorem State.countN_mops (s : State) (k : Fld) (c : Nat) : (s.countN k c).mops = s.mops := by
  rw [State.regsOnly_countN s k c]

@[simp] theorem State.count_mops (s : State) (k : Fld) : (s.count k).mops = s.mops := State.countN_mops s k 1

@[simp] theorem State.evt_opid (s : State) (k : Fld) : (s.evt k).opid = s.opid := by
  rw [State.regsOnly_evt s k]

@[simp] theorem State.countN_opid (s : State) (k : Fld) (c : Nat) : (s.countN k c).opid = s.opid := by
  rw [State.regsOnly_countN s k c]

@[simp] theorem State.count_opid (s : State) (k : Fld) : (s.count k).opid = s.opid := State.countN_opid s k 1

@[simp] theorem State.evt_journal (s : State) (k : Fld) : (s.evt k).journal = s.journal := by
  rw [State.regsOnly_evt s k]

@[simp] theorem State.countN_journal (s : State) (k : Fld) (c : Nat) : (s.countN k c).journal = s.journal := by
  rw [State.regsOnly_countN s k c]

@[simp] theorem State.count_journal (s : State) (k : Fld) : (s.count k).journal = s.journal := State.countN_journal s k 1

@[simp] theorem State.evt_jseq (s : State) (k : Fld) : (s.evt k).jseq = s.jseq := by
  rw [State.regsOnly_evt s k]

@[simp] theorem State.countN_jseq (s : State) (k : Fld) (c : Nat) : (s.countN k c).jseq = s.jseq := by
  rw [State.regsOnly_countN s k c]

@[simp] theorem State.count_jseq (s : State) (k : Fld) : (s.count k).jseq = s.jseq := State.countN_jseq s k 1

@[simp] theorem State.evt_demands (s : State) (k : Fld) : (s.evt k).demands = s.demands := by
  rw [State.regsOnly_evt s k]

@[simp] theorem State.countN_demands (s : State) (k : Fld) (c : Nat) : (s.countN k c).demands = s.demands := by
  rw [State.regsOnly_countN s k c]

@[simp] theorem State.count_demands (s : State) (k : Fld) : (s.count k).demands = s.demands := State.countN_demands s k 1

@[simp] theorem State.evt_test (s : State) (k : Fld) : (s.evt k).test = s.test := by
  rw [State.regsOnly_evt s k]

@[simp] theorem State.countN_test (s : State) (k : Fld) (c : Nat) : (s.countN k c).test = s.test := by
  rw [State.regsOnly_countN s k c]

@[simp] theorem State.count_test (s : State) (k : Fld) : (s.count k).test = s.test := State.countN_test s k 1

@[simp] theorem State.evt_testLog (s : State) (k : Fld) : (s.evt k).testLog = s.testLog := by
  rw [State.regsOnly_evt s k]

@[simp] theorem State.countN_testLog (s : State) (k : Fld) (c : Nat) : (s.countN k c).testLog = s.testLog := by
  rw [State.regsOnly_countN s k c]

@[simp] theorem State.count_testLog (s : State) (k : Fld) : (s.count k).testLog = s.testLog := State.countN_testLog s k 1

@[simp] theorem State.evt_tstore (s : State) (k : Fld) : (s.evt k).tstore = s.tstore := by
  rw [State.regsOnly_evt s k]

@[simp] theorem State.countN_tstore (s : State) (k : Fld) (c : Nat) : (s.countN k c).tstore = s.tstore := by
  rw [State.regsOnly_countN s k c]

@[simp] theorem State.count_tstore (s : State) (k : Fld) : (s.count k).tstore = s.tstore := State.countN_tstore s k 1

@[simp] theorem State.evt_rung6 (s : State) (k : Fld) : (s.evt k).rung6 = s.rung6 := by
  rw [State.regsOnly_evt s k]

@[simp] theorem State.countN_rung6 (s : State) (k : Fld) (c : Nat) : (s.countN k c).rung6 = s.rung6 := by
  rw [State.regsOnly_countN s k c]

@[simp] theorem State.count_rung6 (s : State) (k : Fld) : (s.count k).rung6 = s.rung6 := State.countN_rung6 s k 1

@[simp] theorem State.evt_amps (s : State) (k : Fld) : (s.evt k).amps = s.amps := by
  rw [State.regsOnly_evt s k]

@[simp] theorem State.countN_amps (s : State) (k : Fld) (c : Nat) : (s.countN k c).amps = s.amps := by
  rw [State.regsOnly_countN s k c]

@[simp] theorem State.count_amps (s : State) (k : Fld) : (s.count k).amps = s.amps := State.countN_amps s k 1

@[simp] theorem State.evt_loops (s : State) (k : Fld) : (s.evt k).loops = s.loops := by
  rw [State.regsOnly_evt s k]

@[simp] theorem State.countN_loops (s : State) (k : Fld) (c : Nat) : (s.countN k c).loops = s.loops := by
  rw [State.regsOnly_countN s k c]

@[simp] theorem State.count_loops (s : State) (k : Fld) : (s.count k).loops = s.loops := State.countN_loops s k 1

@[simp] theorem State.evt_tstk (s : State) (k : Fld) : (s.evt k).tstk = s.tstk := by
  rw [State.regsOnly_evt s k]

@[simp] theorem State.countN_tstk (s : State) (k : Fld) (c : Nat) : (s.countN k c).tstk = s.tstk := by
  rw [State.regsOnly_countN s k c]

@[simp] theorem State.count_tstk (s : State) (k : Fld) : (s.count k).tstk = s.tstk := State.countN_tstk s k 1

@[simp] theorem State.evt_tshd (s : State) (k : Fld) : (s.evt k).tshd = s.tshd := by
  rw [State.regsOnly_evt s k]

@[simp] theorem State.countN_tshd (s : State) (k : Fld) (c : Nat) : (s.countN k c).tshd = s.tshd := by
  rw [State.regsOnly_countN s k c]

@[simp] theorem State.count_tshd (s : State) (k : Fld) : (s.count k).tshd = s.tshd := State.countN_tshd s k 1

@[simp] theorem State.evt_tshr (s : State) (k : Fld) : (s.evt k).tshr = s.tshr := by
  rw [State.regsOnly_evt s k]

@[simp] theorem State.evt_altered (s : State) (k : Fld) : (s.evt k).altered = s.altered := by
  rw [State.regsOnly_evt s k]

@[simp] theorem State.evt_weakSlots (s : State) (k : Fld) : (s.evt k).weakSlots = s.weakSlots := by
  rw [State.regsOnly_evt s k]

@[simp] theorem State.evt_sams (s : State) (k : Fld) : (s.evt k).sams = s.sams := by
  rw [State.regsOnly_evt s k]

@[simp] theorem State.evt_tscrub (s : State) (k : Fld) : (s.evt k).tscrub = s.tscrub := by
  rw [State.regsOnly_evt s k]

@[simp] theorem State.evt_fwImg (s : State) (k : Fld) : (s.evt k).fwImg = s.fwImg := by
  rw [State.regsOnly_evt s k]

@[simp] theorem State.evt_fwErased (s : State) (k : Fld) : (s.evt k).fwErased = s.fwErased := by
  rw [State.regsOnly_evt s k]

@[simp] theorem State.evt_bstore (s : State) (k : Fld) : (s.evt k).bstore = s.bstore := by
  rw [State.regsOnly_evt s k]

@[simp] theorem State.evt_wd (s : State) (k : Fld) : (s.evt k).wd = s.wd := by
  rw [State.regsOnly_evt s k]

@[simp] theorem State.evt_media (s : State) (k : Fld) : (s.evt k).media = s.media := by
  rw [State.regsOnly_evt s k]

@[simp] theorem State.evt_mcache (s : State) (k : Fld) : (s.evt k).mcache = s.mcache := by
  rw [State.regsOnly_evt s k]

@[simp] theorem State.evt_sysrec (s : State) (k : Fld) : (s.evt k).sysrec = s.sysrec := by
  rw [State.regsOnly_evt s k]

@[simp] theorem State.evt_cstore (s : State) (k : Fld) : (s.evt k).cstore = s.cstore := by
  rw [State.regsOnly_evt s k]

@[simp] theorem State.countN_tshr (s : State) (k : Fld) (c : Nat) : (s.countN k c).tshr = s.tshr := by
  rw [State.regsOnly_countN s k c]

@[simp] theorem State.countN_altered (s : State) (k : Fld) (c : Nat) : (s.countN k c).altered = s.altered := by
  rw [State.regsOnly_countN s k c]

@[simp] theorem State.countN_weakSlots (s : State) (k : Fld) (c : Nat) : (s.countN k c).weakSlots = s.weakSlots := by
  rw [State.regsOnly_countN s k c]

@[simp] theorem State.countN_sams (s : State) (k : Fld) (c : Nat) : (s.countN k c).sams = s.sams := by
  rw [State.regsOnly_countN s k c]

@[simp] theorem State.countN_tscrub (s : State) (k : Fld) (c : Nat) : (s.countN k c).tscrub = s.tscrub := by
  rw [State.regsOnly_countN s k c]

@[simp] theorem State.countN_fwImg (s : State) (k : Fld) (c : Nat) : (s.countN k c).fwImg = s.fwImg := by
  rw [State.regsOnly_countN s k c]

@[simp] theorem State.countN_fwErased (s : State) (k : Fld) (c : Nat) : (s.countN k c).fwErased = s.fwErased := by
  rw [State.regsOnly_countN s k c]

@[simp] theorem State.countN_bstore (s : State) (k : Fld) (c : Nat) : (s.countN k c).bstore = s.bstore := by
  rw [State.regsOnly_countN s k c]

@[simp] theorem State.countN_wd (s : State) (k : Fld) (c : Nat) : (s.countN k c).wd = s.wd := by
  rw [State.regsOnly_countN s k c]

@[simp] theorem State.countN_media (s : State) (k : Fld) (c : Nat) : (s.countN k c).media = s.media := by
  rw [State.regsOnly_countN s k c]

@[simp] theorem State.countN_mcache (s : State) (k : Fld) (c : Nat) : (s.countN k c).mcache = s.mcache := by
  rw [State.regsOnly_countN s k c]

@[simp] theorem State.countN_sysrec (s : State) (k : Fld) (c : Nat) : (s.countN k c).sysrec = s.sysrec := by
  rw [State.regsOnly_countN s k c]

@[simp] theorem State.countN_cstore (s : State) (k : Fld) (c : Nat) : (s.countN k c).cstore = s.cstore := by
  rw [State.regsOnly_countN s k c]

@[simp] theorem State.count_tshr (s : State) (k : Fld) : (s.count k).tshr = s.tshr := State.countN_tshr s k 1

@[simp] theorem State.count_altered (s : State) (k : Fld) : (s.count k).altered = s.altered := State.countN_altered s k 1

@[simp] theorem State.count_weakSlots (s : State) (k : Fld) : (s.count k).weakSlots = s.weakSlots := State.countN_weakSlots s k 1

@[simp] theorem State.count_sams (s : State) (k : Fld) : (s.count k).sams = s.sams := State.countN_sams s k 1

@[simp] theorem State.count_tscrub (s : State) (k : Fld) : (s.count k).tscrub = s.tscrub := State.countN_tscrub s k 1

@[simp] theorem State.count_fwImg (s : State) (k : Fld) : (s.count k).fwImg = s.fwImg := State.countN_fwImg s k 1

@[simp] theorem State.count_fwErased (s : State) (k : Fld) : (s.count k).fwErased = s.fwErased := State.countN_fwErased s k 1

@[simp] theorem State.count_bstore (s : State) (k : Fld) : (s.count k).bstore = s.bstore := State.countN_bstore s k 1

@[simp] theorem State.count_wd (s : State) (k : Fld) : (s.count k).wd = s.wd := State.countN_wd s k 1

@[simp] theorem State.count_media (s : State) (k : Fld) : (s.count k).media = s.media := State.countN_media s k 1

@[simp] theorem State.count_mcache (s : State) (k : Fld) : (s.count k).mcache = s.mcache := State.countN_mcache s k 1

@[simp] theorem State.count_sysrec (s : State) (k : Fld) : (s.count k).sysrec = s.sysrec := State.countN_sysrec s k 1

@[simp] theorem State.count_cstore (s : State) (k : Fld) : (s.count k).cstore = s.cstore := State.countN_cstore s k 1

@[simp] theorem State.evt_tmchk (s : State) (k : Fld) : (s.evt k).tmchk = s.tmchk := by
  rw [State.regsOnly_evt s k]

@[simp] theorem State.countN_tmchk (s : State) (k : Fld) (c : Nat) : (s.countN k c).tmchk = s.tmchk := by
  rw [State.regsOnly_countN s k c]

@[simp] theorem State.count_tmchk (s : State) (k : Fld) : (s.count k).tmchk = s.tmchk := State.countN_tmchk s k 1

@[simp] theorem State.evt_cog (s : State) (k : Fld) : (s.evt k).cog = s.cog := by
  rw [State.regsOnly_evt s k]

@[simp] theorem State.countN_cog (s : State) (k : Fld) (c : Nat) : (s.countN k c).cog = s.cog := by
  rw [State.regsOnly_countN s k c]

@[simp] theorem State.count_cog (s : State) (k : Fld) : (s.count k).cog = s.cog := State.countN_cog s k 1

@[simp] theorem State.evt_spn (s : State) (k : Fld) : (s.evt k).spn = s.spn := by
  rw [State.regsOnly_evt s k]

@[simp] theorem State.countN_spn (s : State) (k : Fld) (c : Nat) : (s.countN k c).spn = s.spn := by
  rw [State.regsOnly_countN s k c]

@[simp] theorem State.count_spn (s : State) (k : Fld) : (s.count k).spn = s.spn := State.countN_spn s k 1

@[simp] theorem State.evt_sup (s : State) (k : Fld) : (s.evt k).sup = s.sup := by
  rw [State.regsOnly_evt s k]

@[simp] theorem State.countN_sup (s : State) (k : Fld) (c : Nat) : (s.countN k c).sup = s.sup := by
  rw [State.regsOnly_countN s k c]

@[simp] theorem State.count_sup (s : State) (k : Fld) : (s.count k).sup = s.sup := State.countN_sup s k 1

@[simp] theorem State.evt_flash (s : State) (k : Fld) : (s.evt k).flash = s.flash := by
  rw [State.regsOnly_evt s k]

@[simp] theorem State.countN_flash (s : State) (k : Fld) (c : Nat) : (s.countN k c).flash = s.flash := by
  rw [State.regsOnly_countN s k c]

@[simp] theorem State.count_flash (s : State) (k : Fld) : (s.count k).flash = s.flash := State.countN_flash s k 1

@[simp] theorem State.evt_blks (s : State) (k : Fld) : (s.evt k).blks = s.blks := by
  rw [State.regsOnly_evt s k]

@[simp] theorem State.countN_blks (s : State) (k : Fld) (c : Nat) : (s.countN k c).blks = s.blks := by
  rw [State.regsOnly_countN s k c]

@[simp] theorem State.count_blks (s : State) (k : Fld) : (s.count k).blks = s.blks := State.countN_blks s k 1

@[simp] theorem State.evt_fops (s : State) (k : Fld) : (s.evt k).fops = s.fops := by
  rw [State.regsOnly_evt s k]

@[simp] theorem State.countN_fops (s : State) (k : Fld) (c : Nat) : (s.countN k c).fops = s.fops := by
  rw [State.regsOnly_countN s k c]

@[simp] theorem State.count_fops (s : State) (k : Fld) : (s.count k).fops = s.fops := State.countN_fops s k 1

@[simp] theorem State.evt_fwait (s : State) (k : Fld) : (s.evt k).fwait = s.fwait := by
  rw [State.regsOnly_evt s k]

@[simp] theorem State.countN_fwait (s : State) (k : Fld) (c : Nat) : (s.countN k c).fwait = s.fwait := by
  rw [State.regsOnly_countN s k c]

@[simp] theorem State.count_fwait (s : State) (k : Fld) : (s.count k).fwait = s.fwait := State.countN_fwait s k 1

@[simp] theorem State.evt_fread (s : State) (k : Fld) : (s.evt k).fread = s.fread := by
  rw [State.regsOnly_evt s k]

@[simp] theorem State.countN_fread (s : State) (k : Fld) (c : Nat) : (s.countN k c).fread = s.fread := by
  rw [State.regsOnly_countN s k c]

@[simp] theorem State.count_fread (s : State) (k : Fld) : (s.count k).fread = s.fread := State.countN_fread s k 1

@[simp] theorem State.evt_fwPend (s : State) (k : Fld) : (s.evt k).fwPend = s.fwPend := by
  rw [State.regsOnly_evt s k]

@[simp] theorem State.countN_fwPend (s : State) (k : Fld) (c : Nat) : (s.countN k c).fwPend = s.fwPend := by
  rw [State.regsOnly_countN s k c]

@[simp] theorem State.count_fwPend (s : State) (k : Fld) : (s.count k).fwPend = s.fwPend := State.countN_fwPend s k 1

@[simp] theorem State.evt_popen (s : State) (k : Fld) : (s.evt k).popen = s.popen := by
  rw [State.regsOnly_evt s k]

@[simp] theorem State.countN_popen (s : State) (k : Fld) (c : Nat) : (s.countN k c).popen = s.popen := by
  rw [State.regsOnly_countN s k c]

@[simp] theorem State.count_popen (s : State) (k : Fld) : (s.count k).popen = s.popen := State.countN_popen s k 1

@[simp] theorem State.evt_pbuf (s : State) (k : Fld) : (s.evt k).pbuf = s.pbuf := by
  rw [State.regsOnly_evt s k]

@[simp] theorem State.countN_pbuf (s : State) (k : Fld) (c : Nat) : (s.countN k c).pbuf = s.pbuf := by
  rw [State.regsOnly_countN s k c]

@[simp] theorem State.count_pbuf (s : State) (k : Fld) : (s.count k).pbuf = s.pbuf := State.countN_pbuf s k 1

@[simp] theorem State.evt_ring (s : State) (k : Fld) : (s.evt k).ring = s.ring := by
  rw [State.regsOnly_evt s k]

@[simp] theorem State.countN_ring (s : State) (k : Fld) (c : Nat) : (s.countN k c).ring = s.ring := by
  rw [State.regsOnly_countN s k c]

@[simp] theorem State.count_ring (s : State) (k : Fld) : (s.count k).ring = s.ring := State.countN_ring s k 1

@[simp] theorem State.evt_ringBad (s : State) (k : Fld) : (s.evt k).ringBad = s.ringBad := by
  rw [State.regsOnly_evt s k]

@[simp] theorem State.countN_ringBad (s : State) (k : Fld) (c : Nat) : (s.countN k c).ringBad = s.ringBad := by
  rw [State.regsOnly_countN s k c]

@[simp] theorem State.count_ringBad (s : State) (k : Fld) : (s.count k).ringBad = s.ringBad := State.countN_ringBad s k 1

@[simp] theorem State.evt_errlog (s : State) (k : Fld) : (s.evt k).errlog = s.errlog := by
  rw [State.regsOnly_evt s k]

@[simp] theorem State.countN_errlog (s : State) (k : Fld) (c : Nat) : (s.countN k c).errlog = s.errlog := by
  rw [State.regsOnly_countN s k c]

@[simp] theorem State.count_errlog (s : State) (k : Fld) : (s.count k).errlog = s.errlog := State.countN_errlog s k 1

@[simp] theorem State.evt_rsets (s : State) (k : Fld) : (s.evt k).rsets = s.rsets := by
  rw [State.regsOnly_evt s k]

@[simp] theorem State.countN_rsets (s : State) (k : Fld) (c : Nat) : (s.countN k c).rsets = s.rsets := by
  rw [State.regsOnly_countN s k c]

@[simp] theorem State.count_rsets (s : State) (k : Fld) : (s.count k).rsets = s.rsets := State.countN_rsets s k 1

@[simp] theorem State.evt_reqs (s : State) (k : Fld) : (s.evt k).reqs = s.reqs := by
  rw [State.regsOnly_evt s k]

@[simp] theorem State.countN_reqs (s : State) (k : Fld) (c : Nat) : (s.countN k c).reqs = s.reqs := by
  rw [State.regsOnly_countN s k c]

@[simp] theorem State.count_reqs (s : State) (k : Fld) : (s.count k).reqs = s.reqs := State.countN_reqs s k 1

@[simp] theorem State.evt_reqNo (s : State) (k : Fld) : (s.evt k).reqNo = s.reqNo := by
  rw [State.regsOnly_evt s k]

@[simp] theorem State.countN_reqNo (s : State) (k : Fld) (c : Nat) : (s.countN k c).reqNo = s.reqNo := by
  rw [State.regsOnly_countN s k c]

@[simp] theorem State.count_reqNo (s : State) (k : Fld) : (s.count k).reqNo = s.reqNo := State.countN_reqNo s k 1

@[simp] theorem State.evt_rspNo (s : State) (k : Fld) : (s.evt k).rspNo = s.rspNo := by
  rw [State.regsOnly_evt s k]

@[simp] theorem State.countN_rspNo (s : State) (k : Fld) (c : Nat) : (s.countN k c).rspNo = s.rspNo := by
  rw [State.regsOnly_countN s k c]

@[simp] theorem State.count_rspNo (s : State) (k : Fld) : (s.count k).rspNo = s.rspNo := State.countN_rspNo s k 1

@[simp] theorem State.evt_nonces (s : State) (k : Fld) : (s.evt k).nonces = s.nonces := by
  rw [State.regsOnly_evt s k]

@[simp] theorem State.countN_nonces (s : State) (k : Fld) (c : Nat) : (s.countN k c).nonces = s.nonces := by
  rw [State.regsOnly_countN s k c]

@[simp] theorem State.count_nonces (s : State) (k : Fld) : (s.count k).nonces = s.nonces := State.countN_nonces s k 1

@[simp] theorem State.evt_held (s : State) (k : Fld) : (s.evt k).held = s.held := by
  rw [State.regsOnly_evt s k]

@[simp] theorem State.countN_held (s : State) (k : Fld) (c : Nat) : (s.countN k c).held = s.held := by
  rw [State.regsOnly_countN s k c]

@[simp] theorem State.count_held (s : State) (k : Fld) : (s.count k).held = s.held := State.countN_held s k 1

@[simp] theorem State.evt_miOut (s : State) (k : Fld) : (s.evt k).miOut = s.miOut := by
  rw [State.regsOnly_evt s k]

@[simp] theorem State.countN_miOut (s : State) (k : Fld) (c : Nat) : (s.countN k c).miOut = s.miOut := by
  rw [State.regsOnly_countN s k c]

@[simp] theorem State.count_miOut (s : State) (k : Fld) : (s.count k).miOut = s.miOut := State.countN_miOut s k 1

@[simp] theorem State.evt_pkt (s : State) (k : Fld) : (s.evt k).pkt = s.pkt := by
  rw [State.regsOnly_evt s k]

@[simp] theorem State.countN_pkt (s : State) (k : Fld) (c : Nat) : (s.countN k c).pkt = s.pkt := by
  rw [State.regsOnly_countN s k c]

@[simp] theorem State.count_pkt (s : State) (k : Fld) : (s.count k).pkt = s.pkt := State.countN_pkt s k 1

@[simp] theorem State.evt_hbm (s : State) (k : Fld) : (s.evt k).hbm = s.hbm := by
  rw [State.regsOnly_evt s k]

@[simp] theorem State.countN_hbm (s : State) (k : Fld) (c : Nat) : (s.countN k c).hbm = s.hbm := by
  rw [State.regsOnly_countN s k c]

@[simp] theorem State.count_hbm (s : State) (k : Fld) : (s.count k).hbm = s.hbm := State.countN_hbm s k 1

@[simp] theorem State.evt_poison (s : State) (k : Fld) : (s.evt k).poison = s.poison := by
  rw [State.regsOnly_evt s k]

@[simp] theorem State.countN_poison (s : State) (k : Fld) (c : Nat) : (s.countN k c).poison = s.poison := by
  rw [State.regsOnly_countN s k c]

@[simp] theorem State.count_poison (s : State) (k : Fld) : (s.count k).poison = s.poison := State.countN_poison s k 1

@[simp] theorem State.evt_lost (s : State) (k : Fld) : (s.evt k).lost = s.lost := by
  rw [State.regsOnly_evt s k]

@[simp] theorem State.countN_lost (s : State) (k : Fld) (c : Nat) : (s.countN k c).lost = s.lost := by
  rw [State.regsOnly_countN s k c]

@[simp] theorem State.count_lost (s : State) (k : Fld) : (s.count k).lost = s.lost := State.countN_lost s k 1

@[simp] theorem State.evt_kvLog (s : State) (k : Fld) : (s.evt k).kvLog = s.kvLog := by
  rw [State.regsOnly_evt s k]

@[simp] theorem State.countN_kvLog (s : State) (k : Fld) (c : Nat) : (s.countN k c).kvLog = s.kvLog := by
  rw [State.regsOnly_countN s k c]

@[simp] theorem State.count_kvLog (s : State) (k : Fld) : (s.count k).kvLog = s.kvLog := State.countN_kvLog s k 1

@[simp] theorem State.evt_kvDur (s : State) (k : Fld) : (s.evt k).kvDur = s.kvDur := by
  rw [State.regsOnly_evt s k]

@[simp] theorem State.countN_kvDur (s : State) (k : Fld) (c : Nat) : (s.countN k c).kvDur = s.kvDur := by
  rw [State.regsOnly_countN s k c]

@[simp] theorem State.count_kvDur (s : State) (k : Fld) : (s.count k).kvDur = s.kvDur := State.countN_kvDur s k 1

@[simp] theorem State.evt_progs (s : State) (k : Fld) : (s.evt k).progs = s.progs := by
  rw [State.regsOnly_evt s k]

@[simp] theorem State.countN_progs (s : State) (k : Fld) (c : Nat) : (s.countN k c).progs = s.progs := by
  rw [State.regsOnly_countN s k c]

@[simp] theorem State.count_progs (s : State) (k : Fld) : (s.count k).progs = s.progs := State.countN_progs s k 1

@[simp] theorem State.evt_progRuns (s : State) (k : Fld) : (s.evt k).progRuns = s.progRuns := by
  rw [State.regsOnly_evt s k]

@[simp] theorem State.countN_progRuns (s : State) (k : Fld) (c : Nat) : (s.countN k c).progRuns = s.progRuns := by
  rw [State.regsOnly_countN s k c]

@[simp] theorem State.count_progRuns (s : State) (k : Fld) : (s.count k).progRuns = s.progRuns := State.countN_progRuns s k 1

@[simp] theorem State.evt_group (s : State) (k : Fld) : (s.evt k).group = s.group := by
  rw [State.regsOnly_evt s k]

@[simp] theorem State.countN_group (s : State) (k : Fld) (c : Nat) : (s.countN k c).group = s.group := by
  rw [State.regsOnly_countN s k c]

@[simp] theorem State.count_group (s : State) (k : Fld) : (s.count k).group = s.group := State.countN_group s k 1

@[simp] theorem State.evt_members (s : State) (k : Fld) : (s.evt k).members = s.members := by
  rw [State.regsOnly_evt s k]

@[simp] theorem State.countN_members (s : State) (k : Fld) (c : Nat) : (s.countN k c).members = s.members := by
  rw [State.regsOnly_countN s k c]

@[simp] theorem State.count_members (s : State) (k : Fld) : (s.count k).members = s.members := State.countN_members s k 1

@[simp] theorem State.evt_cands (s : State) (k : Fld) : (s.evt k).cands = s.cands := by
  rw [State.regsOnly_evt s k]

@[simp] theorem State.countN_cands (s : State) (k : Fld) (c : Nat) : (s.countN k c).cands = s.cands := by
  rw [State.regsOnly_countN s k c]

@[simp] theorem State.count_cands (s : State) (k : Fld) : (s.count k).cands = s.cands := State.countN_cands s k 1

@[simp] theorem State.evt_authFail (s : State) (k : Fld) : (s.evt k).authFail = s.authFail := by
  rw [State.regsOnly_evt s k]

@[simp] theorem State.countN_authFail (s : State) (k : Fld) (c : Nat) : (s.countN k c).authFail = s.authFail := by
  rw [State.regsOnly_countN s k c]

@[simp] theorem State.count_authFail (s : State) (k : Fld) : (s.count k).authFail = s.authFail := State.countN_authFail s k 1

@[simp] theorem State.evt_proposal (s : State) (k : Fld) : (s.evt k).proposal = s.proposal := by
  rw [State.regsOnly_evt s k]

@[simp] theorem State.countN_proposal (s : State) (k : Fld) (c : Nat) : (s.countN k c).proposal = s.proposal := by
  rw [State.regsOnly_countN s k c]

@[simp] theorem State.count_proposal (s : State) (k : Fld) : (s.count k).proposal = s.proposal := State.countN_proposal s k 1

@[simp] theorem State.evt_stripes (s : State) (k : Fld) : (s.evt k).stripes = s.stripes := by
  rw [State.regsOnly_evt s k]

@[simp] theorem State.countN_stripes (s : State) (k : Fld) (c : Nat) : (s.countN k c).stripes = s.stripes := by
  rw [State.regsOnly_countN s k c]

@[simp] theorem State.count_stripes (s : State) (k : Fld) : (s.count k).stripes = s.stripes := State.countN_stripes s k 1

@[simp] theorem State.evt_stripeNo (s : State) (k : Fld) : (s.evt k).stripeNo = s.stripeNo := by
  rw [State.regsOnly_evt s k]

@[simp] theorem State.countN_stripeNo (s : State) (k : Fld) (c : Nat) : (s.countN k c).stripeNo = s.stripeNo := by
  rw [State.regsOnly_countN s k c]

@[simp] theorem State.count_stripeNo (s : State) (k : Fld) : (s.count k).stripeNo = s.stripeNo := State.countN_stripeNo s k 1

@[simp] theorem State.evt_addrs (s : State) (k : Fld) : (s.evt k).addrs = s.addrs := by
  rw [State.regsOnly_evt s k]

@[simp] theorem State.countN_addrs (s : State) (k : Fld) (c : Nat) : (s.countN k c).addrs = s.addrs := by
  rw [State.regsOnly_countN s k c]

@[simp] theorem State.count_addrs (s : State) (k : Fld) : (s.count k).addrs = s.addrs := State.countN_addrs s k 1

@[simp] theorem State.evt_partner (s : State) (k : Fld) : (s.evt k).partner = s.partner := by
  rw [State.regsOnly_evt s k]

@[simp] theorem State.countN_partner (s : State) (k : Fld) (c : Nat) : (s.countN k c).partner = s.partner := by
  rw [State.regsOnly_countN s k c]

@[simp] theorem State.count_partner (s : State) (k : Fld) : (s.count k).partner = s.partner := State.countN_partner s k 1

@[simp] theorem State.evt_peerAdopt (s : State) (k : Fld) : (s.evt k).peerAdopt = s.peerAdopt := by
  rw [State.regsOnly_evt s k]

@[simp] theorem State.countN_peerAdopt (s : State) (k : Fld) (c : Nat) : (s.countN k c).peerAdopt = s.peerAdopt := by
  rw [State.regsOnly_countN s k c]

@[simp] theorem State.count_peerAdopt (s : State) (k : Fld) : (s.count k).peerAdopt = s.peerAdopt := State.countN_peerAdopt s k 1

@[simp] theorem State.evt_loads (s : State) (k : Fld) : (s.evt k).loads = s.loads := by
  rw [State.regsOnly_evt s k]

@[simp] theorem State.countN_loads (s : State) (k : Fld) (c : Nat) : (s.countN k c).loads = s.loads := by
  rw [State.regsOnly_countN s k c]

@[simp] theorem State.count_loads (s : State) (k : Fld) : (s.count k).loads = s.loads := State.countN_loads s k 1

@[simp] theorem State.evt_tsave (s : State) (k : Fld) : (s.evt k).tsave = s.tsave := by
  rw [State.regsOnly_evt s k]

@[simp] theorem State.countN_tsave (s : State) (k : Fld) (c : Nat) : (s.countN k c).tsave = s.tsave := by
  rw [State.regsOnly_countN s k c]

@[simp] theorem State.count_tsave (s : State) (k : Fld) : (s.count k).tsave = s.tsave := State.countN_tsave s k 1

@[simp] theorem State.evt_tregs (s : State) (k : Fld) : (s.evt k).tregs = s.tregs := by
  rw [State.regsOnly_evt s k]

@[simp] theorem State.countN_tregs (s : State) (k : Fld) (c : Nat) : (s.countN k c).tregs = s.tregs := by
  rw [State.regsOnly_countN s k c]

@[simp] theorem State.count_tregs (s : State) (k : Fld) : (s.count k).tregs = s.tregs := State.countN_tregs s k 1

@[simp] theorem State.evt_tenc (s : State) (k : Fld) : (s.evt k).tenc = s.tenc := by
  rw [State.regsOnly_evt s k]

@[simp] theorem State.countN_tenc (s : State) (k : Fld) (c : Nat) : (s.countN k c).tenc = s.tenc := by
  rw [State.regsOnly_countN s k c]

@[simp] theorem State.count_tenc (s : State) (k : Fld) : (s.count k).tenc = s.tenc := State.countN_tenc s k 1

@[simp] theorem State.evt_senseOffs (s : State) (k : Fld) : (s.evt k).senseOffs = s.senseOffs := by
  rw [State.regsOnly_evt s k]

@[simp] theorem State.countN_senseOffs (s : State) (k : Fld) (c : Nat) : (s.countN k c).senseOffs = s.senseOffs := by
  rw [State.regsOnly_countN s k c]

@[simp] theorem State.count_senseOffs (s : State) (k : Fld) : (s.count k).senseOffs = s.senseOffs := State.countN_senseOffs s k 1

@[simp] theorem State.evt_ages (s : State) (k : Fld) : (s.evt k).ages = s.ages := by
  rw [State.regsOnly_evt s k]

@[simp] theorem State.countN_ages (s : State) (k : Fld) (c : Nat) : (s.countN k c).ages = s.ages := by
  rw [State.regsOnly_countN s k c]

@[simp] theorem State.count_ages (s : State) (k : Fld) : (s.count k).ages = s.ages := State.countN_ages s k 1

@[simp] theorem State.evt_dues (s : State) (k : Fld) : (s.evt k).dues = s.dues := by
  rw [State.regsOnly_evt s k]

@[simp] theorem State.countN_dues (s : State) (k : Fld) (c : Nat) : (s.countN k c).dues = s.dues := by
  rw [State.regsOnly_countN s k c]

@[simp] theorem State.count_dues (s : State) (k : Fld) : (s.count k).dues = s.dues := State.countN_dues s k 1

@[simp] theorem State.evt_verifs (s : State) (k : Fld) : (s.evt k).verifs = s.verifs := by
  rw [State.regsOnly_evt s k]

@[simp] theorem State.countN_verifs (s : State) (k : Fld) (c : Nat) : (s.countN k c).verifs = s.verifs := by
  rw [State.regsOnly_countN s k c]

@[simp] theorem State.count_verifs (s : State) (k : Fld) : (s.count k).verifs = s.verifs := State.countN_verifs s k 1

@[simp] theorem State.evt_fitFrom (s : State) (k : Fld) : (s.evt k).fitFrom = s.fitFrom := by
  rw [State.regsOnly_evt s k]

@[simp] theorem State.countN_fitFrom (s : State) (k : Fld) (c : Nat) : (s.countN k c).fitFrom = s.fitFrom := by
  rw [State.regsOnly_countN s k c]

@[simp] theorem State.count_fitFrom (s : State) (k : Fld) : (s.count k).fitFrom = s.fitFrom := State.countN_fitFrom s k 1

@[simp] theorem State.evt_slopes (s : State) (k : Fld) : (s.evt k).slopes = s.slopes := by
  rw [State.regsOnly_evt s k]

@[simp] theorem State.countN_slopes (s : State) (k : Fld) (c : Nat) : (s.countN k c).slopes = s.slopes := by
  rw [State.regsOnly_countN s k c]

@[simp] theorem State.count_slopes (s : State) (k : Fld) : (s.count k).slopes = s.slopes := State.countN_slopes s k 1

@[simp] theorem State.evt_asked (s : State) (k : Fld) : (s.evt k).asked = s.asked := by
  rw [State.regsOnly_evt s k]

@[simp] theorem State.countN_asked (s : State) (k : Fld) (c : Nat) : (s.countN k c).asked = s.asked := by
  rw [State.regsOnly_countN s k c]

@[simp] theorem State.count_asked (s : State) (k : Fld) : (s.count k).asked = s.asked := State.countN_asked s k 1

@[simp] theorem State.evt_certs (s : State) (k : Fld) : (s.evt k).certs = s.certs := by
  rw [State.regsOnly_evt s k]

@[simp] theorem State.countN_certs (s : State) (k : Fld) (c : Nat) : (s.countN k c).certs = s.certs := by
  rw [State.regsOnly_countN s k c]

@[simp] theorem State.count_certs (s : State) (k : Fld) : (s.count k).certs = s.certs := State.countN_certs s k 1

@[simp] theorem State.evt_works (s : State) (k : Fld) : (s.evt k).works = s.works := by
  rw [State.regsOnly_evt s k]

@[simp] theorem State.countN_works (s : State) (k : Fld) (c : Nat) : (s.countN k c).works = s.works := by
  rw [State.regsOnly_countN s k c]

@[simp] theorem State.count_works (s : State) (k : Fld) : (s.count k).works = s.works := State.countN_works s k 1

@[simp] theorem State.evt_shadow (s : State) (k : Fld) : (s.evt k).shadow = s.shadow := by
  rw [State.regsOnly_evt s k]

@[simp] theorem State.countN_shadow (s : State) (k : Fld) (c : Nat) : (s.countN k c).shadow = s.shadow := by
  rw [State.regsOnly_countN s k c]

@[simp] theorem State.count_shadow (s : State) (k : Fld) : (s.count k).shadow = s.shadow := State.countN_shadow s k 1

@[simp] theorem State.evt_miso (s : State) (k : Fld) : (s.evt k).miso = s.miso := by
  rw [State.regsOnly_evt s k]

@[simp] theorem State.countN_miso (s : State) (k : Fld) (c : Nat) : (s.countN k c).miso = s.miso := by
  rw [State.regsOnly_countN s k c]

@[simp] theorem State.count_miso (s : State) (k : Fld) : (s.count k).miso = s.miso := State.countN_miso s k 1

@[simp] theorem State.evt_pending (s : State) (k : Fld) : (s.evt k).pending = s.pending := by
  rw [State.regsOnly_evt s k]

@[simp] theorem State.countN_pending (s : State) (k : Fld) (c : Nat) : (s.countN k c).pending = s.pending := by
  rw [State.regsOnly_countN s k c]

@[simp] theorem State.count_pending (s : State) (k : Fld) : (s.count k).pending = s.pending := State.countN_pending s k 1

@[simp] theorem b2n_lt (b : Bool) : b2n b < 2 := by cases b <;> decide

@[simp] theorem b2n_mod (b : Bool) : b2n b % 2 = b2n b := by cases b <;> rfl

@[simp] theorem Tab.at_set_same {β : Type} [DecidableEq β] (d : β) (m : List (Nat × β)) (k : Nat) (v : β) :
    Tab.at d (Tab.set d m k v) k = v := Tab.get_put_same ..

theorem Tab.at_set_other {β : Type} [DecidableEq β] (d : β) (m : List (Nat × β)) {k j : Nat} (v : β) (h : j ≠ k) :
    Tab.at d (Tab.set d m k v) j = Tab.at d m j := Tab.get_put_other _ _ _ v h

@[simp] theorem State.paGet_put (s : State) (k : Fld) (v a h r : Nat) : (s.put k v).paGet a h r = s.paGet a h r := rfl

theorem State.paGet_paPut (s : State) (a h r v : Nat) : (s.paPut a h r v).paGet a h r = v % 65536 := Tab.at_set_same ..

@[simp] theorem State.rop_setRop (s : State) (a : Nat) (r : ReadOp) : (s.setRop a r).rop a = r := Tab.at_set_same ..

@[simp] theorem State.seqr_setSeqr (s : State) (a : Nat) (r : SeqRun) : (s.setSeqr a r).seqr a = r := Tab.at_set_same ..

@[simp] theorem State.jobOf_setJob (s : State) (a : Nat) (j : Option Job) : (s.setJob a j).jobOf a = j := Tab.at_set_same ..

@[simp] theorem State.rop_put (s : State) (k : Fld) (v a : Nat) : (s.put k v).rop a = s.rop a := rfl

@[simp] theorem State.rop_evt (s : State) (k : Fld) (a : Nat) : (s.evt k).rop a = s.rop a := by simp [State.rop]

@[simp] theorem State.rop_count (s : State) (k : Fld) (a : Nat) : (s.count k).rop a = s.rop a := by simp [State.rop]

@[simp] theorem State.rop_post (s : State) (b c v i : Nat) (d : List Nat) (a : Nat) : (s.post b c v i d).rop a = s.rop a := rfl

@[simp] theorem State.seqr_put (s : State) (k : Fld) (v a : Nat) : (s.put k v).seqr a = s.seqr a := rfl

@[simp] theorem State.seqr_evt (s : State) (k : Fld) (a : Nat) : (s.evt k).seqr a = s.seqr a := by simp [State.seqr]

@[simp] theorem State.jobOf_put (s : State) (k : Fld) (v a : Nat) : (s.put k v).jobOf a = s.jobOf a := rfl

@[simp] theorem State.jobOf_evt (s : State) (k : Fld) (a : Nat) : (s.evt k).jobOf a = s.jobOf a := by simp [State.jobOf]

/-- The part of a when. -/
theorem State.rop_when (s : State) (c : Bool) (f : State → State) (a : Nat) :
    (s.when c f).rop a = if c then (f s).rop a else s.rop a := by
  cases c <;> rfl

@[simp] theorem State.inbox_post (s : State) (b c v i : Nat) (d : List Nat) :
    (s.post b c v i d).inbox = s.inbox ++ [⟨b, c, v, i, d⟩] := rfl

theorem State.rop_of (s t : State) (a : Nat) (h : t.chn = s.chn) : t.rop a = s.rop a := by
  unfold State.rop; rw [h]

theorem State.get_puts_nil (s : State) (k : Fld) : (s.puts []).get k = s.get k := rfl

/-- What a field reads after a count of another register's event. -/
theorem State.get_count_other (s : State) (c k : Fld) (h : k.blk ≠ c.blk ∨ k.off ≠ c.off ∧ k.off ≠ evtOff c.blk) :
    (s.count c).get k = s.get k := by
  refine State.get_countN_other s c k 1 ?_ ?_ ?_
  · rintro rfl; rcases h with h | h <;> simp at h
  · rintro rfl; rcases h with h | h <;> simp at h
  · rintro b _ rfl; rcases h with h | h <;> simp [evtBit] at h

theorem State.get_count_ne (s : State) (c k : Fld) (h1 : k ≠ c) (h2 : k ≠ { c with lo := 16, w := 1 })
    (h3 : ∀ b, cntSatBit c.blk = some b → k ≠ evtBit c.blk c.inst b) : (s.count c).get k = s.get k :=
  State.get_countN_other s c k 1 h1 h2 h3

/-- Counting one event. -/
theorem State.get_count_same (s : State) (c : Fld) (hw : c.w = 16) (h : s.get c + 1 < 65535) :
    (s.count c).get c = s.get c + 1 := by
  unfold State.count
  rw [State.get_countN]
  unfold State.countUp
  rw [if_pos h, State.get_put_same, hw]
  omega

theorem State.win_when (s : State) (c : Bool) (f : State → State) :
    (s.when c f).win = if c then (f s).win else s.win := by
  cases c <;> rfl

theorem State.free_when (s : State) (c : Bool) (f : State → State) :
    (s.when c f).free = if c then (f s).free else s.free := by
  cases c <;> rfl

theorem State.edges_when (s : State) (c : Bool) (f : State → State) :
    (s.when c f).edges = if c then (f s).edges else s.edges := by
  cases c <;> rfl

theorem State.inbox_when (s : State) (c : Bool) (f : State → State) :
    (s.when c f).inbox = if c then (f s).inbox else s.inbox := by
  cases c <;> rfl

theorem State.chn_when (s : State) (c : Bool) (f : State → State) :
    (s.when c f).chn = if c then (f s).chn else s.chn := by
  cases c <;> rfl

theorem State.seqs_when (s : State) (c : Bool) (f : State → State) :
    (s.when c f).seqs = if c then (f s).seqs else s.seqs := by
  cases c <;> rfl

theorem State.pa_when (s : State) (c : Bool) (f : State → State) :
    (s.when c f).pa = if c then (f s).pa else s.pa := by
  cases c <;> rfl

theorem State.jq_when (s : State) (c : Bool) (f : State → State) :
    (s.when c f).jq = if c then (f s).jq else s.jq := by
  cases c <;> rfl

theorem State.jact_when (s : State) (c : Bool) (f : State → State) :
    (s.when c f).jact = if c then (f s).jact else s.jact := by
  cases c <;> rfl

theorem State.jobNo_when (s : State) (c : Bool) (f : State → State) :
    (s.when c f).jobNo = if c then (f s).jobNo else s.jobNo := by
  cases c <;> rfl

theorem State.opt_when (s : State) (c : Bool) (f : State → State) :
    (s.when c f).opt = if c then (f s).opt else s.opt := by
  cases c <;> rfl

theorem State.fmt_when (s : State) (c : Bool) (f : State → State) :
    (s.when c f).fmt = if c then (f s).fmt else s.fmt := by
  cases c <;> rfl

theorem State.cmds_when (s : State) (c : Bool) (f : State → State) :
    (s.when c f).cmds = if c then (f s).cmds else s.cmds := by
  cases c <;> rfl

theorem State.cmdNo_when (s : State) (c : Bool) (f : State → State) :
    (s.when c f).cmdNo = if c then (f s).cmdNo else s.cmdNo := by
  cases c <;> rfl

theorem State.cqs_when (s : State) (c : Bool) (f : State → State) :
    (s.when c f).cqs = if c then (f s).cqs else s.cqs := by
  cases c <;> rfl

theorem State.ctrls_when (s : State) (c : Bool) (f : State → State) :
    (s.when c f).ctrls = if c then (f s).ctrls else s.ctrls := by
  cases c <;> rfl

theorem State.visit_when (s : State) (c : Bool) (f : State → State) :
    (s.when c f).visit = if c then (f s).visit else s.visit := by
  cases c <;> rfl

theorem State.nss_when (s : State) (c : Bool) (f : State → State) :
    (s.when c f).nss = if c then (f s).nss else s.nss := by
  cases c <;> rfl

theorem State.zones_when (s : State) (c : Bool) (f : State → State) :
    (s.when c f).zones = if c then (f s).zones else s.zones := by
  cases c <;> rfl

theorem State.bands_when (s : State) (c : Bool) (f : State → State) :
    (s.when c f).bands = if c then (f s).bands else s.bands := by
  cases c <;> rfl

theorem State.vol_when (s : State) (c : Bool) (f : State → State) :
    (s.when c f).vol = if c then (f s).vol else s.vol := by
  cases c <;> rfl

theorem State.dur_when (s : State) (c : Bool) (f : State → State) :
    (s.when c f).dur = if c then (f s).dur else s.dur := by
  cases c <;> rfl

theorem State.wseq_when (s : State) (c : Bool) (f : State → State) :
    (s.when c f).wseq = if c then (f s).wseq else s.wseq := by
  cases c <;> rfl

theorem State.points_when (s : State) (c : Bool) (f : State → State) :
    (s.when c f).points = if c then (f s).points else s.points := by
  cases c <;> rfl

theorem State.mops_when (s : State) (c : Bool) (f : State → State) :
    (s.when c f).mops = if c then (f s).mops else s.mops := by
  cases c <;> rfl

theorem State.opid_when (s : State) (c : Bool) (f : State → State) :
    (s.when c f).opid = if c then (f s).opid else s.opid := by
  cases c <;> rfl

theorem State.journal_when (s : State) (c : Bool) (f : State → State) :
    (s.when c f).journal = if c then (f s).journal else s.journal := by
  cases c <;> rfl

theorem State.jseq_when (s : State) (c : Bool) (f : State → State) :
    (s.when c f).jseq = if c then (f s).jseq else s.jseq := by
  cases c <;> rfl

theorem State.demands_when (s : State) (c : Bool) (f : State → State) :
    (s.when c f).demands = if c then (f s).demands else s.demands := by
  cases c <;> rfl

theorem State.test_when (s : State) (c : Bool) (f : State → State) :
    (s.when c f).test = if c then (f s).test else s.test := by
  cases c <;> rfl

theorem State.testLog_when (s : State) (c : Bool) (f : State → State) :
    (s.when c f).testLog = if c then (f s).testLog else s.testLog := by
  cases c <;> rfl

theorem State.tstore_when (s : State) (c : Bool) (f : State → State) :
    (s.when c f).tstore = if c then (f s).tstore else s.tstore := by
  cases c <;> rfl

theorem State.rung6_when (s : State) (c : Bool) (f : State → State) :
    (s.when c f).rung6 = if c then (f s).rung6 else s.rung6 := by
  cases c <;> rfl

theorem State.amps_when (s : State) (c : Bool) (f : State → State) :
    (s.when c f).amps = if c then (f s).amps else s.amps := by
  cases c <;> rfl

theorem State.loops_when (s : State) (c : Bool) (f : State → State) :
    (s.when c f).loops = if c then (f s).loops else s.loops := by
  cases c <;> rfl

theorem State.tstk_when (s : State) (c : Bool) (f : State → State) :
    (s.when c f).tstk = if c then (f s).tstk else s.tstk := by
  cases c <;> rfl

theorem State.tshd_when (s : State) (c : Bool) (f : State → State) :
    (s.when c f).tshd = if c then (f s).tshd else s.tshd := by
  cases c <;> rfl

theorem State.tshr_when (s : State) (c : Bool) (f : State → State) :
    (s.when c f).tshr = if c then (f s).tshr else s.tshr := by
  cases c <;> rfl

theorem State.altered_when (s : State) (c : Bool) (f : State → State) :
    (s.when c f).altered = if c then (f s).altered else s.altered := by
  cases c <;> rfl

theorem State.weakSlots_when (s : State) (c : Bool) (f : State → State) :
    (s.when c f).weakSlots = if c then (f s).weakSlots else s.weakSlots := by
  cases c <;> rfl

theorem State.sams_when (s : State) (c : Bool) (f : State → State) :
    (s.when c f).sams = if c then (f s).sams else s.sams := by
  cases c <;> rfl

theorem State.tscrub_when (s : State) (c : Bool) (f : State → State) :
    (s.when c f).tscrub = if c then (f s).tscrub else s.tscrub := by
  cases c <;> rfl

theorem State.fwImg_when (s : State) (c : Bool) (f : State → State) :
    (s.when c f).fwImg = if c then (f s).fwImg else s.fwImg := by
  cases c <;> rfl

theorem State.fwErased_when (s : State) (c : Bool) (f : State → State) :
    (s.when c f).fwErased = if c then (f s).fwErased else s.fwErased := by
  cases c <;> rfl

theorem State.bstore_when (s : State) (c : Bool) (f : State → State) :
    (s.when c f).bstore = if c then (f s).bstore else s.bstore := by
  cases c <;> rfl

theorem State.wd_when (s : State) (c : Bool) (f : State → State) :
    (s.when c f).wd = if c then (f s).wd else s.wd := by
  cases c <;> rfl

theorem State.media_when (s : State) (c : Bool) (f : State → State) :
    (s.when c f).media = if c then (f s).media else s.media := by
  cases c <;> rfl

theorem State.mcache_when (s : State) (c : Bool) (f : State → State) :
    (s.when c f).mcache = if c then (f s).mcache else s.mcache := by
  cases c <;> rfl

theorem State.sysrec_when (s : State) (c : Bool) (f : State → State) :
    (s.when c f).sysrec = if c then (f s).sysrec else s.sysrec := by
  cases c <;> rfl

theorem State.cstore_when (s : State) (c : Bool) (f : State → State) :
    (s.when c f).cstore = if c then (f s).cstore else s.cstore := by
  cases c <;> rfl

theorem State.tmchk_when (s : State) (c : Bool) (f : State → State) :
    (s.when c f).tmchk = if c then (f s).tmchk else s.tmchk := by
  cases c <;> rfl

theorem State.cog_when (s : State) (c : Bool) (f : State → State) :
    (s.when c f).cog = if c then (f s).cog else s.cog := by
  cases c <;> rfl

theorem State.spn_when (s : State) (c : Bool) (f : State → State) :
    (s.when c f).spn = if c then (f s).spn else s.spn := by
  cases c <;> rfl

theorem State.sup_when (s : State) (c : Bool) (f : State → State) :
    (s.when c f).sup = if c then (f s).sup else s.sup := by
  cases c <;> rfl

theorem State.flash_when (s : State) (c : Bool) (f : State → State) :
    (s.when c f).flash = if c then (f s).flash else s.flash := by
  cases c <;> rfl

theorem State.blks_when (s : State) (c : Bool) (f : State → State) :
    (s.when c f).blks = if c then (f s).blks else s.blks := by
  cases c <;> rfl

theorem State.fops_when (s : State) (c : Bool) (f : State → State) :
    (s.when c f).fops = if c then (f s).fops else s.fops := by
  cases c <;> rfl

theorem State.fwait_when (s : State) (c : Bool) (f : State → State) :
    (s.when c f).fwait = if c then (f s).fwait else s.fwait := by
  cases c <;> rfl

theorem State.fread_when (s : State) (c : Bool) (f : State → State) :
    (s.when c f).fread = if c then (f s).fread else s.fread := by
  cases c <;> rfl

theorem State.fwPend_when (s : State) (c : Bool) (f : State → State) :
    (s.when c f).fwPend = if c then (f s).fwPend else s.fwPend := by
  cases c <;> rfl

theorem State.popen_when (s : State) (c : Bool) (f : State → State) :
    (s.when c f).popen = if c then (f s).popen else s.popen := by
  cases c <;> rfl

theorem State.pbuf_when (s : State) (c : Bool) (f : State → State) :
    (s.when c f).pbuf = if c then (f s).pbuf else s.pbuf := by
  cases c <;> rfl

theorem State.ring_when (s : State) (c : Bool) (f : State → State) :
    (s.when c f).ring = if c then (f s).ring else s.ring := by
  cases c <;> rfl

theorem State.ringBad_when (s : State) (c : Bool) (f : State → State) :
    (s.when c f).ringBad = if c then (f s).ringBad else s.ringBad := by
  cases c <;> rfl

theorem State.errlog_when (s : State) (c : Bool) (f : State → State) :
    (s.when c f).errlog = if c then (f s).errlog else s.errlog := by
  cases c <;> rfl

theorem State.rsets_when (s : State) (c : Bool) (f : State → State) :
    (s.when c f).rsets = if c then (f s).rsets else s.rsets := by
  cases c <;> rfl

theorem State.reqs_when (s : State) (c : Bool) (f : State → State) :
    (s.when c f).reqs = if c then (f s).reqs else s.reqs := by
  cases c <;> rfl

theorem State.reqNo_when (s : State) (c : Bool) (f : State → State) :
    (s.when c f).reqNo = if c then (f s).reqNo else s.reqNo := by
  cases c <;> rfl

theorem State.rspNo_when (s : State) (c : Bool) (f : State → State) :
    (s.when c f).rspNo = if c then (f s).rspNo else s.rspNo := by
  cases c <;> rfl

theorem State.nonces_when (s : State) (c : Bool) (f : State → State) :
    (s.when c f).nonces = if c then (f s).nonces else s.nonces := by
  cases c <;> rfl

theorem State.held_when (s : State) (c : Bool) (f : State → State) :
    (s.when c f).held = if c then (f s).held else s.held := by
  cases c <;> rfl

theorem State.miOut_when (s : State) (c : Bool) (f : State → State) :
    (s.when c f).miOut = if c then (f s).miOut else s.miOut := by
  cases c <;> rfl

theorem State.pkt_when (s : State) (c : Bool) (f : State → State) :
    (s.when c f).pkt = if c then (f s).pkt else s.pkt := by
  cases c <;> rfl

theorem State.hbm_when (s : State) (c : Bool) (f : State → State) :
    (s.when c f).hbm = if c then (f s).hbm else s.hbm := by
  cases c <;> rfl

theorem State.poison_when (s : State) (c : Bool) (f : State → State) :
    (s.when c f).poison = if c then (f s).poison else s.poison := by
  cases c <;> rfl

theorem State.lost_when (s : State) (c : Bool) (f : State → State) :
    (s.when c f).lost = if c then (f s).lost else s.lost := by
  cases c <;> rfl

theorem State.kvLog_when (s : State) (c : Bool) (f : State → State) :
    (s.when c f).kvLog = if c then (f s).kvLog else s.kvLog := by
  cases c <;> rfl

theorem State.kvDur_when (s : State) (c : Bool) (f : State → State) :
    (s.when c f).kvDur = if c then (f s).kvDur else s.kvDur := by
  cases c <;> rfl

theorem State.progs_when (s : State) (c : Bool) (f : State → State) :
    (s.when c f).progs = if c then (f s).progs else s.progs := by
  cases c <;> rfl

theorem State.progRuns_when (s : State) (c : Bool) (f : State → State) :
    (s.when c f).progRuns = if c then (f s).progRuns else s.progRuns := by
  cases c <;> rfl

theorem State.group_when (s : State) (c : Bool) (f : State → State) :
    (s.when c f).group = if c then (f s).group else s.group := by
  cases c <;> rfl

theorem State.members_when (s : State) (c : Bool) (f : State → State) :
    (s.when c f).members = if c then (f s).members else s.members := by
  cases c <;> rfl

theorem State.cands_when (s : State) (c : Bool) (f : State → State) :
    (s.when c f).cands = if c then (f s).cands else s.cands := by
  cases c <;> rfl

theorem State.authFail_when (s : State) (c : Bool) (f : State → State) :
    (s.when c f).authFail = if c then (f s).authFail else s.authFail := by
  cases c <;> rfl

theorem State.proposal_when (s : State) (c : Bool) (f : State → State) :
    (s.when c f).proposal = if c then (f s).proposal else s.proposal := by
  cases c <;> rfl

theorem State.stripes_when (s : State) (c : Bool) (f : State → State) :
    (s.when c f).stripes = if c then (f s).stripes else s.stripes := by
  cases c <;> rfl

theorem State.stripeNo_when (s : State) (c : Bool) (f : State → State) :
    (s.when c f).stripeNo = if c then (f s).stripeNo else s.stripeNo := by
  cases c <;> rfl

theorem State.addrs_when (s : State) (c : Bool) (f : State → State) :
    (s.when c f).addrs = if c then (f s).addrs else s.addrs := by
  cases c <;> rfl

theorem State.partner_when (s : State) (c : Bool) (f : State → State) :
    (s.when c f).partner = if c then (f s).partner else s.partner := by
  cases c <;> rfl

theorem State.peerAdopt_when (s : State) (c : Bool) (f : State → State) :
    (s.when c f).peerAdopt = if c then (f s).peerAdopt else s.peerAdopt := by
  cases c <;> rfl

theorem State.loads_when (s : State) (c : Bool) (f : State → State) :
    (s.when c f).loads = if c then (f s).loads else s.loads := by
  cases c <;> rfl

theorem State.tsave_when (s : State) (c : Bool) (f : State → State) :
    (s.when c f).tsave = if c then (f s).tsave else s.tsave := by
  cases c <;> rfl

theorem State.tregs_when (s : State) (c : Bool) (f : State → State) :
    (s.when c f).tregs = if c then (f s).tregs else s.tregs := by
  cases c <;> rfl

theorem State.tenc_when (s : State) (c : Bool) (f : State → State) :
    (s.when c f).tenc = if c then (f s).tenc else s.tenc := by
  cases c <;> rfl

theorem State.senseOffs_when (s : State) (c : Bool) (f : State → State) :
    (s.when c f).senseOffs = if c then (f s).senseOffs else s.senseOffs := by
  cases c <;> rfl

theorem State.ages_when (s : State) (c : Bool) (f : State → State) :
    (s.when c f).ages = if c then (f s).ages else s.ages := by
  cases c <;> rfl

theorem State.dues_when (s : State) (c : Bool) (f : State → State) :
    (s.when c f).dues = if c then (f s).dues else s.dues := by
  cases c <;> rfl

theorem State.verifs_when (s : State) (c : Bool) (f : State → State) :
    (s.when c f).verifs = if c then (f s).verifs else s.verifs := by
  cases c <;> rfl

theorem State.fitFrom_when (s : State) (c : Bool) (f : State → State) :
    (s.when c f).fitFrom = if c then (f s).fitFrom else s.fitFrom := by
  cases c <;> rfl

theorem State.slopes_when (s : State) (c : Bool) (f : State → State) :
    (s.when c f).slopes = if c then (f s).slopes else s.slopes := by
  cases c <;> rfl

theorem State.asked_when (s : State) (c : Bool) (f : State → State) :
    (s.when c f).asked = if c then (f s).asked else s.asked := by
  cases c <;> rfl

theorem State.certs_when (s : State) (c : Bool) (f : State → State) :
    (s.when c f).certs = if c then (f s).certs else s.certs := by
  cases c <;> rfl

theorem State.works_when (s : State) (c : Bool) (f : State → State) :
    (s.when c f).works = if c then (f s).works else s.works := by
  cases c <;> rfl

theorem State.shadow_when (s : State) (c : Bool) (f : State → State) :
    (s.when c f).shadow = if c then (f s).shadow else s.shadow := by
  cases c <;> rfl

theorem State.miso_when (s : State) (c : Bool) (f : State → State) :
    (s.when c f).miso = if c then (f s).miso else s.miso := by
  cases c <;> rfl

theorem State.pending_when (s : State) (c : Bool) (f : State → State) :
    (s.when c f).pending = if c then (f s).pending else s.pending := by
  cases c <;> rfl

@[simp] theorem State.jugq_setJugq (s : State) (a : Nat) (q : List Job) : (s.setJugq a q).jugq a = q := Tab.at_set_same ..

@[simp] theorem State.rop_countN (s : State) (k : Fld) (c : Nat) (a : Nat) : (s.countN k c).rop a = s.rop a := by simp [State.rop]

@[simp] theorem State.rop_paPut (s : State) (b h r v : Nat) (a : Nat) : (s.paPut b h r v).rop a = s.rop a := rfl

@[simp] theorem State.rop_setSeqr (s : State) (b : Nat) (r : SeqRun) (a : Nat) : (s.setSeqr b r).rop a = s.rop a := rfl

@[simp] theorem State.rop_setJugq (s : State) (b : Nat) (r : List Job) (a : Nat) : (s.setJugq b r).rop a = s.rop a := rfl

@[simp] theorem State.rop_setJob (s : State) (b : Nat) (r : Option Job) (a : Nat) : (s.setJob b r).rop a = s.rop a := rfl

theorem State.seqr_when (s : State) (c : Bool) (f : State → State) (a : Nat) :
    (s.when c f).seqr a = if c then (f s).seqr a else s.seqr a := by
  cases c <;> rfl

@[simp] theorem State.seqr_count (s : State) (k : Fld) (a : Nat) : (s.count k).seqr a = s.seqr a := by simp [State.seqr]

@[simp] theorem State.seqr_countN (s : State) (k : Fld) (c : Nat) (a : Nat) : (s.countN k c).seqr a = s.seqr a := by simp [State.seqr]

@[simp] theorem State.seqr_post (s : State) (b c v i : Nat) (d : List Nat) (a : Nat) : (s.post b c v i d).seqr a = s.seqr a := rfl

@[simp] theorem State.seqr_paPut (s : State) (b h r v : Nat) (a : Nat) : (s.paPut b h r v).seqr a = s.seqr a := rfl

@[simp] theorem State.seqr_setRop (s : State) (b : Nat) (r : ReadOp) (a : Nat) : (s.setRop b r).seqr a = s.seqr a := rfl

@[simp] theorem State.seqr_setJugq (s : State) (b : Nat) (r : List Job) (a : Nat) : (s.setJugq b r).seqr a = s.seqr a := rfl

@[simp] theorem State.seqr_setJob (s : State) (b : Nat) (r : Option Job) (a : Nat) : (s.setJob b r).seqr a = s.seqr a := rfl

theorem State.jugq_when (s : State) (c : Bool) (f : State → State) (a : Nat) :
    (s.when c f).jugq a = if c then (f s).jugq a else s.jugq a := by
  cases c <;> rfl

@[simp] theorem State.jugq_put (s : State) (k : Fld) (v : Nat) (a : Nat) : (s.put k v).jugq a = s.jugq a := rfl

@[simp] theorem State.jugq_evt (s : State) (k : Fld) (a : Nat) : (s.evt k).jugq a = s.jugq a := by simp [State.jugq]

@[simp] theorem State.jugq_count (s : State) (k : Fld) (a : Nat) : (s.count k).jugq a = s.jugq a := by simp [State.jugq]

@[simp] theorem State.jugq_countN (s : State) (k : Fld) (c : Nat) (a : Nat) : (s.countN k c).jugq a = s.jugq a := by simp [State.jugq]

@[simp] theorem State.jugq_post (s : State) (b c v i : Nat) (d : List Nat) (a : Nat) : (s.post b c v i d).jugq a = s.jugq a := rfl

@[simp] theorem State.jugq_paPut (s : State) (b h r v : Nat) (a : Nat) : (s.paPut b h r v).jugq a = s.jugq a := rfl

@[simp] theorem State.jugq_setRop (s : State) (b : Nat) (r : ReadOp) (a : Nat) : (s.setRop b r).jugq a = s.jugq a := rfl

@[simp] theorem State.jugq_setSeqr (s : State) (b : Nat) (r : SeqRun) (a : Nat) : (s.setSeqr b r).jugq a = s.jugq a := rfl

@[simp] theorem State.jugq_setJob (s : State) (b : Nat) (r : Option Job) (a : Nat) : (s.setJob b r).jugq a = s.jugq a := rfl

theorem State.jobOf_when (s : State) (c : Bool) (f : State → State) (a : Nat) :
    (s.when c f).jobOf a = if c then (f s).jobOf a else s.jobOf a := by
  cases c <;> rfl

@[simp] theorem State.jobOf_count (s : State) (k : Fld) (a : Nat) : (s.count k).jobOf a = s.jobOf a := by simp [State.jobOf]

@[simp] theorem State.jobOf_countN (s : State) (k : Fld) (c : Nat) (a : Nat) : (s.countN k c).jobOf a = s.jobOf a := by simp [State.jobOf]

@[simp] theorem State.jobOf_post (s : State) (b c v i : Nat) (d : List Nat) (a : Nat) : (s.post b c v i d).jobOf a = s.jobOf a := rfl

@[simp] theorem State.jobOf_paPut (s : State) (b h r v : Nat) (a : Nat) : (s.paPut b h r v).jobOf a = s.jobOf a := rfl

@[simp] theorem State.jobOf_setRop (s : State) (b : Nat) (r : ReadOp) (a : Nat) : (s.setRop b r).jobOf a = s.jobOf a := rfl

@[simp] theorem State.jobOf_setSeqr (s : State) (b : Nat) (r : SeqRun) (a : Nat) : (s.setSeqr b r).jobOf a = s.jobOf a := rfl

@[simp] theorem State.jobOf_setJugq (s : State) (b : Nat) (r : List Job) (a : Nat) : (s.setJugq b r).jobOf a = s.jobOf a := rfl

@[simp] theorem State.paGet_evt (s : State) (k : Fld) (a h r : Nat) : (s.evt k).paGet a h r = s.paGet a h r := by simp [State.paGet]

@[simp] theorem State.paGet_count (s : State) (k : Fld) (a h r : Nat) : (s.count k).paGet a h r = s.paGet a h r := by simp [State.paGet]

@[simp] theorem State.paGet_post (s : State) (b c v i : Nat) (d : List Nat) (a h r : Nat) : (s.post b c v i d).paGet a h r = s.paGet a h r := rfl

theorem State.paGet_when (s : State) (c : Bool) (f : State → State) (a h r : Nat) :
    (s.when c f).paGet a h r = if c then (f s).paGet a h r else s.paGet a h r := by
  cases c <;> rfl

end Sys2Proof.Machine
end

