-- ==== Sys2Proof/WellFormed.lean ====
section
/-!
DEFINITION. Which commands are well formed: operands whose type does not bound them stay within what the spec lets the
command carry. A command of another form has a meaning all the same; no statement about a command needs this predicate.
-/

namespace Sys2Proof

/-- A number fits a width. -/
def fitsW (w n : Nat) : Bool := decide (n < 2 ^ w)

/-- The length of a list lies within two limits. -/
def lenIn {α : Type} (lo hi : Nat) (l : List α) : Bool := decide (lo ≤ l.length ∧ l.length ≤ hi)

/-- A command identity: controller, queue and identifier are 16-bit numbers. -/
def CmdId.wf (i : CmdId) : Bool := fitsW 16 i.cntlid && fitsW 16 i.qid && fitsW 16 i.cid

/-- The cells of a wedge: at least the 304 of one, at most a slot of 4,096 and one wedge more (R35, R36). -/
def WedgeRead.wf (w : WedgeRead) : Bool := lenIn 304 4400 w.cells

/-- A decoded codeword has 291,840 bits (R42). -/
def codewordWf (w : Option (List Bool)) : Bool := match w with
  | some l => lenIn 291840 291840 l
  | none => true

/-- A key has 1 to 16 bytes (R330). -/
def keyWf (k : List Byte) : Bool := lenIn 1 16 k

/-- The identity an NVMe command carries. -/
def Instr.cmdId : Instr → Option CmdId
  | .nvmeIdentify id _ _ _ | .getLogPage id _ _ | .getFeatures id _ _ _ | .arbitration id _ | .powerManagement id _
  | .temperatureThreshold id _ _ _ | .volatileWriteCache id _ | .numberOfQueues id _ _ | .asynchronousEventConfiguration id _
  | .keepAliveTimer id _ | .hostIdentifier id _ _ | .latencyBudget id _ _ | .abort id _ _ _ | .asynchronousEventRequest id
  | .namespaceCreate id _ _ _ _ _ | .namespaceDelete id _ | .namespaceAttachment id _ _ _ | .firmwareImageDownload id _ _ _
  | .firmwareCommit id _ _ _ | .deviceSelfTest id _ _ | .selfTestAbort id | .keepAlive id | .formatNvm id _ _ _ _
  | .sanitizeCryptoErase id | .sanitizeBlockErase id | .unsupportedOpcode id | .casgusSend id _ | .casgusReceive id _ _ _
  | .receiveWaitExpiry id | .read id _ _ _ _ | .write id _ _ _ _ | .flush id _ | .writeZeroes id _ _ _ _
  | .datasetManagement id _ _ _ | .verify id _ _ _ | .zoneAppend id _ _ _ _ | .zoneReset id _ _ _ | .zoneFinish id _ _ _
  | .zoneOpen id _ _ _ | .zoneClose id _ _ _ | .setZoneDescriptorExtension id _ _ | .zoneManagementReceive id _ _ _
  | .store id _ _ _ _ _ _ | .retrieve id _ _ | .kvDelete id _ _ | .exist id _ _ | .list id _ _ | .loadProgram id _ _ _ _
  | .programActivationManagement id _ _ _ | .executeProgram id _ _ _ _ _ _ _ | .memoryRangeSetManagement id _ _ _ _
  | .memoryCopy id _ _ _ | .memoryRead id _ _ _ | .memoryWrite id _ _ _ | .turnstileRelease id => some id
  | _ => none

/-- The operands of a command beyond its identity. -/
def Instr.operandsWf : Instr → Bool
  | .counterClear blk inst off _ => fitsW 8 blk && fitsW 8 inst && fitsW 16 off && decide (off % 4 = 0)
  | .enumerationComplete _ _ _ loads flex => lenIn 0 10 loads && fitsW 32 flex
  | .defectSpan _ _ _ _ start len => decide (start + len ≤ 291840)
  | .servoWedge _ w | .samPredicted _ w => w.wf
  | .ldpcConverge _ w => codewordWf w
  | .outerCodeRebuild _ r => lenIn 0 255 r && r.all codewordWf
  | .connect _ _ _ _ _ _ _ nqn _ c => lenIn 1 223 nqn && decide (c.tr = 1 ∨ c.tr = 2)
  | .write _ _ _ d _ | .zoneAppend _ _ _ d _ => lenIn 1 65536 d
  | .datasetManagement _ _ _ r => lenIn 1 256 r
  | .store _ _ k _ _ _ _ | .retrieve _ _ k | .kvDelete _ _ k | .exist _ _ k => keyWf k
  | .list _ _ k => lenIn 0 16 k
  | .flashProgram a d _ => lenIn 1 4096 d && decide (a.toNat < 2 ^ 28)
  | .flashRead a _ _ => decide (a.toNat < 2 ^ 28)
  | .flashErase b => decide (b.toNat < 4096)
  | .registerWrite _ _ _ off _ _ => decide (off.val % 4 = 0)
  | _ => true

/-- A well-formed command. -/
def Instr.wf (i : Instr) : Bool := (i.cmdId.map CmdId.wf).getD true && i.operandsWf

end Sys2Proof
end

