-- ==== Sys2Proof/Tests/Slice0.lean ====
section
/-!
SUPPORT. Tests: commands that are not well formed; examples of the manual; a state and operands that meet the hypotheses of
each statement.
-/

namespace Sys2Proof.Tests

open Sys2Proof.Machine

set_option maxRecDepth 8000
set_option Elab.async false
set_option linter.unusedVariables false

/-! ## Forms that are refused, one for each check of `WellFormed` -/

theorem test_wf_cntlid : Instr.wf (.keepAlive ⟨65536, 0, 0⟩) = false := by decide

theorem test_wf_qid : Instr.wf (.keepAlive ⟨0, 65536, 0⟩) = false := by decide

theorem test_wf_cid : Instr.wf (.keepAlive ⟨0, 0, 65536⟩) = false := by decide

theorem test_wf_counter_block : Instr.wf (.counterClear 256 0 0x40 0) = false := by decide

theorem test_wf_counter_instance : Instr.wf (.counterClear 0x0C 256 0x40 0) = false := by decide

theorem test_wf_counter_offset : Instr.wf (.counterClear 0x0C 0 65536 0) = false := by decide

theorem test_wf_counter_unaligned : Instr.wf (.counterClear 0x0C 0 0x42 0) = false := by decide

theorem test_wf_head_loads : Instr.wf (.enumerationComplete 0 0 0 (List.replicate 11 []) 0) = false := by decide

theorem test_wf_flex_serial : Instr.wf (.enumerationComplete 0 0 0 [] 4294967296) = false := by decide

theorem test_wf_wedge_cells : Instr.wf (.servoWedge 0 ⟨[], 0, 0, 0, 0, 0, none⟩) = false := by decide

theorem test_wf_wedge_length : Instr.wf (.samPredicted 0 ⟨List.replicate 4401 false, 0, 0, 0, 0, 0, none⟩) = false := by decide +kernel

theorem test_wf_defect_span : Instr.wf (.defectSpan 0 .dropout true false 291840 1) = false := by decide +kernel

theorem test_wf_codeword : Instr.wf (.ldpcConverge 0 (some [])) = false := by decide

theorem test_wf_track_read : Instr.wf (.outerCodeRebuild 0 (List.replicate 256 none)) = false := by decide

theorem test_wf_track_codeword : Instr.wf (.outerCodeRebuild 0 [some [true]]) = false := by decide

theorem test_wf_empty_write : Instr.wf (.write ⟨1, 1, 1⟩ 1 0 [] false) = false := by decide

theorem test_wf_empty_append : Instr.wf (.zoneAppend ⟨1, 1, 1⟩ 1 0 [] false) = false := by decide

theorem test_wf_no_range : Instr.wf (.datasetManagement ⟨1, 1, 1⟩ 1 true []) = false := by decide

theorem test_wf_store_key : Instr.wf (.store ⟨1, 1, 1⟩ 1 [] [] false false false) = false := by decide

theorem test_wf_retrieve_key : Instr.wf (.retrieve ⟨1, 1, 1⟩ 1 (List.replicate 17 0)) = false := by decide

theorem test_wf_delete_key : Instr.wf (.kvDelete ⟨1, 1, 1⟩ 1 []) = false := by decide

theorem test_wf_exist_key : Instr.wf (.exist ⟨1, 1, 1⟩ 1 []) = false := by decide

theorem test_wf_list_key : Instr.wf (.list ⟨1, 1, 1⟩ 1 (List.replicate 17 0)) = false := by decide

theorem test_wf_empty_program : Instr.wf (.flashProgram 0 [] 0) = false := by decide

theorem test_wf_program_address : Instr.wf (.flashProgram 0x10000000 [0] 0) = false := by decide

theorem test_wf_read_address : Instr.wf (.flashRead 0x10000000 1 0) = false := by decide

theorem test_wf_erase_block : Instr.wf (.flashErase 4096) = false := by decide

theorem test_wf_unaligned_write : Instr.wf (.registerWrite 0 0x0C 0 2 0 ⟨false, false, false, 0, false, 0, false, 0, []⟩) = false := by decide

theorem test_wf_nqn : Instr.wf (.connect 0 0 0 0 false 0 0 [] false ⟨false, 1, 0, 0, 0⟩) = false := by decide

theorem test_wf_transport : Instr.wf (.connect 0 0 0 0 false 0 0 [0] false ⟨false, 3, 0, 0, 0⟩) = false := by decide

/-- A write of one block is well formed. -/
theorem test_wf_write : Instr.wf (.write ⟨1, 1, 1⟩ 1 0 [0] false) = true := by decide +kernel

/-! ## Examples of the manual -/

/-- Offset +0x040 of the read channel of actuator 1 has the address 0x0C01_0040 ("Conventions"). -/
theorem test_address_of_channel_counter : adrOf 0x0C010040 = (0x0C, 1, 0x40) := by decide

/-- Zone 20 of the reference drive at DC0: 29,459 bits in a data region, 64 sectors per track (R47, example). -/
theorem test_zone20_dc0 : regionBits 640 3200 2500 0 = 29459 ∧ sectorsPerTrack 640 3200 2500 0 = 64 := by decide +kernel

/-- The same zone at DC5: 22,795 bits and 49 sectors. -/
theorem test_zone20_dc5 : regionBits 640 3200 2500 5 = 22795 ∧ sectorsPerTrack 640 3200 2500 5 = 49 := by decide +kernel

/-- Data tracks per band of that zone at DC0 and DC5 (R56, example). -/
theorem test_tracks_per_band : bandData 60 = 137 ∧ bandData 45 = 183 := by decide +kernel

/-- A sync mark at distance 3, three bits early, wins over one at distance 4 in place (R79, example). -/
theorem test_sync_mark_nearest_wins : bestMark 8 4 [(-3, 3), (0, 4)] = some (-3, 3) := by decide

/-- The record of the example of R476 opens with `SEQ` 5. -/
theorem test_record_opens :
    (((State.reset.puts [(V.pbSeq, 5)]).openRec ⟨0x0C, 0x10, 1, 2, [3, 0x14, 0x13]⟩).popen.map fun r => (r.seq, r.reps)) =
      some (5, 1) := by decide +kernel

/-- The same descriptor again is folded into it. -/
theorem test_record_folds :
    ((((State.reset.puts [(V.pbSeq, 5)]).openRec ⟨0x0C, 0x10, 1, 2, [3, 0x14, 0x13]⟩).acceptDesc
      ⟨0x0C, 0x10, 1, 2, [3, 0x14, 0x13]⟩).popen.map fun r => (r.seq, r.reps)) = some (5, 2) := by decide +kernel

/-- The position sample of the example of R152: A 380, B 620, C 880, D 120 with `KN` 4,301 give 258. -/
theorem test_position_sample : burstOffset 100000 380 620 880 120 4301 4096 = 258 := by decide +kernel

/-! ## States and operands of the witnesses -/

/-- A state after reset with some fields set. -/
def mk (l : List (Fld × Nat)) : State := State.reset.puts l

def jb : Job := ⟨0, .read, none, 0, 0, 0, 0, 0, 1, 0, 0, 0, 0, 0, 0, false, false, 0, 0, 0⟩

def sec : Sect := ⟨0, false, 0, false, 0, false, false, [], [], []⟩

/-- Bytes with their CRC-32C after them. -/
def crcd (bs : List Byte) : List Byte := bs ++ leBytes 4 (crc32c bs)

/-- A drive of one actuator and head whose Tightrope entries pass their checks. -/
def tfhMk : State :=
  { mk [(R.SPT_STAT_ENUM_DONE 0, 1)] with
    opt := putBytes (putBytes [] 0x40 [1, 1]) 0x1026 [1]
    tstore := putBytes (putBytes [] (winKey 0x13 0 0x1000) (crcd (leBytes 28 0x0101001401010000000000FF)))
      (winKey 0x13 0 0x1100) (crcd [0, 0, 0, 0]) }

/-- A drive whose first actuator meets R162. -/
def srvMk : State :=
  { mk ([(R.MMG_CTL_FMT_COMMIT, 1), (R.SPT_STAT_ENUM_DONE 0, 1), (R.SRV_SAM_SAM_WIN 0, 8), (R.SRV_SAM_LOST_LIM 0, 4),
      (R.SRV_SAM_AMP_MIN 0, 64), (R.SRV_WI_WI_THR 0, 100), (R.SRV_WI_WI_GOOD 0, 3), (R.SRV_WI_RD_THR 0, 100),
      (R.SRV_WI_SET_CNT 0, 3), (R.SRV_SEEK_SEEK_TO 0, 100), (R.SRV_SEEK_GRAY_WIN 0, 1), (R.SRV_LOAD_LD_VEL 0, 20),
      (R.SRV_LOAD_UNLD_VEL 0, 20), (R.SRV_LOAD_ACQ_TO 0, 20)] ++
      (List.range 10).flatMap fun l => [(R.SRV_HEADB_KN 0 l, 4096), (R.SRV_HEADB_KQ 0 l, 4096)]) with
    opt := putBytes [] 0x40 [1, 0] }

/-- A spindle record of four pole pairs with one curve point. -/
def spnRec : List Byte :=
  leBytes 2 4 ++ leBytes 2 100 ++ leBytes 2 100 ++ leBytes 2 0 ++ leBytes 2 100 ++ leBytes 2 100 ++ leBytes 2 2000 ++
    leBytes 2 10 ++ leBytes 2 4 ++ leBytes 2 100 ++ leBytes 2 500 ++ leBytes 2 1 ++ leBytes 8 0 ++ leBytes 4 0 ++ leBytes 4 3 ++
    (List.range 15).flatMap (fun _ => leBytes 4 0 ++ leBytes 4 0xFF) ++ leBytes 28 0

/-- A drive that meets R224. -/
def crlMk : State :=
  { mk [(R.STM_WIND_R_SPN, 20000), (R.STM_WIND_L_SPN, 100), (R.TRZ_STAT_STATE, trzRUN)] with
    win := (List.range 5).foldl (fun m i => putBytes m (winKey 0x0F 0 (0x1011 + (16 + i) * 0x20)) [1])
      (putBytes [] (winKey 0x10 0 0x100) (crcd spnRec)) }

/-- A supervision record whose ranges pass. -/
def supRec : List Byte :=
  leBytes 2 20 ++ leBytes 2 100 ++ leBytes 2 20 ++ leBytes 2 50 ++ leBytes 2 10 ++ leBytes 2 10 ++ leBytes 2 10 ++ leBytes 2 10 ++
    leBytes 1 0 ++ leBytes 1 0 ++ leBytes 2 51 ++ leBytes 2 8500 ++ leBytes 2 4000 ++ leBytes 4 0

/-- A drive that meets R243. -/
def stmMk : State :=
  { mk [(R.STM_VIN_VIN12, 12000), (R.STM_STAT_HB_OK, 1)] with
    opt := putBytes (putBytes [] 0x1C0 (crcd supRec)) 0x112 (leBytes 2 1000) }

/-- A drive whose grant conditions hold. -/
def grantMk : State :=
  mk [(R.STM_CTL_EN, 1), (R.STM_STAT_HB_OK, 1), (R.STM_VIN_VIN12, 12000), (V.stmTaken, 1), (R.STM_VCMR_VALID 0, 1),
    (R.CRL_STAT_STATE, crlSTOPPED)]

/-- A read of two sectors of a track with two parity sectors. -/
def jb2 : Job := { jb with count := 2, mPar := 2 }

/-- No bit of a word has flipped. -/
def b0 : BarkerWord := ⟨0, 0, 0, 0, 0⟩

/-- A running sequencer with a word at address 0 of its store. -/
def seqMk (w : BarkerWord) (l : List (Fld × Nat)) : State := (mk ((R.SEQ_STAT_STATE 0, seqRUN) :: l)).setBstore 0 [w]

/-- A state after the actions of a word. -/
def acted (s : State) (w : BarkerWord) : State := (s.setSeqr 0 { s.seqr 0 with fresh := false }).wordActs 0 w ⟨0, 0, 0⟩

/-- No bit of a word of Trapeze has flipped. -/
def t0 : TrzWord := ⟨0, 0, 0, 0, 0, 0⟩

/-- Trapeze running a word at address 0 of its store. -/
def trzMk (w : TrzWord) (l : List (Fld × Nat)) : State :=
  { mk ([(R.TRZ_STAT_STATE, trzRUN), (R.TRZ_STAT_BUSY, 1)] ++ l) with cstore := [w] }

/-- Trapeze with a valid loop 63 whose states are all in its mask, due. -/
def loopMk : State :=
  { (mk [(R.TRZ_STAT_STATE, trzRUN)]).setLoop 63 { (State.reset.loop 0) with due := some 0, good := true } with
    win := putBytes [] (winKey 0x0F 0 0x17E0) ([1, 0, 0, 1, 0, 0, 0, 1, 0, 0, 0xFF, 0xFF, 0, 0, 1, 0, 0x20, 1] ++ List.replicate 14 0) }

/-- A drive of one actuator with two heads of which it is the first. -/
def actMk (l : List (Fld × Nat)) : State := { mk l with opt := putBytes [] 0x40 [1, 1] }

/-- A format record of one head and zone that passes R276. -/
def fmtRec : List (Nat × Byte) :=
  putBytes (putBytes (putBytes [] 0x1000 (leBytes 2 480 ++ leBytes 2 2000 ++ leBytes 2 16 ++ leBytes 1 1 ++ leBytes 1 10 ++ leBytes 4 10))
    0x1010 (leBytes 4 4000000 ++ leBytes 1 1)) 0x1020 (leBytes 8 (3000 * 2 ^ 24 + 4 * 2 ^ 37 + 2 ^ 41 + 2 ^ 48))

/-- A drive of one head before its format commit. -/
def fmtMk : State := { mk [] with opt := putBytes fmtRec 0x40 [1, 1] }

/-- A namespace record of zeroes. -/
def nsRec : Ns := ⟨0, 0, 0, false, false, false, false, false, [], 0, false, [], 0, false, none, []⟩

/-- A committed drive of one head with one full zone in bands of class 0. -/
def riskMk : State :=
  { mk [(R.MMG_CTL_ALT_EN, 1), (R.MMG_CTL_FMT_COMMIT, 1)] with
    opt := putBytes [] 0x40 [1, 1]
    nss := [(1, some { nsRec with csi := 2, nsze := 262144 })]
    zones := [(zoneKey 1 0, some { noZone with st := zFull, bands := [0] })] }

/-- A controller with two queue pairs and nothing else. -/
def ctl : Ctrl := ⟨0, [], 2, false, 0, 0, [], [], [], [], [], false, [], [], false⟩

/-- A drive with one controller. -/
def hostMk (l : List (Fld × Nat)) : State := { mk l with ctrls := [(1, some ctl)] }

/-- Identity of a command of that controller. -/
def cid1 : CmdId := ⟨1, 0, 1⟩

/-- The bytes of a Casgus request. -/
def reqOf (op flags tag : Nat) (body : List Byte) : List Byte :=
  let h := leBytes 2 op ++ leBytes 2 flags ++ leBytes 2 tag ++ leBytes 2 0 ++ leBytes 4 body.length ++ leBytes 2 0 ++ [0xFF, 1] ++
    List.replicate 40 0 ++ leBytes 4 (if body = [] then 0 else crc32c body)
  h ++ leBytes 4 (crc32c h) ++ body

/-- A started request of mailbox 10 with a ready response. -/
def rdy : Req := ⟨10, 0, 256, 0, 5, [], [], 65536, true, true, 0, 0, [], false, some 0, []⟩

/-- The same of mailbox 9. -/
def rdy9 : Req := { rdy with mb := 9 }

/-- A network record of 124 bytes that passes R307, with its CRC, for one static address on port 0. -/
def netRec : List Byte :=
  let b := (List.replicate 124 (0 : Byte)).set 7 0x23 |>.set 0x0B 1 |>.set 0x10 1 |>.set 0x11 64 |>.set 0x4D 100 |>.set 0x4F 150
  b ++ (leBytes 4 (crc32c b)).reverse

/-- A drive with that record whose command block is enabled. -/
def fabMk (l : List (Fld × Nat)) : State := { hostMk ((R.CMD_CTL_EN, 1) :: l) with opt := putBytes [] 0x80 netRec }

/-- An open record of the event recorder. -/
def pr : Rec := ⟨5, 0, 0, ⟨1, 2, 0, 255, []⟩, false, false, false, false, false, 1, 0, 0⟩

/-- A started request of mailbox 10 without a token. -/
def rq0 (op : Nat) (body : List Byte) : Req := ⟨10, 0, op, 0, 5, [], body, 65536, true, false, 0, 0, [], false, none, []⟩

/-- A drive whose firmware runs, with such a request. -/
def rqMk (op : Nat) (body : List Byte) (l : List (Fld × Nat)) : State := { mk ((V.fwUp, 1) :: l) with reqs := [rq0 op body] }

/-- What firmware has at hand when it writes a register, all absent. -/
def w0 : World := ⟨false, false, false, 0, false, 0, false, 0, []⟩

/-- The image of the trims of Channel 0, all zero. -/
def trimArgs : List Byte :=
  leBytes 2 (trimsOf 0x0C 0).length ++ (trimsOf 0x0C 0).flatMap fun o => leBytes 2 o ++ leBytes 4 0

/-- A record of head 0. -/
def agr : AgeRec := ⟨1, 0, 0, 1, 0, 0, [], 0, [], []⟩

/-- A drive of one head. -/
def marginMk : State := { mk [] with opt := putBytes [] 0x40 [1, 1] }

/-- A committed drive of one head with one band. -/
def bandMk : State :=
  { mk [(R.MMG_CTL_FMT_COMMIT, 1)] with opt := putBytes [] 0x40 [1, 1], bands := [(0, some ⟨.free, 0, 0, 0, 0, false, 0, 0⟩)] }

/-- A drive whose mailbox 10 is a member's. -/
def helloMk : State := { mk [(R.TKB_MB_OWNER 10, 3), (R.TKB_MB_ID 10, 1)] with ctrls := [(1, some { ctl with member := true })] }

/-- A namespace of a command set attached to the controller. -/
def nsOk (csi : Nat) : Ns := { nsRec with csi := csi, nsze := 262144, keyOk := true, att := [1] }

/-- A drive whose storage namespaces answer, with one of a command set. -/
def ioMk (csi : Nat) (l : List (Fld × Nat)) : State :=
  { hostMk ((R.RMC_STAT_IO_READY, 1) :: (R.TRU_CTL_EN, 1) :: l) with nss := [(1, some (nsOk csi))] }

/-- A Key Value namespace with a log on actuator 0. -/
def kvNs : Ns := { nsOk 1 with klog := [(0, 0, 10)] }

/-- A drive with that namespace. -/
def kvMk : State := { ioMk 1 [] with nss := [(1, some kvNs)] }

/-- An entry of one byte, at a place of the log or none. -/
def kvE (loc : Option Nat) : KvEnt := ⟨[7], 1, 1, false, 0, false, none, 0, false, loc, false, false, false⟩

/-- A drive with that entry under key 1. -/
def kvHas (loc : Option Nat) : State := { ioMk 1 [] with kvDur := [(2 ^ 128 + keyNum [1], some (kvE loc))] }

/-- A drive with the entry of a committed object under key 1. -/
def kvComm : State := { ioMk 1 [] with kvDur := [(2 ^ 128 + keyNum [1], some { kvE none with comm := true })] }

/-- A drive that has taken a command on key 1. -/
def kvTook (s : State) (w : Bool) : State := s.took cid1 1 [.key 1 [1] w]

/-- A drive whose compute cores answer. -/
def coreMk (l : List (Fld × Nat)) : State :=
  hostMk ([(R.HBM_STAT_TRAINED 0, 1), (R.HBM_STAT_TRAINED 1, 1), (V.fwUp, 1), (R.TRU_CTL_EN, 1)] ++ l)

/-- A run waiting for a helper, with one range of 4 KiB. -/
def runMk (h : Nat) (regs : List Nat) : Run := ⟨0, 0, regs, 0, [], 0, [], 100, [(0, 4096)], some h⟩

/-- A drive with that run on core 0. -/
def helpMk (h : Nat) (regs : List Nat) : State := { mk [] with progRuns := [(0, some (runMk h regs))] }

/-- A member of the group, heard. -/
def peer1 : Peer := ⟨[1], 1, 32, 8, 4, true, 0⟩

/-- A group record: GID, K 4, M 2, at most 32 members. -/
def grpRec : List Byte :=
  crcd (leBytes 16 1 ++ [4, 2, 32, 0] ++ leBytes 2 5 ++ leBytes 2 1 ++ leBytes 2 10 ++ [1, 0] ++ List.replicate 16 0 ++ leBytes 4 1 ++
    List.replicate 76 0)

/-- A drive in an active group. -/
def grpMk (l : List (Fld × Nat)) : State := { mk ((R.PWK_CTL_ACT, 1) :: l) with group := putBytes [] 0 grpRec }

/-- A stripe of four fragments on members and one on a drive that left. -/
def rebSt : Stripe :=
  ⟨3, 1, 0, 100, 4096, 0, [⟨[1], 1, false, none⟩, ⟨[2], 1, false, none⟩, ⟨[3], 1, false, none⟩, ⟨[4], 1, false, none⟩, ⟨[9], 1, false, none⟩], [], true, false, []⟩

/-- A command of the controller in flight. -/
def stCmd : Cmd := ⟨⟨1, 0, 2⟩, 0, 0, [], false, true, 0, 0, 0, 0, none, .none, [], .plain, []⟩

/-- A Zone Append admitted and not begun. -/
def apCmd : Cmd := ⟨cid1, 0, 1, [], false, false, 0, 0, 0, 0, none, .none, [], .plain, []⟩

theorem leads_alone (s : State) (p : Peer) (h : s.on R.PWK_CTL_ACT = true) (hm : s.members = [p]) (hp : p.serial = serial) : s.leads = true := by
  simp [State.leads, State.isMember, h, hm, hp]
theorem mem_insertRank (f : List Byte → Nat) (x y : List Byte) : ∀ l, y ∈ insertRank f x l ↔ y = x ∨ y ∈ l := by
  intro l
  induction l with
  | nil => simp [insertRank]
  | cons z l ih =>
    unfold insertRank
    split
    · simp
    · simp [ih]; constructor
      · rintro (h | h | h) <;> simp [h]
      · rintro (h | h | h) <;> simp [h]
theorem mem_ranks (f : List Byte → Nat) (y : List Byte) : ∀ (l a : List (List Byte)), y ∈ l.foldl (fun l x => insertRank f x l) a ↔ y ∈ l ∨ y ∈ a := by
  intro l
  induction l with
  | nil => simp
  | cons z l ih =>
    intro a
    rw [List.foldl_cons, ih, mem_insertRank]
    simp; constructor
    · rintro (h | h | h) <;> simp [h]
    · rintro ((h | h) | h) <;> simp [h]
theorem spare_one (s : State) (x : Stripe) (m : List Byte) (hm : m ∈ s.members.map (·.serial)) (h : (x.frags.any fun f => decide (f.holder = m)) = false)
    (ho : ∀ y ∈ s.members.map (·.serial), (x.frags.any fun f => decide (f.holder = y)) = false → y = m) : s.spareHolder x = some m := by
  unfold State.spareHolder State.ranked
  dsimp only
  generalize hl : List.foldl _ _ _ = l
  have hk : ∀ y, y ∈ l ↔ y ∈ s.members.map (·.serial) := fun y => by rw [← hl, mem_ranks]; simp
  rcases hf : l.find? (fun m => !(x.frags.any fun f => decide (f.holder = m))) with _ | y
  · have := (List.find?_eq_none.1 hf) m ((hk m).2 hm)
    simp [h] at this
  · have h1 := List.find?_some hf
    have h2 := List.mem_of_find?_eq_some hf
    rw [ho y ((hk y).1 h2) (by simpa using h1)]

theorem touch_off (c : Nat) : ∀ (l : List Nat) (s : State), s.pkt = [] → s.get R.PKT_CTL_EN = 0 → s.get (R.HBM_STAT_SREF 0) = 0 →
    s.forAll l (fun x t => t.pktAccess c x none) = s := by
  intro l
  induction l with
  | nil => intro s _ _ _; rfl
  | cons x l ih =>
    intro s hp he hr
    have h : s.pktAccess c x none = s := by
      have hl : ∀ y w, s.pline y w = none := fun y w => by simp [State.pline, hp, Tab.at, Tab.get]
      have hw : s.wayOf x = none := by simp [State.wayOf, hl]
      simp [State.pktAccess, hw, State.pktAlloc, State.on, State.when, he, hr]
    simp only [State.forAll, h]
    exact ih s hp he hr
theorem partRead_off (s : State) (c p key n : Nat) (hp : s.pkt = []) (he : s.get R.PKT_CTL_EN = 0)
    (hr : s.get (R.HBM_STAT_SREF 0) = 0) : s.partRead c p key n = s.showPkt := by
  unfold State.partRead State.memTouch
  rw [touch_off c _ s hp he hr]

/-! ## The hypotheses of each statement are met -/

theorem wit_StepRunsFront : State.reset.pending = [] := rfl

theorem wit_StepKeepsCanonicalForm :
    { State.reset with pending := [.opsecTick] }.canon = true ∧ ∃ t, step { State.reset with pending := [.opsecTick] } = .next t :=
  ⟨by decide +kernel, _, rfl⟩

theorem wit_QueueIsFirstInFirstOut : ∃ (c : Instr) (l : List Instr) (s t : State), s.pending = c :: l ∧ step s = .next t :=
  ⟨.opsecTick, [], { State.reset with pending := [.opsecTick] }, _, rfl, rfl⟩

theorem wit_OnlyAbsentFlashStops : flashSize ≤ (0x10000000 : BitVec 32).toNat ∧ 4096 ≤ (4096 : BitVec 16).toNat := by decide

theorem wit_LockTestRepeats : ∃ (a : Act) (x : Sect) (s : State), (s.rop a).active = true ∧ (s.rop a).zone ≠ 64 ∧
    (s.rop a).cur = some x ∧ s.get (R.CHN_STAT_LOCK a) = 0 :=
  ⟨0, sec, (mk []).setRop 0 { ReadOp.idle with active := true, cur := some sec }, by decide⟩

theorem wit_CountersSaturateAndClear : ∃ (a : Act) (j : Fin 8) (s : State) (c sat : Fld), c = ⟨0x0C, a, 0x40 + 4 * j, 0, 16, 0⟩ ∧
    sat = ⟨0x0C, a, 0x40 + 4 * j, 16, 1, 0⟩ ∧ s.canon = true :=
  ⟨3, 7, mk [(⟨0x0C, 3, 0x5C, 0, 16, 0⟩, 65534)], _, _, rfl, rfl, by decide +kernel⟩

theorem wit_RecordOpens : ∃ (d : Desc) (l : List Desc) (s : State), s.inbox = d :: l ∧ s.popen = none :=
  ⟨⟨0x0C, 0x10, 1, 2, []⟩, [], { mk [] with inbox := [⟨0x0C, 0x10, 1, 2, []⟩] }, by decide⟩

theorem wit_RecordClosesAndOpens : ∃ (d : Desc) (l : List Desc) (r : Rec) (s : State), s.inbox = d :: l ∧ s.popen = some r ∧
    r.desc ≠ d ∧ s.pbuf.length < 64 :=
  ⟨⟨0x0C, 0x10, 1, 2, []⟩, [], pr, { mk [] with inbox := [⟨0x0C, 0x10, 1, 2, []⟩], popen := some pr }, by decide⟩

theorem wit_RecordRepeats : ∃ (d : Desc) (l : List Desc) (r : Rec) (s : State), s.inbox = d :: l ∧ s.popen = some r ∧
    r.desc = d ∧ s.get V.pbDrop = 0 ∧ s.get V.pbHeld = 0 :=
  ⟨pr.desc, [], pr, { mk [] with inbox := [pr.desc], popen := some pr }, by decide⟩

theorem wit_ReservedBlockRefused_REG_WRITE : ∃ (rq : ReqId) (r : Req) (e : Nat × Nat × Nat) (s : State), s.started rq 0x0B01 = some r ∧
    (∀ k ∈ s.works, k.no ≠ r.no) ∧ e ∈ r.entries ∧ blkKnown (adrOf e.1).1 = false :=
  ⟨⟨10, 5⟩, rq0 0x0B01 (leBytes 8 1 ++ leBytes 4 0x1B000000 ++ leBytes 12 0), (0x1B000000, 0, 0),
    rqMk 0x0B01 (leBytes 8 1 ++ leBytes 4 0x1B000000 ++ leBytes 12 0) [], by decide +kernel⟩

theorem wit_ReservedBlockRefused_REG_WRITE_BLOCK : ∃ (rq : ReqId) (r : Req) (e : Nat × Nat × Nat) (s : State),
    s.started rq 0x0B03 = some r ∧ (∀ k ∈ s.works, k.no ≠ r.no) ∧ e ∈ r.entries ∧ blkKnown (adrOf e.1).1 = false :=
  ⟨⟨10, 5⟩, rq0 0x0B03 (leBytes 4 0xFF000000 ++ leBytes 4 4 ++ leBytes 4 7), (0xFF000000, 7, 0),
    rqMk 0x0B03 (leBytes 4 0xFF000000 ++ leBytes 4 4 ++ leBytes 4 7) [], by decide +kernel⟩

theorem wit_ReservedBlockRefused_REG_READ : ∃ (rq : ReqId) (r : Req) (i : Nat) (s : State), s.started rq 0x0B00 = some r ∧
    i < fieldAt r.args 0 2 ∧ blkKnown (adrOf (fieldAt r.args (4 + 4 * i) 4)).1 = false :=
  ⟨⟨10, 5⟩, rq0 0x0B00 (leBytes 4 1 ++ leBytes 4 0), 0, rqMk 0x0B00 (leBytes 4 1 ++ leBytes 4 0) [], by decide +kernel⟩

theorem wit_ReservedBlockRefused_REG_READ_BLOCK : ∃ (rq : ReqId) (r : Req) (i : Nat) (s : State), s.started rq 0x0B02 = some r ∧
    i < fieldAt r.args 4 4 / 4 ∧ blkKnown (adrOf (fieldAt r.args 0 4 + 4 * i)).1 = false :=
  ⟨⟨10, 5⟩, rq0 0x0B02 (leBytes 4 0x1B000000 ++ leBytes 4 4), 0, rqMk 0x0B02 (leBytes 4 0x1B000000 ++ leBytes 4 4) [],
    by decide +kernel⟩

theorem wit_ReservedBlockRefused_REG_WRITE_BLOCK_2 : ∃ (rq : ReqId) (r : Req) (s : State), s.started rq 0x0B03 = some r ∧
    (∀ k ∈ s.works, k.no ≠ r.no) ∧ blkKnown (adrOf (fieldAt r.args 0 4)).1 = false :=
  ⟨⟨10, 5⟩, rq0 0x0B03 (leBytes 4 0xFF000000 ++ leBytes 4 0), rqMk 0x0B03 (leBytes 4 0xFF000000 ++ leBytes 4 0) [],
    by decide +kernel⟩

theorem wit_ReservedBlockRefused_REG_READ_BLOCK_2 : ∃ (rq : ReqId) (r : Req) (s : State), s.started rq 0x0B02 = some r ∧
    blkKnown (adrOf (fieldAt r.args 0 4)).1 = false :=
  ⟨⟨10, 5⟩, rq0 0x0B02 (leBytes 4 0x1B000000 ++ leBytes 4 0), rqMk 0x0B02 (leBytes 4 0x1B000000 ++ leBytes 4 0) [],
    by decide +kernel⟩

/-! ### ReadChannelCommandsComplete -/

theorem wit_readOpStart : ∃ (a : Act) (j : Job) (s : State), (s.jobOf a = some j) ∧ (j.kind ≠ .write) ∧ (j.kind ≠
    .durable) ∧ (s.get (R.CHN_CTL_EN a) = 1) ∧ (s.get (R.CHN_REPLAY_HOLD a) = 0) ∧ (s.get (V.sptPortFail a) = 0) ∧
    (srvACQUIRE ≤ s.srvSt a) ∧ (s.srvSt a ≤ srvHOLD) :=
  ⟨0, jb, (mk [(R.CHN_CTL_EN 0, 1), (R.SRV_STAT_STATE 0, srvFOLLOW)]).setJob 0 (some jb), by decide⟩

theorem wit_syncFraming : ∃ (a : Act) (x : Sect) (sm1 sm2 : List (Int × Nat)) (p q : Int × Nat) (s : State), ((s.rop
    a).cur = some x) ∧ (bitOf (s.get (R.SEQ_STAT_GATES a)) 2 = true) ∧ (bestMark (s.get (R.CHN_SYNC_SM1_WIN a)) (s.get
    (R.CHN_SYNC_SM1_HD a)) sm1 = some p) ∧ (bestMark 8 (s.get (R.CHN_SYNC_SM2_HD a)) sm2 = some q) :=
  ⟨0, sec, [(3, 1)], [(2, 0)], (3, 1), (2, 0), mk [(R.SEQ_STAT_GATES 0, 4)] |>.setRop 0
    { ReadOp.idle with cur := some sec }, by decide⟩

theorem wit_syncFraming_2 : ∃ (a : Act) (x : Sect) (sm1 sm2 : List (Int × Nat)) (s : State), ((s.rop a).cur = some x) ∧
    (bitOf (s.get (R.SEQ_STAT_GATES a)) 2 = true) ∧ (bestMark (s.get (R.CHN_SYNC_SM1_WIN a)) (s.get (R.CHN_SYNC_SM1_HD
    a)) sm1 = none) ∧ (bestMark 8 (s.get (R.CHN_SYNC_SM2_HD a)) sm2 = none) :=
  ⟨0, sec, [], [(9, 0)], mk [(R.SEQ_STAT_GATES 0, 4)] |>.setRop 0 { ReadOp.idle with cur := some sec }, by decide⟩

theorem wit_fsmSearch : ∃ (a : Act) (x : Sect) (fsm : List (Int × Nat)) (q : Int × Nat) (s : State), ((s.rop a).cur =
    some x) ∧ (bitOf (s.get (R.SEQ_STAT_GATES a)) 3 = true) ∧ (bestMark 8 (s.get (R.CHN_SYNC_FSM_HD a)) fsm = some q) :=
  ⟨0, sec, [(-8, 0)], (-8, 0), mk [(R.SEQ_STAT_GATES 0, 8)] |>.setRop 0 { ReadOp.idle with cur := some sec }, by decide⟩

theorem wit_defectSpan : ∃ (a : Act) (x : Sect) (r0 r1 : Bool) (start len : Nat) (s : State), ((s.rop a).cur = some x) ∧
    (s.get (R.CHN_CTL_DD_EN a) = 1) ∧ ((r0 || r1) = true) :=
  ⟨0, sec, true, false, 0, 0, mk [(R.CHN_CTL_DD_EN 0, 1)] |>.setRop 0 { ReadOp.idle with cur := some sec }, by decide⟩

theorem wit_sectorSamplesDone : ∃ (a : Act) (x : Sect) (l : List (BitVec 6 × BitVec 6)) (s : State), ((s.rop a).cur =
    some x) ∧ (s.get (V.chnAgg a) = 0) ∧ (x.eras = false) ∧ (x.zeroLlr ≤ s.get (R.CHN_DD2_SECT_LIM a)) :=
  ⟨0, sec, [], mk [] |>.setRop 0 { ReadOp.idle with cur := some sec }, by decide +kernel⟩

theorem wit_ldpcConverge : ∃ (a : Act) (x : Sect) (rest : List Sect) (j : Job) (w : List Bool) (s : State), ((s.rop
    a).dec = x :: rest) ∧ ((s.rop a).job = some j) ∧ ((s.rop a).known + 1 < j.count) :=
  ⟨0, sec, [], jb2, [], (mk []).setRop 0 { ReadOp.idle with dec := [sec], job := some jb2 }, by decide⟩

theorem wit_ldpcConverge_2 : ∃ (a : Act) (x : Sect) (rest : List Sect) (j : Job) (s : State), ((s.rop a).dec = x ::
    rest) ∧ ((s.rop a).job = some j) ∧ ((s.rop a).known + 1 < j.count) :=
  ⟨0, sec, [], jb2, (mk []).setRop 0 { ReadOp.idle with dec := [sec], job := some jb2 }, by decide⟩

theorem wit_ldpcWindowEnd : ∃ (a : Act) (x : Sect) (rest : List Sect) (j : Job) (s : State),
    ((s.rop a).dec = x :: rest) ∧ ((s.rop a).job = some j) ∧ ((s.rop a).known + 1 < j.count) :=
  ⟨0, sec, [], { jb with count := 2 }, mk [] |>.setRop 0 { ReadOp.idle with dec := [sec], job := some { jb with count := 2 } }, by decide⟩

theorem wit_retryRung : ∃ (a : Act) (j : Job) (x y : Nat × Nat) (rest : List (Nat × Nat)) (s : State),
    (1 ≤ s.get (R.CHN_STAT_RUNG a)) ∧ (s.get (R.CHN_STAT_RUNG a) ≤ 3) ∧ ((s.rop a).job = some j) ∧
    ((s.rop a).todo = x :: y :: rest) :=
  ⟨0, jb, (1, 4), (2, 4), [], mk [(R.CHN_STAT_RUNG 0, 3)] |>.setRop 0 { ReadOp.idle with job := some jb, todo := [(1, 4), (2, 4)] }, by decide⟩

theorem wit_retryRung_2 : ∃ (a : Act) (j : Job) (x : Nat × Nat) (rest : List (Nat × Nat)) (s : State),
    (1 ≤ s.get (R.CHN_STAT_RUNG a)) ∧ (s.get (R.CHN_STAT_RUNG a) ≤ 4) ∧ ((s.rop a).job = some j) ∧
    ((s.rop a).todo = x :: rest) ∧ ((s.rop a).step + 1 < s.rungSteps a (s.get (R.CHN_STAT_RUNG a))) :=
  ⟨0, jb, (1, 4), [], mk [(R.CHN_STAT_RUNG 0, 4)] |>.setRop 0 { ReadOp.idle with job := some jb, todo := [(1, 4)] }, by decide⟩

theorem wit_retryTimeLimit : ∃ (a : Act) (j : Job) (s : State), (1 ≤ s.get (R.CHN_STAT_RUNG a)) ∧
    (s.get (R.CHN_STAT_RUNG a) ≤ 4) ∧ ((s.rop a).job = some j) ∧ ((s.rop a).todo ≠ []) ∧
    (bitOf (s.get (R.CHN_RETRY_RUNG_EN a)) 4 = true) :=
  ⟨0, jb, mk [(R.CHN_STAT_RUNG 0, 4)] |>.setRop 0 { ReadOp.idle with job := some jb, todo := [(1, 4)] }, by decide⟩

theorem wit_outerCodeRebuild : ∃ (a : Act) (j : Job) (l : List (Option (List Bool))) (s : State), (s.get
    (R.CHN_STAT_RUNG a) = 5) ∧ ((s.rop a).job = some j) ∧ ((s.erasedOf a l).length = j.mPar) :=
  ⟨0, jb2, [none, none], mk [(R.CHN_STAT_RUNG 0, 5)] |>.setRop 0 { ReadOp.idle with job := some jb2 }, by decide⟩

theorem wit_chnEnable : ∃ (a : Act) (s : State), (s.get (R.CHN_CTL_EN a) = 0) ∧ (a.val < s.nact) ∧
    (((s.loadWin 0x0C a 0x4000 0xA000).chnReasons a).find? (·.1) = none) :=
  ⟨0, { mk [(R.MMG_CTL_FMT_COMMIT,1),(R.SPT_STAT_ENUM_DONE 0,1)] with opt := putBytes [] 0x40 [1, 0] }, by decide⟩

theorem wit_rdAbort : ∃ (a : Act) (x : Sect) (s : State), ((s.rop a).active = true) ∧ ((s.rop a).cur = some x) :=
  ⟨0, sec, mk [] |>.setRop 0 { ReadOp.idle with active := true, cur := some sec }, by decide⟩

theorem wit_replayHold : ∃ (a : Act) (v : Bool) (s : State), (a.val < s.nact) :=
  ⟨0, true, actMk [], by decide +kernel⟩

theorem wit_counterClear : ∃ (blk inst off n : Nat) (s : State), (isCounter blk off = true) ∧ (n < 65535) :=
  ⟨0x0C, 0, 0x40, 65534, mk [], by decide⟩

/-! ### SpotlightCommandsComplete -/

theorem wit_lanyardGateFrame : ∃ (a : Act) (s : State), (s.gateMay a = true) ∧ (s.get (V.srvSmpOk a) = 1) :=
  ⟨0, mk [(R.SPT_CTL_EN 0, 1), (R.SEQ_STAT_GATES 0, 1), (V.srvSmpOk 0, 1)], by decide⟩

theorem wit_lanyardRegWrite : ∃ (a : Act) (hsel : Fin 16) (addr : Fin 2048) (data : BitVec 16) (s : State), (s.get
    (R.SPT_CTL_EN a) = 1) ∧ (s.get (V.sptPortFail a) = 0) ∧ (paReadOnly addr = false) ∧ (addr.val ≠ 3) ∧ (addr.val <
    0x10 ∧ hsel.val = 15 ∨ 0x10 ≤ addr.val ∧ addr.val < 0x20 ∧ hsel.val < 10) :=
  ⟨0, 9, 31, 0x7FFF, mk [(R.SPT_CTL_EN 0, 1)], by decide⟩

theorem wit_lanyardRegWrite_2 : ∃ (a : Act) (hsel : Fin 16) (addr : Fin 2048) (data : BitVec 16) (e : BitVec 40) (s :
    State), (s.get (R.SPT_CTL_EN a) = 1) ∧ (s.get (V.sptPortFail a) = 0) ∧ (s.get (V.sptTry a) < 3) :=
  ⟨0, 0, 16, 0x7FFF, 0, mk [(R.SPT_CTL_EN 0, 1), (V.sptTry 0, 2)], by decide⟩

theorem wit_lanyardRegRead : ∃ (a : Act) (hsel : Fin 16) (addr : Fin 2048) (data : BitVec 16) (s : State),
    (s.get (R.SPT_CTL_EN a) = 1) ∧ (s.get (V.sptPortFail a) = 0) :=
  ⟨0, 0, 16, 0x7FFF, mk [(R.SPT_CTL_EN 0, 1)], by decide⟩

theorem wit_sptEnable : ∃ (a : Act) (s : State), (s.get (R.SPT_CTL_EN a) = 0) ∧ (a.val < s.nact) ∧
    ((List.range (s.loadWin 0x12 a 0x1000 0x6000).nhpa).any (fun l => !(s.loadWin 0x12 a 0x1000 0x6000).headEntOk a l) =
    false) ∧ (((s.loadWin 0x12 a 0x1000 0x6000).declared a).any (fun p => !(s.loadWin 0x12 a 0x1000 0x6000).writeEntOk a p.1
    p.2) = false) ∧ ((s.loadWin 0x12 a 0x1000 0x6000).agOk a = true) :=
  ⟨0, { mk [(R.SPT_AG_WG_ADV 0, 60)] with opt := putBytes [] 0x40 [1, 0] }, by decide⟩

theorem wit_preampFault : ∃ (a : Act) (st : BitVec 16) (stays latch : Bool) (s : State), (a.val < s.nact) :=
  ⟨0, 0xFFFF, true, true, actMk [], by decide +kernel⟩

theorem wit_preampWriteHoldEnd : ∃ (a : Act) (s : State), (s.get (V.sptHold a) = 1) :=
  ⟨0, mk [(V.sptHold 0, 1)], by decide⟩

theorem wit_wrInh : ∃ (a : Act) (v : Bool) (s : State), (a.val < s.nact) :=
  ⟨0, true, actMk [], by decide +kernel⟩

theorem wit_hdwpClear : ∃ (a : Act) (m hw : BitVec 10) (i : Fin 10) (s : State), (a.val < s.nact) :=
  ⟨0, 1, 0, 9, actMk [], by decide +kernel⟩

theorem wit_preheatDone : ∃ (a : Act) (s : State), (s.get (V.tfhHtw a) = 1) :=
  ⟨0, mk [(V.tfhHtw 0, 1)], by decide⟩

theorem wit_touchdownGo : ∃ (h : GHead) (s : State), (s.get R.TFH_TD_RES_BUSY = 0) ∧
    (srvACQUIRE ≤ s.srvSt (s.actOf h)) ∧ (s.srvSt (s.actOf h) ≤ srvHOLD) ∧ (s.get R.CRL_STAT_AT_SP = 1) ∧
    (s.writing (s.actOf h) = false) :=
  ⟨0, { mk [(R.SRV_STAT_STATE 0, srvACQUIRE), (R.CRL_STAT_AT_SP, 1)] with opt := putBytes [] 0x40 [1, 1] }, by decide⟩

theorem wit_touchdownDwellEnd : ∃ (e o : Nat) (s : State), (s.get R.TFH_TD_RES_BUSY = 1) ∧ (s.get V.tdWait = 0) ∧
    (s.get V.tdStep ≤ 4) ∧ (s.get V.tdP + s.tfhField (s.get V.tdH) 6 1 ≤ s.tfhField (s.get V.tdH) 0 2) ∧
    (s.get V.tdP + s.tfhField (s.get V.tdH) 6 1 < 4096) :=
  ⟨0, 0, mk [(R.TFH_TD_RES_BUSY, 1), (V.tdStep, 4)], by decide⟩

theorem wit_touchdownDwellEnd_2 : ∃ (e o : Nat) (s : State), (s.get R.TFH_TD_RES_BUSY = 1) ∧ (s.get V.tdWait = 0) ∧
    (4 < s.get V.tdStep) ∧ (s.get V.tdHits = 1) ∧ (0 < o) :=
  ⟨0, 1, mk [(R.TFH_TD_RES_BUSY, 1), (V.tdStep, 5), (V.tdHits, 1)], by decide⟩

theorem wit_touchdownAbort : ∃ (s : State), (s.get R.TFH_TD_RES_BUSY = 1) :=
  ⟨mk [(R.TFH_TD_RES_BUSY, 1)], by decide⟩

theorem wit_loadMeasureGo : ∃ (a : Act) (k : Fin 8) (l : LHead) (s : State), (a.val < s.nact) ∧ (s.get
    (R.SPT_STAT_MEAS_BUSY a) = 0) ∧ (s.get (V.sptMeasWait a) = 0) ∧ (1 ≤ k.val) ∧ (k.val < 7) ∧ (k.val ≠ 5) ∧ (s.writing
    a = false) :=
  ⟨0, 1, 0, actMk [], by decide +kernel⟩

theorem wit_loadMeasureDone : ∃ (a : Act) (r0 r1 : BitVec 32) (s : State), (s.get (R.SPT_STAT_MEAS_BUSY a) = 1) :=
  ⟨0, 0, 0, mk [(R.SPT_STAT_MEAS_BUSY 0, 1)], by decide⟩

theorem wit_tfhEnable : ∃ (s : State), (s.get R.TFH_CTL_EN = 0) ∧ (s.tfhLoaded.enumHeads ≠ []) ∧
    ((s.tfhLoaded.tfhBad s.tfhLoaded.enumHeads).find? (·.1) = none) :=
  ⟨tfhMk, by decide +kernel⟩

/-! ### SequencerCommandsComplete -/

theorem wit_barkerNop : ∃ (a : Act) (f w : BarkerWord) (now : BarkerNow) (s v : State), (s.barkerRuns a 0 f now w v) :=
  ⟨0, b0, ⟨0x00000000#32, 0, 0x00000000#32, 0, 0x0#4⟩, ⟨0, 0, 0⟩, seqMk ⟨0x00000000#32, 0, 0x00000000#32, 0, 0x0#4⟩ [],
    acted (seqMk ⟨0x00000000#32, 0, 0x00000000#32, 0, 0x0#4⟩ []) ⟨0x00000000#32, 0, 0x00000000#32, 0, 0x0#4⟩,
    by decide +kernel⟩

theorem wit_barkerJmp : ∃ (a : Act) (f w : BarkerWord) (now : BarkerNow) (s v : State), (s.barkerRuns a 1 f now w v) :=
  ⟨0, b0, ⟨0x1fff0000#32, 0, 0x00000000#32, 0, 0x1#4⟩, ⟨0, 0, 0⟩, seqMk ⟨0x1fff0000#32, 0, 0x00000000#32, 0, 0x1#4⟩ [],
    acted (seqMk ⟨0x1fff0000#32, 0, 0x00000000#32, 0, 0x1#4⟩ []) ⟨0x1fff0000#32, 0, 0x00000000#32, 0, 0x1#4⟩,
    by decide +kernel⟩

theorem wit_barkerBr : ∃ (a : Act) (f w : BarkerWord) (now : BarkerNow) (s v : State), (s.barkerRuns a 2 f now w v) ∧
    (v.condHolds a (bwCond w) (bwImm w) now = true) :=
  ⟨0, b0, ⟨0x2fff2000#32, 0, 0x00000000#32, 0, 0x0#4⟩, ⟨0, 0, 0⟩, seqMk ⟨0x2fff2000#32, 0, 0x00000000#32, 0, 0x0#4⟩
    [(V.srvSamOut 0, 1)], acted (seqMk ⟨0x2fff2000#32, 0, 0x00000000#32, 0, 0x0#4⟩ [(V.srvSamOut 0, 1)]) ⟨0x2fff2000#32,
    0, 0x00000000#32, 0, 0x0#4⟩, by decide +kernel⟩

theorem wit_barkerBr_2 : ∃ (a : Act) (f w : BarkerWord) (now : BarkerNow) (s v : State), (s.barkerRuns a 2 f now w v) ∧
    (v.condHolds a (bwCond w) (bwImm w) now = false) :=
  ⟨0, b0, ⟨0x2fff2000#32, 0, 0x00000000#32, 0, 0x0#4⟩, ⟨0, 0, 0⟩, seqMk ⟨0x2fff2000#32, 0, 0x00000000#32, 0, 0x0#4⟩ [],
    acted (seqMk ⟨0x2fff2000#32, 0, 0x00000000#32, 0, 0x0#4⟩ []) ⟨0x2fff2000#32, 0, 0x00000000#32, 0, 0x0#4⟩,
    by decide +kernel⟩

theorem wit_barkerCall : ∃ (a : Act) (f w : BarkerWord) (now : BarkerNow) (s v : State), (s.barkerRuns a 3 f now w v) ∧
    ((s.seqr a).stack.length < 8) :=
  ⟨0, b0, ⟨0x3fff0000#32, 0, 0x00000000#32, 0, 0x0#4⟩, ⟨0, 0, 0⟩, seqMk ⟨0x3fff0000#32, 0, 0x00000000#32, 0, 0x0#4⟩ [],
    acted (seqMk ⟨0x3fff0000#32, 0, 0x00000000#32, 0, 0x0#4⟩ []) ⟨0x3fff0000#32, 0, 0x00000000#32, 0, 0x0#4⟩,
    by decide +kernel⟩

theorem wit_barkerRet : ∃ (a : Act) (f w : BarkerWord) (now : BarkerNow) (pc : Nat) (rest : List Nat) (s v : State),
    (s.barkerRuns a 4 f now w v) ∧ ((s.seqr a).stack = pc :: rest) ∧ (pc < 4096) :=
  ⟨0, b0, ⟨0x40000000#32, 0, 0x00000000#32, 0, 0x1#4⟩, ⟨0, 0, 0⟩, 4095, [],
    (seqMk ⟨0x40000000#32, 0, 0x00000000#32, 0, 0x1#4⟩ []).setSeqr 0 { (State.reset.seqr 0) with stack := [4095] },
    acted ((seqMk ⟨0x40000000#32, 0, 0x00000000#32, 0, 0x1#4⟩ []).setSeqr 0
    { (State.reset.seqr 0) with stack := [4095] }) ⟨0x40000000#32, 0, 0x00000000#32, 0, 0x1#4⟩, by decide +kernel⟩

theorem wit_barkerWait : ∃ (a : Act) (f w : BarkerWord) (now : BarkerNow) (s v : State), (s.barkerRuns a 5 f now w v) ∧
    (¬((bwCond w = 0 ∧ bwImm w < now.cell) ∨ (bwCond w = 1 ∧ bwImm w < now.bit))) ∧ (v.condHolds a (bwCond w) (bwImm w)
    now = true) :=
  ⟨0, b0, ⟨0x50002000#32, 0, 0x00000000#32, 0, 0x1#4⟩, ⟨0, 0, 0⟩, seqMk ⟨0x50002000#32, 0, 0x00000000#32, 0, 0x1#4⟩
    [(V.srvSamOut 0, 1)], acted (seqMk ⟨0x50002000#32, 0, 0x00000000#32, 0, 0x1#4⟩ [(V.srvSamOut 0, 1)]) ⟨0x50002000#32,
    0, 0x00000000#32, 0, 0x1#4⟩, by decide +kernel⟩

theorem wit_barkerWait_2 : ∃ (a : Act) (f w : BarkerWord) (now : BarkerNow) (s v : State), (s.barkerRuns a 5 f now w v)
    ∧ (¬((bwCond w = 0 ∧ bwImm w < now.cell) ∨ (bwCond w = 1 ∧ bwImm w < now.bit))) ∧ (v.condHolds a (bwCond w) (bwImm
    w) now = false) ∧ (s.get (R.SEQ_STAT_STATE a) = seqRUN) :=
  ⟨0, b0, ⟨0x50002000#32, 0, 0x00000000#32, 0, 0x1#4⟩, ⟨0, 0, 0⟩, seqMk ⟨0x50002000#32, 0, 0x00000000#32, 0, 0x1#4⟩ [],
    acted (seqMk ⟨0x50002000#32, 0, 0x00000000#32, 0, 0x1#4⟩ []) ⟨0x50002000#32, 0, 0x00000000#32, 0, 0x1#4⟩,
    by decide +kernel⟩

theorem wit_barkerLoad : ∃ (a : Act) (f w : BarkerWord) (now : BarkerNow) (s v : State), (s.barkerRuns a 6 f now w v) :=
  ⟨0, b0, ⟨0x600000f0#32, 0, 0x00ffffff#32, 0, 0x0#4⟩, ⟨0, 0, 0⟩, seqMk ⟨0x600000f0#32, 0, 0x00ffffff#32, 0, 0x0#4⟩ [],
    acted (seqMk ⟨0x600000f0#32, 0, 0x00ffffff#32, 0, 0x0#4⟩ []) ⟨0x600000f0#32, 0, 0x00ffffff#32, 0, 0x0#4⟩,
    by decide +kernel⟩

theorem wit_barkerAdd : ∃ (a : Act) (f w : BarkerWord) (now : BarkerNow) (s v : State), (s.barkerRuns a 7 f now w v) :=
  ⟨0, b0, ⟨0x700000f1#32, 0, 0x00ffffff#32, 0, 0x0#4⟩, ⟨0, 0, 0⟩, seqMk ⟨0x700000f1#32, 0, 0x00ffffff#32, 0, 0x0#4⟩ [],
    acted (seqMk ⟨0x700000f1#32, 0, 0x00ffffff#32, 0, 0x0#4⟩ []) ⟨0x700000f1#32, 0, 0x00ffffff#32, 0, 0x0#4⟩,
    by decide +kernel⟩

theorem wit_barkerEnd : ∃ (a : Act) (f w : BarkerWord) (now : BarkerNow) (s v : State), (s.barkerRuns a 8 f now w v) ∧
    (s.get (R.SEQ_STAT_STATE a) = seqRUN) :=
  ⟨0, b0, ⟨0x80000000#32, 0, 0x00000000#32, 0, 0x1#4⟩, ⟨0, 0, 0⟩,
    (seqMk ⟨0x80000000#32, 0, 0x00000000#32, 0, 0x1#4⟩ []).setSeqr 0 { (State.reset.seqr 0) with job := some jb }, acted
    ((seqMk ⟨0x80000000#32, 0, 0x00000000#32, 0, 0x1#4⟩ []).setSeqr 0 { (State.reset.seqr 0) with job := some jb })
    ⟨0x80000000#32, 0, 0x00000000#32, 0, 0x1#4⟩, by decide +kernel⟩

theorem wit_barkerEnd_2 : ∃ (a : Act) (f w : BarkerWord) (now : BarkerNow) (s v : State), (s.barkerRuns a 8 f now w v) ∧
    (s.get (R.SEQ_STAT_STATE a) = seqEXIT) :=
  ⟨0, b0, ⟨0x80000000#32, 0, 0x00000000#32, 0, 0x1#4⟩, ⟨0, 0, 0⟩, seqMk ⟨0x80000000#32, 0, 0x00000000#32, 0, 0x1#4⟩
    [(R.SEQ_STAT_STATE 0, seqEXIT)], acted (seqMk ⟨0x80000000#32, 0, 0x00000000#32, 0, 0x1#4⟩
    [(R.SEQ_STAT_STATE 0, seqEXIT)]) ⟨0x80000000#32, 0, 0x00000000#32, 0, 0x1#4⟩, by decide +kernel⟩

theorem wit_barkerWaitMet : ∃ (a : Act) (now : BarkerNow) (s : State), (s.get (R.SEQ_STAT_STATE a) = seqWAIT) ∧ (s.get
    (V.seqStall a) = 1) ∧ (s.condHolds a (s.get (V.seqWaitCond a)) (s.get (V.seqWaitImm a)) now = true) ∧ (s.get
    (V.seqPend a) = 0) ∧ (now.ab = 0) :=
  ⟨0, ⟨0, 0, 0⟩, mk [(R.SEQ_STAT_STATE 0, seqWAIT), (V.seqStall 0, 1), (V.seqWaitCond 0, 2), (V.srvSamOut 0, 1)], by
    decide⟩

theorem wit_barkerWaitTimeout : ∃ (a : Act) (now : BarkerNow) (s : State), (s.get (R.SEQ_STAT_STATE a) = seqWAIT) ∧
    (s.get (V.seqStall a) = 1) ∧ (s.get (V.seqWaitUnit a) ≠ 3) ∧ (s.condHolds a (s.get (V.seqWaitCond a)) (s.get
    (V.seqWaitImm a)) now = false) ∧ (s.get (V.seqWaitBr a) = 1) ∧ (s.get (V.seqPend a) = 0) ∧ (now.ab = 0) :=
  ⟨0, ⟨0, 0, 0⟩, mk [(R.SEQ_STAT_STATE 0, seqWAIT), (V.seqStall 0, 1), (V.seqWaitCond 0, 2), (V.seqWaitBr 0, 1),
    (V.seqWaitTgt 0, 7)], by decide⟩

theorem wit_barkerWaitTimeout_2 : ∃ (a : Act) (now : BarkerNow) (s : State), (s.get (R.SEQ_STAT_STATE a) = seqWAIT) ∧
    (s.get (V.seqStall a) = 1) ∧ (s.get (V.seqWaitUnit a) ≠ 3) ∧ (s.condHolds a (s.get (V.seqWaitCond a)) (s.get
    (V.seqWaitImm a)) now = true) ∧ (s.get (V.seqPend a) = 0) ∧ (now.ab = 0) :=
  ⟨0, ⟨0, 0, 0⟩, mk [(R.SEQ_STAT_STATE 0, seqWAIT), (V.seqStall 0, 1), (V.seqWaitCond 0, 2), (V.srvSamOut 0, 1)], by
    decide⟩

theorem wit_seqEnable : ∃ (a : Act) (s : State), (s.get (R.SEQ_CTL_EN a) = 0) ∧ (a.val < s.nact) ∧
    (s.get R.MMG_CTL_FMT_COMMIT = 1) ∧ (s.get (R.SPT_STAT_ENUM_DONE a) = 1) ∧ (s.get (V.seqOos a) = 0) :=
  ⟨0, { mk [(R.MMG_CTL_FMT_COMMIT,1),(R.SPT_STAT_ENUM_DONE 0,1)] with opt := putBytes [] 0x40 [1, 0] }, by decide⟩

theorem wit_seqEnable_2 : ∃ (a : Act) (s : State), (s.get (R.SEQ_CTL_EN a) = 0) ∧ (a.val < s.nact) :=
  ⟨0, { mk [] with opt := putBytes [] 0x40 [1, 0] }, by decide⟩

theorem wit_routineStart : ∃ (a : Act) (id : Fin 64) (f e : BarkerWord) (j : Job) (k : RoutineKind) (s : State), (s.get
    (R.SEQ_STAT_STATE a) = seqIDLE) ∧ (s.get (V.seqHeld a) = 0) ∧ ((s.seqr a).returned = none) ∧ (s.jobOf a = some j) ∧
    (s.jobMay a j = true) ∧ (k ≠ .headSwitch) ∧ (e = (s.upset a id f).bword a id) ∧ (bwParityMask e = 0) ∧ (e.q0.getLsbD
    13 = true) :=
  ⟨0, 0, b0, ⟨0x2fff#32, 0, 0, 0, 1#4⟩, jb, .job, ((mk [(R.SEQ_STAT_STATE 0, seqIDLE)]).setBstore 0 [⟨0x2fff#32, 0, 0,
    0, 1#4⟩]).setJob 0 (some jb), by decide +kernel⟩

theorem wit_jobRestart : ∃ (a : Act) (j : Job) (e : BarkerWord) (s : State), ((s.seqr a).returned = some j) ∧ (s.get
    (R.SEQ_STAT_STATE a) = seqIDLE) ∧ (s.get (V.seqHeld a) = 0) ∧ (s.jobMay a j = true) ∧ (s.get (V.seqDone a) = 0) ∧
    ((s.seqr a).restarts < 8) ∧ (e = s.bword a (s.seqr a).routine) ∧ (bwParityMask e = 0) ∧ (e.q0.getLsbD 13 = true) :=
  ⟨0, { jb with kind := .write }, ⟨0x2fff#32, 0, 0, 0, 1#4⟩, ((mk [(R.SEQ_STAT_STATE 0, seqIDLE)]).setBstore 0
    [⟨0x2fff#32, 0, 0, 0, 1#4⟩]).setSeqr 0 { (State.reset.seqr 0) with returned := some { jb with kind := .write } },
    by decide +kernel⟩

theorem wit_seqMchkRecovery : ∃ (a : Act) (s : State), (s.get (R.SEQ_STAT_STATE a) = seqMCHK) ∧ (a.val < s.nact) ∧
    (s.get R.MMG_CTL_FMT_COMMIT = 1) ∧ (s.get (R.SPT_STAT_ENUM_DONE a) = 1) ∧ (s.get (V.seqOos a) = 1) :=
  ⟨0, actMk [(R.SEQ_STAT_STATE 0, seqMCHK), (R.MMG_CTL_FMT_COMMIT, 1), (R.SPT_STAT_ENUM_DONE 0, 1), (V.seqOos 0, 1)], by
    decide⟩

theorem wit_seqMchkRecovery_2 : ∃ (a : Act) (s : State), (s.get (R.SEQ_STAT_STATE a) = seqMCHK) ∧ (a.val < s.nact) ∧
    (s.get R.MMG_CTL_FMT_COMMIT = 1) ∧ (s.get (R.SPT_STAT_ENUM_DONE a) = 1) ∧ (s.get (V.seqOos a) = 0) :=
  ⟨0, actMk [(R.SEQ_STAT_STATE 0, seqMCHK), (R.MMG_CTL_FMT_COMMIT, 1), (R.SPT_STAT_ENUM_DONE 0, 1)], by decide⟩

theorem wit_seqScrubPass : ∃ (a : Act) (l : List (Fin 4096 × BarkerWord)) (b : Bool) (ad : Nat) (s u : State), (s.get
    (R.SEQ_CTL_SCRUB_EN a) = 1) ∧ (s.get (R.SEQ_STAT_STATE a) = seqIDLE) ∧ (u = s.forAll l (fun f t => t.upset a f.1
    f.2)) ∧ (ad < (Tab.at [] u.bstore a).length) ∧ (bwParityMask (u.bword a ad) ≠ 0) :=
  ⟨0, [(0, ⟨0, 0, 0, 0, 1#4⟩)], true, 0, (mk [(R.SEQ_CTL_SCRUB_EN 0, 1), (R.SEQ_STAT_STATE 0, seqIDLE)]).setBstore 0
    [b0], _, by decide +kernel, by decide +kernel, rfl, by decide +kernel⟩

/-! ### ServoCommandsComplete -/

theorem wit_servoWedge : ∃ (a : Act) (w : WedgeRead) (p : Nat) (s : State), (srvACQUIRE ≤ s.srvSt a) ∧ (s.srvSt a ≤
    srvHOLD) ∧ (samFind w.cells (s.samCentre a w) (s.samWin a) (s.get (R.SRV_SAM_SAM_HD a)) = some p) :=
  ⟨0, ⟨samCells, 77, 1, 1, 1, 1, none⟩, 0, mk [(R.SRV_STAT_STATE 0, srvFOLLOW)], by decide +kernel⟩

theorem wit_samPredicted : ∃ (a : Act) (w : WedgeRead) (s : State), (srvACQUIRE ≤ s.srvSt a) ∧ (s.srvSt a ≤ srvHOLD) :=
  ⟨0, ⟨[], 77, 1, 1, 1, 1, none⟩, mk [(R.SRV_STAT_STATE 0, srvFOLLOW)], by decide⟩

theorem wit_seekStart : ∃ (a : Act) (track : BitVec 24) (s : State), (a.val < s.nact) ∧ (s.onTrack a = true) ∧
    (s.mateHolds a = false) :=
  ⟨0, 0xFFFFFF, actMk [(R.SRV_STAT_STATE 0, srvFOLLOW)], by decide +kernel⟩

theorem wit_seekTimeout : ∃ (a : Act) (s : State), (s.srvSt a = srvSETTLE) ∧
    (s.get (R.SRV_SEEK_SEEK_TO a) ≤ s.get (V.srvSeekW a)) ∧ (s.get (V.srvSeekTry a) = 0) ∧ (s.get (V.srvSeekErr a) = 0) :=
  ⟨0, mk [(R.SRV_STAT_STATE 0, srvSETTLE), (R.SRV_SEEK_SEEK_TO 0, 100), (V.srvSeekW 0, 200)], by decide⟩

theorem wit_maStrokeMeasure : ∃ (a : Act) (m : BitVec 16) (s : State), (s.srvSt a = srvFOLLOW) ∧ (s.get (V.srvMaStep a)
    = 65) ∧ (s.get (R.SRV_HEADA_MA_GAIN a (s.get (R.SRV_STAT_HEAD a))) < 4 * Sys2Proof.Machine.dist m.toNat (s.get
    (R.SRV_HEADA_MA_GAIN a (s.get (R.SRV_STAT_HEAD a))))) :=
  ⟨0, 600, (actMk [(R.SRV_STAT_STATE 0, srvFOLLOW), (V.srvMaStep 0, 65), (R.SRV_HEADA_MA_GAIN 0 0, 400)]),
    by decide +kernel⟩

theorem wit_srvEnable : ∃ (a : Act) (s : State), (s.get (R.SRV_CTL_EN a) = 0) ∧ ((s.srvReasons a).find? (·.1) = none) :=
  ⟨0, srvMk, by decide +kernel⟩

theorem wit_srvOfsWrite : ∃ (a : Act) (v : BitVec 16) (s : State), (a.val < s.nact) ∧ (-512 ≤ v.toInt) ∧ (v.toInt ≤ 512)
    ∧ (s.get (R.SRV_STAT_WP a) = 0) :=
  ⟨0, 0xFE00, actMk [], by decide +kernel⟩

theorem wit_loadRequest : ∃ (a : Act) (s : State), (s.crlSt ≠ crlKICK) ∧ (s.crlSt ≠ crlGLIDE) ∧ (s.loadOk a = true) ∧
    (s.loadSpaced a = true) :=
  ⟨0, mk [(R.SRV_STAT_STATE 0, srvUNLOADED), (V.linkStat, 2 ^ 21), (V.crlSp05, 1)], by decide⟩

theorem wit_loadRequest_2 : ∃ (a : Act) (s : State), (s.crlSt ≠ crlKICK) ∧ (s.crlSt ≠ crlGLIDE) ∧ (s.loadOk a = true) ∧
    (s.loadSpaced a = false) :=
  ⟨0, mk [(R.SRV_STAT_STATE 0, srvUNLOADED), (V.linkStat, 2 ^ 21), (V.crlSp05, 1), (V.loadLastMs, 1),
    (V.loadLastAct, 1)], by decide⟩

theorem wit_loadDeferredStart : ∃ (a : Act) (s : State), (s.get (V.srvLoadReq a) = 1) ∧ (s.loadOk a = true) ∧
    (s.loadSpaced a = true) :=
  ⟨0, mk [(R.SRV_STAT_STATE 0, srvUNLOADED), (V.linkStat, 2 ^ 21), (V.crlSp05, 1), (V.srvLoadReq 0, 1)], by decide⟩

theorem wit_loadingOffRamp : ∃ (a : Act) (s : State), (s.srvSt a = srvLOADING) ∧ (s.get (V.srvUnlReq a) = 0) :=
  ⟨0, mk [(R.SRV_STAT_STATE 0, srvLOADING), (V.stmLoadGrant 0, 1)], by decide⟩

theorem wit_acquireTimeout : ∃ (a : Act) (s : State), (s.srvSt a = srvACQUIRE) ∧ (2 ≤ s.get (V.srvLoadFails a)) :=
  ⟨0, mk [(R.SRV_STAT_STATE 0, srvACQUIRE), (V.srvLoadFails 0, 2)], by decide⟩

theorem wit_acquireTimeout_2 : ∃ (a : Act) (s : State), (s.srvSt a = srvACQUIRE) ∧ (s.get (V.srvLoadFails a) < 2) :=
  ⟨0, mk [(R.SRV_STAT_STATE 0, srvACQUIRE), (V.srvLoadFails 0, 1)], by decide⟩

theorem wit_holdRelockTimeout : ∃ (a : Act) (s : State), (s.srvSt a = srvHOLD) :=
  ⟨0, mk [(R.SRV_STAT_STATE 0, srvHOLD)], by decide⟩

theorem wit_loadRetry : ∃ (a : Act) (s : State), (s.get (V.srvReload a) = 1) ∧ (s.crlSt ≠ crlKICK) ∧ (s.crlSt ≠
    crlGLIDE) ∧ (s.loadOk a = true) ∧ (s.loadSpaced a = true) :=
  ⟨0, mk [(R.SRV_STAT_STATE 0, srvUNLOADED), (V.linkStat, 2 ^ 21), (V.crlSp05, 1), (V.srvReload 0, 1)], by decide⟩

theorem wit_unloadRequest : ∃ (a : Act) (b : Bool) (s : State), (srvACQUIRE ≤ s.srvSt a) ∧ (s.srvSt a ≤ srvHOLD) ∧
    (s.mateHolds a = false) :=
  ⟨0, false, mk [(R.SRV_STAT_STATE 0, srvFOLLOW)], by decide⟩

theorem wit_unloadRequest_2 : ∃ (a : Act) (s : State), (s.srvSt a = srvLOADING) :=
  ⟨0, mk [(R.SRV_STAT_STATE 0, srvLOADING)], by decide⟩

/-! ### TrapezeMicrowordsComplete -/

theorem wit_trzNop : ∃ (f w : TrzWord) (s u : State), (s.trzRuns 0 f w u) ∧ (twCmt w = false) :=
  ⟨t0, ⟨0x0#32, 0x0#32, 0x0#32, 0x0#32, 0x0#32, 0x0#5⟩, trzMk ⟨0x0#32, 0x0#32, 0x0#32, 0x0#32, 0x0#32, 0x0#5⟩ [], trzMk
    ⟨0x0#32, 0x0#32, 0x0#32, 0x0#32, 0x0#32, 0x0#5⟩ [], by decide +kernel⟩

theorem wit_trzJmp : ∃ (f w : TrzWord) (s u : State), (s.trzRuns 1 f w u) ∧ (twCmt w = false) :=
  ⟨t0, ⟨0xbffe000#32, 0x0#32, 0x0#32, 0x0#32, 0x0#32, 0x0#5⟩, trzMk ⟨0xbffe000#32, 0x0#32, 0x0#32, 0x0#32, 0x0#32,
    0x0#5⟩ [], trzMk ⟨0xbffe000#32, 0x0#32, 0x0#32, 0x0#32, 0x0#32, 0x0#5⟩ [], by decide +kernel⟩

theorem wit_trzBr : ∃ (f w : TrzWord) (s u : State), (s.trzRuns 2 f w u) ∧ (twCmt w = false) ∧ ((u.put V.trzPc
    s.trzNextPc).trzCond (twCond w) = true) :=
  ⟨t0, ⟨0x13ffe000#32, 0x0#32, 0x0#32, 0x0#32, 0x0#32, 0x0#5⟩, trzMk ⟨0x13ffe000#32, 0x0#32, 0x0#32, 0x0#32, 0x0#32,
    0x0#5⟩ [], trzMk ⟨0x13ffe000#32, 0x0#32, 0x0#32, 0x0#32, 0x0#32, 0x0#5⟩ [], by decide +kernel⟩

theorem wit_trzBr_2 : ∃ (f w : TrzWord) (s u : State), (s.trzRuns 2 f w u) ∧ (twCmt w = false) ∧ ((u.put V.trzPc
    s.trzNextPc).trzCond (twCond w) = false) :=
  ⟨t0, ⟨0x13ffe200#32, 0x0#32, 0x0#32, 0x0#32, 0x0#32, 0x1#5⟩, trzMk ⟨0x13ffe200#32, 0x0#32, 0x0#32, 0x0#32, 0x0#32,
    0x1#5⟩ [], trzMk ⟨0x13ffe200#32, 0x0#32, 0x0#32, 0x0#32, 0x0#32, 0x1#5⟩ [], by decide +kernel⟩

theorem wit_trzCall : ∃ (f w : TrzWord) (s u : State), (s.trzRuns 3 f w u) ∧ (twCmt w = false) ∧ (s.tstk.length < 4) :=
  ⟨t0, ⟨0x1bffe000#32, 0x0#32, 0x0#32, 0x0#32, 0x0#32, 0x1#5⟩, trzMk ⟨0x1bffe000#32, 0x0#32, 0x0#32, 0x0#32, 0x0#32,
    0x1#5⟩ [], trzMk ⟨0x1bffe000#32, 0x0#32, 0x0#32, 0x0#32, 0x0#32, 0x1#5⟩ [], by decide +kernel⟩

theorem wit_trzRet : ∃ (f w : TrzWord) (pc : Nat) (r : List Nat) (s u : State), (s.trzRuns 4 f w u) ∧ (twCmt w = false)
    ∧ (s.tstk = pc :: r) ∧ (pc < 8192) :=
  ⟨t0, ⟨0x20000000#32, 0x0#32, 0x0#32, 0x0#32, 0x0#32, 0x1#5⟩, 8191, [],
    { trzMk ⟨0x20000000#32, 0x0#32, 0x0#32, 0x0#32, 0x0#32, 0x1#5⟩ [] with tstk := [8191] },
    { trzMk ⟨0x20000000#32, 0x0#32, 0x0#32, 0x0#32, 0x0#32, 0x1#5⟩ [] with tstk := [8191] }, by decide +kernel⟩

theorem wit_trzWait : ∃ (f w : TrzWord) (s u : State), (s.trzRuns 5 f w u) ∧ (twCmt w = false) ∧ ((u.put V.trzPc
    s.trzNextPc).trzCond (twCond w) = true) :=
  ⟨t0, ⟨0x28000c00#32, 0x0#32, 0x0#32, 0x0#32, 0x0#32, 0x0#5⟩, trzMk ⟨0x28000c00#32, 0x0#32, 0x0#32, 0x0#32, 0x0#32,
    0x0#5⟩ [(V.trzLutRdy, 1)], trzMk ⟨0x28000c00#32, 0x0#32, 0x0#32, 0x0#32, 0x0#32, 0x0#5⟩ [(V.trzLutRdy, 1)],
    by decide +kernel⟩

theorem wit_trzWait_2 : ∃ (f w : TrzWord) (s u : State), (s.trzRuns 5 f w u) ∧ (twCmt w = false) ∧ ((u.put V.trzPc
    s.trzNextPc).trzCond (twCond w) = false) :=
  ⟨t0, ⟨0x28000c00#32, 0x0#32, 0x0#32, 0x0#32, 0x0#32, 0x0#5⟩, trzMk ⟨0x28000c00#32, 0x0#32, 0x0#32, 0x0#32, 0x0#32,
    0x0#5⟩ [], trzMk ⟨0x28000c00#32, 0x0#32, 0x0#32, 0x0#32, 0x0#32, 0x0#5⟩ [], by decide +kernel⟩

theorem wit_trzLd : ∃ (f w : TrzWord) (s u : State), (s.trzRuns 6 f w u) ∧ (twCmt w = false) ∧ (128 ≤ twDst w) :=
  ⟨t0, ⟨0x30000000#32, 0x3ff#32, 0xffffffff#32, 0x0#32, 0x0#32, 0x0#5⟩, trzMk ⟨0x30000000#32, 0x3ff#32, 0xffffffff#32,
    0x0#32, 0x0#32, 0x0#5⟩ [], trzMk ⟨0x30000000#32, 0x3ff#32, 0xffffffff#32, 0x0#32, 0x0#32, 0x0#5⟩ [],
    by decide +kernel⟩

theorem wit_trzMov : ∃ (f w : TrzWord) (s u : State), (s.trzRuns 7 f w u) ∧ (twCmt w = false) ∧ (128 ≤ twDst w) :=
  ⟨t0, ⟨0x38000000#32, 0x3ff#32, 0xffffffff#32, 0x0#32, 0x0#32, 0x1#5⟩, trzMk ⟨0x38000000#32, 0x3ff#32, 0xffffffff#32,
    0x0#32, 0x0#32, 0x1#5⟩ [], trzMk ⟨0x38000000#32, 0x3ff#32, 0xffffffff#32, 0x0#32, 0x0#32, 0x1#5⟩ [],
    by decide +kernel⟩

theorem wit_trzAdd : ∃ (f w : TrzWord) (s u : State), (s.trzRuns 8 f w u) ∧ (twCmt w = false) ∧ (128 ≤ twDst w) :=
  ⟨t0, ⟨0x40000000#32, 0x3ff#32, 0xffffffff#32, 0x0#32, 0x0#32, 0x1#5⟩, trzMk ⟨0x40000000#32, 0x3ff#32, 0xffffffff#32,
    0x0#32, 0x0#32, 0x1#5⟩ [], trzMk ⟨0x40000000#32, 0x3ff#32, 0xffffffff#32, 0x0#32, 0x0#32, 0x1#5⟩ [],
    by decide +kernel⟩

theorem wit_trzSub : ∃ (f w : TrzWord) (s u : State), (s.trzRuns 9 f w u) ∧ (twCmt w = false) ∧ (128 ≤ twDst w) :=
  ⟨t0, ⟨0x48000000#32, 0x3ff#32, 0xffffffff#32, 0x0#32, 0x0#32, 0x0#5⟩, trzMk ⟨0x48000000#32, 0x3ff#32, 0xffffffff#32,
    0x0#32, 0x0#32, 0x0#5⟩ [], trzMk ⟨0x48000000#32, 0x3ff#32, 0xffffffff#32, 0x0#32, 0x0#32, 0x0#5⟩ [],
    by decide +kernel⟩

theorem wit_trzMin : ∃ (f w : TrzWord) (s u : State), (s.trzRuns 14 f w u) ∧ (twCmt w = false) ∧ (128 ≤ twDst w) :=
  ⟨t0, ⟨0x70000000#32, 0x3ff#32, 0xffffffff#32, 0x0#32, 0x0#32, 0x1#5⟩, trzMk ⟨0x70000000#32, 0x3ff#32, 0xffffffff#32,
    0x0#32, 0x0#32, 0x1#5⟩ [], trzMk ⟨0x70000000#32, 0x3ff#32, 0xffffffff#32, 0x0#32, 0x0#32, 0x1#5⟩ [],
    by decide +kernel⟩

theorem wit_trzMax : ∃ (f w : TrzWord) (s u : State), (s.trzRuns 15 f w u) ∧ (twCmt w = false) ∧ (128 ≤ twDst w) :=
  ⟨t0, ⟨0x78000000#32, 0x3ff#32, 0xffffffff#32, 0x0#32, 0x0#32, 0x0#5⟩, trzMk ⟨0x78000000#32, 0x3ff#32, 0xffffffff#32,
    0x0#32, 0x0#32, 0x0#5⟩ [], trzMk ⟨0x78000000#32, 0x3ff#32, 0xffffffff#32, 0x0#32, 0x0#32, 0x0#5⟩ [],
    by decide +kernel⟩

theorem wit_trzMul : ∃ (f w : TrzWord) (s u : State), (s.trzRuns 10 f w u) ∧ (twCmt w = false) :=
  ⟨t0, ⟨0x50000000#32, 0x0#32, 0x0#32, 0x0#32, 0x0#32, 0x0#5⟩, trzMk ⟨0x50000000#32, 0x0#32, 0x0#32, 0x0#32, 0x0#32,
    0x0#5⟩ [], trzMk ⟨0x50000000#32, 0x0#32, 0x0#32, 0x0#32, 0x0#32, 0x0#5⟩ [], by decide +kernel⟩

theorem wit_trzMac : ∃ (f w : TrzWord) (s u : State), (s.trzRuns 11 f w u) ∧ (twCmt w = false) :=
  ⟨t0, ⟨0x58000000#32, 0x0#32, 0x0#32, 0x0#32, 0x0#32, 0x1#5⟩, trzMk ⟨0x58000000#32, 0x0#32, 0x0#32, 0x0#32, 0x0#32,
    0x1#5⟩ [], trzMk ⟨0x58000000#32, 0x0#32, 0x0#32, 0x0#32, 0x0#32, 0x1#5⟩ [], by decide +kernel⟩

theorem wit_trzAccout : ∃ (f w : TrzWord) (s u : State), (s.trzRuns 12 f w u) ∧ (twCmt w = false) ∧ (128 ≤ twDst w) ∧
    (w.s4.getLsbD 6 = true) :=
  ⟨t0, ⟨0x60000000#32, 0x3ff#32, 0x0#32, 0x0#32, 0xff#32, 0x0#5⟩, trzMk ⟨0x60000000#32, 0x3ff#32, 0x0#32, 0x0#32,
    0xff#32, 0x0#5⟩ [], trzMk ⟨0x60000000#32, 0x3ff#32, 0x0#32, 0x0#32, 0xff#32, 0x0#5⟩ [], by decide +kernel⟩

theorem wit_trzAccout_2 : ∃ (f w : TrzWord) (s u : State), (s.trzRuns 12 f w u) ∧ (twCmt w = false) ∧ (128 ≤ twDst w) ∧
    (w.s4.getLsbD 6 = false) :=
  ⟨t0, ⟨0x60000000#32, 0x3ff#32, 0x0#32, 0x0#32, 0xbf#32, 0x10#5⟩, trzMk ⟨0x60000000#32, 0x3ff#32, 0x0#32, 0x0#32,
    0xbf#32, 0x10#5⟩ [], trzMk ⟨0x60000000#32, 0x3ff#32, 0x0#32, 0x0#32, 0xbf#32, 0x10#5⟩ [], by decide +kernel⟩

theorem wit_trzClracc : ∃ (f w : TrzWord) (s u : State), (s.trzRuns 13 f w u) ∧ (twCmt w = false) :=
  ⟨t0, ⟨0x68000000#32, 0x0#32, 0x0#32, 0x0#32, 0x0#32, 0x1#5⟩, trzMk ⟨0x68000000#32, 0x0#32, 0x0#32, 0x0#32, 0x0#32,
    0x1#5⟩ [], trzMk ⟨0x68000000#32, 0x0#32, 0x0#32, 0x0#32, 0x0#32, 0x1#5⟩ [], by decide +kernel⟩

theorem wit_trzLut : ∃ (f w : TrzWord) (s u : State), (s.trzRuns 16 f w u) ∧ (twCmt w = false) :=
  ⟨t0, ⟨0x80000000#32, 0x5#32, 0x0#32, 0x0#32, 0x0#32, 0x1#5⟩, trzMk ⟨0x80000000#32, 0x5#32, 0x0#32, 0x0#32, 0x0#32,
    0x1#5⟩ [], trzMk ⟨0x80000000#32, 0x5#32, 0x0#32, 0x0#32, 0x0#32, 0x1#5⟩ [], by decide +kernel⟩

theorem wit_trzCmp : ∃ (f w : TrzWord) (s u : State), (s.trzRuns 17 f w u) ∧ (twCmt w = false) :=
  ⟨t0, ⟨0x88000000#32, 0x0#32, 0x0#32, 0x0#32, 0x0#32, 0x0#5⟩, trzMk ⟨0x88000000#32, 0x0#32, 0x0#32, 0x0#32, 0x0#32,
    0x0#5⟩ [], trzMk ⟨0x88000000#32, 0x0#32, 0x0#32, 0x0#32, 0x0#32, 0x0#5⟩ [], by decide +kernel⟩

theorem wit_trzEnd : ∃ (f w : TrzWord) (s u : State), (s.trzRuns 18 f w u) ∧ (twCmt w = false) :=
  ⟨t0, ⟨0x90000000#32, 0x0#32, 0x0#32, 0x0#32, 0x0#32, 0x0#5⟩, trzMk ⟨0x90000000#32, 0x0#32, 0x0#32, 0x0#32, 0x0#32,
    0x0#5⟩ [], trzMk ⟨0x90000000#32, 0x0#32, 0x0#32, 0x0#32, 0x0#32, 0x0#5⟩ [], by decide +kernel⟩

/-! ### TrapezeLoopCommandsComplete -/

theorem wit_trzWaitMet : ∃ (s : State), (s.get V.trzWait = 1) ∧ (s.trzCond (s.get V.trzWaitC) = true) :=
  ⟨mk [(V.trzWait, 1)], by decide⟩

theorem wit_trzWaitTimeout : ∃ (s : State), (s.get V.trzWait = 1) ∧ (s.trzCond (s.get V.trzWaitC) = false) ∧ (s.get
    V.trzWaitTo = 1) ∧ (s.get V.trzWaitBr = 1) :=
  ⟨mk [(V.trzWait, 1), (V.trzWaitC, 6), (V.trzWaitTo, 1), (V.trzWaitBr, 1), (V.trzWaitTgt, 8191)], by decide⟩

theorem wit_lutReady : ∃ (s : State), (s.get V.trzLutBusy = 1) :=
  ⟨mk [(V.trzLutBusy, 1)], by decide⟩

theorem wit_loopDispatch : ∃ (n : Nat) (s : State), (s.get R.TRZ_STAT_STATE = trzRUN) ∧ (s.get R.TRZ_STAT_BUSY = 0) ∧
    (s.lpNext = some n) ∧ (n < 64) :=
  ⟨63, loopMk, by decide +kernel⟩

theorem wit_loopDispatch_2 : ∃ (n : Nat) (s : State), (s.get R.TRZ_STAT_STATE = trzRUN) ∧ (s.get R.TRZ_STAT_BUSY = 0) ∧
    (s.lpNext = some n) ∧ (n < 64) ∧ (s.lpOut n < 18) :=
  ⟨63, loopMk, by decide +kernel⟩

theorem wit_loopDeadlineMiss : ∃ (n : Fin 64) (s : State), (s.get R.TRZ_STAT_STATE = trzRUN) ∧ ((s.loop n).due.isSome =
    true) ∧ (s.lpActive n = true) ∧ ((s.loop n).misses + 1 ≠ s.ldsc n 0x10 1 / 16) :=
  ⟨63, loopMk, by decide +kernel⟩

theorem wit_trzScrubError : ∃ (ad : Fin 8192) (f : TrzWord) (s : State), (s.get R.TRZ_STAT_STATE = trzRUN) ∧ (s.get
    R.TRZ_CTL_SCRUB_EN = 1) ∧ (twParityMask ((s.trzUpset ad f).tword ad) ≠ 0) ∧ (ad.val ∉ s.tscrub) :=
  ⟨0, ⟨0, 0, 0, 0, 0, 1#5⟩, { mk [(R.TRZ_STAT_STATE, trzRUN), (R.TRZ_CTL_SCRUB_EN, 1)] with cstore := [t0] },
    by decide +kernel⟩

theorem wit_trzScrubRewriteDone : ∃ (k : Nat) (l : List Nat) (s : State), (s.tscrub = k :: l) :=
  ⟨3, [7], { mk [] with tscrub := [3, 7] }, by decide⟩

theorem wit_trzEnable : ∃ (p : Bool) (s : State), (s.get R.TRZ_CTL_EN = 0) ∧ ((s.trzFill.trzReasons p).find? (·.1) =
    none) :=
  ⟨true, mk [(R.TRZ_LRN_LRN_SH, 3)], by decide +kernel,
    (by unfold State.trzFill State.imageRead; rw [partRead_off _ _ _ _ _ rfl (by decide +kernel) (by decide +kernel)]; decide +kernel)⟩

theorem wit_trzMchkReload : ∃ (p : Bool) (s : State), (s.get R.TRZ_STAT_STATE = trzMCHK) ∧
    ((s.trzDisable.trzFill.trzReasons p).find? (·.1) = none) :=
  ⟨true, mk [(R.TRZ_STAT_STATE, trzMCHK)], by decide +kernel,
    (by unfold State.trzFill State.imageRead; rw [partRead_off _ _ _ _ _ rfl (by decide +kernel) (by decide +kernel)]; decide +kernel)⟩

theorem wit_trzMchkReload_2 : ∃ (p : Bool) (s : State), (s.get R.TRZ_STAT_STATE = trzOUT) ∧ (s.get V.trzOos = 1) ∧
    ((s.trzDisable.trzFill.trzReasons p).find? (·.1) = some (true, 0x0F0A)) :=
  ⟨true, mk [(R.TRZ_STAT_STATE, trzOUT), (V.trzOos, 1)], by decide +kernel, by decide +kernel,
    (by unfold State.trzFill State.imageRead; rw [partRead_off _ _ _ _ _ rfl (by decide +kernel) (by decide +kernel)]; decide +kernel)⟩

/-! ### SpindleCommandsComplete -/

theorem wit_crlEnable : ∃ (ok : Bool) (s : State), (s.get R.CRL_CTL_EN = 0) ∧ ((s.crlReasons ok).find? (·.1) = none) :=
  ⟨true, crlMk, by decide +kernel⟩

theorem wit_pwmPeriod : ∃ (o : PwmObs) (s : State), (s.crlSt ≠ crlOFF) :=
  ⟨⟨0, none, none, 0⟩, mk [(R.CRL_STAT_STATE, crlDRIVE)], by decide⟩

theorem wit_sensePulse : ∃ (p : BitVec 16) (s : State), (s.crlSt = crlSENSE) ∧ (s.get V.crlPulse < 5) :=
  ⟨0xFFFF, mk [(R.CRL_STAT_STATE, crlSENSE), (V.crlPulse, 4)], by decide⟩

theorem wit_sensePulse_2 : ∃ (p : BitVec 16) (s : State), (s.crlSt = crlSENSE) ∧ (s.get V.crlPulse = 5) :=
  ⟨0xFFFF, mk [(R.CRL_STAT_STATE, crlSENSE), (V.crlPulse, 5)], by decide⟩

theorem wit_alignEnd : ∃ (s : State), (s.crlSt = crlALIGN) :=
  ⟨mk [(R.CRL_STAT_STATE, crlALIGN)], by decide⟩

theorem wit_startAttemptFail : ∃ (top : Nat) (s : State), (s.crlSt = crlRAMP) :=
  ⟨0, mk [(R.CRL_STAT_STATE, crlRAMP)], by decide⟩

theorem wit_zeroCrossing : ∃ (i : Nat) (q : Fin 6) (s : State), (s.crlSt = crlSHORT) :=
  ⟨0, 0, mk [(R.CRL_STAT_STATE, crlSHORT)], by decide⟩

theorem wit_zeroCrossing_2 : ∃ (i : Nat) (q : Fin 6) (s : State), (s.crlSt = crlCATCH) ∧ (s.get V.crlZc = 11) ∧ (q.val =
    (s.get V.crlZcSec + 1) % 6) ∧ (9 * s.get V.crlZcLast ≤ 10 * i) ∧ (10 * i ≤ 11 * s.get V.crlZcLast) :=
  ⟨11, 1, mk [(R.CRL_STAT_STATE, crlCATCH), (V.crlZc, 11), (V.crlZcLast, 10)], by decide⟩

theorem wit_catchTimeout : ∃ (p : BitVec 16) (s : State), (s.crlSt = crlCATCH) ∧ (s.peakSpeed p.toNat < 1500000) :=
  ⟨0, mk [(R.CRL_STAT_STATE, crlCATCH)], by decide⟩

theorem wit_catchRetry : ∃ (p : BitVec 16) (s : State), (s.crlSt = crlCOAST) ∧ (s.get V.crlWantCatch = 1) ∧ (s.get
    V.crlOvWait = 0) ∧ (1500000 ≤ s.peakSpeed p.toNat) ∧ (s.get V.crlCatchDown = 0) ∧ (s.grantSeen = true) :=
  ⟨0xFFFF, mk [(R.CRL_STAT_STATE, crlCOAST), (V.crlWantCatch, 1), (V.linkStat, 2 ^ 20)], by decide⟩

theorem wit_setpointApply : ∃ (n : Nat) (s : State), (s.get V.crlSpWait = 1) ∧ (s.get V.crlSpNext = n) ∧
    (s.spHeld n = false) ∧ (s.crlSt = crlDRIVE) ∧ (s.get V.crlSp01 = 0) ∧ (n ≠ 0) ∧ (n < 4) :=
  ⟨3, mk [(R.CRL_STAT_STATE, crlDRIVE), (V.crlSpWait, 1), (V.crlSpNext, 3)], by decide⟩

theorem wit_ovRecovery : ∃ (s : State), (s.crlSt = crlCOAST) ∧ (s.get V.crlOvWait = 1) :=
  ⟨mk [(R.CRL_STAT_STATE, crlCOAST), (V.crlOvWait, 1)], by decide⟩

/-! ### LinkAndSupplyCommandsComplete -/

theorem wit_dieLinkFrame : ∃ (s : State), (s.get V.hbTx ≠ s.get V.stmHbRx) :=
  ⟨mk [(V.hbTx, 1)], by decide⟩

theorem wit_dieLinkFrame_2 : ∃ (s : State), (bitOf (s.get V.reqSlot) 0 = true) ∧ (s.startOk = true) ∧ (s.get V.stmPl =
    0) ∧ (s.get V.stmPlReq = 0) :=
  ⟨grantMk.put V.reqSlot 1, by decide⟩

theorem wit_heartbeatMiss : ∃ (s : State), (s.get V.stmHbMiss < 2) :=
  ⟨mk [(V.stmHbMiss, 1), (R.STM_STAT_HB_OK, 1)], by decide⟩

theorem wit_heartbeatMiss_2 : ∃ (s : State), (s.get V.stmHbMiss = 2) ∧ (s.get R.STM_STAT_AUTON = 0) ∧ (s.get
    R.STM_STAT_SM_ACTIVE = 0) ∧ (s.get V.stmSpin = 1) ∧ (s.get V.stmPl = 0) :=
  ⟨mk [(V.stmHbMiss, 2), (V.stmSpin, 1)], by decide⟩

theorem wit_heartbeatMiss_3 : ∃ (s : State), (s.get V.hbMiss < 2) :=
  ⟨mk [(V.hbMiss, 1)], by decide⟩

theorem wit_chopperFail : ∃ (c : Nat) (s : State), (s.get R.STM_STAT_CHOP_ON = 1) ∧ (c < 200) :=
  ⟨199, mk [(R.STM_STAT_CHOP_ON, 1)], by decide⟩

theorem wit_smOvervoltage : ∃ (s : State), (s.get V.stmOv = 0) :=
  ⟨mk [], by decide⟩

theorem wit_windingMeasureGo : ∃ (k : Fin 4) (a : Act) (s : State), (k.val ≠ 0) ∧ (s.get V.stmMeasBusy = 0) ∧
    (s.measCond k a = true) :=
  ⟨3, 3, mk [], by decide⟩

theorem wit_windingMeasureDone : ∃ (v : Nat) (s : State), (s.get V.stmMeasBusy = 1) ∧ (s.get V.stmMeasK = 1) ∧
    (500 ≤ v) ∧ (v ≤ 20000) :=
  ⟨20000, mk [(V.stmMeasBusy, 1), (V.stmMeasK, 1)], by decide⟩

theorem wit_windingMeasureDone_2 : ∃ (v : Nat) (s : State), (s.get V.stmMeasBusy = 1) ∧ (s.get V.stmMeasK = 1) ∧
    (20000 < v) :=
  ⟨20001, mk [(V.stmMeasBusy, 1), (V.stmMeasK, 1)], by decide⟩

theorem wit_stmEnable : ∃ (p : Nat) (s : State), (s.get R.STM_CTL_EN = 0) ∧ ((s.stmReasons p).find? (·.1) = none) :=
  ⟨200, stmMk, by decide +kernel⟩

/-! ### RetractAndGrantCommandsComplete -/

theorem wit_vcmTripReopen : ∃ (a : Act) (s : State), (s.get (V.stmVcmTrip a) = 1) ∧ (bitOf (s.get R.STM_STAT_RETRACT) a
    = false) ∧ (s.get (V.stmLoaded a) = 1) ∧ (s.get V.stmTaken = 1) ∧ (bitOf (s.get R.STM_STAT_VCM_OFF) a = false) ∧
    (s.get R.STM_STAT_SM_ACTIVE = 0) :=
  ⟨0, mk [(V.stmVcmTrip 0, 1), (V.stmLoaded 0, 1), (V.stmTaken, 1)], by decide⟩

theorem wit_vcmTripReopen_2 : ∃ (a : Act) (s : State), (s.get (V.stmVcmTrip a) = 1) ∧
    (bitOf (s.get R.STM_STAT_RETRACT) a = true) ∧ (s.get (V.stmRetPark a) = 1) :=
  ⟨0, mk [(V.stmVcmTrip 0, 1), (R.STM_STAT_RETRACT, 1), (V.stmRetPark 0, 1)], by decide⟩

theorem wit_stopWireAssert : ∃ (c : Fin 5) (s : State), (bitOf (s.get V.stopWire) c = false) :=
  ⟨4, mk [], by decide⟩

theorem wit_retractParked : ∃ (a : Act) (s : State), (s.get (V.stmRetPh a) = 1) ∧ (s.get (V.stmParkN a) = 1000) :=
  ⟨0, mk [(V.stmRetPh 0, 1), (V.stmParkN 0, 1000)], by decide⟩

theorem wit_retractParkHoldEnd : ∃ (a : Act) (s : State), (s.get (V.stmRetPh a) = 2) :=
  ⟨0, mk [(V.stmRetPh 0, 2)], by decide⟩

theorem wit_retractTimeout : ∃ (a : Act) (s : State), (s.get (V.stmRetPh a) = 1) :=
  ⟨0, mk [(V.stmRetPh 0, 1)], by decide⟩

theorem wit_retractPushEnd : ∃ (a : Act) (s : State), (s.get (V.stmRetPh a) = 3) :=
  ⟨0, mk [(V.stmRetPh 0, 3)], by decide⟩

theorem wit_startRequest : ∃ (s : State), (s.crlSt = crlSTOPPED ∨ s.crlSt = crlCATCH ∨ s.crlSt = crlCOAST) :=
  ⟨mk [(R.CRL_STAT_STATE, crlCOAST)], by decide⟩

theorem wit_startRequest_2 : ∃ (a : Act) (s : State), (s.get (V.measFresh a) = 1) :=
  ⟨0, mk [(V.measFresh 0, 1)], by decide⟩

theorem wit_startRequest_3 : ∃ (a : Act) (s : State), (s.get (V.measFresh a) = 0) ∧ (s.get (V.stmLoaded a) = 0) :=
  ⟨0, mk [], by decide⟩

theorem wit_autonomousBrake : ∃ (s : State), (s.get V.stmSeq = 1) ∧ (s.get R.STM_STAT_SM_ACTIVE = 0) ∧ (s.get V.stmPl =
    0) :=
  ⟨mk [(V.stmSeq, 1)], by decide⟩

theorem wit_stmResume : ∃ (s : State), (s.get R.STM_STAT_AUTON = 1) ∧ (s.get V.stmSeq = 0) ∧
    (s.get R.STM_STAT_RETRACT = 0) ∧ (s.get V.stmHbGood = 16) :=
  ⟨mk [(R.STM_STAT_AUTON, 1), (V.stmHbGood, 16)], by decide⟩

theorem wit_safetyMonitorTakeover : ∃ (n : Nat) (s : State), (s.get R.STM_STAT_SM_ACTIVE = 0) :=
  ⟨0, mk [], by decide⟩

theorem wit_safetyMonitorPushEnd : ∃ (s : State), (s.get V.smPush = 1) :=
  ⟨mk [(V.smPush, 1)], by decide⟩

theorem wit_autonomousSequenceEnd : ∃ (s : State), (s.get V.stmSeq = 2) :=
  ⟨mk [(V.stmSeq, 2)], by decide⟩

/-! ### MediaManagementCommandsComplete -/

theorem wit_mmgEnable : ∃ (s : State), (s.get R.MMG_CTL_EN = 0) ∧ (s.get R.MMG_CTL_FMT_COMMIT = 1) ∧
    (((List.range 4).any fun a => s.on (V.mmgSysBad a)) = false) ∧ (s.mmgCfgOk = true) :=
  ⟨mk [(R.MMG_CTL_FMT_COMMIT, 1), (R.MMG_CFG_RECL_SHARE, 20), (R.MMG_CFG_SPARE_THR, 10)], by decide⟩

theorem wit_fmtCommit : ∃ (s : State), (s.get R.MMG_CTL_FMT_COMMIT = 0) ∧ (s.fmtReasons.find? (·.1) = none) :=
  ⟨fmtMk, by decide +kernel⟩

theorem wit_durableTimer : ∃ (s : State), (s.get R.MMG_CFG_DUR_MS ≠ 0) ∧ (s.get R.MMG_CTL_EN = 1) :=
  ⟨mk [(R.MMG_CFG_DUR_MS, 100), (R.MMG_CTL_EN, 1)], by decide⟩

theorem wit_alterationDemand : ∃ (h : GHead) (z : RZone) (dc : Fin 6) (hr : BitVec 32) (s : State),
    (s.get R.MMG_CTL_ALT_EN = 0) :=
  ⟨0, 0, 1, 0, (mk []).put R.MMG_CTL_ALT_EN 0, by decide⟩

theorem wit_alterationDemand_2 : ∃ (h : GHead) (z : RZone) (dc : Fin 6) (hr : BitVec 32) (p : Nat × Nat) (s : State),
    (s.get R.MMG_CTL_ALT_EN = 1) ∧ (s.bands = []) ∧
    ((s.allZones.filter fun q => (s.zone q.1 q.2).bands.any (fun id => decide (id / 1048576 = h.val ∧
    (s.band id).zone = z.val ∧ (s.band id).dcls = dc.val - 1)) && decide ((s.zone q.1 q.2).st ≠ zOff)) = [p]) ∧
    ((s.zone p.1 p.2).st ≠ zEmpty) :=
  ⟨0, 0, 1, 72, (1, 0), riskMk, by decide +kernel⟩

theorem wit_relayStep : ∃ (a : Act) (bad : List Nat) (o : MOp) (s : State), (s.opOn a 2 = some o) ∧ (s.mediaMay a true =
    true) ∧ (s.get R.MMG_CTL_ALT_EN = 1) ∧ (o.step = 1) :=
  ⟨0, [], ⟨7, 2, 0, 1, 0, 0, 0, 0, 1, 0, 0, 0, false, []⟩,
    { (mk []).put R.MMG_CTL_ALT_EN 1 with mops := [⟨7, 2, 0, 1, 0, 0, 0, 0, 1, 0, 0, 0, false, []⟩] }, by decide⟩

theorem wit_reclaimStep : ∃ (a : Act) (o : MOp) (s : State), (s.opOn a 1 = some o) ∧ (s.mediaMay a true = true) ∧ (s.get
    R.MMG_CTL_RECL_EN = 1) ∧ (s.reclMay o = true) ∧ (s.headNoWr a (s.localHead (o.dst / 1048576)) = false) ∧ (o.step =
    1) :=
  ⟨0, ⟨7, 1, 0, 1, 0, 0, 0, 0, 1, 0, 0, 0, false, []⟩,
    { (mk []).put R.MMG_CTL_RECL_EN 1 with mops := [⟨7, 1, 0, 1, 0, 0, 0, 0, 1, 0, 0, 0, false, []⟩] }, by decide⟩

theorem wit_overwriteStep : ∃ (a : Act) (o : MOp) (s : State), (s.opOn a 3 = some o) ∧ (s.mediaMay a true = true) ∧
    (((o.todo.drop o.copied).all fun u => !bitOf (s.get (R.SPT_HDWP_WP a)) (s.unitHead u)) = true) ∧ (o.copied + 16 <
    o.todo.length) ∧ (o.nsid = 0) :=
  ⟨0, ⟨7, 3, 0, 1, 0, 0, 0, 0, 1, 0, 17, 0, false, List.replicate 17 (0, 0)⟩,
    { mk [] with mops := [⟨7, 3, 0, 1, 0, 0, 0, 0, 1, 0, 17, 0, false, List.replicate 17 (0, 0)⟩] }, by decide +kernel⟩

/-! ### FlashAndWatchdogCommandsComplete -/

theorem wit_flashRead : ∃ (ad : BitVec 32) (n : BitVec 16) (r : Nat) (s : State), (ad.toNat < 268435456) ∧ (ad.toNat +
    n.toNat ≤ 268435456) ∧ (s.bankOps (ad.toNat / 67108864) = []) ∧ (bitOf (s.get R.CVN_STAT_PWR_EN) 0 = true) :=
  ⟨0x0FFFFFFF, 1, 0, mk [(R.CVN_STAT_PWR_EN, 1)], by decide +kernel⟩

theorem wit_flashProgram : ∃ (ad : BitVec 32) (d : List Byte) (r : Nat) (s : State), (ad.toNat < 268435456) ∧ (s.bankOps
    (ad.toNat / 67108864) = []) ∧ (bitOf (s.get R.WDB_CTL_HOLD) (ad.toNat / 67108864) = false) ∧ (bitOf (s.get
    R.CVN_STAT_PWR_EN) 0 = true) :=
  ⟨0x0FFFFFFF, [1, 2], 0, mk [(R.CVN_STAT_PWR_EN, 1)], by decide +kernel⟩

theorem wit_flashErase : ∃ (g : BitVec 16) (s : State), (g.toNat < 4096) ∧ (s.bankOps (g.toNat / 1024) = []) ∧ (bitOf
    (s.get R.WDB_CTL_HOLD) (g.toNat / 1024) = false) ∧ (bitOf (s.get R.CVN_STAT_PWR_EN) 0 = true) :=
  ⟨4095, mk [(R.CVN_STAT_PWR_EN, 1)], by decide +kernel⟩

theorem wit_flashProgramDone : ∃ (b : Fin 4) (o : FlashOp) (l : List FlashOp) (s : State), (s.bankOps b = o :: l) ∧
    (o.erase = false) ∧ (o.susp = false) :=
  ⟨3, ⟨false, 3072, 0x0C000000, [0xFF], false, 0⟩, [], (mk []).setOps 3 [⟨false, 3072, 0x0C000000, [0xFF], false, 0⟩], by decide⟩

theorem wit_flashEraseDone : ∃ (b : Fin 4) (o : FlashOp) (l : List FlashOp) (s : State), (s.bankOps b = o :: l) ∧
    (o.erase = true) ∧ (o.susp = false) :=
  ⟨3, ⟨true, 3072, 0x0C000000, [], false, 0⟩, [], (mk []).setOps 3 [⟨true, 3072, 0x0C000000, [], false, 0⟩], by decide⟩

theorem wit_flashSuspendDue : ∃ (b : Fin 4) (o : FlashOp) (ops : List FlashOp) (a n : Nat) (l : List FlashReq) (s : State),
    (s.bankOps b = o :: ops) ∧ (s.bankWait b = .read a n :: l) ∧ (o.susp = false) ∧ (s.get R.WDB_CTL_AUTO_SUSP = 1) :=
  ⟨3, ⟨true, 3072, 0x0C000000, [], false, 0⟩, [], 0, 4, [], (((mk []).put R.WDB_CTL_AUTO_SUSP 1).setOps 3 [⟨true, 3072, 0x0C000000, [], false, 0⟩]).setWait 3 [.read 0 4], by decide⟩

theorem wit_downloadSessionTimeout : ∃ (s : State), (s.get V.fwOpen = 1) :=
  ⟨mk [(V.fwOpen, 1)], by decide⟩

theorem wit_sntEnable : ∃ (s : State), (s.get R.SNT_CTL_EN = 0) ∧ (5 ≤ s.get R.SNT_CFG_T1) ∧ (s.get R.SNT_CFG_T1 ≤ 600) :=
  ⟨mk [(R.SNT_CFG_T1, 600)], by decide⟩

theorem wit_sntKick : ∃ (s : State), (s.get R.SNT_STAT_STAGE ≠ 0) ∧ (s.get R.SNT_CFG_T1 ≤ 600) :=
  ⟨mk [(R.SNT_STAT_STAGE, 2)], by decide⟩

theorem wit_sntKick_2 : ∃ (v : BitVec 16) (s : State), (v ≠ 0xC35A#16) :=
  ⟨0, mk [], by decide⟩

theorem wit_stage1 : ∃ (c : BitVec 8) (s : State), (s.get R.SNT_STAT_STAGE = 1) :=
  ⟨0, mk [(R.SNT_STAT_STAGE, 1)], by decide⟩

/-! ### CalliopeCommandsComplete -/

theorem wit_casgusSend : ∃ (id : CmdId) (raw : List Byte) (n : Nat) (s : State), (s.takes id [] 0 = true) ∧
    (s.mbOf id.cntlid = some n) ∧ (s.accStatus (some n) 65536 raw = 0) :=
  ⟨cid1, reqOf 256 0 5 [], 10, hostMk [(V.fwUp, 1), (R.TKB_MB_OWNER 10, 3), (R.TKB_MB_ID 10, 1)], by decide +kernel⟩

theorem wit_casgusSend_2 : ∃ (id : CmdId) (raw : List Byte) (n : Nat) (s : State), (s.takes id [] 0 = true) ∧
    (s.mbOf id.cntlid = none) ∧ (s.mbFree = some n) ∧ (s.accStatus (some n) 65536 raw = 0) :=
  ⟨cid1, reqOf 256 0 5 [], 10, hostMk [(V.fwUp, 1)], by decide +kernel⟩

theorem wit_casgusReceive : ∃ (id : CmdId) (len limit : BitVec 32) (w : Bool) (s : State), (s.takes id [] 0 = true) ∧
    (64 ≤ len.toNat) ∧ (limit.toNat ≤ 60000) ∧ (s.held = []) ∧ (s.takeFor id.cntlid len.toNat = none) ∧ (w = false) :=
  ⟨cid1, 64, 0, false, hostMk [], by decide +kernel⟩

theorem wit_casgusReceive_2 : ∃ (id : CmdId) (len limit : BitVec 32) (w : Bool) (n : Nat) (r : Req) (s : State),
    (s.takes id [] 0 = true) ∧ (64 ≤ len.toNat) ∧ (limit.toNat ≤ 60000) ∧ (s.held = []) ∧
    (s.mbOf id.cntlid = some n) ∧ (s.firstReady n = some r) ∧ (r.bytes.length ≤ len.toNat) :=
  ⟨cid1, 64, 0, false, 10, rdy, { hostMk [(R.TKB_MB_OWNER 10, 3), (R.TKB_MB_ID 10, 1)] with reqs := [rdy] }, by decide +kernel⟩

theorem wit_receiveWaitExpiry : ∃ (id : CmdId) (x : Ctrl) (b : Nat) (s : State), (s.held = [(id.cntlid, (id, b))]) ∧
    (s.ctrl id.cntlid = some x) ∧ (x.lostq.contains id.qid = false) :=
  ⟨cid1, ctl, 64, { hostMk [] with held := [(1, (cid1, 64))] }, by decide +kernel⟩

theorem wit_nvmeMiRequest : ∃ (raw : List Byte) (s : State), (s.accStatus (some 9) 4096 raw = 0) :=
  ⟨reqOf 256 0 5 [], mk [(V.fwUp, 1), (R.TKB_MB_OWNER 9, 2)], by decide +kernel⟩

theorem wit_nvmeMiReceive : ∃ (len : BitVec 32) (s : State), (s.takeReady 9 len.toNat = none) :=
  ⟨64, mk [], by decide⟩

theorem wit_nvmeMiReceive_2 : ∃ (len : BitVec 32) (r : Req) (s : State), (s.firstReady 9 = some r) ∧
    (r.bytes.length ≤ len.toNat) :=
  ⟨64, rdy9, { mk [] with reqs := [rdy9] }, by decide +kernel⟩

theorem wit_requestStart : ∃ (rq : ReqId) (r : Req) (s : State), (s.reqs = [r]) ∧ (r.mb = rq.mb.val ∧
    r.tag = rq.tag.toNat ∧ r.run = false) ∧ (bitOf r.flags 1 = false) ∧ (s.needsToken r = false) ∧
    (r.op ∈ casgusOps) ∧ (s.get V.fwUp = 1) :=
  ⟨⟨10, 5⟩, { rdy with run := false, done := false, ready := none }, { mk [(V.fwUp, 1)] with reqs := [{ rdy with run := false, done := false, ready := none }] }, by decide +kernel⟩

theorem wit_requestTimeout : ∃ (rq : ReqId) (r : Req) (s : State), (s.reqs = [r]) ∧ (r.mb = rq.mb.val ∧
    r.tag = rq.tag.toNat ∧ r.run = true ∧ r.ready = none ∧ r.done = false) :=
  ⟨⟨10, 5⟩, { rdy with run := true, done := false, ready := none }, { mk [(V.fwUp, 1)] with reqs := [{ rdy with run := true, done := false, ready := none }] }, by decide +kernel⟩

theorem wit_sourceEdge : ∃ (i : Nat) (l : List Nat) (s : State), (s.edges = i :: l) ∧ (s.get (R.CLP_SRC_EN i) = 0) :=
  ⟨3, [], { mk [] with edges := [3] }, by decide⟩

theorem wit_sourceEdge_2 : ∃ (i : Nat) (l : List Nat) (s : State), (s.edges = i :: l) ∧
    (s.get (R.CLP_SRC_EN i) = 1) ∧ (s.get (R.CLP_SRC_AGENT i) < 64) ∧ (s.get (R.CLP_SRC_BIT i) < 64) ∧
    (s.bankSt (s.get (R.CLP_SRC_AGENT i)) (s.get (R.CLP_SRC_BIT i)) = 2) :=
  ⟨3, [], { mk [(R.CLP_SRC_EN 3, 1), (R.CLP_SRC_AGENT 3, 12), (R.CLP_SRC_BIT 3, 9), (R.CLP_ACT_LO_ACT 12, 512)] with edges := [3] }, by decide +kernel⟩

theorem wit_clpSrcWrite : ∃ (src : Fin 512) (v : BitVec 32) (hw : Bool) (s : State), (8 ≤ v.toNat / 256 % 64) ∧ (bitOf
    v.toNat 16 = false) ∧ (bitOf v.toNat 18 = false) ∧ (s.bankSt (s.get (R.CLP_SRC_AGENT src)) (s.get (R.CLP_SRC_BIT
    src)) = 0) :=
  ⟨3, 0x0905, true, mk [], by decide +kernel⟩

theorem wit_clpClaimWrite : ∃ (n : Fin 64) (i : Fin 32) (s : State), (s.bankSt n i = 1) :=
  ⟨12, 9, mk [(R.CLP_PEND_LO_PEND 12, 512)], by decide +kernel⟩

theorem wit_clpDoneWrite : ∃ (n : Fin 64) (i : Fin 32) (s : State), (s.bankSt n i = 2) ∧ (s.srcOf n i = none) :=
  ⟨12, 9, mk [(R.CLP_ACT_LO_ACT 12, 512)], by decide +kernel⟩

/-! ### MemoryCommandsComplete -/

theorem wit_hbmTrainingDone : ∃ (k : Fin 2) (c : BitVec 8) (s : State), (s.get (R.HBM_STAT_TRAINED k) = 0) ∧
    (s.get (R.HBM_STAT_OFF k) = 0) :=
  ⟨0, 0, (mk []).put (R.HBM_STAT_OFF 0) 0, by decide⟩

theorem wit_hbmTrainingDone_2 : ∃ (k : Fin 2) (c : BitVec 8) (s : State), (s.get (R.HBM_STAT_TRAINED k) = 0) ∧
    (s.get (R.HBM_STAT_OFF k) = 0) ∧ (s.get (V.hbmTry k) < 3) :=
  ⟨0, 0, (mk []).put (R.HBM_STAT_OFF 0) 0, by decide⟩

theorem wit_hbmRateSwitchDone : ∃ (s : State), (s.get V.hbmSw = 1) :=
  ⟨mk [(V.hbmSw, 1)], by decide⟩

theorem wit_hbmPatrolScrub : ∃ (k : Fin 2) (s : State), (s.get (R.HBM_CTL_SCRUB_EN k) = 1) ∧
    (s.get (R.HBM_STAT_OFF k) = 0) ∧ (s.get (V.hbmPos k) + 1 < 268435456) :=
  ⟨0, mk [(R.HBM_CTL_SCRUB_EN 0, 1), (R.HBM_STAT_OFF 0, 0)], by decide⟩

theorem wit_pocketUncorrectable : ∃ (a : Fin 32768) (b : Fin 16) (l : Line) (s : State), (s.pline a b = some l) ∧
    (l.dirty = true) :=
  ⟨0, 0, ⟨0, true, List.replicate 128 0⟩, { mk [] with pkt := [(0, some ⟨0, true, List.replicate 128 0⟩)] }, by decide +kernel⟩

theorem wit_pktEnable : ∃ (s : State), (s.get R.PKT_STAT_BUSY = 0) ∧ (s.get R.PKT_CTL_EN = 0) ∧
    (s.get (R.HBM_STAT_TRAINED 0) = 1) ∧ (s.get (R.HBM_STAT_TRAINED 1) = 1) ∧
    (((List.range 16).any fun c => !s.on (R.PKT_CLS_WAYS c)) = false) :=
  ⟨(mk [(R.PKT_CTL_EN, 0), (R.HBM_STAT_TRAINED 0, 1), (R.HBM_STAT_TRAINED 1, 1)]).puts ((List.range 16).map fun c => (R.PKT_CLS_WAYS c, 1)), by decide⟩

theorem wit_pktDisable : ∃ (s : State), (s.get R.PKT_STAT_BUSY = 0) ∧ (s.get R.PKT_CTL_EN = 1) :=
  ⟨mk [(R.PKT_CTL_EN, 1)], by decide⟩

theorem wit_pktCleanDone : ∃ (d : BitVec 32) (s : State), (s.get R.PKT_STAT_BUSY = 1) ∧ (s.get R.PKT_STAT_RNG_BUSY = 0) :=
  ⟨0, mk [(R.PKT_STAT_BUSY, 1)], by decide⟩

theorem wit_pktInvalidate : ∃ (s : State), (s.get R.PKT_RNG_LEN_LINES ≠ 0) ∧ (s.get R.PKT_STAT_RNG_BUSY = 0) ∧
    (s.get R.PKT_STAT_BUSY = 0) ∧ (s.get R.PKT_CTL_EN = 1) :=
  ⟨mk [(R.PKT_RNG_LEN_LINES, 1), (R.PKT_CTL_EN, 1)], by decide⟩

theorem wit_pktClean : ∃ (s : State), (s.get R.PKT_RNG_LEN_LINES ≠ 0) ∧ (s.get R.PKT_STAT_RNG_BUSY = 0) ∧
    (s.get R.PKT_STAT_BUSY = 0) ∧ (s.get R.PKT_CTL_EN = 1) :=
  ⟨mk [(R.PKT_RNG_LEN_LINES, 1), (R.PKT_CTL_EN, 1)], by decide⟩

theorem wit_pktCleanInvalidate : ∃ (s : State), (s.get R.PKT_RNG_LEN_LINES ≠ 0) ∧ (s.get R.PKT_STAT_RNG_BUSY = 0) ∧
    (s.get R.PKT_STAT_BUSY = 0) ∧ (s.get R.PKT_CTL_EN = 1) :=
  ⟨mk [(R.PKT_RNG_LEN_LINES, 1), (R.PKT_CTL_EN, 1)], by decide⟩

theorem wit_pktInvalidate_2 : ∃ (a b : Nat) (l : Line) (s : State), (s.get R.PKT_RNG_LEN_LINES ≠ 0) ∧
    (s.get R.PKT_STAT_RNG_BUSY = 0) ∧ (s.get R.PKT_STAT_BUSY = 0) ∧ (s.get R.PKT_CTL_EN = 1) ∧ (s.lines = [(a, b,
    l)]) ∧ (s.inRange (lineNo a l.tag) = true) ∧ (s.pline a b = some l) ∧ (l.dirty = true) :=
  ⟨0, 0, ⟨0, true, List.replicate 128 0⟩, { mk [(R.PKT_RNG_LEN_LINES, 1), (R.PKT_CTL_EN, 1)] with pkt := [(0, some ⟨0, true, List.replicate 128 0⟩)] }, by decide +kernel⟩

theorem wit_pktClean_2 : ∃ (a b : Nat) (l : Line) (s : State), (s.get R.PKT_RNG_LEN_LINES ≠ 0) ∧
    (s.get R.PKT_STAT_RNG_BUSY = 0) ∧ (s.get R.PKT_STAT_BUSY = 0) ∧ (s.get R.PKT_CTL_EN = 1) ∧ (s.lines = [(a, b,
    l)]) ∧ (s.inRange (lineNo a l.tag) = true) ∧ (s.pline a b = some l) ∧ (l.dirty = true) :=
  ⟨0, 0, ⟨0, true, List.replicate 128 0⟩, { mk [(R.PKT_RNG_LEN_LINES, 1), (R.PKT_CTL_EN, 1)] with pkt := [(0, some ⟨0, true, List.replicate 128 0⟩)] }, by decide +kernel⟩

theorem wit_pktCleanInvalidate_2 : ∃ (a b : Nat) (l : Line) (s : State), (s.get R.PKT_RNG_LEN_LINES ≠ 0) ∧
    (s.get R.PKT_STAT_RNG_BUSY = 0) ∧ (s.get R.PKT_STAT_BUSY = 0) ∧ (s.get R.PKT_CTL_EN = 1) ∧ (s.lines = [(a, b,
    l)]) ∧ (s.inRange (lineNo a l.tag) = true) ∧ (s.pline a b = some l) ∧ (l.dirty = true) :=
  ⟨0, 0, ⟨0, true, List.replicate 128 0⟩, { mk [(R.PKT_RNG_LEN_LINES, 1), (R.PKT_CTL_EN, 1)] with pkt := [(0, some ⟨0, true, List.replicate 128 0⟩)] }, by decide +kernel⟩

theorem wit_pktRangeDone : ∃ (s : State), (s.get R.PKT_STAT_RNG_BUSY = 1) :=
  ⟨mk [(R.PKT_STAT_RNG_BUSY, 1)], by decide⟩

theorem wit_pktLfsrSeed : ∃ (v : BitVec 32) (s : State), (v ≠ 0) :=
  ⟨1, mk [], by decide⟩

/-! ### FabricCommandsComplete -/

theorem wit_fabEnable : ∃ (refB : Bool) (s : State), (s.get R.FAB_CTL_EN = 0) ∧ (s.netBad = false) ∧ (s.pmode ≠ 1 ∨
    refB = true) ∧ (s.nflag 0 = true ∨ s.nflag 1 = true) ∧ (s.ip4 0 ≠ 0) ∧ (s.ip4 0 ≠ s.ip4 1) ∧ (s.ip6 0 = 0 ∨
    s.ip6 0 ≠ s.ip6 1) ∧ (s.get R.CMD_CTL_EN = 1) :=
  ⟨false, fabMk [], by decide +kernel⟩

theorem wit_linkDown : ∃ (p : Fin 2) (c : BitVec 8) (s : State), (s.linkUp p = true) :=
  ⟨0, 0, mk [(R.FAB_STAT_LINK, 1)], by decide⟩

theorem wit_linkUp : ∃ (p : Fin 2) (fec : Fin 4) (ab : BitVec 32) (lanes : List (Nat × Nat)) (dup : List Nat) (s :
    State), (bitOf (s.get R.CVN_STAT_PWR_EN) 3 = true) ∧ (s.get R.FAB_CTL_EN = 1) ∧ (s.hasPort p = true) ∧ (bitOf (s.get
    R.FAB_CTL_PORT_DIS) p = false) ∧ (s.linkUp p = false) :=
  ⟨0, 0, 0, [], [], mk [(R.CVN_STAT_PWR_EN, 15), (R.FAB_CTL_EN, 1)], by decide +kernel⟩

theorem wit_negotiationFailure : ∃ (p : Fin 2) (ab : BitVec 32) (s : State), (s.get R.FAB_CTL_EN = 1) ∧
    (s.hasPort p = true) ∧ (s.linkUp p = false) :=
  ⟨0, 0, mk [(R.FAB_CTL_EN, 1)], by decide⟩

theorem wit_dhcpLeaseAcquired : ∃ (p : Fin 2) (v6 : Bool) (addr : BitVec 128) (s : State), (s.linkUp p = true) ∧
    ((if v6 then s.nflag 3 || s.nflag 4 else s.nflag 2) = true) :=
  ⟨0, false, 5, { mk [(R.FAB_STAT_LINK, 1)] with opt := putBytes [] 0x87 [4] }, by decide +kernel⟩

theorem wit_dhcpLeaseLost : ∃ (p : Fin 2) (addr : BitVec 128) (s : State),
    ((s.addrs.any fun x => x.dyn && decide (x.port = p.val ∧ x.addr = addr.toNat)) = true) :=
  ⟨0, 5, { mk [] with addrs := [⟨0, 5, false, true, true, 0⟩] }, by decide⟩

theorem wit_failover : ∃ (p : Fin 2) (s : State), (s.get R.FAB_CTL_EN = 1) ∧ (s.nflag 5 = true) ∧
    (s.get R.FAB_STAT_MODE ≠ 1) ∧ (s.linkUp p = false) ∧ (s.linkUp (1 - p.val) = true) ∧
    (bitOf (s.get R.FAB_STAT_TAKEN) p = false) :=
  ⟨1, fabMk [(R.FAB_CTL_EN, 1), (R.FAB_STAT_LINK, 1)], by decide +kernel⟩

theorem wit_failback : ∃ (p : Fin 2) (s : State), (s.linkUp p = true) ∧ (bitOf (s.get R.FAB_STAT_TAKEN) p = true) :=
  ⟨0, mk [(R.FAB_STAT_LINK, 1), (R.FAB_STAT_TAKEN, 1)], by decide⟩

theorem wit_lldpReceive : ∃ (p : Fin 2) (c i : BitVec 64) (pfc : BitVec 8) (s : State), (s.linkUp p = true) :=
  ⟨0, 0, 0, 0, mk [(R.FAB_STAT_LINK, 1)], by decide⟩

theorem wit_transportConnectionFailure : ∃ (c q : BitVec 16) (x : Ctrl) (s : State), (s.ctrl c.toNat = some x) :=
  ⟨1, 1, ctl, hostMk [], by decide⟩

/-! ### TailorCommandsComplete -/

theorem wit_ageingDue : ∃ (h : Fin 256) (s : State), (s.get R.TLR_CTL_AGE_EN = 1) ∧ (h.val = 255 ∨
    h.val < s.nact * s.nhpa) ∧ (s.newest h = none) ∧ ((s.dues.any fun d => decide (d.1 = h.val)) = false) :=
  ⟨255, mk [(R.TLR_CTL_AGE_EN, 1)], by decide +kernel⟩

theorem wit_ageingDue_2 : ∃ (h : Fin 256) (s : State), (s.get R.TLR_CTL_AGE_EN = 1) ∧ (h.val < s.nact * s.nhpa) ∧
    (h.val ≠ 255) ∧ ((s.dues.any fun d => decide (d.1 = h.val)) = false) :=
  ⟨0, { mk [(R.TLR_CTL_AGE_EN, 1)] with opt := putBytes [] 0x40 [1, 1] }, by decide +kernel⟩

theorem wit_verifyDue : ∃ (h : GHead) (z : RZone) (s : State),
    ((s.verifs.any fun v => decide (v.1 = h.val * 64 + z.val ∧ v.2 ≤ s.opsec)) = true) ∧
    ((s.dues.any fun d => decide (d.1 = h.val)) = false) :=
  ⟨0, 0, { mk [] with verifs := [(0, 0)] }, by decide⟩

theorem wit_ageingOverdue : ∃ (h : Fin 256) (s : State), ((s.dues.any fun d => decide (d.1 = h.val)) = true) :=
  ⟨0, { mk [] with dues := [(0, 1)] }, by decide⟩

theorem wit_ageingMeasureDone : ∃ (h : Fin 256) (r : AgeResult) (d : Nat × Nat) (s : State),
    ((s.dues.find? fun d => decide (d.1 = h.val)) = some d) :=
  ⟨255, ⟨[], 0, [], [], [], [], (false, false, false), [], false⟩, (255, 1), { mk [] with dues := [(255, 1)] }, by decide⟩

theorem wit_trace : ∃ (s : State), (s.get R.TLR_STAT_TRACING = 0) ∧ (s.get R.TLR_STAT_MEASURING = 0) ∧
    (s.allUnloaded = true) ∧ (s.crlSt ≤ crlSTOPPED) :=
  ⟨mk [], by decide +kernel⟩

theorem wit_traceDone : ∃ (ref : Nat) (v : Nat) (s : State), (s.get R.TLR_STAT_TRACING = 1) :=
  ⟨0, 0, mk [(R.TLR_STAT_TRACING, 1)], by decide⟩

theorem wit_traceDone_2 : ∃ (ppb : Int) (vref : List Nat) (tj : Int) (s : State), (s.get R.TLR_STAT_TRACING = 1) :=
  ⟨0, [], 0, mk [(R.TLR_STAT_TRACING, 1)], by decide⟩

/-! ### SideshowCommandsComplete -/

theorem wit_spiWriteFrame : ∃ (hi lo b0 b1 b2 b3 : Byte) (hw : List (BitVec 32)) (s : State), (s.sdsDeaf = false) ∧
    (s.get R.SDS_STAT_STATE = 0) ∧ (128 ≤ hi.toNat) ∧ (lo.toNat % 4 = 0) :=
  ⟨128, 0, 1, 2, 3, 4, [], mk [(R.CVN_STAT_PWR_EN, 7)], by decide +kernel⟩

theorem wit_spiReadFrame : ∃ (off : BitVec 16) (n : BitVec 17) (s : State), (s.sdsDeaf = false) :=
  ⟨0, 1, mk [(R.CVN_STAT_PWR_EN, 7)], by decide +kernel⟩

theorem wit_spiReadFrame_2 : ∃ (off : BitVec 16) (n : BitVec 17) (s : State), (s.sdsDeaf = true) :=
  ⟨0, 1, mk [(R.CVN_STAT_PWR_EN, 0)], by decide +kernel⟩

theorem wit_sdsGo : ∃ (s : State), (s.get R.SDS_STAT_STATE = 0) ∧
    (s.accStatus (some 8) 32704 (s.bytes 0x1A 0 0x8000 (Nat.min 32768 (s.get R.SDS_LEN_LEN))) = 0) :=
  ⟨{ mk [(R.SDS_LEN_LEN, 64), (R.TKB_MB_OWNER 8, 1)] with win := putBytes [] (winKey 0x1A 0 0x8000) (reqOf 256 0 5 []) }, by decide +kernel⟩

theorem wit_sdsAck : ∃ (s : State), (s.get R.SDS_STAT_STATE = 3) :=
  ⟨mk [(R.SDS_STAT_STATE, 3)], by decide⟩

theorem wit_sdsAck_2 : ∃ (r : Req) (n : Nat) (s : State), (s.get R.SDS_STAT_STATE = 2) ∧ (s.outst 8 = [r]) ∧
    (r.ready = some n) :=
  ⟨{ rdy with mb := 8 }, 0, { mk [(R.SDS_STAT_STATE, 2)] with reqs := [{ rdy with mb := 8 }] }, by decide +kernel⟩

theorem wit_sdsClaim : ∃ (i : Fin 32) (s : State), (s.bankSt 8 i = 1) :=
  ⟨9, mk [(R.CLP_PEND_LO_PEND 8, 512)], by decide +kernel⟩

theorem wit_sdsDone : ∃ (i : Fin 32) (s : State), (s.bankSt 8 i = 2) ∧ (s.srcOf 8 i = none) :=
  ⟨9, mk [(R.CLP_ACT_LO_ACT 8, 512)], by decide +kernel⟩

/-! ### EventRecorderCommandsComplete -/

theorem wit_eventDescriptor : ∃ (d : Desc) (l : List Desc) (s : State), (s.inbox = d :: l) ∧ (s.popen = none) :=
  ⟨⟨1, 2, 0, 255, []⟩, [], { mk [] with inbox := [⟨1, 2, 0, 255, []⟩] }, by decide⟩

theorem wit_eventDescriptor_2 : ∃ (d : Desc) (l : List Desc) (r : Rec) (s : State), (s.inbox = d :: l) ∧
    (s.popen = some r) ∧ (r.desc = d) ∧ (s.get V.pbDrop = 0) ∧ (s.get V.pbHeld = 0) ∧ (r.reps < 65535) :=
  ⟨⟨1, 2, 0, 255, []⟩, [], pr, { mk [] with inbox := [⟨1, 2, 0, 255, []⟩], popen := some pr }, by decide +kernel⟩

theorem wit_eventDescriptor_3 : ∃ (d : Desc) (l : List Desc) (r : Rec) (s : State), (s.inbox = d :: l) ∧
    (s.popen = some r) ∧ (r.desc ≠ d) ∧ (64 ≤ s.pbuf.length) :=
  ⟨⟨1, 2, 1, 255, []⟩, [], pr, { mk [] with inbox := [⟨1, 2, 1, 255, []⟩], popen := some pr, pbuf := List.replicate 64 pr }, by decide +kernel⟩

theorem wit_recordCloseTimer : ∃ (r : Rec) (s : State), (s.popen = some r) ∧ (s.pbuf.length < 64) :=
  ⟨pr, { mk [] with popen := some pr }, by decide⟩

theorem wit_ringProgramDone : ∃ (o : FlashOp) (n : Nat) (s : State), (s.ringTop = some o) ∧ (o.erase = false) ∧ (n =
    s.ringPage o) ∧ (n ≠ 0) ∧ (s.get V.pbHeld = 0) :=
  ⟨⟨false, 3072, 3072 * 65536, pr.bytes false, false, 0⟩, 1, { mk [(V.pbErase, 0)] with pbuf := [pr], fops :=
    [(3, [⟨false, 3072, 3072 * 65536, pr.bytes false, false, 0⟩])] }, rfl, rfl, (if_pos ⟨by decide, rfl⟩).symm, by
    decide, by decide⟩

theorem wit_ringBlockEraseDone : ∃ (o : FlashOp) (s : State), (s.ringTop = some o) ∧ (o.erase = true) ∧ (s.get V.pbErase
    = 1) ∧ (o.blk = 3072 + s.get V.pbSlot / 1024) :=
  ⟨⟨true, 3072, 3072 * 65536, [], false, 0⟩,
    { mk [(V.pbErase, 1)] with fops := [(3, [⟨true, 3072, 3072 * 65536, [], false, 0⟩])] }, by decide +kernel⟩

theorem wit_clearEraseDone : ∃ (o : FlashOp) (s : State), (s.ringTop = some o) ∧ (o.erase = true) ∧ (s.get V.pbClr ≠ 0)
    ∧ (o.blk = 3072 + s.get V.pbClrBlk) :=
  ⟨⟨true, 3072, 3072 * 65536, [], false, 0⟩,
    { mk [(V.pbClr, 2), (V.pbErase, 0)] with fops := [(3, [⟨true, 3072, 3072 * 65536, [], false, 0⟩])] },
    by decide +kernel⟩

/-! ### PowerStateCommandsComplete -/

theorem wit_signalDetectWake : ∃ (s : State), (s.get R.CVN_STAT_PS = 5) ∧ (s.get V.cvnWaking = 0) ∧ (s.get V.pslOff = 0) :=
  ⟨mk [(R.CVN_STAT_PS, 5)], by decide⟩

theorem wit_signalDetectWake_2 : ∃ (s : State), (s.get R.CVN_STAT_PS ≠ 5) ∧ (s.get R.CVN_STAT_PS_TGT = 5) ∧
    (s.get V.psStep ≠ 0) ∧ (s.get V.wakePend = 0) :=
  ⟨mk [(R.CVN_STAT_PS_TGT, 5), (V.psStep, 3)], by decide⟩

theorem wit_ssCsWake : ∃ (s : State), (s.get R.CVN_STAT_PS = 5) ∧ (s.get V.cvnWaking = 0) ∧ (s.get V.pslOff = 0) :=
  ⟨mk [(R.CVN_STAT_PS, 5)], by decide⟩

theorem wit_ssCsWake_2 : ∃ (s : State), (s.get R.CVN_STAT_PS ≠ 5) ∧ (s.get R.CVN_STAT_PS_TGT = 5) ∧
    (s.get V.psStep ≠ 0) ∧ (s.get V.wakePend = 0) :=
  ⟨mk [(R.CVN_STAT_PS_TGT, 5), (V.psStep, 3)], by decide⟩

theorem wit_sidebandWake : ∃ (s : State), (s.get R.CVN_STAT_PS = 5) ∧ (s.get V.cvnWaking = 0) ∧ (s.get V.pslOff = 0) :=
  ⟨mk [(R.CVN_STAT_PS, 5)], by decide⟩

theorem wit_sidebandWake_2 : ∃ (s : State), (s.get R.CVN_STAT_PS ≠ 5) ∧ (s.get R.CVN_STAT_PS_TGT = 5) ∧
    (s.get V.psStep ≠ 0) ∧ (s.get V.wakePend = 0) :=
  ⟨mk [(R.CVN_STAT_PS_TGT, 5), (V.psStep, 3)], by decide⟩

theorem wit_opsecTick : ∃ (s : State), (s.get V.vin5ok = 1) :=
  ⟨mk [(V.vin5ok, 1)], by decide⟩

theorem wit_idleTimer : ∃ (s : State), (s.idle = true) ∧ (s.get V.wakeHold = 0) :=
  ⟨mk [(R.RMC_STAT_IO_READY, 1)], by decide +kernel⟩

theorem wit_psEntryStep : ∃ (s : State), (s.get R.CVN_STAT_PS_TGT = 2) ∧ (s.get V.psStep = 1) ∧ (s.get V.pslOff = 0) :=
  ⟨mk [(R.CVN_STAT_PS_TGT, 2), (V.psStep, 1)], by decide⟩

theorem wit_psEntryStep_2 : ∃ (s : State), (s.get R.CVN_STAT_PS_TGT = 2) ∧ (s.get V.psStep = 3) ∧
    (s.get V.pslOff = 0) ∧ (s.allUnloaded = true) :=
  ⟨mk [(R.CVN_STAT_PS_TGT, 2), (V.psStep, 3)], by decide +kernel⟩

theorem wit_sensorSample : ∃ (i : Fin 5) (raw : BitVec 16) (s : State), (i.val < 3) :=
  ⟨0, 5, mk [], by decide⟩

theorem wit_thermalRestart : ∃ (s : State), (s.get V.pslOff = 1) ∧ (s.get R.CVN_STAT_PWR_EN = 0) ∧
    (((List.range 5).any fun i => decide (s.level i = 3)) = false) :=
  ⟨mk [(V.pslOff, 1), (R.CVN_STAT_PWR_EN, 0)], by decide +kernel⟩

theorem wit_throttleStepUp : ∃ (d : Fin 4) (s : State), (s.dieHot d = true) ∧ (s.get (stepFld d) < stepMax d) :=
  ⟨0, mk [(R.PSL_STAT_LEVEL, 2)], by decide +kernel⟩

theorem wit_throttleStepDown : ∃ (d : Fin 4) (s : State), (s.dieHot d = false) ∧ (s.get (stepFld d) ≠ 0) :=
  ⟨0, mk [(R.PSL_STAT_STEP_CTL, 2)], by decide +kernel⟩

theorem wit_throttleAlternate : ∃ (s : State), (s.get R.PSL_STAT_STEP_CTL = 10) :=
  ⟨mk [(R.PSL_STAT_STEP_CTL, 10)], by decide⟩

theorem wit_fabricPauseWindow : ∃ (s : State), (9 ≤ s.get R.PSL_STAT_STEP_CTL) :=
  ⟨mk [(R.PSL_STAT_STEP_CTL, 10)], by decide⟩

/-! ### ResetAndStartCommandsComplete -/

theorem wit_powerOnReset : ∃ (s : State), (s.get V.vin5ok = 0) :=
  ⟨mk [(V.vin5ok, 0)], by decide⟩

theorem wit_vin5Loss : ∃ (s : State), (s.get V.vin5ok = 1) :=
  ⟨mk [(V.vin5ok, 1)], by decide⟩

theorem wit_railLossReset : ∃ (s : State), (s.get V.vin5ok = 1) ∧ (s.get R.CVN_STAT_PWR_EN ≠ 0) :=
  ⟨mk [(V.vin5ok, 1), (R.CVN_STAT_PWR_EN, 63)], by decide⟩

theorem wit_ringmasterRestart : ∃ (s : State), (s.get V.vin5ok = 1) ∧ (s.get V.fwUp = 1) :=
  ⟨mk [(V.vin5ok, 1), (V.fwUp, 1)], by decide⟩

theorem wit_firmwareReset : ∃ (s : State), (s.get V.fwRst = 3) ∧ (s.atRest = true) :=
  ⟨mk [(V.fwRst, 3)], by decide +kernel⟩

theorem wit_stage2 : ∃ (s : State), (s.get R.SNT_STAT_STAGE = 2) :=
  ⟨mk [(R.SNT_STAT_STAGE, 2)], by decide⟩

theorem wit_pwrEnStep : ∃ (s : State), (s.get V.pslOff = 0) ∧ (s.get V.vin5ok = 1) ∧ (s.get V.pwrSeq = 1) ∧ (s.pwrUp < 5) :=
  ⟨mk [(V.vin5ok, 1), (V.pwrSeq, 1), (R.CVN_STAT_PWR_EN, 0)], by decide +kernel⟩

theorem wit_xtalFail : ∃ (n : BitVec 32) (s : State), (s.get V.cvnRc = 0) :=
  ⟨0, mk [], by decide⟩

theorem wit_ioReady : ∃ (s : State), (s.get V.fwUp = 1) ∧ (s.get R.RMC_STAT_IO_READY = 0) ∧
    (((List.range s.nact).all s.actSettled) = true) ∧ (s.get V.fwRst = 0) ∧ (s.get V.wake5 = 0) :=
  ⟨mk [(V.fwUp, 1)], by decide +kernel⟩

theorem wit_startLate : ∃ (s : State), (s.get V.fwUp = 1) ∧ (s.get R.RMC_STAT_IO_READY = 0) ∧ (s.get V.startLate = 0) ∧
    (7 ≤ s.get R.RMC_STAT_STEP) ∧ (s.get V.fwRst = 0) :=
  ⟨mk [(V.fwUp, 1), (R.RMC_STAT_STEP, 7)], by decide⟩

theorem wit_shortTimerEnd : ∃ (s : State), (s.crlSt = crlSHORT) ∧ (s.get V.crlStopAtt = 1) ∧ (s.get V.fwRst = 0) :=
  ⟨mk [(R.CRL_STAT_STATE, crlSHORT), (V.crlStopAtt, 1)], by decide +kernel⟩

theorem wit_shortQuietEnd : ∃ (s : State), (s.crlSt = crlSHORT) ∧ (s.get V.crlStopAtt = 0) ∧
    (s.get V.crlFailed = 0) ∧ (s.get V.fwRst = 0) :=
  ⟨mk [(R.CRL_STAT_STATE, crlSHORT)], by decide +kernel⟩

theorem wit_spinPermission : ∃ (s : State), (s.crlSt = crlSTOPPED) ∧ (s.get R.CRL_STAT_SP ≠ 0) ∧
    (s.get V.sagWait = 0) ∧ (s.get V.spinLow = 0) ∧ (s.get V.crlPerm = 0) ∧ (s.get V.spinMode = 0) ∧ (s.get V.spinSt = 0) :=
  ⟨mk [(R.CRL_STAT_STATE, crlSTOPPED), (R.CRL_STAT_SP, 1), (V.spinLow, 0), (V.spinMode, 0)], by decide +kernel⟩

theorem wit_spinPermission_2 : ∃ (s : State), (s.crlSt = crlSTOPPED) ∧ (s.get R.CRL_STAT_SP ≠ 0) ∧ (s.get V.sagWait = 0)
    ∧ (s.get V.spinLow = 0) ∧ (s.get V.crlPerm = 0) ∧ (s.get V.spinMode = 1) ∧ (s.grantSeen = true) :=
  ⟨mk [(R.CRL_STAT_STATE, crlSTOPPED), (R.CRL_STAT_SP, 2), (V.spinMode, 1), (V.linkStat, 2 ^ 20)], by decide⟩

theorem wit_spinBackoffEnd : ∃ (s : State), (s.get V.spinMode = 0) ∧ (s.get V.spinSt = 1) ∧ (s.grantSeen = false) :=
  ⟨mk [(V.spinMode, 0), (V.spinSt, 1)], by decide⟩

theorem wit_spinDelayEnd : ∃ (s : State), (s.get V.spinMode = 2) ∧ (s.get V.spinSt = 1) ∧ (s.grantSeen = false) :=
  ⟨mk [(V.spinMode, 2), (V.spinSt, 1)], by decide⟩

theorem wit_sagWaitEnd : ∃ (s : State), (s.get V.sagWait = 1) :=
  ⟨mk [(V.sagWait, 1)], by decide⟩

/-! ### RegisterCommandsComplete -/

theorem wit_enumerationComplete : ∃ (a : Act) (id cap : BitVec 16) (loads : List (List Nat)) (flex : Nat) (s : State),
    (s.works = []) ∧ (s.get (V.sptEnumBusy a) = 1) ∧ (id.toNat / 256 = 1) ∧ (cap.toNat % 16 = s.nhpa) ∧
    (((List.range s.nhpa).any fun l => decide (s.headEnt a l 0 1 ≠ cap.toNat / 16 % 4)) = false) ∧ (flex ≤ 1200) :=
  ⟨0, 0x100, 0, [], 0, mk [(V.sptEnumBusy 0, 1)], by decide +kernel⟩

theorem wit_headsOnRamp : ∃ (a : Act) (s : State), (s.works = []) ∧ (s.srvSt a = srvUNLOADING) :=
  ⟨0, mk [(R.SRV_STAT_STATE 0, srvUNLOADING)], by decide +kernel⟩

theorem wit_requestComplete : ∃ (rq : ReqId) (r : Req) (s : State), (s.works = []) ∧
    ((s.reqs.find? fun r => decide (r.mb = rq.mb.val ∧ r.tag = rq.tag.toNat ∧ r.done = true ∧ r.ready = none ∧
    r.waits = [])) = some r) ∧ (r.discard = false) ∧ (s.held = []) ∧ (r.mb ≠ 8) :=
  ⟨⟨10, 5⟩, { rdy with ready := none }, { mk [] with reqs := [{ rdy with ready := none }] }, by decide +kernel⟩

theorem wit_registerWrite : ∃ (m : Fin 64) (b : Fin 256) (i : Fin 40) (o : Fin 65536) (v : BitVec 32) (w : World) (s :
    State), (offKnown b o = false ∨ bitOf (s.get R.CVN_STAT_PWR_EN) 2 = false) :=
  ⟨8, 0, 0, 0, 0, w0, mk [], by decide +kernel⟩

theorem wit_registerWrite_2 : ∃ (m : Fin 64) (v : BitVec 32) (w : World) (s : State), (bitOf (s.get R.CVN_STAT_PWR_EN) 2
    = true) :=
  ⟨8, 1, w0, mk [(R.CVN_STAT_PWR_EN, 7)], by decide +kernel⟩

theorem wit_registerWrite_3 : ∃ (m : Fin 64) (v : BitVec 32) (w : World) (s : State), (v ≠ 0) ∧ (bitOf (s.get
    R.CVN_STAT_PWR_EN) 2 = true) :=
  ⟨8, 5, w0, mk [(R.CVN_STAT_PWR_EN, 7)], by decide +kernel⟩

theorem wit_registerWrite_4 : ∃ (m : Fin 64) (v : BitVec 32) (w : World) (s : State), (bitOf (s.get R.CVN_STAT_PWR_EN) 2
    = true) :=
  ⟨8, 5, w0, mk [(R.CVN_STAT_PWR_EN, 7)], by decide +kernel⟩

theorem wit_shadowCommit : ∃ (a : Act) (no mb i v : Nat) (hw : List (List (BitVec 32))) (s : State), (i < 40) ∧
    (s.shadow = [⟨no, mb, a, 0x13, i, 0x1100, v⟩]) :=
  ⟨0, 1, 10, 3, 7, [], { mk [] with shadow := [⟨1, 10, 0, 0x13, 3, 0x1100, 7⟩] }, by decide +kernel⟩

theorem wit_enable : ∃ (rq : ReqId) (w : World) (r : Req) (s : State), (s.started rq 0x0202 = some r) ∧
    (s.works = []) ∧ (r.args = [0x15, 0, 1, 0, 1, 0, 0, 0]) ∧ (s.get R.SNT_CTL_EN = 0) ∧ (5 ≤ s.get R.SNT_CFG_T1 ∧
    s.get R.SNT_CFG_T1 ≤ 600) :=
  ⟨⟨10, 5⟩, w0, rq0 0x0202 [0x15, 0, 1, 0, 1, 0, 0, 0], rqMk 0x0202 [0x15, 0, 1, 0, 1, 0, 0, 0] [(R.SNT_CTL_EN, 0), (R.SNT_CFG_T1, 60)], by decide +kernel⟩

theorem wit_enableState : ∃ (rq : ReqId) (r : Req) (s : State), (s.started rq 0x0203 = some r) ∧ (204 ≤ r.limit) :=
  ⟨⟨10, 5⟩, rq0 0x0203 [], rqMk 0x0203 [] [], by decide +kernel⟩

theorem wit_regRead : ∃ (rq : ReqId) (r : Req) (n : Nat) (s : State), (s.started rq 0x0B00 = some r) ∧ (1 ≤ n ∧
    n ≤ 1024) ∧ (r.args.length = 4 + 4 * n) ∧ (fieldAt r.args 0 2 = n) ∧ (fieldAt r.args 2 2 = 0) ∧ (4 * n ≤ r.limit) ∧
    (∀ i < n, s.entryBad false (fieldAt r.args (4 + 4 * i) 4, 0, 0) = 0 ∧
    offKnown (adrOf (fieldAt r.args (4 + 4 * i) 4)).1 (adrOf (fieldAt r.args (4 + 4 * i) 4)).2.2 = true) :=
  ⟨⟨10, 5⟩, rq0 0x0B00 [1, 0, 0, 0, 8, 0, 0, 0x17], 1, rqMk 0x0B00 [1, 0, 0, 0, 8, 0, 0, 0x17] [], by decide +kernel⟩

theorem wit_regReadBlock : ∃ (rq : ReqId) (r : Req) (n : Nat) (s : State), (s.started rq 0x0B02 = some r) ∧
    (r.args.length = 8) ∧ (fieldAt r.args 4 4 = 4 * n) ∧ (fieldAt r.args 0 4 % 65536 + 4 * n ≤ 65536) ∧
    (4 * n ≤ r.limit) ∧ (∀ i < n, s.entryBad false (fieldAt r.args 0 4 + 4 * i, 0, 0) = 0 ∧
    offKnown (adrOf (fieldAt r.args 0 4 + 4 * i)).1 (adrOf (fieldAt r.args 0 4 + 4 * i)).2.2 = true) :=
  ⟨⟨10, 5⟩, rq0 0x0B02 [8, 0, 0, 0x17, 4, 0, 0, 0], 1, rqMk 0x0B02 [8, 0, 0, 0x17, 4, 0, 0, 0] [], by decide +kernel⟩

theorem wit_regWrite : ∃ (rq : ReqId) (w : World) (r : Req) (v : Byte) (s : State),
    (s.started rq 0x0B01 = some r) ∧ (s.works = []) ∧ (s.shadow = []) ∧ (r.op = 0x0B01) ∧ (r.args = [1, 0, 0, 0, 0, 0, 0,
    0, 0, 0, 0, 0x17, v, 0, 0, 0, 0, 0, 0, 0, 0, 0, 0, 0]) :=
  ⟨⟨10, 5⟩, w0, rq0 0x0B01 [1, 0, 0, 0, 0, 0, 0, 0, 0, 0, 0, 0x17, 0, 0, 0, 0, 0, 0, 0, 0, 0, 0, 0, 0], 0, rqMk 0x0B01 [1, 0, 0, 0, 0, 0, 0, 0, 0, 0, 0, 0x17, 0, 0, 0, 0, 0, 0, 0, 0, 0, 0, 0, 0] [], by decide +kernel⟩

theorem wit_regWriteBlock : ∃ (rq : ReqId) (w : World) (r : Req) (v : Byte) (s : State),
    (s.started rq 0x0B03 = some r) ∧ (s.works = []) ∧ (s.shadow = []) ∧ (r.op = 0x0B03) ∧ (r.args = [0, 0, 0, 0x17, 4, 0,
    0, 0, v, 0, 0, 0]) :=
  ⟨⟨10, 5⟩, w0, rq0 0x0B03 [0, 0, 0, 0x17, 4, 0, 0, 0, 0, 0, 0, 0], 0, rqMk 0x0B03 [0, 0, 0, 0x17, 4, 0, 0, 0, 0, 0, 0, 0] [], by decide +kernel⟩

/-! ### IdentityAndPolicyRequestsComplete -/

theorem wit_identify : ∃ (rq : ReqId) (r : Req) (s : State), (s.started rq 0x0100 = some r) ∧ (r.args.length = 0) ∧
    ((serial ++ padTo 16 0 orderCode ++ leBytes 2 Config.stepping ++
      leBytes 1 (Config.sampleBits % 128 * 2 +
    Config.partClass % 2) ++ leBytes 1 s.nact ++ leBytes 1 s.nhpa ++
      leBytes 1 (s.get (V.sptCap 0) / 16 % 4) ++
    leBytes 2 s.fmtW ++ leBytes 1 (s.get V.fwSlot) ++ s.shownVer 0 ++ s.shownVer 1 ++
      nqnPrefix ++ serial ++
    List.replicate 14 0).length ≤ r.limit) :=
  ⟨⟨10, 5⟩, rq0 0x0100 [], rqMk 0x0100 [] [], by decide +kernel⟩

theorem wit_getNonce : ∃ (rq : ReqId) (nonce : BitVec 256) (r : Req) (s : State),
    (s.started rq 0x0101 = some r) ∧ (r.args.length = 0) ∧ ((leBytes 32 nonce.toNat ++ leBytes 4 60000).length ≤ r.limit) :=
  ⟨⟨10, 5⟩, 7, rq0 0x0101 [], rqMk 0x0101 [] [], by decide +kernel⟩

theorem wit_inventory : ∃ (rq : ReqId) (x : Bool × List Nat) (r : Req) (s : State),
    (s.started rq 0x0102 = some r) ∧ (r.args.length = 4) ∧ (1 ≤ fieldAt r.args 0 2 ∧ fieldAt r.args 0 2 ≤ 10) ∧
    (s.item (fieldAt r.args 0 2) (fieldAt r.args 2 2) = some x) ∧ ((r.args ++ [BitVec.ofNat 8 (b2n x.1), 0, 0,
    0] ++ x.2.flatMap (leBytes 4)).length ≤ r.limit) :=
  ⟨⟨10, 5⟩, (false, [0]), rq0 0x0102 [3, 0, 0, 0], { rqMk 0x0102 [3, 0, 0, 0] [] with opt := putBytes [] 0x40 [1, 1] }, by decide +kernel⟩

theorem wit_counters : ∃ (rq : ReqId) (r : Req) (s : State), (s.started rq 0x0103 = some r) ∧
    (r.args.length = 0) ∧ ((leBytes 4 s.opsec ++ leBytes 4 (s.get R.CVN_PCYC_CYCLES) ++ leBytes 4 (s.get
    R.CVN_STAT_OPSEC_SAT + 2 * s.get R.CVN_STAT_PCYC_SAT + 4 * s.get R.CVN_STAT_XTAL_FAIL)).length ≤ r.limit) :=
  ⟨⟨10, 5⟩, rq0 0x0103 [], rqMk 0x0103 [] [], by decide +kernel⟩

theorem wit_clearXtal : ∃ (rq : ReqId) (r : Req) (s : State), (s.started rq 0x0104 = some r) ∧ (r.args.length = 0) :=
  ⟨⟨10, 5⟩, rq0 0x0104 [], rqMk 0x0104 [] [], by decide +kernel⟩

theorem wit_optionRead : ∃ (rq : ReqId) (r : Req) (s : State), (s.started rq 0x0200 = some r) ∧
    (r.args.length = 8) ∧ (fieldAt r.args 0 4 + fieldAt r.args 4 4 ≤ 65536) ∧ (fieldAt r.args 4 4 ≤ r.limit) ∧
    (0 ≤ r.limit) :=
  ⟨⟨10, 5⟩, rq0 0x0200 [0, 1, 0, 0, 4, 0, 0, 0], rqMk 0x0200 [0, 1, 0, 0, 4, 0, 0, 0] [], by decide +kernel⟩

theorem wit_optionWrite : ∃ (rq : ReqId) (ok1 ok2 : Bool) (r : Req) (s : State), (s.started rq 0x0201 = some r) ∧
    (8 ≤ r.args.length) ∧ (r.args.length = 8 + fieldAt r.args 4 4) :=
  ⟨⟨10, 5⟩, true, true, rq0 0x0201 [64, 0, 0, 0, 1, 0, 0, 0, 1], rqMk 0x0201 [64, 0, 0, 0, 1, 0, 0, 0, 1] [], by decide +kernel⟩

theorem wit_keyRegister : ∃ (rq : ReqId) (ok1 ok2 : Bool) (r : Req) (s : State),
    (s.started rq 0x0204 = some r) ∧ (r.args.length = 97) ∧ (s.keyReg = false) ∧ (fieldAt r.args 0 1 = 4) ∧
    ((s.optWrite 0x200 ([1, 0, 0, 0] ++ r.args ++ List.replicate 27 0) ok1 ok2).2 = 0) :=
  ⟨⟨10, 5⟩, true, true, rq0 0x0204 (4 :: List.replicate 96 1), rqMk 0x0204 (4 :: List.replicate 96 1) [], by decide +kernel⟩

theorem wit_setBudget : ∃ (rq : ReqId) (r : Req) (s : State), (s.started rq 0x0300 = some r) ∧ (r.args.length = 8) ∧
    (16 ≤ r.limit) :=
  ⟨⟨10, 5⟩, rq0 0x0300 [255, 255, 255, 255, 0, 0, 0, 0], rqMk 0x0300 [255, 255, 255, 255, 0, 0, 0, 0] [], by decide +kernel⟩

theorem wit_getBudget : ∃ (rq : ReqId) (r : Req) (s : State), (s.started rq 0x0301 = some r) ∧ (r.args.length = 4) ∧
    (16 ≤ r.limit) :=
  ⟨⟨10, 5⟩, rq0 0x0301 [255, 255, 255, 255], rqMk 0x0301 [255, 255, 255, 255] [], by decide +kernel⟩

theorem wit_spinSlot : ∃ (rq : ReqId) (r : Req) (s : State), (s.started rq 0x0302 = some r) ∧
    (r.args.length = 16) ∧ (fieldAt r.args 0 1 ≤ 3) ∧ (fieldAt r.args 1 3 = 0) ∧ (fieldAt r.args 4 4 ≤ 600000) ∧
    (fieldAt r.args 8 2 = 0 ∨ 500 ≤ fieldAt r.args 8 2 ∧ fieldAt r.args 8 2 ≤ 6000) ∧ (fieldAt r.args 10 6 = 0) ∧
    (8 ≤ r.limit) :=
  ⟨⟨10, 5⟩, rq0 0x0302 (List.replicate 16 0), rqMk 0x0302 (List.replicate 16 0) [], by decide +kernel⟩

theorem wit_spinStatus : ∃ (rq : ReqId) (r : Req) (s : State), (s.started rq 0x0303 = some r) ∧
    (r.args.length = 0) ∧ ((leBytes 1 s.permNow ++ leBytes 1 (s.get V.spinMode) ++ leBytes 1 (s.get V.spinTry) ++ [0] ++
    leBytes 4 s.spinRemain).length ≤ r.limit) :=
  ⟨⟨10, 5⟩, rq0 0x0303 [], rqMk 0x0303 [] [], by decide +kernel⟩

theorem wit_placementSet : ∃ (rq : ReqId) (r : Req) (s : State), (s.started rq 0x0900 = some r) ∧ (r.args.length = 1) ∧
    (1 ≤ fieldAt r.args 0 1 ∧ fieldAt r.args 0 1 < 2 ^ s.nact) :=
  ⟨⟨10, 5⟩, rq0 0x0900 [1], { rqMk 0x0900 [1] [] with opt := putBytes [] 0x40 [1, 1] }, by decide +kernel⟩

theorem wit_placementGet : ∃ (rq : ReqId) (r : Req) (s : State), (s.started rq 0x0901 = some r) ∧
    (r.args.length = 0) ∧ ((leBytes 1 (s.get V.placeMask % 2 ^ s.nact)).length ≤ r.limit) :=
  ⟨⟨10, 5⟩, rq0 0x0901 [], rqMk 0x0901 [] [], by decide +kernel⟩

theorem wit_defaultsSet : ∃ (rq : ReqId) (r : Req) (s : State), (s.started rq 0x0A00 = some r) ∧
    (r.args.length = 4) ∧ (fieldAt r.args 0 4 < 16) :=
  ⟨⟨10, 5⟩, rq0 0x0A00 [3, 0, 0, 0], rqMk 0x0A00 [3, 0, 0, 0] [], by decide +kernel⟩

theorem wit_defaultsGet : ∃ (rq : ReqId) (r : Req) (s : State), (s.started rq 0x0A01 = some r) ∧
    (r.args.length = 0) ∧ ((leBytes 4 (s.get V.svcDef)).length ≤ r.limit) :=
  ⟨⟨10, 5⟩, rq0 0x0A01 [], rqMk 0x0A01 [] [], by decide +kernel⟩

/-! ### ThermalAndTrimRequestsComplete -/

theorem wit_thermalRead : ∃ (rq : ReqId) (r : Req) (s : State), (s.started rq 0x0400 = some r) ∧
    (r.args.length = 0) ∧ (((List.range 5).flatMap fun i => leBytes 2 (s.get (R.PSL_TEMP_USED i)) ++ leBytes 1 (s.level i)
    ++ leBytes 1 (b2n (s.suspect i)) ++ leBytes 1 (s.get (stepFld (dieOf i))) ++ [0, 0, 0]).length ≤ r.limit) :=
  ⟨⟨10, 5⟩, rq0 0x0400 [], rqMk 0x0400 [] [], by decide +kernel⟩

theorem wit_clearSuspect : ∃ (rq : ReqId) (r : Req) (s : State), (s.started rq 0x0401 = some r) ∧
    (r.args.length = 1) ∧ (fieldAt r.args 0 1 < 32) :=
  ⟨⟨10, 5⟩, rq0 0x0401 [3], rqMk 0x0401 [3] [], by decide +kernel⟩

theorem wit_trimRead : ∃ (rq : ReqId) (r : Req) (s : State), (s.started rq 0x0500 = some r) ∧ (r.args.length = 2) ∧
    (trimsOf (fieldAt r.args 0 1) (fieldAt r.args 1 1) ≠ []) ∧
    ((leBytes 2 (trimsOf (fieldAt r.args 0 1) (fieldAt r.args 1 1)).length ++ (trimsOf (fieldAt r.args 0 1) (fieldAt r.args
    1 1)).flatMap fun o => leBytes 2 o ++ leBytes 4 (s.word 0x18 0 o)).length ≤ r.limit) :=
  ⟨⟨10, 5⟩, rq0 0x0500 [12, 0], rqMk 0x0500 [12, 0] [], by decide +kernel⟩

theorem wit_trimWrite : ∃ (rq : ReqId) (r : Req) (img : List (Nat × Nat)) (s : State),
    (s.started rq 0x0501 = some r) ∧ (s.works = []) ∧
    (img = (List.range (fieldAt r.args 0 2)).map (fun i => (fieldAt r.args (2 + 6 * i) 2,
    fieldAt r.args (4 + 6 * i) 4))) ∧ (r.args.length = 2 + 6 * fieldAt r.args 0 2) ∧ (1 ≤ fieldAt r.args 0 2) ∧
    (img.map (·.1) = trimsOf (trimOwner (fieldAt r.args 2 2)).1 (trimOwner (fieldAt r.args 2 2)).2) ∧
    (img.any (fun e => decide (2 ^ 22 ≤ e.2)) = false) ∧
    (s.retrimming (trimsOf (trimOwner (fieldAt r.args 2 2)).1 (trimOwner (fieldAt r.args 2 2)).2) = false) :=
  ⟨⟨10, 5⟩, rq0 0x0501 trimArgs, (trimsOf 0x0C 0).map (fun o => (o, 0)), rqMk 0x0501 trimArgs [], by decide +kernel⟩

theorem wit_tableRead : ∃ (rq : ReqId) (r : Req) (s : State), (s.started rq 0x0502 = some r) ∧
    (r.args.length = 8) ∧ (tableAt (adrOf (fieldAt r.args 0 4)).1 (adrOf (fieldAt r.args 0 4)).2.2 (fieldAt r.args 4 4) ≠
    none) ∧ ((adrOf (fieldAt r.args 0 4)).2.1 < selCount (adrOf (fieldAt r.args 0 4)).1) ∧
    (fieldAt r.args 4 4 ≤ r.limit) ∧ (0 ≤ r.limit) :=
  ⟨⟨10, 5⟩, rq0 0x0502 [0, 16, 0, 24, 4, 0, 0, 0], rqMk 0x0502 [0, 16, 0, 24, 4, 0, 0, 0] [], by decide +kernel⟩

theorem wit_tableWrite : ∃ (rq : ReqId) (x : Nat × Nat × Nat × Nat × Bool) (r : Req) (s : State),
    (s.started rq 0x0503 = some r) ∧ (8 ≤ r.args.length) ∧ (r.args.length = 8 + fieldAt r.args 4 4) ∧
    (1 ≤ fieldAt r.args 4 4) ∧ (tableAt (adrOf (fieldAt r.args 0 4)).1 (adrOf (fieldAt r.args 0 4)).2.2 (fieldAt r.args 4 4)
    = some x) ∧ ((adrOf (fieldAt r.args 0 4)).2.1 < selCount (adrOf (fieldAt r.args 0 4)).1) ∧
    (((adrOf (fieldAt r.args 0 4)).2.2 - x.2.1) % x.2.2.1 = 0 ∧ fieldAt r.args 4 4 % x.2.2.1 = 0) ∧
    (x.2.2.2.2 = true → (((List.range (fieldAt r.args 4 4 / x.2.2.1)).map fun i => ((adrOf (fieldAt r.args 0 4)).2.2 +
    x.2.2.1 * i, (r.args.drop (8 + x.2.2.1 * i)).take x.2.2.1)).any fun e => !crcOk e.2) = false) :=
  ⟨⟨10, 5⟩, (0x18, 0x1000, 32, 1, true), rq0 0x0503 ([0, 16, 0, 24, 32, 0, 0, 0] ++ crcd (List.replicate 28 1)), rqMk 0x0503 ([0, 16, 0, 24, 32, 0, 0, 0] ++ crcd (List.replicate 28 1)) [], by decide +kernel⟩

theorem wit_tailorSave : ∃ (rq : ReqId) (r : Req) (s : State), (s.started rq 0x0504 = some r) ∧ (r.args.length = 0) :=
  ⟨⟨10, 5⟩, rq0 0x0504 [], rqMk 0x0504 [] [], by decide +kernel⟩

theorem wit_certRead : ∃ (rq : ReqId) (c : List Byte) (l : List (List Byte)) (r : Req) (s : State),
    (s.started rq 0x0505 = some r) ∧ (r.args.length = 0) ∧ (s.certs = c :: l) ∧ ((c).length ≤ r.limit) :=
  ⟨⟨10, 5⟩, [1], [], rq0 0x0505 [], { rqMk 0x0505 [] [] with certs := [[1]] }, by decide +kernel⟩

theorem wit_ageingRead : ∃ (rq : ReqId) (x : AgeRec) (r : Req) (s : State), (s.started rq 0x0600 = some r) ∧
    (r.args.length = 1) ∧ (s.newest (fieldAt r.args 0 1) = some x) ∧ ((x.bytes).length ≤ r.limit) :=
  ⟨⟨10, 5⟩, agr, rq0 0x0600 [0], { rqMk 0x0600 [0] [] with ages := [agr] }, by decide +kernel⟩

theorem wit_marginRead : ∃ (rq : ReqId) (r : Req) (s : State), (s.started rq 0x0601 = some r) ∧
    (r.args.length = 1) ∧ (fieldAt r.args 0 1 < s.nact * s.nhpa) ∧
    ((Config.payload 0x0601 ((List.range 64).map (s.hours (fieldAt r.args 0 1)) ++ ((s.demands.filter fun d => decide
    (d.head = fieldAt r.args 0 1)).flatMap fun d => [d.zone, d.dcls, d.risk]))).length ≤ r.limit) :=
  ⟨⟨10, 5⟩, { rq0 0x0601 [0] with limit := (Config.payload 0x0601 ((List.range 64).map (marginMk.hours 0))).length }, { marginMk with reqs := [{ rq0 0x0601 [0] with limit := (Config.payload 0x0601 ((List.range 64).map (marginMk.hours 0))).length }] }, rfl, rfl, by decide, Nat.le_refl _⟩

theorem wit_measureNow : ∃ (rq : ReqId) (r : Req) (s : State), (s.started rq 0x0602 = some r) ∧
    (r.args.length = 5) ∧ (fieldAt r.args 0 5 < 2 ^ (s.nact * s.nhpa)) :=
  ⟨⟨10, 5⟩, rq0 0x0602 [0, 0, 0, 0, 0], rqMk 0x0602 [0, 0, 0, 0, 0] [], by decide +kernel⟩

/-! ### RecorderPlacementAndInterruptRequestsComplete -/

theorem wit_pblRead : ∃ (rq : ReqId) (l : List Rec) (r : Req) (s : State), (s.started rq 0x0700 = some r) ∧
    (r.args.length = 6) ∧ (1 ≤ fieldAt r.args 4 2 ∧ fieldAt r.args 4 2 ≤ 1023) ∧
    (s.pblFrom (fieldAt r.args 0 4) (Nat.min (fieldAt r.args 4 2) (r.limit / 64)) = some l) ∧
    ((l.flatMap fun x => x.bytes (decide (s.popen = some x))).length ≤ r.limit) :=
  ⟨⟨10, 5⟩, [], rq0 0x0700 [0, 0, 0, 0, 1, 0], rqMk 0x0700 [0, 0, 0, 0, 1, 0] [], by decide +kernel⟩

theorem wit_pblStatus : ∃ (rq : ReqId) (r : Req) (s : State), (s.started rq 0x0701 = some r) ∧
    (r.args.length = 0) ∧ ((leBytes 4 (s.get R.PBL_OLDEST_SEQ) ++ leBytes 4 (s.get R.PBL_NEWEST_SEQ) ++ leBytes 4 (s.get
    R.PBL_HELD_COUNT) ++ leBytes 4 s.pblFlags).length ≤ r.limit) :=
  ⟨⟨10, 5⟩, rq0 0x0701 [], rqMk 0x0701 [] [], by decide +kernel⟩

theorem wit_pblClear : ∃ (rq : ReqId) (ok : Bool) (r : Req) (s : State), (s.started rq 0x0702 = some r) ∧
    (r.args.length = 0) :=
  ⟨⟨10, 5⟩, true, rq0 0x0702 [], rqMk 0x0702 [] [], by decide +kernel⟩

theorem wit_fwDownload : ∃ (rq : ReqId) (ok : Bool) (r : Req) (s : State), (s.started rq 0x0800 = some r) ∧
    (5 ≤ r.args.length) :=
  ⟨⟨10, 5⟩, true, rq0 0x0800 [0, 0, 0, 0, 1], rqMk 0x0800 [0, 0, 0, 0, 1] [], by decide +kernel⟩

theorem wit_fwCommit : ∃ (rq : ReqId) (ok : Bool) (r : Req) (s : State), (s.started rq 0x0801 = some r) ∧
    (r.args.length = 1) ∧ (fieldAt r.args 0 1 ≤ 1) :=
  ⟨⟨10, 5⟩, true, rq0 0x0801 [0], rqMk 0x0801 [0] [], by decide +kernel⟩

theorem wit_fwStatus : ∃ (rq : ReqId) (r : Req) (s : State), (s.started rq 0x0802 = some r) ∧
    (r.args.length = 0) ∧ ((Config.payload 0x0802 ((s.shownVer 0 ++ s.shownVer 1).map (fun (x : Byte) => x.toNat) ++ [s.get
    V.fwSlot, s.selCode, s.get (V.fwSlotSt 0), s.get (V.fwSlotSt 1), s.get V.fwGot, s.get V.fwCause])).length ≤ r.limit) :=
  ⟨⟨10, 5⟩, { rq0 0x0802 [] with limit := (Config.payload 0x0802 ((State.reset.shownVer 0 ++ State.reset.shownVer 1).map (fun (x : Byte) => x.toNat) ++ [State.reset.get V.fwSlot, State.reset.selCode, State.reset.get (V.fwSlotSt 0), State.reset.get (V.fwSlotSt 1), State.reset.get V.fwGot, State.reset.get V.fwCause])).length }, { State.reset with reqs := [{ rq0 0x0802 [] with limit := (Config.payload 0x0802 ((State.reset.shownVer 0 ++ State.reset.shownVer 1).map (fun (x : Byte) => x.toNat) ++ [State.reset.get V.fwSlot, State.reset.selCode, State.reset.get (V.fwSlotSt 0), State.reset.get (V.fwSlotSt 1), State.reset.get V.fwGot, State.reset.get V.fwCause])).length }] }, rfl, rfl, Nat.le_refl _⟩

theorem wit_flashStatus : ∃ (rq : ReqId) (r : Req) (s : State), (s.started rq 0x0803 = some r) ∧
    (r.args.length = 0) ∧ ((Config.payload 0x0803 ((List.range 4).flatMap fun i => [s.get (V.wdbProgs i),
    s.get (V.wdbErased i), s.get (V.wdbSusps i), ((s.blks.filter fun e => decide (e.1 / 1024 = i) && e.2.bad).map (·.1 %
    1024)).length] ++ ((s.blks.filter fun e => decide (e.1 / 1024 = i) && e.2.bad).map (·.1 % 1024)))).length ≤ r.limit) :=
  ⟨⟨10, 5⟩, { rq0 0x0803 [] with limit := (Config.payload 0x0803 ((List.range 4).flatMap fun i => [State.reset.get (V.wdbProgs i), State.reset.get (V.wdbErased i), State.reset.get (V.wdbSusps i), ((State.reset.blks.filter fun e => decide (e.1 / 1024 = i) && e.2.bad).map (·.1 % 1024)).length] ++ ((State.reset.blks.filter fun e => decide (e.1 / 1024 = i) && e.2.bad).map (·.1 % 1024)))).length }, { State.reset with reqs := [{ rq0 0x0803 [] with limit := (Config.payload 0x0803 ((List.range 4).flatMap fun i => [State.reset.get (V.wdbProgs i), State.reset.get (V.wdbErased i), State.reset.get (V.wdbSusps i), ((State.reset.blks.filter fun e => decide (e.1 / 1024 = i) && e.2.bad).map (·.1 % 1024)).length] ++ ((State.reset.blks.filter fun e => decide (e.1 / 1024 = i) && e.2.bad).map (·.1 % 1024)))).length }] }, rfl, rfl, Nat.le_refl _⟩

theorem wit_bandInfo : ∃ (rq : ReqId) (r : Req) (s : State), (s.started rq 0x0902 = some r) ∧ (r.args.length = 4) ∧
    (s.get R.MMG_CTL_FMT_COMMIT = 1) ∧ (fieldAt r.args 0 4 / 1048576 < s.nact * s.nhpa) ∧
    (fieldAt r.args 0 4 % 1048576 < s.bandCount (fieldAt r.args 0 4 / 1048576) ∨
    Tab.at none s.bands (fieldAt r.args 0 4) ≠ none) ∧
    ((Config.payload 0x0902 ([bandStNo (s.band (fieldAt r.args 0 4)).st, (s.band (fieldAt r.args 0 4)).dcls,
    (s.band (fieldAt r.args 0 4)).first] ++ s.bandOwner (fieldAt r.args 0 4))).length ≤ r.limit) :=
  ⟨⟨10, 5⟩, { rq0 0x0902 [0, 0, 0, 0] with limit := (Config.payload 0x0902 ([bandStNo (bandMk.band 0).st, (bandMk.band 0).dcls, (bandMk.band 0).first] ++ bandMk.bandOwner 0)).length }, { bandMk with reqs := [{ rq0 0x0902 [0, 0, 0, 0] with limit := (Config.payload 0x0902 ([bandStNo (bandMk.band 0).st, (bandMk.band 0).dcls, (bandMk.band 0).first] ++ bandMk.bandOwner 0)).length }] }, rfl, rfl, rfl, by decide +kernel, by decide +kernel, Nat.le_refl _⟩

theorem wit_poolInfo : ∃ (rq : ReqId) (r : Req) (s : State), (s.started rq 0x0903 = some r) ∧
    (r.args.length = 0) ∧ (((List.range s.nact).flatMap fun a => leBytes 4 (s.get (R.MMG_POOL_FREE a)) ++ leBytes 4 (s.get
    (R.MMG_HELD_HELD a)) ++ leBytes 4 (s.get (V.mmgSpare0 a))).length ≤ r.limit) :=
  ⟨⟨10, 5⟩, rq0 0x0903 [], rqMk 0x0903 [] [], by decide +kernel⟩

theorem wit_altQueue : ∃ (rq : ReqId) (r : Req) (s : State), (s.started rq 0x0904 = some r) ∧
    (r.args.length = 0) ∧ ((s.demands.flatMap fun d => leBytes 4 d.head ++ leBytes 4 d.zone ++ leBytes 4 d.dcls).length ≤
    r.limit) :=
  ⟨⟨10, 5⟩, rq0 0x0904 [], rqMk 0x0904 [] [], by decide +kernel⟩

theorem wit_groupSet : ∃ (rq : ReqId) (r : Req) (s : State), (s.started rq 0x0A02 = some r) ∧ (r.args.length = 128) ∧
    (s.get R.PWK_CTL_ACT = 0) :=
  ⟨⟨10, 5⟩, rq0 0x0A02 (List.replicate 128 1), rqMk 0x0A02 (List.replicate 128 1) [], by decide +kernel⟩

theorem wit_groupStatus : ∃ (rq : ReqId) (r : Req) (s : State), (s.started rq 0x0A03 = some r) ∧
    (r.args.length = 0) ∧ ((leBytes 4 (s.get V.pwkEpoch) ++ s.leaderSerial ++ leBytes 1 s.members.length ++
    s.members.flatMap fun p => p.serial).length ≤ r.limit) :=
  ⟨⟨10, 5⟩, rq0 0x0A03 [], rqMk 0x0A03 [] [], by decide +kernel⟩

theorem wit_peerHello : ∃ (rq : ReqId) (r : Req) (s : State), (s.started rq 0x0A04 = some r) ∧
    (s.fromMember r.mb = true) ∧ ((Config.helloForm (getBytes s.group 0 16) serial (s.get V.pwkEpoch) 28 4 4).length ≤
    r.limit) :=
  ⟨⟨10, 5⟩, { rq0 0x0A04 [] with limit := (Config.helloForm (getBytes helloMk.group 0 16) serial (helloMk.get V.pwkEpoch) 28 4 4).length }, { helloMk with reqs := [{ rq0 0x0A04 [] with limit := (Config.helloForm (getBytes helloMk.group 0 16) serial (helloMk.get V.pwkEpoch) 28 4 4).length }] }, rfl, by decide, Nat.le_refl _⟩

theorem wit_adopt : ∃ (rq : ReqId) (r : Req) (s : State), (s.started rq 0x0A05 = some r) ∧ (r.args.length = 20) ∧
    (s.get R.PWK_CTL_ACT = 1) ∧ (s.peerAdopt.contains r.args = false) :=
  ⟨⟨10, 5⟩, rq0 0x0A05 (List.replicate 20 1), rqMk 0x0A05 (List.replicate 20 1) [(R.PWK_CTL_ACT, 1)], by decide +kernel⟩

theorem wit_srcRoute : ∃ (rq : ReqId) (r : Req) (s : State), (s.started rq 0x0C00 = some r) ∧ (r.args.length = 8) ∧
    (fieldAt r.args 0 2 < 512) ∧ (fieldAt r.args 2 1 < 64) ∧ (fieldAt r.args 3 1 < 64) ∧ (fieldAt r.args 4 1 ≤ 1) ∧
    (fieldAt r.args 5 3 = 0) ∧ (10 ≤ r.mb → fieldAt r.args 2 1 = r.mb) :=
  ⟨⟨10, 5⟩, rq0 0x0C00 [0, 0, 10, 9, 1, 0, 0, 0], rqMk 0x0C00 [0, 0, 10, 9, 1, 0, 0, 0] [], by decide +kernel⟩

theorem wit_srcRead : ∃ (rq : ReqId) (r : Req) (s : State), (s.started rq 0x0C01 = some r) ∧ (r.args.length = 2) ∧
    (fieldAt r.args 0 2 < 512) ∧ ((leBytes 4 (s.srcEntry (fieldAt r.args 0 2))).length ≤ r.limit) :=
  ⟨⟨10, 5⟩, rq0 0x0C01 [0, 0], rqMk 0x0C01 [0, 0] [], by decide +kernel⟩

theorem wit_doorbell : ∃ (rq : ReqId) (r : Req) (s : State), (s.started rq 0x0C02 = some r) ∧ (r.args.length = 1) ∧
    (fieldAt r.args 0 1 < 64) :=
  ⟨⟨10, 5⟩, rq0 0x0C02 [3], rqMk 0x0C02 [3] [], by decide +kernel⟩

theorem wit_softSource : ∃ (rq : ReqId) (r : Req) (s : State), (s.started rq 0x0C03 = some r) ∧
    (r.args.length = 2) ∧ (fieldAt r.args 0 1 < 16) ∧ (fieldAt r.args 1 1 ≤ 1) :=
  ⟨⟨10, 5⟩, rq0 0x0C03 [3, 1], rqMk 0x0C03 [3, 1] [], by decide +kernel⟩

theorem wit_bankClaim : ∃ (rq : ReqId) (r : Req) (s : State), (s.started rq 0x0C04 = some r) ∧ (r.args.length = 8) :=
  ⟨⟨10, 5⟩, rq0 0x0C04 (List.replicate 8 1), rqMk 0x0C04 (List.replicate 8 1) [], by decide +kernel⟩

theorem wit_bankDone : ∃ (rq : ReqId) (r : Req) (s : State), (s.started rq 0x0C05 = some r) ∧ (r.args.length = 8) :=
  ⟨⟨10, 5⟩, rq0 0x0C05 (List.replicate 8 1), rqMk 0x0C05 (List.replicate 8 1) [], by decide +kernel⟩

/-! ### KeyValueAndPeerGroupCommandsComplete -/

theorem wit_flush : ∃ (id : CmdId) (nsid : BitVec 32) (ns : Ns) (u : State) (s : State), (s.takes id [] 0 = true) ∧
    (u = s.took id nsid.toNat []) ∧ (nsid.toNat ≠ 0xFFFFFFFF) ∧ (u.readyNs id s.cmdNo nsid.toNat [0, 1,
    2] = some ns) ∧ ((u.dirtyOf nsid.toNat).any u.actDown = false) :=
  ⟨ cid1, 1, nsOk 0, State.took (ioMk 0 []) cid1 1 [], ioMk 0 [], by decide +kernel⟩

theorem wit_store : ∃ (id : CmdId) (nsid : BitVec 32) (key value : List Byte) (ifExists ifNew fua : Bool) (ns : Ns) (u v
    : State) (a : Nat) (bs : List Byte) (s : State), (s.takes id [.key nsid.toNat key true] (ceilDiv value.length 4096)
    = true) ∧ (u = s.took id nsid.toNat [.key nsid.toNat key true]) ∧ (u.readyNs id s.cmdNo nsid.toNat [1] = some ns) ∧
    (u.get R.TRU_CTL_EN = 1) ∧ (1 ≤ key.length ∧ key.length ≤ 16) ∧ (ns.obj = false) ∧ (ns.prot = false) ∧ (value.length
    ≤ 2097152) ∧ (v = u.partRead 13 2 (nsid.toNat * 2 ^ 128 + keyNum key) 64) ∧ (a = State.kvAct ns nsid.toNat (keyNum
    key)) ∧ (bs = kvStored ns key (kvPayload ns value)) ∧ (v.actDown a = false) ∧ (ifExists = true → v.kvEnt nsid.toNat
    (keyNum key) ≠ none) ∧ (ifNew = true → v.kvEnt nsid.toNat (keyNum key) = none) ∧ (v.idxCount < idxMax) ∧ (bs ≠ [] →
    v.kvAlloc nsid.toNat a (ceilDiv bs.length 4096) ≠ none) :=
  ⟨cid1, 1, [1], [2], false, false, false, kvNs, kvTook kvMk true, (kvTook kvMk true).showPkt, 0, kvStored kvNs [1]
    (kvPayload kvNs [2]), kvMk, by decide +kernel, by decide +kernel, by decide +kernel, by decide +kernel,
    by decide +kernel, by decide +kernel, by decide +kernel, by decide +kernel, (partRead_off _ _ _ _ _ rfl (by decide +kernel) (by decide +kernel)).symm,  by decide +kernel⟩

theorem wit_retrieve : ∃ (id : CmdId) (nsid : BitVec 32) (key : List Byte) (ns : Ns) (e : KvEnt) (u v : State) (s :
    State), (s.takes id [.key nsid.toNat key false] 0 = true) ∧ (u = s.took id nsid.toNat [.key nsid.toNat key false]) ∧
    (u.readyNs id s.cmdNo nsid.toNat [1] = some ns) ∧ (u.get R.TRU_CTL_EN = 1) ∧ (1 ≤ key.length ∧ key.length ≤ 16) ∧
    (ns.obj = true → objKind key ≠ 0) ∧ (v = u.partRead 13 2 (nsid.toNat * 2 ^ 128 + keyNum key) 64) ∧ (v.kvEnt
    nsid.toNat (keyNum key) = some e) ∧ (e.comm = true) :=
  ⟨cid1, 1, [1], nsOk 1, { kvE none with comm := true }, kvTook kvComm false, (kvTook kvComm false).showPkt, kvComm,
    by decide +kernel, by decide +kernel, by decide +kernel, by decide +kernel, by decide +kernel, by decide +kernel,
    (partRead_off _ _ _ _ _ rfl (by decide +kernel) (by decide +kernel)).symm,  by decide +kernel⟩

theorem wit_retrieve_2 : ∃ (id : CmdId) (nsid : BitVec 32) (key : List Byte) (ns : Ns) (e : KvEnt) (u v : State) (c :
    Cmd) (js : List (Nat × Job)) (s : State), (s.takes id [.key nsid.toNat key false] 0 = true) ∧ (u = s.took id
    nsid.toNat [.key nsid.toNat key false]) ∧ (u.readyNs id s.cmdNo nsid.toNat [1] = some ns) ∧ (u.get R.TRU_CTL_EN = 1)
    ∧ (1 ≤ key.length ∧ key.length ≤ 16) ∧ (ns.obj = true → objKind key ≠ 0) ∧ (v = u.partRead 13 2 (nsid.toNat * 2 ^
    128 + keyNum key) 64) ∧ (v.kvEnt nsid.toNat (keyNum key) = some e) ∧ (e.comm = false) ∧ (v.entStripes nsid.toNat e =
    []) ∧ (v.actDown (State.kvAct ns nsid.toNat (keyNum key)) = false) ∧ ((e.loc.any fun l => v.anyLost nsid.toNat l
    (ceilDiv e.slen 4096)) = false) ∧ (c = s.takenCmd id nsid.toNat [.key nsid.toNat key false]) ∧ (js = v.granuleJobs c
    nsid.toNat e.loc (ceilDiv e.slen 4096)) ∧ (js = []) :=
  ⟨cid1, 1, [1], nsOk 1, kvE none, kvTook (kvHas none) false, (kvTook (kvHas none) false).showPkt, State.takenCmd
    (kvHas none) cid1 1 [.key 1 [1] false], ((kvTook (kvHas none) false).showPkt).granuleJobs (State.takenCmd
    (kvHas none) cid1 1 [.key 1 [1] false]) 1 none 1, kvHas none, by decide +kernel, by decide +kernel,
    by decide +kernel, by decide +kernel, by decide +kernel, by decide +kernel, (partRead_off _ _ _ _ _ rfl
    (by decide +kernel) (by decide +kernel)).symm,  by decide +kernel⟩

theorem wit_retrieve_3 : ∃ (id : CmdId) (nsid : BitVec 32) (key : List Byte) (ns : Ns) (e : KvEnt) (u v : State) (c :
    Cmd) (js : List (Nat × Job)) (s : State), (s.takes id [.key nsid.toNat key false] 0 = true) ∧ (u = s.took id
    nsid.toNat [.key nsid.toNat key false]) ∧ (u.readyNs id s.cmdNo nsid.toNat [1] = some ns) ∧ (u.get R.TRU_CTL_EN = 1)
    ∧ (1 ≤ key.length ∧ key.length ≤ 16) ∧ (ns.obj = true → objKind key ≠ 0) ∧ (v = u.partRead 13 2 (nsid.toNat * 2 ^
    128 + keyNum key) 64) ∧ (v.kvEnt nsid.toNat (keyNum key) = some e) ∧ (e.comm = false) ∧ (v.entStripes nsid.toNat e =
    []) ∧ (v.actDown (State.kvAct ns nsid.toNat (keyNum key)) = false) ∧ ((e.loc.any fun l => v.anyLost nsid.toNat l
    (ceilDiv e.slen 4096)) = false) ∧ (c = s.takenCmd id nsid.toNat [.key nsid.toNat key false]) ∧ (js = v.granuleJobs c
    nsid.toNat e.loc (ceilDiv e.slen 4096)) ∧ (js ≠ []) :=
  ⟨cid1, 1, [1], nsOk 1, kvE (some 5), kvTook (kvHas (some 5)) false, (kvTook (kvHas (some 5)) false).showPkt,
    State.takenCmd (kvHas (some 5)) cid1 1 [.key 1 [1] false], ((kvTook (kvHas (some 5)) false).showPkt).granuleJobs
    (State.takenCmd (kvHas (some 5)) cid1 1 [.key 1 [1] false]) 1 (some 5) 1, kvHas (some 5), by decide +kernel,
    by decide +kernel, by decide +kernel, by decide +kernel, by decide +kernel, by decide +kernel, (partRead_off _ _ _ _
    _ rfl (by decide +kernel) (by decide +kernel)).symm,  by decide +kernel⟩

theorem wit_kvDelete : ∃ (id : CmdId) (nsid : BitVec 32) (key : List Byte) (ns : Ns) (e : KvEnt) (u v : State) (a : Nat)
    (s : State), (s.takes id [.key nsid.toNat key true] 0 = true) ∧ (u = s.took id nsid.toNat [.key nsid.toNat key
    true]) ∧ (u.readyNs id s.cmdNo nsid.toNat [1] = some ns) ∧ (u.get R.TRU_CTL_EN = 1) ∧ (1 ≤ key.length ∧ key.length ≤
    16) ∧ (ns.obj = true → objKind key ≠ 0) ∧ (v = u.partRead 13 2 (nsid.toNat * 2 ^ 128 + keyNum key) 64) ∧ (v.kvEnt
    nsid.toNat (keyNum key) = some e) ∧ (a = State.kvAct ns nsid.toNat (keyNum key)) ∧ (v.actDown a = false) :=
  ⟨cid1, 1, [1], nsOk 1, kvE none, kvTook (kvHas none) true, (kvTook (kvHas none) true).showPkt, 0, kvHas none,
    by decide +kernel, by decide +kernel, by decide +kernel, by decide +kernel, by decide +kernel, by decide +kernel,
    (partRead_off _ _ _ _ _ rfl (by decide +kernel) (by decide +kernel)).symm,  by decide +kernel⟩

theorem wit_exist : ∃ (id : CmdId) (nsid : BitVec 32) (key : List Byte) (ns : Ns) (u v : State) (s : State), (s.takes id
    [.key nsid.toNat key false] 0 = true) ∧ (u = s.took id nsid.toNat [.key nsid.toNat key false]) ∧ (u.readyNs id
    s.cmdNo nsid.toNat [1] = some ns) ∧ (u.get R.TRU_CTL_EN = 1) ∧ (1 ≤ key.length ∧ key.length ≤ 16) ∧ (ns.obj = true →
    objKind key ≠ 0) ∧ (v = u.partRead 13 2 (nsid.toNat * 2 ^ 128 + keyNum key) 64) :=
  ⟨cid1, 1, [1], nsOk 1, kvTook (ioMk 1 []) false, (kvTook (ioMk 1 []) false).showPkt, ioMk 1 [], by decide +kernel,
    by decide +kernel, by decide +kernel, by decide +kernel, by decide +kernel, by decide +kernel, (partRead_off _ _ _ _ _ rfl (by decide +kernel) (by decide +kernel)).symm⟩

theorem wit_list : ∃ (id : CmdId) (nsid : BitVec 32) (first : List Byte) (ns : Ns) (u : State) (s : State),
    (s.takes id [.keys nsid.toNat] 0 = true) ∧ (u = s.took id nsid.toNat [.keys nsid.toNat]) ∧
    (u.readyNs id s.cmdNo nsid.toNat [1] = some ns) ∧ (u.get R.TRU_CTL_EN = 1) ∧ (first.length ≤ 16) :=
  ⟨ cid1, 1, [1], nsOk 1, State.took (ioMk 1 []) cid1 1 [.keys 1], ioMk 1 [], by decide +kernel⟩

theorem wit_pwkAct : ∃ (s : State), (s.get R.TRU_CTL_EN = 1) ∧ (s.groupBad = false) ∧ (s.grpK + s.grpM ≤ 32 ∧
    s.grpK + s.grpM ≤ s.pgrp 0x12 1) ∧ (s.nss.any (fun e => (e.2.map (·.frag)).getD false) = true) ∧
    (s.get R.FAB_CTL_EN = 1) ∧ (s.transportOn (s.pgrp 0x1A 1) = true) ∧ (s.get R.PWK_CTL_ACT = 0) :=
  ⟨{ grpMk [(R.PWK_CTL_ACT, 0), (R.TRU_CTL_EN, 1), (R.FAB_CTL_EN, 1)] with nss := [(1, some { nsRec with frag := true })], opt := putBytes [] 0x87 [2] }, by decide +kernel⟩

theorem wit_discoveryPoll : ∃ (log : List Found) (s : State), (s.get R.PWK_CTL_ACT = 1) :=
  ⟨[], grpMk [], by decide⟩

theorem wit_discoveryLogPageChange : ∃ (log : List Found) (s : State), (s.get R.PWK_CTL_ACT = 1) :=
  ⟨[], grpMk [], by decide⟩

theorem wit_discoveryLogPageChange_2 : ∃ (x : Found) (s : State), (s.get R.PWK_CTL_ACT = 1) ∧ (x.lamcel = true) ∧
    (x.serial ≠ serial) ∧ (s.authFail.contains x.addr = false) ∧ (x.authOk = true) ∧ (s.isMember x.serial = false) ∧
    (x.gid = getBytes s.group 0 16) ∧ (s.grpK ≤ x.kMax) ∧ (s.grpM ≤ x.mMax) ∧ (s.pgrp 0x13 1 ≤ x.fMax) ∧
    (s.cands.any (fun p => decide (p.serial = x.serial)) = false) :=
  ⟨⟨true, [1], true, leBytes 16 1, [1], 0, 32, 8, 4⟩, grpMk [], by decide +kernel, rfl, by intro h; have := congrArg List.length h; simp [serial] at this, by decide +kernel, rfl, by decide +kernel, by decide +kernel, by decide +kernel, by decide +kernel, by decide +kernel, by decide +kernel⟩

theorem wit_candidateAuthRetry : ∃ (x : Found) (s : State), (s.get R.PWK_CTL_ACT = 1) ∧
    (s.authFail.contains x.addr = true) :=
  ⟨⟨true, [1], true, [], [1], 0, 32, 8, 4⟩, { grpMk [] with authFail := [[1]] }, by decide +kernel⟩

theorem wit_peerTimeout : ∃ (sn : List Byte) (p : Peer) (s : State),
    ((s.members.find? fun p => decide (p.serial = sn) && p.heard && decide (sn ≠ serial)) = some p) :=
  ⟨[1], peer1, { grpMk [] with members := [peer1] }, by
    have : ([1] : List Byte) ≠ serial := by intro h; have := congrArg List.length h; simp [serial] at this
    simpa [peer1] using this⟩

theorem wit_epochPropose : ∃ (s : State), (s.leads = true) ∧ (s.proposal = none) ∧
    (s.wantMembers ≠ s.members.map (·.serial)) :=
  ⟨{ grpMk [] with members := [{ peer1 with serial := serial }], cands := [peer1] }, leads_alone _ _ (by decide +kernel) rfl rfl, rfl, by
    intro h
    have h1 : State.pgrp { grpMk [] with members := [{ peer1 with serial := serial }], cands := [peer1] } 0x12 1 = 32 := by decide +kernel
    have := congrArg List.length h
    simp [State.wantMembers, h1] at this⟩

theorem wit_epochRepropose : ∃ (p : Proposal) (s : State), (s.leads = true) ∧ (s.proposal = some p) ∧ (p.mine = true) :=
  ⟨⟨1, [], [], true, true⟩, { grpMk [] with members := [{ peer1 with serial := serial }], proposal := some ⟨1, [], [], true, true⟩ }, leads_alone _ _ (by decide +kernel) rfl rfl, rfl, rfl⟩

theorem wit_proposalReceive : ∃ (e : BitVec 32) (ms : List (List Byte)) (s : State), (s.get R.PWK_CTL_ACT = 1) ∧
    (epochNewer e.toNat (s.get V.pwkEpoch) = true) ∧ (epochNewer e.toNat (s.get V.pwkAcked) = true) :=
  ⟨ 5, [], grpMk [], by decide +kernel⟩

theorem wit_proposalAckReceive : ∃ (e : BitVec 32) (sn : List Byte) (p : Proposal) (s : State),
    (s.proposal = some p) ∧ (p.mine = true) ∧ (p.epoch = e.toNat) ∧ (p.acks.contains sn = false) :=
  ⟨ 5, [1], ⟨5, [[1]], [], true, true⟩, { grpMk [] with proposal := some ⟨5, [[1]], [], true, true⟩ }, by decide +kernel⟩

theorem wit_epochCommitReceive : ∃ (e : BitVec 32) (p : Proposal) (s : State), (s.proposal = some p) ∧
    (p.mine = false) ∧ (p.epoch = e.toNat) ∧ (s.stripes = []) :=
  ⟨ 5, ⟨5, [[1]], [], false, true⟩, { grpMk [] with proposal := some ⟨5, [[1]], [], false, true⟩ }, by decide +kernel⟩

theorem wit_proposalVoid : ∃ (p : Proposal) (s : State), (s.proposal = some p) ∧ (p.mine = false) :=
  ⟨ ⟨5, [[1]], [], false, true⟩, { grpMk [] with proposal := some ⟨5, [[1]], [], false, true⟩ }, by decide +kernel⟩

theorem wit_fragmentStoreAck : ∃ (no : Nat) (i : Fin 32) (ok : Bool) (x : Stripe) (f : Frag) (s : State),
    ((s.stripes.find? fun y => decide (y.no = no)) = some x) ∧ (x.frags[i.val]? = some f) ∧ (f.st = 0) :=
  ⟨3, 0, true, ⟨3, 1, 0, 100, 0, 0, [⟨[1], 0, false, none⟩], [], true, false, []⟩, ⟨[1], 0, false, none⟩,
    { grpMk [] with stripes := [⟨3, 1, 0, 100, 0, 0, [⟨[1], 0, false, none⟩], [], true, false, []⟩] },
    by decide +kernel⟩

theorem wit_fragmentTimeout : ∃ (no : Nat) (i : Fin 32) (x : Stripe) (f g : Frag) (js : List Job) (s : State),
    ((s.stripes.find? fun y => decide (y.no = no)) = some x) ∧ (x.frags[i.val]? = some f) ∧ (s.grpK ≤
    (x.frags.zipIdx.filter fun p => decide (p.2 ≠ i.val ∧ p.1.st = 1) && !p.1.bad && s.isMember p.1.holder).length) ∧
    (js = s.rung6Of no i) ∧ (g = { f with bad := false, loc := if js = [] then f.loc else none }) :=
  ⟨3, 0, ⟨3, 1, 0, 100, 0, 0, [⟨[1], 0, false, none⟩], [], true, false, []⟩, ⟨[1], 0, false, none⟩, ⟨[1], 0, false,
    none⟩, [], { mk [] with stripes := [⟨3, 1, 0, 100, 0, 0, [⟨[1], 0, false, none⟩], [], true, false, []⟩] },
    by decide +kernel⟩

theorem wit_rebuildFragment : ∃ (x : Stripe) (m : List Byte) (i : Nat) (s : State), (s.nextRebuild = some x) ∧
    (s.spareHolder x = some m) ∧ ((List.range x.frags.length).find? (fun i => !s.isMember (x.frags.getD i ⟨serial, 1,
    false, none⟩).holder) = some i) :=
  ⟨rebSt, [5], 4, { grpMk [] with members := ([[1], [2], [3], [4], [5]] : List (List Byte)).map (fun x => { peer1 with serial := x }), stripes := [rebSt] }, by decide +kernel, spare_one _ _ _ (by decide) (by decide) (by decide), by decide +kernel⟩

/-! ### ComputeCommandsComplete -/

theorem wit_loadProgram : ∃ (id : CmdId) (nsid : BitVec 32) (slot ptype : BitVec 8) (image : List (BitVec 64)) (u : State)
    (s : State), (s.takes id [] 0 = true) ∧ (u = s.took id 0 []) ∧ (1016 ≤ nsid.toNat ∧ nsid.toNat < 1024) ∧
    (u.trackA = true) ∧ (u.get R.TRU_CTL_EN = 1) ∧ (slot.toNat < 16) ∧ (ptype = 0x80) ∧
    (verifyImage (image.map (·.toNat)) = true) :=
  ⟨ cid1, 1016, 0, 0x80, [0x95], State.took (coreMk []) cid1 0 [], coreMk [], by decide +kernel⟩

theorem wit_programActivationManagement : ∃ (id : CmdId) (nsid : BitVec 32) (slot : BitVec 8) (activate : Bool) (p : Prog)
    (u : State) (s : State), (s.takes id [] 0 = true) ∧ (u = s.took id 0 []) ∧ (1016 ≤ nsid.toNat ∧
    nsid.toNat < 1024) ∧ (u.trackA = true) ∧ (u.get R.TRU_CTL_EN = 1) ∧ (slot.toNat < 16) ∧
    (u.prog (nsid.toNat - 1016) slot.toNat = some p) :=
  ⟨ cid1, 1016, 0, true, ⟨[0x95], false⟩, State.took ({ coreMk [] with progs := [(0, some ⟨[0x95], false⟩)] }) cid1 0 [], { coreMk [] with progs := [(0, some ⟨[0x95], false⟩)] }, by decide +kernel⟩

theorem wit_executeProgram : ∃ (id : CmdId) (nsid : BitVec 32) (slot rset : BitVec 8) (dw12 dw13 dw14 dw15 : BitVec 32) (p :
    Prog) (u : State) (s : State), (s.takes id [] 0 = true) ∧ (u = s.took id nsid.toNat []) ∧
    (1016 ≤ nsid.toNat ∧ nsid.toNat < 1024) ∧ (u.trackA = true) ∧ (u.get R.TRU_CTL_EN = 1) ∧ (slot.toNat < 16) ∧
    (rset = 0) ∧ (u.prog (nsid.toNat - 1016) slot.toNat = some p) ∧ (p.active = true) ∧
    ((Tab.at none u.progRuns (nsid.toNat - 1016)).isSome = false) ∧ (u.cmds.any (fun d => decide (d.nsid = nsid.toNat ∧
    d.no < s.cmdNo)) = false) :=
  ⟨ cid1, 1016, 0, 0, 0, 0, 0, 0, ⟨[0x95], true⟩, State.took ({ coreMk [] with progs := [(0, some ⟨[0x95], true⟩)] }) cid1 1016 [], { coreMk [] with progs := [(0, some ⟨[0x95], true⟩)] }, by decide +kernel⟩

theorem wit_memoryRangeSetManagement : ∃ (id : CmdId) (nsid : BitVec 32) (rset : BitVec 16) (ranges : List (BitVec 64 ×
    BitVec 64)) (i : Nat) (u : State) (s : State), (s.takes id [] 0 = true) ∧ (u = s.took id 0 []) ∧
    (1016 ≤ nsid.toNat ∧ nsid.toNat < 1024) ∧ (u.trackA = true) ∧ (u.get R.TRU_CTL_EN = 1) ∧
    (1 ≤ ranges.length ∧ ranges.length ≤ 16) ∧ (∀ r ∈ ranges, r.1.toNat % 4096 = 0 ∧ r.2.toNat % 4096 = 0 ∧
    r.2.toNat ≠ 0 ∧ r.1.toNat + r.2.toNat ≤ memSize) ∧
    (((List.range 256).map (· + 1)).find? (fun i => !(u.rsets.any fun e => decide (e.1 = i))) = some i) :=
  ⟨cid1, 1016, 0, [(0, 4096)], 1, State.took (coreMk []) cid1 0 [], coreMk [], by decide +kernel, rfl, by decide,
    by decide +kernel, by decide +kernel, by decide, by intro r hr; obtain rfl := List.mem_singleton.mp hr; decide +kernel,
    by decide +kernel⟩

theorem wit_memoryRangeSetManagement_2 : ∃ (id : CmdId) (nsid : BitVec 32) (rset : BitVec 16) (u : State) (s : State),
    (s.takes id [] 0 = true) ∧ (u = s.took id 0 []) ∧ (1016 ≤ nsid.toNat ∧ nsid.toNat < 1024) ∧ (u.trackA = true) ∧
    (u.get R.TRU_CTL_EN = 1) ∧ (u.rsets.any (fun e => decide (e.1 = rset.toNat)) = true) :=
  ⟨ cid1, 1016, 1, State.took ({ coreMk [] with rsets := [(1, [(0, 4096)])] }) cid1 0 [], { coreMk [] with rsets := [(1, [(0, 4096)])] }, by decide +kernel⟩

theorem wit_memoryRead : ∃ (id : CmdId) (nsid : BitVec 32) (off : BitVec 64) (len : BitVec 32) (u : State) (s : State),
    (s.takes id [.mem off.toNat len.toNat false] 0 = true) ∧
    (u = s.took id nsid.toNat [.mem off.toNat len.toNat false]) ∧ (nsid = 1024) ∧ (u.trackA = true) ∧
    (1 ≤ len.toNat ∧ len.toNat ≤ 2097152) ∧ (off.toNat + len.toNat ≤ memSize) ∧
    (u.memBad (slmBase + off.toNat) len.toNat = false) :=
  ⟨ cid1, 1024, 0, 4, State.took (coreMk []) cid1 1024 [.mem 0 4 false], coreMk [], by decide +kernel⟩

theorem wit_memoryWrite : ∃ (id : CmdId) (nsid : BitVec 32) (off : BitVec 64) (data : List Byte) (u : State) (s : State),
    (s.takes id [.mem off.toNat data.length true] 0 = true) ∧
    (u = s.took id nsid.toNat [.mem off.toNat data.length true]) ∧ (nsid = 1024) ∧ (u.trackA = true) ∧
    (1 ≤ data.length ∧ data.length ≤ 2097152) ∧ (off.toNat + data.length ≤ memSize) :=
  ⟨ cid1, 1024, 0, [1], State.took (coreMk []) cid1 1024 [.mem 0 1 true], coreMk [], by decide +kernel⟩

theorem wit_memoryCopy : ∃ (id : CmdId) (nsid : BitVec 32) (dst src : BitVec 64) (n : Nat) (u : State) (s : State),
    (s.takes id [.mem src.toNat n false, .mem dst.toNat n true] 0 = true) ∧
    (u = s.took id nsid.toNat [.mem src.toNat n false, .mem dst.toNat n true]) ∧ (nsid = 1024) ∧ (u.trackA = true) ∧
    (1 ≤ n) ∧ (dst.toNat + n ≤ memSize) ∧ (src.toNat + n ≤ memSize) ∧ (u.memBad (slmBase + src.toNat) n = false) :=
  ⟨ cid1, 1024, 64, 0, 4, State.took (coreMk []) cid1 1024 [.mem 0 4 false, .mem 64 4 true], coreMk [], by decide +kernel⟩

theorem wit_truEnable : ∃ (defaultsOk : Bool) (s : State), (s.get R.CMD_CTL_EN = 1) ∧ (defaultsOk = true) ∧
    (s.get R.TRU_CTL_EN = 0) :=
  ⟨true, mk [(R.CMD_CTL_EN, 1)], by decide⟩

theorem wit_hbmUncorrectable : ∃ (k : Fin 2) (adr : BitVec 35) (cls : Fin 16) (a : Act) (s : State),
    (adr.toNat / 1073741824 = 24) :=
  ⟨0, 25769803776, 0, 0, mk [], by decide⟩

theorem wit_helperCopy : ∃ (core : Fin 8) (r : Run) (s : State), (Tab.at none s.progRuns core = some r) ∧
    (r.helper = some 1) ∧ (r.range (r.reg 2) (r.reg 3) = true) ∧ (s.memBad (r.reg 2) (r.reg 3) = false) :=
  ⟨ 0, runMk 1 [0, slmBase, slmBase, 1, 0, 0, 0, 0, 0, 0, 0], helpMk 1 [0, slmBase, slmBase, 1, 0, 0, 0, 0, 0, 0, 0], by decide +kernel⟩

theorem wit_helperZcomp : ∃ (core : Fin 8) (r : Run) (s : State), (Tab.at none s.progRuns core = some r) ∧
    (r.helper = some 2) ∧ (r.range (r.reg 3) (r.reg 4) = true) ∧ (s.memBad (r.reg 3) (r.reg 4) = false) ∧
    (1 ≤ r.reg 5 ∧ r.reg 5 ≤ 3) :=
  ⟨ 0, runMk 2 [0, slmBase, 64, slmBase, 1, 1, 0, 0, 0, 0, 0], helpMk 2 [0, slmBase, 64, slmBase, 1, 1, 0, 0, 0, 0, 0], by decide +kernel⟩

theorem wit_helperZdecomp : ∃ (core : Fin 8) (r : Run) (s : State), (Tab.at none s.progRuns core = some r) ∧
    (r.helper = some 3) ∧ (r.range (r.reg 3) (r.reg 4) = true) ∧ (s.memBad (r.reg 3) (r.reg 4) = false) :=
  ⟨ 0, runMk 3 [0, slmBase, 64, slmBase, 1, 1, 0, 0, 0, 0, 0], helpMk 3 [0, slmBase, 64, slmBase, 1, 1, 0, 0, 0, 0, 0], by decide +kernel⟩

theorem wit_helperSha256 : ∃ (core : Fin 8) (r : Run) (s : State), (Tab.at none s.progRuns core = some r) ∧
    (r.helper = some 4) ∧ (r.range (r.reg 1) (r.reg 2) = true) ∧ (s.memBad (r.reg 1) (r.reg 2) = false) :=
  ⟨ 0, runMk 4 [0, slmBase, 1, slmBase, 0, 0, 0, 0, 0, 0, 0], helpMk 4 [0, slmBase, 1, slmBase, 0, 0, 0, 0, 0, 0, 0], by decide +kernel⟩

theorem wit_helperCrc32c : ∃ (core : Fin 8) (r : Run) (s : State), (Tab.at none s.progRuns core = some r) ∧
    (r.helper = some 5) ∧ (r.range (r.reg 1) (r.reg 2) = true) ∧ (s.memBad (r.reg 1) (r.reg 2) = false) :=
  ⟨ 0, runMk 5 [0, slmBase, 1, 0, 0, 0, 0, 0, 0, 0, 0], helpMk 5 [0, slmBase, 1, 0, 0, 0, 0, 0, 0, 0, 0], by decide +kernel⟩

theorem wit_helperOpsec : ∃ (core : Fin 8) (r : Run) (s : State), (Tab.at none s.progRuns core = some r) ∧
    (r.helper = some 6) :=
  ⟨ 0, runMk 6 [0, 0, 0, 0, 0, 0, 0, 0, 0, 0, 0], helpMk 6 [0, 0, 0, 0, 0, 0, 0, 0, 0, 0, 0], by decide +kernel⟩

/-! ### ConnectionAndIntakeCommandsComplete -/

theorem wit_durablePointStands : ∃ (a : Act) (copy : Fin 3) (b : Nat) (rest : List Nat) (s : State), (s.pointsOf a = b
    :: rest) ∧ (s.pointReady a b = true) :=
  ⟨0, 2, 0, [], { mk [] with points := [(0, [0])] }, by decide +kernel⟩

theorem wit_connect : ∃ (cid kk : BitVec 16) (entries : Nat) (kato : BitVec 32) (hostId : BitVec 128) (hostNqn : List Byte)
    (member : Bool) (conn : ConnData) (c : Nat) (s : State), (kk = 0xFFFF) ∧ (s.get R.CMD_CTL_EN = 1) ∧
    (s.ctrls.length < 256) ∧ (s.pairsUsed < 8192) ∧ (2 ≤ entries ∧ entries ≤ 32) ∧
    (katoOk kato.toNat = true) ∧ (((List.range 256).map (· + 1)).find? (fun c => (s.ctrl c).isNone) = some c) :=
  ⟨ 1, 0xFFFF, 32, 0, 5, [], false, ⟨false, 0, 0, 0, 0⟩, 1, mk [(R.CMD_CTL_EN, 1)], by decide +kernel⟩

theorem wit_connect_2 : ∃ (cid qid cntlid : BitVec 16) (entries : Nat) (kato : BitVec 32) (hostId : BitVec 128) (hostNqn :
    List Byte) (member : Bool) (conn : ConnData) (x : Ctrl) (s : State), (s.get R.CMD_CTL_EN = 1) ∧
    (qid.toNat ≠ 0) ∧ (s.ctrl cntlid.toNat = some x) ∧ (2 ≤ entries ∧ entries ≤ 4096) ∧ (qid.toNat ≤ x.pairs) :=
  ⟨ 1, 1, 1, 32, 0, 5, [], false, ⟨false, 0, 0, 0, 0⟩, ctl, hostMk [(R.CMD_CTL_EN, 1)], by decide +kernel⟩

theorem wit_disconnect : ∃ (c : BitVec 16) (x : Ctrl) (s : State), (s.ctrl c.toNat = some x) :=
  ⟨ 1, ctl, hostMk [], by decide +kernel⟩

theorem wit_controllerReset : ∃ (c : BitVec 16) (x : Ctrl) (s : State), (s.ctrl c.toNat = some x) ∧ (s.test = none) :=
  ⟨ 1, ctl, hostMk [], by decide +kernel⟩

theorem wit_katoExpiry : ∃ (c : BitVec 16) (x : Ctrl) (s : State), (s.ctrl c.toNat = some x) ∧ (x.kato ≠ 0) :=
  ⟨ 1, { ctl with kato := 5 }, { hostMk [] with ctrls := [(1, some { ctl with kato := 5 })] }, by decide +kernel⟩

theorem wit_keepAlive : ∃ (id : CmdId) (u : State) (s : State), (s.takes id [] 0 = true) ∧ (u = s.took id 0 []) :=
  ⟨ cid1, State.took (hostMk []) cid1 0 [], hostMk [], by decide +kernel⟩

theorem wit_abort : ∃ (id : CmdId) (sqid cid : BitVec 16) (inQueue : Bool) (c : Cmd) (u : State) (s : State),
    (s.takes id [] 0 = true) ∧ (u = s.took id 0 []) ∧ (u.cmdOf ⟨id.cntlid, sqid.toNat, cid.toNat⟩ = some c) ∧
    (c.stalled = true) :=
  ⟨ cid1, 0, 2, false, { stCmd with stalled := true }, State.took ({ hostMk [] with cmds := [{ stCmd with stalled := true }] }) cid1 0 [], { hostMk [] with cmds := [{ stCmd with stalled := true }] }, by decide +kernel⟩

theorem wit_abort_2 : ∃ (id : CmdId) (sqid cid : BitVec 16) (inQueue : Bool) (c : Cmd) (u : State) (s : State),
    (s.takes id [] 0 = true) ∧ (u = s.took id 0 []) ∧ (u.cmdOf ⟨id.cntlid, sqid.toNat, cid.toNat⟩ = some c) ∧
    (c.stalled = false) :=
  ⟨ cid1, 0, 2, false, stCmd, State.took ({ hostMk [] with cmds := [stCmd] }) cid1 0 [], { hostMk [] with cmds := [stCmd] }, by decide +kernel⟩

theorem wit_asynchronousEventRequest : ∃ (id : CmdId) (x : Ctrl) (u : State) (s : State), (s.takes id [] 0 = true) ∧
    (u = s.took id 0 []) ∧ (u.ctrl id.cntlid = some x) ∧ (x.notices = []) ∧ (x.aers.length < 16) :=
  ⟨ cid1, ctl, State.took (hostMk []) cid1 0 [], hostMk [], by decide +kernel⟩

theorem wit_asynchronousEventRequest_2 : ∃ (id : CmdId) (x : Ctrl) (n : Nat) (l : List Nat) (u : State) (s : State),
    (s.takes id [] 0 = true) ∧ (u = s.took id 0 []) ∧ (u.ctrl id.cntlid = some x) ∧ (x.notices = n :: l) :=
  ⟨ cid1, { ctl with notices := [3] }, 3, [], State.took ({ hostMk [] with ctrls := [(1, some { ctl with notices := [3] })] }) cid1 0 [], { hostMk [] with ctrls := [(1, some { ctl with notices := [3] })] }, by decide +kernel⟩

theorem wit_unsupportedOpcode : ∃ (id : CmdId) (u : State) (s : State), (s.takes id [] 0 = true) ∧ (u = s.took id 0 []) :=
  ⟨ cid1, State.took (hostMk []) cid1 0 [], hostMk [], by decide +kernel⟩

theorem wit_intakeVisit : ∃ (waiting : List Waiting) (full : Bool) (c q : Nat) (rest : List (Nat × Nat)) (x : Ctrl) (v :
    State) (s : State), (s.visit = (c, q) :: rest) ∧ (s.ctrl c = some x) ∧ (s.pauseWhy 0 0 full = 0) ∧
    (State.takeList full ((waiting.filter fun w => decide (w.id.cntlid = c ∧
    w.id.qid = q) && (s.cmdOf w.id).isNone).take 8) s = (v, true)) :=
  ⟨ [], false, 1, 0, [], ctl, { hostMk [] with visit := [(1, 0)] }, { hostMk [] with visit := [(1, 0)] }, by decide +kernel⟩

theorem wit_turnstileRelease : ∃ (id : CmdId) (c : Cmd) (s : State), (s.cmdOf id = some c) ∧ (c.stalled = true) ∧
    (s.canRun c = true) :=
  ⟨ ⟨1, 0, 2⟩, { stCmd with stalled := true }, { hostMk [] with cmds := [{ stCmd with stalled := true }] }, by decide +kernel⟩

theorem wit_jugglerPick : ∃ (a : Act) (w : BitVec 16) (j : Job) (aged : Bool) (s : State),
    (s.get (R.CMD_JQ_HELD a) = 0) ∧ (s.get (R.CMD_JQ_WHY a) = 0) ∧ (s.get (R.CHN_REPLAY_HOLD a) = 0) ∧
    (s.jobOf a = none) ∧ ((s.seqr a).returned = none) ∧ (s.actDown a = false) ∧
    (s.get (R.SEQ_STAT_STATE a) ≠ seqMCHK) ∧ (s.jugglerChoice a w.toNat = some (j, aged)) :=
  ⟨ 0, 0, jb, false, { mk [] with jq := [(0, [jb])] }, by decide +kernel⟩

theorem wit_cmdEnable : ∃ (s : State), (s.get R.MMG_CTL_EN = 1) ∧ (50 ≤ s.get R.CMD_JUG_AGE_MS ∧
    s.get R.CMD_JUG_AGE_MS ≤ 60000) ∧ (s.get R.CMD_JUG_SEEK_MARGIN ≤ 32) ∧
    ((List.range s.nact).any s.profileBad = false) ∧ (s.get R.CMD_CTL_EN = 0) :=
  ⟨ mk [(R.MMG_CTL_EN, 1), (R.CMD_JUG_AGE_MS, 100)], by decide +kernel⟩

/-! ### AdminCommandsComplete -/

theorem wit_nvmeIdentify : ∃ (id : CmdId) (csi : BitVec 8) (nsid : BitVec 32) (u : State) (s : State),
    (s.takes id [] 0 = true) ∧ (u = s.took id 0 []) :=
  ⟨ cid1, 0, 0, State.took (hostMk []) cid1 0 [], hostMk [], by decide +kernel⟩

theorem wit_nvmeIdentify_2 : ∃ (id : CmdId) (csi : BitVec 8) (nsid : BitVec 32) (u : State) (s : State),
    (s.takes id [] 0 = true) ∧ (u = s.took id 0 []) :=
  ⟨ cid1, 0, 0, State.took (hostMk []) cid1 0 [], hostMk [], by decide +kernel⟩

theorem wit_nvmeIdentify_3 : ∃ (id : CmdId) (csi : BitVec 8) (nsid : BitVec 32) (x : Ns) (u : State) (s : State),
    (s.takes id [] 0 = true) ∧ (u = s.took id 0 []) ∧ (1 ≤ nsid.toNat ∧ nsid.toNat < 1016) ∧
    (u.get R.RMC_STAT_IO_READY = 1) ∧ (u.ns nsid.toNat = some x) ∧ (x.att.contains id.cntlid = true) :=
  ⟨ cid1, 0, 1, nsOk 0, State.took (ioMk 0 []) cid1 0 [], ioMk 0 [], by decide +kernel⟩

theorem wit_getLogPage : ∃ (id : CmdId) (nsid : BitVec 32) (u : State) (s : State), (s.takes id [] 0 = true) ∧
    (u = s.took id 0 []) :=
  ⟨ cid1, 0, State.took (hostMk []) cid1 0 [], hostMk [], by decide +kernel⟩

theorem wit_getLogPage_2 : ∃ (id : CmdId) (nsid : BitVec 32) (u : State) (s : State), (s.takes id [] 0 = true) ∧
    (u = s.took id 0 []) :=
  ⟨ cid1, 0, State.took (hostMk []) cid1 0 [], hostMk [], by decide +kernel⟩

theorem wit_getLogPage_3 : ∃ (id : CmdId) (nsid : BitVec 32) (x : Ctrl) (u : State) (s : State),
    (s.takes id [] 0 = true) ∧ (u = s.took id 0 []) ∧ (u.ctrl id.cntlid = some x) :=
  ⟨ cid1, 0, ctl, State.took (hostMk []) cid1 0 [], hostMk [], by decide +kernel⟩

theorem wit_getFeatures : ∃ (id : CmdId) (nsid dw11 : BitVec 32) (x : Ctrl) (u : State) (s : State),
    (s.takes id [] 0 = true) ∧ (u = s.took id 0 []) ∧ (u.ctrl id.cntlid = some x) :=
  ⟨ cid1, 0, 0, ctl, State.took (hostMk []) cid1 0 [], hostMk [], by decide +kernel⟩

theorem wit_getFeatures_2 : ∃ (id : CmdId) (nsid dw11 : BitVec 32) (x : Ctrl) (u : State) (s : State),
    (s.takes id [] 0 = true) ∧ (u = s.took id 0 []) ∧ (u.ctrl id.cntlid = some x) :=
  ⟨ cid1, 0, 0, ctl, State.took (hostMk []) cid1 0 [], hostMk [], by decide +kernel⟩

theorem wit_arbitration : ∃ (id : CmdId) (u : State) (s : State), (s.takes id [] 0 = true) ∧ (u = s.took id 0 []) :=
  ⟨ cid1, State.took (hostMk []) cid1 0 [], hostMk [], by decide +kernel⟩

theorem wit_powerManagement : ∃ (id : CmdId) (ps : BitVec 5) (u : State) (s : State), (s.takes id [] 0 = true) ∧
    (u = s.took id 0 []) ∧ (ps.toNat ≤ 5) :=
  ⟨ cid1, 0, State.took (hostMk []) cid1 0 [], hostMk [], by decide +kernel⟩

theorem wit_temperatureThreshold : ∃ (id : CmdId) (tmpsel : BitVec 4) (under : Bool) (kelvin : BitVec 16) (x : Ctrl) (u :
    State) (s : State), (s.takes id [] 0 = true) ∧ (u = s.took id 0 []) ∧ (tmpsel.toNat ≤ 5) ∧
    (u.ctrl id.cntlid = some x) :=
  ⟨ cid1, 0, false, 300, ctl, State.took (hostMk []) cid1 0 [], hostMk [], by decide +kernel⟩

theorem wit_volatileWriteCache : ∃ (id : CmdId) (wce : Bool) (u : State) (s : State), (s.takes id [] 0 = true) ∧
    (u = s.took id 0 []) :=
  ⟨ cid1, true, State.took (hostMk []) cid1 0 [], hostMk [], by decide +kernel⟩

theorem wit_numberOfQueues : ∃ (id : CmdId) (nsq ncq : BitVec 16) (x : Ctrl) (g : Nat) (u : State) (s : State),
    (s.takes id [] 0 = true) ∧ (u = s.took id 0 []) ∧ (u.ctrl id.cntlid = some x) ∧ (x.noqSet = false) ∧
    (g = Nat.min (Nat.min nsq.toNat ncq.toNat + 1) (Nat.min 128 (x.pairs + (8192 - u.pairsUsed)))) :=
  ⟨ cid1, 3, 3, ctl, 4, State.took (hostMk []) cid1 0 [], hostMk [], by decide +kernel⟩

theorem wit_asynchronousEventConfiguration : ∃ (id : CmdId) (v : BitVec 32) (x : Ctrl) (u : State) (s : State),
    (s.takes id [] 0 = true) ∧ (u = s.took id 0 []) ∧ (u.ctrl id.cntlid = some x) :=
  ⟨ cid1, 3, ctl, State.took (hostMk []) cid1 0 [], hostMk [], by decide +kernel⟩

theorem wit_keepAliveTimer : ∃ (id : CmdId) (kato : BitVec 32) (x : Ctrl) (u : State) (s : State),
    (s.takes id [] 0 = true) ∧ (u = s.took id 0 []) ∧ (katoOk kato.toNat = true) ∧ (u.ctrl id.cntlid = some x) :=
  ⟨ cid1, 1000, ctl, State.took (hostMk []) cid1 0 [], hostMk [], by decide +kernel⟩

theorem wit_hostIdentifier : ∃ (id : CmdId) (v : BitVec 128) (x : Ctrl) (u : State) (s : State),
    (s.takes id [] 0 = true) ∧ (u = s.took id 0 []) ∧ (u.ctrl id.cntlid = some x) :=
  ⟨ cid1, 3, ctl, State.took (hostMk []) cid1 0 [], hostMk [], by decide +kernel⟩

theorem wit_latencyBudget : ∃ (id : CmdId) (nsid us : BitVec 32) (u : State) (s : State), (s.takes id [] 0 = true) ∧
    (u = s.took id 0 []) :=
  ⟨ cid1, 0xFFFFFFFF, 0, State.took (hostMk []) cid1 0 [], hostMk [], by decide +kernel⟩

/-! ### NamespaceCommandsComplete -/

theorem wit_namespaceCreate : ∃ (id : CmdId) (csi : BitVec 8) (nsze : BitVec 64) (n : Nat) (u : State) (s : State),
    (s.takes id [] 0 = true) ∧ (u = s.took id 0 []) ∧ (u.get R.RMC_STAT_IO_READY = 1) ∧ (csi.toNat ≤ 2) ∧
    (csi.toNat ≠ 1 → nsze.toNat ≠ 0) ∧ (csi.toNat = 2 → nsze.toNat % zoneSize = 0) ∧ (csi.toNat = 0 →
    nsze.toNat % 256 = 0) ∧ (u.freeNsid = some n) ∧ ((u.makeNs csi.toNat nsze.toNat false n).2 = stOk) :=
  ⟨ cid1, 1, 5, 1, State.took (hostMk [(R.RMC_STAT_IO_READY, 1)]) cid1 0 [], hostMk [(R.RMC_STAT_IO_READY, 1)], by decide +kernel⟩

theorem wit_namespaceDelete : ∃ (id : CmdId) (nsid : BitVec 32) (l : List Nat) (v : State) (u : State) (s : State),
    (s.takes id [] 0 = true) ∧ (u = s.took id 0 []) ∧ (u.get R.RMC_STAT_IO_READY = 1) ∧
    (nsid.toNat ≠ 0xFFFFFFFF) ∧
    (l = u.nss.filterMap (fun e => match e.2 with | some n => if n.del.isNone ∧ e.1 = nsid.toNat then some e.1 else none | none => none))
    ∧ (l ≠ []) ∧
    (v = u.forAll l (fun k v => match v.ns k with | some x => v.setNs k (some { x with del := some s.cmdNo }) | none => v))
    :=
  ⟨cid1, 1, [1], _, _, ioMk 0 [], by decide +kernel, rfl, by decide +kernel, by decide, by decide +kernel, by decide, rfl⟩

theorem wit_namespaceAttachment : ∃ (id : CmdId) (nsid : BitVec 32) (ctrls : List (BitVec 16)) (n : Ns) (u : State) (s :
    State), (s.takes id [] 0 = true) ∧ (u = s.took id 0 []) ∧ (u.get R.RMC_STAT_IO_READY = 1) ∧
    (u.ns nsid.toNat = some n) ∧ (n.del = none) ∧ (n.frag = false) ∧
    ((ctrls.map (·.toNat)).any (fun c => (u.ctrl c).isNone) = false) ∧ ((ctrls.map (·.toNat)).any n.att.contains = false) :=
  ⟨ cid1, 1, [1], { nsOk 0 with att := [] }, State.took ({ ioMk 0 [] with nss := [(1, some { nsOk 0 with att := [] })] }) cid1 0 [], { ioMk 0 [] with nss := [(1, some { nsOk 0 with att := [] })] }, by decide +kernel⟩

theorem wit_namespaceAttachment_2 : ∃ (id : CmdId) (nsid : BitVec 32) (ctrls : List (BitVec 16)) (n : Ns) (u : State) (s :
    State), (s.takes id [] 0 = true) ∧ (u = s.took id 0 []) ∧ (u.get R.RMC_STAT_IO_READY = 1) ∧
    (u.ns nsid.toNat = some n) ∧ (n.del = none) ∧ ((ctrls.map (·.toNat)).any (fun c => (u.ctrl c).isNone) = false) ∧
    ((ctrls.map (·.toNat)).any (fun c => !n.att.contains c) = false) :=
  ⟨ cid1, 1, [1], nsOk 0, State.took (ioMk 0 []) cid1 0 [], ioMk 0 [], by decide +kernel⟩

theorem wit_firmwareImageDownload : ∃ (id : CmdId) (ofs : BitVec 32) (data : List Byte) (ok : Bool) (u : State) (s : State),
    (s.takes id [] 0 = true) ∧ (u = s.took id 0 []) :=
  ⟨ cid1, 0, [], true, State.took (hostMk []) cid1 0 [], hostMk [], by decide +kernel⟩

theorem wit_firmwareCommit : ∃ (id : CmdId) (action slot : BitVec 3) (ok : Bool) (u : State) (s : State),
    (s.takes id [] 0 = true) ∧ (u = s.took id 0 []) ∧ (action.toNat ≤ 2) ∧ (slot.toNat = 0 ∨ slot.toNat = u.inactive + 1) :=
  ⟨ cid1, 0, 0, true, State.took (hostMk []) cid1 0 [], hostMk [], by decide +kernel⟩

theorem wit_deviceSelfTest : ∃ (id : CmdId) (ext : Bool) (nsid : BitVec 32) (u : State) (s : State),
    (s.takes id [] 0 = true) ∧ (u = s.took id 0 []) ∧ (u.test = none) ∧ (nsid.toNat = 0 ∨ nsid.toNat = 0xFFFFFFFF ∨
    (u.ns nsid.toNat).isSome = true) :=
  ⟨ cid1, true, 0, State.took (hostMk []) cid1 0 [], hostMk [], by decide +kernel⟩

theorem wit_selfTestAbort : ∃ (id : CmdId) (u : State) (s : State), (s.takes id [] 0 = true) ∧ (u = s.took id 0 []) :=
  ⟨ cid1, State.took (hostMk []) cid1 0 [], hostMk [], by decide +kernel⟩

theorem wit_selfTestSegment : ∃ (nsid : BitVec 32) (lba : BitVec 64) (x : SelfTest) (v : State) (s : State), (s.test =
    some x) ∧ (x.seg = 2) ∧ (v = s.when (s.on R.PKT_CTL_EN) (fun u => u.cleanAll)) :=
  ⟨0, 0, ⟨true, 0, 2, 0, 0, 0, 0, cid1⟩, _, { mk [] with test := some ⟨true, 0, 2, 0, 0, 0, 0, cid1⟩ }, rfl, rfl, rfl⟩

theorem wit_selfTestSegment_2 : ∃ (nsid : BitVec 32) (lba : BitVec 64) (x : SelfTest) (s : State), (s.test = some x) ∧
    (x.seg = 3) ∧ (x.marks = s.servoMarks) :=
  ⟨0, 0, ⟨true, 0, 3, 0, 0, 0, 0, cid1⟩, { mk [] with test := some ⟨true, 0, 3, 0, 0, 0, 0, cid1⟩ }, by decide +kernel⟩

theorem wit_formatNvm : ∃ (id : CmdId) (nsid : BitVec 32) (d : Cmd) (u : State) (s : State), (s.takes id ((s.nsNamed
    nsid.toNat).map Scope.whole) 0 = true) ∧ (u = s.took id 0 ((s.nsNamed nsid.toNat).map Scope.whole)) ∧ (nsid.toNat =
    0xFFFFFFFF ∨ (nsid.toNat ≤ 1015 ∧ s.nsNamed nsid.toNat ≠ [])) ∧ (u.get R.RMC_STAT_IO_READY = 1) ∧ (u.get V.sanState
    ≠ 1) ∧ (nsid.toNat ≠ 0xFFFFFFFF → (s.nsNamed nsid.toNat).any (fun n => ((u.ns n).bind (·.del)).isSome) = false) ∧
    (u.test = none) ∧ ((u.forAll (s.nsNamed nsid.toNat) fun n v => ((v.logEmpty n).emptyNs n false).swapMarked
    n).cmdNoOf s.cmdNo = some d) ∧ (d.parts = 0) :=
  ⟨cid1, 1, ⟨cid1, 0, 0, [⟨1, 0, 2 ^ 128, true⟩], false, true, 0, 0, 0, 0, none, .none, [], .plain, []⟩, State.took
    (ioMk 0 []) cid1 0 [.whole 1], ioMk 0 [], by decide +kernel⟩

theorem wit_sanitizeCryptoErase : ∃ (id : CmdId) (u : State) (s : State),
    (s.takes id ((s.nsNamed 0xFFFFFFFF).map Scope.whole) 0 = true) ∧
    (u = s.took id 0 ((s.nsNamed 0xFFFFFFFF).map Scope.whole)) ∧ (u.get R.RMC_STAT_IO_READY = 1) ∧
    (u.get V.sanState ≠ 1) ∧ (u.test = none) :=
  ⟨ cid1, State.took (ioMk 0 []) cid1 0 [.whole 1], ioMk 0 [], by decide +kernel⟩

theorem wit_sanitizeBlockErase : ∃ (id : CmdId) (v w : State) (u : State) (s : State), (s.takes id ((s.nsNamed
    0xFFFFFFFF).map Scope.whole) 0 = true) ∧ (u = s.took id 0 ((s.nsNamed 0xFFFFFFFF).map Scope.whole)) ∧ (u.get
    R.RMC_STAT_IO_READY = 1) ∧ (u.get V.sanState ≠ 1) ∧ (u.test = none) ∧ (v = State.forAll ((u.forAll (u.mops.filter
    fun o => decide (o.typ ≠ 3)) fun o v => v.abandonOp o).wipeSlm.showPkt) (s.nsNamed 0xFFFFFFFF) (fun n v => if
    (((v.emptyNs n false).ns n).map (·.enc)).getD false then (v.emptyNs n false).newKey n 0x84 else v.emptyNs n false))
    ∧ (w = v.forAll (List.range v.nact) (fun a u => u.mapLog a)) :=
  ⟨cid1, _, _, _, ioMk 0 [], by decide +kernel, rfl, by decide +kernel, by decide +kernel, by decide +kernel, rfl, rfl⟩

/-! ### ReadWriteAndZoneCommandsComplete -/

theorem wit_read : ∃ (id : CmdId) (nsid : BitVec 32) (lba : BitVec 64) (nlb : BitVec 16) (limited : Bool) (ns : Ns) (u :
    State) (s : State), (s.takes id [.lba nsid.toNat lba.toNat (nlb.toNat + 1) false] 0 = true) ∧
    (u = s.took id nsid.toNat [.lba nsid.toNat lba.toNat (nlb.toNat + 1) false]) ∧ (u.readyNs id s.cmdNo nsid.toNat [0,
    2] = some ns) ∧ (firstStat [u.rangeStat ns nsid.toNat lba.toNat (nlb.toNat + 1),
    u.zoneReadStat ns nsid.toNat lba.toNat (nlb.toNat + 1)] = stOk) ∧
    (u.anyLost nsid.toNat lba.toNat (nlb.toNat + 1) = false) ∧
    (((List.range (nlb.toNat + 1)).all fun i => u.staged nsid.toNat (lba.toNat + i)) = true) :=
  ⟨ cid1, 1, 0, 0, false, nsOk 0, State.took ({ ioMk 0 [] with vol := [(lbaKey 1 0, some ⟨7, 0, false, false, false⟩)] }) cid1 1 [.lba 1 0 1 false], { ioMk 0 [] with vol := [(lbaKey 1 0, some ⟨7, 0, false, false, false⟩)] }, by decide +kernel⟩

theorem wit_read_2 : ∃ (id : CmdId) (nsid : BitVec 32) (lba : BitVec 64) (nlb : BitVec 16) (limited : Bool) (ns : Ns) (u :
    State) (s : State), (s.takes id [.lba nsid.toNat lba.toNat (nlb.toNat + 1) false] 0 = true) ∧
    (u = s.took id nsid.toNat [.lba nsid.toNat lba.toNat (nlb.toNat + 1) false]) ∧ (u.readyNs id s.cmdNo nsid.toNat [0,
    2] = some ns) ∧ (firstStat [u.rangeStat ns nsid.toNat lba.toNat (nlb.toNat + 1),
    u.zoneReadStat ns nsid.toNat lba.toNat (nlb.toNat + 1)] = stOk) ∧
    (u.anyLost nsid.toNat lba.toNat (nlb.toNat + 1) = false) ∧
    (((List.range (nlb.toNat + 1)).all fun i => u.staged nsid.toNat (lba.toNat + i)) = false) :=
  ⟨ cid1, 1, 0, 0, false, nsOk 0, State.took (ioMk 0 []) cid1 1 [.lba 1 0 1 false], ioMk 0 [], by decide +kernel⟩

theorem wit_verify : ∃ (id : CmdId) (nsid : BitVec 32) (lba : BitVec 64) (nlb : BitVec 16) (ns : Ns) (u : State) (s :
    State), (s.takes id [.lba nsid.toNat lba.toNat (nlb.toNat + 1) false] 0 = true) ∧
    (u = s.took id nsid.toNat [.lba nsid.toNat lba.toNat (nlb.toNat + 1) false]) ∧ (u.readyNs id s.cmdNo nsid.toNat [0,
    2] = some ns) ∧ (firstStat [u.rangeStat ns nsid.toNat lba.toNat (nlb.toNat + 1),
    u.zoneReadStat ns nsid.toNat lba.toNat (nlb.toNat + 1)] = stOk) ∧
    (u.anyLost nsid.toNat lba.toNat (nlb.toNat + 1) = false) ∧
    (((List.range (nlb.toNat + 1)).all fun i => u.staged nsid.toNat (lba.toNat + i)) = true) :=
  ⟨ cid1, 1, 0, 0, nsOk 0, State.took ({ ioMk 0 [] with vol := [(lbaKey 1 0, some ⟨7, 0, false, false, false⟩)] }) cid1 1 [.lba 1 0 1 false], { ioMk 0 [] with vol := [(lbaKey 1 0, some ⟨7, 0, false, false, false⟩)] }, by decide +kernel⟩

theorem wit_verify_2 : ∃ (id : CmdId) (nsid : BitVec 32) (lba : BitVec 64) (nlb : BitVec 16) (ns : Ns) (u : State) (s :
    State), (s.takes id [.lba nsid.toNat lba.toNat (nlb.toNat + 1) false] 0 = true) ∧
    (u = s.took id nsid.toNat [.lba nsid.toNat lba.toNat (nlb.toNat + 1) false]) ∧ (u.readyNs id s.cmdNo nsid.toNat [0,
    2] = some ns) ∧ (firstStat [u.rangeStat ns nsid.toNat lba.toNat (nlb.toNat + 1),
    u.zoneReadStat ns nsid.toNat lba.toNat (nlb.toNat + 1)] = stOk) ∧
    (u.anyLost nsid.toNat lba.toNat (nlb.toNat + 1) = false) ∧
    (((List.range (nlb.toNat + 1)).all fun i => u.staged nsid.toNat (lba.toNat + i)) = false) :=
  ⟨ cid1, 1, 0, 0, nsOk 0, State.took (ioMk 0 []) cid1 1 [.lba 1 0 1 false], ioMk 0 [], by decide +kernel⟩

theorem wit_write : ∃ (id : CmdId) (nsid : BitVec 32) (lba : BitVec 64) (data : List Block) (fua : Bool) (ns : Ns) (u :
    State) (s : State), (s.takes id [.lba nsid.toNat lba.toNat data.length true] data.length = true) ∧ (u = s.took id
    nsid.toNat [.lba nsid.toNat lba.toNat data.length true]) ∧ (u.readyNs id s.cmdNo nsid.toNat [0, 2] = some ns) ∧
    (u.rangeStat ns nsid.toNat lba.toNat data.length = stOk) ∧ ((u.zoneWrite ns nsid.toNat lba.toNat data.length).1 =
    stOk) ∧ (ns.csi = 0 → ((u.rangeActs nsid.toNat lba.toNat data.length).any fun a => u.on (V.mmgWrFault a)) = false)
    :=
  ⟨ cid1, 1, 0, [7], false, nsOk 0, State.took (ioMk 0 []) cid1 1 [.lba 1 0 1 true], ioMk 0 [], by decide +kernel⟩

theorem wit_writeZeroes : ∃ (id : CmdId) (nsid : BitVec 32) (lba : BitVec 64) (nlb : BitVec 16) (fua : Bool) (ns : Ns)
    (u : State) (s : State), (s.takes id [.lba nsid.toNat lba.toNat (nlb.toNat + 1) true] (nlb.toNat + 1) = true) ∧ (u =
    s.took id nsid.toNat [.lba nsid.toNat lba.toNat (nlb.toNat + 1) true]) ∧ (u.readyNs id s.cmdNo nsid.toNat [0] = some
    ns) ∧ (u.rangeStat ns nsid.toNat lba.toNat (nlb.toNat + 1) = stOk) ∧ (ns.csi = 0) ∧ (((u.rangeActs nsid.toNat
    lba.toNat (nlb.toNat + 1)).any fun a => u.on (V.mmgWrFault a)) = false) :=
  ⟨ cid1, 1, 0, 0, false, nsOk 0, State.took (ioMk 0 []) cid1 1 [.lba 1 0 1 true], ioMk 0 [], by decide +kernel⟩

theorem wit_datasetManagement : ∃ (id : CmdId) (nsid : BitVec 32) (ranges : List (BitVec 64 × BitVec 32)) (ns : Ns) (u :
    State) (s : State), (s.takes id (ranges.map (fun r => Scope.lba nsid.toNat r.1.toNat r.2.toNat true)) 0 = true) ∧
    (u = s.took id nsid.toNat (ranges.map (fun r => Scope.lba nsid.toNat r.1.toNat r.2.toNat true))) ∧
    (u.readyNs id s.cmdNo nsid.toNat [0] = some ns) ∧ (1 ≤ ranges.length ∧ ranges.length ≤ 256) ∧ (∀ r ∈ ranges,
    r.1.toNat + r.2.toNat ≤ ns.nsze) ∧ (∀ r ∈ ranges, (u.rangeActs nsid.toNat r.1.toNat r.2.toNat).any u.actDown = false) :=
  ⟨cid1, 1, [(0, 1)], nsOk 0, State.took (ioMk 0 []) cid1 1 [.lba 1 0 1 true], ioMk 0 [], by decide +kernel, rfl,
    by decide +kernel, by decide, by intro r hr; obtain rfl := List.mem_singleton.mp hr; decide +kernel,
    by intro r hr; obtain rfl := List.mem_singleton.mp hr; decide +kernel⟩

theorem wit_zoneAppend : ∃ (id : CmdId) (nsid : BitVec 32) (zslba : BitVec 64) (data : List Block) (fua : Bool) (ns : Ns) (c
    : Cmd) (u : State) (s : State), (s.cmdOf id = some c) ∧ (c.id = id) ∧ (c.stalled = false) ∧ (c.begun = false) ∧
    (u = s.updCmd c.no (fun d => { d with begun := true })) ∧ (u.readyNs id c.no nsid.toNat [2] = some ns) ∧
    (c.sct = 0 ∧ c.sc = 0) ∧ (u.actDown (u.lbaAct nsid.toNat zslba.toNat) = false) :=
  ⟨ cid1, 1, 0, [7], false, nsOk 2, apCmd, State.updCmd { ioMk 2 [] with cmds := [apCmd] } 0 (fun d => { d with begun := true }), { ioMk 2 [] with cmds := [apCmd] }, by decide +kernel⟩

theorem wit_zoneReset : ∃ (id : CmdId) (nsid : BitVec 32) (slba : BitVec 64) (ns : Ns) (u : State) (s : State),
    (s.takes id [.zone nsid.toNat slba.toNat] 0 = true) ∧
    (u = s.took id nsid.toNat [.zone nsid.toNat slba.toNat]) ∧ (u.readyNs id s.cmdNo nsid.toNat [2] = some ns) ∧
    (slba.toNat % zoneSize = 0) ∧ (slba.toNat < ns.nsze) ∧
    (u.actDown (placeAct ns.mask (slba.toNat / zoneSize)) = false) ∧ ([zEmpty, zImp, zExp, zClosed,
    zFull].contains (u.zone nsid.toNat (slba.toNat / zoneSize)).st = true) :=
  ⟨ cid1, 1, 0, nsOk 2, State.took ({ ioMk 2 [] with zones := [(zoneKey 1 0, some { noZone with st := zFull })] }) cid1 1 [.zone 1 0], { ioMk 2 [] with zones := [(zoneKey 1 0, some { noZone with st := zFull })] }, by decide +kernel⟩

theorem wit_zoneFinish : ∃ (id : CmdId) (nsid : BitVec 32) (slba : BitVec 64) (ns : Ns) (u : State) (s : State),
    (s.takes id [.zone nsid.toNat slba.toNat] 0 = true) ∧
    (u = s.took id nsid.toNat [.zone nsid.toNat slba.toNat]) ∧ (u.readyNs id s.cmdNo nsid.toNat [2] = some ns) ∧
    (slba.toNat % zoneSize = 0) ∧ (slba.toNat < ns.nsze) ∧
    (u.actDown (placeAct ns.mask (slba.toNat / zoneSize)) = false) ∧ ([zEmpty, zImp, zExp, zClosed,
    zFull].contains (u.zone nsid.toNat (slba.toNat / zoneSize)).st = true) :=
  ⟨ cid1, 1, 0, nsOk 2, State.took ({ ioMk 2 [] with zones := [(zoneKey 1 0, some { noZone with st := zClosed })] }) cid1 1 [.zone 1 0], { ioMk 2 [] with zones := [(zoneKey 1 0, some { noZone with st := zClosed })] }, by decide +kernel⟩

theorem wit_zoneOpen : ∃ (id : CmdId) (nsid : BitVec 32) (slba : BitVec 64) (ns : Ns) (u : State) (s : State),
    (s.takes id [.zone nsid.toNat slba.toNat] 0 = true) ∧
    (u = s.took id nsid.toNat [.zone nsid.toNat slba.toNat]) ∧ (u.readyNs id s.cmdNo nsid.toNat [2] = some ns) ∧
    (slba.toNat % zoneSize = 0) ∧ (slba.toNat < ns.nsze) ∧
    (u.actDown (placeAct ns.mask (slba.toNat / zoneSize)) = false) ∧ ([zEmpty, zImp, zExp,
    zClosed].contains (u.zone nsid.toNat (slba.toNat / zoneSize)).st = true) ∧
    ((u.zone nsid.toNat (slba.toNat / zoneSize)).st = zEmpty →
    u.activeOn (u.lbaAct nsid.toNat ((slba.toNat / zoneSize) * zoneSize)) < 64) :=
  ⟨ cid1, 1, 0, nsOk 2, State.took ({ ioMk 2 [] with zones := [(zoneKey 1 0, some { noZone with st := zClosed })] }) cid1 1 [.zone 1 0], { ioMk 2 [] with zones := [(zoneKey 1 0, some { noZone with st := zClosed })] }, by decide +kernel⟩

theorem wit_zoneClose : ∃ (id : CmdId) (nsid : BitVec 32) (slba : BitVec 64) (ns : Ns) (u : State) (s : State),
    (s.takes id [.zone nsid.toNat slba.toNat] 0 = true) ∧
    (u = s.took id nsid.toNat [.zone nsid.toNat slba.toNat]) ∧ (u.readyNs id s.cmdNo nsid.toNat [2] = some ns) ∧
    (slba.toNat % zoneSize = 0) ∧ (slba.toNat < ns.nsze) ∧
    (u.actDown (placeAct ns.mask (slba.toNat / zoneSize)) = false) ∧ ([zImp, zExp,
    zClosed].contains (u.zone nsid.toNat (slba.toNat / zoneSize)).st = true) :=
  ⟨ cid1, 1, 0, nsOk 2, State.took ({ ioMk 2 [] with zones := [(zoneKey 1 0, some { noZone with st := zImp })] }) cid1 1 [.zone 1 0], { ioMk 2 [] with zones := [(zoneKey 1 0, some { noZone with st := zImp })] }, by decide +kernel⟩

theorem wit_setZoneDescriptorExtension : ∃ (id : CmdId) (nsid : BitVec 32) (slba : BitVec 64) (ns : Ns) (u : State) (s :
    State), (s.takes id [.zone nsid.toNat slba.toNat] 0 = true) ∧
    (u = s.took id nsid.toNat [.zone nsid.toNat slba.toNat]) ∧ (u.readyNs id s.cmdNo nsid.toNat [2] = some ns) ∧
    (slba.toNat % zoneSize = 0) ∧ (slba.toNat < ns.nsze) ∧
    (u.actDown (placeAct ns.mask (slba.toNat / zoneSize)) = false) ∧ ([zEmpty, zImp, zExp, zClosed, zRo,
    zFull, zOff].contains (u.zone nsid.toNat (slba.toNat / zoneSize)).st = true) :=
  ⟨ cid1, 1, 0, nsOk 2, State.took ({ ioMk 2 [] with zones := [(zoneKey 1 0, some { noZone with st := zImp })] }) cid1 1 [.zone 1 0], { ioMk 2 [] with zones := [(zoneKey 1 0, some { noZone with st := zImp })] }, by decide +kernel⟩

theorem wit_zoneManagementReceive : ∃ (id : CmdId) (nsid : BitVec 32) (slba : BitVec 64) (ext : Bool) (ns : Ns) (u : State)
    (s : State), (s.takes id [] 0 = true) ∧ (u = s.took id nsid.toNat []) ∧
    (u.readyNs id s.cmdNo nsid.toNat [2] = some ns) ∧ (slba.toNat < ns.nsze) :=
  ⟨ cid1, 1, 0, false, nsOk 2, State.took (ioMk 2 []) cid1 1 [], ioMk 2 [], by decide +kernel⟩

theorem wit_ReadChannelCommandsFrame :
    (∃ t, exec (.readOpStart 0) (mk []) = .next t) ∧
    (∃ t, exec (.preambleAcquire 0 0 none []) (mk []) = .next t) ∧
    (∃ t, exec (.acquisitionFailure 0) (mk []) = .next t) ∧
    (∃ t, exec (.syncFraming 0 [] []) (mk []) = .next t) ∧
    (∃ t, exec (.fsmSearch 0 []) (mk []) = .next t) ∧
    (∃ t, exec (.defectSpan 0 .asperity false false 0 0) (mk []) = .next t) ∧
    (∃ t, exec (.sectorSamplesDone 0 []) (mk []) = .next t) ∧
    (∃ t, exec (.ldpcConverge 0 none) (mk []) = .next t) ∧
    (∃ t, exec (.ldpcWindowEnd 0) (mk []) = .next t) ∧
    (∃ t, exec (.retryRung 0 false) (mk []) = .next t) ∧
    (∃ t, exec (.retryTimeLimit 0) (mk []) = .next t) ∧
    (∃ t, exec (.outerCodeRebuild 0 []) (mk []) = .next t) ∧
    (∃ t, exec (.chnEnable 0) (mk []) = .next t) ∧
    (∃ t, exec (.rdAbort 0) (mk []) = .next t) ∧
    (∃ t, exec (.replayHold 0 false) (mk []) = .next t) ∧
    (∃ t, exec (.counterClear 0 0 0 0) (mk []) = .next t) :=
  ⟨⟨_, rfl⟩, ⟨_, rfl⟩, ⟨_, rfl⟩, ⟨_, rfl⟩, ⟨_, rfl⟩, ⟨_, rfl⟩, ⟨_, rfl⟩, ⟨_, rfl⟩, ⟨_, rfl⟩, ⟨_, rfl⟩, ⟨_, rfl⟩, ⟨_, rfl⟩, ⟨_, rfl⟩, ⟨_, rfl⟩, ⟨_, rfl⟩, ⟨_, rfl⟩⟩

theorem wit_LanyardPreampHeadCommandsFrame :
    (∃ t, exec (.lanyardGateFrame 0 0) (mk []) = .next t) ∧
    (∃ t, exec (.lanyardRegWrite 0 0 0 0 0 none) (mk []) = .next t) ∧
    (∃ t, exec (.lanyardRegRead 0 0 0 0 none) (mk []) = .next t) ∧
    (∃ t, exec (.sptEnable 0) (mk []) = .next t) ∧
    (∃ t, exec (.preampFault 0 0 false false) (mk []) = .next t) ∧
    (∃ t, exec (.wrInh 0 false) (mk []) = .next t) ∧
    (∃ t, exec (.hdwpClear 0 0 0) (mk []) = .next t) ∧
    (∃ t, exec (.preheatDone 0) (mk []) = .next t) ∧
    (∃ t, exec (.touchdownGo 0) (mk []) = .next t) ∧
    (∃ t, exec (.touchdownDwellEnd 0 0) (mk []) = .next t) ∧
    (∃ t, exec (.touchdownAbort) (mk []) = .next t) ∧
    (∃ t, exec (.loadMeasureGo 0 0 0) (mk []) = .next t) ∧
    (∃ t, exec (.loadMeasureDone 0 0 0) (mk []) = .next t) ∧
    (∃ t, exec (.tfhEnable) (mk []) = .next t) ∧
    (∃ t, exec (.preampWriteHoldEnd 0 false) (mk []) = .next t) :=
  ⟨⟨_, rfl⟩, ⟨_, rfl⟩, ⟨_, rfl⟩, ⟨_, rfl⟩, ⟨_, rfl⟩, ⟨_, rfl⟩, ⟨_, rfl⟩, ⟨_, rfl⟩, ⟨_, rfl⟩, ⟨_, rfl⟩, ⟨_, rfl⟩, ⟨_, rfl⟩, ⟨_, rfl⟩, ⟨_, rfl⟩, ⟨_, rfl⟩⟩

theorem wit_SequencerCommandsFrame :
    (∃ t, exec (.seqEnable 0 false) (mk []) = .next t) ∧
    (∃ t, exec (.routineStart 0 0 ⟨0, 0, 0, 0, 0⟩ .job) (mk []) = .next t) ∧
    (∃ t, exec (.barkerNop 0 ⟨0, 0, 0, 0, 0⟩ ⟨0, 0, 0⟩) (mk []) = .next t) ∧
    (∃ t, exec (.barkerJmp 0 ⟨0, 0, 0, 0, 0⟩ ⟨0, 0, 0⟩) (mk []) = .next t) ∧
    (∃ t, exec (.barkerBr 0 ⟨0, 0, 0, 0, 0⟩ ⟨0, 0, 0⟩) (mk []) = .next t) ∧
    (∃ t, exec (.barkerCall 0 ⟨0, 0, 0, 0, 0⟩ ⟨0, 0, 0⟩) (mk []) = .next t) ∧
    (∃ t, exec (.barkerRet 0 ⟨0, 0, 0, 0, 0⟩ ⟨0, 0, 0⟩) (mk []) = .next t) ∧
    (∃ t, exec (.barkerWait 0 ⟨0, 0, 0, 0, 0⟩ ⟨0, 0, 0⟩) (mk []) = .next t) ∧
    (∃ t, exec (.barkerLoad 0 ⟨0, 0, 0, 0, 0⟩ ⟨0, 0, 0⟩) (mk []) = .next t) ∧
    (∃ t, exec (.barkerAdd 0 ⟨0, 0, 0, 0, 0⟩ ⟨0, 0, 0⟩) (mk []) = .next t) ∧
    (∃ t, exec (.barkerEnd 0 ⟨0, 0, 0, 0, 0⟩ ⟨0, 0, 0⟩) (mk []) = .next t) ∧
    (∃ t, exec (.barkerWaitMet 0 ⟨0, 0, 0⟩) (mk []) = .next t) ∧
    (∃ t, exec (.barkerWaitTimeout 0 ⟨0, 0, 0⟩) (mk []) = .next t) ∧
    (∃ t, exec (.jobRestart 0) (mk []) = .next t) ∧
    (∃ t, exec (.seqMchkRecovery 0 false) (mk []) = .next t) ∧
    (∃ t, exec (.seqScrubPass 0 [] false) (mk []) = .next t) :=
  ⟨⟨_, rfl⟩, ⟨_, rfl⟩, ⟨_, rfl⟩, ⟨_, rfl⟩, ⟨_, rfl⟩, ⟨_, rfl⟩, ⟨_, rfl⟩, ⟨_, rfl⟩, ⟨_, rfl⟩, ⟨_, rfl⟩, ⟨_, rfl⟩, ⟨_, rfl⟩, ⟨_, rfl⟩, ⟨_, rfl⟩, ⟨_, rfl⟩, ⟨_, rfl⟩⟩

theorem wit_ServoCommandsFrame :
    (∃ t, exec (.servoWedge 0 ⟨[], 0, 0, 0, 0, 0, none⟩) (mk []) = .next t) ∧
    (∃ t, exec (.samPredicted 0 ⟨[], 0, 0, 0, 0, 0, none⟩) (mk []) = .next t) ∧
    (∃ t, exec (.seekStart 0 0) (mk []) = .next t) ∧
    (∃ t, exec (.seekTimeout 0) (mk []) = .next t) ∧
    (∃ t, exec (.loadRequest 0) (mk []) = .next t) ∧
    (∃ t, exec (.loadDeferredStart 0) (mk []) = .next t) ∧
    (∃ t, exec (.loadingOffRamp 0) (mk []) = .next t) ∧
    (∃ t, exec (.acquireTimeout 0) (mk []) = .next t) ∧
    (∃ t, exec (.holdRelockTimeout 0) (mk []) = .next t) ∧
    (∃ t, exec (.loadRetry 0) (mk []) = .next t) ∧
    (∃ t, exec (.unloadRequest 0 false) (mk []) = .next t) ∧
    (∃ t, exec (.maStrokeMeasure 0 0) (mk []) = .next t) ∧
    (∃ t, exec (.srvEnable 0) (mk []) = .next t) ∧
    (∃ t, exec (.srvOfsWrite 0 0) (mk []) = .next t) :=
  ⟨⟨_, rfl⟩, ⟨_, rfl⟩, ⟨_, rfl⟩, ⟨_, rfl⟩, ⟨_, rfl⟩, ⟨_, rfl⟩, ⟨_, rfl⟩, ⟨_, rfl⟩, ⟨_, rfl⟩, ⟨_, rfl⟩, ⟨_, rfl⟩, ⟨_, rfl⟩, ⟨_, rfl⟩, ⟨_, rfl⟩⟩

theorem wit_TrapezeCommandsFrame :
    (∃ t, exec (.trzEnable false) (mk []) = .next t) ∧
    (∃ t, exec (.trzNop ⟨0, 0, 0, 0, 0, 0⟩) (mk []) = .next t) ∧
    (∃ t, exec (.trzJmp ⟨0, 0, 0, 0, 0, 0⟩) (mk []) = .next t) ∧
    (∃ t, exec (.trzBr ⟨0, 0, 0, 0, 0, 0⟩) (mk []) = .next t) ∧
    (∃ t, exec (.trzCall ⟨0, 0, 0, 0, 0, 0⟩) (mk []) = .next t) ∧
    (∃ t, exec (.trzRet ⟨0, 0, 0, 0, 0, 0⟩) (mk []) = .next t) ∧
    (∃ t, exec (.trzWait ⟨0, 0, 0, 0, 0, 0⟩) (mk []) = .next t) ∧
    (∃ t, exec (.trzLd ⟨0, 0, 0, 0, 0, 0⟩) (mk []) = .next t) ∧
    (∃ t, exec (.trzMov ⟨0, 0, 0, 0, 0, 0⟩) (mk []) = .next t) ∧
    (∃ t, exec (.trzAdd ⟨0, 0, 0, 0, 0, 0⟩) (mk []) = .next t) ∧
    (∃ t, exec (.trzSub ⟨0, 0, 0, 0, 0, 0⟩) (mk []) = .next t) ∧
    (∃ t, exec (.trzMul ⟨0, 0, 0, 0, 0, 0⟩) (mk []) = .next t) ∧
    (∃ t, exec (.trzMac ⟨0, 0, 0, 0, 0, 0⟩) (mk []) = .next t) ∧
    (∃ t, exec (.trzAccout ⟨0, 0, 0, 0, 0, 0⟩) (mk []) = .next t) ∧
    (∃ t, exec (.trzClracc ⟨0, 0, 0, 0, 0, 0⟩) (mk []) = .next t) ∧
    (∃ t, exec (.trzMin ⟨0, 0, 0, 0, 0, 0⟩) (mk []) = .next t) ∧
    (∃ t, exec (.trzMax ⟨0, 0, 0, 0, 0, 0⟩) (mk []) = .next t) ∧
    (∃ t, exec (.trzLut ⟨0, 0, 0, 0, 0, 0⟩) (mk []) = .next t) ∧
    (∃ t, exec (.trzCmp ⟨0, 0, 0, 0, 0, 0⟩) (mk []) = .next t) ∧
    (∃ t, exec (.trzEnd ⟨0, 0, 0, 0, 0, 0⟩) (mk []) = .next t) ∧
    (∃ t, exec (.trzWaitMet) (mk []) = .next t) ∧
    (∃ t, exec (.trzWaitTimeout) (mk []) = .next t) ∧
    (∃ t, exec (.lutReady) (mk []) = .next t) ∧
    (∃ t, exec (.loopDispatch false) (mk []) = .next t) ∧
    (∃ t, exec (.loopDeadlineMiss 0) (mk []) = .next t) ∧
    (∃ t, exec (.trzScrubError 0 ⟨0, 0, 0, 0, 0, 0⟩) (mk []) = .next t) ∧
    (∃ t, exec (.trzScrubRewriteDone) (mk []) = .next t) ∧
    (∃ t, exec (.trzMchkReload false) (mk []) = .next t) :=
  ⟨⟨_, rfl⟩, ⟨_, rfl⟩, ⟨_, rfl⟩, ⟨_, rfl⟩, ⟨_, rfl⟩, ⟨_, rfl⟩, ⟨_, rfl⟩, ⟨_, rfl⟩, ⟨_, rfl⟩, ⟨_, rfl⟩, ⟨_, rfl⟩, ⟨_, rfl⟩, ⟨_, rfl⟩, ⟨_, rfl⟩, ⟨_, rfl⟩, ⟨_, rfl⟩, ⟨_, rfl⟩, ⟨_, rfl⟩, ⟨_, rfl⟩, ⟨_, rfl⟩, ⟨_, rfl⟩, ⟨_, rfl⟩, ⟨_, rfl⟩, ⟨_, rfl⟩, ⟨_, rfl⟩, ⟨_, rfl⟩, ⟨_, rfl⟩, ⟨_, rfl⟩⟩

theorem wit_SpindleCommandsFrame :
    (∃ t, exec (.mediaWedgeMissing) (mk []) = .next t) ∧
    (∃ t, exec (.crlEnable false) (mk []) = .next t) ∧
    (∃ t, exec (.spOvr false 0) (mk []) = .next t) ∧
    (∃ t, exec (.pwmPeriod ⟨0, none, none, 0⟩) (mk []) = .next t) ∧
    (∃ t, exec (.sensePulse 0) (mk []) = .next t) ∧
    (∃ t, exec (.alignEnd) (mk []) = .next t) ∧
    (∃ t, exec (.startAttemptFail 0) (mk []) = .next t) ∧
    (∃ t, exec (.zeroCrossing 0 0) (mk []) = .next t) ∧
    (∃ t, exec (.catchTimeout 0) (mk []) = .next t) ∧
    (∃ t, exec (.catchRetry 0) (mk []) = .next t) ∧
    (∃ t, exec (.setpointApply) (mk []) = .next t) ∧
    (∃ t, exec (.ovRecovery) (mk []) = .next t) :=
  ⟨⟨_, rfl⟩, ⟨_, rfl⟩, ⟨_, rfl⟩, ⟨_, rfl⟩, ⟨_, rfl⟩, ⟨_, rfl⟩, ⟨_, rfl⟩, ⟨_, rfl⟩, ⟨_, rfl⟩, ⟨_, rfl⟩, ⟨_, rfl⟩, ⟨_, rfl⟩⟩

theorem wit_StrongmanCommandsFrame :
    (∃ t, exec (.dieLinkFrame (.toStrongman true)) (mk []) = .next t) ∧
    (∃ t, exec (.heartbeatAdvance) (mk []) = .next t) ∧
    (∃ t, exec (.heartbeatMiss false) (mk []) = .next t) ∧
    (∃ t, exec (.supplySample 0 0) (mk []) = .next t) ∧
    (∃ t, exec (.chopperFail 0) (mk []) = .next t) ∧
    (∃ t, exec (.spindleOvercurrent 0) (mk []) = .next t) ∧
    (∃ t, exec (.vcmOvercurrent 0 0) (mk []) = .next t) ∧
    (∃ t, exec (.vcmTripReopen 0) (mk []) = .next t) ∧
    (∃ t, exec (.maCurrentLimit 0) (mk []) = .next t) ∧
    (∃ t, exec (.maOffClear 0 0) (mk []) = .next t) ∧
    (∃ t, exec (.stopWireAssert 0) (mk []) = .next t) ∧
    (∃ t, exec (.retractParked 0) (mk []) = .next t) ∧
    (∃ t, exec (.retractParkHoldEnd 0) (mk []) = .next t) ∧
    (∃ t, exec (.retractTimeout 0) (mk []) = .next t) ∧
    (∃ t, exec (.retractPushEnd 0) (mk []) = .next t) ∧
    (∃ t, exec (.startRequest none) (mk []) = .next t) ∧
    (∃ t, exec (.autonomousBrake) (mk []) = .next t) ∧
    (∃ t, exec (.stmResume) (mk []) = .next t) ∧
    (∃ t, exec (.stmEnable 0) (mk []) = .next t) ∧
    (∃ t, exec (.safetyMonitorTick) (mk []) = .next t) ∧
    (∃ t, exec (.safetyMonitorTakeover 0) (mk []) = .next t) ∧
    (∃ t, exec (.smOvervoltage) (mk []) = .next t) ∧
    (∃ t, exec (.windingMeasureGo 0 0) (mk []) = .next t) ∧
    (∃ t, exec (.windingMeasureDone 0) (mk []) = .next t) ∧
    (∃ t, exec (.autonomousSequenceEnd) (mk []) = .next t) ∧
    (∃ t, exec (.safetyMonitorPushEnd) (mk []) = .next t) ∧
    (∃ t, exec (.strongmanLogicPowerLoss) (mk []) = .next t) :=
  ⟨⟨_, rfl⟩, ⟨_, rfl⟩, ⟨_, rfl⟩, ⟨_, rfl⟩, ⟨_, rfl⟩, ⟨_, rfl⟩, ⟨_, rfl⟩, ⟨_, rfl⟩, ⟨_, rfl⟩, ⟨_, rfl⟩, ⟨_, rfl⟩, ⟨_, rfl⟩, ⟨_, rfl⟩, ⟨_, rfl⟩, ⟨_, rfl⟩, ⟨_, rfl⟩, ⟨_, rfl⟩, ⟨_, rfl⟩, ⟨_, rfl⟩, ⟨_, rfl⟩, ⟨_, rfl⟩, ⟨_, rfl⟩, ⟨_, rfl⟩, ⟨_, rfl⟩, ⟨_, rfl⟩, ⟨_, rfl⟩, ⟨_, rfl⟩⟩

theorem wit_MediaManagementCommandsFrame :
    (∃ t, exec (.mmgEnable) (mk []) = .next t) ∧
    (∃ t, exec (.fmtCommit) (mk []) = .next t) ∧
    (∃ t, exec (.durableTimer) (mk []) = .next t) ∧
    (∃ t, exec (.alterationDemand 0 0 0 0) (mk []) = .next t) ∧
    (∃ t, exec (.relayStep 0 [] false) (mk []) = .next t) ∧
    (∃ t, exec (.reclaimStep 0 false false) (mk []) = .next t) ∧
    (∃ t, exec (.overwriteStep 0 false false) (mk []) = .next t) :=
  ⟨⟨_, rfl⟩, ⟨_, rfl⟩, ⟨_, rfl⟩, ⟨_, rfl⟩, ⟨_, rfl⟩, ⟨_, rfl⟩, ⟨_, rfl⟩⟩

theorem wit_FlashWatchdogCommandsFrame :
    (∃ t, exec (.flashRead 0 0 0) (mk []) = .next t) ∧
    (∃ t, exec (.flashProgram 0 [] 0) (mk []) = .next t) ∧
    (∃ t, exec (.flashErase 0) (mk []) = .next t) ∧
    (∃ t, exec (.flashProgramDone 0 false) (mk []) = .next t) ∧
    (∃ t, exec (.flashEraseDone 0 false) (mk []) = .next t) ∧
    (∃ t, exec (.flashSuspendDue 0) (mk []) = .next t) ∧
    (∃ t, exec (.wdbHold 0) (mk []) = .next t) ∧
    (∃ t, exec (.downloadSessionTimeout) (mk []) = .next t) ∧
    (∃ t, exec (.sntEnable) (mk []) = .next t) ∧
    (∃ t, exec (.sntKick 0) (mk []) = .next t) ∧
    (∃ t, exec (.stage1 0) (mk []) = .next t) :=
  ⟨⟨_, rfl⟩, ⟨_, rfl⟩, ⟨_, rfl⟩, ⟨_, rfl⟩, ⟨_, rfl⟩, ⟨_, rfl⟩, ⟨_, rfl⟩, ⟨_, rfl⟩, ⟨_, rfl⟩, ⟨_, rfl⟩, ⟨_, rfl⟩⟩

theorem wit_MailboxInterruptCommandsFrame :
    (∃ t, exec (.casgusSend cid1 []) (mk []) = .next t) ∧
    (∃ t, exec (.casgusReceive cid1 0 false 0) (mk []) = .next t) ∧
    (∃ t, exec (.receiveWaitExpiry cid1) (mk []) = .next t) ∧
    (∃ t, exec (.nvmeMiRequest []) (mk []) = .next t) ∧
    (∃ t, exec (.nvmeMiReceive 0) (mk []) = .next t) ∧
    (∃ t, exec (.mctpEidReassign 0) (mk []) = .next t) ∧
    (∃ t, exec (.requestStart ⟨10, 5⟩) (mk []) = .next t) ∧
    (∃ t, exec (.requestTimeout ⟨10, 5⟩) (mk []) = .next t) ∧
    (∃ t, exec (.sourceEdge) (mk []) = .next t) ∧
    (∃ t, exec (.gpioInputChange 0 false) (mk []) = .next t) ∧
    (∃ t, exec (.clpClaimWrite 0 0 false 0) (mk []) = .next t) ∧
    (∃ t, exec (.clpDoneWrite 0 0 false 0) (mk []) = .next t) ∧
    (∃ t, exec (.clpSrcWrite 0 0 false) (mk []) = .next t) :=
  ⟨⟨_, rfl⟩, ⟨_, rfl⟩, ⟨_, rfl⟩, ⟨_, rfl⟩, ⟨_, rfl⟩, ⟨_, rfl⟩, ⟨_, rfl⟩, ⟨_, rfl⟩, ⟨_, rfl⟩, ⟨_, rfl⟩, ⟨_, rfl⟩, ⟨_, rfl⟩, ⟨_, rfl⟩⟩

theorem wit_HBMPocketCommandsFrame :
    (∃ t, exec (.hbmTrainingDone 0 false 0) (mk []) = .next t) ∧
    (∃ t, exec (.hbmRateWrite 0) (mk []) = .next t) ∧
    (∃ t, exec (.hbmRateSwitchDone) (mk []) = .next t) ∧
    (∃ t, exec (.hbmCorrectedError 0) (mk []) = .next t) ∧
    (∃ t, exec (.hbmPatrolScrub 0 false) (mk []) = .next t) ∧
    (∃ t, exec (.selfRefreshExit) (mk []) = .next t) ∧
    (∃ t, exec (.pocketUncorrectable 0 0) (mk []) = .next t) ∧
    (∃ t, exec (.pktEnable) (mk []) = .next t) ∧
    (∃ t, exec (.pktDisable) (mk []) = .next t) ∧
    (∃ t, exec (.pktCleanDone 0) (mk []) = .next t) ∧
    (∃ t, exec (.pktInvalidate) (mk []) = .next t) ∧
    (∃ t, exec (.pktClean) (mk []) = .next t) ∧
    (∃ t, exec (.pktCleanInvalidate) (mk []) = .next t) ∧
    (∃ t, exec (.pktRangeDone) (mk []) = .next t) ∧
    (∃ t, exec (.pktLfsrSeed 0) (mk []) = .next t) :=
  ⟨⟨_, rfl⟩, ⟨_, rfl⟩, ⟨_, rfl⟩, ⟨_, rfl⟩, ⟨_, rfl⟩, ⟨_, rfl⟩, ⟨_, rfl⟩, ⟨_, rfl⟩, ⟨_, rfl⟩, ⟨_, rfl⟩, ⟨_, rfl⟩, ⟨_, rfl⟩, ⟨_, rfl⟩, ⟨_, rfl⟩, ⟨_, rfl⟩⟩

theorem wit_FabricPortCommandsFrame :
    (∃ t, exec (.fabEnable false) (mk []) = .next t) ∧
    (∃ t, exec (.portDis 0) (mk []) = .next t) ∧
    (∃ t, exec (.linkUp 0 0 0 [] []) (mk []) = .next t) ∧
    (∃ t, exec (.linkDown 0 0) (mk []) = .next t) ∧
    (∃ t, exec (.failover 0 []) (mk []) = .next t) ∧
    (∃ t, exec (.addressAnnounce 0) (mk []) = .next t) ∧
    (∃ t, exec (.failback 0) (mk []) = .next t) ∧
    (∃ t, exec (.dhcpLeaseLost 0 0) (mk []) = .next t) ∧
    (∃ t, exec (.lldpReceive 0 0 0 0) (mk []) = .next t) ∧
    (∃ t, exec (.negotiationFailure 0 0) (mk []) = .next t) ∧
    (∃ t, exec (.transportConnectionFailure 0 0) (mk []) = .next t) ∧
    (∃ t, exec (.dhcpLeaseAcquired 0 false 0 false) (mk []) = .next t) :=
  ⟨⟨_, rfl⟩, ⟨_, rfl⟩, ⟨_, rfl⟩, ⟨_, rfl⟩, ⟨_, rfl⟩, ⟨_, rfl⟩, ⟨_, rfl⟩, ⟨_, rfl⟩, ⟨_, rfl⟩, ⟨_, rfl⟩, ⟨_, rfl⟩, ⟨_, rfl⟩⟩

theorem wit_TailorCommandsFrame :
    (∃ t, exec (.ageingDue 0 false) (mk []) = .next t) ∧
    (∃ t, exec (.ageingMeasureDone 0 ⟨[], 0, [], [], [], [], (false, false, false), [], false⟩) (mk []) = .next t) ∧
    (∃ t, exec (.verifyDue 0 0) (mk []) = .next t) ∧
    (∃ t, exec (.ageingOverdue 0) (mk []) = .next t) ∧
    (∃ t, exec (.trace false) (mk []) = .next t) ∧
    (∃ t, exec (.traceDone (.missing 0 0)) (mk []) = .next t) :=
  ⟨⟨_, rfl⟩, ⟨_, rfl⟩, ⟨_, rfl⟩, ⟨_, rfl⟩, ⟨_, rfl⟩, ⟨_, rfl⟩⟩

theorem wit_SideshowCommandsFrame :
    (∃ t, exec (.spiWriteFrame [] []) (mk []) = .next t) ∧
    (∃ t, exec (.spiReadFrame 0 0) (mk []) = .next t) ∧
    (∃ t, exec (.sdsGo) (mk []) = .next t) ∧
    (∃ t, exec (.sdsAck) (mk []) = .next t) ∧
    (∃ t, exec (.sdsClaim false 0) (mk []) = .next t) ∧
    (∃ t, exec (.sdsDone false 0) (mk []) = .next t) :=
  ⟨⟨_, rfl⟩, ⟨_, rfl⟩, ⟨_, rfl⟩, ⟨_, rfl⟩, ⟨_, rfl⟩, ⟨_, rfl⟩⟩

theorem wit_EventRecorderCommandsFrame :
    (∃ t, exec (.eventDescriptor) (mk []) = .next t) ∧
    (∃ t, exec (.recordCloseTimer) (mk []) = .next t) ∧
    (∃ t, exec (.ringProgramDone false) (mk []) = .next t) ∧
    (∃ t, exec (.ringBlockEraseDone false) (mk []) = .next t) ∧
    (∃ t, exec (.clearEraseDone false) (mk []) = .next t) :=
  ⟨⟨_, rfl⟩, ⟨_, rfl⟩, ⟨_, rfl⟩, ⟨_, rfl⟩, ⟨_, rfl⟩⟩

theorem wit_PowerStateThermalCommandsFrame :
    (∃ t, exec (.signalDetectWake) (mk []) = .next t) ∧
    (∃ t, exec (.opsecTick) (mk []) = .next t) ∧
    (∃ t, exec (.idleTimer) (mk []) = .next t) ∧
    (∃ t, exec (.wakeHoldExpiry false) (mk []) = .next t) ∧
    (∃ t, exec (.psEntryStep) (mk []) = .next t) ∧
    (∃ t, exec (.ssCsWake) (mk []) = .next t) ∧
    (∃ t, exec (.sidebandWake) (mk []) = .next t) ∧
    (∃ t, exec (.sensorSample 0 0) (mk []) = .next t) ∧
    (∃ t, exec (.thermalRestart) (mk []) = .next t) ∧
    (∃ t, exec (.throttleStepUp 0) (mk []) = .next t) ∧
    (∃ t, exec (.throttleStepDown 0) (mk []) = .next t) ∧
    (∃ t, exec (.throttleAlternate) (mk []) = .next t) ∧
    (∃ t, exec (.fabricPauseWindow) (mk []) = .next t) :=
  ⟨⟨_, rfl⟩, ⟨_, rfl⟩, ⟨_, rfl⟩, ⟨_, rfl⟩, ⟨_, rfl⟩, ⟨_, rfl⟩, ⟨_, rfl⟩, ⟨_, rfl⟩, ⟨_, rfl⟩, ⟨_, rfl⟩, ⟨_, rfl⟩, ⟨_, rfl⟩, ⟨_, rfl⟩⟩

theorem wit_ResetStartCommandsFrame :
    (∃ t, exec (.powerOnReset) (mk []) = .next t) ∧
    (∃ t, exec (.vin5Loss) (mk []) = .next t) ∧
    (∃ t, exec (.railLossReset) (mk []) = .next t) ∧
    (∃ t, exec (.firmwareReset) (mk []) = .next t) ∧
    (∃ t, exec (.ringmasterRestart) (mk []) = .next t) ∧
    (∃ t, exec (.xtalFail 0) (mk []) = .next t) ∧
    (∃ t, exec (.xtalRecover) (mk []) = .next t) ∧
    (∃ t, exec (.shortTimerEnd) (mk []) = .next t) ∧
    (∃ t, exec (.shortQuietEnd) (mk []) = .next t) ∧
    (∃ t, exec (.stage2) (mk []) = .next t) ∧
    (∃ t, exec (.spinPermission) (mk []) = .next t) ∧
    (∃ t, exec (.spinHoldNChange false) (mk []) = .next t) ∧
    (∃ t, exec (.spinBackoffEnd) (mk []) = .next t) ∧
    (∃ t, exec (.spinDelayEnd) (mk []) = .next t) ∧
    (∃ t, exec (.sagWaitEnd) (mk []) = .next t) ∧
    (∃ t, exec (.ioReady [] [] [] false) (mk []) = .next t) ∧
    (∃ t, exec (.startLate) (mk []) = .next t) ∧
    (∃ t, exec (.pwrEnStep) (mk []) = .next t) :=
  ⟨⟨_, rfl⟩, ⟨_, rfl⟩, ⟨_, rfl⟩, ⟨_, rfl⟩, ⟨_, rfl⟩, ⟨_, rfl⟩, ⟨_, rfl⟩, ⟨_, rfl⟩, ⟨_, rfl⟩, ⟨_, rfl⟩, ⟨_, rfl⟩, ⟨_, rfl⟩, ⟨_, rfl⟩, ⟨_, rfl⟩, ⟨_, rfl⟩, ⟨_, rfl⟩, ⟨_, rfl⟩, ⟨_, rfl⟩⟩

theorem wit_RegisterAccessCommandsFrame :
    (∃ t, exec (.enumerationComplete 0 0 0 [] 0) (mk []) = .next t) ∧
    (∃ t, exec (.headsOnRamp 0) (mk []) = .next t) ∧
    (∃ t, exec (.requestComplete ⟨10, 5⟩) (mk []) = .next t) ∧
    (∃ t, exec (.enable ⟨10, 5⟩ w0) (mk []) = .next t) ∧
    (∃ t, exec (.enableState ⟨10, 5⟩) (mk []) = .next t) ∧
    (∃ t, exec (.regRead ⟨10, 5⟩) (mk []) = .next t) ∧
    (∃ t, exec (.regWrite ⟨10, 5⟩ w0) (mk []) = .next t) ∧
    (∃ t, exec (.regReadBlock ⟨10, 5⟩) (mk []) = .next t) ∧
    (∃ t, exec (.regWriteBlock ⟨10, 5⟩ w0) (mk []) = .next t) ∧
    (∃ t, exec (.registerWrite 0 0 0 0 0 w0) (mk []) = .next t) ∧
    (∃ t, exec (.shadowCommit 0 []) (mk []) = .next t) :=
  ⟨⟨_, rfl⟩, ⟨_, rfl⟩, ⟨_, rfl⟩, ⟨_, rfl⟩, ⟨_, rfl⟩, ⟨_, rfl⟩, ⟨_, rfl⟩, ⟨_, rfl⟩, ⟨_, rfl⟩, ⟨_, rfl⟩, ⟨_, rfl⟩⟩

theorem wit_CasgusRequestCommandsFrame :
    (∃ t, exec (.identify ⟨10, 5⟩) (mk []) = .next t) ∧
    (∃ t, exec (.getNonce ⟨10, 5⟩ 0) (mk []) = .next t) ∧
    (∃ t, exec (.inventory ⟨10, 5⟩) (mk []) = .next t) ∧
    (∃ t, exec (.counters ⟨10, 5⟩) (mk []) = .next t) ∧
    (∃ t, exec (.clearXtal ⟨10, 5⟩) (mk []) = .next t) ∧
    (∃ t, exec (.optionRead ⟨10, 5⟩) (mk []) = .next t) ∧
    (∃ t, exec (.optionWrite ⟨10, 5⟩ false false) (mk []) = .next t) ∧
    (∃ t, exec (.keyRegister ⟨10, 5⟩ false false) (mk []) = .next t) ∧
    (∃ t, exec (.setBudget ⟨10, 5⟩) (mk []) = .next t) ∧
    (∃ t, exec (.getBudget ⟨10, 5⟩) (mk []) = .next t) ∧
    (∃ t, exec (.spinSlot ⟨10, 5⟩) (mk []) = .next t) ∧
    (∃ t, exec (.spinStatus ⟨10, 5⟩) (mk []) = .next t) ∧
    (∃ t, exec (.thermalRead ⟨10, 5⟩) (mk []) = .next t) ∧
    (∃ t, exec (.clearSuspect ⟨10, 5⟩) (mk []) = .next t) ∧
    (∃ t, exec (.trimRead ⟨10, 5⟩) (mk []) = .next t) ∧
    (∃ t, exec (.trimWrite ⟨10, 5⟩) (mk []) = .next t) ∧
    (∃ t, exec (.tableRead ⟨10, 5⟩) (mk []) = .next t) ∧
    (∃ t, exec (.tableWrite ⟨10, 5⟩) (mk []) = .next t) ∧
    (∃ t, exec (.tailorSave ⟨10, 5⟩ false) (mk []) = .next t) ∧
    (∃ t, exec (.certRead ⟨10, 5⟩) (mk []) = .next t) ∧
    (∃ t, exec (.ageingRead ⟨10, 5⟩) (mk []) = .next t) ∧
    (∃ t, exec (.marginRead ⟨10, 5⟩) (mk []) = .next t) ∧
    (∃ t, exec (.measureNow ⟨10, 5⟩) (mk []) = .next t) ∧
    (∃ t, exec (.pblRead ⟨10, 5⟩) (mk []) = .next t) ∧
    (∃ t, exec (.pblStatus ⟨10, 5⟩) (mk []) = .next t) ∧
    (∃ t, exec (.pblClear ⟨10, 5⟩ false) (mk []) = .next t) ∧
    (∃ t, exec (.fwDownload ⟨10, 5⟩ false) (mk []) = .next t) ∧
    (∃ t, exec (.fwCommit ⟨10, 5⟩ false) (mk []) = .next t) ∧
    (∃ t, exec (.fwStatus ⟨10, 5⟩) (mk []) = .next t) ∧
    (∃ t, exec (.flashStatus ⟨10, 5⟩) (mk []) = .next t) ∧
    (∃ t, exec (.placementSet ⟨10, 5⟩) (mk []) = .next t) ∧
    (∃ t, exec (.placementGet ⟨10, 5⟩) (mk []) = .next t) ∧
    (∃ t, exec (.bandInfo ⟨10, 5⟩) (mk []) = .next t) ∧
    (∃ t, exec (.poolInfo ⟨10, 5⟩) (mk []) = .next t) ∧
    (∃ t, exec (.altQueue ⟨10, 5⟩) (mk []) = .next t) ∧
    (∃ t, exec (.defaultsSet ⟨10, 5⟩) (mk []) = .next t) ∧
    (∃ t, exec (.defaultsGet ⟨10, 5⟩) (mk []) = .next t) ∧
    (∃ t, exec (.groupSet ⟨10, 5⟩) (mk []) = .next t) ∧
    (∃ t, exec (.groupStatus ⟨10, 5⟩) (mk []) = .next t) ∧
    (∃ t, exec (.peerHello ⟨10, 5⟩) (mk []) = .next t) ∧
    (∃ t, exec (.adopt ⟨10, 5⟩) (mk []) = .next t) ∧
    (∃ t, exec (.srcRoute ⟨10, 5⟩) (mk []) = .next t) ∧
    (∃ t, exec (.srcRead ⟨10, 5⟩) (mk []) = .next t) ∧
    (∃ t, exec (.doorbell ⟨10, 5⟩) (mk []) = .next t) ∧
    (∃ t, exec (.softSource ⟨10, 5⟩) (mk []) = .next t) ∧
    (∃ t, exec (.bankClaim ⟨10, 5⟩) (mk []) = .next t) ∧
    (∃ t, exec (.bankDone ⟨10, 5⟩) (mk []) = .next t) :=
  ⟨⟨_, rfl⟩, ⟨_, rfl⟩, ⟨_, rfl⟩, ⟨_, rfl⟩, ⟨_, rfl⟩, ⟨_, rfl⟩, ⟨_, rfl⟩, ⟨_, rfl⟩, ⟨_, rfl⟩, ⟨_, rfl⟩, ⟨_, rfl⟩, ⟨_, rfl⟩, ⟨_, rfl⟩, ⟨_, rfl⟩, ⟨_, rfl⟩, ⟨_, rfl⟩, ⟨_, rfl⟩, ⟨_, rfl⟩, ⟨_, rfl⟩, ⟨_, rfl⟩, ⟨_, rfl⟩, ⟨_, rfl⟩, ⟨_, rfl⟩, ⟨_, rfl⟩, ⟨_, rfl⟩, ⟨_, rfl⟩, ⟨_, rfl⟩, ⟨_, rfl⟩, ⟨_, rfl⟩, ⟨_, rfl⟩, ⟨_, rfl⟩, ⟨_, rfl⟩, ⟨_, rfl⟩, ⟨_, rfl⟩, ⟨_, rfl⟩, ⟨_, rfl⟩, ⟨_, rfl⟩, ⟨_, rfl⟩, ⟨_, rfl⟩, ⟨_, rfl⟩, ⟨_, rfl⟩, ⟨_, rfl⟩, ⟨_, rfl⟩, ⟨_, rfl⟩, ⟨_, rfl⟩, ⟨_, rfl⟩, ⟨_, rfl⟩⟩

theorem wit_KeyValueComputePeerGroupCommandsFrame :
    (∃ t, exec (.flush cid1 0) (mk []) = .next t) ∧
    (∃ t, exec (.store cid1 0 [] [] false false false) (mk []) = .next t) ∧
    (∃ t, exec (.retrieve cid1 0 []) (mk []) = .next t) ∧
    (∃ t, exec (.kvDelete cid1 0 []) (mk []) = .next t) ∧
    (∃ t, exec (.exist cid1 0 []) (mk []) = .next t) ∧
    (∃ t, exec (.list cid1 0 []) (mk []) = .next t) ∧
    (∃ t, exec (.loadProgram cid1 0 0 0 []) (mk []) = .next t) ∧
    (∃ t, exec (.programActivationManagement cid1 0 0 false) (mk []) = .next t) ∧
    (∃ t, exec (.executeProgram cid1 0 0 0 0 0 0 0) (mk []) = .next t) ∧
    (∃ t, exec (.helperCopy 0) (mk []) = .next t) ∧
    (∃ t, exec (.helperZcomp 0) (mk []) = .next t) ∧
    (∃ t, exec (.helperZdecomp 0) (mk []) = .next t) ∧
    (∃ t, exec (.helperSha256 0) (mk []) = .next t) ∧
    (∃ t, exec (.helperCrc32c 0) (mk []) = .next t) ∧
    (∃ t, exec (.helperOpsec 0) (mk []) = .next t) ∧
    (∃ t, exec (.memoryRangeSetManagement cid1 0 false 0 []) (mk []) = .next t) ∧
    (∃ t, exec (.memoryCopy cid1 0 0 []) (mk []) = .next t) ∧
    (∃ t, exec (.memoryRead cid1 0 0 0) (mk []) = .next t) ∧
    (∃ t, exec (.memoryWrite cid1 0 0 []) (mk []) = .next t) ∧
    (∃ t, exec (.truEnable false) (mk []) = .next t) ∧
    (∃ t, exec (.pwkAct) (mk []) = .next t) ∧
    (∃ t, exec (.discoveryPoll []) (mk []) = .next t) ∧
    (∃ t, exec (.discoveryLogPageChange []) (mk []) = .next t) ∧
    (∃ t, exec (.candidateAuthRetry ⟨true, [1], true, [], [1], 0, 32, 8, 4⟩) (mk []) = .next t) ∧
    (∃ t, exec (.peerTimeout []) (mk []) = .next t) ∧
    (∃ t, exec (.epochPropose) (mk []) = .next t) ∧
    (∃ t, exec (.proposalReceive 0 []) (mk []) = .next t) ∧
    (∃ t, exec (.proposalAckReceive 0 []) (mk []) = .next t) ∧
    (∃ t, exec (.epochCommitReceive 0) (mk []) = .next t) ∧
    (∃ t, exec (.proposalVoid) (mk []) = .next t) ∧
    (∃ t, exec (.epochRepropose) (mk []) = .next t) ∧
    (∃ t, exec (.fragmentStoreAck 0 0 false) (mk []) = .next t) ∧
    (∃ t, exec (.fragmentTimeout 0 0 false false) (mk []) = .next t) ∧
    (∃ t, exec (.rebuildFragment false) (mk []) = .next t) ∧
    (∃ t, exec (.hbmUncorrectable 0 0 0 [] 0 (0, [], 0)) (mk []) = .next t) :=
  ⟨⟨_, rfl⟩, ⟨_, rfl⟩, ⟨_, rfl⟩, ⟨_, rfl⟩, ⟨_, rfl⟩, ⟨_, rfl⟩, ⟨_, rfl⟩, ⟨_, rfl⟩, ⟨_, rfl⟩, ⟨_, rfl⟩, ⟨_, rfl⟩, ⟨_, rfl⟩, ⟨_, rfl⟩, ⟨_, rfl⟩, ⟨_, rfl⟩, ⟨_, rfl⟩, ⟨_, rfl⟩, ⟨_, rfl⟩, ⟨_, rfl⟩, ⟨_, rfl⟩, ⟨_, rfl⟩, ⟨_, rfl⟩, ⟨_, rfl⟩, ⟨_, rfl⟩, ⟨_, rfl⟩, ⟨_, rfl⟩, ⟨_, rfl⟩, ⟨_, rfl⟩, ⟨_, rfl⟩, ⟨_, rfl⟩, ⟨_, rfl⟩, ⟨_, rfl⟩, ⟨_, rfl⟩, ⟨_, rfl⟩, ⟨_, rfl⟩⟩

theorem wit_HostCommandCommandsFrame :
    (∃ t, exec (.durablePointStands 0 0) (mk []) = .next t) ∧
    (∃ t, exec (.connect 0 0 0 0 false 0 0 [] false ⟨false, 1, 0, 0, 0⟩) (mk []) = .next t) ∧
    (∃ t, exec (.disconnect 0) (mk []) = .next t) ∧
    (∃ t, exec (.controllerReset 0) (mk []) = .next t) ∧
    (∃ t, exec (.katoExpiry 0) (mk []) = .next t) ∧
    (∃ t, exec (.nvmeIdentify cid1 0 0 0) (mk []) = .next t) ∧
    (∃ t, exec (.getLogPage cid1 0 0) (mk []) = .next t) ∧
    (∃ t, exec (.getFeatures cid1 0 0 0) (mk []) = .next t) ∧
    (∃ t, exec (.arbitration cid1 0) (mk []) = .next t) ∧
    (∃ t, exec (.powerManagement cid1 0) (mk []) = .next t) ∧
    (∃ t, exec (.temperatureThreshold cid1 0 false 0) (mk []) = .next t) ∧
    (∃ t, exec (.volatileWriteCache cid1 false) (mk []) = .next t) ∧
    (∃ t, exec (.numberOfQueues cid1 0 0) (mk []) = .next t) ∧
    (∃ t, exec (.asynchronousEventConfiguration cid1 0) (mk []) = .next t) ∧
    (∃ t, exec (.keepAliveTimer cid1 0) (mk []) = .next t) ∧
    (∃ t, exec (.hostIdentifier cid1 false 0) (mk []) = .next t) ∧
    (∃ t, exec (.latencyBudget cid1 0 0) (mk []) = .next t) ∧
    (∃ t, exec (.abort cid1 0 0 false) (mk []) = .next t) ∧
    (∃ t, exec (.asynchronousEventRequest cid1) (mk []) = .next t) ∧
    (∃ t, exec (.namespaceCreate cid1 0 0 0 0 0) (mk []) = .next t) ∧
    (∃ t, exec (.namespaceDelete cid1 0) (mk []) = .next t) ∧
    (∃ t, exec (.namespaceAttachment cid1 0 false []) (mk []) = .next t) ∧
    (∃ t, exec (.firmwareImageDownload cid1 0 [] false) (mk []) = .next t) ∧
    (∃ t, exec (.firmwareCommit cid1 0 0 false) (mk []) = .next t) ∧
    (∃ t, exec (.deviceSelfTest cid1 false 0) (mk []) = .next t) ∧
    (∃ t, exec (.selfTestAbort cid1) (mk []) = .next t) ∧
    (∃ t, exec (.selfTestSegment false 0 0) (mk []) = .next t) ∧
    (∃ t, exec (.keepAlive cid1) (mk []) = .next t) ∧
    (∃ t, exec (.formatNvm cid1 0 0 0 0) (mk []) = .next t) ∧
    (∃ t, exec (.sanitizeCryptoErase cid1) (mk []) = .next t) ∧
    (∃ t, exec (.sanitizeBlockErase cid1) (mk []) = .next t) ∧
    (∃ t, exec (.unsupportedOpcode cid1) (mk []) = .next t) ∧
    (∃ t, exec (.read cid1 0 0 0 false) (mk []) = .next t) ∧
    (∃ t, exec (.write cid1 0 0 [] false) (mk []) = .next t) ∧
    (∃ t, exec (.writeZeroes cid1 0 0 0 false) (mk []) = .next t) ∧
    (∃ t, exec (.datasetManagement cid1 0 false []) (mk []) = .next t) ∧
    (∃ t, exec (.verify cid1 0 0 0) (mk []) = .next t) ∧
    (∃ t, exec (.zoneAppend cid1 0 0 [] false) (mk []) = .next t) ∧
    (∃ t, exec (.zoneReset cid1 0 0 false) (mk []) = .next t) ∧
    (∃ t, exec (.zoneFinish cid1 0 0 false) (mk []) = .next t) ∧
    (∃ t, exec (.zoneOpen cid1 0 0 false) (mk []) = .next t) ∧
    (∃ t, exec (.zoneClose cid1 0 0 false) (mk []) = .next t) ∧
    (∃ t, exec (.setZoneDescriptorExtension cid1 0 0) (mk []) = .next t) ∧
    (∃ t, exec (.zoneManagementReceive cid1 0 0 false) (mk []) = .next t) ∧
    (∃ t, exec (.intakeVisit [] false) (mk []) = .next t) ∧
    (∃ t, exec (.turnstileRelease cid1) (mk []) = .next t) ∧
    (∃ t, exec (.jugglerPick 0 0) (mk []) = .next t) ∧
    (∃ t, exec (.cmdEnable) (mk []) = .next t) ∧
    (∃ t, exec (.fetchHold false) (mk []) = .next t) ∧
    (∃ t, exec (.hiwatClr) (mk []) = .next t) :=
  ⟨⟨_, rfl⟩, ⟨_, rfl⟩, ⟨_, rfl⟩, ⟨_, rfl⟩, ⟨_, rfl⟩, ⟨_, rfl⟩, ⟨_, rfl⟩, ⟨_, rfl⟩, ⟨_, rfl⟩, ⟨_, rfl⟩, ⟨_, rfl⟩, ⟨_, rfl⟩, ⟨_, rfl⟩, ⟨_, rfl⟩, ⟨_, rfl⟩, ⟨_, rfl⟩, ⟨_, rfl⟩, ⟨_, rfl⟩, ⟨_, rfl⟩, ⟨_, rfl⟩, ⟨_, rfl⟩, ⟨_, rfl⟩, ⟨_, rfl⟩, ⟨_, rfl⟩, ⟨_, rfl⟩, ⟨_, rfl⟩, ⟨_, rfl⟩, ⟨_, rfl⟩, ⟨_, rfl⟩, ⟨_, rfl⟩, ⟨_, rfl⟩, ⟨_, rfl⟩, ⟨_, rfl⟩, ⟨_, rfl⟩, ⟨_, rfl⟩, ⟨_, rfl⟩, ⟨_, rfl⟩, ⟨_, rfl⟩, ⟨_, rfl⟩, ⟨_, rfl⟩, ⟨_, rfl⟩, ⟨_, rfl⟩, ⟨_, rfl⟩, ⟨_, rfl⟩, ⟨_, rfl⟩, ⟨_, rfl⟩, ⟨_, rfl⟩, ⟨_, rfl⟩, ⟨_, rfl⟩, ⟨_, rfl⟩⟩

end Sys2Proof.Tests
end

/-!
PROOFS. The read channel's lock test (R66, R67) and its counters (R91): first what the operations these commands are made of
leave to be read, then what each command does, then the two statements.
-/

namespace Sys2Proof.Machine

/-! ## PREAMBLE_ACQUIRE and ACQUISITION_FAILURE -/

/-- Of the registers, LMS reaches the words of its event and of its counter alone (R71). -/
theorem get_lmsApply_other (a : Act) (l : List (Fin 26 × Int)) (s : State) (k : Fld)
    (hevt : k.off ≠ 12) (hcnt : k.off ≠ 88) : (lmsApply a s l).get k = s.get k := by
  refine (lmsApply_out a l (Out.refl s) (Key.sub_refl _)).get k fun n hn hk => ?_
  simp only [List.mem_cons, List.not_mem_nil, or_false] at hn
  rcases hn with rfl | rfl | rfl | rfl | rfl
  · exact hevt hk.2
  · exact hcnt hk.2
  all_goals exact hk

/-- A sector at its preamble: not yet an erasure, no sync mark found, no fragment read. -/
def Sect.atPreamble (sidx : Fin 256) : Sect := ⟨sidx, false, 0, false, 0, false, false, [], [], []⟩

/-- The channel with the sector of a preamble as its current one. -/
def State.preambleSector (s : State) (a : Act) (sidx : Fin 256) : State :=
  s.setRop a { s.rop a with cur := some (Sect.atPreamble sidx) }

/-- A lock at test `k` sets LOCK, keeps the test's bit and lets LMS move the working set (R66, R67, R71). -/
theorem preambleAcquire_lock (a : Act) (sidx : Fin 256) (k : Fin 8) (ad : List (Fin 26 × Int)) (s : State)
    (hact : (s.rop a).active = true) (hgate : s.gateOn a 1 = true) (hzone : (s.rop a).zone ≠ 64) :
    preambleAcquire a sidx (some k) ad s =
      lmsApply a ((s.preambleSector a sidx).puts [(R.CHN_STAT_LOCK a, 1), (V.chnAcqBit a, 96 + 8 * k.val)])
        (if s.on (R.CHN_CTL_LMS_EN a) then ad else []) := by
  simp [preambleAcquire, State.preambleSector, Sect.atPreamble, hact, hgate, hzone]

/-- When all eight tests fail, LOCK reads 0 and the sector stays current (R67). -/
theorem preambleAcquire_noLock (a : Act) (sidx : Fin 256) (ad : List (Fin 26 × Int)) (s : State)
    (hact : (s.rop a).active = true) (hgate : s.gateOn a 1 = true) :
    preambleAcquire a sidx none ad s = (s.preambleSector a sidx).put (R.CHN_STAT_LOCK a) 0 := by
  simp [preambleAcquire, State.preambleSector, Sect.atPreamble, hact, hgate]

/-- The current sector without lock is an erasure of cause 1, and ACQ_FAIL is set (R67). -/
theorem acquisitionFailure_noLock (a : Act) (x : Sect) (s : State) (hcur : (s.rop a).cur = some x)
    (hlock : s.get (R.CHN_STAT_LOCK a) = 0) :
    acquisitionFailure a s =
      (s.setRop a { s.rop a with cur := some { x with eras := true, cause := 1 } }).evt (R.CHN_EVT_ACQ_FAIL a) := by
  simp [acquisitionFailure, hcur, State.on, hlock]

theorem exec_preambleAcquire (a : Act) (sidx : Fin 256) (lock : Option (Fin 8)) (ad : List (Fin 26 × Int)) (s : State) :
    exec (.preambleAcquire a sidx lock ad) s = .next (preambleAcquire a sidx lock ad s) := rfl

theorem exec_acquisitionFailure (a : Act) (s : State) : exec (.acquisitionFailure a) s = .next (acquisitionFailure a s) := rfl

/-- Settles O7: the three clauses read the results of the two commands in the case each names; LMS, which follows a lock,
reaches neither LOCK nor the kept bit. -/
theorem lockTestRepeats : Obligations.LockTestRepeats := by
  unfold Obligations.LockTestRepeats
  refine ⟨fun a sidx k ad s hact hgate hzone => ⟨_, exec_preambleAcquire .., ?_⟩,
    fun a sidx ad s hact hgate => ⟨_, exec_preambleAcquire .., ?_⟩,
    fun a x s hcur hlock => ⟨_, exec_acquisitionFailure .., ?_⟩⟩
  · rw [preambleAcquire_lock a sidx k ad s hact hgate hzone, get_lmsApply_other _ _ _ _ (by simp) (by simp),
      get_lmsApply_other _ _ _ _ (by simp) (by simp)]
    have hbit : 96 + 8 * k.val < 2 ^ 8 := by omega
    exact ⟨by simp [State.get_put], by simpa using hbit⟩
  · rw [preambleAcquire_noLock a sidx ad s hact hgate]
    exact ⟨by simp, by simp [State.preambleSector, Sect.atPreamble]⟩
  · rw [acquisitionFailure_noLock a x s hcur hlock]
    exact ⟨by simp, by simp⟩

/-! ## Fields of a canonical state -/

/-- A table gives a key its unlisted value or lists what it gives. -/
theorem Tab.get_eq_or_mem {κ β : Type} [DecidableEq κ] (d : κ → β) (m : List (κ × β)) (k : κ) :
    Tab.get d m k = d k ∨ (k, Tab.get d m k) ∈ m := by
  induction m with
  | nil => exact .inl rfl
  | cons e m ih =>
    by_cases h : e.1 = k
    · subst h; simp [Tab.get]
    · simpa [Tab.get, h] using ih.imp_right .inr

/-- In a canonical state a field holds a value of its width. -/
theorem State.get_lt_of_canon {s : State} (h : s.canon = true) (k : Fld) (hr : k.rst < 2 ^ k.w) : s.get k < 2 ^ k.w := by
  obtain ⟨hf, -⟩ := (State.canon_iff s).mp h
  simp only [State.fieldsOk, Bool.and_eq_true, List.all_eq_true, decide_eq_true_eq] at hf
  rcases Tab.get_eq_or_mem Fld.rst s.flds k with hk | hk
  · exact lt_of_eq_of_lt hk hr
  · exact hf.2 _ hk

/-! ## Counters of R91's layout -/

/-- A counter's 16-bit COUNT is no event bit. -/
theorem Fld.ne_evtBit_of_width {c : Fld} (hw : c.w = 16) (b i n : Nat) : c ≠ evtBit b i n := by
  rintro rfl
  cases hw

/-- A counter's COUNT is not its flag. -/
theorem Fld.ne_sat_of_width {c : Fld} (hw : c.w = 16) : c ≠ { c with lo := 16, w := 1 } := fun h => by
  cases hw.symm.trans (congrArg Fld.w h)

/-- SAT after counting: it stays while COUNT is below 65,535 and is 1 from there on (R91). -/
theorem State.get_countUp_sat (s : State) (c : Fld) (n : Nat) (hw : c.w = 16) (hsat : s.get { c with lo := 16, w := 1 } < 2) :
    (s.countUp c n).get { c with lo := 16, w := 1 } =
      if s.get c + n < 65535 then s.get { c with lo := 16, w := 1 } else 1 := by
  have hne := (Fld.ne_sat_of_width hw).symm
  unfold State.countUp
  dsimp only
  split
  · exact State.get_put_other _ _ hne
  · by_cases hon : s.get { c with lo := 16, w := 1 } = 0
    · rw [State.on, decide_eq_false (not_not.mpr hon), Bool.not_false, State.when_true]
      cases cntSatBit c.blk <;> simp [evtBit]
    · rw [State.on, decide_eq_true hon, Bool.not_true, State.when_false, State.get_put_other _ _ hne]
      omega

/-- A clear outside the sequencers counts the events of its cycle from COUNT and SAT at 0 (R91). -/
theorem State.counterClear_of_blk (s : State) (c : Fld) (n : Nat) (hb : c.blk ≠ 0x0D) :
    s.counterClear c n = ((s.put c 0).put { c with lo := 16, w := 1 } 0).countN c n := if_neg hb

theorem State.get_counterClear_same (s : State) (c : Fld) (n : Nat) (hw : c.w = 16) (hb : c.blk ≠ 0x0D) :
    (s.counterClear c n).get c = Nat.min n 65535 := by
  rw [State.counterClear_of_blk s c n hb, State.get_countN_same _ _ _ hw fun b _ => Fld.ne_evtBit_of_width hw _ _ b,
    State.get_put_other _ _ (Fld.ne_sat_of_width hw), State.get_put_same, Nat.zero_mod, Nat.zero_add]

theorem State.get_counterClear_sat (s : State) (c : Fld) (n : Nat) (hw : c.w = 16) (hb : c.blk ≠ 0x0D) :
    (s.counterClear c n).get { c with lo := 16, w := 1 } = if n < 65535 then 0 else 1 := by
  rw [State.counterClear_of_blk s c n hb, State.get_countN, State.get_countUp_sat _ _ _ hw (by simp),
    State.get_put_other _ _ (Fld.ne_sat_of_width hw)]
  simp

/-- The eight words from +0x040 to +0x05C of a channel are counters (R91). -/
theorem isCounter_channel : ∀ j : Fin 8, isCounter 0x0C (0x40 + 4 * j) = true := by decide

theorem exec_counterClear (blk inst off n : Nat) (s : State) (h : isCounter blk off = true) :
    exec (.counterClear blk inst off n) s = .next (s.counterClear ⟨blk, inst, off, 0, 16, 0⟩ n) :=
  congrArg Host.Outcome.next (if_pos h)

/-- Settles O8: counting and clearing read as the laws of counters say; the canonical form bounds SAT, which is set once and
then stays. -/
theorem countersSaturateAndClear : Obligations.CountersSaturateAndClear := by
  unfold Obligations.CountersSaturateAndClear
  rintro a j n s c sat rfl rfl hcanon
  refine ⟨State.get_countN_same _ _ _ rfl fun b _ => Fld.ne_evtBit_of_width rfl _ _ b, ?_,
    _, exec_counterClear _ _ _ _ s (isCounter_channel j), ?_, ?_⟩
  · rw [State.get_countN]
    exact State.get_countUp_sat s ⟨0x0C, a, 0x40 + 4 * j, 0, 16, 0⟩ n rfl
      (State.get_lt_of_canon hcanon _ Nat.zero_lt_two)
  · exact State.get_counterClear_same s _ n rfl (by simp)
  · exact State.get_counterClear_sat s ⟨0x0C, a, 0x40 + 4 * j, 0, 16, 0⟩ n rfl (by simp)

end Sys2Proof.Machine

/-!
PROOFS. The recorder's sources (R472): which edges the operations of EVENT_DESCRIPTOR latch, counted for one source at a
time, for the flash bank that takes the ring's next page latches edges of its own.
-/

namespace Sys2Proof.Machine

/-! ## Edges latched, by source -/

/-- An operation whose keys do not name the edges latches none. -/
theorem Out.edges_eq {l : List Key} {s t : State} (h : Out l s t) (hl : Key.p .edges ∉ l) : t.edges = s.edges :=
  h.part .edges hl

@[simp] theorem State.puts_edges (s : State) (l : List (Fld × Nat)) : (s.puts l).edges = s.edges := by
  induction l generalizing s with
  | nil => rfl
  | cons e l ih => exact (ih _).trans (State.put_edges s e.1 e.2)

@[simp] theorem State.edge_edges (s : State) (src : Nat) : (s.edge src).edges = s.edges ++ [src] := rfl

/-- An event latches no edge but of its own block instance's source (R364). -/
theorem State.count_edges_evt (s : State) (k : Fld) {n : Nat} (hn : 16 * k.blk + k.inst ≠ n) :
    (s.evt k).edges.count n = s.edges.count n := by
  unfold State.evt State.watch
  dsimp only
  split
  · simpa [List.count_singleton] using hn
  · rw [State.put_edges]

/-! ## The ring in bank 3 -/

@[simp] theorem State.waitFor_edges (s : State) (b : Nat) (r : FlashReq) : (s.waitFor b r).edges = s.edges :=
  (State.waitFor_out b r (.refl s) (Key.sub_refl _)).edges_eq (by simp)

@[simp] theorem State.startProg_edges (s : State) (a : Nat) (bs : List Byte) : (s.startProg a bs).edges = s.edges :=
  (State.startProg_out a bs (.refl s) (Key.sub_refl _)).edges_eq (by simp)

@[simp] theorem State.suspendOp_edges (s : State) (b : Nat) : (s.suspendOp b).edges = s.edges :=
  (State.suspendOp_out b (.refl s) (Key.sub_refl _)).edges_eq (by simp)

/-- A program request latches no edge but of the flash's source 0x140, on a refusal. -/
theorem State.count_edges_reqProg (s : State) (a : Nat) (d : List Byte) (ran : Nat) {n : Nat} (hn : 0x140 ≠ n) :
    (s.reqProg a d ran).edges.count n = s.edges.count n := by
  unfold State.reqProg
  dsimp only
  split
  · exact State.count_edges_evt s _ hn
  · split
    · rw [State.waitFor_edges]
    · split
      · rw [State.startProg_edges]
      · split
        · rw [State.startProg_edges, State.suspendOp_edges]
        · rw [State.waitFor_edges]

@[simp] theorem State.reqErase_edges (s : State) (g : Nat) : (s.reqErase g).edges = s.edges :=
  (State.reqErase_out g (.refl s) (Key.sub_refl _)).edges_eq (by simp)

theorem State.count_edges_ringGo (s : State) {n : Nat} (hn : 0x140 ≠ n) : s.ringGo.edges.count n = s.edges.count n := by
  unfold State.ringGo
  split
  · rfl
  · split
    · split
      · rfl
      · rw [State.reqErase_edges]
    · split
      · exact State.count_edges_reqProg s _ _ _ hn
      · split
        · rw [State.reqErase_edges]
        · rfl

theorem State.count_edges_showPbl (s : State) {n : Nat} (hn : 0x140 ≠ n) :
    s.showPbl.edges.count n = s.edges.count n := by
  unfold State.showPbl
  dsimp only
  rw [State.puts_edges, State.count_edges_ringGo s hn]

/-! ## The open record -/

theorem State.count_edges_closeRec (s : State) {n : Nat} (hn : 0x140 ≠ n) :
    s.closeRec.edges.count n = s.edges.count n := by
  unfold State.closeRec
  split
  · rfl
  · split
    · rfl
    · rw [State.count_edges_showPbl _ hn, State.put_edges]

theorem State.edges_when_edge (s : State) (c : Bool) (src : Nat) :
    (s.when c fun u => u.edge src).edges = s.edges ++ if c = true then [src] else [] := by
  cases c <;> simp

/-- The sources that fire when a record opens for a descriptor (R472). -/
def Desc.firing (d : Desc) : List Nat :=
  (if warning ≤ d.sev then [0x1C0] else []) ++ if error ≤ d.sev then [0x1C1] else []

theorem Desc.count_firing_warning (d : Desc) : d.firing.count 0x1C0 = if warning ≤ d.sev then 1 else 0 := by
  unfold Desc.firing
  split_ifs <;> rfl

theorem Desc.count_firing_error (d : Desc) : d.firing.count 0x1C1 = if error ≤ d.sev then 1 else 0 := by
  unfold Desc.firing
  split_ifs <;> rfl

/-- Opening a record latches its sources; the ring's front-end, which then goes on, latches the flash's alone. -/
theorem State.count_edges_openRec (s : State) (d : Desc) {n : Nat} (hn : 0x140 ≠ n) :
    (s.openRec d).edges.count n = s.edges.count n + d.firing.count n := by
  unfold State.openRec
  dsimp only
  rw [State.count_edges_showPbl _ hn, State.edges_when_edge, State.edges_when_edge, State.puts_edges]
  simp only [decide_eq_true_eq, Desc.firing, List.append_assoc, List.count_append]

/-! ## EVENT_DESCRIPTOR -/

theorem State.acceptDesc_none {s : State} (d : Desc) (h : s.popen = none) : s.acceptDesc d = s.openRec d := by
  unfold State.acceptDesc
  rw [h]

/-- A descriptor unlike the open record's closes that record, for which the buffer has room, and opens its own (R470). -/
theorem State.acceptDesc_other {s : State} {r : Rec} {d : Desc} (h : s.popen = some r) (hd : r.desc ≠ d)
    (hbuf : s.pbuf.length < 64) : s.acceptDesc d = s.closeRec.openRec d := by
  simp [State.acceptDesc, h, hd, Nat.not_le.mpr hbuf]

/-- A repeat is counted in the open record, whose count holds at 65,535 (R471). -/
theorem State.acceptDesc_repeat {s : State} {r : Rec} (h : s.popen = some r) (hdrop : s.get V.pbDrop = 0)
    (hheld : s.get V.pbHeld = 0) :
    s.acceptDesc r.desc =
      if r.reps = 65535 then ({ s with popen := some { r with repSat := true } }).evt R.PBL_EVT_REP_SAT
      else { s with popen := some { r with reps := r.reps + 1, lastOpsec := s.opsec } } := by
  simp [State.acceptDesc, h, hdrop, State.on, hheld]

/-- A descriptor that opens a record latches its sources. -/
theorem State.count_edges_acceptDesc_opens {s : State} {d : Desc}
    (h : s.popen = none ∨ ∃ r, s.popen = some r ∧ r.desc ≠ d ∧ s.pbuf.length < 64) {n : Nat} (hn : 0x140 ≠ n) :
    (s.acceptDesc d).edges.count n = s.edges.count n + d.firing.count n := by
  rcases h with hnone | ⟨r, hr, hd, hbuf⟩
  · rw [State.acceptDesc_none d hnone, State.count_edges_openRec s d hn]
  · rw [State.acceptDesc_other hr hd hbuf, State.count_edges_openRec _ d hn, State.count_edges_closeRec s hn]

/-- A repeat latches no edge but of the recorder's own source 0x190, when its count saturates. -/
theorem State.count_edges_acceptDesc_repeat {s : State} {r : Rec} (h : s.popen = some r) (hdrop : s.get V.pbDrop = 0)
    (hheld : s.get V.pbHeld = 0) {n : Nat} (hn : 0x190 ≠ n) :
    (s.acceptDesc r.desc).edges.count n = s.edges.count n := by
  rw [State.acceptDesc_repeat h hdrop hheld]
  split
  · exact State.count_edges_evt _ _ hn
  · rfl

theorem exec_eventDescriptor (s : State) : exec .eventDescriptor s = .next (eventDescriptor s) := rfl

theorem eventDescriptor_cons {s : State} {d : Desc} {l : List Desc} (h : s.inbox = d :: l) :
    eventDescriptor s = ({ s with inbox := l }).acceptDesc d := by
  rw [eventDescriptor, h]

theorem count_edges_eventDescriptor_opens {s : State} {d : Desc} {l : List Desc} (hin : s.inbox = d :: l)
    (h : s.popen = none ∨ ∃ r, s.popen = some r ∧ r.desc ≠ d ∧ s.pbuf.length < 64) {n : Nat} (hn : 0x140 ≠ n) :
    (eventDescriptor s).edges.count n = s.edges.count n + d.firing.count n := by
  rw [eventDescriptor_cons hin]
  exact State.count_edges_acceptDesc_opens (s := { s with inbox := l }) h hn

theorem count_edges_eventDescriptor_repeat {s : State} {r : Rec} {l : List Desc} (hin : s.inbox = r.desc :: l)
    (h : s.popen = some r) (hdrop : s.get V.pbDrop = 0) (hheld : s.get V.pbHeld = 0) {n : Nat} (hn : 0x190 ≠ n) :
    (eventDescriptor s).edges.count n = s.edges.count n := by
  rw [eventDescriptor_cons hin]
  exact State.count_edges_acceptDesc_repeat (s := { s with inbox := l }) h hdrop hheld hn

/-- Settles O9: each clause counts its two sources among the edges of the case of EVENT_DESCRIPTOR that it names. -/
theorem recordOpeningFiresSources : Obligations.RecordOpeningFiresSources := by
  unfold Obligations.RecordOpeningFiresSources
  refine fun d l s hin => ⟨_, exec_eventDescriptor s, fun hopens => ⟨?_, ?_⟩, ?_⟩
  · rw [count_edges_eventDescriptor_opens hin hopens (by decide), d.count_firing_warning]
  · rw [count_edges_eventDescriptor_opens hin hopens (by decide), d.count_firing_error]
  · rintro r hr rfl hdrop hheld
    have latchesNo {n : Nat} := count_edges_eventDescriptor_repeat hin hr hdrop hheld (n := n)
    exact ⟨latchesNo (by decide), latchesNo (by decide)⟩

end Sys2Proof.Machine

/-!
PROOFS. The step as a whole: every command keeps the queue behind it and the canonical form of the state, and answers a next
state wherever the flash array holds what it names.
-/

namespace Sys2Proof.Machine

set_option Elab.async false

/-! ## What every command keeps -/

/-- Every command leaves the queue as it finds it and a canonical state canonical: each row of the table by its own law. -/
theorem exec_kept {c : Instr} {s t : State} (h : exec c s = .next t) : Kept s t := by
  cases c with
  | powerOnReset => exact execPowerOnReset_kept h
  | vin5Loss => exact execVin5Loss_kept h
  | railLossReset => exact execRailLossReset_kept h
  | firmwareReset => exact execFirmwareReset_kept h
  | ringmasterRestart => exact execRingmasterRestart_kept h
  | dieLinkFrame => exact execDieLinkFrame_kept _ h
  | heartbeatAdvance => exact execHeartbeatAdvance_kept h
  | heartbeatMiss => exact execHeartbeatMiss_kept _ h
  | xtalFail => exact execXtalFail_kept _ h
  | xtalRecover => exact execXtalRecover_kept h
  | readOpStart => exact execReadOpStart_kept _ h
  | preambleAcquire => exact execPreambleAcquire_kept _ _ _ _ h
  | acquisitionFailure => exact execAcquisitionFailure_kept _ h
  | syncFraming => exact execSyncFraming_kept _ _ _ h
  | fsmSearch => exact execFsmSearch_kept _ _ h
  | defectSpan => exact execDefectSpan_kept _ _ _ _ _ _ h
  | sectorSamplesDone => exact execSectorSamplesDone_kept _ _ h
  | ldpcConverge => exact execLdpcConverge_kept _ _ h
  | ldpcWindowEnd => exact execLdpcWindowEnd_kept _ h
  | retryRung => exact execRetryRung_kept _ _ h
  | retryTimeLimit => exact execRetryTimeLimit_kept _ h
  | outerCodeRebuild => exact execOuterCodeRebuild_kept _ _ h
  | chnEnable => exact execChnEnable_kept _ h
  | rdAbort => exact execRdAbort_kept _ h
  | replayHold => exact execReplayHold_kept _ _ h
  | counterClear => exact execCounterClear_kept _ _ _ _ h
  | lanyardGateFrame => exact execLanyardGateFrame_kept _ _ h
  | lanyardRegWrite => exact execLanyardRegWrite_kept _ _ _ _ _ _ h
  | lanyardRegRead => exact execLanyardRegRead_kept _ _ _ _ _ h
  | sptEnable => exact execSptEnable_kept _ h
  | enumerationComplete => exact execEnumerationComplete_kept _ _ _ _ _ h
  | preampFault => exact execPreampFault_kept _ _ _ _ h
  | wrInh => exact execWrInh_kept _ _ h
  | hdwpClear => exact execHdwpClear_kept _ _ _ h
  | preheatDone => exact execPreheatDone_kept _ h
  | touchdownGo => exact execTouchdownGo_kept _ h
  | touchdownDwellEnd => exact execTouchdownDwellEnd_kept _ _ h
  | touchdownAbort => exact execTouchdownAbort_kept h
  | loadMeasureGo => exact execLoadMeasureGo_kept _ _ _ h
  | loadMeasureDone => exact execLoadMeasureDone_kept _ _ _ h
  | tfhEnable => exact execTfhEnable_kept h
  | seqEnable => exact execSeqEnable_kept _ _ h
  | routineStart => exact execRoutineStart_kept _ _ _ _ h
  | barkerNop => exact execBarkerNop_kept _ _ _ h
  | barkerJmp => exact execBarkerJmp_kept _ _ _ h
  | barkerBr => exact execBarkerBr_kept _ _ _ h
  | barkerCall => exact execBarkerCall_kept _ _ _ h
  | barkerRet => exact execBarkerRet_kept _ _ _ h
  | barkerWait => exact execBarkerWait_kept _ _ _ h
  | barkerLoad => exact execBarkerLoad_kept _ _ _ h
  | barkerAdd => exact execBarkerAdd_kept _ _ _ h
  | barkerEnd => exact execBarkerEnd_kept _ _ _ h
  | barkerWaitMet => exact execBarkerWaitMet_kept _ _ h
  | barkerWaitTimeout => exact execBarkerWaitTimeout_kept _ _ h
  | jobRestart => exact execJobRestart_kept _ h
  | seqMchkRecovery => exact execSeqMchkRecovery_kept _ _ h
  | seqScrubPass => exact execSeqScrubPass_kept _ _ _ h
  | servoWedge => exact execServoWedge_kept _ _ h
  | samPredicted => exact execSamPredicted_kept _ _ h
  | seekStart => exact execSeekStart_kept _ _ h
  | seekTimeout => exact execSeekTimeout_kept _ h
  | loadRequest => exact execLoadRequest_kept _ h
  | loadDeferredStart => exact execLoadDeferredStart_kept _ h
  | loadingOffRamp => exact execLoadingOffRamp_kept _ h
  | acquireTimeout => exact execAcquireTimeout_kept _ h
  | holdRelockTimeout => exact execHoldRelockTimeout_kept _ h
  | loadRetry => exact execLoadRetry_kept _ h
  | unloadRequest => exact execUnloadRequest_kept _ _ h
  | headsOnRamp => exact execHeadsOnRamp_kept _ h
  | maStrokeMeasure => exact execMaStrokeMeasure_kept _ _ h
  | mediaWedgeMissing => exact execMediaWedgeMissing_kept h
  | srvEnable => exact execSrvEnable_kept _ h
  | srvOfsWrite => exact execSrvOfsWrite_kept _ _ h
  | trzEnable => exact execTrzEnable_kept _ h
  | trzNop => exact execTrzNop_kept _ h
  | trzJmp => exact execTrzJmp_kept _ h
  | trzBr => exact execTrzBr_kept _ h
  | trzCall => exact execTrzCall_kept _ h
  | trzRet => exact execTrzRet_kept _ h
  | trzWait => exact execTrzWait_kept _ h
  | trzLd => exact execTrzLd_kept _ h
  | trzMov => exact execTrzMov_kept _ h
  | trzAdd => exact execTrzAdd_kept _ h
  | trzSub => exact execTrzSub_kept _ h
  | trzMul => exact execTrzMul_kept _ h
  | trzMac => exact execTrzMac_kept _ h
  | trzAccout => exact execTrzAccout_kept _ h
  | trzClracc => exact execTrzClracc_kept _ h
  | trzMin => exact execTrzMin_kept _ h
  | trzMax => exact execTrzMax_kept _ h
  | trzLut => exact execTrzLut_kept _ h
  | trzCmp => exact execTrzCmp_kept _ h
  | trzEnd => exact execTrzEnd_kept _ h
  | trzWaitMet => exact execTrzWaitMet_kept h
  | trzWaitTimeout => exact execTrzWaitTimeout_kept h
  | lutReady => exact execLutReady_kept h
  | loopDispatch => exact execLoopDispatch_kept _ h
  | loopDeadlineMiss => exact execLoopDeadlineMiss_kept _ h
  | trzScrubError => exact execTrzScrubError_kept _ _ h
  | trzScrubRewriteDone => exact execTrzScrubRewriteDone_kept h
  | trzMchkReload => exact execTrzMchkReload_kept _ h
  | crlEnable => exact execCrlEnable_kept _ h
  | spOvr => exact execSpOvr_kept _ _ h
  | pwmPeriod => exact execPwmPeriod_kept _ h
  | sensePulse => exact execSensePulse_kept _ h
  | alignEnd => exact execAlignEnd_kept h
  | startAttemptFail => exact execStartAttemptFail_kept _ h
  | shortTimerEnd => exact execShortTimerEnd_kept h
  | zeroCrossing => exact execZeroCrossing_kept _ _ h
  | shortQuietEnd => exact execShortQuietEnd_kept h
  | catchTimeout => exact execCatchTimeout_kept _ h
  | catchRetry => exact execCatchRetry_kept _ h
  | setpointApply => exact execSetpointApply_kept h
  | ovRecovery => exact execOvRecovery_kept h
  | supplySample => exact execSupplySample_kept _ _ h
  | chopperFail => exact execChopperFail_kept _ h
  | spindleOvercurrent => exact execSpindleOvercurrent_kept _ h
  | vcmOvercurrent => exact execVcmOvercurrent_kept _ _ h
  | vcmTripReopen => exact execVcmTripReopen_kept _ h
  | maCurrentLimit => exact execMaCurrentLimit_kept _ h
  | maOffClear => exact execMaOffClear_kept _ _ h
  | stopWireAssert => exact execStopWireAssert_kept _ h
  | retractParked => exact execRetractParked_kept _ h
  | retractParkHoldEnd => exact execRetractParkHoldEnd_kept _ h
  | retractTimeout => exact execRetractTimeout_kept _ h
  | retractPushEnd => exact execRetractPushEnd_kept _ h
  | startRequest => exact execStartRequest_kept _ h
  | autonomousBrake => exact execAutonomousBrake_kept h
  | stmResume => exact execStmResume_kept h
  | stmEnable => exact execStmEnable_kept _ h
  | safetyMonitorTick => exact execSafetyMonitorTick_kept h
  | safetyMonitorTakeover => exact execSafetyMonitorTakeover_kept _ h
  | smOvervoltage => exact execSmOvervoltage_kept h
  | windingMeasureGo => exact execWindingMeasureGo_kept _ _ h
  | windingMeasureDone => exact execWindingMeasureDone_kept _ h
  | mmgEnable => exact execMmgEnable_kept h
  | fmtCommit => exact execFmtCommit_kept h
  | durablePointStands => exact execDurablePointStands_kept _ _ h
  | durableTimer => exact execDurableTimer_kept h
  | alterationDemand => exact execAlterationDemand_kept _ _ _ _ h
  | relayStep => exact execRelayStep_kept _ _ _ h
  | reclaimStep => exact execReclaimStep_kept _ _ _ h
  | overwriteStep => exact execOverwriteStep_kept _ _ _ h
  | connect => exact execConnect_kept _ _ _ _ _ _ _ _ _ _ h
  | disconnect => exact execDisconnect_kept _ h
  | controllerReset => exact execControllerReset_kept _ h
  | katoExpiry => exact execKatoExpiry_kept _ h
  | nvmeIdentify => exact execNvmeIdentify_kept _ _ _ _ h
  | getLogPage => exact execGetLogPage_kept _ _ _ h
  | getFeatures => exact execGetFeatures_kept _ _ _ _ h
  | arbitration => exact execArbitration_kept _ _ h
  | powerManagement => exact execPowerManagement_kept _ _ h
  | temperatureThreshold => exact execTemperatureThreshold_kept _ _ _ _ h
  | volatileWriteCache => exact execVolatileWriteCache_kept _ _ h
  | numberOfQueues => exact execNumberOfQueues_kept _ _ _ h
  | asynchronousEventConfiguration => exact execAsynchronousEventConfiguration_kept _ _ h
  | keepAliveTimer => exact execKeepAliveTimer_kept _ _ h
  | hostIdentifier => exact execHostIdentifier_kept _ _ _ h
  | latencyBudget => exact execLatencyBudget_kept _ _ _ h
  | abort => exact execAbort_kept _ _ _ _ h
  | asynchronousEventRequest => exact execAsynchronousEventRequest_kept _ h
  | namespaceCreate => exact execNamespaceCreate_kept _ _ _ _ _ _ h
  | namespaceDelete => exact execNamespaceDelete_kept _ _ h
  | namespaceAttachment => exact execNamespaceAttachment_kept _ _ _ _ h
  | firmwareImageDownload => exact execFirmwareImageDownload_kept _ _ _ _ h
  | firmwareCommit => exact execFirmwareCommit_kept _ _ _ _ h
  | deviceSelfTest => exact execDeviceSelfTest_kept _ _ _ h
  | selfTestAbort => exact execSelfTestAbort_kept _ h
  | selfTestSegment => exact execSelfTestSegment_kept _ _ _ h
  | keepAlive => exact execKeepAlive_kept _ h
  | formatNvm => exact execFormatNvm_kept _ _ _ _ _ h
  | sanitizeCryptoErase => exact execSanitizeCryptoErase_kept _ h
  | sanitizeBlockErase => exact execSanitizeBlockErase_kept _ h
  | unsupportedOpcode => exact execUnsupportedOpcode_kept _ h
  | casgusSend => exact execCasgusSend_kept _ _ h
  | casgusReceive => exact execCasgusReceive_kept _ _ _ _ h
  | receiveWaitExpiry => exact execReceiveWaitExpiry_kept _ h
  | read => exact execRead_kept _ _ _ _ _ h
  | write => exact execWrite_kept _ _ _ _ _ h
  | flush => exact execFlush_kept _ _ h
  | writeZeroes => exact execWriteZeroes_kept _ _ _ _ _ h
  | datasetManagement => exact execDatasetManagement_kept _ _ _ _ h
  | verify => exact execVerify_kept _ _ _ _ h
  | zoneAppend => exact execZoneAppend_kept _ _ _ _ _ h
  | zoneReset => exact execZoneReset_kept _ _ _ _ h
  | zoneFinish => exact execZoneFinish_kept _ _ _ _ h
  | zoneOpen => exact execZoneOpen_kept _ _ _ _ h
  | zoneClose => exact execZoneClose_kept _ _ _ _ h
  | setZoneDescriptorExtension => exact execSetZoneDescriptorExtension_kept _ _ _ h
  | zoneManagementReceive => exact execZoneManagementReceive_kept _ _ _ _ h
  | store => exact execStore_kept _ _ _ _ _ _ _ h
  | retrieve => exact execRetrieve_kept _ _ _ h
  | kvDelete => exact execKvDelete_kept _ _ _ h
  | exist => exact execExist_kept _ _ _ h
  | list => exact execList_kept _ _ _ h
  | loadProgram => exact execLoadProgram_kept _ _ _ _ _ h
  | programActivationManagement => exact execProgramActivationManagement_kept _ _ _ _ h
  | executeProgram => exact execExecuteProgram_kept _ _ _ _ _ _ _ _ h
  | helperCopy => exact execHelperCopy_kept _ h
  | helperZcomp => exact execHelperZcomp_kept _ h
  | helperZdecomp => exact execHelperZdecomp_kept _ h
  | helperSha256 => exact execHelperSha256_kept _ h
  | helperCrc32c => exact execHelperCrc32c_kept _ h
  | helperOpsec => exact execHelperOpsec_kept _ h
  | memoryRangeSetManagement => exact execMemoryRangeSetManagement_kept _ _ _ _ _ h
  | memoryCopy => exact execMemoryCopy_kept _ _ _ _ h
  | memoryRead => exact execMemoryRead_kept _ _ _ _ h
  | memoryWrite => exact execMemoryWrite_kept _ _ _ _ h
  | intakeVisit => exact execIntakeVisit_kept _ _ h
  | turnstileRelease => exact execTurnstileRelease_kept _ h
  | jugglerPick => exact execJugglerPick_kept _ _ h
  | cmdEnable => exact execCmdEnable_kept h
  | fetchHold => exact execFetchHold_kept _ h
  | hiwatClr => exact execHiwatClr_kept h
  | fabEnable => exact execFabEnable_kept _ h
  | portDis => exact execPortDis_kept _ h
  | linkUp => exact execLinkUp_kept _ _ _ _ _ h
  | linkDown => exact execLinkDown_kept _ _ h
  | failover => exact execFailover_kept _ _ h
  | addressAnnounce => exact execAddressAnnounce_kept _ h
  | failback => exact execFailback_kept _ h
  | dhcpLeaseLost => exact execDhcpLeaseLost_kept _ _ h
  | lldpReceive => exact execLldpReceive_kept _ _ _ _ h
  | signalDetectWake => exact execSignalDetectWake_kept h
  | truEnable => exact execTruEnable_kept _ h
  | pwkAct => exact execPwkAct_kept h
  | discoveryPoll => exact execDiscoveryPoll_kept _ h
  | discoveryLogPageChange => exact execDiscoveryLogPageChange_kept _ h
  | candidateAuthRetry => exact execCandidateAuthRetry_kept _ h
  | peerTimeout => exact execPeerTimeout_kept _ h
  | epochPropose => exact execEpochPropose_kept h
  | proposalReceive => exact execProposalReceive_kept _ _ h
  | proposalAckReceive => exact execProposalAckReceive_kept _ _ h
  | epochCommitReceive => exact execEpochCommitReceive_kept _ h
  | proposalVoid => exact execProposalVoid_kept h
  | epochRepropose => exact execEpochRepropose_kept h
  | fragmentStoreAck => exact execFragmentStoreAck_kept _ _ _ h
  | fragmentTimeout => exact execFragmentTimeout_kept _ _ _ _ h
  | rebuildFragment => exact execRebuildFragment_kept _ h
  | nvmeMiRequest => exact execNvmeMiRequest_kept _ h
  | nvmeMiReceive => exact execNvmeMiReceive_kept _ h
  | mctpEidReassign => exact execMctpEidReassign_kept _ h
  | requestStart => exact execRequestStart_kept _ h
  | requestComplete => exact execRequestComplete_kept _ h
  | requestTimeout => exact execRequestTimeout_kept _ h
  | sourceEdge => exact execSourceEdge_kept h
  | gpioInputChange => exact execGpioInputChange_kept _ _ h
  | clpClaimWrite => exact execClpClaimWrite_kept _ _ _ _ h
  | clpDoneWrite => exact execClpDoneWrite_kept _ _ _ _ h
  | clpSrcWrite => exact execClpSrcWrite_kept _ _ _ h
  | identify => exact execIdentify_kept _ h
  | getNonce => exact execGetNonce_kept _ _ h
  | inventory => exact execInventory_kept _ h
  | counters => exact execCounters_kept _ h
  | clearXtal => exact execClearXtal_kept _ h
  | optionRead => exact execOptionRead_kept _ h
  | optionWrite => exact execOptionWrite_kept _ _ _ h
  | enable => exact execEnable_kept _ _ h
  | enableState => exact execEnableState_kept _ h
  | keyRegister => exact execKeyRegister_kept _ _ _ h
  | setBudget => exact execSetBudget_kept _ h
  | getBudget => exact execGetBudget_kept _ h
  | spinSlot => exact execSpinSlot_kept _ h
  | spinStatus => exact execSpinStatus_kept _ h
  | thermalRead => exact execThermalRead_kept _ h
  | clearSuspect => exact execClearSuspect_kept _ h
  | trimRead => exact execTrimRead_kept _ h
  | trimWrite => exact execTrimWrite_kept _ h
  | tableRead => exact execTableRead_kept _ h
  | tableWrite => exact execTableWrite_kept _ h
  | tailorSave => exact execTailorSave_kept _ _ h
  | certRead => exact execCertRead_kept _ h
  | ageingRead => exact execAgeingRead_kept _ h
  | marginRead => exact execMarginRead_kept _ h
  | measureNow => exact execMeasureNow_kept _ h
  | pblRead => exact execPblRead_kept _ h
  | pblStatus => exact execPblStatus_kept _ h
  | pblClear => exact execPblClear_kept _ _ h
  | fwDownload => exact execFwDownload_kept _ _ h
  | fwCommit => exact execFwCommit_kept _ _ h
  | fwStatus => exact execFwStatus_kept _ h
  | flashStatus => exact execFlashStatus_kept _ h
  | placementSet => exact execPlacementSet_kept _ h
  | placementGet => exact execPlacementGet_kept _ h
  | bandInfo => exact execBandInfo_kept _ h
  | poolInfo => exact execPoolInfo_kept _ h
  | altQueue => exact execAltQueue_kept _ h
  | defaultsSet => exact execDefaultsSet_kept _ h
  | defaultsGet => exact execDefaultsGet_kept _ h
  | groupSet => exact execGroupSet_kept _ h
  | groupStatus => exact execGroupStatus_kept _ h
  | peerHello => exact execPeerHello_kept _ h
  | adopt => exact execAdopt_kept _ h
  | regRead => exact execRegRead_kept _ h
  | regWrite => exact execRegWrite_kept _ _ h
  | regReadBlock => exact execRegReadBlock_kept _ h
  | regWriteBlock => exact execRegWriteBlock_kept _ _ h
  | registerWrite => exact execRegisterWrite_kept _ _ _ _ _ _ h
  | shadowCommit => exact execShadowCommit_kept _ _ h
  | srcRoute => exact execSrcRoute_kept _ h
  | srcRead => exact execSrcRead_kept _ h
  | doorbell => exact execDoorbell_kept _ h
  | softSource => exact execSoftSource_kept _ h
  | bankClaim => exact execBankClaim_kept _ h
  | bankDone => exact execBankDone_kept _ h
  | hbmTrainingDone => exact execHbmTrainingDone_kept _ _ _ h
  | hbmRateWrite => exact execHbmRateWrite_kept _ h
  | hbmRateSwitchDone => exact execHbmRateSwitchDone_kept h
  | hbmCorrectedError => exact execHbmCorrectedError_kept _ h
  | hbmUncorrectable => exact execHbmUncorrectable_kept _ _ _ _ _ _ h
  | hbmPatrolScrub => exact execHbmPatrolScrub_kept _ _ h
  | selfRefreshExit => exact execSelfRefreshExit_kept h
  | pocketUncorrectable => exact execPocketUncorrectable_kept _ _ h
  | pktEnable => exact execPktEnable_kept h
  | pktDisable => exact execPktDisable_kept h
  | pktCleanDone => exact execPktCleanDone_kept _ h
  | pktInvalidate => exact execPktInvalidate_kept h
  | pktClean => exact execPktClean_kept h
  | pktCleanInvalidate => exact execPktCleanInvalidate_kept h
  | pktRangeDone => exact execPktRangeDone_kept h
  | pktLfsrSeed => exact execPktLfsrSeed_kept _ h
  | flashRead => exact execFlashRead_kept _ _ _ h
  | flashProgram => exact execFlashProgram_kept _ _ _ h
  | flashErase => exact execFlashErase_kept _ h
  | flashProgramDone => exact execFlashProgramDone_kept _ _ h
  | flashEraseDone => exact execFlashEraseDone_kept _ _ h
  | flashSuspendDue => exact execFlashSuspendDue_kept _ h
  | wdbHold => exact execWdbHold_kept _ h
  | downloadSessionTimeout => exact execDownloadSessionTimeout_kept h
  | sntEnable => exact execSntEnable_kept h
  | sntKick => exact execSntKick_kept _ h
  | stage1 => exact execStage1_kept _ h
  | stage2 => exact execStage2_kept h
  | opsecTick => exact execOpsecTick_kept h
  | idleTimer => exact execIdleTimer_kept h
  | wakeHoldExpiry => exact execWakeHoldExpiry_kept _ h
  | psEntryStep => exact execPsEntryStep_kept h
  | ssCsWake => exact execSsCsWake_kept h
  | sidebandWake => exact execSidebandWake_kept h
  | sensorSample => exact execSensorSample_kept _ _ h
  | thermalRestart => exact execThermalRestart_kept h
  | throttleStepUp => exact execThrottleStepUp_kept _ h
  | throttleStepDown => exact execThrottleStepDown_kept _ h
  | throttleAlternate => exact execThrottleAlternate_kept h
  | fabricPauseWindow => exact execFabricPauseWindow_kept h
  | ageingDue => exact execAgeingDue_kept _ _ h
  | ageingMeasureDone => exact execAgeingMeasureDone_kept _ _ h
  | verifyDue => exact execVerifyDue_kept _ _ h
  | ageingOverdue => exact execAgeingOverdue_kept _ h
  | trace => exact execTrace_kept _ h
  | traceDone => exact execTraceDone_kept _ h
  | eventDescriptor => exact execEventDescriptor_kept h
  | recordCloseTimer => exact execRecordCloseTimer_kept h
  | ringProgramDone => exact execRingProgramDone_kept _ h
  | ringBlockEraseDone => exact execRingBlockEraseDone_kept _ h
  | clearEraseDone => exact execClearEraseDone_kept _ h
  | spinPermission => exact execSpinPermission_kept h
  | spinHoldNChange => exact execSpinHoldNChange_kept _ h
  | spinBackoffEnd => exact execSpinBackoffEnd_kept h
  | spinDelayEnd => exact execSpinDelayEnd_kept h
  | sagWaitEnd => exact execSagWaitEnd_kept h
  | ioReady => exact execIoReady_kept _ _ _ _ h
  | startLate => exact execStartLate_kept h
  | spiWriteFrame => exact execSpiWriteFrame_kept _ _ h
  | spiReadFrame => exact execSpiReadFrame_kept _ _ h
  | sdsGo => exact execSdsGo_kept h
  | sdsAck => exact execSdsAck_kept h
  | sdsClaim => exact execSdsClaim_kept _ _ h
  | sdsDone => exact execSdsDone_kept _ _ h
  | preampWriteHoldEnd => exact execPreampWriteHoldEnd_kept _ _ h
  | autonomousSequenceEnd => exact execAutonomousSequenceEnd_kept h
  | safetyMonitorPushEnd => exact execSafetyMonitorPushEnd_kept h
  | strongmanLogicPowerLoss => exact execStrongmanLogicPowerLoss_kept h
  | negotiationFailure => exact execNegotiationFailure_kept _ _ h
  | transportConnectionFailure => exact execTransportConnectionFailure_kept _ _ h
  | dhcpLeaseAcquired => exact execDhcpLeaseAcquired_kept _ _ _ _ h
  | pwrEnStep => exact execPwrEnStep_kept h

theorem step_nil {s : State} (h : s.pending = []) : step s = .next s := by
  simp [step, h]

theorem step_cons {c : Instr} {l : List Instr} {s : State} (h : s.pending = c :: l) :
    step s = exec c { s with pending := l } := by
  simp [step, h]

/-- The queue is no part of the canonical form. -/
theorem State.canon_setPending (s : State) (l : List Instr) : ({ s with pending := l } : State).canon = s.canon := rfl

/-! ## The step's obligations -/

/-- Settles O1: both clauses are the two equations of `step`. -/
theorem stepRunsFront : Obligations.StepRunsFront := by
  unfold Obligations.StepRunsFront
  exact ⟨fun c l s => step_cons rfl, fun s => step_nil⟩

/-- Settles O4: an idle step changes nothing, and the command at the front keeps the form of the state it starts from. -/
theorem stepKeepsCanonicalForm : Obligations.StepKeepsCanonicalForm := by
  unfold Obligations.StepKeepsCanonicalForm
  intro s t hcanon hstep
  cases hq : s.pending with
  | nil =>
    rw [step_nil hq] at hstep
    exact Host.Outcome.next.inj hstep ▸ hcanon
  | cons c l =>
    rw [step_cons hq] at hstep
    obtain ⟨-, hkeeps⟩ := exec_kept hstep
    exact hkeeps ((s.canon_setPending l).trans hcanon)

/-- Settles O5: the front command runs on the state with the rest of the queue, which it keeps. -/
theorem queueIsFirstInFirstOut : Obligations.QueueIsFirstInFirstOut := by
  unfold Obligations.QueueIsFirstInFirstOut
  intro c l s t hq hstep
  rw [step_cons hq] at hstep
  obtain ⟨hpending, -⟩ := exec_kept hstep
  exact hpending

/-- Settles O2: the reset state lists no field, so each reads as its register table gives it. -/
theorem resetLeavesResetValues : Obligations.ResetLeavesResetValues := by
  unfold Obligations.ResetLeavesResetValues
  refine ⟨rfl, rfl, rfl, rfl, rfl, rfl, rfl, rfl, rfl, rfl, rfl, rfl, rfl, rfl, rfl, rfl, rfl, rfl⟩

/-- Settles O3: no table of the reset state has an entry. -/
theorem resetIsCanonical : Obligations.ResetIsCanonical := by
  unfold Obligations.ResetIsCanonical
  rfl

/-! ## Where a command stops -/

theorem exec_flashRead_absent {a : BitVec 32} {n : BitVec 16} (r : Nat) (s : State)
    (h : flashSize < a.toNat + n.toNat ∨ flashSize ≤ a.toNat) : exec (.flashRead a n r) s = .fault .noSuchFlash :=
  if_pos h

theorem exec_flashProgram_absent {a : BitVec 32} (d : List Byte) (r : Nat) (s : State) (h : flashSize ≤ a.toNat) :
    exec (.flashProgram a d r) s = .fault .noSuchFlash :=
  if_pos h

theorem exec_flashErase_absent {b : BitVec 16} (s : State) (h : 4096 ≤ b.toNat) :
    exec (.flashErase b) s = .fault .noSuchFlash :=
  if_pos h

theorem exec_flashRead_present {a : BitVec 32} {n : BitVec 16} (r : Nat) (s : State)
    (h : ¬(flashSize < a.toNat + n.toNat ∨ flashSize ≤ a.toNat)) : ∃ t, exec (.flashRead a n r) s = .next t := by
  show ∃ t, flashRead a n r s = .next t
  unfold flashRead
  rw [if_neg h]
  split
  · exact ⟨_, rfl⟩
  · split
    · exact ⟨_, rfl⟩
    · repeat' split
      all_goals exact ⟨_, rfl⟩

theorem exec_flashProgram_present {a : BitVec 32} (d : List Byte) (r : Nat) (s : State) (h : ¬flashSize ≤ a.toNat) :
    ∃ t, exec (.flashProgram a d r) s = .next t := by
  show ∃ t, flashProgram a d r s = .next t
  unfold flashProgram
  rw [if_neg h]
  split_ifs <;> exact ⟨_, rfl⟩

theorem exec_flashErase_present {b : BitVec 16} (s : State) (h : ¬4096 ≤ b.toNat) :
    ∃ t, exec (.flashErase b) s = .next t := by
  show ∃ t, flashErase b s = .next t
  unfold flashErase
  rw [if_neg h]
  split_ifs <;> exact ⟨_, rfl⟩

/-- Settles O6: the three flash commands test their address first, and every other command answers a next state. -/
theorem onlyAbsentFlashStops : Obligations.OnlyAbsentFlashStops := by
  unfold Obligations.OnlyAbsentFlashStops
  refine ⟨fun c s => ?_, fun a n r s h => exec_flashRead_absent r s (.inr h), fun a d r s h => exec_flashProgram_absent d r s h,
    fun b s h => exec_flashErase_absent s h⟩
  cases c with
  | flashRead a n r =>
    by_cases h : flashSize < a.toNat + n.toNat ∨ flashSize ≤ a.toNat
    · exact .inr ⟨exec_flashRead_absent r s h, .inl ⟨a, n, r, rfl, h⟩⟩
    · exact .inl (exec_flashRead_present r s h)
  | flashProgram a d r =>
    by_cases h : flashSize ≤ a.toNat
    · exact .inr ⟨exec_flashProgram_absent d r s h, .inr (.inl ⟨a, d, r, rfl, h⟩)⟩
    · exact .inl (exec_flashProgram_present d r s h)
  | flashErase b =>
    by_cases h : 4096 ≤ b.toNat
    · exact .inr ⟨exec_flashErase_absent s h, .inr (.inr ⟨b, rfl, h⟩)⟩
    · exact .inl (exec_flashErase_present s h)
  | _ => exact .inl ⟨_, rfl⟩

end Sys2Proof.Machine

/-!
PROOFS. The frames: what each command can change by its own law in the library, whose keys the frame's keys name.
-/

namespace Sys2Proof.Machine

set_option Elab.async false

set_option maxRecDepth 8000

/-- Settles O40: each command's law bounds what it changes, and the keys of its frame name all that the law allows. -/
theorem readChannelCommandsFrame : Obligations.ReadChannelCommandsFrame := by
  unfold Obligations.ReadChannelCommandsFrame
  exact ⟨fun _ _ _ h => (execReadOpStart_out _ h).weaken rfl,
    fun _ _ _ _ _ _ h => (execPreambleAcquire_out _ _ _ _ h).weaken rfl,
    fun _ _ _ h => (execAcquisitionFailure_out _ h).weaken rfl,
    fun _ _ _ _ _ h => (execSyncFraming_out _ _ _ h).weaken rfl,
    fun _ _ _ _ h => (execFsmSearch_out _ _ h).weaken rfl,
    fun _ _ _ _ _ _ _ _ h => (execDefectSpan_out _ _ _ _ _ _ h).weaken rfl,
    fun _ _ _ _ h => (execSectorSamplesDone_out _ _ h).weaken rfl,
    fun _ _ _ _ h => (execLdpcConverge_out _ _ h).weaken rfl,
    fun _ _ _ h => (execLdpcWindowEnd_out _ h).weaken rfl,
    fun _ _ _ _ h => (execRetryRung_out _ _ h).weaken rfl,
    fun _ _ _ h => (execRetryTimeLimit_out _ h).weaken rfl,
    fun _ _ _ _ h => (execOuterCodeRebuild_out _ _ h).weaken rfl,
    fun _ _ _ h => (execChnEnable_out _ h).weaken rfl,
    fun _ _ _ h => (execRdAbort_out _ h).weaken rfl,
    fun _ _ _ _ h => (execReplayHold_out _ _ h).weaken rfl,
    fun _ _ _ _ _ _ h => (execCounterClear_out _ _ _ _ h).weaken rfl⟩

/-- Settles O41: each command's law bounds what it changes, and the keys of its frame name all that the law allows. -/
theorem lanyardPreampHeadCommandsFrame : Obligations.LanyardPreampHeadCommandsFrame := by
  unfold Obligations.LanyardPreampHeadCommandsFrame
  exact ⟨fun _ _ _ _ h => (execLanyardGateFrame_out _ _ h).weaken rfl,
    fun _ _ _ _ _ _ _ _ h => (execLanyardRegWrite_out _ _ _ _ _ _ h).weaken rfl,
    fun _ _ _ _ _ _ _ h => (execLanyardRegRead_out _ _ _ _ _ h).weaken rfl,
    fun _ _ _ h => (execSptEnable_out _ h).weaken rfl,
    fun _ _ _ _ _ _ h => (execPreampFault_out _ _ _ _ h).weaken rfl,
    fun _ _ _ _ h => (execWrInh_out _ _ h).weaken rfl,
    fun _ _ _ _ _ h => (execHdwpClear_out _ _ _ h).weaken rfl,
    fun _ _ _ h => (execPreheatDone_out _ h).weaken rfl,
    fun _ _ _ h => (execTouchdownGo_out _ h).weaken rfl,
    fun _ _ _ _ h => (execTouchdownDwellEnd_out _ _ h).weaken rfl,
    fun _ _ h => (execTouchdownAbort_out h).weaken rfl,
    fun _ _ _ _ _ h => (execLoadMeasureGo_out _ _ _ h).weaken rfl,
    fun _ _ _ _ _ h => (execLoadMeasureDone_out _ _ _ h).weaken rfl,
    fun _ _ h => (execTfhEnable_out h).weaken rfl,
    fun _ _ _ _ h => (execPreampWriteHoldEnd_out _ _ h).weaken rfl⟩

/-- Settles O42: each command's law bounds what it changes, and the keys of its frame name all that the law allows. -/
theorem sequencerCommandsFrame : Obligations.SequencerCommandsFrame := by
  unfold Obligations.SequencerCommandsFrame
  exact ⟨fun _ _ _ _ h => (execSeqEnable_out _ _ h).weaken rfl,
    fun _ _ _ _ _ _ h => (execRoutineStart_out _ _ _ _ h).weaken rfl,
    fun _ _ _ _ _ h => (execBarkerNop_out _ _ _ h).weaken rfl,
    fun _ _ _ _ _ h => (execBarkerJmp_out _ _ _ h).weaken rfl,
    fun _ _ _ _ _ h => (execBarkerBr_out _ _ _ h).weaken rfl,
    fun _ _ _ _ _ h => (execBarkerCall_out _ _ _ h).weaken rfl,
    fun _ _ _ _ _ h => (execBarkerRet_out _ _ _ h).weaken rfl,
    fun _ _ _ _ _ h => (execBarkerWait_out _ _ _ h).weaken rfl,
    fun _ _ _ _ _ h => (execBarkerLoad_out _ _ _ h).weaken rfl,
    fun _ _ _ _ _ h => (execBarkerAdd_out _ _ _ h).weaken rfl,
    fun _ _ _ _ _ h => (execBarkerEnd_out _ _ _ h).weaken rfl,
    fun _ _ _ _ h => (execBarkerWaitMet_out _ _ h).weaken rfl,
    fun _ _ _ _ h => (execBarkerWaitTimeout_out _ _ h).weaken rfl,
    fun _ _ _ h => (execJobRestart_out _ h).weaken rfl,
    fun _ _ _ _ h => (execSeqMchkRecovery_out _ _ h).weaken rfl,
    fun _ _ _ _ _ h => (execSeqScrubPass_out _ _ _ h).weaken rfl⟩

/-- Settles O43: each command's law bounds what it changes, and the keys of its frame name all that the law allows. -/
theorem servoCommandsFrame : Obligations.ServoCommandsFrame := by
  unfold Obligations.ServoCommandsFrame
  exact ⟨fun _ _ _ _ h => (execServoWedge_out _ _ h).weaken rfl,
    fun _ _ _ _ h => (execSamPredicted_out _ _ h).weaken rfl,
    fun _ _ _ _ h => (execSeekStart_out _ _ h).weaken rfl,
    fun _ _ _ h => (execSeekTimeout_out _ h).weaken rfl,
    fun _ _ _ h => (execLoadRequest_out _ h).weaken rfl,
    fun _ _ _ h => (execLoadDeferredStart_out _ h).weaken rfl,
    fun _ _ _ h => (execLoadingOffRamp_out _ h).weaken rfl,
    fun _ _ _ h => (execAcquireTimeout_out _ h).weaken rfl,
    fun _ _ _ h => (execHoldRelockTimeout_out _ h).weaken rfl,
    fun _ _ _ h => (execLoadRetry_out _ h).weaken rfl,
    fun _ _ _ _ h => (execUnloadRequest_out _ _ h).weaken rfl,
    fun _ _ _ _ h => (execMaStrokeMeasure_out _ _ h).weaken rfl,
    fun _ _ _ h => (execSrvEnable_out _ h).weaken rfl,
    fun _ _ _ _ h => (execSrvOfsWrite_out _ _ h).weaken rfl⟩

/-- Settles O44: each command's law bounds what it changes, and the keys of its frame name all that the law allows. -/
theorem trapezeCommandsFrame : Obligations.TrapezeCommandsFrame := by
  unfold Obligations.TrapezeCommandsFrame
  exact ⟨fun _ _ _ h => (execTrzEnable_out _ h).weaken rfl,
    fun _ _ _ h => (execTrzNop_out _ h).weaken rfl,
    fun _ _ _ h => (execTrzJmp_out _ h).weaken rfl,
    fun _ _ _ h => (execTrzBr_out _ h).weaken rfl,
    fun _ _ _ h => (execTrzCall_out _ h).weaken rfl,
    fun _ _ _ h => (execTrzRet_out _ h).weaken rfl,
    fun _ _ _ h => (execTrzWait_out _ h).weaken rfl,
    fun _ _ _ h => (execTrzLd_out _ h).weaken rfl,
    fun _ _ _ h => (execTrzMov_out _ h).weaken rfl,
    fun _ _ _ h => (execTrzAdd_out _ h).weaken rfl,
    fun _ _ _ h => (execTrzSub_out _ h).weaken rfl,
    fun _ _ _ h => (execTrzMul_out _ h).weaken rfl,
    fun _ _ _ h => (execTrzMac_out _ h).weaken rfl,
    fun _ _ _ h => (execTrzAccout_out _ h).weaken rfl,
    fun _ _ _ h => (execTrzClracc_out _ h).weaken rfl,
    fun _ _ _ h => (execTrzMin_out _ h).weaken rfl,
    fun _ _ _ h => (execTrzMax_out _ h).weaken rfl,
    fun _ _ _ h => (execTrzLut_out _ h).weaken rfl,
    fun _ _ _ h => (execTrzCmp_out _ h).weaken rfl,
    fun _ _ _ h => (execTrzEnd_out _ h).weaken rfl,
    fun _ _ h => (execTrzWaitMet_out h).weaken rfl,
    fun _ _ h => (execTrzWaitTimeout_out h).weaken rfl,
    fun _ _ h => (execLutReady_out h).weaken rfl,
    fun _ _ _ h => (execLoopDispatch_out _ h).weaken rfl,
    fun _ _ _ h => (execLoopDeadlineMiss_out _ h).weaken rfl,
    fun _ _ _ _ h => (execTrzScrubError_out _ _ h).weaken rfl,
    fun _ _ h => (execTrzScrubRewriteDone_out h).weaken rfl,
    fun _ _ _ h => (execTrzMchkReload_out _ h).weaken rfl⟩

/-- Settles O45: each command's law bounds what it changes, and the keys of its frame name all that the law allows. -/
theorem spindleCommandsFrame : Obligations.SpindleCommandsFrame := by
  unfold Obligations.SpindleCommandsFrame
  exact ⟨fun _ _ h => (execMediaWedgeMissing_out h).weaken rfl,
    fun _ _ _ h => (execCrlEnable_out _ h).weaken rfl,
    fun _ _ _ _ h => (execSpOvr_out _ _ h).weaken rfl,
    fun _ _ _ h => (execPwmPeriod_out _ h).weaken rfl,
    fun _ _ _ h => (execSensePulse_out _ h).weaken rfl,
    fun _ _ h => (execAlignEnd_out h).weaken rfl,
    fun _ _ _ h => (execStartAttemptFail_out _ h).weaken rfl,
    fun _ _ _ _ h => (execZeroCrossing_out _ _ h).weaken rfl,
    fun _ _ _ h => (execCatchTimeout_out _ h).weaken rfl,
    fun _ _ _ h => (execCatchRetry_out _ h).weaken rfl,
    fun _ _ h => (execSetpointApply_out h).weaken rfl,
    fun _ _ h => (execOvRecovery_out h).weaken rfl⟩

/-- Settles O46: each command's law bounds what it changes, and the keys of its frame name all that the law allows. -/
theorem strongmanCommandsFrame : Obligations.StrongmanCommandsFrame := by
  unfold Obligations.StrongmanCommandsFrame
  exact ⟨fun _ _ _ h => (execDieLinkFrame_out _ h).weaken rfl,
    fun _ _ h => (execHeartbeatAdvance_out h).weaken rfl,
    fun _ _ _ h => (execHeartbeatMiss_out _ h).weaken rfl,
    fun _ _ _ _ h => (execSupplySample_out _ _ h).weaken rfl,
    fun _ _ _ h => (execChopperFail_out _ h).weaken rfl,
    fun _ _ _ h => (execSpindleOvercurrent_out _ h).weaken rfl,
    fun _ _ _ _ h => (execVcmOvercurrent_out _ _ h).weaken rfl,
    fun _ _ _ h => (execVcmTripReopen_out _ h).weaken rfl,
    fun _ _ _ h => (execMaCurrentLimit_out _ h).weaken rfl,
    fun _ _ _ _ h => (execMaOffClear_out _ _ h).weaken rfl,
    fun _ _ _ h => (execStopWireAssert_out _ h).weaken rfl,
    fun _ _ _ h => (execRetractParked_out _ h).weaken rfl,
    fun _ _ _ h => (execRetractParkHoldEnd_out _ h).weaken rfl,
    fun _ _ _ h => (execRetractTimeout_out _ h).weaken rfl,
    fun _ _ _ h => (execRetractPushEnd_out _ h).weaken rfl,
    fun _ _ _ h => (execStartRequest_out _ h).weaken rfl,
    fun _ _ h => (execAutonomousBrake_out h).weaken rfl,
    fun _ _ h => (execStmResume_out h).weaken rfl,
    fun _ _ _ h => (execStmEnable_out _ h).weaken rfl,
    fun _ _ h => (execSafetyMonitorTick_out h).weaken rfl,
    fun _ _ _ h => (execSafetyMonitorTakeover_out _ h).weaken rfl,
    fun _ _ h => (execSmOvervoltage_out h).weaken rfl,
    fun _ _ _ _ h => (execWindingMeasureGo_out _ _ h).weaken rfl,
    fun _ _ _ h => (execWindingMeasureDone_out _ h).weaken rfl,
    fun _ _ h => (execAutonomousSequenceEnd_out h).weaken rfl,
    fun _ _ h => (execSafetyMonitorPushEnd_out h).weaken rfl,
    fun _ _ h => (execStrongmanLogicPowerLoss_out h).weaken rfl⟩

/-- Settles O47: each command's law bounds what it changes, and the keys of its frame name all that the law allows. -/
theorem mediaManagementCommandsFrame : Obligations.MediaManagementCommandsFrame := by
  unfold Obligations.MediaManagementCommandsFrame
  exact ⟨fun _ _ h => (execMmgEnable_out h).weaken rfl,
    fun _ _ h => (execFmtCommit_out h).weaken rfl,
    fun _ _ h => (execDurableTimer_out h).weaken rfl,
    fun _ _ _ _ _ _ h => (execAlterationDemand_out _ _ _ _ h).weaken rfl,
    fun _ _ _ _ _ h => (execRelayStep_out _ _ _ h).weaken rfl,
    fun _ _ _ _ _ h => (execReclaimStep_out _ _ _ h).weaken rfl,
    fun _ _ _ _ _ h => (execOverwriteStep_out _ _ _ h).weaken rfl⟩

/-- Settles O48: each command's law bounds what it changes, and the keys of its frame name all that the law allows. -/
theorem flashWatchdogCommandsFrame : Obligations.FlashWatchdogCommandsFrame := by
  unfold Obligations.FlashWatchdogCommandsFrame
  exact ⟨fun _ _ _ _ _ h => (execFlashRead_out _ _ _ h).weaken rfl,
    fun _ _ _ _ _ h => (execFlashProgram_out _ _ _ h).weaken rfl,
    fun _ _ _ h => (execFlashErase_out _ h).weaken rfl,
    fun _ _ _ _ h => (execFlashProgramDone_out _ _ h).weaken rfl,
    fun _ _ _ _ h => (execFlashEraseDone_out _ _ h).weaken rfl,
    fun _ _ _ h => (execFlashSuspendDue_out _ h).weaken rfl,
    fun _ _ _ h => (execWdbHold_out _ h).weaken rfl,
    fun _ _ h => (execDownloadSessionTimeout_out h).weaken rfl,
    fun _ _ h => (execSntEnable_out h).weaken rfl,
    fun _ _ _ h => (execSntKick_out _ h).weaken rfl,
    fun _ _ _ h => (execStage1_out _ h).weaken rfl⟩

/-- Settles O49: each command's law bounds what it changes, and the keys of its frame name all that the law allows. -/
theorem mailboxInterruptCommandsFrame : Obligations.MailboxInterruptCommandsFrame := by
  unfold Obligations.MailboxInterruptCommandsFrame
  exact ⟨fun _ _ _ _ h => (execCasgusSend_out _ _ h).weaken rfl,
    fun _ _ _ _ _ _ h => (execCasgusReceive_out _ _ _ _ h).weaken rfl,
    fun _ _ _ h => (execReceiveWaitExpiry_out _ h).weaken rfl,
    fun _ _ _ h => (execNvmeMiRequest_out _ h).weaken rfl,
    fun _ _ _ h => (execNvmeMiReceive_out _ h).weaken rfl,
    fun _ _ _ h => (execMctpEidReassign_out _ h).weaken rfl,
    fun _ _ _ h => (execRequestStart_out _ h).weaken rfl,
    fun _ _ _ h => (execRequestTimeout_out _ h).weaken rfl,
    fun _ _ h => (execSourceEdge_out h).weaken rfl,
    fun _ _ _ _ h => (execGpioInputChange_out _ _ h).weaken rfl,
    fun _ _ _ _ _ _ h => (execClpClaimWrite_out _ _ _ _ h).weaken rfl,
    fun _ _ _ _ _ _ h => (execClpDoneWrite_out _ _ _ _ h).weaken rfl,
    fun _ _ _ _ _ h => (execClpSrcWrite_out _ _ _ h).weaken rfl⟩

/-- Settles O50: each command's law bounds what it changes, and the keys of its frame name all that the law allows. -/
theorem hBMPocketCommandsFrame : Obligations.HBMPocketCommandsFrame := by
  unfold Obligations.HBMPocketCommandsFrame
  exact ⟨fun _ _ _ _ _ h => (execHbmTrainingDone_out _ _ _ h).weaken rfl,
    fun _ _ _ h => (execHbmRateWrite_out _ h).weaken rfl,
    fun _ _ h => (execHbmRateSwitchDone_out h).weaken rfl,
    fun _ _ _ h => (execHbmCorrectedError_out _ h).weaken rfl,
    fun _ _ _ _ h => (execHbmPatrolScrub_out _ _ h).weaken rfl,
    fun _ _ h => (execSelfRefreshExit_out h).weaken rfl,
    fun _ _ _ _ h => (execPocketUncorrectable_out _ _ h).weaken rfl,
    fun _ _ h => (execPktEnable_out h).weaken rfl,
    fun _ _ h => (execPktDisable_out h).weaken rfl,
    fun _ _ _ h => (execPktCleanDone_out _ h).weaken rfl,
    fun _ _ h => (execPktInvalidate_out h).weaken rfl,
    fun _ _ h => (execPktClean_out h).weaken rfl,
    fun _ _ h => (execPktCleanInvalidate_out h).weaken rfl,
    fun _ _ h => (execPktRangeDone_out h).weaken rfl,
    fun _ _ _ h => (execPktLfsrSeed_out _ h).weaken rfl⟩

/-- Settles O51: each command's law bounds what it changes, and the keys of its frame name all that the law allows. -/
theorem fabricPortCommandsFrame : Obligations.FabricPortCommandsFrame := by
  unfold Obligations.FabricPortCommandsFrame
  exact ⟨fun _ _ _ h => (execFabEnable_out _ h).weaken rfl,
    fun _ _ _ h => (execPortDis_out _ h).weaken rfl,
    fun _ _ _ _ _ _ _ h => (execLinkUp_out _ _ _ _ _ h).weaken rfl,
    fun _ _ _ _ h => (execLinkDown_out _ _ h).weaken rfl,
    fun _ _ _ _ h => (execFailover_out _ _ h).weaken rfl,
    fun _ _ _ h => (execAddressAnnounce_out _ h).weaken rfl,
    fun _ _ _ h => (execFailback_out _ h).weaken rfl,
    fun _ _ _ _ h => (execDhcpLeaseLost_out _ _ h).weaken rfl,
    fun _ _ _ _ _ _ h => (execLldpReceive_out _ _ _ _ h).weaken rfl,
    fun _ _ _ _ h => (execNegotiationFailure_out _ _ h).weaken rfl,
    fun _ _ _ _ h => (execTransportConnectionFailure_out _ _ h).weaken rfl,
    fun _ _ _ _ _ _ h => (execDhcpLeaseAcquired_out _ _ _ _ h).weaken rfl⟩

/-- Settles O52: each command's law bounds what it changes, and the keys of its frame name all that the law allows. -/
theorem tailorCommandsFrame : Obligations.TailorCommandsFrame := by
  unfold Obligations.TailorCommandsFrame
  exact ⟨fun _ _ _ _ h => (execAgeingDue_out _ _ h).weaken rfl,
    fun _ _ _ _ h => (execAgeingMeasureDone_out _ _ h).weaken rfl,
    fun _ _ _ _ h => (execVerifyDue_out _ _ h).weaken rfl,
    fun _ _ _ h => (execAgeingOverdue_out _ h).weaken rfl,
    fun _ _ _ h => (execTrace_out _ h).weaken rfl,
    fun _ _ _ h => (execTraceDone_out _ h).weaken rfl⟩

/-- Settles O53: each command's law bounds what it changes, and the keys of its frame name all that the law allows. -/
theorem sideshowCommandsFrame : Obligations.SideshowCommandsFrame := by
  unfold Obligations.SideshowCommandsFrame
  exact ⟨fun _ _ _ _ h => (execSpiWriteFrame_out _ _ h).weaken rfl,
    fun _ _ _ _ h => (execSpiReadFrame_out _ _ h).weaken rfl,
    fun _ _ h => (execSdsGo_out h).weaken rfl,
    fun _ _ h => (execSdsAck_out h).weaken rfl,
    fun _ _ _ _ h => (execSdsClaim_out _ _ h).weaken rfl,
    fun _ _ _ _ h => (execSdsDone_out _ _ h).weaken rfl⟩

/-- Settles O54: each command's law bounds what it changes, and the keys of its frame name all that the law allows. -/
theorem eventRecorderCommandsFrame : Obligations.EventRecorderCommandsFrame := by
  unfold Obligations.EventRecorderCommandsFrame
  exact ⟨fun _ _ h => (execEventDescriptor_out h).weaken rfl,
    fun _ _ h => (execRecordCloseTimer_out h).weaken rfl,
    fun _ _ _ h => (execRingProgramDone_out _ h).weaken rfl,
    fun _ _ _ h => (execRingBlockEraseDone_out _ h).weaken rfl,
    fun _ _ _ h => (execClearEraseDone_out _ h).weaken rfl⟩

/-- Settles O55: each command's law bounds what it changes, and the keys of its frame name all that the law allows. -/
theorem powerStateThermalCommandsFrame : Obligations.PowerStateThermalCommandsFrame := by
  unfold Obligations.PowerStateThermalCommandsFrame
  exact ⟨fun _ _ h => (execSignalDetectWake_out h).weaken rfl,
    fun _ _ h => (execOpsecTick_out h).weaken rfl,
    fun _ _ h => (execIdleTimer_out h).weaken rfl,
    fun _ _ _ h => (execWakeHoldExpiry_out _ h).weaken rfl,
    fun _ _ h => (execPsEntryStep_out h).weaken rfl,
    fun _ _ h => (execSsCsWake_out h).weaken rfl,
    fun _ _ h => (execSidebandWake_out h).weaken rfl,
    fun _ _ _ _ h => (execSensorSample_out _ _ h).weaken rfl,
    fun _ _ h => (execThermalRestart_out h).weaken rfl,
    fun _ _ _ h => (execThrottleStepUp_out _ h).weaken rfl,
    fun _ _ _ h => (execThrottleStepDown_out _ h).weaken rfl,
    fun _ _ h => (execThrottleAlternate_out h).weaken rfl,
    fun _ _ h => (execFabricPauseWindow_out h).weaken rfl⟩

/-- Settles O56: each command's law bounds what it changes, and the keys of its frame name all that the law allows. -/
theorem resetStartCommandsFrame : Obligations.ResetStartCommandsFrame := by
  unfold Obligations.ResetStartCommandsFrame
  exact ⟨fun _ _ h => (execPowerOnReset_out h).weaken rfl,
    fun _ _ h => (execVin5Loss_out h).weaken rfl,
    fun _ _ h => (execRailLossReset_out h).weaken rfl,
    fun _ _ h => (execFirmwareReset_out h).weaken rfl,
    fun _ _ h => (execRingmasterRestart_out h).weaken rfl,
    fun _ _ _ h => (execXtalFail_out _ h).weaken rfl,
    fun _ _ h => (execXtalRecover_out h).weaken rfl,
    fun _ _ h => (execShortTimerEnd_out h).weaken rfl,
    fun _ _ h => (execShortQuietEnd_out h).weaken rfl,
    fun _ _ h => (execStage2_out h).weaken rfl,
    fun _ _ h => (execSpinPermission_out h).weaken rfl,
    fun _ _ _ h => (execSpinHoldNChange_out _ h).weaken rfl,
    fun _ _ h => (execSpinBackoffEnd_out h).weaken rfl,
    fun _ _ h => (execSpinDelayEnd_out h).weaken rfl,
    fun _ _ h => (execSagWaitEnd_out h).weaken rfl,
    fun _ _ _ _ _ _ h => (execIoReady_out _ _ _ _ h).weaken rfl,
    fun _ _ h => (execStartLate_out h).weaken rfl,
    fun _ _ h => (execPwrEnStep_out h).weaken rfl⟩

/-- Settles O57: each command's law bounds what it changes, and the keys of its frame name all that the law allows. -/
theorem registerAccessCommandsFrame : Obligations.RegisterAccessCommandsFrame := by
  unfold Obligations.RegisterAccessCommandsFrame
  exact ⟨fun _ _ _ _ _ _ _ h => (execEnumerationComplete_out _ _ _ _ _ h).weaken rfl,
    fun _ _ _ h => (execHeadsOnRamp_out _ h).weaken rfl,
    fun _ _ _ h => (execRequestComplete_out _ h).weaken rfl,
    fun _ _ _ _ h => (execEnable_out _ _ h).weaken rfl,
    fun _ _ _ h => (execEnableState_out _ h).weaken rfl,
    fun _ _ _ h => (execRegRead_out _ h).weaken rfl,
    fun _ _ _ _ h => (execRegWrite_out _ _ h).weaken rfl,
    fun _ _ _ h => (execRegReadBlock_out _ h).weaken rfl,
    fun _ _ _ _ h => (execRegWriteBlock_out _ _ h).weaken rfl,
    fun _ _ _ _ _ _ _ _ h => (execRegisterWrite_out _ _ _ _ _ _ h).weaken rfl,
    fun _ _ _ _ h => (execShadowCommit_out _ _ h).weaken rfl⟩

/-- Settles O58: each command's law bounds what it changes, and the keys of its frame name all that the law allows. -/
theorem casgusRequestCommandsFrame : Obligations.CasgusRequestCommandsFrame := by
  unfold Obligations.CasgusRequestCommandsFrame
  exact ⟨fun _ _ _ h => (execIdentify_out _ h).weaken rfl,
    fun _ _ _ _ h => (execGetNonce_out _ _ h).weaken rfl,
    fun _ _ _ h => (execInventory_out _ h).weaken rfl,
    fun _ _ _ h => (execCounters_out _ h).weaken rfl,
    fun _ _ _ h => (execClearXtal_out _ h).weaken rfl,
    fun _ _ _ h => (execOptionRead_out _ h).weaken rfl,
    fun _ _ _ _ _ h => (execOptionWrite_out _ _ _ h).weaken rfl,
    fun _ _ _ _ _ h => (execKeyRegister_out _ _ _ h).weaken rfl,
    fun _ _ _ h => (execSetBudget_out _ h).weaken rfl,
    fun _ _ _ h => (execGetBudget_out _ h).weaken rfl,
    fun _ _ _ h => (execSpinSlot_out _ h).weaken rfl,
    fun _ _ _ h => (execSpinStatus_out _ h).weaken rfl,
    fun _ _ _ h => (execThermalRead_out _ h).weaken rfl,
    fun _ _ _ h => (execClearSuspect_out _ h).weaken rfl,
    fun _ _ _ h => (execTrimRead_out _ h).weaken rfl,
    fun _ _ _ h => (execTrimWrite_out _ h).weaken rfl,
    fun _ _ _ h => (execTableRead_out _ h).weaken rfl,
    fun _ _ _ h => (execTableWrite_out _ h).weaken rfl,
    fun _ _ _ _ h => (execTailorSave_out _ _ h).weaken rfl,
    fun _ _ _ h => (execCertRead_out _ h).weaken rfl,
    fun _ _ _ h => (execAgeingRead_out _ h).weaken rfl,
    fun _ _ _ h => (execMarginRead_out _ h).weaken rfl,
    fun _ _ _ h => (execMeasureNow_out _ h).weaken rfl,
    fun _ _ _ h => (execPblRead_out _ h).weaken rfl,
    fun _ _ _ h => (execPblStatus_out _ h).weaken rfl,
    fun _ _ _ _ h => (execPblClear_out _ _ h).weaken rfl,
    fun _ _ _ _ h => (execFwDownload_out _ _ h).weaken rfl,
    fun _ _ _ _ h => (execFwCommit_out _ _ h).weaken rfl,
    fun _ _ _ h => (execFwStatus_out _ h).weaken rfl,
    fun _ _ _ h => (execFlashStatus_out _ h).weaken rfl,
    fun _ _ _ h => (execPlacementSet_out _ h).weaken rfl,
    fun _ _ _ h => (execPlacementGet_out _ h).weaken rfl,
    fun _ _ _ h => (execBandInfo_out _ h).weaken rfl,
    fun _ _ _ h => (execPoolInfo_out _ h).weaken rfl,
    fun _ _ _ h => (execAltQueue_out _ h).weaken rfl,
    fun _ _ _ h => (execDefaultsSet_out _ h).weaken rfl,
    fun _ _ _ h => (execDefaultsGet_out _ h).weaken rfl,
    fun _ _ _ h => (execGroupSet_out _ h).weaken rfl,
    fun _ _ _ h => (execGroupStatus_out _ h).weaken rfl,
    fun _ _ _ h => (execPeerHello_out _ h).weaken rfl,
    fun _ _ _ h => (execAdopt_out _ h).weaken rfl,
    fun _ _ _ h => (execSrcRoute_out _ h).weaken rfl,
    fun _ _ _ h => (execSrcRead_out _ h).weaken rfl,
    fun _ _ _ h => (execDoorbell_out _ h).weaken rfl,
    fun _ _ _ h => (execSoftSource_out _ h).weaken rfl,
    fun _ _ _ h => (execBankClaim_out _ h).weaken rfl,
    fun _ _ _ h => (execBankDone_out _ h).weaken rfl⟩

/-- Settles O59: each command's law bounds what it changes, and the keys of its frame name all that the law allows. -/
theorem keyValueComputePeerGroupCommandsFrame : Obligations.KeyValueComputePeerGroupCommandsFrame := by
  unfold Obligations.KeyValueComputePeerGroupCommandsFrame
  exact ⟨fun _ _ _ _ h => (execFlush_out _ _ h).weaken rfl,
    fun _ _ _ _ _ _ _ _ _ h => (execStore_out _ _ _ _ _ _ _ h).weaken rfl,
    fun _ _ _ _ _ h => (execRetrieve_out _ _ _ h).weaken rfl,
    fun _ _ _ _ _ h => (execKvDelete_out _ _ _ h).weaken rfl,
    fun _ _ _ _ _ h => (execExist_out _ _ _ h).weaken rfl,
    fun _ _ _ _ _ h => (execList_out _ _ _ h).weaken rfl,
    fun _ _ _ _ _ _ _ h => (execLoadProgram_out _ _ _ _ _ h).weaken rfl,
    fun _ _ _ _ _ _ h => (execProgramActivationManagement_out _ _ _ _ h).weaken rfl,
    fun _ _ _ _ _ _ _ _ _ _ h => (execExecuteProgram_out _ _ _ _ _ _ _ _ h).weaken rfl,
    fun _ _ _ h => (execHelperCopy_out _ h).weaken rfl,
    fun _ _ _ h => (execHelperZcomp_out _ h).weaken rfl,
    fun _ _ _ h => (execHelperZdecomp_out _ h).weaken rfl,
    fun _ _ _ h => (execHelperSha256_out _ h).weaken rfl,
    fun _ _ _ h => (execHelperCrc32c_out _ h).weaken rfl,
    fun _ _ _ h => (execHelperOpsec_out _ h).weaken rfl,
    fun _ _ _ _ _ _ _ h => (execMemoryRangeSetManagement_out _ _ _ _ _ h).weaken rfl,
    fun _ _ _ _ _ _ h => (execMemoryCopy_out _ _ _ _ h).weaken rfl,
    fun _ _ _ _ _ _ h => (execMemoryRead_out _ _ _ _ h).weaken rfl,
    fun _ _ _ _ _ _ h => (execMemoryWrite_out _ _ _ _ h).weaken rfl,
    fun _ _ _ h => (execTruEnable_out _ h).weaken rfl,
    fun _ _ h => (execPwkAct_out h).weaken rfl,
    fun _ _ _ h => (execDiscoveryPoll_out _ h).weaken rfl,
    fun _ _ _ h => (execDiscoveryLogPageChange_out _ h).weaken rfl,
    fun _ _ _ h => (execCandidateAuthRetry_out _ h).weaken rfl,
    fun _ _ _ h => (execPeerTimeout_out _ h).weaken rfl,
    fun _ _ h => (execEpochPropose_out h).weaken rfl,
    fun _ _ _ _ h => (execProposalReceive_out _ _ h).weaken rfl,
    fun _ _ _ _ h => (execProposalAckReceive_out _ _ h).weaken rfl,
    fun _ _ _ h => (execEpochCommitReceive_out _ h).weaken rfl,
    fun _ _ h => (execProposalVoid_out h).weaken rfl,
    fun _ _ h => (execEpochRepropose_out h).weaken rfl,
    fun _ _ _ _ _ h => (execFragmentStoreAck_out _ _ _ h).weaken rfl,
    fun _ _ _ _ _ _ h => (execFragmentTimeout_out _ _ _ _ h).weaken rfl,
    fun _ _ _ h => (execRebuildFragment_out _ h).weaken rfl,
    fun _ _ _ _ _ _ _ _ h => (execHbmUncorrectable_out _ _ _ _ _ _ h).weaken rfl⟩

/-- Settles O60: each command's law bounds what it changes, and the keys of its frame name all that the law allows. -/
theorem hostCommandCommandsFrame : Obligations.HostCommandCommandsFrame := by
  unfold Obligations.HostCommandCommandsFrame
  exact ⟨fun _ _ _ _ h => (execDurablePointStands_out _ _ h).weaken rfl,
    fun _ _ _ _ _ _ _ _ _ _ _ _ h => (execConnect_out _ _ _ _ _ _ _ _ _ _ h).weaken rfl,
    fun _ _ _ h => (execDisconnect_out _ h).weaken rfl,
    fun _ _ _ h => (execControllerReset_out _ h).weaken rfl,
    fun _ _ _ h => (execKatoExpiry_out _ h).weaken rfl,
    fun _ _ _ _ _ _ h => (execNvmeIdentify_out _ _ _ _ h).weaken rfl,
    fun _ _ _ _ _ h => (execGetLogPage_out _ _ _ h).weaken rfl,
    fun _ _ _ _ _ _ h => (execGetFeatures_out _ _ _ _ h).weaken rfl,
    fun _ _ _ _ h => (execArbitration_out _ _ h).weaken rfl,
    fun _ _ _ _ h => (execPowerManagement_out _ _ h).weaken rfl,
    fun _ _ _ _ _ _ h => (execTemperatureThreshold_out _ _ _ _ h).weaken rfl,
    fun _ _ _ _ h => (execVolatileWriteCache_out _ _ h).weaken rfl,
    fun _ _ _ _ _ h => (execNumberOfQueues_out _ _ _ h).weaken rfl,
    fun _ _ _ _ h => (execAsynchronousEventConfiguration_out _ _ h).weaken rfl,
    fun _ _ _ _ h => (execKeepAliveTimer_out _ _ h).weaken rfl,
    fun _ _ _ _ _ h => (execHostIdentifier_out _ _ _ h).weaken rfl,
    fun _ _ _ _ _ h => (execLatencyBudget_out _ _ _ h).weaken rfl,
    fun _ _ _ _ _ _ h => (execAbort_out _ _ _ _ h).weaken rfl,
    fun _ _ _ h => (execAsynchronousEventRequest_out _ h).weaken rfl,
    fun _ _ _ _ _ _ _ _ h => (execNamespaceCreate_out _ _ _ _ _ _ h).weaken rfl,
    fun _ _ _ _ h => (execNamespaceDelete_out _ _ h).weaken rfl,
    fun _ _ _ _ _ _ h => (execNamespaceAttachment_out _ _ _ _ h).weaken rfl,
    fun _ _ _ _ _ _ h => (execFirmwareImageDownload_out _ _ _ _ h).weaken rfl,
    fun _ _ _ _ _ _ h => (execFirmwareCommit_out _ _ _ _ h).weaken rfl,
    fun _ _ _ _ _ h => (execDeviceSelfTest_out _ _ _ h).weaken rfl,
    fun _ _ _ h => (execSelfTestAbort_out _ h).weaken rfl,
    fun _ _ _ _ _ h => (execSelfTestSegment_out _ _ _ h).weaken rfl,
    fun _ _ _ h => (execKeepAlive_out _ h).weaken rfl,
    fun _ _ _ _ _ _ _ h => (execFormatNvm_out _ _ _ _ _ h).weaken rfl,
    fun _ _ _ h => (execSanitizeCryptoErase_out _ h).weaken rfl,
    fun _ _ _ h => (execSanitizeBlockErase_out _ h).weaken rfl,
    fun _ _ _ h => (execUnsupportedOpcode_out _ h).weaken rfl,
    fun _ _ _ _ _ _ _ h => (execRead_out _ _ _ _ _ h).weaken rfl,
    fun _ _ _ _ _ _ _ h => (execWrite_out _ _ _ _ _ h).weaken rfl,
    fun _ _ _ _ _ _ _ h => (execWriteZeroes_out _ _ _ _ _ h).weaken rfl,
    fun _ _ _ _ _ _ h => (execDatasetManagement_out _ _ _ _ h).weaken rfl,
    fun _ _ _ _ _ _ h => (execVerify_out _ _ _ _ h).weaken rfl,
    fun _ _ _ _ _ _ _ h => (execZoneAppend_out _ _ _ _ _ h).weaken rfl,
    fun _ _ _ _ _ _ h => (execZoneReset_out _ _ _ _ h).weaken rfl,
    fun _ _ _ _ _ _ h => (execZoneFinish_out _ _ _ _ h).weaken rfl,
    fun _ _ _ _ _ _ h => (execZoneOpen_out _ _ _ _ h).weaken rfl,
    fun _ _ _ _ _ _ h => (execZoneClose_out _ _ _ _ h).weaken rfl,
    fun _ _ _ _ _ h => (execSetZoneDescriptorExtension_out _ _ _ h).weaken rfl,
    fun _ _ _ _ _ _ h => (execZoneManagementReceive_out _ _ _ _ h).weaken rfl,
    fun _ _ _ _ h => (execIntakeVisit_out _ _ h).weaken rfl,
    fun _ _ _ h => (execTurnstileRelease_out _ h).weaken rfl,
    fun _ _ _ _ h => (execJugglerPick_out _ _ h).weaken rfl,
    fun _ _ h => (execCmdEnable_out h).weaken rfl,
    fun _ _ _ h => (execFetchHold_out _ h).weaken rfl,
    fun _ _ h => (execHiwatClr_out h).weaken rfl⟩

end Sys2Proof.Machine

/-!
PROOFS. The read channel's completion statement: READ_OP_START needs the servo in FOLLOW (R70), and the statement asks it of
every servo state from ACQUIRE to HOLD.
-/

namespace Sys2Proof.Machine

set_option Elab.async false

/-- A read operation starts on track alone: in any other servo state READ_OP_START changes nothing (R70). -/
theorem readOpStart_offTrack (a : Act) {s : State} (h : s.srvSt a ≠ srvFOLLOW) : readOpStart a s = s := by
  unfold readOpStart
  split
  · rfl
  · simp [h]

/-- A job that reads one sector. -/
def oneSectorRead : Job := ⟨0, .read, none, 0, 0, 0, 0, 0, 1, 0, 0, 0, 0, 0, 0, false, false, 0, 0, 0⟩

/-- Actuator 0 acquires position, its channel enabled, with a read job to serve. -/
def acquiringWithRead : State :=
  (State.reset.puts [(R.CHN_CTL_EN 0, 1), (R.SRV_STAT_STATE 0, srvACQUIRE)]).setJob 0 (some oneSectorRead)

/-- Refutes O11: in ACQUIRE the first clause's conditions hold, and READ_OP_START leaves the channel inactive. -/
theorem not_readChannelCommandsComplete : ¬ Obligations.ReadChannelCommandsComplete := by
  unfold Obligations.ReadChannelCommandsComplete
  rintro ⟨hstart, -⟩
  obtain ⟨t, ht, -, -, hactive, -⟩ := hstart 0 oneSectorRead acquiringWithRead (by decide) (by decide) (by decide)
    (by decide) (by decide) (by decide) (by decide) (by decide)
  have hsame : t = acquiringWithRead := (Host.Outcome.next.inj ht).symm.trans (readOpStart_offTrack 0 (by decide))
  rw [hsame] at hactive
  exact absurd hactive (by decide)

end Sys2Proof.Machine

/-!
PROOFS. Lanyard's completion statement: the gate frame latches the write current as the preamp's register holds it, and the
statement expects its low seven bits of any value the register table lists.
-/

namespace Sys2Proof.Machine

set_option Elab.async false

/-- A gate frame with permission and a good sample latches the preamp's write current (R95). -/
theorem lanyardGateFrame_opens (a : Act) {s : State} (hmay : s.gateMay a = true) (hsmp : s.get (V.srvSmpOk a) = 1) :
    lanyardGateFrame a 0x5A#8 s =
      s.puts [(R.SPT_STAT_WG a, 1), (R.SPT_STAT_AG_REQ a, 1), (V.sptIw a, s.paGet a (s.get (R.SPT_STAT_SEL_HEAD a)) 0x10),
        (V.sptOs a, s.paGet a (s.get (R.SPT_STAT_SEL_HEAD a)) 0x11), (V.sptWgT a, 0)] := by
  simp [lanyardGateFrame, hmay, State.on, State.get_put, hsmp]

/-- Port 0 with permission to write, its preamp's write current register listed as 128. -/
def wideWriteCurrent : State :=
  (State.reset.puts [(R.SPT_CTL_EN 0, 1), (R.SEQ_STAT_GATES 0, 1), (V.srvSmpOk 0, 1)]).paSet 0 0 0x10 128

/-- Refutes O12: the gate frame latches 128 as the write current, where the first clause says 0. -/
theorem not_spotlightCommandsComplete : ¬ Obligations.SpotlightCommandsComplete := by
  unfold Obligations.SpotlightCommandsComplete
  rintro ⟨hgate, -⟩
  obtain ⟨t, ht, -, -, hiw⟩ := hgate 0 wideWriteCurrent (by decide) (by decide)
  have hopens := (Host.Outcome.next.inj ht).symm.trans (lanyardGateFrame_opens 0 (s := wideWriteCurrent) (by decide) (by decide))
  rw [hopens] at hiw
  exact absurd hiw (by decide)

end Sys2Proof.Machine

/-!
PROOFS. Barker's completion statement: END in EXIT keeps the job of the routine it leaves, except the read job of a command
that was aborted (R131), which the statement does not set apart.
-/

namespace Sys2Proof.Machine

set_option Elab.async false

@[simp] theorem State.seqr_seqBoundary (s : State) (a b : Nat) : (s.seqBoundary a).seqr b = s.seqr b := by
  unfold State.seqBoundary
  split <;> rfl

/-- A flipped bit in the control store makes no turn-on late. -/
@[simp] theorem State.wwLate_upset (s : State) (a addr : Nat) (f : BarkerWord) (b imm bit : Nat) :
    (s.upset a addr f).wwLate b imm bit = s.wwLate b imm bit := by
  unfold State.upset
  split <;> rfl

@[simp] theorem State.wwLate_setSeqr (s : State) (a : Nat) (r : SeqRun) (b imm bit : Nat) :
    (s.setSeqr a r).wwLate b imm bit = s.wwLate b imm bit := rfl

@[simp] theorem State.seqr_upset (s : State) (a addr : Nat) (f : BarkerWord) (b : Nat) :
    (s.upset a addr f).seqr b = s.seqr b := by
  unfold State.upset
  split <;> rfl

/-- A word that runs has its effect after its actions, and then the boundary of the word is tested (R125). -/
theorem State.barker_of_runs {s v : State} {a opc : Nat} {f w : BarkerWord} {now : BarkerNow}
    (h : s.barkerRuns a opc f now w v) (op : BarkerWord → State → State) :
    s.barker a opc f now op = (op w v).seqBoundary a := by
  obtain ⟨hfetch, rfl, hcheck, hop, hlate, hab, -, rfl⟩ := h
  unfold State.barker State.afterWord
  dsimp only
  rw [if_neg (by simp [hfetch]), if_neg (by simp [hcheck]), if_neg (by simp [hop])]
  rw [if_neg (by simpa using hlate)]
  simp [hab]

/-- An aborted read is not put back: its job ends with the command (R131). -/
theorem State.returned_jobAborted {s : State} {a : Nat} {j : Job} (hret : (s.seqr a).returned = some j)
    (hread : j.writes = false) (hjob : s.jobOf a = none) : ((s.jobAborted a).seqr a).returned = none := by
  simp [State.jobAborted, hret, hread, State.endJob, hjob]

/-- END in EXIT, after a command was aborted, drops the routine's read job. -/
theorem returned_barkerEnd_aborted {s v : State} {a : Act} {f w : BarkerWord} {now : BarkerNow} {j : Job}
    (h : s.barkerRuns a 8 f now w v) (hst : v.get (R.SEQ_STAT_STATE a) = seqEXIT) (hlast : v.get (V.seqLast a) = abCommand)
    (hjob : (v.seqr a).job = some j) (hread : j.writes = false) (hcur : v.jobOf a = none) :
    ((barkerEnd a f now s).seqr a).returned = none := by
  rw [barkerEnd, State.barker_of_runs h]
  simp only [hst, hlast, hjob, decide_true, if_true, true_or, State.when_true, State.seqr_seqBoundary]
  exact State.returned_jobAborted (j := j) (by simp) hread (by simp [State.toIdle, hcur])

/-- END with no action and even parity. -/
def plainEnd : BarkerWord := ⟨0x80000000, 0, 0, 0, 1⟩

/-- Sequencer 0 leaves the routine of a read whose command was aborted, END next. -/
def exitingAborted : State :=
  ((State.reset.puts [(R.SEQ_STAT_STATE 0, seqEXIT), (V.seqLast 0, abCommand)]).setBstore 0 [plainEnd]).setSeqr 0
    { SeqRun.idle with job := some oneSectorRead }

/-- Refutes O13: the second clause of BARKER_END has the aborted read come back as the job to restart, and it is dropped. -/
theorem not_sequencerCommandsComplete : ¬ Obligations.SequencerCommandsComplete := by
  unfold Obligations.SequencerCommandsComplete
  rintro ⟨-, -, -, -, -, -, -, -, -, -, -, hend, -⟩
  have hruns : exitingAborted.barkerRuns (0 : Act) 8 ⟨0, 0, 0, 0, 0⟩ ⟨0, 0, 0⟩ plainEnd _ :=
    ⟨by decide, by decide, by decide, by decide, by decide, rfl, by decide, rfl⟩
  obtain ⟨t, ht, -, hreturned, -⟩ := hend 0 ⟨0, 0, 0, 0, 0⟩ plainEnd ⟨0, 0, 0⟩ exitingAborted _ hruns (by decide)
  rw [← Host.Outcome.next.inj ht] at hreturned
  have hdropped := returned_barkerEnd_aborted (j := oneSectorRead) hruns (by decide) (by decide) (by decide) (by decide) (by decide)
  exact absurd (hdropped.symm.trans hreturned) (by decide)

end Sys2Proof.Machine

/-!
PROOFS. The servo's completion statement: an unload waits while the other actuator of the pair holds its gate open (R156), and
the clause of HOLD_RELOCK_TIMEOUT does not except it.
-/

namespace Sys2Proof.Machine

set_option Elab.async false

/-- While its mate writes, an actuator notes the unload and stays in its state (R156). -/
theorem State.unloadNow_of_mateHolds {s : State} {a : Nat} (h : s.mateHolds a = true) :
    s.unloadNow a = s.put (V.srvUnlWait a) 1 := by
  rw [State.unloadNow, if_pos h]

theorem holdRelockTimeout_hold {s : State} {a : Act} (h : s.srvSt a = srvHOLD) :
    holdRelockTimeout a s = s.unloadNow a := by
  rw [holdRelockTimeout, if_pos h]

/-- Actuators 0 and 1 are mates: 0, which allows its mate no current, writes while 1 is in HOLD. -/
def holdBesideWrite : State :=
  { State.reset.puts [(R.SRV_STAT_STATE 1, srvHOLD), (R.SPT_STAT_WG 0, 1), (R.SRV_MATE_WR_IMAX 0, 0)] with
    opt := putBytes [] 0x42 [1, 0] }

/-- Refutes O14: when HOLD times out beside a writing mate the actuator stays in HOLD. -/
theorem not_servoCommandsComplete : ¬ Obligations.ServoCommandsComplete := by
  unfold Obligations.ServoCommandsComplete
  rintro ⟨-, -, -, -, -, -, -, -, -, -, -, -, -, hhold, -⟩
  obtain ⟨t, ht, hstate⟩ := hhold 1 holdBesideWrite (by decide)
  have hwaits : t = holdBesideWrite.put (V.srvUnlWait 1) 1 := by
    rw [← Host.Outcome.next.inj ht, holdRelockTimeout_hold (by decide), State.unloadNow_of_mateHolds (by decide)]
    rfl
  rw [hwaits] at hstate
  exact absurd hstate (by decide)

end Sys2Proof.Machine

/-!
PROOFS. Trapeze's loop statement: a dispatch computes with the tables its loop has taken and not yet seen copied (R187), and
the statement computes with the tables in force before.
-/

namespace Sys2Proof.Machine

set_option Elab.async false

/-- Without a limit on its error and with no inhibit standing a loop is not supervised (R183). -/
theorem State.supervise_unlimited {s : State} {n : Nat} (err : Int) (hlim : s.ldsc n 0xC 2 = 0)
    (hfe : (s.loop n).feT = none) (hinh : (s.loop n).inh = false) : s.supervise n err = s := by
  simp [State.supervise, hlim, hfe, hinh]

/-- A loop that drives another actuator's output learns nothing (R174). -/
theorem State.learnVcm_other {s : State} {n : Nat} (out : Int) (h : s.lpOut n ≠ s.lpAct n) : s.learnVcm n out = s := by
  simp [State.learnVcm, h]

/-- Loop 18 alone learns the cogging table (R185). -/
theorem State.learnCog_other {s : State} {n : Nat} (out : Int) (h : n ≠ 18) : s.learnCog n out = s := by
  rw [State.learnCog, if_pos h]

/-- A commit of an unsupervised loop that triggers no other leaves its result at its destination (R173). -/
theorem State.get_trzDest_lpCommit {s u : State} {n : Nat} {out ho : Int} {sts : List (Nat × Int)}
    (hcons : s.lpConsumer n = false) (hdest : s.lpOut n < 0x20) (hn : n ≠ 18)
    (hu : u = ((((((s.setPws n sts).setPw n 120 out).setPw n 121 ho).puts
      [(V.trzOwner (s.lpOut n), n + 1), (V.trzLinkFree, 0)]).putI (V.trzDest (s.lpOut n)) out).setLoop n
        { s.loop n with due := none, run := false, ran := true, misses := 0 }))
    (hlim : u.ldsc n 0xC 2 = 0) (hfe : (u.loop n).feT = none) (hinh : (u.loop n).inh = false) (hother : u.lpOut n ≠ u.lpAct n)
    (hchain : s.chained n = []) :
    (s.lpCommit n out sts ho).get (V.trzDest (s.lpOut n)) = ofSigned 32 out % 2 ^ 32 := by
  unfold State.lpCommit
  simp only [hcons, State.when_false, if_pos hdest, ← hu, hchain]
  rw [State.supervise_unlimited _ hlim hfe hinh, State.learnVcm_other _ hother, State.learnCog_other _ hn, hu]
  exact State.get_put_same ..

/-- Loop 0, a table law (4) on actuator 1 with output 0, is due; its table is empty, and the one it took gives 7 below its
first point. -/
def dispatchWithTakenTable : State :=
  { State.reset.puts [(R.TRZ_STAT_STATE, trzRUN), (V.trzTblPend 0, 1), (V.trzTook 0, 1)] with
    win := putBytes (putBytes [] (winKey 0x0F 0 0x1000) [4, 4, 0, 0, 0, 0, 0, 0, 0, 0, 1, 0, 0, 0, 0, 0, 0, 1])
      (winKey 0x0F 2 0x8024) [7]
    loops := [(0, { Loop.idle with due := some 0 })] }

/-- What the loop's law gives once its table is copied. -/
def takenTableResult : Int × List (Nat × Int) × Int := (dispatchWithTakenTable.lpView 0).lawStep 0

/-- The state in which the dispatched loop commits. -/
def dispatchedLoop : State :=
  ((dispatchWithTakenTable.puts [(R.TRZ_STAT_LOOP, 0), (R.TRZ_STAT_UTIL, dispatchWithTakenTable.freeVal % 101)]).drew).setLoop 0
    { dispatchWithTakenTable.loop 0 with run := true }

theorem loopDispatch_takenTable : loopDispatch true dispatchWithTakenTable =
    dispatchedLoop.lpCommit 0 takenTableResult.1 takenTableResult.2.1 takenTableResult.2.2 := by
  have hnext : dispatchWithTakenTable.lpNext = some 0 := by decide +kernel
  rw [loopDispatch, if_neg (by decide), hnext]
  rfl

theorem get_trzDest_dispatched : (loopDispatch true dispatchWithTakenTable).get (V.trzDest 0) = 7 := by
  have hout : dispatchedLoop.lpOut 0 = 0 := by decide +kernel
  have hdest := State.get_trzDest_lpCommit (s := dispatchedLoop) (n := 0) (out := takenTableResult.1) (ho := takenTableResult.2.2)
    (sts := takenTableResult.2.1) (by decide +kernel) (by decide +kernel) (by decide) rfl (by decide +kernel) rfl rfl
    (by decide +kernel) (by decide +kernel)
  rw [hout] at hdest
  rw [loopDispatch_takenTable, hdest]
  decide +kernel

/-- Refutes O16: the dispatch writes 7, where the law in the state before gives 0. -/
theorem not_trapezeLoopCommandsComplete : ¬ Obligations.TrapezeLoopCommandsComplete := by
  unfold Obligations.TrapezeLoopCommandsComplete
  rintro ⟨-, -, -, -, hwhole, -⟩
  obtain ⟨t, ht, hdest, -⟩ := hwhole 0 dispatchWithTakenTable (by decide) (by decide) (by decide +kernel) (by decide)
    (by decide +kernel)
  rw [← Host.Outcome.next.inj ht] at hdest
  have hout : dispatchWithTakenTable.lpOut 0 = 0 := by decide +kernel
  have hlaw : (dispatchWithTakenTable.lawStep 0).1 = 0 := by decide +kernel
  rw [hout, hlaw] at hdest
  exact absurd (get_trzDest_dispatched.symm.trans hdest) (by decide)

end Sys2Proof.Machine

/-!
PROOFS. Media management's completion statement: at a journal page boundary the records still needed are written again before
a new one (R270), so a record can advance the sequence by more than one.
-/

namespace Sys2Proof.Machine

set_option Elab.async false

/-- Actuator 0's relay, its first band run planned, with no band left to lay. -/
def plannedRelay : MOp := ⟨7, 2, 0, 1, 0, 0, 0, 0, 0, 0, 0, 0, false, []⟩

/-- The relay's last record stands in the block that the journal's next pages erase. -/
def relayAtJournalTurn : State :=
  { State.reset.puts [(R.MMG_CTL_ALT_EN, 1)] with
    mops := [plannedRelay]
    journal := [⟨256, 7, 2, 1, 0, 0, []⟩] }

/-- The relay's record is written again, and then its new one: the sequence advances by two. -/
theorem jseq_relayStep_atJournalTurn : (relayStep 0 [] true relayAtJournalTurn).jseq = 2 := by decide

/-- Refutes O20: at a turn of the journal RELAY_STEP advances the sequence by two. -/
theorem not_mediaManagementCommandsComplete : ¬ Obligations.MediaManagementCommandsComplete := by
  unfold Obligations.MediaManagementCommandsComplete
  rintro ⟨-, -, -, -, -, hrelay, -⟩
  obtain ⟨t, ht, -, hjseq⟩ := hrelay 0 [] plannedRelay relayAtJournalTurn (by decide) (by decide) (by decide) (by decide)
  rw [← Host.Outcome.next.inj ht] at hjseq
  exact absurd (jseq_relayStep_atJournalTurn.symm.trans hjseq) (by decide)

end Sys2Proof.Machine

/-!
PROOFS. The memory's completion statement: a stack trained at 6.4 Gbit/s brings the pair to that rate (R391, R392), while the
clause of HBM_TRAINING_DONE reads the wanted rate before the training is entered.
-/

namespace Sys2Proof.Machine

set_option Elab.async false

/-- Training ended well on a stack that was neither trained nor off. -/
theorem hbmTrainingDone_ok {s : State} {k : Fin 2} {c : BitVec 8} (ht : s.get (R.HBM_STAT_TRAINED k) = 0)
    (ho : s.get (R.HBM_STAT_OFF k) = 0) :
    hbmTrainingDone k true c s =
      (let t := s.puts [(R.HBM_STAT_TRAINED k, 1), (V.hbmTry k, 0), (V.hbmTop k, b2n (decide (s.get (R.HBM_CTL_RATE 0) = 3)))]
       (t.put (R.HBM_STAT_RATE_EFF k) t.rateWant).when (t.on (R.HBM_STAT_TRAINED (1 - k))) fun u =>
         u.put (R.HBM_STAT_RATE_EFF (1 - k)) t.rateWant) := by
  simp [hbmTrainingDone, State.on, ht, ho]

/-- `RATE` asks for 6.4 Gbit/s and stack 1 has been trained at it; stack 0 has not been trained. -/
def secondStackAtTopRate : State :=
  State.reset.puts [(R.HBM_CTL_RATE 0, 3), (R.HBM_CTL_RATE 1, 3), (R.HBM_STAT_TRAINED 1, 1), (V.hbmTop 1, 1)]

/-- Refutes O23: stack 0's training brings the pair to rate 3, where the rate wanted before it was 2. -/
theorem not_memoryCommandsComplete : ¬ Obligations.MemoryCommandsComplete := by
  unfold Obligations.MemoryCommandsComplete
  rintro ⟨htrained, -⟩
  obtain ⟨t, ht, -, hrate⟩ := htrained 0 0 secondStackAtTopRate (by decide) (by decide)
  rw [← Host.Outcome.next.inj ht, hbmTrainingDone_ok (by decide) (by decide)] at hrate
  exact absurd hrate (by decide)

end Sys2Proof.Machine

/-!
PROOFS. The event recorder's completion statement: bank 3 serves what waits for it as an erase ends (R411), so a second erase
of the same block that waits makes the block erase-incomplete again (R408), and the clause of RING_BLOCK_ERASE_DONE does not
except it.
-/

namespace Sys2Proof.Machine

set_option Elab.async false

/-- The erase the records wait for ends well. -/
theorem ringBlockEraseDone_of_top {s : State} {o : FlashOp} (htop : s.ringTop = some o)
    (h : o.erase = true ∧ s.on V.pbErase = true ∧ o.blk = ringBlk + s.get V.pbSlot / 1024) :
    ringBlockEraseDone true s = s.ringEraseEnd o true := by
  rw [ringBlockEraseDone, htop]
  exact if_pos h

/-- An erase of block 3072. -/
def ringErase : FlashOp := ⟨true, 3072, 3072 * 65536, [], false, 0⟩

/-- The records wait for the erase of block 3072, which executes; FLASH_ERASE of the same block waits in the bank. -/
def eraseBehindErase : State :=
  { State.reset.put V.pbErase 1 with fops := [(3, [ringErase])], fwait := [(3, [.erase 3072])] }

/-- Refutes O27: the waiting erase starts, and block 3072 is erase-incomplete as RING_BLOCK_ERASE_DONE ends. -/
theorem not_eventRecorderCommandsComplete : ¬ Obligations.EventRecorderCommandsComplete := by
  unfold Obligations.EventRecorderCommandsComplete
  rintro ⟨-, -, -, -, -, herased, -⟩
  obtain ⟨t, ht, -, -, -, hrec⟩ := herased ringErase eraseBehindErase (by decide) (by decide) (by decide)
    (by decide)
  have hrun := ringBlockEraseDone_of_top (s := eraseBehindErase) (o := ringErase) (by decide) (by decide)
  rw [← Host.Outcome.next.inj ht] at hrec
  change (ringBlockEraseDone true eraseBehindErase).blkRec _ = _ at hrec
  rw [hrun] at hrec
  exact absurd hrec (by decide)

end Sys2Proof.Machine

/-!
PROOFS. The catalogue's requests: a handler answers a request that has started and whose response is not formed (R372, R373).
-/

namespace Sys2Proof.Machine

set_option Elab.async false

/-- A handler whose answer fits the request's limit. -/
theorem State.serve_of_started {s u : State} {rq : ReqId} {op : Nat} {r : Req} {f : Req → List Byte → State → State × Rsp}
    {x : Rsp} (h : s.started rq op = some r) (hf : f r r.args s = (u, x)) (hlen : x.2.2.length ≤ r.limit) :
    s.serve rq op f = u.respond r.no x := by
  unfold State.started at h
  simp only [State.serve, h, hf, Nat.not_lt.mpr hlen, if_false]

/-- A handler that answers with a status alone. -/
theorem State.serve_of_rsp {s u : State} {rq : ReqId} {op st : Nat} {r : Req} {f : Req → List Byte → State → State × Rsp}
    (h : s.started rq op = some r) (hf : f r r.args s = (u, rsp st)) : s.serve rq op f = u.respond r.no (st, 0, []) :=
  State.serve_of_started h hf (Nat.zero_le _)

/-- A handler that answers with a payload. -/
theorem State.serve_of_rspOk {s u : State} {rq : ReqId} {op : Nat} {b : List Byte} {r : Req}
    {f : Req → List Byte → State → State × Rsp} (h : s.started rq op = some r) (hf : f r r.args s = (u, rspOk b))
    (hlen : b.length ≤ r.limit) : s.serve rq op f = u.respond r.no (0, 0, b) :=
  State.serve_of_started h hf hlen

theorem sized_of_length {n : Nat} {b : List Byte} (h : b.length = n) (s : State) (f : State → State × Rsp) :
    sized n b s f = f s := if_pos h

@[simp] theorem State.get_respond (s : State) (no : Nat) (x : Rsp) (k : Fld) : (s.respond no x).get k = s.get k := rfl

end Sys2Proof.Machine

/-!
PROOFS. The catalogue's third completion statement: resident firmware holds the data of a download in the HBM firmware partition
before it answers (R420), so FW_DOWNLOAD changes more than `fwDownload` does, and its clause leaves the rest out.
-/

namespace Sys2Proof.Machine

set_option Elab.async false

/-- A download request that is not refused for its length. -/
theorem fwDownloadCmd_of_started {s : State} {rq : ReqId} {r : Req} (ok : Bool) (h : s.started rq 0x0800 = some r)
    (hlen : 5 ≤ r.args.length) :
    fwDownloadCmd rq ok s = (s.fwDownHeld 15 r.mb (fieldAt r.args 0 4) (r.args.drop 4) ok).1.respond r.no
      ((s.fwDownload r.mb (fieldAt r.args 0 4) (r.args.drop 4) ok).2, 0, []) :=
  State.serve_of_rsp h (if_neg (Nat.not_lt.mpr hlen))

/-- Resident firmware holds the data of a download step that succeeds. -/
theorem State.fwDownHeld_of_ok {s : State} {c holder ofs : Nat} {data : List Byte} {ok : Bool}
    (hst : (s.fwDownload holder ofs data ok).2 = 0) (hrom : s.get V.romServe = 0) :
    (s.fwDownHeld c holder ofs data ok).1 = (s.fwDownload holder ofs data ok).1.fwPages c (0x200000 + ofs / 4096) data := by
  simp [State.fwDownHeld, hst, State.on, hrom]

theorem State.wayOf_of_pkt_nil {s : State} (h : s.pkt = []) (line : Nat) : s.wayOf line = none := by
  simp [State.wayOf, State.pline, h, Tab.at, Tab.get]

/-- An access past an empty Pocket that allocates nothing, with the HBM unpowered, only ends the self-refresh (R30, R397). -/
theorem State.pktAccess_of_idle {s : State} (hpkt : s.pkt = []) (hen : s.get R.PKT_CTL_EN = 0)
    (hpwr : s.get R.CVN_STAT_PWR_EN = 0) (hsref : s.get (R.HBM_STAT_SREF 0) = 1) (c line : Nat) (w : Nat × List Byte) :
    s.pktAccess c line (some w) = s.srefOff := by
  simp [State.pktAccess, State.wayOf_of_pkt_nil hpkt, State.pktAlloc, State.hbmWrite, State.srefOff, State.puts, State.when,
    State.on, State.get_put, hen, hpwr, hsref, bitOf]

theorem lineParts_singleton (adr : Nat) (b : Byte) : ∃ p, lineParts adr [b] = [p] := by
  have hone : (adr + 1 + 127) / 128 - adr / 128 = 1 := by omega
  rw [lineParts, List.length_singleton, hone]
  exact ⟨_, rfl⟩

/-- One byte held in the firmware partition ends the self-refresh of an otherwise idle HBM. -/
theorem State.sref_fwPages_byte {s : State} (hpkt : s.pkt = []) (hen : s.get R.PKT_CTL_EN = 0)
    (hpwr : s.get R.CVN_STAT_PWR_EN = 0) (hsref : s.get (R.HBM_STAT_SREF 0) = 1) (c page : Nat) (b : Byte) :
    (s.fwPages c page [b]).get (R.HBM_STAT_SREF 0) = 0 := by
  obtain ⟨p, hp⟩ := lineParts_singleton (hbmAdr 4 page) b
  have hput : (s.srefOff).get (R.HBM_STAT_SREF 0) = 0 := by
    simp [State.srefOff, State.get_put]
  have hput' : (s.srefOff.unpoison (hbmAdr 4 page) 1).get (R.HBM_STAT_SREF 0) = 0 := hput
  simp [State.fwPages, State.forAll, State.partWrite, State.memPut, hp, State.pktAccess_of_idle hpkt hen hpwr hsref,
    State.showPkt, State.get_put, hput']

/-- A second request of a download: one byte at byte 256 of the slot. -/
def downloadByte : Req :=
  ⟨10, 7, 0x0800, 0, 0, [], [0, 1, 0, 0, 0xAA], 65536, true, false, 0, 0, [], false, none, []⟩

/-- Resident firmware serves, mailbox 10 has a download open, and the HBM is in self-refresh. -/
def openDownload : State :=
  { State.reset.puts [(V.fwUp, 1), (V.fwOpen, 1), (V.fwHold, 10), (V.fwLen, 256), (R.HBM_STAT_SREF 0, 1)] with
    reqs := [downloadByte] }

/-- Refutes O33: the HBM has left its self-refresh when FW_DOWNLOAD answers. -/
theorem not_recorderPlacementAndInterruptRequestsComplete :
    ¬ Obligations.RecorderPlacementAndInterruptRequestsComplete := by
  unfold Obligations.RecorderPlacementAndInterruptRequestsComplete
  rintro ⟨-, -, -, hdownload, -⟩
  obtain ⟨t, ht, heq⟩ := hdownload ⟨10, 0⟩ true downloadByte openDownload (by decide) (by decide)
  rw [← Host.Outcome.next.inj ht, fwDownloadCmd_of_started (r := downloadByte) true (by decide) (by decide),
    State.fwDownHeld_of_ok (by decide) (by decide)] at heq
  have hsref := congrArg (State.get · (R.HBM_STAT_SREF 0)) heq
  simp only [State.get_respond, show downloadByte.args.drop 4 = [0xAA] from rfl] at hsref
  rw [State.sref_fwPages_byte (by decide) (by decide) (by decide) (by decide)] at hsref
  exact absurd hsref (by decide)

end Sys2Proof.Machine

/-!
PROOFS. Identity and policy requests (R378, R379, R386 to R388, R416): the answer of a started request is its handler's, and
fits the limit of its mailbox.
-/

namespace Sys2Proof.Machine

set_option Elab.async false

@[simp] theorem length_leBytes (n v : Nat) : (leBytes n v).length = n := by
  induction n generalizing v with
  | zero => rfl
  | succ n ih => simp [leBytes, ih]

theorem State.length_budgetRsp (s : State) (scope : Nat) : (s.budgetRsp scope).2.2.length ≤ 16 := by
  unfold State.budgetRsp
  split <;> simp [rsp, rspOk]

/-- Settles O31: each handler's conditions select the branch the clause names. -/
theorem identityAndPolicyRequestsComplete : Obligations.IdentityAndPolicyRequestsComplete := by
  unfold Obligations.IdentityAndPolicyRequestsComplete
  refine ⟨?identify, ?getNonce, ?inventory, ?counters, ?clearXtal, ?optionRead, ?optionWrite, ?keyRegister, ?setBudget,
    ?getBudget, ?spinSlot, ?spinStatus, ?placementSet, ?placementGet, ?defaultsSet, ?defaultsGet⟩
  case identify | counters | spinStatus | placementGet | defaultsGet =>
    exact fun rq r s h hlen hlim => ⟨_, rfl, State.serve_of_rspOk h (sized_of_length hlen _ _) hlim⟩
  case getNonce =>
    exact fun rq nonce r s h hlen hlim => ⟨_, rfl, State.serve_of_rspOk h (sized_of_length hlen _ _) hlim⟩
  case inventory =>
    intro rq x r s h hlen hkind hitem hlim
    refine ⟨_, rfl, State.serve_of_rspOk h ?_ hlim⟩
    have hin : ¬(fieldAt r.args 0 2 = 0 ∨ 10 < fieldAt r.args 0 2) := by omega
    simp only [sized_of_length hlen, hin, if_false, hitem]
  case clearXtal =>
    exact fun rq r s h hlen => ⟨_, rfl, State.serve_of_rsp h (sized_of_length hlen _ _)⟩
  case optionRead =>
    intro rq r s h hlen hend hlim _
    refine ⟨_, rfl, State.serve_of_rspOk h ?_ ((List.length_take_le _ _).trans hlim)⟩
    simp [sized_of_length hlen, Nat.not_lt.mpr hend, Nat.not_lt.mpr hlim]
  case optionWrite =>
    intro rq ok1 ok2 r s h hmin hlen
    refine ⟨_, rfl, State.serve_of_rsp h ?_⟩
    simp [hlen, stRsp]
  case keyRegister =>
    intro rq ok1 ok2 r s h hlen hkey hform hwrite
    refine ⟨_, rfl, State.serve_of_rsp h ?_⟩
    have htake : r.args.take 97 = r.args := List.take_of_length_le hlen.le
    simp only [htake, hlen, hkey, hform, hwrite, ne_eq, not_true, Bool.not_false, Bool.false_eq_true, and_true, or_true,
      false_and, or_self, if_false]
  case setBudget =>
    exact fun rq r s h hlen hlim =>
      ⟨_, rfl, State.serve_of_started h (sized_of_length hlen _ _) ((State.length_budgetRsp _ _).trans hlim)⟩
  case getBudget =>
    exact fun rq r s h hlen hlim =>
      ⟨_, rfl, State.serve_of_started h (sized_of_length hlen _ _) ((State.length_budgetRsp _ _).trans hlim)⟩
  case spinSlot =>
    intro rq r s h hlen hmode hzero hdelay himax hzero' hlim
    refine ⟨_, rfl, State.serve_of_rspOk h ?_ (le_of_eq_of_le (by simp) hlim)⟩
    have hin : (decide (fieldAt r.args 8 2 = 0) || inR 500 6000 (fieldAt r.args 8 2)) = true := by
      simpa [inR] using himax
    simp only [sized_of_length hlen, hin, Nat.not_lt.mpr hmode, Nat.not_lt.mpr hdelay, hzero, hzero', ne_eq, not_true,
      Bool.not_true, Bool.false_eq_true, or_self, if_false]
    rfl
  case placementSet =>
    intro rq r s h hlen hmask
    refine ⟨_, rfl, State.serve_of_rsp h ?_⟩
    have hin : ¬(fieldAt r.args 0 1 = 0 ∨ 2 ^ s.nact ≤ fieldAt r.args 0 1) := by omega
    simp only [sized_of_length hlen, hin, if_false]
  case defaultsSet =>
    intro rq r s h hlen hlt
    refine ⟨_, rfl, State.serve_of_rsp h ?_⟩
    simp only [sized_of_length hlen, Nat.not_le.mpr hlt, if_false]

end Sys2Proof.Machine

/-!
PROOFS. Thermal, trim, table and ageing requests (R378, R448 to R460).
-/

namespace Sys2Proof.Machine

set_option Elab.async false

/-- A handler of `onReq` acts once: no part of its request's action is left over. -/
theorem State.onReq_of_started {s : State} {rq : ReqId} {op : Nat} {r : Req} {f : Req → State → State}
    (h : s.started rq op = some r) (hw : s.works = []) : s.onReq rq op f = f r s := by
  unfold State.started at h
  simp only [State.onReq, h, hw, List.any_nil, Bool.false_eq_true, if_false]

theorem State.length_bytes (s : State) (blk sel off n : Nat) : (s.bytes blk sel off n).length = n := by
  simp [State.bytes]

/-- Settles O32: each handler's conditions select the branch the clause names. -/
theorem thermalAndTrimRequestsComplete : Obligations.ThermalAndTrimRequestsComplete := by
  unfold Obligations.ThermalAndTrimRequestsComplete
  refine ⟨?thermalRead, ?clearSuspect, ?trimRead, ?trimWrite, ?tableRead, ?tableWrite, ?tailorSave, ?certRead,
    ?ageingRead, ?marginRead, ?measureNow⟩
  case thermalRead =>
    exact fun rq r s h hlen hlim => ⟨_, rfl, State.serve_of_rspOk h (sized_of_length hlen _ _) hlim⟩
  case clearSuspect =>
    intro rq r s h hlen hlt
    refine ⟨_, rfl, State.serve_of_rsp h ?_⟩
    simp only [sized_of_length hlen, Nat.not_le.mpr hlt, if_false]
  case trimRead =>
    intro rq r s h hlen htrims hlim
    refine ⟨_, rfl, State.serve_of_rspOk h ?_ hlim⟩
    rw [sized_of_length hlen]
    split
    · exact absurd ‹_› htrims
    · rfl
  case trimWrite =>
    rintro rq r img s h hworks rfl hlen hn hoffs hbits hidle
    refine ⟨_, rfl, (State.onReq_of_started h hworks).trans ?_⟩
    simp only [hlen, Nat.ne_of_gt hn, hoffs, hbits, hidle, ne_eq, not_true, Bool.false_eq_true, or_self, if_false]
    rfl
  case tableRead =>
    intro rq r s h hlen htable hsel hlim _
    refine ⟨_, rfl, State.serve_of_rspOk h ?_ ((State.length_bytes _ _ _ _ _).le.trans hlim)⟩
    rw [sized_of_length hlen]
    dsimp only
    split
    · exact absurd ‹_› htable
    · simp only [Nat.not_lt.mpr hlim, Nat.not_le.mpr hsel, if_false]
  case tableWrite =>
    intro rq x r s h hmin hlen hn htable hsel hwhole hcrc
    refine ⟨_, rfl, State.serve_of_rsp h ?_⟩
    have hn0 : fieldAt r.args 4 4 ≠ 0 := Nat.ne_of_gt hn
    have hgood : ¬(x.2.2.2.2 = true ∧ ((List.range (fieldAt r.args 4 4 / x.2.2.1)).map fun i =>
        ((adrOf (fieldAt r.args 0 4)).2.2 + x.2.2.1 * i, (r.args.drop (8 + x.2.2.1 * i)).take x.2.2.1)).any
        (fun e => !crcOk e.2) = true) := fun hbad => by simp [hcrc hbad.1] at hbad
    simp only [hlen, Nat.not_lt.mpr (Nat.le_add_right 8 _), hn0, htable, Nat.not_le.mpr hsel, hwhole, hgood, ne_eq, not_true, or_self, if_false]
  case tailorSave =>
    exact fun rq r s h hlen => ⟨_, rfl, State.serve_of_rsp h (sized_of_length hlen _ _)⟩
  case certRead =>
    intro rq c l r s h hlen hcerts hlim
    refine ⟨_, rfl, State.serve_of_rspOk h ?_ hlim⟩
    simp only [sized_of_length hlen, hcerts]
  case ageingRead =>
    intro rq x r s h hlen hnewest hlim
    refine ⟨_, rfl, State.serve_of_rspOk h ?_ hlim⟩
    simp only [sized_of_length hlen, hnewest]
  case marginRead =>
    intro rq r s h hlen hhead hlim
    refine ⟨_, rfl, State.serve_of_rspOk h ?_ hlim⟩
    simp only [sized_of_length hlen, Nat.not_le.mpr hhead, if_false]
  case measureNow =>
    intro rq r s h hlen hmask
    refine ⟨_, rfl, State.serve_of_rsp h ?_⟩
    simp only [sized_of_length hlen, Nat.not_le.mpr hmask, if_false]

end Sys2Proof.Machine

/-!
PROOFS. The completion statement of the Key Value store and the peer group: a leader that hears a drive of a later committed epoch
proposes nothing (R341), and the clause of EPOCH_PROPOSE does not except it.
-/

namespace Sys2Proof.Machine

set_option Elab.async false

theorem epochPropose_of_outranked {s : State} (h : s.outranked = true) : epochPropose s = s := by
  simp [epochPropose, h]

/-- This drive as the only member, of epoch 0, hears a candidate whose committed epoch is 1; the group may have eight members. -/
def laterCandidate : State :=
  { State.reset.put R.PWK_CTL_ACT 1 with
    members := [⟨serial, 0, 32, 8, 4, true, 0⟩], cands := [⟨[], 0, 32, 8, 4, true, 1⟩], group := putBytes [] 0x12 [8] }

theorem serial_ne_nil : serial ≠ [] := nofun

theorem laterCandidate_members : laterCandidate.members = [⟨serial, 0, 32, 8, 4, true, 0⟩] := rfl

theorem laterCandidate_cands : laterCandidate.cands = [⟨[], 0, 32, 8, 4, true, 1⟩] := rfl

theorem laterCandidate_outranked : laterCandidate.outranked = true := by
  have hnewer : epochNewer 1 (laterCandidate.get V.pwkEpoch) = true := by decide
  simp [State.outranked, laterCandidate_members, laterCandidate_cands, serial_ne_nil.symm, hnewer]

theorem laterCandidate_leads : laterCandidate.leads = true := by
  have hact : laterCandidate.on R.PWK_CTL_ACT = true := by decide
  simp [State.leads, State.isMember, laterCandidate_members, hact]

theorem laterCandidate_wantMembers : laterCandidate.wantMembers ≠ laterCandidate.members.map (·.serial) := by
  have hmax : laterCandidate.pgrp 0x12 1 = 8 := by decide
  simp [State.wantMembers, hmax, laterCandidate_members, laterCandidate_cands]

/-- Refutes O34: the outranked leader leaves the proposal as it is. -/
theorem not_keyValueAndPeerGroupCommandsComplete : ¬ Obligations.KeyValueAndPeerGroupCommandsComplete := by
  unfold Obligations.KeyValueAndPeerGroupCommandsComplete
  rintro ⟨-, -, -, -, -, -, -, -, -, -, -, -, -, -, hpropose, -⟩
  obtain ⟨t, ht, hproposal⟩ := hpropose laterCandidate laterCandidate_leads rfl laterCandidate_wantMembers
  have hsame : t = laterCandidate := by
    rw [← Host.Outcome.next.inj ht, epochPropose_of_outranked laterCandidate_outranked]
  rw [hsame] at hproposal
  exact nomatch hproposal

end Sys2Proof.Machine

/-!
PROOFS. Intake takes a command whose conditions hold: nothing of the commands in flight changes but its own entry (R283, R296).
-/

namespace Sys2Proof.Machine

set_option Elab.async false

theorem State.arrive_out_refl (s : State) : Out arriveOut s s.arrive := State.arrive_out (.refl s) (Key.sub_refl _)

@[simp] theorem State.arrive_cmds (s : State) : s.arrive.cmds = s.cmds := s.arrive_out_refl.part .cmds (by simp [arriveOut])

@[simp] theorem State.arrive_cmdNo (s : State) : s.arrive.cmdNo = s.cmdNo := s.arrive_out_refl.part .cmdNo (by simp [arriveOut])

@[simp] theorem State.showPause_cmds (s : State) (why : Nat) : (s.showPause why).cmds = s.cmds :=
  (State.showPause_out why (.refl s) (Key.sub_refl _)).part .cmds (by simp)

@[simp] theorem State.showPause_cmdNo (s : State) (why : Nat) : (s.showPause why).cmdNo = s.cmdNo :=
  (State.showPause_out why (.refl s) (Key.sub_refl _)).part .cmdNo (by simp)

@[simp] theorem State.puts_cmds (s : State) (l : List (Fld × Nat)) : (s.puts l).cmds = s.cmds := by
  induction l generalizing s with
  | nil => rfl
  | cons e l ih => exact (ih _).trans (State.put_cmds s e.1 e.2)

@[simp] theorem State.showCmds_cmds (s : State) : s.showCmds.cmds = s.cmds := by
  simp only [State.showCmds, State.puts_cmds]

@[simp] theorem State.when_count_cmds (s : State) (c : Bool) (k : Fld) : (s.when c fun t => t.count k).cmds = s.cmds := by
  cases c <;> simp

/-- The entry a command gets as intake lists it (R296). -/
theorem State.enlist_cmds (s : State) (i : CmdId) (nsid : Nat) (ents : List TsEnt) (st : Stat) (dw0 : Nat) :
    (s.enlist i nsid ents st dw0).cmds = s.cmds ++ [Cmd.mk i s.cmdNo nsid ents (s.cmds.any fun c => entsClash ents c.ents)
      false 0 st.1 st.2 dw0 none .none [] .plain []] := by
  simp only [State.enlist, State.showCmds_cmds, State.when_count_cmds]

/-- What `takes` asks, taken apart. -/
theorem State.takes_iff {s : State} {id : CmdId} {scopes : List Scope} {blocks : Nat} :
    s.takes id scopes blocks = true ↔
      s.cmdOf id = none ∧ (∃ x, s.ctrl id.cntlid = some x ∧ x.lostq.contains id.qid = false) ∧
      s.arrive.pauseWhy (scopes.flatMap s.arrive.scopeEnts).length blocks false = 0 ∧
      (s.cmds.any fun c => entsClash (scopes.flatMap s.arrive.scopeEnts) c.ents) = false := by
  cases hc : s.ctrl id.cntlid <;> simp [State.takes, hc, and_assoc]

theorem State.tryTake_of_takes {s : State} {id : CmdId} {ns blocks : Nat} {scopes : List Scope}
    (happ : ∀ n lba k, scopes ≠ [.append n lba k])
    (hwhy : s.arrive.pauseWhy (scopes.flatMap s.arrive.scopeEnts).length blocks false = 0) :
    s.tryTake ⟨id, ns, scopes, blocks⟩ false =
      ((s.arrive.showPause 0).enlist id ns (scopes.flatMap s.arrive.scopeEnts) stOk 0, true) := by
  simp only [State.tryTake, hwhy, ne_eq, not_true, if_false]

/-- The entry that `beginCmd` finds is the one just listed. -/
theorem State.cmdOf_enlist {s : State} {id : CmdId} {ns : Nat} {ents : List TsEnt} {st : Stat} {dw0 : Nat}
    (hnone : s.cmdOf id = none) (hclash : (s.cmds.any fun c => entsClash ents c.ents) = false) :
    (s.enlist id ns ents st dw0).cmdOf id =
      some (Cmd.mk id s.cmdNo ns ents false false 0 st.1 st.2 dw0 none .none [] .plain []) := by
  rw [State.cmdOf] at hnone
  rw [State.cmdOf, State.enlist_cmds, List.find?_append, hnone, hclash]
  simp

/-- A command that intake takes begins at once, as the only change of what is in flight. -/
theorem State.taking_of_takes {s : State} {id : CmdId} {ns blocks : Nat} {scopes : List Scope} {f : Cmd → State → State}
    (happ : ∀ n lba k, scopes ≠ [.append n lba k]) (h : s.takes id scopes blocks = true) :
    s.taking ⟨id, ns, scopes, blocks⟩ f = f (s.takenCmd id ns scopes) (s.took id ns scopes) := by
  obtain ⟨hnone, ⟨x, hx, -⟩, hwhy, hclash⟩ := State.takes_iff.mp h
  have hof : (s.arrive.showPause 0).cmdOf id = none := by rwa [State.cmdOf, State.showPause_cmds, State.arrive_cmds]
  have hcl : ((s.arrive.showPause 0).cmds.any fun c => entsClash (scopes.flatMap s.arrive.scopeEnts) c.ents) = false := by
    rwa [State.showPause_cmds, State.arrive_cmds]
  have hno : (s.arrive.showPause 0).cmdNo = s.cmdNo := by rw [State.showPause_cmdNo, State.arrive_cmdNo]
  simp only [State.taking, hnone, hx, State.tryTake_of_takes happ hwhy, if_true, State.beginCmd,
    State.cmdOf_enlist hof hcl, Bool.false_eq_true, or_self, if_false, hno]
  rfl

/-- An admin command names no scope. -/
theorem State.admin_of_takes {s : State} {id : CmdId} {f : Cmd → State → State} (h : s.takes id [] 0 = true) :
    s.admin id f = f (s.takenCmd id 0 []) (s.took id 0 []) := State.taking_of_takes (by simp) h

end Sys2Proof.Machine

/-!
PROOFS. The compute completion statement: the fabric that sends the data of a Memory Read is Pocket's class 1 (R32, R399), and the
clause of MEMORY_READ has class 0 read it.
-/

namespace Sys2Proof.Machine

set_option Elab.async false

/-- A Memory Read that intake takes and none of its tests turns away. -/
theorem memoryRead_of_takes {s u : State} {id : CmdId} {nsid len : BitVec 32} {off : BitVec 64}
    (h : s.takes id [.mem off.toNat len.toNat false] 0 = true) (hu : u = s.took id nsid.toNat [.mem off.toNat len.toNat false])
    (hns : nsid = 1024) (hA : u.trackA = true) (hlen : ¬(len.toNat = 0 ∨ 2097152 < len.toNat ∨ memSize < off.toNat + len.toNat))
    (hgood : u.memBad (slmBase + off.toNat) len.toNat = false) :
    memoryRead id nsid off len s =
      (u.memTouch 1 (slmBase + off.toNat) len.toNat).complete id stOk 0 (.bytes (u.memGet (slmBase + off.toNat) len.toNat)) := by
  subst hns
  have hmem : (1024#32).toNat = memNsid := rfl
  refine (State.taking_of_takes (by simp) h).trans ?_
  rw [← hu]
  simp [State.onMem, hmem, hA, hlen, hgood]

/-- The first command of controller 1's admin queue. -/
def firstCmd : CmdId := ⟨1, 0, 1⟩

/-- Controller 1 is connected and track A has ended; Pocket is enabled; class 1 may allocate in way 0, class 0 nowhere. -/
def fabricSends : State :=
  { State.reset.puts [(R.HBM_STAT_TRAINED 0, 1), (R.HBM_STAT_TRAINED 1, 1), (V.fwUp, 1), (R.PKT_CTL_EN, 1), (R.PKT_CLS_WAYS 0, 0),
      (R.PKT_CLS_WAYS 1, 1)] with
    ctrls := [(1, some ⟨1, [], 1, true, 0, 0, [], [], [], [], [], false, [], [], false⟩)] }

/-- The memory a Memory Read of the first four bytes names. -/
def firstBytes : List Scope := [.mem (0 : BitVec 64).toNat (4 : BitVec 32).toNat false]

/-- The state in which that read begins. -/
def fabricReads : State := fabricSends.took firstCmd (1024 : BitVec 32).toNat firstBytes

theorem fabricSends_takes : fabricSends.takes firstCmd firstBytes 0 = true := by decide +kernel

theorem fabricReads_trackA : fabricReads.trackA = true := by decide +kernel

theorem fabricReads_good : fabricReads.memBad (slmBase + (0 : BitVec 64).toNat) (4 : BitVec 32).toNat = false := by decide +kernel

/-- The line goes where the reader's class allocates. -/
theorem fabricReads_pkt :
    ((fabricReads.memTouch 1 (slmBase + (0 : BitVec 64).toNat) (4 : BitVec 32).toNat).complete firstCmd stOk 0
      (.bytes (fabricReads.memGet (slmBase + (0 : BitVec 64).toNat) (4 : BitVec 32).toNat))).pkt ≠
    ((fabricReads.memTouch 0 (slmBase + (0 : BitVec 64).toNat) (4 : BitVec 32).toNat).complete firstCmd stOk 0
      (.bytes (fabricReads.memGet (slmBase + (0 : BitVec 64).toNat) (4 : BitVec 32).toNat))).pkt := by decide +kernel

/-- Refutes O35: the line that a Memory Read of four bytes allocates is class 1's. -/
theorem not_computeCommandsComplete : ¬ Obligations.ComputeCommandsComplete := by
  unfold Obligations.ComputeCommandsComplete
  rintro ⟨-, -, -, -, -, hread, -⟩
  obtain ⟨t, ht, heq⟩ := hread firstCmd 1024 0 4 fabricReads fabricSends fabricSends_takes rfl rfl fabricReads_trackA
    (by decide) (by decide) fabricReads_good
  have hrun := memoryRead_of_takes fabricSends_takes rfl rfl fabricReads_trackA (by decide) fabricReads_good
  exact fabricReads_pkt (congrArg State.pkt (hrun.symm.trans ((Host.Outcome.next.inj ht).trans heq)))

end Sys2Proof.Machine

/-!
PROOFS. One part at a time: what an operation's keys do not name, as a check that computes.
-/

namespace Sys2Proof.Machine

set_option Elab.async false

/-- Every register and every part but one. -/
def Key.but (p : Part) : List Key := .all :: (parts.filter fun q => !(q.num == p.num)).map .p

theorem Key.not_mem_but (p : Part) : Key.p p ∉ Key.but p := by
  simp [Key.but]

/-- A part that the keys of an operation spare. -/
theorem Out.spared {p : Part} {s t : State} (h : Out (Key.but p) s t) : p.same s t := h.part p (Key.not_mem_but p)

end Sys2Proof.Machine

/-!
PROOFS. Connections and intake (R254, R280 to R307).
-/

namespace Sys2Proof.Machine

set_option Elab.async false

/-! ## Enables -/

/-- An enable that passes its checks. -/
theorem State.enable_of_pass {s : State} {en chk : Fld} {conds : List (Bool × Nat)} {pass : State → State}
    (hoff : s.get en = 0) (hpass : ∀ c ∈ conds, c.1 = false) : s.enable en chk conds pass = (pass (s.put en 1), 0) := by
  have hfind : conds.find? (·.1) = none := List.find?_eq_none.mpr fun c hc => by simp [hpass c hc]
  simp [State.enable, State.on, hoff, hfind]

/-! ## Controllers that go -/

/-- What is left to do once a controller has gone touches no controller. -/
theorem State.tearDown_tail_ctrls (s : State) : s.drainDeletes.showCmds.budgetChanged.ctrls = s.ctrls :=
  (State.budgetChanged_out (State.showCmds_out (State.drainDeletes_out (.refl s) rfl) rfl) rfl : Out (Key.but .ctrls) _ _).spared

theorem State.tearDown_release_ctrls (s : State) (n : Nat) :
    (s.drainDeletes.showCmds.mbRelease n).budgetChanged.ctrls = s.ctrls :=
  (State.budgetChanged_out (State.mbRelease_out n (State.showCmds_out (State.drainDeletes_out (.refl s) rfl) rfl) rfl) rfl :
    Out (Key.but .ctrls) _ _).spared

theorem State.tearDown_ctrl (s : State) (c : Nat) : (s.tearDown c).1.ctrl c = none := by
  unfold State.tearDown
  cases hc : s.ctrl c with
  | none => exact hc
  | some x =>
    dsimp only
    generalize State.mbOf _ c = mb
    cases mb with
    | none => simp [State.ctrl, State.tearDown_tail_ctrls, State.setCtrl]
    | some n => simp [State.ctrl, State.tearDown_release_ctrls, State.setCtrl]

/-! ## What the commands do where their conditions hold -/

theorem durablePointStands_of_ready {a : Act} {b : Nat} {rest : List Nat} {s : State} (copy : Fin 3) (hp : s.pointsOf a = b :: rest)
    (hr : s.pointReady a b = true) : durablePointStands a copy s =
      ((((((State.makeDurable { s with points := Tab.set [] s.points a rest } a b).recordPoint a b copy).kvDurable a b).count
        R.MMG_CNT_DURABLE).planAgain a).clean a).pointDone a b := by
  simp only [durablePointStands, hp, hr, if_true]

/-- CONNECT of an admin queue makes the first free controller (R280). -/
theorem connect_admin {cid : BitVec 16} {entries : Nat} {kato : BitVec 32} {hostId : BitVec 128} {hostNqn : List Byte} {member : Bool}
    {conn : ConnData} {c : Nat} {s : State} (hon : s.get R.CMD_CTL_EN = 1) (hctrls : s.ctrls.length < 256) (hpairs : s.pairsUsed < 8192)
    (hent : 2 ≤ entries ∧ entries ≤ 32) (hkato : katoOk kato.toNat = true)
    (hfree : ((List.range 256).map (· + 1)).find? (fun c => (s.ctrl c).isNone) = some c) :
    connect cid 0 0xFFFF entries false kato hostId hostNqn member conn s =
      (State.setCtrl { s with
          visit := s.visit ++ [(c, 0)]
          nss := s.nss.map fun (e : Nat × Option Ns) =>
            (e.1, e.2.map fun n => if n.frag ∧ member then { n with att := n.att ++ [c] } else n) } c
        (some ⟨hostId.toNat, hostNqn, b2n (!conn.disc), conn.disc, katoSec kato.toNat, 0, [], [], [], [], [], member,
          [conn.tr] ++ addrWords conn.addr.toNat ++ [entries, conn.digests.toNat, conn.inCap.toNat, kato.toNat], [],
          conn.disc⟩)).connectReply 0 cid.toNat stOk c := by
  have hin : inR 2 32 entries = true := by simp [inR, hent.1, hent.2]
  simp [connect, State.on, hon, Nat.not_le.mpr hctrls, Nat.not_le.mpr hpairs, hin, hkato, hfree]

/-- CONNECT of an I/O queue gives the queue back to its controller (R280). -/
theorem connect_io {cid qid cntlid : BitVec 16} {entries : Nat} {kato : BitVec 32} {hostId : BitVec 128} {hostNqn : List Byte}
    {member : Bool} {conn : ConnData} {x : Ctrl} {s : State} (hon : s.get R.CMD_CTL_EN = 1) (hq : qid.toNat ≠ 0)
    (hx : s.ctrl cntlid.toNat = some x) (hent : 2 ≤ entries ∧ entries ≤ 4096) (hpair : qid.toNat ≤ x.pairs) :
    connect cid qid cntlid entries false kato hostId hostNqn member conn s =
      (s.setCtrl cntlid.toNat (some { x with lostq := x.lostq.filter fun q => decide (q ≠ qid.toNat) })).connectReply qid.toNat
        cid.toNat stOk cntlid.toNat := by
  have hin : inR 2 4096 entries = true := by simp [inR, hent.1, hent.2]
  simp only [connect, State.on, hon, hq, hx, hin, Nat.not_lt.mpr hpair]
  simp

theorem controllerReset_of_noTest {c : BitVec 16} {s : State} (h : s.test = none) : controllerReset c s = (s.tearDown c.toNat).1 := by
  simp [controllerReset, h]

/-- The controller that KATO_EXPIRY names goes, and the expiry is an event (R303). -/
theorem katoExpiry_ctrl {c : BitVec 16} {x : Ctrl} {s : State} (hx : s.ctrl c.toNat = some x) (hk : x.kato ≠ 0) :
    (katoExpiry c s).ctrl c.toNat = none ∧ (katoExpiry c s).get R.CMD_EVT_KATO_EXP = 1 := by
  simp only [katoExpiry, hx, hk, if_false]
  exact ⟨by simpa [State.ctrl] using s.tearDown_ctrl c.toNat, by simp⟩

theorem abortCmd_of_stalled {id : CmdId} {sqid cid : BitVec 16} {inQueue : Bool} {c : Cmd} {s : State}
    (h : s.takes id [] 0 = true) (hc : (s.took id 0 []).cmdOf ⟨id.cntlid, sqid.toNat, cid.toNat⟩ = some c) (hst : c.stalled = true) :
    abortCmd id sqid cid inQueue s = (((s.took id 0 []).complete ⟨id.cntlid, sqid.toNat, cid.toNat⟩ stAborted 0 .none).count
      R.CMD_CNT_ABORT).complete id stOk 0 .none := by
  simp only [abortCmd, State.admin_of_takes h, hc, hst, if_true]

theorem abortCmd_of_begun {id : CmdId} {sqid cid : BitVec 16} {inQueue : Bool} {c : Cmd} {s : State}
    (h : s.takes id [] 0 = true) (hc : (s.took id 0 []).cmdOf ⟨id.cntlid, sqid.toNat, cid.toNat⟩ = some c) (hst : c.stalled = false) :
    abortCmd id sqid cid inQueue s = (s.took id 0 []).complete id stOk 1 .none := by
  simp [abortCmd, State.admin_of_takes h, hc, hst]

theorem asyncRequest_of_waiting {id : CmdId} {x : Ctrl} {s : State} (h : s.takes id [] 0 = true)
    (hx : (s.took id 0 []).ctrl id.cntlid = some x) (hn : x.notices = []) (hl : x.aers.length < 16) :
    asyncRequest id s = ((s.took id 0 []).setCtrl id.cntlid (some { x with aers := x.aers ++ [id] })).unflight id := by
  simp only [asyncRequest, State.admin_of_takes h, hx, hn, Nat.not_le.mpr hl, if_false]

theorem asyncRequest_of_notice {id : CmdId} {x : Ctrl} {n : Nat} {l : List Nat} {s : State} (h : s.takes id [] 0 = true)
    (hx : (s.took id 0 []).ctrl id.cntlid = some x) (hn : x.notices = n :: l) :
    asyncRequest id s = ((s.took id 0 []).setCtrl id.cntlid (some { x with notices := l })).complete id stOk n .none := by
  simp only [asyncRequest, State.admin_of_takes h, hx, hn]

theorem intakeVisit_of_taken {waiting : List Waiting} {full : Bool} {c q : Nat} {rest : List (Nat × Nat)} {x : Ctrl} {v s : State}
    (hv : s.visit = (c, q) :: rest) (hx : s.ctrl c = some x) (hwhy : s.pauseWhy 0 0 full = 0)
    (htake : State.takeList full
      ((waiting.filter fun w => decide (w.id.cntlid = c ∧ w.id.qid = q) && (s.cmdOf w.id).isNone).take 8) s = (v, true)) :
    intakeVisit waiting full s = { v.showPause 0 with visit := rest ++ [(c, if q < x.pairs then q + 1 else 0)] } := by
  simp only [intakeVisit, hv, hx, hwhy, htake, if_true, ne_eq, not_true, if_false]

theorem turnstileRelease_of_canRun {id : CmdId} {c : Cmd} {s : State} (hc : s.cmdOf id = some c) (hst : c.stalled = true)
    (hrun : s.canRun c = true) : turnstileRelease id s = s.updCmd c.no fun d => { d with stalled := false } := by
  simp [turnstileRelease, hc, hst, hrun]

/-- The job picked leaves the queue and becomes the actuator's job (R299). -/
theorem jugglerPick_of_choice {a : Act} {w : BitVec 16} {j : Job} {aged : Bool} {s : State} (hheld : s.get (R.CMD_JQ_HELD a) = 0)
    (hwhy : s.get (R.CMD_JQ_WHY a) = 0) (hhold : s.get (R.CHN_REPLAY_HOLD a) = 0) (hjob : s.jobOf a = none)
    (hret : (s.seqr a).returned = none) (hdown : s.actDown a = false) (hmchk : s.get (R.SEQ_STAT_STATE a) ≠ seqMCHK)
    (hch : s.jugglerChoice a w.toNat = some (j, aged)) : jugglerPick a w s =
      ((s.setJugq a ((s.jugq a).filter fun x => decide (x.id ≠ j.id))).setJob a (some j)).when aged fun u =>
        (u.count R.CMD_CNT_AGEPICK).evt R.CMD_EVT_AGE_PICK := by
  simp [jugglerPick, State.on, hheld, hwhy, hhold, hjob, hret, hdown, hmchk, hch]

theorem fetchHold_get (v : Bool) (s : State) : (fetchHold v s).get R.CMD_CTL_FETCH_HOLD = b2n v := by
  have h : Out _ _ (fetchHold v s) := State.showPause_out _ (.refl (s.putB R.CMD_CTL_FETCH_HOLD v)) (Key.sub_refl _)
  rw [h.read _ (by decide), State.putB, State.get_put_same]
  cases v <;> rfl

/-! ## Media management must be enabled first, and the profile in order (R307) -/

theorem cmdEnable_of_pass {s : State} (hmmg : s.get R.MMG_CTL_EN = 1) (hage : 50 ≤ s.get R.CMD_JUG_AGE_MS ∧ s.get R.CMD_JUG_AGE_MS ≤ 60000)
    (hmargin : s.get R.CMD_JUG_SEEK_MARGIN ≤ 32) (hprof : (List.range s.nact).any s.profileBad = false) (hoff : s.get R.CMD_CTL_EN = 0) :
    s.cmdEnable = (s.put R.CMD_CTL_EN 1, 0) :=
  State.enable_of_pass hoff (by simp [State.on, hmmg, inR, hage.1, hage.2, hmargin, hprof])

/-- Settles O36, command by command: what each does where its conditions hold. -/
theorem connectionAndIntakeCommandsComplete : Obligations.ConnectionAndIntakeCommandsComplete := by
  unfold Obligations.ConnectionAndIntakeCommandsComplete
  refine ⟨?_, ?_, ?_, ?_, ?_, ?_, ?_, ?_, ?_, ?_, ?_, ?_, ?_, ?_, ?_, ?_, ?_, ?_⟩
  case refine_1 => exact fun a copy b rest s hp hr => ⟨_, rfl, durablePointStands_of_ready copy hp hr⟩
  case refine_2 =>
    rintro cid _ entries kato hostId hostNqn member conn c s rfl hon hctrls hpairs hent hkato hfree
    refine ⟨_, rfl, ?_⟩
    rw [connect_admin hon hctrls hpairs hent hkato hfree]
    simp [State.connectReply, State.setCtrl, stOk]
  case refine_3 =>
    intro cid qid cntlid entries kato hostId hostNqn member conn x s hon hq hx hent hpair
    refine ⟨_, rfl, ?_⟩
    rw [connect_io hon hq hx hent hpair]
    simp [State.connectReply, State.setCtrl, stOk]
  case refine_4 => exact fun c x s _ => ⟨_, rfl, s.tearDown_ctrl c.toNat⟩
  case refine_5 => exact fun c x s _ htest => ⟨_, rfl, by rw [controllerReset_of_noTest htest]; exact s.tearDown_ctrl c.toNat⟩
  case refine_6 => exact fun c x s hx hk => ⟨_, rfl, katoExpiry_ctrl hx hk⟩
  case refine_7 => rintro id _ s h rfl; exact ⟨_, rfl, State.admin_of_takes h⟩
  case refine_8 => rintro id sqid cid inQueue c _ s h rfl hc hst; exact ⟨_, rfl, abortCmd_of_stalled h hc hst⟩
  case refine_9 => rintro id sqid cid inQueue c _ s h rfl hc hst; exact ⟨_, rfl, abortCmd_of_begun h hc hst⟩
  case refine_10 => rintro id x _ s h rfl hx hn hl; exact ⟨_, rfl, asyncRequest_of_waiting h hx hn hl⟩
  case refine_11 => rintro id x n l _ s h rfl hx hn; exact ⟨_, rfl, asyncRequest_of_notice h hx hn⟩
  case refine_12 => rintro id _ s h rfl; exact ⟨_, rfl, State.admin_of_takes h⟩
  case refine_13 => exact fun waiting full c q rest x v s hv hx hwhy htake => ⟨_, rfl, intakeVisit_of_taken hv hx hwhy htake⟩
  case refine_14 => exact fun id c s hc hst hrun => ⟨_, rfl, turnstileRelease_of_canRun hc hst hrun⟩
  case refine_15 =>
    intro a w j aged s hheld hwhy hhold hjob hret hdown hmchk hch
    refine ⟨_, rfl, ?_⟩
    rw [jugglerPick_of_choice hheld hwhy hhold hjob hret hdown hmchk hch]
    cases aged <;> simp
  case refine_16 =>
    intro s hmmg hage hmargin hprof hoff
    refine ⟨_, rfl, ?_⟩
    rw [cmdEnableCmd, cmdEnable_of_pass hmmg hage hmargin hprof hoff]
    exact State.get_put_same ..
  case refine_17 => exact fun v s => ⟨_, rfl, fetchHold_get v s⟩
  case refine_18 => exact fun s => ⟨_, rfl, rfl⟩

end Sys2Proof.Machine

/-!
PROOFS. Identify, log pages and features (R281 to R286, R304, R386).
-/

namespace Sys2Proof.Machine

set_option Elab.async false

/-- A feature of the controller itself. -/
theorem State.withCtrl_of_some {s : State} {id : CmdId} {x : Ctrl} {f : Ctrl → Ctrl} (h : s.ctrl id.cntlid = some x) :
    s.withCtrl id f = (s.setCtrl id.cntlid (some (f x))).answer id stOk := by
  simp only [State.withCtrl, h]

/-! ## Identify (R284) -/

theorem nvmeIdentify_controller {id : CmdId} {csi : BitVec 8} {nsid : BitVec 32} {s : State} (h : s.takes id [] 0 = true) :
    nvmeIdentify id 1 csi nsid s = (s.took id 0 []).complete id stOk 0 (.fields ((s.took id 0 []).idCtrl id.cntlid)) := by
  rw [nvmeIdentify, State.admin_of_takes h]
  rfl

theorem nvmeIdentify_active {id : CmdId} {csi : BitVec 8} {nsid : BitVec 32} {s : State} (h : s.takes id [] 0 = true) :
    nvmeIdentify id 2 csi nsid s = (s.took id 0 []).complete id stOk 0
      (.fields (((s.took id 0 []).activeNs id.cntlid).filter fun x => decide (nsid.toNat < x))) := by
  rw [nvmeIdentify, State.admin_of_takes h]
  rfl

/-- The data structure of a namespace that the controller has. -/
theorem nvmeIdentify_namespace {id : CmdId} {csi : BitVec 8} {nsid : BitVec 32} {x : Ns} {s : State} (h : s.takes id [] 0 = true)
    (hlo : 1 ≤ nsid.toNat) (hhi : nsid.toNat < 1016) (hup : (s.took id 0 []).get R.RMC_STAT_IO_READY = 1)
    (hns : (s.took id 0 []).ns nsid.toNat = some x) (hatt : x.att.contains id.cntlid = true) :
    nvmeIdentify id 0 csi nsid s = (s.took id 0 []).complete id stOk 0 (.fields x.ident) := by
  have hrange : ¬(nsid.toNat = 0 ∨ 1024 < nsid.toNat) := by omega
  have hkept : ¬1016 ≤ nsid.toNat := by omega
  simp only [nvmeIdentify, State.admin_of_takes h, hrange, hkept, State.on, hup, hns, hatt]
  simp

/-! ## Log pages (R286) -/

theorem getLogPage_smart {id : CmdId} {nsid : BitVec 32} {s : State} (h : s.takes id [] 0 = true) :
    getLogPage id 2 nsid s = (s.took id 0 []).complete id stOk 0 (.fields (s.took id 0 []).smart) := by
  rw [getLogPage, State.admin_of_takes h]
  rfl

theorem getLogPage_records {id : CmdId} {nsid : BitVec 32} {s : State} (h : s.takes id [] 0 = true) :
    getLogPage id 7 nsid s = (s.took id 0 []).complete id stOk 0
      (.recs ((s.took id 0 []).records.drop ((s.took id 0 []).records.length - 512))) := by
  rw [getLogPage, State.admin_of_takes h]
  rfl

/-- Reading the changed namespaces clears the list and its notice. -/
theorem getLogPage_changed {id : CmdId} {nsid : BitVec 32} {x : Ctrl} {s : State} (h : s.takes id [] 0 = true)
    (hx : (s.took id 0 []).ctrl id.cntlid = some x) :
    getLogPage id 4 nsid s = ((s.took id 0 []).setCtrl id.cntlid (some { x with
      changed := [], notices := x.notices.filter fun n => decide (n ≠ aenNs) })).complete id stOk 0 (.fields x.changed) := by
  simp only [getLogPage, State.admin_of_takes h, hx]
  rfl

/-! ## Features (R253, R281, R286, R304, R386) -/

theorem getFeatures_queues {id : CmdId} {nsid dw11 : BitVec 32} {x : Ctrl} {s : State} (h : s.takes id [] 0 = true)
    (hx : (s.took id 0 []).ctrl id.cntlid = some x) :
    getFeatures id 7 nsid dw11 s = (s.took id 0 []).complete id stOk ((x.pairs - 1) * 65537) .none := by
  simp only [getFeatures, State.admin_of_takes h, hx]
  rfl

theorem getFeatures_powerState {id : CmdId} {nsid dw11 : BitVec 32} {x : Ctrl} {s : State} (h : s.takes id [] 0 = true)
    (hx : (s.took id 0 []).ctrl id.cntlid = some x) :
    getFeatures id 2 nsid dw11 s = (s.took id 0 []).complete id stOk ((s.took id 0 []).get R.CVN_STAT_PS) .none := by
  simp only [getFeatures, State.admin_of_takes h, hx]
  rfl

theorem powerManagement_of_le {id : CmdId} {ps : BitVec 5} {s : State} (h : s.takes id [] 0 = true) (hps : ps.toNat ≤ 5) :
    powerManagement id ps s = ((s.took id 0 []).setBudget 0xFFFFFFFF (psWake ps.toNat)).1.answer id stOk := by
  simp only [powerManagement, State.admin_of_takes h, Nat.not_lt.mpr hps, if_false]

theorem temperatureThreshold_of_le {id : CmdId} {tmpsel : BitVec 4} {under : Bool} {kelvin : BitVec 16} {x : Ctrl} {s : State}
    (h : s.takes id [] 0 = true) (hsel : tmpsel.toNat ≤ 5) (hx : (s.took id 0 []).ctrl id.cntlid = some x) :
    temperatureThreshold id tmpsel under kelvin s = ((s.took id 0 []).setCtrl id.cntlid (some { x with
      temps := (tmpsel.toNat + 16 * b2n under, kelvin.toNat) ::
        x.temps.filter fun e => decide (e.1 ≠ tmpsel.toNat + 16 * b2n under) })).answer id stOk := by
  simp only [temperatureThreshold, State.admin_of_takes h, Nat.not_lt.mpr hsel, if_false, State.withCtrl_of_some hx]

theorem numberOfQueues_of_unset {id : CmdId} {nsq ncq : BitVec 16} {x : Ctrl} {s : State} (h : s.takes id [] 0 = true)
    (hx : (s.took id 0 []).ctrl id.cntlid = some x) (hset : x.noqSet = false) :
    let g := Nat.min (Nat.min nsq.toNat ncq.toNat + 1) (Nat.min 128 (x.pairs + (8192 - (s.took id 0 []).pairsUsed)))
    numberOfQueues id nsq ncq s =
      ((s.took id 0 []).setCtrl id.cntlid (some { x with pairs := g, noqSet := true })).complete id stOk ((g - 1) * 65537) .none := by
  simp only [numberOfQueues, State.admin_of_takes h, hx, hset, Bool.false_eq_true, if_false]

theorem asyncConfig_of_ctrl {id : CmdId} {v : BitVec 32} {x : Ctrl} {s : State} (h : s.takes id [] 0 = true)
    (hx : (s.took id 0 []).ctrl id.cntlid = some x) :
    asyncConfig id v s = ((s.took id 0 []).setCtrl id.cntlid (some { x with aen := v.toNat })).answer id stOk := by
  simp only [asyncConfig, State.admin_of_takes h, State.withCtrl_of_some hx]

theorem keepAliveTimer_of_ok {id : CmdId} {kato : BitVec 32} {x : Ctrl} {s : State} (h : s.takes id [] 0 = true)
    (hkato : katoOk kato.toNat = true) (hx : (s.took id 0 []).ctrl id.cntlid = some x) :
    keepAliveTimer id kato s =
      ((s.took id 0 []).setCtrl id.cntlid (some { x with kato := katoSec kato.toNat })).answer id stOk := by
  simp only [keepAliveTimer, State.admin_of_takes h, hkato, if_true, State.withCtrl_of_some hx]

theorem hostIdentifier_of_extended {id : CmdId} {v : BitVec 128} {x : Ctrl} {s : State} (h : s.takes id [] 0 = true)
    (hx : (s.took id 0 []).ctrl id.cntlid = some x) :
    hostIdentifier id true v s = ((s.took id 0 []).setCtrl id.cntlid (some { x with hostId := v.toNat })).answer id stOk := by
  simp only [hostIdentifier, State.admin_of_takes h, if_true, State.withCtrl_of_some hx]

/-- Settles O37: an admin command that intake takes does, from the state it has just been taken in, what its own lemma says. -/
theorem adminCommandsComplete : Obligations.AdminCommandsComplete := by
  unfold Obligations.AdminCommandsComplete
  refine ⟨?_, ?_, ?_, ?_, ?_, ?_, ?_, ?_, ?_, ?_, ?_, ?_, ?_, ?_, ?_, ?_, ?_⟩
  case refine_1 => rintro id csi nsid _ s h rfl; exact ⟨_, rfl, nvmeIdentify_controller h⟩
  case refine_2 => rintro id csi nsid _ s h rfl; exact ⟨_, rfl, nvmeIdentify_active h⟩
  case refine_3 => rintro id csi nsid x _ s h rfl ⟨hlo, hhi⟩ hup hns hatt; exact ⟨_, rfl, nvmeIdentify_namespace h hlo hhi hup hns hatt⟩
  case refine_4 => rintro id nsid _ s h rfl; exact ⟨_, rfl, getLogPage_smart h⟩
  case refine_5 => rintro id nsid _ s h rfl; exact ⟨_, rfl, getLogPage_records h⟩
  case refine_6 => rintro id nsid x _ s h rfl hx; exact ⟨_, rfl, getLogPage_changed h hx⟩
  case refine_7 => rintro id nsid dw11 x _ s h rfl hx; exact ⟨_, rfl, getFeatures_queues h hx⟩
  case refine_8 => rintro id nsid dw11 x _ s h rfl hx; exact ⟨_, rfl, getFeatures_powerState h hx⟩
  case refine_9 => rintro id _ s h rfl; exact ⟨_, rfl, State.admin_of_takes h⟩
  case refine_10 => rintro id ps _ s h rfl hps; exact ⟨_, rfl, powerManagement_of_le h hps⟩
  case refine_11 => rintro id tmpsel under kelvin x _ s h rfl hsel hx; exact ⟨_, rfl, temperatureThreshold_of_le h hsel hx⟩
  case refine_12 => rintro id wce _ s h rfl; exact ⟨_, rfl, State.admin_of_takes h⟩
  case refine_13 => rintro id nsq ncq x _ _ s h rfl hx hset rfl; exact ⟨_, rfl, numberOfQueues_of_unset h hx hset⟩
  case refine_14 => rintro id v x _ s h rfl hx; exact ⟨_, rfl, asyncConfig_of_ctrl h hx⟩
  case refine_15 => rintro id kato x _ s h rfl hkato hx; exact ⟨_, rfl, keepAliveTimer_of_ok h hkato hx⟩
  case refine_16 => rintro id v x _ s h rfl hx; exact ⟨_, rfl, hostIdentifier_of_extended h hx⟩
  case refine_17 => rintro id nsid us _ s h rfl; exact ⟨_, rfl, State.admin_of_takes h⟩

end Sys2Proof.Machine

/-!
PROOFS. Namespaces, firmware, self-test, format and sanitize (R273, R274, R285, R288, R289, R291, R328).
-/

namespace Sys2Proof.Machine

set_option Elab.async false

/-! ## Namespaces -/

theorem namespaceCreate_of_made {id : CmdId} {csi : BitVec 8} {nsze : BitVec 64} {n : Nat} {s : State} (h : s.takes id [] 0 = true)
    (hup : (s.took id 0 []).get R.RMC_STAT_IO_READY = 1) (hcsi : csi.toNat ≤ 2) (hsize : csi.toNat ≠ 1 → nsze.toNat ≠ 0)
    (hzone : csi.toNat = 2 → nsze.toNat % zoneSize = 0) (hext : csi.toNat = 0 → nsze.toNat % 256 = 0)
    (hfree : (s.took id 0 []).freeNsid = some n) (hmade : ((s.took id 0 []).makeNs csi.toNat nsze.toNat false n).2 = stOk) :
    namespaceCreate id csi nsze nsze 0 0 s =
      ((s.took id 0 []).makeNs csi.toNat nsze.toNat false n).1.complete id stOk n .none := by
  have hz : ¬(csi.toNat = 2 ∧ (nsze.toNat % zoneSize ≠ 0 ∨ nsze.toNat = 0)) := fun ⟨h2, hbad⟩ =>
    hbad.elim (· (hzone h2)) (hsize (by omega))
  have he : ¬(csi.toNat = 0 ∧ (nsze.toNat % 256 ≠ 0 ∨ nsze.toNat = 0)) := fun ⟨h0, hbad⟩ =>
    hbad.elim (· (hext h0)) (hsize (by omega))
  simp only [namespaceCreate, State.admin_of_takes h, State.on, hup, Nat.not_lt.mpr hcsi, hz, he, hfree, hmade]
  simp

theorem namespaceDelete_of_named {id : CmdId} {nsid : BitVec 32} {l : List Nat} {v s : State} (h : s.takes id [] 0 = true)
    (hup : (s.took id 0 []).get R.RMC_STAT_IO_READY = 1) (hone : nsid.toNat ≠ 0xFFFFFFFF)
    (hl : l = (s.took id 0 []).nss.filterMap (fun e => match e.2 with
      | some n => if n.del.isNone ∧ e.1 = nsid.toNat then some e.1 else none
      | none => none)) (hne : l ≠ [])
    (hv : v = (s.took id 0 []).forAll l (fun k v => match v.ns k with
      | some x => v.setNs k (some { x with del := some s.cmdNo })
      | none => v)) :
    namespaceDelete id nsid s = (v.updCmd s.cmdNo fun d =>
      { d with parts := 1, fin := .delete l ((s.took id 0 []).cmds.filter fun d => l.contains d.nsid).length (v.get V.msNow) }).drainDeletes := by
  rw [namespaceDelete, State.admin_of_takes h]
  dsimp only
  generalize hlist : List.filterMap _ (s.took id 0 []).nss = l'
  obtain rfl : l = l' := by
    rw [hl, ← hlist]
    refine List.filterMap_congr fun e _ => ?_
    cases e.2 <;> simp [hone]
  subst hv
  simp only [State.on, hup, hne, hone, false_and, if_false, decide_false]
  rfl

/-- The controllers attached are those named, and no fragment namespace is among what they get (R288, R339). -/
theorem namespaceAttachment_attach {id : CmdId} {nsid : BitVec 32} {ctrls : List (BitVec 16)} {n : Ns} {s : State}
    (h : s.takes id [] 0 = true) (hup : (s.took id 0 []).get R.RMC_STAT_IO_READY = 1)
    (hns : (s.took id 0 []).ns nsid.toNat = some n) (hdel : n.del = none) (hfrag : n.frag = false)
    (hctrls : (ctrls.map (·.toNat)).any (fun c => ((s.took id 0 []).ctrl c).isNone) = false)
    (hatt : (ctrls.map (·.toNat)).any n.att.contains = false) :
    namespaceAttachment id nsid true ctrls s =
      ((((s.took id 0 []).setNs nsid.toNat (some { n with att := n.att ++ ctrls.map (·.toNat) })).nsChanged (ctrls.map (·.toNat))
        nsid.toNat).budgetChanged).answer id stOk := by
  simp only [namespaceAttachment, State.admin_of_takes h, State.on, hup, hns, hdel, hfrag, hctrls, hatt]
  rfl

theorem namespaceAttachment_detach {id : CmdId} {nsid : BitVec 32} {ctrls : List (BitVec 16)} {n : Ns} {s : State}
    (h : s.takes id [] 0 = true) (hup : (s.took id 0 []).get R.RMC_STAT_IO_READY = 1)
    (hns : (s.took id 0 []).ns nsid.toNat = some n) (hdel : n.del = none)
    (hctrls : (ctrls.map (·.toNat)).any (fun c => ((s.took id 0 []).ctrl c).isNone) = false)
    (hatt : (ctrls.map (·.toNat)).any (fun c => !n.att.contains c) = false) :
    namespaceAttachment id nsid false ctrls s =
      ((((s.took id 0 []).setNs nsid.toNat (some { n with att := n.att.filter fun c => !(ctrls.map (·.toNat)).contains c })).nsChanged
        (ctrls.map (·.toNat)) nsid.toNat).budgetChanged).answer id stOk := by
  simp only [namespaceAttachment, State.admin_of_takes h, State.on, hup, hns, hdel, hctrls, hatt]
  rfl

/-! ## Firmware and self-test -/

theorem firmwareCommit_of_slot {id : CmdId} {action slot : BitVec 3} {ok : Bool} {s : State} (h : s.takes id [] 0 = true)
    (hact : action.toNat ≤ 2) (hslot : slot.toNat = 0 ∨ slot.toNat = (s.took id 0 []).inactive + 1) :
    firmwareCommit id action slot ok s = ((s.took id 0 []).fwCommit 0 (decide (action.toNat ≠ 0)) ok).1.answer id
      (if ((s.took id 0 []).fwCommit 0 (decide (action.toNat ≠ 0)) ok).2 = 0x000A then stFwImage
        else fwStat ((s.took id 0 []).fwCommit 0 (decide (action.toNat ≠ 0)) ok).2) := by
  have hs : ¬(slot.toNat ≠ 0 ∧ slot.toNat ≠ (s.took id 0 []).inactive + 1) := fun hbad => hslot.elim hbad.1 hbad.2
  simp only [firmwareCommit, State.admin_of_takes h, Nat.not_lt.mpr hact, hs, if_false]

theorem deviceSelfTest_of_idle {id : CmdId} {ext : Bool} {nsid : BitVec 32} {s : State} (h : s.takes id [] 0 = true)
    (htest : (s.took id 0 []).test = none)
    (hns : nsid.toNat = 0 ∨ nsid.toNat = 0xFFFFFFFF ∨ ((s.took id 0 []).ns nsid.toNat).isSome = true) :
    deviceSelfTest id ext nsid s = State.answer { s.took id 0 [] with
      test := some ⟨ext, if nsid.toNat = 0xFFFFFFFF then 0 else nsid.toNat, 1, 0, 0, 0, 0, id⟩ } id stOk := by
  have hn : ¬(nsid.toNat ≠ 0 ∧ nsid.toNat ≠ 0xFFFFFFFF ∧ ((s.took id 0 []).ns nsid.toNat).isNone = true) := by
    rintro ⟨h0, h1, h2⟩
    rcases hns with h' | h' | h'
    · exact h0 h'
    · exact h1 h'
    · simp [Option.isNone_iff_eq_none.mp h2] at h'
  simp only [deviceSelfTest, State.admin_of_takes h, htest, hn, Option.isSome_none, Bool.false_eq_true, if_false]

/-- Segment 2 cleans Pocket and takes the servo counters' marks. -/
theorem selfTestSegment_clean {nsid : BitVec 32} {lba : BitVec 64} {x : SelfTest} {v s : State} (htest : s.test = some x)
    (hseg : x.seg = 2) (hv : v = s.when (s.on R.PKT_CTL_EN) fun u => u.cleanAll) :
    selfTestSegment true nsid lba s = { v with test := some { x with seg := 3, marks := v.servoMarks } } := by
  subst hv
  simp [selfTestSegment, htest, hseg]

theorem selfTestSegment_servo {nsid : BitVec 32} {lba : BitVec 64} {x : SelfTest} {s : State} (htest : s.test = some x)
    (hseg : x.seg = 3) (hmarks : x.marks = s.servoMarks) :
    selfTestSegment true nsid lba s = { s with test := some { x with seg := 4 } } := by
  simp [selfTestSegment, htest, hseg, hmarks]

/-! ## Format and Sanitize -/

theorem not_append_of_whole (l : List Nat) (n lba k : Nat) : l.map Scope.whole ≠ [.append n lba k] := fun h => by
  obtain ⟨x, -, hx⟩ := List.mem_map.mp (h ▸ List.mem_singleton_self _)
  cases hx

/-- A command on every namespace it names. -/
theorem State.taking_whole {s : State} {id : CmdId} {l : List Nat} {f : Cmd → State → State} (h : s.takes id (l.map Scope.whole) 0 = true) :
    s.taking ⟨id, 0, l.map .whole, 0⟩ f = f (s.takenCmd id 0 (l.map .whole)) (s.took id 0 (l.map .whole)) :=
  State.taking_of_takes (not_append_of_whole l) h

theorem formatNvm_of_emptied {id : CmdId} {nsid : BitVec 32} {d : Cmd} {u s : State}
    (h : s.takes id ((s.nsNamed nsid.toNat).map Scope.whole) 0 = true) (hu : u = s.took id 0 ((s.nsNamed nsid.toNat).map Scope.whole))
    (hnamed : nsid.toNat = 0xFFFFFFFF ∨ (nsid.toNat ≤ 1015 ∧ s.nsNamed nsid.toNat ≠ [])) (hup : u.get R.RMC_STAT_IO_READY = 1)
    (hsan : u.get V.sanState ≠ 1)
    (hdel : nsid.toNat ≠ 0xFFFFFFFF → (s.nsNamed nsid.toNat).any (fun n => ((u.ns n).bind (·.del)).isSome) = false)
    (htest : u.test = none)
    (hd : (u.forAll (s.nsNamed nsid.toNat) fun n v => ((v.logEmpty n).emptyNs n false).swapMarked n).cmdNoOf s.cmdNo = some d)
    (hparts : d.parts = 0) :
    formatNvm id nsid 0 0 0 s = (u.forAll (s.nsNamed nsid.toNat) fun n v => ((v.logEmpty n).emptyNs n false).swapMarked n).answer id stOk := by
  subst hu
  have hrange : ¬(nsid.toNat ≠ 0xFFFFFFFF ∧ 1015 < nsid.toNat) := by omega
  have hns : ¬(nsid.toNat ≠ 0xFFFFFFFF ∧ (s.nsNamed nsid.toNat = [] ∨ ((s.nsNamed nsid.toNat).any fun n =>
      (((s.took id 0 ((s.nsNamed nsid.toNat).map Scope.whole)).ns n).bind (·.del)).isSome) = true)) := by
    rintro ⟨hne, hbad⟩
    rcases hbad with hnil | hany
    · exact (hnamed.resolve_left hne).2 hnil
    · exact absurd hany (by simp [hdel hne])
  have hno : (s.takenCmd id 0 ((s.nsNamed nsid.toNat).map Scope.whole)).no = s.cmdNo := rfl
  simp only [formatNvm, State.taking_whole h, hrange, hns, State.on, hup, hsan, htest, hno]
  simp [hd, hparts]

theorem sanitizeCryptoErase_of_ready {id : CmdId} {u s : State} (h : s.takes id ((s.nsNamed 0xFFFFFFFF).map Scope.whole) 0 = true)
    (hu : u = s.took id 0 ((s.nsNamed 0xFFFFFFFF).map Scope.whole)) (hup : u.get R.RMC_STAT_IO_READY = 1)
    (hsan : u.get V.sanState ≠ 1) (htest : u.test = none) :
    sanitizeCryptoErase id s = ((u.forAll (s.nsNamed 0xFFFFFFFF) fun n v =>
      ((v.emptyNs n false).swapMarked n).newKey n 0x84).put V.sanState 2).answer id stOk := by
  subst hu
  simp only [sanitizeCryptoErase, State.taking_whole h, State.on, hup, hsan, htest]
  simp

theorem sanitizeBlockErase_of_ready {id : CmdId} {u v w s : State} (h : s.takes id ((s.nsNamed 0xFFFFFFFF).map Scope.whole) 0 = true)
    (hu : u = s.took id 0 ((s.nsNamed 0xFFFFFFFF).map Scope.whole)) (hup : u.get R.RMC_STAT_IO_READY = 1)
    (hsan : u.get V.sanState ≠ 1) (htest : u.test = none)
    (hv : v = State.forAll ((u.forAll (u.mops.filter fun o => decide (o.typ ≠ 3)) fun o v => v.abandonOp o).wipeSlm.showPkt)
      (s.nsNamed 0xFFFFFFFF) (fun n v => if (((v.emptyNs n false).ns n).map (·.enc)).getD false then (v.emptyNs n false).newKey n 0x84
        else v.emptyNs n false))
    (hw : w = v.forAll (List.range v.nact) fun a u => u.mapLog a) :
    sanitizeBlockErase id s = ((w.beginOverwrite 0 w.allUnits).1.put V.sanState
      (if (w.beginOverwrite 0 w.allUnits).2 = 0 then 2 else 1)).answer id stOk := by
  subst hu hv hw
  simp only [sanitizeBlockErase, State.taking_whole h, State.on, hup, hsan, htest]
  rfl

/-- Settles O38, command by command, from the state in which intake has taken it. -/
theorem namespaceCommandsComplete : Obligations.NamespaceCommandsComplete := by
  unfold Obligations.NamespaceCommandsComplete
  refine ⟨?_, ?_, ?_, ?_, ?_, ?_, ?_, ?_, ?_, ?_, ?_, ?_, ?_⟩
  case refine_1 =>
    rintro id csi nsze n _ s h rfl hup hcsi hsize hzone hext hfree hmade
    exact ⟨_, rfl, namespaceCreate_of_made h hup hcsi hsize hzone hext hfree hmade⟩
  case refine_2 => rintro id nsid l v _ s h rfl hup hone hl hne hv; exact ⟨_, rfl, namespaceDelete_of_named h hup hone hl hne hv⟩
  case refine_3 =>
    rintro id nsid ctrls n _ s h rfl hup hns hdel hfrag hctrls hatt
    exact ⟨_, rfl, namespaceAttachment_attach h hup hns hdel hfrag hctrls hatt⟩
  case refine_4 =>
    rintro id nsid ctrls n _ s h rfl hup hns hdel hctrls hatt
    exact ⟨_, rfl, namespaceAttachment_detach h hup hns hdel hctrls hatt⟩
  case refine_5 => rintro id ofs data ok _ s h rfl; exact ⟨_, rfl, State.admin_of_takes h⟩
  case refine_6 => rintro id action slot ok _ s h rfl hact hslot; exact ⟨_, rfl, firmwareCommit_of_slot h hact hslot⟩
  case refine_7 => rintro id ext nsid _ s h rfl htest hns; exact ⟨_, rfl, deviceSelfTest_of_idle h htest hns⟩
  case refine_8 => rintro id _ s h rfl; exact ⟨_, rfl, State.admin_of_takes h⟩
  case refine_9 => exact fun nsid lba x v s htest hseg hv => ⟨_, rfl, selfTestSegment_clean htest hseg hv⟩
  case refine_10 => exact fun nsid lba x s htest hseg hmarks => ⟨_, rfl, selfTestSegment_servo htest hseg hmarks⟩
  case refine_11 =>
    intro id nsid d u s h hu hnamed hup hsan hdel htest hd hparts
    exact ⟨_, rfl, formatNvm_of_emptied h hu hnamed hup hsan hdel htest hd hparts⟩
  case refine_12 => exact fun id u s h hu hup hsan htest => ⟨_, rfl, sanitizeCryptoErase_of_ready h hu hup hsan htest⟩
  case refine_13 => exact fun id v w u s h hu hup hsan htest hv hw => ⟨_, rfl, sanitizeBlockErase_of_ready h hu hup hsan htest hv hw⟩

end Sys2Proof.Machine

/-!
PROOFS. The read, write and zone completion statement: ZONE_FINISH sends the remaining data out as a short track before it takes the
durable points (R50, R255), and the statement's clause takes the points alone.
-/

namespace Sys2Proof.Machine

set_option Elab.async false

/-- A command on a namespace that is ready for it. -/
theorem State.onNs_of_ready {s : State} {c : Cmd} {nsid : Nat} {sets : List Nat} {f : Ns → State → State} {n : Ns}
    (h : s.readyNs c.id c.no nsid sets = some n) : s.onNs c nsid sets f = f n s := by
  obtain ⟨hns, hok⟩ := Option.filter_eq_some_iff.mp h
  simp only [Bool.and_eq_true, Bool.or_eq_true, decide_eq_true_eq, Bool.not_eq_true'] at hok
  obtain ⟨⟨⟨⟨⟨⟨⟨⟨hid, hup⟩, hdel⟩, hatt⟩, hsan1⟩, hsan3⟩, herase⟩, hkey⟩, hset⟩ := hok
  have hrange : ¬(1016 ≤ nsid ∧ nsid ≤ 1024) := by omega
  simp only [State.onNs, hrange, hup, hns, hdel, hatt, of_decide_eq_false hsan1, of_decide_eq_false hsan3, herase, hkey, hset]
  simp

/-- ZONE_FINISH of a zone in a state from which it acts: the short track's job, then the durable points. -/
theorem zoneFinish_of_takes {s u : State} {id : CmdId} {nsid : BitVec 32} {slba : BitVec 64} {ns : Ns}
    (h : s.takes id [.zone nsid.toNat slba.toNat] 0 = true) (hu : u = s.took id nsid.toNat [.zone nsid.toNat slba.toNat])
    (hns : u.readyNs id s.cmdNo nsid.toNat [2] = some ns) (halign : slba.toNat % zoneSize = 0) (hlt : slba.toNat < ns.nsze)
    (hact : u.actDown (placeAct ns.mask (slba.toNat / zoneSize)) = false)
    (hst : [zEmpty, zImp, zExp, zClosed, zFull].contains (u.zone nsid.toNat (slba.toNat / zoneSize)).st = true) :
    zoneFinish id nsid slba false s = (u.closeShort nsid.toNat (slba.toNat / zoneSize)).zoneWait
      (s.takenCmd id nsid.toNat [.zone nsid.toNat slba.toNat]) nsid.toNat [slba.toNat / zoneSize]
      (.zoneFinish nsid.toNat [slba.toNat / zoneSize]) := by
  subst hu
  have hnsid : ((s.took id nsid.toNat [.zone nsid.toNat slba.toNat]).ns nsid.toNat) = some ns := (Option.filter_eq_some_iff.mp hns).1
  simp only [zoneFinish, State.zoneSend, Bool.false_eq_true, if_false]
  rw [State.taking_of_takes (by simp) h, State.onNs_of_ready
    (c := s.takenCmd id nsid.toNat [.zone nsid.toNat slba.toNat]) hns]
  simp only [hst, Bool.not_true, Bool.false_eq_true, and_false, if_false]
  simp [State.zonesNamed, hnsid, halign, Nat.not_le.mpr hlt, hact, State.forAll]

/-- Namespace 1 is zoned and attached to controller 1; its first zone is open with four blocks written, less than a track. -/
def fourBlocks : State :=
  { State.reset.puts [(R.HBM_STAT_TRAINED 0, 1), (R.HBM_STAT_TRAINED 1, 1), (V.fwUp, 1), (R.RMC_STAT_IO_READY, 1)] with
    ctrls := [(1, some ⟨1, [], 1, true, 0, 0, [], [], [], [], [], false, [], [], false⟩)]
    nss := [(1, some ⟨2, 262144, 1, false, false, false, false, false, [], 0, true, [1], noBudget, false, none, []⟩)]
    zones := [(zoneKey 1 0, some ⟨zImp, 4, 0, false, false, false, none, 0, 0xFFFFFFFF, 0, 0, [0]⟩)] }

/-- The first command of controller 1's admin queue. -/
def finishId : CmdId := ⟨1, 0, 1⟩

/-- The zone that a ZONE_FINISH at block 0 of namespace 1 names. -/
def firstZone : List Scope := [.zone (1 : BitVec 32).toNat (0 : BitVec 64).toNat]

/-- The state in which that command begins. -/
def finishing : State := fourBlocks.took finishId (1 : BitVec 32).toNat firstZone

theorem fourBlocks_takes : fourBlocks.takes finishId firstZone 0 = true := by decide +kernel

theorem finishing_ready : finishing.readyNs finishId fourBlocks.cmdNo (1 : BitVec 32).toNat [2] =
    some ⟨2, 262144, 1, false, false, false, false, false, [], 0, true, [1], noBudget, false, none, []⟩ := by decide +kernel

theorem finishing_up : finishing.actDown (placeAct 1 ((0 : BitVec 64).toNat / zoneSize)) = false := by decide +kernel

theorem finishing_open : [zEmpty, zImp, zExp, zClosed, zFull].contains
    (finishing.zone (1 : BitVec 32).toNat ((0 : BitVec 64).toNat / zoneSize)).st = true := by decide +kernel

/-- The four blocks go out as a job of their own. -/
theorem finishing_jobNo :
    ((finishing.closeShort (1 : BitVec 32).toNat ((0 : BitVec 64).toNat / zoneSize)).zoneWait
      (fourBlocks.takenCmd finishId (1 : BitVec 32).toNat firstZone) (1 : BitVec 32).toNat [(0 : BitVec 64).toNat / zoneSize]
      (.zoneFinish (1 : BitVec 32).toNat [(0 : BitVec 64).toNat / zoneSize])).jobNo ≠
    (finishing.zoneWait (fourBlocks.takenCmd finishId (1 : BitVec 32).toNat firstZone) (1 : BitVec 32).toNat
      [(0 : BitVec 64).toNat / zoneSize] (.zoneFinish (1 : BitVec 32).toNat [(0 : BitVec 64).toNat / zoneSize])).jobNo := by
  decide +kernel

/-- Refutes O39: ZONE_FINISH of a zone with four blocks written queues their short track, which the clause leaves out. -/
theorem not_readWriteAndZoneCommandsComplete : ¬ Obligations.ReadWriteAndZoneCommandsComplete := by
  unfold Obligations.ReadWriteAndZoneCommandsComplete
  rintro ⟨-, -, -, -, -, -, -, -, -, hfinish, -⟩
  obtain ⟨t, ht, heq⟩ := hfinish finishId 1 0 _ finishing fourBlocks fourBlocks_takes rfl finishing_ready (by decide) (by decide)
    finishing_up finishing_open
  have hrun := zoneFinish_of_takes fourBlocks_takes rfl finishing_ready (by decide) (by decide) finishing_up finishing_open
  exact finishing_jobNo (congrArg State.jobNo (hrun.symm.trans ((Host.Outcome.next.inj ht).trans heq)))

end Sys2Proof.Machine

/-!
PROOFS. The Fabric ports: links, addresses, failover (R309 to R322).
-/

namespace Sys2Proof.Machine

set_option Elab.async false

/-! ## A bit of a two-bit field -/

theorem testBit_sub_two_pow {x p : Nat} (h : x.testBit p = true) : (x - 2 ^ p).testBit p = false := by
  have hle : 2 ^ p ≤ x := Nat.ge_two_pow_of_testBit h
  have hadd := Nat.testBit_two_pow_add_eq (x - 2 ^ p) p
  rw [Nat.add_sub_cancel' hle, h] at hadd
  simpa using hadd.symm

theorem testBit_add_two_pow {x p : Nat} (h : x.testBit p = false) : (x + 2 ^ p).testBit p = true := by
  rw [Nat.add_comm, Nat.testBit_two_pow_add_eq, h]
  rfl

theorem State.bitOf_portBit_same (s : State) {k : Fld} {p : Nat} (v : Bool) (hp : p < k.w) :
    bitOf ((s.portBit k p v).get k) p = v := by
  rw [State.portBit, State.get_put_same, bitOf, Nat.testBit_mod_two_pow, decide_eq_true hp, Bool.true_and]
  by_cases hv : bitOf (s.get k) p = v
  · rw [if_pos hv]
    exact hv
  · rw [if_neg hv]
    cases v with
    | false => exact testBit_sub_two_pow (by simpa [bitOf] using hv)
    | true => exact testBit_add_two_pow (by simpa [bitOf] using hv)

/-- Taking away a bit leaves the other bit of a two-bit field. -/
theorem State.bitOf_portBit_clear_other (s : State) {k : Fld} (p : Fin 2) (hw : k.w = 2) :
    bitOf ((s.portBit k (1 - p.val) false).get k) p = bitOf (s.get k) p := by
  rw [State.portBit, State.get_put_same, hw]
  simp only [bitOf, Nat.testBit_eq_decide_div_mod_eq, Bool.false_eq_true, if_false]
  split
  case isTrue =>
    fin_cases p <;> simp
    omega
  case isFalse h => fin_cases p <;> simp at h ⊢ <;> omega

@[simp] theorem State.portBit_addrs (s : State) (k : Fld) (p : Nat) (v : Bool) : (s.portBit k p v).addrs = s.addrs := rfl

@[simp] theorem State.portBit_inbox (s : State) (k : Fld) (p : Nat) (v : Bool) : (s.portBit k p v).inbox = s.inbox := rfl

/-- A notice of the discovery controllers touches no register of the ports. -/
@[simp] theorem State.discChanged_get (s : State) (k : Fld) (hk : (noticeOut.all fun n => !n.hasb k) = true) :
    s.discChanged.get k = s.get k := (State.discChanged_out (.refl s) (Key.sub_refl _)).read k hk

@[simp] theorem State.discChanged_addrs (s : State) : s.discChanged.addrs = s.addrs :=
  (State.discChanged_out (.refl s) (Key.sub_refl _)).part .addrs (by simp [noticeOut])

@[simp] theorem State.discChanged_partner (s : State) : s.discChanged.partner = s.partner :=
  (State.discChanged_out (.refl s) (Key.sub_refl _)).part .partner (by simp [noticeOut])

/-! ## Links -/

theorem fabEnable_of_pass {refB : Bool} {s : State} (hoff : s.get R.FAB_CTL_EN = 0) (hnet : s.netBad = false)
    (href : s.pmode ≠ 1 ∨ refB = true) (htr : s.nflag 0 = true ∨ s.nflag 1 = true) (hip : s.ip4 0 ≠ 0) (hip4 : s.ip4 0 ≠ s.ip4 1)
    (hip6 : s.ip6 0 = 0 ∨ s.ip6 0 ≠ s.ip6 1) (hcmd : s.get R.CMD_CTL_EN = 1) :
    s.fabEnable refB = ((s.put R.FAB_CTL_EN 1).puts [(R.FAB_STAT_MODE, (s.put R.FAB_CTL_EN 1).pmode), (R.FAB_STAT_AN_FAIL, 0),
      (R.FAB_STAT_LISTEN, 0)], 0) := by
  have hsame6 : ¬(s.ip6 0 = s.ip6 1 ∧ s.ip6 0 ≠ 0) := fun ⟨he, h0⟩ => hip6.elim h0 (· he)
  rw [State.fabEnable]
  refine State.enable_of_pass hoff ?_
  simp only [List.forall_mem_cons, List.not_mem_nil, false_implies, implies_true, and_true]
  refine ⟨hnet, ?_, ?_, ?_, ?_, ?_⟩
  · rcases href with h | h <;> simp [h]
  · rcases htr with h | h <;> simp [h]
  · simp [hip]
  · simp [hip4, hsame6]
  · simp [State.on, hcmd]

/-- The link of a port whose link goes down is down. -/
theorem State.linkUp_linkDown (s : State) (p : Fin 2) (cause : Nat) : (s.linkDown p cause).linkUp p = false := by
  unfold State.linkDown
  cases hup : s.linkUp p with
  | false => exact hup
  | true =>
    have h : ((((s.portBit R.FAB_STAT_LINK p false).count R.FAB_CNT_LINKDN).evt R.FAB_EVT_LINK_DOWN).post 0x01 0x10 warning noInst
        [p, cause, s.opsec - s.get (V.fabUp p)]).get R.FAB_STAT_LINK = (s.portBit R.FAB_STAT_LINK p false).get R.FAB_STAT_LINK := by
      simp [State.get_count_other _ R.FAB_CNT_LINKDN R.FAB_STAT_LINK (.inr (by decide))]
    simp only [Bool.not_true, Bool.false_eq_true, if_false, State.linkUp, h]
    exact State.bitOf_portBit_same s false p.isLt

theorem State.linkDown_post {s : State} {p : Fin 2} (cause : Nat) (h : s.linkUp p = true) :
    (s.linkDown p cause).inbox.getLast? = some ⟨1, 0x10, warning, noInst, [p, cause, s.opsec - s.get (V.fabUp p)]⟩ := by
  simp [State.linkDown, h, State.post]

theorem State.linkDown_get_portDis (s : State) (p cause : Nat) :
    (s.linkDown p cause).get R.FAB_CTL_PORT_DIS = s.get R.FAB_CTL_PORT_DIS :=
  (State.linkDown_out p cause (.refl s) (Key.sub_refl _)).read _ (by decide)

/-- PORT_DIS holds what was written, whatever links went down for it (R321). -/
theorem portDis_get (v : BitVec 2) (s : State) : (portDis v s).get R.FAB_CTL_PORT_DIS = v.toNat := by
  have h : Out _ (s.put R.FAB_CTL_PORT_DIS v.toNat) (portDis v s) :=
    Out.forAll _ (fun p u hu => State.linkDown_out p _ hu (Key.sub_refl _)) _ (.refl _)
  rw [h.read _ (by decide), State.get_put_same]
  exact Nat.mod_eq_of_lt v.isLt

/-- What a port that comes up has measured of its lanes. -/
def State.lanesMeasured (s : State) (mode : Nat) (l : List (Nat × Nat × Nat)) : State :=
  s.forAll l fun l u =>
    let reach := u.reachMm l.2.2
    let v := u.puts [(R.FAB_LANE_LOSS l.1, l.2.1), (R.FAB_LANE_REACH l.1, reach), (R.FAB_LANE_VALID l.1, 1)]
    if (if mode = 3 then 350 else 300) < l.2.1 then (v.evt R.FAB_EVT_LOSS_HIGH).post 0x01 0x13 warning noInst [l.1, l.2.1, reach] else v

theorem State.lanesMeasured_out (s : State) (mode : Nat) (l : List (Nat × Nat × Nat)) :
    Out [.a 1 32 4, .w 1 12, .p .edges, .p .inbox] s (s.lanesMeasured mode l) := by
  refine Out.forAll _ (fun l u hu => ?_) _ (.refl s)
  have hl : Out [.a 1 32 4, .w 1 12, .p .edges, .p .inbox] s
      (u.puts [(R.FAB_LANE_LOSS l.1, l.2.1), (R.FAB_LANE_REACH l.1, u.reachMm l.2.2), (R.FAB_LANE_VALID l.1, 1)]) :=
    Out.put _ _ (Out.put _ _ (Out.put _ _ hu (Key.hasA rfl) rfl) (Key.hasA rfl) rfl) (Key.hasA rfl) rfl
  exact Out.ite (Out.post _ _ _ _ _ (Out.evt _ hl Key.hasW rfl rfl) rfl) hl

/-- The addresses of a port that comes up are probed, and the discovery controllers hear of it. -/
def State.portProbed (s : State) (p : Nat) (dup : List Nat) : State :=
  let stat := [(s.ip4 p, false), (s.ip6 p, true)].filter fun x => decide (x.1 ≠ 0)
  let lease := (s.addrs.filter fun x => x.dyn && decide (x.port = p)).map fun x => (x.addr, x.v6)
  let t := s.forAll stat fun x u => u.probe p x.1 x.2 false (dup.contains x.1)
  (t.forAll lease fun x u => u.probe p x.1 x.2 true (dup.contains x.1)).discChanged

theorem State.portProbed_out (s : State) (p : Nat) (dup : List Nat) :
    Out (.w 1 12 :: .p .addrs :: noticeOut) s (s.portProbed p dup) :=
  State.discChanged_out (Out.forAll _ (fun x _ hu => State.probe_out p x.1 x.2 true _ hu rfl) _
    (Out.forAll _ (fun x _ hu => State.probe_out p x.1 x.2 false _ hu rfl) _ (.refl s))) rfl

/-- A port whose link has trained: its link bit, the FEC negotiated and what its lanes have measured. -/
def State.portTrained (s : State) (p : Fin 2) (fec : Fin 4) (lanes : List (Nat × Nat)) : State :=
  ((((s.portBit R.FAB_STAT_LINK p true).portBit R.FAB_STAT_AN_FAIL p false).puts
    [(R.FAB_STAT_FEC, if p.val = 0 then s.get R.FAB_STAT_FEC / 4 * 4 + fec else s.get R.FAB_STAT_FEC % 4 + 4 * fec),
      (V.fabUp p, s.opsec)]).evt R.FAB_EVT_LINK_UP).lanesMeasured (s.get R.FAB_STAT_MODE)
    ((portLanes (s.get R.FAB_STAT_MODE) p).zip lanes)

/-- What LINK_UP does to a port whose link is down and may come up. -/
theorem linkUpCmd_of_down {p : Fin 2} {fec : Fin 4} {ab : BitVec 32} {lanes : List (Nat × Nat)} {dup : List Nat} {s : State}
    (hpwr : bitOf (s.get R.CVN_STAT_PWR_EN) 3 = true) (hen : s.get R.FAB_CTL_EN = 1) (hport : s.hasPort p = true)
    (hdis : bitOf (s.get R.FAB_CTL_PORT_DIS) p = false) (hdown : s.linkUp p = false) :
    linkUpCmd p fec ab lanes dup s = State.portProbed { s.portTrained p fec lanes with
      partner := Tab.set [] (s.portTrained p fec lanes).partner p
        ([s.get R.FAB_STAT_MODE, fec.val, ab.toNat] ++ (Tab.at [] (s.portTrained p fec lanes).partner p).drop 3) } p dup := by
  simp only [linkUpCmd, hpwr, State.on, hen, hport, hdis, hdown]
  simp only [Bool.not_true, Bool.false_eq_true, decide_true, ne_eq, one_ne_zero, not_false_eq_true, or_self, if_false]
  rfl

theorem State.linkUp_portTrained (s : State) (p : Fin 2) (fec : Fin 4) (lanes : List (Nat × Nat)) :
    (s.portTrained p fec lanes).linkUp p = true := by
  have hlanes := (State.lanesMeasured_out ((((s.portBit R.FAB_STAT_LINK p true).portBit R.FAB_STAT_AN_FAIL p false).puts
    [(R.FAB_STAT_FEC, if p.val = 0 then s.get R.FAB_STAT_FEC / 4 * 4 + fec else s.get R.FAB_STAT_FEC % 4 + 4 * fec),
      (V.fabUp p, s.opsec)]).evt R.FAB_EVT_LINK_UP) (s.get R.FAB_STAT_MODE)
    ((portLanes (s.get R.FAB_STAT_MODE) p).zip lanes)).read R.FAB_STAT_LINK (by decide)
  rw [State.linkUp, State.portTrained, hlanes]
  simpa [State.get_put, State.portBit] using State.bitOf_portBit_same s (k := R.FAB_STAT_LINK) true p.isLt

/-- The link of the port is up, and the partner's abilities stand before what LLDP told of it (R310, R319). -/
theorem linkUpCmd_up {p : Fin 2} {fec : Fin 4} {ab : BitVec 32} {lanes : List (Nat × Nat)} {dup : List Nat} {s : State}
    (hpwr : bitOf (s.get R.CVN_STAT_PWR_EN) 3 = true) (hen : s.get R.FAB_CTL_EN = 1) (hport : s.hasPort p = true)
    (hdis : bitOf (s.get R.FAB_CTL_PORT_DIS) p = false) (hdown : s.linkUp p = false) :
    (linkUpCmd p fec ab lanes dup s).linkUp p = true ∧
      (Tab.at [] (linkUpCmd p fec ab lanes dup s).partner p).take 3 = [s.get R.FAB_STAT_MODE, fec, ab.toNat] := by
  rw [linkUpCmd_of_down hpwr hen hport hdis hdown]
  constructor
  · rw [State.linkUp, (State.portProbed_out _ p dup).read _ (by decide)]
    exact s.linkUp_portTrained p fec lanes
  · rw [(State.portProbed_out _ p dup).part .partner (by simp [noticeOut])]
    simp

/-! ## Addresses -/

theorem negotiationFailure_of_down {p : Fin 2} {ab : BitVec 32} {s : State} (hen : s.get R.FAB_CTL_EN = 1)
    (hport : s.hasPort p = true) (hdown : s.linkUp p = false) :
    negotiationFailure p ab s = (s.portBit R.FAB_STAT_AN_FAIL p true).post 0x01 0x14 error noInst [p, ab.toNat] := by
  simp [negotiationFailure, State.on, hen, hport, hdown]

theorem dhcpAcquired_addrs {p : Fin 2} {v6 : Bool} {addr : BitVec 128} {s : State} (hup : s.linkUp p = true)
    (hcfg : (if v6 then s.nflag 3 || s.nflag 4 else s.nflag 2) = true) :
    (dhcpAcquired p v6 addr false s).addrs = (s.addrs.filter fun x => decide (¬(x.port = p.val ∧ x.addr = addr.toNat ∧ x.v6 = v6))) ++
      [⟨p, addr.toNat, v6, true, true, if bitOf (s.get R.FAB_STAT_TAKEN) p then 1 - p else p⟩] := by
  simp only [dhcpAcquired, hup, hcfg, Bool.not_true, Bool.false_eq_true, or_self, if_false, State.discChanged_addrs, State.probe]
  rfl

theorem dhcpLost_addrs {p : Fin 2} {addr : BitVec 128} {s : State}
    (h : (s.addrs.any fun x => x.dyn && decide (x.port = p.val ∧ x.addr = addr.toNat)) = true) :
    (dhcpLost p addr s).addrs = s.addrs.filter fun x => !(x.dyn && decide (x.port = p.val ∧ x.addr = addr.toNat)) := by
  simp only [dhcpLost, h, if_true, State.discChanged_addrs]

/-- What a conditional step leaves as it was. -/
theorem State.proj_when {β : Type} (s : State) (c : Bool) {f : State → State} (π : State → β) (h : π (f s) = π s) : π (s.when c f) = π s := by
  cases c
  · rfl
  · exact h

/-- Where the addresses of a port stand once the other port has taken over for it (R316). -/
theorem failover_of_down {p : Fin 2} {s : State} (hen : s.get R.FAB_CTL_EN = 1) (hopt : s.nflag 5 = true)
    (hmode : s.get R.FAB_STAT_MODE ≠ 1) (hdown : s.linkUp p = false) (hup : s.linkUp (1 - p.val) = true)
    (htaken : bitOf (s.get R.FAB_STAT_TAKEN) p = false) :
    failover p [] s = ((((((((State.portBit
        { s with addrs := s.addrs.map fun (x : NetAddr) => if x.holder = p.val then { x with holder := 1 - p.val } else x }
        R.FAB_STAT_TAKEN p true).portBit R.FAB_STAT_TAKEN (1 - p.val) false).puts [(V.fabAnn p, 2)]).when
          (bitOf (s.get R.FAB_STAT_TAKEN) (1 - p.val)) fun u => u.put (V.fabBack (1 - p.val)) 1).evt R.FAB_EVT_FAILOVER).count
        R.FAB_CNT_FAILOVER).post 0x01 0x11 warning noInst
          [p, (s.addrs.filter fun x => decide (x.holder = p.val) && x.ok).length]).discChanged) := by
  simp [failover, State.on, hen, hopt, hmode, hdown, hup, htaken, State.forAll]

theorem failover_addrs {p : Fin 2} {s : State} (hen : s.get R.FAB_CTL_EN = 1) (hopt : s.nflag 5 = true)
    (hmode : s.get R.FAB_STAT_MODE ≠ 1) (hdown : s.linkUp p = false) (hup : s.linkUp (1 - p.val) = true)
    (htaken : bitOf (s.get R.FAB_STAT_TAKEN) p = false) :
    ((failover p [] s).addrs = s.addrs.map fun x => if x.holder = p.val then { x with holder := 1 - p.val } else x) ∧
      bitOf ((failover p [] s).get R.FAB_STAT_TAKEN) p = true := by
  rw [failover_of_down hen hopt hmode hdown hup htaken]
  constructor
  · rw [State.discChanged_addrs, State.post_addrs, State.count_addrs, State.evt_addrs, State.proj_when _ _ State.addrs rfl]
    rfl
  · rw [State.discChanged_get _ _ (by decide), State.get_post, State.get_count_other _ _ _ (.inr (by decide)), State.get_evt,
      if_neg (by decide), State.proj_when _ _ (State.get · R.FAB_STAT_TAKEN) (by simp [State.get_put])]
    rw [State.puts_cons, State.puts_nil, State.get_put, if_neg (by simp), State.bitOf_portBit_clear_other _ p rfl]
    exact State.bitOf_portBit_same _ true p.isLt

theorem failback_of_taken {p : Fin 2} {s : State} (hup : s.linkUp p = true) (htaken : bitOf (s.get R.FAB_STAT_TAKEN) p = true) :
    ((failback p s).addrs = s.addrs.map fun x => if x.port = p.val then { x with holder := p } else x) ∧
      bitOf ((failback p s).get R.FAB_STAT_TAKEN) p = false := by
  simp only [failback, hup, htaken, Bool.not_true, Bool.true_or, Bool.false_eq_true, or_self, if_false]
  constructor
  · simp
  · rw [State.discChanged_get _ _ (by decide), State.get_post, State.get_evt, if_neg (by decide)]
    simpa [State.get_put] using State.bitOf_portBit_same _ (k := R.FAB_STAT_TAKEN) false p.isLt

theorem lldpReceive_partner {p : Fin 2} {c i : BitVec 64} {pfc : BitVec 8} {s : State} (hup : s.linkUp p = true) :
    (Tab.at [] (lldpReceive p c i pfc s).partner p).drop 3 =
      [c.toNat / 2 ^ 32, c.toNat % 2 ^ 32, i.toNat / 2 ^ 32, i.toNat % 2 ^ 32, pfc.toNat] := by
  have hthree : ((Tab.at [] s.partner p ++ [0, 0, 0]).take 3).length = 3 := by simp
  simp only [lldpReceive, hup, Bool.not_true, Bool.false_eq_true, if_false]
  rw [State.proj_when _ _ State.partner (State.put_partner ..), Tab.at_set_same, List.drop_left' hthree]

theorem transportFailure_ctrl {c q : BitVec 16} {x : Ctrl} {s : State} (hx : s.ctrl c.toNat = some x) :
    (transportFailure c q s).ctrl c.toNat =
        some { x with lostq := x.lostq ++ [q.toNat], aers := if q.toNat = 0 then [] else x.aers } ∧
      (transportFailure c q s).held = s.held.filter fun h => !decide (h.2.1.cntlid = c.toNat ∧ h.2.1.qid = q.toNat) := by
  simp only [transportFailure, hx]
  have hctrls (u : State) : u.drainDeletes.showCmds.ctrls = u.ctrls :=
    (State.showCmds_out (State.drainDeletes_out (.refl u) rfl) rfl : Out (Key.but .ctrls) _ _).spared
  have hheld (u : State) : u.drainDeletes.showCmds.held = u.held :=
    (State.showCmds_out (State.drainDeletes_out (.refl u) rfl) rfl : Out (Key.but .held) _ _).spared
  rw [State.ctrl, hctrls, hheld]
  exact ⟨by rw [State.setCtrl, State.put_ctrls, Tab.at_set_same], rfl⟩

/-- Settles O24, command by command: what each leaves of the links and the addresses. -/
theorem fabricCommandsComplete : Obligations.FabricCommandsComplete := by
  unfold Obligations.FabricCommandsComplete
  refine ⟨?_, ?_, ?_, ?_, ?_, ?_, ?_, ?_, ?_, ?_, ?_, ?_, ?_⟩
  case refine_1 =>
    intro refB s hoff hnet href htr hip hip4 hip6 hcmd
    refine ⟨_, rfl, ?_⟩
    rw [fabEnableCmd, fabEnable_of_pass hoff hnet href htr hip hip4 hip6 hcmd]
    simp [State.get_put, State.pmode, State.net]
  case refine_2 => exact fun v s => ⟨_, rfl, portDis_get v s⟩
  case refine_3 => exact fun p c s => ⟨_, rfl, s.linkUp_linkDown p c.toNat⟩
  case refine_4 => exact fun p c s hup => ⟨_, rfl, State.linkDown_post c.toNat hup⟩
  case refine_5 => exact fun p fec ab lanes dup s hpwr hen hport hdis hdown => ⟨_, rfl, linkUpCmd_up hpwr hen hport hdis hdown⟩
  case refine_6 =>
    intro p ab s hen hport hdown
    refine ⟨_, rfl, ?_⟩
    rw [negotiationFailure_of_down hen hport hdown]
    exact ⟨State.bitOf_portBit_same s true p.isLt, rfl⟩
  case refine_7 => exact fun p v6 addr s hup hcfg => ⟨_, rfl, dhcpAcquired_addrs hup hcfg⟩
  case refine_8 => exact fun p addr s h => ⟨_, rfl, dhcpLost_addrs h⟩
  case refine_9 => exact fun p s hen hopt hmode hdown hup htaken => ⟨_, rfl, failover_addrs hen hopt hmode hdown hup htaken⟩
  case refine_10 => exact fun p s => ⟨_, rfl, State.get_put_same ..⟩
  case refine_11 => exact fun p s hup htaken => ⟨_, rfl, failback_of_taken hup htaken⟩
  case refine_12 => exact fun p c i pfc s hup => ⟨_, rfl, lldpReceive_partner hup⟩
  case refine_13 => exact fun c q x s hx => ⟨_, rfl, transportFailure_ctrl hx⟩

end Sys2Proof.Machine

/-!
PROOFS. Bits of the banks, and requests that a mailbox accepts (R359, R363 to R365).
-/

namespace Sys2Proof.Machine

set_option Elab.async false

/-! ## A bit of a field, and a bit of a bank -/

theorem State.bitOf_setBit_same (s : State) {k : Fld} {i : Nat} (v : Bool) (hi : i < k.w) :
    bitOf ((s.setBit k i v).get k) i = v := by
  rw [State.setBit]
  by_cases hv : bitOf (s.get k) i = v
  · rw [if_pos hv, hv]
  · have h := s.bitOf_portBit_same (k := k) v hi
    simpa only [State.portBit, if_neg hv] using h

theorem State.get_setBit_other (s : State) {k j : Fld} (i : Nat) (v : Bool) (h : j ≠ k) : (s.setBit k i v).get j = s.get j := by
  rw [State.setBit]
  split
  · rfl
  · rw [State.get_put, if_neg h]

theorem State.bankBit_setBankBit_same (s : State) {lo hi : Nat → Fld} {n b : Nat} (v : Bool) (hb : b < 64) (hlo : (lo n).w = 32)
    (hhi : (hi n).w = 32) : (s.setBankBit lo hi n b v).bankBit lo hi n b = v := by
  unfold State.setBankBit State.bankBit
  split
  case isTrue h => exact s.bitOf_setBit_same v (by omega)
  case isFalse h => exact s.bitOf_setBit_same v (by omega)

theorem State.bankBit_setBankBit_other (s : State) {lo hi lo' hi' : Nat → Fld} {n b : Nat} (v : Bool) (h1 : lo' n ≠ lo n)
    (h2 : hi' n ≠ hi n) : (s.setBankBit lo hi n b v).bankBit lo' hi' n b = s.bankBit lo' hi' n b := by
  unfold State.setBankBit State.bankBit
  split
  · rw [State.get_setBit_other s b v h1]
  · rw [State.get_setBit_other s (b - 32) v h2]

theorem State.bankBit_congr {s t : State} {lo hi : Nat → Fld} {n : Nat} (b : Nat) (h1 : t.get (lo n) = s.get (lo n))
    (h2 : t.get (hi n) = s.get (hi n)) : t.bankBit lo hi n b = s.bankBit lo hi n b := by
  rw [State.bankBit, State.bankBit, h1, h2]

/-- The three bits in which a bank's state stands. -/
def State.bankBits (s : State) (n b : Nat) : Bool × Bool × Bool :=
  (s.bankBit R.CLP_PEND_LO_PEND R.CLP_PEND_HI_PEND n b, s.bankBit R.CLP_ACT_LO_ACT R.CLP_ACT_HI_ACT n b,
    s.bankBit V.clpAgLo V.clpAgHi n b)

/-- A block's registers stand through writes to another block's. -/
theorem State.get_puts_other_blk {l : List (Fld × Nat)} {k : Fld} (h : ∀ e ∈ l, e.1.blk ≠ k.blk) (s : State) : (s.puts l).get k = s.get k := by
  induction l generalizing s with
  | nil => rfl
  | cons e l ih =>
    rw [State.puts_cons, ih (fun e he => h e (List.mem_cons_of_mem _ he)), State.get_put, if_neg]
    rintro rfl
    exact h e List.mem_cons_self rfl

theorem State.bankBits_congr {s t : State} (n b : Nat) (h : ∀ k : Fld, k.blk = 0x04 → t.get k = s.get k) :
    t.bankBits n b = s.bankBits n b := by
  simp only [State.bankBits, State.bankBit, h (R.CLP_PEND_LO_PEND n) rfl, h (R.CLP_PEND_HI_PEND n) rfl, h (R.CLP_ACT_LO_ACT n) rfl,
    h (R.CLP_ACT_HI_ACT n) rfl, h (V.clpAgLo n) rfl, h (V.clpAgHi n) rfl]

theorem State.bankBits_setBankSt (s : State) (n st : Nat) {b : Nat} (hb : b < 64) :
    (s.setBankSt n b st).bankBits n b = (decide (st = 1), decide (2 ≤ st), decide (st = 3)) := by
  rw [State.setBankSt, State.proj_when _ _ (State.bankBits · n b) (State.bankBits_congr n b fun k hk =>
    State.get_puts_other_blk (by simp [hk]) _)]
  simp only [State.bankBits]
  rw [State.bankBit_setBankBit_other _ _ (by simp; omega) (by simp; omega), State.bankBit_setBankBit_other _ _ (by simp) (by simp),
    State.bankBit_setBankBit_same _ _ hb rfl rfl, State.bankBit_setBankBit_other _ _ (by simp; omega) (by simp; omega),
    State.bankBit_setBankBit_same _ _ hb rfl rfl, State.bankBit_setBankBit_same _ _ hb rfl rfl]

theorem State.bankSt_of_bankBits (s : State) (n b : Nat) : s.bankSt n b =
    (if (s.bankBits n b).1 then 1 else if (s.bankBits n b).2.2 then 3 else if (s.bankBits n b).2.1 then 2 else 0) := rfl

/-- A bank's state reads as it was set (R365). -/
theorem State.bankSt_setBankSt (s : State) (n : Nat) {b st : Nat} (hb : b < 64) (hst : st < 4) : (s.setBankSt n b st).bankSt n b = st := by
  rw [State.bankSt_of_bankBits, s.bankBits_setBankSt n st hb]
  interval_cases st <;> rfl

/-- A word with one bit names one bit. -/
theorem bits_of_two_pow (i : Fin 32) : (List.range 32).filter (bitOf (BitVec.ofNat 32 (2 ^ i.val)).toNat) = [i.val] := by
  revert i
  decide

theorem State.claimMask_one (s : State) (n : Nat) (i : Fin 32) :
    s.claimMask n 0 (BitVec.ofNat 32 (2 ^ i.val)).toNat = s.claimBit n i := by
  rw [State.claimMask, bits_of_two_pow]
  simp [State.forAll]

theorem State.doneMask_one (s : State) (n : Nat) (i : Fin 32) :
    s.doneMask n 0 (BitVec.ofNat 32 (2 ^ i.val)).toNat = s.doneBit n i := by
  rw [State.doneMask, bits_of_two_pow]
  simp [State.forAll]

/-- Claiming a bit that is PENDING makes it ACTIVE (R364). -/
theorem State.bankSt_claimBit {s : State} {n b : Nat} (hb : b < 64) (h : s.bankSt n b = 1) : (s.claimBit n b).bankSt n b = 2 := by
  rw [State.claimBit, if_pos h]
  exact s.bankSt_setBankSt n hb (by decide)

/-- A bit that is ACTIVE and that no source holds high is IDLE once done (R364). -/
theorem State.bankSt_doneBit {s : State} {n b : Nat} (hb : b < 64) (h : s.bankSt n b = 2) (hsrc : s.srcOf n b = none) :
    (s.doneBit n b).bankSt n b = 0 := by
  have hdone : s.doneBit n b = s.setBankSt n b 0 := by simp [State.doneBit, h, hsrc]
  rw [hdone]
  exact s.bankSt_setBankSt n hb (by decide)

/-! ## Requests that are accepted -/

/-- A request as its mailbox lists it. -/
def newReq (n no rlim : Nat) (b : List Byte) : Req :=
  ⟨n, no, fieldAt b 0 2, fieldAt b 2 2, fieldAt b 4 2, (b.drop 16).take 32, b.drop 64, rlim, false, false, 0, 0, [], false, none, []⟩

theorem State.accept_of_ok {s : State} {n lim : Nat} {b : List Byte} (rlim : Nat) (h : s.accStatus (some n) lim b = 0) :
    s.accept (some n) lim rlim b =
      (({ s with reqs := s.reqs ++ [newReq n s.reqNo rlim b], reqNo := s.reqNo + 1 }).showMb n, 0) := by
  simp only [State.accept, h]
  rfl

@[simp] theorem State.showMb_reqs (s : State) (n : Nat) : (s.showMb n).reqs = s.reqs :=
  (State.showMb_out n (.refl s) (Key.sub_refl _)).part .reqs (by simp)

@[simp] theorem State.showMb_reqNo (s : State) (n : Nat) : (s.showMb n).reqNo = s.reqNo :=
  (State.showMb_out n (.refl s) (Key.sub_refl _)).part .reqNo (by simp)

/-- The mailboxes of the other blocks' registers do not change as one is shown. -/
theorem State.get_showMb_other (s : State) (n : Nat) {k : Fld} (h : k.blk ≠ 0x03) : (s.showMb n).get k = s.get k := by
  refine (State.showMb_out n (.refl s) (Key.sub_refl _)).get k fun j hj => ?_
  simp only [List.mem_cons, List.not_mem_nil, or_false] at hj
  rcases hj with rfl | rfl
  · exact fun hk => h hk.1
  · exact fun hk => h hk.1

/-- A response that leaves its mailbox (R355). -/
@[simp] theorem State.dropReq_reqs (s : State) (r : Req) : (s.dropReq r).reqs = s.reqs.filter fun x => decide (x.no ≠ r.no) :=
  (State.mbSettle_out r.mb (.refl { s with reqs := s.reqs.filter fun x => decide (x.no ≠ r.no) }) (Key.sub_refl _)).part .reqs (by simp)

end Sys2Proof.Machine

/-!
PROOFS. The task-register port (R498 to R502).
-/

namespace Sys2Proof.Machine

set_option Elab.async false

/-! ## SPI frames (R498) -/

/-- A frame that writes one word into the window while the port is idle. -/
theorem spiWriteFrame_word {hi lo b0 b1 b2 b3 : Byte} {hw : List (BitVec 32)} {s : State} (hdeaf : s.sdsDeaf = false)
    (hst : s.get R.SDS_STAT_STATE = 0) (hwin : 128 ≤ hi.toNat) (hal : lo.toNat % 4 = 0) :
    spiWriteFrame [2, hi, lo, b0, b1, b2, b3] hw s = s.putWin 0x1A 0 (256 * hi.toNat + lo.toNat) (leBytes 4 (leNat [b0, b1, b2, b3])) := by
  have hoff : 256 * fieldAt [2, hi, lo, b0, b1, b2, b3] 1 1 + fieldAt [2, hi, lo, b0, b1, b2, b3] 2 1 = 256 * hi.toNat + lo.toNat := by
    simp [fieldAt, leNat]
  have hskip : (4 - (256 * hi.toNat + lo.toNat) % 4) % 4 = 0 := by omega
  have hend : 4 ≤ 65536 - (256 * hi.toNat + lo.toNat) := by
    have := hi.isLt
    have := lo.isLt
    omega
  have hdata : [b0, b1, b2, b3].take (65536 - (256 * hi.toNat + lo.toNat)) = [b0, b1, b2, b3] := List.take_of_length_le hend
  have hword : ¬(s.get R.SDS_STAT_STATE = 1 ∨ s.get R.SDS_STAT_STATE = 2) := by omega
  have hcmd : fieldAt [2, hi, lo, b0, b1, b2, b3] 0 1 = 2 := by simp [fieldAt, leNat]
  have hin : 0x8000 ≤ 256 * hi.toNat + lo.toNat := by omega
  simp only [spiWriteFrame, hdeaf, hcmd, hoff, hskip, Nat.add_zero, List.drop_zero]
  simp only [List.drop_succ_cons, List.drop_zero, hdata, State.sdsWords, State.sdsWord, if_pos hin, if_neg hword]
  simp

/-! ## A request through the port (R500) -/

theorem State.sdsGo_of_accepted {s : State} (hst : s.get R.SDS_STAT_STATE = 0)
    (hacc : s.accStatus (some 8) 32704 (s.bytes 0x1A 0 0x8000 (Nat.min 32768 (s.get R.SDS_LEN_LEN))) = 0) :
    s.sdsGo.get R.SDS_STAT_STATE = 1 ∧ s.sdsGo.reqNo = s.reqNo + 1 ∧ (s.sdsGo.reqs.getLast?.map fun r => (r.mb, r.no, r.body)) =
      some (8, s.reqNo, (s.bytes 0x1A 0 0x8000 (Nat.min 32768 (s.get R.SDS_LEN_LEN))).drop 64) := by
  have hput : (s.put R.SDS_STAT_STATE 1).accStatus (some 8) 32704 (s.bytes 0x1A 0 0x8000 (Nat.min 32768 (s.get R.SDS_LEN_LEN))) = 0 :=
    Eq.trans (by simp [State.accStatus, State.mbServed, State.on, State.get_put, State.outst]) hacc
  have hgo : s.sdsGo = ({ s.put R.SDS_STAT_STATE 1 with
      reqs := s.reqs ++ [newReq 8 s.reqNo 32704 (s.bytes 0x1A 0 0x8000 (Nat.min 32768 (s.get R.SDS_LEN_LEN)))]
      reqNo := s.reqNo + 1 }).showMb 8 := by
    simp [State.sdsGo, State.on, hst, State.accept_of_ok 32704 hput]
  rw [hgo, State.get_showMb_other _ _ (by decide)]
  exact ⟨State.get_put_same s R.SDS_STAT_STATE 1, by simp, by simp [newReq]⟩

theorem State.sdsAck_of_response {s : State} {r : Req} {n : Nat} (hst : s.get R.SDS_STAT_STATE = 2) (hout : s.outst 8 = [r])
    (hready : r.ready = some n) :
    s.sdsAck.get R.SDS_STAT_STATE = 0 ∧ s.sdsAck.reqs = s.reqs.filter fun x => decide (x.no ≠ r.no) := by
  have hack : s.sdsAck = (s.dropReq r).put R.SDS_STAT_STATE 0 := by simp [State.sdsAck, hst, hout, State.forAll, hready]
  rw [hack]
  exact ⟨State.get_put_same .., State.dropReq_reqs s r⟩

/-- Settles O26, command by command: the window, the port's state and the bank. -/
theorem sideshowCommandsComplete : Obligations.SideshowCommandsComplete := by
  unfold Obligations.SideshowCommandsComplete
  refine ⟨?_, ?_, ?_, ?_, ?_, ?_, ?_, ?_⟩
  case refine_1 =>
    intro hi lo b0 b1 b2 b3 hw s hdeaf hst hwin hal
    refine ⟨_, rfl, ?_⟩
    rw [spiWriteFrame_word hdeaf hst hwin hal]
    rfl
  case refine_2 => exact fun off n s hdeaf => ⟨_, rfl, by simp [spiReadFrame, hdeaf]⟩
  case refine_3 => exact fun off n s hdeaf => ⟨_, rfl, by simp [spiReadFrame, hdeaf]⟩
  case refine_4 => exact fun s hst hacc => ⟨_, rfl, State.sdsGo_of_accepted hst hacc⟩
  case refine_5 =>
    intro s hst
    refine ⟨_, rfl, ?_⟩
    simp [sdsAckCmd, State.sdsAck, hst, State.get_put]
  case refine_6 => exact fun r n s hst hout hready => ⟨_, rfl, State.sdsAck_of_response hst hout hready⟩
  case refine_7 =>
    intro i s h
    refine ⟨_, rfl, ?_⟩
    rw [sdsClaim, if_neg Bool.false_ne_true, State.claimMask_one]
    exact State.bankSt_claimBit (by omega) h
  case refine_8 =>
    intro i s h hsrc
    refine ⟨_, rfl, ?_⟩
    rw [sdsDone, if_neg Bool.false_ne_true, State.doneMask_one]
    exact State.bankSt_doneBit (by omega) h hsrc

end Sys2Proof.Machine

/-!
PROOFS. Mailboxes, banks and interrupts (R352 to R374).
-/

namespace Sys2Proof.Machine

set_option Elab.async false

/-! ## Registers by block -/

/-- A key names a register of a block. -/
def Key.inBlk (b : Nat) : Key → Bool
  | .w x _ => x == b
  | .a x _ _ => x == b
  | .b x => x == b
  | .p _ => false
  | .all => true

/-- The registers of a block that no key names. -/
theorem Out.readBlk {l : List Key} {s t : State} {b : Nat} (h : Out l s t) (hl : (l.all fun n => !n.inBlk b) = true) {k : Fld}
    (hk : k.blk = b) : t.get k = s.get k := by
  subst hk
  refine h.get k fun n hn hhas => ?_
  have hno := List.all_eq_true.mp hl n hn
  cases n <;> simp_all [Key.inBlk, Key.has]

/-! ## What a command taken has not changed -/

/-- What taking a command may change. -/
def tookOut : List Key := arriveOut ++ [.w 2 8, .w 2 12, .w 2 20, .w 2 24, .w 2 64, .w 2 68, .w 2 5439488, .w 2 5505024, .p .cmds, .p .cmdNo]

theorem State.took_out (s : State) (id : CmdId) (ns : Nat) (scopes : List Scope) : Out tookOut s (s.took id ns scopes) :=
  State.updCmd_out _ _ (State.enlist_out _ _ _ _ _ (State.showPause_out 0 (State.arrive_out (.refl s) rfl) rfl) rfl) rfl

section Took
variable (s : State) (id : CmdId) (ns : Nat) (scopes : List Scope)

@[simp] theorem State.took_reqs : (s.took id ns scopes).reqs = s.reqs := (s.took_out id ns scopes).part .reqs (by simp [tookOut, arriveOut])
@[simp] theorem State.took_reqNo : (s.took id ns scopes).reqNo = s.reqNo := (s.took_out id ns scopes).part .reqNo (by simp [tookOut, arriveOut])
@[simp] theorem State.took_cqs : (s.took id ns scopes).cqs = s.cqs := (s.took_out id ns scopes).part .cqs (by simp [tookOut, arriveOut])
@[simp] theorem State.took_ctrls : (s.took id ns scopes).ctrls = s.ctrls := (s.took_out id ns scopes).part .ctrls (by simp [tookOut, arriveOut])
@[simp] theorem State.took_held : (s.took id ns scopes).held = s.held := (s.took_out id ns scopes).part .held (by simp [tookOut, arriveOut])

theorem State.took_get_mailbox {k : Fld} (hk : k.blk = 0x03) : (s.took id ns scopes).get k = s.get k :=
  (s.took_out id ns scopes).readBlk rfl hk

theorem State.took_fwUp : (s.took id ns scopes).get V.fwUp = s.get V.fwUp := (s.took_out id ns scopes).readBlk rfl rfl

end Took

/-! ## What a command that completes changes -/

section Complete
variable (s : State) (i : CmdId) (st : Stat) (dw0 : Nat) (data : Payload)

theorem State.complete_out_refl : Out completeOut s (s.complete i st dw0 data) := State.complete_out i st dw0 data (.refl s) (Key.sub_refl _)

@[simp] theorem State.complete_reqs : (s.complete i st dw0 data).reqs = s.reqs :=
  (s.complete_out_refl i st dw0 data).part .reqs (by simp [completeOut])

@[simp] theorem State.complete_held : (s.complete i st dw0 data).held = s.held :=
  (s.complete_out_refl i st dw0 data).part .held (by simp [completeOut])

theorem State.complete_get_mailbox {k : Fld} (hk : k.blk = 0x03) : (s.complete i st dw0 data).get k = s.get k :=
  (s.complete_out_refl i st dw0 data).readBlk rfl hk

/-- A command of a connected queue leaves one completion entry. -/
theorem State.complete_cqs {x : Ctrl} (hx : s.ctrl i.cntlid = some x) (hq : x.lostq.contains i.qid = false) :
    (s.complete i st dw0 data).cqs = s.cqs ++ [⟨i, st.1, st.2, decide (st ≠ stOk ∧ st ≠ stNotReady), dw0, data⟩] := by
  have htail (u : State) : u.drainDeletes.showCmds.cqs = u.cqs :=
    (State.showCmds_out (State.drainDeletes_out (.refl u) rfl) rfl : Out (Key.but .cqs) _ _).spared
  rw [State.complete, htail]
  simp only [State.sendCqe, State.ctrl] at hx ⊢
  simp only [hx, hq, Bool.false_eq_true, if_false]

end Complete

/-! ## Mailboxes of controllers -/

/-- Two states with the same mailboxes: the registers and the requests. -/
structure SameMb (s t : State) : Prop where
  get : ∀ k : Fld, k.blk = 0x03 → t.get k = s.get k
  fwUp : t.get V.fwUp = s.get V.fwUp
  reqs : t.reqs = s.reqs

theorem State.took_sameMb (s : State) (id : CmdId) (ns : Nat) (scopes : List Scope) : SameMb s (s.took id ns scopes) :=
  ⟨fun _ => s.took_get_mailbox id ns scopes, s.took_fwUp id ns scopes, s.took_reqs id ns scopes⟩

section SameMb
variable {s t : State} (h : SameMb s t)
include h

theorem SameMb.mbOf (c : Nat) : t.mbOf c = s.mbOf c := by
  have howner (n : Nat) := h.get (R.TKB_MB_OWNER n) rfl
  have hid (n : Nat) := h.get (R.TKB_MB_ID n) rfl
  have hdrain (n : Nat) := h.get (R.TKB_MB_DRAIN n) rfl
  simp only [State.mbOf, State.on, howner, hid, hdrain]

theorem SameMb.mbFree : t.mbFree = s.mbFree := by
  have howner (n : Nat) := h.get (R.TKB_MB_OWNER n) rfl
  simp only [State.mbFree, howner]

theorem SameMb.accStatus (mb : Option Nat) (lim : Nat) (b : List Byte) : t.accStatus mb lim b = s.accStatus mb lim b := by
  have howner (n : Nat) := h.get (R.TKB_MB_OWNER n) rfl
  have hdrain (n : Nat) : t.on (R.TKB_MB_DRAIN n) = s.on (R.TKB_MB_DRAIN n) := by rw [State.on, h.get (R.TKB_MB_DRAIN n) rfl, State.on]
  have hup : t.on V.fwUp = s.on V.fwUp := by rw [State.on, h.fwUp, State.on]
  cases mb with
  | none => rfl
  | some n =>
    have hserved : t.mbServed n = s.mbServed n := by simp only [State.mbServed, hup, howner, hdrain]
    have hout : t.outst n = s.outst n := by rw [State.outst, h.reqs, State.outst]
    simp only [State.accStatus, hserved, hout, hup, howner]

theorem SameMb.firstReady (n : Nat) : t.firstReady n = s.firstReady n := by
  simp only [State.firstReady, State.outst, h.reqs]

end SameMb

/-! ## CASGUS_SEND (R354) -/

/-- A request of a controller that owns a mailbox. -/
theorem casgusSend_of_owner {id : CmdId} {raw : List Byte} {n : Nat} {s : State} (h : s.takes id [] 0 = true)
    (hmb : s.mbOf id.cntlid = some n) (hacc : s.accStatus (some n) 65536 raw = 0) :
    casgusSend id raw s = (({ s.took id 0 [] with
        reqs := s.reqs ++ [newReq n s.reqNo 65536 raw], reqNo := s.reqNo + 1 }).showMb n).complete id stOk (65536 * fieldAt raw 4 2) .none := by
  have hsame := s.took_sameMb id 0 []
  simp only [casgusSend, State.admin_of_takes h, hsame.mbOf, hmb, Option.isSome_some, if_true,
    State.accept_of_ok 65536 ((hsame.accStatus _ _ _).trans hacc), reduceCtorEq, and_false, if_false, Nat.zero_add, State.took_reqs,
    State.took_reqNo]

/-- A request of a controller that has none: it gets the first free one. -/
theorem casgusSend_of_free {id : CmdId} {raw : List Byte} {n : Nat} {s : State} (h : s.takes id [] 0 = true)
    (hmb : s.mbOf id.cntlid = none) (hfree : s.mbFree = some n) (hacc : s.accStatus (some n) 65536 raw = 0) :
    casgusSend id raw s = (((({ s.took id 0 [] with
        reqs := s.reqs ++ [newReq n s.reqNo 65536 raw], reqNo := s.reqNo + 1 }).showMb n).puts
          [(R.TKB_MB_OWNER n, 3), (R.TKB_MB_ID n, id.cntlid)]).showMb n).complete id stOk (65536 * fieldAt raw 4 2) .none := by
  have hsame := s.took_sameMb id 0 []
  simp only [casgusSend, State.admin_of_takes h, hsame.mbOf, hsame.mbFree, hmb, hfree, Option.isSome_none, Bool.false_eq_true, if_false,
    State.accept_of_ok 65536 ((hsame.accStatus _ _ _).trans hacc), and_self, if_true, Nat.zero_add, State.took_reqs,
    State.took_reqNo, Option.getD_some]

/-- What a CASGUS_SEND that is accepted leaves of the queues. -/
theorem casgusSend_queues {id : CmdId} {raw : List Byte} {n : Nat} {s u : State} {x : Ctrl} (hx : u.ctrl id.cntlid = some x)
    (hq : x.lostq.contains id.qid = false) (hcqs : u.cqs = s.cqs) (hreqs : u.reqs = s.reqs ++ [newReq n s.reqNo 65536 raw]) :
    (u.complete id stOk (65536 * fieldAt raw 4 2) .none).cqs = s.cqs ++ [⟨id, 0, 0, false, 65536 * fieldAt raw 4 2, .none⟩] ∧
      (u.complete id stOk (65536 * fieldAt raw 4 2) .none).reqs = s.reqs ++ [newReq n s.reqNo 65536 raw] :=
  ⟨by rw [u.complete_cqs id stOk _ _ hx hq, hcqs]; rfl, by rw [State.complete_reqs, hreqs]⟩

@[simp] theorem State.showMb_cqs (s : State) (n : Nat) : (s.showMb n).cqs = s.cqs :=
  (State.showMb_out n (.refl s) (Key.sub_refl _)).part .cqs (by simp)

@[simp] theorem State.showMb_ctrls (s : State) (n : Nat) : (s.showMb n).ctrls = s.ctrls :=
  (State.showMb_out n (.refl s) (Key.sub_refl _)).part .ctrls (by simp)

@[simp] theorem State.showMb_miOut (s : State) (n : Nat) : (s.showMb n).miOut = s.miOut :=
  (State.showMb_out n (.refl s) (Key.sub_refl _)).part .miOut (by simp)

/-- A mailbox's owner stands as it is shown. -/
theorem State.get_showMb_owner (s : State) (n : Nat) :
    (s.showMb n).get (R.TKB_MB_OWNER n) = s.get (R.TKB_MB_OWNER n) ∧ (s.showMb n).get (R.TKB_MB_ID n) = s.get (R.TKB_MB_ID n) := by
  simp [State.showMb, State.get_put]

/-! ## CASGUS_RECEIVE (R355) -/

@[simp] theorem State.dropReq_cqs (s : State) (r : Req) : (s.dropReq r).cqs = s.cqs :=
  (State.dropReq_out r (.refl s) (Key.sub_refl _)).part .cqs (by simp)

@[simp] theorem State.dropReq_ctrls (s : State) (r : Req) : (s.dropReq r).ctrls = s.ctrls :=
  (State.dropReq_out r (.refl s) (Key.sub_refl _)).part .ctrls (by simp)

@[simp] theorem State.dropReq_miOut (s : State) (r : Req) : (s.dropReq r).miOut = s.miOut :=
  (State.dropReq_out r (.refl s) (Key.sub_refl _)).part .miOut (by simp)

theorem State.endHeld_of_none {s : State} (h : s.held = []) (c dw0 : Nat) : s.endHeld c dw0 = s := by
  simp [State.endHeld, h]

/-- Nothing is there to take from a mailbox exactly when no response is ready. -/
theorem State.takeReady_eq_none {s : State} {n len : Nat} : s.takeReady n len = none ↔ s.firstReady n = none := by
  unfold State.takeReady
  cases s.firstReady n with
  | none => simp
  | some r => simp only [reduceCtorEq, iff_false]; split <;> simp

theorem State.takeReady_of_fits {s : State} {n len : Nat} {r : Req} (h : s.firstReady n = some r) (hlen : r.bytes.length ≤ len) :
    s.takeReady n len = some (s.dropReq r, r.bytes.length, r.bytes) := by
  simp only [State.takeReady, h, hlen, if_true]

theorem SameMb.takeFor_none {s t : State} (h : SameMb s t) {c len : Nat} (hnone : s.takeFor c len = none) : t.takeFor c len = none := by
  simp only [State.takeFor, h.mbOf] at hnone ⊢
  cases hmb : s.mbOf c with
  | none => rfl
  | some n =>
    rw [hmb] at hnone
    exact State.takeReady_eq_none.mpr ((h.firstReady n).trans (State.takeReady_eq_none.mp hnone))

/-- A receive that may not wait and finds nothing gets an empty header. -/
theorem casgusReceive_empty {id : CmdId} {len limit : BitVec 32} {s : State} (h : s.takes id [] 0 = true) (hlen : 64 ≤ len.toNat)
    (hlim : limit.toNat ≤ 60000) (hheld : s.held = []) (htake : s.takeFor id.cntlid len.toNat = none) :
    casgusReceive id len false limit s = (s.took id 0 []).complete id stOk 0 (.bytes emptyHdr) := by
  have hheld' : (s.took id 0 []).held = [] := (s.took_held id 0 []).trans hheld
  have hrange : ¬(len.toNat < 64 ∨ 60000 < limit.toNat) := by omega
  simp only [casgusReceive, State.admin_of_takes h, hrange, if_false, State.endHeld_of_none hheld',
    (s.took_sameMb id 0 []).takeFor_none htake, Bool.not_false, if_true]

/-- A receive takes the first response that is ready, if it fits. -/
theorem casgusReceive_ready {id : CmdId} {len limit : BitVec 32} {w : Bool} {n : Nat} {r : Req} {s : State} (h : s.takes id [] 0 = true)
    (hlen : 64 ≤ len.toNat) (hlim : limit.toNat ≤ 60000) (hheld : s.held = []) (hmb : s.mbOf id.cntlid = some n)
    (hready : s.firstReady n = some r) (hfit : r.bytes.length ≤ len.toNat) :
    casgusReceive id len w limit s = ((s.took id 0 []).dropReq r).complete id stOk r.bytes.length (.bytes r.bytes) := by
  have hsame := s.took_sameMb id 0 []
  have hheld' : (s.took id 0 []).held = [] := (s.took_held id 0 []).trans hheld
  have hrange : ¬(len.toNat < 64 ∨ 60000 < limit.toNat) := by omega
  simp only [casgusReceive, State.admin_of_takes h, hrange, if_false, State.endHeld_of_none hheld', State.takeFor, hsame.mbOf, hmb,
    State.takeReady_of_fits ((hsame.firstReady n).trans hready) hfit]

/-- RECEIVE_WAIT_EXPIRY ends the receive that a controller holds. -/
theorem receiveWaitExpiry_of_held {id : CmdId} {b : Nat} {s : State} (h : s.held = [(id.cntlid, (id, b))]) :
    receiveWaitExpiry id s = State.complete { s with held := [] } id stOk 0 (.bytes emptyHdr) := by
  simp [receiveWaitExpiry, State.endHeld, h]

/-! ## Starting and ending a request (R361, R374) -/

theorem requestStart_of_free {rq : ReqId} {r : Req} {s : State} (hreqs : s.reqs = [r])
    (hr : r.mb = rq.mb.val ∧ r.tag = rq.tag.toNat ∧ r.run = false) (hauth : bitOf r.flags 1 = false) (htok : s.needsToken r = false)
    (hop : r.op ∈ casgusOps) (hup : s.get V.fwUp = 1) : (requestStart rq s).reqs = [{ r with run := true }] := by
  have hfind : s.reqs.find? (fun r => decide (r.mb = rq.mb.val ∧ r.tag = rq.tag.toNat ∧ r.run = false)) = some r := by
    simp [hreqs, hr]
  have hmay : s.mayStart r = true := by simp [State.mayStart, hreqs]
  have hjudge : (s.updReq r.no fun x => { x with run := true }).judge r = (s.updReq r.no fun x => { x with run := true }, 0) := by
    have htok' : (s.updReq r.no fun x => { x with run := true }).needsToken r = false := htok
    simp [State.judge, Req.auth, hauth, htok', b2n]
  have hon : s.on V.fwUp = true := by simp [State.on, hup]
  have hromOk : ¬((!(s.updReq r.no fun x => { x with run := true }).on V.fwUp) = true ∧ r.op ∉ romOps) := by
    simp [show (s.updReq r.no fun x => { x with run := true }).on V.fwUp = true from hon]
  simp only [requestStart, hfind, hmay, hjudge, hop, hon, Bool.not_true, Bool.false_eq_true, not_true, ne_eq, if_false, false_and]
  rw [State.proj_when _ _ State.reqs rfl]
  simp [State.updReq, hreqs]

/-- A request whose time is up is answered, and its work goes. -/
theorem requestTimeout_of_running {rq : ReqId} {r : Req} {s : State} (hreqs : s.reqs = [r])
    (hr : r.mb = rq.mb.val ∧ r.tag = rq.tag.toNat ∧ r.run = true ∧ r.ready = none ∧ r.done = false) :
    requestTimeout rq s = (State.updReq { s with works := s.works.filter fun (w : Work) => decide (w.no ≠ r.no) } r.no
      fun x => { x with waits := [] }).respond r.no (0x0013, 0, []) := by
  obtain ⟨hmb, htag, hrun, hready, hdone⟩ := hr
  have hfind : s.reqs.find? (fun r => decide (r.mb = rq.mb.val ∧ r.tag = rq.tag.toNat ∧ r.run = true ∧ r.ready = none ∧
      (r.done = false ∨ r.waits ≠ []))) = some r := by
    simp [hreqs, hmb, htag, hrun, hready, hdone]
  simp only [requestTimeout, hfind]

/-! ## Edges, pins and the source table (R364 to R369) -/

theorem sourceEdge_disabled {i : Nat} {l : List Nat} {s : State} (he : s.edges = i :: l) (hen : s.get (R.CLP_SRC_EN i) = 0) :
    sourceEdge s = { s with edges := l } := by
  have hen' : State.on { s with edges := l } (R.CLP_SRC_EN i) = false := by
    simp only [State.on, decide_eq_false_iff_not, not_not]
    exact hen
  simp only [sourceEdge, he, hen', Bool.false_eq_true, if_false]

/-- An edge of a source whose bit is ACTIVE makes the bit ACTIVE+PENDING. -/
theorem sourceEdge_active {i : Nat} {l : List Nat} {s : State} (he : s.edges = i :: l) (hen : s.get (R.CLP_SRC_EN i) = 1)
    (hst : s.bankSt (s.get (R.CLP_SRC_AGENT i)) (s.get (R.CLP_SRC_BIT i)) = 2) :
    sourceEdge s = State.setBankSt { s with edges := l } (s.get (R.CLP_SRC_AGENT i)) (s.get (R.CLP_SRC_BIT i)) 3 := by
  have hen' : State.on { s with edges := l } (R.CLP_SRC_EN i) = true := decide_eq_true (by show s.get _ ≠ 0; omega)
  have hst' : State.bankSt { s with edges := l } (s.get (R.CLP_SRC_AGENT i)) (s.get (R.CLP_SRC_BIT i)) = 2 := hst
  simp only [sourceEdge, he, hen', if_true]
  exact (show State.fire { s with edges := l } (s.get (R.CLP_SRC_AGENT i)) (s.get (R.CLP_SRC_BIT i)) (some i) = _ by
    simp only [State.fire, hst'])

theorem gpioInputChange_bit (pin : Fin 16) (level : Bool) (s : State) : bitOf ((gpioInputChange pin level s).get V.gpio) pin = level := by
  rw [gpioInputChange, State.proj_when _ _ (State.get · V.gpio) rfl]
  exact s.bitOf_setBit_same level pin.isLt

/-- A source that is idle takes a new, disabled entry. -/
theorem State.clpSrcWrite_disabled {s : State} {i v : Nat} {hw : Bool} (hbit : 8 ≤ v / 256 % 64) (hen : bitOf v 16 = false)
    (hmerged : bitOf v 18 = false) (hidle : s.bankSt (s.get (R.CLP_SRC_AGENT i)) (s.get (R.CLP_SRC_BIT i)) = 0) :
    (s.clpSrcWrite i v hw).1.get (R.CLP_SRC_AGENT i) = v % 64 ∧ (s.clpSrcWrite i v hw).1.get (R.CLP_SRC_BIT i) = v / 256 % 64 ∧
      (s.clpSrcWrite i v hw).1.get (R.CLP_SRC_EN i) = 0 := by
  have hwrite : s.clpSrcWrite i v hw = ((s.puts [(R.CLP_SRC_AGENT i, v % 64), (R.CLP_SRC_BIT i, v / 256 % 64), (R.CLP_SRC_EN i, 0)]).when
      (decide (v % 64 ≠ s.get (R.CLP_SRC_AGENT i) ∨ v / 256 % 64 ≠ s.get (R.CLP_SRC_BIT i))) fun t => t.post 0x04 0x10 info noInst
        [i, s.get (R.CLP_SRC_AGENT i), s.get (R.CLP_SRC_BIT i), v % 64, v / 256 % 64], 0) := by
    simp [State.clpSrcWrite, State.srcWrite, hen, hmerged, hidle, Nat.not_lt.mpr hbit, b2n]
  have hget (k : Fld) : (s.clpSrcWrite i v hw).1.get k =
      (s.puts [(R.CLP_SRC_AGENT i, v % 64), (R.CLP_SRC_BIT i, v / 256 % 64), (R.CLP_SRC_EN i, 0)]).get k := by
    rw [hwrite]
    exact State.proj_when _ _ (State.get · k) rfl
  simp only [hget]
  simp [State.get_put]

/-- The endpoint's number stands through the release of the mailbox of the old one. -/
theorem State.mctpEid_mbRelease (s : State) : (s.mbRelease 9).get V.mctpEid = s.get V.mctpEid := by
  have hsettle (u : State) : (u.mbSettle 9).get V.mctpEid = u.get V.mctpEid := by
    unfold State.mbSettle
    split <;> simp [State.showMb, State.get_put]
  rw [State.mbRelease, hsettle, State.get_put, if_neg (by simp),
    (State.agentDown_out 9 (.refl _) (Key.sub_refl _)).readBlk rfl rfl]
  exact State.proj_when _ _ (State.get · V.mctpEid) rfl

/-- Settles O22, command by command. -/
theorem calliopeCommandsComplete : Obligations.CalliopeCommandsComplete := by
  unfold Obligations.CalliopeCommandsComplete
  refine ⟨?_, ?_, ?_, ?_, ?_, ?_, ?_, ?_, ?_, ?_, ?_, ?_, ?_, ?_, ?_, ?_, ?_⟩
  case refine_1 =>
    intro eid s
    refine ⟨_, rfl, ?_⟩
    rw [mctpEidReassign, State.mctpEid_mbRelease, State.get_put_same]
    exact Nat.mod_eq_of_lt eid.isLt
  case refine_2 =>
    intro id raw n s h hmb hacc
    refine ⟨_, rfl, ?_⟩
    obtain ⟨-, ⟨x, hx, hq⟩, -⟩ := State.takes_iff.mp h
    rw [casgusSend_of_owner h hmb hacc]
    exact casgusSend_queues (x := x) (by simpa [State.ctrl] using hx) hq (by simp) (by simp)
  case refine_3 =>
    intro id raw n s h hmb hfree hacc
    refine ⟨_, rfl, ?_⟩
    obtain ⟨-, ⟨x, hx, hq⟩, -⟩ := State.takes_iff.mp h
    rw [casgusSend_of_free h hmb hfree hacc]
    obtain ⟨hcqs, hreqs⟩ := casgusSend_queues (raw := raw) (n := n) (s := s) (x := x)
      (u := ((({ s.took id 0 [] with
        reqs := s.reqs ++ [newReq n s.reqNo 65536 raw], reqNo := s.reqNo + 1 }).showMb n).puts
          [(R.TKB_MB_OWNER n, 3), (R.TKB_MB_ID n, id.cntlid)]).showMb n)
      (by simpa [State.ctrl] using hx) hq (by simp) (by simp)
    refine ⟨hcqs, hreqs, ?_, ?_⟩
    · rw [State.complete_get_mailbox _ _ _ _ _ rfl, (State.get_showMb_owner _ n).1]
      simp [State.get_put]
    · rw [State.complete_get_mailbox _ _ _ _ _ rfl, (State.get_showMb_owner _ n).2]
      simp
  case refine_4 =>
    rintro id len limit w s h hlen hlim hheld htake rfl
    refine ⟨_, rfl, ?_⟩
    obtain ⟨-, ⟨x, hx, hq⟩, -⟩ := State.takes_iff.mp h
    rw [casgusReceive_empty h hlen hlim hheld htake, State.complete_reqs, State.took_reqs,
      State.complete_cqs _ _ _ _ _ (x := x) (by simpa [State.ctrl] using hx) hq, State.took_cqs]
    exact ⟨rfl, rfl⟩
  case refine_5 =>
    intro id len limit w n r s h hlen hlim hheld hmb hready hfit
    refine ⟨_, rfl, ?_⟩
    obtain ⟨-, ⟨x, hx, hq⟩, -⟩ := State.takes_iff.mp h
    rw [casgusReceive_ready h hlen hlim hheld hmb hready hfit, State.complete_reqs, State.dropReq_reqs, State.took_reqs,
      State.complete_cqs _ _ _ _ _ (x := x) (by simpa [State.ctrl] using hx) hq, State.dropReq_cqs, State.took_cqs]
    exact ⟨rfl, rfl⟩
  case refine_6 =>
    intro id x b s hheld hx hq
    refine ⟨_, rfl, ?_⟩
    rw [receiveWaitExpiry_of_held hheld, State.complete_held]
    exact ⟨State.complete_cqs { s with held := [] } id stOk 0 (.bytes emptyHdr) hx hq, rfl⟩
  case refine_7 =>
    intro raw s hacc
    refine ⟨_, rfl, ?_⟩
    rw [nvmeMiRequest, State.accept_of_ok 4096 hacc]
    simp [newReq]
  case refine_8 =>
    intro len s h
    refine ⟨_, rfl, ?_⟩
    simp [nvmeMiReceive, h, emptyHdr]
  case refine_9 =>
    intro len r s hready hfit
    refine ⟨_, rfl, ?_⟩
    simp [nvmeMiReceive, State.takeReady_of_fits hready hfit]
  case refine_10 =>
    exact fun rq r s hreqs hr hauth htok hop hup => ⟨_, rfl, requestStart_of_free hreqs hr hauth htok hop hup⟩
  case refine_11 =>
    intro rq r s hreqs hr
    refine ⟨_, rfl, ?_⟩
    rw [requestTimeout_of_running hreqs hr]
    exact ⟨by simp [State.respond, State.updReq, hreqs], rfl⟩
  case refine_12 =>
    intro i l s he hen
    refine ⟨_, rfl, ?_⟩
    rw [sourceEdge_disabled he hen]
    exact ⟨rfl, rfl⟩
  case refine_13 =>
    intro i l s he hen hag hbit hst
    refine ⟨_, rfl, ?_⟩
    rw [sourceEdge_active he hen hst]
    exact ⟨(State.setBankSt_out _ _ 3 (.refl _) (Key.sub_refl _)).part .edges (by simp [setBankStOut]), State.bankSt_setBankSt _ _ hbit (by decide)⟩
  case refine_14 => exact fun pin level s => ⟨_, rfl, gpioInputChange_bit pin level s⟩
  case refine_15 => exact fun src v hw s hbit hen hmerged hidle => ⟨_, rfl, State.clpSrcWrite_disabled hbit hen hmerged hidle⟩
  case refine_16 =>
    intro n i s h
    refine ⟨_, rfl, ?_⟩
    rw [clpClaimWriteCmd, State.clpClaim, if_neg (by simp), if_neg Bool.false_ne_true, State.claimMask_one]
    exact State.bankSt_claimBit (by omega) h
  case refine_17 =>
    intro n i s h hsrc
    refine ⟨_, rfl, ?_⟩
    rw [clpDoneWriteCmd, State.clpDone, if_neg (by simp), if_neg Bool.false_ne_true, State.doneMask_one]
    exact State.bankSt_doneBit (by omega) h hsrc

end Sys2Proof.Machine

/-!
PROOFS. Ageing measurements and tracing (R448 to R461).
-/

namespace Sys2Proof.Machine

set_option Elab.async false

/-! ## What is due -/

@[simp] theorem State.showMeas_dues (s : State) : s.showMeas.dues = s.dues :=
  (State.showMeas_out (.refl s) (Key.sub_refl _)).part .dues (by simp)

@[simp] theorem State.showMeas_verifs (s : State) : s.showMeas.verifs = s.verifs :=
  (State.showMeas_out (.refl s) (Key.sub_refl _)).part .verifs (by simp)

/-- A head or the device that nothing has made due becomes due. -/
theorem State.due_of_none {s : State} {h : Nat} (cause : Nat) (hno : (s.dues.any fun d => decide (d.1 = h)) = false) :
    s.due h cause = { s with dues := s.dues ++ [(h, cause)] }.showMeas := by
  simp only [State.due, hno, Bool.false_eq_true, if_false]

theorem ageingDue_of_never {h : Fin 256} {s : State} (hen : s.get R.TLR_CTL_AGE_EN = 1) (hh : h.val = 255 ∨ h.val < s.nact * s.nhpa)
    (hnew : s.newest h = none) : ageingDue h false s = s.due h 1 := by
  simp [ageingDue, State.on, hen, hh, hnew]

theorem ageingDue_of_written {h : Fin 256} {s : State} (hen : s.get R.TLR_CTL_AGE_EN = 1) (hh : h.val < s.nact * s.nhpa)
    (hdev : h.val ≠ 255) : ageingDue h true s = s.due h 2 := by
  simp [ageingDue, State.on, hen, hh, hdev]

theorem verifyDue_of_set {h : GHead} {z : RZone} {s : State}
    (hset : (s.verifs.any fun v => decide (v.1 = h.val * 64 + z.val ∧ v.2 ≤ s.opsec)) = true)
    (hno : (s.dues.any fun d => decide (d.1 = h.val)) = false) :
    verifyDue h z s = State.showMeas { s with
      verifs := s.verifs.filter fun v => decide (v.1 ≠ h.val * 64 + z.val), dues := s.dues ++ [(h.val, 4)] } := by
  rw [verifyDue, if_pos hset, State.due_of_none 4]
  exact hno

/-! ## The end of a measurement (R456 to R461) -/

/-- The record of the run of a head or the device that was due with a cause; `s` has it due no more. -/
def State.ageingRec (s : State) (h : Fin 256) (cause : Nat) (r : AgeResult) : AgeRec :=
  let dev := decide (h.val = 255)
  let zdc := if dev then [] else (List.range 64).map (s.zoneDcls h)
  let mgn := if dev then [] else (List.range 64).map fun z =>
    mgnWord ((r.snr.getD z none).map fun v => v - s.pol (2 * zdc.getD z 0) 2)
  let has (i : Nat) : Bool := (r.items.getD i none).isSome
  let flags := if dev then 2 ^ 5 * b2n (has 0) + 2 ^ 6 * b2n (!r.friction.isEmpty) + 2 ^ 7 + 2 ^ 8 * b2n (has 2 || has 3) +
      2 ^ 9 * b2n (has 1) + 2 ^ 10
    else b2n (has 0) + 2 * b2n (r.snr.any (·.isSome)) + 4 * b2n (has 2) + 8 * b2n (has 3) + 16 * b2n (has 4)
  ⟨s.get V.tlrAseq, s.opsec, h, cause, flags, r.gbw, (List.range 5).map (fun i => (r.items.getD i none).getD 0),
    if dev then s.blks.foldl (fun m e => Nat.max m e.2.erases) 0 else 0, mgn, zdc⟩

/-- What the run measured is judged and applied, and what it skipped is told. -/
def State.ageingApplied (s : State) (h : Fin 256) (r : AgeResult) : State :=
  let dev := decide (h.val = 255)
  let t := if dev then s.applyDevice r else s.applyHead h r.items
  let t := if dev then t else match (s.firstWith h 2 ((s.certs.map fun c => fieldAt c 4 4).headD 0)), r.items.getD 2 none with
    | some f, some v => t.limit (decide (v + 30 ≤ f.items.getD 2 0)) 2 h v
    | _, _ => t
  t.forAll r.skipped fun x u => u.post 0x18 0x17 info noInst [x.1, h, x.2]

/-- A zone whose bands have reached the class demanded starts its fit anew. -/
def State.fitsRestarted (s : State) (h : Fin 256) (aseq : Nat) : State :=
  s.forAll (if decide (h.val = 255) then [] else List.range 64) fun z u =>
    if Tab.at 0 u.asked (h * 64 + z) ≠ 0 ∧ Tab.at 0 u.asked (h * 64 + z) ≤ u.zoneDcls h z + 1 then
      { u with asked := Tab.set 0 u.asked (h * 64 + z) 0, fitFrom := Tab.set 0 u.fitFrom (h * 64 + z) aseq }
    else u

/-- A head's zones are planned again from the record. -/
def State.headReplanned (s : State) (h : Fin 256) (r : AgeResult) : State :=
  if decide (h.val = 255) ∨ !s.polOk then s
  else
    let seen := (List.range 64).filter fun z => (r.snr.getD z none).isSome
    let t := s.forAll seen fun z u =>
      if 3 ≤ (u.fitPoints h z).length then { u with slopes := Tab.set (0, 1) u.slopes (h * 64 + z) (u.slope h z) } else u
    if t.on R.TLR_CTL_PLAN_EN then t.forAll seen fun z u => u.replan h z else t

theorem ageingDone_of_due {h : Fin 256} {r : AgeResult} {d : Nat × Nat} {s u : State}
    (hd : (s.dues.find? fun d => decide (d.1 = h.val)) = some d)
    (hu : u = { s with dues := s.dues.filter fun x => decide (x.1 ≠ h.val) }) :
    ageingDone h r s = ((((((u.ageingApplied h r).addAge (u.ageingRec h d.2 r)).bump V.tlrAseq 1).fitsRestarted h
      (u.get V.tlrAseq)).tlrSave).showMeas).headReplanned h r := by
  subst hu
  simp only [ageingDone, hd]
  rfl

/-- What the end of a measurement may change besides its record and what is due. -/
def ageingTailOut : List Key := ageingDoneOut.filter fun k => !(Key.cov (.p .ages) k || Key.cov (.p .dues) k)

section Out
variable {l : List Key} {s₀ s : State} (h₀ : Out l s₀ s) (hl : Key.sub ageingTailOut l = true)
include h₀ hl

theorem State.ageingApplied_out (h : Fin 256) (r : AgeResult) : Out l s₀ (s.ageingApplied h r) := by
  have happlied : Out l s₀ (if decide (h.val = 255) = true then s.applyDevice r else s.applyHead h r.items) :=
    Out.ite (State.applyDevice_out r h₀ (Out.sub hl rfl)) (State.applyHead_out _ _ h₀ (Out.sub hl rfl))
  refine Out.forAll _ (fun x u hu => Out.post _ _ _ _ _ hu (Out.sub hl rfl)) _ (Out.ite happlied ?_)
  split
  · exact State.limit_out _ _ _ _ happlied (Out.sub hl rfl)
  · exact happlied

theorem State.fitsRestarted_out (h : Fin 256) (aseq : Nat) : Out l s₀ (s.fitsRestarted h aseq) :=
  Out.forAll _ (fun _ _ hu => Out.ite (Out.setFitFromAsked _ _ hu (Out.sub hl rfl) (Out.sub hl rfl)) hu) _ h₀

theorem State.headReplanned_out (h : Fin 256) (r : AgeResult) : Out l s₀ (s.headReplanned h r) := by
  have hslopes := Out.forAll (fun z (u : State) =>
      if 3 ≤ (u.fitPoints h z).length then { u with slopes := Tab.set (0, 1) u.slopes (h * 64 + z) (u.slope h z) } else u)
    (fun _ _ hu => Out.ite (Out.setSlopes _ hu (Out.sub hl rfl)) hu)
    ((List.range 64).filter fun z => (r.snr.getD z none).isSome) h₀
  exact Out.ite h₀ (Out.ite (Out.forAll _ (fun _ _ hu => State.replan_out _ _ hu (Out.sub hl rfl)) _ hslopes) hslopes)

/-- What follows the record of a measurement. -/
theorem State.afterAge_out (h : Fin 256) (aseq : Nat) (r : AgeResult) :
    Out l s₀ (((((s.bump V.tlrAseq 1).fitsRestarted h aseq).tlrSave).showMeas).headReplanned h r) :=
  State.headReplanned_out (State.showMeas_out (State.tlrSave_out (State.fitsRestarted_out (Out.bump _ _ h₀ Key.hasW (Out.sub hl rfl)) hl
    h aseq) (Out.sub hl rfl)) (Out.sub hl rfl)) hl h r

end Out

theorem State.addAge_ages (s : State) (r : AgeRec) : (s.addAge r).ages.getLast? = some r := by
  have hprog (u : State) (a : Nat) (b : List Byte) : (u.progNow a b).ages = u.ages :=
    (State.progNow_out a b (.refl u) rfl : Out (Key.but .ages) _ _).spared
  rw [State.addAge, hprog]
  exact List.getLast?_concat ..

theorem ageingDone_record {h : Fin 256} {r : AgeResult} {d : Nat × Nat} {s : State}
    (hd : (s.dues.find? fun d => decide (d.1 = h.val)) = some d) :
    ((ageingDone h r s).ages.getLast?.map fun q => (q.head, q.cause, q.opsec)) = some (h.val, d.2, s.opsec) ∧
      (ageingDone h r s).dues = s.dues.filter fun x => decide (x.1 ≠ h.val) := by
  rw [ageingDone_of_due hd rfl]
  constructor
  · rw [(State.afterAge_out (.refl _) rfl h _ r : Out (Key.but .ages) _ _).spared, State.addAge_ages]
    rfl
  · exact (State.afterAge_out (State.addAge_out _ (State.ageingApplied_out (.refl _) rfl h r) rfl) rfl h _ r : Out (Key.but .dues) _ _).spared

/-! ## Tracing (R453, R454) -/

theorem traceCmd_of_still {s : State} (htr : s.get R.TLR_STAT_TRACING = 0) (hme : s.get R.TLR_STAT_MEASURING = 0)
    (hun : s.allUnloaded = true) (hst : s.crlSt ≤ crlSTOPPED) : traceCmd true s = s.put R.TLR_STAT_TRACING 1 := by
  simp [traceCmd, State.traceGo, State.on, htr, hme, hun, Nat.not_lt.mpr hst]

theorem traceDone_missing {ref v : Nat} {s : State} (htr : s.get R.TLR_STAT_TRACING = 1) :
    traceDone (.missing ref v) s = ((s.put R.TLR_STAT_TRACING 0).evt R.TLR_EVT_TRACE_FAIL).post 0x18 0x15 error noInst [ref, v] := by
  simp [traceDone, State.on, htr]

/-- A trace without codes keeps its certificate, with the four before it. -/
theorem traceDone_traced {ppb tj : Int} {vref : List Nat} {s : State} (htr : s.get R.TLR_STAT_TRACING = 1) :
    traceDone (.traced ppb vref tj []) s = State.tlrSave { s.put R.TLR_STAT_TRACING 0 with
      certs := ((s.put R.TLR_STAT_TRACING 0).certOf ppb vref tj [] :: s.certs).take 5 } := by
  simp [traceDone, State.on, htr, State.forAll]

/-- Settles O25, command by command. -/
theorem tailorCommandsComplete : Obligations.TailorCommandsComplete := by
  unfold Obligations.TailorCommandsComplete
  refine ⟨?_, ?_, ?_, ?_, ?_, ?_, ?_, ?_⟩
  case refine_1 =>
    intro h s hen hh hnew hno
    refine ⟨_, rfl, ?_⟩
    rw [ageingDue_of_never hen hh hnew, State.due_of_none 1 hno, State.showMeas_dues]
  case refine_2 =>
    intro h s hen hh hdev hno
    refine ⟨_, rfl, ?_⟩
    rw [ageingDue_of_written hen hh hdev, State.due_of_none 2 hno, State.showMeas_dues]
  case refine_3 =>
    intro h z s hset hno
    refine ⟨_, rfl, ?_⟩
    rw [verifyDue_of_set hset hno, State.showMeas_dues, State.showMeas_verifs]
    exact ⟨rfl, rfl⟩
  case refine_4 =>
    intro h s hdue
    refine ⟨_, rfl, ?_⟩
    rw [ageingOverdue, if_pos hdue]
    exact State.get_countN_same s R.TLR_CNT_OVERDUE 1 rfl (by decide)
  case refine_5 => exact fun h r d s hd => ⟨_, rfl, ageingDone_record hd⟩
  case refine_6 =>
    intro s htr hme hun hst
    refine ⟨_, rfl, ?_⟩
    rw [traceCmd_of_still htr hme hun hst]
    exact State.get_put_same ..
  case refine_7 =>
    intro ref v s htr
    refine ⟨_, rfl, ?_⟩
    rw [traceDone_missing htr]
    exact ⟨by simp, by simp, by simp⟩
  case refine_8 =>
    intro ppb vref tj s htr
    refine ⟨_, rfl, ?_⟩
    rw [traceDone_traced htr]
    refine ⟨?_, (State.tlrSave_out (.refl _) rfl : Out (Key.but .certs) _ _).spared⟩
    exact ((State.tlrSave_out (.refl _) (Key.sub_refl _)).read R.TLR_STAT_TRACING (by decide)).trans (State.get_put_same s R.TLR_STAT_TRACING 0)

end Sys2Proof.Machine

/-!
PROOFS. What a reset of the controller die leaves (R428, R481 to R483).
-/

namespace Sys2Proof.Machine

set_option Elab.async false

/-! ## Nothing in flight -/

/-- No command is in flight, no request stands and no controller is connected. -/
structure State.Quiet (s : State) : Prop where
  cmds : s.cmds = []
  reqs : s.reqs = []
  ctrls : s.ctrls = []

/-- Every register and every part but those. -/
def Key.quiet : List Key :=
  .all :: (parts.filter fun q => !([Part.cmds, Part.reqs, Part.ctrls].map Part.num).contains q.num).map .p

theorem Out.quiet {s t : State} (h : Out Key.quiet s t) (hs : s.Quiet) : t.Quiet :=
  ⟨(h.part .cmds (by simp [Key.quiet])).trans hs.cmds, (h.part .reqs (by simp [Key.quiet])).trans hs.reqs,
    (h.part .ctrls (by simp [Key.quiet])).trans hs.ctrls⟩

theorem State.dieLost_quiet (s : State) : s.dieLost.Quiet := ⟨rfl, rfl, rfl⟩

/-- The die after the registers of a reset are set: what follows. -/
theorem State.afterReset_out {l : List Key} {s₀ s : State} (src : Nat) (h : Out l s₀ s)
    (hl : Key.sub [.all, .p .win, .p .edges, .p .inbox, .p .chn, .p .seqs, .p .pa, .p .jq, .p .jact, .p .mops] l = true) :
    Out l s₀ (((s.count R.RMC_CNT_START).resetPs src).budgetChanged.showTherm) :=
  State.showTherm_out (State.budgetChanged_out (State.resetPs_out src (Out.count (n := .all) _ h trivial (Out.sub hl rfl)
    (Out.sub hl rfl)) (Out.sub hl rfl)) (Out.sub hl rfl)) (Out.sub hl rfl)

theorem State.dieReset_quiet (s : State) (src step : Nat) : (s.dieReset src step).Quiet :=
  (State.afterReset_out src (.refl _) rfl).quiet ⟨rfl, rfl, rfl⟩

theorem State.restart2_quiet (s : State) (src : Nat) : (s.restart2 src).Quiet :=
  (Out.put (n := .all) V.pwrSeq _ (.refl (s.dieReset src 2)) trivial rfl).quiet (s.dieReset_quiet src 2)

theorem State.restart3_quiet (s : State) (src : Nat) : (s.restart3 src).Quiet :=
  (State.boot_out (.refl (s.dieReset src 3)) rfl).quiet (s.dieReset_quiet src 3)

/-! ## The cause and the step of the start -/

/-- Ringmaster's registers stand through what follows a reset. -/
theorem State.get_afterReset (s : State) (src : Nat) {k : Fld} (hk : k.blk = 0x05) (hcnt : k.off ≠ R.RMC_CNT_START.off)
    (hevt : k.off ≠ evtOff 0x05) :
    ((s.count R.RMC_CNT_START).resetPs src).budgetChanged.showTherm.get k = s.get k := by
  rw [(State.showTherm_out (State.budgetChanged_out (State.resetPs_out src (.refl _) rfl) rfl) rfl :
    Out (arriveOut ++ [.w 22 8, .w 22 12, .w 22 24, .w 64 16973824]) _ _).readBlk rfl hk]
  exact State.get_count_other s R.RMC_CNT_START k (.inr ⟨hcnt, hevt⟩)

theorem State.dieReset_cause (s : State) (src step : Nat) :
    (s.dieReset src step).get R.RMC_CAUSE_SRC = src % 8 ∧ (s.dieReset src step).get R.RMC_STAT_STEP = step % 16 := by
  rw [State.dieReset, State.get_afterReset _ _ rfl (by decide) (by decide), State.get_afterReset _ _ rfl (by decide) (by decide)]
  simp [State.get_put]

theorem State.restart2_cause (s : State) (src : Nat) :
    (s.restart2 src).get R.RMC_CAUSE_SRC = src % 8 ∧ (s.restart2 src).get R.RMC_STAT_STEP = 2 := by
  obtain ⟨hsrc, hstep⟩ := s.dieReset_cause src 2
  simp [State.restart2, State.get_put, hsrc, hstep]

end Sys2Proof.Machine

/-!
PROOFS. Power states, wakes and throttling (R428 to R444).
-/

namespace Sys2Proof.Machine

set_option Elab.async false

/-! ## Wakes (R430) -/

/-- The counters and events of a wake by the fabric. -/
def State.fabWoken (s : State) (cause : Nat) : State :=
  if cause = 1 then ((s.evt R.FAB_EVT_WAKE).count R.FAB_CNT_WAKE).post 0x01 0x16 info noInst [] else s

theorem State.fabWoken_out {l : List Key} {s₀ s : State} (cause : Nat) (h : Out l s₀ s)
    (hl : Key.sub [.b 1, .p .edges, .p .inbox] l = true) : Out l s₀ (s.fabWoken cause) :=
  Out.ite (Out.post _ _ _ _ _ (Out.count (n := .b 1) _ (Out.evt (n := .b 1) _ h rfl (Out.sub hl rfl) (Out.sub hl rfl)) rfl (Out.sub hl rfl)
    (Out.sub hl rfl)) (Out.sub hl rfl)) h

/-- A wake from PS5 is a reset with cause 7 that enters the start at step 2. -/
theorem State.wakeBy_ps5 {s : State} (cause : Nat) (hps : s.get R.CVN_STAT_PS = 5) (hno : s.get V.cvnWaking = 0)
    (hoff : s.get V.pslOff = 0) :
    (s.wakeBy cause).get R.RMC_CAUSE_SRC = 7 ∧ (s.wakeBy cause).get R.RMC_STAT_STEP = 2 ∧ (s.wakeBy cause).cmds = [] := by
  obtain ⟨u, v, hwake⟩ : ∃ u v, s.wakeBy cause = ((State.restart2 u 7).present v).fabWoken cause := by
    simp only [State.wakeBy, State.on, hps, hno, hoff]
    exact ⟨_, _, rfl⟩
  rw [hwake]
  have hkeep : Out (arriveOut ++ [.b 1]) (u.restart2 7) (((u.restart2 7).present v).fabWoken cause) :=
    State.fabWoken_out cause (State.present_out v (.refl _) rfl) rfl
  have hquiet : (((u.restart2 7).present v).fabWoken cause).Quiet :=
    (State.fabWoken_out cause (State.present_out v (.refl _) rfl) rfl).quiet (u.restart2_quiet 7)
  obtain ⟨hsrc, hstep⟩ := u.restart2_cause 7
  exact ⟨(hkeep.readBlk rfl rfl).trans hsrc, (hkeep.readBlk rfl rfl).trans hstep, hquiet.cmds⟩

/-- A wake during the entry to PS5 waits for its end. -/
theorem State.wakeBy_entering {s : State} (cause : Nat) (hps : s.get R.CVN_STAT_PS ≠ 5) (htgt : s.get R.CVN_STAT_PS_TGT = 5)
    (hstep : s.get V.psStep ≠ 0) (hno : s.get V.wakePend = 0) : s.wakeBy cause = s.put V.wakePend cause := by
  simp [State.wakeBy, State.on, hps, htgt, hstep, hno]

/-! ## Idle (R434 to R436) -/

/-- What is presented reads as presented. -/
theorem State.get_present (s : State) (v : Nat) :
    (s.present v).get R.CVN_BUD_PRES_PRES_US % 4294967296 = v % 4294967296 := by
  unfold State.present
  split
  case isTrue h => rw [h]
  case isFalse h =>
    have hkeep := (State.evalSp_out (.refl (s.put R.CVN_BUD_PRES_PRES_US v)) (Key.sub_refl _)).read R.CVN_BUD_PRES_PRES_US (by decide)
    rw [hkeep, State.get_put_same]
    exact Nat.mod_mod ..

theorem State.idled_of_idle {s : State} (hidle : s.idle = true) (hhold : s.get V.wakeHold = 0) :
    s.idled = ((s.put R.CVN_STAT_DEMAND 0).present (s.get R.CVN_BUD_EFF_EFF_US)).follow := by
  simp [State.idled, State.on, hidle, hhold, State.get_put]

/-! ## The steps of an entry (R436) -/

/-- The end of step 1 of an entry to PS2 pauses the media operations. -/
theorem psEntryStep_pauses {s : State} (htgt : s.get R.CVN_STAT_PS_TGT = 2) (hstep : s.get V.psStep = 1) (hoff : s.get V.pslOff = 0) :
    psEntryStep s = { s.put V.psStep 2 with mops := s.mops.map fun (o : MOp) => { o with paused := true } } := by
  simp [psEntryStep, State.on, htgt, hstep, hoff, State.psEnded, psNext, State.psBegin]

/-- The end of its step 3 is the end of the entry. -/
theorem psEntryStep_ends {s : State} (htgt : s.get R.CVN_STAT_PS_TGT = 2) (hstep : s.get V.psStep = 3) (hoff : s.get V.pslOff = 0)
    (hun : s.allUnloaded = true) : psEntryStep s = ((s.put V.psStep 0).setPs 2).checkMiss := by
  simp [psEntryStep, State.on, htgt, hstep, hoff, State.psEnded, psNext, hun]

theorem State.get_setPs (s : State) {n : Nat} (hn : n < 8) : (s.setPs n).get R.CVN_STAT_PS = n := by
  unfold State.setPs
  dsimp only
  split
  case isTrue h => exact h
  case isFalse h => simp [Nat.mod_eq_of_lt hn]

theorem State.get_checkMiss (s : State) : s.checkMiss.get R.CVN_STAT_PS = s.get R.CVN_STAT_PS := by
  unfold State.checkMiss
  dsimp only
  split <;> simp [State.putB, State.get_put]

/-! ## Samples (R438 to R441) -/

/-- What follows from the value used of a sensor: its level, the throttling of its die, notices and the shutdown. -/
def State.sampleJudged (s t : State) (i : Fin 5) (u : Int) : State :=
  let old := s.level i
  let new := nextLevel i old u
  let d := dieOf i
  let t := t.put R.PSL_STAT_LEVEL (t.get R.PSL_STAT_LEVEL - old * 4 ^ i.val + new * 4 ^ i.val)
  let t := t.putB (V.pslAtThrot d) (t.dieHot d)
  let w := ofSigned 16 u
  let t := t.when (decide (old < 1 ∧ 1 ≤ new)) fun v => ((v.evt R.PSL_EVT_WARN).edge 0x1C2).post 0x17 0x10 warning noInst [i, w]
  let t := t.when (decide (new < old)) fun v => v.evt R.PSL_EVT_RELEASE
  let t := t.when (t.dieHot d && !t.on (V.pslThrOn d)) fun v =>
    ((v.puts [(V.pslThrOn d, 1), (V.pslThr d, v.opsec)]).throtEvent.evt R.PSL_EVT_THROTTLE).post 0x17 0x11 warning noInst [d, v.get (stepFld d), w]
  let t := t.throtEnd d
  let t := t.when (decide (d = 1) && t.dieHot 1) fun v => v.checkGrant
  let t := State.tempNotices s t i
  t.when (decide (new = 3) && !t.on V.pslOff) fun v => v.thermalOff i

theorem sensorSample_of_sampled {i : Fin 5} {raw : BitVec 16} {s : State} (hi : i.val < 3) :
    ∃ u, sensorSample i raw s = State.sampleJudged s (((s.put (R.PSL_TEMP_RAW i) raw.toNat).crossCheck i).putI (R.PSL_TEMP_USED i) u) i u := by
  have hmeas : ¬(3 ≤ i.val ∧ s.hbmOff = true) := fun h => by omega
  simp only [sensorSample, if_neg hmeas]
  exact ⟨_, rfl⟩

/-- What `sampleJudged` may change: what a sample may change, without the values read from the sensors. -/
def sampleJudgedOut : List Key := sensorSampleOut.filter fun
  | .a 23 _ 4 => false
  | _ => true

theorem State.sampleJudged_out (s t : State) (i : Fin 5) (u : Int) : Out sampleJudgedOut t (State.sampleJudged s t i u) := by
  unfold State.sampleJudged
  refine Out.when _ _ (State.tempNotices_out _ _ (Out.when _ _ (State.throtEnd_out _ (Out.when _ _ (Out.when _ _ (Out.when _ _
    (Out.putB (n := .a 23 13631488 268435456) _ _ (Out.put (n := .w 23 8) _ _ (.refl t) Key.hasW rfl) (Key.hasA rfl) rfl) ?_) ?_) ?_) rfl) ?_) rfl) ?_
  · exact fun v hv => Out.post _ _ _ _ _ (Out.edge _ (Out.evt (n := .w 23 12) _ hv Key.hasW rfl rfl) rfl) rfl
  · exact fun v hv => Out.evt (n := .w 23 12) _ hv Key.hasW rfl rfl
  · exact fun v hv => Out.post _ _ _ _ _ (Out.evt (n := .w 23 12) _ (State.throtEvent_out
      (Out.put (n := .a 23 19660800 268435456) _ _ (Out.put (n := .a 23 19791872 268435456) _ _ hv (Key.hasA rfl) rfl) (Key.hasA rfl) rfl) rfl) Key.hasW rfl rfl) rfl
  · exact fun v hv => State.checkGrant_out hv rfl
  · exact fun v hv => State.thermalOff_out i hv rfl

/-- No key of `sampleJudgedOut` holds a raw value. -/
theorem sampleJudgedOut_raw (i : Fin 5) : (sampleJudgedOut.all fun n => !n.hasb (R.PSL_TEMP_RAW i)) = true := by
  revert i
  decide

/-- The raw value of a sensor in the controller's die is the one of its sample. -/
theorem sensorSample_raw {i : Fin 5} (raw : BitVec 16) (s : State) (hi : i.val < 3) :
    (sensorSample i raw s).get (R.PSL_TEMP_RAW i) = raw.toNat := by
  obtain ⟨u, hu⟩ := sensorSample_of_sampled (raw := raw) (s := s) hi
  rw [hu, (State.sampleJudged_out ..).read _ (sampleJudgedOut_raw i), State.putI, State.get_put_other _ _ (by simp)]
  calc ((s.put (R.PSL_TEMP_RAW i) raw.toNat).crossCheck i).get (R.PSL_TEMP_RAW i)
      = (s.put (R.PSL_TEMP_RAW i) raw.toNat).get (R.PSL_TEMP_RAW i) :=
        (State.crossCheck_out i (.refl _) (Key.sub_refl _)).read _ (by clear hu hi; revert i; decide)
    _ = raw.toNat := (State.get_put_same ..).trans (Nat.mod_eq_of_lt raw.isLt)

/-! ## Throttling (R442) -/

/-- A step of a die's throttling is no larger than its field. -/
theorem stepMax_lt (d : Fin 4) : stepMax d < 2 ^ (stepFld d).w := by
  revert d
  decide

/-- What the die does at its step leaves the step. -/
theorem State.throtAct_step (d : Fin 4) (s : State) : (s.throtAct d).get (stepFld d) = s.get (stepFld d) :=
  (State.throtAct_out d (.refl s) (Key.sub_refl _)).read _ (by revert d; decide)

theorem State.throtEnd_step (d : Fin 4) (s : State) : (s.throtEnd d).get (stepFld d) = s.get (stepFld d) :=
  (State.throtEnd_out d (.refl s) (Key.sub_refl _)).read _ (by revert d; decide)

theorem throttleStepUp_step {d : Fin 4} {s : State} (hhot : s.dieHot d = true) (hlt : s.get (stepFld d) < stepMax d) :
    (throttleStepUp d s).get (stepFld d) = s.get (stepFld d) + 1 := by
  have hfit : s.get (stepFld d) + 1 < 2 ^ (stepFld d).w := Nat.lt_of_le_of_lt hlt (stepMax_lt d)
  have hup : throttleStepUp d s = ((((s.put (stepFld d) (s.get (stepFld d) + 1)).throtAct d).throtEvent.evt R.PSL_EVT_THROTTLE).post
      0x17 0x11 warning noInst [d, s.get (stepFld d) + 1, ofSigned 16 (s.dieUsed d)]) := by
    simp only [throttleStepUp, hhot, Bool.not_true, Bool.false_eq_true, false_or, if_neg (Nat.not_le.mpr hlt)]
  have htell : Out [.w 23 12, .w 23 64, .p .edges, .p .inbox] ((s.put (stepFld d) (s.get (stepFld d) + 1)).throtAct d)
      (throttleStepUp d s) := by
    rw [hup]
    exact Out.post _ _ _ _ _ (Out.evt (n := .w 23 12) _ (State.throtEvent_out (.refl _) (Key.sub_refl _)) Key.hasW rfl rfl) rfl
  rw [htell.read _ (by clear htell hup hfit hlt hhot; revert d; decide), State.throtAct_step, State.get_put_same, Nat.mod_eq_of_lt hfit]

theorem throttleStepDown_step {d : Fin 4} {s : State} (hcool : s.dieHot d = false) (hk : s.get (stepFld d) ≠ 0) :
    (throttleStepDown d s).get (stepFld d) = (s.get (stepFld d) - 1) % 2 ^ (stepFld d).w := by
  have hdown : throttleStepDown d s = ((s.put (stepFld d) (s.get (stepFld d) - 1)).throtAct d).throtEnd d := by
    simp [throttleStepDown, hcool, hk]
  rw [hdown, State.throtEnd_step, State.throtAct_step, State.get_put_same]

/-! ## The clock and the thermal restart (R429, R439) -/

/-- With 5 V present the tick counts one second more, and stops at the largest count. -/
theorem opsecTick_seconds {s : State} (hvin : s.get V.vin5ok = 1) :
    (opsecTick s).get R.CVN_OPSEC_SECONDS = Nat.min 4294967295 (s.get R.CVN_OPSEC_SECONDS + 1) := by
  have hfit : Nat.min 4294967295 (s.get R.CVN_OPSEC_SECONDS + 1) < 2 ^ 32 :=
    Nat.lt_of_le_of_lt (Nat.min_le_left ..) (by decide)
  have hon : s.on V.vin5ok = true := by simp [State.on, hvin]
  simp only [opsecTick, hon, Bool.not_true, Bool.false_eq_true, if_false]
  rw [State.proj_when _ _ (·.get R.CVN_OPSEC_SECONDS) (State.get_put_other _ (k := R.CVN_STAT_OPSEC_SAT) 1 (by decide)), State.get_put_same]
  exact Nat.mod_eq_of_lt hfit

theorem thermalRestart_of_cool {s : State} (hoff : s.get V.pslOff = 1) (hen : s.get R.CVN_STAT_PWR_EN = 0)
    (hlow : ((List.range 5).any fun i => decide (s.level i = 3)) = false) : ∃ u, thermalRestart s = State.restart2 u 6 := by
  simp only [thermalRestart, State.on, hoff, hen, hlow]
  exact ⟨_, rfl⟩

/-- Settles O28, clause by clause. -/
theorem powerStateCommandsComplete : Obligations.PowerStateCommandsComplete := by
  unfold Obligations.PowerStateCommandsComplete
  refine ⟨?_, ?_, ?_, ?_, ?_, ?_, ?_, ?_, ?_, ?_, ?_, ?_, ?_, ?_, ?_, ?_, ?_⟩
  case refine_1 => exact fun s hps hno hoff => ⟨_, rfl, State.wakeBy_ps5 1 hps hno hoff⟩
  case refine_2 =>
    intro s hps htgt hstep hno
    refine ⟨_, (congrArg Host.Outcome.next (State.wakeBy_entering 1 hps htgt hstep hno)), ?_, ?_⟩ <;> simp [State.get_put]
  case refine_3 => exact fun s hps hno hoff => ⟨_, rfl, State.wakeBy_ps5 2 hps hno hoff⟩
  case refine_4 =>
    intro s hps htgt hstep hno
    refine ⟨_, (congrArg Host.Outcome.next (State.wakeBy_entering 2 hps htgt hstep hno)), ?_, ?_⟩ <;> simp [State.get_put]
  case refine_5 => exact fun s hps hno hoff => ⟨_, rfl, State.wakeBy_ps5 3 hps hno hoff⟩
  case refine_6 =>
    intro s hps htgt hstep hno
    refine ⟨_, (congrArg Host.Outcome.next (State.wakeBy_entering 3 hps htgt hstep hno)), ?_, ?_⟩ <;> simp [State.get_put]
  case refine_7 =>
    intro s hvin
    exact ⟨_, rfl, opsecTick_seconds hvin⟩
  case refine_8 =>
    intro s hidle hhold
    refine ⟨_, rfl, ?_⟩
    have hkeep := (State.follow_out (.refl ((s.put R.CVN_STAT_DEMAND 0).present (s.get R.CVN_BUD_EFF_EFF_US))) (Key.sub_refl _)).read
      R.CVN_BUD_PRES_PRES_US (by decide)
    rw [idleTimer, State.idled_of_idle hidle hhold, hkeep, State.get_present]
  case refine_9 => exact fun s => ⟨_, rfl, by simp [wakeHoldExpiry, State.when]⟩
  case refine_10 =>
    intro s htgt hstep hoff
    refine ⟨_, congrArg Host.Outcome.next (psEntryStep_pauses htgt hstep hoff), ?_, rfl⟩
    exact State.get_put_same s V.psStep 2
  case refine_11 =>
    intro s htgt hstep hoff hun
    refine ⟨_, congrArg Host.Outcome.next (psEntryStep_ends htgt hstep hoff hun), ?_, ?_⟩
    · rw [(State.checkMiss_out (State.setPs_out 2 (.refl _) (Key.sub_refl _)) rfl).read V.psStep (by decide), State.get_put_same]
      rfl
    · rw [State.get_checkMiss, State.get_setPs _ (by decide)]
  case refine_12 => exact fun i raw s hi => ⟨_, rfl, sensorSample_raw raw s hi⟩
  case refine_13 =>
    intro s hoff hen hlow
    obtain ⟨u, hu⟩ := thermalRestart_of_cool hoff hen hlow
    obtain ⟨hsrc, hstep⟩ := u.restart2_cause 6
    exact ⟨_, congrArg Host.Outcome.next hu, hsrc, hstep, (u.restart2_quiet 6).cmds⟩
  case refine_14 => exact fun d s hhot hlt => ⟨_, rfl, throttleStepUp_step hhot hlt⟩
  case refine_15 => exact fun d s hcool hk => ⟨_, rfl, throttleStepDown_step hcool hk⟩
  case refine_16 =>
    intro s hk
    refine ⟨_, rfl, ?_⟩
    rw [throttleAlternate, if_pos hk, (State.showTherm_out (.refl _) (Key.sub_refl _)).read V.thSet (by decide), State.get_put_same]
    rfl
  case refine_17 =>
    intro s hk
    refine ⟨_, rfl, ?_⟩
    rw [fabricPauseWindow, if_pos hk, State.get_put_same]
    rfl

end Sys2Proof.Machine

/-!
PROOFS. Resets, the start and the spindle's start (R428, R431, R481 to R492).
-/

namespace Sys2Proof.Machine

set_option Elab.async false

/-! ## The 5 V supply (R21, R481) -/

/-- A reset keeps the fields of the always-on blocks. -/
theorem State.get_clearRegs (s : State) {k : Fld} (hk : keptFld k = true) : s.clearRegs.get k = s.get k :=
  get_filter_keep _ _ _ fun _ => hk

/-- What the end of the die's work names, which is none of the supplies. -/
def endedOut : List Key :=
  [.a 11 32 4, .a 11 48 4, .w 65 15532032, .w 65 15597568, .w 65 15663104, .w 65 16252928, .a 65 22347776 268435456, .p .free, .p .mcache,
    .p .nss, .p .zones, .p .bands, .p .vol, .p .points, .p .test, .p .testLog, .p .flash, .p .fops, .p .fwait, .p .fread, .p .ring, .p .ringBad]

theorem State.ended_out (s : State) : Out endedOut s ((s.endTest 2).flashCut.loseVolatile) :=
  State.loseVolatile_out (State.flashCut_out (State.endTest_out 2 (.refl _) rfl) rfl) rfl

theorem State.ended_vin5ok (s : State) : (s.endTest 2).flashCut.loseVolatile.get V.vin5ok = s.get V.vin5ok :=
  s.ended_out.read V.vin5ok (by decide)

theorem State.clearedRam_vin5ok (s : State) : s.clearRegs.clearRam.get V.vin5ok = s.get V.vin5ok := State.get_clearRegs s rfl

theorem State.dieLost_vin5ok (s : State) : s.dieLost.get V.vin5ok = s.get V.vin5ok := by
  unfold State.dieLost
  rw [State.get_put_other _ (k := V.hbTx) _ (by decide)]
  calc (((s.when (s.on V.fwOpen) fun t => t.put (V.fwSlotSt s.inactive) 1).endTest 2).flashCut.loseVolatile.clearRegs.clearRam).get V.vin5ok
      = ((s.when (s.on V.fwOpen) fun t => t.put (V.fwSlotSt s.inactive) 1).endTest 2).flashCut.loseVolatile.get V.vin5ok :=
        State.clearedRam_vin5ok _
    _ = (s.when (s.on V.fwOpen) fun t => t.put (V.fwSlotSt s.inactive) 1).get V.vin5ok := State.ended_vin5ok _
    _ = s.get V.vin5ok := State.proj_when _ _ (·.get V.vin5ok) (State.get_put_other _ _ (by simp))

/-- A reset of the controller die leaves the 5 V supply as it is. -/
theorem State.dieReset_vin5ok (s : State) (src step : Nat) : (s.dieReset src step).get V.vin5ok = s.get V.vin5ok := by
  rw [State.dieReset, (State.showTherm_out (State.budgetChanged_out (State.resetPs_out src (.refl _) rfl) rfl) rfl :
    Out (arriveOut ++ [.w 22 8, .w 22 12, .w 22 24, .w 64 16973824]) _ _).readBlk rfl rfl,
    State.get_count_other _ R.RMC_CNT_START V.vin5ok (.inl (by decide))]
  simp [State.get_put, State.dieLost_vin5ok]

theorem powerOnReset_of_off {s : State} (hvin : s.get V.vin5ok = 0) :
    ∃ u : State, u.get V.vin5ok = 1 ∧ powerOnReset s = ((u.dieReset 1 1).stepEnd 1).put V.pwrSeq 1 := by
  simp only [powerOnReset, State.on, hvin]
  refine ⟨_, ?_, rfl⟩
  rw [State.proj_when _ _ (·.get V.vin5ok) (State.get_put_other _ (k := R.CVN_STAT_PCYC_SAT) 1 (by decide))]
  simp [State.get_put]

theorem State.powered_of_dieReset {u : State} (hvin : u.get V.vin5ok = 1) :
    let t := ((u.dieReset 1 1).stepEnd 1).put V.pwrSeq 1
    t.get V.vin5ok = 1 ∧ t.get R.RMC_CAUSE_SRC = 1 ∧ t.get V.pwrSeq = 1 ∧ t.Quiet := by
  have hkeep : Out [.w 5 8, .a 5 128 4, .w 64 16777216] (u.dieReset 1 1) (((u.dieReset 1 1).stepEnd 1).put V.pwrSeq 1) :=
    Out.put (n := .w 64 16777216) _ _ (State.stepEnd_out 1 (.refl _) rfl) Key.hasW rfl
  refine ⟨?_, ?_, State.get_put_same .., ?_⟩
  · rw [hkeep.read V.vin5ok (by decide), State.dieReset_vin5ok, hvin]
  · rw [hkeep.read R.RMC_CAUSE_SRC (by decide), (u.dieReset_cause 1 1).1]
  · exact (Out.put (n := .all) V.pwrSeq 1 (State.stepEnd_out 1 (.refl _) rfl) trivial rfl).quiet (u.dieReset_quiet 1 1)

/-- The loss of 5 V leaves nothing in flight, nothing told and no record kept in the die. -/
theorem vin5Loss_of_powered {s : State} (hvin : s.get V.vin5ok = 1) :
    (vin5Loss s).get V.vin5ok = 0 ∧ (vin5Loss s).inbox = [] ∧ (vin5Loss s).popen = none ∧ (vin5Loss s).pbuf = [] ∧ (vin5Loss s).Quiet := by
  have hloss : vin5Loss s = (s.dieReset 1 0).loseVin5.puts [(V.vin5ok, 0), (V.sntLast, 0)] := by simp [vin5Loss, State.on, hvin]
  obtain ⟨hcmds, hreqs, hctrls⟩ := s.dieReset_quiet 1 0
  rw [hloss]
  generalize s.dieReset 1 0 = u at hcmds hreqs hctrls
  exact ⟨by simp [State.get_put], rfl, rfl, rfl, hcmds, hreqs, hctrls⟩

/-! ## A restart of the firmware (R483) -/

theorem State.fwAdvance_none {s : State} (hfw : s.get V.fwRst = 0) : s.fwAdvance = s := by simp [State.fwAdvance, hfw]

theorem State.fwAdvance_atRest {s : State} (hfw : s.get V.fwRst = 3) (hrest : s.atRest = true) : s.fwAdvance = s.restart3 4 := by
  simp [State.fwAdvance, hfw, hrest]

/-! ## The supplies' order (R431) -/

theorem pwrEnStep_up {s : State} (hoff : s.get V.pslOff = 0) (hvin : s.get V.vin5ok = 1) (hseq : s.get V.pwrSeq = 1) (hup : s.pwrUp < 5) :
    pwrEnStep s = (s.put R.CVN_STAT_PWR_EN (2 ^ (s.pwrUp + 1) - 1)).showPbl := by
  have hmin : Nat.min 6 (s.pwrUp + 1) = s.pwrUp + 1 := Nat.min_eq_right (by omega)
  simp [pwrEnStep, State.on, hoff, hvin, hseq, hup, hmin]

/-! ## Input and output ready (R491) -/

/-- The end of a wake from PS5. -/
def State.wakeDone (s : State) : State :=
  (if s.on V.wake5 then (s.puts [(V.wake5, 0), (V.cvnWaking, 0), (V.wakeHold, 1)]).setPs 0 else s).checkMiss

theorem State.wakeDone_out {l : List Key} {s₀ s : State} (h : Out l s₀ s)
    (hl : Key.sub [.w 11 12, .w 11 84, .w 22 8, .w 22 12, .w V.wake5.blk V.wake5.off, .w V.cvnWaking.blk V.cvnWaking.off,
      .w V.wakeHold.blk V.wakeHold.off, .p .edges, .p .inbox, .p .mops] l = true) : Out l s₀ s.wakeDone := by
  refine State.checkMiss_out (Out.ite (State.setPs_out 0 (?_ : Out l s₀ (((s.put V.wake5 0).put V.cvnWaking 0).put V.wakeHold 1)) (Out.sub hl rfl)) h)
    (Out.sub hl rfl)
  exact Out.put (n := .w V.wakeHold.blk V.wakeHold.off) _ _ (Out.put (n := .w V.cvnWaking.blk V.cvnWaking.off) _ _
    (Out.put (n := .w V.wake5.blk V.wake5.off) _ _ h Key.hasW (Out.sub hl rfl)) Key.hasW (Out.sub hl rfl)) Key.hasW (Out.sub hl rfl)

/-- What the start does once input and output is ready: media operations go on, the image under trial stays and a wake from PS5 ends. -/
def State.startDone (s : State) : State := (s.scanJournal.resumeAll.confirmTrial false).optRepairDo.wakeDone

def startDoneOut : List Key :=
  freeBandOut ++ [.w 11 12, .w 11 84, .w 20 64, .w 20 68, .w 22 8, .w 22 12, .w V.wake5.blk V.wake5.off, .w V.cvnWaking.blk V.cvnWaking.off,
    .w V.wakeHold.blk V.wakeHold.off, .a 65 15269888 268435456, .w 66 14811136, .w 66 15204352, .p .free, .p .inbox, .p .flash]

theorem State.startDone_out (s : State) : Out startDoneOut s s.startDone :=
  State.wakeDone_out (State.optRepairDo_out (State.confirmTrial_out false (State.resumeAll_out (State.scanJournal_out (.refl s) rfl) rfl) rfl) rfl) rfl

/-- The registers, the event and the notice of a start that is ready. -/
def State.ioShown (s : State) : State :=
  let ms := s.get V.msNow - s.get V.startMs
  let out := s.actsOut
  let t := s.puts [(R.RMC_T_MS 9, ms), (R.RMC_T_MS 10, ms), (R.RMC_STAT_STEP, if s.on R.PWK_CTL_ACT then 12 else 0),
    (R.RMC_STAT_IO_READY, 1), (R.RMC_STAT_ACT_OUT, out), (R.MMG_STAT_REPLAY, 0)]
  let t := (t.evt R.RMC_EVT_IO_READY).noticeAll t.ctrlIds 8 aenNs
  t.post 0x05 0x11 info noInst ([t.get R.RMC_CAUSE_SRC] ++ ((List.range 12).map fun i => t.get (R.RMC_T_MS i)) ++ [out])

theorem State.forAll_nil {α : Type} (s : State) (f : α → State → State) : s.forAll [] f = s := rfl

theorem ioReady_clean {s : State} (hup : s.get V.fwUp = 1) (hno : s.get R.RMC_STAT_IO_READY = 0)
    (hset : ((List.range s.nact).all s.actSettled) = true) : ioReady [] [] [] false s = s.ioShown.startDone.fwAdvance := by
  have hup' : s.on V.fwUp = true := by simp [State.on, hup]
  have hno' : s.on R.RMC_STAT_IO_READY = false := by simp [State.on, hno]
  simp only [ioReady, hup', hno', hset, State.forAll_nil, State.ioShown, State.startDone, State.wakeDone, Bool.not_true, Bool.false_eq_true,
    or_self, if_false]
  rfl

theorem ioReady_ready {s : State} (hup : s.get V.fwUp = 1) (hno : s.get R.RMC_STAT_IO_READY = 0)
    (hset : ((List.range s.nact).all s.actSettled) = true) (hfw : s.get V.fwRst = 0) :
    let t := ioReady [] [] [] false s
    t.get R.RMC_STAT_IO_READY = 1 ∧ t.get R.RMC_EVT_IO_READY = 1 ∧ t.get R.RMC_STAT_ACT_OUT = s.actsOut % 16 := by
  have hdone := s.ioShown.startDone_out
  obtain ⟨u, hu, hshown⟩ : ∃ u : State, (u.get R.RMC_STAT_IO_READY = 1 ∧ u.get R.RMC_EVT_IO_READY = 1 ∧ u.get R.RMC_STAT_ACT_OUT = s.actsOut % 16 ∧
      u.get V.fwRst = 0) ∧ Out noticeOut u s.ioShown := by
    refine ⟨_, ?_, Out.post _ _ _ _ _ (State.noticeAll_out _ _ _ (.refl _) (Key.sub_refl _)) rfl⟩
    simp [State.get_put, hfw]
  obtain ⟨hready, hevt, hout, hrst⟩ := hu
  have hstill : s.ioShown.startDone.get V.fwRst = 0 := by rw [hdone.read _ (by decide), hshown.read _ (by decide), hrst]
  rw [ioReady_clean hup hno hset, State.fwAdvance_none hstill]
  refine ⟨?_, ?_, ?_⟩
  · rw [hdone.read _ (by decide), hshown.read _ (by decide), hready]
  · rw [hdone.read _ (by decide), hshown.read _ (by decide), hevt]
  · rw [hdone.read _ (by decide), hshown.read _ (by decide), hout]

/-! ## The end of the spindle's short (R206, R217) -/

/-- A change of the spindle's state shows the state. -/
theorem State.get_crlTo_state (s : State) (st : Nat) : (s.crlTo st).get R.CRL_STAT_STATE = st % 16 := by
  have hpw (u : State) (n k : Nat) (v : Int) : (u.setPw n k v).get R.CRL_STAT_STATE = u.get R.CRL_STAT_STATE :=
    (State.setPw_out n k v (.refl u) (Key.sub_refl _)).read _ (by decide)
  have hrefs (u : State) : u.driveRefs.get R.CRL_STAT_STATE = u.get R.CRL_STAT_STATE :=
    (State.driveRefs_out (.refl u) (Key.sub_refl _)).read _ (by decide)
  simp [State.crlTo, apply_ite (fun u : State => u.get R.CRL_STAT_STATE), hpw, hrefs, State.when, State.get_put]

/-- A spindle that stopped has no permission left, and nothing else follows without a restart of the firmware under way. -/
theorem State.stopped_crl {s : State} (hst : s.get R.CRL_STAT_STATE = crlSTOPPED) (hfw : s.get V.fwRst = 0) : s.stopped = s.put V.crlPerm 0 := by
  have hperm : (s.put V.crlPerm 0).get V.fwRst = 0 := by rw [State.get_put_other _ _ (by decide), hfw]
  rw [State.stopped, State.crlSt, hst, decide_eq_true rfl]
  exact State.fwAdvance_none hperm

theorem shortTimer_attempt {s : State} (hst : s.crlSt = crlSHORT) (hatt : s.get V.crlStopAtt = 1) :
    s.shortTimer = (s.puts [(V.crlStopAtt, 0), (V.crlFailed, 0), (R.CRL_STAT_ATTEMPT, 0)]).crlTo crlSTOPPED := by
  simp [State.shortTimer, hst, State.on, hatt]

theorem shortQuiet_ends {s : State} (hst : s.crlSt = crlSHORT) (hatt : s.get V.crlStopAtt = 0) (hfail : s.get V.crlFailed = 0) :
    s.shortQuiet = ((s.puts [(R.CRL_SPEED_SPEED, 0), (V.crlSpdOk, 1), (R.CRL_STAT_SRC, 0), (R.CRL_STAT_ATTEMPT, 0), (V.crlChop, 0),
      (V.crlOffN, 0)]).setAtSp false).crlTo crlSTOPPED := by
  simp [State.shortQuiet, hst, State.on, hatt, hfail]

theorem shortTimerEnd_stops {s : State} (hst : s.crlSt = crlSHORT) (hatt : s.get V.crlStopAtt = 1) (hfw : s.get V.fwRst = 0) :
    (shortTimerEnd s).get R.CRL_STAT_STATE = crlSTOPPED ∧ (shortTimerEnd s).get V.crlStopAtt = 0 ∧ (shortTimerEnd s).get V.crlPerm = 0 := by
  have hstop := State.crlTo_out crlSTOPPED (.refl (s.puts [(V.crlStopAtt, 0), (V.crlFailed, 0), (R.CRL_STAT_ATTEMPT, 0)])) (Key.sub_refl _)
  have hcrl := (s.puts [(V.crlStopAtt, 0), (V.crlFailed, 0), (R.CRL_STAT_ATTEMPT, 0)]).get_crlTo_state crlSTOPPED
  rw [← shortTimer_attempt hst hatt] at hstop hcrl
  have hrst : s.shortTimer.get V.fwRst = 0 := by
    rw [hstop.read _ (by decide)]
    simp [State.get_put, hfw]
  have hclr : s.shortTimer.get V.crlStopAtt = 0 := by
    rw [hstop.read _ (by decide)]
    simp [State.get_put]
  rw [shortTimerEnd, State.stopped_crl hcrl hrst]
  simp [State.get_put, hcrl, hclr, crlSTOPPED]

theorem shortQuietEnd_stops {s : State} (hst : s.crlSt = crlSHORT) (hatt : s.get V.crlStopAtt = 0) (hfail : s.get V.crlFailed = 0)
    (hfw : s.get V.fwRst = 0) :
    (shortQuietEnd s).get R.CRL_STAT_STATE = crlSTOPPED ∧ (shortQuietEnd s).get R.CRL_SPEED_SPEED = 0 ∧ (shortQuietEnd s).get V.crlPerm = 0 := by
  have hquiet := shortQuiet_ends hst hatt hfail
  obtain ⟨u, hu, hspd, hrst⟩ : ∃ u : State, s.shortQuiet = u.crlTo crlSTOPPED ∧ u.get R.CRL_SPEED_SPEED = 0 ∧ u.get V.fwRst = 0 := by
    have hset := State.setAtSp_out false (.refl (s.puts [(R.CRL_SPEED_SPEED, 0), (V.crlSpdOk, 1), (R.CRL_STAT_SRC, 0), (R.CRL_STAT_ATTEMPT, 0),
      (V.crlChop, 0), (V.crlOffN, 0)])) (Key.sub_refl _)
    refine ⟨_, hquiet, ?_, ?_⟩
    · rw [hset.read _ (by decide)]
      simp [State.get_put]
    · rw [hset.read _ (by decide)]
      simp [State.get_put, hfw]
  have hstop := State.crlTo_out crlSTOPPED (.refl u) (Key.sub_refl _)
  have hcrl := u.get_crlTo_state crlSTOPPED
  rw [shortQuietEnd, hu, State.stopped_crl hcrl (by rw [hstop.read _ (by decide), hrst]), State.get_put_other _ _ (by decide), hcrl,
    State.get_put_other _ _ (by decide), hstop.read _ (by decide), hspd, State.get_put_same]
  exact ⟨rfl, rfl, rfl⟩

/-! ## The spindle's permission (R388, R488 to R490) -/

/-- Under slot mode 0 the permission is asked for after a back-off. -/
theorem State.spinCheck_backsOff {s : State} (hcrl : s.crlSt = crlSTOPPED) (hsp : s.get R.CRL_STAT_SP ≠ 0) (hsag : s.get V.sagWait = 0)
    (hlow : s.get V.spinLow = 0) (hperm : s.get V.crlPerm = 0) (hmode : s.get V.spinMode = 0) (hst : s.get V.spinSt = 0) :
    s.spinCheck = s.puts [(V.spinSt, 1), (V.spinFrom, s.get V.msNow), (V.spinLen, s.backoff (s.get V.spinTry))] := by
  simp [State.spinCheck, State.on, hcrl, hsp, hsag, hlow, hperm, hmode, hst]

theorem State.spinCheck_goes {s : State} (hcrl : s.crlSt = crlSTOPPED) (hsp : s.get R.CRL_STAT_SP ≠ 0) (hsag : s.get V.sagWait = 0)
    (hlow : s.get V.spinLow = 0) (hperm : s.get V.crlPerm = 0) (hmode : s.get V.spinMode = 1) : s.spinCheck = s.spinGo := by
  simp [State.spinCheck, State.on, hcrl, hsp, hsag, hlow, hperm, hmode]

theorem State.spinGo_granted {s : State} (hgrant : s.grantSeen = true) : s.spinGo.get V.crlPerm = 1 := by
  have hvin := State.setVinBudget_out (10 * s.spinBudget) (.refl (s.put V.crlPerm 1)) (Key.sub_refl _)
  generalize hu : (s.put V.crlPerm 1).setVinBudget (10 * s.spinBudget) = u at hvin
  have hgo : s.spinGo = ((u.when (decide (s.get V.spinMode = 0)) fun v => v.put V.spinSt 0).stepEnd 6).tryStart := by
    simp only [State.spinGo, if_pos hgrant, hu]
  have htry : Out (spinCheckOut.filter fun k => !k.hasb V.crlPerm) (u.when (decide (s.get V.spinMode = 0)) fun v => v.put V.spinSt 0) s.spinGo := by
    rw [hgo]
    exact State.tryStart_out (State.stepEnd_out 6 (.refl _) rfl) rfl
  rw [htry.read _ (by decide),
    State.proj_when _ _ (·.get V.crlPerm) (State.get_put_other _ _ (by decide)), hvin.read _ (by decide), State.get_put_same]
  rfl

/-- Without a grant that the controller sees, the permission is not yet given and nothing changes. -/
theorem State.spinCheck_ungranted {s : State} (hgrant : s.grantSeen = false) (hst : s.get V.spinSt ≠ 0) : s.spinCheck = s := by
  have hgo : s.spinGo = s := by simp [State.spinGo, hgrant]
  simp [State.spinCheck, hgo, hst]

/-- The end of a wait without a grant: the permission is due and no more. -/
theorem State.spinCheck_due {s : State} (hgrant : s.grantSeen = false) : (s.put V.spinSt 2).spinCheck = s.put V.spinSt 2 := by
  refine State.spinCheck_ungranted ?_ (by simp)
  simpa [State.grantSeen, State.seen, State.get_put] using hgrant

/-- Settles O29, clause by clause. -/
theorem resetAndStartCommandsComplete : Obligations.ResetAndStartCommandsComplete := by
  unfold Obligations.ResetAndStartCommandsComplete
  refine ⟨?_, ?_, ?_, ?_, ?_, ?_, ?_, ?_, ?_, ?_, ?_, ?_, ?_, ?_, ?_, ?_, ?_, ?_, ?_⟩
  case refine_1 =>
    intro s hvin
    obtain ⟨u, hu, hpow⟩ := powerOnReset_of_off hvin
    obtain ⟨hvin, hsrc, hseq, hquiet⟩ := State.powered_of_dieReset hu
    exact ⟨_, congrArg Host.Outcome.next hpow, hvin, hsrc, hseq, hquiet.cmds, hquiet.reqs, hquiet.ctrls⟩
  case refine_2 =>
    intro s hvin
    obtain ⟨hoff, hinbox, hopen, hbuf, hquiet⟩ := vin5Loss_of_powered hvin
    exact ⟨_, rfl, hoff, hinbox, hopen, hbuf, hquiet.cmds, hquiet.reqs, hquiet.ctrls⟩
  case refine_3 =>
    intro s hvin hen
    have hrail : railLossReset s = s.restart2 2 := by simp [railLossReset, State.on, hvin, hen]
    obtain ⟨hsrc, hstep⟩ := s.restart2_cause 2
    have hquiet := s.restart2_quiet 2
    exact ⟨_, congrArg Host.Outcome.next hrail, hsrc, hstep, hquiet.cmds, hquiet.reqs, hquiet.ctrls⟩
  case refine_4 =>
    intro s hvin hup
    have hring : ringmasterRestart s = s.restart3 5 := by simp [ringmasterRestart, State.on, hvin, hup]
    have hquiet := s.restart3_quiet 5
    exact ⟨_, congrArg Host.Outcome.next hring, hquiet.cmds, hquiet.reqs, hquiet.ctrls⟩
  case refine_5 =>
    intro s hfw hrest
    have hquiet := s.restart3_quiet 4
    exact ⟨_, congrArg Host.Outcome.next (State.fwAdvance_atRest hfw hrest), hquiet.cmds, hquiet.reqs, hquiet.ctrls⟩
  case refine_6 =>
    intro s hstage
    obtain ⟨u, hu⟩ : ∃ u, stage2 s = State.restart3 u 3 := ⟨_, if_neg (not_not.mpr hstage)⟩
    have hquiet := u.restart3_quiet 3
    exact ⟨_, congrArg Host.Outcome.next hu, hquiet.cmds, hquiet.reqs, hquiet.ctrls⟩
  case refine_7 =>
    intro s hoff hvin hseq hup
    refine ⟨_, congrArg Host.Outcome.next (pwrEnStep_up hoff hvin hseq hup), ?_⟩
    have hfit : 2 ^ (s.pwrUp + 1) ≤ 2 ^ 6 := Nat.pow_le_pow_right (by decide) (by omega)
    rw [(State.showPbl_out (.refl _) (Key.sub_refl _)).read _ (by decide), State.get_put_same]
    exact Nat.mod_eq_of_lt (by change _ < 2 ^ 6; omega)
  case refine_8 =>
    intro n s hrc
    refine ⟨_, rfl, ?_⟩
    simp [xtalFail, State.on, hrc, State.get_put]
  case refine_9 => exact fun s => ⟨_, rfl, State.get_put_same ..⟩
  case refine_10 => exact fun s hup hno hset hfw _ => ⟨_, rfl, ioReady_ready hup hno hset hfw⟩
  case refine_11 =>
    intro s hup hno hlate hstep hfw
    refine ⟨_, rfl, ?_⟩
    have hwait : ¬s.get R.RMC_STAT_STEP < 7 := Nat.not_lt.mpr hstep
    simp only [startLate, State.on, hup, hno, hlate, hwait]
    rw [if_neg (by decide), State.fwAdvance_none (by simp [State.get_put, hfw])]
    simp
  case refine_12 => exact fun s hst hatt hfw => ⟨_, rfl, shortTimerEnd_stops hst hatt hfw⟩
  case refine_13 => exact fun s hst hatt hfail hfw => ⟨_, rfl, shortQuietEnd_stops hst hatt hfail hfw⟩
  case refine_14 =>
    intro s hcrl hsp hsag hlow hperm hmode hst
    refine ⟨_, congrArg Host.Outcome.next (State.spinCheck_backsOff hcrl hsp hsag hlow hperm hmode hst), ?_⟩
    simp [State.get_put]
  case refine_15 =>
    intro s hcrl hsp hsag hlow hperm hmode hgrant
    exact ⟨_, congrArg Host.Outcome.next (State.spinCheck_goes hcrl hsp hsag hlow hperm hmode), State.spinGo_granted hgrant⟩
  case refine_16 =>
    intro b s
    refine ⟨_, rfl, ?_⟩
    rw [spinHoldChange, (State.spinCheck_out (.refl _) (Key.sub_refl _)).read _ (by decide), State.putB, State.get_put_same]
    cases b <;> rfl
  case refine_17 =>
    intro s hmode hst hgrant
    refine ⟨_, rfl, ?_⟩
    rw [spinBackoffEnd, if_pos ⟨hmode, hst⟩, State.spinCheck_due hgrant]
    exact State.get_put_same ..
  case refine_18 =>
    intro s hmode hst hgrant
    refine ⟨_, rfl, ?_⟩
    rw [spinDelayEnd, if_pos ⟨hmode, hst⟩, State.spinCheck_due hgrant]
    exact State.get_put_same ..
  case refine_19 =>
    intro s hsag
    refine ⟨_, rfl, ?_⟩
    have hwait : s.on V.sagWait = true := by simp [State.on, hsag]
    rw [sagWaitEnd, if_pos hwait, (State.spinCheck_out (.refl _) (Key.sub_refl _)).read _ (by decide),
      (State.evalSp_out (.refl _) (Key.sub_refl _)).read _ (by decide)]
    simp [State.get_put]

end Sys2Proof.Machine

/-!
PROOFS. Wardrobe's flash operations and the Safety Net's stages (R409 to R411, R420, R422).
-/

namespace Sys2Proof.Machine

set_option Elab.async false

/-! ## The operations of a bank (R409, R410) -/

theorem State.fops_setBit (s : State) (f : Fld) (a : Nat) (b : Bool) : (s.setBit f a b).fops = s.fops := by
  by_cases hbit : bitOf (s.get f) a = b <;> simp [State.setBit, hbit]

@[simp] theorem State.bankOps_setOps (s : State) (b : Nat) (l : List FlashOp) : (s.setOps b l).bankOps b = l := by
  cases l with
  | nil => simp [State.setOps, State.bankOps, State.fops_setBit]
  | cons o l => simp [State.setOps, State.bankOps, State.fops_setBit]

theorem State.bankOps_startProg (s : State) (a : Nat) (d : List Byte) :
    (s.startProg a d).bankOps (a / 67108864) = ⟨false, a / 65536, a, d, false, 0⟩ :: s.bankOps (a / 67108864) :=
  State.bankOps_setOps ..

theorem State.bankOps_startErase (s : State) (g : Nat) :
    (s.startErase g).bankOps (g / 1024) = ⟨true, g, g * 65536, [], false, 0⟩ :: s.bankOps (g / 1024) :=
  State.bankOps_setOps ..

/-- A program in an idle bank begins at once. -/
theorem State.reqProg_idle {s : State} {a : Nat} (d : List Byte) (ran : Nat) (hidle : s.bankOps (a / 67108864) = [])
    (hhold : bitOf (s.get R.WDB_CTL_HOLD) (a / 67108864) = false) : s.reqProg a d ran = s.startProg a d := by
  have hbank : a / 65536 / 1024 = a / 67108864 := Nat.div_div_eq_div_mul ..
  have herase : s.underErase (a / 65536) = false := by simp [State.underErase, hbank, hidle]
  simp [State.reqProg, herase, hhold, hidle]

theorem State.reqErase_idle {s : State} {g : Nat} (hidle : s.bankOps (g / 1024) = [])
    (hhold : bitOf (s.get R.WDB_CTL_HOLD) (g / 1024) = false) : s.reqErase g = s.startErase g := by
  simp [State.reqErase, hidle, hhold]

/-- A read of an idle bank answers the bytes of the flash. -/
theorem State.serveRead_idle {s : State} {a : Nat} (n : Nat) (hidle : s.bankOps (a / 67108864) = []) :
    (s.serveRead a n).fread = s.fbytes a n := by
  simp [State.serveRead, hidle, State.fbytes]

theorem State.length_serveRead (s : State) (a n : Nat) : (s.serveRead a n).fread.length = n := by
  simp [State.serveRead]

/-! ## The end of an operation (R409) -/

/-- What follows a bank's operation leaves the flash. -/
theorem State.flash_bankNext (s : State) (b : Nat) : (s.bankNext b).flash = s.flash :=
  (State.bankNext_out b (.refl s) (Key.sub_refl _)).part .flash (by simp [pumpOut])

theorem State.flash_setOps (s : State) (b : Nat) (l : List FlashOp) : (s.setOps b l).flash = s.flash :=
  (State.setOps_out b l (.refl s) (Key.sub_refl _)).part .flash (by simp)

theorem State.flash_showPbl (s : State) : s.showPbl.flash = s.flash :=
  (State.showPbl_out (.refl s) (Key.sub_refl _)).part .flash (by simp)

theorem State.flash_fwPage (s : State) (a : Nat) : (s.fwPage a).flash = s.flash :=
  (State.fwPage_out a (.refl s) (Key.sub_refl _)).part .flash (by simp)

theorem State.flash_ringSpoilt (s : State) (o : FlashOp) : (s.ringSpoilt o).flash = s.flash :=
  (State.ringSpoilt_out o (.refl s) (Key.sub_refl _)).part .flash (by simp)

theorem State.flash_ringTook (s : State) (n : Nat) : (s.ringTook n).flash = s.flash :=
  (State.ringTook_out n (.refl s) (Key.sub_refl _)).part .flash (by simp)

theorem State.flash_ringErased (s : State) (b : Nat) : (s.ringErased b).flash = s.flash :=
  (State.ringErased_out b (.refl s) (Key.sub_refl _)).part .flash (by simp)

theorem State.flash_ringProgEnd (s : State) (o : FlashOp) : (s.ringProgEnd o true).flash = progBytes s.flash o.addr o.data := by
  simp only [State.ringProgEnd, State.flash_showPbl, State.flash_bankNext, if_true]
  split
  · rw [State.flash_ringSpoilt, State.flash_setOps, State.progNow]
  · rw [State.flash_ringTook, State.flash_setOps, State.progNow]

theorem State.flash_ringEraseEnd (s : State) (o : FlashOp) :
    (s.ringEraseEnd o true).flash = s.flash.filter fun e => decide (e.1 / 65536 ≠ o.blk) := by
  simp only [State.ringEraseEnd, State.flash_showPbl, State.flash_bankNext, if_true, State.flash_ringErased, State.flash_setOps]
  rfl

theorem flashProgramDone_flash {b : Fin 4} {o : FlashOp} {l : List FlashOp} {s : State} (hops : s.bankOps b = o :: l)
    (hprog : o.erase = false) (hrun : o.susp = false) : (flashProgramDone b true s).flash = progBytes s.flash o.addr o.data := by
  simp only [flashProgramDone, hops, hprog, hrun, Bool.false_eq_true, or_self, if_false, if_true]
  split
  · exact s.flash_ringProgEnd o
  · rw [State.flash_bankNext, State.flash_setOps, State.flash_fwPage, State.progNow]

theorem flashEraseDone_flash {b : Fin 4} {o : FlashOp} {l : List FlashOp} {s : State} (hops : s.bankOps b = o :: l)
    (hera : o.erase = true) (hrun : o.susp = false) :
    (flashEraseDone b true s).flash = s.flash.filter fun e => decide (e.1 / 65536 ≠ o.blk) := by
  simp only [flashEraseDone, hops, hera, hrun, Bool.not_true, Bool.false_eq_true, or_self, if_false, if_true]
  split
  · exact s.flash_ringEraseEnd o
  · rw [State.flash_bankNext, State.flash_setOps]
    rfl

/-! ## A read that suspends (R410) -/

theorem State.bankWait_setWait (s : State) (b : Nat) (l : List FlashReq) : (s.setWait b l).bankWait b = l := Tab.at_set_same ..

theorem State.bankWait_of_out {l : List Key} {s t : State} (h : Out l s t) (b : Nat) (hl : Key.p .fwait ∉ l) : t.bankWait b = s.bankWait b :=
  congrArg (Tab.at [] · b) (h.part .fwait hl)

theorem flashSuspendDue_read {b : Fin 4} {o : FlashOp} {ops : List FlashOp} {a n : Nat} {l : List FlashReq} {s : State}
    (hops : s.bankOps b = o :: ops) (hwait : s.bankWait b = .read a n :: l) (hrun : o.susp = false) (hsus : s.get R.WDB_CTL_AUTO_SUSP = 1) :
    (flashSuspendDue b s).bankWait b = l ∧ (flashSuspendDue b s).fread.length = n := by
  have hdue : flashSuspendDue b s = (((s.setWait b l).suspendOp b).serveRead a n).resumeOp b := by
    simp [flashSuspendDue, hops, hwait, hrun, State.on, hsus]
  have hserve : Out [.w 20 8, .w 20 12, .a 20 32 4, .w 20 72, .a 65 15400960 268435456, .p .fops, .p .edges, .p .inbox, .p .fread]
      (s.setWait b l) (flashSuspendDue b s) := by
    rw [hdue]
    exact State.resumeOp_out b (State.serveRead_out a n (State.suspendOp_out b (.refl _) rfl) rfl) rfl
  refine ⟨?_, ?_⟩
  · rw [State.bankWait_of_out hserve b (by simp), State.bankWait_setWait]
  · rw [hdue, (State.resumeOp_out b (.refl _) (Key.sub_refl _)).part .fread (by simp)]
    exact State.length_serveRead ..

/-! ## The hold of the banks (R411) -/

/-- A bank whose hold begins suspends its operation, and one whose hold ends goes on. -/
def State.bankHold (old m b : Nat) (s : State) : State :=
  if bitOf m b && !bitOf old b then s.suspendOp b else if !bitOf m b && bitOf old b then s.bankNext b else s

def bankHoldOut : List Key := .a 65 15400960 268435456 :: pumpOut

theorem State.bankHold_out {l : List Key} {s₀ s : State} (old m b : Nat) (h : Out l s₀ s) (hl : Key.sub bankHoldOut l = true) :
    Out l s₀ (s.bankHold old m b) :=
  Out.ite (State.suspendOp_out b h (Out.sub hl rfl)) (Out.ite (State.bankNext_out b h (Out.sub hl rfl)) h)

theorem State.setHold_hold (s : State) (m : BitVec 4) : (s.setHold m.toNat).get R.WDB_CTL_HOLD = m.toNat := by
  have hset : s.setHold m.toNat = ((s.put R.WDB_CTL_HOLD m.toNat).forAll (List.range 4)
      (State.bankHold (s.get R.WDB_CTL_HOLD) m.toNat)).showPbl := rfl
  have hbanks := Out.forAll (State.bankHold (s.get R.WDB_CTL_HOLD) m.toNat)
    (fun b u hu => State.bankHold_out (l := bankHoldOut) _ _ b hu rfl) (List.range 4) (.refl (s.put R.WDB_CTL_HOLD m.toNat))
  rw [hset, (State.showPbl_out (.refl _) (Key.sub_refl _)).read _ (by decide), hbanks.read _ (by decide), State.get_put_same]
  exact Nat.mod_eq_of_lt m.isLt

/-! ## The Safety Net (R422) -/

/-- The first count of a Safety Net that is armed. -/
theorem State.armed (s : State) {t1 : Nat} (ms : Nat) (ht1 : t1 ≤ 600) :
    let t := s.puts [(R.SNT_STAT_STAGE, 1), (V.sntT1, t1), (V.sntMs, ms), (R.SNT_STAT_REMAIN, t1 * 10)]
    t.get R.SNT_STAT_STAGE = 1 ∧ t.get V.sntT1 = t1 ∧ t.get R.SNT_STAT_REMAIN = t1 * 10 := by
  refine ⟨by simp [State.get_put], ?_, ?_⟩ <;> simp [State.get_put] <;> omega

theorem sntEnableCmd_of_off {s : State} (hoff : s.get R.SNT_CTL_EN = 0) (hlo : 5 ≤ s.get R.SNT_CFG_T1) (hhi : s.get R.SNT_CFG_T1 ≤ 600) :
    sntEnableCmd s = (s.put R.SNT_CTL_EN 1).puts [(R.SNT_STAT_STAGE, 1), (V.sntT1, s.get R.SNT_CFG_T1),
      (V.sntMs, (s.put R.SNT_CTL_EN 1).get V.msNow), (R.SNT_STAT_REMAIN, s.get R.SNT_CFG_T1 * 10)] := by
  simp only [sntEnableCmd, State.sntEnable]
  rw [State.enable_of_pass hoff (by simp [inR, hlo, hhi])]

theorem sntKick_bad {v : BitVec 16} (s : State) (hbad : v ≠ 0xC35A#16) :
    sntKickCmd v s = (s.evt R.SNT_EVT_BAD_KICK).count R.SNT_CNT_BADKICK := by
  have hne : v.toNat ≠ 0xC35A := fun h => hbad (BitVec.eq_of_toNat_eq h)
  exact if_pos hne

theorem stage1_of_first (c : BitVec 8) {s : State} (hst : s.get R.SNT_STAT_STAGE = 1) :
    (stage1 c s).get R.SNT_STAT_STAGE = 2 ∧ (stage1 c s).get R.SNT_STAT_REMAIN = 200 ∧ (stage1 c s).get R.SNT_EVT_STAGE1 = 1 := by
  obtain ⟨u, hu, hstage, hremain, hevt⟩ : ∃ u : State, (stage1 c s = (u.count R.SNT_CNT_STAGE1).post 0x15 0x10 warning noInst [s.get V.sntT1, c.toNat]) ∧
      u.get R.SNT_STAT_STAGE = 2 ∧ u.get R.SNT_STAT_REMAIN = 200 ∧ u.get R.SNT_EVT_STAGE1 = 1 := by
    refine ⟨_, if_neg (not_not.mpr hst), ?_, ?_, ?_⟩ <;> simp [State.get_put]
  rw [hu]
  refine ⟨?_, ?_, ?_⟩
  · exact (State.get_count_other u _ _ (.inr (by decide))).trans hstage
  · exact (State.get_count_other u _ _ (.inr (by decide))).trans hremain
  · exact (State.get_countN_other u _ _ 1 (by decide) (by decide) (by decide)).trans hevt

/-- Settles O21, clause by clause. -/
theorem flashAndWatchdogCommandsComplete : Obligations.FlashAndWatchdogCommandsComplete := by
  unfold Obligations.FlashAndWatchdogCommandsComplete
  refine ⟨?_, ?_, ?_, ?_, ?_, ?_, ?_, ?_, ?_, ?_, ?_, ?_⟩
  case refine_1 =>
    intro a n r s ha han hidle hpow
    refine ⟨s.serveRead a.toNat n.toNat, ?_, State.serveRead_idle n.toNat hidle⟩
    have hin : ¬(flashSize < a.toNat + n.toNat ∨ flashSize ≤ a.toNat) := by simp only [flashSize]; omega
    have hrun : exec (.flashRead a n r) s = flashRead a n r s := rfl
    simp only [hrun, flashRead, if_neg hin, State.flashOn, hpow, hidle]
    rfl
  case refine_2 =>
    intro a d r s ha hidle hhold hpow
    refine ⟨s.startProg a.toNat (d.take (256 - a.toNat % 256)), ?_, ?_⟩
    · have hin : ¬flashSize ≤ a.toNat := Nat.not_le.mpr ha
      have hrun : exec (.flashProgram a d r) s = flashProgram a d r s := rfl
      simp [hrun, flashProgram, hin, State.flashOn, hpow, State.reqProg_idle _ _ hidle hhold]
    · rw [State.bankOps_startProg, hidle]
  case refine_3 =>
    intro g s hg hidle hhold hpow
    refine ⟨s.startErase g.toNat, ?_, ?_⟩
    · have hin : ¬4096 ≤ g.toNat := Nat.not_le.mpr hg
      have hrun : exec (.flashErase g) s = flashErase g s := rfl
      simp [hrun, flashErase, hin, State.flashOn, hpow, State.reqErase_idle hidle hhold]
    · rw [State.bankOps_startErase, hidle]
  case refine_4 => exact fun b o l s hops hprog hrun => ⟨_, rfl, flashProgramDone_flash hops hprog hrun⟩
  case refine_5 => exact fun b o l s hops hera hrun => ⟨_, rfl, flashEraseDone_flash hops hera hrun⟩
  case refine_6 => exact fun b o ops a n l s hops hwait hrun hsus => ⟨_, rfl, flashSuspendDue_read hops hwait hrun hsus⟩
  case refine_7 => exact fun m s => ⟨_, rfl, s.setHold_hold m⟩
  case refine_8 =>
    intro s hopen
    have hon : s.on V.fwOpen = true := by simp [State.on, hopen]
    refine ⟨_, congrArg Host.Outcome.next (if_pos hon), ?_, ?_⟩ <;> simp [State.get_put]
  case refine_9 =>
    intro s hoff hlo hhi
    obtain ⟨hstage, ht1, hremain⟩ := (s.put R.SNT_CTL_EN 1).armed ((s.put R.SNT_CTL_EN 1).get V.msNow) hhi
    exact ⟨_, congrArg Host.Outcome.next (sntEnableCmd_of_off hoff hlo hhi), by simp [State.get_put], hstage, ht1, hremain⟩
  case refine_10 =>
    intro s hst hhi
    have hkick : sntKickCmd 0xC35A#16 s = s.puts [(R.SNT_STAT_STAGE, 1), (V.sntT1, s.get R.SNT_CFG_T1), (V.sntMs, s.get V.msNow),
        (R.SNT_STAT_REMAIN, s.get R.SNT_CFG_T1 * 10)] := by
      simp [sntKickCmd, State.sntKick, hst]
    exact ⟨_, congrArg Host.Outcome.next hkick, s.armed _ hhi⟩
  case refine_11 =>
    intro v s hbad
    refine ⟨_, congrArg Host.Outcome.next (sntKick_bad s hbad), ?_, ?_⟩
    · rw [State.count, State.get_countN_other _ _ _ 1 (by decide) (by decide) (by decide)]
      simp
    · rw [State.get_count_other _ _ _ (.inr (by decide))]
      simp
  case refine_12 => exact fun c s hst => ⟨_, rfl, stage1_of_first c hst⟩

end Sys2Proof.Machine

/-!
PROOFS. Trapeze's microwords (R165 to R167).
-/

namespace Sys2Proof.Machine

set_option Elab.async false

/-! ## What an operand reads (R165, R174) -/

/-- A field that no operand reads: a field of Trapeze that is no group result. -/
def Fld.unread (k : Fld) : Prop := k.blk = 0x0F ∧ ∀ i, k ≠ V.trzGrp i

theorem V.trzPc_unread : V.trzPc.unread := ⟨rfl, fun i => by simp⟩

theorem V.trzSatd_unread : V.trzSatd.unread := ⟨rfl, fun i => by simp⟩

theorem State.get_put_foreign (s : State) {k j : Fld} (v : Nat) (hk : k.unread) (hj : j.blk ≠ 0x0F) : (s.put k v).get j = s.get j :=
  State.get_put_other _ _ fun h => hj (h ▸ hk.1)

theorem State.phase_put (s : State) {k : Fld} (v : Nat) (hk : k.unread) (i : Nat) : (s.put k v).phase i = s.phase i := by
  simp [State.phase, State.getI, State.get_put_foreign _ _ hk]

theorem State.pw_put (s : State) (k : Fld) (v n a : Nat) : (s.put k v).pw n a = s.pw n a := rfl

theorem State.inputCurrent_put (s : State) {k : Fld} (v : Nat) (hk : k.unread) : (s.put k v).inputCurrent = s.inputCurrent := by
  simp [State.inputCurrent, State.getI, State.phase_put _ _ hk, State.get_put_foreign _ _ hk]

theorem State.trzIn_put (s : State) {k : Fld} (v : Nat) (hk : k.unread) (c : Nat) : (s.put k v).trzIn c = s.trzIn c := by
  simp [State.trzIn, State.getI, State.srvSt, State.inputCurrent_put _ _ hk, State.get_put_foreign _ _ hk, State.pw_put]
  rfl

theorem State.sharedVal_put (s : State) {k : Fld} (v : Nat) (hk : k.unread) (a : Nat) : (s.put k v).sharedVal a = s.sharedVal a := by
  simp only [State.sharedVal, State.trzIn_put _ _ hk, State.getI]
  rw [State.get_put_other _ _ fun h => hk.2 _ h.symm]

@[simp] theorem State.opnd_put (s : State) {k : Fld} (v : Nat) (hk : k.unread) (n a : Nat) : (s.put k v).opnd n a = s.opnd n a := by
  simp [State.opnd, State.pw_put, State.sharedVal_put _ _ hk]

/-- What a word may write is read back as a 32 bit number. -/
theorem State.opnd_setOpnd (s : State) (n : Nat) {a : Nat} (v : Int) (ha : 128 ≤ a) :
    (s.setOpnd n a v).opnd n a = toSigned 32 (ofSigned 32 v) := by
  have hlow : ¬a < 128 := by omega
  by_cases hmid : a < 256
  · simp [State.setOpnd, State.opnd, hlow, hmid]
  · have hne : toSigned 32 (ofSigned 32 v) ≠ 4294967296 := by
      have hfit : ofSigned 32 v < 2 ^ 32 := by simp only [ofSigned]; omega
      unfold toSigned
      split <;> omega
    simp [State.setOpnd, State.opnd, hlow, hmid, hne]

theorem State.get_setOpnd (s : State) (n : Nat) {a : Nat} (v : Int) (k : Fld) (ha : 128 ≤ a) : (s.setOpnd n a v).get k = s.get k := by
  simp only [State.setOpnd, if_neg (show ¬a < 128 by omega)]
  split <;> rfl

/-- A saturated sum is the sum limited to 32 bits; its flag is no operand. -/
theorem State.sat32_snd (s : State) (v : Int) : (s.sat32 v).2 = clampI (-2147483648) 2147483647 v := rfl

theorem State.get_sat32 (s : State) (v : Int) : (s.sat32 v).1.get V.trzPc = s.get V.trzPc := by
  simp only [State.sat32]
  split
  · rfl
  · exact State.get_put_other _ _ (by decide)

/-! ## The word that runs (R166) -/

/-- The state in which a word runs: the fault's bits are in the store and the program counter is at the next word. -/
def State.trzAt (s u : State) : State := u.put V.trzPc s.trzNextPc

theorem State.trzAt_pc (s u : State) : (s.trzAt u).get V.trzPc = (s.get V.trzPc + 1) % 8192 := by
  rw [State.trzAt, State.get_put_same]
  exact Nat.mod_mod ..

theorem State.trzWord_runs {opc : Nat} {f w : TrzWord} {s u : State} (op : Nat → TrzWord → State → State) (h : s.trzRuns opc f w u)
    (hcmt : twCmt w = false) : s.trzWord opc f op = op (s.get R.TRZ_STAT_LOOP) w (s.trzAt u) := by
  obtain ⟨hrun, hbusy, hwait, hscrub, hu, hw, hcheck, hop⟩ := h
  have hnot : ¬(s.get R.TRZ_STAT_STATE ≠ trzRUN ∨ !s.on R.TRZ_STAT_BUSY ∨ s.on V.trzWait ∨ s.get V.trzPc ∈ s.tscrub) := by
    simp [hrun, State.on, hbusy, hwait] at hscrub ⊢
    exact hscrub
  simp only [State.trzWord, if_neg hnot, ← hu, ← hw, hcheck, hop, ne_eq, not_true, if_false, hcmt, Bool.false_eq_true, false_and]
  rfl

section
variable {opc : Nat} {f w : TrzWord} {s u : State} (h : s.trzRuns opc f w u)
include h

theorem State.trzRuns_out : Out [.p .cstore] s u := by
  obtain ⟨-, -, -, -, hu, -⟩ := h
  exact hu ▸ State.trzUpset_out _ f (.refl s) (Key.sub_refl _)

theorem State.trzAt_get {k : Fld} (hk : k ≠ V.trzPc) : (s.trzAt u).get k = s.get k := by
  rw [State.trzAt, State.get_put_other _ _ hk]
  exact (State.trzRuns_out h).read k rfl

theorem State.trzAt_tstk : (s.trzAt u).tstk = s.tstk := (State.trzRuns_out h).part .tstk (by simp)

theorem State.trzAt_opnd (n a : Nat) : (s.trzAt u).opnd n a = s.opnd n a := by
  obtain ⟨-, -, -, -, hu, -⟩ := h
  rw [State.trzAt, State.opnd_put _ _ V.trzPc_unread, hu, State.trzUpset]
  split <;> rfl

end

/-- A word whose result goes to an operand above the loop's own leaves it there and the program counter at the next word. -/
theorem State.trzAt_setOpnd (s u : State) {n a : Nat} (v : Int) (ha : 128 ≤ a) :
    ((s.trzAt u).setOpnd n a v).opnd n a = toSigned 32 (ofSigned 32 v) ∧
      ((s.trzAt u).setOpnd n a v).get V.trzPc = (s.get V.trzPc + 1) % 8192 :=
  ⟨State.opnd_setOpnd _ n v ha, (State.get_setOpnd _ n v _ ha).trans (State.trzAt_pc s u)⟩

/-- So does a word whose result is saturated. -/
theorem State.trzAt_setSat (s u : State) {n a : Nat} (v : Int) (ha : 128 ≤ a) :
    let t := ((s.trzAt u).sat32 v).1.setOpnd n a ((s.trzAt u).sat32 v).2
    t.opnd n a = toSigned 32 (ofSigned 32 (clampI (-2147483648) 2147483647 v)) ∧ t.get V.trzPc = (s.get V.trzPc + 1) % 8192 := by
  refine ⟨State.opnd_setOpnd _ n _ ha, ?_⟩
  rw [State.get_setOpnd _ _ _ _ ha, State.get_sat32, State.trzAt_pc s u]

theorem slBits_lt (q : BitVec 32) (lo n : Nat) : slBits q lo n < 2 ^ n := Nat.mod_lt _ (Nat.two_pow_pos n)

/-- Settles O15, microword by microword. -/
theorem trapezeMicrowordsComplete : Obligations.TrapezeMicrowordsComplete := by
  unfold Obligations.TrapezeMicrowordsComplete
  refine ⟨?_, ?_, ?_, ?_, ?_, ?_, ?_, ?_, ?_, ?_, ?_, ?_, ?_, ?_, ?_, ?_, ?_, ?_, ?_, ?_, ?_, ?_⟩
  case refine_1 => exact fun f w s u h hc => ⟨_, congrArg Host.Outcome.next (State.trzWord_runs _ h hc), State.trzAt_pc s u⟩
  case refine_2 =>
    intro f w s u h hc
    refine ⟨_, congrArg Host.Outcome.next (State.trzWord_runs _ h hc), ?_⟩
    exact (State.get_put_same ..).trans (Nat.mod_eq_of_lt (slBits_lt w.s0 13 13))
  case refine_3 =>
    intro f w s u h hc hcond
    refine ⟨_, congrArg Host.Outcome.next ((State.trzWord_runs _ h hc).trans (if_pos hcond)), ?_⟩
    exact (State.get_put_same ..).trans (Nat.mod_eq_of_lt (slBits_lt w.s0 13 13))
  case refine_4 =>
    intro f w s u h hc hcond
    refine ⟨_, congrArg Host.Outcome.next ((State.trzWord_runs _ h hc).trans (if_neg (Bool.eq_false_iff.mp hcond))), State.trzAt_pc s u⟩
  case refine_5 =>
    intro f w s u h hc hdeep
    have hroom : ¬4 ≤ (s.trzAt u).tstk.length := by rw [State.trzAt_tstk h]; omega
    refine ⟨_, congrArg Host.Outcome.next ((State.trzWord_runs _ h hc).trans (if_neg hroom)), ?_, ?_⟩
    · exact (State.get_put_same ..).trans (Nat.mod_eq_of_lt (slBits_lt w.s0 13 13))
    · change (s.trzAt u).get V.trzPc :: (s.trzAt u).tstk = _
      rw [State.trzAt_pc, State.trzAt_tstk h]
  case refine_6 =>
    intro f w pc r s u h hc hstk hpc
    have hret : trzRet f s = ({ s.trzAt u with tstk := r }.put V.trzPc pc : State) := by
      rw [trzRet, State.trzWord_runs _ h hc]
      simp only [State.trzAt_tstk h, hstk]
    refine ⟨_, congrArg Host.Outcome.next hret, ?_, rfl⟩
    exact (State.get_put_same ..).trans (Nat.mod_eq_of_lt hpc)
  case refine_7 =>
    intro f w s u h hc hcond
    refine ⟨_, congrArg Host.Outcome.next ((State.trzWord_runs _ h hc).trans (if_pos hcond)), State.trzAt_pc s u, ?_⟩
    rw [State.trzAt_get h (by decide)]
    exact h.2.2.1
  case refine_8 =>
    intro f w s u h hc hcond
    refine ⟨_, congrArg Host.Outcome.next ((State.trzWord_runs _ h hc).trans (if_neg (Bool.eq_false_iff.mp hcond))), ?_, ?_, ?_, ?_⟩
    · simp [State.get_put, State.trzAt_pc]
    · simp [State.get_put]
    · simp [State.get_put, twCond]
      exact slBits_lt w.s0 9 4
    · exact (State.get_put_same ..).trans (b2n_mod _)
  case refine_9 => exact fun f w s u h hc hd => ⟨_, congrArg Host.Outcome.next (State.trzWord_runs _ h hc), State.trzAt_setOpnd s u _ hd⟩
  case refine_10 =>
    intro f w s u h hc hd
    rw [← State.trzAt_opnd h]
    exact ⟨_, congrArg Host.Outcome.next (State.trzWord_runs _ h hc), State.trzAt_setOpnd s u _ hd⟩
  case refine_11 =>
    intro f w s u h hc hd
    rw [← State.trzAt_opnd h, ← State.trzAt_opnd h _ (twB w)]
    exact ⟨_, congrArg Host.Outcome.next (State.trzWord_runs _ h hc), State.trzAt_setSat s u _ hd⟩
  case refine_12 =>
    intro f w s u h hc hd
    rw [← State.trzAt_opnd h, ← State.trzAt_opnd h _ (twB w)]
    exact ⟨_, congrArg Host.Outcome.next (State.trzWord_runs _ h hc), State.trzAt_setSat s u _ hd⟩
  case refine_13 =>
    intro f w s u h hc hd
    rw [← State.trzAt_opnd h, ← State.trzAt_opnd h _ (twB w)]
    exact ⟨_, congrArg Host.Outcome.next (State.trzWord_runs _ h hc), State.trzAt_setOpnd s u _ hd⟩
  case refine_14 =>
    intro f w s u h hc hd
    rw [← State.trzAt_opnd h, ← State.trzAt_opnd h _ (twB w)]
    exact ⟨_, congrArg Host.Outcome.next (State.trzWord_runs _ h hc), State.trzAt_setOpnd s u _ hd⟩
  case refine_15 =>
    intro f w s u h hc
    rw [← State.trzAt_opnd h, ← State.trzAt_opnd h _ (twB w)]
    refine ⟨_, congrArg Host.Outcome.next (State.trzWord_runs _ h hc), State.get_put_same .., ?_⟩
    exact (State.get_put_other _ _ (by decide)).trans (State.trzAt_pc s u)
  case refine_16 =>
    intro f w s u h hc
    rw [← State.trzAt_opnd h, ← State.trzAt_opnd h _ (twB w), ← State.trzAt_get h (k := V.trzAcc) (by decide)]
    refine ⟨_, congrArg Host.Outcome.next (State.trzWord_runs _ h hc), State.get_put_same .., ?_⟩
    exact (State.get_put_other _ _ (by decide)).trans (State.trzAt_pc s u)
  case refine_17 =>
    intro f w s u h hc hd hsat
    rw [← State.trzAt_get h (k := V.trzAcc) (by decide)]
    refine ⟨_, congrArg Host.Outcome.next (State.trzWord_runs _ h hc), ?_⟩
    simp only [hsat, if_true]
    exact State.trzAt_setSat s u _ hd
  case refine_18 =>
    intro f w s u h hc hd hsat
    rw [← State.trzAt_get h (k := V.trzAcc) (by decide)]
    refine ⟨_, congrArg Host.Outcome.next (State.trzWord_runs _ h hc), ?_⟩
    simp only [hsat, Bool.false_eq_true, if_false]
    exact State.trzAt_setOpnd s u _ hd
  case refine_19 =>
    intro f w s u h hc
    refine ⟨_, congrArg Host.Outcome.next (State.trzWord_runs _ h hc), State.get_put_same .., ?_⟩
    exact (State.get_put_other _ _ (by decide)).trans (State.trzAt_pc s u)
  case refine_20 =>
    intro f w s u h hc
    refine ⟨_, congrArg Host.Outcome.next (State.trzWord_runs _ h hc), ?_, ?_, ?_, ?_⟩
    · simp [State.putI, State.get_put]
    · simp [State.putI, State.get_put]
    · simp [State.putI, State.get_put]
      exact slBits_lt w.s1 0 10
    · simp [State.putI, State.get_put, State.trzAt_pc]
  case refine_21 =>
    intro f w s u h hc
    rw [← State.trzAt_opnd h, ← State.trzAt_opnd h _ (twB w)]
    refine ⟨_, congrArg Host.Outcome.next (State.trzWord_runs _ h hc), ?_, ?_, ?_⟩
    · exact (State.get_put_other _ _ (by decide)).trans ((State.get_put_same ..).trans (b2n_mod _))
    · exact (State.get_put_same ..).trans (b2n_mod _)
    · simp [State.putB, State.get_put, State.trzAt_pc]
  case refine_22 =>
    exact fun f w s u h hc => ⟨_, congrArg Host.Outcome.next (State.trzWord_runs _ h hc), State.get_put_same ..⟩

end Sys2Proof.Machine

/-!
PROOFS. Carousel's spindle commands (R158, R196, R206 to R219, R224).
-/

namespace Sys2Proof.Machine

set_option Elab.async false

/-! ## The angle trackers (R196 to R200) -/

/-- The registers that the tracker of source i reads. -/
def srcReads (i : Nat) : List Fld := [V.trkAng i, V.trkSpd i, V.trkRes i, V.crlMedNew, V.crlMedStamp, V.crlMedAng, V.crlOfs]

/-- The registers that a PWM period writes for source i. -/
def srcWrites (i : Nat) : List Fld := [V.trkAng i, V.trkSpd i, V.trkRes i, V.crlBad i, V.crlGood i, srcOkFld i, srcResFld i]

/-- Two states that the tracker of source i does not tell apart. -/
structure SameSrc (i : Nat) (s t : State) : Prop where
  spn : t.spn = s.spn
  reads : ∀ k ∈ srcReads i, t.get k = s.get k

theorem SameSrc.trans {i : Nat} {s t u : State} (h : SameSrc i s t) (g : SameSrc i t u) : SameSrc i s u :=
  ⟨g.spn.trans h.spn, fun k hk => (g.reads k hk).trans (h.reads k hk)⟩

theorem SameSrc.of_out {i : Nat} {l : List Key} {s t : State} (h : Out l s t) (hspn : Key.p .spn ∉ l)
    (hl : ∀ k ∈ srcReads i, (l.all fun n => !n.hasb k) = true) : SameSrc i s t :=
  ⟨h.part .spn hspn, fun k hk => h.read k (hl k hk)⟩

theorem SameSrc.srcMeas {i : Nat} {s t : State} (h : SameSrc i s t) (o : PwmObs) : t.srcMeas o i = s.srcMeas o i := by
  obtain ⟨hspn, hreads⟩ := h
  simp only [srcReads, List.forall_mem_cons] at hreads
  obtain ⟨-, -, -, hnew, hstamp, hang, hofs, -⟩ := hreads
  simp only [State.srcMeas, State.mediaTotal, State.resTotal, State.polePairs, State.resPP, State.spnLe, State.on, hspn, hnew, hstamp, hang, hofs]
  rfl

/-- How far a measurement is from the angle its tracker expects. -/
def State.offTrack (s : State) (i : Nat) (m : Nat × Nat) : Int :=
  toSigned 32 ((s.propagated i m - ((s.get (V.trkAng i) : Int) + s.getI (V.trkSpd i))) % 4294967296).toNat

/-- The residual a tracker is left with. -/
theorem State.getI_track (s : State) (o : PwmObs) (i : Nat) :
    (s.track o i).getI (V.trkRes i) =
      (s.srcMeas o i).elim (s.getI (V.trkRes i)) fun m => toSigned 32 (ofSigned 32 (s.offTrack i m) % 2 ^ 32) := by
  unfold State.track
  cases s.srcMeas o i with
  | none => simp [State.getI, State.get_put]
  | some m =>
    change State.getI (if s.offTrack i m = 0 then _ else _) _ = _
    split
    next h => simp [State.getI, h, ofSigned]
    next h => simp only [State.getI, State.putI, State.get_put_same, State.offTrack, Option.elim_some]

theorem SameSrc.track {i : Nat} {s t : State} (h : SameSrc i s t) (o : PwmObs) :
    (t.track o i).getI (V.trkRes i) = (s.track o i).getI (V.trkRes i) := by
  rw [State.getI_track, State.getI_track, h.srcMeas o]
  obtain ⟨-, hreads⟩ := h
  simp only [srcReads, List.forall_mem_cons] at hreads
  obtain ⟨hang, hspd, hres, -⟩ := hreads
  simp only [State.offTrack, State.propagated, State.getI, hang, hspd, hres]

theorem State.get_srcStep_other (s : State) (o : PwmObs) {i : Nat} {k : Fld} (hk : k ∉ srcWrites i) : (s.srcStep o i).get k = s.get k := by
  simp only [srcWrites, List.mem_cons, List.not_mem_nil, or_false, not_or] at hk
  obtain ⟨hang, hspd, hres, hbad, hgood, hok, hshow⟩ := hk
  have htrack : (s.track o i).get k = s.get k := by
    simp only [State.track]
    split
    · exact State.get_put_other _ _ hang
    · split <;> simp [State.putI, State.get_put, hang, hspd, hres]
  simp [State.srcStep, State.putI, State.get_put, hbad, hgood, hok, hshow, htrack]

theorem State.srcStep_spn (s : State) (o : PwmObs) (i : Nat) : (s.srcStep o i).spn = s.spn :=
  (State.srcStep_out o i (.refl s) (Key.sub_refl _)).part .spn (by simp)

theorem SameSrc.srcStep {i j : Nat} (s : State) (o : PwmObs) (h : ∀ k ∈ srcReads i, k ∉ srcWrites j) : SameSrc i s (s.srcStep o j) :=
  ⟨s.srcStep_spn o j, fun k hk => s.get_srcStep_other o (h k hk)⟩

/-- The residual shown of a source is that of its tracker. -/
def State.resid (s : State) (o : PwmObs) (i : Nat) : Nat :=
  ofSigned 8 (clampI (-128) 127 (roundFree ((s.track o i).getI (V.trkRes i) * 720) 4294967296))

theorem srcResFld_w (i : Nat) : (srcResFld i).w = 8 := by
  unfold srcResFld
  split
  · rfl
  · split <;> rfl

theorem State.get_srcStep_resid (s : State) (o : PwmObs) (i : Nat) : (s.srcStep o i).get (srcResFld i) = s.resid o i % 256 := by
  simp only [State.srcStep, State.putI, State.get_put_same, srcResFld_w]
  rfl

theorem SameSrc.resid {i : Nat} {s t : State} (h : SameSrc i s t) (o : PwmObs) : t.resid o i = s.resid o i := by
  rw [State.resid, State.resid, h.track]

/-- The state in which a PWM period measures its sources. -/
def State.pwmTaken (s : State) (o : PwmObs) : State :=
  let t := s.applyPwm.resAmp o
  t.puts [(V.crlPer, Nat.min 4294967294 (t.get V.crlPer + 1)), (V.crlTacc, Nat.min 4294967294 (t.get V.crlTacc + 1))]

theorem State.pwmTaken_out (s : State) (o : PwmObs) :
    Out [.a 17 12255232 268435456, .w 17 12320768, .w 16 23658496, .w V.crlPer.blk V.crlPer.off, .w V.crlTacc.blk V.crlTacc.off] s (s.pwmTaken o) :=
  Out.put (n := .w V.crlTacc.blk V.crlTacc.off) _ _ (Out.put (n := .w V.crlPer.blk V.crlPer.off) _ _
    (State.resAmp_out o (State.applyPwm_out (.refl s) rfl) rfl) Key.hasW rfl) Key.hasW rfl

/-- What the period does once its sources are measured. -/
def State.pwmUsed (s : State) (o : PwmObs) : State :=
  ((((s.srcUse.srcShow o).put V.crlMedNew 0).encShift.shuntOffsets.speedFlags).crlStep o).modulate

/-- What it may change: nothing of the residuals. -/
def pwmUsedOut : List Key :=
  [.a 2 32 4, .w 5 8, .a 5 128 4, .w 12 8, .w 13 8, .w 13 12, .w 13 76, .w 13 1572864, .w 13 2359296, .w 13 2424832, .w 13 20250624, .a 19 1310720 268435456,
    .a 19 1376256 268435456, .a 19 22413312 268435456, .a 19 22478848 268435456] ++
  [8, 12, 24, 84, 3211264, 3342336, 3407872, 3473408, 3538944, 4128768, 4194304, 4259840, 4325376, 4784128, 21692416, 21757952, 22675456,
    22806528].map (.w 14) ++
  [8, 12, 20, 24, 64, 68, 76, 6094848, 6160384, 8519680, 8585216, 8847360, 8912896, 8978432, 9240576, 9306112, 9502720, 9568256, 9699328,
    9764864, 9830400, 10092544, 10158080, 10223616, 10289152, 10354688, 10420224, 10551296, 10813440, 10878976, 10944512, 11075584, 22937600,
    23068672, 23396352, 23461888, 23527424, 23592960, 23789568, 23855104, 23920640, 24051712, 24444928].map (.w 16) ++
  [.w 16 V.crlMedNew.off, .a 16 10485760 268435456, .a 16 10616832 268435456, .a 16 11010048 268435456, .a 16 24182784 268435456, .w 17 13762560,
    .w 17 24510464, .w 18 8, .w 18 12, .w 18 72, .w 18 786432, .w 18 20578304, .w 19 12, .w 19 16, .w 19 1114112, .w 19 1179648, .w 66 19070976,
    .w 66 19202048, .p .win, .p .free, .p .edges, .p .inbox, .p .chn, .p .seqs, .p .pa, .p .jq, .p .jact, .p .tenc]

theorem State.pwmUsed_out (s : State) (o : PwmObs) : Out pwmUsedOut s (s.pwmUsed o) :=
  State.modulate_out (State.crlStep_out o (State.speedFlags_out (State.shuntOffsets_out (State.encShift_out
    (Out.put (n := .w 16 V.crlMedNew.off) _ _ (State.srcShow_out o (State.srcUse_out (.refl s) rfl) rfl) Key.hasW rfl) rfl) rfl) rfl) rfl) rfl

theorem pwmPeriod_on {o : PwmObs} {s : State} (hon : s.crlSt ≠ crlOFF) :
    pwmPeriod o s = ((((s.pwmTaken o).srcStep o 1).srcStep o 2).srcStep o 3).pwmUsed o := by
  have hst : (s.applyPwm.resAmp o).crlSt ≠ crlOFF := by
    have hkeep := State.resAmp_out o (State.applyPwm_out (.refl s) (L₀ := [.a 17 12255232 268435456, .w 17 12320768, .w 16 23658496]) rfl) rfl
    rw [State.crlSt, hkeep.read _ (by decide)]
    exact hon
  rw [pwmPeriod, State.crlPeriod, if_neg hst]
  rfl

theorem pwmPeriod_resid {o : PwmObs} {s : State} (hon : s.crlSt ≠ crlOFF) :
    (pwmPeriod o s).get R.CRL_RESID_R_MEDIA = s.resid o 1 % 256 ∧ (pwmPeriod o s).get R.CRL_RESID_R_RES = s.resid o 2 % 256 ∧
      (pwmPeriod o s).get R.CRL_RESID_R_BEMF = s.resid o 3 % 256 := by
  have htaken := s.pwmTaken_out o
  have hused := ((((s.pwmTaken o).srcStep o 1).srcStep o 2).srcStep o 3).pwmUsed_out o
  have same1 : SameSrc 1 s (s.pwmTaken o) := .of_out htaken (by simp) (by decide)
  have same2 : SameSrc 2 s ((s.pwmTaken o).srcStep o 1) := (SameSrc.of_out htaken (by simp) (by decide)).trans (.srcStep _ o (by decide))
  have same3 : SameSrc 3 s (((s.pwmTaken o).srcStep o 1).srcStep o 2) :=
    ((SameSrc.of_out htaken (by simp) (by decide)).trans (.srcStep _ o (by decide))).trans (.srcStep _ o (by decide))
  rw [pwmPeriod_on hon]
  refine ⟨?_, ?_, ?_⟩
  · rw [hused.read _ (by decide), State.get_srcStep_other _ _ (by decide), State.get_srcStep_other _ _ (by decide), ← same1.resid o]
    exact State.get_srcStep_resid _ o 1
  · rw [hused.read _ (by decide), State.get_srcStep_other _ _ (by decide), ← same2.resid o]
    exact State.get_srcStep_resid _ o 2
  · rw [hused.read _ (by decide), ← same3.resid o]
    exact State.get_srcStep_resid _ o 3

/-! ## The spindle's start (R206 to R211) -/

theorem sensePulse_counts {p : BitVec 16} {s : State} (hst : s.crlSt = crlSENSE) (hn : s.get V.crlPulse < 5) :
    (sensePulse p s).get V.crlPulse = s.get V.crlPulse + 1 ∧ (sensePulse p s).get (V.crlPeak (s.get V.crlPulse)) = p.toNat := by
  have hp : p.toNat < 65536 := p.isLt
  have hsense : sensePulse p s = s.puts [(V.crlPeak (s.get V.crlPulse), p.toNat), (V.crlPulse, s.get V.crlPulse + 1)] := by
    simp [sensePulse, hst, hn]
  rw [hsense]
  constructor
  · simp
    omega
  · simp [State.get_put]
    omega

theorem sensePulse_aligns {p : BitVec 16} {s : State} (hst : s.crlSt = crlSENSE) (hn : s.get V.crlPulse = 5) :
    ∃ u, sensePulse p s = State.crlTo u crlALIGN := by
  simp only [sensePulse, hst, hn, ne_eq, not_true, if_false, Nat.lt_irrefl]
  exact ⟨_, rfl⟩

theorem startAttemptFail_ramp {top : Nat} {s : State} (hst : s.crlSt = crlRAMP) :
    (startAttemptFail top s).get R.CRL_STAT_STATE = crlSHORT ∧ (startAttemptFail top s).get V.crlFailed = 1 ∧
      (startAttemptFail top s).get R.CRL_EVT_START_RETRY = 1 := by
  have hfail : startAttemptFail top s = ((((s.puts [(V.crlFailed, 1), (V.crlTop (s.get R.CRL_STAT_ATTEMPT), top)]).crlTo crlSHORT).evt
      R.CRL_EVT_START_RETRY).count R.CRL_CNT_START).post 0x10 0x14 warning noInst [s.get R.CRL_STAT_ATTEMPT, s.get V.crlAlign, top] := by
    simp [startAttemptFail, hst]
  have hshort := State.crlTo_out crlSHORT (.refl (s.puts [(V.crlFailed, 1), (V.crlTop (s.get R.CRL_STAT_ATTEMPT), top)])) (Key.sub_refl _)
  have hstate := (s.puts [(V.crlFailed, 1), (V.crlTop (s.get R.CRL_STAT_ATTEMPT), top)]).get_crlTo_state crlSHORT
  have hfailed := hshort.read V.crlFailed (by decide)
  rw [hfail]
  generalize (s.puts [(V.crlFailed, 1), (V.crlTop (s.get R.CRL_STAT_ATTEMPT), top)]).crlTo crlSHORT = u at hstate hfailed
  refine ⟨?_, ?_, ?_⟩
  · refine (State.get_count_other _ R.CRL_CNT_START R.CRL_STAT_STATE (.inr (by decide))).trans ?_
    rw [State.get_evt, if_neg (by decide), hstate]
    rfl
  · refine (State.get_count_other _ R.CRL_CNT_START V.crlFailed (.inr (by decide))).trans ?_
    rw [State.get_evt, if_neg (by decide), hfailed]
    simp [State.get_put]
  · refine (State.get_countN_other _ R.CRL_CNT_START R.CRL_EVT_START_RETRY 1 (by decide) (by decide) (by decide)).trans ?_
    simp

/-! ## The catch of a turning spindle (R208, R219) -/

theorem zeroCrossing_caught {i : Nat} {q : Fin 6} {s : State} (hst : s.crlSt = crlCATCH) (hn : s.get V.crlZc = 11)
    (hq : q.val = (s.get V.crlZcSec + 1) % 6) (hlo : 9 * s.get V.crlZcLast ≤ 10 * i) (hhi : 10 * i ≤ 11 * s.get V.crlZcLast) :
    ∃ (u : State) (d : List Nat), zeroCrossing i q s = (u.crlTo crlDRIVE).post 0x10 0x12 info noInst d := by
  have hnot : ¬(crlCATCH = crlSHORT) := by decide
  simp only [zeroCrossing, hst, hn, hq, hlo, hhi, if_neg hnot]
  exact ⟨_, _, rfl⟩

theorem catchTimeout_slow {p : BitVec 16} {s : State} (hst : s.crlSt = crlCATCH) (hslow : s.peakSpeed p.toNat < 1500000) :
    ∃ u, catchTimeout p s = State.crlTo u crlSHORT := by
  simp only [catchTimeout, hst, ne_eq, not_true, if_false, if_pos hslow]
  exact ⟨_, rfl⟩

theorem catchRetry_again {p : BitVec 16} {s : State} (hst : s.crlSt = crlCOAST) (hwant : s.get V.crlWantCatch = 1)
    (hov : s.get V.crlOvWait = 0) (hfast : 1500000 ≤ s.peakSpeed p.toNat) (hdown : s.get V.crlCatchDown = 0) (hgrant : s.grantSeen = true) :
    ∃ u, catchRetry p s = State.crlTo u crlCATCH := by
  have hnot : ¬s.peakSpeed p.toNat < 1500000 := Nat.not_lt.mpr hfast
  have hready : ¬(s.crlSt ≠ crlCOAST ∨ !s.on V.crlWantCatch ∨ s.on V.crlOvWait) := by simp [hst, State.on, hwant, hov]
  have hgo : (s.on V.crlCatchDown || !s.grantSeen) = false := by simp [State.on, hdown, hgrant]
  simp only [catchRetry, if_neg hready, if_neg hnot, hgo, Bool.false_eq_true, if_false]
  exact ⟨_, rfl⟩

/-! ## The set point (R213, R214) and the enable (R224) -/

theorem spOvr_asked (b : Bool) (req : Fin 4) (s : State) :
    (spOvr b req s).get R.CRL_CTL_SP_OVR = b2n b ∧ (spOvr b req s).get R.CRL_CTL_SP_REQ = req := by
  have hkeep := State.evalSp_out (.refl (s.puts [(R.CRL_CTL_SP_OVR, b2n b), (R.CRL_CTL_SP_REQ, req.val)])) (Key.sub_refl _)
  rw [spOvr, hkeep.read _ (by decide), hkeep.read _ (by decide)]
  simp [State.get_put]

theorem State.setAtSp_none {s : State} (hno : s.get V.crlSp01 = 0) : s.setAtSp false = (s.put V.crlSp01 0).put R.CRL_STAT_AT_SP 0 := by
  simp [State.setAtSp, State.on, hno, State.putB, b2n]

theorem setpointApply_drive {n : Nat} {s : State} (hwait : s.get V.crlSpWait = 1) (hnext : s.get V.crlSpNext = n) (hheld : s.spHeld n = false)
    (hst : s.crlSt = crlDRIVE) (hsp : s.get V.crlSp01 = 0) (hn : n ≠ 0) :
    setpointApply s = (((s.puts [(R.CRL_STAT_SP, n), (V.crlSpWait, 0), (V.crlRevIn, 0)]).put V.crlSp01 0).put R.CRL_STAT_AT_SP 0).driveRefs := by
  have hset : (s.puts [(R.CRL_STAT_SP, n), (V.crlSpWait, 0), (V.crlRevIn, 0)]).get V.crlSp01 = 0 := by simp [State.get_put, hsp]
  have hfree : (s.on V.crlSpWait && !s.spHeld (s.get V.crlSpNext)) = true := by simp [State.on, hwait, hnext, hheld]
  have hnot : ¬(s.crlSt = crlKICK ∨ s.crlSt = crlGLIDE) := by rw [hst]; decide
  rw [setpointApply, if_pos hfree, hnext]
  simp only [State.applySp, if_neg hn, State.setAtSp_none hset, if_neg hnot, if_pos hst]

theorem State.get_puts_other {l : List (Fld × Nat)} {k : Fld} (hk : k ∉ l.map (·.1)) {s : State} : (s.puts l).get k = s.get k := by
  induction l generalizing s with
  | nil => rfl
  | cons e l ih =>
    simp only [List.map_cons, List.mem_cons, not_or] at hk
    rw [State.puts_cons, ih hk.2, State.get_put_other _ _ hk.1]

theorem State.spn_puts (l : List (Fld × Nat)) (s : State) : (s.puts l).spn = s.spn := by
  induction l generalizing s with
  | nil => rfl
  | cons e l ih => exact (ih _).trans rfl

theorem State.crlEnable_ok {resOk : Bool} {s : State} (hoff : s.get R.CRL_CTL_EN = 0) (hok : (s.crlReasons resOk).find? (·.1) = none) :
    (s.crlEnable resOk).1.get R.CRL_CTL_EN = 1 ∧ (s.crlEnable resOk).1.spn = putBytes [] 0 (s.bytes 0x10 0 0x100 192) := by
  have hno : s.on R.CRL_CTL_EN = false := by simp [State.on, hoff]
  let v : State := { s.put R.CRL_CTL_EN 1 with spn := putBytes [] 0 (s.bytes 0x10 0 0x100 192) }
  obtain ⟨l, b, st, hrun, hl⟩ : ∃ (l : List (Fld × Nat)) (b st : Nat), (s.crlEnable resOk).1 = (((v.puts l).setVinBudget b).crlTo st).evalSp ∧
      R.CRL_CTL_EN ∉ l.map (·.1) := by
    simp only [State.crlEnable, State.enable, hno, Bool.false_eq_true, if_false, hok]
    exact ⟨_, _, _, rfl, by simp⟩
  have hkeep : Out (.w 16 22937600 :: arriveOut) (v.puts l) (s.crlEnable resOk).1 := by
    rw [hrun]
    exact State.evalSp_out (State.crlTo_out st (State.setVinBudget_out b (.refl _) rfl) rfl) rfl
  constructor
  · rw [hkeep.read _ (by decide), State.get_puts_other hl]
    exact State.get_put_same s R.CRL_CTL_EN 1
  · rw [hkeep.part .spn (by simp [arriveOut]), State.spn_puts]

/-- Settles O17, clause by clause. -/
theorem spindleCommandsComplete : Obligations.SpindleCommandsComplete := by
  unfold Obligations.SpindleCommandsComplete
  refine ⟨?_, ?_, ?_, ?_, ?_, ?_, ?_, ?_, ?_, ?_, ?_, ?_, ?_, ?_⟩
  case refine_1 =>
    intro s
    refine ⟨_, rfl, ?_, ?_, ?_⟩
    · rw [mediaWedgeMissing, State.proj_when _ _ (·.get V.crlMedMiss) (by simp [State.get_put])]
      simp [State.get_put]
    · rw [mediaWedgeMissing, State.proj_when _ _ (·.get V.crlMedRun) (by simp [State.get_put])]
      simp
    · intro hmiss
      have hlost : 8 ≤ Nat.min 255 (s.get V.crlMedMiss + 1) := Nat.le_min.mpr ⟨by decide, by omega⟩
      simp only [mediaWedgeMissing, decide_eq_true hlost]
      simp [State.when, State.get_put]
  case refine_2 => exact fun ok s hoff hok => ⟨_, rfl, State.crlEnable_ok hoff hok⟩
  case refine_3 => exact fun b req s => ⟨_, rfl, spOvr_asked b req s⟩
  case refine_4 => exact fun o s hon => ⟨_, rfl, pwmPeriod_resid hon⟩
  case refine_5 => exact fun p s hst hn => ⟨_, rfl, sensePulse_counts hst hn⟩
  case refine_6 =>
    intro p s hst hn
    obtain ⟨u, hu⟩ := sensePulse_aligns (p := p) hst hn
    exact ⟨_, congrArg Host.Outcome.next hu, u.get_crlTo_state crlALIGN⟩
  case refine_7 => exact fun s hst => ⟨_, congrArg Host.Outcome.next (if_pos hst), s.get_crlTo_state crlRAMP⟩
  case refine_8 => exact fun top s hst => ⟨_, rfl, startAttemptFail_ramp hst⟩
  case refine_9 =>
    intro i q s hst
    refine ⟨_, congrArg Host.Outcome.next (if_pos hst), ?_⟩
    simp [State.get_put]
  case refine_10 =>
    intro i q s hst hn hq hlo hhi
    obtain ⟨u, d, hu⟩ := zeroCrossing_caught hst hn hq hlo hhi
    refine ⟨_, congrArg Host.Outcome.next hu, ?_⟩
    rw [State.get_post, State.get_crlTo_state]
    rfl
  case refine_11 =>
    intro p s hst hslow
    obtain ⟨u, hu⟩ := catchTimeout_slow hst hslow
    exact ⟨_, congrArg Host.Outcome.next hu, u.get_crlTo_state crlSHORT⟩
  case refine_12 =>
    intro p s hst hwant hov hfast hdown hgrant
    obtain ⟨u, hu⟩ := catchRetry_again hst hwant hov hfast hdown hgrant
    exact ⟨_, congrArg Host.Outcome.next hu, u.get_crlTo_state crlCATCH⟩
  case refine_13 =>
    intro n s hwait hnext hheld hst hsp hn hlt
    refine ⟨_, congrArg Host.Outcome.next (setpointApply_drive hwait hnext hheld hst hsp hn), ?_⟩
    have hrefs := State.driveRefs_out (.refl (((s.puts [(R.CRL_STAT_SP, n), (V.crlSpWait, 0), (V.crlRevIn, 0)]).put V.crlSp01 0).put
      R.CRL_STAT_AT_SP 0)) (Key.sub_refl _)
    rw [hrefs.read _ (by decide), hrefs.read _ (by decide), hrefs.read _ (by decide)]
    simp [State.get_put, Nat.mod_eq_of_lt hlt]
  case refine_14 =>
    intro s hst hov
    have hready : s.crlSt = crlCOAST ∧ s.on V.crlOvWait := ⟨hst, by simp [State.on, hov]⟩
    exact ⟨_, congrArg Host.Outcome.next (if_pos hready), State.get_crlTo_state _ crlCATCH⟩

end Sys2Proof.Machine

/-!
PROOFS. The die link and the supplies of Strongman (R22 to R24, R227 to R229, R239 to R243).
-/

namespace Sys2Proof.Machine

set_option Elab.async false

/-! ## Latches and retracts in Strongman's status word (R231) -/

theorem State.get_forAll_other {α : Type} {f : α → State → State} {k : Fld} (hf : ∀ x u, (f x u).get k = u.get k) (xs : List α) (s : State) :
    (s.forAll xs f).get k = s.get k := by
  induction xs generalizing s with
  | nil => rfl
  | cons x xs ih => exact (ih _).trans (hf x s)

theorem State.get_stmLatchAll_other (s : State) {k : Fld} (hk : k ≠ R.STM_STAT_LATCH) : s.stmLatchAll.get k = s.get k :=
  State.get_forAll_other (fun _ u => State.get_setBit_other u _ _ hk) _ s

theorem State.get_clearLatches_other (s : State) {k : Fld} (hk : k ≠ R.STM_STAT_LATCH) : s.clearLatches.get k = s.get k := by
  refine State.get_forAll_other (fun a u => ?_) _ s
  split
  · exact State.get_setBit_other u _ _ hk
  · rfl

/-- A retract writes of the status word its own bits only. -/
theorem State.get_stmRetract_stat (s : State) (a : Nat) (park : Bool) {k : Fld} (hoff : k.off = 0x8)
    (hk : k ≠ R.STM_STAT_RETRACT) : (s.stmRetract a park).get k = s.get k := by
  have hfar (j : Fld) (hj : j.off ≠ 0x8) : k ≠ j := fun h => hj (h ▸ hoff)
  unfold State.stmRetract
  split
  · rw [State.get_count_other _ _ _ (.inr ⟨by rw [hoff]; decide, by rw [hoff]; decide⟩)]
    simp only [State.puts_cons, State.puts_nil]
    rw [State.get_put_other _ _ (hfar _ (by simp; omega)), State.get_put_other _ _ (hfar _ (by simp; omega)), State.get_put_other _ _ (hfar _ (by simp; omega)),
      State.get_setBit_other _ _ _ hk]
  · rfl

theorem State.get_stmRetractAll_stat (s : State) {k : Fld} (hoff : k.off = 0x8) (hk : k ≠ R.STM_STAT_RETRACT) :
    s.stmRetractAll.get k = s.get k :=
  State.get_forAll_other (fun a u => u.get_stmRetract_stat a false hoff hk) _ s

/-! ## What a start needs (R232) -/

/-- The registers that say whether a start is granted, without the heartbeat's good state and the overcurrent pending. -/
def startReads : List Fld :=
  [V.stopWire, R.STM_STAT_AUTON, R.STM_VIN_VIN12, V.stmRun 0, V.stmRun 5, V.stmRun 10, V.stmRun 11, V.stmVcmTrip 0, V.stmVcmTrip 1,
    V.stmVcmTrip 2, V.stmVcmTrip 3, R.STM_STAT_SM_ACTIVE, V.pslAtThrot 1, R.STM_CTL_EN]

theorem State.startOk_of_same {s t : State} (hs : s.startOk = true) (h : ∀ k ∈ startReads, t.get k = s.get k) (hb : t.get R.STM_STAT_HB_OK ≠ 0)
    (hoc : t.get V.stmOcPend = 0) : t.startOk = true := by
  simp only [startReads, List.forall_mem_cons] at h
  obtain ⟨hstop, haut, hvin, hr0, hr5, hr10, hr11, ht0, ht1, ht2, ht3, hsm, hthr, hen, -⟩ := h
  simp only [State.startOk, State.grantHolds, State.supplyOk, State.on, show List.range 4 = [0, 1, 2, 3] from rfl, List.all_cons, List.all_nil,
    List.any_cons, List.any_nil, hstop, haut, hvin, hr0, hr5, hr10, hr11, ht0, ht1, ht2, ht3, hsm, hthr, hen, hoc] at hs ⊢
  simp only [Bool.and_eq_true, decide_eq_true_eq] at hs ⊢
  simp_all

/-! ## A frame to Strongman (R22, R24, R232) -/

/-- A frame to Strongman as it arrives: counted, with the link free and the demands sent. -/
def State.frameIn (s : State) : State := ((s.bump (V.linkSeq 0) 1).put V.trzLinkFree 1).dropOwners.frameSent

theorem State.frameIn_out (s : State) : Out [.w 66 11534336, .w 15 7733248, .a 15 7077888 268435456, .a 15 21954560 268435456] s s.frameIn :=
  State.frameSent_out (State.dropOwners_out (Out.put (n := .w 15 7733248) _ _ (Out.bump (n := .w 66 11534336) _ _ (.refl s) Key.hasW rfl)
    Key.hasW rfl) rfl) rfl

theorem State.frameIn_free (s : State) : s.frameIn.get V.trzLinkFree = 1 ∧ s.frameIn.get (V.linkSeq 0) = (s.get (V.linkSeq 0) + 1) % 256 := by
  have hsent := State.frameSent_out (State.dropOwners_out (L₀ := [.a 15 7077888 268435456, .a 15 21954560 268435456])
    (.refl ((s.bump (V.linkSeq 0) 1).put V.trzLinkFree 1)) rfl) rfl
  rw [State.frameIn, hsent.read _ (by decide), hsent.read _ (by decide)]
  simp [State.bump, State.get_put]

/-- The frames of coasting counted; sixteen of them end the wait after an overcurrent. -/
def State.coasted (s : State) (n : Nat) : State :=
  if n = 16 then (s.put V.stmCoastN n).put V.stmOcPend 0 else s.put V.stmCoastN n

theorem State.coasted_out (s : State) (n : Nat) : Out [.w 17 12582912, .w 17 12517376] s (s.coasted n) := by
  have hcount : Out [.w 17 12582912, .w 17 12517376] s (s.put V.stmCoastN n) := Out.put (n := .w 17 12582912) _ _ (.refl s) Key.hasW rfl
  exact Out.ite (Out.put (n := .w 17 12517376) _ _ hcount Key.hasW rfl) hcount

/-- The demands, latches and requests of a frame, and the handshake of the start. -/
def State.frameDone (s : State) : State := (s.applyDemands.clearLatches.takeRequests).when (s.on R.STM_STAT_HB_OK) State.handshake

/-- What they may change. -/
def frameDoneOut : List Key :=
  [.w 5 8, .a 5 128 4, .w 16 24379392, .w 17 8, .a 17 6488064 268435456, .a 17 12124160 268435456, .a 17 12189696 268435456, .w 17 12451840,
    .w 17 13041664, .w 17 13107200, .w 17 13172736, .w 17 19267584, .w 17 22020096, .a 17 22085632 268435456, .w 17 24248320, .w 17 24313856,
    .w 17 24576000, .w 65 24641536, .p .inbox]

theorem State.frameDone_out (s : State) : Out frameDoneOut s s.frameDone :=
  Out.when _ _ (State.takeRequests_out (State.clearLatches_out (State.applyDemands_out (.refl s) rfl) rfl) rfl) fun _ hu =>
    State.handshake_out hu rfl

theorem dieLinkFrame_good (s : State) : ∃ n, dieLinkFrame (.toStrongman true) s = (s.frameIn.goodBeat.coasted n).frameDone := ⟨_, rfl⟩

/-- A new heartbeat is taken and ends a row of missed ones. -/
theorem State.goodBeat_new {s : State} (hnew : s.get V.hbTx ≠ s.get V.stmHbRx) :
    s.goodBeat.get V.stmHbRx = s.get V.hbTx % 16 ∧ s.goodBeat.get V.stmHbMiss = 0 := by
  have hbeat : s.goodBeat = (s.puts [(V.stmHbRx, s.get V.hbTx), (V.stmHbMiss, 0), (R.STM_STAT_HB_OK, 1),
      (V.stmHbGood, Nat.min 16 (s.get V.stmHbGood + 1))]).tryResume := if_pos hnew
  rw [hbeat, (State.tryResume_out (.refl _) (Key.sub_refl _)).read _ (by decide), (State.tryResume_out (.refl _) (Key.sub_refl _)).read _ (by decide)]
  simp [State.get_put]

theorem dieLinkFrame_beat {s : State} (hnew : s.get V.hbTx ≠ s.get V.stmHbRx) :
    let t := dieLinkFrame (.toStrongman true) s
    t.get V.trzLinkFree = 1 ∧ t.get V.stmHbRx = s.get V.hbTx % 16 ∧ t.get V.stmHbMiss = 0 := by
  obtain ⟨n, hframe⟩ := dieLinkFrame_good s
  have hin := s.frameIn_out
  have hbeat := State.goodBeat_out (.refl s.frameIn) (Key.sub_refl _)
  have hcoast := s.frameIn.goodBeat.coasted_out n
  have hdone := (s.frameIn.goodBeat.coasted n).frameDone_out
  have hnew' : s.frameIn.get V.hbTx ≠ s.frameIn.get V.stmHbRx := by rw [hin.read _ (by decide), hin.read _ (by decide)]; exact hnew
  obtain ⟨hrx, hmiss⟩ := State.goodBeat_new hnew'
  rw [hframe]
  refine ⟨?_, ?_, ?_⟩
  · rw [hdone.read _ (by decide), hcoast.read _ (by decide), hbeat.read _ (by decide), s.frameIn_free.1]
  · rw [hdone.read _ (by decide), hcoast.read _ (by decide), hrx, hin.read _ (by decide)]
  · rw [hdone.read _ (by decide), hcoast.read _ (by decide), hmiss]

theorem State.tryResume_running {s : State} (haut : s.get R.STM_STAT_AUTON = 0) : s.tryResume = s := by
  simp [State.tryResume, State.on, haut]

/-- Outside an autonomous sequence a heartbeat writes its own registers only. -/
theorem State.get_goodBeat_other {s : State} {k : Fld} (haut : s.get R.STM_STAT_AUTON = 0)
    (hk : k ∉ [V.stmHbRx, V.stmHbMiss, R.STM_STAT_HB_OK, V.stmHbGood]) : s.goodBeat.get k = s.get k := by
  unfold State.goodBeat
  split
  · rw [State.tryResume_running (by simp [State.get_put, haut])]
    exact State.get_puts_other hk
  · rfl

theorem State.goodBeat_ok {s : State} (haut : s.get R.STM_STAT_AUTON = 0) (hok : s.get R.STM_STAT_HB_OK ≠ 0) :
    s.goodBeat.get R.STM_STAT_HB_OK ≠ 0 := by
  unfold State.goodBeat
  split
  · rw [State.tryResume_running (by simp [State.get_put, haut])]
    simp [State.get_put]
  · exact hok

/-- A request to start that meets its conditions is granted in the frame that brings it. -/
theorem State.takeRequests_spin {s : State} (hq : bitOf (s.get V.reqSlot) 0 = true) (hok : s.startOk = true) (hpl : s.get V.stmPl = 0)
    (hreq : s.get V.stmPlReq = 0) :
    s.takeRequests.get R.STM_STAT_GRANT = 1 ∧ s.takeRequests.get V.stmSagRef = s.get R.STM_VIN_VIN12 % 65536 ∧ s.takeRequests.get V.reqSlot = 0 := by
  obtain ⟨u, hu⟩ : ∃ u, u = s.puts [(V.stmReqSeen, s.get V.reqSlot), (V.reqSlot, 0)] := ⟨_, rfl⟩
  have hget {k : Fld} (hk : k ∉ [V.stmReqSeen, V.reqSlot]) : u.get k = s.get k := hu ▸ State.get_puts_other hk
  have hgrant : (u.startOk && !u.on V.stmPl && !u.on V.stmPlReq) = true := by
    have huok : u.startOk = true := by
      refine State.startOk_of_same hok (fun k hk => hget (by revert k; decide)) ?_ ?_ <;> rw [hget (by decide)]
      · simp [State.startOk, State.on] at hok
        exact hok.2
      · simp [State.startOk, State.grantHolds, State.on] at hok
        exact hok.1.1.1.1.1.2
    simp [huok, State.on, hget (k := V.stmPl) (by decide), hget (k := V.stmPlReq) (by decide), hpl, hreq]
  have htake : s.takeRequests = u.giveSpin.forAll (List.range 4) fun a t => t.when (bitOf (s.get V.reqSlot) (1 + a)) fun v => v.giveLoad a := by
    have hwait : (decide (s.get V.reqSlot ≠ 0 ∧ u.get V.stmPlReq = 2) && !u.on V.stmPl) = false := by
      simp [hget (k := V.stmPlReq) (by decide), hreq]
    simp only [State.takeRequests, ← hu, hwait, State.when_false, hq, State.when_true]
  have hload : Out [.a 17 6488064 268435456] u.giveSpin s.takeRequests := by
    rw [htake]
    exact Out.forAll _ (fun a v hv => Out.when _ _ hv fun w hw => State.giveLoad_out a hw rfl) _ (.refl _)
  rw [hload.read _ (by decide), hload.read _ (by decide), hload.read _ (by decide), State.giveSpin, if_pos hgrant,
    hget (k := R.STM_VIN_VIN12) (by decide)]
  have hslot : u.get V.reqSlot = 0 := by simp [hu]
  simp [State.get_put, hslot]

/-- What a frame leaves alone of the registers on which a start depends. -/
theorem State.get_frameHeld {s : State} (n : Nat) {k : Fld} (haut : s.get R.STM_STAT_AUTON = 0)
    (hk : k ∈ V.stmPl :: V.stmPlReq :: V.reqSlot :: startReads) :
    (s.frameIn.goodBeat.coasted n).applyDemands.clearLatches.get k = s.get k := by
  have haut' : s.frameIn.get R.STM_STAT_AUTON = 0 := by rw [s.frameIn_out.read _ (by decide), haut]
  rw [State.get_clearLatches_other _ (by clear haut haut'; revert k; decide),
    (State.applyDemands_out (.refl _) (Key.sub_refl _)).read _ (by clear haut haut'; revert k; decide),
    (State.coasted_out _ n).read _ (by clear haut haut'; revert k; decide),
    State.get_goodBeat_other haut' (by clear haut haut'; revert k; decide), s.frameIn_out.read _ (by clear haut haut'; revert k; decide)]

theorem State.coasted_oc {s : State} (n : Nat) (hoc : s.get V.stmOcPend = 0) : (s.coasted n).get V.stmOcPend = 0 := by
  unfold State.coasted
  split <;> simp [State.get_put, hoc]

theorem dieLinkFrame_grants {s : State} (hq : bitOf (s.get V.reqSlot) 0 = true) (hok : s.startOk = true) (hpl : s.get V.stmPl = 0)
    (hreq : s.get V.stmPlReq = 0) :
    let t := dieLinkFrame (.toStrongman true) s
    t.get R.STM_STAT_GRANT = 1 ∧ t.get V.stmSagRef = s.get R.STM_VIN_VIN12 % 65536 ∧ t.get V.reqSlot = 0 := by
  obtain ⟨n, hframe⟩ := dieLinkFrame_good s
  obtain ⟨haut, hoc, hhb⟩ : s.get R.STM_STAT_AUTON = 0 ∧ s.get V.stmOcPend = 0 ∧ s.get R.STM_STAT_HB_OK ≠ 0 := by
    simp [State.startOk, State.grantHolds, State.on] at hok
    exact ⟨hok.1.1.1.1.1.1.1.2, hok.1.1.1.1.1.2, hok.2⟩
  have haut' : s.frameIn.get R.STM_STAT_AUTON = 0 := by rw [s.frameIn_out.read _ (by decide), haut]
  obtain ⟨u, hu⟩ : ∃ u, u = (s.frameIn.goodBeat.coasted n).applyDemands.clearLatches := ⟨_, rfl⟩
  have hget {k : Fld} (hk : k ∈ V.stmPl :: V.stmPlReq :: V.reqSlot :: startReads) : u.get k = s.get k := hu ▸ State.get_frameHeld n haut hk
  have huhb : u.get R.STM_STAT_HB_OK ≠ 0 := by
    rw [hu, State.get_clearLatches_other _ (by decide), (State.applyDemands_out (.refl _) (Key.sub_refl _)).read _ (by decide),
      (State.coasted_out _ n).read _ (by decide)]
    exact State.goodBeat_ok haut' (by rw [s.frameIn_out.read _ (by decide)]; exact hhb)
  have huoc : u.get V.stmOcPend = 0 := by
    rw [hu, State.get_clearLatches_other _ (by decide), (State.applyDemands_out (.refl _) (Key.sub_refl _)).read _ (by decide)]
    refine State.coasted_oc n ?_
    rw [State.get_goodBeat_other haut' (by decide), s.frameIn_out.read _ (by decide), hoc]
  have huok : u.startOk = true :=
    State.startOk_of_same hok (fun k hk => hget (List.mem_cons_of_mem _ (List.mem_cons_of_mem _ (List.mem_cons_of_mem _ hk)))) huhb huoc
  obtain ⟨hgrant, hsag, hslot⟩ := State.takeRequests_spin (s := u) (by rw [hget (by decide)]; exact hq) huok (by rw [hget (by decide), hpl])
    (by rw [hget (by decide), hreq])
  have hshake : Out [.w 5 8, .a 5 128 4, .w 65 24641536, .p .inbox] u.takeRequests (dieLinkFrame (.toStrongman true) s) := by
    rw [hframe, State.frameDone, ← hu]
    exact Out.when _ _ (.refl _) fun _ hv => State.handshake_out hv rfl
  refine ⟨?_, ?_, ?_⟩
  · rw [hshake.read _ (by decide), hgrant]
  · rw [hshake.read _ (by decide), hsag, hget (by decide)]
  · rw [hshake.read _ (by decide), hslot]

theorem dieLinkFrame_bad (s : State) : dieLinkFrame (.toStrongman false) s = s.frameIn.count R.STM_CNT_LINKERR := by
  simp only [dieLinkFrame, Bool.not_false, if_true, State.frameIn]

/-! ## A frame to the controller (R22) -/

/-- A frame to the controller as it arrives: counted, with its time. -/
def State.backIn (s : State) (vcms volts : List Int) : State :=
  (((s.bump (V.linkSeq 1) 1).bump V.trzNow 2000).gateTimers).forAll (List.range 4) fun a u =>
    u.retractDrive a (volts.getD a 0) (vcms.getD a 0)

theorem State.backIn_seq (s : State) (vcms volts : List Int) :
    (s.backIn vcms volts).get (V.linkSeq 1) = (s.get (V.linkSeq 1) + 1) % 256 := by
  have hdrive : Out [.a 17 12124160 268435456, .a 17 24838144 268435456, .a 17 24903680 268435456]
      (((s.bump (V.linkSeq 1) 1).bump V.trzNow 2000).gateTimers) (s.backIn vcms volts) :=
    Out.forAll _ (fun a u hu => State.retractDrive_out a _ _ hu rfl) _ (.refl _)
  rw [hdrive.read _ (by decide), (State.gateTimers_out (.refl _) (Key.sub_refl _)).read _ (by decide)]
  simp [State.bump, State.get_put]

theorem dieLinkFrame_lost (p v u : List Int) (m : BitVec 32) (n : Bool) (s : State) :
    dieLinkFrame (.toController false p v u m n) s = (s.backIn v u).count R.RMC_CNT_LINKERR := by
  simp only [dieLinkFrame, Bool.not_false, if_true, State.backIn]

/-- What a new status word may change beside the word itself. -/
def statusNewsOut : List Key :=
  [.a 2 32 4, .w 5 12, .w 5 68, .w 12 8, .w 13 8, .w 13 12, .w 13 76, .w 13 1572864, .w 13 2359296, .w 13 2424832, .w 13 20250624,
    .a 17 13697024 268435456, .w 17 13762560, .w 17 24510464, .w 18 8, .w 18 12, .w 18 72, .w 18 786432, .w 18 20578304, .w 19 12, .w 19 16,
    .w 19 1114112, .w 19 1179648, .a 19 1310720 268435456, .a 19 1376256 268435456, .a 19 22413312 268435456, .a 19 22478848 268435456,
    .w 66 5046272, .w 66 18874368, .w 66 18939904, .w 66 19005440, .w 66 19070976, .w 66 19136512, .p .win, .p .edges, .p .inbox, .p .chn,
    .p .seqs, .p .pa, .p .jq, .p .jact] ++
  [8, 12, 24, 84, 3211264, 3342336, 3407872, 3473408, 3538944, 4128768, 4194304, 4259840, 4325376, 4784128, 21692416, 21757952, 22675456,
    22806528].map (.w 14) ++
  [0, 8, 12, 80, 6094848, 8519680, 8585216, 8912896, 8978432, 9240576, 9306112, 9502720, 9568256, 9895936, 9961472, 10027008, 10092544, 10223616,
    10551296, 10878976, 10944512, 11141120, 23068672, 23789568, 23855104, 24051712, 24444928].map (.w 16)

theorem State.statusNews_out_news (s : State) (new : Nat) : Out statusNewsOut (s.put V.linkStat new) (s.statusNews new) := by
  refine Out.when _ _ (Out.when _ _ (Out.when _ _ (Out.when _ _ (Out.when _ _ (Out.forAll _ (fun a u hu => ?_) _ (.refl _)) ?_) ?_) ?_) ?_) ?_
  · exact State.retractNews_out _ _ a (State.latchSeen_out a hu rfl) rfl
  · exact fun u hu => State.setBit_out (n_f := .w 66 5046272) _ _ _ hu Key.hasW rfl
  · exact fun u hu => State.crlCoast_out hu rfl
  · exact fun u hu => State.crlChopFault_out hu rfl
  · exact fun u hu => State.crlOvTrip_out hu rfl
  · exact fun u hu => State.sagAbort_out hu rfl

/-- The measurements, the waiting moves, the heartbeat and the PWM edge of a frame to the controller. -/
def State.backDone (s : State) (hb rx : Nat) (pwmNew : Bool) : State :=
  let t := s.measNext.forAll (List.range 4) fun a u => u.afterMate a
  let t := if hb ≠ rx then t.puts [(V.hbRx, hb), (V.hbMiss, 0)] else t
  if pwmNew then t.park.trzTrigger 1 (fun _ => true) true else t

def backDoneOut : List Key :=
  trzTriggerOut ++ [.w 16 24444928, .w 17 32, .w 17 13238272, .w 17 13303808, .w 17 13369344, .w 14 20, .w 14 3604480, .w 14 3670016,
    .w 14 3735552, .w 16 10682368, .w 16 10747904, .w 66 11665408, .w 66 11730944]

theorem State.backDone_out (s : State) (hb rx : Nat) (pwmNew : Bool) : Out backDoneOut s (s.backDone hb rx pwmNew) := by
  have hmoves : Out backDoneOut s (s.measNext.forAll (List.range 4) fun a u => u.afterMate a) :=
    Out.forAll _ (fun a u hu => State.afterMate_out a hu rfl) _ (State.measNext_out (.refl s) rfl)
  unfold State.backDone
  generalize (s.measNext.forAll (List.range 4) fun a u => u.afterMate a) = t at hmoves
  have hbeat : Out backDoneOut s (if hb ≠ rx then t.puts [(V.hbRx, hb), (V.hbMiss, 0)] else t) :=
    Out.ite (Out.put (n := .w 66 11730944) _ _ (Out.put (n := .w 66 11665408) _ _ hmoves Key.hasW rfl) Key.hasW rfl) hmoves
  exact Out.ite (State.trzTrigger_out _ _ _ (State.park_out hbeat rfl) rfl) hbeat

/-- The currents and the message of a frame to the controller. -/
def State.backTaken (s : State) (phases vcms volts : List Int) (msg : BitVec 32) : State :=
  (((s.backIn vcms volts).putInts V.phCur (phases.take 3)).putInts V.vcmCur (vcms.take 4)).takeMessage msg

theorem dieLinkFrame_back (p v u : List Int) (m : BitVec 32) (n : Bool) (s : State) :
    dieLinkFrame (.toController true p v u m n) s =
      (((s.backTaken p v u m).puts [(V.linkV12, s.get R.STM_VIN_VIN12), (V.linkV5, s.get R.STM_VIN_VIN5)]).statusNews s.statusWord).backDone
        (s.get V.stmHbTx) (s.get V.hbRx) n := by
  simp only [dieLinkFrame, Bool.not_true, Bool.false_eq_true, if_false, State.backDone, State.backTaken, State.backIn]

theorem dieLinkFrame_shows (p v u : List Int) (m : BitVec 32) (n : Bool) (s : State) :
    let t := dieLinkFrame (.toController true p v u m n) s
    t.get V.linkV12 = s.get R.STM_VIN_VIN12 % 65536 ∧ t.get V.linkV5 = s.get R.STM_VIN_VIN5 % 65536 ∧
      t.get V.linkStat = s.statusWord % 4294967296 := by
  have hw := dieLinkFrame_back p v u m n s
  generalize s.backTaken p v u m = w at hw
  have hnews := State.statusNews_out_news (w.puts [(V.linkV12, s.get R.STM_VIN_VIN12), (V.linkV5, s.get R.STM_VIN_VIN5)]) s.statusWord
  have hdone := ((w.puts [(V.linkV12, s.get R.STM_VIN_VIN12), (V.linkV5, s.get R.STM_VIN_VIN5)]).statusNews s.statusWord).backDone_out
    (s.get V.stmHbTx) (s.get V.hbRx) n
  rw [hw]
  refine ⟨?_, ?_, ?_⟩ <;> rw [hdone.read _ (by decide), hnews.read _ (by decide)] <;> simp [State.get_put]

/-! ## The heartbeats (R24, R233) -/

theorem heartbeatAdvance_tx (s : State) : (heartbeatAdvance s).get V.stmHbTx = (s.get V.stmHbTx + 1) % 16 := by
  rw [heartbeatAdvance, State.proj_when _ _ (·.get V.stmHbTx) (State.get_put_other _ _ (by decide)), State.bump, State.bump,
    State.get_put_other _ _ (by decide), State.get_put_same]
  rfl

/-- A missed heartbeat counted. -/
def State.beatMissed (s : State) : State :=
  (s.puts [(V.stmHbMiss, Nat.min 3 (s.get V.stmHbMiss + 1)), (V.stmHbGood, 0), (R.STM_STAT_HB_OK, 0)]).count R.STM_CNT_HBMISS

theorem State.get_beatMissed (s : State) {k : Fld} (hk : k.off ≠ R.STM_CNT_HBMISS.off ∧ k.off ≠ evtOff 0x11) :
    s.beatMissed.get k = (s.puts [(V.stmHbMiss, Nat.min 3 (s.get V.stmHbMiss + 1)), (V.stmHbGood, 0), (R.STM_STAT_HB_OK, 0)]).get k :=
  State.get_count_other _ _ _ (.inr hk)

theorem State.beatMissed_counts (s : State) :
    s.beatMissed.get V.stmHbMiss = Nat.min 3 (s.get V.stmHbMiss + 1) ∧ s.beatMissed.get R.STM_STAT_HB_OK = 0 ∧ s.beatMissed.get V.stmHbGood = 0 := by
  have hfit : Nat.min 3 (s.get V.stmHbMiss + 1) < 4 := Nat.lt_succ_of_le (Nat.min_le_left ..)
  rw [s.get_beatMissed (by decide), s.get_beatMissed (by decide), s.get_beatMissed (by decide)]
  simp [State.get_put, Nat.mod_eq_of_lt hfit]

theorem heartbeatMiss_few {s : State} (hn : s.get V.stmHbMiss < 2) : heartbeatMiss true s = s.beatMissed := by
  have hmin : ¬Nat.min 3 (s.get V.stmHbMiss + 1) = 3 := fun h => by
    have hle : Nat.min 3 (s.get V.stmHbMiss + 1) ≤ s.get V.stmHbMiss + 1 := Nat.min_le_right ..
    omega
  simp only [heartbeatMiss, if_neg hmin, if_true]
  rfl

/-- The third missed heartbeat begins the autonomous sequence of a spindle that turns. -/
theorem State.autonomous_seq {s : State} (haut : s.get R.STM_STAT_AUTON = 0) (hsm : s.get R.STM_STAT_SM_ACTIVE = 0) (hspin : s.get V.stmSpin = 1)
    (hpl : s.get V.stmPl = 0) : s.autonomous.get V.stmSeq = 1 := by
  have hauton : ∃ (u : State) (d : List Nat), s.autonomous = (u.put V.stmSeq 1).post 0x11 0x10 error noInst d := by
    simp only [State.autonomous, State.on, haut, hsm, hspin, hpl]
    exact ⟨_, _, rfl⟩
  obtain ⟨u, d, hu⟩ := hauton
  rw [hu, State.get_post, State.get_put_same]
  rfl

theorem heartbeatMiss_third {s : State} (hn : s.get V.stmHbMiss = 2) (haut : s.get R.STM_STAT_AUTON = 0) (hsm : s.get R.STM_STAT_SM_ACTIVE = 0)
    (hspin : s.get V.stmSpin = 1) (hpl : s.get V.stmPl = 0) :
    (heartbeatMiss true s).get V.stmSeq = 1 ∧ (heartbeatMiss true s).get V.stmHbMiss = 3 := by
  have hmiss : heartbeatMiss true s = s.beatMissed.autonomous := by
    simp only [heartbeatMiss, hn, if_true]
    exact (if_pos rfl).trans (by rw [State.beatMissed, hn])
  have hget {k : Fld} (hk : k.off ≠ R.STM_CNT_HBMISS.off ∧ k.off ≠ evtOff 0x11) (hk' : k ∉ [V.stmHbMiss, V.stmHbGood, R.STM_STAT_HB_OK]) :
      s.beatMissed.get k = s.get k := (s.get_beatMissed hk).trans (State.get_puts_other hk')
  rw [hmiss]
  constructor
  · refine State.autonomous_seq ?_ ?_ ?_ ?_ <;> rw [hget (by decide) (by decide)] <;> assumption
  · rw [(State.autonomous_out (.refl _) (Key.sub_refl _)).read _ (by decide), s.beatMissed_counts.1, hn]
    rfl

theorem heartbeatMiss_controller {s : State} (hn : s.get V.hbMiss < 2) : (heartbeatMiss false s).get V.hbMiss = s.get V.hbMiss + 1 := by
  have hmin : Nat.min 3 (s.get V.hbMiss + 1) = s.get V.hbMiss + 1 := Nat.min_eq_right (by omega)
  have hnot : ¬(s.get V.hbMiss + 1 = 3 ∧ s.get V.hbMiss ≠ 3) := by omega
  simp only [heartbeatMiss, hmin, if_neg hnot, Bool.false_eq_true, if_false, State.get_put_same]
  exact Nat.mod_eq_of_lt (by omega)

end Sys2Proof.Machine

/-!
PROOFS. Strongman's supply samples, trips and measurements (R227 to R229, R239, R240, R242, R243).
-/

namespace Sys2Proof.Machine

set_option Elab.async false

/-! ## The supplies (R228, R229) -/

/-- What a supply sample may change beside the sample: runs, warnings, trips and grants. -/
def supplySampledOut : List Key :=
  [.w 12 8, .w 13 8, .w 13 12, .w 13 76, .w 13 1572864, .w 13 2359296, .w 13 2424832, .w 13 20250624, .w 14 8, .w 14 24, .w 14 4259840, .w 14 4325376,
    .w 17 8, .w 17 12, .w 17 28, .w 17 72, .w 17 5111808, .a 17 6488064 268435456, .w 17 12320768, .a 17 12386304 268435456,
    .a 17 12713984 268435456, .a 17 12779520 268435456, .w 17 12845056, .w 17 12976128, .w 17 13041664, .w 17 13107200, .w 17 13172736,
    .a 17 24903680 268435456, .w 18 8, .w 18 12, .w 18 72, .w 18 786432, .w 18 20578304, .w 19 16, .a 19 1310720 268435456,
    .a 19 1376256 268435456, .a 19 22413312 268435456, .a 19 22478848 268435456, .w 20 8, .w 20 12, .a 20 32 4, .w 25 8, .w 25 20, .w 25 24,
    .w 25 28, .w 64 15794176, .a 65 15335424 268435456, .a 65 15400960 268435456, .w V.pfWire.blk V.pfWire.off, .p .edges, .p .inbox, .p .chn,
    .p .seqs, .p .pa, .p .blks, .p .fops, .p .fwait, .p .popen, .p .pbuf]

theorem supplySample_after (v w : BitVec 16) (s : State) :
    Out supplySampledOut (s.puts [(R.STM_VIN_VIN12, v.toNat), (R.STM_VIN_VIN5, w.toNat), (V.vin12Lo, Nat.min (s.get V.vin12Lo) v.toNat),
      (V.vin12Hi, Nat.max (s.get V.vin12Hi) v.toNat), (V.vin5Lo, Nat.min (s.get V.vin5Lo) w.toNat),
      (V.vin5Hi, Nat.max (s.get V.vin5Hi) w.toNat), (V.sagLow, Nat.min (s.get V.sagLow) v.toNat)]) (supplySample v w s) := by
  unfold supplySample
  refine Out.when _ _ ?_ fun u hu => State.checkGrant_out hu rfl
  refine Out.putB (n := .w V.pfWire.blk V.pfWire.off) _ _ ?_ Key.hasW rfl
  refine Out.when _ _ ?_ fun u hu => Out.put (n := .w 17 8) _ _ hu Key.hasW rfl
  refine Out.when _ _ ?_ fun u hu => Out.put (n := .w 17 8) _ _ hu Key.hasW rfl
  refine Out.when _ _ ?_ fun u hu => State.powerFail_out false (State.stmLatchAll_out hu rfl) rfl
  refine Out.when _ _ ?_ fun u hu => State.powerFail_out false hu rfl
  refine Out.when _ _ ?_ fun u hu => State.powerFail_out true hu rfl
  refine Out.when _ _ ?_ fun u hu => Out.put (n := .w 17 8) _ _ hu Key.hasW rfl
  refine Out.when _ _ ?_ fun u hu => State.ovTrip_out hu rfl
  refine Out.when _ _ ?_ fun u hu => Out.put (n := .w 17 13107200) _ _ hu Key.hasW rfl
  refine Out.when _ _ ?_ fun u hu => Out.put (n := .w 17 8) _ _ hu Key.hasW rfl
  refine Out.when _ _ ?_ fun u hu => Out.put (n := .w 17 8) _ _ hu Key.hasW rfl
  refine Out.when _ _ ?_ fun u hu => Out.post _ _ _ _ _ (Out.evt (n := .w 17 12) _ hu Key.hasW rfl rfl) rfl
  refine Out.when _ _ ?_ fun u hu => Out.post _ _ _ _ _ (Out.evt (n := .w 17 12) _ hu Key.hasW rfl rfl) rfl
  iterate 12 refine State.beyond_out _ _ ?_ rfl
  exact .refl _

theorem supplySample_vin (v w : BitVec 16) (s : State) :
    (supplySample v w s).get R.STM_VIN_VIN12 = v.toNat ∧ (supplySample v w s).get R.STM_VIN_VIN5 = w.toNat := by
  rw [(supplySample_after v w s).read _ (by decide), (supplySample_after v w s).read _ (by decide)]
  have hv : v.toNat < 65536 := v.isLt
  have hw : w.toNat < 65536 := w.isLt
  simp [State.get_put, Nat.mod_eq_of_lt hv, Nat.mod_eq_of_lt hw]

/-- A brake resistor that carries too little is a fault, and beyond the second limit the spindle gives no torque. -/
theorem chopperFail_low {c : Nat} {s : State} (hon : s.get R.STM_STAT_CHOP_ON = 1) (hc : c < 200) :
    (chopperFail c s).get R.STM_STAT_CHOP_FLT = 1 ∧ (2 ≤ s.get (V.stmRun 3) → (chopperFail c s).get V.stmZero = 1) := by
  have hfail : s.on R.STM_STAT_CHOP_ON ∧ c < 200 := ⟨by simp [State.on, hon], hc⟩
  rw [chopperFail, if_pos hfail]
  constructor
  · rw [State.proj_when _ _ (·.get R.STM_STAT_CHOP_FLT) (State.get_put_other _ _ (by decide)), State.get_post, State.get_evt, if_neg (by decide),
      State.get_count_other _ _ _ (.inr (by decide)), State.get_put_same]
    rfl
  · intro hrun
    rw [decide_eq_true hrun, State.when_true, State.get_put_same]
    rfl

/-! ## Overcurrents and the safety monitor's overvoltage (R227, R239, R242) -/

theorem spindleOvercurrent_pending (c : Nat) (s : State) : (spindleOvercurrent c s).get V.stmOcPend = 1 := by
  rw [spindleOvercurrent, (State.checkGrant_out (.refl _) (Key.sub_refl _)).read _ (by decide)]
  simp [State.get_put]

theorem vcmOvercurrent_trips (a : Act) (c : Nat) (s : State) :
    (vcmOvercurrent a c s).get (V.stmVcmTrip a) = 1 ∧ (vcmOvercurrent a c s).get (V.stmVcm a) = 0 := by
  have hgrant := State.checkGrant_out (.refl ((s.ocTrip 1 a c).puts [(V.stmVcmTrip a, 1), (V.stmVcm a, 0)])) (Key.sub_refl _)
  rw [vcmOvercurrent, hgrant.read _ (by clear hgrant; revert a; decide), hgrant.read _ (by clear hgrant; revert a; decide)]
  simp [State.get_put]

theorem smOvervoltage_once {s : State} (hno : s.get V.stmOv = 0) : (smOvervoltage s).get V.stmOv = 1 := by
  have hnot : ¬s.on V.stmOv = true := by simp [State.on, hno]
  rw [smOvervoltage, State.ovTrip, if_neg hnot, State.get_stmLatchAll_other _ (by decide)]
  simp [State.get_put]

theorem State.maClear_bit (s : State) (m hw : BitVec 4) (i : Fin 4) :
    bitOf ((s.maClear m.toNat hw.toNat).get R.STM_STAT_MA_OFF) i = ((bitOf (s.get R.STM_STAT_MA_OFF) i && !m.getLsbD i) || hw.getLsbD i) := by
  have hi : i.val < 4 := i.isLt
  have hmask : (15 - m.toNat % 16).testBit i = !m.getLsbD i := by
    have hm : 15 - m.toNat % 16 = 2 ^ 4 - (m.toNat + 1) := by have := m.isLt; omega
    rw [hm, Nat.testBit_two_pow_sub_succ m.isLt, decide_eq_true hi, Bool.true_and]
    rfl
  have hset : (hw.toNat % 16).testBit i = hw.getLsbD i := by
    rw [Nat.mod_eq_of_lt hw.isLt]
    rfl
  rw [State.maClear, State.get_put_same, bitOf, bitOf, show R.STM_STAT_MA_OFF.w = 4 from rfl, Nat.testBit_mod_two_pow, decide_eq_true hi,
    Bool.true_and, Nat.testBit_or, Nat.testBit_and, hmask, hset]

/-! ## Measurements of the windings (R240) -/

theorem windingMeasureGo_starts {k : Fin 4} {a : Act} {s : State} (hk : k.val ≠ 0) (hbusy : s.get V.stmMeasBusy = 0)
    (hcond : s.measCond k a = true) :
    (windingMeasureGo k a s).get V.stmMeasBusy = 1 ∧ (windingMeasureGo k a s).get R.STM_MEAS_KIND = k ∧ (windingMeasureGo k a s).get R.STM_MEAS_ACT = a := by
  have hgo : windingMeasureGo k a s = s.measStart k a := by
    simp [windingMeasureGo, State.measGo11, hk, State.on, hbusy, hcond]
  have hk4 : k.val < 4 := k.isLt
  have ha4 : a.val < 4 := a.isLt
  rw [hgo, State.measStart]
  simp [State.get_put, Nat.mod_eq_of_lt hk4, Nat.mod_eq_of_lt ha4]

/-- With nothing queued and the spindle not stopped a measurement is followed by none. -/
theorem State.measEnded_idle {s : State} (a : Nat) (hq : s.get V.measQ = 0) (hcrl : s.crlSt ≠ crlSTOPPED) (hbusy : s.get V.stmMeasBusy = 0) :
    s.measEnded 1 a = s := by
  have hnext : s.measNext = s := by
    have hwant : (decide (s.crlSt = crlSTOPPED ∧ s.get R.CRL_STAT_SP ≠ 0) && s.grantSeen && s.on V.crlPerm && !s.on V.measSpn &&
        decide (s.get V.measQ % 4 = 0) && !(s.on V.stmMeasBusy && decide (s.get V.stmMeasK ≤ 2))) = false := by simp [hcrl]
    have hnone : ((List.range 6).find? fun k => bitOf (s.get V.measQ) k && s.measCond (measEntry k).1 (measEntry k).2) = none := by
      simp [hq, bitOf]
    simp only [State.measNext, hwant, State.when_false]
    rw [if_neg (by simp [State.on, hbusy]), hnone]
  have htry : s.tryStart = s := if_neg fun h => hcrl h.1
  simp [State.measEnded, hnext, htry]

theorem windingMeasureDone_inRange {v : Nat} {s : State} (hbusy : s.get V.stmMeasBusy = 1) (hk : s.get V.stmMeasK = 1) (hlo : 500 ≤ v)
    (hhi : v ≤ 20000) :
    windingMeasureDone v s = (((s.put V.stmMeasBusy 0).evt R.STM_EVT_MEAS_DONE).put R.STM_WIND_R_SPN v).measEnded 1 (s.get V.stmMeasA) := by
  simp [windingMeasureDone, State.on, hbusy, hk, inR, hlo, hhi]

theorem windingMeasureDone_outOfRange {v : Nat} {s : State} (hbusy : s.get V.stmMeasBusy = 1) (hk : s.get V.stmMeasK = 1) (hhi : 20000 < v) :
    windingMeasureDone v s = ((((s.put V.stmMeasBusy 0).evt R.STM_EVT_MEAS_DONE).evt R.STM_EVT_MEAS_OOR).post 0x11 0x18 warning noInst
      [1, s.get V.stmMeasA, v]).measEnded 1 (s.get V.stmMeasA) := by
  have hnot : ¬v ≤ 20000 := Nat.not_le.mpr hhi
  simp [windingMeasureDone, State.on, hbusy, hk, inR, hnot]

/-! ## The enable (R243) -/

/-- What the enable does to the registers once the supervision table is taken. -/
def State.stmStarted (s : State) : State :=
  let t := s.puts [(V.stmTaken, 1), (R.STM_STAT_NO_REGEN, b2n (!bitOf (s.supO 0x11 1) 0)), (R.STM_STAT_VCM_OFF, 0), (R.STM_STAT_CHOP_FLT, 0),
    (V.stmZero, 0)]
  let t := t.when (!t.on V.stmSpin) fun u => u.puts [(V.measQ, u.get V.measQ ||| 3), (V.reqSlot, u.get V.reqSlot ||| 1)]
  t.forAll (List.range 4) fun a u => u.refreshAct a 0x11 0x13

theorem State.stmStarted_out {l : List Key} {s₀ s : State} (h : Out l s₀ s)
    (hl : Key.sub [.a 2 32 4, .w 11 8, .w 11 12, .w 11 84, .w 16 24379392, .w 16 24444928, .w 17 8, .w 17 12058624, .w 17 13107200, .p .edges,
      .p .inbox] l = true) : Out l s₀ s.stmStarted := by
  refine Out.forAll _ (fun a u hu => State.refreshAct_out a _ _ hu (Out.sub hl rfl)) _ (Out.when _ _ ?_ fun u hu => ?_)
  · refine Out.puts (m := [.w 17 8, .w 17 12058624, .w 17 13107200]) (Out.sub hl rfl) ?_ h
    simp [Key.has]
  · refine Out.puts (m := [.w 16 24379392, .w 16 24444928]) (Out.sub hl rfl) ?_ hu
    simp [Key.has]

theorem stmEnable_ok {p : Nat} {s : State} (hoff : s.get R.STM_CTL_EN = 0) (hok : (s.stmReasons p).find? (·.1) = none) :
    (s.stmEnable p).1 = ({ s.put R.STM_CTL_EN 1 with sup := putBytes [] 0 (getBytes s.opt 0x1C0 32) } : State).stmStarted := by
  have hno : s.on R.STM_CTL_EN = false := by simp [State.on, hoff]
  simp only [State.stmEnable, State.enable, hno, Bool.false_eq_true, if_false, hok]
  rfl

/-- Of what the enable does after taking the table, nothing takes the taking back. -/
theorem State.stmStarted_taken (s : State) : s.stmStarted.get V.stmTaken = 1 := by
  unfold State.stmStarted
  dsimp only
  have hacts (u : State) := Out.forAll (fun a (v : State) => v.refreshAct a 0x11 0x13)
    (fun a v hv => State.refreshAct_out (L₀ := [.a 2 32 4, .w 11 8, .w 11 12, .w 11 84, .p .edges, .p .inbox]) a _ _ hv rfl) (List.range 4) (.refl u)
  rw [(hacts _).read _ (by decide), State.proj_when _ _ (·.get V.stmTaken) (State.get_puts_other (by simp))]
  simp [State.get_put]

/-- Settles O18, clause by clause. -/
theorem linkAndSupplyCommandsComplete : Obligations.LinkAndSupplyCommandsComplete := by
  unfold Obligations.LinkAndSupplyCommandsComplete
  refine ⟨?_, ?_, ?_, ?_, ?_, ?_, ?_, ?_, ?_, ?_, ?_, ?_, ?_, ?_, ?_, ?_, ?_, ?_, ?_, ?_⟩
  case refine_1 => exact fun s hnew => ⟨_, rfl, dieLinkFrame_beat hnew⟩
  case refine_2 => exact fun s hq hok hpl hreq => ⟨_, rfl, dieLinkFrame_grants hq hok hpl hreq⟩
  case refine_3 =>
    intro s
    obtain ⟨hfree, hseq⟩ := s.frameIn_free
    refine ⟨_, congrArg Host.Outcome.next (dieLinkFrame_bad s), ?_, ?_⟩
    · rw [State.get_count_other _ _ _ (.inl (by decide)), hfree]
    · rw [State.get_count_other _ _ _ (.inl (by decide)), hseq]
  case refine_4 => exact fun p v u m n s => ⟨_, rfl, dieLinkFrame_shows p v u m n s⟩
  case refine_5 =>
    intro p v u m n s
    refine ⟨_, congrArg Host.Outcome.next (dieLinkFrame_lost p v u m n s), ?_⟩
    rw [State.get_count_other _ _ _ (.inl (by decide)), State.backIn_seq]
  case refine_6 => exact fun s => ⟨_, rfl, heartbeatAdvance_tx s⟩
  case refine_7 =>
    intro s hn
    obtain ⟨hmiss, hok, hgood⟩ := s.beatMissed_counts
    refine ⟨_, congrArg Host.Outcome.next (heartbeatMiss_few hn), ?_, hok, hgood⟩
    rw [hmiss]
    exact Nat.min_eq_right (by omega)
  case refine_8 => exact fun s hn haut hsm hspin hpl => ⟨_, rfl, heartbeatMiss_third hn haut hsm hspin hpl⟩
  case refine_9 => exact fun s hn => ⟨_, rfl, heartbeatMiss_controller hn⟩
  case refine_10 => exact fun v w s => ⟨_, rfl, supplySample_vin v w s⟩
  case refine_11 => exact fun c s hon hc => ⟨_, rfl, chopperFail_low hon hc⟩
  case refine_12 => exact fun c s => ⟨_, rfl, spindleOvercurrent_pending c s⟩
  case refine_13 => exact fun a c s => ⟨_, rfl, vcmOvercurrent_trips a c s⟩
  case refine_14 =>
    intro a s
    refine ⟨_, rfl, ?_⟩
    simp [maCurrentLimit, State.get_put]
  case refine_15 => exact fun m hw i s => ⟨_, rfl, s.maClear_bit m hw i⟩
  case refine_16 => exact fun s hno => ⟨_, rfl, smOvervoltage_once hno⟩
  case refine_17 => exact fun k a s hk hbusy hcond => ⟨_, rfl, windingMeasureGo_starts hk hbusy hcond⟩
  case refine_18 =>
    intro v s hbusy hk hlo hhi
    have hkeep := State.measEnded_out 1 (s.get V.stmMeasA) (.refl (((s.put V.stmMeasBusy 0).evt R.STM_EVT_MEAS_DONE).put R.STM_WIND_R_SPN v))
      (Key.sub_refl _)
    refine ⟨_, congrArg Host.Outcome.next (windingMeasureDone_inRange hbusy hk hlo hhi), ?_, fun hq hcrl => ?_, ?_⟩
    · rw [hkeep.read _ (by decide), State.get_put_same]
      exact Nat.mod_eq_of_lt (Nat.lt_of_le_of_lt hhi (by decide))
    · rw [State.measEnded_idle _ (by simp [State.get_put, hq]) (by simpa [State.crlSt, State.get_put] using hcrl) (by simp [State.get_put])]
      simp [State.get_put]
    · rw [hkeep.read _ (by decide)]
      simp [State.get_put]
  case refine_19 =>
    intro v s hbusy hk hhi
    have hkeep := State.measEnded_out 1 (s.get V.stmMeasA) (.refl ((((s.put V.stmMeasBusy 0).evt R.STM_EVT_MEAS_DONE).evt
      R.STM_EVT_MEAS_OOR).post 0x11 0x18 warning noInst [1, s.get V.stmMeasA, v])) (Key.sub_refl _)
    refine ⟨_, congrArg Host.Outcome.next (windingMeasureDone_outOfRange hbusy hk hhi), ?_, ?_⟩ <;> rw [hkeep.read _ (by decide)] <;>
      simp [State.get_put]
  case refine_20 =>
    intro p s hoff hok
    have hstart := State.stmStarted_out (.refl ({ s.put R.STM_CTL_EN 1 with sup := putBytes [] 0 (getBytes s.opt 0x1C0 32) } : State))
      (Key.sub_refl _)
    refine ⟨_, congrArg Host.Outcome.next (stmEnable_ok hoff hok), ?_, State.stmStarted_taken _, ?_⟩
    · rw [hstart.read _ (by decide)]
      exact State.get_put_same s R.STM_CTL_EN 1
    · exact hstart.part .sup (by simp)

end Sys2Proof.Machine

/-!
PROOFS. Strongman's retracts, grants and monitors (R227, R231 to R239).
-/

namespace Sys2Proof.Machine

set_option Elab.async false

/-! ## Retracts (R227, R236) -/

/-- A head loaded and not parked begins its retract when asked. -/
theorem State.stmRetract_begins {s : State} {a : Nat} (park : Bool) (hload : s.get (V.stmLoaded a) = 1) (htaken : s.get V.stmTaken = 1)
    (hret : bitOf (s.get R.STM_STAT_RETRACT) a = false) (hoff : bitOf (s.get R.STM_STAT_VCM_OFF) a = false) (hsm : s.get R.STM_STAT_SM_ACTIVE = 0) :
    s.stmRetract a park = ((s.setBit R.STM_STAT_RETRACT a true).puts [(V.stmRetPh a, 1), (V.stmRetPark a, b2n park), (V.stmParkN a, 0)]).count
      R.STM_CNT_RETRACT := by
  simp [State.stmRetract, State.on, hload, htaken, hret, hoff, hsm]

theorem vcmTripReopen_parks {a : Act} {s : State} (htrip : s.get (V.stmVcmTrip a) = 1) (hret : bitOf (s.get R.STM_STAT_RETRACT) a = false)
    (hload : s.get (V.stmLoaded a) = 1) (htaken : s.get V.stmTaken = 1) (hoff : bitOf (s.get R.STM_STAT_VCM_OFF) a = false)
    (hsm : s.get R.STM_STAT_SM_ACTIVE = 0) :
    (vcmTripReopen a s).get (V.stmVcmTrip a) = 0 ∧ (vcmTripReopen a s).get (V.stmRetPh a) = 1 ∧ (vcmTripReopen a s).get (V.stmRetPark a) = 1 := by
  obtain ⟨t, ht⟩ : ∃ t, t = s.put (V.stmVcmTrip a) 0 := ⟨_, rfl⟩
  have hreopen : vcmTripReopen a s = t.stmRetract a true := by simp [vcmTripReopen, State.on, htrip, hret, ht]
  have hget {k : Fld} (hk : k ≠ V.stmVcmTrip a) : t.get k = s.get k := ht ▸ State.get_put_other _ _ hk
  have hbegin := State.stmRetract_begins (s := t) (a := a) true (by rw [hget (by clear * -; revert a; decide), hload])
    (by rw [hget (by clear * -; revert a; decide), htaken]) (by rw [hget (by clear * -; revert a; decide), hret])
    (by rw [hget (by clear * -; revert a; decide), hoff]) (by rw [hget (by clear * -; revert a; decide), hsm])
  have htrip0 : t.get (V.stmVcmTrip a) = 0 := by simp [ht]
  rw [hreopen, hbegin, State.get_count_other _ _ _ (.inr (by clear * -; revert a; decide)),
    State.get_count_other _ _ _ (.inr (by clear * -; revert a; decide)), State.get_count_other _ _ _ (.inr (by clear * -; revert a; decide))]
  refine ⟨?_, ?_, ?_⟩
  · rw [State.get_puts_other (by clear * -; revert a; decide), State.get_setBit_other _ _ _ (by clear * -; revert a; decide), htrip0]
  · simp [State.get_put]
  · simp [State.get_put, b2n]

/-- A driver that trips again in a park is shut off, and its retract is over. -/
theorem vcmTripReopen_shuts {a : Act} {s : State} (htrip : s.get (V.stmVcmTrip a) = 1) (hret : bitOf (s.get R.STM_STAT_RETRACT) a = true)
    (hpark : s.get (V.stmRetPark a) = 1) :
    (vcmTripReopen a s).get (V.stmVcmTrip a) = 0 ∧ (vcmTripReopen a s).get (V.stmRetPh a) = 0 ∧ (vcmTripReopen a s).get (V.stmRetPark a) = 0 := by
  obtain ⟨t, ht⟩ : ∃ t, t = ((((s.put (V.stmVcmTrip a) 0).setBit R.STM_STAT_VCM_OFF a true).setBit R.STM_STAT_RETRACT a false).puts
      [(V.stmRetPh a, 0), (V.stmRetPark a, 0)]) := ⟨_, rfl⟩
  have hreopen : vcmTripReopen a s = t.plCheck.refreshAct a 0x11 0x13 := by simp [vcmTripReopen, State.on, htrip, hret, hpark, ht]
  have hkeep : Out [.a 2 32 4, .w 11 8, .w 11 12, .w 11 84, .w 17 28, .w 17 12320768, .w 17 12976128, .p .edges, .p .inbox] t (vcmTripReopen a s) := by
    rw [hreopen]
    exact State.refreshAct_out a _ _ (State.plCheck_out (.refl t) rfl) rfl
  rw [hkeep.read _ (by clear * -; revert a; decide), hkeep.read _ (by clear * -; revert a; decide), hkeep.read _ (by clear * -; revert a; decide), ht]
  refine ⟨?_, ?_, ?_⟩
  · rw [State.get_puts_other (by clear * -; revert a; decide), State.get_setBit_other _ _ _ (by clear * -; revert a; decide),
      State.get_setBit_other _ _ _ (by clear * -; revert a; decide), State.get_put_same]
    exact Nat.zero_mod _
  · simp [State.get_put]
  · simp

theorem retractParked_holds {a : Act} {s : State} (hph : s.get (V.stmRetPh a) = 1) (hn : s.get (V.stmParkN a) = 1000) :
    (retractParked a s).get (V.stmRetPh a) = 2 := by
  rw [retractParked, if_pos ⟨hph, hn⟩, State.proj_when _ _ (·.get (V.stmRetPh a)) (State.get_setBit_other _ _ _ (by clear * -; revert a; decide)),
    State.putI, State.get_put_other _ _ (by clear * -; revert a; decide), State.get_put_same]
  rfl

theorem retractTimeout_pushes {a : Act} {s : State} (hph : s.get (V.stmRetPh a) = 1) :
    (retractTimeout a s).get (V.stmRetPh a) = 3 ∧ (retractTimeout a s).get R.STM_EVT_RET_TO_EVT = 1 := by
  rw [retractTimeout, if_pos hph]
  constructor
  · rw [State.proj_when _ _ (·.get (V.stmRetPh a)) (State.get_setBit_other _ _ _ (by clear * -; revert a; decide)), State.get_post, State.get_evt,
      if_neg (by clear * -; revert a; decide), State.putI, State.get_put_other _ _ (by clear * -; revert a; decide), State.get_put_same]
    rfl
  · rw [State.proj_when _ _ (·.get R.STM_EVT_RET_TO_EVT) (State.get_setBit_other _ _ _ (by decide)), State.get_post, State.get_evt, if_pos rfl]
    rfl

/-- The end of a retract: its phase is 0, the head counts as unloaded and its coil is free. -/
theorem State.retractEnd_over (s : State) (a : Act) :
    (s.retractEnd a).get (V.stmRetPh a) = 0 ∧ (s.retractEnd a).get (V.stmRetPark a) = 0 ∧ (s.retractEnd a).get (V.stmLoaded a) = 0 ∧
      (s.retractEnd a).get (V.stmVcm a) = 0 := by
  have hpl := State.plCheck_out (.refl (((s.setBit R.STM_STAT_RETRACT a false).puts [(V.stmRetPh a, 0), (V.stmRetPark a, 0), (V.stmParkN a, 0),
    (V.stmVcm a, 0), (V.stmLoaded a, 0)]).evt R.STM_EVT_RET_DONE)) (Key.sub_refl _)
  rw [State.retractEnd, hpl.read _ (by clear * -; revert a; decide), hpl.read _ (by clear * -; revert a; decide),
    hpl.read _ (by clear * -; revert a; decide), hpl.read _ (by clear * -; revert a; decide)]
  simp [State.get_put]

/-! ## Stops and requests (R231, R232) -/

/-- What follows a cause on the stop wire leaves the wire. -/
theorem State.stopAssert_wire (s : State) (bit : Nat) : (s.stopAssert bit).get V.stopWire = (s.setBit V.stopWire bit true).get V.stopWire := by
  have hstop : Out (stopAssertOut.filter fun k => !k.hasb V.stopWire) (s.setBit V.stopWire bit true) (s.stopAssert bit) := by
    refine State.dropGrants_out (State.crlCoast_out (State.stmRetractAll_out (State.stmLatchAll_out (Out.forAll _ (fun a u hu => ?_) _ (.refl _))
      rfl) rfl) rfl) rfl
    exact State.endWrite_out a _ _ (Out.when _ _ hu fun v hv => State.ladderRestart_out a hv rfl) rfl
  exact hstop.read _ (by decide)

theorem stopWireAssert_new {c : Fin 5} {s : State} (hnew : bitOf (s.get V.stopWire) c = false) :
    (stopWireAssert c s).get V.stopWire = (s.get V.stopWire + 2 ^ c.val) % 32 := by
  rw [stopWireAssert, State.stopAssert_wire]
  simp [State.setBit, hnew]

theorem startRequest_spindle {s : State} (hcrl : s.crlSt = crlSTOPPED ∨ s.crlSt = crlCATCH ∨ s.crlSt = crlCOAST) :
    bitOf ((startRequest none s).get V.reqSlot) 0 = true := by
  simp only [startRequest, if_pos hcrl]
  exact State.bitOf_setBit_same s true (by decide)

theorem startRequest_fresh {a : Act} {s : State} (hfresh : s.get (V.measFresh a) = 1) :
    bitOf ((startRequest (some a) s).get V.reqSlot) (1 + a) = true := by
  have hgo : (s.on (V.measFresh a) || s.on (V.stmLoaded a)) = true := by simp [State.on, hfresh]
  simp only [startRequest, if_pos hgo]
  exact State.bitOf_setBit_same s true (by clear * -; revert a; decide)

theorem startRequest_waits {a : Act} {s : State} (hfresh : s.get (V.measFresh a) = 0) (hload : s.get (V.stmLoaded a) = 0) :
    (startRequest (some a) s).get (V.reqWait a) = 1 ∧ bitOf ((startRequest (some a) s).get V.measQ) (2 + a) = true := by
  have hwait : (s.on (V.measFresh a) || s.on (V.stmLoaded a)) = false := by simp [State.on, hfresh, hload]
  simp only [startRequest, hwait, Bool.false_eq_true, if_false]
  constructor
  · exact State.get_put_same ..
  · rw [State.get_put_other _ _ (by clear * -; revert a; decide)]
    exact State.bitOf_setBit_same s true (by clear * -; revert a; decide)

/-! ## Autonomous sequences (R233, R234) -/

theorem stmResume_runs {s : State} (haut : s.get R.STM_STAT_AUTON = 1) (hseq : s.get V.stmSeq = 0) (hret : s.get R.STM_STAT_RETRACT = 0)
    (hgood : s.get V.stmHbGood = 16) : (stmResume s).get R.STM_STAT_AUTON = 0 ∧ (stmResume s).get V.stmResume = 0 := by
  have hready : stmResume s = (((s.put V.stmResume 1).puts [(R.STM_STAT_AUTON, 0), (V.stmResume, 0)]).setBit V.stopWire 2 false) := by
    simp [stmResume, State.tryResume, State.on, State.get_put, haut, hseq, hret, hgood]
  rw [hready, State.get_setBit_other _ _ _ (by decide), State.get_setBit_other _ _ _ (by decide)]
  simp [State.get_put]

theorem autonomousSequenceEnd_over {s : State} (hseq : s.get V.stmSeq = 2) :
    (autonomousSequenceEnd s).get V.stmSeq = 0 ∧ (autonomousSequenceEnd s).get V.stmMode = 0 ∧ (autonomousSequenceEnd s).get V.stmSpin = 0 := by
  have hres := State.tryResume_out (.refl (s.puts [(V.stmSeq, 0), (V.stmMode, 0), (V.stmSpin, 0), (R.CRL_SPEED_SPEED, 0)])) (Key.sub_refl _)
  rw [autonomousSequenceEnd, if_pos hseq, hres.read _ (by decide), hres.read _ (by decide), hres.read _ (by decide)]
  simp [State.get_put]

/-! ## The safety monitor (R239) -/

/-- A property that every step of a loop keeps, and that the step for x establishes, holds after a loop over x. -/
theorem State.forAll_establishes {α : Type} {P : State → Prop} {f : α → State → State} (hkeep : ∀ y u, P u → P (f y u)) {x : α}
    (hset : ∀ u, P (f x u)) {xs : List α} (hx : x ∈ xs) (s : State) : P (s.forAll xs f) := by
  have hstay : ∀ (ys : List α) (u : State), P u → P (u.forAll ys f) := fun ys => by
    induction ys with
    | nil => exact fun u hu => hu
    | cons y ys ih => exact fun u hu => ih _ (hkeep y u hu)
  induction xs generalizing s with
  | nil => cases hx
  | cons y ys ih =>
    rcases List.mem_cons.mp hx with rfl | hmem
    · exact hstay ys _ (hset s)
    · exact ih hmem _

/-- An actuator's step of the end of the push. -/
def State.pushEnd (s : State) (a : Nat) : State := if bitOf (s.get R.STM_STAT_RETRACT) a then s.retractEnd a else s.put (V.stmVcm a) 0

theorem State.retractEnd_vcm (s : State) (a : Nat) {b : Act} (h : a = b ∨ s.get (V.stmVcm b) = 0) : (s.retractEnd a).get (V.stmVcm b) = 0 := by
  rcases eq_or_ne a b.val with rfl | hab
  · exact (s.retractEnd_over b).2.2.2
  · have hpl := State.plCheck_out (.refl (((s.setBit R.STM_STAT_RETRACT a false).puts [(V.stmRetPh a, 0), (V.stmRetPark a, 0), (V.stmParkN a, 0),
      (V.stmVcm a, 0), (V.stmLoaded a, 0)]).evt R.STM_EVT_RET_DONE)) (Key.sub_refl _)
    have hfar : V.stmVcm b ∉ [(V.stmRetPh a, 0), (V.stmRetPark a, 0), (V.stmParkN a, 0), (V.stmVcm a, 0), (V.stmLoaded a, 0)].map
        (Prod.fst : Fld × Nat → Fld) := by
      simp
      omega
    rw [State.retractEnd, hpl.read _ (by clear * -; revert b; decide), State.get_evt, if_neg (by clear * -; revert b; decide),
      State.get_puts_other hfar, State.get_setBit_other _ _ _ (by clear * -; revert b; decide)]
    exact h.resolve_left hab

theorem State.pushEnd_vcm (s : State) (a : Nat) {b : Act} (h : a = b ∨ s.get (V.stmVcm b) = 0) : (s.pushEnd a).get (V.stmVcm b) = 0 := by
  unfold State.pushEnd
  split
  · exact s.retractEnd_vcm a h
  · rcases h with rfl | h
    · exact (State.get_put_same ..).trans (Nat.zero_mod _)
    · rw [State.get_put, h]
      split <;> simp

theorem State.pushEnd_push (s : State) (a : Nat) : (s.pushEnd a).get V.smPush = s.get V.smPush := by
  have hend : Out [.w 17 8, .w 17 12, .w 17 28, .a 17 12124160 268435456, .w 17 12320768, .a 17 12713984 268435456, .a 17 12779520 268435456,
      .w 17 12976128, .a 17 13697024 268435456, .a 17 24903680 268435456, .p .edges] s (s.pushEnd a) := by
    refine Out.ite (State.retractEnd_out a (.refl s) rfl) (Out.put (n := .a 17 12124160 268435456) _ _ (.refl s) (Key.hasA rfl) rfl)
  exact hend.read _ (by decide)

theorem safetyMonitorPushEnd_frees {s : State} (hpush : s.get V.smPush = 1) :
    (safetyMonitorPushEnd s).get V.smPush = 0 ∧ ∀ a : Act, (safetyMonitorPushEnd s).get (V.stmVcm a) = 0 := by
  have hon : s.on V.smPush = true := by simp [State.on, hpush]
  have hend : safetyMonitorPushEnd s = (s.put V.smPush 0).forAll (List.range 4) fun a t => t.pushEnd a := if_pos hon
  rw [hend]
  refine ⟨?_, fun a => ?_⟩
  · rw [State.get_forAll_other fun a u => u.pushEnd_push a]
    exact State.get_put_same ..
  · exact State.forAll_establishes (P := fun u => u.get (V.stmVcm a) = 0) (fun y u hu => u.pushEnd_vcm y (.inr hu))
      (fun u => u.pushEnd_vcm a (.inl rfl)) (List.mem_range.mpr a.isLt) _

/-- The coils as the safety monitor drives them: to the ramp while the table is taken, else not at all. -/
def State.taken (s u : State) : State := u.forAll (List.range 4) fun a v => v.putI (V.stmVcm a) (if s.on V.stmTaken then s.parkCurrent a else 0)

theorem State.taken_out (s u : State) : Out [.a 17 12124160 268435456] u (s.taken u) :=
  Out.forAll _ (fun _ _ hv => Out.putI (n := .a 17 12124160 268435456) _ _ hv (Key.hasA rfl) rfl) _ (.refl u)

theorem State.taken_vcm {s : State} (u : State) (hno : s.get V.stmTaken = 0) (a : Act) : (s.taken u).get (V.stmVcm a) = 0 := by
  have hzero (b : Nat) (v : State) : v.putI (V.stmVcm b) (if s.on V.stmTaken then s.parkCurrent b else 0) = v.put (V.stmVcm b) 0 := by
    simp [State.on, hno, State.putI, ofSigned]
  refine State.forAll_establishes (P := fun v => v.get (V.stmVcm a) = 0) (fun b v hv => ?_) (fun v => ?_) (List.mem_range.mpr a.isLt) u
  · rw [hzero, State.get_put, hv]
    split <;> simp
  · rw [hzero]
    exact (State.get_put_same ..).trans (Nat.zero_mod _)

/-- The takeover: the registers it writes before and after it drives the coils. -/
theorem safetyMonitorTakeover_of_quiet {n : Nat} {s : State} (hno : s.get R.STM_STAT_SM_ACTIVE = 0) :
    safetyMonitorTakeover n s = ((s.taken ((s.puts [(R.STM_STAT_SM_ACTIVE, 1), (V.smTick, 0), (V.faultWire, 1), (V.stmMode, 0),
      (V.smPush, b2n (s.on V.stmTaken))]).evt R.STM_EVT_SM_TAKEOVER).stmLatchAll).post 0x11 0x15 error noInst
        [n, s.get R.STM_VIN_VIN12, s.get R.STM_VIN_VIN5]).puts [(R.STM_STAT_GRANT, 0), (V.stmLoadGrant 0, 0), (V.stmLoadGrant 1, 0),
          (V.stmLoadGrant 2, 0), (V.stmLoadGrant 3, 0), (V.stmSeq, 0)] := by
  have hnot : ¬s.on R.STM_STAT_SM_ACTIVE = true := by simp [State.on, hno]
  exact if_neg hnot

theorem safetyMonitorTakeover_takes {n : Nat} {s : State} (hno : s.get R.STM_STAT_SM_ACTIVE = 0) :
    let t := safetyMonitorTakeover n s
    t.get V.faultWire = 1 ∧ t.get (V.stmLoadGrant 0) = 0 ∧ t.get R.STM_STAT_GRANT = 0 ∧ t.get V.smPush = b2n (s.on V.stmTaken) ∧
      (s.get V.stmTaken = 0 → ∀ a : Act, t.get (V.stmVcm a) = 0) := by
  rw [safetyMonitorTakeover_of_quiet hno]
  refine ⟨?_, ?_, ?_, ?_, fun hfree a => ?_⟩
  · rw [State.get_puts_other (by decide), State.get_post, (s.taken_out _).read _ (by decide), State.get_stmLatchAll_other _ (by decide)]
    simp [State.get_put]
  · simp [State.get_put]
  · simp [State.get_put]
  · rw [State.get_puts_other (by decide), State.get_post, (s.taken_out _).read _ (by decide), State.get_stmLatchAll_other _ (by decide)]
    simp
  · rw [State.get_puts_other (by clear * -; revert a; decide), State.get_post, State.taken_vcm _ hfree]

/-! ## The loss of Strongman's logic supply (R238) -/

theorem get_filter_drop (p : Fld × Nat → Bool) (m : List (Fld × Nat)) (k : Fld) (hp : ∀ v, p (k, v) = false) :
    Tab.get Fld.rst (m.filter p) k = k.rst := by
  induction m with
  | nil => rfl
  | cons e m ih =>
    obtain ⟨j, v⟩ := e
    by_cases hj : j = k
    · subst hj
      simp [hp, ih]
    · by_cases h : p (j, v) = true <;> simp [h, Tab.get, hj, ih]

theorem State.get_resetBlk (s : State) {k : Fld} {b : Nat} (hk : k.blk = b) : (s.resetBlk b).get k = k.rst :=
  get_filter_drop _ _ _ fun _ => decide_eq_false (not_not.mpr hk)

/-- Settles O19, clause by clause. -/
theorem retractAndGrantCommandsComplete : Obligations.RetractAndGrantCommandsComplete := by
  unfold Obligations.RetractAndGrantCommandsComplete
  refine ⟨?_, ?_, ?_, ?_, ?_, ?_, ?_, ?_, ?_, ?_, ?_, ?_, ?_, ?_, ?_, ?_, ?_⟩
  case refine_1 => exact fun a s htrip hret hload htaken hoff hsm => ⟨_, rfl, vcmTripReopen_parks htrip hret hload htaken hoff hsm⟩
  case refine_2 => exact fun a s htrip hret hpark => ⟨_, rfl, vcmTripReopen_shuts htrip hret hpark⟩
  case refine_3 => exact fun c s hnew => ⟨_, rfl, stopWireAssert_new hnew⟩
  case refine_4 => exact fun a s hph hn => ⟨_, rfl, retractParked_holds hph hn⟩
  case refine_5 =>
    intro a s hph
    obtain ⟨hphase, hpark, hload, -⟩ := s.retractEnd_over a
    exact ⟨_, congrArg Host.Outcome.next (if_pos hph), hphase, hpark, hload⟩
  case refine_6 => exact fun a s hph => ⟨_, rfl, retractTimeout_pushes hph⟩
  case refine_7 =>
    intro a s hph
    obtain ⟨hphase, -, hload, -⟩ := s.retractEnd_over a
    exact ⟨_, congrArg Host.Outcome.next (if_pos hph), hphase, hload⟩
  case refine_8 => exact fun s hcrl => ⟨_, rfl, startRequest_spindle hcrl⟩
  case refine_9 => exact fun a s hfresh => ⟨_, rfl, startRequest_fresh hfresh⟩
  case refine_10 => exact fun a s hfresh hload => ⟨_, rfl, startRequest_waits hfresh hload⟩
  case refine_11 =>
    intro s hseq hsm hpl
    have hgo : s.get V.stmSeq = 1 ∧ !s.on R.STM_STAT_SM_ACTIVE ∧ !s.on V.stmPl := by simp [hseq, State.on, hsm, hpl]
    refine ⟨_, congrArg Host.Outcome.next (if_pos hgo), ?_⟩
    simp [State.get_put]
  case refine_12 => exact fun s haut hseq hret hgood => ⟨_, rfl, stmResume_runs haut hseq hret hgood⟩
  case refine_13 => exact fun s => ⟨_, rfl, State.get_put_same ..⟩
  case refine_14 => exact fun n s hno => ⟨_, rfl, safetyMonitorTakeover_takes hno⟩
  case refine_15 => exact fun s hpush => ⟨_, rfl, safetyMonitorPushEnd_frees hpush⟩
  case refine_16 => exact fun s hseq => ⟨_, rfl, autonomousSequenceEnd_over hseq⟩
  case refine_17 => exact fun s => ⟨_, rfl, rfl, fun k hk => s.get_resetBlk hk⟩

end Sys2Proof.Machine
